-- ==== Sys2Proof/Word.lean ====
section
/-! DEFINITION. The word types of the block: bytes, 32-bit register words and the 128-bit flit header (R7, R8). -/

namespace Sys2Proof

/-- One byte. -/
abbrev Byte := BitVec 8

/-- One 32-bit register word (R399). -/
abbrev Word := BitVec 32

/-- The 16-byte flit header (R58). -/
abbrev Header := BitVec 128

end Sys2Proof
end

