-- ==== Sys2Proof/Syntax.lean ====
section
/-! DEFINITION. The commands the block takes: one constructor per row of spec/opcode_table.json, with the row's operands. -/

namespace Sys2Proof

/-- A register page: the block type code and the instance of Table 17.4. -/
structure PageId where
  ty : Nat
  inst : Nat
  deriving DecidableEq, Repr

/-- One register field of one page: page type and instance, byte offset, lowest bit. -/
structure RegKey where
  ty : Nat
  inst : Nat
  off : Nat
  lo : Nat
  deriving DecidableEq, Repr

/-- The Belfry marker's payload (Table 02.2). -/
structure Marker where
  tick : Nat
  perU : Nat
  joined : Bool
  skipped : Bool
  trimSat : Bool
  trim : Int
  step : Nat
  deriving DecidableEq, Repr

/-- One flit: its 16-byte header (Table 03.1) and its payload bytes. -/
structure Flit where
  hdr : Header
  payload : List Byte
  deriving DecidableEq, Repr

/-- A source of open-plane requests (R80): an endpoint Turret, the host MAC, or a module unit by its e value (R60). -/
inductive Source where
  | endpoint (n : Nat)
  | host
  | moduleUnit (e : Nat)
  deriving DecidableEq, Repr

/-- Where a flit enters an egress merge from (R22). -/
inductive QSource where
  | ingress
  | keep (j : Nat)
  | cupola (c : Nat)
  deriving DecidableEq, Repr

/-- How a spilled flit decodes when it is read back from HBM overflow (R128). -/
inductive SpillEcc where
  | clean
  | corrected
  | badHeader
  | badPayload
  deriving DecidableEq, Repr

/-- A unit with an arithmetic page (Table 06.6): global tile, global collective engine, update engine. -/
inductive AUnit where
  | tile (g : Nat)
  | ce (i : Nat)
  | ue (c : Nat)
  deriving DecidableEq, Repr

/-- A WATCH message (Table 14.2). -/
structure WatchMsg where
  type : Nat
  cls : Nat
  c : Nat
  key : Nat
  td : Nat
  entry : Nat
  digest : Nat
  origin : Nat
  deriving DecidableEq, Repr

/-- The sender of a host datagram: MAC address, IP version and address, UDP port, VLAN tag (R385). -/
structure NetSrc where
  mac : Nat
  v6 : Bool
  ip : Nat
  port : Nat
  vid : Option Nat
  deriving DecidableEq, Repr

/-- A STREAM_ACK as it comes: its sender and the bytes acknowledged (R391). -/
structure AckFrom where
  src : NetSrc
  acked : Nat
  deriving DecidableEq, Repr

/-- What a boot phase reports when its end condition is met (R435): time taken in ms, self-test pass bits,
HBM stacks that failed, links that failed (link IDs), whether the host link came up. -/
structure BootResult where
  ms : Nat
  stPass : Nat
  stacksFailed : List Nat
  linksFailed : List Nat
  hostUp : Bool
  deriving DecidableEq, Repr

/-- The commands: one constructor per row of the opcode table, in its order. -/
inductive Instr where
  | tickBoundary  -- TICK_BOUNDARY
  | periodAtWrite (v : Nat)  -- PERIOD_AT_WRITE
  | nowLoRead  -- NOW_LO_READ
  | stepLoRead  -- STEP_LO_READ
  | markerReceive (link : Nat) (m : Marker)  -- MARKER_RECEIVE
  | trimSaturated  -- TRIM_SATURATED
  | scheduledFlitReceive (link : Nat) (f : Flit)  -- SCHEDULED_FLIT_RECEIVE
  | flitConsume (link : Nat) (sid : Nat) (o : Nat)  -- FLIT_CONSUME
  | skipNotice (d : Nat) (target : Nat) (origin : Nat) (reason : Nat)  -- SKIP_NOTICE
  | throttleEvaluation (temps : List Int) (power : Nat) (cup : List Nat)  -- THROTTLE_EVALUATION
  | skipNoticeIssue  -- SKIP_NOTICE_ISSUE
  | skipReq (v : Nat)  -- SKIP_REQ
  | thrEnClear (v : Nat)  -- THR_EN_CLEAR
  | linkSignalDetect (link : Nat)  -- LINK_SIGNAL_DETECT
  | eqConverge (link : Nat)  -- EQ_CONVERGE
  | lockAchieved (link : Nat)  -- LOCK_ACHIEVED
  | latencyProbe (link : Nat) (stamp : Nat) (hold : Nat)  -- LATENCY_PROBE
  | probeEcho (link : Nat) (echo : Nat) (hold : Nat)  -- PROBE_ECHO
  | identity (link : Nat) (ident : Nat) (dir : Nat)  -- IDENTITY
  | creditGrant (link : Nat) (credits : List Nat)  -- CREDIT_GRANT
  | trainStateTimeout (link : Nat)  -- TRAIN_STATE_TIMEOUT
  | lockLoss (link : Nat)  -- LOCK_LOSS
  | retrain (link : Nat)  -- RETRAIN
  | linkEnWrite (link : Nat) (en : Bool)  -- LINK_EN_WRITE
  | lineBlockReceive (link : Nat) (data parity : List Byte)  -- LINE_BLOCK_RECEIVE
  | nakReceive (link : Nat) (seq : Nat)  -- NAK_RECEIVE
  | ackTimeout (link : Nat) (seq : Nat)  -- ACK_TIMEOUT
  | d2dRetry (link : Nat) (dir : Nat) (k : Nat) (acked : Bool)  -- D2D_RETRY
  | credTo (n : Nat) (vc : Nat)  -- CRED_TO
  | openRequestInject (src : Source) (f : Flit)  -- OPEN_REQUEST_INJECT
  | ingressSwitch (link : Nat) (vc : Nat)  -- INGRESS_SWITCH
  | reservationTimeout (src : Source) (tag : Nat)  -- RESERVATION_TIMEOUT
  | replyReceive (src : Source) (f : Flit)  -- REPLY_RECEIVE
  | flitAged (keep : Nat) (out : Nat) (vc : Nat)  -- FLIT_AGED
  | tblDataWrite (keep : Nat) (v : Nat)  -- TBL_DATA_WRITE
  | flipAtWrite (keep : Nat) (v : Nat)  -- FLIP_AT_WRITE
  | routeFlip (d : Nat) (tick : Nat) (sum : Nat) (origin : Nat)  -- ROUTE_FLIP
  | drainDeadline  -- DRAIN_DEADLINE
  | load (bank : Nat)  -- LOAD
  | planLoadDone  -- PLAN_LOAD_DONE
  | switchAtWrite (v : Nat)  -- SWITCH_AT_WRITE
  | disarm (hi : Nat)  -- DISARM
  | egressAdmit (keep : Nat) (out : Nat) (vc : Nat) (src : QSource)  -- EGRESS_ADMIT
  | egressSend (keep : Nat) (out : Nat)  -- EGRESS_SEND
  | spillWrite (keep : Nat) (out : Nat) (vc : Nat)  -- SPILL_WRITE
  | spillReadback (keep : Nat) (out : Nat) (vc : Nat) (ecc : SpillEcc)  -- SPILL_READBACK
  | ovfConfigWrite (keep : Nat) (v : Nat)  -- OVF_CONFIG_WRITE
  | hostFrameReceive (bytes : List Byte)  -- HOST_FRAME_RECEIVE
  | hostIngressForward (p : Nat)  -- HOST_INGRESS_FORWARD
  | pfcRepeat (p : Nat)  -- PFC_REPEAT
  | pfcXon (p : Nat)  -- PFC_XON
  | pfcFrameReceive (enable : Nat) (quanta : List Nat)  -- PFC_FRAME_RECEIVE
  | pauseExpiry (p : Nat)  -- PAUSE_EXPIRY
  | ethFrameReassembled (vc : Nat)  -- ETH_FRAME_REASSEMBLED
  | hostFrameStart  -- HOST_FRAME_START
  | hostLinkUp  -- HOST_LINK_UP
  | hostLinkDown  -- HOST_LINK_DOWN
  | clipClr (u : AUnit)  -- CLIP_CLR
  | ceReduce (ce : Nat) (slot : Nat)  -- CE_REDUCE
  | ceAllReduce (ce : Nat) (slot : Nat)  -- CE_ALL_REDUCE
  | ceReduceScatter (ce : Nat) (slot : Nat)  -- CE_REDUCE_SCATTER
  | ceAllGather (ce : Nat) (slot : Nat)  -- CE_ALL_GATHER
  | ceBroadcast (ce : Nat) (slot : Nat)  -- CE_BROADCAST
  | ceAllToAll (ce : Nat) (slot : Nat)  -- CE_ALL_TO_ALL
  | ceGatherIdx (ce : Nat) (slot : Nat)  -- CE_GATHER_IDX
  | ceScatterIdx (ce : Nat) (slot : Nat)  -- CE_SCATTER_IDX
  | ceSortMerge (ce : Nat) (slot : Nat)  -- CE_SORT_MERGE
  | ceTopkMerge (ce : Nat) (slot : Nat)  -- CE_TOPK_MERGE
  | ceScan (ce : Nat) (slot : Nat)  -- CE_SCAN
  | ceAttnCombine (ce : Nat) (slot : Nat)  -- CE_ATTN_COMBINE
  | cePartialFold (ce : Nat) (slot : Nat) (rank : Nat)  -- CE_PARTIAL_FOLD
  | atomAdd (f : Flit)  -- ATOM_ADD
  | atomAddFetch (f : Flit)  -- ATOM_ADD_FETCH
  | atomIdleWriteback (line : Nat)  -- ATOM_IDLE_WRITEBACK
  | atomFlush (c : Nat)  -- ATOM_FLUSH
  | atomWinWrite (c : Nat) (v : Nat)  -- ATOM_WIN_WRITE
  | codecEncode (c : Nat) (slot : Nat)  -- CODEC_ENCODE
  | codecStore (c : Nat) (slot : Nat)  -- CODEC_STORE
  | codecPack24 (c : Nat) (slot : Nat)  -- CODEC_PACK24
  | codecExpand (c : Nat) (slot : Nat)  -- CODEC_EXPAND
  | codedSliceReceive (c : Nat) (sid : Nat)  -- CODED_SLICE_RECEIVE
  | billinCopy (g : Nat) (i : Nat)  -- BILLIN_COPY
  | fill (g : Nat) (i : Nat)  -- FILL
  | gather (g : Nat) (i : Nat)  -- GATHER
  | scatter (g : Nat) (i : Nat)  -- SCATTER
  | billinMma (g : Nat) (i : Nat)  -- BILLIN_MMA
  | add (g : Nat) (i : Nat)  -- ADD
  | sub (g : Nat) (i : Nat)  -- SUB
  | mul (g : Nat) (i : Nat)  -- MUL
  | fma (g : Nat) (i : Nat)  -- FMA
  | max (g : Nat) (i : Nat)  -- MAX
  | min (g : Nat) (i : Nat)  -- MIN
  | div (g : Nat) (i : Nat)  -- DIV
  | sqrt (g : Nat) (i : Nat)  -- SQRT
  | exp2 (g : Nat) (i : Nat)  -- EXP2
  | sign (g : Nat) (i : Nat)  -- SIGN
  | abs (g : Nat) (i : Nat)  -- ABS
  | rsum (g : Nat) (i : Nat)  -- RSUM
  | rmax (g : Nat) (i : Nat)  -- RMAX
  | rmin (g : Nat) (i : Nat)  -- RMIN
  | fenceAcq (g : Nat) (i : Nat)  -- FENCE_ACQ
  | fenceRel (g : Nat) (i : Nat)  -- FENCE_REL
  | fenceFull (g : Nat) (i : Nat)  -- FENCE_FULL
  | flagSet (g : Nat) (i : Nat)  -- FLAG_SET
  | flagWait (g : Nat) (i : Nat)  -- FLAG_WAIT
  | flagWaitv (g : Nat) (i : Nat)  -- FLAG_WAITV
  | flagWaitDone (g : Nat) (q : Nat)  -- FLAG_WAIT_DONE
  | tickBodyComplete (g : Nat)  -- TICK_BODY_COMPLETE
  | tileStoreAccess (g : Nat)  -- TILE_STORE_ACCESS
  | prefetchComplete (g : Nat)  -- PREFETCH_COMPLETE
  | imemWdataWrite (g : Nat) (lantern : Bool) (v : Nat)  -- IMEM_WDATA_WRITE
  | sort (g : Nat) (i : Nat)  -- SORT
  | topk (g : Nat) (i : Nat)  -- TOPK
  | softmax (g : Nat) (i : Nat)  -- SOFTMAX
  | attnPartial (g : Nat) (i : Nat)  -- ATTN_PARTIAL
  | attnMerge (g : Nat) (i : Nat)  -- ATTN_MERGE
  | libScan (g : Nat) (i : Nat)  -- LIB_SCAN
  | histogram (g : Nat) (i : Nat)  -- HISTOGRAM
  | filter (g : Nat) (i : Nat)  -- FILTER
  | ueNorm (c : Nat) (slot : Nat)  -- UE_NORM
  | ueFold (c : Nat) (slot : Nat)  -- UE_FOLD
  | ueApply (c : Nat) (slot : Nat)  -- UE_APPLY
  | ueStage (c : Nat) (slot : Nat)  -- UE_STAGE
  | ueCommit (c : Nat) (slot : Nat)  -- UE_COMMIT
  | ueStepLoRead (c : Nat)  -- UE_STEP_LO_READ
  | chkGo (c : Nat) (unit : Nat)  -- CHK_GO
  | chkDone (c : Nat)  -- CHK_DONE
  | memRd (f : Flit)  -- MEM_RD
  | memWr (f : Flit)  -- MEM_WR
  | bulkRd (f : Flit)  -- BULK_RD
  | bulkWr (f : Flit)  -- BULK_WR
  | hbmWakeWait (st : Nat)  -- HBM_WAKE_WAIT
  | fstCommit  -- FST_COMMIT
  | fstRead  -- FST_READ
  | sysGibWrite (st : Nat) (v : Nat)  -- SYS_GIB_WRITE
  | refreshRound (st : Nat)  -- REFRESH_ROUND
  | stackMoverOut (st : Nat) (slot : Nat)  -- STACK_MOVER_OUT
  | stackMoverIn (st : Nat) (slot : Nat)  -- STACK_MOVER_IN
  | stackMoverCopy (st : Nat) (slot : Nat)  -- STACK_MOVER_COPY
  | moverCopy (k : Nat)  -- MOVER_COPY
  | moverConvert (k : Nat)  -- MOVER_CONVERT
  | moverReply (k : Nat) (f : Flit)  -- MOVER_REPLY
  | moverDrainDone (k : Nat)  -- MOVER_DRAIN_DONE
  | mvResume (k : Nat)  -- MV_RESUME
  | mvAbort (k : Nat)  -- MV_ABORT
  | correctedWriteback (line : Nat)  -- CORRECTED_WRITEBACK
  | tripRewrite (key : RegKey)  -- TRIP_REWRITE
  | tripEnWrite (v : Nat)  -- TRIP_EN_WRITE
  | mergeWriteback (line : Nat)  -- MERGE_WRITEBACK
  | mergeEntryWait (st : Nat)  -- MERGE_ENTRY_WAIT
  | patrolRead (line : Nat)  -- PATROL_READ
  | scrubGo  -- SCRUB_GO
  | scrubAbort  -- SCRUB_ABORT
  | scrubGranule  -- SCRUB_GRANULE
  | spotCheckComplete (c : Nat) (got : List Nat)  -- SPOT_CHECK_COMPLETE
  | marginEvaluation (droop : List Nat) (canary : List Nat) (rx : List Int)  -- MARGIN_EVALUATION
  | neighbourSilent (d : Nat)  -- NEIGHBOUR_SILENT
  | watchReport (d : Nat) (m : WatchMsg)  -- WATCH_REPORT
  | roundDecision  -- ROUND_DECISION
  | digestReceive (d : Nat) (cut : Nat) (digest : Nat)  -- DIGEST_RECEIVE
  | switchTick  -- SWITCH_TICK
  | autoResume  -- AUTO_RESUME
  | rbGo (v : Nat)  -- RB_GO
  | restoreCopyDone (ok : Bool)  -- RESTORE_COPY_DONE
  | restoreCheckDone (srcSum : Nat) (srcNorm : Nat)  -- RESTORE_CHECK_DONE
  | cmdResume  -- CMD_RESUME
  | cmdAbort  -- CMD_ABORT
  | cmdFabricReset  -- CMD_FABRIC_RESET
  | commandReceive (d : Nat) (m : WatchMsg)  -- COMMAND_RECEIVE
  | commandTakeEffect  -- COMMAND_TAKE_EFFECT
  | join (v : Nat)  -- JOIN
  | joinAdopt (d : Nat) (m : Marker)  -- JOIN_ADOPT
  | watchPartnerWrite (v : Nat)  -- WATCH_PARTNER_WRITE
  | pairCheck (answer : Option Nat)  -- PAIR_CHECK
  | flightStepLoRead  -- FLIGHT_STEP_LO_READ
  | declStepLoRead  -- DECL_STEP_LO_READ
  | arpRequest (frame : List Byte)  -- ARP_REQUEST
  | neighborSolicitation (frame : List Byte)  -- NEIGHBOR_SOLICITATION
  | moraecaReceive (src : NetSrc) (bytes : List Byte)  -- MORAECA_RECEIVE
  | openSession (sess : Nat)  -- OPEN
  | closeSession (sess : Nat)  -- CLOSE
  | regRd (sess : Nat)  -- REG_RD
  | regWr (sess : Nat)  -- REG_WR
  | moraecaBulkRd (sess : Nat)  -- MORAECA_BULK_RD
  | moraecaBulkWr (sess : Nat)  -- MORAECA_BULK_WR
  | streamOpen (sess : Nat)  -- STREAM_OPEN
  | streamData (i : Nat) (src : NetSrc) (bytes : List Byte)  -- STREAM_DATA
  | streamAck (i : Nat) (ack : AckFrom)  -- STREAM_ACK
  | streamRto (i : Nat)  -- STREAM_RTO
  | streamReadReply (i : Nat) (f : Flit)  -- STREAM_READ_REPLY
  | eventAck (src : NetSrc) (seq : Nat)  -- EVENT_ACK
  | evtRto  -- EVT_RTO
  | evtEnWrite (v : Nat)  -- EVT_EN_WRITE
  | sessionTimeout (sess : Nat)  -- SESSION_TIMEOUT
  | holdTimeout (sess : Nat) (seq : Nat)  -- HOLD_TIMEOUT
  | cwNop (w : Nat)  -- CW_NOP
  | cwRegWr (w : Nat)  -- CW_REG_WR
  | cwMove (w : Nat)  -- CW_MOVE
  | cwPlanLoad (w : Nat)  -- CW_PLAN_LOAD
  | cwPlanSwitch (w : Nat)  -- CW_PLAN_SWITCH
  | cwRecordComplete (w : Nat)  -- CW_RECORD_COMPLETE
  | registerWrite (addr : Nat) (v : Nat)  -- REGISTER_WRITE
  | pgErrWrite (p : PageId) (v : Nat)  -- PG_ERR_WRITE
  | softRst (p : PageId)  -- SOFT_RST
  | freeze (p : PageId) (on : Bool)  -- FREEZE
  | lock (p : PageId)  -- LOCK
  | feedBad (feed : Nat)  -- FEED_BAD
  | feedSenseOpen (feed : Nat)  -- FEED_SENSE_OPEN
  | feedGood (feed : Nat)  -- FEED_GOOD
  | feedReturn  -- FEED_RETURN
  | holdupExpiry  -- HOLDUP_EXPIRY
  | coolantConfirm  -- COOLANT_CONFIRM
  | coolOkChange (flow : Nat) (inlet : Nat)  -- COOL_OK_CHANGE
  | tripPeakPower  -- TRIP_PEAK_POWER
  | tripSustainedPower  -- TRIP_SUSTAINED_POWER
  | tripTemperature (sensor : Nat) (t0 : Nat) (t1 : Nat)  -- TRIP_TEMPERATURE
  | tripFlow (flow : Nat)  -- TRIP_FLOW
  | tripInlet (inlet : Nat)  -- TRIP_INLET
  | enterP3 (key : Nat)  -- ENTER_P3
  | leaveP3 (key : Nat)  -- LEAVE_P3
  | enterP4 (key : Nat)  -- ENTER_P4
  | moduleReset (key : Nat)  -- MODULE_RESET
  | resetNAssert  -- RESET_N_ASSERT
  | resetNRelease (progEnN : Bool)  -- RESET_N_RELEASE
  | wakeN  -- WAKE_N
  | shdnN (low : Bool)  -- SHDN_N
  | powerRestored  -- POWER_RESTORED
  | domainWake (dom : Nat)  -- DOMAIN_WAKE
  | bootPhaseComplete (r : BootResult)  -- BOOT_PHASE_COMPLETE
  | bootPhaseTimeout (code : Nat)  -- BOOT_PHASE_TIMEOUT
  | calSave  -- CAL_SAVE
  | bpSave  -- BP_SAVE
  | bpLoad  -- BP_LOAD
  | updGo (key : Nat)  -- UPD_GO
  | updateComplete  -- UPDATE_COMPLETE
  | fwCommit (key : Nat)  -- FW_COMMIT
  | fkeyRevoke (mask : Nat) (key : Nat)  -- FKEY_REVOKE
  | enroll  -- ENROLL
  | revoke  -- REVOKE
  | keySave  -- KEY_SAVE
  | testReq  -- TEST_REQ
  | dbgReq  -- DBG_REQ
  | attGo  -- ATT_GO
  | attReportReady  -- ATT_REPORT_READY
  | attDataRead  -- ATT_DATA_READ
  | vaneReading (mainMj : Nat) (backupMj : Nat) (pMain : Nat) (pBackup : Nat) (fault : Bool)  -- VANE_READING
  | vaneCommit  -- VANE_COMMIT
  | tamperBreak  -- TAMPER_BREAK
  | vaneMirror (bytes : List Byte)  -- VANE_MIRROR
  | vaneStale  -- VANE_STALE
  | vmSeqLoRead  -- VM_SEQ_LO_READ
  | vmSigDataRead  -- VM_SIG_DATA_READ
  | p3EntryComplete  -- P3_ENTRY_COMPLETE
  | p3ExitComplete  -- P3_EXIT_COMPLETE
  | calSaveComplete  -- CAL_SAVE_COMPLETE
  | bpSaveComplete  -- BP_SAVE_COMPLETE
  deriving DecidableEq, Repr

end Sys2Proof
end

