-- ==== Sys2Proof/Config.lean ====
section
/-! DEFINITION. What the specification leaves open: constants with no body, so that no proof can see a value of them. -/

namespace Sys2Proof

/-- The value drawn for the `n`-th open value of a run (log 2). No body: every statement holds for every value. -/
opaque Config.freeValue : Nat → Nat

/-- An open value that hangs on what the list names (a log number first) and on nothing else: the same at every reading of it (log
2). No body. -/
opaque Config.openValue : List Nat → Nat

/-- The Vane's serial number, fixed at manufacture (log 8). -/
opaque Config.vaneSerial : Nat

/-- Word `w` of the Vane's public key, fixed at manufacture (log 8). -/
opaque Config.vanePub : Nat → Nat

/-- Word `w` of the identity public key, and the Vane's firmware version, fixed at manufacture (log 8). -/
opaque Config.identPub : Nat → Nat
opaque Config.vaneFw : Nat

/-- The exponent of the first root of the Reed–Solomon generator of R68, and what gives the state, never zero, that the
PRBS31 of an EQ block starts from (R71) (log 180). -/
opaque Config.rsFirst : Nat
opaque Config.prbsSeed : Nat

/-- Shared cells that the input buffer of a link asks for a VC when it trains, beyond its own 8 (R121, log 181). -/
opaque Config.inputTake : Nat → Nat → Nat

/-- Whether a signature verifies: public key, message and signature, as bytes (log 9). -/
opaque Config.verify : List Byte → List Byte → List Byte → Bool

/-- The signature of a message under the key of the named signer (0 the Finial, 1 the Vane), as bytes (log 9). -/
opaque Config.sign : Nat → List Byte → List Byte

/-- Whether the native code of a body of more than 2,040 instructions fits an instruction memory, by translator version and
module (R478). -/
opaque Config.codeFits : Nat → List Byte → Bool

/-- Fields of generated IP headers that the specification does not state (log 10): DSCP, the IPv4 flags and fragment
word, TTL or hop limit, the IPv6 flow label, and the IPv4 identification of the `n`-th packet. -/
opaque Config.ipDscp : Nat
opaque Config.ipFlags : Nat
opaque Config.ipTtl : Nat
opaque Config.ipFlow : Nat
opaque Config.ipId : Nat → Nat

end Sys2Proof
end

