-- ==== Sys2Proof/Machine/State.lean ====
section
/-! DEFINITION. The state of the block as plain data: the queue of commands, the register fields, and every piece of
state behind them that the specification names. -/

namespace Sys2Proof.Machine

open Sys2Proof

/-! ## Register fields (R12, Table 00.2) -/

/-- The access codes of Table 00.2. -/
inductive Acc where
  | rw | ro | w1c | w1s | rwt | rwl | wo
  deriving DecidableEq, Repr

/-- What a field is (R405, R407): a setting, a wrapping or saturating counter, a field of a record,
present status, a write trigger, or one of PG_ERR, PG_ERR_FIRST and PG_ERR_TICK. -/
inductive RKind where
  | setting | counterWrap | counterSat | record | status | trigger | errs
  deriving DecidableEq, Repr

/-- One register field: byte offset in its page, lowest bit, width, access code, kind, reset value,
and for an indexed field the number of copies and the distance between them in bytes. -/
structure Reg where
  off : Nat
  lo : Nat
  w : Nat
  acc : Acc
  kind : RKind
  reset : Nat
  count : Nat
  stride : Nat
  deriving DecidableEq, Repr

/-- Copies 1 and 2 of a critical word (R328) where they differ from copy 0, and whether copy 0's parity is wrong. -/
structure TripCopies where
  c1 : Nat
  c2 : Nat
  parityBad : Bool
  deriving DecidableEq, Repr

/-! ## Outputs -/

/-- A scheduled chunk: its 240 payload bytes, payload class, poison, header bit LAST and the bytes its LEN covers. -/
structure Chunk where
  op : Nat
  poison : Bool
  bytes : List Byte
  last : Bool := false
  len : Nat := 240
  deriving DecidableEq, Repr

/-- The training payload (Table 03.7); the pattern of an EQ block follows from its type. -/
structure Training where
  trType : Nat
  stamp : Nat := 0
  echo : Nat := 0
  hold : Nat := 0
  ident : Nat := 0
  dir : Nat := 0
  credits : List Nat := []
  deriving DecidableEq, Repr

/-- What a line block carries in its bytes 0–255 (Table 03.4). -/
inductive BlockBody where
  | flit (f : Flit)
  | idle
  | training (t : Training)
  deriving DecidableEq, Repr

/-- A line block that leaves (R66): its body and the fields of its control word (Table 03.5). `Block.bytes` gives its 320
bytes. -/
structure Block where
  body : BlockBody
  seq : Nat := 0
  ack : Nat := 0
  nak : Option Nat := none
  /-- Credit returns, at most two: VC and count. -/
  cr : List (Nat × Nat) := []
  deriving DecidableEq, Repr

/-- What the module puts on its ports, in the order it leaves (log 3). -/
inductive Output where
  /-- A line block on an endpoint or torus link: flits, markers and neighbour messages, idle blocks with the NAKs and credits
  they carry, training blocks, replays (R66, R69, R71, R73). -/
  | block (link : Nat) (b : Block)
  /-- A reply flit given to a source of this module (R60). -/
  | reply (src : Source) (f : Flit)
  /-- A request flit injected by a source of this module (R80). -/
  | inject (src : Source) (f : Flit)
  /-- An Ethernet frame to the host. -/
  | frame (bytes : List Byte)
  /-- A PFC frame to the host: priority enable vector and pause quanta (R136). -/
  | pfc (enable : Nat) (quanta : Nat)
  /-- A frame on the metrology port (R457). -/
  | metrology (bytes : List Byte)
  /-- A register word read on the module's own buses. -/
  | value (v : Nat)
  deriving DecidableEq, Repr

/-! ## Events (R394, R395) -/

/-- An event record: number, code, unit (PG_ID), tick, detail bytes 16–47, and the clock of its last sending (of its storing
before the first). -/
structure Event where
  num : Nat
  code : Nat
  unit : Nat
  tick : Nat
  detail : List Byte
  sent : Nat
  deriving DecidableEq, Repr

/-- The event store: next number, events not acknowledged in order, drops not yet announced. -/
structure EventStore where
  next : Nat
  items : List Event
  dropped : Nat
  deriving DecidableEq, Repr

/-! ## The host attachment (R133–R139) -/

/-- A frame of the weighted group: its bytes, start tag and finish tag (R139). -/
structure WFrame where
  bytes : List Byte
  start : Nat
  fin : Nat
  deriving DecidableEq, Repr

/-- A token bucket (R135): tokens in 1/8,800 byte at a clock. -/
structure Bucket where
  tokens : Nat
  since : Nat
  deriving DecidableEq, Repr

/-- A frame in an ingress buffer (R136): its bytes, the flits that have still to leave once its first flit has left (none
before), the cells it holds, and whether its next flit was counted in OVF_FULL (R128). -/
structure IngressFrame where
  bytes : List Byte
  flits : List Flit
  cells : Nat
  counted : Bool := false
  deriving DecidableEq, Repr

/-- The host MAC's queues and timers. -/
structure HostMac where
  /-- Strict queues 0–2 (R138). -/
  strict : List (Nat × List (List Byte))
  /-- Weighted queues 0–7 (R139). -/
  weighted : List (Nat × List WFrame)
  /-- Virtual time V, 48 bits (R139). -/
  vt : Nat
  /-- Clock at which the host's pause of a priority ends (R137). -/
  pauseEnd : List (Nat × Nat)
  /-- Policer buckets per priority (R135). -/
  police : List (Nat × Bucket)
  /-- Shaper buckets per strict queue (R138). -/
  shape : List (Nat × Bucket)
  /-- Ingress buffers per priority (R136). -/
  ingress : List (Nat × List IngressFrame)
  /-- Clock of the last PFC frame per priority (R136). -/
  pfcAt : List (Nat × Nat)
  /-- Priority served last by the ingress round robin (R136). -/
  rr : Nat
  /-- Reassembly contexts per VC (R134). -/
  reasm : List (Nat × List Flit)
  /-- Priority whose frame is leaving the ingress buffers (R63, R136). -/
  cur : Option Nat
  /-- Frames handed to the Lantern, oldest first (R385). -/
  lantern : List (List Byte)
  deriving DecidableEq, Repr

/-! ## The Belfry -/

/-- An overrun to be recorded at the next boundary (R49, R50): block type, instance, cause, OVR_DETAIL. -/
structure Overrun where
  ty : Nat
  inst : Nat
  cause : Nat
  detail : Nat
  deriving DecidableEq, Repr

/-- A tick that has ended (R39, R40): its number, the clock of its boundary, PER_U and the plan step count in it. -/
structure PastTick where
  tick : Nat
  start : Nat
  per : Nat
  step : Nat
  deriving DecidableEq, Repr

/-- The Belfry's own state (R30–R54). -/
structure Belfry where
  /-- Tick number, 48 bits (R33). -/
  tick : Nat
  /-- Clock at the current boundary. -/
  tickStart : Nat
  /-- Length of the current tick in cc (R41). -/
  tickLen : Nat
  /-- Plan step count, 48 bits (Table 02.5). -/
  stepCount : Nat
  /-- Armed period change: tick and PER_U (R32). -/
  perArmed : Option (Nat × Nat)
  /-- Ticks marked in the skip map (R53). -/
  skipMap : List Nat
  /-- Consecutive ticks with the trim at its limit (R41). -/
  trimRun : Nat
  /-- Marker FLAGS bit 2 (R41). -/
  trimSat : Bool
  /-- Skews of the joined torus neighbours' markers of the current tick (R41). -/
  marks : List (Nat × Int)
  /-- Torus direction and stamp of the markers received in the current tick (R352). -/
  seenMarks : List (Nat × Nat)
  /-- Consecutive stamps missed per torus direction (R352). -/
  silent : List (Nat × Nat)
  /-- Charge of each link direction in the current tick (R47): link ID, direction, cc. -/
  charges : List ((Nat × Nat) × Nat)
  /-- Overruns waiting for the boundary (R49). -/
  overruns : List Overrun
  /-- First tick of the throttle window (R54). -/
  thrWindow : Nat
  /-- Tick of the last notice issued by the throttle (R54). -/
  thrLast : Option Nat
  /-- Whether the window may issue notices: clearing THR_EN ends it (R54). -/
  thrLive : Bool
  /-- COORD and EXTENT agreed at the previous boundary (R56). -/
  cfgPrev : Nat × Nat
  /-- The four Keeps disagree in COORD or EXTENT (R56). -/
  cfgBad : Bool
  /-- Flooded messages received or originated: opcode and key (R53). -/
  flooded : List (Nat × Nat)
  /-- Ticks ended since the last join, newest first (R39, R40). -/
  past : List PastTick
  /-- Increments of SR_ORIGIN made at skipped and held boundaries (R376). -/
  srIncs : Nat
  /-- Markers stamped with a later tick, compared at its boundary (R40): link and marker. -/
  early : List (Nat × Marker)
  deriving DecidableEq, Repr

/-! ## Links -/

/-- A block held for replay (R73): its flit, sequence number, times replayed, clock of its last sending. -/
structure ReplayBlock where
  flit : Flit
  seq : Nat
  replays : Nat
  sentAt : Nat
  deriving DecidableEq, Repr

/-- The state of one endpoint or torus link behind its page (R66–R76). -/
structure Link where
  /-- Signal is detected on all lanes (Table 03.6). -/
  signal : Bool
  /-- Consecutive good blocks in LOCK. -/
  goodRun : Nat
  /-- Consecutive bad blocks. -/
  badRun : Nat
  /-- Round trips of the probes echoed (R71). -/
  rtts : List Nat
  /-- Peer identity accepted (R72). -/
  peerOk : Bool
  /-- Next sequence number to be sent (R69). -/
  txSeq : Nat
  /-- Blocks sent and not acknowledged (R73). -/
  window : List ReplayBlock
  /-- Next sequence number expected (R73). -/
  rxNext : Nat
  /-- Sequence numbers found missing (R73). -/
  missing : List Nat
  /-- Open-plane flits held behind a missing block, with their sequence numbers (R76). -/
  held : List (Nat × Flit)
  /-- No new blocks are taken before this clock; the clock at which that stop began and the blocks replayed in it (R74). -/
  stopUntil : Nat
  stopFrom : Nat
  stopBlocks : Nat
  /-- Neighbour messages not sent yet, oldest first, and the clock of the last one sent (R65); on an endpoint link the replies that
  its Turret makes itself (R66, R86). -/
  msgs : List Flit
  lastMsg : Option Nat
  /-- Shared cells taken by the input buffer per VC, for which credits were granted (R121). -/
  shared : List (Nat × Nat)
  /-- Clock at which the link entered its present state (R70), and clock at which the credit of a VC fell to zero (R79). -/
  since : Nat := 0
  zeros : List (Nat × Nat) := []
  deriving DecidableEq, Repr

/-- A link before training. -/
def Link.idle : Link :=
  { signal := false, goodRun := 0, badRun := 0, rtts := [], peerOk := false, txSeq := 0, window := [], rxNext := 0,
    missing := [], held := [], stopUntil := 0, stopFrom := 0, stopBlocks := 0, msgs := [], lastMsg := none, shared := [] }

/-- A die-to-die link direction (R77): retries in a row, and the clock before which its sender takes no new flits. -/
structure D2dDir where
  fails : Nat
  stopUntil : Nat
  deriving DecidableEq, Repr

/-- A die-to-die link direction that has retried nothing. -/
def D2dDir.idle : D2dDir := { fails := 0, stopUntil := 0 }

/-! ## Routing (R80–R93) -/

/-- A reply reservation (R86): requester, tag, tick of injection, epoch, the logical home of a virtual request, opcode, and the
DST of the request, which its reply carries as SRC (R60). -/
structure Reservation where
  src : Source
  tag : Nat
  tick : Nat
  epoch : Nat
  home : Option Nat
  opcode : Nat
  dst : Nat
  deriving DecidableEq, Repr

/-- One route bank (R90): remap entries and direction words written. -/
structure RouteBank where
  remap : List (Nat × Nat)
  dir : List (Nat × Nat)
  deriving DecidableEq, Repr

/-- The route state of one Keep (R90–R93). -/
structure Route where
  bankA : RouteBank
  bankB : RouteBank
  /-- Armed flip tick. -/
  flip : Option Nat
  /-- Drain deadline of the flip in progress. -/
  deadline : Option Nat
  /-- Last drain deadline (R93). -/
  lastDeadline : Option Nat
  deriving DecidableEq, Repr

/-! ## The open plane (R120–R130) -/

/-- A flit in a queue, and whether it enters a torus ring on leaving it (R83). -/
structure QFlit where
  flit : Flit
  entering : Bool
  deriving DecidableEq, Repr

/-- An egress queue (R123, R127): flits in SRAM, flits in the overflow region, flits admitted while spilled whose HBM
write is not complete, whether it is spilled, and the packet being admitted: its source, the input buffer it comes from, and
its SRC (R63). -/
structure EgressQ where
  sram : List QFlit
  hbm : List QFlit
  stage : List QFlit
  /-- Pages of the overflow region that hold its flits, head first, and the flits of the head page already read back. -/
  pages : List Nat
  drained : Nat
  spilled : Bool
  admitting : Option (QSource × Option (Nat × Nat) × Nat)
  deriving DecidableEq, Repr

/-- An empty egress queue. -/
def EgressQ.empty : EgressQ :=
  { sram := [], hbm := [], stage := [], pages := [], drained := 0, spilled := false, admitting := none }

/-- A flit switched or produced and waiting for admission to an egress queue (R121, R123): Keep, output, VC, source,
the input buffer (link, VC) whose cells it holds, the flit, and whether it was counted in OVF_FULL (R128). -/
structure Ready where
  keep : Nat
  out : Nat
  vc : Nat
  src : QSource
  buf : Option (Nat × Nat)
  flit : Flit
  entering : Bool
  counted : Bool := false
  deriving DecidableEq, Repr

/-- The open plane's buffers and queues. -/
structure OpenPlane where
  /-- Turret input buffers by link and VC: flits not yet switched. -/
  inputs : List ((Nat × Nat) × List Flit)
  /-- Flits waiting for admission, in order. -/
  ready : List Ready
  /-- Egress queues by Keep, output and VC. -/
  egress : List ((Nat × Nat × Nat) × EgressQ)
  /-- Flits sent of the class served in the current round of REQ against BULK, per Keep and output (R124). -/
  wrr : List ((Nat × Nat) × (Bool × Nat))
  /-- Flits delivered to units of this module: e value, the Keep that delivers it, and the flit (R60). -/
  service : List (Nat × Nat × Flit)
  /-- Link and VC of packets that lost a later flit after they began to leave (R125). -/
  cut : List (Nat × Nat)
  /-- By link and VC, the last flit switched of a packet whose LAST flit has not been switched (R63, R125). -/
  switched : List ((Nat × Nat) × Flit) := []
  /-- Cells of the landing region per Keep and plan bank (R45, R120). -/
  landing : List ((Nat × Nat) × Nat)
  /-- Flits discarded and counted under R79, for which no register is given. -/
  discarded : Nat
  deriving DecidableEq, Repr

/-! ## Stored data (R323–R331) -/

/-- An entry of a merge buffer (R329): stack, local line of HBM, dirty, written by a plan unit, clock of the last write. -/
structure MergeEntry where
  st : Nat
  line : Nat
  plan : Bool
  last : Nat
  deriving DecidableEq, Repr

/-- Where a Keep holds a flit: at the head of a Turret input buffer, of an egress queue or of its staging part, first of those that
wait on the internal paths for admission to a queue or for a unit of the module, or in a landing region (link, stream, stamp,
chunk). -/
inductive FlitAt where
  | input (link vc : Nat)
  | queue (keep out vc : Nat)
  | stage (keep out vc : Nat)
  | waiting (keep out vc : Nat)
  | service (e : Nat)
  | landing (link sid stamp chunk : Nat)
  deriving DecidableEq, Repr

/-- A line of a Keep buffer that holds part of a flit and whose symbols are wrong (R323, R337): where the flit is held, whether the
line holds its header, and the errors. A line that patrol leaves poisoned has the marker's error (R325, R332). -/
structure FlitErr where
  place : FlitAt
  header : Bool
  errs : List (Nat × Nat)
  deriving DecidableEq, Repr

/-- What the arrays and the checked datapaths hold beside their bytes. Space 0 HBM, 1 tile stores, 2 Drums; a line is an offset over 64. -/
structure Arrays where
  /-- Symbol errors of a line: symbol number 0–77 and error value, against the codeword of the cells' bytes; where the decoder finds
  a codeword, that is it, so that the cells hold what a read returns (R323, R324). Poison is 0xA5 at symbol 69 (R325). -/
  symErr : List ((Nat × Nat) × List (Nat × Nat))
  /-- Corrected lines not yet written back (R326). -/
  corrected : List (Nat × Nat)
  /-- Merge buffer entries; the bytes of a held granule are those of the cell list (R329). -/
  merge : List MergeEntry
  /-- Significand operations on which a lane of a CE or UE errs (R335): element and term, or parameter and operation. -/
  lanes : List (AUnit × Nat × Nat)
  /-- Coded tile records that a codec encodes wrongly (R336): Cupola, stream or segment, record of the slice. -/
  records : List (Nat × Nat × Nat)
  /-- Lines of Keep buffers with symbol errors (R337). -/
  flits : List FlitErr
  /-- Bytes that open-plane writes have replaced in this tick, with the values that plan units read until the next boundary (R312,
  R380). -/
  unseen : List (Nat × Byte) := []
  deriving DecidableEq, Repr

/-! ## Watch -/

/-- A report (R353): CLASS, KEY, TD, ENTRY. -/
structure Report where
  cls : Nat
  key : Nat
  td : Nat
  entry : Nat
  deriving DecidableEq, Repr

/-- A run of a training step (R349): its number, the tick of its start, E_n once reached, whether it is declared, whether it
is aborted, and the Belfry's SR_ORIGIN increments made before its start (R376). -/
structure StepRun where
  num : Nat
  start : Nat
  last : Option Nat
  declared : Bool
  aborted : Bool
  incs : Nat
  deriving DecidableEq, Repr

/-- A restore in progress (R362): FST entries still to copy in the restore phase and in the rebuild phase, the entry being
copied, whether its copy is made and under check, whether it has faulted or mismatched once, and the bytes copied in the
phase. -/
structure Restore where
  todo : List Nat
  rebuild : List Nat
  cur : Option Nat
  checking : Bool
  faulted : Bool
  mismatched : Bool
  bytes : Nat
  /-- The Keep whose mover makes the copy in progress; none while it waits for a mover (R362). -/
  mover : Option Nat := none
  deriving DecidableEq, Repr

/-- A promoted mirror entry (R358, R367): FST index and the WR and AT bits it held before. -/
structure Promoted where
  idx : Nat
  wr : Bool
  at_ : Bool
  deriving DecidableEq, Repr

/-- A stale mirror segment (R366): FST index, whether its copy is complete, and the COMMIT runs that have started since and have
not ended: engine, slot, and whether the run has committed the segment. -/
structure StaleSeg where
  idx : Nat
  copied : Bool
  runs : List (Nat × Nat × Bool)
  deriving DecidableEq, Repr

/-- Watch protocol state (R347–R370). -/
structure Watch where
  /-- Reports held and not decided. -/
  held : List Report
  /-- Every report held since the last reset of Watch, so that duplicates are known (R353). -/
  seen : List Report
  /-- Cut tick of the open round (R354). -/
  cut : Option Nat
  /-- Keys of the failed set. -/
  failed : List Nat
  /-- Faults raised within the tick, reported at the next boundary: class, entry. -/
  raised : List (Nat × Nat)
  /-- Switch tick armed by a decided round, and the causes of a hold it brings (bits of HOLD_SET) (R357, R358). -/
  switchAt : Option Nat
  switchSet : Nat
  /-- Aborted step that waits for its replay. -/
  aborted : Option Nat
  /-- Logical modules whose mirror entries are promoted at the switch tick. -/
  promote : List Nat
  /-- Segments of this module's own TORN reports in rounds decided and not switched. -/
  tornOwn : List Nat
  /-- Modules in the pending set (R364). -/
  restorers : List Nat
  /-- Switch tick of the hold in force, and the resume armed without a command (R364). -/
  holdAt : Nat
  resumeAt : Option Nat
  /-- Tick from which a replay, or a start at TRAIN_START, is due (R358, R360). -/
  replayAt : Option Nat
  /-- A plan switch has fallen between a decision and its switch tick (R358). -/
  reselect : Bool
  /-- Commands armed: command tick and code (R360). -/
  cmds : List (Nat × Nat)
  /-- Runs of training steps, newest first (R349). -/
  steps : List StepRun
  /-- Step in flight and last declared step. -/
  flight : Nat
  decl : Nat
  /-- Digests of the rounds decided: C and digest; and digests received before the own decision: direction, C, digest, and the
  tick of receipt. -/
  digests : List (Nat × Nat)
  early : List (Nat × Nat × Nat × Nat)
  /-- The restore in progress (R362). -/
  restore : Option Restore
  stale : List StaleSeg
  promoted : List Promoted
  /-- A join has been started: whether it seeds (R370), and whether a marker has been adopted, at which clock. -/
  joining : Option Bool
  adopted : Bool
  adoptedAt : Nat := 0
  /-- Torus directions whose link was UP when this module joined (R357). -/
  joinUp : List Nat := []
  /-- Entries whose segment is known to be lost with both its modules (R368). -/
  lost : List Nat := []
  /-- Watch has been told that this module's checkers are unproven (R344). -/
  unproven : Bool := false
  /-- The Lantern is stalled: it starts no scan (R21, R392); and boundaries in a row at which it has started none (R352). -/
  stalled : Bool
  missed : Nat
  deriving DecidableEq, Repr

/-- Watch after a reset. -/
def Watch.idle : Watch :=
  { held := [], seen := [], cut := none, failed := [], raised := [], switchAt := none, switchSet := 0, aborted := none,
    promote := [], tornOwn := [], restorers := [], holdAt := 0, resumeAt := none, replayAt := none, reselect := false, cmds := [], steps := [], flight := 0,
    decl := 0, digests := [], early := [], restore := none, stale := [], promoted := [], joining := none,
    adopted := false, stalled := false, missed := 0 }

/-! ## Tick plans and scheduled data (R97–R118) -/

/-- One plan bank: the image it was built from, the FST entries it pins (R314), the Drum pages of its claims by variant and
claim record: section and index (R194), and the parameters P that the header of each shard of its passes gave at load, by virtual
address (R275). -/
structure Bank where
  image : List Byte
  pins : List Nat
  pages : List ((Nat × Nat × Nat) × List Nat)
  parms : List (Nat × Nat)
  deriving DecidableEq, Repr

/-- The plan state of a tick: its number, bank in force, step index, variant, and whether it has a plan step. -/
structure PlanTick where
  tick : Nat
  bank : Nat
  step : Nat
  var : Nat
  runs : Bool
  deriving DecidableEq, Repr

/-- A load in progress (R110): its bank, and the base, the length and the Keeps' LAND_MAX captured at LOAD (Table 04.9). -/
structure PlanJob where
  bank : Nat
  base : Nat
  len : Nat
  limits : List Nat
  deriving DecidableEq, Repr

/-- The scheduled plane of the module. -/
structure Sched where
  /-- Flits in the landing regions: link, stamp, flit (R45). -/
  landing : List (Nat × Nat × Flit)
  /-- Flits accepted per link, stream and stamp (R100). -/
  counts : List ((Nat × Nat × Nat) × Nat)
  /-- Consumption offsets taken in the current tick: link, stream, RECV position. -/
  taken : List (Nat × Nat × Nat)
  /-- Chunks consumed for this module's units in the current tick: stream, chunk index, chunk. -/
  inbox : List ((Nat × Nat) × Chunk)
  /-- Index of the flit that carried LAST, per link, stream and stamp of a coded stream (R211). -/
  lasts : List ((Nat × Nat × Nat) × Nat)
  /-- Coded streams decoded in the current tick (R213). -/
  decoded : List Nat
  /-- Chunks staged for sending in the next plan step: stream, chunks in order. -/
  outbox : List (Nat × List Chunk)
  /-- Plan state of the last tick that had a plan step, or of the previous tick. -/
  prev : PlanTick
  /-- Loads in progress, oldest first (R110). -/
  loading : List PlanJob
  /-- Bank to which an armed switch goes (R114). -/
  armBank : Nat
  /-- Tick S of the armed switch, as SWITCH_AT named it when it was armed (R114). -/
  armAt : Nat
  /-- The step index was set at a boundary whose tick had no plan step, and has not run (R358, R360). -/
  fresh : Bool
  deriving DecidableEq, Repr

/-- The class of a shard decided in a run (Table 11.5): entry, class (1 OPEN, 2 DONE, 3 FROZEN, 4 HEADER, 5 TORN, 6 SKEW),
PROG and the tag step as read. -/
structure ShardCls where
  idx : Nat
  cls : Nat
  prog : Nat
  tag : Nat
  deriving DecidableEq, Repr

/-! ## Runs of planned work (R173, R220, R274, R317) -/

/-- A descriptor, pass, codec job or stack-mover transfer in a slot of its unit. -/
structure Run where
  /-- KIND of the action record: 1 collective, 3 UE pass, 4 transfer or codec job. -/
  kind : Nat
  /-- UNIT of the action record. -/
  unit : Nat
  slot : Nat
  bank : Nat
  /-- BLOB_OFF and STEP of the action record. -/
  off : Nat
  step : Nat
  /-- The referenced object. -/
  obj : List Byte
  /-- Step of the run, from 0. -/
  k : Nat
  /-- The slice of the current step is complete. -/
  done : Bool
  /-- Nothing further is written in this run (R207, R286). -/
  stop : Bool
  /-- Partials held in the Drum claim, by the stream they came on (R181). -/
  held : List (Nat × List Chunk)
  /-- Slices of leaf data to be merged or moved, and of results, taken so far from each stream, in order (R175, R183). -/
  taken : List (Nat × List (List Chunk))
  /-- Carried step of a collective, tag step of a pass (R191, R277, R291). -/
  stepNo : Nat
  /-- Step of the first prefix that a STAGE run has read (R292). -/
  tag : Option Nat
  /-- LR and CLIP of an APPLY run as FP32 bits (R282, R286). -/
  lr : Nat
  clip : Nat
  /-- SPW96 partial of a NORM run (R284). -/
  acc : Nat
  /-- What a NORM or FOLD sums, or the fabric total of an APPLY, is poisoned (R284, R286, R290). -/
  bad : Bool
  /-- Products of a block of R154 that its slices have not completed, as SPW96 encodings (R284). -/
  terms : List Nat
  /-- Entries whose segment was frozen at the run's first step (R287). -/
  frz : List Nat
  /-- Classes decided for the shards of a pass. -/
  classes : List ShardCls
  /-- Entries of a pass torn, or left DIRTY, in this run (R290, R292). -/
  torn : List Nat
  deriving DecidableEq, Repr

/-! ## Fabric memory (R195, R301, R319) -/

/-- A line of the atomic window of Cupola `c` (R196): its slot in the window, the HBM line it holds, and the tick of its
last atomic. Its data stands in the Drum. -/
structure Atom where
  c : Nat
  slot : Nat
  line : Nat
  tick : Nat
  deriving DecidableEq, Repr

/-- A request of a Keep mover (R319): tag, source offset and bytes, and whether its write has been issued. -/
structure MvReq where
  tag : Nat
  off : Nat
  n : Nat
  writing : Bool
  deriving DecidableEq, Repr

/-- What a Keep mover holds beside its registers: next source offset to issue, requests outstanding, the lowest source
offset whose request did not complete OK, the failing request with the lowest offset (offset, status, address), and
whether it drains to end the transfer. -/
structure Mover where
  next : Nat
  reqs : List MvReq
  low : Option Nat
  fault : Option (Nat × Nat × Nat)
  aborting : Bool
  deriving DecidableEq, Repr

/-- A Keep mover at rest. -/
def Mover.idle : Mover := { next := 0, reqs := [], low := none, fault := none, aborting := false }

/-! ## Compute tiles (R228–R251) -/

/-- A flag wait that has begun and not completed (R244): queue, instruction index, flag and count. -/
structure TileWait where
  q : Nat
  insn : Nat
  flag : Nat
  need : Nat
  deriving DecidableEq, Repr

/-- A compute tile behind its page. The tile store's bytes stand in the cell list; flags not listed hold 0. -/
structure Tile where
  /-- Module of the body that the tile runs in this tick; none when idle. -/
  body : Option (List Byte)
  /-- Bank and BLOB_OFF of that body. -/
  bank : Nat
  off : Nat
  /-- The body waits for its late copy (R249). -/
  late : Bool
  /-- Clock at which its first instruction issued. -/
  start : Nat
  /-- Instructions completed. -/
  done : List Nat
  waits : List TileWait
  flags : List (Nat × Nat)
  /-- In-streams whose AFLAG has been applied (R235). -/
  signalled : List Nat
  /-- Modules whose code the fetch bank and the shadow hold, and the one being copied, with the clock of its start. -/
  fetch : Option (List Byte)
  shadow : Option (List Byte)
  copy : Option (List Byte)
  copyAt : Nat
  /-- The CALL that holds the library engine (R259). -/
  engine : Option Nat
  /-- Writes of the Lantern to IMEM_WADDR and IMEM_WDATA while the body runs, in order: offset in the page and word (R251). -/
  imem : List (Nat × Nat)
  deriving DecidableEq, Repr

/-- A tile that has run nothing. -/
def Tile.idle : Tile :=
  { body := none, bank := 0, off := 0, late := false, start := 0, done := [], waits := [], flags := [], signalled := [],
    fetch := none, shadow := none, copy := none, copyAt := 0, engine := none, imem := [] }

/-! ## Program keys (R449) -/

/-- A program-key slot: key, TEST, and state (0 empty, 1 enrolled, 2 revoked). -/
structure KeySlot where
  key : List Byte
  test : Bool
  state : Nat
  deriving DecidableEq, Repr

/-- An empty slot. -/
def KeySlot.empty : KeySlot := { key := [], test := false, state := 0 }

/-! ## In-service checks (R333–R342) -/

/-- A scrub pass in progress (R333): next offset, end, and the granules read in the tick named. -/
structure Scrub where
  pos : Nat
  fin : Nat
  tick : Nat
  n : Nat
  deriving DecidableEq, Repr

/-- A spot-checker (R338): the armed tile (global number), and once a tick is sampled that tick, the instruction, the
elements and, once the instruction has run, the recomputed bits of each; none for a poisoned element. -/
structure Spot where
  tile : Nat
  tick : Option Nat
  insn : Nat
  elems : List Nat
  exp : List (Option Nat)
  /-- The load signature of the sampled tick (R339), taken when its body ends. -/
  load : Nat := 0
  deriving DecidableEq, Repr

/-! ## Power (R416–R427) -/

/-- What the Buttress holds beside its page. -/
structure Power where
  /-- The module is in P4, or without power at all. -/
  p4 : Bool
  off : Bool
  /-- FAULT_N is low: from a trip until the next exit from P4 (Table 20.3). -/
  fault : Bool
  /-- Clock of the last trip (R421). -/
  tripAt : Option Nat
  /-- RESET_N and SHDN_N are low (R470). -/
  resetLow : Bool
  shdnLow : Bool
  /-- The coolant interlock is confirmed (R419). -/
  coolant : Bool
  /-- PROG_EN_N was sampled low at the last reset (R473). -/
  prog : Bool
  /-- Power domains not in P0 by global number: 1 P1, 2 P2, 3 waking (R424). -/
  doms : List (Nat × Nat)
  /-- Keep buffer banks whose power-down is requested and that are not empty yet (R122). -/
  asked : List Nat := []
  /-- Clock at which a wake began, and the length in µs of the last wake, per domain (R426). -/
  wakeAt : List (Nat × Nat)
  wakeUs : List (Nat × Nat)
  deriving DecidableEq, Repr

/-- The Buttress at first power. -/
def Power.first : Power :=
  { p4 := false, off := false, fault := false, tripAt := none, resetLow := false, shdnLow := false, coolant := false,
    prog := false, doms := [], wakeAt := [], wakeUs := [] }

/-! ## Trust (R439–R462) -/

/-- OTP fuses (R442): digests of the firmware keys by slot, revoked slots, SVN_MIN. -/
structure Fuses where
  fkeys : List (Nat × List Byte)
  revoked : Nat
  svnMin : Nat
  deriving DecidableEq, Repr

/-- The Vane (R453–R456): energies counted and committed in mJ, readings formed, seconds, and the tamper fuse. -/
structure Vane where
  eMain : Nat
  eBackup : Nat
  comMain : Nat
  comBackup : Nat
  seq : Nat
  time : Nat
  tamper : Bool
  tamperTime : Nat
  /-- The last reading formed: record and signature. -/
  reading : List Byte
  deriving DecidableEq, Repr

/-- The Finial and the Vane mirror beside their pages. -/
structure Trust where
  /-- SVN of the running image (R441). -/
  svn : Nat
  /-- The staged image passed its first check: its bytes, waiting to be written (R444). -/
  update : Option (List Byte)
  /-- An attestation sample is armed; the report without its signature; the report (R452). -/
  attArmed : Bool
  attForm : List Byte
  att : List Byte
  /-- The last verified reading, and the snapshot shown (R459). -/
  vmLast : List Byte
  vmSnap : List Byte
  /-- Clock of the last verified reading. -/
  vmAt : Nat
  deriving DecidableEq, Repr

/-- The Finial after reset. -/
def Trust.idle : Trust :=
  { svn := 0, update := none, attArmed := false, attForm := [], att := [], vmLast := [], vmSnap := [], vmAt := 0 }

/-! ## The host protocol (R386–R393) -/

/-- A Moraeca request: its sender, its message, the clock at which it arrived. -/
structure Request where
  src : NetSrc
  bytes : List Byte
  at_ : Nat
  deriving DecidableEq, Repr

/-- A request under execution (R388): items done or bytes moved, the reply body so far, the status of the last item that was
not OK, and the tag of an item sent to another module. -/
structure Exec where
  req : Request
  item : Nat
  got : List Byte
  bad : Nat
  sent : Option Nat
  deriving DecidableEq, Repr

/-- An open session (R389, R390): owner, NEXT, held requests and cached replies by sequence number, the request under
execution, the clock of the last request. -/
structure Session where
  owner : NetSrc
  next : Nat
  held : List (Nat × Request)
  replies : List (Nat × List Byte)
  exec : Option Exec
  last : Nat
  deriving DecidableEq, Repr

/-- A checkpoint stream (R391): OUT is `dir` 0. `pos`: next offset to read, or to take; `acked`: bytes acknowledged, or
written; `part`: bytes of the frame being filled; `tags`: memory requests outstanding with the offset past each; `frames`: IN
frames written since the last STREAM_ACK; `count`: requests made; `since`: clock of the last new ACKED, or while the host link
is down the time run since then; `top`: how far it has been sent. -/
structure Stream where
  dir : Nat
  virt : Bool
  peer : NetSrc
  dport : Nat
  addr : Nat
  len : Nat
  pos : Nat
  acked : Nat
  part : List Byte
  tags : List (Nat × Nat)
  frames : Nat
  count : Nat
  since : Nat
  top : Nat := 0
  deriving DecidableEq, Repr

/-- What ends a command record in progress (R393): a STATUS and RESULT known already, the reply to a write with a tag, a Keep
mover's transfer, or a plan load. -/
inductive CwWait where
  | known (status result : Nat)
  | reply (tag : Nat)
  | mover (k : Nat)
  | load (bank : Nat)
  deriving DecidableEq, Repr

/-- A command window in progress (R392, R393): CONSUME, the records taken and not started, the record in progress. -/
structure CmdWin where
  cons : Nat
  todo : List (List Byte)
  cur : Option (List Byte × CwWait)
  deriving DecidableEq, Repr

/-! ## The machine -/

/-- The state of the block. -/
structure State where
  /-- The commands that wait, first in first out. -/
  pending : List Instr
  /-- What the module has put on its ports. -/
  out : List Output
  /-- Open values drawn so far (log 2). -/
  free : Nat
  /-- Core cycles (log 4). -/
  clock : Nat
  /-- Register fields that have been written; an unlisted field holds its reset value. -/
  regs : List (RegKey × Nat)
  /-- RWT writes not yet in force (R12, R35). -/
  staged : List (RegKey × Nat)
  /-- Held values of the counters, records and errors of frozen pages (R405). -/
  hidden : List (RegKey × Nat)
  /-- Critical words whose copies differ (R328). -/
  trip : List (RegKey × TripCopies)
  /-- Bits of W1C fields that hardware has set, with the clock of that cycle (R13). -/
  rose : List (RegKey × Nat × Nat)
  /-- Bytes of the addressed memories. -/
  mem : List Host.Cell
  events : EventStore
  host : HostMac
  belfry : Belfry
  links : List (Nat × Link)
  /-- Die-to-die link directions: link ID and direction (R77). -/
  d2d : List ((Nat × Nat) × D2dDir)
  reservations : List Reservation
  routes : List (Nat × Route)
  opn : OpenPlane
  arrays : Arrays
  /-- FST entries by index: eight words (R306). -/
  fst : List (Nat × List Nat)
  watch : Watch
  bankA : Option Bank
  bankB : Option Bank
  sched : Sched
  /-- Planned work in slots, in the order it started. -/
  runs : List Run
  /-- FST entries whose FREEZE was set at the start of the step (R313). -/
  frozenNow : List Nat
  /-- Lines in the atomic windows (R196). -/
  atoms : List Atom
  /-- Open requests that wait: for the wake of an HBM stack (R301), or for a tile store (R229). -/
  waiting : List Flit
  /-- Keep movers by Keep (R319). -/
  movers : List (Nat × Mover)
  /-- Clock at which the last refresh round of a stack ended (R302). -/
  roundEnd : List (Nat × Nat)
  /-- Compute tiles by global number (R228). -/
  tiles : List (Nat × Tile)
  /-- Tag step of the last NORM or APPLY of an update engine, 48 bits (Table 11.7). -/
  ueStep : List (Nat × Nat)
  /-- Program-key slots by KEY_ID (R449). -/
  keys : List (Nat × KeySlot)
  /-- Measurement registers of 64 bytes (R439): 0 BOOT_MEAS, 1 and 2 PLAN_MEAS, 3 and 4 OBJ_MEAS of banks A and B. -/
  meas : List (Nat × List Byte)
  /-- The scrub pass in progress (R333). -/
  scrub : Option Scrub
  /-- Spot-checkers by Cupola (R338). -/
  spots : List (Nat × Spot)
  /-- Last reading of each monitor and its consecutive readings past QUAR (R341): droop of site i at i, canary of site i
  at 64 + i, power of lane i at 128 + i; and at 320 the tick of the last evaluation. -/
  margin : List (Nat × Int × Nat)
  power : Power
  fuses : Fuses
  vane : Vane
  trust : Trust
  /-- Open sessions (R389), and OPEN requests received and not executed. -/
  sessions : List (Nat × Session)
  opening : List (Nat × Request)
  /-- Replies to requests of the Lantern not yet taken. -/
  answers : List Flit
  streams : List (Nat × Stream)
  windows : List (Nat × CmdWin)
  deriving DecidableEq, Repr

/-- Why the machine could stop with a fault. -/
inductive Fault where
  /-- Raised by no command: every error of the specification is an effect on the state. Safe: a stop hides no effect. -/
  | halted
  deriving DecidableEq, Repr

/-- Why a command could have no meaning. -/
inductive Refusal where
  /-- Raised by exec for a command whose meaning is not written yet. Safe: nothing is claimed of such a command. -/
  | notModelled (mnemonic : String)
  deriving DecidableEq, Repr

/-- The state right after a cold reset (R428, R432): registers at their reset values, nothing queued, no memory listed. -/
def State.reset : State where
  pending := []
  out := []
  free := 0
  clock := 0
  regs := []
  staged := []
  hidden := []
  trip := []
  rose := []
  mem := []
  events := { next := 0, items := [], dropped := 0 }
  host :=
    { strict := [], weighted := [], vt := 0, pauseEnd := [], police := [], shape := [], ingress := [], pfcAt := [],
      rr := 7, reasm := [], cur := none, lantern := [] }
  belfry :=
    { tick := 0, tickStart := 0, tickLen := 8192, stepCount := 0, perArmed := none, skipMap := [], trimRun := 0,
      trimSat := false, marks := [], seenMarks := [], silent := [], charges := [], overruns := [], thrWindow := 0,
      thrLast := none, thrLive := false, cfgPrev := (0, 0), cfgBad := false, flooded := [],
      past := [], srIncs := 0, early := [] }
  links := []
  d2d := []
  reservations := []
  routes := []
  opn := { inputs := [], ready := [], egress := [], wrr := [], service := [], cut := [], landing := [], discarded := 0 }
  arrays := { symErr := [], corrected := [], merge := [], lanes := [], records := [], flits := [] }
  fst := []
  watch := Watch.idle
  bankA := none
  bankB := none
  sched :=
    { landing := [], counts := [], taken := [], inbox := [], lasts := [], decoded := [], outbox := [],
      prev := { tick := 0, bank := 0, step := 0, var := 0, runs := false }, loading := [], armBank := 0, armAt := 0, fresh := false }
  runs := []
  frozenNow := []
  atoms := []
  waiting := []
  movers := []
  roundEnd := []
  tiles := []
  ueStep := []
  keys := []
  meas := []
  scrub := none
  spots := []
  margin := []
  power := Power.first
  fuses := { fkeys := [], revoked := 0, svnMin := 0 }
  vane :=
    { eMain := 0, eBackup := 0, comMain := 0, comBackup := 0, seq := 0, time := 0, tamper := false, tamperTime := 0,
      reading := [] }
  trust := Trust.idle
  sessions := []
  opening := []
  answers := []
  streams := []
  windows := []

end Sys2Proof.Machine
end

