-- ==== Sys2Proof/Machine/Pages.lean ====
section
/-! DEFINITION. The register pages: every field of the register tables (02.5 to 19.10) with its offset, lowest bit,
width, access code, kind and reset value, and the pages of Table 17.4. -/

namespace Sys2Proof.Machine

open Sys2Proof

/-! ## Bel: Table 02.5 (R55) -/

/-- PER_U of Table 02.5. -/
def Bel.PER_U : Reg := ⟨0x100, 0, 9, .rw, .setting, 0x20, 1, 4⟩
/-- PER_CUR of Table 02.5. -/
def Bel.PER_CUR : Reg := ⟨0x100, 16, 9, .ro, .status, 0x20, 1, 4⟩
/-- PERIOD_AT_LO of Table 02.5. -/
def Bel.PERIOD_AT_LO : Reg := ⟨0x104, 0, 32, .rw, .setting, 0x0, 1, 4⟩
/-- PERIOD_AT_HI of Table 02.5. -/
def Bel.PERIOD_AT_HI : Reg := ⟨0x108, 0, 16, .rw, .setting, 0x0, 1, 4⟩
/-- NOW_LO of Table 02.5. -/
def Bel.NOW_LO : Reg := ⟨0x10C, 0, 32, .ro, .status, 0x0, 1, 4⟩
/-- NOW_HI of Table 02.5. -/
def Bel.NOW_HI : Reg := ⟨0x110, 0, 16, .ro, .status, 0x0, 1, 4⟩
/-- JOINED of Table 02.5. -/
def Bel.JOINED : Reg := ⟨0x110, 31, 1, .ro, .status, 0x0, 1, 4⟩
/-- OFFSET of Table 02.5. -/
def Bel.OFFSET : Reg := ⟨0x114, 0, 16, .ro, .status, 0x0, 1, 4⟩
/-- SKIPPED of Table 02.5. -/
def Bel.SKIPPED : Reg := ⟨0x114, 31, 1, .ro, .status, 0x0, 1, 4⟩
/-- WIN of Table 02.5. -/
def Bel.WIN : Reg := ⟨0x118, 0, 5, .rw, .setting, 0x10, 1, 4⟩
/-- G16 of Table 02.5. -/
def Bel.G16 : Reg := ⟨0x11C, 0, 8, .rwt, .setting, 0x8, 1, 4⟩
/-- TRIM_MAX of Table 02.5. -/
def Bel.TRIM_MAX : Reg := ⟨0x120, 0, 4, .rw, .setting, 0x4, 1, 4⟩
/-- TRIM_EN of Table 02.5. -/
def Bel.TRIM_EN : Reg := ⟨0x120, 4, 1, .rw, .setting, 0x1, 1, 4⟩
/-- LAST_TRIM of Table 02.5. -/
def Bel.LAST_TRIM : Reg := ⟨0x120, 8, 8, .ro, .status, 0x0, 1, 4⟩
/-- SKEW of Table 02.5. -/
def Bel.SKEW : Reg := ⟨0x124, 0, 24, .ro, .status, 0x0, 6, 4⟩
/-- VALID of Table 02.5. -/
def Bel.SKEW_VALID : Reg := ⟨0x124, 31, 1, .ro, .status, 0x0, 6, 4⟩
/-- STEP_LO of Table 02.5. -/
def Bel.STEP_LO : Reg := ⟨0x140, 0, 32, .ro, .status, 0x0, 1, 4⟩
/-- STEP_HI of Table 02.5. -/
def Bel.STEP_HI : Reg := ⟨0x144, 0, 16, .ro, .status, 0x0, 1, 4⟩
/-- LEAD of Table 02.5. -/
def Bel.LEAD : Reg := ⟨0x148, 0, 10, .rw, .setting, 0x40, 1, 4⟩
/-- HOST_EN of Table 02.5. -/
def Bel.HOST_EN : Reg := ⟨0x148, 16, 1, .rw, .setting, 0x0, 1, 4⟩
/-- SKIP_REQ of Table 02.5. -/
def Bel.SKIP_REQ : Reg := ⟨0x14C, 0, 1, .wo, .trigger, 0x0, 1, 4⟩
/-- SKIP_CNT of Table 02.5. -/
def Bel.SKIP_CNT : Reg := ⟨0x150, 0, 32, .ro, .counterWrap, 0x0, 1, 4⟩
/-- THR_TEMP of Table 02.5. -/
def Bel.THR_TEMP : Reg := ⟨0x154, 0, 8, .rwl, .setting, 0x5F, 1, 4⟩
/-- THR_POWER of Table 02.5. -/
def Bel.THR_POWER : Reg := ⟨0x154, 8, 13, .rwl, .setting, 0x1130, 1, 4⟩
/-- T_HYST of Table 02.5. -/
def Bel.T_HYST : Reg := ⟨0x154, 24, 4, .rw, .setting, 0x4, 1, 4⟩
/-- THR_EN of Table 02.5. -/
def Bel.THR_EN : Reg := ⟨0x154, 31, 1, .rwl, .setting, 0x1, 1, 4⟩
/-- MAX_SKIP of Table 02.5. -/
def Bel.MAX_SKIP : Reg := ⟨0x158, 0, 6, .rw, .setting, 0x20, 1, 4⟩
/-- F of Table 02.5. -/
def Bel.F : Reg := ⟨0x15C, 0, 6, .ro, .status, 0x0, 1, 4⟩
/-- TEMP_ACT of Table 02.5. -/
def Bel.TEMP_ACT : Reg := ⟨0x15C, 8, 1, .ro, .status, 0x0, 1, 4⟩
/-- POWER_ACT of Table 02.5. -/
def Bel.POWER_ACT : Reg := ⟨0x15C, 9, 1, .ro, .status, 0x0, 1, 4⟩
/-- HOT_SENSOR of Table 02.5. -/
def Bel.HOT_SENSOR : Reg := ⟨0x15C, 16, 6, .ro, .status, 0x0, 1, 4⟩
/-- VALID of Table 02.5. -/
def Bel.OVR_VALID : Reg := ⟨0x180, 0, 1, .w1c, .record, 0x0, 1, 4⟩
/-- CAUSE of Table 02.5. -/
def Bel.OVR_CAUSE : Reg := ⟨0x180, 4, 4, .ro, .record, 0x0, 1, 4⟩
/-- COUNT of Table 02.5. -/
def Bel.OVR_COUNT : Reg := ⟨0x180, 16, 16, .ro, .record, 0x0, 1, 4⟩
/-- OVR_UNIT of Table 02.5. -/
def Bel.OVR_UNIT : Reg := ⟨0x184, 0, 32, .ro, .record, 0x0, 1, 4⟩
/-- STEP_INDEX of Table 02.5. -/
def Bel.OVR_STEP_INDEX : Reg := ⟨0x188, 0, 24, .ro, .record, 0x0, 1, 4⟩
/-- BANK of Table 02.5. -/
def Bel.OVR_BANK : Reg := ⟨0x188, 31, 1, .ro, .record, 0x0, 1, 4⟩
/-- OVR_TICK_LO of Table 02.5. -/
def Bel.OVR_TICK_LO : Reg := ⟨0x18C, 0, 32, .ro, .record, 0x0, 1, 4⟩
/-- OVR_TICK_HI of Table 02.5. -/
def Bel.OVR_TICK_HI : Reg := ⟨0x190, 0, 16, .ro, .record, 0x0, 1, 4⟩
/-- OVR_DETAIL of Table 02.5. -/
def Bel.OVR_DETAIL : Reg := ⟨0x194, 0, 32, .ro, .record, 0x0, 1, 4⟩

/-- Fields of Table 02.5, part 0. -/
def Bel.fields0 : List Reg := [Bel.PER_U, Bel.PER_CUR, Bel.PERIOD_AT_LO, Bel.PERIOD_AT_HI, Bel.NOW_LO, Bel.NOW_HI, Bel.JOINED, Bel.OFFSET, Bel.SKIPPED, Bel.WIN, Bel.G16, Bel.TRIM_MAX, Bel.TRIM_EN, Bel.LAST_TRIM, Bel.SKEW, Bel.SKEW_VALID, Bel.STEP_LO, Bel.STEP_HI, Bel.LEAD, Bel.HOST_EN, Bel.SKIP_REQ, Bel.SKIP_CNT, Bel.THR_TEMP, Bel.THR_POWER]
/-- Fields of Table 02.5, part 1. -/
def Bel.fields1 : List Reg := [Bel.T_HYST, Bel.THR_EN, Bel.MAX_SKIP, Bel.F, Bel.TEMP_ACT, Bel.POWER_ACT, Bel.HOT_SENSOR, Bel.OVR_VALID, Bel.OVR_CAUSE, Bel.OVR_COUNT, Bel.OVR_UNIT, Bel.OVR_STEP_INDEX, Bel.OVR_BANK, Bel.OVR_TICK_LO, Bel.OVR_TICK_HI, Bel.OVR_DETAIL]
/-- All fields of Table 02.5. -/
def Bel.fields : List Reg := Bel.fields0 ++ Bel.fields1

/-! ## Lnk: Table 03.8 (R95) -/

/-- LSTATE of Table 03.8. -/
def Lnk.LSTATE : Reg := ⟨0x100, 0, 3, .ro, .status, 0x0, 1, 4⟩
/-- EN of Table 03.8. -/
def Lnk.EN : Reg := ⟨0x104, 0, 1, .rw, .setting, 0x1, 1, 4⟩
/-- RETRAIN of Table 03.8. -/
def Lnk.RETRAIN : Reg := ⟨0x104, 1, 1, .wo, .trigger, 0x0, 1, 4⟩
/-- LOOPBACK of Table 03.8. -/
def Lnk.LOOPBACK : Reg := ⟨0x104, 2, 1, .rw, .setting, 0x0, 1, 4⟩
/-- LD of Table 03.8. -/
def Lnk.LD : Reg := ⟨0x108, 0, 24, .ro, .status, 0x0, 1, 4⟩
/-- REPLAY_WIN of Table 03.8. -/
def Lnk.REPLAY_WIN : Reg := ⟨0x10C, 0, 16, .ro, .status, 0x0, 1, 4⟩
/-- REPLAY_LIM of Table 03.8. -/
def Lnk.REPLAY_LIM : Reg := ⟨0x10C, 16, 4, .rw, .setting, 0x8, 1, 4⟩
/-- FEC_CORR of Table 03.8. -/
def Lnk.FEC_CORR : Reg := ⟨0x110, 0, 32, .ro, .counterWrap, 0x0, 1, 4⟩
/-- FEC_UNCORR of Table 03.8. -/
def Lnk.FEC_UNCORR : Reg := ⟨0x114, 0, 32, .ro, .counterWrap, 0x0, 1, 4⟩
/-- CRC_FAIL of Table 03.8. -/
def Lnk.CRC_FAIL : Reg := ⟨0x118, 0, 32, .ro, .counterWrap, 0x0, 1, 4⟩
/-- REPLAYS of Table 03.8. -/
def Lnk.REPLAYS : Reg := ⟨0x11C, 0, 32, .ro, .counterWrap, 0x0, 1, 4⟩
/-- REPLAY_CC of Table 03.8. -/
def Lnk.REPLAY_CC : Reg := ⟨0x120, 0, 32, .ro, .counterWrap, 0x0, 1, 4⟩
/-- LANE_SEL of Table 03.8. -/
def Lnk.LANE_SEL : Reg := ⟨0x124, 0, 5, .rw, .setting, 0x0, 1, 4⟩
/-- LANE_SYM of Table 03.8. -/
def Lnk.LANE_SYM : Reg := ⟨0x128, 0, 32, .ro, .counterWrap, 0x0, 1, 4⟩
/-- VC_DISCARD of Table 03.8. -/
def Lnk.VC_DISCARD : Reg := ⟨0x12C, 0, 32, .ro, .counterWrap, 0x0, 1, 4⟩
/-- CRED_AVAIL of Table 03.8. -/
def Lnk.CRED_AVAIL : Reg := ⟨0x140, 0, 16, .ro, .status, 0x0, 8, 4⟩
/-- CRED_INIT of Table 03.8. -/
def Lnk.CRED_INIT : Reg := ⟨0x140, 16, 16, .ro, .status, 0x0, 8, 4⟩

/-- The 32 counters behind LANE_SYM, one for each value of LANE_SEL; they lie beyond the page, where no access reaches. -/
def Lnk.laneCnt : Reg := ⟨0x1000, 0, 32, .ro, .counterWrap, 0x0, 32, 4⟩

/-- Fields of Table 03.8, part 0. -/
def Lnk.fields0 : List Reg := [Lnk.LSTATE, Lnk.EN, Lnk.RETRAIN, Lnk.LOOPBACK, Lnk.LD, Lnk.REPLAY_WIN, Lnk.REPLAY_LIM, Lnk.FEC_CORR, Lnk.FEC_UNCORR, Lnk.CRC_FAIL, Lnk.REPLAYS, Lnk.REPLAY_CC, Lnk.LANE_SEL, Lnk.LANE_SYM, Lnk.VC_DISCARD, Lnk.CRED_AVAIL, Lnk.CRED_INIT]
/-- All fields of Table 03.8. -/
def Lnk.fields : List Reg := Lnk.fields0 ++ [Lnk.laneCnt]

/-! ## Ept: Table 03.9 (R95) -/

/-- EP_SKEW of Table 03.9. -/
def Ept.EP_SKEW : Reg := ⟨0x180, 0, 24, .ro, .status, 0x0, 1, 4⟩
/-- CRED_TO of Table 03.9. -/
def Ept.CRED_TO : Reg := ⟨0x184, 0, 16, .rw, .setting, 0x64, 1, 4⟩
/-- OUTSTANDING of Table 03.9. -/
def Ept.OUTSTANDING : Reg := ⟨0x188, 0, 13, .ro, .status, 0x0, 1, 4⟩
/-- OPEN_TMO of Table 03.9. -/
def Ept.OPEN_TMO : Reg := ⟨0x18C, 0, 16, .rw, .setting, 0x40, 1, 4⟩
/-- TIMEOUTS of Table 03.9. -/
def Ept.TIMEOUTS : Reg := ⟨0x190, 0, 32, .ro, .counterWrap, 0x0, 1, 4⟩
/-- STALE_DONE of Table 03.9. -/
def Ept.STALE_DONE : Reg := ⟨0x194, 0, 32, .ro, .counterWrap, 0x0, 1, 4⟩
/-- LATE_RSP of Table 03.9. -/
def Ept.LATE_RSP : Reg := ⟨0x198, 0, 32, .ro, .counterWrap, 0x0, 1, 4⟩
/-- TAG_ERRS of Table 03.9. -/
def Ept.TAG_ERRS : Reg := ⟨0x19C, 0, 32, .ro, .counterWrap, 0x0, 1, 4⟩

/-- Fields of Table 03.9, part 0. -/
def Ept.fields0 : List Reg := [Ept.EP_SKEW, Ept.CRED_TO, Ept.OUTSTANDING, Ept.OPEN_TMO, Ept.TIMEOUTS, Ept.STALE_DONE, Ept.LATE_RSP, Ept.TAG_ERRS]
/-- All fields of Table 03.9. -/
def Ept.fields : List Reg := Ept.fields0

/-! ## Tor: Table 03.10 (R95) -/

/-- PEER_COORD of Table 03.10. -/
def Tor.PEER_COORD : Reg := ⟨0x180, 0, 15, .ro, .status, 0x0, 1, 4⟩
/-- PEER_DIR of Table 03.10. -/
def Tor.PEER_DIR : Reg := ⟨0x180, 16, 3, .ro, .status, 0x0, 1, 4⟩
/-- PEER_VALID of Table 03.10. -/
def Tor.PEER_VALID : Reg := ⟨0x180, 31, 1, .ro, .status, 0x0, 1, 4⟩
/-- DATELINE of Table 03.10. -/
def Tor.DATELINE : Reg := ⟨0x184, 0, 1, .ro, .status, 0x0, 1, 4⟩

/-- Fields of Table 03.10, part 0. -/
def Tor.fields0 : List Reg := [Tor.PEER_COORD, Tor.PEER_DIR, Tor.PEER_VALID, Tor.DATELINE]
/-- All fields of Table 03.10. -/
def Tor.fields : List Reg := Tor.fields0

/-! ## Kr: Table 03.12 (R96) -/

/-- COORD of Table 03.12. -/
def Kr.COORD : Reg := ⟨0x100, 0, 15, .rwl, .setting, 0x0, 1, 4⟩
/-- EXTENT of Table 03.12. -/
def Kr.EXTENT : Reg := ⟨0x104, 0, 15, .rwl, .setting, 0x0, 1, 4⟩
/-- CUR of Table 03.12. -/
def Kr.CUR : Reg := ⟨0x108, 0, 1, .ro, .status, 0x0, 1, 4⟩
/-- DRAINING of Table 03.12. -/
def Kr.DRAINING : Reg := ⟨0x108, 1, 1, .ro, .status, 0x0, 1, 4⟩
/-- ARMED of Table 03.12. -/
def Kr.ARMED : Reg := ⟨0x108, 2, 1, .ro, .status, 0x0, 1, 4⟩
/-- FLIP_AT_LO of Table 03.12. -/
def Kr.FLIP_AT_LO : Reg := ⟨0x10C, 0, 32, .rw, .setting, 0x0, 1, 4⟩
/-- FLIP_AT_HI of Table 03.12. -/
def Kr.FLIP_AT_HI : Reg := ⟨0x110, 0, 16, .rw, .setting, 0x0, 1, 4⟩
/-- FLOOD of Table 03.12. -/
def Kr.FLOOD : Reg := ⟨0x110, 16, 1, .rw, .setting, 0x0, 1, 4⟩
/-- DRAIN of Table 03.12. -/
def Kr.DRAIN : Reg := ⟨0x114, 0, 10, .rw, .setting, 0x10, 1, 4⟩
/-- AGE_MAX of Table 03.12. -/
def Kr.AGE_MAX : Reg := ⟨0x114, 16, 14, .rw, .setting, 0x400, 1, 4⟩
/-- A_FILLED of Table 03.12. -/
def Kr.A_FILLED : Reg := ⟨0x118, 0, 1, .rw, .setting, 0x0, 1, 4⟩
/-- A_IN_USE of Table 03.12. -/
def Kr.A_IN_USE : Reg := ⟨0x118, 1, 1, .ro, .status, 0x1, 1, 4⟩
/-- B_FILLED of Table 03.12. -/
def Kr.B_FILLED : Reg := ⟨0x11C, 0, 1, .rw, .setting, 0x0, 1, 4⟩
/-- B_IN_USE of Table 03.12. -/
def Kr.B_IN_USE : Reg := ⟨0x11C, 1, 1, .ro, .status, 0x0, 1, 4⟩
/-- SUM_A of Table 03.12. -/
def Kr.SUM_A : Reg := ⟨0x120, 0, 32, .ro, .status, 0x0, 1, 4⟩
/-- SUM_B of Table 03.12. -/
def Kr.SUM_B : Reg := ⟨0x124, 0, 32, .ro, .status, 0x0, 1, 4⟩
/-- TBL_BANK of Table 03.12. -/
def Kr.TBL_BANK : Reg := ⟨0x128, 0, 1, .rw, .setting, 0x0, 1, 4⟩
/-- TBL_KIND of Table 03.12. -/
def Kr.TBL_KIND : Reg := ⟨0x128, 1, 2, .rw, .setting, 0x0, 1, 4⟩
/-- TBL_INDEX of Table 03.12. -/
def Kr.TBL_INDEX : Reg := ⟨0x128, 16, 15, .rw, .setting, 0x0, 1, 4⟩
/-- TBL_DATA of Table 03.12. -/
def Kr.TBL_DATA : Reg := ⟨0x12C, 0, 32, .rw, .setting, 0x0, 1, 4⟩
/-- HDR_CRC_ERR of Table 03.12. -/
def Kr.HDR_CRC_ERR : Reg := ⟨0x130, 0, 32, .ro, .counterWrap, 0x0, 1, 4⟩
/-- STALE of Table 03.12. -/
def Kr.STALE : Reg := ⟨0x134, 0, 32, .ro, .counterWrap, 0x0, 1, 4⟩
/-- UNROUTABLE of Table 03.12. -/
def Kr.UNROUTABLE : Reg := ⟨0x138, 0, 32, .ro, .counterWrap, 0x0, 1, 4⟩
/-- AGED of Table 03.12. -/
def Kr.AGED : Reg := ⟨0x13C, 0, 32, .ro, .counterWrap, 0x0, 1, 4⟩

/-- Fields of Table 03.12, part 0. -/
def Kr.fields0 : List Reg := [Kr.COORD, Kr.EXTENT, Kr.CUR, Kr.DRAINING, Kr.ARMED, Kr.FLIP_AT_LO, Kr.FLIP_AT_HI, Kr.FLOOD, Kr.DRAIN, Kr.AGE_MAX, Kr.A_FILLED, Kr.A_IN_USE, Kr.B_FILLED, Kr.B_IN_USE, Kr.SUM_A, Kr.SUM_B, Kr.TBL_BANK, Kr.TBL_KIND, Kr.TBL_INDEX, Kr.TBL_DATA, Kr.HDR_CRC_ERR, Kr.STALE, Kr.UNROUTABLE, Kr.AGED]
/-- All fields of Table 03.12. -/
def Kr.fields : List Reg := Kr.fields0

/-! ## Pln: Table 04.8 (R119) -/

/-- BASE_LO of Table 04.8. -/
def Pln.BASE_LO : Reg := ⟨0x160, 12, 20, .rw, .setting, 0x0, 1, 4⟩
/-- BASE_HI of Table 04.8. -/
def Pln.BASE_HI : Reg := ⟨0x164, 0, 8, .rw, .setting, 0x0, 1, 4⟩
/-- PLAN_LEN of Table 04.8. -/
def Pln.PLAN_LEN : Reg := ⟨0x168, 0, 32, .rw, .setting, 0x0, 1, 4⟩
/-- LOAD_BANK of Table 04.8. -/
def Pln.LOAD_BANK : Reg := ⟨0x16C, 0, 1, .rw, .setting, 0x0, 1, 4⟩
/-- LOAD of Table 04.8. -/
def Pln.LOAD : Reg := ⟨0x16C, 1, 1, .wo, .trigger, 0x0, 1, 4⟩
/-- ACTIVE of Table 04.8. -/
def Pln.ACTIVE : Reg := ⟨0x170, 0, 1, .ro, .status, 0x0, 1, 4⟩
/-- A_STATE of Table 04.8. -/
def Pln.A_STATE : Reg := ⟨0x170, 2, 2, .ro, .status, 0x0, 1, 4⟩
/-- B_STATE of Table 04.8. -/
def Pln.B_STATE : Reg := ⟨0x170, 4, 2, .ro, .status, 0x0, 1, 4⟩
/-- ARMED of Table 04.8. -/
def Pln.ARMED : Reg := ⟨0x170, 8, 1, .ro, .status, 0x0, 1, 4⟩
/-- LANDING_OLD of Table 04.8. -/
def Pln.LANDING_OLD : Reg := ⟨0x170, 9, 1, .ro, .status, 0x0, 1, 4⟩
/-- SWITCH_AT_LO of Table 04.8. -/
def Pln.SWITCH_AT_LO : Reg := ⟨0x174, 0, 32, .rw, .setting, 0x0, 1, 4⟩
/-- SWITCH_AT_HI of Table 04.8. -/
def Pln.SWITCH_AT_HI : Reg := ⟨0x178, 0, 16, .rw, .setting, 0x0, 1, 4⟩
/-- DISARM of Table 04.8. -/
def Pln.DISARM : Reg := ⟨0x178, 16, 1, .wo, .trigger, 0x0, 1, 4⟩
/-- STEP_IDX of Table 04.8. -/
def Pln.STEP_IDX : Reg := ⟨0x17C, 0, 24, .ro, .status, 0x0, 1, 4⟩
/-- VAR_CUR of Table 04.8. -/
def Pln.VAR_CUR : Reg := ⟨0x180, 0, 6, .ro, .status, 0x0, 1, 4⟩
/-- VAR_NEXT of Table 04.8. -/
def Pln.VAR_NEXT : Reg := ⟨0x180, 8, 6, .ro, .status, 0x0, 1, 4⟩
/-- VAR_ARMED of Table 04.8. -/
def Pln.VAR_ARMED : Reg := ⟨0x180, 16, 1, .ro, .status, 0x0, 1, 4⟩
/-- VAR_AT_LO of Table 04.8. -/
def Pln.VAR_AT_LO : Reg := ⟨0x184, 0, 32, .ro, .status, 0x0, 1, 4⟩
/-- VAR_AT_HI of Table 04.8. -/
def Pln.VAR_AT_HI : Reg := ⟨0x188, 0, 16, .ro, .status, 0x0, 1, 4⟩
/-- VAR_STEP of Table 04.8. -/
def Pln.VAR_STEP : Reg := ⟨0x18C, 0, 24, .ro, .status, 0x0, 1, 4⟩
/-- PLAN_ID_LO of Table 04.8. -/
def Pln.PLAN_ID_LO : Reg := ⟨0x190, 0, 32, .ro, .status, 0x0, 1, 4⟩
/-- PLAN_ID_HI of Table 04.8. -/
def Pln.PLAN_ID_HI : Reg := ⟨0x194, 0, 32, .ro, .status, 0x0, 1, 4⟩
/-- ERR_CODE of Table 04.8. -/
def Pln.ERR_CODE : Reg := ⟨0x198, 0, 8, .ro, .record, 0x0, 1, 4⟩
/-- ERR_VALID of Table 04.8. -/
def Pln.ERR_VALID : Reg := ⟨0x198, 8, 1, .w1c, .record, 0x0, 1, 4⟩
/-- ERR_SECTION of Table 04.8. -/
def Pln.ERR_SECTION : Reg := ⟨0x198, 16, 10, .ro, .record, 0x0, 1, 4⟩
/-- ERR_OWNER of Table 04.8. -/
def Pln.ERR_OWNER : Reg := ⟨0x198, 26, 4, .ro, .record, 0x0, 1, 4⟩
/-- ERR_RECORD of Table 04.8. -/
def Pln.ERR_RECORD : Reg := ⟨0x19C, 0, 32, .ro, .record, 0x0, 1, 4⟩
/-- ERR_STEP of Table 04.8. -/
def Pln.ERR_STEP : Reg := ⟨0x1A0, 0, 24, .ro, .record, 0x0, 1, 4⟩
/-- ERR_LINK of Table 04.8. -/
def Pln.ERR_LINK : Reg := ⟨0x1A0, 24, 8, .ro, .record, 0x0, 1, 4⟩
/-- ERR_DETAIL of Table 04.8. -/
def Pln.ERR_DETAIL : Reg := ⟨0x1A4, 0, 32, .ro, .record, 0x0, 1, 4⟩

/-- Fields of Table 04.8, part 0. -/
def Pln.fields0 : List Reg := [Pln.BASE_LO, Pln.BASE_HI, Pln.PLAN_LEN, Pln.LOAD_BANK, Pln.LOAD, Pln.ACTIVE, Pln.A_STATE, Pln.B_STATE, Pln.ARMED, Pln.LANDING_OLD, Pln.SWITCH_AT_LO, Pln.SWITCH_AT_HI, Pln.DISARM, Pln.STEP_IDX, Pln.VAR_CUR, Pln.VAR_NEXT, Pln.VAR_ARMED, Pln.VAR_AT_LO, Pln.VAR_AT_HI, Pln.VAR_STEP, Pln.PLAN_ID_LO, Pln.PLAN_ID_HI, Pln.ERR_CODE, Pln.ERR_VALID]
/-- Fields of Table 04.8, part 1. -/
def Pln.fields1 : List Reg := [Pln.ERR_SECTION, Pln.ERR_OWNER, Pln.ERR_RECORD, Pln.ERR_STEP, Pln.ERR_LINK, Pln.ERR_DETAIL]
/-- All fields of Table 04.8. -/
def Pln.fields : List Reg := Pln.fields0 ++ Pln.fields1

/-! ## Slt: Table 04.9 (R119) -/

/-- SLOT_USED_A of Table 04.9. -/
def Slt.SLOT_USED_A : Reg := ⟨0x1C0, 0, 19, .ro, .status, 0x0, 1, 4⟩
/-- SLOT_USED_B of Table 04.9. -/
def Slt.SLOT_USED_B : Reg := ⟨0x1C4, 0, 19, .ro, .status, 0x0, 1, 4⟩
/-- LAND_MAX of Table 04.9. -/
def Slt.LAND_MAX : Reg := ⟨0x1C8, 0, 11, .rw, .setting, 0x100, 1, 4⟩
/-- LAND_SIZE of Table 04.9. -/
def Slt.LAND_SIZE : Reg := ⟨0x1CC, 0, 32, .ro, .status, 0x0, 1, 4⟩
/-- SCHED_DISCARD of Table 04.9. -/
def Slt.SCHED_DISCARD : Reg := ⟨0x1D0, 0, 32, .ro, .counterWrap, 0x0, 1, 4⟩

/-- Fields of Table 04.9, part 0. -/
def Slt.fields0 : List Reg := [Slt.SLOT_USED_A, Slt.SLOT_USED_B, Slt.LAND_MAX, Slt.LAND_SIZE, Slt.SCHED_DISCARD]
/-- All fields of Table 04.9. -/
def Slt.fields : List Reg := Slt.fields0

/-! ## Opn: Table 05.1 (R140) -/

/-- POOL_CELLS of Table 05.1. -/
def Opn.POOL_CELLS : Reg := ⟨0x200, 0, 21, .ro, .status, 0x0, 1, 4⟩
/-- POOL_FREE of Table 05.1. -/
def Opn.POOL_FREE : Reg := ⟨0x204, 0, 21, .ro, .status, 0x0, 1, 4⟩
/-- POOL_LOW of Table 05.1. -/
def Opn.POOL_LOW : Reg := ⟨0x208, 0, 21, .rw, .setting, 0x20000, 1, 4⟩
/-- SHARE_CAP of Table 05.1. -/
def Opn.SHARE_CAP : Reg := ⟨0x210, 0, 16, .rw, .setting, 0x0, 4, 4⟩
/-- MARK_THRESH of Table 05.1. -/
def Opn.MARK_THRESH : Reg := ⟨0x210, 16, 16, .rw, .setting, 0x0, 4, 4⟩
/-- FWD_MODE of Table 05.1. -/
def Opn.FWD_MODE : Reg := ⟨0x220, 0, 24, .rw, .setting, 0x0, 1, 4⟩
/-- REQ_W of Table 05.1. -/
def Opn.REQ_W : Reg := ⟨0x224, 0, 4, .rw, .setting, 0x1, 1, 4⟩
/-- BULK_W of Table 05.1. -/
def Opn.BULK_W : Reg := ⟨0x224, 4, 4, .rw, .setting, 0x1, 1, 4⟩
/-- SPILL_REQ of Table 05.1. -/
def Opn.SPILL_REQ : Reg := ⟨0x228, 0, 1, .rw, .setting, 0x1, 1, 4⟩
/-- SPILL_RSP of Table 05.1. -/
def Opn.SPILL_RSP : Reg := ⟨0x228, 1, 1, .rw, .setting, 0x0, 1, 4⟩
/-- SPILL_BULK of Table 05.1. -/
def Opn.SPILL_BULK : Reg := ⟨0x228, 2, 1, .rw, .setting, 0x1, 1, 4⟩
/-- SPILL_DEPTH of Table 05.1. -/
def Opn.SPILL_DEPTH : Reg := ⟨0x228, 16, 16, .rw, .setting, 0x1000, 1, 4⟩
/-- OVF_BASE of Table 05.1. -/
def Opn.OVF_BASE : Reg := ⟨0x22C, 0, 10, .rw, .setting, 0x70, 1, 4⟩
/-- OVF_SIZE of Table 05.1. -/
def Opn.OVF_SIZE : Reg := ⟨0x22C, 16, 7, .rw, .setting, 0x10, 1, 4⟩
/-- OVF_USED of Table 05.1. -/
def Opn.OVF_USED : Reg := ⟨0x230, 0, 24, .ro, .status, 0x0, 1, 4⟩
/-- SPILLED_Q of Table 05.1. -/
def Opn.SPILLED_Q : Reg := ⟨0x234, 0, 6, .ro, .status, 0x0, 1, 4⟩
/-- SPILL_FLITS of Table 05.1. -/
def Opn.SPILL_FLITS : Reg := ⟨0x238, 0, 32, .ro, .counterWrap, 0x0, 1, 4⟩
/-- OVF_FULL of Table 05.1. -/
def Opn.OVF_FULL : Reg := ⟨0x23C, 0, 32, .ro, .counterWrap, 0x0, 1, 4⟩
/-- OVF_ECC of Table 05.1. -/
def Opn.OVF_ECC : Reg := ⟨0x240, 0, 32, .ro, .counterWrap, 0x0, 1, 4⟩
/-- MARKED of Table 05.1. -/
def Opn.MARKED : Reg := ⟨0x244, 0, 32, .ro, .counterWrap, 0x0, 1, 4⟩
/-- FWD_POISON of Table 05.1. -/
def Opn.FWD_POISON : Reg := ⟨0x248, 0, 32, .ro, .counterWrap, 0x0, 1, 4⟩
/-- Q_VC of Table 05.1. -/
def Opn.Q_VC : Reg := ⟨0x250, 0, 3, .rw, .setting, 0x0, 1, 4⟩
/-- Q_OUT of Table 05.1. -/
def Opn.Q_OUT : Reg := ⟨0x250, 4, 3, .rw, .setting, 0x0, 1, 4⟩
/-- Q_SRAM of Table 05.1. -/
def Opn.Q_SRAM : Reg := ⟨0x254, 0, 21, .ro, .status, 0x0, 1, 4⟩
/-- Q_HBM of Table 05.1. -/
def Opn.Q_HBM : Reg := ⟨0x258, 0, 28, .ro, .status, 0x0, 1, 4⟩

/-- Fields of Table 05.1, part 0. -/
def Opn.fields0 : List Reg := [Opn.POOL_CELLS, Opn.POOL_FREE, Opn.POOL_LOW, Opn.SHARE_CAP, Opn.MARK_THRESH, Opn.FWD_MODE, Opn.REQ_W, Opn.BULK_W, Opn.SPILL_REQ, Opn.SPILL_RSP, Opn.SPILL_BULK, Opn.SPILL_DEPTH, Opn.OVF_BASE, Opn.OVF_SIZE, Opn.OVF_USED, Opn.SPILLED_Q, Opn.SPILL_FLITS, Opn.OVF_FULL, Opn.OVF_ECC, Opn.MARKED, Opn.FWD_POISON, Opn.Q_VC, Opn.Q_OUT, Opn.Q_SRAM]
/-- Fields of Table 05.1, part 1. -/
def Opn.fields1 : List Reg := [Opn.Q_HBM]
/-- All fields of Table 05.1. -/
def Opn.fields : List Reg := Opn.fields0 ++ Opn.fields1

/-! ## Hst: Table 05.2 (R140) -/

/-- POL_RATE of Table 05.2. -/
def Hst.POL_RATE : Reg := ⟨0x300, 0, 21, .rw, .setting, 0x0, 8, 8⟩
/-- POL_EN of Table 05.2. -/
def Hst.POL_EN : Reg := ⟨0x300, 31, 1, .rw, .setting, 0x0, 8, 8⟩
/-- POL_BURST of Table 05.2. -/
def Hst.POL_BURST : Reg := ⟨0x304, 0, 24, .rw, .setting, 0x4000, 8, 8⟩
/-- POL_DROP of Table 05.2. -/
def Hst.POL_DROP : Reg := ⟨0x340, 0, 32, .ro, .counterWrap, 0x0, 8, 4⟩
/-- DEF_PCP of Table 05.2. -/
def Hst.DEF_PCP : Reg := ⟨0x360, 0, 3, .rw, .setting, 0x0, 1, 4⟩
/-- PFC_RX_EN of Table 05.2. -/
def Hst.PFC_RX_EN : Reg := ⟨0x360, 8, 8, .rw, .setting, 0x0, 1, 4⟩
/-- PFC_TX_EN of Table 05.2. -/
def Hst.PFC_TX_EN : Reg := ⟨0x360, 16, 8, .rw, .setting, 0x0, 1, 4⟩
/-- XOFF of Table 05.2. -/
def Hst.XOFF : Reg := ⟨0x364, 0, 16, .rw, .setting, 0x2000, 1, 4⟩
/-- XON of Table 05.2. -/
def Hst.XON : Reg := ⟨0x364, 16, 16, .rw, .setting, 0x1800, 1, 4⟩
/-- ING_CAP of Table 05.2. -/
def Hst.ING_CAP : Reg := ⟨0x368, 0, 16, .rw, .setting, 0x4000, 1, 4⟩
/-- PAUSED_RX of Table 05.2. -/
def Hst.PAUSED_RX : Reg := ⟨0x36C, 0, 8, .ro, .status, 0x0, 1, 4⟩
/-- PAUSED_TX of Table 05.2. -/
def Hst.PAUSED_TX : Reg := ⟨0x36C, 8, 8, .ro, .status, 0x0, 1, 4⟩
/-- ING_DROP of Table 05.2. -/
def Hst.ING_DROP : Reg := ⟨0x370, 0, 32, .ro, .counterWrap, 0x0, 1, 4⟩
/-- FRAME_ERR of Table 05.2. -/
def Hst.FRAME_ERR : Reg := ⟨0x374, 0, 32, .ro, .counterWrap, 0x0, 1, 4⟩
/-- FT_MISS of Table 05.2. -/
def Hst.FT_MISS : Reg := ⟨0x378, 0, 32, .ro, .counterWrap, 0x0, 1, 4⟩
/-- WFQ_W of Table 05.2. -/
def Hst.WFQ_W : Reg := ⟨0x380, 0, 8, .rw, .setting, 0x10, 8, 4⟩
/-- QCAP of Table 05.2. -/
def Hst.QCAP : Reg := ⟨0x380, 16, 16, .rw, .setting, 0x4000, 8, 4⟩
/-- SHP_RATE of Table 05.2. -/
def Hst.SHP_RATE : Reg := ⟨0x3A0, 0, 21, .rw, .setting, 0x0, 3, 8⟩
/-- S_PCP of Table 05.2. -/
def Hst.S_PCP : Reg := ⟨0x3A0, 24, 3, .rw, .setting, 0x0, 3, 8⟩
/-- SHP_BURST of Table 05.2. -/
def Hst.SHP_BURST : Reg := ⟨0x3A4, 0, 24, .rw, .setting, 0x10000, 3, 8⟩
/-- S_QCAP of Table 05.2. -/
def Hst.S_QCAP : Reg := ⟨0x3A4, 24, 8, .rw, .setting, 0x40, 3, 8⟩
/-- ECN_THRESH of Table 05.2. -/
def Hst.ECN_THRESH : Reg := ⟨0x3C0, 0, 16, .rw, .setting, 0x1000, 1, 4⟩
/-- ECN_EN of Table 05.2. -/
def Hst.ECN_EN : Reg := ⟨0x3C0, 16, 1, .rw, .setting, 0x1, 1, 4⟩
/-- ECN_CM of Table 05.2. -/
def Hst.ECN_CM : Reg := ⟨0x3C0, 17, 1, .rw, .setting, 0x1, 1, 4⟩
/-- ECN_MARKED of Table 05.2. -/
def Hst.ECN_MARKED : Reg := ⟨0x3C4, 0, 32, .ro, .counterWrap, 0x0, 1, 4⟩
/-- EG_DROP of Table 05.2. -/
def Hst.EG_DROP : Reg := ⟨0x3C8, 0, 32, .ro, .counterWrap, 0x0, 1, 4⟩
/-- VT_LO of Table 05.2. -/
def Hst.VT_LO : Reg := ⟨0x3CC, 0, 32, .ro, .status, 0x0, 1, 4⟩
/-- FT_MAC_LO of Table 05.2. -/
def Hst.FT_MAC_LO : Reg := ⟨0x400, 0, 32, .rw, .setting, 0x0, 64, 16⟩
/-- FT_MAC_HI of Table 05.2. -/
def Hst.FT_MAC_HI : Reg := ⟨0x404, 0, 16, .rw, .setting, 0x0, 64, 16⟩
/-- FT_DST of Table 05.2. -/
def Hst.FT_DST : Reg := ⟨0x408, 0, 19, .rw, .setting, 0x0, 64, 16⟩
/-- FT_VALID of Table 05.2. -/
def Hst.FT_VALID : Reg := ⟨0x408, 31, 1, .rw, .setting, 0x0, 64, 16⟩

/-- Fields of Table 05.2, part 0. -/
def Hst.fields0 : List Reg := [Hst.POL_RATE, Hst.POL_EN, Hst.POL_BURST, Hst.POL_DROP, Hst.DEF_PCP, Hst.PFC_RX_EN, Hst.PFC_TX_EN, Hst.XOFF, Hst.XON, Hst.ING_CAP, Hst.PAUSED_RX, Hst.PAUSED_TX, Hst.ING_DROP, Hst.FRAME_ERR, Hst.FT_MISS, Hst.WFQ_W, Hst.QCAP, Hst.SHP_RATE, Hst.S_PCP, Hst.SHP_BURST, Hst.S_QCAP, Hst.ECN_THRESH, Hst.ECN_EN, Hst.ECN_CM]
/-- Fields of Table 05.2, part 1. -/
def Hst.fields1 : List Reg := [Hst.ECN_MARKED, Hst.EG_DROP, Hst.VT_LO, Hst.FT_MAC_LO, Hst.FT_MAC_HI, Hst.FT_DST, Hst.FT_VALID]
/-- All fields of Table 05.2. -/
def Hst.fields : List Reg := Hst.fields0 ++ Hst.fields1

/-! ## Ari: Table 06.6 (R170) -/

/-- SATURATE of Table 06.6. -/
def Ari.SATURATE : Reg := ⟨0xF00, 0, 1, .rwt, .setting, 0x0, 1, 4⟩
/-- RND of Table 06.6. -/
def Ari.RND : Reg := ⟨0xF00, 1, 2, .rwt, .setting, 0x0, 1, 4⟩
/-- NAN_ACT of Table 06.6. -/
def Ari.NAN_ACT : Reg := ⟨0xF00, 4, 2, .rwt, .setting, 0x0, 1, 4⟩
/-- CLIP_CLR of Table 06.6. -/
def Ari.CLIP_CLR : Reg := ⟨0xF00, 8, 1, .wo, .trigger, 0x0, 1, 4⟩
/-- SVC of Table 06.6. -/
def Ari.SVC : Reg := ⟨0xF00, 16, 2, .ro, .status, 0x0, 1, 4⟩
/-- SR_SEED of Table 06.6. -/
def Ari.SR_SEED : Reg := ⟨0xF04, 0, 32, .rwt, .setting, 0x0, 1, 4⟩
/-- SR_ORIGIN_LO of Table 06.6. -/
def Ari.SR_ORIGIN_LO : Reg := ⟨0xF08, 0, 32, .rwt, .setting, 0x0, 1, 4⟩
/-- SR_ORIGIN_HI of Table 06.6. -/
def Ari.SR_ORIGIN_HI : Reg := ⟨0xF0C, 0, 16, .rwt, .setting, 0x0, 1, 4⟩
/-- ARITH_CLIP_CNT of Table 06.6. -/
def Ari.ARITH_CLIP_CNT : Reg := ⟨0xF10, 0, 32, .ro, .counterSat, 0x0, 1, 4⟩
/-- VALID of Table 06.6. -/
def Ari.NAN_VALID : Reg := ⟨0xF20, 0, 1, .w1c, .record, 0x0, 1, 4⟩
/-- CAUSE of Table 06.6. -/
def Ari.NAN_CAUSE : Reg := ⟨0xF20, 4, 4, .ro, .record, 0x0, 1, 4⟩
/-- FMT_A of Table 06.6. -/
def Ari.FMT_A : Reg := ⟨0xF20, 8, 5, .ro, .record, 0x0, 1, 4⟩
/-- FMT_B of Table 06.6. -/
def Ari.FMT_B : Reg := ⟨0xF20, 16, 5, .ro, .record, 0x0, 1, 4⟩
/-- LANE of Table 06.6. -/
def Ari.LANE : Reg := ⟨0xF24, 0, 10, .ro, .record, 0x0, 1, 4⟩
/-- TICK_LO of Table 06.6. -/
def Ari.TICK_LO : Reg := ⟨0xF28, 0, 32, .ro, .record, 0x0, 1, 4⟩
/-- TICK_HI of Table 06.6. -/
def Ari.TICK_HI : Reg := ⟨0xF2C, 0, 16, .ro, .record, 0x0, 1, 4⟩
/-- INSN of Table 06.6. -/
def Ari.INSN : Reg := ⟨0xF30, 0, 24, .ro, .record, 0x0, 1, 4⟩
/-- OUT_LO of Table 06.6. -/
def Ari.OUT_LO : Reg := ⟨0xF34, 0, 32, .ro, .record, 0x0, 1, 4⟩
/-- OUT_HI of Table 06.6. -/
def Ari.OUT_HI : Reg := ⟨0xF38, 0, 8, .ro, .record, 0x0, 1, 4⟩
/-- TERM of Table 06.6. -/
def Ari.TERM : Reg := ⟨0xF3C, 0, 32, .ro, .record, 0x0, 1, 4⟩
/-- OPA of Table 06.6. -/
def Ari.OPA : Reg := ⟨0xF40, 0, 32, .ro, .record, 0x0, 3, 4⟩
/-- OPB of Table 06.6. -/
def Ari.OPB : Reg := ⟨0xF4C, 0, 32, .ro, .record, 0x0, 3, 4⟩
/-- NAN_COUNT of Table 06.6. -/
def Ari.NAN_COUNT : Reg := ⟨0xF58, 0, 32, .ro, .counterSat, 0x0, 1, 4⟩

/-- Fields of Table 06.6, part 0. -/
def Ari.fields0 : List Reg := [Ari.SATURATE, Ari.RND, Ari.NAN_ACT, Ari.CLIP_CLR, Ari.SVC, Ari.SR_SEED, Ari.SR_ORIGIN_LO, Ari.SR_ORIGIN_HI, Ari.ARITH_CLIP_CNT, Ari.NAN_VALID, Ari.NAN_CAUSE, Ari.FMT_A, Ari.FMT_B, Ari.LANE, Ari.TICK_LO, Ari.TICK_HI, Ari.INSN, Ari.OUT_LO, Ari.OUT_HI, Ari.TERM, Ari.OPA, Ari.OPB, Ari.NAN_COUNT]
/-- All fields of Table 06.6. -/
def Ari.fields : List Reg := Ari.fields0

/-! ## Ce: Table 07.8 (R201) -/

/-- STATE of Table 07.8. -/
def Ce.STATE : Reg := ⟨0x100, 0, 2, .ro, .status, 0x0, 1, 4⟩
/-- ACTIVE of Table 07.8. -/
def Ce.ACTIVE : Reg := ⟨0x100, 4, 3, .ro, .status, 0x0, 1, 4⟩
/-- SLOT_DESC of Table 07.8. -/
def Ce.SLOT_DESC : Reg := ⟨0x104, 0, 32, .ro, .status, 0x0, 4, 4⟩
/-- SLOT_K of Table 07.8. -/
def Ce.SLOT_K : Reg := ⟨0x114, 0, 8, .ro, .status, 0x0, 4, 4⟩
/-- SLOT_VALID of Table 07.8. -/
def Ce.SLOT_VALID : Reg := ⟨0x114, 8, 1, .ro, .status, 0x0, 4, 4⟩
/-- LAST_CC of Table 07.8. -/
def Ce.LAST_CC : Reg := ⟨0x124, 0, 16, .ro, .status, 0x0, 1, 4⟩
/-- BYTES_IN of Table 07.8. -/
def Ce.BYTES_IN : Reg := ⟨0x128, 0, 32, .ro, .counterWrap, 0x0, 1, 4⟩
/-- POISON_OUT of Table 07.8. -/
def Ce.POISON_OUT : Reg := ⟨0x12C, 0, 32, .ro, .counterWrap, 0x0, 1, 4⟩
/-- BOUND_CNT of Table 07.8. -/
def Ce.BOUND_CNT : Reg := ⟨0x130, 0, 32, .ro, .counterSat, 0x0, 1, 4⟩
/-- FILTER_DROP of Table 07.8. -/
def Ce.FILTER_DROP : Reg := ⟨0x134, 0, 32, .ro, .counterWrap, 0x0, 1, 4⟩
/-- DMA_UE of Table 07.8. -/
def Ce.DMA_UE : Reg := ⟨0x138, 0, 32, .ro, .counterWrap, 0x0, 1, 4⟩
/-- SORT_ORDER of Table 07.8. -/
def Ce.SORT_ORDER : Reg := ⟨0x13C, 0, 32, .ro, .counterWrap, 0x0, 1, 4⟩
/-- BOUND_VALID of Table 07.8. -/
def Ce.BOUND_VALID : Reg := ⟨0x140, 0, 1, .w1c, .record, 0x0, 1, 4⟩
/-- BOUND_OP of Table 07.8. -/
def Ce.BOUND_OP : Reg := ⟨0x140, 4, 8, .ro, .record, 0x0, 1, 4⟩
/-- BOUND_TICK_LO of Table 07.8. -/
def Ce.BOUND_TICK_LO : Reg := ⟨0x144, 0, 32, .ro, .record, 0x0, 1, 4⟩
/-- BOUND_TICK_HI of Table 07.8. -/
def Ce.BOUND_TICK_HI : Reg := ⟨0x148, 0, 16, .ro, .record, 0x0, 1, 4⟩
/-- BOUND_RANK of Table 07.8. -/
def Ce.BOUND_RANK : Reg := ⟨0x14C, 0, 19, .ro, .record, 0x0, 1, 4⟩
/-- BOUND_POS of Table 07.8. -/
def Ce.BOUND_POS : Reg := ⟨0x150, 0, 32, .ro, .record, 0x0, 1, 4⟩
/-- BOUND_VAL of Table 07.8. -/
def Ce.BOUND_VAL : Reg := ⟨0x154, 0, 32, .ro, .record, 0x0, 1, 4⟩
/-- CARRIED_STEP of Table 07.8. -/
def Ce.CARRIED_STEP : Reg := ⟨0x158, 0, 32, .ro, .status, 0x0, 1, 4⟩

/-- Fields of Table 07.8, part 0. -/
def Ce.fields0 : List Reg := [Ce.STATE, Ce.ACTIVE, Ce.SLOT_DESC, Ce.SLOT_K, Ce.SLOT_VALID, Ce.LAST_CC, Ce.BYTES_IN, Ce.POISON_OUT, Ce.BOUND_CNT, Ce.FILTER_DROP, Ce.DMA_UE, Ce.SORT_ORDER, Ce.BOUND_VALID, Ce.BOUND_OP, Ce.BOUND_TICK_LO, Ce.BOUND_TICK_HI, Ce.BOUND_RANK, Ce.BOUND_POS, Ce.BOUND_VAL, Ce.CARRIED_STEP]
/-- All fields of Table 07.8. -/
def Ce.fields : List Reg := Ce.fields0

/-! ## Drm: Table 07.9 (R202) -/

/-- ATOM_WIN of Table 07.9. -/
def Drm.ATOM_WIN : Reg := ⟨0x100, 0, 9, .rw, .setting, 0x20, 1, 4⟩
/-- WIN_CUR of Table 07.9. -/
def Drm.WIN_CUR : Reg := ⟨0x100, 16, 9, .ro, .status, 0x20, 1, 4⟩
/-- ATOM_IDLE of Table 07.9. -/
def Drm.ATOM_IDLE : Reg := ⟨0x104, 0, 8, .rw, .setting, 0x4, 1, 4⟩
/-- ATOM_FLUSH of Table 07.9. -/
def Drm.ATOM_FLUSH : Reg := ⟨0x108, 0, 1, .wo, .trigger, 0x0, 1, 4⟩
/-- FLUSHING of Table 07.9. -/
def Drm.FLUSHING : Reg := ⟨0x108, 1, 1, .ro, .status, 0x0, 1, 4⟩
/-- ATOM_LIVE of Table 07.9. -/
def Drm.ATOM_LIVE : Reg := ⟨0x10C, 0, 19, .ro, .status, 0x0, 1, 4⟩
/-- ATOM_HIT of Table 07.9. -/
def Drm.ATOM_HIT : Reg := ⟨0x110, 0, 32, .ro, .counterWrap, 0x0, 1, 4⟩
/-- ATOM_FILL of Table 07.9. -/
def Drm.ATOM_FILL : Reg := ⟨0x114, 0, 32, .ro, .counterWrap, 0x0, 1, 4⟩
/-- ATOM_HBM of Table 07.9. -/
def Drm.ATOM_HBM : Reg := ⟨0x118, 0, 32, .ro, .counterWrap, 0x0, 1, 4⟩
/-- ATOM_WB of Table 07.9. -/
def Drm.ATOM_WB : Reg := ⟨0x11C, 0, 32, .ro, .counterWrap, 0x0, 1, 4⟩
/-- PEAK_A of Table 07.9. -/
def Drm.PEAK_A : Reg := ⟨0x120, 0, 10, .ro, .status, 0x0, 1, 4⟩
/-- PEAK_B of Table 07.9. -/
def Drm.PEAK_B : Reg := ⟨0x120, 16, 10, .ro, .status, 0x0, 1, 4⟩
/-- CLAIM_NOW of Table 07.9. -/
def Drm.CLAIM_NOW : Reg := ⟨0x124, 0, 10, .ro, .status, 0x0, 1, 4⟩

/-- Fields of Table 07.9, part 0. -/
def Drm.fields0 : List Reg := [Drm.ATOM_WIN, Drm.WIN_CUR, Drm.ATOM_IDLE, Drm.ATOM_FLUSH, Drm.FLUSHING, Drm.ATOM_LIVE, Drm.ATOM_HIT, Drm.ATOM_FILL, Drm.ATOM_HBM, Drm.ATOM_WB, Drm.PEAK_A, Drm.PEAK_B, Drm.CLAIM_NOW]
/-- All fields of Table 07.9. -/
def Drm.fields : List Reg := Drm.fields0

/-! ## Cdc: Table 08.7 (R226) -/

/-- SPARSE_THRESH of Table 08.7. -/
def Cdc.SPARSE_THRESH : Reg := ⟨0x100, 0, 7, .rwt, .setting, 0x28, 1, 4⟩
/-- STATE of Table 08.7. -/
def Cdc.STATE : Reg := ⟨0x104, 0, 2, .ro, .status, 0x0, 1, 4⟩
/-- ACTIVE of Table 08.7. -/
def Cdc.ACTIVE : Reg := ⟨0x104, 4, 3, .ro, .status, 0x0, 1, 4⟩
/-- LAST_CC of Table 08.7. -/
def Cdc.LAST_CC : Reg := ⟨0x108, 0, 16, .ro, .status, 0x0, 1, 4⟩
/-- TILES_BLOCK of Table 08.7. -/
def Cdc.TILES_BLOCK : Reg := ⟨0x10C, 0, 32, .ro, .counterWrap, 0x0, 1, 4⟩
/-- TILES_DENSE of Table 08.7. -/
def Cdc.TILES_DENSE : Reg := ⟨0x110, 0, 32, .ro, .counterWrap, 0x0, 1, 4⟩
/-- DENSE_WIN of Table 08.7. -/
def Cdc.DENSE_WIN : Reg := ⟨0x114, 0, 32, .ro, .counterWrap, 0x0, 1, 4⟩
/-- BYTES_DENSE of Table 08.7. -/
def Cdc.BYTES_DENSE : Reg := ⟨0x118, 0, 32, .ro, .counterWrap, 0x0, 1, 4⟩
/-- BYTES_CODED of Table 08.7. -/
def Cdc.BYTES_CODED : Reg := ⟨0x11C, 0, 32, .ro, .counterWrap, 0x0, 1, 4⟩
/-- V24_CNT of Table 08.7. -/
def Cdc.V24_CNT : Reg := ⟨0x120, 0, 32, .ro, .counterSat, 0x0, 1, 4⟩
/-- PRUNED of Table 08.7. -/
def Cdc.PRUNED : Reg := ⟨0x124, 0, 32, .ro, .counterWrap, 0x0, 1, 4⟩
/-- BOUND_CNT of Table 08.7. -/
def Cdc.BOUND_CNT : Reg := ⟨0x128, 0, 32, .ro, .counterSat, 0x0, 1, 4⟩
/-- CODED_OVR of Table 08.7. -/
def Cdc.CODED_OVR : Reg := ⟨0x12C, 0, 32, .ro, .counterWrap, 0x0, 1, 4⟩
/-- POISON_IN of Table 08.7. -/
def Cdc.POISON_IN : Reg := ⟨0x130, 0, 32, .ro, .counterWrap, 0x0, 1, 4⟩
/-- DMA_UE of Table 08.7. -/
def Cdc.DMA_UE : Reg := ⟨0x134, 0, 32, .ro, .counterWrap, 0x0, 1, 4⟩
/-- V24_VALID of Table 08.7. -/
def Cdc.V24_VALID : Reg := ⟨0x140, 0, 1, .w1c, .record, 0x0, 1, 4⟩
/-- V24_NZ of Table 08.7. -/
def Cdc.V24_NZ : Reg := ⟨0x140, 16, 3, .ro, .record, 0x0, 1, 4⟩
/-- V24_TICK_LO of Table 08.7. -/
def Cdc.V24_TICK_LO : Reg := ⟨0x144, 0, 32, .ro, .record, 0x0, 1, 4⟩
/-- V24_TICK_HI of Table 08.7. -/
def Cdc.V24_TICK_HI : Reg := ⟨0x148, 0, 16, .ro, .record, 0x0, 1, 4⟩
/-- V24_TILE of Table 08.7. -/
def Cdc.V24_TILE : Reg := ⟨0x14C, 0, 32, .ro, .record, 0x0, 1, 4⟩
/-- V24_GROUP of Table 08.7. -/
def Cdc.V24_GROUP : Reg := ⟨0x150, 0, 9, .ro, .record, 0x0, 1, 4⟩
/-- V24_STEP of Table 08.7. -/
def Cdc.V24_STEP : Reg := ⟨0x154, 0, 24, .ro, .record, 0x0, 1, 4⟩
/-- BOUND_VALID of Table 08.7. -/
def Cdc.BOUND_VALID : Reg := ⟨0x160, 0, 1, .w1c, .record, 0x0, 1, 4⟩
/-- BOUND_KIND of Table 08.7. -/
def Cdc.BOUND_KIND : Reg := ⟨0x160, 4, 4, .ro, .record, 0x0, 1, 4⟩
/-- BOUND_TICK_LO of Table 08.7. -/
def Cdc.BOUND_TICK_LO : Reg := ⟨0x164, 0, 32, .ro, .record, 0x0, 1, 4⟩
/-- BOUND_TICK_HI of Table 08.7. -/
def Cdc.BOUND_TICK_HI : Reg := ⟨0x168, 0, 16, .ro, .record, 0x0, 1, 4⟩
/-- BOUND_TILE of Table 08.7. -/
def Cdc.BOUND_TILE : Reg := ⟨0x16C, 0, 32, .ro, .record, 0x0, 1, 4⟩
/-- BOUND_VAL of Table 08.7. -/
def Cdc.BOUND_VAL : Reg := ⟨0x170, 0, 32, .ro, .record, 0x0, 1, 4⟩
/-- BOUND_STEP of Table 08.7. -/
def Cdc.BOUND_STEP : Reg := ⟨0x174, 0, 24, .ro, .record, 0x0, 1, 4⟩

/-- Fields of Table 08.7, part 0. -/
def Cdc.fields0 : List Reg := [Cdc.SPARSE_THRESH, Cdc.STATE, Cdc.ACTIVE, Cdc.LAST_CC, Cdc.TILES_BLOCK, Cdc.TILES_DENSE, Cdc.DENSE_WIN, Cdc.BYTES_DENSE, Cdc.BYTES_CODED, Cdc.V24_CNT, Cdc.PRUNED, Cdc.BOUND_CNT, Cdc.CODED_OVR, Cdc.POISON_IN, Cdc.DMA_UE, Cdc.V24_VALID, Cdc.V24_NZ, Cdc.V24_TICK_LO, Cdc.V24_TICK_HI, Cdc.V24_TILE, Cdc.V24_GROUP, Cdc.V24_STEP, Cdc.BOUND_VALID, Cdc.BOUND_KIND]
/-- Fields of Table 08.7, part 1. -/
def Cdc.fields1 : List Reg := [Cdc.BOUND_TICK_LO, Cdc.BOUND_TICK_HI, Cdc.BOUND_TILE, Cdc.BOUND_VAL, Cdc.BOUND_STEP]
/-- All fields of Table 08.7. -/
def Cdc.fields : List Reg := Cdc.fields0 ++ Cdc.fields1

/-! ## Til: Table 09.8 (R256) -/

/-- STATE of Table 09.8. -/
def Til.STATE : Reg := ⟨0x100, 0, 2, .ro, .status, 0x0, 1, 4⟩
/-- Q_BUSY of Table 09.8. -/
def Til.Q_BUSY : Reg := ⟨0x100, 4, 4, .ro, .status, 0x0, 1, 4⟩
/-- Q_WAIT of Table 09.8. -/
def Til.Q_WAIT : Reg := ⟨0x100, 8, 4, .ro, .status, 0x0, 1, 4⟩
/-- BODY_OFF of Table 09.8. -/
def Til.BODY_OFF : Reg := ⟨0x104, 0, 32, .ro, .status, 0x0, 1, 4⟩
/-- FETCH_BANK of Table 09.8. -/
def Til.FETCH_BANK : Reg := ⟨0x108, 0, 1, .ro, .status, 0x0, 1, 4⟩
/-- SHADOW_VALID of Table 09.8. -/
def Til.SHADOW_VALID : Reg := ⟨0x108, 1, 1, .ro, .status, 0x0, 1, 4⟩
/-- PREFETCH_BUSY of Table 09.8. -/
def Til.PREFETCH_BUSY : Reg := ⟨0x108, 2, 1, .ro, .status, 0x0, 1, 4⟩
/-- LAST_CC of Table 09.8. -/
def Til.LAST_CC : Reg := ⟨0x10C, 0, 16, .ro, .status, 0x0, 1, 4⟩
/-- BOUND of Table 09.8. -/
def Til.BOUND : Reg := ⟨0x110, 0, 16, .ro, .status, 0x0, 1, 4⟩
/-- XLATE_VER of Table 09.8. -/
def Til.XLATE_VER : Reg := ⟨0x114, 0, 32, .ro, .status, 0x0, 1, 4⟩
/-- FLAG_CNT of Table 09.8. -/
def Til.FLAG_CNT : Reg := ⟨0x120, 0, 32, .ro, .status, 0x0, 8, 4⟩
/-- PREFETCH_LATE of Table 09.8. -/
def Til.PREFETCH_LATE : Reg := ⟨0x140, 0, 32, .ro, .counterWrap, 0x0, 1, 4⟩
/-- TILE_UE of Table 09.8. -/
def Til.TILE_UE : Reg := ⟨0x144, 0, 32, .ro, .counterWrap, 0x0, 1, 4⟩
/-- POISON_OUT of Table 09.8. -/
def Til.POISON_OUT : Reg := ⟨0x148, 0, 32, .ro, .counterWrap, 0x0, 1, 4⟩
/-- OPEN_DEFER of Table 09.8. -/
def Til.OPEN_DEFER : Reg := ⟨0x14C, 0, 32, .ro, .counterWrap, 0x0, 1, 4⟩
/-- BOUND_CNT of Table 09.8. -/
def Til.BOUND_CNT : Reg := ⟨0x150, 0, 32, .ro, .counterSat, 0x0, 1, 4⟩
/-- BOUND_VALID of Table 09.8. -/
def Til.BOUND_VALID : Reg := ⟨0x160, 0, 1, .w1c, .record, 0x0, 1, 4⟩
/-- BOUND_KIND of Table 09.8. -/
def Til.BOUND_KIND : Reg := ⟨0x160, 4, 4, .ro, .record, 0x0, 1, 4⟩
/-- BOUND_TICK_LO of Table 09.8. -/
def Til.BOUND_TICK_LO : Reg := ⟨0x164, 0, 32, .ro, .record, 0x0, 1, 4⟩
/-- BOUND_TICK_HI of Table 09.8. -/
def Til.BOUND_TICK_HI : Reg := ⟨0x168, 0, 16, .ro, .record, 0x0, 1, 4⟩
/-- BOUND_INSN of Table 09.8. -/
def Til.BOUND_INSN : Reg := ⟨0x16C, 0, 14, .ro, .record, 0x0, 1, 4⟩
/-- BOUND_POS of Table 09.8. -/
def Til.BOUND_POS : Reg := ⟨0x170, 0, 32, .ro, .record, 0x0, 1, 4⟩
/-- BOUND_VAL of Table 09.8. -/
def Til.BOUND_VAL : Reg := ⟨0x174, 0, 32, .ro, .record, 0x0, 1, 4⟩
/-- FW_WAIT of Table 09.8. -/
def Til.FW_WAIT : Reg := ⟨0x180, 0, 1, .ro, .record, 0x0, 4, 8⟩
/-- FW_FLAG of Table 09.8. -/
def Til.FW_FLAG : Reg := ⟨0x180, 4, 5, .ro, .record, 0x0, 4, 8⟩
/-- FW_HAVE of Table 09.8. -/
def Til.FW_HAVE : Reg := ⟨0x180, 16, 8, .ro, .record, 0x0, 4, 8⟩
/-- FW_NEED of Table 09.8. -/
def Til.FW_NEED : Reg := ⟨0x180, 24, 8, .ro, .record, 0x0, 4, 8⟩
/-- FW_INSN of Table 09.8. -/
def Til.FW_INSN : Reg := ⟨0x184, 0, 14, .ro, .record, 0x0, 4, 8⟩
/-- FW_SETQ of Table 09.8. -/
def Til.FW_SETQ : Reg := ⟨0x184, 14, 2, .ro, .record, 0x0, 4, 8⟩
/-- FW_SET_INSN of Table 09.8. -/
def Til.FW_SET_INSN : Reg := ⟨0x184, 16, 14, .ro, .record, 0x0, 4, 8⟩
/-- FW_SETV of Table 09.8. -/
def Til.FW_SETV : Reg := ⟨0x184, 31, 1, .ro, .record, 0x0, 4, 8⟩
/-- FW_VALID of Table 09.8. -/
def Til.FW_VALID : Reg := ⟨0x1A0, 0, 1, .w1c, .record, 0x0, 1, 4⟩
/-- FW_TICK_LO of Table 09.8. -/
def Til.FW_TICK_LO : Reg := ⟨0x1A4, 0, 32, .ro, .record, 0x0, 1, 4⟩
/-- FW_TICK_HI of Table 09.8. -/
def Til.FW_TICK_HI : Reg := ⟨0x1A8, 0, 16, .ro, .record, 0x0, 1, 4⟩
/-- IMEM_WADDR of Table 09.8. -/
def Til.IMEM_WADDR : Reg := ⟨0x1B0, 0, 16, .rw, .setting, 0x0, 1, 4⟩
/-- IMEM_WBANK of Table 09.8. -/
def Til.IMEM_WBANK : Reg := ⟨0x1B0, 16, 1, .rw, .setting, 0x0, 1, 4⟩
/-- IMEM_WDATA of Table 09.8. -/
def Til.IMEM_WDATA : Reg := ⟨0x1B4, 0, 32, .wo, .trigger, 0x0, 1, 4⟩

/-- Fields of Table 09.8, part 0. -/
def Til.fields0 : List Reg := [Til.STATE, Til.Q_BUSY, Til.Q_WAIT, Til.BODY_OFF, Til.FETCH_BANK, Til.SHADOW_VALID, Til.PREFETCH_BUSY, Til.LAST_CC, Til.BOUND, Til.XLATE_VER, Til.FLAG_CNT, Til.PREFETCH_LATE, Til.TILE_UE, Til.POISON_OUT, Til.OPEN_DEFER, Til.BOUND_CNT, Til.BOUND_VALID, Til.BOUND_KIND, Til.BOUND_TICK_LO, Til.BOUND_TICK_HI, Til.BOUND_INSN, Til.BOUND_POS, Til.BOUND_VAL, Til.FW_WAIT]
/-- Fields of Table 09.8, part 1. -/
def Til.fields1 : List Reg := [Til.FW_FLAG, Til.FW_HAVE, Til.FW_NEED, Til.FW_INSN, Til.FW_SETQ, Til.FW_SET_INSN, Til.FW_SETV, Til.FW_VALID, Til.FW_TICK_LO, Til.FW_TICK_HI, Til.IMEM_WADDR, Til.IMEM_WBANK, Til.IMEM_WDATA]
/-- All fields of Table 09.8. -/
def Til.fields : List Reg := Til.fields0 ++ Til.fields1

/-! ## Ue: Table 11.7 (R296) -/

/-- STATE of Table 11.7. -/
def Ue.STATE : Reg := ⟨0x100, 0, 2, .ro, .status, 0x0, 1, 4⟩
/-- ACTIVE of Table 11.7. -/
def Ue.ACTIVE : Reg := ⟨0x100, 4, 3, .ro, .status, 0x0, 1, 4⟩
/-- LAST_CC of Table 11.7. -/
def Ue.LAST_CC : Reg := ⟨0x104, 0, 16, .ro, .status, 0x0, 1, 4⟩
/-- STEP_LO of Table 11.7. -/
def Ue.STEP_LO : Reg := ⟨0x108, 0, 32, .ro, .status, 0x0, 1, 4⟩
/-- STEP_HI of Table 11.7. -/
def Ue.STEP_HI : Reg := ⟨0x10C, 0, 16, .ro, .status, 0x0, 1, 4⟩
/-- LR_LAST of Table 11.7. -/
def Ue.LR_LAST : Reg := ⟨0x110, 0, 32, .ro, .status, 0x0, 1, 4⟩
/-- NORM_LAST of Table 11.7. -/
def Ue.NORM_LAST : Reg := ⟨0x114, 0, 32, .ro, .status, 0x0, 1, 4⟩
/-- CLIP_LAST of Table 11.7. -/
def Ue.CLIP_LAST : Reg := ⟨0x118, 0, 32, .ro, .status, 0x0, 1, 4⟩
/-- SCHED_BASE_LO of Table 11.7. -/
def Ue.SCHED_BASE_LO : Reg := ⟨0x120, 0, 32, .rwt, .setting, 0x0, 1, 4⟩
/-- SCHED_BASE_HI of Table 11.7. -/
def Ue.SCHED_BASE_HI : Reg := ⟨0x124, 0, 16, .rwt, .setting, 0x0, 1, 4⟩
/-- LR_PEAK of Table 11.7. -/
def Ue.LR_PEAK : Reg := ⟨0x128, 0, 32, .rwt, .setting, 0x0, 1, 4⟩
/-- LR_END of Table 11.7. -/
def Ue.LR_END : Reg := ⟨0x12C, 0, 32, .rwt, .setting, 0x0, 1, 4⟩
/-- WARM of Table 11.7. -/
def Ue.WARM : Reg := ⟨0x130, 0, 32, .rwt, .setting, 0x0, 1, 4⟩
/-- DECAY of Table 11.7. -/
def Ue.DECAY : Reg := ⟨0x134, 0, 3, .rwt, .setting, 0x0, 1, 4⟩
/-- RST_MULT of Table 11.7. -/
def Ue.RST_MULT : Reg := ⟨0x134, 8, 4, .rwt, .setting, 0x1, 1, 4⟩
/-- DECAY_LEN of Table 11.7. -/
def Ue.DECAY_LEN : Reg := ⟨0x138, 0, 32, .rwt, .setting, 0x1, 1, 4⟩
/-- RST_PERIOD of Table 11.7. -/
def Ue.RST_PERIOD : Reg := ⟨0x13C, 0, 32, .rwt, .setting, 0x0, 1, 4⟩
/-- APPLIED of Table 11.7. -/
def Ue.APPLIED : Reg := ⟨0x150, 0, 32, .ro, .counterWrap, 0x0, 1, 4⟩
/-- SKIP_DONE of Table 11.7. -/
def Ue.SKIP_DONE : Reg := ⟨0x154, 0, 32, .ro, .counterWrap, 0x0, 1, 4⟩
/-- FRZ_TOUCH of Table 11.7. -/
def Ue.FRZ_TOUCH : Reg := ⟨0x158, 0, 32, .ro, .counterWrap, 0x0, 1, 4⟩
/-- WB_CHUNKS of Table 11.7. -/
def Ue.WB_CHUNKS : Reg := ⟨0x15C, 0, 32, .ro, .counterWrap, 0x0, 1, 4⟩
/-- STAGE_BAD of Table 11.7. -/
def Ue.STAGE_BAD : Reg := ⟨0x160, 0, 32, .ro, .counterWrap, 0x0, 1, 4⟩
/-- COMMITTED of Table 11.7. -/
def Ue.COMMITTED : Reg := ⟨0x164, 0, 32, .ro, .counterWrap, 0x0, 1, 4⟩
/-- COMMIT_DROP of Table 11.7. -/
def Ue.COMMIT_DROP : Reg := ⟨0x168, 0, 32, .ro, .counterWrap, 0x0, 1, 4⟩
/-- DMA_UE of Table 11.7. -/
def Ue.DMA_UE : Reg := ⟨0x16C, 0, 32, .ro, .counterWrap, 0x0, 1, 4⟩
/-- POISON_OUT of Table 11.7. -/
def Ue.POISON_OUT : Reg := ⟨0x170, 0, 32, .ro, .counterWrap, 0x0, 1, 4⟩
/-- SH_VALID of Table 11.7. -/
def Ue.SH_VALID : Reg := ⟨0x180, 0, 1, .w1c, .record, 0x0, 1, 4⟩
/-- SH_KIND of Table 11.7. -/
def Ue.SH_KIND : Reg := ⟨0x180, 4, 4, .ro, .record, 0x0, 1, 4⟩
/-- SH_DIRTY of Table 11.7. -/
def Ue.SH_DIRTY : Reg := ⟨0x180, 8, 1, .ro, .record, 0x0, 1, 4⟩
/-- SH_SHARD of Table 11.7. -/
def Ue.SH_SHARD : Reg := ⟨0x180, 16, 8, .ro, .record, 0x0, 1, 4⟩
/-- SH_TICK_LO of Table 11.7. -/
def Ue.SH_TICK_LO : Reg := ⟨0x184, 0, 32, .ro, .record, 0x0, 1, 4⟩
/-- SH_TICK_HI of Table 11.7. -/
def Ue.SH_TICK_HI : Reg := ⟨0x188, 0, 16, .ro, .record, 0x0, 1, 4⟩
/-- SH_HDR_LO of Table 11.7. -/
def Ue.SH_HDR_LO : Reg := ⟨0x18C, 0, 32, .ro, .record, 0x0, 1, 4⟩
/-- SH_HDR_HI of Table 11.7. -/
def Ue.SH_HDR_HI : Reg := ⟨0x190, 0, 16, .ro, .record, 0x0, 1, 4⟩
/-- SH_TAG_LO of Table 11.7. -/
def Ue.SH_TAG_LO : Reg := ⟨0x194, 0, 32, .ro, .record, 0x0, 1, 4⟩
/-- SH_TAG_HI of Table 11.7. -/
def Ue.SH_TAG_HI : Reg := ⟨0x198, 0, 16, .ro, .record, 0x0, 1, 4⟩
/-- SH_STEP_IDX of Table 11.7. -/
def Ue.SH_STEP_IDX : Reg := ⟨0x19C, 0, 24, .ro, .record, 0x0, 1, 4⟩
/-- SH_BANK of Table 11.7. -/
def Ue.SH_BANK : Reg := ⟨0x19C, 31, 1, .ro, .record, 0x0, 1, 4⟩
/-- CHK_GO of Table 11.7. -/
def Ue.CHK_GO : Reg := ⟨0x1A0, 0, 1, .wo, .trigger, 0x0, 1, 4⟩
/-- CHK_STATE of Table 11.7. -/
def Ue.CHK_STATE : Reg := ⟨0x1A0, 4, 2, .ro, .status, 0x0, 1, 4⟩
/-- CHK_BASE_LO of Table 11.7. -/
def Ue.CHK_BASE_LO : Reg := ⟨0x1A4, 21, 11, .rw, .setting, 0x0, 1, 4⟩
/-- CHK_BASE_HI of Table 11.7. -/
def Ue.CHK_BASE_HI : Reg := ⟨0x1A8, 0, 8, .rw, .setting, 0x0, 1, 4⟩
/-- CHK_SIZE of Table 11.7. -/
def Ue.CHK_SIZE : Reg := ⟨0x1A8, 16, 6, .rw, .setting, 0x15, 1, 4⟩
/-- CHK_SUM_LO of Table 11.7. -/
def Ue.CHK_SUM_LO : Reg := ⟨0x1AC, 0, 32, .ro, .status, 0x0, 1, 4⟩
/-- CHK_SUM_HI of Table 11.7. -/
def Ue.CHK_SUM_HI : Reg := ⟨0x1B0, 0, 32, .ro, .status, 0x0, 1, 4⟩
/-- CHK_NORM_LO of Table 11.7. -/
def Ue.CHK_NORM_LO : Reg := ⟨0x1B4, 0, 32, .ro, .status, 0x0, 1, 4⟩
/-- CHK_NORM_HI of Table 11.7. -/
def Ue.CHK_NORM_HI : Reg := ⟨0x1B8, 0, 32, .ro, .status, 0x0, 1, 4⟩

/-- Fields of Table 11.7, part 0. -/
def Ue.fields0 : List Reg := [Ue.STATE, Ue.ACTIVE, Ue.LAST_CC, Ue.STEP_LO, Ue.STEP_HI, Ue.LR_LAST, Ue.NORM_LAST, Ue.CLIP_LAST, Ue.SCHED_BASE_LO, Ue.SCHED_BASE_HI, Ue.LR_PEAK, Ue.LR_END, Ue.WARM, Ue.DECAY, Ue.RST_MULT, Ue.DECAY_LEN, Ue.RST_PERIOD, Ue.APPLIED, Ue.SKIP_DONE, Ue.FRZ_TOUCH, Ue.WB_CHUNKS, Ue.STAGE_BAD, Ue.COMMITTED, Ue.COMMIT_DROP]
/-- Fields of Table 11.7, part 1. -/
def Ue.fields1 : List Reg := [Ue.DMA_UE, Ue.POISON_OUT, Ue.SH_VALID, Ue.SH_KIND, Ue.SH_DIRTY, Ue.SH_SHARD, Ue.SH_TICK_LO, Ue.SH_TICK_HI, Ue.SH_HDR_LO, Ue.SH_HDR_HI, Ue.SH_TAG_LO, Ue.SH_TAG_HI, Ue.SH_STEP_IDX, Ue.SH_BANK, Ue.CHK_GO, Ue.CHK_STATE, Ue.CHK_BASE_LO, Ue.CHK_BASE_HI, Ue.CHK_SIZE, Ue.CHK_SUM_LO, Ue.CHK_SUM_HI, Ue.CHK_NORM_LO, Ue.CHK_NORM_HI]
/-- All fields of Table 11.7. -/
def Ue.fields : List Reg := Ue.fields0 ++ Ue.fields1

/-! ## Fst: Table 12.6 (R321) -/

/-- FST_INDEX of Table 12.6. -/
def Fst.FST_INDEX : Reg := ⟨0x800, 0, 12, .rw, .setting, 0x0, 1, 4⟩
/-- FST_DATA of Table 12.6. -/
def Fst.FST_DATA : Reg := ⟨0x804, 0, 32, .rw, .setting, 0x0, 8, 4⟩
/-- FST_COMMIT of Table 12.6. -/
def Fst.FST_COMMIT : Reg := ⟨0x824, 0, 1, .wo, .trigger, 0x0, 1, 4⟩
/-- FST_READ of Table 12.6. -/
def Fst.FST_READ : Reg := ⟨0x824, 1, 1, .wo, .trigger, 0x0, 1, 4⟩
/-- FST_ERR_V of Table 12.6. -/
def Fst.FST_ERR_V : Reg := ⟨0x828, 0, 1, .w1c, .record, 0x0, 1, 4⟩
/-- FST_ERR of Table 12.6. -/
def Fst.FST_ERR : Reg := ⟨0x828, 4, 4, .ro, .record, 0x0, 1, 4⟩
/-- FST_ERR_IDX of Table 12.6. -/
def Fst.FST_ERR_IDX : Reg := ⟨0x828, 16, 12, .ro, .record, 0x0, 1, 4⟩
/-- FST_USED of Table 12.6. -/
def Fst.FST_USED : Reg := ⟨0x82C, 0, 13, .ro, .status, 0x0, 1, 4⟩
/-- XLATE_MISS of Table 12.6. -/
def Fst.XLATE_MISS : Reg := ⟨0x830, 0, 32, .ro, .counterWrap, 0x0, 1, 4⟩
/-- PERM_FAULT of Table 12.6. -/
def Fst.PERM_FAULT : Reg := ⟨0x834, 0, 32, .ro, .counterWrap, 0x0, 1, 4⟩

/-- Fields of Table 12.6, part 0. -/
def Fst.fields0 : List Reg := [Fst.FST_INDEX, Fst.FST_DATA, Fst.FST_COMMIT, Fst.FST_READ, Fst.FST_ERR_V, Fst.FST_ERR, Fst.FST_ERR_IDX, Fst.FST_USED, Fst.XLATE_MISS, Fst.PERM_FAULT]
/-- All fields of Table 12.6. -/
def Fst.fields : List Reg := Fst.fields0

/-! ## Mov: Table 12.7 (R321) -/

/-- MV_SRC_LO of Table 12.7. -/
def Mov.MV_SRC_LO : Reg := ⟨0x880, 0, 32, .rw, .setting, 0x0, 1, 4⟩
/-- MV_SRC_HI of Table 12.7. -/
def Mov.MV_SRC_HI : Reg := ⟨0x884, 0, 32, .rw, .setting, 0x0, 1, 4⟩
/-- MV_DST_LO of Table 12.7. -/
def Mov.MV_DST_LO : Reg := ⟨0x888, 0, 32, .rw, .setting, 0x0, 1, 4⟩
/-- MV_DST_HI of Table 12.7. -/
def Mov.MV_DST_HI : Reg := ⟨0x88C, 0, 32, .rw, .setting, 0x0, 1, 4⟩
/-- MV_LEN_LO of Table 12.7. -/
def Mov.MV_LEN_LO : Reg := ⟨0x890, 0, 32, .rw, .setting, 0x0, 1, 4⟩
/-- MV_LEN_HI of Table 12.7. -/
def Mov.MV_LEN_HI : Reg := ⟨0x894, 0, 8, .rw, .setting, 0x0, 1, 4⟩
/-- MV_OP of Table 12.7. -/
def Mov.MV_OP : Reg := ⟨0x898, 0, 2, .rw, .setting, 0x0, 1, 4⟩
/-- SRC_V of Table 12.7. -/
def Mov.SRC_V : Reg := ⟨0x898, 2, 1, .rw, .setting, 0x0, 1, 4⟩
/-- DST_V of Table 12.7. -/
def Mov.DST_V : Reg := ⟨0x898, 3, 1, .rw, .setting, 0x0, 1, 4⟩
/-- SFMT of Table 12.7. -/
def Mov.SFMT : Reg := ⟨0x898, 8, 4, .rw, .setting, 0x0, 1, 4⟩
/-- DFMT of Table 12.7. -/
def Mov.DFMT : Reg := ⟨0x898, 12, 4, .rw, .setting, 0x0, 1, 4⟩
/-- GO of Table 12.7. -/
def Mov.GO : Reg := ⟨0x898, 31, 1, .wo, .trigger, 0x0, 1, 4⟩
/-- MV_STATE of Table 12.7. -/
def Mov.MV_STATE : Reg := ⟨0x89C, 0, 3, .ro, .status, 0x0, 1, 4⟩
/-- MV_STATUS of Table 12.7. -/
def Mov.MV_STATUS : Reg := ⟨0x89C, 8, 8, .ro, .status, 0x0, 1, 4⟩
/-- MV_IGNORED of Table 12.7. -/
def Mov.MV_IGNORED : Reg := ⟨0x89C, 16, 1, .w1c, .status, 0x0, 1, 4⟩
/-- MV_DONE_LO of Table 12.7. -/
def Mov.MV_DONE_LO : Reg := ⟨0x8A0, 0, 32, .ro, .status, 0x0, 1, 4⟩
/-- MV_DONE_HI of Table 12.7. -/
def Mov.MV_DONE_HI : Reg := ⟨0x8A4, 0, 8, .ro, .status, 0x0, 1, 4⟩
/-- MV_FAULT_ADDR_LO of Table 12.7. -/
def Mov.MV_FAULT_ADDR_LO : Reg := ⟨0x8A8, 0, 32, .ro, .status, 0x0, 1, 4⟩
/-- MV_FAULT_ADDR_HI of Table 12.7. -/
def Mov.MV_FAULT_ADDR_HI : Reg := ⟨0x8AC, 0, 32, .ro, .status, 0x0, 1, 4⟩
/-- MV_RESUME of Table 12.7. -/
def Mov.MV_RESUME : Reg := ⟨0x8B0, 0, 1, .wo, .trigger, 0x0, 1, 4⟩
/-- MV_ABORT of Table 12.7. -/
def Mov.MV_ABORT : Reg := ⟨0x8B0, 1, 1, .wo, .trigger, 0x0, 1, 4⟩
/-- OUTST of Table 12.7. -/
def Mov.OUTST : Reg := ⟨0x8B4, 0, 13, .rw, .setting, 0x400, 1, 4⟩
/-- MV_TMO of Table 12.7. -/
def Mov.MV_TMO : Reg := ⟨0x8B4, 16, 16, .rw, .setting, 0x40, 1, 4⟩
/-- MV_CLIP of Table 12.7. -/
def Mov.MV_CLIP : Reg := ⟨0x8B8, 0, 32, .ro, .counterSat, 0x0, 1, 4⟩
/-- MV_NAN of Table 12.7. -/
def Mov.MV_NAN : Reg := ⟨0x8BC, 0, 32, .ro, .counterSat, 0x0, 1, 4⟩

/-- Fields of Table 12.7, part 0. -/
def Mov.fields0 : List Reg := [Mov.MV_SRC_LO, Mov.MV_SRC_HI, Mov.MV_DST_LO, Mov.MV_DST_HI, Mov.MV_LEN_LO, Mov.MV_LEN_HI, Mov.MV_OP, Mov.SRC_V, Mov.DST_V, Mov.SFMT, Mov.DFMT, Mov.GO, Mov.MV_STATE, Mov.MV_STATUS, Mov.MV_IGNORED, Mov.MV_DONE_LO, Mov.MV_DONE_HI, Mov.MV_FAULT_ADDR_LO, Mov.MV_FAULT_ADDR_HI, Mov.MV_RESUME, Mov.MV_ABORT, Mov.OUTST, Mov.MV_TMO, Mov.MV_CLIP]
/-- Fields of Table 12.7, part 1. -/
def Mov.fields1 : List Reg := [Mov.MV_NAN]
/-- All fields of Table 12.7. -/
def Mov.fields : List Reg := Mov.fields0 ++ Mov.fields1

/-! ## Hbm: Table 12.8 (R322) -/

/-- HSTATE of Table 12.8. -/
def Hbm.HSTATE : Reg := ⟨0x100, 0, 3, .ro, .status, 0x0, 1, 4⟩
/-- TEMP of Table 12.8. -/
def Hbm.TEMP : Reg := ⟨0x104, 0, 8, .ro, .status, 0x0, 1, 4⟩
/-- SYS_GIB of Table 12.8. -/
def Hbm.SYS_GIB : Reg := ⟨0x108, 0, 4, .rwl, .setting, 0x1, 1, 4⟩
/-- ROUNDS of Table 12.8. -/
def Hbm.ROUNDS : Reg := ⟨0x10C, 0, 32, .ro, .counterWrap, 0x0, 1, 4⟩
/-- CLAIM_CC of Table 12.8. -/
def Hbm.CLAIM_CC : Reg := ⟨0x110, 0, 16, .ro, .status, 0x0, 1, 4⟩
/-- OPEN_ACC of Table 12.8. -/
def Hbm.OPEN_ACC : Reg := ⟨0x114, 0, 32, .ro, .counterWrap, 0x0, 1, 4⟩
/-- WAKE_WAIT of Table 12.8. -/
def Hbm.WAKE_WAIT : Reg := ⟨0x118, 0, 32, .ro, .counterWrap, 0x0, 1, 4⟩
/-- BUS_ERRS of Table 12.8. -/
def Hbm.BUS_ERRS : Reg := ⟨0x11C, 0, 32, .ro, .counterWrap, 0x0, 1, 4⟩
/-- ATOM_CLIP of Table 12.8. -/
def Hbm.ATOM_CLIP : Reg := ⟨0x120, 0, 32, .ro, .counterSat, 0x0, 1, 4⟩
/-- ATOM_NAN of Table 12.8. -/
def Hbm.ATOM_NAN : Reg := ⟨0x124, 0, 32, .ro, .counterSat, 0x0, 1, 4⟩
/-- FRZ_DROP of Table 12.8. -/
def Hbm.FRZ_DROP : Reg := ⟨0x128, 0, 32, .ro, .counterWrap, 0x0, 1, 4⟩
/-- MV_MSTATE of Table 12.8. -/
def Hbm.MV_MSTATE : Reg := ⟨0x140, 0, 2, .ro, .status, 0x0, 1, 4⟩
/-- MV_ACTIVE of Table 12.8. -/
def Hbm.MV_ACTIVE : Reg := ⟨0x140, 4, 3, .ro, .status, 0x0, 1, 4⟩
/-- MV_LAST_CC of Table 12.8. -/
def Hbm.MV_LAST_CC : Reg := ⟨0x144, 0, 16, .ro, .status, 0x0, 1, 4⟩
/-- MV_BYTES of Table 12.8. -/
def Hbm.MV_BYTES : Reg := ⟨0x148, 0, 32, .ro, .counterWrap, 0x0, 1, 4⟩
/-- MV_POISON of Table 12.8. -/
def Hbm.MV_POISON : Reg := ⟨0x14C, 0, 32, .ro, .counterWrap, 0x0, 1, 4⟩
/-- MV_DMA_UE of Table 12.8. -/
def Hbm.MV_DMA_UE : Reg := ⟨0x150, 0, 32, .ro, .counterWrap, 0x0, 1, 4⟩

/-- Fields of Table 12.8, part 0. -/
def Hbm.fields0 : List Reg := [Hbm.HSTATE, Hbm.TEMP, Hbm.SYS_GIB, Hbm.ROUNDS, Hbm.CLAIM_CC, Hbm.OPEN_ACC, Hbm.WAKE_WAIT, Hbm.BUS_ERRS, Hbm.ATOM_CLIP, Hbm.ATOM_NAN, Hbm.FRZ_DROP, Hbm.MV_MSTATE, Hbm.MV_ACTIVE, Hbm.MV_LAST_CC, Hbm.MV_BYTES, Hbm.MV_POISON, Hbm.MV_DMA_UE]
/-- All fields of Table 12.8. -/
def Hbm.fields : List Reg := Hbm.fields0

/-! ## Itg: Table 13.4 (R346) -/

/-- TRIP_EN of Table 13.4. -/
def Itg.TRIP_EN : Reg := ⟨0x100, 0, 1, .rwl, .setting, 0x1, 1, 4⟩
/-- SPOT_EN of Table 13.4. -/
def Itg.SPOT_EN : Reg := ⟨0x100, 1, 1, .rw, .setting, 0x1, 1, 4⟩
/-- QUAR_EN of Table 13.4. -/
def Itg.QUAR_EN : Reg := ⟨0x100, 2, 1, .rw, .setting, 0x1, 1, 4⟩
/-- ST_OVERRIDE of Table 13.4. -/
def Itg.ST_OVERRIDE : Reg := ⟨0x100, 3, 1, .rwl, .setting, 0x0, 1, 4⟩
/-- INTEG_OK of Table 13.4. -/
def Itg.INTEG_OK : Reg := ⟨0x100, 4, 1, .ro, .status, 0x0, 1, 4⟩
/-- SPOT_INTERVAL of Table 13.4. -/
def Itg.SPOT_INTERVAL : Reg := ⟨0x104, 0, 16, .rw, .setting, 0x800, 1, 4⟩
/-- SCRUB_RATE of Table 13.4. -/
def Itg.SCRUB_RATE : Reg := ⟨0x104, 16, 16, .rw, .setting, 0x1000, 1, 4⟩
/-- ST_PASS of Table 13.4. -/
def Itg.ST_PASS : Reg := ⟨0x108, 0, 9, .ro, .status, 0x0, 1, 4⟩
/-- ST_DONE of Table 13.4. -/
def Itg.ST_DONE : Reg := ⟨0x108, 31, 1, .ro, .status, 0x0, 1, 4⟩
/-- SCRUB_START_LO of Table 13.4. -/
def Itg.SCRUB_START_LO : Reg := ⟨0x10C, 6, 26, .rw, .setting, 0x0, 1, 4⟩
/-- SCRUB_START_HI of Table 13.4. -/
def Itg.SCRUB_START_HI : Reg := ⟨0x110, 0, 8, .rw, .setting, 0x0, 1, 4⟩
/-- SCRUB_END_LO of Table 13.4. -/
def Itg.SCRUB_END_LO : Reg := ⟨0x114, 6, 26, .rw, .setting, 0x0, 1, 4⟩
/-- SCRUB_END_HI of Table 13.4. -/
def Itg.SCRUB_END_HI : Reg := ⟨0x118, 0, 9, .rw, .setting, 0x0, 1, 4⟩
/-- SCRUB_GO of Table 13.4. -/
def Itg.SCRUB_GO : Reg := ⟨0x11C, 0, 1, .wo, .trigger, 0x0, 1, 4⟩
/-- SCRUB_ABORT of Table 13.4. -/
def Itg.SCRUB_ABORT : Reg := ⟨0x11C, 1, 1, .wo, .trigger, 0x0, 1, 4⟩
/-- SCRUB_STATE of Table 13.4. -/
def Itg.SCRUB_STATE : Reg := ⟨0x11C, 4, 2, .ro, .status, 0x0, 1, 4⟩
/-- SCRUB_SUM_READ of Table 13.4. -/
def Itg.SCRUB_SUM_READ : Reg := ⟨0x120, 0, 32, .ro, .record, 0x0, 1, 4⟩
/-- SCRUB_SUM_CORR of Table 13.4. -/
def Itg.SCRUB_SUM_CORR : Reg := ⟨0x124, 0, 32, .ro, .record, 0x0, 1, 4⟩
/-- SCRUB_SUM_UE of Table 13.4. -/
def Itg.SCRUB_SUM_UE : Reg := ⟨0x128, 0, 32, .ro, .record, 0x0, 1, 4⟩
/-- SCRUB_SUM_POISON of Table 13.4. -/
def Itg.SCRUB_SUM_POISON : Reg := ⟨0x12C, 0, 32, .ro, .record, 0x0, 1, 4⟩
/-- SCRUB_SUM_SKIP of Table 13.4. -/
def Itg.SCRUB_SUM_SKIP : Reg := ⟨0x130, 0, 32, .ro, .record, 0x0, 1, 4⟩
/-- SCRUB_SUM_CRC of Table 13.4. -/
def Itg.SCRUB_SUM_CRC : Reg := ⟨0x134, 0, 32, .ro, .record, 0x0, 1, 4⟩
/-- SCRUB_SUM_FIRST_LO of Table 13.4. -/
def Itg.SCRUB_SUM_FIRST_LO : Reg := ⟨0x138, 6, 26, .ro, .record, 0x0, 1, 4⟩
/-- SCRUB_SUM_FIRST_HI of Table 13.4. -/
def Itg.SCRUB_SUM_FIRST_HI : Reg := ⟨0x13C, 0, 8, .ro, .record, 0x0, 1, 4⟩
/-- FIRST_VALID of Table 13.4. -/
def Itg.FIRST_VALID : Reg := ⟨0x13C, 31, 1, .ro, .record, 0x0, 1, 4⟩
/-- SCRUB_SUM_TICK_LO of Table 13.4. -/
def Itg.SCRUB_SUM_TICK_LO : Reg := ⟨0x140, 0, 32, .ro, .record, 0x0, 1, 4⟩
/-- SCRUB_SUM_TICK_HI of Table 13.4. -/
def Itg.SCRUB_SUM_TICK_HI : Reg := ⟨0x144, 0, 16, .ro, .record, 0x0, 1, 4⟩
/-- TRIP_CORR of Table 13.4. -/
def Itg.TRIP_CORR : Reg := ⟨0x150, 0, 32, .ro, .counterWrap, 0x0, 1, 4⟩
/-- TRIP_FAIL of Table 13.4. -/
def Itg.TRIP_FAIL : Reg := ⟨0x154, 0, 32, .ro, .counterSat, 0x0, 1, 4⟩
/-- PATROL_CORR of Table 13.4. -/
def Itg.PATROL_CORR : Reg := ⟨0x158, 0, 32, .ro, .counterWrap, 0x0, 1, 4⟩
/-- PATROL_UE of Table 13.4. -/
def Itg.PATROL_UE : Reg := ⟨0x15C, 0, 32, .ro, .counterSat, 0x0, 1, 4⟩
/-- CORR_TOTAL of Table 13.4. -/
def Itg.CORR_TOTAL : Reg := ⟨0x160, 0, 32, .ro, .counterWrap, 0x0, 1, 4⟩
/-- UE_TOTAL of Table 13.4. -/
def Itg.UE_TOTAL : Reg := ⟨0x164, 0, 32, .ro, .counterSat, 0x0, 1, 4⟩
/-- RESIDUE_ERR of Table 13.4. -/
def Itg.RESIDUE_ERR : Reg := ⟨0x168, 0, 32, .ro, .counterSat, 0x0, 1, 4⟩
/-- CODEC_VERIFY of Table 13.4. -/
def Itg.CODEC_VERIFY : Reg := ⟨0x16C, 0, 32, .ro, .counterSat, 0x0, 1, 4⟩
/-- UE_VALID of Table 13.4. -/
def Itg.UE_VALID : Reg := ⟨0x170, 0, 1, .w1c, .record, 0x0, 1, 4⟩
/-- UE_KIND of Table 13.4. -/
def Itg.UE_KIND : Reg := ⟨0x170, 4, 4, .ro, .record, 0x0, 1, 4⟩
/-- UE_ARRAY of Table 13.4. -/
def Itg.UE_ARRAY : Reg := ⟨0x170, 8, 17, .ro, .record, 0x0, 1, 4⟩
/-- UE_ADDR_LO of Table 13.4. -/
def Itg.UE_ADDR_LO : Reg := ⟨0x174, 6, 26, .ro, .record, 0x0, 1, 4⟩
/-- UE_ADDR_HI of Table 13.4. -/
def Itg.UE_ADDR_HI : Reg := ⟨0x178, 0, 8, .ro, .record, 0x0, 1, 4⟩
/-- UE_TICK_LO of Table 13.4. -/
def Itg.UE_TICK_LO : Reg := ⟨0x17C, 0, 32, .ro, .record, 0x0, 1, 4⟩
/-- UE_TICK_HI of Table 13.4. -/
def Itg.UE_TICK_HI : Reg := ⟨0x180, 0, 16, .ro, .record, 0x0, 1, 4⟩
/-- MERGE_WAIT of Table 13.4. -/
def Itg.MERGE_WAIT : Reg := ⟨0x184, 0, 32, .ro, .counterWrap, 0x0, 1, 4⟩
/-- MERGE_UE of Table 13.4. -/
def Itg.MERGE_UE : Reg := ⟨0x188, 0, 32, .ro, .counterSat, 0x0, 1, 4⟩
/-- SPOT_VALID of Table 13.4. -/
def Itg.SPOT_VALID : Reg := ⟨0x190, 0, 1, .w1c, .record, 0x0, 1, 4⟩
/-- SPOT_TILE of Table 13.4. -/
def Itg.SPOT_TILE : Reg := ⟨0x190, 8, 8, .ro, .record, 0x0, 1, 4⟩
/-- SPOT_TICK_LO of Table 13.4. -/
def Itg.SPOT_TICK_LO : Reg := ⟨0x194, 0, 32, .ro, .record, 0x0, 1, 4⟩
/-- SPOT_TICK_HI of Table 13.4. -/
def Itg.SPOT_TICK_HI : Reg := ⟨0x198, 0, 16, .ro, .record, 0x0, 1, 4⟩
/-- SPOT_INSN of Table 13.4. -/
def Itg.SPOT_INSN : Reg := ⟨0x19C, 0, 14, .ro, .record, 0x0, 1, 4⟩
/-- SPOT_ELEM_LO of Table 13.4. -/
def Itg.SPOT_ELEM_LO : Reg := ⟨0x1A0, 0, 32, .ro, .record, 0x0, 1, 4⟩
/-- SPOT_ELEM_HI of Table 13.4. -/
def Itg.SPOT_ELEM_HI : Reg := ⟨0x1A4, 0, 8, .ro, .record, 0x0, 1, 4⟩
/-- SPOT_GOT of Table 13.4. -/
def Itg.SPOT_GOT : Reg := ⟨0x1A8, 0, 32, .ro, .record, 0x0, 3, 4⟩
/-- SPOT_EXP of Table 13.4. -/
def Itg.SPOT_EXP : Reg := ⟨0x1B4, 0, 32, .ro, .record, 0x0, 3, 4⟩
/-- SPOT_TEMP of Table 13.4. -/
def Itg.SPOT_TEMP : Reg := ⟨0x1C0, 0, 8, .ro, .record, 0x0, 1, 4⟩
/-- SPOT_LOAD of Table 13.4. -/
def Itg.SPOT_LOAD : Reg := ⟨0x1C0, 16, 16, .ro, .record, 0x0, 1, 4⟩
/-- SPOT_CNT of Table 13.4. -/
def Itg.SPOT_CNT : Reg := ⟨0x1C4, 0, 32, .ro, .counterWrap, 0x0, 1, 4⟩
/-- SPOT_FAIL of Table 13.4. -/
def Itg.SPOT_FAIL : Reg := ⟨0x1C8, 0, 32, .ro, .counterSat, 0x0, 1, 4⟩
/-- MON_SEL of Table 13.4. -/
def Itg.MON_SEL : Reg := ⟨0x200, 0, 6, .rw, .setting, 0x0, 1, 4⟩
/-- MON_DROOP of Table 13.4. -/
def Itg.MON_DROOP : Reg := ⟨0x204, 0, 10, .ro, .status, 0x0, 1, 4⟩
/-- MON_CANARY of Table 13.4. -/
def Itg.MON_CANARY : Reg := ⟨0x204, 16, 16, .ro, .status, 0x0, 1, 4⟩
/-- MON_TEMP of Table 13.4. -/
def Itg.MON_TEMP : Reg := ⟨0x208, 0, 8, .ro, .status, 0x0, 1, 4⟩
/-- DROOP_WARN of Table 13.4. -/
def Itg.DROOP_WARN : Reg := ⟨0x20C, 0, 10, .rw, .setting, 0x28, 1, 4⟩
/-- DROOP_QUAR of Table 13.4. -/
def Itg.DROOP_QUAR : Reg := ⟨0x20C, 16, 10, .rw, .setting, 0x3C, 1, 4⟩
/-- CAN_WARN of Table 13.4. -/
def Itg.CAN_WARN : Reg := ⟨0x210, 0, 16, .rw, .setting, 0x1, 1, 4⟩
/-- CAN_QUAR of Table 13.4. -/
def Itg.CAN_QUAR : Reg := ⟨0x210, 16, 16, .rw, .setting, 0x10, 1, 4⟩
/-- OPT_SEL of Table 13.4. -/
def Itg.OPT_SEL : Reg := ⟨0x214, 0, 8, .rw, .setting, 0x0, 1, 4⟩
/-- OPT_RX of Table 13.4. -/
def Itg.OPT_RX : Reg := ⟨0x214, 16, 16, .ro, .status, 0x0, 1, 4⟩
/-- OPT_WARN of Table 13.4. -/
def Itg.OPT_WARN : Reg := ⟨0x218, 0, 16, .rw, .setting, 0xFFC4, 1, 4⟩
/-- OPT_QUAR of Table 13.4. -/
def Itg.OPT_QUAR : Reg := ⟨0x218, 16, 16, .rw, .setting, 0xFFB0, 1, 4⟩
/-- QUAR_HOLD of Table 13.4. -/
def Itg.QUAR_HOLD : Reg := ⟨0x21C, 0, 4, .rw, .setting, 0x4, 1, 4⟩
/-- WARN_MASK_LO / _HI of Table 13.4. -/
def Itg.WARN_MASK : Reg := ⟨0x220, 0, 32, .w1c, .status, 0x0, 2, 4⟩
/-- QUAR_MASK_LO / _HI of Table 13.4. -/
def Itg.QUAR_MASK : Reg := ⟨0x228, 0, 32, .ro, .status, 0x0, 2, 4⟩
/-- OPT_QUAR of Table 13.4. -/
def Itg.OPT_QUAR_LANES : Reg := ⟨0x230, 0, 32, .ro, .status, 0x0, 6, 4⟩

/-- Fields of Table 13.4, part 0. -/
def Itg.fields0 : List Reg := [Itg.TRIP_EN, Itg.SPOT_EN, Itg.QUAR_EN, Itg.ST_OVERRIDE, Itg.INTEG_OK, Itg.SPOT_INTERVAL, Itg.SCRUB_RATE, Itg.ST_PASS, Itg.ST_DONE, Itg.SCRUB_START_LO, Itg.SCRUB_START_HI, Itg.SCRUB_END_LO, Itg.SCRUB_END_HI, Itg.SCRUB_GO, Itg.SCRUB_ABORT, Itg.SCRUB_STATE, Itg.SCRUB_SUM_READ, Itg.SCRUB_SUM_CORR, Itg.SCRUB_SUM_UE, Itg.SCRUB_SUM_POISON, Itg.SCRUB_SUM_SKIP, Itg.SCRUB_SUM_CRC, Itg.SCRUB_SUM_FIRST_LO, Itg.SCRUB_SUM_FIRST_HI]
/-- Fields of Table 13.4, part 1. -/
def Itg.fields1 : List Reg := [Itg.FIRST_VALID, Itg.SCRUB_SUM_TICK_LO, Itg.SCRUB_SUM_TICK_HI, Itg.TRIP_CORR, Itg.TRIP_FAIL, Itg.PATROL_CORR, Itg.PATROL_UE, Itg.CORR_TOTAL, Itg.UE_TOTAL, Itg.RESIDUE_ERR, Itg.CODEC_VERIFY, Itg.UE_VALID, Itg.UE_KIND, Itg.UE_ARRAY, Itg.UE_ADDR_LO, Itg.UE_ADDR_HI, Itg.UE_TICK_LO, Itg.UE_TICK_HI, Itg.MERGE_WAIT, Itg.MERGE_UE, Itg.SPOT_VALID, Itg.SPOT_TILE, Itg.SPOT_TICK_LO, Itg.SPOT_TICK_HI]
/-- Fields of Table 13.4, part 2. -/
def Itg.fields2 : List Reg := [Itg.SPOT_INSN, Itg.SPOT_ELEM_LO, Itg.SPOT_ELEM_HI, Itg.SPOT_GOT, Itg.SPOT_EXP, Itg.SPOT_TEMP, Itg.SPOT_LOAD, Itg.SPOT_CNT, Itg.SPOT_FAIL, Itg.MON_SEL, Itg.MON_DROOP, Itg.MON_CANARY, Itg.MON_TEMP, Itg.DROOP_WARN, Itg.DROOP_QUAR, Itg.CAN_WARN, Itg.CAN_QUAR, Itg.OPT_SEL, Itg.OPT_RX, Itg.OPT_WARN, Itg.OPT_QUAR, Itg.QUAR_HOLD, Itg.WARN_MASK, Itg.QUAR_MASK]
/-- Fields of Table 13.4, part 3. -/
def Itg.fields3 : List Reg := [Itg.OPT_QUAR_LANES]
/-- All fields of Table 13.4. -/
def Itg.fields : List Reg := Itg.fields0 ++ Itg.fields1 ++ Itg.fields2 ++ Itg.fields3

/-! ## Wat: Table 14.5 (R371) -/

/-- WATCH_STATE of Table 14.5. -/
def Wat.WATCH_STATE : Reg := ⟨0x100, 0, 3, .ro, .status, 0x0, 1, 4⟩
/-- HOLD_WHY of Table 14.5. -/
def Wat.HOLD_WHY : Reg := ⟨0x100, 4, 4, .ro, .status, 0x0, 1, 4⟩
/-- PAIR_OK of Table 14.5. -/
def Wat.PAIR_OK : Reg := ⟨0x100, 8, 1, .ro, .status, 0x0, 1, 4⟩
/-- HOLD_SET of Table 14.5. -/
def Wat.HOLD_SET : Reg := ⟨0x100, 16, 5, .ro, .status, 0x0, 1, 4⟩
/-- FAIL_DOMAIN of Table 14.5. -/
def Wat.FAIL_DOMAIN : Reg := ⟨0x104, 0, 12, .rwl, .setting, 0x0, 1, 4⟩
/-- WATCH_PARTNER of Table 14.5. -/
def Wat.WATCH_PARTNER : Reg := ⟨0x108, 0, 15, .rwl, .setting, 0x0, 1, 4⟩
/-- PARTNER_EN of Table 14.5. -/
def Wat.PARTNER_EN : Reg := ⟨0x108, 31, 1, .rwl, .setting, 0x0, 1, 4⟩
/-- TRAIN_START of Table 14.5. -/
def Wat.TRAIN_START : Reg := ⟨0x10C, 0, 24, .rwt, .setting, 0x0, 1, 4⟩
/-- TRAIN_END of Table 14.5. -/
def Wat.TRAIN_END : Reg := ⟨0x110, 0, 24, .rwt, .setting, 0x0, 1, 4⟩
/-- TRAIN_EN of Table 14.5. -/
def Wat.TRAIN_EN : Reg := ⟨0x110, 31, 1, .rwt, .setting, 0x0, 1, 4⟩
/-- NEXT_STEP_LO of Table 14.5. -/
def Wat.NEXT_STEP_LO : Reg := ⟨0x114, 0, 32, .rw, .setting, 0x0, 1, 4⟩
/-- NEXT_STEP_HI of Table 14.5. -/
def Wat.NEXT_STEP_HI : Reg := ⟨0x118, 0, 16, .rw, .setting, 0x0, 1, 4⟩
/-- FLIGHT_STEP_LO of Table 14.5. -/
def Wat.FLIGHT_STEP_LO : Reg := ⟨0x11C, 0, 32, .ro, .status, 0x0, 1, 4⟩
/-- FLIGHT_STEP_HI of Table 14.5. -/
def Wat.FLIGHT_STEP_HI : Reg := ⟨0x120, 0, 16, .ro, .status, 0x0, 1, 4⟩
/-- IN_FLIGHT of Table 14.5. -/
def Wat.IN_FLIGHT : Reg := ⟨0x120, 31, 1, .ro, .status, 0x0, 1, 4⟩
/-- DECL_STEP_LO of Table 14.5. -/
def Wat.DECL_STEP_LO : Reg := ⟨0x124, 0, 32, .ro, .status, 0x0, 1, 4⟩
/-- DECL_STEP_HI of Table 14.5. -/
def Wat.DECL_STEP_HI : Reg := ⟨0x128, 0, 16, .ro, .status, 0x0, 1, 4⟩
/-- DECL_VALID of Table 14.5. -/
def Wat.DECL_VALID : Reg := ⟨0x128, 31, 1, .ro, .status, 0x0, 1, 4⟩
/-- W_CUT of Table 14.5. -/
def Wat.W_CUT : Reg := ⟨0x12C, 0, 8, .rw, .setting, 0x40, 1, 4⟩
/-- W_CONF of Table 14.5. -/
def Wat.W_CONF : Reg := ⟨0x12C, 8, 8, .rw, .setting, 0x40, 1, 4⟩
/-- SW_LEAD of Table 14.5. -/
def Wat.SW_LEAD : Reg := ⟨0x12C, 16, 8, .rw, .setting, 0x8, 1, 4⟩
/-- ROUND_C_LO of Table 14.5. -/
def Wat.ROUND_C_LO : Reg := ⟨0x130, 0, 32, .ro, .status, 0x0, 1, 4⟩
/-- ROUND_C_HI of Table 14.5. -/
def Wat.ROUND_C_HI : Reg := ⟨0x134, 0, 16, .ro, .status, 0x0, 1, 4⟩
/-- ROUND_OPEN of Table 14.5. -/
def Wat.ROUND_OPEN : Reg := ⟨0x134, 31, 1, .ro, .status, 0x0, 1, 4⟩
/-- ROUND_KEYS of Table 14.5. -/
def Wat.ROUND_KEYS : Reg := ⟨0x138, 0, 16, .ro, .status, 0x0, 1, 4⟩
/-- RESTORERS of Table 14.5. -/
def Wat.RESTORERS : Reg := ⟨0x138, 16, 16, .ro, .status, 0x0, 1, 4⟩
/-- DIGEST of Table 14.5. -/
def Wat.DIGEST : Reg := ⟨0x13C, 0, 32, .ro, .status, 0x0, 1, 4⟩
/-- FAILED_MOD of Table 14.5. -/
def Wat.FAILED_MOD : Reg := ⟨0x140, 0, 16, .ro, .status, 0x0, 1, 4⟩
/-- FAILED_LINK of Table 14.5. -/
def Wat.FAILED_LINK : Reg := ⟨0x140, 16, 16, .ro, .status, 0x0, 1, 4⟩
/-- FSET_INDEX of Table 14.5. -/
def Wat.FSET_INDEX : Reg := ⟨0x144, 0, 16, .rw, .setting, 0x0, 1, 4⟩
/-- FSET_KEY of Table 14.5. -/
def Wat.FSET_KEY : Reg := ⟨0x148, 0, 32, .ro, .status, 0x0, 1, 4⟩
/-- VAR_CHOSEN of Table 14.5. -/
def Wat.VAR_CHOSEN : Reg := ⟨0x14C, 0, 6, .ro, .status, 0x0, 1, 4⟩
/-- LAST_DECIDE_LO of Table 14.5. -/
def Wat.LAST_DECIDE_LO : Reg := ⟨0x150, 0, 32, .ro, .status, 0x0, 1, 4⟩
/-- LAST_DECIDE_HI of Table 14.5. -/
def Wat.LAST_DECIDE_HI : Reg := ⟨0x154, 0, 16, .ro, .status, 0x0, 1, 4⟩
/-- CMD of Table 14.5. -/
def Wat.CMD : Reg := ⟨0x158, 0, 2, .wo, .trigger, 0x0, 1, 4⟩
/-- CMD_AT_LO of Table 14.5. -/
def Wat.CMD_AT_LO : Reg := ⟨0x15C, 0, 32, .rw, .setting, 0x0, 1, 4⟩
/-- CMD_AT_HI of Table 14.5. -/
def Wat.CMD_AT_HI : Reg := ⟨0x160, 0, 16, .rw, .setting, 0x0, 1, 4⟩
/-- REBUILD_RATE of Table 14.5. -/
def Wat.REBUILD_RATE : Reg := ⟨0x164, 0, 11, .rw, .setting, 0x708, 1, 4⟩
/-- RB_STATE of Table 14.5. -/
def Wat.RB_STATE : Reg := ⟨0x168, 0, 2, .ro, .status, 0x0, 1, 4⟩
/-- RB_REBUILD of Table 14.5. -/
def Wat.RB_REBUILD : Reg := ⟨0x168, 2, 1, .ro, .status, 0x0, 1, 4⟩
/-- RB_PENDING of Table 14.5. -/
def Wat.RB_PENDING : Reg := ⟨0x168, 16, 16, .ro, .status, 0x0, 1, 4⟩
/-- RB_BYTES_LO of Table 14.5. -/
def Wat.RB_BYTES_LO : Reg := ⟨0x16C, 0, 32, .ro, .status, 0x0, 1, 4⟩
/-- RB_BYTES_HI of Table 14.5. -/
def Wat.RB_BYTES_HI : Reg := ⟨0x170, 0, 8, .ro, .status, 0x0, 1, 4⟩
/-- RB_FIRST of Table 14.5. -/
def Wat.RB_FIRST : Reg := ⟨0x174, 0, 12, .rw, .setting, 0x0, 1, 4⟩
/-- RB_LAST of Table 14.5. -/
def Wat.RB_LAST : Reg := ⟨0x174, 16, 12, .rw, .setting, 0x0, 1, 4⟩
/-- RB_GO of Table 14.5. -/
def Wat.RB_GO : Reg := ⟨0x174, 31, 1, .wo, .trigger, 0x0, 1, 4⟩
/-- PL_VALID of Table 14.5. -/
def Wat.PL_VALID : Reg := ⟨0x178, 0, 1, .w1c, .record, 0x0, 1, 4⟩
/-- PL_SEGS of Table 14.5. -/
def Wat.PL_SEGS : Reg := ⟨0x178, 16, 12, .ro, .record, 0x0, 1, 4⟩
/-- PL_LOG of Table 14.5. -/
def Wat.PL_LOG : Reg := ⟨0x17C, 0, 15, .ro, .record, 0x0, 1, 4⟩
/-- PL_SRC of Table 14.5. -/
def Wat.PL_SRC : Reg := ⟨0x17C, 16, 15, .ro, .record, 0x0, 1, 4⟩
/-- PL_TICK_LO of Table 14.5. -/
def Wat.PL_TICK_LO : Reg := ⟨0x180, 0, 32, .ro, .record, 0x0, 1, 4⟩
/-- PL_TICK_HI of Table 14.5. -/
def Wat.PL_TICK_HI : Reg := ⟨0x184, 0, 16, .ro, .record, 0x0, 1, 4⟩
/-- JOIN of Table 14.5. -/
def Wat.JOIN : Reg := ⟨0x188, 0, 1, .wo, .trigger, 0x0, 1, 4⟩
/-- SEED of Table 14.5. -/
def Wat.SEED : Reg := ⟨0x188, 1, 1, .rw, .setting, 0x0, 1, 4⟩
/-- JOIN_DIR of Table 14.5. -/
def Wat.JOIN_DIR : Reg := ⟨0x188, 4, 3, .ro, .status, 0x0, 1, 4⟩
/-- JOIN_TICK_LO of Table 14.5. -/
def Wat.JOIN_TICK_LO : Reg := ⟨0x18C, 0, 32, .rw, .setting, 0x0, 1, 4⟩
/-- JOIN_TICK_HI of Table 14.5. -/
def Wat.JOIN_TICK_HI : Reg := ⟨0x190, 0, 16, .rw, .setting, 0x0, 1, 4⟩
/-- ROUNDS of Table 14.5. -/
def Wat.ROUNDS : Reg := ⟨0x194, 0, 32, .ro, .counterWrap, 0x0, 1, 4⟩
/-- ABORTS of Table 14.5. -/
def Wat.ABORTS : Reg := ⟨0x198, 0, 32, .ro, .counterWrap, 0x0, 1, 4⟩
/-- DECLARED of Table 14.5. -/
def Wat.DECLARED : Reg := ⟨0x19C, 0, 32, .ro, .counterWrap, 0x0, 1, 4⟩
/-- LANTERN_MISS of Table 14.5. -/
def Wat.LANTERN_MISS : Reg := ⟨0x1A0, 0, 32, .ro, .counterWrap, 0x0, 1, 4⟩

/-- Fields of Table 14.5, part 0. -/
def Wat.fields0 : List Reg := [Wat.WATCH_STATE, Wat.HOLD_WHY, Wat.PAIR_OK, Wat.HOLD_SET, Wat.FAIL_DOMAIN, Wat.WATCH_PARTNER, Wat.PARTNER_EN, Wat.TRAIN_START, Wat.TRAIN_END, Wat.TRAIN_EN, Wat.NEXT_STEP_LO, Wat.NEXT_STEP_HI, Wat.FLIGHT_STEP_LO, Wat.FLIGHT_STEP_HI, Wat.IN_FLIGHT, Wat.DECL_STEP_LO, Wat.DECL_STEP_HI, Wat.DECL_VALID, Wat.W_CUT, Wat.W_CONF, Wat.SW_LEAD, Wat.ROUND_C_LO, Wat.ROUND_C_HI, Wat.ROUND_OPEN]
/-- Fields of Table 14.5, part 1. -/
def Wat.fields1 : List Reg := [Wat.ROUND_KEYS, Wat.RESTORERS, Wat.DIGEST, Wat.FAILED_MOD, Wat.FAILED_LINK, Wat.FSET_INDEX, Wat.FSET_KEY, Wat.VAR_CHOSEN, Wat.LAST_DECIDE_LO, Wat.LAST_DECIDE_HI, Wat.CMD, Wat.CMD_AT_LO, Wat.CMD_AT_HI, Wat.REBUILD_RATE, Wat.RB_STATE, Wat.RB_REBUILD, Wat.RB_PENDING, Wat.RB_BYTES_LO, Wat.RB_BYTES_HI, Wat.RB_FIRST, Wat.RB_LAST, Wat.RB_GO, Wat.PL_VALID, Wat.PL_SEGS]
/-- Fields of Table 14.5, part 2. -/
def Wat.fields2 : List Reg := [Wat.PL_LOG, Wat.PL_SRC, Wat.PL_TICK_LO, Wat.PL_TICK_HI, Wat.JOIN, Wat.SEED, Wat.JOIN_DIR, Wat.JOIN_TICK_LO, Wat.JOIN_TICK_HI, Wat.ROUNDS, Wat.ABORTS, Wat.DECLARED, Wat.LANTERN_MISS]
/-- All fields of Table 14.5. -/
def Wat.fields : List Reg := Wat.fields0 ++ Wat.fields1 ++ Wat.fields2

/-! ## Mac: Table 16.7 (R396) -/

/-- LINK_UP of Table 16.7. -/
def Mac.LINK_UP : Reg := ⟨0x100, 0, 1, .ro, .status, 0x0, 1, 4⟩
/-- MAC_LO of Table 16.7. -/
def Mac.MAC_LO : Reg := ⟨0x104, 0, 32, .rwl, .setting, 0x0, 1, 4⟩
/-- MAC_HI of Table 16.7. -/
def Mac.MAC_HI : Reg := ⟨0x108, 0, 16, .rwl, .setting, 0x0, 1, 4⟩
/-- IPV4_ADDR of Table 16.7. -/
def Mac.IPV4_ADDR : Reg := ⟨0x10C, 0, 32, .rw, .setting, 0x0, 1, 4⟩
/-- IPV6_ADDR of Table 16.7. -/
def Mac.IPV6_ADDR : Reg := ⟨0x110, 0, 32, .rw, .setting, 0x0, 4, 4⟩
/-- UDP_PORT of Table 16.7. -/
def Mac.UDP_PORT : Reg := ⟨0x120, 0, 16, .rw, .setting, 0xBE70, 1, 4⟩
/-- V4_EN of Table 16.7. -/
def Mac.V4_EN : Reg := ⟨0x120, 16, 1, .rw, .setting, 0x1, 1, 4⟩
/-- V6_EN of Table 16.7. -/
def Mac.V6_EN : Reg := ⟨0x120, 17, 1, .rw, .setting, 0x0, 1, 4⟩
/-- GEN_ECT of Table 16.7. -/
def Mac.GEN_ECT : Reg := ⟨0x120, 18, 1, .rw, .setting, 0x1, 1, 4⟩
/-- REPLAY_DEPTH of Table 16.7. -/
def Mac.REPLAY_DEPTH : Reg := ⟨0x124, 0, 7, .rw, .setting, 0x20, 1, 4⟩
/-- HOLD_TMO of Table 16.7. -/
def Mac.HOLD_TMO : Reg := ⟨0x124, 16, 16, .rw, .setting, 0x3E8, 1, 4⟩
/-- SESS_TMO of Table 16.7. -/
def Mac.SESS_TMO : Reg := ⟨0x128, 0, 16, .rw, .setting, 0x2710, 1, 4⟩
/-- SESS_OPEN of Table 16.7. -/
def Mac.SESS_OPEN : Reg := ⟨0x128, 16, 16, .ro, .status, 0x0, 1, 4⟩
/-- EVT_MAC_LO of Table 16.7. -/
def Mac.EVT_MAC_LO : Reg := ⟨0x130, 0, 32, .rw, .setting, 0x0, 1, 4⟩
/-- EVT_MAC_HI of Table 16.7. -/
def Mac.EVT_MAC_HI : Reg := ⟨0x134, 0, 16, .rw, .setting, 0x0, 1, 4⟩
/-- EVT_V6 of Table 16.7. -/
def Mac.EVT_V6 : Reg := ⟨0x134, 16, 1, .rw, .setting, 0x0, 1, 4⟩
/-- EVT_EN of Table 16.7. -/
def Mac.EVT_EN : Reg := ⟨0x134, 17, 1, .rw, .setting, 0x0, 1, 4⟩
/-- EVT_TAGGED of Table 16.7. -/
def Mac.EVT_TAGGED : Reg := ⟨0x134, 18, 1, .rw, .setting, 0x0, 1, 4⟩
/-- EVT_VID of Table 16.7. -/
def Mac.EVT_VID : Reg := ⟨0x134, 20, 12, .rw, .setting, 0x0, 1, 4⟩
/-- EVT_IP4 of Table 16.7. -/
def Mac.EVT_IP4 : Reg := ⟨0x138, 0, 32, .rw, .setting, 0x0, 1, 4⟩
/-- EVT_IP6 of Table 16.7. -/
def Mac.EVT_IP6 : Reg := ⟨0x13C, 0, 32, .rw, .setting, 0x0, 4, 4⟩
/-- EVT_PORT of Table 16.7. -/
def Mac.EVT_PORT : Reg := ⟨0x14C, 0, 16, .rw, .setting, 0xBE71, 1, 4⟩
/-- EVT_RTO of Table 16.7. -/
def Mac.EVT_RTO : Reg := ⟨0x14C, 16, 16, .rw, .setting, 0x1F4, 1, 4⟩
/-- EVT_NEXT of Table 16.7. -/
def Mac.EVT_NEXT : Reg := ⟨0x150, 0, 32, .ro, .status, 0x0, 1, 4⟩
/-- EVT_PEND of Table 16.7. -/
def Mac.EVT_PEND : Reg := ⟨0x154, 0, 9, .ro, .status, 0x0, 1, 4⟩
/-- EVT_LOST of Table 16.7. -/
def Mac.EVT_LOST : Reg := ⟨0x158, 0, 32, .ro, .counterSat, 0x0, 1, 4⟩
/-- STREAM_RATE of Table 16.7. -/
def Mac.STREAM_RATE : Reg := ⟨0x160, 0, 8, .rw, .setting, 0xBE, 1, 4⟩
/-- BULK_Q of Table 16.7. -/
def Mac.BULK_Q : Reg := ⟨0x160, 8, 3, .rw, .setting, 0x0, 1, 4⟩
/-- STREAM_WIN of Table 16.7. -/
def Mac.STREAM_WIN : Reg := ⟨0x164, 0, 8, .rw, .setting, 0x20, 1, 4⟩
/-- STREAM_RTO of Table 16.7. -/
def Mac.STREAM_RTO : Reg := ⟨0x164, 16, 16, .rw, .setting, 0xC8, 1, 4⟩
/-- STRM_STATE of Table 16.7. -/
def Mac.STRM_STATE : Reg := ⟨0x168, 0, 3, .ro, .status, 0x0, 2, 4⟩
/-- STRM_DONE_LO of Table 16.7. -/
def Mac.STRM_DONE_LO : Reg := ⟨0x170, 0, 32, .ro, .status, 0x0, 2, 8⟩
/-- STRM_DONE_HI of Table 16.7. -/
def Mac.STRM_DONE_HI : Reg := ⟨0x174, 0, 8, .ro, .status, 0x0, 2, 8⟩
/-- CW_BATCH of Table 16.7. -/
def Mac.CW_BATCH : Reg := ⟨0x180, 0, 8, .rw, .setting, 0x10, 1, 4⟩
/-- CW_EN_LO of Table 16.7. -/
def Mac.CW_EN_LO : Reg := ⟨0x184, 0, 32, .rw, .setting, 0x0, 1, 4⟩
/-- CW_EN_HI of Table 16.7. -/
def Mac.CW_EN_HI : Reg := ⟨0x188, 0, 32, .rw, .setting, 0x0, 1, 4⟩
/-- RX_MORAECA of Table 16.7. -/
def Mac.RX_MORAECA : Reg := ⟨0x190, 0, 32, .ro, .counterWrap, 0x0, 1, 4⟩
/-- RX_BAD of Table 16.7. -/
def Mac.RX_BAD : Reg := ⟨0x194, 0, 32, .ro, .counterWrap, 0x0, 1, 4⟩
/-- RX_NOTOURS of Table 16.7. -/
def Mac.RX_NOTOURS : Reg := ⟨0x198, 0, 32, .ro, .counterWrap, 0x0, 1, 4⟩
/-- HOLD_DROP of Table 16.7. -/
def Mac.HOLD_DROP : Reg := ⟨0x19C, 0, 32, .ro, .counterWrap, 0x0, 1, 4⟩
/-- PAUSE_IGN of Table 16.7. -/
def Mac.PAUSE_IGN : Reg := ⟨0x1A0, 0, 32, .ro, .counterWrap, 0x0, 1, 4⟩
/-- CW_BASE_LO of Table 16.7. -/
def Mac.CW_BASE_LO : Reg := ⟨0x200, 6, 26, .rw, .setting, 0x0, 64, 16⟩
/-- CW_BASE_HI of Table 16.7. -/
def Mac.CW_BASE_HI : Reg := ⟨0x204, 0, 8, .rw, .setting, 0x0, 64, 16⟩
/-- CW_LOG of Table 16.7. -/
def Mac.CW_LOG : Reg := ⟨0x208, 0, 4, .rw, .setting, 0x0, 64, 16⟩
/-- CW_DONE of Table 16.7. -/
def Mac.CW_DONE : Reg := ⟨0x20C, 0, 32, .ro, .counterWrap, 0x0, 64, 16⟩

/-- Fields of Table 16.7, part 0. -/
def Mac.fields0 : List Reg := [Mac.LINK_UP, Mac.MAC_LO, Mac.MAC_HI, Mac.IPV4_ADDR, Mac.IPV6_ADDR, Mac.UDP_PORT, Mac.V4_EN, Mac.V6_EN, Mac.GEN_ECT, Mac.REPLAY_DEPTH, Mac.HOLD_TMO, Mac.SESS_TMO, Mac.SESS_OPEN, Mac.EVT_MAC_LO, Mac.EVT_MAC_HI, Mac.EVT_V6, Mac.EVT_EN, Mac.EVT_TAGGED, Mac.EVT_VID, Mac.EVT_IP4, Mac.EVT_IP6, Mac.EVT_PORT, Mac.EVT_RTO, Mac.EVT_NEXT]
/-- Fields of Table 16.7, part 1. -/
def Mac.fields1 : List Reg := [Mac.EVT_PEND, Mac.EVT_LOST, Mac.STREAM_RATE, Mac.BULK_Q, Mac.STREAM_WIN, Mac.STREAM_RTO, Mac.STRM_STATE, Mac.STRM_DONE_LO, Mac.STRM_DONE_HI, Mac.CW_BATCH, Mac.CW_EN_LO, Mac.CW_EN_HI, Mac.RX_MORAECA, Mac.RX_BAD, Mac.RX_NOTOURS, Mac.HOLD_DROP, Mac.PAUSE_IGN, Mac.CW_BASE_LO, Mac.CW_BASE_HI, Mac.CW_LOG, Mac.CW_DONE]
/-- All fields of Table 16.7. -/
def Mac.fields : List Reg := Mac.fields0 ++ Mac.fields1

/-! ## Hdr: Table 17.1 (R402) -/

/-- INSTANCE of Table 17.1. -/
def Hdr.INSTANCE : Reg := ⟨0x000, 0, 16, .ro, .status, 0x0, 1, 4⟩
/-- TYPE of Table 17.1. -/
def Hdr.TYPE : Reg := ⟨0x000, 16, 16, .ro, .status, 0x0, 1, 4⟩
/-- PG_REV of Table 17.1. -/
def Hdr.PG_REV : Reg := ⟨0x004, 0, 32, .ro, .status, 0x4101, 1, 4⟩
/-- EN of Table 17.1. -/
def Hdr.EN : Reg := ⟨0x008, 0, 1, .rwt, .setting, 0x1, 1, 4⟩
/-- SOFT_RST of Table 17.1. -/
def Hdr.SOFT_RST : Reg := ⟨0x008, 1, 1, .wo, .trigger, 0x0, 1, 4⟩
/-- FREEZE of Table 17.1. -/
def Hdr.FREEZE : Reg := ⟨0x008, 2, 1, .rw, .setting, 0x0, 1, 4⟩
/-- LOCK of Table 17.1. -/
def Hdr.LOCK : Reg := ⟨0x008, 3, 1, .w1s, .setting, 0x0, 1, 4⟩
/-- READY of Table 17.1. -/
def Hdr.READY : Reg := ⟨0x00C, 0, 1, .ro, .status, 0x0, 1, 4⟩
/-- RST_PEND of Table 17.1. -/
def Hdr.RST_PEND : Reg := ⟨0x00C, 1, 1, .ro, .status, 0x0, 1, 4⟩
/-- HELD_EVT of Table 17.1. -/
def Hdr.HELD_EVT : Reg := ⟨0x00C, 2, 1, .ro, .status, 0x0, 1, 4⟩
/-- LOCKED of Table 17.1. -/
def Hdr.LOCKED : Reg := ⟨0x00C, 3, 1, .ro, .status, 0x0, 1, 4⟩
/-- DEFAULTED of Table 17.1. -/
def Hdr.DEFAULTED : Reg := ⟨0x00C, 7, 1, .w1c, .status, 0x1, 1, 4⟩
/-- DEF_KIND of Table 17.1. -/
def Hdr.DEF_KIND : Reg := ⟨0x00C, 8, 3, .ro, .status, 0x1, 1, 4⟩
/-- PG_ERR of Table 17.1. -/
def Hdr.PG_ERR : Reg := ⟨0x010, 0, 32, .w1c, .errs, 0x0, 1, 4⟩
/-- PG_ERR_EN of Table 17.1. -/
def Hdr.PG_ERR_EN : Reg := ⟨0x014, 0, 32, .rw, .setting, 0x0, 1, 4⟩
/-- FIRST_CODE of Table 17.1. -/
def Hdr.FIRST_CODE : Reg := ⟨0x018, 0, 16, .ro, .errs, 0x0, 1, 4⟩
/-- FIRST_COUNT of Table 17.1. -/
def Hdr.FIRST_COUNT : Reg := ⟨0x018, 16, 16, .ro, .errs, 0x0, 1, 4⟩
/-- PG_ERR_TICK of Table 17.1. -/
def Hdr.PG_ERR_TICK : Reg := ⟨0x01C, 0, 32, .ro, .errs, 0x0, 1, 4⟩
/-- CUR of Table 17.1. -/
def Hdr.CUR : Reg := ⟨0x020, 0, 2, .ro, .status, 0x0, 1, 4⟩
/-- HOLD_ON of Table 17.1. -/
def Hdr.HOLD_ON : Reg := ⟨0x020, 4, 1, .rw, .setting, 0x0, 1, 4⟩
/-- SUB_OFF of Table 17.1. -/
def Hdr.SUB_OFF : Reg := ⟨0x020, 8, 8, .ro, .status, 0x0, 1, 4⟩
/-- DOMAIN of Table 17.1. -/
def Hdr.DOMAIN : Reg := ⟨0x020, 16, 9, .ro, .status, 0x0, 1, 4⟩
/-- LAT_TOL of Table 17.1. -/
def Hdr.LAT_TOL : Reg := ⟨0x024, 0, 24, .rw, .setting, 0x0, 1, 4⟩
/-- PG_SCRATCH of Table 17.1. -/
def Hdr.PG_SCRATCH : Reg := ⟨0x028, 0, 32, .rw, .setting, 0x0, 1, 4⟩

/-- Fields of Table 17.1, part 0. -/
def Hdr.fields0 : List Reg := [Hdr.INSTANCE, Hdr.TYPE, Hdr.PG_REV, Hdr.EN, Hdr.SOFT_RST, Hdr.FREEZE, Hdr.LOCK, Hdr.READY, Hdr.RST_PEND, Hdr.HELD_EVT, Hdr.LOCKED, Hdr.DEFAULTED, Hdr.DEF_KIND, Hdr.PG_ERR, Hdr.PG_ERR_EN, Hdr.FIRST_CODE, Hdr.FIRST_COUNT, Hdr.PG_ERR_TICK, Hdr.CUR, Hdr.HOLD_ON, Hdr.SUB_OFF, Hdr.DOMAIN, Hdr.LAT_TOL, Hdr.PG_SCRATCH]
/-- All fields of Table 17.1. -/
def Hdr.fields : List Reg := Hdr.fields0

/-! ## Lan: Table 17.6 (R413) -/

/-- FW_VER of Table 17.6. -/
def Lan.FW_VER : Reg := ⟨0x100, 0, 32, .ro, .status, 0x0, 1, 4⟩
/-- XLATOR_VER of Table 17.6. -/
def Lan.XLATOR_VER : Reg := ⟨0x104, 0, 32, .ro, .status, 0x0, 1, 4⟩
/-- CORES_UP of Table 17.6. -/
def Lan.CORES_UP : Reg := ⟨0x108, 0, 4, .ro, .status, 0x0, 1, 4⟩
/-- REG_OFF of Table 17.6. -/
def Lan.REG_OFF : Reg := ⟨0x10C, 0, 32, .ro, .counterWrap, 0x0, 1, 4⟩
/-- REG_FAULT of Table 17.6. -/
def Lan.REG_FAULT : Reg := ⟨0x110, 0, 32, .ro, .counterWrap, 0x0, 1, 4⟩
/-- REG_FAULT_ADDR of Table 17.6. -/
def Lan.REG_FAULT_ADDR : Reg := ⟨0x114, 0, 32, .ro, .status, 0x0, 1, 4⟩

/-- Fields of Table 17.6, part 0. -/
def Lan.fields0 : List Reg := [Lan.FW_VER, Lan.XLATOR_VER, Lan.CORES_UP, Lan.REG_OFF, Lan.REG_FAULT, Lan.REG_FAULT_ADDR]
/-- All fields of Table 17.6. -/
def Lan.fields : List Reg := Lan.fields0

/-! ## Ocu: Table 17.7 (R414) -/

/-- PWR_MOD of Table 17.7. -/
def Ocu.PWR_MOD : Reg := ⟨0x100, 0, 13, .ro, .status, 0x0, 1, 4⟩
/-- HOT_TEMP of Table 17.7. -/
def Ocu.HOT_TEMP : Reg := ⟨0x104, 0, 8, .ro, .status, 0x0, 1, 4⟩
/-- TS_TEMP of Table 17.7. -/
def Ocu.TS_TEMP : Reg := ⟨0x200, 0, 8, .ro, .status, 0x0, 64, 4⟩
/-- TS_MAX of Table 17.7. -/
def Ocu.TS_MAX : Reg := ⟨0x200, 8, 8, .ro, .status, 0x0, 64, 4⟩
/-- PWR_CUP of Table 17.7. -/
def Ocu.PWR_CUP : Reg := ⟨0x300, 0, 10, .ro, .status, 0x0, 8, 4⟩

/-- Fields of Table 17.7, part 0. -/
def Ocu.fields0 : List Reg := [Ocu.PWR_MOD, Ocu.HOT_TEMP, Ocu.TS_TEMP, Ocu.TS_MAX, Ocu.PWR_CUP]
/-- All fields of Table 17.7. -/
def Ocu.fields : List Reg := Ocu.fields0

/-! ## Cup: Table 17.8 (R415) -/

/-- KC_STATE of Table 17.8. -/
def Cup.KC_STATE : Reg := ⟨0x100, 0, 2, .ro, .status, 0x0, 4, 4⟩
/-- KC_RETRY of Table 17.8. -/
def Cup.KC_RETRY : Reg := ⟨0x110, 0, 32, .ro, .counterWrap, 0x0, 4, 4⟩
/-- KC_RETRY_CC of Table 17.8. -/
def Cup.KC_RETRY_CC : Reg := ⟨0x120, 0, 32, .ro, .counterWrap, 0x0, 4, 4⟩
/-- CUP_PWR of Table 17.8. -/
def Cup.CUP_PWR : Reg := ⟨0x130, 0, 10, .ro, .status, 0x0, 1, 4⟩

/-- Fields of Table 17.8, part 0. -/
def Cup.fields0 : List Reg := [Cup.KC_STATE, Cup.KC_RETRY, Cup.KC_RETRY_CC, Cup.CUP_PWR]
/-- All fields of Table 17.8. -/
def Cup.fields : List Reg := Cup.fields0

/-! ## Kkl: Table 17.8 (R415) -/

/-- KK_STATE of Table 17.8. -/
def Kkl.KK_STATE : Reg := ⟨0x900, 0, 2, .ro, .status, 0x0, 4, 4⟩
/-- KK_RETRY of Table 17.8. -/
def Kkl.KK_RETRY : Reg := ⟨0x910, 0, 32, .ro, .counterWrap, 0x0, 4, 4⟩

/-- Fields of Table 17.8, part 0. -/
def Kkl.fields0 : List Reg := [Kkl.KK_STATE, Kkl.KK_RETRY]
/-- All fields of Table 17.8. -/
def Kkl.fields : List Reg := Kkl.fields0

/-! ## Cal: Table 18.6 (R433) -/

/-- CAL_TS_OFF of Table 18.6. -/
def Cal.CAL_TS_OFF : Reg := ⟨0x400, 0, 16, .rw, .setting, 0x0, 64, 4⟩
/-- CAL_VMON_TRIM of Table 18.6. -/
def Cal.CAL_VMON_TRIM : Reg := ⟨0x500, 0, 16, .rw, .setting, 0x0, 64, 4⟩
/-- CAL_OPT_GAIN of Table 18.6. -/
def Cal.CAL_OPT_GAIN : Reg := ⟨0x600, 0, 16, .rw, .setting, 0x0, 192, 4⟩
/-- CAL_OPT_OFF of Table 18.6. -/
def Cal.CAL_OPT_OFF : Reg := ⟨0x600, 16, 16, .rw, .setting, 0x0, 192, 4⟩
/-- CAL_TX_PRE of Table 18.6. -/
def Cal.CAL_TX_PRE : Reg := ⟨0x900, 0, 4, .rw, .setting, 0x0, 264, 4⟩
/-- CAL_TX_POST of Table 18.6. -/
def Cal.CAL_TX_POST : Reg := ⟨0x900, 4, 4, .rw, .setting, 0x0, 264, 4⟩
/-- CAL_CTLE of Table 18.6. -/
def Cal.CAL_CTLE : Reg := ⟨0x900, 8, 6, .rw, .setting, 0x0, 264, 4⟩
/-- CAL_DFE1 of Table 18.6. -/
def Cal.CAL_DFE1 : Reg := ⟨0x900, 16, 6, .rw, .setting, 0x0, 264, 4⟩
/-- CAL_OE_EQ of Table 18.6. -/
def Cal.CAL_OE_EQ : Reg := ⟨0xD40, 0, 22, .rw, .setting, 0x0, 12, 4⟩
/-- CAL_SAVE of Table 18.6. -/
def Cal.CAL_SAVE : Reg := ⟨0xE00, 0, 1, .wo, .trigger, 0x0, 1, 4⟩
/-- CAL_BUSY of Table 18.6. -/
def Cal.CAL_BUSY : Reg := ⟨0xE00, 1, 1, .ro, .status, 0x0, 1, 4⟩
/-- CAL_VALID of Table 18.6. -/
def Cal.CAL_VALID : Reg := ⟨0xE00, 2, 1, .ro, .status, 0x0, 1, 4⟩
/-- CAL_FACTORY of Table 18.6. -/
def Cal.CAL_FACTORY : Reg := ⟨0xE00, 3, 1, .ro, .status, 0x0, 1, 4⟩
/-- CAL_CRC of Table 18.6. -/
def Cal.CAL_CRC : Reg := ⟨0xE04, 0, 32, .ro, .status, 0x0, 1, 4⟩

/-- Fields of Table 18.6, part 0. -/
def Cal.fields0 : List Reg := [Cal.CAL_TS_OFF, Cal.CAL_VMON_TRIM, Cal.CAL_OPT_GAIN, Cal.CAL_OPT_OFF, Cal.CAL_TX_PRE, Cal.CAL_TX_POST, Cal.CAL_CTLE, Cal.CAL_DFE1, Cal.CAL_OE_EQ, Cal.CAL_SAVE, Cal.CAL_BUSY, Cal.CAL_VALID, Cal.CAL_FACTORY, Cal.CAL_CRC]
/-- All fields of Table 18.6. -/
def Cal.fields : List Reg := Cal.fields0

/-! ## Boo: Table 18.8 (R437) -/

/-- BOOT_PHASE of Table 18.8. -/
def Boo.BOOT_PHASE : Reg := ⟨0x200, 0, 4, .ro, .status, 0x1, 1, 4⟩
/-- BOOT_FAIL_PHASE of Table 18.8. -/
def Boo.BOOT_FAIL_PHASE : Reg := ⟨0x200, 4, 4, .ro, .status, 0x0, 1, 4⟩
/-- BOOT_FAIL_CODE of Table 18.8. -/
def Boo.BOOT_FAIL_CODE : Reg := ⟨0x200, 8, 8, .ro, .status, 0x0, 1, 4⟩
/-- BOOT_DONE of Table 18.8. -/
def Boo.BOOT_DONE : Reg := ⟨0x200, 31, 1, .ro, .status, 0x0, 1, 4⟩
/-- RESET_CAUSE of Table 18.8. -/
def Boo.RESET_CAUSE : Reg := ⟨0x204, 0, 3, .ro, .status, 0x1, 1, 4⟩
/-- MRST_SRC of Table 18.8. -/
def Boo.MRST_SRC : Reg := ⟨0x204, 8, 1, .ro, .status, 0x0, 1, 4⟩
/-- BOOT_MS of Table 18.8. -/
def Boo.BOOT_MS : Reg := ⟨0x208, 0, 32, .ro, .status, 0x0, 1, 4⟩
/-- PHASE_MS of Table 18.8. -/
def Boo.PHASE_MS : Reg := ⟨0x210, 0, 32, .ro, .status, 0x0, 8, 4⟩
/-- BP_COORD of Table 18.8. -/
def Boo.BP_COORD : Reg := ⟨0x280, 0, 15, .rw, .setting, 0x0, 1, 4⟩
/-- BP_EXTENT of Table 18.8. -/
def Boo.BP_EXTENT : Reg := ⟨0x284, 0, 15, .rw, .setting, 0x0, 1, 4⟩
/-- BP_FD of Table 18.8. -/
def Boo.BP_FD : Reg := ⟨0x288, 0, 12, .rw, .setting, 0x0, 1, 4⟩
/-- BP_MAC_LO of Table 18.8. -/
def Boo.BP_MAC_LO : Reg := ⟨0x28C, 0, 32, .rw, .setting, 0x0, 1, 4⟩
/-- BP_MAC_HI of Table 18.8. -/
def Boo.BP_MAC_HI : Reg := ⟨0x290, 0, 16, .rw, .setting, 0x0, 1, 4⟩
/-- BP_FLAGS of Table 18.8. -/
def Boo.BP_FLAGS : Reg := ⟨0x294, 0, 3, .rw, .setting, 0x0, 1, 4⟩
/-- BP_JTICK_LO of Table 18.8. -/
def Boo.BP_JTICK_LO : Reg := ⟨0x298, 0, 32, .rw, .setting, 0x0, 1, 4⟩
/-- BP_JTICK_HI of Table 18.8. -/
def Boo.BP_JTICK_HI : Reg := ⟨0x29C, 0, 16, .rw, .setting, 0x0, 1, 4⟩
/-- BP_SAVE of Table 18.8. -/
def Boo.BP_SAVE : Reg := ⟨0x2A0, 0, 1, .wo, .trigger, 0x0, 1, 4⟩
/-- BP_LOAD of Table 18.8. -/
def Boo.BP_LOAD : Reg := ⟨0x2A0, 1, 1, .wo, .trigger, 0x0, 1, 4⟩
/-- BP_STATE of Table 18.8. -/
def Boo.BP_STATE : Reg := ⟨0x2A0, 8, 2, .ro, .status, 0x0, 1, 4⟩

/-- Fields of Table 18.8, part 0. -/
def Boo.fields0 : List Reg := [Boo.BOOT_PHASE, Boo.BOOT_FAIL_PHASE, Boo.BOOT_FAIL_CODE, Boo.BOOT_DONE, Boo.RESET_CAUSE, Boo.MRST_SRC, Boo.BOOT_MS, Boo.PHASE_MS, Boo.BP_COORD, Boo.BP_EXTENT, Boo.BP_FD, Boo.BP_MAC_LO, Boo.BP_MAC_HI, Boo.BP_FLAGS, Boo.BP_JTICK_LO, Boo.BP_JTICK_HI, Boo.BP_SAVE, Boo.BP_LOAD, Boo.BP_STATE]
/-- All fields of Table 18.8. -/
def Boo.fields : List Reg := Boo.fields0

/-! ## But: Table 18.9 (R438) -/

/-- MAIN_GOOD of Table 18.9. -/
def But.MAIN_GOOD : Reg := ⟨0x100, 0, 1, .ro, .status, 0x0, 1, 4⟩
/-- BACKUP_GOOD of Table 18.9. -/
def But.BACKUP_GOOD : Reg := ⟨0x100, 1, 1, .ro, .status, 0x0, 1, 4⟩
/-- ON_BACKUP of Table 18.9. -/
def But.ON_BACKUP : Reg := ⟨0x100, 2, 1, .ro, .status, 0x0, 1, 4⟩
/-- SUP_OK of Table 18.9. -/
def But.SUP_OK : Reg := ⟨0x100, 3, 1, .ro, .status, 0x0, 1, 4⟩
/-- COOL_OK of Table 18.9. -/
def But.COOL_OK : Reg := ⟨0x100, 4, 1, .ro, .status, 0x0, 1, 4⟩
/-- HOLDUP of Table 18.9. -/
def But.HOLDUP : Reg := ⟨0x100, 5, 1, .ro, .status, 0x0, 1, 4⟩
/-- MAIN_MV of Table 18.9. -/
def But.MAIN_MV : Reg := ⟨0x104, 0, 16, .ro, .status, 0x0, 1, 4⟩
/-- BACKUP_MV of Table 18.9. -/
def But.BACKUP_MV : Reg := ⟨0x104, 16, 16, .ro, .status, 0x0, 1, 4⟩
/-- SWITCH_CNT of Table 18.9. -/
def But.SWITCH_CNT : Reg := ⟨0x108, 0, 32, .ro, .counterWrap, 0x0, 1, 4⟩
/-- RETURN_MS of Table 18.9. -/
def But.RETURN_MS : Reg := ⟨0x10C, 0, 16, .rw, .setting, 0x3E8, 1, 4⟩
/-- FEED_PREF of Table 18.9. -/
def But.FEED_PREF : Reg := ⟨0x10C, 16, 1, .rw, .setting, 0x0, 1, 4⟩
/-- PIN_W of Table 18.9. -/
def But.PIN_W : Reg := ⟨0x110, 0, 13, .ro, .status, 0x0, 1, 4⟩
/-- PIN_PEAK of Table 18.9. -/
def But.PIN_PEAK : Reg := ⟨0x110, 16, 13, .ro, .status, 0x0, 1, 4⟩
/-- FLOW of Table 18.9. -/
def But.FLOW : Reg := ⟨0x114, 0, 16, .ro, .status, 0x0, 1, 4⟩
/-- INLET of Table 18.9. -/
def But.INLET : Reg := ⟨0x114, 16, 16, .ro, .status, 0x0, 1, 4⟩
/-- FLOW_MIN of Table 18.9. -/
def But.FLOW_MIN : Reg := ⟨0x118, 0, 16, .rwl, .setting, 0x140, 1, 4⟩
/-- FLOW_TRIP of Table 18.9. -/
def But.FLOW_TRIP : Reg := ⟨0x118, 16, 16, .rwl, .setting, 0xC8, 1, 4⟩
/-- INLET_MAX of Table 18.9. -/
def But.INLET_MAX : Reg := ⟨0x11C, 0, 16, .rwl, .setting, 0x1C2, 1, 4⟩
/-- INLET_TRIP of Table 18.9. -/
def But.INLET_TRIP : Reg := ⟨0x11C, 16, 16, .rwl, .setting, 0x1F4, 1, 4⟩
/-- TEMP_TRIP of Table 18.9. -/
def But.TEMP_TRIP : Reg := ⟨0x120, 0, 8, .rwl, .setting, 0x6E, 1, 4⟩
/-- MOD_REQ of Table 18.9. -/
def But.MOD_REQ : Reg := ⟨0x124, 0, 8, .wo, .trigger, 0x0, 1, 4⟩
/-- MOD_KEY of Table 18.9. -/
def But.MOD_KEY : Reg := ⟨0x124, 8, 8, .wo, .trigger, 0x0, 1, 4⟩
/-- MOD_STATE of Table 18.9. -/
def But.MOD_STATE : Reg := ⟨0x128, 0, 2, .ro, .status, 0x0, 1, 4⟩
/-- TRIP_CAUSE of Table 18.9. -/
def But.TRIP_CAUSE : Reg := ⟨0x12C, 0, 4, .ro, .status, 0x0, 1, 4⟩
/-- TRIP_SENSOR of Table 18.9. -/
def But.TRIP_SENSOR : Reg := ⟨0x12C, 16, 6, .ro, .status, 0x0, 1, 4⟩
/-- HBM_P3_SR of Table 18.9. -/
def But.HBM_P3_SR : Reg := ⟨0x130, 0, 1, .rw, .setting, 0x1, 1, 4⟩
/-- DOM_SEL of Table 18.9. -/
def But.DOM_SEL : Reg := ⟨0x134, 0, 9, .rw, .setting, 0x0, 1, 4⟩
/-- DOM_STATE of Table 18.9. -/
def But.DOM_STATE : Reg := ⟨0x138, 0, 2, .ro, .status, 0x0, 1, 4⟩
/-- DOM_WAKE_US of Table 18.9. -/
def But.DOM_WAKE_US : Reg := ⟨0x138, 16, 16, .ro, .status, 0x0, 1, 4⟩
/-- DOM_WAKES of Table 18.9. -/
def But.DOM_WAKES : Reg := ⟨0x13C, 0, 32, .ro, .counterWrap, 0x0, 1, 4⟩

/-- Fields of Table 18.9, part 0. -/
def But.fields0 : List Reg := [But.MAIN_GOOD, But.BACKUP_GOOD, But.ON_BACKUP, But.SUP_OK, But.COOL_OK, But.HOLDUP, But.MAIN_MV, But.BACKUP_MV, But.SWITCH_CNT, But.RETURN_MS, But.FEED_PREF, But.PIN_W, But.PIN_PEAK, But.FLOW, But.INLET, But.FLOW_MIN, But.FLOW_TRIP, But.INLET_MAX, But.INLET_TRIP, But.TEMP_TRIP, But.MOD_REQ, But.MOD_KEY, But.MOD_STATE, But.TRIP_CAUSE]
/-- Fields of Table 18.9, part 1. -/
def But.fields1 : List Reg := [But.TRIP_SENSOR, But.HBM_P3_SR, But.DOM_SEL, But.DOM_STATE, But.DOM_WAKE_US, But.DOM_WAKES]
/-- All fields of Table 18.9. -/
def But.fields : List Reg := But.fields0 ++ But.fields1

/-! ## Fwu: Table 19.7 (R460) -/

/-- ACTIVE_SLOT of Table 19.7. -/
def Fwu.ACTIVE_SLOT : Reg := ⟨0xF00, 0, 1, .ro, .status, 0x0, 1, 4⟩
/-- NEXT_SLOT of Table 19.7. -/
def Fwu.NEXT_SLOT : Reg := ⟨0xF00, 1, 1, .ro, .status, 0x0, 1, 4⟩
/-- FELL_BACK of Table 19.7. -/
def Fwu.FELL_BACK : Reg := ⟨0xF00, 2, 1, .ro, .status, 0x0, 1, 4⟩
/-- SLOT_VER of Table 19.7. -/
def Fwu.SLOT_VER : Reg := ⟨0xF04, 0, 32, .ro, .status, 0x0, 2, 4⟩
/-- SLOT_SVN of Table 19.7. -/
def Fwu.SLOT_SVN : Reg := ⟨0xF0C, 0, 16, .ro, .status, 0x0, 2, 4⟩
/-- SLOT_STATE of Table 19.7. -/
def Fwu.SLOT_STATE : Reg := ⟨0xF0C, 16, 2, .ro, .status, 0x0, 2, 4⟩
/-- UPD_ADDR_LO of Table 19.7. -/
def Fwu.UPD_ADDR_LO : Reg := ⟨0xF14, 12, 20, .rw, .setting, 0x0, 1, 4⟩
/-- UPD_ADDR_HI of Table 19.7. -/
def Fwu.UPD_ADDR_HI : Reg := ⟨0xF18, 0, 8, .rw, .setting, 0x0, 1, 4⟩
/-- UPD_LEN of Table 19.7. -/
def Fwu.UPD_LEN : Reg := ⟨0xF1C, 0, 32, .rw, .setting, 0x0, 1, 4⟩
/-- UPD_GO of Table 19.7. -/
def Fwu.UPD_GO : Reg := ⟨0xF20, 0, 1, .wo, .trigger, 0x0, 1, 4⟩
/-- FW_COMMIT of Table 19.7. -/
def Fwu.FW_COMMIT : Reg := ⟨0xF20, 1, 1, .wo, .trigger, 0x0, 1, 4⟩
/-- UPD_KEY of Table 19.7. -/
def Fwu.UPD_KEY : Reg := ⟨0xF20, 8, 8, .wo, .trigger, 0x0, 1, 4⟩
/-- UPD_STATE of Table 19.7. -/
def Fwu.UPD_STATE : Reg := ⟨0xF24, 0, 3, .ro, .status, 0x0, 1, 4⟩
/-- UPD_CODE of Table 19.7. -/
def Fwu.UPD_CODE : Reg := ⟨0xF24, 8, 8, .ro, .status, 0x0, 1, 4⟩
/-- SVN_MIN of Table 19.7. -/
def Fwu.SVN_MIN : Reg := ⟨0xF28, 0, 7, .ro, .status, 0x0, 1, 4⟩

/-- Fields of Table 19.7, part 0. -/
def Fwu.fields0 : List Reg := [Fwu.ACTIVE_SLOT, Fwu.NEXT_SLOT, Fwu.FELL_BACK, Fwu.SLOT_VER, Fwu.SLOT_SVN, Fwu.SLOT_STATE, Fwu.UPD_ADDR_LO, Fwu.UPD_ADDR_HI, Fwu.UPD_LEN, Fwu.UPD_GO, Fwu.FW_COMMIT, Fwu.UPD_KEY, Fwu.UPD_STATE, Fwu.UPD_CODE, Fwu.SVN_MIN]
/-- All fields of Table 19.7. -/
def Fwu.fields : List Reg := Fwu.fields0

/-! ## Fin: Table 19.8 (R461) -/

/-- FIN_STATE of Table 19.8. -/
def Fin.FIN_STATE : Reg := ⟨0x100, 0, 2, .ro, .status, 0x0, 1, 4⟩
/-- FKEY_REVOKED of Table 19.8. -/
def Fin.FKEY_REVOKED : Reg := ⟨0x104, 0, 4, .ro, .status, 0x0, 1, 4⟩
/-- FKEY_IDX of Table 19.8. -/
def Fin.FKEY_IDX : Reg := ⟨0x104, 8, 2, .ro, .status, 0x0, 1, 4⟩
/-- FKEY_REVOKE of Table 19.8. -/
def Fin.FKEY_REVOKE : Reg := ⟨0x108, 0, 4, .wo, .trigger, 0x0, 1, 4⟩
/-- REV_KEY of Table 19.8. -/
def Fin.REV_KEY : Reg := ⟨0x108, 8, 8, .wo, .trigger, 0x0, 1, 4⟩
/-- PK_SEL of Table 19.8. -/
def Fin.PK_SEL : Reg := ⟨0x110, 0, 4, .rw, .setting, 0x0, 1, 4⟩
/-- PK_TEST of Table 19.8. -/
def Fin.PK_TEST : Reg := ⟨0x110, 8, 1, .rw, .setting, 0x0, 1, 4⟩
/-- PK_DATA of Table 19.8. -/
def Fin.PK_DATA : Reg := ⟨0x114, 0, 32, .rw, .setting, 0x0, 12, 4⟩
/-- ENROLL of Table 19.8. -/
def Fin.ENROLL : Reg := ⟨0x144, 0, 1, .wo, .trigger, 0x0, 1, 4⟩
/-- REVOKE of Table 19.8. -/
def Fin.REVOKE : Reg := ⟨0x144, 1, 1, .wo, .trigger, 0x0, 1, 4⟩
/-- SAVE of Table 19.8. -/
def Fin.SAVE : Reg := ⟨0x144, 2, 1, .wo, .trigger, 0x0, 1, 4⟩
/-- PK_STATE of Table 19.8. -/
def Fin.PK_STATE : Reg := ⟨0x148, 0, 32, .ro, .status, 0x0, 1, 4⟩
/-- ATT_NONCE of Table 19.8. -/
def Fin.ATT_NONCE : Reg := ⟨0x150, 0, 32, .rw, .setting, 0x0, 8, 4⟩
/-- ATT_GO of Table 19.8. -/
def Fin.ATT_GO : Reg := ⟨0x170, 0, 1, .wo, .trigger, 0x0, 1, 4⟩
/-- ATT_STATE of Table 19.8. -/
def Fin.ATT_STATE : Reg := ⟨0x170, 4, 2, .ro, .status, 0x0, 1, 4⟩
/-- ATT_OFF of Table 19.8. -/
def Fin.ATT_OFF : Reg := ⟨0x174, 0, 16, .rw, .setting, 0x0, 1, 4⟩
/-- ATT_DATA of Table 19.8. -/
def Fin.ATT_DATA : Reg := ⟨0x178, 0, 32, .ro, .status, 0x0, 1, 4⟩
/-- MEAS_SEL of Table 19.8. -/
def Fin.MEAS_SEL : Reg := ⟨0x17C, 0, 3, .rw, .setting, 0x0, 1, 4⟩
/-- MEAS_DATA of Table 19.8. -/
def Fin.MEAS_DATA : Reg := ⟨0x180, 0, 32, .ro, .status, 0x0, 16, 4⟩
/-- TEST_CHAL of Table 19.8. -/
def Fin.TEST_CHAL : Reg := ⟨0x1C0, 0, 32, .ro, .status, 0x0, 8, 4⟩
/-- TEST_REQ of Table 19.8. -/
def Fin.TEST_REQ : Reg := ⟨0x1E0, 0, 1, .wo, .trigger, 0x0, 1, 4⟩
/-- DBG_REQ of Table 19.8. -/
def Fin.DBG_REQ : Reg := ⟨0x1E0, 1, 1, .wo, .trigger, 0x0, 1, 4⟩
/-- DBG_OPEN of Table 19.8. -/
def Fin.DBG_OPEN : Reg := ⟨0x1E0, 4, 1, .ro, .status, 0x0, 1, 4⟩
/-- TEST_ACTIVE of Table 19.8. -/
def Fin.TEST_ACTIVE : Reg := ⟨0x1E0, 8, 1, .ro, .status, 0x0, 1, 4⟩
/-- TOKEN_ADDR_LO of Table 19.8. -/
def Fin.TOKEN_ADDR_LO : Reg := ⟨0x1E4, 4, 28, .rw, .setting, 0x0, 1, 4⟩
/-- TOKEN_ADDR_HI of Table 19.8. -/
def Fin.TOKEN_ADDR_HI : Reg := ⟨0x1E8, 0, 8, .rw, .setting, 0x0, 1, 4⟩
/-- TOKEN_KEY of Table 19.8. -/
def Fin.TOKEN_KEY : Reg := ⟨0x1EC, 0, 4, .rw, .setting, 0x0, 1, 4⟩

/-- Fields of Table 19.8, part 0. -/
def Fin.fields0 : List Reg := [Fin.FIN_STATE, Fin.FKEY_REVOKED, Fin.FKEY_IDX, Fin.FKEY_REVOKE, Fin.REV_KEY, Fin.PK_SEL, Fin.PK_TEST, Fin.PK_DATA, Fin.ENROLL, Fin.REVOKE, Fin.SAVE, Fin.PK_STATE, Fin.ATT_NONCE, Fin.ATT_GO, Fin.ATT_STATE, Fin.ATT_OFF, Fin.ATT_DATA, Fin.MEAS_SEL, Fin.MEAS_DATA, Fin.TEST_CHAL, Fin.TEST_REQ, Fin.DBG_REQ, Fin.DBG_OPEN, Fin.TEST_ACTIVE]
/-- Fields of Table 19.8, part 1. -/
def Fin.fields1 : List Reg := [Fin.TOKEN_ADDR_LO, Fin.TOKEN_ADDR_HI, Fin.TOKEN_KEY]
/-- All fields of Table 19.8. -/
def Fin.fields : List Reg := Fin.fields0 ++ Fin.fields1

/-! ## Van: Table 19.10 (R462) -/

/-- VM_SEQ_LO of Table 19.10. -/
def Van.VM_SEQ_LO : Reg := ⟨0x100, 0, 32, .ro, .status, 0x0, 1, 4⟩
/-- VM_SEQ_HI of Table 19.10. -/
def Van.VM_SEQ_HI : Reg := ⟨0x104, 0, 32, .ro, .status, 0x0, 1, 4⟩
/-- VM_TIME of Table 19.10. -/
def Van.VM_TIME : Reg := ⟨0x108, 0, 32, .ro, .status, 0x0, 1, 4⟩
/-- E_MAIN_LO of Table 19.10. -/
def Van.E_MAIN_LO : Reg := ⟨0x10C, 0, 32, .ro, .status, 0x0, 1, 4⟩
/-- E_MAIN_HI of Table 19.10. -/
def Van.E_MAIN_HI : Reg := ⟨0x110, 0, 32, .ro, .status, 0x0, 1, 4⟩
/-- E_BACKUP_LO of Table 19.10. -/
def Van.E_BACKUP_LO : Reg := ⟨0x114, 0, 32, .ro, .status, 0x0, 1, 4⟩
/-- E_BACKUP_HI of Table 19.10. -/
def Van.E_BACKUP_HI : Reg := ⟨0x118, 0, 32, .ro, .status, 0x0, 1, 4⟩
/-- P_MAIN of Table 19.10. -/
def Van.P_MAIN : Reg := ⟨0x11C, 0, 16, .ro, .status, 0x0, 1, 4⟩
/-- P_BACKUP of Table 19.10. -/
def Van.P_BACKUP : Reg := ⟨0x11C, 16, 16, .ro, .status, 0x0, 1, 4⟩
/-- VM_FLAGS of Table 19.10. -/
def Van.VM_FLAGS : Reg := ⟨0x120, 0, 3, .ro, .status, 0x0, 1, 4⟩
/-- STALE of Table 19.10. -/
def Van.STALE : Reg := ⟨0x120, 3, 1, .ro, .status, 0x1, 1, 4⟩
/-- TAMPER_TIME of Table 19.10. -/
def Van.TAMPER_TIME : Reg := ⟨0x124, 0, 32, .ro, .status, 0x0, 1, 4⟩
/-- VANE_FW of Table 19.10. -/
def Van.VANE_FW : Reg := ⟨0x128, 0, 32, .ro, .status, 0x0, 1, 4⟩
/-- VM_SIG_OFF of Table 19.10. -/
def Van.VM_SIG_OFF : Reg := ⟨0x12C, 0, 16, .rw, .setting, 0x0, 1, 4⟩
/-- VM_SIG_DATA of Table 19.10. -/
def Van.VM_SIG_DATA : Reg := ⟨0x130, 0, 32, .ro, .status, 0x0, 1, 4⟩
/-- VANE_PUB of Table 19.10. -/
def Van.VANE_PUB : Reg := ⟨0x140, 0, 32, .ro, .status, 0x0, 12, 4⟩
/-- SIG_BAD_CNT of Table 19.10. -/
def Van.SIG_BAD_CNT : Reg := ⟨0x170, 0, 32, .ro, .counterWrap, 0x0, 1, 4⟩

/-- Fields of Table 19.10, part 0. -/
def Van.fields0 : List Reg := [Van.VM_SEQ_LO, Van.VM_SEQ_HI, Van.VM_TIME, Van.E_MAIN_LO, Van.E_MAIN_HI, Van.E_BACKUP_LO, Van.E_BACKUP_HI, Van.P_MAIN, Van.P_BACKUP, Van.VM_FLAGS, Van.STALE, Van.TAMPER_TIME, Van.VANE_FW, Van.VM_SIG_OFF, Van.VM_SIG_DATA, Van.VANE_PUB, Van.SIG_BAD_CNT]
/-- All fields of Table 19.10. -/
def Van.fields : List Reg := Van.fields0

/-! ## Pages (Table 17.4) -/

/-- Block type codes of Table 17.4. -/
def tyLantern : Nat := 0x0001
def tyBelfry : Nat := 0x0002
def tyOculus : Nat := 0x0003
def tyEndpoint : Nat := 0x0010
def tyTorus : Nat := 0x0011
def tyHost : Nat := 0x0012
def tyKeep : Nat := 0x0020
def tyCupola : Nat := 0x0030
def tyTile : Nat := 0x0031
def tyCe : Nat := 0x0032
def tyUe : Nat := 0x0033
def tyDrum : Nat := 0x0034
def tyCodec : Nat := 0x0035
def tyHbm : Nat := 0x0040
def tyWatch : Nat := 0x0050
def tyIntegrity : Nat := 0x0051
def tyButtress : Nat := 0x0052
def tyVane : Nat := 0x0053
def tyFinial : Nat := 0x0054

/-- The pages that exist once. -/
def pgLantern : PageId := ⟨0x0001, 0⟩
def pgBelfry : PageId := ⟨0x0002, 0⟩
def pgOculus : PageId := ⟨0x0003, 0⟩
def pgHost : PageId := ⟨0x0012, 0⟩
def pgWatch : PageId := ⟨0x0050, 0⟩
def pgIntegrity : PageId := ⟨0x0051, 0⟩
def pgButtress : PageId := ⟨0x0052, 0⟩
def pgVane : PageId := ⟨0x0053, 0⟩
def pgFinial : PageId := ⟨0x0054, 0⟩

/-- The pages that exist several times, by instance. -/
def pgKeep (k : Nat) : PageId := ⟨0x0020, k⟩
def pgCupola (c : Nat) : PageId := ⟨0x0030, c⟩
def pgTile (g : Nat) : PageId := ⟨0x0031, g⟩
def pgCe (i : Nat) : PageId := ⟨0x0032, i⟩
def pgUe (c : Nat) : PageId := ⟨0x0033, c⟩
def pgDrum (c : Nat) : PageId := ⟨0x0034, c⟩
def pgCodec (c : Nat) : PageId := ⟨0x0035, c⟩
def pgHbm (st : Nat) : PageId := ⟨0x0040, st⟩

/-- The page of a link: an endpoint Turret for IDs 0–15, a torus Turret for 0x10–0x15 (Table 02.4). -/
def pgLink (l : Nat) : PageId := if l < 16 then ⟨0x0010, l⟩ else ⟨0x0011, l - 16⟩

/-- How many instances each block type has (Table 17.4). -/
def pageCount (ty : Nat) : Nat :=
  match ty with
  | 0x0001 | 0x0002 | 0x0003 | 0x0012 => 1
  | 0x0010 => 16
  | 0x0011 => 6
  | 0x0020 => 4
  | 0x0030 | 0x0033 | 0x0034 | 0x0035 => 8
  | 0x0031 => 256
  | 0x0032 | 0x0040 => 16
  | 0x0050 | 0x0051 | 0x0052 | 0x0053 | 0x0054 => 1
  | _ => 0

/-- The page exists. -/
def pageValid (p : PageId) : Bool := p.inst < pageCount p.ty

/-- The base of a page (Table 17.4). -/
def pageBase (p : PageId) : Nat :=
  let cup (c : Nat) : Nat := 0x01000000 + c * 0x100000
  match p.ty with
  | 0x0001 => 0x00000000
  | 0x0002 => 0x00001000
  | 0x0003 => 0x00002000
  | 0x0010 => 0x00100000 + p.inst * 0x1000
  | 0x0011 => 0x00110000 + p.inst * 0x1000
  | 0x0012 => 0x00120000
  | 0x0020 => 0x00200000 + p.inst * 0x10000
  | 0x0030 => cup p.inst
  | 0x0031 => cup (p.inst / 32) + 0x10000 + (p.inst % 32) * 0x1000
  | 0x0032 => cup (p.inst / 2) + 0x40000 + (p.inst % 2) * 0x1000
  | 0x0033 => cup p.inst + 0x50000
  | 0x0034 => cup p.inst + 0x60000
  | 0x0035 => cup p.inst + 0x70000
  | 0x0040 => cup (p.inst / 2) + 0x80000 + (p.inst % 2) * 0x1000
  | 0x0050 => 0x03000000
  | 0x0051 => 0x03010000
  | 0x0052 => 0x03020000
  | 0x0053 => 0x03030000
  | _ => 0x03040000

/-- The page whose 4 KiB hold an offset of register space, if any (R398, R411). -/
def pageAt (off : Nat) : Option PageId :=
  let pg := off / 0x1000
  let found : Option PageId :=
    if pg = 0 then some ⟨0x0001, 0⟩
    else if pg = 1 then some ⟨0x0002, 0⟩
    else if pg = 2 then some ⟨0x0003, 0⟩
    else if 0x100 ≤ pg ∧ pg < 0x110 then some ⟨0x0010, pg - 0x100⟩
    else if 0x110 ≤ pg ∧ pg < 0x116 then some ⟨0x0011, pg - 0x110⟩
    else if pg = 0x120 then some ⟨0x0012, 0⟩
    else if 0x200 ≤ pg ∧ pg < 0x240 ∧ pg % 16 = 0 then some ⟨0x0020, (pg - 0x200) / 16⟩
    else if 0x1000 ≤ pg ∧ pg < 0x1800 then
      let c := (pg - 0x1000) / 0x100
      let q := pg % 0x100
      if q = 0 then some ⟨0x0030, c⟩
      else if 0x10 ≤ q ∧ q < 0x30 then some ⟨0x0031, 32 * c + (q - 0x10)⟩
      else if 0x40 ≤ q ∧ q < 0x42 then some ⟨0x0032, 2 * c + (q - 0x40)⟩
      else if q = 0x50 then some ⟨0x0033, c⟩
      else if q = 0x60 then some ⟨0x0034, c⟩
      else if q = 0x70 then some ⟨0x0035, c⟩
      else if 0x80 ≤ q ∧ q < 0x82 then some ⟨0x0040, 2 * c + (q - 0x80)⟩
      else none
    else if pg = 0x3000 then some ⟨0x0050, 0⟩
    else if pg = 0x3010 then some ⟨0x0051, 0⟩
    else if pg = 0x3020 then some ⟨0x0052, 0⟩
    else if pg = 0x3030 then some ⟨0x0053, 0⟩
    else if pg = 0x3040 then some ⟨0x0054, 0⟩
    else none
  found

/-- DOMAIN of a page: its first power domain, 0x1FF for none (Tables 17.2 and 17.4). -/
def pageDomain (p : PageId) : Nat :=
  match p.ty with
  | 0x0010 => 304 + p.inst
  | 0x0011 => 320 + 2 * p.inst
  | 0x0012 => 332
  | 0x0020 => 333 + 4 * p.inst
  | 0x0031 => p.inst
  | 0x0032 => 256 + p.inst
  | 0x0033 => 272 + p.inst
  | 0x0034 => 280 + p.inst
  | 0x0040 => 288 + p.inst
  | _ => 0x1FF

/-- EN of the page is RWT (Table 17.4). -/
def enWritable (ty : Nat) : Bool :=
  [0x0010, 0x0011, 0x0012, 0x0031, 0x0032, 0x0033, 0x0035].contains ty

/-- SOFT_RST of the page is WO (R404). -/
def softRstWritable (ty : Nat) : Bool :=
  [0x0003, 0x0030, 0x0031, 0x0032, 0x0033, 0x0035].contains ty

/-- The block-specific fields of a page (Table 17.5). -/
def blockFields (p : PageId) : List Reg :=
  match p.ty with
  | 0x0001 => Lan.fields ++ Boo.fields ++ Cal.fields ++ Fwu.fields
  | 0x0002 => Bel.fields
  | 0x0003 => Ocu.fields
  | 0x0010 => Lnk.fields ++ Ept.fields
  | 0x0011 => Lnk.fields ++ Tor.fields
  | 0x0012 => Mac.fields
  | 0x0020 =>
    Kr.fields ++ (if p.inst = 0 then Pln.fields ++ Fst.fields else []) ++ Slt.fields ++ Opn.fields
      ++ (if p.inst = 3 then Hst.fields else []) ++ Mov.fields ++ Kkl.fields
  | 0x0030 => Cup.fields
  | 0x0031 => Til.fields ++ Ari.fields
  | 0x0032 => Ce.fields ++ Ari.fields
  | 0x0033 => Ue.fields ++ Ari.fields
  | 0x0034 => Drm.fields
  | 0x0035 => Cdc.fields
  | 0x0040 => Hbm.fields
  | 0x0050 => Wat.fields
  | 0x0051 => Itg.fields
  | 0x0052 => But.fields
  | 0x0053 => Van.fields
  | 0x0054 => Fin.fields
  | _ => []

/-- All fields of a page: the common header (R402) and the block's own. -/
def pageFields (p : PageId) : List Reg := Hdr.fields ++ blockFields p

/-- The reset value of copy `i` of a field, where the tables give one per page or per copy. -/
def resetVal (p : PageId) (r : Reg) (i : Nat) : Nat :=
  if r = Hdr.INSTANCE then p.inst
  else if r = Hdr.TYPE then p.ty
  else if r = Hdr.DOMAIN then pageDomain p
  else if r = Opn.FWD_MODE then (if p.inst = 3 then 0x0F0000 else 0)
  else if r = Opn.OVF_BASE then 0x070 + 0x080 * p.inst
  else if r = Opn.SHARE_CAP then [0x1000, 0x1000, 0x0100, 0x4000].getD i 0
  else if r = Opn.MARK_THRESH then [0x0800, 0x0800, 0xFFFF, 0x2000].getD i 0
  else if r = Hst.SHP_RATE then [0x002710, 0x0186A0, 0x0186A0].getD i 0
  else if r = Hst.S_PCP then [7, 6, 6].getD i 0
  else if r = Ari.NAN_ACT then (if p.ty = 0x0033 then 2 else 0)
  else r.reset

end Sys2Proof.Machine
end

