-- ==== Sys2Proof/Machine/Base.lean ====
section
/-! DEFINITION. Plain helpers: association lists, bit fields, modular tick numbers, byte order, the two CRCs, and the
fields of a flit header. -/

namespace Sys2Proof.Machine

open Sys2Proof

/-! ## Association lists -/

/-- The value listed for a key. -/
def AL.get {κ ν : Type} [DecidableEq κ] : List (κ × ν) → κ → Option ν
  | [], _ => none
  | (k', v) :: m, k => if k' = k then some v else AL.get m k

/-- The list without a key. -/
def AL.del {κ ν : Type} [DecidableEq κ] : List (κ × ν) → κ → List (κ × ν)
  | [], _ => []
  | (k', v) :: m, k => if k' = k then AL.del m k else (k', v) :: AL.del m k

/-- The list with one value for a key. -/
def AL.put {κ ν : Type} [DecidableEq κ] (m : List (κ × ν)) (k : κ) (v : ν) : List (κ × ν) := (k, v) :: AL.del m k

/-- The value listed for a key, or a default. -/
def AL.getD {κ ν : Type} [DecidableEq κ] (m : List (κ × ν)) (k : κ) (d : ν) : ν := (AL.get m k).getD d

/-! ## Bits and numbers -/

/-- A truth value as a bit. -/
def b2n (b : Bool) : Nat := if b then 1 else 0

/-- Bits `[lo + w - 1 : lo]` of a number (R7). -/
def bits (v lo w : Nat) : Nat := v / 2 ^ lo % 2 ^ w

/-- Bit `i` of a number. -/
def bit (v i : Nat) : Bool := v / 2 ^ i % 2 = 1

/-- A number with bit `i` set. -/
def setBit (v i : Nat) : Nat := if bit v i then v else v + 2 ^ i

/-- A number with bit `i` clear. -/
def clrBit (v i : Nat) : Nat := if bit v i then v - 2 ^ i else v

/-- The signed reading of a `w`-bit number. -/
def toSigned (w v : Nat) : Int := if v % 2 ^ w < 2 ^ (w - 1) then (v % 2 ^ w : Nat) else (v % 2 ^ w : Nat) - (2 ^ w : Nat)

/-- A signed number in `w` bits. -/
def ofSigned (w : Nat) (i : Int) : Nat := (i % (2 ^ w : Nat)).toNat

/-- `⌈a / b⌉`, 0 for a divisor of 0. -/
def cdiv (a b : Nat) : Nat := (a + b - 1) / b

/-- The nearest integer to `a / b`, ties toward zero (R41). -/
def roundTieZero (a : Int) (b : Nat) : Int :=
  let q : Nat := (2 * a.natAbs + b - 1) / (2 * b)
  if a < 0 then -(q : Int) else q

/-- The tick counter's modulus (R33). -/
def tickMod : Nat := 2 ^ 48

/-- Tick T is later than tick U (R33). -/
def tickLater (t u : Nat) : Bool := let d := (t + tickMod - u % tickMod) % tickMod; 1 ≤ d && d ≤ 2 ^ 47 - 1

/-- Tick T is U or later. -/
def tickReached (t u : Nat) : Bool := t % tickMod = u % tickMod || tickLater t u

/-- `t + n` ticks. -/
def tickAdd (t n : Nat) : Nat := (t + n) % tickMod

/-- How far tick T lies past tick U, modulo 2^48. -/
def tickSub (t u : Nat) : Nat := (t + tickMod - u % tickMod) % tickMod

/-- The full tick of a 16-bit stamp: the value congruent to it that lies nearest to the local tick (R44). -/
def fullStamp (now f : Nat) : Nat :=
  let d := (f + 2 ^ 16 - now % 2 ^ 16) % 2 ^ 16
  if d < 2 ^ 15 then tickAdd now d else tickSub (now + d) (2 ^ 16)

/-- The stack of a local HBM offset. -/
def stackOf (loc : Nat) : Nat := loc / 2 ^ 36 % 16

/-- All `i < n` for which the test holds. -/
def filterRange (n : Nat) (p : Nat → Bool) : List Nat := (List.range n).filter p

/-- The `i`-th of a list, replaced. -/
def setAt {α : Type} : List α → Nat → α → List α
  | [], _, _ => []
  | _ :: l, 0, v => v :: l
  | x :: l, i + 1, v => x :: setAt l i v

/-- The list without its first element that meets a test. -/
def dropFirst {α : Type} (p : α → Bool) : List α → List α
  | [] => []
  | x :: l => if p x then l else x :: dropFirst p l

/-- The list with what `f` leaves of its first element that meets a test in that element's place. -/
def swapFirst {α : Type} (p : α → Bool) (f : α → Option α) : List α → List α
  | [] => []
  | x :: l => if p x then (f x).toList ++ l else x :: swapFirst p f l

/-- The sum of a list. -/
def sumL : List Nat → Nat
  | [] => 0
  | x :: l => x + sumL l

/-- The least number of a list, if any. -/
def minL : List Nat → Option Nat
  | [] => none
  | x :: l => match minL l with
    | none => some x
    | some m => some (if x ≤ m then x else m)

/-! ## Bytes (R8) -/

/-- A number as `n` bytes, least significant first. -/
def leBytes : Nat → Nat → List Byte
  | 0, _ => []
  | n + 1, v => BitVec.ofNat 8 v :: leBytes n (v / 256)

/-- Bytes as a number, least significant first. -/
def leNat : List Byte → Nat
  | [] => 0
  | b :: l => b.toNat + 256 * leNat l

/-- A number as `n` bytes, most significant first (network order). -/
def beBytes (n v : Nat) : List Byte := (leBytes n v).reverse

/-- Bytes as a number, most significant first. -/
def beNat (l : List Byte) : Nat := leNat l.reverse

/-- `n` bytes of a list from position `i`. -/
def slice (l : List Byte) (i n : Nat) : List Byte := (l.drop i).take n

/-- The little-endian number in `n` bytes of a list from position `i`. -/
def leAt (l : List Byte) (i n : Nat) : Nat := leNat (slice l i n)

/-- The network-order number in `n` bytes of a list from position `i`. -/
def beAt (l : List Byte) (i n : Nat) : Nat := beNat (slice l i n)

/-- A list of bytes brought to length `n` with zeros. -/
def padTo (n : Nat) (l : List Byte) : List Byte := (l ++ List.replicate (n - l.length) 0).take n

/-! ## Checksums -/

/-- One byte through a reflected CRC with the given reflected polynomial. -/
def crcByteR (poly : Nat) (crc : Nat) (b : Byte) : Nat :=
  let step (c : Nat) : Nat := if c % 2 = 1 then Nat.xor (c / 2) poly else c / 2
  step (step (step (step (step (step (step (step (Nat.xor crc b.toNat))))))))

/-- CRC-32C of a list of bytes (R67). -/
def crc32c (l : List Byte) : Nat := Nat.xor (l.foldl (crcByteR 0x82F63B78) 0xFFFFFFFF) 0xFFFFFFFF

/-- The Ethernet frame check sequence of a list of bytes (IEEE 802.3). -/
def crc32 (l : List Byte) : Nat := Nat.xor (l.foldl (crcByteR 0xEDB88320) 0xFFFFFFFF) 0xFFFFFFFF

/-- One byte through the CRC-16 of R61, most significant bit first. -/
def crc16Byte (crc : Nat) (b : Byte) : Nat :=
  let step (c : Nat) : Nat := if c / 2 ^ 15 % 2 = 1 then Nat.xor (c * 2 % 2 ^ 16) 0x1021 else c * 2 % 2 ^ 16
  step (step (step (step (step (step (step (step (Nat.xor crc (b.toNat * 256)))))))))

/-- CRC-16 of R61. -/
def crc16 (l : List Byte) : Nat := l.foldl crc16Byte 0xFFFF

end Sys2Proof.Machine

namespace Sys2Proof

open Sys2Proof.Machine

/-! ## The flit header (Table 03.1) -/

/-- Bits `[lo + w - 1 : lo]` of the header. -/
def Flit.field (f : Flit) (lo w : Nat) : Nat := bits f.hdr.toNat lo w

def Flit.kind (f : Flit) : Nat := f.field 0 2
def Flit.epoch (f : Flit) : Nat := f.field 2 1
def Flit.vc (f : Flit) : Nat := f.field 3 3
def Flit.cm (f : Flit) : Bool := f.field 6 1 = 1
def Flit.poison (f : Flit) : Bool := f.field 7 1 = 1
def Flit.dst (f : Flit) : Nat := f.field 8 19
def Flit.src (f : Flit) : Nat := f.field 27 19
def Flit.first (f : Flit) : Bool := f.field 46 1 = 1
def Flit.last (f : Flit) : Bool := f.field 47 1 = 1
def Flit.tick16 (f : Flit) : Nat := f.field 48 16
def Flit.tag (f : Flit) : Nat := f.field 64 16
def Flit.opcode (f : Flit) : Nat := f.field 80 8
def Flit.len (f : Flit) : Nat := f.field 88 4
def Flit.srcM (f : Flit) : Bool := f.field 92 1 = 1
def Flit.dstM (f : Flit) : Bool := f.field 93 1 = 1
def Flit.status (f : Flit) : Nat := f.field 96 8
def Flit.hcrc (f : Flit) : Nat := f.field 112 16

/-- Stream ID of a scheduled flit (R59). -/
def Flit.stream (f : Flit) : Nat := f.field 8 20

/-- Chunk index of a scheduled flit (R59). -/
def Flit.chunk (f : Flit) : Nat := f.field 28 18

/-- The header with bits `[lo + w - 1 : lo]` set to a value. -/
def Flit.setField (f : Flit) (lo w v : Nat) : Flit :=
  let h := f.hdr.toNat
  { f with hdr := BitVec.ofNat 128 (h - bits h lo w * 2 ^ lo + v % 2 ^ w * 2 ^ lo) }

/-- The HCRC a header should carry: header bytes 0–13, byte 0 masked by 0x07 (R61). -/
def Flit.hcrcOf (f : Flit) : Nat :=
  match leBytes 14 f.hdr.toNat with
  | b0 :: l => crc16 ((b0 &&& 0x07) :: l)
  | [] => crc16 []

/-- The header check passes (R61). -/
def Flit.hcrcOk (f : Flit) : Bool := f.hcrc = f.hcrcOf

/-- The flit with a correct HCRC. -/
def Flit.sealed (f : Flit) : Flit := f.setField 112 16 f.hcrcOf

/-- What ends a packet whose LAST flit is lost, made in tick `now` from a flit of the packet: an empty LAST flit of an ETH_FRAME,
the one packet of several flits, with POISON set (R125, log 186). -/
def lastInPlace (now : Nat) (f : Flit) : Flit :=
  let g := ((((f.setField 80 8 0x20).setField 88 4 0).setField 46 1 0).setField 47 1 1).setField 48 16 now
  (Flit.sealed { g with payload := [] }).setField 7 1 1

/-- The cells (credits) a flit occupies in a receive buffer (R62). -/
def Flit.cells (f : Flit) : Nat := cdiv (1 + f.len) 4

/-- A flit's 256 bytes as a number is not needed; this is its header followed by its payload. -/
def Flit.bytes (f : Flit) : List Byte := leBytes 16 f.hdr.toNat ++ padTo 240 f.payload

/-- A flit from 256 bytes; payload beyond 16·LEN is ignored (R62). -/
def Flit.ofBytes (l : List Byte) : Flit :=
  let f : Flit := { hdr := BitVec.ofNat 128 (leAt l 0 16), payload := [] }
  { f with payload := slice l 16 (16 * f.len) }

end Sys2Proof

namespace Sys2Proof.Machine

open Sys2Proof

/-- The fields a new open-plane flit is built from. -/
structure FlitSpec where
  kind : Nat
  epoch : Nat := 0
  vc : Nat
  cm : Bool := false
  poison : Bool := false
  dst : Nat
  dstM : Bool
  src : Nat
  srcM : Bool
  first : Bool := true
  last : Bool := true
  tick : Nat
  tag : Nat
  opcode : Nat
  status : Nat := 0
  payload : List Byte := []

/-- A flit from its fields, with LEN from the payload and HCRC computed (R58, R61, R62). -/
def FlitSpec.flit (x : FlitSpec) : Flit :=
  let len := cdiv x.payload.length 16
  let v := x.kind + x.epoch * 2 ^ 2 + x.vc * 2 ^ 3 + b2n x.cm * 2 ^ 6 + b2n x.poison * 2 ^ 7 + x.dst % 2 ^ 19 * 2 ^ 8
    + x.src % 2 ^ 19 * 2 ^ 27 + b2n x.first * 2 ^ 46 + b2n x.last * 2 ^ 47 + x.tick % 2 ^ 16 * 2 ^ 48
    + x.tag % 2 ^ 16 * 2 ^ 64 + x.opcode % 2 ^ 8 * 2 ^ 80 + len % 16 * 2 ^ 88 + b2n x.srcM * 2 ^ 92
    + b2n x.dstM * 2 ^ 93 + x.status % 2 ^ 8 * 2 ^ 96
  Flit.sealed { hdr := BitVec.ofNat 128 v, payload := padTo (16 * len) x.payload }

/-! ## Coordinates (R57) -/

/-- x of a 15-bit module coordinate. -/
def cX (c : Nat) : Nat := bits c 10 5
def cY (c : Nat) : Nat := bits c 5 5
def cZ (c : Nat) : Nat := bits c 0 5

/-- Coordinate of a dimension: 0 x, 1 y, 2 z. -/
def cDim (c dim : Nat) : Nat := if dim = 0 then cX c else if dim = 1 then cY c else cZ c

/-- A 15-bit module coordinate. -/
def coord3 (x y z : Nat) : Nat := x % 32 * 1024 + y % 32 * 32 + z % 32

/-- The coordinate with one dimension replaced. -/
def cSet (c dim v : Nat) : Nat :=
  if dim = 0 then coord3 v (cY c) (cZ c) else if dim = 1 then coord3 (cX c) v (cZ c) else coord3 (cX c) (cY c) v

/-- A 19-bit coordinate of a module and an e value (R57). -/
def coord19 (m e : Nat) : Nat := m % 2 ^ 15 * 16 + e % 16

/-- The neighbour of a module in torus direction `d`, modulo the extent (R72). -/
def neighbourOf (c ext d : Nat) : Nat :=
  let dim := d / 2
  let n := cDim ext dim + 1
  let v := cDim c dim
  cSet c dim (if d % 2 = 0 then (v + 1) % n else (v + n - 1) % n)

/-- The coordinate lies in the configured extent (R11, R56). -/
def inExtent (c ext : Nat) : Bool := cX c ≤ cX ext && cY c ≤ cY ext && cZ c ≤ cZ ext

end Sys2Proof.Machine
end

