-- ==== Sys2Proof/Machine/Num.lean ====
section
/-! DEFINITION. Number formats and exact arithmetic: encodings (R142–R146), SPW96 (R147–R149), conversions (R160–R165), MX
blocks (R150–R152), block trees (R154) and the stochastic-rounding generator (R161). -/

namespace Sys2Proof.Machine

open Sys2Proof

/-! ## Values -/

/-- A value of any format: NaN, an infinity, or (−1)^neg × m × 2^e. Zero is m = 0 with its sign. -/
inductive Val where
  | nan
  | inf (neg : Bool)
  | fin (neg : Bool) (m : Nat) (e : Int)
  deriving DecidableEq, Repr

/-- Plus zero. -/
def Val.zero : Val := .fin false 0 0

/-- An integer as a value; 0 is +0. -/
def Val.ofInt (i : Int) : Val := .fin (i < 0) i.natAbs 0

def Val.isNan : Val → Bool
  | .nan => true
  | .inf _ | .fin _ _ _ => false

def Val.isInf : Val → Bool
  | .inf _ => true
  | .nan | .fin _ _ _ => false

def Val.isZero : Val → Bool
  | .fin _ m _ => m = 0
  | .nan | .inf _ => false

def Val.isNeg : Val → Bool
  | .fin s _ _ => s
  | .inf s => s
  | .nan => false

def Val.neg : Val → Val
  | .nan => .nan
  | .inf s => .inf (!s)
  | .fin s m e => .fin (!s) m e

def Val.abs : Val → Val
  | .nan => .nan
  | .inf _ => .inf false
  | .fin _ m e => .fin false m e

/-! ## Formats (Table 06.1) -/

def fFP32 : Nat := 0
def fBF16 : Nat := 1
def fFP16 : Nat := 2
def fE4M3 : Nat := 3
def fE5M2 : Nat := 4
def fE3M2 : Nat := 5
def fE2M3 : Nat := 6
def fE2M1 : Nat := 7
def fE8M0 : Nat := 8
def fINT32 : Nat := 9
def fINT16 : Nat := 10
def fINT8 : Nat := 11
def fINT4 : Nat := 12
def fSPW96 : Nat := 13
def fFP64 : Nat := 14

/-- Width in bits of a format. -/
def fmtBits (f : Nat) : Nat := ([32, 16, 16, 8, 8, 6, 6, 4, 8, 32, 16, 8, 4, 96, 64] : List Nat).getD f 8

/-- Exponent bits, fraction bits and bias of a floating-point format. -/
def fmtParams (f : Nat) : Nat × Nat × Nat :=
  ([(8, 23, 127), (8, 7, 127), (5, 10, 15), (4, 3, 7), (5, 2, 15), (3, 2, 3), (2, 3, 1), (2, 1, 1), (8, 0, 127), (0, 0, 0),
    (0, 0, 0), (0, 0, 0), (0, 0, 0), (15, 80, 16383), (11, 52, 1023)] : List (Nat × Nat × Nat)).getD f (0, 0, 0)

/-- An integer format. -/
def isInt (f : Nat) : Bool := 9 ≤ f && f ≤ 12

/-- A format with infinities: FP32, BF16, FP16, E5M2, SPW96, FP64 (R143). -/
def hasInf (f : Nat) : Bool := [0, 1, 2, 4, 13, 14].contains f

/-- A format with no NaN: E3M2, E2M3, E2M1 and the integers. -/
def noNan (f : Nat) : Bool := [5, 6, 7, 9, 10, 11, 12].contains f

/-- Decoding of an encoding (R143). -/
def decodeVal (f x0 : Nat) : Val :=
  let x := x0 % 2 ^ fmtBits f
  if isInt f then Val.ofInt (toSigned (fmtBits f) x)
  else if f = fE8M0 then (if x = 255 then .nan else .fin false 1 ((x : Int) - 127))
  else
    let p := fmtParams f
    let fr := bits x 0 p.2.1
    let ex := bits x p.2.1 p.1
    let s := bit x (p.1 + p.2.1)
    let top := 2 ^ p.1 - 1
    let b : Int := p.2.2
    let m : Int := p.2.1
    if ex = 0 then .fin s fr (1 - b - m)
    else if ex = top && hasInf f then (if fr = 0 then .inf s else .nan)
    else if ex = top && f = fE4M3 && fr = 7 then .nan
    else .fin s (2 ^ p.2.1 + fr) ((ex : Int) - b - m)

/-- The canonical NaN of a format that has one (Table 06.1). -/
def canonNan (f : Nat) : Nat :=
  ([0x7FC00000, 0x7FC0, 0x7E00, 0x7F, 0x7E, 0, 0, 0, 0xFF, 0, 0, 0, 0, 0x7FFF80000000000000000000, 0x7FF8000000000000]
    : List Nat).getD f 0

/-! ## Rounding (R160–R162) -/

/-- A rounding mode; stochastic rounding carries its random word. -/
inductive Rnd where
  | rne
  | rz
  | sr (r : Nat)
  deriving DecidableEq, Repr

/-- m × 2^e rounded to a whole multiple of 2^q. -/
def roundAt (md : Rnd) (m : Nat) (e q : Int) : Nat :=
  if q ≤ e then m * 2 ^ (e - q).toNat
  else
    let d := (q - e).toNat
    let k := m / 2 ^ d
    let rest := m % 2 ^ d
    match md with
    | .rz => k
    | .rne => if 2 * rest > 2 ^ d || (2 * rest = 2 ^ d && k % 2 = 1) then k + 1 else k
    | .sr r => if rest = 0 then k else if rest * 2 ^ 32 / 2 ^ d + r ≥ 2 ^ 32 then k + 1 else k

/-- Position of the leading one. -/
def topBit (m : Nat) : Nat := Nat.log2 m

/-- Encoding with a sign of a magnitude k × 2^q, q the quantum of a binade or of the subnormals, of a format with fraction
`fb` and bias `b`. -/
def packMag (eb fb b : Nat) (neg : Bool) (k : Nat) (q : Int) : Nat :=
  let s := b2n neg * 2 ^ (eb + fb)
  let k2 := if 2 ^ (fb + 1) ≤ k then k / 2 else k
  let q2 := if 2 ^ (fb + 1) ≤ k then q + 1 else q
  if k2 < 2 ^ fb then s + k2 else s + (q2 + fb + b).toNat * 2 ^ fb + (k2 - 2 ^ fb)

/-- The quantum at which m × 2^e rounds in a format. -/
def quantum (fb b m : Nat) (e : Int) : Int := max (e + topBit m) (1 - (b : Int)) - fb

/-- Largest finite magnitude of a floating-point format, as its encoding and as m × 2^e. -/
def largestEnc (f : Nat) : Nat :=
  let p := fmtParams f
  if f = fE4M3 then 0x7E
  else if hasInf f then (2 ^ p.1 - 1) * 2 ^ p.2.1 - 1
  else 2 ^ (p.1 + p.2.1) - 1

/-- a × 2^x ≤ b × 2^y. -/
def magLe (a : Nat) (x : Int) (b : Nat) (y : Int) : Bool :=
  let z := min x y
  a * 2 ^ (x - z).toNat ≤ b * 2 ^ (y - z).toNat

/-- a × 2^x < b × 2^y. -/
def magLt (a : Nat) (x : Int) (b : Nat) (y : Int) : Bool := !magLe b y a x

/-- Result of a conversion: the encoding, whether it is a range clip, and the cause of a NaN event, 0 for none. -/
structure Conv where
  enc : Nat
  clip : Bool
  cause : Nat
  deriving DecidableEq, Repr

/-- Conversion to an integer format. -/
def convInt (f : Nat) (md : Rnd) (neg : Bool) (m : Nat) (e : Int) : Conv :=
  let w := fmtBits f
  let md' := match md with
    | .sr _ => .rne
    | x => x
  let k := roundAt md' m e 0
  let i : Int := if neg then -(k : Int) else k
  if i > 2 ^ (w - 1) - 1 then { enc := 2 ^ (w - 1) - 1, clip := true, cause := 0 }
  else if i < -(2 ^ (w - 1)) then { enc := 2 ^ (w - 1), clip := true, cause := 0 }
  else { enc := ofSigned w i, clip := false, cause := 0 }

/-- Conversion to a floating-point format: E4M3 and the formats without specials saturate; the IEEE-like ones take
infinity, or the largest finite value with SATURATE or under RZ. SPW96 rounds by RNE and takes infinity, whatever RND and
SATURATE are (R148, R165). -/
def convFloat (f : Nat) (md0 : Rnd) (sat0 neg : Bool) (m : Nat) (e : Int) : Conv :=
  let md := if f = fSPW96 then .rne else md0
  let sat := sat0 && f ≠ fSPW96
  let p := fmtParams f
  let sgn := b2n neg * 2 ^ (p.1 + p.2.1)
  if m = 0 then { enc := sgn, clip := false, cause := 0 }
  else
    let q := quantum p.2.1 p.2.2 m e
    let k := roundAt md m e q
    let big := largestEnc f
    match decodeVal f big with
    | .fin _ lm le =>
      if magLt lm le k q then
        let toInf : Bool := hasInf f && !sat && md ≠ .rz
        { enc := sgn + (if toInf then (2 ^ p.1 - 1) * 2 ^ p.2.1 else big), clip := true, cause := 0 }
      else { enc := packMag p.1 p.2.1 p.2.2 neg k q, clip := false, cause := 0 }
    | _ => { enc := 0, clip := false, cause := 0 }

/-- Conversion of a value to a format (Table 06.4). A NaN into a format without NaN is INVALID_CONV (4), else NAN_IN (3). -/
def conv (f : Nat) (md : Rnd) (sat : Bool) (v : Val) : Conv :=
  match v with
  | .nan => if noNan f then { enc := 0, clip := false, cause := 4 } else { enc := canonNan f, clip := false, cause := 3 }
  | .inf s =>
    if isInt f then
      { enc := if s then 2 ^ (fmtBits f - 1) else 2 ^ (fmtBits f - 1) - 1, clip := true, cause := 0 }
    else
      let p := fmtParams f
      let sgn := b2n s * 2 ^ (p.1 + p.2.1)
      if hasInf f then { enc := sgn + (2 ^ p.1 - 1) * 2 ^ p.2.1, clip := false, cause := 0 }
      else { enc := sgn + largestEnc f, clip := true, cause := 0 }
  | .fin s m e => if isInt f then convInt f md s m e else convFloat f md sat s m e

/-! ## Exact operations -/

/-- Exact sum of two finite values; an exact zero sum of opposite signs is +0 (R144). -/
def exactAdd (s1 : Bool) (m1 : Nat) (e1 : Int) (s2 : Bool) (m2 : Nat) (e2 : Int) : Val :=
  let e := min e1 e2
  let a : Int := (if s1 then -1 else 1) * (m1 * 2 ^ (e1 - e).toNat : Nat)
  let b : Int := (if s2 then -1 else 1) * (m2 * 2 ^ (e2 - e).toNat : Nat)
  let c := a + b
  if c = 0 then .fin (s1 && s2 && m1 = 0 && m2 = 0) 0 0 else .fin (c < 0) c.natAbs e

/-- Sum of two values, exact, with the cause of a NaN event where the addition itself makes one. -/
def addVal (a b : Val) : Val × Nat :=
  match a, b with
  | .nan, _ => (.nan, 0)
  | _, .nan => (.nan, 0)
  | .inf s, .inf t => if s = t then (.inf s, 0) else (.nan, 2)
  | .inf s, .fin _ _ _ => (.inf s, 0)
  | .fin _ _ _, .inf t => (.inf t, 0)
  | .fin s1 m1 e1, .fin s2 m2 e2 => (exactAdd s1 m1 e1 s2 m2 e2, 0)

/-- Product of two values, exact, with ZERO_INF for 0 × ∞. -/
def mulVal (a b : Val) : Val × Nat :=
  match a, b with
  | .nan, _ => (.nan, 0)
  | _, .nan => (.nan, 0)
  | .inf s, .inf t => (.inf (s != t), 0)
  | .inf s, .fin t m _ => if m = 0 then (.nan, 1) else (.inf (s != t), 0)
  | .fin t m _, .inf s => if m = 0 then (.nan, 1) else (.inf (s != t), 0)
  | .fin s m e, .fin t n f => (.fin (s != t) (m * n) (e + f), 0)

/-- Bits of a quotient or root kept before the sticky bit. -/
def wide : Nat := 256

/-- Quotient, with a sticky last bit below any rounding position; DIV_INVALID for 0 / 0 and ∞ / ∞. x / 0 is infinite. -/
def divVal (a b : Val) : Val × Nat :=
  match a, b with
  | .nan, _ => (.nan, 0)
  | _, .nan => (.nan, 0)
  | .inf _, .inf _ => (.nan, 6)
  | .inf s, .fin t _ _ => (.inf (s != t), 0)
  | .fin s _ _, .inf t => (.fin (s != t) 0 0, 0)
  | .fin s m e, .fin t n f =>
    if n = 0 then (if m = 0 then (.nan, 6) else (.inf (s != t), 0))
    else if m = 0 then (.fin (s != t) 0 0, 0)
    else
      let sh := wide + topBit n
      let x := m * 2 ^ sh
      let q := x / n
      (.fin (s != t) (2 * q + (if x % n = 0 then 0 else 1)) (e - f - sh - 1), 0)

/-- Square root, with a sticky last bit; NEG_SQRT below −0; √−0 = −0. -/
def sqrtVal (a : Val) : Val × Nat :=
  match a with
  | .nan => (.nan, 0)
  | .inf s => if s then (.nan, 5) else (.inf false, 0)
  | .fin s m e =>
    if m = 0 then (.fin s 0 0, 0)
    else if s then (.nan, 5)
    else
      let odd : Bool := e % 2 ≠ 0
      let m1 := if odd then 2 * m else m
      let e1 := if odd then e - 1 else e
      let x := m1 * 4 ^ wide
      let q := Nat.sqrt x
      (.fin false (2 * q + (if q * q = x then 0 else 1)) (e1 / 2 - wide - 1), 0)

/-- a is less than b, neither NaN; zeros are equal. -/
def ltVal (a b : Val) : Bool :=
  match a, b with
  | .nan, _ => false
  | _, .nan => false
  | .inf s, .inf t => s && !t
  | .inf s, .fin _ _ _ => s
  | .fin _ _ _, .inf t => !t
  | .fin s m e, .fin t n f =>
    if m = 0 && n = 0 then false
    else if m = 0 then !t
    else if n = 0 then s
    else if s && !t then true
    else if !s && t then false
    else if s then magLt n f m e
    else magLt m e n f

/-- a equals b as numbers. -/
def eqVal (a b : Val) : Bool := !a.isNan && !b.isNan && !ltVal a b && !ltVal b a

/-- max of R156. -/
def maxVal (a b : Val) : Val :=
  if a.isNan || b.isNan then .nan
  else if a.isZero && b.isZero then (if a.isNeg then b else a)
  else if ltVal a b then b else a

/-- min of R156. -/
def minVal (a b : Val) : Val :=
  if a.isNan || b.isNan then .nan
  else if a.isZero && b.isZero then (if a.isNeg then a else b)
  else if ltVal b a then b else a

/-- sign of R156. -/
def signVal (a : Val) : Val :=
  match a with
  | .nan => .nan
  | .inf s => .fin s 1 0
  | .fin s m e => if m = 0 then .fin s m e else .fin s 1 0

/-- 2^(k/2^i) style roots of two: the `i`-th square root of 2 as an integer over 2^p. -/
def rootTwo (p : Nat) : Nat → Nat
  | 0 => 2 * 2 ^ p
  | i + 1 => Nat.sqrt (rootTwo p i * 2 ^ p)

/-- The product of the roots of two that the bits of a fraction f/2^n name, over 2^p. -/
def exp2Frac (p n f : Nat) : Nat :=
  (List.range n).foldl (fun acc i => if bit f (n - 1 - i) then acc * rootTwo p (i + 1) / 2 ^ p else acc) (2 ^ p)

/-- 2^x to more bits than any format keeps, with a sticky last bit where x is no integer (correctly rounded on
conversion). Beyond the range of every format it is a power of two that overflows or underflows. -/
def exp2Val (a : Val) : Val :=
  match a with
  | .nan => .nan
  | .inf s => if s then .fin false 0 0 else .inf false
  | .fin s m e =>
    if m = 0 then .fin false 1 0
    else if 0 ≤ e || m % 2 ^ (-e).toNat = 0 then
      let k := if 0 ≤ e then m * 2 ^ (min e 20).toNat else m / 2 ^ (-e).toNat
      .fin false 1 (if s then -(min k 100000 : Nat) else (min k 100000 : Nat))
    else
      let n := (-e).toNat
      let k := m / 2 ^ n
      let f := m % 2 ^ n
      let p := 384
      if 100000 ≤ k then .fin false 1 (if s then -100000 else 100000)
      else if s then .fin false (2 * exp2Frac p n (2 ^ n - f) + 1) (-(k : Int) - 1 - p - 1)
      else .fin false (2 * exp2Frac p n f + 1) ((k : Int) - p - 1)

/-! ## SPW96 (R147, R148) -/

/-- An SPW96 sum: the exact result rounded once by RNE; the clip flag, and the cause of a NaN event. -/
structure Sum where
  val : Val
  clip : Bool
  cause : Nat
  deriving DecidableEq, Repr

/-- A value rounded to a format and read back, with its clip. -/
def roundTo (f : Nat) (md : Rnd) (sat : Bool) (v : Val) : Val × Bool :=
  match v with
  | .nan => (.nan, false)
  | .inf s => (.inf s, false)
  | .fin s m e => let c := conv f md sat (.fin s m e); (decodeVal f c.enc, c.clip)

/-- spw96_add (R148). -/
def spwAdd (a b : Val) : Sum :=
  let x := addVal a b
  let r := roundTo fSPW96 .rne false x.1
  { val := r.1, clip := r.2, cause := x.2 }

/-! ## Effects of arithmetic on its unit -/

/-- A NaN event (R166, Table 06.6). -/
structure NanEv where
  cause : Nat
  fmtA : Nat
  fmtB : Nat
  out : Nat
  term : Nat
  opa : Nat
  opb : Nat
  deriving DecidableEq, Repr

/-- Range clips and NaN events in order, and the operations whose residue check failed: element and term, or parameter and
operation (R335). -/
structure Fx where
  clips : Nat
  nans : List NanEv
  residue : List (Nat × Nat)
  deriving DecidableEq, Repr

/-- No effect. -/
def Fx.none : Fx := { clips := 0, nans := [], residue := [] }

/-- One effect after another. -/
def Fx.add (a b : Fx) : Fx := { clips := a.clips + b.clips, nans := a.nans ++ b.nans, residue := a.residue ++ b.residue }

/-- The term index outside a dot product or reduction. -/
def noTerm : Nat := 0xFFFFFFFF

/-- A clip, if it is one. -/
def Fx.clip (b : Bool) : Fx := { clips := b2n b, nans := [], residue := [] }

/-- A residue mismatch of an operation, if it is one (R335). -/
def Fx.mismatch (b : Bool) (out term : Nat) : Fx := { clips := 0, nans := [], residue := if b then [(out, term)] else [] }

/-- A NaN event, if there is a cause. -/
def Fx.nan (cause fa fb out term a b : Nat) : Fx :=
  { clips := 0, nans := if cause = 0 then [] else [⟨cause, fa, fb, out, term, a, b⟩], residue := [] }

/-- An encoding of a value in SPW96. -/
def spwEnc (v : Val) : Nat := (conv fSPW96 .rne false v).enc

/-- An operand of the unit's own pipeline, in SPW96. -/
def innerSrc (l : List Val) (i : Nat) : Nat × Nat := (fSPW96, spwEnc (l.getD i .nan))

/-- An element as read: its encoding, format and value. -/
structure Elem where
  enc : Nat
  fmt : Nat
  val : Val
  deriving DecidableEq, Repr

/-- An element decoded; bit 4 of the recorded format says it is MX-scaled. -/
def mkElem (f enc : Nat) : Elem := { enc := enc, fmt := f, val := decodeVal f enc }

/-- The NAN_IN event of an operand read as NaN (R166). -/
def Fx.nanIn (e : Elem) (out : Nat) : Fx :=
  Fx.nan (if e.val.isNan then 3 else 0) e.fmt 0x0F out noTerm e.enc 0

/-! ## MX (R150–R152) -/

/-- An element format of MX (R150). -/
def isMx (f : Nat) : Bool := 3 ≤ f && f ≤ 7

/-- Formats the sparse codec admits (R205): format code and MX. -/
def sparseFmt (f : Nat) (mx : Bool) : Bool := (f ≤ 7 || isInt f) && (!mx || isMx f)

/-- The value of an element of a block with scale byte `sc` (R151). -/
def mxVal (f sc x : Nat) : Val :=
  if sc = 255 then .nan
  else match decodeVal f x with
    | .nan => .nan
    | .inf s => .inf s
    | .fin s m e => .fin s m (e + ((sc : Int) - 127))

/-- emax of an MX element format (R152). -/
def mxEmax (f : Nat) : Int := if f = fE4M3 then 8 else if f = fE5M2 then 15 else if f = fE3M2 then 4 else 2

/-- ⌊log₂⌋ of the largest magnitude of a block; none when all are zero. -/
def amaxLog (l : List Val) : Option Int :=
  l.foldl (fun b v => match v with
    | .fin _ m e => if m = 0 then b else
      let x := e + topBit m
      match b with
      | none => some x
      | some y => some (max x y)
    | _ => b) none

/-- Conversion of a block to MX: scale byte, encodings, and effects; `out` gives the output index of an element and `src` its
operand's format and bits (R152). -/
def convBlock (f : Nat) (md : Nat → Rnd) (sat : Bool) (out : Nat → Nat) (src : Nat → Nat × Nat) (l : List Val) :
    Nat × List Nat × Fx :=
  match (List.range l.length).find? fun i => match l.getD i .nan with
    | .fin _ _ _ => false
    | _ => true with
  | some i => (255, l.map fun _ => 0, Fx.nan 4 (src i).1 0x0F (out i) noTerm (src i).2 0)
  | none =>
    let x0 : Int := match amaxLog l with
      | some a => a - mxEmax f
      | none => -127
    let x := max (-127) (min 127 x0)
    let cs := (List.range l.length).map fun i => match l.getD i .zero with
      | .fin s m e => conv f (md i) sat (.fin s m (e - x))
      | v => conv f (md i) sat v
    ((x + 127).toNat, cs.map Conv.enc,
      cs.foldl (fun fx c => fx.add (Fx.clip c.clip)) (Fx.clip (decide (x ≠ x0))))

/-! ## Block trees (R154) -/

/-- One level of the tree: neighbours added, an odd last one kept. `first` and `span` name the terms of a partial. -/
def treeLevel (out first span : Nat) : List Val → List Val × Fx
  | a :: b :: l =>
    let s := spwAdd a b
    let r := treeLevel out (first + 2 * span) span l
    (s.val :: r.1, ((Fx.clip s.clip).add (Fx.nan s.cause fSPW96 fSPW96 out first (spwEnc a) (spwEnc b))).add r.2)
  | l => (l, Fx.none)

/-- `n` levels of the tree. -/
def treeLevels (out first : Nat) : Nat → Nat → List Val → List Val × Fx
  | 0, _, l => (l, Fx.none)
  | n + 1, span, l =>
    let a := treeLevel out first span l
    let b := treeLevels out first n (2 * span) a.1
    (b.1, a.2.add b.2)

/-- block_sum of at most 32 terms; no terms give +0. -/
def blockSum (out first : Nat) (l : List Val) : Val × Fx :=
  let r := treeLevels out first 5 1 l
  (r.1.headD .zero, r.2)

/-- A list cut into blocks of `n`; `fuel` bounds their number. -/
def chunksOf {α : Type} (n : Nat) : Nat → List α → List (List α)
  | 0, _ => []
  | fuel + 1, l => if l.isEmpty then [] else l.take n :: chunksOf n fuel (l.drop n)

/-- A list in blocks of 32. -/
def blocks32 {α : Type} (l : List α) : List (List α) := chunksOf 32 l.length l

/-- The accumulator of a dot product takes one block sum: rounded to FP32 or SPW96; SR acts as RNE (R154). -/
def accStep (fmt : Nat) (md : Rnd) (sat : Bool) (out term : Nat) (acc b : Val) : Val × Fx :=
  let md' := match md with
    | .sr _ => .rne
    | x => x
  let x := addVal acc b
  let r := if fmt = fSPW96 then roundTo fSPW96 .rne false x.1 else roundTo fFP32 md' sat x.1
  (r.1, (Fx.clip r.2).add (Fx.nan x.2 fmt fSPW96 out term (conv fmt .rne false acc).enc (spwEnc b)))

/-! ## Packing (R146) -/

/-- Bits of an element in memory: SPW96 takes 12 bytes. -/
def packBits (f : Nat) : Nat := fmtBits f

/-- Bytes of `n` packed elements. -/
def packedLen (f n : Nat) : Nat :=
  if f = 5 || f = 6 then cdiv n 4 * 3 else cdiv (n * packBits f) 8

/-- Element `i` of packed bytes. -/
def unpackAt (f : Nat) (l : List Byte) (i : Nat) : Nat :=
  let b := fmtBits f
  if b = 4 then bits (leAt l (i / 2) 1) (4 * (i % 2)) 4
  else if b = 6 then bits (leAt l (3 * (i / 4)) 3) (6 * (i % 4)) 6
  else leAt l (i * (b / 8)) (b / 8)

/-- The little-endian number that packs elements of `b` bits. -/
def packNum (b : Nat) : List Nat → Nat
  | [] => 0
  | x :: l => x % 2 ^ b + 2 ^ b * packNum b l

/-- Elements packed into bytes, the last group filled with zeros. -/
def pack (f : Nat) (l : List Nat) : List Byte := leBytes (packedLen f l.length) (packNum (fmtBits f) l)

/-! ## Philox4x32-10 (R161) -/

/-- One round. -/
def philoxRound (c : Nat × Nat × Nat × Nat) (k : Nat × Nat) : Nat × Nat × Nat × Nat :=
  let p0 := 0xD2511F53 * c.1
  let p1 := 0xCD9E8D57 * c.2.2.1
  (Nat.xor (Nat.xor (p1 / 2 ^ 32) c.2.1) k.1, p1 % 2 ^ 32, Nat.xor (Nat.xor (p0 / 2 ^ 32) c.2.2.2) k.2, p0 % 2 ^ 32)

/-- `n` rounds with the keys bumped between them. -/
def philoxRounds : Nat → Nat × Nat × Nat × Nat → Nat × Nat → Nat × Nat × Nat × Nat
  | 0, c, _ => c
  | n + 1, c, k => philoxRounds n (philoxRound c k) ((k.1 + 0x9E3779B9) % 2 ^ 32, (k.2 + 0xBB67AE85) % 2 ^ 32)

/-- The SR word: K, UNIT, element index, operation index and seed (R161). -/
def srWord (kk unit elem op seed : Nat) : Nat :=
  (philoxRounds 10 (elem % 2 ^ 32, elem / 2 ^ 32 % 256 + op % 2 ^ 24 * 256, seed, 0)
    (kk % 2 ^ 32, kk / 2 ^ 32 % 2 ^ 16 + unit % 2 ^ 16 * 2 ^ 16)).1

end Sys2Proof.Machine
end

