-- ==== Sys2Proof/Machine/Regs.lean ====
section
/-! DEFINITION. Reading and writing register fields: the one place where access codes (R12), staging of RWT fields,
page freezes (R405) and locks (R410) are decided. -/

namespace Sys2Proof.Machine

open Sys2Proof

/-- The key of copy `i` of a field of a page. -/
def rkey (p : PageId) (r : Reg) (i : Nat) : RegKey := ⟨p.ty, p.inst, r.off + r.stride * i, r.lo⟩

/-- Copy 0 of a field. -/
def State.copy0 (s : State) (p : PageId) (r : Reg) (i : Nat := 0) : Nat := AL.getD s.regs (rkey p r i) (resetVal p r i)

/-- The vote over three copies (R328): copies 1 and 2 where they agree, else copy 0. -/
def TripCopies.vote (t : TripCopies) (c0 : Nat) : Nat := if t.c1 = t.c2 then t.c1 else c0

/-- The visible value of a field, RWT staging apart: with TRIP_EN set, what the vote gives (R328). -/
def State.raw (s : State) (p : PageId) (r : Reg) (i : Nat := 0) : Nat :=
  match AL.get s.trip (rkey p r i) with
  | some t => if s.copy0 pgIntegrity Itg.TRIP_EN = 1 then t.vote (s.copy0 p r i) else s.copy0 p r i
  | none => s.copy0 p r i

/-- The page is frozen (R405). -/
def frozen (s : State) (p : PageId) : Bool := s.raw p Hdr.FREEZE = 1

/-- A field that a freeze holds: counters, records and the error fields (R405). -/
def heldKind (r : Reg) : Bool :=
  match r.kind with
  | .counterWrap | .counterSat | .record | .errs => true
  | .setting | .status | .trigger => false

/-- The value hardware acts on: the hidden copy of a frozen page where one exists, else the field in force. -/
def State.rd (s : State) (p : PageId) (r : Reg) (i : Nat := 0) : Nat :=
  match AL.get s.hidden (rkey p r i) with
  | some v => if heldKind r && frozen s p then v else s.raw p r i
  | none => s.raw p r i

/-- A one-bit field hardware acts on. -/
def State.rdb (s : State) (p : PageId) (r : Reg) (i : Nat := 0) : Bool := s.rd p r i = 1

/-- What software reads of a stored field: the value last written to an RWT field (R12), else the visible field. -/
def State.vis (s : State) (p : PageId) (r : Reg) (i : Nat := 0) : Nat :=
  match AL.get s.staged (rkey p r i) with
  | some v => v
  | none => s.raw p r i

/-- A field put into the register file, truncated to its width; all three copies of a critical word take it (R328). -/
def State.put (s : State) (p : PageId) (r : Reg) (i v : Nat) : State :=
  { s with regs := AL.put s.regs (rkey p r i) (v % 2 ^ r.w), trip := AL.del s.trip (rkey p r i) }

/-- The bits of a field that hardware has set in the current cycle (R13). -/
def State.roseNow (s : State) (k : RegKey) : Nat :=
  match AL.get s.rose k with
  | some x => if x.1 = s.clock then x.2 else 0
  | none => 0

/-- Bits of a W1C field set by hardware in the current cycle are remembered for that cycle (R13). -/
def State.noteRise (s : State) (k : RegKey) (b : Nat) : State :=
  if b = 0 then s else { s with rose := AL.put s.rose k (s.clock, Nat.lor (s.roseNow k) b) }

/-- A one-bit W1C field that is set already is set again by hardware in this cycle (R13). -/
def State.again (s : State) (p : PageId) (r : Reg) : State := s.noteRise (rkey p r 0) 1

/-- The bits of a field that a hardware update sets: of a W1C field of one bit the bit itself, of a wider one the bits that rise. -/
def risingBits (r : Reg) (old v : Nat) : Nat :=
  match r.acc with
  | .w1c => if r.w = 1 then v % 2 else Nat.xor v (Nat.land v old)
  | _ => 0

/-- Copy `i` of a field updated: held back while the page is frozen (R405). -/
def State.updi (s : State) (p : PageId) (r : Reg) (i v : Nat) : State :=
  if heldKind r && frozen s p then
    ({ s with hidden := AL.put s.hidden (rkey p r i) (v % 2 ^ r.w) }).put p Hdr.HELD_EVT 0 1
  else s.put p r i v

/-- A hardware update of copy `i` of a field, with the bits that rise (R13). -/
def State.wri (s : State) (p : PageId) (r : Reg) (i v : Nat) : State :=
  (s.noteRise (rkey p r i) (risingBits r (s.rd p r i) v)).updi p r i v

/-- A hardware update of a field. -/
def State.wr (s : State) (p : PageId) (r : Reg) (v : Nat) : State := s.wri p r 0 v

/-- A hardware update of a one-bit field. -/
def State.wrb (s : State) (p : PageId) (r : Reg) (b : Bool) : State := s.wri p r 0 (b2n b)

/-- Adds to a counter, wrapping or saturating as its table says. -/
def State.bumpi (s : State) (p : PageId) (r : Reg) (i n : Nat) : State :=
  let v := s.rd p r i + n
  s.wri p r i (match r.kind with
    | .counterSat => min v (2 ^ r.w - 1)
    | _ => v)

/-- Adds to an unindexed counter. -/
def State.bump (s : State) (p : PageId) (r : Reg) (n : Nat := 1) : State := s.bumpi p r 0 n

/-- A 48- or 64-bit value kept in a LO and a HI field. -/
def State.rd2 (s : State) (p : PageId) (lo hi : Reg) (i : Nat := 0) : Nat := s.rd p lo i + 2 ^ 32 * s.rd p hi i

/-- A value written to a LO and a HI field. -/
def State.wr2 (s : State) (p : PageId) (lo hi : Reg) (v : Nat) (i : Nat := 0) : State :=
  (s.wri p lo i (v % 2 ^ 32)).wri p hi i (v / 2 ^ 32)

/-- The fields whose sum over a list of (field, value) pairs is written by hardware. -/
def State.wrs (s : State) (p : PageId) : List (Reg × Nat) → State
  | [] => s
  | (r, v) :: l => (s.wr p r v).wrs p l

/-- Every field of a list takes zero: a record is cleared (R13 and the record's own table). -/
def State.clearFields (s : State) (p : PageId) : List Reg → State
  | [] => s
  | r :: l => ((List.range r.count).foldl (fun t i => t.wri p r i 0) s).clearFields p l

/-- A W1C write: the ones clear the visible field and the hidden copy (R405), but not a bit that hardware sets in the same cycle
(R13). -/
def State.w1c (s : State) (p : PageId) (r : Reg) (i v : Nat) : State :=
  let keep := s.roseNow (rkey p r i)
  let clear (x : Nat) : Nat := Nat.lor (Nat.xor x (Nat.land x v)) (Nat.land x keep)
  let s1 := s.put p r i (clear (s.raw p r i))
  match AL.get s.hidden (rkey p r i) with
  | some h => { s1 with hidden := AL.put s1.hidden (rkey p r i) (clear h) }
  | none => s1

/-- The software write of one field by its access code (R12). -/
def State.swField (s : State) (p : PageId) (r : Reg) (i v : Nat) : State :=
  match r.acc with
  | .rw => s.put p r i v
  | .rwt => { s with staged := AL.put s.staged (rkey p r i) (v % 2 ^ r.w) }
  | .rwl => if s.raw p Hdr.LOCK = 1 then s else s.put p r i v
  | .w1c => s.w1c p r i v
  | .w1s => s.put p r i (Nat.lor (s.raw p r i) v)
  | .ro | .wo => s

/-- Clearing FREEZE: the visible fields of the page take the hidden values and HELD_EVT clears (R405). -/
def State.unfreeze (s : State) (p : PageId) : State :=
  let mine := s.hidden.filter (fun e => e.1.ty = p.ty && e.1.inst = p.inst)
  let s1 := { s with
    hidden := s.hidden.filter (fun e => !(e.1.ty = p.ty && e.1.inst = p.inst))
    regs := mine.foldl (fun (m : List (RegKey × Nat)) (e : RegKey × Nat) => AL.put m e.1 e.2) s.regs }
  s1.put p Hdr.HELD_EVT 0 0

/-- The number of elements of a page's field with the given number of copies, as (field, copy) pairs at a word offset. -/
def fieldsAt (p : PageId) (off : Nat) : List (Reg × Nat) :=
  (pageFields p).filterMap fun r =>
    if r.off ≤ off ∧ (off - r.off) % r.stride = 0 ∧ (off - r.off) / r.stride < r.count then
      some (r, (off - r.off) / r.stride)
    else none

/-- The word at an offset of a page, from the fields that hardware holds. -/
def State.word (s : State) (p : PageId) (off : Nat) : Nat :=
  (fieldsAt p off).foldl (fun n x => n + s.rd p x.1 x.2 * 2 ^ x.1.lo) 0

/-- The page and field of a key. -/
def fieldOfKey (k : RegKey) : Option (PageId × Reg × Nat) :=
  let p : PageId := ⟨k.ty, k.inst⟩
  (fieldsAt p k.off).find? (fun x => x.1.lo = k.lo) |>.map fun x => (p, x.1, x.2)

end Sys2Proof.Machine
end

