-- ==== Sys2Proof/Machine/Cells.lean ====
section
/-! DEFINITION. The packet buffer of a Keep counted: the links and outputs it serves, the cells its buffers, queues and replay
windows hold, what the shared pool has free, and which banks are open to new cells (R120–R122). -/

namespace Sys2Proof.Machine

open Sys2Proof

/-- LSTATE of a link (Table 03.6). -/
def State.lstate (s : State) (l : Nat) : Nat := s.rd (pgLink l) Lnk.LSTATE

/-- The link is UP (Table 03.6). -/
def State.linkUp (s : State) (l : Nat) : Bool := s.rd (pgLink l) Lnk.LSTATE = 5

/-- The link carries traffic: it is UP and not looped back (Tables 03.6, 03.8). -/
def State.carries (s : State) (l : Nat) : Bool := s.linkUp l && !s.rdb (pgLink l) Lnk.LOOPBACK

/-- The state of a link behind its page. -/
def State.link (s : State) (l : Nat) : Link := AL.getD s.links l Link.idle

/-- The power state of a domain: 0 P0, 1 P1, 2 P2, 3 waking (R424). -/
def State.domState (s : State) (d : Nat) : Nat := AL.getD s.power.doms d 0

/-- The cells of a frame of `len` bytes, stored as the flits it becomes (R132, R136). -/
def frameCells (len : Nat) : Nat :=
  let n := cdiv len 240
  4 * (n - 1) + cdiv (1 + cdiv (len - 240 * (n - 1)) 16) 4

/-- Links whose Turrets Keep `k` owns (Table 01.2). -/
def keepLinks (k : Nat) : List Nat :=
  [4 * k, 4 * k + 1, 4 * k + 2, 4 * k + 3] ++ (if k < 3 then [0x10 + 2 * k, 0x11 + 2 * k] else [])

/-- The Keep that owns a link's Turret. -/
def keepOfLink (l : Nat) : Nat := if l < 16 then l / 4 else (l - 0x10) / 2

/-- Output index of a link at its Keep (R140). -/
def outOfLink (l : Nat) : Nat := if l < 16 then l % 4 else 4 + (l - 0x10) % 2

/-- The link of an output of a Keep; none for the host MAC (R140). -/
def linkOfOut (k o : Nat) : Option Nat :=
  if o < 4 then some (4 * k + o) else if k = 3 then none else some (0x10 + 2 * k + (o - 4))

/-- Outputs of a Keep. -/
def keepOuts (k : Nat) : Nat := if k = 3 then 5 else 6

/-- Class of a VC: 0 REQ, 1 RSP, 2 MGMT, 3 BULK (Table 03.1). -/
def vcClass (vc : Nat) : Nat := vc / 2

/-- Cells of a list of flits. -/
def flitCells (l : List Flit) : Nat := sumL (l.map Flit.cells)

/-- Cells held in the input buffer of a link and VC: flits not switched, and flits switched but not admitted (R121). -/
def State.inputCells (s : State) (l vc : Nat) : Nat :=
  flitCells (AL.getD s.opn.inputs (l, vc) [])
    + flitCells ((s.opn.ready.filter fun r => r.buf = some (l, vc)).map Ready.flit)

/-- Cells of a list of queued flits. -/
def qCells (l : List QFlit) : Nat := flitCells (l.map QFlit.flit)

/-- The egress queue of an output and VC. -/
def State.queue (s : State) (k o vc : Nat) : EgressQ := AL.getD s.opn.egress (k, o, vc) EgressQ.empty

/-- SRAM cells of a queue, flits awaiting their HBM write among them (R127). -/
def EgressQ.sramCells (q : EgressQ) : Nat := qCells q.sram + qCells q.stage

/-- Depth of a queue: its SRAM cells plus its spilled flits times 4 (R130). -/
def EgressQ.depth (q : EgressQ) : Nat := q.sramCells + 4 * q.hbm.length

/-- Shared cells of a receive buffer that holds `c` cells: all beyond its own 8 (R121). -/
def sharedOf (c : Nat) : Nat := c - 8

/-- Shared cells of the input buffer of a link and VC: those taken for credits granted, and those that flits hold beyond its
own 8 (R121). -/
def State.inputShared (s : State) (l vc : Nat) : Nat :=
  max (AL.getD (s.link l).shared vc 0) (sharedOf (s.inputCells l vc))

/-- Replay window cells of a link, 4 a block: closed to new allocation once the window is known, returned on failure (R71,
R122). -/
def State.windowCells (s : State) (l : Nat) : Nat :=
  let st := s.lstate l
  if st = 4 ∨ st = 5 ∨ (st = 3 ∧ (s.link l).rtts.length = 16) then 4 * s.rd (pgLink l) Lnk.REPLAY_WIN else 0

/-- Cells of the host attachment's queues, drawn from Keep 3's pool (R120). -/
def State.hostCells (s : State) : Nat :=
  sumL ((List.range 3).map fun q => sumL ((AL.getD s.host.strict q []).map fun f => frameCells f.length))
    + sumL ((List.range 8).map fun q => sumL ((AL.getD s.host.weighted q []).map fun f => frameCells f.bytes.length))
    + sumL ((List.range 8).map fun p => sumL ((AL.getD s.host.ingress p []).map IngressFrame.cells))

/-- POOL_CELLS (R120): the buffer less replay windows, landing regions and 8 cells per VC of every receive buffer. -/
def State.poolCells (s : State) (k : Nat) : Nat :=
  1048576 - sumL ((keepLinks k).map s.windowCells)
    - (AL.getD s.opn.landing (k, 0) 0 + AL.getD s.opn.landing (k, 1) 0)
    - 64 * ((keepLinks k).length + keepOuts k)

/-- Shared cells in use in a Keep. -/
def State.poolUsed (s : State) (k : Nat) : Nat :=
  sumL ((keepLinks k).map fun l => sumL ((List.range 8).map fun v => s.inputShared l v))
    + sumL ((List.range (keepOuts k)).map fun o =>
        sumL ((List.range 8).map fun v => sharedOf (s.queue k o v).sramCells))
    + (if k = 3 then s.hostCells else 0)

/-- POOL_FREE. -/
def State.poolFree (s : State) (k : Nat) : Nat := s.poolCells k - s.poolUsed k

/-- Cells of a Keep's packet buffer that are occupied (R122). -/
def State.occupied (s : State) (k : Nat) : Nat :=
  sumL ((keepLinks k).map fun l => s.windowCells l + sumL ((List.range 8).map fun v =>
      s.inputShared l v + min 8 (s.inputCells l v)))
    + (AL.getD s.opn.landing (k, 0) 0 + AL.getD s.opn.landing (k, 1) 0)
    + sumL ((List.range (keepOuts k)).map fun o => sumL ((List.range 8).map fun v => (s.queue k o v).sramCells))
    + (if k = 3 then s.hostCells else 0)

/-- The power domain of Keep buffer bank `b` of Keep `k` (Table 17.2). -/
def bankDomain (k b : Nat) : Nat := 333 + 4 * k + b

/-- Keep buffer banks of a Keep that are powered, bank `b` apart. -/
def State.banksOn (s : State) (k b : Nat) : Nat :=
  ((List.range 4).filter fun i => i ≠ b && s.domState (bankDomain k i) < 2).length

/-- Keep buffer banks of a Keep that take new cells: powered, and no power-down of them is requested (R122). -/
def State.banksOpen (s : State) (k : Nat) : Nat :=
  ((List.range 4).filter fun i => s.domState (bankDomain k i) < 2 && !s.power.asked.contains (bankDomain k i)).length

/-- `n` more cells find room in the banks of a Keep that take new cells (R122, log 32). -/
def State.banksHold (s : State) (k n : Nat) : Bool := s.occupied k + n ≤ 262144 * s.banksOpen k

/-- The shared pool and the open banks of a Keep have `n` cells free (R121, R122). -/
def State.poolHas (s : State) (k n : Nat) : Bool := n ≤ s.poolFree k && s.banksHold k n

/-- A receive buffer holding `c` cells of a class can take `n` more (R121, R122). -/
def State.canTake (s : State) (k cls c n : Nat) : Bool :=
  s.banksHold k n &&
    (c + n ≤ 8 ||
      (sharedOf (c + n) ≤ s.rd (pgKeep k) Opn.SHARE_CAP cls && sharedOf (c + n) - sharedOf c ≤ s.poolFree k))

end Sys2Proof.Machine
end

