-- ==== Sys2Proof/Machine/Frames.lean ====
section
/-! DEFINITION. Ethernet, IP and UDP frames the module generates (Table 16.1) and the strict egress queues (R138). -/

namespace Sys2Proof.Machine

open Sys2Proof

/-- The ones-complement sum of a list of bytes taken as 16-bit network-order words. -/
def onesSum : List Byte → Nat
  | a :: b :: l => a.toNat * 256 + b.toNat + onesSum l
  | [a] => a.toNat * 256
  | [] => 0

/-- The carry of a ones-complement sum folded into 16 bits. -/
def foldCarry (n : Nat) : Nat :=
  let a := n % 65536 + n / 65536
  let b := a % 65536 + a / 65536
  b % 65536 + b / 65536

/-- The Internet checksum (RFC 791, RFC 768). -/
def inetSum (l : List Byte) : Nat := 65535 - foldCarry (onesSum l)

/-- MAC_ADDR (Table 16.7). -/
def State.macAddr (s : State) : Nat := s.rd2 pgHost Mac.MAC_LO Mac.MAC_HI

/-- IPV6_ADDR as a 128-bit number, word 0 first (Table 16.7). -/
def State.ipv6 (s : State) (r : Reg) : Nat :=
  s.rd pgHost r 0 * 2 ^ 96 + s.rd pgHost r 1 * 2 ^ 64 + s.rd pgHost r 2 * 2 ^ 32 + s.rd pgHost r 3

/-- The Ethernet part: addresses, an optional 802.1Q tag with its PCP, EtherType, payload padded, FCS. -/
def ethFrame (dst src : Nat) (vid : Option Nat) (pcp etype : Nat) (payload : List Byte) : List Byte :=
  let tag := match vid with
    | some v => beBytes 2 0x8100 ++ beBytes 2 (pcp % 8 * 8192 + v % 4096)
    | none => []
  let body := beBytes 6 dst ++ beBytes 6 src ++ tag ++ beBytes 2 etype ++ payload
  let full := body ++ List.replicate (60 - body.length) 0
  full ++ leBytes 4 (crc32 full)

/-- The frame check of a received frame (R133). -/
def fcsOk (l : List Byte) : Bool :=
  4 ≤ l.length && leNat (l.drop (l.length - 4)) = crc32 (l.take (l.length - 4))

/-- ECN bits of generated packets (R384): ECT(0) when GEN_ECT is set. -/
def State.genEcn (s : State) : Nat := if s.rdb pgHost Mac.GEN_ECT then 2 else 0

/-- A UDP datagram in IPv4 or IPv6 in an Ethernet frame, from the module (R384, R385). -/
def State.udpFrame (s : State) (dstMac : Nat) (vid : Option Nat) (pcp : Nat) (v6 : Bool) (dstIp dstPort : Nat)
    (data : List Byte) : List Byte :=
  let sport := s.rd pgHost Mac.UDP_PORT
  let ulen := 8 + data.length
  let udp0 := beBytes 2 sport ++ beBytes 2 dstPort ++ beBytes 2 ulen
  let fix (c : Nat) : Nat := if c = 0 then 0xFFFF else c
  if v6 then
    let src := s.ipv6 Mac.IPV6_ADDR
    let pseudo := beBytes 16 src ++ beBytes 16 dstIp ++ beBytes 4 ulen ++ beBytes 4 17
    let sum := fix (inetSum (pseudo ++ udp0 ++ beBytes 2 0 ++ data))
    let tc := Config.ipDscp % 64 * 4 + s.genEcn
    let ip := beBytes 4 (6 * 2 ^ 28 + tc * 2 ^ 20 + Config.ipFlow % 2 ^ 20) ++ beBytes 2 ulen ++ beBytes 1 17
      ++ beBytes 1 (Config.ipTtl % 256) ++ beBytes 16 src ++ beBytes 16 dstIp
    ethFrame dstMac s.macAddr vid pcp 0x86DD (ip ++ udp0 ++ beBytes 2 sum ++ data)
  else
    let src := s.rd pgHost Mac.IPV4_ADDR
    let pseudo := beBytes 4 src ++ beBytes 4 dstIp ++ beBytes 2 17 ++ beBytes 2 ulen
    let sum := fix (inetSum (pseudo ++ udp0 ++ beBytes 2 0 ++ data))
    let h0 := beBytes 1 0x45 ++ beBytes 1 (Config.ipDscp % 64 * 4 + s.genEcn) ++ beBytes 2 (20 + ulen)
      ++ beBytes 2 (Config.ipId s.free % 65536) ++ beBytes 2 (Config.ipFlags % 65536) ++ beBytes 1 (Config.ipTtl % 256)
      ++ beBytes 1 17
    let h1 := beBytes 4 src ++ beBytes 4 dstIp
    let hs := inetSum (h0 ++ beBytes 2 0 ++ h1)
    ethFrame dstMac s.macAddr vid pcp 0x0800 (h0 ++ beBytes 2 hs ++ h1 ++ udp0 ++ beBytes 2 sum ++ data)

/-- A frame put into strict queue `q`; at its cap, or where Keep 3's pool has no cells for it, it is dropped and counted (R120,
R122, R138; log 207). -/
def State.strictPut (s : State) (q : Nat) (bytes : List Byte) : State :=
  let now := AL.getD s.host.strict q []
  let used := sumL (now.map fun f => frameCells f.length)
  if used + frameCells bytes.length ≤ 16 * s.rd (pgKeep 3) Hst.S_QCAP q && s.poolHas 3 (frameCells bytes.length) then
    { s with host := { s.host with strict := AL.put s.host.strict q (now ++ [bytes]) } }
  else s.bump (pgKeep 3) Hst.EG_DROP

end Sys2Proof.Machine
end

