-- ==== Sys2Proof/Machine/Ops.lean ====
section
/-! DEFINITION. The named operations every command is built from: outputs, free values, ticks, error bits, events,
reports to Watch, overruns, and the addressed memories. -/

namespace Sys2Proof.Machine

open Sys2Proof

/-! ## Outputs and free values -/

/-- An output appended (log 3). -/
def State.emit (s : State) (o : Output) : State := { s with out := s.out ++ [o] }

/-- A fresh open value below `2 ^ w`, and the state with the draw counted (log 2). -/
def State.draw (s : State) (w : Nat) : Nat × State :=
  (Config.freeValue s.free % 2 ^ w, { s with free := s.free + 1 })

/-- `n` open bytes, and the state with them drawn. -/
def State.drawBytes (s : State) (n : Nat) : List Byte × State :=
  ((List.range n).map fun i => BitVec.ofNat 8 (Config.freeValue (s.free + i)), { s with free := s.free + n })

/-! ## Time -/

/-- The current tick. -/
def State.now (s : State) : Nat := s.belfry.tick

/-- cc since the current boundary (Table 02.5 OFFSET). -/
def State.offset (s : State) : Nat := s.clock - s.belfry.tickStart

/-- The period in force in cc. -/
def State.period (s : State) : Nat := 256 * s.rd pgBelfry Bel.PER_CUR

/-- The module is joined (R43). -/
def State.joined (s : State) : Bool := s.rdb pgBelfry Bel.JOINED

/-- The current tick is skipped or held (Table 02.5). -/
def State.skipped (s : State) : Bool := s.rdb pgBelfry Bel.SKIPPED

/-- COORD of Keep 0, EXTENT of Keep 0 (R56: all four Keeps agree while links run). -/
def State.coord (s : State) : Nat := s.rd (pgKeep 0) Kr.COORD
def State.extent (s : State) : Nat := s.rd (pgKeep 0) Kr.EXTENT

/-! ## Belfry fields -/

/-- An update of the Belfry's own state. -/
def State.setBelfry (s : State) (b : Belfry) : State := { s with belfry := b }

/-- An overrun reported for the boundary (R49). -/
def State.overrun (s : State) (ty inst cause detail : Nat) : State :=
  s.setBelfry { s.belfry with overruns := s.belfry.overruns ++ [⟨ty, inst, cause, detail⟩] }

/-! ## Events (R394, R395) -/

/-- PG_ID of a page. -/
def pgId (p : PageId) : Nat := p.ty * 65536 + p.inst

/-- The 48-byte body of an event. -/
def eventBody (e : Event) : List Byte :=
  leBytes 2 e.code ++ leBytes 2 0 ++ leBytes 4 e.unit ++ leBytes 6 e.tick ++ leBytes 2 0 ++ padTo 32 e.detail

/-- A Moraeca header (Table 16.2) followed by its body. -/
def moraecaMsg (type flags status session count seq tick : Nat) (body : List Byte) : List Byte :=
  leBytes 4 0x41524F4D ++ leBytes 1 1 ++ leBytes 1 type ++ leBytes 1 flags ++ leBytes 1 status ++ leBytes 2 session
    ++ leBytes 2 count ++ leBytes 4 seq ++ leBytes 4 body.length ++ leBytes 4 tick ++ body

/-- The event frame of R394. TICK is the tick in which the message is formed. -/
def eventFrame (s : State) (q : Nat) (e : Event) : List Byte :=
  let vid := if s.rdb pgHost Mac.EVT_TAGGED then some (s.rd pgHost Mac.EVT_VID) else none
  let v6 := s.rdb pgHost Mac.EVT_V6
  let ip := if v6 then s.ipv6 Mac.EVT_IP6 else s.rd pgHost Mac.EVT_IP4
  s.udpFrame (s.rd2 pgHost Mac.EVT_MAC_LO Mac.EVT_MAC_HI) vid (s.rd (pgKeep 3) Hst.S_PCP q) v6 ip
    (s.rd pgHost Mac.EVT_PORT) (moraecaMsg 0x40 0 0 0xFFFF 1 e.num s.now (eventBody e))

/-- The strict queue an event takes (R394). -/
def eventQueue (e : Event) : Nat := if 0x0010 ≤ e.code ∧ e.code ≤ 0x0013 then 0 else 2

/-- Events are sent: the host link is up and EVT_EN is set (R395). -/
def State.eventsOn (s : State) : Bool := s.rdb pgHost Mac.LINK_UP && s.rdb pgHost Mac.EVT_EN

/-- One event handed to its strict queue. -/
def State.sendEvent (s : State) (e : Event) : State :=
  let q := eventQueue e
  { (s.strictPut q (eventFrame s q e)) with free := s.free + 1 }

/-- Every event of the store sent, oldest first (R395). -/
def State.sendAllEvents (s : State) : State :=
  if s.eventsOn then
    let l := s.events.items.map fun (e : Event) => { e with sent := s.clock }
    l.foldl State.sendEvent { s with events := { s.events with items := l } }
  else s

/-- An event numbered, stored and, while sending is on, sent. -/
def State.storeEvent (s : State) (code unit : Nat) (detail : List Byte) : State :=
  let e : Event := ⟨s.events.next, code, unit, s.now, detail, s.clock⟩
  let s1 := { s with events := { s.events with
    next := (s.events.next + 1) % 2 ^ 32
    items := s.events.items ++ [e] } }
  if s1.eventsOn then s1.sendEvent e else s1

/-- EVT_LOST, counted when the store is full (R395). -/
def State.loseEvent (s : State) : State :=
  ({ s with events := { s.events with dropped := s.events.dropped + 1 } }).bump pgHost Mac.EVT_LOST

/-- An event raised by a page (R394, R395): stored, preceded by LOST after drops, or dropped when the store of 256 is
full (a LOST event and the event it precedes are stored together, log 11). -/
def State.event (s : State) (p : PageId) (code : Nat) (detail : List Byte) : State :=
  let n := s.events.items.length
  if s.events.dropped = 0 then
    if n < 256 then s.storeEvent code (pgId p) detail else s.loseEvent
  else if n + 2 ≤ 256 then
    let lost := leBytes 4 s.events.dropped
    (({ s with events := { s.events with dropped := 0 } }).storeEvent 0x00FF (pgId pgHost) lost).storeEvent
      code (pgId p) detail
  else s.loseEvent

/-! ## PG_ERR (R406) -/

/-- An error event of a page: sets PG_ERR bit `i`, counts in FIRST_COUNT, fills FIRST_CODE and PG_ERR_TICK when empty,
and raises the PG_ERR event when an enabled bit rises (Table 17.1). -/
def State.pgErr (s : State) (p : PageId) (i : Nat) : State :=
  let old := s.rd p Hdr.PG_ERR
  let fresh := s.rd p Hdr.FIRST_CODE = 0
  let s1 := (s.noteRise (rkey p Hdr.PG_ERR 0) (2 ^ i)).wr p Hdr.PG_ERR (setBit old i)
  let s2 := if fresh then (s1.wr p Hdr.FIRST_CODE (i + 1)).wr p Hdr.PG_ERR_TICK (s.now % 2 ^ 32) else s1
  let s3 := s2.wr p Hdr.FIRST_COUNT (min (s2.rd p Hdr.FIRST_COUNT + 1) 0xFFFF)
  if !bit old i && bit (s.rd p Hdr.PG_ERR_EN) i then
    s3.event p 0x0021 (leBytes 4 (pageBase p) ++ leBytes 4 (s3.rd p Hdr.PG_ERR)
      ++ leBytes 4 (s3.rd p Hdr.FIRST_CODE + 65536 * s3.rd p Hdr.FIRST_COUNT) ++ leBytes 4 (s3.rd p Hdr.PG_ERR_TICK))
  else s3

/-- EG_DROP, which counts the frames that found their strict queue full (R138). -/
def State.egDrops (s : State) : Nat := s.rd (pgKeep 3) Hst.EG_DROP

/-- What an event left behind since state `s`: EVT_LOST where the store was full (Table 16.8), EG_DROP where a strict queue was
(R138, Table 05.3). The events of these two may be dropped in their turn. -/
def State.dropErrs (s1 s : State) : State :=
  let s2 := if s1.events.dropped > s.events.dropped then s1.pgErr pgHost 4 else s1
  let s3 := if s2.egDrops = s.egDrops then s2 else s2.pgErr (pgKeep 3) 22
  if s3.egDrops = s2.egDrops then s3 else s3.pgErr (pgKeep 3) 22

/-- An event raised by a page, with the error bits of what it found full. -/
def State.eventE (s : State) (p : PageId) (code : Nat) (detail : List Byte) : State := (s.event p code detail).dropErrs s

/-- An error event of a page, with the error bits of what its own event found full. -/
def State.err (s : State) (p : PageId) (i : Nat) : State := (s.pgErr p i).dropErrs s

/-- Every event of the store sent again, with EG_DROP where a strict queue was full (R138, R395). -/
def State.resendEvents (s : State) : State := s.sendAllEvents.dropErrs s

/-- A frame put into strict queue `q`, with EG_DROP reported when it is dropped (R138). -/
def State.strictSend (s : State) (q : Nat) (bytes : List Byte) : State :=
  let s1 := s.strictPut q bytes
  if s1.rd (pgKeep 3) Hst.EG_DROP = s.rd (pgKeep 3) Hst.EG_DROP then s1 else s1.err (pgKeep 3) 22

/-! ## Faults raised to Watch (R352) -/

/-- Report classes of Table 14.1. -/
def clsLink : Nat := 1
def clsModule : Nat := 2
def clsAbort : Nat := 3
def clsTorn : Nat := 4
def clsHold : Nat := 5
def clsRestoring : Nat := 6
def clsRestored : Nat := 7

/-- An update of the Watch state. -/
def State.setWatch (s : State) (w : Watch) : State := { s with watch := w }

/-- A fault raised within the tick and reported at its ending boundary (R49, R328, R352). -/
def State.raise (s : State) (cls entry : Nat) : State :=
  s.setWatch { s.watch with raised := s.watch.raised ++ [(cls, entry)] }

/-- A tick fault of the module. -/
def State.tickFault (s : State) : State := s.raise clsAbort 0

/-- A module fault, or a configuration fault. -/
def State.moduleFault (s : State) : State := s.raise clsModule 0

/-! ## Memory -/

/-- The address spaces of the cell list: HBM, tile stores, Drums (R10), boot flash (log 5). -/
def spHbm : Nat := 0
def spTile : Nat := 1
def spDrum : Nat := 2
def spFlash : Nat := 3

/-- The cell of an offset of a space. -/
def cellAddr (space off : Nat) : Nat := space * 2 ^ 40 + off % 2 ^ 40

/-- What an unlisted address reads as (log 5). -/
def memDefault : Byte := 0

/-- The byte at a cell. -/
def memGet : List Host.Cell → Nat → Byte
  | [], _ => memDefault
  | (a', b) :: m, a => if a' = a then b else memGet m a

/-- The list with one cell written, in canonical form: addresses rising, no default value listed. -/
def memSet : List Host.Cell → Nat → Byte → List Host.Cell
  | [], a, b => if b = memDefault then [] else [(a, b)]
  | (a', b') :: m, a, b =>
    if a < a' then (if b = memDefault then (a', b') :: m else (a, b) :: (a', b') :: m)
    else if a = a' then (if b = memDefault then m else (a, b) :: m)
    else (a', b') :: memSet m a b

/-- Every address of the list is above `lo`, in rising order, and no default value is listed. -/
def memAbove : Nat → List Host.Cell → Bool
  | _, [] => true
  | lo, (a, b) :: m => lo < a + 1 && b ≠ memDefault && memAbove (a + 1) m

/-- The canonical form of the cell list. -/
def memWf (m : List Host.Cell) : Bool := memAbove 0 m

/-- `n` bytes from a cell on. -/
def memRead (m : List Host.Cell) : Nat → Nat → List Byte
  | _, 0 => []
  | a, n + 1 => memGet m a :: memRead m (a + 1) n

/-- Bytes written from a cell on. -/
def memWrite (m : List Host.Cell) : Nat → List Byte → List Host.Cell
  | _, [] => m
  | a, b :: l => memWrite (memSet m a b) (a + 1) l

/-- `n` bytes of a space. -/
def State.peek (s : State) (space off n : Nat) : List Byte := memRead s.mem (cellAddr space off) n

/-- Bytes stored in a space. -/
def State.poke (s : State) (space off : Nat) (l : List Byte) : State :=
  { s with mem := memWrite s.mem (cellAddr space off) l }

/-- `n` bytes of a space as a little-endian number. -/
def State.peekN (s : State) (space off n : Nat) : Nat := leNat (s.peek space off n)

end Sys2Proof.Machine
end

