-- ==== Sys2Proof/Machine/Arith.lean ====
section
/-! DEFINITION. The arithmetic block of a unit: clips, NaN events and their action, rounding modes and stochastic draws
(R158–R170). -/

namespace Sys2Proof.Machine

open Sys2Proof

/-- The page of a unit with an arithmetic block. -/
def auPage : AUnit → PageId
  | .tile g => pgTile g
  | .ce i => pgCe i
  | .ue c => pgUe c

/-- UNIT of R161. -/
def auUnit : AUnit → Nat
  | .tile g => g
  | .ce i => i
  | .ue c => 0x0200 + c

/-- The lane of an event: output element index mod 1,024 in a tile, mod 512 in a CE or UE (Table 06.6). `e` is the element
index within E in a CE, and the parameter index in a UE. -/
def auLane (u : AUnit) (e : Nat) : Nat :=
  match u with
  | .tile _ => e % 1024
  | .ce _ => e % 512
  | .ue _ => e % 512

/-- An event fills the NAN_FIRST record (R167, R168). -/
def State.firstNan (s : State) (u : AUnit) (insn : Nat) (e : NanEv) : State :=
  let p := auPage u
  let w (v i : Nat) : Nat := v / 2 ^ (32 * i) % 2 ^ 32
  let s1 := s.wrs p [(Ari.NAN_VALID, 1), (Ari.NAN_CAUSE, e.cause), (Ari.FMT_A, e.fmtA), (Ari.FMT_B, e.fmtB),
    (Ari.LANE, auLane u e.out), (Ari.TICK_LO, s.now % 2 ^ 32), (Ari.TICK_HI, s.now / 2 ^ 32), (Ari.INSN, insn % 2 ^ 24),
    (Ari.OUT_LO, e.out % 2 ^ 32), (Ari.OUT_HI, e.out / 2 ^ 32), (Ari.TERM, e.term), (Ari.NAN_COUNT, 1)]
  let s2 := [0, 1, 2].foldl (fun t i => (t.wri p Ari.OPA i (w e.opa i)).wri p Ari.OPB i (w e.opb i)) s1
  let s3 := s2.err p 24
  match s.rd p Ari.NAN_ACT with
  | 1 => s3.raise clsHold 0
  | 2 => s3.tickFault
  | _ => s3

/-- The event that the record takes among those of one cycle: the lowest element, then the lowest term (R167). -/
def firstEvent (e : NanEv) : List NanEv → NanEv
  | [] => e
  | x :: l => firstEvent (if x.out < e.out || (x.out = e.out && x.term < e.term) then x else e) l

/-- Events that the record does not take count (R167). -/
def State.nanCount (s : State) (u : AUnit) (n : Nat) : State :=
  if n = 0 then s else s.wr (auPage u) Ari.NAN_COUNT (min (s.rd (auPage u) Ari.NAN_COUNT + n) 0xFFFFFFFF)

/-- NaN events of one operation of a unit: those of one command are taken as one cycle's (R167, log 196). -/
def State.nanEvents (s : State) (u : AUnit) (insn : Nat) : List NanEv → State
  | [] => s
  | e :: l =>
    if s.rdb (auPage u) Ari.NAN_VALID then (s.again (auPage u) Ari.NAN_VALID).nanCount u (l.length + 1)
    else (s.firstNan u insn (firstEvent e l)).nanCount u l.length

/-- Residue mismatches of a unit's operations: counted, with PG_ERR.RESIDUE and a tick fault; the lanes err no more (R335). -/
def State.residue (s : State) (u : AUnit) (l : List (Nat × Nat)) : State :=
  if l.isEmpty then s
  else
    let s1 := ((s.bump pgIntegrity Itg.RESIDUE_ERR l.length).err pgIntegrity 3).tickFault
    { s1 with arrays := { s1.arrays with lanes := s1.arrays.lanes.filter fun x => !(x.1 = u && l.contains x.2) } }

/-- The operations of a unit on which a significand lane errs (R335). -/
def State.laneErrs (s : State) (u : AUnit) : List (Nat × Nat) := (s.arrays.lanes.filter fun x => x.1 = u).map (·.2)

/-- Range clips, NaN events and residue mismatches of an operation take effect on its unit (R164, R167, R335). -/
def State.arith (s : State) (u : AUnit) (insn : Nat) (fx : Fx) : State :=
  let s1 := if fx.clips = 0 then s else s.bump (auPage u) Ari.ARITH_CLIP_CNT fx.clips
  (s1.nanEvents u insn fx.nans).residue u fx.residue

/-- SATURATE of a unit. -/
def State.sat (s : State) (u : AUnit) : Bool := s.rdb (auPage u) Ari.SATURATE

/-- The SR word of an element (R161). -/
def State.srDraw (s : State) (u : AUnit) (op elem : Nat) : Nat :=
  let p := auPage u
  srWord (tickSub s.now (s.rd2 p Ari.SR_ORIGIN_LO Ari.SR_ORIGIN_HI)) (auUnit u) elem op (s.rd p Ari.SR_SEED)

/-- SR applies to conversions to BF16, FP16, E4M3, E5M2, E3M2, E2M3 and E2M1 only (R160). -/
def srTarget (f : Nat) : Bool := 1 ≤ f && f ≤ 7

/-- The rounding of element `elem` into a format under mode code `md`: 0 RNE, 1 RZ, 2 SR. -/
def State.rndFor (s : State) (u : AUnit) (op md f elem : Nat) : Rnd :=
  if md = 1 then .rz else if md = 2 && srTarget f then .sr (s.srDraw u op elem) else .rne

/-- ARITH_CTL.RND of a unit; a CE rounds only by RNE (R160). -/
def State.defRnd (s : State) (u : AUnit) : Nat :=
  match u with
  | .ce _ => 0
  | _ => s.rd (auPage u) Ari.RND

/-- The service mode of a unit (R158): that which Watch or the Lantern has set in it, else test mode of the module, else the
start-up self-test of boot phase SELFTEST. -/
def State.svc (s : State) (u : AUnit) : Nat :=
  let v := s.rd (auPage u) Ari.SVC
  if v ≠ 0 then v
  else if s.rdb pgFinial Fin.TEST_ACTIVE then 2
  else if s.rd pgLantern Boo.BOOT_PHASE = 5 then 1
  else 0

/-- FP64 arithmetic outside a service mode: PG_ERR.FP64_DENIED, unfinished work (R159). -/
def State.fp64Denied (s : State) (u : AUnit) : State :=
  let s1 := s.err (auPage u) 25
  match u with
  | .tile g => s1.overrun tyTile g 1 0
  | .ce i => s1.overrun tyCe i 1 0
  | .ue c => s1.overrun tyUe c 1 0

/-- Hardware of a page works on a unit: CLIP_CLR clears ARITH_CLIP_CNT (Table 06.6). -/
def State.clipClr (s : State) (u : AUnit) : State :=
  let p := auPage u
  let k := rkey p Ari.ARITH_CLIP_CNT 0
  let s1 := s.put p Ari.ARITH_CLIP_CNT 0 0
  { s1 with hidden := AL.del s1.hidden k }

/-- CLIP_CLR (R170). -/
def execClipClr (u : AUnit) (s : State) : Host.Outcome State Fault Refusal :=
  .next (if pageValid (auPage u) then s.clipClr u else s)

end Sys2Proof.Machine
end

