-- ==== Sys2Proof/Machine/GranuleCode.lean ====
section
/-! DEFINITION. The code of a granule: the shortened Reed–Solomon code over GF(2^8) with 78 symbols, its check bytes, and its
decoder (R323, R324). Symbol 0 is the coefficient of highest degree, x^77 (log 213). -/

namespace Sys2Proof.Machine

open Sys2Proof

/-! ## GF(2^8) with x^8 + x^4 + x^3 + x^2 + 1 -/

/-- An element times x. -/
def g8Double (a : Nat) : Nat := if a < 128 then 2 * a else Nat.xor (2 * a) 0x11D

/-- The product of two elements. -/
def g8Mul (a b : Nat) : Nat :=
  (List.range 8).foldl (fun acc i => let d := g8Double acc; if bit b (7 - i) then Nat.xor d a else d) 0

/-- The power of an element, for exponents below 256. -/
def g8Pow (a n : Nat) : Nat :=
  (List.range 8).foldl (fun acc i => let d := g8Mul acc acc; if bit n (7 - i) then g8Mul d a else d) 1

/-- The quotient of two elements, the second not zero. -/
def g8Div (a b : Nat) : Nat := g8Mul a (g8Pow b 254)

/-- α^n. -/
def g8Alpha (n : Nat) : Nat := g8Pow 2 (n % 255)

/-! ## The codeword -/

/-- The generator polynomial, highest degree first: the product of x − α^i for i = 0–7. -/
def granuleGen : List Nat :=
  (List.range 8).foldl (fun g i => List.zipWith Nat.xor (g ++ [0]) (0 :: g.map (g8Mul (g8Alpha i)))) [1]

/-- Symbols 0–69: data, the line index in five bytes, the marker. -/
def granuleMessage (data : List Byte) (line marker : Nat) : List Nat :=
  data.map BitVec.toNat ++ (leBytes 5 line).map BitVec.toNat ++ [marker]

/-- The eight check symbols of a message: the remainder of message(x)·x^8 by the generator. -/
def granuleCheck (m : List Nat) : List Nat :=
  m.foldl (fun reg d =>
    let fb := Nat.xor d (reg.headD 0)
    List.zipWith (fun r c => Nat.xor r (g8Mul fb c)) (reg.tail ++ [0]) granuleGen.tail) (List.replicate 8 0)

/-- The codeword of a granule. -/
def granuleWord (data : List Byte) (line marker : Nat) : List Nat :=
  granuleMessage data line marker ++ granuleCheck (granuleMessage data line marker)

/-! ## Decoding -/

/-- The locator of a symbol. -/
def symLocator (sym : Nat) : Nat := g8Alpha (77 - sym)

/-- The eight syndromes of an error pattern: symbols and error values. A codeword has none, so they are those of the word read. -/
def syndromes (e : List (Nat × Nat)) : List Nat :=
  (List.range 8).map fun j => e.foldl (fun acc x => Nat.xor acc (g8Mul x.2 (g8Pow (symLocator x.1) j))) 0

/-- The one or two symbol errors that have given syndromes, if such there are. -/
def locate (syn : List Nat) : Option (List (Nat × Nat)) :=
  let s0 := syn.getD 0 0
  let s1 := syn.getD 1 0
  let one (k : Nat) : List (Nat × Nat) := [(k, s0)]
  let two (a b : Nat) : List (Nat × Nat) :=
    let eb := g8Div (Nat.xor s1 (g8Mul (symLocator a) s0)) (Nat.xor (symLocator a) (symLocator b))
    [(a, Nat.xor s0 eb), (b, eb)]
  match (List.range 78).find? fun k => syndromes (one k) = syn with
  | some k => some (one k)
  | none =>
    (List.range 78).findSome? fun a => (((List.range 78).drop (a + 1)).find? fun b => syndromes (two a b) = syn).map (two a)

/-- Outcomes of the decoder (R324). -/
inductive Decoded where
  | clean | corrected | poisoned | address | uncorrectable
  deriving DecidableEq, Repr

/-- A data or check symbol of the codeword (R323). -/
def dataOrCheck (sym : Nat) : Bool := sym < 64 || 70 ≤ sym

/-- The outcome of errors that are located: as many as the table of R324 admits. -/
def classOf (e : List (Nat × Nat)) : Decoded :=
  let mark := e.any fun x => x.1 = 69 && x.2 = 0xA5
  let rest := e.filter fun x => !(x.1 = 69 && x.2 = 0xA5)
  if e.isEmpty then .clean
  else if mark && rest.length ≤ 1 && rest.all (fun x => dataOrCheck x.1) then .poisoned
  else if e.length ≤ 2 then (if e.all fun x => dataOrCheck x.1 then .corrected else .address)
  else .uncorrectable

/-- The outcome of a read whose symbols differ from a codeword's: up to six errors are told by their number and places; a wider
pattern by its syndromes, which may be those of no error or of one or two (R324). -/
def classify (e : List (Nat × Nat)) : Decoded :=
  if e.length ≤ 6 then classOf e
  else if (syndromes e).all (· = 0) then .clean
  else match locate (syndromes e) with
    | some l => classOf l
    | none => .uncorrectable

end Sys2Proof.Machine
end

