-- ==== Sys2Proof/Machine/Fec.lean ====
section
/-! DEFINITION. The Reed–Solomon code of a line block: RS(256,216) over GF(2^10), its parity and its decoder (R68). The
generator's first root is `Config.rsFirst`, symbol 0 is the coefficient of highest degree (log 180). -/

namespace Sys2Proof.Machine

open Sys2Proof

/-! ## GF(2^10) with x^10 + x^3 + 1 -/

/-- An element times x. -/
def gfDouble (a : Nat) : Nat := if a < 512 then 2 * a else Nat.xor (2 * a) 0x409

/-- The product of two elements. -/
def gfMul (a b : Nat) : Nat :=
  (List.range 10).foldl (fun acc i => let d := gfDouble acc; if bit b (9 - i) then Nat.xor d a else d) 0

/-- The power of an element, for exponents below 1,024. -/
def gfPow (a n : Nat) : Nat :=
  (List.range 10).foldl (fun acc i => let d := gfMul acc acc; if bit n (9 - i) then gfMul d a else d) 1

/-- The inverse of a nonzero element. -/
def gfInv (a : Nat) : Nat := gfPow a 1022

/-- The power of the element x, its exponent taken modulo 1,023. -/
def gfAlpha (n : Nat) : Nat := gfPow 2 (n % 1023)

/-- A polynomial, highest degree first, at a point. -/
def gfEval (p : List Nat) (x : Nat) : Nat := p.foldl (fun acc c => Nat.xor (gfMul acc x) c) 0

/-! ## Encoding -/

/-- The generator polynomial, highest degree first: the product of x − α^(b + i) for i = 0–39. -/
def rsGen : List Nat :=
  (List.range 40).foldl (fun g i =>
    let r := gfAlpha (Config.rsFirst + i)
    List.zipWith Nat.xor (g ++ [0]) (0 :: g.map (gfMul r))) [1]

/-- The 40 parity symbols of 216 data symbols: the remainder of data(x)·x^40 by the generator. -/
def rsParity (data : List Nat) : List Nat :=
  let g := rsGen.tail
  data.foldl (fun reg d =>
    let fb := Nat.xor d (reg.headD 0)
    List.zipWith (fun r c => Nat.xor r (gfMul fb c)) (reg.tail ++ [0]) g) (List.replicate 40 0)

/-- Symbols of 10 bits of a byte string, little-endian groups of its bit stream (R68). -/
def symbolsOf (n : Nat) (l : List Byte) : List Nat := (List.range n).map fun i => leNat l / 2 ^ (10 * i) % 1024

/-- The byte string of a list of symbols. -/
def bytesOfSymbols (n : Nat) (l : List Nat) : List Byte := leBytes n (l.foldr (fun s acc => s + 1024 * acc) 0)

/-- The 50 parity bytes of the 270 bytes before them (Table 03.4). -/
def rsParityBytes (l : List Byte) : List Byte := bytesOfSymbols 50 (rsParity (symbolsOf 216 l))

/-! ## Decoding -/

/-- The 40 syndromes of a received block of 256 symbols. -/
def rsSyndromes (r : List Nat) : List Nat := (List.range 40).map fun j => gfEval r (gfAlpha (Config.rsFirst + j))

/-- One step of Berlekamp–Massey: the locator, the last locator before a length change, its length, the steps since, and the
discrepancy then; polynomials lowest degree first. -/
def bmStep (syn : List Nat) (x : List Nat × List Nat × Nat × Nat × Nat) (n : Nat) : List Nat × List Nat × Nat × Nat × Nat :=
  let (c, b, l, m, db) := x
  let d := (List.range (l + 1)).foldl (fun acc i =>
    if i ≤ n then Nat.xor acc (gfMul (c.getD i 0) (syn.getD (n - i) 0)) else acc) 0
  if d = 0 then (c, b, l, m + 1, db)
  else
    let k := gfMul d (gfInv db)
    let t := (List.range (max c.length (b.length + m))).map fun i =>
      Nat.xor (c.getD i 0) (if m ≤ i then gfMul k (b.getD (i - m) 0) else 0)
    if 2 * l ≤ n then (t, c, n + 1 - l, 1, d) else (t, b, l, m + 1, db)

/-- The error locator of a list of syndromes, lowest degree first, and its length. -/
def rsLocator (syn : List Nat) : List Nat × Nat :=
  let x := (List.range 40).foldl (bmStep syn) ([1], [1], 0, 1, 1)
  (x.1, x.2.2.1)

/-- The error value at the symbol with locator `x`, by Forney's formula. -/
def rsValue (syn loc : List Nat) (x : Nat) : Nat :=
  let xi := gfInv x
  let om := (List.range 40).map fun i =>
    (List.range (i + 1)).foldl (fun acc j => Nat.xor acc (gfMul (loc.getD j 0) (syn.getD (i - j) 0))) 0
  let num := gfEval om.reverse xi
  let odd := (List.range loc.length).map fun i => if i % 2 = 1 then loc.getD i 0 else 0
  let den := gfEval (odd.tail).reverse xi
  gfMul (gfMul num (gfInv den)) (gfPow xi ((Config.rsFirst + 1022) % 1023))

/-- The symbols in error of a received block with their error values; none when no codeword lies within 20 symbols. -/
def rsErrors (r : List Nat) : Option (List (Nat × Nat)) :=
  let syn := rsSyndromes r
  let loc := rsLocator syn
  let at_ := (List.range 256).filter fun i => gfEval loc.1.reverse (gfAlpha (1023 - (255 - i))) = 0
  if loc.2 ≤ 20 && at_.length = loc.2 then
    let e := at_.map fun i => (i, rsValue syn loc.1 (gfAlpha (255 - i)))
    let c := e.foldl (fun l (x : Nat × Nat) => setAt l x.1 (Nat.xor (l.getD x.1 0) x.2)) r
    if rsSyndromes c = List.replicate 40 0 then some e else none
  else none

/-- The decoder on a block, its bytes 0–269 and its 50 parity bytes: the corrected symbols and bytes 0–269, or none for an
uncorrectable codeword. A block whose parity is that of its data has no symbol in error; bytes of another number are no codeword. -/
def rsDecode (data parity : List Byte) : Option (List Nat × List Byte) :=
  if data.length ≠ 270 || parity.length ≠ 50 then none
  else if parity = rsParityBytes data then some ([], data)
  else
    let r := symbolsOf 216 data ++ symbolsOf 40 parity
    match rsErrors r with
    | none => none
    | some e =>
      let c := e.foldl (fun m (x : Nat × Nat) => setAt m x.1 (Nat.xor (m.getD x.1 0) x.2)) r
      some (e.map (·.1), bytesOfSymbols 270 (c.take 216))

end Sys2Proof.Machine
end

