-- ==== Sys2Proof/Machine/Wire.lean ====
section
/-! DEFINITION. What leaves on an endpoint or torus link: line blocks, their control words and their 320 bytes, and the
sequence numbers and replay window of flit blocks (R66–R73). -/

namespace Sys2Proof.Machine

open Sys2Proof

/-! ## Links -/

/-- Link ID of torus direction `d` (Table 02.4). -/
def torusLink (d : Nat) : Nat := 0x10 + d

/-- The state with a link replaced. -/
def State.setLink (s : State) (l : Nat) (x : Link) : State := { s with links := AL.put s.links l x }

/-! ## The bytes of a block (Tables 03.4, 03.5, 03.7) -/

/-- The credits a sender holds for a VC at the far end of a link; the clock at which they fell to zero is kept (R78, R79). -/
def State.setCred (s : State) (l vc n : Nat) : State :=
  let x := s.link l
  let z := if n % 2 ^ 16 ≠ 0 then AL.del x.zeros vc
    else if (AL.get x.zeros vc).isSome then x.zeros else AL.put x.zeros vc s.clock
  (s.setLink l { x with zeros := z }).wri (pgLink l) Lnk.CRED_AVAIL vc n

/-- A register of 31 bits of the generator x^31 + x^28 + 1 of ITU-T O.150, stepped once. -/
def prbsStep (r : Nat) : Nat := r * 2 % 2 ^ 31 + (if bit r 30 = bit r 27 then 0 else 1)

/-- `n` bits of the PRBS31 of ITU-T O.150 from a register, first bit lowest: the inverted output of the generator. -/
def prbsBits : Nat → Nat → List Bool
  | 0, _ => []
  | n + 1, r => let q := prbsStep r; (!bit q 0) :: prbsBits n q

/-- Bits, first lowest, as a number. -/
def bitsNat (l : List Bool) : Nat := l.foldr (fun b n => b2n b + 2 * n) 0

/-- The training payload (Table 03.7). -/
def Training.bytes (t : Training) : List Byte :=
  leBytes 4 t.trType ++ leBytes 4 t.stamp ++ leBytes 4 t.echo ++ leBytes 4 t.hold ++ leBytes 2 t.ident ++ leBytes 1 t.dir
    ++ leBytes 13 0 ++ (List.range 8).flatMap (fun v => leBytes 2 (t.credits.getD v 0))
    ++ (if t.trType = 1 then leBytes 208 (bitsNat (prbsBits 1664 (Config.prbsSeed % (2 ^ 31 - 1) + 1))) else leBytes 208 0)

/-- Bytes 0–255 of a block. -/
def BlockBody.bytes : BlockBody → List Byte
  | .flit f => f.bytes
  | .idle => leBytes 256 0
  | .training t => t.bytes

/-- BT of a block. -/
def BlockBody.bt : BlockBody → Nat
  | .flit _ => 0
  | .idle => 1
  | .training _ => 2

/-- The link control word (Table 03.5). -/
def Block.lcw (b : Block) : Nat :=
  let c (i : Nat) : Nat × Nat := b.cr.getD i (0, 0)
  b.body.bt + b.seq % 2 ^ 16 * 2 ^ 2 + b.ack % 2 ^ 16 * 2 ^ 18 + b2n b.nak.isSome * 2 ^ 34
    + b.nak.getD 0 % 2 ^ 16 * 2 ^ 35 + (c 0).1 % 8 * 2 ^ 51 + (c 0).2 % 64 * 2 ^ 54 + (c 1).1 % 8 * 2 ^ 60
    + (c 1).2 % 64 * 2 ^ 63

/-- Bytes 0–269 of a block from its body and control word: the CRC-32C closes them (R66, R67). -/
def blockData (body : List Byte) (lcw : Nat) : List Byte :=
  let d := body ++ leBytes 10 lcw
  d ++ leBytes 4 (crc32c d)

/-- The 320 bytes of a line block (Table 03.4). -/
def Block.bytes (b : Block) : List Byte :=
  let d := blockData b.body.bytes b.lcw
  d ++ rsParityBytes d

/-! ## Sending (R69, R73) -/

/-- ACK: the last sequence number before the first that has not been received good (R69). -/
def Link.ack (x : Link) : Nat := (x.missing.headD x.rxNext + 2 ^ 16 - 1) % 2 ^ 16

/-- A flit block put on a link: it takes the next sequence number and enters the replay window (R69, R73), however many blocks stand
there unacknowledged (log 208). -/
def State.sendFlit (s : State) (l : Nat) (f : Flit) : State :=
  let x := s.link l
  (s.setLink l { x with
    txSeq := (x.txSeq + 1) % 2 ^ 16
    window := x.window ++ [{ flit := f, seq := x.txSeq, replays := 0, sentAt := s.clock }] }).emit
    (.block l { body := .flit f, seq := x.txSeq, ack := x.ack })

/-- A flit block of the window sent again under its sequence number (R73). -/
def State.resendFlit (s : State) (l : Nat) (b : ReplayBlock) : State :=
  s.emit (.block l { body := .flit b.flit, seq := b.seq, ack := (s.link l).ack })

/-- An idle block with a NAK or a credit return (R69, R73, R78): each leaves in a block of its own (log 182). -/
def State.sendIdle (s : State) (l : Nat) (nak : Option Nat) (cr : List (Nat × Nat)) : State :=
  let x := s.link l
  s.emit (.block l { body := .idle, seq := x.txSeq, ack := x.ack, nak := nak, cr := cr })

/-- A training block, stamped with the cc counter (R71). -/
def State.sendTraining (s : State) (l : Nat) (t : Training) : State :=
  s.emit (.block l { body := .training { t with stamp := s.clock % 2 ^ 32 } })

end Sys2Proof.Machine
end

