-- ==== Sys2Proof/Machine/Report.lean ====
section
/-! DEFINITION. Neighbour messages and the reports of Watch (R65, R353, R354). -/

namespace Sys2Proof.Machine

open Sys2Proof

/-- The outgoing torus link is a dateline link (R82). -/
def State.isDateline (s : State) (d : Nat) : Bool :=
  let n := cDim s.extent (d / 2)
  let v := cDim s.coord (d / 2)
  1 ≤ n && (if d % 2 = 0 then v = n else v = 0)

/-- The flit of a neighbour message in direction `d` (R65): an open request on MGMT from unit 3 of this module to unit 3 of the
neighbour, under the route bank in force; on VC b over a dateline link (R82, log 183). -/
def State.messageFlit (s : State) (d opcode : Nat) (payload : List Byte) : Flit :=
  FlitSpec.flit {
    kind := 1, vc := 4 + b2n (s.isDateline d), epoch := s.rd (pgKeep (d / 2)) Kr.CUR
    dst := coord19 (neighbourOf s.coord s.extent d) 3, dstM := true, src := coord19 s.coord 3, srcM := true
    tick := s.now, tag := 0, opcode := opcode, payload := payload }

/-- A neighbour message joins the queue of a torus link. -/
def State.queueMessage (s : State) (d opcode : Nat) (payload : List Byte) : State :=
  let x := s.link (torusLink d)
  s.setLink (torusLink d) { x with msgs := x.msgs ++ [s.messageFlit d opcode payload] }

/-- A neighbour message for every torus direction whose link is UP, the sender's apart (R53, R353). -/
def State.flood (s : State) (except : Option Nat) (opcode : Nat) (payload : List Byte) : State :=
  (filterRange 6 fun d => s.linkUp (torusLink d) && some d ≠ except).foldl
    (fun t d => t.queueMessage d opcode payload) s

/-- The next flit that a Turret sends of its own may leave: the link carries traffic and is not stopped, the sender holds the flit's
credits, and 16 cc have passed since the last neighbour message of a torus link (R65, R66, R74, R78). -/
def State.messageReady (s : State) (l : Nat) : Bool :=
  let x := s.link l
  match x.msgs with
  | [] => false
  | f :: _ => s.carries l && x.stopUntil ≤ s.clock && f.cells ≤ s.rd (pgLink l) Lnk.CRED_AVAIL f.vc
      && (l < 16 || match x.lastMsg with
        | some t => t + 16 ≤ s.clock
        | none => true)

/-- The next flit of a Turret's own leaves: a neighbour message, or a reply to its endpoint. -/
def State.sendMessage (s : State) (l : Nat) : State :=
  let x := s.link l
  match x.msgs with
  | [] => s
  | f :: rest =>
    let s1 := s.setLink l { x with msgs := rest, lastMsg := some s.clock }
    (s1.setCred l f.vc (s1.rd (pgLink l) Lnk.CRED_AVAIL f.vc - f.cells)).sendFlit l f

/-- The payload of a WATCH message (Table 14.2). -/
def watchPayload (m : WatchMsg) : List Byte :=
  leBytes 1 m.type ++ leBytes 1 m.cls ++ leBytes 6 m.c ++ leBytes 4 m.key ++ leBytes 6 m.td ++ leBytes 2 m.entry
    ++ leBytes 4 m.digest ++ leBytes 2 m.origin

/-- A WATCH message from its payload (Table 14.2). -/
def watchOfBytes (l : List Byte) : WatchMsg :=
  { type := leAt l 0 1, cls := leAt l 1 1, c := leAt l 2 6, key := leAt l 8 4, td := leAt l 12 6, entry := leAt l 18 2,
    digest := leAt l 20 4, origin := leAt l 24 2 % 2 ^ 15 }

/-- A module key (R108). -/
def moduleKey (c : Nat) : Nat := c % 2 ^ 15

/-- A link key: module coordinate and direction (R108). -/
def linkKey (c d : Nat) : Nat := c % 2 ^ 15 + 2 ^ 15 + d % 8 * 2 ^ 16

/-- The module coordinate of a key. -/
def keyCoord (k : Nat) : Nat := k % 2 ^ 15

/-- The key names a link. -/
def keyIsLink (k : Nat) : Bool := bit k 15

/-- Direction of a link key. -/
def keyDir (k : Nat) : Nat := bits k 16 3

/-- The key of the same link reported from its other end. -/
def otherEnd (ext k : Nat) : Nat := linkKey (neighbourOf (keyCoord k) ext (keyDir k)) (Nat.xor (keyDir k) 1)

/-- The torus links that fail a module when all of them have failed (R357): for this module those that were UP at its join, for
another, of which that is not known here, those that the extent gives it (log 144). -/
def State.torusDirs (s : State) (c : Nat) : List Nat :=
  if s.joined && c = s.coord then s.watch.joinUp else filterRange 6 fun d => cDim s.extent (d / 2) ≠ 0

/-- A module counts as failed in a failed set: its own key, or every one of the torus links `dirs` (R357). -/
def moduleGone (ext : Nat) (dirs failed : List Nat) (c : Nat) : Bool :=
  failed.contains (moduleKey c)
    || (!dirs.isEmpty && dirs.all fun d => failed.contains (linkKey c d) || failed.contains (otherEnd ext (linkKey c d)))

/-- The failed modules known. -/
def State.failedMods (s : State) : List Nat :=
  let f := s.watch.failed
  ((f.flatMap fun k => if keyIsLink k then [keyCoord k, keyCoord (otherEnd s.extent k)] else [keyCoord k]).eraseDups).filter
    fun c => moduleGone s.extent (s.torusDirs c) f c

/-- The module of a key is in the failed set (R353). -/
def State.keyFailed (s : State) (key : Nat) : Bool :=
  moduleGone s.extent (s.torusDirs (keyCoord key)) s.watch.failed (keyCoord key)

/-- W_CUT. -/
def State.wCut (s : State) : Nat := s.rd pgWatch Wat.W_CUT

/-- The round after a report is held (R354): opened with C = t_d + W_CUT, or brought forward to an earlier C. -/
def State.openRound (s : State) (td : Nat) (other : Option Nat) : State :=
  let c0 := match s.watch.cut with
    | none => tickAdd td s.wCut
    | some c => c
  let c1 := match other with
    | some c => if tickLater c0 c then c else c0
    | none => c0
  s.setWatch { s.watch with cut := some c1 }

/-- A report is held for its round and forwarded, unless it is a duplicate or about a failed module (R353, R354).
`src` is the torus direction it came from and `cut` the sender's C. Every report of Table 14.1 names its originator in its key. -/
def State.holdReport (s : State) (r : Report) (src cut : Option Nat) : State :=
  if s.watch.seen.contains r || s.keyFailed r.key then s
  else
    let s1 := (s.setWatch { s.watch with held := s.watch.held ++ [r], seen := r :: s.watch.seen }).openRound r.td cut
    s1.flood src 0x30 (watchPayload
      { type := 1, cls := r.cls, c := s1.watch.cut.getD 0, key := r.key, td := r.td, entry := r.entry, digest := 0,
        origin := keyCoord r.key })

/-- A failed torus link reported by this module with a given detection tick (Table 14.1). -/
def State.reportLinkAt (s : State) (d td : Nat) : State :=
  s.holdReport { cls := clsLink, key := linkKey s.coord d, td := td, entry := 0 } none none

/-- A failed torus link reported by this module. -/
def State.reportLink (s : State) (d : Nat) : State := s.reportLinkAt d s.now

/-- A report about this module with a given detection tick. -/
def State.reportSelf (s : State) (cls entry td : Nat) : State :=
  s.holdReport { cls := cls, key := moduleKey s.coord, td := td, entry := entry } none none

end Sys2Proof.Machine
end

