-- ==== Sys2Proof/Machine/Arrays.lean ====
section
/-! DEFINITION. The protected arrays: decoding of stored lines, poison, the merge buffers of HBM, and reads and writes of
ranges (R323–R331). The bytes of a held merge entry are kept in the cell list, which thus is what reads return. -/

namespace Sys2Proof.Machine

open Sys2Proof

/-- An update of the arrays. -/
def State.setArrays (s : State) (a : Arrays) : State := { s with arrays := a }

/-- A granule of HBM is held in a merge entry. -/
def State.mergeHeld (s : State) (line : Nat) : Bool := s.arrays.merge.any fun m => m.line = line

/-- Bytes of an array as a planned unit reads them: an open-plane write of this tick is not visible yet (R312, R380), and a line of
HBM that the atomic window holds reads as an unspecified value (R196, R381). -/
def State.planPeek (s : State) (sp off n : Nat) : List Byte :=
  (s.peek sp off n).mapIdx fun i b =>
    if sp = spHbm && s.atoms.any (fun a => a.line = (off + i) / 64) then BitVec.ofNat 8 (Config.openValue [381, s.now, off + i])
    else AL.getD s.arrays.unseen (cellAddr sp (off + i)) b

/-- The same as a little-endian number. -/
def State.planPeekN (s : State) (sp off n : Nat) : Nat := leNat (s.planPeek sp off n)

/-- A planned unit writes bytes: what they replace is gone for every reader. -/
def State.unhide (s : State) (sp off n : Nat) : State :=
  if s.arrays.unseen.isEmpty then s
  else s.setArrays { s.arrays with
    unseen := s.arrays.unseen.filter fun x => !(cellAddr sp off ≤ x.1 && x.1 < cellAddr sp off + n) }

/-- How a line decodes: a held granule of HBM is read from its entry (R329). -/
def State.decoded (s : State) (sp line : Nat) : Decoded :=
  if sp = spHbm && s.mergeHeld line then .clean else classify (AL.getD s.arrays.symErr (sp, line) [])

/-- The line reads as poisoned. -/
def State.linePoisoned (s : State) (sp line : Nat) : Bool := s.decoded sp line = .poisoned

/-- A line written as poisoned: 64 zero bytes with the marker 0xA5 (R325). -/
def State.poisonLine (s : State) (sp line : Nat) : State :=
  let s1 := s.poke sp (64 * line) (List.replicate 64 0)
  s1.setArrays { s1.arrays with
    symErr := AL.put s1.arrays.symErr (sp, line) [(69, 0xA5)]
    corrected := s1.arrays.corrected.filter (· ≠ (sp, line))
    merge := s1.arrays.merge.filter fun m => !(sp = spHbm && m.line = line) }

/-- A line's check bytes made good: its errors are gone (a whole-line write or a write-back). -/
def State.cleanLine (s : State) (sp line : Nat) : State :=
  s.setArrays { s.arrays with
    symErr := AL.del s.arrays.symErr (sp, line)
    corrected := s.arrays.corrected.filter (· ≠ (sp, line)) }

/-- The array code of a line for the UE record (Table 13.4) and its array-local offset. -/
def ueArray (sp line : Nat) : Nat × Nat :=
  if sp = spHbm then (line / 2 ^ 30, 64 * line)
  else if sp = spTile then (0x100 + 64 * line / 2 ^ 21, 64 * line % 2 ^ 21)
  else (0x300 + 64 * line / 2 ^ 25, 64 * line % 2 ^ 25)

/-- The first UE event fills the UE record (R327). -/
def State.ueRecord (s : State) (kind arr addr : Nat) : State :=
  if s.rdb pgIntegrity Itg.UE_VALID then s.again pgIntegrity Itg.UE_VALID
  else s.wrs pgIntegrity [(Itg.UE_VALID, 1), (Itg.UE_KIND, kind), (Itg.UE_ARRAY, arr),
    (Itg.UE_ADDR_LO, bits addr 6 26), (Itg.UE_ADDR_HI, addr / 2 ^ 32), (Itg.UE_TICK_LO, s.now % 2 ^ 32),
    (Itg.UE_TICK_HI, s.now / 2 ^ 32)]

/-- An ADDRESS or UNCORRECTABLE read counted and recorded, and the line rewritten poisoned (R327). -/
def State.ueLine (s : State) (sp line : Nat) (d : Decoded) : State :=
  let a := ueArray sp line
  let isAddr : Bool := d = .address
  let s1 := ((s.poisonLine sp line).bump pgIntegrity Itg.UE_TOTAL).ueRecord (if isAddr then 2 else 1) a.1 a.2
  s1.err pgIntegrity (if isAddr then 1 else 0)

/-- A corrected read counted, and its line kept to be written back (R326). -/
def State.noteCorrected (s : State) (sp line : Nat) : State :=
  let s1 := s.bump pgIntegrity Itg.CORR_TOTAL
  s1.setArrays { s1.arrays with corrected := (sp, line) :: s1.arrays.corrected.filter (· ≠ (sp, line)) }

/-- A read of one line with its effects (R325–R327); `plan`: by a plan unit, whose UE raises a tick fault. -/
def State.touchLine (s : State) (plan : Bool) (sp line : Nat) : State :=
  match s.decoded sp line with
  | .clean | .poisoned => s
  | .corrected => s.noteCorrected sp line
  | .address =>
    let s1 := s.ueLine sp line .address
    if plan then s1.tickFault else s1
  | .uncorrectable =>
    let s1 := s.ueLine sp line .uncorrectable
    if plan then s1.tickFault else s1

/-- The lines a range touches. -/
def linesOf (off n : Nat) : List Nat :=
  if n = 0 then [] else (List.range ((off + n - 1) / 64 - off / 64 + 1)).map fun i => off / 64 + i

/-- Every line of a range read with its effects. -/
def State.touch (s : State) (plan : Bool) (sp off n : Nat) : State :=
  (linesOf off n).foldl (fun t l => t.touchLine plan sp l) s

/-- A line of the range decodes as ADDRESS or UNCORRECTABLE. -/
def State.rangeUe (s : State) (sp off n : Nat) : Bool :=
  (linesOf off n).any fun l => s.decoded sp l = .address || s.decoded sp l = .uncorrectable

/-- A line of the range is poisoned. -/
def State.rangePoisoned (s : State) (sp off n : Nat) : Bool := (linesOf off n).any fun l => s.linePoisoned sp l

/-- Every line of a range written as poisoned (R325). -/
def State.poisonRange (s : State) (sp off n : Nat) : State :=
  (linesOf off n).foldl (fun t l => t.poisonLine sp l) s

/-! ## Merge buffers (R329–R331) -/

/-- The stack of an HBM line (R299). -/
def stackOfLine (line : Nat) : Nat := line / 2 ^ 30 % 16

/-- An entry written back and freed: the granule's code is good again (R330). -/
def State.mergeFree (s : State) (line : Nat) : State :=
  let s1 := s.setArrays { s.arrays with merge := s.arrays.merge.filter fun m => m.line ≠ line }
  s1.cleanLine spHbm line

/-- The least recently written entry of a stack. -/
def oldestEntry (l : List MergeEntry) : Option MergeEntry :=
  l.foldl (fun b m => match b with
    | none => some m
    | some x => if m.last < x.last then some m else some x) none

/-- Entries of a stack that a request of this kind may fill: 64, of which 16 are reserved for plan units (R329). -/
def State.mergeFull (s : State) (plan : Bool) (st : Nat) : Bool :=
  let mine := s.arrays.merge.filter fun m => m.st = st
  64 ≤ mine.length || (!plan && 48 ≤ (mine.filter fun m => !m.plan).length)

/-- An entry is needed and none is free: the least recently written one is written back (R330). Where the entries open to this kind
of request are all taken while others are free, that is the least recent of its own. -/
def State.mergeRoom (s : State) (plan : Bool) (st : Nat) : State :=
  if s.mergeFull plan st then
    let mine := s.arrays.merge.filter fun m => m.st = st
    match oldestEntry (if 64 ≤ mine.length then mine else mine.filter fun m => !m.plan) with
    | some m => s.mergeFree m.line
    | none => s
  else s

/-- The same of a write; an open request's wait is counted (R330). -/
def State.mergeNeed (s : State) (plan : Bool) (st : Nat) : State :=
  (if !plan && s.mergeFull plan st then s.bump pgIntegrity Itg.MERGE_WAIT else s).mergeRoom plan st

/-- A granule taken into, or written again in, a merge entry, which holds a plan unit's write from its first one on (R330). -/
def State.mergeTouch (s : State) (plan : Bool) (line : Nat) : State :=
  let st := stackOfLine line
  let had := s.arrays.merge.any fun m => m.line = line && m.plan
  let s1 := if s.mergeHeld line then s else s.mergeNeed plan st
  s1.setArrays { s1.arrays with
    merge := ⟨st, line, plan || had, s1.clock⟩ :: s1.arrays.merge.filter fun m => m.line ≠ line }

/-- The bytes of a write that fall in one line: offset of the first and the bytes. -/
def partOf (off : Nat) (l : List Byte) (line : Nat) : Nat × List Byte :=
  let a := max off (64 * line)
  (a, (l.drop (a - off)).take (64 * (line + 1) - a))

/-- One line of a write (R329, R331). A narrow write into a line that reads bad poisons it; into a poisoned line it is
discarded; both count MERGE_UE. SRAM arrays are treated as HBM, without an entry (log 13). -/
def State.writeLine (s : State) (plan : Bool) (sp off : Nat) (l : List Byte) (line : Nat) : State :=
  let p := partOf off l line
  if p.2.length = 64 then
    let s1 := (s.poke sp p.1 p.2).cleanLine sp line
    if sp = spHbm && s.mergeHeld line then s1.mergeTouch plan line else s1
  else
    match s.decoded sp line with
    | .clean => (if sp = spHbm then s.mergeTouch plan line else s).poke sp p.1 p.2
    | .corrected =>
      let s1 := s.touchLine plan sp line
      if sp = spHbm then (s1.mergeTouch plan line).poke sp p.1 p.2 else (s1.poke sp p.1 p.2).cleanLine sp line
    | .address => (s.touchLine plan sp line).bump pgIntegrity Itg.MERGE_UE
    | .uncorrectable => (s.touchLine plan sp line).bump pgIntegrity Itg.MERGE_UE
    | .poisoned => s.bump pgIntegrity Itg.MERGE_UE

/-- A write that does not perform: one of its narrow parts meets a bad or poisoned line (R331). -/
def State.writeBad (s : State) (sp off n : Nat) : Bool :=
  (linesOf off n).any fun line =>
    let a := max off (64 * line)
    (min (off + n) (64 * (line + 1)) - a ≠ 64) &&
      (s.decoded sp line = .poisoned || s.decoded sp line = .address || s.decoded sp line = .uncorrectable)

/-- Bytes stored in an array (R329). -/
def State.store (s : State) (plan : Bool) (sp off : Nat) (l : List Byte) : State :=
  (linesOf off l.length).foldl (fun t line => t.writeLine plan sp off l line) (if plan then s.unhide sp off l.length else s)

/-! ## Commands of the arrays -/

/-- CORRECTED_WRITEBACK: the array writes a corrected granule back, unless a write has reached it (R326). The line is
numbered over the three arrays: space times 2^34 plus the line. -/
def execCorrectedWriteback (line : Nat) (s : State) : Host.Outcome State Fault Refusal :=
  let sp := line / 2 ^ 34
  let l := line % 2 ^ 34
  .next (if s.arrays.corrected.contains (sp, l) then s.cleanLine sp l else s)

/-- MERGE_WRITEBACK: a dirty entry that no write has reached for 16 cc is written back and freed (R330). -/
def execMergeWriteback (line : Nat) (s : State) : Host.Outcome State Fault Refusal :=
  .next (if s.arrays.merge.any (fun m => m.line = line && m.last + 16 ≤ s.clock) then s.mergeFree line else s)

/-- MERGE_ENTRY_WAIT: an open request finds no free entry and waits (R330). -/
def execMergeEntryWait (st : Nat) (s : State) : Host.Outcome State Fault Refusal := .next (s.mergeNeed false st)

end Sys2Proof.Machine
end

