-- ==== Sys2Proof/Machine/Pool.lean ====
section
/-! DEFINITION. The packet buffer of a Keep: what takes its cells and what the shared pool has free (R120, R121). -/

namespace Sys2Proof.Machine

open Sys2Proof

/-- A domain placed in a state. -/
def State.setDom (s : State) (d v : Nat) : State :=
  { s with power := { s.power with doms := if v = 0 then AL.del s.power.doms d else AL.put s.power.doms d v } }

/-- The state of a plan bank (Table 04.8): 0 EMPTY, 1 LOADING, 2 READY, 3 ACTIVE. -/
def State.bankState (s : State) (b : Nat) : Nat := s.rd (pgKeep 0) (if b = 0 then Pln.A_STATE else Pln.B_STATE)

/-- The bank in force by PLAN_BANK. -/
def State.active (s : State) : Nat := s.rd (pgKeep 0) Pln.ACTIVE

/-- A plan is in force: the bank named by PLAN_BANK is ACTIVE. -/
def State.planOn (s : State) : Bool := s.bankState s.active = 3

/-- The monitor site that covers the units of a domain (Table 13.2). -/
def siteOf (d : Nat) : Nat :=
  if d < 256 then 4 * (d / 32) + d % 32 / 8
  else if d < 272 then 4 * ((d - 256) / 2) + (d - 256) % 2
  else if d < 288 then 4 * ((d - 272) % 8) + 2
  else if d < 304 then 4 * ((d - 288) / 2) + 3
  else if d < 320 then 48 + (d - 304) / 2
  else if d < 332 then 56 + (d - 320) / 2
  else if d = 332 then 62
  else 32 + (d - 333)

/-- The units of a quarantined site stay powered down once the module has left the plan in force: no plan is in force, or the module
is in the failed set (R342). -/
def State.siteDown (s : State) (d : Nat) : Bool :=
  bit (s.rd pgIntegrity Itg.QUAR_MASK (siteOf d / 32)) (siteOf d % 32) && s.rdb pgIntegrity Itg.QUAR_EN
    && (!s.planOn || s.keyFailed (moduleKey s.coord))

/-- A domain in P2 starts to wake (R426), unless its site stays powered down (R342). -/
def State.wakeDom (s : State) (d : Nat) : State :=
  if s.domState d = 2 && !s.siteDown d then
    let s1 := s.setDom d 3
    { s1 with power := { s1.power with wakeAt := AL.put s1.power.wakeAt d s1.clock } }
  else s

/-- A flit whose header check fails, discarded and counted by a Keep (R61). -/
def State.headerDiscard (s : State) (k : Nat) : State := (s.bump (pgKeep k) Kr.HDR_CRC_ERR).err (pgKeep k) 0

/-! ## The code of held flits (R337) -/

/-- The Keep that holds a flit. -/
def FlitAt.keep : FlitAt → Nat
  | .input l _ => keepOfLink l
  | .queue k _ _ | .stage k _ _ | .waiting k _ _ => k
  | .service e => if 4 ≤ e && e < 8 then e - 4 else if e = 2 then 3 else 0
  | .landing l _ _ _ => keepOfLink l

/-- What a read of the line gives. -/
def FlitErr.outcome (e : FlitErr) : Decoded := classify e.errs

/-- The line's bytes are lost to its reader. -/
def FlitErr.lost (e : FlitErr) : Bool := e.outcome ≠ .clean && e.outcome ≠ .corrected

/-- A line of a Keep buffer that reads ADDRESS or UNCORRECTABLE, counted and recorded under R327. -/
def State.bufferUe (s : State) (addr : Bool) (bank line : Nat) : State :=
  ((s.bump pgIntegrity Itg.UE_TOTAL).ueRecord (if addr then 2 else 1) (0x200 + bank) (64 * line)).err pgIntegrity
    (if addr then 1 else 0)

/-- The errors of held flits replaced. -/
def State.setFlitErrs (s : State) (l : List FlitErr) : State := s.setArrays { s.arrays with flits := l }

/-- A line of a held flit reads ADDRESS or UNCORRECTABLE (R327). Which line of the Keep's buffer it was is free (log 202). -/
def State.flitUe (s : State) (e : FlitErr) (addr : Bool) : State :=
  let b := s.draw 2
  let a := b.2.draw 18
  a.2.bufferUe addr (4 * e.place.keep + b.1) a.1

/-- A line of a held flit is read out, and its errors with it: a correction is counted, and an ADDRESS or UNCORRECTABLE line has the
effects of R327. -/
def State.flitLine (s : State) (e : FlitErr) : State :=
  let s0 := s.setFlitErrs (s.arrays.flits.filter (· ≠ e))
  match e.outcome with
  | .clean | .poisoned => s0
  | .corrected => s0.bump pgIntegrity Itg.CORR_TOTAL
  | .address => s0.flitUe e true
  | .uncorrectable => s0.flitUe e false

/-- Patrol finds a line of a Keep buffer ADDRESS or UNCORRECTABLE, and leaves it poisoned (R327, R332). -/
def State.patrolUe (s : State) (e : FlitErr) (addr : Bool) (line : Nat) : State :=
  let s1 := (s.bufferUe addr (line / 2 ^ 18) (line % 2 ^ 18)).bump pgIntegrity Itg.PATROL_UE
  s1.setFlitErrs ({ e with errs := [(69, 0xA5)] } :: s1.arrays.flits)

/-- Patrol reads a line of a Keep buffer, numbered 2^18 lines a bank: it holds one of the Keep's flits in error, or none; a
corrected line is written back (R326, R332, log 202). -/
def State.patrolBuffer (s : State) (line : Nat) : State :=
  let l := s.arrays.flits.filter fun e => e.place.keep = line / 2 ^ 20
  let d := s.draw 16
  match l[d.1 % (l.length + 1)]? with
  | none => d.2
  | some e =>
    let rest := d.2.setFlitErrs (d.2.arrays.flits.filter (· ≠ e))
    match e.outcome with
    | .clean | .poisoned => d.2
    | .corrected => (rest.bump pgIntegrity Itg.CORR_TOTAL).bump pgIntegrity Itg.PATROL_CORR
    | .address => rest.patrolUe e true line
    | .uncorrectable => rest.patrolUe e false line

/-- PATROL_READ: hardware patrol reads one line of an SRAM array (R332); it raises no tick fault. The line is numbered over the
arrays: space times 2^34 plus the line, 1 tile stores, 2 Drums, 3 Keep buffers. -/
def execPatrolRead (line : Nat) (s : State) : Host.Outcome State Fault Refusal :=
  let sp := line / 2 ^ 34
  let l := line % 2 ^ 34
  .next (if sp = spTile || sp = spDrum then
    match s.decoded sp l with
    | .corrected => (s.touchLine false sp l).bump pgIntegrity Itg.PATROL_CORR
    | .address => (s.touchLine false sp l).bump pgIntegrity Itg.PATROL_UE
    | .uncorrectable => (s.touchLine false sp l).bump pgIntegrity Itg.PATROL_UE
    | .clean | .poisoned => s
  else if sp = 3 && l < 2 ^ 22 then s.patrolBuffer l
  else s)

/-- A flit read out of where it is held: discarded when its header is beyond correction, with POISON set when its payload is
(R325, R337). -/
def State.flitRead (s : State) (p : FlitAt) (f : Flit) : Option Flit × State :=
  let l := s.arrays.flits.filter fun e => e.place = p
  (if l.any fun e => e.header && e.lost then none else some (if l.any FlitErr.lost then f.setField 7 1 1 else f),
    l.foldl State.flitLine s)

/-- An update of the open plane's state. -/
def State.setOpn (s : State) (o : OpenPlane) : State := { s with opn := o }

/-- The state with an egress queue replaced. -/
def State.setQueue (s : State) (k o vc : Nat) (q : EgressQ) : State :=
  s.setOpn { s.opn with egress := AL.put s.opn.egress (k, o, vc) q }

/-- The lowest Keep buffer bank that is off wakes: an access needs it (R426). -/
def State.wakeBank (s : State) (k : Nat) : State :=
  match (List.range 4).find? fun i => s.domState (bankDomain k i) = 2 with
  | some i => s.wakeDom (bankDomain k i)
  | none => s

/-- Cells of an input buffer are free again, and their credits go back to the sender of the link; while cells are closed to new
allocation, those of its shared holding return to the pool instead (R121, R122). -/
def State.returnCredit (s : State) (l vc n : Nat) : State :=
  let x := s.link l
  let had := AL.getD x.shared vc 0
  let close := if s.poolCells (keepOfLink l) < s.poolUsed (keepOfLink l) then min n had else 0
  let s1 := if close = 0 then s else s.setLink l { x with shared := AL.put x.shared vc (had - close) }
  if s.linkUp l && close < n then s1.sendIdle l none [(vc, n - close)] else s1

/-! ## Lost flits (R125) -/

/-- A packet leaves poisoned: counted by its Keep (R125). -/
def State.fwdPoison (s : State) (k : Nat) : State := (s.bump (pgKeep k) Opn.FWD_POISON).err (pgKeep k) 19

/-- What stays of a discarded flit: of the LAST flit of a packet of several flits the one that ends the packet, of another
nothing (R125, log 209). -/
def State.leftOf (s : State) (f : Flit) : Option Flit := if f.last && !f.first then some (lastInPlace s.now f) else none

/-- The same of a queued flit. -/
def State.leftQ (s : State) (x : QFlit) : Option QFlit := (s.leftOf x.flit).map fun f => ⟨f, x.entering⟩

/-- What stays of a discarded flit is counted by its Keep (R125). -/
def State.countLeft (s : State) (k : Nat) (f : Flit) : State := if (s.leftOf f).isSome then s.fwdPoison k else s

/-- An open-plane flit put into its Turret input buffer, where it always finds room; the LAST flit of a cut packet with POISON
set (R121, R125). -/
def State.bufferIn (s : State) (l : Nat) (f : Flit) : State :=
  let cut : Bool := f.last && s.opn.cut.contains (l, f.vc)
  let g := if cut then f.setField 7 1 1 else f
  let s1 := s.setOpn { s.opn with
    inputs := AL.put s.opn.inputs (l, f.vc) (AL.getD s.opn.inputs (l, f.vc) [] ++ [g])
    cut := if f.last then s.opn.cut.filter (· ≠ (l, f.vc)) else s.opn.cut }
  let s2 := if s1.banksHold (keepOfLink l) 0 then s1 else s1.wakeBank (keepOfLink l)
  if cut then s2.fwdPoison (keepOfLink l) else s2

/-- The last flit received of a packet of which the LAST flit has not come, in the input buffer of a link and VC or switched from
it. -/
def State.openPacket (s : State) (l vc : Nat) : Option Flit :=
  match (AL.getD s.opn.inputs (l, vc) []).getLast? with
  | some f => if f.last then none else some f
  | none => AL.get s.opn.switched (l, vc)

/-- A link leaves UP: a packet that its peer was sending ends poisoned (R125, log 209). -/
def State.endInput (s : State) (l vc : Nat) : State :=
  let s1 := s.setOpn { s.opn with cut := s.opn.cut.filter (· ≠ (l, vc)) }
  match s.openPacket l vc with
  | none => s1
  | some f =>
    (s1.setOpn { s1.opn with
      inputs := AL.put s1.opn.inputs (l, vc) (AL.getD s1.opn.inputs (l, vc) [] ++ [lastInPlace s.now f]) }).fwdPoison (keepOfLink l)

end Sys2Proof.Machine
end

