-- ==== Sys2Proof/Machine/Atomics.lean ====
section
/-! DEFINITION. The atomic windows of the Drums (R195, R196, R313). -/

namespace Sys2Proof.Machine

open Sys2Proof

/-! ## The sum (R313) -/

/-- One element of an atomic: encoding of the sum, whether it clipped, whether it is NaN. -/
def atomElem (f a b : Nat) : Nat × Bool × Bool :=
  let x := addVal (decodeVal f a) (decodeVal f b)
  let r := conv f .rne false x.1
  (r.enc, r.clip, x.1.isNan)

/-- The sums of all elements: new bytes, clips, NaN results. -/
def atomSum (f w : Nat) (old add : List Byte) : List Byte × Nat × Nat :=
  let l := (List.range (add.length / w)).map fun i => atomElem f (leAt old (w * i) w) (leAt add (w * i) w)
  (l.flatMap (fun x => leBytes w x.1), (l.filter fun x => x.2.1).length, (l.filter fun x => x.2.2).length)

/-- Plan units go on reading the present bytes of a range until the next boundary (R312, R380). -/
def State.hide (s : State) (sp off n : Nat) : State :=
  if !s.planOn then s
  else
    let new := (List.range n).filter fun i => (AL.get s.arrays.unseen (cellAddr sp (off + i))).isNone
    s.setArrays { s.arrays with
      unseen := new.map (fun i => (cellAddr sp (off + i), memGet s.mem (cellAddr sp (off + i)))) ++ s.arrays.unseen }

/-! ## The window -/

/-- The Cupola whose Drum serves a line of HBM. -/
def atomCup (line : Nat) : Nat := stackOfLine line / 2

/-- The Drum line of a window slot: the window is the top WIN_CUR pages (R192); a line takes the lowest free slot
(log 25). -/
def State.atomLine (s : State) (a : Atom) : Nat :=
  a.c * 2 ^ 19 + (512 - s.rd (pgDrum a.c) Drm.WIN_CUR) * 1024 + a.slot

/-- The window line that holds a line of HBM. -/
def State.atomHeld (s : State) (line : Nat) : Option Atom := s.atoms.find? fun a => a.line = line

/-- The lowest free slot of a window, if any. -/
def State.atomSlot (s : State) (c : Nat) : Option Nat :=
  let used := (s.atoms.filter fun a => a.c = c).map Atom.slot
  if used.length < 1024 * s.rd (pgDrum c) Drm.WIN_CUR then
    (List.range (used.length + 1)).find? fun i => !used.contains i
  else none

/-- A line freed. -/
def State.atomFree (s : State) (a : Atom) : State := { s with atoms := s.atoms.filter (· ≠ a) }

/-- A line that decodes as neither CLEAN nor CORRECTED. -/
def State.atomBad (s : State) (sp line : Nat) : Bool :=
  match s.decoded sp line with
  | .clean | .corrected => false
  | .poisoned | .address | .uncorrectable => true

/-- A held line found bad in the Drum: it is freed and its granule in HBM is written as poisoned (R195). -/
def State.atomLost (s : State) (a : Atom) : State :=
  (((s.touchLine false spDrum (s.atomLine a)).atomFree a).poisonLine spHbm a.line).err (pgDrum a.c) 1

/-- A line written back to HBM and freed (R196). -/
def State.atomWriteback (s : State) (a : Atom) : State :=
  let dl := s.atomLine a
  if s.atomBad spDrum dl then s.atomLost a
  else
    let s1 := s.touchLine false spDrum dl
    ((s1.store false spHbm (64 * a.line) (s1.peek spDrum (64 * dl) 64)).atomFree a).bump (pgDrum a.c) Drm.ATOM_WB

/-- Clips and NaN results counted in the page of the line's interface (R313). -/
def State.atomCount (s : State) (line clips nans : Nat) : State :=
  (s.bump (pgHbm (stackOfLine line)) Hbm.ATOM_CLIP clips).bump (pgHbm (stackOfLine line)) Hbm.ATOM_NAN nans

/-- The add performed in a held line. -/
def State.atomHit (s : State) (a : Atom) (loc f w : Nat) (add : List Byte) : State × List Byte :=
  let dl := s.atomLine a
  let s1 := s.touchLine false spDrum dl
  let o := 64 * dl + loc % 64
  let old := s1.peek spDrum o add.length
  let x := atomSum f w old add
  let s2 := ((s1.poke spDrum o x.1).cleanLine spDrum dl).atomCount a.line x.2.1 x.2.2
  ({ s2 with atoms := s2.atoms.map fun b => if b = a then { b with tick := s.now } else b }, old)

/-- A line read into the window. -/
def State.atomFill (s : State) (line slot : Nat) : State × Atom :=
  let a : Atom := ⟨atomCup line, slot, line, s.now⟩
  let s1 := s.touchLine false spHbm line
  let dl := s1.atomLine a
  let s2 := (s1.poke spDrum (64 * dl) (s1.peek spHbm (64 * line) 64)).cleanLine spDrum dl
  ({ s2 with atoms := a :: s2.atoms }, a)

/-- An atomic add at a local HBM offset (R195): the state, and the old bytes, or none where it is answered BUS_ERR. -/
def State.atomic (s : State) (loc f w : Nat) (add : List Byte) : State × Option (List Byte) :=
  let line := loc / 64
  let c := atomCup line
  match s.atomHeld line with
  | some a =>
    if s.atomBad spDrum (s.atomLine a) then (s.atomLost a, none)
    else
      let x := (s.bump (pgDrum c) Drm.ATOM_HIT).atomHit a loc f w add
      (x.1, some x.2)
  | none =>
    if s.atomBad spHbm line then ((s.touchLine false spHbm line).err (pgDrum c) 1, none)
    else match s.atomSlot c with
      | some slot =>
        let y := (s.bump (pgDrum c) Drm.ATOM_FILL).atomFill line slot
        let x := y.1.atomHit y.2 loc f w add
        (x.1, some x.2)
      | none =>
        let s1 := s.bump (pgDrum c) Drm.ATOM_HBM
        let old := s1.peek spHbm loc add.length
        let x := atomSum f w old add
        (((s1.hide spHbm loc add.length).store false spHbm loc x.1).atomCount line x.2.1 x.2.2, some old)

/-! ## Write-back commands (R196) -/

/-- A line has been idle: ATOM_IDLE ticks have passed after the tick of its last atomic. -/
def State.atomIdle (s : State) (a : Atom) : Bool :=
  tickReached s.now (tickAdd a.tick (s.rd (pgDrum a.c) Drm.ATOM_IDLE + 1))

/-- ATOM_IDLE_WRITEBACK (R196). -/
def execAtomIdleWriteback (line : Nat) (s : State) : Host.Outcome State Fault Refusal :=
  .next (match s.atomHeld line with
    | some a => if s.atomIdle a then s.atomWriteback a else s
    | none => s)

/-- Every idle line written back. -/
def State.atomIdles (s : State) : State := (s.atoms.filter s.atomIdle).foldl (fun t a => t.atomWriteback a) s

/-- Every line of a window written back and freed. -/
def State.atomFlush (s : State) (c : Nat) : State :=
  ((s.atoms.filter fun a => a.c = c).foldl (fun t a => t.atomWriteback a) s).wr (pgDrum c) Drm.FLUSHING 0

/-- ATOM_FLUSH (R196). -/
def execAtomFlush (c : Nat) (s : State) : Host.Outcome State Fault Refusal := .next (if c < 8 then s.atomFlush c else s)

/-- Both plan banks are EMPTY. -/
def State.banksEmpty (s : State) : Bool := s.rd (pgKeep 0) Pln.A_STATE = 0 && s.rd (pgKeep 0) Pln.B_STATE = 0

/-- A write of ATOM_WIN (R196). Lines held when the window changes are written back first (log 25). -/
def State.atomWin (s : State) (c v : Nat) : State :=
  let n := bits v 0 9
  if 256 < n then s.err (pgDrum c) 2
  else if !s.banksEmpty then s.err (pgDrum c) 0
  else ((s.atomFlush c).put (pgDrum c) Drm.ATOM_WIN 0 n).wr (pgDrum c) Drm.WIN_CUR n

/-- ATOM_WIN_WRITE (R196). -/
def execAtomWinWrite (c v : Nat) (s : State) : Host.Outcome State Fault Refusal :=
  .next (if c < 8 then s.atomWin c v else s)

end Sys2Proof.Machine
end

