-- ==== Sys2Proof/Machine/Belfry.lean ====
section
/-! DEFINITION. The Belfry's commands: period changes, tick and step reads, markers, skip notices and the throttle
(R30–R55). The boundary itself is in Boundary.lean. -/

namespace Sys2Proof.Machine

open Sys2Proof

/-! ## Period changes (R32) -/

/-- A write of PERIOD_AT_LO: arms the change with PER_U as it stands, for the next boundary when the tick has begun. -/
def State.armPeriod (s : State) (v : Nat) : State :=
  let s1 := s.put pgBelfry Bel.PERIOD_AT_LO 0 v
  let at_ := s1.rd2 pgBelfry Bel.PERIOD_AT_LO Bel.PERIOD_AT_HI
  let per := s1.rd pgBelfry Bel.PER_U
  if tickLater at_ s.now then s1.setBelfry { s1.belfry with perArmed := some (at_, per) }
  else (s1.setBelfry { s1.belfry with perArmed := some (tickAdd s.now 1, per) }).err pgBelfry 6

/-- PERIOD_AT_WRITE (R32). -/
def execPeriodAtWrite (v : Nat) (s : State) : Host.Outcome State Fault Refusal := .next (s.armPeriod v)

/-! ## Latched reads (R34, Table 02.5) -/

/-- A read of NOW_LO latches NOW_HI and returns the low word of the tick number. -/
def State.readNowLo (s : State) : Nat × State := (s.now % 2 ^ 32, s.put pgBelfry Bel.NOW_HI 0 (s.now / 2 ^ 32))

/-- A read of STEP_LO latches STEP_HI and returns the low word of the plan step count. -/
def State.readStepLo (s : State) : Nat × State :=
  (s.belfry.stepCount % 2 ^ 32, s.put pgBelfry Bel.STEP_HI 0 (s.belfry.stepCount / 2 ^ 32))

/-- NOW_LO_READ (R34). -/
def execNowLoRead (s : State) : Host.Outcome State Fault Refusal :=
  .next (s.readNowLo.2.emit (.value s.readNowLo.1))

/-- STEP_LO_READ (R55). -/
def execStepLoRead (s : State) : Host.Outcome State Fault Refusal :=
  .next (s.readStepLo.2.emit (.value s.readStepLo.1))

/-! ## Markers (R38–R42) -/

/-- The signed distance from the local tick to a marker's tick. -/
def tickDiff (t u : Nat) : Int := toSigned 48 (tickSub t u)

/-- An ended tick by its number (R39, R40). -/
def State.pastTick (s : State) (tick : Nat) : Option PastTick := s.belfry.past.find? fun x => x.tick = tick

/-- cc from the local boundary of the marker's own tick to now, negative when that boundary is still to come (R39). The boundary
of a tick beyond the next one is taken at the period in force, and so is that of a tick before the last join (log 193). -/
def State.markerOffset (s : State) (tick : Nat) : Int :=
  let n := tickDiff tick s.now
  if n = 0 then (s.offset : Int)
  else if n ≥ 1 then (s.offset : Int) - s.belfry.tickLen - (n - 1) * s.period
  else match s.pastTick (tick % tickMod) with
    | some x => (s.clock : Int) - x.start
    | none => (s.offset : Int) - n * s.period

/-- Skew of a marker on a link: its offset less the link's marker latency (R39). -/
def State.markerSkew (s : State) (l : Nat) (m : Marker) : Int :=
  s.markerOffset m.tick - (s.rd (pgLink l) Lnk.LD : Nat)

/-- A marker error: a torus marker sets the Belfry's bit, an endpoint marker the bit of its Turret (R40, R42). -/
def State.markerErr (s : State) (l belBit turBit : Nat) : State :=
  if l < 16 then s.err (pgLink l) turBit else s.err pgBelfry belBit

/-- A failed link reported for a torus marker (R40; an endpoint link has no direction to report, Table 14.1). -/
def State.markerLinkFault (s : State) (l : Nat) : State := if l < 16 then s else s.reportLink (l - 0x10)

/-- The period and step checks of R40 against the local values of the marker's tick. -/
def State.markerCompare (s : State) (l : Nat) (m : Marker) (per step : Nat) : State :=
  let s1 := if m.perU % 512 = per then s else (s.markerErr l 1 7).markerLinkFault l
  if m.joined && m.step % 2 ^ 32 ≠ step % 2 ^ 32 then (s1.markerErr l 2 8).tickFault else s1

/-- The skew window check of R40. -/
def State.skewCheck (s : State) (l : Nat) (skew : Int) : State :=
  if 16 * skew.natAbs > s.rd pgBelfry Bel.WIN * s.period then (s.markerErr l 0 6).markerLinkFault l else s

/-- The checks of R40 on one marker; one stamped with a later tick is compared when that tick begins. -/
def State.markerCheck (s : State) (l : Nat) (m : Marker) (skew : Int) : State :=
  let s1 := s.skewCheck l skew
  let n := tickDiff m.tick s.now
  if n = 0 then s1.markerCompare l m (s.rd pgBelfry Bel.PER_CUR) s.belfry.stepCount
  else if n ≥ 1 then s1.setBelfry { s1.belfry with early := s1.belfry.early ++ [(l, m)] }
  else match s.pastTick (m.tick % tickMod) with
    | some x => s1.markerCompare l m x.per x.step
    | none => s1

/-- A marker counted for silence detection: an unjoined neighbour's marker counts as stamped now (R352). -/
def State.markerSeen (s : State) (l : Nat) (m : Marker) : State :=
  if l < 16 then s
  else s.setBelfry { s.belfry with
    seenMarks := s.belfry.seenMarks ++ [(l - 0x10, if m.joined then m.tick % tickMod else s.now)] }

/-- The skew recorded: BELFRY_SKEWd for a torus link, EP_SKEW for an endpoint; VALID stays clear while not joined (R39, R40,
R42). -/
def State.recordSkew (s : State) (l : Nat) (skew : Int) : State :=
  if l < 16 then s.put (pgLink l) Ept.EP_SKEW 0 (ofSigned 24 skew)
  else (s.put pgBelfry Bel.SKEW (l - 0x10) (ofSigned 24 skew)).put pgBelfry Bel.SKEW_VALID (l - 0x10) (b2n s.joined)

/-- A joined torus neighbour's skew enters the trim of the current tick (R41). -/
def State.trimMark (s : State) (l : Nat) (m : Marker) (skew : Int) : State :=
  if 16 ≤ l && m.joined then s.setBelfry { s.belfry with marks := AL.put s.belfry.marks (l - 0x10) skew } else s

/-- A marker received on a link: its skew is stored, and while the module is joined it enters the trim and is checked (R39–R43). -/
def State.marker (s : State) (l : Nat) (m : Marker) : State :=
  let skew := s.markerSkew l m
  let s1 := (s.markerSeen l m).recordSkew l skew
  if s.joined then
    let s2 := s1.trimMark l m skew
    if l < 16 || m.joined then s2.markerCheck l m skew else s2
  else s1

/-- MARKER_RECEIVE (R39). -/
def execMarkerReceive (link : Nat) (m : Marker) (s : State) : Host.Outcome State Fault Refusal :=
  .next (s.marker link m)

/-- Trim at its limit for 64 ticks: PG_ERR.TRIM_SAT and the marker flag, once per run (R41). -/
def State.trimSaturated (s : State) : State :=
  if 64 ≤ s.belfry.trimRun && !s.belfry.trimSat then
    (s.setBelfry { s.belfry with trimSat := true }).err pgBelfry 3
  else s

/-- TRIM_SATURATED (R41). -/
def execTrimSaturated (s : State) : Host.Outcome State Fault Refusal := .next s.trimSaturated

/-! ## Skip notices (R51–R53) -/

/-- Payload of a SKIP_NOTICE (R52). -/
def skipPayload (target origin reason : Nat) : List Byte :=
  leBytes 6 target ++ leBytes 2 (origin % 2 ^ 15) ++ leBytes 1 reason

/-- A flooded message has been received or sent before (R53). -/
def State.floodedBefore (s : State) (opcode key : Nat) : Bool := s.belfry.flooded.contains (opcode, key)

/-- A flooded message is remembered. -/
def State.rememberFlood (s : State) (opcode key : Nat) : State :=
  s.setBelfry { s.belfry with flooded := (opcode, key) :: s.belfry.flooded }

/-- A target tick marked in the skip map and its notice forwarded (R53). -/
def State.markSkip (s : State) (src : Option Nat) (target origin reason : Nat) : State :=
  let s1 := s.rememberFlood 0x31 target
  (s1.setBelfry { s1.belfry with skipMap := target :: s1.belfry.skipMap }).flood src 0x31
    (skipPayload target origin reason)

/-- A skip notice received from direction `d` (R53). -/
def State.skipNotice (s : State) (d target origin reason : Nat) : State :=
  let t := target % tickMod
  if s.floodedBefore 0x31 t then s
  else if !tickLater t s.now then (s.overrun tyBelfry 0 6 (t % 2 ^ 32)).err pgBelfry 4
  else if tickSub t s.now > 1023 then s.err pgBelfry 5
  else s.markSkip (some d) t origin reason

/-- SKIP_NOTICE (R53). -/
def execSkipNotice (d target origin reason : Nat) (s : State) : Host.Outcome State Fault Refusal :=
  .next (s.skipNotice d target origin reason)

/-- A notice issued by this module for now + LEAD (R52); a tick already marked is not sent again. -/
def State.issueSkip (s : State) (reason : Nat) : State :=
  let t := tickAdd s.now (s.rd pgBelfry Bel.LEAD)
  if s.floodedBefore 0x31 t then s else s.markSkip none t s.coord reason

/-- SKIP_REQ: a host skip notice while HOST_EN is set (Table 02.5). -/
def execSkipReq (v : Nat) (s : State) : Host.Outcome State Fault Refusal :=
  .next (if bit v 0 && s.rdb pgBelfry Bel.HOST_EN then s.issueSkip 3 else s)

/-! ## The throttle (R54) -/

/-- THR_TEMP as it acts: values above 105 act as 105. -/
def State.thrTemp (s : State) : Nat := min (s.rd pgBelfry Bel.THR_TEMP) 105

/-- A sensor's reading through its CAL_* offset, in °C, 0–255 (R414, R433): the raw reading is in 1/16 °C. -/
def sensorTemp (raw : Int) (cal : Nat) : Nat := min ((raw + toSigned 16 cal) / 16).toNat 255

/-- All 64 sensor readings in °C. -/
def State.temps (s : State) (raw : List Int) : List Nat :=
  (List.range 64).map fun i => sensorTemp (raw.getD i 0) (s.rd pgLantern Cal.CAL_TS_OFF i)

/-- Index of the first largest element. -/
def argMax (l : List Nat) : Nat :=
  ((List.range l.length).foldl (fun b i => if l.getD i 0 > l.getD b 0 then i else b) 0)

/-- The Oculus telemetry taken at a throttle evaluation, the Buttress's mean power among it (R414, Table 18.9). -/
def State.oculus (s : State) (t : List Nat) (power : Nat) (cup : List Nat) : State :=
  let s1 := (List.range 64).foldl (fun u i =>
    (u.put pgOculus Ocu.TS_TEMP i (t.getD i 0)).put pgOculus Ocu.TS_MAX i
      (max (u.rd pgOculus Ocu.TS_MAX i) (t.getD i 0))) s
  let s2 := (List.range 8).foldl (fun u c =>
    (u.put pgOculus Ocu.PWR_CUP c (cup.getD c 0)).put (pgCupola c) Cup.CUP_PWR 0 (cup.getD c 0)) s1
  ((((s2.put pgOculus Ocu.PWR_MOD 0 power).put pgButtress But.PIN_W 0 power).put pgButtress But.PIN_PEAK 0
    (max (s2.rd pgButtress But.PIN_PEAK) (power % 2 ^ 13))).put pgOculus Ocu.HOT_TEMP 0 (t.getD (argMax t) 0)).put
    pgBelfry Bel.HOT_SENSOR 0 (argMax t)

/-- The skip fraction after an evaluation (R54). -/
def nextF (f maxSkip : Nat) (trigger cool : Bool) : Nat :=
  if trigger then (if f < maxSkip then f + 1 else f) else if cool then f - 1 else f

/-- An evaluation is due: 64 ticks have passed since the last one, or none has been made since THR_EN was set (R54, log 101). -/
def State.throttleDue (s : State) : Bool := !s.belfry.thrLive || 64 ≤ tickSub s.now s.belfry.thrWindow

/-- THROTTLE_EVALUATION: the telemetry, and every 64 ticks the triggers and the fraction, and a new 64-tick window (R54). While
COOL_OK is 0 the temperature trigger is active (R420). -/
def State.throttleEval (s : State) (raw : List Int) (power : Nat) (cup : List Nat) : State :=
  let t := s.temps raw
  let s1 := s.oculus t power cup
  if !s.throttleDue then s1
  else
    let b := { s1.belfry with thrWindow := s.now, thrLast := none, thrLive := true }
    if s.rdb pgBelfry Bel.THR_EN then
      let warm : Bool := !s.rdb pgButtress But.COOL_OK
      let tempAct := warm || t.any fun x => x > s.thrTemp
      let powAct : Bool := power > s.rd pgBelfry Bel.THR_POWER
      let cool := t.all (fun x => x + s.rd pgBelfry Bel.T_HYST < s.thrTemp) && power + 100 < s.rd pgBelfry Bel.THR_POWER
      let f := nextF (s.rd pgBelfry Bel.F) (s.rd pgBelfry Bel.MAX_SKIP) (tempAct || powAct) cool
      (((s1.setBelfry b).wr pgBelfry Bel.F f).wrb pgBelfry Bel.TEMP_ACT tempAct).wrb pgBelfry Bel.POWER_ACT powAct
    else (((s1.setBelfry b).wr pgBelfry Bel.F 0).wr pgBelfry Bel.TEMP_ACT 0).wr pgBelfry Bel.POWER_ACT 0

/-- THROTTLE_EVALUATION (R54). -/
def execThrottleEvaluation (temps : List Int) (power : Nat) (cup : List Nat) (s : State) :
    Host.Outcome State Fault Refusal := .next (s.throttleEval temps power cup)

/-- A notice of the current window is due at the current tick (R54). -/
def State.noticeDue (s : State) : Bool :=
  let n := s.rd pgBelfry Bel.F
  (List.range n).any fun i => s.now = tickAdd s.belfry.thrWindow (64 * i / n)

/-- SKIP_NOTICE_ISSUE: the throttle's notice due at this tick, once (R54). -/
def State.throttleIssue (s : State) : State :=
  if s.belfry.thrLive && s.rdb pgBelfry Bel.THR_EN && s.noticeDue && s.belfry.thrLast ≠ some s.now then
    let reason := if s.rdb pgBelfry Bel.TEMP_ACT then 1 else 2
    (s.setBelfry { s.belfry with thrLast := some s.now }).issueSkip reason
  else s

/-- SKIP_NOTICE_ISSUE (R54). -/
def execSkipNoticeIssue (s : State) : Host.Outcome State Fault Refusal := .next s.throttleIssue

/-- A write of THR_CTL (R54): clearing THR_EN ends the window's notices, setting it again starts F from 0. -/
def State.writeThrCtl (s : State) (v : Nat) : State :=
  let was := s.rdb pgBelfry Bel.THR_EN
  let s1 := (((s.swField pgBelfry Bel.THR_TEMP 0 (bits v 0 8)).swField pgBelfry Bel.THR_POWER 0 (bits v 8 13)).swField
    pgBelfry Bel.T_HYST 0 (bits v 24 4)).swField pgBelfry Bel.THR_EN 0 (bits v 31 1)
  let is := s1.rdb pgBelfry Bel.THR_EN
  if was && !is then s1.setBelfry { s1.belfry with thrLive := false }
  else if !was && is then s1.wr pgBelfry Bel.F 0
  else s1

/-- THR_EN_CLEAR: a write of THR_CTL with THR_EN 0 (R54). -/
def execThrEnClear (v : Nat) (s : State) : Host.Outcome State Fault Refusal :=
  .next (s.writeThrCtl (v % 2 ^ 31))

end Sys2Proof.Machine
end

