-- ==== Sys2Proof/Machine/PlanImage.lean ====
section
/-! DEFINITION. Tick-plan images: the header, the section directory and the records, read from the bytes of an image
(R101–R108, Table 07.5). -/

namespace Sys2Proof.Machine

open Sys2Proof

/-! ## Header and directory (Tables 04.2, 04.3, R102) -/

def imgMagic (m : List Byte) : Nat := leAt m 0x00 4
def imgFmt (m : List Byte) : Nat := leAt m 0x04 2
def imgNsec (m : List Byte) : Nat := leAt m 0x06 2
def imgPlanId (m : List Byte) : Nat := leAt m 0x08 8
def imgSteps (m : List Byte) : Nat := leAt m 0x10 4
def imgLoopTo (m : List Byte) : Nat := leAt m 0x14 4
def imgPerU (m : List Byte) : Nat := leAt m 0x18 2
def imgG16 (m : List Byte) : Nat := leAt m 0x1A 1
def imgNvar (m : List Byte) : Nat := leAt m 0x1B 1
def imgCoord (m : List Byte) : Nat := leAt m 0x1C 2
def imgExtent (m : List Byte) : Nat := leAt m 0x1E 2
def imgRole (m : List Byte) : Nat := leAt m 0x20 2
def imgSlackExt (m : List Byte) : Nat := leAt m 0x24 2
def imgSlackD2d (m : List Byte) : Nat := leAt m 0x26 2
def imgXlator (m : List Byte) : Nat := leAt m 0x28 4
def imgLen (m : List Byte) : Nat := leAt m 0x78 4
def imgCrc (m : List Byte) : Nat := leAt m 0x7C 4

/-- Period and guard of a plan in cc; the work window W = P − G (R31). -/
def imgPeriod (m : List Byte) : Nat := 256 * imgPerU m
def imgWindow (m : List Byte) : Nat := 256 * imgPerU m - 16 * imgG16 m

/-- The step after a step (R116). -/
def imgNext (m : List Byte) (i : Nat) : Nat := if i + 1 = imgSteps m then imgLoopTo m else i + 1

/-- A directory entry (R102), with its index. -/
structure Section where
  idx : Nat
  ty : Nat
  var : Nat
  keep : Nat
  off : Nat
  len : Nat
  count : Nat
  deriving DecidableEq, Repr

/-- Directory entry `i`. -/
def sectionAt (m : List Byte) (i : Nat) : Section :=
  let o := 0x80 + 16 * i
  { idx := i, ty := leAt m o 2, var := leAt m (o + 2) 1, keep := leAt m (o + 3) 1, off := leAt m (o + 4) 4,
    len := leAt m (o + 8) 4, count := leAt m (o + 12) 4 }

/-- The directory. -/
def imgSections (m : List Byte) : List Section := (List.range (imgNsec m)).map (sectionAt m)

/-- Sections of a type. -/
def sectionsOf (m : List Byte) (ty : Nat) : List Section := (imgSections m).filter fun s => s.ty = ty

/-- The records of a section of fixed record size: offsets in the image. -/
def recordOffs (x : Section) (size : Nat) : List Nat := (List.range x.count).map fun i => x.off + size * i

/-! ## Records -/

/-- A stream record (Table 04.4). -/
structure StreamRec where
  sid : Nat
  coded : Bool
  terminal : Bool
  origin : Bool
  sink : Nat
  ovf : Nat
  chunks : Nat
  deriving DecidableEq, Repr

def streamRecAt (m : List Byte) (o : Nat) : StreamRec :=
  let f := leAt m (o + 4) 1
  { sid := leAt m o 4 % 2 ^ 20, coded := bit f 0, terminal := bit f 1, origin := bit f 2, sink := leAt m (o + 5) 1,
    ovf := leAt m (o + 6) 2, chunks := leAt m (o + 8) 4 % 2 ^ 18 }

/-- All stream records. -/
def imgStreams (m : List Byte) : List StreamRec :=
  (sectionsOf m 1).flatMap fun x => (recordOffs x 16).map (streamRecAt m)

/-- The record of a stream. -/
def imgStream (m : List Byte) (sid : Nat) : Option StreamRec := (imgStreams m).find? fun r => r.sid = sid

/-- A slot record (Table 04.5) with the variant and Keep of its section. -/
structure SlotRec where
  var : Nat
  keep : Nat
  step : Nat
  out : Nat
  inp : Nat
  ovf : Bool
  recv : Bool
  count : Nat
  ft : Nat
  sid : Nat
  deriving DecidableEq, Repr

def slotRecAt (m : List Byte) (x : Section) (o : Nat) : SlotRec :=
  let f := leAt m (o + 5) 1
  { var := x.var, keep := x.keep, step := leAt m o 3, out := leAt m (o + 3) 1, inp := leAt m (o + 4) 1,
    ovf := bit f 0, recv := bit f 1, count := leAt m (o + 6) 2, ft := leAt m (o + 8) 4 % 2 ^ 20,
    sid := leAt m (o + 12) 4 % 2 ^ 20 }

/-- All slot records. -/
def imgSlots (m : List Byte) : List SlotRec :=
  (sectionsOf m 2).flatMap fun x => (recordOffs x 16).map (slotRecAt m x)

/-- Slot records of a variant and step. -/
def slotsAt (m : List Byte) (var step : Nat) : List SlotRec :=
  (imgSlots m).filter fun r => r.var = var && r.step = step

/-- An origin stream does not start at Cupola `c`: no slot record of it has a Keep–Cupola IN, or one names another Cupola
(Tables 08.5, 09.7, 11.6). -/
def originBad (m : List Byte) (c sid : Nat) : Bool :=
  let l := (imgSlots m).filter fun x => x.sid = sid && !x.recv
  l.isEmpty || l.any fun x => x.inp < 0x40 || 0x60 ≤ x.inp || x.inp % 8 ≠ c

/-- A slack record (R105) with the variant and Keep of its section. -/
structure SlackRec where
  var : Nat
  keep : Nat
  step : Nat
  out : Nat
  slack : Nat
  deriving DecidableEq, Repr

def slackRecAt (m : List Byte) (x : Section) (o : Nat) : SlackRec :=
  { var := x.var, keep := x.keep, step := leAt m o 3, out := leAt m (o + 3) 1, slack := leAt m (o + 4) 2 }

/-- All slack records. -/
def imgSlacks (m : List Byte) : List SlackRec :=
  (sectionsOf m 3).flatMap fun x => (recordOffs x 8).map (slackRecAt m x)

/-- A refresh record (R106). -/
structure RefreshRec where
  step : Nat
  iface : Nat
  start : Nat
  len : Nat
  deriving DecidableEq, Repr

def refreshRecAt (m : List Byte) (o : Nat) : RefreshRec :=
  { step := leAt m o 3, iface := leAt m (o + 3) 1, start := leAt m (o + 4) 2, len := leAt m (o + 6) 2 }

/-- All refresh records. -/
def imgRefreshes (m : List Byte) : List RefreshRec :=
  (sectionsOf m 4).flatMap fun x => (recordOffs x 8).map (refreshRecAt m)

/-- An action record (Table 04.6) with the variant of its section (0xFF: all variants), its section and index. -/
structure ActionRec where
  sec : Nat
  idx : Nat
  var : Nat
  step : Nat
  kind : Nat
  unit : Nat
  off : Nat
  len : Nat
  deriving DecidableEq, Repr

def actionRecAt (m : List Byte) (x : Section) (i : Nat) : ActionRec :=
  let o := x.off + 16 * i
  { sec := x.idx, idx := i, var := x.var, step := leAt m o 3, kind := leAt m (o + 3) 1, unit := leAt m (o + 4) 2,
    off := leAt m (o + 8) 4, len := leAt m (o + 12) 4 }

/-- All action records. -/
def imgActions (m : List Byte) : List ActionRec :=
  (sectionsOf m 5).flatMap fun x => (List.range x.count).map (actionRecAt m x)

/-- A record of variant `v` or of all variants acts in variant `w`. -/
def varActs (v w : Nat) : Bool := v = 0xFF || v = w

/-- The object of an action record. -/
def actionObj (m : List Byte) (a : ActionRec) : List Byte := slice m a.off a.len

/-- A VARIANT record (R108). -/
structure VariantRec where
  var : Nat
  nkey : Nat
  role : Nat
  keys : List Nat
  deriving DecidableEq, Repr

def variantRecAt (m : List Byte) (o : Nat) : VariantRec :=
  let n := leAt m (o + 1) 1
  { var := leAt m o 1, nkey := n, role := leAt m (o + 2) 2, keys := (List.range n).map fun i => leAt m (o + 8 + 4 * i) 4 }

/-- The VARIANT records of a section: `n` records from an offset. -/
def variantRecs (m : List Byte) : Nat → Nat → List VariantRec
  | 0, _ => []
  | n + 1, o => let r := variantRecAt m o; r :: variantRecs m n (o + 8 + 4 * r.nkey)

/-- All VARIANT records. -/
def imgVariants (m : List Byte) : List VariantRec :=
  (sectionsOf m 6).flatMap fun x => variantRecs m x.count x.off

/-- ROLE of a variant: bit 15 set serves no role. -/
def imgVarRole (m : List Byte) (v : Nat) : Nat :=
  if v = 0 then imgRole m else match (imgVariants m).find? fun r => r.var = v with
    | some r => r.role
    | none => 0x8000

/-- A key covers a member of a failed set (R108). `ext`: the torus extent, for the neighbour of a link. -/
def keyCovers (ext key mem : Nat) : Bool :=
  let a := key % 2 ^ 15
  let b := mem % 2 ^ 15
  if bit key 15 then
    bit mem 15 && ((a = b && bits key 16 3 = bits mem 16 3)
      || (b = neighbourOf a ext (bits key 16 3) && bits mem 16 3 = Nat.xor (bits key 16 3) 1))
  else if bit mem 15 then a = b || neighbourOf b ext (bits mem 16 3) = a
  else a = b

/-- A variant covers a failed set (R108). -/
def variantCovers (m : List Byte) (v : Nat) (failed : List Nat) : Bool :=
  let keys := if v = 0 then [] else match (imgVariants m).find? fun r => r.var = v with
    | some r => r.keys
    | none => []
  failed.all fun f => keys.any fun k => keyCovers (imgExtent m) k f

/-- The covering variant with the fewest keys, and of those the lowest number (R118). -/
def chooseVariant (m : List Byte) (failed : List Nat) : Option Nat :=
  let keysOf (v : Nat) : Nat := if v = 0 then 0 else match (imgVariants m).find? fun r => r.var = v with
    | some r => r.nkey
    | none => 0
  ((List.range (imgNvar m)).filter fun v => variantCovers m v failed).foldl (fun (b : Option Nat) v =>
    match b with
    | none => some v
    | some w => if keysOf v < keysOf w then some v else some w) none

/-! ## Grids (Table 04.1) -/

/-- Scheduling rate of a link: flits per 11 cc. -/
def schedRate (l : Nat) : Nat :=
  if l < 0x10 then 14 else if l < 0x16 then 56 else if l < 0x26 then 154 else 44

/-- Flit times of a grid in `cc` core cycles: ⌊cc·r⌋. -/
def flitTimes (l cc : Nat) : Nat := cc * schedRate l / 11

/-- The cc offset at which flit time `o` begins: ⌊o / r⌋. -/
def flitOffset (l o : Nat) : Nat := 11 * o / schedRate l

/-- The budget of a hop in a step and variant (R48, R105). -/
def slackOf (m : List Byte) (var step keep out : Nat) : Nat :=
  match (imgSlacks m).find? fun r => r.var = var && r.step = step && r.keep = keep && r.out = out with
  | some r => r.slack
  | none => if out < 0x16 then imgSlackExt m else imgSlackD2d m

end Sys2Proof.Machine
end

