-- ==== Sys2Proof/Machine/Collective.lean ====
section
/-! DEFINITION. Collective descriptors, groups, ranks, the canonical tree and the bindings it requires (R174–R181). -/

namespace Sys2Proof.Machine

open Sys2Proof

/-! ## Descriptors (Tables 07.1, 07.3, R176) -/

/-- A binding: BKIND, DIR, RANK and its SID or virtual address. -/
structure Bind where
  kind : Nat
  dir : Nat
  rank : Nat
  val : Nat
  deriving DecidableEq, Repr

/-- A collective descriptor. -/
structure Desc where
  op : Nat
  red : Nat
  inFmt : Nat
  inMx : Bool
  outFmt : Nat
  outMx : Bool
  fanin : Nat
  excl : Bool
  descend : Bool
  norm : Bool
  carry : Bool
  allOut : Bool
  nsteps : Nat
  mask : Nat
  org : List Nat
  cnt : List Nat
  str : List Nat
  e : Nat
  chunkE : Nat
  p0 : Nat
  p1 : Nat
  claim : Nat
  binds : List Bind
  deriving DecidableEq, Repr

/-- Binding `i` of a descriptor. -/
def bindAt (o : List Byte) (i : Nat) : Bind :=
  let a := 48 + 16 * i
  let kind := leAt o a 1
  { kind := kind, dir := leAt o (a + 1) 1, rank := leAt o (a + 4) 4 % 2 ^ 19,
    val := if kind ≤ 2 then leAt o (a + 8) 8 % 2 ^ 20 else leAt o (a + 8) 8 % 2 ^ 57 }

/-- A descriptor read from its bytes. -/
def descOf (o : List Byte) : Desc :=
  let fl := leAt o 5 1
  { op := leAt o 0 1, red := leAt o 1 1, inFmt := leAt o 2 1 % 16, inMx := bit (leAt o 2 1) 4,
    outFmt := leAt o 3 1 % 16, outMx := bit (leAt o 3 1) 4, fanin := leAt o 4 1, excl := bit fl 0, descend := bit fl 1,
    norm := bit fl 2, carry := bit fl 3, allOut := bit fl 4, nsteps := leAt o 6 1, mask := leAt o 8 1,
    org := (List.range 4).map fun i => leAt o (9 + i) 1, cnt := (List.range 4).map fun i => leAt o (13 + i) 1,
    str := (List.range 4).map fun i => leAt o (17 + i) 1, e := leAt o 0x18 4, chunkE := leAt o 0x1C 4,
    p0 := leAt o 0x20 4, p1 := leAt o 0x24 4, claim := leAt o 0x28 2,
    binds := (List.range (leAt o 0x2A 2)).map (bindAt o) }

/-- Axis `a` (0 X, 1 Y, 2 Z, 3 E) is selected. -/
def Desc.sel (d : Desc) (a : Nat) : Bool := bit d.mask a

/-- Members are modules. -/
def Desc.modules (d : Desc) : Bool := bit d.mask 4

/-- CNT of an axis that is selected, else 1 (R177). -/
def Desc.c (d : Desc) (a : Nat) : Nat := if d.sel a then d.cnt.getD a 1 else 1

/-- Sizes of the axes, innermost first: e, z, y, x. -/
def Desc.sizes (d : Desc) : List Nat := [d.c 3, d.c 2, d.c 1, d.c 0]

/-- Group size N. -/
def Desc.n (d : Desc) : Nat := d.c 0 * d.c 1 * d.c 2 * d.c 3

/-! ## Members (R177) -/

/-- Index of a logical coordinate along x, y or z. -/
def axisIndex (ext org cnt str a : Nat) : Option Nat :=
  (List.range cnt).find? fun i => (a + ext - org % ext) % ext = i * str % ext

/-- Indices x, y, z of a role in the family, if it lies in the sub-block. -/
def Desc.roleIndex (d : Desc) (ext role : Nat) : Option (Nat × Nat × Nat) :=
  let f (a : Nat) : Option Nat :=
    axisIndex (cDim ext a + 1) (d.org.getD a 0) (d.cnt.getD a 1) (d.str.getD a 1) (cDim role a)
  match f 0, f 1, f 2 with
  | some x, some y, some z => some (x, y, z)
  | _, _, _ => none

/-- Rank from the four indices (R177). -/
def Desc.rankOf (d : Desc) (x y z e : Nat) : Nat :=
  let i (a v : Nat) : Nat := if d.sel a then v else 0
  ((i 0 x * d.c 1 + i 1 y) * d.c 2 + i 2 z) * d.c 3 + i 3 e

/-- A member hosted on a module: the group it belongs to on this module, and its rank. -/
structure Member where
  grp : Nat
  rank : Nat
  deriving DecidableEq, Repr

/-- Members hosted by a module of a role: one, or one per endpoint; endpoints of an unselected e are groups of their own. -/
def Desc.hosted (d : Desc) (ext role : Nat) : List Member :=
  if bit role 15 then []
  else match d.roleIndex ext (role % 2 ^ 15) with
    | none => []
    | some (x, y, z) =>
      if d.modules then [⟨0, d.rankOf x y z 0⟩]
      else (List.range (d.cnt.getD 3 1)).map fun e => ⟨if d.sel 3 then 0 else e, d.rankOf x y z e⟩

/-! ## The canonical tree (R179) -/

/-- Digits of a rank, innermost axis first. -/
def digits : List Nat → Nat → List Nat
  | [], _ => []
  | n :: l, r => r % n :: digits l (r / n)

/-- The rank of digits. -/
def undigits : List Nat → List Nat → Nat
  | n :: l, i :: m => i % n + n * undigits l m
  | _, _ => 0

/-- Positions relative to the root. -/
def relPos : List Nat → List Nat → List Nat → List Nat
  | n :: l, i :: is, r :: rs => (i + n - r % n) % n :: relPos l is rs
  | _, _, _ => []

/-- Indices from relative positions. -/
def absPos : List Nat → List Nat → List Nat → List Nat
  | n :: l, p :: ps, r :: rs => (p + r) % n :: absPos l ps rs
  | _, _, _ => []

/-- Positions of the children of position `p` along one axis of `n`: levels in ascending width. -/
def levelKids (f n p : Nat) : Nat → Nat → List Nat
  | 0, _ => []
  | fuel + 1, w =>
    if w < n then
      (if p % (w * f) = 0 then
        ((List.range (f - 1)).map fun j => p + (j + 1) * w).filter (· < n) else [])
        ++ levelKids f n p fuel (w * f)
    else []

/-- Relative positions of the children: axes from the innermost, as long as every inner position is 0. -/
def relKids (f : Nat) : List Nat → List Nat → List (List Nat)
  | n :: l, p :: ps =>
    ((levelKids f n p 20 1).map fun q => q :: ps)
      ++ (if p = 0 then (relKids f l ps).map (0 :: ·) else [])
  | _, _ => []

/-- Children of rank `v` in the tree of root `rho`, in list order. -/
def Desc.children (d : Desc) (rho v : Nat) : List Nat :=
  let z := d.sizes
  let r := digits z rho
  (relKids d.fanin z (relPos z (digits z v) r)).map fun q => undigits z (absPos z q r)

/-- The widest level at which a position is a child: the step to its parent. -/
def upStep (f p : Nat) : Nat → Nat → Nat
  | 0, _ => 0
  | fuel + 1, w => if p % (w * f) = 0 then upStep f p fuel (w * f) else p % (w * f)

/-- Relative position of the parent: along the innermost axis with a nonzero position. -/
def relParent (f : Nat) : List Nat → Option (List Nat)
  | [] => none
  | p :: ps => if p = 0 then (relParent f ps).map (0 :: ·) else some ((p - upStep f p 20 1) :: ps)

/-- Parent of rank `v` in the tree of root `rho`; none at the root. -/
def Desc.parent (d : Desc) (rho v : Nat) : Option Nat :=
  let z := d.sizes
  let r := digits z rho
  (relParent d.fanin (relPos z (digits z v) r)).map fun q => undigits z (absPos z q r)

/-! ## Slices and trees (R175, R180) -/

/-- SHARD = ⌈E / N⌉. -/
def Desc.shard (d : Desc) : Nat := cdiv d.e d.n

/-- Operations that reduce. -/
def Desc.reduces (d : Desc) : Bool := 1 ≤ d.op && d.op ≤ 3

/-- Shard operations: one tree per shard or block. -/
def Desc.sharded (d : Desc) : Bool := d.op = 2 || d.op = 3 || d.op = 4

/-- Roots of the trees of an operation (R180). -/
def Desc.roots (d : Desc) : List Nat :=
  if d.sharded then List.range d.n
  else if d.op = 1 || d.op = 5 then [d.p0]
  else if 9 ≤ d.op && d.op ≤ 12 then [0]
  else []

/-- Partials flow toward the root: also in SCAN, whose prefixes are values of nodes of the rank-0 tree (R189). -/
def Desc.upward (d : Desc) : Bool := d.reduces || (9 ≤ d.op && d.op ≤ 12)

/-- Results flow away from the root. -/
def Desc.downward (d : Desc) : Bool := d.op = 2 || d.op = 4 || d.op = 5 || (d.allOut && (d.op = 9 || d.op = 10 || d.op = 12))

/-- Elements of a tree's slice `k`, in the numbering of the tensor the tree works on: first and count. -/
def Desc.treeSlice (d : Desc) (rho k : Nat) : Nat × Nat :=
  if d.op = 2 || d.op = 3 then
    let a := rho * d.shard
    let len := min d.e (a + d.shard) - a
    let x := sliceOf' len d.chunkE k
    (a + x.1, x.2)
  else sliceOf' d.e d.chunkE k
where
  /-- Slice `k` of `total` elements. -/
  sliceOf' (total chunk k : Nat) : Nat × Nat := (k * chunk, min total (k * chunk + chunk) - k * chunk)

/-- Bytes of `n` elements of a format, with the scales of MX behind them. -/
def wireLen (f : Nat) (mx : Bool) (n : Nat) : Nat := packedLen f n + (if mx then cdiv n 32 else 0)

/-- Bytes of a result row of ATTN_COMBINE: m and l in FP32, o in OUT_FMT (R190). -/
def Desc.rowLen (d : Desc) : Nat := 8 + wireLen d.outFmt d.outMx d.p0

/-- Elements of the result tensor. -/
def Desc.resultLen (d : Desc) : Nat := if d.op = 3 then d.shard else if d.op = 4 then d.n * d.e else d.e

/-- Elements of the result that a member receives: under REDUCE_SCATTER its own shard, of which the last may be shorter (R175). -/
def Desc.memberLen (d : Desc) (rank : Nat) : Nat :=
  if d.op = 3 then min d.e ((rank + 1) * d.shard) - rank * d.shard else d.resultLen

/-! ## Required bindings (R176) -/

/-- What a binding is for: leaf data, a child's partial, the partial sent up, the result arriving, the result sent down, the
result delivered to a member, an index or route tensor, row counts. -/
inductive Role where
  | leaf | childIn | up | downIn | down | result | index | counts
  deriving DecidableEq, Repr

/-- A required binding: its use, group, tree root, member or peer rank, and the (BKIND, DIR) pairs it admits. -/
structure Need where
  role : Role
  grp : Nat
  root : Nat
  rank : Nat
  kinds : List (Nat × Nat)
  deriving DecidableEq, Repr

/-- Member `v` supplies leaf data to the operation. -/
def Desc.supplies (d : Desc) (v : Nat) : Bool := if d.op = 5 then v = d.p0 else true

/-- Member `v` receives a result. -/
def Desc.receives (d : Desc) (v : Nat) : Bool :=
  if d.op = 1 then v = d.p0
  else if d.op = 9 || d.op = 10 || d.op = 12 then d.allOut || v = 0
  else true

/-- Bindings of one hosted member, its trees' edges among them: an edge between members of one module needs none. -/
def Desc.memberNeeds (d : Desc) (here : List Nat) (m : Member) : List Need :=
  let v := m.rank
  let stream (a b : Nat) : List (Nat × Nat) := if d.modules then [] else [(a, b)]
  let edges := d.roots.flatMap fun rho =>
    let kids := (d.children rho v).filter fun c => !here.contains c
    let par := match d.parent rho v with
      | some p => if here.contains p then [] else [p]
      | none => []
    (if d.upward then
      (kids.map fun c => (⟨.childIn, m.grp, rho, c, [(1, 0)]⟩ : Need))
        ++ par.map fun _ => ⟨.up, m.grp, rho, v, [(2, 0)]⟩ else [])
      ++ (if d.downward then
        (par.map fun p => (⟨.downIn, m.grp, rho, p, [(1, 1)]⟩ : Need))
          ++ kids.map fun c => ⟨.down, m.grp, rho, c, [(2, 1)]⟩ else [])
  (if d.supplies v then [(⟨.leaf, m.grp, 0, v, (3, 0) :: stream 1 0⟩ : Need)] else [])
    ++ edges
    ++ (if d.receives v then [(⟨.result, m.grp, 0, v, (4, 1) :: stream 2 1⟩ : Need)] else [])
    ++ (if 6 ≤ d.op && d.op ≤ 8 then [(⟨.index, m.grp, 0, v, [(5, 0)]⟩ : Need)] else [])
    ++ (if d.op = 6 then [(⟨.counts, m.grp, 0, v, [(6, 1)]⟩ : Need)] else [])

/-- All required bindings of the hosted members, in order. -/
def Desc.needs (d : Desc) (hosted : List Member) : List Need :=
  hosted.flatMap fun m => d.memberNeeds ((hosted.filter fun x => x.grp = m.grp).map Member.rank) m

/-- A binding serves a need. -/
def serves (b : Bind) (n : Need) : Bool := b.rank = n.rank && n.kinds.contains (b.kind, b.dir)

/-- Bindings matched to needs in order: each need takes the first binding left that serves it. -/
def matchBinds : List Need → List Bind → List (Need × Bind)
  | [], _ => []
  | n :: l, bs =>
    match bs.find? fun b => serves b n with
    | some b => (n, b) :: matchBinds l (bs.erase b)
    | none => matchBinds l bs

/-- The bindings are exactly those required (R176). -/
def Desc.bindsOk (d : Desc) (hosted : List Member) : Bool :=
  let n := d.needs hosted
  (matchBinds n d.binds).length = n.length && n.length = d.binds.length

/-- The binding matched to a use. -/
def bindFor (l : List (Need × Bind)) (role : Role) (grp root rank : Nat) : Option Bind :=
  (l.find? fun x => x.1.role = role && x.1.grp = grp && x.1.root = root && x.1.rank = rank).map (·.2)

/-! ## Wire forms (R184) -/

/-- Format of a partial on the wire. -/
def Desc.wireFmt (d : Desc) : Nat := if d.red = 1 then fSPW96 else d.inFmt

/-- Bytes of a partial of `n` elements. -/
def Desc.partialLen (d : Desc) (n : Nat) : Nat :=
  if d.op = 12 then n * (d.p0 + 2) * 12
  else if d.op = 9 || d.op = 10 then 8 * n
  else if d.red = 1 then 12 * n else wireLen d.inFmt d.inMx n

/-- Members of the subtree of `v`. -/
def Desc.subtree (d : Desc) (rho : Nat) : Nat → Nat → List Nat
  | 0, v => [v]
  | fuel + 1, v => v :: (d.children rho v).flatMap (d.subtree rho fuel)

/-- Rows of a member's leaf and index tensors: M contributions under SCATTER_IDX, M indices under GATHER_IDX, else E (R187). -/
def Desc.leafRows (d : Desc) : Nat := if d.op = 8 then d.p1 else d.e
def Desc.idxRows (d : Desc) : Nat := if d.op = 6 then d.e else d.p1

/-- Rows in slice `k` of a tensor of `n` rows; the last slice of a run takes what is left (log 19). -/
def Desc.rowsIn (d : Desc) (n k : Nat) : Nat :=
  (if k + 1 = d.nsteps then n else min n (k * d.chunkE + d.chunkE)) - k * d.chunkE

/-- Records of a merged run under a rank of the rank-0 tree. -/
def Desc.subLen (d : Desc) (v : Nat) : Nat :=
  let n := (d.subtree 0 100 v).length * d.e
  if d.op = 10 then min n d.p0 else n

/-- What slice `k` of an in-stream is when it is coded: its format, MX and elements; none where no format of the codec describes
it. Records of 8 bytes are pairs of INT32 words (R184, R205, R213; log 197). -/
def Desc.streamForm (d : Desc) (n : Need) (k : Nat) : Option (Nat × Bool × Nat) :=
  let flat := (d.treeSlice 0 k).2
  let f : Option (Nat × Bool × Nat) := match n.role with
    | .leaf =>
      if d.op = 12 then some (fFP32, false, flat * (d.p0 + 2))
      else if d.op = 9 || d.op = 10 then some (fINT32, false, 2 * d.rowsIn d.e k)
      else if 6 ≤ d.op && d.op ≤ 8 then some (d.inFmt, d.inMx, d.rowsIn d.leafRows k * d.p0)
      else if d.op = 2 || d.op = 3 then some (d.inFmt, d.inMx, sumL (d.roots.map fun r => (d.treeSlice r k).2))
      else some (d.inFmt, d.inMx, (d.treeSlice n.rank k).2)
    | .childIn =>
      if d.op = 12 then none
      else if d.op = 9 || d.op = 10 then some (fINT32, false, 2 * d.subLen n.rank)
      else if d.red = 1 then none
      else some (d.inFmt, d.inMx, (d.treeSlice n.root k).2)
    | .downIn =>
      if d.op = 9 || d.op = 10 then some (fINT32, false, 2 * d.subLen 0)
      else if d.op = 12 then (if d.outFmt = fFP32 && !d.outMx then some (fFP32, false, flat * (d.p0 + 2)) else none)
      else some (d.outFmt, d.outMx, (d.treeSlice n.root k).2)
    | _ => none
  match f with
  | some x => if sparseFmt x.1 x.2.1 then some x else none
  | none => none

/-- Bytes of a child's partial that step `k` consumes: those of slice `k`; a merged run comes whole, in the last step (log 19). -/
def Desc.foldLen (d : Desc) (root child k : Nat) : Nat :=
  if d.op = 9 || d.op = 10 then (if k + 1 = d.nsteps then 8 * d.subLen child else 0)
  else d.partialLen (d.treeSlice root k).2

/-- Bytes of a result that returns, as a step counts them: a merged run whole, in the last step (log 19). -/
def Desc.backLen (d : Desc) (root k : Nat) : Nat :=
  if d.op = 9 || d.op = 10 then (if k + 1 = d.nsteps then 8 * d.subLen 0 else 0)
  else if d.op = 12 then (d.treeSlice root k).2 * d.rowLen
  else wireLen d.outFmt d.outMx (d.treeSlice root k).2

/-- Operand bytes of a step for one required binding (R172, R173). -/
def Desc.needBytes (d : Desc) (n : Need) (k : Nat) : Nat :=
  let flat := min d.e (k * d.chunkE + d.chunkE) - k * d.chunkE
  let leafN := if d.op = 2 || d.op = 3 then sumL (d.roots.map fun rho => (d.treeSlice rho k).2) else flat
  match n.role with
  | .leaf =>
    if d.op = 12 then flat * (d.p0 + 2) * 4
    else if d.op = 9 || d.op = 10 then 8 * flat
    else if 6 ≤ d.op && d.op ≤ 8 then wireLen d.inFmt d.inMx (d.rowsIn d.leafRows k * d.p0)
    else wireLen d.inFmt d.inMx leafN
  | .childIn => d.foldLen n.root n.rank k
  | .downIn => d.backLen n.root k
  | .index => 4 * d.rowsIn d.idxRows k * (if d.op = 6 then d.p1 % 65536 else 1)
  | .result => if d.op = 8 && d.red ≠ 0 then wireLen d.outFmt d.outMx (flat * d.p0) else 0
  | .up | .down | .counts => 0

/-- Operand bytes of a step of a descriptor on this module (R172, R173). -/
def Desc.stepBytes (d : Desc) (hosted : List Member) (k : Nat) : Nat := sumL ((d.needs hosted).map fun n => d.needBytes n k)

end Sys2Proof.Machine
end

