-- ==== Sys2Proof/Machine/Sched.lean ====
section
/-! DEFINITION. The scheduled plane: plan banks in force, arriving flits, their check and their consumption, and sending
(R44–R48, R97–R100, R104, R109). -/

namespace Sys2Proof.Machine

open Sys2Proof

/-! ## The plan in force -/

/-- A bank's state set. -/
def State.setBankState (s : State) (b v : Nat) : State := s.wr (pgKeep 0) (if b = 0 then Pln.A_STATE else Pln.B_STATE) v

/-- The contents of a bank. -/
def State.bank (s : State) (b : Nat) : Option Bank := if b = 0 then s.bankA else s.bankB

/-- The contents of a bank replaced. -/
def State.setBank (s : State) (b : Nat) (x : Option Bank) : State :=
  if b = 0 then { s with bankA := x } else { s with bankB := x }

/-- The image in force, if any. -/
def State.image (s : State) : Option (List Byte) :=
  if s.planOn then (s.bank s.active).map Bank.image else none

/-- Current step index and variant. -/
def State.stepIdx (s : State) : Nat := s.rd (pgKeep 0) Pln.STEP_IDX
def State.varCur (s : State) : Nat := s.rd (pgKeep 0) Pln.VAR_CUR

/-- Plan state of the current tick: a skipped or held tick has no plan step (R51). -/
def State.planTick (s : State) : PlanTick :=
  { tick := s.now, bank := s.active, step := s.stepIdx, var := s.varCur, runs := s.planOn && !s.skipped }

/-- The image of a plan state, none where it has no plan step. -/
def State.imageOf (s : State) (p : PlanTick) : Option (List Byte) :=
  if p.runs then (s.bank p.bank).map Bank.image else none

/-- An update of the scheduled plane. -/
def State.setSched (s : State) (x : Sched) : State := { s with sched := x }

/-! ## RECV records (R44, R100) -/

/-- Flit times of the runs of a list of records in ascending order, ordinary runs before OVF runs (R99, R109). -/
def runTimes (l : List SlotRec) : List Nat :=
  let ord := (l.filter fun r => !r.ovf).flatMap fun r => (List.range r.count).map (r.ft + ·)
  let ovf := (l.filter fun r => r.ovf).flatMap fun r => (List.range r.count).map (r.ft + ·)
  ord.mergeSort (· ≤ ·) ++ ovf.mergeSort (· ≤ ·)

/-- RECV records of a link and stream in a plan state. -/
def recvRecs (m : List Byte) (p : PlanTick) (l sid : Nat) : List SlotRec :=
  (slotsAt m p.var p.step).filter fun r => r.recv && r.out = l && r.sid = sid

/-- RECV flit times of a link and stream in a plan state. -/
def recvTimes (m : List Byte) (p : PlanTick) (l sid : Nat) : List Nat := runTimes (recvRecs m p l sid)

/-- Links and streams that a plan state has RECV records for, each once. -/
def recvHops (m : List Byte) (p : PlanTick) : List (Nat × Nat) :=
  (((slotsAt m p.var p.step).filter fun r => r.recv).map fun r => (r.out, r.sid)).eraseDups

/-! ## Arrivals (R43–R46, R100) -/

/-- A scheduled flit discarded under R46: counted by its Keep, with the Belfry's SKEW bit (Table 02.6). -/
def State.discardSkew (s : State) (l : Nat) : State :=
  (s.bump (pgKeep (keepOfLink l)) Slt.SCHED_DISCARD).err pgBelfry 0

/-- A scheduled flit discarded under R100. -/
def State.discardStray (s : State) (l : Nat) : State :=
  (s.bump (pgKeep (keepOfLink l)) Slt.SCHED_DISCARD).err (pgKeep (keepOfLink l)) 13

/-- Payload class of a scheduled flit is assigned (R99). -/
def schedOpcode (op : Nat) : Bool := op ≤ 3

/-- Flits accepted so far of a link, stream and stamp. -/
def State.schedCount (s : State) (l sid stamp : Nat) : Nat := AL.getD s.sched.counts (l, sid, stamp) 0

/-- The check of R100 against the plan state of the stamped tick. -/
def State.schedOk (s : State) (p : PlanTick) (l stamp : Nat) (f : Flit) : Bool :=
  match s.imageOf p with
  | none => false
  | some m =>
    f.epoch = p.bank && f.tag = p.step % 2 ^ 16 && schedOpcode f.opcode
      && !(recvRecs m p l f.stream).isEmpty
      && s.schedCount l f.stream stamp < (recvTimes m p l f.stream).length

/-- Bytes that wait in the landing region of a plan bank in a Keep. -/
def State.landedBytes (s : State) (k b : Nat) : Nat :=
  256 * (s.sched.landing.filter fun x => keepOfLink x.1 = k && x.2.2.epoch = b).length

/-- Bytes of the landing region of a plan bank in a Keep (R112, R115): LAND_SIZE for the bank in force. -/
def State.landRoom (s : State) (k b : Nat) : Nat :=
  if b = s.active then s.rd (pgKeep k) Slt.LAND_SIZE else 64 * AL.getD s.opn.landing (k, b) 0

/-- A flit takes its place in the landing region of the plan bank it was checked under (R45, R115), or finds it full (R100,
R117). -/
def State.landFlit (s : State) (l stamp : Nat) (f : Flit) : State :=
  let k := keepOfLink l
  if s.landedBytes k f.epoch + 256 ≤ s.landRoom k f.epoch then
    s.setSched { s.sched with
      landing := s.sched.landing ++ [(l, stamp, f)]
      counts := AL.put s.sched.counts (l, f.stream, stamp) (s.schedCount l f.stream stamp + 1)
      lasts := if f.last then AL.put s.sched.lasts (l, f.stream, stamp) f.chunk else s.sched.lasts }
  else s.discardStray l

/-- A flit checked against the plan state of its stamped tick, and landed. -/
def State.schedCheck (s : State) (p : PlanTick) (l stamp : Nat) (f : Flit) : State :=
  if s.schedOk p l stamp f then s.landFlit l stamp f else s.discardStray l

/-- The flit time of a flit on its input: the j-th of the stream's RECV times for chunk j (R99). -/
def State.flitTimeOf (s : State) (p : PlanTick) (l : Nat) (f : Flit) : Option Nat :=
  match s.imageOf p with
  | some m => (recvTimes m p l f.stream)[f.chunk]?
  | none => none

/-- A scheduled flit arrives (R43, R46, R100). One stamped with the next tick waits unchecked for the plan state of that
tick, which its boundary settles. -/
def State.schedFlit (s : State) (l : Nat) (f : Flit) : State :=
  if !s.joined then s.bump (pgKeep (keepOfLink l)) Slt.SCHED_DISCARD
  else
    let t := fullStamp s.now f.tick16
    let n := tickDiff t s.now
    if n = 0 then s.schedCheck s.planTick l t f
    else if n = -1 then
      let late : Bool := s.planTick.runs && match s.flitTimeOf s.sched.prev l f with
        | some o => s.offset > flitOffset l o
        | none => false
      if s.sched.prev.tick ≠ t then s.discardStray l
      else if late then s.discardSkew l
      else s.schedCheck s.sched.prev l t f
    else if n = 1 then s.setSched { s.sched with landing := s.sched.landing ++ [(l, t, f)] }
    else s.discardSkew l

/-- SCHEDULED_FLIT_RECEIVE (R46); a flit whose header check fails is discarded and missing (R61). -/
def execScheduledFlitReceive (link : Nat) (f : Flit) (s : State) : Host.Outcome State Fault Refusal :=
  .next (if link < 0x16 && f.kind = 0 then
      (if f.hcrcOk then s.schedFlit link f else s.headerDiscard (keepOfLink link))
    else s)

/-- Early flits meet the plan state of the tick that has just begun (R100). -/
def State.recheckEarly (s : State) : State :=
  let mine := s.sched.landing.filter fun x => x.2.1 = s.now
  mine.foldl (fun t x => t.schedCheck t.planTick x.1 x.2.1 x.2.2)
    (s.setSched { s.sched with landing := s.sched.landing.filter fun x => x.2.1 ≠ s.now })

/-! ## Sending (R98, R99, R104) -/

/-- The flit of a chunk (R58, R59, R99): stream and chunk index in the place of the coordinates; FIRST is 0 (log 185). -/
def chunkFlit (p : PlanTick) (sid j : Nat) (c : Chunk) : Flit :=
  FlitSpec.flit {
    kind := 0, epoch := p.bank, vc := 0, poison := c.poison, dst := sid % 2 ^ 19, dstM := false
    src := sid / 2 ^ 19 % 2 + 2 * (j % 2 ^ 18), srcM := false, first := false, last := c.last, tick := p.tick
    tag := p.step, opcode := c.op, payload := c.bytes.take c.len }

/-- A chunk sent on in the current plan step, in the flit times that the slot records give each hop: out of the module where the link
carries traffic (Table 03.6), or over a die-to-die link to the next Keep; one Keep–Keep link at most (R22, R99). -/
def State.sendChunk (m : List Byte) (p : PlanTick) : Nat → State → Nat → Nat → Nat → Chunk → State
  | 0, s, _, _, _, _ => s
  | fuel + 1, s, inp, sid, j, c =>
    let recs := (slotsAt m p.var p.step).filter fun r => !r.recv && r.inp = inp && r.sid = sid && r.out ≠ inp
    (recs.map (·.out)).eraseDups.foldl (fun t out =>
      if (runTimes (recs.filter fun r => r.out = out)).length ≤ j then t
      else if out < 0x16 then (if t.carries out then t.sendFlit out (chunkFlit p sid j c) else t)
      else if 0x20 ≤ inp && inp ≤ 0x25 && out ≤ 0x25 then t
      else State.sendChunk m p fuel t out sid j c) s

/-- A chunk reaches this module's Keeps at an input: it is sent on, and kept for a unit where the stream ends here. -/
def State.takeChunk (s : State) (m : List Byte) (inp sid j : Nat) (c : Chunk) : State :=
  let s1 := State.sendChunk m s.planTick 4 s inp sid j c
  match imgStream m sid with
  | some r =>
    if r.terminal && 0x10 ≤ r.sink then
      s1.setSched { s1.sched with inbox := AL.put s1.sched.inbox (sid, j) c }
    else s1
  | none => s1

/-- The Keep–Cupola input of a stream that starts on this module: the IN of its slot records. -/
def originLinks (m : List Byte) (p : PlanTick) (sid : Nat) : List Nat :=
  (((slotsAt m p.var p.step).filter fun r => !r.recv && r.sid = sid && 0x40 ≤ r.inp && r.inp ≤ 0x5F).map (·.inp)).eraseDups

/-- Every staged stream is sent in the plan step that starts (R99). Chunks beyond the flit times of a hop are not sent. -/
def State.sendStaged (s : State) : State :=
  match s.imageOf s.planTick with
  | none => s
  | some m =>
    let s1 := s.sched.outbox.foldl (fun (t : State) (x : Nat × List Chunk) =>
      (originLinks m s.planTick x.1).foldl (fun t inp =>
        (List.range x.2.length).foldl (fun t j =>
          match x.2[j]? with
          | some c => State.sendChunk m s.planTick 5 t inp x.1 j c
          | none => t) t) t) s
    s1.setSched { s1.sched with outbox := [] }

/-! ## Consumption (R44–R46) -/

/-- The flit of a link, stream, stamp and chunk waiting in the landing region. -/
def State.landed (s : State) (l sid stamp j : Nat) : Option Flit :=
  (s.sched.landing.find? fun x => x.1 = l && x.2.1 = stamp && x.2.2.stream = sid && x.2.2.chunk = j).map (·.2.2)

/-- A missing chunk: the consuming unit treats the data as poisoned (R46). -/
def lostChunk : Chunk := { op := 0, poison := true, bytes := List.replicate 240 0 }

/-- A coded stream's slice has ended before position `j`: its flit times beyond the flit marked LAST carry nothing
(R109, R211). -/
def State.codedEnd (s : State) (m : List Byte) (l sid stamp j : Nat) : Bool :=
  (match imgStream m sid with
   | some r => r.coded
   | none => false) &&
  (match AL.get s.sched.lasts (l, sid, stamp) with
   | some k => k < j
   | none => false)

/-- A chunk is missing at its consumption: overrun with cause MISSING, and poisoned data for the unit that consumes it (R46). -/
def State.missChunk (s : State) (m : List Byte) (l sid j o : Nat) : State :=
  let s2 := s.overrun (if l < 16 then tyEndpoint else tyTorus) (if l < 16 then l else l - 16) 3 (l + 256 * min o 0xFFFF)
  match imgStream m sid with
  | some r => if r.terminal && 0x10 ≤ r.sink then
      s2.setSched { s2.sched with inbox := AL.put s2.sched.inbox (sid, j) lostChunk } else s2
  | none => s2

/-- The consumption of RECV position `j` of a link and stream, at flit time `o` (R46). -/
def State.consumeAt (s : State) (m : List Byte) (l sid j o : Nat) : State :=
  let stamp := s.sched.prev.tick
  if s.sched.taken.contains (l, sid, j) then s
  else
    let s1 := s.setSched { s.sched with taken := (l, sid, j) :: s.sched.taken }
    match s.landed l sid stamp j with
    | some f =>
      let s2 := s1.setSched { s1.sched with landing := s1.sched.landing.filter fun x =>
        !(x.1 = l && x.2.1 = stamp && x.2.2.stream = sid && x.2.2.chunk = j) }
      match s2.flitRead (.landing l sid stamp j) f with
      | (some f, s3) => s3.takeChunk m l sid j
          { op := f.opcode, poison := f.poison, bytes := padTo 240 f.payload, last := f.last, len := 16 * f.len }
      | (none, s3) => s3.missChunk m l sid j o
    | none => if s.codedEnd m l sid stamp j then s1 else s1.missChunk m l sid j o

/-- Positions of a flit time among a list. -/
def posOf (l : List Nat) (o : Nat) : Option Nat := (List.range l.length).find? fun i => l.getD i 0 = o

/-- The image whose RECV records the current tick consumes: data of the last plan step, in a tick with a plan step (a
skipped tick consumes nothing, R51; log 17). -/
def State.consumeImage (s : State) : Option (List Byte) :=
  if s.planTick.runs then s.imageOf s.sched.prev else none

/-- FLIT_CONSUME: flit time `o` of a link and stream reaches its consumption offset (R44–R46). -/
def State.consume (s : State) (l sid o : Nat) : State :=
  match s.consumeImage with
  | some m =>
    match posOf (recvTimes m s.sched.prev l sid) o with
    | some j => if flitOffset l o ≤ s.offset then s.consumeAt m l sid j o else s
    | none => s
  | none => s

/-! ## Slack (R47, R48) -/

/-- The Keep whose section budgets a link direction, and the page that records an overrun of it (Table 02.4). -/
def slackKeep (l dir : Nat) : Nat :=
  if l < 0x16 then keepOfLink l
  else if l < 0x26 then
    let p := ([(0, 1), (0, 2), (0, 3), (1, 2), (1, 3), (2, 3)] : List (Nat × Nat)).getD (l - 0x20) (0, 1)
    if dir = 0 then p.1 else p.2
  else (l - 0x40) / 8

/-- A link direction carries scheduled flits in a plan state, and so is a hop (R48): a slot record of the transmitting Keep names
it as OUT; the Cupola-to-Keep direction is named as IN. -/
def hopUsed (m : List Byte) (var step l dir : Nat) : Bool :=
  (slotsAt m var step).any fun r => !r.recv &&
    (if 0x40 ≤ l && dir = 1 then decide (r.inp = l) else decide (r.out = l) && (l < 0x20 || r.keep = slackKeep l dir))

/-- Overruns of the links over their budget in the ending tick, lower link IDs first (R48, R50). The direction bit of
OVR_DETAIL is 1 only for the Cupola-to-Keep direction. -/
def State.slackOverruns (s : State) : State :=
  match s.imageOf s.planTick with
  | none => s
  | some m =>
    let exc := s.belfry.charges.filterMap fun (x : (Nat × Nat) × Nat) =>
      let l := x.1.1
      let dir := x.1.2
      let k := slackKeep l dir
      let budget := slackOf m s.varCur s.stepIdx k l
      if x.2 > budget && hopUsed m s.varCur s.stepIdx l dir then
        let d := l + (if 0x40 ≤ l && dir = 1 then 256 else 0) + min (x.2 - budget) 0xFFFF * 65536
        some (if l < 16 then (⟨tyEndpoint, l, 2, d⟩ : Overrun)
          else if l < 0x16 then ⟨tyTorus, l - 16, 2, d⟩ else ⟨tyKeep, k, 2, d⟩)
      else none
    let key (o : Overrun) : Nat := 2 * (o.detail % 256) + bits o.detail 8 1
    let sorted := exc.mergeSort fun a b => key a ≤ key b
    s.setBelfry { s.belfry with overruns := s.belfry.overruns ++ sorted }

end Sys2Proof.Machine
end

