-- ==== Sys2Proof/Machine/Translate.lean ====
section
/-! DEFINITION. Fabric addresses, the Fabric Segment Table and the checks of open-plane memory requests that need no
access (R10, R11, R300, R305–R310). -/

namespace Sys2Proof.Machine

open Sys2Proof

/-! ## FST entries (Table 12.1) -/

/-- The eight words of an entry. -/
def State.fstEntry (s : State) (i : Nat) : List Nat := AL.getD s.fst i [0, 0, 0, 0, 0, 0, 0, 0]

/-- Word `w` of an entry. -/
def fw (e : List Nat) (w : Nat) : Nat := e.getD w 0

def fstValid (e : List Nat) : Bool := bit (fw e 0) 0
def fstState (e : List Nat) : Nat := bits (fw e 0) 1 2
def fstRd (e : List Nat) : Bool := bit (fw e 0) 3
def fstWr (e : List Nat) : Bool := bit (fw e 0) 4
def fstAt (e : List Nat) : Bool := bit (fw e 0) 5
def fstFreeze (e : List Nat) : Bool := bit (fw e 0) 6
def fstSparse (e : List Nat) : Bool := bit (fw e 0) 7
def fstMirrored (e : List Nat) : Bool := bit (fw e 0) 8
def fstSize (e : List Nat) : Nat := bits (fw e 0) 10 6
def fstSpace (e : List Nat) : Nat := bits (fw e 0) 16 9
def fstLog (e : List Nat) : Nat := bits (fw e 1) 0 15
def fstPartner (e : List Nat) : Nat := bits (fw e 1) 16 15
/-- Virtual offset of the segment base. -/
def fstVbase (e : List Nat) : Nat := bits (fw e 2) 0 21 * 2 ^ 21
/-- Local offset of the segment base. -/
def fstLbase (e : List Nat) : Nat := bits (fw e 3) 0 19 * 2 ^ 21
def fstOwner (e : List Nat) : Nat := bits (fw e 4) 0 8
def fstPin (e : List Nat) : Nat := bits (fw e 5) 0 16

/-- The indices of valid entries. -/
def State.fstValids (s : State) : List Nat :=
  (s.fst.filter fun x => fstValid x.2 && x.1 < 4096).map (·.1)

/-- FST_USED: valid entries. -/
def State.fstUsed (s : State) : Nat := s.fstValids.length

/-- Entry matches a VA (L, v) (R307). -/
def fstMatches (e : List Nat) (log v : Nat) : Bool :=
  fstValid e && fstLog e = log && v / 2 ^ fstSize e = fstVbase e / 2 ^ fstSize e

/-- The index of the entry that matches a VA; at most one does (R307, R308). -/
def State.fstFind (s : State) (log v : Nat) : Option Nat :=
  s.fstValids.find? fun i => fstMatches (s.fstEntry i) log v

/-- Logical module and virtual offset of a VA (R305). -/
def vaLog (va : Nat) : Nat := bits va 42 15
def vaOff (va : Nat) : Nat := bits va 0 42

/-- The local address of a VA under its entry (R307). -/
def fstLocal (e : List Nat) (v : Nat) : Nat := fstLbase e + v % 2 ^ fstSize e

/-! ## Regions (R126, R300) -/

def gib : Nat := 2 ^ 30

/-- Two half-open ranges meet. -/
def meets (a n b m : Nat) : Bool := a < b + m && b < a + n && n ≠ 0 && m ≠ 0

/-- A local HBM range meets a system region, with the given SYS_GIB of each stack (R300). -/
def State.meetsSystem (s : State) (a n : Nat) : Bool :=
  (List.range 16).any fun st => meets a n (st * 64 * gib) (s.rd (pgHbm st) Hbm.SYS_GIB * gib)

/-- A local HBM range meets an overflow region (R126). -/
def State.meetsOverflow (s : State) (a n : Nat) : Bool :=
  (List.range 4).any fun k =>
    meets a n (s.rd (pgKeep k) Opn.OVF_BASE * gib) (s.rd (pgKeep k) Opn.OVF_SIZE * gib)

/-! ## FST commits (R308) -/

/-- Only the bits of a mask are set. -/
def within (v mask : Nat) : Bool := Nat.land v mask = v

/-- Reserved bits and values of an entry (R9, Table 12.1): of an invalid entry only the reserved bits (log 14). -/
def fstEncodingBad (e : List Nat) : Bool :=
  !within (fw e 0) 0x01FFFDFF || !within (fw e 1) 0x7FFF7FFF || !within (fw e 2) 0x1FFFFF || !within (fw e 3) 0x7FFFF
    || !within (fw e 4) 0xFF || !within (fw e 5) 0xFFFF || fw e 6 ≠ 0 || fw e 7 ≠ 0
    || (fstValid e &&
      (2 ≤ fstState e || !(fstOwner e = 0 || (0x20 ≤ fstOwner e && fstOwner e ≤ 0x27))
        || !((fstSpace e = 0 && 21 ≤ fstSize e && fstSize e ≤ 36) || (fstSpace e = 1 && fstSize e = 21))))

/-- A field other than FREEZE or STATE changes, or VALID clears (R308). -/
def fstPinnedChange (old new : List Nat) : Bool :=
  let mask (w : Nat) : Nat := w - bits w 1 2 * 2 - bits w 6 1 * 64
  mask (fw old 0) ≠ mask (fw new 0) || fw old 1 ≠ fw new 1 || fw old 2 ≠ fw new 2 || fw old 3 ≠ fw new 3
    || fw old 4 ≠ fw new 4

/-- Alignment and extent of a valid entry (R308 RANGE). -/
def fstRangeBad (e : List Nat) : Bool :=
  fstValid e &&
    (fstVbase e % 2 ^ fstSize e ≠ 0 || fstLbase e % 2 ^ fstSize e ≠ 0
      || (fstSpace e = 0 && fstLbase e / 2 ^ 36 ≠ (fstLbase e + 2 ^ fstSize e - 1) / 2 ^ 36)
      || (fstSpace e = 1 && 2 ^ 29 ≤ fstLbase e))

/-- Another valid entry matches a VA of the segment, or shares local bytes (R308 OVERLAP). -/
def State.fstOverlapBad (s : State) (i : Nat) (e : List Nat) : Bool :=
  fstValid e && s.fstValids.any fun j =>
    let o := s.fstEntry j
    j ≠ i &&
      ((fstLog o = fstLog e && meets (fstVbase o) (2 ^ fstSize o) (fstVbase e) (2 ^ fstSize e))
        || (fstSpace o = fstSpace e && meets (fstLbase o) (2 ^ fstSize o) (fstLbase e) (2 ^ fstSize e)))

/-- The local range meets a system or overflow region (R308 RESERVED). -/
def State.fstReservedBad (s : State) (e : List Nat) : Bool :=
  fstValid e && fstSpace e = 0 &&
    (s.meetsSystem (fstLbase e) (2 ^ fstSize e) || s.meetsOverflow (fstLbase e) (2 ^ fstSize e))

/-- The first check that refuses a commit, in the table's order (R308). -/
def State.fstRefusal (s : State) (i : Nat) (e : List Nat) : Option Nat :=
  let old := s.fstEntry i
  if fstEncodingBad e then some 5
  else if fstPin old ≠ 0 && fstPinnedChange old e then some 3
  else if fstRangeBad e then some 4
  else if s.fstOverlapBad i e then some 1
  else if s.fstReservedBad e then some 2
  else none

/-- The entry in FST_DATA; PIN is read-only and keeps its value (Table 12.1). -/
def State.fstData (s : State) (i : Nat) : List Nat :=
  let d := (List.range 8).map fun w => s.rd (pgKeep 0) Fst.FST_DATA w
  d.set 5 (fw d 5 / 65536 * 65536 + fstPin (s.fstEntry i))

/-- FST_COMMIT: the entry replaced, or the first refusal recorded (R308). The pair check of a mirrored entry is Watch's. -/
def State.fstCommit (s : State) : State :=
  let i := s.rd (pgKeep 0) Fst.FST_INDEX
  let e := s.fstData i
  match s.fstRefusal i e with
  | none => { s with fst := AL.put s.fst i e }
  | some code =>
    if s.rdb (pgKeep 0) Fst.FST_ERR_V then s.again (pgKeep 0) Fst.FST_ERR_V
    else s.wrs (pgKeep 0) [(Fst.FST_ERR_V, 1), (Fst.FST_ERR, code), (Fst.FST_ERR_IDX, i)]

/-- FST_READ: the entry copied into FST_DATA (R308). -/
def State.fstRead (s : State) : State :=
  let e := s.fstEntry (s.rd (pgKeep 0) Fst.FST_INDEX)
  (List.range 8).foldl (fun t w => t.put (pgKeep 0) Fst.FST_DATA w (fw e w)) s

/-- FST_READ (R308). -/
def execFstRead (s : State) : Host.Outcome State Fault Refusal := .next s.fstRead

/-! ## Requests (R309) -/

/-- A memory request read from its payload (Table 12.2). -/
structure Req where
  opcode : Nat
  addr : Nat
  size : Nat
  attr : Nat
  fmt : Nat
  data : List Byte
  deriving DecidableEq, Repr

/-- The request a flit carries. -/
def reqOf (f : Flit) : Req :=
  { opcode := f.opcode, addr := leAt f.payload 0 8, size := leAt f.payload 8 1, attr := leAt f.payload 9 1,
    fmt := leAt f.payload 10 1, data := padTo (leAt f.payload 8 1) (slice f.payload 16 (leAt f.payload 8 1)) }

/-- The payload of a request (Table 12.2). -/
def reqPayload (addr size attr fmt : Nat) (data : List Byte) : List Byte :=
  leBytes 8 addr ++ leBytes 1 size ++ leBytes 1 attr ++ leBytes 1 fmt ++ leBytes 5 0 ++ data

/-- VIRT of a request. -/
def Req.virt (r : Req) : Bool := bit r.attr 0

/-- An atomic opcode. -/
def isAtomic (op : Nat) : Bool := op = 3 || op = 4

/-- Element width in bytes of an atomic format (R313); 0 for one not admitted. -/
def atomWidth (fmt : Nat) : Nat := if fmt = 0 then 4 else if fmt = 1 || fmt = 2 then 2 else if fmt = 9 then 4 else 0

/-- Largest SIZE of an opcode (Table 12.2). -/
def maxSize (op : Nat) : Nat := if op = 1 || op = 2 then 128 else if isAtomic op then 16 else 224

/-- Step 1 of R310: a reserved ATTR or ADDR bit or FMT, or a SIZE of 0 or beyond Table 12.2. -/
def formatBad (f : Flit) : Bool :=
  let r := reqOf f
  2 ≤ r.attr || (r.virt && 2 ^ 57 ≤ r.addr) || r.size = 0 || r.size > maxSize r.opcode
    || (isAtomic r.opcode && atomWidth r.fmt = 0)

/-- SPACE and OFFSET of a fabric address (R10). -/
def faSpace (a : Nat) : Nat := bits a 40 9
def faOff (a : Nat) : Nat := bits a 0 40
/-- Home coordinate of a fabric address. -/
def faHome (a : Nat) : Nat := bits a 49 15

/-- Step 2 of R310: SIZE or alignment against Table 12.2. -/
def alignBad (f : Flit) : Bool :=
  let r := reqOf f
  (if isAtomic r.opcode then !([4, 8, 16].contains r.size) || r.addr % r.size ≠ 0
   else if r.opcode = 1 || r.opcode = 2 then r.addr / 128 ≠ (r.addr + r.size - 1) / 128
   else r.addr / 2 ^ 21 ≠ (r.addr + r.size - 1) / 2 ^ 21)
    || (!r.virt && faSpace r.addr = 3 && (r.size ≠ 4 || r.addr % 4 ≠ 0))

/-- An address fault under R11, the coordinate apart: a reserved SPACE, or an OFFSET beyond the populated size. -/
def addrFault (r : Req) : Bool :=
  let o := faOff r.addr
  match faSpace r.addr with
  | 0 => 2 ^ 40 < o + r.size
  | 1 => 2 ^ 29 < o + r.size
  | 2 => 2 ^ 28 < o + r.size
  | 3 => 2 ^ 32 ≤ o || (pageAt o).isNone
  | _ => true

/-- Steps 1 to 3 of R310. `coordOk`: the home coordinate lies in the extent. -/
def checkReq (f : Flit) (coordOk : Bool) : Option Nat :=
  let r := reqOf f
  if formatBad f then some 1
  else if alignBad f then some 2
  else if !r.virt then
    if !f.srcM then some 6
    else if !coordOk || addrFault r then some 3
    else if faSpace r.addr = 3 && !(r.opcode = 1 || r.opcode = 2) then some 6
    else none
  else none

end Sys2Proof.Machine
end

