-- ==== Sys2Proof/Machine/PlanUnit.lean ====
section
/-! DEFINITION. What the planned units share: pinned HBM operands, poison, slices of streams, and the runs in their slots
(R175, R184, R197, R313–R315). -/

namespace Sys2Proof.Machine

open Sys2Proof

/-! ## Pinned operands -/

/-- The FST entry and local HBM offset of a virtual address; an operand of a plan is pinned and always has one. -/
def State.vaEntry (s : State) (va : Nat) : Option (Nat × Nat) :=
  match s.fstFind (vaLog va) (vaOff va) with
  | some i => some (i, fstLocal (s.fstEntry i) (vaOff va))
  | none => none

/-- Local offset of a pinned operand. -/
def State.vaLoc (s : State) (va : Nat) : Nat := ((s.vaEntry va).map (·.2)).getD 0

/-- The segment of an operand is frozen for the step (R313). -/
def State.vaFrozen (s : State) (va : Nat) : Bool :=
  match s.vaEntry va with
  | some (i, _) => s.frozenNow.contains i
  | none => false

/-- A line that a read finds poisoned or uncorrectable. -/
def State.lineBad (s : State) (sp line : Nat) : Bool :=
  match s.decoded sp line with
  | .clean | .corrected => false
  | .poisoned | .address | .uncorrectable => true

/-- A byte range of a space reads poisoned. -/
def State.badAt (s : State) (sp off n : Nat) : Bool := (linesOf off n).any (s.lineBad sp)

/-- A byte range of HBM reads poisoned. -/
def State.hbmBad (s : State) (loc n : Nat) : Bool := s.badAt spHbm loc n

/-- Element `i` of an array of format `f` at a local offset: its encoding. -/
def State.hbmElem (s : State) (loc f i : Nat) : Nat :=
  let b := fmtBits f
  bits (leNat (s.planPeek spHbm (loc + i * b / 8) (cdiv (i * b % 8 + b) 8))) (i * b % 8) b

/-- Element `i` of an array reads poisoned. -/
def State.hbmElemBad (s : State) (loc f i : Nat) : Bool :=
  let b := fmtBits f
  s.hbmBad (loc + i * b / 8) (cdiv (i * b % 8 + b) 8)

/-- An element with its poison. -/
abbrev PElem := Elem × Bool

/-- The scale array of a dense MX operand starts at the end of its elements rounded up to 64 bytes (log 18). -/
def mxScaleOff (f e : Nat) : Nat := cdiv (packedLen f e) 64 * 64

/-- Element `i` of a dense operand of `e` elements, scaled when it is MX. The recorded format has bit 4 set for MX. -/
def State.opElem (s : State) (loc f : Nat) (mx : Bool) (e i : Nat) : PElem :=
  let x := s.hbmElem loc f i
  if mx then
    let so := loc + mxScaleOff f e + i / 32
    ({ enc := x, fmt := f + 16, val := mxVal f (leNat (s.planPeek spHbm so 1)) x },
      s.hbmElemBad loc f i || s.hbmBad so 1)
  else (mkElem f x, s.hbmElemBad loc f i)

/-- A read of HBM by a planned unit: lines are decoded with their effects; an uncorrectable one counts in the unit's
DMA_UE and sets its PG_ERR bit. -/
def State.dmaRead (s : State) (p : PageId) (ueReg : Reg) (ueBit loc n : Nat) : State :=
  let ue := s.rangeUe spHbm loc n
  let s1 := s.touch true spHbm loc n
  if ue then (s1.bump p ueReg).err p ueBit else s1

/-- Bytes of elements [i, i + n) of an array: first byte and length. -/
def elemSpan (f i n : Nat) : Nat × Nat :=
  let a := i * fmtBits f / 8
  (a, cdiv ((i + n) * fmtBits f) 8 - a)

/-- The DMA read of elements [i, i + n) of a dense operand of `e` elements, its scales among them. -/
def State.dmaElems (s : State) (p : PageId) (ueReg : Reg) (ueBit loc f : Nat) (mx : Bool) (e i n : Nat) : State :=
  let a := elemSpan f i n
  let s1 := s.dmaRead p ueReg ueBit (loc + a.1) a.2
  if mx then s1.dmaRead p ueReg ueBit (loc + mxScaleOff f e + i / 32) (cdiv n 32) else s1

/-- A write by a planned unit to a pinned operand (R313): dropped and counted when the segment is frozen. -/
def State.planWrite (s : State) (va off : Nat) (l : List Byte) : State :=
  let loc := s.vaLoc va + off
  if l.isEmpty then s
  else if s.vaFrozen va then s.bump (pgHbm (stackOf loc)) Hbm.FRZ_DROP
  else s.store true spHbm loc l

/-- Granules of a written range that hold poisoned bytes are written as poisoned (R325), and counted. -/
def State.planPoison (s : State) (va off n : Nat) : State × Nat :=
  let loc := s.vaLoc va + off
  if n = 0 || s.vaFrozen va then (s, 0) else (s.poisonRange spHbm loc n, (linesOf loc n).length)

/-- The granules of the local range that hold a poisoned element of an array. -/
def badLines (loc f i : Nat) (bad : List Bool) : List Nat :=
  ((List.range bad.length).flatMap fun j =>
    if bad.getD j false then
      let b := fmtBits f
      linesOf (loc + (i + j) * b / 8) (cdiv ((i + j) * b % 8 + b) 8)
    else []).eraseDups

/-- Elements [i, …) of a dense array written by a planned unit; those marked bad leave their granules poisoned. Returns
the number of granules written poisoned. -/
def State.planElems (s : State) (va off f i : Nat) (l : List (Nat × Bool)) : State × Nat :=
  let b := fmtBits f
  let a := elemSpan f i l.length
  let loc := s.vaLoc va + off
  if l.isEmpty then (s, 0)
  else if s.vaFrozen va then (s.bump (pgHbm (stackOf loc)) Hbm.FRZ_DROP, 0)
  else
    let head := i * b % 8
    let tail := (a.1 + a.2) * 8 - (i + l.length) * b
    let old := leNat (s.peek spHbm (loc + a.1) a.2)
    let v := bits old 0 head + packNum b (l.map (·.1)) * 2 ^ head
      + bits old (a.2 * 8 - tail) tail * 2 ^ (a.2 * 8 - tail)
    let s1 := s.store true spHbm (loc + a.1) (leBytes a.2 v)
    let bl := badLines loc f i (l.map (·.2))
    (bl.foldl (fun t x => t.poisonLine spHbm x) s1, bl.length)

/-! ## Slices of streams (R184) -/

/-- A slice's bytes cut into 240-byte chunks, each marked when its bytes are poisoned. -/
def cutChunks (op : Nat) (l : List Byte) (bad : Nat → Bool) : List Chunk :=
  (List.range (cdiv l.length 240)).map fun j =>
    { op := op, poison := bad j, bytes := padTo 240 (slice l (240 * j) 240), last := op = 1 && j + 1 = cdiv l.length 240,
      len := cdiv (min 240 (l.length - 240 * j)) 16 * 16 }

/-- A stream of the plan in force is coded. -/
def State.isCoded (s : State) (sid : Nat) : Bool :=
  match s.image with
  | some m => (match imgStream m sid with
    | some r => r.coded
    | none => false)
  | none => false

/-- Chunks of a terminal stream that this tick has consumed, when all `n` have been; of a coded stream, once the codec
has decoded its slice (R213). -/
def State.sliceIn (s : State) (sid n : Nat) : Option (List Chunk) :=
  let l := (List.range n).filterMap fun j => AL.get s.sched.inbox (sid, j)
  if l.length = n && (!s.isCoded sid || s.sched.decoded.contains sid) then some l else none

/-- The bytes of a list of chunks. -/
def chunkBytes (l : List Chunk) : List Byte := l.flatMap fun c => c.bytes

/-- A byte range of a slice lies in a poisoned chunk. -/
def chunkBad (l : List Chunk) (off n : Nat) : Bool :=
  n ≠ 0 && (List.range ((off + n - 1) / 240 - off / 240 + 1)).any fun i =>
    ((l[off / 240 + i]?).map Chunk.poison).getD true

/-- Element `i` of a slice held in chunks. -/
def chunkElem (l : List Chunk) (f i : Nat) : PElem :=
  let b := fmtBits f
  let o := i * b / 8
  let n := cdiv (i * b % 8 + b) 8
  (mkElem f (bits (leNat (slice (chunkBytes l) o n)) (i * b % 8) b), chunkBad l o n)

/-- Chunks staged for the plan step that follows (R213, R316). -/
def State.stage (s : State) (sid : Nat) (l : List Chunk) : State :=
  s.setSched { s.sched with outbox := s.sched.outbox ++ [(sid, l)] }

/-! ## Runs (R173, R175) -/

/-- A run is in a slot of a unit. -/
def Run.isAt (r : Run) (kind unit slot : Nat) : Bool := r.kind = kind && r.unit = unit && r.slot = slot

/-- The page of a planned unit by KIND and UNIT. -/
def unitPage (kind unit : Nat) : PageId :=
  if kind = 1 then pgCe unit
  else if kind = 2 then pgTile unit
  else if kind = 3 then pgUe unit
  else if 0x100 ≤ unit then pgCodec (unit - 0x100) else pgHbm unit

/-- The run in a slot whose slice of this tick is not complete, while the tick has a plan step and the
unit's page has EN set (R403). -/
def State.openRun (s : State) (kind unit slot : Nat) : Option Run :=
  if s.planTick.runs && s.rdb (unitPage kind unit) Hdr.EN then s.runs.find? fun r => r.isAt kind unit slot && !r.done
  else none

/-- A run replaced. -/
def State.setRun (s : State) (r : Run) : State :=
  { s with runs := s.runs.map fun x => if x.isAt r.kind r.unit r.slot then r else x }

/-- The slice of a run is complete. -/
def State.finish (s : State) (r : Run) : State := s.setRun { r with done := true }

/-- Elements of slice `k`: first and count (R175). -/
def sliceOf (total chunk k : Nat) : Nat × Nat :=
  let a := k * chunk
  (a, min total (a + chunk) - a)

/-- The image of a run's bank. -/
def State.runImage (s : State) (r : Run) : List Byte := ((s.bank r.bank).map Bank.image).getD []

end Sys2Proof.Machine
end

