-- ==== Sys2Proof/Machine/PlanObj.lean ====
section
/-! DEFINITION. Load checks of planned objects: pinning (R314), Drum claims (R193, R194), and the collective descriptors
(R178, R200). -/

namespace Sys2Proof.Machine

open Sys2Proof

/-! ## Results of an object's checks -/

/-- Why an object fails: an owner code (OBJECT) with its ERR_DETAIL, or an operand that does not pin (PIN). -/
inductive ObjBad where
  | code (detail : Nat)
  | pin (va : Nat)
  deriving DecidableEq, Repr

/-- The first failure of a list of checks, in order. -/
def firstBad : List (Option ObjBad) → Option ObjBad
  | [] => none
  | some b :: _ => some b
  | none :: l => firstBad l

/-- A check with an owner code. -/
def failIf (b : Bool) (code : Nat) : Option ObjBad := if b then some (.code code) else none

/-! ## Steps of a run (R116, R175) -/

/-- The steps of a run of `n` steps from a step on. -/
def runSteps (m : List Byte) : Nat → Nat → List Nat
  | 0, _ => []
  | n + 1, i => i :: runSteps m n (imgNext m i)

/-- Steps that may precede a step (R111: steps wrap from the last to LOOP_TO). -/
def prevSteps (m : List Byte) (k : Nat) : List Nat :=
  (if k = 0 then [] else [k - 1]) ++ (if k = imgLoopTo m then [imgSteps m - 1] else [])

/-- Slices of a run that fall in a step. -/
def slicesIn (m : List Byte) (n start step : Nat) : List Nat :=
  let l := runSteps m n start
  (List.range n).filter fun k => l.getD k (2 ^ 32) = step

/-- Variants in which an action acts. -/
def actionVars (m : List Byte) (a : ActionRec) : List Nat := (List.range (imgNvar m)).filter fun v => varActs a.var v

/-- The role by which an action is judged: of its variant; of variant 0 for a record of all variants (log 21). -/
def actionRole (m : List Byte) (a : ActionRec) : Nat := imgVarRole m (if a.var = 0xFF then 0 else a.var)

/-! ## Pinning (R314) -/

/-- An operand of a plan: VA, bytes, whether it is read and written, and whether it lies in a mirror segment. -/
structure Operand where
  va : Nat
  len : Nat
  rd : Bool
  wr : Bool
  mirror : Bool
  /-- The unit reads the sparse form (R222). -/
  sparseOk : Bool
  deriving DecidableEq, Repr

/-- The FST entry that an operand pins, if it meets R314. -/
def State.pinEntry (s : State) (o : Operand) : Option Nat :=
  match s.fstFind (vaLog o.va) (vaOff o.va) with
  | none => none
  | some i =>
    let e := s.fstEntry i
    if fstSpace e = 0 && vaOff o.va % 2 ^ fstSize e + o.len ≤ 2 ^ fstSize e && (!o.rd || fstRd e) && (!o.wr || fstWr e)
        && fstState e = b2n o.mirror && (o.sparseOk || !fstSparse e) then some i else none

/-- The first operand that does not pin. -/
def State.pinBad (s : State) (l : List Operand) : Option ObjBad :=
  (l.find? fun o => (s.pinEntry o).isNone).map fun o => .pin (o.va % 2 ^ 32)

/-- An operand's stacks lie in a Cupola. -/
def State.inCupola (s : State) (c : Nat) (o : Operand) : Bool := stackOf (s.vaLoc o.va) / 2 = c

/-! ## Drum claims (Table 07.5) -/

/-- A claim record with its section and index. -/
structure Claim where
  sec : Nat
  idx : Nat
  var : Nat
  first : Nat
  unit : Nat
  last : Nat
  pages : Nat
  id : Nat
  owner : Nat
  deriving DecidableEq, Repr

def claimAt (m : List Byte) (x : Section) (i : Nat) : Claim :=
  let o := x.off + 16 * i
  { sec := x.idx, idx := i, var := x.var, first := leAt m o 3, unit := leAt m (o + 3) 1, last := leAt m (o + 4) 3,
    pages := leAt m (o + 8) 2, id := leAt m (o + 10) 2, owner := leAt m (o + 12) 4 }

/-- All claim records in directory order. -/
def imgClaims (m : List Byte) : List Claim :=
  (sectionsOf m 7).flatMap fun x => (List.range x.count).map (claimAt m x)

/-- Records of a variant: those of every variant first (R194). -/
def varClaims (m : List Byte) (v : Nat) : List Claim :=
  (imgClaims m).filter (fun c => c.var = 0xFF) ++ (imgClaims m).filter fun c => c.var = v

/-- The Drum a claim is charged to. -/
def Claim.drum (c : Claim) : Nat := if 0x20 ≤ c.unit then (c.unit - 0x20) % 8 else c.unit / 2 % 8

/-- A claim is live in a step. -/
def Claim.live (c : Claim) (i : Nat) : Bool := c.first ≤ i && i ≤ c.last

/-- Pages claimed of a Drum in a step and variant. -/
def claimedPages (m : List Byte) (v drum i : Nat) : Nat :=
  sumL (((varClaims m v).filter fun c => c.drum = drum && c.live i).map Claim.pages)

/-- A claim of a CLAIM_ID serves a unit in every step of a run and holds `need` bytes, in every variant of the action. -/
def claimOk (m : List Byte) (a : ActionRec) (id unit need n : Nat) : Bool :=
  (actionVars m a).all fun v =>
    (runSteps m n a.step).all fun i =>
      (varClaims m v).any fun c => c.id = id && c.unit = unit && c.live i && need ≤ 65536 * c.pages

/-! ## Formats -/

/-- The format byte: bits [7:5] zero, and MX only with a narrow float. -/
def fmtByteOk (b : Nat) : Bool := b < 32 && (b < 16 || isMx (b % 16))

/-! ## Collective descriptors -/

/-- RED admitted by Table 07.2. -/
def redOk (op red : Nat) : Bool :=
  if op = 1 || op = 2 || op = 3 || op = 11 then 1 ≤ red && red ≤ 3
  else if op = 8 then red ≤ 3
  else red = 0

/-- A format a descriptor admits: not E8M0, FP64 or the reserved code. -/
def ceFmtOk (b : Nat) : Bool := fmtByteOk b && b % 16 ≠ 8 && b % 16 < 14

/-- Reserved bits of a binding, and BKIND and DIR in range. -/
def bindBad (o : List Byte) (i : Nat) : Bool :=
  let a := 48 + 16 * i
  let k := leAt o a 1
  k = 0 || 6 < k || 1 < leAt o (a + 1) 1 || leAt o (a + 2) 2 ≠ 0 || 2 ^ 19 ≤ leAt o (a + 4) 4
    || (if k ≤ 2 then 2 ^ 20 ≤ leAt o (a + 8) 8 else 2 ^ 57 ≤ leAt o (a + 8) 8)

/-- FORMAT (0x01) of Table 07.7. -/
def ceFormatBad (o : List Byte) (len : Nat) : Bool :=
  let d := descOf o
  let nb := leAt o 0x2A 2
  len ≠ 48 + 16 * nb || nb = 0 || 1024 < nb || leAt o 7 1 ≠ 0 || leAt o 0x2C 4 ≠ 0 || 32 ≤ leAt o 5 1
    || 32 ≤ d.mask || leAt o 0x15 3 ≠ 0 || d.op = 0 || 12 < d.op || !redOk d.op d.red
    || !ceFmtOk (leAt o 2 1) || !ceFmtOk (leAt o 3 1) || d.fanin < 2 || 16 < d.fanin || d.nsteps = 0
    || d.chunkE = 0 || 2 ^ 24 < d.chunkE
    || ((d.op = 4 || d.op = 5) && leAt o 2 1 ≠ leAt o 3 1)
    || ((d.op = 9 || d.op = 10) && !([0, 1, 2, 9, 10].contains (leAt o 2 1)))
    || ((d.op ≤ 5 || d.op = 9 || d.op = 10 || d.op = 11 || d.op = 12) && d.p1 ≠ 0)
    || ((d.op = 2 || d.op = 3 || d.op = 4 || d.op = 9 || d.op = 11) && d.p0 ≠ 0)
    || (List.range nb).any (bindBad o)

/-- GROUP (0x02): R178. -/
def ceGroupBad (d : Desc) (ext : Nat) : Bool :=
  let n (a : Nat) : Nat := cDim ext a + 1
  let c (a : Nat) : Nat := d.cnt.getD a 0
  let s (a : Nat) : Nat := d.str.getD a 0
  ((List.range 3).any fun a =>
    c a = 0 || 32 < c a || (c a ≠ 1 && (s a = 0 || 31 < s a)) || n a / Nat.gcd (s a) (n a) < c a || n a ≤ d.org.getD a 0)
    || c 3 = 0 || 16 < c 3 || (c 3 ≠ 1 && (s 3 = 0 || 15 < s 3)) || 15 < d.org.getD 3 0 + (c 3 - 1) * (if c 3 = 1 then 0 else s 3)
    || (d.modules && (d.sel 3 || c 3 ≠ 1))

/-- Bytes of the HBM operand of a binding. -/
def Desc.operandLen (d : Desc) (b : Bind) : Nat :=
  let w := d.p0
  match b.kind with
  | 3 =>
    if d.op = 12 then d.e * (w + 2) * 4
    else if d.op = 9 || d.op = 10 then 8 * d.e
    else if d.op = 8 then mxScaleLen d.inFmt d.inMx (d.p1 * w)
    else if d.op = 6 || d.op = 7 then mxScaleLen d.inFmt d.inMx (d.e * w)
    else mxScaleLen d.inFmt d.inMx d.e
  | 4 =>
    if d.op = 12 then d.e * (8 + wireLen d.outFmt d.outMx w)
    else if d.op = 9 then 8 * d.e * d.n
    else if d.op = 10 then 8 * min d.p0 (d.e * d.n)
    else if d.op = 6 then mxScaleLen d.outFmt d.outMx (min d.e (d.p1 / 65536) * d.n * w)
    else if d.op = 7 then mxScaleLen d.outFmt d.outMx (d.p1 * w)
    else if d.op = 8 then mxScaleLen d.outFmt d.outMx (d.e * w)
    else mxScaleLen d.outFmt d.outMx d.resultLen
  | 5 => 4 * (if d.op = 6 then d.e * (d.p1 % 65536) else d.p1)
  | 6 => 4 * d.n
  | _ => 0
where
  /-- Bytes of a dense operand with its scale array (log 18). -/
  mxScaleLen (f : Nat) (mx : Bool) (n : Nat) : Nat := if mx then mxScaleOff f n + cdiv n 32 else packedLen f n

/-- HBM operands of a descriptor. -/
def Desc.operands (d : Desc) : List Operand :=
  (d.binds.filter fun b => 3 ≤ b.kind).map fun b =>
    { va := b.val, len := d.operandLen b, rd := b.kind = 3 || b.kind = 5 || (b.kind = 4 && d.op = 8 && d.red ≠ 0)
      wr := b.kind = 4 || b.kind = 6, mirror := false, sparseOk := false }

/-- Tree nodes hosted here that have children, over every tree. -/
def Desc.nodes (d : Desc) (hosted : List Member) : Nat :=
  sumL (hosted.map fun m => (d.roots.filter fun rho => !(d.children rho m.rank).isEmpty).length)

/-- Drum need (Table 07.6). -/
def Desc.drumNeed (d : Desc) (hosted : List Member) : Nat :=
  let s := d.chunkE
  let h := d.nodes hosted
  let b := fmtBits d.inFmt
  if d.reduces || d.op = 11 then 24 * s * h
  else if d.op = 4 || d.op = 5 then cdiv (2 * s * b) 8 * max h 1
  else if d.op = 6 || d.op = 7 then 2 * s * (cdiv (d.p0 * b) 8 + 8)
  else if d.op = 8 then 24 * s * d.p0
  else if d.op = 9 then 16 * s * h
  else if d.op = 10 then 16 * min s d.p0 * h
  else 24 * (d.p0 + 2) * s * h

/-- LIMIT (0x07). -/
def ceLimitBad (d : Desc) : Bool :=
  let k := d.p1 % 65536
  let cap := d.p1 / 65536
  d.nsteps * d.chunkE < d.e || ((d.inMx || d.outMx) && d.chunkE % 32 ≠ 0) || 524288 < d.n
    || ((d.op = 1 || d.op = 5) && d.n ≤ d.p0)
    || (6 ≤ d.op && d.op ≤ 8 && (d.p0 = 0 || 65536 < d.p0))
    || (d.op = 6 && (k = 0 || cap = 0))
    || ((d.op = 7 || d.op = 8) && (d.p1 = 0 || 65536 < d.p1))
    || (d.op = 10 && (d.p0 = 0 || 65536 < d.p0))
    || (d.op = 12 && (d.p0 = 0 || 4096 < d.p0 || 2 ^ 24 < d.e))

/-- Actions of a kind and unit that act in a variant. -/
def unitActions (m : List Byte) (kind unit v : Nat) : List ActionRec :=
  (imgActions m).filter fun a => a.kind = kind && a.unit = unit && varActs a.var v

/-- Active objects of a unit in a step of a variant: action and slice. -/
def activeIn (m : List Byte) (kind unit v step : Nat) (nsteps : List Byte → Nat) : List (ActionRec × Nat) :=
  (unitActions m kind unit v).flatMap fun a => (slicesIn m (nsteps (actionObj m a)) a.step step).map fun k => (a, k)

/-- Cost of a CE in a step and variant (R173). -/
def ceCost (m : List Byte) (v ce step : Nat) : Nat :=
  let l := activeIn m 1 ce v step fun o => (descOf o).nsteps
  64 * l.length + cdiv (sumL (l.map fun x =>
    let d := descOf (actionObj m x.1)
    d.stepBytes (d.hosted (imgExtent m) (imgVarRole m v)) x.2)) 1024

/-- A unit is over its cost or its four slots in some step of a run. -/
def overCost (m : List Byte) (a : ActionRec) (n : Nat) (active : Nat → Nat → Nat) (cost : Nat → Nat → Nat) : Bool :=
  (actionVars m a).any fun v => (runSteps m n a.step).any fun i => 4 < active v i || imgWindow m < cost v i

/-- The coded in-streams of a descriptor (R213). -/
def codedIns (m : List Byte) (d : Desc) (h : List Member) : List (Need × Bind) :=
  (matchBinds (d.needs h) d.binds).filter fun x => x.2.kind = 1 && (match imgStream m x.2.val with
    | some r => r.coded
    | none => false)

/-- A coded in-stream has a format that the codec does not admit, or a slice of no multiple of 32 elements (R205). -/
def codedFormatBad (m : List Byte) (d : Desc) (h : List Member) : Bool :=
  (codedIns m d h).any fun x => (d.streamForm x.1 0).isNone
def codedLimitBad (m : List Byte) (d : Desc) (h : List Member) : Bool :=
  (codedIns m d h).any fun x => (List.range d.nsteps).any fun k => (match d.streamForm x.1 k with
    | some f => f.2.2 % 32 ≠ 0
    | none => false)

/-- The checks of a collective descriptor, in the order of Table 07.7. -/
def State.ceCheck (s : State) (m : List Byte) (a : ActionRec) : Option ObjBad :=
  let o := actionObj m a
  let d := descOf o
  let h := d.hosted (imgExtent m) (actionRole m a)
  if ceFormatBad o a.len || codedFormatBad m d h then some (.code 1)
  else if ceGroupBad d (imgExtent m) then some (.code 2)
  else if h.isEmpty then some (.code 3)
  else if !d.bindsOk h then some (.code 4)
  else firstBad [s.pinBad d.operands,
    failIf (d.operands.any fun x => !s.inCupola (a.unit / 2) x) 5,
    failIf (!claimOk m a d.claim a.unit (d.drumNeed h) d.nsteps) 6,
    failIf (ceLimitBad d || codedLimitBad m d h) 7,
    failIf (overCost m a d.nsteps (fun v i => (activeIn m 1 a.unit v i fun o => (descOf o).nsteps).length)
      fun v i => ceCost m v a.unit i) 8]

end Sys2Proof.Machine
end

