-- ==== Sys2Proof/Machine/CeExec.lean ====
section
/-! DEFINITION. The collective engines: reductions along the canonical tree, gathers, merges, scans, attention combines and
indexed moves (R172–R199). -/

namespace Sys2Proof.Machine

open Sys2Proof

/-! ## Context of a run -/

/-- An element in the datapath with its poison. -/
abbrev CV := Val × Bool

/-- A descriptor at work: its run, its fields, the members hosted here and the bindings matched to their uses. -/
structure CeCtx where
  run : Run
  d : Desc
  hosted : List Member
  l : List (Need × Bind)
  /-- Significand operations of the engine on which a lane errs: element and term (R335). -/
  errs : List (Nat × Nat)
  deriving DecidableEq, Repr

/-- The context of a run: the role is that of the variant in force (R177). -/
def State.ceCtx (s : State) (r : Run) : CeCtx :=
  let m := s.runImage r
  let d := descOf r.obj
  let h := d.hosted (imgExtent m) (imgVarRole m s.varCur)
  { run := r, d := d, hosted := h, l := matchBinds (d.needs h) d.binds, errs := s.laneErrs (.ce r.unit) }

/-- The collective engine of a run as a unit. -/
def CeCtx.au (c : CeCtx) : AUnit := .ce c.run.unit

/-- Its page. -/
def CeCtx.page (c : CeCtx) : PageId := pgCe c.run.unit

/-- Ranks of a group hosted here. -/
def CeCtx.here (c : CeCtx) (grp : Nat) : List Nat := (c.hosted.filter fun m => m.grp = grp).map Member.rank

/-- The chunks of a stream binding for a slice of `len` bytes: held in the claim (R181), or consumed in this tick. -/
def State.bindChunks (s : State) (c : CeCtx) (b : Bind) (len : Nat) : Option (List Chunk) :=
  match AL.get c.run.held b.val with
  | some l => some l
  | none => s.sliceIn b.val (cdiv len 240)

/-- A stream has arrivals for this tick: RECV records in the plan state whose flits it consumes (R44). -/
def State.streamDue (s : State) (sid : Nat) : Bool :=
  match s.consumeImage with
  | some m => (slotsAt m s.sched.prev.var s.sched.prev.step).any fun r => r.recv && r.sid = sid
  | none => false

/-- Bytes of slice `j` of a result that arrives from the parent in the tree of `rho` (R184); a merge has one, whole. -/
def CeCtx.downLen (c : CeCtx) (rho j : Nat) : Nat :=
  if c.d.op = 9 || c.d.op = 10 then (if j = 0 then 8 * c.d.subLen 0 else 0)
  else if c.d.op = 12 then (sliceOf c.d.e c.d.chunkE j).2 * c.d.rowLen
  else wireLen c.d.outFmt c.d.outMx (c.d.treeSlice rho j).2

/-- Bytes of slice `k` of the leaf stream of a merge or an indexed move (R184). -/
def CeCtx.leafLen (c : CeCtx) (k : Nat) : Nat :=
  if c.d.op = 9 || c.d.op = 10 then 8 * c.d.rowsIn c.d.e k
  else wireLen c.d.inFmt c.d.inMx (c.d.rowsIn c.d.leafRows k * c.d.p0)

/-- Past its last step a run stands outside the four slots while result slices of a parent are still to come to it (R183,
log 211). -/
def Run.late (r : Run) : Bool := 4 ≤ r.slot

/-- An earlier run of the same descriptor, past its last step, still waits for a slice of the results of a stream. -/
def State.lateFirst (s : State) (c : CeCtx) (x : Need × Bind) : Bool :=
  !c.run.late && s.runs.any fun t => t.kind = 1 && t.unit = c.run.unit && t.late && t.off = c.run.off
    && c.downLen x.1.root (AL.getD t.taken x.2.val []).length ≠ 0

/-- The slice that a stream binding brings in this step, and its bytes: of a leaf of a merge or an indexed move slice k of the
run; of the parent's results the slice after those taken, where the tick has arrivals of it: results come back later than the
step whose partials they answer, and after the last step too (R44, R175, R183). -/
def State.sliceDue (s : State) (c : CeCtx) (x : Need × Bind) : Option (Nat × Nat) :=
  let j := (AL.getD c.run.taken x.2.val []).length
  let n := if x.1.role = .leaf then c.leafLen c.run.k else c.downLen x.1.root j
  let due : Bool := match x.1.role with
    | .leaf => !c.run.late && x.2.kind ≠ 3 && 6 ≤ c.d.op && c.d.op ≤ 10
    | .downIn => s.streamDue x.2.val && !s.lateFirst c x
    | _ => false
  if due && (x.1.role = .leaf || n ≠ 0) then some (j, n) else none

/-- A result slice that arrives from the parent: its group, tree, number and chunks. -/
abbrev DownIn := Nat × Nat × Nat × List Chunk

/-- The slices that this step brings, taken into the run, and the results among them; none while one has not been consumed. -/
def State.takeSlices (s : State) (c : CeCtx) : Option (CeCtx × List DownIn) :=
  c.l.foldl (fun (acc : Option (CeCtx × List DownIn)) x =>
    match acc, s.sliceDue c x with
    | none, _ => none
    | some a, none => some a
    | some a, some (j, n) =>
      match (if n = 0 then some [] else s.bindChunks c x.2 n) with
      | none => none
      | some ch =>
        let r := a.1.run
        let c' := { a.1 with run := { r with taken := AL.put r.taken x.2.val (AL.getD r.taken x.2.val [] ++ [ch]) } }
        some (c', if x.1.role = .downIn then a.2 ++ [(x.1.grp, x.1.root, j, ch)] else a.2)) (some (c, []))

/-- The results of a group that this step brings. -/
def downsOf (l : List DownIn) (grp : Nat) : List DownIn := l.filter fun x => x.1 = grp
/-! ## Leaf data -/

/-- Elements of a wire slice of `n` elements: element `i`, scaled when it is MX. -/
def wireElem (ch : List Chunk) (f : Nat) (mx : Bool) (n i : Nat) : PElem :=
  let x := chunkElem ch f i
  if mx then
    let o := packedLen f n + i / 32
    let sc := leNat (slice (chunkBytes ch) o 1)
    ({ enc := x.1.enc, fmt := f + 16, val := mxVal f sc x.1.enc }, x.2 || chunkBad ch o 1)
  else x

/-- Elements that the leaf stream of a member carries in a step, and where the slice of a tree starts in it. -/
def CeCtx.leafSpan (c : CeCtx) (rho : Nat) : Nat × Nat :=
  if c.d.op = 2 || c.d.op = 3 then
    let n (l : List Nat) : Nat := sumL (l.map fun x => (c.d.treeSlice x c.run.k).2)
    (n (List.range c.d.n), n (List.range rho))
  else ((c.d.treeSlice rho c.run.k).2, 0)

/-- The leaf elements of a member for a tree's slice; none while its stream has not been consumed. -/
def State.leafElems (s : State) (c : CeCtx) (m : Member) (rho : Nat) : Option (List PElem) :=
  let sl := c.d.treeSlice rho c.run.k
  match bindFor c.l .leaf m.grp 0 m.rank with
  | none => some []
  | some b =>
    if b.kind = 3 then
      some ((List.range sl.2).map fun j => s.opElem (s.vaLoc b.val) c.d.inFmt c.d.inMx c.d.e (sl.1 + j))
    else
      let sp := c.leafSpan rho
      match s.bindChunks c b (wireLen c.d.inFmt c.d.inMx sp.1) with
      | some ch => some ((List.range sl.2).map fun j => wireElem ch c.d.inFmt c.d.inMx sp.1 (sp.2 + j))
      | none => none

/-! ## Reductions (R179, R182) -/

/-- One combine of the datapath; an addition whose residue check fails is poisoned (R335). -/
def combine (errs : List (Nat × Nat)) (red out term : Nat) (a b : CV) : CV × Fx :=
  if red = 1 then
    let x := spwAdd a.1 b.1
    let e := errs.contains (out, term)
    ((x.val, a.2 || b.2 || e),
      ((Fx.clip x.clip).add (Fx.nan x.cause fSPW96 fSPW96 out term (spwEnc a.1) (spwEnc b.1))).add (Fx.mismatch e out term))
  else ((if red = 2 then maxVal a.1 b.1 else minVal a.1 b.1, a.2 || b.2), Fx.none)

/-- Elementwise combine of two slices; `first` is the index of the first element within E. -/
def combineAll (errs : List (Nat × Nat)) (red first term : Nat) : List CV → List CV → List CV × Fx
  | a :: as, b :: bs =>
    let x := combine errs red first term a b
    let r := combineAll errs red (first + 1) term as bs
    (x.1 :: r.1, x.2.add r.2)
  | _, _ => ([], Fx.none)

/-- NAN_IN events of a list of operands read. -/
def nanIns (first term : Nat) : List PElem → Fx
  | [] => Fx.none
  | e :: l =>
    (Fx.nan (if e.1.val.isNan then 3 else 0) e.1.fmt 0x0F first term e.1.enc 0).add (nanIns (first + 1) term l)

/-- Elements as read become values of the datapath. -/
def toCV (l : List PElem) : List CV := l.map fun e => (e.1.val, e.2)

/-- The partial of a child on another module; none while it has not been consumed. -/
def State.partialIn (s : State) (c : CeCtx) (grp rho child : Nat) : Option (List PElem) :=
  let n := (c.d.treeSlice rho c.run.k).2
  match bindFor c.l .childIn grp rho child with
  | none => none
  | some b =>
    match s.bindChunks c b (c.d.partialLen n) with
    | some ch =>
      some ((List.range n).map fun j =>
        if c.d.red = 1 then wireElem ch fSPW96 false n j else wireElem ch c.d.inFmt c.d.inMx n j)
    | none => none

/-- One more child folded in. -/
def foldChild (errs : List (Nat × Nat)) (red first term : Nat) (acc : List CV × Fx) (child : List CV) (fx : Fx) : List CV × Fx :=
  let x := combineAll errs red first term acc.1 child
  (x.1, (acc.2.add fx).add x.2)

/-- node_value of R179 for a hosted rank; none while an input is missing. -/
def State.nodeVals (s : State) (c : CeCtx) (grp rho : Nat) : Nat → Nat → Option (List CV × Fx)
  | 0, _ => none
  | fuel + 1, v =>
    let first := (c.d.treeSlice rho c.run.k).1
    match s.leafElems c ⟨grp, v⟩ rho with
    | none => none
    | some own =>
      (c.d.children rho v).foldl (fun (acc : Option (List CV × Fx)) ch =>
        match acc with
        | none => none
        | some a =>
          if (c.here grp).contains ch then
            match s.nodeVals c grp rho fuel ch with
            | some x => some (foldChild c.errs c.d.red first ch a x.1 x.2)
            | none => none
          else
            match s.partialIn c grp rho ch with
            | some p => some (foldChild c.errs c.d.red first ch a (toCV p) (nanIns first ch p))
            | none => none) (some (toCV own, nanIns first v own))

/-! ## Result slices -/

/-- A slice of a result: encodings and scale bytes, each with its poison. -/
structure Res where
  encs : List (Nat × Bool)
  scales : List (Nat × Bool)
  deriving DecidableEq, Repr

/-- A NaN carried inside the unit is an event only where the target cannot hold it (R166). -/
def carried (fx : Fx) : Fx := { fx with nans := fx.nans.filter fun e => e.cause = 4 }

/-- A root rounds each element once, to OUT_FMT (R182). `first`: index of the first element within E. -/
def roundRes (f : Nat) (mx sat : Bool) (first : Nat) (l : List CV) : Res × Fx :=
  if mx then
    let bs := blocks32 l
    let xs := (List.range bs.length).map fun j =>
      let b := bs.getD j []
      let x := convBlock f (fun _ => .rne) sat (fun i => first + 32 * j + i) (innerSrc (b.map (·.1))) (b.map (·.1))
      let bad := b.any (·.2)
      (((x.2.1.zip (b.map (·.2))), (x.1, bad)), x.2.2)
    ({ encs := xs.flatMap fun x => x.1.1, scales := xs.map fun x => x.1.2 },
      xs.foldl (fun fx x => fx.add x.2) Fx.none)
  else
    let xs := (List.range l.length).map fun j =>
      let v := l.getD j (.nan, true)
      let x := conv f .rne sat v.1
      ((x.enc, v.2), (Fx.clip x.clip).add (Fx.nan (if x.cause = 4 then 4 else 0) fSPW96 0x0F (first + j) noTerm (spwEnc v.1) 0))
    ({ encs := xs.map (·.1), scales := [] }, xs.foldl (fun fx x => fx.add x.2) Fx.none)

/-- Operands as read converted to a format, each once, with the index an event records: a NaN is a NAN_IN event, or
INVALID_CONV where the target holds none (Tables 06.4, 06.5). -/
def convEls (f : Nat) (mx sat : Bool) (l : List (PElem × Nat)) : Res × Fx :=
  if mx then
    let xs := (blocks32 l).map fun b =>
      let x := convBlock f (fun _ => .rne) sat (fun i => ((b[i]?).map (·.2)).getD 0)
        (fun i => ((b[i]?).map fun e => (e.1.1.fmt, e.1.1.enc)).getD (0, 0)) (b.map fun e => e.1.1.val)
      ((x.2.1.zip (b.map fun e => e.1.2), (x.1, b.any fun e => e.1.2)), x.2.2)
    ({ encs := xs.flatMap fun x => x.1.1, scales := xs.map fun x => x.1.2 }, xs.foldl (fun fx x => fx.add x.2) Fx.none)
  else
    let xs := l.map fun e =>
      let x := conv f .rne sat e.1.1.val
      ((x.enc, e.1.2), (Fx.clip x.clip).add (Fx.nan x.cause e.1.1.fmt 0x0F e.2 noTerm e.1.1.enc 0))
    ({ encs := xs.map (·.1), scales := [] }, xs.foldl (fun fx x => fx.add x.2) Fx.none)

/-- A result slice on the wire: elements, then scales (R184). -/
def Res.wire (f : Nat) (x : Res) : List Byte := pack f (x.encs.map (·.1)) ++ x.scales.map fun y => BitVec.ofNat 8 y.1

/-- A chunk of a wire slice carries a poisoned element. -/
def Res.chunkPoison (f : Nat) (x : Res) (j : Nat) : Bool :=
  let el := (List.range x.encs.length).any fun i =>
    ((x.encs[i]?).map (·.2)).getD false &&
      (i * fmtBits f / 8 / 240 ≤ j && j ≤ ((i + 1) * fmtBits f - 1) / 8 / 240)
  let sc := (List.range x.scales.length).any fun i =>
    ((x.scales[i]?).map (·.2)).getD false && (packedLen f x.encs.length + i) / 240 = j
  el || sc

/-- Its chunks. -/
def Res.chunks (op f : Nat) (x : Res) : List Chunk := cutChunks op (x.wire f) (x.chunkPoison f)

/-- A result slice read from the wire. -/
def resOfWire (ch : List Chunk) (f : Nat) (mx : Bool) (n : Nat) : Res :=
  { encs := (List.range n).map fun i => let e := chunkElem ch f i; (e.1.enc, e.2)
    scales := if mx then (List.range (cdiv n 32)).map fun i =>
        let o := packedLen f n + i
        (leNat (slice (chunkBytes ch) o 1), chunkBad ch o 1) else [] }

/-- Result slices one after another. -/
def Res.append (a b : Res) : Res := { encs := a.encs ++ b.encs, scales := a.scales ++ b.scales }

/-- Elements and scales of a leaf, unconverted (R185). -/
def State.leafRes (s : State) (c : CeCtx) (m : Member) (rho : Nat) : Option Res :=
  match s.leafElems c m rho with
  | none => none
  | some l =>
    let sl := c.d.treeSlice rho c.run.k
    let sc : List (Nat × Bool) :=
      if c.d.inMx then
        match bindFor c.l .leaf m.grp 0 m.rank with
        | some b =>
          if b.kind = 3 then
            (List.range (cdiv sl.2 32)).map fun i =>
              let o := s.vaLoc b.val + mxScaleOff c.d.inFmt c.d.e + sl.1 / 32 + i
              (leNat (s.planPeek spHbm o 1), s.hbmBad o 1)
          else match s.bindChunks c b (wireLen c.d.inFmt true sl.2) with
            | some ch => (resOfWire ch c.d.inFmt true sl.2).scales
            | none => []
        | none => []
      else []
    some { encs := l.map fun e => (e.1.enc, e.2), scales := sc }

/-! ## Effects -/

/-- Chunks with POISON set are counted (R197). -/
def State.countChunks (s : State) (p : PageId) (reg : Reg) (l : List Chunk) : State :=
  let n := (l.filter Chunk.poison).length
  if n = 0 then s else s.bump p reg n

/-- A CE sends chunks on a stream in the step that follows. -/
def State.ceSend (s : State) (c : CeCtx) (sid : Nat) (l : List Chunk) : State :=
  (s.countChunks c.page Ce.POISON_OUT l).stage sid l

/-- Poisoned input: PG_ERR.POISON_IN (R197). -/
def State.cePoison (s : State) (c : CeCtx) (bad : Bool) : State := if bad then s.err c.page 0 else s

/-- Elements that fill the last packing group of a tensor of `n` elements (R146). -/
def groupFill (f n : Nat) : Nat :=
  let g := if fmtBits f = 6 then 4 else if fmtBits f = 4 then 2 else 1
  cdiv n g * g - n

/-- A result slice written to an HBM operand of `total` elements at element `i`; at the tensor's end, which a received ALL_TO_ALL
tensor reaches at its last row, the last packing group is filled with zeros (R146). -/
def State.ceWrite (s : State) (c : CeCtx) (va f total i : Nat) (x : Res) : State :=
  let n := i + x.encs.length
  let fill := if n = total || c.d.op = 6 then groupFill f n else 0
  let a := s.planElems va 0 f i (x.encs ++ List.replicate fill (0, false))
  let so := mxScaleOff f total + i / 32
  let s1 := a.1.planWrite va so (x.scales.map fun y => BitVec.ofNat 8 y.1)
  let b := if x.scales.any (·.2) then s1.planPoison va so x.scales.length else (s1, 0)
  if a.2 + b.2 = 0 then b.1 else b.1.bump c.page Ce.POISON_OUT (a.2 + b.2)

/-- Result slices delivered to a member: written to its HBM operand, or sent on its stream. -/
def State.ceDeliver (s : State) (c : CeCtx) (m : Member) (total : Nat) (pieces : List (Nat × Res)) : State :=
  match bindFor c.l .result m.grp 0 m.rank with
  | none => s
  | some b =>
    if b.kind = 4 then pieces.foldl (fun t x => t.ceWrite c b.val c.d.outFmt total x.1 x.2) s
    else
      let all : Res := pieces.foldl (fun (a : Res) x => a.append x.2) { encs := [], scales := [] }
      if all.encs.isEmpty then s else s.ceSend c b.val (all.chunks 0 c.d.outFmt)

/-- A DMA read of HBM; data that reads poisoned is poisoned input (R197). -/
def State.ceRead (s : State) (c : CeCtx) (loc n : Nat) : State :=
  (s.cePoison c (s.hbmBad loc n)).dmaRead c.page Ce.DMA_UE 1 loc n

/-- The DMA read of elements [i, i + n) of a dense operand of `e` elements, its scales among them. -/
def State.ceElems (s : State) (c : CeCtx) (loc f : Nat) (mx : Bool) (e i n : Nat) : State :=
  let a := elemSpan f i n
  let s1 := s.ceRead c (loc + a.1) a.2
  if mx then s1.ceRead c (loc + mxScaleOff f e + i / 32) (cdiv n 32) else s1

/-- The DMA read of the leaf operand of a member in a step: of a merge or an indexed move, the whole in the last step (log 19). -/
def State.ceLeafRead (s : State) (c : CeCtx) (m : Member) (loc : Nat) : State :=
  if c.d.op = 12 then
    let sl := sliceOf c.d.e c.d.chunkE c.run.k
    s.ceRead c (loc + sl.1 * (c.d.p0 + 2) * 4) (sl.2 * (c.d.p0 + 2) * 4)
  else if c.d.op = 9 || c.d.op = 10 then s.ceRead c loc (8 * c.d.e)
  else if 6 ≤ c.d.op && c.d.op ≤ 8 then
    s.ceElems c loc c.d.inFmt c.d.inMx (c.d.leafRows * c.d.p0) 0 (c.d.leafRows * c.d.p0)
  else if c.d.op = 2 || c.d.op = 3 then
    (List.range c.d.n).foldl (fun u rho =>
      let sl := c.d.treeSlice rho c.run.k
      u.ceElems c loc c.d.inFmt c.d.inMx c.d.e sl.1 sl.2) s
  else
    let sl := c.d.treeSlice m.rank c.run.k
    s.ceElems c loc c.d.inFmt c.d.inMx c.d.e sl.1 sl.2

/-- DMA reads of a step, with their effects: leaf operands, index tensors, and the table rows that a scatter combines into
(R187, R197). -/
def State.ceReads (s : State) (c : CeCtx) : State :=
  c.l.foldl (fun t x =>
    let loc := s.vaLoc x.2.val
    match x.1.role with
    | .leaf => if x.2.kind = 3 then t.ceLeafRead c ⟨x.1.grp, x.1.rank⟩ loc else t
    | .index => t.ceRead c loc (4 * c.d.idxRows * (if c.d.op = 6 then c.d.p1 % 65536 else 1))
    | .result =>
      if c.d.op = 8 && c.d.red ≠ 0 && x.2.kind = 4 then
        t.ceElems c loc c.d.outFmt c.d.outMx (c.d.e * c.d.p0) 0 (c.d.e * c.d.p0)
      else t
    | _ => t) s

/-- Operand bytes counted (BYTES_IN). -/
def State.ceCount (s : State) (c : CeCtx) : State :=
  s.bump c.page Ce.BYTES_IN (c.d.stepBytes c.hosted c.run.k)

/-- The gradient tag that a root writes at the end of a run with CARRY_STEP: 64 bytes below every HBM_OUT operand (R277). A member
hosted here is the root of one of the operation's trees; an operation without trees has none. -/
def State.ceTag (s : State) (c : CeCtx) : State :=
  if c.d.carry && c.run.k + 1 = c.d.nsteps && c.hosted.any (fun m => c.d.roots.contains m.rank) then
    (c.d.binds.filter fun b => b.kind = 4).foldl (fun t b =>
      if t.vaFrozen b.val then t.bump (pgHbm (stackOf (t.vaLoc b.val))) Hbm.FRZ_DROP
      else t.store true spHbm (t.vaLoc b.val - 64) (leBytes 6 c.run.stepNo ++ List.replicate 58 0)) s
  else s

/-- A chunk that this tick has brought on an in-stream, or that the claim holds, is poisoned (R197). -/
def State.streamBad (s : State) (c : CeCtx) : Bool :=
  c.l.any fun x => x.2.kind = 1 && ((AL.getD c.run.held x.2.val []).any Chunk.poison
    || s.sched.inbox.any fun y => y.1.1 = x.2.val && y.2.poison)

/-- Results of one pass over a list, and the effects on the unit in order. -/
def foldFx {α : Type} (f : State → α → State × Fx) (l : List α) (s : State) : State × Fx :=
  l.foldl (fun a x => let y := f a.1 x; (y.1, a.2.add y.2)) (s, Fx.none)

/-- The step ends: its clips and events on the unit, which are those of one cycle (R167, log 196), operands counted, the tag
written, the slice complete. -/
def State.ceEnd (s : State) (c : CeCtx) (fx : Fx) : State :=
  let s1 := (((s.arith c.au c.run.step fx).cePoison c (s.streamBad c)).ceCount c).ceTag c
  match s1.runs.find? fun r => r.isAt 1 c.run.unit c.run.slot with
  | some r => s1.setRun { r with done := true, held := [], taken := c.run.taken }
  | none => s1

/-! ## Tree operations: REDUCE, ALL_REDUCE, REDUCE_SCATTER, ALL_GATHER, BROADCAST -/

/-- What one tree makes of a step at this module: the result slice where it is known here, the partials to send up, and
the effects on the unit. -/
structure TreeOut where
  res : Option (Nat × Res)
  ups : List (Nat × List Chunk)
  fx : Fx
  bad : Bool
  deriving DecidableEq, Repr

/-- A partial as chunks on the wire, with the effects of its conversion: SPW96 for sums, IN_FMT for maxima and minima (R152, R164,
R184). -/
def CeCtx.partialChunks (c : CeCtx) (sat : Bool) (first : Nat) (l : List CV) : List Chunk × Fx :=
  if c.d.red = 1 then
    (Res.chunks 2 fSPW96 { encs := l.map fun v => (spwEnc v.1, v.2), scales := [] }, Fx.none)
  else
    let r := roundRes c.d.inFmt c.d.inMx sat first l
    (Res.chunks 2 c.d.inFmt r.1, r.2)

/-- Where slice `k` of a tree lies in the result tensor: its first element (R175). -/
def CeCtx.resultAt (c : CeCtx) (rho k : Nat) : Nat :=
  let sl := c.d.treeSlice rho k
  if c.d.op = 3 then sl.1 - rho * c.d.shard
  else if c.d.op = 4 then rho * c.d.e + sl.1
  else sl.1

/-- Hosted ranks of a group whose parent in a tree lies elsewhere, or that are its root. -/
def CeCtx.tops (c : CeCtx) (grp rho : Nat) : List Nat :=
  (c.here grp).filter fun v => match c.d.parent rho v with
    | some p => !(c.here grp).contains p
    | none => true

/-- The reduction of one tree and group; none while an input is missing. -/
def State.reduceTree (s : State) (c : CeCtx) (grp rho : Nat) : Option TreeOut :=
  let first := (c.d.treeSlice rho c.run.k).1
  (c.tops grp rho).foldl (fun (acc : Option TreeOut) v =>
    match acc, s.nodeVals c grp rho 100 v with
    | some a, some x =>
      let bad := x.1.any (·.2)
      if v = rho then
        let r := roundRes c.d.outFmt c.d.outMx (s.sat c.au) first x.1
        some { a with res := some (rho, r.1), fx := (a.fx.add x.2).add r.2, bad := a.bad || bad }
      else
        match bindFor c.l .up grp rho v with
        | some b =>
          let p := c.partialChunks (s.sat c.au) first x.1
          some { a with ups := a.ups ++ [(b.val, p.1)], fx := (a.fx.add x.2).add p.2, bad := a.bad || bad }
        | none => some { a with fx := a.fx.add x.2 }
    | _, _ => none) (some { res := none, ups := [], fx := Fx.none, bad := false })

/-- The root's own slice in an operation without arithmetic (R185). -/
def State.copyTree (s : State) (c : CeCtx) (grp rho : Nat) : Option TreeOut :=
  if (c.here grp).contains rho then
    match s.leafRes c ⟨grp, rho⟩ rho with
    | some r => some { res := some (rho, r), ups := [], fx := Fx.none, bad := r.encs.any (·.2) }
    | none => none
  else some { res := none, ups := [], fx := Fx.none, bad := false }

/-- A result slice sent down a tree to the children on other modules (R183). -/
def State.ceDown (s : State) (c : CeCtx) (grp rho : Nat) (r : Res) : State :=
  (c.l.filter fun x => x.1.role = .down && x.1.grp = grp && x.1.root = rho).foldl
    (fun t x => t.ceSend c x.2.val (r.chunks 0 c.d.outFmt)) s

/-- All trees of a group. -/
def State.groupTrees (s : State) (c : CeCtx) (grp : Nat) : Option (List (Nat × TreeOut)) :=
  (c.d.roots.filter fun rho => (c.d.treeSlice rho c.run.k).2 ≠ 0).foldl (fun (acc : Option (List (Nat × TreeOut))) rho =>
    match acc, (if c.d.reduces then s.reduceTree c grp rho else s.copyTree c grp rho) with
    | some a, some x => some (a ++ [(rho, x)])
    | _, _ => none) (some [])

/-- The result slices that this step makes known here for the trees of a group, each with its tree and number: those of roots
hosted here, and those that arrive from a parent (R183). -/
def State.groupResults (c : CeCtx) (downs : List DownIn) (l : List (Nat × TreeOut)) : List (Nat × Nat × Res) :=
  (l.filterMap fun x => x.2.res.map fun r => (x.1, c.run.k, r.2))
    ++ downs.map fun x => (x.2.1, x.2.2.1, resOfWire x.2.2.2 c.d.outFmt c.d.outMx (c.d.treeSlice x.2.1 x.2.2.1).2)

/-- The step of a group once its inputs are here. -/
def State.groupStep (s : State) (c : CeCtx) (grp : Nat) (downs : List DownIn) (l : List (Nat × TreeOut)) : State :=
  let s1 := l.foldl (fun t x => (x.2.ups.foldl (fun u y => u.ceSend c y.1 y.2) t).cePoison c x.2.bad) s
  let res := State.groupResults c downs l
  let s2 := s1.cePoison c (downs.any fun x => x.2.2.2.any Chunk.poison)
  let s3 := if c.d.downward then res.foldl (fun t x => t.ceDown c grp x.1 x.2.2) s2 else s2
  (c.hosted.filter fun m => m.grp = grp).foldl (fun t m =>
    let mine := res.filter fun x => c.d.receives m.rank && (if c.d.op = 3 then x.1 = m.rank else true)
    t.ceDeliver c m (c.d.memberLen m.rank) (mine.map fun x => (c.resultAt x.1 x.2.1, x.2.2))) s3

/-- Groups hosted here. -/
def CeCtx.groups (c : CeCtx) : List Nat := (c.hosted.map Member.grp).eraseDups

/-- The step of a tree operation: nothing happens while an input has not been consumed. -/
def State.ceTree (s : State) (c : CeCtx) : State :=
  match s.takeSlices c with
  | none => s
  | some (c, downs) =>
    let outs := c.groups.map fun g => (g, s.groupTrees c g)
    if outs.all fun x => x.2.isSome then
      (outs.foldl (fun t x => t.groupStep c x.1 (downsOf downs x.1) (x.2.getD [])) (s.ceReads c)).ceEnd c
        (outs.foldl (fun a x => (x.2.getD []).foldl (fun b y => b.add y.2.fx) a) Fx.none)
    else s

/-! ## Merges (R188) -/

/-- A record of a run: key encoding, value, poison. -/
structure Rec where
  key : Nat
  value : Nat
  bad : Bool
  deriving DecidableEq, Repr

/-- The key of a record as a value and its sign for zeros. -/
def Rec.val (f : Nat) (r : Rec) : Val := decodeVal f r.key

/-- Record a comes strictly before b: −0 before +0, NaN last in either direction. -/
def recBefore (f : Nat) (descend : Bool) (a b : Rec) : Bool :=
  let x := a.val f
  let y := b.val f
  if x.isNan then false
  else if y.isNan then true
  else
    let lt := if x.isZero && y.isZero then x.isNeg && !y.isNeg else ltVal x y
    let gt := if x.isZero && y.isZero then y.isNeg && !x.isNeg else ltVal y x
    if descend then gt else lt

/-- Merge of two runs as they come; equal keys take the first run first. -/
def mergeRuns (f : Nat) (descend : Bool) : Nat → List Rec → List Rec → List Rec
  | 0, a, b => a ++ b
  | _ + 1, [], b => b
  | _ + 1, a, [] => a
  | fuel + 1, x :: a, y :: b =>
    if recBefore f descend y x then y :: mergeRuns f descend fuel (x :: a) b
    else x :: mergeRuns f descend fuel a (y :: b)

/-- Records of a run that come before their predecessor. -/
def outOfOrder (f : Nat) (descend : Bool) : List Rec → Nat
  | a :: b :: l => b2n (recBefore f descend b a) + outOfOrder f descend (b :: l)
  | _ => 0

/-- A record from 8 bytes; a 16-bit key lies in bits [15:0]. -/
def recOf (f : Nat) (l : List Byte) (bad : Bool) : Rec := ⟨leAt l 0 4 % 2 ^ fmtBits f, leAt l 4 4, bad⟩

/-- The slices of a member's leaf stream, each with its number, and the records or rows in it. -/
def CeCtx.slices (c : CeCtx) (b : Bind) (rows : Nat) : List (List Chunk × Nat) :=
  let l := AL.getD c.run.taken b.val []
  (List.range l.length).map fun k => (l.getD k [], c.d.rowsIn rows k)

/-- The run of a member, whole (log 19): from HBM, or from the slices of its leaf stream. -/
def State.runRecs (s : State) (c : CeCtx) (m : Member) : Option (List Rec) :=
  match bindFor c.l .leaf m.grp 0 m.rank with
  | none => some []
  | some b =>
    if b.kind = 3 then
      some ((List.range c.d.e).map fun i =>
        let o := s.vaLoc b.val + 8 * i
        recOf c.d.inFmt (s.planPeek spHbm o 8) (s.hbmBad o 8))
    else some ((c.slices b c.d.e).flatMap fun x => (List.range x.2).map fun i =>
      recOf c.d.inFmt (slice (chunkBytes x.1) (8 * i) 8) (chunkBad x.1 (8 * i) 8))

/-- The first K records, for TOPK_MERGE. -/
def CeCtx.keep (c : CeCtx) (l : List Rec) : List Rec := if c.d.op = 10 then l.take c.d.p0 else l

/-- The merged run of a node, the out-of-order records seen, and whether an input was poisoned; none while an input is missing. -/
def State.nodeRecs (s : State) (c : CeCtx) (grp : Nat) : Nat → Nat → Option (List Rec × Nat × Bool)
  | 0, _ => none
  | fuel + 1, v =>
    let f := c.d.inFmt
    let ds := c.d.descend
    match s.runRecs c ⟨grp, v⟩ with
    | none => none
    | some own =>
      (c.d.children 0 v).foldl (fun (acc : Option (List Rec × Nat × Bool)) ch =>
        match acc with
        | none => none
        | some a =>
          if (c.here grp).contains ch then
            match s.nodeRecs c grp fuel ch with
            | some x => some (c.keep (mergeRuns f ds (a.1.length + x.1.length) a.1 x.1), a.2.1 + x.2.1, a.2.2 || x.2.2)
            | none => none
          else
            match bindFor c.l .childIn grp 0 ch with
            | none => none
            | some b =>
              let n := c.d.subLen ch
              match s.bindChunks c b (8 * n) with
              | some l =>
                let rs := (List.range n).map fun i =>
                  recOf f (slice (chunkBytes l) (8 * i) 8) (chunkBad l (8 * i) 8)
                some (c.keep (mergeRuns f ds (a.1.length + n) a.1 rs), a.2.1 + outOfOrder f ds rs, a.2.2 || rs.any Rec.bad)
              | none => none) (some (c.keep own, outOfOrder f ds own, own.any Rec.bad))

/-- Records as bytes. -/
def recBytes (l : List Rec) : List Byte := l.flatMap fun r => leBytes 4 r.key ++ leBytes 4 r.value

/-- Records as chunks of a stream. -/
def recChunks (op : Nat) (l : List Rec) : List Chunk :=
  cutChunks op (recBytes l) fun j => (slice l (30 * j) 30).any Rec.bad
where
  /-- Elements [i, i + n) of a list of records. -/
  slice (l : List Rec) (i n : Nat) : List Rec := (l.drop i).take n

/-- Records delivered to a member. -/
def State.ceRecs (s : State) (c : CeCtx) (m : Member) (l : List Rec) : State :=
  match bindFor c.l .result m.grp 0 m.rank with
  | none => s
  | some b =>
    if b.kind = 4 then
      let s1 := s.planWrite b.val 0 (recBytes l)
      let loc := s.vaLoc b.val
      let bl := if s.vaFrozen b.val then [] else
        ((List.range l.length).filter fun i => ((l[i]?).map Rec.bad).getD false).flatMap (fun i => linesOf (loc + 8 * i) 8)
          |>.eraseDups
      let s2 := bl.foldl (fun t x => t.poisonLine spHbm x) s1
      if bl.isEmpty then s2 else s2.bump c.page Ce.POISON_OUT bl.length
    else s.ceSend c b.val (recChunks 0 l)

/-- Records of a merged run that arrives from the parent. -/
def CeCtx.downRecs (c : CeCtx) (downs : List DownIn) : Option (List Rec) :=
  (downs.head?).map fun x => (List.range (c.d.subLen 0)).map fun i =>
    recOf c.d.inFmt (slice (chunkBytes x.2.2.2) (8 * i) 8) (chunkBad x.2.2.2 (8 * i) 8)

/-- A merged result delivered: to the children on other modules under ALL_OUT, and to the members hosted here. -/
def State.mergeDeliver (s : State) (c : CeCtx) (grp : Nat) (l : List Rec) : State :=
  let s2 := if c.d.allOut then
      (c.l.filter fun x => x.1.role = .down && x.1.grp = grp).foldl (fun t x => t.ceSend c x.2.val (recChunks 0 l)) s
    else s
  (c.hosted.filter fun m => m.grp = grp && c.d.receives m.rank).foldl (fun t m => t.ceRecs c m l) s2

/-- The merge of one group. -/
def State.mergeGroup (s : State) (c : CeCtx) (grp : Nat) (outs : List (Nat × List Rec × Nat × Bool)) : State :=
  let s1 := outs.foldl (fun t x =>
    let n := x.2.2.1
    let t1 := (if n = 0 then t else (t.bump c.page Ce.SORT_ORDER n).err c.page 3).cePoison c x.2.2.2
    match bindFor c.l .up grp 0 x.1 with
    | some b => t1.ceSend c b.val (recChunks 2 x.2.1)
    | none => t1) s
  match outs.find? fun x => x.1 = 0 with
  | some x => s1.mergeDeliver c grp x.2.1
  | none => s1

/-- Merged results that arrive from a root on another module, in any step of the run (R183). -/
def State.mergeDowns (s : State) (c : CeCtx) (downs : List DownIn) : State :=
  c.groups.foldl (fun t g =>
    match c.downRecs (downsOf downs g) with
    | some l => (t.cePoison c (l.any Rec.bad)).mergeDeliver c g l
    | none => t) s

/-- The last step of a run, in which the merges and the indexed moves are made (log 19). -/
def CeCtx.last (c : CeCtx) : Bool := c.run.k + 1 = c.d.nsteps

/-- The step of SORT_MERGE or TOPK_MERGE. -/
def State.ceMerge (s : State) (c0 : CeCtx) : State :=
  match s.takeSlices c0 with
  | none => s
  | some (c, downs) =>
  if !c.last then (s.mergeDowns c downs).ceEnd c Fx.none
  else
    let outs := c.groups.map fun g => (g, (c.tops g 0).map fun v => (v, s.nodeRecs c g 100 v))
    if outs.all fun x => x.2.all fun y => y.2.isSome then
      ((outs.foldl (fun t x => t.mergeGroup c x.1 (x.2.map fun y => (y.1, y.2.getD ([], 0, false)))) (s.ceReads c)).mergeDowns c
        downs).ceEnd c Fx.none
    else s

/-! ## SCAN (R189) -/

/-- node_value with members above rank `r` absent (of rank `r` too under EXCL). A subtree on another module that lies whole below
the limit is known by its partial; the bit says that this module cannot know a value that takes part (log 20). -/
def State.scanVals (s : State) (c : CeCtx) (grp lim : Nat) : Nat → Nat → Option (List CV) × Fx × Bool
  | 0, _ => (none, Fx.none, false)
  | fuel + 1, v =>
    let first := (c.d.treeSlice 0 c.run.k).1
    let own : Option (List CV) × Fx × Bool :=
      if v < lim then
        if (c.here grp).contains v then
          match s.leafElems c ⟨grp, v⟩ 0 with
          | some l => (some (toCV l), Fx.none, false)
          | none => (none, Fx.none, true)
        else (none, Fx.none, true)
      else (none, Fx.none, false)
    (c.d.children 0 v).foldl (fun (acc : Option (List CV) × Fx × Bool) ch =>
      let x := match (if (c.here grp).contains ch || (c.d.subtree 0 100 ch).any (lim ≤ ·) then none else s.partialIn c grp 0 ch) with
        | some p => (some (toCV p), Fx.none, false)
        | none => s.scanVals c grp lim fuel ch
      match acc.1, x.1 with
      | some a, some b =>
        let r := combineAll c.errs c.d.red first ch a b
        (some r.1, (acc.2.1.add x.2.1).add r.2, acc.2.2 || x.2.2)
      | some a, none => (some a, acc.2.1.add x.2.1, acc.2.2 || x.2.2)
      | none, some b => (some b, acc.2.1.add x.2.1, acc.2.2 || x.2.2)
      | none, none => (none, acc.2.1.add x.2.1, acc.2.2 || x.2.2)) own

/-- The identity that an exclusive scan gives rank 0 (R189). -/
def scanIdentity (red f : Nat) : Val :=
  if red = 1 then Val.zero
  else if isInt f then decodeVal f (if red = 2 then 2 ^ (fmtBits f - 1) else 2 ^ (fmtBits f - 1) - 1)
  else .inf (red = 2)

/-- The key of an open value that stands for what another module computes: the step's place in a run without skips and replays,
which SR_ORIGIN keeps (R376), the engine, the descriptor, the slice and the group. A replay therefore meets the same value, and no
skip or fault moves it (R373–R375, logs 2 and 20). -/
def State.remoteKey (s : State) (c : CeCtx) (grp : Nat) : List Nat :=
  [33, tickSub s.now (s.rd2 (pgUe 0) Ari.SR_ORIGIN_LO Ari.SR_ORIGIN_HI), c.run.unit, c.run.off, c.run.k, grp]

/-- `n` open encodings of `b` bits. -/
def openEncs (key : List Nat) (b n : Nat) : List (Nat × Bool) :=
  (List.range n).map fun i => (Config.openValue (key ++ [b, i]) % 2 ^ b, false)

/-- A prefix that depends on inputs of another module: open values, poisoned where a known input is, and elsewhere as an open value
says (log 20). -/
def State.scanOpen (s : State) (c : CeCtx) (m : Member) (n : Nat) (known : List CV) : Res :=
  let key := s.remoteKey c m.grp ++ [11, m.rank]
  let bad (i : Nat) : Bool := (known.getD i (.zero, false)).2 || Config.openValue (key ++ [1, i]) % 2 = 1
  { encs := (List.range n).map fun i => (((openEncs key (fmtBits c.d.outFmt) n).getD i (0, false)).1, bad i)
    scales := if c.d.outMx then (List.range (cdiv n 32)).map fun j =>
        (((openEncs (key ++ [2]) 8 (cdiv n 32)).getD j (0, false)).1, (List.range 32).any fun i => 32 * j + i < n && bad (32 * j + i))
      else [] }

/-- The prefix of one hosted member, and the effects of forming it. -/
def State.scanMember (s : State) (c : CeCtx) (m : Member) : State × Fx :=
  let sl := c.d.treeSlice 0 c.run.k
  let x := s.scanVals c m.grp (if c.d.excl then m.rank else m.rank + 1) 100 0
  if x.2.2 then
    let r := s.scanOpen c m sl.2 (x.1.getD [])
    ((s.cePoison c (r.encs.any (·.2))).ceDeliver c m c.d.e [(sl.1, r)], x.2.1)
  else
    let l := x.1.getD (List.replicate sl.2 (scanIdentity c.d.red c.d.outFmt, false))
    let r := roundRes c.d.outFmt c.d.outMx (s.sat c.au) sl.1 l
    ((s.cePoison c (l.any (·.2))).ceDeliver c m c.d.e [(sl.1, r.1)], x.2.1.add r.2)

/-- All leaf inputs of the hosted members and all partials of their children have been consumed. -/
def State.leavesIn (s : State) (c : CeCtx) : Bool :=
  (c.hosted.all fun m => (s.leafElems c m 0).isSome) &&
    c.l.all fun x => x.1.role ≠ .childIn || (s.partialIn c x.1.grp 0 x.1.rank).isSome

/-- The NaN operands that a step of a scan reads, each once: leaves and partials of children (R166). -/
def State.scanNans (s : State) (c : CeCtx) : Fx :=
  let first := (c.d.treeSlice 0 c.run.k).1
  let own := c.hosted.foldl (fun (a : Fx) m => a.add (nanIns first m.rank ((s.leafElems c m 0).getD []))) Fx.none
  (c.l.filter fun x => x.1.role = .childIn).foldl (fun a x =>
    a.add (nanIns first x.1.rank ((s.partialIn c x.1.grp 0 x.1.rank).getD []))) own

/-- Effects without the events of operands read, which are counted where they are read. -/
def Fx.inner (fx : Fx) : Fx := { fx with nans := fx.nans.filter fun e => e.cause ≠ 3 }

/-- A partial of a scan leaves for a parent on another module: node_value of its whole subtree, with the effects of forming and
converting it (R148, R166, R184, R189, R335). -/
def State.scanUp (s t : State) (c : CeCtx) (x : Need × Bind) : State × Fx :=
  match s.nodeVals c x.1.grp 0 100 x.1.rank with
  | some v =>
    let p := c.partialChunks (s.sat c.au) (c.d.treeSlice 0 c.run.k).1 v.1
    ((t.cePoison c (v.1.any (·.2))).ceSend c x.2.val p.1, v.2.inner.add p.2)
  | none => (t, Fx.none)

/-- The step of SCAN. -/
def State.ceScan (s : State) (c : CeCtx) : State :=
  if s.leavesIn c then
    let a := foldFx (fun t x => s.scanUp t c x) (c.l.filter fun x => x.1.role = .up) (s.ceReads c)
    let b := foldFx (fun t m => t.scanMember c m) c.hosted a.1
    b.1.ceEnd c (((s.scanNans c).add a.2).add b.2)
  else s

/-! ## ATTN_COMBINE (R190) -/

/-- A row's partial: m, l and o, with its poison. -/
structure Row where
  m : Val
  l : Val
  o : List Val
  bad : Bool
  deriving DecidableEq, Repr

/-- A value rounded to SPW96, with its clip. -/
def toSpw (v : Val) : Val × Fx := let r := roundTo fSPW96 .rne false v; (r.1, Fx.clip r.2)

/-- exp2 of a difference, rounded to SPW96; 0 for a maximum of −∞. -/
def attnFactor (out term : Nat) (ma m : Val) : Val × Fx :=
  if ma = .inf true then (Val.zero, Fx.none)
  else
    let x := addVal ma m.neg
    let d := toSpw x.1
    let e := toSpw (exp2Val d.1)
    (e.1, ((Fx.nan x.2 fSPW96 fSPW96 out term (spwEnc ma) (spwEnc m)).add d.2).add e.2)

/-- la × fa + lb × fb with each product and the sum rounded to SPW96. -/
def attnSum (out term : Nat) (la fa lb fb : Val) : Val × Fx :=
  let p := mulVal la fa
  let q := mulVal lb fb
  let a := toSpw p.1
  let b := toSpw q.1
  let x := spwAdd a.1 b.1
  (x.val, (((((Fx.nan p.2 fSPW96 fSPW96 out term (spwEnc la) (spwEnc fa)).add
    (Fx.nan q.2 fSPW96 fSPW96 out term (spwEnc lb) (spwEnc fb))).add a.2).add b.2).add (Fx.clip x.clip)).add
    (Fx.nan x.cause fSPW96 fSPW96 out term (spwEnc a.1) (spwEnc b.1)))

/-- Elementwise attention sums of two rows' o. -/
def attnSums (out : Nat → Nat) (term : Nat) (fa fb : Val) : Nat → List Val → List Val → List Val × Fx
  | i, a :: as, b :: bs =>
    let x := attnSum (out i) term a fa b fb
    let r := attnSums out term fa fb (i + 1) as bs
    (x.1 :: r.1, x.2.add r.2)
  | _, _, _ => ([], Fx.none)

/-- Two partials of a row combined, `a` the earlier in fold order; `out` gives the output index of m (0), l (1) and o (from 2). -/
def attnCombine (errs : List (Nat × Nat)) (out : Nat → Nat) (term : Nat) (a b : Row) : Row × Fx :=
  if a.m = .inf true && b.m = .inf true then
    ({ m := .inf true, l := Val.zero, o := a.o.map fun _ => Val.zero, bad := a.bad || b.bad }, Fx.none)
  else
    let e := errs.contains (out 0, term)
    let m := maxVal a.m b.m
    let fa := attnFactor (out 0) term a.m m
    let fb := attnFactor (out 0) term b.m m
    let l := attnSum (out 1) term a.l fa.1 b.l fb.1
    let o := attnSums out term fa.1 fb.1 2 a.o b.o
    ({ m := m, l := l.1, o := o.1, bad := a.bad || b.bad || e },
      (((fa.2.add fb.2).add l.2).add o.2).add (Fx.mismatch e (out 0) term))

/-- A row of a partial in `f` from bytes: m, l, o, each of `w` bytes. -/
def rowOf (f w d : Nat) (l : List Byte) (bad : Bool) : Row :=
  let x (i : Nat) : Val := decodeVal f (leAt l (i * w) w)
  { m := x 0, l := x 1, o := (List.range d).map fun i => x (i + 2), bad := bad }

/-- Bytes of a row in SPW96. -/
def Row.bytes (r : Row) : List Byte := (r.m :: r.l :: r.o).flatMap fun v => leBytes 12 (spwEnc v)

/-- NAN_IN of a row of values of `w` bytes read in `f`, with their bits as read. -/
def rowNan (f w d out term : Nat) (l : List Byte) : Fx :=
  (List.range (d + 2)).foldl (fun fx i =>
    let x := leAt l (i * w) w
    fx.add (Fx.nan (if (decodeVal f x).isNan then 3 else 0) f 0x0F out term x 0)) Fx.none

/-- Rows read in `f`, `first` the row index of the first, with their NAN_IN events. -/
def rowsRead (f w d first term : Nat) : List (List Byte × Bool) → List Row × Fx
  | [] => ([], Fx.none)
  | x :: l =>
    let r := rowsRead f w d (first + 1) term l
    (rowOf f w d x.1 x.2 :: r.1, (rowNan f w d first term x.1).add r.2)

/-- Rows of a leaf's slice: FP32. -/
def State.leafRows (s : State) (c : CeCtx) (m : Member) : Option (List (List Byte × Bool)) :=
  let sl := sliceOf c.d.e c.d.chunkE c.run.k
  let w := (c.d.p0 + 2) * 4
  match bindFor c.l .leaf m.grp 0 m.rank with
  | none => some []
  | some b =>
    if b.kind = 3 then
      some ((List.range sl.2).map fun j =>
        let o := s.vaLoc b.val + (sl.1 + j) * w
        (s.planPeek spHbm o w, s.hbmBad o w))
    else match s.bindChunks c b (sl.2 * w) with
      | some ch => some ((List.range sl.2).map fun j => (slice (chunkBytes ch) (j * w) w, chunkBad ch (j * w) w))
      | none => none

/-- Two lists of rows combined. -/
def combineRows (errs : List (Nat × Nat)) (first term : Nat) : List Row → List Row → List Row × Fx
  | a :: as, b :: bs =>
    let x := attnCombine errs (fun _ => first) term a b
    let r := combineRows errs (first + 1) term as bs
    (x.1 :: r.1, x.2.add r.2)
  | _, _ => ([], Fx.none)

/-- The rows of a node; none while an input is missing. -/
def State.nodeRows (s : State) (c : CeCtx) (grp : Nat) : Nat → Nat → Option (List Row × Fx)
  | 0, _ => none
  | fuel + 1, v =>
    let sl := sliceOf c.d.e c.d.chunkE c.run.k
    let w := (c.d.p0 + 2) * 12
    match s.leafRows c ⟨grp, v⟩ with
    | none => none
    | some l0 =>
      let own := rowsRead fFP32 4 c.d.p0 sl.1 v l0
      (c.d.children 0 v).foldl (fun (acc : Option (List Row × Fx)) ch =>
        match acc with
        | none => none
        | some a =>
          if (c.here grp).contains ch then
            match s.nodeRows c grp fuel ch with
            | some x => let r := combineRows c.errs sl.1 ch a.1 x.1; some (r.1, (a.2.add x.2).add r.2)
            | none => none
          else
            match bindFor c.l .childIn grp 0 ch with
            | none => none
            | some b =>
              match s.bindChunks c b (sl.2 * w) with
              | some l =>
                let rs := rowsRead fSPW96 12 c.d.p0 sl.1 ch
                  ((List.range sl.2).map fun j => (slice (chunkBytes l) (j * w) w, chunkBad l (j * w) w))
                let r := combineRows c.errs sl.1 ch a.1 rs.1
                some (r.1, (a.2.add rs.2).add r.2)
              | none => none) (some own)

/-- The root's row: m and l in FP32, o divided by l under NORM, rounded to OUT_FMT. Its element index is the row's (R201); a residue
mismatch of its division poisons the row (R335). -/
def rowResult (errs : List (Nat × Nat)) (norm : Bool) (f : Nat) (mx sat : Bool) (out : Nat) (r0 : Row) : Row × List Byte × Fx :=
  let err := norm && errs.contains (out, noTerm)
  let r := { r0 with bad := r0.bad || err }
  let q := r.o.map fun v => (v, if norm then (if r.l.isZero then (Val.zero, 0) else divVal v r.l) else (v, 0))
  let res := roundRes f mx sat out (q.map fun x => (x.2.1, r.bad))
  let m := conv fFP32 .rne sat r.m
  let l := conv fFP32 .rne sat r.l
  let fx := q.foldl (fun (a : Fx) x => a.add (Fx.nan x.2.2 fSPW96 fSPW96 out noTerm (spwEnc x.1) (spwEnc r.l))) (Fx.clip (m.clip) |>.add (Fx.clip l.clip))
  let all := (fx.add res.2).add (Fx.mismatch err out noTerm)
  (r, leBytes 4 m.enc ++ leBytes 4 l.enc ++ res.1.wire f, { all with nans := all.nans.map fun e => { e with out := out } })

/-- Result rows of slice `k` delivered to a member. -/
def State.ceRows (s : State) (c : CeCtx) (m : Member) (k : Nat) (l : List (List Byte × Bool)) : State :=
  let sl := sliceOf c.d.e c.d.chunkE k
  match bindFor c.l .result m.grp 0 m.rank with
  | none => s
  | some b =>
    if b.kind = 4 then
      (List.range l.length).foldl (fun t j =>
        let x := l.getD j ([], false)
        let t1 := t.planWrite b.val ((sl.1 + j) * c.d.rowLen) x.1
        if x.2 then
          let y := t1.planPoison b.val ((sl.1 + j) * c.d.rowLen) c.d.rowLen
          y.1.bump c.page Ce.POISON_OUT y.2
        else t1) s
    else s.ceSend c b.val (rowChunks c.d.rowLen 0 l)
where
  /-- Rows of `w` bytes as chunks. -/
  rowChunks (w op : Nat) (l : List (List Byte × Bool)) : List Chunk :=
    cutChunks op (l.flatMap (·.1)) fun j =>
      (List.range l.length).any fun i =>
        ((l[i]?).map (·.2)).getD false && i * w / 240 ≤ j && j ≤ ((i + 1) * w - 1) / 240

/-- Result rows of slice `k` delivered: to the children on other modules under ALL_OUT, and to the members hosted here. -/
def State.attnDeliver (s : State) (c : CeCtx) (grp k : Nat) (l : List (List Byte × Bool)) : State :=
  let s3 := if c.d.allOut then
      (c.l.filter fun x => x.1.role = .down && x.1.grp = grp).foldl
        (fun t x => t.ceSend c x.2.val (State.ceRows.rowChunks c.d.rowLen 0 l)) s
    else s
  (c.hosted.filter fun m => m.grp = grp && c.d.receives m.rank).foldl (fun t m => t.ceRows c m k l) s3

/-- Result rows that arrive from the parent, delivered as the slice they are (R183). -/
def State.attnDown (s : State) (c : CeCtx) (x : DownIn) : State :=
  let w := c.d.rowLen
  let l := (List.range (sliceOf c.d.e c.d.chunkE x.2.2.1).2).map fun j =>
    (slice (chunkBytes x.2.2.2) (j * w) w, chunkBad x.2.2.2 (j * w) w)
  (s.cePoison c (l.any (·.2))).attnDeliver c x.1 x.2.2.1 l

/-- The step of ATTN_COMBINE for one group. -/
def State.attnGroup (s : State) (c : CeCtx) (grp : Nat) (outs : List (Nat × List Row × Fx)) : State × Fx :=
  let sl := sliceOf c.d.e c.d.chunkE c.run.k
  let s1 := outs.foldl (fun t x =>
    let t1 := t.cePoison c (x.2.1.any Row.bad)
    match bindFor c.l .up grp 0 x.1 with
    | some b => t1.ceSend c b.val (State.ceRows.rowChunks ((c.d.p0 + 2) * 12) 2 (x.2.1.map fun r => (r.bytes, r.bad)))
    | none => t1) s
  let fx := outs.foldl (fun (a : Fx) x => a.add x.2.2) Fx.none
  match outs.find? fun x => x.1 = 0 with
  | none => (s1, fx)
  | some x =>
    let fin := (List.range x.2.1.length).map fun j =>
      let r := x.2.1.getD j { m := .nan, l := .nan, o := [], bad := true }
      let y := rowResult c.errs c.d.norm c.d.outFmt c.d.outMx (s.sat c.au) (sl.1 + j) r
      ((y.2.1, y.1.bad), y.2.2)
    (s1.attnDeliver c grp c.run.k (fin.map (·.1)), fin.foldl (fun (a : Fx) x => a.add x.2) fx)

/-- The step of ATTN_COMBINE. -/
def State.ceAttn (s : State) (c : CeCtx) : State :=
  match s.takeSlices c with
  | none => s
  | some (c, downs) =>
    let outs := c.groups.map fun g => (g, (c.tops g 0).map fun v => (v, s.nodeRows c g 100 v))
    if outs.all fun x => x.2.all fun y => y.2.isSome then
      let a := foldFx (fun t x => t.attnGroup c x.1 (x.2.map fun y => (y.1, y.2.getD ([], Fx.none)))) outs (s.ceReads c)
      (downs.foldl (fun t x => t.attnDown c x) a.1).ceEnd c a.2
    else s

/-! ## Indexed moves (R186, R187, R199) -/

/-- A bound fault: the first fills the record, every one counts (R199). -/
def State.ceBound (s : State) (c : CeCtx) (rank pos val : Nat) : State :=
  let p := c.page
  let s1 := s.bump p Ce.BOUND_CNT
  if s.rdb p Ce.BOUND_VALID then s1.again p Ce.BOUND_VALID
  else (s1.wrs p [(Ce.BOUND_VALID, 1), (Ce.BOUND_OP, c.d.op), (Ce.BOUND_TICK_LO, s.now % 2 ^ 32),
    (Ce.BOUND_TICK_HI, s.now / 2 ^ 32), (Ce.BOUND_RANK, rank), (Ce.BOUND_POS, pos), (Ce.BOUND_VAL, val)]).err p 2

/-- An INT32 entry of a member's index or route tensor: its value, its bits, and whether it reads poisoned. -/
def State.ceIndex (s : State) (c : CeCtx) (m : Member) (i : Nat) : Int × Nat × Bool :=
  match bindFor c.l .index m.grp 0 m.rank with
  | some b =>
    let o := s.vaLoc b.val + 4 * i
    let x := s.planPeekN spHbm o 4
    (toSigned 32 x, x, s.hbmBad o 4)
  | none => (-1, 0xFFFFFFFF, false)

/-- A row as read: its elements with the index an event records, and in MX its scale bytes where the row is whole blocks. -/
structure RowIn where
  els : List (PElem × Nat)
  scales : List (Nat × Bool)
  deriving DecidableEq, Repr

/-- A row with every element and scale poisoned, when `b`. -/
def RowIn.poison (r : RowIn) (b : Bool) : RowIn :=
  { els := r.els.map fun e => ((e.1.1, e.1.2 || b), e.2), scales := r.scales.map fun x => (x.1, x.2 || b) }

/-- Row `i` of `W` elements of a member's leaf data, from HBM or from the slices of its stream. -/
def State.ceRowIn (s : State) (c : CeCtx) (m : Member) (i : Nat) : RowIn :=
  let w := c.d.p0
  let total := c.d.leafRows * w
  let f := c.d.inFmt
  match bindFor c.l .leaf m.grp 0 m.rank with
  | none => { els := [], scales := [] }
  | some b =>
    if b.kind = 3 then
      let so := s.vaLoc b.val + mxScaleOff f total + i * w / 32
      { els := (List.range w).map fun j => (s.opElem (s.vaLoc b.val) f c.d.inMx total (i * w + j), i * w + j)
        scales := if c.d.inMx then (List.range (w / 32)).map fun j => (leNat (s.planPeek spHbm (so + j) 1), s.hbmBad (so + j) 1)
          else [] }
    else
      let k := min (i / c.d.chunkE) (c.d.nsteps - 1)
      let ch := (AL.getD c.run.taken b.val []).getD k []
      let n := c.d.rowsIn c.d.leafRows k * w
      let a := (i - k * c.d.chunkE) * w
      let so := packedLen f n + a / 32
      { els := (List.range w).map fun j => (wireElem ch f c.d.inMx n (a + j), i * w + j)
        scales := if c.d.inMx then (List.range (w / 32)).map fun j =>
            (leNat (slice (chunkBytes ch) (so + j) 1), chunkBad ch (so + j) 1)
          else [] }

/-- A row of zeros. -/
def CeCtx.zeroRow (c : CeCtx) : RowIn :=
  { els := List.replicate c.d.p0 ((mkElem c.d.inFmt 0, false), 0)
    scales := if c.d.inMx then List.replicate (c.d.p0 / 32) (0, false) else [] }

/-- A row of a member on another module, whose wire form the specification does not give: open values, its poison among them
(log 20). -/
def CeCtx.openRow (c : CeCtx) (key : List Nat) : RowIn :=
  let x := openEncs key (fmtBits c.d.inFmt) c.d.p0
  let q := if c.d.inMx then openEncs (key ++ [2]) 8 (cdiv c.d.p0 32) else []
  let el (j e : Nat) : Elem :=
    if c.d.inMx then { enc := e, fmt := c.d.inFmt + 16, val := mxVal c.d.inFmt ((q.getD (j / 32) (0, false)).1) e }
    else mkElem c.d.inFmt e
  let r : RowIn :=
    { els := (List.range x.length).map fun j => ((el j ((x.getD j (0, false)).1), false), j), scales := q.take (c.d.p0 / 32) }
  r.poison (Config.openValue (key ++ [3]) % 2 = 1)

/-- Between 0 and `most` open rows. -/
def CeCtx.openRows (c : CeCtx) (key : List Nat) (most : Nat) : List RowIn :=
  (List.range (Config.openValue key % (most + 1))).map fun i => c.openRow (key ++ [i])

/-- Rows moved to a result: copied where the formats agree and MX rows are whole blocks, else converted (R152, R163). -/
def CeCtx.moveRows (c : CeCtx) (sat : Bool) (rows : List RowIn) : Res × Fx :=
  if c.d.inFmt = c.d.outFmt && c.d.inMx = c.d.outMx && (!c.d.inMx || c.d.p0 % 32 = 0) then
    ({ encs := rows.flatMap fun r => r.els.map fun e => (e.1.1.enc, e.1.2), scales := rows.flatMap RowIn.scales }, Fx.none)
  else convEls c.d.outFmt c.d.outMx sat (rows.flatMap RowIn.els)

/-- Bound faults of the route or index tensor of a member: entries below `lo` or at `hi` or beyond, but for those that read
poisoned. -/
def State.indexFaults (s : State) (c : CeCtx) (m : Member) (n : Nat) (lo hi : Int) : State :=
  (List.range n).foldl (fun t i =>
    let x := s.ceIndex c m i
    if (x.1 < lo || hi ≤ x.1) && !x.2.2 then t.ceBound c m.rank i x.2.1 else t) s

/-- A poisoned entry of a member's route or index tensor: what it names is unknown (R197, log 195). -/
def State.indexBad (s : State) (c : CeCtx) (m : Member) (n : Nat) : Bool := (List.range n).any fun i => (s.ceIndex c m i).2.2

/-- Routes of a hosted source to a destination, in order of (row, k). -/
def State.routesTo (s : State) (c : CeCtx) (src : Member) (dst : Nat) : List Nat :=
  let kk := c.d.p1 % 65536
  (((List.range c.d.e).flatMap fun i => (List.range kk).map fun k => (i, k)).filter fun x =>
    (s.ceIndex c src (x.1 * kk + x.2)).1 = (dst : Int)).map (·.1)

/-- The rows of a hosted source beyond CAP to each destination, here or elsewhere, are dropped and counted (R186). -/
def State.capDrops (s : State) (c : CeCtx) (m : Member) : State :=
  let n := sumL ((List.range c.d.n).map fun d => (s.routesTo c m d).length - c.d.p1 / 65536)
  if n = 0 then s else s.bump c.page Ce.FILTER_DROP n

/-- The rows a hosted destination receives from one source rank: at most CAP; those of another module are open values, for the
specification gives no wire form of them (log 20). -/
def State.rowsFrom (s : State) (c : CeCtx) (grp src dst : Nat) : List RowIn :=
  let cap := c.d.p1 / 65536
  if (c.here grp).contains src then ((s.routesTo c ⟨grp, src⟩ dst).take cap).map fun i => s.ceRowIn c ⟨grp, src⟩ i
  else c.openRows (s.remoteKey c grp ++ [6, src, dst]) cap

/-- The rows one hosted destination receives, ordered by source rank, row and k, and the counts per source. A poisoned route of a
hosted source poisons all of them and the counts, since where they lie and how many they are depends on it. -/
def State.allToAllDst (s : State) (c : CeCtx) (m : Member) : State × Fx :=
  let x := (List.range c.d.n).map fun src => s.rowsFrom c m.grp src m.rank
  let bad := (c.hosted.filter fun h => h.grp = m.grp).any fun h => s.indexBad c h (c.d.e * (c.d.p1 % 65536))
  let r := c.moveRows (s.sat c.au) (x.flatten.map fun r => r.poison bad)
  let s1 := s.cePoison c (bad || r.1.encs.any (·.2))
  let s2 := s1.ceDeliver c m (min c.d.e (c.d.p1 / 65536) * c.d.n * c.d.p0) [(0, r.1)]
  match bindFor c.l .counts m.grp 0 m.rank with
  | some b =>
    let s3 := s2.planWrite b.val 0 (x.flatMap fun l => leBytes 4 l.length)
    if bad then
      let y := s3.planPoison b.val 0 (4 * c.d.n)
      (y.1.bump c.page Ce.POISON_OUT y.2, r.2)
    else (s3, r.2)
  | none => (s2, r.2)

/-- ALL_TO_ALL (R186): slices of leaf streams are taken in each step, the rows move in the last (log 19). -/
def State.ceAllToAll (s : State) (c0 : CeCtx) : State :=
  match s.takeSlices c0 with
  | none => s
  | some (c, _) =>
    if !c.last then s.ceEnd c Fx.none
    else
      let s1 := c.hosted.foldl (fun t m =>
        (t.indexFaults c m (c.d.e * (c.d.p1 % 65536)) (-1) (c.d.n : Int)).capDrops c m) (s.ceReads c)
      let a := foldFx (fun t m => t.allToAllDst c m) c.hosted s1
      a.1.ceEnd c a.2

/-- The row that an index names: zeros for a bound fault, open values for a row on another module (log 20). A poisoned index
poisons its row. -/
def State.gatherRow (s : State) (c : CeCtx) (m : Member) (i : Nat) : RowIn :=
  let ix := s.ceIndex c m i
  if ix.1 < 0 || ((c.d.n * c.d.e : Nat) : Int) ≤ ix.1 then c.zeroRow.poison ix.2.2
  else
    let r := ix.1.toNat
    let own := r / c.d.e
    if (c.here m.grp).contains own then (s.ceRowIn c ⟨m.grp, own⟩ (r % c.d.e)).poison ix.2.2
    else (c.openRow (s.remoteKey c m.grp ++ [7, r])).poison ix.2.2

/-- The rows a hosted member gathers. -/
def State.gatherMember (s : State) (c : CeCtx) (m : Member) : State × Fx :=
  let r := c.moveRows (s.sat c.au) ((List.range c.d.p1).map fun i => s.gatherRow c m i)
  ((s.cePoison c (r.1.encs.any (·.2))).ceDeliver c m (c.d.p1 * c.d.p0) [(0, r.1)], r.2)

/-- GATHER_IDX (R187): slices of leaf streams are taken in each step, the rows are delivered in the last (log 19). -/
def State.ceGatherIdx (s : State) (c0 : CeCtx) : State :=
  match s.takeSlices c0 with
  | none => s
  | some (c, _) =>
    if !c.last then s.ceEnd c Fx.none
    else
      let s1 := c.hosted.foldl (fun t m => t.indexFaults c m c.d.p1 0 ((c.d.n * c.d.e : Nat) : Int)) (s.ceReads c)
      let a := foldFx (fun t m => t.gatherMember c m) c.hosted s1
      a.1.ceEnd c a.2

/-- A stored table row of a member. -/
def State.tableRow (s : State) (c : CeCtx) (va i : Nat) : List PElem :=
  (List.range c.d.p0).map fun j => s.opElem (s.vaLoc va) c.d.outFmt c.d.outMx (c.d.e * c.d.p0) (i * c.d.p0 + j)

/-- Contributions to a table row in ascending (source rank, source position): those of hosted members, and open ones, 0 to M, of
each member on another module (log 20). -/
def State.contributions (s : State) (c : CeCtx) (grp row : Nat) : List (Nat × RowIn) :=
  (List.range c.d.n).flatMap fun src =>
    if (c.here grp).contains src then
      ((List.range c.d.p1).filter fun i => (s.ceIndex c ⟨grp, src⟩ i).1 = (row : Int)).map fun i =>
        (src, s.ceRowIn c ⟨grp, src⟩ i)
    else (c.openRows (s.remoteKey c grp ++ [8, src, row]) c.d.p1).map fun r => (src, r)

/-- A value of the datapath as an element read from it, in SPW96. -/
def CV.elem (v : CV) : PElem := ({ enc := spwEnc v.1, fmt := fSPW96, val := v.1 }, v.2)

/-- One row of the table of a hosted owner after the scatter, before it is rounded: contributions folded in order from the stored
row, or the last one (R187); none where nothing is combined into it. A poisoned index of a hosted member poisons every row, since
the row it names is unknown. -/
def State.scatterRow (s : State) (c : CeCtx) (m : Member) (va i : Nat) : Option (List PElem) × Fx :=
  let w := c.d.p0
  let cs := s.contributions c m.grp (m.rank * c.d.e + i)
  let bad := (c.hosted.filter fun h => h.grp = m.grp).any fun h => s.indexBad c h c.d.p1
  let stored := s.tableRow c va i
  if cs.isEmpty && !bad then (none, Fx.none)
  else
    let r : List PElem × Fx :=
      if c.d.red = 0 then (((cs.getLast?).map fun y => y.2.els.map (·.1)).getD stored, Fx.none)
      else
        let x := cs.foldl (fun (a : List CV × Fx) y =>
          let l := y.2.els.map (·.1)
          foldChild c.errs c.d.red (i * w) y.1 a (toCV l) (nanIns (i * w) y.1 l)) (toCV stored, nanIns (i * w) m.rank stored)
        (x.1.map CV.elem, x.2)
    (some (r.1.map fun e => (e.1, e.2 || bad)), r.2)

/-- The spans of a table that a scatter writes, each from its first element: the rows that change; in MX with rows that are not
whole blocks, the blocks of the tensor that hold an element of one, with their other elements as stored (R152). -/
def State.scatterSpans (s : State) (c : CeCtx) (va : Nat) (rows : List (Option (List PElem))) : List (Nat × List PElem) :=
  let w := c.d.p0
  if c.d.outMx && w % 32 ≠ 0 then
    let cells : List (PElem × Bool) := (List.range rows.length).flatMap fun i => match rows.getD i none with
      | some l => l.map fun e => (e, true)
      | none => (s.tableRow c va i).map fun e => (e, false)
    let bs := blocks32 cells
    (List.range bs.length).filterMap fun j =>
      let b := bs.getD j []
      if b.any (·.2) then some (32 * j, b.map (·.1)) else none
  else (List.range rows.length).filterMap fun i => (rows.getD i none).map fun l => (i * w, l)

/-- A span rounded once to the table's format: a sum from SPW96, whose NaN is carried inside the unit, or a row as read. -/
def CeCtx.scatterConv (c : CeCtx) (sat : Bool) (x : Nat × List PElem) : Res × Fx :=
  if c.d.red = 0 || c.d.outMx then
    convEls c.d.outFmt c.d.outMx sat ((List.range x.2.length).map fun j => (x.2.getD j (mkElem c.d.outFmt 0, true), x.1 + j))
  else roundRes c.d.outFmt false sat x.1 (toCV x.2)

/-- The table of a hosted owner after the scatter. -/
def State.scatterMember (s : State) (c : CeCtx) (m : Member) : State × Fx :=
  match bindFor c.l .result m.grp 0 m.rank with
  | none => (s, Fx.none)
  | some b =>
    let rows := (List.range c.d.e).map fun i => s.scatterRow c m b.val i
    let a := foldFx (fun t x =>
      let r := c.scatterConv (s.sat c.au) x
      ((t.cePoison c (r.1.encs.any (·.2))).ceWrite c b.val c.d.outFmt (c.d.e * c.d.p0) x.1 r.1, r.2))
      (s.scatterSpans c b.val (rows.map (·.1))) s
    (a.1, (rows.foldl (fun (f : Fx) x => f.add x.2) Fx.none).add a.2)

/-- SCATTER_IDX (R187): slices of leaf streams are taken in each step, the table is written in the last (log 19). -/
def State.ceScatterIdx (s : State) (c0 : CeCtx) : State :=
  match s.takeSlices c0 with
  | none => s
  | some (c, _) =>
    if !c.last then s.ceEnd c Fx.none
    else
      let s1 := c.hosted.foldl (fun t m => t.indexFaults c m c.d.p1 0 ((c.d.n * c.d.e : Nat) : Int)) (s.ceReads c)
      let a := foldFx (fun t m => t.scatterMember c m) c.hosted s1
      a.1.ceEnd c a.2

/-! ## Results that return after the last step (R183) -/

/-- A run past its last step takes the result slices that this tick has brought from a parent, and passes them on and delivers them
as in its steps (R183, R185, R188, R190). -/
def State.tailStep (s : State) (r : Run) : State :=
  match s.takeSlices (s.ceCtx r) with
  | none => s
  | some (c, downs) =>
    if downs.isEmpty || !s.rdb c.page Hdr.EN then s
    else
      let s1 :=
        if c.d.op = 9 || c.d.op = 10 then s.mergeDowns c downs
        else if c.d.op = 12 then downs.foldl (fun t x => t.attnDown c x) s
        else c.groups.foldl (fun t g => t.groupStep c g (downsOf downs g) []) s
      { s1 with runs := s1.runs.map fun x => if x = r then { x with taken := c.run.taken } else x }

/-- Result slices of a parent are still to come to a run. -/
def State.owed (s : State) (r : Run) : Bool :=
  let c := s.ceCtx r
  c.l.any fun x => x.1.role = .downIn && c.downLen x.1.root (AL.getD r.taken x.2.val []).length ≠ 0

/-- Every run past its last step. -/
def State.tails (s : State) : State := (s.runs.filter Run.late).foldl State.tailStep s

/-! ## Commands -/

/-- A command of operation `op` on a slot: the open run there, when its descriptor has that operation. -/
def State.ceRun (s : State) (ce slot op : Nat) (f : CeCtx → State) : State :=
  match s.openRun 1 ce slot with
  | some r => let c := s.ceCtx r; if c.d.op = op then f c else s
  | none => s

/-- CE_REDUCE (R179). -/
def execCeReduce (ce slot : Nat) (s : State) : Host.Outcome State Fault Refusal := .next (s.ceRun ce slot 1 s.ceTree)
/-- CE_ALL_REDUCE (R183). -/
def execCeAllReduce (ce slot : Nat) (s : State) : Host.Outcome State Fault Refusal := .next (s.ceRun ce slot 2 s.ceTree)
/-- CE_REDUCE_SCATTER (R175). -/
def execCeReduceScatter (ce slot : Nat) (s : State) : Host.Outcome State Fault Refusal := .next (s.ceRun ce slot 3 s.ceTree)
/-- CE_ALL_GATHER (R185). -/
def execCeAllGather (ce slot : Nat) (s : State) : Host.Outcome State Fault Refusal := .next (s.ceRun ce slot 4 s.ceTree)
/-- CE_BROADCAST (R185). -/
def execCeBroadcast (ce slot : Nat) (s : State) : Host.Outcome State Fault Refusal := .next (s.ceRun ce slot 5 s.ceTree)
/-- CE_ALL_TO_ALL (R186). -/
def execCeAllToAll (ce slot : Nat) (s : State) : Host.Outcome State Fault Refusal := .next (s.ceRun ce slot 6 s.ceAllToAll)
/-- CE_GATHER_IDX (R187). -/
def execCeGatherIdx (ce slot : Nat) (s : State) : Host.Outcome State Fault Refusal := .next (s.ceRun ce slot 7 s.ceGatherIdx)
/-- CE_SCATTER_IDX (R187). -/
def execCeScatterIdx (ce slot : Nat) (s : State) : Host.Outcome State Fault Refusal :=
  .next (s.ceRun ce slot 8 s.ceScatterIdx)
/-- CE_SORT_MERGE (R188). -/
def execCeSortMerge (ce slot : Nat) (s : State) : Host.Outcome State Fault Refusal := .next (s.ceRun ce slot 9 s.ceMerge)
/-- CE_TOPK_MERGE (R188). -/
def execCeTopkMerge (ce slot : Nat) (s : State) : Host.Outcome State Fault Refusal := .next (s.ceRun ce slot 10 s.ceMerge)
/-- CE_SCAN (R189). -/
def execCeScan (ce slot : Nat) (s : State) : Host.Outcome State Fault Refusal := .next (s.ceRun ce slot 11 s.ceScan)
/-- CE_ATTN_COMBINE (R190). -/
def execCeAttnCombine (ce slot : Nat) (s : State) : Host.Outcome State Fault Refusal := .next (s.ceRun ce slot 12 s.ceAttn)

/-- The partial of a child is taken into the Drum claim and held until its turn in the fold order (R179, R181). -/
def State.partialFold (s : State) (ce slot rank : Nat) : State :=
  match s.openRun 1 ce slot with
  | none => s
  | some r =>
    let c := s.ceCtx r
    let mine := c.l.filter fun x => x.1.role = .childIn && x.1.rank = rank
    let held := mine.foldl (fun (h : List (Nat × List Chunk)) x =>
      let n := if c.d.op = 9 || c.d.op = 10 then c.d.subLen rank else (c.d.treeSlice x.1.root r.k).2
      match s.bindChunks c x.2 (c.d.partialLen n) with
      | some l => AL.put h x.2.val l
      | none => h) r.held
    s.setRun { r with held := held }

/-- CE_PARTIAL_FOLD (R181). -/
def execCePartialFold (ce slot rank : Nat) (s : State) : Host.Outcome State Fault Refusal :=
  .next (s.partialFold ce slot rank)

end Sys2Proof.Machine
end

