-- ==== Sys2Proof/Machine/Sparse.lean ====
section
/-! DEFINITION. Sparse forms: blocks, sparse segments in HBM, coded tile records and the 2:4 layout (R204–R212, R217). -/

namespace Sys2Proof.Machine

open Sys2Proof

/-! ## Blocks (R204, R205, Table 08.1) -/

/-- A block: 32 element encodings, its scale byte (MX), whether it is present, and whether it is poisoned. -/
structure Blk where
  elems : List Nat
  scale : Nat
  present : Bool
  bad : Bool
  deriving DecidableEq, Repr

/-- The block every element of which reads as +0. -/
def Blk.absent : Blk := { elems := List.replicate 32 0, scale := 0, present := false, bad := false }

/-- A poisoned block. It is kept present, so that what carries it carries its poison (log 22). -/
def Blk.poisoned : Blk := { elems := List.replicate 32 0, scale := 0, present := true, bad := true }

/-- Element bytes of a block, and its scale bytes. -/
def blkBytes (f : Nat) : Nat := 4 * fmtBits f
def blkScale (mx : Bool) : Nat := b2n mx

/-- An encoding of ±0. -/
def encZero (f x : Nat) : Bool := if isInt f then x = 0 else x % 2 ^ (fmtBits f - 1) = 0

/-- A block is zero (R204). -/
def Blk.isZero (f : Nat) (mx : Bool) (b : Blk) : Bool :=
  !b.bad && b.elems.all (encZero f) && !(mx && b.scale = 0xFF)

/-- The block as it is stored or sent: a zero block is absent. -/
def Blk.norm (f : Nat) (mx : Bool) (b : Blk) : Blk := if b.isZero f mx then Blk.absent else { b with present := true }

/-- `n` bytes packed from elements. -/
def Blk.bytes (f : Nat) (b : Blk) : List Byte := leBytes (blkBytes f) (packNum (fmtBits f) b.elems)

/-- Elements read from the packed bytes of a block. -/
def elemsOf (f : Nat) (l : List Byte) : List Nat :=
  let v := leNat (l.take (blkBytes f))
  (List.range 32).map fun i => bits v (fmtBits f * i) (fmtBits f)

/-- Bits set among the low `n` of a bitmap. -/
def popBelow (v n : Nat) : Nat := (filterRange n (bit v)).length

/-! ## Dense operands -/

/-- Block `b` of a dense operand of `e` elements at a local offset. -/
def State.denseBlk (s : State) (loc f : Nat) (mx : Bool) (e b : Nat) : Blk :=
  let n := blkBytes f
  let so := loc + mxScaleOff f e + b
  { elems := elemsOf f (s.planPeek spHbm (loc + n * b) n), scale := if mx then leNat (s.planPeek spHbm so 1) else 0,
    present := true, bad := s.hbmBad (loc + n * b) n || (mx && s.hbmBad so 1) }

/-! ## Sparse segments (Table 08.2) -/

/-- Where a sparse segment lies: memory space, local base and size in bytes. -/
structure Seg where
  sp : Nat
  base : Nat
  size : Nat
  deriving DecidableEq, Repr

/-- The segment of an FST entry. -/
def segOf (e : List Nat) : Seg := { sp := spHbm, base := fstLbase e, size := 2 ^ fstSize e }

/-- Header fields of a segment. -/
def State.segMagic (s : State) (g : Seg) : Nat := s.planPeekN g.sp g.base 4
def State.segFmt (s : State) (g : Seg) : Nat := s.planPeekN g.sp (g.base + 4) 1
def State.segState (s : State) (g : Seg) : Nat := s.planPeekN g.sp (g.base + 5) 1
def State.segE (s : State) (g : Seg) : Nat := s.planPeekN g.sp (g.base + 8) 4

/-- The format byte of Tables 08.2 and 08.3. -/
def fmtByte (f : Nat) (mx : Bool) : Nat := f + 16 * b2n mx

/-- How a read of a segment is handled (R208): 0 as data, 1 every element poisoned, 2 HEADER fault and every element +0.
A reserved STATE is handled as an unfit header (log 23). -/
def State.segMode (s : State) (g : Seg) (f : Nat) (mx : Bool) : Nat :=
  if s.segState g = 2 then 1
  else if s.segState g ≠ 1 || s.segMagic g ≠ 0x47535053 || s.segFmt g ≠ fmtByte f mx then 2
  else 0

/-- Blocks a segment holds, its sparse tiles, and the offset of its packed area. -/
def State.segBlocks (s : State) (g : Seg) : Nat := s.segE g / 32
def tilesOf (blocks : Nat) : Nat := cdiv blocks 64
def packBase (ntile : Nat) : Nat := cdiv (0x40 + 16 * ntile) 64 * 64

/-- NBLK of tile `i` of a tensor of `n` blocks. -/
def nblkOf (n i : Nat) : Nat := min 64 (n - 64 * i)

/-- Directory entry of tile `i`: bitmap and start of the packed run in bytes. -/
def State.segBitmap (s : State) (g : Seg) (i : Nat) : Nat := s.planPeekN g.sp (g.base + 0x40 + 16 * i) 8
def State.segRun (s : State) (g : Seg) (i : Nat) : Nat := 16 * s.planPeekN g.sp (g.base + 0x48 + 16 * i) 4

/-- Bytes of the packed run of tile `i`. -/
def State.segRunLen (s : State) (g : Seg) (f : Nat) (mx : Bool) (i : Nat) : Nat :=
  cdiv (popBelow (s.segBitmap g i) (nblkOf (s.segBlocks g) i) * (blkBytes f + blkScale mx)) 16 * 16

/-- The packed run of a tile lies outside the segment, or below the packed area (Table 08.6 PACK). -/
def State.segPackBad (s : State) (g : Seg) (f : Nat) (mx : Bool) (i : Nat) : Bool :=
  s.segRun g i < packBase (tilesOf (s.segBlocks g)) || g.size < s.segRun g i + s.segRunLen g f mx i

/-- Block `b` of a segment that reads as data. -/
def State.segBlkData (s : State) (g : Seg) (f : Nat) (mx : Bool) (b : Nat) : Blk :=
  let i := b / 64
  let j := b % 64
  let dir := g.base + 0x40 + 16 * i
  if s.segBlocks g ≤ b then Blk.absent
  else if s.badAt g.sp dir 16 then Blk.poisoned
  else if !bit (s.segBitmap g i) j || s.segPackBad g f mx i then Blk.absent
  else
    let p := popBelow (s.segBitmap g i) (nblkOf (s.segBlocks g) i)
    let r := popBelow (s.segBitmap g i) j
    let a := g.base + s.segRun g i
    let so := a + r
    let eo := a + p * blkScale mx + r * blkBytes f
    { elems := elemsOf f (s.planPeek g.sp eo (blkBytes f)), scale := if mx then leNat (s.planPeek g.sp so 1) else 0,
      present := true, bad := s.badAt g.sp eo (blkBytes f) || (mx && s.badAt g.sp so 1) }

/-- Block `b` of a sparse segment (R208). -/
def State.segBlk (s : State) (g : Seg) (f : Nat) (mx : Bool) (b : Nat) : Blk :=
  match s.segMode g f mx with
  | 0 => if s.badAt g.sp g.base 64 then Blk.poisoned else s.segBlkData g f mx b
  | 1 => Blk.poisoned
  | _ => Blk.absent

/-- A bound fault: KIND, sparse tile and BOUND_VAL (Table 08.6). -/
structure BoundEv where
  kind : Nat
  tile : Nat
  val : Nat
  deriving DecidableEq, Repr

/-- BITMAP faults of a bitmap with `n` blocks. -/
def bitmapFaults (tile bm n : Nat) : List BoundEv :=
  ((filterRange 64 fun j => n ≤ j && bit bm j)).map fun j => ⟨1, tile, j⟩

/-- Bound faults of a read of tile `i` (Table 08.6). -/
def State.tileFaults (s : State) (g : Seg) (f : Nat) (mx : Bool) (i : Nat) : List BoundEv :=
  if tilesOf (s.segBlocks g) ≤ i then []
  else
    let n := nblkOf (s.segBlocks g) i
    bitmapFaults i (s.segBitmap g i) n
      ++ (if s.segPackBad g f mx i then [⟨2, i, s.segRun g i / 16⟩] else [])

/-- Bound faults of a read of blocks [b, b + n) of a segment. -/
def State.segFaults (s : State) (g : Seg) (f : Nat) (mx : Bool) (b n : Nat) : List BoundEv :=
  match s.segMode g f mx with
  | 0 => if n = 0 then [] else ((List.range ((b + n - 1) / 64 - b / 64 + 1)).flatMap fun i => s.tileFaults g f mx (b / 64 + i))
  | 1 => []
  | _ => [⟨4, b / 64, s.segMagic g⟩]

/-- The local ranges a read of blocks [b, b + n) touches: the header, and for each tile its entry and its run. -/
def State.segRanges (s : State) (g : Seg) (f : Nat) (mx : Bool) (b n : Nat) : List (Nat × Nat) :=
  (g.base, 64) ::
    (if n = 0 || s.segMode g f mx ≠ 0 then []
     else (List.range ((b + n - 1) / 64 - b / 64 + 1)).flatMap fun k =>
      let i := b / 64 + k
      if tilesOf (s.segBlocks g) ≤ i then []
      else (g.base + 0x40 + 16 * i, 16) ::
        (if s.segPackBad g f mx i then [] else [(g.base + s.segRun g i, s.segRunLen g f mx i)]))

/-- The local ranges of the metadata that a read of blocks [b, b + n) touches: the header and the entry of each tile. -/
def State.segMetaRanges (s : State) (g : Seg) (f : Nat) (mx : Bool) (b n : Nat) : List (Nat × Nat) :=
  (g.base, 64) ::
    (if n = 0 || s.segMode g f mx ≠ 0 then []
     else (List.range ((b + n - 1) / 64 - b / 64 + 1)).flatMap fun k =>
      let i := b / 64 + k
      if tilesOf (s.segBlocks g) ≤ i then [] else [(g.base + 0x40 + 16 * i, 16)])

/-- The local ranges of the data of block `b`, where it is present: its elements, and its scale byte. -/
def State.segBlkRanges (s : State) (g : Seg) (f : Nat) (mx : Bool) (b : Nat) : List (Nat × Nat) :=
  let i := b / 64
  let j := b % 64
  if s.segMode g f mx ≠ 0 || s.segBlocks g ≤ b || !bit (s.segBitmap g i) j || s.segPackBad g f mx i then []
  else
    let p := popBelow (s.segBitmap g i) (nblkOf (s.segBlocks g) i)
    let r := popBelow (s.segBitmap g i) j
    let a := g.base + s.segRun g i
    (a + p * blkScale mx + r * blkBytes f, blkBytes f) :: (if mx then [(a + r, 1)] else [])

/-- Byte `o` of the dense tensor a segment stands for (R206), with its poison, in the segment's own format. -/
def State.sparseByte (s : State) (g : Seg) (o : Nat) : Byte × Bool :=
  let f := s.segFmt g % 16
  let mx := bit (s.segFmt g) 4
  let n := blkBytes f
  let b := s.segBlk g f mx (o / n)
  (((b.bytes f)[o % n]?).getD 0, b.bad)

/-! ## Coded tile records (Table 08.3) -/

/-- A byte with its poison. -/
abbrev PByte := Byte × Bool

/-- Bytes without poison. -/
def clean (l : List Byte) : List PByte := l.map fun b => (b, false)

/-- Bytes padded with zeros to a multiple of 16. -/
def pad16 (l : List PByte) : List PByte := l ++ List.replicate (cdiv l.length 16 * 16 - l.length) (0, false)

/-- Scale bytes, then element bytes, of a list of blocks. -/
def blkRun (f : Nat) (mx : Bool) (l : List Blk) : List PByte :=
  (if mx then l.map fun b => (BitVec.ofNat 8 b.scale, b.bad) else [])
    ++ l.flatMap fun b => (b.bytes f).map fun x => (x, b.bad)

/-- The bitmap of a tile's present blocks. -/
def bitmapOf (l : List Blk) : Nat :=
  sumL ((List.range l.length).map fun j => if ((l[j]?).map Blk.present).getD false then 2 ^ j else 0)

/-- Record sizes with `p` of `n` blocks present (R209). -/
def denseSize (f : Nat) (mx : Bool) (n : Nat) : Nat := cdiv (8 + n * (blkBytes f + blkScale mx)) 16 * 16
def blockSize (f : Nat) (mx : Bool) (p : Nat) : Nat := cdiv (16 + p * (blkBytes f + blkScale mx)) 16 * 16

/-- The encoder chooses BLOCK only when it is strictly smaller (R210). -/
def sendsBlock (f : Nat) (mx : Bool) (l : List Blk) : Bool :=
  blockSize f mx (l.filter Blk.present).length < denseSize f mx l.length

/-- The record of one sparse tile. -/
def encodeTile (f : Nat) (mx : Bool) (tile : Nat) (l : List Blk) : List PByte :=
  let head (form : Nat) : List PByte := clean (leBytes 1 form ++ leBytes 1 (fmtByte f mx) ++ leBytes 2 l.length ++ leBytes 4 tile)
  if sendsBlock f mx l then
    pad16 (head 1 ++ clean (leBytes 8 (bitmapOf l)) ++ blkRun f mx (l.filter Blk.present))
  else pad16 (head 0 ++ blkRun f mx l)

/-- A slice's records cut into chunks of a coded stream (R211). -/
def codedChunks (l : List PByte) : List Chunk :=
  let n := cdiv l.length 240
  (List.range n).map fun j =>
    let p := (l.drop (240 * j)).take 240
    { op := 1, poison := p.any (·.2), bytes := padTo 240 (p.map (·.1)), last := j + 1 = n, len := p.length }

/-- The bytes that a list of chunks carries. -/
def chunkPBytes (l : List Chunk) : List PByte := l.flatMap fun c => (c.bytes.take c.len).map fun b => (b, c.poison)

/-- Blocks of a record's body: scales, then elements of the present blocks. -/
def blksOf (f : Nat) (mx : Bool) (n : Nat) (present : Nat → Bool) (body : List Byte) : List Blk :=
  let p := (filterRange n present).length
  (List.range n).map fun j =>
    if present j then
      let r := (filterRange j present).length
      { elems := elemsOf f (body.drop (p * blkScale mx + r * blkBytes f))
        scale := if mx then leNat (slice body r 1) else 0
        present := true
        bad := false }
    else Blk.absent

/-- One record parsed from the front of a slice: its blocks, its faults, and what follows; none when it is poisoned, with
every later record (R212). A record whose FMT is not the reader's, or whose NBLK is not the tile's, is handled as one
with a reserved FORM (log 24). -/
def parseRecord (f : Nat) (mx : Bool) (nblk : Nat) (l : List PByte) : Option ((List Blk × List BoundEv) × List PByte) :=
  let raw := l.map (·.1)
  let form := leAt raw 0 1
  let tile := leAt raw 4 4
  let bm := leAt raw 8 8
  let present (j : Nat) : Bool := form = 0 || bit bm j
  let p := (filterRange nblk present).length
  let size := if form = 0 then denseSize f mx nblk else blockSize f mx p
  if l.length < 8 || (l.take 8).any (·.2) || 2 ≤ form || leAt raw 1 1 ≠ fmtByte f mx || leAt raw 2 2 ≠ nblk then none
  else if form = 1 && (l.take 16).any (·.2) then none
  else if l.length < size || (l.take size).any (·.2) then none
  else
    let body := (raw.take size).drop (if form = 0 then 8 else 16)
    some ((blksOf f mx nblk present body, if form = 1 then bitmapFaults tile bm nblk else []), l.drop size)

/-- The records of a slice with the given NBLKs, in order; a poisoned record is none, and every later one with it. `tail` is the
length of the chunk marked LAST: records that end before it leave one more poisoned record, which is what remains unparsed (R212). -/
def parseSlice (f : Nat) (mx : Bool) (tail : Nat) : List Nat → List PByte → List (Option (List Blk × List BoundEv))
  | [], l => if tail ≠ 0 && tail ≤ l.length then [none] else []
  | n :: ns, l =>
    match parseRecord f mx n l with
    | some r => some r.1 :: parseSlice f mx tail ns r.2
    | none => none :: ns.map fun _ => none

/-- The records of the chunks of a slice. -/
def parseChunks (f : Nat) (mx : Bool) (ns : List Nat) (ch : List Chunk) : List (Option (List Blk × List BoundEv)) :=
  parseSlice f mx (match ch.getLast? with
    | some c => if c.last then c.len else 0
    | none => 0) ns (chunkPBytes ch)

/-- A tile's blocks from its record; a poisoned record gives poisoned blocks. -/
def recBlks (n : Nat) (r : Option (List Blk × List BoundEv)) : List Blk :=
  match r with
  | some x => x.1
  | none => List.replicate n Blk.poisoned

/-- Blocks as a dense slice. -/
def denseOf (mx : Bool) (l : List Blk) : Res :=
  { encs := l.flatMap fun b => b.elems.map fun x => (x, b.bad)
    scales := if mx then l.map fun b => (b.scale, b.bad) else [] }

/-! ## Structured 2:4 (R217, R218) -/

/-- Offsets of the nibble and scale arrays of a 2:4 operand of `e` elements. -/
def nibOff (f e : Nat) : Nat := cdiv (packedLen f (e / 2)) 64 * 64
def scale24Off (f e : Nat) : Nat := cdiv (nibOff f e + e / 8) 64 * 64

/-- Bytes of a 2:4 operand. -/
def len24 (f : Nat) (mx : Bool) (e : Nat) : Nat := if mx then scale24Off f e + e / 32 else nibOff f e + e / 8

/-- Rank of an element's magnitude: NaN above every other. -/
def magBefore (f a b : Nat) : Bool :=
  let x := decodeVal f a
  let y := decodeVal f b
  if y.isNan then false else if x.isNan then true else ltVal y.abs x.abs

/-- The two kept positions of a group with `nz` nonzero positions, lower first (R218). -/
def keepTwo (f : Nat) (g : List Nat) (nz : List Nat) : Nat × Nat :=
  let val (i : Nat) : Nat := g.getD i 0
  let order : List Nat :=
    if nz.length ≤ 2 then nz ++ ([0, 1, 2, 3].filter fun i => !nz.contains i)
    else nz.mergeSort fun i j => !magBefore f (val j) (val i)
  let a := order.getD 0 0
  let b := order.getD 1 1
  (min a b, max a b)

/-- Nonzero positions of a group. -/
def nonzeros (f : Nat) (g : List Nat) : List Nat := filterRange 4 fun i => !encZero f (g.getD i 0)

end Sys2Proof.Machine
end

