-- ==== Sys2Proof/Machine/Codec.lean ====
section
/-! DEFINITION. The sparse codecs: their jobs, the decoding of coded slices for engines, and their load checks
(R213, R214, R218–R225). -/

namespace Sys2Proof.Machine

open Sys2Proof

/-! ## Jobs (Table 08.4) -/

/-- A codec job. -/
structure Job where
  job : Nat
  f : Nat
  mx : Bool
  prune : Bool
  nsteps : Nat
  sid : Nat
  src : Nat
  dst : Nat
  e : Nat
  chunkE : Nat
  rowK : Nat
  deriving DecidableEq, Repr

/-- A job read from its bytes. -/
def jobOf (o : List Byte) : Job :=
  { job := leAt o 0 1, f := leAt o 1 1 % 16, mx := bit (leAt o 1 1) 4, prune := bit (leAt o 2 1) 0, nsteps := leAt o 3 1,
    sid := leAt o 4 4 % 2 ^ 20, src := leAt o 8 8 % 2 ^ 57, dst := leAt o 0x10 8 % 2 ^ 57, e := leAt o 0x18 4,
    chunkE := leAt o 0x1C 4, rowK := leAt o 0x20 4 }

/-- The page of the codec of a run or job: UNIT 0x0100 + c. -/
def cdcPage (unit : Nat) : PageId := pgCodec (unit - 0x100)

/-- First block and number of blocks of slice `k`. -/
def Job.blocks (j : Job) (k : Nat) : Nat × Nat :=
  let sl := sliceOf j.e j.chunkE k
  (sl.1 / 32, sl.2 / 32)

/-- NBLK of each sparse tile of a slice of `n` blocks. -/
def nblks (n : Nat) : List Nat := (List.range (tilesOf n)).map (nblkOf n)

/-- Dense bytes of `n` blocks. -/
def Job.dense (j : Job) (n : Nat) : Nat := n * (blkBytes j.f + blkScale j.mx)

/-! ## Operands of a job -/

/-- The FST entry of a virtual address, when it is a sparse segment. -/
def State.sparseAt (s : State) (va : Nat) : Option Seg :=
  match s.vaEntry va with
  | some (i, _) => if fstSparse (s.fstEntry i) then some (segOf (s.fstEntry i)) else none
  | none => none

/-- First block of a sparse segment that a virtual address names (R206). -/
def State.firstBlk (s : State) (g : Seg) (va f : Nat) : Nat := (s.vaLoc va - g.base) / blkBytes f

/-- Block `b` of the source of a job. -/
def State.srcBlk (s : State) (j : Job) (b : Nat) : Blk :=
  match s.sparseAt j.src with
  | some g => s.segBlk g j.f j.mx (s.firstBlk g j.src j.f + b)
  | none => s.denseBlk (s.vaLoc j.src) j.f j.mx j.e b

/-- Reads of ranges of HBM by a codec. -/
def State.cdcRead (s : State) (p : PageId) (l : List (Nat × Nat)) : State :=
  l.foldl (fun t x => t.dmaRead p Cdc.DMA_UE 6 x.1 x.2) s

/-- A codec's bound fault: counted, and recorded when it is the first (R225). -/
def State.cdcBound (s : State) (p : PageId) (step : Nat) (e : BoundEv) : State :=
  let s1 := (s.bump p Cdc.BOUND_CNT).err p 1
  if s.rdb p Cdc.BOUND_VALID then s1.again p Cdc.BOUND_VALID
  else s1.wrs p [(Cdc.BOUND_VALID, 1), (Cdc.BOUND_KIND, e.kind), (Cdc.BOUND_TICK_LO, s.now % 2 ^ 32),
    (Cdc.BOUND_TICK_HI, s.now / 2 ^ 32), (Cdc.BOUND_TILE, e.tile), (Cdc.BOUND_VAL, e.val), (Cdc.BOUND_STEP, step)]

/-- The effects of reading blocks [b, b + n) of the source of a job: DMA, bound faults, and BAD_READ (R208, R224, R225). -/
def State.srcReads (s : State) (p : PageId) (step : Nat) (j : Job) (b n : Nat) : State :=
  match s.sparseAt j.src with
  | some g =>
    let b0 := s.firstBlk g j.src j.f + b
    let ev := s.segFaults g j.f j.mx b0 n
    let bad := s.segMode g j.f j.mx = 1
    let s1 := s.cdcRead p (s.segRanges g j.f j.mx b0 n)
    let s2 := ev.foldl (fun t x => t.cdcBound p step x) s1
    if bad then s2.err p 4 else s2
  | none =>
    let loc := s.vaLoc j.src
    s.cdcRead p ((loc + b * blkBytes j.f, n * blkBytes j.f) ::
      (if j.mx then [(loc + mxScaleOff j.f j.e + b, n)] else []))

/-- Blocks of a dense operand written at block `b` (absent blocks as +0); granules with poisoned blocks are poisoned. -/
def State.denseWrite (s : State) (j : Job) (b : Nat) (l : List Blk) : State :=
  let r := denseOf j.mx l
  let s1 := (s.planElems j.dst 0 j.f (32 * b) r.encs).1
  let so := mxScaleOff j.f j.e + b
  let s2 := s1.planWrite j.dst so (r.scales.map fun y => BitVec.ofNat 8 y.1)
  (List.range r.scales.length).foldl (fun t i =>
    if ((r.scales[i]?).map (·.2)).getD false then (t.planPoison j.dst (so + i) 1).1 else t) s2

/-! ## ENCODE (R209–R211, R213, R214) -/

/-- The stream record of a run's image. -/
def State.runStream (s : State) (r : Run) (sid : Nat) : StreamRec :=
  (imgStream (s.runImage r) sid).getD
    { sid := sid, coded := false, terminal := false, origin := false, sink := 0xFF, ovf := 0, chunks := 0 }

/-- A slice's chunks within the reservation: beyond CHUNKS + OVF nothing is sent, and the last chunk sent is poisoned. -/
def fitChunks (cap : Nat) (l : List Chunk) : List Chunk :=
  if l.length ≤ cap then l
  else (l.take cap).mapIdx fun i c => if i + 1 = cap then { c with poison := true } else c

/-- CODED_OVR: counted, and an overrun with cause CODED (R214). -/
def State.codedOver (s : State) (c sid excess : Nat) : State :=
  if excess = 0 then s
  else (((s.bump (pgCodec c) Cdc.CODED_OVR).err (pgCodec c) 2).overrun tyCodec c 5
    (sid + min excess 0xFFF * 2 ^ 20))

/-- Counts of the records sent (Table 08.7). -/
def State.countRecords (s : State) (p : PageId) (f : Nat) (mx : Bool) (tiles : List (List Blk)) : State :=
  let nb := (tiles.filter fun t => sendsBlock f mx t).length
  let nd := tiles.length - nb
  ((s.bump p Cdc.TILES_BLOCK nb).bump p Cdc.TILES_DENSE nd).bump p Cdc.DENSE_WIN nd

/-- Sparse tiles of a list of blocks. -/
def tilesIn (l : List Blk) : List (List Blk) := chunksOf 64 l.length l

/-- The records of a slice whose first sparse tile is `t0`; those in `wrong` are poisoned. -/
def encodeSlice (f : Nat) (mx : Bool) (t0 : Nat) (tiles : List (List Blk)) (wrong : List Nat) : List PByte :=
  (List.range tiles.length).flatMap fun i =>
    (encodeTile f mx (t0 + i) (tiles.getD i [])).map fun b => (b.1, b.2 || wrong.contains i)

/-- Records of a slice that codec `c` encodes wrongly, by their place in the slice (R336). -/
def State.wrongRecords (s : State) (c sid : Nat) : List Nat :=
  (s.arrays.records.filter fun x => x.1 = c && x.2.1 = sid).map (·.2.2)

/-- The check of R336 has found records wrong: each counts CODEC_VERIFY, with its PG_ERR bit and a tick fault. -/
def State.codecVerify (s : State) (c sid n : Nat) : State :=
  if n = 0 then s
  else
    let s1 := ((s.bump pgIntegrity Itg.CODEC_VERIFY n).err pgIntegrity 4).tickFault
    { s1 with arrays := { s1.arrays with records := s1.arrays.records.filter fun x => !(x.1 = c && x.2.1 = sid) } }

/-- A slice encoded onto a stream of codec `c`, for the plan step that follows; `cap` is CHUNKS + OVF. A record that does not
decode to its dense input is poisoned (R336). -/
def State.encodeOut (s : State) (c sid cap f : Nat) (mx : Bool) (t0 : Nat) (l : List Blk) : State :=
  let tiles := tilesIn (l.map (Blk.norm f mx))
  let wrong := (s.wrongRecords c sid).filter (· < tiles.length)
  let all := codedChunks (encodeSlice f mx t0 tiles wrong)
  let sent := fitChunks cap all
  let p := pgCodec c
  let s1 := ((s.codecVerify c sid wrong.length).countRecords p f mx tiles).bump p Cdc.BYTES_CODED (sumL (sent.map Chunk.len))
  (s1.codedOver c sid (all.length - cap)).stage sid sent

/-- One slice of an ENCODE job. -/
def State.codecEncode (s : State) (c : Nat) (r : Run) : State :=
  let j := jobOf r.obj
  let p := pgCodec c
  let bl := j.blocks r.k
  let l := (List.range bl.2).map fun i => s.srcBlk j (bl.1 + i)
  let s1 := (s.srcReads p r.step j bl.1 bl.2).bump p Cdc.BYTES_DENSE (j.dense bl.2)
  let st := s.runStream r j.sid
  (s1.encodeOut c j.sid (st.chunks + st.ovf) j.f j.mx (bl.1 / 64) l).finish r

/-! ## STORE (R207, R212) -/

/-- The chunks of a coded slice that this tick has consumed: up to the one marked LAST, or all that the stream reserves;
none while one is still to come. -/
def State.codedIn (s : State) (sid cap : Nat) : Option (List Chunk) :=
  go cap 0
where
  go : Nat → Nat → Option (List Chunk)
    | 0, _ => some []
    | n + 1, i =>
      match AL.get s.sched.inbox (sid, i) with
      | none => none
      | some c => if c.last then some [c] else (go n (i + 1)).map (c :: ·)

/-- Poisoned records counted (R212). -/
def State.poisonRecords (s : State) (p : PageId) (n : Nat) : State :=
  if n = 0 then s else (s.bump p Cdc.POISON_IN n).err p 5

/-- The effects of a parsed slice: BITMAP faults and poisoned records. -/
def State.sliceEffects (s : State) (p : PageId) (step : Nat) (l : List (Option (List Blk × List BoundEv))) : State :=
  (l.foldl (fun t r => match r with
    | some x => x.2.foldl (fun u e => u.cdcBound p step e) t
    | none => t) s).poisonRecords p (l.filter Option.isNone).length

/-- One sparse tile appended to a segment at a pack pointer (in 16-byte units); none when its run passes the end. -/
def State.storeTile (s : State) (j : Job) (g : Seg) (tile ptr : Nat) (l : List Blk) : Option (State × Nat) :=
  let m := l.map (Blk.norm j.f j.mx)
  let pres := m.filter Blk.present
  let run := (pad16 (blkRun j.f j.mx pres)).map (·.1)
  if g.size < 16 * ptr + run.length then none
  else
    let va0 := j.dst - (s.vaLoc j.dst - g.base)
    let s1 := s.planWrite va0 (16 * ptr) run
    let s2 := s1.planWrite va0 (0x40 + 16 * tile) (leBytes 8 (bitmapOf m) ++ leBytes 4 ptr ++ leBytes 4 0)
    let s3 := (List.range pres.length).foldl (fun (t : State) i =>
      if ((pres[i]?).map Blk.bad).getD false then
        (t.planPoison va0 (16 * ptr + pres.length * blkScale j.mx + i * blkBytes j.f) (blkBytes j.f)).1
      else t) s2
    some (s3, ptr + run.length / 16)

/-- Sparse tiles of a slice appended in ascending order; the second part is none once a run has passed the end. -/
def State.storeTiles (j : Job) (g : Seg) : State → Nat → Nat → List (List Blk) → State × Option Nat
  | s, _, ptr, [] => (s, some ptr)
  | s, tile, ptr, l :: rest =>
    match s.storeTile j g tile ptr l with
    | some x => State.storeTiles j g x.1 (tile + 1) x.2 rest
    | none => (s, none)

/-- The header of a segment at the end of a STORE (R207). -/
def storeHead (j : Job) (ptr : Nat) : List Byte :=
  leBytes 4 0x47535053 ++ leBytes 1 (fmtByte j.f j.mx) ++ leBytes 1 1 ++ leBytes 2 0 ++ leBytes 4 j.e
    ++ leBytes 4 (tilesOf (j.e / 32)) ++ leBytes 4 ptr

/-- A slice stored in a sparse segment (R207). -/
def State.storeSparse (s : State) (p : PageId) (r : Run) (j : Job) (g : Seg) (tiles : List (List Blk)) : State :=
  let va0 := j.dst - (s.vaLoc j.dst - g.base)
  let ptr0 := if r.k = 0 then packBase (tilesOf (j.e / 32)) / 16 else r.acc
  let s0 := if r.k = 0 then s.planWrite va0 5 [0] else s
  let x := State.storeTiles j g s0 ((j.blocks r.k).1 / 64) ptr0 tiles
  match x.2 with
  | some ptr =>
    let s1 := if r.k + 1 = j.nsteps then x.1.planWrite va0 0 (storeHead j ptr) else x.1
    s1.setRun { r with done := true, acc := ptr }
  | none =>
    (((x.1.planWrite va0 5 [2]).err p 3).tickFault).setRun { r with done := true, stop := true }

/-- One slice of a STORE job. -/
def State.codecStore (s : State) (c : Nat) (r : Run) : State :=
  let j := jobOf r.obj
  let p := pgCodec c
  let bl := j.blocks r.k
  let st := s.runStream r j.sid
  match s.codedIn j.sid (st.chunks + st.ovf) with
  | none => s
  | some ch =>
    let ns := nblks bl.2
    let recs := parseChunks j.f j.mx ns ch
    let tiles := (List.range ns.length).map fun i => recBlks (ns.getD i 0) (recs.getD i none)
    let s1 := ((s.bump p Cdc.BYTES_CODED (sumL (ch.map Chunk.len))).bump p Cdc.BYTES_DENSE (j.dense bl.2)).sliceEffects
      p r.step recs
    if r.stop then s1.finish r
    else match s.sparseAt j.dst with
      | some g => s1.storeSparse p r j g tiles
      | none => (s1.denseWrite j bl.1 tiles.flatten).finish r

/-! ## PACK24 (R218) -/

/-- One group of four packed: stored encodings, nibble, whether it breaks the structure, and its nonzero elements. -/
structure Pack24 where
  vals : List Nat
  nib : Nat
  nz : Nat
  deriving DecidableEq, Repr

def packGroup (f : Nat) (g : List Nat) : Pack24 :=
  let nz := nonzeros f g
  let k := keepTwo f g nz
  { vals := [g.getD k.1 0, g.getD k.2 0], nib := k.1 + 4 * k.2, nz := nz.length }

/-- The V24 record (R218). -/
def State.v24 (s : State) (p : PageId) (step g nz : Nat) : State :=
  let s1 := s.bump p Cdc.V24_CNT
  if s.rdb p Cdc.V24_VALID then s1.again p Cdc.V24_VALID
  else s1.wrs p [(Cdc.V24_VALID, 1), (Cdc.V24_NZ, nz), (Cdc.V24_TICK_LO, s.now % 2 ^ 32),
    (Cdc.V24_TICK_HI, s.now / 2 ^ 32), (Cdc.V24_TILE, g / 512), (Cdc.V24_GROUP, g % 512), (Cdc.V24_STEP, step)]

/-- A structure violation of group `g`: in PRUNE mode the dropped elements are counted, in FAULT mode a fault is raised. -/
def State.violation (s : State) (p : PageId) (r : Run) (j : Job) (g nz : Nat) : State :=
  let s1 := s.v24 p r.step g nz
  if j.prune then s1.bump p Cdc.PRUNED (nz - 2) else (s1.err p 0).tickFault

/-- One block packed and written: two values and a nibble per group, its scale for MX. In FAULT mode a block that holds a
violation is written as poisoned data, and the nibble of the violating group, which the rule does not state, is free. -/
def State.packBlk (s : State) (p : PageId) (r : Run) (j : Job) (b : Nat) (x : Blk) : State :=
  let gs := (List.range 8).map fun i => packGroup j.f ((x.elems.drop (4 * i)).take 4)
  let viol (i : Nat) : Bool := 2 < ((gs[i]?).map Pack24.nz).getD 0
  let s1 := (filterRange 8 viol).foldl (fun t i => t.violation p r j (8 * b + i) (((gs[i]?).map Pack24.nz).getD 0)) s
  let bad := x.bad || (!j.prune && (List.range 8).any viol)
  let nibs := (List.range 8).map fun i =>
    if !j.prune && viol i then Config.openValue [218, p.inst, r.off, b, i] % 16 else ((gs[i]?).map Pack24.nib).getD 0
  let s2 := (s1.planElems j.dst 0 j.f (16 * b) ((gs.flatMap Pack24.vals).map fun v => (v, bad))).1
  let s3 := (s2.planElems j.dst (nibOff j.f j.e) fINT4 (8 * b) (nibs.map fun v => (v, false))).1
  if j.mx then s3.planWrite j.dst (scale24Off j.f j.e + b) [BitVec.ofNat 8 x.scale] else s3

/-- One slice of a PACK24 job. -/
def State.codecPack (s : State) (c : Nat) (r : Run) : State :=
  let j := jobOf r.obj
  let p := pgCodec c
  let bl := j.blocks r.k
  let s1 := (s.srcReads p r.step j bl.1 bl.2).bump p Cdc.BYTES_DENSE (j.dense bl.2)
  ((List.range bl.2).foldl (fun t i => t.packBlk p r j (bl.1 + i) (s.srcBlk j (bl.1 + i))) s1).finish r

/-! ## EXPAND -/

/-- One slice of an EXPAND job. -/
def State.codecExpand (s : State) (c : Nat) (r : Run) : State :=
  let j := jobOf r.obj
  let p := pgCodec c
  let bl := j.blocks r.k
  let l := (List.range bl.2).map fun i => s.srcBlk j (bl.1 + i)
  let s1 := (s.srcReads p r.step j bl.1 bl.2).bump p Cdc.BYTES_DENSE (j.dense bl.2)
  (s1.denseWrite j bl.1 l).finish r

/-! ## Decoding for an engine (R213) -/

/-- The dense slice that a coded stream brings to a CE of this Cupola: format, MX and elements, as the descriptor that reads it
in this step has them. The stream of an update engine is uncoded (R291). -/
def State.sinkSlice (s : State) (sid : Nat) : Option (Nat × Bool × Nat) :=
  s.runs.findSome? fun r =>
    if r.kind = 1 then
      let c := s.ceCtx r
      (c.l.find? fun x => x.2.kind = 1 && x.2.val = sid).bind fun x =>
        c.d.streamForm x.1 (if x.1.role = .downIn then (AL.getD r.taken sid []).length else r.k)
    else none

/-- Chunks of a slice put in place of the coded ones. -/
def State.putDense (s : State) (sid : Nat) (l : List Chunk) : State :=
  let box := s.sched.inbox.filter fun x => x.1.1 ≠ sid
  s.setSched { s.sched with
    inbox := (List.range l.length).foldl (fun (m : List ((Nat × Nat) × Chunk)) j =>
      match l[j]? with
      | some c => AL.put m (sid, j) c
      | none => m) box
    decoded := sid :: s.sched.decoded }

/-- CODED_SLICE_RECEIVE: a coded slice for an engine is parsed and decoded to dense (R212, R213). -/
def State.decodeSlice (s : State) (c sid : Nat) : State :=
  match s.imageOf s.planTick with
  | none => s
  | some m =>
    match imgStream m sid, s.sinkSlice sid with
    | some st, some (f, mx, n) =>
      let mine : Bool := st.coded && (st.sink = 0x10 + 2 * c || st.sink = 0x11 + 2 * c)
      if !mine || s.sched.decoded.contains sid then s
      else match s.codedIn sid (st.chunks + st.ovf) with
        | none => s
        | some ch =>
          let p := pgCodec c
          let ns := nblks (n / 32)
          let recs := parseChunks f mx ns ch
          let blks := (List.range ns.length).flatMap fun i => recBlks (ns.getD i 0) (recs.getD i none)
          (((s.bump p Cdc.BYTES_CODED (sumL (ch.map Chunk.len))).bump p Cdc.BYTES_DENSE
            (n / 32 * (blkBytes f + blkScale mx))).sliceEffects p s.stepIdx recs).putDense sid
            ((denseOf mx blks).chunks 0 f)
    | _, _ => s

/-- A coded slice for an engine of Cupola `c` is due in this tick and not decoded: work of the codec that is unfinished (R213,
R221). -/
def State.undecoded (s : State) (c : Nat) : Bool :=
  match s.imageOf s.planTick with
  | none => false
  | some m => (imgStreams m).any fun st =>
      st.coded && (st.sink = 0x10 + 2 * c || st.sink = 0x11 + 2 * c) && s.streamDue st.sid && (s.sinkSlice st.sid).isSome
        && !s.sched.decoded.contains st.sid

/-! ## Commands -/

/-- The open run of a codec slot with a given JOB. -/
def State.jobRun (s : State) (c slot job : Nat) : Option Run :=
  match s.openRun 4 (0x100 + c) slot with
  | some r => if leAt r.obj 0 1 = job then some r else none
  | none => none

/-- CODEC_ENCODE (R220). -/
def execCodecEncode (c slot : Nat) (s : State) : Host.Outcome State Fault Refusal :=
  .next (match s.jobRun c slot 1 with
    | some r => s.codecEncode c r
    | none => s)

/-- CODEC_STORE (R207). -/
def execCodecStore (c slot : Nat) (s : State) : Host.Outcome State Fault Refusal :=
  .next (match s.jobRun c slot 2 with
    | some r => s.codecStore c r
    | none => s)

/-- CODEC_PACK24 (R218). -/
def execCodecPack24 (c slot : Nat) (s : State) : Host.Outcome State Fault Refusal :=
  .next (match s.jobRun c slot 3 with
    | some r => s.codecPack c r
    | none => s)

/-- CODEC_EXPAND (R220). -/
def execCodecExpand (c slot : Nat) (s : State) : Host.Outcome State Fault Refusal :=
  .next (match s.jobRun c slot 4 with
    | some r => s.codecExpand c r
    | none => s)

/-- CODED_SLICE_RECEIVE (R212). -/
def execCodedSliceReceive (c sid : Nat) (s : State) : Host.Outcome State Fault Refusal := .next (s.decodeSlice c sid)

/-! ## Load checks (Table 08.5) -/

/-- Operands of a job, as they pin. -/
def Job.operands (j : Job) : List Operand :=
  let n := mxScaleLen j.f j.mx j.e
  (if j.job = 2 then [] else [{ va := j.src, len := n, rd := true, wr := false, mirror := false, sparseOk := true }])
    ++ (if j.job = 1 then [] else
      [{ va := j.dst, len := if j.job = 3 then len24 j.f j.mx j.e else if j.job = 2 then 1 else n, rd := false,
         wr := true, mirror := false, sparseOk := true }])
where
  /-- Bytes of a dense operand (log 18). -/
  mxScaleLen (f : Nat) (mx : Bool) (n : Nat) : Nat := if mx then mxScaleOff f n + cdiv n 32 else packedLen f n

/-- The address ranges a job reads and writes: a dense operand's elements, a sparse segment whole (R206, R207). -/
def State.jobSpans (s : State) (j : Job) : List Operand :=
  j.operands.map fun o => match s.sparseAt o.va with
    | some g => { o with va := o.va - (s.vaLoc o.va - g.base), len := g.size }
    | none => if j.job = 2 then { o with len := Job.operands.mxScaleLen j.f j.mx j.e } else o

/-- FORMAT (0x01). -/
def codecFormatBad (o : List Byte) (len : Nat) : Bool :=
  let j := jobOf o
  len ≠ 48 || j.job = 0 || 4 < j.job || 32 ≤ leAt o 1 1 || !sparseFmt j.f j.mx || 2 ≤ leAt o 2 1
    || (j.prune && j.job ≠ 3) || j.nsteps = 0 || 2 ^ 20 ≤ leAt o 4 4 || (3 ≤ j.job && j.sid ≠ 0)
    || 2 ^ 57 ≤ leAt o 8 8 || (j.job = 2 && j.src ≠ 0) || 2 ^ 57 ≤ leAt o 0x10 8 || (j.job = 1 && j.dst ≠ 0)
    || leAt o 0x24 12 ≠ 0

/-- LIMIT (0x02). -/
def codecLimitBad (j : Job) : Bool :=
  j.e % 32 ≠ 0 || j.nsteps * j.chunkE < j.e
    || (if j.job = 3 then j.rowK = 0 || j.rowK % 32 ≠ 0 || j.chunkE = 0 || j.chunkE % j.rowK ≠ 0
        else j.rowK ≠ 0 || j.chunkE = 0 || j.chunkE % 2048 ≠ 0)

/-- SEGMENT (0x03), or PIN of an operand: stacks of the Cupola, the form of each segment, and its extent (R314). -/
def State.codecSegment (s : State) (c : Nat) (j : Job) : Option ObjBad :=
  let ops := j.operands
  let sparse (va : Nat) : Bool := (s.sparseAt va).isSome
  let formBad : Bool :=
    match j.job with
    | 3 => sparse j.src || sparse j.dst
    | 4 => !sparse j.src || sparse j.dst
    | _ => false
  let short : Bool :=
    (j.job = 2 || j.job = 4) && !sparse j.dst && (match s.vaEntry j.dst with
      | some (i, _) => 2 ^ fstSize (s.fstEntry i) < vaOff j.dst % 2 ^ fstSize (s.fstEntry i) + Job.operands.mxScaleLen j.f j.mx j.e
      | none => false)
  firstBad [failIf short 3, s.pinBad ops, failIf (ops.any (fun x => !s.inCupola c x) || formBad) 3]

/-- STREAM (0x04). -/
def codecStreamBad (m : List Byte) (c : Nat) (j : Job) : Bool :=
  match j.job with
  | 1 => (match imgStream m j.sid with
    | some r => !(r.coded && r.origin)
    | none => true) || originBad m c j.sid
  | 2 => (match imgStream m j.sid with
    | some r => !(r.coded && r.terminal && (r.sink = 0x30 + 2 * c || r.sink = 0x31 + 2 * c))
    | none => true)
  | _ => false

/-- Dense bytes decoded by codec `c` for its Cupola's engines in a step (R221). -/
def decodeBytes (m : List Byte) (v c step : Nat) : Nat :=
  sumL ([2 * c, 2 * c + 1].flatMap fun ce =>
    (activeIn m 1 ce v step fun o => (descOf o).nsteps).flatMap fun x =>
      let d := descOf (actionObj m x.1)
      (codedIns m d (d.hosted (imgExtent m) (imgVarRole m v))).map fun y => match d.streamForm y.1 x.2 with
        | some f => wireLen f.1 f.2.1 f.2.2
        | none => 0)

/-- Cost of a codec in a step and variant (R221); `outs`: the dense bytes of the coded out-streams of its tiles (R235). -/
def codecCost (m : List Byte) (outs v c step : Nat) : Nat :=
  let l := activeIn m 4 (0x100 + c) v step fun o => (jobOf o).nsteps
  32 * l.length + cdiv (sumL (l.map fun x =>
    let j := jobOf (actionObj m x.1)
    j.dense (j.blocks x.2).2) + decodeBytes m v c step + outs) 1024

end Sys2Proof.Machine
end

