-- ==== Sys2Proof/Machine/Links.lean ====
section
/-! DEFINITION. Link training, retry, die-to-die retry and the credit timeout (R56, R57, R66–R79). Line blocks are in
LineBlock.lean. -/

namespace Sys2Proof.Machine

open Sys2Proof

/-- A link ID of an endpoint or torus Turret. -/
def validLink (l : Nat) : Bool := l < 0x16

/-- LSTATE moves, and the clock is kept; entering UP or FAILED raises a LINK event (Table 16.6, log 12). -/
def State.setLstate (s : State) (l v : Nat) : State :=
  let s1 := (s.setLink l { s.link l with since := s.clock }).wr (pgLink l) Lnk.LSTATE v
  if v = 5 ∨ v = 6 then s1.eventE (pgLink l) 0x0030 (leBytes 1 l ++ leBytes 1 v) else s1

/-- COORD or EXTENT differ among the four Keeps (R56). -/
def State.cfgDisagree (s : State) : Bool :=
  [1, 2, 3].any fun k => s.rd (pgKeep k) Kr.COORD ≠ s.coord || s.rd (pgKeep k) Kr.EXTENT ≠ s.extent

/-- The dimension of a torus link has size 1: its Turret stays in DOWN (R57). -/
def State.deadDim (s : State) (l : Nat) : Bool := 16 ≤ l && cDim s.extent ((l - 16) / 2) = 0

/-- The power domains of a link's Turret (Table 17.2). -/
def linkDomains (l : Nat) : List Nat := if l < 16 then [304 + l] else [320 + 2 * (l - 16), 321 + 2 * (l - 16)]

/-- The link is enabled by both EN fields, is powered and not looped back, and nothing holds it in DOWN (R403, R426, R56,
R57). -/
def State.mayTrain (s : State) (l : Nat) : Bool :=
  s.rdb (pgLink l) Lnk.EN && s.rdb (pgLink l) Hdr.EN && !s.rdb (pgLink l) Lnk.LOOPBACK
    && !(16 ≤ l && (s.cfgDisagree || s.belfry.cfgBad)) && !s.deadDim l && (linkDomains l).all fun d => s.domState d < 2

/-- DOWN is left for EQ once EN is set and signal is detected on all lanes; the EQ pattern leaves (Table 03.6, R71). -/
def State.tryStart (s : State) (l : Nat) : State :=
  if s.lstate l = 0 && (s.link l).signal && s.mayTrain l then
    let s1 := s.setLink l { Link.idle with signal := true, msgs := (s.link l).msgs }
    (s1.setLstate l 1).sendTraining l { trType := 1 }
  else s

/-- What a link loses on leaving UP: its replay window, holds, far-end credits, and a torus link its neighbour messages; packets
being received end. The replies that an endpoint Turret has made wait for the link to come back (log 208). -/
def State.dropLink (s : State) (l : Nat) : State :=
  let x := s.link l
  let s1 := s.setLink l { Link.idle with signal := x.signal, msgs := if l < 16 then x.msgs else [] }
  (List.range 8).foldl (fun t v => (t.wri (pgLink l) Lnk.CRED_AVAIL v 0).endInput l v) s1

/-- The flits that wait for an output of a Keep, in its egress queues or for admission, are discarded (R79, R84): those of an
endpoint are counted, those of a torus link are counted in UNROUTABLE (Table 03.12). -/
def State.discardQueued (s : State) (k o : Nat) : State :=
  let n := sumL ((List.range 8).map fun v => let q := s.queue k o v; q.sram.length + q.hbm.length + q.stage.length)
    + (s.opn.ready.filter fun r => r.keep = k && r.out = o).length
  let s1 := (List.range 8).foldl (fun t v => t.setQueue k o v EgressQ.empty) s
  let s2 := s1.setOpn { s1.opn with
    ready := s1.opn.ready.filter fun r => !(r.keep = k && r.out = o)
    discarded := s1.opn.discarded + (if o < 4 then n else 0) }
  if o < 4 || n = 0 then s2 else (s2.bump (pgKeep k) Kr.UNROUTABLE n).err (pgKeep k) 1

/-- Credits of the input-buffer cells of flits that were discarded while they waited for an output (R121). -/
def State.releaseReady (s : State) (l : List Ready) : State :=
  l.foldl (fun t r => match r.buf with
    | some (i, v) => t.returnCredit i v r.flit.cells
    | none => t) s

/-- The flits of a Turret's own that have not left are discarded and counted (R79). -/
def State.dropOwn (s : State) (l : Nat) : State :=
  let x := s.link l
  (s.setOpn { s.opn with discarded := s.opn.discarded + x.msgs.length }).setLink l { x with msgs := [] }

/-- Every flit queued for the output of a link is discarded, and input-buffer cells it held are free again. -/
def State.dropOutput (s : State) (l : Nat) : State :=
  let k := keepOfLink l
  let o := outOfLink l
  let held := s.opn.ready.filter fun r => r.keep = k && r.out = o
  ((s.discardQueued k o).releaseReady held).dropOwn l

/-- A link moves to FAILED. Of a torus link the flits that wait for it are discarded and Watch is told (R70, R84, Table 14.1). -/
def State.failLink (s : State) (l : Nat) : State :=
  if s.lstate l = 6 then s
  else
    let s1 := (s.dropLink l).setLstate l 6
    if 16 ≤ l then (s1.dropOutput l).reportLink (l - 16) else s1

/-- A link moves to DOWN, and trains again if it may. -/
def State.downLink (s : State) (l : Nat) : State := ((s.dropLink l).setLstate l 0).tryStart l

/-- LINK_SIGNAL_DETECT (Table 03.6). -/
def execLinkSignalDetect (link : Nat) (s : State) : Host.Outcome State Fault Refusal :=
  .next (if validLink link then (s.setLink link { s.link link with signal := true }).tryStart link else s)

/-- EQ_CONVERGE: EQ is left for LOCK (Table 03.6). -/
def execEqConverge (link : Nat) (s : State) : Host.Outcome State Fault Refusal :=
  .next (if validLink link && s.lstate link = 1 then s.setLstate link 2 else s)

/-- The identity an endpoint or torus Turret sends: IDENT and DIR (Table 03.7). -/
def State.ownIdent (s : State) (l : Nat) : Nat × Nat := (s.coord, if l < 16 then 0xF else l - 16)

/-- LOCK_ACHIEVED: LOCK is left for LAT; the first latency probe and the identity leave (Table 03.6, R71). -/
def State.lockAchieved (s : State) (link : Nat) : State :=
  if validLink link && s.lstate link = 2 then
    let id := s.ownIdent link
    ((s.setLstate link 3).sendTraining link { trType := 2 }).sendTraining link
      { trType := 4, ident := id.1, dir := id.2 }
  else s

/-- LOCK_ACHIEVED. -/
def execLockAchieved (link : Nat) (s : State) : Host.Outcome State Fault Refusal :=
  .next (s.lockAchieved link)

/-- LATENCY_PROBE: the peer's probe is echoed with its STAMP and the time it was held (R71). -/
def State.latencyProbe (s : State) (link stamp hold : Nat) : State :=
  if validLink link && 1 ≤ s.lstate link && s.lstate link ≤ 4 then
    s.sendTraining link { trType := 3, echo := stamp, hold := hold }
  else s

/-- LATENCY_PROBE. -/
def execLatencyProbe (link stamp hold : Nat) (s : State) : Host.Outcome State Fault Refusal :=
  .next (s.latencyProbe link stamp hold)

/-- Flit rate of a link per 11 cc: 14 on an endpoint link, 56 on a torus link (R24). -/
def linkRate (l : Nat) : Nat := if l < 16 then 14 else 56

/-- Ld = ⌈mean RTT / 2⌉ over the 16 probes (R71). -/
def ldOf (rtts : List Nat) : Nat := cdiv (sumL rtts) 32

/-- REPLAY_WIN = ⌈(2·Ld + 64) × r⌉ (R71). -/
def replayWin (l ld : Nat) : Nat := cdiv ((2 * ld + 64) * linkRate l) 11

/-- Training fails: PG_ERR.TRAIN_FAIL and FAILED (R70). -/
def State.trainFail (s : State) (l : Nat) : State := (s.err (pgLink l) 0).failLink l

/-- VCs that a link carries: REQ-a, RSP-a and BULK-a on an endpoint link (R79), all on a torus link. -/
def linkVcs (l : Nat) : List Nat := if l < 16 then [0, 2, 6] else List.range 8

/-- The input buffer of a link takes shared cells for a VC, as many as it asks for within SHARE_CAP, the pool and the open banks,
beside those that flits still in it hold (R121, R122, log 181). -/
def State.takeShared (s : State) (l vc : Nat) : State :=
  let k := keepOfLink l
  let x := s.link l
  let n := min (min (Config.inputTake l vc) (s.rd (pgKeep k) Opn.SHARE_CAP (vcClass vc)))
    (min (s.poolFree k) (262144 * s.banksOpen k - s.occupied k))
  s.setLink l { x with shared := AL.put x.shared vc (max n (sharedOf (s.inputCells l vc))) }

/-- The credits of a link's grant: for each VC it carries its own 8 cells and the shared cells taken, less the cells that flits
received before still hold (R78, R121). -/
def State.grantOf (s : State) (l : Nat) : List Nat :=
  (List.range 8).map fun v =>
    if (linkVcs l).contains v then 8 + AL.getD (s.link l).shared v 0 - s.inputCells l v else 0

/-- Once 16 probes are echoed and the peer is accepted, the window's cells are closed to new allocation; when they are free the
window is carved, the input buffer takes its cells, and the link moves to CREDIT with its grant (R70–R72, R121, R122). -/
def State.tryCredit (s : State) (l : Nat) : State :=
  let x := s.link l
  let k := keepOfLink l
  if s.lstate l = 3 && x.rtts.length = 16 && x.peerOk && s.poolUsed k ≤ s.poolCells k && s.banksHold k 0 then
    let s1 := (linkVcs l).foldl (fun t v => t.takeShared l v) (s.setLstate l 4)
    s1.sendTraining l { trType := 5, credits := s1.grantOf l }
  else s

/-- PROBE_ECHO: one round trip; after the sixteenth Ld and REPLAY_WIN are set (R71). -/
def State.probeEcho (s : State) (link echo hold : Nat) : State :=
  if validLink link && s.lstate link = 3 && (s.link link).rtts.length < 16 then
    let x := s.link link
    let rtt := (s.clock + 2 ^ 32 - (echo + hold) % 2 ^ 32) % 2 ^ 32
    let rtts := x.rtts ++ [rtt]
    let s1 := s.setLink link { x with rtts := rtts }
    if rtts.length = 16 then
      let ld := ldOf rtts
      let win := replayWin link ld
      let s2 := s1.wr (pgLink link) Lnk.LD ld
      if win > 32768 then s2.trainFail link
      else (s2.wr (pgLink link) Lnk.REPLAY_WIN win).tryCredit link
    else s1.sendTraining link { trType := 2 }
  else s

/-- PROBE_ECHO. -/
def execProbeEcho (link echo hold : Nat) (s : State) : Host.Outcome State Fault Refusal :=
  .next (s.probeEcho link echo hold)

/-- A torus Turret accepts its peer (R72). -/
def State.peerOk (s : State) (l ident dir : Nat) : Bool :=
  l < 16 || (ident = neighbourOf s.coord s.extent (l - 16) && dir = Nat.xor (l - 16) 1)

/-- IDENTITY: the peer is recorded and accepted, or the link fails with WIRING (R72). -/
def State.identity (s : State) (link ident dir : Nat) : State :=
  if validLink link && s.lstate link = 3 then
    let s1 := if link < 16 then s
      else (s.wr (pgLink link) Tor.PEER_COORD ident).wr (pgLink link) Tor.PEER_DIR dir
    if s.peerOk link ident dir then
      let s2 := if link < 16 then s1 else s1.wr (pgLink link) Tor.PEER_VALID 1
      (s2.setLink link { s2.link link with peerOk := true }).tryCredit link
    else ((s1.wr (pgLink link) Tor.PEER_VALID 0).err (pgLink link) 3).failLink link
  else s

/-- IDENTITY. -/
def execIdentity (link ident dir : Nat) (s : State) : Host.Outcome State Fault Refusal :=
  .next (s.identity link ident dir)

/-- CREDIT_GRANT: initial credits for every VC; the link is UP (Table 03.6). -/
def State.creditGrant (s : State) (link : Nat) (credits : List Nat) : State :=
  if validLink link && s.lstate link = 4 then
    let s1 := (List.range 8).foldl (fun t v =>
      (t.wri (pgLink link) Lnk.CRED_INIT v (credits.getD v 0)).setCred link v (credits.getD v 0)) s
    s1.setLstate link 5
  else s

/-- CREDIT_GRANT. -/
def execCreditGrant (link : Nat) (credits : List Nat) (s : State) : Host.Outcome State Fault Refusal :=
  .next (s.creditGrant link credits)

/-- The bound of a training state in cc (Table 03.6). -/
def stateBound (st : Nat) : Nat := if st = 1 then 11000000 else if st = 2 then 1100000 else 110000

/-- A link is in a training state and has exceeded its bound (R70). -/
def State.trainLate (s : State) (l : Nat) : Bool :=
  1 ≤ s.lstate l && s.lstate l ≤ 4 && (s.link l).since + stateBound (s.lstate l) < s.clock

/-- TRAIN_STATE_TIMEOUT: a training state exceeded its bound (R70). -/
def execTrainStateTimeout (link : Nat) (s : State) : Host.Outcome State Fault Refusal :=
  .next (if validLink link && s.trainLate link then s.trainFail link else s)

/-- Loss of lock on a link that is UP (R70). -/
def State.lockLoss (s : State) (l : Nat) : State :=
  if validLink l && s.linkUp l then (s.err (pgLink l) 1).failLink l else s

/-- LOCK_LOSS (R70). -/
def execLockLoss (link : Nat) (s : State) : Host.Outcome State Fault Refusal := .next (s.lockLoss link)

/-- A write of 1 to RETRAIN restarts training from DOWN (Table 03.8). -/
def State.retrain (s : State) (l : Nat) : State := if validLink l then s.downLink l else s

/-- RETRAIN (R70). -/
def execRetrain (link : Nat) (s : State) : Host.Outcome State Fault Refusal := .next (s.retrain link)

/-- A write of EN of Table 03.8: cleared, the link is held in DOWN; set again, it trains (R70, R403). -/
def State.writeLinkEn (s : State) (l : Nat) (en : Bool) : State :=
  let was := s.rdb (pgLink l) Lnk.EN
  let s1 := s.put (pgLink l) Lnk.EN 0 (b2n en)
  if was && !en then s1.downLink l else if en then s1.tryStart l else s1

/-- LINK_EN_WRITE (Table 03.8). -/
def execLinkEnWrite (link : Nat) (en : Bool) (s : State) : Host.Outcome State Fault Refusal :=
  .next (if validLink link then s.writeLinkEn link en else s)

/-! ## Retry (R73–R75, R47) -/

/-- A charge added to a link direction's slack in the current tick (R47). -/
def State.charge (s : State) (link dir cc : Nat) : State :=
  s.setBelfry { s.belfry with charges := AL.put s.belfry.charges (link, dir) (AL.getD s.belfry.charges (link, dir) 0 + cc) }

/-- The stop of a replay of `k` blocks: 39 cc plus the block times together rounded up; 40 cc for one block (R74). -/
def replayCharge (l k : Nat) : Nat := 39 + cdiv (11 * k) (linkRate l)

/-- A block of the window replayed: counted, charged to slack, or the link fails when the block has been replayed
REPLAY_LIM times (R73–R75). A block replayed while the Turret is stopped joins that replay: the stop grows by the blocks'
times, not by another 39 cc (R74, log 184). -/
def State.replayBlock (s : State) (l seq : Nat) : State :=
  let x := s.link l
  match x.window.find? (fun b => b.seq = seq) with
  | none => s
  | some b =>
    if b.replays ≥ s.rd (pgLink l) Lnk.REPLAY_LIM then (s.err (pgLink l) 2).failLink l
    else
      let on : Bool := s.clock < x.stopUntil
      let k := if on then x.stopBlocks + 1 else 1
      let from_ := if on then x.stopFrom else s.clock
      let until_ := from_ + replayCharge l k
      let cc := until_ - (if on then x.stopUntil else s.clock)
      let win := x.window.map fun c => if c.seq = seq then { c with replays := c.replays + 1, sentAt := s.clock } else c
      let s1 := s.setLink l { x with window := win, stopUntil := until_, stopFrom := from_, stopBlocks := k }
      (((s1.bump (pgLink l) Lnk.REPLAYS).bump (pgLink l) Lnk.REPLAY_CC cc).charge l 0 cc).resendFlit l b

/-- NAK_RECEIVE (R73). -/
def execNakReceive (link seq : Nat) (s : State) : Host.Outcome State Fault Refusal :=
  .next (if validLink link && s.linkUp link then s.replayBlock link seq else s)

/-- A block is not acknowledged within 2·Ld + 256 cc of its sending (R73). -/
def State.ackLate (s : State) (l seq : Nat) : Bool :=
  (s.link l).window.any fun b => b.seq = seq && b.sentAt + 2 * s.rd (pgLink l) Lnk.LD + 256 ≤ s.clock

/-- ACK_TIMEOUT (R73). -/
def execAckTimeout (link seq : Nat) (s : State) : Host.Outcome State Fault Refusal :=
  .next (if validLink link && s.linkUp link && s.ackLate link seq then s.replayBlock link seq else s)

/-! ## Die-to-die links (R77, R415) -/

/-- Keep pair of a Keep–Keep link ID 0x20–0x25 (Table 02.4). -/
def keepPair (l : Nat) : Nat × Nat :=
  ([(0, 1), (0, 2), (0, 3), (1, 2), (1, 3), (2, 3)] : List (Nat × Nat)).getD (l - 0x20) (0, 1)

/-- A die-to-die link ID. -/
def isKeepKeep (l : Nat) : Bool := 0x20 ≤ l && l ≤ 0x25
def isKeepCupola (l : Nat) : Bool := 0x40 ≤ l && l ≤ 0x5F

/-- The stop of a retry of `k` flits: 39 cc plus ⌈k / r⌉ (R77). -/
def d2dCharge (l k : Nat) : Nat := 39 + cdiv k (if isKeepKeep l then 14 else 4)

/-- The retry counted on the receiving side's page (R415). -/
def State.countRetry (s : State) (l dir cc : Nat) : State :=
  if isKeepKeep l then
    let p := keepPair l
    if dir = 0 then s.bumpi (pgKeep p.2) Kkl.KK_RETRY p.1 1 else s.bumpi (pgKeep p.1) Kkl.KK_RETRY p.2 1
  else
    let k := (l - 0x40) / 8
    let c := (l - 0x40) % 8
    let s1 := s.bumpi (pgCupola c) Cup.KC_RETRY_CC k cc
    if dir = 0 then s1.bumpi (pgCupola c) Cup.KC_RETRY k 1 else s1

/-- A die-to-die link fails: state 3, KC_FAIL, and a module fault (R77, R415). -/
def State.failD2d (s : State) (l : Nat) : State :=
  let s1 := if isKeepKeep l then
      let p := keepPair l
      (s.wri (pgKeep p.1) Kkl.KK_STATE p.2 3).wri (pgKeep p.2) Kkl.KK_STATE p.1 3
    else
      let k := (l - 0x40) / 8
      let c := (l - 0x40) % 8
      (s.wri (pgCupola c) Cup.KC_STATE k 3).err (pgCupola c) k
  s1.moduleFault

/-- The state of a die-to-die link direction. -/
def State.d2dDir (s : State) (l dir : Nat) : D2dDir := AL.getD s.d2d (l, dir) D2dDir.idle

/-- `k` flits of the 64-flit window resent on a die-to-die link direction; `acked` when the flit then got through. Its sender
takes no new flits while the retry lasts (R77). -/
def State.d2dRetry (s : State) (l dir k : Nat) (acked : Bool) : State :=
  let cc := d2dCharge l k
  let x := s.d2dDir l dir
  let n := x.fails + 1
  let s1 := (s.countRetry l dir cc).charge l dir cc
  let s2 := { s1 with
    d2d := AL.put s1.d2d (l, dir) { fails := if acked then 0 else n, stopUntil := max x.stopUntil s.clock + cc } }
  if 16 ≤ n && !acked then s2.failD2d l else s2

/-- D2D_RETRY (R77). -/
def execD2dRetry (link dir k : Nat) (acked : Bool) (s : State) : Host.Outcome State Fault Refusal :=
  .next (if (isKeepKeep link || isKeepCupola link) && 1 ≤ k && k ≤ 64 then s.d2dRetry link dir k acked else s)

/-! ## Credit timeout (R79) -/

/-- The reservations of an endpoint's Turret given up (R79). -/
def State.dropReservations (s : State) (n : Nat) : State :=
  { s with reservations := s.reservations.filter fun r => r.src ≠ .endpoint n }

/-- Credit on a VC of an endpoint link has stayed at zero for longer than CRED_TO µs (R79, Table 03.9). -/
def State.starved (s : State) (n vc : Nat) : Bool :=
  s.linkUp n && s.rd (pgLink n) Lnk.CRED_AVAIL vc = 0
    && AL.getD (s.link n).zeros vc (s.link n).since + 1100 * s.rd (pgLink n) Ept.CRED_TO < s.clock

/-- CRED_TO: credit stayed at zero on RSP-a or BULK-a for longer than CRED_TO (R79). -/
def execCredTo (n vc : Nat) (s : State) : Host.Outcome State Fault Refusal :=
  .next (if n < 16 && (vc = 2 || vc = 6) && s.starved n vc then
    (((s.err (pgLink n) 5).failLink n).dropOutput n).dropReservations n
  else s)

end Sys2Proof.Machine
end

