-- ==== Sys2Proof/Machine/Routes.lean ====
section
/-! DEFINITION. Routing tables, the injection of requests, reply reservations and route epochs (R80–R93). -/

namespace Sys2Proof.Machine

open Sys2Proof

/-! ## Route banks (R90) -/

/-- An empty route state. -/
def Route.empty : Route :=
  { bankA := { remap := [], dir := [] }, bankB := { remap := [], dir := [] }, flip := none, deadline := none,
    lastDeadline := none }

/-- Route state of a Keep. -/
def State.route (s : State) (k : Nat) : Route := AL.getD s.routes k Route.empty

/-- The state with a Keep's route state replaced. -/
def State.setRoute (s : State) (k : Nat) (r : Route) : State := { s with routes := AL.put s.routes k r }

/-- Bank 0 (A) or 1 (B). -/
def Route.bank (r : Route) (b : Nat) : RouteBank := if b = 0 then r.bankA else r.bankB

/-- CUR of a Keep: the bank in force. -/
def State.routeCur (s : State) (k : Nat) : Nat := s.rd (pgKeep k) Kr.CUR

/-- FILLED of a bank. -/
def State.filled (s : State) (k b : Nat) : Bool := s.rdb (pgKeep k) (if b = 0 then Kr.A_FILLED else Kr.B_FILLED)

/-- IN_USE of a bank; bank A is in use at reset (Table 03.12). -/
def State.inUse (s : State) (k b : Nat) : Bool := s.rdb (pgKeep k) (if b = 0 then Kr.A_IN_USE else Kr.B_IN_USE)

/-- remap[logical] of a bank; with FILLED clear the bank in force routes by default: identity (R90). -/
def State.remap (s : State) (k b log : Nat) : Nat :=
  if s.filled k b then AL.getD ((s.route k).bank b).remap log 0 else log

/-- Direction word of a dimension of a bank: the default is the shortest way, ties to + (R90). -/
def State.goesMinus (s : State) (k b dim v : Nat) : Bool :=
  if s.filled k b then bit (AL.getD ((s.route k).bank b).dir dim 0) v
  else
    let n := cDim s.extent dim + 1
    let fwd := (v + n - cDim s.coord dim) % n
    decide (2 * fwd > n)

/-- CRC-32C of remap entries 0–32,767 as 16-bit words, then the direction words X, Y, Z (R90). -/
def tableSum (t : RouteBank) : Nat :=
  let c1 := (List.range 32768).foldl (fun c i =>
    (leBytes 2 (AL.getD t.remap i 0)).foldl (crcByteR 0x82F63B78) c) 0xFFFFFFFF
  let c2 := (List.range 3).foldl (fun c i =>
    (leBytes 4 (AL.getD t.dir i 0)).foldl (crcByteR 0x82F63B78) c) c1
  Nat.xor c2 0xFFFFFFFF

/-- SUM of a bank: its reset value 0 until a table word is written, then the CRC-32C of its tables (R90, Table 03.12; log
188). -/
def State.bankSum (s : State) (k b : Nat) : Nat :=
  let t := (s.route k).bank b
  if t.remap.isEmpty && t.dir.isEmpty then 0 else tableSum t

/-- A write of TBL_DATA (R90): ignored with TBL_BUSY when the bank is in use or filled. -/
def State.tblWrite (s : State) (k v : Nat) : State :=
  let p := pgKeep k
  let b := s.rd p Kr.TBL_BANK
  let i := s.rd p Kr.TBL_INDEX
  if s.inUse k b || s.filled k b then s.err p 2
  else
    let r := s.route k
    let t := r.bank b
    let t' : RouteBank := if s.rd p Kr.TBL_KIND = 0 then { t with remap := AL.put t.remap i (v % 2 ^ 15) }
      else if s.rd p Kr.TBL_KIND = 1 && i < 3 then { t with dir := AL.put t.dir i (v % 2 ^ 32) }
      else t
    s.setRoute k (if b = 0 then { r with bankA := t' } else { r with bankB := t' })

/-- TBL_DATA read back: the entry TBL_SEL names. -/
def State.tblRead (s : State) (k : Nat) : Nat :=
  let p := pgKeep k
  let t := (s.route k).bank (s.rd p Kr.TBL_BANK)
  if s.rd p Kr.TBL_KIND = 0 then AL.getD t.remap (s.rd p Kr.TBL_INDEX) 0
  else if s.rd p Kr.TBL_KIND = 1 then AL.getD t.dir (s.rd p Kr.TBL_INDEX) 0 else 0

/-- TBL_DATA_WRITE (R90). -/
def execTblDataWrite (keep v : Nat) (s : State) : Host.Outcome State Fault Refusal :=
  .next (if keep < 4 then s.tblWrite keep v else s)

/-- A write of FILLED of a bank: clearing that of a bank in use is ignored with TBL_BUSY (R90). -/
def State.writeFilled (s : State) (k b : Nat) (v : Bool) : State :=
  if !v && s.filled k b && s.inUse k b then s.err (pgKeep k) 2
  else s.put (pgKeep k) (if b = 0 then Kr.A_FILLED else Kr.B_FILLED) 0 (b2n v)

/-! ## Requesters (R60, R80, R86) -/

/-- e bits and the M flag of a source's coordinate (R60). -/
def srcE : Source → Nat × Bool
  | .endpoint n => (n, false)
  | .host => (2, true)
  | .moduleUnit e => (e, true)

/-- The Keep under whose route bank a source injects (R80): its Turret's Keep, Keep 3 for the host MAC and Lantern,
a mover's own Keep, Keep 0 otherwise. -/
def srcKeep : Source → Nat
  | .endpoint n => n / 4
  | .host => 3
  | .moduleUnit e => if 4 ≤ e ∧ e ≤ 7 then e - 4 else if e = 1 ∨ e = 2 then 3 else 0

/-- Reservations of a source. -/
def State.resvOf (s : State) (src : Source) : List Reservation := s.reservations.filter fun r => r.src = src

/-- A reply made for a request by its own source, without injection (R80, R86). -/
def localReply (f : Flit) (status tick : Nat) : Flit :=
  (FlitSpec.flit {
      kind := 2, vc := 2, epoch := f.epoch, cm := f.cm, dst := f.src, dstM := f.srcM, src := f.dst,
      srcM := f.dstM, tick := tick, tag := f.tag, opcode := f.opcode, status := status })

/-- A flit delivered to a unit of this module by a Keep (R60). -/
def State.deliver (s : State) (e k : Nat) (f : Flit) : State := s.setOpn { s.opn with service := s.opn.service ++ [(e, k, f)] }

/-- A reply given to a source: an endpoint's leaves on its link (R66), the Lantern keeps its own until it takes them, that of a
Keep's mover waits for it. -/
def State.giveReply (s : State) (src : Source) (f : Flit) : State :=
  match src with
  | .endpoint n => s.setLink n { s.link n with msgs := (s.link n).msgs ++ [f] }
  | .host => s.emit (.reply src f)
  | .moduleUnit e =>
    let s1 := s.emit (.reply src f)
    if e = 1 then { s1 with answers := s1.answers ++ [f] } else if 4 ≤ e && e ≤ 7 then s1.deliver e (e - 4) f else s1

/-- The timeout in ticks of a source (R86): OPEN_TMO of an endpoint Turret, MV_TMO of a Keep mover; other units have no
register and none is stated, so a free value stands for it (log 15). -/
def State.timeoutOf (s : State) (src : Source) : Nat :=
  match src with
  | .endpoint n => s.rd (pgLink n) Ept.OPEN_TMO
  | .host => Config.freeValue 0 % 2 ^ 16
  | .moduleUnit e => if 4 ≤ e ∧ e ≤ 7 then s.rd (pgKeep (e - 4)) Mov.MV_TMO else Config.freeValue e % 2 ^ 16

/-- VC a request enters the first ring on: VC a of its class (R82, Table 03.3). -/
def reqVc (opcode : Nat) (srcM : Bool) : Nat :=
  if opcode = 0x10 || opcode = 0x11 || opcode = 0x20 then 6
  else if (opcode = 1 || opcode = 2) && srcM then 4
  else 0

/-- What injection makes of a request: answered locally with a status, or the flit to send. -/
inductive Inject where
  | answer (status : Nat) (unroutable : Bool)
  | send (f : Flit)
  deriving DecidableEq, Repr

/-- ROUTE_COMPUTE (R80): DST from the remap of the logical home, or from the home coordinate. -/
def State.routeCompute (s : State) (src : Source) (f : Flit) : Inject :=
  let k := srcKeep src
  let b := s.routeCur k
  let r := reqOf f
  let out (dst : Nat) : Inject :=
    .send (FlitSpec.flit {
        kind := 1, epoch := b, vc := reqVc r.opcode (srcE src).2, cm := f.cm, dst := coord19 dst 0, dstM := true,
        src := coord19 s.coord (srcE src).1, srcM := (srcE src).2, tick := s.now, tag := f.tag,
        opcode := r.opcode, payload := f.payload })
  if r.virt then
    let dst := s.remap k b (vaLog r.addr)
    if inExtent dst s.extent then out dst else .answer 0xE3 true
  else if inExtent (faHome r.addr) s.extent then out (faHome r.addr)
  else .answer ((checkReq f false).getD 3) false

/-- A tag an endpoint may not use: outstanding, or 4,096 or more (R86). -/
def State.tagBad (s : State) (src : Source) (tag : Nat) : Bool :=
  4096 ≤ tag || (s.resvOf src).any fun r => r.tag = tag

/-- A flip is armed in a Keep and the flit was injected in its tick F or later: it carries the new epoch (R91). -/
def State.newEpoch (s : State) (k : Nat) (f : Flit) : Bool :=
  s.rdb (pgKeep k) Kr.ARMED &&
    (match (s.route k).flip with
     | some t => tickReached (fullStamp s.now f.tick16) t
     | none => false)

/-- The next hop of a flit at this module (R81): the output direction, or none when it has arrived. `arrived` is the
torus direction of travel it came in by. A flit of the new epoch, and every flit until the drain deadline, goes by the bank that
its EPOCH names (R91). -/
def State.nextHop (s : State) (k : Nat) (f : Flit) (travel : Option Nat) : Option Nat :=
  let dst := f.dst / 16
  let b := if s.rdb (pgKeep k) Kr.DRAINING || s.newEpoch k f then f.epoch else s.routeCur k
  let dimTodo := (List.range 3).find? fun d => cDim dst d ≠ cDim s.coord d
  match dimTodo with
  | none => none
  | some dim =>
    match travel with
    | some d => if d / 2 = dim then some d
      else some (2 * dim + b2n (s.goesMinus k b dim (cDim dst dim)))
    | none => some (2 * dim + b2n (s.goesMinus k b dim (cDim dst dim)))

/-- VC on the link a flit leaves by (R82): VC a on entering a ring; b on and after a dateline link, until it leaves. -/
def State.hopVc (s : State) (f : Flit) (travel : Option Nat) (d : Nat) : Nat :=
  let base := 2 * (f.vc / 2)
  let staying : Bool := match travel with
    | some t => t / 2 = d / 2
    | none => false
  if s.isDateline d then base + 1 else if staying then f.vc else base

/-- A flit handed to admission at an output (R121). -/
def State.makeReady (s : State) (r : Ready) : State := s.setOpn { s.opn with ready := s.opn.ready ++ [r] }

/-- A flit sent on from a Keep: to its next output, to an endpoint here, or to a unit here (R22, R81). A flit for a
torus Turret in FAILED is discarded and counted (R84). -/
def State.forward (s : State) (k : Nat) (src : QSource) (buf : Option (Nat × Nat)) (travel : Option Nat) (f : Flit) : State :=
  match s.nextHop k f travel with
  | some d =>
    let l := torusLink d
    let ok := keepOfLink l
    if s.lstate l = 6 then (s.bump (pgKeep ok) Kr.UNROUTABLE).err (pgKeep ok) 1
    else
      let vc := s.hopVc f travel d
      s.makeReady { keep := ok, out := outOfLink l, vc := vc, buf := buf, flit := f.setField 3 3 vc,
                    entering := !(match travel with | some t => decide (t / 2 = d / 2) | none => false),
                    src := if src = .ingress && ok ≠ k then .keep k else src }
  | none =>
    if f.dstM && f.dst % 16 = 2 && f.opcode = 0x20 then
      s.makeReady { keep := 3, out := 4, vc := 2 * (f.vc / 2), buf := buf, flit := f, entering := false,
                    src := if src = .ingress && k ≠ 3 then .keep k else src }
    else if f.dstM then s.deliver (f.dst % 16) k f
    else
      let n := f.dst % 16
      let vc := 2 * (f.vc / 2)
      s.makeReady { keep := n / 4, out := n % 4, vc := vc, buf := buf, flit := f.setField 3 3 vc, entering := false,
                    src := if src = .ingress && n / 4 ≠ k then .keep k else src }

/-- How the requests of a source enter the fabric: those of a Cupola's mover over its Keep–Cupola link, others by the ingress
switch of its Keep (R22, R60). -/
def srcPath : Source → QSource
  | .moduleUnit e => if 8 ≤ e then .cupola (e - 8) else .ingress
  | .endpoint _ => .ingress
  | .host => .ingress

/-- A flit of an endpoint that goes no further: the cells it held are free (R121). -/
def State.taken (s : State) (src : Source) (f : Flit) : State :=
  match src with
  | .endpoint n => s.returnCredit n f.vc f.cells
  | .host => s
  | .moduleUnit _ => s

/-- A computed request leaves its source: that of an endpoint waits in its Turret's input buffer for the ingress switch (R121). -/
def State.enter (s : State) (src : Source) (g : Flit) : State :=
  match src with
  | .endpoint n => s.bufferIn n g
  | .host => s.forward 3 .ingress none none g
  | .moduleUnit e => s.forward (srcKeep (.moduleUnit e)) (srcPath (.moduleUnit e)) none none g

/-- OPEN_REQUEST_INJECT: tag check, destination, reservation, injection (R80, R86); a poisoned request is discarded (R125). -/
def State.inject (s : State) (src : Source) (f0 : Flit) : State :=
  let e := srcE src
  let f := (f0.setField 27 19 (coord19 s.coord e.1)).setField 92 1 (b2n e.2)
  if f.poison then s.taken src f
  else if s.tagBad src f.tag then
    let s1 := match src with
      | .endpoint n => s.bump (pgLink n) Ept.TAG_ERRS
      | _ => s
    (s1.giveReply src (localReply f 0xE2 s.now)).taken src f
  else
    match s.routeCompute src f with
    | .answer st unr =>
      let k := srcKeep src
      let s1 := if unr then (s.bump (pgKeep k) Kr.UNROUTABLE).err (pgKeep k) 1 else s
      (s1.giveReply src (localReply f st s.now)).taken src f
    | .send g =>
      let r := reqOf f
      let s1 := { s with reservations := s.reservations ++
        [Reservation.mk src f.tag s.now g.epoch (if r.virt then some (vaLog r.addr) else none) r.opcode g.dst] }
      (s1.emit (.inject src g)).enter src g

/-- OPEN_REQUEST_INJECT (R80). -/
def execOpenRequestInject (src : Source) (f : Flit) (s : State) : Host.Outcome State Fault Refusal :=
  .next (s.inject src f)

/-- A reservation completed locally with a status: the reply carries the request's DST as its SRC (R60, R86, R92). -/
def State.complete (s : State) (r : Reservation) (status : Nat) : State :=
  let e := srcE r.src
  let s1 := { s with reservations := s.reservations.filter (· ≠ r) }
  s1.giveReply r.src (FlitSpec.flit {
      kind := 2, vc := 2, epoch := r.epoch, dst := coord19 s.coord e.1, dstM := e.2,
      src := r.dst, srcM := true, tick := s.now, tag := r.tag, opcode := r.opcode, status := status })

/-- A reservation's timeout is reached: made in tick I, due at the boundary that starts I + timeout (R86). -/
def State.resvDue (s : State) (r : Reservation) : Bool := tickReached s.now (tickAdd r.tick (s.timeoutOf r.src))

/-- Completion with TIMEOUT (R86). -/
def State.timeoutResv (s : State) (r : Reservation) : State :=
  let s1 := s.complete r 0xE0
  match r.src with
  | .endpoint n => s1.bump (pgLink n) Ept.TIMEOUTS
  | _ => s1

/-- RESERVATION_TIMEOUT (R86). -/
def execReservationTimeout (src : Source) (tag : Nat) (s : State) : Host.Outcome State Fault Refusal :=
  .next (match (s.resvOf src).find? (fun r => r.tag = tag) with
    | some r => if s.resvDue r then s.timeoutResv r else s
    | none => s)

/-- A flit taken by the unit of this module to which it was delivered. -/
def State.unserve (s : State) (e : Nat) (f : Flit) : State :=
  s.setOpn { s.opn with service := dropFirst (fun x => x.1 = e && x.2.2 = f) s.opn.service }

/-- The flit that such a unit takes, read out of where the Keep held it (R337). -/
def State.takeService (s : State) (e : Nat) (f : Flit) : Option Flit × State :=
  let head := ((s.opn.service.find? fun x => x.1 = e).map fun x => x.2.2) = some f
  if head then (s.unserve e f).flitRead (.service e) f else (some f, s.unserve e f)

/-- The same, with what the unit then does; a flit whose header is beyond correction is gone. -/
def State.served (s : State) (e : Nat) (f : Flit) (act : State → Flit → State) : State :=
  match s.takeService e f with
  | (some g, t) => act t g
  | (none, t) => t

/-- A reply reaches its requester, its final receiver, which checks its header (R61): it completes the reservation, or is
counted LATE_RSP (R86). A poisoned one is discarded (R125). -/
def State.reply (s : State) (src : Source) (f : Flit) : State :=
  if !f.hcrcOk then s.headerDiscard (srcKeep src)
  else if f.poison then s
  else match (s.resvOf src).find? (fun r => r.tag = f.tag) with
  | some r => ({ s with reservations := s.reservations.filter (· ≠ r) }).giveReply src f
  | none =>
    match src with
    | .endpoint n => s.bump (pgLink n) Ept.LATE_RSP
    | _ => s

/-- REPLY_RECEIVE (R86). -/
def execReplyReceive (src : Source) (f : Flit) (s : State) : Host.Outcome State Fault Refusal :=
  .next (match src with
    | .moduleUnit e => s.served e f fun t g => t.reply src g
    | .host => s.served 2 f fun t g => t.reply src g
    | .endpoint _ => s.reply src f)

/-! ## Route flips (R91–R93) -/

/-- Configuration faults are module faults reported at the boundary (Table 14.1). -/
def State.configFault (s : State) : State := s.moduleFault

/-- A flip armed for F in one Keep. -/
def State.armFlip (s : State) (k f : Nat) : State :=
  (s.setRoute k { s.route k with flip := some f }).wr (pgKeep k) Kr.ARMED 1

/-- The cases of R93 in which a module refuses a flip; `sum`: the checksum of the message, none for a local write. -/
def State.flipRefused (s : State) (k f : Nat) (sum : Option Nat) : Bool :=
  let idle := 1 - s.routeCur k
  !s.filled k idle
    || (match sum with
        | some x => s.bankSum k idle ≠ x
        | none => false)
    || s.rdb (pgKeep k) Kr.DRAINING || s.rdb (pgKeep k) Kr.ARMED
    || (match (s.route k).lastDeadline with
        | some d => tickLater (tickAdd d (s.rd (pgKeep k) Kr.AGE_MAX)) f
        | none => false)

/-- A flip tried in one Keep: late, refused or armed (R93). -/
def State.tryFlip (s : State) (k f : Nat) (sum : Option Nat) : State :=
  if !tickLater f s.now then (s.err (pgKeep k) 4).configFault
  else if s.flipRefused k f sum then (s.err (pgKeep k) 3).configFault
  else s.armFlip k f

/-- A flip tried in the four Keeps of the module: one Keep's cause refuses it for all, with FLIP_REFUSED in each Keep that has
one (R93, log 189). -/
def State.tryFlips (s : State) (f : Nat) (sum : Option Nat) : State :=
  let bad := (List.range 4).filter fun k => s.flipRefused k f sum
  if !tickLater f s.now then (s.err (pgKeep 0) 4).configFault
  else if bad.isEmpty then (List.range 4).foldl (fun u k => u.armFlip k f) s
  else (bad.foldl (fun u k => u.err (pgKeep k) 3) s).configFault

/-- Payload of a ROUTE_FLIP (R93). -/
def flipPayload (f sum origin : Nat) : List Byte := leBytes 6 f ++ leBytes 4 sum ++ leBytes 2 origin

/-- A ROUTE_FLIP received: flooded once as R53 floods, and tried in every Keep (R93). A late one is not forwarded. -/
def State.routeFlip (s : State) (d f sum origin : Nat) : State :=
  let t := f % tickMod
  if s.floodedBefore 0x32 t then s
  else if !tickLater t s.now then (s.err (pgKeep 0) 4).configFault
  else if tickSub t s.now > 1023 then s.err pgBelfry 5
  else
    let s1 := (s.rememberFlood 0x32 t).flood (some d) 0x32 (flipPayload t sum origin)
    s1.tryFlips t (some sum)

/-- ROUTE_FLIP (R93). -/
def execRouteFlip (d tick sum origin : Nat) (s : State) : Host.Outcome State Fault Refusal :=
  .next (s.routeFlip d tick sum origin)

/-- A write of FLIP_AT_LO of a Keep arms the flip there; with FLOOD set the module floods ROUTE_FLIP and arms all four
Keeps (R93, Table 03.12). -/
def State.flipAtWrite (s : State) (k v : Nat) : State :=
  let s1 := s.put (pgKeep k) Kr.FLIP_AT_LO 0 v
  let f := s1.rd2 (pgKeep k) Kr.FLIP_AT_LO Kr.FLIP_AT_HI
  if s1.rdb (pgKeep k) Kr.FLOOD then
    let sum := s1.bankSum k (1 - s1.routeCur k)
    if !tickLater f s1.now || s1.flipRefused k f (some sum) then s1.tryFlip k f (some sum)
    else
      let s2 := (s1.rememberFlood 0x32 f).flood none 0x32 (flipPayload f sum s1.coord)
      s2.tryFlips f (some sum)
  else s1.tryFlip k f none

/-- FLIP_AT_WRITE (R93). -/
def execFlipAtWrite (keep v : Nat) (s : State) : Host.Outcome State Fault Refusal :=
  .next (if keep < 4 then s.flipAtWrite keep v else s)

/-- ROUTE_FLIP_TAKE in one Keep (R91): CUR toggles, DRAINING sets, the new bank is in use. -/
def State.takeFlip (s : State) (k f : Nat) : State :=
  let p := pgKeep k
  let cur := s.routeCur k
  let s1 := s.setRoute k { s.route k with flip := none, deadline := some (tickAdd f (s.rd p Kr.DRAIN)) }
  ((((s1.wr p Kr.CUR (1 - cur)).wr p Kr.DRAINING 1).wr p Kr.ARMED 0).wr p
    (if cur = 0 then Kr.B_IN_USE else Kr.A_IN_USE) 1)

/-- A logical home is migrated by the flip in progress in a Keep: its remap entries differ (R92). -/
def State.migrated (s : State) (k log : Nat) : Bool := s.remap k 0 log ≠ s.remap k 1 log

/-- The reservations that complete with STALE_EPOCH at a Keep's drain deadline (R92). -/
def State.staleResv (s : State) (k : Nat) : List Reservation :=
  s.reservations.filter fun r => srcKeep r.src = k && r.epoch ≠ s.routeCur k &&
    (match r.home with
     | some h => s.migrated k h
     | none => false)

/-- DRAIN_DEADLINE in one Keep (R91, R92): stale reservations complete, DRAINING clears, the old bank leaves use. -/
def State.drainKeep (s : State) (k : Nat) : State :=
  match (s.route k).deadline with
  | none => s
  | some d =>
    if tickReached s.now d then
      let p := pgKeep k
      let s1 := (s.staleResv k).foldl (fun t r =>
        let t1 := t.complete r 0xE1
        match r.src with
        | .endpoint n => t1.bump (pgLink n) Ept.STALE_DONE
        | _ => t1) s
      let s2 := s1.setRoute k { s1.route k with deadline := none, lastDeadline := some d }
      (s2.wr p Kr.DRAINING 0).wr p (if s2.routeCur k = 0 then Kr.B_IN_USE else Kr.A_IN_USE) 0
    else s

/-- The drain deadline in every Keep where it is reached. -/
def State.drainDeadline (s : State) : State := (List.range 4).foldl State.drainKeep s

/-- A memory request: an open request that a home serves (Table 03.3). -/
def isMemRequest (f : Flit) : Bool := f.kind = 1 && [1, 2, 3, 4, 0x10, 0x11].contains f.opcode

/-- An old-epoch virtual request discarded as STALE at this module (R92), by the route bank of the Keep it came in by (log
190). -/
def State.staleRequest (s : State) (k : Nat) (f : Flit) : Bool :=
  let r := reqOf f
  isMemRequest f && r.virt && f.epoch ≠ s.routeCur k && !s.rdb (pgKeep k) Kr.DRAINING && !s.newEpoch k f
    && (s.route k).lastDeadline.isSome && s.remap k (s.routeCur k) (vaLog r.addr) ≠ s.coord

/-! ## Age (R89) -/

/-- Age of a flit in ticks, modulo 2^16. -/
def State.flitAge (s : State) (f : Flit) : Nat := (s.now + 2 ^ 16 - f.tick16) % 2 ^ 16

/-- The age of a flit exceeds AGE_MAX of a Keep (R89). -/
def State.tooOld (s : State) (k : Nat) (f : Flit) : Bool := s.flitAge f > s.rd (pgKeep k) Kr.AGE_MAX

/-- A flit discarded for its age by a Keep (R89). -/
def State.ageDiscard (s : State) (k : Nat) : State := (s.bump (pgKeep k) Kr.AGED).err (pgKeep k) 7

/-- FLIT_AGED: a flit older than AGE_MAX is discarded and counted: the first of an egress queue's SRAM, else one that awaits its
HBM write, else one that waits for admission. Flits in the overflow region meet this rule when they are read back (R89, R128).
What ends a packet takes the place of its LAST flit (R125). A spilled queue of which nothing is left in the region or on its way
there stops being spilled (R127). -/
def State.flitAged (s : State) (k o vc : Nat) : State :=
  let q := s.queue k o vc
  let old (x : QFlit) : Bool := s.tooOld k x.flit
  let oldReady (r : Ready) : Bool := r.keep = k && r.out = o && r.vc = vc && s.tooOld k r.flit
  let leftCells (f : Flit) : Nat := ((s.leftOf f).map Flit.cells).getD 0
  match q.sram.find? old with
  | some x => ((s.setQueue k o vc { q with sram := swapFirst old s.leftQ q.sram }).countLeft k x.flit).ageDiscard k
  | none =>
    match q.stage.find? old with
    | some x =>
      let rest := swapFirst old s.leftQ q.stage
      let q1 : EgressQ := if rest.isEmpty && q.hbm.isEmpty
        then { q with stage := [], pages := [], drained := 0, spilled := false } else { q with stage := rest }
      ((s.setQueue k o vc q1).countLeft k x.flit).ageDiscard k
    | none =>
      match s.opn.ready.find? oldReady with
      | none => s
      | some r =>
        let s1 := s.setOpn { s.opn with
          ready := swapFirst oldReady (fun x => (s.leftOf x.flit).map fun f => { x with flit := f }) s.opn.ready }
        let s2 := (s1.countLeft k r.flit).ageDiscard k
        match r.buf with
        | some (l, v) => s2.returnCredit l v (r.flit.cells - leftCells r.flit)
        | none => s2

/-- FLIT_AGED (R89). -/
def execFlitAged (keep out vc : Nat) (s : State) : Host.Outcome State Fault Refusal := .next (s.flitAged keep out vc)

end Sys2Proof.Machine
end

