-- ==== Sys2Proof/Machine/OpenPlane.lean ====
section
/-! DEFINITION. The open plane in a Keep: ingress switch, admission, marking, overflow to HBM and the egress merge
(R61, R81–R84, R121–R130). -/

namespace Sys2Proof.Machine

open Sys2Proof

/-! ## Ingress switch (R22, R61) -/

/-- The packet to which a flit of an input buffer belongs goes on, or ends with its LAST flit (R63). -/
def State.noteSwitched (s : State) (l vc : Nat) (f : Flit) : State :=
  s.setOpn { s.opn with
    switched := if f.last then AL.del s.opn.switched (l, vc) else AL.put s.opn.switched (l, vc) f }

/-- A flit discarded at the ingress switch: its cells are free. Of a packet under way the LAST flit is replaced at the head of the
buffer by one that ends it; the LAST flit of any other packet of several flits that loses one goes on with POISON set (R125,
log 209). -/
def State.switchLost (s : State) (l vc : Nat) (f : Flit) : State :=
  let buf := AL.getD s.opn.inputs (l, vc) []
  let k := keepOfLink l
  if f.last then
    match AL.get s.opn.switched (l, vc) with
    | none => s.returnCredit l vc f.cells
    | some g =>
      let e := lastInPlace s.now g
      ((s.setOpn { s.opn with inputs := AL.put s.opn.inputs (l, vc) (e :: buf) }).fwdPoison k).returnCredit l vc
        (f.cells - e.cells)
  else if buf.any Flit.last then
    ((s.setOpn { s.opn with
      inputs := AL.put s.opn.inputs (l, vc) (swapFirst Flit.last (fun x => some (x.setField 7 1 1)) buf) }).fwdPoison k).returnCredit
        l vc f.cells
  else
    (s.setOpn { s.opn with cut := (l, vc) :: s.opn.cut.filter (· ≠ (l, vc)) }).returnCredit l vc f.cells

/-- INGRESS_SWITCH: the head flit of a Turret input buffer is checked and switched (R61, R81, R84, R89, R92). -/
def State.ingressSwitch (s : State) (l vc : Nat) : State :=
  match AL.getD s.opn.inputs (l, vc) [] with
  | [] => s
  | f :: rest =>
    let k := keepOfLink l
    match (s.setOpn { s.opn with inputs := AL.put s.opn.inputs (l, vc) rest }).flitRead (.input l vc) f with
    | (none, s1) => s1.switchLost l vc f
    | (some f, s1) =>
      if !f.hcrcOk then (s1.headerDiscard k).switchLost l vc f
      else if s1.tooOld k f then (s1.ageDiscard k).switchLost l vc f
      else
        let travel := if l < 16 then none else some (Nat.xor (l - 16) 1)
        let here := s1.nextHop k f travel = none && f.dstM
        if here && s1.staleRequest k f then
          ((s1.bump (pgKeep k) Kr.STALE).err (pgKeep k) 6).returnCredit l vc f.cells
        else
          let s2 := s1.forward k .ingress (some (l, vc)) travel f
          (if s2.opn.ready.length = s1.opn.ready.length then s2.returnCredit l vc f.cells else s2).noteSwitched l vc f

/-- INGRESS_SWITCH (R22). -/
def execIngressSwitch (link vc : Nat) (s : State) : Host.Outcome State Fault Refusal := .next (s.ingressSwitch link vc)

/-! ## Overflow regions (R126–R128) -/

/-- A Keep's overflow configuration meets a case of R126. -/
def State.ovfBad (s : State) (k : Nat) : Bool :=
  let b := s.rd (pgKeep k) Opn.OVF_BASE
  let n := s.rd (pgKeep k) Opn.OVF_SIZE
  b + n > 1024 || s.meetsSystem (b * gib) (n * gib) ||
    (List.range 4).any fun j => j ≠ k && meets b n (s.rd (pgKeep j) Opn.OVF_BASE) (s.rd (pgKeep j) Opn.OVF_SIZE)

/-- The 4 KiB pages of a Keep's region that hold flits. -/
def State.ovfPages (s : State) (k : Nat) : List Nat :=
  (List.range (keepOuts k)).flatMap fun o => (List.range 8).flatMap fun v => (s.queue k o v).pages

/-- 4 KiB pages in use in a Keep's region (OVF_USED). -/
def State.ovfUsed (s : State) (k : Nat) : Nat := (s.ovfPages k).length

/-- The lowest page of a Keep's region that is free (log 105). -/
def State.ovfFree (s : State) (k : Nat) : Nat :=
  ((List.range (s.ovfUsed k + 1)).find? fun i => !(s.ovfPages k).contains i).getD 0

/-- Local HBM offset of the `i`-th flit place of a queue's overflow pages: 16 flits of 256 bytes to a page (R127). -/
def State.ovfPlace (s : State) (k : Nat) (pages : List Nat) (i : Nat) : Nat :=
  s.rd (pgKeep k) Opn.OVF_BASE * gib + 4096 * pages.getD (i / 16) 0 + 256 * (i % 16)

/-- Queues now spilled (SPILLED_Q). -/
def State.spilledQ (s : State) (k : Nat) : Nat :=
  sumL ((List.range (keepOuts k)).map fun o => ((List.range 8).filter fun v => (s.queue k o v).spilled).length)

/-- One more flit of a queue finds a place: in the last page of its own part or in a free one (R128). -/
def State.ovfRoom (s : State) (k o vc : Nat) : Bool :=
  (s.queue k o vc).drained + (s.queue k o vc).hbm.length < 16 * (s.queue k o vc).pages.length || s.ovfUsed k < s.rd (pgKeep k) Opn.OVF_SIZE * 2 ^ 18

/-- The SPILL bit of a class; MGMT queues never spill (R127). -/
def State.maySpill (s : State) (k cls : Nat) : Bool :=
  s.rd (pgKeep k) Opn.OVF_SIZE ≠ 0 && !s.ovfBad k &&
    (match cls with
     | 0 => s.rdb (pgKeep k) Opn.SPILL_REQ
     | 1 => s.rdb (pgKeep k) Opn.SPILL_RSP
     | 3 => s.rdb (pgKeep k) Opn.SPILL_BULK
     | _ => false)

/-- The overflow regions of two Keeps overlap (R126). -/
def State.ovfMeets (s : State) (j k : Nat) : Bool :=
  meets (s.rd (pgKeep j) Opn.OVF_BASE) (s.rd (pgKeep j) Opn.OVF_SIZE) (s.rd (pgKeep k) Opn.OVF_BASE)
    (s.rd (pgKeep k) Opn.OVF_SIZE)

/-- OVF_CONFIG_WRITE (R126): ignored while a queue is spilled; a bad configuration sets OVF_CFG, in every Keep whose region it
overlaps as well. A size that Table 05.1 does not admit (1–3, 65–127) is taken as that many GiB (log 191). -/
def State.ovfWrite (s : State) (k v : Nat) : State :=
  if s.spilledQ k ≠ 0 then s.err (pgKeep k) 16
  else
    let s1 := (s.put (pgKeep k) Opn.OVF_BASE 0 (bits v 0 10)).put (pgKeep k) Opn.OVF_SIZE 0 (bits v 16 7)
    ((List.range 4).filter fun j => if j = k then s1.ovfBad k else s1.ovfMeets j k).foldl (fun t j => t.err (pgKeep j) 16) s1

/-- OVF_CONFIG_WRITE (R126). -/
def execOvfConfigWrite (keep v : Nat) (s : State) : Host.Outcome State Fault Refusal :=
  .next (if keep < 4 then s.ovfWrite keep v else s)

/-! ## Admission (R121, R123, R127, R130) -/

/-- The flit marked when the queue is at its class's threshold (R130). -/
def State.mark (s : State) (k : Nat) (q : EgressQ) (vc : Nat) (f : Flit) : Bool :=
  let t := s.rd (pgKeep k) Opn.MARK_THRESH (vcClass vc)
  t ≠ 0xFFFF && t ≤ q.depth && !f.cm

/-- The queue becomes spilled when this flit arrives (R127). -/
def State.spillStart (s : State) (k vc : Nat) (q : EgressQ) : Bool :=
  s.maySpill k (vcClass vc) && s.rd (pgKeep k) Opn.SPILL_DEPTH ≤ q.sramCells && s.poolFree k < s.rd (pgKeep k) Opn.POOL_LOW

/-- Place of a source in the order of R123. -/
def sourceRank : QSource → Nat
  | .ingress => 0
  | .keep j => 1 + j
  | .cupola c => 5 + c

/-- Keep–Keep link of two Keeps (Table 02.4), and the direction that Keep `j` transmits on to Keep `k`. -/
def keepLink (j k : Nat) : Nat × Nat :=
  let a := min j k
  let b := max j k
  (0x20 + (if a = 0 then b - 1 else if a = 1 then 1 + b else 5), b2n (decide (k < j)))

/-- A source's flits reach a Keep: the sender of the die-to-die link they cross is not stopped by a retry (R77). -/
def State.crosses (s : State) (k : Nat) : QSource → Bool
  | .ingress => true
  | .keep j => (s.d2dDir (keepLink j k).1 (keepLink j k).2).stopUntil ≤ s.clock
  | .cupola c => (s.d2dDir (0x40 + 8 * k + c) 1).stopUntil ≤ s.clock

/-- The packet a waiting flit belongs to: its source, its input buffer and its SRC (R63). -/
def Ready.packet (r : Ready) : QSource × Option (Nat × Nat) × Nat := (r.src, r.buf, r.flit.src)

/-- The flit that an egress queue admits next: the next of the packet being admitted, or the first waiting flit of the first
source in the order of R123. -/
def State.readyNext (s : State) (k o vc : Nat) : Option Ready :=
  let l := s.opn.ready.filter fun r => r.keep = k && r.out = o && r.vc = vc && s.crosses k r.src
  match (s.queue k o vc).admitting with
  | some p => l.find? fun r => r.packet = p
  | none => l.find? fun r => l.all fun x => sourceRank r.src ≤ sourceRank x.src

/-- The queue with a flit admitted, spilled or not. -/
def admitTo (q : EgressQ) (spilled : Bool) (x : QFlit) (p : QSource × Option (Nat × Nat) × Nat) : EgressQ :=
  let adm := if x.flit.last then none else some p
  if spilled then { q with stage := q.stage ++ [x], spilled := true, admitting := adm }
  else { q with sram := q.sram ++ [x], admitting := adm }

/-- An arrival held because the overflow region has no free page, counted once (R128). -/
def State.holdFull (s : State) (k : Nat) (r : Ready) : State :=
  if r.counted then s
  else
    let ready := s.opn.ready.map fun x => if x = r then { x with counted := true } else x
    ((s.setOpn { s.opn with ready := ready }).bump (pgKeep k) Opn.OVF_FULL).err (pgKeep k) 17

/-- The queue can take a waiting flit now: its packet's turn has come, the overflow region of a spilled queue has room for it, and
cells are found (R121–R123, R128). -/
def State.mayAdmit (s : State) (k o vc : Nat) (r : Ready) : Bool :=
  let q := s.queue k o vc
  (!q.spilled || s.ovfRoom k o vc) && s.canTake k (vcClass vc) q.sramCells r.flit.cells

/-- A flit that has been admitted put into its queue, marked where the queue is at its threshold (R127, R130). Of a discarded one what
ends its packet takes its place (R125). -/
def State.enqueue (s : State) (k o vc : Nat) (r : Ready) (f : Option Flit) : State :=
  let q := s.queue k o vc
  let spilled := q.spilled || s.spillStart k vc q
  match f with
  | some f =>
    let marked := s.mark k q vc f
    let s1 := s.setQueue k o vc (admitTo q spilled ⟨if marked then f.setField 6 1 1 else f, r.entering⟩ r.packet)
    if marked then s1.bump (pgKeep k) Opn.MARKED else s1
  | none =>
    match s.leftOf r.flit with
    | some f => (s.setQueue k o vc (admitTo q spilled ⟨f, r.entering⟩ r.packet)).fwdPoison k
    | none => s.setQueue k o vc { q with admitting := if r.flit.last then none else some r.packet }

/-- EGRESS_ADMIT: the source's next flit enters the queue when its turn comes and the queue can take its cells; a Keep buffer bank
that is off wakes for it (R121–R123, R426). -/
def State.egressAdmit (s : State) (k o vc : Nat) (src : QSource) : State :=
  match s.readyNext k o vc with
  | none => s
  | some r =>
    let q := s.queue k o vc
    if r.src ≠ src then s
    else if q.spilled && !s.ovfRoom k o vc then s.holdFull k r
    else if !s.banksHold k r.flit.cells then s.wakeBank k
    else if !s.mayAdmit k o vc r then s
    else
      let x := (s.setOpn { s.opn with ready := dropFirst (· = r) s.opn.ready }).flitRead (.waiting k o vc) r.flit
      let s1 := x.2.enqueue k o vc r x.1
      match r.buf with
      | some (l, v) => s1.returnCredit l v r.flit.cells
      | none => s1

/-- EGRESS_ADMIT (R123). -/
def execEgressAdmit (keep out vc : Nat) (src : QSource) (s : State) : Host.Outcome State Fault Refusal :=
  .next (s.egressAdmit keep out vc src)

/-- A flit place of an overflow region may be used now: the sender of the Keep–Cupola link in that direction (0 toward the Cupola)
is not stopped by a retry, and the stack is READY (R77, R127; log 210). -/
def State.spillPath (s : State) (k dir place : Nat) : Bool :=
  (s.d2dDir (0x40 + 8 * k + stackOf place / 2) dir).stopUntil ≤ s.clock && s.rd (pgHbm (stackOf place)) Hbm.HSTATE = 2

/-- The pages of a spilled queue once one more flit is written to its tail. -/
def State.tailPages (s : State) (k : Nat) (q : EgressQ) : List Nat :=
  if q.drained + q.hbm.length < 16 * q.pages.length then q.pages else q.pages ++ [s.ovfFree k]

/-- The place that flit takes. -/
def State.tailPlace (s : State) (k : Nat) (q : EgressQ) : Nat := s.ovfPlace k (s.tailPages k q) (q.drained + q.hbm.length)

/-- SPILL_WRITE: the HBM write of a spilled queue's next flit to its tail completes and frees its cells; where the link or the stack
is not to be had the flit stays in SRAM, and a stack that is off wakes (R127, R426). -/
def State.spillWrite (s : State) (k o vc : Nat) : State :=
  let q := s.queue k o vc
  match q.stage with
  | [] => s
  | x :: rest =>
    if !s.ovfRoom k o vc then s
    else if !s.spillPath k 0 (s.tailPlace k q) then s.wakeDom (288 + stackOf (s.tailPlace k q))
    else
      match s.flitRead (.stage k o vc) x.flit with
      | (none, s1) => (s1.setQueue k o vc { q with stage := (s.leftQ x).toList ++ rest }).countLeft k x.flit
      | (some f, s1) =>
        let s2 := s1.store false spHbm (s.tailPlace k q) f.bytes
        (s2.setQueue k o vc { q with stage := rest, hbm := q.hbm ++ [⟨f, x.entering⟩], pages := s.tailPages k q }).bump (pgKeep k)
          Opn.SPILL_FLITS

/-- SPILL_WRITE (R127). -/
def execSpillWrite (keep out vc : Nat) (s : State) : Host.Outcome State Fault Refusal := .next (s.spillWrite keep out vc)

/-- The queue after its HBM head has been read back: a page read out is free, and the queue stops being spilled when the HBM
part is empty (R127). -/
def unspill (q : EgressQ) (rest : List QFlit) (sram : List QFlit) : EgressQ :=
  if rest.isEmpty then
    { q with hbm := [], pages := [], drained := 0, sram := sram ++ q.stage, stage := [], spilled := false }
  else if q.drained = 15 then { q with hbm := rest, pages := q.pages.tail, drained := 0, sram := sram }
  else { q with hbm := rest, drained := q.drained + 1, sram := sram }

/-- The place of the flit at the HBM head of a queue. -/
def State.headPlace (s : State) (k : Nat) (q : EgressQ) : Nat := s.ovfPlace k q.pages q.drained

/-- The flit at the HBM head may be read back: the SRAM part holds fewer than SPILL_DEPTH/2 cells and can take it, no arrival of the
same cycle is admitted before it, and the link and the stack are to be had (R121, R123, R127). -/
def State.mayRead (s : State) (k o vc : Nat) (x : QFlit) : Bool :=
  let q := s.queue k o vc
  2 * qCells q.sram < s.rd (pgKeep k) Opn.SPILL_DEPTH && s.canTake k (vcClass vc) q.sramCells x.flit.cells
    && s.spillPath k 1 (s.headPlace k q)
    && (match s.readyNext k o vc with
        | some r => !s.mayAdmit k o vc r
        | none => true)

/-- An overflow granule found uncorrectable: OVF_ECC, and the effects of R327 on the granule and its record (R128, R327). -/
def State.spillUe (s : State) (k place : Nat) : State :=
  ((s.ueLine spHbm (place / 64) .uncorrectable).bump (pgKeep k) Opn.OVF_ECC).err (pgKeep k) 18

/-- SPILL_READBACK: the flit at the HBM head is read back; a header in error or an age over AGE_MAX discards it (R89, R127,
R128). -/
def State.spillReadback (s : State) (k o vc : Nat) (ecc : SpillEcc) : State :=
  let q := s.queue k o vc
  match q.hbm with
  | [] => s
  | x :: rest =>
    let lost := unspill q rest (q.sram ++ (s.leftQ x).toList)
    if !s.mayRead k o vc x then s
    else if ecc ≠ .badHeader && s.tooOld k x.flit then ((s.setQueue k o vc lost).countLeft k x.flit).ageDiscard k
    else match ecc with
    | .clean => s.setQueue k o vc (unspill q rest (q.sram ++ [x]))
    | .corrected => (s.setQueue k o vc (unspill q rest (q.sram ++ [x]))).noteCorrected spHbm (s.headPlace k q / 64)
    | .badHeader => ((s.setQueue k o vc lost).countLeft k x.flit).spillUe k (s.headPlace k q)
    | .badPayload =>
      let y : QFlit := ⟨x.flit.setField 7 1 1, x.entering⟩
      (s.setQueue k o vc (unspill q rest (q.sram ++ [y]))).spillUe k (s.headPlace k q + 64)

/-- SPILL_READBACK (R128). -/
def execSpillReadback (keep out vc : Nat) (ecc : SpillEcc) (s : State) : Host.Outcome State Fault Refusal :=
  .next (s.spillReadback keep out vc ecc)

/-! ## The egress merge (R124, R125) -/

/-- FWD_MODE of an output and class: store-and-forward; the host output is always so (R125). -/
def State.storeForward (s : State) (k o cls : Nat) : Bool :=
  (k = 3 && o = 4) || bit (s.rd (pgKeep k) Opn.FWD_MODE) (4 * o + cls)

/-- The head flit of a queue may leave: its packet is whole under SF, the link runs and is not stopped, and the sender
holds its credits, 8 at least when it enters a ring (R78, R83, R125). -/
def State.eligible (s : State) (k o vc : Nat) : Bool :=
  let q := s.queue k o vc
  match q.sram with
  | [] => false
  | x :: _ =>
    (!(s.storeForward k o (vcClass vc) && x.flit.first) || (q.sram ++ q.hbm ++ q.stage).any fun y => y.flit.last) &&
      (match linkOfOut k o with
       | none => true
       | some l => s.carries l && (s.link l).stopUntil ≤ s.clock &&
           x.flit.cells ≤ s.rd (pgLink l) Lnk.CRED_AVAIL vc && (!x.entering || 8 ≤ s.rd (pgLink l) Lnk.CRED_AVAIL vc))

/-- The round-robin choice between REQ and BULK (R124): the VC, and the class turn after it. -/
def State.wrrPick (s : State) (k o : Nat) : Option (Nat × (Bool × Nat)) :=
  let first (a b : Nat) : Option Nat := if s.eligible k o a then some a else if s.eligible k o b then some b else none
  let req := first 1 0
  let bulk := first 7 6
  let turn := AL.getD s.opn.wrr (k, o) (false, 0)
  let cand (isBulk : Bool) : Option Nat := if isBulk then bulk else req
  let weight (isBulk : Bool) : Nat := s.rd (pgKeep k) (if isBulk then Opn.BULK_W else Opn.REQ_W)
  match cand turn.1, cand (!turn.1) with
  | some v, some w => if turn.2 < weight turn.1 then some (v, (turn.1, turn.2 + 1)) else some (w, (!turn.1, 1))
  | some v, none => some (v, (turn.1, if turn.2 < weight turn.1 then turn.2 + 1 else 1))
  | none, some w => some (w, (!turn.1, 1))
  | none, none => none

/-- The queue the merge serves next (R124): MGMT-b, MGMT-a, RSP-b, RSP-a, then REQ and BULK. -/
def State.mergePick (s : State) (k o : Nat) : Option (Nat × Option (Bool × Nat)) :=
  match [5, 4, 3, 2].find? (s.eligible k o) with
  | some v => some (v, none)
  | none =>
    match s.wrrPick k o with
    | some (v, t) => some (v, some t)
    | none => none

/-- A flit sent on its link against its credits (R78). -/
def State.sendOnLink (s : State) (l vc : Nat) (f : Flit) : State :=
  (s.setCred l vc (s.rd (pgLink l) Lnk.CRED_AVAIL vc - f.cells)).sendFlit l f

/-- A reply that leaves to an endpoint: its Turret holds the reservation, which the reply completes; one that finds none is
discarded and counted LATE_RSP, a poisoned one is discarded (R86, R125; log 192). -/
def State.endpointReply (s : State) (n vc : Nat) (f : Flit) : State :=
  if f.poison then s
  else match (s.resvOf (.endpoint n)).find? (fun r => r.tag = f.tag) with
  | some r => ({ s with reservations := s.reservations.filter (· ≠ r) }).sendOnLink n vc f
  | none => s.bump (pgLink n) Ept.LATE_RSP

/-- The head flit of a queue sent: on its link against credits, or into the host MAC, its final receiver, which checks its header
(R61, R78, R134). One over age is discarded (R89). Of the LAST flit of a packet what ends the packet stays at the head (R125). -/
def State.sendHead (s : State) (k o vc : Nat) : State :=
  let q := s.queue k o vc
  match q.sram with
  | [] => s
  | x :: rest =>
    match (s.setQueue k o vc { q with sram := rest }).flitRead (.queue k o vc) x.flit with
    | (none, s1) => (s1.setQueue k o vc { q with sram := (s.leftQ x).toList ++ rest }).countLeft k x.flit
    | (some f, s1) =>
      if s1.tooOld k f then
        ((s1.setQueue k o vc { q with sram := (s.leftQ x).toList ++ rest }).countLeft k x.flit).ageDiscard k
      else match linkOfOut k o with
      | none =>
        if f.hcrcOk then s1.deliver 2 k f
        else ((s1.setQueue k o vc { q with sram := (s.leftQ x).toList ++ rest }).countLeft k x.flit).headerDiscard k
      | some l => if l < 16 && f.kind = 2 then s1.endpointReply l vc f else s1.sendOnLink l vc f

/-- One flit time of the merge of the egress queues of an output (R124). -/
def State.mergeSend (s : State) (k o : Nat) : State :=
  match s.mergePick k o with
  | none => s
  | some (vc, turn) =>
    let s1 := s.sendHead k o vc
    match turn with
    | some t => s1.setOpn { s1.opn with wrr := AL.put s1.opn.wrr (k, o) t }
    | none => s1

/-- The link of an output whose Turret sends a flit of its own before the queues: a neighbour message on MGMT-b, or on MGMT-a where the
MGMT-b queue may not send; a reply to the endpoint on RSP-a (R66, R124, log 208). -/
def State.messageTurn (s : State) (k o : Nat) : Option Nat :=
  match linkOfOut k o with
  | some l =>
    let b : Bool := ((s.link l).msgs.headD ⟨0, []⟩).vc = 5
    if s.messageReady l && (l < 16 || b || !s.eligible k o 5) then some l else none
  | none => none

/-- EGRESS_SEND: one flit time of an output that carries no scheduled flit and no marker (R124): a flit of the Turret's own, or the
head of a queue. -/
def State.egressSend (s : State) (k o : Nat) : State :=
  match s.messageTurn k o with
  | some l => s.sendMessage l
  | none => s.mergeSend k o

/-- EGRESS_SEND (R124). -/
def execEgressSend (keep out : Nat) (s : State) : Host.Outcome State Fault Refusal :=
  .next (if keep < 4 && out < keepOuts keep then s.egressSend keep out else s)

end Sys2Proof.Machine
end

