-- ==== Sys2Proof/Machine/Advance.lean ====
section
/-! DEFINITION. Where the plan goes next: the step, variant and bank of a coming tick under the switch, variant change and
replay that are armed (R115, R116, R118, R358–R360). -/

namespace Sys2Proof.Machine

open Sys2Proof

/-- The fabric is held (R359). -/
def State.isHeld (s : State) : Bool := s.rd pgWatch Wat.HOLD_SET ≠ 0

/-- Tick of the armed switch, and VAR_AT. -/
def State.switchAtTick (s : State) : Nat := s.sched.armAt
def State.varAtTick (s : State) : Nat := s.rd2 (pgKeep 0) Pln.VAR_AT_LO Pln.VAR_AT_HI

/-- PER_U of a period change that takes effect at tick `t`, and G16 of a staged guard change (R32, R35). -/
def State.perStaged (s : State) (t : Nat) : Option Nat :=
  match s.belfry.perArmed with
  | some (a, u) => if tickReached t a then some u else none
  | none => none

def State.g16Staged (s : State) : Option Nat := AL.get s.staged (rkey pgBelfry Bel.G16 0)

/-- A plan switch is due at a tick (R115), the period check apart. -/
def State.switchDue (s : State) (t : Nat) : Bool := s.rdb (pgKeep 0) Pln.ARMED && tickReached t s.switchAtTick

/-- The incoming image agrees with the period and guard that are in force at tick `t` once the changes staged for it that it
agrees with have taken effect (R32, R115). -/
def State.switchFits (s : State) (t : Nat) : Bool :=
  match s.bank s.sched.armBank with
  | some b =>
    let per := s.perStaged t
    let g := s.g16Staged
    let taken : Bool := per.getD (imgPerU b.image) = imgPerU b.image && g.getD (imgG16 b.image) = imgG16 b.image
    ((taken && per.isSome) || s.rd pgBelfry Bel.PER_CUR = imgPerU b.image)
      && ((taken && g.isSome) || s.rd pgBelfry Bel.G16 = imgG16 b.image)
  | none => false

/-- A variant change is due at a tick (R118). -/
def State.varDue (s : State) (t : Nat) : Bool := s.rdb (pgKeep 0) Pln.VAR_ARMED && tickReached t s.varAtTick

/-- A command takes effect at a tick (R360). -/
def State.cmdDue (s : State) (t : Nat) : Option Nat := (s.watch.cmds.find? fun c => c.1 = t).map (·.2)

/-- The aborted step replays from a tick, as armed: at the switch tick without a hold, at the resume of R364, or by a
command (R358, R360, R364). -/
def State.replayDue (s : State) (t : Nat) : Bool :=
  (s.watch.switchAt = some t && s.watch.switchSet = 0 && !s.isHeld && s.watch.aborted.isSome)
    || (s.watch.resumeAt = some t && s.watch.aborted.isSome)
    || (match s.watch.replayAt with
      | some a => tickReached t a
      | none => false)
    || (match s.cmdDue t with
      | some 1 => s.watch.aborted.isSome
      | some 2 => true
      | _ => false)

/-- The first tick after the current one that no notice has marked. -/
def State.nextTick (s : State) : Nat := go 1024 (tickAdd s.now 1)
where
  go : Nat → Nat → Nat
    | 0, t => t
    | n + 1, t => if s.belfry.skipMap.contains t then go n (tickAdd t 1) else t

/-- Bank, step and variant of the plan step of tick `t`, the first tick with a plan step after the current one; a bank
of 2 when no plan is in force there. -/
def State.planAt (s : State) (t : Nat) : PlanTick :=
  let sw := s.switchDue t && s.switchFits t
  let b := if sw then s.sched.armBank else s.active
  let img := ((s.bank b).map Bank.image).getD []
  let on : Bool := sw || s.planOn
  let st0 := if sw then 0 else if s.sched.fresh then s.stepIdx else imgNext img s.stepIdx
  let v0 := if sw then 0 else s.varCur
  let v := s.rd (pgKeep 0) Pln.VAR_NEXT
  let vc : Bool := s.varDue t && v < imgNvar img
  let st1 := if vc then s.rd (pgKeep 0) Pln.VAR_STEP else st0
  let st2 := if s.replayDue t then s.rd pgWatch Wat.TRAIN_START else st1
  { tick := t, bank := b, step := st2, var := if vc then v else v0, runs := on }

end Sys2Proof.Machine
end

