-- ==== Sys2Proof/Machine/KeepMover.lean ====
section
/-! DEFINITION. The Keep movers (R319–R321). -/

namespace Sys2Proof.Machine

open Sys2Proof

/-- The mover of a Keep. -/
def State.mover (s : State) (k : Nat) : Mover := AL.getD s.movers k Mover.idle

/-- The state with a mover replaced. -/
def State.setMover (s : State) (k : Nat) (m : Mover) : State := { s with movers := AL.put s.movers k m }

/-- The mover as a source of requests (R60). -/
def mvSrc (k : Nat) : Source := .moduleUnit (4 + k)

/-- MV_STATE. -/
def State.mvState (s : State) (k : Nat) : Nat := s.rd (pgKeep k) Mov.MV_STATE

/-- LEN of a transfer. -/
def State.mvLen (s : State) (k : Nat) : Nat := s.rd2 (pgKeep k) Mov.MV_LEN_LO Mov.MV_LEN_HI

/-- CONVERT is selected. -/
def State.mvConverts (s : State) (k : Nat) : Bool := s.rd (pgKeep k) Mov.MV_OP = 2

/-- Source and destination element widths in bytes: 1 and 1 for COPY. -/
def State.mvWidths (s : State) (k : Nat) : Nat × Nat :=
  if s.mvConverts k then (fmtBits (s.rd (pgKeep k) Mov.SFMT) / 8, fmtBits (s.rd (pgKeep k) Mov.DFMT) / 8) else (1, 1)

/-- A format a CONVERT admits: FP64, FP32, BF16, FP16, E4M3, E5M2, INT32, INT16 or INT8. -/
def mvFmtOk (f : Nat) : Bool := [14, 0, 1, 2, 3, 4, 9, 10, 11].contains f

/-- MV_OP and the formats are ones R319 assigns; a GO with others has no effect (log 28). -/
def State.mvValid (s : State) (k : Nat) : Bool :=
  let sf := s.rd (pgKeep k) Mov.SFMT
  let df := s.rd (pgKeep k) Mov.DFMT
  match s.rd (pgKeep k) Mov.MV_OP with
  | 1 => sf = 0 && df = 0
  | 2 => mvFmtOk sf && mvFmtOk df
  | _ => false

/-- Source address of a source offset, and destination address of it. -/
def State.mvSrcAddr (s : State) (k off : Nat) : Nat := s.rd2 (pgKeep k) Mov.MV_SRC_LO Mov.MV_SRC_HI + off
def State.mvDstAddr (s : State) (k off : Nat) : Nat :=
  let w := s.mvWidths k
  s.rd2 (pgKeep k) Mov.MV_DST_LO Mov.MV_DST_HI + off / w.1 * w.2

/-- Source bytes of a piece (R319). -/
def State.mvPiece (s : State) (k : Nat) : Nat :=
  let w := s.mvWidths k
  224 / max w.1 w.2 * w.1

/-- Bytes to the next 2 MiB boundary from an address. -/
def toBoundary (a : Nat) : Nat := 2 ^ 21 - a % 2 ^ 21

/-- Source bytes of the request at a source offset: to the end of its piece, to a 2 MiB boundary of either address, or to
LEN (R319). -/
def State.mvSpan (s : State) (k off : Nat) : Nat :=
  let w := s.mvWidths k
  let piece := s.mvPiece k - off % s.mvPiece k
  min (min piece (s.mvLen k - off)) (min (toBoundary (s.mvSrcAddr k off)) (toBoundary (s.mvDstAddr k off) / w.2 * w.1))

/-- The bytes that a request writes: as read, or each element converted by RNE without SATURATE; with the clips and NaN
events (R319). -/
def State.mvConvert (s : State) (k : Nat) (l : List Byte) : List Byte × Nat × Nat :=
  if s.mvConverts k then
    let w := s.mvWidths k
    let sf := s.rd (pgKeep k) Mov.SFMT
    let df := s.rd (pgKeep k) Mov.DFMT
    let cs := (List.range (l.length / w.1)).map fun i => conv df .rne false (decodeVal sf (leAt l (w.1 * i) w.1))
    (cs.flatMap (fun c => leBytes w.2 c.enc), (cs.filter Conv.clip).length, (cs.filter fun c => c.cause ≠ 0).length)
  else (l, 0, 0)

/-- The lowest tag a mover has free. -/
def Mover.freeTag (m : Mover) : Nat :=
  ((List.range (m.reqs.length + 1)).find? fun t => !(m.reqs.any fun r => r.tag = t)).getD 0

/-- A request flit as its source hands it to injection: VIRT from the address kind. -/
def requestFlit (opcode tag addr size : Nat) (virt : Bool) (data : List Byte) : Flit :=
  FlitSpec.flit { kind := 1, vc := 6, dst := 0, dstM := true, src := 0, srcM := true, tick := 0, tag := tag,
                  opcode := opcode, payload := reqPayload addr size (b2n virt) 0 data }

/-- The BULK_RD of the next request issued. -/
def State.mvIssue (s : State) (k : Nat) : State :=
  let m := s.mover k
  let n := s.mvSpan k m.next
  let tag := m.freeTag
  let s1 := s.setMover k { m with next := m.next + n, reqs := m.reqs ++ [⟨tag, m.next, n, false⟩] }
  s1.inject (mvSrc k) (requestFlit 0x10 tag (s.mvSrcAddr k m.next) n (s.rdb (pgKeep k) Mov.SRC_V) [])

/-- Reservations a mover may hold. -/
def State.mvOutst (s : State) (k : Nat) : Nat := max 1 (min 4096 (s.rd (pgKeep k) Mov.OUTST))

/-- Requests issued while reservations are left; a transfer with nothing left is DONE. -/
def State.mvFill (k : Nat) : Nat → State → State
  | 0, s => s
  | fuel + 1, s =>
    let m := s.mover k
    if m.next < s.mvLen k && m.reqs.length < s.mvOutst k then State.mvFill k fuel (s.mvIssue k) else s

/-- A running mover goes on: it issues what it may, and ends when nothing is left. -/
def State.mvRun (s : State) (k : Nat) : State :=
  let s1 := State.mvFill k (s.mvOutst k) s
  let m := s1.mover k
  if m.reqs.isEmpty && s1.mvLen k ≤ m.next then s1.wr (pgKeep k) Mov.MV_STATE 4 else s1

/-- GO: the transfer starts from offset 0; in RUNNING and DRAINING it is ignored (R320). -/
def State.mvGo (s : State) (k : Nat) : State :=
  if s.mvState k = 1 || s.mvState k = 2 then s.wr (pgKeep k) Mov.MV_IGNORED 1
  else if s.mvValid k then ((s.setMover k Mover.idle).wr (pgKeep k) Mov.MV_STATE 1).mvRun k
  else s

/-- MOVER_COPY: GO with MV_OP COPY (R319). -/
def execMoverCopy (k : Nat) (s : State) : Host.Outcome State Fault Refusal :=
  .next (if k < 4 && s.rd (pgKeep k) Mov.MV_OP = 1 then s.mvGo k else s)

/-- MOVER_CONVERT: GO with MV_OP CONVERT (R319). -/
def execMoverConvert (k : Nat) (s : State) : Host.Outcome State Fault Refusal :=
  .next (if k < 4 && s.rd (pgKeep k) Mov.MV_OP = 2 then s.mvGo k else s)

/-- The least of an offset and an offset that may be absent. -/
def lowOf (a : Option Nat) (b : Nat) : Option Nat :=
  match a with
  | none => some b
  | some x => some (min x b)

/-- A request that ends without completing OK. -/
def Mover.drop (m : Mover) (r : MvReq) : Mover := { m with reqs := m.reqs.filter (· ≠ r), low := lowOf m.low r.off }

/-- A reply other than OK: the mover stops and drains (R320). -/
def State.mvFail (s : State) (k : Nat) (r : MvReq) (status : Nat) : State :=
  let m := s.mover k
  let addr := if r.writing then s.mvDstAddr k r.off else s.mvSrcAddr k r.off
  let fault := match m.fault with
    | some f => if r.off < f.1 then (r.off, status, addr) else f
    | none => (r.off, status, addr)
  (s.setMover k { m.drop r with fault := some fault }).wr (pgKeep k) Mov.MV_STATE 2

/-- The source and destination ranges of a transfer overlap, as addresses of one kind. -/
def State.mvOverlaps (s : State) (k : Nat) : Bool :=
  let w := s.mvWidths k
  let a := s.mvSrcAddr k 0
  let b := s.mvDstAddr k 0
  s.rdb (pgKeep k) Mov.SRC_V = s.rdb (pgKeep k) Mov.DST_V && a < b + s.mvLen k / w.1 * w.2 && b < a + s.mvLen k

/-- The bytes that a request writes: unspecified where the ranges overlap (R319, R381). -/
def State.mvBytes (s : State) (k off : Nat) (l : List Byte) : List Byte :=
  if s.mvOverlaps k then l.mapIdx fun i _ => BitVec.ofNat 8 (Config.openValue [319, s.now, k, off, i]) else l

/-- A read answered OK: its write is issued, unless the mover drains. -/
def State.mvWrite (s : State) (k : Nat) (r : MvReq) (f : Flit) : State :=
  let m := s.mover k
  if s.mvState k = 1 then
    let x := s.mvConvert k (padTo r.n f.payload)
    let s1 := (s.bump (pgKeep k) Mov.MV_CLIP x.2.1).bump (pgKeep k) Mov.MV_NAN x.2.2
    let s2 := s1.setMover k { m with reqs := m.reqs.map fun y => if y = r then { r with writing := true } else y }
    s2.inject (mvSrc k) (requestFlit 0x11 r.tag (s.mvDstAddr k r.off) x.1.length (s.rdb (pgKeep k) Mov.DST_V)
      (s.mvBytes k r.off x.1))
  else s.setMover k (m.drop r)

/-- A write answered OK: its bytes are done. -/
def State.mvDone (s : State) (k : Nat) (r : MvReq) : State :=
  let m := s.mover k
  let s1 := s.setMover k { m with reqs := m.reqs.filter (· ≠ r) }
  if s.mvState k = 1 then s1.mvRun k else s1

/-- A reply that a mover may take: its reservation stands, or it is a completion that this module made itself, which frees the
reservation (R86). -/
def State.mvOwed (s : State) (k : Nat) (f : Flit) : Bool :=
  ((s.resvOf (mvSrc k)).any fun r => r.tag = f.tag) || (0xE0 ≤ f.status && f.status ≤ 0xE3)

/-- A reply reaches a mover (R319, R320); a poisoned one, or one that finds no reservation, is discarded (R86, R125). -/
def State.mvReply (s : State) (k : Nat) (f : Flit) : State :=
  if f.poison || !s.mvOwed k f then s
  else match (s.mover k).reqs.find? fun r => r.tag = f.tag with
  | none => s
  | some r =>
    let s1 := { s with reservations := s.reservations.filter fun x => !(x.src = mvSrc k && x.tag = f.tag) }
    if f.status ≠ 0 then s1.mvFail k r f.status
    else if r.writing then s1.mvDone k r
    else s1.mvWrite k r f

/-- MOVER_REPLY (R319); a reply whose header check fails is discarded (R61). -/
def execMoverReply (k : Nat) (f : Flit) (s : State) : Host.Outcome State Fault Refusal :=
  .next (if k < 4 then
      s.served (4 + k) f fun t g => if g.hcrcOk then t.mvReply k g else t.headerDiscard k
    else s)

/-- The resume point: the lowest source offset whose request has not completed OK (R320). -/
def Mover.resume (m : Mover) : Nat :=
  match m.low with
  | some x => min x m.next
  | none => m.next

/-- A drained mover enters FAULTED with its record, or ABORTED (R320). -/
def State.mvDrained (s : State) (k : Nat) : State :=
  let m := s.mover k
  let p := pgKeep k
  if s.mvState k = 2 && m.reqs.isEmpty then
    if m.aborting then s.wr p Mov.MV_STATE 5
    else
      let f := m.fault.getD (0, 0, 0)
      (((s.wr p Mov.MV_STATE 3).wr p Mov.MV_STATUS f.2.1).wr2 p Mov.MV_FAULT_ADDR_LO Mov.MV_FAULT_ADDR_HI f.2.2).wr2 p
        Mov.MV_DONE_LO Mov.MV_DONE_HI m.resume
  else s

/-- MOVER_DRAIN_DONE (R320). -/
def execMoverDrainDone (k : Nat) (s : State) : Host.Outcome State Fault Refusal :=
  .next (if k < 4 then s.mvDrained k else s)

/-- MV_RESUME in FAULTED reissues from MV_DONE on the same piece grid (R320). -/
def State.mvResume (s : State) (k : Nat) : State :=
  if s.mvState k = 3 then
    let off := s.rd2 (pgKeep k) Mov.MV_DONE_LO Mov.MV_DONE_HI
    ((s.setMover k { Mover.idle with next := off }).wr (pgKeep k) Mov.MV_STATE 1).mvRun k
  else s

/-- MV_RESUME (R320). -/
def execMvResume (k : Nat) (s : State) : Host.Outcome State Fault Refusal := .next (if k < 4 then s.mvResume k else s)

/-- MV_ABORT in RUNNING or FAULTED drains the mover and ends the transfer (R320). -/
def State.mvAbort (s : State) (k : Nat) : State :=
  if s.mvState k = 1 || s.mvState k = 3 then
    let m := { s.mover k with aborting := true }
    let s1 := (s.setMover k m).wr (pgKeep k) Mov.MV_STATE 2
    if m.reqs.isEmpty then s1.mvDrained k else s1
  else s

/-- MV_ABORT (R320). -/
def execMvAbort (k : Nat) (s : State) : Host.Outcome State Fault Refusal := .next (if k < 4 then s.mvAbort k else s)

end Sys2Proof.Machine
end

