-- ==== Sys2Proof/Machine/StackMover.lean ====
section
/-! DEFINITION. The HBM interfaces: refresh rounds, the system region, and the stack movers (R298–R304, R316–R318). -/

namespace Sys2Proof.Machine

open Sys2Proof

/-! ## Refresh (R302) -/

/-- Clock at which the last round of a stack ended. -/
def State.lastRound (s : State) (st : Nat) : Nat := AL.getD s.roundEnd st 0

/-- The current offset starts a round of a refresh window of the step: rounds run back to back from START (R302). -/
def State.inWindow (s : State) (m : List Byte) (st : Nat) : Bool :=
  (imgRefreshes m).any fun r => r.iface = st && r.step = s.stepIdx && r.start ≤ s.offset && (s.offset - r.start) % 320 = 0 && s.offset + 320 ≤ r.start + r.len

/-- A refresh round of a stack may start now: in a window of the plan; 2,145 cc after the end of the last one in a skipped or
held tick that it does not outlast; and, while no bank is ACTIVE, 2,145 cc after the start of the last one (R302). -/
def State.roundDue (s : State) (st : Nat) : Bool :=
  s.rd (pgHbm st) Hbm.HSTATE = 2 && s.lastRound st ≤ s.clock &&
    (match s.image with
     | some m =>
       if s.skipped then s.lastRound st + 2145 ≤ s.clock && s.offset + 320 ≤ s.belfry.tickLen else s.inWindow m st
     | none => s.lastRound st + 2145 ≤ s.clock + 320)

/-- REFRESH_ROUND (R302). -/
def execRefreshRound (st : Nat) (s : State) : Host.Outcome State Fault Refusal :=
  .next (if st < 16 && s.roundDue st then
    ({ s with roundEnd := AL.put s.roundEnd st (s.clock + 320) }).bump (pgHbm st) Hbm.ROUNDS
  else s)

/-! ## The system region (R300) -/

/-- The system region of a stack would meet an overflow region. -/
def State.sysMeetsOverflow (s : State) (st n : Nat) : Bool := s.meetsOverflow (st * 64 * gib) (n * gib)

/-- A write of SYS_GIB (R300). -/
def State.sysGib (s : State) (st v : Nat) : State :=
  if s.raw (pgHbm st) Hdr.LOCK = 1 then s
  else if !s.banksEmpty || s.sysMeetsOverflow st (bits v 0 4) then s.err (pgHbm st) 5
  else s.put (pgHbm st) Hbm.SYS_GIB 0 (bits v 0 4)

/-- SYS_GIB_WRITE (R300). -/
def execSysGibWrite (st v : Nat) (s : State) : Host.Outcome State Fault Refusal :=
  .next (if st < 16 then s.sysGib st v else s)

/-! ## Transfers (Table 12.4) -/

/-- A stack-mover transfer. -/
structure Xfer where
  op : Nat
  nsteps : Nat
  sid : Nat
  src : Nat
  dst : Nat
  len : Nat
  chunkB : Nat
  deriving DecidableEq, Repr

/-- A transfer read from its bytes. -/
def xferOf (o : List Byte) : Xfer :=
  { op := leAt o 0 1, nsteps := leAt o 1 1, sid := leAt o 4 4 % 2 ^ 20, src := leAt o 8 8 % 2 ^ 57,
    dst := leAt o 0x10 8 % 2 ^ 57, len := leAt o 0x18 8, chunkB := leAt o 0x20 4 }

/-- Bytes of slice `k`: first and count. -/
def Xfer.slice (x : Xfer) (k : Nat) : Nat × Nat := sliceOf x.len x.chunkB k

/-- Steps in which a transfer stands in its slot: an IN writes slice k in the step after its k-th (R316, log 27). -/
def Xfer.steps (x : Xfer) : Nat := if x.op = 2 then x.nsteps + 1 else x.nsteps

/-- Bytes that a transfer reads and writes in the k-th step of its run. -/
def Xfer.bytesIn (x : Xfer) (k : Nat) : Nat :=
  if x.op = 1 then (x.slice k).2 else if x.op = 2 then (if k = 0 then 0 else (x.slice (k - 1)).2) else 2 * (x.slice k).2

/-- The read of a slice by a stack mover, with its effects (R318). -/
def State.mvRead (s : State) (st loc n : Nat) : State := s.dmaRead (pgHbm st) Hbm.MV_DMA_UE 2 loc n

/-- One slice of an OUT: read now, sent in the step that follows. -/
def State.stackOut (s : State) (st : Nat) (r : Run) : State :=
  let x := xferOf r.obj
  let sl := x.slice r.k
  let loc := s.vaLoc x.src + sl.1
  let ch := cutChunks 0 (s.planPeek spHbm loc sl.2) fun j => s.hbmBad (loc + 240 * j) (min 240 (sl.2 - 240 * j))
  let s1 := (s.mvRead st loc sl.2).bump (pgHbm st) Hbm.MV_BYTES sl.2
  (if ch.isEmpty then s1 else s1.stage x.sid ch).finish r

/-- The chunks of a slice written at a local offset of the destination; a poisoned one as poisoned data (R318). -/
def State.writeChunks (s : State) (st dst off n : Nat) (l : List Chunk) : State :=
  let s1 := s.planWrite dst off ((chunkBytes l).take n)
  (List.range l.length).foldl (fun t j =>
    if ((l[j]?).map Chunk.poison).getD true then
      (((t.planPoison dst (off + 240 * j) (min 240 (n - 240 * j))).1).bump (pgHbm st) Hbm.MV_POISON).err (pgHbm st) 3
    else t) s1

/-- One step of an IN: the slice stamped in the step before is written. -/
def State.stackIn (s : State) (st : Nat) (r : Run) : State :=
  let x := xferOf r.obj
  if r.k = 0 then s.finish r
  else
    let sl := x.slice (r.k - 1)
    match s.sliceIn x.sid (cdiv sl.2 240) with
    | some l => ((s.writeChunks st x.dst sl.1 sl.2 l).bump (pgHbm st) Hbm.MV_BYTES sl.2).finish r
    | none => s

/-- One slice of a COPY; granules that read poisoned leave poisoned ones. -/
def State.stackCopy (s : State) (st : Nat) (r : Run) : State :=
  let x := xferOf r.obj
  let sl := x.slice r.k
  let loc := s.vaLoc x.src + sl.1
  let data := s.planPeek spHbm loc sl.2
  let bad := (linesOf loc sl.2).filter (s.lineBad spHbm)
  let s1 := (s.mvRead st loc sl.2).planWrite x.dst sl.1 data
  let s2 := bad.foldl (fun t line =>
    let a := max loc (64 * line)
    let b := min (loc + sl.2) (64 * line + 64)
    (t.planPoison x.dst (sl.1 + (a - loc)) (b - a)).1) s1
  (s2.bump (pgHbm st) Hbm.MV_BYTES sl.2).finish r

/-- The open transfer of a slot with a given OP. -/
def State.xferRun (s : State) (st slot op : Nat) : Option Run :=
  if st < 16 then match s.openRun 4 st slot with
    | some r => if leAt r.obj 0 1 = op then some r else none
    | none => none
  else none

/-- STACK_MOVER_OUT (R316). -/
def execStackMoverOut (st slot : Nat) (s : State) : Host.Outcome State Fault Refusal :=
  .next (match s.xferRun st slot 1 with
    | some r => s.stackOut st r
    | none => s)

/-- STACK_MOVER_IN (R316). -/
def execStackMoverIn (st slot : Nat) (s : State) : Host.Outcome State Fault Refusal :=
  .next (match s.xferRun st slot 2 with
    | some r => s.stackIn st r
    | none => s)

/-- STACK_MOVER_COPY (R316). -/
def execStackMoverCopy (st slot : Nat) (s : State) : Host.Outcome State Fault Refusal :=
  .next (match s.xferRun st slot 3 with
    | some r => s.stackCopy st r
    | none => s)

/-! ## Load checks (Table 12.5) -/

/-- Operands of a transfer. -/
def Xfer.operands (x : Xfer) : List Operand :=
  (if x.op = 2 then [] else [{ va := x.src, len := x.len, rd := true, wr := false, mirror := false, sparseOk := true }])
    ++ (if x.op = 1 then [] else [{ va := x.dst, len := x.len, rd := false, wr := true, mirror := false, sparseOk := true }])

/-- FORMAT (0x31). -/
def xferFormatBad (o : List Byte) (len : Nat) : Bool :=
  let x := xferOf o
  len ≠ 48 || x.op = 0 || 3 < x.op || x.nsteps = 0 || leAt o 2 2 ≠ 0 || 2 ^ 20 ≤ leAt o 4 4 || 2 ^ 57 ≤ leAt o 8 8
    || 2 ^ 57 ≤ leAt o 0x10 8 || leAt o 0x24 12 ≠ 0 || (x.op = 3 && x.sid ≠ 0) || (x.op = 2 && x.src ≠ 0)
    || (x.op = 1 && x.dst ≠ 0)

/-- LIMIT (0x32). -/
def xferLimitBad (x : Xfer) : Bool :=
  x.len % 16 ≠ 0 || 2 ^ 36 < x.len || x.chunkB = 0 || x.chunkB % 16 ≠ 0 || x.nsteps * x.chunkB < x.len

/-- SEGMENT (0x33): the stacks of R316, and no sparse segment. -/
def State.xferSegmentBad (s : State) (st : Nat) (x : Xfer) : Bool :=
  let stk (va : Nat) : Nat := stackOf (s.vaLoc va)
  (x.operands.any fun o => ((s.vaEntry o.va).map fun e => fstSparse (s.fstEntry e.1)).getD false)
    || (if x.op = 3 then
        !((stk x.src = st && stk x.dst / 2 = st / 2) || (stk x.dst = st && stk x.src / 2 = st / 2))
      else x.operands.any fun o => stk o.va ≠ st)

/-- RECV flit times of a stream in a step of a variant. -/
def recvCount (m : List Byte) (v step sid : Nat) : Nat :=
  sumL (((slotsAt m v step).filter fun r => r.recv && r.sid = sid).map SlotRec.count)

/-- STREAM (0x34): for an IN, the RECV count of every step whose stream it writes, in every variant (R316). -/
def xferStreamBad (m : List Byte) (a : ActionRec) (st : Nat) (x : Xfer) : Bool :=
  let n := cdiv x.chunkB 240
  match x.op with
  | 1 => (match imgStream m x.sid with
    | some r => r.coded || !r.origin || r.chunks ≠ n
    | none => true) || originBad m (st / 2) x.sid
  | 2 => (match imgStream m x.sid with
    | some r => r.coded || !r.terminal || r.sink ≠ 0x30 + st
    | none => true)
    || (actionVars m a).any fun v => (runSteps m x.nsteps a.step).any fun i => recvCount m v i x.sid ≠ n
  | _ => false

/-- Cost of a stack mover in a step and variant (R317). -/
def xferCost (m : List Byte) (v st step : Nat) : Nat :=
  let l := activeIn m 4 st v step fun o => (xferOf o).steps
  32 * l.length + cdiv (sumL (l.map fun x => (xferOf (actionObj m x.1)).bytesIn x.2)) 512

/-- The checks of a transfer, in the order of Table 12.5. -/
def State.xferCheck (s : State) (m : List Byte) (a : ActionRec) : Option ObjBad :=
  let o := actionObj m a
  let x := xferOf o
  if xferFormatBad o a.len then some (.code 0x31)
  else if xferLimitBad x then some (.code 0x32)
  else firstBad [s.pinBad x.operands,
    failIf (s.xferSegmentBad a.unit x) 0x33,
    failIf (xferStreamBad m a a.unit x) 0x34,
    failIf (overCost m a x.steps (fun v i => (activeIn m 4 a.unit v i fun o => (xferOf o).steps).length)
      fun v i => xferCost m v a.unit i) 0x35]

end Sys2Proof.Machine
end

