-- ==== Sys2Proof/Machine/Billin.lean ====
section
/-! DEFINITION. Billin modules: the container, instructions, descriptors and bindings read from their bytes, and the
shapes, sizes and byte ranges of operands (R232–R241). -/

namespace Sys2Proof.Machine

open Sys2Proof

/-! ## The container (Tables 09.2–09.4) -/

def modMagic (m : List Byte) : Nat := leAt m 0x00 4
def modFmt (m : List Byte) : Nat := leAt m 0x04 2
def modKind (m : List Byte) : Nat := leAt m 0x06 1
def modFlags (m : List Byte) : Nat := leAt m 0x07 1
def modIsa (m : List Byte) : Nat := leAt m 0x10 4
def modNinsn (m : List Byte) : Nat := leAt m 0x14 4
def modNdesc (m : List Byte) : Nat := leAt m 0x18 2
def modNbind (m : List Byte) : Nat := leAt m 0x1A 2
def modInsnOff (m : List Byte) : Nat := leAt m 0x1C 4
def modDescOff (m : List Byte) : Nat := leAt m 0x20 4
def modBindOff (m : List Byte) : Nat := leAt m 0x24 4
def modSigOff (m : List Byte) : Nat := leAt m 0x28 4
def modKeyId (m : List Byte) : Nat := leAt m 0x2C 2
def modTotal (m : List Byte) : Nat := leAt m 0x30 4

/-- The module is a service body (R231). -/
def modSvc (m : List Byte) : Bool := bit (modFlags m) 0

/-- An instruction (Table 09.4). -/
structure Insn where
  op : Nat
  ctl : Nat
  d : Nat
  a : Nat
  b : Nat
  c : Nat
  res : Nat
  imm0 : Nat
  imm1 : Nat
  deriving DecidableEq, Repr

/-- Instruction `i` of a module. -/
def insnAt (m : List Byte) (i : Nat) : Insn :=
  let o := modInsnOff m + 16 * i
  { op := leAt m o 1, ctl := leAt m (o + 1) 1, d := leAt m (o + 2) 1, a := leAt m (o + 3) 1, b := leAt m (o + 4) 1,
    c := leAt m (o + 5) 1, res := leAt m (o + 6) 2, imm0 := leAt m (o + 8) 4, imm1 := leAt m (o + 12) 4 }

/-- Queue and rounding field of an instruction. -/
def Insn.q (x : Insn) : Nat := x.ctl % 4
def Insn.rnd (x : Insn) : Nat := x.ctl / 4 % 4

/-- All instructions of a module, with their indices. -/
def modInsns (m : List Byte) : List (Nat × Insn) := (List.range (modNinsn m)).map fun i => (i, insnAt m i)

/-- An operand descriptor (Table 09.3). -/
structure TDesc where
  space : Nat
  fmt : Nat
  mx : Bool
  layout : Nat
  bind : Nat
  rows : Nat
  cols : Nat
  ld : Nat
  addr : Nat
  soff : Nat
  deriving DecidableEq, Repr

/-- Descriptor `j` of a module. -/
def tdescAt (m : List Byte) (j : Nat) : TDesc :=
  let o := modDescOff m + 32 * j
  { space := leAt m o 1, fmt := leAt m (o + 1) 1 % 16, mx := bit (leAt m (o + 1) 1) 4, layout := leAt m (o + 2) 1,
    bind := leAt m (o + 3) 1, rows := leAt m (o + 4) 4, cols := leAt m (o + 8) 4, ld := leAt m (o + 12) 4,
    addr := leAt m (o + 16) 8, soff := leAt m (o + 24) 4 }

/-- All descriptors of a module. -/
def modDescs (m : List Byte) : List TDesc := (List.range (modNdesc m)).map (tdescAt m)

/-- The descriptor an operand field names; 0xFF names none. -/
def opDesc (m : List Byte) (v : Nat) : Option TDesc := if v = 0xFF then none else some (tdescAt m v)

/-- A stream binding (R235). -/
structure TBind where
  sid : Nat
  dir : Nat
  aflag : Nat
  deriving DecidableEq, Repr

/-- Binding `j` of a module. -/
def tbindAt (m : List Byte) (j : Nat) : TBind :=
  let o := modBindOff m + 8 * j
  { sid := leAt m o 4 % 2 ^ 20, dir := leAt m (o + 4) 1, aflag := leAt m (o + 5) 1 }

/-- All bindings of a module, with their indices. -/
def modBinds (m : List Byte) : List (Nat × TBind) := (List.range (modNbind m)).map fun j => (j, tbindAt m j)

/-- The descriptor of a binding's landing or staging area: the first that names it. -/
def bindDesc (m : List Byte) (j : Nat) (dir : Nat) : Option TDesc :=
  (modDescs m).find? fun d => d.space = 2 + dir && d.bind = j

/-! ## Instruction kinds (Table 09.5) -/

def opWait : Nat := 0x3D
def opWaitv : Nat := 0x3E
def opSet : Nat := 0x3C
def opAcq : Nat := 0x38
def opRel : Nat := 0x39
def opFull : Nat := 0x3A

def isWait (op : Nat) : Bool := op = opWait || op = opWaitv
def isFlagOp (op : Nat) : Bool := 0x3C ≤ op && op ≤ 0x3E
def isFence (op : Nat) : Bool := 0x38 ≤ op && op ≤ 0x3A

/-- An elementwise instruction, COPY apart. -/
def isElementwise (op : Nat) : Bool := 0x11 ≤ op && op ≤ 0x1B

/-- A row reduction. -/
def isRowRed (op : Nat) : Bool := 0x20 ≤ op && op ≤ 0x22

/-- The flag a flag operation names. -/
def Insn.flag (x : Insn) : Nat := x.imm0 % 32

/-! ## Shapes and sizes (R234) -/

/-- Elements of a tensor. -/
def TDesc.n (d : TDesc) : Nat := d.rows * d.cols

/-- Packed bytes of a row, and its scale bytes. -/
def TDesc.rowBytes (d : TDesc) : Nat := packedLen d.fmt d.cols
def TDesc.rowScales (d : TDesc) : Nat := if d.mx then cdiv d.cols 32 else 0

/-- Packed size of a tensor with its scales (cost column of Table 09.5). -/
def TDesc.size (d : TDesc) : Nat := d.rows * (d.rowBytes + d.rowScales)

/-- Bytes of a dense tensor from ADDR to the end of its last row, and of its scale array from SCALE_OFF. -/
def TDesc.span (d : TDesc) : Nat := (d.rows - 1) * d.ld + d.rowBytes
def TDesc.scaleSpan (d : TDesc) : Nat := d.rows * d.rowScales

/-- Bytes from ADDR to the end of everything a descriptor names. A block-sparse operand may take its dense size. -/
def TDesc.extent (d : TDesc) : Nat :=
  if d.layout = 1 then
    let nt := tilesOf (cdiv d.n 32)
    packBase nt + nt * cdiv (64 * (blkBytes d.fmt + blkScale d.mx)) 16 * 16
  else if d.layout = 2 then len24 d.fmt d.mx d.n
  else if d.mx then max d.span (d.soff + d.scaleSpan) else d.span

/-- The rows of a dense tensor from ADDR; rows without gaps are one range. -/
def TDesc.rowRanges (d : TDesc) : List (Nat × Nat) :=
  if d.ld = d.rowBytes then [(0, d.span)] else (List.range d.rows).map fun i => (i * d.ld, d.rowBytes)

/-- The byte ranges of a descriptor from ADDR, without the gaps between them: the rows of a dense tensor with the scales of an
MX one, the arrays of a 2:4 operand, or the whole of a block-sparse one. -/
def TDesc.ranges (d : TDesc) : List (Nat × Nat) :=
  if d.layout = 0 then d.rowRanges ++ (if d.mx then [(d.soff, d.scaleSpan)] else [])
  else if d.layout = 2 then
    (0, packedLen d.fmt (d.n / 2)) :: (nibOff d.fmt d.n, d.n / 8)
      :: (if d.mx then [(scale24Off d.fmt d.n, d.n / 32)] else [])
  else [(0, d.extent)]

/-- The descriptor is in HBM. -/
def TDesc.hbm (d : TDesc) : Bool := d.space = 1

/-- The code of Table 06.6 for the format of an operand. -/
def TDesc.fmtCode (d : TDesc) : Nat := d.fmt + 16 * b2n d.mx

/-- Where a descriptor lies for a tile: memory space and offset of ADDR (R229). -/
def State.tdLoc (s : State) (g : Nat) (d : TDesc) : Nat × Nat :=
  if d.hbm then (spHbm, s.vaLoc d.addr) else (spTile, g * 2 ^ 21 + d.addr % 2 ^ 21)

/-- The sparse segment of a block-sparse operand: in a tile store it may use the store from ADDR on. -/
def State.tdSeg (s : State) (g : Nat) (d : TDesc) : Seg :=
  if d.hbm then (s.sparseAt d.addr).getD { sp := spHbm, base := s.vaLoc d.addr, size := 0 }
  else { sp := spTile, base := g * 2 ^ 21 + d.addr % 2 ^ 21, size := 2 ^ 21 - d.addr % 2 ^ 21 }

/-! ## Accesses (R242) -/

/-- An access of an instruction: HBM or tile store, first byte and end, and whether it writes. HBM ranges are virtual. -/
structure Access where
  hbm : Bool
  lo : Nat
  hi : Nat
  wr : Bool
  deriving DecidableEq, Repr

/-- Accesses of a descriptor. -/
def TDesc.accesses (d : TDesc) (wr : Bool) : List Access :=
  d.ranges.map fun r => { hbm := d.hbm, lo := d.addr + r.1, hi := d.addr + r.1 + r.2, wr := wr }

/-- The whole extent of a descriptor as one access (R246). -/
def TDesc.wholeAccess (d : TDesc) (wr : Bool) : Access := { hbm := d.hbm, lo := d.addr, hi := d.addr + d.extent, wr := wr }

/-- Operand fields that an instruction reads. SCATTER and an accumulating MMA read D; HISTOGRAM may. -/
def Insn.reads (x : Insn) : List Nat :=
  let r := [x.a, x.b, x.c].filter (· ≠ 0xFF)
  if x.op = 0x30 then
    let l := if x.imm0 % 2 ^ 16 = 2 then [x.a] else r
    if x.imm0 % 2 ^ 16 = 7 && bit x.imm1 0 then x.d :: l else l
  else if x.op = 0x04 || (x.op = 0x10 && bit x.imm0 0) then x.d :: r
  else r

/-- Operand fields that an instruction writes; B of TOPK is a destination (R258). -/
def Insn.writes (x : Insn) : List Nat :=
  let r := [x.d].filter (· ≠ 0xFF)
  if x.op = 0x30 && x.imm0 % 2 ^ 16 = 2 then r ++ [x.b].filter (· ≠ 0xFF) else r

/-- The accesses of an instruction. -/
def Insn.accesses (m : List Byte) (x : Insn) : List Access :=
  if isFence x.op || x.op = opSet || x.op = opWait then []
  else if x.op = opWaitv then [{ hbm := false, lo := x.imm1, hi := x.imm1 + 4, wr := false }]
  else
    (x.reads.flatMap fun v => (tdescAt m v).accesses false) ++ (x.writes.flatMap fun v => (tdescAt m v).accesses true)
      ++ (if x.op = 0x30 && x.imm0 % 2 ^ 16 = 4 then [{ hbm := false, lo := x.imm1, hi := x.imm1 + 16, wr := false }]
          else [])

/-- Accesses as the translator sees them: GATHER and SCATTER touch the whole extents of their descriptors (R246). -/
def Insn.raceAccesses (m : List Byte) (x : Insn) : List Access :=
  if x.op = 0x03 || x.op = 0x04 then
    (x.reads.map fun v => (tdescAt m v).wholeAccess false) ++ (x.writes.map fun v => (tdescAt m v).wholeAccess true)
  else x.accesses m

/-- The shared unit that an instruction occupies (R242): 0 the matrix unit, 1 the library engine, 2 the memory port, 3 the
vector unit; none for fences and flag operations. -/
def Insn.unit (m : List Byte) (x : Insn) : Option Nat :=
  if isFence x.op || isFlagOp x.op then none
  else if x.op = 0x10 then some 0
  else if x.op = 0x30 then some 1
  else if (x.op = 0x01 || x.op = 0x03 || x.op = 0x04) && (x.reads ++ x.writes).any (fun v => (tdescAt m v).hbm) then some 2
  else some 3

/-- Two accesses touch a common byte and one writes. -/
def Access.clash (a b : Access) : Bool := a.hbm = b.hbm && (a.wr || b.wr) && a.lo < b.hi && b.lo < a.hi

/-! ## Costs (Table 09.5, Table 10.1) -/

/-- Width counted in the cost column: FP6 as 8 bits (R237). -/
def costBits (f : Nat) : Nat := if fmtBits f = 6 then 8 else fmtBits f

/-- MAC rate of a tile for a format (Table 01.9). -/
def macRate (f : Nat) : Nat :=
  ([256, 512, 512, 1024, 1024, 1024, 1024, 2048, 1, 1, 1, 1024, 2048, 1, 64] : List Nat).getD f 1

/-- The rate of a pair: that of its wider operand. -/
def pairRate (a b : TDesc) : Nat := if fmtBits b.fmt ≤ fmtBits a.fmt then macRate a.fmt else macRate b.fmt

/-- ⌈log₂ s⌉. -/
def ceilLog2 (n : Nat) : Nat := if n ≤ 1 then 0 else Nat.log2 (n - 1) + 1

/-- Cost of a CALL (Table 10.1). -/
def callCost (m : List Byte) (x : Insn) : Nat :=
  let a := tdescAt m x.a
  let d := tdescAt m x.d
  match x.imm0 % 2 ^ 16 with
  | 1 => 64 + a.rows * cdiv (a.cols / 2) 4 * max 1 (ceilLog2 (a.cols / 2))
  | 2 => 64 + a.rows * (cdiv a.cols 16 + 4 * (x.imm1 % 2 ^ 16))
  | 3 => 32 + cdiv a.n 4
  | 4 =>
    let k := tdescAt m x.b
    let v := tdescAt m x.c
    64 + cdiv (a.rows * k.rows * a.cols) (pairRate a k) + cdiv (a.rows * k.rows * v.cols) (macRate v.fmt)
      + cdiv (a.rows * k.rows) 16
  | 5 => 32 + cdiv a.n 8
  | 6 => 16 + cdiv a.n 16
  | 7 => 16 + cdiv a.n 8 + cdiv d.cols 64
  | 8 => 16 + cdiv a.n 16
  | _ => 0

/-- Cost of an instruction, waits excluded. -/
def Insn.cost (m : List Byte) (x : Insn) : Nat :=
  if isFence x.op || isFlagOp x.op then 2
  else if x.op = 0x30 then callCost m x
  else
    let ds := ([x.d, x.a, x.b, x.c].filter (· ≠ 0xFF)).map (tdescAt m)
    let d := tdescAt m x.d
    let a := tdescAt m x.a
    let v := 2048 / ds.foldl (fun w y => max w (costBits y.fmt)) 1
    if x.op = 0x10 then
      let b := tdescAt m x.b
      24 + cdiv (a.rows * b.rows * (if a.layout = 2 || b.layout = 2 then a.cols / 2 else a.cols)) (pairRate a b)
    else if x.op = 0x03 then 16 + cdiv d.size 64
    else if x.op = 0x04 then 16 + cdiv (2 * a.size) 64
    else if x.op = 0x01 && (a.hbm || d.hbm) then 16 + cdiv (max a.size d.size) 64
    else if isRowRed x.op then 8 + cdiv a.n v
    else if 0x17 ≤ x.op && x.op ≤ 0x19 then 8 + cdiv (4 * d.n) v
    else 8 + cdiv d.n v

end Sys2Proof.Machine
end

