-- ==== Sys2Proof/Machine/TileData.lean ====
section
/-! DEFINITION. Operands of tile instructions: reading elements with poison and absence, the effects of a read, bound faults,
and writing results (R225, R234, R238–R241, R252, R253). -/

namespace Sys2Proof.Machine

open Sys2Proof

/-! ## Tiles -/

/-- A tile's own state. -/
def State.tile (s : State) (g : Nat) : Tile := AL.getD s.tiles g Tile.idle

/-- A tile's own state replaced. -/
def State.setTile (s : State) (g : Nat) (t : Tile) : State := { s with tiles := AL.put s.tiles g t }

/-- The value of a flag. -/
def Tile.flag (t : Tile) (f : Nat) : Nat := AL.getD t.flags f 0

/-- The body runs: it has begun and is not complete. -/
def Tile.running (t : Tile) : Bool := t.body.isSome && !t.late

/-- A bound fault of a tile: counted, PG_ERR.BOUND, and the first one recorded (R225, R241). -/
def State.tileBound (s : State) (g kind insn pos val : Nat) : State :=
  let p := pgTile g
  let s1 := (s.bump p Til.BOUND_CNT).err p 1
  if s.rdb p Til.BOUND_VALID then s1.again p Til.BOUND_VALID
  else s1.wrs p [(Til.BOUND_VALID, 1), (Til.BOUND_KIND, kind), (Til.BOUND_TICK_LO, s.now % 2 ^ 32),
    (Til.BOUND_TICK_HI, s.now / 2 ^ 32), (Til.BOUND_INSN, insn), (Til.BOUND_POS, pos), (Til.BOUND_VAL, val)]

/-! ## Elements -/

/-- An element as an instruction reads it: encoding, format code of Table 06.6, value without its block scale, scale byte
(127 without one), poison, and absence (R216, R219). -/
structure TEl where
  enc : Nat
  fmt : Nat
  raw : Val
  sc : Nat
  bad : Bool
  absent : Bool
  deriving DecidableEq, Repr

/-- The element's value (R151). -/
def TEl.val (x : TEl) : Val :=
  if x.sc = 255 then .nan
  else match x.raw with
    | .fin n m e => .fin n m (e + ((x.sc : Int) - 127))
    | v => v

/-- An element of a format with a scale. -/
def mkTEl (d : TDesc) (enc sc : Nat) (bad : Bool) : TEl :=
  { enc := enc, fmt := d.fmtCode, raw := decodeVal d.fmt enc, sc := if d.mx then sc else 127, bad := bad, absent := false }

/-- An absent element reads as +0; `sc`: the scale byte of its block. -/
def absentEl (d : TDesc) (sc : Nat) : TEl := { mkTEl d 0 sc false with absent := true }

/-- Element `i` of a packed array of format `f` at a place: its encoding, and whether it reads bad. -/
def State.arrElem (s : State) (sp off f i : Nat) : Nat × Bool :=
  let b := fmtBits f
  let o := off + i * b / 8
  let n := cdiv (i * b % 8 + b) 8
  (bits (leNat (s.planPeek sp o n)) (i * b % 8) b, s.badAt sp o n)

/-- Element (i, j) of a dense operand. -/
def State.denseEl (s : State) (g : Nat) (d : TDesc) (i j : Nat) : TEl :=
  let l := s.tdLoc g d
  let x := s.arrElem l.1 (l.2 + i * d.ld) d.fmt j
  if d.mx then
    let so := l.2 + d.soff + i * d.rowScales + j / 32
    mkTEl d x.1 (leNat (s.planPeek l.1 so 1)) (x.2 || s.badAt l.1 so 1)
  else mkTEl d x.1 127 x.2

/-- Element (i, j) of a block-sparse operand: its block by linear index. An operand in HBM starts at its address's element
of the segment. -/
def State.sparseEl (s : State) (g : Nat) (d : TDesc) (i j : Nat) : TEl :=
  let sg := s.tdSeg g d
  let e := i * d.cols + j
  let b0 := if d.hbm then s.firstBlk sg d.addr d.fmt else 0
  let b := s.segBlk sg d.fmt d.mx (b0 + e / 32)
  if b.present then mkTEl d (b.elems.getD (e % 32) 0) b.scale b.bad else absentEl d 127

/-- Element (i, j) of a 2:4 operand (R217, R219): positions that hold no stored value are absent; a nibble with i0 ≥ i1
reads both stored values as +0. -/
def State.twoEl (s : State) (g : Nat) (d : TDesc) (i j : Nat) : TEl :=
  let l := s.tdLoc g d
  let e := i * d.cols + j
  let gr := e / 4
  let no := l.2 + nibOff d.fmt d.n + gr / 2
  let nib := bits (leNat (s.planPeek l.1 no 1)) (4 * (gr % 2)) 4
  let i0 := nib % 4
  let i1 := nib / 4
  let nbad := s.badAt l.1 no 1
  let so := l.2 + scale24Off d.fmt d.n + e / 32
  let sc := if d.mx then leNat (s.planPeek l.1 so 1) else 127
  let sbad := d.mx && s.badAt l.1 so 1
  if e % 4 ≠ i0 && e % 4 ≠ i1 then absentEl d sc
  else if i1 ≤ i0 then mkTEl d 0 sc (nbad || sbad)
  else
    let x := s.arrElem l.1 l.2 d.fmt (2 * gr + b2n (e % 4 = i1))
    mkTEl d x.1 sc (x.2 || nbad || sbad)

/-- Element (i, j) of an operand. -/
def State.tel (s : State) (g : Nat) (d : TDesc) (i j : Nat) : TEl :=
  if d.layout = 1 then s.sparseEl g d i j else if d.layout = 2 then s.twoEl g d i j else s.denseEl g d i j

/-- Row `i` of an operand. -/
def State.trow (s : State) (g : Nat) (d : TDesc) (i : Nat) : List TEl := (List.range d.cols).map (s.tel g d i)

/-! ## Effects of a read -/

/-- The local ranges that a read of rows `l` of an operand touches. -/
def State.readRanges (s : State) (g : Nat) (d : TDesc) (l : List Nat) : List (Nat × Nat × Nat) :=
  let o := s.tdLoc g d
  if d.layout = 1 then
    let sg := s.tdSeg g d
    let b0 := if d.hbm then s.firstBlk sg d.addr d.fmt else 0
    (s.segRanges sg d.fmt d.mx b0 (cdiv d.n 32)).map fun r => (sg.sp, r.1, r.2)
  else if d.layout = 2 then [(o.1, o.2, len24 d.fmt d.mx d.n)]
  else l.flatMap fun i => (o.1, o.2 + i * d.ld, d.rowBytes) ::
    (if d.mx then [(o.1, o.2 + d.soff + i * d.rowScales, d.rowScales)] else [])

/-- Local ranges that a read of element (i, j) of an operand takes: a present block of a block-sparse operand is read whole. -/
def State.elRanges (s : State) (g : Nat) (d : TDesc) (i j : Nat) : List (Nat × Nat × Nat) :=
  let o := s.tdLoc g d
  let b := fmtBits d.fmt
  let at_ (k : Nat) : Nat × Nat × Nat := (o.1, o.2 + k / 8, cdiv (k % 8 + b) 8)
  let e := i * d.cols + j
  if d.layout = 1 then
    let sg := s.tdSeg g d
    (s.segBlkRanges sg d.fmt d.mx ((if d.hbm then s.firstBlk sg d.addr d.fmt else 0) + e / 32)).map fun r => (sg.sp, r.1, r.2)
  else if d.layout = 2 then
    let x := s.twoEl g d i j
    (o.1, o.2 + nibOff d.fmt d.n + e / 8, 1) :: ((if d.mx then [(o.1, o.2 + scale24Off d.fmt d.n + e / 32, 1)] else [])
      ++ (if x.absent then [] else [at_ (2 * (e / 4) * b), at_ ((2 * (e / 4) + 1) * b)]))
  else
    at_ (8 * (i * d.ld) + j * b) :: (if d.mx then [(o.1, o.2 + d.soff + i * d.rowScales + j / 32, 1)] else [])

/-- The lines that ranges touch, each once. -/
def rangeLines (l : List (Nat × Nat × Nat)) : List (Nat × Nat) :=
  (l.flatMap fun r => (linesOf r.2.1 r.2.2).map fun x => (r.1, x)).eraseDups

/-- A range read by a tile: uncorrectable lines count TILE_UE, set PG_ERR.UE and raise a tick fault (R253). -/
def State.tileTouch (s : State) (g : Nat) (r : Nat × Nat × Nat) : State :=
  let ue := ((linesOf r.2.1 r.2.2).filter fun l =>
    s.decoded r.1 l = .address || s.decoded r.1 l = .uncorrectable).length
  let s1 := s.touch true r.1 r.2.1 r.2.2
  if ue = 0 then s1 else (s1.bump (pgTile g) Til.TILE_UE ue).err (pgTile g) 2

/-- META24 faults of a 2:4 operand: group and nibble, in order (Table 08.6). -/
def State.metaFaults (s : State) (g : Nat) (d : TDesc) : List BoundEv :=
  let l := s.tdLoc g d
  (List.range (d.n / 4)).filterMap fun gr =>
    let nib := bits (leNat (s.planPeek l.1 (l.2 + nibOff d.fmt d.n + gr / 2) 1)) (4 * (gr % 2)) 4
    if nib / 4 ≤ nib % 4 then some ⟨3, gr / 512, gr % 512 + nib * 4096⟩ else none

/-- Bound faults of the metadata of a sparse or 2:4 operand. -/
def State.operandFaults (s : State) (g : Nat) (d : TDesc) : List BoundEv :=
  if d.layout = 1 then
    let sg := s.tdSeg g d
    s.segFaults sg d.fmt d.mx (if d.hbm then s.firstBlk sg d.addr d.fmt else 0) (cdiv d.n 32)
  else if d.layout = 2 then s.metaFaults g d
  else []

/-- A read of a segment in STATE 2 sets BAD_READ in the codec of the tile's Cupola (R208, Table 08.7). -/
def State.badRead (s : State) (g : Nat) (d : TDesc) : State :=
  if d.layout = 1 && s.segMode (s.tdSeg g d) d.fmt d.mx = 1 then s.err (pgCodec (g / 32)) 4 else s

/-- An operand is read over local ranges by instruction `i`: the faults of its metadata, then each line once. -/
def State.tileReadOver (s : State) (g i : Nat) (d : TDesc) (l : List (Nat × Nat × Nat)) : State :=
  (rangeLines l).foldl (fun t x => t.tileTouch g (x.1, 64 * x.2, 64))
    (((s.operandFaults g d).foldl (fun t e => t.tileBound g e.kind i e.tile e.val) s).badRead g d)

/-- Rows `l` of an operand are read by instruction `i`. -/
def State.tileRead (s : State) (g i : Nat) (d : TDesc) (l : List Nat) : State :=
  s.tileReadOver g i d (s.readRanges g d l)

/-- The elements of an operand that `need` picks are read by instruction `i`, with the metadata of a block-sparse one: what
faces only absent terms is not read (R216). -/
def State.tileReadSome (s : State) (g i : Nat) (d : TDesc) (need : Nat → Nat → Bool) : State :=
  let meta_ := if d.layout = 1 then
      (s.segMetaRanges (s.tdSeg g d) d.fmt d.mx (if d.hbm then s.firstBlk (s.tdSeg g d) d.addr d.fmt else 0)
        (cdiv d.n 32)).map fun r => ((s.tdSeg g d).sp, r.1, r.2)
    else []
  s.tileReadOver g i d (meta_ ++ (List.range d.rows).flatMap fun r => (List.range d.cols).flatMap fun k =>
    if need r k then s.elRanges g d r k else [])

/-- All rows of an operand, if there is one. -/
def State.tileReadAll (s : State) (g i : Nat) (d : Option TDesc) : State :=
  match d with
  | some d => s.tileRead g i d (List.range d.rows)
  | none => s

/-! ## Results -/

/-- A row of results: its index, encodings with poison, and scale bytes. Poison that reaches a scale marks every element of
its block. -/
structure TRow where
  idx : Nat
  els : List (Nat × Bool)
  scales : List Nat
  deriving DecidableEq, Repr

/-- Lines of a place that hold a poisoned element of a row. -/
def rowBadLines (f o : Nat) (l : List (Nat × Bool)) : List Nat :=
  let b := fmtBits f
  (List.range l.length).flatMap fun j =>
    if ((l[j]?).map (·.2)).getD false then linesOf (o + j * b / 8) (cdiv (j * b % 8 + b) 8) else []

/-- The lines that rows of results leave poisoned. -/
def poisonedLines (d : TDesc) (o : Nat) (rows : List TRow) : List Nat :=
  (rows.flatMap fun r => rowBadLines d.fmt (o + r.idx * d.ld) r.els).eraseDups

/-- Bytes stored by a tile at an offset from a destination's address. -/
def State.tileStore (s : State) (g : Nat) (d : TDesc) (off : Nat) (l : List Byte) : State :=
  if d.hbm then s.planWrite d.addr off l
  else if l.isEmpty then s
  else s.store true spTile (g * 2 ^ 21 + d.addr % 2 ^ 21 + off) l

/-- Results counted as poisoned: POISON_OUT and PG_ERR.POISON_IN (R252). -/
def State.poisonOut (s : State) (g n : Nat) : State :=
  if n = 0 then s else (s.bump (pgTile g) Til.POISON_OUT n).err (pgTile g) 3

/-- Granules of a destination written as poisoned. -/
def State.tilePoison (s : State) (g : Nat) (d : TDesc) (lines : List Nat) : State :=
  if d.hbm && s.vaFrozen d.addr then s
  else (lines.foldl (fun t x => t.poisonLine (s.tdLoc g d).1 x) s).poisonOut g lines.length

/-- The packed bytes of a row of results. -/
def TRow.bytes (d : TDesc) (r : TRow) : List Byte := pack d.fmt (r.els.map (·.1))

/-- Rows of results written to a dense destination. Rows that fill it without gaps are written as one range. -/
def State.tileWrite (s : State) (g : Nat) (d : TDesc) (rows : List TRow) : State :=
  let whole := d.ld = d.rowBytes && rows.length = d.rows
  let s1 := if whole then s.tileStore g d 0 (rows.flatMap (TRow.bytes d))
    else rows.foldl (fun t r => t.tileStore g d (r.idx * d.ld) (r.bytes d)) s
  let sc (r : TRow) : List Byte := r.scales.map (BitVec.ofNat 8)
  let s2 := if rows.length = d.rows then s1.tileStore g d d.soff (rows.flatMap sc)
    else rows.foldl (fun t r => t.tileStore g d (d.soff + r.idx * d.rowScales) (sc r)) s1
  s2.tilePoison g d (poisonedLines d (s.tdLoc g d).2 rows)

/-! ## Conversion of results (R238, R152) -/

/-- A value to be written to an element: exact, with poison, and the operands that a conversion event records. -/
structure TVal where
  val : Val
  bad : Bool
  fmtA : Nat
  fmtB : Nat
  opa : Nat
  opb : Nat
  deriving DecidableEq, Repr

/-- A value out of the unit's own pipeline: an event of its conversion records it in SPW96. -/
def TVal.inner (v : Val) (bad : Bool) : TVal := { val := v, bad := bad, fmtA := fSPW96, fmtB := 0x0F, opa := spwEnc v, opb := 0 }

/-- The rounding of element `e` of instruction `i` in mode code `md`; SPW96 takes RNE (R148). -/
def State.tileRnd (s : State) (g i md f e : Nat) : Rnd := if f = fSPW96 then .rne else s.rndFor (.tile g) i md f e

/-- The rounding mode code of an instruction (R236). -/
def State.insnMode (s : State) (g : Nat) (x : Insn) : Nat := if x.rnd = 0 then s.defRnd (.tile g) else x.rnd - 1

/-- One value converted to a plain format. A NaN that its format cannot hold is INVALID_CONV; `keep` also reports NAN_IN,
which a conversion of an operand as read raises (Table 06.4). -/
def convOut (f : Nat) (md : Rnd) (sat keep : Bool) (e : Nat) (v : TVal) : Nat × Fx :=
  let c := conv f md sat v.val
  let cause := if c.cause = 3 && !keep then 0 else c.cause
  (c.enc, (Fx.clip c.clip).add (Fx.nan cause v.fmtA v.fmtB e noTerm v.opa v.opb))

/-- A row of values converted to a destination: encodings, scale bytes and effects. -/
def convRow (d : TDesc) (md : Nat → Rnd) (sat keep : Bool) (i : Nat) (l : List TVal) : TRow × Fx :=
  let e0 := i * d.cols
  if d.mx then
    let bl := blocks32 l
    let r := (List.range bl.length).map fun k =>
      let b := bl.getD k []
      let c := convBlock d.fmt (fun j => md (e0 + 32 * k + j)) sat (fun j => e0 + 32 * k + j)
        (fun j => ((b[j]?).map fun v => (v.fmtA, v.opa)).getD (0, 0)) (b.map TVal.val)
      let bad := b.any TVal.bad
      (c.2.1.map fun e => (e, bad), c.1, c.2.2)
    ({ idx := i, els := r.flatMap (·.1), scales := r.map (·.2.1) }, (r.map (·.2.2)).foldl Fx.add Fx.none)
  else
    let r := (List.range l.length).map fun j =>
      match l[j]? with
      | some v => let c := convOut d.fmt (md (e0 + j)) sat keep (e0 + j) v; ((c.1, v.bad), c.2)
      | none => ((0, false), Fx.none)
    ({ idx := i, els := r.map (·.1), scales := [] }, (r.map (·.2)).foldl Fx.add Fx.none)

end Sys2Proof.Machine
end

