-- ==== Sys2Proof/Machine/TileOps.lean ====
section
/-! DEFINITION. What a tile instruction computes: copies, fills, indexed moves, matrix products, elementwise operations and row
reductions (R238–R241, R252). -/

namespace Sys2Proof.Machine

open Sys2Proof

/-! ## Dot products with absent terms (R154, R216, R219) -/

/-- One level of the block tree over terms that may be absent. `first` and `span` name the terms of a partial. -/
def treeLevelO (out first span : Nat) : List (Option Val) → List (Option Val) × Fx
  | a :: b :: l =>
    let r := treeLevelO out (first + 2 * span) span l
    match a, b with
    | some x, some y =>
      let s := spwAdd x y
      (some s.val :: r.1, ((Fx.clip s.clip).add (Fx.nan s.cause fSPW96 fSPW96 out first (spwEnc x) (spwEnc y))).add r.2)
    | some x, none => (some x :: r.1, r.2)
    | none, y => (y :: r.1, r.2)
  | l => (l, Fx.none)

/-- `n` levels of the tree. -/
def treeLevelsO (out first : Nat) : Nat → Nat → List (Option Val) → List (Option Val) × Fx
  | 0, _, l => (l, Fx.none)
  | n + 1, span, l =>
    let a := treeLevelO out first span l
    let b := treeLevelsO out first n (2 * span) a.1
    (b.1, a.2.add b.2)

/-- The sum of a block; none when every term is absent. -/
def blockSumO (out first : Nat) (l : List (Option Val)) : Option Val × Fx :=
  let r := treeLevelsO out first 5 1 l
  (r.1.headD none, r.2)

/-- A block of terms with the power of two that scales its sum; `nan`: a block scale is NaN. -/
structure Terms where
  terms : List (Option Val)
  scale : Int
  nan : Bool
  deriving DecidableEq, Repr

/-- A block sum scaled exactly. -/
def scaleVal (x : Int) (nan : Bool) (v : Val) : Val :=
  if nan then .nan
  else match v with
    | .fin s m e => .fin s m (e + x)
    | v => v

/-- A block sum enters the accumulator, which starts absent: it is rounded to the accumulator's format. -/
def accFirst (fmt : Nat) (md : Rnd) (sat : Bool) (b : Val) : Val × Fx :=
  let md' := match md with
    | .sr _ => .rne
    | x => x
  let r := if fmt = fSPW96 then roundTo fSPW96 .rne false b else roundTo fFP32 md' sat b
  (r.1, Fx.clip r.2)

/-- A dot product: blocks in ascending order into an accumulator of a format (R154). The second part is its effects; none
when every term is absent and the accumulator started absent. -/
def dotBlocks (fmt : Nat) (md : Rnd) (sat : Bool) (out : Nat) : Nat → List Terms → Option Val → Option Val × Fx
  | _, [], acc => (acc, Fx.none)
  | first, b :: l, acc =>
    let t := blockSumO out first b.terms
    let step : Option Val × Fx :=
      match t.1, acc with
      | none, _ => (acc, Fx.none)
      | some v, none => let r := accFirst fmt md sat (scaleVal b.scale b.nan v); (some r.1, r.2)
      | some v, some a => let r := accStep fmt md sat out first a (scaleVal b.scale b.nan v); (some r.1, r.2)
    let r := dotBlocks fmt md sat out (first + 32) l step.1
    (r.1, (t.2.add step.2).add r.2)

/-- A multiplication term (R166): NAN_IN for a NaN operand read, ZERO_INF at the multiplier; absent where either is. -/
def mulTerm (out k : Nat) (a b : TEl) : Option Val × Fx :=
  if a.absent || b.absent then (none, Fx.none)
  else if a.val.isNan || b.val.isNan then (some .nan, Fx.nan 3 a.fmt b.fmt out k a.enc b.enc)
  else
    let p := mulVal a.raw b.raw
    let r := roundTo fSPW96 .rne false p.1
    (some r.1, (Fx.clip r.2).add (Fx.nan p.2 a.fmt b.fmt out k a.enc b.enc))

/-- Element pairs numbered from 0. -/
def zipTerms (l m : List TEl) : List (Nat × TEl × TEl) :=
  (List.range (min l.length m.length)).filterMap fun k =>
    match l[k]?, m[k]? with
    | some a, some b => some (k, a, b)
    | _, _ => none

/-- Scale exponent of an element. -/
def TEl.x (e : TEl) : Int := (e.sc : Int) - 127

/-- A block of a product of two rows. -/
def mulBlock (out : Nat) (l : List (Nat × TEl × TEl)) : Terms × Fx :=
  let t := l.map fun x => mulTerm out x.1 x.2.1 x.2.2
  let head := l.head?
  ({ terms := t.map (·.1), scale := (head.map fun x => x.2.1.x + x.2.2.x).getD 0,
     nan := (head.map fun x => decide (x.2.1.sc = 255) || decide (x.2.2.sc = 255)).getD false },
   (t.map (·.2)).foldl Fx.add Fx.none)

/-- A dot product of two rows of floating-point elements. -/
def dotRows (fmt : Nat) (md : Rnd) (sat : Bool) (out : Nat) (acc : Option Val) (l m : List TEl) : Option Val × Fx :=
  let bl := (blocks32 (zipTerms l m)).map (mulBlock out)
  let r := dotBlocks fmt md sat out 0 (bl.map (·.1)) acc
  (r.1, ((bl.map (·.2)).foldl Fx.add Fx.none).add r.2)

/-- The integer an element holds. -/
def TEl.int (e : TEl) : Int :=
  match e.raw with
  | .fin s m _ => if s then -(m : Int) else m
  | _ => 0

/-- An integer dot product (R155). -/
def dotInts (acc : Int) (l m : List TEl) : Int :=
  (zipTerms l m).foldl (fun x t => if t.2.1.absent || t.2.2.absent then x else x + t.2.1.int * t.2.2.int) acc

/-- Some element of a list that takes part is poisoned: absent terms are never poisoned, and the other operand is not read
at an absent term (R216, R252). -/
def termsBad (l m : List TEl) : Bool :=
  (zipTerms l m).any fun t => !t.2.1.absent && !t.2.2.absent && (t.2.1.bad || t.2.2.bad)

/-! ## The instruction in its tile -/

/-- The context of an instruction: tile, module, index and instruction. -/
structure ICtx where
  g : Nat
  m : List Byte
  i : Nat
  x : Insn
  deriving DecidableEq, Repr

def ICtx.dd (c : ICtx) : TDesc := tdescAt c.m c.x.d
def ICtx.da (c : ICtx) : TDesc := tdescAt c.m c.x.a
def ICtx.db (c : ICtx) : TDesc := tdescAt c.m c.x.b
def ICtx.dc (c : ICtx) : TDesc := tdescAt c.m c.x.c

/-- Rounding of element `e` of D. -/
def State.icRnd (s : State) (c : ICtx) (e : Nat) : Rnd := s.tileRnd c.g c.i (s.insnMode c.g c.x) c.dd.fmt e

/-- Rows of values converted and written, and their effects recorded (R164, R167, R240). -/
def State.icResults (s : State) (c : ICtx) (keep : Bool) (pre : Fx) (rows : List (Nat × List TVal)) : State :=
  let r := rows.map fun x => convRow c.dd (s.icRnd c) (s.sat (.tile c.g)) keep x.1 x.2
  let fx := (r.map (·.2)).foldl Fx.add pre
  (s.arith (.tile c.g) c.i fx).tileWrite c.g c.dd (r.map (·.1))

/-- All operands of an instruction read, with the effects of the reads. -/
def State.icRead (s : State) (c : ICtx) (l : List (Option TDesc)) : State := l.foldl (fun t d => t.tileReadAll c.g c.i d) s

/-! ## COPY and the elementwise instructions (R238) -/

/-- Exact result of an elementwise operation on its operand values, with the cause of a NaN event of its own. -/
def elemOp (op : Nat) (a b c : Val) : Val × Nat :=
  match op with
  | 0x11 => addVal a b
  | 0x12 => addVal a b.neg
  | 0x13 => mulVal a b
  | 0x14 =>
    let p := mulVal a b
    let r := addVal p.1 c
    (r.1, if p.2 ≠ 0 then p.2 else r.2)
  | 0x15 => (maxVal a b, 0)
  | 0x16 => (minVal a b, 0)
  | 0x17 => divVal a b
  | 0x18 => sqrtVal a
  | 0x19 => (exp2Val a, 0)
  | 0x1A => (signVal a, 0)
  | 0x1B => (a.abs, 0)
  | _ => (a, 0)

/-- The element of an operand that broadcasts to (i, j) of D (R237). -/
def State.bcEl (s : State) (g : Nat) (d : TDesc) (i j : Nat) : TEl :=
  s.tel g d (if d.rows = 1 then 0 else i) (if d.cols = 1 then 0 else j)

/-- One element of an elementwise instruction: its value, and the event of its operation. COPY raises its one event at
the conversion. -/
def State.elemAt (s : State) (c : ICtx) (i j : Nat) : TVal × Fx :=
  let a := s.bcEl c.g c.da i j
  let b : Option TEl := (opDesc c.m c.x.b).map fun d => s.bcEl c.g d i j
  let z : Option TEl := (opDesc c.m c.x.c).map fun d => s.bcEl c.g d i j
  let all := a :: (b.toList ++ z.toList)
  let r := elemOp c.x.op a.val ((b.map TEl.val).getD .zero) ((z.map TEl.val).getD .zero)
  let e := i * c.dd.cols + j
  let fb := (b.map TEl.fmt).getD 0x0F
  let eb := (b.map TEl.enc).getD 0
  let cause := if c.x.op = 0x01 then 0 else if all.any (fun x => x.val.isNan) then 3 else r.2
  ({ val := r.1, bad := all.any TEl.bad, fmtA := a.fmt, fmtB := fb, opa := a.enc, opb := eb },
    Fx.nan cause a.fmt fb e noTerm a.enc eb)

/-- COPY and instructions 0x11–0x1B. -/
def State.elemwise (s : State) (c : ICtx) : State :=
  let rows := (List.range c.dd.rows).map fun i => (i, (List.range c.dd.cols).map fun j => s.elemAt c i j)
  let pre := (rows.flatMap fun r => r.2.map (·.2)).foldl Fx.add Fx.none
  let s1 := s.icRead c [opDesc c.m c.x.a, opDesc c.m c.x.b, opDesc c.m c.x.c]
  s1.icResults c (c.x.op = 0x01) pre (rows.map fun r => (r.1, r.2.map (·.1)))

/-! ## FILL -/

/-- FILL: every element takes the low bits of IMM0, every scale byte of an MX tensor IMM1[7:0]. -/
def State.fillOp (s : State) (c : ICtx) : State :=
  let d := c.dd
  let row (i : Nat) : TRow :=
    { idx := i, els := List.replicate d.cols (c.x.imm0 % 2 ^ fmtBits d.fmt, false),
      scales := List.replicate d.rowScales (c.x.imm1 % 256) }
  s.tileWrite c.g d ((List.range d.rows).map row)

/-! ## GATHER and SCATTER (R241) -/

/-- Entry `i` of the index tensor: the index and its poison. -/
def State.indexAt (s : State) (c : ICtx) (i : Nat) : Int × Bool :=
  let x := s.tel c.g c.dc i 0
  (toSigned 32 x.enc, x.bad)

/-- The row of a table that an index names, if it lies in [0, T). -/
def inTable (t : Nat) (i : Int) : Option Nat := if 0 ≤ i && i < t then some i.toNat else none

/-- The bits of a row with its scale bytes. -/
def State.rowBits (s : State) (g : Nat) (d : TDesc) (dst i : Nat) : TRow :=
  { idx := dst, els := (s.trow g d i).map fun x => (x.enc, x.bad),
    scales := (List.range d.rowScales).map fun k => (s.tel g d i (32 * k)).sc }

/-- A row of +0 elements, with scale bytes 0x7F. -/
def zeroRow (d : TDesc) (i : Nat) (bad : Bool) : TRow :=
  { idx := i, els := List.replicate d.cols (0, bad), scales := List.replicate d.rowScales 0x7F }

/-- GATHER: row i of D is row C[i] of A. -/
def State.gatherOp (s : State) (c : ICtx) : State :=
  let n := c.dd.rows
  let ix := (List.range n).map (s.indexAt c)
  let rows := (List.range n).map fun i =>
    let x := ix.getD i (0, false)
    if x.2 then zeroRow c.dd i true
    else match inTable c.da.rows x.1 with
      | some r => s.rowBits c.g c.da i r
      | none => zeroRow c.dd i false
  let faults := (List.range n).filter fun i =>
    let x := ix.getD i (0, false)
    !x.2 && (inTable c.da.rows x.1).isNone
  let reads := (ix.filterMap fun x => if x.2 then none else inTable c.da.rows x.1).eraseDups
  let s1 := (s.icRead c [some c.dc]).tileRead c.g c.i c.da reads
  let s2 := faults.foldl (fun t i => t.tileBound c.g 5 c.i i (ofSigned 32 (ix.getD i (0, false)).1)) s1
  s2.tileWrite c.g c.dd rows

/-- One contribution combined into a running element in SPW96 under R182: RED 1 sum, 2 maximum, 3 minimum. -/
def scatterStep (red e : Nat) (acc : CV) (x : TEl) (first : Bool) (d0 : TEl) : CV × Fx :=
  let fx := Fx.nan (if x.val.isNan || (first && d0.val.isNan) then 3 else 0) d0.fmt x.fmt e noTerm d0.enc x.enc
  let r := combine [] red e noTerm acc (x.val, x.bad)
  (r.1, fx.add r.2)

/-- The folded values of element (r, j) of D over the contributions to its row, in ascending order. -/
def State.scatterEl (s : State) (c : ICtx) (red r j : Nat) (from_ : List Nat) : TVal × Fx :=
  let d0 := s.tel c.g c.dd r j
  let e := r * c.dd.cols + j
  let x := from_.foldl (fun (a : (CV × Fx) × Bool) i =>
    let y := scatterStep red e a.1.1 (s.tel c.g c.da i j) a.2 d0
    ((y.1, a.1.2.add y.2), false)) (((d0.val, d0.bad), Fx.none), true)
  (TVal.inner x.1.1.1 x.1.1.2, x.1.2)

/-- Results with no poison marks of their own. -/
def TRow.unmarked (r : TRow) : TRow := { r with els := r.els.map fun x => (x.1, false) }

/-- Values with no poison marks of their own. -/
def TVal.unmarked (v : TVal) : TVal := { v with bad := false }

/-- SCATTER: row i of A combined into row C[i] of D. A poisoned index poisons every row of D, each granule once. -/
def State.scatterOp (s : State) (c : ICtx) : State :=
  let n := c.da.rows
  let ix := (List.range n).map (s.indexAt c)
  let dst (i : Nat) : Option Nat :=
    let x := ix.getD i (0, false)
    if x.2 then none else inTable c.dd.rows x.1
  let faults := (List.range n).filter fun i =>
    let x := ix.getD i (0, false)
    !x.2 && (inTable c.dd.rows x.1).isNone
  let good := (List.range n).filter fun i => (dst i).isSome
  let rows := ((List.range n).filterMap dst).eraseDups.mergeSort (· ≤ ·)
  let s1 := ((s.icRead c [some c.dc]).tileRead c.g c.i c.da good)
  let s2 := faults.foldl (fun t i => t.tileBound c.g 5 c.i i (ofSigned 32 (ix.getD i (0, false)).1)) s1
  let red := c.x.imm0 % 4
  let lost := ix.any (·.2)
  let s3 :=
    if red = 0 then
      s2.tileWrite c.g c.dd (rows.filterMap fun r =>
        (((List.range n).filter fun i => dst i = some r).getLast?).map fun i =>
          let x := s.rowBits c.g c.da r i
          if lost then x.unmarked else x)
    else
      let vals := rows.map fun r =>
        let fr := (List.range n).filter fun i => dst i = some r
        (r, (List.range c.dd.cols).map fun j => s.scatterEl c red r j fr)
      let pre := (vals.flatMap fun v => v.2.map (·.2)).foldl Fx.add Fx.none
      (s2.tileRead c.g c.i c.dd rows).icResults c false pre
        (vals.map fun v => (v.1, v.2.map fun y => if lost then y.1.unmarked else y.1))
  if lost then
    let o := s.tdLoc c.g c.dd
    s3.tilePoison c.g c.dd (((List.range c.dd.rows).flatMap fun r => linesOf (o.2 + r * c.dd.ld) c.dd.rowBytes).eraseDups)
  else s3

/-! ## MMA and the row reductions (R239) -/

/-- Both operands are integers. -/
def ICtx.ints (c : ICtx) : Bool := isInt c.da.fmt && isInt c.db.fmt

/-- The accumulator format of an MMA. -/
def ICtx.accFmt (c : ICtx) : Nat := if bit c.x.imm0 1 then fSPW96 else fFP32

/-- The mode in which an FP32 accumulator is rounded. -/
def State.accMode (s : State) (c : ICtx) : Rnd := if s.insnMode c.g c.x = 1 then .rz else .rne

/-- Element (i, j) of an MMA from rows of A and B: value, poison and effects. -/
def State.mmaAt (s : State) (c : ICtx) (i j : Nat) (ra rb : List TEl) : TVal × Fx :=
  let e := i * c.dd.cols + j
  let d0 : Option TEl := if bit c.x.imm0 0 then some (s.tel c.g c.dd i j) else none
  let bad := termsBad ra rb || (d0.map TEl.bad).getD false
  if c.ints then (TVal.inner (Val.ofInt (dotInts ((d0.map TEl.int).getD 0) ra rb)) bad, Fx.none)
  else
    let fx0 : Fx := match d0 with
      | some d => Fx.nan (if d.val.isNan then 3 else 0) d.fmt 0x0F e noTerm d.enc 0
      | none => Fx.none
    let r := dotRows c.accFmt (s.accMode c) (s.sat (.tile c.g)) e (d0.map TEl.val) ra rb
    (TVal.inner (r.1.getD .zero) bad, fx0.add r.2)

/-- The terms of an MMA's operands that are read: those whose partner is present in some row of the other operand (R216, R219). -/
def facing (l : List (List TEl)) (k : Nat) : Bool := l.any fun r => (r[k]?).any fun x => !x.absent

/-- MMA: D[i][j] is the dot product of row i of A and row j of B. -/
def State.mmaOp (s : State) (c : ICtx) : State :=
  let a := (List.range c.da.rows).map (s.trow c.g c.da)
  let b := (List.range c.db.rows).map (s.trow c.g c.db)
  let rows := (List.range c.dd.rows).map fun i =>
    (i, (List.range c.dd.cols).map fun j => s.mmaAt c i j (a.getD i []) (b.getD j []))
  let pre := (rows.flatMap fun r => r.2.map (·.2)).foldl Fx.add Fx.none
  let s0 := if c.db.layout = 0 then s.tileReadAll c.g c.i (some c.da)
    else s.tileReadSome c.g c.i c.da fun _ k => facing b k
  let s1 := if c.da.layout = 0 then s0.tileReadAll c.g c.i (some c.db)
    else s0.tileReadSome c.g c.i c.db fun _ k => facing a k
  let s2 := if bit c.x.imm0 0 then s1.tileReadAll c.g c.i (some c.dd) else s1
  s2.icResults c false pre (rows.map fun r => (r.1, r.2.map (·.1)))

/-- A block of a row taken as terms, with no multiplication. -/
def rowBlock (out first : Nat) (l : List TEl) : Terms × Fx :=
  let t := (List.range l.length).map fun k =>
    match l[k]? with
    | some x => if x.absent then ((none : Option Val), Fx.none)
        else (some x.raw, Fx.nan (if x.val.isNan then 3 else 0) x.fmt 0x0F out (first + k) x.enc 0)
    | none => (none, Fx.none)
  ({ terms := t.map (·.1), scale := ((l.head?).map TEl.x).getD 0, nan := ((l.head?).map fun x => decide (x.sc = 255)).getD false },
    (t.map (·.2)).foldl Fx.add Fx.none)

/-- The blocks of a row. -/
def rowBlocks (out : Nat) (l : List TEl) : List (Terms × Fx) :=
  let b := blocks32 l
  (List.range b.length).map fun k => rowBlock out (32 * k) (b.getD k [])

/-- The sum of a row's terms in SPW96. -/
def sumRow (out : Nat) (l : List TEl) : Option Val × Fx :=
  let bl := rowBlocks out l
  let r := dotBlocks fSPW96 .rne false out 0 (bl.map (·.1)) none
  (r.1, ((bl.map (·.2)).foldl Fx.add Fx.none).add r.2)

/-- The maximum or minimum of a row's terms under R156; none when all are absent. -/
def extremeRow (mx : Bool) (out : Nat) (l : List TEl) : Option Val × Fx :=
  let v := (l.filter fun x => !x.absent).foldl (fun (a : Option Val) x =>
    match a with
    | none => some x.val
    | some y => some (if mx then maxVal y x.val else minVal y x.val)) none
  (v, ((rowBlocks out l).map (·.2)).foldl Fx.add Fx.none)

/-- RSUM, RMAX and RMIN. -/
def State.rowRed (s : State) (c : ICtx) : State :=
  let rows := (List.range c.da.rows).map fun i =>
    let l := s.trow c.g c.da i
    let r := if c.x.op = 0x20 then sumRow i l else extremeRow (c.x.op = 0x21) i l
    (i, TVal.inner (r.1.getD .zero) (l.any fun x => !x.absent && x.bad), r.2)
  let pre := (rows.map (·.2.2)).foldl Fx.add Fx.none
  (s.icRead c [some c.da]).icResults c false pre (rows.map fun r => (r.1, [r.2.1]))

/-! ## FP64 (R159) -/

/-- The instruction computes with FP64: an operand of an arithmetic instruction is FP64. -/
def Insn.usesFp64 (m : List Byte) (x : Insn) : Bool :=
  (x.op = 0x01 || (0x10 ≤ x.op && x.op ≤ 0x22) || (x.op = 0x04 && x.imm0 % 4 ≠ 0)) &&
    (([x.d, x.a, x.b, x.c].filter (· ≠ 0xFF)).any fun v => (tdescAt m v).fmt = fFP64)

/-- The data effect of an instruction other than CALL, fences and flag operations. -/
def State.insnData (s : State) (c : ICtx) : State :=
  if c.x.usesFp64 c.m && s.svc (.tile c.g) = 0 then s.fp64Denied (.tile c.g)
  else if c.x.op = 0x02 then s.fillOp c
  else if c.x.op = 0x03 then s.gatherOp c
  else if c.x.op = 0x04 then s.scatterOp c
  else if c.x.op = 0x10 then s.mmaOp c
  else if isRowRed c.x.op then s.rowRed c
  else s.elemwise c

end Sys2Proof.Machine
end

