-- ==== Sys2Proof/Machine/Races.lean ====
section
/-! DEFINITION. The order between the accesses of a tick body's queues, and conflicts without one (R242–R247). -/

namespace Sys2Proof.Machine

open Sys2Proof

/-! ## The flag operations run alone (R247) -/

/-- The flag operations run alone: flags, increments, and what is left of each queue. -/
structure FlagSim where
  flags : List Nat
  incs : List Nat
  qs : List (List (Nat × Insn))
  bad : Option Nat
  deriving DecidableEq, Repr

/-- The start: AFLAG increments are applied. -/
def FlagSim.init (m : List Byte) : FlagSim :=
  let inc := (List.range 32).map fun f => ((modBinds m).filter fun b => b.2.dir = 0 && b.2.aflag = f).length
  { flags := inc, incs := inc
    qs := (List.range 4).map fun q => (modInsns m).filter fun x => isFlagOp x.2.op && x.2.q = q
    bad := none }

/-- One operation of queue `q`, if it can proceed. `stop` names a FLAG.SET that never happens; `vcount` is the count taken
for FLAG.WAITV. -/
def FlagSim.move (stop : Option Nat) (vcount : Nat → Nat) (s : FlagSim) (q : Nat) : FlagSim :=
  match s.qs.getD q [] with
  | [] => s
  | (i, x) :: l =>
    let f := x.flag
    if some i = stop then s
    else if x.op = opSet then
      let n := s.incs.getD f 0 + 1
      { flags := setAt s.flags f (s.flags.getD f 0 + 1), incs := setAt s.incs f n, qs := setAt s.qs q l
        bad := if s.bad.isNone && 255 < n then some i else s.bad }
    else
      let n := if x.op = opWait then x.imm1 % 256 else vcount f
      if n ≤ s.flags.getD f 0 then { s with flags := setAt s.flags f (s.flags.getD f 0 - n), qs := setAt s.qs q l } else s

/-- Rounds of one operation a queue. -/
def FlagSim.run (stop : Option Nat) (vcount : Nat → Nat) : Nat → FlagSim → FlagSim
  | 0, s => s
  | n + 1, s => FlagSim.run stop vcount n ([0, 1, 2, 3].foldl (FlagSim.move stop vcount) s)

/-- Flag operations of a module. -/
def flagOps (m : List Byte) : Nat := ((modInsns m).filter fun x => isFlagOp x.2.op).length

/-! ## Order between queues (R242–R244) -/

/-- Wait `w` cannot complete unless FLAG.SET `i` takes effect. A FLAG.WAITV is taken to need every increment of its flag:
its count is not visible to the translator. -/
def needsSet (m : List Byte) (i : Nat) (w : Nat × Insn) : Bool :=
  let total (f : Nat) : Nat := ((FlagSim.init m).incs.getD f 0) + ((modInsns m).filter fun x => x.2.op = opSet && x.2.flag = f).length
  let s := FlagSim.run (some i) total (flagOps m) (FlagSim.init m)
  (s.qs.getD w.2.q []).any fun y => y.1 = w.1

/-- A fence of a queue between two of its positions. -/
def fenceBetween (m : List Byte) (q lo hi : Nat) (p : Nat → Bool) : Bool :=
  (modInsns m).any fun x => x.2.q = q && lo < x.1 && x.1 < hi && p x.2.op

/-- Accesses of `x` are performed before those of `y`, of another queue (R243, R244): a FLAG.SET after `x`, held by a fence,
is needed by a wait before `y`, with a fence after it. FENCE.REL covers writes; FENCE.FULL covers reads too. -/
def orderedAfter (m : List Byte) (wr : Bool) (x y : Nat × Insn) : Bool :=
  (modInsns m).any fun st =>
    st.2.op = opSet && st.2.q = x.2.q && x.1 < st.1
      && fenceBetween m x.2.q x.1 st.1 (fun o => o = opFull || (wr && o = opRel))
      && (modInsns m).any fun w =>
        isWait w.2.op && w.2.q = y.2.q && w.1 < y.1
          && fenceBetween m y.2.q w.1 y.1 (fun o => o = opAcq || o = opFull) && needsSet m st.1 w

/-- How far ranges reach without a gap from a byte on. -/
def coverTo (l : List Access) : Nat → Nat → Nat
  | 0, p => p
  | n + 1, p => coverTo l n ((l.filter fun c => c.lo ≤ p).foldl (fun b c => max b c.hi) p)

/-- An access of `x` is performed before one of `y`, of another queue: by fences and flags, or because `x`'s own queue later writes
every byte that the two share, which it does after the access (R242), and those writes are ordered before `y` (R246). -/
def orderedBy (m : List Byte) (a b : Access) (x y : Nat × Insn) : Bool :=
  let l := ((modInsns m).filter fun z => z.2.q = x.2.q && x.1 < z.1 && orderedAfter m true z y).flatMap fun z =>
    (z.2.raceAccesses m).filter fun c => c.wr && c.hbm = a.hbm
  orderedAfter m a.wr x y || min a.hi b.hi ≤ coverTo l l.length (max a.lo b.lo)

/-! ## Conflicts in HBM (R246, R381) -/

/-- The byte ranges of HBM, by virtual address, in which an instruction has an unordered conflict with one of another queue. -/
def raceSpans (m : List Byte) (x : Nat × Insn) : List (Nat × Nat) :=
  (modInsns m).flatMap fun y =>
    if x.2.q = y.2.q then []
    else (x.2.raceAccesses m).flatMap fun a =>
      if a.hbm then
        ((y.2.raceAccesses m).filter fun b => a.clash b && !orderedBy m a b x y && !orderedBy m b a y x).map fun b =>
          (max a.lo b.lo, min a.hi b.hi)
      else []

/-- Every byte of an unordered conflict in HBM holds an unspecified value: a free one (R246, R381). -/
def State.raceOpen (s : State) (c : ICtx) : State :=
  (raceSpans c.m (c.i, c.x)).foldl (fun (t : State) (r : Nat × Nat) => t.poke spHbm (t.vaLoc r.1)
    ((List.range (r.2 - r.1)).map fun k => BitVec.ofNat 8 (Config.openValue [246, t.now, c.g, c.i, r.1 + k]))) s

end Sys2Proof.Machine
end

