-- ==== Sys2Proof/Machine/SpotCheck.lean ====
section
/-! DEFINITION. The spot-checkers: arming, sampling, and the recomputed elements (R338). The recomputation is that of the
model itself, so the expected bits are those that the sampled instruction gives. -/

namespace Sys2Proof.Machine

open Sys2Proof

/-- Arithmetic instructions: OP 0x01 and 0x10–0x22. -/
def arithOp (op : Nat) : Bool := op = 1 || (0x10 ≤ op && op ≤ 0x22)

/-- Indices of the arithmetic instructions of a body, in program order. -/
def arithInsns (m : List Byte) : List Nat := ((modInsns m).filter fun x => arithOp x.2.op).map (·.1)

/-- The four words that pick the sample: Philox4x32-10 with k0 = T[31:0] and k1 = 0x0400_0000 + tile. -/
def spotWords (t g : Nat) : Nat × Nat × Nat × Nat :=
  philoxRounds 10 (0, 0, 0, 0) (t % 2 ^ 32, (0x04000000 + g) % 2 ^ 32)

/-- The state of spot-checker `i`: 0–7 the armed tile of Cupola i, 8 + c a sample of Cupola c whose interval has ended before
its recomputation. -/
def State.setSpot (s : State) (i : Nat) (x : Spot) : State := { s with spots := AL.put s.spots i x }

/-- The checker of a Cupola arms a tile for the interval that begins; an unfinished sample is kept apart. -/
def State.spotArmOne (s : State) (n c : Nat) : State :=
  let s1 := match AL.get s.spots c with
    | some x => if x.exp.isEmpty then s else s.setSpot (8 + c) x
    | none => s
  s1.setSpot c { tile := 32 * c + (s.now / n + c) % 32, tick := none, insn := 0, elems := [], exp := [] }

/-- Every checker arms its tile at the boundary that starts tick T with T mod SPOT_INTERVAL = 0. -/
def State.spotArm (s : State) : State :=
  let n := max 1 (s.rd pgIntegrity Itg.SPOT_INTERVAL)
  if s.rdb pgIntegrity Itg.SPOT_EN && s.now % n = 0 then (List.range 8).foldl (fun t c => t.spotArmOne n c) s else s

/-- The armed tile starts a body with arithmetic instructions: the tick is sampled, if it is the first of the interval. -/
def State.spotSample (s : State) (g : Nat) (m : List Byte) : State :=
  match AL.get s.spots (g / 32) with
  | none => s
  | some x =>
    let l := arithInsns m
    if s.rdb pgIntegrity Itg.SPOT_EN && x.tile = g && x.tick.isNone && !l.isEmpty then
      let w := spotWords s.now g
      let i := l.getD (w.1 % l.length) 0
      let d := tdescAt m (insnAt m i).d
      let n := max 1 (d.rows * d.cols)
      s.setSpot (g / 32) { x with tick := some s.now, insn := i, elems := [w.2.1 % n, w.2.2.1 % n, w.2.2.2 % n], exp := [] }
    else s

/-- The load signature of a tile that was busy for `busy` cc of the current tick: that share of W, and the Cupola's mean power in units
of 4 W (R339). -/
def State.loadOf (s : State) (g busy : Nat) : Nat :=
  let w := max 1 (s.rd pgBelfry Bel.PER_CUR * 256 - s.rd pgBelfry Bel.G16 * 16)
  min 255 (busy * 255 / w) + min 255 (s.rd pgOculus Ocu.PWR_CUP (g / 32) / 4) * 256

/-- The body of a sampled tick ends or is abandoned: the signature is taken (R339). -/
def State.spotLoad (s : State) (g : Nat) : State :=
  match AL.get s.spots (g / 32) with
  | none => s
  | some x =>
    if x.tile = g && x.tick = some s.now then
      s.setSpot (g / 32) { x with load := s.loadOf g (if (s.tile g).running then s.clock - (s.tile g).start else 0) }
    else s

/-- The sampled instruction has run: the elements as recomputed. -/
def State.spotCapture (s : State) (c : ICtx) : State :=
  match AL.get s.spots (c.g / 32) with
  | none => s
  | some x =>
    if x.tile = c.g && x.tick = some s.now && x.insn = c.i then
      let d := c.dd
      let el (e : Nat) : Option Nat :=
        let y := s.tel c.g d (e / max 1 d.cols) (e % max 1 d.cols)
        if y.bad then none else some y.enc
      s.setSpot (c.g / 32) { x with exp := x.elems.map el }
    else s

end Sys2Proof.Machine
end

