-- ==== Sys2Proof/Machine/TileRun.lean ====
section
/-! DEFINITION. Tick bodies at work: the order of effects, fences and flags, streams of a body, completion and abandonment,
instruction memory and its prefetch (R228–R254). -/

namespace Sys2Proof.Machine

open Sys2Proof

/-! ## Bodies of a plan step (R230) -/

/-- The body that a tile runs in a plan state: bank, BLOB_OFF and module. -/
def State.bodyOf (s : State) (p : PlanTick) (g : Nat) : Option (Nat × Nat × List Byte) :=
  match s.imageOf p with
  | none => none
  | some m =>
    ((imgActions m).find? fun a => a.kind = 2 && a.unit = g && a.step = p.step && varActs a.var p.var).map fun a =>
      (p.bank, a.off, actionObj m a)

/-- Tiles with a body in a plan state. -/
def State.bodyTiles (s : State) (p : PlanTick) : List Nat :=
  match s.imageOf p with
  | none => []
  | some m => (((imgActions m).filter fun a => a.kind = 2 && a.step = p.step && varActs a.var p.var).map (·.unit)).eraseDups

/-! ## Order of effects (R242–R244) -/

/-- Earlier instructions of the same queue that are not complete. -/
def Tile.before (t : Tile) (m : List Byte) (i q : Nat) : List (Nat × Insn) :=
  (modInsns m).filter fun y => y.1 < i && y.2.q = q && !t.done.contains y.1

/-- Every RECV position of a stream in this tick has reached its consumption offset (R235). -/
def State.streamLanded (s : State) (sid : Nat) : Bool :=
  match s.consumeImage with
  | some m => ((recvHops m s.sched.prev).filter fun h => h.2 = sid).all fun h =>
      (List.range (recvTimes m s.sched.prev h.1 h.2).length).all fun j => s.sched.taken.contains (h.1, h.2, j)
  | none => true

/-- The in-streams that an instruction reads have landed. -/
def State.streamsIn (s : State) (m : List Byte) (x : Insn) : Bool :=
  x.reads.all fun v =>
    let d := tdescAt m v
    d.space ≠ 2 || s.streamLanded (tbindAt m d.bind).sid

/-- Nothing of its own queue holds an instruction back. -/
def orderOk (m : List Byte) (x : Insn) (l : List (Nat × Insn)) : Bool :=
  let acc := x.accesses m
  (!isFlagOp x.op || !(l.any fun y => isFlagOp y.2.op))
    && (x.op ≠ opSet || !(l.any fun y => y.2.op = opRel || y.2.op = opFull))
    && (acc.isEmpty || !(l.any fun y => y.2.op = opAcq || y.2.op = opFull))
    && !(l.any fun y => (y.2.accesses m).any fun b => acc.any fun a => a.clash b)
    && (!(x.op = opAcq || x.op = opFull) || !(l.any fun y => isWait y.2.op))
    && (!(x.op = opRel || x.op = opFull) || !(l.any fun y => (y.2.accesses m).any Access.wr))
    && (x.op ≠ opFull || !(l.any fun y => !(y.2.accesses m).isEmpty))

/-- Instruction `i` has not been performed, and nothing of its own queue holds it back. -/
def Tile.issued (t : Tile) (m : List Byte) (i : Nat) (x : Insn) : Bool :=
  !t.done.contains i && !(t.waits.any fun w => w.insn = i) && orderOk m x (t.before m i x.q)

/-- The CALL that takes the library engine next: of those that wait, the lowest queue's, then the earliest (R242, R259). -/
def Tile.nextCall (t : Tile) (m : List Byte) : Option Nat :=
  (List.range 4).findSome? fun q =>
    ((modInsns m).find? fun y => y.2.op = 0x30 && y.2.q = q && t.issued m y.1 y.2).map (·.1)

/-- A free library engine takes its next CALL; one that has started holds it until it completes (R259). -/
def Tile.callStart (t : Tile) : Tile :=
  match t.engine, t.body with
  | none, some m => { t with engine := t.nextCall m }
  | _, _ => t

/-- A shared unit is free for instruction `i`: the library engine is held by it; any other unit has no ready instruction of a
lower queue, or of an earlier position (R242). -/
def State.unitFree (s : State) (t : Tile) (m : List Byte) (i : Nat) (x : Insn) : Bool :=
  match x.unit m with
  | none => true
  | some 1 => t.callStart.engine = some i
  | some u => !((modInsns m).any fun y => (y.2.q < x.q || (y.2.q = x.q && y.1 < i)) && y.2.unit m = some u
      && t.issued m y.1 y.2 && s.streamsIn m y.2)

/-- Instruction `i` of the body that tile `g` runs, when it may be performed now. -/
def State.insnNow (s : State) (g i op : Nat) : Option ICtx :=
  let t := s.tile g
  match t.body with
  | none => none
  | some m =>
    let x := insnAt m i
    if t.running && s.planTick.runs && s.rdb (pgTile g) Hdr.EN && i < modNinsn m && x.op = op && t.issued m i x
        && s.streamsIn m x && s.unitFree t m i x then
      some { g := g, m := m, i := i, x := x }
    else none

/-- An instruction completes, and frees the library engine if it held it. -/
def Tile.finishInsn (t : Tile) (i : Nat) : Tile :=
  ({ t with done := i :: t.done, engine := if t.engine = some i then none else t.engine } : Tile).callStart

def State.insnDone (s : State) (g i : Nat) : State := s.setTile g ((s.tile g).finishInsn i)

/-- An instruction performed and completed, when it may be. -/
def State.insnRun (s : State) (g i op : Nat) (f : State → ICtx → State) : State :=
  match s.insnNow g i op with
  | some c => (f s c).insnDone g i
  | none => s

/-! ## Flags (R241, R244) -/

/-- A flag takes an increment; a counter at 255 stays. -/
def State.flagInc (s : State) (g f : Nat) : State :=
  let t := s.tile g
  s.setTile g { t with flags := AL.put t.flags f (min 255 (t.flag f + 1)) }

/-- The wait of queue `q` completes when its flag holds its count and no lower queue waits for that flag with a count
that it holds too; the count is subtracted. -/
def State.waitDone (s : State) (g q : Nat) : State :=
  let t := s.tile g
  match t.waits.find? fun w => w.q = q with
  | none => s
  | some w =>
    if w.need ≤ t.flag w.flag && !(t.waits.any fun v => v.q < q && v.flag = w.flag && v.need ≤ t.flag v.flag) then
      s.setTile g (({ t with
        flags := AL.put t.flags w.flag (t.flag w.flag - w.need)
        waits := t.waits.filter fun v => v.q ≠ q } : Tile).finishInsn w.insn)
    else s

/-- A wait begins, and completes at once when it can. -/
def State.waitBegin (s : State) (c : ICtx) (need : Nat) : State :=
  let t := s.tile c.g
  (s.setTile c.g { t with waits := t.waits ++ [⟨c.x.q, c.i, c.x.flag, need⟩] }).waitDone c.g c.x.q

/-- FLAG.SET (R244). -/
def State.flagSet (s : State) (g i : Nat) : State := s.insnRun g i opSet fun s c => s.flagInc g c.x.flag

/-- FLAG.WAIT (R244). -/
def State.flagWait (s : State) (g i : Nat) : State :=
  match s.insnNow g i opWait with
  | some c => s.waitBegin c (c.x.imm1 % 256)
  | none => s

/-- FLAG.WAITV: the count is read once; a poisoned word or a count above 255 is a COUNT fault and ends the wait (R241). -/
def State.flagWaitv (s : State) (g i : Nat) : State :=
  match s.insnNow g i opWaitv with
  | some c =>
    let o := g * 2 ^ 21 + c.x.imm1
    let n := s.planPeekN spTile o 4
    let bad := s.badAt spTile o 4
    let s1 := s.tileTouch g (spTile, o, 4)
    if bad then (s1.tileBound g 6 i c.x.imm1 0xFFFFFFFF).insnDone g i
    else if 255 < n then (s1.tileBound g 6 i c.x.imm1 n).insnDone g i
    else if n = 0 then s1.insnDone g i
    else s1.waitBegin c n
  | none => s

/-! ## Streams of a body (R235) -/

/-- The landing or staging area of a tensor, as pieces of the stream: offset in the stream, offset in the tile store, length.
Elements come first, then the scale bytes of an MX tensor. -/
def streamAreas (g : Nat) (d : TDesc) : List (Nat × Nat × Nat) :=
  let eb := d.rows * d.rowBytes
  let base := g * 2 ^ 21 + d.addr % 2 ^ 21
  (0, base, eb) :: (if d.mx then [(eb, base + d.soff, d.scaleSpan)] else [])

/-- Bytes of a stream. -/
def TDesc.streamLen (d : TDesc) : Nat := d.rows * (d.rowBytes + d.rowScales)

/-- Bodies of this step that bind a stream, with their tile and the descriptor of its area. -/
def State.bindersOf (s : State) (sid dir : Nat) : List (Nat × TBind × TDesc) :=
  (s.bodyTiles s.planTick).flatMap fun g =>
    match s.bodyOf s.planTick g with
    | none => []
    | some b => (modBinds b.2.2).filterMap fun x =>
        if x.2.sid = sid && x.2.dir = dir then (bindDesc b.2.2 x.1 dir).map fun d => (g, x.2, d) else none

/-- One line of a landing area takes chunk `j`: its bytes, or poison when it or another chunk of the line that has landed is
poisoned (R46, R252). `o`, `a`, `n`: stream offset, tile-store offset and length of the area. When the last chunk of a line
lands, the line is written whole; before that, a line that holds an earlier tick's poison waits (log 199). -/
def State.landLine (s : State) (sid j o a n line : Nat) : State :=
  let lo := max a (64 * line)
  let hi := min (a + n) (64 * line + 64)
  let p := o + (lo - a)
  let js := (List.range ((p + (hi - lo) - 1) / 240 - p / 240 + 1)).map fun k => p / 240 + k
  let ch := js.filterMap fun j => AL.get s.sched.inbox (sid, j)
  if hi ≤ lo then s
  else if ch.any Chunk.poison then s.poisonLine spTile line
  else if ch.length = js.length then s.store true spTile lo (slice (chunkBytes ch) (p - 240 * (p / 240)) (hi - lo))
  else
    let u := max p (240 * j)
    let v := min (p + (hi - lo)) (240 * j + 240)
    match AL.get s.sched.inbox (sid, j) with
    | some c =>
      if v ≤ u || s.writeBad spTile (a + (u - o)) (v - u) then s
      else s.store true spTile (a + (u - o)) (slice c.bytes (u - 240 * j) (v - u))
    | none => s

/-- Chunk `j` of an in-stream lands in the area of the body that binds it. -/
def State.landChunk (s : State) (sid j : Nat) : State :=
  (s.bindersOf sid 0).foldl (fun t b =>
    (streamAreas b.1 b.2.2).foldl (fun t x =>
      let lo := max x.1 (240 * j)
      let hi := min (x.1 + x.2.2) (240 * j + 240)
      if hi ≤ lo then t
      else (linesOf (x.2.1 + (lo - x.1)) (hi - lo)).foldl (fun t line => t.landLine sid j x.1 x.2.1 x.2.2 line) t) t) s

/-- AFLAG of an in-stream is incremented once its last chunk's consumption offset has passed, even if chunks are missing. -/
def State.applyAflag (s : State) (sid : Nat) : State :=
  (s.bindersOf sid 0).foldl (fun t b =>
    let x := t.tile b.1
    if t.streamLanded sid && !x.signalled.contains sid then
      let t1 := t.setTile b.1 { x with signalled := sid :: x.signalled }
      if b.2.1.aflag < 32 then t1.flagInc b.1 b.2.1.aflag else t1
    else t) s

/-- FLIT_CONSUME with its landing in a tile store (R44–R46, R235). -/
def State.consumeLand (s : State) (link sid o : Nat) : State :=
  let s1 := s.consume link sid o
  match s.consumeImage with
  | some m =>
    match posOf (recvTimes m s.sched.prev link sid) o with
    | some j => if s1.sched.taken = s.sched.taken then s1 else (s1.landChunk sid j).applyAflag sid
    | none => s1
  | none => s1

/-- FLIT_CONSUME (R45). -/
def execFlitConsume (link sid o : Nat) (s : State) : Host.Outcome State Fault Refusal := .next (s.consumeLand link sid o)

/-- Every consumption offset of the tick that has not been taken, with its landing. -/
def State.consumeAll (s : State) : State :=
  match s.consumeImage with
  | some m =>
    (recvHops m s.sched.prev).foldl (fun t h =>
      let times := recvTimes m s.sched.prev h.1 h.2
      ((List.range times.length).foldl (fun t j => t.consumeLand h.1 h.2 (times.getD j 0)) t)) s
  | none => s

/-- The bytes of a staged stream, and whether chunk `j` of it holds poison. -/
def State.stagedBytes (s : State) (g : Nat) (d : TDesc) : List Byte :=
  (streamAreas g d).flatMap fun x => s.planPeek spTile x.2.1 x.2.2

def State.stagedBad (s : State) (g : Nat) (d : TDesc) (j : Nat) : Bool :=
  (streamAreas g d).any fun x =>
    let lo := max x.1 (240 * j)
    let hi := min (x.1 + x.2.2) (240 * j + 240)
    lo < hi && s.badAt spTile (x.2.1 + (lo - x.1)) (hi - lo)

/-- The staging area as blocks for the sparse codec. -/
def State.stagedBlks (s : State) (g : Nat) (d : TDesc) : List Blk :=
  (List.range (d.n / 32)).map fun b =>
    let l := (List.range 32).map fun k => s.tel g d ((32 * b + k) / d.cols) ((32 * b + k) % d.cols)
    { elems := l.map TEl.enc, scale := ((l.head?).map TEl.sc).getD 0, present := true, bad := l.any TEl.bad }

/-- One out-stream of a completed body is staged for the next plan step: cut into chunks, or encoded by the codec of the
tile's Cupola when it is coded. -/
def State.sendOut (s : State) (g : Nat) (m : List Byte) (b : Nat × TBind) : State :=
  match bindDesc m b.1 1 with
  | none => s
  | some d =>
    let img := ((s.bank (s.tile g).bank).map Bank.image).getD []
    let s0 := (streamAreas g d).foldl (fun t x => t.tileTouch g (spTile, x.2.1, x.2.2)) s
    match imgStream img b.2.sid with
    | none => s0
    | some r =>
      if r.coded then
        (s0.bump (pgCodec (g / 32)) Cdc.BYTES_DENSE (d.n / 32 * (blkBytes d.fmt + blkScale d.mx))).encodeOut (g / 32)
          b.2.sid (r.chunks + r.ovf) d.fmt d.mx 0 (s.stagedBlks g d)
      else s0.stage b.2.sid (cutChunks 0 (s.stagedBytes g d) (s.stagedBad g d))

/-- The chunks of a staged stream that the plan step which starts sends: those whose place a hop from its origin has. -/
def sentChunks (m : List Byte) (p : PlanTick) (sid : Nat) (l : List Chunk) : List Chunk :=
  (List.range l.length).filterMap fun j =>
    let recs := (slotsAt m p.var p.step).filter fun r => !r.recv && r.sid = sid && 0x40 ≤ r.inp && r.inp ≤ 0x5F
    if recs.any fun r => j < (runTimes (recs.filter fun x => x.inp = r.inp && x.out = r.out)).length then l[j]? else none

/-- Chunks that tiles send with POISON set count in their POISON_OUT as they leave (R252); `p` is the plan state whose bodies staged
them. -/
def State.countOut (s : State) (p : PlanTick) : State :=
  match s.imageOf s.planTick with
  | none => s
  | some m => s.sched.outbox.foldl (fun t x =>
      let n := ((sentChunks m s.planTick x.1 x.2).filter Chunk.poison).length
      ((s.bodyTiles p).filter fun g => match s.bodyOf p g with
        | some b => (modBinds b.2.2).any fun y => y.2.sid = x.1 && y.2.dir = 1
        | none => false).foldl (fun t g => t.poisonOut g n) t) s

/-! ## Writes to instruction memory (R250, R251) -/

/-- The memory space of native code: two banks of 64 KiB for each tile (R228). -/
def spCode : Nat := 4

/-- PREFETCH_BUSY. -/
def State.prefetchBusy (s : State) (g : Nat) : Bool := (s.tile g).copy.isSome

/-- The status of a write to IMEM_WDATA (R250): BUS_ERR, PERM or OK. -/
def State.imemStatus (s : State) (g : Nat) (lantern : Bool) : Nat :=
  if !lantern then 0x06
  else if s.rd (pgTile g) Til.IMEM_WBANK = s.rd (pgTile g) Til.FETCH_BANK || s.prefetchBusy g then 0x08
  else 0

/-- A write to IMEM_WDATA: stored with IMEM_WADDR advanced, or refused. A word written to the shadow leaves no body in it. -/
def State.imemWrite (s : State) (g : Nat) (lantern : Bool) (v : Nat) : State :=
  let p := pgTile g
  match s.imemStatus g lantern with
  | 0 =>
    let a := s.rd p Til.IMEM_WADDR
    let s1 := s.poke spCode (g * 2 ^ 17 + s.rd p Til.IMEM_WBANK * 2 ^ 16 + a / 4 * 4) (leBytes 4 v)
    (s1.put p Til.IMEM_WADDR 0 (a + 4)).setTile g { s1.tile g with shadow := none }
  | 6 => s
  | _ => s.err p 6

/-- A write to IMEM_WDATA performed: its writer receives the status (R250). -/
def State.imemPerform (s : State) (g : Nat) (lantern : Bool) (v : Nat) : State :=
  (s.imemWrite g lantern v).emit (.value (s.imemStatus g lantern))

/-- IMEM_WADDR or IMEM_WDATA. -/
def imemReg (off : Nat) : Bool := off = 0x1B0 || off = 0x1B4

/-- A write of the Lantern to one of these waits while a body runs (R251). -/
def State.imemHeld (s : State) (p : PageId) (off : Nat) (lantern : Bool) : Bool :=
  lantern && p.ty = tyTile && imemReg off && (s.tile p.inst).running

/-- It is put behind those that wait already. -/
def State.imemHold (s : State) (g off v : Nat) : State := s.setTile g { s.tile g with imem := (s.tile g).imem ++ [(off, v)] }

/-- A write that waited: the address, or a word, whose writer receives the status. -/
def State.imemTurn (s : State) (g : Nat) (x : Nat × Nat) : State :=
  let p := pgTile g
  if x.1 = 0x1B4 then s.imemPerform g true x.2 else (s.put p Til.IMEM_WADDR 0 x.2).put p Til.IMEM_WBANK 0 (bits x.2 16 1)

/-- The writes that waited for the body's end are performed, in order (R251). -/
def State.imemRelease (s : State) (g : Nat) : State :=
  (s.tile g).imem.foldl (fun t x => t.imemTurn g x) (s.setTile g { s.tile g with imem := [] })

/-- IMEM_WDATA_WRITE (R250, R251): a write of the Lantern waits while the body runs. -/
def execImemWdataWrite (g : Nat) (lantern : Bool) (v : Nat) (s : State) : Host.Outcome State Fault Refusal :=
  .next (if s.imemHeld (pgTile g) 0x1B4 lantern then s.imemHold g 0x1B4 v else s.imemPerform g lantern v)

/-! ## Completion and abandonment (R230, R248, R251, R254) -/

/-- Every instruction of the body is complete. -/
def State.bodyAllDone (s : State) (g : Nat) : Bool :=
  let t := s.tile g
  match t.body with
  | some m => t.running && (List.range (modNinsn m)).all t.done.contains
  | none => false

/-- The body completes. -/
def State.bodyComplete (s : State) (g : Nat) : State :=
  match (s.tile g).body with
  | none => s
  | some m =>
    let s1 := ((modBinds m).filter fun b => b.2.dir = 1).foldl (fun t b => t.sendOut g m b) s
    let s2 := (s1.wr (pgTile g) Til.LAST_CC (min (s.clock - (s.tile g).start) 0xFFFF)).wr (pgTile g) Til.STATE 0
    ((s2.spotLoad g).setTile g { s2.tile g with body := none, engine := none }).imemRelease g

/-- TICK_BODY_COMPLETE (R230). -/
def execTickBodyComplete (g : Nat) (s : State) : Host.Outcome State Fault Refusal :=
  .next (if s.planTick.runs && s.bodyAllDone g then s.bodyComplete g else s)

/-- The setter of a flag: the lowest queue whose earliest FLAG.SET of it has not taken effect (R248). -/
def setterOf (t : Tile) (m : List Byte) (f : Nat) : Option (Nat × Nat) :=
  (List.range 4).findSome? fun q =>
    ((modInsns m).find? fun y => y.2.q = q && y.2.op = opSet && y.2.flag = f && !t.done.contains y.1).map fun y => (q, y.1)

/-- The FW record, filled while FW_VALID is clear (R248). -/
def State.fwRecord (s : State) (g : Nat) (m : List Byte) : State :=
  let p := pgTile g
  let t := s.tile g
  if s.rdb p Til.FW_VALID then s.again p Til.FW_VALID
  else
    let s1 := (List.range 4).foldl (fun (u : State) q =>
      match t.waits.find? fun w => w.q = q with
      | none => (((u.wri p Til.FW_WAIT q 0).wri p Til.FW_FLAG q 0).wri p Til.FW_HAVE q 0).wri p Til.FW_NEED q 0
          |> fun v => (((v.wri p Til.FW_INSN q 0).wri p Til.FW_SETQ q 0).wri p Til.FW_SET_INSN q 0).wri p Til.FW_SETV q 0
      | some w =>
        let st := setterOf t m w.flag
        (((u.wri p Til.FW_WAIT q 1).wri p Til.FW_FLAG q w.flag).wri p Til.FW_HAVE q (t.flag w.flag)).wri p Til.FW_NEED q w.need
          |> fun v => (((v.wri p Til.FW_INSN q w.insn).wri p Til.FW_SETQ q ((st.map (·.1)).getD 0)).wri p Til.FW_SET_INSN q
            ((st.map (·.2)).getD 0)).wri p Til.FW_SETV q (b2n st.isSome)) s
    s1.wrs p [(Til.FW_TICK_LO, s.now % 2 ^ 32), (Til.FW_TICK_HI, s.now / 2 ^ 32), (Til.FW_VALID, 1)]

/-- The body of the ending tick is abandoned: an overrun with cause FLAGWAIT when a queue is blocked in a wait, else WORK;
tile store and registers stay (R248, R254). -/
def State.bodyAbandon (s : State) (g : Nat) : State :=
  match (s.tile g).body with
  | none => s
  | some m =>
    let w := (s.tile g).waits
    let mask := sumL ((List.range 4).map fun q => if w.any (fun x => x.q = q) then 2 ^ q else 0)
    let s1 := if w.isEmpty then s.overrun tyTile g 1 0 else ((s.overrun tyTile g 4 mask).fwRecord g m).err (pgTile g) 0
    (((s1.err (pgTile g) 4).wr (pgTile g) Til.STATE 2).spotLoad g).setTile g
      { s1.tile g with body := none, late := false, engine := none }

/-- A service body runs in a tick without a plan body (R231): the Lantern has brought its code, and only a tile in a service mode
runs it. Which ticks it takes is the firmware's, so an open value says it; its native code has no stated effect (log 160). -/
def State.serviceStart (s : State) (g : Nat) : State :=
  if s.svc (.tile g) ≠ 0 && (s.bodyOf s.planTick g).isNone && s.rdb (pgTile g) Hdr.EN
      && Config.openValue [160, s.now, g] % 2 = 1 then
    (s.setTile g (s.tile g)).wr (pgTile g) Til.STATE 3
  else s

/-- Service bodies of the tick that begins: only while the module tests itself or is in test mode (R158). -/
def State.serviceBodies (s : State) : State :=
  if s.rdb pgFinial Fin.TEST_ACTIVE || s.rd pgLantern Boo.BOOT_PHASE = 5 then (List.range 256).foldl State.serviceStart s else s

/-- The end of a tile's tick (R251): its body completes or is abandoned, and the flags clear. -/
def State.tileEnd (s : State) (g : Nat) : State :=
  let had := (s.tile g).body.isSome
  let s1 := if s.bodyAllDone g then s.bodyComplete g else s.bodyAbandon g
  let s2 := if had then s1 else s1.wr (pgTile g) Til.STATE 0
  (s2.setTile g { s2.tile g with done := [], waits := [], flags := [], signalled := [] }).imemRelease g

/-! ## Prefetch (R249) -/

/-- The translator version in force (Table 19.5). -/
def State.xlatorVer (s : State) : Nat := s.rd pgLantern Lan.XLATOR_VER

/-- L of R255: the largest consumption offset among the chunks of a body's in-streams. -/
def landBound (m : List Byte) (var prev : Nat) (mod : List Byte) : Nat :=
  ((modBinds mod).flatMap fun b =>
    if b.2.dir = 0 then
      ((slotsAt m var prev).filter fun r => r.recv && r.sid = b.2.sid).flatMap fun r =>
        (List.range r.count).map fun k => flitOffset r.out (r.ft + k)
    else []).foldl max 0

/-- The bound B of a body in a step and variant (R255). -/
def bodyBound (m : List Byte) (var step : Nat) (mod : List Byte) : Nat :=
  64 + ((prevSteps m step).map fun p => landBound m var p mod).foldl max 0 + sumL ((modInsns mod).map fun x => x.2.cost mod)

/-- The body begins to run: its registers, and the clock of its first instruction. -/
def State.bodyIssue (s : State) (g : Nat) : State :=
  let t := s.tile g
  match t.body with
  | none => s
  | some mod =>
    let m := ((s.bank t.bank).map Bank.image).getD []
    let p := pgTile g
    let s1 := s.wrs p [(Til.STATE, 1), (Til.BODY_OFF, t.off), (Til.BOUND, bodyBound m s.varCur s.stepIdx mod),
      (Til.XLATE_VER, s.xlatorVer)]
    s1.setTile g ({ t with late := false, start := s.clock + (1 - s.offset) } : Tile).callStart

/-- The banks swap: the shadow becomes the fetch bank. -/
def State.bankSwap (s : State) (g : Nat) : State :=
  let t := s.tile g
  (s.wr (pgTile g) Til.FETCH_BANK (1 - s.rd (pgTile g) Til.FETCH_BANK)).setTile g { t with fetch := t.shadow, shadow := t.fetch }

/-- The prefetcher turns to the body of the next plan step: it copies it unless the shadow holds it or the copy runs. A copy
overwrites what the shadow held. -/
def State.prefetch (s : State) (g : Nat) : State :=
  let t := s.tile g
  if t.late then s
  else match s.bodyOf (s.planAt s.nextTick) g with
    | none => if t.copy.isNone then s else s.setTile g { t with copy := none }
    | some b =>
      if t.shadow = some b.2.2 then (if t.copy.isNone then s else s.setTile g { t with copy := none })
      else if t.copy = some b.2.2 then s
      else s.setTile g { t with shadow := none, copy := some b.2.2, copyAt := s.clock }

/-- Tiles that have run or fetched something, or that the next plan step gives a body. -/
def State.tilesKnown (s : State) : List Nat :=
  (s.tiles.map (·.1) ++ s.bodyTiles (s.planAt s.nextTick)).eraseDups

/-- The prefetcher of every tile (R249): at each boundary, and when an arming changes what comes next. -/
def State.prefetchAll (s : State) : State := s.tilesKnown.foldl (fun t g => t.prefetch g) s

/-- The body of the tick that has begun is taken by a tile: it starts at offset 1 when its code is in the shadow, else when
its copy finishes. A tile whose page has EN clear starts nothing (R403). -/
def State.tileStart (s : State) (g : Nat) : State :=
  match s.bodyOf s.planTick g with
  | none => s
  | some b =>
    let t := s.tile g
    let t1 := { t with body := some b.2.2, bank := b.1, off := b.2.1 }
    if !s.rdb (pgTile g) Hdr.EN then s.setTile g t1
    else
      let s1 := s.spotSample g b.2.2
      if t.shadow = some b.2.2 then ((s1.setTile g t1).bankSwap g).bodyIssue g
      else if t.copy = some b.2.2 then s1.setTile g { t1 with late := true }
      else s1.setTile g { t1 with late := true, shadow := none, copy := some b.2.2, copyAt := s.clock }

/-- The clock is in the guard interval of the plan in force, or past the tick: no unit starts plan work (R37). -/
def State.inGuard (s : State) : Bool :=
  match s.image with
  | some m => imgWindow m ≤ s.offset
  | none => false

/-- A copy finishes: the shadow holds it. A late body then starts, unless the work window has passed, and the prefetcher turns to
the next one (R37, R249). -/
def State.prefetchDone (s : State) (g : Nat) : State :=
  let t := s.tile g
  match t.copy with
  | none => s
  | some m =>
    let s1 := s.setTile g { t with shadow := some m, copy := none }
    if t.late then
      let s2 := (s1.bump (pgTile g) Til.PREFETCH_LATE).err (pgTile g) 5
      if s.inGuard then s2 else ((s2.bankSwap g).bodyIssue g).prefetch g
    else s1

/-- PREFETCH_COMPLETE (R249). -/
def execPrefetchComplete (g : Nat) (s : State) : Host.Outcome State Fault Refusal := .next (s.prefetchDone g)

/-- A copy takes at most 1,024 cc (R249): one that began as long ago is complete. -/
def State.prefetchDue (s : State) (g : Nat) : State :=
  let t := s.tile g
  if t.copy.isSome && t.copyAt + 1024 ≤ s.clock then s.prefetchDone g else s

/-! ## Commands -/

/-- An instruction with a data effect: the bytes of HBM that it shares with another queue without an order are open before it and
after it. -/
def State.dataInsn (s : State) (g i op : Nat) : State :=
  s.insnRun g i op fun t c => (((t.raceOpen c).insnData c).raceOpen c).spotCapture c

/-- A fence completes once nothing holds it back (R243). -/
def State.fence (s : State) (g i op : Nat) : State := s.insnRun g i op fun s _ => s

/-- BILLIN_COPY (R238). -/
def execBillinCopy (g i : Nat) (s : State) : Host.Outcome State Fault Refusal := .next (s.dataInsn g i 0x01)
/-- FILL (Table 09.5). -/
def execFill (g i : Nat) (s : State) : Host.Outcome State Fault Refusal := .next (s.dataInsn g i 0x02)
/-- GATHER (R241). -/
def execGather (g i : Nat) (s : State) : Host.Outcome State Fault Refusal := .next (s.dataInsn g i 0x03)
/-- SCATTER (R241). -/
def execScatter (g i : Nat) (s : State) : Host.Outcome State Fault Refusal := .next (s.dataInsn g i 0x04)
/-- BILLIN_MMA (R239). -/
def execBillinMma (g i : Nat) (s : State) : Host.Outcome State Fault Refusal := .next (s.dataInsn g i 0x10)
/-- ADD (R238). -/
def execAdd (g i : Nat) (s : State) : Host.Outcome State Fault Refusal := .next (s.dataInsn g i 0x11)
/-- SUB (R238). -/
def execSub (g i : Nat) (s : State) : Host.Outcome State Fault Refusal := .next (s.dataInsn g i 0x12)
/-- MUL (R238). -/
def execMul (g i : Nat) (s : State) : Host.Outcome State Fault Refusal := .next (s.dataInsn g i 0x13)
/-- FMA (R238). -/
def execFma (g i : Nat) (s : State) : Host.Outcome State Fault Refusal := .next (s.dataInsn g i 0x14)
/-- MAX (R156). -/
def execMax (g i : Nat) (s : State) : Host.Outcome State Fault Refusal := .next (s.dataInsn g i 0x15)
/-- MIN (R156). -/
def execMin (g i : Nat) (s : State) : Host.Outcome State Fault Refusal := .next (s.dataInsn g i 0x16)
/-- DIV (R238). -/
def execDiv (g i : Nat) (s : State) : Host.Outcome State Fault Refusal := .next (s.dataInsn g i 0x17)
/-- SQRT (R238). -/
def execSqrt (g i : Nat) (s : State) : Host.Outcome State Fault Refusal := .next (s.dataInsn g i 0x18)
/-- EXP2 (R238). -/
def execExp2 (g i : Nat) (s : State) : Host.Outcome State Fault Refusal := .next (s.dataInsn g i 0x19)
/-- SIGN (R156). -/
def execSign (g i : Nat) (s : State) : Host.Outcome State Fault Refusal := .next (s.dataInsn g i 0x1A)
/-- ABS (Table 09.5). -/
def execAbs (g i : Nat) (s : State) : Host.Outcome State Fault Refusal := .next (s.dataInsn g i 0x1B)
/-- RSUM (R239). -/
def execRsum (g i : Nat) (s : State) : Host.Outcome State Fault Refusal := .next (s.dataInsn g i 0x20)
/-- RMAX (R239). -/
def execRmax (g i : Nat) (s : State) : Host.Outcome State Fault Refusal := .next (s.dataInsn g i 0x21)
/-- RMIN (R239). -/
def execRmin (g i : Nat) (s : State) : Host.Outcome State Fault Refusal := .next (s.dataInsn g i 0x22)
/-- FENCE_ACQ (R243). -/
def execFenceAcq (g i : Nat) (s : State) : Host.Outcome State Fault Refusal := .next (s.fence g i opAcq)
/-- FENCE_REL (R243). -/
def execFenceRel (g i : Nat) (s : State) : Host.Outcome State Fault Refusal := .next (s.fence g i opRel)
/-- FENCE_FULL (R243). -/
def execFenceFull (g i : Nat) (s : State) : Host.Outcome State Fault Refusal := .next (s.fence g i opFull)
/-- FLAG_SET (R244). -/
def execFlagSet (g i : Nat) (s : State) : Host.Outcome State Fault Refusal := .next (s.flagSet g i)
/-- FLAG_WAIT (R244). -/
def execFlagWait (g i : Nat) (s : State) : Host.Outcome State Fault Refusal := .next (s.flagWait g i)
/-- FLAG_WAITV (R241). -/
def execFlagWaitv (g i : Nat) (s : State) : Host.Outcome State Fault Refusal := .next (s.flagWaitv g i)
/-- FLAG_WAIT_DONE (R244). -/
def execFlagWaitDone (g q : Nat) (s : State) : Host.Outcome State Fault Refusal :=
  .next (if (s.tile g).running && s.planTick.runs then s.waitDone g q else s)

end Sys2Proof.Machine
end

