-- ==== Sys2Proof/Machine/Library.lean ====
section
/-! DEFINITION. The resident library: the eight routines that a tick body reaches through CALL (R258–R272). -/

namespace Sys2Proof.Machine

open Sys2Proof

/-! ## What the routines share -/

/-- A row of plain values at a row of D, as results: encodings of D's format with one poison mark. -/
def bitsRow (i : Nat) (bad : Bool) (l : List Nat) : TRow := { idx := i, els := l.map fun x => (x, bad), scales := [] }

/-- SATURATE of the tile a call runs on. -/
def State.icSat (s : State) (c : ICtx) : Bool := s.sat (.tile c.g)

/-- A value rounded to a format by RNE, with its range clip. -/
def rne (f : Nat) (sat : Bool) (v : Val) : Val × Fx := let r := roundTo f .rne sat v; (r.1, Fx.clip r.2)

/-- A NaN event of element `e`, term `k`, in FP32 values. -/
def evF (cause e k : Nat) (a b : Val) : Fx :=
  Fx.nan cause fFP32 fFP32 e k (conv fFP32 .rne false a).enc (conv fFP32 .rne false b).enc

/-- The NAN_IN event of an element read. -/
def nanRead (x : TEl) (e k : Nat) : Fx := Fx.nan (if x.val.isNan then 3 else 0) x.fmt 0x0F e k x.enc 0

/-- Effects recorded and rows of encodings written to D. -/
def State.libWrite (s : State) (c : ICtx) (fx : Fx) (rows : List TRow) : State :=
  (s.arith (.tile c.g) c.i fx).tileWrite c.g c.dd rows

/-- A row is poisoned when an element of it is. -/
def rowBad (l : List TEl) : Bool := l.any TEl.bad

/-! ## SORT and TOPK (R261–R263) -/

/-- Records of a row; a 16-bit key lies in bits [15:0]. -/
def recsOfRow (f : Nat) (l : List TEl) : List Rec :=
  (List.range (l.length / 2)).map fun r =>
    { key := (((l[2 * r]?).map TEl.enc).getD 0) % 2 ^ fmtBits f, value := ((l[2 * r + 1]?).map TEl.enc).getD 0, bad := false }

/-- A stable sort in the order of R188. -/
def sortRecs (f : Nat) (descend : Bool) (l : List Rec) : List Rec := l.mergeSort fun a b => !recBefore f descend b a

/-- SORT: each row of A arranged by its keys. -/
def State.libSort (s : State) (c : ICtx) : State :=
  let f := c.x.imm1 % 16
  let rows := (List.range c.dd.rows).map fun i =>
    let l := s.trow c.g c.da i
    bitsRow i (rowBad l) ((sortRecs f (bit c.x.imm1 8) (recsOfRow f l)).flatMap fun r => [r.key, r.value])
  (s.icRead c [some c.da]).libWrite c Fx.none rows

/-- TOPK: columns of the K first values of each row, and the values themselves in B. -/
def State.libTopk (s : State) (c : ICtx) : State :=
  let k := c.x.imm1 % 2 ^ 16
  let f := c.da.fmt
  let rows := (List.range c.dd.rows).map fun i =>
    let l := s.trow c.g c.da i
    let recs := (List.range l.length).map fun j => ({ key := ((l[j]?).map TEl.enc).getD 0, value := j, bad := false } : Rec)
    (i, rowBad l, (sortRecs f (bit c.x.imm1 16) recs).take k)
  let s1 := (s.icRead c [some c.da]).libWrite c Fx.none (rows.map fun r => bitsRow r.1 r.2.1 (r.2.2.map Rec.value))
  match opDesc c.m c.x.b with
  | some d => s1.tileWrite c.g d (rows.map fun r => bitsRow r.1 r.2.1 (r.2.2.map Rec.key))
  | none => s1

/-! ## SOFTMAX (R264) -/

/-- One row of SOFTMAX: values of D before their rounding, and effects. `e0`: index of its first element. -/
def softmaxRow (sat : Bool) (scale : Nat) (e0 : Nat) (l : List TEl) : List TVal × Fx :=
  let sc := decodeVal fFP32 scale
  let n := l.length
  let xs := (List.range n).map fun j =>
    match l[j]? with
    | some a =>
      let p := mulVal a.val sc
      let r := rne fFP32 sat p.1
      let cause := if a.val.isNan || sc.isNan then 3 else p.2
      (r.1, (Fx.nan cause a.fmt fFP32 (e0 + j) j a.enc scale).add r.2)
    | none => (Val.zero, Fx.none)
  let fx0 := (xs.map (·.2)).foldl Fx.add Fx.none
  let m := (xs.map (·.1)).foldl maxVal (.inf true)
  let bad := rowBad l
  if m = .inf true then ((List.range n).map fun _ => TVal.inner Val.zero bad, fx0)
  else
    let ps := (List.range n).map fun j =>
      let x := (xs.map (·.1)).getD j .nan
      let d := addVal x m.neg
      let r := rne fFP32 sat d.1
      let p := rne fFP32 sat (exp2Val r.1)
      (p.1, ((evF d.2 (e0 + j) j x m).add r.2).add p.2)
    let fx1 := (ps.map (·.2)).foldl Fx.add Fx.none
    let blks := (blocks32 (ps.map (·.1))).map fun b => ({ terms := b.map some, scale := 0, nan := false } : Terms)
    let sum := dotBlocks fSPW96 .rne false e0 0 blks none
    let lr := rne fFP32 sat (sum.1.getD .zero)
    let out := (List.range n).map fun j =>
      let p := (ps.map (·.1)).getD j .nan
      let q := divVal p lr.1
      (TVal.inner q.1 bad, evF q.2 (e0 + j) j p lr.1)
    (out.map (·.1), ((((fx0.add fx1).add sum.2).add lr.2)).add ((out.map (·.2)).foldl Fx.add Fx.none))

/-- Rows of values rounded to D by RNE and written. -/
def State.libRound (s : State) (c : ICtx) (pre : Fx) (rows : List (Nat × List TVal)) : State :=
  let r := rows.map fun x => convRow c.dd (fun _ => .rne) (s.icSat c) false x.1 x.2
  s.libWrite c ((r.map (·.2)).foldl Fx.add pre) (r.map (·.1))

/-- SOFTMAX. -/
def State.libSoftmax (s : State) (c : ICtx) : State :=
  let rows := (List.range c.dd.rows).map fun i =>
    (i, softmaxRow (s.icSat c) c.x.imm1 (i * c.dd.cols) (s.trow c.g c.da i))
  (s.icRead c [some c.da]).libRound c ((rows.map (·.2.2)).foldl Fx.add Fx.none) (rows.map fun r => (r.1, r.2.1))

/-! ## ATTN_PARTIAL (R265, R266) -/

/-- The argument block (Table 10.2). -/
structure AttnArg where
  scale : Nat
  qTok : Nat
  kTok : Nat
  word : Nat
  deriving DecidableEq, Repr

def AttnArg.mask (a : AttnArg) : Nat := a.word % 4
def AttnArg.win (a : AttnArg) : Nat := a.word / 256

/-- The argument block of a call. -/
def State.attnArg (s : State) (c : ICtx) : AttnArg :=
  let o := c.g * 2 ^ 21 + c.x.imm1
  { scale := s.planPeekN spTile o 4, qTok := s.planPeekN spTile (o + 4) 4, kTok := s.planPeekN spTile (o + 8) 4,
    word := s.planPeekN spTile (o + 12) 4 }

/-- A fault of kind ARG: a reserved MASK, a reserved bit, or WIN 0 under MASK 2. -/
def AttnArg.bad (a : AttnArg) : Bool := a.mask = 3 || a.word / 4 % 64 ≠ 0 || (a.mask = 2 && a.win = 0)

/-- Token indices of query row i and key row j. -/
def AttnArg.q (a : AttnArg) (i : Nat) : Nat := (a.qTok + i) % 2 ^ 32
def AttnArg.k (a : AttnArg) (j : Nat) : Nat := (a.kTok + j) % 2 ^ 32

/-- Key row j is live for query row i. -/
def AttnArg.live (a : AttnArg) (i j : Nat) : Bool :=
  let q := a.q i
  let k := a.k j
  q < 2 ^ 24 && k < 2 ^ 24 && !((a.mask = 1 || a.mask = 2) && q < k) && !(a.mask = 2 && k + a.win ≤ q)

/-- The score of a live pair: the dot product in an SPW96 accumulator, scaled and rounded once to FP32. -/
def attnScore (sat : Bool) (scale e j : Nat) (qf kf : Nat) (q k : List TEl) : Val × Fx :=
  let d : Option Val × Fx :=
    if isInt qf && isInt kf then (some (Val.ofInt (dotInts 0 q k)), Fx.none) else dotRows fSPW96 .rne false e none q k
  let dv := d.1.getD .zero
  let sc := decodeVal fFP32 scale
  let p := mulVal dv sc
  let r := rne fFP32 sat p.1
  let cause := if sc.isNan then 3 else p.2
  let ev : Fx := { d.2 with nans := d.2.nans.map fun x => { x with term := j } }
  (r.1, (ev.add (Fx.nan cause fSPW96 fFP32 e j (spwEnc dv) scale)).add r.2)

/-- Terms of a list that may be absent, in blocks. -/
def termBlocks (l : List (Option Val)) : List Terms :=
  (blocks32 l).map fun b => { terms := b, scale := 0, nan := false }

/-- The partial row of a query row: m, l, o, and effects. `sc j`: the score of live key row j. -/
def attnRow (sat : Bool) (vf dv e0 n : Nat) (live : Nat → Bool) (sc : Nat → Val) (v : Nat → Nat → TEl) : List Val × Fx :=
  let js := (List.range n).filter live
  let m := js.foldl (fun a j => maxVal a (sc j)) (.inf true)
  if m = .inf true then (.inf true :: List.replicate (dv + 1) Val.zero, Fx.none)
  else
    let ps := (List.range n).map fun j =>
      if live j then
        let d := addVal (sc j) m.neg
        let r := rne fFP32 sat d.1
        let p := rne vf sat (exp2Val r.1)
        (some p.1, ((evF d.2 e0 j (sc j) m).add r.2).add p.2)
      else ((none : Option Val), Fx.none)
    let fx := (ps.map (·.2)).foldl Fx.add Fx.none
    let sum := dotBlocks fSPW96 .rne false (e0 + 1) 0 (termBlocks (ps.map (·.1))) none
    let l := rne fFP32 sat (sum.1.getD .zero)
    let o := (List.range dv).map fun c =>
      let e := e0 + 2 + c
      let t := (List.range n).map fun j =>
        match ps.getD j (none, Fx.none) with
        | (some p, _) =>
          let x := v j c
          let pe : TEl := { enc := (conv vf .rne false p).enc, fmt := vf, raw := p, sc := 127, bad := false, absent := false }
          if p.isNan && !x.val.isNan then (some Val.nan, Fx.none) else mulTerm e j pe x
        | (none, _) => (none, Fx.none)
      let d := dotBlocks fSPW96 .rne false e 0 (termBlocks (t.map (·.1))) none
      let r := rne fFP32 sat (d.1.getD .zero)
      (r.1, (((t.map (·.2)).foldl Fx.add Fx.none).add d.2).add r.2)
    (m :: l.1 :: o.map (·.1), ((fx.add sum.2).add l.2).add ((o.map (·.2)).foldl Fx.add Fx.none))

/-- FP32 encodings of a row. -/
def fp32Row (l : List Val) : List Nat := l.map fun v => (conv fFP32 .rne false v).enc

/-- An empty row of ATTN_PARTIAL: −∞ and zeros. -/
def emptyRow (dv : Nat) : List Nat := fp32Row (.inf true :: List.replicate (dv + 1) Val.zero)

/-- TOKEN faults of query and key rows (Table 10.3). -/
def tokenFaults (a : AttnArg) (m n : Nat) : List (Nat × Nat) :=
  ((filterRange m fun i => 2 ^ 24 ≤ a.q i).map fun i => (i, a.q i))
    ++ ((filterRange n fun j => 2 ^ 24 ≤ a.k j).map fun j => (0x80000000 + j, a.k j))

/-- ATTN_PARTIAL. -/
def State.libAttnPartial (s : State) (c : ICtx) : State :=
  let a := s.attnArg c
  let o := c.g * 2 ^ 21 + c.x.imm1
  let abad := s.badAt spTile o 16
  let sat := s.icSat c
  let dv := c.dc.cols
  let s0 := s.tileTouch c.g (spTile, o, 16)
  if a.bad then
    (s0.tileBound c.g 8 c.i 12 a.word).libWrite c Fx.none
      ((List.range c.dd.rows).map fun i => bitsRow i (abad || rowBad (s.trow c.g c.da i)) (emptyRow dv))
  else
    let q := (List.range c.da.rows).map (s.trow c.g c.da)
    let k := (List.range c.db.rows).map (s.trow c.g c.db)
    let v := (List.range c.dc.rows).map (s.trow c.g c.dc)
    let rows := (List.range c.da.rows).map fun i =>
      let e0 := i * c.dd.cols
      let sc := (List.range k.length).map fun j =>
        if a.live i j then attnScore sat a.scale e0 j c.da.fmt c.db.fmt (q.getD i []) (k.getD j []) else (Val.zero, Fx.none)
      let r := attnRow sat c.dc.fmt dv e0 k.length (a.live i) (fun j => (sc.getD j (.zero, Fx.none)).1)
        (fun j col => (((v.getD j [])[col]?).getD (absentEl c.dc 127)))
      let bad := abad || rowBad (q.getD i []) ||
        ((List.range k.length).any fun j => a.live i j && (rowBad (k.getD j []) || rowBad (v.getD j [])))
      (bitsRow i bad (fp32Row r.1), ((sc.map (·.2)).foldl Fx.add Fx.none).add r.2)
    let s1 := (tokenFaults a c.da.rows c.db.rows).foldl (fun t x => t.tileBound c.g 7 c.i x.1 x.2) s0
    (s1.icRead c [some c.da, some c.db, some c.dc]).libWrite c ((rows.map (·.2)).foldl Fx.add Fx.none) (rows.map (·.1))

/-! ## ATTN_MERGE (R267) -/

/-- A partial of a row of FP32 elements. -/
def partialOf (l : List TEl) : Row :=
  let v := l.map TEl.val
  { m := v.headD .zero, l := (v.drop 1).headD .zero, o := v.drop 2, bad := rowBad l }

/-- One row of ATTN_MERGE: values of D, and effects. -/
def mergeRow (norm : Bool) (e0 : Nat) (a : List TEl) (b : Option (List TEl)) : List TVal × Fx :=
  let fxIn (l : List TEl) : Fx := (List.range l.length).foldl (fun fx j =>
    match l[j]? with
    | some x => fx.add (nanRead x (e0 + (if norm then j - 2 else j)) noTerm)
    | none => fx) Fx.none
  let ra := partialOf a
  let r : Row × Fx :=
    match b with
    | some l =>
      let x := attnCombine [] (fun j => e0 + (if norm then j - 2 else j)) noTerm ra (partialOf l)
      (x.1, ((fxIn a).add (fxIn l)).add x.2)
    | none => (ra, fxIn a)
  if norm then
    let q := (List.range r.1.o.length).map fun c =>
      let v := r.1.o.getD c .zero
      let x := if r.1.l.isZero then (Val.zero, 0) else divVal v r.1.l
      (TVal.inner x.1 r.1.bad, Fx.nan x.2 fSPW96 fSPW96 (e0 + c) noTerm (spwEnc v) (spwEnc r.1.l))
    (q.map (·.1), r.2.add ((q.map (·.2)).foldl Fx.add Fx.none))
  else ((r.1.m :: r.1.l :: r.1.o).map fun v => TVal.inner v r.1.bad, r.2)

/-- ATTN_MERGE. -/
def State.libAttnMerge (s : State) (c : ICtx) : State :=
  let norm := bit c.x.imm1 0
  let b := opDesc c.m c.x.b
  let rows := (List.range c.dd.rows).map fun i =>
    (i, mergeRow norm (i * c.dd.cols) (s.trow c.g c.da i) (b.map fun d => s.trow c.g d i))
  (s.icRead c [some c.da, b]).libRound c ((rows.map (·.2.2)).foldl Fx.add Fx.none) (rows.map fun r => (r.1, r.2.1))

/-! ## SCAN (R268) -/

/-- One row of SCAN from column `j` on: the running value, its poison, and the values of D. -/
def scanRow (red : Nat) (excl : Bool) (e0 : Nat) : Nat → CV → List TEl → List TVal × Fx
  | _, _, [] => ([], Fx.none)
  | j, acc, x :: l =>
    let r := combine [] red (e0 + j) j acc (x.val, x.bad)
    let y := scanRow red excl e0 (j + 1) r.1 l
    let here := if excl then acc else r.1
    (TVal.inner here.1 here.2 :: y.1, ((nanRead x (e0 + j) j).add r.2).add y.2)

/-- SCAN. -/
def State.libScan (s : State) (c : ICtx) : State :=
  let red := c.x.imm1 % 4
  let rows := (List.range c.dd.rows).map fun i =>
    (i, scanRow red (bit c.x.imm1 4) (i * c.dd.cols) 0 (scanIdentity red c.da.fmt, false) (s.trow c.g c.da i))
  (s.icRead c [some c.da]).libRound c ((rows.map (·.2.2)).foldl Fx.add Fx.none) (rows.map fun r => (r.1, r.2.1))

/-! ## HISTOGRAM (R269) -/

/-- HISTOGRAM: a count that would pass 2^31 − 1 stays there with one range clip for each count it misses. -/
def State.libHistogram (s : State) (c : ICtx) : State :=
  let nb := c.dd.cols
  let acc := bit c.x.imm1 0
  let els := (List.range c.da.rows).flatMap (s.trow c.g c.da)
  let vals := els.map fun x => toSigned 32 x.enc
  let d0 := s.trow c.g c.dd 0
  let start (b : Nat) : Int := if acc then toSigned 32 (((d0[b]?).map TEl.enc).getD 0) else 0
  let count (b : Nat) : Nat := (vals.filter fun v => decide (v = (b : Int))).length
  let top : Int := 2 ^ 31 - 1
  let sum (b : Nat) : Int := start b + count b
  let bad (b : Nat) : Bool := rowBad els || (acc && (((d0[b]?).map TEl.bad).getD false))
  let clips := sumL ((List.range nb).map fun b => (sum b - top).toNat)
  let faults := (List.range vals.length).filter fun i =>
    let v := vals.getD i 0
    v ≠ -1 && !(0 ≤ v && v < nb)
  let s1 := faults.foldl (fun t i => t.tileBound c.g 10 c.i i (ofSigned 32 (vals.getD i 0))) s
  (s1.icRead c [some c.da, if acc then some c.dd else none]).libWrite c { Fx.none with clips := clips }
    [{ idx := 0, els := (List.range nb).map fun b => (ofSigned 32 (min (sum b) top), bad b), scales := [] }]

/-! ## FILTER (R270) -/

/-- FILTER. -/
def State.libFilter (s : State) (c : ICtx) : State :=
  let ne := c.dc.cols
  let th := decodeVal fFP32 c.x.imm1
  let map := s.trow c.g c.dc 0
  let rows := (List.range c.dd.rows).map fun i =>
    let a := s.trow c.g c.da i
    let b := s.trow c.g c.db i
    { idx := i, scales := [],
      els := (List.range c.dd.cols).map fun k =>
        let x := (a[k]?).getD (absentEl c.da 127)
        let y := (b[k]?).getD (absentEl c.db 127)
        let v := toSigned 32 x.enc
        let inR : Bool := 0 ≤ v && v < ne
        let z := (map[v.toNat]?).getD (absentEl c.dc 127)
        let pass := inR && !y.val.isNan && !th.isNan && !ltVal y.val th
        ((if pass then z.enc else 2 ^ 32 - 1), x.bad || y.bad || (inR && z.bad)) : TRow }
  let all := (List.range c.da.rows).flatMap (s.trow c.g c.da)
  let faults := (List.range all.length).filter fun i =>
    let v := toSigned 32 (((all[i]?).map TEl.enc).getD 0)
    !(0 ≤ v && v < ne)
  let s1 := faults.foldl (fun t i => t.tileBound c.g 9 c.i i (((all[i]?).map TEl.enc).getD 0)) s
  (s1.icRead c [some c.da, some c.db, some c.dc]).libWrite c Fx.none rows

/-! ## Commands -/

/-- A CALL of a routine performed, when it may be (R259). -/
def State.callRun (s : State) (g i id : Nat) (f : State → ICtx → State) : State :=
  match s.insnNow g i 0x30 with
  | some c => if c.x.imm0 % 2 ^ 16 = id then (f s c).insnDone g i else s
  | none => s

/-- SORT (R262). -/
def execSort (g i : Nat) (s : State) : Host.Outcome State Fault Refusal := .next (s.callRun g i 1 State.libSort)
/-- TOPK (R263). -/
def execTopk (g i : Nat) (s : State) : Host.Outcome State Fault Refusal := .next (s.callRun g i 2 State.libTopk)
/-- SOFTMAX (R264). -/
def execSoftmax (g i : Nat) (s : State) : Host.Outcome State Fault Refusal := .next (s.callRun g i 3 State.libSoftmax)
/-- ATTN_PARTIAL (R266). -/
def execAttnPartial (g i : Nat) (s : State) : Host.Outcome State Fault Refusal :=
  .next (s.callRun g i 4 State.libAttnPartial)
/-- ATTN_MERGE (R267). -/
def execAttnMerge (g i : Nat) (s : State) : Host.Outcome State Fault Refusal := .next (s.callRun g i 5 State.libAttnMerge)
/-- LIB_SCAN (R268). -/
def execLibScan (g i : Nat) (s : State) : Host.Outcome State Fault Refusal := .next (s.callRun g i 6 State.libScan)
/-- HISTOGRAM (R269). -/
def execHistogram (g i : Nat) (s : State) : Host.Outcome State Fault Refusal := .next (s.callRun g i 7 State.libHistogram)
/-- FILTER (R270). -/
def execFilter (g i : Nat) (s : State) : Host.Outcome State Fault Refusal := .next (s.callRun g i 8 State.libFilter)

end Sys2Proof.Machine
end

