-- ==== Sys2Proof/Machine/Schedule.lean ====
section
/-! DEFINITION. The schedule engine of an update engine: the learning rate of a step (R282). -/

namespace Sys2Proof.Machine

open Sys2Proof

/-! ## cos(πq) -/

/-- Bits kept after the point. -/
def trigBits : Nat := 384

/-- arctan(1/n) with `trigBits` bits after the point: `k` terms of its series from the term with denominator `d`, `p` the
power of 1/n that the term carries. -/
def atanInv (n : Nat) : Nat → Nat → Nat → Int
  | 0, _, _ => 0
  | k + 1, d, p => (p / d : Nat) - atanInv n k (d + 2) (p / (n * n))

/-- π with `trigBits` bits after the point. -/
def piFix : Int := 16 * atanInv 5 90 1 (2 ^ trigBits / 5) - 4 * atanInv 239 40 1 (2 ^ trigBits / 239)

/-- `k` terms of the cosine series of an angle whose square is `x2`, from the term `t` that divides by `n` and `n` + 1. -/
def cosTerms (x2 : Int) : Nat → Int → Int → Int
  | 0, _, _ => 0
  | k + 1, t, n => t - cosTerms x2 k (t * x2 / 2 ^ trigBits / (n * (n + 1))) (n + 2)

/-- cos(πq) of a magnitude below 2^`trigBits`-scaled unit: q = a / 2^`trigBits`, 0 ≤ q ≤ 1/2. -/
def cosFirst (a : Nat) : Int :=
  let x := piFix * a / 2 ^ trigBits
  cosTerms (x * x / 2 ^ trigBits) 60 (2 ^ trigBits) 1

/-- cos(πq) for 0 ≤ q ≤ 1, exact at 0, 1/2 and 1 and with a sticky last bit elsewhere. -/
def cosPi (q : Val) : Val :=
  match q with
  | .fin _ m e =>
    let a := if 0 ≤ e + trigBits then m * 2 ^ (e + trigBits).toNat else m / 2 ^ (-(e + trigBits)).toNat
    let one := 2 ^ trigBits
    if m = 0 then .fin false 1 0
    else if 2 * a = one then .fin false 0 0
    else if one ≤ a then .fin true 1 0
    else
      let neg : Bool := one < 2 * a
      let c := cosFirst (if neg then one - a else a)
      .fin neg (2 * min c.toNat (one - 1) + 1) (-(trigBits : Int) - 1)
  | _ => .nan

/-! ## The learning rate -/

/-- An FP32 value on its way through the schedule, with the clips and events of forming it (R164–R166). -/
abbrev LrVal := Val × Fx

/-- fp32() of R282: rounded by RNE under the engine's SATURATE (R165). -/
def fp32 (sat : Bool) (v : Val) : LrVal := let r := roundTo fFP32 .rne sat v; (r.1, Fx.clip r.2)

/-- A step count as FP32. -/
def fp32n (sat : Bool) (n : Nat) : LrVal := fp32 sat (Val.ofInt n)

/-- An operation of two FP32 values rounded to FP32, with its own NaN event. -/
def fpOp (sat : Bool) (f : Val → Val → Val × Nat) (a b : LrVal) : LrVal :=
  let r := f a.1 b.1
  let c := fp32 sat r.1
  let enc (v : Val) : Nat := (conv fFP32 .rne false v).enc
  (c.1, ((a.2.add b.2).add (Fx.nan r.2 fFP32 fFP32 0 noTerm (enc a.1) (enc b.1))).add c.2)

/-- A quotient rounded to FP32. -/
def fpDiv (sat : Bool) (a b : LrVal) : LrVal := fpOp sat divVal a b

/-- A product rounded to FP32. -/
def fpMul (sat : Bool) (a b : LrVal) : LrVal := fpOp sat mulVal a b

/-- A sum rounded to FP32. -/
def fpAdd (sat : Bool) (a b : LrVal) : LrVal := fpOp sat addVal a b

/-- A value without effects. -/
def lrExact (v : Val) : LrVal := (v, Fx.none)

/-- The negative of a value. -/
def LrVal.neg (a : LrVal) : LrVal := (a.1.neg, a.2)

/-- A function of one value, rounded to FP32. -/
def fpFun (sat : Bool) (f : Val → Val) (a : LrVal) : LrVal := let c := fp32 sat (f a.1); (c.1, a.2.add c.2)

/-- A register of the schedule read as FP32; a NaN there is a NAN_IN event (R166). -/
def lrReg (enc : Nat) : LrVal :=
  let v := decodeVal fFP32 enc
  (v, Fx.nan (if v.isNan then 3 else 0) fFP32 0x0F 0 noTerm enc 0)

/-- The settings of Table 11.7 that a run reads at its first step. -/
structure LrSet where
  base : Nat
  peak : Nat
  fin : Nat
  warm : Nat
  decay : Nat
  mult : Nat
  len : Nat
  period : Nat
  deriving DecidableEq, Repr

/-- The restart cycle that holds a count: the count within it and its length. The length at least doubles, so 64 cycles
reach 2^48 − 1. -/
def restart (mult : Nat) : Nat → Nat → Nat → Nat × Nat
  | 0, tau, len => (tau, len)
  | n + 1, tau, len => if len ≤ tau then restart mult n (tau - len) (min (len * mult) (2 ^ 48 - 1)) else (tau, len)

/-- tau and len of R282. -/
def LrSet.cycle (x : LrSet) (u : Nat) : Nat × Nat :=
  if x.period = 0 then (u, x.len)
  else if x.mult = 1 then (u % x.period, x.period)
  else restart x.mult 64 u x.period

/-- The decay factor f of R282. -/
def LrSet.factor (x : LrSet) (sat : Bool) (tau len : Nat) : LrVal :=
  let one := lrExact (.fin false 1 0)
  match x.decay with
  | 1 => fpAdd sat one (fpDiv sat (fp32n sat (min tau len)) (fp32n sat len)).neg
  | 2 => fpMul sat (lrExact (.fin false 1 (-1)))
      (fpAdd sat one (fpFun sat cosPi (fpDiv sat (fp32n sat (min tau len)) (fp32n sat len))))
  | 3 => fpFun sat (fun v => (sqrtVal v).1) (fpDiv sat (fp32n sat len) (fp32n sat (tau + len)))
  | 4 => fpFun sat exp2Val (fpDiv sat (fp32n sat tau) (fp32n sat len)).neg
  | _ => one

/-- The learning rate of step `n` under SATURATE `sat`, with the effects of computing it (R282). -/
def LrSet.rate (x : LrSet) (sat : Bool) (n : Nat) : LrVal :=
  let peak := lrReg x.peak
  let fin := lrReg x.fin
  if n < x.base then lrExact .zero
  else
    let t := n - x.base
    if t < x.warm then fpMul sat peak (fpDiv sat (fp32n sat (t + 1)) (fp32n sat x.warm))
    else
      let c := x.cycle (t - x.warm)
      fpAdd sat (lrExact fin.1) (fpMul sat (fpAdd sat peak fin.neg) (x.factor sat c.1 c.2))

end Sys2Proof.Machine
end

