-- ==== Sys2Proof/Machine/UpdateEngine.lean ====
section
/-! DEFINITION. The update engines: state segments, update programs, the passes NORM, FOLD, APPLY, STAGE and COMMIT, and the
restore check (R274–R293, R297, R365). -/

namespace Sys2Proof.Machine

open Sys2Proof

/-! ## Pass objects (Table 11.2) -/

/-- A shard entry: addresses of the state (or mirror) segment and of the gradient buffer (or staging segment), FRZ_ERR and
NONORM. -/
structure Shard where
  seg : Nat
  grad : Nat
  frzErr : Bool
  nonorm : Bool
  deriving DecidableEq, Repr

/-- A pass object. -/
structure Pass where
  pass : Nat
  nsteps : Nat
  chunkE : Nat
  norm : Nat
  out : Nat
  npart : Nat
  wb : Bool
  sid : Nat
  maxnorm : Nat
  shards : List Shard
  deriving DecidableEq, Repr

/-- Entry `i` of a pass object. -/
def shardAt (o : List Byte) (i : Nat) : Shard :=
  let a := leAt o (64 + 16 * i) 8
  { seg := a % 2 ^ 57, grad := leAt o (72 + 16 * i) 8 % 2 ^ 57, frzErr := bit a 57, nonorm := bit a 58 }

/-- A pass object read from its bytes. -/
def passOf (o : List Byte) : Pass :=
  { pass := leAt o 0 1, nsteps := leAt o 1 1, chunkE := leAt o 4 4, norm := leAt o 0x10 8 % 2 ^ 57,
    out := leAt o 0x18 8 % 2 ^ 57, npart := leAt o 0x22 1, wb := bit (leAt o 0x23 1) 0, sid := leAt o 0x24 4 % 2 ^ 20,
    maxnorm := leAt o 0x28 4, shards := (List.range (leAt o 2 2)).map (shardAt o) }

/-- The update program that a pass object names; empty where it names none. -/
def passProg (m o : List Byte) : List Byte := if leAt o 8 4 = 0 then [] else slice m (leAt o 8 4) (leAt o 0xC 4)

/-- Parts of slice `k` of shards with the given parameter counts: entry, first parameter and end (R274). -/
def partsOf (ps : List Nat) (chunk k : Nat) : List (Nat × Nat × Nat) :=
  (List.range ps.length).filterMap fun e =>
    let base := sumL (ps.take e)
    let p := ps.getD e 0
    let a := max (k * chunk) base - base
    let b := min ((k + 1) * chunk) (base + p) - base
    if a < b then some (e, a, b) else none

/-! ## Update programs (Table 11.3) -/

/-- A descriptor of an update program. -/
structure UDesc where
  cls : Nat
  fmt : Nat
  idx : Nat
  off : Nat
  val : Nat
  deriving DecidableEq, Repr

/-- Descriptor `j` of a program. -/
def udescAt (m : List Byte) (j : Nat) : UDesc :=
  let o := modDescOff m + 32 * j
  { cls := leAt m o 1, fmt := leAt m (o + 1) 1, idx := leAt m (o + 2) 1, off := leAt m (o + 4) 4, val := leAt m (o + 8) 4 }

/-- Descriptors of a program; none without a program. -/
def uDescs (m : List Byte) : List UDesc := if m.isEmpty then [] else (List.range (modNdesc m)).map (udescAt m)

/-- Instructions of a program. -/
def uInsns (m : List Byte) : List (Nat × Insn) := if m.isEmpty then [] else modInsns m

/-- A state stream: its offset in the segment and its format. -/
abbrev UStream := Nat × Nat

/-- State streams that the descriptors of a program name. -/
def uStreams (m : List Byte) : List UStream :=
  ((uDescs m).filter fun d => d.cls = 0).map (fun d => (d.off, d.fmt)) |>.eraseDups

/-- Written streams (R281), in ascending descriptor index. -/
def uWritten (m : List Byte) : List UStream :=
  let ds := uDescs m
  ((List.range ds.length).filterMap fun j =>
    match ds[j]? with
    | some d => if d.cls = 0 && (uInsns m).any (fun x => x.2.d = j) then some (d.off, d.fmt) else none
    | none => none).eraseDups

/-- Format of the gradient; FP32 width is never used without a gradient descriptor. -/
def uGradFmt (m : List Byte) : Option Nat := ((uDescs m).find? fun d => d.cls = 1).map UDesc.fmt

/-- Bytes of an element of a stream. -/
def fmtBytes (f : Nat) : Nat := fmtBits f / 8

/-- Bytes per parameter of a list of streams. -/
def streamBytes (l : List UStream) : Nat := sumL (l.map fun x => fmtBytes x.2)

/-- The program by which a NORM reads a shard: its own, else that of an APPLY of its engine that names the shard. -/
def normProg (m o : List Byte) (unit seg : Nat) : List Byte :=
  if leAt o 8 4 ≠ 0 then passProg m o
  else
    match (imgActions m).find? fun a =>
        a.kind = 3 && a.unit = unit && (passOf (actionObj m a)).pass = 2
          && (passOf (actionObj m a)).shards.any (fun x => x.seg = seg) with
    | some a => passProg m (actionObj m a)
    | none => []

/-! ## Runs of passes -/

/-- What a pass works with: the engine, its run, its object and program, P of each entry at load, and the step's effects. -/
structure UCtx where
  c : Nat
  r : Run
  o : Pass
  prog : List Byte
  ps : List Nat
  /-- Effects of the step's operations so far, by instruction index. -/
  fx : List (Nat × Fx)
  deriving DecidableEq, Repr

/-- P of the shards of a pass, as its segment headers gave them at load. -/
def State.passParms (s : State) (r : Run) : List Nat :=
  (passOf r.obj).shards.map fun x => AL.getD (((s.bank r.bank).map Bank.parms).getD []) x.seg 0

/-- The context of a run; at its first step the freeze bits of its targets are read (R287). -/
def State.ueCtx (s : State) (c : Nat) (r : Run) : UCtx :=
  let o := passOf r.obj
  let target (x : Shard) : Nat := if o.pass = 4 then x.grad else x.seg
  let r1 := if r.k = 0 then
      { r with frz := (List.range o.shards.length).filter fun e =>
          match o.shards[e]? with
          | some x => s.vaFrozen (target x)
          | none => false }
    else r
  { c := c, r := r1, o := o, prog := passProg (s.runImage r) r.obj, ps := s.passParms r, fx := [] }

/-- The page of the engine. -/
def UCtx.page (x : UCtx) : PageId := pgUe x.c

/-- The last slice of the run. -/
def UCtx.last (x : UCtx) : Bool := x.r.k + 1 = x.o.nsteps

/-- Parts of the step's slice. -/
def UCtx.parts (x : UCtx) : List (Nat × Nat × Nat) := partsOf x.ps x.o.chunkE x.r.k

/-- A read by an engine (R297). -/
def State.ueRead (s : State) (x : UCtx) (loc n : Nat) : State := if n = 0 then s else s.dmaRead x.page Ue.DMA_UE 4 loc n

/-- Tag step of a gradient buffer (R277). -/
def State.tagStep (s : State) (grad : Nat) : Nat := s.planPeekN spHbm (s.vaLoc grad - 64) 6

/-- The first poisoned input of a pass sets PG_ERR.POISON_IN; granules written poisoned are counted. -/
def State.uePoison (s : State) (x : UCtx) (n : Nat) : State :=
  (if n = 0 then s else s.bump x.page Ue.POISON_OUT n).err x.page 5

/-- A 16-byte SPW96 cell written at an address (R278). -/
def State.ueCell (s : State) (x : UCtx) (va : Nat) : State :=
  let s1 := s.planWrite va 0 (leBytes 12 x.r.acc ++ List.replicate 4 0)
  if x.r.bad then let p := s1.planPoison va 0 16; p.1.uePoison x p.2 else s1

/-! ## Shard classes (Table 11.5) -/

/-- A shard event fills the shard record (R288, R296). -/
def State.shardRecord (s : State) (x : UCtx) (kind e : Nat) (dirty : Bool) (hdr tag : Nat) : State :=
  let p := x.page
  if s.rdb p Ue.SH_VALID then s.again p Ue.SH_VALID
  else s.wrs p [(Ue.SH_VALID, 1), (Ue.SH_KIND, kind), (Ue.SH_DIRTY, b2n dirty), (Ue.SH_SHARD, e),
    (Ue.SH_TICK_LO, s.now % 2 ^ 32), (Ue.SH_TICK_HI, s.now / 2 ^ 32), (Ue.SH_HDR_LO, hdr % 2 ^ 32),
    (Ue.SH_HDR_HI, hdr / 2 ^ 32), (Ue.SH_TAG_LO, tag % 2 ^ 32), (Ue.SH_TAG_HI, tag / 2 ^ 32),
    (Ue.SH_STEP_IDX, x.r.step), (Ue.SH_BANK, x.r.bank)]

/-- A state header (Table 11.1). -/
structure Head where
  ok : Bool
  dirty : Bool
  step : Nat
  prog : Nat
  p : Nat
  deriving DecidableEq, Repr

/-- The header at a local offset; one that reads poisoned is not a header. -/
def State.headAt (s : State) (loc : Nat) : Head :=
  { ok := s.planPeekN spHbm loc 4 = 0x53545355 && s.planPeekN spHbm (loc + 4) 2 = 1 && !s.hbmBad loc 64
    dirty := bit (s.planPeekN spHbm (loc + 6) 1) 0
    step := s.planPeekN spHbm (loc + 8) 6
    prog := s.planPeekN spHbm (loc + 0x10) 4
    p := s.planPeekN spHbm (loc + 0x14) 4 }

/-- The class of a shard from its header and tag step. -/
def headClass (h : Head) (frozen : Bool) (p n : Nat) : Nat :=
  if frozen then 3
  else if !h.ok || h.p ≠ p then 4
  else if h.dirty then 5
  else if h.step = (n + 2 ^ 48 - 1) % 2 ^ 48 then 1
  else if h.step = n && h.prog = 0 then 2
  else 6

/-- SH_KIND and PG_ERR bit of a class that faults. -/
def classFault (cls : Nat) : Option (Nat × Nat) :=
  if cls = 4 then some (4, 3) else if cls = 5 then some (3, 2) else if cls = 6 then some (1, 0) else none

/-- The class of entry `e`, decided with its effects when the run first reaches it (R284, R287, R288). -/
def State.ueClass (s : State) (x : UCtx) (e : Nat) : State × UCtx × ShardCls :=
  match x.r.classes.find? fun y => y.idx = e with
  | some y => (s, x, y)
  | none =>
    match x.o.shards[e]? with
    | none => (s, x, ⟨e, 4, 0, 0⟩)
    | some sh =>
      let n := s.tagStep sh.grad
      let loc := s.vaLoc sh.seg
      let h := s.headAt loc
      let fr := x.r.frz.contains e
      let cls := headClass h fr (x.ps.getD e 0) n
      let y : ShardCls := ⟨e, cls, h.prog, n⟩
      let s1 := (s.ueRead x (s.vaLoc sh.grad - 64) 6).ueRead x loc 64
      let x1 := { x with r := { x.r with classes := y :: x.r.classes } }
      let first := !x.r.classes.any fun z => z.cls = 3 && ((x.o.shards[z.idx]?).map Shard.frzErr).getD false
      let s2 := match classFault cls with
        | some f => (((s1.shardRecord x f.1 e h.dirty h.step n).err x.page f.2)).tickFault
        | none =>
          if cls = 3 && sh.frzErr && first then (s1.shardRecord x 2 e h.dirty h.step n).err x.page 1
          else if cls = 2 && x.o.pass = 2 then s1.bump x.page Ue.SKIP_DONE
          else s1
      (s2, x1, y)

/-- The tag step of a pass: that of its first entry (R282, R291). -/
def State.passTag (s : State) (x : UCtx) : Nat :=
  match x.o.shards with
  | sh :: _ => s.tagStep sh.grad
  | [] => 0

/-- The tag step is latched: STEP_LO, and the bits that a read of it gives STEP_HI. -/
def State.ueSetStep (s : State) (x : UCtx) (n : Nat) : State :=
  { s with ueStep := AL.put s.ueStep x.c n }.wr x.page Ue.STEP_LO (n % 2 ^ 32)

/-- The step ends: the slice of the run is complete. -/
def State.ueEnd (s : State) (x : UCtx) : State := s.setRun { x.r with done := true }

/-! ## NORM (R284) -/

/-- The product g × g of a gradient element, exact in SPW96, and the event of reading a NaN. -/
def squareTerm (f e i enc : Nat) : Val × Fx :=
  let v := decodeVal f enc
  (if v.isNan then .nan else (mulVal v v).1, Fx.nan (if v.isNan then 3 else 0) f f (e * 2 ^ 32 + i) noTerm enc enc)

/-- Products are summed into the partial by the blocks of R154; those of a block that the slice does not complete are kept,
except at the shard's end. -/
def UCtx.addTerms (x : UCtx) (e : Nat) (l : List Nat) (fin : Bool) : UCtx × Fx :=
  let all := x.r.terms ++ l
  let keep := if fin then 0 else all.length % 32
  let use := all.take (all.length - keep)
  let bl := (blocks32 use).map fun (b : List Nat) =>
    ({ terms := b.map fun y => some (decodeVal fSPW96 y), scale := 0, nan := false } : Terms)
  let t := dotBlocks fSPW96 .rne false (e * 2 ^ 32) 0 bl (some (decodeVal fSPW96 x.r.acc))
  ({ x with r := { x.r with acc := spwEnc (t.1.getD .zero), terms := all.drop (all.length - keep) } }, t.2)

/-- A part of a shard that NORM sums: the gradient and every state stream are read. -/
def State.normPart (s : State) (x : UCtx) (e a b : Nat) : State × UCtx :=
  match x.o.shards[e]? with
  | none => (s, x)
  | some sh =>
    let prog := normProg (s.runImage x.r) x.r.obj x.c sh.seg
    let loc := s.vaLoc sh.seg
    let gloc := s.vaLoc sh.grad
    match uGradFmt prog with
    | none =>
      let v := Config.openValue [2, 284, x.c, x.r.off, x.r.k, e, s.tagStep sh.grad] % 2 ^ 96
      (s, { x with r := { x.r with acc := v, terms := [] } })
    | some f =>
      let idx := (List.range (b - a)).map (a + ·)
      let st := (gloc, f) :: (uStreams prog).map fun y => (loc + y.1, y.2)
      let bad := st.any fun y => s.hbmBad (y.1 + a * fmtBytes y.2) ((b - a) * fmtBytes y.2)
      let s1 := st.foldl (fun t y => t.ueRead x (y.1 + a * fmtBytes y.2) ((b - a) * fmtBytes y.2)) s
      let tm := idx.map fun i => squareTerm f e i (s.hbmElem gloc f i)
      let add := x.addTerms e (tm.map fun t => spwEnc t.1) (b = x.ps.getD e 0)
      let errs := s.laneErrs (.ue x.c)
      let mis := (idx.map fun i => Fx.mismatch (errs.contains (e * 2 ^ 32 + i, 0)) (e * 2 ^ 32 + i) 0).foldl Fx.add Fx.none
      let s2 := s1.arith (.ue x.c) 0 (((tm.map (·.2)).foldl Fx.add add.2).add mis)
      if !mis.residue.isEmpty then (if bad then s2.err x.page 5 else s2, { add.1 with r := { add.1.r with bad := true } })
      else if bad then (s2.err x.page 5, { add.1 with r := { add.1.r with bad := true } }) else (s2, add.1)

/-- One slice of a NORM. -/
def State.ueNorm (s : State) (x : UCtx) : State :=
  let s0 := if x.r.k = 0 then s.ueSetStep x (s.passTag x) else s
  let r := x.parts.foldl (fun (t : State × UCtx) (q : Nat × Nat × Nat) =>
    let c := t.1.ueClass t.2 q.1
    let s1 := if c.2.2.cls = 3 then c.1.bump x.page Ue.FRZ_TOUCH (q.2.2 - q.2.1) else c.1
    let nonorm := ((x.o.shards[q.1]?).map Shard.nonorm).getD true
    if c.2.2.cls ≤ 2 && !nonorm then s1.normPart c.2.1 q.1 q.2.1 q.2.2 else (s1, c.2.1)) (s0, x)
  let s1 := if x.last then r.1.ueCell r.2 x.o.norm else r.1
  s1.ueEnd r.2

/-! ## FOLD (R285) -/

/-- Partial `i` added to the sum. -/
def State.foldOne (s : State) (x : UCtx) (i : Nat) : State × UCtx :=
  let loc := s.vaLoc x.o.norm + 16 * i
  let enc := s.planPeekN spHbm loc 12
  let v := decodeVal fSPW96 enc
  let bad := s.hbmBad loc 16
  let old := decodeVal fSPW96 x.r.acc
  let t : Sum := if i = 0 then { val := v, clip := false, cause := 0 } else spwAdd old v
  let err := i ≠ 0 && (s.laneErrs (.ue x.c)).contains (i, 0)
  let fx := ((Fx.nan (if v.isNan then 3 else 0) fSPW96 0x0F i noTerm enc 0).add
    ((Fx.clip t.clip).add (Fx.nan t.cause fSPW96 fSPW96 i noTerm x.r.acc enc))).add (Fx.mismatch err i 0)
  let s1 := (s.ueRead x loc 16).arith (.ue x.c) 0 fx
  (if bad then s1.err x.page 5 else s1,
    { x with r := { x.r with acc := spwEnc t.val, bad := x.r.bad || bad || err } })

/-- One slice of a FOLD. -/
def State.ueFold (s : State) (x : UCtx) : State :=
  let sl := sliceOf x.o.npart x.o.chunkE x.r.k
  let r := ((List.range sl.2).map (sl.1 + ·)).foldl (fun (t : State × UCtx) i => t.1.foldOne t.2 i) (s, x)
  let s1 := if x.last then r.1.ueCell r.2 x.o.out else r.1
  s1.ueEnd r.2

/-! ## APPLY: the program (R280, R281) -/

/-- A value in the pipeline of a parameter: its value, encoding and format, and its poison. -/
structure UVal where
  val : Val
  enc : Nat
  fmt : Nat
  bad : Bool
  deriving DecidableEq, Repr

/-- The pipeline of a parameter: streams written so far, temporaries, effects by instruction, and whether a poisoned
element has been read. -/
structure UPar where
  cur : List (UStream × UVal)
  temps : List (Nat × UVal)
  fx : List (Nat × Fx)
  read : Bool
  deriving DecidableEq, Repr

/-- Where a parameter stands: its entry and index, the places of its state and gradient, and its shard's tag step. -/
structure UAt where
  e : Nat
  i : Nat
  loc : Nat
  gloc : Nat
  tag : Nat
  deriving DecidableEq, Repr

/-- An element in its format. -/
def mkUVal (f enc : Nat) (bad : Bool) : UVal := { val := decodeVal f enc, enc := enc, fmt := f, bad := bad }

/-- An operand of an instruction: its value, the cause of an event that reading it raises, and whether it is an element
read that is poisoned. -/
def State.uOperand (s : State) (x : UCtx) (a : UAt) (p : UPar) (d : UDesc) : UVal × Nat × Bool :=
  let fresh (v : UVal) : UVal × Nat × Bool := (v, if v.val.isNan then 3 else 0, v.bad)
  match d.cls with
  | 0 =>
    match AL.get p.cur (d.off, d.fmt) with
    | some v => (v, 0, false)
    | none => fresh (mkUVal d.fmt (s.hbmElem (a.loc + d.off) d.fmt a.i) (s.hbmElemBad (a.loc + d.off) d.fmt a.i))
  | 1 =>
    let g := mkUVal d.fmt (s.hbmElem a.gloc d.fmt a.i) (s.hbmElemBad a.gloc d.fmt a.i)
    if d.idx = 0 then
      let m := mulVal g.val (decodeVal fFP32 x.r.clip)
      ({ g with val := m.1, bad := g.bad || x.r.bad }, if g.val.isNan then 3 else m.2, g.bad || x.r.bad)
    else fresh g
  | 2 =>
    if d.idx = 0 then fresh (mkUVal fFP32 x.r.lr false)
    else if d.idx = 1 then fresh (mkUVal fFP32 x.r.clip x.r.bad)
    else fresh (mkUVal fFP32 (conv fFP32 .rne false (Val.ofInt a.tag)).enc false)
  | 3 => (AL.getD p.temps d.idx (mkUVal d.fmt 0 false), 0, false)
  | _ => fresh (mkUVal fFP32 d.val false)

/-- An operation that a significand adder or multiplier computes, and so carries the residue check (R335; log 200). -/
def lanesUsed (op : Nat) : Bool := (0x11 ≤ op && op ≤ 0x14) || (0x17 ≤ op && op ≤ 0x19)

/-- One instruction of a program on a parameter. A residue mismatch of it, or of the product that forms its clipped gradient,
poisons its result (R335). -/
def State.uInsn (s : State) (x : UCtx) (a : UAt) (p : UPar) (ix : Nat × Insn) : UPar :=
  let ds := uDescs x.prog
  let op (v : Nat) : Option (UVal × Nat × Bool) := (ds[v]?).map (s.uOperand x a p)
  match ds[ix.2.d]?, op ix.2.a with
  | some dd, some oa =>
    let ob := op ix.2.b
    let oc := op ix.2.c
    let all := oa :: (ob.toList ++ oc.toList)
    let v (o : Option (UVal × Nat × Bool)) : Val := (o.map fun y => y.1.val).getD .zero
    let r := elemOp ix.2.op oa.1.val (v ob) (v oc)
    let fresh := ((all.map fun y => y.2.1).find? fun c => c ≠ 0).getD 0
    let cause := if all.any (fun y => y.2.1 = 3) then 3 else if fresh ≠ 0 then fresh else r.2
    let md := if ix.2.rnd = 0 then s.defRnd (.ue x.c) else ix.2.rnd - 1
    let el := a.e * 2 ^ 32 + a.i
    let rnd := if dd.fmt = fSPW96 then Rnd.rne else s.rndFor (.ue x.c) ix.1 md dd.fmt el
    let cv := conv dd.fmt rnd (s.sat (.ue x.c)) r.1
    let fb := (ob.map fun y => y.1.fmt).getD 0x0F
    let eb := (ob.map fun y => y.1.enc).getD 0
    let clipped : Bool := [ix.2.a, ix.2.b, ix.2.c].any fun v => match ds[v]? with
      | some d => d.cls = 1 && d.idx = 0
      | none => false
    let err := (lanesUsed ix.2.op || clipped) && (s.laneErrs (.ue x.c)).contains (el, ix.1)
    let res := mkUVal dd.fmt cv.enc (all.any (fun y => y.1.bad) || err)
    let fx := ((Fx.nan cause oa.1.fmt fb el noTerm oa.1.enc eb).add (Fx.clip cv.clip)).add (Fx.mismatch err el ix.1)
    let p1 := { p with fx := p.fx ++ [(ix.1, fx)], read := p.read || err || all.any fun y => y.2.2 }
    if dd.cls = 0 then { p1 with cur := AL.put p1.cur (dd.off, dd.fmt) res }
    else { p1 with temps := AL.put p1.temps dd.idx res }
  | _, _ => p

/-- A program run on one parameter. -/
def State.uParam (s : State) (x : UCtx) (a : UAt) : UPar :=
  (uInsns x.prog).foldl (s.uInsn x a) { cur := [], temps := [], fx := [], read := false }

/-! ## Parts of a shard (R276, R290) -/

/-- DIRTY is set (step 1 of R276). -/
def State.setDirty (s : State) (loc : Nat) : State :=
  s.store true spHbm (loc + 6) (leBytes 1 (setBit (s.planPeekN spHbm (loc + 6) 1) 0))

/-- The header after a part that ends at parameter `b` of `p`: one 16-byte write (step 3 of R276). -/
def State.headDone (s : State) (loc b p n : Nat) : State :=
  let flags := clrBit (s.planPeekN spHbm (loc + 6) 1) 0
  let step := if b = p then n else s.planPeekN spHbm (loc + 8) 8
  s.store true spHbm (loc + 4) (leBytes 2 (s.planPeekN spHbm (loc + 4) 2) ++ leBytes 1 flags
    ++ leBytes 1 (s.planPeekN spHbm (loc + 7) 1) ++ leBytes 8 step ++ leBytes 4 (if b = p then 0 else b))

/-- Elements [a, …) of a stream written at a local offset; those marked bad leave their granules poisoned. Returns the
granules written poisoned. -/
def State.ueStream (s : State) (loc f a : Nat) (l : List (Nat × Bool)) : State × Nat :=
  let s1 := s.store true spHbm (loc + a * fmtBytes f) (pack f (l.map (·.1)))
  let bl := badLines loc f a (l.map (·.2))
  (bl.foldl (fun t y => t.poisonLine spHbm y) s1, bl.length)

/-- A shard becomes TORN in a part (R290): the tick fault carries its report to Watch. -/
def State.ueTorn (s : State) (x : UCtx) (seg : Nat) : State :=
  let i := ((s.vaEntry seg).map (·.1)).getD 0
  ((s.err x.page 2).raise clsTorn i).tickFault

/-- A part [a, b) of an OPEN shard: the program is applied to its parameters. Its events are taken with those of the whole step
(`State.ueFx`). -/
def State.applyPart (s : State) (x : UCtx) (e a b tag : Nat) : State × UCtx :=
  match x.o.shards[e]? with
  | none => (s, x)
  | some sh =>
    let loc := s.vaLoc sh.seg
    let gloc := s.vaLoc sh.grad
    let n := b - a
    let pars := (List.range n).map fun j => s.uParam x ⟨e, a + j, loc, gloc, tag⟩
    let fxs := pars.flatMap UPar.fx
    let bad := pars.any UPar.read
    let nan := fxs.any (fun y => !y.2.nans.isEmpty) && 1 ≤ s.rd x.page Ari.NAN_ACT
    let s1 := s.setDirty loc
    let grads := ((uDescs x.prog).filter fun d => d.cls = 1).map (fun d => (gloc, d.fmt)) |>.eraseDups
    let reads := grads ++ (uStreams x.prog).map fun y => (loc + y.1, y.2)
    let s2 := reads.foldl (fun t y => t.ueRead x (y.1 + a * fmtBytes y.2) (n * fmtBytes y.2)) s1
    let wr := (uWritten x.prog).foldl (fun (t : State × Nat) (y : UStream) =>
      let l := pars.map fun p => (((AL.get p.cur y).map fun v => (v.enc, v.bad)).getD (0, false))
      let u := t.1.ueStream (loc + y.1) y.2 a l
      (u.1, t.2 + u.2)) (s2, 0)
    let x := { x with fx := x.fx ++ fxs }
    let s4 := if bad then wr.1.uePoison x wr.2 else wr.1
    if bad || nan then (s4.ueTorn x sh.seg, { x with r := { x.r with torn := e :: x.r.torn } })
    else ((s4.headDone loc b (x.ps.getD e 0) tag).bump x.page Ue.APPLIED n, x)

/-! ## APPLY: the first step (R282, R286) -/

/-- The schedule settings in force (R283). -/
def State.lrSet (s : State) (p : PageId) : LrSet :=
  { base := s.rd2 p Ue.SCHED_BASE_LO Ue.SCHED_BASE_HI, peak := s.rd p Ue.LR_PEAK, fin := s.rd p Ue.LR_END,
    warm := s.rd p Ue.WARM, decay := s.rd p Ue.DECAY, mult := s.rd p Ue.RST_MULT, len := s.rd p Ue.DECAY_LEN,
    period := s.rd p Ue.RST_PERIOD }

/-- The clip factor of a total `t` under a threshold (R286): norm and CLIP as FP32 encodings, and the effects. The norm names no
mode and takes the unit's (`md`, R160); fp32() rounds by RNE (R282). -/
def clipFactor (md : Rnd) (sat : Bool) (t : Val) (enc maxnorm : Nat) : Nat × Nat × Fx :=
  let q := sqrtVal t
  let c := conv fFP32 md sat q.1
  let nv := decodeVal fFP32 c.enc
  let mx := decodeVal fFP32 maxnorm
  let ev := Fx.nan (if t.isNan then 3 else q.2) fSPW96 0x0F 0 noTerm enc 0
  if t.isInf && !t.isNeg then (c.enc, 0, Fx.clip true)
  else if ltVal mx nv then
    let d := conv fFP32 .rne sat (divVal mx nv).1
    (c.enc, d.enc, (ev.add (Fx.clip c.clip)).add (Fx.clip d.clip))
  else (c.enc, 0x3F800000, ev.add (Fx.clip c.clip))

/-- The first step of an APPLY run: LR, the clip factor and the tag step are latched. A residue mismatch in forming the factor
poisons what it clips (R335). -/
def State.applyBegin (s : State) (x : UCtx) : State × UCtx :=
  let p := x.page
  let loc := s.vaLoc x.o.norm
  let enc := s.planPeekN spHbm loc 12
  let bad := s.hbmBad loc 16
  let err := (s.laneErrs (.ue x.c)).contains (0, noTerm)
  let f := clipFactor (s.rndFor (.ue x.c) 0 (s.defRnd (.ue x.c)) fFP32 0) (s.sat (.ue x.c)) (decodeVal fSPW96 enc) enc x.o.maxnorm
  let n := s.passTag x
  let lr := (s.lrSet p).rate (s.sat (.ue x.c)) n
  let enc32 := (conv fFP32 .rne false lr.1).enc
  let stop := !f.2.2.nans.isEmpty && 1 ≤ s.rd p Ari.NAN_ACT
  let s1 := (s.ueRead x loc 16).ueSetStep x n
  let s2 := ((s1.wr p Ue.LR_LAST enc32).wr p Ue.NORM_LAST f.1).wr p Ue.CLIP_LAST f.2.1
  (if bad then s2.err p 5 else s2,
    { x with r := { x.r with lr := enc32, clip := f.2.1, bad := bad || err, stop := stop, stepNo := n }
             fx := x.fx ++ [(0, (f.2.2.add lr.2).add (Fx.mismatch err 0 noTerm))] })

/-! ## Write-behind (R291) -/

/-- The bytes of a part of the write-behind: its written streams as stored, each padded to 16 bytes. -/
def State.wbPart (s : State) (x : UCtx) (e a b : Nat) (lost : Bool) : List PByte :=
  match x.o.shards[e]? with
  | none => []
  | some sh =>
    (uWritten x.prog).flatMap fun y =>
      let loc := s.vaLoc sh.seg + y.1 + a * fmtBytes y.2
      let n := (b - a) * fmtBytes y.2
      pad16 ((List.range n).map fun j =>
        ((s.planPeek spHbm (loc + j) 1).headD 0, s.hbmBad (loc + j) 1)) |>.map fun z => (z.1, z.2 || lost)

/-- The chunks of a write-behind step: exactly `cnt`. -/
def wbChunks (cnt : Nat) (l : List PByte) : List Chunk :=
  (List.range cnt).map fun j =>
    let p := (l.drop (240 * j)).take 240
    { op := 3, poison := p.any (·.2), bytes := padTo 240 (p.map (·.1)), last := false, len := 240 }

/-- What the write-behind of a part reads as stored: all of it of a frozen or finished shard, and of an open one the parameters
before PROG (Table 11.5); an uncorrectable or poisoned line has the effects of every read of an engine (R290, R297). -/
def State.wbRead (s : State) (x : UCtx) (q : Nat × Nat × Nat) : State :=
  match x.r.classes.find? (fun y => y.idx = q.1), x.o.shards[q.1]? with
  | some y, some sh =>
    let b := if y.cls = 2 || y.cls = 3 then q.2.2 else if y.cls = 1 then min q.2.2 y.prog else q.2.1
    (uWritten x.prog).foldl (fun t z =>
      let loc := t.vaLoc sh.seg + z.1 + q.2.1 * fmtBytes z.2
      let n := (b - q.2.1) * fmtBytes z.2
      (if t.hbmBad loc n then t.err x.page 5 else t).ueRead x loc n) s
  | _, _ => s

/-- The write-behind of the step's slice is staged for the step that follows. -/
def State.writeBehind (s0 : State) (x : UCtx) : State :=
  let s := x.parts.foldl (fun t q => t.wbRead x q) s0
  let first := x.r.k * x.o.chunkE
  let total := sumL x.ps
  let cnt := (s.runStream x.r x.o.sid).chunks
  let pre := clean (leBytes 6 x.r.stepNo ++ leBytes 2 0 ++ leBytes 4 first ++ leBytes 4 (min total (first + x.o.chunkE) - first))
  let body := x.parts.flatMap fun q =>
    let cls := ((x.r.classes.find? fun y => y.idx = q.1).map ShardCls.cls).getD 4
    s.wbPart x q.1 q.2.1 q.2.2 (4 ≤ cls || x.r.torn.contains q.1 || (cls = 1 && x.r.stop))
  s.stage x.o.sid (wbChunks cnt (pre ++ body))

/-- The engine whose write-behind a stream carries: that of the Cupola from whose link it starts (R291). -/
def wbUnit (m : List Byte) (sid : Nat) : Option Nat :=
  ((imgSlots m).find? fun x => x.sid = sid && !x.recv && 0x40 ≤ x.inp && x.inp < 0x60).map fun x => x.inp % 8

/-- Write-behind chunks of engines count once each, as they are sent: WB_CHUNKS, and POISON_OUT for those with POISON set (R290); `p` is the
plan state whose passes staged them. -/
def State.countWb (s : State) (p : PlanTick) (sent : Nat → List Chunk → List Chunk) : State :=
  match s.imageOf p with
  | none => s
  | some m => s.sched.outbox.foldl (fun t x =>
      let l := (sent x.1 x.2).filter fun c => c.op = 3
      let n := (l.filter Chunk.poison).length
      match wbUnit m x.1 with
      | some c =>
        let t1 := if l.isEmpty then t else t.bump (pgUe c) Ue.WB_CHUNKS l.length
        if n = 0 then t1 else t1.bump (pgUe c) Ue.POISON_OUT n
      | none => t) s

/-- One part of a slice of an APPLY (Table 11.5). -/
def State.applyOne (t : State × UCtx) (q : Nat × Nat × Nat) : State × UCtx :=
  let c := t.1.ueClass t.2 q.1
  let s1 := if c.2.2.cls = 3 then c.1.bump t.2.page Ue.FRZ_TOUCH (q.2.2 - q.2.1) else c.1
  let a := max q.2.1 c.2.2.prog
  if c.2.2.cls = 1 && !c.2.1.r.stop && !c.2.1.r.torn.contains q.1 && a < q.2.2 then
    s1.applyPart c.2.1 q.1 a q.2.2 c.2.2.tag
  else (s1, c.2.1)

/-- The start of an APPLY's slice: at the first step of the run, what it latches. -/
def State.applyStart (s : State) (x : UCtx) : State × UCtx := if x.r.k = 0 then s.applyBegin x else (s, x)

/-- A part that its engine had begun when its tick was abandoned: DIRTY stays set, the values written are free, and the shard is
TORN (R276, R290). -/
def State.tearPart (s : State) (x : UCtx) (q : Nat × Nat × Nat) : State :=
  let c := s.ueClass x q.1
  let a := max q.2.1 c.2.2.prog
  match x.o.shards[q.1]? with
  | none => s
  | some sh =>
    if c.2.2.cls = 1 && !c.2.1.r.stop && !c.2.1.r.torn.contains q.1 && a < q.2.2 then
      let loc := s.vaLoc sh.seg
      let s1 := (uWritten x.prog).foldl (fun (t : State) y =>
        let d := t.drawBytes ((q.2.2 - a) * fmtBytes y.2)
        d.2.store true spHbm (loc + y.1 + a * fmtBytes y.2) d.1) (c.1.setDirty loc)
      s1.ueTorn x sh.seg
    else s

/-- The effects of a step's operations on the engine, by ascending operation: those of its parts are taken together, so that the
record takes the lowest operation and then the lowest parameter (R167, log 196). -/
def State.ueFx (s : State) (x : UCtx) : State :=
  (0 :: ((uInsns x.prog).map (·.1)).filter (· ≠ 0)).foldl (fun t i =>
    t.arith (.ue x.c) i (((x.fx.filter fun y => y.1 = i).map (·.2)).foldl Fx.add Fx.none)) s

/-- The write-behind of a slice whose parts from the `n`-th on were abandoned: they are sent poisoned (R291). -/
def State.wbAbandoned (s : State) (x : UCtx) (n : Nat) : State :=
  if x.o.wb then s.writeBehind { x with r := { x.r with torn := (x.parts.drop n).map (·.1) ++ x.r.torn } } else s

/-- An APPLY whose slice is unfinished at the boundary: how far its engine had come is free; what it had not completed is sent
poisoned by its write-behind (R290, R291, log 201). -/
def State.ueAbandon (s : State) (c : Nat) (r : Run) : State :=
  let x := s.ueCtx c r
  let d := s.draw 1
  if x.o.pass ≠ 2 || !s.rdb x.page Hdr.EN then s
  else if d.1 = 0 then
    d.2.wbAbandoned (if r.k = 0 then { x with r := { x.r with stepNo := s.passTag x } } else x) 0
  else
    let n := d.2.draw 16
    let k := n.1 % (x.parts.length + 1)
    let b := (x.parts.take k).foldl State.applyOne (n.2.applyStart x)
    let s1 := match x.parts[k]? with
      | some q => b.1.tearPart b.2 q
      | none => b.1
    (s1.ueFx b.2).wbAbandoned b.2 k

/-- One slice of an APPLY. -/
def State.ueApply (s : State) (x : UCtx) : State :=
  let r := x.parts.foldl State.applyOne (s.applyStart x)
  let s1 := r.1.ueFx r.2
  let s2 := if x.o.wb then s1.writeBehind r.2 else s1
  s2.ueEnd r.2

/-! ## STAGE (R292) -/

/-- A part received: written to the staging segment at stream bytes from `o` of the payload. -/
def State.stagePart (s : State) (x : UCtx) (ch : List Chunk) (good : Bool) (n e a b o : Nat) : State × UCtx :=
  match x.o.shards[e]? with
  | none => (s, x)
  | some sh =>
    if x.r.frz.contains e then (s, x)
    else
      let loc := s.vaLoc sh.grad
      let cnt := b - a
      let len := sumL ((uWritten x.prog).map fun y => cdiv (cnt * fmtBytes y.2) 16 * 16)
      let bad := !good || chunkBad ch o len
      let v := (uWritten x.prog).foldl (fun (t : (State × Nat) × Nat) (y : UStream) =>
        let l := (List.range cnt).map fun j =>
          let p := t.1.2 + j * fmtBytes y.2
          (leNat (slice (chunkBytes ch) p (fmtBytes y.2)), chunkBad ch p (fmtBytes y.2))
        let u := t.1.1.ueStream (loc + y.1) y.2 a l
        ((u.1, t.1.2 + cdiv (cnt * fmtBytes y.2) 16 * 16), t.2 + u.2)) ((s.setDirty loc, o), 0)
      let w := if chunkBad ch o len then v.1.1.uePoison x v.2 else v.1.1
      let x1 := if bad then { x with r := { x.r with torn := e :: x.r.torn } } else x
      if bad then (w.bump x.page Ue.STAGE_BAD, x1)
      else if x.r.torn.contains e then (w, x)
      else (w.headDone loc b (x.ps.getD e 0) n, x)

/-- One slice of a STAGE: it waits until every chunk of the step has been consumed. -/
def State.ueStage (s : State) (x : UCtx) : State :=
  let cnt := (s.runStream x.r x.o.sid).chunks
  match s.sliceIn x.o.sid cnt with
  | none => s
  | some ch =>
    let pbad := chunkBad ch 0 16
    let n := leNat (slice (chunkBytes ch) 0 6)
    let ref := match x.r.tag with
      | some t => t
      | none => n
    let good := !pbad && n = ref
    let x0 := { x with r := { x.r with tag := if pbad then x.r.tag else some ref } }
    let r := x.parts.foldl (fun (t : (State × UCtx) × Nat) (q : Nat × Nat × Nat) =>
      let len := sumL ((uWritten x.prog).map fun y => cdiv ((q.2.2 - q.2.1) * fmtBytes y.2) 16 * 16)
      (t.1.1.stagePart t.1.2 ch good n q.1 q.2.1 q.2.2 t.2, t.2 + len)) ((s, x0), 16)
    r.1.1.ueEnd r.1.2

/-! ## COMMIT (R293) -/

/-- Elements of a range copied from one local offset to another; granules that read poisoned leave poisoned ones, which are
counted. -/
def State.hbmCopy (s : State) (src dst n : Nat) : State × Nat :=
  if n = 0 then (s, 0)
  else
    let bad := (linesOf src n).filter (s.lineBad spHbm)
    let lines := (bad.flatMap fun line =>
      let a := max src (64 * line)
      let b := min (src + n) (64 * line + 64)
      linesOf (dst + (a - src)) (b - a)).eraseDups
    (lines.foldl (fun t l => t.poisonLine spHbm l) (s.store true spHbm dst (s.planPeek spHbm src n)), lines.length)

/-- A copy by an engine: poisoned granules set POISON_IN and count in POISON_OUT (R290). -/
def State.ueCopy (s : State) (x : UCtx) (src dst n : Nat) : State :=
  let c := (s.ueRead x src n).hbmCopy src dst n
  if c.2 = 0 then c.1 else c.1.uePoison x c.2

/-- What COMMIT does with a shard: 1 commits, 2 drops, 3 finds no staged shard of the declared step. -/
def commitClass (h : Head) (p decl : Nat) : Nat :=
  if h.ok && decl < h.step then 2
  else if h.ok && h.p = p && h.step = decl && h.prog = 0 && !h.dirty then 1
  else 3

/-- A mirror segment is known to be stale (R293, R366). -/
def State.markStale (s : State) (i : Nat) (copied : Bool) : State :=
  s.setWatch { s.watch with stale :=
    { idx := i, copied := copied, runs := [] } :: s.watch.stale.filter fun y => y.idx ≠ i }

/-- The decision for entry `e`, made with its effects when the run first reaches it. -/
def State.commitDecide (s : State) (x : UCtx) (e : Nat) : State × UCtx × Nat :=
  match x.r.classes.find? fun y => y.idx = e with
  | some y => (s, x, y.cls)
  | none =>
    match x.o.shards[e]? with
    | none => (s, x, 2)
    | some sh =>
      let loc := s.vaLoc sh.grad
      let h := s.headAt loc
      let c := commitClass h (x.ps.getD e 0) x.r.stepNo
      let s1 := s.ueRead x loc 64
      let x1 := { x with r := { x.r with classes := ⟨e, c, 0, 0⟩ :: x.r.classes } }
      let s2 :=
        if c = 2 then s1.bump x.page Ue.COMMIT_DROP
        else if c = 3 then
          let s3 := ((s1.shardRecord x 5 e h.dirty h.step x.r.stepNo).err x.page 7).markStale
            (((s.vaEntry sh.seg).map (·.1)).getD 0) true
          -- Watch sends the stale mirror to the host (R352, Table 16.6)
          s3.eventE x.page 0x0022 ((List.range 8).flatMap fun w => leBytes 4 (s3.word x.page (0x180 + 4 * w)))
        else s1
      (s2, x1, c)

/-- A COMMIT run starts on an engine: a stale mirror whose copy is complete notes it (R366). -/
def State.staleStart (s : State) (x : UCtx) : State :=
  s.setWatch { s.watch with stale := s.watch.stale.map fun y =>
    if y.copied then { y with runs := (x.c, x.r.slot, false) :: y.runs.filter fun q => !(q.1 = x.c && q.2.1 = x.r.slot) } else y }

/-- A run commits a segment: a stale mirror that noted the run notes that. -/
def State.staleCommit (s : State) (x : UCtx) (i : Nat) : State :=
  s.setWatch { s.watch with stale := s.watch.stale.map fun y =>
    if y.idx = i then { y with runs := y.runs.map fun q => if q.1 = x.c && q.2.1 = x.r.slot then (q.1, q.2.1, true) else q }
    else y }

/-- A COMMIT run ends: the stale mirrors that it committed, and whose copy preceded it, are stale no longer (R366). -/
def State.staleEnd (s : State) (x : UCtx) : State :=
  s.setWatch { s.watch with stale := s.watch.stale.filter fun y => !y.runs.contains (x.c, x.r.slot, true) }

/-- The end of a shard's commit: its header is copied. -/
def State.commitEnd (s : State) (x : UCtx) (sh : Shard) : State :=
  let i := ((s.vaEntry sh.seg).map (·.1)).getD 0
  ((s.ueCopy x (s.vaLoc sh.grad) (s.vaLoc sh.seg) 64).bump x.page Ue.COMMITTED).staleCommit x i

/-- A part committed: its written streams are copied, and at the shard's end its header. -/
def State.commitPart (s : State) (x : UCtx) (e a b : Nat) : State :=
  match x.o.shards[e]? with
  | none => s
  | some sh =>
    if x.r.frz.contains e then s
    else
      let s1 := (uWritten x.prog).foldl (fun t y =>
        let o := y.1 + a * fmtBytes y.2
        let n := (b - a) * fmtBytes y.2
        t.ueCopy x (t.vaLoc sh.grad + o) (t.vaLoc sh.seg + o) n) s
      if b = x.ps.getD e 0 then s1.commitEnd x sh else s1

/-- One slice of a COMMIT. At its first step the declared step is read, and the stale mirrors whose copy is complete note the run;
at its last step the run ends. -/
def State.ueCommit (s : State) (x : UCtx) : State :=
  let s0 := if x.r.k = 0 then s.staleStart x else s
  let x0 := if x.r.k = 0 then { x with r := { x.r with stepNo := s.watch.decl } } else x
  let r := x0.parts.foldl (fun (t : State × UCtx) (q : Nat × Nat × Nat) =>
    let c := t.1.commitDecide t.2 q.1
    (if c.2.2 = 1 then c.1.commitPart c.2.1 q.1 q.2.1 q.2.2 else c.1, c.2.1)) (s0, x0)
  (if x.last then r.1.staleEnd x else r.1).ueEnd r.2

/-! ## Commands -/

/-- The open run of a slot with a given PASS. -/
def State.passRun (s : State) (c slot pass : Nat) : Option UCtx :=
  match s.openRun 3 c slot with
  | some r => if leAt r.obj 0 1 = pass then some (s.ueCtx c r) else none
  | none => none

/-- A pass of the given kind does one slice. -/
def State.passStep (s : State) (c slot pass : Nat) (f : State → UCtx → State) : State :=
  match s.passRun c slot pass with
  | some x => f s x
  | none => s

/-- UE_NORM (R284). -/
def execUeNorm (c slot : Nat) (s : State) : Host.Outcome State Fault Refusal := .next (s.passStep c slot 1 State.ueNorm)

/-- UE_APPLY (R286–R291). -/
def execUeApply (c slot : Nat) (s : State) : Host.Outcome State Fault Refusal := .next (s.passStep c slot 2 State.ueApply)

/-- UE_FOLD (R285). -/
def execUeFold (c slot : Nat) (s : State) : Host.Outcome State Fault Refusal := .next (s.passStep c slot 3 State.ueFold)

/-- UE_STAGE (R292). -/
def execUeStage (c slot : Nat) (s : State) : Host.Outcome State Fault Refusal := .next (s.passStep c slot 4 State.ueStage)

/-- UE_COMMIT (R293). -/
def execUeCommit (c slot : Nat) (s : State) : Host.Outcome State Fault Refusal := .next (s.passStep c slot 5 State.ueCommit)

/-- A read of STEP_LO, which latches STEP_HI (Table 11.7). -/
def State.readUeStep (s : State) (c : Nat) : Nat × State :=
  let p := pgUe c
  (AL.getD s.ueStep c 0 % 2 ^ 32, s.wr p Ue.STEP_HI (AL.getD s.ueStep c 0 / 2 ^ 32))

/-- UE_STEP_LO_READ: the value read appears on the module's bus. -/
def execUeStepLoRead (c : Nat) (s : State) : Host.Outcome State Fault Refusal :=
  .next (if c < 8 then let r := s.readUeStep c; r.2.emit (.value r.1) else s)

/-! ## The restore check (R365) -/

/-- The words of a segment as values; a granule that reads POISONED gives +0. -/
def State.chkWord (s : State) (loc j : Nat) : Val :=
  if s.hbmBad (loc + 8 * j) 8 then .zero
  else (roundTo fFP64 .rne false (Val.ofInt (toSigned 64 (s.peekN spHbm (loc + 8 * j) 8)))).1

/-- sum and norm of a segment of 2^`size` bytes, as FP64 encodings. -/
def State.chkValues (s : State) (loc size : Nat) : Nat × Nat :=
  let r := (List.range (2 ^ size / 8)).foldl (fun (t : Val × Val) j =>
    let v := s.chkWord loc j
    let q := (roundTo fSPW96 .rne false (mulVal v v).1).1
    ((spwAdd t.1 v).val, (spwAdd t.2 q).val)) (.zero, .zero)
  ((conv fFP64 .rne false r.1).enc, (conv fFP64 .rne false r.2).enc)

/-- Local offset that CHK_BASE names. -/
def State.chkBase (s : State) (c : Nat) : Nat :=
  2 ^ 21 * s.rd (pgUe c) Ue.CHK_BASE_LO + 2 ^ 32 * s.rd (pgUe c) Ue.CHK_BASE_HI

/-- A write of CHK_GO by a unit of the given kind: only a Watch engine (0x3) starts a check, and none while one runs. The
engine works under SVC 3 meanwhile. -/
def State.chkGo (s : State) (c unit : Nat) : State :=
  if unit = 3 && s.rd (pgUe c) Ue.CHK_STATE ≠ 1 then (s.wr (pgUe c) Ue.CHK_STATE 1).wr (pgUe c) Ari.SVC 3 else s

/-- The check completes: CHK_SUM and CHK_NORM hold its results. -/
def State.chkDone (s : State) (c : Nat) : State :=
  let p := pgUe c
  if s.rd p Ue.CHK_STATE = 1 then
    let v := s.chkValues (s.chkBase c) (s.rd p Ue.CHK_SIZE)
    let s1 := s.touch false spHbm (s.chkBase c) (2 ^ s.rd p Ue.CHK_SIZE)
    (((s1.wr2 p Ue.CHK_SUM_LO Ue.CHK_SUM_HI v.1).wr2 p Ue.CHK_NORM_LO Ue.CHK_NORM_HI v.2).wr p Ue.CHK_STATE 2).wr p Ari.SVC 0
  else s

/-- CHK_GO (Table 11.7). -/
def execChkGo (c unit : Nat) (s : State) : Host.Outcome State Fault Refusal :=
  .next (if c < 8 then s.chkGo c unit else s)

/-- CHK_DONE (R365). -/
def execChkDone (c : Nat) (s : State) : Host.Outcome State Fault Refusal := .next (if c < 8 then s.chkDone c else s)

/-! ## Cost (R274) -/

/-- Active passes of an engine in a step of a variant, with their slices. -/
def uePasses (m : List Byte) (v c step : Nat) : List (ActionRec × Nat) := activeIn m 3 c v step fun o => leAt o 1 1

/-- Bytes of headers and tags that a pass reads and writes in a slice: for each shard that the slice reaches first, the tag and the
header as read (for COMMIT, the staging header); for each part, the header writes of R276, 16 bytes each; for each shard that a
COMMIT ends, the header copied (log 126). -/
def headLoad (pass : Nat) (ps : List Nat) (parts : List (Nat × Nat × Nat)) : Nat :=
  sumL (parts.map fun q =>
    (if q.2.1 = 0 then (if pass ≤ 2 then 70 else if pass = 5 then 64 else 0) else 0)
      + (if pass = 2 || pass = 4 then 32 else 0)
      + (if pass = 5 && q.2.2 = ps.getD q.1 0 then 128 else 0))

/-- Items × (NOPS + 1), and HBM bytes, of slice `k` of a pass. -/
def passLoad (m o : List Byte) (unit : Nat) (ps : List Nat) (k : Nat) : Nat × Nat :=
  let p := passOf o
  let prog := passProg m o
  let last := k + 1 = p.nsteps
  let n := (sliceOf (if p.pass = 3 then p.npart else sumL ps) p.chunkE k).2
  let h := headLoad p.pass ps (partsOf ps p.chunkE k)
  match p.pass with
  | 1 =>
    let per (e : Nat) : Nat :=
      let g := normProg m o unit ((p.shards[e]?).map Shard.seg |>.getD 0)
      streamBytes (uStreams g) + ((uGradFmt g).map fmtBytes).getD 0
    (2 * n, sumL ((partsOf ps p.chunkE k).map fun q => (q.2.2 - q.2.1) * per q.1) + h + (if last then 16 else 0))
  | 2 =>
    (n * ((uInsns prog).length + 1),
      n * (streamBytes (uStreams prog) + streamBytes (uWritten prog) + ((uGradFmt prog).map fmtBytes).getD 0)
        + h + (if k = 0 then 16 else 0))
  | 3 => (n, 16 * n + (if last then 16 else 0))
  | 4 => (n, n * streamBytes (uWritten prog) + h)
  | _ => (n, 2 * n * streamBytes (uWritten prog) + h)

/-- Cost C of an engine in a step of a variant; `parms` gives P by segment address. -/
def ueCost (m : List Byte) (parms : Nat → Nat) (v c step : Nat) : Nat :=
  let l := uePasses m v c step
  let q := l.map fun x =>
    let o := actionObj m x.1
    passLoad m o c ((passOf o).shards.map fun y => parms y.seg) x.2
  64 * l.length + cdiv (sumL (q.map (·.1))) 512 + cdiv (sumL (q.map (·.2))) 1024

end Sys2Proof.Machine
end

