-- ==== Sys2Proof/Machine/BillinCheck.lean ====
section
/-! DEFINITION. The translator's checks of Billin modules (R233, R247, R255, R273, Table 09.7, Table 10.5). -/

namespace Sys2Proof.Machine

open Sys2Proof

/-! ## ERR_DETAIL (R255) -/

/-- A failure that names an item: kind 0 instruction, 1 descriptor, 2 binding. -/
def itemErr (code idx kind : Nat) : ObjBad := .code (code + idx * 2 ^ 8 + kind * 2 ^ 22)

/-- A failure that names no item. -/
def bareErr (code : Nat) : ObjBad := .code (code + 0x3FFF * 2 ^ 8 + 0x3FF * 2 ^ 22)

/-- A check without an item. -/
def bareIf (b : Bool) (code : Nat) : Option ObjBad := if b then some (bareErr code) else none

/-- The first index below `n` that fails. -/
def firstIdx (n : Nat) (p : Nat → Bool) : Option Nat := (List.range n).find? p

/-- The first descriptor, binding or instruction that fails a check, in the order of R255. -/
def firstItem (m : List Byte) (code : Nat) (desc : Nat → Bool) (bind : Nat → Bool) (insn : Nat → Bool) : Option ObjBad :=
  match firstIdx (modNdesc m) desc with
  | some j => some (itemErr code j 1)
  | none =>
    match firstIdx (modNbind m) bind with
    | some j => some (itemErr code j 2)
    | none =>
      match firstIdx (modNinsn m) insn with
      | some i => some (itemErr code i 0)
      | none => none

/-- No item of this kind is checked. -/
def noItem : Nat → Bool := fun _ => false

/-! ## FORMAT, SIGNATURE, VERSION -/

/-- Length of a signature (R233). -/
def sigLen : Nat := 35664

/-- Parts of a container: offset and length, in order. -/
def modParts (m : List Byte) : List (Nat × Nat) :=
  [(0, 64), (modInsnOff m, 16 * modNinsn m), (modDescOff m, 32 * modNdesc m), (modBindOff m, 8 * modNbind m),
   (modSigOff m, sigLen)]

/-- The parts follow one another, aligned to 16 bytes and inside the module. -/
def partsInOrder (n : Nat) : Nat → List (Nat × Nat) → Bool
  | fin, [] => fin ≤ n
  | fin, p :: l => p.1 % 16 = 0 && fin ≤ p.1 && partsInOrder n (p.1 + p.2) l

/-- FORMAT (0x01): `kind` is the KIND that the reference expects, `len` its length. -/
def modFormatBad (m : List Byte) (kind len : Nat) : Bool :=
  m.length < 64 || m.length ≠ len || modMagic m ≠ 0x4D4E4C42 || modFmt m ≠ 1 || modKind m ≠ kind || modNinsn m = 0
    || 16384 < modNinsn m || 255 < modNdesc m || 64 < modNbind m || modTotal m ≠ modSigOff m + sigLen || modTotal m ≠ len
    || !partsInOrder len 0 (modParts m)

/-- A program-key slot (R449). -/
def State.keySlot (s : State) (i : Nat) : KeySlot := if i < 16 then AL.getD s.keys i KeySlot.empty else KeySlot.empty

/-- SIGNATURE (0x02): the key is absent or revoked, or the signature does not verify (R233). -/
def State.signatureBad (s : State) (m : List Byte) : Bool :=
  let k := s.keySlot (modKeyId m)
  k.state ≠ 1 || !Config.verify k.key (m.take (modSigOff m)) (slice m (modSigOff m) sigLen)

/-- VERSION (0x03). -/
def State.versionBad (s : State) (img m : List Byte) : Bool :=
  let v := s.xlatorVer
  modIsa m / 2 ^ 16 ≠ 1 || modIsa m / 2 ^ 16 ≠ v / 2 ^ 16 || v % 2 ^ 16 < modIsa m % 2 ^ 16
    || (imgXlator img ≠ 0 && imgXlator img ≠ v)

/-! ## ENCODING -/

/-- Operands, IMM0 mask and IMM1 mask of an instruction: the operands required, or none for CALL, whose routine has them. -/
def insnForm (op : Nat) : Option (Option (List Bool) × Nat × Nat) :=
  let f (d a b c : Bool) (m0 m1 : Nat) : Option (Option (List Bool) × Nat × Nat) := some (some [d, a, b, c], m0, m1)
  if op = 0x01 then f true true false false 0 0
  else if op = 0x02 then f true false false false (2 ^ 32 - 1) 0xFF
  else if op = 0x03 then f true true false true 0 0
  else if op = 0x04 then f true true false true 3 0
  else if op = 0x10 then f true true true false 3 0
  else if op = 0x14 then f true true true true 0 0
  else if (0x11 ≤ op && op ≤ 0x13) || (0x15 ≤ op && op ≤ 0x17) then f true true true false 0 0
  else if (0x18 ≤ op && op ≤ 0x1B) || isRowRed op then f true true false false 0 0
  else if op = 0x30 then some (none, 2 ^ 32 - 1, 2 ^ 32 - 1)
  else if isFence op then f false false false false 0 0
  else if op = opSet then f false false false false 0x1F 0
  else if op = opWait then f false false false false 0x1F 0xFF
  else if op = opWaitv then f false false false false 0x1F (2 ^ 32 - 1)
  else none

/-- An instruction word breaks its encoding; `tile`: of a tick body. -/
def insnEncodingBad (tile : Bool) (m : List Byte) (x : Insn) : Bool :=
  match insnForm x.op with
  | none => true
  | some (roles, m0, m1) =>
    let fields := [x.d, x.a, x.b, x.c]
    16 ≤ x.ctl || x.res ≠ 0 || Nat.land x.imm0 m0 ≠ x.imm0 || Nat.land x.imm1 m1 ≠ x.imm1
      || (x.op = opWait && x.imm1 = 0)
      || fields.any (fun v => v ≠ 0xFF && modNdesc m ≤ v)
      || (match roles with
        | none => false
        | some l => (List.range 4).any fun i => l.getD i false != decide (fields.getD i 0xFF ≠ 0xFF))
      || (tile && x.op = 0x02 && x.imm1 ≠ 0 && !(tdescAt m x.d).mx)

/-- A descriptor of a tick body breaks its encoding. -/
def descEncodingBad (m : List Byte) (j : Nat) : Bool :=
  let o := modDescOff m + 32 * j
  let d := tdescAt m j
  3 < d.space || d.fmt = 15 || 32 ≤ leAt m (o + 1) 1 || 2 < d.layout || leAt m (o + 28) 4 ≠ 0
    || (d.space < 2 && d.bind ≠ 0) || (2 ≤ d.space && modNbind m ≤ d.bind)
    || (if d.hbm then 2 ^ 57 ≤ d.addr else 2 ^ 21 ≤ d.addr) || (d.layout ≠ 0 && d.ld ≠ 0) || (!d.mx && d.soff ≠ 0)
    || d.rows = 0 || 2 ^ 24 < d.rows || d.cols = 0 || 131072 < d.cols

/-- A binding breaks its encoding. -/
def bindEncodingBad (m : List Byte) (j : Nat) : Bool :=
  let o := modBindOff m + 8 * j
  let b := tbindAt m j
  2 ^ 20 ≤ leAt m o 4 || 1 < b.dir || (31 < b.aflag && b.aflag ≠ 0xFF) || (b.dir = 1 && b.aflag ≠ 0xFF)
    || leAt m (o + 6) 2 ≠ 0

/-- Reserved fields of the header. -/
def headEncodingBad (m : List Byte) : Bool := 2 ≤ modFlags m || leAt m 0x2E 2 ≠ 0 || leAt m 0x34 12 ≠ 0

/-- ENCODING (0x04) of a descriptor of an update program: a reserved class, format or byte. -/
def uDescEncodingBad (m : List Byte) (j : Nat) : Bool :=
  let o := modDescOff m + 32 * j
  4 < (udescAt m j).cls || 15 ≤ (udescAt m j).fmt || leAt m (o + 3) 1 ≠ 0 || leAt m (o + 12) 20 ≠ 0

/-- ENCODING (0x04). -/
def encodingBad (tile : Bool) (m : List Byte) : Option ObjBad :=
  if headEncodingBad m then some (bareErr 4)
  else firstItem m 4 (fun j => if tile then descEncodingBad m j else uDescEncodingBad m j) (bindEncodingBad m) fun i => insnEncodingBad tile m (insnAt m i)

/-! ## OPERAND, PAIR, FP64 -/

/-- A descriptor's shape, alignment or range is outside R234. -/
def descOperandBad (d : TDesc) : Bool :=
  let e := d.extent
  (d.mx && (!isMx d.fmt || d.cols % 32 ≠ 0 || d.soff % 16 ≠ 0)) || d.addr % 16 ≠ 0
    || (d.layout = 0 && (d.ld % 16 ≠ 0 || d.ld < d.rowBytes)) || (2 ≤ d.space && d.ld ≠ d.rowBytes)
    || (d.layout ≠ 0 && !sparseFmt d.fmt d.mx) || (d.layout = 1 && d.n % 32 ≠ 0) || (d.layout = 2 && d.cols % 32 ≠ 0)
    || (!d.hbm && 2 ^ 21 < d.addr + (if d.layout = 1 then packBase (tilesOf (d.n / 32)) else e))

/-- A destination converts exactly to an FP32 accumulator (R239); the block scale of an MX tensor can pass FP32's range. -/
def exactInFp32 (d : TDesc) : Bool := [0, 1, 2, 3, 4, 5, 6, 7, 10, 11, 12].contains d.fmt && !d.mx

/-- An operand that broadcasts to D (R237). -/
def castOk (y d : TDesc) : Bool := (y.rows = 1 || y.rows = d.rows) && (y.cols = 1 || y.cols = d.cols)

/-- Shapes or formats of an instruction break Table 09.5, R238, R239 or R241. -/
def insnOperandBad (m : List Byte) (x : Insn) : Bool :=
  let d := tdescAt m x.d
  let a := tdescAt m x.a
  let b := tdescAt m x.b
  let c := tdescAt m x.c
  if x.op = 0x01 || isElementwise x.op then
    a.rows ≠ d.rows || a.cols ≠ d.cols || d.fmt = fE8M0 || (x.b ≠ 0xFF && !castOk b d) || (x.c ≠ 0xFF && !castOk c d)
      || (isInt d.fmt && ((0x17 ≤ x.op && x.op ≤ 0x19) || x.rnd = 3))
  else if x.op = 0x03 || x.op = 0x04 then
    let side := if x.op = 0x03 then d else a
    c.fmt ≠ fINT32 || c.mx || c.cols ≠ 1 || c.rows ≠ side.rows || a.cols ≠ d.cols || a.fmt ≠ d.fmt || a.mx != d.mx
  else if x.op = 0x10 then
    let ints := isInt a.fmt && isInt b.fmt
    [a, b, d].any (fun y => y.fmt = fSPW96 || y.fmt = fE8M0) || a.cols ≠ b.cols || d.rows ≠ a.rows || d.cols ≠ b.rows
      || (ints && d.fmt ≠ fINT32) || (bit x.imm0 0 && !ints && !bit x.imm0 1 && !exactInFp32 d)
  else if isRowRed x.op then d.rows ≠ a.rows || d.cols ≠ 1 || d.fmt = fE8M0
  else if x.op = opWaitv then x.imm1 % 4 ≠ 0 || 2 ^ 21 < x.imm1 + 4
  else false

/-- OPERAND (0x05). -/
def operandBad (m : List Byte) : Option ObjBad :=
  firstItem m 5 (fun j => descOperandBad (tdescAt m j)) noItem fun i => insnOperandBad m (insnAt m i)

/-- Group of Table 06.2; none for a format that no pair admits. -/
def pairGroup (f : Nat) : Option Nat :=
  if 3 ≤ f && f ≤ 7 then some 0 else if f = 1 || f = 2 then some 1 else if f = 0 then some 2
  else if f = 11 || f = 12 then some 3 else if f = 14 then some 4 else none

/-- Two formats form an admitted pair. -/
def pairOk (a b : Nat) : Bool := (pairGroup a).isSome && pairGroup a = pairGroup b

/-- PAIR (0x06): a pairing, a layout or a form that an instruction does not admit (R215, R219). -/
def insnPairBad (m : List Byte) (x : Insn) : Bool :=
  if x.op = 0x30 then false
  else
    let lay (v : Nat) : Nat := if v = 0xFF then 0 else (tdescAt m v).layout
    let src := [x.a, x.b, x.c]
    lay x.d ≠ 0 || src.any (fun v => lay v = 2 && !(x.op = 0x10 && v ≠ x.c))
      || ((x.op = 0x03 || x.op = 0x04) && src.any fun v => lay v = 1)
      || (x.op = 0x10 && ((lay x.a = 2 && lay x.b = 2) || !pairOk (tdescAt m x.a).fmt (tdescAt m x.b).fmt))

/-- FP64 (0x07). -/
def fp64Bad (m : List Byte) : Option ObjBad :=
  if modSvc m then some (bareErr 7) else firstItem m 7 noItem noItem fun i => (insnAt m i).usesFp64 m

/-! ## LOCAL (0x08) and pinning -/

/-- Instructions of a module that read or write a descriptor. -/
def descRead (m : List Byte) (j : Nat) : Bool := (modInsns m).any fun x => x.2.reads.contains j
def descWritten (m : List Byte) (j : Nat) : Bool := (modInsns m).any fun x => x.2.writes.contains j

/-- HBM operands of a module with their descriptors. -/
def hbmOperands (m : List Byte) : List (Nat × Operand) :=
  (List.range (modNdesc m)).flatMap fun j =>
    let d := tdescAt m j
    if d.hbm then
      let len := if d.layout = 1 then 1 else d.extent
      let rd := descRead m j
      let wr := descWritten m j
      if rd || wr then [(j, { va := d.addr, len := len, rd := rd, wr := wr, mirror := false, sparseOk := true })] else []
    else []

/-- An operand of a body for a tile of Cupola `c`: pinned, in the Cupola's stacks, and sparse exactly under LAYOUT 1. -/
def State.localBad (s : State) (m : List Byte) (c : Nat) (x : Nat × Operand) : Option ObjBad :=
  match s.pinEntry x.2 with
  | none => some (.pin (x.2.va % 2 ^ 32))
  | some i =>
    if !s.inCupola c x.2 || fstSparse (s.fstEntry i) != decide ((tdescAt m x.1).layout = 1) then some (itemErr 8 x.1 1)
    else none

/-- The first failure among the HBM operands. -/
def State.localCheck (s : State) (m : List Byte) (c : Nat) : Option ObjBad := firstBad ((hbmOperands m).map (s.localBad m c))

/-! ## STREAM (0x09) -/

/-- Tick bodies of a step and variant: tile and module. -/
def bodiesIn (m : List Byte) (v step : Nat) : List (Nat × List Byte) :=
  ((imgActions m).filter fun a => a.kind = 2 && a.step = step && varActs a.var v).map fun a => (a.unit, actionObj m a)

/-- Bindings of a stream in a direction, over the bodies of a step. -/
def bindCount (m : List Byte) (v step sid dir : Nat) : Nat :=
  sumL ((bodiesIn m v step).map fun b => ((modBinds b.2).filter fun x => x.2.sid = sid && x.2.dir = dir).length)

/-- A binding of the body of an action breaks R235 in a variant. -/
def streamBad (m : List Byte) (a : ActionRec) (mod : List Byte) (v j : Nat) : Bool :=
  let b := tbindAt mod j
  match bindDesc mod j b.dir, imgStream m b.sid with
  | some d, some r =>
    if b.dir = 0 then
      r.coded || !r.terminal || r.sink ≠ 0xFF || bindCount m v a.step b.sid 0 ≠ 1
        || (prevSteps m a.step).any fun p => recvCount m v p b.sid ≠ cdiv d.streamLen 240
    else
      !r.origin || originBad m (a.unit / 32) b.sid
        || (if r.coded then !sparseFmt d.fmt d.mx || d.n % 32 ≠ 0 else r.chunks ≠ cdiv d.streamLen 240)
  | _, _ => true

/-- STREAM over the variants of an action. -/
def streamCheck (m : List Byte) (a : ActionRec) (mod : List Byte) : Option ObjBad :=
  firstItem mod 9 noItem (fun j => (actionVars m a).any fun v => streamBad m a mod v j) noItem

/-! ## FLAGDEAD (0x0A, R247) -/

/-- FLAGDEAD: a wait that stays incomplete, which ERR_DETAIL names, or a flag over 255 increments. -/
def flagDead (m : List Byte) : Option ObjBad :=
  let s0 := FlagSim.init m
  let s := FlagSim.run none (fun _ => 0) (flagOps m) s0
  match s.qs.flatten with
  | x :: _ => some (itemErr 0xA x.1 0)
  | [] =>
    if s0.incs.any (255 < ·) then some (bareErr 0xA)
    else match s.bad with
      | some i => some (itemErr 0xA i 0)
      | none => none

/-! ## RACE (0x0B, R246) -/

/-- Two instructions of different queues race in the tile store. -/
def races (m : List Byte) (x y : Nat × Insn) : Bool :=
  x.2.q ≠ y.2.q && (x.2.raceAccesses m).any fun a => !a.hbm && (y.2.raceAccesses m).any fun b =>
    a.clash b && !orderedBy m a b x y && !orderedBy m b a y x

/-- RACE: the first instruction that races with an earlier one. -/
def raceCheck (m : List Byte) : Option ObjBad :=
  let l := modInsns m
  match l.find? fun y => l.any fun x => x.1 < y.1 && races m x y with
  | some y => some (itemErr 0xB y.1 0)
  | none => none

/-! ## IMEM (0x0D, R478, R300) -/

/-- Bytes a body takes in a code area. -/
def codeBytes (m : List Byte) : Nat := cdiv (256 + 32 * modNinsn m) 4096 * 4096

/-- Distinct modules that run on tiles of a Cupola and that some action among `acts` references: one translation serves every
reference of a module (R230). -/
def cupolaModules (m : List Byte) (acts : List ActionRec) (c : Nat) : List (List Byte) :=
  (((imgActions m).filter fun a => a.kind = 2 && a.unit / 32 = c
    && acts.any fun b => b.kind = 2 && b.off = a.off && b.len = a.len).map (actionObj m)).eraseDups

/-- The actions of an image up to and with an action; all of them where it is not one of them. -/
def actionsTo (m : List Byte) (a : ActionRec) : List ActionRec :=
  let l := imgActions m
  l.take ((l.findIdx fun b => decide (b = a)) + 1)

/-- The code area of a Cupola cannot hold the bodies of an image up to and with an action, beside those of the other bank. -/
def State.codeFull (s : State) (m : List Byte) (a : ActionRec) (bank c : Nat) : Bool :=
  let cap := 2 ^ 30 * (s.rd (pgHbm (2 * c)) Hbm.SYS_GIB + s.rd (pgHbm (2 * c + 1)) Hbm.SYS_GIB)
  let other := ((s.bank (1 - bank)).map Bank.image).getD []
  cap < sumL ((cupolaModules m (actionsTo m a) c ++ cupolaModules other (imgActions other) c).map codeBytes)

/-- IMEM: whether a body of more than 2,040 instructions fits depends on the translator (R478): an open function. -/
def State.imemBad (s : State) (m mod : List Byte) (a : ActionRec) (bank c : Nat) : Bool :=
  (2040 < modNinsn mod && !Config.codeFits s.xlatorVer mod) || s.codeFull m a bank c

/-! ## CALL (0x0E, Table 10.5) -/

/-- The argument block of ATTN_PARTIAL. -/
def argBlock (x : Insn) : Option (Nat × Nat) := if x.imm0 % 2 ^ 16 = 4 then some (x.imm1, x.imm1 + 16) else none

/-- Operands a routine requires and admits: D, A, B, C; B of TOPK and ATTN_MERGE may be absent. -/
def callGiven (id : Nat) (x : Insn) : Bool :=
  let h (v : Nat) : Bool := v ≠ 0xFF
  let two := h x.d && h x.a && !h x.c
  if id = 4 || id = 8 then h x.d && h x.a && h x.b && h x.c
  else if id = 2 || id = 5 then two
  else two && !h x.b

/-- FORMAT of Table 10.5. -/
def callFormatBad (m : List Byte) (x : Insn) (id : Nat) : Bool :=
  let t (v : Nat) : TDesc := tdescAt m v
  let f (v : Nat) : Nat := (t v).fmt
  let given := [x.d, x.a, x.b, x.c].filter (· ≠ 0xFF)
  let fl (v : Nat) : Bool := v ≤ 2
  let o (v : Nat) : Bool := [0, 1, 2, 3, 4].contains v
  let mxOk : List (Nat × Bool) := [(x.d, false), (x.a, id = 4), (x.b, id = 4), (x.c, false)]
  !callGiven id x || given.any (fun v => (t v).layout ≠ 0) || mxOk.any (fun v => v.1 ≠ 0xFF && (t v.1).mx && !v.2)
    || (match id with
      | 1 => f x.a ≠ 9 || f x.d ≠ 9
      | 2 => !([0, 1, 2, 9, 10].contains (f x.a)) || f x.d ≠ 9 || (x.b ≠ 0xFF && f x.b ≠ f x.a)
      | 3 => !fl (f x.a) || !fl (f x.d)
      | 4 => !pairOk (f x.a) (f x.b) || f x.a = 14 || !o (f x.c) || f x.d ≠ 0
      | 5 => f x.a ≠ 0 || (x.b ≠ 0xFF && f x.b ≠ 0) || (if bit x.imm1 0 then !o (f x.d) else f x.d ≠ 0)
      | 6 => !([0, 1, 2, 9, 10, 11].contains (f x.a)) || !([0, 1, 2, 9, 10, 11].contains (f x.d)) || isInt (f x.a) != isInt (f x.d)
      | 7 => f x.a ≠ 9 || f x.d ≠ 9
      | _ => f x.a ≠ 9 || f x.c ≠ 9 || f x.d ≠ 9 || !fl (f x.b))

/-- SHAPE of Table 10.5. -/
def callShapeBad (m : List Byte) (x : Insn) (id : Nat) : Bool :=
  let a := tdescAt m x.a
  let b := tdescAt m x.b
  let c := tdescAt m x.c
  let d := tdescAt m x.d
  let same (p q : TDesc) : Bool := p.rows = q.rows && p.cols = q.cols
  match id with
  | 1 => a.cols % 2 ≠ 0 || !same a d
  | 2 => d.rows ≠ a.rows || d.cols ≠ x.imm1 % 2 ^ 16 || (x.b ≠ 0xFF && !same b d)
  | 3 => !same a d
  | 4 => a.cols ≠ b.cols || c.rows ≠ b.rows || d.rows ≠ a.rows || d.cols ≠ c.cols + 2
  | 5 => a.cols < 2 || (x.b ≠ 0xFF && !same a b) || d.rows ≠ a.rows || d.cols ≠ (if bit x.imm1 0 then a.cols - 2 else a.cols)
  | 6 => !same a d
  | 7 => d.rows ≠ 1
  | _ => !same a b || !same a d || c.rows ≠ 1

/-- LIMIT of Table 10.5. -/
def callLimitBad (m : List Byte) (x : Insn) (id : Nat) : Bool :=
  let a := tdescAt m x.a
  let b := tdescAt m x.b
  let c := tdescAt m x.c
  let d := tdescAt m x.d
  let k := x.imm1 % 2 ^ 16
  match id with
  | 1 => 65536 < a.cols / 2
  | 2 => 65536 < a.cols || k = 0 || 256 < k || a.cols < k
  | 3 => 65536 < a.cols
  | 4 => 1024 < a.rows || 4096 < b.rows || 256 < a.cols || 256 < c.cols
  | 5 => a.cols = 2 || 4096 < a.cols - 2
  | 6 => 65536 < a.cols
  | 7 => 65536 < d.cols
  | _ => 256 < a.cols || 65536 < c.cols

/-- IMM of Table 10.5. -/
def callImmBad (x : Insn) (id : Nat) : Bool :=
  2 ^ 16 ≤ x.imm0 || (match id with
    | 1 => !([0, 1, 2, 9, 10].contains (x.imm1 % 16)) || bits x.imm1 4 4 ≠ 0 || 2 ^ 9 ≤ x.imm1
    | 2 => 2 ^ 17 ≤ x.imm1
    | 5 => 2 ≤ x.imm1
    | 6 => x.imm1 % 4 = 0 || bits x.imm1 2 2 ≠ 0 || 2 ^ 5 ≤ x.imm1
    | 7 => 2 ≤ x.imm1
    | _ => false)

/-- ALIAS of Table 10.5; SORT may sort A in place. -/
def callAliasBad (m : List Byte) (x : Insn) (id : Nat) : Bool :=
  let rg (v : Nat) : List (Nat × Nat) := let d := tdescAt m v; d.ranges.map fun r => (d.addr + r.1, d.addr + r.1 + r.2)
  let hit (l k : List (Nat × Nat)) : Bool := l.any fun p => k.any fun q => p.1 < q.2 && q.1 < p.2
  let src := if id = 2 then [x.a] else [x.a, x.b, x.c].filter (· ≠ 0xFF)
  let dst := x.writes
  let inPlace := id = 1 && rg x.a = rg x.d
  (!inPlace && dst.any fun v => src.any fun w => hit (rg v) (rg w))
    || (2 ≤ dst.length && hit (rg (dst.getD 0 0)) (rg (dst.getD 1 0)))
    || (match argBlock x with
      | some b => dst.any fun v => hit (rg v) [b]
      | none => false)

/-- The first reason of Table 10.5 that a call fails for. -/
def callReason (m : List Byte) (x : Insn) : Option Nat :=
  let id := x.imm0 % 2 ^ 16
  let sp (v : Nat) : Nat := (tdescAt m v).space
  let given := [x.d, x.a, x.b, x.c].filter (· ≠ 0xFF)
  let src := if id = 2 then [x.a].filter (· ≠ 0xFF) else [x.a, x.b, x.c].filter (· ≠ 0xFF)
  if id = 0 || 8 < id then some 1
  else if given.any (fun v => sp v = 1) || src.any (fun v => sp v = 3) || x.writes.any (fun v => sp v = 2) then some 2
  else if callFormatBad m x id then some 3
  else if callShapeBad m x id then some 4
  else if callLimitBad m x id then some 5
  else if callImmBad x id then some 6
  else if callAliasBad m x id then some 7
  else if id = 4 && (x.imm1 % 16 ≠ 0 || 2 ^ 21 < x.imm1 + 16) then some 8
  else if 2 ≤ x.rnd then some 9
  else none

/-- CALL: the first call that fails, with its reason in [31:22]. -/
def callCheck (m : List Byte) : Option ObjBad :=
  (modInsns m).findSome? fun x =>
    if x.2.op = 0x30 then (callReason m x.2).map fun r => .code (0xE + x.1 * 2 ^ 8 + r * 2 ^ 22) else none

/-! ## OVERLAP (0x0F) -/

/-- An instruction writes an area of the tile store. -/
def writesArea (m : List Byte) (lo hi : Nat) (x : Insn) : Bool :=
  (x.accesses m).any fun a => !a.hbm && a.wr && a.lo < hi && lo < a.hi

/-- OVERLAP of an action in a variant: two bodies for the tile, or a write to the staging area of the step before. -/
def overlapBad (m : List Byte) (a : ActionRec) (mod : List Byte) (v : Nat) : Option ObjBad :=
  let bodies := (bodiesIn m v a.step).filter fun b => b.1 = a.unit
  if 1 < bodies.length then some (bareErr 0xF)
  else
    let before := (prevSteps m a.step).flatMap fun p => (bodiesIn m v p).filter fun b => b.1 = a.unit
    let areas := before.flatMap fun b => (modBinds b.2).filterMap fun x =>
      if x.2.dir = 1 then (bindDesc b.2 x.1 1).map fun d => d.ranges.map fun r => (d.addr + r.1, d.addr + r.1 + r.2) else none
    match (modInsns mod).find? fun x => areas.flatten.any fun r => writesArea mod r.1 r.2 x.2 with
    | some x => some (itemErr 0xF x.1 0)
    | none => none

/-! ## Codec work of an action (R221) -/

/-- Dense bytes of the coded out-streams that the tiles of a Cupola produce in a step (R235). -/
def tileOutBytes (m : List Byte) (v c step : Nat) : Nat :=
  sumL (((bodiesIn m v step).filter fun b => b.1 / 32 = c).flatMap fun b =>
    (modBinds b.2).map fun x =>
      match bindDesc b.2 x.1 1, imgStream m x.2.sid with
      | some d, some r => if x.2.dir = 1 && r.coded then d.n / 32 * (blkBytes d.fmt + blkScale d.mx) else 0
      | _, _ => 0)

/-- Steps of the run of an action. -/
def actionSteps (m : List Byte) (a : ActionRec) : List Nat :=
  let o := actionObj m a
  let n := if a.kind = 1 then (descOf o).nsteps else if a.kind = 3 then leAt o 1 1
    else if a.kind = 4 then (if 0x100 ≤ a.unit then (jobOf o).nsteps else (xferOf o).steps) else 1
  runSteps m n a.step

/-- What a codec decodes for the engines of its Cupola and encodes for its tiles carries its cost over the window in a step of
an action's run (R221); such a plan is rejected through the action that brings the work (log 198). -/
def codecOver (m : List Byte) (a : ActionRec) (c : Nat) : Bool :=
  (actionVars m a).any fun v => (actionSteps m a).any fun i => imgWindow m < codecCost m (tileOutBytes m v c i) v c i

/-! ## The translation of an action's module (R255) -/

/-- The actions that reference the module of an action: one translation serves them all (R230). -/
def bodyRefs (m : List Byte) (a : ActionRec) : List ActionRec :=
  (imgActions m).filter fun b => b.kind = 2 && b.off = a.off && b.len = a.len

/-- A body with a coded out-stream. -/
def codedOut (m mod : List Byte) : Bool :=
  (modBinds mod).any fun b => b.2.dir = 1 && (match imgStream m b.2.sid with
    | some r => r.coded
    | none => false)

/-- The checks of Table 09.7 for an action that references a tick body, in order: those that depend on the tile are made for every
tile that the module is referenced for, before the next code (R230, R255). -/
def State.bodyCheck (s : State) (m : List Byte) (bank : Nat) (a : ActionRec) : Option ObjBad :=
  let mod := actionObj m a
  let refs := bodyRefs m a
  let forAll (f : ActionRec → Option ObjBad) : Option ObjBad := firstBad (refs.map f)
  if 255 < a.unit || modFormatBad mod 1 a.len then some (bareErr 1)
  else firstBad [bareIf (s.signatureBad mod) 2, bareIf (s.versionBad m mod) 3, encodingBad true mod, operandBad mod,
    firstItem mod 6 noItem noItem (fun i => insnPairBad mod (insnAt mod i)), fp64Bad mod,
    forAll fun b => s.localCheck mod (b.unit / 32), forAll fun b => streamCheck m b mod, flagDead mod, raceCheck mod,
    bareIf (refs.any fun b => ((actionVars m b).any fun v => imgWindow m < bodyBound m v b.step mod)
      || (codedOut m mod && codecOver m b (b.unit / 32))) 0xC,
    bareIf (refs.any fun b => s.imemBad m mod a bank (b.unit / 32)) 0xD, callCheck mod,
    forAll fun b => firstBad ((actionVars m b).map (overlapBad m b mod))]

end Sys2Proof.Machine
end

