-- ==== Sys2Proof/Machine/ObjCheck.lean ====
section
/-! DEFINITION. Load checks of update programs and passes (R279, R294, R295) and of codec jobs (R223). -/

namespace Sys2Proof.Machine

open Sys2Proof

/-! ## Update programs (R279, Table 11.3) -/

/-- Formats a class of descriptor admits. -/
def uFormatOk (cls f : Nat) : Bool :=
  if cls ≤ 1 then f ≤ 4 else if cls = 3 then f = fFP32 || f = fSPW96 else f = fFP32

/-- Values of INDEX that a class admits. -/
def uIndexOk (cls i : Nat) : Bool :=
  if cls = 1 then i < 2 else if cls = 2 then i < 3 else if cls = 3 then i < 8 else i = 0

/-- A descriptor outside Table 11.3. -/
def uDescBad (m : List Byte) (j : Nat) : Bool :=
  let o := modDescOff m + 32 * j
  let d := udescAt m j
  4 < d.cls || !uFormatOk d.cls d.fmt || !uIndexOk d.cls d.idx || leAt m (o + 3) 1 ≠ 0 || leAt m (o + 12) 20 ≠ 0
    || (if d.cls = 0 then d.off % 64 ≠ 0 || d.off < 0x40 else d.off ≠ 0) || (d.cls ≠ 4 && d.val ≠ 0)

/-- Temporaries that the instructions before position `i` write. -/
def tempsBefore (m : List Byte) (i : Nat) : List Nat :=
  ((uInsns m).filter fun x => x.1 < i).filterMap fun x =>
    match (uDescs m)[x.2.d]? with
    | some d => if d.cls = 3 then some d.idx else none
    | none => none

/-- An instruction outside R279: its opcode, queue or destination, or a temporary read before it is written. -/
def uInsnBad (m : List Byte) (x : Nat × Insn) : Bool :=
  let ds := uDescs m
  let cls (v : Nat) : Nat := ((ds[v]?).map UDesc.cls).getD 4
  !(x.2.op = 0x01 || isElementwise x.2.op) || x.2.q ≠ 0 || !(cls x.2.d = 0 || cls x.2.d = 3)
    || [x.2.a, x.2.b, x.2.c].any fun v => v ≠ 0xFF && cls v = 3 &&
      !(tempsBefore m x.1).contains (((ds[v]?).map UDesc.idx).getD 8)

/-- UPROG (0x22). -/
def uprogBad (m : List Byte) : Bool :=
  let t := (uDescs m).filter fun d => d.cls = 3
  32 < modNinsn m || modNbind m ≠ 0 || (List.range (modNdesc m)).any (uDescBad m)
    || t.any (fun d => t.any fun e => d.idx = e.idx && d.fmt ≠ e.fmt) || (uInsns m).any (uInsnBad m) || (uWritten m).isEmpty

/-- FP64 in an update program, or a service module. -/
def uFp64Bad (m : List Byte) : Option ObjBad :=
  if modSvc m then some (bareErr 7)
  else firstItem m 7 noItem noItem fun i =>
    let x := insnAt m i
    [x.d, x.a, x.b, x.c].any fun v => v ≠ 0xFF && (udescAt m v).fmt = fFP64

/-- OPERAND (0x05) of an instruction of an update program: R238 on formats. -/
def uOperandBad (m : List Byte) (x : Insn) : Bool :=
  let f := (udescAt m x.d).fmt
  (x.op = 0x01 || isElementwise x.op) && (f = fE8M0 || (isInt f && ((0x17 ≤ x.op && x.op ≤ 0x19) || x.rnd = 3)))

/-- The checks of Table 09.7 that an update program passes first (R295). -/
def State.uprogCheck (s : State) (img prog : List Byte) (len : Nat) : Option ObjBad :=
  if modFormatBad prog 2 len then some (bareErr 1)
  else firstBad [bareIf (s.signatureBad prog) 2, bareIf (s.versionBad img prog) 3, 
    encodingBad false prog,
    firstItem prog 5 noItem noItem (fun i => uOperandBad prog (insnAt prog i)), uFp64Bad prog]

/-! ## Passes (Table 11.6) -/

/-- FORMAT (0x21). -/
def passFormatBad (o : List Byte) (len : Nat) : Bool :=
  let p := passOf o
  len < 64 || len ≠ 64 + 16 * leAt o 2 2 || p.pass = 0 || 5 < p.pass || 2 ≤ leAt o 0x23 1 || leAt o 0x2C 20 ≠ 0
    || 2 ^ 57 ≤ leAt o 0x10 8 || 2 ^ 57 ≤ leAt o 0x18 8 || 2 ^ 20 ≤ leAt o 0x24 4
    || (leAt o 8 4 ≠ 0 && (p.pass = 1 || p.pass = 3)) || (leAt o 8 4 = 0 && leAt o 0xC 4 ≠ 0)
    || (p.pass ≠ 2 && (p.maxnorm ≠ 0 || p.wb)) || (p.out ≠ 0 && p.pass ≠ 3) || (p.norm ≠ 0 && 3 < p.pass)
    || (p.sid ≠ 0 && !p.wb && p.pass ≠ 4)
    || (List.range p.shards.length).any fun e => 2 ^ 59 ≤ leAt o (64 + 16 * e) 8 || 2 ^ 57 ≤ leAt o (72 + 16 * e) 8

/-- A threshold that is a positive finite number or +∞. -/
def maxnormOk (x : Nat) : Bool := 0 < x && x ≤ 0x7F800000

/-- LIMIT (0x23), with the total of items `x`. -/
def passLimitBad (p : Pass) (x : Nat) : Bool :=
  p.nsteps = 0 || p.chunkE = 0 || 2 ^ 24 < p.chunkE || (p.pass ≠ 3 && p.chunkE % 32 ≠ 0)
    || (if p.pass = 3 then !p.shards.isEmpty || p.npart = 0 || 8 < p.npart
        else p.shards.isEmpty || 256 < p.shards.length || p.npart ≠ 0)
    || p.nsteps * p.chunkE < x || (p.pass = 2 && !maxnormOk p.maxnorm)

/-- P of a shard, as its header holds it at load. -/
def State.headP (s : State) (seg : Nat) : Nat :=
  match s.vaEntry seg with
  | some x => s.peekN spHbm (x.2 + 0x14) 4
  | none => 0

/-- P by segment address of every pass of an image (Bank.parms). -/
def State.imageParms (s : State) (m : List Byte) : List (Nat × Nat) :=
  ((imgActions m).filter fun a => a.kind = 3).flatMap fun a =>
    (passOf (actionObj m a)).shards.map fun x => (x.seg, s.headP x.seg)

/-- Bytes of a segment that its streams need. -/
def segNeed (l : List UStream) (p : Nat) : Nat := (l.map fun y => y.1 + p * fmtBytes y.2).foldl max 64

/-- Operands of a shard. -/
def State.shardOperands (s : State) (m o : List Byte) (unit : Nat) (x : Shard) : List Operand :=
  let p := passOf o
  let n := s.headP x.seg
  let prog := if p.pass = 1 then normProg m o unit x.seg else passProg m o
  let need := segNeed (uStreams prog) n
  let g := max 1 (n * ((uGradFmt prog).map fmtBytes).getD 4)
  let r (va len : Nat) (rd wr mir : Bool) : Operand :=
    { va := va, len := len, rd := rd, wr := wr, mirror := mir, sparseOk := false }
  match p.pass with
  | 1 => [r x.seg need true false false, r x.grad g true false false]
  | 2 => [r x.seg need true true false, r x.grad g true false false]
  | 4 => [r x.seg 64 true false true, r x.grad need false true false]
  | _ => [r x.seg need false true true, r x.grad need true false false]

/-- The cells of a pass: partials and sums. -/
def passCells (p : Pass) : List Operand :=
  let r (va len : Nat) (wr : Bool) : Operand :=
    { va := va, len := len, rd := !wr, wr := wr, mirror := false, sparseOk := false }
  match p.pass with
  | 1 => [r p.norm 16 true]
  | 2 => [r p.norm 16 false]
  | 3 => [r p.norm (16 * p.npart) false, r p.out 16 true]
  | _ => []

/-- All operands of a pass. -/
def State.passOperands (s : State) (m o : List Byte) (unit : Nat) : List Operand :=
  ((passOf o).shards.flatMap (s.shardOperands m o unit)) ++ passCells (passOf o)

/-- A state, staging or gradient operand outside the Cupola (0x24). -/
def State.shardOutside (s : State) (m o : List Byte) (c : Nat) : Bool :=
  (passOf o).shards.any fun x => (s.shardOperands m o c x).any fun y => !s.inCupola c y

/-- OWNER (0x25). -/
def State.ownerBad (s : State) (o : List Byte) (c : Nat) : Bool :=
  (passOf o).shards.any fun x => match s.vaEntry x.seg with
    | some e => fstOwner (s.fstEntry e.1) ≠ 0x20 + c
    | none => true

/-- Payload of slice `k` of a write-behind (R291). -/
def wbBytes (prog : List Byte) (ps : List Nat) (chunk k : Nat) : Nat :=
  16 + sumL ((partsOf ps chunk k).map fun q =>
    sumL ((uWritten prog).map fun y => cdiv ((q.2.2 - q.2.1) * fmtBytes y.2) 16 * 16))

/-- STREAM (0x26). -/
def passStreamBad (m o : List Byte) (c : Nat) (ps : List Nat) : Bool :=
  let p := passOf o
  let need := ((List.range p.nsteps).map fun k => cdiv (wbBytes (passProg m o) ps p.chunkE k) 240).foldl max 0
  if p.pass = 2 && p.wb then
    (match imgStream m p.sid with
      | some r => r.coded || !r.origin || r.chunks < need
      | none => true) || originBad m c p.sid
  else if p.pass = 4 then
    (match imgStream m p.sid with
      | some r => r.coded || !r.terminal || r.sink ≠ 0x20 + c || r.chunks < need
      | none => true)
  else false

/-- Bytes per element that a descriptor counts in the Drum need (R294). -/
def needBytes (d : UDesc) : Nat := if d.cls = 1 then 12 else if d.cls = 0 || d.cls = 3 then fmtBytes d.fmt else 0

/-- Drum need of a pass (R294). -/
def passNeed (m o : List Byte) (c : Nat) : Nat :=
  let p := passOf o
  if 3 ≤ p.pass then 65536
  else if leAt o 8 4 ≠ 0 then 8192 * sumL ((uDescs (passProg m o)).map needBytes)
  else 8192 * (p.shards.map fun x => streamBytes (uStreams (normProg m o c x.seg)) + 12).foldl max 12

/-- The checks of a pass object, in the order of R295. -/
def State.passCheck (s : State) (m : List Byte) (a : ActionRec) : Option ObjBad :=
  let o := actionObj m a
  let p := passOf o
  let c := a.unit
  let prog := passProg m o
  let ps := p.shards.map fun x => s.headP x.seg
  let named := leAt o 8 4 ≠ 0 && p.pass ≠ 3
  firstBad [
    if a.len < 64 || 7 < c then some (.code 0x21) else none,
    if named then s.uprogCheck m prog (leAt o 0xC 4) else none,
    failIf (passFormatBad o a.len) 0x21,
    failIf (if named then uprogBad prog else p.pass = 2 || 4 ≤ p.pass) 0x22,
    failIf (passLimitBad p (if p.pass = 3 then p.npart else sumL ps)) 0x23,
    s.pinBad (s.passOperands m o c),
    failIf (s.shardOutside m o c) 0x24,
    failIf (s.ownerBad o c) 0x25,
    failIf (passStreamBad m o c ps) 0x26,
    failIf (!claimOk m a (leAt o 0x20 2) (0x20 + c) (passNeed m o c) p.nsteps) 0x27,
    failIf (overCost m a p.nsteps (fun v i => (uePasses m v c i).length) fun v i => ueCost m s.headP v c i) 0x28]

/-! ## Codec jobs (Table 08.5) -/

/-- HBM operands of an action. -/
def State.actionOperands (s : State) (m : List Byte) (a : ActionRec) : List Operand :=
  let o := actionObj m a
  if a.kind = 1 then (descOf o).operands
  else if a.kind = 2 then (hbmOperands o).map (·.2)
  else if a.kind = 3 then s.passOperands m o a.unit
  else if 0x100 ≤ a.unit then (jobOf o).operands
  else (xferOf o).operands

/-- The address ranges an action reads and writes. -/
def State.actionSpans (s : State) (m : List Byte) (a : ActionRec) : List Operand :=
  if a.kind = 4 && 0x100 ≤ a.unit then s.jobSpans (jobOf (actionObj m a)) else s.actionOperands m a

/-- OVERLAP (0x05): in a step of the run, DST overlaps an operand of another action. -/
def State.jobOverlap (s : State) (m : List Byte) (a : ActionRec) : Bool :=
  let dst := (s.actionSpans m a).filter Operand.wr
  (imgActions m).any fun b =>
    b ≠ a && (actionVars m a).any (fun v => varActs b.var v)
      && (actionSteps m b).any (fun i => (actionSteps m a).contains i)
      && (s.actionSpans m b).any fun o => dst.any fun d => meets d.va d.len o.va o.len

/-- The checks of a codec job, in the order of Table 08.5. -/
def State.codecCheck (s : State) (m : List Byte) (a : ActionRec) : Option ObjBad :=
  let o := actionObj m a
  let j := jobOf o
  let c := a.unit - 0x100
  if 0x107 < a.unit || codecFormatBad o a.len then some (.code 1)
  else if codecLimitBad j then some (.code 2)
  else firstBad [s.codecSegment c j, failIf (codecStreamBad m c j) 4, failIf (s.jobOverlap m a) 5,
    failIf (overCost m a j.nsteps
      (fun v i => (activeIn m 4 a.unit v i fun o => (jobOf o).nsteps).length)
      fun v i => codecCost m (tileOutBytes m v c i) v c i) 6]

end Sys2Proof.Machine
end

