-- ==== Sys2Proof/Machine/HbmLoad.lean ====
section
/-! DEFINITION. The HBM bytes that the actions of a step read and write (R304, R330). -/

namespace Sys2Proof.Machine

open Sys2Proof

/-- Ranges of virtual addresses that an action reads and writes in a step: first byte and count. -/
structure HbmLoad where
  reads : List (Nat × Nat)
  writes : List (Nat × Nat)
  deriving DecidableEq, Repr

/-! ## Granules written in part (R330) -/

/-- Ranges, as first byte and end, with those that meet or touch made one. -/
def joinRanges (l : List (Nat × Nat)) : List (Nat × Nat) :=
  ((l.filter fun x => x.2 ≠ 0).map fun x => (x.1, x.1 + x.2)).mergeSort (fun a b => a.1 ≤ b.1) |>.foldl (fun acc y =>
    match acc with
    | [] => [y]
    | x :: r => if y.1 ≤ x.2 then (x.1, max x.2 y.2) :: r else y :: acc) []

/-- Granules that ranges cover only in part. -/
def partGranules (l : List (Nat × Nat)) : List Nat :=
  ((joinRanges l).flatMap fun x => (if x.1 % 64 = 0 then [] else [x.1 / 64]) ++ if x.2 % 64 = 0 then [] else [x.2 / 64]).eraseDups

/-- Bytes that a claim counts of an action's writes: 128 for every granule written only in part, in place of the bytes written
to it (R330; log 212). -/
def writeLoad (l : List (Nat × Nat)) : Nat :=
  let g := partGranules l
  128 * g.length + sumL (l.map fun x => x.2 - sumL (g.map fun i => min (x.1 + x.2) (64 * i + 64) - max x.1 (64 * i)))

/-- Bytes of a load on an interface. -/
def State.loadOn (s : State) (l : HbmLoad) (st : Nat) : Nat :=
  let here (x : Nat × Nat) : Bool := stackOf (s.vaLoc x.1) = st
  sumL ((l.reads.filter here).map (·.2)) + writeLoad (l.writes.filter here)

/-- A load has an operand on an interface. -/
def State.loadMeets (s : State) (l : HbmLoad) (st : Nat) : Bool := (l.reads ++ l.writes).any fun x => stackOf (s.vaLoc x.1) = st

/-! ## Collective engines -/

/-- Elements `a` to `a + n - 1` of a dense operand of `total` elements, with their scales under MX. -/
def elemRanges (f : Nat) (mx : Bool) (total va a n : Nat) : List (Nat × Nat) :=
  let lo := a * fmtBits f / 8
  (va + lo, packedLen f (a + n) - lo)
    :: if mx then [(va + mxScaleOff f total + a / 32, cdiv (a + n) 32 - a / 32)] else []

/-- The parts of a member's result that a step writes: first element and count (R175, log 19). -/
def Desc.resultParts (d : Desc) (rank k : Nat) : List (Nat × Nat) :=
  let flat := d.treeSlice 0 k
  if d.op = 2 then d.roots.map fun r => d.treeSlice r k
  else if d.op = 3 then [((d.treeSlice rank k).1 - rank * d.shard, (d.treeSlice rank k).2)]
  else if d.op = 4 then d.roots.map fun r => (r * d.e + flat.1, flat.2)
  else if d.op = 6 then [(k * d.chunkE * d.p0, d.rowsIn (min d.e (d.p1 / 65536) * d.n) k * d.p0)]
  else if d.op = 7 then [(k * d.chunkE * d.p0, d.rowsIn d.p1 k * d.p0)]
  else if d.op = 8 then [(flat.1 * d.p0, flat.2 * d.p0)]
  else [flat]

/-- Elements of a member's result tensor. -/
def Desc.resultTotal (d : Desc) : Nat :=
  if d.op = 6 then min d.e (d.p1 / 65536) * d.n * d.p0 else if d.op = 7 then d.p1 * d.p0
  else if d.op = 8 then d.e * d.p0 else d.resultLen

/-- Load of slice `k` of a descriptor: the operand bytes of its cost, and its results. -/
def Desc.load (d : Desc) (hosted : List Member) (k : Nat) : HbmLoad :=
  let l := (matchBinds (d.needs hosted) d.binds).filter fun x => 3 ≤ x.2.kind
  { reads := l.map fun x => (x.2.val, d.needBytes x.1 k)
    writes := l.flatMap fun x =>
      match x.1.role with
      | .result =>
        if d.op = 9 || d.op = 10 then [(x.2.val, d.backLen 0 k)]
        else if d.op = 12 then [(x.2.val + (d.treeSlice 0 k).1 * d.rowLen, d.backLen 0 k)]
        else (d.resultParts x.1.rank k).flatMap fun p => elemRanges d.outFmt d.outMx d.resultTotal x.2.val p.1 p.2
      | .counts => [(x.2.val, if k + 1 = d.nsteps then 4 * d.n else 0)]
      | _ => [] }

/-! ## Tiles -/

/-- Ranges of a descriptor as a body's cost counts them: a block-sparse operand by its dense size. -/
def TDesc.loadRanges (d : TDesc) : List (Nat × Nat) :=
  (if d.layout = 1 then [(0, d.size)] else d.ranges).map fun r => (d.addr + r.1, r.2)

/-- Rows moved by a GATHER or a SCATTER, which names them by index: as many of a table, from the first (R237; log 212). -/
def TDesc.rowLoad (d : TDesc) (n : Nat) : List (Nat × Nat) :=
  (List.range n).flatMap fun i =>
    let r := i % max 1 d.rows
    (d.addr + r * d.ld, d.rowBytes) :: if d.mx then [(d.addr + d.soff + r * d.rowScales, d.rowScales)] else []

/-- Load of an instruction. -/
def Insn.load (m : List Byte) (x : Insn) : HbmLoad :=
  let at_ (f : TDesc → List (Nat × Nat)) (v : Nat) : List (Nat × Nat) :=
    match opDesc m v with
    | some d => if d.hbm then f d else []
    | none => []
  let whole := at_ TDesc.loadRanges
  let rows (v r : Nat) := at_ (TDesc.rowLoad · (tdescAt m r).rows) v
  if x.op = 0x03 then { reads := rows x.a x.d ++ whole x.c, writes := whole x.d }
  else if x.op = 0x04 then
    { reads := whole x.a ++ whole x.c ++ if x.imm0 % 4 = 0 then [] else rows x.d x.a, writes := rows x.d x.a }
  else if isFence x.op || isFlagOp x.op then { reads := [], writes := [] }
  else { reads := x.reads.flatMap whole, writes := x.writes.flatMap whole }

/-- Load of a body. -/
def bodyLoad (m : List Byte) : HbmLoad :=
  let l := (modInsns m).map fun x => x.2.load m
  { reads := l.flatMap HbmLoad.reads, writes := l.flatMap HbmLoad.writes }

/-! ## Update engines -/

/-- Parameters `a` to `b` of the streams of a segment. -/
def streamRanges (l : List UStream) (base a b : Nat) : List (Nat × Nat) :=
  l.map fun y => (base + y.1 + a * fmtBytes y.2, (b - a) * fmtBytes y.2)

/-- Load of a part of a slice: entry, first parameter and end. Tag and headers count as the cost counts them (log 126). -/
def partLoad (m o : List Byte) (unit : Nat) (ps : List Nat) (q : Nat × Nat × Nat) : HbmLoad :=
  let p := passOf o
  match p.shards[q.1]? with
  | none => { reads := [], writes := [] }
  | some x =>
    let prog := if p.pass = 1 then normProg m o unit x.seg else passProg m o
    let first : Bool := q.2.1 = 0
    let last : Bool := q.2.2 = ps.getD q.1 0
    let grad := match uGradFmt prog with
      | some f => [(x.grad + q.2.1 * fmtBytes f, (q.2.2 - q.2.1) * fmtBytes f)]
      | none => []
    let head := if first then [(x.grad - 64, 6), (x.seg, 64)] else []
    let str (l : List UStream) (va : Nat) := streamRanges l va q.2.1 q.2.2
    match p.pass with
    | 1 => { reads := head ++ grad ++ str (uStreams prog) x.seg, writes := [] }
    | 2 => { reads := head ++ grad ++ str (uStreams prog) x.seg, writes := (x.seg, 16) :: (x.seg, 16) :: str (uWritten prog) x.seg }
    | 4 => { reads := [], writes := (x.grad, 16) :: (x.grad, 16) :: str (uWritten prog) x.grad }
    | _ =>
      { reads := (if first then [(x.grad, 64)] else []) ++ (if last then [(x.grad, 64)] else []) ++ str (uWritten prog) x.grad
        writes := (if last then [(x.seg, 64)] else []) ++ str (uWritten prog) x.seg }

/-- Load of slice `k` of a pass, its cells included. -/
def passHbm (m o : List Byte) (unit : Nat) (ps : List Nat) (k : Nat) : HbmLoad :=
  let p := passOf o
  let last : Bool := k + 1 = p.nsteps
  let l := (partsOf ps p.chunkE k).map (partLoad m o unit ps)
  let reads := l.flatMap HbmLoad.reads
  let writes := l.flatMap HbmLoad.writes
  match p.pass with
  | 1 => { reads := reads, writes := if last then (p.norm, 16) :: writes else writes }
  | 2 => { reads := if k = 0 then (p.norm, 16) :: reads else reads, writes := writes }
  | 3 =>
    let sl := sliceOf p.npart p.chunkE k
    { reads := [(p.norm + 16 * sl.1, 16 * sl.2)], writes := if last then [(p.out, 16)] else [] }
  | _ => { reads := reads, writes := writes }

/-! ## Codecs and stack movers -/

/-- Load of slice `k` of a job: the dense bytes of its blocks, on either side (R221). -/
def Job.load (j : Job) (k : Nat) : HbmLoad :=
  let b := j.blocks k
  let on (va : Nat) := elemRanges j.f j.mx j.e va (32 * b.1) (32 * b.2)
  { reads := if j.job = 2 then [] else on j.src, writes := if j.job = 1 then [] else on j.dst }

/-- Load of a transfer in the k-th step of its run (R316). -/
def Xfer.load (x : Xfer) (k : Nat) : HbmLoad :=
  let sl := if x.op = 2 then (if k = 0 then (0, 0) else x.slice (k - 1)) else x.slice k
  { reads := if x.op = 2 then [] else [(x.src + sl.1, sl.2)], writes := if x.op = 1 then [] else [(x.dst + sl.1, sl.2)] }

/-! ## Actions -/

/-- Load of an action of variant `v` in slice `k` of its run. -/
def State.actionLoad (s : State) (m : List Byte) (a : ActionRec) (v k : Nat) : HbmLoad :=
  let o := actionObj m a
  match a.kind with
  | 1 => (descOf o).load ((descOf o).hosted (imgExtent m) (imgVarRole m v)) k
  | 2 => bodyLoad o
  | 3 => passHbm m o a.unit ((passOf o).shards.map fun x => s.headP x.seg) k
  | _ => if 0x100 ≤ a.unit then (jobOf o).load k else (xferOf o).load k

end Sys2Proof.Machine
end

