-- ==== Sys2Proof/Machine/PlanCheck.lean ====
section
/-! DEFINITION. The load checks of a plan image (Table 04.7), FORMAT to VARIANT, in order. -/

namespace Sys2Proof.Machine

open Sys2Proof

/-! ## The record of a failed check (Table 04.8) -/

/-- PLAN_ERR: code, directory index, record index, and the fields of Table 04.7. -/
structure PlanErr where
  code : Nat
  sec : Nat := 0
  idx : Nat := 0
  step : Nat := 0
  link : Nat := 0
  detail : Nat := 0
  owner : Nat := 0
  deriving DecidableEq, Repr

/-- The first failure of a list of checks. -/
def firstErr {α : Type} (f : α → Option PlanErr) : List α → Option PlanErr
  | [] => none
  | x :: l => match f x with
    | some e => some e
    | none => firstErr f l

/-- The first failed condition of a list: its offset. -/
def firstOff (l : List (Bool × Nat)) : Option Nat := (l.find? fun x => x.1).map (·.2)

/-- Bytes of a range are not all zero: the offset of the first. -/
def nonzeroIn (m : List Byte) (a n : Nat) : Option Nat := (filterRange n fun i => leAt m (a + i) 1 ≠ 0).head?.map (a + ·)

/-! ## 0x01 FORMAT -/

/-- Record size of a section type of fixed record size (Table 04.3). -/
def recSize (ty : Nat) : Nat := if ty = 3 || ty = 4 then 8 else 16

/-- Header fields (Table 04.2). -/
def headOff (m : List Byte) (len : Nat) : Option Nat :=
  firstOff [(imgMagic m ≠ 0x4C504B54, 0x00), (imgFmt m ≠ 1, 0x04), (imgLen m ≠ len, 0x78),
    (imgNsec m = 0 || 1024 < imgNsec m || len < 0x80 + 16 * imgNsec m, 0x06),
    (imgSteps m = 0 || 2 ^ 24 < imgSteps m, 0x10), (imgSteps m ≤ imgLoopTo m, 0x14),
    (imgPerU m < 8 || 256 < imgPerU m, 0x18), (imgG16 m < 4 || 128 < imgG16 m, 0x1A),
    (imgNvar m = 0 || 64 < imgNvar m, 0x1B), (2048 < imgSlackExt m, 0x24), (2048 < imgSlackD2d m, 0x26)]

/-- Bytes of `n` VARIANT records from an offset (R102). -/
def variantLen (m : List Byte) : Nat → Nat → Nat
  | 0, _ => 0
  | n + 1, o => let r := 8 + 4 * leAt m (o + 1) 1; r + variantLen m n (o + r)

/-- A directory entry breaks R101, R102 or Table 04.3. -/
def sectionBad (m : List Byte) (len : Nat) (x : Section) : Bool :=
  x.ty = 0 || 8 < x.ty || x.off % 64 ≠ 0 || len < x.off + x.len
    || (if x.ty = 2 || x.ty = 3 then 3 < x.keep else x.keep ≠ 0xFF)
    || (if x.ty = 1 || x.ty = 4 || x.ty = 8 then x.var ≠ 0xFF
        else if x.ty = 5 || x.ty = 7 then 63 < x.var && x.var ≠ 0xFF
        else 63 < x.var || (x.ty = 6 && x.var = 0))
    || (if x.ty = 8 then x.count ≠ 0
        else if x.ty = 6 then x.len < 8 * x.count || x.len ≠ variantLen m x.count x.off
        else x.len ≠ recSize x.ty * x.count)

/-- Two sections are the same instance where Table 04.3 limits instances. -/
def sameInstance (x y : Section) : Bool :=
  x.ty = y.ty && (x.ty = 1 || x.ty = 4 || (x.ty = 6 && x.var = y.var)
    || ((x.ty = 2 || x.ty = 3) && x.var = y.var && x.keep = y.keep))

/-- UNIT lies in the range that KIND admits (R107). -/
def unitOk (kind unit : Nat) : Bool :=
  match kind with
  | 1 => unit < 16
  | 2 => unit < 256
  | 3 => unit < 8
  | 4 => unit < 16 || (0x100 ≤ unit && unit ≤ 0x107)
  | _ => true

/-- Record fields outside their stated ranges: the byte offset. -/
def recordOff (m : List Byte) (len ty o : Nat) : Option Nat :=
  let n := imgSteps m
  let st := leAt m o 3
  match ty with
  | 2 => firstOff [(n ≤ st, o), (leAt m (o + 6) 2 = 0, o + 6)]
  | 3 => firstOff [(n ≤ st, o), (2048 < leAt m (o + 4) 2, o + 4)]
  | 4 => firstOff [(n ≤ st, o), (15 < leAt m (o + 3) 1, o + 3)]
  | 5 => firstOff [(n ≤ st, o), (!unitOk (leAt m (o + 3) 1) (leAt m (o + 4) 2), o + 4),
      (len < leAt m (o + 8) 4 + leAt m (o + 12) 4, o + 8)]
  | 6 => firstOff [(leAt m (o + 1) 1 = 0 || 32 < leAt m (o + 1) 1, o + 1)]
  | 7 =>
    let last := leAt m (o + 4) 3
    let pages := leAt m (o + 8) 2
    firstOff [(n ≤ st, o), (n ≤ last || last < st, o + 4), (pages = 0 || 512 < pages, o + 8)]
  | _ => none

/-- The byte offset of record `i` of a section. -/
def recordAt (m : List Byte) (x : Section) (i : Nat) : Nat :=
  x.off + (if x.ty = 6 then variantLen m i x.off else recSize x.ty * i)

/-- The records of a section with their byte offsets. -/
def recordsIn (m : List Byte) (x : Section) : List (Section × Nat × Nat) :=
  if x.ty = 8 then [] else (List.range x.count).map fun i => (x, i, recordAt m x i)

/-- All records of the image in directory order. -/
def allRecords (m : List Byte) : List (Section × Nat × Nat) := (imgSections m).flatMap (recordsIn m)

/-- Records of a section type. -/
def recordsOf (m : List Byte) (ty : Nat) : List (Section × Nat × Nat) := (sectionsOf m ty).flatMap (recordsIn m)

/-- FORMAT. -/
def State.formatCheck (s : State) (m : List Byte) (base len : Nat) : Option PlanErr :=
  if len < 0x80 then some { code := 1 }
  else match headOff m len with
    | some o => some { code := 1, detail := o }
    | none =>
      if 2 ^ 40 < base + len || s.meetsSystem base len || s.meetsOverflow base len then some { code := 1 }
      else
        let l := imgSections m
        match firstErr (fun (x : Section) =>
            if sectionBad m len x || (l.take x.idx).any (sameInstance x) then
              some { code := 1, sec := x.idx, detail := 0x80 + 16 * x.idx } else none) l with
        | some e => some e
        | none =>
          if (sectionsOf m 1).isEmpty || (sectionsOf m 4).isEmpty then some { code := 1, detail := 0x80 }
          else firstErr (fun (r : Section × Nat × Nat) =>
            (recordOff m len r.1.ty r.2.2).map fun o => { code := 1, sec := r.1.idx, idx := r.2.1, detail := o })
              (allRecords m)

/-! ## 0x02 CRC -/

/-- CRC. -/
def crcCheck (m : List Byte) : Option PlanErr :=
  let c := crc32c (m.take 0x7C ++ List.replicate 4 0 ++ m.drop 0x80)
  if c = imgCrc m then none else some { code := 2, detail := c }

/-! ## 0x03 RESERVED -/

/-- A link that carries scheduled flits: endpoint, torus, Keep–Keep or Keep–Cupola (Table 02.4). -/
def schedLink (l : Nat) : Bool := l < 0x16 || (0x20 ≤ l && l < 0x26) || (0x40 ≤ l && l < 0x60)

/-- A Keep has an end of a link. -/
def keepHas (k l : Nat) : Bool :=
  if l < 0x16 then keepOfLink l = k
  else if l < 0x26 then
    let p := ([(0, 1), (0, 2), (0, 3), (1, 2), (1, 3), (2, 3)] : List (Nat × Nat)).getD (l - 0x20) (0, 1)
    p.1 = k || p.2 = k
  else (l - 0x40) / 8 = k

/-- Reserved bits or directions of a fault key (R108). -/
def keyBad (key : Nat) : Bool := 2 ^ 19 ≤ key || (if bit key 15 then 5 < bits key 16 3 else bits key 16 3 ≠ 0)

/-- Reserved fields and encodings of a record: the byte offset. -/
def reservedOff (m : List Byte) (x : Section) (o : Nat) : Option Nat :=
  let b (i n : Nat) : Nat := leAt m (o + i) n
  match x.ty with
  | 1 =>
    let sink := b 5 1
    firstOff [(2 ^ 20 ≤ b 0 4, o + 2), (8 ≤ b 4 1, o + 4),
      (!(sink = 0xFF || (bit (b 4 1) 1 && (sink ≤ 0x27 || (0x30 ≤ sink && sink ≤ 0x3F)))), o + 5),
      (b 6 2 ≠ 0 && !bit (b 4 1) 0, o + 6), (2 ^ 18 ≤ b 8 4, o + 10), (b 12 4 ≠ 0, o + 12)]
  | 2 =>
    let out := b 3 1
    firstOff [(!schedLink out || !keepHas x.keep out, o + 3),
      (if bit (b 5 1) 1 then b 4 1 ≠ 0xFF else !schedLink (b 4 1), o + 4), (4 ≤ b 5 1, o + 5),
      (2 ^ 20 ≤ b 8 4, o + 10), (2 ^ 20 ≤ b 12 4, o + 14)]
  | 3 => firstOff [(!schedLink (b 3 1) || !keepHas x.keep (b 3 1), o + 3), (b 6 2 ≠ 0, o + 6)]
  | 5 => firstOff [(b 3 1 = 0 || 4 < b 3 1, o + 3), (b 6 2 ≠ 0, o + 6)]
  | 6 => firstOff ((b 4 4 ≠ 0, o + 4) :: (List.range (b 1 1)).map fun j => (keyBad (b (8 + 4 * j) 4), o + 8 + 4 * j))
  | 7 => firstOff [(!(b 3 1 < 0x10 || (0x20 ≤ b 3 1 && b 3 1 ≤ 0x27)), o + 3), (b 7 1 ≠ 0, o + 7)]
  | _ => none

/-- ERR_STEP and ERR_LINK of a record: its STEP or FIRST, and its OUT, interface, UNIT or VAR. -/
def recordPlace (m : List Byte) (ty o : Nat) : Nat × Nat :=
  match ty with
  | 1 => (0, 0)
  | 5 => (leAt m o 3, 0)
  | 6 => (0, leAt m o 1)
  | _ => (leAt m o 3, leAt m (o + 3) 1)

/-- RESERVED. -/
def reservedCheck (m : List Byte) : Option PlanErr :=
  match firstOff (([(2 ^ 15 ≤ imgCoord m, 0x1D), (2 ^ 15 ≤ imgExtent m, 0x1F)] : List (Bool × Nat))
      ++ ([nonzeroIn m 0x22 2, nonzeroIn m 0x2C 76].filterMap id).map fun o => (true, o)) with
  | some o => some { code := 3, detail := o }
  | none => firstErr (fun (r : Section × Nat × Nat) =>
      (reservedOff m r.1 r.2.2).map fun o =>
        let p := recordPlace m r.1.ty r.2.2
        { code := 3, sec := r.1.idx, idx := r.2.1, step := p.1, link := p.2, detail := o }) (allRecords m)

/-! ## 0x04 PLACE, 0x05 STREAM -/

/-- PLACE. -/
def State.placeCheck (s : State) (m : List Byte) : Option PlanErr :=
  if imgCoord m = s.coord && imgExtent m = s.extent then none
  else some { code := 4, detail := s.coord + s.extent * 65536 }

/-- A slot record with its section and index. -/
structure SlotAt where
  sec : Nat
  idx : Nat
  r : SlotRec

/-- Slot records in directory order. -/
def slotAts (m : List Byte) : List SlotAt :=
  (recordsOf m 2).map fun r => { sec := r.1.idx, idx := r.2.1, r := slotRecAt m r.1 r.2.2 }

/-- An error of a slot record. -/
def SlotAt.err (x : SlotAt) (code detail : Nat) : PlanErr :=
  { code := code, sec := x.sec, idx := x.idx, step := x.r.step, link := x.r.out, detail := detail }

/-- STREAM. -/
def streamsCheck (m : List Byte) : Option PlanErr :=
  let sids := (imgStreams m).map StreamRec.sid
  match firstErr (fun (r : Section × Nat × Nat) =>
      let sid := (streamRecAt m r.2.2).sid
      if (sids.take r.2.1).contains sid then some { code := 5, sec := r.1.idx, idx := r.2.1, detail := sid } else none)
      (recordsOf m 1) with
  | some e => some e
  | none => firstErr (fun x => if sids.contains x.r.sid then none else some (x.err 5 x.r.sid)) (slotAts m)

/-! ## 0x06 CONFLICT, 0x07 WINDOW, 0x08 OPEN_MIN, 0x09 CHUNKS (R98, R109) -/

/-- Two slot records claim on one output in one step of one variant. -/
def sameOutput (a b : SlotRec) : Bool := a.var = b.var && a.keep = b.keep && a.step = b.step && a.out = b.out

/-- Claims: slot records other than RECV records. -/
def claimAts (m : List Byte) : List SlotAt := (slotAts m).filter fun x => !x.r.recv

/-- CONFLICT: the later record, and the lowest flit time that it claims again. -/
def conflictCheck (m : List Byte) : Option PlanErr := go [] (claimAts m)
where
  go (seen : List SlotRec) : List SlotAt → Option PlanErr
    | [] => none
    | x :: l =>
      let hits := (seen.filter fun y => sameOutput x.r y && meets x.r.ft x.r.count y.ft y.count).map
        fun y => max x.r.ft y.ft
      match minL hits with
      | some ft => some (x.err 6 (if x.r.ft = 0 then 0 else ft))
      | none => if x.r.ft = 0 then some (x.err 6 0) else go (x.r :: seen) l

/-- WINDOW. -/
def windowCheck (m : List Byte) : Option PlanErr :=
  match firstErr (fun x =>
      let lim := flitTimes x.r.out (imgWindow m - slackOf m x.r.var x.r.step x.r.keep x.r.out)
      if lim < x.r.ft + x.r.count then some (x.err 7 (max x.r.ft lim)) else none) (claimAts m) with
  | some e => some e
  | none => firstErr (fun (r : Section × Nat × Nat) =>
      let w := refreshRecAt m r.2.2
      if imgWindow m < w.start + w.len then
        some { code := 7, sec := r.1.idx, idx := r.2.1, step := w.step, link := w.iface, detail := w.start + w.len }
      else none) (recordsOf m 4)

/-- Claims that R98 admits on an output. -/
def claimLimit (m : List Byte) (l : Nat) : Nat :=
  let n := flitTimes l (imgPeriod m)
  n - 1 - cdiv n 32

/-- OPEN_MIN: the record that carries the count over. -/
def openMinCheck (m : List Byte) : Option PlanErr := go [] (claimAts m)
where
  go (seen : List SlotRec) : List SlotAt → Option PlanErr
    | [] => none
    | x :: l =>
      let cnt := x.r.count + sumL ((seen.filter fun y => sameOutput x.r y).map SlotRec.count)
      if claimLimit m x.r.out < cnt then
        some (x.err 8 (sumL (((claimAts m).filter fun y => sameOutput x.r y.r).map fun y => y.r.count)))
      else go (x.r :: seen) l

/-- CHUNKS: on every hop and step of a stream, sending and receiving. -/
def chunksCheck (m : List Byte) : Option PlanErr :=
  let all := (slotAts m).map SlotAt.r
  firstErr (fun x =>
    let g := all.filter fun y => sameOutput x.r y && y.recv = x.r.recv && y.sid = x.r.sid
    let o := sumL ((g.filter fun y => !y.ovf).map SlotRec.count)
    let f := sumL ((g.filter fun y => y.ovf).map SlotRec.count)
    let bad := 2 ^ 18 < o + f || (match imgStream m x.r.sid with
      | some r => r.coded && (if x.r.recv then o + f ≠ r.chunks + r.ovf else o ≠ r.chunks || f ≠ r.ovf)
      | none => false)
    if bad then some (x.err 9 x.r.sid) else none) (slotAts m)

/-! ## 0x0A FLOW -/

/-- Flit times of records in the order in which chunks take them: ordinary runs, then overflow runs (R109). -/
def flowTimes (l : List SlotRec) : List Nat := runTimes (l.filter fun r => !r.ovf) ++ runTimes (l.filter fun r => r.ovf)

/-- The Turret from which a claim forwards: its IN, or over a Keep–Keep link the IN of the claim that feeds that link in
the same step (R22: one such link). A Keep–Cupola IN is an origin. -/
def flowSource (all : List SlotRec) (r : SlotRec) : Option Nat :=
  if r.inp < 0x16 then some r.inp
  else if r.inp < 0x40 then
    (all.find? fun y => !y.recv && y.var = r.var && y.step = r.step && y.out = r.inp && y.keep ≠ r.keep && y.sid = r.sid
      && y.inp < 0x16).map SlotRec.inp
  else none

/-- Flits sent at given times on an output do not answer the arrivals of a step on a link (R111). -/
def flowBad (all : List SlotRec) (r : SlotRec) (src : Option Nat) (i : Nat) : Bool :=
  let sends := flowTimes (all.filter fun y => !y.recv && sameOutput r y && y.inp = r.inp && y.sid = r.sid)
  match src with
  | none => true
  | some l =>
    let arr := flowTimes (all.filter fun y => y.recv && y.var = r.var && y.step = i && y.out = l && y.sid = r.sid)
    arr.length ≠ sends.length || (List.range sends.length).any fun j =>
      flitOffset r.out (sends.getD j 0) < flitOffset l (arr.getD j 0) + 64

/-- Flits of a stream that does not end here, or that ends at an endpoint of this module, arrive in a step and no hop sends them in
the next (R111). -/
def flowLost (m : List Byte) (all : List SlotRec) (r : SlotRec) : Bool :=
  (match imgStream m r.sid with
    | some x => !x.terminal || x.sink < 0x10
    | none => false)
    && !all.any fun y => !y.recv && y.var = r.var && y.step = imgNext m r.step && y.sid = r.sid && flowSource all y = some r.out

/-- FLOW, of each hop that forwards a stream, and of each arrival to be forwarded. -/
def flowCheck (m : List Byte) : Option PlanErr :=
  let all := (slotAts m).map SlotAt.r
  firstErr (fun x =>
    let bad := if x.r.recv then flowLost m all x.r
      else x.r.inp < 0x40 && (prevSteps m x.r.step).any (flowBad all x.r (flowSource all x.r))
    if bad then some (x.err 10 x.r.sid) else none) (slotAts m)

/-- The partial of a child does not arrive in the steps whose flits step `k` of the run consumes: slice `k` of it, a merged run
whole in the last step, and of a coded stream the stream's own chunks (R44, R175; log 19). -/
def foldMisplaced (m : List Byte) (a : ActionRec) (d : Desc) (v k : Nat) (x : Need × Bind) : Bool :=
  let steps := runSteps m d.nsteps a.step
  let from_ := if k = 0 then prevSteps m a.step else [steps.getD (k - 1) 0]
  let len := d.foldLen x.1.root x.1.rank k
  let coded := ((imgStream m x.2.val).map StreamRec.coded).getD false
  let wrong (n : Nat) : Bool := if coded then (n = 0) ≠ (len = 0) else n ≠ cdiv len 240
  if from_.isEmpty then len ≠ 0 else from_.any fun i => wrong (recvCount m v i x.2.val)

/-- FLOW, of the partials of children: the placement that R175 asks for. -/
def foldCheck (m : List Byte) : Option PlanErr :=
  firstErr (fun a =>
    let o := actionObj m a
    let d := descOf o
    if a.kind ≠ 1 || ceFormatBad o a.len || ceGroupBad d (imgExtent m) then none
    else firstErr (fun v =>
      let h := d.hosted (imgExtent m) (imgVarRole m v)
      firstErr (fun x =>
        if x.1.role ≠ .childIn then none
        else ((List.range d.nsteps).find? fun k => foldMisplaced m a d v k x).map fun k =>
          { code := 10, sec := a.sec, idx := a.idx, step := (runSteps m d.nsteps a.step).getD k a.step, link := a.unit
            detail := x.2.val })
        (matchBinds (d.needs h) d.binds)) (actionVars m a))
    (imgActions m)

/-! ## 0x0B LANDING, 0x0C SLOT_CAP -/

/-- Flits that arrive at a Keep's Turrets in a step of a variant, by link. -/
def arrivals (m : List Byte) (v k i : Nat) : List (Nat × Nat) :=
  ((imgSlots m).filter fun r => r.recv && r.out < 0x16 && r.var = v && r.keep = k && r.step = i).map fun r => (r.out, r.count)

/-- Landing bytes of two consecutive steps (R112). -/
def landPair (m : List Byte) (v k i : Nat) : Nat :=
  256 * (sumL ((arrivals m v k i).map (·.2)) + sumL ((arrivals m v k (imgNext m i)).map (·.2)))

/-- The landing need of a Keep (R112). -/
def landNeed (m : List Byte) (k : Nat) : Nat :=
  ((List.range (imgNvar m)).map fun v => ((List.range (imgSteps m)).map fun i => landPair m v k i).foldl max 0).foldl max 0

/-- LANDING against the Keeps' LAND_MAX: the lowest variant, Keep and step, and the lowest Turret with arrivals. -/
def landingCheck (limits : List Nat) (m : List Byte) : Option PlanErr :=
  firstErr (fun (x : Nat × Nat) =>
    (firstErr (fun i =>
      let n := landPair m x.1 x.2 i
      if limits.getD x.2 0 * 65536 < n then
        let l := arrivals m x.1 x.2 i ++ arrivals m x.1 x.2 (imgNext m i)
        some { code := 11, step := i, link := (minL (l.map (·.1))).getD 0, detail := n }
      else none) (List.range (imgSteps m))))
    ((List.range (imgNvar m)).flatMap fun v => (List.range 4).map fun k => (v, k))

/-- Compiled records of a Keep: its slot and slack records in every variant. -/
def slotUsed (m : List Byte) (k : Nat) : Nat :=
  sumL (((imgSections m).filter fun x => (x.ty = 2 || x.ty = 3) && x.keep = k).map Section.count)

/-- SLOT_CAP. -/
def slotCapCheck (m : List Byte) : Option PlanErr :=
  firstErr (fun k => if 262144 < slotUsed m k then some { code := 12, link := k, detail := slotUsed m k } else none)
    (List.range 4)

/-! ## 0x0D REFRESH (R302–R304) -/

/-- Refresh windows of an interface in a step, in ascending START. -/
def windowsOf (m : List Byte) (st i : Nat) : List RefreshRec :=
  ((imgRefreshes m).filter fun r => r.iface = st && r.step = i).mergeSort fun a b => a.start ≤ b.start

/-- Window cc of an interface in a step. -/
def windowCc (m : List Byte) (st i : Nat) : Nat := sumL ((windowsOf m st i).map RefreshRec.len)

/-- Rounds of an interface in eight consecutive steps from a step on. -/
def rounds8 (m : List Byte) (st i : Nat) : Nat := sumL ((runSteps m 8 i).map fun j => windowCc m st j / 320)

/-- The gap after the windows of a step exceeds 19,305 cc: steps are followed until the next window. -/
def gapFrom (m : List Byte) (st : Nat) : Nat → Nat → Nat → Bool
  | 0, gap, _ => 19305 < gap
  | n + 1, gap, j =>
    if 19305 < gap then true
    else match windowsOf m st j with
      | w :: _ => 19305 < gap + w.start
      | [] => gapFrom m st n (gap + imgPeriod m) (imgNext m j)

/-- A gap within or after a step exceeds the bound (R303). -/
def gapBad (m : List Byte) (st i : Nat) : Bool :=
  let w := windowsOf m st i
  (w.zip (w.drop 1)).any (fun x => x.1.start + x.1.len + 19305 < x.2.start)
    || (match w.getLast? with
      | some x => gapFrom m st 12 (imgPeriod m - (x.start + x.len)) (imgNext m i)
      | none => false)

/-- Whether the object of an action passes its owner's checks. -/
def State.objCheck (s : State) (m : List Byte) (bank : Nat) (a : ActionRec) : Option ObjBad :=
  match a.kind with
  | 1 => firstBad [s.ceCheck m a,
      failIf (!(codedIns m (descOf (actionObj m a)) ((descOf (actionObj m a)).hosted (imgExtent m) (actionRole m a))).isEmpty
        && codecOver m a (a.unit / 2)) 8]
  | 2 => s.bodyCheck m bank a
  | 3 => s.passCheck m a
  | _ => if 0x100 ≤ a.unit then s.codecCheck m a else s.xferCheck m a

/-- ERR_OWNER of an action (R111). -/
def ownerOf (a : ActionRec) : Nat := if a.kind = 4 && 0x100 ≤ a.unit then 5 else a.kind

/-- The step cost of an action's unit in a step and variant (R173, R221, R255, R274, R317). -/
def State.unitCost (s : State) (m : List Byte) (v : Nat) (a : ActionRec) (i : Nat) : Nat :=
  match a.kind with
  | 1 => ceCost m v a.unit i
  | 2 => bodyBound m v i (actionObj m a)
  | 3 => ueCost m s.headP v a.unit i
  | _ => if 0x100 ≤ a.unit then codecCost m (tileOutBytes m v (a.unit - 0x100) i) v (a.unit - 0x100) i
    else xferCost m v a.unit i

/-- HBM loads of a step and variant from a list of actions, each with its unit's step cost. -/
def State.stepLoads (s : State) (m : List Byte) (acts : List ActionRec) (v i : Nat) : List (HbmLoad × Nat) :=
  (acts.filter fun a => varActs a.var v).flatMap fun a =>
    let steps := actionSteps m a
    ((List.range steps.length).filter fun k => steps.getD k (2 ^ 32) = i).map fun k => (s.actionLoad m a v k, s.unitCost m v a i)

/-- The HBM claim of a step on an interface in cc (R304). -/
def State.claimCc (s : State) (m : List Byte) (acts : List ActionRec) (v i st : Nat) : Nat :=
  cdiv (sumL ((s.stepLoads m acts v i).map fun x => s.loadOn x.1 st)) 640

/-- An action overlaps a refresh window (R304). -/
def State.overlapAt (s : State) (m : List Byte) (acts : List ActionRec) (v i st : Nat) : Bool :=
  let l := (s.stepLoads m acts v i).filter fun x => s.loadMeets x.1 st
  let win := windowCc m st i
  !l.isEmpty && (imgWindow m < s.claimCc m acts v i st + win || l.any fun x => imgWindow m < x.2 + win)

/-- REFRESH. -/
def State.refreshCheck (s : State) (bank : Nat) (m : List Byte) : Option PlanErr :=
  match firstErr (fun (r : Section × Nat × Nat) =>
      let w := refreshRecAt m r.2.2
      if w.len = 0 || w.len % 320 ≠ 0 then
        some { code := 13, sec := r.1.idx, idx := r.2.1, step := w.step, link := w.iface } else none) (recordsOf m 4) with
  | some e => some e
  | none =>
    let steps := List.range (imgSteps m)
    match firstErr (fun st => firstErr (fun i =>
        if rounds8 m st i < cdiv (8 * imgPeriod m) 2145 || gapBad m st i then
          some { code := 13, step := i, link := st } else none) steps) (List.range 16) with
    | some e => some e
    | none =>
      let acts := (imgActions m).filter fun a => (s.objCheck m bank a).isNone
      firstErr (fun i => firstErr (fun st =>
        if (List.range (imgNvar m)).any fun v => s.overlapAt m acts v i st then some { code := 13, step := i, link := st }
        else none) (List.range 16)) steps

/-! ## 0x0E DRUM (R192–R194) -/

/-- DRUM error of a claim record. -/
def Claim.err (c : Claim) (step : Nat) : PlanErr :=
  { code := 14, sec := c.sec, idx := c.idx, step := step, link := c.unit, detail := c.owner }

/-- Records that share a CLAIM_ID break R193: the later one. -/
def claimIdCheck : List Claim → List Claim → Option PlanErr
  | _, [] => none
  | seen, c :: l =>
    if seen.any fun x => x.id = c.id && (x.unit ≠ c.unit || x.pages ≠ c.pages || x.owner ≠ c.owner
        || (x.first ≤ c.last && c.first ≤ x.last)) then some (c.err c.first)
    else claimIdCheck (c :: seen) l

/-- Claimable pages of a Drum (R192). -/
def State.claimable (s : State) (c : Nat) : Nat := 512 - s.rd (pgDrum c) Drm.WIN_CUR

/-- The claim whose addition first carries a Drum over. -/
def overClaim : List Claim → Nat → Nat → Option Claim
  | [], _, _ => none
  | c :: l, tot, cap => if cap < tot + c.pages then some c else overClaim l (tot + c.pages) cap

/-- DRUM. -/
def State.drumCheck (s : State) (m : List Byte) : Option PlanErr :=
  let vars := List.range (imgNvar m)
  match firstErr (fun v => claimIdCheck [] (varClaims m v)) vars with
  | some e => some e
  | none =>
    let steps := (((imgClaims m).map Claim.first).eraseDups).mergeSort fun a b => a ≤ b
    firstErr (fun i => firstErr (fun c => firstErr (fun v =>
      (overClaim ((varClaims m v).filter fun x => x.drum = c && x.live i) 0 (s.claimable c)).map fun x => x.err i)
        vars) (List.range 8)) steps

/-- Largest pages claimed of a Drum in any step (PEAK). -/
def drumPeak (m : List Byte) (c : Nat) : Nat :=
  ((List.range (imgNvar m)).flatMap fun v => ((imgClaims m).map Claim.first).map fun i => claimedPages m v c i).foldl max 0

/-- Placement of a variant's claims: each on the lowest free pages (R194). -/
def placeClaims : List Claim → List (Claim × List Nat) → List (Claim × List Nat)
  | [], done => done
  | c :: l, done =>
    let used := (done.filter fun x => x.1.drum = c.drum && x.1.first ≤ c.last && c.first ≤ x.1.last).flatMap (·.2)
    placeClaims l (done ++ [(c, ((List.range 512).filter fun p => !used.contains p).take c.pages)])

/-- Pages of the claims of a variant, in ascending FIRST, then record order. -/
def placed (m : List Byte) (v : Nat) : List (Claim × List Nat) :=
  placeClaims ((varClaims m v).mergeSort fun a b => a.first ≤ b.first) []

/-! ## 0x0F OBJECT and 0x11 PIN -/

/-- The first operand whose PIN would pass 65,535 (R314): FST entry and VA of each, beside the entries pinned so far. -/
def State.pinOver (s : State) : List Nat → List (Nat × Nat) → Option Nat
  | _, [] => none
  | pins, (i, va) :: l =>
    if 65535 < fstPin (s.fstEntry i) + (pins.filter (· = i)).length + 1 then some va else s.pinOver (i :: pins) l

/-- OBJECT or PIN error of an action. -/
def ActionRec.err (a : ActionRec) (code detail : Nat) : PlanErr :=
  { code := code, sec := a.sec, idx := a.idx, step := a.step, link := a.unit % 256, detail := detail, owner := ownerOf a }

/-- OBJECT: the first object that fails its own chapter's checks. -/
def State.objectsCheck (s : State) (m : List Byte) (bank : Nat) : Option PlanErr :=
  firstErr (fun a => match s.objCheck m bank a with
    | some (.code d) => some (a.err 15 d)
    | _ => none) (imgActions m)

/-- PIN: the operands of each object pin once (R314), with the FST entries pinned so far. -/
def State.pinsGo (s : State) (m : List Byte) (bank : Nat) : List ActionRec → List ActionRec → List Nat → PlanErr ⊕ List Nat
  | _, [], pins => .inr pins
  | seen, a :: l, pins =>
    match s.objCheck m bank a with
    | some (.pin va) => .inl (a.err 17 va)
    | _ =>
      if seen.any fun b => b.kind = a.kind && b.off = a.off && b.len = a.len then s.pinsGo m bank (a :: seen) l pins
      else
        let ops := (s.actionOperands m a).filterMap fun o => (s.pinEntry o).map fun i => (i, o.va)
        match s.pinOver pins ops with
        | some va => .inl (a.err 17 (va % 2 ^ 32))
        | none => s.pinsGo m bank (a :: seen) l (pins ++ ops.map (·.1))

/-! ## 0x10 VARIANT (R102, R108, R113) -/

/-- The collection of a step: pairs of KIND and object bytes, as a sorted list. -/
def collection (m : List Byte) (v i : Nat) : List (Nat × List Byte) :=
  ((imgActions m).filter fun a => varActs a.var v && a.step = i).map fun a => (a.kind, actionObj m a)

/-- Two collections agree as multisets. -/
def sameBag (a b : List (Nat × List Byte)) : Bool := a.length = b.length && a.all fun x => a.count x = b.count x

/-- VARIANT. -/
def variantCheck (m : List Byte) : Option PlanErr :=
  let n := imgNvar m
  match firstErr (fun (x : Section) =>
      if x.var ≠ 0xFF && n ≤ x.var then some { code := 16, sec := x.idx, link := x.var }
      else if x.ty = 6 && x.count ≠ 1 then some { code := 16, sec := x.idx, link := x.var }
      else if x.ty = 6 && leAt m x.off 1 ≠ x.var then some { code := 16, sec := x.idx, link := leAt m x.off 1 }
      else none) (imgSections m) with
  | some e => some e
  | none =>
    match firstErr (fun v => if v = 0 || (imgVariants m).any fun r => r.var = v then none else some { code := 16, link := v })
        (List.range n) with
    | some e => some e
    | none =>
      let steps := (((imgActions m).map ActionRec.step).eraseDups).mergeSort fun a b => a ≤ b
      firstErr (fun v =>
        let role := imgVarRole m v
        if 0x8000 ≤ role then none
        else match (List.range v).find? fun u => imgVarRole m u = role with
          | none => none
          | some u => firstErr (fun i =>
              if sameBag (collection m u i) (collection m v i) then none else some { code := 16, step := i, link := v }) steps)
        (List.range n)

/-! ## All checks -/

/-- The checks of Table 04.7 in order: the first failure, or the FST entries to pin. -/
def State.planCheck (s : State) (m : List Byte) (j : PlanJob) : PlanErr ⊕ List Nat :=
  match s.formatCheck m j.base j.len with
  | some e => .inl e
  | none =>
    match crcCheck m with
    | some e => .inl e
    | none =>
      match firstErr (fun (f : List Byte → Option PlanErr) => f m) [reservedCheck, s.placeCheck, streamsCheck, conflictCheck,
          windowCheck, openMinCheck, chunksCheck, flowCheck, foldCheck, landingCheck j.limits, slotCapCheck, s.refreshCheck j.bank,
          s.drumCheck,
          (s.objectsCheck · j.bank), variantCheck] with
      | some e => .inl e
      | none => s.pinsGo m j.bank [] (imgActions m) []

end Sys2Proof.Machine
end

