-- ==== Sys2Proof/Machine/Domains.lean ====
section
/-! DEFINITION. The 349 power domains: their numbers and wake times, what keeps them awake, and the power state each takes at
a boundary (R402, R424–R426). -/

namespace Sys2Proof.Machine

open Sys2Proof

/-! ## Domains (Tables 17.2 and 18.3) -/

/-- The number of domains. -/
def domCount : Nat := 349

/-- The page whose LAT_TOL and HOLD_ON a domain follows. -/
def domPage (d : Nat) : PageId :=
  if d < 256 then pgTile d
  else if d < 272 then pgCe (d - 256)
  else if d < 280 then pgUe (d - 272)
  else if d < 288 then pgDrum (d - 280)
  else if d < 304 then pgHbm (d - 288)
  else if d < 320 then pgLink (d - 304)
  else if d < 332 then pgLink (16 + (d - 320) / 2)
  else if d = 332 then pgHost
  else pgKeep ((d - 333) / 4)

/-- The wake time from P2 in µs. -/
def domWakeUs (d : Nat) : Nat :=
  if d < 280 then 40
  else if d < 288 then 100
  else if d < 304 then 200
  else if d < 320 then 2000
  else if d < 332 then 20000
  else if d = 332 then 5000
  else 1000

/-- The domain has a state P1: tiles, collective engines, update engines. -/
def domHasP1 (d : Nat) : Bool := d < 280

/-- The domains of a page, in sub-domain order. -/
def pageDomains (p : PageId) : List Nat :=
  let d := pageDomain p
  if d = 0x1FF then []
  else if p.ty = 0x0020 then [d, d + 1, d + 2, d + 3]
  else if p.ty = 0x0011 then [d, d + 1]
  else [d]

/-- CUR of a page (R402): a torus Turret's shallower group; 0 for a Keep and for a page without a domain. -/
def State.pageCur (s : State) (p : PageId) : Nat :=
  if p.ty = 0x0020 then 0
  else match (pageDomains p).map s.domState with
    | [] => 0
    | [a] => a
    | a :: b :: _ => if a = 2 then b else if b = 2 then a else min a b

/-- SUB_OFF of a page with several domains. -/
def State.pageSubOff (s : State) (p : PageId) : Nat :=
  match pageDomains p with
  | [] | [_] => 0
  | l => sumL ((List.range l.length).map fun i => if s.domState (l.getD i 0) = 2 then 2 ^ i else 0)

/-! ## Zeroed memories -/

/-- `n` bytes of a space zeroed with valid codes. -/
def State.zeroRange (s : State) (sp off n : Nat) : State :=
  let a := cellAddr sp off
  { s with
    mem := s.mem.filter fun c => !(a ≤ c.1 && c.1 < a + n)
    arrays := { s.arrays with
      symErr := s.arrays.symErr.filter fun x => !(x.1.1 = sp && off ≤ 64 * x.1.2 && 64 * x.1.2 < off + n)
      corrected := s.arrays.corrected.filter fun x => !(x.1 = sp && off ≤ 64 * x.2 && 64 * x.2 < off + n) } }

/-- What a domain lost in P2 is zeroed during its wake (Table 18.3). -/
def State.domZero (s : State) (d : Nat) : State :=
  if d < 256 then
    let s1 := (s.zeroRange spTile (d * 2 ^ 21) (2 ^ 21)).zeroRange spCode (d * 2 ^ 17) (2 ^ 17)
    s1.setTile d { s1.tile d with fetch := none, shadow := none, copy := none }
  else if 280 ≤ d && d < 288 then s.zeroRange spDrum ((d - 280) * 2 ^ 25) (2 ^ 25)
  else s

/-! ## What needs a domain (R425, R426) -/

/-- Stacks on which a set of FST entries lies. -/
def State.pinStacks (s : State) (l : List Nat) : List Nat :=
  (l.map s.fstEntry).filterMap fun e => if fstSpace e = 0 then some (stackOf (fstLbase e)) else none

/-- A plan image names a domain: by an action record, a Drum claim, an operand pinned on a stack, or code kept in the system
region of one of a Cupola's stacks (log 31). -/
def State.imageNames (s : State) (m : List Byte) (pins : List Nat) (d : Nat) : Bool :=
  if d < 256 then (imgActions m).any fun a => a.kind = 2 && a.unit = d
  else if d < 272 then (imgActions m).any fun a => a.kind = 1 && a.unit = d - 256
  else if d < 280 then (imgActions m).any fun a => a.kind = 3 && a.unit = d - 272
  else if d < 288 then (imgClaims m).any fun c => c.drum = d - 280
  else if d < 304 then
    (s.pinStacks pins).contains (d - 288)
      || (imgActions m).any fun a => (a.kind = 4 && a.unit = d - 288) || (a.kind = 2 && a.unit / 32 = (d - 288) / 2)
  else false

/-- A READY or ACTIVE bank names a domain. -/
def State.bankNames (s : State) (d : Nat) : Bool :=
  [0, 1].any fun b => (s.bankState b = 2 || s.bankState b = 3) &&
    (match s.bank b with
      | some x => s.imageNames x.image x.pins d
      | none => false)

/-- The domain that holds the target of a memory request which waits here. -/
def requestDomain (f : Flit) (loc : Nat × Nat) : Option Nat :=
  if f.kind ≠ 1 then none
  else if loc.1 = 0 then some (288 + stackOf loc.2)
  else if loc.1 = 1 then some (loc.2 / 2 ^ 21)
  else if loc.1 = 2 then some (280 + loc.2 / 2 ^ 25)
  else none

/-- Space and offset that a request names here, as far as it can be told before its checks. -/
def State.requestLoc (s : State) (f : Flit) : Nat × Nat :=
  let r := reqOf f
  if r.virt then
    match s.fstFind (vaLog r.addr) (vaOff r.addr) with
    | some i => (fstSpace (s.fstEntry i), fstLocal (s.fstEntry i) (vaOff r.addr))
    | none => (3, 0)
  else (faSpace r.addr, faOff r.addr)

/-- An open-plane access to a domain waits. -/
def State.accessWaits (s : State) (d : Nat) : Bool :=
  s.waiting.any fun f => requestDomain f (s.requestLoc f) = some d

/-- The plan in force gives a unit work in the current tick. -/
def State.unitWorks (s : State) (kind unit : Nat) : Bool :=
  s.runs.any (fun r => r.kind = kind && r.unit = unit) ||
    (match s.imageOf s.planTick with
      | some m => s.planTick.runs && (unitActions m kind unit s.planTick.var).any fun a => a.step = s.planTick.step
      | none => false)

/-- Work of a domain with a state P1. -/
def State.domWorks (s : State) (d : Nat) : Bool :=
  if d < 256 then (s.tile d).body.isSome || s.unitWorks 2 d
  else if d < 272 then s.unitWorks 1 (d - 256)
  else s.unitWorks 3 (d - 272)

/-- An overflow region of a Keep that holds spilled flits lies on a stack (R129). -/
def State.spilledOn (s : State) (st : Nat) : Bool :=
  (List.range 4).any fun k => s.ovfUsed k ≠ 0 &&
    meets (s.rd (pgKeep k) Opn.OVF_BASE) (s.rd (pgKeep k) Opn.OVF_SIZE) (64 * st) 64

/-- A Keep holds no cell, no landing region and no replay window. -/
def State.keepHollow (s : State) (k : Nat) : Bool :=
  s.poolUsed k = 0 && AL.getD s.opn.landing (k, 0) 0 = 0 && AL.getD s.opn.landing (k, 1) 0 = 0
    && (keepLinks k).all (fun l => s.windowCells l = 0 && (List.range 8).all fun v => s.inputCells l v = 0)
    && (List.range (keepOuts k)).all fun o => (List.range 8).all fun v => (s.queue k o v).sramCells = 0

/-- Bank `b` of Keep `k` is empty: every bank of a Keep that holds nothing; else, where the other powered banks can hold all
occupied cells, as an open value says, since no rule places cells in banks (log 32). -/
def State.keepBankEmpty (s : State) (k b : Nat) : Bool :=
  s.keepHollow k || (s.occupied k ≤ 262144 * s.banksOn k b && Config.openValue [32, s.now, k, b] % 2 = 1)

/-- The conditions of R426 for P2. -/
def State.mayP2 (s : State) (d : Nat) : Bool :=
  if d < 288 then !s.bankNames d && !s.accessWaits d && !(d < 256 && (s.tile d).body.isSome)
  else if d < 304 then !s.bankNames d && !s.accessWaits d && !s.spilledOn (d - 288)
  else if d < 320 then s.lstate (d - 304) = 0 || s.lstate (d - 304) = 6
  else if d < 332 then s.lstate (16 + (d - 320) / 2) = 0 || s.lstate (16 + (d - 320) / 2) = 6
  else if d = 332 then !s.rdb pgHost Mac.LINK_UP
  else s.keepBankEmpty ((d - 333) / 4) ((d - 333) % 4)

/-- HOLD_ON of a domain's page is clear and its LAT_TOL allows a wake from P2. -/
def State.tolerates (s : State) (d : Nat) : Bool :=
  !s.rdb (domPage d) Hdr.HOLD_ON && domWakeUs d ≤ s.rd (domPage d) Hdr.LAT_TOL

/-- The same for P1, whose wake is one tick. -/
def State.toleratesP1 (s : State) (d : Nat) : Bool :=
  !s.rdb (domPage d) Hdr.HOLD_ON && s.period ≤ 1100 * s.rd (domPage d) Hdr.LAT_TOL

/-- The deepest state that a domain may take (R424). -/
def State.deepest (s : State) (d : Nat) : Nat :=
  if s.tolerates d && s.mayP2 d then 2
  else if domHasP1 d && s.toleratesP1 d && !s.domWorks d && !s.accessWaits d then 1
  else 0

/-! ## Changes of state -/

/-- A domain enters P2: a Drum's window is written back before, a stack goes to self-refresh. -/
def State.sleepDom (s : State) (d : Nat) : State :=
  if 280 ≤ d && d < 288 then (s.atomFlush (d - 280)).setDom d 2
  else if 288 ≤ d && d < 304 && s.rd (pgHbm (d - 288)) Hbm.HSTATE = 2 then (s.wr (pgHbm (d - 288)) Hbm.HSTATE 3).setDom d 2
  else s.setDom d 2

/-- The power-down of a Keep buffer bank is requested or not (R122). -/
def State.askBank (s : State) (d : Nat) (on : Bool) : State :=
  let l := s.power.asked.filter (· ≠ d)
  { s with power := { s.power with asked := if on then d :: l else l } }

/-- One domain placed at a boundary. A Keep buffer bank that its page allows P2 and that is not empty yet is asked to power down
(R122, log 32). -/
def State.placeDom (s : State) (d : Nat) : State :=
  let was := s.domState d
  if was = 3 || s.siteDown d then s
  else
    let v := s.deepest d
    let s1 := if 333 ≤ d then s.askBank d (was < 2 && v ≠ 2 && s.tolerates d) else s
    if was = 2 then (if v = 2 then s1 else s1.wakeDom d)
    else if v = 2 then s1.sleepDom d
    else if v = was then s1 else s1.setDom d v

/-- Every domain placed at a boundary (R424). -/
def State.placeDoms (s : State) : State := (List.range domCount).foldl State.placeDom s

/-- The domains of a page wake where HOLD_ON is set or LAT_TOL no longer allows P2. -/
def State.wakePage (s : State) (p : PageId) : State :=
  ((pageDomains p).filter fun d => !s.tolerates d).foldl State.wakeDom s

/-- The domains of a page wake: EN set after being clear. -/
def State.wakeEn (s : State) (p : PageId) : State := (pageDomains p).foldl State.wakeDom s

/-- The wake of a domain ends (R426): its length is recorded, what it lost is zeroed, a stack leaves self-refresh, a link may
train. -/
def State.wakeDone (s : State) (d : Nat) : State :=
  if s.domState d = 3 then
    let cc := s.clock - AL.getD s.power.wakeAt d s.clock
    let us := min (cc / 1100) 65535
    let s1 := (s.domZero d).setDom d 0
    let s2 := { s1 with power := { s1.power with wakeUs := AL.put s1.power.wakeUs d us, wakeAt := AL.del s1.power.wakeAt d } }
    let s3 := s2.bump pgButtress But.DOM_WAKES
    let s4 := if domWakeUs d * 1100 < cc then s3.err pgButtress 4 else s3
    if 288 ≤ d && d < 304 && s4.rd (pgHbm (d - 288)) Hbm.HSTATE = 3 then s4.wr (pgHbm (d - 288)) Hbm.HSTATE 2
    else if 304 ≤ d && d < 320 then s4.downLink (d - 304)
    else if 320 ≤ d && d < 332 then s4.downLink (16 + (d - 320) / 2)
    else s4
  else s

/-- The domains that a plan image names and that are not powered: those in P2 start to wake, and a load waits for all. -/
def State.sleepers (s : State) (m : List Byte) (pins : List Nat) : List Nat :=
  (s.power.doms.filter fun x => 2 ≤ x.2 && s.imageNames m pins x.1).map (·.1)

end Sys2Proof.Machine
end

