-- ==== Sys2Proof/Machine/HostMac.lean ====
section
/-! DEFINITION. The host attachment of Keep 3: policing, ingress buffers, PFC, reassembly, ECN marking and egress
scheduling (R131–R139, R384, R385). -/

namespace Sys2Proof.Machine

open Sys2Proof

/-- An update of the host MAC's state. -/
def State.setHost (s : State) (h : HostMac) : State := { s with host := h }

/-- Keep 3's page, which holds the host-attachment registers. -/
def pgK3 : PageId := pgKeep 3

/-! ## Frames -/

/-- The frame carries an 802.1Q tag. -/
def tagged (fr : List Byte) : Bool := beAt fr 12 2 = 0x8100

/-- PCP of a frame: that of its tag, or DEF_PCP (R134, R135). -/
def State.framePcp (s : State) (fr : List Byte) : Nat :=
  if tagged fr then beAt fr 14 2 / 8192 else s.rd pgK3 Hst.DEF_PCP

/-- Offset of the EtherType. -/
def etypeAt (fr : List Byte) : Nat := if tagged fr then 16 else 12

/-- The EtherType of a frame with at most one tag. -/
def etype (fr : List Byte) : Nat := beAt fr (etypeAt fr) 2

/-- The list with the byte at a position replaced. -/
def setByte (l : List Byte) (i v : Nat) : List Byte := setAt l i (BitVec.ofNat 8 v)

/-- A frame with its FCS recomputed. -/
def refcs (fr : List Byte) : List Byte :=
  let b := fr.take (fr.length - 4)
  b ++ leBytes 4 (crc32 b)

/-- ECN marking of a frame (R131): ECT to CE with the IPv4 checksum updated under RFC 1624; none where it does not
apply. -/
def ecnMark (fr : List Byte) : Option (List Byte) :=
  let o := etypeAt fr + 2
  if etype fr = 0x0800 then
    let ihl := (fr.getD o 0).toNat % 16 * 4
    let hdr := slice fr o ihl
    let tos := (fr.getD (o + 1) 0).toNat
    let ecn := tos % 4
    if (fr.getD o 0).toNat / 16 ≠ 4 || ihl < 20 || hdr.length ≠ ihl || foldCarry (onesSum hdr) ≠ 0xFFFF then none
    else if ecn = 1 || ecn = 2 then
      let oldSum := beAt fr (o + 10) 2
      let oldWord := beAt fr o 2
      let newWord := oldWord - ecn + 3
      let newSum := 65535 - foldCarry ((65535 - oldSum) + (65535 - oldWord) + newWord)
      let f1 := setByte fr (o + 1) (tos - ecn + 3)
      some (refcs (setByte (setByte f1 (o + 10) (newSum / 256)) (o + 11) (newSum % 256)))
    else none
  else if etype fr = 0x86DD then
    let b1 := (fr.getD (o + 1) 0).toNat
    let ecn := b1 / 16 % 4
    if (fr.getD o 0).toNat / 16 ≠ 6 || fr.length < o + 40 then none
    else if ecn = 1 || ecn = 2 then some (refcs (setByte fr (o + 1) (b1 - ecn * 16 + 48)))
    else none
  else none

/-! ## Weighted queues (R131, R134, R139) -/

/-- Weighted queue `q`. -/
def State.wq (s : State) (q : Nat) : List WFrame := AL.getD s.host.weighted q []

/-- The state with a weighted queue replaced. -/
def State.setWq (s : State) (q : Nat) (l : List WFrame) : State :=
  s.setHost { s.host with weighted := AL.put s.host.weighted q l }

/-- Cells of a weighted queue. -/
def wqCells (l : List WFrame) : Nat := sumL (l.map fun f => frameCells f.bytes.length)

/-- The tag increment ⌈L × 256 / w⌉ of a frame (R139); a weight of 0, which Table 05.2 does not admit, acts as 1. -/
def State.tagInc (s : State) (q len : Nat) : Nat := cdiv (len * 256) (max 1 (s.rd pgK3 Hst.WFQ_W q))

/-- Frames of a queue tagged from a start tag on (R139). -/
def State.retag (s : State) (q : Nat) : Nat → List WFrame → List WFrame
  | _, [] => []
  | st, f :: l =>
    let fin := (st + s.tagInc q f.bytes.length) % 2 ^ 48
    { f with start := st, fin := fin } :: s.retag q fin l

/-- A frame placed in a weighted queue, marked and tagged; beyond QCAP, with no cells for it in the pool or the link not up it is
dropped (R131, R134, R139; log 207). `cm`: a flit of the frame arrived with CM. -/
def State.weightedPut (s : State) (q : Nat) (fr : List Byte) (cm : Bool) : State :=
  let l := s.wq q
  let n := frameCells fr.length
  if !s.rdb pgHost Mac.LINK_UP || s.rd pgK3 Hst.QCAP q < wqCells l + n || !s.poolHas 3 n then
    (s.bump pgK3 Hst.EG_DROP).err pgK3 22
  else
    let want := s.rdb pgK3 Hst.ECN_EN && (s.rd pgK3 Hst.ECN_THRESH ≤ wqCells l || (s.rdb pgK3 Hst.ECN_CM && cm))
    let made := if want then ecnMark fr else none
    let st := match l.getLast? with
      | some f => f.fin
      | none => s.host.vt
    let f : WFrame := ⟨made.getD fr, st, (st + s.tagInc q fr.length) % 2 ^ 48⟩
    let s1 := s.setWq q (l ++ [f])
    if made.isSome then s1.bump pgK3 Hst.ECN_MARKED else s1

/-! ## Pauses (R137) -/

/-- Priority `p` is paused by the host. -/
def State.pausedRx (s : State) (p : Nat) : Bool := (AL.get s.host.pauseEnd p).isSome

/-- cc of a number of pause quanta: 512 bit times of 1.6 Tb/s at 1.1 GHz, 44/125 cc each. -/
def quantaCc (q : Nat) : Nat := cdiv (q * 44) 125

/-- The pause of a priority ends: its weighted queue is retagged from V (R139). -/
def State.endPause (s : State) (p : Nat) : State :=
  if s.pausedRx p then
    let s1 := s.setHost { s.host with pauseEnd := AL.del s.host.pauseEnd p }
    s1.setWq p (s1.retag p s1.host.vt (s1.wq p))
  else s

/-- A PFC frame received: priority enable vector and quanta per priority (R137). -/
def State.pfcReceive (s : State) (enable : Nat) (quanta : List Nat) : State :=
  (List.range 8).foldl (fun t p =>
    if bit enable p && bit (t.rd pgK3 Hst.PFC_RX_EN) p then
      let q := quanta.getD p 0
      if q = 0 then t.endPause p
      else t.setHost { t.host with pauseEnd := AL.put t.host.pauseEnd p (t.clock + quantaCc q) }
    else t) s

/-- PFC_FRAME_RECEIVE (R137). -/
def execPfcFrameReceive (enable : Nat) (quanta : List Nat) (s : State) : Host.Outcome State Fault Refusal :=
  .next (s.pfcReceive enable quanta)

/-- PAUSE_EXPIRY: the pause's quanta have passed (R137). -/
def State.pauseExpiry (s : State) (p : Nat) : State :=
  match AL.get s.host.pauseEnd p with
  | some t => if t ≤ s.clock then s.endPause p else s
  | none => s

/-- PAUSE_EXPIRY (R137). -/
def execPauseExpiry (p : Nat) (s : State) : Host.Outcome State Fault Refusal := .next (s.pauseExpiry p)

/-! ## Buckets (R135, R138) -/

/-- Tokens of a bucket now: rate tokens each cc, never beyond burst × 8,800 (R135). -/
def Bucket.level (b : Bucket) (now rate burst : Nat) : Nat := min (b.tokens + rate * (now - b.since)) (burst * 8800)

/-- An empty bucket at clock 0 (log 16). -/
def Bucket.zero : Bucket := ⟨0, 0⟩

/-- Level of the policer bucket of a priority. -/
def State.polLevel (s : State) (p : Nat) : Nat :=
  (AL.getD s.host.police p Bucket.zero).level s.clock (s.rd pgK3 Hst.POL_RATE p) (s.rd pgK3 Hst.POL_BURST p)

/-- Level of the shaper bucket of a strict queue. -/
def State.shpLevel (s : State) (q : Nat) : Nat :=
  (AL.getD s.host.shape q Bucket.zero).level s.clock (s.rd pgK3 Hst.SHP_RATE q) (s.rd pgK3 Hst.SHP_BURST q)

/-- Buckets brought to the current clock, so that a change of rate or depth acts from now on. -/
def State.settleBuckets (s : State) : State :=
  s.setHost { s.host with
    police := (List.range 8).map fun p => (p, ⟨s.polLevel p, s.clock⟩)
    shape := (List.range 3).map fun q => (q, ⟨s.shpLevel q, s.clock⟩) }

/-! ## Ingress (R133, R135, R136) -/

/-- Ingress buffer of a priority. -/
def State.ing (s : State) (p : Nat) : List IngressFrame := AL.getD s.host.ingress p []

/-- Occupancy of an ingress buffer in cells. -/
def State.ingCells (s : State) (p : Nat) : Nat := sumL ((s.ing p).map IngressFrame.cells)

/-- The state with an ingress buffer replaced. -/
def State.setIng (s : State) (p : Nat) (l : List IngressFrame) : State :=
  s.setHost { s.host with ingress := AL.put s.host.ingress p l }

/-- The Ralesh is pausing priority `p`. -/
def State.pausedTx (s : State) (p : Nat) : Bool := bit (s.rd pgK3 Hst.PAUSED_TX) p

/-- A PFC frame pausing `p` for 0xFFFF quanta (R136). -/
def State.sendXoff (s : State) (p : Nat) : State :=
  ((s.setHost { s.host with pfcAt := AL.put s.host.pfcAt p s.clock }).wr pgK3 Hst.PAUSED_TX
    (setBit (s.rd pgK3 Hst.PAUSED_TX) p)).emit (.pfc (2 ^ p) 0xFFFF)

/-- A PFC frame with 0 quanta for `p` (R136). -/
def State.sendXon (s : State) (p : Nat) : State :=
  (s.wr pgK3 Hst.PAUSED_TX (clrBit (s.rd pgK3 Hst.PAUSED_TX) p)).emit (.pfc (2 ^ p) 0)

/-- PFC decided by the occupancy of `p`'s buffer while PFC_TX_EN is set (R136); cleared during a pause, it leaves PAUSED_TX as it is
(log 207). -/
def State.pfcCheck (s : State) (p : Nat) : State :=
  if !bit (s.rd pgK3 Hst.PFC_TX_EN) p then s
  else if !s.pausedTx p && s.rd pgK3 Hst.XOFF ≤ s.ingCells p then s.sendXoff p
  else if s.pausedTx p && s.ingCells p < s.rd pgK3 Hst.XON then s.sendXon p
  else s

/-- PFC_REPEAT: while PFC_TX_EN is set and occupancy stays at or above XON the frame is repeated every 8,192 cc (R136). -/
def State.pfcRepeat (s : State) (p : Nat) : State :=
  if bit (s.rd pgK3 Hst.PFC_TX_EN) p && s.pausedTx p && s.rd pgK3 Hst.XON ≤ s.ingCells p && AL.getD s.host.pfcAt p 0 + 8192 ≤ s.clock then s.sendXoff p
  else s

/-- PFC_REPEAT (R136). -/
def execPfcRepeat (p : Nat) (s : State) : Host.Outcome State Fault Refusal := .next (s.pfcRepeat p)

/-- Occupancy has fallen below XON while PFC_TX_EN is set: 0 quanta are sent (R136). -/
def State.xonDue (s : State) (p : Nat) : Bool :=
  bit (s.rd pgK3 Hst.PFC_TX_EN) p && s.pausedTx p && s.ingCells p < s.rd pgK3 Hst.XON

/-- PFC_XON (R136). -/
def execPfcXon (p : Nat) (s : State) : Host.Outcome State Fault Refusal :=
  .next (if s.xonDue p then s.sendXon p else s)

/-- The flits of an ETH_FRAME packet from the host MAC to a destination (R132, R133). -/
def State.ethFlits (s : State) (dst : Nat) (fr : List Byte) : List Flit :=
  let n := cdiv fr.length 240
  (List.range n).map fun i =>
    FlitSpec.flit {
      kind := 1, vc := 6, epoch := s.routeCur 3, dst := dst, dstM := false, src := coord19 s.coord 2, srcM := true,
      first := i = 0, last := i + 1 = n, tick := s.now, tag := fr.length, opcode := 0x20,
      payload := slice fr (240 * i) 240 }

/-- The entry of the frame table that matches a destination MAC, the lowest of several (R133, log 207). -/
def State.frameTable (s : State) (mac : Nat) : Option Nat :=
  ((List.range 64).find? fun i => s.rdb pgK3 Hst.FT_VALID i && s.rd2 pgK3 Hst.FT_MAC_LO Hst.FT_MAC_HI i = mac).map
    fun i => s.rd pgK3 Hst.FT_DST i

/-- A conforming frame enters its priority's ingress buffer, or is dropped at ING_CAP or where the pool has no cells for it; while the
host link is down it is dropped and counted (R122, R136; logs 110, 207). -/
def State.ingressPut (s : State) (p : Nat) (fr : List Byte) : State :=
  let n := frameCells fr.length
  if !s.rdb pgHost Mac.LINK_UP then s.bump pgK3 Hst.ING_DROP
  else if s.rd pgK3 Hst.ING_CAP < s.ingCells p + n || !s.poolHas 3 n then
    (s.bump pgK3 Hst.ING_DROP).err pgK3 (if bit (s.rd pgK3 Hst.PFC_TX_EN) p then 23 else 21)
  else (s.setIng p (s.ing p ++ [⟨fr, [], n, false⟩])).pfcCheck p

/-- UDP checksum of a datagram in an IPv4 or IPv6 packet is good (R384). -/
def udpOk (v6 : Bool) (src dst : List Byte) (udp : List Byte) : Bool :=
  let sum := beAt udp 6 2
  let pseudo := src ++ dst ++ (if v6 then beBytes 4 udp.length ++ beBytes 4 17 else beBytes 2 17 ++ beBytes 2 udp.length)
  (!v6 && sum = 0) || (sum ≠ 0 && foldCarry (onesSum (pseudo ++ udp)) = 0xFFFF)

/-- The UDP datagram of an IPv4 (IHL 5, no fragment) or IPv6 packet at an offset of the frame: destination address and
the UDP bytes (R384). -/
def udpOf (fr : List Byte) : Option (Bool × Nat × List Byte) :=
  let o := etypeAt fr + 2
  if etype fr = 0x0800 then
    let hdr := slice fr o 20
    let len := beAt fr (o + 2) 2
    if (fr.getD o 0).toNat = 0x45 && foldCarry (onesSum hdr) = 0xFFFF && beAt fr (o + 6) 2 % 0x4000 = 0
        && (fr.getD (o + 9) 0).toNat = 17 && o + len + 4 ≤ fr.length && 28 ≤ len then
      let udp := slice fr (o + 20) (len - 20)
      if beAt udp 4 2 = udp.length && udpOk false (slice fr (o + 12) 4) (slice fr (o + 16) 4) udp then
        some (false, beAt fr (o + 16) 4, udp)
      else none
    else none
  else if etype fr = 0x86DD then
    let len := beAt fr (o + 4) 2
    if (fr.getD o 0).toNat / 16 = 6 && (fr.getD (o + 6) 0).toNat = 17 && o + 40 + len + 4 ≤ fr.length && 8 ≤ len then
      let udp := slice fr (o + 40) len
      if beAt udp 4 2 = udp.length && udpOk true (slice fr (o + 8) 16) (slice fr (o + 24) 16) udp then
        some (true, beAt fr (o + 24) 16, udp)
      else none
    else none
  else none

/-- An ARP request for IPV4_ADDR (R385). -/
def State.isArpForUs (s : State) (fr : List Byte) : Bool :=
  let o := etypeAt fr + 2
  etype fr = 0x0806 && beAt fr o 2 = 1 && beAt fr (o + 2) 2 = 0x0800 && beAt fr (o + 6) 2 = 1
    && beAt fr (o + 24) 4 = s.rd pgHost Mac.IPV4_ADDR

/-- An NDP Neighbor Solicitation for IPV6_ADDR with a good ICMPv6 checksum (R384, R385). -/
def State.isNsForUs (s : State) (fr : List Byte) : Bool :=
  let o := etypeAt fr + 2
  let len := beAt fr (o + 4) 2
  let icmp := slice fr (o + 40) len
  let pseudo := slice fr (o + 8) 16 ++ slice fr (o + 24) 16 ++ beBytes 4 len ++ beBytes 4 58
  etype fr = 0x86DD && (fr.getD (o + 6) 0).toNat = 58 && (fr.getD (o + 7) 0).toNat = 255 && 24 ≤ len
    && (icmp.getD 0 0).toNat = 135 && beAt icmp 8 16 = s.ipv6 Mac.IPV6_ADDR
    && foldCarry (onesSum (pseudo ++ icmp)) = 0xFFFF

/-- The frame is UDP to the module's address and port (R385). -/
def State.isUdpForUs (s : State) (fr : List Byte) : Bool :=
  match udpOf fr with
  | some (v6, dst, udp) =>
    beAt udp 2 2 = s.rd pgHost Mac.UDP_PORT &&
      (if v6 then s.rdb pgHost Mac.V6_EN && dst = s.ipv6 Mac.IPV6_ADDR
       else s.rdb pgHost Mac.V4_EN && dst = s.rd pgHost Mac.IPV4_ADDR)
  | none => false

/-- MAC control frames: PFC is obeyed, 802.3x PAUSE is ignored and counted (R135, R137, R384). -/
def State.macControl (s : State) (fr : List Byte) : State :=
  let o := etypeAt fr + 2
  if beAt fr o 2 = 0x0101 then
    s.pfcReceive (beAt fr (o + 2) 2) ((List.range 8).map fun p => beAt fr (o + 4 + 2 * p) 2)
  else if beAt fr o 2 = 0x0001 then s.bump pgHost Mac.PAUSE_IGN
  else s

/-- The frame is addressed to the module: its own address or broadcast (R385). -/
def State.frameOurs (s : State) (fr : List Byte) : Bool := beAt fr 0 6 = s.macAddr || beAt fr 0 6 = 0xFFFFFFFFFFFF

/-- The flits that a buffered frame becomes: those of an ETH_FRAME for a unicast frame whose destination is in the frame table,
none for another (R133). -/
def State.frameFlits (s : State) (fr : List Byte) : List Flit :=
  if s.frameOurs fr || bit (fr.getD 0 0).toNat 0 then []
  else match s.frameTable (beAt fr 0 6) with
    | some d => s.ethFlits d fr
    | none => []

/-- A buffered frame that becomes no flits leaves its buffer: to the Lantern, or dropped and counted (R133, R385). -/
def State.hostConsume (s : State) (fr : List Byte) : State :=
  if s.frameOurs fr then
    if s.isArpForUs fr || s.isNsForUs fr || s.isUdpForUs fr then
      s.setHost { s.host with lantern := s.host.lantern ++ [fr] }
    else s.bump pgHost Mac.RX_NOTOURS
  else s.bump pgK3 Hst.FT_MISS

/-- HOST_FRAME_RECEIVE: FCS, MAC control, policing, ingress buffering (R133, R135, R136). -/
def State.hostFrame (s : State) (fr : List Byte) : State :=
  if !(64 ≤ fr.length && fr.length ≤ 9216 && fcsOk fr) then (s.bump pgK3 Hst.FRAME_ERR).err pgK3 20
  else if etype fr = 0x8808 then s.macControl fr
  else
    let p := s.framePcp fr
    if s.rdb pgK3 Hst.POL_EN p then
      let lvl := s.polLevel p
      if fr.length * 8800 ≤ lvl then
        (s.setHost { s.host with police := AL.put s.host.police p ⟨lvl - fr.length * 8800, s.clock⟩ }).ingressPut p fr
      else s.bumpi pgK3 Hst.POL_DROP p 1
    else s.ingressPut p fr

/-- HOST_FRAME_RECEIVE (R133). -/
def execHostFrameReceive (bytes : List Byte) (s : State) : Host.Outcome State Fault Refusal := .next (s.hostFrame bytes)

/-- The priority the ingress round robin serves next: a frame under way first, then the next non-empty one (R136). -/
def State.ingressNext (s : State) : Option Nat :=
  match s.host.cur with
  | some p => some p
  | none => ((List.range 8).map fun i => (s.host.rr + 1 + i) % 8).find? fun p => !(s.ing p).isEmpty

/-- Where a flit of a host frame goes from its ingress buffer: the egress queue that must admit it, none where it needs none. -/
def State.hostReady (s : State) (f : Flit) : Option Ready :=
  ((s.forward 3 .ingress none none f).opn.ready.drop s.opn.ready.length).head?

/-- A flit of a host frame is between its buffer and its egress queue. -/
def State.hostBusy (s : State) : Bool :=
  s.opn.ready.any fun r => r.buf.isNone && r.flit.kind = 1 && r.flit.opcode = 0x20

/-- A flit of a host frame may leave: no other one is between its buffer and its egress queue, and that queue can take its cells
(R136). -/
def State.hostRoom (s : State) (f : Flit) : Bool :=
  !s.hostBusy &&
    (match s.hostReady f with
     | none => true
     | some r =>
       ((s.queue r.keep r.out r.vc).admitting = none || (s.queue r.keep r.out r.vc).admitting = some r.packet)
         && s.mayAdmit r.keep r.out r.vc r)

/-- The Keep whose full overflow region holds a flit of a host frame in its ingress buffer (R128). -/
def State.hostFull (s : State) (f : Flit) : Option Nat :=
  match s.hostReady f with
  | none => none
  | some r =>
    if (s.queue r.keep r.out r.vc).spilled && !s.ovfRoom r.keep r.out r.vc then some r.keep else none

/-- HOST_INGRESS_FORWARD: the next flit of the priority whose turn it is leaves as BULK credit allows; a frame that becomes no flits
leaves whole (R133, R136). -/
def State.ingressForward (s : State) (p : Nat) : State :=
  if s.ingressNext ≠ some p then s
  else
    match s.ing p with
    | [] => s.setHost { s.host with cur := none }
    | fr :: rest =>
      match (if fr.flits.isEmpty then s.frameFlits fr.bytes else fr.flits) with
      | [] =>
        let s1 := s.setIng p rest
        ((s1.setHost { s1.host with cur := none, rr := p }).hostConsume fr.bytes).pfcCheck p
      | f :: more =>
        if s.hostRoom f then
          let s1 := s.setIng p
            (if more.isEmpty then rest else { fr with flits := more, cells := fr.cells - f.cells, counted := false } :: rest)
          let s2 := s1.setHost { s1.host with cur := (if more.isEmpty then none else some p), rr := p }
          (s2.forward 3 .ingress none none f).pfcCheck p
        else match s.hostFull f with
          | some k =>
            if fr.counted then s
            else ((s.setIng p ({ fr with counted := true } :: rest)).bump (pgKeep k) Opn.OVF_FULL).err (pgKeep k) 17
          | none => s

/-- HOST_INGRESS_FORWARD (R136). -/
def execHostIngressForward (p : Nat) (s : State) : Host.Outcome State Fault Refusal := .next (s.ingressForward p)

/-! ## Reassembly (R132, R134) -/

/-- The flits of a VC delivered to the host MAC. -/
def State.macFlits (s : State) (vc : Nat) : List Flit :=
  (s.opn.service.filter fun x => x.1 = 2 && x.2.2.opcode = 0x20 && x.2.2.vc = vc).map (·.2.2)

/-- The flits up to and including the first LAST. -/
def uptoLast : List Flit → Option (List Flit)
  | [] => none
  | f :: l => if f.last then some [f] else (uptoLast l).map (f :: ·)

/-- The frame a packet carries, if it is well formed (R132). -/
def frameOf (fl : List Flit) : Option (List Byte) :=
  match fl with
  | [] => none
  | f :: _ =>
    let len := f.tag % 2 ^ 14
    let bad := len < 64 || 9216 < len || fl.length ≠ cdiv len 240 || (fl.getLast?.map Flit.poison).getD true || !f.first
    if bad then none else some ((fl.flatMap fun x => padTo 240 x.payload).take len)

/-- The flits of a packet taken by the host MAC, where none is lost in the Keep (R337). -/
def State.takeFlits (s : State) : List Flit → Option (List Flit) × State
  | [] => (some [], s)
  | f :: l =>
    let x := s.takeService 2 f
    let y := x.2.takeFlits l
    ((match x.1, y.1 with
      | some g, some r => some (g :: r)
      | _, _ => none), y.2)

/-- ETH_FRAME_REASSEMBLED: the packet of a VC is complete; the frame joins its weighted queue or is dropped (R134). -/
def State.reassembled (s : State) (vc : Nat) : State :=
  match uptoLast (s.macFlits vc) with
  | none => s
  | some fl =>
    let x := s.takeFlits fl
    let s1 := x.2
    match x.1.bind frameOf with
    | none => (s1.bump pgK3 Hst.FRAME_ERR).err pgK3 20
    | some fr =>
      if fcsOk fr then s1.weightedPut (s1.framePcp fr) fr (fl.any Flit.cm)
      else (s1.bump pgK3 Hst.FRAME_ERR).err pgK3 20

/-- ETH_FRAME_REASSEMBLED (R134). -/
def execEthFrameReassembled (vc : Nat) (s : State) : Host.Outcome State Fault Refusal := .next (s.reassembled vc)

/-! ## Egress (R138, R139) -/

/-- Strict queue `q` qualifies: non-empty, unpaused, its head within the shaper (R138). -/
def State.strictReady (s : State) (q : Nat) : Bool :=
  match AL.getD s.host.strict q [] with
  | [] => false
  | f :: _ => !s.pausedRx (s.rd pgK3 Hst.S_PCP q) && f.length * 8800 ≤ s.shpLevel q

/-- Tag A comes before tag B in the 48-bit modular order of R33. -/
def tagBefore (a b : Nat) : Bool := a ≠ b && tickLater b a

/-- The weighted queue whose head has the smallest finish tag, ties to the lower q (R139). -/
def State.weightedPick (s : State) : Option (Nat × WFrame) :=
  (List.range 8).foldl (fun best q =>
    match s.wq q with
    | [] => best
    | f :: _ =>
      if s.pausedRx q then best
      else match best with
        | none => some (q, f)
        | some (_, b) => if tagBefore f.fin b.fin then some (q, f) else best) none

/-- A strict queue's head frame starts, taking its tokens (R138). -/
def State.startStrict (s : State) (q : Nat) : State :=
  match AL.getD s.host.strict q [] with
  | [] => s
  | f :: rest =>
    (s.setHost { s.host with
      strict := AL.put s.host.strict q rest
      shape := AL.put s.host.shape q ⟨s.shpLevel q - f.length * 8800, s.clock⟩ }).emit (.frame f)

/-- HOST_FRAME_START (R138, R139). -/
def State.frameStart (s : State) : State :=
  if !s.rdb pgHost Mac.LINK_UP then s
  else
    match (List.range 3).find? s.strictReady with
    | some q => s.startStrict q
    | none =>
      match s.weightedPick with
      | some (q, f) =>
        let s1 := s.setWq q ((s.wq q).drop 1)
        (s1.setHost { s1.host with vt := f.fin }).emit (.frame f.bytes)
      | none => s

/-- HOST_FRAME_START (R138). -/
def execHostFrameStart (s : State) : Host.Outcome State Fault Refusal := .next s.frameStart

/-! ## The host link (R136, R395, Table 16.8) -/

/-- The timers of the OUT streams stop, or run on (R391). -/
def State.turnTimers (s : State) : State :=
  { s with streams := s.streams.map fun (x : Nat × Stream) => (x.1, { x.2 with since := s.clock - x.2.since }) }

/-- HOST_LINK_UP: the link is up with FEC lock, unless the page's EN or its domain holds it down (R403, R426); held events are sent. -/
def State.hostLinkUp (s : State) : State :=
  if s.rdb pgHost Hdr.EN && !s.rdb pgHost Mac.LINK_UP && s.domState 332 < 2 then
    (s.turnTimers.wr pgHost Mac.LINK_UP 1).resendEvents
  else s

/-- HOST_LINK_UP (R395). -/
def execHostLinkUp (s : State) : Host.Outcome State Fault Refusal := .next s.hostLinkUp

/-- A host frame of which flits have left loses the others: its packet ends poisoned (R125, log 209). -/
def State.cutHostFrame (s : State) : State :=
  match s.host.cur with
  | none => s
  | some p =>
    match (s.ing p).head?.map IngressFrame.flits with
    | some (f :: _) => (s.forward 3 .ingress none none (lastInPlace s.now f)).fwdPoison 3
    | _ => s

/-- HOST_LINK_DOWN: ingress buffers are emptied and counted, PG_ERR.LINK_DOWN (R136, Table 16.8). -/
def State.hostLinkDown (s : State) : State :=
  if s.rdb pgHost Mac.LINK_UP then
    let n := sumL ((List.range 8).map fun p => (s.ing p).length)
    let s0 := s.cutHostFrame
    let s1 := (s0.turnTimers.wr pgHost Mac.LINK_UP 0).setHost { s0.host with ingress := [], cur := none, pfcAt := [] }
    ((s1.bump pgK3 Hst.ING_DROP n).wr pgK3 Hst.PAUSED_TX 0).err pgHost 0
  else s

/-- HOST_LINK_DOWN (R136). -/
def execHostLinkDown (s : State) : Host.Outcome State Fault Refusal := .next s.hostLinkDown

end Sys2Proof.Machine
end

