-- ==== Sys2Proof/Machine/Integrity.lean ====
section
/-! DEFINITION. In-service checks: voted words, scrub, spot-check results, margin monitors and quarantine (R328,
R333–R342). -/

namespace Sys2Proof.Machine

open Sys2Proof

/-! ## Voted words (R328) -/

/-- Three copies differ: counted, reported, copy 0 used. -/
def State.tripFail (s : State) : State := ((s.bump pgIntegrity Itg.TRIP_FAIL).err pgIntegrity 2).moduleFault

/-- A read of a word whose copies are not equal. A key of no register field stands for another word of Table 13.1: its value is kept
in its own field of the state, as the vote gives it, and `c1`, `c2` hold in which bits copies 1 and 2 differ from copy 0 (log 203). -/
def State.tripVote (s : State) (k : RegKey) : State :=
  match AL.get s.trip k, fieldOfKey k with
  | some t, some (p, r, i) =>
    let c0 := s.copy0 p r i
    if s.rdb pgIntegrity Itg.TRIP_EN then
      if t.c1 = c0 && t.c2 = c0 then { s with trip := AL.del s.trip k }
      else if t.c1 = c0 || t.c2 = c0 || t.c1 = t.c2 then (s.put p r i (t.vote c0)).bump pgIntegrity Itg.TRIP_CORR
      else s.tripFail
    else if t.parityBad then s.tripFail else s
  | some t, none =>
    if s.rdb pgIntegrity Itg.TRIP_EN then
      if t.c1 = 0 && t.c2 = 0 then { s with trip := AL.del s.trip k }
      else if t.c1 = 0 || t.c2 = 0 || t.c1 = t.c2 then ({ s with trip := AL.del s.trip k }).bump pgIntegrity Itg.TRIP_CORR
      else s.tripFail
    else if t.parityBad then s.tripFail else s
  | none, _ => s

/-- TRIP_REWRITE: the vote over a word, and the third copy rewritten. -/
def execTripRewrite (key : RegKey) (s : State) : Host.Outcome State Fault Refusal := .next (s.tripVote key)

/-- A write of the word that holds TRIP_EN: when it is set from 0, copy 0 goes into copies 1 and 2. -/
def State.writeTrip (s : State) (v : Nat) : State :=
  let was := s.rdb pgIntegrity Itg.TRIP_EN
  let s1 := (((s.swField pgIntegrity Itg.TRIP_EN 0 (bits v 0 1)).swField pgIntegrity Itg.SPOT_EN 0 (bits v 1 1)).swField
    pgIntegrity Itg.QUAR_EN 0 (bits v 2 1)).swField pgIntegrity Itg.ST_OVERRIDE 0 (bits v 3 1)
  if !was && s1.rdb pgIntegrity Itg.TRIP_EN then { s1 with trip := [] } else s1

/-- TRIP_EN_WRITE: the word at 0x100 of the integrity page written. -/
def execTripEnWrite (v : Nat) (s : State) : Host.Outcome State Fault Refusal := .next (s.writeTrip v)

/-! ## Scrub (R333, R334) -/

/-- The summary. -/
def scrubSum : List Reg :=
  [Itg.SCRUB_SUM_READ, Itg.SCRUB_SUM_CORR, Itg.SCRUB_SUM_UE, Itg.SCRUB_SUM_POISON, Itg.SCRUB_SUM_SKIP, Itg.SCRUB_SUM_CRC,
    Itg.SCRUB_SUM_FIRST_LO, Itg.SCRUB_SUM_FIRST_HI, Itg.FIRST_VALID, Itg.SCRUB_SUM_TICK_LO, Itg.SCRUB_SUM_TICK_HI]

/-- SCRUB_START and SCRUB_END. -/
def State.scrubStart (s : State) : Nat :=
  s.rd pgIntegrity Itg.SCRUB_START_LO * 64 + s.rd pgIntegrity Itg.SCRUB_START_HI * 2 ^ 32
def State.scrubEnd (s : State) : Nat :=
  s.rd pgIntegrity Itg.SCRUB_END_LO * 64 + s.rd pgIntegrity Itg.SCRUB_END_HI * 2 ^ 32

/-- SCRUB_GO. -/
def State.scrubGo (s : State) : State :=
  if s.rd pgIntegrity Itg.SCRUB_STATE = 1 then s
  else if s.scrubEnd ≤ s.scrubStart || 2 ^ 40 < s.scrubEnd then s.err pgIntegrity 9
  else
    let s1 := (s.clearFields pgIntegrity scrubSum).wr pgIntegrity Itg.SCRUB_STATE 1
    { s1 with scrub := some { pos := s.scrubStart, fin := s.scrubEnd, tick := s.now, n := 0 } }

/-- SCRUB_GO starts a pass and clears the summary. -/
def execScrubGo (s : State) : Host.Outcome State Fault Refusal := .next s.scrubGo

/-- The pass ends: its state, and the tick. -/
def State.scrubStop (s : State) (st : Nat) : State :=
  ({ s with scrub := none }).wrs pgIntegrity [(Itg.SCRUB_STATE, st), (Itg.SCRUB_SUM_TICK_LO, s.now % 2 ^ 32),
    (Itg.SCRUB_SUM_TICK_HI, s.now / 2 ^ 32)]

/-- SCRUB_ABORT: no granule is in progress between two commands, so the pass ends at once. -/
def execScrubAbort (s : State) : Host.Outcome State Fault Refusal :=
  .next (if s.scrub.isSome then s.scrubStop 3 else s)

/-- CRC-32C carried on over more bytes. -/
def crc32cMore (crc : Nat) (l : List Byte) : Nat := Nat.xor (l.foldl (crcByteR 0x82F63B78) (Nat.xor crc 0xFFFFFFFF)) 0xFFFFFFFF

/-- A granule of data added to the summary's CRC. -/
def State.scrubCrc (s : State) (l : List Byte) : State :=
  s.wr pgIntegrity Itg.SCRUB_SUM_CRC (crc32cMore (s.rd pgIntegrity Itg.SCRUB_SUM_CRC) l)

/-- A UE granule found by scrub: FIRST, PG_ERR and the report to the host (R334, R352). -/
def State.scrubUe (s : State) (off : Nat) : State :=
  let s1 := s.bump pgIntegrity Itg.SCRUB_SUM_UE
  let s2 := if s1.rdb pgIntegrity Itg.FIRST_VALID then s1.again pgIntegrity Itg.FIRST_VALID
    else s1.wrs pgIntegrity [(Itg.FIRST_VALID, 1), (Itg.SCRUB_SUM_FIRST_LO, off / 64 % 2 ^ 26),
      (Itg.SCRUB_SUM_FIRST_HI, off / 2 ^ 32)]
  (s2.err pgIntegrity 8).eventE pgIntegrity 0x0023 (leBytes 8 off)

/-- One granule of the pass; it takes a merge entry while it is read, so that the least recently written one is written back where
none is free (R330, R333). -/
def State.scrubRead (s : State) (off : Nat) : State :=
  let zero := List.replicate 64 (0 : Byte)
  if s.rd (pgHbm (off / 2 ^ 36)) Hbm.HSTATE = 3 then s.bump pgIntegrity Itg.SCRUB_SUM_SKIP
  else
    let d := s.decoded spHbm (off / 64)
    let s0 := if s.mergeHeld (off / 64) then s else s.mergeRoom false (off / 2 ^ 36)
    let s1 := (s0.touchLine false spHbm (off / 64)).bump pgIntegrity Itg.SCRUB_SUM_READ
    match d with
    | .clean => s1.scrubCrc (s.peek spHbm off 64)
    | .corrected => (s1.bump pgIntegrity Itg.SCRUB_SUM_CORR).scrubCrc (s.peek spHbm off 64)
    | .poisoned => (s1.bump pgIntegrity Itg.SCRUB_SUM_POISON).scrubCrc zero
    | .address => (s1.scrubUe off).scrubCrc zero
    | .uncorrectable => (s1.scrubUe off).scrubCrc zero

/-- The next granule, within SCRUB_RATE granules per tick. -/
def State.scrubGranule (s : State) : State :=
  match s.scrub with
  | none => s
  | some x =>
    let n := if x.tick = s.now then x.n else 0
    if n < s.rd pgIntegrity Itg.SCRUB_RATE then
      let s1 := s.scrubRead x.pos
      if x.fin ≤ x.pos + 64 then s1.scrubStop 2
      else { s1 with scrub := some { pos := x.pos + 64, fin := x.fin, tick := s.now, n := n + 1 } }
    else s

/-- SCRUB_GRANULE. -/
def execScrubGranule (s : State) : Host.Outcome State Fault Refusal := .next s.scrubGranule

/-! ## Quarantine (R342) -/

/-- A monitor site is quarantined. -/
def State.quarantine (s : State) (site : Nat) : State :=
  if bit (s.rd pgIntegrity Itg.QUAR_MASK (site / 32)) (site % 32) then s
  else
    let s1 := s.wri pgIntegrity Itg.QUAR_MASK (site / 32) (setBit (s.rd pgIntegrity Itg.QUAR_MASK (site / 32)) (site % 32))
    if s1.rdb pgIntegrity Itg.QUAR_EN then (s1.err pgIntegrity 7).moduleFault else s1

/-- An optical lane is quarantined: its torus link is reported failed. -/
def State.quarLane (s : State) (lane : Nat) : State :=
  let w := s.rd pgIntegrity Itg.OPT_QUAR_LANES (lane / 32)
  if bit w (lane % 32) then s
  else
    let s1 := s.wri pgIntegrity Itg.OPT_QUAR_LANES (lane / 32) (setBit w (lane % 32))
    if s1.rdb pgIntegrity Itg.QUAR_EN then s1.reportLink (lane / 32) else s1

/-! ## Spot-check results (R339) -/

/-- The SPOT record, filled while SPOT_VALID is clear. -/
def State.spotRecord (s : State) (x : Spot) (elem got exp : Nat) : State :=
  if s.rdb pgIntegrity Itg.SPOT_VALID then s.again pgIntegrity Itg.SPOT_VALID
  else
    let t := x.tick.getD 0
    let s1 := s.wrs pgIntegrity [(Itg.SPOT_VALID, 1), (Itg.SPOT_TILE, x.tile), (Itg.SPOT_TICK_LO, t % 2 ^ 32),
      (Itg.SPOT_TICK_HI, t / 2 ^ 32), (Itg.SPOT_INSN, x.insn), (Itg.SPOT_ELEM_LO, elem % 2 ^ 32),
      (Itg.SPOT_ELEM_HI, elem / 2 ^ 32), (Itg.SPOT_TEMP, s.rd pgOculus Ocu.TS_TEMP (4 * (x.tile / 32) + x.tile % 32 / 8)),
      (Itg.SPOT_LOAD, x.load)]
    (List.range 3).foldl (fun u i => (u.wri pgIntegrity Itg.SPOT_GOT i (got / 2 ^ (32 * i))).wri pgIntegrity Itg.SPOT_EXP i
      (exp / 2 ^ (32 * i))) s1

/-- One compared element. -/
def State.spotCompare (s : State) (x : Spot) (elem got exp : Nat) : State :=
  let s1 := s.bump pgIntegrity Itg.SPOT_CNT
  if got = exp then s1
  else ((((s1.spotRecord x elem got exp).bump pgIntegrity Itg.SPOT_FAIL).err pgIntegrity 5).tickFault).quarantine
    (siteOf x.tile)

/-- The elements of a sample compared with what the tile gave; a missing result is the tile's own (log 30). -/
def State.spotAll (s : State) (x : Spot) : List Nat → List (Option Nat) → List Nat → State
  | e :: es, some v :: vs, got => ((s.spotCompare x e (got.headD v) v)).spotAll x es vs (got.drop 1)
  | _ :: es, none :: vs, got => s.spotAll x es vs (got.drop 1)
  | _, _, _ => s

/-- The sample is compared: a checker's own sample stays taken for its interval, one kept apart is dropped. -/
def State.spotClose (s : State) (key : Nat) (x : Spot) : State :=
  if 8 ≤ key then { s with spots := AL.del s.spots key } else s.setSpot key { x with exp := [], elems := [] }

/-- The recomputation of Cupola `c`'s sample finishes. -/
def State.spotDone (s : State) (c : Nat) (got : List Nat) : State :=
  let key := if (AL.get s.spots (8 + c)).isSome then 8 + c else c
  match AL.get s.spots key with
  | some x => if x.exp.isEmpty then s else (s.spotAll x x.elems x.exp got).spotClose key x
  | none => s

/-- SPOT_CHECK_COMPLETE: `got` are the tile's results for the sampled elements. -/
def execSpotCheckComplete (c : Nat) (got : List Nat) (s : State) : Host.Outcome State Fault Refusal := .next (s.spotDone c got)

/-! ## Margin monitors (R341) -/

/-- A reading stored, with its run of consecutive readings past QUAR. -/
def State.marginPut (s : State) (i : Nat) (v : Int) (past : Bool) : State :=
  { s with margin := AL.put s.margin i (v, if past then (AL.getD s.margin i ((0 : Int), 0)).2 + 1 else 0) }

/-- The run of a monitor reaches QUAR_HOLD. -/
def State.crossed (s : State) (i : Nat) : Bool :=
  max 1 (s.rd pgIntegrity Itg.QUAR_HOLD) ≤ (AL.getD s.margin i ((0 : Int), 0)).2

/-- A site's WARN bit. -/
def State.warn (s : State) (site : Nat) : State :=
  (s.noteRise (rkey pgIntegrity Itg.WARN_MASK (site / 32)) (2 ^ (site % 32))).wri pgIntegrity Itg.WARN_MASK (site / 32) (setBit (s.rd pgIntegrity Itg.WARN_MASK (site / 32)) (site % 32))

/-- A site's droop in mV through its monitor's trim in 0.25 mV (R341, Table 18.6; log 214). -/
def State.droopReading (s : State) (i raw : Nat) : Nat := ((raw : Int) + toSigned 16 (s.rd pgLantern Cal.CAL_VMON_TRIM i) / 4).toNat

/-- One site's readings. -/
def State.marginSite (s : State) (droop canary : List Nat) (i : Nat) : State :=
  let d := s.droopReading i (droop.getD i 0)
  let n := canary.getD i 0
  let s1 := (s.marginPut i d (s.rd pgIntegrity Itg.DROOP_QUAR ≤ d)).marginPut (64 + i) n (s.rd pgIntegrity Itg.CAN_QUAR ≤ n)
  let s2 := if s1.rd pgIntegrity Itg.DROOP_WARN ≤ d || s1.rd pgIntegrity Itg.CAN_WARN ≤ n then s1.warn i else s1
  if s2.crossed i || s2.crossed (64 + i) then s2.quarantine i else s2

/-- A lane's reading in 0.1 dBm: the power received through its gain in 1/4,096 and its offset in 0.01 dB (R341, Table 18.6;
log 214). -/
def State.laneReading (s : State) (i : Nat) (raw : Int) : Int :=
  raw * (s.rd pgLantern Cal.CAL_OPT_GAIN i : Int) / 4096 + toSigned 16 (s.rd pgLantern Cal.CAL_OPT_OFF i) / 10

/-- One lane's receive power, under its calibration; lane 32d + k belongs to torus port die d. -/
def State.marginLane (s : State) (rx : List Int) (i : Nat) : State :=
  match rx[i]? with
  | none => s
  | some raw =>
    let v := s.laneReading i raw
    let s1 := s.marginPut (128 + i) v (v ≤ toSigned 16 (s.rd pgIntegrity Itg.OPT_QUAR))
    let s2 := if v ≤ toSigned 16 (s1.rd pgIntegrity Itg.OPT_WARN) then s1.warn (56 + i / 32) else s1
    if s2.crossed (128 + i) then s2.quarLane i else s2

/-- A reading is at or past its WARN threshold. -/
def State.anyWarn (s : State) (droop canary : List Nat) (rx : List Int) : Bool :=
  (List.range 64).any (fun i => s.rd pgIntegrity Itg.DROOP_WARN ≤ s.droopReading i (droop.getD i 0) || s.rd pgIntegrity Itg.CAN_WARN ≤ canary.getD i 0)
    || (List.range (min 192 rx.length)).any fun i => s.laneReading i (rx.getD i 0) ≤ toSigned 16 (s.rd pgIntegrity Itg.OPT_WARN)

/-- An evaluation is due: 64 ticks have passed since the last one, whose tick entry 320 of the readings holds (R341, log 101). -/
def State.marginDue (s : State) : Bool :=
  match AL.get s.margin 320 with
  | some x => 64 ≤ tickSub s.now x.1.toNat
  | none => true

/-- MARGIN_EVALUATION: the readings of 64 sites and 192 lanes, every 64 ticks. -/
def State.marginEval (s : State) (droop canary : List Nat) (rx : List Int) : State :=
  if s.marginDue then
    let s1 := if s.anyWarn droop canary rx then s.err pgIntegrity 6 else s
    let s2 := (List.range 64).foldl (fun t i => t.marginSite droop canary i) s1
    ((List.range 192).foldl (fun t i => t.marginLane rx i) s2).marginPut 320 s.now false
  else s

/-- MARGIN_EVALUATION. -/
def execMarginEvaluation (droop canary : List Nat) (rx : List Int) (s : State) : Host.Outcome State Fault Refusal :=
  .next (s.marginEval droop canary rx)

end Sys2Proof.Machine
end

