-- ==== Sys2Proof/Machine/Shake.lean ====
section
/-! DEFINITION. Digests: SHAKE256 with 64 bytes of output, and the extension of a measurement register (R439). -/

namespace Sys2Proof.Machine

open Sys2Proof

/-! ## Keccak (FIPS 202, named by Table 19.1) -/

/-- A 64-bit lane rotated left. -/
def rotl64 (v n : Nat) : Nat := (v * 2 ^ (n % 64)) % 2 ^ 64 + v / 2 ^ (64 - n % 64)

/-- Rotation of lane x + 5y. -/
def keccakRot : List Nat :=
  [0, 1, 62, 28, 27, 36, 44, 6, 55, 20, 3, 10, 43, 25, 39, 41, 45, 15, 21, 8, 18, 2, 61, 56, 14]

/-- Round constants. -/
def keccakRc : List Nat :=
  [0x1, 0x8082, 0x800000000000808A, 0x8000000080008000, 0x808B, 0x80000001, 0x8000000080008081, 0x8000000000008009,
    0x8A, 0x88, 0x80008009, 0x8000000A] ++
  [0x8000808B, 0x800000000000008B, 0x8000000000008089, 0x8000000000008003, 0x8000000000008002, 0x8000000000000080,
    0x800A, 0x800000008000000A, 0x8000000080008081, 0x8000000000008080, 0x80000001, 0x8000000080008008]

/-- One round over the 25 lanes, lane x + 5y at that index. -/
def keccakRound (a : List Nat) (rc : Nat) : List Nat :=
  let l (i : Nat) : Nat := a.getD i 0
  let c := (List.range 5).map fun x => Nat.xor (Nat.xor (Nat.xor (l x) (l (x + 5))) (Nat.xor (l (x + 10)) (l (x + 15)))) (l (x + 20))
  let d := (List.range 5).map fun x => Nat.xor (c.getD ((x + 4) % 5) 0) (rotl64 (c.getD ((x + 1) % 5) 0) 1)
  let t := (List.range 25).map fun i => rotl64 (Nat.xor (l i) (d.getD (i % 5) 0)) (keccakRot.getD i 0)
  -- lane (x, y) moves to (y, 2x + 3y)
  let b := (List.range 25).map fun j => t.getD ((j % 5 + 3 * (j / 5)) % 5 + 5 * (j % 5)) 0
  (List.range 25).map fun i =>
    let x := i % 5
    let y := 5 * (i / 5)
    let v := Nat.xor (b.getD i 0)
      (Nat.land (Nat.xor (b.getD (y + (x + 1) % 5) 0) (2 ^ 64 - 1)) (b.getD (y + (x + 2) % 5) 0))
    if i = 0 then Nat.xor v rc else v

/-- The permutation. -/
def keccakF (a : List Nat) : List Nat := keccakRc.foldl keccakRound a

/-- A padded message, in blocks of 136 bytes, absorbed. -/
def absorb : Nat → List Nat → List Byte → List Nat
  | 0, a, _ => a
  | n + 1, a, l =>
    absorb n (keccakF ((List.range 25).map fun i =>
      if i < 17 then Nat.xor (a.getD i 0) (leAt l (8 * i) 8) else a.getD i 0)) (l.drop 136)

/-- The padding of SHAKE: the bits 1111, then pad10*1. -/
def shakePad (l : List Byte) : List Byte :=
  let q := 136 - l.length % 136
  if q = 1 then l ++ [0x9F#8] else l ++ (0x1F#8 :: List.replicate (q - 2) (0#8)) ++ [0x80#8]

/-- The first 64 bytes of SHAKE256. -/
def digest (l : List Byte) : List Byte :=
  let a := absorb ((shakePad l).length / 136) (List.replicate 25 0) (shakePad l)
  (List.range 8).flatMap fun i => leBytes 8 (a.getD i 0)

/-! ## Measurement registers -/

/-- BOOT_MEAS, and PLAN_MEAS and OBJ_MEAS of a bank (R447, R448). -/
def measBoot : Nat := 0
def measPlan (bank : Nat) : Nat := 1 + bank
def measObj (bank : Nat) : Nat := 3 + bank

/-- 64 zero bytes. -/
def measZero : List Byte := List.replicate 64 0

/-- A measurement register. -/
def State.measOf (s : State) (i : Nat) : List Byte := AL.getD s.meas i measZero

/-- A measurement register set, and cleared. -/
def State.setMeas (s : State) (i : Nat) (d : List Byte) : State := { s with meas := AL.put s.meas i d }
def State.clearMeas (s : State) (i : Nat) : State := { s with meas := AL.del s.meas i }

/-- M := SHAKE256(M ‖ d). -/
def measExtend (m d : List Byte) : List Byte := digest (m ++ d)

/-- A measurement register is extended. -/
def State.extend (s : State) (i : Nat) (d : List Byte) : State := s.setMeas i (measExtend (s.measOf i) d)

end Sys2Proof.Machine
end

