-- ==== Sys2Proof/Machine/PlanLoad.lean ====
section
/-! DEFINITION. Loading a plan bank (R110, R111), and arming and disarming a switch (R114). -/

namespace Sys2Proof.Machine

open Sys2Proof

/-! ## Pins (R314) -/

/-- PIN of an entry set. -/
def State.setPin (s : State) (i n : Nat) : State := { s with fst := AL.put s.fst i ((s.fstEntry i).set 5 (n % 65536)) }

/-- Entries pinned once each, and unpinned. -/
def State.pinAll (s : State) (l : List Nat) : State := l.foldl (fun t i => t.setPin i (fstPin (t.fstEntry i) + 1)) s
def State.unpinAll (s : State) (l : List Nat) : State := l.foldl (fun t i => t.setPin i (fstPin (t.fstEntry i) - 1)) s

/-! ## Banks -/

/-- SLOT_USED and PEAK of a bank. -/
def slotReg (b : Nat) : Reg := if b = 0 then Slt.SLOT_USED_A else Slt.SLOT_USED_B
def peakReg (b : Nat) : Reg := if b = 0 then Drm.PEAK_A else Drm.PEAK_B

/-- What a bank holds is released: its pins, its image, its measurements, its compiled records (R314, R448). -/
def State.releaseBank (s : State) (b : Nat) : State :=
  let s1 := match s.bank b with
    | some x => s.unpinAll x.pins
    | none => s
  let s2 := ((s1.setBank b none).clearMeas (measPlan b)).clearMeas (measObj b)
  let s3 := (List.range 4).foldl (fun t k => t.wr (pgKeep k) (slotReg b) 0) s2
  let s4 := (List.range 8).foldl (fun t c => t.wr (pgDrum c) (peakReg b) 0) s3
  { s4 with opn := { s4.opn with landing := s4.opn.landing.filter fun x => x.1.2 ≠ b } }

/-- The landing regions of a bank carved from the packet buffers: their cells are closed to new allocation at once (R112,
R122). -/
def State.carve (s : State) (b : Nat) (m : List Byte) : State :=
  { s with opn := { s.opn with
    landing := (List.range 4).foldl (fun (l : List ((Nat × Nat) × Nat)) k => AL.put l (k, b) (landNeed m k / 64)) s.opn.landing } }

/-- The cells carved are free in every Keep, in banks that are on and not asked to power down (R122). -/
def State.roomy (s : State) : Bool := (List.range 4).all fun k => s.poolUsed k ≤ s.poolCells k && s.banksHold k 0

/-- A Keep whose open banks cannot hold what its packet buffer holds wakes one that is off (R426). -/
def State.wakeBanks (s : State) : State := (List.range 4).foldl (fun t k => if t.banksHold k 0 then t else t.wakeBank k) s

/-- A bank returns to EMPTY. -/
def State.emptyBank (s : State) (b : Nat) : State := (s.releaseBank b).setBankState b 0

/-- The previous bank serves landings (R115). -/
def State.servesOld (s : State) (b : Nat) : Bool := s.rdb (pgKeep 0) Pln.LANDING_OLD && b ≠ s.active

/-- PLAN_BASE. -/
def State.planBase (s : State) : Nat := s.rd (pgKeep 0) Pln.BASE_LO * 4096 + s.rd (pgKeep 0) Pln.BASE_HI * 2 ^ 32

/-- What LOAD captures for a bank (R110, Table 04.9: LAND_MAX applies at the next load). -/
def State.planJob (s : State) (b : Nat) : PlanJob :=
  { bank := b, base := s.planBase, len := s.rd (pgKeep 0) Pln.PLAN_LEN,
    limits := (List.range 4).map fun k => s.rd (pgKeep k) Slt.LAND_MAX }

/-- LOAD of a bank (R110). -/
def State.planLoad (s : State) (b : Nat) : State :=
  if s.bankState b = 1 || s.bankState b = 3 || (s.rdb (pgKeep 0) Pln.ARMED && s.sched.armBank = b) || s.servesOld b then
    s.err (pgKeep 0) 11
  else
    let s1 := (s.releaseBank b).setBankState b 1
    s1.setSched { s1.sched with loading := s1.sched.loading ++ [s.planJob b] }

/-- LOAD: LOAD_BANK and LOAD written together (Table 04.8). -/
def execLoad (bank : Nat) (s : State) : Host.Outcome State Fault Refusal :=
  .next ((s.wr (pgKeep 0) Pln.LOAD_BANK (bank % 2)).planLoad (bank % 2))

/-- PLAN_ERR written, the bank EMPTY, PLAN_REJECT (R110). -/
def State.planReject (s : State) (b : Nat) (e : PlanErr) : State :=
  let s1 := (s.emptyBank b).wrs (pgKeep 0) [(Pln.ERR_CODE, e.code), (Pln.ERR_VALID, 1), (Pln.ERR_SECTION, e.sec),
    (Pln.ERR_OWNER, e.owner), (Pln.ERR_RECORD, e.idx), (Pln.ERR_STEP, e.step), (Pln.ERR_LINK, e.link % 256),
    (Pln.ERR_DETAIL, e.detail % 2 ^ 32)]
  s1.err (pgKeep 0) 8

/-- Distinct Billin modules that an image references, in ascending BLOB_OFF of their first action record (R448). -/
def imgModules (m : List Byte) : List (List Byte) :=
  let acts := (imgActions m).mergeSort fun a b => a.off ≤ b.off
  (acts.filterMap fun a =>
    let o := actionObj m a
    if a.kind = 2 then some o
    else if a.kind = 3 && leAt o 8 4 ≠ 0 && (passOf o).pass ≠ 3 then some (passProg m o)
    else none).eraseDups

/-- The bank built and READY: pins, claims, headers, records, measurements (R110, R194, R275, R448). -/
def State.planReady (s : State) (b : Nat) (m : List Byte) (pins : List Nat) : State :=
  let pages := (List.range (imgNvar m)).flatMap fun v => (placed m v).map fun x => ((v, x.1.sec, x.1.idx), x.2)
  let s1 := ((s.pinAll pins).setBank b (some { image := m, pins := pins, pages := pages, parms := s.imageParms m })).setBankState b 2
  let s2 := (List.range 4).foldl (fun t k => t.wr (pgKeep k) (slotReg b) (slotUsed m k)) s1
  let s3 := (List.range 8).foldl (fun t c => t.wr (pgDrum c) (peakReg b) (drumPeak m c)) s2
  let s4 := s3.setMeas (measPlan b) (digest m)
  (imgModules m).foldl (fun t x => t.extend (measObj b) (digest x)) s4

/-- The oldest load ends: the image is validated and the bank built, or rejected (R110, R111). While a domain that it names
is not powered the load waits for the wake (R426), and while cells of its landing regions are occupied, for them (R122). -/
def State.planLoaded (s : State) : State :=
  match s.sched.loading with
  | [] => s
  | j :: rest =>
    let s1 := s.setSched { s.sched with loading := rest }
    let m := s1.peek spHbm j.base j.len
    match s1.planCheck m j with
    | .inl e => s1.planReject j.bank e
    | .inr pins =>
      let l := s.sleepers m pins
      if !l.isEmpty then l.foldl State.wakeDom s
      else if !(s.carve j.bank m).roomy then (s.carve j.bank m).wakeBanks
      else (s1.carve j.bank m).planReady j.bank m pins

/-- PLAN_LOAD_DONE. -/
def execPlanLoadDone (s : State) : Host.Outcome State Fault Refusal := .next s.planLoaded

/-! ## Arming a switch (R114) -/

/-- The bank to which a switch goes: the one not in force; with none in force the READY one, and of two READY ones the
one that LOAD_BANK names (log 29). -/
def State.targetBank (s : State) : Nat :=
  if s.planOn then 1 - s.active
  else if s.bankState 0 = 2 && s.bankState 1 = 2 then s.rd (pgKeep 0) Pln.LOAD_BANK
  else if s.bankState 1 = 2 then 1 else 0

/-- A refused switch: its PG_ERR bit and a configuration fault. -/
def State.switchRefused (s : State) (bit : Nat) : State := (s.err (pgKeep 0) bit).configFault

/-- A switch armed for tick S, or refused with no effect. -/
def State.armSwitch (s : State) (t : Nat) : State :=
  let b := s.targetBank
  if s.bankState b ≠ 2 then s.switchRefused 10
  else if tickReached s.now t then s.switchRefused 9
  else if s.rdb (pgKeep 0) Pln.ARMED then s.switchRefused 11
  else
    let s1 := ((s.wrb (pgKeep 0) Pln.ARMED true).wr (pgKeep 0) Pln.SWITCH_AT_LO (t % 2 ^ 32)).wr (pgKeep 0) Pln.SWITCH_AT_HI
      (t / 2 ^ 32)
    (s1.setSched { s1.sched with armBank := b, armAt := t }).prefetchAll

/-- SWITCH_AT_WRITE: a write to SWITCH_AT_LO arms a switch for the tick it completes. -/
def execSwitchAtWrite (v : Nat) (s : State) : Host.Outcome State Fault Refusal :=
  .next (s.armSwitch (v % 2 ^ 32 + s.rd (pgKeep 0) Pln.SWITCH_AT_HI * 2 ^ 32))

/-- An armed switch withdrawn, until the boundary of S begins. -/
def State.disarm (s : State) : State :=
  if s.rdb (pgKeep 0) Pln.ARMED && !tickReached s.now s.switchAtTick then (s.wrb (pgKeep 0) Pln.ARMED false).prefetchAll else s

/-- DISARM: SWITCH_AT_HI and DISARM written together (Table 04.8). -/
def execDisarm (hi : Nat) (s : State) : Host.Outcome State Fault Refusal :=
  .next (s.disarm.wr (pgKeep 0) Pln.SWITCH_AT_HI (hi % 2 ^ 16))

end Sys2Proof.Machine
end

