-- ==== Sys2Proof/Machine/Reset.lean ====
section
/-! DEFINITION. What each reset and power-state exit keeps (R404, R408, R409, R428–R432). -/

namespace Sys2Proof.Machine

open Sys2Proof

/-! ## Pages and their fields -/

/-- Block types of Table 17.4. -/
def pageTypes : List Nat :=
  [0x0001, 0x0002, 0x0003, 0x0010, 0x0011, 0x0012, 0x0020, 0x0030, 0x0031, 0x0032, 0x0033, 0x0034, 0x0035] ++
  [0x0040, 0x0050, 0x0051, 0x0052, 0x0053, 0x0054]

/-- Every page of register space. -/
def allPages : List PageId := pageTypes.flatMap fun ty => (List.range (pageCount ty)).map fun i => ⟨ty, i⟩

/-- Fields for which `f` holds keep what they hold; every other field takes its reset value. -/
def State.keepRegs (s : State) (f : PageId → Reg → Bool) : State :=
  let k (x : RegKey) : Bool := match fieldOfKey x with
    | some y => f y.1 y.2.1
    | none => false
  { s with
    regs := s.regs.filter fun x => k x.1
    staged := s.staged.filter fun x => k x.1
    hidden := s.hidden.filter fun x => k x.1
    trip := s.trip.filter fun x => k x.1 }

/-- The page is locked (R410). -/
def State.locked (s : State) (p : PageId) : Bool := s.raw p Hdr.LOCK = 1

/-- DEFAULTED set with its cause (R408). -/
def State.default (s : State) (p : PageId) (kind : Nat) : State := (s.wri p Hdr.DEFAULTED 0 1).put p Hdr.DEF_KIND 0 kind

/-- A setting (R407). -/
def isSetting (r : Reg) : Bool :=
  match r.acc with
  | .rw | .rwt | .rwl | .w1s => true
  | .ro | .w1c | .wo => false

/-- A field that holds present status, not a setting, counter or record. -/
def isStatus (r : Reg) : Bool := r.kind = .status

/-- Header fields that a page reset sets anew (Table 17.3). -/
def pageResetHdr (r : Reg) : Bool := r = Hdr.FREEZE || r = Hdr.RST_PEND || r = Hdr.PG_SCRATCH

/-! ## Page reset (R404) -/

/-- A page reset at its boundary. -/
def State.pageReset (s : State) (p : PageId) : State :=
  let s1 := s.unfreeze p
  let s2 := s1.keepRegs fun q r => q ≠ p || (if r.off < 0x100 then !pageResetHdr r else isStatus r && r ≠ Ocu.TS_MAX)
  (s2.default p 4).wrb pgFinial Fin.TEST_ACTIVE false

/-- Every page reset that is armed takes place. -/
def State.pageResets (s : State) : State :=
  ((s.regs.filter fun x => x.2 = 1 && x.1.off = Hdr.RST_PEND.off && x.1.lo = Hdr.RST_PEND.lo).map
    fun x => (⟨x.1.ty, x.1.inst⟩ : PageId)).foldl State.pageReset s

/-- A write of SOFT_RST arms a page reset. -/
def State.armReset (s : State) (p : PageId) : State :=
  if softRstWritable p.ty then s.put p Hdr.RST_PEND 0 1 else s

/-- SOFT_RST. -/
def execSoftRst (p : PageId) (s : State) : Host.Outcome State Fault Refusal := .next (s.armReset p)

/-! ## Planned work abandoned (R49, R430) -/

/-- The PG_ERR bit ABORTED of a unit's page. -/
def abortedBit (kind unit : Nat) : Nat :=
  if kind = 3 then 6 else if kind = 4 && 0x100 ≤ unit then 7 else 4

/-- STATE of a unit's page: 2 aborted. -/
def State.unitState (s : State) (kind unit v : Nat) : State :=
  if kind = 1 then s.wr (pgCe unit) Ce.STATE v
  else if kind = 2 then s.wr (pgTile unit) Til.STATE v
  else if kind = 3 then s.wr (pgUe unit) Ue.STATE v
  else if 0x100 ≤ unit then s.wr (pgCodec (unit - 0x100)) Cdc.STATE v
  else s.wr (pgHbm unit) Hbm.MV_MSTATE v

/-- A tick abort of a unit with runs: its runs end, its page shows it. -/
def State.abortUnit (s : State) (kind unit : Nat) : State :=
  let s1 := (s.unitState kind unit 2).err (unitPage kind unit) (abortedBit kind unit)
  let s2 := if kind = 1 then (List.range 4).foldl (fun t i => t.wri (pgCe unit) Ce.SLOT_VALID i 0) s1 else s1
  { s2 with runs := s2.runs.filter fun r => !(r.kind = kind && r.unit = unit) }

/-- The units that have runs. -/
def State.runningUnits (s : State) : List (Nat × Nat) := (s.runs.map fun r => (r.kind, r.unit)).eraseDups

/-- A tile's body abandoned. -/
def State.abortTile (s : State) (g : Nat) : State :=
  if (s.tile g).body.isSome then
    let s1 := (s.wr (pgTile g) Til.STATE 2).err (pgTile g) 4
    s1.setTile g { s1.tile g with
      body := none, late := false, done := [], waits := [], flags := [], signalled := [], engine := none }
  else s

/-- Every planned unit abandons its work. -/
def State.abortAll (s : State) : State :=
  s.tilesKnown.foldl State.abortTile (s.runningUnits.foldl (fun t u => t.abortUnit u.1 u.2) s)

/-! ## Fabric reset (R430) -/

/-- No plan is in force: the plan registers and the scheduled data are as after reset. -/
def State.noPlan (s : State) : State :=
  let s1 := (s.emptyBank 0).emptyBank 1
  let s2 := s1.wrs (pgKeep 0) [(Pln.ACTIVE, 0), (Pln.ARMED, 0), (Pln.LANDING_OLD, 0), (Pln.STEP_IDX, 0), (Pln.VAR_CUR, 0),
    (Pln.VAR_ARMED, 0), (Pln.PLAN_ID_LO, 0), (Pln.PLAN_ID_HI, 0)]
  let s3 := (List.range 4).foldl (fun t k => t.wr (pgKeep k) Slt.LAND_SIZE 0) s2
  let s4 := (List.range 8).foldl (fun t c => t.wr (pgDrum c) Drm.CLAIM_NOW 0) s3
  { s4 with
    sched := { State.reset.sched with prev := { State.reset.sched.prev with tick := s.now } }
    opn := { s4.opn with landing := [] } }

/-- A running or draining Keep mover goes to ABORTED. -/
def State.stopMover (s : State) (k : Nat) : State :=
  if s.rd (pgKeep k) Mov.MV_STATE = 1 || s.rd (pgKeep k) Mov.MV_STATE = 2 then
    { s.wr (pgKeep k) Mov.MV_STATE 5 with movers := AL.put s.movers k Mover.idle }
  else s

/-- Failed set, rounds, holds and training-step state clear; stale and promoted segments stay as they are. -/
def State.watchClear (s : State) : State :=
  let s1 := s.wrs pgWatch [(Wat.HOLD_SET, 0), (Wat.IN_FLIGHT, 0), (Wat.DECL_VALID, 0), (Wat.RB_STATE, 0), (Wat.RB_PENDING, 0)]
  s1.setWatch { Watch.idle with stale := s.watch.stale, promoted := s.watch.promoted }

/-- A fabric reset. -/
def State.fabricReset (s : State) : State :=
  let s1 := s.abortAll.noPlan
  let s2 := (List.range 4).foldl State.stopMover s1
  let s3 := (s2.wrb pgBelfry Bel.JOINED false).watchClear
  (s3.wr pgLantern Boo.RESET_CAUSE 3).wrb pgFinial Fin.TEST_ACTIVE false

/-! ## Module and cold reset, P3 exit (R428–R432) -/

/-- Monitors' quarantine masks. -/
def isQuarMask (r : Reg) : Bool := r = Itg.QUAR_MASK || r = Itg.OPT_QUAR_LANES

/-- A page that is powered in P3: Lantern global, host MAC, Buttress, Vane mirror, Finial, and Keep 3's attachment. -/
def p3Page (p : PageId) : Bool := [0x0001, 0x0012, 0x0052, 0x0053, 0x0054].contains p.ty

/-- CAL_* settings. -/
def isCal (p : PageId) (r : Reg) : Bool := p.ty = 0x0001 && 0x400 ≤ r.off && r.off < 0xE00

/-- What a module reset keeps (Tables 17.3 and 18.5). The Buttress's present status stands. -/
def State.keptByModule (s : State) (p : PageId) (r : Reg) : Bool :=
  r = Hdr.LOCK || (r.acc = .rwl && s.locked p) || (p.ty = 0x0052 && 0x100 ≤ r.off && isStatus r && r ≠ But.MOD_STATE)
    || (p.ty = 0x0051 && isQuarMask r) || (p.ty = 0x0054 && r = Fin.DBG_OPEN)

/-- What a P3 exit keeps: the header but for its errors' causes, the pages powered in P3, locked settings, masks,
self-test results, Table 05.2 and the frame table. -/
def State.keptByP3 (s : State) (p : PageId) (r : Reg) : Bool :=
  r.off < 0x100 || p3Page p || (r.acc = .rwl && s.locked p)
    || (p.ty = 0x0051 && (isQuarMask r || r = Itg.ST_PASS || r = Itg.ST_DONE))
    || (p.ty = 0x0020 && p.inst = 3 && 0x300 ≤ r.off && r.off < 0x800)

/-- Pages to which a P3 exit applies reset values: those with a setting that it does not keep. -/
def State.defaultedByP3 (s : State) (p : PageId) : Bool :=
  !p3Page p && (blockFields p).any fun r => isSetting r && !s.keptByP3 p r

/-- Cells of the boot flash and, where kept, of HBM. -/
def cellsKept (m : List Host.Cell) (hbm : Bool) : List Host.Cell :=
  m.filter fun c => (spFlash * 2 ^ 40 ≤ c.1 && c.1 < (spFlash + 1) * 2 ^ 40) || (hbm && c.1 < 2 ^ 40)

/-- What the Buttress, the Vane, the fuses, the queue and the outputs hold survives; everything behind the dies is as
after power-up, with the given registers, cells, sessions and HBM errors. -/
def State.rebuild (s : State) (regs : State) (hbm sessions : Bool) : State :=
  { State.reset with
    pending := s.pending, out := s.out, free := s.free, clock := s.clock
    regs := regs.regs, staged := regs.staged, hidden := regs.hidden, trip := regs.trip
    mem := cellsKept s.mem hbm
    arrays := { State.reset.arrays with
      symErr := if hbm then s.arrays.symErr.filter fun x => x.1.1 = spHbm else [] }
    events := if sessions then s.events else State.reset.events
    host := if sessions then s.host else State.reset.host
    belfry := { State.reset.belfry with tickStart := s.clock }
    power := { s.power with doms := [], asked := [], wakeAt := [], prog := false }
    fuses := s.fuses, vane := s.vane
    keys := s.keys
    meas := if sessions then s.meas.filter fun x => x.1 = measBoot || x.1 = 5 else []
    trust := if sessions then s.trust else Trust.idle
    sessions := if sessions then s.sessions else []
    opening := if sessions then s.opening else []
    margin := [] }

/-- The coolant is confirmed and within its limits (R419, R420). -/
def State.cooled (s : State) : Bool := s.power.coolant && s.rdb pgButtress But.COOL_OK

/-- The module reset's effect on every die but the Buttress and the Vane. `src`: 0 RESET_N, 1 MOD_REQ. Boot starts at FINIAL, or at
COOLANT, with a new confirmation, where COOL_OK is 0 (R419, Table 18.4). -/
def State.moduleReset (s : State) (src : Nat) : State :=
  let s1 := s.rebuild (s.keepRegs s.keptByModule) true false
  let s2 := allPages.foldl (fun t p => t.default p 2) { s1 with power := { s1.power with coolant := s.cooled } }
  s2.wrs pgLantern [(Boo.RESET_CAUSE, 2), (Boo.MRST_SRC, src), (Boo.BOOT_PHASE, if s.cooled then 3 else 2)]

/-- TRIP_CAUSE and TRIP_SENSOR survive while a feed stays good (R421), and the feeds' status is what it is. -/
def keptByCold (p : PageId) (r : Reg) : Bool :=
  p.ty = 0x0052 && (r = But.TRIP_CAUSE || r = But.TRIP_SENSOR || r = But.MAIN_GOOD || r = But.BACKUP_GOOD || r = But.ON_BACKUP
    || r = But.SUP_OK || r = But.MAIN_MV || r = But.BACKUP_MV || r = But.FLOW || r = But.INLET)

/-- A cold reset: everything but the Vane, the fuses and the flash (R428). -/
def State.coldReset (s : State) : State :=
  let s1 := s.rebuild (s.keepRegs keptByCold) false false
  { s1 with power := { Power.first with shdnLow := s.power.shdnLow, resetLow := s.power.resetLow, tripAt := s.power.tripAt } }

end Sys2Proof.Machine
end

