-- ==== Sys2Proof/Machine/Watch.lean ====
section
/-! DEFINITION. Watch: training steps, rounds and their decision, the switch tick, holds and commands (R349–R361, R364). -/

namespace Sys2Proof.Machine

open Sys2Proof

/-! ## Training steps (R349, R350) -/

/-- NEXT_STEP. -/
def State.nextStepNo (s : State) : Nat := s.rd2 pgWatch Wat.NEXT_STEP_LO Wat.NEXT_STEP_HI

/-- W_CONF and SW_LEAD. -/
def State.wConf (s : State) : Nat := s.rd pgWatch Wat.W_CONF
def State.swLead (s : State) : Nat := s.rd pgWatch Wat.SW_LEAD

/-- A run takes the reports of tick `td`: the tick is no later than E_n + 4. -/
def StepRun.takes (r : StepRun) (td : Nat) : Bool :=
  match r.last with
  | some e => tickReached (tickAdd e 4) td
  | none => true

/-- The run to which a report is charged, of runs newest first; none: the next step to begin (R350). -/
def chargeOf (l : List StepRun) (td : Nat) : Option StepRun :=
  let later := l.reverse.find? fun r => tickLater r.start td
  match l.find? fun r => tickReached td r.start with
  | some r => if r.takes td then some r else later
  | none => later

/-- Classes that are charged to a step (R350). -/
def charged (cls : Nat) : Bool := 1 ≤ cls && cls ≤ 5

/-- Classes that name an aborted step (R357). -/
def aborts (cls : Nat) : Bool := 1 ≤ cls && cls ≤ 4

/-- A report charged to a run is held: one of a round that is not decided (R350, log 216). -/
def State.chargedTo (s : State) (r : StepRun) : Bool :=
  s.watch.held.any fun x => charged x.cls && chargeOf s.watch.steps x.td = some r

/-- Declaration at the boundary that starts D_n = E_n + 5 + W_CONF (R350). -/
def State.declareRun (s : State) (r : StepRun) : State :=
  match r.last with
  | none => s
  | some e =>
    if s.now = tickAdd e (5 + s.wConf) && !r.declared && !r.aborted && !s.chargedTo r then
      let w := { s.watch with
        decl := r.num, steps := s.watch.steps.map fun q => if q = r then { q with declared := true } else q }
      ((s.setWatch w).wrb pgWatch Wat.DECL_VALID true).bump pgWatch Wat.DECLARED
    else s

/-- Declarations of the current boundary, in the order the runs began. -/
def State.declareAll (s : State) : State := s.watch.steps.reverse.foldl State.declareRun s

/-- A training step begins: a replay keeps its number, any other start takes NEXT_STEP (R349). -/
def State.beginStep (s : State) (replay : Bool) : State :=
  let old : Option Nat := if replay then s.watch.aborted else none
  let keep : Bool := match old with
    | some n => s.watch.steps.any fun r => r.num = n
    | none => false
  let num := old.getD s.nextStepNo
  let s1 := if keep then s else s.wr2 pgWatch Wat.NEXT_STEP_LO Wat.NEXT_STEP_HI (tickAdd s.nextStepNo 1)
  let run : StepRun :=
    { num := num, start := s.now, last := none, declared := false, aborted := false, incs := s.belfry.srIncs }
  (s1.setWatch { s1.watch with
    steps := run :: s1.watch.steps, flight := num, aborted := if replay then none else s1.watch.aborted }).wrb
    pgWatch Wat.IN_FLIGHT true

/-- E_n: the tick that carries TRAIN_END in the run of the newest step. -/
def State.endStep (s : State) : State :=
  match s.watch.steps with
  | r :: l => if r.last.isNone then s.setWatch { s.watch with steps := { r with last := some s.now } :: l } else s
  | [] => s

/-- The training step of a tick that has a plan step (R349). -/
def State.trainStep (s : State) (replay : Bool) : State :=
  if s.rdb pgWatch Wat.TRAIN_EN && s.planOn then
    let s1 := if s.stepIdx = s.rd pgWatch Wat.TRAIN_START then s.beginStep replay else s
    if s.stepIdx = s.rd pgWatch Wat.TRAIN_END then s1.endStep else s1
  else s

/-- The aborted step and every run begun after it are aborted: they are never declared. -/
def abortRuns (n : Nat) : List StepRun → List StepRun
  | [] => []
  | r :: l => if r.num = n then { r with aborted := true } :: l else { r with aborted := true } :: abortRuns n l

/-- A step is aborted, and counted once. -/
def State.abortStep (s : State) (n : Nat) : State :=
  if s.watch.aborted = some n then s
  else
    let steps := if s.watch.steps.any fun r => r.num = n then abortRuns n s.watch.steps else s.watch.steps
    (s.setWatch { s.watch with aborted := some n, steps := steps }).bump pgWatch Wat.ABORTS

/-! ## SR_ORIGIN (R361, R376) -/

/-- SR_ORIGIN of a unit moved by a number of ticks. -/
def State.srMove (s : State) (d : Nat) (p : PageId) : State :=
  let v := tickAdd (s.raw p Ari.SR_ORIGIN_LO + 2 ^ 32 * s.raw p Ari.SR_ORIGIN_HI) d
  (s.put p Ari.SR_ORIGIN_LO 0 (v % 2 ^ 32)).put p Ari.SR_ORIGIN_HI 0 (v / 2 ^ 32)

/-- Pages of the SR-capable units: tiles and update engines. -/
def srPages : List PageId := (List.range 256).map pgTile ++ (List.range 8).map pgUe

/-- SR_ORIGIN of every tile and update engine moved. -/
def State.srMoveAll (s : State) (d : Nat) : State := if d = 0 then s else srPages.foldl (fun t p => t.srMove d p) s

/-- A skipped or held boundary adds 1 to SR_ORIGIN (R376). -/
def State.srSkip (s : State) : State :=
  (s.srMoveAll 1).setBelfry { s.belfry with srIncs := s.belfry.srIncs + 1 }

/-- A replay boundary takes back the Belfry's increments since the aborted step last started, and adds the displacement
(R361, R376). -/
def State.srReplay (s : State) : State :=
  match s.watch.aborted with
  | none => s
  | some n =>
    match s.watch.steps.find? fun r => r.num = n with
    | none => s
    | some r =>
      s.srMoveAll (tickAdd (tickSub s.now r.start) (tickMod - (s.belfry.srIncs - r.incs) % tickMod))

/-! ## Failed set and failed modules -/

/-- The failed links known. -/
def State.failedLinks (s : State) : List Nat := s.watch.failed.filter keyIsLink

/-! ## Holds -/

/-- The causes of HOLD_SET: 0 NAN_HALT, 1 RESTORE, 2 NO_VARIANT, 3 PAIR_LOSS, 4 RESTORE_FAIL. -/
def State.holdSet (s : State) : Nat := s.rd pgWatch Wat.HOLD_SET

/-- Causes added to HOLD_SET. -/
def State.addHold (s : State) (set : Nat) : State := s.wr pgWatch Wat.HOLD_SET (Nat.lor s.holdSet set)

/-- HOLD_WHY: the highest-ranked cause (R358). -/
def holdWhy (set : Nat) : Nat :=
  if bit set 3 then 4 else if bit set 4 then 5 else if bit set 2 then 3 else if bit set 0 then 1 else if bit set 1 then 2 else 0

/-- A cause that falls due at the next switch tick. -/
def State.causeAtSwitch (s : State) (set : Nat) : State :=
  s.setWatch { s.watch with switchSet := Nat.lor s.watch.switchSet set }

/-! ## Pair loss (R368, R369) -/

/-- Entries whose only copy lies on a module of a list: sources of restore-phase copies not done, and primaries of stale
mirrors. Those known to be lost are not counted again. -/
def State.lostEntries (s : State) (gone : List Nat) : List Nat :=
  let todo := match s.watch.restore with
    | some r => r.todo
    | none => []
  (todo ++ s.watch.stale.map StaleSeg.idx).eraseDups.filter fun i =>
    gone.contains (fstPartner (s.fstEntry i)) && !s.watch.lost.contains i

/-- Entries of this module for the role of a module that failed together with its partner: primary MIRRORED entries whose
logical module lies on one of the modules of a list and whose PARTNER is another (R368). -/
def State.pairEntries (s : State) (gone : List Nat) : List Nat :=
  s.fstValids.filter fun i =>
    let e := s.fstEntry i
    fstMirrored e && fstSpace e = 0 && fstState e = 0 && gone.contains (fstPartner e)
      && gone.contains (s.remap 0 (s.routeCur 0) (fstLog e)) && !s.watch.lost.contains i

/-- PAIR_LOSS: PG_ERR, the record while it is clear, the event; the entries are known to be lost from now on. -/
def State.pairLoss (s : State) (l : List Nat) : State :=
  match l with
  | [] => s
  | i :: _ =>
    let e := s.fstEntry i
    let s1 := (s.setWatch { s.watch with lost := s.watch.lost ++ l }).err pgWatch 3
    let s2 := if s1.rdb pgWatch Wat.PL_VALID then s1.again pgWatch Wat.PL_VALID
      else s1.wrs pgWatch [(Wat.PL_VALID, 1), (Wat.PL_SEGS, l.length), (Wat.PL_LOG, fstLog e), (Wat.PL_SRC, fstPartner e),
        (Wat.PL_TICK_LO, s.now % 2 ^ 32), (Wat.PL_TICK_HI, s.now / 2 ^ 32)]
    s2.eventE pgWatch 0x0012 (leBytes 2 (s2.rd pgWatch Wat.PL_LOG) ++ leBytes 2 (s2.rd pgWatch Wat.PL_SRC)
      ++ leBytes 2 (s2.rd pgWatch Wat.PL_SEGS))

/-! ## Digests (R356) -/

/-- The 16 bytes of a report identifier. -/
def reportId (r : Report) : List Byte :=
  padTo 16 (leBytes 1 r.cls ++ leBytes 4 r.key ++ leBytes 6 r.td ++ leBytes 2 r.entry)

/-- Order of report identifiers: CLASS, KEY, TD, ENTRY. -/
def reportLe (a b : Report) : Bool :=
  if a.cls ≠ b.cls then a.cls < b.cls
  else if a.key ≠ b.key then a.key < b.key
  else if a.td ≠ b.td then a.td < b.td
  else a.entry ≤ b.entry

/-- The digest of a decided set. -/
def digestOf (l : List Report) : Nat := crc32c ((l.mergeSort reportLe).flatMap reportId)

/-- A differing digest of a neighbour: PG_ERR.AGREE_FAIL and a LINK report for its direction, detected in the tick `t` of its
receipt. -/
def State.agreeFail (s : State) (d t : Nat) : State := (s.err pgWatch 1).reportLinkAt d t

/-- A digest received from direction `d`; one that comes before the own decision waits for it. -/
def State.digestIn (s : State) (d c x : Nat) : State :=
  match AL.get s.watch.digests c with
  | some y => if x = y then s else s.agreeFail d s.now
  | none => s.setWatch { s.watch with early := s.watch.early ++ [(d, c, x, s.now)] }

/-- The own decision of the round with cut `c` meets the digests that came before it. -/
def State.digestEarly (s : State) (c x : Nat) : State :=
  let mine := s.watch.early.filter fun e => e.2.1 = c
  mine.foldl (fun (t : State) (e : Nat × Nat × Nat × Nat) => if e.2.2.1 = x then t else t.agreeFail e.1 e.2.2.2)
    (s.setWatch { s.watch with early := s.watch.early.filter fun e => e.2.1 ≠ c })

/-- DIGEST_RECEIVE. -/
def execDigestReceive (d cut digest : Nat) (s : State) : Host.Outcome State Fault Refusal :=
  .next (if d < 6 then s.digestIn d (cut % tickMod) (digest % 2 ^ 32) else s)

/-! ## The decision (R354, R357) -/

/-- The step that a report charges: its number, or none when its run is declared. -/
def State.chargedStep (s : State) (td : Nat) : Option Nat :=
  match chargeOf s.watch.steps td with
  | some r => if r.declared then none else some r.num
  | none => if s.rdb pgWatch Wat.TRAIN_EN then some (s.watch.aborted.getD s.nextStepNo) else none

/-- The aborted step of a round: the earliest undeclared step charged. -/
def State.abortedBy (s : State) (l : List Report) : Option Nat :=
  minL ((l.filter fun r => aborts r.cls).filterMap fun r => s.chargedStep r.td)

/-- A variant is armed for the switch tick (R118). -/
def State.armVariant (s : State) (v t : Nat) : State :=
  s.wrs (pgKeep 0) [(Pln.VAR_NEXT, v), (Pln.VAR_AT_LO, t % 2 ^ 32), (Pln.VAR_AT_HI, t / 2 ^ 32),
    (Pln.VAR_STEP, s.rd pgWatch Wat.TRAIN_START), (Pln.VAR_ARMED, 1)]

/-- The variant for the failed set is selected and armed, or NO_VARIANT; with no plan in force there is none to select. -/
def State.selectVariant (s : State) (t : Nat) : State :=
  match s.image with
  | none => s
  | some m =>
    match chooseVariant m s.watch.failed with
    | some v => (s.armVariant v t).wr pgWatch Wat.VAR_CHOSEN v
    | none => (s.err pgWatch 2).causeAtSwitch 4

/-- Logical modules of this module's mirror entries that lie on failed modules under the route bank in force (R357). -/
def State.promotes (s : State) (gone : List Nat) : List Nat :=
  ((s.fstValids.map s.fstEntry).filter fun e =>
    fstMirrored e && fstState e = 1 && gone.contains (s.remap 0 (s.routeCur 0) (fstLog e))).map fstLog |>.eraseDups

/-- RESTORING and RESTORED reports of a decided round move the pending set; a failed restore is a cause (R364). -/
def State.restorerReports (s : State) (l : List Report) : State :=
  let on := (l.filter fun r => r.cls = clsRestoring).map fun r => keyCoord r.key
  let off := (l.filter fun r => r.cls = clsRestored).map fun r => keyCoord r.key
  let s1 := s.setWatch { s.watch with
    restorers := (s.watch.restorers ++ on).eraseDups.filter fun c => !off.contains c }
  if l.any fun r => r.cls = clsRestored && r.entry = 1 then
    (if s.isHeld then s1.addHold 16 else s1.causeAtSwitch 16)
  else s1

/-- The round's WATCH_ROUND event (Table 16.6). -/
def State.roundEvent (s : State) (c x : Nat) (n : Option Nat) : State :=
  s.eventE pgWatch 0x0010 (leBytes 6 c ++ leBytes 2 0 ++ leBytes 4 x ++ leBytes 2 s.failedMods.length
    ++ leBytes 2 s.failedLinks.length ++ leBytes 1 (s.rd pgWatch Wat.VAR_CHOSEN) ++ leBytes 1 (b2n n.isSome)
    ++ leBytes 6 (n.getD 0))

/-- The causes that a round itself gives (R358). -/
def roundCauses (l : List Report) (gone : List Nat) : Nat :=
  b2n (l.any fun r => r.cls = clsHold) + 2 * b2n (!gone.isEmpty || l.any fun r => r.cls = clsTorn)

/-- Steps 1 to 5 of R357, for the reports `l` of the round with cut `c`. A variant change that an earlier round armed is one
armed for the switch tick still to come. -/
def State.actOn (s : State) (c : Nat) (l : List Report) : State :=
  let keys := ((l.filter fun r => r.cls = clsLink || r.cls = clsModule).map Report.key).eraseDups.filter fun k =>
    !s.watch.failed.contains k
  let s1 := s.setWatch { s.watch with failed := s.watch.failed ++ keys }
  let gone := s1.failedMods.filter fun x => !s.failedMods.contains x
  let n := s.abortedBy l
  let s2 := match n with
    | some k => s1.abortStep k
    | none => s1
  let t := tickAdd c (s.wConf + s.swLead)
  let s3 := if s2.watch.switchAt = some (s2.rd2 (pgKeep 0) Pln.VAR_AT_LO Pln.VAR_AT_HI) then s2.wr (pgKeep 0) Pln.VAR_ARMED 0 else s2
  let s4 := if keys.isEmpty then s3 else s3.selectVariant t
  let torn := (l.filter fun r => r.cls = clsTorn && keyCoord r.key = s.coord).map Report.entry
  let s5 := s4.setWatch { s4.watch with
    promote := (s4.watch.promote ++ s.promotes gone).eraseDups
    tornOwn := s4.watch.tornOwn ++ torn
    switchAt := some t, reselect := false }
  let lost := (s5.lostEntries gone ++ s5.pairEntries gone).eraseDups
  let s6 := (s5.causeAtSwitch (roundCauses l gone + 8 * b2n (!lost.isEmpty))).pairLoss lost
  (s6.restorerReports l).prefetchAll

/-- The decision of the round with cut `c` (R354, R356, R357). -/
def State.decideRound (s : State) (c : Nat) : State :=
  let l := s.watch.held.filter fun r => tickLater c r.td
  let rest := s.watch.held.filter fun r => !tickLater c r.td
  let x := digestOf l
  let next := (rest.map fun r => tickSub r.td c).foldl (fun (m : Option Nat) d =>
    match m with
    | none => some d
    | some y => some (min y d)) none
  let s1 := s.setWatch { s.watch with
    held := rest, cut := next.map fun d => tickAdd c (d + s.wCut), digests := AL.put s.watch.digests c x }
  let s2 := (s1.bump pgWatch Wat.ROUNDS).wrs pgWatch [(Wat.LAST_DECIDE_LO, s.now % 2 ^ 32),
    (Wat.LAST_DECIDE_HI, s.now / 2 ^ 32), (Wat.DIGEST, x)]
  let s3 := s2.actOn c l
  let s4 := s3.flood none 0x30 (watchPayload
    { type := 2, cls := 0, c := c, key := 0, td := 0, entry := 0, digest := x, origin := s.coord })
  (s4.digestEarly c x).roundEvent c x (s.abortedBy l)

/-- The open round is due: the boundary that starts C + W_CONF is reached. -/
def State.watchDue (s : State) : Option Nat :=
  match s.watch.cut with
  | some c => if tickReached s.now (tickAdd c s.wConf) then some c else none
  | none => none

/-! ## The resume without a command (R364) -/

/-- G of the hold in force. -/
def State.holdG (s : State) : Nat := tickAdd s.watch.holdAt (s.wCut + s.wConf)

/-- A resume is armed while RESTORE is the only cause and the pending set is empty: at a decision at or after G, or at the
boundary that starts G. -/
def State.armResume (s : State) (decided : Bool) : State :=
  if s.holdSet = 2 && s.watch.resumeAt.isNone && s.watch.restorers.isEmpty
      && ((decided && tickReached s.now s.holdG) || s.now = s.holdG) then
    s.setWatch { s.watch with resumeAt := some (tickAdd s.now s.swLead) }
  else s

/-- The hold ends; the step that it carries replays from this tick (R360). -/
def State.endHold (s : State) : State :=
  (s.wr pgWatch Wat.HOLD_SET 0).setWatch { s.watch with
    lost := [], resumeAt := none, replayAt := if s.watch.aborted.isSome then some s.now else s.watch.replayAt }

/-- The armed resume at its tick; a hold that has another cause by then stays. -/
def State.autoResume (s : State) : State :=
  match s.watch.resumeAt with
  | none => s
  | some r =>
    if s.holdSet ≠ 2 then s.setWatch { s.watch with resumeAt := none }
    else if tickReached s.now r then s.endHold
    else s

/-- AUTO_RESUME. -/
def execAutoResume (s : State) : Host.Outcome State Fault Refusal := .next s.autoResume

/-- The open round decided, when due, and the resume that its decision may arm. -/
def State.decide (s : State) : State :=
  match s.watchDue with
  | some c => (s.decideRound c).armResume true
  | none => s.armResume false

/-- ROUND_DECISION. -/
def execRoundDecision (s : State) : Host.Outcome State Fault Refusal := .next s.decide

/-! ## Reports received (R353) -/

/-- A REPORT message of a class of Table 14.1 from torus direction `d`. -/
def State.watchReport (s : State) (d : Nat) (m : WatchMsg) : State :=
  if m.type = 1 && 1 ≤ m.cls && m.cls ≤ 7 && d < 6 then
    s.holdReport { cls := m.cls, key := m.key % 2 ^ 19, td := m.td % tickMod, entry := m.entry } (some d)
      (some (m.c % tickMod))
  else s

/-- WATCH_REPORT. -/
def execWatchReport (d : Nat) (m : WatchMsg) (s : State) : Host.Outcome State Fault Refusal := .next (s.watchReport d m)

/-- A LINK report of a neighbour that has been silent for four ticks in a row, once (Table 14.1, R352). The count goes on to
5 with it, so that one silence is reported once. -/
def State.neighbourSilent (s : State) (d : Nat) : State :=
  if s.joined && s.linkUp (torusLink d) && AL.getD s.belfry.silent d 0 = 4 then
    ((s.setBelfry { s.belfry with silent := AL.put s.belfry.silent d 5 }).err pgWatch 0).reportLink d
  else s

/-- NEIGHBOUR_SILENT. -/
def execNeighbourSilent (d : Nat) (s : State) : Host.Outcome State Fault Refusal :=
  .next (if d < 6 then s.neighbourSilent d else s)

/-! ## Latched reads (Table 14.5) -/

/-- A read of FLIGHT_STEP_LO latches FLIGHT_STEP_HI; likewise DECL_STEP_LO. -/
def State.readFlight (s : State) : Nat × State :=
  (s.watch.flight % 2 ^ 32, s.put pgWatch Wat.FLIGHT_STEP_HI 0 (s.watch.flight / 2 ^ 32))
def State.readDecl (s : State) : Nat × State :=
  (s.watch.decl % 2 ^ 32, s.put pgWatch Wat.DECL_STEP_HI 0 (s.watch.decl / 2 ^ 32))

/-- FLIGHT_STEP_LO_READ. -/
def execFlightStepLoRead (s : State) : Host.Outcome State Fault Refusal :=
  .next (s.readFlight.2.emit (.value s.readFlight.1))

/-- DECL_STEP_LO_READ. -/
def execDeclStepLoRead (s : State) : Host.Outcome State Fault Refusal :=
  .next (s.readDecl.2.emit (.value s.readDecl.1))

/-! ## Commands (R360) -/

/-- The payload of a COMMAND message. -/
def commandPayload (code at_ origin : Nat) : List Byte :=
  watchPayload { type := 3, cls := code, c := at_, key := 0, td := 0, entry := 0, digest := 0, origin := origin }

/-- A command named for tick `t`, given here or received from direction `src`: flooded as R53 floods, refused when late,
and refused while this module restores, FABRIC_RESET apart. -/
def State.command (s : State) (code t : Nat) (src : Option Nat) (origin : Nat) : State :=
  if code = 0 || 3 < code || s.floodedBefore 0x30 t then s
  else if !tickLater t s.now then s.err pgWatch 7
  else if tickSub t s.now > 1023 then s.err pgBelfry 5
  else
    let s1 := (s.rememberFlood 0x30 t).flood src 0x30 (commandPayload code t origin)
    if code ≠ 3 && s1.rd pgWatch Wat.RB_STATE = 1 then s1.err pgWatch 8
    else (s1.setWatch { s1.watch with cmds := s1.watch.cmds ++ [(t, code)] }).prefetchAll

/-- A write of CMD. -/
def State.writeCmd (s : State) (code : Nat) : State :=
  s.command code (s.rd2 pgWatch Wat.CMD_AT_LO Wat.CMD_AT_HI) none s.coord

/-- CMD_RESUME. -/
def execCmdResume (s : State) : Host.Outcome State Fault Refusal := .next (s.writeCmd 1)

/-- CMD_ABORT. -/
def execCmdAbort (s : State) : Host.Outcome State Fault Refusal := .next (s.writeCmd 2)

/-- CMD_FABRIC_RESET. -/
def execCmdFabricReset (s : State) : Host.Outcome State Fault Refusal := .next (s.writeCmd 3)

/-- COMMAND_RECEIVE. -/
def execCommandReceive (d : Nat) (m : WatchMsg) (s : State) : Host.Outcome State Fault Refusal :=
  .next (if m.type = 3 && d < 6 then s.command m.cls (m.c % tickMod) (some d) (m.origin % 2 ^ 15) else s)

/-- ABORT at its tick: the step in flight is aborted; the plan goes on at TRAIN_START from this tick. -/
def State.cmdAbort (s : State) : State :=
  let s1 := if s.rdb pgWatch Wat.IN_FLIGHT then s.abortStep s.watch.flight else s
  s1.endHold.setWatch { s1.endHold.watch with replayAt := some s.now }

/-- A command at its tick. -/
def State.takeCommand (s : State) (code : Nat) : State :=
  if code = 1 then (if s.isHeld then s.endHold else s)
  else if code = 2 then s.cmdAbort
  else s.fabricReset

/-- The commands whose tick is reached take effect. -/
def State.takeCommands (s : State) : State :=
  let due := s.watch.cmds.filter fun c => tickReached s.now c.1
  due.foldl (fun t c => t.takeCommand c.2)
    (s.setWatch { s.watch with cmds := s.watch.cmds.filter fun c => !tickReached s.now c.1 })

/-- COMMAND_TAKE_EFFECT. -/
def execCommandTakeEffect (s : State) : Host.Outcome State Fault Refusal := .next s.takeCommands

end Sys2Proof.Machine
end

