-- ==== Sys2Proof/Machine/Restore.lean ====
section
/-! DEFINITION. Watch: promotion, restore and rebuild, the switch tick, the pair check and joining (R348, R358, R362–R370). -/

namespace Sys2Proof.Machine

open Sys2Proof

/-! ## Promotion (R358, R367) -/

/-- Word 0 of an entry replaced. -/
def State.setFst0 (s : State) (i v : Nat) : State := { s with fst := AL.put s.fst i ((s.fstEntry i).set 0 v) }

/-- Word 0 with STATE, WR and AT given. -/
def fstWord0 (v st : Nat) (wr at_ : Bool) : Nat :=
  v - bits v 1 2 * 2 - bits v 4 2 * 16 + st * 2 + b2n wr * 16 + b2n at_ * 32

/-- A staged shard whose header shows a declared step, with DIRTY clear (R358). -/
def State.stagedDeclared (s : State) (loc p : Nat) : Bool :=
  let h := s.headAt loc
  s.rdb pgWatch Wat.DECL_VALID && h.ok && h.p = p && h.prog = 0 && !h.dirty && h.step ≤ s.watch.decl

/-- The COMMIT pass shards of the plan in force that write an entry: pass unit, program, P and the shard. -/
def State.commitShards (s : State) (i : Nat) : List (Nat × List Byte × Nat × Shard) :=
  match s.image with
  | none => []
  | some m =>
    let acts := (imgActions m).filter fun a => a.kind = 3 && (passOf (actionObj m a)).pass = 5
    (acts.flatMap fun a =>
      let o := actionObj m a
      ((passOf o).shards.filter fun x => (s.vaEntry x.seg).map (·.1) = some i).map fun x =>
        (a.unit, passProg m o, AL.getD (((s.bank s.active).map Bank.parms).getD []) x.seg 0, x)).eraseDups

/-- A staged shard committed whole at promotion: its written streams, then its header. -/
def State.promoteShard (s : State) (x : Nat × List Byte × Nat × Shard) : State :=
  let loc := s.vaLoc x.2.2.2.grad
  let dst := s.vaLoc x.2.2.2.seg
  if s.stagedDeclared loc x.2.2.1 && !s.vaFrozen x.2.2.2.seg then
    let s1 := (uWritten x.2.1).foldl (fun (t : State) (y : UStream) =>
      (t.hbmCopy (loc + y.1) (dst + y.1) (x.2.2.1 * fmtBytes y.2)).1) s
    (s1.hbmCopy loc dst 64).1.bump (pgUe x.1) Ue.COMMITTED
  else s

/-- A mirror entry becomes a restore source: staged shards commit, STATE 0, WR and AT clear. -/
def State.promote (s : State) (i : Nat) : State :=
  let e := s.fstEntry i
  let s1 := (s.commitShards i).foldl State.promoteShard s
  (s1.setFst0 i (fstWord0 (fw e 0) 0 false false)).setWatch { s1.watch with
    promoted := s1.watch.promoted ++ [{ idx := i, wr := fstWr e, at_ := fstAt e }] }

/-- The armed promotions take place. -/
def State.promoteAll (s : State) : State :=
  let l := s.fstValids.filter fun i =>
    let e := s.fstEntry i
    fstMirrored e && fstState e = 1 && s.watch.promote.contains (fstLog e)
  let s1 := l.foldl State.promote s
  s1.setWatch { s1.watch with promote := [] }

/-- The drain deadline at Keep 0 is reached. -/
def State.drainDue (s : State) : Bool :=
  match (s.route 0).deadline with
  | some d => tickReached s.now d
  | none => false

/-- At the drain deadline of a flip that moves L away, its promoted entries return to STATE 1 with their permissions
(R367). -/
def State.demote (s : State) : State :=
  let back := s.watch.promoted.filter fun x =>
    let l := fstLog (s.fstEntry x.idx)
    s.migrated 0 l && s.remap 0 (s.routeCur 0) l ≠ s.coord
  let s1 := back.foldl (fun (t : State) (x : Promoted) =>
    t.setFst0 x.idx (fstWord0 (fw (t.fstEntry x.idx) 0) 1 x.wr x.at_)) s
  s1.setWatch { s1.watch with promoted := s1.watch.promoted.filter fun x => !back.contains x }

/-- The drain deadline: reservations and banks (R92), and promoted entries (R367). -/
def State.drain (s : State) : State := if s.drainDue then s.demote.drainDeadline else s.drainDeadline

/-- DRAIN_DEADLINE. -/
def execDrainDeadline (s : State) : Host.Outcome State Fault Refusal := .next s.drain

/-! ## Restore (R362–R366) -/

/-- Entries that a restore copies: valid HBM entries with MIRRORED set. -/
def State.restorable (s : State) (i : Nat) : Bool :=
  let e := s.fstEntry i
  fstValid e && fstMirrored e && fstSpace e = 0

/-- RB_PENDING: segments still to copy. -/
def State.showPending (s : State) : State :=
  match s.watch.restore with
  | some r => s.wr pgWatch Wat.RB_PENDING (min (r.todo.length + r.rebuild.length) 0xFFFF)
  | none => s.wr pgWatch Wat.RB_PENDING 0

/-- The restore in progress replaced. -/
def State.setRestore (s : State) (r : Option Restore) : State := (s.setWatch { s.watch with restore := r }).showPending

/-- RESTORE_DONE for a phase (Table 16.6). -/
def State.restoreEvent (s : State) (phase bytes : Nat) : State :=
  s.eventE pgWatch 0x0013 (leBytes 1 (s.rd pgWatch Wat.RB_STATE) ++ leBytes 1 phase ++ leBytes 6 0 ++ leBytes 8 bytes)

/-- The end of a restore phase (R362, R364). -/
def State.restorePhaseEnd (s : State) (r : Restore) : State :=
  let s1 := (s.wr pgWatch Wat.RB_STATE 2).reportSelf clsRestored 0 s.now
  (s1.restoreEvent 0 r.bytes).setRestore (some { r with bytes := 0 })

/-- The Keep whose mover takes a copy: the lowest with no transfer that runs, drains or waits to be resumed (log 149). -/
def State.freeMover (s : State) : Option Nat :=
  (List.range 4).find? fun k => s.mvState k = 0 || 4 ≤ s.mvState k

/-- The transfer that copies entry `i`: 2^SIZE bytes from the physical address (PARTNER, SPACE 0x000, LBASE) to the own LBASE,
set up in the registers of a Keep mover (R319, R362). -/
def State.copySetup (s : State) (k i : Nat) : State :=
  let e := s.fstEntry i
  let p := pgKeep k
  (((s.wr2 p Mov.MV_SRC_LO Mov.MV_SRC_HI (fstPartner e * 2 ^ 49 + fstLbase e)).wr2 p Mov.MV_DST_LO Mov.MV_DST_HI
    (s.coord * 2 ^ 49 + fstLbase e)).wr2 p Mov.MV_LEN_LO Mov.MV_LEN_HI (2 ^ fstSize e)).wrs p
      [(Mov.MV_OP, 1), (Mov.SRC_V, 0), (Mov.DST_V, 0), (Mov.SFMT, 0), (Mov.DFMT, 0)]

/-- The copy in progress starts in a Keep mover, as soon as one is free (R362). -/
def State.copyGo (s : State) : State :=
  match s.watch.restore with
  | none => s
  | some r =>
    match r.cur, s.freeMover with
    | some i, some k =>
      if r.checking || r.mover.isSome then s
      else ((s.copySetup k i).setRestore (some { r with mover := some k })).mvGo k
    | _, _ => s

/-- The restore's next segment: its copy starts. -/
def State.copyStart (s : State) (r : Restore) (i : Nat) : State :=
  (s.setRestore (some { r with cur := some i, checking := false, mismatched := false, mover := none })).copyGo

/-- The rebuild phase goes on with its next segment, or ends. -/
def State.rebuildNext (s : State) (r : Restore) : State :=
  match r.rebuild with
  | i :: _ => s.copyStart r i
  | [] => (s.restoreEvent 1 r.bytes).setRestore none

/-- The restore goes on with its next segment, in ascending index within each phase. -/
def State.restoreNext (s : State) : State :=
  match s.watch.restore with
  | none => s
  | some r =>
    match r.todo with
    | i :: _ => s.copyStart r i
    | [] =>
      if s.rd pgWatch Wat.RB_STATE = 1 then (s.restorePhaseEnd r).rebuildNext { r with bytes := 0 }
      else s.rebuildNext r

/-- A restore over entries starts: RESTORING is reported, mirror segments are stale until rebuilt, and lost sources are
pair loss. Entries join those of a restore in progress. -/
def State.restoreStart (s : State) (l : List Nat) : State :=
  let mine := l.filter s.restorable
  let prim := mine.filter fun i => fstState (s.fstEntry i) = 0
  let mir := mine.filter fun i => fstState (s.fstEntry i) = 1
  let join (a b : List Nat) : List Nat := (a ++ b).eraseDups.mergeSort (· ≤ ·)
  let r : Restore := match s.watch.restore with
    | some r => { r with todo := join r.todo prim, rebuild := join r.rebuild mir }
    | none =>
      { todo := join [] prim, rebuild := join [] mir, cur := none, checking := false, faulted := false,
        mismatched := false, bytes := 0 }
  let s1 := if s.watch.restore.isNone then s.wr2 pgWatch Wat.RB_BYTES_LO Wat.RB_BYTES_HI 0 else s
  let s2 := mir.foldl (fun t i => t.markStale i false) ((s1.wr pgWatch Wat.RB_STATE 1).setRestore (some r))
  let s3 := s2.reportSelf clsRestoring 0 s.now
  let lost := s3.lostEntries s3.failedMods
  let s4 := if lost.isEmpty then s3
    else if s3.isHeld then (s3.pairLoss lost).addHold 8
    else (s3.pairLoss lost).causeAtSwitch 8
  match r.cur with
  | some _ => s4
  | none => s4.restoreNext

/-- RB_GO: a restore over FST indices RB_FIRST to RB_LAST, as the written word gives them. -/
def State.rbGo (s : State) (v : Nat) : State :=
  let s1 := (s.put pgWatch Wat.RB_FIRST 0 (bits v 0 12)).put pgWatch Wat.RB_LAST 0 (bits v 16 12)
  if bit v 31 then
    s1.restoreStart ((s1.fst.map (·.1)).filter fun i => bits v 0 12 ≤ i && i ≤ bits v 16 12)
  else s1

/-- RB_GO. -/
def execRbGo (v : Nat) (s : State) : Host.Outcome State Fault Refusal := .next (s.rbGo v)

/-- A restore fails (R362). -/
def State.restoreFail (s : State) : State :=
  let phase : Bool := s.rd pgWatch Wat.RB_STATE = 1
  let s1 := ((s.wr pgWatch Wat.RB_STATE 3).err pgWatch 10).setRestore none
  if phase then s1.reportSelf clsRestored 1 s.now else s1

/-- The engine that checks a segment: that of the Cupola whose stack holds it. -/
def State.checkEngine (s : State) (i : Nat) : Nat := atomCup (fstLbase (s.fstEntry i) / 64)

/-- A write of a register of another module by Watch, as a MGMT request (R365). -/
def State.watchWrite (s : State) (c tag off v : Nat) : State :=
  s.inject (.moduleUnit 3) (requestFlit 2 tag (c * 2 ^ 49 + 3 * 2 ^ 40 + off) 4 false (leBytes 4 v))

/-- A read of a register of another module by Watch. -/
def State.watchRead (s : State) (c tag off : Nat) : State :=
  s.inject (.moduleUnit 3) (requestFlit 1 tag (c * 2 ^ 49 + 3 * 2 ^ 40 + off) 4 false [])

/-- The check of a copied segment starts in both engines: CHK_BASE, CHK_SIZE, CHK_GO (R365). -/
def State.checkStart (s : State) (i : Nat) : State :=
  let e := s.fstEntry i
  let c := s.checkEngine i
  let lo := fstLbase e % 2 ^ 32 / 2 ^ 21
  let hi := fstLbase e / 2 ^ 32
  let s1 := (s.wrs (pgUe c) [(Ue.CHK_BASE_LO, lo), (Ue.CHK_BASE_HI, hi), (Ue.CHK_SIZE, fstSize e)]).chkGo c 3
  let base := pageBase (pgUe c)
  let to_ := fstPartner e
  ((s1.watchWrite to_ 1 (base + 0x1A4) (lo * 2 ^ 21)).watchWrite to_ 2 (base + 0x1A8) (hi + fstSize e * 2 ^ 16)).watchWrite
    to_ 3 (base + 0x1A0) 1

/-- While a check runs and the own engine is done: CHK_STATE, CHK_SUM and CHK_NORM of the source are read by MGMT MEM_RD, again at
each boundary until they have been answered (R365, log 149). -/
def State.checkAsk (s : State) : State :=
  match s.watch.restore with
  | none => s
  | some r =>
    match r.cur with
    | none => s
    | some i =>
      let c := s.checkEngine i
      let to_ := fstPartner (s.fstEntry i)
      let base := pageBase (pgUe c)
      if r.checking && s.rd (pgUe c) Ue.CHK_STATE = 2 && !((s.resvOf (.moduleUnit 3)).any fun x => 4 ≤ x.tag && x.tag < 9) then
        [(4, Ue.CHK_STATE), (5, Ue.CHK_SUM_LO), (6, Ue.CHK_SUM_HI), (7, Ue.CHK_NORM_LO), (8, Ue.CHK_NORM_HI)].foldl
          (fun (t : State) (x : Nat × Reg) => t.watchRead to_ x.1 (base + x.2.off)) s
      else s

/-- What a restore does at a boundary: a copy that waits for a mover starts, and a check asks its source. -/
def State.restoreTurn (s : State) : State := s.copyGo.checkAsk

/-- A segment has been copied: its bytes are counted. -/
def State.copyCount (s : State) (i : Nat) : State :=
  s.wr2 pgWatch Wat.RB_BYTES_LO Wat.RB_BYTES_HI
    (s.rd2 pgWatch Wat.RB_BYTES_LO Wat.RB_BYTES_HI + 2 ^ fstSize (s.fstEntry i))

/-- A rebuilt segment: it stays stale until a COMMIT that starts later, or is whole at once when frozen (R366). -/
def State.rebuilt (s : State) (i : Nat) : State :=
  if fstFreeze (s.fstEntry i) then
    s.setWatch { s.watch with stale := s.watch.stale.filter fun y => y.idx ≠ i }
  else s.markStale i true

/-- The copy in progress completes: its mover is DONE; or its mover has FAULTED, which is resumed from MV_DONE once (R362, R365,
R366). -/
def State.copyDone (s : State) (ok : Bool) : State :=
  match s.watch.restore with
  | none => s
  | some r =>
    match r.cur, r.mover with
    | some i, some k =>
      if r.checking || s.mvState k ≠ (if ok then 4 else 3) then s
      else if !ok then
        (if r.faulted then s.restoreFail else (s.setRestore (some { r with faulted := true })).mvResume k)
      else
        let s1 := s.copyCount i
        let r1 := { r with bytes := r.bytes + 2 ^ fstSize (s.fstEntry i) }
        if r.todo.contains i then (s1.setRestore (some { r1 with checking := true })).checkStart i
        else ((s1.setRestore (some { r1 with rebuild := r1.rebuild.filter (· ≠ i), cur := none })).rebuilt i).restoreNext
    | _, _ => s

/-- RESTORE_COPY_DONE. -/
def execRestoreCopyDone (ok : Bool) (s : State) : Host.Outcome State Fault Refusal := .next (s.copyDone ok)

/-- Both engines report done: equal results pass; a first mismatch copies again, a second fails the restore (R365). -/
def State.checkDone (s : State) (srcSum srcNorm : Nat) : State :=
  match s.watch.restore with
  | none => s
  | some r =>
    match r.cur with
    | none => s
    | some i =>
      let p := pgUe (s.checkEngine i)
      if r.checking && s.rd p Ue.CHK_STATE = 2 then
        if s.rd2 p Ue.CHK_SUM_LO Ue.CHK_SUM_HI = srcSum % 2 ^ 64 && s.rd2 p Ue.CHK_NORM_LO Ue.CHK_NORM_HI = srcNorm % 2 ^ 64 then
          (s.setRestore (some { r with todo := r.todo.filter (· ≠ i), cur := none, checking := false })).restoreNext
        else if r.mismatched then s.restoreFail
        else (s.setRestore (some { r with checking := false, mismatched := true, mover := none })).copyGo
      else s

/-- RESTORE_CHECK_DONE. -/
def execRestoreCheckDone (srcSum srcNorm : Nat) (s : State) : Host.Outcome State Fault Refusal :=
  .next (s.checkDone srcSum srcNorm)

/-! ## The switch tick (R358) -/

/-- ROLE in force: bit 15 set serves no role. -/
def State.roleNow (s : State) : Nat :=
  match s.image with
  | some m => imgVarRole m s.varCur
  | none => 0x8000

/-- The variant armed for a tick that is reached is taken, with its step index; one that the image lacks is ignored
(R118). -/
def State.takeVariant (s : State) : State :=
  if s.varDue s.now then
    let s1 := s.wr (pgKeep 0) Pln.VAR_ARMED 0
    let v := s.rd (pgKeep 0) Pln.VAR_NEXT
    if v < imgNvar (s.image.getD []) then
      let s2 := (s1.wr (pgKeep 0) Pln.VAR_CUR v).wr (pgKeep 0) Pln.STEP_IDX (s.rd (pgKeep 0) Pln.VAR_STEP)
      s2.setSched { s2.sched with fresh := true }
    else (s1.err (pgKeep 0) 14).moduleFault
  else s

/-- A hold begins or takes further causes: HOLD_SET, its tick, the event WATCH_HELD (R358). -/
def State.enterHold (s : State) (t set : Nat) : State :=
  let was := s.isHeld
  let s1 := s.addHold set
  let s2 := if was then s1 else s1.setWatch { s1.watch with holdAt := t }
  s2.eventE pgWatch 0x0011 (leBytes 1 (holdWhy s2.holdSet) ++ leBytes 1 s2.holdSet ++ leBytes 6 t)

/-- The variant is selected again from the new bank when a plan switch fell since the decision (R358). -/
def State.reselectVariant (s : State) (t : Nat) : State :=
  if s.watch.reselect && !s.watch.failed.isEmpty then
    let s1 := (s.wr (pgKeep 0) Pln.VAR_ARMED 0).selectVariant t
    s1.setWatch { s1.watch with reselect := false }
  else s

/-- The entries of a role that a restore covers: every entry of the table (R362, R363). -/
def State.roleEntries (s : State) : List Nat := s.fst.map (·.1)

/-- The switch tick `t` (R358). -/
def State.switchAct (s : State) (t : Nat) : State :=
  let s0 := s.reselectVariant t
  let w := s0.watch
  let s1 := s0.setWatch { w with switchAt := none, switchSet := 0, tornOwn := [], flight := w.aborted.getD w.flight }
  let s2 := s1.promoteAll
  let role := s2.roleNow
  let held : Bool := s2.isHeld || w.switchSet ≠ 0
  let s3 := if held || !s2.skipped then s2.takeVariant else s2
  let s4 := if w.switchSet ≠ 0 then s3.enterHold t w.switchSet
    else if !s3.isHeld && w.aborted.isSome then s3.setWatch { s3.watch with replayAt := some t }
    else s3
  let l := (if s4.roleNow ≠ role then s4.roleEntries else []) ++ w.tornOwn
  if l.isEmpty then s4 else s4.restoreStart l.eraseDups

/-- The switch tick, when it is reached. -/
def State.switchTick (s : State) : State :=
  match s.watch.switchAt with
  | some t => if tickReached s.now t then s.switchAct t else s
  | none => s

/-- SWITCH_TICK. -/
def execSwitchTick (s : State) : Host.Outcome State Fault Refusal := .next s.switchTick

/-! ## Pairs (R348) -/

/-- The check of the pair layout starts: the partner's FAIL_DOMAIN is read by MGMT. -/
def State.pairStart (s : State) : State :=
  s.watchRead (s.rd pgWatch Wat.WATCH_PARTNER) 0 (pageBase pgWatch + 0x104)

/-- A write of the word of WATCH_PARTNER and PARTNER_EN, ignored while LOCK is set. -/
def State.writePartner (s : State) (v : Nat) : State :=
  if s.raw pgWatch Hdr.LOCK = 1 then s
  else
  let s1 := (s.swField pgWatch Wat.WATCH_PARTNER 0 (bits v 0 15)).swField pgWatch Wat.PARTNER_EN 0 (bits v 31 1)
  s1.pairStart

/-- WATCH_PARTNER_WRITE. -/
def execWatchPartnerWrite (v : Nat) (s : State) : Host.Outcome State Fault Refusal := .next (s.writePartner v)

/-- A primary MIRRORED entry names another partner. -/
def State.partnerDiffers (s : State) : Bool :=
  (s.fstValids.map s.fstEntry).any fun e =>
    fstMirrored e && fstState e = 0 && fstPartner e ≠ s.rd pgWatch Wat.WATCH_PARTNER

/-- The read of the partner's FAIL_DOMAIN is answered with a value, or is not. -/
def State.pairAnswer (s : State) (a : Option Nat) : State :=
  let same : Bool := match a with
    | some d => d % 2 ^ 12 = s.rd pgWatch Wat.FAIL_DOMAIN
    | none => true
  if same || s.partnerDiffers then (s.wrb pgWatch Wat.PAIR_OK false).err pgWatch 4 else s.wrb pgWatch Wat.PAIR_OK true

/-- PAIR_CHECK. -/
def execPairCheck (answer : Option Nat) (s : State) : Host.Outcome State Fault Refusal := .next (s.pairAnswer answer)

/-- A write of FST_COMMIT: the entry is replaced or refused, and a MIRRORED one committed starts the pair check (R308, R348). -/
def State.commitEntry (s : State) : State :=
  let i := s.rd (pgKeep 0) Fst.FST_INDEX
  if (s.fstRefusal i (s.fstData i)).isNone && fstMirrored (s.fstData i) then s.fstCommit.pairStart else s.fstCommit

/-- FST_COMMIT. -/
def execFstCommit (s : State) : Host.Outcome State Fault Refusal := .next s.commitEntry

/-! ## Joining (R370) -/

/-- COORD and EXTENT are the same in all four Keeps, and the coordinate lies in the extent (R56). -/
def State.cfgOk (s : State) : Bool :=
  (List.range 4).all (fun k => s.rd (pgKeep k) Kr.COORD = s.coord && s.rd (pgKeep k) Kr.EXTENT = s.extent)
    && inExtent s.coord s.extent

/-- JOIN may start. -/
def State.joinOk (s : State) : Bool :=
  (s.rd pgIntegrity Itg.ST_PASS = 0x1FF || s.rdb pgIntegrity Itg.ST_OVERRIDE) && s.cfgOk

/-- A write of the word of JOIN and SEED; with JOIN set a join starts, from TEST_ACTIVE clear. Watch is told of checkers that are
unproven (R344). -/
def State.join (s : State) (v : Nat) : State :=
  let s1 := s.put pgWatch Wat.SEED 0 (bits v 1 1)
  if !bit v 0 || s1.joined then s1
  else if !s1.joinOk then s1.err pgWatch 9
  else
    let s2 := (s1.wrb pgFinial Fin.TEST_ACTIVE false).setWatch { s1.watch with
      joining := some (bit v 1), adopted := false, unproven := s1.rd pgIntegrity Itg.ST_PASS ≠ 0x1FF }
    s2.pairStart

/-- JOIN. -/
def execJoin (v : Nat) (s : State) : Host.Outcome State Fault Refusal := .next (s.join v)

/-- The first joined marker that a module joining without SEED takes, of those of one cc the one of the lowest direction: tick
number, step count, period and boundary offset Ld − 1. -/
def State.joinAdopt (s : State) (d : Nat) (m : Marker) : State :=
  let first : Bool := !s.watch.adopted || (s.watch.adoptedAt = s.clock && d < s.rd pgWatch Wat.JOIN_DIR)
  if s.watch.joining = some false && first && m.joined && s.linkUp (torusLink d) then
    let ld := s.rd (pgLink (torusLink d)) Lnk.LD
    let s1 := s.setBelfry { s.belfry with
      tick := m.tick % tickMod, stepCount := m.step % 2 ^ 32, tickStart := s.clock - (ld - 1), tickLen := 256 * (m.perU % 512)
      skipMap := [], flooded := [] }
    let s2 := s1.wrs pgBelfry [(Bel.PER_CUR, m.perU % 512)]
    (s2.setWatch { s2.watch with adopted := true, adoptedAt := s.clock }).wr pgWatch Wat.JOIN_DIR d
  else s

/-- JOIN_ADOPT. -/
def execJoinAdopt (d : Nat) (m : Marker) (s : State) : Host.Outcome State Fault Refusal :=
  .next (if d < 6 then s.joinAdopt d m else s)

end Sys2Proof.Machine
end

