-- ==== Sys2Proof/Machine/Trust.lean ====
section
/-! DEFINITION. The Finial and the Vane: boot flash areas, firmware admission, measurement, program keys, tokens, attestation,
the meter and its mirror (R439–R462). -/

namespace Sys2Proof.Machine

open Sys2Proof

/-! ## Boot flash (Table 19.2) -/

/-- Offsets of the areas. -/
def flSlot (slot : Nat) : Nat := if slot = 0 then 0x00010000 else 0x06010000
def flCal : Nat := 0x0C010000
def flBp : Nat := 0x0C020000
def flKeys : Nat := 0x0C030000

/-- Bytes of an area of 64 KiB. -/
def areaLen : Nat := 65536

/-- Bytes of a firmware slot. -/
def slotLen : Nat := 96 * 2 ^ 20

/-- A copy of NEXT_SLOT at an offset of the boot control area, where its CRC is right (log 33). -/
def State.nextCopy (s : State) (off : Nat) : Option Nat :=
  let w := s.peek spFlash off 4
  if leNat (s.peek spFlash (off + 4) 4) = crc32c w then some (leNat w % 2) else none

/-- NEXT_SLOT: the first copy that is right, else slot A. -/
def State.nextSlot (s : State) : Nat := ((s.nextCopy 0).or (s.nextCopy 8)).getD 0

/-- Both copies of NEXT_SLOT written. -/
def State.writeNext (s : State) (slot : Nat) : State :=
  let w := leBytes 4 slot
  let l := w ++ leBytes 4 (crc32c w)
  (s.poke spFlash 0 (l ++ l)).wr pgLantern Fwu.NEXT_SLOT slot

/-! ## Firmware images (R441, R442) -/

/-- Bytes of an image's signature. -/
def fwSigLen : Nat := 29792

/-- The firmware-key slot that an image's public key opens. -/
def State.fkeySlot (s : State) (pub : List Byte) : Option Nat :=
  (List.range 4).find? fun i => AL.get s.fuses.fkeys i = some (digest pub) && !bit s.fuses.revoked i

/-- Header and body of an image at an offset of a space. -/
def State.fwBody (s : State) (sp off : Nat) : List Byte := s.peek sp off (128 + s.peekN sp (off + 0x14) 4)

/-- The first check of R442 that an image fails, as the code of Table 19.4; 0 when it is admitted. `lim`: bytes that it may
take. -/
def State.fwCheck (s : State) (sp off lim : Nat) : Nat :=
  let h := s.peek sp off 128
  let total := 128 + leAt h 0x14 4 + fwSigLen
  let pub := slice h 0x18 64
  if leAt h 0 4 ≠ 0x4957464C || leAt h 4 2 ≠ 1 || leAt h 6 2 ≠ 0 || leAt h 0x12 2 ≠ 0 || leAt h 0x58 40 ≠ 0
      || 64 < leAt h 0x10 2 || min lim slotLen < total then 1
  else if (s.fkeySlot pub).isNone then 2
  else if leAt h 0x10 2 < s.fuses.svnMin then 4
  else
    let body := s.fwBody sp off
    if Config.verify pub body (s.peek sp (off + body.length) fwSigLen) then 0 else 3

/-- SLOT_VER, SLOT_SVN and SLOT_STATE of a slot shown. -/
def State.showSlot (s : State) (slot : Nat) : State :=
  let off := flSlot slot
  let ok : Bool := s.fwCheck spFlash off slotLen = 0
  let empty : Bool := s.peekN spFlash off 4 = 0 || s.peekN spFlash off 4 = 0xFFFFFFFF
  ((s.wri pgLantern Fwu.SLOT_VER slot (if ok then s.peekN spFlash (off + 8) 4 else 0)).wri pgLantern Fwu.SLOT_SVN slot
    (s.peekN spFlash (off + 0x10) 2)).wri pgLantern Fwu.SLOT_STATE slot (if ok then 1 else if empty then 0 else 2)

/-! ## Program keys (R449) -/

/-- A program-key slot as 52 bytes (log 33). -/
def keyBytes (k : KeySlot) : List Byte := padTo 48 k.key ++ leBytes 1 (b2n k.test) ++ leBytes 1 k.state ++ leBytes 2 0

/-- The program-key table as bytes. -/
def State.keyTable (s : State) : List Byte :=
  (List.range 16).flatMap fun i => keyBytes (AL.getD s.keys i KeySlot.empty)

/-- A program-key slot from its bytes. -/
def keyOf (l : List Byte) : KeySlot := { key := l.take 48, test := leAt l 48 1 = 1, state := leAt l 49 1 % 4 }

/-- The table loaded from its sector; every slot empty and PG_ERR.KEY_SECTOR when the CRC fails. -/
def State.loadKeys (s : State) : State :=
  let t := s.peek spFlash flKeys 832
  if s.peekN spFlash (flKeys + 832) 4 = crc32c t then
    { s with keys := (List.range 16).map fun i => (i, keyOf (slice t (52 * i) 52)) }
  else ({ s with keys := [] }).err pgFinial 4

/-- PK_STATE: two bits a slot. -/
def State.pkState (s : State) : Nat :=
  sumL ((List.range 16).map fun i => (AL.getD s.keys i KeySlot.empty).state * 4 ^ i)

/-- LOCK of the Finial page. -/
def State.finialLocked (s : State) : Bool := s.raw pgFinial Hdr.LOCK = 1

/-- PK_DATA as bytes. -/
def State.pkData (s : State) : List Byte := (List.range 12).flatMap fun w => leBytes 4 (s.rd pgFinial Fin.PK_DATA w)

/-- ENROLL. -/
def State.enroll (s : State) : State :=
  let i := s.rd pgFinial Fin.PK_SEL
  if s.finialLocked || (AL.getD s.keys i KeySlot.empty).state ≠ 0 then s.err pgFinial 2
  else { s with keys := AL.put s.keys i { key := s.pkData, test := s.rdb pgFinial Fin.PK_TEST, state := 1 } }

/-- REVOKE. -/
def State.revoke (s : State) : State :=
  let i := s.rd pgFinial Fin.PK_SEL
  if s.finialLocked then s.err pgFinial 2
  else { s with keys := AL.put s.keys i { AL.getD s.keys i KeySlot.empty with state := 2 } }

/-- SAVE. -/
def State.keySave (s : State) : State :=
  if s.finialLocked then s.err pgFinial 2
  else s.poke spFlash flKeys (s.keyTable ++ leBytes 4 (crc32c s.keyTable))

/-- ENROLL (R449). -/
def execEnroll (s : State) : Host.Outcome State Fault Refusal := .next s.enroll
/-- REVOKE (R449). -/
def execRevoke (s : State) : Host.Outcome State Fault Refusal := .next s.revoke
/-- KEY_SAVE (R449). -/
def execKeySave (s : State) : Host.Outcome State Fault Refusal := .next s.keySave

/-! ## The calibration sector and the boot parameter record (R433, R434, R436) -/

/-- Bytes of the calibration set: 0x400 to 0xDFF of the Lantern global page. -/
def calLen : Nat := 0xA00

/-- The calibration set as its registers hold it. -/
def State.calBytes (s : State) : List Byte :=
  (List.range (calLen / 4)).flatMap fun i => leBytes 4 (s.word pgLantern (0x400 + 4 * i))

/-- A CAL_* field of the set. -/
def isCalSet (r : Reg) : Bool := 0x400 ≤ r.off && r.off < 0xE00

/-- The sector passes its CRC; its saved flag (log 33). -/
def State.calGood (s : State) : Bool := s.peekN spFlash (flCal + calLen) 4 = crc32c (s.peek spFlash flCal calLen)
def State.calFactory (s : State) : Bool := s.calGood && s.peekN spFlash (flCal + calLen + 4) 1 = 0

/-- One field of the set loaded. -/
def State.loadCalField (s : State) (good : Bool) (r : Reg) : State :=
  (List.range r.count).foldl (fun t i =>
    let w := t.peekN spFlash (flCal + (r.off - 0x400) + r.stride * i) 4
    t.put pgLantern r i (if good then bits w r.lo r.w else 0)) s

/-- The calibration set loaded from its sector. -/
def State.loadCal (s : State) : State :=
  let good := s.calGood
  let s1 := (Cal.fields.filter isCalSet).foldl (fun t r => t.loadCalField good r) s
  s1.wrs pgLantern [(Cal.CAL_VALID, b2n good), (Cal.CAL_FACTORY, b2n s.calFactory),
    (Cal.CAL_CRC, s.peekN spFlash (flCal + calLen) 4)]

/-- The words of the boot parameter record, in ascending offset. -/
def bpFields : List Reg :=
  [Boo.BP_COORD, Boo.BP_EXTENT, Boo.BP_FD, Boo.BP_MAC_LO, Boo.BP_MAC_HI, Boo.BP_FLAGS, Boo.BP_JTICK_LO, Boo.BP_JTICK_HI]

/-- The record's 36 bytes in flash. -/
def State.bpBytes (s : State) : List Byte := s.peek spFlash flBp 36

/-- BP_STATE of the record: 0 absent, 1 valid, 2 CRC bad. A record of all zeros or all ones is absent (log 33). -/
def State.bpFlash (s : State) : Nat :=
  let l := s.bpBytes
  if l.all (· = 0x00#8) || l.all (· = 0xFF#8) then 0
  else if leAt l 32 4 = crc32c (l.take 32) then 1 else 2

/-- A word of the record in flash. -/
def State.bpWord (s : State) (i : Nat) : Nat := leAt s.bpBytes (4 * i) 4

/-- BP_LOAD: a valid record is read back into the registers; BP_STATE shows what was found (R437). -/
def State.bpLoad (s : State) : State :=
  let st := s.bpFlash
  let s1 := s.wr pgLantern Boo.BP_STATE st
  if st = 1 then
    (List.range 8).foldl (fun t i => t.put pgLantern (bpFields.getD i Boo.BP_COORD) 0 (s.bpWord i)) s1
  else s1

/-- The record's 36 bytes from the registers. -/
def State.bpRecord (s : State) : List Byte :=
  let l := bpFields.flatMap fun r => leBytes 4 (s.rd pgLantern r)
  l ++ leBytes 4 (crc32c l)

/-- LOCK set in a page. -/
def State.setLock (s : State) (p : PageId) : State := s.put p Hdr.LOCK 0 1

/-- A valid record applied (R436). -/
def State.applyBp (s : State) : State :=
  if s.bpFlash = 1 then
    let keep (t : State) (k : Nat) : State :=
      (t.swField (pgKeep k) Kr.COORD 0 (s.bpWord 0 % 2 ^ 15)).swField (pgKeep k) Kr.EXTENT 0 (s.bpWord 1 % 2 ^ 15)
    let s0 := (List.range 4).foldl keep s
    let s1 := s0.setBelfry { s0.belfry with cfgPrev := (s0.coord, s0.extent) }
    let s2 := ((s1.swField pgWatch Wat.FAIL_DOMAIN 0 (s.bpWord 2 % 2 ^ 12)).swField pgHost Mac.MAC_LO 0 (s.bpWord 3)).swField
      pgHost Mac.MAC_HI 0 (s.bpWord 4 % 2 ^ 16)
    if bit (s.bpWord 5) 0 then
      ([pgKeep 0, pgKeep 1, pgKeep 2, pgKeep 3, pgHost, pgWatch].foldl State.setLock s2)
    else s2
  else s

/-! ## Phase FINIAL (R443, R447) -/

/-- Measurement 5: FW_DIGEST of the running image. -/
def measFw : Nat := 5

/-- The Lantern starts from an admitted slot: its registers, keys, boot parameters and BOOT_MEAS. -/
def State.runSlot (s : State) (slot : Nat) : State :=
  let off := flSlot slot
  let fw := digest (s.fwBody spFlash off)
  let s1 := s.wrs pgLantern [(Fwu.ACTIVE_SLOT, slot), (Fwu.NEXT_SLOT, s.nextSlot), (Lan.FW_VER, s.peekN spFlash (off + 8) 4),
    (Lan.XLATOR_VER, s.peekN spFlash (off + 12) 4), (Lan.CORES_UP, 15)]
  let s2 := s1.wrs pgFinial [(Fin.FIN_STATE, 1), (Fin.FKEY_IDX, (s.fkeySlot (s.peek spFlash (off + 0x18) 64)).getD 0)]
  let s3 := ({ s2 with trust := { s2.trust with svn := s.peekN spFlash (off + 0x10) 2 } }).loadKeys
  let s4 := (s3.clearMeas measBoot).setMeas measFw fw
  let bp := if s.bpFlash = 1 then s.bpBytes else List.replicate 36 0
  let s5 := [fw, digest (s.peek spFlash flKeys areaLen), digest bp, digest (s.peek spFlash flCal areaLen)].foldl
    (fun (t : State) (d : List Byte) => t.extend measBoot d) s4
  s5.bpLoad

/-- The Finial tries the slot that NEXT_SLOT names, then the other; with neither admitted boot stops. -/
def State.finialPhase (s : State) : State :=
  let s1 := (s.showSlot 0).showSlot 1
  let n := s.nextSlot
  if s.fwCheck spFlash (flSlot n) slotLen = 0 then s1.runSlot n
  else if s.fwCheck spFlash (flSlot (1 - n)) slotLen = 0 then
    ((s1.runSlot (1 - n)).wr pgLantern Fwu.FELL_BACK 1).err pgFinial 0
  else ((s1.wr pgFinial Fin.FIN_STATE 2).wr pgLantern Boo.BOOT_FAIL_PHASE 3).wr pgLantern Lan.CORES_UP 0

/-! ## Updates (R444, R445, R446) -/

/-- An update or a commit refused with a code. -/
def State.updRefused (s : State) (code : Nat) : State :=
  (s.wrs pgLantern [(Fwu.UPD_STATE, 4), (Fwu.UPD_CODE, code)]).err pgFinial 1

/-- An update is verifying or writing. -/
def State.updBusy (s : State) : Bool := s.rd pgLantern Fwu.UPD_STATE = 1 || s.rd pgLantern Fwu.UPD_STATE = 2

/-- UPD_GO: the staged image is checked, and the slot is erased and starts to be written. -/
def State.updGo (s : State) (key : Nat) : State :=
  if key ≠ 0xA5 || s.updBusy then s
  else
    let off := s.rd pgLantern Fwu.UPD_ADDR_LO * 4096 + s.rd pgLantern Fwu.UPD_ADDR_HI * 2 ^ 32
    let code := s.fwCheck spHbm off (s.rd pgLantern Fwu.UPD_LEN)
    if code ≠ 0 then s.updRefused code
    else
      let n := 128 + s.peekN spHbm (off + 0x14) 4 + fwSigLen
      let s1 := s.wrs pgLantern [(Fwu.UPD_STATE, 2), (Fwu.UPD_CODE, 0)]
      let slot := 1 - s.rd pgLantern Fwu.ACTIVE_SLOT
      (({ s1 with trust := { s1.trust with update := some (s.peek spHbm off n) } }).zeroRange spFlash (flSlot slot) slotLen).wri
        pgLantern Fwu.SLOT_STATE slot 3

/-- UPD_GO (R444). -/
def execUpdGo (key : Nat) (s : State) : Host.Outcome State Fault Refusal := .next (s.updGo key)

/-- UPDATE_COMPLETE: the slot is written and read back, and NEXT_SLOT names it. -/
def State.updateComplete (s : State) : State :=
  match s.trust.update with
  | none => s
  | some l =>
    let slot := 1 - s.rd pgLantern Fwu.ACTIVE_SLOT
    let s1 := ({ s with trust := { s.trust with update := none } }).poke spFlash (flSlot slot) l
    let s2 := s1.showSlot slot
    if s2.fwCheck spFlash (flSlot slot) slotLen = 0 then (s2.writeNext slot).wr pgLantern Fwu.UPD_STATE 3
    else s2.updRefused 5

/-- UPDATE_COMPLETE (R444). -/
def execUpdateComplete (s : State) : Host.Outcome State Fault Refusal := .next s.updateComplete

/-- FW_COMMIT: SVN_MIN is burned up to the running SVN. -/
def State.fwCommit (s : State) (key : Nat) : State :=
  if key ≠ 0xA5 then s
  else if s.fuses.svnMin < s.trust.svn then { s with fuses := { s.fuses with svnMin := s.trust.svn } }
  else
    let s1 := s.wr pgLantern Fwu.UPD_CODE 6
    (if s.updBusy then s1 else s1.wr pgLantern Fwu.UPD_STATE 4).err pgFinial 1

/-- FW_COMMIT (R445). -/
def execFwCommit (key : Nat) (s : State) : Host.Outcome State Fault Refusal := .next (s.fwCommit key)

/-- FKEY_REVOKE: the slots of a mask are revoked, the one that verified the running image apart. -/
def State.fkeyRevoke (s : State) (mask key : Nat) : State :=
  if key ≠ 0xA5 then s
  else
    let own := s.rd pgFinial Fin.FKEY_IDX
    let m := clrBit (mask % 16) own
    let s1 := { s with fuses := { s.fuses with revoked := Nat.lor s.fuses.revoked m } }
    if bit (mask % 16) own then s1.err pgFinial 2 else s1

/-- FKEY_REVOKE (R446). -/
def execFkeyRevoke (mask key : Nat) (s : State) : Host.Outcome State Fault Refusal := .next (s.fkeyRevoke mask key)

/-! ## Tokens (R450) -/

/-- A fresh TEST_CHAL. -/
def State.drawChal (s : State) : State :=
  (List.range 8).foldl (fun t w => (t.draw 32).2.put pgFinial Fin.TEST_CHAL w (t.draw 32).1) s

/-- TEST_CHAL as bytes. -/
def State.chalBytes (s : State) : List Byte := (List.range 8).flatMap fun w => leBytes 4 (s.rd pgFinial Fin.TEST_CHAL w)

/-- The token at TOKEN_ADDR is right. -/
def State.tokenOk (s : State) : Bool :=
  let k := AL.getD s.keys (s.rd pgFinial Fin.TOKEN_KEY) KeySlot.empty
  let off := s.rd pgFinial Fin.TOKEN_ADDR_LO * 16 + s.rd pgFinial Fin.TOKEN_ADDR_HI * 2 ^ 32
  k.state = 1 && k.test && Config.verify k.key s.chalBytes (s.peek spHbm off 35664)

/-- A request with a token: refused while joined, else checked, and `f` done when it is right. -/
def State.token (s : State) (f : State → State) : State :=
  if s.joined then s.err pgFinial 3
  else if s.tokenOk then f s.drawChal else s.drawChal.err pgFinial 3

/-- TEST_REQ: test mode (SVC 2). -/
def State.testReq (s : State) : State := s.token fun t => t.wrb pgFinial Fin.TEST_ACTIVE true

/-- DBG_REQ: debug access opens. -/
def State.dbgReq (s : State) : State := s.token fun t => t.wrb pgFinial Fin.DBG_OPEN true

/-- TEST_REQ (R450). -/
def execTestReq (s : State) : Host.Outcome State Fault Refusal := .next s.testReq
/-- DBG_REQ (R450). -/
def execDbgReq (s : State) : Host.Outcome State Fault Refusal := .next s.dbgReq

/-! ## Attestation (R452) -/

/-- INTEG_OK (R345). -/
def State.integOk (s : State) : Bool :=
  s.rdb pgIntegrity Itg.TRIP_EN && s.rdb pgIntegrity Itg.SPOT_EN && s.rd pgIntegrity Itg.ST_PASS = 0x1FF
    && s.rdb pgButtress But.SUP_OK && s.rdb pgButtress But.COOL_OK

/-- FLAGS of a report. -/
def State.attFlags (s : State) : Nat :=
  b2n s.joined + 2 * b2n s.integOk + 4 * s.rd pgIntegrity Itg.ST_OVERRIDE + 8 * s.rd pgLantern Cal.CAL_FACTORY
    + 16 * b2n s.finialLocked + 32 * s.rd pgFinial Fin.DBG_OPEN + 64 * s.rd pgFinial Fin.TEST_ACTIVE
    + 128 * s.rd pgLantern Fwu.FELL_BACK + 256 * (leAt s.trust.vmLast 6 2 % 2)

/-- PLAN_ID of a bank, zero when EMPTY. -/
def State.attPlanId (s : State) (b : Nat) : List Byte :=
  if s.bankState b = 0 then leBytes 8 0
  else match s.bank b with
    | some x => leBytes 8 (imgPlanId x.image)
    | none => leBytes 8 0

/-- Bytes 0x000–0x23F of a report (Table 19.5). -/
def State.attReport (s : State) : List Byte :=
  leBytes 4 0x52545441 ++ leBytes 2 1 ++ leBytes 2 0 ++ leBytes 4 (s.rd pgFinial Hdr.PG_REV) ++ leBytes 2 s.coord ++ leBytes 2 0
    ++ leBytes 8 s.now ++ leBytes 4 (s.rd pgLantern Lan.FW_VER) ++ leBytes 2 s.trust.svn ++ leBytes 2 s.fuses.svnMin
    ++ leBytes 4 (s.rd pgLantern Lan.XLATOR_VER) ++ leBytes 4 s.attFlags
    ++ ((List.range 8).flatMap fun w => leBytes 4 (s.rd pgFinial Fin.ATT_NONCE w))
    ++ s.measOf measFw ++ s.measOf measBoot ++ digest s.keyTable
    ++ leBytes 1 (s.bankState 0 + 4 * s.bankState 1 + 16 * s.active) ++ leBytes 7 0 ++ s.attPlanId 0 ++ s.attPlanId 1
    ++ s.measOf (measPlan 0) ++ s.measOf (measObj 0) ++ s.measOf (measPlan 1) ++ s.measOf (measObj 1) ++ leBytes 32 0

/-- ATT_GO: a report is armed for the next boundary; ignored while one is forming. -/
def State.attGo (s : State) : State :=
  if s.rd pgFinial Fin.ATT_STATE = 1 then s
  else { (s.wr pgFinial Fin.ATT_STATE 1) with trust := { s.trust with attArmed := true, attForm := [], att := [] } }

/-- ATT_GO (R452). -/
def execAttGo (s : State) : Host.Outcome State Fault Refusal := .next s.attGo

/-- The module state sampled at a boundary. -/
def State.attSample (s : State) : State :=
  if s.trust.attArmed then { s with trust := { s.trust with attArmed := false, attForm := s.attReport } } else s

/-- ATT_REPORT_READY: the sampled report is signed. -/
def State.attReady (s : State) : State :=
  if s.rd pgFinial Fin.ATT_STATE = 1 && !s.trust.attArmed then
    { (s.wr pgFinial Fin.ATT_STATE 2) with
      trust := { s.trust with att := s.trust.attForm ++ padTo 35664 (Config.sign 0 s.trust.attForm), attForm := [] } }
  else s

/-- ATT_REPORT_READY (R452). -/
def execAttReportReady (s : State) : Host.Outcome State Fault Refusal := .next s.attReady

/-- A read of ATT_DATA: the word at ATT_OFF, which moves on by 4. -/
def State.readAtt (s : State) : Nat × State :=
  let o := s.rd pgFinial Fin.ATT_OFF
  (leAt s.trust.att o 4, s.wr pgFinial Fin.ATT_OFF (o + 4))

/-- ATT_DATA_READ (R452). -/
def execAttDataRead (s : State) : Host.Outcome State Fault Refusal := .next (s.readAtt.2.emit (.value s.readAtt.1))

/-- The bytes that MEAS_SEL selects. -/
def State.measSel (s : State) (sel : Nat) : List Byte :=
  if sel = 0 then s.measOf measBoot
  else if sel = 1 then s.measOf measFw
  else if sel = 2 then digest s.keyTable
  else if sel = 3 then s.measOf (measPlan 0)
  else if sel = 4 then s.measOf (measObj 0)
  else if sel = 5 then s.measOf (measPlan 1)
  else if sel = 6 then s.measOf (measObj 1)
  else padTo 64 ((List.range 12).flatMap fun w => leBytes 4 (Config.identPub w))

/-- MEAS_DATA word `w`. -/
def State.measData (s : State) (w : Nat) : Nat := leAt (s.measSel (s.rd pgFinial Fin.MEAS_SEL)) (4 * w) 4

/-! ## The Vane (R453–R457) -/

/-- An update of the Vane. -/
def State.setVane (s : State) (v : Vane) : State := { s with vane := v }

/-- The reading record of Table 19.6. -/
def State.vaneRecord (s : State) (pMain pBackup : Nat) (fault : Bool) : List Byte :=
  let v := s.vane
  leBytes 4 0x524E4156 ++ leBytes 2 1
    ++ leBytes 2 (b2n v.tamper + 2 * b2n fault + 4 * s.rd pgButtress But.ON_BACKUP)
    ++ leBytes 8 v.seq ++ leBytes 4 v.time ++ leBytes 4 v.tamperTime ++ leBytes 8 v.eMain ++ leBytes 8 v.eBackup
    ++ leBytes 2 pMain ++ leBytes 2 pBackup ++ leBytes 4 Config.vaneFw ++ leBytes 16 Config.vaneSerial

/-- A 64-bit count that only increases, and stays when full (R454, log 54). -/
def count64 (v n : Nat) : Nat := max v (min (v + n) (2 ^ 64 - 1))

/-- VANE_READING: the energies of the second are counted, and a signed reading leaves for the port (R454, R455, R457). A full
register stays (log 54). -/
def State.vaneReading (s : State) (mainMj backupMj pMain pBackup : Nat) (fault : Bool) : State :=
  let v := s.vane
  let s1 := s.setVane { v with
    eMain := count64 v.eMain mainMj, eBackup := count64 v.eBackup backupMj, seq := v.seq + 1, time := v.time + 1 }
  let r := s1.vaneRecord pMain pBackup fault
  let l := r ++ padTo 35664 (Config.sign 1 r)
  (s1.setVane { s1.vane with reading := l }).emit (.metrology (0x7E#8 :: l ++ leBytes 4 (crc32c l)))

/-- VANE_READING. -/
def execVaneReading (mainMj backupMj pMain pBackup : Nat) (fault : Bool) (s : State) : Host.Outcome State Fault Refusal :=
  .next (s.vaneReading mainMj backupMj pMain pBackup fault)

/-- The energies committed to the Vane's own store (R454). -/
def State.vaneCommit (s : State) : State :=
  s.setVane { s.vane with comMain := s.vane.eMain, comBackup := s.vane.eBackup }

/-- VANE_COMMIT. -/
def execVaneCommit (s : State) : Host.Outcome State Fault Refusal := .next s.vaneCommit

/-- TAMPER_BREAK: the fuse is burned once, for good (R456). -/
def State.tamperBreak (s : State) : State :=
  if s.vane.tamper then s else s.setVane { s.vane with tamper := true, tamperTime := s.vane.time }

/-- TAMPER_BREAK. -/
def execTamperBreak (s : State) : Host.Outcome State Fault Refusal := .next s.tamperBreak

/-! ## The mirror (R459, R462) -/

/-- The mirror page's fields shown from a record; STALE apart. -/
def State.vmShow (s : State) (l : List Byte) : State :=
  s.wrs pgVane [(Van.VM_SEQ_LO, leAt l 8 4), (Van.VM_SEQ_HI, leAt l 12 4), (Van.VM_TIME, leAt l 16 4),
    (Van.E_MAIN_LO, leAt l 0x18 4), (Van.E_MAIN_HI, leAt l 0x1C 4), (Van.E_BACKUP_LO, leAt l 0x20 4),
    (Van.E_BACKUP_HI, leAt l 0x24 4), (Van.P_MAIN, leAt l 0x28 2), (Van.P_BACKUP, leAt l 0x2A 2),
    (Van.VM_FLAGS, leAt l 6 2 % 8), (Van.TAMPER_TIME, leAt l 0x14 4), (Van.VANE_FW, leAt l 0x2C 4)]

/-- The Vane's public key as bytes. -/
def vanePubBytes : List Byte := (List.range 12).flatMap fun w => leBytes 4 (Config.vanePub w)

/-- A PG_ERR bit of the mirror that follows a flag of the record when it rises. -/
def State.vmRise (s : State) (old new flag errBit : Nat) : State :=
  if bit new flag && !bit old flag then s.err pgVane errBit else s

/-- VANE_MIRROR: a reading that verifies is mirrored; another is counted. Until a first snapshot the page shows the last
reading mirrored (log 34). -/
def State.vaneMirror (s : State) (l : List Byte) : State :=
  if s.power.p4 || s.power.off || s.power.resetLow then s
  else if l.length = 35728 && Config.verify vanePubBytes (l.take 64) (l.drop 64) then
    let old := leAt s.trust.vmLast 6 2
    let new := leAt l 6 2
    let s1 := ({ s with trust := { s.trust with vmLast := l, vmAt := s.clock } }).wr pgVane Van.STALE 0
    let s2 := if s.trust.vmSnap.isEmpty then s1.vmShow l else s1
    (s2.vmRise old new 0 2).vmRise old new 1 3
  else (s.bump pgVane Van.SIG_BAD_CNT).err pgVane 0

/-- VANE_MIRROR. -/
def execVaneMirror (bytes : List Byte) (s : State) : Host.Outcome State Fault Refusal := .next (s.vaneMirror bytes)

/-- No verified reading for 3 s. -/
def State.vaneStale (s : State) : State :=
  if s.trust.vmAt + 3300000000 ≤ s.clock then (s.wr pgVane Van.STALE 1).err pgVane 1 else s

/-- VANE_STALE. -/
def execVaneStale (s : State) : Host.Outcome State Fault Refusal := .next s.vaneStale

/-- A read of VM_SEQ_LO takes a snapshot of the last reading mirrored, and returns its word. -/
def State.readVmSeq (s : State) : Nat × State :=
  let s1 := if s.trust.vmLast.isEmpty then s
    else ({ s with trust := { s.trust with vmSnap := s.trust.vmLast } }).vmShow s.trust.vmLast
  (s1.rd pgVane Van.VM_SEQ_LO, s1)

/-- VM_SEQ_LO_READ. -/
def execVmSeqLoRead (s : State) : Host.Outcome State Fault Refusal := .next (s.readVmSeq.2.emit (.value s.readVmSeq.1))

/-- A read of VM_SIG_DATA: the snapshot's word at VM_SIG_OFF, which moves on by 4. -/
def State.readVmSig (s : State) : Nat × State :=
  let l := if s.trust.vmSnap.isEmpty then s.trust.vmLast else s.trust.vmSnap
  let o := s.rd pgVane Van.VM_SIG_OFF
  (leAt l o 4, s.wr pgVane Van.VM_SIG_OFF (o + 4))

/-- VM_SIG_DATA_READ. -/
def execVmSigDataRead (s : State) : Host.Outcome State Fault Refusal := .next (s.readVmSig.2.emit (.value s.readVmSig.1))

end Sys2Proof.Machine
end

