-- ==== Sys2Proof/Machine/Power.lean ====
section
/-! DEFINITION. The Buttress: feeds, coolant, trips, module states, resets and boot (R416–R437, R464, R470, R473). -/

namespace Sys2Proof.Machine

open Sys2Proof

/-- An update of what the Buttress holds. -/
def State.setPower (s : State) (p : Power) : State := { s with power := p }

/-! ## Feeds (R416–R418) -/

/-- The field that shows whether a feed is good: 0 main, 1 backup. -/
def feedReg (feed : Nat) : Reg := if feed = 0 then But.MAIN_GOOD else But.BACKUP_GOOD

/-- A feed is good. -/
def State.feedOk (s : State) (feed : Nat) : Bool := s.rdb pgButtress (feedReg feed)

/-- The active feed, and the preferred one. -/
def State.activeFeed (s : State) : Nat := s.rd pgButtress But.ON_BACKUP
def State.preferredFeed (s : State) : Nat := s.rd pgButtress But.FEED_PREF

/-- A feed shown good or bad, and SUP_OK. -/
def State.showFeed (s : State) (feed : Nat) (ok : Bool) : State :=
  let s1 := s.wrb pgButtress (feedReg feed) ok
  s1.wrb pgButtress But.SUP_OK (s1.feedOk 0 && s1.feedOk 1)

/-- The Buttress takes a feed: counted, PG_ERR.SWITCHED, the event SUPPLY. -/
def State.switchFeed (s : State) (feed : Nat) : State :=
  let s1 := ((s.wr pgButtress But.ON_BACKUP feed).bump pgButtress But.SWITCH_CNT).err pgButtress 2
  s1.eventE pgButtress 0x0031 (leBytes 1 feed ++ leBytes 3 0 ++ leBytes 4 (s1.word pgButtress 0x100))

/-- A feed becomes bad: the other one is taken if it is good, else the module runs on its hold-up. -/
def State.feedBad (s : State) (feed : Nat) : State :=
  if s.feedOk feed then
    let s1 := (s.showFeed feed false).err pgButtress feed
    if s1.feedOk (1 - feed) then (if s1.activeFeed = feed then s1.switchFeed (1 - feed) else s1)
    else s1.wr pgButtress But.HOLDUP 1
  else s

/-- FEED_BAD (R416). -/
def execFeedBad (feed : Nat) (s : State) : Host.Outcome State Fault Refusal := .next (if feed < 2 then s.feedBad feed else s)

/-- FEED_SENSE_OPEN: three bad samples of the feed (R464). -/
def execFeedSenseOpen (feed : Nat) (s : State) : Host.Outcome State Fault Refusal :=
  .next (if feed < 2 then s.feedBad feed else s)

/-- A feed becomes good: within the hold-up it is taken as a switch; the first good feed becomes the active one. -/
def State.feedGood (s : State) (feed : Nat) : State :=
  if s.feedOk feed then s
  else
    let none_ : Bool := !s.feedOk (1 - feed)
    let s1 := s.showFeed feed true
    if s.rdb pgButtress But.HOLDUP then (s1.wr pgButtress But.HOLDUP 0).switchFeed feed
    else if none_ then s1.wr pgButtress But.ON_BACKUP feed
    else s1

/-- FEED_GOOD (R416, R418). -/
def execFeedGood (feed : Nat) (s : State) : Host.Outcome State Fault Refusal := .next (if feed < 2 then s.feedGood feed else s)

/-- FEED_RETURN: the preferred feed has stayed good for RETURN_MS (R417). -/
def State.feedReturn (s : State) : State :=
  if s.feedOk s.preferredFeed && s.activeFeed ≠ s.preferredFeed then s.switchFeed s.preferredFeed else s

/-- FEED_RETURN. -/
def execFeedReturn (s : State) : Host.Outcome State Fault Refusal := .next s.feedReturn

/-! ## Power off (R418, R421, R422) -/

/-- Everything behind the dies is lost; the Buttress's own page stands (log 35). -/
def State.diesOff (s : State) : State := s.rebuild (s.keepRegs fun p _ => p.ty = 0x0052) false false

/-- HOLDUP_EXPIRY: both feeds stayed bad: every die loses power, TRIP_CAUSE clears, the Vane commits (R418, R421, R454). -/
def State.holdupExpiry (s : State) : State :=
  if s.rdb pgButtress But.HOLDUP then
    let s1 := s.diesOff.wrs pgButtress [(But.HOLDUP, 0), (But.TRIP_CAUSE, 0), (But.TRIP_SENSOR, 0)]
    (s1.setPower { s1.power with off := true, p4 := false, tripAt := none }).vaneCommit
  else s

/-- HOLDUP_EXPIRY. -/
def execHoldupExpiry (s : State) : Host.Outcome State Fault Refusal := .next s.holdupExpiry

/-- The Buttress runs the module: it has power, and is not in P4. -/
def State.running (s : State) : Bool := !s.power.off && !s.power.p4

/-- The module enters P4 with a cause. -/
def State.enterP4 (s : State) (cause sensor : Nat) : State :=
  let s1 := s.diesOff.wrs pgButtress [(But.TRIP_CAUSE, cause), (But.TRIP_SENSOR, sensor), (But.MOD_STATE, 0)]
  s1.setPower { s1.power with p4 := true }

/-! ## Coolant and trips (R419–R421) -/

/-- FLOW ≥ FLOW_MIN and INLET ≤ INLET_MAX. -/
def State.coolWithin (s : State) : Bool :=
  s.rd pgButtress But.FLOW_MIN ≤ s.rd pgButtress But.FLOW && s.rd pgButtress But.INLET ≤ s.rd pgButtress But.INLET_MAX

/-- COOLANT_CONFIRM: the limits have held for 2 s (R419). -/
def State.coolantConfirm (s : State) : State :=
  if s.coolWithin then
    let s1 := s.wr pgButtress But.COOL_OK 1
    s1.setPower { s1.power with coolant := true }
  else s

/-- COOLANT_CONFIRM. -/
def execCoolantConfirm (s : State) : Host.Outcome State Fault Refusal := .next s.coolantConfirm

/-- COOL_OK_CHANGE: new readings of flow and inlet. Once the interlock is confirmed COOL_OK follows them; before boot has left phase
COOLANT a reading beyond the limits undoes the confirmation (R419, R420). -/
def State.coolChange (s : State) (flow inlet : Nat) : State :=
  let was := s.rdb pgButtress But.COOL_OK
  let s1 := s.wrs pgButtress [(But.FLOW, flow), (But.INLET, inlet)]
  let s2 := s1.wrb pgButtress But.COOL_OK (s1.coolWithin && s.power.coolant)
  let s3 := if !s1.coolWithin && s.rd pgLantern Boo.BOOT_PHASE ≤ 2
    then s2.setPower { s2.power with coolant := false } else s2
  if was && !s1.coolWithin then s3.err pgButtress 3 else s3

/-- COOL_OK_CHANGE. -/
def execCoolOkChange (flow inlet : Nat) (s : State) : Host.Outcome State Fault Refusal := .next (s.coolChange flow inlet)

/-- A trip of Table 18.1. -/
def State.tripNow (s : State) (cause sensor : Nat) : State :=
  if s.running then
    let s1 := s.enterP4 cause sensor
    s1.setPower { s1.power with fault := true, tripAt := some s1.clock }
  else s

/-- TRIP_PEAK_POWER (Table 18.1). -/
def execTripPeakPower (s : State) : Host.Outcome State Fault Refusal := .next (s.tripNow 2 0)

/-- TRIP_SUSTAINED_POWER (Table 18.1). -/
def execTripSustainedPower (s : State) : Host.Outcome State Fault Refusal := .next (s.tripNow 3 0)

/-- TEMP_TRIP as it acts: values outside 100–120 act as 110. -/
def State.tempTrip (s : State) : Nat :=
  let t := s.rd pgButtress But.TEMP_TRIP
  if 100 ≤ t && t ≤ 120 then t else 110

/-- TRIP_TEMPERATURE: two readings of a sensor 1 ms apart (Table 18.1). -/
def execTripTemperature (sensor t0 t1 : Nat) (s : State) : Host.Outcome State Fault Refusal :=
  .next (if sensor < 64 && s.tempTrip ≤ t0 && s.tempTrip ≤ t1 then s.tripNow 4 sensor else s)

/-- TRIP_FLOW: a flow reading held for 500 ms (Table 18.1). -/
def execTripFlow (flow : Nat) (s : State) : Host.Outcome State Fault Refusal :=
  .next (if flow < s.rd pgButtress But.FLOW_TRIP then s.tripNow 5 0 else s)

/-- TRIP_INLET: an inlet reading held for 500 ms (Table 18.1). -/
def execTripInlet (inlet : Nat) (s : State) : Host.Outcome State Fault Refusal :=
  .next (if s.rd pgButtress But.INLET_TRIP < inlet then s.tripNow 6 0 else s)

/-! ## Resets (R428, R429, R431) -/

/-- A cold reset, with a fresh challenge. -/
def State.coldStart (s : State) : State := s.coldReset.drawChal

/-- A module reset; stacks that are READY stay in self-refresh (R429). -/
def State.modReset (s : State) (src : Nat) : State :=
  let kept := filterRange 16 fun st => s.rd (pgHbm st) Hbm.HSTATE = 2 || s.rd (pgHbm st) Hbm.HSTATE = 3
  kept.foldl (fun t st => t.wr (pgHbm st) Hbm.HSTATE 3) (s.moduleReset src)

/-- RESET_N falls: the dies are held in module reset; SHDN_N low, P4 and no power override it (R470). -/
def State.resetAssert (s : State) : State :=
  if s.running && !s.power.shdnLow then
    let s1 := s.modReset 0
    s1.setPower { s1.power with resetLow := true }
  else s

/-- RESET_N_ASSERT. -/
def execResetNAssert (s : State) : Host.Outcome State Fault Refusal := .next s.resetAssert

/-- RESET_N rises: boot starts at phase FINIAL, and PROG_EN_N is sampled (R470, R473). -/
def State.resetRelease (s : State) (progEnN : Bool) : State :=
  if s.power.resetLow then s.setPower { s.power with resetLow := false, prog := !progEnN } else s

/-- RESET_N_RELEASE. -/
def execResetNRelease (progEnN : Bool) (s : State) : Host.Outcome State Fault Refusal := .next (s.resetRelease progEnN)

/-! ## Module states (R422, R423) -/

/-- A request ignored with PG_ERR.REQ_REFUSED. -/
def State.reqRefused (s : State) : State := s.err pgButtress 5

/-- A stream engine is active. -/
def State.streamsActive (s : State) : Bool :=
  [0, 1].any fun i => s.rd pgHost Mac.STRM_STATE i = 1 || s.rd pgHost Mac.STRM_STATE i = 2

/-- A Keep mover is RUNNING or DRAINING. -/
def State.moversActive (s : State) : Bool :=
  (List.range 4).any fun k => s.rd (pgKeep k) Mov.MV_STATE = 1 || s.rd (pgKeep k) Mov.MV_STATE = 2

/-- The cases of R423 in which P3 is refused. -/
def State.p3Refused (s : State) : Bool := s.joined || !s.banksEmpty || s.moversActive || s.streamsActive

/-- Stacks that are OFF, or of which every one is trained anew, begin their training (Table 12.8). -/
def State.trainStacks (s : State) (all : Bool) : State :=
  (List.range 16).foldl (fun t st => if all || t.rd (pgHbm st) Hbm.HSTATE = 0 then t.wr (pgHbm st) Hbm.HSTATE 1 else t) s

/-- P3 is left: the stacks that were powered down train (R423, Table 12.8). -/
def State.leaveP3 (s : State) : State := (s.trainStacks false).wr pgButtress But.MOD_STATE 3

/-- A request of MOD_REQ with its key (R422, R423): 1 enter P3, 2 leave P3, 3 enter P4, 4 module reset. A request that names no
move from the present state is refused (log 36). -/
def State.modReq (s : State) (code key : Nat) : State :=
  let st := s.rd pgButtress But.MOD_STATE
  if !s.running then s
  else if key ≠ 0xA5 || st = 1 || st = 3 then s.reqRefused
  else if code = 1 then
    if st ≠ 0 || s.p3Refused then s.reqRefused
    else ((List.range 8).foldl State.atomFlush s).wr pgButtress But.MOD_STATE 1
  else if code = 2 then (if st = 2 then s.leaveP3 else s.reqRefused)
  else if code = 3 then s.enterP4 1 0
  else if code = 4 then s.modReset 1
  else s.reqRefused

/-- ENTER_P3. -/
def execEnterP3 (key : Nat) (s : State) : Host.Outcome State Fault Refusal := .next (s.modReq 1 key)
/-- LEAVE_P3. -/
def execLeaveP3 (key : Nat) (s : State) : Host.Outcome State Fault Refusal := .next (s.modReq 2 key)
/-- ENTER_P4. -/
def execEnterP4 (key : Nat) (s : State) : Host.Outcome State Fault Refusal := .next (s.modReq 3 key)
/-- MODULE_RESET. -/
def execModuleReset (key : Nat) (s : State) : Host.Outcome State Fault Refusal := .next (s.modReq 4 key)

/-- P3_ENTRY_COMPLETE: every domain and die outside the P3 set is off; stacks are in self-refresh with HBM_P3_SR. -/
def State.p3Entered (s : State) : State :=
  if s.rd pgButtress But.MOD_STATE = 1 then
    let sr := s.rdb pgButtress But.HBM_P3_SR
    let s1 := s.rebuild s sr true
    let s2 := (List.range 16).foldl (fun t st =>
      if t.rd (pgHbm st) Hbm.HSTATE = 4 then t else t.wr (pgHbm st) Hbm.HSTATE (if sr then 3 else 0)) s1
    (s2.setPower { s2.power with doms := ((List.range domCount).filter (· ≠ 332)).map fun d => (d, 2) }).wr
      pgButtress But.MOD_STATE 2
  else s

/-- P3_ENTRY_COMPLETE. -/
def execP3EntryComplete (s : State) : Host.Outcome State Fault Refusal := .next s.p3Entered

/-- P3_EXIT_COMPLETE: with the coolant within limits, settings take the values of Table 18.5, stacks resume, the boot
parameters are applied again. -/
def State.p3Exited (s : State) : State :=
  if s.rd pgButtress But.MOD_STATE = 3 && s.rdb pgButtress But.COOL_OK then
    let failed := filterRange 16 fun st => s.rd (pgHbm st) Hbm.HSTATE = 4
    let s1 := s.rebuild (s.keepRegs s.keptByP3) true true
    let s2 := (allPages.filter s.defaultedByP3).foldl (fun t p => t.default p 6) s1
    let s3 := (List.range 16).foldl (fun t st => t.wr (pgHbm st) Hbm.HSTATE (if failed.contains st then 4 else 2)) s2
    s3.applyBp.wr pgButtress But.MOD_STATE 0
  else s

/-- P3_EXIT_COMPLETE. -/
def execP3ExitComplete (s : State) : Host.Outcome State Fault Refusal := .next s.p3Exited

/-- WAKE_N low for 10 ms: leaves P3, or P4 as a cold reset; ignored in the Active state, while SHDN_N is low, and for 10 s
after a trip (R421, R422, R470). -/
def State.wake (s : State) : State :=
  let late : Bool := match s.power.tripAt with
    | some t => t + 11000000000 ≤ s.clock
    | none => true
  if s.power.shdnLow || !late || s.power.off then s
  else if s.power.p4 then s.coldStart
  else if s.rd pgButtress But.MOD_STATE = 2 then s.leaveP3
  else s

/-- WAKE_N. -/
def execWakeN (s : State) : Host.Outcome State Fault Refusal := .next s.wake

/-- SHDN_N: low for 1 ms enters and holds P4 (R469, R470). -/
def State.shdn (s : State) (low : Bool) : State :=
  let s1 := s.setPower { s.power with shdnLow := low }
  if low && s.running then s1.enterP4 1 0 else s1

/-- SHDN_N. -/
def execShdnN (low : Bool) (s : State) : Host.Outcome State Fault Refusal := .next (s.shdn low)

/-- POWER_RESTORED: power returns after the loss of both feeds (R428); SHDN_N low holds P4. -/
def State.restored (s : State) : State :=
  if s.power.off then
    let s1 := s.coldStart
    if s.power.shdnLow then s1.setPower { s1.power with p4 := true } else s1
  else s

/-- POWER_RESTORED. -/
def execPowerRestored (s : State) : Host.Outcome State Fault Refusal := .next s.restored

/-! ## Saves (R433–R437) -/

/-- CAL_SAVE: the sector is erased, and CAL_FACTORY clears for good. -/
def State.calSave (s : State) : State :=
  if s.rdb pgLantern Cal.CAL_BUSY then s
  else (s.zeroRange spFlash flCal areaLen).wrs pgLantern [(Cal.CAL_BUSY, 1), (Cal.CAL_FACTORY, 0)]

/-- CAL_SAVE (R434). -/
def execCalSave (s : State) : Host.Outcome State Fault Refusal := .next s.calSave

/-- CAL_SAVE_COMPLETE: the set and its CRC stand in the sector. -/
def State.calSaved (s : State) : State :=
  if s.rdb pgLantern Cal.CAL_BUSY then
    let l := s.calBytes
    let c := crc32c l
    (s.poke spFlash flCal (l ++ leBytes 4 c ++ leBytes 1 1)).wrs pgLantern [(Cal.CAL_BUSY, 0), (Cal.CAL_CRC, c)]
  else s

/-- CAL_SAVE_COMPLETE. -/
def execCalSaveComplete (s : State) : Host.Outcome State Fault Refusal := .next s.calSaved

/-- BP_SAVE: the record is being written; cut short it reads CRC bad. -/
def State.bpSave (s : State) : State :=
  if s.rd pgLantern Boo.BP_STATE = 3 then s
  else
    let l := s.bpRecord.take 32
    (s.poke spFlash flBp (l ++ leBytes 4 (Nat.xor (crc32c l) 1))).wr pgLantern Boo.BP_STATE 3

/-- BP_SAVE (R436). -/
def execBpSave (s : State) : Host.Outcome State Fault Refusal := .next s.bpSave

/-- BP_SAVE_COMPLETE. -/
def State.bpSaved (s : State) : State :=
  if s.rd pgLantern Boo.BP_STATE = 3 then
    (s.poke spFlash (flBp + 32) (leBytes 4 (crc32c (s.bpBytes.take 32)))).wr pgLantern Boo.BP_STATE 1
  else s

/-- BP_SAVE_COMPLETE. -/
def execBpSaveComplete (s : State) : Host.Outcome State Fault Refusal := .next s.bpSaved

/-- BP_LOAD (R437). -/
def execBpLoad (s : State) : Host.Outcome State Fault Refusal :=
  .next (if s.rd pgLantern Boo.BP_STATE = 3 then s else s.bpLoad)

/-! ## Boot (R435, Table 18.7) -/

/-- BOOT_PHASE. -/
def State.bootPhase (s : State) : Nat := s.rd pgLantern Boo.BOOT_PHASE

/-- The time of the present phase recorded, and the next phase shown. -/
def State.nextPhase (s : State) (ms : Nat) : State :=
  (s.wri pgLantern Boo.PHASE_MS (s.bootPhase - 1) ms).wr pgLantern Boo.BOOT_PHASE (s.bootPhase + 1)

/-- Phase HBM ends: every stack is READY or FAILED. -/
def State.bootHbm (s : State) (failed : List Nat) : State :=
  (List.range 16).foldl (fun t st =>
    if failed.contains st then (t.wr (pgHbm st) Hbm.HSTATE 4).err (pgHbm st) 0 else t.wr (pgHbm st) Hbm.HSTATE 2) s

/-- Phase LINKS ends: the links that failed are FAILED, the host link is up or not. -/
def State.bootLinks (s : State) (failed : List Nat) (host : Bool) : State :=
  let s1 := (failed.filter fun l => validLink l && s.lstate l ≠ 6).foldl State.trainFail s
  if host then s1.hostLinkUp else s1

/-- The Lantern writes JOIN, with SEED and JOIN_TICK where the record says so (R436). -/
def State.bootJoin (s : State) : State :=
  let fl := s.bpWord 5
  if s.bpFlash = 1 && bit fl 1 then
    let s1 := if bit fl 2 then
        (s.put pgWatch Wat.JOIN_TICK_LO 0 (s.bpWord 6)).put pgWatch Wat.JOIN_TICK_HI 0 (s.bpWord 7 % 2 ^ 16)
      else s
    s1.join (1 + 2 * b2n (bit fl 2))
  else s

/-- The sum of PHASE_MS: ms from feeds good to READY. -/
def State.bootMs (s : State) : Nat := sumL ((List.range 8).map fun i => s.rd pgLantern Boo.PHASE_MS i)

/-- The known patterns of the code checkers (R343): one and two symbol errors, three and six, a swapped address, the marker. -/
def codeCases : Bool :=
  classify [(0, 1)] = .corrected && classify [(3, 0x55), (71, 0xFF)] = .corrected
    && classify [(0, 1), (1, 2), (2, 3)] = .uncorrectable
    && classify [(0, 1), (9, 2), (18, 4), (27, 8), (36, 16), (70, 32)] = .uncorrectable
    && classify [(64, 1)] = .address && classify [(69, 0xA5)] = .poisoned

/-- The known patterns of the votes: each copy wrong in turn, then all three different. -/
def voteCases : Bool :=
  TripCopies.vote ⟨5, 5, false⟩ 9 = 5 && TripCopies.vote ⟨9, 5, false⟩ 5 = 5 && TripCopies.vote ⟨5, 9, false⟩ 5 = 5
    && TripCopies.vote ⟨1, 2, false⟩ 3 = 3

/-- START-UP SELF-TEST ends: a class passes where its known patterns give the expected outcomes in these definitions and in the
device, whose result the command brings; a class that does not sets PG_ERR.SELFTEST (R343, Table 13.5; log 215). -/
def State.selfTest (s : State) (device : Nat) : State :=
  let pass := Nat.land device (0x1FC + b2n codeCases + 2 * b2n voteCases)
  let s1 := s.wrs pgIntegrity [(Itg.ST_PASS, pass), (Itg.ST_DONE, 1)]
  if pass % 512 = 0x1FF then s1 else s1.err pgIntegrity 10

/-- BOOT_PHASE_COMPLETE: the end condition of the present phase is met. -/
def State.bootComplete (s : State) (r : BootResult) : State :=
  if !s.running || s.power.resetLow then s
  else
    match s.bootPhase with
    | 1 => s.nextPhase r.ms
    | 2 => if s.power.coolant then s.nextPhase r.ms else s
    | 3 =>
      if s.power.prog || s.rd pgFinial Fin.FIN_STATE = 2 then s
      else
        let s1 := s.finialPhase
        if s1.rd pgFinial Fin.FIN_STATE = 1 then s1.nextPhase r.ms else s1
    | 4 => s.loadCal.applyBp.nextPhase r.ms
    | 5 => ((s.selfTest r.stPass).trainStacks true).nextPhase r.ms
    | 6 => (s.bootHbm r.stacksFailed).nextPhase r.ms
    | 7 => ((s.bootLinks r.linksFailed r.hostUp).nextPhase r.ms).bootJoin
    | 8 =>
      let s1 := s.nextPhase r.ms
      s1.wrs pgLantern [(Boo.BOOT_DONE, 1), (Boo.BOOT_MS, s1.bootMs)]
    | _ => s

/-- BOOT_PHASE_COMPLETE. -/
def execBootPhaseComplete (r : BootResult) (s : State) : Host.Outcome State Fault Refusal := .next (s.bootComplete r)

/-- BOOT_PHASE_TIMEOUT: the phase and a cause are recorded; FINIAL stops boot. -/
def State.bootTimeout (s : State) (code : Nat) : State :=
  if !s.running || s.power.resetLow || s.rdb pgLantern Boo.BOOT_DONE || (s.power.prog && s.bootPhase = 3) then s
  else
    let s1 := s.wrs pgLantern [(Boo.BOOT_FAIL_PHASE, s.bootPhase), (Boo.BOOT_FAIL_CODE, code)]
    if s.bootPhase = 3 then s1.wr pgFinial Fin.FIN_STATE 2 else s1

/-- BOOT_PHASE_TIMEOUT. -/
def execBootPhaseTimeout (code : Nat) (s : State) : Host.Outcome State Fault Refusal := .next (s.bootTimeout code)

end Sys2Proof.Machine
end

