-- ==== Sys2Proof/Machine/RegAccess.lean ====
section
/-! DEFINITION. Register space (R397–R415): what a read of a word returns and what a write of a word does, for every page; the
common header; refused and missing registers. -/

namespace Sys2Proof.Machine

open Sys2Proof

/-! ## Field writes -/

/-- Every field of a word written by its access code (R399). -/
def State.swWord (s : State) (p : PageId) (off v : Nat) : State :=
  (fieldsAt p off).foldl (fun t x => t.swField p x.1 x.2 (bits v x.1.lo x.1.w)) s

/-- The fields of a list written, each from its bits of the word. -/
def State.swFields (s : State) (p : PageId) (v : Nat) (l : List Reg) : State :=
  l.foldl (fun t r => t.swField p r 0 (bits v r.lo r.w)) s

/-- One field of a record cleared, the visible value and the held one. -/
def State.clearBoth (s : State) (p : PageId) (r : Reg) (i : Nat) : State :=
  let s1 := s.put p r i 0
  match AL.get s.hidden (rkey p r i) with
  | some _ => { s1 with hidden := AL.put s1.hidden (rkey p r i) 0 }
  | none => s1

/-- The records of each page: offset of the word with VALID, VALID's bit, and the offsets the record spans. -/
def recordsAt (ty : Nat) : List (Nat × Nat × Nat × Nat) :=
  match ty with
  | 0x0002 => [(0x180, 0, 0x180, 0x198)]
  | 0x0020 => [(0x198, 8, 0x198, 0x1A8)]
  | 0x0031 => [(0x160, 0, 0x160, 0x178), (0x1A0, 0, 0x180, 0x1AC), (0xF20, 0, 0xF20, 0xF5C)]
  | 0x0032 => [(0x140, 0, 0x140, 0x158), (0xF20, 0, 0xF20, 0xF5C)]
  | 0x0033 => [(0x180, 0, 0x180, 0x1A0), (0xF20, 0, 0xF20, 0xF5C)]
  | 0x0035 => [(0x140, 0, 0x140, 0x158), (0x160, 0, 0x160, 0x178)]
  | 0x0050 => [(0x178, 0, 0x178, 0x188)]
  | 0x0051 => [(0x170, 0, 0x170, 0x184), (0x190, 0, 0x190, 0x1C4)]
  | _ => []

/-- A write of 1 to VALID clears every field of its record (the tables of the owning chapters), but not in the cycle in which
hardware sets VALID (R13). -/
def State.clearRecords (s : State) (p : PageId) (off v : Nat) : State :=
  ((recordsAt p.ty).filter fun x => x.1 = off && bit v x.2.1 && s.roseNow ⟨p.ty, p.inst, x.1, x.2.1⟩ = 0).foldl (fun t x =>
    ((blockFields p).filter fun r => x.2.2.1 ≤ r.off && r.off < x.2.2.2).foldl (fun u r =>
      (List.range r.count).foldl (fun w i => w.clearBoth p r i) u) t) s

/-! ## The common header (R402–R406, R410) -/

/-- A W1C write of PG_ERR: where it leaves PG_ERR zero, PG_ERR_FIRST and PG_ERR_TICK clear with it; the visible fields and the
held ones each by their own PG_ERR (R405, R406). -/
def State.errW1c (s : State) (p : PageId) (v : Nat) : State :=
  let first := [Hdr.FIRST_CODE, Hdr.FIRST_COUNT, Hdr.PG_ERR_TICK]
  let held := first.map fun r => (r, s.rd p r)
  let s1 := s.w1c p Hdr.PG_ERR 0 v
  let s2 := if s1.raw p Hdr.PG_ERR = 0 then first.foldl (fun t r => t.put p r 0 0) s1 else s1
  match AL.get s1.hidden (rkey p Hdr.PG_ERR 0) with
  | some h => held.foldl (fun (t : State) (x : Reg × Nat) =>
      { t with hidden := AL.put t.hidden (rkey p x.1 0) (if h = 0 then 0 else x.2) }) s2
  | none => s2

/-- FREEZE set or cleared (R405). -/
def State.setFreeze (s : State) (p : PageId) (on : Bool) : State :=
  let was := frozen s p
  let s1 := s.put p Hdr.FREEZE 0 (b2n on)
  if was && !on then s1.unfreeze p else s1

/-- A word of the common header written. -/
def State.hdrWrite (s : State) (p : PageId) (off v : Nat) : State :=
  match off with
  | 0x008 =>
    let s1 := if enWritable p.ty then s.swField p Hdr.EN 0 (bits v 0 1) else s
    let s2 := if bit v 1 then s1.armReset p else s1
    let s3 := s2.setFreeze p (bit v 2)
    if bit v 3 then s3.setLock p else s3
  | 0x00C =>
    let s1 := s.w1c p Hdr.DEFAULTED 0 1
    if !bit v 7 then s else if s1.rdb p Hdr.DEFAULTED then s1 else s1.put p Hdr.DEF_KIND 0 0
  | 0x010 => s.errW1c p v
  | 0x020 => if pageDomain p = 0x1FF then s else (s.put p Hdr.HOLD_ON 0 (bits v 4 1)).wakePage p
  | 0x024 => (s.swWord p off v).wakePage p
  | _ => s.swWord p off v

/-! ## Writes of the blocks' own registers -/

/-- A word written unless a rule of its table refuses the value, with the PG_ERR bit raised there. -/
def State.checked (s : State) (p : PageId) (off v : Nat) (ok : Bool) (errBit : Nat) : State :=
  if ok then s.swWord p off v else s.err p errBit

/-- The arithmetic unit of a page of Table 06.6. -/
def auOf (p : PageId) : AUnit :=
  match p.ty with
  | 0x0031 => .tile p.inst
  | 0x0032 => .ce p.inst
  | _ => .ue p.inst

/-- A word of Table 06.6: reserved values of RND and NAN_ACT are ignored with ARITH_CFG; on a collective engine RND and the
fields of stochastic rounding are read-only (R170). -/
def State.arithWrite (s : State) (p : PageId) (off v : Nat) : State :=
  let ce := p.ty = 0x0032
  match off with
  | 0xF00 =>
    let badR := !ce && bits v 1 2 = 3
    let badN := bits v 4 2 = 3
    let s1 := s.swField p Ari.SATURATE 0 (bits v 0 1)
    let s2 := if ce || badR then s1 else s1.swField p Ari.RND 0 (bits v 1 2)
    let s3 := if badN then s2 else s2.swField p Ari.NAN_ACT 0 (bits v 4 2)
    let s4 := if bit v 8 then s3.clipClr (auOf p) else s3
    if badR || badN then s4.err p 26 else s4
  | 0xF04 | 0xF08 | 0xF0C => if ce then s else s.swWord p off v
  | _ => (s.swWord p off v).clearRecords p off v

/-- Lantern global. -/
def State.lanternWrite (s : State) (off v : Nat) : State :=
  let p := pgLantern
  if 0x400 ≤ off && off < 0xE00 then (if s.rdb p Cal.CAL_BUSY then s else s.swWord p off v)
  else match off with
    | 0xE00 => if bit v 0 then s.calSave else s
    | 0x2A0 =>
      let s1 := if bit v 0 then s.bpSave else s
      if bit v 1 then s1.bpLoad else s1
    | 0xF20 =>
      let s1 := if bit v 0 then s.updGo (bits v 8 8) else s
      if bit v 1 then s1.fwCommit (bits v 8 8) else s1
    | _ => s.swWord p off v

/-- The Belfry (Table 02.5). -/
def State.belfryWrite (s : State) (off v : Nat) : State :=
  let p := pgBelfry
  match off with
  | 0x100 => s.checked p off v (8 ≤ bits v 0 9 && bits v 0 9 ≤ 256) 7
  | 0x104 => s.armPeriod v
  | 0x11C => s.checked p off v (4 ≤ bits v 0 8 && bits v 0 8 ≤ 128) 7
  | 0x14C => if bit v 0 && s.rdb p Bel.HOST_EN then s.issueSkip 3 else s
  | 0x154 => s.writeThrCtl v
  | _ => (s.swWord p off v).clearRecords p off v

/-- A Turret: EN, RETRAIN and LOOPBACK of Table 03.8; the rest plain. -/
def State.turretWrite (s : State) (p : PageId) (off v : Nat) : State :=
  let l := if p.ty = 0x0010 then p.inst else 16 + p.inst
  match off with
  | 0x104 =>
    let was := s.rdb p Lnk.LOOPBACK
    let s1 := (s.put p Lnk.LOOPBACK 0 (bits v 2 1)).writeLinkEn l (bit v 0)
    if bit v 1 || (bit v 2 && !was) then s1.downLink l else s1.tryStart l
  | _ => s.swWord p off v

/-- Events sent from the oldest on where EVT_EN rises (R395). -/
def State.evtEn (s : State) (v : Nat) : State :=
  let was := s.rdb pgHost Mac.EVT_EN
  let s1 := s.swWord pgHost 0x134 v
  if !was && s1.rdb pgHost Mac.EVT_EN then s1.resendEvents else s1

/-- The register and bit of a window's enable. -/
def cwEnReg (w : Nat) : Reg := if w < 32 then Mac.CW_EN_LO else Mac.CW_EN_HI

/-- CW_EN[w]. -/
def State.cwEnabled (s : State) (w : Nat) : Bool := bit (s.rd pgHost (cwEnReg w)) (w % 32)

/-- A window put in place, or closed. -/
def State.setWindow (s : State) (w : Nat) (x : CmdWin) : State := { s with windows := AL.put s.windows w x }
def State.closeWindow (s : State) (w : Nat) : State := { s with windows := AL.del s.windows w }

/-- A window stops: it takes no further records, those not started go, and with none in progress it closes, so that it is opened
afresh (R393, log 156). -/
def State.cwStop (s : State) (w : Nat) : State :=
  match AL.get s.windows w with
  | some x => if x.cur.isSome then s.setWindow w { x with todo := [] } else s.closeWindow w
  | none => s

/-- CW_BASE, CW_LOG or CW_DONE of window `w`: a window whose place changes is opened afresh; a misaligned base is ignored and leaves
the window disabled (R392, Table 16.8, log 156). -/
def State.windowWrite (s : State) (w off v : Nat) : State :=
  if off % 16 = 0 && v % 64 ≠ 0 then
    ((s.put pgHost (cwEnReg w) 0 (clrBit (s.rd pgHost (cwEnReg w)) (w % 32))).cwStop w).err pgHost 3
  else if off % 16 = 8 && 8 < bits v 0 4 then s.err pgHost 3
  else if off % 16 = 12 then s.swWord pgHost off v
  else (s.swWord pgHost off v).cwStop w

/-- CW_EN_LO or CW_EN_HI: a window that it leaves clear stops (R393). -/
def State.enableWrite (s : State) (off v : Nat) : State :=
  let s1 := s.swWord pgHost off v
  (List.range 64).foldl (fun t w => if t.cwEnabled w then t else t.cwStop w) s1

/-- The host MAC (Table 16.7). -/
def State.hostWrite (s : State) (off v : Nat) : State :=
  if off = 0x134 then s.evtEn v
  else if 0x200 ≤ off && off < 0x600 then s.windowWrite (off / 16 - 32) off v
  else if off = 0x184 || off = 0x188 then s.enableWrite off v
  else s.swWord pgHost off v

/-- A transfer register or GO of a Keep mover: ignored while it runs or drains (R320). -/
def State.moverWrite (s : State) (k off v : Nat) : State :=
  let p := pgKeep k
  let busy := s.mvState k = 1 || s.mvState k = 2
  match off with
  | 0x89C => s.swWord p off v
  | 0x8B0 =>
    let s1 := if bit v 0 then s.mvResume k else s
    if bit v 1 then s1.mvAbort k else s1
  | _ =>
    if busy && off < 0x89C then s.wr p Mov.MV_IGNORED 1
    else
      let s1 := s.swWord p off v
      if off = 0x898 && bit v 31 then s1.mvGo k else s1

/-- Registers of Keep 0 alone: tick plans (Table 04.8) and the segment table (Table 12.6). -/
def State.planWord (s : State) (off v : Nat) : State :=
  let p := pgKeep 0
  match off with
  | 0x16C =>
    let s1 := s.swWord p off v
    if bit v 1 then s1.planLoad (bits v 0 1) else s1
  | 0x174 => s.armSwitch (v % 2 ^ 32 + s.rd p Pln.SWITCH_AT_HI * 2 ^ 32)
  | 0x178 =>
    let s1 := if bit v 16 then s.disarm else s
    s1.swWord p off v
  | 0x824 =>
    let s1 := if bit v 0 then s.commitEntry else s
    if bit v 1 then s1.fstRead else s1
  | _ => (s.swWord p off v).clearRecords p off v

/-- Registers of Keep 3 alone (Table 05.2): a bucket is brought up to date before its rate changes, and PFC is held against the
new thresholds. -/
def State.hostQueueWord (s : State) (off v : Nat) : State :=
  let s1 := s.settleBuckets.swWord pgK3 off v
  if off = 0x360 || off = 0x364 then (List.range 8).foldl State.pfcCheck s1 else s1

/-- A Keep. -/
def State.keepWrite (s : State) (k off v : Nat) : State :=
  let p := pgKeep k
  if 0x880 ≤ off && off < 0x8C0 then s.moverWrite k off v
  else if 0x300 ≤ off && off < 0x800 then (if k = 3 then s.hostQueueWord off v else s)
  else if (0x160 ≤ off && off < 0x1A8) || (0x800 ≤ off && off < 0x838) then (if k = 0 then s.planWord off v else s)
  else match off with
    | 0x10C => s.flipAtWrite k v
    | 0x118 => s.writeFilled k 0 (bit v 0)
    | 0x11C => s.writeFilled k 1 (bit v 0)
    | 0x12C => s.tblWrite k v
    | 0x220 => s.swWord p off (if k = 3 then Nat.lor v 0x0F0000 else v)
    | 0x22C => s.ovfWrite k v
    | _ => s.swWord p off v

/-- A compute tile. `lantern`: the write comes from the Lantern of this module. -/
def State.tileWord (s : State) (g off v : Nat) (lantern : Bool) : State :=
  let p := pgTile g
  if 0xF00 ≤ off then s.arithWrite p off v
  else if off = 0x1B4 then s.imemWrite g lantern v
  else (s.swWord p off v).clearRecords p off v

/-- An update engine (Table 11.7): reserved values of the schedule are ignored; CHK_GO acts for a Watch engine alone. -/
def State.ueWrite (s : State) (c off v unit : Nat) : State :=
  let p := pgUe c
  if 0xF00 ≤ off then s.arithWrite p off v
  else match off with
    | 0x134 =>
      let s1 := if bits v 0 3 ≤ 4 then s.swField p Ue.DECAY 0 (bits v 0 3) else s
      if bits v 8 4 = 0 then s1 else s1.swField p Ue.RST_MULT 0 (bits v 8 4)
    | 0x138 => if v % 2 ^ 32 = 0 then s else s.swWord p off v
    | 0x1A0 => if bit v 0 then s.chkGo c unit else s
    | _ => (s.swWord p off v).clearRecords p off v

/-- Watch (Table 14.5). -/
def State.watchWord (s : State) (off v : Nat) : State :=
  let p := pgWatch
  match off with
  | 0x108 => s.writePartner v
  | 0x12C =>
    let okW := 8 ≤ bits v 8 8 && bits v 8 8 ≤ bits v 0 8
    if !okW then s.err p 6
    else s.swFields p v (if bits v 16 8 = 0 then [Wat.W_CUT, Wat.W_CONF] else [Wat.W_CUT, Wat.W_CONF, Wat.SW_LEAD])
  | 0x158 => if bits v 0 2 = 0 then s else s.writeCmd (bits v 0 2)
  | 0x174 => s.rbGo v
  | 0x188 => s.join v
  | _ => (s.swWord p off v).clearRecords p off v

/-- Integrity (Table 13.4). -/
def State.integrityWord (s : State) (off v : Nat) : State :=
  let p := pgIntegrity
  match off with
  | 0x100 => s.writeTrip v
  | 0x11C =>
    let s1 := if bit v 0 then s.scrubGo else s
    if bit v 1 && s1.scrub.isSome then s1.scrubStop 3 else s1
  | _ => (s.swWord p off v).clearRecords p off v

/-- The Finial. -/
def State.finialWord (s : State) (off v : Nat) : State :=
  let p := pgFinial
  match off with
  | 0x108 => if bits v 0 4 = 0 then s else s.fkeyRevoke (bits v 0 4) (bits v 8 8)
  | 0x144 =>
    let s1 := if bit v 0 then s.enroll else s
    let s2 := if bit v 1 then s1.revoke else s1
    if bit v 2 then s2.keySave else s2
  | 0x170 => if bit v 0 then s.attGo else s
  | 0x1E0 =>
    let s1 := if bit v 0 then s.testReq else s
    if bit v 1 then s1.dbgReq else s1
  | _ => s.swWord p off v

/-- A block-specific word written by a unit: 1 the Lantern, 3 Watch, 4–7 the Keep movers (R60). -/
def State.blockWrite (s : State) (p : PageId) (off v unit : Nat) : State :=
  match p.ty with
  | 0x0001 => s.lanternWrite off v
  | 0x0002 => s.belfryWrite off v
  | 0x0010 | 0x0011 => s.turretWrite p off v
  | 0x0012 => s.hostWrite off v
  | 0x0020 => s.keepWrite p.inst off v
  | 0x0031 => s.tileWord p.inst off v (unit = 1)
  | 0x0032 => if 0xF00 ≤ off then s.arithWrite p off v else (s.swWord p off v).clearRecords p off v
  | 0x0033 => s.ueWrite p.inst off v unit
  | 0x0034 =>
    if off = 0x100 then s.atomWin p.inst v
    else if off = 0x108 then (if bit v 0 then s.atomFlush p.inst else s)
    else s.swWord p off v
  | 0x0040 => if off = 0x108 then s.sysGib p.inst v else s.swWord p off v
  | 0x0050 => s.watchWord off v
  | 0x0051 => s.integrityWord off v
  | 0x0052 => if off = 0x124 then s.modReq (bits v 0 8) (bits v 8 8) else s.swWord p off v
  | 0x0054 => s.finialWord off v
  | _ => (s.swWord p off v).clearRecords p off v

/-! ## Live fields -/

/-- The first boot phase that has completed a block's part of power-up (log 37). -/
def readyPhase (ty : Nat) : Nat :=
  match ty with
  | 0x0052 => 2
  | 0x0001 | 0x0053 | 0x0054 => 4
  | 0x0040 => 7
  | _ => 5

/-- READY of a page. -/
def State.pageReady (s : State) (p : PageId) : Bool :=
  readyPhase p.ty ≤ s.rd pgLantern Boo.BOOT_PHASE && s.rd pgLantern Boo.BOOT_PHASE ≤ 9 && s.pageCur p < 2
    && (s.rd pgButtress But.MOD_STATE < 2 || p3Page p)
    && (p.ty ≠ 0x0040 || s.rd p Hbm.HSTATE = 2 || s.rd p Hbm.HSTATE = 3)

/-- Runs of a unit. -/
def State.unitRuns (s : State) (kind unit : Nat) : List Run := s.runs.filter fun r => r.kind = kind && r.unit = unit && r.slot < 4

/-- A header field that shows present state. -/
def State.hdrLive (s : State) (p : PageId) (r : Reg) : Option Nat :=
  if r = Hdr.READY then some (b2n (s.pageReady p))
  else if r = Hdr.LOCKED then some (s.raw p Hdr.LOCK)
  else if r = Hdr.CUR then some (if pageDomain p = 0x1FF then 0 else s.pageCur p)
  else if r = Hdr.SUB_OFF then some (s.pageSubOff p)
  else none

/-- A field of a Keep that shows present state. -/
def State.keepLive (s : State) (k : Nat) (r : Reg) : Option Nat :=
  let p := pgKeep k
  let q := s.queue k (s.rd p Opn.Q_OUT) (s.rd p Opn.Q_VC)
  if r = Kr.SUM_A then some (s.bankSum k 0)
  else if r = Kr.SUM_B then some (s.bankSum k 1)
  else if r = Kr.TBL_DATA then some (s.tblRead k)
  else if r = Opn.POOL_CELLS then (if s.pageReady p then some (s.poolCells k) else none)
  else if r = Opn.POOL_FREE then (if s.pageReady p then some (s.poolFree k) else none)
  else if r = Opn.OVF_USED then some (s.ovfUsed k)
  else if r = Opn.SPILLED_Q then some (s.spilledQ k)
  else if r = Opn.Q_SRAM then some q.sramCells
  else if r = Opn.Q_HBM then some q.hbm.length
  else if k = 0 && r = Fst.FST_USED then some s.fstUsed
  else if k = 3 && r = Hst.PAUSED_RX then some (sumL ((List.range 8).map fun n => if s.pausedRx n then 2 ^ n else 0))
  else if k = 3 && r = Hst.PAUSED_TX then some (sumL ((List.range 8).map fun n => if s.pausedTx n then 2 ^ n else 0))
  else if k = 3 && r = Hst.VT_LO then some (s.host.vt % 2 ^ 32)
  else none

/-- A field of a tile that shows present state. -/
def State.tileLive (s : State) (g : Nat) (r : Reg) (i : Nat) : Option Nat :=
  let t := s.tile g
  let queues (f : Nat → Bool) : Nat := sumL ((List.range 4).map fun q => if f q then 2 ^ q else 0)
  if r = Til.Q_BUSY then some (queues fun q => match t.body with
    | some m => (modInsns m).any fun x => x.2.q = q && !t.done.contains x.1
    | none => false)
  else if r = Til.Q_WAIT then some (queues fun q => t.waits.any fun w => w.q = q)
  else if r = Til.SHADOW_VALID then
    some (b2n (t.shadow.isSome && t.shadow = (s.bodyOf (s.planAt s.nextTick) g).map (·.2.2)))
  else if r = Til.XLATE_VER then (if t.fetch.isSome then none else some s.xlatorVer)
  else if r = Til.PREFETCH_BUSY then some (b2n (s.prefetchBusy g))
  else if r = Til.FLAG_CNT then some (sumL ((List.range 4).map fun b => AL.getD t.flags (4 * i + b) 0 % 256 * 256 ^ b))
  else none

/-- A field of Watch that shows present state (Table 14.5). -/
def State.watchLive (s : State) (r : Reg) : Option Nat :=
  let w := s.watch
  if r = Wat.WATCH_STATE then
    some (if s.isHeld then 4 else if w.cut.isSome then 3 else if s.joined then 2 else if w.joining.isSome then 1 else 0)
  else if r = Wat.HOLD_WHY then some (holdWhy (Nat.lor s.holdSet (Nat.land w.switchSet 4)))
  else if r = Wat.ROUND_C_LO then some (w.cut.getD 0 % 2 ^ 32)
  else if r = Wat.ROUND_C_HI then some (w.cut.getD 0 / 2 ^ 32)
  else if r = Wat.ROUND_OPEN then some (b2n w.cut.isSome)
  else if r = Wat.ROUND_KEYS then
    some (match w.cut with
      | some c => (w.held.filter fun x => tickLater c x.td).length
      | none => 0)
  else if r = Wat.RESTORERS then some (min w.restorers.length 0xFFFF)
  else if r = Wat.FAILED_MOD then some s.failedMods.length
  else if r = Wat.FAILED_LINK then some s.failedLinks.length
  else if r = Wat.FSET_KEY then some (w.failed.getD (s.rd pgWatch Wat.FSET_INDEX) 0)
  else if r = Wat.RB_REBUILD then
    some (b2n (!w.stale.isEmpty || (match w.restore with
      | some x => x.todo.isEmpty && (s.rd pgWatch Wat.RB_STATE = 2)
      | none => false)))
  else none

/-- The last reading of a monitor (R341). -/
def State.reading (s : State) (i : Nat) : Int := (AL.getD s.margin i (0, 0)).1

/-- A field of a page that shows present state and is kept elsewhere. -/
def State.blockLive (s : State) (p : PageId) (r : Reg) (i : Nat) : Option Nat :=
  match p.ty with
  | 0x0001 => if r = Fwu.SVN_MIN then some s.fuses.svnMin else none
  | 0x0002 => if r = Bel.OFFSET then some s.offset else none
  | 0x0010 =>
    if r = Lnk.LANE_SYM then some (s.vis p Lnk.laneCnt (s.rd p Lnk.LANE_SEL))
    else if r = Ept.OUTSTANDING then some (s.resvOf (.endpoint p.inst)).length
    else none
  | 0x0011 =>
    if r = Lnk.LANE_SYM then some (s.vis p Lnk.laneCnt (s.rd p Lnk.LANE_SEL))
    else if r = Tor.DATELINE then some (b2n (s.isDateline p.inst))
    else none
  | 0x0012 =>
    if r = Mac.SESS_OPEN then some (sumL (s.sessions.map fun x => 2 ^ x.1))
    else if r = Mac.EVT_NEXT then some (s.events.next % 2 ^ 32)
    else if r = Mac.EVT_PEND then some s.events.items.length
    else none
  | 0x0020 => s.keepLive p.inst r
  | 0x0031 =>
    if r = Ari.SVC then some (s.svc (.tile p.inst)) else s.tileLive p.inst r i
  | 0x0032 =>
    let at_ : Option Run := s.runs.find? fun x => x.kind = 1 && x.unit = p.inst && x.slot = i
    if r = Ce.ACTIVE then some (s.unitRuns 1 p.inst).length
    else if r = Ce.SLOT_DESC then at_.map Run.off
    else if r = Ce.SLOT_K then at_.map Run.k
    else if r = Ce.SLOT_VALID then some (b2n at_.isSome)
    else if r = Ari.SVC then some (s.svc (.ce p.inst))
    else if r = Ari.RND || r = Ari.SR_SEED || r = Ari.SR_ORIGIN_LO || r = Ari.SR_ORIGIN_HI then some 0
    else none
  | 0x0033 =>
    if r = Ue.ACTIVE then some (s.unitRuns 3 p.inst).length
    else if r = Ari.SVC then some (s.svc (.ue p.inst))
    else none
  | 0x0034 => if r = Drm.ATOM_LIVE then some (s.atoms.filter fun a => a.c = p.inst).length else none
  | 0x0035 => if r = Cdc.ACTIVE then some (s.unitRuns 4 (0x100 + p.inst)).length else none
  | 0x0040 => if r = Hbm.MV_ACTIVE then some (s.unitRuns 4 p.inst).length else none
  | 0x0050 => s.watchLive r
  | 0x0051 =>
    let m := s.rd p Itg.MON_SEL
    if r = Itg.INTEG_OK then some (b2n s.integOk)
    else if r = Itg.MON_DROOP then some (ofSigned 10 (s.reading m))
    else if r = Itg.MON_CANARY then some (ofSigned 16 (s.reading (64 + m)))
    else if r = Itg.MON_TEMP then some (s.rd pgOculus Ocu.TS_TEMP m)
    else if r = Itg.OPT_RX then some (ofSigned 16 (s.reading (128 + s.rd p Itg.OPT_SEL)))
    else none
  | 0x0052 =>
    let d := s.rd p But.DOM_SEL
    if r = But.DOM_STATE then some (s.domState d)
    else if r = But.DOM_WAKE_US then some (AL.getD s.power.wakeUs d 0)
    else none
  | 0x0053 => if r = Van.VANE_PUB then some (Config.vanePub i % 2 ^ 32) else none
  | 0x0054 =>
    if r = Fin.FKEY_REVOKED then some s.fuses.revoked
    else if r = Fin.PK_STATE then some s.pkState
    else if r = Fin.MEAS_DATA then some (s.measData i)
    else none
  | _ => none

/-- What a read returns for one field (R12): a write-only field reads 0; a field that shows present state, its state. -/
def State.fieldRead (s : State) (p : PageId) (r : Reg) (i : Nat) : Nat :=
  if r.acc = .wo then 0
  else match if r.off < 0x100 then s.hdrLive p r else s.blockLive p r i with
    | some v => v % 2 ^ r.w
    | none => s.vis p r i

/-- The word that a read returns: every field of the register together (R399). -/
def State.readWord (s : State) (p : PageId) (off : Nat) : Nat :=
  (fieldsAt p off).foldl (fun n x => n + s.fieldRead p x.1 x.2 * 2 ^ x.1.lo) 0

/-- A read of a register, with the latches that the owning chapters state (R399). -/
def State.regRead (s : State) (p : PageId) (off : Nat) : Nat × State :=
  match p.ty, off with
  | 0x0002, 0x10C => s.readNowLo
  | 0x0002, 0x140 => s.readStepLo
  | 0x0033, 0x108 => s.readUeStep p.inst
  | 0x0050, 0x11C => s.readFlight
  | 0x0050, 0x124 => s.readDecl
  | 0x0053, 0x100 => s.readVmSeq
  | 0x0053, 0x130 => s.readVmSig
  | 0x0054, 0x178 => s.readAtt
  | _, _ => (s.readWord p off, s)

/-- A write of a register by a unit. -/
def State.regWrite (s : State) (p : PageId) (off v unit : Nat) : State :=
  if off < 0x100 then s.hdrWrite p off v else s.blockWrite p off v unit

/-! ## Access (R397, R398, R401) -/

/-- Pages that stay available in P3 (R401). -/
def p3Readable (ty : Nat) : Bool := [0x0001, 0x0052, 0x0053, 0x0054].contains ty

/-- The block-specific registers of a page are unavailable: its domains are off, or the module is in P3 or on its way out of it,
where the page's die is not powered up (R401). -/
def State.unavailable (s : State) (p : PageId) : Bool :=
  s.pageCur p = 2 || (2 ≤ s.rd pgButtress But.MOD_STATE && !p3Readable p.ty)

/-- An access refused under R401 is counted. -/
def State.regOff (s : State) : State := (s.bump pgLantern Lan.REG_OFF).err pgLantern 0

/-- An address fault on register space is counted and its offset latched (R398). -/
def State.regFault (s : State) (off : Nat) : State :=
  ((s.bump pgLantern Lan.REG_FAULT).wr pgLantern Lan.REG_FAULT_ADDR (off % 2 ^ 32)).err pgLantern 1

/-- A status that the owning chapter gives a write of its own: IMEM_WDATA (R250). -/
def State.writeStatus (s : State) (p : PageId) (off unit : Nat) : Nat :=
  if p.ty = 0x0031 && off = 0x1B4 then s.imemStatus p.inst (unit = 1) else 0

/-- A 32-bit access to register space at an offset: the status of Table 12.3, the value read, and the state after it. `w`: the
value of a write. -/
def State.regAccess (s : State) (off : Nat) (w : Option Nat) (unit : Nat) : Nat × Nat × State :=
  match if off < 2 ^ 32 then pageAt off else none with
  | none => (3, 0, s.regFault off)
  | some p =>
    let o := off % 0x1000
    if 0x100 ≤ o && s.unavailable p then (6, 0, s.regOff)
    else match w with
      | none =>
        let x := s.regRead p o
        (0, x.1, x.2)
      | some v =>
        if s.imemHeld p o (unit = 1) then (0, 0, s.imemHold p.inst o (v % 2 ^ 32))
        else (s.writeStatus p o unit, 0, s.regWrite p o (v % 2 ^ 32) unit)

/-! ## The rows -/

/-- REGISTER_WRITE (R399): a write by the Lantern for the host; a misaligned one is not performed (R397). -/
def execRegisterWrite (addr v : Nat) (s : State) : Host.Outcome State Fault Refusal :=
  .next (if addr % 4 = 0 then (s.regAccess addr (some v) 1).2.2 else s)

/-- PG_ERR_WRITE (R406). -/
def execPgErrWrite (p : PageId) (v : Nat) (s : State) : Host.Outcome State Fault Refusal :=
  .next (if pageValid p then s.errW1c p (v % 2 ^ 32) else s)

/-- FREEZE (R405). -/
def execFreeze (p : PageId) (on : Bool) (s : State) : Host.Outcome State Fault Refusal :=
  .next (if pageValid p then s.setFreeze p on else s)

/-- LOCK (R410). -/
def execLock (p : PageId) (s : State) : Host.Outcome State Fault Refusal :=
  .next (if pageValid p then s.setLock p else s)

/-- EVT_EN_WRITE: the word of EVT_EN written (R395). -/
def execEvtEnWrite (v : Nat) (s : State) : Host.Outcome State Fault Refusal := .next (s.evtEn v)

end Sys2Proof.Machine
end

