-- ==== Sys2Proof/Machine/MemService.lean ====
section
/-! DEFINITION. The memory and register service (R309–R313): checks, accesses that wait, and what each request does. -/

namespace Sys2Proof.Machine

open Sys2Proof

/-! ## What a request names (R310) -/

/-- Where a request acts: memory space (0 HBM, 1 tile stores, 2 Drums, 3 registers), offset, and the segment where it is
sparse. -/
structure Target where
  sp : Nat
  off : Nat
  seg : Option Seg
  deriving DecidableEq, Repr

/-- A request writes or adds. -/
def writesMem (op : Nat) : Bool := op = 2 || op = 0x11 || isAtomic op

/-- An entry lacks the permission that an access needs (R206, R229, R310). -/
def fstPermBad (e : List Nat) (op : Nat) : Bool :=
  if isAtomic op then !fstAt e || fstSparse e || fstSpace e = spTile
  else if writesMem op then !fstWr e || fstSparse e
  else !fstRd e

/-- Steps 1 to 4 of R310: the target, or the status of the first check that fails. -/
def State.target (s : State) (f : Flit) : Nat ⊕ Target :=
  let r := reqOf f
  match checkReq f true with
  | some st => .inl st
  | none =>
    if r.virt then
      match s.fstFind (vaLog r.addr) (vaOff r.addr) with
      | none => .inl 4
      | some i =>
        let e := s.fstEntry i
        if fstState e ≠ 0 then .inl 5
        else if fstPermBad e r.opcode then .inl 6
        else if writesMem r.opcode && fstFreeze e then .inl 7
        else if fstSparse e then .inr ⟨spHbm, vaOff r.addr % 2 ^ fstSize e, some (segOf e)⟩
        else .inr ⟨fstSpace e, fstLocal e (vaOff r.addr), none⟩
    else if isAtomic r.opcode && faSpace r.addr = spTile then .inl 6
    else .inr ⟨faSpace r.addr, faOff r.addr, none⟩

/-- The local address whose line a target touches first. -/
def Target.loc (t : Target) : Nat :=
  match t.seg with
  | some g => g.base
  | none => t.off

/-! ## Accesses that wait (R229, R301, R425, R426) -/

/-- Power domains that an access needs. -/
def Target.domains (t : Target) (op : Nat) : List Nat :=
  match t.sp with
  | 0 => (288 + stackOf t.loc) :: (if isAtomic op then [280 + stackOf t.loc / 2] else [])
  | 1 => [t.off / 2 ^ 21]
  | 2 => [280 + t.off / 2 ^ 25]
  | _ => []

/-- A tile runs a body: of the plan, once it has begun on a page with EN set (R249, R403), or a service body (R231). -/
def State.tileRuns (s : State) (g : Nat) : Bool :=
  ((s.tile g).running && s.rdb (pgTile g) Hdr.EN) || s.rd (pgTile g) Til.STATE = 3

/-- The unit of the module that a request comes from (R60). Only the module's own Lantern writes instruction memory (R250): another
module's counts as a unit without that right. -/
def State.srcUnit (s : State) (f : Flit) : Nat := if f.src % 16 = 1 && f.src ≠ coord19 s.coord 1 then 0 else f.src % 16

/-- The request is a write of the Lantern to IMEM_WADDR or IMEM_WDATA of a tile whose body runs: it waits (R251). -/
def State.imemWaits (s : State) (t : Target) (f : Flit) : Bool :=
  t.sp = 3 && f.opcode = 2 && (match pageAt t.off with
    | some p => s.imemHeld p (t.off % 0x1000) (s.srcUnit f = 1)
    | none => false)

/-- An access may not be performed now: its tile runs a body, its stack is not READY or FAILED, or a domain it needs is not in
P0. -/
def State.mustWait (s : State) (t : Target) (op : Nat) : Bool :=
  ((t.domains op).any fun d => s.domState d ≠ 0)
    || (t.sp = spTile && s.tileRuns (t.off / 2 ^ 21))
    || (t.sp = spHbm && s.rd (pgHbm (stackOf t.loc)) Hbm.HSTATE ≠ 2 && s.rd (pgHbm (stackOf t.loc)) Hbm.HSTATE ≠ 4)

/-- The 64-byte lines that a request may touch, first and last: of a sparse segment all of them. -/
def Target.lines (t : Target) (f : Flit) : Nat × Nat :=
  match t.seg with
  | some g => (g.base / 64, (g.base + g.size - 1) / 64)
  | none => (t.off / 64, (t.off + max 1 (reqOf f).size - 1) / 64)

/-- Two requests are performed in the order in which they come: those to one tile store, and those to one line (R229, R312). -/
def Target.sameLine (t : Target) (f : Flit) (u : Target) (g : Flit) : Bool :=
  t.sp = u.sp && (if t.sp = spTile then t.off / 2 ^ 21 = u.off / 2 ^ 21
    else (t.lines f).1 ≤ (u.lines g).2 && (u.lines g).1 ≤ (t.lines f).2)

/-- One of a list of earlier requests comes first. -/
def State.behind (s : State) (l : List Flit) (t : Target) (f : Flit) : Bool :=
  l.any fun g => match s.target g with
    | .inr u => t.sameLine f u g
    | .inl _ => false

/-- An earlier request to the same tile or line waits (R229, R312). -/
def State.queuedBefore (s : State) (t : Target) (f : Flit) : Bool := s.behind s.waiting t f

/-- A request put among those that wait: the domains in P2 that it needs start to wake. -/
def State.holdRequest (s : State) (t : Target) (f : Flit) : State :=
  let s1 := if t.sp = spTile && s.tileRuns (t.off / 2 ^ 21) then s.bump (pgTile (t.off / 2 ^ 21)) Til.OPEN_DEFER else s
  (t.domains f.opcode).foldl State.wakeDom { s1 with waiting := s1.waiting ++ [f] }

/-! ## Performing a request -/

/-- What a request came to: its status, the data it returns, and the state after it. -/
structure Served where
  st : State
  status : Nat
  data : List Byte

/-- The window line that holds the line of a byte of HBM. -/
def State.windowAt (s : State) (sp line : Nat) : Option Atom := if sp = spHbm then s.atomHeld line else none

/-- A byte as the open plane reads it: from the atomic window where its line is held (R196). -/
def State.openByte (s : State) (sp off : Nat) : Byte :=
  match s.windowAt sp (off / 64) with
  | some a => memGet s.mem (cellAddr spDrum (64 * s.atomLine a + off % 64))
  | none => memGet s.mem (cellAddr sp off)

/-- A line as the open plane reads it is bad or poisoned. -/
def State.openBad (s : State) (sp line : Nat) : Bool :=
  match s.windowAt sp line with
  | some a => s.atomBad spDrum (s.atomLine a)
  | none => s.atomBad sp line

/-- The effects of the read of one line: the array's, or a held line found bad is lost (R195, R326, R327). -/
def State.openTouch (s : State) (sp line : Nat) : State :=
  match s.windowAt sp line with
  | some a => if s.atomBad spDrum (s.atomLine a) then s.atomLost a else s.touchLine false spDrum (s.atomLine a)
  | none => s.touchLine false sp line

/-- A read of plain memory: BUS_ERR where a line is bad or poisoned (R311, R325). -/
def State.openRead (s : State) (sp off n : Nat) : Served :=
  let bad := (linesOf off n).any fun l => s.openBad sp l
  { st := (linesOf off n).foldl (fun t l => t.openTouch sp l) s
    status := if bad then 8 else 0
    data := if bad then [] else (List.range n).map fun i => s.openByte sp (off + i) }

/-- A read of a sparse segment, served by the codec of its Cupola (R206, R208, R224, R225). -/
def State.sparseRead (s : State) (g : Seg) (o n : Nat) : Served :=
  let fm := s.segFmt g % 16
  let mx := bit (s.segFmt g) 4
  let b := o / blkBytes fm
  let k := (o + n - 1) / blkBytes fm - b + 1
  let p := pgCodec (stackOf g.base / 2)
  let l := (List.range n).map fun i => s.sparseByte g (o + i)
  let rs := s.segRanges g fm mx b k
  let bad := l.any (fun x => x.2) || rs.any fun x => s.badAt g.sp x.1 x.2
  let s1 := s.cdcRead p rs
  let s2 := (s.segFaults g fm mx b k).foldl (fun t e => t.cdcBound p s.stepIdx e) s1
  { st := if s.segMode g fm mx = 1 then s2.err p 4 else s2
    status := if bad then 8 else 0
    data := if bad then [] else l.map fun x => x.1 }

/-- A write of plain memory: lines held in the window are written back first (R196); BUS_ERR where a narrow part meets a bad or
poisoned granule (R331). -/
def State.openWrite (s : State) (sp off : Nat) (l : List Byte) : Served :=
  let held := (linesOf off l.length).filterMap fun x => s.windowAt sp x
  let s1 := held.foldl (fun t a => t.atomWriteback a) s
  { st := (s1.hide sp off l.length).store false sp off l, status := if s1.writeBad sp off l.length then 8 else 0, data := [] }

/-- An atomic add: through the atomic unit for HBM; in a Drum read, added and written in place (log 26). -/
def State.openAtomic (s : State) (t : Target) (fmt : Nat) (add : List Byte) : Served :=
  let w := atomWidth fmt
  if t.sp = spHbm then
    let x := s.atomic t.off fmt w add
    match x.2 with
    | some old => { st := x.1, status := 0, data := old }
    | none => { st := x.1, status := 8, data := [] }
  else
    let line := t.off / 64
    let s1 := s.touchLine false t.sp line
    if s.atomBad t.sp line then { st := s1.err (pgDrum (t.off / 2 ^ 25)) 1, status := 8, data := [] }
    else
      let old := s1.peek t.sp t.off add.length
      { st := (s1.poke t.sp t.off (atomSum fmt w old add).1).cleanLine t.sp line, status := 0, data := old }

/-- A register access: MEM_RD and MEM_WR alone reach it (R397). The unit is that of the request's SRC. -/
def State.openReg (s : State) (r : Req) (unit : Nat) : Served :=
  let x := s.regAccess (faOff r.addr) (if r.opcode = 2 then some (leNat r.data) else none) unit
  { st := x.2.2, status := x.1, data := if r.opcode = 1 && x.1 = 0 then leBytes 4 x.2.1 else [] }

/-- Step 5 of R310. -/
def State.performAt (s : State) (t : Target) (f : Flit) : Served :=
  let r := reqOf f
  if t.sp = 3 then s.openReg r (s.srcUnit f)
  else if t.sp = spHbm && s.rd (pgHbm (stackOf t.loc)) Hbm.HSTATE = 4 then { st := s, status := 8, data := [] }
  else if isAtomic r.opcode then
    let x := s.openAtomic t r.fmt r.data
    if r.opcode = 4 then x else { x with data := [] }
  else if writesMem r.opcode then s.openWrite t.sp t.off r.data
  else match t.seg with
    | some g => s.sparseRead g t.off r.size
    | none => s.openRead t.sp t.off r.size

/-- Requests performed, and BUS_ERR replies, counted in the page of the stack (Table 12.8). -/
def Served.count (x : Served) (t : Target) : Served :=
  if t.sp = spHbm then
    let p := pgHbm (stackOf t.loc)
    let s1 := x.st.bump p Hbm.OPEN_ACC
    { x with st := if x.status = 8 then (s1.bump p Hbm.BUS_ERRS).err p 1 else s1 }
  else x

/-- Translation misses and permission faults counted in Keep 0 (Table 12.6). -/
def State.countRefusal (s : State) (st : Nat) : State :=
  if st = 4 then s.bump (pgKeep 0) Fst.XLATE_MISS
  else if 5 ≤ st && st ≤ 7 then s.bump (pgKeep 0) Fst.PERM_FAULT
  else s

/-- A request whose target is known and free is performed. -/
def State.performNow (s : State) (t : Target) (f : Flit) : Served :=
  let x := (s.performAt t f).count t
  { x with st := x.st.countRefusal x.status }

/-- A request checked, and performed unless it must wait; none where it waits. -/
def State.tryServe (s : State) (f : Flit) : Option Served :=
  match s.target f with
  | .inl st => some { st := s.countRefusal st, status := st, data := [] }
  | .inr t => if s.mustWait t f.opcode || s.imemWaits t f || s.queuedBefore t f then none else some (s.performNow t f)

/-- The reply to a request, under the bank in force of Keep 0 (R60, R64, R90, R130, R309; log 190). -/
def State.replyOf (s : State) (f : Flit) (status : Nat) (data : List Byte) : Flit :=
  FlitSpec.flit {
    kind := 2, vc := 2, epoch := s.routeCur 0, cm := f.cm, dst := f.src, dstM := f.srcM, src := f.dst, srcM := f.dstM,
    tick := s.now, tag := f.tag, opcode := f.opcode, status := status, payload := data }

/-- Where the reply to a request for a target enters the fabric: over the Keep–Cupola link of the Cupola that holds the memory; at
Keep 0's own switch for registers (R22, log 190). -/
def Target.source (t : Target) : QSource :=
  match t.sp with
  | 0 => .cupola (stackOf t.loc / 2)
  | 1 => .cupola (t.off / 2 ^ 26)
  | 2 => .cupola (t.off / 2 ^ 25)
  | _ => .ingress

/-- The same for a request; one that names no target is answered by Keep 0. -/
def State.replySource (s : State) (f : Flit) : QSource :=
  match s.target f with
  | .inr t => t.source
  | .inl _ => .ingress

/-- The reply to a request sent, routed by Keep 0's bank in force. -/
def State.answer (s : State) (f : Flit) (x : Served) : State :=
  x.st.forward 0 (s.replySource f) none none (s.replyOf f x.status x.data)

/-- A request for the memory of a Cupola waits in its Keep while a retry stops the sender of the Keep–Cupola link that it is to cross
(R77). -/
def State.requestStopped (s : State) (f : Flit) : Bool :=
  match s.opn.service.find? (fun x => x.1 = 0 && x.2.2 = f), s.replySource f with
  | some x, .cupola c => s.clock < (s.d2dDir (0x40 + 8 * x.2.1 + c) 0).stopUntil
  | _, _ => false

/-- A request reaches the service: discarded where its header fails its check (R61) or it is poisoned (R125), answered, or put among
those that wait. -/
def State.memRequest (s : State) (f : Flit) : State :=
  s.served 0 f fun s1 f =>
    if !f.hcrcOk then s1.headerDiscard 0
    else if f.poison then s1
    else match s1.tryServe f with
      | some x => s1.answer f x
      | none =>
        match s1.target f with
        | .inr t => s1.holdRequest t f
        | .inl _ => s1

/-! ## Requests that have waited -/

/-- A request that waited and that no target answers any more: its entry of the segment table has changed meanwhile. -/
def State.refuseWaiting (s : State) : State :=
  s.waiting.foldl (fun t f => match t.target f with
    | .inl st =>
      let u : State := { t with waiting := t.waiting.erase f }
      u.answer f { st := u.countRefusal st, status := st, data := [] }
    | .inr _ => t) s

/-- The oldest waiting request for which `p` holds of the target, which nothing makes wait any more and which stands behind no other
to its line (R312). -/
def State.nextWaiting (s : State) (p : Target → Flit → Bool) : Option (Flit × Target) :=
  (List.range s.waiting.length).findSome? fun i =>
    match s.waiting[i]? with
    | none => none
    | some f => match s.target f with
      | .inr t =>
        if p t f && !s.mustWait t f.opcode && !s.imemWaits t f && !s.behind (s.waiting.take i) t f then some (f, t) else none
      | .inl _ => none

/-- That request performed and answered, and counted where a stack's wake held it (R301). -/
def State.performWaiting (s : State) (p : Target → Flit → Bool) : State :=
  let s0 := s.refuseWaiting
  match s0.nextWaiting p with
  | none => s0
  | some x =>
    let s1 := { s0 with waiting := s0.waiting.erase x.1 }
    let s2 := if x.2.sp = spHbm then s1.bump (pgHbm (stackOf x.2.loc)) Hbm.WAKE_WAIT else s1
    s2.answer x.1 (s2.performNow x.2 x.1)

/-- Every request that waits for a Drum performed, in order of arrival. -/
def State.performDrum (s : State) (c : Nat) : State :=
  s.waiting.foldl (fun t _ => t.performWaiting fun u f =>
    (u.sp = spDrum && u.off / 2 ^ 25 = c) || (u.sp = spHbm && isAtomic f.opcode && stackOf u.loc / 2 = c)) s

/-! ## The rows -/

/-- A row of one opcode: a request flit with that opcode. -/
def State.memRow (s : State) (op : Nat) (f : Flit) : State :=
  if f.kind = 1 && f.opcode = op && !s.requestStopped f then s.memRequest f else s

/-- MEM_RD. -/
def execMemRd (f : Flit) (s : State) : Host.Outcome State Fault Refusal := .next (s.memRow 1 f)
/-- MEM_WR. -/
def execMemWr (f : Flit) (s : State) : Host.Outcome State Fault Refusal := .next (s.memRow 2 f)
/-- ATOM_ADD. -/
def execAtomAdd (f : Flit) (s : State) : Host.Outcome State Fault Refusal := .next (s.memRow 3 f)
/-- ATOM_ADD_FETCH. -/
def execAtomAddFetch (f : Flit) (s : State) : Host.Outcome State Fault Refusal := .next (s.memRow 4 f)
/-- BULK_RD. -/
def execBulkRd (f : Flit) (s : State) : Host.Outcome State Fault Refusal := .next (s.memRow 0x10 f)
/-- BULK_WR. -/
def execBulkWr (f : Flit) (s : State) : Host.Outcome State Fault Refusal := .next (s.memRow 0x11 f)

/-- TILE_STORE_ACCESS: the oldest access that waits for a tile is performed (R229), a write to its instruction memory among them
(R251). -/
def execTileStoreAccess (g : Nat) (s : State) : Host.Outcome State Fault Refusal :=
  .next (s.performWaiting fun t _ => (t.sp = spTile && t.off / 2 ^ 21 = g)
    || (t.sp = 3 && (match pageAt t.off with
      | some p => decide (p = pgTile g)
      | none => false)))

/-- HBM_WAKE_WAIT: the oldest request that waits for a stack is performed (R301). -/
def execHbmWakeWait (st : Nat) (s : State) : Host.Outcome State Fault Refusal :=
  .next (s.performWaiting fun t _ => t.sp = spHbm && stackOf t.loc = st)

/-- DOMAIN_WAKE: the wake completes; what waits for a Drum is performed, and what waits for a tile store or a stack may now be
(R426). -/
def State.domainWake (s : State) (d : Nat) : State :=
  let s1 := s.wakeDone d
  if s.domState d = 3 && 280 ≤ d && d < 288 then s1.performDrum (d - 280) else s1

/-- DOMAIN_WAKE. -/
def execDomainWake (dom : Nat) (s : State) : Host.Outcome State Fault Refusal :=
  .next (if dom < domCount then s.domainWake dom else s)

end Sys2Proof.Machine
end

