-- ==== Sys2Proof/Machine/Moraeca.lean ====
section
/-! DEFINITION. The host protocol (R384–R391, R395): address resolution replies, Moraeca messages, sessions, checkpoint streams
and the event store's acknowledgement. -/

namespace Sys2Proof.Machine

open Sys2Proof

/-! ## Frames to the host -/

/-- A Moraeca message sent to a host address on strict queue `q` (R387). -/
def State.sendStrict (s : State) (q : Nat) (dst : NetSrc) (msg : List Byte) : State :=
  let t := s.strictSend q (s.udpFrame dst.mac dst.vid (s.rd pgK3 Hst.S_PCP q) dst.v6 dst.ip dst.port msg)
  { t with free := t.free + 1 }

/-- A Moraeca message sent on weighted queue BULK_Q, whose number is the frame's priority (R387, R391). -/
def State.sendBulk (s : State) (dst : NetSrc) (msg : List Byte) : State :=
  let q := s.rd pgHost Mac.BULK_Q
  let t := s.weightedPut q (s.udpFrame dst.mac dst.vid q dst.v6 dst.ip dst.port msg) false
  { t with free := t.free + 1 }

/-- VID of a tagged frame. -/
def frameVid (fr : List Byte) : Option Nat := if tagged fr then some (beAt fr 14 2 % 4096) else none

/-- A frame taken from those handed to the Lantern. -/
def State.takeFrame (s : State) (p : List Byte → Bool) : State :=
  s.setHost { s.host with lantern := dropFirst p s.host.lantern }

/-- The ARP reply to a request: the Ethernet and IPv4 addresses of the module, to the sender (RFC 826). -/
def State.arpReply (s : State) (fr : List Byte) : State :=
  let o := etypeAt fr + 2
  let sha := slice fr (o + 8) 6
  let spa := slice fr (o + 14) 4
  let body := beBytes 2 1 ++ beBytes 2 0x0800 ++ beBytes 1 6 ++ beBytes 1 4 ++ beBytes 2 2 ++ beBytes 6 s.macAddr
    ++ beBytes 4 (s.rd pgHost Mac.IPV4_ADDR) ++ sha ++ spa
  s.strictSend 1 (ethFrame (beAt fr 6 6) s.macAddr (frameVid fr) (s.rd pgK3 Hst.S_PCP 1) 0x0806 body)

/-- ARP_REQUEST (R384, R385). -/
def execArpRequest (frame : List Byte) (s : State) : Host.Outcome State Fault Refusal :=
  .next (if s.isArpForUs frame then (s.takeFrame fun x => x = frame).arpReply frame else s)

/-- The Neighbor Advertisement for IPV6_ADDR: solicited and override set, with the target's link-layer address (RFC 4861). -/
def State.neighborReply (s : State) (fr : List Byte) : State :=
  let o := etypeAt fr + 2
  let dst := beAt fr (o + 8) 16
  let src := s.ipv6 Mac.IPV6_ADDR
  let icmp0 := beBytes 1 136 ++ beBytes 1 0
  let icmp1 := beBytes 4 (3 * 2 ^ 29) ++ beBytes 16 src ++ beBytes 1 2 ++ beBytes 1 1 ++ beBytes 6 s.macAddr
  let pseudo := beBytes 16 src ++ beBytes 16 dst ++ beBytes 4 32 ++ beBytes 4 58
  let sum := inetSum (pseudo ++ icmp0 ++ beBytes 2 0 ++ icmp1)
  let tc := Config.ipDscp % 64 * 4 + s.genEcn
  let ip := beBytes 4 (6 * 2 ^ 28 + tc * 2 ^ 20 + Config.ipFlow % 2 ^ 20) ++ beBytes 2 32 ++ beBytes 1 58 ++ beBytes 1 255
    ++ beBytes 16 src ++ beBytes 16 dst
  s.strictSend 1 (ethFrame (beAt fr 6 6) s.macAddr (frameVid fr) (s.rd pgK3 Hst.S_PCP 1) 0x86DD
    (ip ++ icmp0 ++ beBytes 2 sum ++ icmp1))

/-- NEIGHBOR_SOLICITATION (R384, R385). -/
def execNeighborSolicitation (frame : List Byte) (s : State) : Host.Outcome State Fault Refusal :=
  .next (if s.isNsForUs frame then (s.takeFrame fun x => x = frame).neighborReply frame else s)

/-! ## Messages (Tables 16.2 and 16.3) -/

/-- Fields of a Moraeca header. -/
def mType (m : List Byte) : Nat := leAt m 5 1
def mSess (m : List Byte) : Nat := leAt m 8 2
def mCount (m : List Byte) : Nat := leAt m 10 2
def mSeq (m : List Byte) : Nat := leAt m 12 4
def mLen (m : List Byte) : Nat := leAt m 16 4

/-- The body of a message. -/
def mBody (m : List Byte) : List Byte := slice m 24 (mLen m)

/-- A datagram that is a Moraeca message (R386). -/
def mGood (m : List Byte) : Bool :=
  24 ≤ m.length && leAt m 0 4 = 0x41524F4D && leAt m 4 1 = 1 && 24 + mLen m ≤ m.length

/-- A reserved field of a request's header, or a LEN beyond the largest. -/
def mHeadBad (m : List Byte) : Bool := leAt m 6 1 ≠ 0 || leAt m 7 1 ≠ 0 || leAt m 20 4 ≠ 0 || 8216 < mLen m

/-- Bytes of a body that must be zero. -/
def nonzeroAt (l : List Byte) (i n : Nat) : Bool := leAt l i n ≠ 0

/-- A body that breaks Table 16.3 for its type. -/
def mBodyBad (m : List Byte) : Bool :=
  let b := mBody m
  let n := b.length
  let c := mCount m
  match mType m with
  | 0x01 | 0x02 => n ≠ 0 || c ≠ 0
  | 0x10 => c = 0 || 128 < c || n ≠ 8 * c
  | 0x11 => c = 0 || 128 < c || n ≠ 16 * c || (List.range c).any fun i => nonzeroAt b (16 * i + 12) 4
  | 0x20 => n ≠ 16 || leAt b 8 4 = 0 || 8192 < leAt b 8 4 || 2 ≤ leAt b 12 1 || nonzeroAt b 13 3
  | 0x21 => n ≠ 16 + leAt b 8 4 || leAt b 8 4 = 0 || 8192 < leAt b 8 4 || 2 ≤ leAt b 12 1 || nonzeroAt b 13 3
  | 0x30 =>
    n ≠ 24 || 2 ≤ leAt b 0 1 || 2 ≤ leAt b 1 1 || 2 ≤ leAt b 2 1 || nonzeroAt b 3 1 || nonzeroAt b 6 2
      || leAt b 16 8 % 16 ≠ 0 || 2 ^ 40 < leAt b 16 8
  | 0x31 => n < 8
  | 0x32 => n ≠ 8
  | 0x41 => n ≠ 0
  | _ => true

/-- Types that a session carries. -/
def sessionType (t : Nat) : Bool := [0x01, 0x02, 0x10, 0x11, 0x20, 0x21, 0x30].contains t

/-- A reply to a message. -/
def State.replyMsg (s : State) (m : List Byte) (status count : Nat) (body : List Byte) : List Byte :=
  moraecaMsg (mType m) 1 status (mSess m) count (mSeq m) (s.now % 2 ^ 32) body

/-- A reply sent on the queue of its type (R387). -/
def State.sendReply (s : State) (dst : NetSrc) (m reply : List Byte) : State :=
  if mType m = 0x20 || mType m = 0x21 then s.sendBulk dst reply else s.sendStrict 1 dst reply

/-- A request answered and not executed (Table 16.4). -/
def State.refuse (s : State) (src : NetSrc) (m : List Byte) (status : Nat) : State :=
  s.sendReply src m (s.replyMsg m status 0 [])

/-! ## Sessions (R389, R390) -/

/-- A request under execution from its start. -/
def Exec.start (r : Request) : Exec := { req := r, item := 0, got := [], bad := 0, sent := none }

/-- A session record put in place. -/
def State.setSession (s : State) (i : Nat) (x : Session) : State := { s with sessions := AL.put s.sessions i x }

/-- REPLAY_DEPTH as it acts: 1 to 64. -/
def State.replayDepth (s : State) : Nat := max 1 (min 64 (s.rd pgHost Mac.REPLAY_DEPTH))

/-- IP address and port are those of a session's owner. -/
def sameOwner (a b : NetSrc) : Bool := a.v6 = b.v6 && a.ip = b.ip && a.port = b.port

/-- A held request has waited HOLD_TMO µs. -/
def State.holdDue (s : State) (r : Request) : Bool := r.at_ + 1100 * s.rd pgHost Mac.HOLD_TMO ≤ s.clock

/-- A request's execution has begun. -/
def Exec.begun (e : Exec) : Bool := 0 < e.item || e.sent.isSome

/-- It is the turn of a request of session `i` that came at clock `a` and is not begun: requests of different sessions are executed
in arrival order, each to its end (R390, log 218). -/
def State.hostTurn (s : State) (i a : Nat) : Bool :=
  (s.sessions.all fun x => x.1 = i || match x.2.exec with
      | some e => !e.begun && a ≤ e.req.at_
      | none => true)
    && s.opening.all fun x => x.1 = i || mType x.2.bytes ≠ 0x01 || a ≤ x.2.at_

/-- OPEN executed: the session takes the source, held requests and cached replies go, NEXT is SEQ + 1 (R389). -/
def State.openExec (s : State) (i : Nat) (r : Request) : State :=
  let reply := s.replyMsg r.bytes 0 0 []
  let x : Session :=
    { owner := r.src, next := (mSeq r.bytes + 1) % 2 ^ 32, held := [], replies := [(mSeq r.bytes, reply)], exec := none,
      last := s.clock }
  (s.setSession i x).sendReply r.src r.bytes reply

/-- Execution completes: the reply is sent and cached, NEXT increments, and the held request for it is taken, unless it has
waited too long (R390). CLOSE frees the session (R389). -/
def State.execDone (s : State) (i : Nat) (x : Session) (e : Exec) (status count : Nat) (body : List Byte) : State :=
  let m := e.req.bytes
  let reply := s.replyMsg m status count body
  let s1 := s.sendReply e.req.src m reply
  let nx := (x.next + 1) % 2 ^ 32
  if mType m = 0x02 && status = 0 then { s1 with sessions := AL.del s1.sessions i }
  else
    let cache := (AL.put x.replies (mSeq m) reply).take 64
    match AL.get x.held nx with
    | some r =>
      let held := AL.del x.held nx
      if s1.holdDue r then
        (s1.setSession i { x with next := nx, replies := cache, held := held, exec := none }).bump pgHost Mac.HOLD_DROP
      else s1.setSession i { x with next := nx, replies := cache, held := held, exec := some (Exec.start r) }
    | none => s1.setSession i { x with next := nx, replies := cache, exec := none }

/-- A request of a session other than OPEN arrives (R389, R390). -/
def State.sessionRequest (s : State) (i : Nat) (r : Request) : State :=
  match AL.get s.sessions i with
  | none => s.refuse r.src r.bytes 2
  | some x0 =>
    if !sameOwner r.src x0.owner then s.refuse r.src r.bytes 3
    else
      let x := { x0 with last := s.clock }
      let q := mSeq r.bytes
      let d := (q + 2 ^ 32 - x.next) % 2 ^ 32
      let n := s.replayDepth
      if d = 0 then s.setSession i (if x.exec.isNone then { x with exec := some (Exec.start r) } else x)
      else if d < n then
        s.setSession i (if (AL.get x.held q).isNone then { x with held := AL.put x.held q r } else x)
      else if d < 2 ^ 32 - n then (s.setSession i x).refuse r.src r.bytes 5
      else match AL.get x.replies q with
        | some reply => (s.setSession i x).sendReply r.src r.bytes (setByte reply 6 3)
        | none => (s.setSession i x).refuse r.src r.bytes 4

/-- The oldest OPEN of a session executed, when it is its turn; then the requests of the session that came after it (R389, R390). -/
def State.openNext (s : State) (i : Nat) : State :=
  match s.opening.find? fun x => x.1 = i with
  | none => s
  | some x =>
    if !s.hostTurn i x.2.at_ then s
    else
      let rest := s.opening.erase x
      let mine := rest.filter fun (y : Nat × Request) => y.1 = i
      let isOpen (y : Nat × Request) : Bool := mType y.2.bytes = 0x01
      let s1 := ({ s with
        opening := (rest.filter fun (y : Nat × Request) => y.1 ≠ i) ++ mine.dropWhile fun y => !isOpen y }).openExec i x.2
      (mine.takeWhile fun y => !isOpen y).foldl (fun (t : State) (y : Nat × Request) => t.sessionRequest i y.2) s1

/-- OPEN (R389). -/
def execOpenSession (sess : Nat) (s : State) : Host.Outcome State Fault Refusal := .next (s.openNext sess)

/-- SESSION_TIMEOUT: SESS_TMO ms without a request free a session that executes none; while the host link is down sessions stay
open (R389). -/
def State.sessionTimeout (s : State) (i : Nat) : State :=
  match AL.get s.sessions i with
  | some x =>
    if x.exec.isNone && s.rdb pgHost Mac.LINK_UP && x.last + 1100000 * s.rd pgHost Mac.SESS_TMO ≤ s.clock then { s with sessions := AL.del s.sessions i }
    else s
  | none => s

/-- SESSION_TIMEOUT. -/
def execSessionTimeout (sess : Nat) (s : State) : Host.Outcome State Fault Refusal := .next (s.sessionTimeout sess)

/-- HOLD_TIMEOUT: a held request that has waited HOLD_TMO µs is dropped and counted (R390). -/
def State.holdTimeout (s : State) (i q : Nat) : State :=
  match AL.get s.sessions i with
  | some x =>
    match AL.get x.held q with
    | some r =>
      if s.holdDue r then (s.setSession i { x with held := AL.del x.held q }).bump pgHost Mac.HOLD_DROP else s
    | none => s
  | none => s

/-- HOLD_TIMEOUT. -/
def execHoldTimeout (sess seq : Nat) (s : State) : Host.Outcome State Fault Refusal := .next (s.holdTimeout sess seq)

/-! ## Requests of the Lantern (R388) -/

/-- A tag that no request of the Lantern uses. -/
def State.lanternTag (s : State) : Nat :=
  let used := ((s.resvOf (.moduleUnit 1)).map Reservation.tag) ++ s.answers.map Flit.tag
  ((List.range (used.length + 1)).find? fun t => !used.contains t).getD 0

/-- What the Lantern's request came to at once, or the tag under which its reply will come. -/
inductive Asked where
  | done (status : Nat) (data : List Byte)
  | sent (tag : Nat)
  deriving DecidableEq, Repr

/-- A memory or register request of the Lantern: performed here at once where its home is here and nothing makes it wait, else
injected. -/
def State.ask (s : State) (opcode addr size : Nat) (virt : Bool) (data : List Byte) : Asked × State :=
  let tag := s.lanternTag
  let f := requestFlit opcode tag addr size virt data
  match s.routeCompute (.moduleUnit 1) f with
  | .answer st unr => (.done st [], if unr then (s.bump (pgKeep 3) Kr.UNROUTABLE).err (pgKeep 3) 1 else s)
  | .send g =>
    if g.dst / 16 = s.coord then
      match s.tryServe g with
      | some x => (.done x.status x.data, x.st)
      | none => (.sent tag, s.inject (.moduleUnit 1) f)
    else (.sent tag, s.inject (.moduleUnit 1) f)

/-- The reply to a request of the Lantern, taken. -/
def State.takeAnswer (s : State) (tag : Nat) : Option (Flit × State) :=
  match s.answers.find? fun f => f.tag = tag with
  | some f => some (f, { s with answers := s.answers.erase f })
  | none => none

/-- The outcome of the request outstanding, or of a new one: none while the reply has not come. -/
def State.outcome (s : State) (sent : Option Nat) (new : Unit → Asked × State) : Option (Nat × List Byte) × Option Nat × State :=
  match sent with
  | some t =>
    match s.takeAnswer t with
    | some x => (some (x.1.status, x.1.payload), none, x.2)
    | none => (none, some t, s)
  | none =>
    let a := new ()
    match a.1 with
    | .done st d => (some (st, d), none, a.2)
    | .sent t => (none, some t, a.2)

/-- One item of REG_RD or REG_WR: outside register space FORMAT, else a request of 4 bytes (R388). -/
def State.askItem (s : State) (e : Exec) : Asked × State :=
  let b := mBody e.req.bytes
  let rd := mType e.req.bytes = 0x10
  let a := leAt b ((if rd then 8 else 16) * e.item) 8
  if faSpace a ≠ 3 then (.done 1 [], s)
  else if rd then s.ask 1 a 4 false [] else s.ask 2 a 4 false (slice b (16 * e.item + 8) 4)

/-- The reply bytes of an item. -/
def itemBytes (rd : Bool) (status : Nat) (data : List Byte) : List Byte :=
  (if rd then (if status = 0 then padTo 4 data else leBytes 4 0) else []) ++ leBytes 1 status ++ leBytes 3 0

/-- Items performed one after another, until one has been sent to wait for its reply, or all are done. -/
def execItems (n : Nat) : Nat → State → Exec → State × Exec
  | 0, s, e => (s, e)
  | fuel + 1, s, e =>
    if n ≤ e.item then (s, e)
    else
      let r := s.outcome e.sent fun _ => s.askItem e
      match r.1 with
      | none => (r.2.2, { e with sent := r.2.1 })
      | some x =>
        execItems n fuel r.2.2 { e with
          item := e.item + 1, sent := none, bad := if x.1 = 0 then e.bad else x.1
          got := e.got ++ itemBytes (mType e.req.bytes = 0x10) x.1 x.2 }

/-- REG_RD and REG_WR executed (R388). -/
def State.runItems (s : State) (i : Nat) (x : Session) (e : Exec) : State :=
  let n := mCount e.req.bytes
  let r := execItems n (n + 1) s e
  if n ≤ r.2.item then r.1.execDone i x r.2 (if r.2.bad = 0 then 0 else 7) n r.2.got
  else r.1.setSession i { x with exec := some r.2 }

/-- Bytes of the next piece of a transfer: to the 224-byte grid from its start, to the 2 MiB boundary, to its end (R319, R388). -/
def pieceLen (addr off len : Nat) : Nat := min (min (224 - off % 224) (len - off)) (2 ^ 21 - (addr + off) % 2 ^ 21)

/-- The next piece of a BULK_RD or BULK_WR. -/
def State.askPiece (s : State) (e : Exec) : Asked × State :=
  let b := mBody e.req.bytes
  let a := leAt b 0 8
  let n := pieceLen a e.item (leAt b 8 4)
  if mType e.req.bytes = 0x20 then s.ask 0x10 (a + e.item) n (bit (leAt b 12 1) 0) []
  else s.ask 0x11 (a + e.item) n (bit (leAt b 12 1) 0) (slice b (16 + e.item) n)

/-- Pieces performed in ascending order, until one waits for its reply, one fails, or all are done. -/
def execPieces (addr len : Nat) : Nat → State → Exec → State × Exec
  | 0, s, e => (s, e)
  | fuel + 1, s, e =>
    if len ≤ e.item || e.bad ≠ 0 then (s, e)
    else
      let n := pieceLen addr e.item len
      let r := s.outcome e.sent fun _ => s.askPiece e
      match r.1 with
      | none => (r.2.2, { e with sent := r.2.1 })
      | some x =>
        if x.1 ≠ 0 then (r.2.2, { e with sent := none, bad := x.1 })
        else execPieces addr len fuel r.2.2 { e with
          item := e.item + n, sent := none
          got := if mType e.req.bytes = 0x20 then e.got ++ padTo n x.2 else [] }

/-- BULK_RD and BULK_WR executed (R388): DONE counts the bytes below the failing piece. -/
def State.runPieces (s : State) (i : Nat) (x : Session) (e : Exec) : State :=
  let b := mBody e.req.bytes
  let len := leAt b 8 4
  let r := execPieces (leAt b 0 8) len (len + 1) s e
  if len ≤ r.2.item || r.2.bad ≠ 0 then
    r.1.execDone i x r.2 (if r.2.bad = 0 then 0 else 7) 1
      (leBytes 4 r.2.item ++ leBytes 1 r.2.bad ++ leBytes 3 0 ++ r.2.got)
  else r.1.setSession i { x with exec := some r.2 }

/-- A row that executes a session's request of one type, in its turn: a reserved field is answered FORMAT and nothing is executed
(R386, R390). -/
def State.sessionRow (s : State) (i type : Nat) (f : State → Session → Exec → State) : State :=
  match AL.get s.sessions i with
  | some x =>
    match x.exec with
    | some e =>
      if mType e.req.bytes ≠ type || !(e.begun || s.hostTurn i e.req.at_) then s
      else if mHeadBad e.req.bytes || mBodyBad e.req.bytes then s.execDone i x e 1 0 []
      else f s x e
    | none => s
  | none => s

/-- CLOSE (R389). -/
def execCloseSession (sess : Nat) (s : State) : Host.Outcome State Fault Refusal :=
  .next (s.sessionRow sess 0x02 fun t x e => t.execDone sess x e 0 0 [])
/-- REG_RD (R388). -/
def execRegRd (sess : Nat) (s : State) : Host.Outcome State Fault Refusal :=
  .next (s.sessionRow sess 0x10 fun t x e => t.runItems sess x e)
/-- REG_WR (R388). -/
def execRegWr (sess : Nat) (s : State) : Host.Outcome State Fault Refusal :=
  .next (s.sessionRow sess 0x11 fun t x e => t.runItems sess x e)
/-- MORAECA_BULK_RD (R388). -/
def execMoraecaBulkRd (sess : Nat) (s : State) : Host.Outcome State Fault Refusal :=
  .next (s.sessionRow sess 0x20 fun t x e => t.runPieces sess x e)
/-- MORAECA_BULK_WR (R388). -/
def execMoraecaBulkWr (sess : Nat) (s : State) : Host.Outcome State Fault Refusal :=
  .next (s.sessionRow sess 0x21 fun t x e => t.runPieces sess x e)

/-! ## Checkpoint streams (R391) -/

/-- A stream put in place, with the bytes done that the page shows. -/
def State.setStream (s : State) (i : Nat) (x : Stream) : State :=
  ({ s with streams := AL.put s.streams i x }).wr2 pgHost Mac.STRM_DONE_LO Mac.STRM_DONE_HI x.acked i

/-- A stream ends: complete, or stopped on a memory status other than OK. -/
def State.endStream (s : State) (i : Nat) (x : Stream) (status : Nat) : State :=
  let s1 := (s.setStream i x).wri pgHost Mac.STRM_STATE i (if status = 0 then 0 else 3)
  let s2 := { s1 with streams := AL.del s1.streams i }
  let s3 := if status = 0 then s2 else s2.err pgHost 5
  s3.eventE pgHost 0x0002 (leBytes 1 i ++ leBytes 1 status ++ leBytes 6 0 ++ leBytes 8 x.acked)

/-- Bytes of the frame that begins at an offset. -/
def Stream.frameLen (x : Stream) : Nat := min 8192 (x.len - x.pos)

/-- A memory request of the host MAC for a stream, under a tag of its own. -/
def State.streamAsk (s : State) (i : Nat) (x : Stream) (opcode off n : Nat) (data : List Byte) : State :=
  let tag := 2048 * i + x.count % 2048
  let s1 := s.setStream i { x with count := x.count + 1, tags := [(tag, off + n)] }
  s1.inject .host (requestFlit opcode tag (x.addr + off) n x.virt data)

/-- A message of a stream, to the peer's address at DPORT. -/
def State.streamSend (s : State) (i : Nat) (x : Stream) (type seq : Nat) (body : List Byte) : State :=
  s.sendBulk { x.peer with port := x.dport } (moraecaMsg type 0 0 (0xFFF0 + i) 1 seq 0 body)

/-- An OUT stream goes on: a full frame leaves while the link is up, and the next bytes are read within the window. -/
def State.outStep (s : State) (i : Nat) (x : Stream) : State :=
  if !s.rdb pgHost Mac.LINK_UP then s.setStream i x
  else
    let full := 0 < x.part.length && x.part.length = x.frameLen
    let s1 := if full then s.streamSend i x 0x31 (x.pos / 8192 % 2 ^ 32) (leBytes 8 x.pos ++ x.part) else s
    let y := if full then
        { x with pos := x.pos + x.part.length, top := max x.top (x.pos + x.part.length), part := [] }
      else x
    let off := y.pos + y.part.length
    let lim := min y.len (y.acked + max 1 (s.rd pgHost Mac.STREAM_WIN) * 2 ^ 20)
    if y.tags.isEmpty && off < lim then
      s1.streamAsk i y 0x10 off (min (pieceLen y.addr off y.len) (y.pos + y.frameLen - off)) []
    else s1.setStream i y

/-- STREAM_ACK sent by an IN stream: every byte below `acked` is written. -/
def State.sendAck (s : State) (i : Nat) (x : Stream) : State := s.streamSend i x 0x32 0 (leBytes 8 x.acked)

/-- An IN stream goes on: the next bytes of the frames taken are written; at the end the last acknowledgement leaves. -/
def State.inStep (s : State) (i : Nat) (x : Stream) : State :=
  if x.acked = x.len then (s.sendAck i x).endStream i x 0
  else if x.part.isEmpty || !x.tags.isEmpty then s.setStream i x
  else
    let n := min (pieceLen x.addr x.acked x.len) x.part.length
    s.streamAsk i x 0x11 x.acked n (x.part.take n)

/-- A stream goes on. -/
def State.streamStep (s : State) (i : Nat) : State :=
  match AL.get s.streams i with
  | some x =>
    if x.dir = 0 then (if x.acked = x.len then s.endStream i x 0 else s.outStep i x) else s.inStep i x
  | none => s

/-- STREAM_OPEN executed: BUSY while the stream is active, else it starts (R391). -/
def State.streamOpen (s : State) (sess : Nat) (y : Session) (e : Exec) : State :=
  let b := mBody e.req.bytes
  let i := leAt b 0 1
  let st := s.rd pgHost Mac.STRM_STATE i
  if st = 1 || st = 2 then s.execDone sess y e 6 0 []
  else
    let x : Stream :=
      { dir := leAt b 1 1, virt := bit (leAt b 2 1) 0, peer := e.req.src, dport := leAt b 4 2, addr := leAt b 8 8,
        len := leAt b 16 8, pos := 0, acked := 0, part := [], tags := [], frames := 0, count := 0,
        since := if s.rdb pgHost Mac.LINK_UP then s.clock else 0 }
    let s1 := (s.setStream i x).wri pgHost Mac.STRM_STATE i (x.dir + 1)
    (s1.execDone sess y e 0 0 []).streamStep i

/-- STREAM_OPEN (R391). -/
def execStreamOpen (sess : Nat) (s : State) : Host.Outcome State Fault Refusal :=
  .next (s.sessionRow sess 0x30 fun t x e => t.streamOpen sess x e)

/-- The source of a stream message is its peer: the address of the request, and DPORT. -/
def Stream.from_ (x : Stream) (src : NetSrc) : Bool := src.v6 = x.peer.v6 && src.ip = x.peer.ip && src.port = x.dport

/-- A data frame of an IN stream: taken where its OFFSET is the next expected and its size is a frame's; else dropped and
acknowledged (R391). Frames of another address are not of the exchange. -/
def State.streamData (s : State) (i : Nat) (src : NetSrc) (m : List Byte) : State :=
  match AL.get s.streams i with
  | some x =>
    if x.dir = 0 || !x.from_ src then s
    else
      let b := mBody m
      let d := b.drop 8
      if leAt b 0 8 = x.pos && d.length = x.frameLen && 0 < d.length && mSeq m = x.pos / 8192 % 2 ^ 32 then
        s.inStep i { x with pos := x.pos + d.length, part := x.part ++ d }
      else s.sendAck i x
  | none => s

/-- STREAM_DATA. -/
def execStreamData (i : Nat) (src : NetSrc) (bytes : List Byte) (s : State) : Host.Outcome State Fault Refusal :=
  .next (s.streamData i src bytes)

/-- A STREAM_ACK of an OUT stream from its peer, for bytes that it has been sent: a new ACKED opens the window and restarts the
timer, and a stream that resends goes on from it; the last one ends the stream (R391). -/
def State.streamAck (s : State) (i : Nat) (src : NetSrc) (acked : Nat) : State :=
  match AL.get s.streams i with
  | some x =>
    if x.dir = 0 && x.from_ src && x.acked < acked && acked ≤ max x.pos x.top then
      let y := if x.pos < acked then { x with pos := acked, part := [], tags := [] } else x
      (s.setStream i { y with acked := acked, since := s.clock }).streamStep i
    else s
  | none => s

/-- STREAM_ACK. -/
def execStreamAck (i : Nat) (ack : AckFrom) (s : State) : Host.Outcome State Fault Refusal :=
  .next (s.streamAck i ack.src ack.acked)

/-- STREAM_RTO: no new ACKED within STREAM_RTO µs makes an OUT stream resend from ACKED; while the link is down its timer stands
still (R391). -/
def State.streamRto (s : State) (i : Nat) : State :=
  match AL.get s.streams i with
  | some x =>
    if x.dir = 0 && s.rdb pgHost Mac.LINK_UP && x.acked < x.pos && x.since + 1100 * s.rd pgHost Mac.STREAM_RTO ≤ s.clock then
      s.outStep i { x with pos := x.acked, part := [], tags := [], since := s.clock }
    else s
  | none => s

/-- STREAM_RTO. -/
def execStreamRto (i : Nat) (s : State) : Host.Outcome State Fault Refusal := .next (s.streamRto i)

/-- A memory reply reaches a stream engine (R391): a read fills the frame, a write advances the offset, with an acknowledgement
after every 16 frames; any other status stops the stream. -/
def State.streamReply (s : State) (i : Nat) (f : Flit) : State :=
  if f.poison then s
  else match AL.get s.streams i with
  | some x =>
    match AL.get x.tags f.tag with
    | some fin =>
      let s1 := { s with reservations := s.reservations.filter fun r => !(r.src = Source.host && r.tag = f.tag) }
      let y := { x with tags := [] }
      if f.status ≠ 0 then s1.endStream i y f.status
      else if x.dir = 0 then s1.outStep i { y with part := y.part ++ padTo (fin - (y.pos + y.part.length)) f.payload }
      else
        let z := { y with acked := fin, part := y.part.drop (fin - y.acked), frames := y.frames + (fin / 8192 - y.acked / 8192) }
        if 16 ≤ z.frames && z.acked < z.len then (s1.sendAck i z).inStep i { z with frames := 0 } else s1.inStep i z
    | none => s
  | none => s

/-- STREAM_READ_REPLY (R391); a reply whose header check fails is discarded (R61, log 187). -/
def execStreamReadReply (i : Nat) (f : Flit) (s : State) : Host.Outcome State Fault Refusal :=
  .next (s.served 2 f fun t g => if g.hcrcOk then t.streamReply i g else t.headerDiscard (srcKeep .host))

/-! ## Event acknowledgement (R395) -/

/-- EVENT_ACK from EVT_IP: every event up to the named number is released. -/
def State.eventAck (s : State) (src : NetSrc) (seq : Nat) : State :=
  let v6 := s.rdb pgHost Mac.EVT_V6
  let ip := if v6 then s.ipv6 Mac.EVT_IP6 else s.rd pgHost Mac.EVT_IP4
  if src.v6 = v6 && src.ip = ip then
    { s with events := { s.events with items := s.events.items.filter fun e => 2 ^ 31 ≤ (seq + 2 ^ 32 - e.num) % 2 ^ 32 } }
  else s

/-- EVENT_ACK. -/
def execEventAck (src : NetSrc) (seq : Nat) (s : State) : Host.Outcome State Fault Refusal := .next (s.eventAck src seq)

/-- EVT_RTO: the oldest event not acknowledged and every one after it are sent again EVT_RTO µs after its last sending. -/
def State.evtRto (s : State) : State :=
  match s.events.items.head? with
  | some e => if e.sent + 1100 * s.rd pgHost Mac.EVT_RTO ≤ s.clock then s.resendEvents else s
  | none => s

/-- EVT_RTO. -/
def execEvtRto (s : State) : Host.Outcome State Fault Refusal := .next s.evtRto

/-! ## Reception (R386) -/

/-- Sender and UDP payload of a frame handed to the Lantern. -/
def netOf (fr : List Byte) : Option (NetSrc × List Byte) :=
  match udpOf fr with
  | some x =>
    let o := etypeAt fr + 2
    some ({ mac := beAt fr 6 6, v6 := x.1, ip := if x.1 then beAt fr (o + 8) 16 else beAt fr (o + 12) 4,
            port := beAt x.2.2 0 2, vid := frameVid fr }, x.2.2.drop 8)
  | none => none

/-- A good message handled by its type (R386–R391, R395). -/
def State.message (s : State) (src : NetSrc) (m : List Byte) : State :=
  let t := mType m
  let bad := mHeadBad m || mBodyBad m
  if sessionType t then
    if 15 < mSess m then s.refuse src m 1
    else if t = 0x01 then
      if bad then s.refuse src m 1 else { s with opening := s.opening ++ [(mSess m, ⟨src, m, s.clock⟩)] }
    else if s.opening.any fun x => x.1 = mSess m then
      { s with opening := s.opening ++ [(mSess m, ⟨src, m, s.clock⟩)] }
    else s.sessionRequest (mSess m) ⟨src, m, s.clock⟩
  else if bad then s.refuse src m 1
  else if t = 0x41 then (if mSess m = 0xFFFF then s.eventAck src (mSeq m) else s.refuse src m 1)
  else if mSess m ≠ 0xFFF0 && mSess m ≠ 0xFFF1 then s.refuse src m 1
  else if t = 0x31 then s.streamData (mSess m - 0xFFF0) src m
  else s.streamAck (mSess m - 0xFFF0) src (leAt (mBody m) 0 8)

/-- A datagram for the module's address and port (R386). -/
def State.datagram (s : State) (src : NetSrc) (m : List Byte) : State :=
  let s1 := (s.takeFrame fun fr => netOf fr = some (src, m)).bump pgHost Mac.RX_MORAECA
  if mGood m then s1.message src m else (s1.bump pgHost Mac.RX_BAD).err pgHost 1

/-- MORAECA_RECEIVE (R386, R390). -/
def execMoraecaReceive (src : NetSrc) (bytes : List Byte) (s : State) : Host.Outcome State Fault Refusal :=
  .next (s.datagram src bytes)

end Sys2Proof.Machine
end

