-- ==== Sys2Proof/Machine/CommandWindow.lean ====
section
/-! DEFINITION. Command windows (R392, R393): the scan at a boundary, starting a record, and completing it. -/

namespace Sys2Proof.Machine

open Sys2Proof

/-! ## A window's place and its enable -/

/-- CW_EN[w] cleared with an error: the window is disabled. -/
def State.cwDisable (s : State) (w errBit : Nat) : State :=
  (s.put pgHost (cwEnReg w) 0 (clrBit (s.rd pgHost (cwEnReg w)) (w % 32))).err pgHost errBit

/-- The local HBM offset of a window. -/
def State.cwBase (s : State) (w : Nat) : Nat := s.rd pgHost Mac.CW_BASE_LO w * 64 + s.rd pgHost Mac.CW_BASE_HI w * 2 ^ 32

/-- N, the number of records of a window. -/
def State.cwCount (s : State) (w : Nat) : Nat := 2 ^ (s.rd pgHost Mac.CW_LOG w + 4)

/-- The local HBM offset of record j of a window. -/
def State.cwRecord (s : State) (w j : Nat) : Nat := s.cwBase w + 64 + 64 * (j % s.cwCount w)

/-! ## The Lantern's accesses to HBM -/

/-- Local HBM at an offset, as a target of the memory service. -/
def hbmTarget (off : Nat) : Target := { sp := spHbm, off := off, seg := none }

/-- Bytes read by the Lantern; none while the access has to wait. -/
def State.cwRead (s : State) (off n : Nat) : Option Served :=
  let t := hbmTarget off
  if s.mustWait t 0x10 then none
  else if s.rd (pgHbm (stackOf off)) Hbm.HSTATE = 4 then some (Served.count { st := s, status := 8, data := [] } t)
  else some ((s.openRead spHbm off n).count t)

/-- Bytes written by the Lantern. -/
def State.cwWrite (s : State) (off : Nat) (l : List Byte) : State :=
  let t := hbmTarget off
  if s.rd (pgHbm (stackOf off)) Hbm.HSTATE = 4 then (Served.count { st := s, status := 8, data := [] } t).st
  else ((s.openWrite spHbm off l).count t).st

/-! ## The scan (R393) -/

/-- The window, opened where it is not: CONSUME is read from memory. -/
def State.cwOpen (s : State) (w : Nat) : Option (CmdWin × State) :=
  match AL.get s.windows w with
  | some x => some (x, s)
  | none =>
    match s.cwRead (s.cwBase w + 4) 4 with
    | some r => if r.status = 0 then some ({ cons := leNat r.data, todo := [], cur := none }, r.st) else none
    | none => none

/-- The record in progress and those taken. -/
def CmdWin.load (x : CmdWin) : Nat := x.todo.length + b2n x.cur.isSome

/-- Records taken one by one from the next index on; a record that cannot be read is taken as an empty one, whose OP is no
OP (log 38). -/
def cwTake (w : Nat) : Nat → Nat → State → CmdWin → State × CmdWin
  | 0, _, s, x => (s, x)
  | n + 1, j, s, x =>
    match s.cwRead (s.cwRecord w j) 64 with
    | none => (s, x)
    | some r =>
      cwTake w n (j + 1) r.st { x with todo := x.todo ++ [if r.status = 0 then r.data else []] }

/-- An enabled window scanned: PRODUCE is read once and at most CW_BATCH new records are taken (R392, R393). -/
def State.cwScan (s : State) (w : Nat) : State :=
  let base := s.cwBase w
  let n := 64 + 64 * s.cwCount w
  if s.meetsSystem base n || s.meetsOverflow base n then s.cwDisable w 3
  else match s.cwOpen w with
  | none => s
  | some (x, s0) =>
    match s0.cwRead base 4 with
    | none => s0.setWindow w x
    | some r =>
      if r.status ≠ 0 then r.st.setWindow w x
      else
        let ahead := (leNat r.data + 2 ^ 32 - x.cons) % 2 ^ 32
        if s.cwCount w < ahead then (r.st.setWindow w x).cwDisable w 2
        else
          let k := min (ahead - x.load) (max 1 (s.rd pgHost Mac.CW_BATCH))
          let t := cwTake w k ((x.cons + x.load) % 2 ^ 32) r.st x
          t.1.setWindow w t.2

/-- A boundary at which a stalled Lantern starts no scan: counted, and the second in a row is a module fault (R21, R352). -/
def State.scanMiss (s : State) : State :=
  let n := s.watch.missed + 1
  let s1 := (s.bump pgWatch Wat.LANTERN_MISS).setWatch { s.watch with missed := n }
  if n = 2 then (s1.err pgWatch 5).moduleFault else s1

/-- The scan of every window, in ascending order; its start is signalled to Watch (R393). -/
def State.scanWindows (s : State) : State :=
  if s.watch.stalled then s.scanMiss
  else (List.range 64).foldl (fun t w => if t.cwEnabled w then t.cwScan w else t.cwStop w)
    (s.setWatch { s.watch with missed := 0 })

/-! ## Records (Table 16.5) -/

/-- Argument i of a record. -/
def cwArg (r : List Byte) (i : Nat) : Nat := leAt r (8 + 8 * i) 8

/-- OP of a record: the number of its row, with reserved OPs and unreadable records under NOP. -/
def cwOp (r : List Byte) : Nat := if leAt r 0 1 ≤ 4 then leAt r 0 1 else 0

/-- MV_OP, SFMT and DFMT of a MOVE record are ones R319 assigns. -/
def cwMoveOk (v : Nat) : Bool :=
  match bits v 0 2 with
  | 1 => bits v 8 8 = 0
  | 2 => mvFmtOk (bits v 8 4) && mvFmtOk (bits v 12 4)
  | _ => false

/-- A record with a reserved OP, field or encoding (R393). -/
def cwBad (r : List Byte) : Bool :=
  r.isEmpty || leAt r 3 1 ≠ 0 || 1 < leAt r 1 1 || leAt r 48 16 ≠ 0 ||
    match leAt r 0 1 with
    | 0 => leAt r 8 32 ≠ 0
    | 1 => 2 ^ 32 ≤ cwArg r 1 || leAt r 24 16 ≠ 0
    | 2 =>
      let a := cwArg r 3
      2 ^ 40 ≤ cwArg r 2 || 2 ^ 35 ≤ a || bits a 16 16 ≠ 0 || bits a 4 4 ≠ 0 || 3 < bits a 32 3 || !cwMoveOk (bits a 0 16)
    | 3 => cwArg r 0 % 4096 ≠ 0 || 2 ^ 40 ≤ cwArg r 0 || 2 ^ 32 ≤ cwArg r 1 || 1 < cwArg r 2 || cwArg r 3 ≠ 0
    | 4 => 2 ^ 48 ≤ cwArg r 0 || leAt r 16 24 ≠ 0
    | _ => true

/-- STATUS values of Table 16.5. -/
def cwOk : Nat := 0x01
def cwFormat : Nat := 0x80
def cwRefused : Nat := 0x81
def cwFault : Nat := 0x82

/-- STATUS of a write's reply. -/
def cwReply (status : Nat) : Nat := if status = 0 then cwOk else cwFault

/-- REG_WR: a write of A1 to A0. -/
def State.cwRegWr (s : State) (r : List Byte) : State × CwWait :=
  let x := s.ask 2 (cwArg r 0) 4 false (leBytes 4 (cwArg r 1))
  (x.2, match x.1 with
    | .done st _ => .known (cwReply st) 0
    | .sent tag => .reply tag)

/-- MOVE: the transfer registers of the Keep are written and GO is given; an ignored GO is refused (R320). -/
def State.cwMove (s : State) (r : List Byte) : State × CwWait :=
  let a := cwArg r 3
  let k := bits a 32 2
  let busy := s.mvState k = 1 || s.mvState k = 2
  let w (off v : Nat) (t : State) : State := t.moverWrite k off v
  let pair (off v : Nat) (t : State) : State := w (off + 4) (v / 2 ^ 32) (w off (v % 2 ^ 32) t)
  let s1 := pair 0x890 (cwArg r 2) (pair 0x888 (cwArg r 1) (pair 0x880 (cwArg r 0) s))
  let s2 := w 0x898 (bits a 0 16 + 2 ^ 31) s1
  (s2, if busy then .known cwRefused 0 else .mover k)

/-- PLAN_LOAD: PLAN_BASE and PLAN_LEN are written and LOAD is given for the bank; an ignored LOAD is refused (R110). -/
def State.cwPlanLoad (s : State) (r : List Byte) : State × CwWait :=
  let b := cwArg r 2 % 2
  let s1 := s.wrs (pgKeep 0) [(Pln.BASE_LO, cwArg r 0 / 4096 % 2 ^ 20), (Pln.BASE_HI, cwArg r 0 / 2 ^ 32),
    (Pln.PLAN_LEN, cwArg r 1), (Pln.LOAD_BANK, b)]
  let s2 := s1.planLoad b
  (s2, if s2.sched.loading.length = s1.sched.loading.length then .known cwRefused 0 else .load b)

/-- PLAN_SWITCH: a switch armed for tick A0, or refused (R114). -/
def State.cwPlanSwitch (s : State) (r : List Byte) : State × CwWait :=
  let was := s.rdb (pgKeep 0) Pln.ARMED
  let s1 := s.armSwitch (cwArg r 0)
  (s1, .known (if !was && s1.rdb (pgKeep 0) Pln.ARMED then cwOk else cwRefused) 0)

/-- The next record of a window started by `act` where its OP is `op` and nothing of the window is in progress. -/
def State.cwStart (s : State) (w op : Nat) (act : State → List Byte → State × CwWait) : State :=
  match AL.get s.windows w with
  | none => s
  | some x =>
    match x.cur, x.todo with
    | none, r :: rest =>
      if !s.cwEnabled w then s.cwStop w
      else if cwOp r ≠ op then s
      else
        let y := if cwBad r then (s, CwWait.known cwFormat 0) else act s r
        y.1.setWindow w { x with todo := rest, cur := some (r, y.2) }
    | _, _ => s

/-- CW_NOP: it completes with no action. Records of a reserved OP are taken here too, and complete with FORMAT. -/
def execCwNop (w : Nat) (s : State) : Host.Outcome State Fault Refusal :=
  .next (s.cwStart w 0 fun t _ => (t, CwWait.known cwOk 0))

/-- CW_REG_WR. -/
def execCwRegWr (w : Nat) (s : State) : Host.Outcome State Fault Refusal := .next (s.cwStart w 1 State.cwRegWr)

/-- CW_MOVE. -/
def execCwMove (w : Nat) (s : State) : Host.Outcome State Fault Refusal := .next (s.cwStart w 2 State.cwMove)

/-- CW_PLAN_LOAD. -/
def execCwPlanLoad (w : Nat) (s : State) : Host.Outcome State Fault Refusal := .next (s.cwStart w 3 State.cwPlanLoad)

/-- CW_PLAN_SWITCH. -/
def execCwPlanSwitch (w : Nat) (s : State) : Host.Outcome State Fault Refusal := .next (s.cwStart w 4 State.cwPlanSwitch)

/-! ## Completion (R393) -/

/-- RESULT of a MOVE: MV_DONE in bits [39:0], MV_STATUS in bits [47:40] (log 39). -/
def State.cwMoveResult (s : State) (k : Nat) : Nat :=
  s.rd2 (pgKeep k) Mov.MV_DONE_LO Mov.MV_DONE_HI + s.rd (pgKeep k) Mov.MV_STATUS * 2 ^ 40

/-- RESULT of a rejected PLAN_LOAD: PLAN_ERR's code in bits [7:0], its detail in bits [63:32] (log 39). -/
def State.cwLoadResult (s : State) : Nat := s.rd (pgKeep 0) Pln.ERR_CODE + s.rd (pgKeep 0) Pln.ERR_DETAIL * 2 ^ 32

/-- STATUS and RESULT of the record in progress, once it has ended. -/
def State.cwEnded (s : State) (c : CwWait) : Option (Nat × Nat × State) :=
  match c with
  | .known st res => some (st, res, s)
  | .reply tag => (s.takeAnswer tag).map fun (x : Flit × State) => (cwReply x.1.status, 0, x.2)
  | .mover k =>
    if s.mvState k = 4 then some (cwOk, s.cwMoveResult k, s)
    else if s.mvState k = 3 || s.mvState k = 5 then some (cwFault, s.cwMoveResult k, s)
    else none
  | .load b =>
    if s.bankState b = 2 || s.bankState b = 3 then some (cwOk, 0, s)
    else if s.bankState b = 0 then some (cwFault, s.cwLoadResult, s)
    else none

/-- A record completes: RESULT, STATUS and CONSUME + 1 are written in that order, CW_DONE counts it, and CMD_DONE is raised
where its EVENT flag asks for it. -/
def State.cwComplete (s : State) (w : Nat) : State :=
  match AL.get s.windows w with
  | none => s
  | some x =>
    match x.cur with
    | none => s
    | some (r, c) =>
      if s.mustWait (hbmTarget (s.cwBase w)) 0x11 || s.mustWait (hbmTarget (s.cwRecord w x.cons)) 0x11 then s
      else match s.cwEnded c with
      | none => s
      | some (st, res, s0) =>
        let at_ := s0.cwRecord w x.cons
        let next := (x.cons + 1) % 2 ^ 32
        let s1 := (s0.cwWrite (at_ + 40) (leBytes 8 res)).cwWrite (at_ + 2) (leBytes 1 st)
        let s2 := (s1.cwWrite (s0.cwBase w + 4) (leBytes 4 next)).bumpi pgHost Mac.CW_DONE w 1
        let s3 := if bit (leAt r 1 1) 0 then
            s2.eventE pgHost 0x0001 (leBytes 1 w ++ leBytes 1 st ++ leBytes 2 0 ++ padTo 4 (slice r 4 4) ++ leBytes 8 res)
          else s2
        s3.setWindow w { x with cons := next, cur := none }

/-- CW_RECORD_COMPLETE. -/
def execCwRecordComplete (w : Nat) (s : State) : Host.Outcome State Fault Refusal := .next (s.cwComplete w)

end Sys2Proof.Machine
end

