-- ==== Sys2Proof/Machine/Boundary.lean ====
section
/-! DEFINITION. The tick boundary: the end of a tick, the Belfry's turn, and the start of the next tick (Table 02.1). -/

namespace Sys2Proof.Machine

open Sys2Proof

/-! ## The end of a tick (R37, R46, R48, R49) -/

/-- Planned units other than tiles: KIND and UNIT of an action record. -/
def plannedUnits : List (Nat × Nat) :=
  (List.range 16).map (fun u => (1, u)) ++ (List.range 8).map (fun u => (3, u)) ++ (List.range 16).map (fun u => (4, u))
    ++ (List.range 8).map fun u => (4, 0x100 + u)

/-- STATE of a planned unit's page. -/
def State.stateOfUnit (s : State) (u : Nat × Nat) : Nat :=
  if u.1 = 1 then s.rd (pgCe u.2) Ce.STATE
  else if u.1 = 3 then s.rd (pgUe u.2) Ue.STATE
  else if 0x100 ≤ u.2 then s.rd (pgCodec (u.2 - 0x100)) Cdc.STATE
  else s.rd (pgHbm u.2) Hbm.MV_MSTATE

/-- A unit that a tick abort of the tick before left aborted is idle again. -/
def State.idleAborted (s : State) : State :=
  plannedUnits.foldl (fun t u => if t.stateOfUnit u = 2 then t.unitState u.1 u.2 0 else t) s

/-- Cost C of a planned unit in a plan state, zero without a plan step (R173, R221, R274, R318). -/
def State.costIn (s : State) (p : PlanTick) (u : Nat × Nat) : Nat :=
  match s.imageOf p with
  | none => 0
  | some m =>
    if u.1 = 1 then ceCost m p.var u.2 p.step
    else if u.1 = 3 then ueCost m (fun seg => AL.getD (((s.bank p.bank).map Bank.parms).getD []) seg 0) p.var u.2 p.step
    else if 0x100 ≤ u.2 then codecCost m (tileOutBytes m p.var (u.2 - 0x100) p.step) p.var (u.2 - 0x100) p.step
    else xferCost m p.var u.2 p.step

/-- LAST_CC of a planned unit takes the cost of the tick that ends. -/
def State.showCost (s : State) (p : PlanTick) (u : Nat × Nat) : State :=
  let c := min (s.costIn p u) 0xFFFF
  if u.1 = 1 then s.wr (pgCe u.2) Ce.LAST_CC c
  else if u.1 = 3 then s.wr (pgUe u.2) Ue.LAST_CC c
  else if 0x100 ≤ u.2 then s.wr (pgCodec (u.2 - 0x100)) Cdc.LAST_CC c
  else s.wr (pgHbm u.2) Hbm.MV_LAST_CC c

/-- A planned unit whose slice is unfinished overruns with WORK and is aborted; an update engine may leave a part torn (R49, R290,
R403). -/
def State.unfinished (s : State) (u : Nat × Nat) : State :=
  let p := unitPage u.1 u.2
  let s1 := s.overrun p.ty p.inst 1 0
  let s2 := if u.1 = 3 then (s.runs.filter fun r => r.kind = 3 && r.unit = u.2 && !r.done).foldl (fun t r => t.ueAbandon u.2 r) s1
    else s1
  s2.abortUnit u.1 u.2

/-- Every planned unit with an unfinished slice, and every codec with an unfinished decode (R221). -/
def State.workOverruns (s : State) : State :=
  let units : List (Nat × Nat) := (s.runs.filter fun r => !r.done).map fun r => (r.kind, r.unit)
  (units ++ ((List.range 8).filter s.undecoded).map fun c => (4, 0x100 + c)).eraseDups.foldl State.unfinished s

/-- Torus neighbours silent in the ending tick: consecutive ticks without a marker stamped with them, up to 5 (R352). -/
def State.countSilence (s : State) : State :=
  let n (d : Nat) : Nat :=
    if !s.linkUp (torusLink d) || s.belfry.seenMarks.contains (d, s.now) then 0
    else min 5 (AL.getD s.belfry.silent d 0 + 1)
  s.setBelfry { s.belfry with
    silent := if s.joined then (List.range 6).map fun d => (d, n d) else []
    seenMarks := s.belfry.seenMarks.filter fun x => tickLater x.2 s.now }

/-- The work of the ending tick is closed: copies and consumptions whose time has come, tiles, planned units, slack. -/
def State.endTick (s : State) : State :=
  let p := s.planTick
  let s1 := s.tilesKnown.foldl State.prefetchDue s.idleAborted
  let s2 := s1.consumeAll
  let s3 := s2.tilesKnown.foldl State.tileEnd s2
  let s4 := plannedUnits.foldl (fun t u => t.showCost p u) s3.tails
  (if p.runs then s4.workOverruns else s4).slackOverruns.countSilence

/-! ## The overrun record (R50) -/

/-- Units and causes among overruns, each once. -/
def overrunCount (l : List Overrun) : Nat := (l.map fun o => (o.ty, o.inst, o.cause)).eraseDups.length

/-- An overrun recorded rather than another: lowest block type, lowest instance, highest cause. -/
def Overrun.before (a b : Overrun) : Bool :=
  if a.ty ≠ b.ty then a.ty < b.ty else if a.inst ≠ b.inst then a.inst < b.inst else b.cause < a.cause

/-- The overrun that the record takes; the first listed of equal ones. -/
def firstOverrun : List Overrun → Option Overrun
  | [] => none
  | o :: l => match firstOverrun l with
    | some x => if x.before o then some x else some o
    | none => some o

/-- TICK_OVERRUN_REC filled, and its event. -/
def State.fillOverrun (s : State) (p : PlanTick) (n : Nat) (o : Overrun) : State :=
  let s1 := s.wrs pgBelfry [(Bel.OVR_VALID, 1), (Bel.OVR_CAUSE, o.cause), (Bel.OVR_COUNT, min n 0xFFFF),
    (Bel.OVR_UNIT, o.ty * 65536 + o.inst), (Bel.OVR_STEP_INDEX, p.step), (Bel.OVR_BANK, p.bank),
    (Bel.OVR_TICK_LO, p.tick % 2 ^ 32), (Bel.OVR_TICK_HI, p.tick / 2 ^ 32), (Bel.OVR_DETAIL, o.detail)]
  s1.eventE pgBelfry 0x0020 ((List.range 6).flatMap fun i => leBytes 4 (s1.word pgBelfry (0x180 + 4 * i)))

/-- The overruns of the ended tick `p` are recorded, and raise a tick fault (R49, R50). -/
def State.commitOverruns (s : State) (p : PlanTick) : State :=
  let l := s.belfry.overruns
  let s0 := s.setBelfry { s.belfry with overruns := [] }
  match firstOverrun l with
  | none => s0
  | some o =>
    let n := overrunCount l
    let s1 := (s0.err pgBelfry 8).tickFault
    if s1.rdb pgBelfry Bel.OVR_VALID then
      (s1.again pgBelfry Bel.OVR_VALID).wr pgBelfry Bel.OVR_COUNT (min (s1.rd pgBelfry Bel.OVR_COUNT + n) 0xFFFF)
    else s1.fillOverrun p n o

/-! ## The Belfry turns (R33, R35, R41, R370) -/

/-- TRIM_MAX. -/
def State.trimMax (s : State) : Nat := s.rd pgBelfry Bel.TRIM_MAX

/-- The trim of the tick that begins (R41). -/
def State.trimNext (s : State) : Int :=
  let l := s.belfry.marks
  if s.rdb pgBelfry Bel.TRIM_EN && s.joined && !l.isEmpty then
    max (-(s.trimMax : Int)) (min (s.trimMax : Int) (roundTieZero ((l.map (·.2)).foldl (· + ·) 0) (4 * l.length)))
  else 0

/-- The trim meets its limit: joined neighbours ask for it. -/
def State.trimAtLimit (s : State) : Bool :=
  s.rdb pgBelfry Bel.TRIM_EN && s.joined && !s.belfry.marks.isEmpty && s.trimNext.natAbs = s.trimMax

/-- The tick number increments; what was counted for the ended tick is put by. -/
def State.turnTick (s : State) : State :=
  let b := s.belfry
  let s1 := s.wr pgBelfry Bel.LAST_TRIM (ofSigned 8 ((b.tickLen : Int) - (s.period : Int)))
  s1.setBelfry { b with
    tick := tickAdd b.tick 1
    tickStart := b.tickStart + b.tickLen
    trimRun := if s.trimAtLimit then b.trimRun + 1 else 0
    trimSat := s.trimAtLimit && b.trimSat
    marks := [], charges := []
    past := { tick := b.tick, start := b.tickStart, per := s.rd pgBelfry Bel.PER_CUR, step := b.stepCount } :: b.past }

/-- JOINED is set: skews and skip notices of before have no meaning, and the torus links that are UP are noted (R357). -/
def State.setJoined (s : State) : State :=
  let s1 := (List.range 6).foldl (fun t d => t.wri pgBelfry Bel.SKEW_VALID d 0) (s.wrb pgBelfry Bel.JOINED true)
  (s1.setBelfry { s1.belfry with silent := [], seenMarks := [] }).setWatch { s1.watch with
    joining := none, adopted := false, joinUp := filterRange 6 fun d => s.linkUp (torusLink d) }

/-- A join comes into force at a boundary (R370). -/
def State.turnJoin (s : State) : State :=
  match s.watch.joining with
  | some true =>
    let s1 := (s.setJoined).wr pgWatch Wat.JOIN_DIR 7
    s1.setBelfry { s1.belfry with
      tick := s.rd2 pgWatch Wat.JOIN_TICK_LO Wat.JOIN_TICK_HI % tickMod, stepCount := 0, skipMap := [], flooded := [],
      past := [], early := [] }
  | some false => if s.watch.adopted then s.setJoined else s
  | none => s

/-- The scheduled plane turns, and open writes become visible to plan units (R380): the plan state of the ended tick `p` is kept for the data it stamped, and what no later tick can
name goes (R44, R46, R115). -/
def State.turnSched (s : State) (p : PlanTick) : State :=
  let prev := if p.runs then p else s.sched.prev
  let live (t : Nat) : Bool := t = prev.tick || tickReached t s.now
  let s1 := (s.setArrays { s.arrays with unseen := [] }).setSched { s.sched with
    prev := prev, taken := [], inbox := [], decoded := []
    landing := s.sched.landing.filter fun x => live x.2.1
    counts := s.sched.counts.filter fun x => live x.1.2.2
    lasts := s.sched.lasts.filter fun x => live x.1.2.2 }
  if s1.rdb (pgKeep 0) Pln.LANDING_OLD then
    (s1.setBankState (1 - s1.active) 2).wr (pgKeep 0) Pln.LANDING_OLD 0
  else s1

/-- EN of a page with an RWT EN changes (R403). -/
def State.enChange (s : State) (p : PageId) (on : Bool) : State :=
  if p.ty = tyEndpoint || p.ty = tyTorus then
    let l := if p.ty = tyTorus then torusLink p.inst else p.inst
    if on then (s.wakeEn p).tryStart l else s.downLink l
  else if on then s.wakeEn p
  else if p = pgHost then s.hostLinkDown
  else s

/-- A staged write takes effect (R35). -/
def State.commitField (s : State) (k : RegKey) (v : Nat) : State :=
  match fieldOfKey k with
  | none => s
  | some x =>
    let was := s.raw x.1 x.2.1 x.2.2
    let s1 := s.put x.1 x.2.1 x.2.2 v
    if x.2.1 = Hdr.EN && was ≠ v then s1.enChange x.1 (v = 1) else s1

/-- The key of G16. -/
def g16Key : RegKey := rkey pgBelfry Bel.G16 0

/-- Every staged write takes effect, G16 apart. -/
def State.commitStaged (s : State) : State :=
  (s.staged.filter fun x => x.1 ≠ g16Key).foldl (fun t x => t.commitField x.1 x.2)
    { s with staged := s.staged.filter fun x => x.1 = g16Key }

/-- A staged value agrees with the image that will be in force; with none in force it does (R32). -/
def agrees (v w : Option Nat) : Bool :=
  match v, w with
  | some a, some b => a = b
  | _, _ => true

/-- Staged changes of period and guard take effect or are refused, against the image in force after the boundary; the
length of the tick that begins. Where one of them disagrees, both the period and the guard in force stay (R32, R41; log 194). -/
def State.settlePeriod (s : State) (img : Option (List Byte)) (trim : Int) : State :=
  let per := s.perStaged s.now
  let g := s.g16Staged
  let perOk := agrees per (img.map imgPerU)
  let gOk := agrees g (img.map imgG16)
  let s1 := { s with staged := AL.del s.staged g16Key }
  let s2 := if per.isSome then s1.setBelfry { s1.belfry with perArmed := none } else s1
  let s3 := match per with
    | some u => if perOk && gOk then s2.wr pgBelfry Bel.PER_CUR u else s2
    | none => s2
  let s4 := match g with
    | some v => if perOk && gOk then s3.put pgBelfry Bel.G16 0 v else s3
    | none => s3
  let s5 := if perOk && gOk then s4 else (s4.err pgBelfry 9).configFault
  s5.setBelfry { s5.belfry with tickLen := ((s5.period : Int) + trim).toNat }

/-! ## The plan switch (R115, R358) -/

/-- Work carried over from earlier plan steps is dropped: the plan goes on elsewhere. -/
def State.dropWork (s : State) : State :=
  let s1 := s.runningUnits.foldl (fun t u => t.unitState u.1 u.2 0) { s with runs := [] }
  s1.setSched { s1.sched with outbox := [] }

/-- The new bank comes into force with step index 0 and variant 0. -/
def State.bankSwitch (s : State) : State :=
  let b := s.sched.armBank
  let m := ((s.bank b).map Bank.image).getD []
  let s1 := (s.wrs (pgKeep 0) [(Pln.LANDING_OLD, b2n s.planOn), (Pln.ACTIVE, b), (Pln.STEP_IDX, 0), (Pln.VAR_CUR, 0),
    (Pln.PLAN_ID_LO, imgPlanId m % 2 ^ 32), (Pln.PLAN_ID_HI, imgPlanId m / 2 ^ 32)]).setBankState b 3
  let s2 := (List.range 4).foldl (fun t k => t.wr (pgKeep k) Slt.LAND_SIZE (landNeed m k)) s1
  let s3 := (s2.setSched { s2.sched with fresh := true }).dropWork
  s3.setWatch { s3.watch with
    reselect := s3.watch.reselect || s3.watch.switchAt.isSome
    failed := if s3.watch.switchAt.isSome then s3.watch.failed else [] }

/-- The armed switch takes place, or is refused because the period or guard in force differs (R115). -/
def State.planSwitch (s : State) (fits : Bool) : State :=
  let s1 := s.wr (pgKeep 0) Pln.ARMED 0
  if fits then s1.bankSwitch else (s1.err (pgKeep 0) 12).configFault

/-! ## Markers (R36, R38) -/

/-- The marker of the tick that begins. -/
def State.ownMarker (s : State) : Marker :=
  { tick := s.now, perU := s.rd pgBelfry Bel.PER_CUR, joined := s.joined, skipped := s.skipped,
    trimSat := s.belfry.trimSat, trim := toSigned 8 (s.rd pgBelfry Bel.LAST_TRIM), step := s.belfry.stepCount % 2 ^ 32 }

/-- The payload of a marker (Table 02.2). -/
def markerPayload (m : Marker) : List Byte :=
  leBytes 6 m.tick ++ leBytes 2 (m.perU % 512)
    ++ leBytes 1 (b2n m.joined + 2 * b2n m.skipped + 4 * b2n m.trimSat) ++ leBytes 1 0
    ++ leBytes 2 (ofSigned 16 m.trim) ++ leBytes 4 m.step

/-- The flit of a marker (R38, R58): a control flit, OPCODE 0x01 and LEN 1, from unit 3 of this module (log 185). -/
def State.markerFlit (s : State) (m : Marker) : Flit :=
  FlitSpec.flit {
    kind := 3, vc := 0, dst := 0, dstM := false, src := coord19 s.coord 3, srcM := true, tick := m.tick, tag := 0
    opcode := 1, payload := markerPayload m }

/-- Markers on every endpoint and torus link in UP (R36, R38). -/
def State.sendMarkers (s : State) : State :=
  ((List.range 22).filter s.carries).foldl (fun t l => t.sendFlit l (s.markerFlit s.ownMarker)) s

/-- Markers that came early are compared with the tick they were stamped with (R40). -/
def State.earlyMarkers (s : State) : State :=
  let l := s.belfry.early.filter fun x => x.2.tick % tickMod = s.now
  l.foldl (fun t x => t.markerCompare x.1 x.2 (t.rd pgBelfry Bel.PER_CUR) t.belfry.stepCount)
    (s.setBelfry { s.belfry with early := s.belfry.early.filter fun x => tickLater (x.2.tick % tickMod) s.now })

/-! ## Watch at a boundary (R352–R360) -/

/-- Faults raised within a tick are reported with that tick as t_d (Table 14.1). -/
def State.reportRaised (s : State) (td : Nat) : State :=
  s.watch.raised.foldl (fun t x => t.reportSelf x.1 x.2 td) (s.setWatch { s.watch with raised := [] })

/-- Neighbours silent for four ticks in a row, the last of them `td` (R352). -/
def State.reportSilent (s : State) (td : Nat) : State :=
  (List.range 6).foldl (fun t d =>
    if AL.getD t.belfry.silent d 0 = 4 then
      ((t.setBelfry { t.belfry with silent := AL.put t.belfry.silent d 5 }).err pgWatch 0).holdReport
        { cls := clsLink, key := linkKey t.coord d, td := td, entry := 0 } none none
    else t) s

/-- The round, the switch tick, the commands and the resume that fall due. -/
def State.watchActs (s : State) : State := s.decide.switchTick.takeCommands.autoResume

/-- Plan step count and SKIPPED of the tick that begins (R51, R359). -/
def State.turnStep (s : State) (marked seed : Bool) : State :=
  let skip := marked || s.isHeld
  let s1 := s.wrb pgBelfry Bel.SKIPPED skip
  let s2 := if s1.joined then s1 else (List.range 6).foldl (fun t d => t.wri pgBelfry Bel.SKEW_VALID d 0) s1
  s2.setBelfry { s2.belfry with
    stepCount := if skip || seed then s2.belfry.stepCount else tickAdd s2.belfry.stepCount 1
    skipMap := s2.belfry.skipMap.filter fun t => tickLater t s2.now }

/-! ## The plan step (R116, R118, R360, R361) -/

/-- The replay that is due at the current tick. -/
def State.replayNow (s : State) : Bool :=
  match s.watch.replayAt with
  | some a => tickReached s.now a
  | none => false

/-- A replay goes on at TRAIN_START, with SR_ORIGIN displaced. -/
def State.startReplay (s : State) : State :=
  let s1 := s.srReplay
  let s2 := s1.wr (pgKeep 0) Pln.STEP_IDX (s1.rd pgWatch Wat.TRAIN_START)
  (s2.setSched { s2.sched with fresh := true }).setWatch { s2.watch with replayAt := none }

/-- Step index and variant of a tick with a plan step, and the training step that it begins or ends. -/
def State.stepOn (s : State) : State :=
  let s1 := s.takeVariant
  let rep := s1.replayNow
  let s2 := if rep then s1.startReplay else s1
  let s3 :=
    if s2.sched.fresh then s2.dropWork
    else match s2.image with
      | some m => s2.wr (pgKeep 0) Pln.STEP_IDX (imgNext m s2.stepIdx)
      | none => s2
  (s3.setSched { s3.sched with fresh := false }).trainStep rep

/-- A skipped or held tick: SR_ORIGIN and SKIP_CNT move (R376, Table 02.5). -/
def State.stepSkipped (s : State) : State := s.srSkip.bump pgBelfry Bel.SKIP_CNT

/-- The step of a run is its last. -/
def Run.isLast (r : Run) : Bool :=
  let n := if r.kind = 1 then (descOf r.obj).nsteps
    else if r.kind = 3 then leAt r.obj 1 1
    else if 0x100 ≤ r.unit then (jobOf r.obj).nsteps
    else (xferOf r.obj).steps
  n ≤ r.k + 1

/-- Runs go on with their next slice; those whose last slice is complete leave their slots, and end once no result of a parent is
still to come to them (R175, R183). -/
def State.advanceRuns (s : State) : List Run :=
  s.runs.filterMap fun r =>
    if !r.isLast then some { r with k := r.k + 1, done := false }
    else if r.kind = 1 && s.owed r then some (if r.late then r else { r with slot := r.slot + 4 })
    else none

/-- The lowest free slot of a unit. -/
def freeSlot (l : List Run) (kind unit : Nat) : Nat :=
  ((List.range 4).find? fun i => !l.any fun r => r.isAt kind unit i).getD 0

/-- An action starts: its run takes the lowest free slot; a collective latches the step it carries (R191). -/
def State.startRun (s : State) (p : PlanTick) (m : List Byte) (a : ActionRec) : State :=
  let r : Run :=
    { kind := a.kind, unit := a.unit, slot := freeSlot s.runs a.kind a.unit, bank := p.bank, off := a.off, step := p.step,
      obj := actionObj m a, k := 0, done := false, stop := false, held := [], taken := [], stepNo := s.watch.flight, tag := none,
      lr := 0, clip := 0, acc := 0, bad := false, terms := [], frz := [], classes := [], torn := [] }
  let s1 := { s with runs := s.runs ++ [r] }
  if a.kind = 1 && (descOf r.obj).carry then s1.wr (pgCe a.unit) Ce.CARRIED_STEP (r.stepNo % 2 ^ 32) else s1

/-- STATE of the planned units: running with a run and EN set, else idle. -/
def State.showRunning (s : State) (was : List (Nat × Nat)) : State :=
  let s1 := was.foldl (fun t u => t.unitState u.1 u.2 0) s
  s1.runningUnits.foldl (fun t u => if t.rdb (unitPage u.1 u.2) Hdr.EN then t.unitState u.1 u.2 1 else t) s1

/-- Work of the plan step that starts: runs go on and start. -/
def State.startRuns (s : State) (p : PlanTick) (m : List Byte) : State :=
  let was := s.runningUnits
  let acts := (imgActions m).filter fun a =>
    (a.kind = 1 || a.kind = 3 || a.kind = 4) && a.step = p.step && varActs a.var p.var
  (acts.foldl (fun (t : State) a => t.startRun p m a) { s with runs := s.advanceRuns }).showRunning was

/-- Drum pages and HBM cycles that the plan step claims (R194, R304). -/
def State.showClaims (s : State) (p : PlanTick) (m : List Byte) : State :=
  let s1 := (List.range 8).foldl (fun t c => t.wr (pgDrum c) Drm.CLAIM_NOW (claimedPages m p.var c p.step)) s
  (List.range 16).foldl (fun t st => t.wr (pgHbm st) Hbm.CLAIM_CC (s.claimCc m (imgActions m) p.var p.step st)) s1

/-- The plan step of the tick that begins: early flits and service bodies, whether the tick has a plan step or not (R100, R231);
frozen entries, sending, tiles, runs. -/
def State.startWork (s : State) : State :=
  let p := s.planTick
  let s1 := s.recheckEarly.serviceBodies
  match s1.imageOf p with
  | none => s1
  | some m =>
    let s2 := { s1 with frozenNow := s1.fstValids.filter fun i => fstFreeze (s1.fstEntry i) }
    let s3 := ((s2.countOut s.sched.prev).countWb s.sched.prev (sentChunks m p)).sendStaged
    let s4 := (s3.bodyTiles p).foldl State.tileStart s3
    (s4.startRuns p m).showClaims p m

/-! ## The other units at a boundary -/

/-- Every torus link not in DOWN or FAILED moves to FAILED, and CFG_MISMATCH is set in every Keep (R56). -/
def State.cfgMismatch (s : State) : State :=
  let s1 := (List.range 6).foldl (fun (t : State) d =>
    if t.lstate (torusLink d) = 0 || t.lstate (torusLink d) = 6 then t else t.failLink (torusLink d)) s
  (List.range 4).foldl (fun t k => t.err (pgKeep k) 5) s1

/-- The Keeps compare COORD and EXTENT with each other and with the values agreed before (R56). -/
def State.cfgCompare (s : State) : State :=
  let b := s.belfry
  let bad := s.cfgDisagree
  let cur := (s.coord, s.extent)
  let s1 := if !b.cfgBad && (bad || cur ≠ b.cfgPrev) then s.cfgMismatch else s
  let s2 := s1.setBelfry { s1.belfry with cfgBad := bad, cfgPrev := if bad then b.cfgPrev else cur }
  if b.cfgBad && !bad then (List.range 6).foldl (fun t d => t.tryStart (torusLink d)) s2 else s2

/-- Route flips whose tick is reached (R91). -/
def State.takeFlips (s : State) : State :=
  (List.range 4).foldl (fun t k => match (t.route k).flip with
    | some f => if tickReached t.now f then t.takeFlip k f else t
    | none => t) s

/-- Reservations whose timeout is reached (R86). -/
def State.timeouts (s : State) : State :=
  s.reservations.foldl (fun t r => if t.reservations.contains r && t.resvDue r then t.timeoutResv r else t) s

/-- Merge entries written by plan units are written back (R330). -/
def State.mergePlan (s : State) : State :=
  ((s.arrays.merge.filter MergeEntry.plan).map MergeEntry.line).foldl State.mergeFree s

/-- Open accesses that waited for the boundary, tile stores first (R229, R424). -/
def State.serveWaiting (s : State) : State :=
  let s1 := s.waiting.foldl (fun t _ => t.performWaiting fun u _ => u.sp = spTile) s
  s1.waiting.foldl (fun t _ => t.performWaiting fun _ _ => true) s1

/-- Every checkpoint stream goes on (R391). -/
def State.streamsOn (s : State) : State := (s.streams.map (·.1)).foldl State.streamStep s

/-- Links in training that wait in LAT for the cells of their replay windows (R122, log 182). -/
def State.creditWaits (s : State) : State := (List.range 22).foldl State.tryCredit s

/-- A unit of a quarantined site is powered down, a link or the host link with it (R342). -/
def State.quarDown (s : State) (d : Nat) : State :=
  if s.siteDown d && s.domState d ≠ 2 then
    (if 304 ≤ d && d < 320 then s.downLink (d - 304)
      else if 320 ≤ d && d < 332 then s.downLink (16 + (d - 320) / 2)
      else if d = 332 then s.hostLinkDown
      else s).sleepDom d
  else s

/-- Every such unit. -/
def State.quarDowns (s : State) : State := (List.range domCount).foldl State.quarDown s

/-- The units that act on the boundary itself, after the Belfry and Watch. -/
def State.unitsTurn (s : State) : State :=
  let s1 := s.pageResets.declareAll.drain.takeFlips.cfgCompare
  let s2 := (s1.creditWaits.timeouts.atomIdles.mergePlan).throttleIssue
  s2.quarDowns.placeDoms.serveWaiting.spotArm

/-! ## TICK_BOUNDARY -/

/-- The Belfry and Watch turn to the next tick; `p` is the tick that ended. -/
def State.turn (s : State) (p : PlanTick) : State :=
  let trim := s.trimNext
  let seed : Bool := s.watch.joining = some true
  let s1 := ((s.turnTick.turnJoin.turnSched p).commitOverruns p).trimSaturated.commitStaged
  let marked := s1.belfry.skipMap.contains s1.now
  let s2 := s1.wrb pgBelfry Bel.SKIPPED marked
  let skip := marked || s2.watchActs.isHeld
  let due := !skip && s2.switchDue s2.now
  let fits := s2.switchFits s2.now
  let img := if due && fits then (s2.bank s2.sched.armBank).map Bank.image else s2.image
  let s3 := s2.settlePeriod img trim
  let s4 := if due then s3.planSwitch fits else s3
  let s5 := ((s4.reportSilent p.tick).reportRaised p.tick).watchActs
  (s5.turnStep marked seed).sendMarkers.earlyMarkers

/-- The boundary (Table 02.1), once the length of the tick has passed. -/
def State.boundary (s : State) : State :=
  if s.running && s.belfry.tickStart + s.belfry.tickLen ≤ s.clock then
    let p := s.planTick
    let s1 := s.endTick.turn p
    let s2 := if s1.skipped then s1.stepSkipped else s1.stepOn
    let s3 := s2.unitsTurn.startWork
    (s3.prefetchAll.attSample.scanWindows.streamsOn.restoreTurn).reportRaised p.tick
  else s

/-- TICK_BOUNDARY (R33). -/
def execTickBoundary (s : State) : Host.Outcome State Fault Refusal := .next s.boundary

end Sys2Proof.Machine
end

