-- ==== Sys2Proof/Machine/LineBlock.lean ====
section
/-! DEFINITION. Line blocks received on a link: FEC and CRC outcome, link control word, sequence, delivery (R58–R76). -/

namespace Sys2Proof.Machine

open Sys2Proof

/-! ## Neighbour messages and markers (R38, R65) -/

/-- A marker from the payload of its flit (Table 02.2). -/
def markerOf (l : List Byte) : Marker :=
  let f := leAt l 8 1
  { tick := leAt l 0 6, perU := leAt l 6 2 % 512, joined := bit f 0, skipped := bit f 1, trimSat := bit f 2,
    trim := toSigned 16 (leAt l 10 2), step := leAt l 12 4 }

/-- A WATCH message from torus direction `d`, by its TYPE (Table 14.2). -/
def State.watchMessage (s : State) (d : Nat) (m : WatchMsg) : State :=
  if m.type = 1 then s.watchReport d m
  else if m.type = 2 then s.digestIn d (m.c % tickMod) m.digest
  else if m.type = 3 then s.command m.cls (m.c % tickMod) (some d) m.origin
  else s

/-- A neighbour message consumed by the Keep (R65). -/
def State.neighbourMessage (s : State) (d : Nat) (f : Flit) : State :=
  let p := f.payload
  if f.opcode = 0x30 then s.watchMessage d (watchOfBytes p)
  else if f.opcode = 0x31 then s.skipNotice d (leAt p 0 6) (leAt p 6 2 % 2 ^ 15) (leAt p 8 1)
  else s.routeFlip d (leAt p 0 6) (leAt p 6 4) (leAt p 10 2 % 2 ^ 15)

/-! ## Delivery (R61, R64, R76) -/

/-- The class of an open opcode for its source; none for a reserved opcode (Table 03.3). -/
def openClass (f : Flit) : Option Nat :=
  let op := f.opcode
  if f.kind = 2 then (if [1, 2, 3, 4, 0x10, 0x11].contains op then some 1 else none)
  else if op = 1 || op = 2 then some (if f.srcM then 2 else 0)
  else if op = 3 || op = 4 then some 0
  else if op = 0x10 || op = 0x11 || op = 0x20 then some 3
  else if op = 0x30 || op = 0x31 || op = 0x32 then some 2
  else none

/-- R64 and R79: a reserved opcode, a VC outside its class, or a VC that an endpoint link does not carry. -/
def vcBad (l : Nat) (f : Flit) : Bool :=
  openClass f ≠ some (vcClass f.vc) || (l < 16 && !(f.vc = 0 || f.vc = 2 || f.vc = 6))
    || (l < 16 && (f.opcode = 0x30 || f.opcode = 0x31 || f.opcode = 0x32))

/-- The flit an endpoint Turret injects for an endpoint: EPOCH names the bank in force of its Keep (R80, R90). A header that
fails its check stays as it came, for the ingress switch to find. -/
def State.stampEpoch (s : State) (l : Nat) (f : Flit) : Flit :=
  if l < 16 && f.kind = 1 && f.hcrcOk then (f.setField 2 1 (s.routeCur (keepOfLink l))).sealed else f

/-- A received open-plane flit put into its Turret input buffer, with the epoch in force where an endpoint sent it. -/
def State.bufferFlit (s : State) (l : Nat) (f : Flit) : State := s.bufferIn l (s.stampEpoch l f)

/-- A flit discarded under R64. A later flit of a packet leaves its packet cut: its LAST flit goes on poisoned (R125). -/
def State.vcDiscard (s : State) (l : Nat) (f : Flit) : State :=
  let s1 := (s.bump (pgLink l) Lnk.VC_DISCARD).err (pgLink l) 4
  if f.first then s1.returnCredit l f.vc f.cells
  else
    let s2 := s1.setOpn { s1.opn with cut := (l, f.vc) :: s1.opn.cut.filter (· ≠ (l, f.vc)) }
    if f.last then
      let g := lastInPlace s.now f
      (s2.bufferFlit l g).returnCredit l f.vc (f.cells - g.cells)
    else s2.returnCredit l f.vc f.cells

/-- A flit that this Keep itself takes, a neighbour message or an endpoint's request, does not go on: its header check fails, its age
exceeds AGE_MAX, or it is poisoned (R61, R89, R125). -/
def State.refuseTaken (s : State) (l : Nat) (f : Flit) : Option State :=
  let k := keepOfLink l
  if !f.hcrcOk then some (s.headerDiscard k)
  else if s.tooOld k f then some (s.ageDiscard k)
  else if f.poison then some s
  else none

/-- An open-plane flit delivered: a neighbour message is consumed, an endpoint's request is injected, everything else waits
in the input buffer. The Turret checks VC and class before the Keep checks HCRC (R61, R64; log 187). -/
def State.deliverOpen (s : State) (l : Nat) (f : Flit) : State :=
  let message : Bool := f.kind = 1 && 0x30 ≤ f.opcode
  let request : Bool := l < 16 && isMemRequest f
  if vcBad l f then s.vcDiscard l f
  else if !(message || request) then s.bufferFlit l f
  else match s.refuseTaken l f with
    | some t => t.returnCredit l f.vc f.cells
    | none =>
      if message then (s.neighbourMessage (l - 0x10) f).returnCredit l f.vc f.cells else s.inject (.endpoint l) f

/-- A scheduled flit or a control flit delivered as soon as it is good; one whose header check fails is discarded (R61). A
control flit that is no MARKER of LEN 1 is discarded under R64 (R38, log 187). -/
def State.deliverNow (s : State) (l : Nat) (f : Flit) : State :=
  if !f.hcrcOk then s.headerDiscard (keepOfLink l)
  else if f.kind = 0 then s.schedFlit l f
  else if f.opcode = 1 && f.len = 1 then
    let m := markerOf f.payload
    let s1 := s.marker l m
    if 16 ≤ l then s1.joinAdopt (l - 16) m else s1
  else (s.bump (pgLink l) Lnk.VC_DISCARD).err (pgLink l) 4

/-! ## Sequence (R69, R73, R76) -/

/-- How far a sequence number lies past another, modulo 2^16. -/
def seqSub (a b : Nat) : Nat := (a + 2 ^ 16 - b % 2 ^ 16) % 2 ^ 16

/-- `a` is later than `b`. -/
def seqLater (a b : Nat) : Bool := let d := seqSub a b; 1 ≤ d && d < 2 ^ 15

/-- Sequence numbers from the next expected one up to `n`, which are missing: each is noted and NAKed. -/
def State.findMissing (s : State) (l n : Nat) : State :=
  let x := s.link l
  if seqLater n x.rxNext then
    let m := (List.range (seqSub n x.rxNext)).map fun i => (x.rxNext + i) % 2 ^ 16
    m.foldl (fun t q => t.sendIdle l (some q) []) (s.setLink l { x with missing := x.missing ++ m, rxNext := n % 2 ^ 16 })
  else s

/-- Held flits that no missing block precedes any more are delivered in order. -/
def State.releaseHeld (s : State) (l : Nat) : State :=
  let x := s.link l
  let free (q : Nat) : Bool := !(x.missing.any fun m => seqLater q m)
  let go := (x.held.filter fun h => free h.1).mergeSort fun a b => !seqLater a.1 b.1
  go.foldl (fun (t : State) (h : Nat × Flit) => t.deliverOpen l h.2)
    (s.setLink l { x with held := x.held.filter fun h => !free h.1 })

/-- A good flit block with its sequence number: new, a replay of a missing one, or a duplicate. -/
def State.flitBlock (s : State) (l q : Nat) (f : Flit) : State :=
  let s1 := s.findMissing l q
  let x := s1.link l
  let known : Bool := q = x.rxNext
  if known || x.missing.contains q then
    let s2 := s1.setLink l { x with
      rxNext := if known then (q + 1) % 2 ^ 16 else x.rxNext, missing := x.missing.filter (· ≠ q) }
    if f.kind = 0 || f.kind = 3 then (s2.deliverNow l f).releaseHeld l
    else
      let y := s2.link l
      (s2.setLink l { y with held := y.held ++ [(q, f)] }).releaseHeld l
  else s1

/-! ## The link control word (Table 03.5) -/

/-- Credits of the far end for a VC raised. -/
def State.addCredit (s : State) (l vc n : Nat) : State :=
  if n = 0 then s else s.setCred l vc (s.rd (pgLink l) Lnk.CRED_AVAIL vc + n)

/-- ACK, NAK and credit returns of a good flit or idle block. -/
def State.controlWord (s : State) (l w : Nat) : State :=
  let x := s.link l
  let ack := bits w 18 16
  let s1 := s.setLink l { x with window := x.window.filter fun b => seqLater b.seq ack }
  let s2 := if bit w 34 then s1.replayBlock l (bits w 35 16) else s1
  (s2.addCredit l (bits w 51 3) (bits w 54 6)).addCredit l (bits w 60 3) (bits w 63 6)

/-- A training block by its TR_TYPE (Table 03.7). -/
def State.trainingBlock (s : State) (l : Nat) (b : List Byte) : State :=
  match leAt b 0 1 with
  | 2 => s.latencyProbe l (leAt b 4 4) 0
  | 3 => s.probeEcho l (leAt b 8 4) (leAt b 12 4)
  | 4 => s.identity l (leAt b 16 2) (leAt b 18 1)
  | 5 => s.creditGrant l ((List.range 8).map fun v => leAt b (32 + 2 * v) 2)
  | _ => s

/-! ## Good and bad blocks (R68, R70) -/

/-- A bad block: LOCK starts its count again; eight in a row on a link that is UP are a loss of lock. -/
def State.badBlock (s : State) (l : Nat) : State :=
  let x := s.link l
  let n := x.badRun + 1
  let s1 := s.setLink l { x with goodRun := 0, badRun := n }
  if n = 8 then s1.lockLoss l else s1

/-- The content of a good block by its type, in a link that is past LOCK. -/
def State.blockContent (s : State) (l : Nat) (b : List Byte) : State :=
  let w := leAt b 256 10
  let bt := w % 4
  let q := bits w 2 16
  if bt = 2 then s.trainingBlock l (b.take 256)
  else if s.linkUp l && bt < 2 then
    let s1 := s.controlWord l w
    if bt = 0 then s1.flitBlock l q (Flit.ofBytes (b.take 256)) else s1.findMissing l q
  else s

/-- A good block: in LOCK the sixty-fourth in a row achieves lock. -/
def State.goodBlock (s : State) (l : Nat) (b : List Byte) : State :=
  let x := s.link l
  let s1 := s.setLink l { x with goodRun := x.goodRun + 1, badRun := 0 }
  if s.lstate l = 2 then (if x.goodRun + 1 = 64 then s1.lockAchieved l else s1) else s1.blockContent l b

/-- Corrected symbols counted by lane: symbol i is sent on lane i mod 16 on an endpoint link and i mod 32 on a torus link. -/
def State.countSymbols (s : State) (l : Nat) (syms : List Nat) : State :=
  syms.foldl (fun t i => t.bumpi (pgLink l) Lnk.laneCnt (i % (if l < 16 then 16 else 32)) 1) s

/-- LINE_BLOCK_RECEIVE: 320 bytes as they come off the lanes, bytes 0–269 and the 50 parity bytes (R66–R76). -/
def State.lineBlock (s : State) (l : Nat) (data parity : List Byte) : State :=
  if s.lstate l < 2 || 5 < s.lstate l then s
  else
    match rsDecode data parity with
    | none => (s.bump (pgLink l) Lnk.FEC_UNCORR).badBlock l
    | some (syms, b) =>
      let s1 := if syms.isEmpty then s else (s.bump (pgLink l) Lnk.FEC_CORR).countSymbols l syms
      if leAt b 266 4 = crc32c (b.take 266) then s1.goodBlock l b else (s1.bump (pgLink l) Lnk.CRC_FAIL).badBlock l

/-- LINE_BLOCK_RECEIVE. -/
def execLineBlockReceive (link : Nat) (data parity : List Byte) (s : State) : Host.Outcome State Fault Refusal :=
  .next (if validLink link then s.lineBlock link data parity else s)

end Sys2Proof.Machine
end

