-- ==== Sys2Proof/Machine/Dispatch.lean ====
section
/-! DEFINITION. The dispatch: the meaning of every command, one arm per constructor. -/

namespace Sys2Proof.Machine

open Sys2Proof

/-- The command's effect on everything but the queue. -/
def exec (i : Instr) (s : State) : Host.Outcome State Fault Refusal :=
  match i with
  | .tickBoundary => Sys2Proof.Machine.execTickBoundary s
  | .periodAtWrite v => Sys2Proof.Machine.execPeriodAtWrite v s
  | .nowLoRead => Sys2Proof.Machine.execNowLoRead s
  | .stepLoRead => Sys2Proof.Machine.execStepLoRead s
  | .markerReceive link m => Sys2Proof.Machine.execMarkerReceive link m s
  | .trimSaturated => Sys2Proof.Machine.execTrimSaturated s
  | .scheduledFlitReceive link f => Sys2Proof.Machine.execScheduledFlitReceive link f s
  | .flitConsume link sid o => Sys2Proof.Machine.execFlitConsume link sid o s
  | .skipNotice d target origin reason => Sys2Proof.Machine.execSkipNotice d target origin reason s
  | .throttleEvaluation temps power cup => Sys2Proof.Machine.execThrottleEvaluation temps power cup s
  | .skipNoticeIssue => Sys2Proof.Machine.execSkipNoticeIssue s
  | .skipReq v => Sys2Proof.Machine.execSkipReq v s
  | .thrEnClear v => Sys2Proof.Machine.execThrEnClear v s
  | .linkSignalDetect link => Sys2Proof.Machine.execLinkSignalDetect link s
  | .eqConverge link => Sys2Proof.Machine.execEqConverge link s
  | .lockAchieved link => Sys2Proof.Machine.execLockAchieved link s
  | .latencyProbe link stamp hold => Sys2Proof.Machine.execLatencyProbe link stamp hold s
  | .probeEcho link echo hold => Sys2Proof.Machine.execProbeEcho link echo hold s
  | .identity link ident dir => Sys2Proof.Machine.execIdentity link ident dir s
  | .creditGrant link credits => Sys2Proof.Machine.execCreditGrant link credits s
  | .trainStateTimeout link => Sys2Proof.Machine.execTrainStateTimeout link s
  | .lockLoss link => Sys2Proof.Machine.execLockLoss link s
  | .retrain link => Sys2Proof.Machine.execRetrain link s
  | .linkEnWrite link en => Sys2Proof.Machine.execLinkEnWrite link en s
  | .lineBlockReceive link data parity => Sys2Proof.Machine.execLineBlockReceive link data parity s
  | .nakReceive link seq => Sys2Proof.Machine.execNakReceive link seq s
  | .ackTimeout link seq => Sys2Proof.Machine.execAckTimeout link seq s
  | .d2dRetry link dir k acked => Sys2Proof.Machine.execD2dRetry link dir k acked s
  | .credTo n vc => Sys2Proof.Machine.execCredTo n vc s
  | .openRequestInject src f => Sys2Proof.Machine.execOpenRequestInject src f s
  | .ingressSwitch link vc => Sys2Proof.Machine.execIngressSwitch link vc s
  | .reservationTimeout src tag => Sys2Proof.Machine.execReservationTimeout src tag s
  | .replyReceive src f => Sys2Proof.Machine.execReplyReceive src f s
  | .flitAged keep out vc => Sys2Proof.Machine.execFlitAged keep out vc s
  | .tblDataWrite keep v => Sys2Proof.Machine.execTblDataWrite keep v s
  | .flipAtWrite keep v => Sys2Proof.Machine.execFlipAtWrite keep v s
  | .routeFlip d tick sum origin => Sys2Proof.Machine.execRouteFlip d tick sum origin s
  | .drainDeadline => Sys2Proof.Machine.execDrainDeadline s
  | .load bank => Sys2Proof.Machine.execLoad bank s
  | .planLoadDone => Sys2Proof.Machine.execPlanLoadDone s
  | .switchAtWrite v => Sys2Proof.Machine.execSwitchAtWrite v s
  | .disarm hi => Sys2Proof.Machine.execDisarm hi s
  | .egressAdmit keep out vc src => Sys2Proof.Machine.execEgressAdmit keep out vc src s
  | .egressSend keep out => Sys2Proof.Machine.execEgressSend keep out s
  | .spillWrite keep out vc => Sys2Proof.Machine.execSpillWrite keep out vc s
  | .spillReadback keep out vc ecc => Sys2Proof.Machine.execSpillReadback keep out vc ecc s
  | .ovfConfigWrite keep v => Sys2Proof.Machine.execOvfConfigWrite keep v s
  | .hostFrameReceive bytes => Sys2Proof.Machine.execHostFrameReceive bytes s
  | .hostIngressForward p => Sys2Proof.Machine.execHostIngressForward p s
  | .pfcRepeat p => Sys2Proof.Machine.execPfcRepeat p s
  | .pfcXon p => Sys2Proof.Machine.execPfcXon p s
  | .pfcFrameReceive enable quanta => Sys2Proof.Machine.execPfcFrameReceive enable quanta s
  | .pauseExpiry p => Sys2Proof.Machine.execPauseExpiry p s
  | .ethFrameReassembled vc => Sys2Proof.Machine.execEthFrameReassembled vc s
  | .hostFrameStart => Sys2Proof.Machine.execHostFrameStart s
  | .hostLinkUp => Sys2Proof.Machine.execHostLinkUp s
  | .hostLinkDown => Sys2Proof.Machine.execHostLinkDown s
  | .clipClr u => Sys2Proof.Machine.execClipClr u s
  | .ceReduce ce slot => Sys2Proof.Machine.execCeReduce ce slot s
  | .ceAllReduce ce slot => Sys2Proof.Machine.execCeAllReduce ce slot s
  | .ceReduceScatter ce slot => Sys2Proof.Machine.execCeReduceScatter ce slot s
  | .ceAllGather ce slot => Sys2Proof.Machine.execCeAllGather ce slot s
  | .ceBroadcast ce slot => Sys2Proof.Machine.execCeBroadcast ce slot s
  | .ceAllToAll ce slot => Sys2Proof.Machine.execCeAllToAll ce slot s
  | .ceGatherIdx ce slot => Sys2Proof.Machine.execCeGatherIdx ce slot s
  | .ceScatterIdx ce slot => Sys2Proof.Machine.execCeScatterIdx ce slot s
  | .ceSortMerge ce slot => Sys2Proof.Machine.execCeSortMerge ce slot s
  | .ceTopkMerge ce slot => Sys2Proof.Machine.execCeTopkMerge ce slot s
  | .ceScan ce slot => Sys2Proof.Machine.execCeScan ce slot s
  | .ceAttnCombine ce slot => Sys2Proof.Machine.execCeAttnCombine ce slot s
  | .cePartialFold ce slot rank => Sys2Proof.Machine.execCePartialFold ce slot rank s
  | .atomAdd f => Sys2Proof.Machine.execAtomAdd f s
  | .atomAddFetch f => Sys2Proof.Machine.execAtomAddFetch f s
  | .atomIdleWriteback line => Sys2Proof.Machine.execAtomIdleWriteback line s
  | .atomFlush c => Sys2Proof.Machine.execAtomFlush c s
  | .atomWinWrite c v => Sys2Proof.Machine.execAtomWinWrite c v s
  | .codecEncode c slot => Sys2Proof.Machine.execCodecEncode c slot s
  | .codecStore c slot => Sys2Proof.Machine.execCodecStore c slot s
  | .codecPack24 c slot => Sys2Proof.Machine.execCodecPack24 c slot s
  | .codecExpand c slot => Sys2Proof.Machine.execCodecExpand c slot s
  | .codedSliceReceive c sid => Sys2Proof.Machine.execCodedSliceReceive c sid s
  | .billinCopy g k => Sys2Proof.Machine.execBillinCopy g k s
  | .fill g k => Sys2Proof.Machine.execFill g k s
  | .gather g k => Sys2Proof.Machine.execGather g k s
  | .scatter g k => Sys2Proof.Machine.execScatter g k s
  | .billinMma g k => Sys2Proof.Machine.execBillinMma g k s
  | .add g k => Sys2Proof.Machine.execAdd g k s
  | .sub g k => Sys2Proof.Machine.execSub g k s
  | .mul g k => Sys2Proof.Machine.execMul g k s
  | .fma g k => Sys2Proof.Machine.execFma g k s
  | .max g k => Sys2Proof.Machine.execMax g k s
  | .min g k => Sys2Proof.Machine.execMin g k s
  | .div g k => Sys2Proof.Machine.execDiv g k s
  | .sqrt g k => Sys2Proof.Machine.execSqrt g k s
  | .exp2 g k => Sys2Proof.Machine.execExp2 g k s
  | .sign g k => Sys2Proof.Machine.execSign g k s
  | .abs g k => Sys2Proof.Machine.execAbs g k s
  | .rsum g k => Sys2Proof.Machine.execRsum g k s
  | .rmax g k => Sys2Proof.Machine.execRmax g k s
  | .rmin g k => Sys2Proof.Machine.execRmin g k s
  | .fenceAcq g k => Sys2Proof.Machine.execFenceAcq g k s
  | .fenceRel g k => Sys2Proof.Machine.execFenceRel g k s
  | .fenceFull g k => Sys2Proof.Machine.execFenceFull g k s
  | .flagSet g k => Sys2Proof.Machine.execFlagSet g k s
  | .flagWait g k => Sys2Proof.Machine.execFlagWait g k s
  | .flagWaitv g k => Sys2Proof.Machine.execFlagWaitv g k s
  | .flagWaitDone g q => Sys2Proof.Machine.execFlagWaitDone g q s
  | .tickBodyComplete g => Sys2Proof.Machine.execTickBodyComplete g s
  | .tileStoreAccess g => Sys2Proof.Machine.execTileStoreAccess g s
  | .prefetchComplete g => Sys2Proof.Machine.execPrefetchComplete g s
  | .imemWdataWrite g lantern v => Sys2Proof.Machine.execImemWdataWrite g lantern v s
  | .sort g k => Sys2Proof.Machine.execSort g k s
  | .topk g k => Sys2Proof.Machine.execTopk g k s
  | .softmax g k => Sys2Proof.Machine.execSoftmax g k s
  | .attnPartial g k => Sys2Proof.Machine.execAttnPartial g k s
  | .attnMerge g k => Sys2Proof.Machine.execAttnMerge g k s
  | .libScan g k => Sys2Proof.Machine.execLibScan g k s
  | .histogram g k => Sys2Proof.Machine.execHistogram g k s
  | .filter g k => Sys2Proof.Machine.execFilter g k s
  | .ueNorm c slot => Sys2Proof.Machine.execUeNorm c slot s
  | .ueFold c slot => Sys2Proof.Machine.execUeFold c slot s
  | .ueApply c slot => Sys2Proof.Machine.execUeApply c slot s
  | .ueStage c slot => Sys2Proof.Machine.execUeStage c slot s
  | .ueCommit c slot => Sys2Proof.Machine.execUeCommit c slot s
  | .ueStepLoRead c => Sys2Proof.Machine.execUeStepLoRead c s
  | .chkGo c unit => Sys2Proof.Machine.execChkGo c unit s
  | .chkDone c => Sys2Proof.Machine.execChkDone c s
  | .memRd f => Sys2Proof.Machine.execMemRd f s
  | .memWr f => Sys2Proof.Machine.execMemWr f s
  | .bulkRd f => Sys2Proof.Machine.execBulkRd f s
  | .bulkWr f => Sys2Proof.Machine.execBulkWr f s
  | .hbmWakeWait st => Sys2Proof.Machine.execHbmWakeWait st s
  | .fstCommit => Sys2Proof.Machine.execFstCommit s
  | .fstRead => Sys2Proof.Machine.execFstRead s
  | .sysGibWrite st v => Sys2Proof.Machine.execSysGibWrite st v s
  | .refreshRound st => Sys2Proof.Machine.execRefreshRound st s
  | .stackMoverOut st slot => Sys2Proof.Machine.execStackMoverOut st slot s
  | .stackMoverIn st slot => Sys2Proof.Machine.execStackMoverIn st slot s
  | .stackMoverCopy st slot => Sys2Proof.Machine.execStackMoverCopy st slot s
  | .moverCopy k => Sys2Proof.Machine.execMoverCopy k s
  | .moverConvert k => Sys2Proof.Machine.execMoverConvert k s
  | .moverReply k f => Sys2Proof.Machine.execMoverReply k f s
  | .moverDrainDone k => Sys2Proof.Machine.execMoverDrainDone k s
  | .mvResume k => Sys2Proof.Machine.execMvResume k s
  | .mvAbort k => Sys2Proof.Machine.execMvAbort k s
  | .correctedWriteback line => Sys2Proof.Machine.execCorrectedWriteback line s
  | .tripRewrite key => Sys2Proof.Machine.execTripRewrite key s
  | .tripEnWrite v => Sys2Proof.Machine.execTripEnWrite v s
  | .mergeWriteback line => Sys2Proof.Machine.execMergeWriteback line s
  | .mergeEntryWait st => Sys2Proof.Machine.execMergeEntryWait st s
  | .patrolRead line => Sys2Proof.Machine.execPatrolRead line s
  | .scrubGo => Sys2Proof.Machine.execScrubGo s
  | .scrubAbort => Sys2Proof.Machine.execScrubAbort s
  | .scrubGranule => Sys2Proof.Machine.execScrubGranule s
  | .spotCheckComplete c got => Sys2Proof.Machine.execSpotCheckComplete c got s
  | .marginEvaluation droop canary rx => Sys2Proof.Machine.execMarginEvaluation droop canary rx s
  | .neighbourSilent d => Sys2Proof.Machine.execNeighbourSilent d s
  | .watchReport d m => Sys2Proof.Machine.execWatchReport d m s
  | .roundDecision => Sys2Proof.Machine.execRoundDecision s
  | .digestReceive d cut digest => Sys2Proof.Machine.execDigestReceive d cut digest s
  | .switchTick => Sys2Proof.Machine.execSwitchTick s
  | .autoResume => Sys2Proof.Machine.execAutoResume s
  | .rbGo v => Sys2Proof.Machine.execRbGo v s
  | .restoreCopyDone ok => Sys2Proof.Machine.execRestoreCopyDone ok s
  | .restoreCheckDone srcSum srcNorm => Sys2Proof.Machine.execRestoreCheckDone srcSum srcNorm s
  | .cmdResume => Sys2Proof.Machine.execCmdResume s
  | .cmdAbort => Sys2Proof.Machine.execCmdAbort s
  | .cmdFabricReset => Sys2Proof.Machine.execCmdFabricReset s
  | .commandReceive d m => Sys2Proof.Machine.execCommandReceive d m s
  | .commandTakeEffect => Sys2Proof.Machine.execCommandTakeEffect s
  | .join v => Sys2Proof.Machine.execJoin v s
  | .joinAdopt d m => Sys2Proof.Machine.execJoinAdopt d m s
  | .watchPartnerWrite v => Sys2Proof.Machine.execWatchPartnerWrite v s
  | .pairCheck answer => Sys2Proof.Machine.execPairCheck answer s
  | .flightStepLoRead => Sys2Proof.Machine.execFlightStepLoRead s
  | .declStepLoRead => Sys2Proof.Machine.execDeclStepLoRead s
  | .arpRequest frame => Sys2Proof.Machine.execArpRequest frame s
  | .neighborSolicitation frame => Sys2Proof.Machine.execNeighborSolicitation frame s
  | .moraecaReceive src bytes => Sys2Proof.Machine.execMoraecaReceive src bytes s
  | .openSession sess => Sys2Proof.Machine.execOpenSession sess s
  | .closeSession sess => Sys2Proof.Machine.execCloseSession sess s
  | .regRd sess => Sys2Proof.Machine.execRegRd sess s
  | .regWr sess => Sys2Proof.Machine.execRegWr sess s
  | .moraecaBulkRd sess => Sys2Proof.Machine.execMoraecaBulkRd sess s
  | .moraecaBulkWr sess => Sys2Proof.Machine.execMoraecaBulkWr sess s
  | .streamOpen sess => Sys2Proof.Machine.execStreamOpen sess s
  | .streamData k src bytes => Sys2Proof.Machine.execStreamData k src bytes s
  | .streamAck k ack => Sys2Proof.Machine.execStreamAck k ack s
  | .streamRto k => Sys2Proof.Machine.execStreamRto k s
  | .streamReadReply k f => Sys2Proof.Machine.execStreamReadReply k f s
  | .eventAck src seq => Sys2Proof.Machine.execEventAck src seq s
  | .evtRto => Sys2Proof.Machine.execEvtRto s
  | .evtEnWrite v => Sys2Proof.Machine.execEvtEnWrite v s
  | .sessionTimeout sess => Sys2Proof.Machine.execSessionTimeout sess s
  | .holdTimeout sess seq => Sys2Proof.Machine.execHoldTimeout sess seq s
  | .cwNop w => Sys2Proof.Machine.execCwNop w s
  | .cwRegWr w => Sys2Proof.Machine.execCwRegWr w s
  | .cwMove w => Sys2Proof.Machine.execCwMove w s
  | .cwPlanLoad w => Sys2Proof.Machine.execCwPlanLoad w s
  | .cwPlanSwitch w => Sys2Proof.Machine.execCwPlanSwitch w s
  | .cwRecordComplete w => Sys2Proof.Machine.execCwRecordComplete w s
  | .registerWrite addr v => Sys2Proof.Machine.execRegisterWrite addr v s
  | .pgErrWrite p v => Sys2Proof.Machine.execPgErrWrite p v s
  | .softRst p => Sys2Proof.Machine.execSoftRst p s
  | .freeze p on => Sys2Proof.Machine.execFreeze p on s
  | .lock p => Sys2Proof.Machine.execLock p s
  | .feedBad feed => Sys2Proof.Machine.execFeedBad feed s
  | .feedSenseOpen feed => Sys2Proof.Machine.execFeedSenseOpen feed s
  | .feedGood feed => Sys2Proof.Machine.execFeedGood feed s
  | .feedReturn => Sys2Proof.Machine.execFeedReturn s
  | .holdupExpiry => Sys2Proof.Machine.execHoldupExpiry s
  | .coolantConfirm => Sys2Proof.Machine.execCoolantConfirm s
  | .coolOkChange flow inlet => Sys2Proof.Machine.execCoolOkChange flow inlet s
  | .tripPeakPower => Sys2Proof.Machine.execTripPeakPower s
  | .tripSustainedPower => Sys2Proof.Machine.execTripSustainedPower s
  | .tripTemperature sensor t0 t1 => Sys2Proof.Machine.execTripTemperature sensor t0 t1 s
  | .tripFlow flow => Sys2Proof.Machine.execTripFlow flow s
  | .tripInlet inlet => Sys2Proof.Machine.execTripInlet inlet s
  | .enterP3 key => Sys2Proof.Machine.execEnterP3 key s
  | .leaveP3 key => Sys2Proof.Machine.execLeaveP3 key s
  | .enterP4 key => Sys2Proof.Machine.execEnterP4 key s
  | .moduleReset key => Sys2Proof.Machine.execModuleReset key s
  | .resetNAssert => Sys2Proof.Machine.execResetNAssert s
  | .resetNRelease progEnN => Sys2Proof.Machine.execResetNRelease progEnN s
  | .wakeN => Sys2Proof.Machine.execWakeN s
  | .shdnN low => Sys2Proof.Machine.execShdnN low s
  | .powerRestored => Sys2Proof.Machine.execPowerRestored s
  | .domainWake dom => Sys2Proof.Machine.execDomainWake dom s
  | .bootPhaseComplete r => Sys2Proof.Machine.execBootPhaseComplete r s
  | .bootPhaseTimeout code => Sys2Proof.Machine.execBootPhaseTimeout code s
  | .calSave => Sys2Proof.Machine.execCalSave s
  | .bpSave => Sys2Proof.Machine.execBpSave s
  | .bpLoad => Sys2Proof.Machine.execBpLoad s
  | .updGo key => Sys2Proof.Machine.execUpdGo key s
  | .updateComplete => Sys2Proof.Machine.execUpdateComplete s
  | .fwCommit key => Sys2Proof.Machine.execFwCommit key s
  | .fkeyRevoke mask key => Sys2Proof.Machine.execFkeyRevoke mask key s
  | .enroll => Sys2Proof.Machine.execEnroll s
  | .revoke => Sys2Proof.Machine.execRevoke s
  | .keySave => Sys2Proof.Machine.execKeySave s
  | .testReq => Sys2Proof.Machine.execTestReq s
  | .dbgReq => Sys2Proof.Machine.execDbgReq s
  | .attGo => Sys2Proof.Machine.execAttGo s
  | .attReportReady => Sys2Proof.Machine.execAttReportReady s
  | .attDataRead => Sys2Proof.Machine.execAttDataRead s
  | .vaneReading mainMj backupMj pMain pBackup fault => Sys2Proof.Machine.execVaneReading mainMj backupMj pMain pBackup fault s
  | .vaneCommit => Sys2Proof.Machine.execVaneCommit s
  | .tamperBreak => Sys2Proof.Machine.execTamperBreak s
  | .vaneMirror bytes => Sys2Proof.Machine.execVaneMirror bytes s
  | .vaneStale => Sys2Proof.Machine.execVaneStale s
  | .vmSeqLoRead => Sys2Proof.Machine.execVmSeqLoRead s
  | .vmSigDataRead => Sys2Proof.Machine.execVmSigDataRead s
  | .p3EntryComplete => Sys2Proof.Machine.execP3EntryComplete s
  | .p3ExitComplete => Sys2Proof.Machine.execP3ExitComplete s
  | .calSaveComplete => Sys2Proof.Machine.execCalSaveComplete s
  | .bpSaveComplete => Sys2Proof.Machine.execBpSaveComplete s

end Sys2Proof.Machine
end

