-- ==== Sys2Proof/Machine/Idle.lean ====
section
/-! DEFINITION. What a step does while no command waits: the core clock advances by one cycle (log 4). -/

namespace Sys2Proof.Machine

/-- One core cycle with nothing to do. -/
def State.idle (s : State) : State := { s with clock := s.clock + 1 }

/-- The state with its front command taken. -/
def State.withPending (s : State) (l : List Sys2Proof.Instr) : State := { s with pending := l }

end Sys2Proof.Machine
end

