-- ==== Sys2Proof/Safety.lean ====
section
/-! DEFINITION. What the statements are said in: a well-formed state, and what a command leaves as it was. -/

namespace Sys2Proof.Machine

open Sys2Proof

/-- A well-formed state: the cell list is in canonical form, the tick number is a 48-bit number (R33), and the event store
holds at most 256 events (R395). -/
structure Safe (s : State) : Prop where
  mem : memWf s.mem = true
  tick : s.belfry.tick < 2 ^ 48
  events : s.events.items.length ≤ 256

/-- The keys that an event itself may write: the event and frame counters, and the marks of frozen pages. -/
def eventTouches (k : RegKey) : Prop :=
  k = rkey pgHost Mac.EVT_LOST 0 ∨ k = rkey (pgKeep 3) Hst.EG_DROP 0 ∨ k = rkey pgHost Hdr.HELD_EVT 0
    ∨ k = rkey (pgKeep 3) Hdr.HELD_EVT 0

/-- The keys that an error event of a page may write: also the header fields of the page, of the host MAC (EVT_LOST) and of
Keep 3 (EG_DROP). -/
def errTouches (p : PageId) (k : RegKey) : Prop :=
  eventTouches k ∨ (k.off < 0x100 ∧ ((k.ty = p.ty ∧ k.inst = p.inst) ∨ (k.ty = pgHost.ty ∧ k.inst = pgHost.inst) ∨
    (k.ty = (pgKeep 3).ty ∧ k.inst = (pgKeep 3).inst)))

/-- Every register field reads as before, but for those whose key satisfies `P`. -/
def regsKept (P : RegKey → Prop) (s t : State) : Prop := ∀ p r i, ¬ P (rkey p r i) → t.rd p r i = s.rd p r i

/-- Register fields and outputs apart, the states are the same: every byte of memory, every queue, every other part. -/
def sameBeyondRegs (s t : State) : Prop := t = { s with out := t.out, regs := t.regs, hidden := t.hidden, trip := t.trip, rose := t.rose }

/-- Nothing changes but register fields with a key in `ks`, and the outputs. -/
def onlyRegs (ks : List RegKey) (s t : State) : Prop := sameBeyondRegs s t ∧ regsKept (· ∈ ks) s t

/-- Register fields, outputs and what an event report uses apart, the states are the same. -/
def sameBeyondReports (s t : State) : Prop :=
  t = { s with out := t.out, free := t.free, regs := t.regs, hidden := t.hidden, trip := t.trip, rose := t.rose, events := t.events, host := t.host }

/-- No register field changes. -/
def sameRegs (s t : State) : Prop := ∀ p r i, t.rd p r i = s.rd p r i

/-- Every byte of every memory reads as before. -/
def memKept (s t : State) : Prop := ∀ sp off, t.peek sp off 1 = s.peek sp off 1

/-- Every byte of memory reads as before, but for `n` bytes from an offset of a space on. -/
def storesOnly (s t : State) (sp off n : Nat) : Prop :=
  ∀ c, c < cellAddr sp off ∨ cellAddr sp off + n ≤ c → memGet t.mem c = memGet s.mem c

/-- The output of a read: the value, after what was there. -/
def answers (s t : State) (v : Nat) : Prop := t.out = s.out ++ [.value v]

/-- A PG_ERR bit of a page reads 1. -/
def errSet (t : State) (p : PageId) (i : Nat) : Prop := bit (t.rd p Hdr.PG_ERR 0) i = true

/-- A unit's slot after its slice: a run is in it, every run in it is done, and the runs of other slots are what they were. -/
def sliceDone (s t : State) (kind unit slot : Nat) : Prop :=
  (∃ r ∈ t.runs, r.isAt kind unit slot = true) ∧ (∀ r ∈ t.runs, r.isAt kind unit slot = true → r.done = true) ∧
    ∀ r : Run, r.isAt kind unit slot = false → (r ∈ t.runs ↔ r ∈ s.runs)

/-- The parts of a state: each field, the five register lists taken together. -/
inductive Part where
  | queue | out | free | clock | regs | mem | events | host | belfry | links | d2d | reservations | routes |
    opn | arrays | fst | watch | bankA | bankB | sched | runs | frozenNow | atoms | waiting | movers |
    roundEnd | tiles | ueStep | keys | meas | scrub | spots | margin | power | fuses | vane | trust | sessions
    | opening | answers | streams | windows
  deriving DecidableEq, Repr

/-- A part is the same in both states. -/
def Part.same (z s : State) : Part → Prop
  | .queue => s.pending = z.pending
  | .out => s.out = z.out
  | .free => s.free = z.free
  | .clock => s.clock = z.clock
  | .regs => s.regs = z.regs ∧ s.staged = z.staged ∧ s.hidden = z.hidden ∧ s.trip = z.trip ∧ s.rose = z.rose
  | .mem => s.mem = z.mem
  | .events => s.events = z.events
  | .host => s.host = z.host
  | .belfry => s.belfry = z.belfry
  | .links => s.links = z.links
  | .d2d => s.d2d = z.d2d
  | .reservations => s.reservations = z.reservations
  | .routes => s.routes = z.routes
  | .opn => s.opn = z.opn
  | .arrays => s.arrays = z.arrays
  | .fst => s.fst = z.fst
  | .watch => s.watch = z.watch
  | .bankA => s.bankA = z.bankA
  | .bankB => s.bankB = z.bankB
  | .sched => s.sched = z.sched
  | .runs => s.runs = z.runs
  | .frozenNow => s.frozenNow = z.frozenNow
  | .atoms => s.atoms = z.atoms
  | .waiting => s.waiting = z.waiting
  | .movers => s.movers = z.movers
  | .roundEnd => s.roundEnd = z.roundEnd
  | .tiles => s.tiles = z.tiles
  | .ueStep => s.ueStep = z.ueStep
  | .keys => s.keys = z.keys
  | .meas => s.meas = z.meas
  | .scrub => s.scrub = z.scrub
  | .spots => s.spots = z.spots
  | .margin => s.margin = z.margin
  | .power => s.power = z.power
  | .fuses => s.fuses = z.fuses
  | .vane => s.vane = z.vane
  | .trust => s.trust = z.trust
  | .sessions => s.sessions = z.sessions
  | .opening => s.opening = z.opening
  | .answers => s.answers = z.answers
  | .streams => s.streams = z.streams
  | .windows => s.windows = z.windows

/-- Every part of the state but those listed is the same. -/
def keepsRest (l : List Part) (z s : State) : Prop := ∀ p : Part, p ∉ l → p.same z s

/-- The parts that an error event may touch: registers, the event store, the strict queue it is sent on, and the count of
free values (log 2). -/
def errParts : List Part := [.free, .regs, .events, .host]

/-- The parts that an access to the protected arrays may touch: cells and their codes, errors, and the tick fault raised. -/
def arrayParts : List Part := errParts ++ [.mem, .arrays, .watch]

/-- Every part but those listed. -/
def everyPartBut (l : List Part) : List Part :=
  [.queue, .out, .free, .clock, .regs, .mem, .events, .host, .belfry, .links, .d2d, .reservations, .routes, .opn,
   .arrays, .fst, .watch, .bankA, .bankB, .sched, .runs, .frozenNow, .atoms, .waiting, .movers, .roundEnd, .tiles,
   .ueStep, .keys, .meas, .scrub, .spots, .margin, .power, .fuses, .vane, .trust, .sessions, .opening, .answers,
   .streams, .windows].filter fun p => p ∉ l

/-- The parts of the state that a command may touch. -/
def touches : Instr → List Part
  | .tickBoundary .. | .atomAdd .. | .atomAddFetch .. | .tileStoreAccess .. | .memRd .. | .memWr .. | .bulkRd .. |
    .bulkWr .. | .hbmWakeWait .. | .regRd .. | .regWr .. | .moraecaBulkRd .. | .moraecaBulkWr .. | .cwRegWr .. |
    .registerWrite .. | .domainWake .. => everyPartBut [.queue, .clock, .vane]
  | .periodAtWrite .. | .trimSaturated .. => errParts ++ [.belfry]
  | .nowLoRead .. | .stepLoRead .. | .pfcXon .. | .ueStepLoRead .. | .flightStepLoRead .. | .declStepLoRead .. |
    .attDataRead .. | .vmSigDataRead .. => [.out, .regs]
  | .markerReceive .. | .neighbourSilent .. => errParts ++ [.out, .belfry, .links, .watch]
  | .scheduledFlitReceive .. | .codedSliceReceive .. => errParts ++ [.sched]
  | .flitConsume .. => arrayParts ++ [.out, .belfry, .links, .sched, .tiles]
  | .skipNotice .. => errParts ++ [.out, .belfry, .links]
  | .throttleEvaluation .. | .thrEnClear .. => [.regs, .belfry]
  | .skipNoticeIssue .. | .skipReq .. => [.out, .belfry, .links]
  | .linkSignalDetect .. | .lockAchieved .. => errParts ++ [.out, .links]
  | .eqConverge .. | .creditGrant .. => errParts ++ [.links]
  | .latencyProbe .. => [.out]
  | .probeEcho .. | .identity .. | .trainStateTimeout .. | .lockLoss .. => errParts ++ [.out, .links, .opn, .watch,
    .sched]
  | .retrain .. | .linkEnWrite .. => errParts ++ [.out, .links, .opn]
  | .lineBlockReceive .. => errParts ++ [.out, .belfry, .links, .reservations, .routes, .opn, .watch, .sched, .tiles,
    .power, .answers]
  | .nakReceive .. | .ackTimeout .. => errParts ++ [.out, .belfry, .links, .opn, .watch, .sched]
  | .d2dRetry .. => errParts ++ [.belfry, .d2d, .watch]
  | .credTo .. => errParts ++ [.out, .links, .reservations, .opn, .watch, .sched]
  | .openRequestInject .. | .watchPartnerWrite .. => errParts ++ [.out, .links, .reservations, .opn, .power, .answers]
  | .ingressSwitch .. => errParts ++ [.out, .links, .opn, .arrays]
  | .reservationTimeout .. => errParts ++ [.out, .links, .reservations, .opn, .answers]
  | .replyReceive .. => errParts ++ [.out, .links, .reservations, .opn, .arrays, .answers]
  | .flitAged .. => errParts ++ [.out, .links, .opn, .sched]
  | .tblDataWrite .. => errParts ++ [.routes]
  | .flipAtWrite .. | .routeFlip .. => errParts ++ [.out, .belfry, .links, .routes, .watch]
  | .drainDeadline .. => errParts ++ [.out, .links, .reservations, .routes, .opn, .fst, .watch, .answers]
  | .load .. => errParts ++ [.opn, .fst, .bankA, .bankB, .sched, .meas]
  | .planLoadDone .. => errParts ++ [.opn, .fst, .bankA, .bankB, .sched, .meas, .power]
  | .switchAtWrite .. => errParts ++ [.watch, .sched, .tiles]
  | .disarm .. => [.regs, .tiles]
  | .egressAdmit .. => errParts ++ [.out, .links, .opn, .arrays, .power]
  | .egressSend .. => errParts ++ [.out, .links, .reservations, .opn, .arrays]
  | .spillWrite .. => arrayParts ++ [.opn, .sched, .power]
  | .spillReadback .. => errParts ++ [.mem, .opn, .arrays]
  | .ovfConfigWrite .. | .sysGibWrite .. | .pairCheck .. | .arpRequest .. | .neighborSolicitation .. | .evtRto .. |
    .evtEnWrite .. | .feedBad .. | .feedSenseOpen .. | .feedGood .. | .feedReturn .. | .testReq .. | .dbgReq .. |
    .vaneStale .. => errParts
  | .hostFrameReceive .. => errParts ++ [.out]
  | .hostIngressForward .. => errParts ++ [.out, .opn]
  | .pfcRepeat .. => [.out, .regs, .host]
  | .pfcFrameReceive .. | .pauseExpiry .. => [.host]
  | .ethFrameReassembled .. => errParts ++ [.opn, .arrays]
  | .hostFrameStart .. => [.out, .host]
  | .hostLinkUp .. => errParts ++ [.streams]
  | .hostLinkDown .. => errParts ++ [.opn, .streams]
  | .clipClr .. | .chkGo .. | .fstRead .. | .moverDrainDone .. | .tripEnWrite .. | .pgErrWrite .. | .softRst .. |
    .freeze .. | .lock .. | .bootPhaseTimeout .. | .bpLoad .. => [.regs]
  | .ceReduce .. | .ceAllReduce .. | .ceReduceScatter .. | .ceAllGather .. | .ceBroadcast .. | .ceAllToAll .. |
    .ceGatherIdx .. | .ceSortMerge .. | .ceTopkMerge .. | .ceScan .. | .ceAttnCombine .. | .stackMoverOut .. =>
    arrayParts ++ [.sched, .runs]
  | .ceScatterIdx .. | .codecStore .. | .codecPack24 .. | .codecExpand .. | .ueFold .. | .ueStage .. | .ueCommit .. |
    .stackMoverIn .. | .stackMoverCopy .. => arrayParts ++ [.runs]
  | .cePartialFold .. => [.runs]
  | .atomIdleWriteback .. | .atomFlush .. | .atomWinWrite .. => arrayParts ++ [.atoms]
  | .codecEncode .. => arrayParts ++ [.belfry, .sched, .runs]
  | .billinCopy .. | .fill .. | .gather .. | .scatter .. | .billinMma .. | .add .. | .sub .. | .mul .. | .fma .. |
    .max .. | .min .. | .div .. | .sqrt .. | .exp2 .. | .sign .. | .abs .. | .rsum .. | .rmax .. | .rmin .. =>
    arrayParts ++ [.belfry, .tiles, .spots]
  | .fenceAcq .. | .fenceRel .. | .fenceFull .. | .flagSet .. | .flagWait .. | .flagWaitDone .. => [.tiles]
  | .flagWaitv .. | .sort .. | .topk .. | .softmax .. | .attnPartial .. | .attnMerge .. | .libScan .. | .histogram ..
    | .filter .. => arrayParts ++ [.tiles]
  | .tickBodyComplete .. => arrayParts ++ [.out, .belfry, .sched, .tiles, .spots]
  | .prefetchComplete .. => errParts ++ [.tiles]
  | .imemWdataWrite .. => errParts ++ [.out, .mem, .tiles]
  | .ueNorm .. => arrayParts ++ [.runs, .ueStep]
  | .ueApply .. => arrayParts ++ [.sched, .runs, .ueStep]
  | .chkDone .. | .patrolRead .. => arrayParts
  | .fstCommit .. => errParts ++ [.out, .links, .reservations, .opn, .fst, .power, .answers]
  | .refreshRound .. => [.regs, .roundEnd]
  | .moverCopy .. | .moverConvert .. | .mvResume .. => errParts ++ [.out, .links, .reservations, .opn, .movers,
    .power, .answers]
  | .moverReply .. => errParts ++ [.out, .links, .reservations, .opn, .arrays, .movers, .power, .answers]
  | .mvAbort .. => [.regs, .movers]
  | .correctedWriteback .. | .mergeWriteback .. => [.arrays]
  | .tripRewrite .. => errParts ++ [.watch]
  | .mergeEntryWait .. => [.regs, .arrays]
  | .scrubGo .. => errParts ++ [.scrub]
  | .scrubAbort .. => [.regs, .scrub]
  | .scrubGranule .. => arrayParts ++ [.scrub]
  | .spotCheckComplete .. => errParts ++ [.watch, .spots]
  | .marginEvaluation .. => errParts ++ [.out, .links, .watch, .margin]
  | .watchReport .. => [.out, .links, .watch]
  | .roundDecision .. => errParts ++ [.out, .links, .watch, .tiles]
  | .digestReceive .. => errParts ++ [.out, .links, .watch]
  | .switchTick .. => arrayParts ++ [.out, .links, .reservations, .opn, .fst, .sched, .movers, .power, .answers]
  | .autoResume .. => [.regs, .watch]
  | .rbGo .. | .restoreCheckDone .. => errParts ++ [.out, .links, .reservations, .opn, .watch, .movers, .power,
    .answers]
  | .restoreCopyDone .. => arrayParts ++ [.out, .links, .reservations, .opn, .atoms, .movers, .power, .answers]
  | .cmdResume .. | .cmdAbort .. | .cmdFabricReset .. | .commandReceive .. => errParts ++ [.out, .belfry, .links,
    .watch, .tiles]
  | .commandTakeEffect .. => errParts ++ [.opn, .fst, .watch, .bankA, .bankB, .sched, .runs, .movers, .tiles, .meas]
  | .join .. => errParts ++ [.out, .links, .reservations, .opn, .watch, .power, .answers]
  | .joinAdopt .. => [.regs, .belfry, .watch]
  | .moraecaReceive .. => errParts ++ [.out, .links, .reservations, .opn, .power, .sessions, .opening, .answers,
    .streams]
  | .openSession .. => errParts ++ [.links, .opn, .sessions, .opening]
  | .closeSession .. => errParts ++ [.links, .opn, .sessions]
  | .streamOpen .. => errParts ++ [.out, .links, .reservations, .opn, .power, .sessions, .answers, .streams]
  | .streamData .. | .streamAck .. | .streamRto .. => errParts ++ [.out, .links, .reservations, .opn, .power,
    .answers, .streams]
  | .streamReadReply .. => errParts ++ [.out, .links, .reservations, .opn, .arrays, .power, .answers, .streams]
  | .eventAck .. => [.events]
  | .sessionTimeout .. => [.sessions]
  | .holdTimeout .. => [.regs, .sessions]
  | .cwNop .. => [.windows]
  | .cwMove .. => errParts ++ [.out, .links, .reservations, .opn, .movers, .power, .answers, .windows]
  | .cwPlanLoad .. => errParts ++ [.opn, .fst, .bankA, .bankB, .sched, .meas, .windows]
  | .cwPlanSwitch .. => errParts ++ [.watch, .sched, .tiles, .windows]
  | .cwRecordComplete .. => arrayParts ++ [.atoms, .answers, .windows]
  | .holdupExpiry .. => everyPartBut [.queue, .out, .free, .clock, .keys, .fuses]
  | .coolantConfirm .. => [.regs, .power]
  | .coolOkChange .. => errParts ++ [.power]
  | .tripPeakPower .. | .tripSustainedPower .. | .tripTemperature .. | .tripFlow .. | .tripInlet .. | .resetNAssert ..
    | .shdnN .. | .p3EntryComplete .. | .p3ExitComplete .. => everyPartBut [.queue, .out, .free, .clock, .keys,
    .fuses, .vane]
  | .enterP3 .. | .leaveP3 .. | .enterP4 .. | .moduleReset .. | .wakeN .. | .powerRestored .. => everyPartBut [.queue,
    .out, .clock, .keys, .fuses, .vane]
  | .resetNRelease .. => [.power]
  | .bootPhaseComplete .. => errParts ++ [.out, .belfry, .links, .reservations, .opn, .watch, .sched, .keys, .meas,
    .power, .trust, .answers, .streams]
  | .calSave .. => [.regs, .mem, .arrays]
  | .bpSave .. | .calSaveComplete .. | .bpSaveComplete .. => [.regs, .mem]
  | .updGo .. => errParts ++ [.mem, .arrays, .trust]
  | .updateComplete .. => errParts ++ [.mem, .trust]
  | .fwCommit .. | .fkeyRevoke .. => errParts ++ [.fuses]
  | .enroll .. | .revoke .. => errParts ++ [.keys]
  | .keySave .. => errParts ++ [.mem]
  | .attGo .. | .attReportReady .. => [.regs, .trust]
  | .vaneReading .. => [.out, .vane]
  | .vaneCommit .. | .tamperBreak .. => [.vane]
  | .vaneMirror .. => errParts ++ [.trust]
  | .vmSeqLoRead .. => [.out, .regs, .trust]

end Sys2Proof.Machine
end

