-- ==== Sys2Proof/Certificates/Slice0/Obligations.lean ====
section
/-! DEFINITION. The statements for the provers. -/

open Sys2Proof Sys2Proof.Machine

/-! ## The queue, and what every command keeps -/

/-- A step takes the command at the front of the queue and runs it with the queue's rest. -/
def Obligations.StepRunsFrontCommand : Prop :=
  ∀ (c : Instr) (l : List Instr) (s : State), s.pending = c :: l → step s = exec c (s.withPending l)

/-- On an empty queue a step is one core cycle and nothing else (the model's choice, log 4). -/
def Obligations.EmptyQueueIsOneCycle : Prop :=
  ∀ s : State, s.pending = [] → step s = .next { s with clock := s.clock + 1 }

/-- Every command completes: none stops, none touches the queue, none takes time (log 4). -/
def Obligations.CommandsCompleteAtOnce : Prop :=
  ∀ (c : Instr) (s : State), ∃ t, exec c s = .next t ∧ t.pending = s.pending ∧ t.clock = s.clock

/-- The state after reset is well formed, with nothing stored, nothing queued and no fuse burned. -/
def Obligations.ResetIsSafe : Prop :=
  Safe State.reset ∧ State.reset.pending = [] ∧ State.reset.mem = [] ∧ State.reset.events.items = [] ∧
    State.reset.vane.tamper = false ∧ State.reset.fuses.revoked = 0

/-- Every step keeps a state well formed: memory in canonical form, the tick number within 48 bits, at most 256 events. -/
def Obligations.StepKeepsSafe : Prop := ∀ s t : State, Safe s → step s = .next t → Safe t

/-- Fuses only burn: SVN_MIN never falls, a revoked key slot stays revoked, and the firmware keys stay (R445, R446). -/
def Obligations.FusesOnlyBurn : Prop :=
  ∀ s t : State, step s = .next t →
    s.fuses.svnMin ≤ t.fuses.svnMin ∧ t.fuses.fkeys = s.fuses.fkeys ∧
      ∀ i, s.fuses.revoked.testBit i = true → t.fuses.revoked.testBit i = true

/-- The cumulative energy registers only increase, in every step (R454). -/
def Obligations.EnergyOnlyIncreases : Prop :=
  ∀ s t : State, step s = .next t → s.vane.eMain ≤ t.vane.eMain ∧ s.vane.eBackup ≤ t.vane.eBackup

/-- The tamper loop's break sets TAMPER and fixes TAMPER_TIME, and no step clears or moves either (R456). -/
def Obligations.TamperIsPermanent : Prop :=
  (∀ s : State, ∃ t, exec .tamperBreak s = .next t ∧ t.vane.tamper = true ∧
      t.vane.tamperTime = (if s.vane.tamper then s.vane.tamperTime else s.vane.time) ∧
      t = { s with vane := t.vane } ∧ t.vane = { s.vane with tamper := true, tamperTime := t.vane.tamperTime }) ∧
    ∀ s t : State, step s = .next t → s.vane.tamper = true → t.vane.tamper = true ∧ t.vane.tamperTime = s.vane.tamperTime

/-- The tick number moves only at a boundary or when a join adopts a neighbour's; any other command leaves it, or resets the
Belfry with the module to 0 (R33, R370). -/
def Obligations.OnlyBoundariesMoveTheTick : Prop :=
  ∀ (c : Instr) (s t : State), c ≠ .tickBoundary → (∀ d m, c ≠ .joinAdopt d m) → (∀ l f b, c ≠ .lineBlockReceive l f b) →
    exec c s = .next t → t.now = s.now ∨ t.now = 0

/-- At a boundary the tick number increments modulo 2^48, the next tick starts where the old one ends, and the plan step count
increments unless the tick is skipped (R33, Table 02.5). A module that joins by seed takes JOIN_TICK, as it stands when the tick's
work is closed, and step count 0 instead (R370). A register write that waited for the boundary may reset the module, to tick 0.
Before the boundary the command has no effect. -/
def Obligations.BoundaryAdvancesTheTick : Prop :=
  ∀ s : State,
    (s.running = false ∨ s.clock < s.belfry.tickStart + s.belfry.tickLen → exec .tickBoundary s = .next s) ∧
    (s.running = true → s.belfry.tickStart + s.belfry.tickLen ≤ s.clock → ∃ t n, exec .tickBoundary s = .next t ∧
      n = (if s.endTick.watch.joining = some true then
        s.endTick.rd2 pgWatch Wat.JOIN_TICK_LO Wat.JOIN_TICK_HI % 2 ^ 48 else (s.now + 1) % 2 ^ 48) ∧
      (t.now = n ∨ t.now = 0) ∧
      (s.waiting = [] → t.now = n ∧ t.belfry.tickStart = s.belfry.tickStart + s.belfry.tickLen ∧
        t.belfry.stepCount = (if s.endTick.watch.joining = some true then 0 else if t.skipped then s.belfry.stepCount
          else (s.belfry.stepCount + 1) % 2 ^ 48)))

/-! ## The Belfry -/

/-- A read of NOW_LO latches the upper 16 bits into NOW_HI; the pair, read LO first, names the tick (R34). -/
def Obligations.NowReadNamesOneTick : Prop :=
  ∀ s : State, s.now < 2 ^ 48 → ∃ t v, exec .nowLoRead s = .next t ∧ answers s t v ∧ v < 2 ^ 32 ∧
    v + 2 ^ 32 * t.rd pgBelfry Bel.NOW_HI 0 = s.now ∧ onlyRegs [rkey pgBelfry Bel.NOW_HI 0] s t

/-- Reads of the Belfry's STEP_LO, of FLIGHT_STEP_LO, DECL_STEP_LO and an update engine's STEP_LO latch the upper bits of the
same number (Tables 02.5, 14.5, 11.7). -/
def Obligations.StepReadsLatchTheirUpperHalf : Prop :=
  (∀ s : State, s.belfry.stepCount < 2 ^ 48 → ∃ t v, exec .stepLoRead s = .next t ∧ answers s t v ∧ v < 2 ^ 32 ∧
      v + 2 ^ 32 * t.rd pgBelfry Bel.STEP_HI 0 = s.belfry.stepCount ∧ onlyRegs [rkey pgBelfry Bel.STEP_HI 0] s t) ∧
  (∀ s : State, s.watch.flight < 2 ^ 48 → ∃ t v, exec .flightStepLoRead s = .next t ∧ answers s t v ∧ v < 2 ^ 32 ∧
      v + 2 ^ 32 * t.rd pgWatch Wat.FLIGHT_STEP_HI 0 = s.watch.flight ∧ onlyRegs [rkey pgWatch Wat.FLIGHT_STEP_HI 0] s t) ∧
  (∀ s : State, s.watch.decl < 2 ^ 48 → ∃ t v, exec .declStepLoRead s = .next t ∧ answers s t v ∧ v < 2 ^ 32 ∧
      v + 2 ^ 32 * t.rd pgWatch Wat.DECL_STEP_HI 0 = s.watch.decl ∧ onlyRegs [rkey pgWatch Wat.DECL_STEP_HI 0] s t) ∧
  (∀ (s : State) (c : Nat), c < 8 → AL.getD s.ueStep c 0 < 2 ^ 48 → ∃ t v, exec (.ueStepLoRead c) s = .next t ∧
      answers s t v ∧ v < 2 ^ 32 ∧ v + 2 ^ 32 * t.rd (pgUe c) Ue.STEP_HI 0 = AL.getD s.ueStep c 0 ∧
      onlyRegs [rkey (pgUe c) Ue.STEP_HI 0] s t)

/-- The tick that PERIOD_AT names once its low word is written. -/
def Sys2Proof.Machine.State.periodAt (s : State) (v : Nat) : Nat := v % 2 ^ 32 + 2 ^ 32 * s.rd pgBelfry Bel.PERIOD_AT_HI 0

/-- A write of PERIOD_AT_LO arms the change with PER_U as it stands, for the tick it names; one that is not later than the
current tick takes the next boundary and sets PG_ERR.PER_LATE (R32). -/
def Obligations.PeriodWriteArms : Prop :=
  ∀ (v : Nat) (s : State), ∃ t, exec (.periodAtWrite v) s = .next t ∧ sameBeyondReports (s.setBelfry t.belfry) t ∧
    regsKept (fun k => k = rkey pgBelfry Bel.PERIOD_AT_LO 0 ∨ errTouches pgBelfry k) s t ∧
    t.belfry.perArmed = some
      (if tickLater (s.periodAt v) s.now then s.periodAt v else tickAdd s.now 1, s.rd pgBelfry Bel.PER_U 0) ∧
    t.belfry = { s.belfry with perArmed := t.belfry.perArmed } ∧
    (tickLater (s.periodAt v) s.now = true → sameBeyondRegs (s.setBelfry t.belfry) t) ∧
    (tickLater (s.periodAt v) s.now = false → errSet t pgBelfry 6)

/-- A neighbour message flooded: it stands last in the queue of every torus link that is UP, the sender's apart, and no other link
changes (R53, R65). -/
def Sys2Proof.Machine.flooded (s t : State) (src : Option Nat) (opcode : Nat) (payload : List Byte) : Prop :=
  ∀ l, t.link l = if 0x10 ≤ l ∧ l < 0x16 ∧ s.linkUp l = true ∧ some (l - 0x10) ≠ src then
    { s.link l with msgs := (s.link l).msgs ++ [s.messageFlit (l - 0x10) opcode payload] } else s.link l

/-- A skip notice marked: the target in the skip map, the notice of R52 on its way in every direction whose link is UP, the
sender's apart, and nothing else changed. -/
def Sys2Proof.Machine.marksSkip (s t : State) (src : Option Nat) (target origin reason : Nat) : Prop :=
  target ∈ t.belfry.skipMap ∧
    t.belfry = { s.belfry with skipMap := target :: s.belfry.skipMap, flooded := (0x31, target) :: s.belfry.flooded,
                               thrLast := t.belfry.thrLast } ∧
    flooded s t src 0x31 (leBytes 6 target ++ leBytes 2 (origin % 2 ^ 15) ++ leBytes 1 reason) ∧
    t = { s with links := t.links, belfry := t.belfry }

/-- The first notice for a tick that lies 1 to 1,023 ticks ahead is marked and forwarded; one already known is dropped; a late
one sets PG_ERR.SKIP_LATE and records an overrun; one out of range sets PG_ERR.SKIP_RANGE (R53). -/
def Obligations.SkipNoticeIsMarkedOnce : Prop :=
  ∀ (d target origin reason : Nat) (s : State), target < 2 ^ 48 →
    (s.floodedBefore 0x31 target = false → tickLater target s.now = true → tickSub target s.now ≤ 1023 →
      ∃ t, exec (.skipNotice d target origin reason) s = .next t ∧ marksSkip s t (some d) target origin reason ∧
        t.belfry.thrLast = s.belfry.thrLast) ∧
    (s.floodedBefore 0x31 target = true → exec (.skipNotice d target origin reason) s = .next s) ∧
    (s.floodedBefore 0x31 target = false → tickLater target s.now = false →
      ∃ t, exec (.skipNotice d target origin reason) s = .next t ∧ errSet t pgBelfry 4 ∧
        t.belfry = { s.belfry with overruns := s.belfry.overruns ++ [⟨tyBelfry, 0, 6, target % 2 ^ 32⟩] } ∧
        sameBeyondReports (s.setBelfry t.belfry) t) ∧
    (s.floodedBefore 0x31 target = false → tickLater target s.now = true → 1023 < tickSub target s.now →
      ∃ t, exec (.skipNotice d target origin reason) s = .next t ∧ errSet t pgBelfry 5 ∧ sameBeyondReports s t)

/-- The host's SKIP_REQ and the throttle's notice mark and send the tick LEAD ahead, with the module's own coordinate (R52, R54). -/
def Obligations.SkipsAreIssuedLeadAhead : Prop :=
  ∀ (s : State), s.floodedBefore 0x31 (tickAdd s.now (s.rd pgBelfry Bel.LEAD 0)) = false →
    (∀ v, bit v 0 = true → s.rdb pgBelfry Bel.HOST_EN 0 = true → ∃ t, exec (.skipReq v) s = .next t ∧
      marksSkip s t none (tickAdd s.now (s.rd pgBelfry Bel.LEAD 0)) s.coord 3 ∧ t.belfry.thrLast = s.belfry.thrLast) ∧
    (s.belfry.thrLive = true → s.rdb pgBelfry Bel.THR_EN 0 = true → s.noticeDue = true → s.belfry.thrLast ≠ some s.now →
      ∃ t, exec .skipNoticeIssue s = .next t ∧ t.belfry.thrLast = some s.now ∧
        marksSkip s t none (tickAdd s.now (s.rd pgBelfry Bel.LEAD 0)) s.coord
          (if s.rdb pgBelfry Bel.TEMP_ACT 0 then 1 else 2))

/-- A throttle evaluation shows the temperatures (R414). Every 64 ticks it sets the skip fraction: up by one under a trigger to
MAX_SKIP, down by one when cool, 0 while THR_EN is clear; and starts a window (R54). Between, the fraction and the window stay. -/
def Obligations.ThrottleEvaluationSetsF : Prop :=
  ∀ (temps : List Int) (power : Nat) (cup : List Nat) (s : State), ∃ t, exec (.throttleEvaluation temps power cup) s = .next t ∧
    memKept s t ∧ sameBeyondRegs (s.setBelfry t.belfry) t ∧
    (∀ i, i < 64 → t.rd pgOculus Ocu.TS_TEMP i = (s.temps temps).getD i 0) ∧
    t.rd pgOculus Ocu.PWR_MOD 0 = power % 2 ^ 13 ∧
    (s.throttleDue = false → t.belfry = s.belfry ∧ t.rd pgBelfry Bel.F 0 = s.rd pgBelfry Bel.F 0) ∧
    (s.throttleDue = true →
      t.belfry = { s.belfry with thrWindow := s.now, thrLast := none, thrLive := true } ∧
      (s.rdb pgBelfry Bel.THR_EN 0 = false → t.rd pgBelfry Bel.F 0 = 0) ∧
      (s.rdb pgBelfry Bel.THR_EN 0 = true →
        s.rd pgBelfry Bel.F 0 < 64 → s.rd pgBelfry Bel.MAX_SKIP 0 < 64 → t.rd pgBelfry Bel.F 0 =
          (if s.rdb pgButtress But.COOL_OK 0 = false ∨
              (s.temps temps).any (· > min (s.rd pgBelfry Bel.THR_TEMP 0) 105) ∨ s.rd pgBelfry Bel.THR_POWER 0 < power then
            (if s.rd pgBelfry Bel.F 0 < s.rd pgBelfry Bel.MAX_SKIP 0 then s.rd pgBelfry Bel.F 0 + 1 else s.rd pgBelfry Bel.F 0)
          else if (s.temps temps).all (fun x => x + s.rd pgBelfry Bel.T_HYST 0 < min (s.rd pgBelfry Bel.THR_TEMP 0) 105) ∧
              power + 100 < s.rd pgBelfry Bel.THR_POWER 0 then s.rd pgBelfry Bel.F 0 - 1
          else s.rd pgBelfry Bel.F 0)))

/-- A marker's skew is recorded: on a torus link in BELFRY_SKEWd with VALID while the module is joined, on an endpoint link in
EP_SKEW (R39, R40, R42). An unjoined module changes nothing else but its count of markers. A joined one takes a joined torus
neighbour's skew into the trim; a marker of the current tick within its window, with this module's period and step, reports
nothing (R40, R41). -/
def Obligations.MarkerSkewIsRecorded : Prop :=
  ∀ (m : Marker) (s : State),
    (∀ d, d < 6 → ∃ t, exec (.markerReceive (0x10 + d) m) s = .next t ∧ memKept s t ∧
      t.rd pgBelfry Bel.SKEW d = ofSigned 24 (s.markerSkew (0x10 + d) m) ∧
      t.rd pgBelfry Bel.SKEW_VALID d = b2n s.joined ∧
      (s.joined = true → m.joined = true → AL.get t.belfry.marks d = some (s.markerSkew (0x10 + d) m)) ∧
      (s.joined = false ∨ m.joined = false ∨ tickDiff m.tick s.now = 0 ∧
          16 * (s.markerSkew (0x10 + d) m).natAbs ≤ s.rd pgBelfry Bel.WIN 0 * s.period ∧
          m.perU % 512 = s.rd pgBelfry Bel.PER_CUR 0 ∧ m.step % 2 ^ 32 = s.belfry.stepCount % 2 ^ 32 →
        sameBeyondRegs (s.setBelfry t.belfry) t ∧
        regsKept (· ∈ [rkey pgBelfry Bel.SKEW d, rkey pgBelfry Bel.SKEW_VALID d]) s t)) ∧
    ∀ n, n < 16 → ∃ t, exec (.markerReceive n m) s = .next t ∧ memKept s t ∧
      t.rd (pgLink n) Ept.EP_SKEW 0 = ofSigned 24 (s.markerSkew n m) ∧ t.belfry.marks = s.belfry.marks ∧
      (s.joined = false → onlyRegs [rkey (pgLink n) Ept.EP_SKEW 0] s t)

/-- A trim at its limit for 64 ticks sets PG_ERR.TRIM_SAT and the marker flag once (R41); a write that clears THR_EN on an
unlocked page ends the window's notices at once (R54). -/
def Obligations.TrimSaturatesAndThrottleStops : Prop :=
  (∀ s : State, 64 ≤ s.belfry.trimRun → s.belfry.trimSat = false → ∃ t, exec .trimSaturated s = .next t ∧
    errSet t pgBelfry 3 ∧ t.belfry = { s.belfry with trimSat := true } ∧ sameBeyondReports (s.setBelfry t.belfry) t) ∧
  (∀ (v : Nat) (s : State), s.raw pgBelfry Hdr.LOCK 0 ≠ 1 → s.rdb pgBelfry Bel.THR_EN 0 = true →
    ∃ t, exec (.thrEnClear v) s = .next t ∧ t.rd pgBelfry Bel.THR_EN 0 = 0 ∧
      t.belfry = { s.belfry with thrLive := false } ∧ sameBeyondRegs (s.setBelfry t.belfry) t)

/-! ## The scheduled plane -/

/-- The plan state that checks a scheduled flit as it arrives (R100): that of the current tick, or that of the tick before it
while the flit's consumption offset has not passed. -/
def Sys2Proof.Machine.State.checkedBy (s : State) (link : Nat) (f : Flit) (p : PlanTick) : Prop :=
  (tickDiff (fullStamp s.now f.tick16) s.now = 0 ∧ p = s.planTick) ∨
    (tickDiff (fullStamp s.now f.tick16) s.now = -1 ∧ p = s.sched.prev ∧ s.sched.prev.tick = fullStamp s.now f.tick16 ∧
      (s.planTick.runs = true → ∀ o, s.flitTimeOf s.sched.prev link f = some o → s.offset ≤ flitOffset link o))

/-- Arrivals of scheduled flits. A flit that passes the check of R100 waits in its bank's landing region with its full stamp,
where there is room (R44, R45, R117); one that fails it, or finds no room, is discarded, counted, and sets PG_ERR of its Keep
(R100). One stamped with the next tick waits for that tick's plan state. One that the window of R46 does not admit is discarded,
counted, and sets the Belfry's SKEW. A bad header, and a module that is not joined, discard the flit (R43, R61). -/
def Obligations.ScheduledFlitLands : Prop :=
  ∀ (link st : Nat) (f : Flit) (s : State), link < 0x16 → f.kind = 0 → st = fullStamp s.now f.tick16 →
    (f.hcrcOk = false → ∃ t, exec (.scheduledFlitReceive link f) s = .next t ∧ sameBeyondReports s t ∧
      t.rd (pgKeep (keepOfLink link)) Kr.HDR_CRC_ERR 0 = (s.rd (pgKeep (keepOfLink link)) Kr.HDR_CRC_ERR 0 + 1) % 2 ^ 32 ∧
      errSet t (pgKeep (keepOfLink link)) 0) ∧
    (f.hcrcOk = true → s.joined = false → ∃ t, exec (.scheduledFlitReceive link f) s = .next t ∧ sameBeyondRegs s t ∧
      t.rd (pgKeep (keepOfLink link)) Slt.SCHED_DISCARD 0 =
        (s.rd (pgKeep (keepOfLink link)) Slt.SCHED_DISCARD 0 + 1) % 2 ^ 32) ∧
    (f.hcrcOk = true → s.joined = true →
      (∀ p, s.checkedBy link f p → s.schedOk p link st f = true →
        s.landedBytes (keepOfLink link) f.epoch + 256 ≤ s.landRoom (keepOfLink link) f.epoch →
        ∃ t, exec (.scheduledFlitReceive link f) s = .next t ∧ sameRegs s t ∧ t = { s with sched := t.sched } ∧
          t.sched.landing = s.sched.landing ++ [(link, st, f)] ∧
          t.schedCount link f.stream st = s.schedCount link f.stream st + 1) ∧
      (∀ p, s.checkedBy link f p → s.schedOk p link st f = false ∨
          s.landRoom (keepOfLink link) f.epoch < s.landedBytes (keepOfLink link) f.epoch + 256 →
        ∃ t, exec (.scheduledFlitReceive link f) s = .next t ∧ errSet t (pgKeep (keepOfLink link)) 13 ∧
          sameBeyondReports s t ∧ t.rd (pgKeep (keepOfLink link)) Slt.SCHED_DISCARD 0 =
            (s.rd (pgKeep (keepOfLink link)) Slt.SCHED_DISCARD 0 + 1) % 2 ^ 32) ∧
      (tickDiff st s.now = 1 → exec (.scheduledFlitReceive link f) s =
        .next (s.setSched { s.sched with landing := s.sched.landing ++ [(link, st, f)] })) ∧
      (tickDiff st s.now < -1 ∨ 1 < tickDiff st s.now →
        ∃ t, exec (.scheduledFlitReceive link f) s = .next t ∧ errSet t pgBelfry 0 ∧ sameBeyondReports s t ∧
          t.rd (pgKeep (keepOfLink link)) Slt.SCHED_DISCARD 0 =
            (s.rd (pgKeep (keepOfLink link)) Slt.SCHED_DISCARD 0 + 1) % 2 ^ 32) ∧
      (∀ o, tickDiff st s.now = -1 → s.sched.prev.tick = st → s.planTick.runs = true →
        s.flitTimeOf s.sched.prev link f = some o → flitOffset link o < s.offset →
        ∃ t, exec (.scheduledFlitReceive link f) s = .next t ∧ errSet t pgBelfry 0 ∧ sameBeyondReports s t ∧
          t.rd (pgKeep (keepOfLink link)) Slt.SCHED_DISCARD 0 =
            (s.rd (pgKeep (keepOfLink link)) Slt.SCHED_DISCARD 0 + 1) % 2 ^ 32))

/-- At its consumption offset a flit's position is consumed once, and the flit leaves the landing region: a stream that ends at a
unit here has its chunk for that unit, a missing flit is an overrun with cause MISSING, and the unit has a poisoned chunk
(R44–R46). Where no tick body binds the stream and the buffer reads good, no register, no memory and nothing else beyond the
scheduled plane, the overruns and the links changes. -/
def Obligations.FlitIsConsumedOnce : Prop :=
  ∀ (link sid o j : Nat) (m : List Byte) (s : State), s.consumeImage = some m →
    posOf (recvTimes m s.sched.prev link sid) o = some j → flitOffset link o ≤ s.offset →
    (s.sched.taken.contains (link, sid, j) = true → exec (.flitConsume link sid o) s = .next s) ∧
    (s.sched.taken.contains (link, sid, j) = false → ∃ t, exec (.flitConsume link sid o) s = .next t ∧
      t.sched.taken = (link, sid, j) :: s.sched.taken ∧
      t.landed link sid s.sched.prev.tick j = none ∧
      (∀ f r, s.landed link sid s.sched.prev.tick j = some f → (∀ e ∈ s.arrays.flits, e.place ≠ .landing link sid s.sched.prev.tick j) →
        imgStream m sid = some r → r.terminal = true → 0x10 ≤ r.sink → AL.get t.sched.inbox (sid, j) =
          some { op := f.opcode, poison := f.poison, bytes := padTo 240 f.payload, last := f.last, len := 16 * f.len }) ∧
      (s.landed link sid s.sched.prev.tick j = none → s.codedEnd m link sid s.sched.prev.tick j = false →
        t.belfry = { s.belfry with overruns := s.belfry.overruns ++
          [⟨if link < 16 then tyEndpoint else tyTorus, if link < 16 then link else link - 16, 3, link + 256 * min o 0xFFFF⟩] } ∧
        ∀ r, imgStream m sid = some r → r.terminal = true → 0x10 ≤ r.sink →
          ∃ c, AL.get t.sched.inbox (sid, j) = some c ∧ c.poison = true) ∧
      (s.bindersOf sid 0 = [] → (∀ e ∈ s.arrays.flits, e.place ≠ .landing link sid s.sched.prev.tick j) →
        sameRegs s t ∧ t = { s with sched := t.sched, belfry := t.belfry, links := t.links, out := t.out }))

/-! ## Frames -/

/-- Every command completes, and leaves as it was each part of the state that its row of `touches` does not list. -/
def Obligations.EachCommandKeepsTheRest : Prop :=
  ∀ (c : Instr) (s : State), ∃ t, exec c s = .next t ∧ keepsRest (touches c) s t

/-! ## The protected arrays -/

/-- The write-backs: a corrected granule that no write has reached becomes clean (R326); a merge entry idle for 16 cc is freed,
its granule clean (R330); a full stack's least recently written open entry is freed for an open request, whose wait is
counted: the least recently written of all its entries where all 64 are taken, else of the open ones (R330). Nothing else of the
arrays changes, and no byte of memory. The three rows complete in every state. -/
def Obligations.LinesAreWrittenBack : Prop :=
  (∀ (sp l : Nat) (s : State), l < 2 ^ 34 → ∃ t, exec (.correctedWriteback (sp * 2 ^ 34 + l)) s = .next t ∧
    t = { s with arrays := t.arrays } ∧ t.arrays.merge = s.arrays.merge ∧
    (s.arrays.corrected.contains (sp, l) = false → t.arrays = s.arrays) ∧
    (s.arrays.corrected.contains (sp, l) = true → t.decoded sp l = .clean ∧ t.arrays.corrected.contains (sp, l) = false ∧
      ∀ k, k ≠ (sp, l) → AL.get t.arrays.symErr k = AL.get s.arrays.symErr k)) ∧
  (∀ (line : Nat) (s : State), ∃ t, exec (.mergeWriteback line) s = .next t ∧ t = { s with arrays := t.arrays } ∧
    ((∀ m ∈ s.arrays.merge, m.line = line → s.clock < m.last + 16) → t = s) ∧
    (∀ m ∈ s.arrays.merge, m.line = line → m.last + 16 ≤ s.clock → t.mergeHeld line = false ∧
      t.decoded spHbm line = .clean ∧ ∀ n, n ≠ line → t.mergeHeld n = s.mergeHeld n)) ∧
  (∀ (st : Nat) (s : State), ∃ t, exec (.mergeEntryWait st) s = .next t ∧ sameBeyondRegs (s.setArrays t.arrays) t ∧
    (s.mergeFull false st = false → t = s) ∧
    (s.mergeFull false st = true → t.rd pgIntegrity Itg.MERGE_WAIT 0 = (s.rd pgIntegrity Itg.MERGE_WAIT 0 + 1) % 2 ^ 32 ∧
      ∀ m l, l = s.arrays.merge.filter (fun e => e.st = st) →
        oldestEntry (if 64 ≤ l.length then l else l.filter fun e => !e.plan) = some m →
        t.mergeHeld m.line = false ∧ ∀ n, n ≠ m.line → t.mergeHeld n = s.mergeHeld n))

/-- Patrol reads one line of an SRAM array (R332): a line that decodes as ADDRESS or UNCORRECTABLE is rewritten poisoned,
counted, and sets PG_ERR 1 or 0, with no tick fault; a CORRECTED one is counted and awaits its write-back; the others change
nothing. Of a Keep's buffer it meets a line of one of the Keep's held flits in error, or none (which one is free, log 202): a
corrected line is counted and good again, an ADDRESS or UNCORRECTABLE one counted and poisoned from then on. It has no effect on
other numbers. -/
def Obligations.PatrolReadsALine : Prop :=
  (∀ (l : Nat) (s : State), l < 2 ^ 22 → ∃ t, exec (.patrolRead (3 * 2 ^ 34 + l)) s = .next t ∧ t.watch = s.watch ∧
    t.mem = s.mem ∧
    (t = { s with free := s.free + 1 } ∨ ∃ e ∈ s.arrays.flits, e.place.keep = l / 2 ^ 20 ∧
      (e.outcome = .corrected ∧ t.arrays = { s.arrays with flits := s.arrays.flits.filter (· ≠ e) } ∧
          t.rd pgIntegrity Itg.PATROL_CORR 0 = (s.rd pgIntegrity Itg.PATROL_CORR 0 + 1) % 2 ^ 32 ∧
          t.rd pgIntegrity Itg.CORR_TOTAL 0 = (s.rd pgIntegrity Itg.CORR_TOTAL 0 + 1) % 2 ^ 32 ∨
        (e.outcome = .address ∨ e.outcome = .uncorrectable) ∧
          t.arrays = { s.arrays with flits := { e with errs := [(69, 0xA5)] } :: s.arrays.flits.filter (· ≠ e) } ∧
          t.rd pgIntegrity Itg.PATROL_UE 0 = (s.rd pgIntegrity Itg.PATROL_UE 0 + 1) % 2 ^ 32 ∧
          errSet t pgIntegrity (if e.outcome = .address then 1 else 0))) ∧
    ((∀ e ∈ s.arrays.flits, e.place.keep = l / 2 ^ 20 → e.outcome = .clean ∨ e.outcome = .poisoned) →
      t = { s with free := s.free + 1 })) ∧
  (∀ (sp l : Nat) (s : State), l < 2 ^ 34 → sp ≠ spTile → sp ≠ spDrum → sp ≠ 3 ∨ 2 ^ 22 ≤ l →
    exec (.patrolRead (sp * 2 ^ 34 + l)) s = .next s) ∧
  ∀ (sp l : Nat) (s : State), l < 2 ^ 34 → sp = spTile ∨ sp = spDrum → ∃ t, exec (.patrolRead (sp * 2 ^ 34 + l)) s = .next t ∧
    t.watch = s.watch ∧
    (s.decoded sp l = .uncorrectable → t.decoded sp l = .poisoned ∧ errSet t pgIntegrity 0 ∧
      ∀ k, k ≠ (sp, l) → AL.get t.arrays.symErr k = AL.get s.arrays.symErr k) ∧
    (s.decoded sp l = .address → t.decoded sp l = .poisoned ∧ errSet t pgIntegrity 1 ∧
      ∀ k, k ≠ (sp, l) → AL.get t.arrays.symErr k = AL.get s.arrays.symErr k) ∧
    (s.decoded sp l = .corrected → t.arrays.corrected.contains (sp, l) = true ∧ t.mem = s.mem ∧
      t.rd pgIntegrity Itg.PATROL_CORR 0 = (s.rd pgIntegrity Itg.PATROL_CORR 0 + 1) % 2 ^ 32 ∧
      t.rd pgIntegrity Itg.CORR_TOTAL 0 = (s.rd pgIntegrity Itg.CORR_TOTAL 0 + 1) % 2 ^ 32) ∧
    (s.decoded sp l = .clean ∨ s.decoded sp l = .poisoned → t = s)

/-- A held line that has been idle ATOM_IDLE ticks is written back and freed: HBM's granule takes the window's 64 bytes, and no
other byte changes; a window line found bad poisons the granule and sets PG_ERR 1 of the Drum's page (R195, R196).
The row completes. -/
def Obligations.IdleAtomsReturnToHbm : Prop :=
  ∀ (line : Nat) (s : State), ∃ t, exec (.atomIdleWriteback line) s = .next t ∧
    (∀ a, s.atomHeld line = some a → s.atomIdle a = true → a.line = line ∧ t.atoms = s.atoms.filter (· ≠ a) ∧
      (s.atomBad spDrum (s.atomLine a) = false → memWf s.mem = true →
        t.peek spHbm (64 * line) 64 = s.peek spDrum (64 * s.atomLine a) 64 ∧ storesOnly s t spHbm (64 * line) 64 ∧
        t.rd (pgDrum a.c) Drm.ATOM_WB 0 = (s.rd (pgDrum a.c) Drm.ATOM_WB 0 + 1) % 2 ^ 32) ∧
      (s.atomBad spDrum (s.atomLine a) = true → t.decoded spHbm line = .poisoned ∧ errSet t (pgDrum a.c) 1)) ∧
    (∀ a, s.atomHeld line = some a → s.atomIdle a = false → t = s) ∧ (s.atomHeld line = none → t = s)

/-- A flush of a Drum's window writes back and frees every line it holds, and only those; FLUSHING is 0 after it (R196). A write of
ATOM_WIN that asks for more than 256 pages, or comes while a plan bank is not EMPTY, is refused with PG_ERR 2 or 0; another
flushes the window and sets it. The two rows complete. -/
def Obligations.WindowsFlushAndResize : Prop :=
  (∀ (c : Nat) (s : State), ∃ t, exec (.atomFlush c) s = .next t ∧
    (c < 8 → t.atoms = s.atoms.filter (·.c ≠ c) ∧ t.rd (pgDrum c) Drm.FLUSHING 0 = 0) ∧ (8 ≤ c → t = s)) ∧
  ∀ (c v : Nat) (s : State), c < 8 → ∃ t, exec (.atomWinWrite c v) s = .next t ∧
    (256 < v % 512 → errSet t (pgDrum c) 2 ∧ sameBeyondReports s t) ∧
    (v % 512 ≤ 256 → s.banksEmpty = false → errSet t (pgDrum c) 0 ∧ sameBeyondReports s t) ∧
    (v % 512 ≤ 256 → s.banksEmpty = true → t.rd (pgDrum c) Drm.ATOM_WIN 0 = v % 512 ∧ t.rd (pgDrum c) Drm.WIN_CUR 0 = v % 512 ∧
      t.atoms = s.atoms.filter (·.c ≠ c))

/-- FST_READ copies the frame-table entry that FST_INDEX names into FST_DATA (R308); a write of CLIP_CLR clears the unit's
ARITH_CLIP_CNT (R170). Nothing else changes. The two rows complete. -/
def Obligations.EntryReadAndClipClear : Prop :=
  (∀ s : State, ∃ t, exec .fstRead s = .next t ∧
    (∀ w, w < 8 → t.rd (pgKeep 0) Fst.FST_DATA w = fw (s.fstEntry (s.rd (pgKeep 0) Fst.FST_INDEX 0)) w % 2 ^ 32) ∧
    onlyRegs ((List.range 8).map fun w => rkey (pgKeep 0) Fst.FST_DATA w) s t) ∧
  ∀ (u : AUnit) (s : State), pageValid (auPage u) = true → ∃ t, exec (.clipClr u) s = .next t ∧
    t.rd (auPage u) Ari.ARITH_CLIP_CNT 0 = 0 ∧ onlyRegs [rkey (auPage u) Ari.ARITH_CLIP_CNT 0] s t

/-- FST_COMMIT replaces the entry of FST_INDEX by FST_DATA (PIN stays) where Table 12.1's checks pass; where one fails the table
stays, and the first refusal is recorded with its code and index (R308). The row completes. -/
def Obligations.FrameTableCommit : Prop :=
  ∀ s : State, ∃ t, exec .fstCommit s = .next t ∧
    (s.fstRefusal (s.rd (pgKeep 0) Fst.FST_INDEX 0) (s.fstData (s.rd (pgKeep 0) Fst.FST_INDEX 0)) = none →
      fstMirrored (s.fstData (s.rd (pgKeep 0) Fst.FST_INDEX 0)) = false →
      t = { s with fst := t.fst } ∧
      ∀ i, t.fstEntry i = if i = s.rd (pgKeep 0) Fst.FST_INDEX 0 then s.fstData i else s.fstEntry i) ∧
    (∀ code, s.fstRefusal (s.rd (pgKeep 0) Fst.FST_INDEX 0) (s.fstData (s.rd (pgKeep 0) Fst.FST_INDEX 0)) = some code →
      sameBeyondRegs s t ∧ (s.rdb (pgKeep 0) Fst.FST_ERR_V 0 = true → onlyRegs [] s t) ∧
      (s.rdb (pgKeep 0) Fst.FST_ERR_V 0 = false → t.rd (pgKeep 0) Fst.FST_ERR_V 0 = 1 ∧
        t.rd (pgKeep 0) Fst.FST_ERR 0 = code % 16 ∧
        t.rd (pgKeep 0) Fst.FST_ERR_IDX 0 = s.rd (pgKeep 0) Fst.FST_INDEX 0 % 4096))

/-- A 32-bit wrapping counter of a page has counted `n`. -/
def Sys2Proof.Machine.counted (s t : State) (p : PageId) (r : Reg) (n : Nat) : Prop :=
  t.rd p r 0 = (s.rd p r 0 + n) % 2 ^ 32

/-! ## Planned units -/

/-- No line is in error, no lane errs, and memory is in its canonical form. -/
abbrev Sys2Proof.Machine.State.plain (s : State) : Prop := s.arrays.symErr = [] ∧ s.arrays.lanes = [] ∧ memWf s.mem = true

/-- The command of a collective operation. -/
def Sys2Proof.Machine.ceCommand (op ce slot : Nat) : Instr :=
  match op with
  | 1 => .ceReduce ce slot | 2 => .ceAllReduce ce slot | 3 => .ceReduceScatter ce slot | 4 => .ceAllGather ce slot
  | 5 => .ceBroadcast ce slot | 6 => .ceAllToAll ce slot | 7 => .ceGatherIdx ce slot | 8 => .ceScatterIdx ce slot
  | 9 => .ceSortMerge ce slot | 10 => .ceTopkMerge ce slot | 11 => .ceScan ce slot | _ => .ceAttnCombine ce slot

/-- Every input that a collective's step needs at this module besides its streams' slices is here: leaves and the partials of
children on other modules. The indexed moves need none, and merges are made whole in a run's last step (log 19). -/
abbrev Sys2Proof.Machine.State.ceInputs (s : State) (c : CeCtx) : Prop :=
  if c.d.op ≤ 5 then ∀ g ∈ c.groups, (s.groupTrees c g).isSome = true
  else if c.d.op ≤ 8 then True
  else if c.d.op ≤ 10 then c.last = false ∨ ∀ g ∈ c.groups, ∀ v ∈ c.tops g 0, (s.nodeRecs c g 100 v).isSome = true
  else ∀ g ∈ c.groups, ∀ v ∈ c.tops g 0, (s.nodeRows c g 100 v).isSome = true

/-- A collective's step can be made: its streams have brought their slices (R175, R183), which leaves the run as `c` has it with the
results `downs` from parents, and its inputs are here. -/
abbrev Sys2Proof.Machine.State.ceReady (s : State) (c0 c : CeCtx) (downs : List DownIn) : Prop :=
  if c0.d.op = 11 then s.leavesIn c0 = true ∧ c = c0 ∧ downs = [] else s.takeSlices c0 = some (c, downs) ∧ s.ceInputs c

/-- What a step stores: the first byte's offset in the operand, the bytes, and whether an element is poisoned. -/
def Sys2Proof.Machine.CeCtx.stored (c : CeCtx) (i : Nat) (r : Res) : Nat × List Byte × Bool :=
  (i * fmtBits c.d.outFmt / 8, pack c.d.outFmt (r.encs.map Prod.fst), r.encs.any Prod.snd)

/-- A table row after SCATTER_IDX: the last contribution, or all of them folded onto the stored row in ascending source, each
rounded once (R187). -/
def Sys2Proof.Machine.State.scattered (s : State) (c : CeCtx) (m : Member) (va i : Nat) : Res :=
  let cs := s.contributions c m.grp (m.rank * c.d.e + i)
  let old := s.tableRow c va i
  if cs.isEmpty then { encs := old.map fun e => (e.1.enc, e.2), scales := [] }
  else if c.d.red = 0 then
    (convEls c.d.outFmt c.d.outMx (s.sat c.au) (((cs.getLast?).map fun y => y.2.els).getD [])).1
  else
    (roundRes c.d.outFmt c.d.outMx (s.sat c.au) (i * c.d.p0) (cs.foldl (fun (a : List CV) y =>
      (combineAll c.errs c.d.red (i * c.d.p0) y.1 a (toCV (y.2.els.map Prod.fst))).1) (toCV old))).1

/-- What a step stores in the HBM operand of a module's one member: the slice of the tree's result (R175, R179, R182, R185), the
rows that its routes or indices name (R186, R187), its table row after the scatter, the merged run (R188), the prefix of its rank
(R189), or the combined rows (R190). -/
def Sys2Proof.Machine.State.ceStored (s : State) (c : CeCtx) (m : Member) (va : Nat) : Nat × List Byte × Bool :=
  if c.d.op ≤ 5 then
    match ((s.groupTrees c m.grp).getD []).filter fun x => x.2.res.isSome && (c.d.op ≠ 3 || x.1 = m.rank) with
    | [x] => c.stored (c.resultAt x.1 c.run.k) ((x.2.res.map Prod.snd).getD { encs := [], scales := [] })
    | _ => (0, [], true)
  else if c.d.op = 6 then
    c.stored 0 (c.moveRows (s.sat c.au) (((List.range c.d.n).flatMap fun src => s.rowsFrom c m.grp src m.rank).map fun r =>
      r.poison (s.indexBad c m (c.d.e * (c.d.p1 % 65536))))).1
  else if c.d.op = 7 then
    c.stored 0 (c.moveRows (s.sat c.au) ((List.range c.d.p1).map fun i => s.gatherRow c m i)).1
  else if c.d.op = 8 then
    (0, pack c.d.outFmt ((s.scattered c m va 0).encs.map Prod.fst),
      s.indexBad c m c.d.p1 || c.d.e ≠ 1 || (s.scattered c m va 0).encs.any Prod.snd)
  else if c.d.op ≤ 10 then
    match s.nodeRecs c m.grp 100 0 with
    | some x => (0, recBytes x.1, x.1.any Rec.bad || m.rank ≠ 0)
    | none => (0, [], true)
  else if c.d.op = 11 then
    let x := s.scanVals c m.grp (if c.d.excl then m.rank else m.rank + 1) 100 0
    let sl := c.d.treeSlice 0 c.run.k
    c.stored sl.1 (if x.2.2 then s.scanOpen c m sl.2 (x.1.getD [])
      else (roundRes c.d.outFmt c.d.outMx (s.sat c.au) sl.1
        (x.1.getD (List.replicate sl.2 (scanIdentity c.d.red c.d.outFmt, false)))).1)
  else
    match s.nodeRows c m.grp 100 0 with
    | some x =>
      let first := (sliceOf c.d.e c.d.chunkE c.run.k).1
      let fin := (List.range x.1.length).map fun j =>
        rowResult c.errs c.d.norm c.d.outFmt c.d.outMx (s.sat c.au) (first + j) (x.1.getD j ⟨.nan, .nan, [], true⟩)
      (first * c.d.rowLen, fin.flatMap fun y => y.2.1, fin.any (fun y => y.1.bad) || m.rank ≠ 0)
    | none => (0, [], true)

/-- The step is one whose results lie in a pinned HBM operand at `va` alone: this module has one member, no slice of a result
comes from a parent, the operand is dense in a format of whole bytes, unfrozen and clean, no tag is carried, and a merge or an
indexed move is in its last step. -/
abbrev Sys2Proof.Machine.State.ceOneOperand (s : State) (c : CeCtx) (downs : List DownIn) (m : Member) (va : Nat) : Prop :=
  c.hosted = [m] ∧ downs = [] ∧ (bindFor c.l .result m.grp 0 m.rank).map (fun b => (b.kind, b.val)) = some (4, va) ∧
    c.d.receives m.rank = true ∧ c.d.carry = false ∧ c.d.outMx = false ∧ fmtBits c.d.outFmt % 8 = 0 ∧
    (c.d.op = 4 ∨ c.d.op = 5 → c.d.inMx = false) ∧ (6 ≤ c.d.op → c.d.op ≤ 10 → c.last = true) ∧ s.vaFrozen va = false ∧ s.arrays.symErr = [] ∧ memWf s.mem = true

/-- A collective's command completes the slice of the open run whose descriptor has its operation, once its inputs are here, and
has no effect otherwise (R173, R175, R179–R190). Where the module's one member has its result in HBM and nothing is poisoned, its
operand then holds the operation's results, and no other byte changes but for ALL_TO_ALL's row counts. The twelve rows complete.
-/
def Obligations.CollectiveStepsComplete : Prop :=
  ∀ (op ce slot : Nat) (s : State), 1 ≤ op → op ≤ 12 →
    (∀ r c downs, s.openRun 1 ce slot = some r → (descOf r.obj).op = op → s.ceReady (s.ceCtx r) c downs →
      ∃ t, exec (ceCommand op ce slot) s = .next t ∧ sliceDone s t 1 ce slot ∧
        ∀ m va o l, s.ceOneOperand c downs m va → s.ceStored c m va = (o, l, false) → s.vaLoc va + o + l.length ≤ 2 ^ 40 →
          (op ≠ 6 → t.peek spHbm (s.vaLoc va + o) l.length = l ∧ storesOnly s t spHbm (s.vaLoc va + o) l.length) ∧
          (op = 6 → (∀ x ∈ c.l, x.1.role = .counts →
              s.vaLoc x.2.val + 4 * c.d.n ≤ s.vaLoc va + o ∨ s.vaLoc va + o + l.length ≤ s.vaLoc x.2.val) →
            t.peek spHbm (s.vaLoc va + o) l.length = l)) ∧
    (∀ r, s.openRun 1 ce slot = some r → (descOf r.obj).op = op → (∀ c downs, ¬ s.ceReady (s.ceCtx r) c downs) →
      exec (ceCommand op ce slot) s = .next s) ∧
    (∀ r, s.openRun 1 ce slot = some r → (descOf r.obj).op ≠ op → exec (ceCommand op ce slot) s = .next s) ∧
    (s.openRun 1 ce slot = none → exec (ceCommand op ce slot) s = .next s)

/-- The blocks of a slice of a job, as its source has them. -/
def Sys2Proof.Machine.State.jobBlks (s : State) (r : Run) : List Blk :=
  (List.range ((jobOf r.obj).blocks r.k).2).map fun i => s.srcBlk (jobOf r.obj) (((jobOf r.obj).blocks r.k).1 + i)

/-- The blocks that a coded slice of a STORE holds (R212). -/
def Sys2Proof.Machine.codedBlks (r : Run) (ch : List Chunk) : List (List Blk) :=
  let ns := nblks ((jobOf r.obj).blocks r.k).2
  (List.range ns.length).map fun i =>
    recBlks (ns.getD i 0) ((parseChunks (jobOf r.obj).f (jobOf r.obj).mx ns ch).getD i none)

/-- The encodings of the elements of blocks, as bytes. -/
def Sys2Proof.Machine.blkBytesOf (f : Nat) (l : List Blk) : List Byte := pack f (l.flatMap Blk.elems)

/-- A job's dense destination without scales, of which blocks from `b` on are written: it is pinned, unfrozen and clean. -/
abbrev Sys2Proof.Machine.State.denseDst (s : State) (j : Job) : Prop :=
  j.mx = false ∧ sparseFmt j.f j.mx = true ∧ s.vaFrozen j.dst = false ∧ s.arrays.symErr = [] ∧ memWf s.mem = true

/-- The codec's jobs complete the slice of the open run that has their JOB; a STORE waits for its coded slice (R207, R218, R220). An
ENCODE stages its blocks' records, within the reservation, on its stream (R209–R214). An EXPAND, and a STORE to a dense operand,
leave the blocks' elements there, and no other byte changes; a STORE to a sparse segment ends with the segment's header, or
with PG_ERR 3 where a run would pass its end, and stores nothing from then on (R207). A PACK24 leaves the two kept elements of
each group, and their nibbles (R218). The four rows complete. -/
def Obligations.CodecSlicesComplete : Prop :=
  ∀ (c slot : Nat) (r : Run) (j : Job) (s : State), s.openRun 4 (0x100 + c) slot = some r → j = jobOf r.obj →
    (leAt r.obj 0 1 = 1 → ∃ t, exec (.codecEncode c slot) s = .next t ∧ sliceDone s t 4 (0x100 + c) slot ∧ (s.plain → t.mem = s.mem) ∧
      ((∀ x ∈ s.arrays.records, x.1 = c → x.2.1 ≠ j.sid) → t.sched.outbox = s.sched.outbox ++ [(j.sid,
        fitChunks ((s.runStream r j.sid).chunks + (s.runStream r j.sid).ovf) (codedChunks
          (encodeSlice j.f j.mx ((j.blocks r.k).1 / 64) (tilesIn ((s.jobBlks r).map (Blk.norm j.f j.mx))) [])))])) ∧
    (leAt r.obj 0 1 = 2 → s.codedIn j.sid ((s.runStream r j.sid).chunks + (s.runStream r j.sid).ovf) = none →
      exec (.codecStore c slot) s = .next s) ∧
    (∀ ch, leAt r.obj 0 1 = 2 → s.codedIn j.sid ((s.runStream r j.sid).chunks + (s.runStream r j.sid).ovf) = some ch →
      ∃ t, exec (.codecStore c slot) s = .next t ∧ sliceDone s t 4 (0x100 + c) slot ∧
        (r.stop = true → t.mem = s.mem) ∧
        (∀ a l, r.stop = false → s.sparseAt j.dst = none → s.denseDst j → ((codedBlks r ch).flatten.all fun b => !b.bad) = true →
          a = s.vaLoc j.dst + 32 * (j.blocks r.k).1 * fmtBits j.f / 8 → l = blkBytesOf j.f (codedBlks r ch).flatten →
          (∀ b ∈ (codedBlks r ch).flatten, b.elems.length = 32) → a + l.length ≤ 2 ^ 40 →
          t.peek spHbm a l.length = l ∧ storesOnly s t spHbm a l.length) ∧
        (∀ g a, r.stop = false → s.sparseAt j.dst = some g → r.k + 1 = j.nsteps →
          s.vaFrozen (j.dst - (s.vaLoc j.dst - g.base)) = false → memWf s.mem = true →
          a = s.vaLoc (j.dst - (s.vaLoc j.dst - g.base)) → a + 20 ≤ 2 ^ 40 →
          (∃ p, t.peek spHbm a 20 = storeHead j p) ∨ errSet t (pgCodec c) 3)) ∧
    (leAt r.obj 0 1 = 3 → ∃ t, exec (.codecPack24 c slot) s = .next t ∧ sliceDone s t 4 (0x100 + c) slot ∧
      (∀ a n gs l m, s.denseDst j → ((s.jobBlks r).all fun b => !b.bad && b.elems.length = 32) = true →
        gs = (s.jobBlks r).flatMap (fun b => (List.range 8).map fun i => packGroup j.f ((b.elems.drop (4 * i)).take 4)) →
        (j.prune = true ∨ ∀ g ∈ gs, g.nz ≤ 2) → 32 * ((j.blocks r.k).1 + (j.blocks r.k).2) ≤ j.e →
        a = s.vaLoc j.dst + 16 * (j.blocks r.k).1 * fmtBits j.f / 8 → n = s.vaLoc j.dst + nibOff j.f j.e + 4 * (j.blocks r.k).1 →
        l = pack j.f (gs.flatMap Pack24.vals) → m = pack fINT4 (gs.map Pack24.nib) → n + m.length ≤ 2 ^ 40 →
        t.peek spHbm a l.length = l ∧ t.peek spHbm n m.length = m)) ∧
    (leAt r.obj 0 1 = 4 → ∃ t, exec (.codecExpand c slot) s = .next t ∧ sliceDone s t 4 (0x100 + c) slot ∧
      (∀ a l, s.denseDst j → ((s.jobBlks r).all fun b => !b.bad && b.elems.length = 32) = true →
        a = s.vaLoc j.dst + 32 * (j.blocks r.k).1 * fmtBits j.f / 8 → l = blkBytesOf j.f (s.jobBlks r) → a + l.length ≤ 2 ^ 40 →
        t.peek spHbm a l.length = l ∧ storesOnly s t spHbm a l.length))

/-- The stack mover's transfers complete their slices: an OUT stages the slice's bytes on its stream; a COPY and an IN store theirs
at the destination, where nothing reads bad or is frozen, and no other byte changes (R316, R318). They read bytes as planned units
do (R380, R381). An IN waits for its slice. The three rows complete. -/
def Obligations.StackTransfersMoveBytes : Prop :=
  ∀ (st slot : Nat) (r : Run) (s : State), st < 16 → s.openRun 4 st slot = some r →
    (leAt r.obj 0 1 = 1 → ∃ t, exec (.stackMoverOut st slot) s = .next t ∧ sliceDone s t 4 st slot ∧
      (((xferOf r.obj).slice r.k).2 ≠ 0 → ∃ l, t.sched.outbox = s.sched.outbox ++ [((xferOf r.obj).sid, l)] ∧
        l.flatMap Chunk.bytes = (cutChunks 0 (s.planPeek spHbm (s.vaLoc (xferOf r.obj).src + ((xferOf r.obj).slice r.k).1)
          ((xferOf r.obj).slice r.k).2) fun _ => false).flatMap Chunk.bytes)) ∧
    (leAt r.obj 0 1 = 2 → r.k = 0 → ∃ t, exec (.stackMoverIn st slot) s = .next t ∧ sliceDone s t 4 st slot ∧ t.mem = s.mem) ∧
    (leAt r.obj 0 1 = 2 → r.k ≠ 0 → s.sliceIn (xferOf r.obj).sid (cdiv ((xferOf r.obj).slice (r.k - 1)).2 240) = none →
      exec (.stackMoverIn st slot) s = .next s) ∧
    (∀ l off n, leAt r.obj 0 1 = 2 → r.k ≠ 0 → (off, n) = (xferOf r.obj).slice (r.k - 1) →
      s.sliceIn (xferOf r.obj).sid (cdiv n 240) = some l →
      ∃ t, exec (.stackMoverIn st slot) s = .next t ∧ sliceDone s t 4 st slot ∧
        (memWf s.mem = true → s.vaFrozen (xferOf r.obj).dst = false → l.all (fun c => !c.poison) = true →
          n ≤ (chunkBytes l).length → s.vaLoc (xferOf r.obj).dst + off + n ≤ 2 ^ 40 →
          s.badAt spHbm (s.vaLoc (xferOf r.obj).dst + off) n = false →
          t.peek spHbm (s.vaLoc (xferOf r.obj).dst + off) n = (chunkBytes l).take n ∧
          storesOnly s t spHbm (s.vaLoc (xferOf r.obj).dst + off) n)) ∧
    (∀ off n, leAt r.obj 0 1 = 3 → (off, n) = (xferOf r.obj).slice r.k →
      ∃ t, exec (.stackMoverCopy st slot) s = .next t ∧ sliceDone s t 4 st slot ∧
        (memWf s.mem = true → s.vaFrozen (xferOf r.obj).dst = false → s.vaLoc (xferOf r.obj).dst + off + n ≤ 2 ^ 40 →
          s.badAt spHbm (s.vaLoc (xferOf r.obj).src + off) n = false →
          s.badAt spHbm (s.vaLoc (xferOf r.obj).dst + off) n = false →
          t.peek spHbm (s.vaLoc (xferOf r.obj).dst + off) n = s.planPeek spHbm (s.vaLoc (xferOf r.obj).src + off) n ∧
          storesOnly s t spHbm (s.vaLoc (xferOf r.obj).dst + off) n))

/-- The parameters [a, b) of entry `e` are the slice's only part, and its shard's class was decided in an earlier slice (Table
11.5); its stream offset `o` lies behind the header, and its elements are whole bytes. -/
abbrev Sys2Proof.Machine.UCtx.onePart (x : UCtx) (e a b cls p tag : Nat) (sh : Shard) (o f : Nat) : Prop :=
  x.parts = [(e, a, b)] ∧ x.r.k ≠ 0 ∧ a < b ∧ x.r.classes.find? (fun y => y.idx = e) = some ⟨e, cls, p, tag⟩ ∧ p ≤ a ∧
    x.o.shards[e]? = some sh ∧ x.r.torn.contains e = false ∧ x.r.frz.contains e = false ∧ x.r.stop = false ∧
    uWritten x.prog = [(o, f)] ∧ 64 ≤ o ∧ fmtBits f % 8 = 0

/-- The sum of a NORM's squares behind a part: the gradient's elements squared into the partial (R154, R284). -/
def Sys2Proof.Machine.State.normSum (s : State) (x : UCtx) (e a b gloc f : Nat) : Nat :=
  (x.addTerms e (((List.range (b - a)).map (a + ·)).map fun i => spwEnc (squareTerm f e i (s.hbmElem gloc f i)).1)
    (b = x.ps.getD e 0)).1.r.acc

/-- The sum of the partials of a FOLD's slice, in their order (R285). -/
def Sys2Proof.Machine.State.foldSum (s : State) (x : UCtx) : Nat :=
  let sl := sliceOf x.o.npart x.o.chunkE x.r.k
  ((List.range sl.2).map (sl.1 + ·)).foldl (fun acc i =>
    let v := decodeVal fSPW96 (s.planPeekN spHbm (s.vaLoc x.o.norm + 16 * i) 12)
    spwEnc (if i = 0 then v else (spwAdd (decodeVal fSPW96 acc) v).val)) x.r.acc

/-- An update engine's passes complete the slice of the open run that has their PASS; a STAGE waits for its chunks. At the first
slice NORM and APPLY latch the tag step of their first entry (R282, R284–R293). A NORM's run holds the sum of the squares, a
FOLD's that of the partials, and the last slice writes it to the cell (R278, R284, R285). A part that an APPLY updates holds the
program's values, with the header of R276 behind it; a part staged holds the stream's bytes (R292), and a part committed those of
the staging segment, with its header at the shard's end (R293). The five rows complete. -/
def Obligations.UpdatePassesComplete : Prop :=
  ∀ (c slot : Nat) (r : Run) (x : UCtx) (s : State), s.openRun 3 c slot = some r → x = s.ueCtx c r →
    (leAt r.obj 0 1 = 1 → ∃ t q, exec (.ueNorm c slot) s = .next t ∧ sliceDone s t 3 c slot ∧
      (r.k = 0 → AL.get t.ueStep c = some (s.passTag x)) ∧ q ∈ t.runs ∧ q.isAt 3 c slot = true ∧
      (x.parts = [] → q.acc = r.acc) ∧
      (∀ e a b cls tag sh f p, s.plain → x.parts = [(e, a, b)] → r.k ≠ 0 → cls ≤ 2 →
        x.r.classes.find? (fun y => y.idx = e) = some ⟨e, cls, p, tag⟩ → x.o.shards[e]? = some sh → sh.nonorm = false →
        uGradFmt (normProg (s.runImage r) r.obj c sh.seg) = some f → q.acc = s.normSum x e a b (s.vaLoc sh.grad) f) ∧
      (x.last = true → q.bad = false → s.plain → s.vaFrozen x.o.norm = false → s.vaLoc x.o.norm + 16 ≤ 2 ^ 40 →
        t.peek spHbm (s.vaLoc x.o.norm) 16 = leBytes 12 q.acc ++ List.replicate 4 0 ∧
        storesOnly s t spHbm (s.vaLoc x.o.norm) 16)) ∧
    (leAt r.obj 0 1 = 2 → ∃ t, exec (.ueApply c slot) s = .next t ∧ sliceDone s t 3 c slot ∧
      (r.k = 0 → AL.get t.ueStep c = some (s.passTag x)) ∧
      ∀ e a b p tag sh o f w ps, s.plain → x.onePart e a b 1 p tag sh o f → w = s.vaLoc sh.seg → w + o + b * fmtBytes f ≤ 2 ^ 40 →
        tag < 2 ^ 48 → b < 2 ^ 32 → s.rd (pgUe c) Ari.NAN_ACT 0 = 0 →
        ps = (List.range (b - a)).map (fun i => s.uParam x ⟨e, a + i, w, s.vaLoc sh.grad, tag⟩) → (ps.any UPar.read) = false →
        (∀ p ∈ ps, ∀ v, AL.get p.cur (o, f) = some v → v.bad = false) →
        t.peek spHbm (w + o + a * fmtBytes f) ((b - a) * fmtBytes f) =
          pack f (ps.map fun p => ((AL.get p.cur (o, f)).map UVal.enc).getD 0) ∧
        bit (t.peekN spHbm (w + 6) 1) 0 = false ∧
        t.peekN spHbm (w + 8) 8 = (if b = x.ps.getD e 0 then tag else s.planPeekN spHbm (w + 8) 8) ∧
        t.peekN spHbm (w + 0x10) 4 = (if b = x.ps.getD e 0 then 0 else b) ∧ counted s t (pgUe c) Ue.APPLIED (b - a)) ∧
    (leAt r.obj 0 1 = 3 → ∃ t q, exec (.ueFold c slot) s = .next t ∧ sliceDone s t 3 c slot ∧
      q ∈ t.runs ∧ q.isAt 3 c slot = true ∧ q.acc = s.foldSum x ∧
      (x.last = true → q.bad = false → s.plain → s.vaFrozen x.o.out = false → s.vaLoc x.o.out + 16 ≤ 2 ^ 40 →
        t.peek spHbm (s.vaLoc x.o.out) 16 = leBytes 12 q.acc ++ List.replicate 4 0 ∧
        storesOnly s t spHbm (s.vaLoc x.o.out) 16)) ∧
    (leAt r.obj 0 1 = 4 → s.sliceIn x.o.sid (s.runStream r x.o.sid).chunks = none → exec (.ueStage c slot) s = .next s) ∧
    (∀ ch, leAt r.obj 0 1 = 4 → s.sliceIn x.o.sid (s.runStream r x.o.sid).chunks = some ch →
      ∃ t, exec (.ueStage c slot) s = .next t ∧ sliceDone s t 3 c slot ∧
        ∀ e a b sh o f w n, s.plain → x.parts = [(e, a, b)] → x.o.shards[e]? = some sh → x.r.frz.contains e = false →
          uWritten x.prog = [(o, f)] → 64 ≤ o → fmtBits f % 8 = 0 → (ch.all fun y => !y.poison && y.bytes.length = 240) = true →
          16 + cdiv ((b - a) * fmtBytes f) 16 * 16 ≤ 240 * ch.length → w = s.vaLoc sh.grad → w + o + b * fmtBytes f ≤ 2 ^ 40 →
          n = leNat (slice (chunkBytes ch) 0 6) →
          t.peek spHbm (w + o + a * fmtBytes f) ((b - a) * fmtBytes f) = slice (chunkBytes ch) 16 ((b - a) * fmtBytes f) ∧
          (x.r.tag ≠ none → x.r.tag ≠ some n → counted s t (pgUe c) Ue.STAGE_BAD 1) ∧
          (x.r.tag = none ∨ x.r.tag = some n → x.r.torn.contains e = false → bit (t.peekN spHbm (w + 6) 1) 0 = false ∧
            t.peekN spHbm (w + 8) 8 = (if b = x.ps.getD e 0 then n else s.planPeekN spHbm (w + 8) 8))) ∧
    (leAt r.obj 0 1 = 5 → ∃ t, exec (.ueCommit c slot) s = .next t ∧ sliceDone s t 3 c slot ∧
      ∀ e a b p tag sh o f w, s.plain → x.onePart e a b 1 p tag sh o f → w = s.vaLoc sh.seg → w + o + b * fmtBytes f ≤ 2 ^ 40 →
        s.vaLoc sh.grad + o + b * fmtBytes f ≤ 2 ^ 40 →
        w + o + b * fmtBytes f ≤ s.vaLoc sh.grad ∨ s.vaLoc sh.grad + o + b * fmtBytes f ≤ w →
        t.peek spHbm (w + o + a * fmtBytes f) ((b - a) * fmtBytes f) =
          s.planPeek spHbm (s.vaLoc sh.grad + o + a * fmtBytes f) ((b - a) * fmtBytes f) ∧
        (b = x.ps.getD e 0 → t.peek spHbm w 64 = s.planPeek spHbm (s.vaLoc sh.grad) 64 ∧ counted s t (pgUe c) Ue.COMMITTED 1))

/-- The restore check: only Watch (unit 3) starts one, and none while one runs; when it is done CHK_SUM and CHK_NORM hold the sums
over the segment that CHK_BASE and CHK_SIZE name (R365, Table 11.7). The two rows complete. -/
def Obligations.RestoreCheckRuns : Prop :=
  (∀ (c unit : Nat) (s : State), c < 8 → ∃ t, exec (.chkGo c unit) s = .next t ∧
    (unit = 3 → s.rd (pgUe c) Ue.CHK_STATE 0 ≠ 1 → t.rd (pgUe c) Ue.CHK_STATE 0 = 1 ∧ t.rd (pgUe c) Ari.SVC 0 = 3 ∧
      onlyRegs [rkey (pgUe c) Ue.CHK_STATE 0, rkey (pgUe c) Ari.SVC 0] s t) ∧
    (unit ≠ 3 ∨ s.rd (pgUe c) Ue.CHK_STATE 0 = 1 → t = s)) ∧
  (∀ (c : Nat) (s : State), c < 8 → ∃ t, exec (.chkDone c) s = .next t ∧
    (s.rd (pgUe c) Ue.CHK_STATE 0 = 1 → t.rd (pgUe c) Ue.CHK_STATE 0 = 2 ∧ t.rd (pgUe c) Ari.SVC 0 = 0 ∧
      t.rd (pgUe c) Ue.CHK_SUM_LO 0 = (s.chkValues (s.chkBase c) (s.rd (pgUe c) Ue.CHK_SIZE 0)).1 % 2 ^ 32 ∧
      t.rd (pgUe c) Ue.CHK_NORM_LO 0 = (s.chkValues (s.chkBase c) (s.rd (pgUe c) Ue.CHK_SIZE 0)).2 % 2 ^ 32) ∧
    (s.rd (pgUe c) Ue.CHK_STATE 0 ≠ 1 → t = s))

/-- The needs and bindings by which a collective takes the partials of a child rank. -/
def Sys2Proof.Machine.CeCtx.childBinds (c : CeCtx) (rank : Nat) : List (Need × Bind) :=
  c.l.filter fun x => x.1.role = .childIn && x.1.rank = rank

/-- The chunks of a child's partial, as consumed in this tick or held: none while one is still to come. -/
def Sys2Proof.Machine.State.childChunks (s : State) (c : CeCtx) (rank : Nat) (x : Need × Bind) : Option (List Chunk) :=
  s.bindChunks c x.2 (c.d.partialLen
    (if c.d.op = 9 ∨ c.d.op = 10 then c.d.subLen rank else (c.d.treeSlice x.1.root c.run.k).2))

/-- A child's partial is taken into the Drum claim as its chunks were consumed and held, and only such (R179, R181). A coded
slice for an engine of the Cupola is decoded once all its chunks have been consumed, takes their place as dense chunks, and is
not decoded twice; the other streams' chunks stay (R212, R213). The two rows complete. -/
def Obligations.PartialsAndCodedSlicesAreTaken : Prop :=
  (∀ (ce slot rank : Nat) (r : Run) (s : State), s.openRun 1 ce slot = some r →
    ∃ t h, exec (.cePartialFold ce slot rank) s = .next t ∧ t = { s with runs := t.runs } ∧
      t.openRun 1 ce slot = some { r with held := h } ∧
      (∀ x ∈ (s.ceCtx r).childBinds rank, s.childChunks (s.ceCtx r) rank x ≠ none → AL.get h x.2.val ≠ none) ∧
      (∀ v l, AL.get h v = some l → AL.get r.held v = some l ∨
        ∃ x ∈ (s.ceCtx r).childBinds rank, x.2.val = v ∧ s.childChunks (s.ceCtx r) rank x = some l) ∧
      (∀ v, (∀ x ∈ (s.ceCtx r).childBinds rank, x.2.val ≠ v) → AL.get h v = AL.get r.held v)) ∧
  (∀ (ce slot rank : Nat) (s : State), s.openRun 1 ce slot = none → exec (.cePartialFold ce slot rank) s = .next s) ∧
  (∀ (c sid f n : Nat) (mx : Bool) (m : List Byte) (r : StreamRec) (ch : List Chunk) (s : State),
    s.imageOf s.planTick = some m → imgStream m sid = some r → r.coded = true → (r.sink = 0x10 + 2 * c ∨ r.sink = 0x11 + 2 * c) →
    s.sinkSlice sid = some (f, mx, n) →
    (s.sched.decoded.contains sid = true → exec (.codedSliceReceive c sid) s = .next s) ∧
    (s.codedIn sid (r.chunks + r.ovf) = none → exec (.codedSliceReceive c sid) s = .next s) ∧
    (s.sched.decoded.contains sid = false → s.codedIn sid (r.chunks + r.ovf) = some ch →
      ∃ t, exec (.codedSliceReceive c sid) s = .next t ∧ keepsRest (.sched :: errParts) s t ∧
        t.sched = { s.sched with inbox := t.sched.inbox, decoded := sid :: s.sched.decoded } ∧
        (∀ k j, k ≠ sid → AL.get t.sched.inbox (k, j) = AL.get s.sched.inbox (k, j)) ∧
        (∀ j, AL.get t.sched.inbox (sid, j) =
          ((denseOf mx ((List.range (nblks (n / 32)).length).flatMap fun i => recBlks ((nblks (n / 32)).getD i 0)
            ((parseChunks f mx (nblks (n / 32)) ch).getD i none))).chunks 0 f)[j]?)))

/-- A refresh round that is due ends 320 cc later and is counted (R302). SYS_GIB and a Keep's overflow region are set where the
rules allow: SYS_GIB while both banks are EMPTY and clear of the overflow regions (R300), the region while none of the Keep's
queues is spilled (R126); otherwise the field stays and PG_ERR says so. The three rows complete. -/
def Obligations.RefreshAndRegionsAreKept : Prop :=
  (∀ (st : Nat) (s : State), st < 16 → ∃ t, exec (.refreshRound st) s = .next t ∧
    (s.roundDue st = true → t.lastRound st = s.clock + 320 ∧ (∀ j, j ≠ st → t.lastRound j = s.lastRound j) ∧
      t.rd (pgHbm st) Hbm.ROUNDS 0 = (s.rd (pgHbm st) Hbm.ROUNDS 0 + 1) % 2 ^ 32 ∧ t.mem = s.mem) ∧
    (s.roundDue st = false → t = s)) ∧
  (∀ (st v : Nat) (s : State), st < 16 → ∃ t, exec (.sysGibWrite st v) s = .next t ∧
    (s.raw (pgHbm st) Hdr.LOCK 0 = 1 → t = s) ∧
    (s.raw (pgHbm st) Hdr.LOCK 0 ≠ 1 → s.banksEmpty = true → s.sysMeetsOverflow st (v % 16) = false →
      t.rd (pgHbm st) Hbm.SYS_GIB 0 = v % 16 ∧ onlyRegs [rkey (pgHbm st) Hbm.SYS_GIB 0] s t) ∧
    (s.raw (pgHbm st) Hdr.LOCK 0 ≠ 1 → (s.banksEmpty = false ∨ s.sysMeetsOverflow st (v % 16) = true) →
      errSet t (pgHbm st) 5 ∧ t.rd (pgHbm st) Hbm.SYS_GIB 0 = s.rd (pgHbm st) Hbm.SYS_GIB 0 ∧ sameBeyondReports s t)) ∧
  (∀ (k v : Nat) (s : State), k < 4 → ∃ t, exec (.ovfConfigWrite k v) s = .next t ∧ sameBeyondReports s t ∧
    (s.spilledQ k ≠ 0 → errSet t (pgKeep k) 16 ∧ t.rd (pgKeep k) Opn.OVF_BASE 0 = s.rd (pgKeep k) Opn.OVF_BASE 0 ∧
      t.rd (pgKeep k) Opn.OVF_SIZE 0 = s.rd (pgKeep k) Opn.OVF_SIZE 0) ∧
    (s.spilledQ k = 0 → t.rd (pgKeep k) Opn.OVF_BASE 0 = v % 2 ^ 10 ∧ t.rd (pgKeep k) Opn.OVF_SIZE 0 = v / 2 ^ 16 % 2 ^ 7 ∧
      (t.ovfBad k = true → errSet t (pgKeep k) 16)))

/-! ## Links -/

/-- A training block on a link, stamped with the cc counter (Table 03.7). -/
def Sys2Proof.Machine.State.trainingOut (s : State) (l : Nat) (x : Training) : Output :=
  .block l { body := .training { x with stamp := s.clock % 2 ^ 32 } }

/-- A link's training goes on: it enters state `v` now, the training blocks `o` leave, and from `u` on nothing else changes. -/
def Sys2Proof.Machine.trains (u t : State) (l v : Nat) (o : List Training) : Prop :=
  t.lstate l = v ∧ sameBeyondRegs (u.setLink l { u.link l with since := u.clock }) t ∧
    regsKept (· = rkey (pgLink l) Lnk.LSTATE 0) u t ∧ t.out = u.out ++ o.map (u.trainingOut l)

/-- A link that has left UP or training now: what it held is gone but for the signal and what an endpoint's Turret has made
itself. -/
def Sys2Proof.Machine.State.cleared (s : State) (l : Nat) (msgs : List Flit) : Link :=
  { Link.idle with signal := (s.link l).signal, since := s.clock, msgs := msgs }

/-- After its sixteen round trips and its peer's acceptance a link stays in LAT until the cells are free, or enters CREDIT and
sends its grant (R71, R72, R122). -/
def Sys2Proof.Machine.grantsOrWaits (s t : State) (l : Nat) : Prop :=
  (t.lstate l = 3 ∧ t.out = s.out) ∨
    (t.lstate l = 4 ∧ (t.link l).peerOk = true ∧ (t.link l).rtts.length = 16 ∧
      t.out = s.out ++ [s.trainingOut l { trType := 5, credits := t.grantOf l }])

/-- Training of a link (Table 03.6, R70–R72): DOWN is left for EQ once signal is detected, if nothing holds the link; EQ for LOCK;
LOCK for LAT, where the first probe and the identity leave; sixteen round trips give LD and REPLAY_WIN, and with an accepted peer
and its cells free CREDIT, where the grant leaves; a window beyond 32,768, a refused peer and a training state held longer than
its bound end in FAILED with their PG_ERR bit; the peer's grant sets the credits and ends in UP. Each training block that leaves
is the one of its state (Table 03.7). Each of the eight rows completes in every state, with its effect in the states that it
names. -/
def Obligations.LinkTrainingMovesStates : Prop :=
  ∀ (l : Nat) (s : State), l < 0x16 →
    (∃ t, exec (.linkSignalDetect l) s = .next t ∧ (t.link l).signal = true ∧
      (s.lstate l = 0 → s.mayTrain l = true →
        trains (s.setLink l { Link.idle with signal := true, msgs := (s.link l).msgs }) t l 1 [{ trType := 1 }]) ∧
      (s.lstate l ≠ 0 ∨ s.mayTrain l = false → t = s.setLink l { s.link l with signal := true })) ∧
    (∃ t, exec (.eqConverge l) s = .next t ∧ (s.lstate l = 1 → trains s t l 2 []) ∧ (s.lstate l ≠ 1 → t = s)) ∧
    (∃ t, exec (.lockAchieved l) s = .next t ∧ (s.lstate l ≠ 2 → t = s) ∧ (s.lstate l = 2 →
      trains s t l 3 [{ trType := 2 }, { trType := 4, ident := s.coord, dir := if l < 16 then 15 else l - 16 }])) ∧
    (∀ stamp hold, ∃ t, exec (.latencyProbe l stamp hold) s = .next t ∧
      (1 ≤ s.lstate l ∧ s.lstate l ≤ 4 →
        t = s.emit (s.trainingOut l { trType := 3, echo := stamp, hold := hold })) ∧
      (s.lstate l = 0 ∨ 4 < s.lstate l → t = s)) ∧
    (∀ echo hold, ∃ t, exec (.probeEcho l echo hold) s = .next t ∧
      (s.lstate l ≠ 3 ∨ 16 ≤ (s.link l).rtts.length → t = s) ∧
      ∀ rtts, s.lstate l = 3 → (s.link l).rtts.length < 16 →
        rtts = (s.link l).rtts ++ [(s.clock + 2 ^ 32 - (echo + hold) % 2 ^ 32) % 2 ^ 32] →
        (rtts.length < 16 → t = (s.setLink l { s.link l with rtts := rtts }).emit
          (s.trainingOut l { trType := 2 })) ∧
        (rtts.length = 16 → t.rd (pgLink l) Lnk.LD 0 = ldOf rtts % 2 ^ 24 ∧
          (32768 < replayWin l (ldOf rtts) → t.lstate l = 6 ∧ errSet t (pgLink l) 0) ∧
          (replayWin l (ldOf rtts) ≤ 32768 → t.rd (pgLink l) Lnk.REPLAY_WIN 0 = replayWin l (ldOf rtts) ∧
            grantsOrWaits s t l ∧ ((s.link l).peerOk = false → t.lstate l = 3)))) ∧
    (∀ ident dir, ∃ t, exec (.identity l ident dir) s = .next t ∧ (s.lstate l ≠ 3 → t = s) ∧
      (s.lstate l = 3 → s.peerOk l ident dir = true → (t.link l).peerOk = true ∧ grantsOrWaits s t l ∧
        ((s.link l).rtts.length < 16 → t.lstate l = 3) ∧
        (16 ≤ l → t.rd (pgLink l) Tor.PEER_VALID 0 = 1 ∧ t.rd (pgLink l) Tor.PEER_COORD 0 = ident % 2 ^ 15)) ∧
      (s.lstate l = 3 → s.peerOk l ident dir = false → t.lstate l = 6 ∧ errSet t (pgLink l) 3 ∧
        t.rd (pgLink l) Tor.PEER_VALID 0 = 0)) ∧
    (∀ credits, ∃ t, exec (.creditGrant l credits) s = .next t ∧ (s.lstate l ≠ 4 → t = s) ∧
      (s.lstate l = 4 → t.lstate l = 5 ∧ sameBeyondReports { s with links := t.links } t ∧ (∀ j, j ≠ l → t.link j = s.link j) ∧
        t.link l = { s.link l with since := s.clock, zeros := (t.link l).zeros } ∧
        ∀ v, v < 8 → t.rd (pgLink l) Lnk.CRED_AVAIL v = credits.getD v 0 % 2 ^ 16 ∧
          t.rd (pgLink l) Lnk.CRED_INIT v = credits.getD v 0 % 2 ^ 16)) ∧
    (∃ t, exec (.trainStateTimeout l) s = .next t ∧
      (1 ≤ s.lstate l → s.lstate l ≤ 4 → (s.link l).since + stateBound (s.lstate l) < s.clock → t.lstate l = 6 ∧
        errSet t (pgLink l) 0 ∧ t.link l = s.cleared l (if l < 16 then (s.link l).msgs else [])) ∧
      (s.lstate l = 0 ∨ 4 < s.lstate l ∨ s.clock ≤ (s.link l).since + stateBound (s.lstate l) → t = s))

/-- A link that is UP and loses lock, or waits CRED_TO for credits, fails with its PG_ERR bit: it is FAILED without credits and
window, and the flits that wait for it are discarded, with an endpoint's reservations; a torus link's failure is reported (R70, R79,
R84). A NAKed or unacknowledged block leaves again under its number and is counted, REPLAY_LIM times at most; the sender stops for
39 cc and its blocks' times, charged to slack (R73–R75). RETRAIN, and a clear of EN, take the link to DOWN (Table 03.8). Each of the
six rows completes in every state, with its effect in the states that it names. -/
def Obligations.LinksFailAndReplay : Prop :=
  ∀ (l : Nat) (s : State), l < 0x16 →
    (∃ t, exec (.lockLoss l) s = .next t ∧ (s.linkUp l = false → t = s) ∧ (s.linkUp l = true →
      t.lstate l = 6 ∧ errSet t (pgLink l) 1 ∧ t.link l = s.cleared l (if l < 16 then (s.link l).msgs else []) ∧
      (∀ v, v < 8 → t.rd (pgLink l) Lnk.CRED_AVAIL v = 0) ∧
      (16 ≤ l → ∀ v, v < 8 → t.queue (keepOfLink l) (outOfLink l) v = EgressQ.empty) ∧
      ∀ r : Report, r = ⟨1, linkKey s.coord (l - 16), s.now, 0⟩ → 16 ≤ l → s.watch.seen.contains r = false →
        s.keyFailed r.key = false → t.watch.held = s.watch.held ++ [r])) ∧
    (∀ q, ∃ t, exec (.nakReceive l q) s = .next t ∧ (s.linkUp l = false → t = s) ∧
      ((s.link l).window.find? (fun b => b.seq = q) = none → t = s) ∧
      ∀ b, s.linkUp l = true → (s.link l).window.find? (fun b => b.seq = q) = some b →
        (s.rd (pgLink l) Lnk.REPLAY_LIM 0 ≤ b.replays → t.lstate l = 6 ∧ errSet t (pgLink l) 2) ∧
        (∀ cc, b.replays < s.rd (pgLink l) Lnk.REPLAY_LIM 0 →
          cc = (if s.clock < (s.link l).stopUntil then
            (s.link l).stopFrom + replayCharge l ((s.link l).stopBlocks + 1) - (s.link l).stopUntil else 40) →
          t.lstate l = 5 ∧ t.out = s.out ++ [.block l { body := .flit b.flit, seq := q, ack := (s.link l).ack }] ∧
          t.rd (pgLink l) Lnk.REPLAYS 0 = (s.rd (pgLink l) Lnk.REPLAYS 0 + 1) % 2 ^ 32 ∧
          t.rd (pgLink l) Lnk.REPLAY_CC 0 = (s.rd (pgLink l) Lnk.REPLAY_CC 0 + cc) % 2 ^ 32 ∧
          AL.getD t.belfry.charges (l, 0) 0 = AL.getD s.belfry.charges (l, 0) 0 + cc ∧
          (s.clock < (s.link l).stopUntil → (t.link l).stopUntil =
            (s.link l).stopFrom + replayCharge l ((s.link l).stopBlocks + 1)) ∧
          ((s.link l).stopUntil ≤ s.clock → (t.link l).stopUntil = s.clock + 40) ∧
          (t.link l).window = (s.link l).window.map fun c =>
            if c.seq = q then { c with replays := c.replays + 1, sentAt := s.clock } else c)) ∧
    (∀ q, ∃ t, exec (.ackTimeout l q) s = .next t ∧
      (s.ackLate l q = true → exec (.nakReceive l q) s = .next t) ∧ (s.ackLate l q = false → t = s)) ∧
    (∃ t, exec (.retrain l) s = .next t ∧ t.link l = s.cleared l (if l < 16 then (s.link l).msgs else []) ∧
      t.lstate l = (if (s.link l).signal = true ∧ s.mayTrain l = true then 1 else 0) ∧
      t.out = s.out ++
        (if (s.link l).signal = true ∧ s.mayTrain l = true then [s.trainingOut l { trType := 1 }] else [])) ∧
    (∀ en, ∃ t, exec (.linkEnWrite l en) s = .next t ∧ t.rd (pgLink l) Lnk.EN 0 = b2n en ∧
      (en = false → s.rdb (pgLink l) Lnk.EN 0 = true → t.lstate l = 0 ∧
        t.link l = s.cleared l (if l < 16 then (s.link l).msgs else [])) ∧
      (en = false → s.rdb (pgLink l) Lnk.EN 0 = false → onlyRegs [rkey (pgLink l) Lnk.EN 0] s t) ∧
      (en = true → s.lstate l ≠ 0 ∨ (s.link l).signal = false → onlyRegs [rkey (pgLink l) Lnk.EN 0] s t) ∧
      (en = true → s.lstate l = 0 → t.lstate l = (if (s.link l).signal = true ∧ t.mayTrain l = true then 1 else 0))) ∧
    (∀ vc, l < 16 → vc = 2 ∨ vc = 6 → s.linkUp l = true → s.rd (pgLink l) Lnk.CRED_AVAIL vc = 0 →
      AL.getD (s.link l).zeros vc (s.link l).since + 1100 * s.rd (pgLink l) Ept.CRED_TO 0 < s.clock →
      ∃ t, exec (.credTo l vc) s = .next t ∧ t.lstate l = 6 ∧ errSet t (pgLink l) 5 ∧ t.link l = s.cleared l [] ∧
        (∀ v, v < 8 → t.queue (l / 4) (l % 4) v = EgressQ.empty) ∧
        t.reservations = s.reservations.filter fun r => r.src ≠ .endpoint l) ∧
    (∀ vc, 16 ≤ l ∨ ¬ (vc = 2 ∨ vc = 6) ∨ s.linkUp l = false ∨ s.rd (pgLink l) Lnk.CRED_AVAIL vc ≠ 0 ∨
        s.clock ≤ AL.getD (s.link l).zeros vc (s.link l).since + 1100 * s.rd (pgLink l) Ept.CRED_TO 0 →
      exec (.credTo l vc) s = .next s)

/-- Line blocks (R66–R70): a link below LOCK takes none. An uncorrectable block and a CRC failure are counted, and the eighth bad
block in a row loses lock; a corrected block is counted. A block whose parity is its data's has no error. In LOCK the sixty-fourth
good block in a row achieves lock; past it a training block acts as its command by its TR_TYPE (Table 03.7); in UP an idle block's
word acknowledges (Table 03.5). -/
def Sys2Proof.Machine.LineBlocksAreTaken : Prop :=
  ∀ (l : Nat) (d p : List Byte) (s : State), l < 0x16 →
    (s.lstate l < 2 ∨ 5 < s.lstate l → exec (.lineBlockReceive l d p) s = .next s) ∧
    (d.length = 270 → p = rsParityBytes d → rsDecode d p = some ([], d)) ∧
    (2 ≤ s.lstate l → s.lstate l ≤ 5 →
      (rsDecode d p = none → ∃ t, exec (.lineBlockReceive l d p) s = .next t ∧
        t.rd (pgLink l) Lnk.FEC_UNCORR 0 = (s.rd (pgLink l) Lnk.FEC_UNCORR 0 + 1) % 2 ^ 32 ∧
        ((s.link l).badRun ≠ 7 ∨ s.lstate l ≠ 5 → t.lstate l = s.lstate l ∧
          t.link l = { s.link l with goodRun := 0, badRun := (s.link l).badRun + 1 }) ∧
        ((s.link l).badRun = 7 → s.lstate l = 5 → t.lstate l = 6 ∧ errSet t (pgLink l) 1)) ∧
      (∀ syms b, rsDecode d p = some (syms, b) → leAt b 266 4 ≠ crc32c (b.take 266) →
        ∃ t, exec (.lineBlockReceive l d p) s = .next t ∧
        t.rd (pgLink l) Lnk.CRC_FAIL 0 = (s.rd (pgLink l) Lnk.CRC_FAIL 0 + 1) % 2 ^ 32 ∧
        (s.rd (pgLink l) Lnk.FEC_CORR 0 < 2 ^ 32 → t.rd (pgLink l) Lnk.FEC_CORR 0 =
          (s.rd (pgLink l) Lnk.FEC_CORR 0 + if syms = [] then 0 else 1) % 2 ^ 32) ∧
        ((s.link l).badRun = 7 → s.lstate l = 5 → t.lstate l = 6 ∧ errSet t (pgLink l) 1)) ∧
      (∀ b, rsDecode d p = some ([], b) → leAt b 266 4 = crc32c (b.take 266) →
        (s.lstate l = 2 → ∃ t, exec (.lineBlockReceive l d p) s = .next t ∧
          t.link l = { s.link l with goodRun := (s.link l).goodRun + 1, badRun := 0,
                                     since := if (s.link l).goodRun = 63 then s.clock else (s.link l).since } ∧
          t.lstate l = (if (s.link l).goodRun = 63 then 3 else 2)) ∧
        (∀ c, s.lstate l ≠ 2 → leAt b 256 10 % 4 = 2 →
          (leAt (b.take 256) 0 1 = 2 ∧ c = .latencyProbe l (leAt (b.take 256) 4 4) 0 ∨
            leAt (b.take 256) 0 1 = 3 ∧ c = .probeEcho l (leAt (b.take 256) 8 4) (leAt (b.take 256) 12 4) ∨
            leAt (b.take 256) 0 1 = 4 ∧ c = .identity l (leAt (b.take 256) 16 2) (leAt (b.take 256) 18 1) ∨
            leAt (b.take 256) 0 1 = 5 ∧
              c = .creditGrant l ((List.range 8).map fun v => leAt (b.take 256) (32 + 2 * v) 2)) →
          exec (.lineBlockReceive l d p) s = exec c
            (s.setLink l { s.link l with goodRun := (s.link l).goodRun + 1, badRun := 0 })) ∧
        (∀ w, s.lstate l = 5 → w = leAt b 256 10 → w % 4 = 1 →
          bits w 2 16 = (s.link l).rxNext → bit w 34 = false → bits w 54 6 = 0 → bits w 63 6 = 0 →
          exec (.lineBlockReceive l d p) s = .next (s.setLink l { s.link l with
            goodRun := (s.link l).goodRun + 1, badRun := 0,
            window := (s.link l).window.filter fun x => seqLater x.seq (bits w 18 16) }))))

/-- A die-to-die retry is counted, stops its sender and charges the stop to slack; sixteen in a row that bring nothing through
fail the link, a module fault (R77, R415). A number of flits beyond the window of 64 is no retry. -/
def Sys2Proof.Machine.DieLinksRetry : Prop :=
  ∀ (k c dir n : Nat) (acked : Bool) (s : State), k < 4 → c < 8 →
    (n = 0 ∨ 64 < n → exec (.d2dRetry (0x40 + 8 * k + c) dir n acked) s = .next s) ∧
    (1 ≤ n → n ≤ 64 → ∃ t, exec (.d2dRetry (0x40 + 8 * k + c) dir n acked) s = .next t ∧
      t.d2dDir (0x40 + 8 * k + c) dir =
        { fails := if acked then 0 else (s.d2dDir (0x40 + 8 * k + c) dir).fails + 1,
          stopUntil := max (s.d2dDir (0x40 + 8 * k + c) dir).stopUntil s.clock + 39 + cdiv n 4 } ∧
      AL.getD t.belfry.charges (0x40 + 8 * k + c, dir) 0 = AL.getD s.belfry.charges (0x40 + 8 * k + c, dir) 0 + 39 + cdiv n 4 ∧
      t.rd (pgCupola c) Cup.KC_RETRY_CC k = (s.rd (pgCupola c) Cup.KC_RETRY_CC k + 39 + cdiv n 4) % 2 ^ 32 ∧
      (acked = false → 15 ≤ (s.d2dDir (0x40 + 8 * k + c) dir).fails → t.rd (pgCupola c) Cup.KC_STATE k = 3 ∧
        errSet t (pgCupola c) k ∧ t.watch.raised = s.watch.raised ++ [(2, 0)]))

/-- Line blocks are taken, and die-to-die links retry (R66–R70, R77, R415): LINE_BLOCK_RECEIVE and D2D_RETRY complete, in the
states where they have an effect and in those where they have none. -/
def Obligations.LineBlocksAndDieLinks : Prop := LineBlocksAreTaken ∧ DieLinksRetry

/-! ## Routes and the open plane -/

/-- TBL_DATA writes the entry that TBL_SEL names, of an idle bank only (R90). A write of FLIP_AT_LO with FLOOD clear arms its
Keep; with FLOOD set it sends ROUTE_FLIP; a ROUTE_FLIP arms every Keep, unless one refuses it, and is forwarded once; a late or
refused flip sets PG_ERR 4 or 3 and is a configuration fault (R93; that one Keep's cause refuses it for the module, and that a
late message sets Keep 0's bit, are the model's choices, log 189). At a Keep's drain deadline DRAINING clears and its stale
reservations, and no others, are completed (R91, R92). The four rows complete in every state. -/
def Obligations.RoutesFlipTogether : Prop :=
  (∀ (k v : Nat) (s : State), k < 4 → ∃ t, exec (.tblDataWrite k v) s = .next t ∧
    (s.inUse k (s.rd (pgKeep k) Kr.TBL_BANK 0) = true ∨ s.filled k (s.rd (pgKeep k) Kr.TBL_BANK 0) = true →
      errSet t (pgKeep k) 2 ∧ sameBeyondReports s t) ∧
    (s.inUse k (s.rd (pgKeep k) Kr.TBL_BANK 0) = false → s.filled k (s.rd (pgKeep k) Kr.TBL_BANK 0) = false →
      t = { s with routes := t.routes } ∧ (∀ j, j ≠ k → t.route j = s.route j) ∧
      (s.rd (pgKeep k) Kr.TBL_KIND 0 = 0 → t.tblRead k = v % 2 ^ 15) ∧
      (s.rd (pgKeep k) Kr.TBL_KIND 0 = 1 → s.rd (pgKeep k) Kr.TBL_INDEX 0 < 3 → t.tblRead k = v % 2 ^ 32))) ∧
  (∀ (k v f : Nat) (s : State), k < 4 → s.rdb (pgKeep k) Kr.FLOOD 0 = false →
    f = v % 2 ^ 32 + 2 ^ 32 * s.rd (pgKeep k) Kr.FLIP_AT_HI 0 → ∃ t, exec (.flipAtWrite k v) s = .next t ∧
    t.rd (pgKeep k) Kr.FLIP_AT_LO 0 = v % 2 ^ 32 ∧
    (tickLater f s.now = false → errSet t (pgKeep k) 4 ∧ t.watch.raised = s.watch.raised ++ [(2, 0)] ∧ t.routes = s.routes) ∧
    (tickLater f s.now = true → s.flipRefused k f none = true →
      errSet t (pgKeep k) 3 ∧ t.watch.raised = s.watch.raised ++ [(2, 0)] ∧ t.routes = s.routes) ∧
    (tickLater f s.now = true → s.flipRefused k f none = false → t.rd (pgKeep k) Kr.ARMED 0 = 1 ∧
      t.route k = { s.route k with flip := some f } ∧ ∀ j, j ≠ k → t.route j = s.route j)) ∧
  (∀ (k v f sum : Nat) (s : State), k < 4 → s.rdb (pgKeep k) Kr.FLOOD 0 = true →
    f = v % 2 ^ 32 + 2 ^ 32 * s.rd (pgKeep k) Kr.FLIP_AT_HI 0 → sum = s.bankSum k (1 - s.routeCur k) →
    ∃ t, exec (.flipAtWrite k v) s = .next t ∧ t.rd (pgKeep k) Kr.FLIP_AT_LO 0 = v % 2 ^ 32 ∧
    (tickLater f s.now = false → errSet t (pgKeep k) 4 ∧ t.watch.raised = s.watch.raised ++ [(2, 0)] ∧ t.routes = s.routes ∧
      t.links = s.links) ∧
    (tickLater f s.now = true → s.flipRefused k f (some sum) = true →
      errSet t (pgKeep k) 3 ∧ t.watch.raised = s.watch.raised ++ [(2, 0)] ∧ t.routes = s.routes ∧ t.links = s.links) ∧
    (tickLater f s.now = true → s.flipRefused k f (some sum) = false → flooded s t none 0x32 (flipPayload f sum s.coord) ∧
      t.belfry = { s.belfry with flooded := (0x32, f) :: s.belfry.flooded } ∧
      ((∀ j, j < 4 → s.flipRefused j f (some sum) = false) →
        ∀ j, j < 4 → (t.route j).flip = some f ∧ t.rd (pgKeep j) Kr.ARMED 0 = 1))) ∧
  (∀ (d f sum origin : Nat) (s : State), f < 2 ^ 48 → ∃ t, exec (.routeFlip d f sum origin) s = .next t ∧
    (s.floodedBefore 0x32 f = true → t = s) ∧
    (s.floodedBefore 0x32 f = false → tickLater f s.now = false →
      errSet t (pgKeep 0) 4 ∧ t.watch.raised = s.watch.raised ++ [(2, 0)] ∧ t.links = s.links ∧ t.routes = s.routes) ∧
    (s.floodedBefore 0x32 f = false → tickLater f s.now = true → 1023 < tickSub f s.now →
      errSet t pgBelfry 5 ∧ sameBeyondReports s t) ∧
    (s.floodedBefore 0x32 f = false → tickLater f s.now = true → tickSub f s.now ≤ 1023 →
      flooded s t (some d) 0x32 (flipPayload f sum origin) ∧
      ((∀ k, k < 4 → s.flipRefused k f (some sum) = false) →
        ∀ k, k < 4 → (t.route k).flip = some f ∧ t.rd (pgKeep k) Kr.ARMED 0 = 1) ∧
      (∀ k, k < 4 → s.flipRefused k f (some sum) = true → t.routes = s.routes ∧ errSet t (pgKeep k) 3 ∧
        t.watch.raised = s.watch.raised ++ [(2, 0)]))) ∧
  ∀ s : State, ∃ t, exec .drainDeadline s = .next t ∧ ∀ k, k < 4 →
    ((s.route k).deadline = none → t.route k = s.route k) ∧
    (∀ d, (s.route k).deadline = some d → tickReached s.now d = true →
      t.route k = { s.route k with deadline := none, lastDeadline := some d } ∧ t.rd (pgKeep k) Kr.DRAINING 0 = 0 ∧
      ∀ r : Reservation, srcKeep r.src = k → (r ∈ t.reservations ↔ r ∈ s.reservations ∧ r ∉ s.staleResv k)) ∧
    (∀ d, (s.route k).deadline = some d → tickReached s.now d = false → t.route k = s.route k ∧
      ∀ r : Reservation, srcKeep r.src = k → (r ∈ t.reservations ↔ r ∈ s.reservations))

/-- A request as its own source injects it: SRC names the source (R60). -/
def Sys2Proof.Machine.State.ownRequest (s : State) (src : Source) (f : Flit) : Flit :=
  (f.setField 27 19 (coord19 s.coord (srcE src).1)).setField 92 1 (b2n (srcE src).2)

/-- The reply that completes a reservation of this module locally: the request's DST is its SRC (R60, R86). -/
def Sys2Proof.Machine.State.ownReply (s : State) (r : Reservation) (status : Nat) : Flit :=
  FlitSpec.flit {
    kind := 2, vc := 2, epoch := r.epoch, dst := coord19 s.coord (srcE r.src).1, dstM := (srcE r.src).2,
    src := r.dst, srcM := true, tick := s.now, tag := r.tag, opcode := r.opcode,
    status := status }

/-- A reply is given to its source: an endpoint's waits in its Turret for its link (R66), others' is put out; the Lantern's awaits
it, and a Keep's mover finds it in what its Keep has delivered. -/
def Sys2Proof.Machine.sourceReplied (s t : State) (src : Source) (f : Flit) : Prop :=
  match src with
  | .endpoint n => (t.link n).msgs = (s.link n).msgs ++ [f]
  | .host => t.out = s.out ++ [.reply src f]
  | .moduleUnit e => t.out = s.out ++ [.reply src f] ∧ (e = 1 → t.answers = s.answers ++ [f]) ∧
      (4 ≤ e → e ≤ 7 → (e, e - 4, f) ∈ t.opn.service)

/-- A line of a held flit with its header is beyond correction. -/
abbrev Sys2Proof.Machine.State.headerLost (s : State) (p : FlitAt) : Prop :=
  ∃ e ∈ s.arrays.flits, e.place = p ∧ e.header = true ∧ e.lost = true

/-- No line of a held flit is in error. -/
abbrev Sys2Proof.Machine.State.flitGood (s : State) (p : FlitAt) : Prop := ∀ e ∈ s.arrays.flits, e.place ≠ p

/-- No line of a flit held for a unit of this module is in error. -/
abbrev Sys2Proof.Machine.State.serviceGood (s : State) : Prop := ∀ x ∈ s.arrays.flits, ∀ e, x.place ≠ .service e

/-- A poisoned request goes no further. One with a tag in use, or one that no route takes, is answered at its source and makes no
reservation; any other makes one and is injected, an endpoint's into its Turret's input buffer (R80, R86, R121, R125). A reply
completes the reservation with its tag, or is counted late at an endpoint; one with a bad header is counted and discarded, a
poisoned one completes nothing (R61, R86, R125). A reservation whose timeout is reached completes with TIMEOUT (R86). The three rows
complete for every source, in every state. -/
def Obligations.RequestsAreReservedAndCompleted : Prop :=
  (∀ (src : Source) (f g : Flit) (s : State), g = s.ownRequest src f → ∃ t, exec (.openRequestInject src f) s = .next t ∧
    (g.poison = true → t.reservations = s.reservations ∧ t.answers = s.answers ∧ t.opn = s.opn) ∧
    (g.poison = false → s.tagBad src g.tag = true → t.reservations = s.reservations ∧ sourceReplied s t src (localReply g 0xE2 s.now) ∧
      ∀ n, src = .endpoint n → counted s t (pgLink n) Ept.TAG_ERRS 1) ∧
    (∀ st unr, g.poison = false → s.tagBad src g.tag = false → s.routeCompute src g = .answer st unr →
      t.reservations = s.reservations ∧ sourceReplied s t src (localReply g st s.now) ∧
      (unr = true → counted s t (pgKeep (srcKeep src)) Kr.UNROUTABLE 1 ∧ errSet t (pgKeep (srcKeep src)) 1)) ∧
    (∀ o, g.poison = false → s.tagBad src g.tag = false → s.routeCompute src g = .send o →
      t.out = s.out ++ [.inject src o] ∧
      t.reservations = s.reservations ++ [⟨src, g.tag, s.now, o.epoch,
        (if (reqOf g).virt then some (vaLog (reqOf g).addr) else none), (reqOf g).opcode, o.dst⟩] ∧
      ∀ n, src = .endpoint n → s.opn.cut.contains (n, o.vc) = false →
        AL.getD t.opn.inputs (n, o.vc) [] = AL.getD s.opn.inputs (n, o.vc) [] ++ [o])) ∧
  (∀ (src : Source) (f : Flit) (s : State), ∃ t, exec (.replyReceive src f) s = .next t ∧ (s.serviceGood →
    (f.hcrcOk = false → t.reservations = s.reservations ∧ t.out = s.out ∧ errSet t (pgKeep (srcKeep src)) 0 ∧
      counted s t (pgKeep (srcKeep src)) Kr.HDR_CRC_ERR 1) ∧
    (f.hcrcOk = true → f.poison = true → t.reservations = s.reservations ∧ t.out = s.out) ∧
    (∀ r, f.hcrcOk = true → f.poison = false → (s.resvOf src).find? (fun r => r.tag = f.tag) = some r →
      t.reservations = s.reservations.filter (· ≠ r) ∧ sourceReplied s t src f) ∧
    (f.hcrcOk = true → f.poison = false → (s.resvOf src).find? (fun r => r.tag = f.tag) = none →
      t.reservations = s.reservations ∧ t.out = s.out ∧ ∀ n, src = .endpoint n → counted s t (pgLink n) Ept.LATE_RSP 1)) ∧
    ∀ e, (src = .moduleUnit e ∨ src = .host ∧ e = 2) → (s.opn.service.find? fun x => x.1 = e).map (fun x => x.2.2) = some f →
      s.headerLost (.service e) → t.reservations = s.reservations ∧ t.out = s.out) ∧
  ∀ (src : Source) (tag : Nat) (s : State), ∃ t, exec (.reservationTimeout src tag) s = .next t ∧
    ((s.resvOf src).find? (fun r => r.tag = tag) = none → t = s) ∧
    (∀ r, (s.resvOf src).find? (fun r => r.tag = tag) = some r →
      (s.resvDue r = false → t = s) ∧
      (s.resvDue r = true → t.reservations = s.reservations.filter (· ≠ r) ∧ sourceReplied s t src (s.ownReply r 0xE0) ∧
        ∀ n, src = .endpoint n → counted s t (pgLink n) Ept.TIMEOUTS 1))

/-- The travel direction of a flit that came in on a link (R81). -/
def Sys2Proof.Machine.travelOf (l : Nat) : Option Nat := if l < 16 then none else some (Nat.xor (l - 16) 1)

/-- The head flit taken out of an input buffer. -/
def Sys2Proof.Machine.State.headTaken (s : State) (l vc : Nat) (rest : List Flit) : State :=
  s.setOpn { s.opn with inputs := AL.put s.opn.inputs (l, vc) rest }

/-- Cells of an input buffer that become free while none are closed to new allocation go back to the sender as credits, in an idle
block of the link (R73, R78, R121; that each return leaves in a block of its own is the model's choice, log 182). -/
def Sys2Proof.Machine.CreditsReturn : Prop :=
  ∀ (l vc n : Nat) (s : State), s.poolUsed (keepOfLink l) ≤ s.poolCells (keepOfLink l) → s.returnCredit l vc n =
    if s.linkUp l = true ∧ 0 < n then
      s.emit (.block l { body := .idle, seq := (s.link l).txSeq, ack := (s.link l).ack, nak := none, cr := [(vc, n)] })
    else s

/-- The ingress switch takes the head flit of a buffer (R61, R81, R84, R89, R92, R337): one whose header is beyond correction is
discarded; a bad header, too old a flit and a stale request are counted and discarded, one for a FAILED link too; a flit that has
arrived goes to its unit; each returns its credits. One for an endpoint, for the host, or for another module waits for admission
to its output, its cells held. Where the LAST flit of a packet under way is lost, a poisoned one takes its place (R125, log 209). -/
def Sys2Proof.Machine.FlitsAreSwitched : Prop :=
  (∀ (l vc : Nat) (s : State), AL.getD s.opn.inputs (l, vc) [] = [] → exec (.ingressSwitch l vc) s = .next s) ∧
  (∀ (l vc : Nat) (f : Flit) (rest : List Flit) (s : State), AL.getD s.opn.inputs (l, vc) [] = f :: rest →
    s.headerLost (.input l vc) → ∃ t u : State, exec (.ingressSwitch l vc) s = .next t ∧ t = u.switchLost l vc f ∧
      u.opn = (s.headTaken l vc rest).opn) ∧
  (∀ (l vc : Nat) (f g : Flit) (s : State), f.last = true → AL.get s.opn.switched (l, vc) = some g →
    ∃ e, e.last = true ∧ e.poison = true ∧ e.src = g.src ∧ AL.getD (s.switchLost l vc f).opn.inputs (l, vc) [] =
      e :: AL.getD s.opn.inputs (l, vc) []) ∧
  (∀ (l vc : Nat) (f : Flit) (s : State), f.last = true → AL.get s.opn.switched (l, vc) = none →
    s.switchLost l vc f = s.returnCredit l vc f.cells) ∧
  ∀ (l vc : Nat) (f : Flit) (rest : List Flit) (s : State), AL.getD s.opn.inputs (l, vc) [] = f :: rest →
    s.flitGood (.input l vc) → ∃ t, exec (.ingressSwitch l vc) s = .next t ∧
      (f.hcrcOk = false → t = ((s.headTaken l vc rest).headerDiscard (keepOfLink l)).switchLost l vc f ∧
        counted s t (pgKeep (keepOfLink l)) Kr.HDR_CRC_ERR 1 ∧ errSet t (pgKeep (keepOfLink l)) 0) ∧
      (f.hcrcOk = true → s.tooOld (keepOfLink l) f = true →
        t = ((s.headTaken l vc rest).ageDiscard (keepOfLink l)).switchLost l vc f ∧
        counted s t (pgKeep (keepOfLink l)) Kr.AGED 1 ∧ errSet t (pgKeep (keepOfLink l)) 7) ∧
      (f.hcrcOk = true → s.tooOld (keepOfLink l) f = false → t.opn.inputs = AL.put s.opn.inputs (l, vc) rest) ∧
      (f.hcrcOk = true → s.tooOld (keepOfLink l) f = false → s.nextHop (keepOfLink l) f (travelOf l) = none → f.dstM = true →
        (s.staleRequest (keepOfLink l) f = true → t.opn.ready = s.opn.ready ∧ t.opn.service = s.opn.service ∧
          counted s t (pgKeep (keepOfLink l)) Kr.STALE 1 ∧ errSet t (pgKeep (keepOfLink l)) 6) ∧
        (s.staleRequest (keepOfLink l) f = false → (f.dst % 16 ≠ 2 ∨ f.opcode ≠ 0x20) →
          t = (((s.headTaken l vc rest).deliver (f.dst % 16) (keepOfLink l) f).returnCredit l vc f.cells).noteSwitched l vc f) ∧
        (f.dst % 16 = 2 → f.opcode = 0x20 → t = ((s.headTaken l vc rest).makeReady
          { keep := 3, out := 4, vc := 2 * (f.vc / 2), buf := some (l, vc), flit := f, entering := false,
            src := if keepOfLink l = 3 then .ingress else .keep (keepOfLink l) }).noteSwitched l vc f)) ∧
      (∀ n, f.hcrcOk = true → s.tooOld (keepOfLink l) f = false → s.nextHop (keepOfLink l) f (travelOf l) = none →
        f.dstM = false → n = f.dst % 16 → t = ((s.headTaken l vc rest).makeReady
          { keep := n / 4, out := n % 4, vc := 2 * (f.vc / 2), buf := some (l, vc), flit := f.setField 3 3 (2 * (f.vc / 2)),
            entering := false, src := if n / 4 = keepOfLink l then .ingress else .keep (keepOfLink l) }).noteSwitched l vc f) ∧
      (∀ d, f.hcrcOk = true → s.tooOld (keepOfLink l) f = false → s.nextHop (keepOfLink l) f (travelOf l) = some d →
        (s.lstate (torusLink d) = 6 → t.opn.ready = s.opn.ready ∧
          counted s t (pgKeep (keepOfLink (torusLink d))) Kr.UNROUTABLE 1 ∧ errSet t (pgKeep (keepOfLink (torusLink d))) 1) ∧
        (s.lstate (torusLink d) ≠ 6 → t.out = s.out ∧ ∃ r, t.opn.ready = s.opn.ready ++ [r] ∧
          r.keep = keepOfLink (torusLink d) ∧ r.out = outOfLink (torusLink d) ∧ r.vc = s.hopVc f (travelOf l) d ∧
          r.buf = some (l, vc) ∧ r.flit = f.setField 3 3 r.vc ∧
          r.src = if r.keep = keepOfLink l then .ingress else .keep (keepOfLink l)))

/-- A waiting flit taken for admission. -/
def Sys2Proof.Machine.State.readyTaken (s : State) (r : Ready) : State :=
  s.setOpn { s.opn with ready := dropFirst (· = r) s.opn.ready }

/-- Admission (R121–R123, R127, R128, R130): a source's flit enters its queue when its turn comes, marked where the queue is at its
threshold, and its input buffer's cells are free; it waits for its turn, for a page of the overflow region, counted once, for a
buffer bank that must wake, and for cells. -/
def Sys2Proof.Machine.FlitsAreAdmitted : Prop :=
  ∀ (k o vc : Nat) (src : QSource) (s : State), ∃ t, exec (.egressAdmit k o vc src) s = .next t ∧
    (s.readyNext k o vc = none → t = s) ∧
    (∀ r, s.readyNext k o vc = some r →
      (r.src ≠ src → t = s) ∧
      (r.src = src → (s.queue k o vc).spilled = true → s.ovfRoom k o vc = false →
        (r.counted = true → t = s) ∧
        (r.counted = false → counted s t (pgKeep k) Opn.OVF_FULL 1 ∧ errSet t (pgKeep k) 17 ∧
          t.opn.ready = s.opn.ready.map fun x => if x = r then { x with counted := true } else x)) ∧
      (r.src = src → (s.queue k o vc).spilled = false ∨ s.ovfRoom k o vc = true →
        (s.banksHold k r.flit.cells = false → t = s.wakeBank k) ∧
        (s.banksHold k r.flit.cells = true →
          s.canTake k (vcClass vc) (s.queue k o vc).sramCells r.flit.cells = false → t = s) ∧
        (s.canTake k (vcClass vc) (s.queue k o vc).sramCells r.flit.cells = true → s.flitGood (.waiting k o vc) →
          t.opn.ready = dropFirst (· = r) s.opn.ready ∧
          t.queue k o vc = admitTo (s.queue k o vc)
            ((s.queue k o vc).spilled || (s.readyTaken r).spillStart k vc (s.queue k o vc))
            ⟨if s.mark k (s.queue k o vc) vc r.flit then r.flit.setField 6 1 1 else r.flit, r.entering⟩ r.packet ∧
          (s.mark k (s.queue k o vc) vc r.flit = true → counted s t (pgKeep k) Opn.MARKED 1) ∧
          (r.buf = none → t.out = s.out ∧ t.links = s.links) ∧
          ∀ l v, r.buf = some (l, v) → ∃ w : State, t = w.returnCredit l v r.flit.cells ∧ w.out = s.out ∧ w.links = s.links)))

/-- A flit block put on a link: it takes the next sequence number, enters the replay window and leaves (R69, R73). -/
def Sys2Proof.Machine.blockSent (s t : State) (l : Nat) (f : Flit) : Prop :=
  t.out = s.out ++ [.block l { body := .flit f, seq := (s.link l).txSeq, ack := (s.link l).ack }] ∧
    (t.link l).txSeq = ((s.link l).txSeq + 1) % 2 ^ 16 ∧
    (t.link l).window = (s.link l).window ++ [{ flit := f, seq := (s.link l).txSeq, replays := 0, sentAt := s.clock }]

/-- An output sends (R61, R65, R66, R78, R86, R89, R124, R134, R337): a flit of its Turret's own whose turn it is, else the head
flit of the queue that its merge serves, on its link against credits or into the host MAC, and nothing where none may leave. A
reply to an endpoint completes its reservation, or is counted late; a flit too old, or with a header beyond correction or bad at
the host MAC, is discarded. -/
def Sys2Proof.Machine.FlitsAreSent : Prop :=
  (∀ (k o : Nat) (s : State), k < 4 → o < keepOuts k → s.messageTurn k o = none → s.mergePick k o = none →
    exec (.egressSend k o) s = .next s) ∧
  (∀ (k o l : Nat) (s : State), k < 4 → o < keepOuts k → s.messageTurn k o = some l →
    ∃ t f rest, exec (.egressSend k o) s = .next t ∧ (s.link l).msgs = f :: rest ∧ (t.link l).msgs = rest ∧
      (t.link l).lastMsg = some s.clock ∧ blockSent s t l f ∧ t.opn = s.opn ∧
      t.rd (pgLink l) Lnk.CRED_AVAIL f.vc = (s.rd (pgLink l) Lnk.CRED_AVAIL f.vc - f.cells) % 2 ^ 16) ∧
  (∀ (k o vc : Nat) (turn : Option (Bool × Nat)) (x : QFlit) (rest : List QFlit) (s : State), k < 4 → o < keepOuts k →
    s.messageTurn k o = none → s.mergePick k o = some (vc, turn) → (s.queue k o vc).sram = x :: rest →
    s.headerLost (.queue k o vc) → ∃ t, exec (.egressSend k o) s = .next t ∧ t.out = s.out ∧
      t.queue k o vc = { s.queue k o vc with sram := (s.leftQ x).toList ++ rest }) ∧
  ∀ (k o vc : Nat) (turn : Option (Bool × Nat)) (x : QFlit) (rest : List QFlit) (s : State), k < 4 → o < keepOuts k →
    s.messageTurn k o = none → s.mergePick k o = some (vc, turn) → (s.queue k o vc).sram = x :: rest →
    s.flitGood (.queue k o vc) → ∃ t, exec (.egressSend k o) s = .next t ∧
      (s.tooOld k x.flit = true → t.out = s.out ∧ counted s t (pgKeep k) Kr.AGED 1 ∧ errSet t (pgKeep k) 7 ∧
        t.queue k o vc = { s.queue k o vc with sram := (s.leftQ x).toList ++ rest }) ∧
      (∀ l, s.tooOld k x.flit = false → linkOfOut k o = some l → t.queue k o vc = { s.queue k o vc with sram := rest } ∧
        (16 ≤ l ∨ x.flit.kind ≠ 2 ∨ (x.flit.poison = false ∧
            (s.resvOf (.endpoint l)).find? (fun r => r.tag = x.flit.tag) ≠ none) → blockSent s t l x.flit ∧
          t.opn.service = s.opn.service ∧
          t.rd (pgLink l) Lnk.CRED_AVAIL vc = (s.rd (pgLink l) Lnk.CRED_AVAIL vc - x.flit.cells) % 2 ^ 16) ∧
        (l < 16 → x.flit.kind = 2 → x.flit.poison = false →
          (∀ r, (s.resvOf (.endpoint l)).find? (fun r => r.tag = x.flit.tag) = some r →
            t.reservations = s.reservations.filter (· ≠ r)) ∧
          ((s.resvOf (.endpoint l)).find? (fun r => r.tag = x.flit.tag) = none → t.out = s.out ∧
            counted s t (pgLink l) Ept.LATE_RSP 1)) ∧
        (l < 16 → x.flit.kind = 2 → x.flit.poison = true → t.out = s.out ∧ t.reservations = s.reservations)) ∧
      (s.tooOld k x.flit = false → linkOfOut k o = none → t.out = s.out ∧
        (x.flit.hcrcOk = true → t.opn.service = s.opn.service ++ [(2, k, x.flit)] ∧
          t.queue k o vc = { s.queue k o vc with sram := rest }) ∧
        (x.flit.hcrcOk = false → t.opn.service = s.opn.service ∧ counted s t (pgKeep k) Kr.HDR_CRC_ERR 1 ∧
          errSet t (pgKeep k) 0))

/-- A waiting flit of a queue that is older than AGE_MAX of its Keep. -/
def Sys2Proof.Machine.State.readyOld (s : State) (k o vc : Nat) (r : Ready) : Bool :=
  r.keep = k && r.out = o && r.vc = vc && s.tooOld k r.flit

/-- A queue whose staged flits are `rest`: spilled no longer where nothing is left in the region or on its way there (R127). -/
def Sys2Proof.Machine.restaged (q : EgressQ) (rest : List QFlit) : EgressQ :=
  if rest.isEmpty && q.hbm.isEmpty then { q with stage := [], pages := [], drained := 0, spilled := false } else { q with stage := rest }

/-- A flit beyond AGE_MAX is discarded and counted: the first in a queue's SRAM, else one that awaits its HBM write, else one that
waits for admission (R89). In the place of the LAST flit of a packet of several flits stays what ends the packet (R125). -/
def Sys2Proof.Machine.FlitsAge : Prop :=
  ∀ (k o vc : Nat) (s : State), ∃ t, exec (.flitAged k o vc) s = .next t ∧
    ((s.queue k o vc).sram.any (fun x => s.tooOld k x.flit) = true →
      t.queue k o vc = { s.queue k o vc with sram := swapFirst (fun x => s.tooOld k x.flit) s.leftQ (s.queue k o vc).sram } ∧
      counted s t (pgKeep k) Kr.AGED 1 ∧ errSet t (pgKeep k) 7) ∧
    ((s.queue k o vc).sram.any (fun x => s.tooOld k x.flit) = false →
      ((s.queue k o vc).stage.any (fun x => s.tooOld k x.flit) = true →
        t.queue k o vc = restaged (s.queue k o vc) (swapFirst (fun x => s.tooOld k x.flit) s.leftQ (s.queue k o vc).stage) ∧
        counted s t (pgKeep k) Kr.AGED 1 ∧ errSet t (pgKeep k) 7) ∧
      ((s.queue k o vc).stage.any (fun x => s.tooOld k x.flit) = false →
        (s.opn.ready.any (s.readyOld k o vc) = true → t.opn.ready = swapFirst (s.readyOld k o vc)
            (fun x => (s.leftOf x.flit).map fun f => { x with flit := f }) s.opn.ready ∧
          counted s t (pgKeep k) Kr.AGED 1 ∧ errSet t (pgKeep k) 7) ∧
        (s.opn.ready.any (s.readyOld k o vc) = false → t = s)))

/-- A spilled queue's staged flit goes to the tail of its HBM part where a page is free, the link to the stack runs and the stack is
READY, and waits otherwise; while SRAM holds less than half of SPILL_DEPTH the HBM part is read back in order: a clean flit queued,
one with a bad header or too old discarded, one with a bad payload poisoned; a bad granule is poisoned (R89, R127, R128, R327; the
wait is the model's choice, log 210). -/
def Sys2Proof.Machine.FlitsSpill : Prop :=
  (∀ (k o vc : Nat) (s : State), ∃ t, exec (.spillWrite k o vc) s = .next t ∧
    ((s.queue k o vc).stage = [] ∨ s.ovfRoom k o vc = false → t = s) ∧
    (∀ x rest a, (s.queue k o vc).stage = x :: rest → s.ovfRoom k o vc = true → a = s.tailPlace k (s.queue k o vc) →
      (s.spillPath k 0 a = false → t = s.wakeDom (288 + stackOf a)) ∧
      (s.spillPath k 0 a = true → s.flitGood (.stage k o vc) →
        t.queue k o vc = { s.queue k o vc with stage := rest, hbm := (s.queue k o vc).hbm ++ [x],
                                                pages := s.tailPages k (s.queue k o vc) } ∧
        counted s t (pgKeep k) Opn.SPILL_FLITS 1 ∧ storesOnly s t spHbm a x.flit.bytes.length ∧
        (memWf s.mem = true → t.peek spHbm a x.flit.bytes.length = x.flit.bytes)))) ∧
  ∀ (k o vc : Nat) (ecc : SpillEcc) (s : State), ∃ t, exec (.spillReadback k o vc ecc) s = .next t ∧
    ((s.queue k o vc).hbm = [] → t = s) ∧
    (∀ x rest q, (s.queue k o vc).hbm = x :: rest → q = s.queue k o vc →
      (s.mayRead k o vc x = false → t = s) ∧
      (s.rd (pgKeep k) Opn.SPILL_DEPTH 0 ≤ 2 * qCells q.sram → t = s) ∧
      (s.mayRead k o vc x = true →
        (ecc ≠ .badHeader → s.tooOld k x.flit = true → t.queue k o vc = unspill q rest (q.sram ++ (s.leftQ x).toList) ∧
          counted s t (pgKeep k) Kr.AGED 1 ∧ errSet t (pgKeep k) 7) ∧
        (ecc = .badHeader → t.queue k o vc = unspill q rest (q.sram ++ (s.leftQ x).toList) ∧
          t.decoded spHbm (s.headPlace k q / 64) = .poisoned ∧ counted s t (pgKeep k) Opn.OVF_ECC 1 ∧ errSet t (pgKeep k) 18) ∧
        (s.tooOld k x.flit = false →
          (ecc = .clean ∨ ecc = .corrected → t.queue k o vc = unspill q rest (q.sram ++ [x])) ∧
          (ecc = .corrected → counted s t pgIntegrity Itg.CORR_TOTAL 1) ∧
          (ecc = .badPayload → t.queue k o vc = unspill q rest (q.sram ++ [⟨x.flit.setField 7 1 1, x.entering⟩]) ∧
            t.decoded spHbm ((s.headPlace k q + 64) / 64) = .poisoned ∧
            counted s t (pgKeep k) Opn.OVF_ECC 1 ∧ errSet t (pgKeep k) 18))))

/-- A flit crosses the open plane: switched from its input buffer, admitted to its queue, sent, discarded when too old, spilled and
read back (R61, R78, R81, R89, R92, R121–R130, R134). The six rows complete in every state. -/
def Obligations.FlitsCrossTheOpenPlane : Prop :=
  CreditsReturn ∧ FlitsAreSwitched ∧ FlitsAreAdmitted ∧ FlitsAreSent ∧ FlitsAge ∧ FlitsSpill

/-! ## Tick plans -/

/-- LOAD takes an idle bank and queues its image with the landing limits as they stand (Table 04.9), and is refused with PG_ERR 11
on a bank that is loading, in force, armed or still serving landings (R110). When the oldest load ends, its image is rejected with
PLAN_ERR and the bank is EMPTY, or, where no domain must wake and the cells are free, the bank is built from the image and READY
(R110, R111). A write of SWITCH_AT_LO arms a switch to a READY bank for a later tick, or is refused with PG_ERR 9, 10 or 11 and a
configuration fault; DISARM withdraws it before its tick (R114). The four rows complete in every state. -/
def Obligations.PlansLoadAndSwitchesArm : Prop :=
  (∀ (b : Nat) (s : State), b < 2 → ∃ t, exec (.load b) s = .next t ∧
    (s.bankState b = 1 ∨ s.bankState b = 3 ∨ (s.rdb (pgKeep 0) Pln.ARMED 0 = true ∧ s.sched.armBank = b) ∨ s.servesOld b = true →
      errSet t (pgKeep 0) 11 ∧ t.bankState b = s.bankState b ∧ t.bank b = s.bank b ∧ t.sched = s.sched) ∧
    (s.bankState b ≠ 1 → s.bankState b ≠ 3 → (s.rdb (pgKeep 0) Pln.ARMED 0 = false ∨ s.sched.armBank ≠ b) →
      s.servesOld b = false → t.bankState b = 1 ∧ t.bank b = none ∧
      t.sched = { s.sched with loading := s.sched.loading ++
        [⟨b, s.planBase, s.rd (pgKeep 0) Pln.PLAN_LEN 0, (List.range 4).map fun k => s.rd (pgKeep k) Slt.LAND_MAX 0⟩] })) ∧
  (∀ s : State, s.sched.loading = [] → exec .planLoadDone s = .next s) ∧
  (∀ (j : PlanJob) (rest : List PlanJob) (m : List Byte) (s : State), s.sched.loading = j :: rest → j.bank < 2 →
    m = s.peek spHbm j.base j.len → ∃ t, exec .planLoadDone s = .next t ∧
      (∀ e, (s.setSched { s.sched with loading := rest }).planCheck m j = .inl e →
        t.sched.loading = rest ∧ t.bankState j.bank = 0 ∧ t.bank j.bank = none ∧ t.rd (pgKeep 0) Pln.ERR_VALID 0 = 1 ∧
        t.rd (pgKeep 0) Pln.ERR_CODE 0 = e.code % 2 ^ 8 ∧ errSet t (pgKeep 0) 8) ∧
      (∀ pins, (s.setSched { s.sched with loading := rest }).planCheck m j = .inr pins →
        (s.sleepers m pins ≠ [] → t.sched = s.sched ∧ t.bank j.bank = s.bank j.bank) ∧
        (s.sleepers m pins = [] → (s.carve j.bank m).roomy = false → t = (s.carve j.bank m).wakeBanks) ∧
        (s.sleepers m pins = [] → (s.carve j.bank m).roomy = true →
          t.sched.loading = rest ∧ t.bankState j.bank = 2 ∧
          ∃ x, t.bank j.bank = some x ∧ x.image = m ∧ x.pins = pins))) ∧
  (∀ (v n : Nat) (s : State), n = v % 2 ^ 32 + s.rd (pgKeep 0) Pln.SWITCH_AT_HI 0 * 2 ^ 32 →
    ∃ t, exec (.switchAtWrite v) s = .next t ∧
    (s.bankState s.targetBank ≠ 2 → errSet t (pgKeep 0) 10 ∧ t.watch.raised = s.watch.raised ++ [(2, 0)] ∧ t.sched = s.sched) ∧
    (s.bankState s.targetBank = 2 → tickReached s.now n = true →
      errSet t (pgKeep 0) 9 ∧ t.watch.raised = s.watch.raised ++ [(2, 0)] ∧ t.sched = s.sched) ∧
    (s.bankState s.targetBank = 2 → tickReached s.now n = false → s.rdb (pgKeep 0) Pln.ARMED 0 = true →
      errSet t (pgKeep 0) 11 ∧ t.watch.raised = s.watch.raised ++ [(2, 0)] ∧ t.sched = s.sched) ∧
    (s.bankState s.targetBank = 2 → tickReached s.now n = false → s.rdb (pgKeep 0) Pln.ARMED 0 = false →
      t.rd (pgKeep 0) Pln.ARMED 0 = 1 ∧ t.rd (pgKeep 0) Pln.SWITCH_AT_LO 0 = v % 2 ^ 32 ∧ t.watch = s.watch ∧
      t.sched = { s.sched with armBank := s.targetBank, armAt := n })) ∧
  ∀ (hi : Nat) (s : State), ∃ t, exec (.disarm hi) s = .next t ∧ t.rd (pgKeep 0) Pln.SWITCH_AT_HI 0 = hi % 2 ^ 16 ∧
    t.sched = s.sched ∧
    (s.rdb (pgKeep 0) Pln.ARMED 0 = true → tickReached s.now s.switchAtTick = false → t.rd (pgKeep 0) Pln.ARMED 0 = 0) ∧
    (s.rdb (pgKeep 0) Pln.ARMED 0 = false ∨ tickReached s.now s.switchAtTick = true →
      t.rd (pgKeep 0) Pln.ARMED 0 = s.rd (pgKeep 0) Pln.ARMED 0)

/-! ## The host attachment -/

/-- A host frame (R133, R135–R137): a bad one is counted; a pause frame acts as its command; one beyond its policer is dropped and
counted; another joins its priority's ingress buffer, which is paused from XOFF on, or is dropped and counted where the buffer or
the pool has no room or the link is down. The ingress buffer whose turn it is forwards its next flit as the egress queue has room,
and a full overflow region is counted once; its frame for the module goes to the Lantern, and one whose destination is not in the
frame table is a miss (R128, R133, R385). -/
def Sys2Proof.Machine.HostFramesEnter : Prop :=
  (∀ (fr : List Byte) (s : State), ∃ t, exec (.hostFrameReceive fr) s = .next t ∧
    ((64 ≤ fr.length && fr.length ≤ 9216 && fcsOk fr) = false →
      counted s t pgK3 Hst.FRAME_ERR 1 ∧ errSet t pgK3 20 ∧ sameBeyondReports s t) ∧
    ((64 ≤ fr.length && fr.length ≤ 9216 && fcsOk fr) = true → etype fr = 0x8808 →
      (beAt fr (etypeAt fr + 2) 2 = 0x0101 → exec (.pfcFrameReceive (beAt fr (etypeAt fr + 4) 2)
        ((List.range 8).map fun p => beAt fr (etypeAt fr + 6 + 2 * p) 2)) s = .next t) ∧
      (beAt fr (etypeAt fr + 2) 2 = 0x0001 → counted s t pgHost Mac.PAUSE_IGN 1 ∧ sameBeyondRegs s t)) ∧
    (∀ p, (64 ≤ fr.length && fr.length ≤ 9216 && fcsOk fr) = true → etype fr ≠ 0x8808 → p = s.framePcp fr →
      (s.rdb pgK3 Hst.POL_EN p = true → s.polLevel p < fr.length * 8800 →
        t.rd pgK3 Hst.POL_DROP p = (s.rd pgK3 Hst.POL_DROP p + 1) % 2 ^ 32 ∧ t.host = s.host ∧ t.out = s.out) ∧
      (s.rdb pgK3 Hst.POL_EN p = false ∨ fr.length * 8800 ≤ s.polLevel p →
        (s.rdb pgHost Mac.LINK_UP 0 = false → counted s t pgK3 Hst.ING_DROP 1 ∧ t.ing p = s.ing p) ∧
        (s.rdb pgHost Mac.LINK_UP 0 = true →
          s.rd pgK3 Hst.ING_CAP 0 < s.ingCells p + frameCells fr.length ∨ s.poolHas 3 (frameCells fr.length) = false →
          counted s t pgK3 Hst.ING_DROP 1 ∧ errSet t pgK3 (if bit (s.rd pgK3 Hst.PFC_TX_EN 0) p then 23 else 21) ∧
          t.ing p = s.ing p) ∧
        (s.rdb pgHost Mac.LINK_UP 0 = true → s.ingCells p + frameCells fr.length ≤ s.rd pgK3 Hst.ING_CAP 0 →
          s.poolHas 3 (frameCells fr.length) = true →
          t.ing p = s.ing p ++ [⟨fr, [], frameCells fr.length, false⟩] ∧
          (bit (s.rd pgK3 Hst.PFC_TX_EN 0) p = true → s.pausedTx p = false → s.rd pgK3 Hst.XOFF 0 ≤ t.ingCells p →
            t.out = s.out ++ [.pfc (2 ^ p) 0xFFFF]))))) ∧
  ∀ (p : Nat) (s : State), ∃ t, exec (.hostIngressForward p) s = .next t ∧
    (s.ingressNext ≠ some p → t = s) ∧
    (s.ingressNext = some p → s.ing p = [] → t = s.setHost { s.host with cur := none }) ∧
    (∀ fr rest fl, s.ingressNext = some p → s.ing p = fr :: rest →
      fl = (if fr.flits.isEmpty then s.frameFlits fr.bytes else fr.flits) →
      (fl = [] → t.ing p = rest ∧ t.host.rr = p ∧ t.host.cur = none ∧ t.opn = s.opn ∧
        (s.frameOurs fr.bytes = true →
          ((s.isArpForUs fr.bytes || s.isNsForUs fr.bytes || s.isUdpForUs fr.bytes) = true →
            t.host.lantern = s.host.lantern ++ [fr.bytes]) ∧
          ((s.isArpForUs fr.bytes || s.isNsForUs fr.bytes || s.isUdpForUs fr.bytes) = false →
            counted s t pgHost Mac.RX_NOTOURS 1 ∧ t.host.lantern = s.host.lantern)) ∧
        (s.frameOurs fr.bytes = false → counted s t pgK3 Hst.FT_MISS 1 ∧ t.host.lantern = s.host.lantern)) ∧
      ∀ f more, fl = f :: more →
        (s.hostRoom f = false → s.hostFull f = none ∨ fr.counted = true → t = s) ∧
        (∀ k, s.hostRoom f = false → s.hostFull f = some k → fr.counted = false →
          counted s t (pgKeep k) Opn.OVF_FULL 1 ∧ errSet t (pgKeep k) 17 ∧ t.ing p = { fr with counted := true } :: rest) ∧
        (s.hostRoom f = true →
          t.ing p = (if more = [] then rest else { fr with flits := more, cells := fr.cells - f.cells, counted := false } :: rest) ∧
          t.host.rr = p ∧ t.host.cur = (if more = [] then none else some p) ∧
          t.opn = (s.forward 3 .ingress none none f).opn))

/-- Priority flow control (R136, R137): while PFC_TX_EN is set and a paused priority's buffer stands at or above XON its pause is
repeated every 8,192 cc, and below XON it ends; a received frame pauses or resumes each priority that it enables and PFC_RX_EN
admits; a pause whose quanta have passed ends, and its queue is tagged again from V (R139). -/
def Sys2Proof.Machine.PausesAreSentAndObeyed : Prop :=
  (∀ (p : Nat) (s : State), ∃ t, exec (.pfcRepeat p) s = .next t ∧
    (bit (s.rd pgK3 Hst.PFC_TX_EN 0) p = true → s.pausedTx p = true → s.rd pgK3 Hst.XON 0 ≤ s.ingCells p →
      AL.getD s.host.pfcAt p 0 + 8192 ≤ s.clock →
      t.out = s.out ++ [.pfc (2 ^ p) 0xFFFF] ∧ t.host = { s.host with pfcAt := AL.put s.host.pfcAt p s.clock }) ∧
    (bit (s.rd pgK3 Hst.PFC_TX_EN 0) p = false ∨ s.pausedTx p = false ∨ s.ingCells p < s.rd pgK3 Hst.XON 0 ∨
      s.clock < AL.getD s.host.pfcAt p 0 + 8192 → t = s)) ∧
  (∀ (p : Nat) (s : State), p < 8 → ∃ t, exec (.pfcXon p) s = .next t ∧
    (s.xonDue p = true → t.out = s.out ++ [.pfc (2 ^ p) 0] ∧ t.pausedTx p = false ∧ t.host = s.host) ∧
    (s.xonDue p = false → t = s)) ∧
  (∀ (enable : Nat) (quanta : List Nat) (s : State), ∃ t, exec (.pfcFrameReceive enable quanta) s = .next t ∧
    t = { s with host := t.host } ∧ ∀ p, p < 8 →
      ((bit enable p && bit (s.rd pgK3 Hst.PFC_RX_EN 0) p) = false → AL.get t.host.pauseEnd p = AL.get s.host.pauseEnd p ∧
        t.wq p = s.wq p) ∧
      ((bit enable p && bit (s.rd pgK3 Hst.PFC_RX_EN 0) p) = true →
        (quanta.getD p 0 ≠ 0 → AL.get t.host.pauseEnd p = some (s.clock + quantaCc (quanta.getD p 0))) ∧
        (quanta.getD p 0 = 0 → AL.get t.host.pauseEnd p = none))) ∧
  ∀ (p : Nat) (s : State), ∃ t, exec (.pauseExpiry p) s = .next t ∧
    (∀ n, AL.get s.host.pauseEnd p = some n → n ≤ s.clock → t = { s with host := t.host } ∧
      AL.get t.host.pauseEnd p = none ∧ t.wq p = s.retag p s.host.vt (s.wq p)) ∧
    (∀ n, AL.get s.host.pauseEnd p = some n → s.clock < n → t = s) ∧
    (AL.get s.host.pauseEnd p = none → t = s)

/-- A packet of ETH_FRAME flits is complete at its LAST: a bad frame is counted, a good one joins its weighted queue where it has
room, whole or with its ECN mark (R131, R132, R134). A frame starts while the link is up: the first strict queue that qualifies,
else the smallest finish tag (R138, R139). The link comes up where EN and its domain let it; going down empties the ingress
buffers with PG_ERR.LINK_DOWN (R136, R395). -/
def Sys2Proof.Machine.HostFramesLeave : Prop :=
  (∀ (vc : Nat) (s : State), ∃ t, exec (.ethFrameReassembled vc) s = .next t ∧
    (uptoLast (s.macFlits vc) = none → t = s) ∧
    (∀ fl, uptoLast (s.macFlits vc) = some fl → s.flitGood (.service 2) →
      (frameOf fl = none → counted s t pgK3 Hst.FRAME_ERR 1 ∧ errSet t pgK3 20 ∧ t.host.weighted = s.host.weighted) ∧
      (∀ fr, frameOf fl = some fr → fcsOk fr = false →
        counted s t pgK3 Hst.FRAME_ERR 1 ∧ errSet t pgK3 20 ∧ t.host.weighted = s.host.weighted) ∧
      (∀ fr, frameOf fl = some fr → fcsOk fr = true → s.rdb pgHost Mac.LINK_UP 0 = true →
        wqCells (s.wq (s.framePcp fr)) + frameCells fr.length ≤ s.rd pgK3 Hst.QCAP (s.framePcp fr) →
        s.poolHas 3 (frameCells fr.length) = true →
        ∃ x, t.wq (s.framePcp fr) = s.wq (s.framePcp fr) ++ [x] ∧ (x.bytes = fr ∨ ecnMark fr = some x.bytes) ∧
          (s.rdb pgK3 Hst.ECN_EN 0 = false → x.bytes = fr)))) ∧
  (∀ s : State, ∃ t, exec .hostFrameStart s = .next t ∧
    (s.rdb pgHost Mac.LINK_UP 0 = false → t = s) ∧
    (∀ q f rest, s.rdb pgHost Mac.LINK_UP 0 = true → (List.range 3).find? s.strictReady = some q →
      AL.getD s.host.strict q [] = f :: rest → t.out = s.out ++ [.frame f] ∧ AL.getD t.host.strict q [] = rest ∧
        t.host.weighted = s.host.weighted) ∧
    (∀ q f, s.rdb pgHost Mac.LINK_UP 0 = true → (List.range 3).find? s.strictReady = none → s.weightedPick = some (q, f) →
      t.out = s.out ++ [.frame f.bytes] ∧ t.wq q = (s.wq q).drop 1 ∧ t.host.vt = f.fin) ∧
    (s.rdb pgHost Mac.LINK_UP 0 = true → (List.range 3).find? s.strictReady = none → s.weightedPick = none → t = s)) ∧
  (∀ s : State, ∃ t, exec .hostLinkUp s = .next t ∧
    (s.rdb pgHost Hdr.EN 0 = true → s.rdb pgHost Mac.LINK_UP 0 = false → s.domState 332 < 2 →
      t.rd pgHost Mac.LINK_UP 0 = 1 ∧ t.events.next = s.events.next ∧ t.events.items.length = s.events.items.length) ∧
    (s.rdb pgHost Hdr.EN 0 = false ∨ s.rdb pgHost Mac.LINK_UP 0 = true ∨ 2 ≤ s.domState 332 → t = s)) ∧
  ∀ s : State, ∃ t, exec .hostLinkDown s = .next t ∧
    (s.rdb pgHost Mac.LINK_UP 0 = true → t.rd pgHost Mac.LINK_UP 0 = 0 ∧ errSet t pgHost 0 ∧ t.rd pgK3 Hst.PAUSED_TX 0 = 0 ∧
      (∀ p, t.ing p = []) ∧
      t.rd pgK3 Hst.ING_DROP 0 = (s.rd pgK3 Hst.ING_DROP 0 + sumL ((List.range 8).map fun p => (s.ing p).length)) % 2 ^ 32) ∧
    (s.rdb pgHost Mac.LINK_UP 0 = false → t = s)

/-- Frames of the host attachment: entering, pausing and leaving (R131–R139, R385, R395). The ten rows complete in every state. -/
def Obligations.HostFramesPass : Prop := HostFramesEnter ∧ PausesAreSentAndObeyed ∧ HostFramesLeave

/-! ## The memory and register service -/

/-- The command of a memory request's opcode. -/
def Sys2Proof.Machine.memCommand (op : Nat) (f : Flit) : Instr :=
  match op with
  | 1 => .memRd f | 2 => .memWr f | 3 => .atomAdd f | 4 => .atomAddFetch f | 0x10 => .bulkRd f | _ => .bulkWr f

/-- A request was answered: `t` is a state `u` after the access with the reply on its way by Keep 0's routes (R60; that all replies
take Keep 0's routes is the model's choice, log 190). -/
def Sys2Proof.Machine.replied (s u t : State) (f : Flit) (status : Nat) (data : List Byte) : Prop :=
  t = u.forward 0 (s.replySource f) none none (s.replyOf f status data)

/-- Nothing stored reads bad and no line stands in an atomic window. -/
def Sys2Proof.Machine.State.unmarked (s : State) : Prop := s.arrays.symErr = [] ∧ s.atoms = []

/-- A request's row is that of its kind and opcode, and a retry does not stop it on its way to its Cupola (R77). -/
abbrev Sys2Proof.Machine.State.requestRuns (s : State) (op : Nat) (f : Flit) : Prop :=
  f.kind = 1 ∧ f.opcode = op ∧ s.requestStopped f = false ∧ s.flitGood (.service 0)

/-- Something makes a request wait: its tile, its stack, its tile's instruction memory, or an earlier request (R229, R251, R301,
R312). -/
abbrev Sys2Proof.Machine.State.waits (s : State) (a : Target) (f : Flit) : Bool :=
  s.mustWait a f.opcode || s.imemWaits a f || s.queuedBefore a f

/-- The memory service (R309–R313): a request of another kind or opcode is not its row's, and one whose link is stopped stays; one
with a bad header is counted and discarded (R61), a poisoned one discarded (R125), and one whose header the Keep's buffer has lost
(R337); one that a check refuses is answered with the check's status and no access; one that must wait is kept. A plain read
answers OK with the bytes, and changes none; a plain write answers OK once exactly its bytes stand at the address. -/
def Sys2Proof.Machine.MemoryRequestsAreServed : Prop :=
  ∀ (op : Nat) (f : Flit) (s : State), op = 1 ∨ op = 2 ∨ op = 3 ∨ op = 4 ∨ op = 0x10 ∨ op = 0x11 →
    (f.kind ≠ 1 ∨ f.opcode ≠ op ∨ s.requestStopped f = true → exec (memCommand op f) s = .next s) ∧
    (f.kind = 1 → f.opcode = op → s.requestStopped f = false → s.headerLost (.service 0) →
      (s.opn.service.find? fun x => x.1 = 0).map (fun x => x.2.2) = some f →
      ∃ t, exec (memCommand op f) s = .next t ∧ t.mem = s.mem ∧ t.waiting = s.waiting ∧ t.out = s.out) ∧
    (s.requestRuns op f →
      (f.hcrcOk = false → exec (memCommand op f) s = .next ((s.unserve 0 f).headerDiscard 0)) ∧
      (f.hcrcOk = true → f.poison = true → exec (memCommand op f) s = .next (s.unserve 0 f)) ∧
      (f.hcrcOk = true → f.poison = false → ∃ t, exec (memCommand op f) s = .next t ∧
        (∀ st, s.target f = .inl st → ∃ u, replied s u t f st [] ∧ u.mem = s.mem ∧ u.opn = (s.unserve 0 f).opn) ∧
        (∀ a, s.target f = .inr a → s.waits a f = true →
          t.waiting = s.waiting ++ [f] ∧ t.mem = s.mem ∧ t.opn = (s.unserve 0 f).opn) ∧
        (∀ a, s.target f = .inr a → s.waits a f = false → a.sp < 3 → a.seg = none →
          (a.sp = spHbm → s.rd (pgHbm (stackOf a.loc)) Hbm.HSTATE 0 ≠ 4) → s.unmarked → memWf s.mem = true →
          a.off + (reqOf f).size ≤ 2 ^ 40 →
          (op = 1 ∨ op = 0x10 → ∃ u, replied s u t f 0 (s.peek a.sp a.off (reqOf f).size) ∧ u.mem = s.mem) ∧
          (op = 2 ∨ op = 0x11 → ∃ u, replied s u t f 0 [] ∧ u.peek a.sp a.off (reqOf f).size = (reqOf f).data ∧
            storesOnly s u a.sp a.off (reqOf f).size))))

/-- The bytes at a request's target before it, and the sums that an atomic leaves there (R313). -/
def Sys2Proof.Machine.State.oldBytes (s : State) (a : Target) (f : Flit) : List Byte := s.peek a.sp a.off (reqOf f).data.length
def Sys2Proof.Machine.State.atomBytes (s : State) (a : Target) (f : Flit) : List Byte :=
  (atomSum (reqOf f).fmt (atomWidth (reqOf f).fmt) (s.oldBytes a f) (reqOf f).data).1

/-- A target in a tile: its store, or its register page. -/
def Sys2Proof.Machine.tileAccess (g : Nat) (t : Target) : Bool :=
  (t.sp = spTile && t.off / 2 ^ 21 = g)
    || (t.sp = 3 && (match pageAt t.off with
      | some p => decide (p = pgTile g)
      | none => false))

/-- Atomic adds (R195, R313): ATOM_ADD_FETCH answers with the bytes before the add, ATOM_ADD without data. In a Drum the sum is
written in place; in HBM without a free window line it is written to the granule; and a line with room for it is taken into the
window. Requests that wait are performed oldest first, once nothing holds them: those of a tile (R229, R251), those of a stack
that wakes (R301). -/
def Sys2Proof.Machine.AtomicsAndWaitingRequests : Prop :=
  (∀ (f : Flit) (a : Target) (s : State), s.requestRuns f.opcode f → f.opcode = 3 ∨ f.opcode = 4 → f.hcrcOk = true → f.poison = false →
    s.target f = .inr a → s.waits a f = false → s.unmarked → memWf s.mem = true →
    a.off + (reqOf f).size ≤ 2 ^ 40 →
    ∃ t, exec (memCommand f.opcode f) s = .next t ∧
      (a.sp = spDrum → ∃ u, replied s u t f 0 (if f.opcode = 4 then s.oldBytes a f else []) ∧
        u.mem = (s.poke a.sp a.off (s.atomBytes a f)).mem) ∧
      (a.sp = spHbm → s.rd (pgHbm (stackOf a.loc)) Hbm.HSTATE 0 ≠ 4 →
        ∃ u, replied s u t f 0 (if f.opcode = 4 then s.oldBytes a f else []) ∧
          (s.atomSlot (atomCup (a.off / 64)) = none → u.atoms = [] ∧
            u.peek spHbm a.off (s.atomBytes a f).length = s.atomBytes a f) ∧
          (s.atomSlot (atomCup (a.off / 64)) ≠ none → ∃ x, u.atoms = [x] ∧ x.line = a.off / 64 ∧ x.tick = s.now ∧
            u.peek spDrum (64 * u.atomLine x + a.off % 64) (s.atomBytes a f).length = s.atomBytes a f))) ∧
  (∀ (g : Nat) (s : State), (∀ f ∈ s.waiting, ∃ a, s.target f = .inr a) → ∃ t, exec (.tileStoreAccess g) s = .next t ∧
    (s.nextWaiting (fun a _ => tileAccess g a) = none → t = s) ∧
    ∀ f a, s.nextWaiting (fun a _ => tileAccess g a) = some (f, a) →
      t.waiting = s.waiting.erase f ∧ ∃ u st data, replied s u t f st data) ∧
  ∀ (st : Nat) (s : State), (∀ f ∈ s.waiting, ∃ a, s.target f = .inr a) → ∃ t, exec (.hbmWakeWait st) s = .next t ∧
    (s.nextWaiting (fun a _ => a.sp = spHbm && stackOf a.loc = st) = none → t = s) ∧
    ∀ f a, s.nextWaiting (fun a _ => a.sp = spHbm && stackOf a.loc = st) = some (f, a) →
      t.waiting = s.waiting.erase f ∧ ∃ u st data, replied s u t f st data

/-- Memory requests and atomics are checked, performed or made to wait, and answered (R77, R125, R195, R229, R301, R309–R313). The
eight rows complete in every state. -/
def Obligations.MemoryRequestsAndAtomicsAreServed : Prop := MemoryRequestsAreServed ∧ AtomicsAndWaitingRequests

/-! ## Compute tiles -/

/-- The command of a tile instruction with a data effect. -/
def Sys2Proof.Machine.dataCommand (op g i : Nat) : Instr :=
  match op with
  | 0x01 => .billinCopy g i | 0x02 => .fill g i | 0x03 => .gather g i | 0x04 => .scatter g i | 0x10 => .billinMma g i
  | 0x11 => .add g i | 0x12 => .sub g i | 0x13 => .mul g i | 0x14 => .fma g i | 0x15 => .max g i | 0x16 => .min g i
  | 0x17 => .div g i | 0x18 => .sqrt g i | 0x19 => .exp2 g i | 0x1A => .sign g i | 0x1B => .abs g i | 0x20 => .rsum g i
  | 0x21 => .rmax g i | _ => .rmin g i

/-- The result rows of an instruction that computes its whole destination, converted to its format (R238–R241). -/
def Sys2Proof.Machine.State.resultRows (s : State) (c : ICtx) : List TRow :=
  if c.x.op = 0x02 then (List.range c.dd.rows).map fun i =>
    { idx := i, els := List.replicate c.dd.cols (c.x.imm0 % 2 ^ fmtBits c.dd.fmt, false),
      scales := List.replicate c.dd.rowScales (c.x.imm1 % 256) }
  else if c.x.op = 0x03 then (List.range c.dd.rows).map fun i =>
    if (s.indexAt c i).2 then zeroRow c.dd i true
    else match inTable c.da.rows (s.indexAt c i).1 with
      | some r => s.rowBits c.g c.da i r
      | none => zeroRow c.dd i false
  else if c.x.op = 0x10 then (List.range c.dd.rows).map fun i =>
    (convRow c.dd (s.icRnd c) (s.sat (.tile c.g)) false i ((List.range c.dd.cols).map fun j =>
      (s.mmaAt c i j (((List.range c.da.rows).map (s.trow c.g c.da)).getD i [])
        (((List.range c.db.rows).map (s.trow c.g c.db)).getD j [])).1)).1
  else if isRowRed c.x.op then (List.range c.da.rows).map fun i =>
    (convRow c.dd (s.icRnd c) (s.sat (.tile c.g)) false i [TVal.inner
      ((if c.x.op = 0x20 then sumRow i (s.trow c.g c.da i) else extremeRow (c.x.op = 0x21) i (s.trow c.g c.da i)).1.getD .zero)
      ((s.trow c.g c.da i).any fun x => !x.absent && x.bad)]).1
  else (List.range c.dd.rows).map fun i =>
    (convRow c.dd (s.icRnd c) (s.sat (.tile c.g)) (c.x.op = 0x01) i
      ((List.range c.dd.cols).map fun j => (s.elemAt c i j).1)).1

/-- The bytes of a list of rows. -/
def Sys2Proof.Machine.rowsBytes (d : TDesc) (l : List TRow) : List Byte := l.flatMap (TRow.bytes d)

/-- A tile instruction that may be performed now completes with its data effect; one that may not has no effect (R238–R242). Where
its destination is dense, whole and in the tile store, and nothing is poisoned, the destination then holds the results, computed
exactly and converted once, and no other byte changes. A SCATTER without a reduction leaves in each row of D that an index names the
last row of A that names it (R241). Bytes of HBM that it shares with another queue without an order are open before and after it
(R246, R381); the results are stated where there are none. The nineteen rows complete so. -/
def Obligations.TileInstructionsComplete : Prop :=
  ∀ (op g i : Nat) (s : State), op ∈ [0x01, 0x02, 0x03, 0x04, 0x10, 0x11, 0x12, 0x13, 0x14, 0x15, 0x16, 0x17, 0x18, 0x19, 0x1A,
      0x1B, 0x20, 0x21, 0x22] →
    (s.insnNow g i op = none → exec (dataCommand op g i) s = .next s) ∧
    ∀ c, s.insnNow g i op = some c → ∃ t, exec (dataCommand op g i) s = .next t ∧
      t = ((((s.raceOpen c).insnData c).raceOpen c).spotCapture c).insnDone g i ∧ (t.tile g).done = i :: (s.tile g).done ∧
      (∀ i r o l, op = 0x04 → raceSpans c.m (c.i, c.x) = [] → c.x.imm0 % 4 = 0 → c.dd.hbm = false → c.dd.mx = false → c.dd.ld = c.dd.rowBytes →
        s.arrays.symErr = [] → memWf s.mem = true → (∀ j, j < c.da.rows → (s.indexAt c j).2 = false ∧
          ((s.rowBits c.g c.da r j).bytes c.dd).length = c.dd.rowBytes ∧ ∀ e ∈ (s.rowBits c.g c.da r j).els, e.2 = false) →
        o = g * 2 ^ 21 + c.dd.addr % 2 ^ 21 → o + c.dd.rows * c.dd.rowBytes ≤ 2 ^ 40 →
        i < c.da.rows → inTable c.dd.rows (s.indexAt c i).1 = some r →
        (∀ j, i < j → j < c.da.rows → inTable c.dd.rows (s.indexAt c j).1 ≠ some r) →
        l = (s.rowBits c.g c.da r i).bytes c.dd → t.peek spTile (o + r * c.dd.rowBytes) l.length = l) ∧
      (∀ o l, op ≠ 0x04 → raceSpans c.m (c.i, c.x) = [] → (c.x.usesFp64 c.m && s.svc (.tile c.g) = 0) = false →
        c.dd.hbm = false → c.dd.mx = false → c.dd.ld = c.dd.rowBytes → (s.resultRows c).length = c.dd.rows →
        (∀ r ∈ s.resultRows c, r.scales = [] ∧ ∀ e ∈ r.els, e.2 = false) → s.arrays.symErr = [] → memWf s.mem = true →
        o = g * 2 ^ 21 + c.dd.addr % 2 ^ 21 → l = rowsBytes c.dd (s.resultRows c) → o + l.length ≤ 2 ^ 40 →
        t.peek spTile o l.length = l ∧ storesOnly s t spTile o l.length)

/-- The command of a fence. -/
def Sys2Proof.Machine.fenceCommand (op g i : Nat) : Instr :=
  if op = opAcq then .fenceAcq g i else if op = opRel then .fenceRel g i else .fenceFull g i

/-- Fences complete once nothing holds them back, and do nothing else (R243). FLAG.SET adds one to its flag, 255 at most. A wait
completes when its flag holds its count and no lower queue's wait for that flag can: the count is subtracted; until then it waits
(R244). FLAG.WAITV reads its count from the tile store; one above 255, or poisoned, is a COUNT fault and ends it (R241). -/
def Sys2Proof.Machine.FencesAndFlagsOrderTheBody : Prop :=
  (∀ (op g i : Nat) (s : State), op = opAcq ∨ op = opRel ∨ op = opFull →
    (s.insnNow g i op = none → exec (fenceCommand op g i) s = .next s) ∧
    ∀ c, s.insnNow g i op = some c → exec (fenceCommand op g i) s = .next (s.insnDone g i) ∧
      ((s.insnDone g i).tile g).done = i :: (s.tile g).done) ∧
  (∀ (g i : Nat) (s : State), (s.insnNow g i opSet = none → exec (.flagSet g i) s = .next s) ∧
    ∀ c, s.insnNow g i opSet = some c → ∃ t, exec (.flagSet g i) s = .next t ∧ t = { s with tiles := t.tiles } ∧
      (t.tile g).done = i :: (s.tile g).done ∧ (t.tile g).flag c.x.flag = min 255 ((s.tile g).flag c.x.flag + 1) ∧
      ∀ f, f ≠ c.x.flag → (t.tile g).flag f = (s.tile g).flag f) ∧
  (∀ (g i : Nat) (s : State), (s.insnNow g i opWait = none → exec (.flagWait g i) s = .next s) ∧
    ∀ c, s.insnNow g i opWait = some c → (∀ w ∈ (s.tile g).waits, w.q ≠ c.x.q) →
      ∃ t, exec (.flagWait g i) s = .next t ∧ t = { s with tiles := t.tiles } ∧
      ((s.tile g).flag c.x.flag < c.x.imm1 % 256 → (t.tile g).done = (s.tile g).done ∧
        (t.tile g).waits = (s.tile g).waits ++ [⟨c.x.q, i, c.x.flag, c.x.imm1 % 256⟩]) ∧
      (c.x.imm1 % 256 ≤ (s.tile g).flag c.x.flag → (∀ w ∈ (s.tile g).waits, w.flag ≠ c.x.flag) →
        (t.tile g).done = i :: (s.tile g).done ∧ (t.tile g).waits = (s.tile g).waits ∧
        (t.tile g).flag c.x.flag = (s.tile g).flag c.x.flag - c.x.imm1 % 256)) ∧
  (∀ (g i : Nat) (s : State), (s.insnNow g i opWaitv = none → exec (.flagWaitv g i) s = .next s) ∧
    ∀ c n, s.insnNow g i opWaitv = some c → n = s.planPeekN spTile (g * 2 ^ 21 + c.x.imm1) 4 → s.arrays.symErr = [] →
      ∃ t, exec (.flagWaitv g i) s = .next t ∧
      (n = 0 → (t.tile g).done = i :: (s.tile g).done) ∧
      (255 < n → (t.tile g).done = i :: (s.tile g).done ∧ errSet t (pgTile g) 1 ∧
        t.rd (pgTile g) Til.BOUND_CNT 0 = min (s.rd (pgTile g) Til.BOUND_CNT 0 + 1) (2 ^ 32 - 1)) ∧
      (0 < n → n ≤ 255 → (∀ w ∈ (s.tile g).waits, w.q ≠ c.x.q) → (s.tile g).flag c.x.flag < n →
        (t.tile g).waits = (s.tile g).waits ++ [⟨c.x.q, i, c.x.flag, n⟩])) ∧
  ∀ (g q : Nat) (s : State), ∃ t, exec (.flagWaitDone g q) s = .next t ∧
    ((s.tile g).running = false ∨ s.planTick.runs = false ∨ (s.tile g).waits.find? (fun w => w.q = q) = none → t = s) ∧
    ∀ w, (s.tile g).running = true → s.planTick.runs = true → (s.tile g).waits.find? (fun w => w.q = q) = some w →
      ((s.tile g).flag w.flag < w.need → t = s) ∧
      (w.need ≤ (s.tile g).flag w.flag →
        (∀ v ∈ (s.tile g).waits, v.q < q → v.flag = w.flag → (s.tile g).flag v.flag < v.need) →
        (t.tile g).done = w.insn :: (s.tile g).done ∧ (t.tile g).waits = (s.tile g).waits.filter (fun v => v.q ≠ q) ∧
        (t.tile g).flag w.flag = (s.tile g).flag w.flag - w.need)

/-- A body whose every instruction is complete ends: the tile is idle, with LAST_CC its time, and the writes that waited for it
are performed (R230, R251). A copy that finishes is in the shadow; a late body then starts, counted, with PG_ERR 5, but not inside
the guard interval (R37, R249). A write of IMEM_WDATA by the Lantern waits while a body runs, else it stores its word in the bank
that is not fetched and advances IMEM_WADDR; it answers BUS_ERR on the fetch bank or while a copy runs, and PERM to any other
writer (R250, R251). -/
def Sys2Proof.Machine.BodiesEndAndCodeArrives : Prop :=
  (∀ (g : Nat) (s : State), ∃ t, exec (.tickBodyComplete g) s = .next t ∧
    (s.planTick.runs = false ∨ s.bodyAllDone g = false → t = s) ∧
    (s.planTick.runs = true → s.bodyAllDone g = true → (t.tile g).body = none ∧ (t.tile g).imem = [] ∧
      t.rd (pgTile g) Til.STATE 0 = 0 ∧ t.rd (pgTile g) Til.LAST_CC 0 = min (s.clock - (s.tile g).start) 0xFFFF)) ∧
  (∀ (g : Nat) (s : State), ∃ t, exec (.prefetchComplete g) s = .next t ∧
    ((s.tile g).copy = none → t = s) ∧
    (∀ m, (s.tile g).copy = some m →
      ((s.tile g).late = false → t = s.setTile g { s.tile g with shadow := some m, copy := none }) ∧
      ((s.tile g).late = true → counted s t (pgTile g) Til.PREFETCH_LATE 1 ∧ errSet t (pgTile g) 5 ∧
        (s.inGuard = true → t.tiles = (s.setTile g { s.tile g with shadow := some m, copy := none }).tiles) ∧
        (s.inGuard = false → (s.tile g).body ≠ none → (t.tile g).late = false ∧ (t.tile g).fetch = some m ∧
          t.rd (pgTile g) Til.STATE 0 = 1)))) ∧
  ∀ (g v : Nat) (lantern : Bool) (s : State), ∃ t, exec (.imemWdataWrite g lantern v) s = .next t ∧
    (lantern = false → t = s.emit (.value 6)) ∧
    (lantern = true → (s.tile g).running = true → t = s.setTile g { s.tile g with imem := (s.tile g).imem ++ [(0x1B4, v)] }) ∧
    (lantern = true → (s.tile g).running = false → (s.rd (pgTile g) Til.IMEM_WBANK 0 = s.rd (pgTile g) Til.FETCH_BANK 0 ∨ (s.tile g).copy ≠ none) →
      t.out = s.out ++ [.value 8] ∧ errSet t (pgTile g) 6 ∧ t.mem = s.mem) ∧
    (lantern = true → (s.tile g).running = false → s.rd (pgTile g) Til.IMEM_WBANK 0 ≠ s.rd (pgTile g) Til.FETCH_BANK 0 → (s.tile g).copy = none →
      t.out = s.out ++ [.value 0] ∧ t.rd (pgTile g) Til.IMEM_WADDR 0 = (s.rd (pgTile g) Til.IMEM_WADDR 0 + 4) % 2 ^ 16 ∧
      t.mem = (s.poke spCode (g * 2 ^ 17 + s.rd (pgTile g) Til.IMEM_WBANK 0 * 2 ^ 16 + s.rd (pgTile g) Til.IMEM_WADDR 0 / 4 * 4)
        (leBytes 4 v)).mem ∧ (t.tile g).shadow = none)

/-- Fences and flags order a tick body, it ends once every instruction is complete, and its code arrives (R230, R241–R244, R249,
R250). The ten rows complete in every state. -/
def Obligations.BodiesRunToTheirEnd : Prop := FencesAndFlagsOrderTheBody ∧ BodiesEndAndCodeArrives

/-! ## The resident library -/

/-- The command of a library routine, by its ID. -/
def Sys2Proof.Machine.libCommand (id g i : Nat) : Instr :=
  match id with
  | 1 => .sort g i | 2 => .topk g i | 3 => .softmax g i | 4 => .attnPartial g i | 5 => .attnMerge g i | 6 => .libScan g i
  | 7 => .histogram g i | _ => .filter g i

/-- What a library routine does. -/
def Sys2Proof.Machine.State.routine (s : State) (id : Nat) (c : ICtx) : State :=
  match id with
  | 1 => s.libSort c | 2 => s.libTopk c | 3 => s.libSoftmax c | 4 => s.libAttnPartial c | 5 => s.libAttnMerge c
  | 6 => s.libScan c | 7 => s.libHistogram c | _ => s.libFilter c

/-- The K first records of a row in TOPK's order, valued by their columns (R263). -/
def Sys2Proof.Machine.State.topRecs (s : State) (c : ICtx) (i : Nat) : List Rec :=
  (sortRecs c.da.fmt (bit c.x.imm1 16) ((List.range (s.trow c.g c.da i).length).map fun j =>
    { key := (((s.trow c.g c.da i)[j]?).map TEl.enc).getD 0, value := j, bad := false })).take (c.x.imm1 % 2 ^ 16)

/-- The partial row that ATTN_PARTIAL computes for query row `i` (R265, R266). -/
def Sys2Proof.Machine.State.attnVals (s : State) (c : ICtx) (a : AttnArg) (i : Nat) : List Val :=
  (attnRow (s.icSat c) c.dc.fmt c.dc.cols (i * c.dd.cols) c.db.rows (a.live i)
    (fun j => (attnScore (s.icSat c) a.scale (i * c.dd.cols) j c.da.fmt c.db.fmt (s.trow c.g c.da i) (s.trow c.g c.db j)).1)
    fun j col => ((s.trow c.g c.dc j)[col]?).getD (absentEl c.dc 127)).1

/-- The counts of HISTOGRAM: bin `b` counts the elements of A equal to b, from D's old count under ACC, at most 2^31 − 1 (R269). -/
def Sys2Proof.Machine.State.binCount (s : State) (c : ICtx) (b : Nat) : Int :=
  min ((if bit c.x.imm1 0 then toSigned 32 ((((s.trow c.g c.dd 0)[b]?).map TEl.enc).getD 0) else 0) +
    ((((List.range c.da.rows).flatMap (s.trow c.g c.da)).filter fun (x : TEl) => toSigned 32 x.enc == (b : Int)).length : Int))
    (2 ^ 31 - 1)

/-- Element `k` of row `i` of FILTER: the entry of the map that A names where B passes the threshold, else −1 (R270). -/
def Sys2Proof.Machine.State.filtered (s : State) (c : ICtx) (i k : Nat) : Nat :=
  let v := toSigned 32 (((s.trow c.g c.da i)[k]?).getD (absentEl c.da 127)).enc
  let y := (((s.trow c.g c.db i)[k]?).getD (absentEl c.db 127)).val
  if 0 ≤ v ∧ v < c.dc.cols ∧ y.isNan = false ∧ (decodeVal fFP32 c.x.imm1).isNan = false ∧
      ltVal y (decodeVal fFP32 c.x.imm1) = false then
    (((s.trow c.g c.dc 0)[v.toNat]?).getD (absentEl c.dc 127)).enc
  else 2 ^ 32 - 1

/-- The rows that a routine leaves in D where nothing is poisoned (R262–R270). -/
def Sys2Proof.Machine.State.routineRows (s : State) (id : Nat) (c : ICtx) : List TRow :=
  if id = 7 then [bitsRow 0 false ((List.range c.dd.cols).map fun b => ofSigned 32 (s.binCount c b))] else
  (List.range c.dd.rows).map fun i =>
    if id = 1 then bitsRow i (rowBad (s.trow c.g c.da i))
      ((sortRecs (c.x.imm1 % 16) (bit c.x.imm1 8) (recsOfRow (c.x.imm1 % 16) (s.trow c.g c.da i))).flatMap fun r => [r.key, r.value])
    else if id = 2 then bitsRow i (rowBad (s.trow c.g c.da i)) ((s.topRecs c i).map Rec.value)
    else if id = 4 then bitsRow i false (if (s.attnArg c).bad then emptyRow c.dc.cols else fp32Row (s.attnVals c (s.attnArg c) i))
    else if id = 8 then bitsRow i false ((List.range c.dd.cols).map (s.filtered c i))
    else (convRow c.dd (fun _ => .rne) (s.icSat c) false i
      (if id = 3 then (softmaxRow (s.icSat c) c.x.imm1 (i * c.dd.cols) (s.trow c.g c.da i)).1
       else if id = 5 then (mergeRow (bit c.x.imm1 0) (i * c.dd.cols) (s.trow c.g c.da i)
         ((opDesc c.m c.x.b).map fun d => s.trow c.g d i)).1
       else (scanRow (c.x.imm1 % 4) (bit c.x.imm1 4) (i * c.dd.cols) 0 (scanIdentity (c.x.imm1 % 4) c.da.fmt, false)
         (s.trow c.g c.da i)).1)).1

/-- No element of the rows that ATTN_PARTIAL, HISTOGRAM or FILTER reads is poisoned. -/
def Sys2Proof.Machine.State.unpoisoned (s : State) (id : Nat) (c : ICtx) : Prop :=
  ∀ d ∈ (if id = 7 then (if bit c.x.imm1 0 then [c.da, c.dd] else [c.da]) else [c.da, c.db, c.dc]),
    ∀ i, i < d.rows → rowBad (s.trow c.g d i) = false

/-- A CALL of a routine that may be performed now completes with the routine's effect; another CALL, or none, leaves the row
without effect (R259). Where D is dense, whole and in the tile store and nothing is poisoned, D then holds the routine's results:
SORT's records in their order, TOPK's columns, the values of SOFTMAX, ATTN_PARTIAL, ATTN_MERGE and SCAN, HISTOGRAM's counts,
FILTER's entries; and no other byte changes, but for TOPK's keys in B. The eight rows complete. -/
def Obligations.LibraryRoutinesComplete : Prop :=
  ∀ (id g i : Nat) (s : State), 1 ≤ id → id ≤ 8 →
    (s.insnNow g i 0x30 = none → exec (libCommand id g i) s = .next s) ∧
    ∀ c, s.insnNow g i 0x30 = some c →
      (c.x.imm0 % 2 ^ 16 ≠ id → exec (libCommand id g i) s = .next s) ∧
      (c.x.imm0 % 2 ^ 16 = id → ∃ t, exec (libCommand id g i) s = .next t ∧ t = (s.routine id c).insnDone g i ∧
        (t.tile g).done = i :: (s.tile g).done ∧
        (∀ d o l, id = 2 → opDesc c.m c.x.b = some d → d.hbm = false → d.mx = false → d.ld = d.rowBytes → d.rows = c.dd.rows →
          c.dd.hbm = false → c.dd.mx = false → (∀ i, i < c.dd.rows → rowBad (s.trow c.g c.da i) = false) →
          s.arrays.symErr = [] → memWf s.mem = true → o = g * 2 ^ 21 + d.addr % 2 ^ 21 →
          l = rowsBytes d ((List.range c.dd.rows).map fun i => bitsRow i false ((s.topRecs c i).map Rec.key)) →
          o + l.length ≤ 2 ^ 40 → t.peek spTile o l.length = l) ∧
        (∀ o l, (id = 2 → opDesc c.m c.x.b = none) → (id = 4 ∨ id = 7 ∨ id = 8 → s.unpoisoned id c) →
          (s.routineRows id c).length = c.dd.rows → c.dd.hbm = false → c.dd.mx = false → c.dd.ld = c.dd.rowBytes →
          (∀ r ∈ s.routineRows id c, r.scales = [] ∧ ∀ e ∈ r.els, e.2 = false) → s.arrays.symErr = [] → memWf s.mem = true →
          o = g * 2 ^ 21 + c.dd.addr % 2 ^ 21 → l = rowsBytes c.dd (s.routineRows id c) → o + l.length ≤ 2 ^ 40 →
          t.peek spTile o l.length = l ∧ storesOnly s t spTile o l.length))

/-! ## Keep movers -/

/-- GO of a Keep mover: MOVER_COPY and MOVER_CONVERT by MV_OP. -/
def Sys2Proof.Machine.goCommand (op k : Nat) : Instr := if op = 1 then .moverCopy k else .moverConvert k

/-- A Keep mover (R319, R320): GO sets MV_IGNORED while a transfer runs; else a valid one starts at offset 0, is DONE where there
is nothing to move, and issues its first read. A reply without a reservation is discarded (R86). A bad reply stops it and drains;
a good read's reply turns into its write; a good write's bytes are done. Drained, it is FAULTED with its record, or ABORTED;
FAULTED it resumes from MV_DONE; MV_ABORT drains it. The six rows complete. -/
def Obligations.MoversMoveAndStop : Prop :=
  (∀ (op k : Nat) (s : State), k < 4 → op = 1 ∨ op = 2 →
    (s.rd (pgKeep k) Mov.MV_OP 0 ≠ op → exec (goCommand op k) s = .next s) ∧
    (s.rd (pgKeep k) Mov.MV_OP 0 = op → ∃ t, exec (goCommand op k) s = .next t ∧
      (s.mvState k = 1 ∨ s.mvState k = 2 → t.rd (pgKeep k) Mov.MV_IGNORED 0 = 1 ∧
        onlyRegs [rkey (pgKeep k) Mov.MV_IGNORED 0] s t) ∧
      (s.mvState k ≠ 1 → s.mvState k ≠ 2 → s.mvValid k = false → t = s) ∧
      (s.mvState k ≠ 1 → s.mvState k ≠ 2 → s.mvValid k = true →
        (s.mvLen k = 0 → t.mvState k = 4 ∧ t.mover k = Mover.idle ∧ t.reservations = s.reservations) ∧
        (0 < s.mvLen k → t.mvState k = 1 ∧ (t.mover k).reqs.head? = some ⟨0, 0, s.mvSpan k 0, false⟩ ∧
          ∃ o l, t.out = s.out ++ o :: l ∧ ((∃ g, o = .inject (mvSrc k) g) ∨ ∃ g, o = .reply (mvSrc k) g))))) ∧
  (∀ (k : Nat) (f : Flit) (s : State), k < 4 →
    (s.headerLost (.service (4 + k)) → (s.opn.service.find? fun x => x.1 = 4 + k).map (fun x => x.2.2) = some f →
      ∃ t, exec (.moverReply k f) s = .next t ∧ t.movers = s.movers ∧ t.reservations = s.reservations) ∧
    (f.hcrcOk = false → s.flitGood (.service (4 + k)) →
      exec (.moverReply k f) s = .next ((s.unserve (4 + k) f).headerDiscard k)) ∧
    (f.hcrcOk = true → s.flitGood (.service (4 + k)) →
      f.poison = true ∨ s.mvOwed k f = false ∨ (s.mover k).reqs.find? (fun r => r.tag = f.tag) = none →
      exec (.moverReply k f) s = .next (s.unserve (4 + k) f)) ∧
    ∀ r, f.hcrcOk = true → f.poison = false → s.flitGood (.service (4 + k)) → s.mvOwed k f = true → (s.mover k).reqs.find? (fun r => r.tag = f.tag) = some r →
      ∃ t, exec (.moverReply k f) s = .next t ∧
        (f.status ≠ 0 → t.mvState k = 2 ∧ (t.mover k).reqs = (s.mover k).reqs.filter (· ≠ r) ∧ (t.mover k).fault ≠ none) ∧
        (f.status = 0 → r.writing = false → s.mvState k = 1 →
          (t.mover k).reqs = (s.mover k).reqs.map fun y => if y = r then { r with writing := true } else y) ∧
        (f.status = 0 → r.writing = false → s.mvState k ≠ 1 →
          (t.mover k).reqs = (s.mover k).reqs.filter (· ≠ r) ∧ (t.mover k).low ≠ none) ∧
        (f.status = 0 → r.writing = true → s.mvState k ≠ 1 → (t.mover k).reqs = (s.mover k).reqs.filter (· ≠ r)) ∧
        (f.status = 0 → r.writing = true → s.mvState k = 1 → (s.mover k).reqs.filter (· ≠ r) = [] →
          s.mvLen k ≤ (s.mover k).next → t.mvState k = 4)) ∧
  (∀ (k : Nat) (s : State), k < 4 → ∃ t, exec (.moverDrainDone k) s = .next t ∧
    (s.mvState k ≠ 2 ∨ (s.mover k).reqs ≠ [] → t = s) ∧
    (s.mvState k = 2 → (s.mover k).reqs = [] → t.mover k = s.mover k ∧
      ((s.mover k).aborting = true → t.mvState k = 5) ∧
      (∀ off st a, (s.mover k).aborting = false → (s.mover k).fault = some (off, st, a) → t.mvState k = 3 ∧
        t.rd (pgKeep k) Mov.MV_STATUS 0 = st % 2 ^ 8 ∧ t.rd (pgKeep k) Mov.MV_FAULT_ADDR_LO 0 = a % 2 ^ 32 ∧
        t.rd (pgKeep k) Mov.MV_DONE_LO 0 = (s.mover k).resume % 2 ^ 32))) ∧
  (∀ (k off : Nat) (s : State), k < 4 → off = s.rd2 (pgKeep k) Mov.MV_DONE_LO Mov.MV_DONE_HI 0 →
    ∃ t, exec (.mvResume k) s = .next t ∧ (s.mvState k ≠ 3 → t = s) ∧
    (s.mvState k = 3 → s.mvLen k ≤ off → t.mvState k = 4) ∧
    (s.mvState k = 3 → off < s.mvLen k → t.mvState k = 1 ∧ (t.mover k).reqs.head? = some ⟨0, off, s.mvSpan k off, false⟩)) ∧
  ∀ (k : Nat) (s : State), k < 4 → ∃ t, exec (.mvAbort k) s = .next t ∧
    (s.mvState k ≠ 1 → s.mvState k ≠ 3 → t = s) ∧
    (s.mvState k = 1 ∨ s.mvState k = 3 → t.mover k = { s.mover k with aborting := true } ∧
      t.mvState k = if (s.mover k).reqs = [] then 5 else 2)

/-! ## In-service checks -/

/-- The vote over a word whose copies differ (R328): with TRIP_EN, two equal copies rewrite the third and are counted, three
different ones are a failure, PG_ERR 2 and a module fault; without it a parity error is. Of a word that is no register field
the copies are held as their differences from the first (log 203). A write of TRIP_EN on an unlocked page sets it, and setting it
from 0 makes the copies equal. -/
def Sys2Proof.Machine.VotedWordsAreRepaired : Prop :=
  (∀ (k : RegKey) (p : PageId) (r : Reg) (i : Nat) (c : TripCopies) (s : State), AL.get s.trip k = some c →
    fieldOfKey k = some (p, r, i) → ∃ t, exec (.tripRewrite k) s = .next t ∧
      (s.rdb pgIntegrity Itg.TRIP_EN 0 = true → c.c1 = s.copy0 p r i → c.c2 = s.copy0 p r i →
        t = { s with trip := AL.del s.trip k }) ∧
      (s.rdb pgIntegrity Itg.TRIP_EN 0 = true → ¬ (c.c1 = s.copy0 p r i ∧ c.c2 = s.copy0 p r i) →
        (c.c1 = s.copy0 p r i ∨ c.c2 = s.copy0 p r i ∨ c.c1 = c.c2) →
        t = (s.put p r i (c.vote (s.copy0 p r i))).bump pgIntegrity Itg.TRIP_CORR ∧
        (k.ty ≠ pgIntegrity.ty → t.copy0 p r i = c.vote (s.copy0 p r i) % 2 ^ r.w ∧ counted s t pgIntegrity Itg.TRIP_CORR 1)) ∧
      (s.rdb pgIntegrity Itg.TRIP_EN 0 = true → c.c1 ≠ s.copy0 p r i → c.c2 ≠ s.copy0 p r i → c.c1 ≠ c.c2 →
        errSet t pgIntegrity 2 ∧ t.watch.raised = s.watch.raised ++ [(2, 0)]) ∧
      (s.rdb pgIntegrity Itg.TRIP_EN 0 = false → c.parityBad = true →
        errSet t pgIntegrity 2 ∧ t.watch.raised = s.watch.raised ++ [(2, 0)]) ∧
      (s.rdb pgIntegrity Itg.TRIP_EN 0 = false → c.parityBad = false → t = s)) ∧
  (∀ (k : RegKey) (c : TripCopies) (s : State), AL.get s.trip k = some c → fieldOfKey k = none →
    ∃ t, exec (.tripRewrite k) s = .next t ∧
      (s.rdb pgIntegrity Itg.TRIP_EN 0 = true → c.c1 = 0 ∨ c.c2 = 0 ∨ c.c1 = c.c2 → AL.get t.trip k = none ∧
        (c.c1 = 0 → c.c2 = 0 → t = { s with trip := t.trip }) ∧
        (c.c1 ≠ 0 ∨ c.c2 ≠ 0 → counted s t pgIntegrity Itg.TRIP_CORR 1 ∧ sameBeyondRegs s t)) ∧
      ((s.rdb pgIntegrity Itg.TRIP_EN 0 = true ∧ c.c1 ≠ 0 ∧ c.c2 ≠ 0 ∧ c.c1 ≠ c.c2) ∨
          (s.rdb pgIntegrity Itg.TRIP_EN 0 = false ∧ c.parityBad = true) →
        errSet t pgIntegrity 2 ∧ t.watch.raised = s.watch.raised ++ [(2, 0)]) ∧
      (s.rdb pgIntegrity Itg.TRIP_EN 0 = false → c.parityBad = false → t = s)) ∧
  (∀ (k : RegKey) (s : State), AL.get s.trip k = none → exec (.tripRewrite k) s = .next s) ∧
  ∀ (v : Nat) (s : State), s.raw pgIntegrity Hdr.LOCK 0 ≠ 1 → ∃ t, exec (.tripEnWrite v) s = .next t ∧
    t.rd pgIntegrity Itg.TRIP_EN 0 = v % 2 ∧
    (s.rdb pgIntegrity Itg.TRIP_EN 0 = false → v % 2 = 1 → t.trip = [])

/-- Scrub (R333, R334): SCRUB_GO starts a pass over a good range and refuses another with PG_ERR 9; each granule within SCRUB_RATE
moves it on, and the last ends it; SCRUB_ABORT ends it at once. A spot-check counts each compared element, and a difference sets
PG_ERR 5 and is a tick fault (R339). Every 64 ticks a margin evaluation keeps every reading with its run, and a reading at its
WARN threshold sets its site's bit and PG_ERR 6 (R341). A droop reading is the monitor's value under its calibration (Table 18.6,
log 214). -/
def Sys2Proof.Machine.InServiceChecksRun : Prop :=
  (∀ s : State, ∃ t, exec .scrubGo s = .next t ∧
    (s.rd pgIntegrity Itg.SCRUB_STATE 0 = 1 → t = s) ∧
    (s.rd pgIntegrity Itg.SCRUB_STATE 0 ≠ 1 → (s.scrubEnd ≤ s.scrubStart ∨ 2 ^ 40 < s.scrubEnd) →
      errSet t pgIntegrity 9 ∧ sameBeyondReports s t) ∧
    (s.rd pgIntegrity Itg.SCRUB_STATE 0 ≠ 1 → s.scrubStart < s.scrubEnd → s.scrubEnd ≤ 2 ^ 40 →
      t.rd pgIntegrity Itg.SCRUB_STATE 0 = 1 ∧ t.rd pgIntegrity Itg.SCRUB_SUM_READ 0 = 0 ∧
      t.scrub = some { pos := s.scrubStart, fin := s.scrubEnd, tick := s.now, n := 0 })) ∧
  (∀ s : State, ∃ t, exec .scrubAbort s = .next t ∧ t.scrub = none ∧
    (s.scrub = none → t = s) ∧ (s.scrub ≠ none → t.rd pgIntegrity Itg.SCRUB_STATE 0 = 3)) ∧
  (∀ s : State, s.scrub = none → exec .scrubGranule s = .next s) ∧
  (∀ (x : Scrub) (n : Nat) (s : State), s.scrub = some x → n = (if x.tick = s.now then x.n else 0) →
    ∃ t, exec .scrubGranule s = .next t ∧
      (s.rd pgIntegrity Itg.SCRUB_RATE 0 ≤ n → t = s) ∧
      (n < s.rd pgIntegrity Itg.SCRUB_RATE 0 →
        (s.rd (pgHbm (x.pos / 2 ^ 36)) Hbm.HSTATE 0 = 3 → counted s t pgIntegrity Itg.SCRUB_SUM_SKIP 1) ∧
        (s.rd (pgHbm (x.pos / 2 ^ 36)) Hbm.HSTATE 0 ≠ 3 → counted s t pgIntegrity Itg.SCRUB_SUM_READ 1) ∧
        (x.fin ≤ x.pos + 64 → t.scrub = none ∧ t.rd pgIntegrity Itg.SCRUB_STATE 0 = 2) ∧
        (x.pos + 64 < x.fin → t.scrub = some { pos := x.pos + 64, fin := x.fin, tick := s.now, n := n + 1 }))) ∧
  (∀ (c key : Nat) (got : List Nat) (s : State), key = (if (AL.get s.spots (8 + c)).isSome then 8 + c else c) →
    ∃ t, exec (.spotCheckComplete c got) s = .next t ∧
    (AL.get s.spots key = none → t = s) ∧
    ∀ x, AL.get s.spots key = some x → (x.exp = [] → t = s) ∧
      (x.exp ≠ [] → x.elems.length = x.exp.length →
        (x.exp.filter Option.isSome ≠ [] →
          counted s t pgIntegrity Itg.SPOT_CNT (x.exp.filter Option.isSome).length) ∧
        (∀ (j v w : Nat), x.exp[j]? = some (some v) → got[j]? = some w → w ≠ v →
          errSet t pgIntegrity 5 ∧ (clsAbort, 0) ∈ t.watch.raised))) ∧
  ∀ (droop canary : List Nat) (rx : List Int) (s : State), ∃ t, exec (.marginEvaluation droop canary rx) s = .next t ∧
    (s.marginDue = false → t = s) ∧ ∀ i, s.marginDue = true → i < 64 →
      AL.get t.margin i = some ((s.droopReading i (droop.getD i 0) : Int),
        if s.rd pgIntegrity Itg.DROOP_QUAR 0 ≤ s.droopReading i (droop.getD i 0)
        then (AL.getD s.margin i ((0 : Int), 0)).2 + 1 else 0) ∧
      (s.rd pgIntegrity Itg.DROOP_WARN 0 ≤ s.droopReading i (droop.getD i 0) ∨ s.rd pgIntegrity Itg.CAN_WARN 0 ≤ canary.getD i 0 →
        bit (t.rd pgIntegrity Itg.WARN_MASK (i / 32)) (i % 32) = true ∧ errSet t pgIntegrity 6)

/-- Voted words are repaired, and scrub, spot-checks and margin monitors run (R328, R333, R334, R339, R341). The seven rows
complete. -/
def Obligations.VotesAndChecksRun : Prop := VotedWordsAreRepaired ∧ InServiceChecksRun

/-! ## Watch -/

/-- A report held for its round: listed as held and as seen, unless it is a duplicate or about a failed module (R353). -/
def Sys2Proof.Machine.heldReport (s t : State) (r : Report) : Prop :=
  (s.watch.seen.contains r = true ∨ s.keyFailed r.key = true → t.watch.held = s.watch.held) ∧
    (s.watch.seen.contains r = false → s.keyFailed r.key = false →
      t.watch.held = s.watch.held ++ [r] ∧ t.watch.seen = r :: s.watch.seen)

/-- A command named for a tick (R360): dropped when known, refused when late or out of range, else forwarded once and, but for a
module that restores, armed. -/
def Sys2Proof.Machine.commandNamed (s t : State) (code at_ : Nat) (src : Option Nat) (origin : Nat) : Prop :=
  (s.floodedBefore 0x30 at_ = true → t = s) ∧
  (s.floodedBefore 0x30 at_ = false → tickLater at_ s.now = false → errSet t pgWatch 7 ∧ sameBeyondReports s t) ∧
  (s.floodedBefore 0x30 at_ = false → tickLater at_ s.now = true → 1023 < tickSub at_ s.now →
    errSet t pgBelfry 5 ∧ sameBeyondReports s t) ∧
  (s.floodedBefore 0x30 at_ = false → tickLater at_ s.now = true → tickSub at_ s.now ≤ 1023 →
    t.belfry = { s.belfry with flooded := (0x30, at_) :: s.belfry.flooded } ∧
    flooded s t src 0x30 (commandPayload code at_ origin) ∧
    (code = 3 ∨ s.rd pgWatch Wat.RB_STATE 0 ≠ 1 → t.watch = { s.watch with cmds := s.watch.cmds ++ [(at_, code)] }) ∧
    (code ≠ 3 → s.rd pgWatch Wat.RB_STATE 0 = 1 → errSet t pgWatch 8 ∧ t.watch = s.watch))

/-- The command of a write of CMD, by its code. -/
def Sys2Proof.Machine.cmdWrite (code : Nat) : Instr :=
  if code = 1 then .cmdResume else if code = 2 then .cmdAbort else .cmdFabricReset

/-- Reports and rounds. A neighbour silent for four ticks is reported once (R352). A REPORT received is held and forwarded once, and
opens its round or brings it forward (R353, R354). A round that is due is decided: its reports leave, their keys join the failed
set, the switch tick and the digest stand (R354, R356, R357); with none due, an automatic resume is armed where R364 lets it.
A digest that differs sets PG_ERR 1, an early one waits (R356). -/
def Sys2Proof.Machine.RoundsAreDecided : Prop :=
  (∀ (d : Nat) (s : State), d < 6 → ∃ t, exec (.neighbourSilent d) s = .next t ∧
    (s.joined = true → s.linkUp (torusLink d) = true → AL.getD s.belfry.silent d 0 = 4 →
      errSet t pgWatch 0 ∧ AL.getD t.belfry.silent d 0 = 5 ∧ heldReport s t ⟨1, linkKey s.coord d, s.now, 0⟩) ∧
    (s.joined = false ∨ s.linkUp (torusLink d) = false ∨ AL.getD s.belfry.silent d 0 ≠ 4 → t = s)) ∧
  (∀ (d : Nat) (m : WatchMsg) (s : State) (r : Report) (c0 : Nat), d < 6 → m.type = 1 → 1 ≤ m.cls → m.cls ≤ 7 →
    r = ⟨m.cls, m.key % 2 ^ 19, m.td % 2 ^ 48, m.entry⟩ → c0 = s.watch.cut.getD (tickAdd r.td s.wCut) →
    ∃ t, exec (.watchReport d m) s = .next t ∧ heldReport s t r ∧ t = { s with watch := t.watch, links := t.links } ∧
      (s.watch.seen.contains r = true ∨ s.keyFailed r.key = true → t = s) ∧
      (s.watch.seen.contains r = false → s.keyFailed r.key = false → ∃ c,
        c = (if tickLater c0 (m.c % 2 ^ 48) then m.c % 2 ^ 48 else c0) ∧ t.watch.cut = some c ∧
        flooded s t (some d) 0x30 (watchPayload
          { type := 1, cls := r.cls, c := c, key := r.key, td := r.td, entry := r.entry, digest := 0, origin := keyCoord r.key }))) ∧
  (∀ s : State, ∃ t, exec .roundDecision s = .next t ∧
    (s.watchDue = none →
      (s.holdSet = 2 ∧ s.watch.resumeAt = none ∧ s.watch.restorers = [] ∧ s.now = s.holdG →
        t = s.setWatch { s.watch with resumeAt := some (tickAdd s.now s.swLead) }) ∧
      (s.holdSet ≠ 2 ∨ s.watch.resumeAt ≠ none ∨ s.watch.restorers ≠ [] ∨ s.now ≠ s.holdG → t = s)) ∧
    ∀ c l, s.watchDue = some c → l = s.watch.held.filter (fun r => tickLater c r.td) →
      t.watch.switchAt = some (tickAdd c (s.wConf + s.swLead)) ∧ AL.get t.watch.digests c = some (digestOf l) ∧
      t.rd pgWatch Wat.DIGEST 0 = digestOf l % 2 ^ 32 ∧ t.rd pgWatch Wat.LAST_DECIDE_LO 0 = s.now % 2 ^ 32 ∧
      counted s t pgWatch Wat.ROUNDS 1 ∧
      (∀ k, k ∈ t.watch.failed ↔ k ∈ s.watch.failed ∨ ∃ r ∈ l, (r.cls = 1 ∨ r.cls = 2) ∧ r.key = k) ∧
      ((∀ e ∈ s.watch.early, e.2.1 = c → e.2.2.1 = digestOf l) →
        t.watch.held = s.watch.held.filter fun r => !tickLater c r.td)) ∧
  ∀ (d cut x : Nat) (s : State), d < 6 → ∃ t, exec (.digestReceive d cut x) s = .next t ∧
    (AL.get s.watch.digests (cut % 2 ^ 48) = none →
      t = s.setWatch { s.watch with early := s.watch.early ++ [(d, cut % 2 ^ 48, x % 2 ^ 32, s.now)] }) ∧
    ∀ y, AL.get s.watch.digests (cut % 2 ^ 48) = some y → (x % 2 ^ 32 = y → t = s) ∧
      (x % 2 ^ 32 ≠ y → errSet t pgWatch 1 ∧ heldReport s t ⟨1, linkKey s.coord d, s.now, 0⟩)

/-- Holds and commands. At the switch tick the armed switch is taken: the hold's causes stand in HOLD_SET, or an aborted step is
armed to replay, and the promotions are made (R358). An armed resume ends a hold whose only cause is RESTORE (R364). A write of
CMD, or a COMMAND received, names its command for its tick; at that tick RESUME ends the hold, ABORT aborts the step in flight and
FABRIC_RESET resets the fabric (R360, R430). -/
def Sys2Proof.Machine.HoldsAndCommandsTakeEffect : Prop :=
  (∀ s : State, ∃ t, exec .switchTick s = .next t ∧ (s.watch.switchAt = none → t = s) ∧
    ∀ a, s.watch.switchAt = some a → (tickReached s.now a = false → t = s) ∧
      (tickReached s.now a = true → t.watch.switchAt = none ∧ t.watch.switchSet = 0 ∧ t.watch.promote = [] ∧
        t.watch.tornOwn = [] ∧
        (s.watch.reselect = false → t.watch.flight = s.watch.aborted.getD s.watch.flight ∧
          (s.watch.switchSet = 0 → s.isHeld = false → s.watch.aborted ≠ none → t.watch.replayAt = some a) ∧
          ∀ i, i < 5 → bit s.watch.switchSet i = true → bit t.holdSet i = true))) ∧
  (∀ s : State, ∃ t, exec .autoResume s = .next t ∧ (s.watch.resumeAt = none → t = s) ∧
    ∀ r, s.watch.resumeAt = some r →
      (s.holdSet ≠ 2 → t = s.setWatch { s.watch with resumeAt := none }) ∧
      (s.holdSet = 2 → tickReached s.now r = false → t = s) ∧
      (s.holdSet = 2 → tickReached s.now r = true → t.holdSet = 0 ∧
        t.watch = { s.watch with lost := [], resumeAt := none,
                                 replayAt := if s.watch.aborted = none then s.watch.replayAt else some s.now })) ∧
  (∀ (code : Nat) (s : State), 1 ≤ code → code ≤ 3 → ∃ t, exec (cmdWrite code) s = .next t ∧
    commandNamed s t code (s.rd2 pgWatch Wat.CMD_AT_LO Wat.CMD_AT_HI 0) none s.coord) ∧
  (∀ (d : Nat) (m : WatchMsg) (s : State), d < 6 → m.type = 3 → 1 ≤ m.cls → m.cls ≤ 3 →
    ∃ t, exec (.commandReceive d m) s = .next t ∧ commandNamed s t m.cls (m.c % 2 ^ 48) (some d) (m.origin % 2 ^ 15)) ∧
  ∀ (s : State) (w : Watch), w = { s.watch with cmds := s.watch.cmds.filter fun c => !tickReached s.now c.1 } →
    ∃ t, exec .commandTakeEffect s = .next t ∧
    ((∀ c ∈ s.watch.cmds, tickReached s.now c.1 = false) → t = s) ∧
    ∀ a code, s.watch.cmds.filter (fun c => tickReached s.now c.1) = [(a, code)] →
      (code = 1 → s.isHeld = false → t = s.setWatch w) ∧
      (code = 1 → s.isHeld = true → t.holdSet = 0 ∧
        t.watch = { w with lost := [], resumeAt := none, replayAt := if w.aborted = none then w.replayAt else some s.now }) ∧
      (code = 2 → t.holdSet = 0 ∧ t.watch.replayAt = some s.now ∧ t.watch.resumeAt = none ∧
        (s.rdb pgWatch Wat.IN_FLIGHT 0 = true → t.watch.aborted = some s.watch.flight)) ∧
      (code = 3 → t.rd pgBelfry Bel.JOINED 0 = 0 ∧ t.rd pgLantern Boo.RESET_CAUSE 0 = 3 ∧ t.runs = [] ∧
        t.watch = { Watch.idle with stale := s.watch.stale, promoted := s.watch.promoted })

/-- Watch holds reports, decides rounds, and acts at switch ticks, on resumes and on commands (R352–R360, R364, R430).
The eleven rows complete. -/
def Obligations.WatchDecidesAndActs : Prop := RoundsAreDecided ∧ HoldsAndCommandsTakeEffect

/-- An MGMT read of the partner's FAIL_DOMAIN by Watch: it leaves on the module's ports, or is answered here (R348). -/
def Sys2Proof.Machine.pairAsked (s t : State) : Prop :=
  ∃ o l, t.out = s.out ++ o :: l ∧
    ((∃ g, o = Output.inject (.moduleUnit 3) g) ∨ ∃ g, o = Output.reply (.moduleUnit 3) g)

/-- Restore (R362–R366). RB_GO starts one over its range: primary segments are copied first, in ascending index, mirrors after. A
faulted copy is tried again once; a copied primary goes under check; equal results pass it, a first mismatch copies it again, a
second fails the restore with PG_ERR 10. A rebuilt mirror leaves the list. -/
def Sys2Proof.Machine.RestoresCopyCheckAndEnd : Prop :=
  (∀ (v : Nat) (s : State), ∃ t, exec (.rbGo v) s = .next t ∧
    t.rd pgWatch Wat.RB_FIRST 0 = bits v 0 12 ∧ t.rd pgWatch Wat.RB_LAST 0 = bits v 16 12 ∧
    (bit v 31 = false → onlyRegs [rkey pgWatch Wat.RB_FIRST 0, rkey pgWatch Wat.RB_LAST 0] s t) ∧
    (bit v 31 = true → s.watch.restore = none →
      (∃ x ∈ s.fst, bits v 0 12 ≤ x.1 ∧ x.1 ≤ bits v 16 12 ∧ s.restorable x.1 = true ∧ fstState (s.fstEntry x.1) = 0) →
      heldReport s t ⟨6, moduleKey s.coord, s.now, 0⟩ ∧ t.rd pgWatch Wat.RB_STATE 0 = 1 ∧
      ∃ r, t.watch.restore = some r ∧ r.cur = r.todo.head? ∧ r.todo ≠ [] ∧ r.mover = s.freeMover ∧
        r.checking = false ∧ r.faulted = false ∧ r.bytes = 0 ∧ r.todo.Pairwise (· < ·) ∧
        ∀ i, (i ∈ r.todo ↔ (∃ x ∈ s.fst, x.1 = i) ∧ bits v 0 12 ≤ i ∧ i ≤ bits v 16 12 ∧ s.restorable i = true ∧
            fstState (s.fstEntry i) = 0) ∧
          (i ∈ r.rebuild ↔ (∃ x ∈ s.fst, x.1 = i) ∧ bits v 0 12 ≤ i ∧ i ≤ bits v 16 12 ∧ s.restorable i = true ∧
            fstState (s.fstEntry i) = 1))) ∧
  (∀ (ok : Bool) (s : State), (s.watch.restore = none → exec (.restoreCopyDone ok) s = .next s) ∧
    ∀ r, s.watch.restore = some r →
      (r.cur = none ∨ r.mover = none ∨ r.checking = true → exec (.restoreCopyDone ok) s = .next s) ∧
      ∀ i k, r.cur = some i → r.mover = some k → r.checking = false → ∃ t, exec (.restoreCopyDone ok) s = .next t ∧
        (s.mvState k ≠ (if ok then 4 else 3) → t = s) ∧ (s.mvState k = (if ok then 4 else 3) →
        (ok = false → r.faulted = false → t.watch.restore = some { r with faulted := true } ∧
          (k < 4 → t.mvState k = 1 ∨ t.mvState k = 4)) ∧
        (ok = false → r.faulted = true →
          t.watch.restore = none ∧ t.rd pgWatch Wat.RB_STATE 0 = 3 ∧ errSet t pgWatch 10) ∧
        (ok = true → i ∈ r.todo → t.watch.restore =
          some { r with bytes := r.bytes + 2 ^ fstSize (s.fstEntry i), checking := true }) ∧
        (ok = true → i ∉ r.todo → (∀ q, t.watch.restore = some q → i ∉ q.rebuild) ∧
          (fstFreeze (s.fstEntry i) = true → ∀ y ∈ t.watch.stale, y.idx ≠ i)))) ∧
  (∀ (sum norm : Nat) (s : State), (s.watch.restore = none → exec (.restoreCheckDone sum norm) s = .next s) ∧
    ∀ r i p, s.watch.restore = some r → r.cur = some i → p = pgUe (s.checkEngine i) →
      ∃ t, exec (.restoreCheckDone sum norm) s = .next t ∧
        (r.checking = false ∨ s.rd p Ue.CHK_STATE 0 ≠ 2 → t = s) ∧
        (r.checking = true → s.rd p Ue.CHK_STATE 0 = 2 → s.rd2 p Ue.CHK_SUM_LO Ue.CHK_SUM_HI 0 = sum % 2 ^ 64 →
          s.rd2 p Ue.CHK_NORM_LO Ue.CHK_NORM_HI 0 = norm % 2 ^ 64 → ∀ q, t.watch.restore = some q → i ∉ q.todo) ∧
        (r.checking = true → s.rd p Ue.CHK_STATE 0 = 2 → (s.rd2 p Ue.CHK_SUM_LO Ue.CHK_SUM_HI 0 ≠ sum % 2 ^ 64 ∨
            s.rd2 p Ue.CHK_NORM_LO Ue.CHK_NORM_HI 0 ≠ norm % 2 ^ 64) →
          (r.mismatched = false →
            t.watch.restore = some { r with checking := false, mismatched := true, mover := s.freeMover }) ∧
          (r.mismatched = true →
            t.watch.restore = none ∧ t.rd pgWatch Wat.RB_STATE 0 = 3 ∧ errSet t pgWatch 10)))

/-- Joining and pairs. JOIN starts a join where the self-test and the configuration allow it, else sets PG_ERR 9; the first joined
marker gives a module that joins without SEED its tick, step count, period and boundary (R370). A write of WATCH_PARTNER on an
unlocked page takes its value and asks for the partner's FAIL_DOMAIN; the answer sets PAIR_OK or PG_ERR 4 (R348). -/
def Sys2Proof.Machine.JoiningAndPairing : Prop :=
  (∀ (v : Nat) (s : State), ∃ t, exec (.join v) s = .next t ∧ t.rd pgWatch Wat.SEED 0 = bits v 1 1 ∧
    (bit v 0 = false ∨ s.joined = true → onlyRegs [rkey pgWatch Wat.SEED 0] s t) ∧
    (bit v 0 = true → s.joined = false → s.joinOk = false → errSet t pgWatch 9 ∧ sameBeyondReports s t) ∧
    (bit v 0 = true → s.joined = false → s.joinOk = true → pairAsked s t ∧ t.rd pgFinial Fin.TEST_ACTIVE 0 = 0 ∧
      t.watch = { s.watch with joining := some (bit v 1), adopted := false,
                               unproven := s.rd pgIntegrity Itg.ST_PASS 0 ≠ 0x1FF })) ∧
  (∀ (d : Nat) (m : Marker) (s : State) (first : Prop), d < 6 →
    (first ↔ s.watch.adopted = false ∨ s.watch.adoptedAt = s.clock ∧ d < s.rd pgWatch Wat.JOIN_DIR 0) →
    ∃ t, exec (.joinAdopt d m) s = .next t ∧
    (s.watch.joining = some false → first → m.joined = true → s.linkUp (torusLink d) = true →
      t.now = m.tick % 2 ^ 48 ∧ t.belfry.stepCount = m.step % 2 ^ 32 ∧ t.belfry.tickLen = 256 * (m.perU % 512) ∧
      t.belfry.tickStart = s.clock - (s.rd (pgLink (torusLink d)) Lnk.LD 0 - 1) ∧ t.belfry.skipMap = [] ∧
      t.rd pgBelfry Bel.PER_CUR 0 = m.perU % 512 ∧ t.rd pgWatch Wat.JOIN_DIR 0 = d ∧
      t.watch = { s.watch with adopted := true, adoptedAt := s.clock }) ∧
    (s.watch.joining ≠ some false ∨ ¬first ∨ m.joined = false ∨ s.linkUp (torusLink d) = false → t = s)) ∧
  (∀ (v : Nat) (s : State), ∃ t, exec (.watchPartnerWrite v) s = .next t ∧ pairAsked s t ∧ t.watch = s.watch ∧
    (s.raw pgWatch Hdr.LOCK 0 ≠ 1 →
      t.rd pgWatch Wat.WATCH_PARTNER 0 = bits v 0 15 ∧ t.rd pgWatch Wat.PARTNER_EN 0 = bits v 31 1) ∧
    (s.raw pgWatch Hdr.LOCK 0 = 1 → t.rd pgWatch Wat.WATCH_PARTNER 0 = s.rd pgWatch Wat.WATCH_PARTNER 0 ∧
      t.rd pgWatch Wat.PARTNER_EN 0 = s.rd pgWatch Wat.PARTNER_EN 0)) ∧
  ∀ (a : Option Nat) (s : State), ∃ t, exec (.pairCheck a) s = .next t ∧
    (s.partnerDiffers = true ∨ a = none ∨ (∃ x, a = some x ∧ x % 2 ^ 12 = s.rd pgWatch Wat.FAIL_DOMAIN 0) →
      t.rd pgWatch Wat.PAIR_OK 0 = 0 ∧ errSet t pgWatch 4 ∧ sameBeyondReports s t) ∧
    (∀ x, a = some x → s.partnerDiffers = false → x % 2 ^ 12 ≠ s.rd pgWatch Wat.FAIL_DOMAIN 0 →
      t.rd pgWatch Wat.PAIR_OK 0 = 1 ∧ onlyRegs [rkey pgWatch Wat.PAIR_OK 0] s t)

/-- Watch restores a module, joins it and checks its pair (R348, R362–R366, R370). The seven rows complete. -/
def Obligations.RestoresAndJoins : Prop := RestoresCopyCheckAndEnd ∧ JoiningAndPairing

/-! ## The host protocol -/

/-- The command that executes a session's request, by the request's type. -/
def Sys2Proof.Machine.sessionCommand (type i : Nat) : Instr :=
  if type = 0x02 then .closeSession i else if type = 0x10 then .regRd i else if type = 0x11 then .regWr i
  else if type = 0x20 then .moraecaBulkRd i else if type = 0x21 then .moraecaBulkWr i else .streamOpen i

/-- A session's request answered: the reply is cached under its number, and NEXT moves on (R389, R390). -/
def Sys2Proof.Machine.requestAnswered (t : State) (i : Nat) (x : Session) (m reply : List Byte) : Prop :=
  ∃ y, AL.get t.sessions i = some y ∧ y.owner = x.owner ∧ y.next = (x.next + 1) % 2 ^ 32 ∧
    AL.get y.replies (mSeq m) = some reply

/-- The execution of a request's items (REG_RD, REG_WR) or pieces (BULK_RD, BULK_WR) from where it stands (R388). -/
def Sys2Proof.Machine.State.requestRun (s : State) (type : Nat) (e : Exec) : State × Exec :=
  if type = 0x10 ∨ type = 0x11 then execItems (mCount e.req.bytes) (mCount e.req.bytes + 1) s e
  else execPieces (leAt (mBody e.req.bytes) 0 8) (leAt (mBody e.req.bytes) 8 4) (leAt (mBody e.req.bytes) 8 4 + 1) s e

/-- The items or bytes that a request names. -/
def Sys2Proof.Machine.requestLen (type : Nat) (m : List Byte) : Nat :=
  if type = 0x10 ∨ type = 0x11 then mCount m else leAt (mBody m) 8 4

/-- The reply of a request executed to its end, or of a transfer stopped at a failing piece (R388). -/
def Sys2Proof.Machine.State.requestReply (s : State) (type : Nat) (e : Exec) : List Byte :=
  if type = 0x10 ∨ type = 0x11 then
    s.replyMsg e.req.bytes (if e.bad = 0 then 0 else 7) (mCount e.req.bytes) e.got
  else s.replyMsg e.req.bytes (if e.bad = 0 then 0 else 7) 1 (leBytes 4 e.item ++ leBytes 1 e.bad ++ leBytes 3 0 ++ e.got)

/-- Moraeca (R386–R390). A datagram is counted; a bad one sets PG_ERR 1; a good OPEN waits to be executed, a request behind an OPEN
of its session waits with it, and another session's next request starts. In its turn (requests of different sessions are executed in
arrival order) OPEN gives the session to its sender. A request with a reserved field is answered FORMAT; CLOSE frees the session;
REG_RD, REG_WR, BULK_RD and BULK_WR run to their end, or until a reply must come; STREAM_OPEN is answered BUSY or starts its
stream (R391). While the host link is up a session that
executes none is freed after SESS_TMO; a held request is dropped after HOLD_TMO. The ten rows complete. -/
def Obligations.SessionsExecuteInOrder : Prop :=
  (∀ (src : NetSrc) (m : List Byte) (s : State), ∃ t, exec (.moraecaReceive src m) s = .next t ∧
    counted s t pgHost Mac.RX_MORAECA 1 ∧
    (mGood m = false → counted s t pgHost Mac.RX_BAD 1 ∧ errSet t pgHost 1 ∧ t.sessions = s.sessions) ∧
    (mGood m = true → mType m = 0x01 → mSess m ≤ 15 → mHeadBad m = false → mBodyBad m = false →
      t.opening = s.opening ++ [(mSess m, ⟨src, m, s.clock⟩)] ∧ t.sessions = s.sessions) ∧
    (mGood m = true → mType m ∈ [0x02, 0x10, 0x11, 0x20, 0x21, 0x30] → mSess m ≤ 15 → (∃ y ∈ s.opening, y.1 = mSess m) →
      t.opening = s.opening ++ [(mSess m, ⟨src, m, s.clock⟩)] ∧ t.sessions = s.sessions) ∧
    (∀ x, mGood m = true → mType m ∈ [0x02, 0x10, 0x11, 0x20, 0x21, 0x30] → mSess m ≤ 15 →
      (∀ y ∈ s.opening, y.1 ≠ mSess m) → AL.get s.sessions (mSess m) = some x → sameOwner src x.owner = true →
      mSeq m = x.next → x.exec = none →
      AL.get t.sessions (mSess m) = some { x with last := s.clock, exec := some (Exec.start ⟨src, m, s.clock⟩) })) ∧
  (∀ (i : Nat) (s : State), ∃ t, exec (.openSession i) s = .next t ∧
    (s.opening.find? (fun x => x.1 = i) = none → t = s) ∧
    ∀ j r, s.opening.find? (fun x => x.1 = i) = some (j, r) → (s.hostTurn i r.at_ = false → t = s) ∧
      (s.hostTurn i r.at_ = true →
        (∀ k, k ≠ i → AL.get t.sessions k = AL.get s.sessions k) ∧
        t.opening.filter (fun y => y.1 ≠ i) = s.opening.filter (fun y => y.1 ≠ i) ∧
        (∃ x, AL.get t.sessions i = some x ∧ x.owner = r.src) ∧
        ((∀ y ∈ s.opening.erase (j, r), y.1 ≠ i) → t.opening = s.opening.erase (j, r) ∧ AL.get t.sessions i = some
          { owner := r.src, next := (mSeq r.bytes + 1) % 2 ^ 32, held := [],
            replies := [(mSeq r.bytes, s.replyMsg r.bytes 0 0 [])], exec := none, last := s.clock }))) ∧
  (∀ (type i : Nat) (s : State), type ∈ [0x02, 0x10, 0x11, 0x20, 0x21, 0x30] →
    (AL.get s.sessions i = none → exec (sessionCommand type i) s = .next s) ∧
    ∀ x, AL.get s.sessions i = some x → (x.exec = none → exec (sessionCommand type i) s = .next s) ∧
      ∀ e, x.exec = some e →
        (mType e.req.bytes ≠ type ∨ e.begun = false ∧ s.hostTurn i e.req.at_ = false →
          exec (sessionCommand type i) s = .next s) ∧
        (mType e.req.bytes = type → e.begun = true ∨ s.hostTurn i e.req.at_ = true → ∃ t, exec (sessionCommand type i) s = .next t ∧
          (mHeadBad e.req.bytes = true ∨ mBodyBad e.req.bytes = true →
            requestAnswered t i x e.req.bytes (s.replyMsg e.req.bytes 1 0 [])) ∧
          (mHeadBad e.req.bytes = false → mBodyBad e.req.bytes = false →
            (type = 0x02 → AL.get t.sessions i = none ∧ ∀ k, k ≠ i → AL.get t.sessions k = AL.get s.sessions k) ∧
            (type ≠ 0x02 → type ≠ 0x30 → ∀ u f, s.requestRun type e = (u, f) →
              (requestLen type e.req.bytes ≤ f.item ∨ 0x20 ≤ type ∧ f.bad ≠ 0 →
                requestAnswered t i x e.req.bytes (u.requestReply type f)) ∧
              (f.item < requestLen type e.req.bytes → type < 0x20 ∨ f.bad = 0 →
                t = u.setSession i { x with exec := some f })) ∧
            (∀ j, type = 0x30 → j = leAt (mBody e.req.bytes) 0 1 →
              (s.rd pgHost Mac.STRM_STATE j = 1 ∨ s.rd pgHost Mac.STRM_STATE j = 2 →
                requestAnswered t i x e.req.bytes (s.replyMsg e.req.bytes 6 0 []) ∧ t.streams = s.streams) ∧
              (s.rd pgHost Mac.STRM_STATE j ≠ 1 → s.rd pgHost Mac.STRM_STATE j ≠ 2 →
                requestAnswered t i x e.req.bytes (s.replyMsg e.req.bytes 0 0 []) ∧
                (0 < leAt (mBody e.req.bytes) 16 8 →
                  t.rd pgHost Mac.STRM_STATE j = leAt (mBody e.req.bytes) 1 1 + 1 ∧ ∃ z, AL.get t.streams j = some z ∧
                    z.dir = leAt (mBody e.req.bytes) 1 1 ∧ z.len = leAt (mBody e.req.bytes) 16 8 ∧
                    z.peer = e.req.src ∧ z.acked = 0)))))) ∧
  (∀ (i : Nat) (s : State), ∃ t, exec (.sessionTimeout i) s = .next t ∧ t = { s with sessions := t.sessions } ∧
    (AL.get s.sessions i = none → t = s) ∧
    ∀ x, AL.get s.sessions i = some x →
      (x.exec ≠ none ∨ s.rdb pgHost Mac.LINK_UP 0 = false ∨
        s.clock < x.last + 1100000 * s.rd pgHost Mac.SESS_TMO 0 → t = s) ∧
      (x.exec = none → s.rdb pgHost Mac.LINK_UP 0 = true → x.last + 1100000 * s.rd pgHost Mac.SESS_TMO 0 ≤ s.clock → AL.get t.sessions i = none)) ∧
  ∀ (i q : Nat) (s : State), ∃ t, exec (.holdTimeout i q) s = .next t ∧ (AL.get s.sessions i = none → t = s) ∧
    ∀ x, AL.get s.sessions i = some x → (AL.get x.held q = none → t = s) ∧
      ∀ r, AL.get x.held q = some r → (s.holdDue r = false → t = s) ∧
        (s.holdDue r = true → AL.get t.sessions i = some { x with held := AL.del x.held q } ∧
          counted s t pgHost Mac.HOLD_DROP 1)

/-- Streams and events (R391, R395, R384, R385). An expected data frame of an IN stream is taken, another only acknowledged. An
ACK that an OUT stream's peer sends, of bytes it has been sent, moves ACKED, the last ends it; without one in STREAM_RTO it
resends from ACKED. A memory reply moves the stream on, or stops it with PG_ERR 5. EVENT_ACK from EVT_IP releases every event up
to its number; EVT_RTO and a rise of EVT_EN send all again. An ARP request or Neighbor Solicitation for the module is answered to
its sender. The nine rows complete. -/
def Obligations.StreamsAndEventsAreAcknowledged : Prop :=
  (∀ (i : Nat) (src : NetSrc) (m : List Byte) (s : State), ∃ t, exec (.streamData i src m) s = .next t ∧
    (AL.get s.streams i = none → t = s) ∧
    ∀ x d, AL.get s.streams i = some x → d = (mBody m).drop 8 →
      (x.dir = 0 ∨ src.v6 ≠ x.peer.v6 ∨ src.ip ≠ x.peer.ip ∨ src.port ≠ x.dport → t = s) ∧
      (x.dir ≠ 0 → src.v6 = x.peer.v6 → src.ip = x.peer.ip → src.port = x.dport →
        (leAt (mBody m) 0 8 = x.pos → d.length = x.frameLen → 0 < d.length → mSeq m = x.pos / 8192 % 2 ^ 32 →
          x.acked ≠ x.len → ∃ z, AL.get t.streams i = some z ∧ z.pos = x.pos + d.length ∧ z.part = x.part ++ d) ∧
        (leAt (mBody m) 0 8 ≠ x.pos ∨ d.length ≠ x.frameLen ∨ d = [] ∨ mSeq m ≠ x.pos / 8192 % 2 ^ 32 →
          t.streams = s.streams))) ∧
  (∀ (i a : Nat) (src : NetSrc) (s : State), i < 2 → ∃ t, exec (.streamAck i ⟨src, a⟩) s = .next t ∧
    (AL.get s.streams i = none → t = s) ∧
    ∀ x, AL.get s.streams i = some x →
      (x.dir ≠ 0 ∨ src.v6 ≠ x.peer.v6 ∨ src.ip ≠ x.peer.ip ∨ src.port ≠ x.dport ∨ a ≤ x.acked ∨ max x.pos x.top < a → t = s) ∧
      (x.dir = 0 → src.v6 = x.peer.v6 → src.ip = x.peer.ip → src.port = x.dport → x.acked < a → a ≤ max x.pos x.top →
        (a = x.len → AL.get t.streams i = none ∧ t.rd pgHost Mac.STRM_STATE i = 0) ∧
        (a ≠ x.len → ∃ z, AL.get t.streams i = some z ∧ z.acked = a ∧ z.since = s.clock ∧ z.len = x.len))) ∧
  (∀ (i : Nat) (s : State), ∃ t, exec (.streamRto i) s = .next t ∧ (AL.get s.streams i = none → t = s) ∧
    ∀ x, AL.get s.streams i = some x →
      (x.dir ≠ 0 ∨ s.rdb pgHost Mac.LINK_UP 0 = false ∨ x.pos ≤ x.acked ∨
        s.clock < x.since + 1100 * s.rd pgHost Mac.STREAM_RTO 0 → t = s) ∧
      (x.dir = 0 → s.rdb pgHost Mac.LINK_UP 0 = true → x.acked < x.pos →
        x.since + 1100 * s.rd pgHost Mac.STREAM_RTO 0 ≤ s.clock →
        ∃ z, AL.get t.streams i = some z ∧ z.pos = x.acked ∧ z.acked = x.acked ∧ z.part = [] ∧ z.since = s.clock)) ∧
  (∀ (i : Nat) (f : Flit) (s : State), i < 2 → ∃ t, exec (.streamReadReply i f) s = .next t ∧
    (s.flitGood (.service 2) → f.hcrcOk = false → t = (s.unserve 2 f).headerDiscard 3) ∧
    (s.flitGood (.service 2) → f.hcrcOk = true → f.poison = true ∨ AL.get s.streams i = none → t = s.unserve 2 f) ∧
    ∀ x, s.flitGood (.service 2) → f.hcrcOk = true → f.poison = false → AL.get s.streams i = some x → (AL.get x.tags f.tag = none → t = s.unserve 2 f) ∧
      ∀ fin, AL.get x.tags f.tag = some fin →
        (f.status ≠ 0 → AL.get t.streams i = none ∧ t.rd pgHost Mac.STRM_STATE i = 3 ∧ errSet t pgHost 5) ∧
        (f.status = 0 → x.dir = 0 → x.pos + x.part.length ≤ fin →
          ∃ z, AL.get t.streams i = some z ∧ z.pos + z.part.length = fin ∧ z.acked = x.acked) ∧
        (f.status = 0 → x.dir ≠ 0 → fin ≠ x.len → ∃ z, AL.get t.streams i = some z ∧ z.acked = fin) ∧
        (f.status = 0 → x.dir ≠ 0 → fin = x.len →
          AL.get t.streams i = none ∧ t.rd pgHost Mac.STRM_STATE i = 0)) ∧
  (∀ (src : NetSrc) (seq ip : Nat) (s : State),
    ip = (if s.rdb pgHost Mac.EVT_V6 0 then s.ipv6 Mac.EVT_IP6 else s.rd pgHost Mac.EVT_IP4 0) →
    ∃ t, exec (.eventAck src seq) s = .next t ∧
    (src.v6 ≠ s.rdb pgHost Mac.EVT_V6 0 ∨ src.ip ≠ ip → t = s) ∧
    (src.v6 = s.rdb pgHost Mac.EVT_V6 0 → src.ip = ip → t = { s with events := t.events } ∧
      t.events = { s.events with items := s.events.items.filter fun e => 2 ^ 31 ≤ (seq + 2 ^ 32 - e.num) % 2 ^ 32 })) ∧
  (∀ s : State, ∃ t, exec .evtRto s = .next t ∧ (s.events.items = [] ∨ s.eventsOn = false → t = s) ∧
    ∀ e l, s.events.items = e :: l →
      (s.clock < e.sent + 1100 * s.rd pgHost Mac.EVT_RTO 0 → t = s) ∧
      (s.eventsOn = true → e.sent + 1100 * s.rd pgHost Mac.EVT_RTO 0 ≤ s.clock →
        t.events = { s.events with items := s.events.items.map fun e => { e with sent := s.clock } } ∧
        t.free = s.free + s.events.items.length)) ∧
  (∀ (v : Nat) (s : State), ∃ t, exec (.evtEnWrite v) s = .next t ∧ t.rd pgHost Mac.EVT_EN 0 = bits v 17 1 ∧
    (s.rdb pgHost Mac.EVT_EN 0 = true ∨ bit v 17 = false → t.events = s.events) ∧
    (s.rdb pgHost Mac.EVT_EN 0 = false → bit v 17 = true → s.rdb pgHost Mac.LINK_UP 0 = true →
      t.events = { s.events with items := s.events.items.map fun e => { e with sent := s.clock } })) ∧
  ∀ (nd : Bool) (fr : List Byte) (s : State) (ours : Bool),
    ours = (if nd then s.isNsForUs fr else s.isArpForUs fr) →
    ∃ t, exec (if nd then .neighborSolicitation fr else .arpRequest fr) s = .next t ∧ (ours = false → t = s) ∧
    (ours = true → t.host.lantern = dropFirst (fun x => x = fr) s.host.lantern ∧
      (sumL ((AL.getD s.host.strict 1 []).map fun f => frameCells f.length) + 2 ≤ 16 * s.rd (pgKeep 3) Hst.S_QCAP 1 →
        s.poolHas 3 2 = true → ∃ reply, AL.getD t.host.strict 1 [] = AL.getD s.host.strict 1 [] ++ [reply] ∧ beAt reply 0 6 = beAt fr 6 6))

/-! ## Command windows and registers -/

/-- The command that starts a record, by its OP (Table 16.5). -/
def Sys2Proof.Machine.windowCommand (op w : Nat) : Instr :=
  match op with
  | 0 => .cwNop w
  | 1 => .cwRegWr w
  | 2 => .cwMove w
  | 3 => .cwPlanLoad w
  | _ => .cwPlanSwitch w

/-- Records (R392, R393, Table 16.5). The next record of a window, where nothing of it is in progress, is started by the command of
its OP: one with a reserved field ends as FORMAT, a NOP as OK; a MOVE or PLAN_LOAD that is ignored, and a PLAN_SWITCH that is
refused, end as REFUSED; another waits for its mover or its load. A disabled window closes. A record that has ended advances
CONSUME and is counted. The six rows complete. -/
def Obligations.WindowRecordsStartAndEnd : Prop :=
  (∀ (op w : Nat) (s : State), op < 5 → (AL.get s.windows w = none → exec (windowCommand op w) s = .next s) ∧
    ∀ x, AL.get s.windows w = some x → (x.cur ≠ none ∨ x.todo = [] → exec (windowCommand op w) s = .next s) ∧
      ∀ r rest, x.cur = none → x.todo = r :: rest →
        (s.cwEnabled w = false → exec (windowCommand op w) s = .next (s.closeWindow w)) ∧
        (s.cwEnabled w = true → cwOp r ≠ op → exec (windowCommand op w) s = .next s) ∧
        (s.cwEnabled w = true → cwOp r = op → cwBad r = true → exec (windowCommand op w) s =
          .next (s.setWindow w { x with todo := rest, cur := some (r, .known 0x80 0) })) ∧
        (s.cwEnabled w = true → cwOp r = op → cwBad r = false → ∃ t c, exec (windowCommand op w) s = .next t ∧
          AL.get t.windows w = some { x with todo := rest, cur := some (r, c) } ∧
          (op = 0 → c = .known 0x01 0 ∧ t = { s with windows := t.windows }) ∧
          (op = 1 → (∃ st, c = .known st 0 ∧ (st = 0x01 ∨ st = 0x82)) ∨ ∃ tag, c = .reply tag) ∧
          (∀ k, op = 2 → k = bits (cwArg r 3) 32 2 →
            (s.mvState k = 1 ∨ s.mvState k = 2 → c = .known 0x81 0 ∧ t.movers = s.movers ∧
              t.rd (pgKeep k) Mov.MV_IGNORED 0 = 1) ∧
            (s.mvState k ≠ 1 → s.mvState k ≠ 2 → c = .mover k)) ∧
          (∀ b, op = 3 → b = cwArg r 2 % 2 →
            (s.bankState b = 1 ∨ s.bankState b = 3 → c = .known 0x81 0 ∧ t.sched = s.sched ∧ errSet t (pgKeep 0) 11) ∧
            (s.bankState b ≠ 1 → s.bankState b ≠ 3 → s.rdb (pgKeep 0) Pln.ARMED 0 = false → s.servesOld b = false →
              c = .load b ∧ t.bankState b = 1 ∧
              t.sched = { s.sched with loading := s.sched.loading ++
                [⟨b, cwArg r 0, cwArg r 1, (List.range 4).map fun k => s.rd (pgKeep k) Slt.LAND_MAX 0⟩] })) ∧
          (op = 4 →
            (s.bankState s.targetBank ≠ 2 → c = .known 0x81 0 ∧ errSet t (pgKeep 0) 10 ∧ t.sched = s.sched) ∧
            (s.bankState s.targetBank = 2 → tickReached s.now (cwArg r 0) = false →
              s.rdb (pgKeep 0) Pln.ARMED 0 = false → c = .known 0x01 0 ∧ t.rd (pgKeep 0) Pln.ARMED 0 = 1 ∧
                t.sched = { s.sched with armBank := s.targetBank, armAt := cwArg r 0 })))) ∧
  ∀ (w : Nat) (s : State), w < 64 → ∃ t, exec (.cwRecordComplete w) s = .next t ∧ (AL.get s.windows w = none → t = s) ∧
    ∀ x, AL.get s.windows w = some x → (x.cur = none → t = s) ∧
      ∀ r c, x.cur = some (r, c) →
        (s.mustWait (hbmTarget (s.cwBase w)) 0x11 = true ∨ s.mustWait (hbmTarget (s.cwRecord w x.cons)) 0x11 = true ∨
          s.cwEnded c = none → t = s) ∧
        (s.mustWait (hbmTarget (s.cwBase w)) 0x11 = false → s.mustWait (hbmTarget (s.cwRecord w x.cons)) 0x11 = false →
          ∀ st res u, s.cwEnded c = some (st, res, u) →
            AL.get t.windows w = some { x with cons := (x.cons + 1) % 2 ^ 32, cur := none } ∧
            t.rd pgHost Mac.CW_DONE w = (s.rd pgHost Mac.CW_DONE w + 1) % 2 ^ 32)

/-- Register space (R397–R401): a misaligned write is not performed, one to no page is an address fault, counted and latched, and
one to a page that is off is refused and counted; another acts on its page, PG_SCRATCH taking its word. PG_ERR clears by ones,
and with its last bit what it recorded (R406); SOFT_RST arms a reset (R404); FREEZE holds a page's counters, and shows them when
it is cleared (R405); LOCK locks (R410). The five rows complete. -/
def Obligations.RegisterWritesAct : Prop :=
  (∀ (a v : Nat) (s : State), ∃ t, exec (.registerWrite a v) s = .next t ∧ (a % 4 ≠ 0 → t = s) ∧
    (a % 4 = 0 → 2 ^ 32 ≤ a ∨ pageAt a = none →
      counted s t pgLantern Lan.REG_FAULT 1 ∧ t.rd pgLantern Lan.REG_FAULT_ADDR 0 = a % 2 ^ 32 ∧ errSet t pgLantern 1 ∧
      sameBeyondReports s t) ∧
    (∀ p, a % 4 = 0 → a < 2 ^ 32 → pageAt a = some p →
      (0x100 ≤ a % 0x1000 → s.unavailable p = true →
        counted s t pgLantern Lan.REG_OFF 1 ∧ errSet t pgLantern 0 ∧ sameBeyondReports s t) ∧
      (a % 0x1000 < 0x100 ∨ s.unavailable p = false → t = s.regWrite p (a % 0x1000) (v % 2 ^ 32) 1) ∧
      (a % 0x1000 = Hdr.PG_SCRATCH.off →
        t.rd p Hdr.PG_SCRATCH 0 = v % 2 ^ 32 ∧ onlyRegs [rkey p Hdr.PG_SCRATCH 0] s t))) ∧
  (∀ (p : PageId) (v n : Nat) (s : State), n = s.rd p Hdr.PG_ERR 0 → ∃ t, exec (.pgErrWrite p v) s = .next t ∧
    (pageValid p = false → t = s) ∧
    (pageValid p = true → frozen s p = false →
      t.rd p Hdr.PG_ERR 0 = Nat.xor n (Nat.land n (v % 2 ^ 32)) % 2 ^ 32 ∧
      (t.rd p Hdr.PG_ERR 0 = 0 → t.rd p Hdr.FIRST_CODE 0 = 0 ∧ t.rd p Hdr.FIRST_COUNT 0 = 0 ∧
        t.rd p Hdr.PG_ERR_TICK 0 = 0) ∧
      (t.rd p Hdr.PG_ERR 0 ≠ 0 → onlyRegs [rkey p Hdr.PG_ERR 0] s t) ∧
      onlyRegs [rkey p Hdr.PG_ERR 0, rkey p Hdr.FIRST_CODE 0, rkey p Hdr.FIRST_COUNT 0, rkey p Hdr.PG_ERR_TICK 0] s t)) ∧
  (∀ (p : PageId) (s : State), ∃ t, exec (.softRst p) s = .next t ∧ (softRstWritable p.ty = false → t = s) ∧
    (softRstWritable p.ty = true → t.rd p Hdr.RST_PEND 0 = 1 ∧ onlyRegs [rkey p Hdr.RST_PEND 0] s t)) ∧
  (∀ (p : PageId) (on : Bool) (s : State), ∃ t, exec (.freeze p on) s = .next t ∧ (pageValid p = false → t = s) ∧
    (pageValid p = true → on = true → frozen t p = true ∧ t.hidden = s.hidden ∧ sameBeyondRegs s t) ∧
    (pageValid p = true → on = false → frozen s p = true → s.trip = [] → (s.hidden.map Prod.fst).Nodup →
      AL.get s.hidden (rkey p Hdr.FREEZE 0) = none → frozen t p = false ∧ t.rd p Hdr.HELD_EVT 0 = 0 ∧
      sameBeyondRegs s t ∧ ∀ r i v, AL.get s.hidden (rkey p r i) = some v → rkey p r i ≠ rkey p Hdr.HELD_EVT 0 →
        t.rd p r i = v)) ∧
  ∀ (p : PageId) (s : State), ∃ t, exec (.lock p) s = .next t ∧ (pageValid p = false → t = s) ∧
    (pageValid p = true → t.rd p Hdr.LOCK 0 = 1 ∧ onlyRegs [rkey p Hdr.LOCK 0] s t)

/-! ## Power, resets and boot -/

/-- A feed taken as the active one (R416): counted, with PG_ERR 2. -/
def Sys2Proof.Machine.feedTaken (s t : State) (feed : Nat) : Prop :=
  t.activeFeed = feed ∧ counted s t pgButtress But.SWITCH_CNT 1 ∧ errSet t pgButtress 2

/-- The module in P4 with a cause: the dies off, the flash, the fuses and the Vane as they were (R421, R422). -/
def Sys2Proof.Machine.inP4 (s t : State) (cause sensor : Nat) : Prop :=
  t.power.p4 = true ∧ t.rd pgButtress But.TRIP_CAUSE 0 = cause ∧ t.rd pgButtress But.TRIP_SENSOR 0 = sensor ∧
    t.rd pgButtress But.MOD_STATE 0 = 0 ∧ t.mem = cellsKept s.mem false ∧ t.fuses = s.fuses ∧ t.vane = s.vane ∧ t.runs = []

/-- A trip of Table 18.1: ignored without power or in P4; else P4 with its cause, FAULT_N low and the time of the trip. -/
def Sys2Proof.Machine.tripped (s t : State) (cause sensor : Nat) : Prop :=
  (s.running = false → t = s) ∧
    (s.running = true → inP4 s t cause sensor ∧ t.power.fault = true ∧ t.power.tripAt = some s.clock)

/-- A request of MOD_REQ refused (R422, R423). -/
def Sys2Proof.Machine.refusedRequest (s t : State) : Prop := errSet t pgButtress 5 ∧ sameBeyondReports s t

/-- Feeds and coolant (R416–R421, R464). A feed that becomes bad hands over to a good one or starts the hold-up; one that becomes
good ends it; the preferred feed is taken back (R417); the hold-up's end takes the power away and lets the Vane commit. COOL_OK
follows the limits of flow and inlet once they have been confirmed; a loss sets PG_ERR 3. A trip enters P4 with its cause where
its threshold is passed. The twelve rows complete. -/
def Obligations.FeedsCoolantAndTrips : Prop :=
  (∀ (sense : Bool) (f : Nat) (s : State), f < 2 →
    ∃ t, exec (if sense then .feedSenseOpen f else .feedBad f) s = .next t ∧ (s.feedOk f = false → t = s) ∧
    (s.feedOk f = true → t.feedOk f = false ∧ errSet t pgButtress f ∧ t.rd pgButtress But.SUP_OK 0 = 0 ∧
      (s.feedOk (1 - f) = true → s.activeFeed = f → feedTaken s t (1 - f)) ∧
      (s.feedOk (1 - f) = true → s.activeFeed ≠ f → t.activeFeed = s.activeFeed) ∧
      (s.feedOk (1 - f) = false → t.rd pgButtress But.HOLDUP 0 = 1))) ∧
  (∀ (f : Nat) (s : State), f < 2 → ∃ t, exec (.feedGood f) s = .next t ∧ (s.feedOk f = true → t = s) ∧
    (s.feedOk f = false → t.feedOk f = true ∧ t.rd pgButtress But.SUP_OK 0 = b2n (s.feedOk (1 - f)) ∧
      (s.rdb pgButtress But.HOLDUP 0 = true → t.rd pgButtress But.HOLDUP 0 = 0 ∧ feedTaken s t f) ∧
      (s.rdb pgButtress But.HOLDUP 0 = false → s.feedOk (1 - f) = false → t.activeFeed = f) ∧
      (s.rdb pgButtress But.HOLDUP 0 = false → s.feedOk (1 - f) = true → t.activeFeed = s.activeFeed))) ∧
  (∀ s : State, ∃ t, exec .feedReturn s = .next t ∧
    (s.feedOk s.preferredFeed = true → s.activeFeed ≠ s.preferredFeed → feedTaken s t (s.preferredFeed % 2)) ∧
    (s.feedOk s.preferredFeed = false ∨ s.activeFeed = s.preferredFeed → t = s)) ∧
  (∀ s : State, ∃ t, exec .holdupExpiry s = .next t ∧ (s.rdb pgButtress But.HOLDUP 0 = false → t = s) ∧
    (s.rdb pgButtress But.HOLDUP 0 = true → t.power.off = true ∧ t.power.p4 = false ∧
      t.rd pgButtress But.HOLDUP 0 = 0 ∧ t.rd pgButtress But.TRIP_CAUSE 0 = 0 ∧ t.mem = cellsKept s.mem false ∧
      t.vane = { s.vane with comMain := s.vane.eMain, comBackup := s.vane.eBackup })) ∧
  (∀ s : State, ∃ t, exec .coolantConfirm s = .next t ∧ (s.coolWithin = false → t = s) ∧
    (s.coolWithin = true → t.rd pgButtress But.COOL_OK 0 = 1 ∧ t.power = { s.power with coolant := true })) ∧
  (∀ (flow inlet : Nat) (s : State), ∃ t, exec (.coolOkChange flow inlet) s = .next t ∧
    sameBeyondReports (s.setPower t.power) t ∧
    (t.coolWithin = true ∨ 2 < s.rd pgLantern Boo.BOOT_PHASE 0 → t.power = s.power) ∧
    (t.coolWithin = false → s.rd pgLantern Boo.BOOT_PHASE 0 ≤ 2 → t.power = { s.power with coolant := false }) ∧
    t.rd pgButtress But.FLOW 0 = flow % 2 ^ 16 ∧ t.rd pgButtress But.INLET 0 = inlet % 2 ^ 16 ∧
    t.rd pgButtress But.COOL_OK 0 = b2n (t.coolWithin && s.power.coolant) ∧
    (s.rdb pgButtress But.COOL_OK 0 = true → t.coolWithin = false → errSet t pgButtress 3)) ∧
  (∀ s : State, ∃ t, exec .tripPeakPower s = .next t ∧ tripped s t 2 0) ∧
  (∀ s : State, ∃ t, exec .tripSustainedPower s = .next t ∧ tripped s t 3 0) ∧
  (∀ (i t0 t1 : Nat) (s : State), ∃ t, exec (.tripTemperature i t0 t1) s = .next t ∧
    (i < 64 → s.tempTrip ≤ t0 → s.tempTrip ≤ t1 → tripped s t 4 i) ∧
    (64 ≤ i ∨ t0 < s.tempTrip ∨ t1 < s.tempTrip → t = s)) ∧
  (∀ (flow : Nat) (s : State), ∃ t, exec (.tripFlow flow) s = .next t ∧
    (flow < s.rd pgButtress But.FLOW_TRIP 0 → tripped s t 5 0) ∧ (s.rd pgButtress But.FLOW_TRIP 0 ≤ flow → t = s)) ∧
  ∀ (inlet : Nat) (s : State), ∃ t, exec (.tripInlet inlet) s = .next t ∧
    (s.rd pgButtress But.INLET_TRIP 0 < inlet → tripped s t 6 0) ∧ (inlet ≤ s.rd pgButtress But.INLET_TRIP 0 → t = s)

/-- P3 is left: MOD_STATE shows it, and the stacks that were powered down train (R423, Table 12.8). -/
def Sys2Proof.Machine.p3Left (s t : State) : Prop :=
  t.rd pgButtress But.MOD_STATE 0 = 3 ∧
    (∀ st, st < 16 → t.rd (pgHbm st) Hbm.HSTATE 0 =
      if s.rd (pgHbm st) Hbm.HSTATE 0 = 0 then 1 else s.rd (pgHbm st) Hbm.HSTATE 0) ∧
    onlyRegs (rkey pgButtress But.MOD_STATE 0 :: (List.range 16).map fun st => rkey (pgHbm st) Hbm.HSTATE 0) s t

/-- Module states and resets (R422, R423, R426, R428–R431, R469, R470). MOD_REQ enters and leaves P3, enters P4 and resets the
module, or is refused; each completion moves MOD_STATE on. RESET_N holds the module in reset and releases it; WAKE_N leaves P3 or
P4; SHDN_N enters P4 and holds it; power that returns is a cold reset. A domain's wake ends in P0, timed and counted. The twelve
rows complete. -/
def Obligations.ModuleStatesMove : Prop :=
  (∀ (code key : Nat) (s : State), 1 ≤ code → code ≤ 4 →
    ∃ t, exec (match code with | 1 => .enterP3 key | 2 => .leaveP3 key | 3 => .enterP4 key | _ => .moduleReset key) s = .next t ∧
    (s.running = false → t = s) ∧
    (s.running = true → key ≠ 0xA5 ∨ s.rd pgButtress But.MOD_STATE 0 = 1 ∨ s.rd pgButtress But.MOD_STATE 0 = 3 →
      refusedRequest s t) ∧
    (∀ st, s.running = true → key = 0xA5 → st = s.rd pgButtress But.MOD_STATE 0 → st = 0 ∨ st = 2 →
      (code = 1 → st = 0 → s.p3Refused = false → t.rd pgButtress But.MOD_STATE 0 = 1) ∧
      (code = 1 → st = 2 ∨ s.p3Refused = true → refusedRequest s t) ∧
      (code = 2 → st = 2 → p3Left s t) ∧
      (code = 2 → st = 0 → refusedRequest s t) ∧
      (code = 3 → inP4 s t 1 0) ∧
      (code = 4 → t.rd pgLantern Boo.RESET_CAUSE 0 = 2 ∧ t.rd pgLantern Boo.MRST_SRC 0 = 1 ∧ t.now = 0 ∧
        t.mem = cellsKept s.mem true ∧ t.fuses = s.fuses ∧ t.vane = s.vane ∧ t.keys = s.keys ∧
        t.power.coolant = s.cooled ∧ t.rd pgLantern Boo.BOOT_PHASE 0 = (if s.cooled then 3 else 2)))) ∧
  (∀ s : State, ∃ t, exec .p3EntryComplete s = .next t ∧ (s.rd pgButtress But.MOD_STATE 0 ≠ 1 → t = s) ∧
    (s.rd pgButtress But.MOD_STATE 0 = 1 → t.rd pgButtress But.MOD_STATE 0 = 2 ∧
      t.mem = cellsKept s.mem (s.rdb pgButtress But.HBM_P3_SR 0) ∧
      (∀ d, d < domCount → t.domState d = if d = 332 then 0 else 2) ∧
      ∀ st, st < 16 → t.rd (pgHbm st) Hbm.HSTATE 0 =
        (if s.rd (pgHbm st) Hbm.HSTATE 0 = 4 then 4 else if s.rdb pgButtress But.HBM_P3_SR 0 then 3 else 0))) ∧
  (∀ s : State, ∃ t, exec .p3ExitComplete s = .next t ∧
    (s.rd pgButtress But.MOD_STATE 0 ≠ 3 ∨ s.rdb pgButtress But.COOL_OK 0 = false → t = s) ∧
    (s.rd pgButtress But.MOD_STATE 0 = 3 → s.rdb pgButtress But.COOL_OK 0 = true →
      t.rd pgButtress But.MOD_STATE 0 = 0 ∧ t.mem = cellsKept s.mem true ∧
      ∀ st, st < 16 → t.rd (pgHbm st) Hbm.HSTATE 0 = if s.rd (pgHbm st) Hbm.HSTATE 0 = 4 then 4 else 2)) ∧
  (∀ s : State, ∃ t, exec .resetNAssert s = .next t ∧ (s.running = false ∨ s.power.shdnLow = true → t = s) ∧
    (s.running = true → s.power.shdnLow = false → t.power.resetLow = true ∧ t.rd pgLantern Boo.RESET_CAUSE 0 = 2 ∧
      t.rd pgLantern Boo.MRST_SRC 0 = 0 ∧ t.mem = cellsKept s.mem true)) ∧
  (∀ (progEnN : Bool) (s : State), ∃ t, exec (.resetNRelease progEnN) s = .next t ∧ (s.power.resetLow = false → t = s) ∧
    (s.power.resetLow = true → t = s.setPower { s.power with resetLow := false, prog := !progEnN })) ∧
  (∀ s : State, ∃ t, exec .wakeN s = .next t ∧
    (s.power.shdnLow = true ∨ s.power.off = true ∨ (∃ a, s.power.tripAt = some a ∧ s.clock < a + 11000000000) → t = s) ∧
    (s.power.shdnLow = false → s.power.off = false → (∀ a, s.power.tripAt = some a → a + 11000000000 ≤ s.clock) →
      (s.power.p4 = true → t.power.p4 = false ∧ t.now = 0 ∧ t.mem = cellsKept s.mem false) ∧
      (s.power.p4 = false → s.rd pgButtress But.MOD_STATE 0 = 2 → p3Left s t) ∧
      (s.power.p4 = false → s.rd pgButtress But.MOD_STATE 0 ≠ 2 → t = s))) ∧
  (∀ (low : Bool) (s : State), ∃ t, exec (.shdnN low) s = .next t ∧ t.power.shdnLow = low ∧
    (low = true → s.running = true → inP4 s t 1 0) ∧
    (low = false ∨ s.running = false → t = s.setPower { s.power with shdnLow := low })) ∧
  (∀ s : State, ∃ t, exec .powerRestored s = .next t ∧ (s.power.off = false → t = s) ∧
    (s.power.off = true → t.power.off = false ∧ t.power.p4 = s.power.shdnLow ∧ t.now = 0 ∧
      t.mem = cellsKept s.mem false ∧ t.rd pgButtress But.COOL_OK 0 = 0 ∧ t.power.coolant = false)) ∧
  ∀ (d cc : Nat) (s : State), d < domCount → cc = s.clock - AL.getD s.power.wakeAt d s.clock →
    ∃ t, exec (.domainWake d) s = .next t ∧ (s.domState d ≠ 3 → t = s) ∧
    (s.domState d = 3 → d < 280 ∨ 288 ≤ d → t.domState d = 0 ∧ AL.getD t.power.wakeUs d 0 = min (cc / 1100) 65535 ∧
      counted s t pgButtress But.DOM_WAKES 1 ∧ (domWakeUs d * 1100 < cc → errSet t pgButtress 4) ∧
      (288 ≤ d → d < 304 → s.rd (pgHbm (d - 288)) Hbm.HSTATE 0 = 3 → t.rd (pgHbm (d - 288)) Hbm.HSTATE 0 = 2))

/-- Boot (R435, Table 18.7). Each phase that ends records its time and shows the next: coolant must be confirmed, the Finial must
admit a slot or boot stops, self-test, stacks and READY record their results. A timeout records its phase and cause.
The two rows complete. -/
def Obligations.BootGoesPhaseByPhase : Prop :=
  (∀ (r : BootResult) (s : State), ∃ t, exec (.bootPhaseComplete r) s = .next t ∧
    (s.running = false ∨ s.power.resetLow = true ∨ s.bootPhase = 0 ∨ 8 < s.bootPhase → t = s) ∧
    (s.bootPhase = 2 → s.power.coolant = false → t = s) ∧
    (s.bootPhase = 3 → s.power.prog = true ∨ s.rd pgFinial Fin.FIN_STATE 0 = 2 → t = s) ∧
    (s.running = true → s.power.resetLow = false →
      (s.bootPhase ∈ [1, 4, 5, 6, 7, 8] ∨ s.bootPhase = 2 ∧ s.power.coolant = true →
        t.bootPhase = s.bootPhase + 1 ∧ t.rd pgLantern Boo.PHASE_MS (s.bootPhase - 1) = r.ms % 2 ^ 32) ∧
      (s.bootPhase = 3 → s.power.prog = false → s.rd pgFinial Fin.FIN_STATE 0 ≠ 2 → ∀ a b,
        a = s.fwCheck spFlash (flSlot s.nextSlot) slotLen → b = s.fwCheck spFlash (flSlot (1 - s.nextSlot)) slotLen →
        (a = 0 → t.bootPhase = 4 ∧ t.rd pgFinial Fin.FIN_STATE 0 = 1 ∧ t.rd pgLantern Fwu.ACTIVE_SLOT 0 = s.nextSlot) ∧
        (a ≠ 0 → b = 0 → t.bootPhase = 4 ∧ t.rd pgLantern Fwu.ACTIVE_SLOT 0 = 1 - s.nextSlot ∧
          t.rd pgLantern Fwu.FELL_BACK 0 = 1 ∧ errSet t pgFinial 0) ∧
        (a ≠ 0 → b ≠ 0 → t.bootPhase = 3 ∧ t.rd pgFinial Fin.FIN_STATE 0 = 2 ∧
          t.rd pgLantern Boo.BOOT_FAIL_PHASE 0 = 3)) ∧
      (s.bootPhase = 5 → t.rd pgIntegrity Itg.ST_PASS 0 = r.stPass % 2 ^ 9 ∧ t.rd pgIntegrity Itg.ST_DONE 0 = 1 ∧
        (r.stPass % 2 ^ 9 ≠ 0x1FF → errSet t pgIntegrity 10) ∧ ∀ st, st < 16 → t.rd (pgHbm st) Hbm.HSTATE 0 = 1) ∧
      (s.bootPhase = 6 → ∀ st, st < 16 → (st ∈ r.stacksFailed → t.rd (pgHbm st) Hbm.HSTATE 0 = 4 ∧ errSet t (pgHbm st) 0) ∧
        (st ∉ r.stacksFailed → t.rd (pgHbm st) Hbm.HSTATE 0 = 2)) ∧
      (s.bootPhase = 8 → t.rd pgLantern Boo.BOOT_DONE 0 = 1))) ∧
  ∀ (code : Nat) (s : State), ∃ t, exec (.bootPhaseTimeout code) s = .next t ∧
    (s.running = false ∨ s.power.resetLow = true ∨ s.rdb pgLantern Boo.BOOT_DONE 0 = true ∨
      s.power.prog = true ∧ s.bootPhase = 3 → t = s) ∧
    (s.running = true → s.power.resetLow = false → s.rdb pgLantern Boo.BOOT_DONE 0 = false →
      (s.power.prog = false ∨ s.bootPhase ≠ 3) → t.rd pgLantern Boo.BOOT_FAIL_PHASE 0 = s.bootPhase % 16 ∧
      t.rd pgLantern Boo.BOOT_FAIL_CODE 0 = code % 2 ^ 8 ∧
      (s.bootPhase = 3 → t.rd pgFinial Fin.FIN_STATE 0 = 2))

/-! ## Flash, firmware, keys, attestation and the Vane -/

/-- Saves (R433–R437). CAL_SAVE erases the sector and clears CAL_FACTORY for good; its completion leaves the set there with its
CRC. BP_SAVE writes a record that reads bad until its completion gives it its CRC; BP_LOAD shows what it finds and takes a valid
record into the registers. The five rows complete. -/
def Obligations.CalibrationAndBootParametersAreSaved : Prop :=
  (∀ s : State, ∃ t, exec .calSave s = .next t ∧ (s.rdb pgLantern Cal.CAL_BUSY 0 = true → t = s) ∧
    (s.rdb pgLantern Cal.CAL_BUSY 0 = false → t.rd pgLantern Cal.CAL_BUSY 0 = 1 ∧ t.rd pgLantern Cal.CAL_FACTORY 0 = 0 ∧
      ∀ i, i < 65536 → t.peekN spFlash (flCal + i) 1 = 0)) ∧
  (∀ s : State, ∃ t, exec .calSaveComplete s = .next t ∧ (s.rdb pgLantern Cal.CAL_BUSY 0 = false → t = s) ∧
    (s.rdb pgLantern Cal.CAL_BUSY 0 = true → t.rd pgLantern Cal.CAL_BUSY 0 = 0 ∧
      t.rd pgLantern Cal.CAL_CRC 0 = crc32c s.calBytes % 2 ^ 32 ∧ storesOnly s t spFlash flCal 2565 ∧
      (memWf s.mem = true → t.peek spFlash flCal 0xA00 = s.calBytes ∧ t.calGood = true ∧ t.calFactory = false))) ∧
  (∀ s : State, ∃ t, exec .bpSave s = .next t ∧ (s.rd pgLantern Boo.BP_STATE 0 = 3 → t = s) ∧
    (s.rd pgLantern Boo.BP_STATE 0 ≠ 3 → t.rd pgLantern Boo.BP_STATE 0 = 3 ∧ storesOnly s t spFlash flBp 36 ∧
      (memWf s.mem = true → t.peek spFlash flBp 32 = s.bpRecord.take 32 ∧ t.bpFlash ≠ 1))) ∧
  (∀ s : State, ∃ t, exec .bpSaveComplete s = .next t ∧ (s.rd pgLantern Boo.BP_STATE 0 ≠ 3 → t = s) ∧
    (s.rd pgLantern Boo.BP_STATE 0 = 3 → t.rd pgLantern Boo.BP_STATE 0 = 1 ∧ storesOnly s t spFlash (flBp + 32) 4 ∧
      (memWf s.mem = true → t.peekN spFlash (flBp + 32) 4 = crc32c (s.peek spFlash flBp 32)))) ∧
  ∀ s : State, ∃ t, exec .bpLoad s = .next t ∧ (s.rd pgLantern Boo.BP_STATE 0 = 3 → t = s) ∧
    (s.rd pgLantern Boo.BP_STATE 0 ≠ 3 → t.rd pgLantern Boo.BP_STATE 0 = s.bpFlash ∧
      (s.bpFlash ≠ 1 → onlyRegs [rkey pgLantern Boo.BP_STATE 0] s t) ∧
      (s.bpFlash = 1 → sameBeyondRegs s t ∧ ∀ i r, bpFields[i]? = some r → t.rd pgLantern r 0 = s.bpWord i % 2 ^ r.w))

/-- Updates, fuses and program keys (R442–R449). UPD_GO stages an image that its checks admit, or refuses it with their code;
UPDATE_COMPLETE leaves it in the other slot, which boots next. FW_COMMIT burns SVN_MIN up to the running SVN; FKEY_REVOKE burns the
slots of its mask, its own image's apart. ENROLL fills an empty slot, REVOKE marks one revoked and SAVE writes the table; a locked
Finial refuses all three with PG_ERR 2. The seven rows complete. -/
def Obligations.FirmwareAndKeysAreAdmitted : Prop :=
  (∀ (key off : Nat) (s : State),
    off = s.rd pgLantern Fwu.UPD_ADDR_LO 0 * 4096 + s.rd pgLantern Fwu.UPD_ADDR_HI 0 * 2 ^ 32 →
    ∃ t, exec (.updGo key) s = .next t ∧ (key ≠ 0xA5 ∨ s.updBusy = true → t = s) ∧
    (key = 0xA5 → s.updBusy = false → ∀ code, code = s.fwCheck spHbm off (s.rd pgLantern Fwu.UPD_LEN 0) →
      (code ≠ 0 → t.rd pgLantern Fwu.UPD_STATE 0 = 4 ∧ t.rd pgLantern Fwu.UPD_CODE 0 = code ∧ errSet t pgFinial 1 ∧
        t.trust = s.trust) ∧
      (code = 0 → t.rd pgLantern Fwu.UPD_STATE 0 = 2 ∧ t.rd pgLantern Fwu.UPD_CODE 0 = 0 ∧ t.trust =
        { s.trust with update := some (s.peek spHbm off (128 + s.peekN spHbm (off + 0x14) 4 + 29792)) }))) ∧
  (∀ (slot : Nat) (s : State), slot = 1 - s.rd pgLantern Fwu.ACTIVE_SLOT 0 → ∃ t, exec .updateComplete s = .next t ∧
    (s.trust.update = none → t = s) ∧
    ∀ l, s.trust.update = some l → t.trust.update = none ∧
      ((s.poke spFlash (flSlot slot) l).fwCheck spFlash (flSlot slot) slotLen = 0 →
        t.rd pgLantern Fwu.UPD_STATE 0 = 3 ∧ t.rd pgLantern Fwu.NEXT_SLOT 0 = slot ∧
        (memWf s.mem = true → t.nextSlot = slot)) ∧
      ((s.poke spFlash (flSlot slot) l).fwCheck spFlash (flSlot slot) slotLen ≠ 0 →
        t.rd pgLantern Fwu.UPD_STATE 0 = 4 ∧ t.rd pgLantern Fwu.UPD_CODE 0 = 5 ∧ errSet t pgFinial 1)) ∧
  (∀ (key : Nat) (s : State), ∃ t, exec (.fwCommit key) s = .next t ∧ (key ≠ 0xA5 → t = s) ∧
    (key = 0xA5 → s.fuses.svnMin < s.trust.svn → t = { s with fuses := { s.fuses with svnMin := s.trust.svn } }) ∧
    (key = 0xA5 → s.trust.svn ≤ s.fuses.svnMin →
      t.rd pgLantern Fwu.UPD_CODE 0 = 6 ∧ errSet t pgFinial 1 ∧ sameBeyondReports s t)) ∧
  (∀ (mask key own : Nat) (s : State), own = s.rd pgFinial Fin.FKEY_IDX 0 → own < 4 →
    ∃ t, exec (.fkeyRevoke mask key) s = .next t ∧ (key ≠ 0xA5 → t = s) ∧
    (key = 0xA5 → (∀ i, t.fuses.revoked.testBit i = true ↔
        s.fuses.revoked.testBit i = true ∨ i < 4 ∧ i ≠ own ∧ bit mask i = true) ∧
      t.fuses.svnMin = s.fuses.svnMin ∧ (bit mask own = true → errSet t pgFinial 2) ∧
      (bit mask own = false → t = { s with fuses := t.fuses }))) ∧
  (∀ (i : Nat) (k : KeySlot) (s : State), i = s.rd pgFinial Fin.PK_SEL 0 → k = AL.getD s.keys i KeySlot.empty →
    (∃ t, exec .enroll s = .next t ∧
      (s.finialLocked = true ∨ k.state ≠ 0 → errSet t pgFinial 2 ∧ sameBeyondReports s t) ∧
      (s.finialLocked = false → k.state = 0 → t = { s with keys := t.keys } ∧
        AL.get t.keys i = some { key := s.pkData, test := s.rdb pgFinial Fin.PK_TEST 0, state := 1 } ∧
        ∀ j, j ≠ i → AL.get t.keys j = AL.get s.keys j)) ∧
    ∃ t, exec .revoke s = .next t ∧
      (s.finialLocked = true → errSet t pgFinial 2 ∧ sameBeyondReports s t) ∧
      (s.finialLocked = false → t = { s with keys := t.keys } ∧ AL.get t.keys i = some { k with state := 2 } ∧
        ∀ j, j ≠ i → AL.get t.keys j = AL.get s.keys j)) ∧
  ∀ s : State, ∃ t, exec .keySave s = .next t ∧
    (s.finialLocked = true → errSet t pgFinial 2 ∧ sameBeyondReports s t) ∧
    (s.finialLocked = false → t = { s with mem := t.mem } ∧ storesOnly s t spFlash flKeys 836 ∧
      (memWf s.mem = true → t.peek spFlash flKeys 832 = s.keyTable ∧ t.peekN spFlash (flKeys + 832) 4 = crc32c s.keyTable))

/-- Tokens, attestation and metering (R450, R452–R459, R462). A token request of a joined module is refused; else it draws a new
challenge and grants test mode or debug access where its token verifies. ATT_GO arms a report, which is signed when it is ready
and read word by word. A Vane reading counts energy, number and time and leaves on its port; a verified one is mirrored, another
counted; without one for 3 s the mirror is stale; reads show a snapshot. The eleven rows complete. -/
def Obligations.TokensReportsAndReadings : Prop :=
  (∀ (dbg : Bool) (s : State), ∃ t, exec (if dbg then .dbgReq else .testReq) s = .next t ∧
    (s.joined = true → errSet t pgFinial 3 ∧ sameBeyondReports s t ∧ t.rd pgFinial Fin.TEST_CHAL 0 = s.rd pgFinial Fin.TEST_CHAL 0) ∧
    (s.joined = false → (∀ w, w < 8 → t.rd pgFinial Fin.TEST_CHAL w = Config.freeValue (s.free + w) % 2 ^ 32) ∧
      (s.tokenOk = true → t.rd pgFinial (if dbg then Fin.DBG_OPEN else Fin.TEST_ACTIVE) 0 = 1 ∧ t.free = s.free + 8) ∧
      (s.tokenOk = false → errSet t pgFinial 3 ∧
        t.rd pgFinial (if dbg then Fin.DBG_OPEN else Fin.TEST_ACTIVE) 0 =
          s.rd pgFinial (if dbg then Fin.DBG_OPEN else Fin.TEST_ACTIVE) 0))) ∧
  (∀ s : State, ∃ t, exec .attGo s = .next t ∧ (s.rd pgFinial Fin.ATT_STATE 0 = 1 → t = s) ∧
    (s.rd pgFinial Fin.ATT_STATE 0 ≠ 1 → t.rd pgFinial Fin.ATT_STATE 0 = 1 ∧
      t.trust = { s.trust with attArmed := true, attForm := [], att := [] })) ∧
  (∀ s : State, ∃ t, exec .attReportReady s = .next t ∧
    (s.rd pgFinial Fin.ATT_STATE 0 ≠ 1 ∨ s.trust.attArmed = true → t = s) ∧
    (s.rd pgFinial Fin.ATT_STATE 0 = 1 → s.trust.attArmed = false → t.rd pgFinial Fin.ATT_STATE 0 = 2 ∧
      t.trust.att = s.trust.attForm ++ padTo 35664 (Config.sign 0 s.trust.attForm))) ∧
  (∀ s : State, ∃ t, exec .attDataRead s = .next t ∧
    answers s t (leAt s.trust.att (s.rd pgFinial Fin.ATT_OFF 0) 4) ∧
    t.rd pgFinial Fin.ATT_OFF 0 = (s.rd pgFinial Fin.ATT_OFF 0 + 4) % 2 ^ 16 ∧
    onlyRegs [rkey pgFinial Fin.ATT_OFF 0] s t) ∧
  (∀ (m b p q : Nat) (fault : Bool) (s : State), ∃ t l, exec (.vaneReading m b p q fault) s = .next t ∧
    t.vane.eMain = max s.vane.eMain (min (s.vane.eMain + m) (2 ^ 64 - 1)) ∧
    t.vane.eBackup = max s.vane.eBackup (min (s.vane.eBackup + b) (2 ^ 64 - 1)) ∧
    t.vane.seq = s.vane.seq + 1 ∧ t.vane.time = s.vane.time + 1 ∧ t.vane.tamper = s.vane.tamper ∧
    t.vane.reading = l ∧ t.out = s.out ++ [.metrology (0x7E#8 :: l ++ leBytes 4 (crc32c l))] ∧
    leAt l 8 8 = (s.vane.seq + 1) % 2 ^ 64 ∧ leAt l 0x18 8 = t.vane.eMain % 2 ^ 64 ∧
    t = { s with vane := t.vane, out := t.out }) ∧
  (∀ s : State, exec .vaneCommit s =
    .next { s with vane := { s.vane with comMain := s.vane.eMain, comBackup := s.vane.eBackup } }) ∧
  (∀ (l : List Byte) (s : State), ∃ t, exec (.vaneMirror l) s = .next t ∧
    (s.power.p4 = true ∨ s.power.off = true ∨ s.power.resetLow = true → t = s) ∧
    (s.power.p4 = false → s.power.off = false → s.power.resetLow = false → ∀ ok,
      ok = (l.length = 35728 && Config.verify vanePubBytes (l.take 64) (l.drop 64)) →
      (ok = true → t.rd pgVane Van.STALE 0 = 0 ∧ t.trust = { s.trust with vmLast := l, vmAt := s.clock } ∧
        (s.trust.vmSnap = [] → t.rd pgVane Van.E_MAIN_LO 0 = leAt l 0x18 4)) ∧
      (ok = false → counted s t pgVane Van.SIG_BAD_CNT 1 ∧ errSet t pgVane 0 ∧ t.trust = s.trust))) ∧
  (∀ s : State, ∃ t, exec .vaneStale s = .next t ∧ (s.clock < s.trust.vmAt + 3300000000 → t = s) ∧
    (s.trust.vmAt + 3300000000 ≤ s.clock → t.rd pgVane Van.STALE 0 = 1 ∧ errSet t pgVane 1)) ∧
  (∀ s : State, ∃ t, exec .vmSeqLoRead s = .next t ∧
    (s.trust.vmLast = [] → answers s t (s.rd pgVane Van.VM_SEQ_LO 0) ∧ onlyRegs [] s t) ∧
    (s.trust.vmLast ≠ [] → answers s t (leAt s.trust.vmLast 8 4) ∧
      t.trust = { s.trust with vmSnap := s.trust.vmLast } ∧ t.rd pgVane Van.VM_SEQ_HI 0 = leAt s.trust.vmLast 12 4)) ∧
  ∀ s : State, ∃ t, exec .vmSigDataRead s = .next t ∧
    answers s t (leAt (if s.trust.vmSnap = [] then s.trust.vmLast else s.trust.vmSnap) (s.rd pgVane Van.VM_SIG_OFF 0) 4) ∧
    t.rd pgVane Van.VM_SIG_OFF 0 = (s.rd pgVane Van.VM_SIG_OFF 0 + 4) % 2 ^ 16 ∧
    onlyRegs [rkey pgVane Van.VM_SIG_OFF 0] s t
end

