-- ==== Sys2Proof/Laws/Memory.lean ====
section
/-! SUPPORT. The cell list: what a read gives after a write, and the canonical form under every operation (log 5). -/

namespace Sys2Proof.Machine

open Sys2Proof

theorem memAbove_mono : ∀ {m : List Host.Cell} {a b : Nat}, a ≤ b → memAbove b m = true → memAbove a m = true
  | [], _, _, _, _ => rfl
  | (x, v) :: m, a, b, hab, h => by
    simp only [memAbove, Bool.and_eq_true, decide_eq_true_eq] at h ⊢
    exact ⟨⟨by omega, h.1.2⟩, h.2⟩

/-- A cell written keeps the rising order above every bound that the list and the cell meet. -/
theorem memAbove_memSet : ∀ {m : List Host.Cell} {lo a : Nat} (b : Byte), lo ≤ a → memAbove lo m = true →
    memAbove lo (memSet m a b) = true
  | [], lo, a, b, hlo, _ => by
    unfold memSet
    split
    · rfl
    · simp only [memAbove, Bool.and_eq_true, decide_eq_true_eq]
      exact ⟨⟨by omega, by assumption⟩, trivial⟩
  | (x, v) :: m, lo, a, b, hlo, h => by
    have h' := h
    simp only [memAbove, Bool.and_eq_true, decide_eq_true_eq] at h'
    unfold memSet
    split
    · split
      · exact h
      · simp only [memAbove, Bool.and_eq_true, decide_eq_true_eq]
        exact ⟨⟨by omega, by assumption⟩, ⟨by omega, h'.1.2⟩, h'.2⟩
    · split
      · split
        · exact memAbove_mono (by omega) h'.2
        · simp only [memAbove, Bool.and_eq_true, decide_eq_true_eq]
          exact ⟨⟨by omega, by assumption⟩, by subst_vars; exact h'.2⟩
      · simp only [memAbove, Bool.and_eq_true, decide_eq_true_eq]
        exact ⟨⟨by omega, h'.1.2⟩, memAbove_memSet b (by omega) h'.2⟩

theorem memWf_memSet {m : List Host.Cell} (a : Nat) (b : Byte) (h : memWf m = true) : memWf (memSet m a b) = true :=
  memAbove_memSet b (Nat.zero_le a) h

theorem memWf_memWrite : ∀ {m : List Host.Cell} (a : Nat) (l : List Byte), memWf m = true → memWf (memWrite m a l) = true
  | _, _, [], h => h
  | _, a, b :: l, h => memWf_memWrite (a + 1) l (memWf_memSet a b h)

theorem memAbove_filter (p : Host.Cell → Bool) : ∀ {m : List Host.Cell} {lo : Nat}, memAbove lo m = true →
    memAbove lo (m.filter p) = true
  | [], _, _ => rfl
  | (x, v) :: m, lo, h => by
    simp only [memAbove, Bool.and_eq_true, decide_eq_true_eq] at h
    rw [List.filter_cons]
    split
    · simp only [memAbove, Bool.and_eq_true, decide_eq_true_eq]
      exact ⟨h.1, memAbove_filter p h.2⟩
    · exact memAbove_mono (by omega) (memAbove_filter p h.2)

theorem memWf_filter {m : List Host.Cell} (p : Host.Cell → Bool) (h : memWf m = true) : memWf (m.filter p) = true :=
  memAbove_filter p h

/-- A list all of whose addresses lie above `a` does not list `a`. -/
theorem memGet_above : ∀ {m : List Host.Cell} {lo a : Nat}, a < lo → memAbove lo m = true → memGet m a = memDefault
  | [], _, _, _, _ => rfl
  | (x, v) :: m, lo, a, ha, h => by
    simp only [memAbove, Bool.and_eq_true, decide_eq_true_eq] at h
    unfold memGet
    rw [if_neg (by omega)]
    exact memGet_above (lo := x + 1) (by omega) h.2

/-- The byte written is read back, and every other byte is as before. -/
theorem memGet_memSet : ∀ {m : List Host.Cell} {lo : Nat} (a : Nat) (b : Byte) (c : Nat), memAbove lo m = true →
    memGet (memSet m a b) c = if c = a then b else memGet m c
  | [], _, a, b, c, _ => by
    unfold memSet
    split
    · split
      · simp_all [memGet]
      · rfl
    · simp only [memGet]
      split <;> split <;> first | rfl | omega
  | (x, v) :: m, lo, a, b, c, h => by
    have h' := h
    simp only [memAbove, Bool.and_eq_true, decide_eq_true_eq] at h'
    unfold memSet
    split
    · split
      · split
        · rename_i hb hc
          rw [memGet_above (lo := x) (by omega) (by simp only [memAbove, Bool.and_eq_true, decide_eq_true_eq]
                                                    exact ⟨⟨by omega, h'.1.2⟩, h'.2⟩), hb]
        · rfl
      · conv_lhs => unfold memGet
        split <;> split <;> first | rfl | omega
    · split
      · rename_i hax
        subst hax
        split
        · split
          · rename_i hb hc
            rw [memGet_above (lo := a + 1) (by omega) h'.2, hb]
          · simp only [memGet]
            rw [if_neg (by omega)]
        · simp only [memGet]
          split <;> split <;> first | rfl | omega
      · simp only [memGet]
        split
        · rename_i hxc
          rw [if_neg (by omega)]
        · exact memGet_memSet a b c h'.2

/-- Bytes outside the ones written read as before. -/
theorem memGet_memWrite_out : ∀ {m : List Host.Cell} (a : Nat) (l : List Byte) {c : Nat}, memWf m = true →
    (c < a ∨ a + l.length ≤ c) → memGet (memWrite m a l) c = memGet m c
  | _, _, [], _, _, _ => rfl
  | m, a, b :: l, c, h, hc => by
    simp only [List.length_cons] at hc
    unfold memWrite
    rw [memGet_memWrite_out (a + 1) l (memWf_memSet a b h) (by omega), memGet_memSet a b c h, if_neg (by omega)]

/-- Bytes written are read back. -/
theorem memRead_memWrite : ∀ {m : List Host.Cell} (a : Nat) (l : List Byte), memWf m = true →
    memRead (memWrite m a l) a l.length = l
  | _, _, [], _ => rfl
  | m, a, b :: l, h => by
    unfold memWrite
    simp only [List.length_cons, memRead]
    rw [memGet_memWrite_out (a + 1) l (memWf_memSet a b h) (by omega), memGet_memSet a b a h, if_pos rfl,
      memRead_memWrite (a + 1) l (memWf_memSet a b h)]

/-- Stored bytes of a space are read back from it. -/
theorem State.peek_poke (s : State) (space off : Nat) (l : List Byte) (h : memWf s.mem = true) :
    (s.poke space off l).peek space off l.length = l := memRead_memWrite _ _ h

end Sys2Proof.Machine
end

