-- ==== Sys2Proof/Laws/KeepsBase.lean ====
section
/-! SUPPORT. What every command keeps: the queue, the clock, the canonical form of memory, a tick number, burned fuses, the
tamper record, metered energy, and the bound of the event store. -/

namespace Sys2Proof.Machine

open Sys2Proof

/-- What a frame starts from: a state, and the tick numbers that are allowed after it. -/
structure Frame where
  st : State
  ok : Nat → Prop

/-- The parts of a state reached from that of `z` without a step of the queue. -/
structure KeepsOf (z : Frame) (pending : List Instr) (clock : Nat) (mem : List Host.Cell) (tick : Nat) (fuses : Fuses)
    (vane : Vane) (events : EventStore) : Prop where
  pending : pending = z.st.pending
  clock : clock = z.st.clock
  mem : memWf z.st.mem = true → memWf mem = true
  tick : z.ok tick
  svn : z.st.fuses.svnMin ≤ fuses.svnMin
  revoked : ∀ i, z.st.fuses.revoked.testBit i = true → fuses.revoked.testBit i = true
  fkeys : fuses.fkeys = z.st.fuses.fkeys
  tamper : z.st.vane.tamper = true → vane.tamper = true ∧ vane.tamperTime = z.st.vane.tamperTime
  eMain : z.st.vane.eMain ≤ vane.eMain
  eBackup : z.st.vane.eBackup ≤ vane.eBackup
  events : z.st.events.items.length ≤ 256 → events.items.length ≤ 256

/-- State `s` keeps, of the state of `z`, what no command changes or only moves one way. -/
def Keeps (z : Frame) (s : State) : Prop :=
  KeepsOf z s.pending s.clock s.mem s.belfry.tick s.fuses s.vane s.events

/-- A tick number is allowed by the frame. -/
def TickOk (z : Frame) (n : Nat) : Prop := z.ok n

/-- Every state keeps what it holds itself. -/
theorem keeps_refl {s : State} {ok : Nat → Prop} (h : ok s.belfry.tick) : Keeps ⟨s, ok⟩ s where
  pending := rfl
  clock := rfl
  mem := id
  tick := h
  svn := Nat.le_refl _
  revoked := fun _ => id
  fkeys := rfl
  tamper := fun h => ⟨h, rfl⟩
  eMain := Nat.le_refl _
  eBackup := Nat.le_refl _
  events := id

theorem keeps_mk {z : Frame} {p o f c r st hi tr rs0 m e ho b l d2 rs rt op ar fs w ba bb sc ru fz at' wa mo re ti us ke me sb
    sp ma po fu va tu se og an sr wi} (h : KeepsOf z p c m b.tick fu va e) :
    Keeps z (State.mk p o f c r st hi tr rs0 m e ho b l d2 rs rt op ar fs w ba bb sc ru fz at' wa mo re ti us ke me sb sp ma po
      fu va tu se og an sr wi) := h

theorem keepsOf_eta {z : Frame} {s : State} (h : Keeps z s) :
    KeepsOf z s.pending s.clock s.mem s.belfry.tick s.fuses s.vane s.events := h

theorem keepsOf_mem {z : Frame} {s : State} {m : List Host.Cell} (h : Keeps z s) (hm : memWf z.st.mem = true → memWf m = true) :
    KeepsOf z s.pending s.clock m s.belfry.tick s.fuses s.vane s.events := { h with mem := hm }

theorem keeps_events {z : Frame} {s : State} {e : EventStore} (h : Keeps z s) (he : z.st.events.items.length ≤ 256 → e.items.length ≤ 256) :
    Keeps z { s with events := e } := { h with events := he }

theorem tickOk_eta {z : Frame} {s : State} (h : Keeps z s) : TickOk z s.belfry.tick := h.tick

/-- A left fold keeps what each of its steps keeps. -/
theorem keeps_foldl {α : Type} {z : Frame} {f : State → α → State} (hf : ∀ t x, Keeps z t → Keeps z (f t x)) :
    ∀ {l : List α} {s : State}, Keeps z s → Keeps z (l.foldl f s)
  | [], _, h => h
  | x :: _, s, h => keeps_foldl (s := f s x) hf (hf s x h)

/-- The same for a fold that carries a state in the first part of its accumulator. -/
theorem keeps_foldl_1 {α β : Type} {z : Frame} {f : State × β → α → State × β}
    (hf : ∀ a x, Keeps z a.1 → Keeps z (f a x).1) :
    ∀ {l : List α} {a : State × β}, Keeps z a.1 → Keeps z (l.foldl f a).1
  | [], _, h => h
  | x :: _, a, h => keeps_foldl_1 (a := f a x) hf (hf a x h)

/-- In the second part. -/
theorem keeps_foldl_2 {α β : Type} {z : Frame} {f : β × State → α → β × State}
    (hf : ∀ a x, Keeps z a.2 → Keeps z (f a x).2) :
    ∀ {l : List α} {a : β × State}, Keeps z a.2 → Keeps z (l.foldl f a).2
  | [], _, h => h
  | x :: _, a, h => keeps_foldl_2 (a := f a x) hf (hf a x h)

/-- In the third part. -/
theorem keeps_foldl_3 {α β γ : Type} {z : Frame} {f : β × γ × State → α → β × γ × State}
    (hf : ∀ a x, Keeps z a.2.2 → Keeps z (f a x).2.2) :
    ∀ {l : List α} {a : β × γ × State}, Keeps z a.2.2 → Keeps z (l.foldl f a).2.2
  | [], _, h => h
  | x :: _, a, h => keeps_foldl_3 (a := f a x) hf (hf a x h)

/-- In the first part of the first part. -/
theorem keeps_foldl_11 {α β γ : Type} {z : Frame} {f : (State × β) × γ → α → (State × β) × γ}
    (hf : ∀ a x, Keeps z a.1.1 → Keeps z (f a x).1.1) :
    ∀ {l : List α} {a : (State × β) × γ}, Keeps z a.1.1 → Keeps z (l.foldl f a).1.1
  | [], _, h => h
  | x :: _, a, h => keeps_foldl_11 (a := f a x) hf (hf a x h)

theorem State.put_keeps {z : Frame} {s : State} (h : Keeps z s) (p : PageId) (r : Reg) (i v : Nat) : Keeps z (s.put p r i v) := h

theorem State.setBelfry_keeps {z : Frame} {s : State} (h : Keeps z s) (b : Belfry) (hb : TickOk z b.tick) : Keeps z (s.setBelfry b) :=
  { h with tick := hb }

theorem State.setWatch_keeps {z : Frame} {s : State} (h : Keeps z s) (w : Watch) : Keeps z (s.setWatch w) := h

end Sys2Proof.Machine
end

