-- ==== Sys2Proof/Laws/KeepsRegs.lean ====
section
/-! SUPPORT. What the operations of Regs.lean keep (Keeps). -/

namespace Sys2Proof.Machine

open Sys2Proof

theorem State.noteRise_keeps {z : Frame} {s : State} (h : Keeps z s) (k : RegKey) (b : Nat) :
    Keeps z (State.noteRise s k b) := by
  unfold State.noteRise
  repeat' first
    | with_reducible assumption
    | split
    | dsimp only
    | with_reducible apply keepsOf_eta
    | with_reducible apply keeps_mk

theorem State.again_keeps {z : Frame} {s : State} (h : Keeps z s) (p : PageId) (r : Reg) :
    Keeps z (State.again s p r) := by
  unfold State.again
  repeat' first
    | with_reducible assumption
    | with_reducible apply State.noteRise_keeps
    | split
    | dsimp only

theorem State.updi_keeps {z : Frame} {s : State} (h : Keeps z s) (p : PageId) (r : Reg) (i v : Nat) :
    Keeps z (State.updi s p r i v) := by
  unfold State.updi
  repeat' first
    | with_reducible assumption
    | with_reducible apply State.put_keeps
    | split
    | dsimp only
    | with_reducible apply keepsOf_eta
    | with_reducible apply keeps_mk

theorem State.wri_keeps {z : Frame} {s : State} (h : Keeps z s) (p : PageId) (r : Reg) (i v : Nat) :
    Keeps z (State.wri s p r i v) := State.updi_keeps (State.noteRise_keeps h _ _) p r i v

theorem State.wr_keeps {z : Frame} {s : State} (h : Keeps z s) (p : PageId) (r : Reg) (v : Nat) :
    Keeps z (State.wr s p r v) := by
  unfold State.wr
  repeat' first
    | with_reducible assumption
    | with_reducible apply State.wri_keeps

theorem State.wrb_keeps {z : Frame} {s : State} (h : Keeps z s) (p : PageId) (r : Reg) (b : Bool) :
    Keeps z (State.wrb s p r b) := by
  unfold State.wrb
  repeat' first
    | with_reducible assumption
    | with_reducible apply State.wri_keeps

theorem State.bumpi_keeps {z : Frame} {s : State} (h : Keeps z s) (p : PageId) (r : Reg) (i n : Nat) :
    Keeps z (State.bumpi s p r i n) := by
  unfold State.bumpi
  repeat' first
    | with_reducible assumption
    | with_reducible apply State.wri_keeps

theorem State.bump_keeps {z : Frame} {s : State} (h : Keeps z s) (p : PageId) (r : Reg) (n : Nat) :
    Keeps z (State.bump s p r n) := by
  unfold State.bump
  repeat' first
    | with_reducible assumption
    | with_reducible apply State.bumpi_keeps

theorem State.wr2_keeps {z : Frame} {s : State} (h : Keeps z s) (p : PageId) (lo hi : Reg) (v : Nat) (i : Nat) :
    Keeps z (State.wr2 s p lo hi v i) := by
  unfold State.wr2
  repeat' first
    | with_reducible assumption
    | with_reducible apply State.wri_keeps

theorem State.wrs_keeps {z : Frame} (p : PageId) :
    ∀ {s : State} (_ : Keeps z s) (l : List (Reg × Nat)), Keeps z (s.wrs p l)
  | _, h, [] => h
  | _, h, (r, v) :: l => State.wrs_keeps p (State.wr_keeps h p r v) l

theorem State.clearFields_keeps {z : Frame} (p : PageId) :
    ∀ {s : State} (_ : Keeps z s) (l : List Reg), Keeps z (s.clearFields p l)
  | _, h, [] => h
  | _, h, r :: l => State.clearFields_keeps p (keeps_foldl (fun _ _ ht => State.wri_keeps ht p r _ 0) h) l

theorem State.w1c_keeps {z : Frame} {s : State} (h : Keeps z s) (p : PageId) (r : Reg) (i v : Nat) :
    Keeps z (State.w1c s p r i v) := by
  unfold State.w1c
  repeat' first
    | with_reducible assumption
    | with_reducible apply State.put_keeps
    | split
    | dsimp only
    | with_reducible apply keepsOf_eta
    | with_reducible apply keeps_mk

theorem State.swField_keeps {z : Frame} {s : State} (h : Keeps z s) (p : PageId) (r : Reg) (i v : Nat) :
    Keeps z (State.swField s p r i v) := by
  unfold State.swField
  repeat' first
    | with_reducible assumption
    | with_reducible apply State.w1c_keeps
    | with_reducible apply State.put_keeps
    | split
    | dsimp only
    | with_reducible apply keepsOf_eta
    | with_reducible apply keeps_mk

theorem State.unfreeze_keeps {z : Frame} {s : State} (h : Keeps z s) (p : PageId) :
    Keeps z (State.unfreeze s p) := by
  unfold State.unfreeze
  repeat' first
    | with_reducible assumption
    | with_reducible apply State.put_keeps
    | with_reducible refine keeps_foldl (fun t x ht => ?_) ?_
    | with_reducible refine keeps_foldl_1 (fun t x ht => ?_) ?_
    | with_reducible refine keeps_foldl_2 (fun t x ht => ?_) ?_
    | with_reducible refine keeps_foldl_3 (fun t x ht => ?_) ?_
    | dsimp only
    | with_reducible apply keepsOf_eta
    | with_reducible apply keeps_mk

end Sys2Proof.Machine
end

