-- ==== Sys2Proof/Laws/KeepsFrames.lean ====
section
/-! SUPPORT. What the operations of Frames.lean keep (Keeps). -/

namespace Sys2Proof.Machine

open Sys2Proof

theorem State.strictPut_keeps {z : Frame} {s : State} (h : Keeps z s) (q : Nat) (bytes : List Byte) :
    Keeps z (State.strictPut s q bytes) := by
  unfold State.strictPut
  repeat' first
    | with_reducible assumption
    | with_reducible apply State.bump_keeps
    | split
    | dsimp only
    | with_reducible apply keepsOf_eta
    | with_reducible apply keeps_mk

end Sys2Proof.Machine
end

