-- ==== Sys2Proof/Laws/KeepsOps.lean ====
section
/-! SUPPORT. What the operations of Ops.lean keep (Keeps). -/

namespace Sys2Proof.Machine

open Sys2Proof

theorem State.emit_keeps {z : Frame} {s : State} (h : Keeps z s) (o : Output) :
    Keeps z (State.emit s o) := by
  unfold State.emit
  repeat' first
    | with_reducible assumption
    | dsimp only
    | with_reducible apply keepsOf_eta
    | with_reducible apply keeps_mk

theorem State.draw_keeps {z : Frame} {s : State} (h : Keeps z s) (w : Nat) :
    Keeps z (State.draw s w).2 := by
  unfold State.draw
  repeat' first
    | with_reducible assumption
    | split
    | dsimp only
    | with_reducible apply keepsOf_eta
    | with_reducible apply keeps_mk

theorem State.drawBytes_keeps {z : Frame} {s : State} (h : Keeps z s) (n : Nat) :
    Keeps z (State.drawBytes s n).2 := by
  unfold State.drawBytes
  repeat' first
    | with_reducible assumption
    | split
    | dsimp only
    | with_reducible apply keepsOf_eta
    | with_reducible apply keeps_mk



theorem State.overrun_keeps {z : Frame} {s : State} (h : Keeps z s) (ty inst cause detail : Nat) :
    Keeps z (State.overrun s ty inst cause detail) := by
  unfold State.overrun
  repeat' first
    | with_reducible assumption
    | with_reducible apply State.setBelfry_keeps
    | with_reducible apply tickOk_eta

theorem State.sendEvent_keeps {z : Frame} {s : State} (h : Keeps z s) (e : Event) :
    Keeps z (State.sendEvent s e) := by
  unfold State.sendEvent
  repeat' first
    | with_reducible assumption
    | with_reducible apply State.strictPut_keeps
    | dsimp only
    | with_reducible apply keepsOf_eta
    | with_reducible apply keeps_mk

theorem State.sendAllEvents_keeps {z : Frame} {s : State} (h : Keeps z s) : Keeps z (State.sendAllEvents s) := by
  unfold State.sendAllEvents
  split
  · refine keeps_foldl (fun t x ht => State.sendEvent_keeps ht x) ?_
    exact keeps_events h (by simpa using h.events)
  · exact h

theorem State.storeEvent_keeps {z : Frame} {s : State} (h : Keeps z s) (hn : s.events.items.length < 256) (code unit : Nat)
    (detail : List Byte) : Keeps z (State.storeEvent s code unit detail) := by
  unfold State.storeEvent
  dsimp only
  split
  · exact State.sendEvent_keeps (keeps_events h (fun _ => by simpa using hn)) _
  · exact keeps_events h (fun _ => by simpa using hn)

theorem State.strictPut_eventsKept (s : State) (q : Nat) (bytes : List Byte) : (s.strictPut q bytes).events = s.events := by
  unfold State.strictPut
  dsimp only
  split
  · rfl
  · simp only [State.bump, State.bumpi, State.wri, State.updi, State.noteRise]
    repeat' split
    all_goals rfl

theorem State.storeEvent_length (s : State) (code unit : Nat) (detail : List Byte) :
    (s.storeEvent code unit detail).events.items.length = s.events.items.length + 1 := by
  unfold State.storeEvent
  dsimp only
  split
  · simp [State.sendEvent, State.strictPut_eventsKept]
  · simp

theorem State.loseEvent_keeps {z : Frame} {s : State} (h : Keeps z s) : Keeps z (State.loseEvent s) := by
  unfold State.loseEvent
  refine State.bump_keeps ?_ _ _ _
  exact keeps_events h h.events

theorem State.event_keeps {z : Frame} {s : State} (h : Keeps z s) (p : PageId) (code : Nat) (detail : List Byte) :
    Keeps z (State.event s p code detail) := by
  unfold State.event
  dsimp only
  split
  · split
    · exact State.storeEvent_keeps h (by omega) _ _ _
    · exact State.loseEvent_keeps h
  · split
    · rename_i hn
      refine State.storeEvent_keeps ?_ ?_ _ _ _
      · refine State.storeEvent_keeps ?_ ?_ _ _ _
        · exact keeps_events h h.events
        · dsimp only
          omega
      · rw [State.storeEvent_length]
        dsimp only
        omega
    · exact State.loseEvent_keeps h

theorem State.pgErr_keeps {z : Frame} {s : State} (h : Keeps z s) (p : PageId) (i : Nat) :
    Keeps z (State.pgErr s p i) := by
  unfold State.pgErr
  repeat' first
    | with_reducible assumption
    | with_reducible apply State.event_keeps
    | with_reducible apply State.wr_keeps
    | with_reducible apply State.noteRise_keeps
    | split
    | dsimp only

theorem State.dropErrs_keeps {z : Frame} {s1 : State} (h : Keeps z s1) (s : State) :
    Keeps z (State.dropErrs s1 s) := by
  unfold State.dropErrs
  repeat' first
    | with_reducible assumption
    | with_reducible apply State.pgErr_keeps
    | split
    | dsimp only

theorem State.eventE_keeps {z : Frame} {s : State} (h : Keeps z s) (p : PageId) (code : Nat) (detail : List Byte) :
    Keeps z (State.eventE s p code detail) := by
  unfold State.eventE
  repeat' first
    | with_reducible assumption
    | with_reducible apply State.dropErrs_keeps
    | with_reducible apply State.event_keeps
    | split
    | dsimp only

theorem State.err_keeps {z : Frame} {s : State} (h : Keeps z s) (p : PageId) (i : Nat) :
    Keeps z (State.err s p i) := by
  unfold State.err
  repeat' first
    | with_reducible assumption
    | with_reducible apply State.dropErrs_keeps
    | with_reducible apply State.pgErr_keeps
    | split
    | dsimp only

theorem State.resendEvents_keeps {z : Frame} {s : State} (h : Keeps z s) :
    Keeps z (State.resendEvents s) := by
  unfold State.resendEvents
  repeat' first
    | with_reducible assumption
    | with_reducible apply State.dropErrs_keeps
    | with_reducible apply State.sendAllEvents_keeps
    | split
    | dsimp only

theorem State.strictSend_keeps {z : Frame} {s : State} (h : Keeps z s) (q : Nat) (bytes : List Byte) :
    Keeps z (State.strictSend s q bytes) := by
  unfold State.strictSend
  repeat' first
    | with_reducible assumption
    | with_reducible apply State.err_keeps
    | with_reducible apply State.strictPut_keeps
    | split
    | dsimp only



theorem State.raise_keeps {z : Frame} {s : State} (h : Keeps z s) (cls entry : Nat) :
    Keeps z (State.raise s cls entry) := by
  unfold State.raise
  repeat' first
    | with_reducible assumption
    | with_reducible apply State.setWatch_keeps

theorem State.tickFault_keeps {z : Frame} {s : State} (h : Keeps z s) :
    Keeps z (State.tickFault s) := by
  unfold State.tickFault
  repeat' first
    | with_reducible assumption
    | with_reducible apply State.raise_keeps

theorem State.moduleFault_keeps {z : Frame} {s : State} (h : Keeps z s) :
    Keeps z (State.moduleFault s) := by
  unfold State.moduleFault
  repeat' first
    | with_reducible assumption
    | with_reducible apply State.raise_keeps

theorem State.poke_keeps {z : Frame} {s : State} (h : Keeps z s) (space off : Nat) (l : List Byte) :
    Keeps z (State.poke s space off l) := { h with mem := fun hz => memWf_memWrite _ _ (h.mem hz) }

end Sys2Proof.Machine
end

