-- ==== Sys2Proof/Laws/KeepsArith.lean ====
section
/-! SUPPORT. What the operations of Arith.lean keep (Keeps). -/

namespace Sys2Proof.Machine

open Sys2Proof

theorem State.firstNan_keeps {z : Frame} {s : State} (h : Keeps z s) (u : AUnit) (insn : Nat) (e : NanEv) :
    Keeps z (State.firstNan s u insn e) := by
  unfold State.firstNan
  repeat' first
    | with_reducible assumption
    | with_reducible apply State.tickFault_keeps
    | with_reducible apply State.raise_keeps
    | with_reducible apply State.err_keeps
    | with_reducible apply State.wrs_keeps
    | with_reducible apply State.wri_keeps
    | with_reducible refine keeps_foldl (fun t x ht => ?_) ?_
    | split
    | dsimp only

theorem State.nanCount_keeps {z : Frame} {s : State} (h : Keeps z s) (u : AUnit) (n : Nat) :
    Keeps z (State.nanCount s u n) := by
  unfold State.nanCount
  repeat' first
    | with_reducible assumption
    | with_reducible apply State.wr_keeps
    | split
    | dsimp only

theorem State.nanEvents_keeps {z : Frame} {s : State} (h : Keeps z s) (u : AUnit) (insn : Nat) (x0 : List NanEv) :
    Keeps z (State.nanEvents s u insn x0) := by
  unfold State.nanEvents
  repeat' first
    | with_reducible assumption
    | with_reducible apply State.nanCount_keeps
    | with_reducible apply State.firstNan_keeps
    | with_reducible apply State.again_keeps
    | split
    | dsimp only

theorem State.residue_keeps {z : Frame} {s : State} (h : Keeps z s) (u : AUnit) (l : List (Nat × Nat)) :
    Keeps z (State.residue s u l) := by
  unfold State.residue
  repeat' first
    | with_reducible assumption
    | with_reducible apply State.tickFault_keeps
    | with_reducible apply State.err_keeps
    | with_reducible apply State.bump_keeps
    | split
    | dsimp only
    | with_reducible apply keepsOf_eta
    | with_reducible apply keeps_mk

theorem State.arith_keeps {z : Frame} {s : State} (h : Keeps z s) (u : AUnit) (insn : Nat) (fx : Fx) :
    Keeps z (State.arith s u insn fx) := by
  unfold State.arith
  repeat' first
    | with_reducible assumption
    | with_reducible apply State.residue_keeps
    | with_reducible apply State.nanEvents_keeps
    | with_reducible apply State.bump_keeps
    | split
    | dsimp only

theorem State.fp64Denied_keeps {z : Frame} {s : State} (h : Keeps z s) (u : AUnit) :
    Keeps z (State.fp64Denied s u) := by
  unfold State.fp64Denied
  repeat' first
    | with_reducible assumption
    | with_reducible apply State.err_keeps
    | with_reducible apply State.overrun_keeps
    | split

theorem State.clipClr_keeps {z : Frame} {s : State} (h : Keeps z s) (u : AUnit) :
    Keeps z (State.clipClr s u) := by
  unfold State.clipClr
  repeat' first
    | with_reducible assumption
    | with_reducible apply State.put_keeps
    | dsimp only
    | with_reducible apply keepsOf_eta
    | with_reducible apply keeps_mk

end Sys2Proof.Machine
end

