-- ==== Sys2Proof/Laws/KeepsWire.lean ====
section
/-! SUPPORT. What the operations of Wire.lean keep (Keeps). -/

namespace Sys2Proof.Machine

open Sys2Proof

theorem State.setLink_keeps {z : Frame} {s : State} (h : Keeps z s) (l : Nat) (x : Link) :
    Keeps z (State.setLink s l x) := by
  unfold State.setLink
  repeat' first
    | with_reducible assumption
    | split
    | dsimp only
    | with_reducible apply keepsOf_eta
    | with_reducible apply keeps_mk

theorem State.setCred_keeps {z : Frame} {s : State} (h : Keeps z s) (l vc n : Nat) :
    Keeps z (State.setCred s l vc n) := by
  unfold State.setCred
  repeat' first
    | with_reducible assumption
    | with_reducible apply State.setLink_keeps
    | with_reducible apply State.wri_keeps
    | split
    | dsimp only

theorem State.sendFlit_keeps {z : Frame} {s : State} (h : Keeps z s) (l : Nat) (f : Flit) :
    Keeps z (State.sendFlit s l f) := by
  unfold State.sendFlit
  repeat' first
    | with_reducible assumption
    | with_reducible apply State.setLink_keeps
    | with_reducible apply State.emit_keeps
    | split
    | dsimp only

theorem State.resendFlit_keeps {z : Frame} {s : State} (h : Keeps z s) (l : Nat) (b : ReplayBlock) :
    Keeps z (State.resendFlit s l b) := by
  unfold State.resendFlit
  repeat' first
    | with_reducible assumption
    | with_reducible apply State.emit_keeps
    | split
    | dsimp only

theorem State.sendIdle_keeps {z : Frame} {s : State} (h : Keeps z s) (l : Nat) (nak : Option Nat) (cr : List (Nat ×
    Nat)) :
    Keeps z (State.sendIdle s l nak cr) := by
  unfold State.sendIdle
  repeat' first
    | with_reducible assumption
    | with_reducible apply State.emit_keeps
    | split
    | dsimp only

theorem State.sendTraining_keeps {z : Frame} {s : State} (h : Keeps z s) (l : Nat) (t : Training) :
    Keeps z (State.sendTraining s l t) := by
  unfold State.sendTraining
  repeat' first
    | with_reducible assumption
    | with_reducible apply State.emit_keeps
    | split
    | dsimp only

end Sys2Proof.Machine
end

