-- ==== Sys2Proof/Laws/KeepsReport.lean ====
section
/-! SUPPORT. What the operations of Report.lean keep (Keeps). -/

namespace Sys2Proof.Machine

open Sys2Proof

theorem State.queueMessage_keeps {z : Frame} {s : State} (h : Keeps z s) (d opcode : Nat) (payload : List Byte) :
    Keeps z (State.queueMessage s d opcode payload) := by
  unfold State.queueMessage
  repeat' first
    | with_reducible assumption
    | with_reducible apply State.setLink_keeps
    | split
    | dsimp only

theorem State.flood_keeps {z : Frame} {s : State} (h : Keeps z s) (except : Option Nat) (opcode : Nat) (payload : List
    Byte) :
    Keeps z (State.flood s except opcode payload) := by
  unfold State.flood
  repeat' first
    | with_reducible assumption
    | with_reducible apply State.queueMessage_keeps
    | with_reducible refine keeps_foldl (fun t x ht => ?_) ?_
    | split
    | dsimp only

theorem State.sendMessage_keeps {z : Frame} {s : State} (h : Keeps z s) (l : Nat) :
    Keeps z (State.sendMessage s l) := by
  unfold State.sendMessage
  repeat' first
    | with_reducible assumption
    | with_reducible apply State.sendFlit_keeps
    | with_reducible apply State.setCred_keeps
    | with_reducible apply State.setLink_keeps
    | split
    | dsimp only

theorem State.openRound_keeps {z : Frame} {s : State} (h : Keeps z s) (td : Nat) (other : Option Nat) :
    Keeps z (State.openRound s td other) := by
  unfold State.openRound
  repeat' first
    | with_reducible assumption
    | with_reducible apply State.setWatch_keeps

theorem State.holdReport_keeps {z : Frame} {s : State} (h : Keeps z s) (r : Report) (src cut : Option Nat) :
    Keeps z (State.holdReport s r src cut) := by
  unfold State.holdReport
  repeat' first
    | with_reducible assumption
    | with_reducible apply State.openRound_keeps
    | with_reducible apply State.flood_keeps
    | with_reducible apply State.setWatch_keeps
    | split
    | dsimp only

theorem State.reportLinkAt_keeps {z : Frame} {s : State} (h : Keeps z s) (d td : Nat) :
    Keeps z (State.reportLinkAt s d td) := by
  unfold State.reportLinkAt
  repeat' first
    | with_reducible assumption
    | with_reducible apply State.holdReport_keeps
    | split
    | dsimp only

theorem State.reportLink_keeps {z : Frame} {s : State} (h : Keeps z s) (d : Nat) :
    Keeps z (State.reportLink s d) := by
  unfold State.reportLink
  repeat' first
    | with_reducible assumption
    | with_reducible apply State.reportLinkAt_keeps
    | split
    | dsimp only

theorem State.reportSelf_keeps {z : Frame} {s : State} (h : Keeps z s) (cls entry td : Nat) :
    Keeps z (State.reportSelf s cls entry td) := by
  unfold State.reportSelf
  repeat' first
    | with_reducible assumption
    | with_reducible apply State.holdReport_keeps

end Sys2Proof.Machine
end

