-- ==== Sys2Proof/Laws/KeepsArrays.lean ====
section
/-! SUPPORT. What the operations of Arrays.lean keep (Keeps). -/

namespace Sys2Proof.Machine

open Sys2Proof

theorem State.setArrays_keeps {z : Frame} {s : State} (h : Keeps z s) (a : Arrays) :
    Keeps z (State.setArrays s a) := by
  unfold State.setArrays
  repeat' first
    | with_reducible assumption
    | dsimp only
    | with_reducible apply keepsOf_eta
    | with_reducible apply keeps_mk

theorem State.unhide_keeps {z : Frame} {s : State} (h : Keeps z s) (sp off n : Nat) :
    Keeps z (State.unhide s sp off n) := by
  unfold State.unhide
  repeat' first
    | with_reducible assumption
    | with_reducible apply State.setArrays_keeps
    | split
    | dsimp only

theorem State.poisonLine_keeps {z : Frame} {s : State} (h : Keeps z s) (sp line : Nat) :
    Keeps z (State.poisonLine s sp line) := by
  unfold State.poisonLine
  repeat' first
    | with_reducible assumption
    | with_reducible apply State.setArrays_keeps
    | with_reducible apply State.poke_keeps

theorem State.cleanLine_keeps {z : Frame} {s : State} (h : Keeps z s) (sp line : Nat) :
    Keeps z (State.cleanLine s sp line) := by
  unfold State.cleanLine
  repeat' first
    | with_reducible assumption
    | with_reducible apply State.setArrays_keeps

theorem State.ueRecord_keeps {z : Frame} {s : State} (h : Keeps z s) (kind arr addr : Nat) :
    Keeps z (State.ueRecord s kind arr addr) := by
  unfold State.ueRecord
  repeat' first
    | with_reducible assumption
    | with_reducible apply State.wrs_keeps
    | with_reducible apply State.again_keeps
    | split
    | dsimp only

theorem State.ueLine_keeps {z : Frame} {s : State} (h : Keeps z s) (sp line : Nat) (d : Decoded) :
    Keeps z (State.ueLine s sp line d) := by
  unfold State.ueLine
  repeat' first
    | with_reducible assumption
    | with_reducible apply State.ueRecord_keeps
    | with_reducible apply State.poisonLine_keeps
    | with_reducible apply State.err_keeps
    | with_reducible apply State.bump_keeps

theorem State.noteCorrected_keeps {z : Frame} {s : State} (h : Keeps z s) (sp line : Nat) :
    Keeps z (State.noteCorrected s sp line) := by
  unfold State.noteCorrected
  repeat' first
    | with_reducible assumption
    | with_reducible apply State.setArrays_keeps
    | with_reducible apply State.bump_keeps
    | split
    | dsimp only

theorem State.touchLine_keeps {z : Frame} {s : State} (h : Keeps z s) (plan : Bool) (sp line : Nat) :
    Keeps z (State.touchLine s plan sp line) := by
  unfold State.touchLine
  repeat' first
    | with_reducible assumption
    | with_reducible apply State.noteCorrected_keeps
    | with_reducible apply State.ueLine_keeps
    | with_reducible apply State.tickFault_keeps
    | split
    | dsimp only

theorem State.touch_keeps {z : Frame} {s : State} (h : Keeps z s) (plan : Bool) (sp off n : Nat) :
    Keeps z (State.touch s plan sp off n) := by
  unfold State.touch
  repeat' first
    | with_reducible assumption
    | with_reducible apply State.touchLine_keeps
    | with_reducible refine keeps_foldl (fun t x ht => ?_) ?_

theorem State.poisonRange_keeps {z : Frame} {s : State} (h : Keeps z s) (sp off n : Nat) :
    Keeps z (State.poisonRange s sp off n) := by
  unfold State.poisonRange
  repeat' first
    | with_reducible assumption
    | with_reducible apply State.poisonLine_keeps
    | with_reducible refine keeps_foldl (fun t x ht => ?_) ?_

theorem State.mergeFree_keeps {z : Frame} {s : State} (h : Keeps z s) (line : Nat) :
    Keeps z (State.mergeFree s line) := by
  unfold State.mergeFree
  repeat' first
    | with_reducible assumption
    | with_reducible apply State.cleanLine_keeps
    | with_reducible apply State.setArrays_keeps

theorem State.mergeRoom_keeps {z : Frame} {s : State} (h : Keeps z s) (plan : Bool) (st : Nat) :
    Keeps z (State.mergeRoom s plan st) := by
  unfold State.mergeRoom
  repeat' first
    | with_reducible assumption
    | with_reducible apply State.mergeFree_keeps
    | split
    | dsimp only

theorem State.mergeNeed_keeps {z : Frame} {s : State} (h : Keeps z s) (plan : Bool) (st : Nat) :
    Keeps z (State.mergeNeed s plan st) := by
  unfold State.mergeNeed
  repeat' first
    | with_reducible assumption
    | with_reducible apply State.mergeRoom_keeps
    | with_reducible apply State.bump_keeps
    | split
    | dsimp only

theorem State.mergeTouch_keeps {z : Frame} {s : State} (h : Keeps z s) (plan : Bool) (line : Nat) :
    Keeps z (State.mergeTouch s plan line) := by
  unfold State.mergeTouch
  repeat' first
    | with_reducible assumption
    | with_reducible apply State.mergeNeed_keeps
    | with_reducible apply State.setArrays_keeps
    | split
    | dsimp only

theorem State.writeLine_keeps {z : Frame} {s : State} (h : Keeps z s) (plan : Bool) (sp off : Nat) (l : List Byte) (line : Nat) :
    Keeps z (State.writeLine s plan sp off l line) := by
  unfold State.writeLine
  repeat' first
    | with_reducible assumption
    | with_reducible apply State.mergeTouch_keeps
    | with_reducible apply State.touchLine_keeps
    | with_reducible apply State.cleanLine_keeps
    | with_reducible apply State.poke_keeps
    | with_reducible apply State.bump_keeps
    | split
    | dsimp only

theorem State.store_keeps {z : Frame} {s : State} (h : Keeps z s) (plan : Bool) (sp off : Nat) (l : List Byte) :
    Keeps z (State.store s plan sp off l) := by
  unfold State.store
  repeat' first
    | with_reducible assumption
    | with_reducible apply State.writeLine_keeps
    | with_reducible apply State.unhide_keeps
    | with_reducible refine keeps_foldl (fun t x ht => ?_) ?_
    | split
    | dsimp only

end Sys2Proof.Machine
end

