-- ==== Sys2Proof/Laws/KeepsAtomics.lean ====
section
/-! SUPPORT. What the operations of Atomics.lean keep (Keeps). -/

namespace Sys2Proof.Machine

open Sys2Proof

theorem State.hide_keeps {z : Frame} {s : State} (h : Keeps z s) (sp off n : Nat) :
    Keeps z (State.hide s sp off n) := by
  unfold State.hide
  repeat' first
    | with_reducible assumption
    | with_reducible apply State.setArrays_keeps
    | split
    | dsimp only

theorem State.atomFree_keeps {z : Frame} {s : State} (h : Keeps z s) (a : Atom) :
    Keeps z (State.atomFree s a) := by
  unfold State.atomFree
  repeat' first
    | with_reducible assumption
    | dsimp only
    | with_reducible apply keepsOf_eta
    | with_reducible apply keeps_mk

theorem State.atomLost_keeps {z : Frame} {s : State} (h : Keeps z s) (a : Atom) :
    Keeps z (State.atomLost s a) := by
  unfold State.atomLost
  repeat' first
    | with_reducible assumption
    | with_reducible apply State.atomFree_keeps
    | with_reducible apply State.touchLine_keeps
    | with_reducible apply State.poisonLine_keeps
    | with_reducible apply State.err_keeps

theorem State.atomWriteback_keeps {z : Frame} {s : State} (h : Keeps z s) (a : Atom) :
    Keeps z (State.atomWriteback s a) := by
  unfold State.atomWriteback
  repeat' first
    | with_reducible assumption
    | with_reducible apply State.atomLost_keeps
    | with_reducible apply State.atomFree_keeps
    | with_reducible apply State.store_keeps
    | with_reducible apply State.touchLine_keeps
    | with_reducible apply State.bump_keeps
    | split
    | dsimp only

theorem State.atomCount_keeps {z : Frame} {s : State} (h : Keeps z s) (line clips nans : Nat) :
    Keeps z (State.atomCount s line clips nans) := by
  unfold State.atomCount
  repeat' first
    | with_reducible assumption
    | with_reducible apply State.bump_keeps

theorem State.atomHit_keeps {z : Frame} {s : State} (h : Keeps z s) (a : Atom) (loc f w : Nat) (add : List Byte) :
    Keeps z (State.atomHit s a loc f w add).1 := by
  unfold State.atomHit
  repeat' first
    | with_reducible assumption
    | with_reducible apply State.atomCount_keeps
    | with_reducible apply State.touchLine_keeps
    | with_reducible apply State.cleanLine_keeps
    | with_reducible apply State.poke_keeps
    | split
    | dsimp only
    | with_reducible apply keepsOf_eta
    | with_reducible apply keeps_mk

theorem State.atomFill_keeps {z : Frame} {s : State} (h : Keeps z s) (line slot : Nat) :
    Keeps z (State.atomFill s line slot).1 := by
  unfold State.atomFill
  repeat' first
    | with_reducible assumption
    | with_reducible apply State.touchLine_keeps
    | with_reducible apply State.cleanLine_keeps
    | with_reducible apply State.poke_keeps
    | dsimp only
    | with_reducible apply keepsOf_eta
    | with_reducible apply keeps_mk

theorem State.atomic_keeps {z : Frame} {s : State} (h : Keeps z s) (loc f w : Nat) (add : List Byte) :
    Keeps z (State.atomic s loc f w add).1 := by
  unfold State.atomic
  repeat' first
    | with_reducible assumption
    | with_reducible apply State.atomFill_keeps
    | with_reducible apply State.atomHit_keeps
    | with_reducible apply State.atomCount_keeps
    | with_reducible apply State.atomLost_keeps
    | with_reducible apply State.hide_keeps
    | with_reducible apply State.store_keeps
    | with_reducible apply State.err_keeps
    | with_reducible apply State.touchLine_keeps
    | with_reducible apply State.bump_keeps
    | split
    | dsimp only

theorem State.atomIdles_keeps {z : Frame} {s : State} (h : Keeps z s) :
    Keeps z (State.atomIdles s) := by
  unfold State.atomIdles
  repeat' first
    | with_reducible assumption
    | with_reducible apply State.atomWriteback_keeps
    | with_reducible refine keeps_foldl (fun t x ht => ?_) ?_

theorem State.atomFlush_keeps {z : Frame} {s : State} (h : Keeps z s) (c : Nat) :
    Keeps z (State.atomFlush s c) := by
  unfold State.atomFlush
  repeat' first
    | with_reducible assumption
    | with_reducible apply State.atomWriteback_keeps
    | with_reducible apply State.wr_keeps
    | with_reducible refine keeps_foldl (fun t x ht => ?_) ?_

theorem State.atomWin_keeps {z : Frame} {s : State} (h : Keeps z s) (c v : Nat) :
    Keeps z (State.atomWin s c v) := by
  unfold State.atomWin
  repeat' first
    | with_reducible assumption
    | with_reducible apply State.atomFlush_keeps
    | with_reducible apply State.err_keeps
    | with_reducible apply State.wr_keeps
    | with_reducible apply State.put_keeps
    | split
    | dsimp only

end Sys2Proof.Machine
end

