-- ==== Sys2Proof/Laws/KeepsBelfry.lean ====
section
/-! SUPPORT. What the operations of Belfry.lean keep (Keeps). -/

namespace Sys2Proof.Machine

open Sys2Proof

theorem State.armPeriod_keeps {z : Frame} {s : State} (h : Keeps z s) (v : Nat) :
    Keeps z (State.armPeriod s v) := by
  unfold State.armPeriod
  repeat' first
    | with_reducible assumption
    | with_reducible apply State.err_keeps
    | with_reducible apply State.setBelfry_keeps
    | with_reducible apply State.put_keeps
    | with_reducible apply tickOk_eta
    | split
    | dsimp only

theorem State.readNowLo_keeps {z : Frame} {s : State} (h : Keeps z s) :
    Keeps z (State.readNowLo s).2 := by
  unfold State.readNowLo
  repeat' first
    | with_reducible assumption
    | with_reducible apply State.put_keeps

theorem State.readStepLo_keeps {z : Frame} {s : State} (h : Keeps z s) :
    Keeps z (State.readStepLo s).2 := by
  unfold State.readStepLo
  repeat' first
    | with_reducible assumption
    | with_reducible apply State.put_keeps

theorem State.markerErr_keeps {z : Frame} {s : State} (h : Keeps z s) (l belBit turBit : Nat) :
    Keeps z (State.markerErr s l belBit turBit) := by
  unfold State.markerErr
  repeat' first
    | with_reducible assumption
    | with_reducible apply State.err_keeps
    | split

theorem State.markerLinkFault_keeps {z : Frame} {s : State} (h : Keeps z s) (l : Nat) :
    Keeps z (State.markerLinkFault s l) := by
  unfold State.markerLinkFault
  repeat' first
    | with_reducible assumption
    | with_reducible apply State.reportLink_keeps
    | split

theorem State.markerCompare_keeps {z : Frame} {s : State} (h : Keeps z s) (l : Nat) (m : Marker) (per step : Nat) :
    Keeps z (State.markerCompare s l m per step) := by
  unfold State.markerCompare
  repeat' first
    | with_reducible assumption
    | with_reducible apply State.markerLinkFault_keeps
    | with_reducible apply State.markerErr_keeps
    | with_reducible apply State.tickFault_keeps
    | split

theorem State.skewCheck_keeps {z : Frame} {s : State} (h : Keeps z s) (l : Nat) (skew : Int) :
    Keeps z (State.skewCheck s l skew) := by
  unfold State.skewCheck
  repeat' first
    | with_reducible assumption
    | with_reducible apply State.markerLinkFault_keeps
    | with_reducible apply State.markerErr_keeps
    | split

theorem State.markerCheck_keeps {z : Frame} {s : State} (h : Keeps z s) (l : Nat) (m : Marker) (skew : Int) :
    Keeps z (State.markerCheck s l m skew) := by
  unfold State.markerCheck
  repeat' first
    | with_reducible assumption
    | with_reducible apply State.skewCheck_keeps
    | with_reducible apply State.markerCompare_keeps
    | with_reducible apply State.setBelfry_keeps
    | with_reducible apply tickOk_eta
    | split
    | dsimp only

theorem State.markerSeen_keeps {z : Frame} {s : State} (h : Keeps z s) (l : Nat) (m : Marker) :
    Keeps z (State.markerSeen s l m) := by
  unfold State.markerSeen
  repeat' first
    | with_reducible assumption
    | with_reducible apply State.setBelfry_keeps
    | with_reducible apply tickOk_eta
    | split
    | dsimp only

theorem State.recordSkew_keeps {z : Frame} {s : State} (h : Keeps z s) (l : Nat) (skew : Int) :
    Keeps z (State.recordSkew s l skew) := by
  unfold State.recordSkew
  repeat' first
    | with_reducible assumption
    | with_reducible apply State.put_keeps
    | split
    | dsimp only

theorem State.trimMark_keeps {z : Frame} {s : State} (h : Keeps z s) (l : Nat) (m : Marker) (skew : Int) :
    Keeps z (State.trimMark s l m skew) := by
  unfold State.trimMark
  repeat' first
    | with_reducible assumption
    | with_reducible apply State.setBelfry_keeps
    | with_reducible apply State.put_keeps
    | with_reducible apply tickOk_eta
    | split

theorem State.marker_keeps {z : Frame} {s : State} (h : Keeps z s) (l : Nat) (m : Marker) :
    Keeps z (State.marker s l m) := by
  unfold State.marker
  repeat' first
    | with_reducible assumption
    | with_reducible apply State.trimMark_keeps
    | with_reducible apply State.recordSkew_keeps
    | with_reducible apply State.markerSeen_keeps
    | with_reducible apply State.markerCheck_keeps
    | split
    | dsimp only

theorem State.trimSaturated_keeps {z : Frame} {s : State} (h : Keeps z s) :
    Keeps z (State.trimSaturated s) := by
  unfold State.trimSaturated
  repeat' first
    | with_reducible assumption
    | with_reducible apply State.err_keeps
    | with_reducible apply State.setBelfry_keeps
    | with_reducible apply tickOk_eta
    | split

theorem State.rememberFlood_keeps {z : Frame} {s : State} (h : Keeps z s) (opcode key : Nat) :
    Keeps z (State.rememberFlood s opcode key) := by
  unfold State.rememberFlood
  repeat' first
    | with_reducible assumption
    | with_reducible apply State.setBelfry_keeps
    | with_reducible apply tickOk_eta

theorem State.markSkip_keeps {z : Frame} {s : State} (h : Keeps z s) (src : Option Nat) (target origin reason : Nat) :
    Keeps z (State.markSkip s src target origin reason) := by
  unfold State.markSkip
  repeat' first
    | with_reducible assumption
    | with_reducible apply State.rememberFlood_keeps
    | with_reducible apply State.flood_keeps
    | with_reducible apply State.setBelfry_keeps
    | with_reducible apply tickOk_eta

theorem State.skipNotice_keeps {z : Frame} {s : State} (h : Keeps z s) (d target origin reason : Nat) :
    Keeps z (State.skipNotice s d target origin reason) := by
  unfold State.skipNotice
  repeat' first
    | with_reducible assumption
    | with_reducible apply State.markSkip_keeps
    | with_reducible apply State.err_keeps
    | with_reducible apply State.overrun_keeps
    | split
    | dsimp only

theorem State.issueSkip_keeps {z : Frame} {s : State} (h : Keeps z s) (reason : Nat) :
    Keeps z (State.issueSkip s reason) := by
  unfold State.issueSkip
  repeat' first
    | with_reducible assumption
    | with_reducible apply State.markSkip_keeps
    | split
    | dsimp only

theorem State.oculus_keeps {z : Frame} {s : State} (h : Keeps z s) (t : List Nat) (power : Nat) (cup : List Nat) :
    Keeps z (State.oculus s t power cup) := by
  unfold State.oculus
  repeat' first
    | with_reducible assumption
    | with_reducible apply State.put_keeps
    | with_reducible refine keeps_foldl (fun t x ht => ?_) ?_

theorem State.throttleEval_keeps {z : Frame} {s : State} (h : Keeps z s) (raw : List Int) (power : Nat) (cup : List Nat)
    :
    Keeps z (State.throttleEval s raw power cup) := by
  unfold State.throttleEval
  repeat' first
    | with_reducible assumption
    | with_reducible apply State.oculus_keeps
    | with_reducible apply State.wrb_keeps
    | with_reducible apply State.wr_keeps
    | with_reducible apply State.setBelfry_keeps
    | with_reducible apply tickOk_eta
    | split
    | dsimp only

theorem State.throttleIssue_keeps {z : Frame} {s : State} (h : Keeps z s) :
    Keeps z (State.throttleIssue s) := by
  unfold State.throttleIssue
  repeat' first
    | with_reducible assumption
    | with_reducible apply State.issueSkip_keeps
    | with_reducible apply State.setBelfry_keeps
    | with_reducible apply tickOk_eta
    | split

theorem State.writeThrCtl_keeps {z : Frame} {s : State} (h : Keeps z s) (v : Nat) :
    Keeps z (State.writeThrCtl s v) := by
  unfold State.writeThrCtl
  repeat' first
    | with_reducible assumption
    | with_reducible apply State.setBelfry_keeps
    | with_reducible apply State.swField_keeps
    | with_reducible apply State.wr_keeps
    | with_reducible apply tickOk_eta
    | split
    | dsimp only

end Sys2Proof.Machine
end

