-- ==== Sys2Proof/Laws/KeepsPool.lean ====
section
/-! SUPPORT. What the operations of Pool.lean keep (Keeps). -/

namespace Sys2Proof.Machine

open Sys2Proof

theorem State.setDom_keeps {z : Frame} {s : State} (h : Keeps z s) (d v : Nat) :
    Keeps z (State.setDom s d v) := by
  unfold State.setDom
  repeat' first
    | with_reducible assumption
    | split
    | dsimp only
    | with_reducible apply keepsOf_eta
    | with_reducible apply keeps_mk

theorem State.wakeDom_keeps {z : Frame} {s : State} (h : Keeps z s) (d : Nat) :
    Keeps z (State.wakeDom s d) := by
  unfold State.wakeDom
  repeat' first
    | with_reducible assumption
    | with_reducible apply State.setDom_keeps
    | split
    | dsimp only
    | with_reducible apply keepsOf_eta
    | with_reducible apply keeps_mk

theorem State.headerDiscard_keeps {z : Frame} {s : State} (h : Keeps z s) (k : Nat) :
    Keeps z (State.headerDiscard s k) := by
  unfold State.headerDiscard
  repeat' first
    | with_reducible assumption
    | with_reducible apply State.err_keeps
    | with_reducible apply State.bump_keeps
    | split
    | dsimp only

theorem State.bufferUe_keeps {z : Frame} {s : State} (h : Keeps z s) (addr : Bool) (bank line : Nat) :
    Keeps z (State.bufferUe s addr bank line) := by
  unfold State.bufferUe
  repeat' first
    | with_reducible assumption
    | with_reducible apply State.err_keeps
    | with_reducible apply State.bump_keeps
    | with_reducible apply State.ueRecord_keeps
    | split
    | dsimp only

theorem State.setFlitErrs_keeps {z : Frame} {s : State} (h : Keeps z s) (l : List FlitErr) :
    Keeps z (State.setFlitErrs s l) := by
  unfold State.setFlitErrs
  repeat' first
    | with_reducible assumption
    | with_reducible apply State.setArrays_keeps
    | split
    | dsimp only

theorem State.flitUe_keeps {z : Frame} {s : State} (h : Keeps z s) (e : FlitErr) (addr : Bool) :
    Keeps z (State.flitUe s e addr) := by
  unfold State.flitUe
  repeat' first
    | with_reducible assumption
    | with_reducible apply State.bufferUe_keeps
    | with_reducible apply State.draw_keeps
    | split
    | dsimp only

theorem State.flitLine_keeps {z : Frame} {s : State} (h : Keeps z s) (e : FlitErr) :
    Keeps z (State.flitLine s e) := by
  unfold State.flitLine
  repeat' first
    | with_reducible assumption
    | with_reducible apply State.flitUe_keeps
    | with_reducible apply State.setFlitErrs_keeps
    | with_reducible apply State.bump_keeps
    | split
    | dsimp only

theorem State.patrolUe_keeps {z : Frame} {s : State} (h : Keeps z s) (e : FlitErr) (addr : Bool) (line : Nat) :
    Keeps z (State.patrolUe s e addr line) := by
  unfold State.patrolUe
  repeat' first
    | with_reducible assumption
    | with_reducible apply State.setFlitErrs_keeps
    | with_reducible apply State.bufferUe_keeps
    | with_reducible apply State.bump_keeps
    | split
    | dsimp only

theorem State.patrolBuffer_keeps {z : Frame} {s : State} (h : Keeps z s) (line : Nat) :
    Keeps z (State.patrolBuffer s line) := by
  unfold State.patrolBuffer
  repeat' first
    | with_reducible assumption
    | with_reducible apply State.patrolUe_keeps
    | with_reducible apply State.setFlitErrs_keeps
    | with_reducible apply State.bump_keeps
    | with_reducible apply State.draw_keeps
    | split
    | dsimp only

theorem State.flitRead_keeps {z : Frame} {s : State} (h : Keeps z s) (p : FlitAt) (f : Flit) :
    Keeps z (State.flitRead s p f).2 := by
  unfold State.flitRead
  repeat' first
    | with_reducible assumption
    | with_reducible apply State.flitLine_keeps
    | with_reducible refine keeps_foldl (fun t x ht => ?_) ?_
    | split
    | dsimp only

theorem State.flitRead_next_keeps {z : Frame} {s t : State} {p : FlitAt} {f : Flit} {o : Option Flit} (h : Keeps z s)
    (e : State.flitRead s p f = (o, t)) : Keeps z t := by
  have := State.flitRead_keeps h p f
  rwa [e] at this

theorem State.setOpn_keeps {z : Frame} {s : State} (h : Keeps z s) (o : OpenPlane) :
    Keeps z (State.setOpn s o) := by
  unfold State.setOpn
  repeat' first
    | with_reducible assumption
    | dsimp only
    | with_reducible apply keepsOf_eta
    | with_reducible apply keeps_mk

theorem State.setQueue_keeps {z : Frame} {s : State} (h : Keeps z s) (k o vc : Nat) (q : EgressQ) :
    Keeps z (State.setQueue s k o vc q) := by
  unfold State.setQueue
  repeat' first
    | with_reducible assumption
    | with_reducible apply State.setOpn_keeps

theorem State.wakeBank_keeps {z : Frame} {s : State} (h : Keeps z s) (k : Nat) :
    Keeps z (State.wakeBank s k) := by
  unfold State.wakeBank
  repeat' first
    | with_reducible assumption
    | with_reducible apply State.wakeDom_keeps
    | split
    | dsimp only

theorem State.returnCredit_keeps {z : Frame} {s : State} (h : Keeps z s) (l vc n : Nat) :
    Keeps z (State.returnCredit s l vc n) := by
  unfold State.returnCredit
  repeat' first
    | with_reducible assumption
    | with_reducible apply State.sendIdle_keeps
    | with_reducible apply State.setLink_keeps
    | split
    | dsimp only

theorem State.fwdPoison_keeps {z : Frame} {s : State} (h : Keeps z s) (k : Nat) :
    Keeps z (State.fwdPoison s k) := by
  unfold State.fwdPoison
  repeat' first
    | with_reducible assumption
    | with_reducible apply State.err_keeps
    | with_reducible apply State.bump_keeps
    | split
    | dsimp only

theorem State.countLeft_keeps {z : Frame} {s : State} (h : Keeps z s) (k : Nat) (f : Flit) :
    Keeps z (State.countLeft s k f) := by
  unfold State.countLeft
  repeat' first
    | with_reducible assumption
    | with_reducible apply State.fwdPoison_keeps
    | split
    | dsimp only

theorem State.bufferIn_keeps {z : Frame} {s : State} (h : Keeps z s) (l : Nat) (f : Flit) :
    Keeps z (State.bufferIn s l f) := by
  unfold State.bufferIn
  repeat' first
    | with_reducible assumption
    | with_reducible apply State.fwdPoison_keeps
    | with_reducible apply State.wakeBank_keeps
    | with_reducible apply State.setOpn_keeps
    | split
    | dsimp only

theorem State.endInput_keeps {z : Frame} {s : State} (h : Keeps z s) (l vc : Nat) :
    Keeps z (State.endInput s l vc) := by
  unfold State.endInput
  repeat' first
    | with_reducible assumption
    | with_reducible apply State.fwdPoison_keeps
    | with_reducible apply State.setOpn_keeps
    | split
    | dsimp only

end Sys2Proof.Machine
end

