-- ==== Sys2Proof/Laws/KeepsSched.lean ====
section
/-! SUPPORT. What the operations of Sched.lean keep (Keeps). -/

namespace Sys2Proof.Machine

open Sys2Proof

theorem State.setBankState_keeps {z : Frame} {s : State} (h : Keeps z s) (b v : Nat) :
    Keeps z (State.setBankState s b v) := by
  unfold State.setBankState
  repeat' first
    | with_reducible assumption
    | with_reducible apply State.wr_keeps

theorem State.setBank_keeps {z : Frame} {s : State} (h : Keeps z s) (b : Nat) (x : Option Bank) :
    Keeps z (State.setBank s b x) := by
  unfold State.setBank
  repeat' first
    | with_reducible assumption
    | split
    | dsimp only
    | with_reducible apply keepsOf_eta
    | with_reducible apply keeps_mk

theorem State.setSched_keeps {z : Frame} {s : State} (h : Keeps z s) (x : Sched) :
    Keeps z (State.setSched s x) := by
  unfold State.setSched
  repeat' first
    | with_reducible assumption
    | dsimp only
    | with_reducible apply keepsOf_eta
    | with_reducible apply keeps_mk

theorem State.discardSkew_keeps {z : Frame} {s : State} (h : Keeps z s) (l : Nat) :
    Keeps z (State.discardSkew s l) := by
  unfold State.discardSkew
  repeat' first
    | with_reducible assumption
    | with_reducible apply State.err_keeps
    | with_reducible apply State.bump_keeps
    | split
    | dsimp only

theorem State.discardStray_keeps {z : Frame} {s : State} (h : Keeps z s) (l : Nat) :
    Keeps z (State.discardStray s l) := by
  unfold State.discardStray
  repeat' first
    | with_reducible assumption
    | with_reducible apply State.err_keeps
    | with_reducible apply State.bump_keeps

theorem State.landFlit_keeps {z : Frame} {s : State} (h : Keeps z s) (l stamp : Nat) (f : Flit) :
    Keeps z (State.landFlit s l stamp f) := by
  unfold State.landFlit
  repeat' first
    | with_reducible assumption
    | with_reducible apply State.discardStray_keeps
    | with_reducible apply State.setSched_keeps
    | split
    | dsimp only

theorem State.schedCheck_keeps {z : Frame} {s : State} (h : Keeps z s) (p : PlanTick) (l stamp : Nat) (f : Flit) :
    Keeps z (State.schedCheck s p l stamp f) := by
  unfold State.schedCheck
  repeat' first
    | with_reducible assumption
    | with_reducible apply State.landFlit_keeps
    | with_reducible apply State.discardStray_keeps
    | split

theorem State.schedFlit_keeps {z : Frame} {s : State} (h : Keeps z s) (l : Nat) (f : Flit) :
    Keeps z (State.schedFlit s l f) := by
  unfold State.schedFlit
  repeat' first
    | with_reducible assumption
    | with_reducible apply State.schedCheck_keeps
    | with_reducible apply State.discardStray_keeps
    | with_reducible apply State.discardSkew_keeps
    | with_reducible apply State.setSched_keeps
    | with_reducible apply State.bump_keeps
    | split
    | dsimp only

theorem State.recheckEarly_keeps {z : Frame} {s : State} (h : Keeps z s) :
    Keeps z (State.recheckEarly s) := by
  unfold State.recheckEarly
  repeat' first
    | with_reducible assumption
    | with_reducible apply State.schedCheck_keeps
    | with_reducible apply State.setSched_keeps
    | with_reducible refine keeps_foldl (fun t x ht => ?_) ?_

theorem State.sendChunk_keeps {z : Frame} (m : List Byte) (p : PlanTick) :
    ∀ (n : Nat) {s : State} (_ : Keeps z s) (inp sid j : Nat) (c : Chunk), Keeps z (State.sendChunk m p n s inp sid j c)
  | 0, _, h, _, _, _, _ => h
  | n + 1, s, h, inp, sid, j, c => by
    unfold State.sendChunk
    dsimp only
    refine keeps_foldl (fun t x ht => ?_) h
    split
    · exact ht
    · split
      · split
        · exact State.sendFlit_keeps ht _ _
        · exact ht
      · split
        · exact ht
        · exact State.sendChunk_keeps m p n ht x sid j c

theorem State.takeChunk_keeps {z : Frame} {s : State} (h : Keeps z s) (m : List Byte) (inp sid j : Nat) (c : Chunk) :
    Keeps z (State.takeChunk s m inp sid j c) := by
  unfold State.takeChunk
  repeat' first
    | with_reducible assumption
    | with_reducible apply State.sendChunk_keeps
    | with_reducible apply State.setSched_keeps
    | with_reducible apply State.put_keeps
    | split

theorem State.sendStaged_keeps {z : Frame} {s : State} (h : Keeps z s) :
    Keeps z (State.sendStaged s) := by
  unfold State.sendStaged
  repeat' first
    | with_reducible assumption
    | with_reducible apply State.sendChunk_keeps
    | with_reducible apply State.setSched_keeps
    | with_reducible refine keeps_foldl (fun t x ht => ?_) ?_
    | split

theorem State.missChunk_keeps {z : Frame} {s : State} (h : Keeps z s) (m : List Byte) (l sid j o : Nat) :
    Keeps z (State.missChunk s m l sid j o) := by
  unfold State.missChunk
  repeat' first
    | with_reducible assumption
    | with_reducible apply State.setSched_keeps
    | with_reducible apply State.overrun_keeps
    | split
    | dsimp only

theorem State.consumeAt_keeps {z : Frame} {s : State} (h : Keeps z s) (m : List Byte) (l sid j o : Nat) :
    Keeps z (State.consumeAt s m l sid j o) := by
  unfold State.consumeAt
  repeat' first
    | with_reducible assumption
    | with_reducible apply State.missChunk_keeps
    | with_reducible apply State.takeChunk_keeps
    | with_reducible apply State.setSched_keeps
    | with_reducible refine State.flitRead_next_keeps ?_ (by assumption)
    | split
    | dsimp only

theorem State.consume_keeps {z : Frame} {s : State} (h : Keeps z s) (l sid o : Nat) :
    Keeps z (State.consume s l sid o) := by
  unfold State.consume
  repeat' first
    | with_reducible assumption
    | with_reducible apply State.consumeAt_keeps
    | split

theorem State.slackOverruns_keeps {z : Frame} {s : State} (h : Keeps z s) :
    Keeps z (State.slackOverruns s) := by
  unfold State.slackOverruns
  repeat' first
    | with_reducible assumption
    | with_reducible apply State.setBelfry_keeps
    | with_reducible apply tickOk_eta
    | split
    | dsimp only

end Sys2Proof.Machine
end

