-- ==== Sys2Proof/Laws/KeepsTranslate.lean ====
section
/-! SUPPORT. What the operations of Translate.lean keep (Keeps). -/

namespace Sys2Proof.Machine

open Sys2Proof

theorem State.fstCommit_keeps {z : Frame} {s : State} (h : Keeps z s) :
    Keeps z (State.fstCommit s) := by
  unfold State.fstCommit
  repeat' first
    | with_reducible assumption
    | with_reducible apply State.wrs_keeps
    | with_reducible apply State.again_keeps
    | split
    | dsimp only
    | with_reducible apply keepsOf_eta
    | with_reducible apply keeps_mk

theorem State.fstRead_keeps {z : Frame} {s : State} (h : Keeps z s) :
    Keeps z (State.fstRead s) := by
  unfold State.fstRead
  repeat' first
    | with_reducible assumption
    | with_reducible apply State.put_keeps
    | with_reducible refine keeps_foldl (fun t x ht => ?_) ?_

end Sys2Proof.Machine
end

