-- ==== Sys2Proof/Laws/KeepsPlanUnit.lean ====
section
/-! SUPPORT. What the operations of PlanUnit.lean keep (Keeps). -/

namespace Sys2Proof.Machine

open Sys2Proof

theorem State.dmaRead_keeps {z : Frame} {s : State} (h : Keeps z s) (p : PageId) (ueReg : Reg) (ueBit loc n : Nat) :
    Keeps z (State.dmaRead s p ueReg ueBit loc n) := by
  unfold State.dmaRead
  repeat' first
    | with_reducible assumption
    | with_reducible apply State.touch_keeps
    | with_reducible apply State.err_keeps
    | with_reducible apply State.bump_keeps
    | split
    | dsimp only

theorem State.dmaElems_keeps {z : Frame} {s : State} (h : Keeps z s) (p : PageId) (ueReg : Reg) (ueBit loc f : Nat) (mx : Bool) (e i n : Nat) :
    Keeps z (State.dmaElems s p ueReg ueBit loc f mx e i n) := by
  unfold State.dmaElems
  repeat' first
    | with_reducible assumption
    | with_reducible apply State.dmaRead_keeps
    | split

theorem State.planWrite_keeps {z : Frame} {s : State} (h : Keeps z s) (va off : Nat) (l : List Byte) :
    Keeps z (State.planWrite s va off l) := by
  unfold State.planWrite
  repeat' first
    | with_reducible assumption
    | with_reducible apply State.store_keeps
    | with_reducible apply State.bump_keeps
    | split

theorem State.planPoison_keeps {z : Frame} {s : State} (h : Keeps z s) (va off n : Nat) :
    Keeps z (State.planPoison s va off n).1 := by
  unfold State.planPoison
  repeat' first
    | with_reducible assumption
    | with_reducible apply State.poisonRange_keeps
    | split

theorem State.planElems_keeps {z : Frame} {s : State} (h : Keeps z s) (va off f i : Nat) (l : List (Nat × Bool)) :
    Keeps z (State.planElems s va off f i l).1 := by
  unfold State.planElems
  repeat' first
    | with_reducible assumption
    | with_reducible apply State.store_keeps
    | with_reducible apply State.poisonLine_keeps
    | with_reducible apply State.bump_keeps
    | with_reducible refine keeps_foldl (fun t x ht => ?_) ?_
    | split

theorem State.stage_keeps {z : Frame} {s : State} (h : Keeps z s) (sid : Nat) (l : List Chunk) :
    Keeps z (State.stage s sid l) := by
  unfold State.stage
  repeat' first
    | with_reducible assumption
    | with_reducible apply State.setSched_keeps

theorem State.setRun_keeps {z : Frame} {s : State} (h : Keeps z s) (r : Run) :
    Keeps z (State.setRun s r) := by
  unfold State.setRun
  repeat' first
    | with_reducible assumption
    | split
    | dsimp only
    | with_reducible apply keepsOf_eta
    | with_reducible apply keeps_mk

theorem State.finish_keeps {z : Frame} {s : State} (h : Keeps z s) (r : Run) :
    Keeps z (State.finish s r) := by
  unfold State.finish
  repeat' first
    | with_reducible assumption
    | with_reducible apply State.setRun_keeps

end Sys2Proof.Machine
end

