-- ==== Sys2Proof/Laws/KeepsCeExec.lean ====
section
/-! SUPPORT. What the operations of CeExec.lean keep (Keeps). -/

namespace Sys2Proof.Machine

open Sys2Proof

theorem foldFx_keeps {z : Frame} {α : Type} {f : State → α → State × Fx} (hf : ∀ t x, Keeps z t → Keeps z (f t x).1)
    {l : List α} {s : State} (h : Keeps z s) : Keeps z (foldFx f l s).1 := by
  unfold foldFx
  generalize Fx.none = fx
  induction l generalizing s fx with
  | nil => exact h
  | cons x l ih => exact ih (hf s x h) _

theorem State.countChunks_keeps {z : Frame} {s : State} (h : Keeps z s) (p : PageId) (reg : Reg) (l : List Chunk) :
    Keeps z (State.countChunks s p reg l) := by
  unfold State.countChunks
  repeat' first
    | with_reducible assumption
    | with_reducible apply State.bump_keeps
    | split
    | dsimp only

theorem State.ceSend_keeps {z : Frame} {s : State} (h : Keeps z s) (c : CeCtx) (sid : Nat) (l : List Chunk) :
    Keeps z (State.ceSend s c sid l) := by
  unfold State.ceSend
  repeat' first
    | with_reducible assumption
    | with_reducible apply State.countChunks_keeps
    | with_reducible apply State.stage_keeps

theorem State.cePoison_keeps {z : Frame} {s : State} (h : Keeps z s) (c : CeCtx) (bad : Bool) :
    Keeps z (State.cePoison s c bad) := by
  unfold State.cePoison
  repeat' first
    | with_reducible assumption
    | with_reducible apply State.err_keeps
    | split

theorem State.ceWrite_keeps {z : Frame} {s : State} (h : Keeps z s) (c : CeCtx) (va f total i : Nat) (x : Res) :
    Keeps z (State.ceWrite s c va f total i x) := by
  unfold State.ceWrite
  repeat' first
    | with_reducible assumption
    | with_reducible apply State.planElems_keeps
    | with_reducible apply State.bump_keeps
    | with_reducible apply State.planPoison_keeps
    | with_reducible apply State.planWrite_keeps
    | split
    | dsimp only

theorem State.ceDeliver_keeps {z : Frame} {s : State} (h : Keeps z s) (c : CeCtx) (m : Member) (total : Nat) (pieces : List (Nat × Res)) :
    Keeps z (State.ceDeliver s c m total pieces) := by
  unfold State.ceDeliver
  repeat' first
    | with_reducible assumption
    | with_reducible apply State.ceWrite_keeps
    | with_reducible apply State.ceSend_keeps
    | with_reducible refine keeps_foldl (fun t x ht => ?_) ?_
    | split
    | dsimp only

theorem State.ceRead_keeps {z : Frame} {s : State} (h : Keeps z s) (c : CeCtx) (loc n : Nat) :
    Keeps z (State.ceRead s c loc n) := by
  unfold State.ceRead
  repeat' first
    | with_reducible assumption
    | with_reducible apply State.cePoison_keeps
    | with_reducible apply State.dmaRead_keeps
    | split
    | dsimp only

theorem State.ceElems_keeps {z : Frame} {s : State} (h : Keeps z s) (c : CeCtx) (loc f : Nat) (mx : Bool) (e i n : Nat)
    :
    Keeps z (State.ceElems s c loc f mx e i n) := by
  unfold State.ceElems
  repeat' first
    | with_reducible assumption
    | with_reducible apply State.ceRead_keeps
    | split
    | dsimp only

theorem State.ceLeafRead_keeps {z : Frame} {s : State} (h : Keeps z s) (c : CeCtx) (m : Member) (loc : Nat) :
    Keeps z (State.ceLeafRead s c m loc) := by
  unfold State.ceLeafRead
  repeat' first
    | with_reducible assumption
    | with_reducible apply State.ceElems_keeps
    | with_reducible apply State.ceRead_keeps
    | with_reducible refine keeps_foldl (fun t x ht => ?_) ?_
    | with_reducible refine keeps_foldl_1 (fun t x ht => ?_) ?_
    | with_reducible refine keeps_foldl_2 (fun t x ht => ?_) ?_
    | with_reducible refine keeps_foldl_3 (fun t x ht => ?_) ?_
    | split
    | dsimp only

theorem State.ceReads_keeps {z : Frame} {s : State} (h : Keeps z s) (c : CeCtx) :
    Keeps z (State.ceReads s c) := by
  unfold State.ceReads
  repeat' first
    | with_reducible assumption
    | with_reducible apply State.ceLeafRead_keeps
    | with_reducible apply State.ceElems_keeps
    | with_reducible apply State.ceRead_keeps
    | with_reducible refine keeps_foldl (fun t x ht => ?_) ?_
    | with_reducible refine keeps_foldl_1 (fun t x ht => ?_) ?_
    | with_reducible refine keeps_foldl_2 (fun t x ht => ?_) ?_
    | with_reducible refine keeps_foldl_3 (fun t x ht => ?_) ?_
    | split
    | dsimp only

theorem State.ceCount_keeps {z : Frame} {s : State} (h : Keeps z s) (c : CeCtx) :
    Keeps z (State.ceCount s c) := by
  unfold State.ceCount
  repeat' first
    | with_reducible assumption
    | with_reducible apply State.bump_keeps
    | split
    | dsimp only

theorem State.ceTag_keeps {z : Frame} {s : State} (h : Keeps z s) (c : CeCtx) :
    Keeps z (State.ceTag s c) := by
  unfold State.ceTag
  repeat' first
    | with_reducible assumption
    | with_reducible apply State.store_keeps
    | with_reducible apply State.bump_keeps
    | with_reducible refine keeps_foldl (fun t x ht => ?_) ?_
    | split
    | dsimp only

theorem State.ceEnd_keeps {z : Frame} {s : State} (h : Keeps z s) (c : CeCtx) (fx : Fx) :
    Keeps z (State.ceEnd s c fx) := by
  unfold State.ceEnd
  repeat' first
    | with_reducible assumption
    | with_reducible apply State.ceTag_keeps
    | with_reducible apply State.ceCount_keeps
    | with_reducible apply State.cePoison_keeps
    | with_reducible apply State.setRun_keeps
    | with_reducible apply State.arith_keeps
    | split
    | dsimp only

theorem State.ceDown_keeps {z : Frame} {s : State} (h : Keeps z s) (c : CeCtx) (grp rho : Nat) (r : Res) :
    Keeps z (State.ceDown s c grp rho r) := by
  unfold State.ceDown
  repeat' first
    | with_reducible assumption
    | with_reducible apply State.ceSend_keeps
    | with_reducible refine keeps_foldl (fun t x ht => ?_) ?_

theorem State.groupStep_keeps {z : Frame} {s : State} (h : Keeps z s) (c : CeCtx) (grp : Nat) (downs : List DownIn) (l :
    List (Nat × TreeOut)) :
    Keeps z (State.groupStep s c grp downs l) := by
  unfold State.groupStep
  repeat' first
    | with_reducible assumption
    | with_reducible apply State.ceDown_keeps
    | with_reducible apply State.ceDeliver_keeps
    | with_reducible apply State.cePoison_keeps
    | with_reducible apply State.ceSend_keeps
    | with_reducible refine keeps_foldl (fun t x ht => ?_) ?_
    | with_reducible refine keeps_foldl_1 (fun t x ht => ?_) ?_
    | with_reducible refine keeps_foldl_2 (fun t x ht => ?_) ?_
    | with_reducible refine keeps_foldl_3 (fun t x ht => ?_) ?_
    | split
    | dsimp only

theorem State.ceTree_keeps {z : Frame} {s : State} (h : Keeps z s) (c : CeCtx) :
    Keeps z (State.ceTree s c) := by
  unfold State.ceTree
  repeat' first
    | with_reducible assumption
    | with_reducible apply State.groupStep_keeps
    | with_reducible apply State.ceEnd_keeps
    | with_reducible apply State.ceReads_keeps
    | with_reducible refine keeps_foldl (fun t x ht => ?_) ?_
    | with_reducible refine keeps_foldl_1 (fun t x ht => ?_) ?_
    | with_reducible refine keeps_foldl_2 (fun t x ht => ?_) ?_
    | with_reducible refine keeps_foldl_3 (fun t x ht => ?_) ?_
    | split
    | dsimp only

theorem State.ceRecs_keeps {z : Frame} {s : State} (h : Keeps z s) (c : CeCtx) (m : Member) (l : List Rec) :
    Keeps z (State.ceRecs s c m l) := by
  unfold State.ceRecs
  repeat' first
    | with_reducible assumption
    | with_reducible apply State.ceSend_keeps
    | with_reducible apply State.planWrite_keeps
    | with_reducible apply State.poisonLine_keeps
    | with_reducible apply State.bump_keeps
    | with_reducible refine keeps_foldl (fun t x ht => ?_) ?_
    | split
    | dsimp only

theorem State.mergeDeliver_keeps {z : Frame} {s : State} (h : Keeps z s) (c : CeCtx) (grp : Nat) (l : List Rec) :
    Keeps z (State.mergeDeliver s c grp l) := by
  unfold State.mergeDeliver
  repeat' first
    | with_reducible assumption
    | with_reducible apply State.ceRecs_keeps
    | with_reducible apply State.ceSend_keeps
    | with_reducible refine keeps_foldl (fun t x ht => ?_) ?_
    | with_reducible refine keeps_foldl_1 (fun t x ht => ?_) ?_
    | with_reducible refine keeps_foldl_2 (fun t x ht => ?_) ?_
    | with_reducible refine keeps_foldl_3 (fun t x ht => ?_) ?_
    | split
    | dsimp only

theorem State.mergeGroup_keeps {z : Frame} {s : State} (h : Keeps z s) (c : CeCtx) (grp : Nat) (outs : List (Nat × List
    Rec × Nat × Bool)) :
    Keeps z (State.mergeGroup s c grp outs) := by
  unfold State.mergeGroup
  repeat' first
    | with_reducible assumption
    | with_reducible apply State.mergeDeliver_keeps
    | with_reducible apply State.cePoison_keeps
    | with_reducible apply State.ceSend_keeps
    | with_reducible apply State.err_keeps
    | with_reducible apply State.bump_keeps
    | with_reducible refine keeps_foldl (fun t x ht => ?_) ?_
    | with_reducible refine keeps_foldl_1 (fun t x ht => ?_) ?_
    | with_reducible refine keeps_foldl_2 (fun t x ht => ?_) ?_
    | with_reducible refine keeps_foldl_3 (fun t x ht => ?_) ?_
    | split
    | dsimp only

theorem State.mergeDowns_keeps {z : Frame} {s : State} (h : Keeps z s) (c : CeCtx) (downs : List DownIn) :
    Keeps z (State.mergeDowns s c downs) := by
  unfold State.mergeDowns
  repeat' first
    | with_reducible assumption
    | with_reducible apply State.mergeDeliver_keeps
    | with_reducible apply State.cePoison_keeps
    | with_reducible refine keeps_foldl (fun t x ht => ?_) ?_
    | split
    | dsimp only

theorem State.ceMerge_keeps {z : Frame} {s : State} (h : Keeps z s) (c0 : CeCtx) :
    Keeps z (State.ceMerge s c0) := by
  unfold State.ceMerge
  repeat' first
    | with_reducible assumption
    | with_reducible apply State.mergeDowns_keeps
    | with_reducible apply State.mergeGroup_keeps
    | with_reducible apply State.ceEnd_keeps
    | with_reducible apply State.ceReads_keeps
    | with_reducible refine keeps_foldl (fun t x ht => ?_) ?_
    | with_reducible refine keeps_foldl_1 (fun t x ht => ?_) ?_
    | with_reducible refine keeps_foldl_2 (fun t x ht => ?_) ?_
    | with_reducible refine keeps_foldl_3 (fun t x ht => ?_) ?_
    | split
    | dsimp only

theorem State.scanMember_keeps {z : Frame} {s : State} (h : Keeps z s) (c : CeCtx) (m : Member) :
    Keeps z (State.scanMember s c m).1 := by
  unfold State.scanMember
  repeat' first
    | with_reducible assumption
    | with_reducible apply State.ceDeliver_keeps
    | with_reducible apply State.cePoison_keeps
    | split
    | dsimp only

theorem State.scanUp_keeps {z : Frame} {t : State} (h : Keeps z t) (s : State) (c : CeCtx) (x : Need × Bind) : Keeps z (State.scanUp s t c x).1 := by
  unfold State.scanUp
  repeat' first
    | with_reducible assumption
    | with_reducible apply State.cePoison_keeps
    | with_reducible apply State.ceSend_keeps
    | split
    | dsimp only

theorem State.ceScan_keeps {z : Frame} {s : State} (h : Keeps z s) (c : CeCtx) :
    Keeps z (State.ceScan s c) := by
  unfold State.ceScan
  repeat' first
    | with_reducible assumption
    | with_reducible apply State.scanUp_keeps
    | with_reducible apply State.scanMember_keeps
    | with_reducible apply State.ceEnd_keeps
    | with_reducible apply foldFx_keeps
    | with_reducible apply State.ceReads_keeps
    | with_reducible refine foldFx_keeps (fun t x ht => ?_) ?_
    | intro _
    | split
    | dsimp only

theorem State.ceRows_keeps {z : Frame} {s : State} (h : Keeps z s) (c : CeCtx) (m : Member) (k : Nat) (l : List (List
    Byte × Bool)) :
    Keeps z (State.ceRows s c m k l) := by
  unfold State.ceRows
  repeat' first
    | with_reducible assumption
    | with_reducible apply State.ceSend_keeps
    | with_reducible apply State.bump_keeps
    | with_reducible apply State.planPoison_keeps
    | with_reducible apply State.planWrite_keeps
    | with_reducible refine keeps_foldl (fun t x ht => ?_) ?_
    | with_reducible refine keeps_foldl_1 (fun t x ht => ?_) ?_
    | with_reducible refine keeps_foldl_2 (fun t x ht => ?_) ?_
    | with_reducible refine keeps_foldl_3 (fun t x ht => ?_) ?_
    | split
    | dsimp only

theorem State.attnDeliver_keeps {z : Frame} {s : State} (h : Keeps z s) (c : CeCtx) (grp k : Nat) (l : List (List Byte ×
    Bool)) :
    Keeps z (State.attnDeliver s c grp k l) := by
  unfold State.attnDeliver
  repeat' first
    | with_reducible assumption
    | with_reducible apply State.ceRows_keeps
    | with_reducible apply State.ceSend_keeps
    | with_reducible refine keeps_foldl (fun t x ht => ?_) ?_
    | with_reducible refine keeps_foldl_1 (fun t x ht => ?_) ?_
    | with_reducible refine keeps_foldl_2 (fun t x ht => ?_) ?_
    | with_reducible refine keeps_foldl_3 (fun t x ht => ?_) ?_
    | split
    | dsimp only

theorem State.attnDown_keeps {z : Frame} {s : State} (h : Keeps z s) (c : CeCtx) (x : DownIn) :
    Keeps z (State.attnDown s c x) := by
  unfold State.attnDown
  repeat' first
    | with_reducible assumption
    | with_reducible apply State.attnDeliver_keeps
    | with_reducible apply State.cePoison_keeps
    | split
    | dsimp only

theorem State.attnGroup_keeps {z : Frame} {s : State} (h : Keeps z s) (c : CeCtx) (grp : Nat) (outs : List (Nat × List
    Row × Fx)) :
    Keeps z (State.attnGroup s c grp outs).1 := by
  unfold State.attnGroup
  repeat' first
    | with_reducible assumption
    | with_reducible apply State.attnDeliver_keeps
    | with_reducible apply State.ceRows_keeps
    | with_reducible apply State.cePoison_keeps
    | with_reducible apply State.ceSend_keeps
    | with_reducible refine keeps_foldl (fun t x ht => ?_) ?_
    | with_reducible refine keeps_foldl_1 (fun t x ht => ?_) ?_
    | with_reducible refine keeps_foldl_2 (fun t x ht => ?_) ?_
    | with_reducible refine keeps_foldl_3 (fun t x ht => ?_) ?_
    | split
    | dsimp only

theorem State.ceAttn_keeps {z : Frame} {s : State} (h : Keeps z s) (c : CeCtx) :
    Keeps z (State.ceAttn s c) := by
  unfold State.ceAttn
  repeat' first
    | with_reducible assumption
    | with_reducible apply State.attnGroup_keeps
    | with_reducible apply State.attnDown_keeps
    | with_reducible apply State.ceEnd_keeps
    | with_reducible apply foldFx_keeps
    | with_reducible apply State.ceReads_keeps
    | with_reducible refine foldFx_keeps (fun t x ht => ?_) ?_
    | with_reducible refine keeps_foldl (fun t x ht => ?_) ?_
    | with_reducible refine keeps_foldl_1 (fun t x ht => ?_) ?_
    | with_reducible refine keeps_foldl_2 (fun t x ht => ?_) ?_
    | with_reducible refine keeps_foldl_3 (fun t x ht => ?_) ?_
    | intro _
    | split
    | dsimp only

theorem State.ceBound_keeps {z : Frame} {s : State} (h : Keeps z s) (c : CeCtx) (rank pos val : Nat) :
    Keeps z (State.ceBound s c rank pos val) := by
  unfold State.ceBound
  repeat' first
    | with_reducible assumption
    | with_reducible apply State.err_keeps
    | with_reducible apply State.wrs_keeps
    | with_reducible apply State.bump_keeps
    | with_reducible apply State.again_keeps
    | split
    | dsimp only

theorem State.indexFaults_keeps {z : Frame} {s : State} (h : Keeps z s) (c : CeCtx) (m : Member) (n : Nat) (lo hi : Int)
    :
    Keeps z (State.indexFaults s c m n lo hi) := by
  unfold State.indexFaults
  repeat' first
    | with_reducible assumption
    | with_reducible apply State.ceBound_keeps
    | with_reducible refine keeps_foldl (fun t x ht => ?_) ?_
    | with_reducible refine keeps_foldl_1 (fun t x ht => ?_) ?_
    | with_reducible refine keeps_foldl_2 (fun t x ht => ?_) ?_
    | with_reducible refine keeps_foldl_3 (fun t x ht => ?_) ?_
    | split
    | dsimp only

theorem State.capDrops_keeps {z : Frame} {s : State} (h : Keeps z s) (c : CeCtx) (m : Member) :
    Keeps z (State.capDrops s c m) := by
  unfold State.capDrops
  repeat' first
    | with_reducible assumption
    | with_reducible apply State.bump_keeps
    | split
    | dsimp only

theorem State.allToAllDst_keeps {z : Frame} {s : State} (h : Keeps z s) (c : CeCtx) (m : Member) :
    Keeps z (State.allToAllDst s c m).1 := by
  unfold State.allToAllDst
  repeat' first
    | with_reducible assumption
    | with_reducible apply State.ceDeliver_keeps
    | with_reducible apply State.cePoison_keeps
    | with_reducible apply State.bump_keeps
    | with_reducible apply State.planPoison_keeps
    | with_reducible apply State.planWrite_keeps
    | split
    | dsimp only

theorem State.ceAllToAll_keeps {z : Frame} {s : State} (h : Keeps z s) (c0 : CeCtx) :
    Keeps z (State.ceAllToAll s c0) := by
  unfold State.ceAllToAll
  repeat' first
    | with_reducible assumption
    | with_reducible apply State.allToAllDst_keeps
    | with_reducible apply State.capDrops_keeps
    | with_reducible apply State.indexFaults_keeps
    | with_reducible apply State.ceEnd_keeps
    | with_reducible apply foldFx_keeps
    | with_reducible apply State.ceReads_keeps
    | with_reducible refine foldFx_keeps (fun t x ht => ?_) ?_
    | with_reducible refine keeps_foldl (fun t x ht => ?_) ?_
    | with_reducible refine keeps_foldl_1 (fun t x ht => ?_) ?_
    | with_reducible refine keeps_foldl_2 (fun t x ht => ?_) ?_
    | with_reducible refine keeps_foldl_3 (fun t x ht => ?_) ?_
    | intro _
    | split
    | dsimp only

theorem State.gatherMember_keeps {z : Frame} {s : State} (h : Keeps z s) (c : CeCtx) (m : Member) :
    Keeps z (State.gatherMember s c m).1 := by
  unfold State.gatherMember
  repeat' first
    | with_reducible assumption
    | with_reducible apply State.ceDeliver_keeps
    | with_reducible apply State.cePoison_keeps
    | split
    | dsimp only

theorem State.ceGatherIdx_keeps {z : Frame} {s : State} (h : Keeps z s) (c0 : CeCtx) :
    Keeps z (State.ceGatherIdx s c0) := by
  unfold State.ceGatherIdx
  repeat' first
    | with_reducible assumption
    | with_reducible apply State.gatherMember_keeps
    | with_reducible apply State.indexFaults_keeps
    | with_reducible apply State.ceEnd_keeps
    | with_reducible apply foldFx_keeps
    | with_reducible apply State.ceReads_keeps
    | with_reducible refine foldFx_keeps (fun t x ht => ?_) ?_
    | with_reducible refine keeps_foldl (fun t x ht => ?_) ?_
    | with_reducible refine keeps_foldl_1 (fun t x ht => ?_) ?_
    | with_reducible refine keeps_foldl_2 (fun t x ht => ?_) ?_
    | with_reducible refine keeps_foldl_3 (fun t x ht => ?_) ?_
    | intro _
    | split
    | dsimp only

theorem State.scatterMember_keeps {z : Frame} {s : State} (h : Keeps z s) (c : CeCtx) (m : Member) :
    Keeps z (State.scatterMember s c m).1 := by
  unfold State.scatterMember
  repeat' first
    | with_reducible assumption
    | with_reducible apply foldFx_keeps
    | with_reducible apply State.ceWrite_keeps
    | with_reducible apply State.cePoison_keeps
    | with_reducible refine foldFx_keeps (fun t x ht => ?_) ?_
    | with_reducible refine keeps_foldl (fun t x ht => ?_) ?_
    | with_reducible refine keeps_foldl_1 (fun t x ht => ?_) ?_
    | with_reducible refine keeps_foldl_2 (fun t x ht => ?_) ?_
    | with_reducible refine keeps_foldl_3 (fun t x ht => ?_) ?_
    | intro _
    | split
    | dsimp only

theorem State.ceScatterIdx_keeps {z : Frame} {s : State} (h : Keeps z s) (c0 : CeCtx) :
    Keeps z (State.ceScatterIdx s c0) := by
  unfold State.ceScatterIdx
  repeat' first
    | with_reducible assumption
    | with_reducible apply State.scatterMember_keeps
    | with_reducible apply State.indexFaults_keeps
    | with_reducible apply State.ceEnd_keeps
    | with_reducible apply foldFx_keeps
    | with_reducible apply State.ceReads_keeps
    | with_reducible refine foldFx_keeps (fun t x ht => ?_) ?_
    | with_reducible refine keeps_foldl (fun t x ht => ?_) ?_
    | with_reducible refine keeps_foldl_1 (fun t x ht => ?_) ?_
    | with_reducible refine keeps_foldl_2 (fun t x ht => ?_) ?_
    | with_reducible refine keeps_foldl_3 (fun t x ht => ?_) ?_
    | intro _
    | split
    | dsimp only

theorem State.tailStep_keeps {z : Frame} {s : State} (h : Keeps z s) (r : Run) :
    Keeps z (State.tailStep s r) := by
  unfold State.tailStep
  repeat' first
    | with_reducible assumption
    | with_reducible apply State.attnDown_keeps
    | with_reducible apply State.mergeDowns_keeps
    | with_reducible apply State.groupStep_keeps
    | with_reducible refine keeps_foldl (fun t x ht => ?_) ?_
    | split
    | dsimp only
    | with_reducible apply keepsOf_eta
    | with_reducible apply keeps_mk

theorem State.tails_keeps {z : Frame} {s : State} (h : Keeps z s) :
    Keeps z (State.tails s) := by
  unfold State.tails
  repeat' first
    | with_reducible assumption
    | with_reducible apply State.tailStep_keeps
    | with_reducible refine keeps_foldl (fun t x ht => ?_) ?_
    | split
    | dsimp only

theorem State.ceRun_keeps {z : Frame} {s : State} (h : Keeps z s) (ce slot op : Nat) (f : CeCtx → State)
    (hf : ∀ c, Keeps z (f c)) : Keeps z (State.ceRun s ce slot op f) := by
  unfold State.ceRun
  split
  · dsimp only
    split
    · exact hf _
    · exact h
  · exact h

theorem State.partialFold_keeps {z : Frame} {s : State} (h : Keeps z s) (ce slot rank : Nat) :
    Keeps z (State.partialFold s ce slot rank) := by
  unfold State.partialFold
  repeat' first
    | with_reducible assumption
    | with_reducible apply State.setRun_keeps
    | with_reducible refine keeps_foldl (fun t x ht => ?_) ?_
    | with_reducible refine keeps_foldl_1 (fun t x ht => ?_) ?_
    | with_reducible refine keeps_foldl_2 (fun t x ht => ?_) ?_
    | with_reducible refine keeps_foldl_3 (fun t x ht => ?_) ?_
    | split
    | dsimp only

end Sys2Proof.Machine
end

