-- ==== Sys2Proof/Laws/KeepsCodec.lean ====
section
/-! SUPPORT. What the operations of Codec.lean keep (Keeps). -/

namespace Sys2Proof.Machine

open Sys2Proof

theorem State.cdcRead_keeps {z : Frame} {s : State} (h : Keeps z s) (p : PageId) (l : List (Nat × Nat)) :
    Keeps z (State.cdcRead s p l) := by
  unfold State.cdcRead
  repeat' first
    | with_reducible assumption
    | with_reducible apply State.dmaRead_keeps
    | with_reducible refine keeps_foldl (fun t x ht => ?_) ?_

theorem State.cdcBound_keeps {z : Frame} {s : State} (h : Keeps z s) (p : PageId) (step : Nat) (e : BoundEv) :
    Keeps z (State.cdcBound s p step e) := by
  unfold State.cdcBound
  repeat' first
    | with_reducible assumption
    | with_reducible apply State.err_keeps
    | with_reducible apply State.wrs_keeps
    | with_reducible apply State.bump_keeps
    | with_reducible apply State.again_keeps
    | split
    | dsimp only

theorem State.srcReads_keeps {z : Frame} {s : State} (h : Keeps z s) (p : PageId) (step : Nat) (j : Job) (b n : Nat) :
    Keeps z (State.srcReads s p step j b n) := by
  unfold State.srcReads
  repeat' first
    | with_reducible assumption
    | with_reducible apply State.cdcBound_keeps
    | with_reducible apply State.cdcRead_keeps
    | with_reducible apply State.err_keeps
    | with_reducible refine keeps_foldl (fun t x ht => ?_) ?_
    | split
    | dsimp only

theorem State.denseWrite_keeps {z : Frame} {s : State} (h : Keeps z s) (j : Job) (b : Nat) (l : List Blk) :
    Keeps z (State.denseWrite s j b l) := by
  unfold State.denseWrite
  repeat' first
    | with_reducible assumption
    | with_reducible apply State.planElems_keeps
    | with_reducible apply State.planPoison_keeps
    | with_reducible apply State.planWrite_keeps
    | with_reducible refine keeps_foldl (fun t x ht => ?_) ?_
    | split

theorem State.codedOver_keeps {z : Frame} {s : State} (h : Keeps z s) (c sid excess : Nat) :
    Keeps z (State.codedOver s c sid excess) := by
  unfold State.codedOver
  repeat' first
    | with_reducible assumption
    | with_reducible apply State.err_keeps
    | with_reducible apply State.overrun_keeps
    | with_reducible apply State.bump_keeps
    | split

theorem State.countRecords_keeps {z : Frame} {s : State} (h : Keeps z s) (p : PageId) (f : Nat) (mx : Bool) (tiles : List (List Blk)) :
    Keeps z (State.countRecords s p f mx tiles) := by
  unfold State.countRecords
  repeat' first
    | with_reducible assumption
    | with_reducible apply State.bump_keeps

theorem State.codecVerify_keeps {z : Frame} {s : State} (h : Keeps z s) (c sid n : Nat) :
    Keeps z (State.codecVerify s c sid n) := by
  unfold State.codecVerify
  repeat' first
    | with_reducible assumption
    | with_reducible apply State.tickFault_keeps
    | with_reducible apply State.err_keeps
    | with_reducible apply State.bump_keeps
    | split
    | dsimp only
    | with_reducible apply keepsOf_eta
    | with_reducible apply keeps_mk

theorem State.encodeOut_keeps {z : Frame} {s : State} (h : Keeps z s) (c sid cap f : Nat) (mx : Bool) (t0 : Nat) (l :
    List Blk) :
    Keeps z (State.encodeOut s c sid cap f mx t0 l) := by
  unfold State.encodeOut
  repeat' first
    | with_reducible assumption
    | with_reducible apply State.codecVerify_keeps
    | with_reducible apply State.countRecords_keeps
    | with_reducible apply State.codedOver_keeps
    | with_reducible apply State.stage_keeps
    | with_reducible apply State.bump_keeps
    | split
    | dsimp only

theorem State.codecEncode_keeps {z : Frame} {s : State} (h : Keeps z s) (c : Nat) (r : Run) :
    Keeps z (State.codecEncode s c r) := by
  unfold State.codecEncode
  repeat' first
    | with_reducible assumption
    | with_reducible apply State.encodeOut_keeps
    | with_reducible apply State.srcReads_keeps
    | with_reducible apply State.finish_keeps
    | with_reducible apply State.bump_keeps

theorem State.poisonRecords_keeps {z : Frame} {s : State} (h : Keeps z s) (p : PageId) (n : Nat) :
    Keeps z (State.poisonRecords s p n) := by
  unfold State.poisonRecords
  repeat' first
    | with_reducible assumption
    | with_reducible apply State.err_keeps
    | with_reducible apply State.bump_keeps
    | split

theorem State.sliceEffects_keeps {z : Frame} {s : State} (h : Keeps z s) (p : PageId) (step : Nat) (l : List (Option (List Blk × List BoundEv))) :
    Keeps z (State.sliceEffects s p step l) := by
  unfold State.sliceEffects
  repeat' first
    | with_reducible assumption
    | with_reducible apply State.poisonRecords_keeps
    | with_reducible apply State.cdcBound_keeps
    | with_reducible refine keeps_foldl (fun t x ht => ?_) ?_
    | split

theorem State.storeTile_keeps {z : Frame} {s : State} (h : Keeps z s) (j : Job) (g : Seg) (tile ptr : Nat) (l : List Blk)
    {x : State × Nat} (e : s.storeTile j g tile ptr l = some x) : Keeps z x.1 := by
  unfold State.storeTile at e
  dsimp only at e
  split at e
  · cases e
  · cases e
    refine keeps_foldl (fun t x ht => ?_) ?_
    · split
      · exact State.planPoison_keeps ht _ _ _
      · exact ht
    · exact State.planWrite_keeps (State.planWrite_keeps h _ _ _) _ _ _

theorem State.storeTiles_keeps {z : Frame} (j : Job) (g : Seg) :
    ∀ (l : List (List Blk)) {s : State} (_ : Keeps z s) (tile ptr : Nat), Keeps z (State.storeTiles j g s tile ptr l).1
  | [], _, h, _, _ => h
  | b :: l, s, h, tile, ptr => by
    unfold State.storeTiles
    split
    · exact State.storeTiles_keeps j g l (State.storeTile_keeps h j g tile ptr b (by assumption)) _ _
    · exact h

theorem State.storeSparse_keeps {z : Frame} {s : State} (h : Keeps z s) (p : PageId) (r : Run) (j : Job) (g : Seg) (tiles : List (List Blk)) :
    Keeps z (State.storeSparse s p r j g tiles) := by
  unfold State.storeSparse
  repeat' first
    | with_reducible assumption
    | with_reducible apply State.storeTiles_keeps
    | with_reducible apply State.setRun_keeps
    | with_reducible apply State.planWrite_keeps
    | with_reducible apply State.tickFault_keeps
    | with_reducible apply State.err_keeps
    | split
    | dsimp only

theorem State.codecStore_keeps {z : Frame} {s : State} (h : Keeps z s) (c : Nat) (r : Run) :
    Keeps z (State.codecStore s c r) := by
  unfold State.codecStore
  repeat' first
    | with_reducible assumption
    | with_reducible apply State.storeSparse_keeps
    | with_reducible apply State.sliceEffects_keeps
    | with_reducible apply State.denseWrite_keeps
    | with_reducible apply State.finish_keeps
    | with_reducible apply State.bump_keeps
    | split
    | dsimp only

theorem State.v24_keeps {z : Frame} {s : State} (h : Keeps z s) (p : PageId) (step g nz : Nat) :
    Keeps z (State.v24 s p step g nz) := by
  unfold State.v24
  repeat' first
    | with_reducible assumption
    | with_reducible apply State.wrs_keeps
    | with_reducible apply State.bump_keeps
    | with_reducible apply State.again_keeps
    | split
    | dsimp only

theorem State.violation_keeps {z : Frame} {s : State} (h : Keeps z s) (p : PageId) (r : Run) (j : Job) (g nz : Nat) :
    Keeps z (State.violation s p r j g nz) := by
  unfold State.violation
  repeat' first
    | with_reducible assumption
    | with_reducible apply State.v24_keeps
    | with_reducible apply State.tickFault_keeps
    | with_reducible apply State.err_keeps
    | with_reducible apply State.bump_keeps
    | split

theorem State.packBlk_keeps {z : Frame} {s : State} (h : Keeps z s) (p : PageId) (r : Run) (j : Job) (b : Nat) (x : Blk)
    :
    Keeps z (State.packBlk s p r j b x) := by
  unfold State.packBlk
  repeat' first
    | with_reducible assumption
    | with_reducible apply State.violation_keeps
    | with_reducible apply State.planElems_keeps
    | with_reducible apply State.planWrite_keeps
    | with_reducible refine keeps_foldl (fun t x ht => ?_) ?_
    | with_reducible refine keeps_foldl_1 (fun t x ht => ?_) ?_
    | with_reducible refine keeps_foldl_2 (fun t x ht => ?_) ?_
    | with_reducible refine keeps_foldl_3 (fun t x ht => ?_) ?_
    | split
    | dsimp only

theorem State.codecPack_keeps {z : Frame} {s : State} (h : Keeps z s) (c : Nat) (r : Run) :
    Keeps z (State.codecPack s c r) := by
  unfold State.codecPack
  repeat' first
    | with_reducible assumption
    | with_reducible apply State.packBlk_keeps
    | with_reducible apply State.srcReads_keeps
    | with_reducible apply State.finish_keeps
    | with_reducible apply State.bump_keeps
    | with_reducible refine keeps_foldl (fun t x ht => ?_) ?_

theorem State.codecExpand_keeps {z : Frame} {s : State} (h : Keeps z s) (c : Nat) (r : Run) :
    Keeps z (State.codecExpand s c r) := by
  unfold State.codecExpand
  repeat' first
    | with_reducible assumption
    | with_reducible apply State.denseWrite_keeps
    | with_reducible apply State.srcReads_keeps
    | with_reducible apply State.finish_keeps
    | with_reducible apply State.bump_keeps

theorem State.putDense_keeps {z : Frame} {s : State} (h : Keeps z s) (sid : Nat) (l : List Chunk) :
    Keeps z (State.putDense s sid l) := by
  unfold State.putDense
  repeat' first
    | with_reducible assumption
    | with_reducible apply State.setSched_keeps

theorem State.decodeSlice_keeps {z : Frame} {s : State} (h : Keeps z s) (c sid : Nat) :
    Keeps z (State.decodeSlice s c sid) := by
  unfold State.decodeSlice
  repeat' first
    | with_reducible assumption
    | with_reducible apply State.putDense_keeps
    | with_reducible apply State.sliceEffects_keeps
    | with_reducible apply State.bump_keeps
    | split
    | dsimp only

end Sys2Proof.Machine
end

