-- ==== Sys2Proof/Laws/KeepsLinks.lean ====
section
/-! SUPPORT. What the operations of Links.lean keep (Keeps). -/

namespace Sys2Proof.Machine

open Sys2Proof

theorem State.setLstate_keeps {z : Frame} {s : State} (h : Keeps z s) (l v : Nat) :
    Keeps z (State.setLstate s l v) := by
  unfold State.setLstate
  repeat' first
    | with_reducible assumption
    | with_reducible apply State.eventE_keeps
    | with_reducible apply State.wr_keeps
    | with_reducible apply State.setLink_keeps
    | split
    | dsimp only

theorem State.tryStart_keeps {z : Frame} {s : State} (h : Keeps z s) (l : Nat) :
    Keeps z (State.tryStart s l) := by
  unfold State.tryStart
  repeat' first
    | with_reducible assumption
    | with_reducible apply State.setLstate_keeps
    | with_reducible apply State.sendTraining_keeps
    | with_reducible apply State.setLink_keeps
    | split
    | dsimp only

theorem State.dropLink_keeps {z : Frame} {s : State} (h : Keeps z s) (l : Nat) :
    Keeps z (State.dropLink s l) := by
  unfold State.dropLink
  repeat' first
    | with_reducible assumption
    | with_reducible apply State.endInput_keeps
    | with_reducible apply State.wri_keeps
    | with_reducible apply State.setLink_keeps
    | with_reducible refine keeps_foldl (fun t x ht => ?_) ?_
    | split
    | dsimp only

theorem State.discardQueued_keeps {z : Frame} {s : State} (h : Keeps z s) (k o : Nat) :
    Keeps z (State.discardQueued s k o) := by
  unfold State.discardQueued
  repeat' first
    | with_reducible assumption
    | with_reducible apply State.stage_keeps
    | with_reducible apply State.err_keeps
    | with_reducible apply State.setQueue_keeps
    | with_reducible apply State.setOpn_keeps
    | with_reducible apply State.bump_keeps
    | with_reducible refine keeps_foldl (fun t x ht => ?_) ?_
    | split
    | dsimp only

theorem State.releaseReady_keeps {z : Frame} {s : State} (h : Keeps z s) (l : List Ready) :
    Keeps z (State.releaseReady s l) := by
  unfold State.releaseReady
  repeat' first
    | with_reducible assumption
    | with_reducible apply State.returnCredit_keeps
    | with_reducible refine keeps_foldl (fun t x ht => ?_) ?_
    | split
    | dsimp only

theorem State.dropOwn_keeps {z : Frame} {s : State} (h : Keeps z s) (l : Nat) :
    Keeps z (State.dropOwn s l) := by
  unfold State.dropOwn
  repeat' first
    | with_reducible assumption
    | with_reducible apply State.setOpn_keeps
    | with_reducible apply State.setLink_keeps
    | split
    | dsimp only

theorem State.dropOutput_keeps {z : Frame} {s : State} (h : Keeps z s) (l : Nat) :
    Keeps z (State.dropOutput s l) := by
  unfold State.dropOutput
  repeat' first
    | with_reducible assumption
    | with_reducible apply State.dropOwn_keeps
    | with_reducible apply State.releaseReady_keeps
    | with_reducible apply State.discardQueued_keeps
    | split
    | dsimp only

theorem State.failLink_keeps {z : Frame} {s : State} (h : Keeps z s) (l : Nat) :
    Keeps z (State.failLink s l) := by
  unfold State.failLink
  repeat' first
    | with_reducible assumption
    | with_reducible apply State.dropOutput_keeps
    | with_reducible apply State.dropLink_keeps
    | with_reducible apply State.setLstate_keeps
    | with_reducible apply State.reportLink_keeps
    | split
    | dsimp only

theorem State.downLink_keeps {z : Frame} {s : State} (h : Keeps z s) (l : Nat) :
    Keeps z (State.downLink s l) := by
  unfold State.downLink
  repeat' first
    | with_reducible assumption
    | with_reducible apply State.dropLink_keeps
    | with_reducible apply State.tryStart_keeps
    | with_reducible apply State.setLstate_keeps

theorem State.lockAchieved_keeps {z : Frame} {s : State} (h : Keeps z s) (link : Nat) :
    Keeps z (State.lockAchieved s link) := by
  unfold State.lockAchieved
  repeat' first
    | with_reducible assumption
    | with_reducible apply State.setLstate_keeps
    | with_reducible apply State.sendTraining_keeps
    | split
    | dsimp only

theorem State.latencyProbe_keeps {z : Frame} {s : State} (h : Keeps z s) (link stamp hold : Nat) :
    Keeps z (State.latencyProbe s link stamp hold) := by
  unfold State.latencyProbe
  repeat' first
    | with_reducible assumption
    | with_reducible apply State.sendTraining_keeps
    | split
    | dsimp only

theorem State.trainFail_keeps {z : Frame} {s : State} (h : Keeps z s) (l : Nat) :
    Keeps z (State.trainFail s l) := by
  unfold State.trainFail
  repeat' first
    | with_reducible assumption
    | with_reducible apply State.failLink_keeps
    | with_reducible apply State.err_keeps
    | split
    | dsimp only

theorem State.takeShared_keeps {z : Frame} {s : State} (h : Keeps z s) (l vc : Nat) :
    Keeps z (State.takeShared s l vc) := by
  unfold State.takeShared
  repeat' first
    | with_reducible assumption
    | with_reducible apply State.setLink_keeps
    | split
    | dsimp only

theorem State.tryCredit_keeps {z : Frame} {s : State} (h : Keeps z s) (l : Nat) :
    Keeps z (State.tryCredit s l) := by
  unfold State.tryCredit
  repeat' first
    | with_reducible assumption
    | with_reducible apply State.takeShared_keeps
    | with_reducible apply State.setLstate_keeps
    | with_reducible apply State.sendTraining_keeps
    | with_reducible refine keeps_foldl (fun t x ht => ?_) ?_
    | split
    | dsimp only

theorem State.probeEcho_keeps {z : Frame} {s : State} (h : Keeps z s) (link echo hold : Nat) :
    Keeps z (State.probeEcho s link echo hold) := by
  unfold State.probeEcho
  repeat' first
    | with_reducible assumption
    | with_reducible apply State.tryCredit_keeps
    | with_reducible apply State.trainFail_keeps
    | with_reducible apply State.sendTraining_keeps
    | with_reducible apply State.wr_keeps
    | with_reducible apply State.setLink_keeps
    | split
    | dsimp only

theorem State.identity_keeps {z : Frame} {s : State} (h : Keeps z s) (link ident dir : Nat) :
    Keeps z (State.identity s link ident dir) := by
  unfold State.identity
  repeat' first
    | with_reducible assumption
    | with_reducible apply State.tryCredit_keeps
    | with_reducible apply State.failLink_keeps
    | with_reducible apply State.setLink_keeps
    | with_reducible apply State.err_keeps
    | with_reducible apply State.wr_keeps
    | split

theorem State.creditGrant_keeps {z : Frame} {s : State} (h : Keeps z s) (link : Nat) (credits : List Nat) :
    Keeps z (State.creditGrant s link credits) := by
  unfold State.creditGrant
  repeat' first
    | with_reducible assumption
    | with_reducible apply State.setLstate_keeps
    | with_reducible apply State.wri_keeps
    | with_reducible apply State.setCred_keeps
    | with_reducible refine keeps_foldl (fun t x ht => ?_) ?_
    | split
    | dsimp only

theorem State.lockLoss_keeps {z : Frame} {s : State} (h : Keeps z s) (l : Nat) :
    Keeps z (State.lockLoss s l) := by
  unfold State.lockLoss
  repeat' first
    | with_reducible assumption
    | with_reducible apply State.failLink_keeps
    | with_reducible apply State.err_keeps
    | split

theorem State.retrain_keeps {z : Frame} {s : State} (h : Keeps z s) (l : Nat) :
    Keeps z (State.retrain s l) := by
  unfold State.retrain
  repeat' first
    | with_reducible assumption
    | with_reducible apply State.downLink_keeps
    | split

theorem State.writeLinkEn_keeps {z : Frame} {s : State} (h : Keeps z s) (l : Nat) (en : Bool) :
    Keeps z (State.writeLinkEn s l en) := by
  unfold State.writeLinkEn
  repeat' first
    | with_reducible assumption
    | with_reducible apply State.downLink_keeps
    | with_reducible apply State.tryStart_keeps
    | with_reducible apply State.put_keeps
    | split
    | dsimp only

theorem State.charge_keeps {z : Frame} {s : State} (h : Keeps z s) (link dir cc : Nat) :
    Keeps z (State.charge s link dir cc) := by
  unfold State.charge
  repeat' first
    | with_reducible assumption
    | with_reducible apply State.setBelfry_keeps
    | with_reducible apply State.put_keeps
    | with_reducible apply tickOk_eta

theorem State.replayBlock_keeps {z : Frame} {s : State} (h : Keeps z s) (l seq : Nat) :
    Keeps z (State.replayBlock s l seq) := by
  unfold State.replayBlock
  repeat' first
    | with_reducible assumption
    | with_reducible apply State.charge_keeps
    | with_reducible apply State.failLink_keeps
    | with_reducible apply State.err_keeps
    | with_reducible apply State.bump_keeps
    | with_reducible apply State.resendFlit_keeps
    | with_reducible apply State.setLink_keeps
    | split
    | dsimp only

theorem State.countRetry_keeps {z : Frame} {s : State} (h : Keeps z s) (l dir cc : Nat) :
    Keeps z (State.countRetry s l dir cc) := by
  unfold State.countRetry
  repeat' first
    | with_reducible assumption
    | with_reducible apply State.bumpi_keeps
    | split

theorem State.failD2d_keeps {z : Frame} {s : State} (h : Keeps z s) (l : Nat) :
    Keeps z (State.failD2d s l) := by
  unfold State.failD2d
  repeat' first
    | with_reducible assumption
    | with_reducible apply State.moduleFault_keeps
    | with_reducible apply State.err_keeps
    | with_reducible apply State.wri_keeps
    | split

theorem State.d2dRetry_keeps {z : Frame} {s : State} (h : Keeps z s) (l dir k : Nat) (acked : Bool) :
    Keeps z (State.d2dRetry s l dir k acked) := by
  unfold State.d2dRetry
  repeat' first
    | with_reducible assumption
    | with_reducible apply State.failD2d_keeps
    | with_reducible apply State.countRetry_keeps
    | with_reducible apply State.charge_keeps
    | split
    | dsimp only
    | with_reducible apply keepsOf_eta
    | with_reducible apply keeps_mk

theorem State.dropReservations_keeps {z : Frame} {s : State} (h : Keeps z s) (n : Nat) :
    Keeps z (State.dropReservations s n) := keeps_mk (keepsOf_eta h)

end Sys2Proof.Machine
end

