-- ==== Sys2Proof/Laws/KeepsRoutes.lean ====
section
/-! SUPPORT. What the operations of Routes.lean keep (Keeps). -/

namespace Sys2Proof.Machine

open Sys2Proof

theorem State.setRoute_keeps {z : Frame} {s : State} (h : Keeps z s) (k : Nat) (r : Route) :
    Keeps z (State.setRoute s k r) := by
  unfold State.setRoute
  repeat' first
    | with_reducible assumption
    | with_reducible apply State.put_keeps
    | dsimp only
    | with_reducible apply keepsOf_eta
    | with_reducible apply keeps_mk

theorem State.tblWrite_keeps {z : Frame} {s : State} (h : Keeps z s) (k v : Nat) :
    Keeps z (State.tblWrite s k v) := by
  unfold State.tblWrite
  repeat' first
    | with_reducible assumption
    | with_reducible apply State.setRoute_keeps
    | with_reducible apply State.err_keeps
    | with_reducible apply State.put_keeps
    | split
    | dsimp only

theorem State.writeFilled_keeps {z : Frame} {s : State} (h : Keeps z s) (k b : Nat) (v : Bool) :
    Keeps z (State.writeFilled s k b v) := by
  unfold State.writeFilled
  repeat' first
    | with_reducible assumption
    | with_reducible apply State.err_keeps
    | with_reducible apply State.put_keeps
    | split

theorem State.deliver_keeps {z : Frame} {s : State} (h : Keeps z s) (e k : Nat) (f : Flit) :
    Keeps z (State.deliver s e k f) := by
  unfold State.deliver
  repeat' first
    | with_reducible assumption
    | with_reducible apply State.setOpn_keeps
    | split
    | dsimp only

theorem State.giveReply_keeps {z : Frame} {s : State} (h : Keeps z s) (src : Source) (f : Flit) :
    Keeps z (State.giveReply s src f) := by
  unfold State.giveReply
  repeat' first
    | with_reducible assumption
    | with_reducible apply State.deliver_keeps
    | with_reducible apply State.setLink_keeps
    | with_reducible apply State.emit_keeps
    | split
    | dsimp only
    | with_reducible apply keepsOf_eta
    | with_reducible apply keeps_mk

theorem State.reply_keeps {z : Frame} {s : State} (h : Keeps z s) (src : Source) (f : Flit) :
    Keeps z (State.reply s src f) := by
  unfold State.reply
  repeat' first
    | with_reducible assumption
    | with_reducible apply State.giveReply_keeps
    | with_reducible apply State.bump_keeps
    | with_reducible apply State.headerDiscard_keeps
    | split
    | dsimp only
    | with_reducible apply keepsOf_eta
    | with_reducible apply keeps_mk

theorem State.makeReady_keeps {z : Frame} {s : State} (h : Keeps z s) (r : Ready) :
    Keeps z (State.makeReady s r) := by
  unfold State.makeReady
  repeat' first
    | with_reducible assumption
    | with_reducible apply State.setOpn_keeps
    | split
    | dsimp only

theorem State.forward_keeps {z : Frame} {s : State} (h : Keeps z s) (k : Nat) (src : QSource) (buf : Option (Nat × Nat))
    (travel : Option Nat) (f : Flit) :
    Keeps z (State.forward s k src buf travel f) := by
  unfold State.forward
  repeat' first
    | with_reducible assumption
    | with_reducible apply State.makeReady_keeps
    | with_reducible apply State.deliver_keeps
    | with_reducible apply State.err_keeps
    | with_reducible apply State.bump_keeps
    | split
    | dsimp only

theorem State.taken_keeps {z : Frame} {s : State} (h : Keeps z s) (src : Source) (f : Flit) :
    Keeps z (State.taken s src f) := by
  unfold State.taken
  repeat' first
    | with_reducible assumption
    | with_reducible apply State.returnCredit_keeps
    | split
    | dsimp only

theorem State.enter_keeps {z : Frame} {s : State} (h : Keeps z s) (src : Source) (g : Flit) :
    Keeps z (State.enter s src g) := by
  unfold State.enter
  repeat' first
    | with_reducible assumption
    | with_reducible apply State.forward_keeps
    | with_reducible apply State.bufferIn_keeps
    | split
    | dsimp only

theorem State.inject_keeps {z : Frame} {s : State} (h : Keeps z s) (src : Source) (f0 : Flit) :
    Keeps z (State.inject s src f0) := by
  unfold State.inject
  repeat' first
    | with_reducible assumption
    | with_reducible apply State.enter_keeps
    | with_reducible apply State.taken_keeps
    | with_reducible apply State.giveReply_keeps
    | with_reducible apply State.err_keeps
    | with_reducible apply State.bump_keeps
    | with_reducible apply State.emit_keeps
    | split
    | dsimp only
    | with_reducible apply keepsOf_eta
    | with_reducible apply keeps_mk

theorem State.complete_keeps {z : Frame} {s : State} (h : Keeps z s) (r : Reservation) (status : Nat) :
    Keeps z (State.complete s r status) := by
  unfold State.complete
  repeat' first
    | with_reducible assumption
    | with_reducible apply State.giveReply_keeps
    | split
    | dsimp only
    | with_reducible apply keepsOf_eta
    | with_reducible apply keeps_mk

theorem State.timeoutResv_keeps {z : Frame} {s : State} (h : Keeps z s) (r : Reservation) :
    Keeps z (State.timeoutResv s r) := by
  unfold State.timeoutResv
  repeat' first
    | with_reducible assumption
    | with_reducible apply State.complete_keeps
    | with_reducible apply State.bump_keeps
    | split

theorem State.unserve_keeps {z : Frame} {s : State} (h : Keeps z s) (e : Nat) (f : Flit) :
    Keeps z (State.unserve s e f) := by
  unfold State.unserve
  repeat' first
    | with_reducible assumption
    | with_reducible apply State.setOpn_keeps
    | split
    | dsimp only

theorem State.takeService_keeps {z : Frame} {s : State} (h : Keeps z s) (e : Nat) (f : Flit) :
    Keeps z (State.takeService s e f).2 := by
  unfold State.takeService
  repeat' first
    | with_reducible assumption
    | with_reducible apply State.unserve_keeps
    | with_reducible apply State.flitRead_keeps
    | with_reducible refine State.flitRead_next_keeps ?_ (by assumption)
    | split
    | dsimp only

theorem State.served_keeps {z : Frame} {s : State} (h : Keeps z s) (e : Nat) (f : Flit) (act : State → Flit → State)
    (hf : ∀ t g, Keeps z t → Keeps z (act t g)) : Keeps z (State.served s e f act) := by
  unfold State.served
  have h1 := State.takeService_keeps h e f
  revert h1
  rcases s.takeService e f with ⟨_ | g, t⟩ <;> intro h1
  · exact h1
  · exact hf _ _ h1

theorem State.configFault_keeps {z : Frame} {s : State} (h : Keeps z s) :
    Keeps z (State.configFault s) := by
  unfold State.configFault
  repeat' first
    | with_reducible assumption
    | with_reducible apply State.moduleFault_keeps

theorem State.armFlip_keeps {z : Frame} {s : State} (h : Keeps z s) (k f : Nat) :
    Keeps z (State.armFlip s k f) := by
  unfold State.armFlip
  repeat' first
    | with_reducible assumption
    | with_reducible apply State.setRoute_keeps
    | with_reducible apply State.wr_keeps

theorem State.tryFlip_keeps {z : Frame} {s : State} (h : Keeps z s) (k f : Nat) (sum : Option Nat) :
    Keeps z (State.tryFlip s k f sum) := by
  unfold State.tryFlip
  repeat' first
    | with_reducible assumption
    | with_reducible apply State.armFlip_keeps
    | with_reducible apply State.configFault_keeps
    | with_reducible apply State.err_keeps
    | split
    | dsimp only

theorem State.tryFlips_keeps {z : Frame} {s : State} (h : Keeps z s) (f : Nat) (sum : Option Nat) :
    Keeps z (State.tryFlips s f sum) := by
  unfold State.tryFlips
  repeat' first
    | with_reducible assumption
    | with_reducible apply State.armFlip_keeps
    | with_reducible apply State.configFault_keeps
    | with_reducible apply State.err_keeps
    | with_reducible refine keeps_foldl (fun t x ht => ?_) ?_
    | split
    | dsimp only

theorem State.routeFlip_keeps {z : Frame} {s : State} (h : Keeps z s) (d f sum origin : Nat) :
    Keeps z (State.routeFlip s d f sum origin) := by
  unfold State.routeFlip
  repeat' first
    | with_reducible assumption
    | with_reducible apply State.tryFlips_keeps
    | with_reducible apply State.configFault_keeps
    | with_reducible apply State.err_keeps
    | with_reducible apply State.rememberFlood_keeps
    | with_reducible apply State.flood_keeps
    | split
    | dsimp only

theorem State.flipAtWrite_keeps {z : Frame} {s : State} (h : Keeps z s) (k v : Nat) :
    Keeps z (State.flipAtWrite s k v) := by
  unfold State.flipAtWrite
  repeat' first
    | with_reducible assumption
    | with_reducible apply State.tryFlips_keeps
    | with_reducible apply State.tryFlip_keeps
    | with_reducible apply State.rememberFlood_keeps
    | with_reducible apply State.put_keeps
    | with_reducible apply State.flood_keeps
    | split
    | dsimp only

theorem State.takeFlip_keeps {z : Frame} {s : State} (h : Keeps z s) (k f : Nat) :
    Keeps z (State.takeFlip s k f) := by
  unfold State.takeFlip
  repeat' first
    | with_reducible assumption
    | with_reducible apply State.setRoute_keeps
    | with_reducible apply State.wr_keeps

theorem State.drainKeep_keeps {z : Frame} {s : State} (h : Keeps z s) (k : Nat) :
    Keeps z (State.drainKeep s k) := by
  unfold State.drainKeep
  repeat' first
    | with_reducible assumption
    | with_reducible apply State.complete_keeps
    | with_reducible apply State.setRoute_keeps
    | with_reducible apply State.bump_keeps
    | with_reducible apply State.wr_keeps
    | with_reducible refine keeps_foldl (fun t x ht => ?_) ?_
    | split

theorem State.drainDeadline_keeps {z : Frame} {s : State} (h : Keeps z s) :
    Keeps z (State.drainDeadline s) := by
  unfold State.drainDeadline
  repeat' first
    | with_reducible assumption
    | with_reducible apply State.drainKeep_keeps
    | with_reducible refine keeps_foldl (fun t x ht => ?_) ?_

theorem State.ageDiscard_keeps {z : Frame} {s : State} (h : Keeps z s) (k : Nat) :
    Keeps z (State.ageDiscard s k) := by
  unfold State.ageDiscard
  repeat' first
    | with_reducible assumption
    | with_reducible apply State.err_keeps
    | with_reducible apply State.bump_keeps
    | split
    | dsimp only

theorem State.flitAged_keeps {z : Frame} {s : State} (h : Keeps z s) (k o vc : Nat) :
    Keeps z (State.flitAged s k o vc) := by
  unfold State.flitAged
  repeat' first
    | with_reducible assumption
    | with_reducible apply State.ageDiscard_keeps
    | with_reducible apply State.countLeft_keeps
    | with_reducible apply State.returnCredit_keeps
    | with_reducible apply State.setQueue_keeps
    | with_reducible apply State.setOpn_keeps
    | split
    | dsimp only

end Sys2Proof.Machine
end

