-- ==== Sys2Proof/Laws/KeepsKeepMover.lean ====
section
/-! SUPPORT. What the operations of KeepMover.lean keep (Keeps). -/

namespace Sys2Proof.Machine

open Sys2Proof

theorem State.setMover_keeps {z : Frame} {s : State} (h : Keeps z s) (k : Nat) (m : Mover) :
    Keeps z (State.setMover s k m) := by
  unfold State.setMover
  repeat' first
    | with_reducible assumption
    | with_reducible apply State.put_keeps
    | dsimp only
    | with_reducible apply keepsOf_eta
    | with_reducible apply keeps_mk

theorem State.mvIssue_keeps {z : Frame} {s : State} (h : Keeps z s) (k : Nat) :
    Keeps z (State.mvIssue s k) := by
  unfold State.mvIssue
  repeat' first
    | with_reducible assumption
    | with_reducible apply State.setMover_keeps
    | with_reducible apply State.inject_keeps

theorem State.mvFill_keeps {z : Frame} (k : Nat) : ∀ (n : Nat) {s : State} (_ : Keeps z s), Keeps z (State.mvFill k n s)
  | 0, _, h => h
  | n + 1, s, h => by
    unfold State.mvFill
    dsimp only
    split
    · exact State.mvFill_keeps k n (State.mvIssue_keeps h k)
    · exact h

theorem State.mvRun_keeps {z : Frame} {s : State} (h : Keeps z s) (k : Nat) :
    Keeps z (State.mvRun s k) := by
  unfold State.mvRun
  repeat' first
    | with_reducible assumption
    | with_reducible apply State.mvFill_keeps
    | with_reducible apply State.wr_keeps
    | split
    | dsimp only

theorem State.mvGo_keeps {z : Frame} {s : State} (h : Keeps z s) (k : Nat) :
    Keeps z (State.mvGo s k) := by
  unfold State.mvGo
  repeat' first
    | with_reducible assumption
    | with_reducible apply State.mvRun_keeps
    | with_reducible apply State.setMover_keeps
    | with_reducible apply State.wr_keeps
    | split
    | dsimp only

theorem State.mvFail_keeps {z : Frame} {s : State} (h : Keeps z s) (k : Nat) (r : MvReq) (status : Nat) :
    Keeps z (State.mvFail s k r status) := by
  unfold State.mvFail
  repeat' first
    | with_reducible assumption
    | with_reducible apply State.setMover_keeps
    | with_reducible apply State.wr_keeps

theorem State.mvWrite_keeps {z : Frame} {s : State} (h : Keeps z s) (k : Nat) (r : MvReq) (f : Flit) :
    Keeps z (State.mvWrite s k r f) := by
  unfold State.mvWrite
  repeat' first
    | with_reducible assumption
    | with_reducible apply State.setMover_keeps
    | with_reducible apply State.inject_keeps
    | with_reducible apply State.bump_keeps
    | split
    | dsimp only

theorem State.mvDone_keeps {z : Frame} {s : State} (h : Keeps z s) (k : Nat) (r : MvReq) :
    Keeps z (State.mvDone s k r) := by
  unfold State.mvDone
  repeat' first
    | with_reducible assumption
    | with_reducible apply State.mvRun_keeps
    | with_reducible apply State.setMover_keeps
    | split
    | dsimp only

theorem State.mvReply_keeps {z : Frame} {s : State} (h : Keeps z s) (k : Nat) (f : Flit) :
    Keeps z (State.mvReply s k f) := by
  unfold State.mvReply
  repeat' first
    | with_reducible assumption
    | with_reducible apply State.mvDone_keeps
    | with_reducible apply State.mvWrite_keeps
    | with_reducible apply State.mvFail_keeps
    | split
    | dsimp only
    | with_reducible apply keepsOf_eta
    | with_reducible apply keeps_mk

theorem State.mvDrained_keeps {z : Frame} {s : State} (h : Keeps z s) (k : Nat) :
    Keeps z (State.mvDrained s k) := by
  unfold State.mvDrained
  repeat' first
    | with_reducible assumption
    | with_reducible apply State.wr2_keeps
    | with_reducible apply State.wr_keeps
    | split
    | dsimp only

theorem State.mvResume_keeps {z : Frame} {s : State} (h : Keeps z s) (k : Nat) :
    Keeps z (State.mvResume s k) := by
  unfold State.mvResume
  repeat' first
    | with_reducible assumption
    | with_reducible apply State.mvRun_keeps
    | with_reducible apply State.setMover_keeps
    | with_reducible apply State.wr_keeps
    | split

theorem State.mvAbort_keeps {z : Frame} {s : State} (h : Keeps z s) (k : Nat) :
    Keeps z (State.mvAbort s k) := by
  unfold State.mvAbort
  repeat' first
    | with_reducible assumption
    | with_reducible apply State.mvDrained_keeps
    | with_reducible apply State.setMover_keeps
    | with_reducible apply State.wr_keeps
    | split
    | dsimp only

end Sys2Proof.Machine
end

