-- ==== Sys2Proof/Laws/KeepsStackMover.lean ====
section
/-! SUPPORT. What the operations of StackMover.lean keep (Keeps). -/

namespace Sys2Proof.Machine

open Sys2Proof

theorem State.sysGib_keeps {z : Frame} {s : State} (h : Keeps z s) (st v : Nat) :
    Keeps z (State.sysGib s st v) := by
  unfold State.sysGib
  repeat' first
    | with_reducible assumption
    | with_reducible apply State.err_keeps
    | with_reducible apply State.put_keeps
    | split

theorem State.mvRead_keeps {z : Frame} {s : State} (h : Keeps z s) (st loc n : Nat) :
    Keeps z (State.mvRead s st loc n) := by
  unfold State.mvRead
  repeat' first
    | with_reducible assumption
    | with_reducible apply State.dmaRead_keeps

theorem State.stackOut_keeps {z : Frame} {s : State} (h : Keeps z s) (st : Nat) (r : Run) :
    Keeps z (State.stackOut s st r) := by
  unfold State.stackOut
  repeat' first
    | with_reducible assumption
    | with_reducible apply State.mvRead_keeps
    | with_reducible apply State.finish_keeps
    | with_reducible apply State.stage_keeps
    | with_reducible apply State.bump_keeps
    | split
    | dsimp only

theorem State.writeChunks_keeps {z : Frame} {s : State} (h : Keeps z s) (st dst off n : Nat) (l : List Chunk) :
    Keeps z (State.writeChunks s st dst off n l) := by
  unfold State.writeChunks
  repeat' first
    | with_reducible assumption
    | with_reducible apply State.planPoison_keeps
    | with_reducible apply State.planWrite_keeps
    | with_reducible apply State.err_keeps
    | with_reducible apply State.bump_keeps
    | with_reducible refine keeps_foldl (fun t x ht => ?_) ?_
    | split

theorem State.stackIn_keeps {z : Frame} {s : State} (h : Keeps z s) (st : Nat) (r : Run) :
    Keeps z (State.stackIn s st r) := by
  unfold State.stackIn
  repeat' first
    | with_reducible assumption
    | with_reducible apply State.writeChunks_keeps
    | with_reducible apply State.finish_keeps
    | with_reducible apply State.bump_keeps
    | split
    | dsimp only

theorem State.stackCopy_keeps {z : Frame} {s : State} (h : Keeps z s) (st : Nat) (r : Run) :
    Keeps z (State.stackCopy s st r) := by
  unfold State.stackCopy
  repeat' first
    | with_reducible assumption
    | with_reducible apply State.mvRead_keeps
    | with_reducible apply State.finish_keeps
    | with_reducible apply State.bump_keeps
    | with_reducible apply State.planPoison_keeps
    | with_reducible apply State.planWrite_keeps
    | with_reducible refine keeps_foldl (fun t x ht => ?_) ?_
    | with_reducible refine keeps_foldl_1 (fun t x ht => ?_) ?_
    | with_reducible refine keeps_foldl_2 (fun t x ht => ?_) ?_
    | with_reducible refine keeps_foldl_3 (fun t x ht => ?_) ?_
    | split
    | dsimp only

end Sys2Proof.Machine
end

