-- ==== Sys2Proof/Laws/KeepsTileData.lean ====
section
/-! SUPPORT. What the operations of TileData.lean keep (Keeps). -/

namespace Sys2Proof.Machine

open Sys2Proof

theorem State.setTile_keeps {z : Frame} {s : State} (h : Keeps z s) (g : Nat) (t : Tile) :
    Keeps z (State.setTile s g t) := by
  unfold State.setTile
  repeat' first
    | with_reducible assumption
    | with_reducible apply State.put_keeps
    | dsimp only
    | with_reducible apply keepsOf_eta
    | with_reducible apply keeps_mk

theorem State.tileBound_keeps {z : Frame} {s : State} (h : Keeps z s) (g kind insn pos val : Nat) :
    Keeps z (State.tileBound s g kind insn pos val) := by
  unfold State.tileBound
  repeat' first
    | with_reducible assumption
    | with_reducible apply State.err_keeps
    | with_reducible apply State.wrs_keeps
    | with_reducible apply State.bump_keeps
    | with_reducible apply State.again_keeps
    | split
    | dsimp only

theorem State.tileTouch_keeps {z : Frame} {s : State} (h : Keeps z s) (g : Nat) (r : Nat × Nat × Nat) :
    Keeps z (State.tileTouch s g r) := by
  unfold State.tileTouch
  repeat' first
    | with_reducible assumption
    | with_reducible apply State.touch_keeps
    | with_reducible apply State.err_keeps
    | with_reducible apply State.bump_keeps
    | split
    | dsimp only

theorem State.badRead_keeps {z : Frame} {s : State} (h : Keeps z s) (g : Nat) (d : TDesc) :
    Keeps z (State.badRead s g d) := by
  unfold State.badRead
  repeat' first
    | with_reducible assumption
    | with_reducible apply State.err_keeps
    | split
    | dsimp only

theorem State.tileReadOver_keeps {z : Frame} {s : State} (h : Keeps z s) (g i : Nat) (d : TDesc) (l : List (Nat × Nat ×
    Nat)) :
    Keeps z (State.tileReadOver s g i d l) := by
  unfold State.tileReadOver
  repeat' first
    | with_reducible assumption
    | with_reducible apply State.badRead_keeps
    | with_reducible apply State.tileTouch_keeps
    | with_reducible apply State.tileBound_keeps
    | with_reducible refine keeps_foldl (fun t x ht => ?_) ?_
    | with_reducible refine keeps_foldl_1 (fun t x ht => ?_) ?_
    | with_reducible refine keeps_foldl_2 (fun t x ht => ?_) ?_
    | with_reducible refine keeps_foldl_3 (fun t x ht => ?_) ?_
    | split
    | dsimp only

theorem State.tileRead_keeps {z : Frame} {s : State} (h : Keeps z s) (g i : Nat) (d : TDesc) (l : List Nat) :
    Keeps z (State.tileRead s g i d l) := by
  unfold State.tileRead
  repeat' first
    | with_reducible assumption
    | with_reducible apply State.tileReadOver_keeps
    | split
    | dsimp only

theorem State.tileReadSome_keeps {z : Frame} {s : State} (h : Keeps z s) (g i : Nat) (d : TDesc) (need : Nat → Nat →
    Bool) :
    Keeps z (State.tileReadSome s g i d need) := by
  unfold State.tileReadSome
  repeat' first
    | with_reducible assumption
    | with_reducible apply State.tileReadOver_keeps
    | split
    | dsimp only

theorem State.tileReadAll_keeps {z : Frame} {s : State} (h : Keeps z s) (g i : Nat) (d : Option TDesc) :
    Keeps z (State.tileReadAll s g i d) := by
  unfold State.tileReadAll
  repeat' first
    | with_reducible assumption
    | with_reducible apply State.tileRead_keeps
    | split

theorem State.tileStore_keeps {z : Frame} {s : State} (h : Keeps z s) (g : Nat) (d : TDesc) (off : Nat) (l : List Byte) :
    Keeps z (State.tileStore s g d off l) := by
  unfold State.tileStore
  repeat' first
    | with_reducible assumption
    | with_reducible apply State.planWrite_keeps
    | with_reducible apply State.store_keeps
    | split

theorem State.poisonOut_keeps {z : Frame} {s : State} (h : Keeps z s) (g n : Nat) :
    Keeps z (State.poisonOut s g n) := by
  unfold State.poisonOut
  repeat' first
    | with_reducible assumption
    | with_reducible apply State.err_keeps
    | with_reducible apply State.bump_keeps
    | split

theorem State.tilePoison_keeps {z : Frame} {s : State} (h : Keeps z s) (g : Nat) (d : TDesc) (lines : List Nat) :
    Keeps z (State.tilePoison s g d lines) := by
  unfold State.tilePoison
  repeat' first
    | with_reducible assumption
    | with_reducible apply State.poisonOut_keeps
    | with_reducible apply State.poisonLine_keeps
    | with_reducible refine keeps_foldl (fun t x ht => ?_) ?_
    | split

theorem State.tileWrite_keeps {z : Frame} {s : State} (h : Keeps z s) (g : Nat) (d : TDesc) (rows : List TRow) :
    Keeps z (State.tileWrite s g d rows) := by
  unfold State.tileWrite
  repeat' first
    | with_reducible assumption
    | with_reducible apply State.tilePoison_keeps
    | with_reducible apply State.tileStore_keeps
    | with_reducible refine keeps_foldl (fun t x ht => ?_) ?_
    | split

end Sys2Proof.Machine
end

