-- ==== Sys2Proof/Laws/KeepsTileOps.lean ====
section
/-! SUPPORT. What the operations of TileOps.lean keep (Keeps). -/

namespace Sys2Proof.Machine

open Sys2Proof

theorem State.icResults_keeps {z : Frame} {s : State} (h : Keeps z s) (c : ICtx) (keep : Bool) (pre : Fx) (rows : List (Nat × List TVal)) :
    Keeps z (State.icResults s c keep pre rows) := by
  unfold State.icResults
  repeat' first
    | with_reducible assumption
    | with_reducible apply State.tileWrite_keeps
    | with_reducible apply State.arith_keeps

theorem State.icRead_keeps {z : Frame} {s : State} (h : Keeps z s) (c : ICtx) (l : List (Option TDesc)) :
    Keeps z (State.icRead s c l) := by
  unfold State.icRead
  repeat' first
    | with_reducible assumption
    | with_reducible apply State.tileReadAll_keeps
    | with_reducible refine keeps_foldl (fun t x ht => ?_) ?_

theorem State.elemwise_keeps {z : Frame} {s : State} (h : Keeps z s) (c : ICtx) :
    Keeps z (State.elemwise s c) := by
  unfold State.elemwise
  repeat' first
    | with_reducible assumption
    | with_reducible apply State.icRead_keeps
    | with_reducible apply State.icResults_keeps

theorem State.fillOp_keeps {z : Frame} {s : State} (h : Keeps z s) (c : ICtx) :
    Keeps z (State.fillOp s c) := by
  unfold State.fillOp
  repeat' first
    | with_reducible assumption
    | with_reducible apply State.tileWrite_keeps

theorem State.gatherOp_keeps {z : Frame} {s : State} (h : Keeps z s) (c : ICtx) :
    Keeps z (State.gatherOp s c) := by
  unfold State.gatherOp
  repeat' first
    | with_reducible assumption
    | with_reducible apply State.icRead_keeps
    | with_reducible apply State.tileWrite_keeps
    | with_reducible apply State.tileRead_keeps
    | with_reducible apply State.tileBound_keeps
    | with_reducible refine keeps_foldl (fun t x ht => ?_) ?_

theorem State.scatterOp_keeps {z : Frame} {s : State} (h : Keeps z s) (c : ICtx) :
    Keeps z (State.scatterOp s c) := by
  unfold State.scatterOp
  repeat' first
    | with_reducible assumption
    | with_reducible apply State.icRead_keeps
    | with_reducible apply State.icResults_keeps
    | with_reducible apply State.tileWrite_keeps
    | with_reducible apply State.tilePoison_keeps
    | with_reducible apply State.tileRead_keeps
    | with_reducible apply State.tileBound_keeps
    | with_reducible refine keeps_foldl (fun t x ht => ?_) ?_
    | with_reducible refine keeps_foldl_1 (fun t x ht => ?_) ?_
    | with_reducible refine keeps_foldl_2 (fun t x ht => ?_) ?_
    | with_reducible refine keeps_foldl_3 (fun t x ht => ?_) ?_
    | split
    | dsimp only

theorem State.mmaOp_keeps {z : Frame} {s : State} (h : Keeps z s) (c : ICtx) :
    Keeps z (State.mmaOp s c) := by
  unfold State.mmaOp
  repeat' first
    | with_reducible assumption
    | with_reducible apply State.icResults_keeps
    | with_reducible apply State.tileReadAll_keeps
    | with_reducible apply State.tileReadSome_keeps
    | with_reducible refine keeps_foldl (fun t x ht => ?_) ?_
    | with_reducible refine keeps_foldl_1 (fun t x ht => ?_) ?_
    | with_reducible refine keeps_foldl_2 (fun t x ht => ?_) ?_
    | with_reducible refine keeps_foldl_3 (fun t x ht => ?_) ?_
    | split
    | dsimp only

theorem State.rowRed_keeps {z : Frame} {s : State} (h : Keeps z s) (c : ICtx) :
    Keeps z (State.rowRed s c) := by
  unfold State.rowRed
  repeat' first
    | with_reducible assumption
    | with_reducible apply State.icRead_keeps
    | with_reducible apply State.icResults_keeps

theorem State.insnData_keeps {z : Frame} {s : State} (h : Keeps z s) (c : ICtx) :
    Keeps z (State.insnData s c) := by
  unfold State.insnData
  repeat' first
    | with_reducible assumption
    | with_reducible apply State.rowRed_keeps
    | with_reducible apply State.mmaOp_keeps
    | with_reducible apply State.scatterOp_keeps
    | with_reducible apply State.gatherOp_keeps
    | with_reducible apply State.fillOp_keeps
    | with_reducible apply State.elemwise_keeps
    | with_reducible apply State.fp64Denied_keeps
    | split
    | dsimp only

end Sys2Proof.Machine
end

