-- ==== Sys2Proof/Laws/KeepsRaces.lean ====
section
/-! SUPPORT. What the operations of Races.lean keep (Keeps). -/

namespace Sys2Proof.Machine

open Sys2Proof

theorem State.raceOpen_keeps {z : Frame} {s : State} (h : Keeps z s) (c : ICtx) :
    Keeps z (State.raceOpen s c) := by
  unfold State.raceOpen
  repeat' first
    | with_reducible assumption
    | with_reducible apply State.poke_keeps
    | with_reducible refine keeps_foldl (fun t x ht => ?_) ?_
    | with_reducible refine keeps_foldl_1 (fun t x ht => ?_) ?_
    | with_reducible refine keeps_foldl_2 (fun t x ht => ?_) ?_
    | with_reducible refine keeps_foldl_3 (fun t x ht => ?_) ?_
    | split
    | dsimp only

end Sys2Proof.Machine
end

