-- ==== Sys2Proof/Laws/KeepsSpotCheck.lean ====
section
/-! SUPPORT. What the operations of SpotCheck.lean keep (Keeps). -/

namespace Sys2Proof.Machine

open Sys2Proof

theorem State.setSpot_keeps {z : Frame} {s : State} (h : Keeps z s) (i : Nat) (x : Spot) :
    Keeps z (State.setSpot s i x) := by
  unfold State.setSpot
  repeat' first
    | with_reducible assumption
    | with_reducible apply State.put_keeps
    | dsimp only
    | with_reducible apply keepsOf_eta
    | with_reducible apply keeps_mk

theorem State.spotArmOne_keeps {z : Frame} {s : State} (h : Keeps z s) (n c : Nat) :
    Keeps z (State.spotArmOne s n c) := by
  unfold State.spotArmOne
  repeat' first
    | with_reducible assumption
    | with_reducible apply State.setSpot_keeps
    | split

theorem State.spotArm_keeps {z : Frame} {s : State} (h : Keeps z s) :
    Keeps z (State.spotArm s) := by
  unfold State.spotArm
  repeat' first
    | with_reducible assumption
    | with_reducible apply State.spotArmOne_keeps
    | with_reducible refine keeps_foldl (fun t x ht => ?_) ?_
    | split
    | dsimp only

theorem State.spotSample_keeps {z : Frame} {s : State} (h : Keeps z s) (g : Nat) (m : List Byte) :
    Keeps z (State.spotSample s g m) := by
  unfold State.spotSample
  repeat' first
    | with_reducible assumption
    | with_reducible apply State.setSpot_keeps
    | split
    | dsimp only

theorem State.spotLoad_keeps {z : Frame} {s : State} (h : Keeps z s) (g : Nat) :
    Keeps z (State.spotLoad s g) := by
  unfold State.spotLoad
  repeat' first
    | with_reducible assumption
    | with_reducible apply State.setSpot_keeps
    | split
    | dsimp only

theorem State.spotCapture_keeps {z : Frame} {s : State} (h : Keeps z s) (c : ICtx) :
    Keeps z (State.spotCapture s c) := by
  unfold State.spotCapture
  repeat' first
    | with_reducible assumption
    | with_reducible apply State.setSpot_keeps
    | split

end Sys2Proof.Machine
end

