-- ==== Sys2Proof/Laws/KeepsTileRun.lean ====
section
/-! SUPPORT. What the operations of TileRun.lean keep (Keeps). -/

namespace Sys2Proof.Machine

open Sys2Proof

theorem State.insnDone_keeps {z : Frame} {s : State} (h : Keeps z s) (g i : Nat) :
    Keeps z (State.insnDone s g i) := by
  unfold State.insnDone
  repeat' first
    | with_reducible assumption
    | with_reducible apply State.setTile_keeps
    | split
    | dsimp only

theorem State.insnRun_keeps {z : Frame} {s : State} (h : Keeps z s) (g i op : Nat) (f : State → ICtx → State)
    (hf : ∀ t c, Keeps z t → Keeps z (f t c)) : Keeps z (State.insnRun s g i op f) := by
  unfold State.insnRun
  split
  · exact State.insnDone_keeps (hf _ _ h) _ _
  · exact h

theorem State.flagInc_keeps {z : Frame} {s : State} (h : Keeps z s) (g f : Nat) :
    Keeps z (State.flagInc s g f) := by
  unfold State.flagInc
  repeat' first
    | with_reducible assumption
    | with_reducible apply State.setTile_keeps

theorem State.waitDone_keeps {z : Frame} {s : State} (h : Keeps z s) (g q : Nat) :
    Keeps z (State.waitDone s g q) := by
  unfold State.waitDone
  repeat' first
    | with_reducible assumption
    | with_reducible apply State.setTile_keeps
    | split
    | dsimp only

theorem State.waitBegin_keeps {z : Frame} {s : State} (h : Keeps z s) (c : ICtx) (need : Nat) :
    Keeps z (State.waitBegin s c need) := by
  unfold State.waitBegin
  repeat' first
    | with_reducible assumption
    | with_reducible apply State.waitDone_keeps
    | with_reducible apply State.setTile_keeps

theorem State.flagSet_keeps {z : Frame} {s : State} (h : Keeps z s) (g i : Nat) :
    Keeps z (State.flagSet s g i) := by
  unfold State.flagSet
  repeat' first
    | with_reducible assumption
    | with_reducible apply State.flagInc_keeps
    | with_reducible apply State.insnRun_keeps
    | intro _

theorem State.flagWait_keeps {z : Frame} {s : State} (h : Keeps z s) (g i : Nat) :
    Keeps z (State.flagWait s g i) := by
  unfold State.flagWait
  repeat' first
    | with_reducible assumption
    | with_reducible apply State.waitBegin_keeps
    | split

theorem State.flagWaitv_keeps {z : Frame} {s : State} (h : Keeps z s) (g i : Nat) :
    Keeps z (State.flagWaitv s g i) := by
  unfold State.flagWaitv
  repeat' first
    | with_reducible assumption
    | with_reducible apply State.waitBegin_keeps
    | with_reducible apply State.insnDone_keeps
    | with_reducible apply State.tileTouch_keeps
    | with_reducible apply State.tileBound_keeps
    | split
    | dsimp only

theorem State.landLine_keeps {z : Frame} {s : State} (h : Keeps z s) (sid j o a n line : Nat) :
    Keeps z (State.landLine s sid j o a n line) := by
  unfold State.landLine
  repeat' first
    | with_reducible assumption
    | with_reducible apply State.store_keeps
    | with_reducible apply State.poisonLine_keeps
    | split
    | dsimp only

theorem State.landChunk_keeps {z : Frame} {s : State} (h : Keeps z s) (sid j : Nat) :
    Keeps z (State.landChunk s sid j) := by
  unfold State.landChunk
  repeat' first
    | with_reducible assumption
    | with_reducible apply State.landLine_keeps
    | with_reducible refine keeps_foldl (fun t x ht => ?_) ?_
    | with_reducible refine keeps_foldl_1 (fun t x ht => ?_) ?_
    | with_reducible refine keeps_foldl_2 (fun t x ht => ?_) ?_
    | with_reducible refine keeps_foldl_3 (fun t x ht => ?_) ?_
    | split
    | dsimp only

theorem State.applyAflag_keeps {z : Frame} {s : State} (h : Keeps z s) (sid : Nat) :
    Keeps z (State.applyAflag s sid) := by
  unfold State.applyAflag
  repeat' first
    | with_reducible assumption
    | with_reducible apply State.flagInc_keeps
    | with_reducible apply State.setTile_keeps
    | with_reducible refine keeps_foldl (fun t x ht => ?_) ?_
    | split
    | dsimp only

theorem State.consumeLand_keeps {z : Frame} {s : State} (h : Keeps z s) (link sid o : Nat) :
    Keeps z (State.consumeLand s link sid o) := by
  unfold State.consumeLand
  repeat' first
    | with_reducible assumption
    | with_reducible apply State.applyAflag_keeps
    | with_reducible apply State.landChunk_keeps
    | with_reducible apply State.consume_keeps
    | split
    | dsimp only

theorem State.consumeAll_keeps {z : Frame} {s : State} (h : Keeps z s) :
    Keeps z (State.consumeAll s) := by
  unfold State.consumeAll
  repeat' first
    | with_reducible assumption
    | with_reducible apply State.consumeLand_keeps
    | with_reducible refine keeps_foldl (fun t x ht => ?_) ?_
    | split

theorem State.sendOut_keeps {z : Frame} {s : State} (h : Keeps z s) (g : Nat) (m : List Byte) (b : Nat × TBind) :
    Keeps z (State.sendOut s g m b) := by
  unfold State.sendOut
  repeat' first
    | with_reducible assumption
    | with_reducible apply State.stage_keeps
    | with_reducible apply State.tileTouch_keeps
    | with_reducible apply State.encodeOut_keeps
    | with_reducible apply State.bump_keeps
    | with_reducible refine keeps_foldl (fun t x ht => ?_) ?_
    | with_reducible refine keeps_foldl_1 (fun t x ht => ?_) ?_
    | with_reducible refine keeps_foldl_2 (fun t x ht => ?_) ?_
    | with_reducible refine keeps_foldl_3 (fun t x ht => ?_) ?_
    | split
    | dsimp only

theorem State.countOut_keeps {z : Frame} {s : State} (h : Keeps z s) (p : PlanTick) :
    Keeps z (State.countOut s p) := by
  unfold State.countOut
  repeat' first
    | with_reducible assumption
    | with_reducible apply State.poisonOut_keeps
    | with_reducible refine keeps_foldl (fun t x ht => ?_) ?_
    | with_reducible refine keeps_foldl_1 (fun t x ht => ?_) ?_
    | with_reducible refine keeps_foldl_2 (fun t x ht => ?_) ?_
    | with_reducible refine keeps_foldl_3 (fun t x ht => ?_) ?_
    | split
    | dsimp only

theorem State.imemWrite_keeps {z : Frame} {s : State} (h : Keeps z s) (g : Nat) (lantern : Bool) (v : Nat) :
    Keeps z (State.imemWrite s g lantern v) := by
  unfold State.imemWrite
  repeat' first
    | with_reducible assumption
    | with_reducible apply State.setTile_keeps
    | with_reducible apply State.poke_keeps
    | with_reducible apply State.err_keeps
    | with_reducible apply State.put_keeps
    | split

theorem State.imemPerform_keeps {z : Frame} {s : State} (h : Keeps z s) (g : Nat) (lantern : Bool) (v : Nat) :
    Keeps z (State.imemPerform s g lantern v) := by
  unfold State.imemPerform
  repeat' first
    | with_reducible assumption
    | with_reducible apply State.imemWrite_keeps
    | with_reducible apply State.emit_keeps
    | split
    | dsimp only

theorem State.imemHold_keeps {z : Frame} {s : State} (h : Keeps z s) (g off v : Nat) :
    Keeps z (State.imemHold s g off v) := by
  unfold State.imemHold
  repeat' first
    | with_reducible assumption
    | with_reducible apply State.setTile_keeps
    | split
    | dsimp only

theorem State.imemTurn_keeps {z : Frame} {s : State} (h : Keeps z s) (g : Nat) (x : Nat × Nat) :
    Keeps z (State.imemTurn s g x) := by
  unfold State.imemTurn
  repeat' first
    | with_reducible assumption
    | with_reducible apply State.imemPerform_keeps
    | with_reducible apply State.put_keeps
    | split
    | dsimp only

theorem State.imemRelease_keeps {z : Frame} {s : State} (h : Keeps z s) (g : Nat) :
    Keeps z (State.imemRelease s g) := by
  unfold State.imemRelease
  repeat' first
    | with_reducible assumption
    | with_reducible apply State.imemTurn_keeps
    | with_reducible apply State.setTile_keeps
    | with_reducible refine keeps_foldl (fun t x ht => ?_) ?_
    | split
    | dsimp only

theorem State.bodyComplete_keeps {z : Frame} {s : State} (h : Keeps z s) (g : Nat) :
    Keeps z (State.bodyComplete s g) := by
  unfold State.bodyComplete
  repeat' first
    | with_reducible assumption
    | with_reducible apply State.imemRelease_keeps
    | with_reducible apply State.sendOut_keeps
    | with_reducible apply State.wr_keeps
    | with_reducible apply State.spotLoad_keeps
    | with_reducible apply State.setTile_keeps
    | with_reducible refine keeps_foldl (fun t x ht => ?_) ?_
    | with_reducible refine keeps_foldl_1 (fun t x ht => ?_) ?_
    | with_reducible refine keeps_foldl_2 (fun t x ht => ?_) ?_
    | with_reducible refine keeps_foldl_3 (fun t x ht => ?_) ?_
    | split
    | dsimp only

theorem State.fwRecord_keeps {z : Frame} {s : State} (h : Keeps z s) (g : Nat) (m : List Byte) :
    Keeps z (State.fwRecord s g m) := by
  unfold State.fwRecord
  repeat' first
    | with_reducible assumption
    | with_reducible apply State.wrs_keeps
    | with_reducible apply State.wri_keeps
    | with_reducible apply State.again_keeps
    | with_reducible refine keeps_foldl (fun t x ht => ?_) ?_
    | with_reducible refine keeps_foldl_1 (fun t x ht => ?_) ?_
    | with_reducible refine keeps_foldl_2 (fun t x ht => ?_) ?_
    | with_reducible refine keeps_foldl_3 (fun t x ht => ?_) ?_
    | split
    | dsimp only

theorem State.bodyAbandon_keeps {z : Frame} {s : State} (h : Keeps z s) (g : Nat) :
    Keeps z (State.bodyAbandon s g) := by
  unfold State.bodyAbandon
  repeat' first
    | with_reducible assumption
    | with_reducible apply State.fwRecord_keeps
    | with_reducible apply State.err_keeps
    | with_reducible apply State.wr_keeps
    | with_reducible apply State.spotLoad_keeps
    | with_reducible apply State.overrun_keeps
    | with_reducible apply State.setTile_keeps
    | split
    | dsimp only

theorem State.serviceStart_keeps {z : Frame} {s : State} (h : Keeps z s) (g : Nat) :
    Keeps z (State.serviceStart s g) := by
  unfold State.serviceStart
  repeat' first
    | with_reducible assumption
    | with_reducible apply State.wr_keeps
    | with_reducible apply State.setTile_keeps
    | split
    | dsimp only

theorem State.serviceBodies_keeps {z : Frame} {s : State} (h : Keeps z s) :
    Keeps z (State.serviceBodies s) := by
  unfold State.serviceBodies
  repeat' first
    | with_reducible assumption
    | with_reducible apply State.serviceStart_keeps
    | with_reducible refine keeps_foldl (fun t x ht => ?_) ?_
    | split
    | dsimp only

theorem State.tileEnd_keeps {z : Frame} {s : State} (h : Keeps z s) (g : Nat) :
    Keeps z (State.tileEnd s g) := by
  unfold State.tileEnd
  repeat' first
    | with_reducible assumption
    | with_reducible apply State.bodyAbandon_keeps
    | with_reducible apply State.bodyComplete_keeps
    | with_reducible apply State.imemRelease_keeps
    | with_reducible apply State.wr_keeps
    | with_reducible apply State.setTile_keeps
    | split
    | dsimp only

theorem State.bodyIssue_keeps {z : Frame} {s : State} (h : Keeps z s) (g : Nat) :
    Keeps z (State.bodyIssue s g) := by
  unfold State.bodyIssue
  repeat' first
    | with_reducible assumption
    | with_reducible apply State.wrs_keeps
    | with_reducible apply State.setTile_keeps
    | split
    | dsimp only

theorem State.bankSwap_keeps {z : Frame} {s : State} (h : Keeps z s) (g : Nat) :
    Keeps z (State.bankSwap s g) := by
  unfold State.bankSwap
  repeat' first
    | with_reducible assumption
    | with_reducible apply State.wr_keeps
    | with_reducible apply State.setTile_keeps
    | split
    | dsimp only

theorem State.prefetch_keeps {z : Frame} {s : State} (h : Keeps z s) (g : Nat) :
    Keeps z (State.prefetch s g) := by
  unfold State.prefetch
  repeat' first
    | with_reducible assumption
    | with_reducible apply State.setTile_keeps
    | split
    | dsimp only

theorem State.prefetchAll_keeps {z : Frame} {s : State} (h : Keeps z s) :
    Keeps z (State.prefetchAll s) := by
  unfold State.prefetchAll
  repeat' first
    | with_reducible assumption
    | with_reducible apply State.prefetch_keeps
    | with_reducible refine keeps_foldl (fun t x ht => ?_) ?_

theorem State.tileStart_keeps {z : Frame} {s : State} (h : Keeps z s) (g : Nat) :
    Keeps z (State.tileStart s g) := by
  unfold State.tileStart
  repeat' first
    | with_reducible assumption
    | with_reducible apply State.bankSwap_keeps
    | with_reducible apply State.bodyIssue_keeps
    | with_reducible apply State.spotSample_keeps
    | with_reducible apply State.setTile_keeps
    | split
    | dsimp only

theorem State.prefetchDone_keeps {z : Frame} {s : State} (h : Keeps z s) (g : Nat) :
    Keeps z (State.prefetchDone s g) := by
  unfold State.prefetchDone
  repeat' first
    | with_reducible assumption
    | with_reducible apply State.prefetch_keeps
    | with_reducible apply State.bankSwap_keeps
    | with_reducible apply State.bodyIssue_keeps
    | with_reducible apply State.err_keeps
    | with_reducible apply State.bump_keeps
    | with_reducible apply State.setTile_keeps
    | split
    | dsimp only

theorem State.prefetchDue_keeps {z : Frame} {s : State} (h : Keeps z s) (g : Nat) :
    Keeps z (State.prefetchDue s g) := by
  unfold State.prefetchDue
  repeat' first
    | with_reducible assumption
    | with_reducible apply State.prefetchDone_keeps
    | split
    | dsimp only

theorem State.dataInsn_keeps {z : Frame} {s : State} (h : Keeps z s) (g i op : Nat) :
    Keeps z (State.dataInsn s g i op) := by
  unfold State.dataInsn
  repeat' first
    | with_reducible assumption
    | with_reducible apply State.insnRun_keeps
    | with_reducible apply State.insnData_keeps
    | with_reducible apply State.raceOpen_keeps
    | with_reducible apply State.spotCapture_keeps
    | intro _
    | split
    | dsimp only

theorem State.fence_keeps {z : Frame} {s : State} (h : Keeps z s) (g i op : Nat) :
    Keeps z (State.fence s g i op) := by
  unfold State.fence
  repeat' first
    | with_reducible assumption
    | with_reducible apply State.insnRun_keeps
    | intro _

end Sys2Proof.Machine
end

