-- ==== Sys2Proof/Laws/KeepsLibrary.lean ====
section
/-! SUPPORT. What the operations of Library.lean keep (Keeps). -/

namespace Sys2Proof.Machine

open Sys2Proof

theorem State.libWrite_keeps {z : Frame} {s : State} (h : Keeps z s) (c : ICtx) (fx : Fx) (rows : List TRow) :
    Keeps z (State.libWrite s c fx rows) := by
  unfold State.libWrite
  repeat' first
    | with_reducible assumption
    | with_reducible apply State.tileWrite_keeps
    | with_reducible apply State.arith_keeps

theorem State.libSort_keeps {z : Frame} {s : State} (h : Keeps z s) (c : ICtx) :
    Keeps z (State.libSort s c) := by
  unfold State.libSort
  repeat' first
    | with_reducible assumption
    | with_reducible apply State.libWrite_keeps
    | with_reducible apply State.icRead_keeps

theorem State.libTopk_keeps {z : Frame} {s : State} (h : Keeps z s) (c : ICtx) :
    Keeps z (State.libTopk s c) := by
  unfold State.libTopk
  repeat' first
    | with_reducible assumption
    | with_reducible apply State.libWrite_keeps
    | with_reducible apply State.icRead_keeps
    | with_reducible apply State.tileWrite_keeps
    | split

theorem State.libRound_keeps {z : Frame} {s : State} (h : Keeps z s) (c : ICtx) (pre : Fx) (rows : List (Nat × List TVal)) :
    Keeps z (State.libRound s c pre rows) := by
  unfold State.libRound
  repeat' first
    | with_reducible assumption
    | with_reducible apply State.libWrite_keeps

theorem State.libSoftmax_keeps {z : Frame} {s : State} (h : Keeps z s) (c : ICtx) :
    Keeps z (State.libSoftmax s c) := by
  unfold State.libSoftmax
  repeat' first
    | with_reducible assumption
    | with_reducible apply State.libRound_keeps
    | with_reducible apply State.icRead_keeps

theorem State.libAttnPartial_keeps {z : Frame} {s : State} (h : Keeps z s) (c : ICtx) :
    Keeps z (State.libAttnPartial s c) := by
  unfold State.libAttnPartial
  repeat' first
    | with_reducible assumption
    | with_reducible apply State.libWrite_keeps
    | with_reducible apply State.tileTouch_keeps
    | with_reducible apply State.icRead_keeps
    | with_reducible apply State.tileBound_keeps
    | with_reducible refine keeps_foldl (fun t x ht => ?_) ?_
    | with_reducible refine keeps_foldl_1 (fun t x ht => ?_) ?_
    | with_reducible refine keeps_foldl_2 (fun t x ht => ?_) ?_
    | with_reducible refine keeps_foldl_3 (fun t x ht => ?_) ?_
    | split
    | dsimp only

theorem State.libAttnMerge_keeps {z : Frame} {s : State} (h : Keeps z s) (c : ICtx) :
    Keeps z (State.libAttnMerge s c) := by
  unfold State.libAttnMerge
  repeat' first
    | with_reducible assumption
    | with_reducible apply State.libRound_keeps
    | with_reducible apply State.icRead_keeps

theorem State.libScan_keeps {z : Frame} {s : State} (h : Keeps z s) (c : ICtx) :
    Keeps z (State.libScan s c) := by
  unfold State.libScan
  repeat' first
    | with_reducible assumption
    | with_reducible apply State.libRound_keeps
    | with_reducible apply State.icRead_keeps

theorem State.libHistogram_keeps {z : Frame} {s : State} (h : Keeps z s) (c : ICtx) :
    Keeps z (State.libHistogram s c) := by
  unfold State.libHistogram
  repeat' first
    | with_reducible assumption
    | with_reducible apply State.libWrite_keeps
    | with_reducible apply State.icRead_keeps
    | with_reducible apply State.tileBound_keeps
    | with_reducible refine keeps_foldl (fun t x ht => ?_) ?_
    | split
    | dsimp only

theorem State.libFilter_keeps {z : Frame} {s : State} (h : Keeps z s) (c : ICtx) :
    Keeps z (State.libFilter s c) := by
  unfold State.libFilter
  repeat' first
    | with_reducible assumption
    | with_reducible apply State.libWrite_keeps
    | with_reducible apply State.icRead_keeps
    | with_reducible apply State.tileBound_keeps
    | with_reducible refine keeps_foldl (fun t x ht => ?_) ?_

theorem State.callRun_keeps {z : Frame} {s : State} (h : Keeps z s) (g i id : Nat) (f : State → ICtx → State)
    (hf : ∀ t c, Keeps z t → Keeps z (f t c)) : Keeps z (State.callRun s g i id f) := by
  unfold State.callRun
  split
  · split
    · exact State.insnDone_keeps (hf _ _ h) _ _
    · exact h
  · exact h

end Sys2Proof.Machine
end

