-- ==== Sys2Proof/Laws/KeepsOpenPlane.lean ====
section
/-! SUPPORT. What the operations of OpenPlane.lean keep (Keeps). -/

namespace Sys2Proof.Machine

open Sys2Proof

theorem State.noteSwitched_keeps {z : Frame} {s : State} (h : Keeps z s) (l vc : Nat) (f : Flit) :
    Keeps z (State.noteSwitched s l vc f) := by
  unfold State.noteSwitched
  repeat' first
    | with_reducible assumption
    | with_reducible apply State.setOpn_keeps
    | split
    | dsimp only

theorem State.switchLost_keeps {z : Frame} {s : State} (h : Keeps z s) (l vc : Nat) (f : Flit) :
    Keeps z (State.switchLost s l vc f) := by
  unfold State.switchLost
  repeat' first
    | with_reducible assumption
    | with_reducible apply State.fwdPoison_keeps
    | with_reducible apply State.returnCredit_keeps
    | with_reducible apply State.setOpn_keeps
    | split
    | dsimp only

theorem State.ingressSwitch_keeps {z : Frame} {s : State} (h : Keeps z s) (l vc : Nat) :
    Keeps z (State.ingressSwitch s l vc) := by
  unfold State.ingressSwitch
  repeat' first
    | with_reducible assumption
    | with_reducible apply State.switchLost_keeps
    | with_reducible apply State.noteSwitched_keeps
    | with_reducible apply State.ageDiscard_keeps
    | with_reducible apply State.forward_keeps
    | with_reducible apply State.err_keeps
    | with_reducible apply State.returnCredit_keeps
    | with_reducible apply State.setOpn_keeps
    | with_reducible apply State.flitRead_keeps
    | with_reducible apply State.bump_keeps
    | with_reducible apply State.headerDiscard_keeps
    | with_reducible refine State.flitRead_next_keeps ?_ (by assumption)
    | split
    | dsimp only

theorem State.ovfWrite_keeps {z : Frame} {s : State} (h : Keeps z s) (k v : Nat) :
    Keeps z (State.ovfWrite s k v) := by
  unfold State.ovfWrite
  repeat' first
    | with_reducible assumption
    | with_reducible apply State.err_keeps
    | with_reducible apply State.put_keeps
    | with_reducible refine keeps_foldl (fun t x ht => ?_) ?_
    | split
    | dsimp only

theorem State.holdFull_keeps {z : Frame} {s : State} (h : Keeps z s) (k : Nat) (r : Ready) :
    Keeps z (State.holdFull s k r) := by
  unfold State.holdFull
  repeat' first
    | with_reducible assumption
    | with_reducible apply State.err_keeps
    | with_reducible apply State.setOpn_keeps
    | with_reducible apply State.bump_keeps
    | split
    | dsimp only

theorem State.enqueue_keeps {z : Frame} {s : State} (h : Keeps z s) (k o vc : Nat) (r : Ready) (f : Option Flit) :
    Keeps z (State.enqueue s k o vc r f) := by
  unfold State.enqueue
  repeat' first
    | with_reducible assumption
    | with_reducible apply State.fwdPoison_keeps
    | with_reducible apply State.setQueue_keeps
    | with_reducible apply State.bump_keeps
    | split
    | dsimp only

theorem State.egressAdmit_keeps {z : Frame} {s : State} (h : Keeps z s) (k o vc : Nat) (src : QSource) :
    Keeps z (State.egressAdmit s k o vc src) := by
  unfold State.egressAdmit
  repeat' first
    | with_reducible assumption
    | with_reducible apply State.enqueue_keeps
    | with_reducible apply State.holdFull_keeps
    | with_reducible apply State.returnCredit_keeps
    | with_reducible apply State.wakeBank_keeps
    | with_reducible apply State.setOpn_keeps
    | with_reducible apply State.flitRead_keeps
    | with_reducible refine State.flitRead_next_keeps ?_ (by assumption)
    | split
    | dsimp only

theorem State.spillWrite_keeps {z : Frame} {s : State} (h : Keeps z s) (k o vc : Nat) :
    Keeps z (State.spillWrite s k o vc) := by
  unfold State.spillWrite
  repeat' first
    | with_reducible assumption
    | with_reducible apply State.store_keeps
    | with_reducible apply State.countLeft_keeps
    | with_reducible apply State.setQueue_keeps
    | with_reducible apply State.flitRead_keeps
    | with_reducible apply State.bump_keeps
    | with_reducible apply State.wakeDom_keeps
    | with_reducible refine State.flitRead_next_keeps ?_ (by assumption)
    | split
    | dsimp only

theorem State.spillUe_keeps {z : Frame} {s : State} (h : Keeps z s) (k place : Nat) :
    Keeps z (State.spillUe s k place) := by
  unfold State.spillUe
  repeat' first
    | with_reducible assumption
    | with_reducible apply State.err_keeps
    | with_reducible apply State.bump_keeps
    | with_reducible apply State.ueLine_keeps
    | split
    | dsimp only

theorem State.spillReadback_keeps {z : Frame} {s : State} (h : Keeps z s) (k o vc : Nat) (ecc : SpillEcc) :
    Keeps z (State.spillReadback s k o vc ecc) := by
  unfold State.spillReadback
  repeat' first
    | with_reducible assumption
    | with_reducible apply State.spillUe_keeps
    | with_reducible apply State.ageDiscard_keeps
    | with_reducible apply State.countLeft_keeps
    | with_reducible apply State.setQueue_keeps
    | with_reducible apply State.noteCorrected_keeps
    | split
    | dsimp only

theorem State.sendOnLink_keeps {z : Frame} {s : State} (h : Keeps z s) (l vc : Nat) (f : Flit) :
    Keeps z (State.sendOnLink s l vc f) := by
  unfold State.sendOnLink
  repeat' first
    | with_reducible assumption
    | with_reducible apply State.sendFlit_keeps
    | with_reducible apply State.setCred_keeps
    | split
    | dsimp only

theorem State.endpointReply_keeps {z : Frame} {s : State} (h : Keeps z s) (n vc : Nat) (f : Flit) :
    Keeps z (State.endpointReply s n vc f) := by
  unfold State.endpointReply
  repeat' first
    | with_reducible assumption
    | with_reducible apply State.sendOnLink_keeps
    | with_reducible apply State.bump_keeps
    | split
    | dsimp only
    | with_reducible apply keepsOf_eta
    | with_reducible apply keeps_mk

theorem State.sendHead_keeps {z : Frame} {s : State} (h : Keeps z s) (k o vc : Nat) :
    Keeps z (State.sendHead s k o vc) := by
  unfold State.sendHead
  repeat' first
    | with_reducible assumption
    | with_reducible apply State.endpointReply_keeps
    | with_reducible apply State.sendOnLink_keeps
    | with_reducible apply State.ageDiscard_keeps
    | with_reducible apply State.countLeft_keeps
    | with_reducible apply State.setQueue_keeps
    | with_reducible apply State.flitRead_keeps
    | with_reducible apply State.deliver_keeps
    | with_reducible apply State.headerDiscard_keeps
    | with_reducible refine State.flitRead_next_keeps ?_ (by assumption)
    | split
    | dsimp only

theorem State.mergeSend_keeps {z : Frame} {s : State} (h : Keeps z s) (k o : Nat) :
    Keeps z (State.mergeSend s k o) := by
  unfold State.mergeSend
  repeat' first
    | with_reducible assumption
    | with_reducible apply State.sendHead_keeps
    | with_reducible apply State.setOpn_keeps
    | split
    | dsimp only

theorem State.egressSend_keeps {z : Frame} {s : State} (h : Keeps z s) (k o : Nat) :
    Keeps z (State.egressSend s k o) := by
  unfold State.egressSend
  repeat' first
    | with_reducible assumption
    | with_reducible apply State.mergeSend_keeps
    | with_reducible apply State.sendMessage_keeps
    | split
    | dsimp only

end Sys2Proof.Machine
end

