-- ==== Sys2Proof/Laws/KeepsUpdateEngine.lean ====
section
/-! SUPPORT. What the operations of UpdateEngine.lean keep (Keeps). -/

namespace Sys2Proof.Machine

open Sys2Proof

theorem State.ueRead_keeps {z : Frame} {s : State} (h : Keeps z s) (x : UCtx) (loc n : Nat) :
    Keeps z (State.ueRead s x loc n) := by
  unfold State.ueRead
  repeat' first
    | with_reducible assumption
    | with_reducible apply State.dmaRead_keeps
    | split

theorem State.uePoison_keeps {z : Frame} {s : State} (h : Keeps z s) (x : UCtx) (n : Nat) :
    Keeps z (State.uePoison s x n) := by
  unfold State.uePoison
  repeat' first
    | with_reducible assumption
    | with_reducible apply State.err_keeps
    | with_reducible apply State.bump_keeps
    | split

theorem State.ueCell_keeps {z : Frame} {s : State} (h : Keeps z s) (x : UCtx) (va : Nat) :
    Keeps z (State.ueCell s x va) := by
  unfold State.ueCell
  repeat' first
    | with_reducible assumption
    | with_reducible apply State.uePoison_keeps
    | with_reducible apply State.planPoison_keeps
    | with_reducible apply State.planWrite_keeps
    | split

theorem State.shardRecord_keeps {z : Frame} {s : State} (h : Keeps z s) (x : UCtx) (kind e : Nat) (dirty : Bool) (hdr
    tag : Nat) :
    Keeps z (State.shardRecord s x kind e dirty hdr tag) := by
  unfold State.shardRecord
  repeat' first
    | with_reducible assumption
    | with_reducible apply State.wrs_keeps
    | with_reducible apply State.again_keeps
    | split
    | dsimp only

theorem State.ueClass_keeps {z : Frame} {s : State} (h : Keeps z s) (x : UCtx) (e : Nat) :
    Keeps z (State.ueClass s x e).1 := by
  unfold State.ueClass
  repeat' first
    | with_reducible assumption
    | with_reducible apply State.shardRecord_keeps
    | with_reducible apply State.ueRead_keeps
    | with_reducible apply State.tickFault_keeps
    | with_reducible apply State.err_keeps
    | with_reducible apply State.bump_keeps
    | split
    | dsimp only

theorem State.ueSetStep_keeps {z : Frame} {s : State} (h : Keeps z s) (x : UCtx) (n : Nat) :
    Keeps z (State.ueSetStep s x n) := by
  unfold State.ueSetStep
  repeat' first
    | with_reducible assumption
    | with_reducible apply State.wr_keeps
    | with_reducible apply State.put_keeps
    | dsimp only
    | with_reducible apply keepsOf_eta
    | with_reducible apply keeps_mk

theorem State.ueEnd_keeps {z : Frame} {s : State} (h : Keeps z s) (x : UCtx) :
    Keeps z (State.ueEnd s x) := by
  unfold State.ueEnd
  repeat' first
    | with_reducible assumption
    | with_reducible apply State.setRun_keeps

theorem State.normPart_keeps {z : Frame} {s : State} (h : Keeps z s) (x : UCtx) (e a b : Nat) :
    Keeps z (State.normPart s x e a b).1 := by
  unfold State.normPart
  repeat' first
    | with_reducible assumption
    | with_reducible apply State.ueRead_keeps
    | with_reducible apply State.err_keeps
    | with_reducible apply State.arith_keeps
    | with_reducible apply State.residue_keeps
    | with_reducible refine keeps_foldl (fun t x ht => ?_) ?_
    | with_reducible refine keeps_foldl_1 (fun t x ht => ?_) ?_
    | with_reducible refine keeps_foldl_2 (fun t x ht => ?_) ?_
    | with_reducible refine keeps_foldl_3 (fun t x ht => ?_) ?_
    | split
    | dsimp only

theorem State.ueNorm_keeps {z : Frame} {s : State} (h : Keeps z s) (x : UCtx) :
    Keeps z (State.ueNorm s x) := by
  unfold State.ueNorm
  repeat' first
    | with_reducible assumption
    | with_reducible apply State.normPart_keeps
    | with_reducible apply State.ueEnd_keeps
    | with_reducible apply State.ueSetStep_keeps
    | with_reducible apply State.ueClass_keeps
    | with_reducible apply State.ueCell_keeps
    | with_reducible apply State.bump_keeps
    | with_reducible refine keeps_foldl (fun t x ht => ?_) ?_
    | with_reducible refine keeps_foldl_1 (fun t x ht => ?_) ?_
    | with_reducible refine keeps_foldl_2 (fun t x ht => ?_) ?_
    | with_reducible refine keeps_foldl_3 (fun t x ht => ?_) ?_
    | split
    | dsimp only

theorem State.foldOne_keeps {z : Frame} {s : State} (h : Keeps z s) (x : UCtx) (i : Nat) :
    Keeps z (State.foldOne s x i).1 := by
  unfold State.foldOne
  repeat' first
    | with_reducible assumption
    | with_reducible apply State.ueRead_keeps
    | with_reducible apply State.err_keeps
    | with_reducible apply State.arith_keeps
    | split
    | dsimp only

theorem State.ueFold_keeps {z : Frame} {s : State} (h : Keeps z s) (x : UCtx) :
    Keeps z (State.ueFold s x) := by
  unfold State.ueFold
  repeat' first
    | with_reducible assumption
    | with_reducible apply State.foldOne_keeps
    | with_reducible apply State.ueEnd_keeps
    | with_reducible apply State.ueCell_keeps
    | with_reducible refine keeps_foldl (fun t x ht => ?_) ?_
    | with_reducible refine keeps_foldl_1 (fun t x ht => ?_) ?_
    | with_reducible refine keeps_foldl_2 (fun t x ht => ?_) ?_
    | with_reducible refine keeps_foldl_3 (fun t x ht => ?_) ?_
    | split

theorem State.setDirty_keeps {z : Frame} {s : State} (h : Keeps z s) (loc : Nat) :
    Keeps z (State.setDirty s loc) := by
  unfold State.setDirty
  repeat' first
    | with_reducible assumption
    | with_reducible apply State.store_keeps
    | split
    | dsimp only

theorem State.headDone_keeps {z : Frame} {s : State} (h : Keeps z s) (loc b p n : Nat) :
    Keeps z (State.headDone s loc b p n) := by
  unfold State.headDone
  repeat' first
    | with_reducible assumption
    | with_reducible apply State.store_keeps
    | split
    | dsimp only

theorem State.ueStream_keeps {z : Frame} {s : State} (h : Keeps z s) (loc f a : Nat) (l : List (Nat × Bool)) :
    Keeps z (State.ueStream s loc f a l).1 := by
  unfold State.ueStream
  repeat' first
    | with_reducible assumption
    | with_reducible apply State.store_keeps
    | with_reducible apply State.poisonLine_keeps
    | with_reducible refine keeps_foldl (fun t x ht => ?_) ?_

theorem State.ueTorn_keeps {z : Frame} {s : State} (h : Keeps z s) (x : UCtx) (seg : Nat) :
    Keeps z (State.ueTorn s x seg) := by
  unfold State.ueTorn
  repeat' first
    | with_reducible assumption
    | with_reducible apply State.tickFault_keeps
    | with_reducible apply State.raise_keeps
    | with_reducible apply State.err_keeps
    | split
    | dsimp only

theorem State.applyPart_keeps {z : Frame} {s : State} (h : Keeps z s) (x : UCtx) (e a b tag : Nat) :
    Keeps z (State.applyPart s x e a b tag).1 := by
  unfold State.applyPart
  repeat' first
    | with_reducible assumption
    | with_reducible apply State.ueTorn_keeps
    | with_reducible apply State.ueStream_keeps
    | with_reducible apply State.headDone_keeps
    | with_reducible apply State.setDirty_keeps
    | with_reducible apply State.uePoison_keeps
    | with_reducible apply State.ueRead_keeps
    | with_reducible apply State.bump_keeps
    | with_reducible refine keeps_foldl (fun t x ht => ?_) ?_
    | with_reducible refine keeps_foldl_1 (fun t x ht => ?_) ?_
    | with_reducible refine keeps_foldl_2 (fun t x ht => ?_) ?_
    | with_reducible refine keeps_foldl_3 (fun t x ht => ?_) ?_
    | split
    | dsimp only

theorem State.applyBegin_keeps {z : Frame} {s : State} (h : Keeps z s) (x : UCtx) :
    Keeps z (State.applyBegin s x).1 := by
  unfold State.applyBegin
  repeat' first
    | with_reducible assumption
    | with_reducible apply State.ueSetStep_keeps
    | with_reducible apply State.ueRead_keeps
    | with_reducible apply State.err_keeps
    | with_reducible apply State.wr_keeps
    | split
    | dsimp only

theorem State.wbRead_keeps {z : Frame} {s : State} (h : Keeps z s) (x : UCtx) (q : Nat × Nat × Nat) :
    Keeps z (State.wbRead s x q) := by
  unfold State.wbRead
  repeat' first
    | with_reducible assumption
    | with_reducible apply State.ueRead_keeps
    | with_reducible apply State.err_keeps
    | with_reducible refine keeps_foldl (fun t x ht => ?_) ?_
    | with_reducible refine keeps_foldl_1 (fun t x ht => ?_) ?_
    | with_reducible refine keeps_foldl_2 (fun t x ht => ?_) ?_
    | with_reducible refine keeps_foldl_3 (fun t x ht => ?_) ?_
    | split
    | dsimp only

theorem State.writeBehind_keeps {z : Frame} {s0 : State} (h : Keeps z s0) (x : UCtx) :
    Keeps z (State.writeBehind s0 x) := by
  unfold State.writeBehind
  repeat' first
    | with_reducible assumption
    | with_reducible apply State.wbRead_keeps
    | with_reducible apply State.stage_keeps
    | with_reducible refine keeps_foldl (fun t x ht => ?_) ?_
    | with_reducible refine keeps_foldl_1 (fun t x ht => ?_) ?_
    | with_reducible refine keeps_foldl_2 (fun t x ht => ?_) ?_
    | with_reducible refine keeps_foldl_3 (fun t x ht => ?_) ?_
    | split
    | dsimp only

theorem State.countWb_keeps {z : Frame} {s : State} (h : Keeps z s) (p : PlanTick) (sent : Nat → List Chunk → List
    Chunk) :
    Keeps z (State.countWb s p sent) := by
  unfold State.countWb
  repeat' first
    | with_reducible assumption
    | with_reducible apply State.bump_keeps
    | with_reducible refine keeps_foldl (fun t x ht => ?_) ?_
    | with_reducible refine keeps_foldl_1 (fun t x ht => ?_) ?_
    | with_reducible refine keeps_foldl_2 (fun t x ht => ?_) ?_
    | with_reducible refine keeps_foldl_3 (fun t x ht => ?_) ?_
    | split
    | dsimp only

theorem State.applyOne_keeps {z : Frame} {t : State × UCtx} (h : Keeps z t.1) (q : Nat × Nat × Nat) :
    Keeps z (State.applyOne t q).1 := by
  unfold State.applyOne
  repeat' first
    | with_reducible assumption
    | with_reducible apply State.applyPart_keeps
    | with_reducible apply State.bump_keeps
    | with_reducible apply State.ueClass_keeps
    | split
    | dsimp only

theorem State.applyStart_keeps {z : Frame} {s : State} (h : Keeps z s) (x : UCtx) :
    Keeps z (State.applyStart s x).1 := by
  unfold State.applyStart
  repeat' first
    | with_reducible assumption
    | with_reducible apply State.applyBegin_keeps
    | split
    | dsimp only

theorem State.tearPart_keeps {z : Frame} {s : State} (h : Keeps z s) (x : UCtx) (q : Nat × Nat × Nat) :
    Keeps z (State.tearPart s x q) := by
  unfold State.tearPart
  repeat' first
    | with_reducible assumption
    | with_reducible apply State.ueTorn_keeps
    | with_reducible apply State.setDirty_keeps
    | with_reducible apply State.ueClass_keeps
    | with_reducible apply State.store_keeps
    | with_reducible apply State.drawBytes_keeps
    | with_reducible refine keeps_foldl (fun t x ht => ?_) ?_
    | with_reducible refine keeps_foldl_1 (fun t x ht => ?_) ?_
    | with_reducible refine keeps_foldl_2 (fun t x ht => ?_) ?_
    | with_reducible refine keeps_foldl_3 (fun t x ht => ?_) ?_
    | split
    | dsimp only

theorem State.ueFx_keeps {z : Frame} {s : State} (h : Keeps z s) (x : UCtx) :
    Keeps z (State.ueFx s x) := by
  unfold State.ueFx
  repeat' first
    | with_reducible assumption
    | with_reducible apply State.arith_keeps
    | with_reducible refine keeps_foldl (fun t x ht => ?_) ?_
    | with_reducible refine keeps_foldl_1 (fun t x ht => ?_) ?_
    | with_reducible refine keeps_foldl_2 (fun t x ht => ?_) ?_
    | with_reducible refine keeps_foldl_3 (fun t x ht => ?_) ?_
    | split
    | dsimp only

theorem State.wbAbandoned_keeps {z : Frame} {s : State} (h : Keeps z s) (x : UCtx) (n : Nat) :
    Keeps z (State.wbAbandoned s x n) := by
  unfold State.wbAbandoned
  repeat' first
    | with_reducible assumption
    | with_reducible apply State.writeBehind_keeps
    | split
    | dsimp only

theorem State.ueAbandon_keeps {z : Frame} {s : State} (h : Keeps z s) (c : Nat) (r : Run) :
    Keeps z (State.ueAbandon s c r) := by
  unfold State.ueAbandon
  repeat' first
    | with_reducible assumption
    | with_reducible apply State.wbAbandoned_keeps
    | with_reducible apply State.ueFx_keeps
    | with_reducible apply State.tearPart_keeps
    | with_reducible apply State.applyStart_keeps
    | with_reducible apply State.applyOne_keeps
    | with_reducible apply State.draw_keeps
    | with_reducible refine keeps_foldl (fun t x ht => ?_) ?_
    | with_reducible refine keeps_foldl_1 (fun t x ht => ?_) ?_
    | with_reducible refine keeps_foldl_2 (fun t x ht => ?_) ?_
    | with_reducible refine keeps_foldl_3 (fun t x ht => ?_) ?_
    | split
    | dsimp only

theorem State.ueApply_keeps {z : Frame} {s : State} (h : Keeps z s) (x : UCtx) :
    Keeps z (State.ueApply s x) := by
  unfold State.ueApply
  repeat' first
    | with_reducible assumption
    | with_reducible apply State.ueFx_keeps
    | with_reducible apply State.applyStart_keeps
    | with_reducible apply State.applyOne_keeps
    | with_reducible apply State.writeBehind_keeps
    | with_reducible apply State.ueEnd_keeps
    | with_reducible refine keeps_foldl (fun t x ht => ?_) ?_
    | with_reducible refine keeps_foldl_1 (fun t x ht => ?_) ?_
    | with_reducible refine keeps_foldl_2 (fun t x ht => ?_) ?_
    | with_reducible refine keeps_foldl_3 (fun t x ht => ?_) ?_
    | split
    | dsimp only

theorem State.stagePart_keeps {z : Frame} {s : State} (h : Keeps z s) (x : UCtx) (ch : List Chunk) (good : Bool) (n e a
    b o : Nat) :
    Keeps z (State.stagePart s x ch good n e a b o).1 := by
  unfold State.stagePart
  repeat' first
    | with_reducible assumption
    | with_reducible apply State.ueStream_keeps
    | with_reducible apply State.headDone_keeps
    | with_reducible apply State.setDirty_keeps
    | with_reducible apply State.uePoison_keeps
    | with_reducible apply State.bump_keeps
    | with_reducible refine keeps_foldl (fun t x ht => ?_) ?_
    | with_reducible refine keeps_foldl_11 (fun t x ht => ?_) ?_
    | with_reducible refine keeps_foldl_1 (fun t x ht => ?_) ?_
    | with_reducible refine keeps_foldl_2 (fun t x ht => ?_) ?_
    | with_reducible refine keeps_foldl_3 (fun t x ht => ?_) ?_
    | split
    | dsimp only

theorem State.ueStage_keeps {z : Frame} {s : State} (h : Keeps z s) (x : UCtx) : Keeps z (State.ueStage s x) := by
  unfold State.ueStage
  dsimp only
  generalize s.sliceIn x.o.sid _ = o
  cases o with
  | none => exact h
  | some ch =>
    dsimp only
    with_reducible apply State.ueEnd_keeps
    with_reducible refine keeps_foldl_11 (fun t q ht => ?_) ?_
    · dsimp only
      with_reducible apply State.stagePart_keeps
      with_reducible assumption
    · with_reducible assumption

theorem State.hbmCopy_keeps {z : Frame} {s : State} (h : Keeps z s) (src dst n : Nat) :
    Keeps z (State.hbmCopy s src dst n).1 := by
  unfold State.hbmCopy
  repeat' first
    | with_reducible assumption
    | with_reducible apply State.store_keeps
    | with_reducible apply State.poisonLine_keeps
    | with_reducible refine keeps_foldl (fun t x ht => ?_) ?_
    | split
    | dsimp only

theorem State.ueCopy_keeps {z : Frame} {s : State} (h : Keeps z s) (x : UCtx) (src dst n : Nat) :
    Keeps z (State.ueCopy s x src dst n) := by
  unfold State.ueCopy
  repeat' first
    | with_reducible assumption
    | with_reducible apply State.hbmCopy_keeps
    | with_reducible apply State.uePoison_keeps
    | with_reducible apply State.ueRead_keeps
    | split
    | dsimp only

theorem State.markStale_keeps {z : Frame} {s : State} (h : Keeps z s) (i : Nat) (copied : Bool) :
    Keeps z (State.markStale s i copied) := by
  unfold State.markStale
  repeat' first
    | with_reducible assumption
    | with_reducible apply State.setWatch_keeps
    | split
    | dsimp only

theorem State.commitDecide_keeps {z : Frame} {s : State} (h : Keeps z s) (x : UCtx) (e : Nat) :
    Keeps z (State.commitDecide s x e).1 := by
  unfold State.commitDecide
  repeat' first
    | with_reducible assumption
    | with_reducible apply State.markStale_keeps
    | with_reducible apply State.shardRecord_keeps
    | with_reducible apply State.ueRead_keeps
    | with_reducible apply State.err_keeps
    | with_reducible apply State.eventE_keeps
    | with_reducible apply State.bump_keeps
    | split
    | dsimp only

theorem State.staleStart_keeps {z : Frame} {s : State} (h : Keeps z s) (x : UCtx) :
    Keeps z (State.staleStart s x) := by
  unfold State.staleStart
  repeat' first
    | with_reducible assumption
    | with_reducible apply State.setWatch_keeps
    | split
    | dsimp only

theorem State.staleCommit_keeps {z : Frame} {s : State} (h : Keeps z s) (x : UCtx) (i : Nat) :
    Keeps z (State.staleCommit s x i) := by
  unfold State.staleCommit
  repeat' first
    | with_reducible assumption
    | with_reducible apply State.setWatch_keeps
    | split
    | dsimp only

theorem State.staleEnd_keeps {z : Frame} {s : State} (h : Keeps z s) (x : UCtx) :
    Keeps z (State.staleEnd s x) := by
  unfold State.staleEnd
  repeat' first
    | with_reducible assumption
    | with_reducible apply State.setWatch_keeps
    | split
    | dsimp only

theorem State.commitEnd_keeps {z : Frame} {s : State} (h : Keeps z s) (x : UCtx) (sh : Shard) :
    Keeps z (State.commitEnd s x sh) := by
  unfold State.commitEnd
  repeat' first
    | with_reducible assumption
    | with_reducible apply State.staleCommit_keeps
    | with_reducible apply State.ueCopy_keeps
    | with_reducible apply State.bump_keeps
    | split
    | dsimp only

theorem State.commitPart_keeps {z : Frame} {s : State} (h : Keeps z s) (x : UCtx) (e a b : Nat) :
    Keeps z (State.commitPart s x e a b) := by
  unfold State.commitPart
  repeat' first
    | with_reducible assumption
    | with_reducible apply State.commitEnd_keeps
    | with_reducible apply State.ueCopy_keeps
    | with_reducible refine keeps_foldl (fun t x ht => ?_) ?_
    | with_reducible refine keeps_foldl_1 (fun t x ht => ?_) ?_
    | with_reducible refine keeps_foldl_2 (fun t x ht => ?_) ?_
    | with_reducible refine keeps_foldl_3 (fun t x ht => ?_) ?_
    | split
    | dsimp only

theorem State.ueCommit_keeps {z : Frame} {s : State} (h : Keeps z s) (x : UCtx) :
    Keeps z (State.ueCommit s x) := by
  unfold State.ueCommit
  repeat' first
    | with_reducible assumption
    | with_reducible apply State.commitPart_keeps
    | with_reducible apply State.staleEnd_keeps
    | with_reducible apply State.staleStart_keeps
    | with_reducible apply State.commitDecide_keeps
    | with_reducible apply State.ueEnd_keeps
    | with_reducible refine keeps_foldl (fun t x ht => ?_) ?_
    | with_reducible refine keeps_foldl_1 (fun t x ht => ?_) ?_
    | with_reducible refine keeps_foldl_2 (fun t x ht => ?_) ?_
    | with_reducible refine keeps_foldl_3 (fun t x ht => ?_) ?_
    | split
    | dsimp only

theorem State.passStep_keeps {z : Frame} {s : State} (h : Keeps z s) (c slot pass : Nat) (f : State → UCtx → State)
    (hf : ∀ t x, Keeps z t → Keeps z (f t x)) : Keeps z (State.passStep s c slot pass f) := by
  unfold State.passStep
  split
  · exact hf _ _ h
  · exact h

theorem State.readUeStep_keeps {z : Frame} {s : State} (h : Keeps z s) (c : Nat) :
    Keeps z (State.readUeStep s c).2 := by
  unfold State.readUeStep
  repeat' first
    | with_reducible assumption
    | with_reducible apply State.wr_keeps

theorem State.chkGo_keeps {z : Frame} {s : State} (h : Keeps z s) (c unit : Nat) :
    Keeps z (State.chkGo s c unit) := by
  unfold State.chkGo
  repeat' first
    | with_reducible assumption
    | with_reducible apply State.wr_keeps
    | split

theorem State.chkDone_keeps {z : Frame} {s : State} (h : Keeps z s) (c : Nat) :
    Keeps z (State.chkDone s c) := by
  unfold State.chkDone
  repeat' first
    | with_reducible assumption
    | with_reducible apply State.touch_keeps
    | with_reducible apply State.wr2_keeps
    | with_reducible apply State.wr_keeps
    | split
    | dsimp only

end Sys2Proof.Machine
end

