-- ==== Sys2Proof/Laws/KeepsDomains.lean ====
section
/-! SUPPORT. What the operations of Domains.lean keep (Keeps). -/

namespace Sys2Proof.Machine

open Sys2Proof

theorem State.zeroRange_keeps {z : Frame} {s : State} (h : Keeps z s) (sp off n : Nat) :
    Keeps z (State.zeroRange s sp off n) := { h with mem := fun hz => memWf_filter _ (h.mem hz) }

theorem State.domZero_keeps {z : Frame} {s : State} (h : Keeps z s) (d : Nat) :
    Keeps z (State.domZero s d) := by
  unfold State.domZero
  repeat' first
    | with_reducible assumption
    | with_reducible apply State.zeroRange_keeps
    | with_reducible apply State.setTile_keeps
    | split

theorem State.sleepDom_keeps {z : Frame} {s : State} (h : Keeps z s) (d : Nat) :
    Keeps z (State.sleepDom s d) := by
  unfold State.sleepDom
  repeat' first
    | with_reducible assumption
    | with_reducible apply State.setDom_keeps
    | with_reducible apply State.atomFlush_keeps
    | with_reducible apply State.wr_keeps
    | split

theorem State.askBank_keeps {z : Frame} {s : State} (h : Keeps z s) (d : Nat) (on : Bool) :
    Keeps z (State.askBank s d on) := by
  unfold State.askBank
  repeat' first
    | with_reducible assumption
    | split
    | dsimp only
    | with_reducible apply keepsOf_eta
    | with_reducible apply keeps_mk

theorem State.placeDom_keeps {z : Frame} {s : State} (h : Keeps z s) (d : Nat) :
    Keeps z (State.placeDom s d) := by
  unfold State.placeDom
  repeat' first
    | with_reducible assumption
    | with_reducible apply State.askBank_keeps
    | with_reducible apply State.sleepDom_keeps
    | with_reducible apply State.wakeDom_keeps
    | with_reducible apply State.setDom_keeps
    | split
    | dsimp only

theorem State.placeDoms_keeps {z : Frame} {s : State} (h : Keeps z s) :
    Keeps z (State.placeDoms s) := by
  unfold State.placeDoms
  repeat' first
    | with_reducible assumption
    | with_reducible apply State.placeDom_keeps
    | with_reducible refine keeps_foldl (fun t x ht => ?_) ?_
    | split
    | dsimp only

theorem State.wakePage_keeps {z : Frame} {s : State} (h : Keeps z s) (p : PageId) :
    Keeps z (State.wakePage s p) := by
  unfold State.wakePage
  repeat' first
    | with_reducible assumption
    | with_reducible apply State.wakeDom_keeps
    | with_reducible refine keeps_foldl (fun t x ht => ?_) ?_

theorem State.wakeEn_keeps {z : Frame} {s : State} (h : Keeps z s) (p : PageId) :
    Keeps z (State.wakeEn s p) := by
  unfold State.wakeEn
  repeat' first
    | with_reducible assumption
    | with_reducible apply State.wakeDom_keeps
    | with_reducible refine keeps_foldl (fun t x ht => ?_) ?_

theorem State.wakeDone_keeps {z : Frame} {s : State} (h : Keeps z s) (d : Nat) :
    Keeps z (State.wakeDone s d) := by
  unfold State.wakeDone
  repeat' first
    | with_reducible assumption
    | with_reducible apply State.domZero_keeps
    | with_reducible apply State.setDom_keeps
    | with_reducible apply State.downLink_keeps
    | with_reducible apply State.err_keeps
    | with_reducible apply State.bump_keeps
    | with_reducible apply State.wr_keeps
    | with_reducible apply State.put_keeps
    | split
    | dsimp only
    | with_reducible apply keepsOf_eta
    | with_reducible apply keeps_mk

end Sys2Proof.Machine
end

