-- ==== Sys2Proof/Laws/KeepsHostMac.lean ====
section
/-! SUPPORT. What the operations of HostMac.lean keep (Keeps). -/

namespace Sys2Proof.Machine

open Sys2Proof

theorem State.takeFlits_keeps {z : Frame} : ∀ (l : List Flit) {s : State} (_ : Keeps z s), Keeps z (State.takeFlits s l).2
  | [], _, h => h
  | _ :: l, _, h => State.takeFlits_keeps l (State.takeService_keeps h _ _)

theorem State.setHost_keeps {z : Frame} {s : State} (h : Keeps z s) (h : HostMac) :
    Keeps z (State.setHost s h) := by
  unfold State.setHost
  repeat' first
    | with_reducible assumption
    | dsimp only
    | with_reducible apply keepsOf_eta
    | with_reducible apply keeps_mk

theorem State.setWq_keeps {z : Frame} {s : State} (h : Keeps z s) (q : Nat) (l : List WFrame) :
    Keeps z (State.setWq s q l) := by
  unfold State.setWq
  repeat' first
    | with_reducible assumption
    | with_reducible apply State.setHost_keeps

theorem State.weightedPut_keeps {z : Frame} {s : State} (h : Keeps z s) (q : Nat) (fr : List Byte) (cm : Bool) :
    Keeps z (State.weightedPut s q fr cm) := by
  unfold State.weightedPut
  repeat' first
    | with_reducible assumption
    | with_reducible apply State.setWq_keeps
    | with_reducible apply State.err_keeps
    | with_reducible apply State.bump_keeps
    | split
    | dsimp only

theorem State.endPause_keeps {z : Frame} {s : State} (h : Keeps z s) (p : Nat) :
    Keeps z (State.endPause s p) := by
  unfold State.endPause
  repeat' first
    | with_reducible assumption
    | with_reducible apply State.setWq_keeps
    | with_reducible apply State.setHost_keeps
    | split

theorem State.pfcReceive_keeps {z : Frame} {s : State} (h : Keeps z s) (enable : Nat) (quanta : List Nat) :
    Keeps z (State.pfcReceive s enable quanta) := by
  unfold State.pfcReceive
  repeat' first
    | with_reducible assumption
    | with_reducible apply State.endPause_keeps
    | with_reducible apply State.setHost_keeps
    | with_reducible apply State.put_keeps
    | with_reducible refine keeps_foldl (fun t x ht => ?_) ?_
    | split
    | dsimp only

theorem State.pauseExpiry_keeps {z : Frame} {s : State} (h : Keeps z s) (p : Nat) :
    Keeps z (State.pauseExpiry s p) := by
  unfold State.pauseExpiry
  repeat' first
    | with_reducible assumption
    | with_reducible apply State.endPause_keeps
    | split

theorem State.settleBuckets_keeps {z : Frame} {s : State} (h : Keeps z s) :
    Keeps z (State.settleBuckets s) := by
  unfold State.settleBuckets
  repeat' first
    | with_reducible assumption
    | with_reducible apply State.setHost_keeps

theorem State.setIng_keeps {z : Frame} {s : State} (h : Keeps z s) (p : Nat) (l : List IngressFrame) :
    Keeps z (State.setIng s p l) := by
  unfold State.setIng
  repeat' first
    | with_reducible assumption
    | with_reducible apply State.setHost_keeps

theorem State.sendXoff_keeps {z : Frame} {s : State} (h : Keeps z s) (p : Nat) :
    Keeps z (State.sendXoff s p) := by
  unfold State.sendXoff
  repeat' first
    | with_reducible assumption
    | with_reducible apply State.setHost_keeps
    | with_reducible apply State.emit_keeps
    | with_reducible apply State.wr_keeps

theorem State.sendXon_keeps {z : Frame} {s : State} (h : Keeps z s) (p : Nat) :
    Keeps z (State.sendXon s p) := by
  unfold State.sendXon
  repeat' first
    | with_reducible assumption
    | with_reducible apply State.wr_keeps
    | with_reducible apply State.emit_keeps
    | split
    | dsimp only

theorem State.pfcCheck_keeps {z : Frame} {s : State} (h : Keeps z s) (p : Nat) :
    Keeps z (State.pfcCheck s p) := by
  unfold State.pfcCheck
  repeat' first
    | with_reducible assumption
    | with_reducible apply State.sendXon_keeps
    | with_reducible apply State.sendXoff_keeps
    | split
    | dsimp only

theorem State.pfcRepeat_keeps {z : Frame} {s : State} (h : Keeps z s) (p : Nat) :
    Keeps z (State.pfcRepeat s p) := by
  unfold State.pfcRepeat
  repeat' first
    | with_reducible assumption
    | with_reducible apply State.sendXoff_keeps
    | split
    | dsimp only

theorem State.ingressPut_keeps {z : Frame} {s : State} (h : Keeps z s) (p : Nat) (fr : List Byte) :
    Keeps z (State.ingressPut s p fr) := by
  unfold State.ingressPut
  repeat' first
    | with_reducible assumption
    | with_reducible apply State.pfcCheck_keeps
    | with_reducible apply State.setIng_keeps
    | with_reducible apply State.err_keeps
    | with_reducible apply State.bump_keeps
    | split
    | dsimp only

theorem State.macControl_keeps {z : Frame} {s : State} (h : Keeps z s) (fr : List Byte) :
    Keeps z (State.macControl s fr) := by
  unfold State.macControl
  repeat' first
    | with_reducible assumption
    | with_reducible apply State.pfcReceive_keeps
    | with_reducible apply State.bump_keeps
    | split
    | dsimp only

theorem State.hostConsume_keeps {z : Frame} {s : State} (h : Keeps z s) (fr : List Byte) :
    Keeps z (State.hostConsume s fr) := by
  unfold State.hostConsume
  repeat' first
    | with_reducible assumption
    | with_reducible apply State.setHost_keeps
    | with_reducible apply State.bump_keeps
    | split
    | dsimp only

theorem State.hostFrame_keeps {z : Frame} {s : State} (h : Keeps z s) (fr : List Byte) :
    Keeps z (State.hostFrame s fr) := by
  unfold State.hostFrame
  repeat' first
    | with_reducible assumption
    | with_reducible apply State.macControl_keeps
    | with_reducible apply State.ingressPut_keeps
    | with_reducible apply State.setHost_keeps
    | with_reducible apply State.err_keeps
    | with_reducible apply State.bump_keeps
    | with_reducible apply State.bumpi_keeps
    | split
    | dsimp only

theorem State.ingressForward_keeps {z : Frame} {s : State} (h : Keeps z s) (p : Nat) :
    Keeps z (State.ingressForward s p) := by
  unfold State.ingressForward
  repeat' first
    | with_reducible assumption
    | with_reducible apply State.hostConsume_keeps
    | with_reducible apply State.pfcCheck_keeps
    | with_reducible apply State.setIng_keeps
    | with_reducible apply State.setHost_keeps
    | with_reducible apply State.forward_keeps
    | with_reducible apply State.err_keeps
    | with_reducible apply State.bump_keeps
    | split
    | dsimp only

theorem State.reassembled_keeps {z : Frame} {s : State} (h : Keeps z s) (vc : Nat) :
    Keeps z (State.reassembled s vc) := by
  unfold State.reassembled
  repeat' first
    | with_reducible assumption
    | with_reducible apply State.takeFlits_keeps
    | with_reducible apply State.weightedPut_keeps
    | with_reducible apply State.err_keeps
    | with_reducible apply State.bump_keeps
    | split
    | dsimp only

theorem State.startStrict_keeps {z : Frame} {s : State} (h : Keeps z s) (q : Nat) :
    Keeps z (State.startStrict s q) := by
  unfold State.startStrict
  repeat' first
    | with_reducible assumption
    | with_reducible apply State.setHost_keeps
    | with_reducible apply State.emit_keeps
    | with_reducible apply State.put_keeps
    | split

theorem State.frameStart_keeps {z : Frame} {s : State} (h : Keeps z s) :
    Keeps z (State.frameStart s) := by
  unfold State.frameStart
  repeat' first
    | with_reducible assumption
    | with_reducible apply State.startStrict_keeps
    | with_reducible apply State.setWq_keeps
    | with_reducible apply State.setHost_keeps
    | with_reducible apply State.emit_keeps
    | split

theorem State.turnTimers_keeps {z : Frame} {s : State} (h : Keeps z s) :
    Keeps z (State.turnTimers s) := by
  unfold State.turnTimers
  repeat' first
    | with_reducible assumption
    | dsimp only
    | with_reducible apply keepsOf_eta
    | with_reducible apply keeps_mk

theorem State.hostLinkUp_keeps {z : Frame} {s : State} (h : Keeps z s) :
    Keeps z (State.hostLinkUp s) := by
  unfold State.hostLinkUp
  repeat' first
    | with_reducible assumption
    | with_reducible apply State.turnTimers_keeps
    | with_reducible apply State.resendEvents_keeps
    | with_reducible apply State.wr_keeps
    | split
    | dsimp only

theorem State.cutHostFrame_keeps {z : Frame} {s : State} (h : Keeps z s) :
    Keeps z (State.cutHostFrame s) := by
  unfold State.cutHostFrame
  repeat' first
    | with_reducible assumption
    | with_reducible apply State.forward_keeps
    | with_reducible apply State.fwdPoison_keeps
    | split
    | dsimp only

theorem State.hostLinkDown_keeps {z : Frame} {s : State} (h : Keeps z s) :
    Keeps z (State.hostLinkDown s) := by
  unfold State.hostLinkDown
  repeat' first
    | with_reducible assumption
    | with_reducible apply State.cutHostFrame_keeps
    | with_reducible apply State.turnTimers_keeps
    | with_reducible apply State.setHost_keeps
    | with_reducible apply State.err_keeps
    | with_reducible apply State.bump_keeps
    | with_reducible apply State.wr_keeps
    | split
    | dsimp only

end Sys2Proof.Machine
end

