-- ==== Sys2Proof/Laws/KeepsIntegrity.lean ====
section
/-! SUPPORT. What the operations of Integrity.lean keep (Keeps). -/

namespace Sys2Proof.Machine

open Sys2Proof

theorem State.tripFail_keeps {z : Frame} {s : State} (h : Keeps z s) :
    Keeps z (State.tripFail s) := by
  unfold State.tripFail
  repeat' first
    | with_reducible assumption
    | with_reducible apply State.moduleFault_keeps
    | with_reducible apply State.err_keeps
    | with_reducible apply State.bump_keeps
    | split
    | dsimp only

theorem State.tripVote_keeps {z : Frame} {s : State} (h : Keeps z s) (k : RegKey) :
    Keeps z (State.tripVote s k) := by
  unfold State.tripVote
  repeat' first
    | with_reducible assumption
    | with_reducible apply State.tripFail_keeps
    | with_reducible apply State.bump_keeps
    | with_reducible apply State.put_keeps
    | split
    | dsimp only
    | with_reducible apply keepsOf_eta
    | with_reducible apply keeps_mk

theorem State.writeTrip_keeps {z : Frame} {s : State} (h : Keeps z s) (v : Nat) :
    Keeps z (State.writeTrip s v) := by
  unfold State.writeTrip
  repeat' first
    | with_reducible assumption
    | with_reducible apply State.swField_keeps
    | split
    | dsimp only
    | with_reducible apply keepsOf_eta
    | with_reducible apply keeps_mk

theorem State.scrubGo_keeps {z : Frame} {s : State} (h : Keeps z s) :
    Keeps z (State.scrubGo s) := by
  unfold State.scrubGo
  repeat' first
    | with_reducible assumption
    | with_reducible apply State.err_keeps
    | with_reducible apply State.clearFields_keeps
    | with_reducible apply State.wr_keeps
    | split
    | dsimp only
    | with_reducible apply keepsOf_eta
    | with_reducible apply keeps_mk

theorem State.scrubStop_keeps {z : Frame} {s : State} (h : Keeps z s) (st : Nat) :
    Keeps z (State.scrubStop s st) := by
  unfold State.scrubStop
  repeat' first
    | with_reducible assumption
    | with_reducible apply State.wrs_keeps
    | dsimp only
    | with_reducible apply keepsOf_eta
    | with_reducible apply keeps_mk

theorem State.scrubCrc_keeps {z : Frame} {s : State} (h : Keeps z s) (l : List Byte) :
    Keeps z (State.scrubCrc s l) := by
  unfold State.scrubCrc
  repeat' first
    | with_reducible assumption
    | with_reducible apply State.wr_keeps

theorem State.scrubUe_keeps {z : Frame} {s : State} (h : Keeps z s) (off : Nat) :
    Keeps z (State.scrubUe s off) := by
  unfold State.scrubUe
  repeat' first
    | with_reducible assumption
    | with_reducible apply State.err_keeps
    | with_reducible apply State.eventE_keeps
    | with_reducible apply State.wrs_keeps
    | with_reducible apply State.bump_keeps
    | with_reducible apply State.again_keeps
    | split
    | dsimp only

theorem State.scrubRead_keeps {z : Frame} {s : State} (h : Keeps z s) (off : Nat) :
    Keeps z (State.scrubRead s off) := by
  unfold State.scrubRead
  repeat' first
    | with_reducible assumption
    | with_reducible apply State.scrubUe_keeps
    | with_reducible apply State.scrubCrc_keeps
    | with_reducible apply State.mergeRoom_keeps
    | with_reducible apply State.touchLine_keeps
    | with_reducible apply State.bump_keeps
    | split
    | dsimp only

theorem State.scrubGranule_keeps {z : Frame} {s : State} (h : Keeps z s) :
    Keeps z (State.scrubGranule s) := by
  unfold State.scrubGranule
  repeat' first
    | with_reducible assumption
    | with_reducible apply State.scrubRead_keeps
    | with_reducible apply State.scrubStop_keeps
    | split
    | dsimp only
    | with_reducible apply keepsOf_eta
    | with_reducible apply keeps_mk

theorem State.quarantine_keeps {z : Frame} {s : State} (h : Keeps z s) (site : Nat) :
    Keeps z (State.quarantine s site) := by
  unfold State.quarantine
  repeat' first
    | with_reducible assumption
    | with_reducible apply State.moduleFault_keeps
    | with_reducible apply State.err_keeps
    | with_reducible apply State.wri_keeps
    | split
    | dsimp only

theorem State.quarLane_keeps {z : Frame} {s : State} (h : Keeps z s) (lane : Nat) :
    Keeps z (State.quarLane s lane) := by
  unfold State.quarLane
  repeat' first
    | with_reducible assumption
    | with_reducible apply State.reportLink_keeps
    | with_reducible apply State.wri_keeps
    | split
    | dsimp only

theorem State.spotRecord_keeps {z : Frame} {s : State} (h : Keeps z s) (x : Spot) (elem got exp : Nat) :
    Keeps z (State.spotRecord s x elem got exp) := by
  unfold State.spotRecord
  repeat' first
    | with_reducible assumption
    | with_reducible apply State.wrs_keeps
    | with_reducible apply State.wri_keeps
    | with_reducible apply State.again_keeps
    | with_reducible refine keeps_foldl (fun t x ht => ?_) ?_
    | split
    | dsimp only

theorem State.spotCompare_keeps {z : Frame} {s : State} (h : Keeps z s) (x : Spot) (elem got exp : Nat) :
    Keeps z (State.spotCompare s x elem got exp) := by
  unfold State.spotCompare
  repeat' first
    | with_reducible assumption
    | with_reducible apply State.spotRecord_keeps
    | with_reducible apply State.quarantine_keeps
    | with_reducible apply State.tickFault_keeps
    | with_reducible apply State.err_keeps
    | with_reducible apply State.bump_keeps
    | split
    | dsimp only

theorem State.spotAll_keeps {z : Frame} (x : Spot) :
    ∀ {s : State} (_ : Keeps z s) (es : List Nat) (vs : List (Option Nat)) (got : List Nat), Keeps z (s.spotAll x es vs got)
  | s, h, e :: es, some v :: vs, got => by
    unfold State.spotAll
    exact State.spotAll_keeps x (State.spotCompare_keeps h x e _ v) es vs _
  | s, h, _ :: es, none :: vs, got => by
    unfold State.spotAll
    exact State.spotAll_keeps x h es vs _
  | _, h, [], _, _ => by
    unfold State.spotAll
    exact h
  | _, h, _ :: _, [], _ => by
    unfold State.spotAll
    exact h

theorem State.spotClose_keeps {z : Frame} {s : State} (h : Keeps z s) (key : Nat) (x : Spot) :
    Keeps z (State.spotClose s key x) := by
  unfold State.spotClose
  repeat' first
    | with_reducible assumption
    | with_reducible apply State.setSpot_keeps
    | split
    | dsimp only
    | with_reducible apply keepsOf_eta
    | with_reducible apply keeps_mk

theorem State.spotDone_keeps {z : Frame} {s : State} (h : Keeps z s) (c : Nat) (got : List Nat) :
    Keeps z (State.spotDone s c got) := by
  unfold State.spotDone
  repeat' first
    | with_reducible assumption
    | with_reducible apply State.spotClose_keeps
    | with_reducible apply State.spotAll_keeps
    | split
    | dsimp only

theorem State.marginPut_keeps {z : Frame} {s : State} (h : Keeps z s) (i : Nat) (v : Int) (past : Bool) :
    Keeps z (State.marginPut s i v past) := by
  unfold State.marginPut
  repeat' first
    | with_reducible assumption
    | with_reducible apply State.put_keeps
    | split
    | dsimp only
    | with_reducible apply keepsOf_eta
    | with_reducible apply keeps_mk

theorem State.warn_keeps {z : Frame} {s : State} (h : Keeps z s) (site : Nat) :
    Keeps z (State.warn s site) := by
  unfold State.warn
  repeat' first
    | with_reducible assumption
    | with_reducible apply State.wri_keeps
    | with_reducible apply State.noteRise_keeps
    | split
    | dsimp only

theorem State.marginSite_keeps {z : Frame} {s : State} (h : Keeps z s) (droop canary : List Nat) (i : Nat) :
    Keeps z (State.marginSite s droop canary i) := by
  unfold State.marginSite
  repeat' first
    | with_reducible assumption
    | with_reducible apply State.warn_keeps
    | with_reducible apply State.marginPut_keeps
    | with_reducible apply State.quarantine_keeps
    | split
    | dsimp only

theorem State.marginLane_keeps {z : Frame} {s : State} (h : Keeps z s) (rx : List Int) (i : Nat) :
    Keeps z (State.marginLane s rx i) := by
  unfold State.marginLane
  repeat' first
    | with_reducible assumption
    | with_reducible apply State.warn_keeps
    | with_reducible apply State.marginPut_keeps
    | with_reducible apply State.quarLane_keeps
    | split
    | dsimp only

theorem State.marginEval_keeps {z : Frame} {s : State} (h : Keeps z s) (droop canary : List Nat) (rx : List Int) :
    Keeps z (State.marginEval s droop canary rx) := by
  unfold State.marginEval
  repeat' first
    | with_reducible assumption
    | with_reducible apply State.marginLane_keeps
    | with_reducible apply State.marginSite_keeps
    | with_reducible apply State.marginPut_keeps
    | with_reducible apply State.err_keeps
    | with_reducible refine keeps_foldl (fun t x ht => ?_) ?_
    | split
    | dsimp only

end Sys2Proof.Machine
end

