-- ==== Sys2Proof/Laws/KeepsShake.lean ====
section
/-! SUPPORT. What the operations of Shake.lean keep (Keeps). -/

namespace Sys2Proof.Machine

open Sys2Proof

theorem State.setMeas_keeps {z : Frame} {s : State} (h : Keeps z s) (i : Nat) (d : List Byte) :
    Keeps z (State.setMeas s i d) := by
  unfold State.setMeas
  repeat' first
    | with_reducible assumption
    | with_reducible apply State.put_keeps
    | dsimp only
    | with_reducible apply keepsOf_eta
    | with_reducible apply keeps_mk

theorem State.clearMeas_keeps {z : Frame} {s : State} (h : Keeps z s) (i : Nat) :
    Keeps z (State.clearMeas s i) := by
  unfold State.clearMeas
  repeat' first
    | with_reducible assumption
    | dsimp only
    | with_reducible apply keepsOf_eta
    | with_reducible apply keeps_mk

theorem State.extend_keeps {z : Frame} {s : State} (h : Keeps z s) (i : Nat) (d : List Byte) :
    Keeps z (State.extend s i d) := by
  unfold State.extend
  repeat' first
    | with_reducible assumption
    | with_reducible apply State.setMeas_keeps

end Sys2Proof.Machine
end

