-- ==== Sys2Proof/Laws/KeepsPlanLoad.lean ====
section
/-! SUPPORT. What the operations of PlanLoad.lean keep (Keeps). -/

namespace Sys2Proof.Machine

open Sys2Proof

theorem State.setPin_keeps {z : Frame} {s : State} (h : Keeps z s) (i n : Nat) :
    Keeps z (State.setPin s i n) := by
  unfold State.setPin
  repeat' first
    | with_reducible assumption
    | with_reducible apply State.put_keeps
    | dsimp only
    | with_reducible apply keepsOf_eta
    | with_reducible apply keeps_mk

theorem State.pinAll_keeps {z : Frame} {s : State} (h : Keeps z s) (l : List Nat) :
    Keeps z (State.pinAll s l) := by
  unfold State.pinAll
  repeat' first
    | with_reducible assumption
    | with_reducible apply State.setPin_keeps
    | with_reducible refine keeps_foldl (fun t x ht => ?_) ?_

theorem State.unpinAll_keeps {z : Frame} {s : State} (h : Keeps z s) (l : List Nat) :
    Keeps z (State.unpinAll s l) := by
  unfold State.unpinAll
  repeat' first
    | with_reducible assumption
    | with_reducible apply State.setPin_keeps
    | with_reducible refine keeps_foldl (fun t x ht => ?_) ?_

theorem State.releaseBank_keeps {z : Frame} {s : State} (h : Keeps z s) (b : Nat) :
    Keeps z (State.releaseBank s b) := by
  unfold State.releaseBank
  repeat' first
    | with_reducible assumption
    | with_reducible apply State.unpinAll_keeps
    | with_reducible apply State.clearMeas_keeps
    | with_reducible apply State.setBank_keeps
    | with_reducible apply State.wr_keeps
    | with_reducible refine keeps_foldl (fun t x ht => ?_) ?_
    | split
    | dsimp only
    | with_reducible apply keepsOf_eta
    | with_reducible apply keeps_mk

theorem State.carve_keeps {z : Frame} {s : State} (h : Keeps z s) (b : Nat) (m : List Byte) :
    Keeps z (State.carve s b m) := by
  unfold State.carve
  repeat' first
    | with_reducible assumption
    | with_reducible apply State.put_keeps
    | with_reducible refine keeps_foldl (fun t x ht => ?_) ?_
    | with_reducible refine keeps_foldl_1 (fun t x ht => ?_) ?_
    | with_reducible refine keeps_foldl_2 (fun t x ht => ?_) ?_
    | with_reducible refine keeps_foldl_3 (fun t x ht => ?_) ?_
    | dsimp only
    | with_reducible apply keepsOf_eta
    | with_reducible apply keeps_mk

theorem State.wakeBanks_keeps {z : Frame} {s : State} (h : Keeps z s) :
    Keeps z (State.wakeBanks s) := by
  unfold State.wakeBanks
  repeat' first
    | with_reducible assumption
    | with_reducible apply State.wakeBank_keeps
    | with_reducible refine keeps_foldl (fun t x ht => ?_) ?_
    | split
    | dsimp only

theorem State.emptyBank_keeps {z : Frame} {s : State} (h : Keeps z s) (b : Nat) :
    Keeps z (State.emptyBank s b) := by
  unfold State.emptyBank
  repeat' first
    | with_reducible assumption
    | with_reducible apply State.releaseBank_keeps
    | with_reducible apply State.setBankState_keeps

theorem State.planLoad_keeps {z : Frame} {s : State} (h : Keeps z s) (b : Nat) :
    Keeps z (State.planLoad s b) := by
  unfold State.planLoad
  repeat' first
    | with_reducible assumption
    | with_reducible apply State.releaseBank_keeps
    | with_reducible apply State.err_keeps
    | with_reducible apply State.setSched_keeps
    | with_reducible apply State.setBankState_keeps
    | split
    | dsimp only

theorem State.planReject_keeps {z : Frame} {s : State} (h : Keeps z s) (b : Nat) (e : PlanErr) :
    Keeps z (State.planReject s b e) := by
  unfold State.planReject
  repeat' first
    | with_reducible assumption
    | with_reducible apply State.emptyBank_keeps
    | with_reducible apply State.err_keeps
    | with_reducible apply State.wrs_keeps

theorem State.planReady_keeps {z : Frame} {s : State} (h : Keeps z s) (b : Nat) (m : List Byte) (pins : List Nat) :
    Keeps z (State.planReady s b m pins) := by
  unfold State.planReady
  repeat' first
    | with_reducible assumption
    | with_reducible apply State.pinAll_keeps
    | with_reducible apply State.extend_keeps
    | with_reducible apply State.setMeas_keeps
    | with_reducible apply State.setBank_keeps
    | with_reducible apply State.setBankState_keeps
    | with_reducible apply State.wr_keeps
    | with_reducible refine keeps_foldl (fun t x ht => ?_) ?_

theorem State.planLoaded_keeps {z : Frame} {s : State} (h : Keeps z s) :
    Keeps z (State.planLoaded s) := by
  unfold State.planLoaded
  repeat' first
    | with_reducible assumption
    | with_reducible apply State.planReady_keeps
    | with_reducible apply State.planReject_keeps
    | with_reducible apply State.wakeBanks_keeps
    | with_reducible apply State.carve_keeps
    | with_reducible apply State.wakeDom_keeps
    | with_reducible apply State.setSched_keeps
    | with_reducible refine keeps_foldl (fun t x ht => ?_) ?_
    | split
    | dsimp only

theorem State.switchRefused_keeps {z : Frame} {s : State} (h : Keeps z s) (bit : Nat) :
    Keeps z (State.switchRefused s bit) := by
  unfold State.switchRefused
  repeat' first
    | with_reducible assumption
    | with_reducible apply State.configFault_keeps
    | with_reducible apply State.err_keeps

theorem State.armSwitch_keeps {z : Frame} {s : State} (h : Keeps z s) (t : Nat) :
    Keeps z (State.armSwitch s t) := by
  unfold State.armSwitch
  repeat' first
    | with_reducible assumption
    | with_reducible apply State.switchRefused_keeps
    | with_reducible apply State.prefetchAll_keeps
    | with_reducible apply State.setSched_keeps
    | with_reducible apply State.wrb_keeps
    | with_reducible apply State.wr_keeps
    | split
    | dsimp only

theorem State.disarm_keeps {z : Frame} {s : State} (h : Keeps z s) :
    Keeps z (State.disarm s) := by
  unfold State.disarm
  repeat' first
    | with_reducible assumption
    | with_reducible apply State.prefetchAll_keeps
    | with_reducible apply State.wrb_keeps
    | split

end Sys2Proof.Machine
end

