-- ==== Sys2Proof/Laws/KeepsReset.lean ====
section
/-! SUPPORT. What the operations of Reset.lean keep (Keeps). -/

namespace Sys2Proof.Machine

open Sys2Proof

theorem State.keepRegs_keeps {z : Frame} {s : State} (h : Keeps z s) (f : PageId → Reg → Bool) :
    Keeps z (State.keepRegs s f) := by
  unfold State.keepRegs
  repeat' first
    | with_reducible assumption
    | split
    | dsimp only
    | with_reducible apply keepsOf_eta
    | with_reducible apply keeps_mk

theorem State.default_keeps {z : Frame} {s : State} (h : Keeps z s) (p : PageId) (kind : Nat) :
    Keeps z (State.default s p kind) := by
  unfold State.default
  repeat' first
    | with_reducible assumption
    | with_reducible apply State.wri_keeps
    | with_reducible apply State.put_keeps
    | split
    | dsimp only

theorem State.pageReset_keeps {z : Frame} {s : State} (h : Keeps z s) (p : PageId) :
    Keeps z (State.pageReset s p) := by
  unfold State.pageReset
  repeat' first
    | with_reducible assumption
    | with_reducible apply State.default_keeps
    | with_reducible apply State.keepRegs_keeps
    | with_reducible apply State.unfreeze_keeps
    | with_reducible apply State.wrb_keeps

theorem State.pageResets_keeps {z : Frame} {s : State} (h : Keeps z s) :
    Keeps z (State.pageResets s) := by
  unfold State.pageResets
  repeat' first
    | with_reducible assumption
    | with_reducible apply State.pageReset_keeps
    | with_reducible refine keeps_foldl (fun t x ht => ?_) ?_

theorem State.armReset_keeps {z : Frame} {s : State} (h : Keeps z s) (p : PageId) :
    Keeps z (State.armReset s p) := by
  unfold State.armReset
  repeat' first
    | with_reducible assumption
    | with_reducible apply State.put_keeps
    | split

theorem State.unitState_keeps {z : Frame} {s : State} (h : Keeps z s) (kind unit v : Nat) :
    Keeps z (State.unitState s kind unit v) := by
  unfold State.unitState
  repeat' first
    | with_reducible assumption
    | with_reducible apply State.wr_keeps
    | split

theorem State.abortUnit_keeps {z : Frame} {s : State} (h : Keeps z s) (kind unit : Nat) :
    Keeps z (State.abortUnit s kind unit) := by
  unfold State.abortUnit
  repeat' first
    | with_reducible assumption
    | with_reducible apply State.unitState_keeps
    | with_reducible apply State.err_keeps
    | with_reducible apply State.wri_keeps
    | with_reducible refine keeps_foldl (fun t x ht => ?_) ?_
    | split
    | dsimp only
    | with_reducible apply keepsOf_eta
    | with_reducible apply keeps_mk

theorem State.abortTile_keeps {z : Frame} {s : State} (h : Keeps z s) (g : Nat) :
    Keeps z (State.abortTile s g) := by
  unfold State.abortTile
  repeat' first
    | with_reducible assumption
    | with_reducible apply State.err_keeps
    | with_reducible apply State.wr_keeps
    | with_reducible apply State.setTile_keeps
    | split
    | dsimp only

theorem State.abortAll_keeps {z : Frame} {s : State} (h : Keeps z s) :
    Keeps z (State.abortAll s) := by
  unfold State.abortAll
  repeat' first
    | with_reducible assumption
    | with_reducible apply State.abortTile_keeps
    | with_reducible apply State.abortUnit_keeps
    | with_reducible refine keeps_foldl (fun t x ht => ?_) ?_

theorem State.noPlan_keeps {z : Frame} {s : State} (h : Keeps z s) :
    Keeps z (State.noPlan s) := by
  unfold State.noPlan
  repeat' first
    | with_reducible assumption
    | with_reducible apply State.emptyBank_keeps
    | with_reducible apply State.wrs_keeps
    | with_reducible apply State.wr_keeps
    | with_reducible refine keeps_foldl (fun t x ht => ?_) ?_
    | dsimp only
    | with_reducible apply keepsOf_eta
    | with_reducible apply keeps_mk

theorem State.stopMover_keeps {z : Frame} {s : State} (h : Keeps z s) (k : Nat) :
    Keeps z (State.stopMover s k) := by
  unfold State.stopMover
  repeat' first
    | with_reducible assumption
    | with_reducible apply State.wr_keeps
    | with_reducible apply State.put_keeps
    | split
    | dsimp only
    | with_reducible apply keepsOf_eta
    | with_reducible apply keeps_mk

theorem State.watchClear_keeps {z : Frame} {s : State} (h : Keeps z s) :
    Keeps z (State.watchClear s) := by
  unfold State.watchClear
  repeat' first
    | with_reducible assumption
    | with_reducible apply State.setWatch_keeps
    | with_reducible apply State.wrs_keeps

theorem State.fabricReset_keeps {z : Frame} {s : State} (h : Keeps z s) :
    Keeps z (State.fabricReset s) := by
  unfold State.fabricReset
  repeat' first
    | with_reducible assumption
    | with_reducible apply State.watchClear_keeps
    | with_reducible apply State.stopMover_keeps
    | with_reducible apply State.noPlan_keeps
    | with_reducible apply State.abortAll_keeps
    | with_reducible apply State.wrb_keeps
    | with_reducible apply State.wr_keeps
    | with_reducible refine keeps_foldl (fun t x ht => ?_) ?_

theorem State.rebuild_keeps {z : Frame} {s : State} (h : Keeps z s) (h0 : z.ok 0) (regs : State) (hbm sessions : Bool) :
    Keeps z (State.rebuild s regs hbm sessions) := by
  have he : z.st.events.items.length ≤ 256 →
      (if sessions then s.events else State.reset.events).items.length ≤ 256 := by
    split
    · exact h.events
    · exact fun _ => Nat.zero_le _
  exact { h with mem := fun hz => memWf_filter _ (h.mem hz), tick := h0, events := he }

theorem State.moduleReset_keeps {z : Frame} {s : State} (h : Keeps z s) (h0 : z.ok 0) (src : Nat) :
    Keeps z (State.moduleReset s src) := by
  unfold State.moduleReset
  repeat' first
    | with_reducible assumption
    | with_reducible apply State.rebuild_keeps
    | with_reducible apply State.default_keeps
    | with_reducible apply State.keepRegs_keeps
    | with_reducible apply State.wrs_keeps
    | with_reducible refine keeps_foldl (fun t x ht => ?_) ?_
    | split
    | dsimp only
    | with_reducible apply keepsOf_eta
    | with_reducible apply keeps_mk

theorem State.coldReset_keeps {z : Frame} {s : State} (h : Keeps z s) (h0 : z.ok 0) :
    Keeps z (State.coldReset s) := by
  unfold State.coldReset
  repeat' first
    | with_reducible assumption
    | with_reducible apply State.rebuild_keeps
    | with_reducible apply State.keepRegs_keeps
    | dsimp only
    | with_reducible apply keepsOf_eta
    | with_reducible apply keeps_mk

end Sys2Proof.Machine
end

