-- ==== Sys2Proof/Laws/KeepsWatch.lean ====
section
/-! SUPPORT. What the operations of Watch.lean keep (Keeps). -/

namespace Sys2Proof.Machine

open Sys2Proof

theorem State.declareRun_keeps {z : Frame} {s : State} (h : Keeps z s) (r : StepRun) :
    Keeps z (State.declareRun s r) := by
  unfold State.declareRun
  repeat' first
    | with_reducible assumption
    | with_reducible apply State.setWatch_keeps
    | with_reducible apply State.bump_keeps
    | with_reducible apply State.wrb_keeps
    | split

theorem State.declareAll_keeps {z : Frame} {s : State} (h : Keeps z s) :
    Keeps z (State.declareAll s) := by
  unfold State.declareAll
  repeat' first
    | with_reducible assumption
    | with_reducible apply State.declareRun_keeps
    | with_reducible refine keeps_foldl (fun t x ht => ?_) ?_

theorem State.beginStep_keeps {z : Frame} {s : State} (h : Keeps z s) (replay : Bool) :
    Keeps z (State.beginStep s replay) := by
  unfold State.beginStep
  repeat' first
    | with_reducible assumption
    | with_reducible apply State.setWatch_keeps
    | with_reducible apply State.wr2_keeps
    | with_reducible apply State.wrb_keeps
    | split

theorem State.endStep_keeps {z : Frame} {s : State} (h : Keeps z s) :
    Keeps z (State.endStep s) := by
  unfold State.endStep
  repeat' first
    | with_reducible assumption
    | with_reducible apply State.setWatch_keeps
    | split

theorem State.trainStep_keeps {z : Frame} {s : State} (h : Keeps z s) (replay : Bool) :
    Keeps z (State.trainStep s replay) := by
  unfold State.trainStep
  repeat' first
    | with_reducible assumption
    | with_reducible apply State.endStep_keeps
    | with_reducible apply State.beginStep_keeps
    | split

theorem State.abortStep_keeps {z : Frame} {s : State} (h : Keeps z s) (n : Nat) :
    Keeps z (State.abortStep s n) := by
  unfold State.abortStep
  repeat' first
    | with_reducible assumption
    | with_reducible apply State.setWatch_keeps
    | with_reducible apply State.bump_keeps
    | split

theorem State.srMove_keeps {z : Frame} {s : State} (h : Keeps z s) (d : Nat) (p : PageId) :
    Keeps z (State.srMove s d p) := by
  unfold State.srMove
  repeat' first
    | with_reducible assumption
    | with_reducible apply State.put_keeps

theorem State.srMoveAll_keeps {z : Frame} {s : State} (h : Keeps z s) (d : Nat) :
    Keeps z (State.srMoveAll s d) := by
  unfold State.srMoveAll
  repeat' first
    | with_reducible assumption
    | with_reducible apply State.srMove_keeps
    | with_reducible refine keeps_foldl (fun t x ht => ?_) ?_
    | split

theorem State.srSkip_keeps {z : Frame} {s : State} (h : Keeps z s) :
    Keeps z (State.srSkip s) := by
  unfold State.srSkip
  repeat' first
    | with_reducible assumption
    | with_reducible apply State.srMoveAll_keeps
    | with_reducible apply State.setBelfry_keeps
    | with_reducible apply tickOk_eta

theorem State.srReplay_keeps {z : Frame} {s : State} (h : Keeps z s) :
    Keeps z (State.srReplay s) := by
  unfold State.srReplay
  repeat' first
    | with_reducible assumption
    | with_reducible apply State.srMoveAll_keeps
    | split

theorem State.addHold_keeps {z : Frame} {s : State} (h : Keeps z s) (set : Nat) :
    Keeps z (State.addHold s set) := by
  unfold State.addHold
  repeat' first
    | with_reducible assumption
    | with_reducible apply State.wr_keeps

theorem State.causeAtSwitch_keeps {z : Frame} {s : State} (h : Keeps z s) (set : Nat) :
    Keeps z (State.causeAtSwitch s set) := by
  unfold State.causeAtSwitch
  repeat' first
    | with_reducible assumption
    | with_reducible apply State.setWatch_keeps

theorem State.pairLoss_keeps {z : Frame} {s : State} (h : Keeps z s) (l : List Nat) :
    Keeps z (State.pairLoss s l) := by
  unfold State.pairLoss
  repeat' first
    | with_reducible assumption
    | with_reducible apply State.setWatch_keeps
    | with_reducible apply State.err_keeps
    | with_reducible apply State.eventE_keeps
    | with_reducible apply State.wrs_keeps
    | with_reducible apply State.again_keeps
    | split
    | dsimp only

theorem State.agreeFail_keeps {z : Frame} {s : State} (h : Keeps z s) (d t : Nat) :
    Keeps z (State.agreeFail s d t) := by
  unfold State.agreeFail
  repeat' first
    | with_reducible assumption
    | with_reducible apply State.err_keeps
    | with_reducible apply State.reportLinkAt_keeps
    | split
    | dsimp only

theorem State.digestIn_keeps {z : Frame} {s : State} (h : Keeps z s) (d c x : Nat) :
    Keeps z (State.digestIn s d c x) := by
  unfold State.digestIn
  repeat' first
    | with_reducible assumption
    | with_reducible apply State.agreeFail_keeps
    | with_reducible apply State.setWatch_keeps
    | split
    | dsimp only

theorem State.digestEarly_keeps {z : Frame} {s : State} (h : Keeps z s) (c x : Nat) :
    Keeps z (State.digestEarly s c x) := by
  unfold State.digestEarly
  repeat' first
    | with_reducible assumption
    | with_reducible apply State.agreeFail_keeps
    | with_reducible apply State.setWatch_keeps
    | with_reducible refine keeps_foldl (fun t x ht => ?_) ?_
    | with_reducible refine keeps_foldl_1 (fun t x ht => ?_) ?_
    | with_reducible refine keeps_foldl_2 (fun t x ht => ?_) ?_
    | with_reducible refine keeps_foldl_3 (fun t x ht => ?_) ?_
    | split
    | dsimp only

theorem State.armVariant_keeps {z : Frame} {s : State} (h : Keeps z s) (v t : Nat) :
    Keeps z (State.armVariant s v t) := by
  unfold State.armVariant
  repeat' first
    | with_reducible assumption
    | with_reducible apply State.wrs_keeps

theorem State.selectVariant_keeps {z : Frame} {s : State} (h : Keeps z s) (t : Nat) :
    Keeps z (State.selectVariant s t) := by
  unfold State.selectVariant
  repeat' first
    | with_reducible assumption
    | with_reducible apply State.armVariant_keeps
    | with_reducible apply State.causeAtSwitch_keeps
    | with_reducible apply State.err_keeps
    | with_reducible apply State.wr_keeps
    | split

theorem State.restorerReports_keeps {z : Frame} {s : State} (h : Keeps z s) (l : List Report) :
    Keeps z (State.restorerReports s l) := by
  unfold State.restorerReports
  repeat' first
    | with_reducible assumption
    | with_reducible apply State.causeAtSwitch_keeps
    | with_reducible apply State.addHold_keeps
    | with_reducible apply State.setWatch_keeps
    | split

theorem State.roundEvent_keeps {z : Frame} {s : State} (h : Keeps z s) (c x : Nat) (n : Option Nat) :
    Keeps z (State.roundEvent s c x n) := by
  unfold State.roundEvent
  repeat' first
    | with_reducible assumption
    | with_reducible apply State.eventE_keeps

theorem State.actOn_keeps {z : Frame} {s : State} (h : Keeps z s) (c : Nat) (l : List Report) :
    Keeps z (State.actOn s c l) := by
  unfold State.actOn
  repeat' first
    | with_reducible assumption
    | with_reducible apply State.restorerReports_keeps
    | with_reducible apply State.selectVariant_keeps
    | with_reducible apply State.pairLoss_keeps
    | with_reducible apply State.causeAtSwitch_keeps
    | with_reducible apply State.abortStep_keeps
    | with_reducible apply State.prefetchAll_keeps
    | with_reducible apply State.setWatch_keeps
    | with_reducible apply State.wr_keeps
    | split
    | dsimp only

theorem State.decideRound_keeps {z : Frame} {s : State} (h : Keeps z s) (c : Nat) :
    Keeps z (State.decideRound s c) := by
  unfold State.decideRound
  repeat' first
    | with_reducible assumption
    | with_reducible apply State.actOn_keeps
    | with_reducible apply State.roundEvent_keeps
    | with_reducible apply State.digestEarly_keeps
    | with_reducible apply State.flood_keeps
    | with_reducible apply State.setWatch_keeps
    | with_reducible apply State.wrs_keeps
    | with_reducible apply State.bump_keeps

theorem State.armResume_keeps {z : Frame} {s : State} (h : Keeps z s) (decided : Bool) :
    Keeps z (State.armResume s decided) := by
  unfold State.armResume
  repeat' first
    | with_reducible assumption
    | with_reducible apply State.setWatch_keeps
    | split

theorem State.endHold_keeps {z : Frame} {s : State} (h : Keeps z s) :
    Keeps z (State.endHold s) := by
  unfold State.endHold
  repeat' first
    | with_reducible assumption
    | with_reducible apply State.setWatch_keeps
    | with_reducible apply State.wr_keeps
    | split
    | dsimp only

theorem State.autoResume_keeps {z : Frame} {s : State} (h : Keeps z s) :
    Keeps z (State.autoResume s) := by
  unfold State.autoResume
  repeat' first
    | with_reducible assumption
    | with_reducible apply State.endHold_keeps
    | with_reducible apply State.setWatch_keeps
    | split

theorem State.decide_keeps {z : Frame} {s : State} (h : Keeps z s) :
    Keeps z (State.decide s) := by
  unfold State.decide
  repeat' first
    | with_reducible assumption
    | with_reducible apply State.armResume_keeps
    | with_reducible apply State.decideRound_keeps
    | split

theorem State.watchReport_keeps {z : Frame} {s : State} (h : Keeps z s) (d : Nat) (m : WatchMsg) :
    Keeps z (State.watchReport s d m) := by
  unfold State.watchReport
  repeat' first
    | with_reducible assumption
    | with_reducible apply State.holdReport_keeps
    | split

theorem State.neighbourSilent_keeps {z : Frame} {s : State} (h : Keeps z s) (d : Nat) :
    Keeps z (State.neighbourSilent s d) := by
  unfold State.neighbourSilent
  repeat' first
    | with_reducible assumption
    | with_reducible apply State.reportLink_keeps
    | with_reducible apply State.err_keeps
    | with_reducible apply State.setBelfry_keeps
    | with_reducible apply State.put_keeps
    | with_reducible apply tickOk_eta
    | split

theorem State.readFlight_keeps {z : Frame} {s : State} (h : Keeps z s) :
    Keeps z (State.readFlight s).2 := by
  unfold State.readFlight
  repeat' first
    | with_reducible assumption
    | with_reducible apply State.put_keeps

theorem State.readDecl_keeps {z : Frame} {s : State} (h : Keeps z s) :
    Keeps z (State.readDecl s).2 := by
  unfold State.readDecl
  repeat' first
    | with_reducible assumption
    | with_reducible apply State.put_keeps

theorem State.command_keeps {z : Frame} {s : State} (h : Keeps z s) (code t : Nat) (src : Option Nat) (origin : Nat) :
    Keeps z (State.command s code t src origin) := by
  unfold State.command
  repeat' first
    | with_reducible assumption
    | with_reducible apply State.prefetchAll_keeps
    | with_reducible apply State.rememberFlood_keeps
    | with_reducible apply State.flood_keeps
    | with_reducible apply State.setWatch_keeps
    | with_reducible apply State.err_keeps
    | split
    | dsimp only

theorem State.writeCmd_keeps {z : Frame} {s : State} (h : Keeps z s) (code : Nat) :
    Keeps z (State.writeCmd s code) := by
  unfold State.writeCmd
  repeat' first
    | with_reducible assumption
    | with_reducible apply State.command_keeps

theorem State.cmdAbort_keeps {z : Frame} {s : State} (h : Keeps z s) :
    Keeps z (State.cmdAbort s) := by
  unfold State.cmdAbort
  repeat' first
    | with_reducible assumption
    | with_reducible apply State.endHold_keeps
    | with_reducible apply State.abortStep_keeps
    | with_reducible apply State.setWatch_keeps
    | split

theorem State.takeCommand_keeps {z : Frame} {s : State} (h : Keeps z s) (code : Nat) :
    Keeps z (State.takeCommand s code) := by
  unfold State.takeCommand
  repeat' first
    | with_reducible assumption
    | with_reducible apply State.cmdAbort_keeps
    | with_reducible apply State.endHold_keeps
    | with_reducible apply State.fabricReset_keeps
    | split

theorem State.takeCommands_keeps {z : Frame} {s : State} (h : Keeps z s) :
    Keeps z (State.takeCommands s) := by
  unfold State.takeCommands
  repeat' first
    | with_reducible assumption
    | with_reducible apply State.takeCommand_keeps
    | with_reducible apply State.setWatch_keeps
    | with_reducible refine keeps_foldl (fun t x ht => ?_) ?_

end Sys2Proof.Machine
end

