-- ==== Sys2Proof/Laws/KeepsRestore.lean ====
section
/-! SUPPORT. What the operations of Restore.lean keep (Keeps). -/

namespace Sys2Proof.Machine

open Sys2Proof

theorem State.setFst0_keeps {z : Frame} {s : State} (h : Keeps z s) (i v : Nat) :
    Keeps z (State.setFst0 s i v) := by
  unfold State.setFst0
  repeat' first
    | with_reducible assumption
    | with_reducible apply State.put_keeps
    | dsimp only
    | with_reducible apply keepsOf_eta
    | with_reducible apply keeps_mk

theorem State.promoteShard_keeps {z : Frame} {s : State} (h : Keeps z s) (x : Nat × List Byte × Nat × Shard) :
    Keeps z (State.promoteShard s x) := by
  unfold State.promoteShard
  repeat' first
    | with_reducible assumption
    | with_reducible apply State.hbmCopy_keeps
    | with_reducible apply State.bump_keeps
    | with_reducible refine keeps_foldl (fun t x ht => ?_) ?_
    | with_reducible refine keeps_foldl_1 (fun t x ht => ?_) ?_
    | with_reducible refine keeps_foldl_2 (fun t x ht => ?_) ?_
    | with_reducible refine keeps_foldl_3 (fun t x ht => ?_) ?_
    | split
    | dsimp only

theorem State.promote_keeps {z : Frame} {s : State} (h : Keeps z s) (i : Nat) :
    Keeps z (State.promote s i) := by
  unfold State.promote
  repeat' first
    | with_reducible assumption
    | with_reducible apply State.promoteShard_keeps
    | with_reducible apply State.setFst0_keeps
    | with_reducible apply State.setWatch_keeps
    | with_reducible apply State.wr_keeps
    | with_reducible refine keeps_foldl (fun t x ht => ?_) ?_

theorem State.promoteAll_keeps {z : Frame} {s : State} (h : Keeps z s) :
    Keeps z (State.promoteAll s) := by
  unfold State.promoteAll
  repeat' first
    | with_reducible assumption
    | with_reducible apply State.promote_keeps
    | with_reducible apply State.setWatch_keeps
    | with_reducible refine keeps_foldl (fun t x ht => ?_) ?_

theorem State.demote_keeps {z : Frame} {s : State} (h : Keeps z s) :
    Keeps z (State.demote s) := by
  unfold State.demote
  repeat' first
    | with_reducible assumption
    | with_reducible apply State.setFst0_keeps
    | with_reducible apply State.setWatch_keeps
    | with_reducible apply State.wr_keeps
    | with_reducible refine keeps_foldl (fun t x ht => ?_) ?_

theorem State.drain_keeps {z : Frame} {s : State} (h : Keeps z s) :
    Keeps z (State.drain s) := by
  unfold State.drain
  repeat' first
    | with_reducible assumption
    | with_reducible apply State.demote_keeps
    | with_reducible apply State.drainDeadline_keeps
    | split

theorem State.showPending_keeps {z : Frame} {s : State} (h : Keeps z s) :
    Keeps z (State.showPending s) := by
  unfold State.showPending
  repeat' first
    | with_reducible assumption
    | with_reducible apply State.wr_keeps
    | split

theorem State.setRestore_keeps {z : Frame} {s : State} (h : Keeps z s) (r : Option Restore) :
    Keeps z (State.setRestore s r) := by
  unfold State.setRestore
  repeat' first
    | with_reducible assumption
    | with_reducible apply State.showPending_keeps
    | with_reducible apply State.setWatch_keeps

theorem State.restoreEvent_keeps {z : Frame} {s : State} (h : Keeps z s) (phase bytes : Nat) :
    Keeps z (State.restoreEvent s phase bytes) := by
  unfold State.restoreEvent
  repeat' first
    | with_reducible assumption
    | with_reducible apply State.eventE_keeps

theorem State.restorePhaseEnd_keeps {z : Frame} {s : State} (h : Keeps z s) (r : Restore) :
    Keeps z (State.restorePhaseEnd s r) := by
  unfold State.restorePhaseEnd
  repeat' first
    | with_reducible assumption
    | with_reducible apply State.restoreEvent_keeps
    | with_reducible apply State.setRestore_keeps
    | with_reducible apply State.reportSelf_keeps
    | with_reducible apply State.wr_keeps

theorem State.copySetup_keeps {z : Frame} {s : State} (h : Keeps z s) (k i : Nat) :
    Keeps z (State.copySetup s k i) := by
  unfold State.copySetup
  repeat' first
    | with_reducible assumption
    | with_reducible apply State.wrs_keeps
    | with_reducible apply State.wr2_keeps
    | split
    | dsimp only

theorem State.copyGo_keeps {z : Frame} {s : State} (h : Keeps z s) :
    Keeps z (State.copyGo s) := by
  unfold State.copyGo
  repeat' first
    | with_reducible assumption
    | with_reducible apply State.copySetup_keeps
    | with_reducible apply State.setRestore_keeps
    | with_reducible apply State.mvGo_keeps
    | split
    | dsimp only

theorem State.copyStart_keeps {z : Frame} {s : State} (h : Keeps z s) (r : Restore) (i : Nat) :
    Keeps z (State.copyStart s r i) := by
  unfold State.copyStart
  repeat' first
    | with_reducible assumption
    | with_reducible apply State.copyGo_keeps
    | with_reducible apply State.setRestore_keeps
    | split
    | dsimp only

theorem State.rebuildNext_keeps {z : Frame} {s : State} (h : Keeps z s) (r : Restore) :
    Keeps z (State.rebuildNext s r) := by
  unfold State.rebuildNext
  repeat' first
    | with_reducible assumption
    | with_reducible apply State.copyStart_keeps
    | with_reducible apply State.restoreEvent_keeps
    | with_reducible apply State.setRestore_keeps
    | split
    | dsimp only

theorem State.restoreNext_keeps {z : Frame} {s : State} (h : Keeps z s) :
    Keeps z (State.restoreNext s) := by
  unfold State.restoreNext
  repeat' first
    | with_reducible assumption
    | with_reducible apply State.rebuildNext_keeps
    | with_reducible apply State.copyStart_keeps
    | with_reducible apply State.restorePhaseEnd_keeps
    | split
    | dsimp only

theorem State.restoreStart_keeps {z : Frame} {s : State} (h : Keeps z s) (l : List Nat) :
    Keeps z (State.restoreStart s l) := by
  unfold State.restoreStart
  repeat' first
    | with_reducible assumption
    | with_reducible apply State.restoreNext_keeps
    | with_reducible apply State.setRestore_keeps
    | with_reducible apply State.markStale_keeps
    | with_reducible apply State.pairLoss_keeps
    | with_reducible apply State.causeAtSwitch_keeps
    | with_reducible apply State.addHold_keeps
    | with_reducible apply State.reportSelf_keeps
    | with_reducible apply State.wr2_keeps
    | with_reducible apply State.wr_keeps
    | with_reducible refine keeps_foldl (fun t x ht => ?_) ?_
    | split
    | dsimp only

theorem State.rbGo_keeps {z : Frame} {s : State} (h : Keeps z s) (v : Nat) :
    Keeps z (State.rbGo s v) := by
  unfold State.rbGo
  repeat' first
    | with_reducible assumption
    | with_reducible apply State.restoreStart_keeps
    | with_reducible apply State.put_keeps
    | split

theorem State.restoreFail_keeps {z : Frame} {s : State} (h : Keeps z s) :
    Keeps z (State.restoreFail s) := by
  unfold State.restoreFail
  repeat' first
    | with_reducible assumption
    | with_reducible apply State.setRestore_keeps
    | with_reducible apply State.reportSelf_keeps
    | with_reducible apply State.err_keeps
    | with_reducible apply State.wr_keeps
    | split
    | dsimp only

theorem State.watchWrite_keeps {z : Frame} {s : State} (h : Keeps z s) (c tag off v : Nat) :
    Keeps z (State.watchWrite s c tag off v) := by
  unfold State.watchWrite
  repeat' first
    | with_reducible assumption
    | with_reducible apply State.inject_keeps

theorem State.watchRead_keeps {z : Frame} {s : State} (h : Keeps z s) (c tag off : Nat) :
    Keeps z (State.watchRead s c tag off) := by
  unfold State.watchRead
  repeat' first
    | with_reducible assumption
    | with_reducible apply State.inject_keeps

theorem State.checkStart_keeps {z : Frame} {s : State} (h : Keeps z s) (i : Nat) :
    Keeps z (State.checkStart s i) := by
  unfold State.checkStart
  repeat' first
    | with_reducible assumption
    | with_reducible apply State.watchWrite_keeps
    | with_reducible apply State.chkGo_keeps
    | with_reducible apply State.wrs_keeps

theorem State.checkAsk_keeps {z : Frame} {s : State} (h : Keeps z s) :
    Keeps z (State.checkAsk s) := by
  unfold State.checkAsk
  repeat' first
    | with_reducible assumption
    | with_reducible apply State.watchRead_keeps
    | with_reducible refine keeps_foldl (fun t x ht => ?_) ?_
    | with_reducible refine keeps_foldl_1 (fun t x ht => ?_) ?_
    | with_reducible refine keeps_foldl_2 (fun t x ht => ?_) ?_
    | with_reducible refine keeps_foldl_3 (fun t x ht => ?_) ?_
    | split
    | dsimp only

theorem State.restoreTurn_keeps {z : Frame} {s : State} (h : Keeps z s) :
    Keeps z (State.restoreTurn s) := by
  unfold State.restoreTurn
  repeat' first
    | with_reducible assumption
    | with_reducible apply State.checkAsk_keeps
    | with_reducible apply State.copyGo_keeps
    | split
    | dsimp only

theorem State.copyCount_keeps {z : Frame} {s : State} (h : Keeps z s) (i : Nat) :
    Keeps z (State.copyCount s i) := by
  unfold State.copyCount
  repeat' first
    | with_reducible assumption
    | with_reducible apply State.wr2_keeps
    | split
    | dsimp only

theorem State.rebuilt_keeps {z : Frame} {s : State} (h : Keeps z s) (i : Nat) :
    Keeps z (State.rebuilt s i) := by
  unfold State.rebuilt
  repeat' first
    | with_reducible assumption
    | with_reducible apply State.markStale_keeps
    | with_reducible apply State.setWatch_keeps
    | split
    | dsimp only

theorem State.copyDone_keeps {z : Frame} {s : State} (h : Keeps z s) (ok : Bool) :
    Keeps z (State.copyDone s ok) := by
  unfold State.copyDone
  repeat' first
    | with_reducible assumption
    | with_reducible apply State.rebuilt_keeps
    | with_reducible apply State.copyCount_keeps
    | with_reducible apply State.checkStart_keeps
    | with_reducible apply State.restoreFail_keeps
    | with_reducible apply State.restoreNext_keeps
    | with_reducible apply State.setRestore_keeps
    | with_reducible apply State.mvResume_keeps
    | split
    | dsimp only

theorem State.checkDone_keeps {z : Frame} {s : State} (h : Keeps z s) (srcSum srcNorm : Nat) :
    Keeps z (State.checkDone s srcSum srcNorm) := by
  unfold State.checkDone
  repeat' first
    | with_reducible assumption
    | with_reducible apply State.restoreFail_keeps
    | with_reducible apply State.restoreNext_keeps
    | with_reducible apply State.copyGo_keeps
    | with_reducible apply State.setRestore_keeps
    | split
    | dsimp only

theorem State.takeVariant_keeps {z : Frame} {s : State} (h : Keeps z s) :
    Keeps z (State.takeVariant s) := by
  unfold State.takeVariant
  repeat' first
    | with_reducible assumption
    | with_reducible apply State.setSched_keeps
    | with_reducible apply State.moduleFault_keeps
    | with_reducible apply State.err_keeps
    | with_reducible apply State.wr_keeps
    | split
    | dsimp only

theorem State.enterHold_keeps {z : Frame} {s : State} (h : Keeps z s) (t set : Nat) :
    Keeps z (State.enterHold s t set) := by
  unfold State.enterHold
  repeat' first
    | with_reducible assumption
    | with_reducible apply State.addHold_keeps
    | with_reducible apply State.setWatch_keeps
    | with_reducible apply State.eventE_keeps
    | split

theorem State.reselectVariant_keeps {z : Frame} {s : State} (h : Keeps z s) (t : Nat) :
    Keeps z (State.reselectVariant s t) := by
  unfold State.reselectVariant
  repeat' first
    | with_reducible assumption
    | with_reducible apply State.selectVariant_keeps
    | with_reducible apply State.setWatch_keeps
    | with_reducible apply State.wr_keeps
    | split

theorem State.switchAct_keeps {z : Frame} {s : State} (h : Keeps z s) (t : Nat) :
    Keeps z (State.switchAct s t) := by
  unfold State.switchAct
  repeat' first
    | with_reducible assumption
    | with_reducible apply State.reselectVariant_keeps
    | with_reducible apply State.enterHold_keeps
    | with_reducible apply State.takeVariant_keeps
    | with_reducible apply State.restoreStart_keeps
    | with_reducible apply State.promoteAll_keeps
    | with_reducible apply State.setWatch_keeps
    | split
    | dsimp only

theorem State.switchTick_keeps {z : Frame} {s : State} (h : Keeps z s) :
    Keeps z (State.switchTick s) := by
  unfold State.switchTick
  repeat' first
    | with_reducible assumption
    | with_reducible apply State.switchAct_keeps
    | split

theorem State.pairStart_keeps {z : Frame} {s : State} (h : Keeps z s) :
    Keeps z (State.pairStart s) := by
  unfold State.pairStart
  repeat' first
    | with_reducible assumption
    | with_reducible apply State.watchRead_keeps

theorem State.writePartner_keeps {z : Frame} {s : State} (h : Keeps z s) (v : Nat) :
    Keeps z (State.writePartner s v) := by
  unfold State.writePartner
  repeat' first
    | with_reducible assumption
    | with_reducible apply State.pairStart_keeps
    | with_reducible apply State.swField_keeps
    | split
    | dsimp only

theorem State.pairAnswer_keeps {z : Frame} {s : State} (h : Keeps z s) (a : Option Nat) :
    Keeps z (State.pairAnswer s a) := by
  unfold State.pairAnswer
  repeat' first
    | with_reducible assumption
    | with_reducible apply State.err_keeps
    | with_reducible apply State.wrb_keeps
    | split
    | dsimp only

theorem State.commitEntry_keeps {z : Frame} {s : State} (h : Keeps z s) :
    Keeps z (State.commitEntry s) := by
  unfold State.commitEntry
  repeat' first
    | with_reducible assumption
    | with_reducible apply State.pairStart_keeps
    | with_reducible apply State.fstCommit_keeps
    | split
    | dsimp only

theorem State.join_keeps {z : Frame} {s : State} (h : Keeps z s) (v : Nat) :
    Keeps z (State.join s v) := by
  unfold State.join
  repeat' first
    | with_reducible assumption
    | with_reducible apply State.pairStart_keeps
    | with_reducible apply State.setWatch_keeps
    | with_reducible apply State.err_keeps
    | with_reducible apply State.wrb_keeps
    | with_reducible apply State.put_keeps
    | split
    | dsimp only

theorem State.joinAdopt_keeps {z : Frame} {s : State} (h : Keeps z s) (hj : ∀ n, z.ok (n % tickMod)) (d : Nat) (m :
    Marker) :
    Keeps z (State.joinAdopt s d m) := by
  unfold State.joinAdopt
  repeat' first
    | with_reducible assumption
    | with_reducible apply State.setWatch_keeps
    | with_reducible apply State.wrs_keeps
    | with_reducible apply State.wr_keeps
    | with_reducible apply State.setBelfry_keeps
    | with_reducible apply tickOk_eta
    | exact hj _
    | split
    | dsimp only

end Sys2Proof.Machine
end

