-- ==== Sys2Proof/Laws/KeepsTrust.lean ====
section
/-! SUPPORT. What the operations of Trust.lean keep (Keeps). -/

namespace Sys2Proof.Machine

open Sys2Proof

theorem State.writeNext_keeps {z : Frame} {s : State} (h : Keeps z s) (slot : Nat) :
    Keeps z (State.writeNext s slot) := by
  unfold State.writeNext
  repeat' first
    | with_reducible assumption
    | with_reducible apply State.poke_keeps
    | with_reducible apply State.wr_keeps

theorem State.showSlot_keeps {z : Frame} {s : State} (h : Keeps z s) (slot : Nat) :
    Keeps z (State.showSlot s slot) := by
  unfold State.showSlot
  repeat' first
    | with_reducible assumption
    | with_reducible apply State.wri_keeps

theorem State.loadKeys_keeps {z : Frame} {s : State} (h : Keeps z s) :
    Keeps z (State.loadKeys s) := by
  unfold State.loadKeys
  repeat' first
    | with_reducible assumption
    | with_reducible apply State.err_keeps
    | split
    | dsimp only
    | with_reducible apply keepsOf_eta
    | with_reducible apply keeps_mk

theorem State.enroll_keeps {z : Frame} {s : State} (h : Keeps z s) :
    Keeps z (State.enroll s) := by
  unfold State.enroll
  repeat' first
    | with_reducible assumption
    | with_reducible apply State.err_keeps
    | with_reducible apply State.put_keeps
    | split
    | dsimp only
    | with_reducible apply keepsOf_eta
    | with_reducible apply keeps_mk

theorem State.revoke_keeps {z : Frame} {s : State} (h : Keeps z s) :
    Keeps z (State.revoke s) := by
  unfold State.revoke
  repeat' first
    | with_reducible assumption
    | with_reducible apply State.err_keeps
    | with_reducible apply State.put_keeps
    | split
    | dsimp only
    | with_reducible apply keepsOf_eta
    | with_reducible apply keeps_mk

theorem State.keySave_keeps {z : Frame} {s : State} (h : Keeps z s) :
    Keeps z (State.keySave s) := by
  unfold State.keySave
  repeat' first
    | with_reducible assumption
    | with_reducible apply State.poke_keeps
    | with_reducible apply State.err_keeps
    | split

theorem State.loadCalField_keeps {z : Frame} {s : State} (h : Keeps z s) (good : Bool) (r : Reg) :
    Keeps z (State.loadCalField s good r) := by
  unfold State.loadCalField
  repeat' first
    | with_reducible assumption
    | with_reducible apply Served.count_keeps
    | with_reducible apply State.put_keeps
    | with_reducible refine keeps_foldl (fun t x ht => ?_) ?_

theorem State.loadCal_keeps {z : Frame} {s : State} (h : Keeps z s) :
    Keeps z (State.loadCal s) := by
  unfold State.loadCal
  repeat' first
    | with_reducible assumption
    | with_reducible apply State.loadCalField_keeps
    | with_reducible apply State.wrs_keeps
    | with_reducible refine keeps_foldl (fun t x ht => ?_) ?_

theorem State.bpLoad_keeps {z : Frame} {s : State} (h : Keeps z s) :
    Keeps z (State.bpLoad s) := by
  unfold State.bpLoad
  repeat' first
    | with_reducible assumption
    | with_reducible apply State.wr_keeps
    | with_reducible apply State.put_keeps
    | with_reducible refine keeps_foldl (fun t x ht => ?_) ?_
    | split
    | dsimp only

theorem State.setLock_keeps {z : Frame} {s : State} (h : Keeps z s) (p : PageId) :
    Keeps z (State.setLock s p) := by
  unfold State.setLock
  repeat' first
    | with_reducible assumption
    | with_reducible apply State.put_keeps

theorem State.applyBp_keeps {z : Frame} {s : State} (h : Keeps z s) :
    Keeps z (State.applyBp s) := by
  unfold State.applyBp
  repeat' first
    | with_reducible assumption
    | with_reducible apply State.setLock_keeps
    | with_reducible apply State.setBelfry_keeps
    | with_reducible apply State.swField_keeps
    | with_reducible refine keeps_foldl (fun t x ht => ?_) ?_
    | with_reducible apply tickOk_eta
    | split

theorem State.runSlot_keeps {z : Frame} {s : State} (h : Keeps z s) (slot : Nat) :
    Keeps z (State.runSlot s slot) := by
  unfold State.runSlot
  repeat' first
    | with_reducible assumption
    | with_reducible apply State.bpLoad_keeps
    | with_reducible apply State.loadKeys_keeps
    | with_reducible apply State.extend_keeps
    | with_reducible apply State.clearMeas_keeps
    | with_reducible apply State.setMeas_keeps
    | with_reducible apply State.wrs_keeps
    | with_reducible refine keeps_foldl (fun t x ht => ?_) ?_
    | split
    | dsimp only
    | with_reducible apply keepsOf_eta
    | with_reducible apply keeps_mk

theorem State.finialPhase_keeps {z : Frame} {s : State} (h : Keeps z s) :
    Keeps z (State.finialPhase s) := by
  unfold State.finialPhase
  repeat' first
    | with_reducible assumption
    | with_reducible apply State.runSlot_keeps
    | with_reducible apply State.showSlot_keeps
    | with_reducible apply State.err_keeps
    | with_reducible apply State.wr_keeps
    | split
    | dsimp only

theorem State.updRefused_keeps {z : Frame} {s : State} (h : Keeps z s) (code : Nat) :
    Keeps z (State.updRefused s code) := by
  unfold State.updRefused
  repeat' first
    | with_reducible assumption
    | with_reducible apply State.err_keeps
    | with_reducible apply State.wrs_keeps

theorem State.updGo_keeps {z : Frame} {s : State} (h : Keeps z s) (key : Nat) :
    Keeps z (State.updGo s key) := by
  unfold State.updGo
  repeat' first
    | with_reducible assumption
    | with_reducible apply State.updRefused_keeps
    | with_reducible apply State.wrs_keeps
    | with_reducible apply State.wri_keeps
    | with_reducible apply State.zeroRange_keeps
    | split
    | dsimp only
    | with_reducible apply keepsOf_eta
    | with_reducible apply keeps_mk

theorem State.updateComplete_keeps {z : Frame} {s : State} (h : Keeps z s) :
    Keeps z (State.updateComplete s) := by
  unfold State.updateComplete
  repeat' first
    | with_reducible assumption
    | with_reducible apply State.updRefused_keeps
    | with_reducible apply State.showSlot_keeps
    | with_reducible apply State.writeNext_keeps
    | with_reducible apply State.poke_keeps
    | with_reducible apply State.wr_keeps
    | split
    | dsimp only
    | with_reducible apply keepsOf_eta
    | with_reducible apply keeps_mk

theorem State.fwCommit_keeps {z : Frame} {s : State} (h : Keeps z s) (key : Nat) : Keeps z (State.fwCommit s key) := by
  unfold State.fwCommit
  split
  · exact h
  · split
    · rename_i hlt
      exact { h with svn := Nat.le_trans h.svn (Nat.le_of_lt hlt) }
    · with_reducible apply State.err_keeps
      split
      · with_reducible exact State.wr_keeps h _ _ _
      · with_reducible exact State.wr_keeps (State.wr_keeps h _ _ _) _ _ _

theorem State.fkeyRevoke_keeps {z : Frame} {s : State} (h : Keeps z s) (mask key : Nat) : Keeps z (State.fkeyRevoke s mask key) := by
  unfold State.fkeyRevoke
  split
  · exact h
  · have h1 : Keeps z { s with fuses := { s.fuses with
        revoked := Nat.lor s.fuses.revoked (clrBit (mask % 16) (s.rd pgFinial Fin.FKEY_IDX)) } } :=
      { h with revoked := fun i hi => (Nat.testBit_or _ _ i).trans (by rw [h.revoked i hi, Bool.true_or]) }
    dsimp only
    split
    · with_reducible exact State.err_keeps h1 _ _
    · with_reducible exact h1

theorem State.drawChal_keeps {z : Frame} {s : State} (h : Keeps z s) :
    Keeps z (State.drawChal s) := by
  unfold State.drawChal
  repeat' first
    | with_reducible assumption
    | with_reducible apply State.draw_keeps
    | with_reducible apply State.put_keeps
    | with_reducible refine keeps_foldl (fun t x ht => ?_) ?_

theorem State.token_keeps {z : Frame} {s : State} (h : Keeps z s) (f : State → State) (hf : ∀ t, Keeps z t → Keeps z (f t)) :
    Keeps z (State.token s f) := by
  unfold State.token
  split
  · exact State.err_keeps h _ _
  · split
    · exact hf _ (State.drawChal_keeps h)
    · exact State.err_keeps (State.drawChal_keeps h) _ _

theorem State.testReq_keeps {z : Frame} {s : State} (h : Keeps z s) :
    Keeps z (State.testReq s) := by
  unfold State.testReq
  repeat' first
    | with_reducible assumption
    | with_reducible apply State.token_keeps
    | with_reducible apply State.wrb_keeps
    | intro _

theorem State.dbgReq_keeps {z : Frame} {s : State} (h : Keeps z s) :
    Keeps z (State.dbgReq s) := by
  unfold State.dbgReq
  repeat' first
    | with_reducible assumption
    | with_reducible apply State.token_keeps
    | with_reducible apply State.wrb_keeps
    | intro _

theorem State.attGo_keeps {z : Frame} {s : State} (h : Keeps z s) :
    Keeps z (State.attGo s) := by
  unfold State.attGo
  repeat' first
    | with_reducible assumption
    | with_reducible apply State.wr_keeps
    | split
    | dsimp only
    | with_reducible apply keepsOf_eta
    | with_reducible apply keeps_mk

theorem State.attSample_keeps {z : Frame} {s : State} (h : Keeps z s) :
    Keeps z (State.attSample s) := by
  unfold State.attSample
  repeat' first
    | with_reducible assumption
    | split
    | dsimp only
    | with_reducible apply keepsOf_eta
    | with_reducible apply keeps_mk

theorem State.attReady_keeps {z : Frame} {s : State} (h : Keeps z s) :
    Keeps z (State.attReady s) := by
  unfold State.attReady
  repeat' first
    | with_reducible assumption
    | with_reducible apply State.wr_keeps
    | split
    | dsimp only
    | with_reducible apply keepsOf_eta
    | with_reducible apply keeps_mk

theorem State.readAtt_keeps {z : Frame} {s : State} (h : Keeps z s) :
    Keeps z (State.readAtt s).2 := by
  unfold State.readAtt
  repeat' first
    | with_reducible assumption
    | with_reducible apply State.wr_keeps



theorem State.vaneReading_keeps {z : Frame} {s : State} (h : Keeps z s) (mainMj backupMj pMain pBackup : Nat) (fault : Bool) :
    Keeps z (State.vaneReading s mainMj backupMj pMain pBackup fault) :=
  { h with
    eMain := Nat.le_trans h.eMain (Nat.le_max_left _ _)
    eBackup := Nat.le_trans h.eBackup (Nat.le_max_left _ _) }

theorem State.vaneCommit_keeps {z : Frame} {s : State} (h : Keeps z s) : Keeps z (State.vaneCommit s) := { h with }

theorem State.tamperBreak_keeps {z : Frame} {s : State} (h : Keeps z s) : Keeps z (State.tamperBreak s) := by
  unfold State.tamperBreak
  split
  · exact h
  · rename_i ht
    exact { h with tamper := fun hz => absurd (h.tamper hz).1 ht }

theorem State.vmShow_keeps {z : Frame} {s : State} (h : Keeps z s) (l : List Byte) :
    Keeps z (State.vmShow s l) := by
  unfold State.vmShow
  repeat' first
    | with_reducible assumption
    | with_reducible apply State.wrs_keeps

theorem State.vmRise_keeps {z : Frame} {s : State} (h : Keeps z s) (old new flag errBit : Nat) :
    Keeps z (State.vmRise s old new flag errBit) := by
  unfold State.vmRise
  repeat' first
    | with_reducible assumption
    | with_reducible apply State.err_keeps
    | split

theorem State.vaneMirror_keeps {z : Frame} {s : State} (h : Keeps z s) (l : List Byte) :
    Keeps z (State.vaneMirror s l) := by
  unfold State.vaneMirror
  repeat' first
    | with_reducible assumption
    | with_reducible apply State.vmRise_keeps
    | with_reducible apply State.vmShow_keeps
    | with_reducible apply State.err_keeps
    | with_reducible apply State.bump_keeps
    | with_reducible apply State.wr_keeps
    | split
    | dsimp only
    | with_reducible apply keepsOf_eta
    | with_reducible apply keeps_mk

theorem State.vaneStale_keeps {z : Frame} {s : State} (h : Keeps z s) :
    Keeps z (State.vaneStale s) := by
  unfold State.vaneStale
  repeat' first
    | with_reducible assumption
    | with_reducible apply State.err_keeps
    | with_reducible apply State.wr_keeps
    | split

theorem State.readVmSeq_keeps {z : Frame} {s : State} (h : Keeps z s) :
    Keeps z (State.readVmSeq s).2 := by
  unfold State.readVmSeq
  repeat' first
    | with_reducible assumption
    | with_reducible apply State.vmShow_keeps
    | split
    | dsimp only
    | with_reducible apply keepsOf_eta
    | with_reducible apply keeps_mk

theorem State.readVmSig_keeps {z : Frame} {s : State} (h : Keeps z s) :
    Keeps z (State.readVmSig s).2 := by
  unfold State.readVmSig
  repeat' first
    | with_reducible assumption
    | with_reducible apply State.wr_keeps

end Sys2Proof.Machine
end

