-- ==== Sys2Proof/Laws/KeepsPower.lean ====
section
/-! SUPPORT. What the operations of Power.lean keep (Keeps). -/

namespace Sys2Proof.Machine

open Sys2Proof

theorem State.setPower_keeps {z : Frame} {s : State} (h : Keeps z s) (p : Power) :
    Keeps z (State.setPower s p) := by
  unfold State.setPower
  repeat' first
    | with_reducible assumption
    | dsimp only
    | with_reducible apply keepsOf_eta
    | with_reducible apply keeps_mk

theorem State.showFeed_keeps {z : Frame} {s : State} (h : Keeps z s) (feed : Nat) (ok : Bool) :
    Keeps z (State.showFeed s feed ok) := by
  unfold State.showFeed
  repeat' first
    | with_reducible assumption
    | with_reducible apply State.wrb_keeps

theorem State.switchFeed_keeps {z : Frame} {s : State} (h : Keeps z s) (feed : Nat) :
    Keeps z (State.switchFeed s feed) := by
  unfold State.switchFeed
  repeat' first
    | with_reducible assumption
    | with_reducible apply State.err_keeps
    | with_reducible apply State.eventE_keeps
    | with_reducible apply State.bump_keeps
    | with_reducible apply State.wr_keeps

theorem State.feedBad_keeps {z : Frame} {s : State} (h : Keeps z s) (feed : Nat) :
    Keeps z (State.feedBad s feed) := by
  unfold State.feedBad
  repeat' first
    | with_reducible assumption
    | with_reducible apply State.switchFeed_keeps
    | with_reducible apply State.showFeed_keeps
    | with_reducible apply State.err_keeps
    | with_reducible apply State.wr_keeps
    | split
    | dsimp only

theorem State.feedGood_keeps {z : Frame} {s : State} (h : Keeps z s) (feed : Nat) :
    Keeps z (State.feedGood s feed) := by
  unfold State.feedGood
  repeat' first
    | with_reducible assumption
    | with_reducible apply State.switchFeed_keeps
    | with_reducible apply State.showFeed_keeps
    | with_reducible apply State.wr_keeps
    | split
    | dsimp only

theorem State.feedReturn_keeps {z : Frame} {s : State} (h : Keeps z s) :
    Keeps z (State.feedReturn s) := by
  unfold State.feedReturn
  repeat' first
    | with_reducible assumption
    | with_reducible apply State.switchFeed_keeps
    | split

theorem State.diesOff_keeps {z : Frame} {s : State} (h : Keeps z s) (h0 : z.ok 0) :
    Keeps z (State.diesOff s) := by
  unfold State.diesOff
  repeat' first
    | with_reducible assumption
    | with_reducible apply State.rebuild_keeps

theorem State.holdupExpiry_keeps {z : Frame} {s : State} (h : Keeps z s) (h0 : z.ok 0) :
    Keeps z (State.holdupExpiry s) := by
  unfold State.holdupExpiry
  repeat' first
    | with_reducible assumption
    | with_reducible apply State.diesOff_keeps
    | with_reducible apply State.setPower_keeps
    | with_reducible apply State.vaneCommit_keeps
    | with_reducible apply State.wrs_keeps
    | split

theorem State.enterP4_keeps {z : Frame} {s : State} (h : Keeps z s) (h0 : z.ok 0) (cause sensor : Nat) :
    Keeps z (State.enterP4 s cause sensor) := by
  unfold State.enterP4
  repeat' first
    | with_reducible assumption
    | with_reducible apply State.diesOff_keeps
    | with_reducible apply State.setPower_keeps
    | with_reducible apply State.wrs_keeps

theorem State.coolantConfirm_keeps {z : Frame} {s : State} (h : Keeps z s) :
    Keeps z (State.coolantConfirm s) := by
  unfold State.coolantConfirm
  repeat' first
    | with_reducible assumption
    | with_reducible apply State.setPower_keeps
    | with_reducible apply State.wr_keeps
    | split

theorem State.coolChange_keeps {z : Frame} {s : State} (h : Keeps z s) (flow inlet : Nat) :
    Keeps z (State.coolChange s flow inlet) := by
  unfold State.coolChange
  repeat' first
    | with_reducible assumption
    | with_reducible apply State.setPower_keeps
    | with_reducible apply State.err_keeps
    | with_reducible apply State.wrs_keeps
    | with_reducible apply State.wrb_keeps
    | split
    | dsimp only

theorem State.tripNow_keeps {z : Frame} {s : State} (h : Keeps z s) (h0 : z.ok 0) (cause sensor : Nat) :
    Keeps z (State.tripNow s cause sensor) := by
  unfold State.tripNow
  repeat' first
    | with_reducible assumption
    | with_reducible apply State.enterP4_keeps
    | with_reducible apply State.setPower_keeps
    | split

theorem State.coldStart_keeps {z : Frame} {s : State} (h : Keeps z s) (h0 : z.ok 0) :
    Keeps z (State.coldStart s) := by
  unfold State.coldStart
  repeat' first
    | with_reducible assumption
    | with_reducible apply State.drawChal_keeps
    | with_reducible apply State.coldReset_keeps
    | split
    | dsimp only

theorem State.modReset_keeps {z : Frame} {s : State} (h : Keeps z s) (h0 : z.ok 0) (src : Nat) :
    Keeps z (State.modReset s src) := by
  unfold State.modReset
  repeat' first
    | with_reducible assumption
    | with_reducible apply State.moduleReset_keeps
    | with_reducible apply State.wr_keeps
    | with_reducible refine keeps_foldl (fun t x ht => ?_) ?_

theorem State.resetAssert_keeps {z : Frame} {s : State} (h : Keeps z s) (h0 : z.ok 0) :
    Keeps z (State.resetAssert s) := by
  unfold State.resetAssert
  repeat' first
    | with_reducible assumption
    | with_reducible apply State.modReset_keeps
    | with_reducible apply State.setPower_keeps
    | split

theorem State.resetRelease_keeps {z : Frame} {s : State} (h : Keeps z s) (progEnN : Bool) :
    Keeps z (State.resetRelease s progEnN) := by
  unfold State.resetRelease
  repeat' first
    | with_reducible assumption
    | with_reducible apply State.setPower_keeps
    | split

theorem State.reqRefused_keeps {z : Frame} {s : State} (h : Keeps z s) :
    Keeps z (State.reqRefused s) := by
  unfold State.reqRefused
  repeat' first
    | with_reducible assumption
    | with_reducible apply State.err_keeps

theorem State.trainStacks_keeps {z : Frame} {s : State} (h : Keeps z s) (all : Bool) :
    Keeps z (State.trainStacks s all) := by
  unfold State.trainStacks
  repeat' first
    | with_reducible assumption
    | with_reducible apply State.wr_keeps
    | with_reducible refine keeps_foldl (fun t x ht => ?_) ?_
    | split
    | dsimp only

theorem State.leaveP3_keeps {z : Frame} {s : State} (h : Keeps z s) :
    Keeps z (State.leaveP3 s) := by
  unfold State.leaveP3
  repeat' first
    | with_reducible assumption
    | with_reducible apply State.trainStacks_keeps
    | with_reducible apply State.wr_keeps
    | split
    | dsimp only

theorem State.modReq_keeps {z : Frame} {s : State} (h : Keeps z s) (h0 : z.ok 0) (code key : Nat) :
    Keeps z (State.modReq s code key) := by
  unfold State.modReq
  repeat' first
    | with_reducible assumption
    | with_reducible apply State.leaveP3_keeps
    | with_reducible apply State.reqRefused_keeps
    | with_reducible apply State.modReset_keeps
    | with_reducible apply State.enterP4_keeps
    | with_reducible apply State.atomFlush_keeps
    | with_reducible apply State.wr_keeps
    | with_reducible refine keeps_foldl (fun t x ht => ?_) ?_
    | split
    | dsimp only

theorem State.p3Entered_keeps {z : Frame} {s : State} (h : Keeps z s) (h0 : z.ok 0) :
    Keeps z (State.p3Entered s) := by
  unfold State.p3Entered
  repeat' first
    | with_reducible assumption
    | with_reducible apply State.setPower_keeps
    | with_reducible apply State.rebuild_keeps
    | with_reducible apply State.wr_keeps
    | with_reducible refine keeps_foldl (fun t x ht => ?_) ?_
    | split

theorem State.p3Exited_keeps {z : Frame} {s : State} (h : Keeps z s) (h0 : z.ok 0) :
    Keeps z (State.p3Exited s) := by
  unfold State.p3Exited
  repeat' first
    | with_reducible assumption
    | with_reducible apply State.applyBp_keeps
    | with_reducible apply State.rebuild_keeps
    | with_reducible apply State.default_keeps
    | with_reducible apply State.keepRegs_keeps
    | with_reducible apply State.wr_keeps
    | with_reducible refine keeps_foldl (fun t x ht => ?_) ?_
    | split

theorem State.wake_keeps {z : Frame} {s : State} (h : Keeps z s) (h0 : z.ok 0) :
    Keeps z (State.wake s) := by
  unfold State.wake
  repeat' first
    | with_reducible assumption
    | with_reducible apply State.leaveP3_keeps
    | with_reducible apply State.coldStart_keeps
    | split
    | dsimp only

theorem State.shdn_keeps {z : Frame} {s : State} (h : Keeps z s) (h0 : z.ok 0) (low : Bool) :
    Keeps z (State.shdn s low) := by
  unfold State.shdn
  repeat' first
    | with_reducible assumption
    | with_reducible apply State.enterP4_keeps
    | with_reducible apply State.setPower_keeps
    | split

theorem State.restored_keeps {z : Frame} {s : State} (h : Keeps z s) (h0 : z.ok 0) :
    Keeps z (State.restored s) := by
  unfold State.restored
  repeat' first
    | with_reducible assumption
    | with_reducible apply State.coldStart_keeps
    | with_reducible apply State.setPower_keeps
    | split

theorem State.calSave_keeps {z : Frame} {s : State} (h : Keeps z s) :
    Keeps z (State.calSave s) := by
  unfold State.calSave
  repeat' first
    | with_reducible assumption
    | with_reducible apply State.zeroRange_keeps
    | with_reducible apply State.wrs_keeps
    | split

theorem State.calSaved_keeps {z : Frame} {s : State} (h : Keeps z s) :
    Keeps z (State.calSaved s) := by
  unfold State.calSaved
  repeat' first
    | with_reducible assumption
    | with_reducible apply State.poke_keeps
    | with_reducible apply State.wrs_keeps
    | split

theorem State.bpSave_keeps {z : Frame} {s : State} (h : Keeps z s) :
    Keeps z (State.bpSave s) := by
  unfold State.bpSave
  repeat' first
    | with_reducible assumption
    | with_reducible apply State.poke_keeps
    | with_reducible apply State.wr_keeps
    | split

theorem State.bpSaved_keeps {z : Frame} {s : State} (h : Keeps z s) :
    Keeps z (State.bpSaved s) := by
  unfold State.bpSaved
  repeat' first
    | with_reducible assumption
    | with_reducible apply State.poke_keeps
    | with_reducible apply State.wr_keeps
    | split

theorem State.nextPhase_keeps {z : Frame} {s : State} (h : Keeps z s) (ms : Nat) :
    Keeps z (State.nextPhase s ms) := by
  unfold State.nextPhase
  repeat' first
    | with_reducible assumption
    | with_reducible apply State.wr_keeps
    | with_reducible apply State.wri_keeps

theorem State.bootHbm_keeps {z : Frame} {s : State} (h : Keeps z s) (failed : List Nat) :
    Keeps z (State.bootHbm s failed) := by
  unfold State.bootHbm
  repeat' first
    | with_reducible assumption
    | with_reducible apply State.err_keeps
    | with_reducible apply State.wr_keeps
    | with_reducible refine keeps_foldl (fun t x ht => ?_) ?_
    | split

theorem State.bootLinks_keeps {z : Frame} {s : State} (h : Keeps z s) (failed : List Nat) (host : Bool) :
    Keeps z (State.bootLinks s failed host) := by
  unfold State.bootLinks
  repeat' first
    | with_reducible assumption
    | with_reducible apply State.hostLinkUp_keeps
    | with_reducible apply State.trainFail_keeps
    | with_reducible refine keeps_foldl (fun t x ht => ?_) ?_
    | split

theorem State.bootJoin_keeps {z : Frame} {s : State} (h : Keeps z s) :
    Keeps z (State.bootJoin s) := by
  unfold State.bootJoin
  repeat' first
    | with_reducible assumption
    | with_reducible apply State.join_keeps
    | with_reducible apply State.put_keeps
    | split
    | dsimp only

theorem State.selfTest_keeps {z : Frame} {s : State} (h : Keeps z s) (device : Nat) :
    Keeps z (State.selfTest s device) := by
  unfold State.selfTest
  repeat' first
    | with_reducible assumption
    | with_reducible apply State.err_keeps
    | with_reducible apply State.wrs_keeps
    | split
    | dsimp only

theorem State.bootComplete_keeps {z : Frame} {s : State} (h : Keeps z s) (r : BootResult) :
    Keeps z (State.bootComplete s r) := by
  unfold State.bootComplete
  repeat' first
    | with_reducible assumption
    | with_reducible apply State.selfTest_keeps
    | with_reducible apply State.bootJoin_keeps
    | with_reducible apply State.bootLinks_keeps
    | with_reducible apply State.bootHbm_keeps
    | with_reducible apply State.nextPhase_keeps
    | with_reducible apply State.trainStacks_keeps
    | with_reducible apply State.finialPhase_keeps
    | with_reducible apply State.applyBp_keeps
    | with_reducible apply State.loadCal_keeps
    | with_reducible apply State.wrs_keeps
    | split
    | dsimp only

theorem State.bootTimeout_keeps {z : Frame} {s : State} (h : Keeps z s) (code : Nat) :
    Keeps z (State.bootTimeout s code) := by
  unfold State.bootTimeout
  repeat' first
    | with_reducible assumption
    | with_reducible apply State.wrs_keeps
    | with_reducible apply State.wr_keeps
    | split

end Sys2Proof.Machine
end

