-- ==== Sys2Proof/Laws/KeepsRegAccess.lean ====
section
/-! SUPPORT. What the operations of RegAccess.lean keep (Keeps). -/

namespace Sys2Proof.Machine

open Sys2Proof

theorem State.setWindow_keeps {z : Frame} {s : State} (h : Keeps z s) (w : Nat) (x : CmdWin) :
    Keeps z (State.setWindow s w x) := by
  unfold State.setWindow
  repeat' first
    | with_reducible assumption
    | with_reducible apply State.put_keeps
    | dsimp only
    | with_reducible apply keepsOf_eta
    | with_reducible apply keeps_mk

theorem State.closeWindow_keeps {z : Frame} {s : State} (h : Keeps z s) (w : Nat) :
    Keeps z (State.closeWindow s w) := by
  unfold State.closeWindow
  repeat' first
    | with_reducible assumption
    | split
    | dsimp only
    | with_reducible apply keepsOf_eta
    | with_reducible apply keeps_mk

theorem State.cwStop_keeps {z : Frame} {s : State} (h : Keeps z s) (w : Nat) :
    Keeps z (State.cwStop s w) := by
  unfold State.cwStop
  repeat' first
    | with_reducible assumption
    | with_reducible apply State.closeWindow_keeps
    | with_reducible apply State.setWindow_keeps
    | split
    | dsimp only

theorem State.swWord_keeps {z : Frame} {s : State} (h : Keeps z s) (p : PageId) (off v : Nat) :
    Keeps z (State.swWord s p off v) := by
  unfold State.swWord
  repeat' first
    | with_reducible assumption
    | with_reducible apply State.swField_keeps
    | with_reducible refine keeps_foldl (fun t x ht => ?_) ?_

theorem State.windowWrite_keeps {z : Frame} {s : State} (h : Keeps z s) (w off v : Nat) :
    Keeps z (State.windowWrite s w off v) := by
  unfold State.windowWrite
  repeat' first
    | with_reducible assumption
    | with_reducible apply State.cwStop_keeps
    | with_reducible apply State.swWord_keeps
    | with_reducible apply State.err_keeps
    | with_reducible apply State.put_keeps
    | split
    | dsimp only

theorem State.enableWrite_keeps {z : Frame} {s : State} (h : Keeps z s) (off v : Nat) :
    Keeps z (State.enableWrite s off v) := by
  unfold State.enableWrite
  repeat' first
    | with_reducible assumption
    | with_reducible apply State.cwStop_keeps
    | with_reducible apply State.swWord_keeps
    | with_reducible refine keeps_foldl (fun t x ht => ?_) ?_
    | split
    | dsimp only

theorem State.swFields_keeps {z : Frame} {s : State} (h : Keeps z s) (p : PageId) (v : Nat) (l : List Reg) :
    Keeps z (State.swFields s p v l) := by
  unfold State.swFields
  repeat' first
    | with_reducible assumption
    | with_reducible apply State.swField_keeps
    | with_reducible refine keeps_foldl (fun t x ht => ?_) ?_

theorem State.clearBoth_keeps {z : Frame} {s : State} (h : Keeps z s) (p : PageId) (r : Reg) (i : Nat) :
    Keeps z (State.clearBoth s p r i) := by
  unfold State.clearBoth
  repeat' first
    | with_reducible assumption
    | with_reducible apply State.put_keeps
    | split
    | dsimp only
    | with_reducible apply keepsOf_eta
    | with_reducible apply keeps_mk

theorem State.clearRecords_keeps {z : Frame} {s : State} (h : Keeps z s) (p : PageId) (off v : Nat) :
    Keeps z (State.clearRecords s p off v) := by
  unfold State.clearRecords
  repeat' first
    | with_reducible assumption
    | with_reducible apply State.clearBoth_keeps
    | with_reducible refine keeps_foldl (fun t x ht => ?_) ?_
    | with_reducible refine keeps_foldl_1 (fun t x ht => ?_) ?_
    | with_reducible refine keeps_foldl_2 (fun t x ht => ?_) ?_
    | with_reducible refine keeps_foldl_3 (fun t x ht => ?_) ?_
    | split
    | dsimp only

theorem State.errW1c_keeps {z : Frame} {s : State} (h : Keeps z s) (p : PageId) (v : Nat) :
    Keeps z (State.errW1c s p v) := by
  unfold State.errW1c
  repeat' first
    | with_reducible assumption
    | with_reducible apply State.w1c_keeps
    | with_reducible apply State.put_keeps
    | with_reducible refine keeps_foldl (fun t x ht => ?_) ?_
    | split
    | dsimp only
    | with_reducible apply keepsOf_eta
    | with_reducible apply keeps_mk

theorem State.setFreeze_keeps {z : Frame} {s : State} (h : Keeps z s) (p : PageId) (on : Bool) :
    Keeps z (State.setFreeze s p on) := by
  unfold State.setFreeze
  repeat' first
    | with_reducible assumption
    | with_reducible apply State.unfreeze_keeps
    | with_reducible apply State.put_keeps
    | split
    | dsimp only

theorem State.hdrWrite_keeps {z : Frame} {s : State} (h : Keeps z s) (p : PageId) (off v : Nat) :
    Keeps z (State.hdrWrite s p off v) := by
  unfold State.hdrWrite
  repeat' first
    | with_reducible assumption
    | with_reducible apply State.setFreeze_keeps
    | with_reducible apply State.errW1c_keeps
    | with_reducible apply State.swWord_keeps
    | with_reducible apply State.wakePage_keeps
    | with_reducible apply State.setLock_keeps
    | with_reducible apply State.swField_keeps
    | with_reducible apply State.w1c_keeps
    | with_reducible apply State.armReset_keeps
    | with_reducible apply State.put_keeps
    | split
    | dsimp only

theorem State.checked_keeps {z : Frame} {s : State} (h : Keeps z s) (p : PageId) (off v : Nat) (ok : Bool) (errBit : Nat) :
    Keeps z (State.checked s p off v ok errBit) := by
  unfold State.checked
  repeat' first
    | with_reducible assumption
    | with_reducible apply State.swWord_keeps
    | with_reducible apply State.err_keeps
    | split

theorem State.arithWrite_keeps {z : Frame} {s : State} (h : Keeps z s) (p : PageId) (off v : Nat) :
    Keeps z (State.arithWrite s p off v) := by
  unfold State.arithWrite
  extract_lets ce badR badN s1 s2 s3 s4
  have h1 : Keeps z s1 := by with_reducible exact State.swField_keeps h _ _ _ _
  have h2 : Keeps z s2 := by
    unfold s2
    split
    · exact h1
    · with_reducible exact State.swField_keeps h1 _ _ _ _
  have h3 : Keeps z s3 := by
    unfold s3
    split
    · exact h2
    · with_reducible exact State.swField_keeps h2 _ _ _ _
  have h4 : Keeps z s4 := by
    unfold s4
    split
    · with_reducible exact State.clipClr_keeps h3 _
    · exact h3
  split
  · split
    · with_reducible exact State.err_keeps h4 _ _
    · exact h4
  · split
    · exact h
    · with_reducible exact State.swWord_keeps h _ _ _
  · split
    · exact h
    · with_reducible exact State.swWord_keeps h _ _ _
  · split
    · exact h
    · with_reducible exact State.swWord_keeps h _ _ _
  · with_reducible exact State.clearRecords_keeps (State.swWord_keeps h _ _ _) _ _ _

theorem State.lanternWrite_keeps {z : Frame} {s : State} (h : Keeps z s) (off v : Nat) :
    Keeps z (State.lanternWrite s off v) := by
  unfold State.lanternWrite
  repeat' first
    | with_reducible assumption
    | with_reducible apply State.swWord_keeps
    | with_reducible apply State.bpSave_keeps
    | with_reducible apply State.calSave_keeps
    | with_reducible apply State.fwCommit_keeps
    | with_reducible apply State.updGo_keeps
    | with_reducible apply State.bpLoad_keeps
    | split
    | dsimp only

theorem State.belfryWrite_keeps {z : Frame} {s : State} (h : Keeps z s) (off v : Nat) :
    Keeps z (State.belfryWrite s off v) := by
  unfold State.belfryWrite
  repeat' first
    | with_reducible assumption
    | with_reducible apply State.checked_keeps
    | with_reducible apply State.clearRecords_keeps
    | with_reducible apply State.swWord_keeps
    | with_reducible apply State.writeThrCtl_keeps
    | with_reducible apply State.issueSkip_keeps
    | with_reducible apply State.armPeriod_keeps
    | split
    | dsimp only

theorem State.turretWrite_keeps {z : Frame} {s : State} (h : Keeps z s) (p : PageId) (off v : Nat) :
    Keeps z (State.turretWrite s p off v) := by
  unfold State.turretWrite
  repeat' first
    | with_reducible assumption
    | with_reducible apply State.swWord_keeps
    | with_reducible apply State.writeLinkEn_keeps
    | with_reducible apply State.downLink_keeps
    | with_reducible apply State.tryStart_keeps
    | with_reducible apply State.put_keeps
    | split
    | dsimp only

theorem State.evtEn_keeps {z : Frame} {s : State} (h : Keeps z s) (v : Nat) :
    Keeps z (State.evtEn s v) := by
  unfold State.evtEn
  repeat' first
    | with_reducible assumption
    | with_reducible apply State.swWord_keeps
    | with_reducible apply State.resendEvents_keeps
    | split
    | dsimp only

theorem State.hostWrite_keeps {z : Frame} {s : State} (h : Keeps z s) (off v : Nat) :
    Keeps z (State.hostWrite s off v) := by
  unfold State.hostWrite
  repeat' first
    | with_reducible assumption
    | with_reducible apply State.enableWrite_keeps
    | with_reducible apply State.windowWrite_keeps
    | with_reducible apply State.evtEn_keeps
    | with_reducible apply State.swWord_keeps
    | split
    | dsimp only

theorem State.moverWrite_keeps {z : Frame} {s : State} (h : Keeps z s) (k off v : Nat) :
    Keeps z (State.moverWrite s k off v) := by
  unfold State.moverWrite
  repeat' first
    | with_reducible assumption
    | with_reducible apply State.swWord_keeps
    | with_reducible apply State.mvAbort_keeps
    | with_reducible apply State.mvResume_keeps
    | with_reducible apply State.mvGo_keeps
    | with_reducible apply State.wr_keeps
    | split
    | dsimp only

theorem State.planWord_keeps {z : Frame} {s : State} (h : Keeps z s) (off v : Nat) :
    Keeps z (State.planWord s off v) := by
  unfold State.planWord
  repeat' first
    | with_reducible assumption
    | with_reducible apply State.clearRecords_keeps
    | with_reducible apply State.swWord_keeps
    | with_reducible apply State.commitEntry_keeps
    | with_reducible apply State.disarm_keeps
    | with_reducible apply State.armSwitch_keeps
    | with_reducible apply State.planLoad_keeps
    | with_reducible apply State.fstRead_keeps
    | split

theorem State.hostQueueWord_keeps {z : Frame} {s : State} (h : Keeps z s) (off v : Nat) :
    Keeps z (State.hostQueueWord s off v) := by
  unfold State.hostQueueWord
  repeat' first
    | with_reducible assumption
    | with_reducible apply State.swWord_keeps
    | with_reducible apply State.pfcCheck_keeps
    | with_reducible apply State.settleBuckets_keeps
    | with_reducible refine keeps_foldl (fun t x ht => ?_) ?_
    | split

theorem State.keepWrite_keeps {z : Frame} {s : State} (h : Keeps z s) (k off v : Nat) :
    Keeps z (State.keepWrite s k off v) := by
  unfold State.keepWrite
  repeat' first
    | with_reducible assumption
    | with_reducible apply State.hostQueueWord_keeps
    | with_reducible apply State.planWord_keeps
    | with_reducible apply State.moverWrite_keeps
    | with_reducible apply State.swWord_keeps
    | with_reducible apply State.flipAtWrite_keeps
    | with_reducible apply State.writeFilled_keeps
    | with_reducible apply State.ovfWrite_keeps
    | with_reducible apply State.tblWrite_keeps
    | split
    | dsimp only

theorem State.tileWord_keeps {z : Frame} {s : State} (h : Keeps z s) (g off v : Nat) (lantern : Bool) :
    Keeps z (State.tileWord s g off v lantern) := by
  unfold State.tileWord
  repeat' first
    | with_reducible assumption
    | with_reducible apply State.arithWrite_keeps
    | with_reducible apply State.clearRecords_keeps
    | with_reducible apply State.swWord_keeps
    | with_reducible apply State.imemWrite_keeps
    | split

theorem State.ueWrite_keeps {z : Frame} {s : State} (h : Keeps z s) (c off v unit : Nat) :
    Keeps z (State.ueWrite s c off v unit) := by
  unfold State.ueWrite
  repeat' first
    | with_reducible assumption
    | with_reducible apply State.arithWrite_keeps
    | with_reducible apply State.clearRecords_keeps
    | with_reducible apply State.swWord_keeps
    | with_reducible apply State.chkGo_keeps
    | with_reducible apply State.swField_keeps
    | split

theorem State.watchWord_keeps {z : Frame} {s : State} (h : Keeps z s) (off v : Nat) :
    Keeps z (State.watchWord s off v) := by
  unfold State.watchWord
  repeat' first
    | with_reducible assumption
    | with_reducible apply State.clearRecords_keeps
    | with_reducible apply State.swFields_keeps
    | with_reducible apply State.swWord_keeps
    | with_reducible apply State.writeCmd_keeps
    | with_reducible apply State.join_keeps
    | with_reducible apply State.writePartner_keeps
    | with_reducible apply State.rbGo_keeps
    | with_reducible apply State.err_keeps
    | split
    | dsimp only

theorem State.integrityWord_keeps {z : Frame} {s : State} (h : Keeps z s) (off v : Nat) :
    Keeps z (State.integrityWord s off v) := by
  unfold State.integrityWord
  repeat' first
    | with_reducible assumption
    | with_reducible apply State.clearRecords_keeps
    | with_reducible apply State.swWord_keeps
    | with_reducible apply State.scrubStop_keeps
    | with_reducible apply State.scrubGo_keeps
    | with_reducible apply State.writeTrip_keeps
    | split
    | dsimp only

theorem State.finialWord_keeps {z : Frame} {s : State} (h : Keeps z s) (off v : Nat) :
    Keeps z (State.finialWord s off v) := by
  unfold State.finialWord
  repeat' first
    | with_reducible assumption
    | with_reducible apply State.swWord_keeps
    | with_reducible apply State.attGo_keeps
    | with_reducible apply State.dbgReq_keeps
    | with_reducible apply State.testReq_keeps
    | with_reducible apply State.fkeyRevoke_keeps
    | with_reducible apply State.keySave_keeps
    | with_reducible apply State.revoke_keeps
    | with_reducible apply State.enroll_keeps
    | split

theorem State.blockWrite_keeps {z : Frame} {s : State} (h : Keeps z s) (h0 : z.ok 0) (p : PageId) (off v unit : Nat) :
    Keeps z (State.blockWrite s p off v unit) := by
  unfold State.blockWrite
  repeat' first
    | with_reducible assumption
    | with_reducible apply State.finialWord_keeps
    | with_reducible apply State.integrityWord_keeps
    | with_reducible apply State.watchWord_keeps
    | with_reducible apply State.ueWrite_keeps
    | with_reducible apply State.tileWord_keeps
    | with_reducible apply State.keepWrite_keeps
    | with_reducible apply State.hostWrite_keeps
    | with_reducible apply State.turretWrite_keeps
    | with_reducible apply State.belfryWrite_keeps
    | with_reducible apply State.lanternWrite_keeps
    | with_reducible apply State.arithWrite_keeps
    | with_reducible apply State.clearRecords_keeps
    | with_reducible apply State.swWord_keeps
    | with_reducible apply State.modReq_keeps
    | with_reducible apply State.sysGib_keeps
    | with_reducible apply State.atomWin_keeps
    | with_reducible apply State.atomFlush_keeps
    | split

theorem State.regRead_keeps {z : Frame} {s : State} (h : Keeps z s) (p : PageId) (off : Nat) :
    Keeps z (State.regRead s p off).2 := by
  unfold State.regRead
  repeat' first
    | with_reducible assumption
    | with_reducible apply State.readVmSig_keeps
    | with_reducible apply State.readVmSeq_keeps
    | with_reducible apply State.readAtt_keeps
    | with_reducible apply State.readDecl_keeps
    | with_reducible apply State.readFlight_keeps
    | with_reducible apply State.readUeStep_keeps
    | with_reducible apply State.readStepLo_keeps
    | with_reducible apply State.readNowLo_keeps
    | split

theorem State.regWrite_keeps {z : Frame} {s : State} (h : Keeps z s) (h0 : z.ok 0) (p : PageId) (off v unit : Nat) :
    Keeps z (State.regWrite s p off v unit) := by
  unfold State.regWrite
  repeat' first
    | with_reducible assumption
    | with_reducible apply State.blockWrite_keeps
    | with_reducible apply State.hdrWrite_keeps
    | split

theorem State.regOff_keeps {z : Frame} {s : State} (h : Keeps z s) :
    Keeps z (State.regOff s) := by
  unfold State.regOff
  repeat' first
    | with_reducible assumption
    | with_reducible apply State.err_keeps
    | with_reducible apply State.bump_keeps

theorem State.regFault_keeps {z : Frame} {s : State} (h : Keeps z s) (off : Nat) :
    Keeps z (State.regFault s off) := by
  unfold State.regFault
  repeat' first
    | with_reducible assumption
    | with_reducible apply State.err_keeps
    | with_reducible apply State.bump_keeps
    | with_reducible apply State.wr_keeps

theorem State.regAccess_keeps {z : Frame} {s : State} (h : Keeps z s) (h0 : z.ok 0) (off : Nat) (w : Option Nat) (unit :
    Nat) :
    Keeps z (State.regAccess s off w unit).2.2 := by
  unfold State.regAccess
  repeat' first
    | with_reducible assumption
    | with_reducible apply State.regFault_keeps
    | with_reducible apply State.regOff_keeps
    | with_reducible apply State.regWrite_keeps
    | with_reducible apply State.regRead_keeps
    | with_reducible apply State.imemHold_keeps
    | split
    | dsimp only

end Sys2Proof.Machine
end

