-- ==== Sys2Proof/Laws/KeepsMemService.lean ====
section
/-! SUPPORT. What the operations of MemService.lean keep (Keeps). -/

namespace Sys2Proof.Machine

open Sys2Proof

theorem State.holdRequest_keeps {z : Frame} {s : State} (h : Keeps z s) (t : Target) (f : Flit) :
    Keeps z (State.holdRequest s t f) := by
  unfold State.holdRequest
  repeat' first
    | with_reducible assumption
    | with_reducible apply State.wakeDom_keeps
    | with_reducible apply State.bump_keeps
    | with_reducible refine keeps_foldl (fun t x ht => ?_) ?_
    | split
    | dsimp only
    | with_reducible apply keepsOf_eta
    | with_reducible apply keeps_mk

theorem State.openTouch_keeps {z : Frame} {s : State} (h : Keeps z s) (sp line : Nat) :
    Keeps z (State.openTouch s sp line) := by
  unfold State.openTouch
  repeat' first
    | with_reducible assumption
    | with_reducible apply State.atomLost_keeps
    | with_reducible apply State.touchLine_keeps
    | split

theorem State.openRead_keeps {z : Frame} {s : State} (h : Keeps z s) (sp off n : Nat) :
    Keeps z (State.openRead s sp off n).st := by
  unfold State.openRead
  repeat' first
    | with_reducible assumption
    | with_reducible apply State.openTouch_keeps
    | with_reducible refine keeps_foldl (fun t x ht => ?_) ?_

theorem State.sparseRead_keeps {z : Frame} {s : State} (h : Keeps z s) (g : Seg) (o n : Nat) :
    Keeps z (State.sparseRead s g o n).st := by
  unfold State.sparseRead
  repeat' first
    | with_reducible assumption
    | with_reducible apply State.cdcRead_keeps
    | with_reducible apply State.cdcBound_keeps
    | with_reducible apply State.touch_keeps
    | with_reducible apply State.err_keeps
    | with_reducible refine keeps_foldl (fun t x ht => ?_) ?_
    | split
    | dsimp only

theorem State.openWrite_keeps {z : Frame} {s : State} (h : Keeps z s) (sp off : Nat) (l : List Byte) :
    Keeps z (State.openWrite s sp off l).st := by
  unfold State.openWrite
  repeat' first
    | with_reducible assumption
    | with_reducible apply State.atomWriteback_keeps
    | with_reducible apply State.store_keeps
    | with_reducible apply State.hide_keeps
    | with_reducible refine keeps_foldl (fun t x ht => ?_) ?_

theorem State.openAtomic_keeps {z : Frame} {s : State} (h : Keeps z s) (t : Target) (fmt : Nat) (add : List Byte) :
    Keeps z (State.openAtomic s t fmt add).st := by
  unfold State.openAtomic
  repeat' first
    | with_reducible assumption
    | with_reducible apply State.atomic_keeps
    | with_reducible apply State.touchLine_keeps
    | with_reducible apply State.cleanLine_keeps
    | with_reducible apply State.poke_keeps
    | with_reducible apply State.err_keeps
    | split
    | dsimp only

theorem State.openReg_keeps {z : Frame} {s : State} (h : Keeps z s) (h0 : z.ok 0) (r : Req) (unit : Nat) :
    Keeps z (State.openReg s r unit).st := by
  unfold State.openReg
  repeat' first
    | with_reducible assumption
    | with_reducible apply State.regAccess_keeps

theorem State.performAt_keeps {z : Frame} {s : State} (h : Keeps z s) (h0 : z.ok 0) (t : Target) (f : Flit) :
    Keeps z (State.performAt s t f).st := by
  unfold State.performAt
  repeat' first
    | with_reducible assumption
    | with_reducible apply State.openReg_keeps
    | with_reducible apply State.openAtomic_keeps
    | with_reducible apply State.openWrite_keeps
    | with_reducible apply State.sparseRead_keeps
    | with_reducible apply State.openRead_keeps
    | split
    | dsimp only

theorem Served.count_keeps {z : Frame} {x : Served} (h : Keeps z x.st) (t : Target) : Keeps z (x.count t).st := by
  unfold Served.count
  dsimp only
  split
  · dsimp only
    split
    · exact State.err_keeps (State.bump_keeps (State.bump_keeps h _ _ _) _ _ _) _ _
    · exact State.bump_keeps h _ _ _
  · exact h

theorem State.countRefusal_keeps {z : Frame} {s : State} (h : Keeps z s) (st : Nat) :
    Keeps z (State.countRefusal s st) := by
  unfold State.countRefusal
  repeat' first
    | with_reducible assumption
    | with_reducible apply State.bump_keeps
    | split

theorem State.performNow_keeps {z : Frame} {s : State} (h : Keeps z s) (h0 : z.ok 0) (t : Target) (f : Flit) :
    Keeps z (State.performNow s t f).st := by
  unfold State.performNow
  repeat' first
    | with_reducible assumption
    | with_reducible apply State.countRefusal_keeps
    | with_reducible apply Served.count_keeps
    | with_reducible apply State.performAt_keeps

theorem State.tryServe_keeps {z : Frame} {s : State} (h : Keeps z s) (h0 : z.ok 0) (f : Flit) {x : Served} (e : s.tryServe f = some x) :
    Keeps z x.st := by
  unfold State.tryServe at e
  split at e
  · cases e
    exact State.countRefusal_keeps h _
  · split at e
    · cases e
    · cases e
      exact State.performNow_keeps h h0 _ _

theorem State.answer_keeps {z : Frame} (s : State) (f : Flit) {x : Served} (h : Keeps z x.st) : Keeps z (State.answer s f x) := by
  unfold State.answer
  with_reducible exact State.forward_keeps h _ _ _ _ _

theorem State.memRequest_keeps {z : Frame} {s : State} (h : Keeps z s) (h0 : z.ok 0) (f : Flit) : Keeps z (State.memRequest s f) := by
  unfold State.memRequest
  refine State.served_keeps h 0 f _ fun s1 f h1 => ?_
  split
  · with_reducible exact State.headerDiscard_keeps h1 _
  · split
    · exact h1
    · split
      · rename_i x hx
        with_reducible apply State.answer_keeps
        exact State.tryServe_keeps h1 h0 _ hx
      · split
        · with_reducible exact State.holdRequest_keeps h1 _ _
        · exact h1

theorem State.refuseWaiting_keeps {z : Frame} {s : State} (h : Keeps z s) : Keeps z (State.refuseWaiting s) := by
  unfold State.refuseWaiting
  refine keeps_foldl (fun t f ht => ?_) h
  split
  · with_reducible apply State.answer_keeps
    dsimp only
    with_reducible apply State.countRefusal_keeps
    exact ht
  · exact ht

theorem State.performWaiting_keeps {z : Frame} {s : State} (h : Keeps z s) (h0 : z.ok 0) (p : Target → Flit → Bool) :
    Keeps z (State.performWaiting s p) := by
  unfold State.performWaiting
  repeat' first
    | with_reducible assumption
    | with_reducible apply State.refuseWaiting_keeps
    | with_reducible apply State.answer_keeps
    | with_reducible apply State.performNow_keeps
    | with_reducible apply State.bump_keeps
    | split
    | dsimp only
    | with_reducible apply keepsOf_eta
    | with_reducible apply keeps_mk

theorem State.performDrum_keeps {z : Frame} {s : State} (h : Keeps z s) (h0 : z.ok 0) (c : Nat) :
    Keeps z (State.performDrum s c) := by
  unfold State.performDrum
  repeat' first
    | with_reducible assumption
    | with_reducible apply State.performWaiting_keeps
    | with_reducible refine keeps_foldl (fun t x ht => ?_) ?_

theorem State.memRow_keeps {z : Frame} {s : State} (h : Keeps z s) (h0 : z.ok 0) (op : Nat) (f : Flit) :
    Keeps z (State.memRow s op f) := by
  unfold State.memRow
  repeat' first
    | with_reducible assumption
    | with_reducible apply State.memRequest_keeps
    | split
    | dsimp only

theorem State.domainWake_keeps {z : Frame} {s : State} (h : Keeps z s) (h0 : z.ok 0) (d : Nat) :
    Keeps z (State.domainWake s d) := by
  unfold State.domainWake
  repeat' first
    | with_reducible assumption
    | with_reducible apply State.performDrum_keeps
    | with_reducible apply State.wakeDone_keeps
    | split

end Sys2Proof.Machine
end

