-- ==== Sys2Proof/Laws/KeepsMoraeca.lean ====
section
/-! SUPPORT. What the operations of Moraeca.lean keep (Keeps). -/

namespace Sys2Proof.Machine

open Sys2Proof

theorem State.sendStrict_keeps {z : Frame} {s : State} (h : Keeps z s) (q : Nat) (dst : NetSrc) (msg : List Byte) :
    Keeps z (State.sendStrict s q dst msg) := by
  unfold State.sendStrict
  repeat' first
    | with_reducible assumption
    | with_reducible apply State.strictSend_keeps
    | dsimp only
    | with_reducible apply keepsOf_eta
    | with_reducible apply keeps_mk

theorem State.sendBulk_keeps {z : Frame} {s : State} (h : Keeps z s) (dst : NetSrc) (msg : List Byte) :
    Keeps z (State.sendBulk s dst msg) := by
  unfold State.sendBulk
  repeat' first
    | with_reducible assumption
    | with_reducible apply State.weightedPut_keeps
    | dsimp only
    | with_reducible apply keepsOf_eta
    | with_reducible apply keeps_mk

theorem State.takeFrame_keeps {z : Frame} {s : State} (h : Keeps z s) (p : List Byte → Bool) :
    Keeps z (State.takeFrame s p) := by
  unfold State.takeFrame
  repeat' first
    | with_reducible assumption
    | with_reducible apply State.setHost_keeps

theorem State.arpReply_keeps {z : Frame} {s : State} (h : Keeps z s) (fr : List Byte) :
    Keeps z (State.arpReply s fr) := by
  unfold State.arpReply
  repeat' first
    | with_reducible assumption
    | with_reducible apply State.strictSend_keeps

theorem State.neighborReply_keeps {z : Frame} {s : State} (h : Keeps z s) (fr : List Byte) :
    Keeps z (State.neighborReply s fr) := by
  unfold State.neighborReply
  repeat' first
    | with_reducible assumption
    | with_reducible apply State.strictSend_keeps

theorem State.sendReply_keeps {z : Frame} {s : State} (h : Keeps z s) (dst : NetSrc) (m reply : List Byte) :
    Keeps z (State.sendReply s dst m reply) := by
  unfold State.sendReply
  repeat' first
    | with_reducible assumption
    | with_reducible apply State.sendBulk_keeps
    | with_reducible apply State.sendStrict_keeps
    | with_reducible apply State.reply_keeps
    | split

theorem State.refuse_keeps {z : Frame} {s : State} (h : Keeps z s) (src : NetSrc) (m : List Byte) (status : Nat) :
    Keeps z (State.refuse s src m status) := by
  unfold State.refuse
  repeat' first
    | with_reducible assumption
    | with_reducible apply State.sendReply_keeps

theorem State.setSession_keeps {z : Frame} {s : State} (h : Keeps z s) (i : Nat) (x : Session) :
    Keeps z (State.setSession s i x) := by
  unfold State.setSession
  repeat' first
    | with_reducible assumption
    | with_reducible apply State.put_keeps
    | dsimp only
    | with_reducible apply keepsOf_eta
    | with_reducible apply keeps_mk

theorem State.openExec_keeps {z : Frame} {s : State} (h : Keeps z s) (i : Nat) (r : Request) :
    Keeps z (State.openExec s i r) := by
  unfold State.openExec
  repeat' first
    | with_reducible assumption
    | with_reducible apply State.setSession_keeps
    | with_reducible apply State.sendReply_keeps
    | split
    | dsimp only

theorem State.sessionRequest_keeps {z : Frame} {s : State} (h : Keeps z s) (i : Nat) (r : Request) :
    Keeps z (State.sessionRequest s i r) := by
  unfold State.sessionRequest
  repeat' first
    | with_reducible assumption
    | with_reducible apply State.setSession_keeps
    | with_reducible apply State.refuse_keeps
    | with_reducible apply State.sendReply_keeps
    | with_reducible apply State.reply_keeps
    | with_reducible apply State.put_keeps
    | split
    | dsimp only

theorem State.openNext_keeps {z : Frame} {s : State} (h : Keeps z s) (i : Nat) :
    Keeps z (State.openNext s i) := by
  unfold State.openNext
  repeat' first
    | with_reducible assumption
    | with_reducible apply State.sessionRequest_keeps
    | with_reducible apply State.openExec_keeps
    | with_reducible refine keeps_foldl (fun t x ht => ?_) ?_
    | with_reducible refine keeps_foldl_1 (fun t x ht => ?_) ?_
    | with_reducible refine keeps_foldl_2 (fun t x ht => ?_) ?_
    | with_reducible refine keeps_foldl_3 (fun t x ht => ?_) ?_
    | split
    | dsimp only
    | with_reducible apply keepsOf_eta
    | with_reducible apply keeps_mk

theorem State.execDone_keeps {z : Frame} {s : State} (h : Keeps z s) (i : Nat) (x : Session) (e : Exec) (status count : Nat) (body : List Byte) :
    Keeps z (State.execDone s i x e status count body) := by
  unfold State.execDone
  repeat' first
    | with_reducible assumption
    | with_reducible apply State.setSession_keeps
    | with_reducible apply State.sendReply_keeps
    | with_reducible apply Served.count_keeps
    | with_reducible apply State.reply_keeps
    | with_reducible apply State.bump_keeps
    | with_reducible apply State.put_keeps
    | split
    | dsimp only
    | with_reducible apply keepsOf_eta
    | with_reducible apply keeps_mk

theorem State.sessionTimeout_keeps {z : Frame} {s : State} (h : Keeps z s) (i : Nat) :
    Keeps z (State.sessionTimeout s i) := by
  unfold State.sessionTimeout
  repeat' first
    | with_reducible assumption
    | split
    | dsimp only
    | with_reducible apply keepsOf_eta
    | with_reducible apply keeps_mk

theorem State.holdTimeout_keeps {z : Frame} {s : State} (h : Keeps z s) (i q : Nat) :
    Keeps z (State.holdTimeout s i q) := by
  unfold State.holdTimeout
  repeat' first
    | with_reducible assumption
    | with_reducible apply State.setSession_keeps
    | with_reducible apply State.bump_keeps
    | split

theorem State.ask_keeps {z : Frame} {s : State} (h : Keeps z s) (h0 : z.ok 0) (opcode addr size : Nat) (virt : Bool) (data : List Byte) :
    Keeps z (State.ask s opcode addr size virt data).2 := by
  unfold State.ask
  dsimp only
  split
  · dsimp only
    split
    · exact State.err_keeps (State.bump_keeps h _ _ _) _ _
    · exact h
  · split
    · split
      · exact State.tryServe_keeps h h0 _ (by assumption)
      · exact State.inject_keeps h _ _
    · exact State.inject_keeps h _ _

theorem State.takeAnswer_keeps {z : Frame} {s : State} (h : Keeps z s) (tag : Nat) {x : Flit × State}
    (e : s.takeAnswer tag = some x) : Keeps z x.2 := by
  unfold State.takeAnswer at e
  split at e
  · cases e
    exact h
  · cases e

theorem State.outcome_keeps {z : Frame} {s : State} (h : Keeps z s) (sent : Option Nat) (new : Unit → Asked × State)
    (hn : Keeps z (new ()).2) : Keeps z (State.outcome s sent new).2.2 := by
  unfold State.outcome
  split
  · split
    · exact State.takeAnswer_keeps h _ (by assumption)
    · exact h
  · dsimp only
    split <;> exact hn

theorem State.askItem_keeps {z : Frame} {s : State} (h : Keeps z s) (h0 : z.ok 0) (e : Exec) :
    Keeps z (State.askItem s e).2 := by
  unfold State.askItem
  repeat' first
    | with_reducible assumption
    | with_reducible apply State.ask_keeps
    | split
    | dsimp only

theorem execItems_keeps {z : Frame} (h0 : z.ok 0) (n : Nat) : ∀ (m : Nat) {s : State} (_ : Keeps z s) (e : Exec),
    Keeps z (execItems n m s e).1
  | 0, _, h, _ => h
  | m + 1, s, h, e => by
    have h1 := State.outcome_keeps h e.sent (fun _ => s.askItem e) (State.askItem_keeps h h0 e)
    unfold execItems
    dsimp only
    split
    · exact h
    · split
      · exact h1
      · exact execItems_keeps h0 n m h1 _

theorem State.runItems_keeps {z : Frame} {s : State} (h : Keeps z s) (h0 : z.ok 0) (i : Nat) (x : Session) (e : Exec) :
    Keeps z (State.runItems s i x e) := by
  unfold State.runItems
  repeat' first
    | with_reducible assumption
    | with_reducible apply execItems_keeps
    | with_reducible apply State.execDone_keeps
    | with_reducible apply State.setSession_keeps
    | split
    | dsimp only

theorem State.askPiece_keeps {z : Frame} {s : State} (h : Keeps z s) (h0 : z.ok 0) (e : Exec) :
    Keeps z (State.askPiece s e).2 := by
  unfold State.askPiece
  repeat' first
    | with_reducible assumption
    | with_reducible apply State.ask_keeps
    | split

theorem execPieces_keeps {z : Frame} (h0 : z.ok 0) (addr len : Nat) : ∀ (m : Nat) {s : State} (_ : Keeps z s) (e : Exec),
    Keeps z (execPieces addr len m s e).1
  | 0, _, h, _ => h
  | m + 1, s, h, e => by
    have h1 := State.outcome_keeps h e.sent (fun _ => s.askPiece e) (State.askPiece_keeps h h0 e)
    unfold execPieces
    dsimp only
    split
    · exact h
    · split
      · exact h1
      · split
        · exact h1
        · exact execPieces_keeps h0 addr len m h1 _

theorem State.runPieces_keeps {z : Frame} {s : State} (h : Keeps z s) (h0 : z.ok 0) (i : Nat) (x : Session) (e : Exec) :
    Keeps z (State.runPieces s i x e) := by
  unfold State.runPieces
  repeat' first
    | with_reducible assumption
    | with_reducible apply execPieces_keeps
    | with_reducible apply State.execDone_keeps
    | with_reducible apply State.setSession_keeps
    | split
    | dsimp only

theorem State.sessionRow_keeps {z : Frame} {s : State} (h : Keeps z s) (i type : Nat) (f : State → Session → Exec → State)
    (hf : ∀ t x e, Keeps z t → Keeps z (f t x e)) : Keeps z (State.sessionRow s i type f) := by
  unfold State.sessionRow
  split
  · split
    · split
      · exact h
      · split
        · exact State.execDone_keeps h _ _ _ _ _ _
        · exact hf _ _ _ h
    · exact h
  · exact h

theorem State.setStream_keeps {z : Frame} {s : State} (h : Keeps z s) (i : Nat) (x : Stream) :
    Keeps z (State.setStream s i x) := by
  unfold State.setStream
  repeat' first
    | with_reducible assumption
    | with_reducible apply State.wr2_keeps
    | with_reducible apply State.put_keeps
    | dsimp only
    | with_reducible apply keepsOf_eta
    | with_reducible apply keeps_mk

theorem State.endStream_keeps {z : Frame} {s : State} (h : Keeps z s) (i : Nat) (x : Stream) (status : Nat) :
    Keeps z (State.endStream s i x status) := by
  unfold State.endStream
  repeat' first
    | with_reducible assumption
    | with_reducible apply State.setStream_keeps
    | with_reducible apply State.err_keeps
    | with_reducible apply State.eventE_keeps
    | with_reducible apply State.wri_keeps
    | split
    | dsimp only
    | with_reducible apply keepsOf_eta
    | with_reducible apply keeps_mk

theorem State.streamAsk_keeps {z : Frame} {s : State} (h : Keeps z s) (i : Nat) (x : Stream) (opcode off n : Nat) (data : List Byte) :
    Keeps z (State.streamAsk s i x opcode off n data) := by
  unfold State.streamAsk
  repeat' first
    | with_reducible assumption
    | with_reducible apply State.setStream_keeps
    | with_reducible apply Served.count_keeps
    | with_reducible apply State.inject_keeps

theorem State.streamSend_keeps {z : Frame} {s : State} (h : Keeps z s) (i : Nat) (x : Stream) (type seq : Nat) (body : List Byte) :
    Keeps z (State.streamSend s i x type seq body) := by
  unfold State.streamSend
  repeat' first
    | with_reducible assumption
    | with_reducible apply State.sendBulk_keeps

theorem State.outStep_keeps {z : Frame} {s : State} (h : Keeps z s) (i : Nat) (x : Stream) :
    Keeps z (State.outStep s i x) := by
  unfold State.outStep
  repeat' first
    | with_reducible assumption
    | with_reducible apply State.streamSend_keeps
    | with_reducible apply State.streamAsk_keeps
    | with_reducible apply State.setStream_keeps
    | split
    | dsimp only

theorem State.sendAck_keeps {z : Frame} {s : State} (h : Keeps z s) (i : Nat) (x : Stream) :
    Keeps z (State.sendAck s i x) := by
  unfold State.sendAck
  repeat' first
    | with_reducible assumption
    | with_reducible apply State.streamSend_keeps

theorem State.inStep_keeps {z : Frame} {s : State} (h : Keeps z s) (i : Nat) (x : Stream) :
    Keeps z (State.inStep s i x) := by
  unfold State.inStep
  repeat' first
    | with_reducible assumption
    | with_reducible apply State.sendAck_keeps
    | with_reducible apply State.streamAsk_keeps
    | with_reducible apply State.endStream_keeps
    | with_reducible apply State.setStream_keeps
    | split

theorem State.streamStep_keeps {z : Frame} {s : State} (h : Keeps z s) (i : Nat) :
    Keeps z (State.streamStep s i) := by
  unfold State.streamStep
  repeat' first
    | with_reducible assumption
    | with_reducible apply State.inStep_keeps
    | with_reducible apply State.outStep_keeps
    | with_reducible apply State.endStream_keeps
    | split

theorem State.streamOpen_keeps {z : Frame} {s : State} (h : Keeps z s) (sess : Nat) (y : Session) (e : Exec) :
    Keeps z (State.streamOpen s sess y e) := by
  unfold State.streamOpen
  repeat' first
    | with_reducible assumption
    | with_reducible apply State.streamStep_keeps
    | with_reducible apply State.setStream_keeps
    | with_reducible apply State.execDone_keeps
    | with_reducible apply Served.count_keeps
    | with_reducible apply State.wri_keeps
    | split
    | dsimp only

theorem State.streamData_keeps {z : Frame} {s : State} (h : Keeps z s) (i : Nat) (src : NetSrc) (m : List Byte) :
    Keeps z (State.streamData s i src m) := by
  unfold State.streamData
  repeat' first
    | with_reducible assumption
    | with_reducible apply State.inStep_keeps
    | with_reducible apply State.sendAck_keeps
    | split
    | dsimp only

theorem State.streamAck_keeps {z : Frame} {s : State} (h : Keeps z s) (i : Nat) (src : NetSrc) (acked : Nat) :
    Keeps z (State.streamAck s i src acked) := by
  unfold State.streamAck
  repeat' first
    | with_reducible assumption
    | with_reducible apply State.streamStep_keeps
    | with_reducible apply State.setStream_keeps
    | split
    | dsimp only

theorem State.streamRto_keeps {z : Frame} {s : State} (h : Keeps z s) (i : Nat) :
    Keeps z (State.streamRto s i) := by
  unfold State.streamRto
  repeat' first
    | with_reducible assumption
    | with_reducible apply State.outStep_keeps
    | split

theorem State.streamReply_keeps {z : Frame} {s : State} (h : Keeps z s) (i : Nat) (f : Flit) :
    Keeps z (State.streamReply s i f) := by
  unfold State.streamReply
  repeat' first
    | with_reducible assumption
    | with_reducible apply State.inStep_keeps
    | with_reducible apply State.sendAck_keeps
    | with_reducible apply State.outStep_keeps
    | with_reducible apply State.endStream_keeps
    | split
    | dsimp only
    | with_reducible apply keepsOf_eta
    | with_reducible apply keeps_mk

theorem State.eventAck_keeps {z : Frame} {s : State} (h : Keeps z s) (src : NetSrc) (seq : Nat) : Keeps z (State.eventAck s src seq) := by
  have hf : ∀ p : Event → Bool, z.st.events.items.length ≤ 256 →
      (s.events.items.filter p).length ≤ 256 := fun p hz => Nat.le_trans (List.length_filter_le p _) (h.events hz)
  unfold State.eventAck
  extract_lets v6 ip
  split
  · exact { h with events := hf _ }
  · exact h

theorem State.evtRto_keeps {z : Frame} {s : State} (h : Keeps z s) :
    Keeps z (State.evtRto s) := by
  unfold State.evtRto
  repeat' first
    | with_reducible assumption
    | with_reducible apply State.resendEvents_keeps
    | split
    | dsimp only

theorem State.message_keeps {z : Frame} {s : State} (h : Keeps z s) (src : NetSrc) (m : List Byte) :
    Keeps z (State.message s src m) := by
  unfold State.message
  repeat' first
    | with_reducible assumption
    | with_reducible apply State.eventAck_keeps
    | with_reducible apply State.streamAck_keeps
    | with_reducible apply State.streamData_keeps
    | with_reducible apply State.sessionRequest_keeps
    | with_reducible apply State.refuse_keeps
    | split
    | dsimp only
    | with_reducible apply keepsOf_eta
    | with_reducible apply keeps_mk

theorem State.datagram_keeps {z : Frame} {s : State} (h : Keeps z s) (src : NetSrc) (m : List Byte) :
    Keeps z (State.datagram s src m) := by
  unfold State.datagram
  repeat' first
    | with_reducible assumption
    | with_reducible apply State.message_keeps
    | with_reducible apply State.takeFrame_keeps
    | with_reducible apply State.err_keeps
    | with_reducible apply State.bump_keeps
    | split

end Sys2Proof.Machine
end

