-- ==== Sys2Proof/Laws/KeepsCommandWindow.lean ====
section
/-! SUPPORT. What the operations of CommandWindow.lean keep (Keeps). -/

namespace Sys2Proof.Machine

open Sys2Proof

theorem State.cwDisable_keeps {z : Frame} {s : State} (h : Keeps z s) (w errBit : Nat) :
    Keeps z (State.cwDisable s w errBit) := by
  unfold State.cwDisable
  repeat' first
    | with_reducible assumption
    | with_reducible apply State.err_keeps
    | with_reducible apply State.put_keeps

theorem State.cwRead_keeps {z : Frame} {s : State} (h : Keeps z s) (off n : Nat) {x : Served} (e : s.cwRead off n = some x) :
    Keeps z x.st := by
  unfold State.cwRead at e
  dsimp only at e
  split at e
  · cases e
  · split at e
    · cases e
      exact Served.count_keeps (x := { st := s, status := 8, data := [] }) h _
    · cases e
      exact Served.count_keeps (State.openRead_keeps h _ _ _) _

theorem State.cwWrite_keeps {z : Frame} {s : State} (h : Keeps z s) (off : Nat) (l : List Byte) :
    Keeps z (State.cwWrite s off l) := by
  unfold State.cwWrite
  repeat' first
    | with_reducible assumption
    | with_reducible apply Served.count_keeps
    | with_reducible apply State.openWrite_keeps
    | split

theorem State.cwOpen_keeps {z : Frame} {s : State} (h : Keeps z s) (w : Nat) {x : CmdWin × State} (e : s.cwOpen w = some x) :
    Keeps z x.2 := by
  unfold State.cwOpen at e
  split at e
  · cases e
    exact h
  · split at e
    · split at e
      · cases e
        exact State.cwRead_keeps h _ _ (by assumption)
      · cases e
    · cases e

theorem cwTake_keeps {z : Frame} (w : Nat) : ∀ (n j : Nat) {s : State} (_ : Keeps z s) (x : CmdWin),
    Keeps z (cwTake w n j s x).1
  | 0, _, _, h, _ => h
  | n + 1, j, s, h, x => by
    unfold cwTake
    split
    · exact h
    · exact cwTake_keeps w n (j + 1) (State.cwRead_keeps h _ _ (by assumption)) _

theorem State.cwScan_keeps {z : Frame} {s : State} (h : Keeps z s) (w : Nat) :
    Keeps z (State.cwScan s w) := by
  unfold State.cwScan
  repeat' first
    | with_reducible assumption
    | with_reducible apply cwTake_keeps
    | with_reducible apply State.setWindow_keeps
    | with_reducible apply State.cwDisable_keeps
    | with_reducible refine State.cwOpen_keeps ?_ _ (by assumption)
    | with_reducible refine State.cwRead_keeps ?_ _ _ (by assumption)
    | split
    | dsimp only

theorem State.scanMiss_keeps {z : Frame} {s : State} (h : Keeps z s) :
    Keeps z (State.scanMiss s) := by
  unfold State.scanMiss
  repeat' first
    | with_reducible assumption
    | with_reducible apply State.moduleFault_keeps
    | with_reducible apply State.setWatch_keeps
    | with_reducible apply State.err_keeps
    | with_reducible apply State.bump_keeps
    | split
    | dsimp only

theorem State.scanWindows_keeps {z : Frame} {s : State} (h : Keeps z s) :
    Keeps z (State.scanWindows s) := by
  unfold State.scanWindows
  repeat' first
    | with_reducible assumption
    | with_reducible apply State.scanMiss_keeps
    | with_reducible apply State.cwStop_keeps
    | with_reducible apply State.cwScan_keeps
    | with_reducible apply State.setWatch_keeps
    | with_reducible refine keeps_foldl (fun t x ht => ?_) ?_
    | split
    | dsimp only

theorem State.cwRegWr_keeps {z : Frame} {s : State} (h : Keeps z s) (h0 : z.ok 0) (r : List Byte) :
    Keeps z (State.cwRegWr s r).1 := by
  unfold State.cwRegWr
  repeat' first
    | with_reducible assumption
    | with_reducible apply State.ask_keeps

theorem State.cwMove_keeps {z : Frame} {s : State} (h : Keeps z s) (r : List Byte) :
    Keeps z (State.cwMove s r).1 := by
  unfold State.cwMove
  repeat' first
    | with_reducible assumption
    | with_reducible apply State.moverWrite_keeps

theorem State.cwPlanLoad_keeps {z : Frame} {s : State} (h : Keeps z s) (r : List Byte) :
    Keeps z (State.cwPlanLoad s r).1 := by
  unfold State.cwPlanLoad
  repeat' first
    | with_reducible assumption
    | with_reducible apply State.planLoad_keeps
    | with_reducible apply State.wrs_keeps

theorem State.cwPlanSwitch_keeps {z : Frame} {s : State} (h : Keeps z s) (r : List Byte) :
    Keeps z (State.cwPlanSwitch s r).1 := by
  unfold State.cwPlanSwitch
  repeat' first
    | with_reducible assumption
    | with_reducible apply State.armSwitch_keeps

theorem State.cwStart_keeps {z : Frame} {s : State} (h : Keeps z s) (w op : Nat) (act : State → List Byte → State × CwWait)
    (ha : ∀ t r, Keeps z t → Keeps z (act t r).1) : Keeps z (State.cwStart s w op act) := by
  unfold State.cwStart
  split
  · exact h
  · split
    · split
      · exact State.cwStop_keeps h w
      · split
        · exact h
        · dsimp only
          refine State.setWindow_keeps ?_ _ _
          split
          · exact h
          · exact ha _ _ h
    · exact h

theorem State.cwEnded_keeps {z : Frame} {s : State} (h : Keeps z s) (c : CwWait) {x : Nat × Nat × State}
    (e : s.cwEnded c = some x) : Keeps z x.2.2 := by
  unfold State.cwEnded at e
  split at e
  · cases e
    exact h
  · rw [Option.map_eq_some_iff] at e
    obtain ⟨y, hy, rfl⟩ := e
    exact State.takeAnswer_keeps h _ hy
  · split at e
    · cases e
      exact h
    · split at e
      · cases e
        exact h
      · cases e
  · split at e
    · cases e
      exact h
    · split at e
      · cases e
        exact h
      · cases e

theorem State.cwEnded_next_keeps {z : Frame} {s t : State} {c : CwWait} {a b : Nat} (h : Keeps z s)
    (e : s.cwEnded c = some (a, b, t)) : Keeps z t := State.cwEnded_keeps h c e

theorem State.cwComplete_keeps {z : Frame} {s : State} (h : Keeps z s) (w : Nat) :
    Keeps z (State.cwComplete s w) := by
  unfold State.cwComplete
  repeat' first
    | with_reducible assumption
    | with_reducible refine State.cwEnded_next_keeps ?_ (by assumption)
    | with_reducible apply State.cwWrite_keeps
    | with_reducible apply State.setWindow_keeps
    | with_reducible apply State.eventE_keeps
    | with_reducible apply State.bumpi_keeps
    | split
    | dsimp only

end Sys2Proof.Machine
end

