-- ==== Sys2Proof/Laws/KeepsBoundary.lean ====
section
/-! SUPPORT. What the operations of Boundary.lean keep (Keeps). -/

namespace Sys2Proof.Machine

open Sys2Proof

theorem State.idleAborted_keeps {z : Frame} {s : State} (h : Keeps z s) :
    Keeps z (State.idleAborted s) := by
  unfold State.idleAborted
  repeat' first
    | with_reducible assumption
    | with_reducible apply State.unitState_keeps
    | with_reducible refine keeps_foldl (fun t x ht => ?_) ?_
    | split

theorem State.showCost_keeps {z : Frame} {s : State} (h : Keeps z s) (p : PlanTick) (u : Nat × Nat) :
    Keeps z (State.showCost s p u) := by
  unfold State.showCost
  repeat' first
    | with_reducible assumption
    | with_reducible apply State.wr_keeps
    | split
    | dsimp only

theorem State.unfinished_keeps {z : Frame} {s : State} (h : Keeps z s) (u : Nat × Nat) :
    Keeps z (State.unfinished s u) := by
  unfold State.unfinished
  repeat' first
    | with_reducible assumption
    | with_reducible apply State.ueAbandon_keeps
    | with_reducible apply State.abortUnit_keeps
    | with_reducible apply State.overrun_keeps
    | with_reducible refine keeps_foldl (fun t x ht => ?_) ?_
    | with_reducible refine keeps_foldl_1 (fun t x ht => ?_) ?_
    | with_reducible refine keeps_foldl_2 (fun t x ht => ?_) ?_
    | with_reducible refine keeps_foldl_3 (fun t x ht => ?_) ?_
    | split
    | dsimp only

theorem State.workOverruns_keeps {z : Frame} {s : State} (h : Keeps z s) :
    Keeps z (State.workOverruns s) := by
  unfold State.workOverruns
  repeat' first
    | with_reducible assumption
    | with_reducible apply State.unfinished_keeps
    | with_reducible refine keeps_foldl (fun t x ht => ?_) ?_
    | with_reducible refine keeps_foldl_1 (fun t x ht => ?_) ?_
    | with_reducible refine keeps_foldl_2 (fun t x ht => ?_) ?_
    | with_reducible refine keeps_foldl_3 (fun t x ht => ?_) ?_
    | split
    | dsimp only

theorem State.countSilence_keeps {z : Frame} {s : State} (h : Keeps z s) :
    Keeps z (State.countSilence s) := by
  unfold State.countSilence
  repeat' first
    | with_reducible assumption
    | with_reducible apply State.setBelfry_keeps
    | with_reducible apply tickOk_eta

theorem State.endTick_keeps {z : Frame} {s : State} (h : Keeps z s) :
    Keeps z (State.endTick s) := by
  unfold State.endTick
  repeat' first
    | with_reducible assumption
    | with_reducible apply State.countSilence_keeps
    | with_reducible apply State.workOverruns_keeps
    | with_reducible apply State.showCost_keeps
    | with_reducible apply State.idleAborted_keeps
    | with_reducible apply State.tails_keeps
    | with_reducible apply State.prefetchDue_keeps
    | with_reducible apply State.tileEnd_keeps
    | with_reducible apply State.slackOverruns_keeps
    | with_reducible apply State.consumeAll_keeps
    | with_reducible refine keeps_foldl (fun t x ht => ?_) ?_
    | split
    | dsimp only

theorem State.fillOverrun_keeps {z : Frame} {s : State} (h : Keeps z s) (p : PlanTick) (n : Nat) (o : Overrun) :
    Keeps z (State.fillOverrun s p n o) := by
  unfold State.fillOverrun
  repeat' first
    | with_reducible assumption
    | with_reducible apply State.eventE_keeps
    | with_reducible apply State.wrs_keeps

theorem State.commitOverruns_keeps {z : Frame} {s : State} (h : Keeps z s) (p : PlanTick) :
    Keeps z (State.commitOverruns s p) := by
  unfold State.commitOverruns
  repeat' first
    | with_reducible assumption
    | with_reducible apply State.fillOverrun_keeps
    | with_reducible apply State.tickFault_keeps
    | with_reducible apply State.err_keeps
    | with_reducible apply State.wr_keeps
    | with_reducible apply State.again_keeps
    | with_reducible apply State.setBelfry_keeps
    | with_reducible apply tickOk_eta
    | split
    | dsimp only

theorem State.turnTick_keeps {z : Frame} {s : State} (h : Keeps z s) (ht : ∀ n, z.ok (tickAdd n 1)) :
    Keeps z (State.turnTick s) := by
  unfold State.turnTick
  repeat' first
    | with_reducible assumption
    | with_reducible apply State.wr_keeps
    | with_reducible apply State.setBelfry_keeps
    | with_reducible apply tickOk_eta
    | split
    | dsimp only
  all_goals exact ht _

theorem State.setJoined_keeps {z : Frame} {s : State} (h : Keeps z s) :
    Keeps z (State.setJoined s) := by
  unfold State.setJoined
  repeat' first
    | with_reducible assumption
    | with_reducible apply State.setWatch_keeps
    | with_reducible apply State.wrb_keeps
    | with_reducible apply State.wri_keeps
    | with_reducible apply State.setBelfry_keeps
    | with_reducible apply tickOk_eta
    | with_reducible refine keeps_foldl (fun t x ht => ?_) ?_
    | split
    | dsimp only

theorem State.turnJoin_keeps {z : Frame} {s : State} (h : Keeps z s) (hj : ∀ n, z.ok (n % tickMod)) :
    Keeps z (State.turnJoin s) := by
  unfold State.turnJoin
  repeat' first
    | with_reducible assumption
    | with_reducible apply State.setJoined_keeps
    | with_reducible apply State.wr_keeps
    | with_reducible apply State.setBelfry_keeps
    | with_reducible apply tickOk_eta
    | split
    | dsimp only
  exact hj _

theorem State.turnSched_keeps {z : Frame} {s : State} (h : Keeps z s) (p : PlanTick) :
    Keeps z (State.turnSched s p) := by
  unfold State.turnSched
  repeat' first
    | with_reducible assumption
    | with_reducible apply State.wr_keeps
    | with_reducible apply State.setSched_keeps
    | with_reducible apply State.setBankState_keeps
    | with_reducible apply State.setArrays_keeps
    | split
    | dsimp only

theorem State.enChange_keeps {z : Frame} {s : State} (h : Keeps z s) (p : PageId) (on : Bool) :
    Keeps z (State.enChange s p on) := by
  unfold State.enChange
  repeat' first
    | with_reducible assumption
    | with_reducible apply State.hostLinkDown_keeps
    | with_reducible apply State.wakeEn_keeps
    | with_reducible apply State.downLink_keeps
    | with_reducible apply State.tryStart_keeps
    | split

theorem State.commitField_keeps {z : Frame} {s : State} (h : Keeps z s) (k : RegKey) (v : Nat) :
    Keeps z (State.commitField s k v) := by
  unfold State.commitField
  repeat' first
    | with_reducible assumption
    | with_reducible apply State.enChange_keeps
    | with_reducible apply State.put_keeps
    | split
    | dsimp only

theorem State.commitStaged_keeps {z : Frame} {s : State} (h : Keeps z s) :
    Keeps z (State.commitStaged s) := by
  unfold State.commitStaged
  repeat' first
    | with_reducible assumption
    | with_reducible apply State.commitField_keeps
    | with_reducible refine keeps_foldl (fun t x ht => ?_) ?_
    | dsimp only
    | with_reducible apply keepsOf_eta
    | with_reducible apply keeps_mk

theorem State.settlePeriod_keeps {z : Frame} {s : State} (h : Keeps z s) (img : Option (List Byte)) (trim : Int) :
    Keeps z (State.settlePeriod s img trim) := by
  unfold State.settlePeriod
  repeat' first
    | with_reducible assumption
    | with_reducible apply State.configFault_keeps
    | with_reducible apply State.err_keeps
    | with_reducible apply State.wr_keeps
    | with_reducible apply State.put_keeps
    | with_reducible apply State.setBelfry_keeps
    | with_reducible apply tickOk_eta
    | split
    | dsimp only
    | with_reducible apply keepsOf_eta
    | with_reducible apply keeps_mk

theorem State.dropWork_keeps {z : Frame} {s : State} (h : Keeps z s) :
    Keeps z (State.dropWork s) := by
  unfold State.dropWork
  repeat' first
    | with_reducible assumption
    | with_reducible apply State.unitState_keeps
    | with_reducible apply State.setSched_keeps
    | with_reducible refine keeps_foldl (fun t x ht => ?_) ?_
    | dsimp only
    | with_reducible apply keepsOf_eta
    | with_reducible apply keeps_mk

theorem State.bankSwitch_keeps {z : Frame} {s : State} (h : Keeps z s) :
    Keeps z (State.bankSwitch s) := by
  unfold State.bankSwitch
  repeat' first
    | with_reducible assumption
    | with_reducible apply State.dropWork_keeps
    | with_reducible apply State.setSched_keeps
    | with_reducible apply State.setBankState_keeps
    | with_reducible apply State.setWatch_keeps
    | with_reducible apply State.wrs_keeps
    | with_reducible apply State.wr_keeps
    | with_reducible refine keeps_foldl (fun t x ht => ?_) ?_

theorem State.planSwitch_keeps {z : Frame} {s : State} (h : Keeps z s) (fits : Bool) :
    Keeps z (State.planSwitch s fits) := by
  unfold State.planSwitch
  repeat' first
    | with_reducible assumption
    | with_reducible apply State.bankSwitch_keeps
    | with_reducible apply State.configFault_keeps
    | with_reducible apply State.err_keeps
    | with_reducible apply State.wr_keeps
    | split

theorem State.sendMarkers_keeps {z : Frame} {s : State} (h : Keeps z s) :
    Keeps z (State.sendMarkers s) := by
  unfold State.sendMarkers
  repeat' first
    | with_reducible assumption
    | with_reducible apply State.sendFlit_keeps
    | with_reducible refine keeps_foldl (fun t x ht => ?_) ?_
    | split
    | dsimp only

theorem State.earlyMarkers_keeps {z : Frame} {s : State} (h : Keeps z s) :
    Keeps z (State.earlyMarkers s) := by
  unfold State.earlyMarkers
  repeat' first
    | with_reducible assumption
    | with_reducible apply State.markerCompare_keeps
    | with_reducible apply State.setBelfry_keeps
    | with_reducible apply tickOk_eta
    | with_reducible refine keeps_foldl (fun t x ht => ?_) ?_
    | with_reducible refine keeps_foldl_1 (fun t x ht => ?_) ?_
    | with_reducible refine keeps_foldl_2 (fun t x ht => ?_) ?_
    | with_reducible refine keeps_foldl_3 (fun t x ht => ?_) ?_
    | split
    | dsimp only

theorem State.reportRaised_keeps {z : Frame} {s : State} (h : Keeps z s) (td : Nat) :
    Keeps z (State.reportRaised s td) := by
  unfold State.reportRaised
  repeat' first
    | with_reducible assumption
    | with_reducible apply State.reportSelf_keeps
    | with_reducible apply State.setWatch_keeps
    | with_reducible refine keeps_foldl (fun t x ht => ?_) ?_

theorem State.reportSilent_keeps {z : Frame} {s : State} (h : Keeps z s) (td : Nat) :
    Keeps z (State.reportSilent s td) := by
  unfold State.reportSilent
  repeat' first
    | with_reducible assumption
    | with_reducible apply State.holdReport_keeps
    | with_reducible apply State.err_keeps
    | with_reducible apply State.setBelfry_keeps
    | with_reducible apply State.put_keeps
    | with_reducible refine keeps_foldl (fun t x ht => ?_) ?_
    | with_reducible apply tickOk_eta
    | split

theorem State.watchActs_keeps {z : Frame} {s : State} (h : Keeps z s) :
    Keeps z (State.watchActs s) := by
  unfold State.watchActs
  repeat' first
    | with_reducible assumption
    | with_reducible apply State.switchTick_keeps
    | with_reducible apply State.takeCommands_keeps
    | with_reducible apply State.decide_keeps
    | with_reducible apply State.autoResume_keeps

theorem State.turnStep_keeps {z : Frame} {s : State} (h : Keeps z s) (marked seed : Bool) :
    Keeps z (State.turnStep s marked seed) := by
  unfold State.turnStep
  repeat' first
    | with_reducible assumption
    | with_reducible apply State.setBelfry_keeps
    | with_reducible apply State.wrb_keeps
    | with_reducible apply State.wri_keeps
    | with_reducible refine keeps_foldl (fun t x ht => ?_) ?_
    | with_reducible apply tickOk_eta
    | split

theorem State.startReplay_keeps {z : Frame} {s : State} (h : Keeps z s) :
    Keeps z (State.startReplay s) := by
  unfold State.startReplay
  repeat' first
    | with_reducible assumption
    | with_reducible apply State.srReplay_keeps
    | with_reducible apply State.setSched_keeps
    | with_reducible apply State.setWatch_keeps
    | with_reducible apply State.wr_keeps

theorem State.stepOn_keeps {z : Frame} {s : State} (h : Keeps z s) :
    Keeps z (State.stepOn s) := by
  unfold State.stepOn
  repeat' first
    | with_reducible assumption
    | with_reducible apply State.startReplay_keeps
    | with_reducible apply State.dropWork_keeps
    | with_reducible apply State.takeVariant_keeps
    | with_reducible apply State.trainStep_keeps
    | with_reducible apply State.setSched_keeps
    | with_reducible apply State.wr_keeps
    | split

theorem State.stepSkipped_keeps {z : Frame} {s : State} (h : Keeps z s) :
    Keeps z (State.stepSkipped s) := by
  unfold State.stepSkipped
  repeat' first
    | with_reducible assumption
    | with_reducible apply State.srSkip_keeps
    | with_reducible apply State.bump_keeps

theorem State.startRun_keeps {z : Frame} {s : State} (h : Keeps z s) (p : PlanTick) (m : List Byte) (a : ActionRec) :
    Keeps z (State.startRun s p m a) := by
  unfold State.startRun
  repeat' first
    | with_reducible assumption
    | with_reducible apply State.wr_keeps
    | split
    | dsimp only
    | with_reducible apply keepsOf_eta
    | with_reducible apply keeps_mk

theorem State.showRunning_keeps {z : Frame} {s : State} (h : Keeps z s) (was : List (Nat × Nat)) :
    Keeps z (State.showRunning s was) := by
  unfold State.showRunning
  repeat' first
    | with_reducible assumption
    | with_reducible apply State.unitState_keeps
    | with_reducible refine keeps_foldl (fun t x ht => ?_) ?_
    | split

theorem State.startRuns_keeps {z : Frame} {s : State} (h : Keeps z s) (p : PlanTick) (m : List Byte) :
    Keeps z (State.startRuns s p m) := by
  unfold State.startRuns
  repeat' first
    | with_reducible assumption
    | with_reducible apply State.showRunning_keeps
    | with_reducible apply State.startRun_keeps
    | with_reducible refine keeps_foldl (fun t x ht => ?_) ?_
    | split
    | dsimp only
    | with_reducible apply keepsOf_eta
    | with_reducible apply keeps_mk

theorem State.showClaims_keeps {z : Frame} {s : State} (h : Keeps z s) (p : PlanTick) (m : List Byte) :
    Keeps z (State.showClaims s p m) := by
  unfold State.showClaims
  repeat' first
    | with_reducible assumption
    | with_reducible apply State.wr_keeps
    | with_reducible refine keeps_foldl (fun t x ht => ?_) ?_
    | split
    | dsimp only

theorem State.startWork_keeps {z : Frame} {s : State} (h : Keeps z s) :
    Keeps z (State.startWork s) := by
  unfold State.startWork
  repeat' first
    | with_reducible assumption
    | with_reducible apply State.showClaims_keeps
    | with_reducible apply State.startRuns_keeps
    | with_reducible apply State.countWb_keeps
    | with_reducible apply State.tileStart_keeps
    | with_reducible apply State.serviceBodies_keeps
    | with_reducible apply State.countOut_keeps
    | with_reducible apply State.sendStaged_keeps
    | with_reducible apply State.recheckEarly_keeps
    | with_reducible refine keeps_foldl (fun t x ht => ?_) ?_
    | split
    | dsimp only
    | with_reducible apply keepsOf_eta
    | with_reducible apply keeps_mk

theorem State.cfgMismatch_keeps {z : Frame} {s : State} (h : Keeps z s) :
    Keeps z (State.cfgMismatch s) := by
  unfold State.cfgMismatch
  repeat' first
    | with_reducible assumption
    | with_reducible apply State.failLink_keeps
    | with_reducible apply State.err_keeps
    | with_reducible refine keeps_foldl (fun t x ht => ?_) ?_
    | split

theorem State.cfgCompare_keeps {z : Frame} {s : State} (h : Keeps z s) :
    Keeps z (State.cfgCompare s) := by
  unfold State.cfgCompare
  repeat' first
    | with_reducible assumption
    | with_reducible apply State.cfgMismatch_keeps
    | with_reducible apply State.tryStart_keeps
    | with_reducible apply State.setBelfry_keeps
    | with_reducible refine keeps_foldl (fun t x ht => ?_) ?_
    | with_reducible apply tickOk_eta
    | split
    | dsimp only

theorem State.takeFlips_keeps {z : Frame} {s : State} (h : Keeps z s) :
    Keeps z (State.takeFlips s) := by
  unfold State.takeFlips
  repeat' first
    | with_reducible assumption
    | with_reducible apply State.takeFlip_keeps
    | with_reducible refine keeps_foldl (fun t x ht => ?_) ?_
    | split

theorem State.timeouts_keeps {z : Frame} {s : State} (h : Keeps z s) :
    Keeps z (State.timeouts s) := by
  unfold State.timeouts
  repeat' first
    | with_reducible assumption
    | with_reducible apply State.timeoutResv_keeps
    | with_reducible refine keeps_foldl (fun t x ht => ?_) ?_
    | split

theorem State.mergePlan_keeps {z : Frame} {s : State} (h : Keeps z s) :
    Keeps z (State.mergePlan s) := by
  unfold State.mergePlan
  repeat' first
    | with_reducible assumption
    | with_reducible apply State.mergeFree_keeps
    | with_reducible refine keeps_foldl (fun t x ht => ?_) ?_

theorem State.serveWaiting_keeps {z : Frame} {s : State} (h : Keeps z s) (h0 : z.ok 0) :
    Keeps z (State.serveWaiting s) := by
  unfold State.serveWaiting
  repeat' first
    | with_reducible assumption
    | with_reducible apply State.performWaiting_keeps
    | with_reducible refine keeps_foldl (fun t x ht => ?_) ?_

theorem State.streamsOn_keeps {z : Frame} {s : State} (h : Keeps z s) :
    Keeps z (State.streamsOn s) := by
  unfold State.streamsOn
  repeat' first
    | with_reducible assumption
    | with_reducible apply State.streamStep_keeps
    | with_reducible refine keeps_foldl (fun t x ht => ?_) ?_

theorem State.creditWaits_keeps {z : Frame} {s : State} (h : Keeps z s) :
    Keeps z (State.creditWaits s) := by
  unfold State.creditWaits
  repeat' first
    | with_reducible assumption
    | with_reducible apply State.tryCredit_keeps
    | with_reducible refine keeps_foldl (fun t x ht => ?_) ?_
    | split
    | dsimp only

theorem State.quarDown_keeps {z : Frame} {s : State} (h : Keeps z s) (d : Nat) :
    Keeps z (State.quarDown s d) := by
  unfold State.quarDown
  repeat' first
    | with_reducible assumption
    | with_reducible apply State.hostLinkDown_keeps
    | with_reducible apply State.sleepDom_keeps
    | with_reducible apply State.downLink_keeps
    | split
    | dsimp only

theorem State.quarDowns_keeps {z : Frame} {s : State} (h : Keeps z s) :
    Keeps z (State.quarDowns s) := by
  unfold State.quarDowns
  repeat' first
    | with_reducible assumption
    | with_reducible apply State.quarDown_keeps
    | with_reducible refine keeps_foldl (fun t x ht => ?_) ?_
    | split
    | dsimp only

theorem State.unitsTurn_keeps {z : Frame} {s : State} (h : Keeps z s) (h0 : z.ok 0) :
    Keeps z (State.unitsTurn s) := by
  unfold State.unitsTurn
  repeat' first
    | with_reducible assumption
    | with_reducible apply State.quarDowns_keeps
    | with_reducible apply State.creditWaits_keeps
    | with_reducible apply State.serveWaiting_keeps
    | with_reducible apply State.mergePlan_keeps
    | with_reducible apply State.timeouts_keeps
    | with_reducible apply State.takeFlips_keeps
    | with_reducible apply State.cfgCompare_keeps
    | with_reducible apply State.throttleIssue_keeps
    | with_reducible apply State.placeDoms_keeps
    | with_reducible apply State.atomIdles_keeps
    | with_reducible apply State.drain_keeps
    | with_reducible apply State.pageResets_keeps
    | with_reducible apply State.declareAll_keeps
    | with_reducible apply State.spotArm_keeps
    | split
    | dsimp only

/-- Whatever follows the turn of the tick number keeps it. -/
theorem State.turn_keeps_of {z : Frame} {s : State} (h : Keeps z s.turnTick.turnJoin) (p : PlanTick) :
    Keeps z (State.turn s p) := by
  unfold State.turn
  repeat' first
    | with_reducible assumption
    | with_reducible apply State.turnStep_keeps
    | with_reducible apply State.watchActs_keeps
    | with_reducible apply State.reportSilent_keeps
    | with_reducible apply State.reportRaised_keeps
    | with_reducible apply State.earlyMarkers_keeps
    | with_reducible apply State.sendMarkers_keeps
    | with_reducible apply State.planSwitch_keeps
    | with_reducible apply State.settlePeriod_keeps
    | with_reducible apply State.commitStaged_keeps
    | with_reducible apply State.turnSched_keeps
    | with_reducible apply State.commitOverruns_keeps
    | with_reducible apply State.trimSaturated_keeps
    | with_reducible apply State.wrb_keeps
    | split

/-- A boundary that is due keeps what its turned tick has. -/
theorem State.boundary_keeps_of {z : Frame} {s : State} (hs : Keeps z s) (h : Keeps z s.endTick.turnTick.turnJoin) (h0 : z.ok 0) :
    Keeps z (State.boundary s) := by
  unfold State.boundary
  repeat' first
    | with_reducible assumption
    | with_reducible apply State.turn_keeps_of
    | with_reducible apply State.unitsTurn_keeps
    | with_reducible apply State.streamsOn_keeps
    | with_reducible apply State.startWork_keeps
    | with_reducible apply State.stepSkipped_keeps
    | with_reducible apply State.stepOn_keeps
    | with_reducible apply State.reportRaised_keeps
    | with_reducible apply State.restoreTurn_keeps
    | with_reducible apply State.scanWindows_keeps
    | with_reducible apply State.attSample_keeps
    | with_reducible apply State.prefetchAll_keeps
    | split

theorem State.boundary_keeps {z : Frame} {s : State} (h : Keeps z s) (h0 : z.ok 0) (hj : ∀ n, z.ok (n % tickMod))
    (ht : ∀ n, z.ok (tickAdd n 1)) : Keeps z (State.boundary s) :=
  State.boundary_keeps_of h (State.turnJoin_keeps (State.turnTick_keeps (State.endTick_keeps h) ht) hj) h0

end Sys2Proof.Machine
end

