-- ==== Sys2Proof/Laws/KeepsLineBlock.lean ====
section
/-! SUPPORT. What the operations of LineBlock.lean keep (Keeps). -/

namespace Sys2Proof.Machine

open Sys2Proof

theorem State.refuseTaken_next_keeps {z : Frame} {s t : State} {l : Nat} {f : Flit} (h : Keeps z s)
    (e : s.refuseTaken l f = some t) : Keeps z t := by
  unfold State.refuseTaken at e
  dsimp only at e
  split at e
  · cases e; exact State.headerDiscard_keeps h _
  · split at e
    · cases e; exact State.ageDiscard_keeps h _
    · split at e
      · cases e; exact h
      · cases e

theorem State.watchMessage_keeps {z : Frame} {s : State} (h : Keeps z s) (d : Nat) (m : WatchMsg) :
    Keeps z (State.watchMessage s d m) := by
  unfold State.watchMessage
  repeat' first
    | with_reducible assumption
    | with_reducible apply State.command_keeps
    | with_reducible apply State.watchReport_keeps
    | with_reducible apply State.digestIn_keeps
    | split

theorem State.neighbourMessage_keeps {z : Frame} {s : State} (h : Keeps z s) (d : Nat) (f : Flit) :
    Keeps z (State.neighbourMessage s d f) := by
  unfold State.neighbourMessage
  repeat' first
    | with_reducible assumption
    | with_reducible apply State.watchMessage_keeps
    | with_reducible apply State.routeFlip_keeps
    | with_reducible apply State.skipNotice_keeps
    | split

theorem State.bufferFlit_keeps {z : Frame} {s : State} (h : Keeps z s) (l : Nat) (f : Flit) :
    Keeps z (State.bufferFlit s l f) := by
  unfold State.bufferFlit
  repeat' first
    | with_reducible assumption
    | with_reducible apply State.bufferIn_keeps
    | split
    | dsimp only

theorem State.vcDiscard_keeps {z : Frame} {s : State} (h : Keeps z s) (l : Nat) (f : Flit) :
    Keeps z (State.vcDiscard s l f) := by
  unfold State.vcDiscard
  repeat' first
    | with_reducible assumption
    | with_reducible apply State.bufferFlit_keeps
    | with_reducible apply State.err_keeps
    | with_reducible apply State.returnCredit_keeps
    | with_reducible apply State.setOpn_keeps
    | with_reducible apply State.bump_keeps
    | split
    | dsimp only

theorem State.deliverOpen_keeps {z : Frame} {s : State} (h : Keeps z s) (l : Nat) (f : Flit) :
    Keeps z (State.deliverOpen s l f) := by
  unfold State.deliverOpen
  repeat' first
    | with_reducible assumption
    | with_reducible apply State.vcDiscard_keeps
    | with_reducible apply State.bufferFlit_keeps
    | with_reducible apply State.neighbourMessage_keeps
    | with_reducible apply State.inject_keeps
    | with_reducible apply State.returnCredit_keeps
    | with_reducible refine State.refuseTaken_next_keeps ?_ (by assumption)
    | split
    | dsimp only

theorem State.deliverNow_keeps {z : Frame} {s : State} (h : Keeps z s) (hj : ∀ n, z.ok (n % tickMod)) (l : Nat) (f : Flit) :
    Keeps z (State.deliverNow s l f) := by
  unfold State.deliverNow
  repeat' first
    | with_reducible assumption
    | with_reducible apply State.joinAdopt_keeps
    | with_reducible apply State.err_keeps
    | with_reducible apply State.schedFlit_keeps
    | with_reducible apply State.marker_keeps
    | with_reducible apply State.bump_keeps
    | with_reducible apply State.headerDiscard_keeps
    | split
    | dsimp only

theorem State.findMissing_keeps {z : Frame} {s : State} (h : Keeps z s) (l n : Nat) :
    Keeps z (State.findMissing s l n) := by
  unfold State.findMissing
  repeat' first
    | with_reducible assumption
    | with_reducible apply State.sendIdle_keeps
    | with_reducible apply State.setLink_keeps
    | with_reducible refine keeps_foldl (fun t x ht => ?_) ?_
    | split
    | dsimp only

theorem State.releaseHeld_keeps {z : Frame} {s : State} (h : Keeps z s) (l : Nat) :
    Keeps z (State.releaseHeld s l) := by
  unfold State.releaseHeld
  repeat' first
    | with_reducible assumption
    | with_reducible apply State.deliverOpen_keeps
    | with_reducible apply State.setLink_keeps
    | with_reducible refine keeps_foldl (fun t x ht => ?_) ?_

theorem State.flitBlock_keeps {z : Frame} {s : State} (h : Keeps z s) (hj : ∀ n, z.ok (n % tickMod)) (l q : Nat) (f : Flit) :
    Keeps z (State.flitBlock s l q f) := by
  unfold State.flitBlock
  repeat' first
    | with_reducible assumption
    | with_reducible apply State.releaseHeld_keeps
    | with_reducible apply State.findMissing_keeps
    | with_reducible apply State.deliverNow_keeps
    | with_reducible apply State.setLink_keeps
    | split
    | dsimp only

theorem State.addCredit_keeps {z : Frame} {s : State} (h : Keeps z s) (l vc n : Nat) :
    Keeps z (State.addCredit s l vc n) := by
  unfold State.addCredit
  repeat' first
    | with_reducible assumption
    | with_reducible apply State.setCred_keeps
    | split
    | dsimp only

theorem State.controlWord_keeps {z : Frame} {s : State} (h : Keeps z s) (l w : Nat) :
    Keeps z (State.controlWord s l w) := by
  unfold State.controlWord
  repeat' first
    | with_reducible assumption
    | with_reducible apply State.addCredit_keeps
    | with_reducible apply State.replayBlock_keeps
    | with_reducible apply State.setLink_keeps
    | split

theorem State.trainingBlock_keeps {z : Frame} {s : State} (h : Keeps z s) (l : Nat) (b : List Byte) :
    Keeps z (State.trainingBlock s l b) := by
  unfold State.trainingBlock
  repeat' first
    | with_reducible assumption
    | with_reducible apply State.creditGrant_keeps
    | with_reducible apply State.identity_keeps
    | with_reducible apply State.probeEcho_keeps
    | with_reducible apply State.latencyProbe_keeps
    | split

theorem State.badBlock_keeps {z : Frame} {s : State} (h : Keeps z s) (l : Nat) :
    Keeps z (State.badBlock s l) := by
  unfold State.badBlock
  repeat' first
    | with_reducible assumption
    | with_reducible apply State.lockLoss_keeps
    | with_reducible apply State.setLink_keeps
    | split
    | dsimp only

theorem State.blockContent_keeps {z : Frame} {s : State} (h : Keeps z s) (hj : ∀ n, z.ok (n % tickMod)) (l : Nat) (b : List Byte) :
    Keeps z (State.blockContent s l b) := by
  unfold State.blockContent
  repeat' first
    | with_reducible assumption
    | with_reducible apply State.trainingBlock_keeps
    | with_reducible apply State.controlWord_keeps
    | with_reducible apply State.flitBlock_keeps
    | with_reducible apply State.findMissing_keeps
    | split
    | dsimp only

theorem State.goodBlock_keeps {z : Frame} {s : State} (h : Keeps z s) (hj : ∀ n, z.ok (n % tickMod)) (l : Nat) (b : List Byte) :
    Keeps z (State.goodBlock s l b) := by
  unfold State.goodBlock
  repeat' first
    | with_reducible assumption
    | with_reducible apply State.blockContent_keeps
    | with_reducible apply State.lockAchieved_keeps
    | with_reducible apply State.setLink_keeps
    | split
    | dsimp only

theorem State.countSymbols_keeps {z : Frame} {s : State} (h : Keeps z s) (l : Nat) (syms : List Nat) :
    Keeps z (State.countSymbols s l syms) := by
  unfold State.countSymbols
  repeat' first
    | with_reducible assumption
    | with_reducible apply State.bumpi_keeps
    | with_reducible refine keeps_foldl (fun t x ht => ?_) ?_

theorem State.lineBlock_keeps {z : Frame} {s : State} (h : Keeps z s) (hj : ∀ n, z.ok (n % tickMod)) (l : Nat) (data parity : List Byte) :
    Keeps z (State.lineBlock s l data parity) := by
  unfold State.lineBlock
  repeat' first
    | with_reducible assumption
    | with_reducible apply State.countSymbols_keeps
    | with_reducible apply State.goodBlock_keeps
    | with_reducible apply State.badBlock_keeps
    | with_reducible apply State.bump_keeps
    | split
    | dsimp only

end Sys2Proof.Machine
end

