-- ==== Sys2Proof/Laws/KeepsExec.lean ====
section
/-! SUPPORT. What each command keeps (Keeps), and what every command keeps. -/

namespace Sys2Proof.Machine

open Sys2Proof

theorem execPeriodAtWrite_keeps {z : Frame} {s : State} (h : Keeps z s) (v : Nat) :
    ∃ t, execPeriodAtWrite v s = .next t ∧ Keeps z t := by
  refine ⟨_, rfl, ?_⟩
  repeat' first
    | with_reducible assumption
    | with_reducible apply State.armPeriod_keeps

theorem execNowLoRead_keeps {z : Frame} {s : State} (h : Keeps z s) :
    ∃ t, execNowLoRead s = .next t ∧ Keeps z t := by
  refine ⟨_, rfl, ?_⟩
  repeat' first
    | with_reducible assumption
    | with_reducible apply State.readNowLo_keeps
    | with_reducible apply State.emit_keeps

theorem execStepLoRead_keeps {z : Frame} {s : State} (h : Keeps z s) :
    ∃ t, execStepLoRead s = .next t ∧ Keeps z t := by
  refine ⟨_, rfl, ?_⟩
  repeat' first
    | with_reducible assumption
    | with_reducible apply State.readStepLo_keeps
    | with_reducible apply State.emit_keeps

theorem execMarkerReceive_keeps {z : Frame} {s : State} (h : Keeps z s) (link : Nat) (m : Marker) :
    ∃ t, execMarkerReceive link m s = .next t ∧ Keeps z t := by
  refine ⟨_, rfl, ?_⟩
  repeat' first
    | with_reducible assumption
    | with_reducible apply State.marker_keeps

theorem execTrimSaturated_keeps {z : Frame} {s : State} (h : Keeps z s) :
    ∃ t, execTrimSaturated s = .next t ∧ Keeps z t := by
  refine ⟨_, rfl, ?_⟩
  repeat' first
    | with_reducible assumption
    | with_reducible apply State.trimSaturated_keeps

theorem execSkipNotice_keeps {z : Frame} {s : State} (h : Keeps z s) (d target origin reason : Nat) :
    ∃ t, execSkipNotice d target origin reason s = .next t ∧ Keeps z t := by
  refine ⟨_, rfl, ?_⟩
  repeat' first
    | with_reducible assumption
    | with_reducible apply State.skipNotice_keeps

theorem execSkipReq_keeps {z : Frame} {s : State} (h : Keeps z s) (v : Nat) :
    ∃ t, execSkipReq v s = .next t ∧ Keeps z t := by
  refine ⟨_, rfl, ?_⟩
  repeat' first
    | with_reducible assumption
    | with_reducible apply State.issueSkip_keeps
    | intro _
    | split

theorem execThrottleEvaluation_keeps {z : Frame} {s : State} (h : Keeps z s) (temps : List Int) (power : Nat) (cup : List Nat) :
    ∃ t, execThrottleEvaluation temps power cup s = .next t ∧ Keeps z t := by
  refine ⟨_, rfl, ?_⟩
  repeat' first
    | with_reducible assumption
    | with_reducible apply State.throttleEval_keeps

theorem execSkipNoticeIssue_keeps {z : Frame} {s : State} (h : Keeps z s) :
    ∃ t, execSkipNoticeIssue s = .next t ∧ Keeps z t := by
  refine ⟨_, rfl, ?_⟩
  repeat' first
    | with_reducible assumption
    | with_reducible apply State.throttleIssue_keeps

theorem execThrEnClear_keeps {z : Frame} {s : State} (h : Keeps z s) (v : Nat) :
    ∃ t, execThrEnClear v s = .next t ∧ Keeps z t := by
  refine ⟨_, rfl, ?_⟩
  repeat' first
    | with_reducible assumption
    | with_reducible apply State.writeThrCtl_keeps

theorem execScheduledFlitReceive_keeps {z : Frame} {s : State} (h : Keeps z s) (link : Nat) (f : Flit) : ∃ t,
    execScheduledFlitReceive link f s = .next t ∧ Keeps z t := by
  refine ⟨_, rfl, ?_⟩
  repeat' first
    | with_reducible assumption
    | with_reducible apply State.schedFlit_keeps
    | with_reducible apply State.headerDiscard_keeps
    | intro _
    | split
    | dsimp only

theorem execClipClr_keeps {z : Frame} {s : State} (h : Keeps z s) (u : AUnit) :
    ∃ t, execClipClr u s = .next t ∧ Keeps z t := by
  refine ⟨_, rfl, ?_⟩
  repeat' first
    | with_reducible assumption
    | with_reducible apply State.clipClr_keeps
    | intro _
    | split

theorem execCorrectedWriteback_keeps {z : Frame} {s : State} (h : Keeps z s) (line : Nat) :
    ∃ t, execCorrectedWriteback line s = .next t ∧ Keeps z t := by
  refine ⟨_, rfl, ?_⟩
  repeat' first
    | with_reducible assumption
    | with_reducible apply State.cleanLine_keeps
    | intro _
    | split

theorem execMergeWriteback_keeps {z : Frame} {s : State} (h : Keeps z s) (line : Nat) :
    ∃ t, execMergeWriteback line s = .next t ∧ Keeps z t := by
  refine ⟨_, rfl, ?_⟩
  repeat' first
    | with_reducible assumption
    | with_reducible apply State.mergeFree_keeps
    | intro _
    | split

theorem execMergeEntryWait_keeps {z : Frame} {s : State} (h : Keeps z s) (st : Nat) :
    ∃ t, execMergeEntryWait st s = .next t ∧ Keeps z t := by
  refine ⟨_, rfl, ?_⟩
  repeat' first
    | with_reducible assumption
    | with_reducible apply State.mergeNeed_keeps

theorem execPatrolRead_keeps {z : Frame} {s : State} (h : Keeps z s) (line : Nat) : ∃ t, execPatrolRead line s = .next t
    ∧ Keeps z t := by
  refine ⟨_, rfl, ?_⟩
  repeat' first
    | with_reducible assumption
    | with_reducible apply State.patrolBuffer_keeps
    | with_reducible apply State.bump_keeps
    | with_reducible apply State.touchLine_keeps
    | intro _
    | split
    | dsimp only

theorem execAtomIdleWriteback_keeps {z : Frame} {s : State} (h : Keeps z s) (line : Nat) :
    ∃ t, execAtomIdleWriteback line s = .next t ∧ Keeps z t := by
  refine ⟨_, rfl, ?_⟩
  repeat' first
    | with_reducible assumption
    | with_reducible apply State.atomWriteback_keeps
    | intro _
    | split

theorem execAtomFlush_keeps {z : Frame} {s : State} (h : Keeps z s) (c : Nat) :
    ∃ t, execAtomFlush c s = .next t ∧ Keeps z t := by
  refine ⟨_, rfl, ?_⟩
  repeat' first
    | with_reducible assumption
    | with_reducible apply State.atomFlush_keeps
    | intro _
    | split

theorem execAtomWinWrite_keeps {z : Frame} {s : State} (h : Keeps z s) (c v : Nat) :
    ∃ t, execAtomWinWrite c v s = .next t ∧ Keeps z t := by
  refine ⟨_, rfl, ?_⟩
  repeat' first
    | with_reducible assumption
    | with_reducible apply State.atomWin_keeps
    | intro _
    | split

theorem execFstRead_keeps {z : Frame} {s : State} (h : Keeps z s) :
    ∃ t, execFstRead s = .next t ∧ Keeps z t := by
  refine ⟨_, rfl, ?_⟩
  repeat' first
    | with_reducible assumption
    | with_reducible apply State.fstRead_keeps

theorem execCeReduce_keeps {z : Frame} {s : State} (h : Keeps z s) (ce slot : Nat) :
    ∃ t, execCeReduce ce slot s = .next t ∧ Keeps z t := by
  refine ⟨_, rfl, ?_⟩
  repeat' first
    | with_reducible assumption
    | with_reducible apply State.ceRun_keeps
    | with_reducible apply State.ceTree_keeps

theorem execCeAllReduce_keeps {z : Frame} {s : State} (h : Keeps z s) (ce slot : Nat) :
    ∃ t, execCeAllReduce ce slot s = .next t ∧ Keeps z t := by
  refine ⟨_, rfl, ?_⟩
  repeat' first
    | with_reducible assumption
    | with_reducible apply State.ceRun_keeps
    | with_reducible apply State.ceTree_keeps

theorem execCeReduceScatter_keeps {z : Frame} {s : State} (h : Keeps z s) (ce slot : Nat) :
    ∃ t, execCeReduceScatter ce slot s = .next t ∧ Keeps z t := by
  refine ⟨_, rfl, ?_⟩
  repeat' first
    | with_reducible assumption
    | with_reducible apply State.ceRun_keeps
    | with_reducible apply State.ceTree_keeps

theorem execCeAllGather_keeps {z : Frame} {s : State} (h : Keeps z s) (ce slot : Nat) :
    ∃ t, execCeAllGather ce slot s = .next t ∧ Keeps z t := by
  refine ⟨_, rfl, ?_⟩
  repeat' first
    | with_reducible assumption
    | with_reducible apply State.ceRun_keeps
    | with_reducible apply State.ceTree_keeps

theorem execCeBroadcast_keeps {z : Frame} {s : State} (h : Keeps z s) (ce slot : Nat) :
    ∃ t, execCeBroadcast ce slot s = .next t ∧ Keeps z t := by
  refine ⟨_, rfl, ?_⟩
  repeat' first
    | with_reducible assumption
    | with_reducible apply State.ceRun_keeps
    | with_reducible apply State.ceTree_keeps

theorem execCeAllToAll_keeps {z : Frame} {s : State} (h : Keeps z s) (ce slot : Nat) :
    ∃ t, execCeAllToAll ce slot s = .next t ∧ Keeps z t := by
  refine ⟨_, rfl, ?_⟩
  repeat' first
    | with_reducible assumption
    | with_reducible apply State.ceRun_keeps
    | with_reducible apply State.ceAllToAll_keeps

theorem execCeGatherIdx_keeps {z : Frame} {s : State} (h : Keeps z s) (ce slot : Nat) :
    ∃ t, execCeGatherIdx ce slot s = .next t ∧ Keeps z t := by
  refine ⟨_, rfl, ?_⟩
  repeat' first
    | with_reducible assumption
    | with_reducible apply State.ceRun_keeps
    | with_reducible apply State.ceGatherIdx_keeps

theorem execCeScatterIdx_keeps {z : Frame} {s : State} (h : Keeps z s) (ce slot : Nat) :
    ∃ t, execCeScatterIdx ce slot s = .next t ∧ Keeps z t := by
  refine ⟨_, rfl, ?_⟩
  repeat' first
    | with_reducible assumption
    | with_reducible apply State.ceRun_keeps
    | with_reducible apply State.ceScatterIdx_keeps

theorem execCeSortMerge_keeps {z : Frame} {s : State} (h : Keeps z s) (ce slot : Nat) :
    ∃ t, execCeSortMerge ce slot s = .next t ∧ Keeps z t := by
  refine ⟨_, rfl, ?_⟩
  repeat' first
    | with_reducible assumption
    | with_reducible apply State.ceRun_keeps
    | with_reducible apply State.ceMerge_keeps

theorem execCeTopkMerge_keeps {z : Frame} {s : State} (h : Keeps z s) (ce slot : Nat) :
    ∃ t, execCeTopkMerge ce slot s = .next t ∧ Keeps z t := by
  refine ⟨_, rfl, ?_⟩
  repeat' first
    | with_reducible assumption
    | with_reducible apply State.ceRun_keeps
    | with_reducible apply State.ceMerge_keeps

theorem execCeScan_keeps {z : Frame} {s : State} (h : Keeps z s) (ce slot : Nat) :
    ∃ t, execCeScan ce slot s = .next t ∧ Keeps z t := by
  refine ⟨_, rfl, ?_⟩
  repeat' first
    | with_reducible assumption
    | with_reducible apply State.ceRun_keeps
    | with_reducible apply State.ceScan_keeps

theorem execCeAttnCombine_keeps {z : Frame} {s : State} (h : Keeps z s) (ce slot : Nat) :
    ∃ t, execCeAttnCombine ce slot s = .next t ∧ Keeps z t := by
  refine ⟨_, rfl, ?_⟩
  repeat' first
    | with_reducible assumption
    | with_reducible apply State.ceRun_keeps
    | with_reducible apply State.ceAttn_keeps

theorem execCePartialFold_keeps {z : Frame} {s : State} (h : Keeps z s) (ce slot rank : Nat) :
    ∃ t, execCePartialFold ce slot rank s = .next t ∧ Keeps z t := by
  refine ⟨_, rfl, ?_⟩
  repeat' first
    | with_reducible assumption
    | with_reducible apply State.partialFold_keeps

theorem execCodecEncode_keeps {z : Frame} {s : State} (h : Keeps z s) (c slot : Nat) :
    ∃ t, execCodecEncode c slot s = .next t ∧ Keeps z t := by
  refine ⟨_, rfl, ?_⟩
  repeat' first
    | with_reducible assumption
    | with_reducible apply State.codecEncode_keeps
    | intro _
    | split

theorem execCodecStore_keeps {z : Frame} {s : State} (h : Keeps z s) (c slot : Nat) :
    ∃ t, execCodecStore c slot s = .next t ∧ Keeps z t := by
  refine ⟨_, rfl, ?_⟩
  repeat' first
    | with_reducible assumption
    | with_reducible apply State.codecStore_keeps
    | intro _
    | split

theorem execCodecPack24_keeps {z : Frame} {s : State} (h : Keeps z s) (c slot : Nat) :
    ∃ t, execCodecPack24 c slot s = .next t ∧ Keeps z t := by
  refine ⟨_, rfl, ?_⟩
  repeat' first
    | with_reducible assumption
    | with_reducible apply State.codecPack_keeps
    | intro _
    | split

theorem execCodecExpand_keeps {z : Frame} {s : State} (h : Keeps z s) (c slot : Nat) :
    ∃ t, execCodecExpand c slot s = .next t ∧ Keeps z t := by
  refine ⟨_, rfl, ?_⟩
  repeat' first
    | with_reducible assumption
    | with_reducible apply State.codecExpand_keeps
    | intro _
    | split

theorem execCodedSliceReceive_keeps {z : Frame} {s : State} (h : Keeps z s) (c sid : Nat) :
    ∃ t, execCodedSliceReceive c sid s = .next t ∧ Keeps z t := by
  refine ⟨_, rfl, ?_⟩
  repeat' first
    | with_reducible assumption
    | with_reducible apply State.decodeSlice_keeps

theorem execLinkSignalDetect_keeps {z : Frame} {s : State} (h : Keeps z s) (link : Nat) :
    ∃ t, execLinkSignalDetect link s = .next t ∧ Keeps z t := by
  refine ⟨_, rfl, ?_⟩
  repeat' first
    | with_reducible assumption
    | with_reducible apply State.tryStart_keeps
    | with_reducible apply State.setLink_keeps
    | intro _
    | split

theorem execEqConverge_keeps {z : Frame} {s : State} (h : Keeps z s) (link : Nat) :
    ∃ t, execEqConverge link s = .next t ∧ Keeps z t := by
  refine ⟨_, rfl, ?_⟩
  repeat' first
    | with_reducible assumption
    | with_reducible apply State.setLstate_keeps
    | intro _
    | split

theorem execLockAchieved_keeps {z : Frame} {s : State} (h : Keeps z s) (link : Nat) :
    ∃ t, execLockAchieved link s = .next t ∧ Keeps z t := by
  refine ⟨_, rfl, ?_⟩
  repeat' first
    | with_reducible assumption
    | with_reducible apply State.lockAchieved_keeps

theorem execLatencyProbe_keeps {z : Frame} {s : State} (h : Keeps z s) (link stamp hold : Nat) :
    ∃ t, execLatencyProbe link stamp hold s = .next t ∧ Keeps z t := by
  refine ⟨_, rfl, ?_⟩
  repeat' first
    | with_reducible assumption
    | with_reducible apply State.latencyProbe_keeps

theorem execProbeEcho_keeps {z : Frame} {s : State} (h : Keeps z s) (link echo hold : Nat) :
    ∃ t, execProbeEcho link echo hold s = .next t ∧ Keeps z t := by
  refine ⟨_, rfl, ?_⟩
  repeat' first
    | with_reducible assumption
    | with_reducible apply State.probeEcho_keeps

theorem execIdentity_keeps {z : Frame} {s : State} (h : Keeps z s) (link ident dir : Nat) :
    ∃ t, execIdentity link ident dir s = .next t ∧ Keeps z t := by
  refine ⟨_, rfl, ?_⟩
  repeat' first
    | with_reducible assumption
    | with_reducible apply State.identity_keeps

theorem execCreditGrant_keeps {z : Frame} {s : State} (h : Keeps z s) (link : Nat) (credits : List Nat) :
    ∃ t, execCreditGrant link credits s = .next t ∧ Keeps z t := by
  refine ⟨_, rfl, ?_⟩
  repeat' first
    | with_reducible assumption
    | with_reducible apply State.creditGrant_keeps

theorem execTrainStateTimeout_keeps {z : Frame} {s : State} (h : Keeps z s) (link : Nat) :
    ∃ t, execTrainStateTimeout link s = .next t ∧ Keeps z t := by
  refine ⟨_, rfl, ?_⟩
  repeat' first
    | with_reducible assumption
    | with_reducible apply State.trainFail_keeps
    | intro _
    | split

theorem execLockLoss_keeps {z : Frame} {s : State} (h : Keeps z s) (link : Nat) :
    ∃ t, execLockLoss link s = .next t ∧ Keeps z t := by
  refine ⟨_, rfl, ?_⟩
  repeat' first
    | with_reducible assumption
    | with_reducible apply State.lockLoss_keeps

theorem execRetrain_keeps {z : Frame} {s : State} (h : Keeps z s) (link : Nat) :
    ∃ t, execRetrain link s = .next t ∧ Keeps z t := by
  refine ⟨_, rfl, ?_⟩
  repeat' first
    | with_reducible assumption
    | with_reducible apply State.retrain_keeps

theorem execLinkEnWrite_keeps {z : Frame} {s : State} (h : Keeps z s) (link : Nat) (en : Bool) :
    ∃ t, execLinkEnWrite link en s = .next t ∧ Keeps z t := by
  refine ⟨_, rfl, ?_⟩
  repeat' first
    | with_reducible assumption
    | with_reducible apply State.writeLinkEn_keeps
    | intro _
    | split

theorem execNakReceive_keeps {z : Frame} {s : State} (h : Keeps z s) (link seq : Nat) :
    ∃ t, execNakReceive link seq s = .next t ∧ Keeps z t := by
  refine ⟨_, rfl, ?_⟩
  repeat' first
    | with_reducible assumption
    | with_reducible apply State.replayBlock_keeps
    | intro _
    | split

theorem execAckTimeout_keeps {z : Frame} {s : State} (h : Keeps z s) (link seq : Nat) :
    ∃ t, execAckTimeout link seq s = .next t ∧ Keeps z t := by
  refine ⟨_, rfl, ?_⟩
  repeat' first
    | with_reducible assumption
    | with_reducible apply State.replayBlock_keeps
    | intro _
    | split

theorem execD2dRetry_keeps {z : Frame} {s : State} (h : Keeps z s) (link dir k : Nat) (acked : Bool) : ∃ t, execD2dRetry
    link dir k acked s = .next t ∧ Keeps z t := by
  refine ⟨_, rfl, ?_⟩
  repeat' first
    | with_reducible assumption
    | with_reducible apply State.d2dRetry_keeps
    | intro _
    | split
    | dsimp only

theorem execCredTo_keeps {z : Frame} {s : State} (h : Keeps z s) (n vc : Nat) : ∃ t, execCredTo n vc s = .next t ∧ Keeps
    z t := by
  refine ⟨_, rfl, ?_⟩
  repeat' first
    | with_reducible assumption
    | with_reducible apply State.dropReservations_keeps
    | with_reducible apply State.failLink_keeps
    | with_reducible apply State.dropOutput_keeps
    | with_reducible apply State.err_keeps
    | intro _
    | split
    | dsimp only

theorem execTblDataWrite_keeps {z : Frame} {s : State} (h : Keeps z s) (keep v : Nat) :
    ∃ t, execTblDataWrite keep v s = .next t ∧ Keeps z t := by
  refine ⟨_, rfl, ?_⟩
  repeat' first
    | with_reducible assumption
    | with_reducible apply State.tblWrite_keeps
    | intro _
    | split

theorem execOpenRequestInject_keeps {z : Frame} {s : State} (h : Keeps z s) (src : Source) (f : Flit) :
    ∃ t, execOpenRequestInject src f s = .next t ∧ Keeps z t := by
  refine ⟨_, rfl, ?_⟩
  repeat' first
    | with_reducible assumption
    | with_reducible apply State.inject_keeps

theorem execReservationTimeout_keeps {z : Frame} {s : State} (h : Keeps z s) (src : Source) (tag : Nat) :
    ∃ t, execReservationTimeout src tag s = .next t ∧ Keeps z t := by
  refine ⟨_, rfl, ?_⟩
  repeat' first
    | with_reducible assumption
    | with_reducible apply State.timeoutResv_keeps
    | intro _
    | split

theorem execReplyReceive_keeps {z : Frame} {s : State} (h : Keeps z s) (src : Source) (f : Flit) : ∃ t, execReplyReceive
    src f s = .next t ∧ Keeps z t := by
  refine ⟨_, rfl, ?_⟩
  repeat' first
    | with_reducible assumption
    | with_reducible apply State.reply_keeps
    | with_reducible apply State.served_keeps
    | intro _
    | split
    | dsimp only

theorem execRouteFlip_keeps {z : Frame} {s : State} (h : Keeps z s) (d tick sum origin : Nat) :
    ∃ t, execRouteFlip d tick sum origin s = .next t ∧ Keeps z t := by
  refine ⟨_, rfl, ?_⟩
  repeat' first
    | with_reducible assumption
    | with_reducible apply State.routeFlip_keeps

theorem execFlipAtWrite_keeps {z : Frame} {s : State} (h : Keeps z s) (keep v : Nat) :
    ∃ t, execFlipAtWrite keep v s = .next t ∧ Keeps z t := by
  refine ⟨_, rfl, ?_⟩
  repeat' first
    | with_reducible assumption
    | with_reducible apply State.flipAtWrite_keeps
    | intro _
    | split

theorem execFlitAged_keeps {z : Frame} {s : State} (h : Keeps z s) (keep out vc : Nat) :
    ∃ t, execFlitAged keep out vc s = .next t ∧ Keeps z t := by
  refine ⟨_, rfl, ?_⟩
  repeat' first
    | with_reducible assumption
    | with_reducible apply State.flitAged_keeps

theorem execMoverCopy_keeps {z : Frame} {s : State} (h : Keeps z s) (k : Nat) :
    ∃ t, execMoverCopy k s = .next t ∧ Keeps z t := by
  refine ⟨_, rfl, ?_⟩
  repeat' first
    | with_reducible assumption
    | with_reducible apply State.mvGo_keeps
    | intro _
    | split

theorem execMoverConvert_keeps {z : Frame} {s : State} (h : Keeps z s) (k : Nat) :
    ∃ t, execMoverConvert k s = .next t ∧ Keeps z t := by
  refine ⟨_, rfl, ?_⟩
  repeat' first
    | with_reducible assumption
    | with_reducible apply State.mvGo_keeps
    | intro _
    | split

theorem execMoverReply_keeps {z : Frame} {s : State} (h : Keeps z s) (k : Nat) (f : Flit) : ∃ t, execMoverReply k f s =
    .next t ∧ Keeps z t := by
  refine ⟨_, rfl, ?_⟩
  repeat' first
    | with_reducible assumption
    | with_reducible apply State.mvReply_keeps
    | with_reducible apply State.served_keeps
    | with_reducible apply State.headerDiscard_keeps
    | intro _
    | split
    | dsimp only

theorem execMoverDrainDone_keeps {z : Frame} {s : State} (h : Keeps z s) (k : Nat) :
    ∃ t, execMoverDrainDone k s = .next t ∧ Keeps z t := by
  refine ⟨_, rfl, ?_⟩
  repeat' first
    | with_reducible assumption
    | with_reducible apply State.mvDrained_keeps
    | intro _
    | split

theorem execMvResume_keeps {z : Frame} {s : State} (h : Keeps z s) (k : Nat) :
    ∃ t, execMvResume k s = .next t ∧ Keeps z t := by
  refine ⟨_, rfl, ?_⟩
  repeat' first
    | with_reducible assumption
    | with_reducible apply State.mvResume_keeps
    | intro _
    | split

theorem execMvAbort_keeps {z : Frame} {s : State} (h : Keeps z s) (k : Nat) :
    ∃ t, execMvAbort k s = .next t ∧ Keeps z t := by
  refine ⟨_, rfl, ?_⟩
  repeat' first
    | with_reducible assumption
    | with_reducible apply State.mvAbort_keeps
    | intro _
    | split

theorem execRefreshRound_keeps {z : Frame} {s : State} (h : Keeps z s) (st : Nat) :
    ∃ t, execRefreshRound st s = .next t ∧ Keeps z t := by
  refine ⟨_, rfl, ?_⟩
  repeat' first
    | with_reducible assumption
    | with_reducible apply State.bump_keeps
    | with_reducible apply State.put_keeps
    | intro _
    | split
    | with_reducible refine keeps_foldl (fun t x ht => ?_) ?_
    | dsimp only
    | with_reducible apply keepsOf_eta
    | with_reducible apply keeps_mk

theorem execSysGibWrite_keeps {z : Frame} {s : State} (h : Keeps z s) (st v : Nat) :
    ∃ t, execSysGibWrite st v s = .next t ∧ Keeps z t := by
  refine ⟨_, rfl, ?_⟩
  repeat' first
    | with_reducible assumption
    | with_reducible apply State.sysGib_keeps
    | intro _
    | split

theorem execStackMoverOut_keeps {z : Frame} {s : State} (h : Keeps z s) (st slot : Nat) :
    ∃ t, execStackMoverOut st slot s = .next t ∧ Keeps z t := by
  refine ⟨_, rfl, ?_⟩
  repeat' first
    | with_reducible assumption
    | with_reducible apply State.stackOut_keeps
    | intro _
    | split

theorem execStackMoverIn_keeps {z : Frame} {s : State} (h : Keeps z s) (st slot : Nat) :
    ∃ t, execStackMoverIn st slot s = .next t ∧ Keeps z t := by
  refine ⟨_, rfl, ?_⟩
  repeat' first
    | with_reducible assumption
    | with_reducible apply State.stackIn_keeps
    | intro _
    | split

theorem execStackMoverCopy_keeps {z : Frame} {s : State} (h : Keeps z s) (st slot : Nat) :
    ∃ t, execStackMoverCopy st slot s = .next t ∧ Keeps z t := by
  refine ⟨_, rfl, ?_⟩
  repeat' first
    | with_reducible assumption
    | with_reducible apply State.stackCopy_keeps
    | intro _
    | split

theorem execFlitConsume_keeps {z : Frame} {s : State} (h : Keeps z s) (link sid o : Nat) :
    ∃ t, execFlitConsume link sid o s = .next t ∧ Keeps z t := by
  refine ⟨_, rfl, ?_⟩
  repeat' first
    | with_reducible assumption
    | with_reducible apply State.consumeLand_keeps

theorem execTickBodyComplete_keeps {z : Frame} {s : State} (h : Keeps z s) (g : Nat) :
    ∃ t, execTickBodyComplete g s = .next t ∧ Keeps z t := by
  refine ⟨_, rfl, ?_⟩
  repeat' first
    | with_reducible assumption
    | with_reducible apply State.bodyComplete_keeps
    | intro _
    | split

theorem execPrefetchComplete_keeps {z : Frame} {s : State} (h : Keeps z s) (g : Nat) :
    ∃ t, execPrefetchComplete g s = .next t ∧ Keeps z t := by
  refine ⟨_, rfl, ?_⟩
  repeat' first
    | with_reducible assumption
    | with_reducible apply State.prefetchDone_keeps

theorem execImemWdataWrite_keeps {z : Frame} {s : State} (h : Keeps z s) (g : Nat) (lantern : Bool) (v : Nat) : ∃ t,
    execImemWdataWrite g lantern v s = .next t ∧ Keeps z t := by
  refine ⟨_, rfl, ?_⟩
  repeat' first
    | with_reducible assumption
    | with_reducible apply State.imemHold_keeps
    | with_reducible apply State.imemPerform_keeps
    | intro _
    | split
    | dsimp only

theorem execBillinCopy_keeps {z : Frame} {s : State} (h : Keeps z s) (g i : Nat) :
    ∃ t, execBillinCopy g i s = .next t ∧ Keeps z t := by
  refine ⟨_, rfl, ?_⟩
  repeat' first
    | with_reducible assumption
    | with_reducible apply State.dataInsn_keeps

theorem execFill_keeps {z : Frame} {s : State} (h : Keeps z s) (g i : Nat) :
    ∃ t, execFill g i s = .next t ∧ Keeps z t := by
  refine ⟨_, rfl, ?_⟩
  repeat' first
    | with_reducible assumption
    | with_reducible apply State.dataInsn_keeps

theorem execGather_keeps {z : Frame} {s : State} (h : Keeps z s) (g i : Nat) :
    ∃ t, execGather g i s = .next t ∧ Keeps z t := by
  refine ⟨_, rfl, ?_⟩
  repeat' first
    | with_reducible assumption
    | with_reducible apply State.dataInsn_keeps

theorem execScatter_keeps {z : Frame} {s : State} (h : Keeps z s) (g i : Nat) :
    ∃ t, execScatter g i s = .next t ∧ Keeps z t := by
  refine ⟨_, rfl, ?_⟩
  repeat' first
    | with_reducible assumption
    | with_reducible apply State.dataInsn_keeps

theorem execBillinMma_keeps {z : Frame} {s : State} (h : Keeps z s) (g i : Nat) :
    ∃ t, execBillinMma g i s = .next t ∧ Keeps z t := by
  refine ⟨_, rfl, ?_⟩
  repeat' first
    | with_reducible assumption
    | with_reducible apply State.dataInsn_keeps

theorem execAdd_keeps {z : Frame} {s : State} (h : Keeps z s) (g i : Nat) :
    ∃ t, execAdd g i s = .next t ∧ Keeps z t := by
  refine ⟨_, rfl, ?_⟩
  repeat' first
    | with_reducible assumption
    | with_reducible apply State.dataInsn_keeps

theorem execSub_keeps {z : Frame} {s : State} (h : Keeps z s) (g i : Nat) :
    ∃ t, execSub g i s = .next t ∧ Keeps z t := by
  refine ⟨_, rfl, ?_⟩
  repeat' first
    | with_reducible assumption
    | with_reducible apply State.dataInsn_keeps

theorem execMul_keeps {z : Frame} {s : State} (h : Keeps z s) (g i : Nat) :
    ∃ t, execMul g i s = .next t ∧ Keeps z t := by
  refine ⟨_, rfl, ?_⟩
  repeat' first
    | with_reducible assumption
    | with_reducible apply State.dataInsn_keeps

theorem execFma_keeps {z : Frame} {s : State} (h : Keeps z s) (g i : Nat) :
    ∃ t, execFma g i s = .next t ∧ Keeps z t := by
  refine ⟨_, rfl, ?_⟩
  repeat' first
    | with_reducible assumption
    | with_reducible apply State.dataInsn_keeps

theorem execMax_keeps {z : Frame} {s : State} (h : Keeps z s) (g i : Nat) :
    ∃ t, execMax g i s = .next t ∧ Keeps z t := by
  refine ⟨_, rfl, ?_⟩
  repeat' first
    | with_reducible assumption
    | with_reducible apply State.dataInsn_keeps

theorem execMin_keeps {z : Frame} {s : State} (h : Keeps z s) (g i : Nat) :
    ∃ t, execMin g i s = .next t ∧ Keeps z t := by
  refine ⟨_, rfl, ?_⟩
  repeat' first
    | with_reducible assumption
    | with_reducible apply State.dataInsn_keeps

theorem execDiv_keeps {z : Frame} {s : State} (h : Keeps z s) (g i : Nat) :
    ∃ t, execDiv g i s = .next t ∧ Keeps z t := by
  refine ⟨_, rfl, ?_⟩
  repeat' first
    | with_reducible assumption
    | with_reducible apply State.dataInsn_keeps

theorem execSqrt_keeps {z : Frame} {s : State} (h : Keeps z s) (g i : Nat) :
    ∃ t, execSqrt g i s = .next t ∧ Keeps z t := by
  refine ⟨_, rfl, ?_⟩
  repeat' first
    | with_reducible assumption
    | with_reducible apply State.dataInsn_keeps

theorem execExp2_keeps {z : Frame} {s : State} (h : Keeps z s) (g i : Nat) :
    ∃ t, execExp2 g i s = .next t ∧ Keeps z t := by
  refine ⟨_, rfl, ?_⟩
  repeat' first
    | with_reducible assumption
    | with_reducible apply State.dataInsn_keeps

theorem execSign_keeps {z : Frame} {s : State} (h : Keeps z s) (g i : Nat) :
    ∃ t, execSign g i s = .next t ∧ Keeps z t := by
  refine ⟨_, rfl, ?_⟩
  repeat' first
    | with_reducible assumption
    | with_reducible apply State.dataInsn_keeps

theorem execAbs_keeps {z : Frame} {s : State} (h : Keeps z s) (g i : Nat) :
    ∃ t, execAbs g i s = .next t ∧ Keeps z t := by
  refine ⟨_, rfl, ?_⟩
  repeat' first
    | with_reducible assumption
    | with_reducible apply State.dataInsn_keeps

theorem execRsum_keeps {z : Frame} {s : State} (h : Keeps z s) (g i : Nat) :
    ∃ t, execRsum g i s = .next t ∧ Keeps z t := by
  refine ⟨_, rfl, ?_⟩
  repeat' first
    | with_reducible assumption
    | with_reducible apply State.dataInsn_keeps

theorem execRmax_keeps {z : Frame} {s : State} (h : Keeps z s) (g i : Nat) :
    ∃ t, execRmax g i s = .next t ∧ Keeps z t := by
  refine ⟨_, rfl, ?_⟩
  repeat' first
    | with_reducible assumption
    | with_reducible apply State.dataInsn_keeps

theorem execRmin_keeps {z : Frame} {s : State} (h : Keeps z s) (g i : Nat) :
    ∃ t, execRmin g i s = .next t ∧ Keeps z t := by
  refine ⟨_, rfl, ?_⟩
  repeat' first
    | with_reducible assumption
    | with_reducible apply State.dataInsn_keeps

theorem execFenceAcq_keeps {z : Frame} {s : State} (h : Keeps z s) (g i : Nat) :
    ∃ t, execFenceAcq g i s = .next t ∧ Keeps z t := by
  refine ⟨_, rfl, ?_⟩
  repeat' first
    | with_reducible assumption
    | with_reducible apply State.fence_keeps

theorem execFenceRel_keeps {z : Frame} {s : State} (h : Keeps z s) (g i : Nat) :
    ∃ t, execFenceRel g i s = .next t ∧ Keeps z t := by
  refine ⟨_, rfl, ?_⟩
  repeat' first
    | with_reducible assumption
    | with_reducible apply State.fence_keeps

theorem execFenceFull_keeps {z : Frame} {s : State} (h : Keeps z s) (g i : Nat) :
    ∃ t, execFenceFull g i s = .next t ∧ Keeps z t := by
  refine ⟨_, rfl, ?_⟩
  repeat' first
    | with_reducible assumption
    | with_reducible apply State.fence_keeps

theorem execFlagSet_keeps {z : Frame} {s : State} (h : Keeps z s) (g i : Nat) :
    ∃ t, execFlagSet g i s = .next t ∧ Keeps z t := by
  refine ⟨_, rfl, ?_⟩
  repeat' first
    | with_reducible assumption
    | with_reducible apply State.flagSet_keeps

theorem execFlagWait_keeps {z : Frame} {s : State} (h : Keeps z s) (g i : Nat) :
    ∃ t, execFlagWait g i s = .next t ∧ Keeps z t := by
  refine ⟨_, rfl, ?_⟩
  repeat' first
    | with_reducible assumption
    | with_reducible apply State.flagWait_keeps

theorem execFlagWaitv_keeps {z : Frame} {s : State} (h : Keeps z s) (g i : Nat) :
    ∃ t, execFlagWaitv g i s = .next t ∧ Keeps z t := by
  refine ⟨_, rfl, ?_⟩
  repeat' first
    | with_reducible assumption
    | with_reducible apply State.flagWaitv_keeps

theorem execFlagWaitDone_keeps {z : Frame} {s : State} (h : Keeps z s) (g q : Nat) :
    ∃ t, execFlagWaitDone g q s = .next t ∧ Keeps z t := by
  refine ⟨_, rfl, ?_⟩
  repeat' first
    | with_reducible assumption
    | with_reducible apply State.waitDone_keeps
    | intro _
    | split

theorem execSort_keeps {z : Frame} {s : State} (h : Keeps z s) (g i : Nat) :
    ∃ t, execSort g i s = .next t ∧ Keeps z t := by
  refine ⟨_, rfl, ?_⟩
  repeat' first
    | with_reducible assumption
    | with_reducible apply State.callRun_keeps
    | with_reducible apply State.libSort_keeps
    | intro _

theorem execTopk_keeps {z : Frame} {s : State} (h : Keeps z s) (g i : Nat) :
    ∃ t, execTopk g i s = .next t ∧ Keeps z t := by
  refine ⟨_, rfl, ?_⟩
  repeat' first
    | with_reducible assumption
    | with_reducible apply State.callRun_keeps
    | with_reducible apply State.libTopk_keeps
    | intro _

theorem execSoftmax_keeps {z : Frame} {s : State} (h : Keeps z s) (g i : Nat) :
    ∃ t, execSoftmax g i s = .next t ∧ Keeps z t := by
  refine ⟨_, rfl, ?_⟩
  repeat' first
    | with_reducible assumption
    | with_reducible apply State.callRun_keeps
    | with_reducible apply State.libSoftmax_keeps
    | intro _

theorem execAttnPartial_keeps {z : Frame} {s : State} (h : Keeps z s) (g i : Nat) :
    ∃ t, execAttnPartial g i s = .next t ∧ Keeps z t := by
  refine ⟨_, rfl, ?_⟩
  repeat' first
    | with_reducible assumption
    | with_reducible apply State.callRun_keeps
    | with_reducible apply State.libAttnPartial_keeps
    | intro _

theorem execAttnMerge_keeps {z : Frame} {s : State} (h : Keeps z s) (g i : Nat) :
    ∃ t, execAttnMerge g i s = .next t ∧ Keeps z t := by
  refine ⟨_, rfl, ?_⟩
  repeat' first
    | with_reducible assumption
    | with_reducible apply State.callRun_keeps
    | with_reducible apply State.libAttnMerge_keeps
    | intro _

theorem execLibScan_keeps {z : Frame} {s : State} (h : Keeps z s) (g i : Nat) :
    ∃ t, execLibScan g i s = .next t ∧ Keeps z t := by
  refine ⟨_, rfl, ?_⟩
  repeat' first
    | with_reducible assumption
    | with_reducible apply State.callRun_keeps
    | with_reducible apply State.libScan_keeps
    | intro _

theorem execHistogram_keeps {z : Frame} {s : State} (h : Keeps z s) (g i : Nat) :
    ∃ t, execHistogram g i s = .next t ∧ Keeps z t := by
  refine ⟨_, rfl, ?_⟩
  repeat' first
    | with_reducible assumption
    | with_reducible apply State.callRun_keeps
    | with_reducible apply State.libHistogram_keeps
    | intro _

theorem execFilter_keeps {z : Frame} {s : State} (h : Keeps z s) (g i : Nat) :
    ∃ t, execFilter g i s = .next t ∧ Keeps z t := by
  refine ⟨_, rfl, ?_⟩
  repeat' first
    | with_reducible assumption
    | with_reducible apply State.callRun_keeps
    | with_reducible apply State.libFilter_keeps
    | intro _

theorem execUeNorm_keeps {z : Frame} {s : State} (h : Keeps z s) (c slot : Nat) :
    ∃ t, execUeNorm c slot s = .next t ∧ Keeps z t := by
  refine ⟨_, rfl, ?_⟩
  repeat' first
    | with_reducible assumption
    | with_reducible apply State.passStep_keeps
    | with_reducible apply State.ueNorm_keeps
    | intro _

theorem execUeApply_keeps {z : Frame} {s : State} (h : Keeps z s) (c slot : Nat) :
    ∃ t, execUeApply c slot s = .next t ∧ Keeps z t := by
  refine ⟨_, rfl, ?_⟩
  repeat' first
    | with_reducible assumption
    | with_reducible apply State.passStep_keeps
    | with_reducible apply State.ueApply_keeps
    | intro _

theorem execUeFold_keeps {z : Frame} {s : State} (h : Keeps z s) (c slot : Nat) :
    ∃ t, execUeFold c slot s = .next t ∧ Keeps z t := by
  refine ⟨_, rfl, ?_⟩
  repeat' first
    | with_reducible assumption
    | with_reducible apply State.passStep_keeps
    | with_reducible apply State.ueFold_keeps
    | intro _

theorem execUeStage_keeps {z : Frame} {s : State} (h : Keeps z s) (c slot : Nat) :
    ∃ t, execUeStage c slot s = .next t ∧ Keeps z t := by
  refine ⟨_, rfl, ?_⟩
  repeat' first
    | with_reducible assumption
    | with_reducible apply State.passStep_keeps
    | with_reducible apply State.ueStage_keeps
    | intro _

theorem execUeCommit_keeps {z : Frame} {s : State} (h : Keeps z s) (c slot : Nat) :
    ∃ t, execUeCommit c slot s = .next t ∧ Keeps z t := by
  refine ⟨_, rfl, ?_⟩
  repeat' first
    | with_reducible assumption
    | with_reducible apply State.passStep_keeps
    | with_reducible apply State.ueCommit_keeps
    | intro _

theorem execUeStepLoRead_keeps {z : Frame} {s : State} (h : Keeps z s) (c : Nat) :
    ∃ t, execUeStepLoRead c s = .next t ∧ Keeps z t := by
  refine ⟨_, rfl, ?_⟩
  repeat' first
    | with_reducible assumption
    | with_reducible apply State.readUeStep_keeps
    | with_reducible apply State.emit_keeps
    | intro _
    | split

theorem execChkGo_keeps {z : Frame} {s : State} (h : Keeps z s) (c unit : Nat) :
    ∃ t, execChkGo c unit s = .next t ∧ Keeps z t := by
  refine ⟨_, rfl, ?_⟩
  repeat' first
    | with_reducible assumption
    | with_reducible apply State.chkGo_keeps
    | intro _
    | split

theorem execChkDone_keeps {z : Frame} {s : State} (h : Keeps z s) (c : Nat) :
    ∃ t, execChkDone c s = .next t ∧ Keeps z t := by
  refine ⟨_, rfl, ?_⟩
  repeat' first
    | with_reducible assumption
    | with_reducible apply State.chkDone_keeps
    | intro _
    | split

theorem execIngressSwitch_keeps {z : Frame} {s : State} (h : Keeps z s) (link vc : Nat) :
    ∃ t, execIngressSwitch link vc s = .next t ∧ Keeps z t := by
  refine ⟨_, rfl, ?_⟩
  repeat' first
    | with_reducible assumption
    | with_reducible apply State.ingressSwitch_keeps

theorem execOvfConfigWrite_keeps {z : Frame} {s : State} (h : Keeps z s) (keep v : Nat) :
    ∃ t, execOvfConfigWrite keep v s = .next t ∧ Keeps z t := by
  refine ⟨_, rfl, ?_⟩
  repeat' first
    | with_reducible assumption
    | with_reducible apply State.ovfWrite_keeps
    | intro _
    | split

theorem execEgressAdmit_keeps {z : Frame} {s : State} (h : Keeps z s) (keep out vc : Nat) (src : QSource) :
    ∃ t, execEgressAdmit keep out vc src s = .next t ∧ Keeps z t := by
  refine ⟨_, rfl, ?_⟩
  repeat' first
    | with_reducible assumption
    | with_reducible apply State.egressAdmit_keeps

theorem execSpillWrite_keeps {z : Frame} {s : State} (h : Keeps z s) (keep out vc : Nat) :
    ∃ t, execSpillWrite keep out vc s = .next t ∧ Keeps z t := by
  refine ⟨_, rfl, ?_⟩
  repeat' first
    | with_reducible assumption
    | with_reducible apply State.spillWrite_keeps

theorem execSpillReadback_keeps {z : Frame} {s : State} (h : Keeps z s) (keep out vc : Nat) (ecc : SpillEcc) :
    ∃ t, execSpillReadback keep out vc ecc s = .next t ∧ Keeps z t := by
  refine ⟨_, rfl, ?_⟩
  repeat' first
    | with_reducible assumption
    | with_reducible apply State.spillReadback_keeps

theorem execEgressSend_keeps {z : Frame} {s : State} (h : Keeps z s) (keep out : Nat) :
    ∃ t, execEgressSend keep out s = .next t ∧ Keeps z t := by
  refine ⟨_, rfl, ?_⟩
  repeat' first
    | with_reducible assumption
    | with_reducible apply State.egressSend_keeps
    | intro _
    | split

theorem execPfcFrameReceive_keeps {z : Frame} {s : State} (h : Keeps z s) (enable : Nat) (quanta : List Nat) :
    ∃ t, execPfcFrameReceive enable quanta s = .next t ∧ Keeps z t := by
  refine ⟨_, rfl, ?_⟩
  repeat' first
    | with_reducible assumption
    | with_reducible apply State.pfcReceive_keeps

theorem execPauseExpiry_keeps {z : Frame} {s : State} (h : Keeps z s) (p : Nat) :
    ∃ t, execPauseExpiry p s = .next t ∧ Keeps z t := by
  refine ⟨_, rfl, ?_⟩
  repeat' first
    | with_reducible assumption
    | with_reducible apply State.pauseExpiry_keeps

theorem execPfcRepeat_keeps {z : Frame} {s : State} (h : Keeps z s) (p : Nat) :
    ∃ t, execPfcRepeat p s = .next t ∧ Keeps z t := by
  refine ⟨_, rfl, ?_⟩
  repeat' first
    | with_reducible assumption
    | with_reducible apply State.pfcRepeat_keeps

theorem execPfcXon_keeps {z : Frame} {s : State} (h : Keeps z s) (p : Nat) :
    ∃ t, execPfcXon p s = .next t ∧ Keeps z t := by
  refine ⟨_, rfl, ?_⟩
  repeat' first
    | with_reducible assumption
    | with_reducible apply State.sendXon_keeps
    | intro _
    | split

theorem execHostFrameReceive_keeps {z : Frame} {s : State} (h : Keeps z s) (bytes : List Byte) :
    ∃ t, execHostFrameReceive bytes s = .next t ∧ Keeps z t := by
  refine ⟨_, rfl, ?_⟩
  repeat' first
    | with_reducible assumption
    | with_reducible apply State.hostFrame_keeps

theorem execHostIngressForward_keeps {z : Frame} {s : State} (h : Keeps z s) (p : Nat) :
    ∃ t, execHostIngressForward p s = .next t ∧ Keeps z t := by
  refine ⟨_, rfl, ?_⟩
  repeat' first
    | with_reducible assumption
    | with_reducible apply State.ingressForward_keeps

theorem execEthFrameReassembled_keeps {z : Frame} {s : State} (h : Keeps z s) (vc : Nat) :
    ∃ t, execEthFrameReassembled vc s = .next t ∧ Keeps z t := by
  refine ⟨_, rfl, ?_⟩
  repeat' first
    | with_reducible assumption
    | with_reducible apply State.reassembled_keeps

theorem execHostFrameStart_keeps {z : Frame} {s : State} (h : Keeps z s) :
    ∃ t, execHostFrameStart s = .next t ∧ Keeps z t := by
  refine ⟨_, rfl, ?_⟩
  repeat' first
    | with_reducible assumption
    | with_reducible apply State.frameStart_keeps

theorem execHostLinkUp_keeps {z : Frame} {s : State} (h : Keeps z s) :
    ∃ t, execHostLinkUp s = .next t ∧ Keeps z t := by
  refine ⟨_, rfl, ?_⟩
  repeat' first
    | with_reducible assumption
    | with_reducible apply State.hostLinkUp_keeps

theorem execHostLinkDown_keeps {z : Frame} {s : State} (h : Keeps z s) :
    ∃ t, execHostLinkDown s = .next t ∧ Keeps z t := by
  refine ⟨_, rfl, ?_⟩
  repeat' first
    | with_reducible assumption
    | with_reducible apply State.hostLinkDown_keeps

theorem execTripRewrite_keeps {z : Frame} {s : State} (h : Keeps z s) (key : RegKey) :
    ∃ t, execTripRewrite key s = .next t ∧ Keeps z t := by
  refine ⟨_, rfl, ?_⟩
  repeat' first
    | with_reducible assumption
    | with_reducible apply State.tripVote_keeps

theorem execTripEnWrite_keeps {z : Frame} {s : State} (h : Keeps z s) (v : Nat) :
    ∃ t, execTripEnWrite v s = .next t ∧ Keeps z t := by
  refine ⟨_, rfl, ?_⟩
  repeat' first
    | with_reducible assumption
    | with_reducible apply State.writeTrip_keeps

theorem execScrubGo_keeps {z : Frame} {s : State} (h : Keeps z s) :
    ∃ t, execScrubGo s = .next t ∧ Keeps z t := by
  refine ⟨_, rfl, ?_⟩
  repeat' first
    | with_reducible assumption
    | with_reducible apply State.scrubGo_keeps

theorem execScrubAbort_keeps {z : Frame} {s : State} (h : Keeps z s) :
    ∃ t, execScrubAbort s = .next t ∧ Keeps z t := by
  refine ⟨_, rfl, ?_⟩
  repeat' first
    | with_reducible assumption
    | with_reducible apply State.scrubStop_keeps
    | intro _
    | split

theorem execScrubGranule_keeps {z : Frame} {s : State} (h : Keeps z s) :
    ∃ t, execScrubGranule s = .next t ∧ Keeps z t := by
  refine ⟨_, rfl, ?_⟩
  repeat' first
    | with_reducible assumption
    | with_reducible apply State.scrubGranule_keeps

theorem execSpotCheckComplete_keeps {z : Frame} {s : State} (h : Keeps z s) (c : Nat) (got : List Nat) :
    ∃ t, execSpotCheckComplete c got s = .next t ∧ Keeps z t := by
  refine ⟨_, rfl, ?_⟩
  repeat' first
    | with_reducible assumption
    | with_reducible apply State.spotDone_keeps

theorem execMarginEvaluation_keeps {z : Frame} {s : State} (h : Keeps z s) (droop canary : List Nat) (rx : List Int) :
    ∃ t, execMarginEvaluation droop canary rx s = .next t ∧ Keeps z t := by
  refine ⟨_, rfl, ?_⟩
  repeat' first
    | with_reducible assumption
    | with_reducible apply State.marginEval_keeps

theorem execLoad_keeps {z : Frame} {s : State} (h : Keeps z s) (bank : Nat) :
    ∃ t, execLoad bank s = .next t ∧ Keeps z t := by
  refine ⟨_, rfl, ?_⟩
  repeat' first
    | with_reducible assumption
    | with_reducible apply State.planLoad_keeps
    | with_reducible apply State.wr_keeps

theorem execPlanLoadDone_keeps {z : Frame} {s : State} (h : Keeps z s) :
    ∃ t, execPlanLoadDone s = .next t ∧ Keeps z t := by
  refine ⟨_, rfl, ?_⟩
  repeat' first
    | with_reducible assumption
    | with_reducible apply State.planLoaded_keeps

theorem execSwitchAtWrite_keeps {z : Frame} {s : State} (h : Keeps z s) (v : Nat) :
    ∃ t, execSwitchAtWrite v s = .next t ∧ Keeps z t := by
  refine ⟨_, rfl, ?_⟩
  repeat' first
    | with_reducible assumption
    | with_reducible apply State.armSwitch_keeps

theorem execDisarm_keeps {z : Frame} {s : State} (h : Keeps z s) (hi : Nat) :
    ∃ t, execDisarm hi s = .next t ∧ Keeps z t := by
  refine ⟨_, rfl, ?_⟩
  repeat' first
    | with_reducible assumption
    | with_reducible apply State.disarm_keeps
    | with_reducible apply State.wr_keeps

theorem execSoftRst_keeps {z : Frame} {s : State} (h : Keeps z s) (p : PageId) :
    ∃ t, execSoftRst p s = .next t ∧ Keeps z t := by
  refine ⟨_, rfl, ?_⟩
  repeat' first
    | with_reducible assumption
    | with_reducible apply State.armReset_keeps

theorem execDigestReceive_keeps {z : Frame} {s : State} (h : Keeps z s) (d cut digest : Nat) :
    ∃ t, execDigestReceive d cut digest s = .next t ∧ Keeps z t := by
  refine ⟨_, rfl, ?_⟩
  repeat' first
    | with_reducible assumption
    | with_reducible apply State.digestIn_keeps
    | intro _
    | split

theorem execAutoResume_keeps {z : Frame} {s : State} (h : Keeps z s) :
    ∃ t, execAutoResume s = .next t ∧ Keeps z t := by
  refine ⟨_, rfl, ?_⟩
  repeat' first
    | with_reducible assumption
    | with_reducible apply State.autoResume_keeps

theorem execRoundDecision_keeps {z : Frame} {s : State} (h : Keeps z s) :
    ∃ t, execRoundDecision s = .next t ∧ Keeps z t := by
  refine ⟨_, rfl, ?_⟩
  repeat' first
    | with_reducible assumption
    | with_reducible apply State.decide_keeps

theorem execWatchReport_keeps {z : Frame} {s : State} (h : Keeps z s) (d : Nat) (m : WatchMsg) :
    ∃ t, execWatchReport d m s = .next t ∧ Keeps z t := by
  refine ⟨_, rfl, ?_⟩
  repeat' first
    | with_reducible assumption
    | with_reducible apply State.watchReport_keeps

theorem execNeighbourSilent_keeps {z : Frame} {s : State} (h : Keeps z s) (d : Nat) :
    ∃ t, execNeighbourSilent d s = .next t ∧ Keeps z t := by
  refine ⟨_, rfl, ?_⟩
  repeat' first
    | with_reducible assumption
    | with_reducible apply State.neighbourSilent_keeps
    | intro _
    | split

theorem execFlightStepLoRead_keeps {z : Frame} {s : State} (h : Keeps z s) :
    ∃ t, execFlightStepLoRead s = .next t ∧ Keeps z t := by
  refine ⟨_, rfl, ?_⟩
  repeat' first
    | with_reducible assumption
    | with_reducible apply State.readFlight_keeps
    | with_reducible apply State.emit_keeps

theorem execDeclStepLoRead_keeps {z : Frame} {s : State} (h : Keeps z s) :
    ∃ t, execDeclStepLoRead s = .next t ∧ Keeps z t := by
  refine ⟨_, rfl, ?_⟩
  repeat' first
    | with_reducible assumption
    | with_reducible apply State.readDecl_keeps
    | with_reducible apply State.emit_keeps

theorem execCmdResume_keeps {z : Frame} {s : State} (h : Keeps z s) :
    ∃ t, execCmdResume s = .next t ∧ Keeps z t := by
  refine ⟨_, rfl, ?_⟩
  repeat' first
    | with_reducible assumption
    | with_reducible apply State.writeCmd_keeps

theorem execCmdAbort_keeps {z : Frame} {s : State} (h : Keeps z s) :
    ∃ t, execCmdAbort s = .next t ∧ Keeps z t := by
  refine ⟨_, rfl, ?_⟩
  repeat' first
    | with_reducible assumption
    | with_reducible apply State.writeCmd_keeps

theorem execCmdFabricReset_keeps {z : Frame} {s : State} (h : Keeps z s) :
    ∃ t, execCmdFabricReset s = .next t ∧ Keeps z t := by
  refine ⟨_, rfl, ?_⟩
  repeat' first
    | with_reducible assumption
    | with_reducible apply State.writeCmd_keeps

theorem execCommandReceive_keeps {z : Frame} {s : State} (h : Keeps z s) (d : Nat) (m : WatchMsg) :
    ∃ t, execCommandReceive d m s = .next t ∧ Keeps z t := by
  refine ⟨_, rfl, ?_⟩
  repeat' first
    | with_reducible assumption
    | with_reducible apply State.command_keeps
    | intro _
    | split

theorem execCommandTakeEffect_keeps {z : Frame} {s : State} (h : Keeps z s) :
    ∃ t, execCommandTakeEffect s = .next t ∧ Keeps z t := by
  refine ⟨_, rfl, ?_⟩
  repeat' first
    | with_reducible assumption
    | with_reducible apply State.takeCommands_keeps

theorem execDrainDeadline_keeps {z : Frame} {s : State} (h : Keeps z s) :
    ∃ t, execDrainDeadline s = .next t ∧ Keeps z t := by
  refine ⟨_, rfl, ?_⟩
  repeat' first
    | with_reducible assumption
    | with_reducible apply State.drain_keeps

theorem execRbGo_keeps {z : Frame} {s : State} (h : Keeps z s) (v : Nat) :
    ∃ t, execRbGo v s = .next t ∧ Keeps z t := by
  refine ⟨_, rfl, ?_⟩
  repeat' first
    | with_reducible assumption
    | with_reducible apply State.rbGo_keeps

theorem execRestoreCopyDone_keeps {z : Frame} {s : State} (h : Keeps z s) (ok : Bool) :
    ∃ t, execRestoreCopyDone ok s = .next t ∧ Keeps z t := by
  refine ⟨_, rfl, ?_⟩
  repeat' first
    | with_reducible assumption
    | with_reducible apply State.copyDone_keeps

theorem execRestoreCheckDone_keeps {z : Frame} {s : State} (h : Keeps z s) (srcSum srcNorm : Nat) :
    ∃ t, execRestoreCheckDone srcSum srcNorm s = .next t ∧ Keeps z t := by
  refine ⟨_, rfl, ?_⟩
  repeat' first
    | with_reducible assumption
    | with_reducible apply State.checkDone_keeps

theorem execSwitchTick_keeps {z : Frame} {s : State} (h : Keeps z s) :
    ∃ t, execSwitchTick s = .next t ∧ Keeps z t := by
  refine ⟨_, rfl, ?_⟩
  repeat' first
    | with_reducible assumption
    | with_reducible apply State.switchTick_keeps

theorem execWatchPartnerWrite_keeps {z : Frame} {s : State} (h : Keeps z s) (v : Nat) :
    ∃ t, execWatchPartnerWrite v s = .next t ∧ Keeps z t := by
  refine ⟨_, rfl, ?_⟩
  repeat' first
    | with_reducible assumption
    | with_reducible apply State.writePartner_keeps

theorem execPairCheck_keeps {z : Frame} {s : State} (h : Keeps z s) (answer : Option Nat) :
    ∃ t, execPairCheck answer s = .next t ∧ Keeps z t := by
  refine ⟨_, rfl, ?_⟩
  repeat' first
    | with_reducible assumption
    | with_reducible apply State.answer_keeps
    | with_reducible apply State.pairAnswer_keeps

theorem execFstCommit_keeps {z : Frame} {s : State} (h : Keeps z s) :
    ∃ t, execFstCommit s = .next t ∧ Keeps z t := by
  refine ⟨_, rfl, ?_⟩
  repeat' first
    | with_reducible assumption
    | with_reducible apply State.commitEntry_keeps

theorem execJoin_keeps {z : Frame} {s : State} (h : Keeps z s) (v : Nat) :
    ∃ t, execJoin v s = .next t ∧ Keeps z t := by
  refine ⟨_, rfl, ?_⟩
  repeat' first
    | with_reducible assumption
    | with_reducible apply State.join_keeps

theorem execJoinAdopt_keeps {z : Frame} {s : State} (h : Keeps z s) (hj : ∀ n, z.ok (n % tickMod)) (d : Nat) (m : Marker) :
    ∃ t, execJoinAdopt d m s = .next t ∧ Keeps z t := by
  refine ⟨_, rfl, ?_⟩
  repeat' first
    | with_reducible assumption
    | with_reducible apply State.joinAdopt_keeps
    | intro _
    | split

theorem execEnroll_keeps {z : Frame} {s : State} (h : Keeps z s) :
    ∃ t, execEnroll s = .next t ∧ Keeps z t := by
  refine ⟨_, rfl, ?_⟩
  repeat' first
    | with_reducible assumption
    | with_reducible apply State.enroll_keeps

theorem execRevoke_keeps {z : Frame} {s : State} (h : Keeps z s) :
    ∃ t, execRevoke s = .next t ∧ Keeps z t := by
  refine ⟨_, rfl, ?_⟩
  repeat' first
    | with_reducible assumption
    | with_reducible apply State.revoke_keeps

theorem execKeySave_keeps {z : Frame} {s : State} (h : Keeps z s) :
    ∃ t, execKeySave s = .next t ∧ Keeps z t := by
  refine ⟨_, rfl, ?_⟩
  repeat' first
    | with_reducible assumption
    | with_reducible apply State.keySave_keeps

theorem execUpdGo_keeps {z : Frame} {s : State} (h : Keeps z s) (key : Nat) :
    ∃ t, execUpdGo key s = .next t ∧ Keeps z t := by
  refine ⟨_, rfl, ?_⟩
  repeat' first
    | with_reducible assumption
    | with_reducible apply State.updGo_keeps

theorem execUpdateComplete_keeps {z : Frame} {s : State} (h : Keeps z s) :
    ∃ t, execUpdateComplete s = .next t ∧ Keeps z t := by
  refine ⟨_, rfl, ?_⟩
  repeat' first
    | with_reducible assumption
    | with_reducible apply State.updateComplete_keeps

theorem execFwCommit_keeps {z : Frame} {s : State} (h : Keeps z s) (key : Nat) :
    ∃ t, execFwCommit key s = .next t ∧ Keeps z t := by
  refine ⟨_, rfl, ?_⟩
  repeat' first
    | with_reducible assumption
    | with_reducible apply State.fwCommit_keeps

theorem execFkeyRevoke_keeps {z : Frame} {s : State} (h : Keeps z s) (mask key : Nat) :
    ∃ t, execFkeyRevoke mask key s = .next t ∧ Keeps z t := by
  refine ⟨_, rfl, ?_⟩
  repeat' first
    | with_reducible assumption
    | with_reducible apply State.fkeyRevoke_keeps

theorem execTestReq_keeps {z : Frame} {s : State} (h : Keeps z s) :
    ∃ t, execTestReq s = .next t ∧ Keeps z t := by
  refine ⟨_, rfl, ?_⟩
  repeat' first
    | with_reducible assumption
    | with_reducible apply State.testReq_keeps

theorem execDbgReq_keeps {z : Frame} {s : State} (h : Keeps z s) :
    ∃ t, execDbgReq s = .next t ∧ Keeps z t := by
  refine ⟨_, rfl, ?_⟩
  repeat' first
    | with_reducible assumption
    | with_reducible apply State.dbgReq_keeps

theorem execAttGo_keeps {z : Frame} {s : State} (h : Keeps z s) :
    ∃ t, execAttGo s = .next t ∧ Keeps z t := by
  refine ⟨_, rfl, ?_⟩
  repeat' first
    | with_reducible assumption
    | with_reducible apply State.attGo_keeps

theorem execAttReportReady_keeps {z : Frame} {s : State} (h : Keeps z s) :
    ∃ t, execAttReportReady s = .next t ∧ Keeps z t := by
  refine ⟨_, rfl, ?_⟩
  repeat' first
    | with_reducible assumption
    | with_reducible apply State.attReady_keeps

theorem execAttDataRead_keeps {z : Frame} {s : State} (h : Keeps z s) :
    ∃ t, execAttDataRead s = .next t ∧ Keeps z t := by
  refine ⟨_, rfl, ?_⟩
  repeat' first
    | with_reducible assumption
    | with_reducible apply State.readAtt_keeps
    | with_reducible apply State.emit_keeps

theorem execVaneReading_keeps {z : Frame} {s : State} (h : Keeps z s) (mainMj backupMj pMain pBackup : Nat) (fault : Bool) :
    ∃ t, execVaneReading mainMj backupMj pMain pBackup fault s = .next t ∧ Keeps z t := by
  refine ⟨_, rfl, ?_⟩
  repeat' first
    | with_reducible assumption
    | with_reducible apply State.vaneReading_keeps

theorem execVaneCommit_keeps {z : Frame} {s : State} (h : Keeps z s) :
    ∃ t, execVaneCommit s = .next t ∧ Keeps z t := by
  refine ⟨_, rfl, ?_⟩
  repeat' first
    | with_reducible assumption
    | with_reducible apply State.vaneCommit_keeps

theorem execTamperBreak_keeps {z : Frame} {s : State} (h : Keeps z s) :
    ∃ t, execTamperBreak s = .next t ∧ Keeps z t := by
  refine ⟨_, rfl, ?_⟩
  repeat' first
    | with_reducible assumption
    | with_reducible apply State.tamperBreak_keeps

theorem execVaneMirror_keeps {z : Frame} {s : State} (h : Keeps z s) (bytes : List Byte) :
    ∃ t, execVaneMirror bytes s = .next t ∧ Keeps z t := by
  refine ⟨_, rfl, ?_⟩
  repeat' first
    | with_reducible assumption
    | with_reducible apply State.vaneMirror_keeps

theorem execVaneStale_keeps {z : Frame} {s : State} (h : Keeps z s) :
    ∃ t, execVaneStale s = .next t ∧ Keeps z t := by
  refine ⟨_, rfl, ?_⟩
  repeat' first
    | with_reducible assumption
    | with_reducible apply State.vaneStale_keeps

theorem execVmSeqLoRead_keeps {z : Frame} {s : State} (h : Keeps z s) :
    ∃ t, execVmSeqLoRead s = .next t ∧ Keeps z t := by
  refine ⟨_, rfl, ?_⟩
  repeat' first
    | with_reducible assumption
    | with_reducible apply State.readVmSeq_keeps
    | with_reducible apply State.emit_keeps

theorem execVmSigDataRead_keeps {z : Frame} {s : State} (h : Keeps z s) :
    ∃ t, execVmSigDataRead s = .next t ∧ Keeps z t := by
  refine ⟨_, rfl, ?_⟩
  repeat' first
    | with_reducible assumption
    | with_reducible apply State.readVmSig_keeps
    | with_reducible apply State.emit_keeps

theorem execFeedBad_keeps {z : Frame} {s : State} (h : Keeps z s) (feed : Nat) :
    ∃ t, execFeedBad feed s = .next t ∧ Keeps z t := by
  refine ⟨_, rfl, ?_⟩
  repeat' first
    | with_reducible assumption
    | with_reducible apply State.feedBad_keeps
    | intro _
    | split

theorem execFeedSenseOpen_keeps {z : Frame} {s : State} (h : Keeps z s) (feed : Nat) :
    ∃ t, execFeedSenseOpen feed s = .next t ∧ Keeps z t := by
  refine ⟨_, rfl, ?_⟩
  repeat' first
    | with_reducible assumption
    | with_reducible apply State.feedBad_keeps
    | intro _
    | split

theorem execFeedGood_keeps {z : Frame} {s : State} (h : Keeps z s) (feed : Nat) :
    ∃ t, execFeedGood feed s = .next t ∧ Keeps z t := by
  refine ⟨_, rfl, ?_⟩
  repeat' first
    | with_reducible assumption
    | with_reducible apply State.feedGood_keeps
    | intro _
    | split

theorem execFeedReturn_keeps {z : Frame} {s : State} (h : Keeps z s) :
    ∃ t, execFeedReturn s = .next t ∧ Keeps z t := by
  refine ⟨_, rfl, ?_⟩
  repeat' first
    | with_reducible assumption
    | with_reducible apply State.feedReturn_keeps

theorem execHoldupExpiry_keeps {z : Frame} {s : State} (h : Keeps z s) (h0 : z.ok 0)  :
    ∃ t, execHoldupExpiry s = .next t ∧ Keeps z t := by
  refine ⟨_, rfl, ?_⟩
  repeat' first
    | with_reducible assumption
    | with_reducible apply State.holdupExpiry_keeps

theorem execCoolantConfirm_keeps {z : Frame} {s : State} (h : Keeps z s) :
    ∃ t, execCoolantConfirm s = .next t ∧ Keeps z t := by
  refine ⟨_, rfl, ?_⟩
  repeat' first
    | with_reducible assumption
    | with_reducible apply State.coolantConfirm_keeps

theorem execCoolOkChange_keeps {z : Frame} {s : State} (h : Keeps z s) (flow inlet : Nat) :
    ∃ t, execCoolOkChange flow inlet s = .next t ∧ Keeps z t := by
  refine ⟨_, rfl, ?_⟩
  repeat' first
    | with_reducible assumption
    | with_reducible apply State.coolChange_keeps

theorem execTripPeakPower_keeps {z : Frame} {s : State} (h : Keeps z s) (h0 : z.ok 0)  :
    ∃ t, execTripPeakPower s = .next t ∧ Keeps z t := by
  refine ⟨_, rfl, ?_⟩
  repeat' first
    | with_reducible assumption
    | with_reducible apply State.tripNow_keeps

theorem execTripSustainedPower_keeps {z : Frame} {s : State} (h : Keeps z s) (h0 : z.ok 0)  :
    ∃ t, execTripSustainedPower s = .next t ∧ Keeps z t := by
  refine ⟨_, rfl, ?_⟩
  repeat' first
    | with_reducible assumption
    | with_reducible apply State.tripNow_keeps

theorem execTripTemperature_keeps {z : Frame} {s : State} (h : Keeps z s) (h0 : z.ok 0) (sensor t0 t1 : Nat) :
    ∃ t, execTripTemperature sensor t0 t1 s = .next t ∧ Keeps z t := by
  refine ⟨_, rfl, ?_⟩
  repeat' first
    | with_reducible assumption
    | with_reducible apply State.tripNow_keeps
    | intro _
    | split

theorem execTripFlow_keeps {z : Frame} {s : State} (h : Keeps z s) (h0 : z.ok 0) (flow : Nat) :
    ∃ t, execTripFlow flow s = .next t ∧ Keeps z t := by
  refine ⟨_, rfl, ?_⟩
  repeat' first
    | with_reducible assumption
    | with_reducible apply State.tripNow_keeps
    | intro _
    | split

theorem execTripInlet_keeps {z : Frame} {s : State} (h : Keeps z s) (h0 : z.ok 0) (inlet : Nat) :
    ∃ t, execTripInlet inlet s = .next t ∧ Keeps z t := by
  refine ⟨_, rfl, ?_⟩
  repeat' first
    | with_reducible assumption
    | with_reducible apply State.tripNow_keeps
    | intro _
    | split

theorem execResetNAssert_keeps {z : Frame} {s : State} (h : Keeps z s) (h0 : z.ok 0)  :
    ∃ t, execResetNAssert s = .next t ∧ Keeps z t := by
  refine ⟨_, rfl, ?_⟩
  repeat' first
    | with_reducible assumption
    | with_reducible apply State.resetAssert_keeps

theorem execResetNRelease_keeps {z : Frame} {s : State} (h : Keeps z s) (progEnN : Bool) :
    ∃ t, execResetNRelease progEnN s = .next t ∧ Keeps z t := by
  refine ⟨_, rfl, ?_⟩
  repeat' first
    | with_reducible assumption
    | with_reducible apply State.resetRelease_keeps

theorem execEnterP3_keeps {z : Frame} {s : State} (h : Keeps z s) (h0 : z.ok 0) (key : Nat) :
    ∃ t, execEnterP3 key s = .next t ∧ Keeps z t := by
  refine ⟨_, rfl, ?_⟩
  repeat' first
    | with_reducible assumption
    | with_reducible apply State.modReq_keeps

theorem execLeaveP3_keeps {z : Frame} {s : State} (h : Keeps z s) (h0 : z.ok 0) (key : Nat) :
    ∃ t, execLeaveP3 key s = .next t ∧ Keeps z t := by
  refine ⟨_, rfl, ?_⟩
  repeat' first
    | with_reducible assumption
    | with_reducible apply State.modReq_keeps

theorem execEnterP4_keeps {z : Frame} {s : State} (h : Keeps z s) (h0 : z.ok 0) (key : Nat) :
    ∃ t, execEnterP4 key s = .next t ∧ Keeps z t := by
  refine ⟨_, rfl, ?_⟩
  repeat' first
    | with_reducible assumption
    | with_reducible apply State.modReq_keeps

theorem execModuleReset_keeps {z : Frame} {s : State} (h : Keeps z s) (h0 : z.ok 0) (key : Nat) :
    ∃ t, execModuleReset key s = .next t ∧ Keeps z t := by
  refine ⟨_, rfl, ?_⟩
  repeat' first
    | with_reducible assumption
    | with_reducible apply State.modReq_keeps

theorem execP3EntryComplete_keeps {z : Frame} {s : State} (h : Keeps z s) (h0 : z.ok 0)  :
    ∃ t, execP3EntryComplete s = .next t ∧ Keeps z t := by
  refine ⟨_, rfl, ?_⟩
  repeat' first
    | with_reducible assumption
    | with_reducible apply State.p3Entered_keeps

theorem execP3ExitComplete_keeps {z : Frame} {s : State} (h : Keeps z s) (h0 : z.ok 0)  :
    ∃ t, execP3ExitComplete s = .next t ∧ Keeps z t := by
  refine ⟨_, rfl, ?_⟩
  repeat' first
    | with_reducible assumption
    | with_reducible apply State.p3Exited_keeps

theorem execWakeN_keeps {z : Frame} {s : State} (h : Keeps z s) (h0 : z.ok 0)  :
    ∃ t, execWakeN s = .next t ∧ Keeps z t := by
  refine ⟨_, rfl, ?_⟩
  repeat' first
    | with_reducible assumption
    | with_reducible apply State.wake_keeps

theorem execShdnN_keeps {z : Frame} {s : State} (h : Keeps z s) (h0 : z.ok 0) (low : Bool) :
    ∃ t, execShdnN low s = .next t ∧ Keeps z t := by
  refine ⟨_, rfl, ?_⟩
  repeat' first
    | with_reducible assumption
    | with_reducible apply State.shdn_keeps

theorem execPowerRestored_keeps {z : Frame} {s : State} (h : Keeps z s) (h0 : z.ok 0)  :
    ∃ t, execPowerRestored s = .next t ∧ Keeps z t := by
  refine ⟨_, rfl, ?_⟩
  repeat' first
    | with_reducible assumption
    | with_reducible apply State.restored_keeps

theorem execCalSave_keeps {z : Frame} {s : State} (h : Keeps z s) :
    ∃ t, execCalSave s = .next t ∧ Keeps z t := by
  refine ⟨_, rfl, ?_⟩
  repeat' first
    | with_reducible assumption
    | with_reducible apply State.calSave_keeps

theorem execCalSaveComplete_keeps {z : Frame} {s : State} (h : Keeps z s) :
    ∃ t, execCalSaveComplete s = .next t ∧ Keeps z t := by
  refine ⟨_, rfl, ?_⟩
  repeat' first
    | with_reducible assumption
    | with_reducible apply State.calSaved_keeps

theorem execBpSave_keeps {z : Frame} {s : State} (h : Keeps z s) :
    ∃ t, execBpSave s = .next t ∧ Keeps z t := by
  refine ⟨_, rfl, ?_⟩
  repeat' first
    | with_reducible assumption
    | with_reducible apply State.bpSave_keeps

theorem execBpSaveComplete_keeps {z : Frame} {s : State} (h : Keeps z s) :
    ∃ t, execBpSaveComplete s = .next t ∧ Keeps z t := by
  refine ⟨_, rfl, ?_⟩
  repeat' first
    | with_reducible assumption
    | with_reducible apply State.bpSaved_keeps

theorem execBpLoad_keeps {z : Frame} {s : State} (h : Keeps z s) :
    ∃ t, execBpLoad s = .next t ∧ Keeps z t := by
  refine ⟨_, rfl, ?_⟩
  repeat' first
    | with_reducible assumption
    | with_reducible apply State.bpLoad_keeps
    | intro _
    | split

theorem execBootPhaseComplete_keeps {z : Frame} {s : State} (h : Keeps z s) (r : BootResult) :
    ∃ t, execBootPhaseComplete r s = .next t ∧ Keeps z t := by
  refine ⟨_, rfl, ?_⟩
  repeat' first
    | with_reducible assumption
    | with_reducible apply State.bootComplete_keeps

theorem execBootPhaseTimeout_keeps {z : Frame} {s : State} (h : Keeps z s) (code : Nat) :
    ∃ t, execBootPhaseTimeout code s = .next t ∧ Keeps z t := by
  refine ⟨_, rfl, ?_⟩
  repeat' first
    | with_reducible assumption
    | with_reducible apply State.bootTimeout_keeps

theorem execRegisterWrite_keeps {z : Frame} {s : State} (h : Keeps z s) (h0 : z.ok 0) (addr v : Nat) :
    ∃ t, execRegisterWrite addr v s = .next t ∧ Keeps z t := by
  refine ⟨_, rfl, ?_⟩
  repeat' first
    | with_reducible assumption
    | with_reducible apply State.regAccess_keeps
    | intro _
    | split

theorem execPgErrWrite_keeps {z : Frame} {s : State} (h : Keeps z s) (p : PageId) (v : Nat) :
    ∃ t, execPgErrWrite p v s = .next t ∧ Keeps z t := by
  refine ⟨_, rfl, ?_⟩
  repeat' first
    | with_reducible assumption
    | with_reducible apply State.errW1c_keeps
    | intro _
    | split

theorem execFreeze_keeps {z : Frame} {s : State} (h : Keeps z s) (p : PageId) (on : Bool) :
    ∃ t, execFreeze p on s = .next t ∧ Keeps z t := by
  refine ⟨_, rfl, ?_⟩
  repeat' first
    | with_reducible assumption
    | with_reducible apply State.setFreeze_keeps
    | intro _
    | split

theorem execLock_keeps {z : Frame} {s : State} (h : Keeps z s) (p : PageId) :
    ∃ t, execLock p s = .next t ∧ Keeps z t := by
  refine ⟨_, rfl, ?_⟩
  repeat' first
    | with_reducible assumption
    | with_reducible apply State.setLock_keeps
    | intro _
    | split

theorem execEvtEnWrite_keeps {z : Frame} {s : State} (h : Keeps z s) (v : Nat) :
    ∃ t, execEvtEnWrite v s = .next t ∧ Keeps z t := by
  refine ⟨_, rfl, ?_⟩
  repeat' first
    | with_reducible assumption
    | with_reducible apply State.evtEn_keeps

theorem execMemRd_keeps {z : Frame} {s : State} (h : Keeps z s) (h0 : z.ok 0) (f : Flit) :
    ∃ t, execMemRd f s = .next t ∧ Keeps z t := by
  refine ⟨_, rfl, ?_⟩
  repeat' first
    | with_reducible assumption
    | with_reducible apply State.memRow_keeps

theorem execMemWr_keeps {z : Frame} {s : State} (h : Keeps z s) (h0 : z.ok 0) (f : Flit) :
    ∃ t, execMemWr f s = .next t ∧ Keeps z t := by
  refine ⟨_, rfl, ?_⟩
  repeat' first
    | with_reducible assumption
    | with_reducible apply State.memRow_keeps

theorem execAtomAdd_keeps {z : Frame} {s : State} (h : Keeps z s) (h0 : z.ok 0) (f : Flit) :
    ∃ t, execAtomAdd f s = .next t ∧ Keeps z t := by
  refine ⟨_, rfl, ?_⟩
  repeat' first
    | with_reducible assumption
    | with_reducible apply State.memRow_keeps

theorem execAtomAddFetch_keeps {z : Frame} {s : State} (h : Keeps z s) (h0 : z.ok 0) (f : Flit) :
    ∃ t, execAtomAddFetch f s = .next t ∧ Keeps z t := by
  refine ⟨_, rfl, ?_⟩
  repeat' first
    | with_reducible assumption
    | with_reducible apply State.memRow_keeps

theorem execBulkRd_keeps {z : Frame} {s : State} (h : Keeps z s) (h0 : z.ok 0) (f : Flit) :
    ∃ t, execBulkRd f s = .next t ∧ Keeps z t := by
  refine ⟨_, rfl, ?_⟩
  repeat' first
    | with_reducible assumption
    | with_reducible apply State.memRow_keeps

theorem execBulkWr_keeps {z : Frame} {s : State} (h : Keeps z s) (h0 : z.ok 0) (f : Flit) :
    ∃ t, execBulkWr f s = .next t ∧ Keeps z t := by
  refine ⟨_, rfl, ?_⟩
  repeat' first
    | with_reducible assumption
    | with_reducible apply State.memRow_keeps

theorem execTileStoreAccess_keeps {z : Frame} {s : State} (h : Keeps z s) (h0 : z.ok 0) (g : Nat) :
    ∃ t, execTileStoreAccess g s = .next t ∧ Keeps z t := by
  refine ⟨_, rfl, ?_⟩
  repeat' first
    | with_reducible assumption
    | with_reducible apply State.performWaiting_keeps

theorem execHbmWakeWait_keeps {z : Frame} {s : State} (h : Keeps z s) (h0 : z.ok 0) (st : Nat) :
    ∃ t, execHbmWakeWait st s = .next t ∧ Keeps z t := by
  refine ⟨_, rfl, ?_⟩
  repeat' first
    | with_reducible assumption
    | with_reducible apply State.performWaiting_keeps

theorem execDomainWake_keeps {z : Frame} {s : State} (h : Keeps z s) (h0 : z.ok 0) (dom : Nat) :
    ∃ t, execDomainWake dom s = .next t ∧ Keeps z t := by
  refine ⟨_, rfl, ?_⟩
  repeat' first
    | with_reducible assumption
    | with_reducible apply State.domainWake_keeps
    | intro _
    | split

theorem execArpRequest_keeps {z : Frame} {s : State} (h : Keeps z s) (frame : List Byte) :
    ∃ t, execArpRequest frame s = .next t ∧ Keeps z t := by
  refine ⟨_, rfl, ?_⟩
  repeat' first
    | with_reducible assumption
    | with_reducible apply State.arpReply_keeps
    | with_reducible apply State.takeFrame_keeps
    | intro _
    | split

theorem execNeighborSolicitation_keeps {z : Frame} {s : State} (h : Keeps z s) (frame : List Byte) :
    ∃ t, execNeighborSolicitation frame s = .next t ∧ Keeps z t := by
  refine ⟨_, rfl, ?_⟩
  repeat' first
    | with_reducible assumption
    | with_reducible apply State.neighborReply_keeps
    | with_reducible apply State.takeFrame_keeps
    | intro _
    | split

theorem execOpenSession_keeps {z : Frame} {s : State} (h : Keeps z s) (sess : Nat) :
    ∃ t, execOpenSession sess s = .next t ∧ Keeps z t := by
  refine ⟨_, rfl, ?_⟩
  repeat' first
    | with_reducible assumption
    | with_reducible apply State.openNext_keeps

theorem execSessionTimeout_keeps {z : Frame} {s : State} (h : Keeps z s) (sess : Nat) :
    ∃ t, execSessionTimeout sess s = .next t ∧ Keeps z t := by
  refine ⟨_, rfl, ?_⟩
  repeat' first
    | with_reducible assumption
    | with_reducible apply State.sessionTimeout_keeps

theorem execHoldTimeout_keeps {z : Frame} {s : State} (h : Keeps z s) (sess seq : Nat) :
    ∃ t, execHoldTimeout sess seq s = .next t ∧ Keeps z t := by
  refine ⟨_, rfl, ?_⟩
  repeat' first
    | with_reducible assumption
    | with_reducible apply State.holdTimeout_keeps

theorem execCloseSession_keeps {z : Frame} {s : State} (h : Keeps z s) (sess : Nat) :
    ∃ t, execCloseSession sess s = .next t ∧ Keeps z t := by
  refine ⟨_, rfl, ?_⟩
  repeat' first
    | with_reducible assumption
    | with_reducible apply State.sessionRow_keeps
    | with_reducible apply State.execDone_keeps
    | intro _

theorem execRegRd_keeps {z : Frame} {s : State} (h : Keeps z s) (h0 : z.ok 0) (sess : Nat) :
    ∃ t, execRegRd sess s = .next t ∧ Keeps z t := by
  refine ⟨_, rfl, ?_⟩
  repeat' first
    | with_reducible assumption
    | with_reducible apply State.sessionRow_keeps
    | with_reducible apply State.runItems_keeps
    | intro _

theorem execRegWr_keeps {z : Frame} {s : State} (h : Keeps z s) (h0 : z.ok 0) (sess : Nat) :
    ∃ t, execRegWr sess s = .next t ∧ Keeps z t := by
  refine ⟨_, rfl, ?_⟩
  repeat' first
    | with_reducible assumption
    | with_reducible apply State.sessionRow_keeps
    | with_reducible apply State.runItems_keeps
    | intro _

theorem execMoraecaBulkRd_keeps {z : Frame} {s : State} (h : Keeps z s) (h0 : z.ok 0) (sess : Nat) :
    ∃ t, execMoraecaBulkRd sess s = .next t ∧ Keeps z t := by
  refine ⟨_, rfl, ?_⟩
  repeat' first
    | with_reducible assumption
    | with_reducible apply State.sessionRow_keeps
    | with_reducible apply State.runPieces_keeps
    | intro _

theorem execMoraecaBulkWr_keeps {z : Frame} {s : State} (h : Keeps z s) (h0 : z.ok 0) (sess : Nat) :
    ∃ t, execMoraecaBulkWr sess s = .next t ∧ Keeps z t := by
  refine ⟨_, rfl, ?_⟩
  repeat' first
    | with_reducible assumption
    | with_reducible apply State.sessionRow_keeps
    | with_reducible apply State.runPieces_keeps
    | intro _

theorem execStreamOpen_keeps {z : Frame} {s : State} (h : Keeps z s) (sess : Nat) :
    ∃ t, execStreamOpen sess s = .next t ∧ Keeps z t := by
  refine ⟨_, rfl, ?_⟩
  repeat' first
    | with_reducible assumption
    | with_reducible apply State.streamOpen_keeps
    | with_reducible apply State.sessionRow_keeps
    | intro _

theorem execStreamData_keeps {z : Frame} {s : State} (h : Keeps z s) (i : Nat) (src : NetSrc) (bytes : List Byte) :
    ∃ t, execStreamData i src bytes s = .next t ∧ Keeps z t := by
  refine ⟨_, rfl, ?_⟩
  repeat' first
    | with_reducible assumption
    | with_reducible apply State.streamData_keeps

theorem execStreamAck_keeps {z : Frame} {s : State} (h : Keeps z s) (i : Nat) (ack : AckFrom) :
    ∃ t, execStreamAck i ack s = .next t ∧ Keeps z t := by
  refine ⟨_, rfl, ?_⟩
  repeat' first
    | with_reducible assumption
    | with_reducible apply State.streamAck_keeps

theorem execStreamRto_keeps {z : Frame} {s : State} (h : Keeps z s) (i : Nat) :
    ∃ t, execStreamRto i s = .next t ∧ Keeps z t := by
  refine ⟨_, rfl, ?_⟩
  repeat' first
    | with_reducible assumption
    | with_reducible apply State.streamRto_keeps

theorem execStreamReadReply_keeps {z : Frame} {s : State} (h : Keeps z s) (i : Nat) (f : Flit) : ∃ t,
    execStreamReadReply i f s = .next t ∧ Keeps z t := by
  refine ⟨_, rfl, ?_⟩
  repeat' first
    | with_reducible assumption
    | with_reducible apply State.streamReply_keeps
    | with_reducible apply State.served_keeps
    | with_reducible apply State.headerDiscard_keeps
    | intro _
    | split
    | dsimp only

theorem execEventAck_keeps {z : Frame} {s : State} (h : Keeps z s) (src : NetSrc) (seq : Nat) :
    ∃ t, execEventAck src seq s = .next t ∧ Keeps z t := by
  refine ⟨_, rfl, ?_⟩
  repeat' first
    | with_reducible assumption
    | with_reducible apply State.eventAck_keeps

theorem execEvtRto_keeps {z : Frame} {s : State} (h : Keeps z s) :
    ∃ t, execEvtRto s = .next t ∧ Keeps z t := by
  refine ⟨_, rfl, ?_⟩
  repeat' first
    | with_reducible assumption
    | with_reducible apply State.evtRto_keeps

theorem execMoraecaReceive_keeps {z : Frame} {s : State} (h : Keeps z s) (src : NetSrc) (bytes : List Byte) :
    ∃ t, execMoraecaReceive src bytes s = .next t ∧ Keeps z t := by
  refine ⟨_, rfl, ?_⟩
  repeat' first
    | with_reducible assumption
    | with_reducible apply State.datagram_keeps

theorem execCwNop_keeps {z : Frame} {s : State} (h : Keeps z s) (w : Nat) :
    ∃ t, execCwNop w s = .next t ∧ Keeps z t := by
  refine ⟨_, rfl, ?_⟩
  repeat' first
    | with_reducible assumption
    | with_reducible apply State.cwStart_keeps
    | intro _

theorem execCwRegWr_keeps {z : Frame} {s : State} (h : Keeps z s) (h0 : z.ok 0) (w : Nat) :
    ∃ t, execCwRegWr w s = .next t ∧ Keeps z t := by
  refine ⟨_, rfl, ?_⟩
  repeat' first
    | with_reducible assumption
    | with_reducible apply State.cwStart_keeps
    | with_reducible apply State.cwRegWr_keeps
    | intro _

theorem execCwMove_keeps {z : Frame} {s : State} (h : Keeps z s) (w : Nat) :
    ∃ t, execCwMove w s = .next t ∧ Keeps z t := by
  refine ⟨_, rfl, ?_⟩
  repeat' first
    | with_reducible assumption
    | with_reducible apply State.cwStart_keeps
    | with_reducible apply State.cwMove_keeps
    | intro _

theorem execCwPlanLoad_keeps {z : Frame} {s : State} (h : Keeps z s) (w : Nat) :
    ∃ t, execCwPlanLoad w s = .next t ∧ Keeps z t := by
  refine ⟨_, rfl, ?_⟩
  repeat' first
    | with_reducible assumption
    | with_reducible apply State.cwStart_keeps
    | with_reducible apply State.cwPlanLoad_keeps
    | intro _

theorem execCwPlanSwitch_keeps {z : Frame} {s : State} (h : Keeps z s) (w : Nat) :
    ∃ t, execCwPlanSwitch w s = .next t ∧ Keeps z t := by
  refine ⟨_, rfl, ?_⟩
  repeat' first
    | with_reducible assumption
    | with_reducible apply State.cwStart_keeps
    | with_reducible apply State.cwPlanSwitch_keeps
    | intro _

theorem execCwRecordComplete_keeps {z : Frame} {s : State} (h : Keeps z s) (w : Nat) :
    ∃ t, execCwRecordComplete w s = .next t ∧ Keeps z t := by
  refine ⟨_, rfl, ?_⟩
  repeat' first
    | with_reducible assumption
    | with_reducible apply State.cwComplete_keeps

theorem execTickBoundary_keeps {z : Frame} {s : State} (h : Keeps z s) (h0 : z.ok 0) (hj : ∀ n, z.ok (n % tickMod))
    (ht : ∀ n, z.ok (tickAdd n 1))  :
    ∃ t, execTickBoundary s = .next t ∧ Keeps z t := by
  refine ⟨_, rfl, ?_⟩
  repeat' first
    | with_reducible assumption
    | with_reducible apply State.boundary_keeps

theorem execLineBlockReceive_keeps {z : Frame} {s : State} (h : Keeps z s) (hj : ∀ n, z.ok (n % tickMod)) (link : Nat) (data parity : List Byte) :
    ∃ t, execLineBlockReceive link data parity s = .next t ∧ Keeps z t := by
  refine ⟨_, rfl, ?_⟩
  repeat' first
    | with_reducible assumption
    | with_reducible apply State.lineBlock_keeps
    | intro _
    | split

/-- Every command answers a next state, which keeps what no command changes. -/
theorem exec_keeps (c : Instr) {z : Frame} {s : State} (h : Keeps z s) (h0 : z.ok 0) (hj : ∀ n, z.ok (n % tickMod))
    (ht : ∀ n, z.ok (tickAdd n 1)) :
    ∃ t, exec c s = .next t ∧ Keeps z t := by
  cases c with
  | tickBoundary => exact execTickBoundary_keeps h h0 hj ht
  | periodAtWrite v => exact execPeriodAtWrite_keeps h v
  | nowLoRead => exact execNowLoRead_keeps h
  | stepLoRead => exact execStepLoRead_keeps h
  | markerReceive link m => exact execMarkerReceive_keeps h link m
  | trimSaturated => exact execTrimSaturated_keeps h
  | scheduledFlitReceive link f => exact execScheduledFlitReceive_keeps h link f
  | flitConsume link sid o => exact execFlitConsume_keeps h link sid o
  | skipNotice d target origin reason => exact execSkipNotice_keeps h d target origin reason
  | throttleEvaluation temps power cup => exact execThrottleEvaluation_keeps h temps power cup
  | skipNoticeIssue => exact execSkipNoticeIssue_keeps h
  | skipReq v => exact execSkipReq_keeps h v
  | thrEnClear v => exact execThrEnClear_keeps h v
  | linkSignalDetect link => exact execLinkSignalDetect_keeps h link
  | eqConverge link => exact execEqConverge_keeps h link
  | lockAchieved link => exact execLockAchieved_keeps h link
  | latencyProbe link stamp hold => exact execLatencyProbe_keeps h link stamp hold
  | probeEcho link echo hold => exact execProbeEcho_keeps h link echo hold
  | identity link ident dir => exact execIdentity_keeps h link ident dir
  | creditGrant link credits => exact execCreditGrant_keeps h link credits
  | trainStateTimeout link => exact execTrainStateTimeout_keeps h link
  | lockLoss link => exact execLockLoss_keeps h link
  | retrain link => exact execRetrain_keeps h link
  | linkEnWrite link en => exact execLinkEnWrite_keeps h link en
  | lineBlockReceive link data parity => exact execLineBlockReceive_keeps h hj link data parity
  | nakReceive link seq => exact execNakReceive_keeps h link seq
  | ackTimeout link seq => exact execAckTimeout_keeps h link seq
  | d2dRetry link dir k acked => exact execD2dRetry_keeps h link dir k acked
  | credTo n vc => exact execCredTo_keeps h n vc
  | openRequestInject src f => exact execOpenRequestInject_keeps h src f
  | ingressSwitch link vc => exact execIngressSwitch_keeps h link vc
  | reservationTimeout src tag => exact execReservationTimeout_keeps h src tag
  | replyReceive src f => exact execReplyReceive_keeps h src f
  | flitAged keep out vc => exact execFlitAged_keeps h keep out vc
  | tblDataWrite keep v => exact execTblDataWrite_keeps h keep v
  | flipAtWrite keep v => exact execFlipAtWrite_keeps h keep v
  | routeFlip d tick sum origin => exact execRouteFlip_keeps h d tick sum origin
  | drainDeadline => exact execDrainDeadline_keeps h
  | load bank => exact execLoad_keeps h bank
  | planLoadDone => exact execPlanLoadDone_keeps h
  | switchAtWrite v => exact execSwitchAtWrite_keeps h v
  | disarm hi => exact execDisarm_keeps h hi
  | egressAdmit keep out vc src => exact execEgressAdmit_keeps h keep out vc src
  | egressSend keep out => exact execEgressSend_keeps h keep out
  | spillWrite keep out vc => exact execSpillWrite_keeps h keep out vc
  | spillReadback keep out vc ecc => exact execSpillReadback_keeps h keep out vc ecc
  | ovfConfigWrite keep v => exact execOvfConfigWrite_keeps h keep v
  | hostFrameReceive bytes => exact execHostFrameReceive_keeps h bytes
  | hostIngressForward p => exact execHostIngressForward_keeps h p
  | pfcRepeat p => exact execPfcRepeat_keeps h p
  | pfcXon p => exact execPfcXon_keeps h p
  | pfcFrameReceive enable quanta => exact execPfcFrameReceive_keeps h enable quanta
  | pauseExpiry p => exact execPauseExpiry_keeps h p
  | ethFrameReassembled vc => exact execEthFrameReassembled_keeps h vc
  | hostFrameStart => exact execHostFrameStart_keeps h
  | hostLinkUp => exact execHostLinkUp_keeps h
  | hostLinkDown => exact execHostLinkDown_keeps h
  | clipClr u => exact execClipClr_keeps h u
  | ceReduce ce slot => exact execCeReduce_keeps h ce slot
  | ceAllReduce ce slot => exact execCeAllReduce_keeps h ce slot
  | ceReduceScatter ce slot => exact execCeReduceScatter_keeps h ce slot
  | ceAllGather ce slot => exact execCeAllGather_keeps h ce slot
  | ceBroadcast ce slot => exact execCeBroadcast_keeps h ce slot
  | ceAllToAll ce slot => exact execCeAllToAll_keeps h ce slot
  | ceGatherIdx ce slot => exact execCeGatherIdx_keeps h ce slot
  | ceScatterIdx ce slot => exact execCeScatterIdx_keeps h ce slot
  | ceSortMerge ce slot => exact execCeSortMerge_keeps h ce slot
  | ceTopkMerge ce slot => exact execCeTopkMerge_keeps h ce slot
  | ceScan ce slot => exact execCeScan_keeps h ce slot
  | ceAttnCombine ce slot => exact execCeAttnCombine_keeps h ce slot
  | cePartialFold ce slot rank => exact execCePartialFold_keeps h ce slot rank
  | atomAdd f => exact execAtomAdd_keeps h h0 f
  | atomAddFetch f => exact execAtomAddFetch_keeps h h0 f
  | atomIdleWriteback line => exact execAtomIdleWriteback_keeps h line
  | atomFlush c => exact execAtomFlush_keeps h c
  | atomWinWrite c v => exact execAtomWinWrite_keeps h c v
  | codecEncode c slot => exact execCodecEncode_keeps h c slot
  | codecStore c slot => exact execCodecStore_keeps h c slot
  | codecPack24 c slot => exact execCodecPack24_keeps h c slot
  | codecExpand c slot => exact execCodecExpand_keeps h c slot
  | codedSliceReceive c sid => exact execCodedSliceReceive_keeps h c sid
  | billinCopy g i => exact execBillinCopy_keeps h g i
  | fill g i => exact execFill_keeps h g i
  | gather g i => exact execGather_keeps h g i
  | scatter g i => exact execScatter_keeps h g i
  | billinMma g i => exact execBillinMma_keeps h g i
  | add g i => exact execAdd_keeps h g i
  | sub g i => exact execSub_keeps h g i
  | mul g i => exact execMul_keeps h g i
  | fma g i => exact execFma_keeps h g i
  | max g i => exact execMax_keeps h g i
  | min g i => exact execMin_keeps h g i
  | div g i => exact execDiv_keeps h g i
  | sqrt g i => exact execSqrt_keeps h g i
  | exp2 g i => exact execExp2_keeps h g i
  | sign g i => exact execSign_keeps h g i
  | abs g i => exact execAbs_keeps h g i
  | rsum g i => exact execRsum_keeps h g i
  | rmax g i => exact execRmax_keeps h g i
  | rmin g i => exact execRmin_keeps h g i
  | fenceAcq g i => exact execFenceAcq_keeps h g i
  | fenceRel g i => exact execFenceRel_keeps h g i
  | fenceFull g i => exact execFenceFull_keeps h g i
  | flagSet g i => exact execFlagSet_keeps h g i
  | flagWait g i => exact execFlagWait_keeps h g i
  | flagWaitv g i => exact execFlagWaitv_keeps h g i
  | flagWaitDone g q => exact execFlagWaitDone_keeps h g q
  | tickBodyComplete g => exact execTickBodyComplete_keeps h g
  | tileStoreAccess g => exact execTileStoreAccess_keeps h h0 g
  | prefetchComplete g => exact execPrefetchComplete_keeps h g
  | imemWdataWrite g lantern v => exact execImemWdataWrite_keeps h g lantern v
  | sort g i => exact execSort_keeps h g i
  | topk g i => exact execTopk_keeps h g i
  | softmax g i => exact execSoftmax_keeps h g i
  | attnPartial g i => exact execAttnPartial_keeps h g i
  | attnMerge g i => exact execAttnMerge_keeps h g i
  | libScan g i => exact execLibScan_keeps h g i
  | histogram g i => exact execHistogram_keeps h g i
  | filter g i => exact execFilter_keeps h g i
  | ueNorm c slot => exact execUeNorm_keeps h c slot
  | ueFold c slot => exact execUeFold_keeps h c slot
  | ueApply c slot => exact execUeApply_keeps h c slot
  | ueStage c slot => exact execUeStage_keeps h c slot
  | ueCommit c slot => exact execUeCommit_keeps h c slot
  | ueStepLoRead c => exact execUeStepLoRead_keeps h c
  | chkGo c unit => exact execChkGo_keeps h c unit
  | chkDone c => exact execChkDone_keeps h c
  | memRd f => exact execMemRd_keeps h h0 f
  | memWr f => exact execMemWr_keeps h h0 f
  | bulkRd f => exact execBulkRd_keeps h h0 f
  | bulkWr f => exact execBulkWr_keeps h h0 f
  | hbmWakeWait st => exact execHbmWakeWait_keeps h h0 st
  | fstCommit => exact execFstCommit_keeps h
  | fstRead => exact execFstRead_keeps h
  | sysGibWrite st v => exact execSysGibWrite_keeps h st v
  | refreshRound st => exact execRefreshRound_keeps h st
  | stackMoverOut st slot => exact execStackMoverOut_keeps h st slot
  | stackMoverIn st slot => exact execStackMoverIn_keeps h st slot
  | stackMoverCopy st slot => exact execStackMoverCopy_keeps h st slot
  | moverCopy k => exact execMoverCopy_keeps h k
  | moverConvert k => exact execMoverConvert_keeps h k
  | moverReply k f => exact execMoverReply_keeps h k f
  | moverDrainDone k => exact execMoverDrainDone_keeps h k
  | mvResume k => exact execMvResume_keeps h k
  | mvAbort k => exact execMvAbort_keeps h k
  | correctedWriteback line => exact execCorrectedWriteback_keeps h line
  | tripRewrite key => exact execTripRewrite_keeps h key
  | tripEnWrite v => exact execTripEnWrite_keeps h v
  | mergeWriteback line => exact execMergeWriteback_keeps h line
  | mergeEntryWait st => exact execMergeEntryWait_keeps h st
  | patrolRead line => exact execPatrolRead_keeps h line
  | scrubGo => exact execScrubGo_keeps h
  | scrubAbort => exact execScrubAbort_keeps h
  | scrubGranule => exact execScrubGranule_keeps h
  | spotCheckComplete c got => exact execSpotCheckComplete_keeps h c got
  | marginEvaluation droop canary rx => exact execMarginEvaluation_keeps h droop canary rx
  | neighbourSilent d => exact execNeighbourSilent_keeps h d
  | watchReport d m => exact execWatchReport_keeps h d m
  | roundDecision => exact execRoundDecision_keeps h
  | digestReceive d cut digest => exact execDigestReceive_keeps h d cut digest
  | switchTick => exact execSwitchTick_keeps h
  | autoResume => exact execAutoResume_keeps h
  | rbGo v => exact execRbGo_keeps h v
  | restoreCopyDone ok => exact execRestoreCopyDone_keeps h ok
  | restoreCheckDone srcSum srcNorm => exact execRestoreCheckDone_keeps h srcSum srcNorm
  | cmdResume => exact execCmdResume_keeps h
  | cmdAbort => exact execCmdAbort_keeps h
  | cmdFabricReset => exact execCmdFabricReset_keeps h
  | commandReceive d m => exact execCommandReceive_keeps h d m
  | commandTakeEffect => exact execCommandTakeEffect_keeps h
  | join v => exact execJoin_keeps h v
  | joinAdopt d m => exact execJoinAdopt_keeps h hj d m
  | watchPartnerWrite v => exact execWatchPartnerWrite_keeps h v
  | pairCheck answer => exact execPairCheck_keeps h answer
  | flightStepLoRead => exact execFlightStepLoRead_keeps h
  | declStepLoRead => exact execDeclStepLoRead_keeps h
  | arpRequest frame => exact execArpRequest_keeps h frame
  | neighborSolicitation frame => exact execNeighborSolicitation_keeps h frame
  | moraecaReceive src bytes => exact execMoraecaReceive_keeps h src bytes
  | openSession sess => exact execOpenSession_keeps h sess
  | closeSession sess => exact execCloseSession_keeps h sess
  | regRd sess => exact execRegRd_keeps h h0 sess
  | regWr sess => exact execRegWr_keeps h h0 sess
  | moraecaBulkRd sess => exact execMoraecaBulkRd_keeps h h0 sess
  | moraecaBulkWr sess => exact execMoraecaBulkWr_keeps h h0 sess
  | streamOpen sess => exact execStreamOpen_keeps h sess
  | streamData i src bytes => exact execStreamData_keeps h i src bytes
  | streamAck i ack => exact execStreamAck_keeps h i ack
  | streamRto i => exact execStreamRto_keeps h i
  | streamReadReply i f => exact execStreamReadReply_keeps h i f
  | eventAck src seq => exact execEventAck_keeps h src seq
  | evtRto => exact execEvtRto_keeps h
  | evtEnWrite v => exact execEvtEnWrite_keeps h v
  | sessionTimeout sess => exact execSessionTimeout_keeps h sess
  | holdTimeout sess seq => exact execHoldTimeout_keeps h sess seq
  | cwNop w => exact execCwNop_keeps h w
  | cwRegWr w => exact execCwRegWr_keeps h h0 w
  | cwMove w => exact execCwMove_keeps h w
  | cwPlanLoad w => exact execCwPlanLoad_keeps h w
  | cwPlanSwitch w => exact execCwPlanSwitch_keeps h w
  | cwRecordComplete w => exact execCwRecordComplete_keeps h w
  | registerWrite addr v => exact execRegisterWrite_keeps h h0 addr v
  | pgErrWrite p v => exact execPgErrWrite_keeps h p v
  | softRst p => exact execSoftRst_keeps h p
  | freeze p on => exact execFreeze_keeps h p on
  | lock p => exact execLock_keeps h p
  | feedBad feed => exact execFeedBad_keeps h feed
  | feedSenseOpen feed => exact execFeedSenseOpen_keeps h feed
  | feedGood feed => exact execFeedGood_keeps h feed
  | feedReturn => exact execFeedReturn_keeps h
  | holdupExpiry => exact execHoldupExpiry_keeps h h0
  | coolantConfirm => exact execCoolantConfirm_keeps h
  | coolOkChange flow inlet => exact execCoolOkChange_keeps h flow inlet
  | tripPeakPower => exact execTripPeakPower_keeps h h0
  | tripSustainedPower => exact execTripSustainedPower_keeps h h0
  | tripTemperature sensor t0 t1 => exact execTripTemperature_keeps h h0 sensor t0 t1
  | tripFlow flow => exact execTripFlow_keeps h h0 flow
  | tripInlet inlet => exact execTripInlet_keeps h h0 inlet
  | enterP3 key => exact execEnterP3_keeps h h0 key
  | leaveP3 key => exact execLeaveP3_keeps h h0 key
  | enterP4 key => exact execEnterP4_keeps h h0 key
  | moduleReset key => exact execModuleReset_keeps h h0 key
  | resetNAssert => exact execResetNAssert_keeps h h0
  | resetNRelease progEnN => exact execResetNRelease_keeps h progEnN
  | wakeN => exact execWakeN_keeps h h0
  | shdnN low => exact execShdnN_keeps h h0 low
  | powerRestored => exact execPowerRestored_keeps h h0
  | domainWake dom => exact execDomainWake_keeps h h0 dom
  | bootPhaseComplete r => exact execBootPhaseComplete_keeps h r
  | bootPhaseTimeout code => exact execBootPhaseTimeout_keeps h code
  | calSave => exact execCalSave_keeps h
  | bpSave => exact execBpSave_keeps h
  | bpLoad => exact execBpLoad_keeps h
  | updGo key => exact execUpdGo_keeps h key
  | updateComplete => exact execUpdateComplete_keeps h
  | fwCommit key => exact execFwCommit_keeps h key
  | fkeyRevoke mask key => exact execFkeyRevoke_keeps h mask key
  | enroll => exact execEnroll_keeps h
  | revoke => exact execRevoke_keeps h
  | keySave => exact execKeySave_keeps h
  | testReq => exact execTestReq_keeps h
  | dbgReq => exact execDbgReq_keeps h
  | attGo => exact execAttGo_keeps h
  | attReportReady => exact execAttReportReady_keeps h
  | attDataRead => exact execAttDataRead_keeps h
  | vaneReading mainMj backupMj pMain pBackup fault => exact execVaneReading_keeps h mainMj backupMj pMain pBackup fault
  | vaneCommit => exact execVaneCommit_keeps h
  | tamperBreak => exact execTamperBreak_keeps h
  | vaneMirror bytes => exact execVaneMirror_keeps h bytes
  | vaneStale => exact execVaneStale_keeps h
  | vmSeqLoRead => exact execVmSeqLoRead_keeps h
  | vmSigDataRead => exact execVmSigDataRead_keeps h
  | p3EntryComplete => exact execP3EntryComplete_keeps h h0
  | p3ExitComplete => exact execP3ExitComplete_keeps h h0
  | calSaveComplete => exact execCalSaveComplete_keeps h
  | bpSaveComplete => exact execBpSaveComplete_keeps h

/-- The commands that leave the tick number, or reset it. -/
theorem exec_keeps_still (c : Instr) {z : Frame} {s : State} (h : Keeps z s) (h0 : z.ok 0) (h1 : c ≠ .tickBoundary)
    (h2 : ∀ d m, c ≠ .joinAdopt d m) (h3 : ∀ l d p, c ≠ .lineBlockReceive l d p) :
    ∃ t, exec c s = .next t ∧ Keeps z t := by
  cases c with
  | tickBoundary => exact absurd rfl h1
  | periodAtWrite v => exact execPeriodAtWrite_keeps h v
  | nowLoRead => exact execNowLoRead_keeps h
  | stepLoRead => exact execStepLoRead_keeps h
  | markerReceive link m => exact execMarkerReceive_keeps h link m
  | trimSaturated => exact execTrimSaturated_keeps h
  | scheduledFlitReceive link f => exact execScheduledFlitReceive_keeps h link f
  | flitConsume link sid o => exact execFlitConsume_keeps h link sid o
  | skipNotice d target origin reason => exact execSkipNotice_keeps h d target origin reason
  | throttleEvaluation temps power cup => exact execThrottleEvaluation_keeps h temps power cup
  | skipNoticeIssue => exact execSkipNoticeIssue_keeps h
  | skipReq v => exact execSkipReq_keeps h v
  | thrEnClear v => exact execThrEnClear_keeps h v
  | linkSignalDetect link => exact execLinkSignalDetect_keeps h link
  | eqConverge link => exact execEqConverge_keeps h link
  | lockAchieved link => exact execLockAchieved_keeps h link
  | latencyProbe link stamp hold => exact execLatencyProbe_keeps h link stamp hold
  | probeEcho link echo hold => exact execProbeEcho_keeps h link echo hold
  | identity link ident dir => exact execIdentity_keeps h link ident dir
  | creditGrant link credits => exact execCreditGrant_keeps h link credits
  | trainStateTimeout link => exact execTrainStateTimeout_keeps h link
  | lockLoss link => exact execLockLoss_keeps h link
  | retrain link => exact execRetrain_keeps h link
  | linkEnWrite link en => exact execLinkEnWrite_keeps h link en
  | lineBlockReceive link data parity => exact absurd rfl (h3 _ _ _)
  | nakReceive link seq => exact execNakReceive_keeps h link seq
  | ackTimeout link seq => exact execAckTimeout_keeps h link seq
  | d2dRetry link dir k acked => exact execD2dRetry_keeps h link dir k acked
  | credTo n vc => exact execCredTo_keeps h n vc
  | openRequestInject src f => exact execOpenRequestInject_keeps h src f
  | ingressSwitch link vc => exact execIngressSwitch_keeps h link vc
  | reservationTimeout src tag => exact execReservationTimeout_keeps h src tag
  | replyReceive src f => exact execReplyReceive_keeps h src f
  | flitAged keep out vc => exact execFlitAged_keeps h keep out vc
  | tblDataWrite keep v => exact execTblDataWrite_keeps h keep v
  | flipAtWrite keep v => exact execFlipAtWrite_keeps h keep v
  | routeFlip d tick sum origin => exact execRouteFlip_keeps h d tick sum origin
  | drainDeadline => exact execDrainDeadline_keeps h
  | load bank => exact execLoad_keeps h bank
  | planLoadDone => exact execPlanLoadDone_keeps h
  | switchAtWrite v => exact execSwitchAtWrite_keeps h v
  | disarm hi => exact execDisarm_keeps h hi
  | egressAdmit keep out vc src => exact execEgressAdmit_keeps h keep out vc src
  | egressSend keep out => exact execEgressSend_keeps h keep out
  | spillWrite keep out vc => exact execSpillWrite_keeps h keep out vc
  | spillReadback keep out vc ecc => exact execSpillReadback_keeps h keep out vc ecc
  | ovfConfigWrite keep v => exact execOvfConfigWrite_keeps h keep v
  | hostFrameReceive bytes => exact execHostFrameReceive_keeps h bytes
  | hostIngressForward p => exact execHostIngressForward_keeps h p
  | pfcRepeat p => exact execPfcRepeat_keeps h p
  | pfcXon p => exact execPfcXon_keeps h p
  | pfcFrameReceive enable quanta => exact execPfcFrameReceive_keeps h enable quanta
  | pauseExpiry p => exact execPauseExpiry_keeps h p
  | ethFrameReassembled vc => exact execEthFrameReassembled_keeps h vc
  | hostFrameStart => exact execHostFrameStart_keeps h
  | hostLinkUp => exact execHostLinkUp_keeps h
  | hostLinkDown => exact execHostLinkDown_keeps h
  | clipClr u => exact execClipClr_keeps h u
  | ceReduce ce slot => exact execCeReduce_keeps h ce slot
  | ceAllReduce ce slot => exact execCeAllReduce_keeps h ce slot
  | ceReduceScatter ce slot => exact execCeReduceScatter_keeps h ce slot
  | ceAllGather ce slot => exact execCeAllGather_keeps h ce slot
  | ceBroadcast ce slot => exact execCeBroadcast_keeps h ce slot
  | ceAllToAll ce slot => exact execCeAllToAll_keeps h ce slot
  | ceGatherIdx ce slot => exact execCeGatherIdx_keeps h ce slot
  | ceScatterIdx ce slot => exact execCeScatterIdx_keeps h ce slot
  | ceSortMerge ce slot => exact execCeSortMerge_keeps h ce slot
  | ceTopkMerge ce slot => exact execCeTopkMerge_keeps h ce slot
  | ceScan ce slot => exact execCeScan_keeps h ce slot
  | ceAttnCombine ce slot => exact execCeAttnCombine_keeps h ce slot
  | cePartialFold ce slot rank => exact execCePartialFold_keeps h ce slot rank
  | atomAdd f => exact execAtomAdd_keeps h h0 f
  | atomAddFetch f => exact execAtomAddFetch_keeps h h0 f
  | atomIdleWriteback line => exact execAtomIdleWriteback_keeps h line
  | atomFlush c => exact execAtomFlush_keeps h c
  | atomWinWrite c v => exact execAtomWinWrite_keeps h c v
  | codecEncode c slot => exact execCodecEncode_keeps h c slot
  | codecStore c slot => exact execCodecStore_keeps h c slot
  | codecPack24 c slot => exact execCodecPack24_keeps h c slot
  | codecExpand c slot => exact execCodecExpand_keeps h c slot
  | codedSliceReceive c sid => exact execCodedSliceReceive_keeps h c sid
  | billinCopy g i => exact execBillinCopy_keeps h g i
  | fill g i => exact execFill_keeps h g i
  | gather g i => exact execGather_keeps h g i
  | scatter g i => exact execScatter_keeps h g i
  | billinMma g i => exact execBillinMma_keeps h g i
  | add g i => exact execAdd_keeps h g i
  | sub g i => exact execSub_keeps h g i
  | mul g i => exact execMul_keeps h g i
  | fma g i => exact execFma_keeps h g i
  | max g i => exact execMax_keeps h g i
  | min g i => exact execMin_keeps h g i
  | div g i => exact execDiv_keeps h g i
  | sqrt g i => exact execSqrt_keeps h g i
  | exp2 g i => exact execExp2_keeps h g i
  | sign g i => exact execSign_keeps h g i
  | abs g i => exact execAbs_keeps h g i
  | rsum g i => exact execRsum_keeps h g i
  | rmax g i => exact execRmax_keeps h g i
  | rmin g i => exact execRmin_keeps h g i
  | fenceAcq g i => exact execFenceAcq_keeps h g i
  | fenceRel g i => exact execFenceRel_keeps h g i
  | fenceFull g i => exact execFenceFull_keeps h g i
  | flagSet g i => exact execFlagSet_keeps h g i
  | flagWait g i => exact execFlagWait_keeps h g i
  | flagWaitv g i => exact execFlagWaitv_keeps h g i
  | flagWaitDone g q => exact execFlagWaitDone_keeps h g q
  | tickBodyComplete g => exact execTickBodyComplete_keeps h g
  | tileStoreAccess g => exact execTileStoreAccess_keeps h h0 g
  | prefetchComplete g => exact execPrefetchComplete_keeps h g
  | imemWdataWrite g lantern v => exact execImemWdataWrite_keeps h g lantern v
  | sort g i => exact execSort_keeps h g i
  | topk g i => exact execTopk_keeps h g i
  | softmax g i => exact execSoftmax_keeps h g i
  | attnPartial g i => exact execAttnPartial_keeps h g i
  | attnMerge g i => exact execAttnMerge_keeps h g i
  | libScan g i => exact execLibScan_keeps h g i
  | histogram g i => exact execHistogram_keeps h g i
  | filter g i => exact execFilter_keeps h g i
  | ueNorm c slot => exact execUeNorm_keeps h c slot
  | ueFold c slot => exact execUeFold_keeps h c slot
  | ueApply c slot => exact execUeApply_keeps h c slot
  | ueStage c slot => exact execUeStage_keeps h c slot
  | ueCommit c slot => exact execUeCommit_keeps h c slot
  | ueStepLoRead c => exact execUeStepLoRead_keeps h c
  | chkGo c unit => exact execChkGo_keeps h c unit
  | chkDone c => exact execChkDone_keeps h c
  | memRd f => exact execMemRd_keeps h h0 f
  | memWr f => exact execMemWr_keeps h h0 f
  | bulkRd f => exact execBulkRd_keeps h h0 f
  | bulkWr f => exact execBulkWr_keeps h h0 f
  | hbmWakeWait st => exact execHbmWakeWait_keeps h h0 st
  | fstCommit => exact execFstCommit_keeps h
  | fstRead => exact execFstRead_keeps h
  | sysGibWrite st v => exact execSysGibWrite_keeps h st v
  | refreshRound st => exact execRefreshRound_keeps h st
  | stackMoverOut st slot => exact execStackMoverOut_keeps h st slot
  | stackMoverIn st slot => exact execStackMoverIn_keeps h st slot
  | stackMoverCopy st slot => exact execStackMoverCopy_keeps h st slot
  | moverCopy k => exact execMoverCopy_keeps h k
  | moverConvert k => exact execMoverConvert_keeps h k
  | moverReply k f => exact execMoverReply_keeps h k f
  | moverDrainDone k => exact execMoverDrainDone_keeps h k
  | mvResume k => exact execMvResume_keeps h k
  | mvAbort k => exact execMvAbort_keeps h k
  | correctedWriteback line => exact execCorrectedWriteback_keeps h line
  | tripRewrite key => exact execTripRewrite_keeps h key
  | tripEnWrite v => exact execTripEnWrite_keeps h v
  | mergeWriteback line => exact execMergeWriteback_keeps h line
  | mergeEntryWait st => exact execMergeEntryWait_keeps h st
  | patrolRead line => exact execPatrolRead_keeps h line
  | scrubGo => exact execScrubGo_keeps h
  | scrubAbort => exact execScrubAbort_keeps h
  | scrubGranule => exact execScrubGranule_keeps h
  | spotCheckComplete c got => exact execSpotCheckComplete_keeps h c got
  | marginEvaluation droop canary rx => exact execMarginEvaluation_keeps h droop canary rx
  | neighbourSilent d => exact execNeighbourSilent_keeps h d
  | watchReport d m => exact execWatchReport_keeps h d m
  | roundDecision => exact execRoundDecision_keeps h
  | digestReceive d cut digest => exact execDigestReceive_keeps h d cut digest
  | switchTick => exact execSwitchTick_keeps h
  | autoResume => exact execAutoResume_keeps h
  | rbGo v => exact execRbGo_keeps h v
  | restoreCopyDone ok => exact execRestoreCopyDone_keeps h ok
  | restoreCheckDone srcSum srcNorm => exact execRestoreCheckDone_keeps h srcSum srcNorm
  | cmdResume => exact execCmdResume_keeps h
  | cmdAbort => exact execCmdAbort_keeps h
  | cmdFabricReset => exact execCmdFabricReset_keeps h
  | commandReceive d m => exact execCommandReceive_keeps h d m
  | commandTakeEffect => exact execCommandTakeEffect_keeps h
  | join v => exact execJoin_keeps h v
  | joinAdopt d m => exact absurd rfl (h2 _ _)
  | watchPartnerWrite v => exact execWatchPartnerWrite_keeps h v
  | pairCheck answer => exact execPairCheck_keeps h answer
  | flightStepLoRead => exact execFlightStepLoRead_keeps h
  | declStepLoRead => exact execDeclStepLoRead_keeps h
  | arpRequest frame => exact execArpRequest_keeps h frame
  | neighborSolicitation frame => exact execNeighborSolicitation_keeps h frame
  | moraecaReceive src bytes => exact execMoraecaReceive_keeps h src bytes
  | openSession sess => exact execOpenSession_keeps h sess
  | closeSession sess => exact execCloseSession_keeps h sess
  | regRd sess => exact execRegRd_keeps h h0 sess
  | regWr sess => exact execRegWr_keeps h h0 sess
  | moraecaBulkRd sess => exact execMoraecaBulkRd_keeps h h0 sess
  | moraecaBulkWr sess => exact execMoraecaBulkWr_keeps h h0 sess
  | streamOpen sess => exact execStreamOpen_keeps h sess
  | streamData i src bytes => exact execStreamData_keeps h i src bytes
  | streamAck i ack => exact execStreamAck_keeps h i ack
  | streamRto i => exact execStreamRto_keeps h i
  | streamReadReply i f => exact execStreamReadReply_keeps h i f
  | eventAck src seq => exact execEventAck_keeps h src seq
  | evtRto => exact execEvtRto_keeps h
  | evtEnWrite v => exact execEvtEnWrite_keeps h v
  | sessionTimeout sess => exact execSessionTimeout_keeps h sess
  | holdTimeout sess seq => exact execHoldTimeout_keeps h sess seq
  | cwNop w => exact execCwNop_keeps h w
  | cwRegWr w => exact execCwRegWr_keeps h h0 w
  | cwMove w => exact execCwMove_keeps h w
  | cwPlanLoad w => exact execCwPlanLoad_keeps h w
  | cwPlanSwitch w => exact execCwPlanSwitch_keeps h w
  | cwRecordComplete w => exact execCwRecordComplete_keeps h w
  | registerWrite addr v => exact execRegisterWrite_keeps h h0 addr v
  | pgErrWrite p v => exact execPgErrWrite_keeps h p v
  | softRst p => exact execSoftRst_keeps h p
  | freeze p on => exact execFreeze_keeps h p on
  | lock p => exact execLock_keeps h p
  | feedBad feed => exact execFeedBad_keeps h feed
  | feedSenseOpen feed => exact execFeedSenseOpen_keeps h feed
  | feedGood feed => exact execFeedGood_keeps h feed
  | feedReturn => exact execFeedReturn_keeps h
  | holdupExpiry => exact execHoldupExpiry_keeps h h0
  | coolantConfirm => exact execCoolantConfirm_keeps h
  | coolOkChange flow inlet => exact execCoolOkChange_keeps h flow inlet
  | tripPeakPower => exact execTripPeakPower_keeps h h0
  | tripSustainedPower => exact execTripSustainedPower_keeps h h0
  | tripTemperature sensor t0 t1 => exact execTripTemperature_keeps h h0 sensor t0 t1
  | tripFlow flow => exact execTripFlow_keeps h h0 flow
  | tripInlet inlet => exact execTripInlet_keeps h h0 inlet
  | enterP3 key => exact execEnterP3_keeps h h0 key
  | leaveP3 key => exact execLeaveP3_keeps h h0 key
  | enterP4 key => exact execEnterP4_keeps h h0 key
  | moduleReset key => exact execModuleReset_keeps h h0 key
  | resetNAssert => exact execResetNAssert_keeps h h0
  | resetNRelease progEnN => exact execResetNRelease_keeps h progEnN
  | wakeN => exact execWakeN_keeps h h0
  | shdnN low => exact execShdnN_keeps h h0 low
  | powerRestored => exact execPowerRestored_keeps h h0
  | domainWake dom => exact execDomainWake_keeps h h0 dom
  | bootPhaseComplete r => exact execBootPhaseComplete_keeps h r
  | bootPhaseTimeout code => exact execBootPhaseTimeout_keeps h code
  | calSave => exact execCalSave_keeps h
  | bpSave => exact execBpSave_keeps h
  | bpLoad => exact execBpLoad_keeps h
  | updGo key => exact execUpdGo_keeps h key
  | updateComplete => exact execUpdateComplete_keeps h
  | fwCommit key => exact execFwCommit_keeps h key
  | fkeyRevoke mask key => exact execFkeyRevoke_keeps h mask key
  | enroll => exact execEnroll_keeps h
  | revoke => exact execRevoke_keeps h
  | keySave => exact execKeySave_keeps h
  | testReq => exact execTestReq_keeps h
  | dbgReq => exact execDbgReq_keeps h
  | attGo => exact execAttGo_keeps h
  | attReportReady => exact execAttReportReady_keeps h
  | attDataRead => exact execAttDataRead_keeps h
  | vaneReading mainMj backupMj pMain pBackup fault => exact execVaneReading_keeps h mainMj backupMj pMain pBackup fault
  | vaneCommit => exact execVaneCommit_keeps h
  | tamperBreak => exact execTamperBreak_keeps h
  | vaneMirror bytes => exact execVaneMirror_keeps h bytes
  | vaneStale => exact execVaneStale_keeps h
  | vmSeqLoRead => exact execVmSeqLoRead_keeps h
  | vmSigDataRead => exact execVmSigDataRead_keeps h
  | p3EntryComplete => exact execP3EntryComplete_keeps h h0
  | p3ExitComplete => exact execP3ExitComplete_keeps h h0
  | calSaveComplete => exact execCalSaveComplete_keeps h
  | bpSaveComplete => exact execBpSaveComplete_keeps h
end Sys2Proof.Machine
end

