-- ==== Sys2Proof/Laws/State.lean ====
section
/-! SUPPORT. What each named update of the state changes, field by field, and what the register and error operations leave
alone. -/

namespace Sys2Proof.Machine

open Sys2Proof

@[simp] theorem State.put_pending (s : State) (p : PageId) (r : Reg) (i v : Nat) : (s.put p r i v).pending = s.pending := rfl
@[simp] theorem State.put_out (s : State) (p : PageId) (r : Reg) (i v : Nat) : (s.put p r i v).out = s.out := rfl
@[simp] theorem State.put_free (s : State) (p : PageId) (r : Reg) (i v : Nat) : (s.put p r i v).free = s.free := rfl
@[simp] theorem State.put_clock (s : State) (p : PageId) (r : Reg) (i v : Nat) : (s.put p r i v).clock = s.clock := rfl
@[simp] theorem State.put_regs (s : State) (p : PageId) (r : Reg) (i v : Nat) : (s.put p r i v).regs = AL.put s.regs (rkey p r i) (v % 2 ^ r.w) := rfl
@[simp] theorem State.put_staged (s : State) (p : PageId) (r : Reg) (i v : Nat) : (s.put p r i v).staged = s.staged := rfl
@[simp] theorem State.put_hidden (s : State) (p : PageId) (r : Reg) (i v : Nat) : (s.put p r i v).hidden = s.hidden := rfl
@[simp] theorem State.put_trip (s : State) (p : PageId) (r : Reg) (i v : Nat) : (s.put p r i v).trip = AL.del s.trip (rkey p r i) := rfl
@[simp] theorem State.put_rose (s : State) (p : PageId) (r : Reg) (i v : Nat) : (s.put p r i v).rose = s.rose := rfl
@[simp] theorem State.put_mem (s : State) (p : PageId) (r : Reg) (i v : Nat) : (s.put p r i v).mem = s.mem := rfl
@[simp] theorem State.put_events (s : State) (p : PageId) (r : Reg) (i v : Nat) : (s.put p r i v).events = s.events := rfl
@[simp] theorem State.put_host (s : State) (p : PageId) (r : Reg) (i v : Nat) : (s.put p r i v).host = s.host := rfl
@[simp] theorem State.put_belfry (s : State) (p : PageId) (r : Reg) (i v : Nat) : (s.put p r i v).belfry = s.belfry := rfl
@[simp] theorem State.put_links (s : State) (p : PageId) (r : Reg) (i v : Nat) : (s.put p r i v).links = s.links := rfl
@[simp] theorem State.put_d2d (s : State) (p : PageId) (r : Reg) (i v : Nat) : (s.put p r i v).d2d = s.d2d := rfl
@[simp] theorem State.put_reservations (s : State) (p : PageId) (r : Reg) (i v : Nat) : (s.put p r i v).reservations = s.reservations := rfl
@[simp] theorem State.put_routes (s : State) (p : PageId) (r : Reg) (i v : Nat) : (s.put p r i v).routes = s.routes := rfl
@[simp] theorem State.put_opn (s : State) (p : PageId) (r : Reg) (i v : Nat) : (s.put p r i v).opn = s.opn := rfl
@[simp] theorem State.put_arrays (s : State) (p : PageId) (r : Reg) (i v : Nat) : (s.put p r i v).arrays = s.arrays := rfl
@[simp] theorem State.put_fst (s : State) (p : PageId) (r : Reg) (i v : Nat) : (s.put p r i v).fst = s.fst := rfl
@[simp] theorem State.put_watch (s : State) (p : PageId) (r : Reg) (i v : Nat) : (s.put p r i v).watch = s.watch := rfl
@[simp] theorem State.put_bankA (s : State) (p : PageId) (r : Reg) (i v : Nat) : (s.put p r i v).bankA = s.bankA := rfl
@[simp] theorem State.put_bankB (s : State) (p : PageId) (r : Reg) (i v : Nat) : (s.put p r i v).bankB = s.bankB := rfl
@[simp] theorem State.put_sched (s : State) (p : PageId) (r : Reg) (i v : Nat) : (s.put p r i v).sched = s.sched := rfl
@[simp] theorem State.put_runs (s : State) (p : PageId) (r : Reg) (i v : Nat) : (s.put p r i v).runs = s.runs := rfl
@[simp] theorem State.put_frozenNow (s : State) (p : PageId) (r : Reg) (i v : Nat) : (s.put p r i v).frozenNow = s.frozenNow := rfl
@[simp] theorem State.put_atoms (s : State) (p : PageId) (r : Reg) (i v : Nat) : (s.put p r i v).atoms = s.atoms := rfl
@[simp] theorem State.put_waiting (s : State) (p : PageId) (r : Reg) (i v : Nat) : (s.put p r i v).waiting = s.waiting := rfl
@[simp] theorem State.put_movers (s : State) (p : PageId) (r : Reg) (i v : Nat) : (s.put p r i v).movers = s.movers := rfl
@[simp] theorem State.put_roundEnd (s : State) (p : PageId) (r : Reg) (i v : Nat) : (s.put p r i v).roundEnd = s.roundEnd := rfl
@[simp] theorem State.put_tiles (s : State) (p : PageId) (r : Reg) (i v : Nat) : (s.put p r i v).tiles = s.tiles := rfl
@[simp] theorem State.put_ueStep (s : State) (p : PageId) (r : Reg) (i v : Nat) : (s.put p r i v).ueStep = s.ueStep := rfl
@[simp] theorem State.put_keys (s : State) (p : PageId) (r : Reg) (i v : Nat) : (s.put p r i v).keys = s.keys := rfl
@[simp] theorem State.put_meas (s : State) (p : PageId) (r : Reg) (i v : Nat) : (s.put p r i v).meas = s.meas := rfl
@[simp] theorem State.put_scrub (s : State) (p : PageId) (r : Reg) (i v : Nat) : (s.put p r i v).scrub = s.scrub := rfl
@[simp] theorem State.put_spots (s : State) (p : PageId) (r : Reg) (i v : Nat) : (s.put p r i v).spots = s.spots := rfl
@[simp] theorem State.put_margin (s : State) (p : PageId) (r : Reg) (i v : Nat) : (s.put p r i v).margin = s.margin := rfl
@[simp] theorem State.put_power (s : State) (p : PageId) (r : Reg) (i v : Nat) : (s.put p r i v).power = s.power := rfl
@[simp] theorem State.put_fuses (s : State) (p : PageId) (r : Reg) (i v : Nat) : (s.put p r i v).fuses = s.fuses := rfl
@[simp] theorem State.put_vane (s : State) (p : PageId) (r : Reg) (i v : Nat) : (s.put p r i v).vane = s.vane := rfl
@[simp] theorem State.put_trust (s : State) (p : PageId) (r : Reg) (i v : Nat) : (s.put p r i v).trust = s.trust := rfl
@[simp] theorem State.put_sessions (s : State) (p : PageId) (r : Reg) (i v : Nat) : (s.put p r i v).sessions = s.sessions := rfl
@[simp] theorem State.put_opening (s : State) (p : PageId) (r : Reg) (i v : Nat) : (s.put p r i v).opening = s.opening := rfl
@[simp] theorem State.put_answers (s : State) (p : PageId) (r : Reg) (i v : Nat) : (s.put p r i v).answers = s.answers := rfl
@[simp] theorem State.put_streams (s : State) (p : PageId) (r : Reg) (i v : Nat) : (s.put p r i v).streams = s.streams := rfl
@[simp] theorem State.put_windows (s : State) (p : PageId) (r : Reg) (i v : Nat) : (s.put p r i v).windows = s.windows := rfl

@[simp] theorem State.emit_pending (s : State) (o : Output) : (s.emit o).pending = s.pending := rfl
@[simp] theorem State.emit_out (s : State) (o : Output) : (s.emit o).out = s.out ++ [o] := rfl
@[simp] theorem State.emit_free (s : State) (o : Output) : (s.emit o).free = s.free := rfl
@[simp] theorem State.emit_clock (s : State) (o : Output) : (s.emit o).clock = s.clock := rfl
@[simp] theorem State.emit_regs (s : State) (o : Output) : (s.emit o).regs = s.regs := rfl
@[simp] theorem State.emit_staged (s : State) (o : Output) : (s.emit o).staged = s.staged := rfl
@[simp] theorem State.emit_hidden (s : State) (o : Output) : (s.emit o).hidden = s.hidden := rfl
@[simp] theorem State.emit_trip (s : State) (o : Output) : (s.emit o).trip = s.trip := rfl
@[simp] theorem State.emit_rose (s : State) (o : Output) : (s.emit o).rose = s.rose := rfl
@[simp] theorem State.emit_mem (s : State) (o : Output) : (s.emit o).mem = s.mem := rfl
@[simp] theorem State.emit_events (s : State) (o : Output) : (s.emit o).events = s.events := rfl
@[simp] theorem State.emit_host (s : State) (o : Output) : (s.emit o).host = s.host := rfl
@[simp] theorem State.emit_belfry (s : State) (o : Output) : (s.emit o).belfry = s.belfry := rfl
@[simp] theorem State.emit_links (s : State) (o : Output) : (s.emit o).links = s.links := rfl
@[simp] theorem State.emit_d2d (s : State) (o : Output) : (s.emit o).d2d = s.d2d := rfl
@[simp] theorem State.emit_reservations (s : State) (o : Output) : (s.emit o).reservations = s.reservations := rfl
@[simp] theorem State.emit_routes (s : State) (o : Output) : (s.emit o).routes = s.routes := rfl
@[simp] theorem State.emit_opn (s : State) (o : Output) : (s.emit o).opn = s.opn := rfl
@[simp] theorem State.emit_arrays (s : State) (o : Output) : (s.emit o).arrays = s.arrays := rfl
@[simp] theorem State.emit_fst (s : State) (o : Output) : (s.emit o).fst = s.fst := rfl
@[simp] theorem State.emit_watch (s : State) (o : Output) : (s.emit o).watch = s.watch := rfl
@[simp] theorem State.emit_bankA (s : State) (o : Output) : (s.emit o).bankA = s.bankA := rfl
@[simp] theorem State.emit_bankB (s : State) (o : Output) : (s.emit o).bankB = s.bankB := rfl
@[simp] theorem State.emit_sched (s : State) (o : Output) : (s.emit o).sched = s.sched := rfl
@[simp] theorem State.emit_runs (s : State) (o : Output) : (s.emit o).runs = s.runs := rfl
@[simp] theorem State.emit_frozenNow (s : State) (o : Output) : (s.emit o).frozenNow = s.frozenNow := rfl
@[simp] theorem State.emit_atoms (s : State) (o : Output) : (s.emit o).atoms = s.atoms := rfl
@[simp] theorem State.emit_waiting (s : State) (o : Output) : (s.emit o).waiting = s.waiting := rfl
@[simp] theorem State.emit_movers (s : State) (o : Output) : (s.emit o).movers = s.movers := rfl
@[simp] theorem State.emit_roundEnd (s : State) (o : Output) : (s.emit o).roundEnd = s.roundEnd := rfl
@[simp] theorem State.emit_tiles (s : State) (o : Output) : (s.emit o).tiles = s.tiles := rfl
@[simp] theorem State.emit_ueStep (s : State) (o : Output) : (s.emit o).ueStep = s.ueStep := rfl
@[simp] theorem State.emit_keys (s : State) (o : Output) : (s.emit o).keys = s.keys := rfl
@[simp] theorem State.emit_meas (s : State) (o : Output) : (s.emit o).meas = s.meas := rfl
@[simp] theorem State.emit_scrub (s : State) (o : Output) : (s.emit o).scrub = s.scrub := rfl
@[simp] theorem State.emit_spots (s : State) (o : Output) : (s.emit o).spots = s.spots := rfl
@[simp] theorem State.emit_margin (s : State) (o : Output) : (s.emit o).margin = s.margin := rfl
@[simp] theorem State.emit_power (s : State) (o : Output) : (s.emit o).power = s.power := rfl
@[simp] theorem State.emit_fuses (s : State) (o : Output) : (s.emit o).fuses = s.fuses := rfl
@[simp] theorem State.emit_vane (s : State) (o : Output) : (s.emit o).vane = s.vane := rfl
@[simp] theorem State.emit_trust (s : State) (o : Output) : (s.emit o).trust = s.trust := rfl
@[simp] theorem State.emit_sessions (s : State) (o : Output) : (s.emit o).sessions = s.sessions := rfl
@[simp] theorem State.emit_opening (s : State) (o : Output) : (s.emit o).opening = s.opening := rfl
@[simp] theorem State.emit_answers (s : State) (o : Output) : (s.emit o).answers = s.answers := rfl
@[simp] theorem State.emit_streams (s : State) (o : Output) : (s.emit o).streams = s.streams := rfl
@[simp] theorem State.emit_windows (s : State) (o : Output) : (s.emit o).windows = s.windows := rfl

@[simp] theorem State.withPending_pending (s : State) (l : List Instr) : (s.withPending l).pending = l := rfl
@[simp] theorem State.withPending_out (s : State) (l : List Instr) : (s.withPending l).out = s.out := rfl
@[simp] theorem State.withPending_free (s : State) (l : List Instr) : (s.withPending l).free = s.free := rfl
@[simp] theorem State.withPending_clock (s : State) (l : List Instr) : (s.withPending l).clock = s.clock := rfl
@[simp] theorem State.withPending_regs (s : State) (l : List Instr) : (s.withPending l).regs = s.regs := rfl
@[simp] theorem State.withPending_staged (s : State) (l : List Instr) : (s.withPending l).staged = s.staged := rfl
@[simp] theorem State.withPending_hidden (s : State) (l : List Instr) : (s.withPending l).hidden = s.hidden := rfl
@[simp] theorem State.withPending_trip (s : State) (l : List Instr) : (s.withPending l).trip = s.trip := rfl
@[simp] theorem State.withPending_rose (s : State) (l : List Instr) : (s.withPending l).rose = s.rose := rfl
@[simp] theorem State.withPending_mem (s : State) (l : List Instr) : (s.withPending l).mem = s.mem := rfl
@[simp] theorem State.withPending_events (s : State) (l : List Instr) : (s.withPending l).events = s.events := rfl
@[simp] theorem State.withPending_host (s : State) (l : List Instr) : (s.withPending l).host = s.host := rfl
@[simp] theorem State.withPending_belfry (s : State) (l : List Instr) : (s.withPending l).belfry = s.belfry := rfl
@[simp] theorem State.withPending_links (s : State) (l : List Instr) : (s.withPending l).links = s.links := rfl
@[simp] theorem State.withPending_d2d (s : State) (l : List Instr) : (s.withPending l).d2d = s.d2d := rfl
@[simp] theorem State.withPending_reservations (s : State) (l : List Instr) : (s.withPending l).reservations = s.reservations := rfl
@[simp] theorem State.withPending_routes (s : State) (l : List Instr) : (s.withPending l).routes = s.routes := rfl
@[simp] theorem State.withPending_opn (s : State) (l : List Instr) : (s.withPending l).opn = s.opn := rfl
@[simp] theorem State.withPending_arrays (s : State) (l : List Instr) : (s.withPending l).arrays = s.arrays := rfl
@[simp] theorem State.withPending_fst (s : State) (l : List Instr) : (s.withPending l).fst = s.fst := rfl
@[simp] theorem State.withPending_watch (s : State) (l : List Instr) : (s.withPending l).watch = s.watch := rfl
@[simp] theorem State.withPending_bankA (s : State) (l : List Instr) : (s.withPending l).bankA = s.bankA := rfl
@[simp] theorem State.withPending_bankB (s : State) (l : List Instr) : (s.withPending l).bankB = s.bankB := rfl
@[simp] theorem State.withPending_sched (s : State) (l : List Instr) : (s.withPending l).sched = s.sched := rfl
@[simp] theorem State.withPending_runs (s : State) (l : List Instr) : (s.withPending l).runs = s.runs := rfl
@[simp] theorem State.withPending_frozenNow (s : State) (l : List Instr) : (s.withPending l).frozenNow = s.frozenNow := rfl
@[simp] theorem State.withPending_atoms (s : State) (l : List Instr) : (s.withPending l).atoms = s.atoms := rfl
@[simp] theorem State.withPending_waiting (s : State) (l : List Instr) : (s.withPending l).waiting = s.waiting := rfl
@[simp] theorem State.withPending_movers (s : State) (l : List Instr) : (s.withPending l).movers = s.movers := rfl
@[simp] theorem State.withPending_roundEnd (s : State) (l : List Instr) : (s.withPending l).roundEnd = s.roundEnd := rfl
@[simp] theorem State.withPending_tiles (s : State) (l : List Instr) : (s.withPending l).tiles = s.tiles := rfl
@[simp] theorem State.withPending_ueStep (s : State) (l : List Instr) : (s.withPending l).ueStep = s.ueStep := rfl
@[simp] theorem State.withPending_keys (s : State) (l : List Instr) : (s.withPending l).keys = s.keys := rfl
@[simp] theorem State.withPending_meas (s : State) (l : List Instr) : (s.withPending l).meas = s.meas := rfl
@[simp] theorem State.withPending_scrub (s : State) (l : List Instr) : (s.withPending l).scrub = s.scrub := rfl
@[simp] theorem State.withPending_spots (s : State) (l : List Instr) : (s.withPending l).spots = s.spots := rfl
@[simp] theorem State.withPending_margin (s : State) (l : List Instr) : (s.withPending l).margin = s.margin := rfl
@[simp] theorem State.withPending_power (s : State) (l : List Instr) : (s.withPending l).power = s.power := rfl
@[simp] theorem State.withPending_fuses (s : State) (l : List Instr) : (s.withPending l).fuses = s.fuses := rfl
@[simp] theorem State.withPending_vane (s : State) (l : List Instr) : (s.withPending l).vane = s.vane := rfl
@[simp] theorem State.withPending_trust (s : State) (l : List Instr) : (s.withPending l).trust = s.trust := rfl
@[simp] theorem State.withPending_sessions (s : State) (l : List Instr) : (s.withPending l).sessions = s.sessions := rfl
@[simp] theorem State.withPending_opening (s : State) (l : List Instr) : (s.withPending l).opening = s.opening := rfl
@[simp] theorem State.withPending_answers (s : State) (l : List Instr) : (s.withPending l).answers = s.answers := rfl
@[simp] theorem State.withPending_streams (s : State) (l : List Instr) : (s.withPending l).streams = s.streams := rfl
@[simp] theorem State.withPending_windows (s : State) (l : List Instr) : (s.withPending l).windows = s.windows := rfl

@[simp] theorem State.idle_pending (s : State) : (s.idle).pending = s.pending := rfl
@[simp] theorem State.idle_out (s : State) : (s.idle).out = s.out := rfl
@[simp] theorem State.idle_free (s : State) : (s.idle).free = s.free := rfl
@[simp] theorem State.idle_clock (s : State) : (s.idle).clock = s.clock + 1 := rfl
@[simp] theorem State.idle_regs (s : State) : (s.idle).regs = s.regs := rfl
@[simp] theorem State.idle_staged (s : State) : (s.idle).staged = s.staged := rfl
@[simp] theorem State.idle_hidden (s : State) : (s.idle).hidden = s.hidden := rfl
@[simp] theorem State.idle_trip (s : State) : (s.idle).trip = s.trip := rfl
@[simp] theorem State.idle_rose (s : State) : (s.idle).rose = s.rose := rfl
@[simp] theorem State.idle_mem (s : State) : (s.idle).mem = s.mem := rfl
@[simp] theorem State.idle_events (s : State) : (s.idle).events = s.events := rfl
@[simp] theorem State.idle_host (s : State) : (s.idle).host = s.host := rfl
@[simp] theorem State.idle_belfry (s : State) : (s.idle).belfry = s.belfry := rfl
@[simp] theorem State.idle_links (s : State) : (s.idle).links = s.links := rfl
@[simp] theorem State.idle_d2d (s : State) : (s.idle).d2d = s.d2d := rfl
@[simp] theorem State.idle_reservations (s : State) : (s.idle).reservations = s.reservations := rfl
@[simp] theorem State.idle_routes (s : State) : (s.idle).routes = s.routes := rfl
@[simp] theorem State.idle_opn (s : State) : (s.idle).opn = s.opn := rfl
@[simp] theorem State.idle_arrays (s : State) : (s.idle).arrays = s.arrays := rfl
@[simp] theorem State.idle_fst (s : State) : (s.idle).fst = s.fst := rfl
@[simp] theorem State.idle_watch (s : State) : (s.idle).watch = s.watch := rfl
@[simp] theorem State.idle_bankA (s : State) : (s.idle).bankA = s.bankA := rfl
@[simp] theorem State.idle_bankB (s : State) : (s.idle).bankB = s.bankB := rfl
@[simp] theorem State.idle_sched (s : State) : (s.idle).sched = s.sched := rfl
@[simp] theorem State.idle_runs (s : State) : (s.idle).runs = s.runs := rfl
@[simp] theorem State.idle_frozenNow (s : State) : (s.idle).frozenNow = s.frozenNow := rfl
@[simp] theorem State.idle_atoms (s : State) : (s.idle).atoms = s.atoms := rfl
@[simp] theorem State.idle_waiting (s : State) : (s.idle).waiting = s.waiting := rfl
@[simp] theorem State.idle_movers (s : State) : (s.idle).movers = s.movers := rfl
@[simp] theorem State.idle_roundEnd (s : State) : (s.idle).roundEnd = s.roundEnd := rfl
@[simp] theorem State.idle_tiles (s : State) : (s.idle).tiles = s.tiles := rfl
@[simp] theorem State.idle_ueStep (s : State) : (s.idle).ueStep = s.ueStep := rfl
@[simp] theorem State.idle_keys (s : State) : (s.idle).keys = s.keys := rfl
@[simp] theorem State.idle_meas (s : State) : (s.idle).meas = s.meas := rfl
@[simp] theorem State.idle_scrub (s : State) : (s.idle).scrub = s.scrub := rfl
@[simp] theorem State.idle_spots (s : State) : (s.idle).spots = s.spots := rfl
@[simp] theorem State.idle_margin (s : State) : (s.idle).margin = s.margin := rfl
@[simp] theorem State.idle_power (s : State) : (s.idle).power = s.power := rfl
@[simp] theorem State.idle_fuses (s : State) : (s.idle).fuses = s.fuses := rfl
@[simp] theorem State.idle_vane (s : State) : (s.idle).vane = s.vane := rfl
@[simp] theorem State.idle_trust (s : State) : (s.idle).trust = s.trust := rfl
@[simp] theorem State.idle_sessions (s : State) : (s.idle).sessions = s.sessions := rfl
@[simp] theorem State.idle_opening (s : State) : (s.idle).opening = s.opening := rfl
@[simp] theorem State.idle_answers (s : State) : (s.idle).answers = s.answers := rfl
@[simp] theorem State.idle_streams (s : State) : (s.idle).streams = s.streams := rfl
@[simp] theorem State.idle_windows (s : State) : (s.idle).windows = s.windows := rfl

@[simp] theorem State.setBelfry_pending (s : State) (b : Belfry) : (s.setBelfry b).pending = s.pending := rfl
@[simp] theorem State.setBelfry_out (s : State) (b : Belfry) : (s.setBelfry b).out = s.out := rfl
@[simp] theorem State.setBelfry_free (s : State) (b : Belfry) : (s.setBelfry b).free = s.free := rfl
@[simp] theorem State.setBelfry_clock (s : State) (b : Belfry) : (s.setBelfry b).clock = s.clock := rfl
@[simp] theorem State.setBelfry_regs (s : State) (b : Belfry) : (s.setBelfry b).regs = s.regs := rfl
@[simp] theorem State.setBelfry_staged (s : State) (b : Belfry) : (s.setBelfry b).staged = s.staged := rfl
@[simp] theorem State.setBelfry_hidden (s : State) (b : Belfry) : (s.setBelfry b).hidden = s.hidden := rfl
@[simp] theorem State.setBelfry_trip (s : State) (b : Belfry) : (s.setBelfry b).trip = s.trip := rfl
@[simp] theorem State.setBelfry_rose (s : State) (b : Belfry) : (s.setBelfry b).rose = s.rose := rfl
@[simp] theorem State.setBelfry_mem (s : State) (b : Belfry) : (s.setBelfry b).mem = s.mem := rfl
@[simp] theorem State.setBelfry_events (s : State) (b : Belfry) : (s.setBelfry b).events = s.events := rfl
@[simp] theorem State.setBelfry_host (s : State) (b : Belfry) : (s.setBelfry b).host = s.host := rfl
@[simp] theorem State.setBelfry_belfry (s : State) (b : Belfry) : (s.setBelfry b).belfry = b := rfl
@[simp] theorem State.setBelfry_links (s : State) (b : Belfry) : (s.setBelfry b).links = s.links := rfl
@[simp] theorem State.setBelfry_d2d (s : State) (b : Belfry) : (s.setBelfry b).d2d = s.d2d := rfl
@[simp] theorem State.setBelfry_reservations (s : State) (b : Belfry) : (s.setBelfry b).reservations = s.reservations := rfl
@[simp] theorem State.setBelfry_routes (s : State) (b : Belfry) : (s.setBelfry b).routes = s.routes := rfl
@[simp] theorem State.setBelfry_opn (s : State) (b : Belfry) : (s.setBelfry b).opn = s.opn := rfl
@[simp] theorem State.setBelfry_arrays (s : State) (b : Belfry) : (s.setBelfry b).arrays = s.arrays := rfl
@[simp] theorem State.setBelfry_fst (s : State) (b : Belfry) : (s.setBelfry b).fst = s.fst := rfl
@[simp] theorem State.setBelfry_watch (s : State) (b : Belfry) : (s.setBelfry b).watch = s.watch := rfl
@[simp] theorem State.setBelfry_bankA (s : State) (b : Belfry) : (s.setBelfry b).bankA = s.bankA := rfl
@[simp] theorem State.setBelfry_bankB (s : State) (b : Belfry) : (s.setBelfry b).bankB = s.bankB := rfl
@[simp] theorem State.setBelfry_sched (s : State) (b : Belfry) : (s.setBelfry b).sched = s.sched := rfl
@[simp] theorem State.setBelfry_runs (s : State) (b : Belfry) : (s.setBelfry b).runs = s.runs := rfl
@[simp] theorem State.setBelfry_frozenNow (s : State) (b : Belfry) : (s.setBelfry b).frozenNow = s.frozenNow := rfl
@[simp] theorem State.setBelfry_atoms (s : State) (b : Belfry) : (s.setBelfry b).atoms = s.atoms := rfl
@[simp] theorem State.setBelfry_waiting (s : State) (b : Belfry) : (s.setBelfry b).waiting = s.waiting := rfl
@[simp] theorem State.setBelfry_movers (s : State) (b : Belfry) : (s.setBelfry b).movers = s.movers := rfl
@[simp] theorem State.setBelfry_roundEnd (s : State) (b : Belfry) : (s.setBelfry b).roundEnd = s.roundEnd := rfl
@[simp] theorem State.setBelfry_tiles (s : State) (b : Belfry) : (s.setBelfry b).tiles = s.tiles := rfl
@[simp] theorem State.setBelfry_ueStep (s : State) (b : Belfry) : (s.setBelfry b).ueStep = s.ueStep := rfl
@[simp] theorem State.setBelfry_keys (s : State) (b : Belfry) : (s.setBelfry b).keys = s.keys := rfl
@[simp] theorem State.setBelfry_meas (s : State) (b : Belfry) : (s.setBelfry b).meas = s.meas := rfl
@[simp] theorem State.setBelfry_scrub (s : State) (b : Belfry) : (s.setBelfry b).scrub = s.scrub := rfl
@[simp] theorem State.setBelfry_spots (s : State) (b : Belfry) : (s.setBelfry b).spots = s.spots := rfl
@[simp] theorem State.setBelfry_margin (s : State) (b : Belfry) : (s.setBelfry b).margin = s.margin := rfl
@[simp] theorem State.setBelfry_power (s : State) (b : Belfry) : (s.setBelfry b).power = s.power := rfl
@[simp] theorem State.setBelfry_fuses (s : State) (b : Belfry) : (s.setBelfry b).fuses = s.fuses := rfl
@[simp] theorem State.setBelfry_vane (s : State) (b : Belfry) : (s.setBelfry b).vane = s.vane := rfl
@[simp] theorem State.setBelfry_trust (s : State) (b : Belfry) : (s.setBelfry b).trust = s.trust := rfl
@[simp] theorem State.setBelfry_sessions (s : State) (b : Belfry) : (s.setBelfry b).sessions = s.sessions := rfl
@[simp] theorem State.setBelfry_opening (s : State) (b : Belfry) : (s.setBelfry b).opening = s.opening := rfl
@[simp] theorem State.setBelfry_answers (s : State) (b : Belfry) : (s.setBelfry b).answers = s.answers := rfl
@[simp] theorem State.setBelfry_streams (s : State) (b : Belfry) : (s.setBelfry b).streams = s.streams := rfl
@[simp] theorem State.setBelfry_windows (s : State) (b : Belfry) : (s.setBelfry b).windows = s.windows := rfl

@[simp] theorem State.setWatch_pending (s : State) (w : Watch) : (s.setWatch w).pending = s.pending := rfl
@[simp] theorem State.setWatch_out (s : State) (w : Watch) : (s.setWatch w).out = s.out := rfl
@[simp] theorem State.setWatch_free (s : State) (w : Watch) : (s.setWatch w).free = s.free := rfl
@[simp] theorem State.setWatch_clock (s : State) (w : Watch) : (s.setWatch w).clock = s.clock := rfl
@[simp] theorem State.setWatch_regs (s : State) (w : Watch) : (s.setWatch w).regs = s.regs := rfl
@[simp] theorem State.setWatch_staged (s : State) (w : Watch) : (s.setWatch w).staged = s.staged := rfl
@[simp] theorem State.setWatch_hidden (s : State) (w : Watch) : (s.setWatch w).hidden = s.hidden := rfl
@[simp] theorem State.setWatch_trip (s : State) (w : Watch) : (s.setWatch w).trip = s.trip := rfl
@[simp] theorem State.setWatch_rose (s : State) (w : Watch) : (s.setWatch w).rose = s.rose := rfl
@[simp] theorem State.setWatch_mem (s : State) (w : Watch) : (s.setWatch w).mem = s.mem := rfl
@[simp] theorem State.setWatch_events (s : State) (w : Watch) : (s.setWatch w).events = s.events := rfl
@[simp] theorem State.setWatch_host (s : State) (w : Watch) : (s.setWatch w).host = s.host := rfl
@[simp] theorem State.setWatch_belfry (s : State) (w : Watch) : (s.setWatch w).belfry = s.belfry := rfl
@[simp] theorem State.setWatch_links (s : State) (w : Watch) : (s.setWatch w).links = s.links := rfl
@[simp] theorem State.setWatch_d2d (s : State) (w : Watch) : (s.setWatch w).d2d = s.d2d := rfl
@[simp] theorem State.setWatch_reservations (s : State) (w : Watch) : (s.setWatch w).reservations = s.reservations := rfl
@[simp] theorem State.setWatch_routes (s : State) (w : Watch) : (s.setWatch w).routes = s.routes := rfl
@[simp] theorem State.setWatch_opn (s : State) (w : Watch) : (s.setWatch w).opn = s.opn := rfl
@[simp] theorem State.setWatch_arrays (s : State) (w : Watch) : (s.setWatch w).arrays = s.arrays := rfl
@[simp] theorem State.setWatch_fst (s : State) (w : Watch) : (s.setWatch w).fst = s.fst := rfl
@[simp] theorem State.setWatch_watch (s : State) (w : Watch) : (s.setWatch w).watch = w := rfl
@[simp] theorem State.setWatch_bankA (s : State) (w : Watch) : (s.setWatch w).bankA = s.bankA := rfl
@[simp] theorem State.setWatch_bankB (s : State) (w : Watch) : (s.setWatch w).bankB = s.bankB := rfl
@[simp] theorem State.setWatch_sched (s : State) (w : Watch) : (s.setWatch w).sched = s.sched := rfl
@[simp] theorem State.setWatch_runs (s : State) (w : Watch) : (s.setWatch w).runs = s.runs := rfl
@[simp] theorem State.setWatch_frozenNow (s : State) (w : Watch) : (s.setWatch w).frozenNow = s.frozenNow := rfl
@[simp] theorem State.setWatch_atoms (s : State) (w : Watch) : (s.setWatch w).atoms = s.atoms := rfl
@[simp] theorem State.setWatch_waiting (s : State) (w : Watch) : (s.setWatch w).waiting = s.waiting := rfl
@[simp] theorem State.setWatch_movers (s : State) (w : Watch) : (s.setWatch w).movers = s.movers := rfl
@[simp] theorem State.setWatch_roundEnd (s : State) (w : Watch) : (s.setWatch w).roundEnd = s.roundEnd := rfl
@[simp] theorem State.setWatch_tiles (s : State) (w : Watch) : (s.setWatch w).tiles = s.tiles := rfl
@[simp] theorem State.setWatch_ueStep (s : State) (w : Watch) : (s.setWatch w).ueStep = s.ueStep := rfl
@[simp] theorem State.setWatch_keys (s : State) (w : Watch) : (s.setWatch w).keys = s.keys := rfl
@[simp] theorem State.setWatch_meas (s : State) (w : Watch) : (s.setWatch w).meas = s.meas := rfl
@[simp] theorem State.setWatch_scrub (s : State) (w : Watch) : (s.setWatch w).scrub = s.scrub := rfl
@[simp] theorem State.setWatch_spots (s : State) (w : Watch) : (s.setWatch w).spots = s.spots := rfl
@[simp] theorem State.setWatch_margin (s : State) (w : Watch) : (s.setWatch w).margin = s.margin := rfl
@[simp] theorem State.setWatch_power (s : State) (w : Watch) : (s.setWatch w).power = s.power := rfl
@[simp] theorem State.setWatch_fuses (s : State) (w : Watch) : (s.setWatch w).fuses = s.fuses := rfl
@[simp] theorem State.setWatch_vane (s : State) (w : Watch) : (s.setWatch w).vane = s.vane := rfl
@[simp] theorem State.setWatch_trust (s : State) (w : Watch) : (s.setWatch w).trust = s.trust := rfl
@[simp] theorem State.setWatch_sessions (s : State) (w : Watch) : (s.setWatch w).sessions = s.sessions := rfl
@[simp] theorem State.setWatch_opening (s : State) (w : Watch) : (s.setWatch w).opening = s.opening := rfl
@[simp] theorem State.setWatch_answers (s : State) (w : Watch) : (s.setWatch w).answers = s.answers := rfl
@[simp] theorem State.setWatch_streams (s : State) (w : Watch) : (s.setWatch w).streams = s.streams := rfl
@[simp] theorem State.setWatch_windows (s : State) (w : Watch) : (s.setWatch w).windows = s.windows := rfl

@[simp] theorem State.setSched_pending (s : State) (x : Sched) : (s.setSched x).pending = s.pending := rfl
@[simp] theorem State.setSched_out (s : State) (x : Sched) : (s.setSched x).out = s.out := rfl
@[simp] theorem State.setSched_free (s : State) (x : Sched) : (s.setSched x).free = s.free := rfl
@[simp] theorem State.setSched_clock (s : State) (x : Sched) : (s.setSched x).clock = s.clock := rfl
@[simp] theorem State.setSched_regs (s : State) (x : Sched) : (s.setSched x).regs = s.regs := rfl
@[simp] theorem State.setSched_staged (s : State) (x : Sched) : (s.setSched x).staged = s.staged := rfl
@[simp] theorem State.setSched_hidden (s : State) (x : Sched) : (s.setSched x).hidden = s.hidden := rfl
@[simp] theorem State.setSched_trip (s : State) (x : Sched) : (s.setSched x).trip = s.trip := rfl
@[simp] theorem State.setSched_rose (s : State) (x : Sched) : (s.setSched x).rose = s.rose := rfl
@[simp] theorem State.setSched_mem (s : State) (x : Sched) : (s.setSched x).mem = s.mem := rfl
@[simp] theorem State.setSched_events (s : State) (x : Sched) : (s.setSched x).events = s.events := rfl
@[simp] theorem State.setSched_host (s : State) (x : Sched) : (s.setSched x).host = s.host := rfl
@[simp] theorem State.setSched_belfry (s : State) (x : Sched) : (s.setSched x).belfry = s.belfry := rfl
@[simp] theorem State.setSched_links (s : State) (x : Sched) : (s.setSched x).links = s.links := rfl
@[simp] theorem State.setSched_d2d (s : State) (x : Sched) : (s.setSched x).d2d = s.d2d := rfl
@[simp] theorem State.setSched_reservations (s : State) (x : Sched) : (s.setSched x).reservations = s.reservations := rfl
@[simp] theorem State.setSched_routes (s : State) (x : Sched) : (s.setSched x).routes = s.routes := rfl
@[simp] theorem State.setSched_opn (s : State) (x : Sched) : (s.setSched x).opn = s.opn := rfl
@[simp] theorem State.setSched_arrays (s : State) (x : Sched) : (s.setSched x).arrays = s.arrays := rfl
@[simp] theorem State.setSched_fst (s : State) (x : Sched) : (s.setSched x).fst = s.fst := rfl
@[simp] theorem State.setSched_watch (s : State) (x : Sched) : (s.setSched x).watch = s.watch := rfl
@[simp] theorem State.setSched_bankA (s : State) (x : Sched) : (s.setSched x).bankA = s.bankA := rfl
@[simp] theorem State.setSched_bankB (s : State) (x : Sched) : (s.setSched x).bankB = s.bankB := rfl
@[simp] theorem State.setSched_sched (s : State) (x : Sched) : (s.setSched x).sched = x := rfl
@[simp] theorem State.setSched_runs (s : State) (x : Sched) : (s.setSched x).runs = s.runs := rfl
@[simp] theorem State.setSched_frozenNow (s : State) (x : Sched) : (s.setSched x).frozenNow = s.frozenNow := rfl
@[simp] theorem State.setSched_atoms (s : State) (x : Sched) : (s.setSched x).atoms = s.atoms := rfl
@[simp] theorem State.setSched_waiting (s : State) (x : Sched) : (s.setSched x).waiting = s.waiting := rfl
@[simp] theorem State.setSched_movers (s : State) (x : Sched) : (s.setSched x).movers = s.movers := rfl
@[simp] theorem State.setSched_roundEnd (s : State) (x : Sched) : (s.setSched x).roundEnd = s.roundEnd := rfl
@[simp] theorem State.setSched_tiles (s : State) (x : Sched) : (s.setSched x).tiles = s.tiles := rfl
@[simp] theorem State.setSched_ueStep (s : State) (x : Sched) : (s.setSched x).ueStep = s.ueStep := rfl
@[simp] theorem State.setSched_keys (s : State) (x : Sched) : (s.setSched x).keys = s.keys := rfl
@[simp] theorem State.setSched_meas (s : State) (x : Sched) : (s.setSched x).meas = s.meas := rfl
@[simp] theorem State.setSched_scrub (s : State) (x : Sched) : (s.setSched x).scrub = s.scrub := rfl
@[simp] theorem State.setSched_spots (s : State) (x : Sched) : (s.setSched x).spots = s.spots := rfl
@[simp] theorem State.setSched_margin (s : State) (x : Sched) : (s.setSched x).margin = s.margin := rfl
@[simp] theorem State.setSched_power (s : State) (x : Sched) : (s.setSched x).power = s.power := rfl
@[simp] theorem State.setSched_fuses (s : State) (x : Sched) : (s.setSched x).fuses = s.fuses := rfl
@[simp] theorem State.setSched_vane (s : State) (x : Sched) : (s.setSched x).vane = s.vane := rfl
@[simp] theorem State.setSched_trust (s : State) (x : Sched) : (s.setSched x).trust = s.trust := rfl
@[simp] theorem State.setSched_sessions (s : State) (x : Sched) : (s.setSched x).sessions = s.sessions := rfl
@[simp] theorem State.setSched_opening (s : State) (x : Sched) : (s.setSched x).opening = s.opening := rfl
@[simp] theorem State.setSched_answers (s : State) (x : Sched) : (s.setSched x).answers = s.answers := rfl
@[simp] theorem State.setSched_streams (s : State) (x : Sched) : (s.setSched x).streams = s.streams := rfl
@[simp] theorem State.setSched_windows (s : State) (x : Sched) : (s.setSched x).windows = s.windows := rfl

@[simp] theorem State.setVane_pending (s : State) (v : Vane) : (s.setVane v).pending = s.pending := rfl
@[simp] theorem State.setVane_out (s : State) (v : Vane) : (s.setVane v).out = s.out := rfl
@[simp] theorem State.setVane_free (s : State) (v : Vane) : (s.setVane v).free = s.free := rfl
@[simp] theorem State.setVane_clock (s : State) (v : Vane) : (s.setVane v).clock = s.clock := rfl
@[simp] theorem State.setVane_regs (s : State) (v : Vane) : (s.setVane v).regs = s.regs := rfl
@[simp] theorem State.setVane_staged (s : State) (v : Vane) : (s.setVane v).staged = s.staged := rfl
@[simp] theorem State.setVane_hidden (s : State) (v : Vane) : (s.setVane v).hidden = s.hidden := rfl
@[simp] theorem State.setVane_trip (s : State) (v : Vane) : (s.setVane v).trip = s.trip := rfl
@[simp] theorem State.setVane_rose (s : State) (v : Vane) : (s.setVane v).rose = s.rose := rfl
@[simp] theorem State.setVane_mem (s : State) (v : Vane) : (s.setVane v).mem = s.mem := rfl
@[simp] theorem State.setVane_events (s : State) (v : Vane) : (s.setVane v).events = s.events := rfl
@[simp] theorem State.setVane_host (s : State) (v : Vane) : (s.setVane v).host = s.host := rfl
@[simp] theorem State.setVane_belfry (s : State) (v : Vane) : (s.setVane v).belfry = s.belfry := rfl
@[simp] theorem State.setVane_links (s : State) (v : Vane) : (s.setVane v).links = s.links := rfl
@[simp] theorem State.setVane_d2d (s : State) (v : Vane) : (s.setVane v).d2d = s.d2d := rfl
@[simp] theorem State.setVane_reservations (s : State) (v : Vane) : (s.setVane v).reservations = s.reservations := rfl
@[simp] theorem State.setVane_routes (s : State) (v : Vane) : (s.setVane v).routes = s.routes := rfl
@[simp] theorem State.setVane_opn (s : State) (v : Vane) : (s.setVane v).opn = s.opn := rfl
@[simp] theorem State.setVane_arrays (s : State) (v : Vane) : (s.setVane v).arrays = s.arrays := rfl
@[simp] theorem State.setVane_fst (s : State) (v : Vane) : (s.setVane v).fst = s.fst := rfl
@[simp] theorem State.setVane_watch (s : State) (v : Vane) : (s.setVane v).watch = s.watch := rfl
@[simp] theorem State.setVane_bankA (s : State) (v : Vane) : (s.setVane v).bankA = s.bankA := rfl
@[simp] theorem State.setVane_bankB (s : State) (v : Vane) : (s.setVane v).bankB = s.bankB := rfl
@[simp] theorem State.setVane_sched (s : State) (v : Vane) : (s.setVane v).sched = s.sched := rfl
@[simp] theorem State.setVane_runs (s : State) (v : Vane) : (s.setVane v).runs = s.runs := rfl
@[simp] theorem State.setVane_frozenNow (s : State) (v : Vane) : (s.setVane v).frozenNow = s.frozenNow := rfl
@[simp] theorem State.setVane_atoms (s : State) (v : Vane) : (s.setVane v).atoms = s.atoms := rfl
@[simp] theorem State.setVane_waiting (s : State) (v : Vane) : (s.setVane v).waiting = s.waiting := rfl
@[simp] theorem State.setVane_movers (s : State) (v : Vane) : (s.setVane v).movers = s.movers := rfl
@[simp] theorem State.setVane_roundEnd (s : State) (v : Vane) : (s.setVane v).roundEnd = s.roundEnd := rfl
@[simp] theorem State.setVane_tiles (s : State) (v : Vane) : (s.setVane v).tiles = s.tiles := rfl
@[simp] theorem State.setVane_ueStep (s : State) (v : Vane) : (s.setVane v).ueStep = s.ueStep := rfl
@[simp] theorem State.setVane_keys (s : State) (v : Vane) : (s.setVane v).keys = s.keys := rfl
@[simp] theorem State.setVane_meas (s : State) (v : Vane) : (s.setVane v).meas = s.meas := rfl
@[simp] theorem State.setVane_scrub (s : State) (v : Vane) : (s.setVane v).scrub = s.scrub := rfl
@[simp] theorem State.setVane_spots (s : State) (v : Vane) : (s.setVane v).spots = s.spots := rfl
@[simp] theorem State.setVane_margin (s : State) (v : Vane) : (s.setVane v).margin = s.margin := rfl
@[simp] theorem State.setVane_power (s : State) (v : Vane) : (s.setVane v).power = s.power := rfl
@[simp] theorem State.setVane_fuses (s : State) (v : Vane) : (s.setVane v).fuses = s.fuses := rfl
@[simp] theorem State.setVane_vane (s : State) (v : Vane) : (s.setVane v).vane = v := rfl
@[simp] theorem State.setVane_trust (s : State) (v : Vane) : (s.setVane v).trust = s.trust := rfl
@[simp] theorem State.setVane_sessions (s : State) (v : Vane) : (s.setVane v).sessions = s.sessions := rfl
@[simp] theorem State.setVane_opening (s : State) (v : Vane) : (s.setVane v).opening = s.opening := rfl
@[simp] theorem State.setVane_answers (s : State) (v : Vane) : (s.setVane v).answers = s.answers := rfl
@[simp] theorem State.setVane_streams (s : State) (v : Vane) : (s.setVane v).streams = s.streams := rfl
@[simp] theorem State.setVane_windows (s : State) (v : Vane) : (s.setVane v).windows = s.windows := rfl

@[simp] theorem State.setLink_pending (s : State) (l : Nat) (x : Link) : (s.setLink l x).pending = s.pending := rfl
@[simp] theorem State.setLink_out (s : State) (l : Nat) (x : Link) : (s.setLink l x).out = s.out := rfl
@[simp] theorem State.setLink_free (s : State) (l : Nat) (x : Link) : (s.setLink l x).free = s.free := rfl
@[simp] theorem State.setLink_clock (s : State) (l : Nat) (x : Link) : (s.setLink l x).clock = s.clock := rfl
@[simp] theorem State.setLink_regs (s : State) (l : Nat) (x : Link) : (s.setLink l x).regs = s.regs := rfl
@[simp] theorem State.setLink_staged (s : State) (l : Nat) (x : Link) : (s.setLink l x).staged = s.staged := rfl
@[simp] theorem State.setLink_hidden (s : State) (l : Nat) (x : Link) : (s.setLink l x).hidden = s.hidden := rfl
@[simp] theorem State.setLink_trip (s : State) (l : Nat) (x : Link) : (s.setLink l x).trip = s.trip := rfl
@[simp] theorem State.setLink_rose (s : State) (l : Nat) (x : Link) : (s.setLink l x).rose = s.rose := rfl
@[simp] theorem State.setLink_mem (s : State) (l : Nat) (x : Link) : (s.setLink l x).mem = s.mem := rfl
@[simp] theorem State.setLink_events (s : State) (l : Nat) (x : Link) : (s.setLink l x).events = s.events := rfl
@[simp] theorem State.setLink_host (s : State) (l : Nat) (x : Link) : (s.setLink l x).host = s.host := rfl
@[simp] theorem State.setLink_belfry (s : State) (l : Nat) (x : Link) : (s.setLink l x).belfry = s.belfry := rfl
@[simp] theorem State.setLink_links (s : State) (l : Nat) (x : Link) : (s.setLink l x).links = AL.put s.links l x := rfl
@[simp] theorem State.setLink_d2d (s : State) (l : Nat) (x : Link) : (s.setLink l x).d2d = s.d2d := rfl
@[simp] theorem State.setLink_reservations (s : State) (l : Nat) (x : Link) : (s.setLink l x).reservations = s.reservations := rfl
@[simp] theorem State.setLink_routes (s : State) (l : Nat) (x : Link) : (s.setLink l x).routes = s.routes := rfl
@[simp] theorem State.setLink_opn (s : State) (l : Nat) (x : Link) : (s.setLink l x).opn = s.opn := rfl
@[simp] theorem State.setLink_arrays (s : State) (l : Nat) (x : Link) : (s.setLink l x).arrays = s.arrays := rfl
@[simp] theorem State.setLink_fst (s : State) (l : Nat) (x : Link) : (s.setLink l x).fst = s.fst := rfl
@[simp] theorem State.setLink_watch (s : State) (l : Nat) (x : Link) : (s.setLink l x).watch = s.watch := rfl
@[simp] theorem State.setLink_bankA (s : State) (l : Nat) (x : Link) : (s.setLink l x).bankA = s.bankA := rfl
@[simp] theorem State.setLink_bankB (s : State) (l : Nat) (x : Link) : (s.setLink l x).bankB = s.bankB := rfl
@[simp] theorem State.setLink_sched (s : State) (l : Nat) (x : Link) : (s.setLink l x).sched = s.sched := rfl
@[simp] theorem State.setLink_runs (s : State) (l : Nat) (x : Link) : (s.setLink l x).runs = s.runs := rfl
@[simp] theorem State.setLink_frozenNow (s : State) (l : Nat) (x : Link) : (s.setLink l x).frozenNow = s.frozenNow := rfl
@[simp] theorem State.setLink_atoms (s : State) (l : Nat) (x : Link) : (s.setLink l x).atoms = s.atoms := rfl
@[simp] theorem State.setLink_waiting (s : State) (l : Nat) (x : Link) : (s.setLink l x).waiting = s.waiting := rfl
@[simp] theorem State.setLink_movers (s : State) (l : Nat) (x : Link) : (s.setLink l x).movers = s.movers := rfl
@[simp] theorem State.setLink_roundEnd (s : State) (l : Nat) (x : Link) : (s.setLink l x).roundEnd = s.roundEnd := rfl
@[simp] theorem State.setLink_tiles (s : State) (l : Nat) (x : Link) : (s.setLink l x).tiles = s.tiles := rfl
@[simp] theorem State.setLink_ueStep (s : State) (l : Nat) (x : Link) : (s.setLink l x).ueStep = s.ueStep := rfl
@[simp] theorem State.setLink_keys (s : State) (l : Nat) (x : Link) : (s.setLink l x).keys = s.keys := rfl
@[simp] theorem State.setLink_meas (s : State) (l : Nat) (x : Link) : (s.setLink l x).meas = s.meas := rfl
@[simp] theorem State.setLink_scrub (s : State) (l : Nat) (x : Link) : (s.setLink l x).scrub = s.scrub := rfl
@[simp] theorem State.setLink_spots (s : State) (l : Nat) (x : Link) : (s.setLink l x).spots = s.spots := rfl
@[simp] theorem State.setLink_margin (s : State) (l : Nat) (x : Link) : (s.setLink l x).margin = s.margin := rfl
@[simp] theorem State.setLink_power (s : State) (l : Nat) (x : Link) : (s.setLink l x).power = s.power := rfl
@[simp] theorem State.setLink_fuses (s : State) (l : Nat) (x : Link) : (s.setLink l x).fuses = s.fuses := rfl
@[simp] theorem State.setLink_vane (s : State) (l : Nat) (x : Link) : (s.setLink l x).vane = s.vane := rfl
@[simp] theorem State.setLink_trust (s : State) (l : Nat) (x : Link) : (s.setLink l x).trust = s.trust := rfl
@[simp] theorem State.setLink_sessions (s : State) (l : Nat) (x : Link) : (s.setLink l x).sessions = s.sessions := rfl
@[simp] theorem State.setLink_opening (s : State) (l : Nat) (x : Link) : (s.setLink l x).opening = s.opening := rfl
@[simp] theorem State.setLink_answers (s : State) (l : Nat) (x : Link) : (s.setLink l x).answers = s.answers := rfl
@[simp] theorem State.setLink_streams (s : State) (l : Nat) (x : Link) : (s.setLink l x).streams = s.streams := rfl
@[simp] theorem State.setLink_windows (s : State) (l : Nat) (x : Link) : (s.setLink l x).windows = s.windows := rfl

@[simp] theorem State.setTile_pending (s : State) (g : Nat) (x : Tile) : (s.setTile g x).pending = s.pending := rfl
@[simp] theorem State.setTile_out (s : State) (g : Nat) (x : Tile) : (s.setTile g x).out = s.out := rfl
@[simp] theorem State.setTile_free (s : State) (g : Nat) (x : Tile) : (s.setTile g x).free = s.free := rfl
@[simp] theorem State.setTile_clock (s : State) (g : Nat) (x : Tile) : (s.setTile g x).clock = s.clock := rfl
@[simp] theorem State.setTile_regs (s : State) (g : Nat) (x : Tile) : (s.setTile g x).regs = s.regs := rfl
@[simp] theorem State.setTile_staged (s : State) (g : Nat) (x : Tile) : (s.setTile g x).staged = s.staged := rfl
@[simp] theorem State.setTile_hidden (s : State) (g : Nat) (x : Tile) : (s.setTile g x).hidden = s.hidden := rfl
@[simp] theorem State.setTile_trip (s : State) (g : Nat) (x : Tile) : (s.setTile g x).trip = s.trip := rfl
@[simp] theorem State.setTile_rose (s : State) (g : Nat) (x : Tile) : (s.setTile g x).rose = s.rose := rfl
@[simp] theorem State.setTile_mem (s : State) (g : Nat) (x : Tile) : (s.setTile g x).mem = s.mem := rfl
@[simp] theorem State.setTile_events (s : State) (g : Nat) (x : Tile) : (s.setTile g x).events = s.events := rfl
@[simp] theorem State.setTile_host (s : State) (g : Nat) (x : Tile) : (s.setTile g x).host = s.host := rfl
@[simp] theorem State.setTile_belfry (s : State) (g : Nat) (x : Tile) : (s.setTile g x).belfry = s.belfry := rfl
@[simp] theorem State.setTile_links (s : State) (g : Nat) (x : Tile) : (s.setTile g x).links = s.links := rfl
@[simp] theorem State.setTile_d2d (s : State) (g : Nat) (x : Tile) : (s.setTile g x).d2d = s.d2d := rfl
@[simp] theorem State.setTile_reservations (s : State) (g : Nat) (x : Tile) : (s.setTile g x).reservations = s.reservations := rfl
@[simp] theorem State.setTile_routes (s : State) (g : Nat) (x : Tile) : (s.setTile g x).routes = s.routes := rfl
@[simp] theorem State.setTile_opn (s : State) (g : Nat) (x : Tile) : (s.setTile g x).opn = s.opn := rfl
@[simp] theorem State.setTile_arrays (s : State) (g : Nat) (x : Tile) : (s.setTile g x).arrays = s.arrays := rfl
@[simp] theorem State.setTile_fst (s : State) (g : Nat) (x : Tile) : (s.setTile g x).fst = s.fst := rfl
@[simp] theorem State.setTile_watch (s : State) (g : Nat) (x : Tile) : (s.setTile g x).watch = s.watch := rfl
@[simp] theorem State.setTile_bankA (s : State) (g : Nat) (x : Tile) : (s.setTile g x).bankA = s.bankA := rfl
@[simp] theorem State.setTile_bankB (s : State) (g : Nat) (x : Tile) : (s.setTile g x).bankB = s.bankB := rfl
@[simp] theorem State.setTile_sched (s : State) (g : Nat) (x : Tile) : (s.setTile g x).sched = s.sched := rfl
@[simp] theorem State.setTile_runs (s : State) (g : Nat) (x : Tile) : (s.setTile g x).runs = s.runs := rfl
@[simp] theorem State.setTile_frozenNow (s : State) (g : Nat) (x : Tile) : (s.setTile g x).frozenNow = s.frozenNow := rfl
@[simp] theorem State.setTile_atoms (s : State) (g : Nat) (x : Tile) : (s.setTile g x).atoms = s.atoms := rfl
@[simp] theorem State.setTile_waiting (s : State) (g : Nat) (x : Tile) : (s.setTile g x).waiting = s.waiting := rfl
@[simp] theorem State.setTile_movers (s : State) (g : Nat) (x : Tile) : (s.setTile g x).movers = s.movers := rfl
@[simp] theorem State.setTile_roundEnd (s : State) (g : Nat) (x : Tile) : (s.setTile g x).roundEnd = s.roundEnd := rfl
@[simp] theorem State.setTile_tiles (s : State) (g : Nat) (x : Tile) : (s.setTile g x).tiles = AL.put s.tiles g x := rfl
@[simp] theorem State.setTile_ueStep (s : State) (g : Nat) (x : Tile) : (s.setTile g x).ueStep = s.ueStep := rfl
@[simp] theorem State.setTile_keys (s : State) (g : Nat) (x : Tile) : (s.setTile g x).keys = s.keys := rfl
@[simp] theorem State.setTile_meas (s : State) (g : Nat) (x : Tile) : (s.setTile g x).meas = s.meas := rfl
@[simp] theorem State.setTile_scrub (s : State) (g : Nat) (x : Tile) : (s.setTile g x).scrub = s.scrub := rfl
@[simp] theorem State.setTile_spots (s : State) (g : Nat) (x : Tile) : (s.setTile g x).spots = s.spots := rfl
@[simp] theorem State.setTile_margin (s : State) (g : Nat) (x : Tile) : (s.setTile g x).margin = s.margin := rfl
@[simp] theorem State.setTile_power (s : State) (g : Nat) (x : Tile) : (s.setTile g x).power = s.power := rfl
@[simp] theorem State.setTile_fuses (s : State) (g : Nat) (x : Tile) : (s.setTile g x).fuses = s.fuses := rfl
@[simp] theorem State.setTile_vane (s : State) (g : Nat) (x : Tile) : (s.setTile g x).vane = s.vane := rfl
@[simp] theorem State.setTile_trust (s : State) (g : Nat) (x : Tile) : (s.setTile g x).trust = s.trust := rfl
@[simp] theorem State.setTile_sessions (s : State) (g : Nat) (x : Tile) : (s.setTile g x).sessions = s.sessions := rfl
@[simp] theorem State.setTile_opening (s : State) (g : Nat) (x : Tile) : (s.setTile g x).opening = s.opening := rfl
@[simp] theorem State.setTile_answers (s : State) (g : Nat) (x : Tile) : (s.setTile g x).answers = s.answers := rfl
@[simp] theorem State.setTile_streams (s : State) (g : Nat) (x : Tile) : (s.setTile g x).streams = s.streams := rfl
@[simp] theorem State.setTile_windows (s : State) (g : Nat) (x : Tile) : (s.setTile g x).windows = s.windows := rfl

@[simp] theorem State.setOpn_pending (s : State) (o : OpenPlane) : (s.setOpn o).pending = s.pending := rfl
@[simp] theorem State.setOpn_out (s : State) (o : OpenPlane) : (s.setOpn o).out = s.out := rfl
@[simp] theorem State.setOpn_free (s : State) (o : OpenPlane) : (s.setOpn o).free = s.free := rfl
@[simp] theorem State.setOpn_clock (s : State) (o : OpenPlane) : (s.setOpn o).clock = s.clock := rfl
@[simp] theorem State.setOpn_regs (s : State) (o : OpenPlane) : (s.setOpn o).regs = s.regs := rfl
@[simp] theorem State.setOpn_staged (s : State) (o : OpenPlane) : (s.setOpn o).staged = s.staged := rfl
@[simp] theorem State.setOpn_hidden (s : State) (o : OpenPlane) : (s.setOpn o).hidden = s.hidden := rfl
@[simp] theorem State.setOpn_trip (s : State) (o : OpenPlane) : (s.setOpn o).trip = s.trip := rfl
@[simp] theorem State.setOpn_rose (s : State) (o : OpenPlane) : (s.setOpn o).rose = s.rose := rfl
@[simp] theorem State.setOpn_mem (s : State) (o : OpenPlane) : (s.setOpn o).mem = s.mem := rfl
@[simp] theorem State.setOpn_events (s : State) (o : OpenPlane) : (s.setOpn o).events = s.events := rfl
@[simp] theorem State.setOpn_host (s : State) (o : OpenPlane) : (s.setOpn o).host = s.host := rfl
@[simp] theorem State.setOpn_belfry (s : State) (o : OpenPlane) : (s.setOpn o).belfry = s.belfry := rfl
@[simp] theorem State.setOpn_links (s : State) (o : OpenPlane) : (s.setOpn o).links = s.links := rfl
@[simp] theorem State.setOpn_d2d (s : State) (o : OpenPlane) : (s.setOpn o).d2d = s.d2d := rfl
@[simp] theorem State.setOpn_reservations (s : State) (o : OpenPlane) : (s.setOpn o).reservations = s.reservations := rfl
@[simp] theorem State.setOpn_routes (s : State) (o : OpenPlane) : (s.setOpn o).routes = s.routes := rfl
@[simp] theorem State.setOpn_opn (s : State) (o : OpenPlane) : (s.setOpn o).opn = o := rfl
@[simp] theorem State.setOpn_arrays (s : State) (o : OpenPlane) : (s.setOpn o).arrays = s.arrays := rfl
@[simp] theorem State.setOpn_fst (s : State) (o : OpenPlane) : (s.setOpn o).fst = s.fst := rfl
@[simp] theorem State.setOpn_watch (s : State) (o : OpenPlane) : (s.setOpn o).watch = s.watch := rfl
@[simp] theorem State.setOpn_bankA (s : State) (o : OpenPlane) : (s.setOpn o).bankA = s.bankA := rfl
@[simp] theorem State.setOpn_bankB (s : State) (o : OpenPlane) : (s.setOpn o).bankB = s.bankB := rfl
@[simp] theorem State.setOpn_sched (s : State) (o : OpenPlane) : (s.setOpn o).sched = s.sched := rfl
@[simp] theorem State.setOpn_runs (s : State) (o : OpenPlane) : (s.setOpn o).runs = s.runs := rfl
@[simp] theorem State.setOpn_frozenNow (s : State) (o : OpenPlane) : (s.setOpn o).frozenNow = s.frozenNow := rfl
@[simp] theorem State.setOpn_atoms (s : State) (o : OpenPlane) : (s.setOpn o).atoms = s.atoms := rfl
@[simp] theorem State.setOpn_waiting (s : State) (o : OpenPlane) : (s.setOpn o).waiting = s.waiting := rfl
@[simp] theorem State.setOpn_movers (s : State) (o : OpenPlane) : (s.setOpn o).movers = s.movers := rfl
@[simp] theorem State.setOpn_roundEnd (s : State) (o : OpenPlane) : (s.setOpn o).roundEnd = s.roundEnd := rfl
@[simp] theorem State.setOpn_tiles (s : State) (o : OpenPlane) : (s.setOpn o).tiles = s.tiles := rfl
@[simp] theorem State.setOpn_ueStep (s : State) (o : OpenPlane) : (s.setOpn o).ueStep = s.ueStep := rfl
@[simp] theorem State.setOpn_keys (s : State) (o : OpenPlane) : (s.setOpn o).keys = s.keys := rfl
@[simp] theorem State.setOpn_meas (s : State) (o : OpenPlane) : (s.setOpn o).meas = s.meas := rfl
@[simp] theorem State.setOpn_scrub (s : State) (o : OpenPlane) : (s.setOpn o).scrub = s.scrub := rfl
@[simp] theorem State.setOpn_spots (s : State) (o : OpenPlane) : (s.setOpn o).spots = s.spots := rfl
@[simp] theorem State.setOpn_margin (s : State) (o : OpenPlane) : (s.setOpn o).margin = s.margin := rfl
@[simp] theorem State.setOpn_power (s : State) (o : OpenPlane) : (s.setOpn o).power = s.power := rfl
@[simp] theorem State.setOpn_fuses (s : State) (o : OpenPlane) : (s.setOpn o).fuses = s.fuses := rfl
@[simp] theorem State.setOpn_vane (s : State) (o : OpenPlane) : (s.setOpn o).vane = s.vane := rfl
@[simp] theorem State.setOpn_trust (s : State) (o : OpenPlane) : (s.setOpn o).trust = s.trust := rfl
@[simp] theorem State.setOpn_sessions (s : State) (o : OpenPlane) : (s.setOpn o).sessions = s.sessions := rfl
@[simp] theorem State.setOpn_opening (s : State) (o : OpenPlane) : (s.setOpn o).opening = s.opening := rfl
@[simp] theorem State.setOpn_answers (s : State) (o : OpenPlane) : (s.setOpn o).answers = s.answers := rfl
@[simp] theorem State.setOpn_streams (s : State) (o : OpenPlane) : (s.setOpn o).streams = s.streams := rfl
@[simp] theorem State.setOpn_windows (s : State) (o : OpenPlane) : (s.setOpn o).windows = s.windows := rfl

@[simp] theorem State.setHost_pending (s : State) (h : HostMac) : (s.setHost h).pending = s.pending := rfl
@[simp] theorem State.setHost_out (s : State) (h : HostMac) : (s.setHost h).out = s.out := rfl
@[simp] theorem State.setHost_free (s : State) (h : HostMac) : (s.setHost h).free = s.free := rfl
@[simp] theorem State.setHost_clock (s : State) (h : HostMac) : (s.setHost h).clock = s.clock := rfl
@[simp] theorem State.setHost_regs (s : State) (h : HostMac) : (s.setHost h).regs = s.regs := rfl
@[simp] theorem State.setHost_staged (s : State) (h : HostMac) : (s.setHost h).staged = s.staged := rfl
@[simp] theorem State.setHost_hidden (s : State) (h : HostMac) : (s.setHost h).hidden = s.hidden := rfl
@[simp] theorem State.setHost_trip (s : State) (h : HostMac) : (s.setHost h).trip = s.trip := rfl
@[simp] theorem State.setHost_rose (s : State) (h : HostMac) : (s.setHost h).rose = s.rose := rfl
@[simp] theorem State.setHost_mem (s : State) (h : HostMac) : (s.setHost h).mem = s.mem := rfl
@[simp] theorem State.setHost_events (s : State) (h : HostMac) : (s.setHost h).events = s.events := rfl
@[simp] theorem State.setHost_host (s : State) (h : HostMac) : (s.setHost h).host = h := rfl
@[simp] theorem State.setHost_belfry (s : State) (h : HostMac) : (s.setHost h).belfry = s.belfry := rfl
@[simp] theorem State.setHost_links (s : State) (h : HostMac) : (s.setHost h).links = s.links := rfl
@[simp] theorem State.setHost_d2d (s : State) (h : HostMac) : (s.setHost h).d2d = s.d2d := rfl
@[simp] theorem State.setHost_reservations (s : State) (h : HostMac) : (s.setHost h).reservations = s.reservations := rfl
@[simp] theorem State.setHost_routes (s : State) (h : HostMac) : (s.setHost h).routes = s.routes := rfl
@[simp] theorem State.setHost_opn (s : State) (h : HostMac) : (s.setHost h).opn = s.opn := rfl
@[simp] theorem State.setHost_arrays (s : State) (h : HostMac) : (s.setHost h).arrays = s.arrays := rfl
@[simp] theorem State.setHost_fst (s : State) (h : HostMac) : (s.setHost h).fst = s.fst := rfl
@[simp] theorem State.setHost_watch (s : State) (h : HostMac) : (s.setHost h).watch = s.watch := rfl
@[simp] theorem State.setHost_bankA (s : State) (h : HostMac) : (s.setHost h).bankA = s.bankA := rfl
@[simp] theorem State.setHost_bankB (s : State) (h : HostMac) : (s.setHost h).bankB = s.bankB := rfl
@[simp] theorem State.setHost_sched (s : State) (h : HostMac) : (s.setHost h).sched = s.sched := rfl
@[simp] theorem State.setHost_runs (s : State) (h : HostMac) : (s.setHost h).runs = s.runs := rfl
@[simp] theorem State.setHost_frozenNow (s : State) (h : HostMac) : (s.setHost h).frozenNow = s.frozenNow := rfl
@[simp] theorem State.setHost_atoms (s : State) (h : HostMac) : (s.setHost h).atoms = s.atoms := rfl
@[simp] theorem State.setHost_waiting (s : State) (h : HostMac) : (s.setHost h).waiting = s.waiting := rfl
@[simp] theorem State.setHost_movers (s : State) (h : HostMac) : (s.setHost h).movers = s.movers := rfl
@[simp] theorem State.setHost_roundEnd (s : State) (h : HostMac) : (s.setHost h).roundEnd = s.roundEnd := rfl
@[simp] theorem State.setHost_tiles (s : State) (h : HostMac) : (s.setHost h).tiles = s.tiles := rfl
@[simp] theorem State.setHost_ueStep (s : State) (h : HostMac) : (s.setHost h).ueStep = s.ueStep := rfl
@[simp] theorem State.setHost_keys (s : State) (h : HostMac) : (s.setHost h).keys = s.keys := rfl
@[simp] theorem State.setHost_meas (s : State) (h : HostMac) : (s.setHost h).meas = s.meas := rfl
@[simp] theorem State.setHost_scrub (s : State) (h : HostMac) : (s.setHost h).scrub = s.scrub := rfl
@[simp] theorem State.setHost_spots (s : State) (h : HostMac) : (s.setHost h).spots = s.spots := rfl
@[simp] theorem State.setHost_margin (s : State) (h : HostMac) : (s.setHost h).margin = s.margin := rfl
@[simp] theorem State.setHost_power (s : State) (h : HostMac) : (s.setHost h).power = s.power := rfl
@[simp] theorem State.setHost_fuses (s : State) (h : HostMac) : (s.setHost h).fuses = s.fuses := rfl
@[simp] theorem State.setHost_vane (s : State) (h : HostMac) : (s.setHost h).vane = s.vane := rfl
@[simp] theorem State.setHost_trust (s : State) (h : HostMac) : (s.setHost h).trust = s.trust := rfl
@[simp] theorem State.setHost_sessions (s : State) (h : HostMac) : (s.setHost h).sessions = s.sessions := rfl
@[simp] theorem State.setHost_opening (s : State) (h : HostMac) : (s.setHost h).opening = s.opening := rfl
@[simp] theorem State.setHost_answers (s : State) (h : HostMac) : (s.setHost h).answers = s.answers := rfl
@[simp] theorem State.setHost_streams (s : State) (h : HostMac) : (s.setHost h).streams = s.streams := rfl
@[simp] theorem State.setHost_windows (s : State) (h : HostMac) : (s.setHost h).windows = s.windows := rfl

@[simp] theorem State.setPower_pending (s : State) (x : Power) : (s.setPower x).pending = s.pending := rfl
@[simp] theorem State.setPower_out (s : State) (x : Power) : (s.setPower x).out = s.out := rfl
@[simp] theorem State.setPower_free (s : State) (x : Power) : (s.setPower x).free = s.free := rfl
@[simp] theorem State.setPower_clock (s : State) (x : Power) : (s.setPower x).clock = s.clock := rfl
@[simp] theorem State.setPower_regs (s : State) (x : Power) : (s.setPower x).regs = s.regs := rfl
@[simp] theorem State.setPower_staged (s : State) (x : Power) : (s.setPower x).staged = s.staged := rfl
@[simp] theorem State.setPower_hidden (s : State) (x : Power) : (s.setPower x).hidden = s.hidden := rfl
@[simp] theorem State.setPower_trip (s : State) (x : Power) : (s.setPower x).trip = s.trip := rfl
@[simp] theorem State.setPower_rose (s : State) (x : Power) : (s.setPower x).rose = s.rose := rfl
@[simp] theorem State.setPower_mem (s : State) (x : Power) : (s.setPower x).mem = s.mem := rfl
@[simp] theorem State.setPower_events (s : State) (x : Power) : (s.setPower x).events = s.events := rfl
@[simp] theorem State.setPower_host (s : State) (x : Power) : (s.setPower x).host = s.host := rfl
@[simp] theorem State.setPower_belfry (s : State) (x : Power) : (s.setPower x).belfry = s.belfry := rfl
@[simp] theorem State.setPower_links (s : State) (x : Power) : (s.setPower x).links = s.links := rfl
@[simp] theorem State.setPower_d2d (s : State) (x : Power) : (s.setPower x).d2d = s.d2d := rfl
@[simp] theorem State.setPower_reservations (s : State) (x : Power) : (s.setPower x).reservations = s.reservations := rfl
@[simp] theorem State.setPower_routes (s : State) (x : Power) : (s.setPower x).routes = s.routes := rfl
@[simp] theorem State.setPower_opn (s : State) (x : Power) : (s.setPower x).opn = s.opn := rfl
@[simp] theorem State.setPower_arrays (s : State) (x : Power) : (s.setPower x).arrays = s.arrays := rfl
@[simp] theorem State.setPower_fst (s : State) (x : Power) : (s.setPower x).fst = s.fst := rfl
@[simp] theorem State.setPower_watch (s : State) (x : Power) : (s.setPower x).watch = s.watch := rfl
@[simp] theorem State.setPower_bankA (s : State) (x : Power) : (s.setPower x).bankA = s.bankA := rfl
@[simp] theorem State.setPower_bankB (s : State) (x : Power) : (s.setPower x).bankB = s.bankB := rfl
@[simp] theorem State.setPower_sched (s : State) (x : Power) : (s.setPower x).sched = s.sched := rfl
@[simp] theorem State.setPower_runs (s : State) (x : Power) : (s.setPower x).runs = s.runs := rfl
@[simp] theorem State.setPower_frozenNow (s : State) (x : Power) : (s.setPower x).frozenNow = s.frozenNow := rfl
@[simp] theorem State.setPower_atoms (s : State) (x : Power) : (s.setPower x).atoms = s.atoms := rfl
@[simp] theorem State.setPower_waiting (s : State) (x : Power) : (s.setPower x).waiting = s.waiting := rfl
@[simp] theorem State.setPower_movers (s : State) (x : Power) : (s.setPower x).movers = s.movers := rfl
@[simp] theorem State.setPower_roundEnd (s : State) (x : Power) : (s.setPower x).roundEnd = s.roundEnd := rfl
@[simp] theorem State.setPower_tiles (s : State) (x : Power) : (s.setPower x).tiles = s.tiles := rfl
@[simp] theorem State.setPower_ueStep (s : State) (x : Power) : (s.setPower x).ueStep = s.ueStep := rfl
@[simp] theorem State.setPower_keys (s : State) (x : Power) : (s.setPower x).keys = s.keys := rfl
@[simp] theorem State.setPower_meas (s : State) (x : Power) : (s.setPower x).meas = s.meas := rfl
@[simp] theorem State.setPower_scrub (s : State) (x : Power) : (s.setPower x).scrub = s.scrub := rfl
@[simp] theorem State.setPower_spots (s : State) (x : Power) : (s.setPower x).spots = s.spots := rfl
@[simp] theorem State.setPower_margin (s : State) (x : Power) : (s.setPower x).margin = s.margin := rfl
@[simp] theorem State.setPower_power (s : State) (x : Power) : (s.setPower x).power = x := rfl
@[simp] theorem State.setPower_fuses (s : State) (x : Power) : (s.setPower x).fuses = s.fuses := rfl
@[simp] theorem State.setPower_vane (s : State) (x : Power) : (s.setPower x).vane = s.vane := rfl
@[simp] theorem State.setPower_trust (s : State) (x : Power) : (s.setPower x).trust = s.trust := rfl
@[simp] theorem State.setPower_sessions (s : State) (x : Power) : (s.setPower x).sessions = s.sessions := rfl
@[simp] theorem State.setPower_opening (s : State) (x : Power) : (s.setPower x).opening = s.opening := rfl
@[simp] theorem State.setPower_answers (s : State) (x : Power) : (s.setPower x).answers = s.answers := rfl
@[simp] theorem State.setPower_streams (s : State) (x : Power) : (s.setPower x).streams = s.streams := rfl
@[simp] theorem State.setPower_windows (s : State) (x : Power) : (s.setPower x).windows = s.windows := rfl

@[simp] theorem State.setArrays_pending (s : State) (a : Arrays) : (s.setArrays a).pending = s.pending := rfl
@[simp] theorem State.setArrays_out (s : State) (a : Arrays) : (s.setArrays a).out = s.out := rfl
@[simp] theorem State.setArrays_free (s : State) (a : Arrays) : (s.setArrays a).free = s.free := rfl
@[simp] theorem State.setArrays_clock (s : State) (a : Arrays) : (s.setArrays a).clock = s.clock := rfl
@[simp] theorem State.setArrays_regs (s : State) (a : Arrays) : (s.setArrays a).regs = s.regs := rfl
@[simp] theorem State.setArrays_staged (s : State) (a : Arrays) : (s.setArrays a).staged = s.staged := rfl
@[simp] theorem State.setArrays_hidden (s : State) (a : Arrays) : (s.setArrays a).hidden = s.hidden := rfl
@[simp] theorem State.setArrays_trip (s : State) (a : Arrays) : (s.setArrays a).trip = s.trip := rfl
@[simp] theorem State.setArrays_rose (s : State) (a : Arrays) : (s.setArrays a).rose = s.rose := rfl
@[simp] theorem State.setArrays_mem (s : State) (a : Arrays) : (s.setArrays a).mem = s.mem := rfl
@[simp] theorem State.setArrays_events (s : State) (a : Arrays) : (s.setArrays a).events = s.events := rfl
@[simp] theorem State.setArrays_host (s : State) (a : Arrays) : (s.setArrays a).host = s.host := rfl
@[simp] theorem State.setArrays_belfry (s : State) (a : Arrays) : (s.setArrays a).belfry = s.belfry := rfl
@[simp] theorem State.setArrays_links (s : State) (a : Arrays) : (s.setArrays a).links = s.links := rfl
@[simp] theorem State.setArrays_d2d (s : State) (a : Arrays) : (s.setArrays a).d2d = s.d2d := rfl
@[simp] theorem State.setArrays_reservations (s : State) (a : Arrays) : (s.setArrays a).reservations = s.reservations := rfl
@[simp] theorem State.setArrays_routes (s : State) (a : Arrays) : (s.setArrays a).routes = s.routes := rfl
@[simp] theorem State.setArrays_opn (s : State) (a : Arrays) : (s.setArrays a).opn = s.opn := rfl
@[simp] theorem State.setArrays_arrays (s : State) (a : Arrays) : (s.setArrays a).arrays = a := rfl
@[simp] theorem State.setArrays_fst (s : State) (a : Arrays) : (s.setArrays a).fst = s.fst := rfl
@[simp] theorem State.setArrays_watch (s : State) (a : Arrays) : (s.setArrays a).watch = s.watch := rfl
@[simp] theorem State.setArrays_bankA (s : State) (a : Arrays) : (s.setArrays a).bankA = s.bankA := rfl
@[simp] theorem State.setArrays_bankB (s : State) (a : Arrays) : (s.setArrays a).bankB = s.bankB := rfl
@[simp] theorem State.setArrays_sched (s : State) (a : Arrays) : (s.setArrays a).sched = s.sched := rfl
@[simp] theorem State.setArrays_runs (s : State) (a : Arrays) : (s.setArrays a).runs = s.runs := rfl
@[simp] theorem State.setArrays_frozenNow (s : State) (a : Arrays) : (s.setArrays a).frozenNow = s.frozenNow := rfl
@[simp] theorem State.setArrays_atoms (s : State) (a : Arrays) : (s.setArrays a).atoms = s.atoms := rfl
@[simp] theorem State.setArrays_waiting (s : State) (a : Arrays) : (s.setArrays a).waiting = s.waiting := rfl
@[simp] theorem State.setArrays_movers (s : State) (a : Arrays) : (s.setArrays a).movers = s.movers := rfl
@[simp] theorem State.setArrays_roundEnd (s : State) (a : Arrays) : (s.setArrays a).roundEnd = s.roundEnd := rfl
@[simp] theorem State.setArrays_tiles (s : State) (a : Arrays) : (s.setArrays a).tiles = s.tiles := rfl
@[simp] theorem State.setArrays_ueStep (s : State) (a : Arrays) : (s.setArrays a).ueStep = s.ueStep := rfl
@[simp] theorem State.setArrays_keys (s : State) (a : Arrays) : (s.setArrays a).keys = s.keys := rfl
@[simp] theorem State.setArrays_meas (s : State) (a : Arrays) : (s.setArrays a).meas = s.meas := rfl
@[simp] theorem State.setArrays_scrub (s : State) (a : Arrays) : (s.setArrays a).scrub = s.scrub := rfl
@[simp] theorem State.setArrays_spots (s : State) (a : Arrays) : (s.setArrays a).spots = s.spots := rfl
@[simp] theorem State.setArrays_margin (s : State) (a : Arrays) : (s.setArrays a).margin = s.margin := rfl
@[simp] theorem State.setArrays_power (s : State) (a : Arrays) : (s.setArrays a).power = s.power := rfl
@[simp] theorem State.setArrays_fuses (s : State) (a : Arrays) : (s.setArrays a).fuses = s.fuses := rfl
@[simp] theorem State.setArrays_vane (s : State) (a : Arrays) : (s.setArrays a).vane = s.vane := rfl
@[simp] theorem State.setArrays_trust (s : State) (a : Arrays) : (s.setArrays a).trust = s.trust := rfl
@[simp] theorem State.setArrays_sessions (s : State) (a : Arrays) : (s.setArrays a).sessions = s.sessions := rfl
@[simp] theorem State.setArrays_opening (s : State) (a : Arrays) : (s.setArrays a).opening = s.opening := rfl
@[simp] theorem State.setArrays_answers (s : State) (a : Arrays) : (s.setArrays a).answers = s.answers := rfl
@[simp] theorem State.setArrays_streams (s : State) (a : Arrays) : (s.setArrays a).streams = s.streams := rfl
@[simp] theorem State.setArrays_windows (s : State) (a : Arrays) : (s.setArrays a).windows = s.windows := rfl

@[simp] theorem State.setMover_pending (s : State) (k : Nat) (x : Mover) : (s.setMover k x).pending = s.pending := rfl
@[simp] theorem State.setMover_out (s : State) (k : Nat) (x : Mover) : (s.setMover k x).out = s.out := rfl
@[simp] theorem State.setMover_free (s : State) (k : Nat) (x : Mover) : (s.setMover k x).free = s.free := rfl
@[simp] theorem State.setMover_clock (s : State) (k : Nat) (x : Mover) : (s.setMover k x).clock = s.clock := rfl
@[simp] theorem State.setMover_regs (s : State) (k : Nat) (x : Mover) : (s.setMover k x).regs = s.regs := rfl
@[simp] theorem State.setMover_staged (s : State) (k : Nat) (x : Mover) : (s.setMover k x).staged = s.staged := rfl
@[simp] theorem State.setMover_hidden (s : State) (k : Nat) (x : Mover) : (s.setMover k x).hidden = s.hidden := rfl
@[simp] theorem State.setMover_trip (s : State) (k : Nat) (x : Mover) : (s.setMover k x).trip = s.trip := rfl
@[simp] theorem State.setMover_rose (s : State) (k : Nat) (x : Mover) : (s.setMover k x).rose = s.rose := rfl
@[simp] theorem State.setMover_mem (s : State) (k : Nat) (x : Mover) : (s.setMover k x).mem = s.mem := rfl
@[simp] theorem State.setMover_events (s : State) (k : Nat) (x : Mover) : (s.setMover k x).events = s.events := rfl
@[simp] theorem State.setMover_host (s : State) (k : Nat) (x : Mover) : (s.setMover k x).host = s.host := rfl
@[simp] theorem State.setMover_belfry (s : State) (k : Nat) (x : Mover) : (s.setMover k x).belfry = s.belfry := rfl
@[simp] theorem State.setMover_links (s : State) (k : Nat) (x : Mover) : (s.setMover k x).links = s.links := rfl
@[simp] theorem State.setMover_d2d (s : State) (k : Nat) (x : Mover) : (s.setMover k x).d2d = s.d2d := rfl
@[simp] theorem State.setMover_reservations (s : State) (k : Nat) (x : Mover) : (s.setMover k x).reservations = s.reservations := rfl
@[simp] theorem State.setMover_routes (s : State) (k : Nat) (x : Mover) : (s.setMover k x).routes = s.routes := rfl
@[simp] theorem State.setMover_opn (s : State) (k : Nat) (x : Mover) : (s.setMover k x).opn = s.opn := rfl
@[simp] theorem State.setMover_arrays (s : State) (k : Nat) (x : Mover) : (s.setMover k x).arrays = s.arrays := rfl
@[simp] theorem State.setMover_fst (s : State) (k : Nat) (x : Mover) : (s.setMover k x).fst = s.fst := rfl
@[simp] theorem State.setMover_watch (s : State) (k : Nat) (x : Mover) : (s.setMover k x).watch = s.watch := rfl
@[simp] theorem State.setMover_bankA (s : State) (k : Nat) (x : Mover) : (s.setMover k x).bankA = s.bankA := rfl
@[simp] theorem State.setMover_bankB (s : State) (k : Nat) (x : Mover) : (s.setMover k x).bankB = s.bankB := rfl
@[simp] theorem State.setMover_sched (s : State) (k : Nat) (x : Mover) : (s.setMover k x).sched = s.sched := rfl
@[simp] theorem State.setMover_runs (s : State) (k : Nat) (x : Mover) : (s.setMover k x).runs = s.runs := rfl
@[simp] theorem State.setMover_frozenNow (s : State) (k : Nat) (x : Mover) : (s.setMover k x).frozenNow = s.frozenNow := rfl
@[simp] theorem State.setMover_atoms (s : State) (k : Nat) (x : Mover) : (s.setMover k x).atoms = s.atoms := rfl
@[simp] theorem State.setMover_waiting (s : State) (k : Nat) (x : Mover) : (s.setMover k x).waiting = s.waiting := rfl
@[simp] theorem State.setMover_movers (s : State) (k : Nat) (x : Mover) : (s.setMover k x).movers = AL.put s.movers k x := rfl
@[simp] theorem State.setMover_roundEnd (s : State) (k : Nat) (x : Mover) : (s.setMover k x).roundEnd = s.roundEnd := rfl
@[simp] theorem State.setMover_tiles (s : State) (k : Nat) (x : Mover) : (s.setMover k x).tiles = s.tiles := rfl
@[simp] theorem State.setMover_ueStep (s : State) (k : Nat) (x : Mover) : (s.setMover k x).ueStep = s.ueStep := rfl
@[simp] theorem State.setMover_keys (s : State) (k : Nat) (x : Mover) : (s.setMover k x).keys = s.keys := rfl
@[simp] theorem State.setMover_meas (s : State) (k : Nat) (x : Mover) : (s.setMover k x).meas = s.meas := rfl
@[simp] theorem State.setMover_scrub (s : State) (k : Nat) (x : Mover) : (s.setMover k x).scrub = s.scrub := rfl
@[simp] theorem State.setMover_spots (s : State) (k : Nat) (x : Mover) : (s.setMover k x).spots = s.spots := rfl
@[simp] theorem State.setMover_margin (s : State) (k : Nat) (x : Mover) : (s.setMover k x).margin = s.margin := rfl
@[simp] theorem State.setMover_power (s : State) (k : Nat) (x : Mover) : (s.setMover k x).power = s.power := rfl
@[simp] theorem State.setMover_fuses (s : State) (k : Nat) (x : Mover) : (s.setMover k x).fuses = s.fuses := rfl
@[simp] theorem State.setMover_vane (s : State) (k : Nat) (x : Mover) : (s.setMover k x).vane = s.vane := rfl
@[simp] theorem State.setMover_trust (s : State) (k : Nat) (x : Mover) : (s.setMover k x).trust = s.trust := rfl
@[simp] theorem State.setMover_sessions (s : State) (k : Nat) (x : Mover) : (s.setMover k x).sessions = s.sessions := rfl
@[simp] theorem State.setMover_opening (s : State) (k : Nat) (x : Mover) : (s.setMover k x).opening = s.opening := rfl
@[simp] theorem State.setMover_answers (s : State) (k : Nat) (x : Mover) : (s.setMover k x).answers = s.answers := rfl
@[simp] theorem State.setMover_streams (s : State) (k : Nat) (x : Mover) : (s.setMover k x).streams = s.streams := rfl
@[simp] theorem State.setMover_windows (s : State) (k : Nat) (x : Mover) : (s.setMover k x).windows = s.windows := rfl

@[simp] theorem State.setRoute_pending (s : State) (k : Nat) (x : Route) : (s.setRoute k x).pending = s.pending := rfl
@[simp] theorem State.setRoute_out (s : State) (k : Nat) (x : Route) : (s.setRoute k x).out = s.out := rfl
@[simp] theorem State.setRoute_free (s : State) (k : Nat) (x : Route) : (s.setRoute k x).free = s.free := rfl
@[simp] theorem State.setRoute_clock (s : State) (k : Nat) (x : Route) : (s.setRoute k x).clock = s.clock := rfl
@[simp] theorem State.setRoute_regs (s : State) (k : Nat) (x : Route) : (s.setRoute k x).regs = s.regs := rfl
@[simp] theorem State.setRoute_staged (s : State) (k : Nat) (x : Route) : (s.setRoute k x).staged = s.staged := rfl
@[simp] theorem State.setRoute_hidden (s : State) (k : Nat) (x : Route) : (s.setRoute k x).hidden = s.hidden := rfl
@[simp] theorem State.setRoute_trip (s : State) (k : Nat) (x : Route) : (s.setRoute k x).trip = s.trip := rfl
@[simp] theorem State.setRoute_rose (s : State) (k : Nat) (x : Route) : (s.setRoute k x).rose = s.rose := rfl
@[simp] theorem State.setRoute_mem (s : State) (k : Nat) (x : Route) : (s.setRoute k x).mem = s.mem := rfl
@[simp] theorem State.setRoute_events (s : State) (k : Nat) (x : Route) : (s.setRoute k x).events = s.events := rfl
@[simp] theorem State.setRoute_host (s : State) (k : Nat) (x : Route) : (s.setRoute k x).host = s.host := rfl
@[simp] theorem State.setRoute_belfry (s : State) (k : Nat) (x : Route) : (s.setRoute k x).belfry = s.belfry := rfl
@[simp] theorem State.setRoute_links (s : State) (k : Nat) (x : Route) : (s.setRoute k x).links = s.links := rfl
@[simp] theorem State.setRoute_d2d (s : State) (k : Nat) (x : Route) : (s.setRoute k x).d2d = s.d2d := rfl
@[simp] theorem State.setRoute_reservations (s : State) (k : Nat) (x : Route) : (s.setRoute k x).reservations = s.reservations := rfl
@[simp] theorem State.setRoute_routes (s : State) (k : Nat) (x : Route) : (s.setRoute k x).routes = AL.put s.routes k x := rfl
@[simp] theorem State.setRoute_opn (s : State) (k : Nat) (x : Route) : (s.setRoute k x).opn = s.opn := rfl
@[simp] theorem State.setRoute_arrays (s : State) (k : Nat) (x : Route) : (s.setRoute k x).arrays = s.arrays := rfl
@[simp] theorem State.setRoute_fst (s : State) (k : Nat) (x : Route) : (s.setRoute k x).fst = s.fst := rfl
@[simp] theorem State.setRoute_watch (s : State) (k : Nat) (x : Route) : (s.setRoute k x).watch = s.watch := rfl
@[simp] theorem State.setRoute_bankA (s : State) (k : Nat) (x : Route) : (s.setRoute k x).bankA = s.bankA := rfl
@[simp] theorem State.setRoute_bankB (s : State) (k : Nat) (x : Route) : (s.setRoute k x).bankB = s.bankB := rfl
@[simp] theorem State.setRoute_sched (s : State) (k : Nat) (x : Route) : (s.setRoute k x).sched = s.sched := rfl
@[simp] theorem State.setRoute_runs (s : State) (k : Nat) (x : Route) : (s.setRoute k x).runs = s.runs := rfl
@[simp] theorem State.setRoute_frozenNow (s : State) (k : Nat) (x : Route) : (s.setRoute k x).frozenNow = s.frozenNow := rfl
@[simp] theorem State.setRoute_atoms (s : State) (k : Nat) (x : Route) : (s.setRoute k x).atoms = s.atoms := rfl
@[simp] theorem State.setRoute_waiting (s : State) (k : Nat) (x : Route) : (s.setRoute k x).waiting = s.waiting := rfl
@[simp] theorem State.setRoute_movers (s : State) (k : Nat) (x : Route) : (s.setRoute k x).movers = s.movers := rfl
@[simp] theorem State.setRoute_roundEnd (s : State) (k : Nat) (x : Route) : (s.setRoute k x).roundEnd = s.roundEnd := rfl
@[simp] theorem State.setRoute_tiles (s : State) (k : Nat) (x : Route) : (s.setRoute k x).tiles = s.tiles := rfl
@[simp] theorem State.setRoute_ueStep (s : State) (k : Nat) (x : Route) : (s.setRoute k x).ueStep = s.ueStep := rfl
@[simp] theorem State.setRoute_keys (s : State) (k : Nat) (x : Route) : (s.setRoute k x).keys = s.keys := rfl
@[simp] theorem State.setRoute_meas (s : State) (k : Nat) (x : Route) : (s.setRoute k x).meas = s.meas := rfl
@[simp] theorem State.setRoute_scrub (s : State) (k : Nat) (x : Route) : (s.setRoute k x).scrub = s.scrub := rfl
@[simp] theorem State.setRoute_spots (s : State) (k : Nat) (x : Route) : (s.setRoute k x).spots = s.spots := rfl
@[simp] theorem State.setRoute_margin (s : State) (k : Nat) (x : Route) : (s.setRoute k x).margin = s.margin := rfl
@[simp] theorem State.setRoute_power (s : State) (k : Nat) (x : Route) : (s.setRoute k x).power = s.power := rfl
@[simp] theorem State.setRoute_fuses (s : State) (k : Nat) (x : Route) : (s.setRoute k x).fuses = s.fuses := rfl
@[simp] theorem State.setRoute_vane (s : State) (k : Nat) (x : Route) : (s.setRoute k x).vane = s.vane := rfl
@[simp] theorem State.setRoute_trust (s : State) (k : Nat) (x : Route) : (s.setRoute k x).trust = s.trust := rfl
@[simp] theorem State.setRoute_sessions (s : State) (k : Nat) (x : Route) : (s.setRoute k x).sessions = s.sessions := rfl
@[simp] theorem State.setRoute_opening (s : State) (k : Nat) (x : Route) : (s.setRoute k x).opening = s.opening := rfl
@[simp] theorem State.setRoute_answers (s : State) (k : Nat) (x : Route) : (s.setRoute k x).answers = s.answers := rfl
@[simp] theorem State.setRoute_streams (s : State) (k : Nat) (x : Route) : (s.setRoute k x).streams = s.streams := rfl
@[simp] theorem State.setRoute_windows (s : State) (k : Nat) (x : Route) : (s.setRoute k x).windows = s.windows := rfl

@[simp] theorem State.setSession_pending (s : State) (k : Nat) (x : Session) : (s.setSession k x).pending = s.pending := rfl
@[simp] theorem State.setSession_out (s : State) (k : Nat) (x : Session) : (s.setSession k x).out = s.out := rfl
@[simp] theorem State.setSession_free (s : State) (k : Nat) (x : Session) : (s.setSession k x).free = s.free := rfl
@[simp] theorem State.setSession_clock (s : State) (k : Nat) (x : Session) : (s.setSession k x).clock = s.clock := rfl
@[simp] theorem State.setSession_regs (s : State) (k : Nat) (x : Session) : (s.setSession k x).regs = s.regs := rfl
@[simp] theorem State.setSession_staged (s : State) (k : Nat) (x : Session) : (s.setSession k x).staged = s.staged := rfl
@[simp] theorem State.setSession_hidden (s : State) (k : Nat) (x : Session) : (s.setSession k x).hidden = s.hidden := rfl
@[simp] theorem State.setSession_trip (s : State) (k : Nat) (x : Session) : (s.setSession k x).trip = s.trip := rfl
@[simp] theorem State.setSession_rose (s : State) (k : Nat) (x : Session) : (s.setSession k x).rose = s.rose := rfl
@[simp] theorem State.setSession_mem (s : State) (k : Nat) (x : Session) : (s.setSession k x).mem = s.mem := rfl
@[simp] theorem State.setSession_events (s : State) (k : Nat) (x : Session) : (s.setSession k x).events = s.events := rfl
@[simp] theorem State.setSession_host (s : State) (k : Nat) (x : Session) : (s.setSession k x).host = s.host := rfl
@[simp] theorem State.setSession_belfry (s : State) (k : Nat) (x : Session) : (s.setSession k x).belfry = s.belfry := rfl
@[simp] theorem State.setSession_links (s : State) (k : Nat) (x : Session) : (s.setSession k x).links = s.links := rfl
@[simp] theorem State.setSession_d2d (s : State) (k : Nat) (x : Session) : (s.setSession k x).d2d = s.d2d := rfl
@[simp] theorem State.setSession_reservations (s : State) (k : Nat) (x : Session) : (s.setSession k x).reservations = s.reservations := rfl
@[simp] theorem State.setSession_routes (s : State) (k : Nat) (x : Session) : (s.setSession k x).routes = s.routes := rfl
@[simp] theorem State.setSession_opn (s : State) (k : Nat) (x : Session) : (s.setSession k x).opn = s.opn := rfl
@[simp] theorem State.setSession_arrays (s : State) (k : Nat) (x : Session) : (s.setSession k x).arrays = s.arrays := rfl
@[simp] theorem State.setSession_fst (s : State) (k : Nat) (x : Session) : (s.setSession k x).fst = s.fst := rfl
@[simp] theorem State.setSession_watch (s : State) (k : Nat) (x : Session) : (s.setSession k x).watch = s.watch := rfl
@[simp] theorem State.setSession_bankA (s : State) (k : Nat) (x : Session) : (s.setSession k x).bankA = s.bankA := rfl
@[simp] theorem State.setSession_bankB (s : State) (k : Nat) (x : Session) : (s.setSession k x).bankB = s.bankB := rfl
@[simp] theorem State.setSession_sched (s : State) (k : Nat) (x : Session) : (s.setSession k x).sched = s.sched := rfl
@[simp] theorem State.setSession_runs (s : State) (k : Nat) (x : Session) : (s.setSession k x).runs = s.runs := rfl
@[simp] theorem State.setSession_frozenNow (s : State) (k : Nat) (x : Session) : (s.setSession k x).frozenNow = s.frozenNow := rfl
@[simp] theorem State.setSession_atoms (s : State) (k : Nat) (x : Session) : (s.setSession k x).atoms = s.atoms := rfl
@[simp] theorem State.setSession_waiting (s : State) (k : Nat) (x : Session) : (s.setSession k x).waiting = s.waiting := rfl
@[simp] theorem State.setSession_movers (s : State) (k : Nat) (x : Session) : (s.setSession k x).movers = s.movers := rfl
@[simp] theorem State.setSession_roundEnd (s : State) (k : Nat) (x : Session) : (s.setSession k x).roundEnd = s.roundEnd := rfl
@[simp] theorem State.setSession_tiles (s : State) (k : Nat) (x : Session) : (s.setSession k x).tiles = s.tiles := rfl
@[simp] theorem State.setSession_ueStep (s : State) (k : Nat) (x : Session) : (s.setSession k x).ueStep = s.ueStep := rfl
@[simp] theorem State.setSession_keys (s : State) (k : Nat) (x : Session) : (s.setSession k x).keys = s.keys := rfl
@[simp] theorem State.setSession_meas (s : State) (k : Nat) (x : Session) : (s.setSession k x).meas = s.meas := rfl
@[simp] theorem State.setSession_scrub (s : State) (k : Nat) (x : Session) : (s.setSession k x).scrub = s.scrub := rfl
@[simp] theorem State.setSession_spots (s : State) (k : Nat) (x : Session) : (s.setSession k x).spots = s.spots := rfl
@[simp] theorem State.setSession_margin (s : State) (k : Nat) (x : Session) : (s.setSession k x).margin = s.margin := rfl
@[simp] theorem State.setSession_power (s : State) (k : Nat) (x : Session) : (s.setSession k x).power = s.power := rfl
@[simp] theorem State.setSession_fuses (s : State) (k : Nat) (x : Session) : (s.setSession k x).fuses = s.fuses := rfl
@[simp] theorem State.setSession_vane (s : State) (k : Nat) (x : Session) : (s.setSession k x).vane = s.vane := rfl
@[simp] theorem State.setSession_trust (s : State) (k : Nat) (x : Session) : (s.setSession k x).trust = s.trust := rfl
@[simp] theorem State.setSession_sessions (s : State) (k : Nat) (x : Session) : (s.setSession k x).sessions = AL.put s.sessions k x := rfl
@[simp] theorem State.setSession_opening (s : State) (k : Nat) (x : Session) : (s.setSession k x).opening = s.opening := rfl
@[simp] theorem State.setSession_answers (s : State) (k : Nat) (x : Session) : (s.setSession k x).answers = s.answers := rfl
@[simp] theorem State.setSession_streams (s : State) (k : Nat) (x : Session) : (s.setSession k x).streams = s.streams := rfl
@[simp] theorem State.setSession_windows (s : State) (k : Nat) (x : Session) : (s.setSession k x).windows = s.windows := rfl

@[simp] theorem State.setWindow_pending (s : State) (w : Nat) (x : CmdWin) : (s.setWindow w x).pending = s.pending := rfl
@[simp] theorem State.setWindow_out (s : State) (w : Nat) (x : CmdWin) : (s.setWindow w x).out = s.out := rfl
@[simp] theorem State.setWindow_free (s : State) (w : Nat) (x : CmdWin) : (s.setWindow w x).free = s.free := rfl
@[simp] theorem State.setWindow_clock (s : State) (w : Nat) (x : CmdWin) : (s.setWindow w x).clock = s.clock := rfl
@[simp] theorem State.setWindow_regs (s : State) (w : Nat) (x : CmdWin) : (s.setWindow w x).regs = s.regs := rfl
@[simp] theorem State.setWindow_staged (s : State) (w : Nat) (x : CmdWin) : (s.setWindow w x).staged = s.staged := rfl
@[simp] theorem State.setWindow_hidden (s : State) (w : Nat) (x : CmdWin) : (s.setWindow w x).hidden = s.hidden := rfl
@[simp] theorem State.setWindow_trip (s : State) (w : Nat) (x : CmdWin) : (s.setWindow w x).trip = s.trip := rfl
@[simp] theorem State.setWindow_rose (s : State) (w : Nat) (x : CmdWin) : (s.setWindow w x).rose = s.rose := rfl
@[simp] theorem State.setWindow_mem (s : State) (w : Nat) (x : CmdWin) : (s.setWindow w x).mem = s.mem := rfl
@[simp] theorem State.setWindow_events (s : State) (w : Nat) (x : CmdWin) : (s.setWindow w x).events = s.events := rfl
@[simp] theorem State.setWindow_host (s : State) (w : Nat) (x : CmdWin) : (s.setWindow w x).host = s.host := rfl
@[simp] theorem State.setWindow_belfry (s : State) (w : Nat) (x : CmdWin) : (s.setWindow w x).belfry = s.belfry := rfl
@[simp] theorem State.setWindow_links (s : State) (w : Nat) (x : CmdWin) : (s.setWindow w x).links = s.links := rfl
@[simp] theorem State.setWindow_d2d (s : State) (w : Nat) (x : CmdWin) : (s.setWindow w x).d2d = s.d2d := rfl
@[simp] theorem State.setWindow_reservations (s : State) (w : Nat) (x : CmdWin) : (s.setWindow w x).reservations = s.reservations := rfl
@[simp] theorem State.setWindow_routes (s : State) (w : Nat) (x : CmdWin) : (s.setWindow w x).routes = s.routes := rfl
@[simp] theorem State.setWindow_opn (s : State) (w : Nat) (x : CmdWin) : (s.setWindow w x).opn = s.opn := rfl
@[simp] theorem State.setWindow_arrays (s : State) (w : Nat) (x : CmdWin) : (s.setWindow w x).arrays = s.arrays := rfl
@[simp] theorem State.setWindow_fst (s : State) (w : Nat) (x : CmdWin) : (s.setWindow w x).fst = s.fst := rfl
@[simp] theorem State.setWindow_watch (s : State) (w : Nat) (x : CmdWin) : (s.setWindow w x).watch = s.watch := rfl
@[simp] theorem State.setWindow_bankA (s : State) (w : Nat) (x : CmdWin) : (s.setWindow w x).bankA = s.bankA := rfl
@[simp] theorem State.setWindow_bankB (s : State) (w : Nat) (x : CmdWin) : (s.setWindow w x).bankB = s.bankB := rfl
@[simp] theorem State.setWindow_sched (s : State) (w : Nat) (x : CmdWin) : (s.setWindow w x).sched = s.sched := rfl
@[simp] theorem State.setWindow_runs (s : State) (w : Nat) (x : CmdWin) : (s.setWindow w x).runs = s.runs := rfl
@[simp] theorem State.setWindow_frozenNow (s : State) (w : Nat) (x : CmdWin) : (s.setWindow w x).frozenNow = s.frozenNow := rfl
@[simp] theorem State.setWindow_atoms (s : State) (w : Nat) (x : CmdWin) : (s.setWindow w x).atoms = s.atoms := rfl
@[simp] theorem State.setWindow_waiting (s : State) (w : Nat) (x : CmdWin) : (s.setWindow w x).waiting = s.waiting := rfl
@[simp] theorem State.setWindow_movers (s : State) (w : Nat) (x : CmdWin) : (s.setWindow w x).movers = s.movers := rfl
@[simp] theorem State.setWindow_roundEnd (s : State) (w : Nat) (x : CmdWin) : (s.setWindow w x).roundEnd = s.roundEnd := rfl
@[simp] theorem State.setWindow_tiles (s : State) (w : Nat) (x : CmdWin) : (s.setWindow w x).tiles = s.tiles := rfl
@[simp] theorem State.setWindow_ueStep (s : State) (w : Nat) (x : CmdWin) : (s.setWindow w x).ueStep = s.ueStep := rfl
@[simp] theorem State.setWindow_keys (s : State) (w : Nat) (x : CmdWin) : (s.setWindow w x).keys = s.keys := rfl
@[simp] theorem State.setWindow_meas (s : State) (w : Nat) (x : CmdWin) : (s.setWindow w x).meas = s.meas := rfl
@[simp] theorem State.setWindow_scrub (s : State) (w : Nat) (x : CmdWin) : (s.setWindow w x).scrub = s.scrub := rfl
@[simp] theorem State.setWindow_spots (s : State) (w : Nat) (x : CmdWin) : (s.setWindow w x).spots = s.spots := rfl
@[simp] theorem State.setWindow_margin (s : State) (w : Nat) (x : CmdWin) : (s.setWindow w x).margin = s.margin := rfl
@[simp] theorem State.setWindow_power (s : State) (w : Nat) (x : CmdWin) : (s.setWindow w x).power = s.power := rfl
@[simp] theorem State.setWindow_fuses (s : State) (w : Nat) (x : CmdWin) : (s.setWindow w x).fuses = s.fuses := rfl
@[simp] theorem State.setWindow_vane (s : State) (w : Nat) (x : CmdWin) : (s.setWindow w x).vane = s.vane := rfl
@[simp] theorem State.setWindow_trust (s : State) (w : Nat) (x : CmdWin) : (s.setWindow w x).trust = s.trust := rfl
@[simp] theorem State.setWindow_sessions (s : State) (w : Nat) (x : CmdWin) : (s.setWindow w x).sessions = s.sessions := rfl
@[simp] theorem State.setWindow_opening (s : State) (w : Nat) (x : CmdWin) : (s.setWindow w x).opening = s.opening := rfl
@[simp] theorem State.setWindow_answers (s : State) (w : Nat) (x : CmdWin) : (s.setWindow w x).answers = s.answers := rfl
@[simp] theorem State.setWindow_streams (s : State) (w : Nat) (x : CmdWin) : (s.setWindow w x).streams = s.streams := rfl
@[simp] theorem State.setWindow_windows (s : State) (w : Nat) (x : CmdWin) : (s.setWindow w x).windows = AL.put s.windows w x := rfl

@[simp] theorem State.setRun_pending (s : State) (r : Run) : (s.setRun r).pending = s.pending := rfl
@[simp] theorem State.setRun_out (s : State) (r : Run) : (s.setRun r).out = s.out := rfl
@[simp] theorem State.setRun_free (s : State) (r : Run) : (s.setRun r).free = s.free := rfl
@[simp] theorem State.setRun_clock (s : State) (r : Run) : (s.setRun r).clock = s.clock := rfl
@[simp] theorem State.setRun_regs (s : State) (r : Run) : (s.setRun r).regs = s.regs := rfl
@[simp] theorem State.setRun_staged (s : State) (r : Run) : (s.setRun r).staged = s.staged := rfl
@[simp] theorem State.setRun_hidden (s : State) (r : Run) : (s.setRun r).hidden = s.hidden := rfl
@[simp] theorem State.setRun_trip (s : State) (r : Run) : (s.setRun r).trip = s.trip := rfl
@[simp] theorem State.setRun_rose (s : State) (r : Run) : (s.setRun r).rose = s.rose := rfl
@[simp] theorem State.setRun_mem (s : State) (r : Run) : (s.setRun r).mem = s.mem := rfl
@[simp] theorem State.setRun_events (s : State) (r : Run) : (s.setRun r).events = s.events := rfl
@[simp] theorem State.setRun_host (s : State) (r : Run) : (s.setRun r).host = s.host := rfl
@[simp] theorem State.setRun_belfry (s : State) (r : Run) : (s.setRun r).belfry = s.belfry := rfl
@[simp] theorem State.setRun_links (s : State) (r : Run) : (s.setRun r).links = s.links := rfl
@[simp] theorem State.setRun_d2d (s : State) (r : Run) : (s.setRun r).d2d = s.d2d := rfl
@[simp] theorem State.setRun_reservations (s : State) (r : Run) : (s.setRun r).reservations = s.reservations := rfl
@[simp] theorem State.setRun_routes (s : State) (r : Run) : (s.setRun r).routes = s.routes := rfl
@[simp] theorem State.setRun_opn (s : State) (r : Run) : (s.setRun r).opn = s.opn := rfl
@[simp] theorem State.setRun_arrays (s : State) (r : Run) : (s.setRun r).arrays = s.arrays := rfl
@[simp] theorem State.setRun_fst (s : State) (r : Run) : (s.setRun r).fst = s.fst := rfl
@[simp] theorem State.setRun_watch (s : State) (r : Run) : (s.setRun r).watch = s.watch := rfl
@[simp] theorem State.setRun_bankA (s : State) (r : Run) : (s.setRun r).bankA = s.bankA := rfl
@[simp] theorem State.setRun_bankB (s : State) (r : Run) : (s.setRun r).bankB = s.bankB := rfl
@[simp] theorem State.setRun_sched (s : State) (r : Run) : (s.setRun r).sched = s.sched := rfl
@[simp] theorem State.setRun_runs (s : State) (r : Run) : (s.setRun r).runs = s.runs.map fun x => if x.isAt r.kind r.unit r.slot then r else x := rfl
@[simp] theorem State.setRun_frozenNow (s : State) (r : Run) : (s.setRun r).frozenNow = s.frozenNow := rfl
@[simp] theorem State.setRun_atoms (s : State) (r : Run) : (s.setRun r).atoms = s.atoms := rfl
@[simp] theorem State.setRun_waiting (s : State) (r : Run) : (s.setRun r).waiting = s.waiting := rfl
@[simp] theorem State.setRun_movers (s : State) (r : Run) : (s.setRun r).movers = s.movers := rfl
@[simp] theorem State.setRun_roundEnd (s : State) (r : Run) : (s.setRun r).roundEnd = s.roundEnd := rfl
@[simp] theorem State.setRun_tiles (s : State) (r : Run) : (s.setRun r).tiles = s.tiles := rfl
@[simp] theorem State.setRun_ueStep (s : State) (r : Run) : (s.setRun r).ueStep = s.ueStep := rfl
@[simp] theorem State.setRun_keys (s : State) (r : Run) : (s.setRun r).keys = s.keys := rfl
@[simp] theorem State.setRun_meas (s : State) (r : Run) : (s.setRun r).meas = s.meas := rfl
@[simp] theorem State.setRun_scrub (s : State) (r : Run) : (s.setRun r).scrub = s.scrub := rfl
@[simp] theorem State.setRun_spots (s : State) (r : Run) : (s.setRun r).spots = s.spots := rfl
@[simp] theorem State.setRun_margin (s : State) (r : Run) : (s.setRun r).margin = s.margin := rfl
@[simp] theorem State.setRun_power (s : State) (r : Run) : (s.setRun r).power = s.power := rfl
@[simp] theorem State.setRun_fuses (s : State) (r : Run) : (s.setRun r).fuses = s.fuses := rfl
@[simp] theorem State.setRun_vane (s : State) (r : Run) : (s.setRun r).vane = s.vane := rfl
@[simp] theorem State.setRun_trust (s : State) (r : Run) : (s.setRun r).trust = s.trust := rfl
@[simp] theorem State.setRun_sessions (s : State) (r : Run) : (s.setRun r).sessions = s.sessions := rfl
@[simp] theorem State.setRun_opening (s : State) (r : Run) : (s.setRun r).opening = s.opening := rfl
@[simp] theorem State.setRun_answers (s : State) (r : Run) : (s.setRun r).answers = s.answers := rfl
@[simp] theorem State.setRun_streams (s : State) (r : Run) : (s.setRun r).streams = s.streams := rfl
@[simp] theorem State.setRun_windows (s : State) (r : Run) : (s.setRun r).windows = s.windows := rfl

@[simp] theorem State.poke_pending (s : State) (sp off : Nat) (l : List Byte) : (s.poke sp off l).pending = s.pending := rfl
@[simp] theorem State.poke_out (s : State) (sp off : Nat) (l : List Byte) : (s.poke sp off l).out = s.out := rfl
@[simp] theorem State.poke_free (s : State) (sp off : Nat) (l : List Byte) : (s.poke sp off l).free = s.free := rfl
@[simp] theorem State.poke_clock (s : State) (sp off : Nat) (l : List Byte) : (s.poke sp off l).clock = s.clock := rfl
@[simp] theorem State.poke_regs (s : State) (sp off : Nat) (l : List Byte) : (s.poke sp off l).regs = s.regs := rfl
@[simp] theorem State.poke_staged (s : State) (sp off : Nat) (l : List Byte) : (s.poke sp off l).staged = s.staged := rfl
@[simp] theorem State.poke_hidden (s : State) (sp off : Nat) (l : List Byte) : (s.poke sp off l).hidden = s.hidden := rfl
@[simp] theorem State.poke_trip (s : State) (sp off : Nat) (l : List Byte) : (s.poke sp off l).trip = s.trip := rfl
@[simp] theorem State.poke_rose (s : State) (sp off : Nat) (l : List Byte) : (s.poke sp off l).rose = s.rose := rfl
@[simp] theorem State.poke_mem (s : State) (sp off : Nat) (l : List Byte) : (s.poke sp off l).mem = memWrite s.mem (cellAddr sp off) l := rfl
@[simp] theorem State.poke_events (s : State) (sp off : Nat) (l : List Byte) : (s.poke sp off l).events = s.events := rfl
@[simp] theorem State.poke_host (s : State) (sp off : Nat) (l : List Byte) : (s.poke sp off l).host = s.host := rfl
@[simp] theorem State.poke_belfry (s : State) (sp off : Nat) (l : List Byte) : (s.poke sp off l).belfry = s.belfry := rfl
@[simp] theorem State.poke_links (s : State) (sp off : Nat) (l : List Byte) : (s.poke sp off l).links = s.links := rfl
@[simp] theorem State.poke_d2d (s : State) (sp off : Nat) (l : List Byte) : (s.poke sp off l).d2d = s.d2d := rfl
@[simp] theorem State.poke_reservations (s : State) (sp off : Nat) (l : List Byte) : (s.poke sp off l).reservations = s.reservations := rfl
@[simp] theorem State.poke_routes (s : State) (sp off : Nat) (l : List Byte) : (s.poke sp off l).routes = s.routes := rfl
@[simp] theorem State.poke_opn (s : State) (sp off : Nat) (l : List Byte) : (s.poke sp off l).opn = s.opn := rfl
@[simp] theorem State.poke_arrays (s : State) (sp off : Nat) (l : List Byte) : (s.poke sp off l).arrays = s.arrays := rfl
@[simp] theorem State.poke_fst (s : State) (sp off : Nat) (l : List Byte) : (s.poke sp off l).fst = s.fst := rfl
@[simp] theorem State.poke_watch (s : State) (sp off : Nat) (l : List Byte) : (s.poke sp off l).watch = s.watch := rfl
@[simp] theorem State.poke_bankA (s : State) (sp off : Nat) (l : List Byte) : (s.poke sp off l).bankA = s.bankA := rfl
@[simp] theorem State.poke_bankB (s : State) (sp off : Nat) (l : List Byte) : (s.poke sp off l).bankB = s.bankB := rfl
@[simp] theorem State.poke_sched (s : State) (sp off : Nat) (l : List Byte) : (s.poke sp off l).sched = s.sched := rfl
@[simp] theorem State.poke_runs (s : State) (sp off : Nat) (l : List Byte) : (s.poke sp off l).runs = s.runs := rfl
@[simp] theorem State.poke_frozenNow (s : State) (sp off : Nat) (l : List Byte) : (s.poke sp off l).frozenNow = s.frozenNow := rfl
@[simp] theorem State.poke_atoms (s : State) (sp off : Nat) (l : List Byte) : (s.poke sp off l).atoms = s.atoms := rfl
@[simp] theorem State.poke_waiting (s : State) (sp off : Nat) (l : List Byte) : (s.poke sp off l).waiting = s.waiting := rfl
@[simp] theorem State.poke_movers (s : State) (sp off : Nat) (l : List Byte) : (s.poke sp off l).movers = s.movers := rfl
@[simp] theorem State.poke_roundEnd (s : State) (sp off : Nat) (l : List Byte) : (s.poke sp off l).roundEnd = s.roundEnd := rfl
@[simp] theorem State.poke_tiles (s : State) (sp off : Nat) (l : List Byte) : (s.poke sp off l).tiles = s.tiles := rfl
@[simp] theorem State.poke_ueStep (s : State) (sp off : Nat) (l : List Byte) : (s.poke sp off l).ueStep = s.ueStep := rfl
@[simp] theorem State.poke_keys (s : State) (sp off : Nat) (l : List Byte) : (s.poke sp off l).keys = s.keys := rfl
@[simp] theorem State.poke_meas (s : State) (sp off : Nat) (l : List Byte) : (s.poke sp off l).meas = s.meas := rfl
@[simp] theorem State.poke_scrub (s : State) (sp off : Nat) (l : List Byte) : (s.poke sp off l).scrub = s.scrub := rfl
@[simp] theorem State.poke_spots (s : State) (sp off : Nat) (l : List Byte) : (s.poke sp off l).spots = s.spots := rfl
@[simp] theorem State.poke_margin (s : State) (sp off : Nat) (l : List Byte) : (s.poke sp off l).margin = s.margin := rfl
@[simp] theorem State.poke_power (s : State) (sp off : Nat) (l : List Byte) : (s.poke sp off l).power = s.power := rfl
@[simp] theorem State.poke_fuses (s : State) (sp off : Nat) (l : List Byte) : (s.poke sp off l).fuses = s.fuses := rfl
@[simp] theorem State.poke_vane (s : State) (sp off : Nat) (l : List Byte) : (s.poke sp off l).vane = s.vane := rfl
@[simp] theorem State.poke_trust (s : State) (sp off : Nat) (l : List Byte) : (s.poke sp off l).trust = s.trust := rfl
@[simp] theorem State.poke_sessions (s : State) (sp off : Nat) (l : List Byte) : (s.poke sp off l).sessions = s.sessions := rfl
@[simp] theorem State.poke_opening (s : State) (sp off : Nat) (l : List Byte) : (s.poke sp off l).opening = s.opening := rfl
@[simp] theorem State.poke_answers (s : State) (sp off : Nat) (l : List Byte) : (s.poke sp off l).answers = s.answers := rfl
@[simp] theorem State.poke_streams (s : State) (sp off : Nat) (l : List Byte) : (s.poke sp off l).streams = s.streams := rfl
@[simp] theorem State.poke_windows (s : State) (sp off : Nat) (l : List Byte) : (s.poke sp off l).windows = s.windows := rfl

@[simp] theorem State.noteRise_pending (s : State) (k : RegKey) (b : Nat) : (s.noteRise k b).pending = s.pending := by
  unfold State.noteRise
  split <;> rfl

@[simp] theorem State.noteRise_out (s : State) (k : RegKey) (b : Nat) : (s.noteRise k b).out = s.out := by
  unfold State.noteRise
  split <;> rfl

@[simp] theorem State.noteRise_free (s : State) (k : RegKey) (b : Nat) : (s.noteRise k b).free = s.free := by
  unfold State.noteRise
  split <;> rfl

@[simp] theorem State.noteRise_clock (s : State) (k : RegKey) (b : Nat) : (s.noteRise k b).clock = s.clock := by
  unfold State.noteRise
  split <;> rfl

@[simp] theorem State.noteRise_regs (s : State) (k : RegKey) (b : Nat) : (s.noteRise k b).regs = s.regs := by
  unfold State.noteRise
  split <;> rfl

@[simp] theorem State.noteRise_staged (s : State) (k : RegKey) (b : Nat) : (s.noteRise k b).staged = s.staged := by
  unfold State.noteRise
  split <;> rfl

@[simp] theorem State.noteRise_hidden (s : State) (k : RegKey) (b : Nat) : (s.noteRise k b).hidden = s.hidden := by
  unfold State.noteRise
  split <;> rfl

@[simp] theorem State.noteRise_trip (s : State) (k : RegKey) (b : Nat) : (s.noteRise k b).trip = s.trip := by
  unfold State.noteRise
  split <;> rfl

@[simp] theorem State.noteRise_mem (s : State) (k : RegKey) (b : Nat) : (s.noteRise k b).mem = s.mem := by
  unfold State.noteRise
  split <;> rfl

@[simp] theorem State.noteRise_events (s : State) (k : RegKey) (b : Nat) : (s.noteRise k b).events = s.events := by
  unfold State.noteRise
  split <;> rfl

@[simp] theorem State.noteRise_host (s : State) (k : RegKey) (b : Nat) : (s.noteRise k b).host = s.host := by
  unfold State.noteRise
  split <;> rfl

@[simp] theorem State.noteRise_belfry (s : State) (k : RegKey) (b : Nat) : (s.noteRise k b).belfry = s.belfry := by
  unfold State.noteRise
  split <;> rfl

@[simp] theorem State.noteRise_links (s : State) (k : RegKey) (b : Nat) : (s.noteRise k b).links = s.links := by
  unfold State.noteRise
  split <;> rfl

@[simp] theorem State.noteRise_d2d (s : State) (k : RegKey) (b : Nat) : (s.noteRise k b).d2d = s.d2d := by
  unfold State.noteRise
  split <;> rfl

@[simp] theorem State.noteRise_reservations (s : State) (k : RegKey) (b : Nat) : (s.noteRise k b).reservations = s.reservations := by
  unfold State.noteRise
  split <;> rfl

@[simp] theorem State.noteRise_routes (s : State) (k : RegKey) (b : Nat) : (s.noteRise k b).routes = s.routes := by
  unfold State.noteRise
  split <;> rfl

@[simp] theorem State.noteRise_opn (s : State) (k : RegKey) (b : Nat) : (s.noteRise k b).opn = s.opn := by
  unfold State.noteRise
  split <;> rfl

@[simp] theorem State.noteRise_arrays (s : State) (k : RegKey) (b : Nat) : (s.noteRise k b).arrays = s.arrays := by
  unfold State.noteRise
  split <;> rfl

@[simp] theorem State.noteRise_fst (s : State) (k : RegKey) (b : Nat) : (s.noteRise k b).fst = s.fst := by
  unfold State.noteRise
  split <;> rfl

@[simp] theorem State.noteRise_watch (s : State) (k : RegKey) (b : Nat) : (s.noteRise k b).watch = s.watch := by
  unfold State.noteRise
  split <;> rfl

@[simp] theorem State.noteRise_bankA (s : State) (k : RegKey) (b : Nat) : (s.noteRise k b).bankA = s.bankA := by
  unfold State.noteRise
  split <;> rfl

@[simp] theorem State.noteRise_bankB (s : State) (k : RegKey) (b : Nat) : (s.noteRise k b).bankB = s.bankB := by
  unfold State.noteRise
  split <;> rfl

@[simp] theorem State.noteRise_sched (s : State) (k : RegKey) (b : Nat) : (s.noteRise k b).sched = s.sched := by
  unfold State.noteRise
  split <;> rfl

@[simp] theorem State.noteRise_runs (s : State) (k : RegKey) (b : Nat) : (s.noteRise k b).runs = s.runs := by
  unfold State.noteRise
  split <;> rfl

@[simp] theorem State.noteRise_frozenNow (s : State) (k : RegKey) (b : Nat) : (s.noteRise k b).frozenNow = s.frozenNow := by
  unfold State.noteRise
  split <;> rfl

@[simp] theorem State.noteRise_atoms (s : State) (k : RegKey) (b : Nat) : (s.noteRise k b).atoms = s.atoms := by
  unfold State.noteRise
  split <;> rfl

@[simp] theorem State.noteRise_waiting (s : State) (k : RegKey) (b : Nat) : (s.noteRise k b).waiting = s.waiting := by
  unfold State.noteRise
  split <;> rfl

@[simp] theorem State.noteRise_movers (s : State) (k : RegKey) (b : Nat) : (s.noteRise k b).movers = s.movers := by
  unfold State.noteRise
  split <;> rfl

@[simp] theorem State.noteRise_roundEnd (s : State) (k : RegKey) (b : Nat) : (s.noteRise k b).roundEnd = s.roundEnd := by
  unfold State.noteRise
  split <;> rfl

@[simp] theorem State.noteRise_tiles (s : State) (k : RegKey) (b : Nat) : (s.noteRise k b).tiles = s.tiles := by
  unfold State.noteRise
  split <;> rfl

@[simp] theorem State.noteRise_ueStep (s : State) (k : RegKey) (b : Nat) : (s.noteRise k b).ueStep = s.ueStep := by
  unfold State.noteRise
  split <;> rfl

@[simp] theorem State.noteRise_keys (s : State) (k : RegKey) (b : Nat) : (s.noteRise k b).keys = s.keys := by
  unfold State.noteRise
  split <;> rfl

@[simp] theorem State.noteRise_meas (s : State) (k : RegKey) (b : Nat) : (s.noteRise k b).meas = s.meas := by
  unfold State.noteRise
  split <;> rfl

@[simp] theorem State.noteRise_scrub (s : State) (k : RegKey) (b : Nat) : (s.noteRise k b).scrub = s.scrub := by
  unfold State.noteRise
  split <;> rfl

@[simp] theorem State.noteRise_spots (s : State) (k : RegKey) (b : Nat) : (s.noteRise k b).spots = s.spots := by
  unfold State.noteRise
  split <;> rfl

@[simp] theorem State.noteRise_margin (s : State) (k : RegKey) (b : Nat) : (s.noteRise k b).margin = s.margin := by
  unfold State.noteRise
  split <;> rfl

@[simp] theorem State.noteRise_power (s : State) (k : RegKey) (b : Nat) : (s.noteRise k b).power = s.power := by
  unfold State.noteRise
  split <;> rfl

@[simp] theorem State.noteRise_fuses (s : State) (k : RegKey) (b : Nat) : (s.noteRise k b).fuses = s.fuses := by
  unfold State.noteRise
  split <;> rfl

@[simp] theorem State.noteRise_vane (s : State) (k : RegKey) (b : Nat) : (s.noteRise k b).vane = s.vane := by
  unfold State.noteRise
  split <;> rfl

@[simp] theorem State.noteRise_trust (s : State) (k : RegKey) (b : Nat) : (s.noteRise k b).trust = s.trust := by
  unfold State.noteRise
  split <;> rfl

@[simp] theorem State.noteRise_sessions (s : State) (k : RegKey) (b : Nat) : (s.noteRise k b).sessions = s.sessions := by
  unfold State.noteRise
  split <;> rfl

@[simp] theorem State.noteRise_opening (s : State) (k : RegKey) (b : Nat) : (s.noteRise k b).opening = s.opening := by
  unfold State.noteRise
  split <;> rfl

@[simp] theorem State.noteRise_answers (s : State) (k : RegKey) (b : Nat) : (s.noteRise k b).answers = s.answers := by
  unfold State.noteRise
  split <;> rfl

@[simp] theorem State.noteRise_streams (s : State) (k : RegKey) (b : Nat) : (s.noteRise k b).streams = s.streams := by
  unfold State.noteRise
  split <;> rfl

@[simp] theorem State.noteRise_windows (s : State) (k : RegKey) (b : Nat) : (s.noteRise k b).windows = s.windows := by
  unfold State.noteRise
  split <;> rfl

@[simp] theorem State.updi_pending (s : State) (p : PageId) (r : Reg) (i v : Nat) : (s.updi p r i v).pending = s.pending := by
  unfold State.updi
  split <;> rfl

@[simp] theorem State.updi_out (s : State) (p : PageId) (r : Reg) (i v : Nat) : (s.updi p r i v).out = s.out := by
  unfold State.updi
  split <;> rfl

@[simp] theorem State.updi_free (s : State) (p : PageId) (r : Reg) (i v : Nat) : (s.updi p r i v).free = s.free := by
  unfold State.updi
  split <;> rfl

@[simp] theorem State.updi_clock (s : State) (p : PageId) (r : Reg) (i v : Nat) : (s.updi p r i v).clock = s.clock := by
  unfold State.updi
  split <;> rfl

@[simp] theorem State.updi_staged (s : State) (p : PageId) (r : Reg) (i v : Nat) : (s.updi p r i v).staged = s.staged := by
  unfold State.updi
  split <;> rfl

@[simp] theorem State.updi_mem (s : State) (p : PageId) (r : Reg) (i v : Nat) : (s.updi p r i v).mem = s.mem := by
  unfold State.updi
  split <;> rfl

@[simp] theorem State.updi_events (s : State) (p : PageId) (r : Reg) (i v : Nat) : (s.updi p r i v).events = s.events := by
  unfold State.updi
  split <;> rfl

@[simp] theorem State.updi_host (s : State) (p : PageId) (r : Reg) (i v : Nat) : (s.updi p r i v).host = s.host := by
  unfold State.updi
  split <;> rfl

@[simp] theorem State.updi_belfry (s : State) (p : PageId) (r : Reg) (i v : Nat) : (s.updi p r i v).belfry = s.belfry := by
  unfold State.updi
  split <;> rfl

@[simp] theorem State.updi_links (s : State) (p : PageId) (r : Reg) (i v : Nat) : (s.updi p r i v).links = s.links := by
  unfold State.updi
  split <;> rfl

@[simp] theorem State.updi_d2d (s : State) (p : PageId) (r : Reg) (i v : Nat) : (s.updi p r i v).d2d = s.d2d := by
  unfold State.updi
  split <;> rfl

@[simp] theorem State.updi_reservations (s : State) (p : PageId) (r : Reg) (i v : Nat) : (s.updi p r i v).reservations = s.reservations := by
  unfold State.updi
  split <;> rfl

@[simp] theorem State.updi_routes (s : State) (p : PageId) (r : Reg) (i v : Nat) : (s.updi p r i v).routes = s.routes := by
  unfold State.updi
  split <;> rfl

@[simp] theorem State.updi_opn (s : State) (p : PageId) (r : Reg) (i v : Nat) : (s.updi p r i v).opn = s.opn := by
  unfold State.updi
  split <;> rfl

@[simp] theorem State.updi_arrays (s : State) (p : PageId) (r : Reg) (i v : Nat) : (s.updi p r i v).arrays = s.arrays := by
  unfold State.updi
  split <;> rfl

@[simp] theorem State.updi_fst (s : State) (p : PageId) (r : Reg) (i v : Nat) : (s.updi p r i v).fst = s.fst := by
  unfold State.updi
  split <;> rfl

@[simp] theorem State.updi_watch (s : State) (p : PageId) (r : Reg) (i v : Nat) : (s.updi p r i v).watch = s.watch := by
  unfold State.updi
  split <;> rfl

@[simp] theorem State.updi_bankA (s : State) (p : PageId) (r : Reg) (i v : Nat) : (s.updi p r i v).bankA = s.bankA := by
  unfold State.updi
  split <;> rfl

@[simp] theorem State.updi_bankB (s : State) (p : PageId) (r : Reg) (i v : Nat) : (s.updi p r i v).bankB = s.bankB := by
  unfold State.updi
  split <;> rfl

@[simp] theorem State.updi_sched (s : State) (p : PageId) (r : Reg) (i v : Nat) : (s.updi p r i v).sched = s.sched := by
  unfold State.updi
  split <;> rfl

@[simp] theorem State.updi_runs (s : State) (p : PageId) (r : Reg) (i v : Nat) : (s.updi p r i v).runs = s.runs := by
  unfold State.updi
  split <;> rfl

@[simp] theorem State.updi_frozenNow (s : State) (p : PageId) (r : Reg) (i v : Nat) : (s.updi p r i v).frozenNow = s.frozenNow := by
  unfold State.updi
  split <;> rfl

@[simp] theorem State.updi_atoms (s : State) (p : PageId) (r : Reg) (i v : Nat) : (s.updi p r i v).atoms = s.atoms := by
  unfold State.updi
  split <;> rfl

@[simp] theorem State.updi_waiting (s : State) (p : PageId) (r : Reg) (i v : Nat) : (s.updi p r i v).waiting = s.waiting := by
  unfold State.updi
  split <;> rfl

@[simp] theorem State.updi_movers (s : State) (p : PageId) (r : Reg) (i v : Nat) : (s.updi p r i v).movers = s.movers := by
  unfold State.updi
  split <;> rfl

@[simp] theorem State.updi_roundEnd (s : State) (p : PageId) (r : Reg) (i v : Nat) : (s.updi p r i v).roundEnd = s.roundEnd := by
  unfold State.updi
  split <;> rfl

@[simp] theorem State.updi_tiles (s : State) (p : PageId) (r : Reg) (i v : Nat) : (s.updi p r i v).tiles = s.tiles := by
  unfold State.updi
  split <;> rfl

@[simp] theorem State.updi_ueStep (s : State) (p : PageId) (r : Reg) (i v : Nat) : (s.updi p r i v).ueStep = s.ueStep := by
  unfold State.updi
  split <;> rfl

@[simp] theorem State.updi_keys (s : State) (p : PageId) (r : Reg) (i v : Nat) : (s.updi p r i v).keys = s.keys := by
  unfold State.updi
  split <;> rfl

@[simp] theorem State.updi_meas (s : State) (p : PageId) (r : Reg) (i v : Nat) : (s.updi p r i v).meas = s.meas := by
  unfold State.updi
  split <;> rfl

@[simp] theorem State.updi_scrub (s : State) (p : PageId) (r : Reg) (i v : Nat) : (s.updi p r i v).scrub = s.scrub := by
  unfold State.updi
  split <;> rfl

@[simp] theorem State.updi_spots (s : State) (p : PageId) (r : Reg) (i v : Nat) : (s.updi p r i v).spots = s.spots := by
  unfold State.updi
  split <;> rfl

@[simp] theorem State.updi_margin (s : State) (p : PageId) (r : Reg) (i v : Nat) : (s.updi p r i v).margin = s.margin := by
  unfold State.updi
  split <;> rfl

@[simp] theorem State.updi_power (s : State) (p : PageId) (r : Reg) (i v : Nat) : (s.updi p r i v).power = s.power := by
  unfold State.updi
  split <;> rfl

@[simp] theorem State.updi_fuses (s : State) (p : PageId) (r : Reg) (i v : Nat) : (s.updi p r i v).fuses = s.fuses := by
  unfold State.updi
  split <;> rfl

@[simp] theorem State.updi_vane (s : State) (p : PageId) (r : Reg) (i v : Nat) : (s.updi p r i v).vane = s.vane := by
  unfold State.updi
  split <;> rfl

@[simp] theorem State.updi_trust (s : State) (p : PageId) (r : Reg) (i v : Nat) : (s.updi p r i v).trust = s.trust := by
  unfold State.updi
  split <;> rfl

@[simp] theorem State.updi_sessions (s : State) (p : PageId) (r : Reg) (i v : Nat) : (s.updi p r i v).sessions = s.sessions := by
  unfold State.updi
  split <;> rfl

@[simp] theorem State.updi_opening (s : State) (p : PageId) (r : Reg) (i v : Nat) : (s.updi p r i v).opening = s.opening := by
  unfold State.updi
  split <;> rfl

@[simp] theorem State.updi_answers (s : State) (p : PageId) (r : Reg) (i v : Nat) : (s.updi p r i v).answers = s.answers := by
  unfold State.updi
  split <;> rfl

@[simp] theorem State.updi_streams (s : State) (p : PageId) (r : Reg) (i v : Nat) : (s.updi p r i v).streams = s.streams := by
  unfold State.updi
  split <;> rfl

@[simp] theorem State.updi_windows (s : State) (p : PageId) (r : Reg) (i v : Nat) : (s.updi p r i v).windows = s.windows := by
  unfold State.updi
  split <;> rfl


@[simp] theorem State.wri_pending (s : State) (p : PageId) (r : Reg) (i v : Nat) : (s.wri p r i v).pending = s.pending :=
  (State.updi_pending ..).trans (State.noteRise_pending ..)

@[simp] theorem State.wri_out (s : State) (p : PageId) (r : Reg) (i v : Nat) : (s.wri p r i v).out = s.out :=
  (State.updi_out ..).trans (State.noteRise_out ..)

@[simp] theorem State.wri_free (s : State) (p : PageId) (r : Reg) (i v : Nat) : (s.wri p r i v).free = s.free :=
  (State.updi_free ..).trans (State.noteRise_free ..)

@[simp] theorem State.wri_clock (s : State) (p : PageId) (r : Reg) (i v : Nat) : (s.wri p r i v).clock = s.clock :=
  (State.updi_clock ..).trans (State.noteRise_clock ..)

@[simp] theorem State.wri_staged (s : State) (p : PageId) (r : Reg) (i v : Nat) : (s.wri p r i v).staged = s.staged :=
  (State.updi_staged ..).trans (State.noteRise_staged ..)

@[simp] theorem State.wri_mem (s : State) (p : PageId) (r : Reg) (i v : Nat) : (s.wri p r i v).mem = s.mem :=
  (State.updi_mem ..).trans (State.noteRise_mem ..)

@[simp] theorem State.wri_events (s : State) (p : PageId) (r : Reg) (i v : Nat) : (s.wri p r i v).events = s.events :=
  (State.updi_events ..).trans (State.noteRise_events ..)

@[simp] theorem State.wri_host (s : State) (p : PageId) (r : Reg) (i v : Nat) : (s.wri p r i v).host = s.host :=
  (State.updi_host ..).trans (State.noteRise_host ..)

@[simp] theorem State.wri_belfry (s : State) (p : PageId) (r : Reg) (i v : Nat) : (s.wri p r i v).belfry = s.belfry :=
  (State.updi_belfry ..).trans (State.noteRise_belfry ..)

@[simp] theorem State.wri_links (s : State) (p : PageId) (r : Reg) (i v : Nat) : (s.wri p r i v).links = s.links :=
  (State.updi_links ..).trans (State.noteRise_links ..)

@[simp] theorem State.wri_d2d (s : State) (p : PageId) (r : Reg) (i v : Nat) : (s.wri p r i v).d2d = s.d2d :=
  (State.updi_d2d ..).trans (State.noteRise_d2d ..)

@[simp] theorem State.wri_reservations (s : State) (p : PageId) (r : Reg) (i v : Nat) : (s.wri p r i v).reservations = s.reservations :=
  (State.updi_reservations ..).trans (State.noteRise_reservations ..)

@[simp] theorem State.wri_routes (s : State) (p : PageId) (r : Reg) (i v : Nat) : (s.wri p r i v).routes = s.routes :=
  (State.updi_routes ..).trans (State.noteRise_routes ..)

@[simp] theorem State.wri_opn (s : State) (p : PageId) (r : Reg) (i v : Nat) : (s.wri p r i v).opn = s.opn :=
  (State.updi_opn ..).trans (State.noteRise_opn ..)

@[simp] theorem State.wri_arrays (s : State) (p : PageId) (r : Reg) (i v : Nat) : (s.wri p r i v).arrays = s.arrays :=
  (State.updi_arrays ..).trans (State.noteRise_arrays ..)

@[simp] theorem State.wri_fst (s : State) (p : PageId) (r : Reg) (i v : Nat) : (s.wri p r i v).fst = s.fst :=
  (State.updi_fst ..).trans (State.noteRise_fst ..)

@[simp] theorem State.wri_watch (s : State) (p : PageId) (r : Reg) (i v : Nat) : (s.wri p r i v).watch = s.watch :=
  (State.updi_watch ..).trans (State.noteRise_watch ..)

@[simp] theorem State.wri_bankA (s : State) (p : PageId) (r : Reg) (i v : Nat) : (s.wri p r i v).bankA = s.bankA :=
  (State.updi_bankA ..).trans (State.noteRise_bankA ..)

@[simp] theorem State.wri_bankB (s : State) (p : PageId) (r : Reg) (i v : Nat) : (s.wri p r i v).bankB = s.bankB :=
  (State.updi_bankB ..).trans (State.noteRise_bankB ..)

@[simp] theorem State.wri_sched (s : State) (p : PageId) (r : Reg) (i v : Nat) : (s.wri p r i v).sched = s.sched :=
  (State.updi_sched ..).trans (State.noteRise_sched ..)

@[simp] theorem State.wri_runs (s : State) (p : PageId) (r : Reg) (i v : Nat) : (s.wri p r i v).runs = s.runs :=
  (State.updi_runs ..).trans (State.noteRise_runs ..)

@[simp] theorem State.wri_frozenNow (s : State) (p : PageId) (r : Reg) (i v : Nat) : (s.wri p r i v).frozenNow = s.frozenNow :=
  (State.updi_frozenNow ..).trans (State.noteRise_frozenNow ..)

@[simp] theorem State.wri_atoms (s : State) (p : PageId) (r : Reg) (i v : Nat) : (s.wri p r i v).atoms = s.atoms :=
  (State.updi_atoms ..).trans (State.noteRise_atoms ..)

@[simp] theorem State.wri_waiting (s : State) (p : PageId) (r : Reg) (i v : Nat) : (s.wri p r i v).waiting = s.waiting :=
  (State.updi_waiting ..).trans (State.noteRise_waiting ..)

@[simp] theorem State.wri_movers (s : State) (p : PageId) (r : Reg) (i v : Nat) : (s.wri p r i v).movers = s.movers :=
  (State.updi_movers ..).trans (State.noteRise_movers ..)

@[simp] theorem State.wri_roundEnd (s : State) (p : PageId) (r : Reg) (i v : Nat) : (s.wri p r i v).roundEnd = s.roundEnd :=
  (State.updi_roundEnd ..).trans (State.noteRise_roundEnd ..)

@[simp] theorem State.wri_tiles (s : State) (p : PageId) (r : Reg) (i v : Nat) : (s.wri p r i v).tiles = s.tiles :=
  (State.updi_tiles ..).trans (State.noteRise_tiles ..)

@[simp] theorem State.wri_ueStep (s : State) (p : PageId) (r : Reg) (i v : Nat) : (s.wri p r i v).ueStep = s.ueStep :=
  (State.updi_ueStep ..).trans (State.noteRise_ueStep ..)

@[simp] theorem State.wri_keys (s : State) (p : PageId) (r : Reg) (i v : Nat) : (s.wri p r i v).keys = s.keys :=
  (State.updi_keys ..).trans (State.noteRise_keys ..)

@[simp] theorem State.wri_meas (s : State) (p : PageId) (r : Reg) (i v : Nat) : (s.wri p r i v).meas = s.meas :=
  (State.updi_meas ..).trans (State.noteRise_meas ..)

@[simp] theorem State.wri_scrub (s : State) (p : PageId) (r : Reg) (i v : Nat) : (s.wri p r i v).scrub = s.scrub :=
  (State.updi_scrub ..).trans (State.noteRise_scrub ..)

@[simp] theorem State.wri_spots (s : State) (p : PageId) (r : Reg) (i v : Nat) : (s.wri p r i v).spots = s.spots :=
  (State.updi_spots ..).trans (State.noteRise_spots ..)

@[simp] theorem State.wri_margin (s : State) (p : PageId) (r : Reg) (i v : Nat) : (s.wri p r i v).margin = s.margin :=
  (State.updi_margin ..).trans (State.noteRise_margin ..)

@[simp] theorem State.wri_power (s : State) (p : PageId) (r : Reg) (i v : Nat) : (s.wri p r i v).power = s.power :=
  (State.updi_power ..).trans (State.noteRise_power ..)

@[simp] theorem State.wri_fuses (s : State) (p : PageId) (r : Reg) (i v : Nat) : (s.wri p r i v).fuses = s.fuses :=
  (State.updi_fuses ..).trans (State.noteRise_fuses ..)

@[simp] theorem State.wri_vane (s : State) (p : PageId) (r : Reg) (i v : Nat) : (s.wri p r i v).vane = s.vane :=
  (State.updi_vane ..).trans (State.noteRise_vane ..)

@[simp] theorem State.wri_trust (s : State) (p : PageId) (r : Reg) (i v : Nat) : (s.wri p r i v).trust = s.trust :=
  (State.updi_trust ..).trans (State.noteRise_trust ..)

@[simp] theorem State.wri_sessions (s : State) (p : PageId) (r : Reg) (i v : Nat) : (s.wri p r i v).sessions = s.sessions :=
  (State.updi_sessions ..).trans (State.noteRise_sessions ..)

@[simp] theorem State.wri_opening (s : State) (p : PageId) (r : Reg) (i v : Nat) : (s.wri p r i v).opening = s.opening :=
  (State.updi_opening ..).trans (State.noteRise_opening ..)

@[simp] theorem State.wri_answers (s : State) (p : PageId) (r : Reg) (i v : Nat) : (s.wri p r i v).answers = s.answers :=
  (State.updi_answers ..).trans (State.noteRise_answers ..)

@[simp] theorem State.wri_streams (s : State) (p : PageId) (r : Reg) (i v : Nat) : (s.wri p r i v).streams = s.streams :=
  (State.updi_streams ..).trans (State.noteRise_streams ..)

@[simp] theorem State.wri_windows (s : State) (p : PageId) (r : Reg) (i v : Nat) : (s.wri p r i v).windows = s.windows :=
  (State.updi_windows ..).trans (State.noteRise_windows ..)

/-- The other hardware updates of fields are `wri`. -/
theorem State.wr_eq (s : State) (p : PageId) (r : Reg) (v : Nat) : s.wr p r v = s.wri p r 0 v := rfl
theorem State.wrb_eq (s : State) (p : PageId) (r : Reg) (b : Bool) : s.wrb p r b = s.wri p r 0 (b2n b) := rfl

@[simp] theorem State.wr_pending (s : State) (p : PageId) (r : Reg) (v : Nat) : (s.wr p r v).pending = s.pending := State.wri_pending ..
@[simp] theorem State.wr_out (s : State) (p : PageId) (r : Reg) (v : Nat) : (s.wr p r v).out = s.out := State.wri_out ..
@[simp] theorem State.wr_free (s : State) (p : PageId) (r : Reg) (v : Nat) : (s.wr p r v).free = s.free := State.wri_free ..
@[simp] theorem State.wr_clock (s : State) (p : PageId) (r : Reg) (v : Nat) : (s.wr p r v).clock = s.clock := State.wri_clock ..
@[simp] theorem State.wr_staged (s : State) (p : PageId) (r : Reg) (v : Nat) : (s.wr p r v).staged = s.staged := State.wri_staged ..
@[simp] theorem State.wr_mem (s : State) (p : PageId) (r : Reg) (v : Nat) : (s.wr p r v).mem = s.mem := State.wri_mem ..
@[simp] theorem State.wr_events (s : State) (p : PageId) (r : Reg) (v : Nat) : (s.wr p r v).events = s.events := State.wri_events ..
@[simp] theorem State.wr_host (s : State) (p : PageId) (r : Reg) (v : Nat) : (s.wr p r v).host = s.host := State.wri_host ..
@[simp] theorem State.wr_belfry (s : State) (p : PageId) (r : Reg) (v : Nat) : (s.wr p r v).belfry = s.belfry := State.wri_belfry ..
@[simp] theorem State.wr_links (s : State) (p : PageId) (r : Reg) (v : Nat) : (s.wr p r v).links = s.links := State.wri_links ..
@[simp] theorem State.wr_d2d (s : State) (p : PageId) (r : Reg) (v : Nat) : (s.wr p r v).d2d = s.d2d := State.wri_d2d ..
@[simp] theorem State.wr_reservations (s : State) (p : PageId) (r : Reg) (v : Nat) : (s.wr p r v).reservations = s.reservations := State.wri_reservations ..
@[simp] theorem State.wr_routes (s : State) (p : PageId) (r : Reg) (v : Nat) : (s.wr p r v).routes = s.routes := State.wri_routes ..
@[simp] theorem State.wr_opn (s : State) (p : PageId) (r : Reg) (v : Nat) : (s.wr p r v).opn = s.opn := State.wri_opn ..
@[simp] theorem State.wr_arrays (s : State) (p : PageId) (r : Reg) (v : Nat) : (s.wr p r v).arrays = s.arrays := State.wri_arrays ..
@[simp] theorem State.wr_fst (s : State) (p : PageId) (r : Reg) (v : Nat) : (s.wr p r v).fst = s.fst := State.wri_fst ..
@[simp] theorem State.wr_watch (s : State) (p : PageId) (r : Reg) (v : Nat) : (s.wr p r v).watch = s.watch := State.wri_watch ..
@[simp] theorem State.wr_bankA (s : State) (p : PageId) (r : Reg) (v : Nat) : (s.wr p r v).bankA = s.bankA := State.wri_bankA ..
@[simp] theorem State.wr_bankB (s : State) (p : PageId) (r : Reg) (v : Nat) : (s.wr p r v).bankB = s.bankB := State.wri_bankB ..
@[simp] theorem State.wr_sched (s : State) (p : PageId) (r : Reg) (v : Nat) : (s.wr p r v).sched = s.sched := State.wri_sched ..
@[simp] theorem State.wr_runs (s : State) (p : PageId) (r : Reg) (v : Nat) : (s.wr p r v).runs = s.runs := State.wri_runs ..
@[simp] theorem State.wr_frozenNow (s : State) (p : PageId) (r : Reg) (v : Nat) : (s.wr p r v).frozenNow = s.frozenNow := State.wri_frozenNow ..
@[simp] theorem State.wr_atoms (s : State) (p : PageId) (r : Reg) (v : Nat) : (s.wr p r v).atoms = s.atoms := State.wri_atoms ..
@[simp] theorem State.wr_waiting (s : State) (p : PageId) (r : Reg) (v : Nat) : (s.wr p r v).waiting = s.waiting := State.wri_waiting ..
@[simp] theorem State.wr_movers (s : State) (p : PageId) (r : Reg) (v : Nat) : (s.wr p r v).movers = s.movers := State.wri_movers ..
@[simp] theorem State.wr_roundEnd (s : State) (p : PageId) (r : Reg) (v : Nat) : (s.wr p r v).roundEnd = s.roundEnd := State.wri_roundEnd ..
@[simp] theorem State.wr_tiles (s : State) (p : PageId) (r : Reg) (v : Nat) : (s.wr p r v).tiles = s.tiles := State.wri_tiles ..
@[simp] theorem State.wr_ueStep (s : State) (p : PageId) (r : Reg) (v : Nat) : (s.wr p r v).ueStep = s.ueStep := State.wri_ueStep ..
@[simp] theorem State.wr_keys (s : State) (p : PageId) (r : Reg) (v : Nat) : (s.wr p r v).keys = s.keys := State.wri_keys ..
@[simp] theorem State.wr_meas (s : State) (p : PageId) (r : Reg) (v : Nat) : (s.wr p r v).meas = s.meas := State.wri_meas ..
@[simp] theorem State.wr_scrub (s : State) (p : PageId) (r : Reg) (v : Nat) : (s.wr p r v).scrub = s.scrub := State.wri_scrub ..
@[simp] theorem State.wr_spots (s : State) (p : PageId) (r : Reg) (v : Nat) : (s.wr p r v).spots = s.spots := State.wri_spots ..
@[simp] theorem State.wr_margin (s : State) (p : PageId) (r : Reg) (v : Nat) : (s.wr p r v).margin = s.margin := State.wri_margin ..
@[simp] theorem State.wr_power (s : State) (p : PageId) (r : Reg) (v : Nat) : (s.wr p r v).power = s.power := State.wri_power ..
@[simp] theorem State.wr_fuses (s : State) (p : PageId) (r : Reg) (v : Nat) : (s.wr p r v).fuses = s.fuses := State.wri_fuses ..
@[simp] theorem State.wr_vane (s : State) (p : PageId) (r : Reg) (v : Nat) : (s.wr p r v).vane = s.vane := State.wri_vane ..
@[simp] theorem State.wr_trust (s : State) (p : PageId) (r : Reg) (v : Nat) : (s.wr p r v).trust = s.trust := State.wri_trust ..
@[simp] theorem State.wr_sessions (s : State) (p : PageId) (r : Reg) (v : Nat) : (s.wr p r v).sessions = s.sessions := State.wri_sessions ..
@[simp] theorem State.wr_opening (s : State) (p : PageId) (r : Reg) (v : Nat) : (s.wr p r v).opening = s.opening := State.wri_opening ..
@[simp] theorem State.wr_answers (s : State) (p : PageId) (r : Reg) (v : Nat) : (s.wr p r v).answers = s.answers := State.wri_answers ..
@[simp] theorem State.wr_streams (s : State) (p : PageId) (r : Reg) (v : Nat) : (s.wr p r v).streams = s.streams := State.wri_streams ..
@[simp] theorem State.wr_windows (s : State) (p : PageId) (r : Reg) (v : Nat) : (s.wr p r v).windows = s.windows := State.wri_windows ..

@[simp] theorem State.wrb_pending (s : State) (p : PageId) (r : Reg) (b : Bool) : (s.wrb p r b).pending = s.pending := State.wri_pending ..
@[simp] theorem State.wrb_out (s : State) (p : PageId) (r : Reg) (b : Bool) : (s.wrb p r b).out = s.out := State.wri_out ..
@[simp] theorem State.wrb_free (s : State) (p : PageId) (r : Reg) (b : Bool) : (s.wrb p r b).free = s.free := State.wri_free ..
@[simp] theorem State.wrb_clock (s : State) (p : PageId) (r : Reg) (b : Bool) : (s.wrb p r b).clock = s.clock := State.wri_clock ..
@[simp] theorem State.wrb_staged (s : State) (p : PageId) (r : Reg) (b : Bool) : (s.wrb p r b).staged = s.staged := State.wri_staged ..
@[simp] theorem State.wrb_mem (s : State) (p : PageId) (r : Reg) (b : Bool) : (s.wrb p r b).mem = s.mem := State.wri_mem ..
@[simp] theorem State.wrb_events (s : State) (p : PageId) (r : Reg) (b : Bool) : (s.wrb p r b).events = s.events := State.wri_events ..
@[simp] theorem State.wrb_host (s : State) (p : PageId) (r : Reg) (b : Bool) : (s.wrb p r b).host = s.host := State.wri_host ..
@[simp] theorem State.wrb_belfry (s : State) (p : PageId) (r : Reg) (b : Bool) : (s.wrb p r b).belfry = s.belfry := State.wri_belfry ..
@[simp] theorem State.wrb_links (s : State) (p : PageId) (r : Reg) (b : Bool) : (s.wrb p r b).links = s.links := State.wri_links ..
@[simp] theorem State.wrb_d2d (s : State) (p : PageId) (r : Reg) (b : Bool) : (s.wrb p r b).d2d = s.d2d := State.wri_d2d ..
@[simp] theorem State.wrb_reservations (s : State) (p : PageId) (r : Reg) (b : Bool) : (s.wrb p r b).reservations = s.reservations := State.wri_reservations ..
@[simp] theorem State.wrb_routes (s : State) (p : PageId) (r : Reg) (b : Bool) : (s.wrb p r b).routes = s.routes := State.wri_routes ..
@[simp] theorem State.wrb_opn (s : State) (p : PageId) (r : Reg) (b : Bool) : (s.wrb p r b).opn = s.opn := State.wri_opn ..
@[simp] theorem State.wrb_arrays (s : State) (p : PageId) (r : Reg) (b : Bool) : (s.wrb p r b).arrays = s.arrays := State.wri_arrays ..
@[simp] theorem State.wrb_fst (s : State) (p : PageId) (r : Reg) (b : Bool) : (s.wrb p r b).fst = s.fst := State.wri_fst ..
@[simp] theorem State.wrb_watch (s : State) (p : PageId) (r : Reg) (b : Bool) : (s.wrb p r b).watch = s.watch := State.wri_watch ..
@[simp] theorem State.wrb_bankA (s : State) (p : PageId) (r : Reg) (b : Bool) : (s.wrb p r b).bankA = s.bankA := State.wri_bankA ..
@[simp] theorem State.wrb_bankB (s : State) (p : PageId) (r : Reg) (b : Bool) : (s.wrb p r b).bankB = s.bankB := State.wri_bankB ..
@[simp] theorem State.wrb_sched (s : State) (p : PageId) (r : Reg) (b : Bool) : (s.wrb p r b).sched = s.sched := State.wri_sched ..
@[simp] theorem State.wrb_runs (s : State) (p : PageId) (r : Reg) (b : Bool) : (s.wrb p r b).runs = s.runs := State.wri_runs ..
@[simp] theorem State.wrb_frozenNow (s : State) (p : PageId) (r : Reg) (b : Bool) : (s.wrb p r b).frozenNow = s.frozenNow := State.wri_frozenNow ..
@[simp] theorem State.wrb_atoms (s : State) (p : PageId) (r : Reg) (b : Bool) : (s.wrb p r b).atoms = s.atoms := State.wri_atoms ..
@[simp] theorem State.wrb_waiting (s : State) (p : PageId) (r : Reg) (b : Bool) : (s.wrb p r b).waiting = s.waiting := State.wri_waiting ..
@[simp] theorem State.wrb_movers (s : State) (p : PageId) (r : Reg) (b : Bool) : (s.wrb p r b).movers = s.movers := State.wri_movers ..
@[simp] theorem State.wrb_roundEnd (s : State) (p : PageId) (r : Reg) (b : Bool) : (s.wrb p r b).roundEnd = s.roundEnd := State.wri_roundEnd ..
@[simp] theorem State.wrb_tiles (s : State) (p : PageId) (r : Reg) (b : Bool) : (s.wrb p r b).tiles = s.tiles := State.wri_tiles ..
@[simp] theorem State.wrb_ueStep (s : State) (p : PageId) (r : Reg) (b : Bool) : (s.wrb p r b).ueStep = s.ueStep := State.wri_ueStep ..
@[simp] theorem State.wrb_keys (s : State) (p : PageId) (r : Reg) (b : Bool) : (s.wrb p r b).keys = s.keys := State.wri_keys ..
@[simp] theorem State.wrb_meas (s : State) (p : PageId) (r : Reg) (b : Bool) : (s.wrb p r b).meas = s.meas := State.wri_meas ..
@[simp] theorem State.wrb_scrub (s : State) (p : PageId) (r : Reg) (b : Bool) : (s.wrb p r b).scrub = s.scrub := State.wri_scrub ..
@[simp] theorem State.wrb_spots (s : State) (p : PageId) (r : Reg) (b : Bool) : (s.wrb p r b).spots = s.spots := State.wri_spots ..
@[simp] theorem State.wrb_margin (s : State) (p : PageId) (r : Reg) (b : Bool) : (s.wrb p r b).margin = s.margin := State.wri_margin ..
@[simp] theorem State.wrb_power (s : State) (p : PageId) (r : Reg) (b : Bool) : (s.wrb p r b).power = s.power := State.wri_power ..
@[simp] theorem State.wrb_fuses (s : State) (p : PageId) (r : Reg) (b : Bool) : (s.wrb p r b).fuses = s.fuses := State.wri_fuses ..
@[simp] theorem State.wrb_vane (s : State) (p : PageId) (r : Reg) (b : Bool) : (s.wrb p r b).vane = s.vane := State.wri_vane ..
@[simp] theorem State.wrb_trust (s : State) (p : PageId) (r : Reg) (b : Bool) : (s.wrb p r b).trust = s.trust := State.wri_trust ..
@[simp] theorem State.wrb_sessions (s : State) (p : PageId) (r : Reg) (b : Bool) : (s.wrb p r b).sessions = s.sessions := State.wri_sessions ..
@[simp] theorem State.wrb_opening (s : State) (p : PageId) (r : Reg) (b : Bool) : (s.wrb p r b).opening = s.opening := State.wri_opening ..
@[simp] theorem State.wrb_answers (s : State) (p : PageId) (r : Reg) (b : Bool) : (s.wrb p r b).answers = s.answers := State.wri_answers ..
@[simp] theorem State.wrb_streams (s : State) (p : PageId) (r : Reg) (b : Bool) : (s.wrb p r b).streams = s.streams := State.wri_streams ..
@[simp] theorem State.wrb_windows (s : State) (p : PageId) (r : Reg) (b : Bool) : (s.wrb p r b).windows = s.windows := State.wri_windows ..

@[simp] theorem State.bumpi_pending (s : State) (p : PageId) (r : Reg) (i n : Nat) : (s.bumpi p r i n).pending = s.pending := State.wri_pending ..
@[simp] theorem State.bumpi_out (s : State) (p : PageId) (r : Reg) (i n : Nat) : (s.bumpi p r i n).out = s.out := State.wri_out ..
@[simp] theorem State.bumpi_free (s : State) (p : PageId) (r : Reg) (i n : Nat) : (s.bumpi p r i n).free = s.free := State.wri_free ..
@[simp] theorem State.bumpi_clock (s : State) (p : PageId) (r : Reg) (i n : Nat) : (s.bumpi p r i n).clock = s.clock := State.wri_clock ..
@[simp] theorem State.bumpi_staged (s : State) (p : PageId) (r : Reg) (i n : Nat) : (s.bumpi p r i n).staged = s.staged := State.wri_staged ..
@[simp] theorem State.bumpi_mem (s : State) (p : PageId) (r : Reg) (i n : Nat) : (s.bumpi p r i n).mem = s.mem := State.wri_mem ..
@[simp] theorem State.bumpi_events (s : State) (p : PageId) (r : Reg) (i n : Nat) : (s.bumpi p r i n).events = s.events := State.wri_events ..
@[simp] theorem State.bumpi_host (s : State) (p : PageId) (r : Reg) (i n : Nat) : (s.bumpi p r i n).host = s.host := State.wri_host ..
@[simp] theorem State.bumpi_belfry (s : State) (p : PageId) (r : Reg) (i n : Nat) : (s.bumpi p r i n).belfry = s.belfry := State.wri_belfry ..
@[simp] theorem State.bumpi_links (s : State) (p : PageId) (r : Reg) (i n : Nat) : (s.bumpi p r i n).links = s.links := State.wri_links ..
@[simp] theorem State.bumpi_d2d (s : State) (p : PageId) (r : Reg) (i n : Nat) : (s.bumpi p r i n).d2d = s.d2d := State.wri_d2d ..
@[simp] theorem State.bumpi_reservations (s : State) (p : PageId) (r : Reg) (i n : Nat) : (s.bumpi p r i n).reservations = s.reservations := State.wri_reservations ..
@[simp] theorem State.bumpi_routes (s : State) (p : PageId) (r : Reg) (i n : Nat) : (s.bumpi p r i n).routes = s.routes := State.wri_routes ..
@[simp] theorem State.bumpi_opn (s : State) (p : PageId) (r : Reg) (i n : Nat) : (s.bumpi p r i n).opn = s.opn := State.wri_opn ..
@[simp] theorem State.bumpi_arrays (s : State) (p : PageId) (r : Reg) (i n : Nat) : (s.bumpi p r i n).arrays = s.arrays := State.wri_arrays ..
@[simp] theorem State.bumpi_fst (s : State) (p : PageId) (r : Reg) (i n : Nat) : (s.bumpi p r i n).fst = s.fst := State.wri_fst ..
@[simp] theorem State.bumpi_watch (s : State) (p : PageId) (r : Reg) (i n : Nat) : (s.bumpi p r i n).watch = s.watch := State.wri_watch ..
@[simp] theorem State.bumpi_bankA (s : State) (p : PageId) (r : Reg) (i n : Nat) : (s.bumpi p r i n).bankA = s.bankA := State.wri_bankA ..
@[simp] theorem State.bumpi_bankB (s : State) (p : PageId) (r : Reg) (i n : Nat) : (s.bumpi p r i n).bankB = s.bankB := State.wri_bankB ..
@[simp] theorem State.bumpi_sched (s : State) (p : PageId) (r : Reg) (i n : Nat) : (s.bumpi p r i n).sched = s.sched := State.wri_sched ..
@[simp] theorem State.bumpi_runs (s : State) (p : PageId) (r : Reg) (i n : Nat) : (s.bumpi p r i n).runs = s.runs := State.wri_runs ..
@[simp] theorem State.bumpi_frozenNow (s : State) (p : PageId) (r : Reg) (i n : Nat) : (s.bumpi p r i n).frozenNow = s.frozenNow := State.wri_frozenNow ..
@[simp] theorem State.bumpi_atoms (s : State) (p : PageId) (r : Reg) (i n : Nat) : (s.bumpi p r i n).atoms = s.atoms := State.wri_atoms ..
@[simp] theorem State.bumpi_waiting (s : State) (p : PageId) (r : Reg) (i n : Nat) : (s.bumpi p r i n).waiting = s.waiting := State.wri_waiting ..
@[simp] theorem State.bumpi_movers (s : State) (p : PageId) (r : Reg) (i n : Nat) : (s.bumpi p r i n).movers = s.movers := State.wri_movers ..
@[simp] theorem State.bumpi_roundEnd (s : State) (p : PageId) (r : Reg) (i n : Nat) : (s.bumpi p r i n).roundEnd = s.roundEnd := State.wri_roundEnd ..
@[simp] theorem State.bumpi_tiles (s : State) (p : PageId) (r : Reg) (i n : Nat) : (s.bumpi p r i n).tiles = s.tiles := State.wri_tiles ..
@[simp] theorem State.bumpi_ueStep (s : State) (p : PageId) (r : Reg) (i n : Nat) : (s.bumpi p r i n).ueStep = s.ueStep := State.wri_ueStep ..
@[simp] theorem State.bumpi_keys (s : State) (p : PageId) (r : Reg) (i n : Nat) : (s.bumpi p r i n).keys = s.keys := State.wri_keys ..
@[simp] theorem State.bumpi_meas (s : State) (p : PageId) (r : Reg) (i n : Nat) : (s.bumpi p r i n).meas = s.meas := State.wri_meas ..
@[simp] theorem State.bumpi_scrub (s : State) (p : PageId) (r : Reg) (i n : Nat) : (s.bumpi p r i n).scrub = s.scrub := State.wri_scrub ..
@[simp] theorem State.bumpi_spots (s : State) (p : PageId) (r : Reg) (i n : Nat) : (s.bumpi p r i n).spots = s.spots := State.wri_spots ..
@[simp] theorem State.bumpi_margin (s : State) (p : PageId) (r : Reg) (i n : Nat) : (s.bumpi p r i n).margin = s.margin := State.wri_margin ..
@[simp] theorem State.bumpi_power (s : State) (p : PageId) (r : Reg) (i n : Nat) : (s.bumpi p r i n).power = s.power := State.wri_power ..
@[simp] theorem State.bumpi_fuses (s : State) (p : PageId) (r : Reg) (i n : Nat) : (s.bumpi p r i n).fuses = s.fuses := State.wri_fuses ..
@[simp] theorem State.bumpi_vane (s : State) (p : PageId) (r : Reg) (i n : Nat) : (s.bumpi p r i n).vane = s.vane := State.wri_vane ..
@[simp] theorem State.bumpi_trust (s : State) (p : PageId) (r : Reg) (i n : Nat) : (s.bumpi p r i n).trust = s.trust := State.wri_trust ..
@[simp] theorem State.bumpi_sessions (s : State) (p : PageId) (r : Reg) (i n : Nat) : (s.bumpi p r i n).sessions = s.sessions := State.wri_sessions ..
@[simp] theorem State.bumpi_opening (s : State) (p : PageId) (r : Reg) (i n : Nat) : (s.bumpi p r i n).opening = s.opening := State.wri_opening ..
@[simp] theorem State.bumpi_answers (s : State) (p : PageId) (r : Reg) (i n : Nat) : (s.bumpi p r i n).answers = s.answers := State.wri_answers ..
@[simp] theorem State.bumpi_streams (s : State) (p : PageId) (r : Reg) (i n : Nat) : (s.bumpi p r i n).streams = s.streams := State.wri_streams ..
@[simp] theorem State.bumpi_windows (s : State) (p : PageId) (r : Reg) (i n : Nat) : (s.bumpi p r i n).windows = s.windows := State.wri_windows ..

@[simp] theorem State.bump_pending (s : State) (p : PageId) (r : Reg) (n : Nat) : (s.bump p r n).pending = s.pending := State.wri_pending ..
@[simp] theorem State.bump_out (s : State) (p : PageId) (r : Reg) (n : Nat) : (s.bump p r n).out = s.out := State.wri_out ..
@[simp] theorem State.bump_free (s : State) (p : PageId) (r : Reg) (n : Nat) : (s.bump p r n).free = s.free := State.wri_free ..
@[simp] theorem State.bump_clock (s : State) (p : PageId) (r : Reg) (n : Nat) : (s.bump p r n).clock = s.clock := State.wri_clock ..
@[simp] theorem State.bump_staged (s : State) (p : PageId) (r : Reg) (n : Nat) : (s.bump p r n).staged = s.staged := State.wri_staged ..
@[simp] theorem State.bump_mem (s : State) (p : PageId) (r : Reg) (n : Nat) : (s.bump p r n).mem = s.mem := State.wri_mem ..
@[simp] theorem State.bump_events (s : State) (p : PageId) (r : Reg) (n : Nat) : (s.bump p r n).events = s.events := State.wri_events ..
@[simp] theorem State.bump_host (s : State) (p : PageId) (r : Reg) (n : Nat) : (s.bump p r n).host = s.host := State.wri_host ..
@[simp] theorem State.bump_belfry (s : State) (p : PageId) (r : Reg) (n : Nat) : (s.bump p r n).belfry = s.belfry := State.wri_belfry ..
@[simp] theorem State.bump_links (s : State) (p : PageId) (r : Reg) (n : Nat) : (s.bump p r n).links = s.links := State.wri_links ..
@[simp] theorem State.bump_d2d (s : State) (p : PageId) (r : Reg) (n : Nat) : (s.bump p r n).d2d = s.d2d := State.wri_d2d ..
@[simp] theorem State.bump_reservations (s : State) (p : PageId) (r : Reg) (n : Nat) : (s.bump p r n).reservations = s.reservations := State.wri_reservations ..
@[simp] theorem State.bump_routes (s : State) (p : PageId) (r : Reg) (n : Nat) : (s.bump p r n).routes = s.routes := State.wri_routes ..
@[simp] theorem State.bump_opn (s : State) (p : PageId) (r : Reg) (n : Nat) : (s.bump p r n).opn = s.opn := State.wri_opn ..
@[simp] theorem State.bump_arrays (s : State) (p : PageId) (r : Reg) (n : Nat) : (s.bump p r n).arrays = s.arrays := State.wri_arrays ..
@[simp] theorem State.bump_fst (s : State) (p : PageId) (r : Reg) (n : Nat) : (s.bump p r n).fst = s.fst := State.wri_fst ..
@[simp] theorem State.bump_watch (s : State) (p : PageId) (r : Reg) (n : Nat) : (s.bump p r n).watch = s.watch := State.wri_watch ..
@[simp] theorem State.bump_bankA (s : State) (p : PageId) (r : Reg) (n : Nat) : (s.bump p r n).bankA = s.bankA := State.wri_bankA ..
@[simp] theorem State.bump_bankB (s : State) (p : PageId) (r : Reg) (n : Nat) : (s.bump p r n).bankB = s.bankB := State.wri_bankB ..
@[simp] theorem State.bump_sched (s : State) (p : PageId) (r : Reg) (n : Nat) : (s.bump p r n).sched = s.sched := State.wri_sched ..
@[simp] theorem State.bump_runs (s : State) (p : PageId) (r : Reg) (n : Nat) : (s.bump p r n).runs = s.runs := State.wri_runs ..
@[simp] theorem State.bump_frozenNow (s : State) (p : PageId) (r : Reg) (n : Nat) : (s.bump p r n).frozenNow = s.frozenNow := State.wri_frozenNow ..
@[simp] theorem State.bump_atoms (s : State) (p : PageId) (r : Reg) (n : Nat) : (s.bump p r n).atoms = s.atoms := State.wri_atoms ..
@[simp] theorem State.bump_waiting (s : State) (p : PageId) (r : Reg) (n : Nat) : (s.bump p r n).waiting = s.waiting := State.wri_waiting ..
@[simp] theorem State.bump_movers (s : State) (p : PageId) (r : Reg) (n : Nat) : (s.bump p r n).movers = s.movers := State.wri_movers ..
@[simp] theorem State.bump_roundEnd (s : State) (p : PageId) (r : Reg) (n : Nat) : (s.bump p r n).roundEnd = s.roundEnd := State.wri_roundEnd ..
@[simp] theorem State.bump_tiles (s : State) (p : PageId) (r : Reg) (n : Nat) : (s.bump p r n).tiles = s.tiles := State.wri_tiles ..
@[simp] theorem State.bump_ueStep (s : State) (p : PageId) (r : Reg) (n : Nat) : (s.bump p r n).ueStep = s.ueStep := State.wri_ueStep ..
@[simp] theorem State.bump_keys (s : State) (p : PageId) (r : Reg) (n : Nat) : (s.bump p r n).keys = s.keys := State.wri_keys ..
@[simp] theorem State.bump_meas (s : State) (p : PageId) (r : Reg) (n : Nat) : (s.bump p r n).meas = s.meas := State.wri_meas ..
@[simp] theorem State.bump_scrub (s : State) (p : PageId) (r : Reg) (n : Nat) : (s.bump p r n).scrub = s.scrub := State.wri_scrub ..
@[simp] theorem State.bump_spots (s : State) (p : PageId) (r : Reg) (n : Nat) : (s.bump p r n).spots = s.spots := State.wri_spots ..
@[simp] theorem State.bump_margin (s : State) (p : PageId) (r : Reg) (n : Nat) : (s.bump p r n).margin = s.margin := State.wri_margin ..
@[simp] theorem State.bump_power (s : State) (p : PageId) (r : Reg) (n : Nat) : (s.bump p r n).power = s.power := State.wri_power ..
@[simp] theorem State.bump_fuses (s : State) (p : PageId) (r : Reg) (n : Nat) : (s.bump p r n).fuses = s.fuses := State.wri_fuses ..
@[simp] theorem State.bump_vane (s : State) (p : PageId) (r : Reg) (n : Nat) : (s.bump p r n).vane = s.vane := State.wri_vane ..
@[simp] theorem State.bump_trust (s : State) (p : PageId) (r : Reg) (n : Nat) : (s.bump p r n).trust = s.trust := State.wri_trust ..
@[simp] theorem State.bump_sessions (s : State) (p : PageId) (r : Reg) (n : Nat) : (s.bump p r n).sessions = s.sessions := State.wri_sessions ..
@[simp] theorem State.bump_opening (s : State) (p : PageId) (r : Reg) (n : Nat) : (s.bump p r n).opening = s.opening := State.wri_opening ..
@[simp] theorem State.bump_answers (s : State) (p : PageId) (r : Reg) (n : Nat) : (s.bump p r n).answers = s.answers := State.wri_answers ..
@[simp] theorem State.bump_streams (s : State) (p : PageId) (r : Reg) (n : Nat) : (s.bump p r n).streams = s.streams := State.wri_streams ..
@[simp] theorem State.bump_windows (s : State) (p : PageId) (r : Reg) (n : Nat) : (s.bump p r n).windows = s.windows := State.wri_windows ..

@[simp] theorem State.wr2_pending (s : State) (p : PageId) (lo hi : Reg) (v i : Nat) : (s.wr2 p lo hi v i).pending = s.pending := by simp [State.wr2]
@[simp] theorem State.wr2_out (s : State) (p : PageId) (lo hi : Reg) (v i : Nat) : (s.wr2 p lo hi v i).out = s.out := by simp [State.wr2]
@[simp] theorem State.wr2_free (s : State) (p : PageId) (lo hi : Reg) (v i : Nat) : (s.wr2 p lo hi v i).free = s.free := by simp [State.wr2]
@[simp] theorem State.wr2_clock (s : State) (p : PageId) (lo hi : Reg) (v i : Nat) : (s.wr2 p lo hi v i).clock = s.clock := by simp [State.wr2]
@[simp] theorem State.wr2_staged (s : State) (p : PageId) (lo hi : Reg) (v i : Nat) : (s.wr2 p lo hi v i).staged = s.staged := by simp [State.wr2]
@[simp] theorem State.wr2_mem (s : State) (p : PageId) (lo hi : Reg) (v i : Nat) : (s.wr2 p lo hi v i).mem = s.mem := by simp [State.wr2]
@[simp] theorem State.wr2_events (s : State) (p : PageId) (lo hi : Reg) (v i : Nat) : (s.wr2 p lo hi v i).events = s.events := by simp [State.wr2]
@[simp] theorem State.wr2_host (s : State) (p : PageId) (lo hi : Reg) (v i : Nat) : (s.wr2 p lo hi v i).host = s.host := by simp [State.wr2]
@[simp] theorem State.wr2_belfry (s : State) (p : PageId) (lo hi : Reg) (v i : Nat) : (s.wr2 p lo hi v i).belfry = s.belfry := by simp [State.wr2]
@[simp] theorem State.wr2_links (s : State) (p : PageId) (lo hi : Reg) (v i : Nat) : (s.wr2 p lo hi v i).links = s.links := by simp [State.wr2]
@[simp] theorem State.wr2_d2d (s : State) (p : PageId) (lo hi : Reg) (v i : Nat) : (s.wr2 p lo hi v i).d2d = s.d2d := by simp [State.wr2]
@[simp] theorem State.wr2_reservations (s : State) (p : PageId) (lo hi : Reg) (v i : Nat) : (s.wr2 p lo hi v i).reservations = s.reservations := by simp [State.wr2]
@[simp] theorem State.wr2_routes (s : State) (p : PageId) (lo hi : Reg) (v i : Nat) : (s.wr2 p lo hi v i).routes = s.routes := by simp [State.wr2]
@[simp] theorem State.wr2_opn (s : State) (p : PageId) (lo hi : Reg) (v i : Nat) : (s.wr2 p lo hi v i).opn = s.opn := by simp [State.wr2]
@[simp] theorem State.wr2_arrays (s : State) (p : PageId) (lo hi : Reg) (v i : Nat) : (s.wr2 p lo hi v i).arrays = s.arrays := by simp [State.wr2]
@[simp] theorem State.wr2_fst (s : State) (p : PageId) (lo hi : Reg) (v i : Nat) : (s.wr2 p lo hi v i).fst = s.fst := by simp [State.wr2]
@[simp] theorem State.wr2_watch (s : State) (p : PageId) (lo hi : Reg) (v i : Nat) : (s.wr2 p lo hi v i).watch = s.watch := by simp [State.wr2]
@[simp] theorem State.wr2_bankA (s : State) (p : PageId) (lo hi : Reg) (v i : Nat) : (s.wr2 p lo hi v i).bankA = s.bankA := by simp [State.wr2]
@[simp] theorem State.wr2_bankB (s : State) (p : PageId) (lo hi : Reg) (v i : Nat) : (s.wr2 p lo hi v i).bankB = s.bankB := by simp [State.wr2]
@[simp] theorem State.wr2_sched (s : State) (p : PageId) (lo hi : Reg) (v i : Nat) : (s.wr2 p lo hi v i).sched = s.sched := by simp [State.wr2]
@[simp] theorem State.wr2_runs (s : State) (p : PageId) (lo hi : Reg) (v i : Nat) : (s.wr2 p lo hi v i).runs = s.runs := by simp [State.wr2]
@[simp] theorem State.wr2_frozenNow (s : State) (p : PageId) (lo hi : Reg) (v i : Nat) : (s.wr2 p lo hi v i).frozenNow = s.frozenNow := by simp [State.wr2]
@[simp] theorem State.wr2_atoms (s : State) (p : PageId) (lo hi : Reg) (v i : Nat) : (s.wr2 p lo hi v i).atoms = s.atoms := by simp [State.wr2]
@[simp] theorem State.wr2_waiting (s : State) (p : PageId) (lo hi : Reg) (v i : Nat) : (s.wr2 p lo hi v i).waiting = s.waiting := by simp [State.wr2]
@[simp] theorem State.wr2_movers (s : State) (p : PageId) (lo hi : Reg) (v i : Nat) : (s.wr2 p lo hi v i).movers = s.movers := by simp [State.wr2]
@[simp] theorem State.wr2_roundEnd (s : State) (p : PageId) (lo hi : Reg) (v i : Nat) : (s.wr2 p lo hi v i).roundEnd = s.roundEnd := by simp [State.wr2]
@[simp] theorem State.wr2_tiles (s : State) (p : PageId) (lo hi : Reg) (v i : Nat) : (s.wr2 p lo hi v i).tiles = s.tiles := by simp [State.wr2]
@[simp] theorem State.wr2_ueStep (s : State) (p : PageId) (lo hi : Reg) (v i : Nat) : (s.wr2 p lo hi v i).ueStep = s.ueStep := by simp [State.wr2]
@[simp] theorem State.wr2_keys (s : State) (p : PageId) (lo hi : Reg) (v i : Nat) : (s.wr2 p lo hi v i).keys = s.keys := by simp [State.wr2]
@[simp] theorem State.wr2_meas (s : State) (p : PageId) (lo hi : Reg) (v i : Nat) : (s.wr2 p lo hi v i).meas = s.meas := by simp [State.wr2]
@[simp] theorem State.wr2_scrub (s : State) (p : PageId) (lo hi : Reg) (v i : Nat) : (s.wr2 p lo hi v i).scrub = s.scrub := by simp [State.wr2]
@[simp] theorem State.wr2_spots (s : State) (p : PageId) (lo hi : Reg) (v i : Nat) : (s.wr2 p lo hi v i).spots = s.spots := by simp [State.wr2]
@[simp] theorem State.wr2_margin (s : State) (p : PageId) (lo hi : Reg) (v i : Nat) : (s.wr2 p lo hi v i).margin = s.margin := by simp [State.wr2]
@[simp] theorem State.wr2_power (s : State) (p : PageId) (lo hi : Reg) (v i : Nat) : (s.wr2 p lo hi v i).power = s.power := by simp [State.wr2]
@[simp] theorem State.wr2_fuses (s : State) (p : PageId) (lo hi : Reg) (v i : Nat) : (s.wr2 p lo hi v i).fuses = s.fuses := by simp [State.wr2]
@[simp] theorem State.wr2_vane (s : State) (p : PageId) (lo hi : Reg) (v i : Nat) : (s.wr2 p lo hi v i).vane = s.vane := by simp [State.wr2]
@[simp] theorem State.wr2_trust (s : State) (p : PageId) (lo hi : Reg) (v i : Nat) : (s.wr2 p lo hi v i).trust = s.trust := by simp [State.wr2]
@[simp] theorem State.wr2_sessions (s : State) (p : PageId) (lo hi : Reg) (v i : Nat) : (s.wr2 p lo hi v i).sessions = s.sessions := by simp [State.wr2]
@[simp] theorem State.wr2_opening (s : State) (p : PageId) (lo hi : Reg) (v i : Nat) : (s.wr2 p lo hi v i).opening = s.opening := by simp [State.wr2]
@[simp] theorem State.wr2_answers (s : State) (p : PageId) (lo hi : Reg) (v i : Nat) : (s.wr2 p lo hi v i).answers = s.answers := by simp [State.wr2]
@[simp] theorem State.wr2_streams (s : State) (p : PageId) (lo hi : Reg) (v i : Nat) : (s.wr2 p lo hi v i).streams = s.streams := by simp [State.wr2]
@[simp] theorem State.wr2_windows (s : State) (p : PageId) (lo hi : Reg) (v i : Nat) : (s.wr2 p lo hi v i).windows = s.windows := by simp [State.wr2]

@[simp] theorem State.strictPut_pending (s : State) (q : Nat) (l : List Byte) : (s.strictPut q l).pending = s.pending := by
  unfold State.strictPut
  dsimp only
  split <;> simp
@[simp] theorem State.strictPut_out (s : State) (q : Nat) (l : List Byte) : (s.strictPut q l).out = s.out := by
  unfold State.strictPut
  dsimp only
  split <;> simp
@[simp] theorem State.strictPut_free (s : State) (q : Nat) (l : List Byte) : (s.strictPut q l).free = s.free := by
  unfold State.strictPut
  dsimp only
  split <;> simp
@[simp] theorem State.strictPut_clock (s : State) (q : Nat) (l : List Byte) : (s.strictPut q l).clock = s.clock := by
  unfold State.strictPut
  dsimp only
  split <;> simp
@[simp] theorem State.strictPut_staged (s : State) (q : Nat) (l : List Byte) : (s.strictPut q l).staged = s.staged := by
  unfold State.strictPut
  dsimp only
  split <;> simp
@[simp] theorem State.strictPut_mem (s : State) (q : Nat) (l : List Byte) : (s.strictPut q l).mem = s.mem := by
  unfold State.strictPut
  dsimp only
  split <;> simp
@[simp] theorem State.strictPut_events (s : State) (q : Nat) (l : List Byte) : (s.strictPut q l).events = s.events := by
  unfold State.strictPut
  dsimp only
  split <;> simp
@[simp] theorem State.strictPut_belfry (s : State) (q : Nat) (l : List Byte) : (s.strictPut q l).belfry = s.belfry := by
  unfold State.strictPut
  dsimp only
  split <;> simp
@[simp] theorem State.strictPut_links (s : State) (q : Nat) (l : List Byte) : (s.strictPut q l).links = s.links := by
  unfold State.strictPut
  dsimp only
  split <;> simp
@[simp] theorem State.strictPut_d2d (s : State) (q : Nat) (l : List Byte) : (s.strictPut q l).d2d = s.d2d := by
  unfold State.strictPut
  dsimp only
  split <;> simp
@[simp] theorem State.strictPut_reservations (s : State) (q : Nat) (l : List Byte) : (s.strictPut q l).reservations = s.reservations := by
  unfold State.strictPut
  dsimp only
  split <;> simp
@[simp] theorem State.strictPut_routes (s : State) (q : Nat) (l : List Byte) : (s.strictPut q l).routes = s.routes := by
  unfold State.strictPut
  dsimp only
  split <;> simp
@[simp] theorem State.strictPut_opn (s : State) (q : Nat) (l : List Byte) : (s.strictPut q l).opn = s.opn := by
  unfold State.strictPut
  dsimp only
  split <;> simp
@[simp] theorem State.strictPut_arrays (s : State) (q : Nat) (l : List Byte) : (s.strictPut q l).arrays = s.arrays := by
  unfold State.strictPut
  dsimp only
  split <;> simp
@[simp] theorem State.strictPut_fst (s : State) (q : Nat) (l : List Byte) : (s.strictPut q l).fst = s.fst := by
  unfold State.strictPut
  dsimp only
  split <;> simp
@[simp] theorem State.strictPut_watch (s : State) (q : Nat) (l : List Byte) : (s.strictPut q l).watch = s.watch := by
  unfold State.strictPut
  dsimp only
  split <;> simp
@[simp] theorem State.strictPut_bankA (s : State) (q : Nat) (l : List Byte) : (s.strictPut q l).bankA = s.bankA := by
  unfold State.strictPut
  dsimp only
  split <;> simp
@[simp] theorem State.strictPut_bankB (s : State) (q : Nat) (l : List Byte) : (s.strictPut q l).bankB = s.bankB := by
  unfold State.strictPut
  dsimp only
  split <;> simp
@[simp] theorem State.strictPut_sched (s : State) (q : Nat) (l : List Byte) : (s.strictPut q l).sched = s.sched := by
  unfold State.strictPut
  dsimp only
  split <;> simp
@[simp] theorem State.strictPut_runs (s : State) (q : Nat) (l : List Byte) : (s.strictPut q l).runs = s.runs := by
  unfold State.strictPut
  dsimp only
  split <;> simp
@[simp] theorem State.strictPut_frozenNow (s : State) (q : Nat) (l : List Byte) : (s.strictPut q l).frozenNow = s.frozenNow := by
  unfold State.strictPut
  dsimp only
  split <;> simp
@[simp] theorem State.strictPut_atoms (s : State) (q : Nat) (l : List Byte) : (s.strictPut q l).atoms = s.atoms := by
  unfold State.strictPut
  dsimp only
  split <;> simp
@[simp] theorem State.strictPut_waiting (s : State) (q : Nat) (l : List Byte) : (s.strictPut q l).waiting = s.waiting := by
  unfold State.strictPut
  dsimp only
  split <;> simp
@[simp] theorem State.strictPut_movers (s : State) (q : Nat) (l : List Byte) : (s.strictPut q l).movers = s.movers := by
  unfold State.strictPut
  dsimp only
  split <;> simp
@[simp] theorem State.strictPut_roundEnd (s : State) (q : Nat) (l : List Byte) : (s.strictPut q l).roundEnd = s.roundEnd := by
  unfold State.strictPut
  dsimp only
  split <;> simp
@[simp] theorem State.strictPut_tiles (s : State) (q : Nat) (l : List Byte) : (s.strictPut q l).tiles = s.tiles := by
  unfold State.strictPut
  dsimp only
  split <;> simp
@[simp] theorem State.strictPut_ueStep (s : State) (q : Nat) (l : List Byte) : (s.strictPut q l).ueStep = s.ueStep := by
  unfold State.strictPut
  dsimp only
  split <;> simp
@[simp] theorem State.strictPut_keys (s : State) (q : Nat) (l : List Byte) : (s.strictPut q l).keys = s.keys := by
  unfold State.strictPut
  dsimp only
  split <;> simp
@[simp] theorem State.strictPut_meas (s : State) (q : Nat) (l : List Byte) : (s.strictPut q l).meas = s.meas := by
  unfold State.strictPut
  dsimp only
  split <;> simp
@[simp] theorem State.strictPut_scrub (s : State) (q : Nat) (l : List Byte) : (s.strictPut q l).scrub = s.scrub := by
  unfold State.strictPut
  dsimp only
  split <;> simp
@[simp] theorem State.strictPut_spots (s : State) (q : Nat) (l : List Byte) : (s.strictPut q l).spots = s.spots := by
  unfold State.strictPut
  dsimp only
  split <;> simp
@[simp] theorem State.strictPut_margin (s : State) (q : Nat) (l : List Byte) : (s.strictPut q l).margin = s.margin := by
  unfold State.strictPut
  dsimp only
  split <;> simp
@[simp] theorem State.strictPut_power (s : State) (q : Nat) (l : List Byte) : (s.strictPut q l).power = s.power := by
  unfold State.strictPut
  dsimp only
  split <;> simp
@[simp] theorem State.strictPut_fuses (s : State) (q : Nat) (l : List Byte) : (s.strictPut q l).fuses = s.fuses := by
  unfold State.strictPut
  dsimp only
  split <;> simp
@[simp] theorem State.strictPut_vane (s : State) (q : Nat) (l : List Byte) : (s.strictPut q l).vane = s.vane := by
  unfold State.strictPut
  dsimp only
  split <;> simp
@[simp] theorem State.strictPut_trust (s : State) (q : Nat) (l : List Byte) : (s.strictPut q l).trust = s.trust := by
  unfold State.strictPut
  dsimp only
  split <;> simp
@[simp] theorem State.strictPut_sessions (s : State) (q : Nat) (l : List Byte) : (s.strictPut q l).sessions = s.sessions := by
  unfold State.strictPut
  dsimp only
  split <;> simp
@[simp] theorem State.strictPut_opening (s : State) (q : Nat) (l : List Byte) : (s.strictPut q l).opening = s.opening := by
  unfold State.strictPut
  dsimp only
  split <;> simp
@[simp] theorem State.strictPut_answers (s : State) (q : Nat) (l : List Byte) : (s.strictPut q l).answers = s.answers := by
  unfold State.strictPut
  dsimp only
  split <;> simp
@[simp] theorem State.strictPut_streams (s : State) (q : Nat) (l : List Byte) : (s.strictPut q l).streams = s.streams := by
  unfold State.strictPut
  dsimp only
  split <;> simp
@[simp] theorem State.strictPut_windows (s : State) (q : Nat) (l : List Byte) : (s.strictPut q l).windows = s.windows := by
  unfold State.strictPut
  dsimp only
  split <;> simp

@[simp] theorem State.sendEvent_pending (s : State) (e : Event) : (s.sendEvent e).pending = s.pending := by simp [State.sendEvent]
@[simp] theorem State.sendEvent_out (s : State) (e : Event) : (s.sendEvent e).out = s.out := by simp [State.sendEvent]
@[simp] theorem State.sendEvent_clock (s : State) (e : Event) : (s.sendEvent e).clock = s.clock := by simp [State.sendEvent]
@[simp] theorem State.sendEvent_staged (s : State) (e : Event) : (s.sendEvent e).staged = s.staged := by simp [State.sendEvent]
@[simp] theorem State.sendEvent_mem (s : State) (e : Event) : (s.sendEvent e).mem = s.mem := by simp [State.sendEvent]
@[simp] theorem State.sendEvent_events (s : State) (e : Event) : (s.sendEvent e).events = s.events := by simp [State.sendEvent]
@[simp] theorem State.sendEvent_belfry (s : State) (e : Event) : (s.sendEvent e).belfry = s.belfry := by simp [State.sendEvent]
@[simp] theorem State.sendEvent_links (s : State) (e : Event) : (s.sendEvent e).links = s.links := by simp [State.sendEvent]
@[simp] theorem State.sendEvent_d2d (s : State) (e : Event) : (s.sendEvent e).d2d = s.d2d := by simp [State.sendEvent]
@[simp] theorem State.sendEvent_reservations (s : State) (e : Event) : (s.sendEvent e).reservations = s.reservations := by simp [State.sendEvent]
@[simp] theorem State.sendEvent_routes (s : State) (e : Event) : (s.sendEvent e).routes = s.routes := by simp [State.sendEvent]
@[simp] theorem State.sendEvent_opn (s : State) (e : Event) : (s.sendEvent e).opn = s.opn := by simp [State.sendEvent]
@[simp] theorem State.sendEvent_arrays (s : State) (e : Event) : (s.sendEvent e).arrays = s.arrays := by simp [State.sendEvent]
@[simp] theorem State.sendEvent_fst (s : State) (e : Event) : (s.sendEvent e).fst = s.fst := by simp [State.sendEvent]
@[simp] theorem State.sendEvent_watch (s : State) (e : Event) : (s.sendEvent e).watch = s.watch := by simp [State.sendEvent]
@[simp] theorem State.sendEvent_bankA (s : State) (e : Event) : (s.sendEvent e).bankA = s.bankA := by simp [State.sendEvent]
@[simp] theorem State.sendEvent_bankB (s : State) (e : Event) : (s.sendEvent e).bankB = s.bankB := by simp [State.sendEvent]
@[simp] theorem State.sendEvent_sched (s : State) (e : Event) : (s.sendEvent e).sched = s.sched := by simp [State.sendEvent]
@[simp] theorem State.sendEvent_runs (s : State) (e : Event) : (s.sendEvent e).runs = s.runs := by simp [State.sendEvent]
@[simp] theorem State.sendEvent_frozenNow (s : State) (e : Event) : (s.sendEvent e).frozenNow = s.frozenNow := by simp [State.sendEvent]
@[simp] theorem State.sendEvent_atoms (s : State) (e : Event) : (s.sendEvent e).atoms = s.atoms := by simp [State.sendEvent]
@[simp] theorem State.sendEvent_waiting (s : State) (e : Event) : (s.sendEvent e).waiting = s.waiting := by simp [State.sendEvent]
@[simp] theorem State.sendEvent_movers (s : State) (e : Event) : (s.sendEvent e).movers = s.movers := by simp [State.sendEvent]
@[simp] theorem State.sendEvent_roundEnd (s : State) (e : Event) : (s.sendEvent e).roundEnd = s.roundEnd := by simp [State.sendEvent]
@[simp] theorem State.sendEvent_tiles (s : State) (e : Event) : (s.sendEvent e).tiles = s.tiles := by simp [State.sendEvent]
@[simp] theorem State.sendEvent_ueStep (s : State) (e : Event) : (s.sendEvent e).ueStep = s.ueStep := by simp [State.sendEvent]
@[simp] theorem State.sendEvent_keys (s : State) (e : Event) : (s.sendEvent e).keys = s.keys := by simp [State.sendEvent]
@[simp] theorem State.sendEvent_meas (s : State) (e : Event) : (s.sendEvent e).meas = s.meas := by simp [State.sendEvent]
@[simp] theorem State.sendEvent_scrub (s : State) (e : Event) : (s.sendEvent e).scrub = s.scrub := by simp [State.sendEvent]
@[simp] theorem State.sendEvent_spots (s : State) (e : Event) : (s.sendEvent e).spots = s.spots := by simp [State.sendEvent]
@[simp] theorem State.sendEvent_margin (s : State) (e : Event) : (s.sendEvent e).margin = s.margin := by simp [State.sendEvent]
@[simp] theorem State.sendEvent_power (s : State) (e : Event) : (s.sendEvent e).power = s.power := by simp [State.sendEvent]
@[simp] theorem State.sendEvent_fuses (s : State) (e : Event) : (s.sendEvent e).fuses = s.fuses := by simp [State.sendEvent]
@[simp] theorem State.sendEvent_vane (s : State) (e : Event) : (s.sendEvent e).vane = s.vane := by simp [State.sendEvent]
@[simp] theorem State.sendEvent_trust (s : State) (e : Event) : (s.sendEvent e).trust = s.trust := by simp [State.sendEvent]
@[simp] theorem State.sendEvent_sessions (s : State) (e : Event) : (s.sendEvent e).sessions = s.sessions := by simp [State.sendEvent]
@[simp] theorem State.sendEvent_opening (s : State) (e : Event) : (s.sendEvent e).opening = s.opening := by simp [State.sendEvent]
@[simp] theorem State.sendEvent_answers (s : State) (e : Event) : (s.sendEvent e).answers = s.answers := by simp [State.sendEvent]
@[simp] theorem State.sendEvent_streams (s : State) (e : Event) : (s.sendEvent e).streams = s.streams := by simp [State.sendEvent]
@[simp] theorem State.sendEvent_windows (s : State) (e : Event) : (s.sendEvent e).windows = s.windows := by simp [State.sendEvent]

@[simp] theorem State.storeEvent_pending (s : State) (c u : Nat) (d : List Byte) : (s.storeEvent c u d).pending = s.pending := by
  unfold State.storeEvent
  dsimp only
  split <;> simp
@[simp] theorem State.storeEvent_out (s : State) (c u : Nat) (d : List Byte) : (s.storeEvent c u d).out = s.out := by
  unfold State.storeEvent
  dsimp only
  split <;> simp
@[simp] theorem State.storeEvent_clock (s : State) (c u : Nat) (d : List Byte) : (s.storeEvent c u d).clock = s.clock := by
  unfold State.storeEvent
  dsimp only
  split <;> simp
@[simp] theorem State.storeEvent_staged (s : State) (c u : Nat) (d : List Byte) : (s.storeEvent c u d).staged = s.staged := by
  unfold State.storeEvent
  dsimp only
  split <;> simp
@[simp] theorem State.storeEvent_mem (s : State) (c u : Nat) (d : List Byte) : (s.storeEvent c u d).mem = s.mem := by
  unfold State.storeEvent
  dsimp only
  split <;> simp
@[simp] theorem State.storeEvent_belfry (s : State) (c u : Nat) (d : List Byte) : (s.storeEvent c u d).belfry = s.belfry := by
  unfold State.storeEvent
  dsimp only
  split <;> simp
@[simp] theorem State.storeEvent_links (s : State) (c u : Nat) (d : List Byte) : (s.storeEvent c u d).links = s.links := by
  unfold State.storeEvent
  dsimp only
  split <;> simp
@[simp] theorem State.storeEvent_d2d (s : State) (c u : Nat) (d : List Byte) : (s.storeEvent c u d).d2d = s.d2d := by
  unfold State.storeEvent
  dsimp only
  split <;> simp
@[simp] theorem State.storeEvent_reservations (s : State) (c u : Nat) (d : List Byte) : (s.storeEvent c u d).reservations = s.reservations := by
  unfold State.storeEvent
  dsimp only
  split <;> simp
@[simp] theorem State.storeEvent_routes (s : State) (c u : Nat) (d : List Byte) : (s.storeEvent c u d).routes = s.routes := by
  unfold State.storeEvent
  dsimp only
  split <;> simp
@[simp] theorem State.storeEvent_opn (s : State) (c u : Nat) (d : List Byte) : (s.storeEvent c u d).opn = s.opn := by
  unfold State.storeEvent
  dsimp only
  split <;> simp
@[simp] theorem State.storeEvent_arrays (s : State) (c u : Nat) (d : List Byte) : (s.storeEvent c u d).arrays = s.arrays := by
  unfold State.storeEvent
  dsimp only
  split <;> simp
@[simp] theorem State.storeEvent_fst (s : State) (c u : Nat) (d : List Byte) : (s.storeEvent c u d).fst = s.fst := by
  unfold State.storeEvent
  dsimp only
  split <;> simp
@[simp] theorem State.storeEvent_watch (s : State) (c u : Nat) (d : List Byte) : (s.storeEvent c u d).watch = s.watch := by
  unfold State.storeEvent
  dsimp only
  split <;> simp
@[simp] theorem State.storeEvent_bankA (s : State) (c u : Nat) (d : List Byte) : (s.storeEvent c u d).bankA = s.bankA := by
  unfold State.storeEvent
  dsimp only
  split <;> simp
@[simp] theorem State.storeEvent_bankB (s : State) (c u : Nat) (d : List Byte) : (s.storeEvent c u d).bankB = s.bankB := by
  unfold State.storeEvent
  dsimp only
  split <;> simp
@[simp] theorem State.storeEvent_sched (s : State) (c u : Nat) (d : List Byte) : (s.storeEvent c u d).sched = s.sched := by
  unfold State.storeEvent
  dsimp only
  split <;> simp
@[simp] theorem State.storeEvent_runs (s : State) (c u : Nat) (d : List Byte) : (s.storeEvent c u d).runs = s.runs := by
  unfold State.storeEvent
  dsimp only
  split <;> simp
@[simp] theorem State.storeEvent_frozenNow (s : State) (c u : Nat) (d : List Byte) : (s.storeEvent c u d).frozenNow = s.frozenNow := by
  unfold State.storeEvent
  dsimp only
  split <;> simp
@[simp] theorem State.storeEvent_atoms (s : State) (c u : Nat) (d : List Byte) : (s.storeEvent c u d).atoms = s.atoms := by
  unfold State.storeEvent
  dsimp only
  split <;> simp
@[simp] theorem State.storeEvent_waiting (s : State) (c u : Nat) (d : List Byte) : (s.storeEvent c u d).waiting = s.waiting := by
  unfold State.storeEvent
  dsimp only
  split <;> simp
@[simp] theorem State.storeEvent_movers (s : State) (c u : Nat) (d : List Byte) : (s.storeEvent c u d).movers = s.movers := by
  unfold State.storeEvent
  dsimp only
  split <;> simp
@[simp] theorem State.storeEvent_roundEnd (s : State) (c u : Nat) (d : List Byte) : (s.storeEvent c u d).roundEnd = s.roundEnd := by
  unfold State.storeEvent
  dsimp only
  split <;> simp
@[simp] theorem State.storeEvent_tiles (s : State) (c u : Nat) (d : List Byte) : (s.storeEvent c u d).tiles = s.tiles := by
  unfold State.storeEvent
  dsimp only
  split <;> simp
@[simp] theorem State.storeEvent_ueStep (s : State) (c u : Nat) (d : List Byte) : (s.storeEvent c u d).ueStep = s.ueStep := by
  unfold State.storeEvent
  dsimp only
  split <;> simp
@[simp] theorem State.storeEvent_keys (s : State) (c u : Nat) (d : List Byte) : (s.storeEvent c u d).keys = s.keys := by
  unfold State.storeEvent
  dsimp only
  split <;> simp
@[simp] theorem State.storeEvent_meas (s : State) (c u : Nat) (d : List Byte) : (s.storeEvent c u d).meas = s.meas := by
  unfold State.storeEvent
  dsimp only
  split <;> simp
@[simp] theorem State.storeEvent_scrub (s : State) (c u : Nat) (d : List Byte) : (s.storeEvent c u d).scrub = s.scrub := by
  unfold State.storeEvent
  dsimp only
  split <;> simp
@[simp] theorem State.storeEvent_spots (s : State) (c u : Nat) (d : List Byte) : (s.storeEvent c u d).spots = s.spots := by
  unfold State.storeEvent
  dsimp only
  split <;> simp
@[simp] theorem State.storeEvent_margin (s : State) (c u : Nat) (d : List Byte) : (s.storeEvent c u d).margin = s.margin := by
  unfold State.storeEvent
  dsimp only
  split <;> simp
@[simp] theorem State.storeEvent_power (s : State) (c u : Nat) (d : List Byte) : (s.storeEvent c u d).power = s.power := by
  unfold State.storeEvent
  dsimp only
  split <;> simp
@[simp] theorem State.storeEvent_fuses (s : State) (c u : Nat) (d : List Byte) : (s.storeEvent c u d).fuses = s.fuses := by
  unfold State.storeEvent
  dsimp only
  split <;> simp
@[simp] theorem State.storeEvent_vane (s : State) (c u : Nat) (d : List Byte) : (s.storeEvent c u d).vane = s.vane := by
  unfold State.storeEvent
  dsimp only
  split <;> simp
@[simp] theorem State.storeEvent_trust (s : State) (c u : Nat) (d : List Byte) : (s.storeEvent c u d).trust = s.trust := by
  unfold State.storeEvent
  dsimp only
  split <;> simp
@[simp] theorem State.storeEvent_sessions (s : State) (c u : Nat) (d : List Byte) : (s.storeEvent c u d).sessions = s.sessions := by
  unfold State.storeEvent
  dsimp only
  split <;> simp
@[simp] theorem State.storeEvent_opening (s : State) (c u : Nat) (d : List Byte) : (s.storeEvent c u d).opening = s.opening := by
  unfold State.storeEvent
  dsimp only
  split <;> simp
@[simp] theorem State.storeEvent_answers (s : State) (c u : Nat) (d : List Byte) : (s.storeEvent c u d).answers = s.answers := by
  unfold State.storeEvent
  dsimp only
  split <;> simp
@[simp] theorem State.storeEvent_streams (s : State) (c u : Nat) (d : List Byte) : (s.storeEvent c u d).streams = s.streams := by
  unfold State.storeEvent
  dsimp only
  split <;> simp
@[simp] theorem State.storeEvent_windows (s : State) (c u : Nat) (d : List Byte) : (s.storeEvent c u d).windows = s.windows := by
  unfold State.storeEvent
  dsimp only
  split <;> simp

@[simp] theorem State.loseEvent_pending (s : State) : (s.loseEvent).pending = s.pending := by simp [State.loseEvent]
@[simp] theorem State.loseEvent_out (s : State) : (s.loseEvent).out = s.out := by simp [State.loseEvent]
@[simp] theorem State.loseEvent_clock (s : State) : (s.loseEvent).clock = s.clock := by simp [State.loseEvent]
@[simp] theorem State.loseEvent_staged (s : State) : (s.loseEvent).staged = s.staged := by simp [State.loseEvent]
@[simp] theorem State.loseEvent_mem (s : State) : (s.loseEvent).mem = s.mem := by simp [State.loseEvent]
@[simp] theorem State.loseEvent_belfry (s : State) : (s.loseEvent).belfry = s.belfry := by simp [State.loseEvent]
@[simp] theorem State.loseEvent_links (s : State) : (s.loseEvent).links = s.links := by simp [State.loseEvent]
@[simp] theorem State.loseEvent_d2d (s : State) : (s.loseEvent).d2d = s.d2d := by simp [State.loseEvent]
@[simp] theorem State.loseEvent_reservations (s : State) : (s.loseEvent).reservations = s.reservations := by simp [State.loseEvent]
@[simp] theorem State.loseEvent_routes (s : State) : (s.loseEvent).routes = s.routes := by simp [State.loseEvent]
@[simp] theorem State.loseEvent_opn (s : State) : (s.loseEvent).opn = s.opn := by simp [State.loseEvent]
@[simp] theorem State.loseEvent_arrays (s : State) : (s.loseEvent).arrays = s.arrays := by simp [State.loseEvent]
@[simp] theorem State.loseEvent_fst (s : State) : (s.loseEvent).fst = s.fst := by simp [State.loseEvent]
@[simp] theorem State.loseEvent_watch (s : State) : (s.loseEvent).watch = s.watch := by simp [State.loseEvent]
@[simp] theorem State.loseEvent_bankA (s : State) : (s.loseEvent).bankA = s.bankA := by simp [State.loseEvent]
@[simp] theorem State.loseEvent_bankB (s : State) : (s.loseEvent).bankB = s.bankB := by simp [State.loseEvent]
@[simp] theorem State.loseEvent_sched (s : State) : (s.loseEvent).sched = s.sched := by simp [State.loseEvent]
@[simp] theorem State.loseEvent_runs (s : State) : (s.loseEvent).runs = s.runs := by simp [State.loseEvent]
@[simp] theorem State.loseEvent_frozenNow (s : State) : (s.loseEvent).frozenNow = s.frozenNow := by simp [State.loseEvent]
@[simp] theorem State.loseEvent_atoms (s : State) : (s.loseEvent).atoms = s.atoms := by simp [State.loseEvent]
@[simp] theorem State.loseEvent_waiting (s : State) : (s.loseEvent).waiting = s.waiting := by simp [State.loseEvent]
@[simp] theorem State.loseEvent_movers (s : State) : (s.loseEvent).movers = s.movers := by simp [State.loseEvent]
@[simp] theorem State.loseEvent_roundEnd (s : State) : (s.loseEvent).roundEnd = s.roundEnd := by simp [State.loseEvent]
@[simp] theorem State.loseEvent_tiles (s : State) : (s.loseEvent).tiles = s.tiles := by simp [State.loseEvent]
@[simp] theorem State.loseEvent_ueStep (s : State) : (s.loseEvent).ueStep = s.ueStep := by simp [State.loseEvent]
@[simp] theorem State.loseEvent_keys (s : State) : (s.loseEvent).keys = s.keys := by simp [State.loseEvent]
@[simp] theorem State.loseEvent_meas (s : State) : (s.loseEvent).meas = s.meas := by simp [State.loseEvent]
@[simp] theorem State.loseEvent_scrub (s : State) : (s.loseEvent).scrub = s.scrub := by simp [State.loseEvent]
@[simp] theorem State.loseEvent_spots (s : State) : (s.loseEvent).spots = s.spots := by simp [State.loseEvent]
@[simp] theorem State.loseEvent_margin (s : State) : (s.loseEvent).margin = s.margin := by simp [State.loseEvent]
@[simp] theorem State.loseEvent_power (s : State) : (s.loseEvent).power = s.power := by simp [State.loseEvent]
@[simp] theorem State.loseEvent_fuses (s : State) : (s.loseEvent).fuses = s.fuses := by simp [State.loseEvent]
@[simp] theorem State.loseEvent_vane (s : State) : (s.loseEvent).vane = s.vane := by simp [State.loseEvent]
@[simp] theorem State.loseEvent_trust (s : State) : (s.loseEvent).trust = s.trust := by simp [State.loseEvent]
@[simp] theorem State.loseEvent_sessions (s : State) : (s.loseEvent).sessions = s.sessions := by simp [State.loseEvent]
@[simp] theorem State.loseEvent_opening (s : State) : (s.loseEvent).opening = s.opening := by simp [State.loseEvent]
@[simp] theorem State.loseEvent_answers (s : State) : (s.loseEvent).answers = s.answers := by simp [State.loseEvent]
@[simp] theorem State.loseEvent_streams (s : State) : (s.loseEvent).streams = s.streams := by simp [State.loseEvent]
@[simp] theorem State.loseEvent_windows (s : State) : (s.loseEvent).windows = s.windows := by simp [State.loseEvent]

@[simp] theorem State.event_pending (s : State) (p : PageId) (c : Nat) (d : List Byte) : (s.event p c d).pending = s.pending := by
  unfold State.event
  dsimp only
  split <;> split <;> simp
@[simp] theorem State.event_out (s : State) (p : PageId) (c : Nat) (d : List Byte) : (s.event p c d).out = s.out := by
  unfold State.event
  dsimp only
  split <;> split <;> simp
@[simp] theorem State.event_clock (s : State) (p : PageId) (c : Nat) (d : List Byte) : (s.event p c d).clock = s.clock := by
  unfold State.event
  dsimp only
  split <;> split <;> simp
@[simp] theorem State.event_staged (s : State) (p : PageId) (c : Nat) (d : List Byte) : (s.event p c d).staged = s.staged := by
  unfold State.event
  dsimp only
  split <;> split <;> simp
@[simp] theorem State.event_mem (s : State) (p : PageId) (c : Nat) (d : List Byte) : (s.event p c d).mem = s.mem := by
  unfold State.event
  dsimp only
  split <;> split <;> simp
@[simp] theorem State.event_belfry (s : State) (p : PageId) (c : Nat) (d : List Byte) : (s.event p c d).belfry = s.belfry := by
  unfold State.event
  dsimp only
  split <;> split <;> simp
@[simp] theorem State.event_links (s : State) (p : PageId) (c : Nat) (d : List Byte) : (s.event p c d).links = s.links := by
  unfold State.event
  dsimp only
  split <;> split <;> simp
@[simp] theorem State.event_d2d (s : State) (p : PageId) (c : Nat) (d : List Byte) : (s.event p c d).d2d = s.d2d := by
  unfold State.event
  dsimp only
  split <;> split <;> simp
@[simp] theorem State.event_reservations (s : State) (p : PageId) (c : Nat) (d : List Byte) : (s.event p c d).reservations = s.reservations := by
  unfold State.event
  dsimp only
  split <;> split <;> simp
@[simp] theorem State.event_routes (s : State) (p : PageId) (c : Nat) (d : List Byte) : (s.event p c d).routes = s.routes := by
  unfold State.event
  dsimp only
  split <;> split <;> simp
@[simp] theorem State.event_opn (s : State) (p : PageId) (c : Nat) (d : List Byte) : (s.event p c d).opn = s.opn := by
  unfold State.event
  dsimp only
  split <;> split <;> simp
@[simp] theorem State.event_arrays (s : State) (p : PageId) (c : Nat) (d : List Byte) : (s.event p c d).arrays = s.arrays := by
  unfold State.event
  dsimp only
  split <;> split <;> simp
@[simp] theorem State.event_fst (s : State) (p : PageId) (c : Nat) (d : List Byte) : (s.event p c d).fst = s.fst := by
  unfold State.event
  dsimp only
  split <;> split <;> simp
@[simp] theorem State.event_watch (s : State) (p : PageId) (c : Nat) (d : List Byte) : (s.event p c d).watch = s.watch := by
  unfold State.event
  dsimp only
  split <;> split <;> simp
@[simp] theorem State.event_bankA (s : State) (p : PageId) (c : Nat) (d : List Byte) : (s.event p c d).bankA = s.bankA := by
  unfold State.event
  dsimp only
  split <;> split <;> simp
@[simp] theorem State.event_bankB (s : State) (p : PageId) (c : Nat) (d : List Byte) : (s.event p c d).bankB = s.bankB := by
  unfold State.event
  dsimp only
  split <;> split <;> simp
@[simp] theorem State.event_sched (s : State) (p : PageId) (c : Nat) (d : List Byte) : (s.event p c d).sched = s.sched := by
  unfold State.event
  dsimp only
  split <;> split <;> simp
@[simp] theorem State.event_runs (s : State) (p : PageId) (c : Nat) (d : List Byte) : (s.event p c d).runs = s.runs := by
  unfold State.event
  dsimp only
  split <;> split <;> simp
@[simp] theorem State.event_frozenNow (s : State) (p : PageId) (c : Nat) (d : List Byte) : (s.event p c d).frozenNow = s.frozenNow := by
  unfold State.event
  dsimp only
  split <;> split <;> simp
@[simp] theorem State.event_atoms (s : State) (p : PageId) (c : Nat) (d : List Byte) : (s.event p c d).atoms = s.atoms := by
  unfold State.event
  dsimp only
  split <;> split <;> simp
@[simp] theorem State.event_waiting (s : State) (p : PageId) (c : Nat) (d : List Byte) : (s.event p c d).waiting = s.waiting := by
  unfold State.event
  dsimp only
  split <;> split <;> simp
@[simp] theorem State.event_movers (s : State) (p : PageId) (c : Nat) (d : List Byte) : (s.event p c d).movers = s.movers := by
  unfold State.event
  dsimp only
  split <;> split <;> simp
@[simp] theorem State.event_roundEnd (s : State) (p : PageId) (c : Nat) (d : List Byte) : (s.event p c d).roundEnd = s.roundEnd := by
  unfold State.event
  dsimp only
  split <;> split <;> simp
@[simp] theorem State.event_tiles (s : State) (p : PageId) (c : Nat) (d : List Byte) : (s.event p c d).tiles = s.tiles := by
  unfold State.event
  dsimp only
  split <;> split <;> simp
@[simp] theorem State.event_ueStep (s : State) (p : PageId) (c : Nat) (d : List Byte) : (s.event p c d).ueStep = s.ueStep := by
  unfold State.event
  dsimp only
  split <;> split <;> simp
@[simp] theorem State.event_keys (s : State) (p : PageId) (c : Nat) (d : List Byte) : (s.event p c d).keys = s.keys := by
  unfold State.event
  dsimp only
  split <;> split <;> simp
@[simp] theorem State.event_meas (s : State) (p : PageId) (c : Nat) (d : List Byte) : (s.event p c d).meas = s.meas := by
  unfold State.event
  dsimp only
  split <;> split <;> simp
@[simp] theorem State.event_scrub (s : State) (p : PageId) (c : Nat) (d : List Byte) : (s.event p c d).scrub = s.scrub := by
  unfold State.event
  dsimp only
  split <;> split <;> simp
@[simp] theorem State.event_spots (s : State) (p : PageId) (c : Nat) (d : List Byte) : (s.event p c d).spots = s.spots := by
  unfold State.event
  dsimp only
  split <;> split <;> simp
@[simp] theorem State.event_margin (s : State) (p : PageId) (c : Nat) (d : List Byte) : (s.event p c d).margin = s.margin := by
  unfold State.event
  dsimp only
  split <;> split <;> simp
@[simp] theorem State.event_power (s : State) (p : PageId) (c : Nat) (d : List Byte) : (s.event p c d).power = s.power := by
  unfold State.event
  dsimp only
  split <;> split <;> simp
@[simp] theorem State.event_fuses (s : State) (p : PageId) (c : Nat) (d : List Byte) : (s.event p c d).fuses = s.fuses := by
  unfold State.event
  dsimp only
  split <;> split <;> simp
@[simp] theorem State.event_vane (s : State) (p : PageId) (c : Nat) (d : List Byte) : (s.event p c d).vane = s.vane := by
  unfold State.event
  dsimp only
  split <;> split <;> simp
@[simp] theorem State.event_trust (s : State) (p : PageId) (c : Nat) (d : List Byte) : (s.event p c d).trust = s.trust := by
  unfold State.event
  dsimp only
  split <;> split <;> simp
@[simp] theorem State.event_sessions (s : State) (p : PageId) (c : Nat) (d : List Byte) : (s.event p c d).sessions = s.sessions := by
  unfold State.event
  dsimp only
  split <;> split <;> simp
@[simp] theorem State.event_opening (s : State) (p : PageId) (c : Nat) (d : List Byte) : (s.event p c d).opening = s.opening := by
  unfold State.event
  dsimp only
  split <;> split <;> simp
@[simp] theorem State.event_answers (s : State) (p : PageId) (c : Nat) (d : List Byte) : (s.event p c d).answers = s.answers := by
  unfold State.event
  dsimp only
  split <;> split <;> simp
@[simp] theorem State.event_streams (s : State) (p : PageId) (c : Nat) (d : List Byte) : (s.event p c d).streams = s.streams := by
  unfold State.event
  dsimp only
  split <;> split <;> simp
@[simp] theorem State.event_windows (s : State) (p : PageId) (c : Nat) (d : List Byte) : (s.event p c d).windows = s.windows := by
  unfold State.event
  dsimp only
  split <;> split <;> simp

@[simp] theorem State.pgErr_pending (s : State) (p : PageId) (i : Nat) : (s.pgErr p i).pending = s.pending := by
  unfold State.pgErr
  dsimp only
  split <;> split <;> simp
@[simp] theorem State.pgErr_out (s : State) (p : PageId) (i : Nat) : (s.pgErr p i).out = s.out := by
  unfold State.pgErr
  dsimp only
  split <;> split <;> simp
@[simp] theorem State.pgErr_clock (s : State) (p : PageId) (i : Nat) : (s.pgErr p i).clock = s.clock := by
  unfold State.pgErr
  dsimp only
  split <;> split <;> simp
@[simp] theorem State.pgErr_staged (s : State) (p : PageId) (i : Nat) : (s.pgErr p i).staged = s.staged := by
  unfold State.pgErr
  dsimp only
  split <;> split <;> simp
@[simp] theorem State.pgErr_mem (s : State) (p : PageId) (i : Nat) : (s.pgErr p i).mem = s.mem := by
  unfold State.pgErr
  dsimp only
  split <;> split <;> simp
@[simp] theorem State.pgErr_belfry (s : State) (p : PageId) (i : Nat) : (s.pgErr p i).belfry = s.belfry := by
  unfold State.pgErr
  dsimp only
  split <;> split <;> simp
@[simp] theorem State.pgErr_links (s : State) (p : PageId) (i : Nat) : (s.pgErr p i).links = s.links := by
  unfold State.pgErr
  dsimp only
  split <;> split <;> simp
@[simp] theorem State.pgErr_d2d (s : State) (p : PageId) (i : Nat) : (s.pgErr p i).d2d = s.d2d := by
  unfold State.pgErr
  dsimp only
  split <;> split <;> simp
@[simp] theorem State.pgErr_reservations (s : State) (p : PageId) (i : Nat) : (s.pgErr p i).reservations = s.reservations := by
  unfold State.pgErr
  dsimp only
  split <;> split <;> simp
@[simp] theorem State.pgErr_routes (s : State) (p : PageId) (i : Nat) : (s.pgErr p i).routes = s.routes := by
  unfold State.pgErr
  dsimp only
  split <;> split <;> simp
@[simp] theorem State.pgErr_opn (s : State) (p : PageId) (i : Nat) : (s.pgErr p i).opn = s.opn := by
  unfold State.pgErr
  dsimp only
  split <;> split <;> simp
@[simp] theorem State.pgErr_arrays (s : State) (p : PageId) (i : Nat) : (s.pgErr p i).arrays = s.arrays := by
  unfold State.pgErr
  dsimp only
  split <;> split <;> simp
@[simp] theorem State.pgErr_fst (s : State) (p : PageId) (i : Nat) : (s.pgErr p i).fst = s.fst := by
  unfold State.pgErr
  dsimp only
  split <;> split <;> simp
@[simp] theorem State.pgErr_watch (s : State) (p : PageId) (i : Nat) : (s.pgErr p i).watch = s.watch := by
  unfold State.pgErr
  dsimp only
  split <;> split <;> simp
@[simp] theorem State.pgErr_bankA (s : State) (p : PageId) (i : Nat) : (s.pgErr p i).bankA = s.bankA := by
  unfold State.pgErr
  dsimp only
  split <;> split <;> simp
@[simp] theorem State.pgErr_bankB (s : State) (p : PageId) (i : Nat) : (s.pgErr p i).bankB = s.bankB := by
  unfold State.pgErr
  dsimp only
  split <;> split <;> simp
@[simp] theorem State.pgErr_sched (s : State) (p : PageId) (i : Nat) : (s.pgErr p i).sched = s.sched := by
  unfold State.pgErr
  dsimp only
  split <;> split <;> simp
@[simp] theorem State.pgErr_runs (s : State) (p : PageId) (i : Nat) : (s.pgErr p i).runs = s.runs := by
  unfold State.pgErr
  dsimp only
  split <;> split <;> simp
@[simp] theorem State.pgErr_frozenNow (s : State) (p : PageId) (i : Nat) : (s.pgErr p i).frozenNow = s.frozenNow := by
  unfold State.pgErr
  dsimp only
  split <;> split <;> simp
@[simp] theorem State.pgErr_atoms (s : State) (p : PageId) (i : Nat) : (s.pgErr p i).atoms = s.atoms := by
  unfold State.pgErr
  dsimp only
  split <;> split <;> simp
@[simp] theorem State.pgErr_waiting (s : State) (p : PageId) (i : Nat) : (s.pgErr p i).waiting = s.waiting := by
  unfold State.pgErr
  dsimp only
  split <;> split <;> simp
@[simp] theorem State.pgErr_movers (s : State) (p : PageId) (i : Nat) : (s.pgErr p i).movers = s.movers := by
  unfold State.pgErr
  dsimp only
  split <;> split <;> simp
@[simp] theorem State.pgErr_roundEnd (s : State) (p : PageId) (i : Nat) : (s.pgErr p i).roundEnd = s.roundEnd := by
  unfold State.pgErr
  dsimp only
  split <;> split <;> simp
@[simp] theorem State.pgErr_tiles (s : State) (p : PageId) (i : Nat) : (s.pgErr p i).tiles = s.tiles := by
  unfold State.pgErr
  dsimp only
  split <;> split <;> simp
@[simp] theorem State.pgErr_ueStep (s : State) (p : PageId) (i : Nat) : (s.pgErr p i).ueStep = s.ueStep := by
  unfold State.pgErr
  dsimp only
  split <;> split <;> simp
@[simp] theorem State.pgErr_keys (s : State) (p : PageId) (i : Nat) : (s.pgErr p i).keys = s.keys := by
  unfold State.pgErr
  dsimp only
  split <;> split <;> simp
@[simp] theorem State.pgErr_meas (s : State) (p : PageId) (i : Nat) : (s.pgErr p i).meas = s.meas := by
  unfold State.pgErr
  dsimp only
  split <;> split <;> simp
@[simp] theorem State.pgErr_scrub (s : State) (p : PageId) (i : Nat) : (s.pgErr p i).scrub = s.scrub := by
  unfold State.pgErr
  dsimp only
  split <;> split <;> simp
@[simp] theorem State.pgErr_spots (s : State) (p : PageId) (i : Nat) : (s.pgErr p i).spots = s.spots := by
  unfold State.pgErr
  dsimp only
  split <;> split <;> simp
@[simp] theorem State.pgErr_margin (s : State) (p : PageId) (i : Nat) : (s.pgErr p i).margin = s.margin := by
  unfold State.pgErr
  dsimp only
  split <;> split <;> simp
@[simp] theorem State.pgErr_power (s : State) (p : PageId) (i : Nat) : (s.pgErr p i).power = s.power := by
  unfold State.pgErr
  dsimp only
  split <;> split <;> simp
@[simp] theorem State.pgErr_fuses (s : State) (p : PageId) (i : Nat) : (s.pgErr p i).fuses = s.fuses := by
  unfold State.pgErr
  dsimp only
  split <;> split <;> simp
@[simp] theorem State.pgErr_vane (s : State) (p : PageId) (i : Nat) : (s.pgErr p i).vane = s.vane := by
  unfold State.pgErr
  dsimp only
  split <;> split <;> simp
@[simp] theorem State.pgErr_trust (s : State) (p : PageId) (i : Nat) : (s.pgErr p i).trust = s.trust := by
  unfold State.pgErr
  dsimp only
  split <;> split <;> simp
@[simp] theorem State.pgErr_sessions (s : State) (p : PageId) (i : Nat) : (s.pgErr p i).sessions = s.sessions := by
  unfold State.pgErr
  dsimp only
  split <;> split <;> simp
@[simp] theorem State.pgErr_opening (s : State) (p : PageId) (i : Nat) : (s.pgErr p i).opening = s.opening := by
  unfold State.pgErr
  dsimp only
  split <;> split <;> simp
@[simp] theorem State.pgErr_answers (s : State) (p : PageId) (i : Nat) : (s.pgErr p i).answers = s.answers := by
  unfold State.pgErr
  dsimp only
  split <;> split <;> simp
@[simp] theorem State.pgErr_streams (s : State) (p : PageId) (i : Nat) : (s.pgErr p i).streams = s.streams := by
  unfold State.pgErr
  dsimp only
  split <;> split <;> simp
@[simp] theorem State.pgErr_windows (s : State) (p : PageId) (i : Nat) : (s.pgErr p i).windows = s.windows := by
  unfold State.pgErr
  dsimp only
  split <;> split <;> simp

/-- What error events leave alone is left alone by the error bits of what an event found full. -/
theorem State.dropErrs_of {α : Type} (f : State → α) (hh : ∀ t : State, f (t.pgErr pgHost 4) = f t)
    (hk : ∀ t : State, f (t.pgErr (pgKeep 3) 22) = f t) (s z : State) : f (s.dropErrs z) = f s := by
  have hi : ∀ (b : Prop) [Decidable b] (u v : State), f u = f s → f v = f s → f (if b then u else v) = f s := by
    intro b _ u v hu hv
    split <;> assumption
  unfold State.dropErrs
  have h2 := hi (s.events.dropped > z.events.dropped) (s.pgErr pgHost 4) s (hh s) rfl
  dsimp only
  generalize (if s.events.dropped > z.events.dropped then s.pgErr pgHost 4 else s) = s2 at h2 ⊢
  have h3 := hi (s2.egDrops = z.egDrops) s2 (s2.pgErr (pgKeep 3) 22) h2 ((hk s2).trans h2)
  generalize (if s2.egDrops = z.egDrops then s2 else s2.pgErr (pgKeep 3) 22) = s3 at h3 ⊢
  exact hi _ _ _ h3 ((hk s3).trans h3)

@[simp] theorem State.dropErrs_pending (s z : State) : (s.dropErrs z).pending = s.pending :=
  State.dropErrs_of (·.pending) (fun _ => State.pgErr_pending ..) (fun _ => State.pgErr_pending ..) s z
@[simp] theorem State.dropErrs_out (s z : State) : (s.dropErrs z).out = s.out :=
  State.dropErrs_of (·.out) (fun _ => State.pgErr_out ..) (fun _ => State.pgErr_out ..) s z
@[simp] theorem State.dropErrs_clock (s z : State) : (s.dropErrs z).clock = s.clock :=
  State.dropErrs_of (·.clock) (fun _ => State.pgErr_clock ..) (fun _ => State.pgErr_clock ..) s z
@[simp] theorem State.dropErrs_staged (s z : State) : (s.dropErrs z).staged = s.staged :=
  State.dropErrs_of (·.staged) (fun _ => State.pgErr_staged ..) (fun _ => State.pgErr_staged ..) s z
@[simp] theorem State.dropErrs_mem (s z : State) : (s.dropErrs z).mem = s.mem :=
  State.dropErrs_of (·.mem) (fun _ => State.pgErr_mem ..) (fun _ => State.pgErr_mem ..) s z
@[simp] theorem State.dropErrs_belfry (s z : State) : (s.dropErrs z).belfry = s.belfry :=
  State.dropErrs_of (·.belfry) (fun _ => State.pgErr_belfry ..) (fun _ => State.pgErr_belfry ..) s z
@[simp] theorem State.dropErrs_links (s z : State) : (s.dropErrs z).links = s.links :=
  State.dropErrs_of (·.links) (fun _ => State.pgErr_links ..) (fun _ => State.pgErr_links ..) s z
@[simp] theorem State.dropErrs_d2d (s z : State) : (s.dropErrs z).d2d = s.d2d :=
  State.dropErrs_of (·.d2d) (fun _ => State.pgErr_d2d ..) (fun _ => State.pgErr_d2d ..) s z
@[simp] theorem State.dropErrs_reservations (s z : State) : (s.dropErrs z).reservations = s.reservations :=
  State.dropErrs_of (·.reservations) (fun _ => State.pgErr_reservations ..) (fun _ => State.pgErr_reservations ..) s z
@[simp] theorem State.dropErrs_routes (s z : State) : (s.dropErrs z).routes = s.routes :=
  State.dropErrs_of (·.routes) (fun _ => State.pgErr_routes ..) (fun _ => State.pgErr_routes ..) s z
@[simp] theorem State.dropErrs_opn (s z : State) : (s.dropErrs z).opn = s.opn :=
  State.dropErrs_of (·.opn) (fun _ => State.pgErr_opn ..) (fun _ => State.pgErr_opn ..) s z
@[simp] theorem State.dropErrs_arrays (s z : State) : (s.dropErrs z).arrays = s.arrays :=
  State.dropErrs_of (·.arrays) (fun _ => State.pgErr_arrays ..) (fun _ => State.pgErr_arrays ..) s z
@[simp] theorem State.dropErrs_fst (s z : State) : (s.dropErrs z).fst = s.fst :=
  State.dropErrs_of (·.fst) (fun _ => State.pgErr_fst ..) (fun _ => State.pgErr_fst ..) s z
@[simp] theorem State.dropErrs_watch (s z : State) : (s.dropErrs z).watch = s.watch :=
  State.dropErrs_of (·.watch) (fun _ => State.pgErr_watch ..) (fun _ => State.pgErr_watch ..) s z
@[simp] theorem State.dropErrs_bankA (s z : State) : (s.dropErrs z).bankA = s.bankA :=
  State.dropErrs_of (·.bankA) (fun _ => State.pgErr_bankA ..) (fun _ => State.pgErr_bankA ..) s z
@[simp] theorem State.dropErrs_bankB (s z : State) : (s.dropErrs z).bankB = s.bankB :=
  State.dropErrs_of (·.bankB) (fun _ => State.pgErr_bankB ..) (fun _ => State.pgErr_bankB ..) s z
@[simp] theorem State.dropErrs_sched (s z : State) : (s.dropErrs z).sched = s.sched :=
  State.dropErrs_of (·.sched) (fun _ => State.pgErr_sched ..) (fun _ => State.pgErr_sched ..) s z
@[simp] theorem State.dropErrs_runs (s z : State) : (s.dropErrs z).runs = s.runs :=
  State.dropErrs_of (·.runs) (fun _ => State.pgErr_runs ..) (fun _ => State.pgErr_runs ..) s z
@[simp] theorem State.dropErrs_frozenNow (s z : State) : (s.dropErrs z).frozenNow = s.frozenNow :=
  State.dropErrs_of (·.frozenNow) (fun _ => State.pgErr_frozenNow ..) (fun _ => State.pgErr_frozenNow ..) s z
@[simp] theorem State.dropErrs_atoms (s z : State) : (s.dropErrs z).atoms = s.atoms :=
  State.dropErrs_of (·.atoms) (fun _ => State.pgErr_atoms ..) (fun _ => State.pgErr_atoms ..) s z
@[simp] theorem State.dropErrs_waiting (s z : State) : (s.dropErrs z).waiting = s.waiting :=
  State.dropErrs_of (·.waiting) (fun _ => State.pgErr_waiting ..) (fun _ => State.pgErr_waiting ..) s z
@[simp] theorem State.dropErrs_movers (s z : State) : (s.dropErrs z).movers = s.movers :=
  State.dropErrs_of (·.movers) (fun _ => State.pgErr_movers ..) (fun _ => State.pgErr_movers ..) s z
@[simp] theorem State.dropErrs_roundEnd (s z : State) : (s.dropErrs z).roundEnd = s.roundEnd :=
  State.dropErrs_of (·.roundEnd) (fun _ => State.pgErr_roundEnd ..) (fun _ => State.pgErr_roundEnd ..) s z
@[simp] theorem State.dropErrs_tiles (s z : State) : (s.dropErrs z).tiles = s.tiles :=
  State.dropErrs_of (·.tiles) (fun _ => State.pgErr_tiles ..) (fun _ => State.pgErr_tiles ..) s z
@[simp] theorem State.dropErrs_ueStep (s z : State) : (s.dropErrs z).ueStep = s.ueStep :=
  State.dropErrs_of (·.ueStep) (fun _ => State.pgErr_ueStep ..) (fun _ => State.pgErr_ueStep ..) s z
@[simp] theorem State.dropErrs_keys (s z : State) : (s.dropErrs z).keys = s.keys :=
  State.dropErrs_of (·.keys) (fun _ => State.pgErr_keys ..) (fun _ => State.pgErr_keys ..) s z
@[simp] theorem State.dropErrs_meas (s z : State) : (s.dropErrs z).meas = s.meas :=
  State.dropErrs_of (·.meas) (fun _ => State.pgErr_meas ..) (fun _ => State.pgErr_meas ..) s z
@[simp] theorem State.dropErrs_scrub (s z : State) : (s.dropErrs z).scrub = s.scrub :=
  State.dropErrs_of (·.scrub) (fun _ => State.pgErr_scrub ..) (fun _ => State.pgErr_scrub ..) s z
@[simp] theorem State.dropErrs_spots (s z : State) : (s.dropErrs z).spots = s.spots :=
  State.dropErrs_of (·.spots) (fun _ => State.pgErr_spots ..) (fun _ => State.pgErr_spots ..) s z
@[simp] theorem State.dropErrs_margin (s z : State) : (s.dropErrs z).margin = s.margin :=
  State.dropErrs_of (·.margin) (fun _ => State.pgErr_margin ..) (fun _ => State.pgErr_margin ..) s z
@[simp] theorem State.dropErrs_power (s z : State) : (s.dropErrs z).power = s.power :=
  State.dropErrs_of (·.power) (fun _ => State.pgErr_power ..) (fun _ => State.pgErr_power ..) s z
@[simp] theorem State.dropErrs_fuses (s z : State) : (s.dropErrs z).fuses = s.fuses :=
  State.dropErrs_of (·.fuses) (fun _ => State.pgErr_fuses ..) (fun _ => State.pgErr_fuses ..) s z
@[simp] theorem State.dropErrs_vane (s z : State) : (s.dropErrs z).vane = s.vane :=
  State.dropErrs_of (·.vane) (fun _ => State.pgErr_vane ..) (fun _ => State.pgErr_vane ..) s z
@[simp] theorem State.dropErrs_trust (s z : State) : (s.dropErrs z).trust = s.trust :=
  State.dropErrs_of (·.trust) (fun _ => State.pgErr_trust ..) (fun _ => State.pgErr_trust ..) s z
@[simp] theorem State.dropErrs_sessions (s z : State) : (s.dropErrs z).sessions = s.sessions :=
  State.dropErrs_of (·.sessions) (fun _ => State.pgErr_sessions ..) (fun _ => State.pgErr_sessions ..) s z
@[simp] theorem State.dropErrs_opening (s z : State) : (s.dropErrs z).opening = s.opening :=
  State.dropErrs_of (·.opening) (fun _ => State.pgErr_opening ..) (fun _ => State.pgErr_opening ..) s z
@[simp] theorem State.dropErrs_answers (s z : State) : (s.dropErrs z).answers = s.answers :=
  State.dropErrs_of (·.answers) (fun _ => State.pgErr_answers ..) (fun _ => State.pgErr_answers ..) s z
@[simp] theorem State.dropErrs_streams (s z : State) : (s.dropErrs z).streams = s.streams :=
  State.dropErrs_of (·.streams) (fun _ => State.pgErr_streams ..) (fun _ => State.pgErr_streams ..) s z
@[simp] theorem State.dropErrs_windows (s z : State) : (s.dropErrs z).windows = s.windows :=
  State.dropErrs_of (·.windows) (fun _ => State.pgErr_windows ..) (fun _ => State.pgErr_windows ..) s z

@[simp] theorem State.err_pending (s : State) (p : PageId) (i : Nat) : (s.err p i).pending = s.pending := by
  simp [State.err]
@[simp] theorem State.err_out (s : State) (p : PageId) (i : Nat) : (s.err p i).out = s.out := by
  simp [State.err]
@[simp] theorem State.err_clock (s : State) (p : PageId) (i : Nat) : (s.err p i).clock = s.clock := by
  simp [State.err]
@[simp] theorem State.err_staged (s : State) (p : PageId) (i : Nat) : (s.err p i).staged = s.staged := by
  simp [State.err]
@[simp] theorem State.err_mem (s : State) (p : PageId) (i : Nat) : (s.err p i).mem = s.mem := by
  simp [State.err]
@[simp] theorem State.err_belfry (s : State) (p : PageId) (i : Nat) : (s.err p i).belfry = s.belfry := by
  simp [State.err]
@[simp] theorem State.err_links (s : State) (p : PageId) (i : Nat) : (s.err p i).links = s.links := by
  simp [State.err]
@[simp] theorem State.err_d2d (s : State) (p : PageId) (i : Nat) : (s.err p i).d2d = s.d2d := by
  simp [State.err]
@[simp] theorem State.err_reservations (s : State) (p : PageId) (i : Nat) : (s.err p i).reservations = s.reservations := by
  simp [State.err]
@[simp] theorem State.err_routes (s : State) (p : PageId) (i : Nat) : (s.err p i).routes = s.routes := by
  simp [State.err]
@[simp] theorem State.err_opn (s : State) (p : PageId) (i : Nat) : (s.err p i).opn = s.opn := by
  simp [State.err]
@[simp] theorem State.err_arrays (s : State) (p : PageId) (i : Nat) : (s.err p i).arrays = s.arrays := by
  simp [State.err]
@[simp] theorem State.err_fst (s : State) (p : PageId) (i : Nat) : (s.err p i).fst = s.fst := by
  simp [State.err]
@[simp] theorem State.err_watch (s : State) (p : PageId) (i : Nat) : (s.err p i).watch = s.watch := by
  simp [State.err]
@[simp] theorem State.err_bankA (s : State) (p : PageId) (i : Nat) : (s.err p i).bankA = s.bankA := by
  simp [State.err]
@[simp] theorem State.err_bankB (s : State) (p : PageId) (i : Nat) : (s.err p i).bankB = s.bankB := by
  simp [State.err]
@[simp] theorem State.err_sched (s : State) (p : PageId) (i : Nat) : (s.err p i).sched = s.sched := by
  simp [State.err]
@[simp] theorem State.err_runs (s : State) (p : PageId) (i : Nat) : (s.err p i).runs = s.runs := by
  simp [State.err]
@[simp] theorem State.err_frozenNow (s : State) (p : PageId) (i : Nat) : (s.err p i).frozenNow = s.frozenNow := by
  simp [State.err]
@[simp] theorem State.err_atoms (s : State) (p : PageId) (i : Nat) : (s.err p i).atoms = s.atoms := by
  simp [State.err]
@[simp] theorem State.err_waiting (s : State) (p : PageId) (i : Nat) : (s.err p i).waiting = s.waiting := by
  simp [State.err]
@[simp] theorem State.err_movers (s : State) (p : PageId) (i : Nat) : (s.err p i).movers = s.movers := by
  simp [State.err]
@[simp] theorem State.err_roundEnd (s : State) (p : PageId) (i : Nat) : (s.err p i).roundEnd = s.roundEnd := by
  simp [State.err]
@[simp] theorem State.err_tiles (s : State) (p : PageId) (i : Nat) : (s.err p i).tiles = s.tiles := by
  simp [State.err]
@[simp] theorem State.err_ueStep (s : State) (p : PageId) (i : Nat) : (s.err p i).ueStep = s.ueStep := by
  simp [State.err]
@[simp] theorem State.err_keys (s : State) (p : PageId) (i : Nat) : (s.err p i).keys = s.keys := by
  simp [State.err]
@[simp] theorem State.err_meas (s : State) (p : PageId) (i : Nat) : (s.err p i).meas = s.meas := by
  simp [State.err]
@[simp] theorem State.err_scrub (s : State) (p : PageId) (i : Nat) : (s.err p i).scrub = s.scrub := by
  simp [State.err]
@[simp] theorem State.err_spots (s : State) (p : PageId) (i : Nat) : (s.err p i).spots = s.spots := by
  simp [State.err]
@[simp] theorem State.err_margin (s : State) (p : PageId) (i : Nat) : (s.err p i).margin = s.margin := by
  simp [State.err]
@[simp] theorem State.err_power (s : State) (p : PageId) (i : Nat) : (s.err p i).power = s.power := by
  simp [State.err]
@[simp] theorem State.err_fuses (s : State) (p : PageId) (i : Nat) : (s.err p i).fuses = s.fuses := by
  simp [State.err]
@[simp] theorem State.err_vane (s : State) (p : PageId) (i : Nat) : (s.err p i).vane = s.vane := by
  simp [State.err]
@[simp] theorem State.err_trust (s : State) (p : PageId) (i : Nat) : (s.err p i).trust = s.trust := by
  simp [State.err]
@[simp] theorem State.err_sessions (s : State) (p : PageId) (i : Nat) : (s.err p i).sessions = s.sessions := by
  simp [State.err]
@[simp] theorem State.err_opening (s : State) (p : PageId) (i : Nat) : (s.err p i).opening = s.opening := by
  simp [State.err]
@[simp] theorem State.err_answers (s : State) (p : PageId) (i : Nat) : (s.err p i).answers = s.answers := by
  simp [State.err]
@[simp] theorem State.err_streams (s : State) (p : PageId) (i : Nat) : (s.err p i).streams = s.streams := by
  simp [State.err]
@[simp] theorem State.err_windows (s : State) (p : PageId) (i : Nat) : (s.err p i).windows = s.windows := by
  simp [State.err]

@[simp] theorem State.eventE_pending (s : State) (p : PageId) (c : Nat) (d : List Byte) : (s.eventE p c d).pending = s.pending := by
  simp [State.eventE]
@[simp] theorem State.eventE_out (s : State) (p : PageId) (c : Nat) (d : List Byte) : (s.eventE p c d).out = s.out := by
  simp [State.eventE]
@[simp] theorem State.eventE_clock (s : State) (p : PageId) (c : Nat) (d : List Byte) : (s.eventE p c d).clock = s.clock := by
  simp [State.eventE]
@[simp] theorem State.eventE_staged (s : State) (p : PageId) (c : Nat) (d : List Byte) : (s.eventE p c d).staged = s.staged := by
  simp [State.eventE]
@[simp] theorem State.eventE_mem (s : State) (p : PageId) (c : Nat) (d : List Byte) : (s.eventE p c d).mem = s.mem := by
  simp [State.eventE]
@[simp] theorem State.eventE_belfry (s : State) (p : PageId) (c : Nat) (d : List Byte) : (s.eventE p c d).belfry = s.belfry := by
  simp [State.eventE]
@[simp] theorem State.eventE_links (s : State) (p : PageId) (c : Nat) (d : List Byte) : (s.eventE p c d).links = s.links := by
  simp [State.eventE]
@[simp] theorem State.eventE_d2d (s : State) (p : PageId) (c : Nat) (d : List Byte) : (s.eventE p c d).d2d = s.d2d := by
  simp [State.eventE]
@[simp] theorem State.eventE_reservations (s : State) (p : PageId) (c : Nat) (d : List Byte) : (s.eventE p c d).reservations = s.reservations := by
  simp [State.eventE]
@[simp] theorem State.eventE_routes (s : State) (p : PageId) (c : Nat) (d : List Byte) : (s.eventE p c d).routes = s.routes := by
  simp [State.eventE]
@[simp] theorem State.eventE_opn (s : State) (p : PageId) (c : Nat) (d : List Byte) : (s.eventE p c d).opn = s.opn := by
  simp [State.eventE]
@[simp] theorem State.eventE_arrays (s : State) (p : PageId) (c : Nat) (d : List Byte) : (s.eventE p c d).arrays = s.arrays := by
  simp [State.eventE]
@[simp] theorem State.eventE_fst (s : State) (p : PageId) (c : Nat) (d : List Byte) : (s.eventE p c d).fst = s.fst := by
  simp [State.eventE]
@[simp] theorem State.eventE_watch (s : State) (p : PageId) (c : Nat) (d : List Byte) : (s.eventE p c d).watch = s.watch := by
  simp [State.eventE]
@[simp] theorem State.eventE_bankA (s : State) (p : PageId) (c : Nat) (d : List Byte) : (s.eventE p c d).bankA = s.bankA := by
  simp [State.eventE]
@[simp] theorem State.eventE_bankB (s : State) (p : PageId) (c : Nat) (d : List Byte) : (s.eventE p c d).bankB = s.bankB := by
  simp [State.eventE]
@[simp] theorem State.eventE_sched (s : State) (p : PageId) (c : Nat) (d : List Byte) : (s.eventE p c d).sched = s.sched := by
  simp [State.eventE]
@[simp] theorem State.eventE_runs (s : State) (p : PageId) (c : Nat) (d : List Byte) : (s.eventE p c d).runs = s.runs := by
  simp [State.eventE]
@[simp] theorem State.eventE_frozenNow (s : State) (p : PageId) (c : Nat) (d : List Byte) : (s.eventE p c d).frozenNow = s.frozenNow := by
  simp [State.eventE]
@[simp] theorem State.eventE_atoms (s : State) (p : PageId) (c : Nat) (d : List Byte) : (s.eventE p c d).atoms = s.atoms := by
  simp [State.eventE]
@[simp] theorem State.eventE_waiting (s : State) (p : PageId) (c : Nat) (d : List Byte) : (s.eventE p c d).waiting = s.waiting := by
  simp [State.eventE]
@[simp] theorem State.eventE_movers (s : State) (p : PageId) (c : Nat) (d : List Byte) : (s.eventE p c d).movers = s.movers := by
  simp [State.eventE]
@[simp] theorem State.eventE_roundEnd (s : State) (p : PageId) (c : Nat) (d : List Byte) : (s.eventE p c d).roundEnd = s.roundEnd := by
  simp [State.eventE]
@[simp] theorem State.eventE_tiles (s : State) (p : PageId) (c : Nat) (d : List Byte) : (s.eventE p c d).tiles = s.tiles := by
  simp [State.eventE]
@[simp] theorem State.eventE_ueStep (s : State) (p : PageId) (c : Nat) (d : List Byte) : (s.eventE p c d).ueStep = s.ueStep := by
  simp [State.eventE]
@[simp] theorem State.eventE_keys (s : State) (p : PageId) (c : Nat) (d : List Byte) : (s.eventE p c d).keys = s.keys := by
  simp [State.eventE]
@[simp] theorem State.eventE_meas (s : State) (p : PageId) (c : Nat) (d : List Byte) : (s.eventE p c d).meas = s.meas := by
  simp [State.eventE]
@[simp] theorem State.eventE_scrub (s : State) (p : PageId) (c : Nat) (d : List Byte) : (s.eventE p c d).scrub = s.scrub := by
  simp [State.eventE]
@[simp] theorem State.eventE_spots (s : State) (p : PageId) (c : Nat) (d : List Byte) : (s.eventE p c d).spots = s.spots := by
  simp [State.eventE]
@[simp] theorem State.eventE_margin (s : State) (p : PageId) (c : Nat) (d : List Byte) : (s.eventE p c d).margin = s.margin := by
  simp [State.eventE]
@[simp] theorem State.eventE_power (s : State) (p : PageId) (c : Nat) (d : List Byte) : (s.eventE p c d).power = s.power := by
  simp [State.eventE]
@[simp] theorem State.eventE_fuses (s : State) (p : PageId) (c : Nat) (d : List Byte) : (s.eventE p c d).fuses = s.fuses := by
  simp [State.eventE]
@[simp] theorem State.eventE_vane (s : State) (p : PageId) (c : Nat) (d : List Byte) : (s.eventE p c d).vane = s.vane := by
  simp [State.eventE]
@[simp] theorem State.eventE_trust (s : State) (p : PageId) (c : Nat) (d : List Byte) : (s.eventE p c d).trust = s.trust := by
  simp [State.eventE]
@[simp] theorem State.eventE_sessions (s : State) (p : PageId) (c : Nat) (d : List Byte) : (s.eventE p c d).sessions = s.sessions := by
  simp [State.eventE]
@[simp] theorem State.eventE_opening (s : State) (p : PageId) (c : Nat) (d : List Byte) : (s.eventE p c d).opening = s.opening := by
  simp [State.eventE]
@[simp] theorem State.eventE_answers (s : State) (p : PageId) (c : Nat) (d : List Byte) : (s.eventE p c d).answers = s.answers := by
  simp [State.eventE]
@[simp] theorem State.eventE_streams (s : State) (p : PageId) (c : Nat) (d : List Byte) : (s.eventE p c d).streams = s.streams := by
  simp [State.eventE]
@[simp] theorem State.eventE_windows (s : State) (p : PageId) (c : Nat) (d : List Byte) : (s.eventE p c d).windows = s.windows := by
  simp [State.eventE]

@[simp] theorem State.raise_pending (s : State) (c e : Nat) : (s.raise c e).pending = s.pending := rfl
@[simp] theorem State.raise_out (s : State) (c e : Nat) : (s.raise c e).out = s.out := rfl
@[simp] theorem State.raise_free (s : State) (c e : Nat) : (s.raise c e).free = s.free := rfl
@[simp] theorem State.raise_clock (s : State) (c e : Nat) : (s.raise c e).clock = s.clock := rfl
@[simp] theorem State.raise_regs (s : State) (c e : Nat) : (s.raise c e).regs = s.regs := rfl
@[simp] theorem State.raise_staged (s : State) (c e : Nat) : (s.raise c e).staged = s.staged := rfl
@[simp] theorem State.raise_hidden (s : State) (c e : Nat) : (s.raise c e).hidden = s.hidden := rfl
@[simp] theorem State.raise_trip (s : State) (c e : Nat) : (s.raise c e).trip = s.trip := rfl
@[simp] theorem State.raise_rose (s : State) (c e : Nat) : (s.raise c e).rose = s.rose := rfl
@[simp] theorem State.raise_mem (s : State) (c e : Nat) : (s.raise c e).mem = s.mem := rfl
@[simp] theorem State.raise_events (s : State) (c e : Nat) : (s.raise c e).events = s.events := rfl
@[simp] theorem State.raise_host (s : State) (c e : Nat) : (s.raise c e).host = s.host := rfl
@[simp] theorem State.raise_belfry (s : State) (c e : Nat) : (s.raise c e).belfry = s.belfry := rfl
@[simp] theorem State.raise_links (s : State) (c e : Nat) : (s.raise c e).links = s.links := rfl
@[simp] theorem State.raise_d2d (s : State) (c e : Nat) : (s.raise c e).d2d = s.d2d := rfl
@[simp] theorem State.raise_reservations (s : State) (c e : Nat) : (s.raise c e).reservations = s.reservations := rfl
@[simp] theorem State.raise_routes (s : State) (c e : Nat) : (s.raise c e).routes = s.routes := rfl
@[simp] theorem State.raise_opn (s : State) (c e : Nat) : (s.raise c e).opn = s.opn := rfl
@[simp] theorem State.raise_arrays (s : State) (c e : Nat) : (s.raise c e).arrays = s.arrays := rfl
@[simp] theorem State.raise_fst (s : State) (c e : Nat) : (s.raise c e).fst = s.fst := rfl
@[simp] theorem State.raise_bankA (s : State) (c e : Nat) : (s.raise c e).bankA = s.bankA := rfl
@[simp] theorem State.raise_bankB (s : State) (c e : Nat) : (s.raise c e).bankB = s.bankB := rfl
@[simp] theorem State.raise_sched (s : State) (c e : Nat) : (s.raise c e).sched = s.sched := rfl
@[simp] theorem State.raise_runs (s : State) (c e : Nat) : (s.raise c e).runs = s.runs := rfl
@[simp] theorem State.raise_frozenNow (s : State) (c e : Nat) : (s.raise c e).frozenNow = s.frozenNow := rfl
@[simp] theorem State.raise_atoms (s : State) (c e : Nat) : (s.raise c e).atoms = s.atoms := rfl
@[simp] theorem State.raise_waiting (s : State) (c e : Nat) : (s.raise c e).waiting = s.waiting := rfl
@[simp] theorem State.raise_movers (s : State) (c e : Nat) : (s.raise c e).movers = s.movers := rfl
@[simp] theorem State.raise_roundEnd (s : State) (c e : Nat) : (s.raise c e).roundEnd = s.roundEnd := rfl
@[simp] theorem State.raise_tiles (s : State) (c e : Nat) : (s.raise c e).tiles = s.tiles := rfl
@[simp] theorem State.raise_ueStep (s : State) (c e : Nat) : (s.raise c e).ueStep = s.ueStep := rfl
@[simp] theorem State.raise_keys (s : State) (c e : Nat) : (s.raise c e).keys = s.keys := rfl
@[simp] theorem State.raise_meas (s : State) (c e : Nat) : (s.raise c e).meas = s.meas := rfl
@[simp] theorem State.raise_scrub (s : State) (c e : Nat) : (s.raise c e).scrub = s.scrub := rfl
@[simp] theorem State.raise_spots (s : State) (c e : Nat) : (s.raise c e).spots = s.spots := rfl
@[simp] theorem State.raise_margin (s : State) (c e : Nat) : (s.raise c e).margin = s.margin := rfl
@[simp] theorem State.raise_power (s : State) (c e : Nat) : (s.raise c e).power = s.power := rfl
@[simp] theorem State.raise_fuses (s : State) (c e : Nat) : (s.raise c e).fuses = s.fuses := rfl
@[simp] theorem State.raise_vane (s : State) (c e : Nat) : (s.raise c e).vane = s.vane := rfl
@[simp] theorem State.raise_trust (s : State) (c e : Nat) : (s.raise c e).trust = s.trust := rfl
@[simp] theorem State.raise_sessions (s : State) (c e : Nat) : (s.raise c e).sessions = s.sessions := rfl
@[simp] theorem State.raise_opening (s : State) (c e : Nat) : (s.raise c e).opening = s.opening := rfl
@[simp] theorem State.raise_answers (s : State) (c e : Nat) : (s.raise c e).answers = s.answers := rfl
@[simp] theorem State.raise_streams (s : State) (c e : Nat) : (s.raise c e).streams = s.streams := rfl
@[simp] theorem State.raise_windows (s : State) (c e : Nat) : (s.raise c e).windows = s.windows := rfl

end Sys2Proof.Machine
end

