-- ==== Sys2Proof/Laws/Registers.lean ====
section
/-! SUPPORT. Reading a register field after one was written: the same field gives the value, every other field what it held. -/

namespace Sys2Proof.Machine

open Sys2Proof

/-! ## Association lists -/

theorem AL.get_del_self {κ ν : Type} [DecidableEq κ] (k : κ) : ∀ m : List (κ × ν), AL.get (AL.del m k) k = none
  | [] => rfl
  | (k', v) :: m => by
    unfold AL.del
    split
    · exact AL.get_del_self k m
    · rename_i h
      unfold AL.get
      rw [if_neg h]
      exact AL.get_del_self k m

theorem AL.get_del_ne {κ ν : Type} [DecidableEq κ] {k k' : κ} (h : k' ≠ k) :
    ∀ m : List (κ × ν), AL.get (AL.del m k) k' = AL.get m k'
  | [] => rfl
  | (x, v) :: m => by
    unfold AL.del
    split
    · rename_i hx
      rw [AL.get_del_ne h m]
      conv_rhs => unfold AL.get
      rw [if_neg (fun hk => h (hk.symm.trans hx))]
    · unfold AL.get
      rw [AL.get_del_ne h m]

@[simp] theorem AL.get_put_self {κ ν : Type} [DecidableEq κ] (m : List (κ × ν)) (k : κ) (v : ν) :
    AL.get (AL.put m k v) k = some v := by
  unfold AL.put AL.get
  rw [if_pos rfl]

theorem AL.get_put_ne {κ ν : Type} [DecidableEq κ] {k k' : κ} (m : List (κ × ν)) (v : ν) (h : k' ≠ k) :
    AL.get (AL.put m k v) k' = AL.get m k' := by
  unfold AL.put
  conv_lhs => unfold AL.get
  rw [if_neg h.symm, AL.get_del_ne h]

@[simp] theorem AL.getD_put_self {κ ν : Type} [DecidableEq κ] (m : List (κ × ν)) (k : κ) (v d : ν) :
    AL.getD (AL.put m k v) k d = v := by
  simp [AL.getD]

/-! ## Frames -/

/-- Two states are the same beyond registers when their other fields are. -/
theorem sameBeyondRegs_of {s t : State}
    (h0 : t.pending = s.pending) (h1 : t.free = s.free) (h2 : t.clock = s.clock) (h3 : t.staged = s.staged)
    (h4 : t.mem = s.mem) (h5 : t.events = s.events) (h6 : t.host = s.host) (h7 : t.belfry = s.belfry) (h8 : t.links = s.links)
    (h9 : t.d2d = s.d2d) (h10 : t.reservations = s.reservations) (h11 : t.routes = s.routes) (h12 : t.opn = s.opn)
    (h13 : t.arrays = s.arrays) (h14 : t.fst = s.fst) (h15 : t.watch = s.watch) (h16 : t.bankA = s.bankA)
    (h17 : t.bankB = s.bankB) (h18 : t.sched = s.sched) (h19 : t.runs = s.runs) (h20 : t.frozenNow = s.frozenNow)
    (h21 : t.atoms = s.atoms) (h22 : t.waiting = s.waiting) (h23 : t.movers = s.movers) (h24 : t.roundEnd = s.roundEnd)
    (h25 : t.tiles = s.tiles) (h26 : t.ueStep = s.ueStep) (h27 : t.keys = s.keys) (h28 : t.meas = s.meas)
    (h29 : t.scrub = s.scrub) (h30 : t.spots = s.spots) (h31 : t.margin = s.margin) (h32 : t.power = s.power)
    (h33 : t.fuses = s.fuses) (h34 : t.vane = s.vane) (h35 : t.trust = s.trust) (h36 : t.sessions = s.sessions)
    (h37 : t.opening = s.opening) (h38 : t.answers = s.answers) (h39 : t.streams = s.streams) (h40 : t.windows = s.windows) :
    sameBeyondRegs s t := by
  unfold sameBeyondRegs
  cases s
  cases t
  dsimp only at *
  subst h0 h1 h2 h3 h4 h5 h6 h7 h8 h9 h10 h11 h12 h13 h14 h15 h16 h17 h18 h19 h20 h21 h22 h23 h24 h25 h26 h27 h28 h29 h30 h31 h32 h33 h34 h35 h36 h37 h38 h39 h40
  rfl

/-- Two states are the same beyond reports when their other fields are. -/
theorem sameBeyondReports_of {s t : State}
    (h0 : t.pending = s.pending) (h1 : t.clock = s.clock) (h2 : t.staged = s.staged) (h3 : t.mem = s.mem)
    (h4 : t.belfry = s.belfry) (h5 : t.links = s.links) (h6 : t.d2d = s.d2d) (h7 : t.reservations = s.reservations)
    (h8 : t.routes = s.routes) (h9 : t.opn = s.opn) (h10 : t.arrays = s.arrays) (h11 : t.fst = s.fst)
    (h12 : t.watch = s.watch) (h13 : t.bankA = s.bankA) (h14 : t.bankB = s.bankB) (h15 : t.sched = s.sched)
    (h16 : t.runs = s.runs) (h17 : t.frozenNow = s.frozenNow) (h18 : t.atoms = s.atoms) (h19 : t.waiting = s.waiting)
    (h20 : t.movers = s.movers) (h21 : t.roundEnd = s.roundEnd) (h22 : t.tiles = s.tiles) (h23 : t.ueStep = s.ueStep)
    (h24 : t.keys = s.keys) (h25 : t.meas = s.meas) (h26 : t.scrub = s.scrub) (h27 : t.spots = s.spots)
    (h28 : t.margin = s.margin) (h29 : t.power = s.power) (h30 : t.fuses = s.fuses) (h31 : t.vane = s.vane)
    (h32 : t.trust = s.trust) (h33 : t.sessions = s.sessions) (h34 : t.opening = s.opening) (h35 : t.answers = s.answers)
    (h36 : t.streams = s.streams) (h37 : t.windows = s.windows) :
    sameBeyondReports s t := by
  unfold sameBeyondReports
  cases s
  cases t
  dsimp only at *
  subst h0 h1 h2 h3 h4 h5 h6 h7 h8 h9 h10 h11 h12 h13 h14 h15 h16 h17 h18 h19 h20 h21 h22 h23 h24 h25 h26 h27 h28 h29 h30 h31 h32 h33 h34 h35 h36 h37
  rfl

/-! ## A read depends on three fields of the state -/

theorem State.raw_of_eq {s t : State} (h1 : t.regs = s.regs) (h3 : t.trip = s.trip) (p : PageId) (r : Reg) (i : Nat) :
    t.raw p r i = s.raw p r i := by
  simp only [State.raw, State.copy0, h1, h3]
  rfl

theorem State.rd_of_eq {s t : State} (h1 : t.regs = s.regs) (h2 : t.hidden = s.hidden) (h3 : t.trip = s.trip)
    (p : PageId) (r : Reg) (i : Nat) : t.rd p r i = s.rd p r i := by
  simp only [State.rd, frozen, State.raw_of_eq h1 h3, h2]
  rfl

theorem State.rdb_of_eq {s t : State} (h1 : t.regs = s.regs) (h2 : t.hidden = s.hidden) (h3 : t.trip = s.trip)
    (p : PageId) (r : Reg) (i : Nat) : t.rdb p r i = s.rdb p r i := by
  simp only [State.rdb, State.rd_of_eq h1 h2 h3]

@[simp] theorem State.emit_rd (s : State) (o : Output) (p : PageId) (r : Reg) (i : Nat) : (s.emit o).rd p r i = s.rd p r i := rfl
@[simp] theorem State.setBelfry_rd (s : State) (b : Belfry) (p : PageId) (r : Reg) (i : Nat) :
    (s.setBelfry b).rd p r i = s.rd p r i := rfl
@[simp] theorem State.setWatch_rd (s : State) (w : Watch) (p : PageId) (r : Reg) (i : Nat) :
    (s.setWatch w).rd p r i = s.rd p r i := rfl
@[simp] theorem State.setSched_rd (s : State) (x : Sched) (p : PageId) (r : Reg) (i : Nat) :
    (s.setSched x).rd p r i = s.rd p r i := rfl
@[simp] theorem State.setLink_rd (s : State) (l : Nat) (x : Link) (p : PageId) (r : Reg) (i : Nat) :
    (s.setLink l x).rd p r i = s.rd p r i := rfl
@[simp] theorem State.setTile_rd (s : State) (g : Nat) (x : Tile) (p : PageId) (r : Reg) (i : Nat) :
    (s.setTile g x).rd p r i = s.rd p r i := rfl
@[simp] theorem State.setOpn_rd (s : State) (o : OpenPlane) (p : PageId) (r : Reg) (i : Nat) :
    (s.setOpn o).rd p r i = s.rd p r i := rfl
@[simp] theorem State.setHost_rd (s : State) (h : HostMac) (p : PageId) (r : Reg) (i : Nat) :
    (s.setHost h).rd p r i = s.rd p r i := rfl
@[simp] theorem State.setPower_rd (s : State) (x : Power) (p : PageId) (r : Reg) (i : Nat) :
    (s.setPower x).rd p r i = s.rd p r i := rfl
@[simp] theorem State.setVane_rd (s : State) (v : Vane) (p : PageId) (r : Reg) (i : Nat) :
    (s.setVane v).rd p r i = s.rd p r i := rfl
@[simp] theorem State.setArrays_rd (s : State) (a : Arrays) (p : PageId) (r : Reg) (i : Nat) :
    (s.setArrays a).rd p r i = s.rd p r i := rfl
@[simp] theorem State.setRun_rd (s : State) (x : Run) (p : PageId) (r : Reg) (i : Nat) :
    (s.setRun x).rd p r i = s.rd p r i := rfl
@[simp] theorem State.withPending_rd (s : State) (l : List Instr) (p : PageId) (r : Reg) (i : Nat) :
    (s.withPending l).rd p r i = s.rd p r i := rfl

/-! ## put -/

/-- A key that decides how others read: FREEZE of a page, or TRIP_EN. -/
def steers (k : RegKey) (q : PageId) : Prop := k = rkey q Hdr.FREEZE 0 ∨ k = rkey pgIntegrity Itg.TRIP_EN 0

theorem State.copy0_put_ne (s : State) {p q : PageId} {r x : Reg} {i j : Nat} (v : Nat) (h : rkey q x j ≠ rkey p r i) :
    (s.put p r i v).copy0 q x j = s.copy0 q x j := by
  simp only [State.copy0, AL.getD, State.put_regs, AL.get_put_ne _ _ h]

theorem State.raw_put_self (s : State) (p : PageId) (r : Reg) (i v : Nat) : (s.put p r i v).raw p r i = v % 2 ^ r.w := by
  simp [State.raw, State.copy0, AL.get_del_self, AL.getD]

theorem State.raw_put_ne (s : State) {p q : PageId} {r x : Reg} {i j : Nat} (v : Nat) (h : rkey q x j ≠ rkey p r i)
    (hs : rkey p r i ≠ rkey pgIntegrity Itg.TRIP_EN 0) : (s.put p r i v).raw q x j = s.raw q x j := by
  simp only [State.raw, State.put_trip, AL.get_del_ne h, State.copy0_put_ne s v h, State.copy0_put_ne s v hs.symm]

theorem State.frozen_put_ne (s : State) {p q : PageId} {r : Reg} {i : Nat} (v : Nat)
    (hs : rkey q Hdr.FREEZE 0 ≠ rkey p r i) (ht : rkey p r i ≠ rkey pgIntegrity Itg.TRIP_EN 0) :
    frozen (s.put p r i v) q = frozen s q := by
  simp only [frozen, State.raw_put_ne s v hs ht]

/-- A setting or status written reads as what was written, in its width. -/
theorem State.rd_put_self (s : State) (p : PageId) (r : Reg) (i v : Nat) (h : heldKind r = false) :
    (s.put p r i v).rd p r i = v % 2 ^ r.w := by
  simp only [State.rd, h, Bool.false_and, Bool.false_eq_true, if_false, State.raw_put_self]
  split <;> rfl

/-- Writing one field leaves every other as it reads. -/
theorem State.rd_put_ne (s : State) {p q : PageId} {r x : Reg} {i j : Nat} (v : Nat) (h : rkey q x j ≠ rkey p r i)
    (hs : ¬ steers (rkey p r i) q) : (s.put p r i v).rd q x j = s.rd q x j := by
  have h1 : rkey q Hdr.FREEZE 0 ≠ rkey p r i := fun e => hs (.inl e.symm)
  have h2 : rkey p r i ≠ rkey pgIntegrity Itg.TRIP_EN 0 := fun e => hs (.inr e)
  simp only [State.rd, State.put_hidden, State.raw_put_ne s v h h2, State.frozen_put_ne s v h1 h2]

/-! ## wri -/

@[simp] theorem State.noteRise_rd (s : State) (k : RegKey) (b : Nat) (p : PageId) (r : Reg) (i : Nat) :
    (s.noteRise k b).rd p r i = s.rd p r i :=
  State.rd_of_eq (State.noteRise_regs ..) (State.noteRise_hidden ..) (State.noteRise_trip ..) p r i

theorem State.rd_updi_self (s : State) (p : PageId) (r : Reg) (i v : Nat) (h : rkey p r i ≠ rkey p Hdr.HELD_EVT 0)
    (hs : ¬ steers (rkey p r i) p) : (s.updi p r i v).rd p r i = v % 2 ^ r.w := by
  have hf : ¬ steers (rkey p Hdr.HELD_EVT 0) p := by
    simp [steers, rkey, Hdr.HELD_EVT, Hdr.FREEZE, Itg.TRIP_EN]
  unfold State.updi
  split
  · rename_i hc
    rw [State.rd_put_ne _ _ h hf]
    simp only [State.rd, AL.get_put_self]
    rw [if_pos]
    exact hc
  · rename_i hc
    have h1 : rkey p Hdr.FREEZE 0 ≠ rkey p r i := fun e => hs (.inl e.symm)
    have h2 : rkey p r i ≠ rkey pgIntegrity Itg.TRIP_EN 0 := fun e => hs (.inr e)
    simp only [State.rd, State.put_hidden, State.raw_put_self, State.frozen_put_ne s v h1 h2, hc, Bool.false_eq_true, if_false]
    split <;> rfl

theorem State.rd_updi_ne (s : State) {p q : PageId} {r x : Reg} {i j : Nat} (v : Nat) (h : rkey q x j ≠ rkey p r i)
    (he : rkey q x j ≠ rkey p Hdr.HELD_EVT 0) (hs : ¬ steers (rkey p r i) q) : (s.updi p r i v).rd q x j = s.rd q x j := by
  have hf : ¬ steers (rkey p Hdr.HELD_EVT 0) q := by
    simp [steers, rkey, Hdr.HELD_EVT, Hdr.FREEZE, Itg.TRIP_EN]
  unfold State.updi
  split
  · rw [State.rd_put_ne _ _ he hf]
    simp only [State.rd, AL.get_put_ne _ _ h]
    rfl
  · exact State.rd_put_ne s v h hs

theorem State.rd_wri_self (s : State) (p : PageId) (r : Reg) (i v : Nat) (h : rkey p r i ≠ rkey p Hdr.HELD_EVT 0)
    (hs : ¬ steers (rkey p r i) p) : (s.wri p r i v).rd p r i = v % 2 ^ r.w := State.rd_updi_self _ p r i v h hs

theorem State.rd_wri_ne (s : State) {p q : PageId} {r x : Reg} {i j : Nat} (v : Nat) (h : rkey q x j ≠ rkey p r i)
    (he : rkey q x j ≠ rkey p Hdr.HELD_EVT 0) (hs : ¬ steers (rkey p r i) q) : (s.wri p r i v).rd q x j = s.rd q x j :=
  (State.rd_updi_ne _ v h he hs).trans (State.noteRise_rd ..)

theorem State.rd_wr_self (s : State) (p : PageId) (r : Reg) (v : Nat) (h : rkey p r 0 ≠ rkey p Hdr.HELD_EVT 0)
    (hs : ¬ steers (rkey p r 0) p) : (s.wr p r v).rd p r 0 = v % 2 ^ r.w := State.rd_wri_self s p r 0 v h hs

theorem State.rd_wr_ne (s : State) {p q : PageId} {r x : Reg} {j : Nat} (v : Nat) (h : rkey q x j ≠ rkey p r 0)
    (he : rkey q x j ≠ rkey p Hdr.HELD_EVT 0) (hs : ¬ steers (rkey p r 0) q) : (s.wr p r v).rd q x j = s.rd q x j :=
  State.rd_wri_ne s v h he hs

/-! ## Error events -/

theorem not_steers_hdr (p q : PageId) (r : Reg) (h : r.off < 0x100) (h1 : r.off ≠ 0x008 ∨ r.lo ≠ 2) :
    ¬ steers (rkey p r 0) q := by
  rintro (e | e)
  · have h2 : r.off = 0x008 ∧ r.lo = 2 := by
      simp only [rkey, Hdr.FREEZE, RegKey.mk.injEq, Nat.mul_zero] at e
      exact ⟨e.2.2.1, e.2.2.2⟩
    omega
  · simp only [rkey, Itg.TRIP_EN, RegKey.mk.injEq, Nat.mul_zero] at e
    omega

theorem State.rd_wri_off (s : State) {p q : PageId} {r x : Reg} {j : Nat} (v : Nat) (hk : r.off < 0x100)
    (h1 : r.off ≠ 0x008 ∨ r.lo ≠ 2) (h : ¬ ((rkey q x j).off < 0x100 ∧ (rkey q x j).ty = p.ty ∧ (rkey q x j).inst = p.inst)) :
    (s.wr p r v).rd q x j = s.rd q x j := by
  refine State.rd_wr_ne s v ?_ ?_ (not_steers_hdr p q r hk h1)
  · intro e
    rw [e] at h
    exact h ⟨by simpa [rkey] using hk, rfl, rfl⟩
  · intro e
    rw [e] at h
    exact h ⟨by simp [rkey, Hdr.HELD_EVT], rfl, rfl⟩

theorem State.rd_strictPut (s : State) (q : Nat) (l : List Byte) {p : PageId} {x : Reg} {j : Nat}
    (h : ¬ eventTouches (rkey p x j)) : (s.strictPut q l).rd p x j = s.rd p x j := by
  unfold State.strictPut
  dsimp only
  split
  · rfl
  · refine State.rd_wr_ne s _ (fun e => h (.inr (.inl e))) (fun e => h (.inr (.inr (.inr e)))) ?_
    simp [steers, rkey, Hst.EG_DROP, Hdr.FREEZE, Itg.TRIP_EN]

theorem State.rd_storeEvent (s : State) (c u : Nat) (d : List Byte) {p : PageId} {x : Reg} {j : Nat}
    (h : ¬ eventTouches (rkey p x j)) : (s.storeEvent c u d).rd p x j = s.rd p x j := by
  unfold State.storeEvent
  dsimp only
  split
  · exact (State.rd_strictPut _ _ _ h).trans rfl
  · rfl

theorem State.rd_loseEvent (s : State) {p : PageId} {x : Reg} {j : Nat} (h : ¬ eventTouches (rkey p x j)) :
    s.loseEvent.rd p x j = s.rd p x j := by
  unfold State.loseEvent
  refine (State.rd_wr_ne _ _ (fun e => h (.inl e)) (fun e => h (.inr (.inr (.inl e)))) ?_).trans rfl
  simp [steers, rkey, Mac.EVT_LOST, Hdr.FREEZE, Itg.TRIP_EN]

/-- An event leaves every field but those of `eventTouches` as it reads. -/
theorem State.rd_event (s : State) (q : PageId) (c : Nat) (d : List Byte) {p : PageId} {x : Reg} {j : Nat}
    (h : ¬ eventTouches (rkey p x j)) : (s.event q c d).rd p x j = s.rd p x j := by
  unfold State.event
  dsimp only
  split
  · split
    · exact State.rd_storeEvent s _ _ _ h
    · exact State.rd_loseEvent s h
  · split
    · rw [State.rd_storeEvent _ _ _ _ h, State.rd_storeEvent _ _ _ _ h]
      rfl
    · exact State.rd_loseEvent s h

theorem State.rd_pgErr (s : State) (q : PageId) (c : Nat) {p : PageId} {x : Reg} {j : Nat}
    (h : ¬ eventTouches (rkey p x j))
    (hq : ¬ ((rkey p x j).off < 0x100 ∧ (rkey p x j).ty = q.ty ∧ (rkey p x j).inst = q.inst)) :
    (s.pgErr q c).rd p x j = s.rd p x j := by
  have w1 : ∀ (t : State) v, (t.wr q Hdr.PG_ERR v).rd p x j = t.rd p x j := fun t v =>
    State.rd_wri_off t v (by decide) (by decide) hq
  have w2 : ∀ (t : State) v, (t.wr q Hdr.FIRST_CODE v).rd p x j = t.rd p x j := fun t v =>
    State.rd_wri_off t v (by decide) (by decide) hq
  have w3 : ∀ (t : State) v, (t.wr q Hdr.PG_ERR_TICK v).rd p x j = t.rd p x j := fun t v =>
    State.rd_wri_off t v (by decide) (by decide) hq
  have w4 : ∀ (t : State) v, (t.wr q Hdr.FIRST_COUNT v).rd p x j = t.rd p x j := fun t v =>
    State.rd_wri_off t v (by decide) (by decide) hq
  unfold State.pgErr
  dsimp only
  split
  · rw [State.rd_event _ _ _ _ h, w4]
    split
    · rw [w3, w2, w1, State.noteRise_rd]
    · rw [w1, State.noteRise_rd]
  · rw [w4]
    split
    · rw [w3, w2, w1, State.noteRise_rd]
    · rw [w1, State.noteRise_rd]

/-- An error event leaves every field but those of `errTouches` as it reads. -/
theorem State.rd_err (s : State) (q : PageId) (c : Nat) {p : PageId} {x : Reg} {j : Nat}
    (h : ¬ errTouches q (rkey p x j)) : (s.err q c).rd p x j = s.rd p x j := by
  have h1 : ¬ eventTouches (rkey p x j) := fun e => h (.inl e)
  have hh : ∀ t : State, (t.pgErr pgHost 4).rd p x j = t.rd p x j := fun t =>
    State.rd_pgErr _ _ _ h1 fun e => h (.inr ⟨e.1, .inr (.inl e.2)⟩)
  have hk : ∀ t : State, (t.pgErr (pgKeep 3) 22).rd p x j = t.rd p x j := fun t =>
    State.rd_pgErr _ _ _ h1 fun e => h (.inr ⟨e.1, .inr (.inr e.2)⟩)
  unfold State.err
  rw [State.dropErrs_of (·.rd p x j) hh hk]
  exact State.rd_pgErr _ _ _ h1 fun e => h (.inr ⟨e.1, .inl e.2⟩)

/-- An error event changes nothing beyond registers and reports. -/
theorem State.err_beyond (s : State) (p : PageId) (i : Nat) : sameBeyondReports s (s.err p i) := by
  apply sameBeyondReports_of <;> simp

theorem sameBeyondReports_trans {s t u : State} (h1 : sameBeyondReports s t) (h2 : sameBeyondReports t u) :
    sameBeyondReports s u := by
  unfold sameBeyondReports at *
  rw [h2, h1]

theorem sameBeyondRegs.reports {s t : State} (h : sameBeyondRegs s t) : sameBeyondReports s t := by
  unfold sameBeyondRegs at h
  unfold sameBeyondReports
  rw [h]

theorem sameBeyondRegs_trans {s t u : State} (h1 : sameBeyondRegs s t) (h2 : sameBeyondRegs t u) : sameBeyondRegs s u := by
  unfold sameBeyondRegs at *
  rw [h2, h1]

theorem State.wri_beyond (s : State) (p : PageId) (r : Reg) (i v : Nat) : sameBeyondRegs s (s.wri p r i v) := by
  apply sameBeyondRegs_of <;> simp

theorem State.wr_beyond (s : State) (p : PageId) (r : Reg) (v : Nat) : sameBeyondRegs s (s.wr p r v) := State.wri_beyond s p r 0 v

end Sys2Proof.Machine
end

