-- ==== Sys2Proof/Laws/Operations.lean ====
section
/-! SUPPORT. What each shared operation does, said once: messages to neighbours, error bits, association lists of parts. -/

namespace Sys2Proof.Machine

open Sys2Proof

/-! ## Neighbour messages -/

theorem State.link_setLink (s : State) (l : Nat) (x : Link) (k : Nat) :
    (s.setLink l x).link k = if k = l then x else s.link k := by
  simp only [State.link, State.setLink_links, AL.getD]
  split
  · rename_i h
    subst h
    rw [AL.get_put_self]
    rfl
  · rename_i h
    rw [AL.get_put_ne _ _ h]

/-- A link with a message added to its queue. -/
theorem State.queueMessages (op : Nat) (p : List Byte) : ∀ (l : List Nat) (s : State), l.Nodup →
    l.foldl (fun t d => t.queueMessage d op p) s = { s with links := (l.foldl (fun t d => t.queueMessage d op p) s).links } ∧
    ∀ k, (l.foldl (fun t d => t.queueMessage d op p) s).link k =
      if 0x10 ≤ k ∧ k - 0x10 ∈ l then { s.link k with msgs := (s.link k).msgs ++ [s.messageFlit (k - 0x10) op p] } else s.link k
  | [], s, _ => ⟨rfl, fun k => by simp⟩
  | d :: l, s, h => by
    obtain ⟨hd, hl⟩ := List.nodup_cons.mp h
    obtain ⟨h1, h2⟩ := State.queueMessages op p l (s.queueMessage d op p) hl
    rw [List.foldl_cons]
    refine ⟨h1.trans rfl, fun k => ?_⟩
    have hm : (s.queueMessage d op p).messageFlit (k - 0x10) op p = s.messageFlit (k - 0x10) op p := rfl
    have hq : (s.queueMessage d op p).link k =
        if k = torusLink d then { s.link (torusLink d) with msgs := (s.link (torusLink d)).msgs ++ [s.messageFlit d op p] }
        else s.link k := State.link_setLink ..
    rw [h2 k, hm, hq]
    by_cases hk : k = torusLink d
    · subst hk
      have e : torusLink d - 0x10 = d := Nat.add_sub_cancel_left ..
      rw [e]
      simp [hd, torusLink]
    · rw [if_neg hk]
      refine if_congr ?_ rfl rfl
      simp only [List.mem_cons]
      unfold torusLink at hk
      constructor
      · exact fun h => ⟨h.1, .inr h.2⟩
      · rintro ⟨h, e | e⟩
        · omega
        · exact ⟨h, e⟩

/-- A flood only adds one message to the queue of each torus link that is UP, the sender's apart. -/
theorem State.flood_eq (s : State) (except : Option Nat) (op : Nat) (p : List Byte) :
    s.flood except op p = { s with links := (s.flood except op p).links } ∧
    ∀ k, (s.flood except op p).link k =
      if 0x10 ≤ k ∧ k < 0x16 ∧ s.linkUp k ∧ some (k - 0x10) ≠ except
      then { s.link k with msgs := (s.link k).msgs ++ [s.messageFlit (k - 0x10) op p] } else s.link k := by
  have h := State.queueMessages op p (filterRange 6 fun d => s.linkUp (torusLink d) && some d ≠ except) s
    (List.Nodup.filter _ List.nodup_range)
  refine ⟨h.1, fun k => ?_⟩
  unfold State.flood
  rw [h.2 k]
  by_cases hk : 0x10 ≤ k
  · have e : torusLink (k - 0x10) = k := by unfold torusLink; omega
    have h6 : k - 0x10 < 6 ↔ k < 0x16 := by omega
    simp only [hk, true_and, filterRange, List.mem_filter, List.mem_range, e, h6, Bool.and_eq_true, decide_eq_true_eq]
  · simp only [hk, false_and]

/-! ## Bits -/

theorem bit_iff (v i : Nat) : bit v i = true ↔ v / 2 ^ i % 2 = 1 := by simp [bit]

theorem bit_setBit_self (v i : Nat) : bit (setBit v i) i = true := by
  unfold setBit
  split
  · assumption
  · rename_i h
    rw [bit_iff] at h ⊢
    rw [Nat.add_div_right _ (Nat.two_pow_pos i)]
    omega

theorem bit_eq_testBit (v i : Nat) : bit v i = v.testBit i := by
  rw [Nat.testBit_eq_decide_div_mod_eq]
  rfl

theorem bit_mod {v i w : Nat} (h : i < w) : bit (v % 2 ^ w) i = bit v i := by
  rw [bit_eq_testBit, bit_eq_testBit, Nat.testBit_mod_two_pow]
  simp [h]

theorem bit_setBit_of {v i j : Nat} (h : bit v j = true) : bit (setBit v i) j = true := by
  unfold setBit
  split
  · exact h
  · rename_i hi
    rw [bit_eq_testBit] at h ⊢
    rw [bit_iff] at hi
    have hb : v % 2 ^ i < 2 ^ i := Nat.mod_lt _ (Nat.two_pow_pos i)
    have e1 : v = 2 ^ i * (v / 2 ^ i) + v % 2 ^ i := (Nat.div_add_mod v _).symm
    have e2 : v + 2 ^ i = 2 ^ i * (v / 2 ^ i + 1) + v % 2 ^ i := by
      rw [Nat.mul_add]
      omega
    rw [e1, Nat.testBit_two_pow_mul_add _ hb] at h
    rw [e2, Nat.testBit_two_pow_mul_add _ hb]
    split at h
    · rename_i hj
      rw [if_pos hj, h]
    · rename_i hj
      rw [if_neg hj]
      generalize v / 2 ^ i = a at h hi ⊢
      cases e : j - i with
      | zero =>
        rw [Nat.testBit_zero]
        have : (a + 1) % 2 = 1 := by omega
        simp [this]
      | succ n =>
        rw [e, Nat.testBit_succ] at h
        rw [Nat.testBit_succ, ← h]
        congr 1
        omega

/-! ## Error events -/

theorem State.pgErr_bits (s : State) (p : PageId) (i j : Nat) (hj : j < 32) (h : j = i ∨ bit (s.rd p Hdr.PG_ERR 0) j = true) :
    bit ((s.pgErr p i).rd p Hdr.PG_ERR 0) j = true := by
  have hw : Hdr.PG_ERR.w = 32 := rfl
  have hk : ∀ t : State, ∀ q : PageId, ∀ r : Reg, ∀ v, r.off ≠ Hdr.PG_ERR.off → r.off < 0x100 → r.off ≠ 8 →
      (t.wr q r v).rd p Hdr.PG_ERR 0 = t.rd p Hdr.PG_ERR 0 := by
    intro t q r v h1 h2 h3
    refine State.rd_wr_ne t v ?_ ?_ (not_steers_hdr q p r h2 (.inl h3))
    · intro e
      simp only [rkey, RegKey.mk.injEq, Nat.mul_zero, Nat.add_zero] at e
      exact h1 e.2.2.1.symm
    · simp [rkey, Hdr.PG_ERR, Hdr.HELD_EVT]
  have hs : ((s.noteRise (rkey p Hdr.PG_ERR 0) (2 ^ i)).wr p Hdr.PG_ERR (setBit (s.rd p Hdr.PG_ERR 0) i)).rd p Hdr.PG_ERR 0
      = setBit (s.rd p Hdr.PG_ERR 0) i % 2 ^ 32 :=
    State.rd_wr_self _ p Hdr.PG_ERR _ (by simp [rkey, Hdr.PG_ERR, Hdr.HELD_EVT])
      (not_steers_hdr p p Hdr.PG_ERR (by decide) (.inl (by decide)))
  have hb : bit (setBit (s.rd p Hdr.PG_ERR 0) i % 2 ^ 32) j = true := by
    rw [bit_mod hj]
    rcases h with h | h
    · rw [h]
      exact bit_setBit_self _ _
    · exact bit_setBit_of h
  have he : ¬ eventTouches (rkey p Hdr.PG_ERR 0) := by
    simp [eventTouches, rkey, Hdr.PG_ERR, Hdr.HELD_EVT, Mac.EVT_LOST, Hst.EG_DROP]
  unfold State.pgErr
  dsimp only
  split
  · rw [State.rd_event _ _ _ _ he, hk _ _ _ _ (by decide) (by decide) (by decide)]
    split
    · rw [hk _ _ _ _ (by decide) (by decide) (by decide), hk _ _ _ _ (by decide) (by decide) (by decide), hs]
      exact hb
    · rw [hs]
      exact hb
  · rw [hk _ _ _ _ (by decide) (by decide) (by decide)]
    split
    · rw [hk _ _ _ _ (by decide) (by decide) (by decide), hk _ _ _ _ (by decide) (by decide) (by decide), hs]
      exact hb
    · rw [hs]
      exact hb

/-- The error bits of what an event found full clear none. -/
theorem State.dropErrs_bits (s z : State) (p : PageId) (j : Nat) (hj : j < 32) (h : bit (s.rd p Hdr.PG_ERR 0) j = true) :
    bit ((s.dropErrs z).rd p Hdr.PG_ERR 0) j = true := by
  have he : ¬ eventTouches (rkey p Hdr.PG_ERR 0) := by
    simp [eventTouches, rkey, Hdr.PG_ERR, Hdr.HELD_EVT, Mac.EVT_LOST, Hst.EG_DROP]
  have hk : ∀ (t : State) (q : PageId) (i : Nat), bit (t.rd p Hdr.PG_ERR 0) j = true →
      bit ((t.pgErr q i).rd p Hdr.PG_ERR 0) j = true := by
    intro t q i ht
    by_cases hp : p = q
    · subst hp
      exact State.pgErr_bits _ _ _ _ hj (.inr ht)
    · rw [State.rd_pgErr _ _ _ he fun e => hp ?_]
      · exact ht
      · cases p
        simp only [rkey] at e
        obtain ⟨-, e1, e2⟩ := e
        subst e1 e2
        rfl
  have hi : ∀ (b : Prop) [Decidable b] (u v : State), bit (u.rd p Hdr.PG_ERR 0) j = true →
      bit (v.rd p Hdr.PG_ERR 0) j = true → bit (State.rd (if b then u else v) p Hdr.PG_ERR 0) j = true := by
    intro b _ u v hu hv
    split <;> assumption
  unfold State.dropErrs
  have h2 := hi (s.events.dropped > z.events.dropped) (s.pgErr pgHost 4) s (hk _ _ _ h) h
  dsimp only
  generalize (if s.events.dropped > z.events.dropped then s.pgErr pgHost 4 else s) = s2 at h2 ⊢
  have h3 := hi (s2.egDrops = z.egDrops) s2 (s2.pgErr (pgKeep 3) 22) h2 (hk _ _ _ h2)
  generalize (if s2.egDrops = z.egDrops then s2 else s2.pgErr (pgKeep 3) 22) = s3 at h3 ⊢
  exact hi _ _ _ h3 (hk _ _ _ h3)

/-- An error event sets its bit of PG_ERR. -/
theorem State.err_bit (s : State) (p : PageId) (i : Nat) (hi : i < 32) : bit ((s.err p i).rd p Hdr.PG_ERR 0) i = true :=
  State.dropErrs_bits _ s p i hi (State.pgErr_bits s p i i hi (.inl rfl))

end Sys2Proof.Machine
end

