-- ==== Sys2Proof/Laws/PartsBase.lean ====
section
/-! SUPPORT. What parts of the state an operation may touch: all others are those of the state it started from. -/

namespace Sys2Proof.Machine

open Sys2Proof

/-- Every part of `s` is that of `z`, or one that `M` lets change. -/
structure Parts (M : Part → Prop) (z s : State) : Prop where
  all : ∀ p : Part, M p ∨ p.same z s

theorem parts_refl {M : Part → Prop} (s : State) : Parts M s s := ⟨fun p => .inr (by cases p <;> simp [Part.same])⟩

theorem parts_mk {M : Part → Prop} {z u : State} {x_out x_free x_regs x_staged x_hidden x_trip x_rose x_mem x_events x_host
    x_belfry x_links x_d2d x_reservations x_routes x_opn x_arrays x_fst x_watch x_bankA x_bankB x_sched x_runs x_frozenNow
    x_atoms x_waiting x_movers x_roundEnd x_tiles x_ueStep x_keys x_meas x_scrub x_spots x_margin x_power x_fuses x_vane
    x_trust x_sessions x_opening x_answers x_streams x_windows}
    (h : Parts M z u)
    (h_out : M .out ∨ x_out = u.out)
    (h_free : M .free ∨ x_free = u.free)
    (h_regs : M .regs ∨ (x_regs = u.regs ∧ x_staged = u.staged ∧ x_hidden = u.hidden ∧ x_trip = u.trip ∧
      x_rose = u.rose))
    (h_mem : M .mem ∨ x_mem = u.mem)
    (h_events : M .events ∨ x_events = u.events)
    (h_host : M .host ∨ x_host = u.host)
    (h_belfry : M .belfry ∨ x_belfry = u.belfry)
    (h_links : M .links ∨ x_links = u.links)
    (h_d2d : M .d2d ∨ x_d2d = u.d2d)
    (h_reservations : M .reservations ∨ x_reservations = u.reservations)
    (h_routes : M .routes ∨ x_routes = u.routes)
    (h_opn : M .opn ∨ x_opn = u.opn)
    (h_arrays : M .arrays ∨ x_arrays = u.arrays)
    (h_fst : M .fst ∨ x_fst = u.fst)
    (h_watch : M .watch ∨ x_watch = u.watch)
    (h_bankA : M .bankA ∨ x_bankA = u.bankA)
    (h_bankB : M .bankB ∨ x_bankB = u.bankB)
    (h_sched : M .sched ∨ x_sched = u.sched)
    (h_runs : M .runs ∨ x_runs = u.runs)
    (h_frozenNow : M .frozenNow ∨ x_frozenNow = u.frozenNow)
    (h_atoms : M .atoms ∨ x_atoms = u.atoms)
    (h_waiting : M .waiting ∨ x_waiting = u.waiting)
    (h_movers : M .movers ∨ x_movers = u.movers)
    (h_roundEnd : M .roundEnd ∨ x_roundEnd = u.roundEnd)
    (h_tiles : M .tiles ∨ x_tiles = u.tiles)
    (h_ueStep : M .ueStep ∨ x_ueStep = u.ueStep)
    (h_keys : M .keys ∨ x_keys = u.keys)
    (h_meas : M .meas ∨ x_meas = u.meas)
    (h_scrub : M .scrub ∨ x_scrub = u.scrub)
    (h_spots : M .spots ∨ x_spots = u.spots)
    (h_margin : M .margin ∨ x_margin = u.margin)
    (h_power : M .power ∨ x_power = u.power)
    (h_fuses : M .fuses ∨ x_fuses = u.fuses)
    (h_vane : M .vane ∨ x_vane = u.vane)
    (h_trust : M .trust ∨ x_trust = u.trust)
    (h_sessions : M .sessions ∨ x_sessions = u.sessions)
    (h_opening : M .opening ∨ x_opening = u.opening)
    (h_answers : M .answers ∨ x_answers = u.answers)
    (h_streams : M .streams ∨ x_streams = u.streams)
    (h_windows : M .windows ∨ x_windows = u.windows) :
    Parts M z (State.mk u.pending x_out x_free u.clock x_regs x_staged x_hidden x_trip x_rose x_mem x_events x_host x_belfry
        x_links x_d2d x_reservations x_routes x_opn x_arrays x_fst x_watch x_bankA x_bankB x_sched x_runs x_frozenNow
        x_atoms x_waiting x_movers x_roundEnd x_tiles x_ueStep x_keys x_meas x_scrub x_spots x_margin x_power x_fuses
        x_vane x_trust x_sessions x_opening x_answers x_streams x_windows) := by
  refine ⟨fun p => ?_⟩
  cases p with
  | queue => exact h.all .queue
  | out => exact h_out.elim .inl fun e => (h.all .out).imp_right fun k => e.trans k
  | free => exact h_free.elim .inl fun e => (h.all .free).imp_right fun k => e.trans k
  | clock => exact h.all .clock
  | regs => exact h_regs.elim .inl fun e => (h.all .regs).imp_right fun k => ⟨e.1.trans k.1, e.2.1.trans k.2.1,
      e.2.2.1.trans k.2.2.1, e.2.2.2.1.trans k.2.2.2.1, e.2.2.2.2.trans k.2.2.2.2⟩
  | mem => exact h_mem.elim .inl fun e => (h.all .mem).imp_right fun k => e.trans k
  | events => exact h_events.elim .inl fun e => (h.all .events).imp_right fun k => e.trans k
  | host => exact h_host.elim .inl fun e => (h.all .host).imp_right fun k => e.trans k
  | belfry => exact h_belfry.elim .inl fun e => (h.all .belfry).imp_right fun k => e.trans k
  | links => exact h_links.elim .inl fun e => (h.all .links).imp_right fun k => e.trans k
  | d2d => exact h_d2d.elim .inl fun e => (h.all .d2d).imp_right fun k => e.trans k
  | reservations => exact h_reservations.elim .inl fun e => (h.all .reservations).imp_right fun k => e.trans k
  | routes => exact h_routes.elim .inl fun e => (h.all .routes).imp_right fun k => e.trans k
  | opn => exact h_opn.elim .inl fun e => (h.all .opn).imp_right fun k => e.trans k
  | arrays => exact h_arrays.elim .inl fun e => (h.all .arrays).imp_right fun k => e.trans k
  | fst => exact h_fst.elim .inl fun e => (h.all .fst).imp_right fun k => e.trans k
  | watch => exact h_watch.elim .inl fun e => (h.all .watch).imp_right fun k => e.trans k
  | bankA => exact h_bankA.elim .inl fun e => (h.all .bankA).imp_right fun k => e.trans k
  | bankB => exact h_bankB.elim .inl fun e => (h.all .bankB).imp_right fun k => e.trans k
  | sched => exact h_sched.elim .inl fun e => (h.all .sched).imp_right fun k => e.trans k
  | runs => exact h_runs.elim .inl fun e => (h.all .runs).imp_right fun k => e.trans k
  | frozenNow => exact h_frozenNow.elim .inl fun e => (h.all .frozenNow).imp_right fun k => e.trans k
  | atoms => exact h_atoms.elim .inl fun e => (h.all .atoms).imp_right fun k => e.trans k
  | waiting => exact h_waiting.elim .inl fun e => (h.all .waiting).imp_right fun k => e.trans k
  | movers => exact h_movers.elim .inl fun e => (h.all .movers).imp_right fun k => e.trans k
  | roundEnd => exact h_roundEnd.elim .inl fun e => (h.all .roundEnd).imp_right fun k => e.trans k
  | tiles => exact h_tiles.elim .inl fun e => (h.all .tiles).imp_right fun k => e.trans k
  | ueStep => exact h_ueStep.elim .inl fun e => (h.all .ueStep).imp_right fun k => e.trans k
  | keys => exact h_keys.elim .inl fun e => (h.all .keys).imp_right fun k => e.trans k
  | meas => exact h_meas.elim .inl fun e => (h.all .meas).imp_right fun k => e.trans k
  | scrub => exact h_scrub.elim .inl fun e => (h.all .scrub).imp_right fun k => e.trans k
  | spots => exact h_spots.elim .inl fun e => (h.all .spots).imp_right fun k => e.trans k
  | margin => exact h_margin.elim .inl fun e => (h.all .margin).imp_right fun k => e.trans k
  | power => exact h_power.elim .inl fun e => (h.all .power).imp_right fun k => e.trans k
  | fuses => exact h_fuses.elim .inl fun e => (h.all .fuses).imp_right fun k => e.trans k
  | vane => exact h_vane.elim .inl fun e => (h.all .vane).imp_right fun k => e.trans k
  | trust => exact h_trust.elim .inl fun e => (h.all .trust).imp_right fun k => e.trans k
  | sessions => exact h_sessions.elim .inl fun e => (h.all .sessions).imp_right fun k => e.trans k
  | opening => exact h_opening.elim .inl fun e => (h.all .opening).imp_right fun k => e.trans k
  | answers => exact h_answers.elim .inl fun e => (h.all .answers).imp_right fun k => e.trans k
  | streams => exact h_streams.elim .inl fun e => (h.all .streams).imp_right fun k => e.trans k
  | windows => exact h_windows.elim .inl fun e => (h.all .windows).imp_right fun k => e.trans k

/-- A left fold touches what its steps touch. -/
theorem parts_foldl {α : Type} {M : Part → Prop} {z : State} {f : State → α → State} (hf : ∀ t x, Parts M z t → Parts M z
    (f t x)) :
    ∀ {l : List α} {s : State}, Parts M z s → Parts M z (l.foldl f s)
  | [], _, h => h
  | x :: _, s, h => parts_foldl (s := f s x) hf (hf s x h)

/-- The same for a fold that carries a state in the first part of its accumulator. -/
theorem parts_foldl_1 {α β : Type} {M : Part → Prop} {z : State} {f : State × β → α → State × β}
    (hf : ∀ a x, Parts M z a.1 → Parts M z (f a x).1) :
    ∀ {l : List α} {a : State × β}, Parts M z a.1 → Parts M z (l.foldl f a).1
  | [], _, h => h
  | x :: _, a, h => parts_foldl_1 (a := f a x) hf (hf a x h)

/-- In the second part. -/
theorem parts_foldl_2 {α β : Type} {M : Part → Prop} {z : State} {f : β × State → α → β × State}
    (hf : ∀ a x, Parts M z a.2 → Parts M z (f a x).2) :
    ∀ {l : List α} {a : β × State}, Parts M z a.2 → Parts M z (l.foldl f a).2
  | [], _, h => h
  | x :: _, a, h => parts_foldl_2 (a := f a x) hf (hf a x h)

/-- In the third part. -/
theorem parts_foldl_3 {α β γ : Type} {M : Part → Prop} {z : State} {f : β × γ × State → α → β × γ × State}
    (hf : ∀ a x, Parts M z a.2.2 → Parts M z (f a x).2.2) :
    ∀ {l : List α} {a : β × γ × State}, Parts M z a.2.2 → Parts M z (l.foldl f a).2.2
  | [], _, h => h
  | x :: _, a, h => parts_foldl_3 (a := f a x) hf (hf a x h)

/-- In the first part of the first part. -/
theorem parts_foldl_11 {α β γ : Type} {M : Part → Prop} {z : State} {f : (State × β) × γ → α → (State × β) × γ}
    (hf : ∀ a x, Parts M z a.1.1 → Parts M z (f a x).1.1) :
    ∀ {l : List α} {a : (State × β) × γ}, Parts M z a.1.1 → Parts M z (l.foldl f a).1.1
  | [], _, h => h
  | x :: _, a, h => parts_foldl_11 (a := f a x) hf (hf a x h)

theorem State.put_parts {M : Part → Prop} {z s : State} (h : Parts M z s) (p : PageId) (r : Reg) (i v : Nat) (m_regs : M
    .regs) :
    Parts M z (s.put p r i v) := by
  unfold State.put
  apply parts_mk h <;> first | exact .inr rfl | exact .inl m_regs

theorem State.setBelfry_parts {M : Part → Prop} {z s : State} (h : Parts M z s) (b : Belfry) (m_belfry : M .belfry) :
    Parts M z (s.setBelfry b) := by
  unfold State.setBelfry
  apply parts_mk h <;> first | exact .inr rfl | exact .inl m_belfry | exact .inr ⟨rfl, rfl, rfl, rfl, rfl⟩

theorem State.setWatch_parts {M : Part → Prop} {z s : State} (h : Parts M z s) (w : Watch) (m_watch : M .watch) :
    Parts M z (s.setWatch w) := by
  unfold State.setWatch
  apply parts_mk h <;> first | exact .inr rfl | exact .inl m_watch | exact .inr ⟨rfl, rfl, rfl, rfl, rfl⟩

theorem State.setVane_parts {M : Part → Prop} {z s : State} (h : Parts M z s) (v : Vane) (m_vane : M .vane) :
    Parts M z (s.setVane v) := by
  unfold State.setVane
  apply parts_mk h <;> first | exact .inr rfl | exact .inl m_vane | exact .inr ⟨rfl, rfl, rfl, rfl, rfl⟩

end Sys2Proof.Machine
end

