-- ==== Sys2Proof/Laws/PartsRegs.lean ====
section
/-! SUPPORT. What the operations of Regs.lean touch (Parts). -/

namespace Sys2Proof.Machine

open Sys2Proof

theorem State.noteRise_parts {M : Part → Prop} {z : State} {s : State} (h : Parts M z s) (k : RegKey) (b : Nat) (m_regs
    : M .regs) :
    Parts M z (State.noteRise s k b) := by
  unfold State.noteRise
  repeat' first
    | with_reducible exact Or.inr rfl
    | with_reducible exact Or.inr ⟨rfl, rfl, rfl, rfl, rfl⟩
    | with_reducible exact Or.inl (by assumption)
    | with_reducible assumption
    | split
    | dsimp only
    | with_reducible apply parts_mk

theorem State.again_parts {M : Part → Prop} {z : State} {s : State} (h : Parts M z s) (p : PageId) (r : Reg) (m_regs : M
    .regs) :
    Parts M z (State.again s p r) := by
  unfold State.again
  repeat' first
    | with_reducible assumption
    | with_reducible apply State.noteRise_parts
    | split
    | dsimp only

theorem State.updi_parts {M : Part → Prop} {z : State} {s : State} (h : Parts M z s) (p : PageId) (r : Reg) (i v : Nat)
    (m_regs : M .regs) :
    Parts M z (State.updi s p r i v) := by
  unfold State.updi
  repeat' first
    | with_reducible exact Or.inr rfl
    | with_reducible exact Or.inr ⟨rfl, rfl, rfl, rfl, rfl⟩
    | with_reducible exact Or.inl (by assumption)
    | with_reducible assumption
    | with_reducible apply State.put_parts
    | split
    | dsimp only
    | with_reducible apply parts_mk

theorem State.wri_parts {M : Part → Prop} {z : State} {s : State} (h : Parts M z s) (p : PageId) (r : Reg) (i v : Nat)
    (m_regs : M .regs) :
    Parts M z (State.wri s p r i v) :=
  State.updi_parts (State.noteRise_parts h _ _ m_regs) p r i v m_regs

theorem State.wr_parts {M : Part → Prop} {z : State} {s : State} (h : Parts M z s) (p : PageId) (r : Reg) (v : Nat)
    (m_regs : M .regs) :
    Parts M z (State.wr s p r v) := by
  unfold State.wr
  repeat' first
    | with_reducible assumption
    | with_reducible apply State.wri_parts

theorem State.wrb_parts {M : Part → Prop} {z : State} {s : State} (h : Parts M z s) (p : PageId) (r : Reg) (b : Bool)
    (m_regs : M .regs) :
    Parts M z (State.wrb s p r b) := by
  unfold State.wrb
  repeat' first
    | with_reducible assumption
    | with_reducible apply State.wri_parts

theorem State.bumpi_parts {M : Part → Prop} {z : State} {s : State} (h : Parts M z s) (p : PageId) (r : Reg) (i n : Nat)
    (m_regs : M .regs) :
    Parts M z (State.bumpi s p r i n) := by
  unfold State.bumpi
  repeat' first
    | with_reducible assumption
    | with_reducible apply State.wri_parts

theorem State.bump_parts {M : Part → Prop} {z : State} {s : State} (h : Parts M z s) (p : PageId) (r : Reg) (n : Nat)
    (m_regs : M .regs) :
    Parts M z (State.bump s p r n) := by
  unfold State.bump
  repeat' first
    | with_reducible assumption
    | with_reducible apply State.bumpi_parts

theorem State.wr2_parts {M : Part → Prop} {z : State} {s : State} (h : Parts M z s) (p : PageId) (lo hi : Reg) (v : Nat)
    (i : Nat) (m_regs : M .regs) :
    Parts M z (State.wr2 s p lo hi v i) := by
  unfold State.wr2
  repeat' first
    | with_reducible assumption
    | with_reducible apply State.wri_parts

theorem State.wrs_parts {M : Part → Prop} {z : State} (p : PageId) (m_regs : M .regs) :
    ∀ {s : State} (_ : Parts M z s) (l : List (Reg × Nat)), Parts M z (s.wrs p l)
  | _, h, [] => h
  | _, h, (r, v) :: l => State.wrs_parts p (State.wr_parts h p r v (m_regs := m_regs)) l (m_regs := m_regs)

theorem State.clearFields_parts {M : Part → Prop} {z : State} (p : PageId) (m_regs : M .regs) :
    ∀ {s : State} (_ : Parts M z s) (l : List Reg), Parts M z (s.clearFields p l)
  | _, h, [] => h
  | _, h, r :: l => State.clearFields_parts p (parts_foldl (fun _ _ ht => State.wri_parts ht p r _ 0 (m_regs := m_regs))
      h) l (m_regs := m_regs)

theorem State.w1c_parts {M : Part → Prop} {z : State} {s : State} (h : Parts M z s) (p : PageId) (r : Reg) (i v : Nat)
    (m_regs : M .regs) :
    Parts M z (State.w1c s p r i v) := by
  unfold State.w1c
  repeat' first
    | with_reducible exact Or.inr rfl
    | with_reducible exact Or.inr ⟨rfl, rfl, rfl, rfl, rfl⟩
    | with_reducible exact Or.inl (by assumption)
    | with_reducible assumption
    | with_reducible apply State.put_parts
    | split
    | dsimp only
    | with_reducible apply parts_mk

theorem State.swField_parts {M : Part → Prop} {z : State} {s : State} (h : Parts M z s) (p : PageId) (r : Reg) (i v : Nat)
    (m_regs : M .regs) :
    Parts M z (State.swField s p r i v) := by
  unfold State.swField
  repeat' first
    | with_reducible exact Or.inr rfl
    | with_reducible exact Or.inr ⟨rfl, rfl, rfl, rfl, rfl⟩
    | with_reducible exact Or.inl (by assumption)
    | with_reducible assumption
    | with_reducible apply State.w1c_parts
    | with_reducible apply State.put_parts
    | split
    | dsimp only
    | with_reducible apply parts_mk

theorem State.unfreeze_parts {M : Part → Prop} {z : State} {s : State} (h : Parts M z s) (p : PageId) (m_regs : M .regs) :
    Parts M z (State.unfreeze s p) := by
  unfold State.unfreeze
  repeat' first
    | with_reducible exact Or.inr rfl
    | with_reducible exact Or.inr ⟨rfl, rfl, rfl, rfl, rfl⟩
    | with_reducible exact Or.inl (by assumption)
    | with_reducible assumption
    | with_reducible apply State.put_parts
    | with_reducible refine parts_foldl (fun t x ht => ?_) ?_
    | with_reducible refine parts_foldl_1 (fun t x ht => ?_) ?_
    | with_reducible refine parts_foldl_2 (fun t x ht => ?_) ?_
    | with_reducible refine parts_foldl_3 (fun t x ht => ?_) ?_
    | dsimp only
    | with_reducible apply parts_mk

end Sys2Proof.Machine
end

