-- ==== Sys2Proof/Laws/PartsFrames.lean ====
section
/-! SUPPORT. What the operations of Frames.lean touch (Parts). -/

namespace Sys2Proof.Machine

open Sys2Proof

theorem State.strictPut_parts {M : Part → Prop} {z : State} {s : State} (h : Parts M z s) (q : Nat) (bytes : List Byte)
    (m_regs : M .regs) (m_host : M .host) :
    Parts M z (State.strictPut s q bytes) := by
  unfold State.strictPut
  repeat' first
    | with_reducible exact Or.inr rfl
    | with_reducible exact Or.inr ⟨rfl, rfl, rfl, rfl, rfl⟩
    | with_reducible exact Or.inl (by assumption)
    | with_reducible assumption
    | with_reducible apply State.bump_parts
    | split
    | dsimp only
    | with_reducible apply parts_mk

end Sys2Proof.Machine
end

