-- ==== Sys2Proof/Laws/PartsOps.lean ====
section
/-! SUPPORT. What the operations of Ops.lean touch (Parts). -/

namespace Sys2Proof.Machine

open Sys2Proof

theorem State.emit_parts {M : Part → Prop} {z : State} {s : State} (h : Parts M z s) (o : Output) (m_out : M .out) :
    Parts M z (State.emit s o) := by
  unfold State.emit
  repeat' first
    | with_reducible exact Or.inr rfl
    | with_reducible exact Or.inr ⟨rfl, rfl, rfl, rfl, rfl⟩
    | with_reducible exact Or.inl (by assumption)
    | with_reducible assumption
    | dsimp only
    | with_reducible apply parts_mk

theorem State.draw_parts {M : Part → Prop} {z : State} {s : State} (h : Parts M z s) (w : Nat) (m_free : M .free) :
    Parts M z (State.draw s w).2 := by
  unfold State.draw
  repeat' first
    | with_reducible exact Or.inr rfl
    | with_reducible exact Or.inr ⟨rfl, rfl, rfl, rfl, rfl⟩
    | with_reducible exact Or.inl (by assumption)
    | with_reducible assumption
    | split
    | dsimp only
    | with_reducible apply parts_mk

theorem State.drawBytes_parts {M : Part → Prop} {z : State} {s : State} (h : Parts M z s) (n : Nat) (m_free : M .free) :
    Parts M z (State.drawBytes s n).2 := by
  unfold State.drawBytes
  repeat' first
    | with_reducible exact Or.inr rfl
    | with_reducible exact Or.inr ⟨rfl, rfl, rfl, rfl, rfl⟩
    | with_reducible exact Or.inl (by assumption)
    | with_reducible assumption
    | split
    | dsimp only
    | with_reducible apply parts_mk

theorem State.overrun_parts {M : Part → Prop} {z : State} {s : State} (h : Parts M z s) (ty inst cause detail : Nat)
    (m_belfry : M .belfry) :
    Parts M z (State.overrun s ty inst cause detail) := by
  unfold State.overrun
  repeat' first
    | with_reducible assumption
    | with_reducible apply State.setBelfry_parts

theorem State.sendEvent_parts {M : Part → Prop} {z : State} {s : State} (h : Parts M z s) (e : Event) (m_free : M .free)
    (m_regs : M .regs) (m_host : M .host) :
    Parts M z (State.sendEvent s e) := by
  unfold State.sendEvent
  repeat' first
    | with_reducible exact Or.inr rfl
    | with_reducible exact Or.inr ⟨rfl, rfl, rfl, rfl, rfl⟩
    | with_reducible exact Or.inl (by assumption)
    | with_reducible assumption
    | with_reducible apply State.strictPut_parts
    | dsimp only
    | with_reducible apply parts_mk

theorem State.sendAllEvents_parts {M : Part → Prop} {z : State} {s : State} (h : Parts M z s) (m_free : M .free)
    (m_regs : M .regs) (m_events : M .events) (m_host : M .host) : Parts M z (State.sendAllEvents s) := by
  unfold State.sendAllEvents
  repeat' first
    | with_reducible exact Or.inr rfl
    | with_reducible exact Or.inr ⟨rfl, rfl, rfl, rfl, rfl⟩
    | with_reducible exact Or.inl (by assumption)
    | with_reducible assumption
    | with_reducible apply State.sendEvent_parts
    | with_reducible refine parts_foldl (fun t x ht => ?_) ?_
    | intro _
    | split
    | dsimp only
    | with_reducible apply parts_mk

theorem State.storeEvent_parts {M : Part → Prop} {z : State} {s : State} (h : Parts M z s) (code unit : Nat)
    (detail : List Byte) (m_free : M .free) (m_regs : M .regs) (m_events : M .events) (m_host : M .host) : Parts M z
        (State.storeEvent s code unit detail) := by
  unfold State.storeEvent
  repeat' first
    | with_reducible exact Or.inr rfl
    | with_reducible exact Or.inr ⟨rfl, rfl, rfl, rfl, rfl⟩
    | with_reducible exact Or.inl (by assumption)
    | with_reducible assumption
    | with_reducible apply State.sendEvent_parts
    | intro _
    | split
    | dsimp only
    | with_reducible apply parts_mk

theorem State.loseEvent_parts {M : Part → Prop} {z : State} {s : State} (h : Parts M z s) (m_regs : M .regs)
    (m_events : M .events) : Parts M z (State.loseEvent s) := by
  unfold State.loseEvent
  repeat' first
    | with_reducible exact Or.inr rfl
    | with_reducible exact Or.inr ⟨rfl, rfl, rfl, rfl, rfl⟩
    | with_reducible exact Or.inl (by assumption)
    | with_reducible assumption
    | with_reducible apply State.bump_parts
    | intro _
    | split
    | dsimp only
    | with_reducible apply parts_mk

theorem State.event_parts {M : Part → Prop} {z : State} {s : State} (h : Parts M z s) (p : PageId) (code : Nat) (detail :
    List Byte) (m_free : M .free) (m_regs : M .regs) (m_events : M .events) (m_host : M .host) :
    Parts M z (State.event s p code detail) := by
  unfold State.event
  repeat' first
    | with_reducible exact Or.inr rfl
    | with_reducible exact Or.inr ⟨rfl, rfl, rfl, rfl, rfl⟩
    | with_reducible exact Or.inl (by assumption)
    | with_reducible assumption
    | with_reducible apply State.loseEvent_parts
    | with_reducible apply State.storeEvent_parts
    | intro _
    | split
    | dsimp only
    | with_reducible apply parts_mk

theorem State.pgErr_parts {M : Part → Prop} {z : State} {s : State} (h : Parts M z s) (p : PageId) (i : Nat) (m_free : M
    .free) (m_regs : M .regs) (m_events : M .events) (m_host : M .host) :
    Parts M z (State.pgErr s p i) := by
  unfold State.pgErr
  repeat' first
    | with_reducible assumption
    | with_reducible apply State.event_parts
    | with_reducible apply State.wr_parts
    | with_reducible apply State.noteRise_parts
    | split
    | dsimp only

theorem State.dropErrs_parts {M : Part → Prop} {z : State} {s1 : State} (h : Parts M z s1) (s : State) (m_free : M
    .free) (m_regs : M .regs) (m_events : M .events) (m_host : M .host) :
    Parts M z (State.dropErrs s1 s) := by
  unfold State.dropErrs
  repeat' first
    | with_reducible assumption
    | with_reducible apply State.pgErr_parts
    | split
    | dsimp only

theorem State.eventE_parts {M : Part → Prop} {z : State} {s : State} (h : Parts M z s) (p : PageId) (code : Nat) (detail
    : List Byte) (m_free : M .free) (m_regs : M .regs) (m_events : M .events) (m_host : M .host) :
    Parts M z (State.eventE s p code detail) := by
  unfold State.eventE
  repeat' first
    | with_reducible assumption
    | with_reducible apply State.dropErrs_parts
    | with_reducible apply State.event_parts
    | split
    | dsimp only

theorem State.err_parts {M : Part → Prop} {z : State} {s : State} (h : Parts M z s) (p : PageId) (i : Nat) (m_free : M
    .free) (m_regs : M .regs) (m_events : M .events) (m_host : M .host) :
    Parts M z (State.err s p i) := by
  unfold State.err
  repeat' first
    | with_reducible assumption
    | with_reducible apply State.dropErrs_parts
    | with_reducible apply State.pgErr_parts
    | split
    | dsimp only

theorem State.resendEvents_parts {M : Part → Prop} {z : State} {s : State} (h : Parts M z s) (m_free : M .free) (m_regs
    : M .regs) (m_events : M .events) (m_host : M .host) :
    Parts M z (State.resendEvents s) := by
  unfold State.resendEvents
  repeat' first
    | with_reducible assumption
    | with_reducible apply State.dropErrs_parts
    | with_reducible apply State.sendAllEvents_parts
    | split
    | dsimp only

theorem State.strictSend_parts {M : Part → Prop} {z : State} {s : State} (h : Parts M z s) (q : Nat) (bytes : List Byte)
    (m_free : M .free) (m_regs : M .regs) (m_events : M .events) (m_host : M .host) :
    Parts M z (State.strictSend s q bytes) := by
  unfold State.strictSend
  repeat' first
    | with_reducible assumption
    | with_reducible apply State.err_parts
    | with_reducible apply State.strictPut_parts
    | split
    | dsimp only

theorem State.raise_parts {M : Part → Prop} {z : State} {s : State} (h : Parts M z s) (cls entry : Nat)
    (m_watch : M .watch) :
    Parts M z (State.raise s cls entry) := by
  unfold State.raise
  repeat' first
    | with_reducible assumption
    | with_reducible apply State.setWatch_parts

theorem State.tickFault_parts {M : Part → Prop} {z : State} {s : State} (h : Parts M z s) (m_watch : M .watch) :
    Parts M z (State.tickFault s) := by
  unfold State.tickFault
  repeat' first
    | with_reducible assumption
    | with_reducible apply State.raise_parts

theorem State.moduleFault_parts {M : Part → Prop} {z : State} {s : State} (h : Parts M z s) (m_watch : M .watch) :
    Parts M z (State.moduleFault s) := by
  unfold State.moduleFault
  repeat' first
    | with_reducible assumption
    | with_reducible apply State.raise_parts

theorem State.poke_parts {M : Part → Prop} {z : State} {s : State} (h : Parts M z s) (space off : Nat) (l : List Byte)
    (m_mem : M .mem) :
    Parts M z (State.poke s space off l) := by
  unfold State.poke
  repeat' first
    | with_reducible exact Or.inr rfl
    | with_reducible exact Or.inr ⟨rfl, rfl, rfl, rfl, rfl⟩
    | with_reducible exact Or.inl (by assumption)
    | with_reducible assumption
    | intro _
    | split
    | dsimp only
    | with_reducible apply parts_mk

end Sys2Proof.Machine
end

