-- ==== Sys2Proof/Laws/PartsArith.lean ====
section
/-! SUPPORT. What the operations of Arith.lean touch (Parts). -/

namespace Sys2Proof.Machine

open Sys2Proof

theorem State.firstNan_parts {M : Part → Prop} {z : State} {s : State} (h : Parts M z s) (u : AUnit) (insn : Nat) (e :
    NanEv) (m_free : M .free) (m_regs : M .regs) (m_events : M .events) (m_host : M .host) (m_watch : M .watch) :
    Parts M z (State.firstNan s u insn e) := by
  unfold State.firstNan
  repeat' first
    | with_reducible assumption
    | with_reducible apply State.tickFault_parts
    | with_reducible apply State.raise_parts
    | with_reducible apply State.err_parts
    | with_reducible apply State.wrs_parts
    | with_reducible apply State.wri_parts
    | with_reducible refine parts_foldl (fun t x ht => ?_) ?_
    | split
    | dsimp only

theorem State.nanCount_parts {M : Part → Prop} {z : State} {s : State} (h : Parts M z s) (u : AUnit) (n : Nat) (m_regs :
    M .regs) :
    Parts M z (State.nanCount s u n) := by
  unfold State.nanCount
  repeat' first
    | with_reducible assumption
    | with_reducible apply State.wr_parts
    | split
    | dsimp only

theorem State.nanEvents_parts {M : Part → Prop} {z : State} {s : State} (h : Parts M z s) (u : AUnit) (insn : Nat) (x0 :
    List NanEv) (m_free : M .free) (m_regs : M .regs) (m_events : M .events) (m_host : M .host) (m_watch : M .watch) :
    Parts M z (State.nanEvents s u insn x0) := by
  unfold State.nanEvents
  repeat' first
    | with_reducible assumption
    | with_reducible apply State.nanCount_parts
    | with_reducible apply State.firstNan_parts
    | with_reducible apply State.again_parts
    | split
    | dsimp only

theorem State.residue_parts {M : Part → Prop} {z : State} {s : State} (h : Parts M z s) (u : AUnit) (l : List (Nat ×
    Nat)) (m_free : M .free) (m_regs : M .regs) (m_events : M .events) (m_host : M .host) (m_arrays : M .arrays)
    (m_watch : M .watch) :
    Parts M z (State.residue s u l) := by
  unfold State.residue
  repeat' first
    | with_reducible exact Or.inr rfl
    | with_reducible exact Or.inr ⟨rfl, rfl, rfl, rfl, rfl⟩
    | with_reducible exact Or.inl (by assumption)
    | with_reducible assumption
    | with_reducible apply State.tickFault_parts
    | with_reducible apply State.err_parts
    | with_reducible apply State.bump_parts
    | split
    | dsimp only
    | with_reducible apply parts_mk

theorem State.arith_parts {M : Part → Prop} {z : State} {s : State} (h : Parts M z s) (u : AUnit) (insn : Nat) (fx : Fx)
    (m_free : M .free) (m_regs : M .regs) (m_events : M .events) (m_host : M .host) (m_arrays : M .arrays) (m_watch : M
    .watch) :
    Parts M z (State.arith s u insn fx) := by
  unfold State.arith
  repeat' first
    | with_reducible assumption
    | with_reducible apply State.residue_parts
    | with_reducible apply State.nanEvents_parts
    | with_reducible apply State.bump_parts
    | split
    | dsimp only

theorem State.fp64Denied_parts {M : Part → Prop} {z : State} {s : State} (h : Parts M z s) (u : AUnit) (m_free : M .free)
    (m_regs : M .regs) (m_events : M .events) (m_host : M .host) (m_belfry : M .belfry) :
    Parts M z (State.fp64Denied s u) := by
  unfold State.fp64Denied
  repeat' first
    | with_reducible assumption
    | with_reducible apply State.err_parts
    | with_reducible apply State.overrun_parts
    | split

theorem State.clipClr_parts {M : Part → Prop} {z : State} {s : State} (h : Parts M z s) (u : AUnit) (m_regs : M .regs) :
    Parts M z (State.clipClr s u) := by
  unfold State.clipClr
  repeat' first
    | with_reducible exact Or.inr rfl
    | with_reducible exact Or.inr ⟨rfl, rfl, rfl, rfl, rfl⟩
    | with_reducible exact Or.inl (by assumption)
    | with_reducible assumption
    | with_reducible apply State.put_parts
    | dsimp only
    | with_reducible apply parts_mk

end Sys2Proof.Machine
end

