-- ==== Sys2Proof/Laws/PartsWire.lean ====
section
/-! SUPPORT. What the operations of Wire.lean touch (Parts). -/

namespace Sys2Proof.Machine

open Sys2Proof

theorem State.setLink_parts {M : Part → Prop} {z : State} {s : State} (h : Parts M z s) (l : Nat) (x : Link) (m_links :
    M .links) :
    Parts M z (State.setLink s l x) := by
  unfold State.setLink
  repeat' first
    | with_reducible exact Or.inr rfl
    | with_reducible exact Or.inr ⟨rfl, rfl, rfl, rfl, rfl⟩
    | with_reducible exact Or.inl (by assumption)
    | with_reducible assumption
    | split
    | dsimp only
    | with_reducible apply parts_mk

theorem State.setCred_parts {M : Part → Prop} {z : State} {s : State} (h : Parts M z s) (l vc n : Nat) (m_regs : M
    .regs) (m_links : M .links) :
    Parts M z (State.setCred s l vc n) := by
  unfold State.setCred
  repeat' first
    | with_reducible assumption
    | with_reducible apply State.setLink_parts
    | with_reducible apply State.wri_parts
    | split
    | dsimp only

theorem State.sendFlit_parts {M : Part → Prop} {z : State} {s : State} (h : Parts M z s) (l : Nat) (f : Flit) (m_out : M
    .out) (m_links : M .links) :
    Parts M z (State.sendFlit s l f) := by
  unfold State.sendFlit
  repeat' first
    | with_reducible assumption
    | with_reducible apply State.setLink_parts
    | with_reducible apply State.emit_parts
    | split
    | dsimp only

theorem State.resendFlit_parts {M : Part → Prop} {z : State} {s : State} (h : Parts M z s) (l : Nat) (b : ReplayBlock)
    (m_out : M .out) :
    Parts M z (State.resendFlit s l b) := by
  unfold State.resendFlit
  repeat' first
    | with_reducible assumption
    | with_reducible apply State.emit_parts
    | split
    | dsimp only

theorem State.sendIdle_parts {M : Part → Prop} {z : State} {s : State} (h : Parts M z s) (l : Nat) (nak : Option Nat)
    (cr : List (Nat × Nat)) (m_out : M .out) :
    Parts M z (State.sendIdle s l nak cr) := by
  unfold State.sendIdle
  repeat' first
    | with_reducible assumption
    | with_reducible apply State.emit_parts
    | split
    | dsimp only

theorem State.sendTraining_parts {M : Part → Prop} {z : State} {s : State} (h : Parts M z s) (l : Nat) (t : Training)
    (m_out : M .out) :
    Parts M z (State.sendTraining s l t) := by
  unfold State.sendTraining
  repeat' first
    | with_reducible assumption
    | with_reducible apply State.emit_parts
    | split
    | dsimp only

end Sys2Proof.Machine
end

