-- ==== Sys2Proof/Laws/PartsReport.lean ====
section
/-! SUPPORT. What the operations of Report.lean touch (Parts). -/

namespace Sys2Proof.Machine

open Sys2Proof

theorem State.queueMessage_parts {M : Part → Prop} {z : State} {s : State} (h : Parts M z s) (d opcode : Nat) (payload :
    List Byte) (m_links : M .links) :
    Parts M z (State.queueMessage s d opcode payload) := by
  unfold State.queueMessage
  repeat' first
    | with_reducible assumption
    | with_reducible apply State.setLink_parts
    | split
    | dsimp only

theorem State.flood_parts {M : Part → Prop} {z : State} {s : State} (h : Parts M z s) (except : Option Nat) (opcode :
    Nat) (payload : List Byte) (m_links : M .links) :
    Parts M z (State.flood s except opcode payload) := by
  unfold State.flood
  repeat' first
    | with_reducible assumption
    | with_reducible apply State.queueMessage_parts
    | with_reducible refine parts_foldl (fun t x ht => ?_) ?_
    | split
    | dsimp only

theorem State.sendMessage_parts {M : Part → Prop} {z : State} {s : State} (h : Parts M z s) (l : Nat) (m_out : M .out)
    (m_regs : M .regs) (m_links : M .links) :
    Parts M z (State.sendMessage s l) := by
  unfold State.sendMessage
  repeat' first
    | with_reducible assumption
    | with_reducible apply State.sendFlit_parts
    | with_reducible apply State.setCred_parts
    | with_reducible apply State.setLink_parts
    | split
    | dsimp only

theorem State.openRound_parts {M : Part → Prop} {z : State} {s : State} (h : Parts M z s) (td : Nat) (other : Option Nat)
    (m_watch : M .watch) :
    Parts M z (State.openRound s td other) := by
  unfold State.openRound
  repeat' first
    | with_reducible assumption
    | with_reducible apply State.setWatch_parts

theorem State.holdReport_parts {M : Part → Prop} {z : State} {s : State} (h : Parts M z s) (r : Report) (src cut :
    Option Nat) (m_links : M .links) (m_watch : M .watch) :
    Parts M z (State.holdReport s r src cut) := by
  unfold State.holdReport
  repeat' first
    | with_reducible assumption
    | with_reducible apply State.openRound_parts
    | with_reducible apply State.flood_parts
    | with_reducible apply State.setWatch_parts
    | split
    | dsimp only

theorem State.reportLinkAt_parts {M : Part → Prop} {z : State} {s : State} (h : Parts M z s) (d td : Nat) (m_links : M
    .links) (m_watch : M .watch) :
    Parts M z (State.reportLinkAt s d td) := by
  unfold State.reportLinkAt
  repeat' first
    | with_reducible assumption
    | with_reducible apply State.holdReport_parts
    | split
    | dsimp only

theorem State.reportLink_parts {M : Part → Prop} {z : State} {s : State} (h : Parts M z s) (d : Nat) (m_links : M
    .links) (m_watch : M .watch) :
    Parts M z (State.reportLink s d) := by
  unfold State.reportLink
  repeat' first
    | with_reducible assumption
    | with_reducible apply State.reportLinkAt_parts
    | split
    | dsimp only

theorem State.reportSelf_parts {M : Part → Prop} {z : State} {s : State} (h : Parts M z s) (cls entry td : Nat) (m_out :
    M .out) (m_links : M .links) (m_watch : M .watch) : Parts M z (State.reportSelf s cls entry td) := by
  unfold State.reportSelf
  repeat' first
    | with_reducible assumption
    | with_reducible apply State.holdReport_parts

end Sys2Proof.Machine
end

