-- ==== Sys2Proof/Laws/PartsArrays.lean ====
section
/-! SUPPORT. What the operations of Arrays.lean touch (Parts). -/

namespace Sys2Proof.Machine

open Sys2Proof

theorem State.setArrays_parts {M : Part → Prop} {z : State} {s : State} (h : Parts M z s) (a : Arrays)
    (m_arrays : M .arrays) :
    Parts M z (State.setArrays s a) := by
  unfold State.setArrays
  repeat' first
    | with_reducible exact Or.inr rfl
    | with_reducible exact Or.inr ⟨rfl, rfl, rfl, rfl, rfl⟩
    | with_reducible exact Or.inl (by assumption)
    | with_reducible assumption
    | dsimp only
    | with_reducible apply parts_mk

theorem State.unhide_parts {M : Part → Prop} {z : State} {s : State} (h : Parts M z s) (sp off n : Nat) (m_arrays : M
    .arrays) :
    Parts M z (State.unhide s sp off n) := by
  unfold State.unhide
  repeat' first
    | with_reducible assumption
    | with_reducible apply State.setArrays_parts
    | split
    | dsimp only

theorem State.poisonLine_parts {M : Part → Prop} {z : State} {s : State} (h : Parts M z s) (sp line : Nat)
    (m_mem : M .mem) (m_arrays : M .arrays) :
    Parts M z (State.poisonLine s sp line) := by
  unfold State.poisonLine
  repeat' first
    | with_reducible assumption
    | with_reducible apply State.setArrays_parts
    | with_reducible apply State.poke_parts

theorem State.cleanLine_parts {M : Part → Prop} {z : State} {s : State} (h : Parts M z s) (sp line : Nat)
    (m_arrays : M .arrays) :
    Parts M z (State.cleanLine s sp line) := by
  unfold State.cleanLine
  repeat' first
    | with_reducible assumption
    | with_reducible apply State.setArrays_parts

theorem State.ueRecord_parts {M : Part → Prop} {z : State} {s : State} (h : Parts M z s) (kind arr addr : Nat) (m_regs :
    M .regs) :
    Parts M z (State.ueRecord s kind arr addr) := by
  unfold State.ueRecord
  repeat' first
    | with_reducible assumption
    | with_reducible apply State.wrs_parts
    | with_reducible apply State.again_parts
    | split
    | dsimp only

theorem State.ueLine_parts {M : Part → Prop} {z : State} {s : State} (h : Parts M z s) (sp line : Nat) (d : Decoded)
    (m_free : M .free) (m_regs : M .regs) (m_mem : M .mem) (m_events : M .events) (m_host : M .host)
    (m_arrays : M .arrays) :
    Parts M z (State.ueLine s sp line d) := by
  unfold State.ueLine
  repeat' first
    | with_reducible assumption
    | with_reducible apply State.ueRecord_parts
    | with_reducible apply State.poisonLine_parts
    | with_reducible apply State.err_parts
    | with_reducible apply State.bump_parts

theorem State.noteCorrected_parts {M : Part → Prop} {z : State} {s : State} (h : Parts M z s) (sp line : Nat) (m_regs :
    M .regs) (m_arrays : M .arrays) :
    Parts M z (State.noteCorrected s sp line) := by
  unfold State.noteCorrected
  repeat' first
    | with_reducible assumption
    | with_reducible apply State.setArrays_parts
    | with_reducible apply State.bump_parts
    | split
    | dsimp only

theorem State.touchLine_parts {M : Part → Prop} {z : State} {s : State} (h : Parts M z s) (plan : Bool) (sp line : Nat)
    (m_free : M .free) (m_regs : M .regs) (m_mem : M .mem) (m_events : M .events) (m_host : M .host) (m_arrays : M
    .arrays) (m_watch : M .watch) :
    Parts M z (State.touchLine s plan sp line) := by
  unfold State.touchLine
  repeat' first
    | with_reducible assumption
    | with_reducible apply State.noteCorrected_parts
    | with_reducible apply State.ueLine_parts
    | with_reducible apply State.tickFault_parts
    | split
    | dsimp only

theorem State.touch_parts {M : Part → Prop} {z : State} {s : State} (h : Parts M z s) (plan : Bool) (sp off n : Nat)
    (m_free : M .free) (m_regs : M .regs) (m_mem : M .mem) (m_events : M .events) (m_host : M .host)
    (m_arrays : M .arrays) (m_watch : M .watch) :
    Parts M z (State.touch s plan sp off n) := by
  unfold State.touch
  repeat' first
    | with_reducible assumption
    | with_reducible apply State.touchLine_parts
    | with_reducible refine parts_foldl (fun t x ht => ?_) ?_

theorem State.poisonRange_parts {M : Part → Prop} {z : State} {s : State} (h : Parts M z s) (sp off n : Nat)
    (m_mem : M .mem) (m_arrays : M .arrays) :
    Parts M z (State.poisonRange s sp off n) := by
  unfold State.poisonRange
  repeat' first
    | with_reducible assumption
    | with_reducible apply State.poisonLine_parts
    | with_reducible refine parts_foldl (fun t x ht => ?_) ?_

theorem State.mergeFree_parts {M : Part → Prop} {z : State} {s : State} (h : Parts M z s) (line : Nat)
    (m_arrays : M .arrays) :
    Parts M z (State.mergeFree s line) := by
  unfold State.mergeFree
  repeat' first
    | with_reducible assumption
    | with_reducible apply State.cleanLine_parts
    | with_reducible apply State.setArrays_parts

theorem State.mergeRoom_parts {M : Part → Prop} {z : State} {s : State} (h : Parts M z s) (plan : Bool) (st : Nat)
    (m_arrays : M .arrays) :
    Parts M z (State.mergeRoom s plan st) := by
  unfold State.mergeRoom
  repeat' first
    | with_reducible assumption
    | with_reducible apply State.mergeFree_parts
    | split
    | dsimp only

theorem State.mergeNeed_parts {M : Part → Prop} {z : State} {s : State} (h : Parts M z s) (plan : Bool) (st : Nat)
    (m_regs : M .regs) (m_arrays : M .arrays) :
    Parts M z (State.mergeNeed s plan st) := by
  unfold State.mergeNeed
  repeat' first
    | with_reducible assumption
    | with_reducible apply State.mergeRoom_parts
    | with_reducible apply State.bump_parts
    | split
    | dsimp only

theorem State.mergeTouch_parts {M : Part → Prop} {z : State} {s : State} (h : Parts M z s) (plan : Bool) (line : Nat)
    (m_regs : M .regs) (m_arrays : M .arrays) :
    Parts M z (State.mergeTouch s plan line) := by
  unfold State.mergeTouch
  repeat' first
    | with_reducible assumption
    | with_reducible apply State.mergeNeed_parts
    | with_reducible apply State.setArrays_parts
    | split
    | dsimp only

theorem State.writeLine_parts {M : Part → Prop} {z : State} {s : State} (h : Parts M z s) (plan : Bool) (sp off : Nat) (l
    : List Byte) (line : Nat) (m_free : M .free) (m_regs : M .regs) (m_mem : M .mem) (m_events : M .events)
    (m_host : M .host) (m_arrays : M .arrays) (m_watch : M .watch) :
    Parts M z (State.writeLine s plan sp off l line) := by
  unfold State.writeLine
  repeat' first
    | with_reducible assumption
    | with_reducible apply State.mergeTouch_parts
    | with_reducible apply State.touchLine_parts
    | with_reducible apply State.cleanLine_parts
    | with_reducible apply State.poke_parts
    | with_reducible apply State.bump_parts
    | split
    | dsimp only

theorem State.store_parts {M : Part → Prop} {z : State} {s : State} (h : Parts M z s) (plan : Bool) (sp off : Nat) (l :
    List Byte) (m_free : M .free) (m_regs : M .regs) (m_mem : M .mem) (m_events : M .events) (m_host : M .host)
    (m_arrays : M .arrays) (m_watch : M .watch) :
    Parts M z (State.store s plan sp off l) := by
  unfold State.store
  repeat' first
    | with_reducible assumption
    | with_reducible apply State.writeLine_parts
    | with_reducible apply State.unhide_parts
    | with_reducible refine parts_foldl (fun t x ht => ?_) ?_
    | split
    | dsimp only

end Sys2Proof.Machine
end

