-- ==== Sys2Proof/Laws/PartsAtomics.lean ====
section
/-! SUPPORT. What the operations of Atomics.lean touch (Parts). -/

namespace Sys2Proof.Machine

open Sys2Proof

theorem State.hide_parts {M : Part → Prop} {z : State} {s : State} (h : Parts M z s) (sp off n : Nat) (m_arrays : M
    .arrays) :
    Parts M z (State.hide s sp off n) := by
  unfold State.hide
  repeat' first
    | with_reducible assumption
    | with_reducible apply State.setArrays_parts
    | split
    | dsimp only

theorem State.atomFree_parts {M : Part → Prop} {z : State} {s : State} (h : Parts M z s) (a : Atom) (m_atoms : M .atoms) :
    Parts M z (State.atomFree s a) := by
  unfold State.atomFree
  repeat' first
    | with_reducible exact Or.inr rfl
    | with_reducible exact Or.inr ⟨rfl, rfl, rfl, rfl, rfl⟩
    | with_reducible exact Or.inl (by assumption)
    | with_reducible assumption
    | dsimp only
    | with_reducible apply parts_mk

theorem State.atomLost_parts {M : Part → Prop} {z : State} {s : State} (h : Parts M z s) (a : Atom) (m_free : M .free)
    (m_regs : M .regs) (m_mem : M .mem) (m_events : M .events) (m_host : M .host) (m_arrays : M .arrays)
    (m_watch : M .watch) (m_atoms : M .atoms) :
    Parts M z (State.atomLost s a) := by
  unfold State.atomLost
  repeat' first
    | with_reducible assumption
    | with_reducible apply State.atomFree_parts
    | with_reducible apply State.touchLine_parts
    | with_reducible apply State.poisonLine_parts
    | with_reducible apply State.err_parts

theorem State.atomWriteback_parts {M : Part → Prop} {z : State} {s : State} (h : Parts M z s) (a : Atom)
    (m_free : M .free) (m_regs : M .regs) (m_mem : M .mem) (m_events : M .events) (m_host : M .host)
    (m_arrays : M .arrays) (m_watch : M .watch) (m_atoms : M .atoms) :
    Parts M z (State.atomWriteback s a) := by
  unfold State.atomWriteback
  repeat' first
    | with_reducible assumption
    | with_reducible apply State.atomLost_parts
    | with_reducible apply State.atomFree_parts
    | with_reducible apply State.store_parts
    | with_reducible apply State.touchLine_parts
    | with_reducible apply State.bump_parts
    | split
    | dsimp only

theorem State.atomCount_parts {M : Part → Prop} {z : State} {s : State} (h : Parts M z s) (line clips nans : Nat)
    (m_regs : M .regs) :
    Parts M z (State.atomCount s line clips nans) := by
  unfold State.atomCount
  repeat' first
    | with_reducible assumption
    | with_reducible apply State.bump_parts

theorem State.atomHit_parts {M : Part → Prop} {z : State} {s : State} (h : Parts M z s) (a : Atom) (loc f w : Nat) (add :
    List Byte) (m_free : M .free) (m_regs : M .regs) (m_mem : M .mem) (m_events : M .events) (m_host : M .host)
    (m_arrays : M .arrays) (m_watch : M .watch) (m_atoms : M .atoms) :
    Parts M z (State.atomHit s a loc f w add).1 := by
  unfold State.atomHit
  repeat' first
    | with_reducible exact Or.inr rfl
    | with_reducible exact Or.inr ⟨rfl, rfl, rfl, rfl, rfl⟩
    | with_reducible exact Or.inl (by assumption)
    | with_reducible assumption
    | with_reducible apply State.atomCount_parts
    | with_reducible apply State.touchLine_parts
    | with_reducible apply State.cleanLine_parts
    | with_reducible apply State.poke_parts
    | split
    | dsimp only
    | with_reducible apply parts_mk

theorem State.atomFill_parts {M : Part → Prop} {z : State} {s : State} (h : Parts M z s) (line slot : Nat)
    (m_free : M .free) (m_regs : M .regs) (m_mem : M .mem) (m_events : M .events) (m_host : M .host)
    (m_arrays : M .arrays) (m_watch : M .watch) (m_atoms : M .atoms) :
    Parts M z (State.atomFill s line slot).1 := by
  unfold State.atomFill
  repeat' first
    | with_reducible exact Or.inr rfl
    | with_reducible exact Or.inr ⟨rfl, rfl, rfl, rfl, rfl⟩
    | with_reducible exact Or.inl (by assumption)
    | with_reducible assumption
    | with_reducible apply State.touchLine_parts
    | with_reducible apply State.cleanLine_parts
    | with_reducible apply State.poke_parts
    | dsimp only
    | with_reducible apply parts_mk

theorem State.atomic_parts {M : Part → Prop} {z : State} {s : State} (h : Parts M z s) (loc f w : Nat) (add : List Byte)
    (m_free : M .free) (m_regs : M .regs) (m_mem : M .mem) (m_events : M .events) (m_host : M .host) (m_arrays : M
    .arrays) (m_watch : M .watch) (m_atoms : M .atoms) :
    Parts M z (State.atomic s loc f w add).1 := by
  unfold State.atomic
  repeat' first
    | with_reducible assumption
    | with_reducible apply State.atomFill_parts
    | with_reducible apply State.atomHit_parts
    | with_reducible apply State.atomCount_parts
    | with_reducible apply State.atomLost_parts
    | with_reducible apply State.hide_parts
    | with_reducible apply State.store_parts
    | with_reducible apply State.err_parts
    | with_reducible apply State.touchLine_parts
    | with_reducible apply State.bump_parts
    | split
    | dsimp only

theorem State.atomIdles_parts {M : Part → Prop} {z : State} {s : State} (h : Parts M z s) (m_free : M .free)
    (m_regs : M .regs) (m_mem : M .mem) (m_events : M .events) (m_host : M .host) (m_arrays : M .arrays)
    (m_watch : M .watch) (m_atoms : M .atoms) :
    Parts M z (State.atomIdles s) := by
  unfold State.atomIdles
  repeat' first
    | with_reducible assumption
    | with_reducible apply State.atomWriteback_parts
    | with_reducible refine parts_foldl (fun t x ht => ?_) ?_

theorem State.atomFlush_parts {M : Part → Prop} {z : State} {s : State} (h : Parts M z s) (c : Nat) (m_free : M .free)
    (m_regs : M .regs) (m_mem : M .mem) (m_events : M .events) (m_host : M .host) (m_arrays : M .arrays)
    (m_watch : M .watch) (m_atoms : M .atoms) :
    Parts M z (State.atomFlush s c) := by
  unfold State.atomFlush
  repeat' first
    | with_reducible assumption
    | with_reducible apply State.atomWriteback_parts
    | with_reducible apply State.wr_parts
    | with_reducible refine parts_foldl (fun t x ht => ?_) ?_

theorem State.atomWin_parts {M : Part → Prop} {z : State} {s : State} (h : Parts M z s) (c v : Nat) (m_free : M .free)
    (m_regs : M .regs) (m_mem : M .mem) (m_events : M .events) (m_host : M .host) (m_arrays : M .arrays)
    (m_watch : M .watch) (m_atoms : M .atoms) :
    Parts M z (State.atomWin s c v) := by
  unfold State.atomWin
  repeat' first
    | with_reducible assumption
    | with_reducible apply State.atomFlush_parts
    | with_reducible apply State.err_parts
    | with_reducible apply State.wr_parts
    | with_reducible apply State.put_parts
    | split
    | dsimp only

end Sys2Proof.Machine
end

