-- ==== Sys2Proof/Laws/PartsBelfry.lean ====
section
/-! SUPPORT. What the operations of Belfry.lean touch (Parts). -/

namespace Sys2Proof.Machine

open Sys2Proof

theorem State.armPeriod_parts {M : Part → Prop} {z : State} {s : State} (h : Parts M z s) (v : Nat) (m_free : M .free)
    (m_regs : M .regs) (m_events : M .events) (m_host : M .host) (m_belfry : M .belfry) :
    Parts M z (State.armPeriod s v) := by
  unfold State.armPeriod
  repeat' first
    | with_reducible assumption
    | with_reducible apply State.err_parts
    | with_reducible apply State.setBelfry_parts
    | with_reducible apply State.put_parts
    | split
    | dsimp only

theorem State.readNowLo_parts {M : Part → Prop} {z : State} {s : State} (h : Parts M z s) (m_regs : M .regs) :
    Parts M z (State.readNowLo s).2 := by
  unfold State.readNowLo
  repeat' first
    | with_reducible assumption
    | with_reducible apply State.put_parts

theorem State.readStepLo_parts {M : Part → Prop} {z : State} {s : State} (h : Parts M z s) (m_regs : M .regs) :
    Parts M z (State.readStepLo s).2 := by
  unfold State.readStepLo
  repeat' first
    | with_reducible assumption
    | with_reducible apply State.put_parts

theorem State.markerErr_parts {M : Part → Prop} {z : State} {s : State} (h : Parts M z s) (l belBit turBit : Nat)
    (m_free : M .free) (m_regs : M .regs) (m_events : M .events) (m_host : M .host) :
    Parts M z (State.markerErr s l belBit turBit) := by
  unfold State.markerErr
  repeat' first
    | with_reducible assumption
    | with_reducible apply State.err_parts
    | split

theorem State.markerLinkFault_parts {M : Part → Prop} {z : State} {s : State} (h : Parts M z s) (l : Nat) (m_out : M
    .out) (m_links : M .links) (m_watch : M .watch) : Parts M z (State.markerLinkFault s l) := by
  unfold State.markerLinkFault
  repeat' first
    | with_reducible assumption
    | with_reducible apply State.reportLink_parts
    | split

theorem State.markerCompare_parts {M : Part → Prop} {z : State} {s : State} (h : Parts M z s) (l : Nat) (m : Marker)
    (per step : Nat) (m_out : M .out) (m_free : M .free) (m_regs : M .regs) (m_events : M .events) (m_host : M .host)
    (m_links : M .links) (m_watch : M .watch) : Parts M z (State.markerCompare s l m per step) := by
  unfold State.markerCompare
  repeat' first
    | with_reducible assumption
    | with_reducible apply State.markerLinkFault_parts
    | with_reducible apply State.markerErr_parts
    | with_reducible apply State.tickFault_parts
    | split

theorem State.skewCheck_parts {M : Part → Prop} {z : State} {s : State} (h : Parts M z s) (l : Nat) (skew : Int) (m_out
    : M .out) (m_free : M .free) (m_regs : M .regs) (m_events : M .events) (m_host : M .host) (m_links : M .links)
    (m_watch : M .watch) : Parts M z (State.skewCheck s l skew) := by
  unfold State.skewCheck
  repeat' first
    | with_reducible assumption
    | with_reducible apply State.markerLinkFault_parts
    | with_reducible apply State.markerErr_parts
    | split

theorem State.markerCheck_parts {M : Part → Prop} {z : State} {s : State} (h : Parts M z s) (l : Nat) (m : Marker) (skew
    : Int) (m_out : M .out) (m_free : M .free) (m_regs : M .regs) (m_events : M .events) (m_host : M .host) (m_belfry :
    M .belfry) (m_links : M .links) (m_watch : M .watch) : Parts M z (State.markerCheck s l m skew) := by
  unfold State.markerCheck
  repeat' first
    | with_reducible assumption
    | with_reducible apply State.skewCheck_parts
    | with_reducible apply State.markerCompare_parts
    | with_reducible apply State.setBelfry_parts
    | split
    | dsimp only

theorem State.markerSeen_parts {M : Part → Prop} {z : State} {s : State} (h : Parts M z s) (l : Nat) (m : Marker)
    (m_belfry : M .belfry) :
    Parts M z (State.markerSeen s l m) := by
  unfold State.markerSeen
  repeat' first
    | with_reducible assumption
    | with_reducible apply State.setBelfry_parts
    | split
    | dsimp only

theorem State.recordSkew_parts {M : Part → Prop} {z : State} {s : State} (h : Parts M z s) (l : Nat) (skew : Int)
    (m_regs : M .regs) :
    Parts M z (State.recordSkew s l skew) := by
  unfold State.recordSkew
  repeat' first
    | with_reducible assumption
    | with_reducible apply State.put_parts
    | split
    | dsimp only

theorem State.trimMark_parts {M : Part → Prop} {z : State} {s : State} (h : Parts M z s) (l : Nat) (m : Marker) (skew :
    Int) (m_belfry : M .belfry) : Parts M z (State.trimMark s l m skew) := by
  unfold State.trimMark
  repeat' first
    | with_reducible assumption
    | with_reducible apply State.setBelfry_parts
    | with_reducible apply State.put_parts
    | split

theorem State.marker_parts {M : Part → Prop} {z : State} {s : State} (h : Parts M z s) (l : Nat) (m : Marker) (m_out : M
    .out) (m_free : M .free) (m_regs : M .regs) (m_events : M .events) (m_host : M .host) (m_belfry : M .belfry)
    (m_links : M .links) (m_watch : M .watch) : Parts M z (State.marker s l m) := by
  unfold State.marker
  repeat' first
    | with_reducible assumption
    | with_reducible apply State.trimMark_parts
    | with_reducible apply State.recordSkew_parts
    | with_reducible apply State.markerSeen_parts
    | with_reducible apply State.markerCheck_parts
    | split
    | dsimp only

theorem State.trimSaturated_parts {M : Part → Prop} {z : State} {s : State} (h : Parts M z s) (m_free : M .free)
    (m_regs : M .regs) (m_events : M .events) (m_host : M .host) (m_belfry : M .belfry) :
    Parts M z (State.trimSaturated s) := by
  unfold State.trimSaturated
  repeat' first
    | with_reducible assumption
    | with_reducible apply State.err_parts
    | with_reducible apply State.setBelfry_parts
    | split

theorem State.rememberFlood_parts {M : Part → Prop} {z : State} {s : State} (h : Parts M z s) (opcode key : Nat)
    (m_belfry : M .belfry) :
    Parts M z (State.rememberFlood s opcode key) := by
  unfold State.rememberFlood
  repeat' first
    | with_reducible assumption
    | with_reducible apply State.setBelfry_parts

theorem State.markSkip_parts {M : Part → Prop} {z : State} {s : State} (h : Parts M z s) (src : Option Nat) (target
    origin reason : Nat) (m_out : M .out) (m_belfry : M .belfry) (m_links : M .links) : Parts M z (State.markSkip s src
    target origin reason) := by
  unfold State.markSkip
  repeat' first
    | with_reducible assumption
    | with_reducible apply State.rememberFlood_parts
    | with_reducible apply State.flood_parts
    | with_reducible apply State.setBelfry_parts

theorem State.skipNotice_parts {M : Part → Prop} {z : State} {s : State} (h : Parts M z s) (d target origin reason :
    Nat) (m_out : M .out) (m_free : M .free) (m_regs : M .regs) (m_events : M .events) (m_host : M .host) (m_belfry : M
    .belfry) (m_links : M .links) : Parts M z (State.skipNotice s d target origin reason) := by
  unfold State.skipNotice
  repeat' first
    | with_reducible assumption
    | with_reducible apply State.markSkip_parts
    | with_reducible apply State.err_parts
    | with_reducible apply State.overrun_parts
    | split
    | dsimp only

theorem State.issueSkip_parts {M : Part → Prop} {z : State} {s : State} (h : Parts M z s) (reason : Nat) (m_out : M
    .out) (m_belfry : M .belfry) (m_links : M .links) : Parts M z (State.issueSkip s reason) := by
  unfold State.issueSkip
  repeat' first
    | with_reducible assumption
    | with_reducible apply State.markSkip_parts
    | split
    | dsimp only

theorem State.oculus_parts {M : Part → Prop} {z : State} {s : State} (h : Parts M z s) (t : List Nat) (power : Nat) (cup :
    List Nat) (m_regs : M .regs) :
    Parts M z (State.oculus s t power cup) := by
  unfold State.oculus
  repeat' first
    | with_reducible assumption
    | with_reducible apply State.put_parts
    | with_reducible refine parts_foldl (fun t x ht => ?_) ?_

theorem State.throttleEval_parts {M : Part → Prop} {z : State} {s : State} (h : Parts M z s) (raw : List Int) (power :
    Nat) (cup : List Nat) (m_regs : M .regs) (m_belfry : M .belfry) :
    Parts M z (State.throttleEval s raw power cup) := by
  unfold State.throttleEval
  repeat' first
    | with_reducible assumption
    | with_reducible apply State.oculus_parts
    | with_reducible apply State.wrb_parts
    | with_reducible apply State.wr_parts
    | with_reducible apply State.setBelfry_parts
    | split
    | dsimp only

theorem State.throttleIssue_parts {M : Part → Prop} {z : State} {s : State} (h : Parts M z s) (m_out : M .out) (m_belfry
    : M .belfry) (m_links : M .links) : Parts M z (State.throttleIssue s) := by
  unfold State.throttleIssue
  repeat' first
    | with_reducible assumption
    | with_reducible apply State.issueSkip_parts
    | with_reducible apply State.setBelfry_parts
    | split

theorem State.writeThrCtl_parts {M : Part → Prop} {z : State} {s : State} (h : Parts M z s) (v : Nat) (m_regs : M .regs)
    (m_belfry : M .belfry) :
    Parts M z (State.writeThrCtl s v) := by
  unfold State.writeThrCtl
  repeat' first
    | with_reducible assumption
    | with_reducible apply State.setBelfry_parts
    | with_reducible apply State.swField_parts
    | with_reducible apply State.wr_parts
    | split
    | dsimp only

end Sys2Proof.Machine
end

