-- ==== Sys2Proof/Laws/PartsPool.lean ====
section
/-! SUPPORT. What the operations of Pool.lean touch (Parts). -/

namespace Sys2Proof.Machine

open Sys2Proof

theorem State.setDom_parts {M : Part → Prop} {z : State} {s : State} (h : Parts M z s) (d v : Nat) (m_power : M .power)
    :
    Parts M z (State.setDom s d v) := by
  unfold State.setDom
  repeat' first
    | with_reducible exact Or.inr rfl
    | with_reducible exact Or.inr ⟨rfl, rfl, rfl, rfl, rfl⟩
    | with_reducible exact Or.inl (by assumption)
    | with_reducible assumption
    | split
    | dsimp only
    | with_reducible apply parts_mk

theorem State.wakeDom_parts {M : Part → Prop} {z : State} {s : State} (h : Parts M z s) (d : Nat) (m_power : M .power) :
    Parts M z (State.wakeDom s d) := by
  unfold State.wakeDom
  repeat' first
    | with_reducible exact Or.inr rfl
    | with_reducible exact Or.inr ⟨rfl, rfl, rfl, rfl, rfl⟩
    | with_reducible exact Or.inl (by assumption)
    | with_reducible assumption
    | with_reducible apply State.setDom_parts
    | split
    | dsimp only
    | with_reducible apply parts_mk

theorem State.headerDiscard_parts {M : Part → Prop} {z : State} {s : State} (h : Parts M z s) (k : Nat) (m_free : M
    .free) (m_regs : M .regs) (m_events : M .events) (m_host : M .host) :
    Parts M z (State.headerDiscard s k) := by
  unfold State.headerDiscard
  repeat' first
    | with_reducible assumption
    | with_reducible apply State.err_parts
    | with_reducible apply State.bump_parts
    | split
    | dsimp only

theorem State.bufferUe_parts {M : Part → Prop} {z : State} {s : State} (h : Parts M z s) (addr : Bool) (bank line : Nat)
    (m_free : M .free) (m_regs : M .regs) (m_events : M .events) (m_host : M .host) :
    Parts M z (State.bufferUe s addr bank line) := by
  unfold State.bufferUe
  repeat' first
    | with_reducible assumption
    | with_reducible apply State.err_parts
    | with_reducible apply State.bump_parts
    | with_reducible apply State.ueRecord_parts
    | split
    | dsimp only

theorem State.setFlitErrs_parts {M : Part → Prop} {z : State} {s : State} (h : Parts M z s) (l : List FlitErr) (m_arrays
    : M .arrays) :
    Parts M z (State.setFlitErrs s l) := by
  unfold State.setFlitErrs
  repeat' first
    | with_reducible assumption
    | with_reducible apply State.setArrays_parts
    | split
    | dsimp only

theorem State.flitUe_parts {M : Part → Prop} {z : State} {s : State} (h : Parts M z s) (e : FlitErr) (addr : Bool)
    (m_free : M .free) (m_regs : M .regs) (m_events : M .events) (m_host : M .host) :
    Parts M z (State.flitUe s e addr) := by
  unfold State.flitUe
  repeat' first
    | with_reducible assumption
    | with_reducible apply State.bufferUe_parts
    | with_reducible apply State.draw_parts
    | split
    | dsimp only

theorem State.flitLine_parts {M : Part → Prop} {z : State} {s : State} (h : Parts M z s) (e : FlitErr) (m_free : M
    .free) (m_regs : M .regs) (m_events : M .events) (m_host : M .host) (m_arrays : M .arrays) :
    Parts M z (State.flitLine s e) := by
  unfold State.flitLine
  repeat' first
    | with_reducible assumption
    | with_reducible apply State.flitUe_parts
    | with_reducible apply State.setFlitErrs_parts
    | with_reducible apply State.bump_parts
    | split
    | dsimp only

theorem State.patrolUe_parts {M : Part → Prop} {z : State} {s : State} (h : Parts M z s) (e : FlitErr) (addr : Bool)
    (line : Nat) (m_free : M .free) (m_regs : M .regs) (m_events : M .events) (m_host : M .host) (m_arrays : M .arrays)
    :
    Parts M z (State.patrolUe s e addr line) := by
  unfold State.patrolUe
  repeat' first
    | with_reducible assumption
    | with_reducible apply State.setFlitErrs_parts
    | with_reducible apply State.bufferUe_parts
    | with_reducible apply State.bump_parts
    | split
    | dsimp only

theorem State.patrolBuffer_parts {M : Part → Prop} {z : State} {s : State} (h : Parts M z s) (line : Nat) (m_free : M
    .free) (m_regs : M .regs) (m_events : M .events) (m_host : M .host) (m_arrays : M .arrays) :
    Parts M z (State.patrolBuffer s line) := by
  unfold State.patrolBuffer
  repeat' first
    | with_reducible assumption
    | with_reducible apply State.patrolUe_parts
    | with_reducible apply State.setFlitErrs_parts
    | with_reducible apply State.bump_parts
    | with_reducible apply State.draw_parts
    | split
    | dsimp only

theorem State.flitRead_parts {M : Part → Prop} {z : State} {s : State} (h : Parts M z s) (p : FlitAt) (f : Flit) (m_free
    : M .free) (m_regs : M .regs) (m_events : M .events) (m_host : M .host) (m_arrays : M .arrays) :
    Parts M z (State.flitRead s p f).2 := by
  unfold State.flitRead
  repeat' first
    | with_reducible assumption
    | with_reducible apply State.flitLine_parts
    | with_reducible refine parts_foldl (fun t x ht => ?_) ?_
    | split
    | dsimp only

theorem State.flitRead_next_parts {M : Part → Prop} {z : State} {s t : State} {p : FlitAt} {f : Flit} {o : Option Flit}
    (h : Parts M z s) (e : State.flitRead s p f = (o, t)) (m_free : M .free) (m_regs : M .regs) (m_events : M .events) (m_host : M .host) (m_arrays : M .arrays) :
    Parts M z t := by
  have := State.flitRead_parts h p f m_free m_regs m_events m_host m_arrays
  rwa [e] at this

theorem State.setOpn_parts {M : Part → Prop} {z : State} {s : State} (h : Parts M z s) (o : OpenPlane) (m_opn : M .opn) :
    Parts M z (State.setOpn s o) := by
  unfold State.setOpn
  repeat' first
    | with_reducible exact Or.inr rfl
    | with_reducible exact Or.inr ⟨rfl, rfl, rfl, rfl, rfl⟩
    | with_reducible exact Or.inl (by assumption)
    | with_reducible assumption
    | dsimp only
    | with_reducible apply parts_mk

theorem State.setQueue_parts {M : Part → Prop} {z : State} {s : State} (h : Parts M z s) (k o vc : Nat) (q : EgressQ)
    (m_opn : M .opn) :
    Parts M z (State.setQueue s k o vc q) := by
  unfold State.setQueue
  repeat' first
    | with_reducible assumption
    | with_reducible apply State.setOpn_parts

theorem State.wakeBank_parts {M : Part → Prop} {z : State} {s : State} (h : Parts M z s) (k : Nat) (m_power : M .power)
    :
    Parts M z (State.wakeBank s k) := by
  unfold State.wakeBank
  repeat' first
    | with_reducible assumption
    | with_reducible apply State.wakeDom_parts
    | split
    | dsimp only

theorem State.returnCredit_parts {M : Part → Prop} {z : State} {s : State} (h : Parts M z s) (l vc n : Nat) (m_out : M
    .out) (m_links : M .links) :
    Parts M z (State.returnCredit s l vc n) := by
  unfold State.returnCredit
  repeat' first
    | with_reducible assumption
    | with_reducible apply State.sendIdle_parts
    | with_reducible apply State.setLink_parts
    | split
    | dsimp only

theorem State.fwdPoison_parts {M : Part → Prop} {z : State} {s : State} (h : Parts M z s) (k : Nat) (m_free : M .free)
    (m_regs : M .regs) (m_events : M .events) (m_host : M .host) :
    Parts M z (State.fwdPoison s k) := by
  unfold State.fwdPoison
  repeat' first
    | with_reducible assumption
    | with_reducible apply State.err_parts
    | with_reducible apply State.bump_parts
    | split
    | dsimp only

theorem State.countLeft_parts {M : Part → Prop} {z : State} {s : State} (h : Parts M z s) (k : Nat) (f : Flit) (m_free :
    M .free) (m_regs : M .regs) (m_events : M .events) (m_host : M .host) :
    Parts M z (State.countLeft s k f) := by
  unfold State.countLeft
  repeat' first
    | with_reducible assumption
    | with_reducible apply State.fwdPoison_parts
    | split
    | dsimp only

theorem State.bufferIn_parts {M : Part → Prop} {z : State} {s : State} (h : Parts M z s) (l : Nat) (f : Flit) (m_free :
    M .free) (m_regs : M .regs) (m_events : M .events) (m_host : M .host) (m_opn : M .opn) (m_power : M .power) :
    Parts M z (State.bufferIn s l f) := by
  unfold State.bufferIn
  repeat' first
    | with_reducible assumption
    | with_reducible apply State.fwdPoison_parts
    | with_reducible apply State.wakeBank_parts
    | with_reducible apply State.setOpn_parts
    | split
    | dsimp only

theorem State.endInput_parts {M : Part → Prop} {z : State} {s : State} (h : Parts M z s) (l vc : Nat) (m_free : M .free)
    (m_regs : M .regs) (m_events : M .events) (m_host : M .host) (m_opn : M .opn) :
    Parts M z (State.endInput s l vc) := by
  unfold State.endInput
  repeat' first
    | with_reducible assumption
    | with_reducible apply State.fwdPoison_parts
    | with_reducible apply State.setOpn_parts
    | split
    | dsimp only

end Sys2Proof.Machine
end

