-- ==== Sys2Proof/Laws/PartsSched.lean ====
section
/-! SUPPORT. What the operations of Sched.lean touch (Parts). -/

namespace Sys2Proof.Machine

open Sys2Proof

theorem State.setBankState_parts {M : Part → Prop} {z : State} {s : State} (h : Parts M z s) (b v : Nat)
    (m_regs : M .regs) :
    Parts M z (State.setBankState s b v) := by
  unfold State.setBankState
  repeat' first
    | with_reducible assumption
    | with_reducible apply State.wr_parts

theorem State.setBank_parts {M : Part → Prop} {z : State} {s : State} (h : Parts M z s) (b : Nat) (x : Option Bank)
    (m_bankA : M .bankA) (m_bankB : M .bankB) :
    Parts M z (State.setBank s b x) := by
  unfold State.setBank
  repeat' first
    | with_reducible exact Or.inr rfl
    | with_reducible exact Or.inr ⟨rfl, rfl, rfl, rfl, rfl⟩
    | with_reducible exact Or.inl (by assumption)
    | with_reducible assumption
    | split
    | dsimp only
    | with_reducible apply parts_mk

theorem State.setSched_parts {M : Part → Prop} {z : State} {s : State} (h : Parts M z s) (x : Sched) (m_sched : M .sched) :
    Parts M z (State.setSched s x) := by
  unfold State.setSched
  repeat' first
    | with_reducible exact Or.inr rfl
    | with_reducible exact Or.inr ⟨rfl, rfl, rfl, rfl, rfl⟩
    | with_reducible exact Or.inl (by assumption)
    | with_reducible assumption
    | dsimp only
    | with_reducible apply parts_mk

theorem State.discardSkew_parts {M : Part → Prop} {z : State} {s : State} (h : Parts M z s) (l : Nat) (m_free : M .free)
    (m_regs : M .regs) (m_events : M .events) (m_host : M .host) :
    Parts M z (State.discardSkew s l) := by
  unfold State.discardSkew
  repeat' first
    | with_reducible assumption
    | with_reducible apply State.err_parts
    | with_reducible apply State.bump_parts
    | split
    | dsimp only

theorem State.discardStray_parts {M : Part → Prop} {z : State} {s : State} (h : Parts M z s) (l : Nat) (m_free : M .free)
    (m_regs : M .regs) (m_events : M .events) (m_host : M .host) :
    Parts M z (State.discardStray s l) := by
  unfold State.discardStray
  repeat' first
    | with_reducible assumption
    | with_reducible apply State.err_parts
    | with_reducible apply State.bump_parts

theorem State.landFlit_parts {M : Part → Prop} {z : State} {s : State} (h : Parts M z s) (l stamp : Nat) (f : Flit)
    (m_free : M .free) (m_regs : M .regs) (m_events : M .events) (m_host : M .host) (m_sched : M .sched) :
    Parts M z (State.landFlit s l stamp f) := by
  unfold State.landFlit
  repeat' first
    | with_reducible assumption
    | with_reducible apply State.discardStray_parts
    | with_reducible apply State.setSched_parts
    | split
    | dsimp only

theorem State.schedCheck_parts {M : Part → Prop} {z : State} {s : State} (h : Parts M z s) (p : PlanTick) (l stamp : Nat)
    (f : Flit) (m_free : M .free) (m_regs : M .regs) (m_events : M .events) (m_host : M .host) (m_sched : M .sched) :
    Parts M z (State.schedCheck s p l stamp f) := by
  unfold State.schedCheck
  repeat' first
    | with_reducible assumption
    | with_reducible apply State.landFlit_parts
    | with_reducible apply State.discardStray_parts
    | split

theorem State.schedFlit_parts {M : Part → Prop} {z : State} {s : State} (h : Parts M z s) (l : Nat) (f : Flit) (m_free :
    M .free) (m_regs : M .regs) (m_events : M .events) (m_host : M .host) (m_sched : M .sched) :
    Parts M z (State.schedFlit s l f) := by
  unfold State.schedFlit
  repeat' first
    | with_reducible assumption
    | with_reducible apply State.schedCheck_parts
    | with_reducible apply State.discardStray_parts
    | with_reducible apply State.discardSkew_parts
    | with_reducible apply State.setSched_parts
    | with_reducible apply State.bump_parts
    | split
    | dsimp only

theorem State.recheckEarly_parts {M : Part → Prop} {z : State} {s : State} (h : Parts M z s) (m_free : M .free)
    (m_regs : M .regs) (m_events : M .events) (m_host : M .host) (m_sched : M .sched) :
    Parts M z (State.recheckEarly s) := by
  unfold State.recheckEarly
  repeat' first
    | with_reducible assumption
    | with_reducible apply State.schedCheck_parts
    | with_reducible apply State.setSched_parts
    | with_reducible refine parts_foldl (fun t x ht => ?_) ?_

theorem State.sendChunk_parts {M : Part → Prop} {z : State} (m : List Byte) (p : PlanTick) (m_out : M .out)
    (m_links : M .links) :
    ∀ (n : Nat) {s : State} (_ : Parts M z s) (inp sid j : Nat) (c : Chunk), Parts M z (State.sendChunk m p n s inp sid j c)
  | 0, _, h, _, _, _, _ => h
  | n + 1, s, h, inp, sid, j, c => by
    unfold State.sendChunk
    dsimp only
    refine parts_foldl (fun t x ht => ?_) h
    split
    · exact ht
    · split
      · split
        · exact State.sendFlit_parts ht _ _ (m_out := m_out) (m_links := m_links)
        · exact ht
      · split
        · exact ht
        · exact State.sendChunk_parts m p n ht x sid j c (m_out := m_out) (m_links := m_links)

theorem State.takeChunk_parts {M : Part → Prop} {z : State} {s : State} (h : Parts M z s) (m : List Byte) (inp sid j :
    Nat) (c : Chunk) (m_out : M .out) (m_links : M .links) (m_sched : M .sched) : Parts M z (State.takeChunk s m inp sid
    j c) := by
  unfold State.takeChunk
  repeat' first
    | with_reducible assumption
    | with_reducible apply State.sendChunk_parts
    | with_reducible apply State.setSched_parts
    | with_reducible apply State.put_parts
    | split

theorem State.sendStaged_parts {M : Part → Prop} {z : State} {s : State} (h : Parts M z s) (m_out : M .out) (m_links : M
    .links) (m_sched : M .sched) : Parts M z (State.sendStaged s) := by
  unfold State.sendStaged
  repeat' first
    | with_reducible assumption
    | with_reducible apply State.sendChunk_parts
    | with_reducible apply State.setSched_parts
    | with_reducible refine parts_foldl (fun t x ht => ?_) ?_
    | split

theorem State.missChunk_parts {M : Part → Prop} {z : State} {s : State} (h : Parts M z s) (m : List Byte) (l sid j o :
    Nat) (m_belfry : M .belfry) (m_sched : M .sched) :
    Parts M z (State.missChunk s m l sid j o) := by
  unfold State.missChunk
  repeat' first
    | with_reducible assumption
    | with_reducible apply State.setSched_parts
    | with_reducible apply State.overrun_parts
    | split
    | dsimp only

theorem State.consumeAt_parts {M : Part → Prop} {z : State} {s : State} (h : Parts M z s) (m : List Byte) (l sid j o :
    Nat) (m_out : M .out) (m_free : M .free) (m_regs : M .regs) (m_events : M .events) (m_host : M .host) (m_belfry : M
    .belfry) (m_links : M .links) (m_arrays : M .arrays) (m_sched : M .sched) : Parts M z (State.consumeAt s m l sid j
    o) := by
  unfold State.consumeAt
  repeat' first
    | with_reducible assumption
    | with_reducible apply State.missChunk_parts
    | with_reducible apply State.takeChunk_parts
    | with_reducible apply State.setSched_parts
    | with_reducible refine State.flitRead_next_parts ?_ (by assumption) (by assumption) (by assumption) (by assumption) (by assumption) (by assumption)
    | split
    | dsimp only

theorem State.consume_parts {M : Part → Prop} {z : State} {s : State} (h : Parts M z s) (l sid o : Nat) (m_out : M .out)
    (m_free : M .free) (m_regs : M .regs) (m_events : M .events) (m_host : M .host) (m_belfry : M .belfry) (m_links : M
    .links) (m_arrays : M .arrays) (m_sched : M .sched) : Parts M z (State.consume s l sid o) := by
  unfold State.consume
  repeat' first
    | with_reducible assumption
    | with_reducible apply State.consumeAt_parts
    | split

theorem State.slackOverruns_parts {M : Part → Prop} {z : State} {s : State} (h : Parts M z s) (m_belfry : M .belfry) :
    Parts M z (State.slackOverruns s) := by
  unfold State.slackOverruns
  repeat' first
    | with_reducible assumption
    | with_reducible apply State.setBelfry_parts
    | split
    | dsimp only

end Sys2Proof.Machine
end

