-- ==== Sys2Proof/Laws/PartsTranslate.lean ====
section
/-! SUPPORT. What the operations of Translate.lean touch (Parts). -/

namespace Sys2Proof.Machine

open Sys2Proof

theorem State.fstCommit_parts {M : Part → Prop} {z : State} {s : State} (h : Parts M z s) (m_regs : M .regs) (m_fst : M
    .fst) :
    Parts M z (State.fstCommit s) := by
  unfold State.fstCommit
  repeat' first
    | with_reducible exact Or.inr rfl
    | with_reducible exact Or.inr ⟨rfl, rfl, rfl, rfl, rfl⟩
    | with_reducible exact Or.inl (by assumption)
    | with_reducible assumption
    | with_reducible apply State.wrs_parts
    | with_reducible apply State.again_parts
    | split
    | dsimp only
    | with_reducible apply parts_mk

theorem State.fstRead_parts {M : Part → Prop} {z : State} {s : State} (h : Parts M z s) (m_regs : M .regs) :
    Parts M z (State.fstRead s) := by
  unfold State.fstRead
  repeat' first
    | with_reducible assumption
    | with_reducible apply State.put_parts
    | with_reducible refine parts_foldl (fun t x ht => ?_) ?_

end Sys2Proof.Machine
end

