-- ==== Sys2Proof/Laws/PartsPlanUnit.lean ====
section
/-! SUPPORT. What the operations of PlanUnit.lean touch (Parts). -/

namespace Sys2Proof.Machine

open Sys2Proof

theorem State.dmaRead_parts {M : Part → Prop} {z : State} {s : State} (h : Parts M z s) (p : PageId) (ueReg : Reg) (ueBit
    loc n : Nat) (m_free : M .free) (m_regs : M .regs) (m_mem : M .mem) (m_events : M .events) (m_host : M .host)
    (m_arrays : M .arrays) (m_watch : M .watch) :
    Parts M z (State.dmaRead s p ueReg ueBit loc n) := by
  unfold State.dmaRead
  repeat' first
    | with_reducible assumption
    | with_reducible apply State.touch_parts
    | with_reducible apply State.err_parts
    | with_reducible apply State.bump_parts
    | split
    | dsimp only

theorem State.dmaElems_parts {M : Part → Prop} {z : State} {s : State} (h : Parts M z s) (p : PageId) (ueReg : Reg) (ueBit
    loc f : Nat) (mx : Bool) (e i n : Nat) (m_free : M .free) (m_regs : M .regs) (m_mem : M .mem) (m_events : M .events)
    (m_host : M .host) (m_arrays : M .arrays) (m_watch : M .watch) :
    Parts M z (State.dmaElems s p ueReg ueBit loc f mx e i n) := by
  unfold State.dmaElems
  repeat' first
    | with_reducible assumption
    | with_reducible apply State.dmaRead_parts
    | split

theorem State.planWrite_parts {M : Part → Prop} {z : State} {s : State} (h : Parts M z s) (va off : Nat) (l : List Byte)
    (m_free : M .free) (m_regs : M .regs) (m_mem : M .mem) (m_events : M .events) (m_host : M .host)
    (m_arrays : M .arrays) (m_watch : M .watch) :
    Parts M z (State.planWrite s va off l) := by
  unfold State.planWrite
  repeat' first
    | with_reducible assumption
    | with_reducible apply State.store_parts
    | with_reducible apply State.bump_parts
    | split

theorem State.planPoison_parts {M : Part → Prop} {z : State} {s : State} (h : Parts M z s) (va off n : Nat)
    (m_mem : M .mem) (m_arrays : M .arrays) :
    Parts M z (State.planPoison s va off n).1 := by
  unfold State.planPoison
  repeat' first
    | with_reducible assumption
    | with_reducible apply State.poisonRange_parts
    | split

theorem State.planElems_parts {M : Part → Prop} {z : State} {s : State} (h : Parts M z s) (va off f i : Nat) (l : List
    (Nat × Bool)) (m_free : M .free) (m_regs : M .regs) (m_mem : M .mem) (m_events : M .events) (m_host : M .host)
    (m_arrays : M .arrays) (m_watch : M .watch) :
    Parts M z (State.planElems s va off f i l).1 := by
  unfold State.planElems
  repeat' first
    | with_reducible assumption
    | with_reducible apply State.store_parts
    | with_reducible apply State.poisonLine_parts
    | with_reducible apply State.bump_parts
    | with_reducible refine parts_foldl (fun t x ht => ?_) ?_
    | split

theorem State.stage_parts {M : Part → Prop} {z : State} {s : State} (h : Parts M z s) (sid : Nat) (l : List Chunk)
    (m_sched : M .sched) :
    Parts M z (State.stage s sid l) := by
  unfold State.stage
  repeat' first
    | with_reducible assumption
    | with_reducible apply State.setSched_parts

theorem State.setRun_parts {M : Part → Prop} {z : State} {s : State} (h : Parts M z s) (r : Run) (m_runs : M .runs) :
    Parts M z (State.setRun s r) := by
  unfold State.setRun
  repeat' first
    | with_reducible exact Or.inr rfl
    | with_reducible exact Or.inr ⟨rfl, rfl, rfl, rfl, rfl⟩
    | with_reducible exact Or.inl (by assumption)
    | with_reducible assumption
    | split
    | dsimp only
    | with_reducible apply parts_mk

theorem State.finish_parts {M : Part → Prop} {z : State} {s : State} (h : Parts M z s) (r : Run) (m_runs : M .runs) :
    Parts M z (State.finish s r) := by
  unfold State.finish
  repeat' first
    | with_reducible assumption
    | with_reducible apply State.setRun_parts

end Sys2Proof.Machine
end

