-- ==== Sys2Proof/Laws/PartsCeExec.lean ====
section
/-! SUPPORT. What the operations of CeExec.lean touch (Parts). -/

namespace Sys2Proof.Machine

open Sys2Proof

theorem foldFx_parts {M : Part → Prop} {z : State} {α : Type} {f : State → α → State × Fx}
    (hf : ∀ t x, Parts M z t → Parts M z (f t x).1) {l : List α} {s : State} (h : Parts M z s) :
    Parts M z (foldFx f l s).1 := by
  unfold foldFx
  generalize Fx.none = fx
  induction l generalizing s fx with
  | nil => exact h
  | cons x l ih => exact ih (hf s x h) _

theorem State.countChunks_parts {M : Part → Prop} {z : State} {s : State} (h : Parts M z s) (p : PageId) (reg : Reg) (l :
    List Chunk) (m_regs : M .regs) :
    Parts M z (State.countChunks s p reg l) := by
  unfold State.countChunks
  repeat' first
    | with_reducible assumption
    | with_reducible apply State.bump_parts
    | split
    | dsimp only

theorem State.ceSend_parts {M : Part → Prop} {z : State} {s : State} (h : Parts M z s) (c : CeCtx) (sid : Nat) (l : List
    Chunk) (m_regs : M .regs) (m_sched : M .sched) :
    Parts M z (State.ceSend s c sid l) := by
  unfold State.ceSend
  repeat' first
    | with_reducible assumption
    | with_reducible apply State.countChunks_parts
    | with_reducible apply State.stage_parts

theorem State.cePoison_parts {M : Part → Prop} {z : State} {s : State} (h : Parts M z s) (c : CeCtx) (bad : Bool)
    (m_free : M .free) (m_regs : M .regs) (m_events : M .events) (m_host : M .host) :
    Parts M z (State.cePoison s c bad) := by
  unfold State.cePoison
  repeat' first
    | with_reducible assumption
    | with_reducible apply State.err_parts
    | split

theorem State.ceWrite_parts {M : Part → Prop} {z : State} {s : State} (h : Parts M z s) (c : CeCtx) (va f total i : Nat)
    (x : Res) (m_free : M .free) (m_regs : M .regs) (m_mem : M .mem) (m_events : M .events) (m_host : M .host) (m_arrays
    : M .arrays) (m_watch : M .watch) :
    Parts M z (State.ceWrite s c va f total i x) := by
  unfold State.ceWrite
  repeat' first
    | with_reducible assumption
    | with_reducible apply State.planElems_parts
    | with_reducible apply State.bump_parts
    | with_reducible apply State.planPoison_parts
    | with_reducible apply State.planWrite_parts
    | split
    | dsimp only

theorem State.ceDeliver_parts {M : Part → Prop} {z : State} {s : State} (h : Parts M z s) (c : CeCtx) (m : Member) (total
    : Nat) (pieces : List (Nat × Res)) (m_free : M .free) (m_regs : M .regs) (m_mem : M .mem) (m_events : M .events)
    (m_host : M .host) (m_arrays : M .arrays) (m_watch : M .watch) (m_sched : M .sched) :
    Parts M z (State.ceDeliver s c m total pieces) := by
  unfold State.ceDeliver
  repeat' first
    | with_reducible assumption
    | with_reducible apply State.ceWrite_parts
    | with_reducible apply State.ceSend_parts
    | with_reducible refine parts_foldl (fun t x ht => ?_) ?_
    | split
    | dsimp only

theorem State.ceRead_parts {M : Part → Prop} {z : State} {s : State} (h : Parts M z s) (c : CeCtx) (loc n : Nat) (m_free
    : M .free) (m_regs : M .regs) (m_mem : M .mem) (m_events : M .events) (m_host : M .host) (m_arrays : M .arrays)
    (m_watch : M .watch) :
    Parts M z (State.ceRead s c loc n) := by
  unfold State.ceRead
  repeat' first
    | with_reducible assumption
    | with_reducible apply State.cePoison_parts
    | with_reducible apply State.dmaRead_parts
    | split
    | dsimp only

theorem State.ceElems_parts {M : Part → Prop} {z : State} {s : State} (h : Parts M z s) (c : CeCtx) (loc f : Nat) (mx :
    Bool) (e i n : Nat) (m_free : M .free) (m_regs : M .regs) (m_mem : M .mem) (m_events : M .events) (m_host : M .host)
    (m_arrays : M .arrays) (m_watch : M .watch) :
    Parts M z (State.ceElems s c loc f mx e i n) := by
  unfold State.ceElems
  repeat' first
    | with_reducible assumption
    | with_reducible apply State.ceRead_parts
    | split
    | dsimp only

theorem State.ceLeafRead_parts {M : Part → Prop} {z : State} {s : State} (h : Parts M z s) (c : CeCtx) (m : Member) (loc
    : Nat) (m_free : M .free) (m_regs : M .regs) (m_mem : M .mem) (m_events : M .events) (m_host : M .host) (m_arrays :
    M .arrays) (m_watch : M .watch) :
    Parts M z (State.ceLeafRead s c m loc) := by
  unfold State.ceLeafRead
  repeat' first
    | with_reducible assumption
    | with_reducible apply State.ceElems_parts
    | with_reducible apply State.ceRead_parts
    | with_reducible refine parts_foldl (fun t x ht => ?_) ?_
    | with_reducible refine parts_foldl_1 (fun t x ht => ?_) ?_
    | with_reducible refine parts_foldl_2 (fun t x ht => ?_) ?_
    | with_reducible refine parts_foldl_3 (fun t x ht => ?_) ?_
    | split
    | dsimp only

theorem State.ceReads_parts {M : Part → Prop} {z : State} {s : State} (h : Parts M z s) (c : CeCtx) (m_free : M .free)
    (m_regs : M .regs) (m_mem : M .mem) (m_events : M .events) (m_host : M .host) (m_arrays : M .arrays) (m_watch : M
    .watch) :
    Parts M z (State.ceReads s c) := by
  unfold State.ceReads
  repeat' first
    | with_reducible assumption
    | with_reducible apply State.ceLeafRead_parts
    | with_reducible apply State.ceElems_parts
    | with_reducible apply State.ceRead_parts
    | with_reducible refine parts_foldl (fun t x ht => ?_) ?_
    | with_reducible refine parts_foldl_1 (fun t x ht => ?_) ?_
    | with_reducible refine parts_foldl_2 (fun t x ht => ?_) ?_
    | with_reducible refine parts_foldl_3 (fun t x ht => ?_) ?_
    | split
    | dsimp only

theorem State.ceCount_parts {M : Part → Prop} {z : State} {s : State} (h : Parts M z s) (c : CeCtx) (m_regs : M .regs) :
    Parts M z (State.ceCount s c) := by
  unfold State.ceCount
  repeat' first
    | with_reducible assumption
    | with_reducible apply State.bump_parts
    | split
    | dsimp only

theorem State.ceTag_parts {M : Part → Prop} {z : State} {s : State} (h : Parts M z s) (c : CeCtx) (m_free : M .free)
    (m_regs : M .regs) (m_mem : M .mem) (m_events : M .events) (m_host : M .host) (m_arrays : M .arrays) (m_watch : M
    .watch) :
    Parts M z (State.ceTag s c) := by
  unfold State.ceTag
  repeat' first
    | with_reducible assumption
    | with_reducible apply State.store_parts
    | with_reducible apply State.bump_parts
    | with_reducible refine parts_foldl (fun t x ht => ?_) ?_
    | split
    | dsimp only

theorem State.ceEnd_parts {M : Part → Prop} {z : State} {s : State} (h : Parts M z s) (c : CeCtx) (fx : Fx) (m_free : M
    .free) (m_regs : M .regs) (m_mem : M .mem) (m_events : M .events) (m_host : M .host) (m_arrays : M .arrays) (m_watch
    : M .watch) (m_runs : M .runs) :
    Parts M z (State.ceEnd s c fx) := by
  unfold State.ceEnd
  repeat' first
    | with_reducible assumption
    | with_reducible apply State.ceTag_parts
    | with_reducible apply State.ceCount_parts
    | with_reducible apply State.cePoison_parts
    | with_reducible apply State.setRun_parts
    | with_reducible apply State.arith_parts
    | split
    | dsimp only

theorem State.ceDown_parts {M : Part → Prop} {z : State} {s : State} (h : Parts M z s) (c : CeCtx) (grp rho : Nat) (r :
    Res) (m_regs : M .regs) (m_sched : M .sched) :
    Parts M z (State.ceDown s c grp rho r) := by
  unfold State.ceDown
  repeat' first
    | with_reducible assumption
    | with_reducible apply State.ceSend_parts
    | with_reducible refine parts_foldl (fun t x ht => ?_) ?_

theorem State.groupStep_parts {M : Part → Prop} {z : State} {s : State} (h : Parts M z s) (c : CeCtx) (grp : Nat) (downs
    : List DownIn) (l : List (Nat × TreeOut)) (m_free : M .free) (m_regs : M .regs) (m_mem : M .mem) (m_events : M
    .events) (m_host : M .host) (m_arrays : M .arrays) (m_watch : M .watch) (m_sched : M .sched) :
    Parts M z (State.groupStep s c grp downs l) := by
  unfold State.groupStep
  repeat' first
    | with_reducible assumption
    | with_reducible apply State.ceDown_parts
    | with_reducible apply State.ceDeliver_parts
    | with_reducible apply State.cePoison_parts
    | with_reducible apply State.ceSend_parts
    | with_reducible refine parts_foldl (fun t x ht => ?_) ?_
    | with_reducible refine parts_foldl_1 (fun t x ht => ?_) ?_
    | with_reducible refine parts_foldl_2 (fun t x ht => ?_) ?_
    | with_reducible refine parts_foldl_3 (fun t x ht => ?_) ?_
    | split
    | dsimp only

theorem State.ceTree_parts {M : Part → Prop} {z : State} {s : State} (h : Parts M z s) (c : CeCtx) (m_free : M .free)
    (m_regs : M .regs) (m_mem : M .mem) (m_events : M .events) (m_host : M .host) (m_arrays : M .arrays) (m_watch : M
    .watch) (m_sched : M .sched) (m_runs : M .runs) :
    Parts M z (State.ceTree s c) := by
  unfold State.ceTree
  repeat' first
    | with_reducible assumption
    | with_reducible apply State.groupStep_parts
    | with_reducible apply State.ceEnd_parts
    | with_reducible apply State.ceReads_parts
    | with_reducible refine parts_foldl (fun t x ht => ?_) ?_
    | with_reducible refine parts_foldl_1 (fun t x ht => ?_) ?_
    | with_reducible refine parts_foldl_2 (fun t x ht => ?_) ?_
    | with_reducible refine parts_foldl_3 (fun t x ht => ?_) ?_
    | split
    | dsimp only

theorem State.ceRecs_parts {M : Part → Prop} {z : State} {s : State} (h : Parts M z s) (c : CeCtx) (m : Member) (l : List
    Rec) (m_free : M .free) (m_regs : M .regs) (m_mem : M .mem) (m_events : M .events) (m_host : M .host)
    (m_arrays : M .arrays) (m_watch : M .watch) (m_sched : M .sched) :
    Parts M z (State.ceRecs s c m l) := by
  unfold State.ceRecs
  repeat' first
    | with_reducible assumption
    | with_reducible apply State.ceSend_parts
    | with_reducible apply State.planWrite_parts
    | with_reducible apply State.poisonLine_parts
    | with_reducible apply State.bump_parts
    | with_reducible refine parts_foldl (fun t x ht => ?_) ?_
    | split
    | dsimp only

theorem State.mergeDeliver_parts {M : Part → Prop} {z : State} {s : State} (h : Parts M z s) (c : CeCtx) (grp : Nat) (l
    : List Rec) (m_free : M .free) (m_regs : M .regs) (m_mem : M .mem) (m_events : M .events) (m_host : M .host)
    (m_arrays : M .arrays) (m_watch : M .watch) (m_sched : M .sched) :
    Parts M z (State.mergeDeliver s c grp l) := by
  unfold State.mergeDeliver
  repeat' first
    | with_reducible assumption
    | with_reducible apply State.ceRecs_parts
    | with_reducible apply State.ceSend_parts
    | with_reducible refine parts_foldl (fun t x ht => ?_) ?_
    | with_reducible refine parts_foldl_1 (fun t x ht => ?_) ?_
    | with_reducible refine parts_foldl_2 (fun t x ht => ?_) ?_
    | with_reducible refine parts_foldl_3 (fun t x ht => ?_) ?_
    | split
    | dsimp only

theorem State.mergeGroup_parts {M : Part → Prop} {z : State} {s : State} (h : Parts M z s) (c : CeCtx) (grp : Nat) (outs
    : List (Nat × List Rec × Nat × Bool)) (m_free : M .free) (m_regs : M .regs) (m_mem : M .mem) (m_events : M .events)
    (m_host : M .host) (m_arrays : M .arrays) (m_watch : M .watch) (m_sched : M .sched) :
    Parts M z (State.mergeGroup s c grp outs) := by
  unfold State.mergeGroup
  repeat' first
    | with_reducible assumption
    | with_reducible apply State.mergeDeliver_parts
    | with_reducible apply State.cePoison_parts
    | with_reducible apply State.ceSend_parts
    | with_reducible apply State.err_parts
    | with_reducible apply State.bump_parts
    | with_reducible refine parts_foldl (fun t x ht => ?_) ?_
    | with_reducible refine parts_foldl_1 (fun t x ht => ?_) ?_
    | with_reducible refine parts_foldl_2 (fun t x ht => ?_) ?_
    | with_reducible refine parts_foldl_3 (fun t x ht => ?_) ?_
    | split
    | dsimp only

theorem State.mergeDowns_parts {M : Part → Prop} {z : State} {s : State} (h : Parts M z s) (c : CeCtx) (downs : List
    DownIn) (m_free : M .free) (m_regs : M .regs) (m_mem : M .mem) (m_events : M .events) (m_host : M .host) (m_arrays :
    M .arrays) (m_watch : M .watch) (m_sched : M .sched) :
    Parts M z (State.mergeDowns s c downs) := by
  unfold State.mergeDowns
  repeat' first
    | with_reducible assumption
    | with_reducible apply State.mergeDeliver_parts
    | with_reducible apply State.cePoison_parts
    | with_reducible refine parts_foldl (fun t x ht => ?_) ?_
    | split
    | dsimp only

theorem State.ceMerge_parts {M : Part → Prop} {z : State} {s : State} (h : Parts M z s) (c0 : CeCtx) (m_free : M .free)
    (m_regs : M .regs) (m_mem : M .mem) (m_events : M .events) (m_host : M .host) (m_arrays : M .arrays) (m_watch : M
    .watch) (m_sched : M .sched) (m_runs : M .runs) :
    Parts M z (State.ceMerge s c0) := by
  unfold State.ceMerge
  repeat' first
    | with_reducible assumption
    | with_reducible apply State.mergeDowns_parts
    | with_reducible apply State.mergeGroup_parts
    | with_reducible apply State.ceEnd_parts
    | with_reducible apply State.ceReads_parts
    | with_reducible refine parts_foldl (fun t x ht => ?_) ?_
    | with_reducible refine parts_foldl_1 (fun t x ht => ?_) ?_
    | with_reducible refine parts_foldl_2 (fun t x ht => ?_) ?_
    | with_reducible refine parts_foldl_3 (fun t x ht => ?_) ?_
    | split
    | dsimp only

theorem State.scanMember_parts {M : Part → Prop} {z : State} {s : State} (h : Parts M z s) (c : CeCtx) (m : Member)
    (m_free : M .free) (m_regs : M .regs) (m_mem : M .mem) (m_events : M .events) (m_host : M .host) (m_arrays : M
    .arrays) (m_watch : M .watch) (m_sched : M .sched) :
    Parts M z (State.scanMember s c m).1 := by
  unfold State.scanMember
  repeat' first
    | with_reducible assumption
    | with_reducible apply State.ceDeliver_parts
    | with_reducible apply State.cePoison_parts
    | split
    | dsimp only

theorem State.scanUp_parts {M : Part → Prop} {z : State} {t : State} (h : Parts M z t) (s : State) (c : CeCtx) (x : Need × Bind) (m_free : M .free) (m_regs : M .regs) (m_events : M .events) (m_host : M .host) (m_sched : M .sched) : Parts M z (State.scanUp s t c x).1 := by
  unfold State.scanUp
  repeat' first
    | with_reducible assumption
    | with_reducible apply State.cePoison_parts
    | with_reducible apply State.ceSend_parts
    | split
    | dsimp only

theorem State.ceScan_parts {M : Part → Prop} {z : State} {s : State} (h : Parts M z s) (c : CeCtx) (m_free : M .free)
    (m_regs : M .regs) (m_mem : M .mem) (m_events : M .events) (m_host : M .host) (m_arrays : M .arrays) (m_watch : M
    .watch) (m_sched : M .sched) (m_runs : M .runs) :
    Parts M z (State.ceScan s c) := by
  unfold State.ceScan
  repeat' first
    | with_reducible assumption
    | with_reducible apply State.scanUp_parts
    | with_reducible apply State.scanMember_parts
    | with_reducible apply State.ceEnd_parts
    | with_reducible apply foldFx_parts
    | with_reducible apply State.ceReads_parts
    | with_reducible refine foldFx_parts (fun t x ht => ?_) ?_
    | intro _
    | split
    | dsimp only

theorem State.ceRows_parts {M : Part → Prop} {z : State} {s : State} (h : Parts M z s) (c : CeCtx) (m : Member) (k :
    Nat) (l : List (List Byte × Bool)) (m_free : M .free) (m_regs : M .regs) (m_mem : M .mem) (m_events : M .events)
    (m_host : M .host) (m_arrays : M .arrays) (m_watch : M .watch) (m_sched : M .sched) :
    Parts M z (State.ceRows s c m k l) := by
  unfold State.ceRows
  repeat' first
    | with_reducible assumption
    | with_reducible apply State.ceSend_parts
    | with_reducible apply State.bump_parts
    | with_reducible apply State.planPoison_parts
    | with_reducible apply State.planWrite_parts
    | with_reducible refine parts_foldl (fun t x ht => ?_) ?_
    | with_reducible refine parts_foldl_1 (fun t x ht => ?_) ?_
    | with_reducible refine parts_foldl_2 (fun t x ht => ?_) ?_
    | with_reducible refine parts_foldl_3 (fun t x ht => ?_) ?_
    | split
    | dsimp only

theorem State.attnDeliver_parts {M : Part → Prop} {z : State} {s : State} (h : Parts M z s) (c : CeCtx) (grp k : Nat) (l
    : List (List Byte × Bool)) (m_free : M .free) (m_regs : M .regs) (m_mem : M .mem) (m_events : M .events) (m_host : M
    .host) (m_arrays : M .arrays) (m_watch : M .watch) (m_sched : M .sched) :
    Parts M z (State.attnDeliver s c grp k l) := by
  unfold State.attnDeliver
  repeat' first
    | with_reducible assumption
    | with_reducible apply State.ceRows_parts
    | with_reducible apply State.ceSend_parts
    | with_reducible refine parts_foldl (fun t x ht => ?_) ?_
    | with_reducible refine parts_foldl_1 (fun t x ht => ?_) ?_
    | with_reducible refine parts_foldl_2 (fun t x ht => ?_) ?_
    | with_reducible refine parts_foldl_3 (fun t x ht => ?_) ?_
    | split
    | dsimp only

theorem State.attnDown_parts {M : Part → Prop} {z : State} {s : State} (h : Parts M z s) (c : CeCtx) (x : DownIn)
    (m_free : M .free) (m_regs : M .regs) (m_mem : M .mem) (m_events : M .events) (m_host : M .host) (m_arrays : M
    .arrays) (m_watch : M .watch) (m_sched : M .sched) :
    Parts M z (State.attnDown s c x) := by
  unfold State.attnDown
  repeat' first
    | with_reducible assumption
    | with_reducible apply State.attnDeliver_parts
    | with_reducible apply State.cePoison_parts
    | split
    | dsimp only

theorem State.attnGroup_parts {M : Part → Prop} {z : State} {s : State} (h : Parts M z s) (c : CeCtx) (grp : Nat) (outs
    : List (Nat × List Row × Fx)) (m_free : M .free) (m_regs : M .regs) (m_mem : M .mem) (m_events : M .events) (m_host
    : M .host) (m_arrays : M .arrays) (m_watch : M .watch) (m_sched : M .sched) :
    Parts M z (State.attnGroup s c grp outs).1 := by
  unfold State.attnGroup
  repeat' first
    | with_reducible assumption
    | with_reducible apply State.attnDeliver_parts
    | with_reducible apply State.ceRows_parts
    | with_reducible apply State.cePoison_parts
    | with_reducible apply State.ceSend_parts
    | with_reducible refine parts_foldl (fun t x ht => ?_) ?_
    | with_reducible refine parts_foldl_1 (fun t x ht => ?_) ?_
    | with_reducible refine parts_foldl_2 (fun t x ht => ?_) ?_
    | with_reducible refine parts_foldl_3 (fun t x ht => ?_) ?_
    | split
    | dsimp only

theorem State.ceAttn_parts {M : Part → Prop} {z : State} {s : State} (h : Parts M z s) (c : CeCtx) (m_free : M .free)
    (m_regs : M .regs) (m_mem : M .mem) (m_events : M .events) (m_host : M .host) (m_arrays : M .arrays) (m_watch : M
    .watch) (m_sched : M .sched) (m_runs : M .runs) :
    Parts M z (State.ceAttn s c) := by
  unfold State.ceAttn
  repeat' first
    | with_reducible assumption
    | with_reducible apply State.attnGroup_parts
    | with_reducible apply State.attnDown_parts
    | with_reducible apply State.ceEnd_parts
    | with_reducible apply foldFx_parts
    | with_reducible apply State.ceReads_parts
    | with_reducible refine foldFx_parts (fun t x ht => ?_) ?_
    | with_reducible refine parts_foldl (fun t x ht => ?_) ?_
    | with_reducible refine parts_foldl_1 (fun t x ht => ?_) ?_
    | with_reducible refine parts_foldl_2 (fun t x ht => ?_) ?_
    | with_reducible refine parts_foldl_3 (fun t x ht => ?_) ?_
    | intro _
    | split
    | dsimp only

theorem State.ceBound_parts {M : Part → Prop} {z : State} {s : State} (h : Parts M z s) (c : CeCtx) (rank pos val : Nat)
    (m_free : M .free) (m_regs : M .regs) (m_events : M .events) (m_host : M .host) :
    Parts M z (State.ceBound s c rank pos val) := by
  unfold State.ceBound
  repeat' first
    | with_reducible assumption
    | with_reducible apply State.err_parts
    | with_reducible apply State.wrs_parts
    | with_reducible apply State.bump_parts
    | with_reducible apply State.again_parts
    | split
    | dsimp only

theorem State.indexFaults_parts {M : Part → Prop} {z : State} {s : State} (h : Parts M z s) (c : CeCtx) (m : Member) (n
    : Nat) (lo hi : Int) (m_free : M .free) (m_regs : M .regs) (m_events : M .events) (m_host : M .host) :
    Parts M z (State.indexFaults s c m n lo hi) := by
  unfold State.indexFaults
  repeat' first
    | with_reducible assumption
    | with_reducible apply State.ceBound_parts
    | with_reducible refine parts_foldl (fun t x ht => ?_) ?_
    | with_reducible refine parts_foldl_1 (fun t x ht => ?_) ?_
    | with_reducible refine parts_foldl_2 (fun t x ht => ?_) ?_
    | with_reducible refine parts_foldl_3 (fun t x ht => ?_) ?_
    | split
    | dsimp only

theorem State.capDrops_parts {M : Part → Prop} {z : State} {s : State} (h : Parts M z s) (c : CeCtx) (m : Member)
    (m_regs : M .regs) :
    Parts M z (State.capDrops s c m) := by
  unfold State.capDrops
  repeat' first
    | with_reducible assumption
    | with_reducible apply State.bump_parts
    | split
    | dsimp only

theorem State.allToAllDst_parts {M : Part → Prop} {z : State} {s : State} (h : Parts M z s) (c : CeCtx) (m : Member)
    (m_free : M .free) (m_regs : M .regs) (m_mem : M .mem) (m_events : M .events) (m_host : M .host) (m_arrays : M
    .arrays) (m_watch : M .watch) (m_sched : M .sched) :
    Parts M z (State.allToAllDst s c m).1 := by
  unfold State.allToAllDst
  repeat' first
    | with_reducible assumption
    | with_reducible apply State.ceDeliver_parts
    | with_reducible apply State.cePoison_parts
    | with_reducible apply State.bump_parts
    | with_reducible apply State.planPoison_parts
    | with_reducible apply State.planWrite_parts
    | split
    | dsimp only

theorem State.ceAllToAll_parts {M : Part → Prop} {z : State} {s : State} (h : Parts M z s) (c0 : CeCtx) (m_free : M
    .free) (m_regs : M .regs) (m_mem : M .mem) (m_events : M .events) (m_host : M .host) (m_arrays : M .arrays) (m_watch
    : M .watch) (m_sched : M .sched) (m_runs : M .runs) :
    Parts M z (State.ceAllToAll s c0) := by
  unfold State.ceAllToAll
  repeat' first
    | with_reducible assumption
    | with_reducible apply State.allToAllDst_parts
    | with_reducible apply State.capDrops_parts
    | with_reducible apply State.indexFaults_parts
    | with_reducible apply State.ceEnd_parts
    | with_reducible apply foldFx_parts
    | with_reducible apply State.ceReads_parts
    | with_reducible refine foldFx_parts (fun t x ht => ?_) ?_
    | with_reducible refine parts_foldl (fun t x ht => ?_) ?_
    | with_reducible refine parts_foldl_1 (fun t x ht => ?_) ?_
    | with_reducible refine parts_foldl_2 (fun t x ht => ?_) ?_
    | with_reducible refine parts_foldl_3 (fun t x ht => ?_) ?_
    | intro _
    | split
    | dsimp only

theorem State.gatherMember_parts {M : Part → Prop} {z : State} {s : State} (h : Parts M z s) (c : CeCtx) (m : Member)
    (m_free : M .free) (m_regs : M .regs) (m_mem : M .mem) (m_events : M .events) (m_host : M .host) (m_arrays : M
    .arrays) (m_watch : M .watch) (m_sched : M .sched) :
    Parts M z (State.gatherMember s c m).1 := by
  unfold State.gatherMember
  repeat' first
    | with_reducible assumption
    | with_reducible apply State.ceDeliver_parts
    | with_reducible apply State.cePoison_parts
    | split
    | dsimp only

theorem State.ceGatherIdx_parts {M : Part → Prop} {z : State} {s : State} (h : Parts M z s) (c0 : CeCtx) (m_free : M
    .free) (m_regs : M .regs) (m_mem : M .mem) (m_events : M .events) (m_host : M .host) (m_arrays : M .arrays) (m_watch
    : M .watch) (m_sched : M .sched) (m_runs : M .runs) :
    Parts M z (State.ceGatherIdx s c0) := by
  unfold State.ceGatherIdx
  repeat' first
    | with_reducible assumption
    | with_reducible apply State.gatherMember_parts
    | with_reducible apply State.indexFaults_parts
    | with_reducible apply State.ceEnd_parts
    | with_reducible apply foldFx_parts
    | with_reducible apply State.ceReads_parts
    | with_reducible refine foldFx_parts (fun t x ht => ?_) ?_
    | with_reducible refine parts_foldl (fun t x ht => ?_) ?_
    | with_reducible refine parts_foldl_1 (fun t x ht => ?_) ?_
    | with_reducible refine parts_foldl_2 (fun t x ht => ?_) ?_
    | with_reducible refine parts_foldl_3 (fun t x ht => ?_) ?_
    | intro _
    | split
    | dsimp only

theorem State.scatterMember_parts {M : Part → Prop} {z : State} {s : State} (h : Parts M z s) (c : CeCtx) (m : Member)
    (m_free : M .free) (m_regs : M .regs) (m_mem : M .mem) (m_events : M .events) (m_host : M .host) (m_arrays : M
    .arrays) (m_watch : M .watch) :
    Parts M z (State.scatterMember s c m).1 := by
  unfold State.scatterMember
  repeat' first
    | with_reducible assumption
    | with_reducible apply foldFx_parts
    | with_reducible apply State.ceWrite_parts
    | with_reducible apply State.cePoison_parts
    | with_reducible refine foldFx_parts (fun t x ht => ?_) ?_
    | with_reducible refine parts_foldl (fun t x ht => ?_) ?_
    | with_reducible refine parts_foldl_1 (fun t x ht => ?_) ?_
    | with_reducible refine parts_foldl_2 (fun t x ht => ?_) ?_
    | with_reducible refine parts_foldl_3 (fun t x ht => ?_) ?_
    | intro _
    | split
    | dsimp only

theorem State.ceScatterIdx_parts {M : Part → Prop} {z : State} {s : State} (h : Parts M z s) (c0 : CeCtx) (m_free : M
    .free) (m_regs : M .regs) (m_mem : M .mem) (m_events : M .events) (m_host : M .host) (m_arrays : M .arrays) (m_watch
    : M .watch) (m_runs : M .runs) :
    Parts M z (State.ceScatterIdx s c0) := by
  unfold State.ceScatterIdx
  repeat' first
    | with_reducible assumption
    | with_reducible apply State.scatterMember_parts
    | with_reducible apply State.indexFaults_parts
    | with_reducible apply State.ceEnd_parts
    | with_reducible apply foldFx_parts
    | with_reducible apply State.ceReads_parts
    | with_reducible refine foldFx_parts (fun t x ht => ?_) ?_
    | with_reducible refine parts_foldl (fun t x ht => ?_) ?_
    | with_reducible refine parts_foldl_1 (fun t x ht => ?_) ?_
    | with_reducible refine parts_foldl_2 (fun t x ht => ?_) ?_
    | with_reducible refine parts_foldl_3 (fun t x ht => ?_) ?_
    | intro _
    | split
    | dsimp only

theorem State.tailStep_parts {M : Part → Prop} {z : State} {s : State} (h : Parts M z s) (r : Run) (m_free : M .free)
    (m_regs : M .regs) (m_mem : M .mem) (m_events : M .events) (m_host : M .host) (m_arrays : M .arrays) (m_watch : M
    .watch) (m_sched : M .sched) (m_runs : M .runs) :
    Parts M z (State.tailStep s r) := by
  unfold State.tailStep
  repeat' first
    | with_reducible exact Or.inr rfl
    | with_reducible exact Or.inr ⟨rfl, rfl, rfl, rfl, rfl⟩
    | with_reducible exact Or.inl (by assumption)
    | with_reducible assumption
    | with_reducible apply State.attnDown_parts
    | with_reducible apply State.mergeDowns_parts
    | with_reducible apply State.groupStep_parts
    | with_reducible refine parts_foldl (fun t x ht => ?_) ?_
    | split
    | dsimp only
    | with_reducible apply parts_mk

theorem State.tails_parts {M : Part → Prop} {z : State} {s : State} (h : Parts M z s) (m_free : M .free) (m_regs : M
    .regs) (m_mem : M .mem) (m_events : M .events) (m_host : M .host) (m_arrays : M .arrays) (m_watch : M .watch)
    (m_sched : M .sched) (m_runs : M .runs) :
    Parts M z (State.tails s) := by
  unfold State.tails
  repeat' first
    | with_reducible assumption
    | with_reducible apply State.tailStep_parts
    | with_reducible refine parts_foldl (fun t x ht => ?_) ?_
    | split
    | dsimp only

theorem State.ceRun_parts {M : Part → Prop} {z : State} {s : State} (h : Parts M z s) (ce slot op : Nat) (f : CeCtx → State)
    (hf : ∀ c, Parts M z (f c)) : Parts M z (State.ceRun s ce slot op f) := by
  unfold State.ceRun
  split
  · dsimp only
    split
    · exact hf _
    · exact h
  · exact h

theorem State.partialFold_parts {M : Part → Prop} {z : State} {s : State} (h : Parts M z s) (ce slot rank : Nat) (m_runs
    : M .runs) :
    Parts M z (State.partialFold s ce slot rank) := by
  unfold State.partialFold
  repeat' first
    | with_reducible assumption
    | with_reducible apply State.setRun_parts
    | with_reducible refine parts_foldl (fun t x ht => ?_) ?_
    | with_reducible refine parts_foldl_1 (fun t x ht => ?_) ?_
    | with_reducible refine parts_foldl_2 (fun t x ht => ?_) ?_
    | with_reducible refine parts_foldl_3 (fun t x ht => ?_) ?_
    | split
    | dsimp only

end Sys2Proof.Machine
end

