-- ==== Sys2Proof/Laws/PartsCodec.lean ====
section
/-! SUPPORT. What the operations of Codec.lean touch (Parts). -/

namespace Sys2Proof.Machine

open Sys2Proof

theorem State.cdcRead_parts {M : Part → Prop} {z : State} {s : State} (h : Parts M z s) (p : PageId) (l : List (Nat ×
    Nat)) (m_free : M .free) (m_regs : M .regs) (m_mem : M .mem) (m_events : M .events) (m_host : M .host)
    (m_arrays : M .arrays) (m_watch : M .watch) :
    Parts M z (State.cdcRead s p l) := by
  unfold State.cdcRead
  repeat' first
    | with_reducible assumption
    | with_reducible apply State.dmaRead_parts
    | with_reducible refine parts_foldl (fun t x ht => ?_) ?_

theorem State.cdcBound_parts {M : Part → Prop} {z : State} {s : State} (h : Parts M z s) (p : PageId) (step : Nat) (e :
    BoundEv) (m_free : M .free) (m_regs : M .regs) (m_events : M .events) (m_host : M .host) :
    Parts M z (State.cdcBound s p step e) := by
  unfold State.cdcBound
  repeat' first
    | with_reducible assumption
    | with_reducible apply State.err_parts
    | with_reducible apply State.wrs_parts
    | with_reducible apply State.bump_parts
    | with_reducible apply State.again_parts
    | split
    | dsimp only

theorem State.srcReads_parts {M : Part → Prop} {z : State} {s : State} (h : Parts M z s) (p : PageId) (step : Nat) (j :
    Job) (b n : Nat) (m_free : M .free) (m_regs : M .regs) (m_mem : M .mem) (m_events : M .events) (m_host : M .host)
    (m_arrays : M .arrays) (m_watch : M .watch) :
    Parts M z (State.srcReads s p step j b n) := by
  unfold State.srcReads
  repeat' first
    | with_reducible assumption
    | with_reducible apply State.cdcBound_parts
    | with_reducible apply State.cdcRead_parts
    | with_reducible apply State.err_parts
    | with_reducible refine parts_foldl (fun t x ht => ?_) ?_
    | split
    | dsimp only

theorem State.denseWrite_parts {M : Part → Prop} {z : State} {s : State} (h : Parts M z s) (j : Job) (b : Nat) (l : List
    Blk) (m_free : M .free) (m_regs : M .regs) (m_mem : M .mem) (m_events : M .events) (m_host : M .host)
    (m_arrays : M .arrays) (m_watch : M .watch) :
    Parts M z (State.denseWrite s j b l) := by
  unfold State.denseWrite
  repeat' first
    | with_reducible assumption
    | with_reducible apply State.planElems_parts
    | with_reducible apply State.planPoison_parts
    | with_reducible apply State.planWrite_parts
    | with_reducible refine parts_foldl (fun t x ht => ?_) ?_
    | split

theorem State.codedOver_parts {M : Part → Prop} {z : State} {s : State} (h : Parts M z s) (c sid excess : Nat)
    (m_free : M .free) (m_regs : M .regs) (m_events : M .events) (m_host : M .host) (m_belfry : M .belfry) :
    Parts M z (State.codedOver s c sid excess) := by
  unfold State.codedOver
  repeat' first
    | with_reducible assumption
    | with_reducible apply State.err_parts
    | with_reducible apply State.overrun_parts
    | with_reducible apply State.bump_parts
    | split

theorem State.countRecords_parts {M : Part → Prop} {z : State} {s : State} (h : Parts M z s) (p : PageId) (f : Nat) (mx :
    Bool) (tiles : List (List Blk)) (m_regs : M .regs) :
    Parts M z (State.countRecords s p f mx tiles) := by
  unfold State.countRecords
  repeat' first
    | with_reducible assumption
    | with_reducible apply State.bump_parts

theorem State.codecVerify_parts {M : Part → Prop} {z : State} {s : State} (h : Parts M z s) (c sid n : Nat) (m_free : M
    .free) (m_regs : M .regs) (m_events : M .events) (m_host : M .host) (m_arrays : M .arrays) (m_watch : M .watch) :
    Parts M z (State.codecVerify s c sid n) := by
  unfold State.codecVerify
  repeat' first
    | with_reducible exact Or.inr rfl
    | with_reducible exact Or.inr ⟨rfl, rfl, rfl, rfl, rfl⟩
    | with_reducible exact Or.inl (by assumption)
    | with_reducible assumption
    | with_reducible apply State.tickFault_parts
    | with_reducible apply State.err_parts
    | with_reducible apply State.bump_parts
    | split
    | dsimp only
    | with_reducible apply parts_mk

theorem State.encodeOut_parts {M : Part → Prop} {z : State} {s : State} (h : Parts M z s) (c sid cap f : Nat) (mx :
    Bool) (t0 : Nat) (l : List Blk) (m_free : M .free) (m_regs : M .regs) (m_events : M .events) (m_host : M .host)
    (m_belfry : M .belfry) (m_arrays : M .arrays) (m_watch : M .watch) (m_sched : M .sched) :
    Parts M z (State.encodeOut s c sid cap f mx t0 l) := by
  unfold State.encodeOut
  repeat' first
    | with_reducible assumption
    | with_reducible apply State.codecVerify_parts
    | with_reducible apply State.countRecords_parts
    | with_reducible apply State.codedOver_parts
    | with_reducible apply State.stage_parts
    | with_reducible apply State.bump_parts
    | split
    | dsimp only

theorem State.codecEncode_parts {M : Part → Prop} {z : State} {s : State} (h : Parts M z s) (c : Nat) (r : Run)
    (m_free : M .free) (m_regs : M .regs) (m_mem : M .mem) (m_events : M .events) (m_host : M .host)
    (m_belfry : M .belfry) (m_arrays : M .arrays) (m_watch : M .watch) (m_sched : M .sched) (m_runs : M .runs) :
    Parts M z (State.codecEncode s c r) := by
  unfold State.codecEncode
  repeat' first
    | with_reducible assumption
    | with_reducible apply State.encodeOut_parts
    | with_reducible apply State.srcReads_parts
    | with_reducible apply State.finish_parts
    | with_reducible apply State.bump_parts

theorem State.poisonRecords_parts {M : Part → Prop} {z : State} {s : State} (h : Parts M z s) (p : PageId) (n : Nat)
    (m_free : M .free) (m_regs : M .regs) (m_events : M .events) (m_host : M .host) :
    Parts M z (State.poisonRecords s p n) := by
  unfold State.poisonRecords
  repeat' first
    | with_reducible assumption
    | with_reducible apply State.err_parts
    | with_reducible apply State.bump_parts
    | split

theorem State.sliceEffects_parts {M : Part → Prop} {z : State} {s : State} (h : Parts M z s) (p : PageId) (step : Nat) (l
    : List (Option (List Blk × List BoundEv))) (m_free : M .free) (m_regs : M .regs) (m_events : M .events)
    (m_host : M .host) :
    Parts M z (State.sliceEffects s p step l) := by
  unfold State.sliceEffects
  repeat' first
    | with_reducible assumption
    | with_reducible apply State.poisonRecords_parts
    | with_reducible apply State.cdcBound_parts
    | with_reducible refine parts_foldl (fun t x ht => ?_) ?_
    | split

theorem State.storeTile_parts {M : Part → Prop} {z : State} {s : State} (h : Parts M z s) (j : Job) (g : Seg) (tile ptr :
    Nat) (l : List Blk)
    {x : State × Nat} (e : s.storeTile j g tile ptr l = some x) (m_free : M .free) (m_regs : M .regs) (m_mem : M .mem)
        (m_events : M .events) (m_host : M .host) (m_arrays : M .arrays) (m_watch : M .watch) : Parts M z x.1 := by
  unfold State.storeTile at e
  dsimp only at e
  split at e
  · cases e
  · cases e
    refine parts_foldl (fun t x ht => ?_) ?_
    · split
      · exact State.planPoison_parts ht _ _ _ (m_mem := m_mem) (m_arrays := m_arrays)
      · exact ht
    · exact State.planWrite_parts (State.planWrite_parts h _ _ _ (m_free := m_free) (m_regs := m_regs) (m_mem := m_mem)
          (m_events := m_events) (m_host := m_host) (m_arrays := m_arrays) (m_watch := m_watch)) _ _ _ (m_free := m_free)
          (m_regs := m_regs) (m_mem := m_mem) (m_events := m_events) (m_host := m_host) (m_arrays := m_arrays)
          (m_watch := m_watch)

theorem State.storeTiles_parts {M : Part → Prop} {z : State} (j : Job) (g : Seg) (m_free : M .free) (m_regs : M .regs)
    (m_mem : M .mem) (m_events : M .events) (m_host : M .host) (m_arrays : M .arrays) (m_watch : M .watch) :
    ∀ (l : List (List Blk)) {s : State} (_ : Parts M z s) (tile ptr : Nat), Parts M z (State.storeTiles j g s tile ptr l).1
  | [], _, h, _, _ => h
  | b :: l, s, h, tile, ptr => by
    unfold State.storeTiles
    split
    · exact State.storeTiles_parts j g l (State.storeTile_parts h j g tile ptr b (by assumption) (m_free := m_free)
          (m_regs := m_regs) (m_mem := m_mem) (m_events := m_events) (m_host := m_host) (m_arrays := m_arrays)
          (m_watch := m_watch)) _ _ (m_free := m_free) (m_regs := m_regs) (m_mem := m_mem) (m_events := m_events)
          (m_host := m_host) (m_arrays := m_arrays) (m_watch := m_watch)
    · exact h

theorem State.storeSparse_parts {M : Part → Prop} {z : State} {s : State} (h : Parts M z s) (p : PageId) (r : Run) (j :
    Job) (g : Seg) (tiles : List (List Blk)) (m_free : M .free) (m_regs : M .regs) (m_mem : M .mem) (m_events : M .events)
    (m_host : M .host) (m_arrays : M .arrays) (m_watch : M .watch) (m_runs : M .runs) :
    Parts M z (State.storeSparse s p r j g tiles) := by
  unfold State.storeSparse
  repeat' first
    | with_reducible assumption
    | with_reducible apply State.storeTiles_parts
    | with_reducible apply State.setRun_parts
    | with_reducible apply State.planWrite_parts
    | with_reducible apply State.tickFault_parts
    | with_reducible apply State.err_parts
    | split
    | dsimp only

theorem State.codecStore_parts {M : Part → Prop} {z : State} {s : State} (h : Parts M z s) (c : Nat) (r : Run) (m_free :
    M .free) (m_regs : M .regs) (m_mem : M .mem) (m_events : M .events) (m_host : M .host) (m_arrays : M .arrays)
    (m_watch : M .watch) (m_runs : M .runs) :
    Parts M z (State.codecStore s c r) := by
  unfold State.codecStore
  repeat' first
    | with_reducible assumption
    | with_reducible apply State.storeSparse_parts
    | with_reducible apply State.sliceEffects_parts
    | with_reducible apply State.denseWrite_parts
    | with_reducible apply State.finish_parts
    | with_reducible apply State.bump_parts
    | split
    | dsimp only

theorem State.v24_parts {M : Part → Prop} {z : State} {s : State} (h : Parts M z s) (p : PageId) (step g nz : Nat)
    (m_regs : M .regs) :
    Parts M z (State.v24 s p step g nz) := by
  unfold State.v24
  repeat' first
    | with_reducible assumption
    | with_reducible apply State.wrs_parts
    | with_reducible apply State.bump_parts
    | with_reducible apply State.again_parts
    | split
    | dsimp only

theorem State.violation_parts {M : Part → Prop} {z : State} {s : State} (h : Parts M z s) (p : PageId) (r : Run) (j : Job)
    (g nz : Nat) (m_free : M .free) (m_regs : M .regs) (m_events : M .events) (m_host : M .host) (m_watch : M .watch) :
    Parts M z (State.violation s p r j g nz) := by
  unfold State.violation
  repeat' first
    | with_reducible assumption
    | with_reducible apply State.v24_parts
    | with_reducible apply State.tickFault_parts
    | with_reducible apply State.err_parts
    | with_reducible apply State.bump_parts
    | split

theorem State.packBlk_parts {M : Part → Prop} {z : State} {s : State} (h : Parts M z s) (p : PageId) (r : Run) (j : Job)
    (b : Nat) (x : Blk) (m_free : M .free) (m_regs : M .regs) (m_mem : M .mem) (m_events : M .events) (m_host : M .host)
    (m_arrays : M .arrays) (m_watch : M .watch) :
    Parts M z (State.packBlk s p r j b x) := by
  unfold State.packBlk
  repeat' first
    | with_reducible assumption
    | with_reducible apply State.violation_parts
    | with_reducible apply State.planElems_parts
    | with_reducible apply State.planWrite_parts
    | with_reducible refine parts_foldl (fun t x ht => ?_) ?_
    | with_reducible refine parts_foldl_1 (fun t x ht => ?_) ?_
    | with_reducible refine parts_foldl_2 (fun t x ht => ?_) ?_
    | with_reducible refine parts_foldl_3 (fun t x ht => ?_) ?_
    | split
    | dsimp only

theorem State.codecPack_parts {M : Part → Prop} {z : State} {s : State} (h : Parts M z s) (c : Nat) (r : Run)
    (m_free : M .free) (m_regs : M .regs) (m_mem : M .mem) (m_events : M .events) (m_host : M .host)
    (m_arrays : M .arrays) (m_watch : M .watch) (m_runs : M .runs) :
    Parts M z (State.codecPack s c r) := by
  unfold State.codecPack
  repeat' first
    | with_reducible assumption
    | with_reducible apply State.packBlk_parts
    | with_reducible apply State.srcReads_parts
    | with_reducible apply State.finish_parts
    | with_reducible apply State.bump_parts
    | with_reducible refine parts_foldl (fun t x ht => ?_) ?_

theorem State.codecExpand_parts {M : Part → Prop} {z : State} {s : State} (h : Parts M z s) (c : Nat) (r : Run)
    (m_free : M .free) (m_regs : M .regs) (m_mem : M .mem) (m_events : M .events) (m_host : M .host)
    (m_arrays : M .arrays) (m_watch : M .watch) (m_runs : M .runs) :
    Parts M z (State.codecExpand s c r) := by
  unfold State.codecExpand
  repeat' first
    | with_reducible assumption
    | with_reducible apply State.denseWrite_parts
    | with_reducible apply State.srcReads_parts
    | with_reducible apply State.finish_parts
    | with_reducible apply State.bump_parts

theorem State.putDense_parts {M : Part → Prop} {z : State} {s : State} (h : Parts M z s) (sid : Nat) (l : List Chunk)
    (m_sched : M .sched) :
    Parts M z (State.putDense s sid l) := by
  unfold State.putDense
  repeat' first
    | with_reducible assumption
    | with_reducible apply State.setSched_parts

theorem State.decodeSlice_parts {M : Part → Prop} {z : State} {s : State} (h : Parts M z s) (c sid : Nat) (m_free : M
    .free) (m_regs : M .regs) (m_events : M .events) (m_host : M .host) (m_sched : M .sched) :
    Parts M z (State.decodeSlice s c sid) := by
  unfold State.decodeSlice
  repeat' first
    | with_reducible assumption
    | with_reducible apply State.putDense_parts
    | with_reducible apply State.sliceEffects_parts
    | with_reducible apply State.bump_parts
    | split
    | dsimp only

end Sys2Proof.Machine
end

