-- ==== Sys2Proof/Laws/PartsLinks.lean ====
section
/-! SUPPORT. What the operations of Links.lean touch (Parts). -/

namespace Sys2Proof.Machine

open Sys2Proof

theorem State.setLstate_parts {M : Part → Prop} {z : State} {s : State} (h : Parts M z s) (l v : Nat) (m_free : M .free)
    (m_regs : M .regs) (m_events : M .events) (m_host : M .host) (m_links : M .links) :
    Parts M z (State.setLstate s l v) := by
  unfold State.setLstate
  repeat' first
    | with_reducible assumption
    | with_reducible apply State.eventE_parts
    | with_reducible apply State.wr_parts
    | with_reducible apply State.setLink_parts
    | split
    | dsimp only

theorem State.tryStart_parts {M : Part → Prop} {z : State} {s : State} (h : Parts M z s) (l : Nat) (m_out : M .out)
    (m_free : M .free) (m_regs : M .regs) (m_events : M .events) (m_host : M .host) (m_links : M .links) :
    Parts M z (State.tryStart s l) := by
  unfold State.tryStart
  repeat' first
    | with_reducible assumption
    | with_reducible apply State.setLstate_parts
    | with_reducible apply State.sendTraining_parts
    | with_reducible apply State.setLink_parts
    | split
    | dsimp only

theorem State.dropLink_parts {M : Part → Prop} {z : State} {s : State} (h : Parts M z s) (l : Nat) (m_free : M .free)
    (m_regs : M .regs) (m_events : M .events) (m_host : M .host) (m_links : M .links) (m_opn : M .opn) :
    Parts M z (State.dropLink s l) := by
  unfold State.dropLink
  repeat' first
    | with_reducible assumption
    | with_reducible apply State.endInput_parts
    | with_reducible apply State.wri_parts
    | with_reducible apply State.setLink_parts
    | with_reducible refine parts_foldl (fun t x ht => ?_) ?_
    | split
    | dsimp only

theorem State.discardQueued_parts {M : Part → Prop} {z : State} {s : State} (h : Parts M z s) (k o : Nat) (m_free : M
    .free) (m_regs : M .regs) (m_events : M .events) (m_host : M .host) (m_opn : M .opn) (m_sched : M .sched) :
    Parts M z (State.discardQueued s k o) := by
  unfold State.discardQueued
  repeat' first
    | with_reducible assumption
    | with_reducible apply State.stage_parts
    | with_reducible apply State.err_parts
    | with_reducible apply State.setQueue_parts
    | with_reducible apply State.setOpn_parts
    | with_reducible apply State.bump_parts
    | with_reducible refine parts_foldl (fun t x ht => ?_) ?_
    | split
    | dsimp only

theorem State.releaseReady_parts {M : Part → Prop} {z : State} {s : State} (h : Parts M z s) (l : List Ready) (m_out : M
    .out) (m_links : M .links) :
    Parts M z (State.releaseReady s l) := by
  unfold State.releaseReady
  repeat' first
    | with_reducible assumption
    | with_reducible apply State.returnCredit_parts
    | with_reducible refine parts_foldl (fun t x ht => ?_) ?_
    | split
    | dsimp only

theorem State.dropOwn_parts {M : Part → Prop} {z : State} {s : State} (h : Parts M z s) (l : Nat) (m_links : M .links)
    (m_opn : M .opn) :
    Parts M z (State.dropOwn s l) := by
  unfold State.dropOwn
  repeat' first
    | with_reducible assumption
    | with_reducible apply State.setOpn_parts
    | with_reducible apply State.setLink_parts
    | split
    | dsimp only

theorem State.dropOutput_parts {M : Part → Prop} {z : State} {s : State} (h : Parts M z s) (l : Nat) (m_out : M .out)
    (m_free : M .free) (m_regs : M .regs) (m_events : M .events) (m_host : M .host) (m_links : M .links) (m_opn : M
    .opn) (m_sched : M .sched) :
    Parts M z (State.dropOutput s l) := by
  unfold State.dropOutput
  repeat' first
    | with_reducible assumption
    | with_reducible apply State.dropOwn_parts
    | with_reducible apply State.releaseReady_parts
    | with_reducible apply State.discardQueued_parts
    | split
    | dsimp only

theorem State.failLink_parts {M : Part → Prop} {z : State} {s : State} (h : Parts M z s) (l : Nat) (m_out : M .out)
    (m_free : M .free) (m_regs : M .regs) (m_events : M .events) (m_host : M .host) (m_links : M .links) (m_opn : M
    .opn) (m_watch : M .watch) (m_sched : M .sched) :
    Parts M z (State.failLink s l) := by
  unfold State.failLink
  repeat' first
    | with_reducible assumption
    | with_reducible apply State.dropOutput_parts
    | with_reducible apply State.dropLink_parts
    | with_reducible apply State.setLstate_parts
    | with_reducible apply State.reportLink_parts
    | split
    | dsimp only

theorem State.downLink_parts {M : Part → Prop} {z : State} {s : State} (h : Parts M z s) (l : Nat) (m_out : M .out)
    (m_free : M .free) (m_regs : M .regs) (m_events : M .events) (m_host : M .host) (m_links : M .links) (m_opn : M
    .opn) : Parts M z (State.downLink s l) := by
  unfold State.downLink
  repeat' first
    | with_reducible assumption
    | with_reducible apply State.dropLink_parts
    | with_reducible apply State.tryStart_parts
    | with_reducible apply State.setLstate_parts

theorem State.lockAchieved_parts {M : Part → Prop} {z : State} {s : State} (h : Parts M z s) (link : Nat) (m_out : M
    .out) (m_free : M .free) (m_regs : M .regs) (m_events : M .events) (m_host : M .host) (m_links : M .links) :
    Parts M z (State.lockAchieved s link) := by
  unfold State.lockAchieved
  repeat' first
    | with_reducible assumption
    | with_reducible apply State.setLstate_parts
    | with_reducible apply State.sendTraining_parts
    | split
    | dsimp only

theorem State.latencyProbe_parts {M : Part → Prop} {z : State} {s : State} (h : Parts M z s) (link stamp hold : Nat)
    (m_out : M .out) :
    Parts M z (State.latencyProbe s link stamp hold) := by
  unfold State.latencyProbe
  repeat' first
    | with_reducible assumption
    | with_reducible apply State.sendTraining_parts
    | split
    | dsimp only

theorem State.trainFail_parts {M : Part → Prop} {z : State} {s : State} (h : Parts M z s) (l : Nat) (m_out : M .out)
    (m_free : M .free) (m_regs : M .regs) (m_events : M .events) (m_host : M .host) (m_links : M .links) (m_opn : M
    .opn) (m_watch : M .watch) (m_sched : M .sched) :
    Parts M z (State.trainFail s l) := by
  unfold State.trainFail
  repeat' first
    | with_reducible assumption
    | with_reducible apply State.failLink_parts
    | with_reducible apply State.err_parts
    | split
    | dsimp only

theorem State.takeShared_parts {M : Part → Prop} {z : State} {s : State} (h : Parts M z s) (l vc : Nat) (m_links : M
    .links) :
    Parts M z (State.takeShared s l vc) := by
  unfold State.takeShared
  repeat' first
    | with_reducible assumption
    | with_reducible apply State.setLink_parts
    | split
    | dsimp only

theorem State.tryCredit_parts {M : Part → Prop} {z : State} {s : State} (h : Parts M z s) (l : Nat) (m_out : M .out)
    (m_free : M .free) (m_regs : M .regs) (m_events : M .events) (m_host : M .host) (m_links : M .links) :
    Parts M z (State.tryCredit s l) := by
  unfold State.tryCredit
  repeat' first
    | with_reducible assumption
    | with_reducible apply State.takeShared_parts
    | with_reducible apply State.setLstate_parts
    | with_reducible apply State.sendTraining_parts
    | with_reducible refine parts_foldl (fun t x ht => ?_) ?_
    | split
    | dsimp only

theorem State.probeEcho_parts {M : Part → Prop} {z : State} {s : State} (h : Parts M z s) (link echo hold : Nat) (m_out
    : M .out) (m_free : M .free) (m_regs : M .regs) (m_events : M .events) (m_host : M .host) (m_links : M .links)
    (m_opn : M .opn) (m_watch : M .watch) (m_sched : M .sched) :
    Parts M z (State.probeEcho s link echo hold) := by
  unfold State.probeEcho
  repeat' first
    | with_reducible assumption
    | with_reducible apply State.tryCredit_parts
    | with_reducible apply State.trainFail_parts
    | with_reducible apply State.sendTraining_parts
    | with_reducible apply State.wr_parts
    | with_reducible apply State.setLink_parts
    | split
    | dsimp only

theorem State.identity_parts {M : Part → Prop} {z : State} {s : State} (h : Parts M z s) (link ident dir : Nat) (m_out :
    M .out) (m_free : M .free) (m_regs : M .regs) (m_events : M .events) (m_host : M .host) (m_links : M .links) (m_opn
    : M .opn) (m_watch : M .watch) (m_sched : M .sched) : Parts M z (State.identity s link ident dir) := by
  unfold State.identity
  repeat' first
    | with_reducible assumption
    | with_reducible apply State.tryCredit_parts
    | with_reducible apply State.failLink_parts
    | with_reducible apply State.setLink_parts
    | with_reducible apply State.err_parts
    | with_reducible apply State.wr_parts
    | split

theorem State.creditGrant_parts {M : Part → Prop} {z : State} {s : State} (h : Parts M z s) (link : Nat) (credits : List
    Nat) (m_free : M .free) (m_regs : M .regs) (m_events : M .events) (m_host : M .host) (m_links : M .links) :
    Parts M z (State.creditGrant s link credits) := by
  unfold State.creditGrant
  repeat' first
    | with_reducible assumption
    | with_reducible apply State.setLstate_parts
    | with_reducible apply State.wri_parts
    | with_reducible apply State.setCred_parts
    | with_reducible refine parts_foldl (fun t x ht => ?_) ?_
    | split
    | dsimp only

theorem State.lockLoss_parts {M : Part → Prop} {z : State} {s : State} (h : Parts M z s) (l : Nat) (m_out : M .out)
    (m_free : M .free) (m_regs : M .regs) (m_events : M .events) (m_host : M .host) (m_links : M .links) (m_opn : M
    .opn) (m_watch : M .watch) (m_sched : M .sched) : Parts M z (State.lockLoss s l) := by
  unfold State.lockLoss
  repeat' first
    | with_reducible assumption
    | with_reducible apply State.failLink_parts
    | with_reducible apply State.err_parts
    | split

theorem State.retrain_parts {M : Part → Prop} {z : State} {s : State} (h : Parts M z s) (l : Nat) (m_out : M .out)
    (m_free : M .free) (m_regs : M .regs) (m_events : M .events) (m_host : M .host) (m_links : M .links) (m_opn : M
    .opn) : Parts M z (State.retrain s l) := by
  unfold State.retrain
  repeat' first
    | with_reducible assumption
    | with_reducible apply State.downLink_parts
    | split

theorem State.writeLinkEn_parts {M : Part → Prop} {z : State} {s : State} (h : Parts M z s) (l : Nat) (en : Bool) (m_out
    : M .out) (m_free : M .free) (m_regs : M .regs) (m_events : M .events) (m_host : M .host) (m_links : M .links)
    (m_opn : M .opn) : Parts M z (State.writeLinkEn s l en) := by
  unfold State.writeLinkEn
  repeat' first
    | with_reducible assumption
    | with_reducible apply State.downLink_parts
    | with_reducible apply State.tryStart_parts
    | with_reducible apply State.put_parts
    | split
    | dsimp only

theorem State.charge_parts {M : Part → Prop} {z : State} {s : State} (h : Parts M z s) (link dir cc : Nat)
    (m_belfry : M .belfry) :
    Parts M z (State.charge s link dir cc) := by
  unfold State.charge
  repeat' first
    | with_reducible assumption
    | with_reducible apply State.setBelfry_parts

theorem State.replayBlock_parts {M : Part → Prop} {z : State} {s : State} (h : Parts M z s) (l seq : Nat) (m_out : M
    .out) (m_free : M .free) (m_regs : M .regs) (m_events : M .events) (m_host : M .host) (m_belfry : M .belfry)
    (m_links : M .links) (m_opn : M .opn) (m_watch : M .watch) (m_sched : M .sched) :
    Parts M z (State.replayBlock s l seq) := by
  unfold State.replayBlock
  repeat' first
    | with_reducible assumption
    | with_reducible apply State.charge_parts
    | with_reducible apply State.failLink_parts
    | with_reducible apply State.err_parts
    | with_reducible apply State.bump_parts
    | with_reducible apply State.resendFlit_parts
    | with_reducible apply State.setLink_parts
    | split
    | dsimp only

theorem State.countRetry_parts {M : Part → Prop} {z : State} {s : State} (h : Parts M z s) (l dir cc : Nat)
    (m_regs : M .regs) :
    Parts M z (State.countRetry s l dir cc) := by
  unfold State.countRetry
  repeat' first
    | with_reducible assumption
    | with_reducible apply State.bumpi_parts
    | split

theorem State.failD2d_parts {M : Part → Prop} {z : State} {s : State} (h : Parts M z s) (l : Nat) (m_free : M .free)
    (m_regs : M .regs) (m_events : M .events) (m_host : M .host) (m_watch : M .watch) :
    Parts M z (State.failD2d s l) := by
  unfold State.failD2d
  repeat' first
    | with_reducible assumption
    | with_reducible apply State.moduleFault_parts
    | with_reducible apply State.err_parts
    | with_reducible apply State.wri_parts
    | split

theorem State.d2dRetry_parts {M : Part → Prop} {z : State} {s : State} (h : Parts M z s) (l dir k : Nat) (acked : Bool)
    (m_free : M .free) (m_regs : M .regs) (m_events : M .events) (m_host : M .host) (m_belfry : M .belfry) (m_d2d : M
    .d2d) (m_watch : M .watch) :
    Parts M z (State.d2dRetry s l dir k acked) := by
  unfold State.d2dRetry
  repeat' first
    | with_reducible exact Or.inr rfl
    | with_reducible exact Or.inr ⟨rfl, rfl, rfl, rfl, rfl⟩
    | with_reducible exact Or.inl (by assumption)
    | with_reducible assumption
    | with_reducible apply State.failD2d_parts
    | with_reducible apply State.countRetry_parts
    | with_reducible apply State.charge_parts
    | split
    | dsimp only
    | with_reducible apply parts_mk

theorem State.dropReservations_parts {M : Part → Prop} {z : State} {s : State} (h : Parts M z s) (n : Nat)
    (m_reservations : M .reservations) :
    Parts M z (State.dropReservations s n) := by
  unfold State.dropReservations
  repeat' first
    | with_reducible exact Or.inr rfl
    | with_reducible exact Or.inr ⟨rfl, rfl, rfl, rfl, rfl⟩
    | with_reducible exact Or.inl (by assumption)
    | with_reducible assumption
    | with_reducible apply parts_mk

end Sys2Proof.Machine
end

