-- ==== Sys2Proof/Laws/PartsRoutes.lean ====
section
/-! SUPPORT. What the operations of Routes.lean touch (Parts). -/

namespace Sys2Proof.Machine

open Sys2Proof

theorem State.setRoute_parts {M : Part → Prop} {z : State} {s : State} (h : Parts M z s) (k : Nat) (r : Route) (m_routes
    : M .routes) : Parts M z (State.setRoute s k r) := by
  unfold State.setRoute
  repeat' first
    | with_reducible exact Or.inr rfl
    | with_reducible exact Or.inr ⟨rfl, rfl, rfl, rfl, rfl⟩
    | with_reducible exact Or.inl (by assumption)
    | with_reducible assumption
    | with_reducible apply State.put_parts
    | dsimp only
    | with_reducible apply parts_mk

theorem State.tblWrite_parts {M : Part → Prop} {z : State} {s : State} (h : Parts M z s) (k v : Nat) (m_free : M .free)
    (m_regs : M .regs) (m_events : M .events) (m_host : M .host) (m_routes : M .routes) :
    Parts M z (State.tblWrite s k v) := by
  unfold State.tblWrite
  repeat' first
    | with_reducible assumption
    | with_reducible apply State.setRoute_parts
    | with_reducible apply State.err_parts
    | with_reducible apply State.put_parts
    | split
    | dsimp only

theorem State.writeFilled_parts {M : Part → Prop} {z : State} {s : State} (h : Parts M z s) (k b : Nat) (v : Bool)
    (m_free : M .free) (m_regs : M .regs) (m_events : M .events) (m_host : M .host) :
    Parts M z (State.writeFilled s k b v) := by
  unfold State.writeFilled
  repeat' first
    | with_reducible assumption
    | with_reducible apply State.err_parts
    | with_reducible apply State.put_parts
    | split

theorem State.deliver_parts {M : Part → Prop} {z : State} {s : State} (h : Parts M z s) (e k : Nat) (f : Flit) (m_opn :
    M .opn) :
    Parts M z (State.deliver s e k f) := by
  unfold State.deliver
  repeat' first
    | with_reducible assumption
    | with_reducible apply State.setOpn_parts
    | split
    | dsimp only

theorem State.giveReply_parts {M : Part → Prop} {z : State} {s : State} (h : Parts M z s) (src : Source) (f : Flit)
    (m_out : M .out) (m_links : M .links) (m_opn : M .opn) (m_answers : M .answers) :
    Parts M z (State.giveReply s src f) := by
  unfold State.giveReply
  repeat' first
    | with_reducible exact Or.inr rfl
    | with_reducible exact Or.inr ⟨rfl, rfl, rfl, rfl, rfl⟩
    | with_reducible exact Or.inl (by assumption)
    | with_reducible assumption
    | with_reducible apply State.deliver_parts
    | with_reducible apply State.setLink_parts
    | with_reducible apply State.emit_parts
    | split
    | dsimp only
    | with_reducible apply parts_mk

theorem State.reply_parts {M : Part → Prop} {z : State} {s : State} (h : Parts M z s) (src : Source) (f : Flit) (m_out :
    M .out) (m_free : M .free) (m_regs : M .regs) (m_events : M .events) (m_host : M .host) (m_links : M .links)
    (m_reservations : M .reservations) (m_opn : M .opn) (m_answers : M .answers) : Parts M z (State.reply s src f) := by
  unfold State.reply
  repeat' first
    | with_reducible exact Or.inr rfl
    | with_reducible exact Or.inr ⟨rfl, rfl, rfl, rfl, rfl⟩
    | with_reducible exact Or.inl (by assumption)
    | with_reducible assumption
    | with_reducible apply State.giveReply_parts
    | with_reducible apply State.bump_parts
    | with_reducible apply State.headerDiscard_parts
    | split
    | dsimp only
    | with_reducible apply parts_mk

theorem State.makeReady_parts {M : Part → Prop} {z : State} {s : State} (h : Parts M z s) (r : Ready) (m_opn : M .opn) :
    Parts M z (State.makeReady s r) := by
  unfold State.makeReady
  repeat' first
    | with_reducible assumption
    | with_reducible apply State.setOpn_parts
    | split
    | dsimp only

theorem State.forward_parts {M : Part → Prop} {z : State} {s : State} (h : Parts M z s) (k : Nat) (src : QSource) (buf :
    Option (Nat × Nat)) (travel : Option Nat) (f : Flit) (m_free : M .free) (m_regs : M .regs) (m_events : M .events)
    (m_host : M .host) (m_opn : M .opn) :
    Parts M z (State.forward s k src buf travel f) := by
  unfold State.forward
  repeat' first
    | with_reducible assumption
    | with_reducible apply State.makeReady_parts
    | with_reducible apply State.deliver_parts
    | with_reducible apply State.err_parts
    | with_reducible apply State.bump_parts
    | split
    | dsimp only

theorem State.taken_parts {M : Part → Prop} {z : State} {s : State} (h : Parts M z s) (src : Source) (f : Flit) (m_out :
    M .out) (m_links : M .links) :
    Parts M z (State.taken s src f) := by
  unfold State.taken
  repeat' first
    | with_reducible assumption
    | with_reducible apply State.returnCredit_parts
    | split
    | dsimp only

theorem State.enter_parts {M : Part → Prop} {z : State} {s : State} (h : Parts M z s) (src : Source) (g : Flit) (m_free
    : M .free) (m_regs : M .regs) (m_events : M .events) (m_host : M .host) (m_opn : M .opn) (m_power : M .power) :
    Parts M z (State.enter s src g) := by
  unfold State.enter
  repeat' first
    | with_reducible assumption
    | with_reducible apply State.forward_parts
    | with_reducible apply State.bufferIn_parts
    | split
    | dsimp only

theorem State.inject_parts {M : Part → Prop} {z : State} {s : State} (h : Parts M z s) (src : Source) (f0 : Flit) (m_out
    : M .out) (m_free : M .free) (m_regs : M .regs) (m_events : M .events) (m_host : M .host) (m_links : M .links)
    (m_reservations : M .reservations) (m_opn : M .opn) (m_power : M .power) (m_answers : M .answers) :
    Parts M z (State.inject s src f0) := by
  unfold State.inject
  repeat' first
    | with_reducible exact Or.inr rfl
    | with_reducible exact Or.inr ⟨rfl, rfl, rfl, rfl, rfl⟩
    | with_reducible exact Or.inl (by assumption)
    | with_reducible assumption
    | with_reducible apply State.enter_parts
    | with_reducible apply State.taken_parts
    | with_reducible apply State.giveReply_parts
    | with_reducible apply State.err_parts
    | with_reducible apply State.bump_parts
    | with_reducible apply State.emit_parts
    | split
    | dsimp only
    | with_reducible apply parts_mk

theorem State.complete_parts {M : Part → Prop} {z : State} {s : State} (h : Parts M z s) (r : Reservation) (status :
    Nat) (m_out : M .out) (m_free : M .free) (m_events : M .events) (m_host : M .host) (m_links : M .links)
    (m_reservations : M .reservations) (m_opn : M .opn) (m_answers : M .answers) : Parts M z (State.complete s r status) := by
  unfold State.complete
  repeat' first
    | with_reducible exact Or.inr rfl
    | with_reducible exact Or.inr ⟨rfl, rfl, rfl, rfl, rfl⟩
    | with_reducible exact Or.inl (by assumption)
    | with_reducible assumption
    | with_reducible apply State.giveReply_parts
    | split
    | dsimp only
    | with_reducible apply parts_mk

theorem State.timeoutResv_parts {M : Part → Prop} {z : State} {s : State} (h : Parts M z s) (r : Reservation) (m_out : M
    .out) (m_free : M .free) (m_regs : M .regs) (m_events : M .events) (m_host : M .host) (m_links : M .links)
    (m_reservations : M .reservations) (m_opn : M .opn) (m_answers : M .answers) : Parts M z (State.timeoutResv s r) := by
  unfold State.timeoutResv
  repeat' first
    | with_reducible assumption
    | with_reducible apply State.complete_parts
    | with_reducible apply State.bump_parts
    | split

theorem State.unserve_parts {M : Part → Prop} {z : State} {s : State} (h : Parts M z s) (e : Nat) (f : Flit) (m_opn : M
    .opn) :
    Parts M z (State.unserve s e f) := by
  unfold State.unserve
  repeat' first
    | with_reducible assumption
    | with_reducible apply State.setOpn_parts
    | split
    | dsimp only

theorem State.takeService_parts {M : Part → Prop} {z : State} {s : State} (h : Parts M z s) (e : Nat) (f : Flit) (m_free
    : M .free) (m_regs : M .regs) (m_events : M .events) (m_host : M .host) (m_opn : M .opn) (m_arrays : M .arrays) :
    Parts M z (State.takeService s e f).2 := by
  unfold State.takeService
  repeat' first
    | with_reducible assumption
    | with_reducible apply State.unserve_parts
    | with_reducible apply State.flitRead_parts
    | with_reducible refine State.flitRead_next_parts ?_ (by assumption) (by assumption) (by assumption) (by assumption) (by assumption) (by assumption)
    | split
    | dsimp only

theorem State.served_parts {M : Part → Prop} {z : State} {s : State} (h : Parts M z s) (e : Nat) (f : Flit)
    (act : State → Flit → State) (hf : ∀ t g, Parts M z t → Parts M z (act t g)) (m_free : M .free) (m_regs : M .regs) (m_events : M .events) (m_host : M .host) (m_opn : M .opn) (m_arrays : M .arrays) :
    Parts M z (State.served s e f act) := by
  unfold State.served
  have h1 := State.takeService_parts h e f (m_free := m_free) (m_regs := m_regs) (m_events := m_events) (m_host := m_host) (m_opn := m_opn) (m_arrays := m_arrays)
  revert h1
  rcases s.takeService e f with ⟨_ | g, t⟩ <;> intro h1
  · exact h1
  · exact hf _ _ h1

theorem State.configFault_parts {M : Part → Prop} {z : State} {s : State} (h : Parts M z s) (m_watch : M .watch) :
    Parts M z (State.configFault s) := by
  unfold State.configFault
  repeat' first
    | with_reducible assumption
    | with_reducible apply State.moduleFault_parts

theorem State.armFlip_parts {M : Part → Prop} {z : State} {s : State} (h : Parts M z s) (k f : Nat) (m_regs : M .regs)
    (m_routes : M .routes) :
    Parts M z (State.armFlip s k f) := by
  unfold State.armFlip
  repeat' first
    | with_reducible assumption
    | with_reducible apply State.setRoute_parts
    | with_reducible apply State.wr_parts

theorem State.tryFlip_parts {M : Part → Prop} {z : State} {s : State} (h : Parts M z s) (k f : Nat) (sum : Option Nat)
    (m_free : M .free) (m_regs : M .regs) (m_events : M .events) (m_host : M .host) (m_routes : M .routes) (m_watch : M
    .watch) :
    Parts M z (State.tryFlip s k f sum) := by
  unfold State.tryFlip
  repeat' first
    | with_reducible assumption
    | with_reducible apply State.armFlip_parts
    | with_reducible apply State.configFault_parts
    | with_reducible apply State.err_parts
    | split
    | dsimp only

theorem State.tryFlips_parts {M : Part → Prop} {z : State} {s : State} (h : Parts M z s) (f : Nat) (sum : Option Nat)
    (m_free : M .free) (m_regs : M .regs) (m_events : M .events) (m_host : M .host) (m_routes : M .routes) (m_watch : M
    .watch) :
    Parts M z (State.tryFlips s f sum) := by
  unfold State.tryFlips
  repeat' first
    | with_reducible assumption
    | with_reducible apply State.armFlip_parts
    | with_reducible apply State.configFault_parts
    | with_reducible apply State.err_parts
    | with_reducible refine parts_foldl (fun t x ht => ?_) ?_
    | split
    | dsimp only

theorem State.routeFlip_parts {M : Part → Prop} {z : State} {s : State} (h : Parts M z s) (d f sum origin : Nat) (m_free
    : M .free) (m_regs : M .regs) (m_events : M .events) (m_host : M .host) (m_belfry : M .belfry) (m_links : M .links)
    (m_routes : M .routes) (m_watch : M .watch) :
    Parts M z (State.routeFlip s d f sum origin) := by
  unfold State.routeFlip
  repeat' first
    | with_reducible assumption
    | with_reducible apply State.tryFlips_parts
    | with_reducible apply State.configFault_parts
    | with_reducible apply State.err_parts
    | with_reducible apply State.rememberFlood_parts
    | with_reducible apply State.flood_parts
    | split
    | dsimp only

theorem State.flipAtWrite_parts {M : Part → Prop} {z : State} {s : State} (h : Parts M z s) (k v : Nat) (m_free : M
    .free) (m_regs : M .regs) (m_events : M .events) (m_host : M .host) (m_belfry : M .belfry) (m_links : M .links)
    (m_routes : M .routes) (m_watch : M .watch) :
    Parts M z (State.flipAtWrite s k v) := by
  unfold State.flipAtWrite
  repeat' first
    | with_reducible assumption
    | with_reducible apply State.tryFlips_parts
    | with_reducible apply State.tryFlip_parts
    | with_reducible apply State.rememberFlood_parts
    | with_reducible apply State.put_parts
    | with_reducible apply State.flood_parts
    | split
    | dsimp only

theorem State.takeFlip_parts {M : Part → Prop} {z : State} {s : State} (h : Parts M z s) (k f : Nat) (m_regs : M .regs)
    (m_routes : M .routes) :
    Parts M z (State.takeFlip s k f) := by
  unfold State.takeFlip
  repeat' first
    | with_reducible assumption
    | with_reducible apply State.setRoute_parts
    | with_reducible apply State.wr_parts

theorem State.drainKeep_parts {M : Part → Prop} {z : State} {s : State} (h : Parts M z s) (k : Nat) (m_out : M .out)
    (m_free : M .free) (m_regs : M .regs) (m_events : M .events) (m_host : M .host) (m_links : M .links) (m_reservations
    : M .reservations) (m_routes : M .routes) (m_opn : M .opn) (m_answers : M .answers) : Parts M z (State.drainKeep s
    k) := by
  unfold State.drainKeep
  repeat' first
    | with_reducible assumption
    | with_reducible apply State.complete_parts
    | with_reducible apply State.setRoute_parts
    | with_reducible apply State.bump_parts
    | with_reducible apply State.wr_parts
    | with_reducible refine parts_foldl (fun t x ht => ?_) ?_
    | split

theorem State.drainDeadline_parts {M : Part → Prop} {z : State} {s : State} (h : Parts M z s) (m_out : M .out) (m_free :
    M .free) (m_regs : M .regs) (m_events : M .events) (m_host : M .host) (m_links : M .links) (m_reservations : M
    .reservations) (m_routes : M .routes) (m_opn : M .opn) (m_answers : M .answers) : Parts M z (State.drainDeadline s) := by
  unfold State.drainDeadline
  repeat' first
    | with_reducible assumption
    | with_reducible apply State.drainKeep_parts
    | with_reducible refine parts_foldl (fun t x ht => ?_) ?_

theorem State.ageDiscard_parts {M : Part → Prop} {z : State} {s : State} (h : Parts M z s) (k : Nat) (m_free : M .free)
    (m_regs : M .regs) (m_events : M .events) (m_host : M .host) :
    Parts M z (State.ageDiscard s k) := by
  unfold State.ageDiscard
  repeat' first
    | with_reducible assumption
    | with_reducible apply State.err_parts
    | with_reducible apply State.bump_parts
    | split
    | dsimp only

theorem State.flitAged_parts {M : Part → Prop} {z : State} {s : State} (h : Parts M z s) (k o vc : Nat) (m_out : M .out)
    (m_free : M .free) (m_regs : M .regs) (m_events : M .events) (m_host : M .host) (m_links : M .links) (m_opn : M
    .opn) :
    Parts M z (State.flitAged s k o vc) := by
  unfold State.flitAged
  repeat' first
    | with_reducible assumption
    | with_reducible apply State.ageDiscard_parts
    | with_reducible apply State.countLeft_parts
    | with_reducible apply State.returnCredit_parts
    | with_reducible apply State.setQueue_parts
    | with_reducible apply State.setOpn_parts
    | split
    | dsimp only

end Sys2Proof.Machine
end

