-- ==== Sys2Proof/Laws/PartsKeepMover.lean ====
section
/-! SUPPORT. What the operations of KeepMover.lean touch (Parts). -/

namespace Sys2Proof.Machine

open Sys2Proof

theorem State.setMover_parts {M : Part → Prop} {z : State} {s : State} (h : Parts M z s) (k : Nat) (m : Mover) (m_movers
    : M .movers) : Parts M z (State.setMover s k m) := by
  unfold State.setMover
  repeat' first
    | with_reducible exact Or.inr rfl
    | with_reducible exact Or.inr ⟨rfl, rfl, rfl, rfl, rfl⟩
    | with_reducible exact Or.inl (by assumption)
    | with_reducible assumption
    | with_reducible apply State.put_parts
    | dsimp only
    | with_reducible apply parts_mk

theorem State.mvIssue_parts {M : Part → Prop} {z : State} {s : State} (h : Parts M z s) (k : Nat) (m_out : M .out)
    (m_free : M .free) (m_regs : M .regs) (m_events : M .events) (m_host : M .host) (m_links : M .links) (m_reservations
    : M .reservations) (m_opn : M .opn) (m_movers : M .movers) (m_power : M .power) (m_answers : M .answers) : Parts M z
    (State.mvIssue s k) := by
  unfold State.mvIssue
  repeat' first
    | with_reducible assumption
    | with_reducible apply State.setMover_parts
    | with_reducible apply State.inject_parts

theorem State.mvFill_parts {M : Part → Prop} {z : State} (k : Nat) (m_out : M .out) (m_free : M .free) (m_regs : M .regs)
    (m_events : M .events) (m_host : M .host) (m_links : M .links) (m_reservations : M .reservations) (m_opn : M .opn) (m_movers : M .movers) (m_power : M .power)
    (m_answers : M .answers) : ∀ (n : Nat) {s : State} (_ : Parts M z s), Parts M z (State.mvFill k n s)
  | 0, _, h => h
  | n + 1, s, h => by
    unfold State.mvFill
    dsimp only
    split
    · exact State.mvFill_parts k n (State.mvIssue_parts h k (m_out := m_out) (m_free := m_free) (m_regs := m_regs)
          (m_events := m_events) (m_host := m_host) (m_links := m_links) (m_reservations := m_reservations) (m_opn := m_opn)
          (m_movers := m_movers) (m_power := m_power) (m_answers := m_answers)) (m_out := m_out) (m_free := m_free) (m_regs := m_regs)
          (m_events := m_events) (m_host := m_host) (m_links := m_links) (m_reservations := m_reservations) (m_opn := m_opn)
          (m_movers := m_movers) (m_power := m_power) (m_answers := m_answers)
    · exact h

theorem State.mvRun_parts {M : Part → Prop} {z : State} {s : State} (h : Parts M z s) (k : Nat) (m_out : M .out) (m_free
    : M .free) (m_regs : M .regs) (m_events : M .events) (m_host : M .host) (m_links : M .links) (m_reservations : M
    .reservations) (m_opn : M .opn) (m_movers : M .movers) (m_power : M .power) (m_answers : M .answers) : Parts M z
    (State.mvRun s k) := by
  unfold State.mvRun
  repeat' first
    | with_reducible assumption
    | with_reducible apply State.mvFill_parts
    | with_reducible apply State.wr_parts
    | split
    | dsimp only

theorem State.mvGo_parts {M : Part → Prop} {z : State} {s : State} (h : Parts M z s) (k : Nat) (m_out : M .out) (m_free
    : M .free) (m_regs : M .regs) (m_events : M .events) (m_host : M .host) (m_links : M .links) (m_reservations : M
    .reservations) (m_opn : M .opn) (m_movers : M .movers) (m_power : M .power) (m_answers : M .answers) : Parts M z
    (State.mvGo s k) := by
  unfold State.mvGo
  repeat' first
    | with_reducible assumption
    | with_reducible apply State.mvRun_parts
    | with_reducible apply State.setMover_parts
    | with_reducible apply State.wr_parts
    | split
    | dsimp only

theorem State.mvFail_parts {M : Part → Prop} {z : State} {s : State} (h : Parts M z s) (k : Nat) (r : MvReq) (status :
    Nat) (m_regs : M .regs) (m_movers : M .movers) :
    Parts M z (State.mvFail s k r status) := by
  unfold State.mvFail
  repeat' first
    | with_reducible assumption
    | with_reducible apply State.setMover_parts
    | with_reducible apply State.wr_parts

theorem State.mvWrite_parts {M : Part → Prop} {z : State} {s : State} (h : Parts M z s) (k : Nat) (r : MvReq) (f : Flit)
    (m_out : M .out) (m_free : M .free) (m_regs : M .regs) (m_events : M .events) (m_host : M .host) (m_links : M
    .links) (m_reservations : M .reservations) (m_opn : M .opn) (m_movers : M .movers) (m_power : M .power) (m_answers :
    M .answers) :
    Parts M z (State.mvWrite s k r f) := by
  unfold State.mvWrite
  repeat' first
    | with_reducible assumption
    | with_reducible apply State.setMover_parts
    | with_reducible apply State.inject_parts
    | with_reducible apply State.bump_parts
    | split
    | dsimp only

theorem State.mvDone_parts {M : Part → Prop} {z : State} {s : State} (h : Parts M z s) (k : Nat) (r : MvReq) (m_out : M
    .out) (m_free : M .free) (m_regs : M .regs) (m_events : M .events) (m_host : M .host) (m_links : M .links)
    (m_reservations : M .reservations) (m_opn : M .opn) (m_movers : M .movers) (m_power : M .power) (m_answers : M
    .answers) : Parts M z (State.mvDone s k r) := by
  unfold State.mvDone
  repeat' first
    | with_reducible assumption
    | with_reducible apply State.mvRun_parts
    | with_reducible apply State.setMover_parts
    | split
    | dsimp only

theorem State.mvReply_parts {M : Part → Prop} {z : State} {s : State} (h : Parts M z s) (k : Nat) (f : Flit) (m_out : M
    .out) (m_free : M .free) (m_regs : M .regs) (m_events : M .events) (m_host : M .host) (m_links : M .links)
    (m_reservations : M .reservations) (m_opn : M .opn) (m_movers : M .movers) (m_power : M .power) (m_answers : M
    .answers) :
    Parts M z (State.mvReply s k f) := by
  unfold State.mvReply
  repeat' first
    | with_reducible exact Or.inr rfl
    | with_reducible exact Or.inr ⟨rfl, rfl, rfl, rfl, rfl⟩
    | with_reducible exact Or.inl (by assumption)
    | with_reducible assumption
    | with_reducible apply State.mvDone_parts
    | with_reducible apply State.mvWrite_parts
    | with_reducible apply State.mvFail_parts
    | split
    | dsimp only
    | with_reducible apply parts_mk

theorem State.mvDrained_parts {M : Part → Prop} {z : State} {s : State} (h : Parts M z s) (k : Nat) (m_regs : M .regs) :
    Parts M z (State.mvDrained s k) := by
  unfold State.mvDrained
  repeat' first
    | with_reducible assumption
    | with_reducible apply State.wr2_parts
    | with_reducible apply State.wr_parts
    | split
    | dsimp only

theorem State.mvResume_parts {M : Part → Prop} {z : State} {s : State} (h : Parts M z s) (k : Nat) (m_out : M .out)
    (m_free : M .free) (m_regs : M .regs) (m_events : M .events) (m_host : M .host) (m_links : M .links) (m_reservations
    : M .reservations) (m_opn : M .opn) (m_movers : M .movers) (m_power : M .power) (m_answers : M .answers) : Parts M z
    (State.mvResume s k) := by
  unfold State.mvResume
  repeat' first
    | with_reducible assumption
    | with_reducible apply State.mvRun_parts
    | with_reducible apply State.setMover_parts
    | with_reducible apply State.wr_parts
    | split

theorem State.mvAbort_parts {M : Part → Prop} {z : State} {s : State} (h : Parts M z s) (k : Nat) (m_regs : M .regs)
    (m_movers : M .movers) :
    Parts M z (State.mvAbort s k) := by
  unfold State.mvAbort
  repeat' first
    | with_reducible assumption
    | with_reducible apply State.mvDrained_parts
    | with_reducible apply State.setMover_parts
    | with_reducible apply State.wr_parts
    | split
    | dsimp only

end Sys2Proof.Machine
end

