-- ==== Sys2Proof/Laws/PartsStackMover.lean ====
section
/-! SUPPORT. What the operations of StackMover.lean touch (Parts). -/

namespace Sys2Proof.Machine

open Sys2Proof

theorem State.sysGib_parts {M : Part → Prop} {z : State} {s : State} (h : Parts M z s) (st v : Nat) (m_free : M .free)
    (m_regs : M .regs) (m_events : M .events) (m_host : M .host) :
    Parts M z (State.sysGib s st v) := by
  unfold State.sysGib
  repeat' first
    | with_reducible assumption
    | with_reducible apply State.err_parts
    | with_reducible apply State.put_parts
    | split

theorem State.mvRead_parts {M : Part → Prop} {z : State} {s : State} (h : Parts M z s) (st loc n : Nat) (m_free : M .free)
    (m_regs : M .regs) (m_mem : M .mem) (m_events : M .events) (m_host : M .host) (m_arrays : M .arrays)
    (m_watch : M .watch) :
    Parts M z (State.mvRead s st loc n) := by
  unfold State.mvRead
  repeat' first
    | with_reducible assumption
    | with_reducible apply State.dmaRead_parts

theorem State.stackOut_parts {M : Part → Prop} {z : State} {s : State} (h : Parts M z s) (st : Nat) (r : Run) (m_free :
    M .free) (m_regs : M .regs) (m_mem : M .mem) (m_events : M .events) (m_host : M .host) (m_arrays : M .arrays)
    (m_watch : M .watch) (m_sched : M .sched) (m_runs : M .runs) :
    Parts M z (State.stackOut s st r) := by
  unfold State.stackOut
  repeat' first
    | with_reducible assumption
    | with_reducible apply State.mvRead_parts
    | with_reducible apply State.finish_parts
    | with_reducible apply State.stage_parts
    | with_reducible apply State.bump_parts
    | split
    | dsimp only

theorem State.writeChunks_parts {M : Part → Prop} {z : State} {s : State} (h : Parts M z s) (st dst off n : Nat) (l : List
    Chunk) (m_free : M .free) (m_regs : M .regs) (m_mem : M .mem) (m_events : M .events) (m_host : M .host)
    (m_arrays : M .arrays) (m_watch : M .watch) :
    Parts M z (State.writeChunks s st dst off n l) := by
  unfold State.writeChunks
  repeat' first
    | with_reducible assumption
    | with_reducible apply State.planPoison_parts
    | with_reducible apply State.planWrite_parts
    | with_reducible apply State.err_parts
    | with_reducible apply State.bump_parts
    | with_reducible refine parts_foldl (fun t x ht => ?_) ?_
    | split

theorem State.stackIn_parts {M : Part → Prop} {z : State} {s : State} (h : Parts M z s) (st : Nat) (r : Run)
    (m_free : M .free) (m_regs : M .regs) (m_mem : M .mem) (m_events : M .events) (m_host : M .host)
    (m_arrays : M .arrays) (m_watch : M .watch) (m_runs : M .runs) :
    Parts M z (State.stackIn s st r) := by
  unfold State.stackIn
  repeat' first
    | with_reducible assumption
    | with_reducible apply State.writeChunks_parts
    | with_reducible apply State.finish_parts
    | with_reducible apply State.bump_parts
    | split
    | dsimp only

theorem State.stackCopy_parts {M : Part → Prop} {z : State} {s : State} (h : Parts M z s) (st : Nat) (r : Run) (m_free :
    M .free) (m_regs : M .regs) (m_mem : M .mem) (m_events : M .events) (m_host : M .host) (m_arrays : M .arrays)
    (m_watch : M .watch) (m_runs : M .runs) :
    Parts M z (State.stackCopy s st r) := by
  unfold State.stackCopy
  repeat' first
    | with_reducible assumption
    | with_reducible apply State.mvRead_parts
    | with_reducible apply State.finish_parts
    | with_reducible apply State.bump_parts
    | with_reducible apply State.planPoison_parts
    | with_reducible apply State.planWrite_parts
    | with_reducible refine parts_foldl (fun t x ht => ?_) ?_
    | with_reducible refine parts_foldl_1 (fun t x ht => ?_) ?_
    | with_reducible refine parts_foldl_2 (fun t x ht => ?_) ?_
    | with_reducible refine parts_foldl_3 (fun t x ht => ?_) ?_
    | split
    | dsimp only

end Sys2Proof.Machine
end

