-- ==== Sys2Proof/Laws/PartsTileData.lean ====
section
/-! SUPPORT. What the operations of TileData.lean touch (Parts). -/

namespace Sys2Proof.Machine

open Sys2Proof

theorem State.setTile_parts {M : Part → Prop} {z : State} {s : State} (h : Parts M z s) (g : Nat) (t : Tile) (m_tiles :
    M .tiles) : Parts M z (State.setTile s g t) := by
  unfold State.setTile
  repeat' first
    | with_reducible exact Or.inr rfl
    | with_reducible exact Or.inr ⟨rfl, rfl, rfl, rfl, rfl⟩
    | with_reducible exact Or.inl (by assumption)
    | with_reducible assumption
    | with_reducible apply State.put_parts
    | dsimp only
    | with_reducible apply parts_mk

theorem State.tileBound_parts {M : Part → Prop} {z : State} {s : State} (h : Parts M z s) (g kind insn pos val : Nat)
    (m_free : M .free) (m_regs : M .regs) (m_events : M .events) (m_host : M .host) :
    Parts M z (State.tileBound s g kind insn pos val) := by
  unfold State.tileBound
  repeat' first
    | with_reducible assumption
    | with_reducible apply State.err_parts
    | with_reducible apply State.wrs_parts
    | with_reducible apply State.bump_parts
    | with_reducible apply State.again_parts
    | split
    | dsimp only

theorem State.tileTouch_parts {M : Part → Prop} {z : State} {s : State} (h : Parts M z s) (g : Nat) (r : Nat × Nat × Nat)
    (m_free : M .free) (m_regs : M .regs) (m_mem : M .mem) (m_events : M .events) (m_host : M .host)
    (m_arrays : M .arrays) (m_watch : M .watch) :
    Parts M z (State.tileTouch s g r) := by
  unfold State.tileTouch
  repeat' first
    | with_reducible assumption
    | with_reducible apply State.touch_parts
    | with_reducible apply State.err_parts
    | with_reducible apply State.bump_parts
    | split
    | dsimp only

theorem State.badRead_parts {M : Part → Prop} {z : State} {s : State} (h : Parts M z s) (g : Nat) (d : TDesc) (m_free :
    M .free) (m_regs : M .regs) (m_events : M .events) (m_host : M .host) :
    Parts M z (State.badRead s g d) := by
  unfold State.badRead
  repeat' first
    | with_reducible assumption
    | with_reducible apply State.err_parts
    | split
    | dsimp only

theorem State.tileReadOver_parts {M : Part → Prop} {z : State} {s : State} (h : Parts M z s) (g i : Nat) (d : TDesc) (l
    : List (Nat × Nat × Nat)) (m_free : M .free) (m_regs : M .regs) (m_mem : M .mem) (m_events : M .events) (m_host : M
    .host) (m_arrays : M .arrays) (m_watch : M .watch) :
    Parts M z (State.tileReadOver s g i d l) := by
  unfold State.tileReadOver
  repeat' first
    | with_reducible assumption
    | with_reducible apply State.badRead_parts
    | with_reducible apply State.tileTouch_parts
    | with_reducible apply State.tileBound_parts
    | with_reducible refine parts_foldl (fun t x ht => ?_) ?_
    | with_reducible refine parts_foldl_1 (fun t x ht => ?_) ?_
    | with_reducible refine parts_foldl_2 (fun t x ht => ?_) ?_
    | with_reducible refine parts_foldl_3 (fun t x ht => ?_) ?_
    | split
    | dsimp only

theorem State.tileRead_parts {M : Part → Prop} {z : State} {s : State} (h : Parts M z s) (g i : Nat) (d : TDesc) (l :
    List Nat) (m_free : M .free) (m_regs : M .regs) (m_mem : M .mem) (m_events : M .events) (m_host : M .host) (m_arrays
    : M .arrays) (m_watch : M .watch) :
    Parts M z (State.tileRead s g i d l) := by
  unfold State.tileRead
  repeat' first
    | with_reducible assumption
    | with_reducible apply State.tileReadOver_parts
    | split
    | dsimp only

theorem State.tileReadSome_parts {M : Part → Prop} {z : State} {s : State} (h : Parts M z s) (g i : Nat) (d : TDesc)
    (need : Nat → Nat → Bool) (m_free : M .free) (m_regs : M .regs) (m_mem : M .mem) (m_events : M .events) (m_host : M
    .host) (m_arrays : M .arrays) (m_watch : M .watch) :
    Parts M z (State.tileReadSome s g i d need) := by
  unfold State.tileReadSome
  repeat' first
    | with_reducible assumption
    | with_reducible apply State.tileReadOver_parts
    | split
    | dsimp only

theorem State.tileReadAll_parts {M : Part → Prop} {z : State} {s : State} (h : Parts M z s) (g i : Nat) (d : Option TDesc)
    (m_free : M .free) (m_regs : M .regs) (m_mem : M .mem) (m_events : M .events) (m_host : M .host)
    (m_arrays : M .arrays) (m_watch : M .watch) :
    Parts M z (State.tileReadAll s g i d) := by
  unfold State.tileReadAll
  repeat' first
    | with_reducible assumption
    | with_reducible apply State.tileRead_parts
    | split

theorem State.tileStore_parts {M : Part → Prop} {z : State} {s : State} (h : Parts M z s) (g : Nat) (d : TDesc) (off :
    Nat) (l : List Byte) (m_free : M .free) (m_regs : M .regs) (m_mem : M .mem) (m_events : M .events) (m_host : M .host)
    (m_arrays : M .arrays) (m_watch : M .watch) :
    Parts M z (State.tileStore s g d off l) := by
  unfold State.tileStore
  repeat' first
    | with_reducible assumption
    | with_reducible apply State.planWrite_parts
    | with_reducible apply State.store_parts
    | split

theorem State.poisonOut_parts {M : Part → Prop} {z : State} {s : State} (h : Parts M z s) (g n : Nat) (m_free : M .free)
    (m_regs : M .regs) (m_events : M .events) (m_host : M .host) :
    Parts M z (State.poisonOut s g n) := by
  unfold State.poisonOut
  repeat' first
    | with_reducible assumption
    | with_reducible apply State.err_parts
    | with_reducible apply State.bump_parts
    | split

theorem State.tilePoison_parts {M : Part → Prop} {z : State} {s : State} (h : Parts M z s) (g : Nat) (d : TDesc) (lines :
    List Nat) (m_free : M .free) (m_regs : M .regs) (m_mem : M .mem) (m_events : M .events) (m_host : M .host)
    (m_arrays : M .arrays) :
    Parts M z (State.tilePoison s g d lines) := by
  unfold State.tilePoison
  repeat' first
    | with_reducible assumption
    | with_reducible apply State.poisonOut_parts
    | with_reducible apply State.poisonLine_parts
    | with_reducible refine parts_foldl (fun t x ht => ?_) ?_
    | split

theorem State.tileWrite_parts {M : Part → Prop} {z : State} {s : State} (h : Parts M z s) (g : Nat) (d : TDesc) (rows :
    List TRow) (m_free : M .free) (m_regs : M .regs) (m_mem : M .mem) (m_events : M .events) (m_host : M .host)
    (m_arrays : M .arrays) (m_watch : M .watch) :
    Parts M z (State.tileWrite s g d rows) := by
  unfold State.tileWrite
  repeat' first
    | with_reducible assumption
    | with_reducible apply State.tilePoison_parts
    | with_reducible apply State.tileStore_parts
    | with_reducible refine parts_foldl (fun t x ht => ?_) ?_
    | split

end Sys2Proof.Machine
end

