-- ==== Sys2Proof/Laws/PartsTileOps.lean ====
section
/-! SUPPORT. What the operations of TileOps.lean touch (Parts). -/

namespace Sys2Proof.Machine

open Sys2Proof

theorem State.icResults_parts {M : Part → Prop} {z : State} {s : State} (h : Parts M z s) (c : ICtx) (keep : Bool) (pre :
    Fx) (rows : List (Nat × List TVal)) (m_free : M .free) (m_regs : M .regs) (m_mem : M .mem) (m_events : M .events)
    (m_host : M .host) (m_arrays : M .arrays) (m_watch : M .watch) :
    Parts M z (State.icResults s c keep pre rows) := by
  unfold State.icResults
  repeat' first
    | with_reducible assumption
    | with_reducible apply State.tileWrite_parts
    | with_reducible apply State.arith_parts

theorem State.icRead_parts {M : Part → Prop} {z : State} {s : State} (h : Parts M z s) (c : ICtx) (l : List (Option
    TDesc)) (m_free : M .free) (m_regs : M .regs) (m_mem : M .mem) (m_events : M .events) (m_host : M .host)
    (m_arrays : M .arrays) (m_watch : M .watch) :
    Parts M z (State.icRead s c l) := by
  unfold State.icRead
  repeat' first
    | with_reducible assumption
    | with_reducible apply State.tileReadAll_parts
    | with_reducible refine parts_foldl (fun t x ht => ?_) ?_

theorem State.elemwise_parts {M : Part → Prop} {z : State} {s : State} (h : Parts M z s) (c : ICtx) (m_free : M .free)
    (m_regs : M .regs) (m_mem : M .mem) (m_events : M .events) (m_host : M .host) (m_arrays : M .arrays)
    (m_watch : M .watch) :
    Parts M z (State.elemwise s c) := by
  unfold State.elemwise
  repeat' first
    | with_reducible assumption
    | with_reducible apply State.icRead_parts
    | with_reducible apply State.icResults_parts

theorem State.fillOp_parts {M : Part → Prop} {z : State} {s : State} (h : Parts M z s) (c : ICtx) (m_free : M .free)
    (m_regs : M .regs) (m_mem : M .mem) (m_events : M .events) (m_host : M .host) (m_arrays : M .arrays)
    (m_watch : M .watch) :
    Parts M z (State.fillOp s c) := by
  unfold State.fillOp
  repeat' first
    | with_reducible assumption
    | with_reducible apply State.tileWrite_parts

theorem State.gatherOp_parts {M : Part → Prop} {z : State} {s : State} (h : Parts M z s) (c : ICtx) (m_free : M .free)
    (m_regs : M .regs) (m_mem : M .mem) (m_events : M .events) (m_host : M .host) (m_arrays : M .arrays)
    (m_watch : M .watch) :
    Parts M z (State.gatherOp s c) := by
  unfold State.gatherOp
  repeat' first
    | with_reducible assumption
    | with_reducible apply State.icRead_parts
    | with_reducible apply State.tileWrite_parts
    | with_reducible apply State.tileRead_parts
    | with_reducible apply State.tileBound_parts
    | with_reducible refine parts_foldl (fun t x ht => ?_) ?_

theorem State.scatterOp_parts {M : Part → Prop} {z : State} {s : State} (h : Parts M z s) (c : ICtx) (m_free : M .free)
    (m_regs : M .regs) (m_mem : M .mem) (m_events : M .events) (m_host : M .host) (m_arrays : M .arrays) (m_watch : M
    .watch) :
    Parts M z (State.scatterOp s c) := by
  unfold State.scatterOp
  repeat' first
    | with_reducible assumption
    | with_reducible apply State.icRead_parts
    | with_reducible apply State.icResults_parts
    | with_reducible apply State.tileWrite_parts
    | with_reducible apply State.tilePoison_parts
    | with_reducible apply State.tileRead_parts
    | with_reducible apply State.tileBound_parts
    | with_reducible refine parts_foldl (fun t x ht => ?_) ?_
    | with_reducible refine parts_foldl_1 (fun t x ht => ?_) ?_
    | with_reducible refine parts_foldl_2 (fun t x ht => ?_) ?_
    | with_reducible refine parts_foldl_3 (fun t x ht => ?_) ?_
    | split
    | dsimp only

theorem State.mmaOp_parts {M : Part → Prop} {z : State} {s : State} (h : Parts M z s) (c : ICtx) (m_free : M .free)
    (m_regs : M .regs) (m_mem : M .mem) (m_events : M .events) (m_host : M .host) (m_arrays : M .arrays) (m_watch : M
    .watch) :
    Parts M z (State.mmaOp s c) := by
  unfold State.mmaOp
  repeat' first
    | with_reducible assumption
    | with_reducible apply State.icResults_parts
    | with_reducible apply State.tileReadAll_parts
    | with_reducible apply State.tileReadSome_parts
    | with_reducible refine parts_foldl (fun t x ht => ?_) ?_
    | with_reducible refine parts_foldl_1 (fun t x ht => ?_) ?_
    | with_reducible refine parts_foldl_2 (fun t x ht => ?_) ?_
    | with_reducible refine parts_foldl_3 (fun t x ht => ?_) ?_
    | split
    | dsimp only

theorem State.rowRed_parts {M : Part → Prop} {z : State} {s : State} (h : Parts M z s) (c : ICtx) (m_free : M .free)
    (m_regs : M .regs) (m_mem : M .mem) (m_events : M .events) (m_host : M .host) (m_arrays : M .arrays)
    (m_watch : M .watch) :
    Parts M z (State.rowRed s c) := by
  unfold State.rowRed
  repeat' first
    | with_reducible assumption
    | with_reducible apply State.icRead_parts
    | with_reducible apply State.icResults_parts

theorem State.insnData_parts {M : Part → Prop} {z : State} {s : State} (h : Parts M z s) (c : ICtx) (m_free : M .free)
    (m_regs : M .regs) (m_mem : M .mem) (m_events : M .events) (m_host : M .host) (m_belfry : M .belfry) (m_arrays : M
    .arrays) (m_watch : M .watch) :
    Parts M z (State.insnData s c) := by
  unfold State.insnData
  repeat' first
    | with_reducible assumption
    | with_reducible apply State.rowRed_parts
    | with_reducible apply State.mmaOp_parts
    | with_reducible apply State.scatterOp_parts
    | with_reducible apply State.gatherOp_parts
    | with_reducible apply State.fillOp_parts
    | with_reducible apply State.elemwise_parts
    | with_reducible apply State.fp64Denied_parts
    | split
    | dsimp only

end Sys2Proof.Machine
end

