-- ==== Sys2Proof/Laws/PartsRaces.lean ====
section
/-! SUPPORT. What the operations of Races.lean touch (Parts). -/

namespace Sys2Proof.Machine

open Sys2Proof

theorem State.raceOpen_parts {M : Part → Prop} {z : State} {s : State} (h : Parts M z s) (c : ICtx) (m_mem : M .mem) :
    Parts M z (State.raceOpen s c) := by
  unfold State.raceOpen
  repeat' first
    | with_reducible assumption
    | with_reducible apply State.poke_parts
    | with_reducible refine parts_foldl (fun t x ht => ?_) ?_
    | with_reducible refine parts_foldl_1 (fun t x ht => ?_) ?_
    | with_reducible refine parts_foldl_2 (fun t x ht => ?_) ?_
    | with_reducible refine parts_foldl_3 (fun t x ht => ?_) ?_
    | split
    | dsimp only

end Sys2Proof.Machine
end

