-- ==== Sys2Proof/Laws/PartsSpotCheck.lean ====
section
/-! SUPPORT. What the operations of SpotCheck.lean touch (Parts). -/

namespace Sys2Proof.Machine

open Sys2Proof

theorem State.setSpot_parts {M : Part → Prop} {z : State} {s : State} (h : Parts M z s) (i : Nat) (x : Spot) (m_spots :
    M .spots) : Parts M z (State.setSpot s i x) := by
  unfold State.setSpot
  repeat' first
    | with_reducible exact Or.inr rfl
    | with_reducible exact Or.inr ⟨rfl, rfl, rfl, rfl, rfl⟩
    | with_reducible exact Or.inl (by assumption)
    | with_reducible assumption
    | with_reducible apply State.put_parts
    | dsimp only
    | with_reducible apply parts_mk

theorem State.spotArmOne_parts {M : Part → Prop} {z : State} {s : State} (h : Parts M z s) (n c : Nat) (m_spots : M
    .spots) : Parts M z (State.spotArmOne s n c) := by
  unfold State.spotArmOne
  repeat' first
    | with_reducible assumption
    | with_reducible apply State.setSpot_parts
    | split

theorem State.spotArm_parts {M : Part → Prop} {z : State} {s : State} (h : Parts M z s) (m_spots : M .spots) : Parts M z
    (State.spotArm s) := by
  unfold State.spotArm
  repeat' first
    | with_reducible assumption
    | with_reducible apply State.spotArmOne_parts
    | with_reducible refine parts_foldl (fun t x ht => ?_) ?_
    | split
    | dsimp only

theorem State.spotSample_parts {M : Part → Prop} {z : State} {s : State} (h : Parts M z s) (g : Nat) (m : List Byte)
    (m_spots : M .spots) :
    Parts M z (State.spotSample s g m) := by
  unfold State.spotSample
  repeat' first
    | with_reducible assumption
    | with_reducible apply State.setSpot_parts
    | split
    | dsimp only

theorem State.spotLoad_parts {M : Part → Prop} {z : State} {s : State} (h : Parts M z s) (g : Nat) (m_spots : M .spots)
    :
    Parts M z (State.spotLoad s g) := by
  unfold State.spotLoad
  repeat' first
    | with_reducible assumption
    | with_reducible apply State.setSpot_parts
    | split
    | dsimp only

theorem State.spotCapture_parts {M : Part → Prop} {z : State} {s : State} (h : Parts M z s) (c : ICtx) (m_spots : M
    .spots) : Parts M z (State.spotCapture s c) := by
  unfold State.spotCapture
  repeat' first
    | with_reducible assumption
    | with_reducible apply State.setSpot_parts
    | split

end Sys2Proof.Machine
end

