-- ==== Sys2Proof/Laws/PartsTileRun.lean ====
section
/-! SUPPORT. What the operations of TileRun.lean touch (Parts). -/

namespace Sys2Proof.Machine

open Sys2Proof

theorem State.insnDone_parts {M : Part → Prop} {z : State} {s : State} (h : Parts M z s) (g i : Nat) (m_tiles : M
    .tiles) : Parts M z (State.insnDone s g i) := by
  unfold State.insnDone
  repeat' first
    | with_reducible assumption
    | with_reducible apply State.setTile_parts
    | split
    | dsimp only

theorem State.insnRun_parts {M : Part → Prop} {z : State} {s : State} (h : Parts M z s) (g i op : Nat) (f : State → ICtx →
    State)
    (hf : ∀ t c, Parts M z t → Parts M z (f t c)) (m_tiles : M .tiles) : Parts M z (State.insnRun s g i op f) := by
  unfold State.insnRun
  split
  · exact State.insnDone_parts (hf _ _ h) _ _ (m_tiles := m_tiles)
  · exact h

theorem State.flagInc_parts {M : Part → Prop} {z : State} {s : State} (h : Parts M z s) (g f : Nat) (m_tiles : M .tiles)
    : Parts M z (State.flagInc s g f) := by
  unfold State.flagInc
  repeat' first
    | with_reducible assumption
    | with_reducible apply State.setTile_parts

theorem State.waitDone_parts {M : Part → Prop} {z : State} {s : State} (h : Parts M z s) (g q : Nat) (m_tiles : M
    .tiles) : Parts M z (State.waitDone s g q) := by
  unfold State.waitDone
  repeat' first
    | with_reducible assumption
    | with_reducible apply State.setTile_parts
    | split
    | dsimp only

theorem State.waitBegin_parts {M : Part → Prop} {z : State} {s : State} (h : Parts M z s) (c : ICtx) (need : Nat)
    (m_tiles : M .tiles) : Parts M z (State.waitBegin s c need) := by
  unfold State.waitBegin
  repeat' first
    | with_reducible assumption
    | with_reducible apply State.waitDone_parts
    | with_reducible apply State.setTile_parts

theorem State.flagSet_parts {M : Part → Prop} {z : State} {s : State} (h : Parts M z s) (g i : Nat) (m_tiles : M .tiles)
    : Parts M z (State.flagSet s g i) := by
  unfold State.flagSet
  repeat' first
    | with_reducible assumption
    | with_reducible apply State.flagInc_parts
    | with_reducible apply State.insnRun_parts
    | intro _

theorem State.flagWait_parts {M : Part → Prop} {z : State} {s : State} (h : Parts M z s) (g i : Nat) (m_tiles : M
    .tiles) : Parts M z (State.flagWait s g i) := by
  unfold State.flagWait
  repeat' first
    | with_reducible assumption
    | with_reducible apply State.waitBegin_parts
    | split

theorem State.flagWaitv_parts {M : Part → Prop} {z : State} {s : State} (h : Parts M z s) (g i : Nat) (m_free : M .free)
    (m_regs : M .regs) (m_mem : M .mem) (m_events : M .events) (m_host : M .host) (m_arrays : M .arrays) (m_watch : M
    .watch) (m_tiles : M .tiles) :
    Parts M z (State.flagWaitv s g i) := by
  unfold State.flagWaitv
  repeat' first
    | with_reducible assumption
    | with_reducible apply State.waitBegin_parts
    | with_reducible apply State.insnDone_parts
    | with_reducible apply State.tileTouch_parts
    | with_reducible apply State.tileBound_parts
    | split
    | dsimp only

theorem State.landLine_parts {M : Part → Prop} {z : State} {s : State} (h : Parts M z s) (sid j o a n line : Nat)
    (m_free : M .free) (m_regs : M .regs) (m_mem : M .mem) (m_events : M .events) (m_host : M .host) (m_arrays : M
    .arrays) (m_watch : M .watch) :
    Parts M z (State.landLine s sid j o a n line) := by
  unfold State.landLine
  repeat' first
    | with_reducible assumption
    | with_reducible apply State.store_parts
    | with_reducible apply State.poisonLine_parts
    | split
    | dsimp only

theorem State.landChunk_parts {M : Part → Prop} {z : State} {s : State} (h : Parts M z s) (sid j : Nat) (m_free : M
    .free) (m_regs : M .regs) (m_mem : M .mem) (m_events : M .events) (m_host : M .host) (m_arrays : M .arrays) (m_watch
    : M .watch) :
    Parts M z (State.landChunk s sid j) := by
  unfold State.landChunk
  repeat' first
    | with_reducible assumption
    | with_reducible apply State.landLine_parts
    | with_reducible refine parts_foldl (fun t x ht => ?_) ?_
    | with_reducible refine parts_foldl_1 (fun t x ht => ?_) ?_
    | with_reducible refine parts_foldl_2 (fun t x ht => ?_) ?_
    | with_reducible refine parts_foldl_3 (fun t x ht => ?_) ?_
    | split
    | dsimp only

theorem State.applyAflag_parts {M : Part → Prop} {z : State} {s : State} (h : Parts M z s) (sid : Nat) (m_tiles : M
    .tiles) : Parts M z (State.applyAflag s sid) := by
  unfold State.applyAflag
  repeat' first
    | with_reducible assumption
    | with_reducible apply State.flagInc_parts
    | with_reducible apply State.setTile_parts
    | with_reducible refine parts_foldl (fun t x ht => ?_) ?_
    | split
    | dsimp only

theorem State.consumeLand_parts {M : Part → Prop} {z : State} {s : State} (h : Parts M z s) (link sid o : Nat) (m_out :
    M .out) (m_free : M .free) (m_regs : M .regs) (m_mem : M .mem) (m_events : M .events) (m_host : M .host) (m_belfry :
    M .belfry) (m_links : M .links) (m_arrays : M .arrays) (m_watch : M .watch) (m_sched : M .sched) (m_tiles : M
    .tiles) : Parts M z (State.consumeLand s link sid o) := by
  unfold State.consumeLand
  repeat' first
    | with_reducible assumption
    | with_reducible apply State.applyAflag_parts
    | with_reducible apply State.landChunk_parts
    | with_reducible apply State.consume_parts
    | split
    | dsimp only

theorem State.consumeAll_parts {M : Part → Prop} {z : State} {s : State} (h : Parts M z s) (m_out : M .out) (m_free : M
    .free) (m_regs : M .regs) (m_mem : M .mem) (m_events : M .events) (m_host : M .host) (m_belfry : M .belfry) (m_links
    : M .links) (m_arrays : M .arrays) (m_watch : M .watch) (m_sched : M .sched) (m_tiles : M .tiles) : Parts M z
    (State.consumeAll s) := by
  unfold State.consumeAll
  repeat' first
    | with_reducible assumption
    | with_reducible apply State.consumeLand_parts
    | with_reducible refine parts_foldl (fun t x ht => ?_) ?_
    | split

theorem State.sendOut_parts {M : Part → Prop} {z : State} {s : State} (h : Parts M z s) (g : Nat) (m : List Byte) (b :
    Nat × TBind) (m_free : M .free) (m_regs : M .regs) (m_mem : M .mem) (m_events : M .events) (m_host : M .host)
    (m_belfry : M .belfry) (m_arrays : M .arrays) (m_watch : M .watch) (m_sched : M .sched) :
    Parts M z (State.sendOut s g m b) := by
  unfold State.sendOut
  repeat' first
    | with_reducible assumption
    | with_reducible apply State.stage_parts
    | with_reducible apply State.tileTouch_parts
    | with_reducible apply State.encodeOut_parts
    | with_reducible apply State.bump_parts
    | with_reducible refine parts_foldl (fun t x ht => ?_) ?_
    | with_reducible refine parts_foldl_1 (fun t x ht => ?_) ?_
    | with_reducible refine parts_foldl_2 (fun t x ht => ?_) ?_
    | with_reducible refine parts_foldl_3 (fun t x ht => ?_) ?_
    | split
    | dsimp only

theorem State.countOut_parts {M : Part → Prop} {z : State} {s : State} (h : Parts M z s) (p : PlanTick) (m_free : M
    .free) (m_regs : M .regs) (m_events : M .events) (m_host : M .host) :
    Parts M z (State.countOut s p) := by
  unfold State.countOut
  repeat' first
    | with_reducible assumption
    | with_reducible apply State.poisonOut_parts
    | with_reducible refine parts_foldl (fun t x ht => ?_) ?_
    | with_reducible refine parts_foldl_1 (fun t x ht => ?_) ?_
    | with_reducible refine parts_foldl_2 (fun t x ht => ?_) ?_
    | with_reducible refine parts_foldl_3 (fun t x ht => ?_) ?_
    | split
    | dsimp only

theorem State.imemWrite_parts {M : Part → Prop} {z : State} {s : State} (h : Parts M z s) (g : Nat) (lantern : Bool) (v :
    Nat) (m_free : M .free) (m_regs : M .regs) (m_mem : M .mem) (m_events : M .events) (m_host : M .host)
    (m_tiles : M .tiles) :
    Parts M z (State.imemWrite s g lantern v) := by
  unfold State.imemWrite
  repeat' first
    | with_reducible assumption
    | with_reducible apply State.setTile_parts
    | with_reducible apply State.poke_parts
    | with_reducible apply State.err_parts
    | with_reducible apply State.put_parts
    | split

theorem State.imemPerform_parts {M : Part → Prop} {z : State} {s : State} (h : Parts M z s) (g : Nat) (lantern : Bool)
    (v : Nat) (m_out : M .out) (m_free : M .free) (m_regs : M .regs) (m_mem : M .mem) (m_events : M .events) (m_host : M
    .host) (m_tiles : M .tiles) :
    Parts M z (State.imemPerform s g lantern v) := by
  unfold State.imemPerform
  repeat' first
    | with_reducible assumption
    | with_reducible apply State.imemWrite_parts
    | with_reducible apply State.emit_parts
    | split
    | dsimp only

theorem State.imemHold_parts {M : Part → Prop} {z : State} {s : State} (h : Parts M z s) (g off v : Nat) (m_tiles : M
    .tiles) :
    Parts M z (State.imemHold s g off v) := by
  unfold State.imemHold
  repeat' first
    | with_reducible assumption
    | with_reducible apply State.setTile_parts
    | split
    | dsimp only

theorem State.imemTurn_parts {M : Part → Prop} {z : State} {s : State} (h : Parts M z s) (g : Nat) (x : Nat × Nat)
    (m_out : M .out) (m_free : M .free) (m_regs : M .regs) (m_mem : M .mem) (m_events : M .events) (m_host : M .host)
    (m_tiles : M .tiles) :
    Parts M z (State.imemTurn s g x) := by
  unfold State.imemTurn
  repeat' first
    | with_reducible assumption
    | with_reducible apply State.imemPerform_parts
    | with_reducible apply State.put_parts
    | split
    | dsimp only

theorem State.imemRelease_parts {M : Part → Prop} {z : State} {s : State} (h : Parts M z s) (g : Nat) (m_out : M .out)
    (m_free : M .free) (m_regs : M .regs) (m_mem : M .mem) (m_events : M .events) (m_host : M .host) (m_tiles : M
    .tiles) :
    Parts M z (State.imemRelease s g) := by
  unfold State.imemRelease
  repeat' first
    | with_reducible assumption
    | with_reducible apply State.imemTurn_parts
    | with_reducible apply State.setTile_parts
    | with_reducible refine parts_foldl (fun t x ht => ?_) ?_
    | split
    | dsimp only

theorem State.bodyComplete_parts {M : Part → Prop} {z : State} {s : State} (h : Parts M z s) (g : Nat) (m_out : M .out)
    (m_free : M .free) (m_regs : M .regs) (m_mem : M .mem) (m_events : M .events) (m_host : M .host) (m_belfry : M
    .belfry) (m_arrays : M .arrays) (m_watch : M .watch) (m_sched : M .sched) (m_tiles : M .tiles) (m_spots : M .spots)
    :
    Parts M z (State.bodyComplete s g) := by
  unfold State.bodyComplete
  repeat' first
    | with_reducible assumption
    | with_reducible apply State.imemRelease_parts
    | with_reducible apply State.sendOut_parts
    | with_reducible apply State.wr_parts
    | with_reducible apply State.spotLoad_parts
    | with_reducible apply State.setTile_parts
    | with_reducible refine parts_foldl (fun t x ht => ?_) ?_
    | with_reducible refine parts_foldl_1 (fun t x ht => ?_) ?_
    | with_reducible refine parts_foldl_2 (fun t x ht => ?_) ?_
    | with_reducible refine parts_foldl_3 (fun t x ht => ?_) ?_
    | split
    | dsimp only

theorem State.fwRecord_parts {M : Part → Prop} {z : State} {s : State} (h : Parts M z s) (g : Nat) (m : List Byte)
    (m_regs : M .regs) :
    Parts M z (State.fwRecord s g m) := by
  unfold State.fwRecord
  repeat' first
    | with_reducible assumption
    | with_reducible apply State.wrs_parts
    | with_reducible apply State.wri_parts
    | with_reducible apply State.again_parts
    | with_reducible refine parts_foldl (fun t x ht => ?_) ?_
    | with_reducible refine parts_foldl_1 (fun t x ht => ?_) ?_
    | with_reducible refine parts_foldl_2 (fun t x ht => ?_) ?_
    | with_reducible refine parts_foldl_3 (fun t x ht => ?_) ?_
    | split
    | dsimp only

theorem State.bodyAbandon_parts {M : Part → Prop} {z : State} {s : State} (h : Parts M z s) (g : Nat) (m_free : M .free)
    (m_regs : M .regs) (m_events : M .events) (m_host : M .host) (m_belfry : M .belfry) (m_tiles : M .tiles) (m_spots :
    M .spots) :
    Parts M z (State.bodyAbandon s g) := by
  unfold State.bodyAbandon
  repeat' first
    | with_reducible assumption
    | with_reducible apply State.fwRecord_parts
    | with_reducible apply State.err_parts
    | with_reducible apply State.wr_parts
    | with_reducible apply State.spotLoad_parts
    | with_reducible apply State.overrun_parts
    | with_reducible apply State.setTile_parts
    | split
    | dsimp only

theorem State.serviceStart_parts {M : Part → Prop} {z : State} {s : State} (h : Parts M z s) (g : Nat) (m_regs : M
    .regs) (m_tiles : M .tiles) :
    Parts M z (State.serviceStart s g) := by
  unfold State.serviceStart
  repeat' first
    | with_reducible assumption
    | with_reducible apply State.wr_parts
    | with_reducible apply State.setTile_parts
    | split
    | dsimp only

theorem State.serviceBodies_parts {M : Part → Prop} {z : State} {s : State} (h : Parts M z s) (m_regs : M .regs)
    (m_tiles : M .tiles) :
    Parts M z (State.serviceBodies s) := by
  unfold State.serviceBodies
  repeat' first
    | with_reducible assumption
    | with_reducible apply State.serviceStart_parts
    | with_reducible refine parts_foldl (fun t x ht => ?_) ?_
    | split
    | dsimp only

theorem State.tileEnd_parts {M : Part → Prop} {z : State} {s : State} (h : Parts M z s) (g : Nat) (m_out : M .out)
    (m_free : M .free) (m_regs : M .regs) (m_mem : M .mem) (m_events : M .events) (m_host : M .host) (m_belfry : M
    .belfry) (m_arrays : M .arrays) (m_watch : M .watch) (m_sched : M .sched) (m_tiles : M .tiles) (m_spots : M .spots)
    : Parts M z (State.tileEnd s g) := by
  unfold State.tileEnd
  repeat' first
    | with_reducible assumption
    | with_reducible apply State.bodyAbandon_parts
    | with_reducible apply State.bodyComplete_parts
    | with_reducible apply State.imemRelease_parts
    | with_reducible apply State.wr_parts
    | with_reducible apply State.setTile_parts
    | split
    | dsimp only

theorem State.bodyIssue_parts {M : Part → Prop} {z : State} {s : State} (h : Parts M z s) (g : Nat) (m_regs : M .regs)
    (m_tiles : M .tiles) :
    Parts M z (State.bodyIssue s g) := by
  unfold State.bodyIssue
  repeat' first
    | with_reducible assumption
    | with_reducible apply State.wrs_parts
    | with_reducible apply State.setTile_parts
    | split
    | dsimp only

theorem State.bankSwap_parts {M : Part → Prop} {z : State} {s : State} (h : Parts M z s) (g : Nat) (m_regs : M .regs)
    (m_tiles : M .tiles) :
    Parts M z (State.bankSwap s g) := by
  unfold State.bankSwap
  repeat' first
    | with_reducible assumption
    | with_reducible apply State.wr_parts
    | with_reducible apply State.setTile_parts
    | split
    | dsimp only

theorem State.prefetch_parts {M : Part → Prop} {z : State} {s : State} (h : Parts M z s) (g : Nat) (m_tiles : M .tiles)
    : Parts M z (State.prefetch s g) := by
  unfold State.prefetch
  repeat' first
    | with_reducible assumption
    | with_reducible apply State.setTile_parts
    | split
    | dsimp only

theorem State.prefetchAll_parts {M : Part → Prop} {z : State} {s : State} (h : Parts M z s) (m_tiles : M .tiles) : Parts
    M z (State.prefetchAll s) := by
  unfold State.prefetchAll
  repeat' first
    | with_reducible assumption
    | with_reducible apply State.prefetch_parts
    | with_reducible refine parts_foldl (fun t x ht => ?_) ?_

theorem State.tileStart_parts {M : Part → Prop} {z : State} {s : State} (h : Parts M z s) (g : Nat) (m_regs : M .regs)
    (m_tiles : M .tiles) (m_spots : M .spots) :
    Parts M z (State.tileStart s g) := by
  unfold State.tileStart
  repeat' first
    | with_reducible assumption
    | with_reducible apply State.bankSwap_parts
    | with_reducible apply State.bodyIssue_parts
    | with_reducible apply State.spotSample_parts
    | with_reducible apply State.setTile_parts
    | split
    | dsimp only

theorem State.prefetchDone_parts {M : Part → Prop} {z : State} {s : State} (h : Parts M z s) (g : Nat) (m_free : M
    .free) (m_regs : M .regs) (m_events : M .events) (m_host : M .host) (m_tiles : M .tiles) :
    Parts M z (State.prefetchDone s g) := by
  unfold State.prefetchDone
  repeat' first
    | with_reducible assumption
    | with_reducible apply State.prefetch_parts
    | with_reducible apply State.bankSwap_parts
    | with_reducible apply State.bodyIssue_parts
    | with_reducible apply State.err_parts
    | with_reducible apply State.bump_parts
    | with_reducible apply State.setTile_parts
    | split
    | dsimp only

theorem State.prefetchDue_parts {M : Part → Prop} {z : State} {s : State} (h : Parts M z s) (g : Nat) (m_free : M .free)
    (m_regs : M .regs) (m_events : M .events) (m_host : M .host) (m_tiles : M .tiles) :
    Parts M z (State.prefetchDue s g) := by
  unfold State.prefetchDue
  repeat' first
    | with_reducible assumption
    | with_reducible apply State.prefetchDone_parts
    | split
    | dsimp only

theorem State.dataInsn_parts {M : Part → Prop} {z : State} {s : State} (h : Parts M z s) (g i op : Nat) (m_free : M
    .free) (m_regs : M .regs) (m_mem : M .mem) (m_events : M .events) (m_host : M .host) (m_belfry : M .belfry)
    (m_arrays : M .arrays) (m_watch : M .watch) (m_tiles : M .tiles) (m_spots : M .spots) :
    Parts M z (State.dataInsn s g i op) := by
  unfold State.dataInsn
  repeat' first
    | with_reducible assumption
    | with_reducible apply State.insnRun_parts
    | with_reducible apply State.insnData_parts
    | with_reducible apply State.raceOpen_parts
    | with_reducible apply State.spotCapture_parts
    | intro _
    | split
    | dsimp only

theorem State.fence_parts {M : Part → Prop} {z : State} {s : State} (h : Parts M z s) (g i op : Nat) (m_tiles : M
    .tiles) : Parts M z (State.fence s g i op) := by
  unfold State.fence
  repeat' first
    | with_reducible assumption
    | with_reducible apply State.insnRun_parts
    | intro _

end Sys2Proof.Machine
end

