-- ==== Sys2Proof/Laws/PartsLibrary.lean ====
section
/-! SUPPORT. What the operations of Library.lean touch (Parts). -/

namespace Sys2Proof.Machine

open Sys2Proof

theorem State.libWrite_parts {M : Part → Prop} {z : State} {s : State} (h : Parts M z s) (c : ICtx) (fx : Fx) (rows : List
    TRow) (m_free : M .free) (m_regs : M .regs) (m_mem : M .mem) (m_events : M .events) (m_host : M .host)
    (m_arrays : M .arrays) (m_watch : M .watch) :
    Parts M z (State.libWrite s c fx rows) := by
  unfold State.libWrite
  repeat' first
    | with_reducible assumption
    | with_reducible apply State.tileWrite_parts
    | with_reducible apply State.arith_parts

theorem State.libSort_parts {M : Part → Prop} {z : State} {s : State} (h : Parts M z s) (c : ICtx) (m_free : M .free)
    (m_regs : M .regs) (m_mem : M .mem) (m_events : M .events) (m_host : M .host) (m_arrays : M .arrays)
    (m_watch : M .watch) :
    Parts M z (State.libSort s c) := by
  unfold State.libSort
  repeat' first
    | with_reducible assumption
    | with_reducible apply State.libWrite_parts
    | with_reducible apply State.icRead_parts

theorem State.libTopk_parts {M : Part → Prop} {z : State} {s : State} (h : Parts M z s) (c : ICtx) (m_free : M .free)
    (m_regs : M .regs) (m_mem : M .mem) (m_events : M .events) (m_host : M .host) (m_arrays : M .arrays)
    (m_watch : M .watch) :
    Parts M z (State.libTopk s c) := by
  unfold State.libTopk
  repeat' first
    | with_reducible assumption
    | with_reducible apply State.libWrite_parts
    | with_reducible apply State.icRead_parts
    | with_reducible apply State.tileWrite_parts
    | split

theorem State.libRound_parts {M : Part → Prop} {z : State} {s : State} (h : Parts M z s) (c : ICtx) (pre : Fx) (rows :
    List (Nat × List TVal)) (m_free : M .free) (m_regs : M .regs) (m_mem : M .mem) (m_events : M .events)
    (m_host : M .host) (m_arrays : M .arrays) (m_watch : M .watch) :
    Parts M z (State.libRound s c pre rows) := by
  unfold State.libRound
  repeat' first
    | with_reducible assumption
    | with_reducible apply State.libWrite_parts

theorem State.libSoftmax_parts {M : Part → Prop} {z : State} {s : State} (h : Parts M z s) (c : ICtx) (m_free : M .free)
    (m_regs : M .regs) (m_mem : M .mem) (m_events : M .events) (m_host : M .host) (m_arrays : M .arrays)
    (m_watch : M .watch) :
    Parts M z (State.libSoftmax s c) := by
  unfold State.libSoftmax
  repeat' first
    | with_reducible assumption
    | with_reducible apply State.libRound_parts
    | with_reducible apply State.icRead_parts

theorem State.libAttnPartial_parts {M : Part → Prop} {z : State} {s : State} (h : Parts M z s) (c : ICtx) (m_free : M
    .free) (m_regs : M .regs) (m_mem : M .mem) (m_events : M .events) (m_host : M .host) (m_arrays : M .arrays) (m_watch
    : M .watch) :
    Parts M z (State.libAttnPartial s c) := by
  unfold State.libAttnPartial
  repeat' first
    | with_reducible assumption
    | with_reducible apply State.libWrite_parts
    | with_reducible apply State.tileTouch_parts
    | with_reducible apply State.icRead_parts
    | with_reducible apply State.tileBound_parts
    | with_reducible refine parts_foldl (fun t x ht => ?_) ?_
    | with_reducible refine parts_foldl_1 (fun t x ht => ?_) ?_
    | with_reducible refine parts_foldl_2 (fun t x ht => ?_) ?_
    | with_reducible refine parts_foldl_3 (fun t x ht => ?_) ?_
    | split
    | dsimp only

theorem State.libAttnMerge_parts {M : Part → Prop} {z : State} {s : State} (h : Parts M z s) (c : ICtx) (m_free : M .free)
    (m_regs : M .regs) (m_mem : M .mem) (m_events : M .events) (m_host : M .host) (m_arrays : M .arrays)
    (m_watch : M .watch) :
    Parts M z (State.libAttnMerge s c) := by
  unfold State.libAttnMerge
  repeat' first
    | with_reducible assumption
    | with_reducible apply State.libRound_parts
    | with_reducible apply State.icRead_parts

theorem State.libScan_parts {M : Part → Prop} {z : State} {s : State} (h : Parts M z s) (c : ICtx) (m_free : M .free)
    (m_regs : M .regs) (m_mem : M .mem) (m_events : M .events) (m_host : M .host) (m_arrays : M .arrays)
    (m_watch : M .watch) :
    Parts M z (State.libScan s c) := by
  unfold State.libScan
  repeat' first
    | with_reducible assumption
    | with_reducible apply State.libRound_parts
    | with_reducible apply State.icRead_parts

theorem State.libHistogram_parts {M : Part → Prop} {z : State} {s : State} (h : Parts M z s) (c : ICtx) (m_free : M
    .free) (m_regs : M .regs) (m_mem : M .mem) (m_events : M .events) (m_host : M .host) (m_arrays : M .arrays) (m_watch
    : M .watch) :
    Parts M z (State.libHistogram s c) := by
  unfold State.libHistogram
  repeat' first
    | with_reducible assumption
    | with_reducible apply State.libWrite_parts
    | with_reducible apply State.icRead_parts
    | with_reducible apply State.tileBound_parts
    | with_reducible refine parts_foldl (fun t x ht => ?_) ?_
    | split
    | dsimp only

theorem State.libFilter_parts {M : Part → Prop} {z : State} {s : State} (h : Parts M z s) (c : ICtx) (m_free : M .free)
    (m_regs : M .regs) (m_mem : M .mem) (m_events : M .events) (m_host : M .host) (m_arrays : M .arrays)
    (m_watch : M .watch) :
    Parts M z (State.libFilter s c) := by
  unfold State.libFilter
  repeat' first
    | with_reducible assumption
    | with_reducible apply State.libWrite_parts
    | with_reducible apply State.icRead_parts
    | with_reducible apply State.tileBound_parts
    | with_reducible refine parts_foldl (fun t x ht => ?_) ?_

theorem State.callRun_parts {M : Part → Prop} {z : State} {s : State} (h : Parts M z s) (g i id : Nat) (f : State → ICtx →
    State)
    (hf : ∀ t c, Parts M z t → Parts M z (f t c)) (m_tiles : M .tiles) : Parts M z (State.callRun s g i id f) := by
  unfold State.callRun
  split
  · split
    · exact State.insnDone_parts (hf _ _ h) _ _ (m_tiles := m_tiles)
    · exact h
  · exact h

end Sys2Proof.Machine
end

