-- ==== Sys2Proof/Laws/PartsOpenPlane.lean ====
section
/-! SUPPORT. What the operations of OpenPlane.lean touch (Parts). -/

namespace Sys2Proof.Machine

open Sys2Proof

theorem State.noteSwitched_parts {M : Part → Prop} {z : State} {s : State} (h : Parts M z s) (l vc : Nat) (f : Flit)
    (m_opn : M .opn) :
    Parts M z (State.noteSwitched s l vc f) := by
  unfold State.noteSwitched
  repeat' first
    | with_reducible assumption
    | with_reducible apply State.setOpn_parts
    | split
    | dsimp only

theorem State.switchLost_parts {M : Part → Prop} {z : State} {s : State} (h : Parts M z s) (l vc : Nat) (f : Flit)
    (m_out : M .out) (m_free : M .free) (m_regs : M .regs) (m_events : M .events) (m_host : M .host) (m_links : M
    .links) (m_opn : M .opn) :
    Parts M z (State.switchLost s l vc f) := by
  unfold State.switchLost
  repeat' first
    | with_reducible assumption
    | with_reducible apply State.fwdPoison_parts
    | with_reducible apply State.returnCredit_parts
    | with_reducible apply State.setOpn_parts
    | split
    | dsimp only

theorem State.ingressSwitch_parts {M : Part → Prop} {z : State} {s : State} (h : Parts M z s) (l vc : Nat) (m_out : M
    .out) (m_free : M .free) (m_regs : M .regs) (m_events : M .events) (m_host : M .host) (m_links : M .links) (m_opn :
    M .opn) (m_arrays : M .arrays) :
    Parts M z (State.ingressSwitch s l vc) := by
  unfold State.ingressSwitch
  repeat' first
    | with_reducible assumption
    | with_reducible apply State.switchLost_parts
    | with_reducible apply State.noteSwitched_parts
    | with_reducible apply State.ageDiscard_parts
    | with_reducible apply State.forward_parts
    | with_reducible apply State.err_parts
    | with_reducible apply State.returnCredit_parts
    | with_reducible apply State.setOpn_parts
    | with_reducible apply State.flitRead_parts
    | with_reducible apply State.bump_parts
    | with_reducible apply State.headerDiscard_parts
    | with_reducible refine State.flitRead_next_parts ?_ (by assumption) (by assumption) (by assumption) (by assumption) (by assumption) (by assumption)
    | split
    | dsimp only

theorem State.ovfWrite_parts {M : Part → Prop} {z : State} {s : State} (h : Parts M z s) (k v : Nat) (m_free : M .free)
    (m_regs : M .regs) (m_events : M .events) (m_host : M .host) :
    Parts M z (State.ovfWrite s k v) := by
  unfold State.ovfWrite
  repeat' first
    | with_reducible assumption
    | with_reducible apply State.err_parts
    | with_reducible apply State.put_parts
    | with_reducible refine parts_foldl (fun t x ht => ?_) ?_
    | split
    | dsimp only

theorem State.holdFull_parts {M : Part → Prop} {z : State} {s : State} (h : Parts M z s) (k : Nat) (r : Ready) (m_free :
    M .free) (m_regs : M .regs) (m_events : M .events) (m_host : M .host) (m_opn : M .opn) :
    Parts M z (State.holdFull s k r) := by
  unfold State.holdFull
  repeat' first
    | with_reducible assumption
    | with_reducible apply State.err_parts
    | with_reducible apply State.setOpn_parts
    | with_reducible apply State.bump_parts
    | split
    | dsimp only

theorem State.enqueue_parts {M : Part → Prop} {z : State} {s : State} (h : Parts M z s) (k o vc : Nat) (r : Ready) (f :
    Option Flit) (m_free : M .free) (m_regs : M .regs) (m_events : M .events) (m_host : M .host) (m_opn : M .opn) :
    Parts M z (State.enqueue s k o vc r f) := by
  unfold State.enqueue
  repeat' first
    | with_reducible assumption
    | with_reducible apply State.fwdPoison_parts
    | with_reducible apply State.setQueue_parts
    | with_reducible apply State.bump_parts
    | split
    | dsimp only

theorem State.egressAdmit_parts {M : Part → Prop} {z : State} {s : State} (h : Parts M z s) (k o vc : Nat) (src :
    QSource) (m_out : M .out) (m_free : M .free) (m_regs : M .regs) (m_events : M .events) (m_host : M .host) (m_links :
    M .links) (m_opn : M .opn) (m_arrays : M .arrays) (m_power : M .power) :
    Parts M z (State.egressAdmit s k o vc src) := by
  unfold State.egressAdmit
  repeat' first
    | with_reducible assumption
    | with_reducible apply State.enqueue_parts
    | with_reducible apply State.holdFull_parts
    | with_reducible apply State.returnCredit_parts
    | with_reducible apply State.wakeBank_parts
    | with_reducible apply State.setOpn_parts
    | with_reducible apply State.flitRead_parts
    | with_reducible refine State.flitRead_next_parts ?_ (by assumption) (by assumption) (by assumption) (by assumption) (by assumption) (by assumption)
    | split
    | dsimp only

theorem State.spillWrite_parts {M : Part → Prop} {z : State} {s : State} (h : Parts M z s) (k o vc : Nat) (m_free : M
    .free) (m_regs : M .regs) (m_mem : M .mem) (m_events : M .events) (m_host : M .host) (m_opn : M .opn) (m_arrays : M
    .arrays) (m_watch : M .watch) (m_power : M .power) :
    Parts M z (State.spillWrite s k o vc) := by
  unfold State.spillWrite
  repeat' first
    | with_reducible assumption
    | with_reducible apply State.store_parts
    | with_reducible apply State.countLeft_parts
    | with_reducible apply State.setQueue_parts
    | with_reducible apply State.flitRead_parts
    | with_reducible apply State.bump_parts
    | with_reducible apply State.wakeDom_parts
    | with_reducible refine State.flitRead_next_parts ?_ (by assumption) (by assumption) (by assumption) (by assumption) (by assumption) (by assumption)
    | split
    | dsimp only

theorem State.spillUe_parts {M : Part → Prop} {z : State} {s : State} (h : Parts M z s) (k place : Nat) (m_free : M
    .free) (m_regs : M .regs) (m_mem : M .mem) (m_events : M .events) (m_host : M .host) (m_arrays : M .arrays) :
    Parts M z (State.spillUe s k place) := by
  unfold State.spillUe
  repeat' first
    | with_reducible assumption
    | with_reducible apply State.err_parts
    | with_reducible apply State.bump_parts
    | with_reducible apply State.ueLine_parts
    | split
    | dsimp only

theorem State.spillReadback_parts {M : Part → Prop} {z : State} {s : State} (h : Parts M z s) (k o vc : Nat) (ecc :
    SpillEcc) (m_free : M .free) (m_regs : M .regs) (m_mem : M .mem) (m_events : M .events) (m_host : M .host) (m_opn :
    M .opn) (m_arrays : M .arrays) :
    Parts M z (State.spillReadback s k o vc ecc) := by
  unfold State.spillReadback
  repeat' first
    | with_reducible assumption
    | with_reducible apply State.spillUe_parts
    | with_reducible apply State.ageDiscard_parts
    | with_reducible apply State.countLeft_parts
    | with_reducible apply State.setQueue_parts
    | with_reducible apply State.noteCorrected_parts
    | split
    | dsimp only

theorem State.sendOnLink_parts {M : Part → Prop} {z : State} {s : State} (h : Parts M z s) (l vc : Nat) (f : Flit)
    (m_out : M .out) (m_regs : M .regs) (m_links : M .links) :
    Parts M z (State.sendOnLink s l vc f) := by
  unfold State.sendOnLink
  repeat' first
    | with_reducible assumption
    | with_reducible apply State.sendFlit_parts
    | with_reducible apply State.setCred_parts
    | split
    | dsimp only

theorem State.endpointReply_parts {M : Part → Prop} {z : State} {s : State} (h : Parts M z s) (n vc : Nat) (f : Flit)
    (m_out : M .out) (m_regs : M .regs) (m_links : M .links) (m_reservations : M .reservations) :
    Parts M z (State.endpointReply s n vc f) := by
  unfold State.endpointReply
  repeat' first
    | with_reducible exact Or.inr rfl
    | with_reducible exact Or.inr ⟨rfl, rfl, rfl, rfl, rfl⟩
    | with_reducible exact Or.inl (by assumption)
    | with_reducible assumption
    | with_reducible apply State.sendOnLink_parts
    | with_reducible apply State.bump_parts
    | split
    | dsimp only
    | with_reducible apply parts_mk

theorem State.sendHead_parts {M : Part → Prop} {z : State} {s : State} (h : Parts M z s) (k o vc : Nat) (m_out : M .out)
    (m_free : M .free) (m_regs : M .regs) (m_events : M .events) (m_host : M .host) (m_links : M .links) (m_reservations
    : M .reservations) (m_opn : M .opn) (m_arrays : M .arrays) :
    Parts M z (State.sendHead s k o vc) := by
  unfold State.sendHead
  repeat' first
    | with_reducible assumption
    | with_reducible apply State.endpointReply_parts
    | with_reducible apply State.sendOnLink_parts
    | with_reducible apply State.ageDiscard_parts
    | with_reducible apply State.countLeft_parts
    | with_reducible apply State.setQueue_parts
    | with_reducible apply State.flitRead_parts
    | with_reducible apply State.deliver_parts
    | with_reducible apply State.headerDiscard_parts
    | with_reducible refine State.flitRead_next_parts ?_ (by assumption) (by assumption) (by assumption) (by assumption) (by assumption) (by assumption)
    | split
    | dsimp only

theorem State.mergeSend_parts {M : Part → Prop} {z : State} {s : State} (h : Parts M z s) (k o : Nat) (m_out : M .out)
    (m_free : M .free) (m_regs : M .regs) (m_events : M .events) (m_host : M .host) (m_links : M .links) (m_reservations
    : M .reservations) (m_opn : M .opn) (m_arrays : M .arrays) :
    Parts M z (State.mergeSend s k o) := by
  unfold State.mergeSend
  repeat' first
    | with_reducible assumption
    | with_reducible apply State.sendHead_parts
    | with_reducible apply State.setOpn_parts
    | split
    | dsimp only

theorem State.egressSend_parts {M : Part → Prop} {z : State} {s : State} (h : Parts M z s) (k o : Nat) (m_out : M .out)
    (m_free : M .free) (m_regs : M .regs) (m_events : M .events) (m_host : M .host) (m_links : M .links) (m_reservations
    : M .reservations) (m_opn : M .opn) (m_arrays : M .arrays) :
    Parts M z (State.egressSend s k o) := by
  unfold State.egressSend
  repeat' first
    | with_reducible assumption
    | with_reducible apply State.mergeSend_parts
    | with_reducible apply State.sendMessage_parts
    | split
    | dsimp only

end Sys2Proof.Machine
end

