-- ==== Sys2Proof/Laws/PartsUpdateEngine.lean ====
section
/-! SUPPORT. What the operations of UpdateEngine.lean touch (Parts). -/

namespace Sys2Proof.Machine

open Sys2Proof

theorem State.ueRead_parts {M : Part → Prop} {z : State} {s : State} (h : Parts M z s) (x : UCtx) (loc n : Nat)
    (m_free : M .free) (m_regs : M .regs) (m_mem : M .mem) (m_events : M .events) (m_host : M .host)
    (m_arrays : M .arrays) (m_watch : M .watch) :
    Parts M z (State.ueRead s x loc n) := by
  unfold State.ueRead
  repeat' first
    | with_reducible assumption
    | with_reducible apply State.dmaRead_parts
    | split

theorem State.uePoison_parts {M : Part → Prop} {z : State} {s : State} (h : Parts M z s) (x : UCtx) (n : Nat)
    (m_free : M .free) (m_regs : M .regs) (m_events : M .events) (m_host : M .host) :
    Parts M z (State.uePoison s x n) := by
  unfold State.uePoison
  repeat' first
    | with_reducible assumption
    | with_reducible apply State.err_parts
    | with_reducible apply State.bump_parts
    | split

theorem State.ueCell_parts {M : Part → Prop} {z : State} {s : State} (h : Parts M z s) (x : UCtx) (va : Nat)
    (m_free : M .free) (m_regs : M .regs) (m_mem : M .mem) (m_events : M .events) (m_host : M .host)
    (m_arrays : M .arrays) (m_watch : M .watch) :
    Parts M z (State.ueCell s x va) := by
  unfold State.ueCell
  repeat' first
    | with_reducible assumption
    | with_reducible apply State.uePoison_parts
    | with_reducible apply State.planPoison_parts
    | with_reducible apply State.planWrite_parts
    | split

theorem State.shardRecord_parts {M : Part → Prop} {z : State} {s : State} (h : Parts M z s) (x : UCtx) (kind e : Nat)
    (dirty : Bool) (hdr tag : Nat) (m_regs : M .regs) :
    Parts M z (State.shardRecord s x kind e dirty hdr tag) := by
  unfold State.shardRecord
  repeat' first
    | with_reducible assumption
    | with_reducible apply State.wrs_parts
    | with_reducible apply State.again_parts
    | split
    | dsimp only

theorem State.ueClass_parts {M : Part → Prop} {z : State} {s : State} (h : Parts M z s) (x : UCtx) (e : Nat)
    (m_free : M .free) (m_regs : M .regs) (m_mem : M .mem) (m_events : M .events) (m_host : M .host)
    (m_arrays : M .arrays) (m_watch : M .watch) :
    Parts M z (State.ueClass s x e).1 := by
  unfold State.ueClass
  repeat' first
    | with_reducible assumption
    | with_reducible apply State.shardRecord_parts
    | with_reducible apply State.ueRead_parts
    | with_reducible apply State.tickFault_parts
    | with_reducible apply State.err_parts
    | with_reducible apply State.bump_parts
    | split
    | dsimp only

theorem State.ueSetStep_parts {M : Part → Prop} {z : State} {s : State} (h : Parts M z s) (x : UCtx) (n : Nat)
    (m_regs : M .regs) (m_ueStep : M .ueStep) :
    Parts M z (State.ueSetStep s x n) := by
  unfold State.ueSetStep
  repeat' first
    | with_reducible exact Or.inr rfl
    | with_reducible exact Or.inr ⟨rfl, rfl, rfl, rfl, rfl⟩
    | with_reducible exact Or.inl (by assumption)
    | with_reducible assumption
    | with_reducible apply State.wr_parts
    | with_reducible apply State.put_parts
    | dsimp only
    | with_reducible apply parts_mk

theorem State.ueEnd_parts {M : Part → Prop} {z : State} {s : State} (h : Parts M z s) (x : UCtx) (m_runs : M .runs) :
    Parts M z (State.ueEnd s x) := by
  unfold State.ueEnd
  repeat' first
    | with_reducible assumption
    | with_reducible apply State.setRun_parts

theorem State.normPart_parts {M : Part → Prop} {z : State} {s : State} (h : Parts M z s) (x : UCtx) (e a b : Nat)
    (m_free : M .free) (m_regs : M .regs) (m_mem : M .mem) (m_events : M .events) (m_host : M .host) (m_arrays : M
    .arrays) (m_watch : M .watch) :
    Parts M z (State.normPart s x e a b).1 := by
  unfold State.normPart
  repeat' first
    | with_reducible assumption
    | with_reducible apply State.ueRead_parts
    | with_reducible apply State.err_parts
    | with_reducible apply State.arith_parts
    | with_reducible apply State.residue_parts
    | with_reducible refine parts_foldl (fun t x ht => ?_) ?_
    | with_reducible refine parts_foldl_1 (fun t x ht => ?_) ?_
    | with_reducible refine parts_foldl_2 (fun t x ht => ?_) ?_
    | with_reducible refine parts_foldl_3 (fun t x ht => ?_) ?_
    | split
    | dsimp only

theorem State.ueNorm_parts {M : Part → Prop} {z : State} {s : State} (h : Parts M z s) (x : UCtx) (m_free : M .free)
    (m_regs : M .regs) (m_mem : M .mem) (m_events : M .events) (m_host : M .host) (m_arrays : M .arrays)
    (m_watch : M .watch) (m_runs : M .runs) (m_ueStep : M .ueStep) :
    Parts M z (State.ueNorm s x) := by
  unfold State.ueNorm
  repeat' first
    | with_reducible assumption
    | with_reducible apply State.normPart_parts
    | with_reducible apply State.ueEnd_parts
    | with_reducible apply State.ueSetStep_parts
    | with_reducible apply State.ueClass_parts
    | with_reducible apply State.ueCell_parts
    | with_reducible apply State.bump_parts
    | with_reducible refine parts_foldl (fun t x ht => ?_) ?_
    | with_reducible refine parts_foldl_1 (fun t x ht => ?_) ?_
    | with_reducible refine parts_foldl_2 (fun t x ht => ?_) ?_
    | with_reducible refine parts_foldl_3 (fun t x ht => ?_) ?_
    | split
    | dsimp only

theorem State.foldOne_parts {M : Part → Prop} {z : State} {s : State} (h : Parts M z s) (x : UCtx) (i : Nat) (m_free : M
    .free) (m_regs : M .regs) (m_mem : M .mem) (m_events : M .events) (m_host : M .host) (m_arrays : M .arrays) (m_watch
    : M .watch) :
    Parts M z (State.foldOne s x i).1 := by
  unfold State.foldOne
  repeat' first
    | with_reducible assumption
    | with_reducible apply State.ueRead_parts
    | with_reducible apply State.err_parts
    | with_reducible apply State.arith_parts
    | split
    | dsimp only

theorem State.ueFold_parts {M : Part → Prop} {z : State} {s : State} (h : Parts M z s) (x : UCtx) (m_free : M .free)
    (m_regs : M .regs) (m_mem : M .mem) (m_events : M .events) (m_host : M .host) (m_arrays : M .arrays)
    (m_watch : M .watch) (m_runs : M .runs) :
    Parts M z (State.ueFold s x) := by
  unfold State.ueFold
  repeat' first
    | with_reducible assumption
    | with_reducible apply State.foldOne_parts
    | with_reducible apply State.ueEnd_parts
    | with_reducible apply State.ueCell_parts
    | with_reducible refine parts_foldl (fun t x ht => ?_) ?_
    | with_reducible refine parts_foldl_1 (fun t x ht => ?_) ?_
    | with_reducible refine parts_foldl_2 (fun t x ht => ?_) ?_
    | with_reducible refine parts_foldl_3 (fun t x ht => ?_) ?_
    | split

theorem State.setDirty_parts {M : Part → Prop} {z : State} {s : State} (h : Parts M z s) (loc : Nat) (m_free : M .free)
    (m_regs : M .regs) (m_mem : M .mem) (m_events : M .events) (m_host : M .host) (m_arrays : M .arrays) (m_watch : M
    .watch) :
    Parts M z (State.setDirty s loc) := by
  unfold State.setDirty
  repeat' first
    | with_reducible assumption
    | with_reducible apply State.store_parts
    | split
    | dsimp only

theorem State.headDone_parts {M : Part → Prop} {z : State} {s : State} (h : Parts M z s) (loc b p n : Nat) (m_free : M
    .free) (m_regs : M .regs) (m_mem : M .mem) (m_events : M .events) (m_host : M .host) (m_arrays : M .arrays) (m_watch
    : M .watch) :
    Parts M z (State.headDone s loc b p n) := by
  unfold State.headDone
  repeat' first
    | with_reducible assumption
    | with_reducible apply State.store_parts
    | split
    | dsimp only

theorem State.ueStream_parts {M : Part → Prop} {z : State} {s : State} (h : Parts M z s) (loc f a : Nat) (l : List (Nat ×
    Bool)) (m_free : M .free) (m_regs : M .regs) (m_mem : M .mem) (m_events : M .events) (m_host : M .host)
    (m_arrays : M .arrays) (m_watch : M .watch) :
    Parts M z (State.ueStream s loc f a l).1 := by
  unfold State.ueStream
  repeat' first
    | with_reducible assumption
    | with_reducible apply State.store_parts
    | with_reducible apply State.poisonLine_parts
    | with_reducible refine parts_foldl (fun t x ht => ?_) ?_

theorem State.ueTorn_parts {M : Part → Prop} {z : State} {s : State} (h : Parts M z s) (x : UCtx) (seg : Nat) (m_free :
    M .free) (m_regs : M .regs) (m_events : M .events) (m_host : M .host) (m_watch : M .watch) :
    Parts M z (State.ueTorn s x seg) := by
  unfold State.ueTorn
  repeat' first
    | with_reducible assumption
    | with_reducible apply State.tickFault_parts
    | with_reducible apply State.raise_parts
    | with_reducible apply State.err_parts
    | split
    | dsimp only

theorem State.applyPart_parts {M : Part → Prop} {z : State} {s : State} (h : Parts M z s) (x : UCtx) (e a b tag : Nat)
    (m_free : M .free) (m_regs : M .regs) (m_mem : M .mem) (m_events : M .events) (m_host : M .host) (m_arrays : M
    .arrays) (m_watch : M .watch) :
    Parts M z (State.applyPart s x e a b tag).1 := by
  unfold State.applyPart
  repeat' first
    | with_reducible assumption
    | with_reducible apply State.ueTorn_parts
    | with_reducible apply State.ueStream_parts
    | with_reducible apply State.headDone_parts
    | with_reducible apply State.setDirty_parts
    | with_reducible apply State.uePoison_parts
    | with_reducible apply State.ueRead_parts
    | with_reducible apply State.bump_parts
    | with_reducible refine parts_foldl (fun t x ht => ?_) ?_
    | with_reducible refine parts_foldl_1 (fun t x ht => ?_) ?_
    | with_reducible refine parts_foldl_2 (fun t x ht => ?_) ?_
    | with_reducible refine parts_foldl_3 (fun t x ht => ?_) ?_
    | split
    | dsimp only

theorem State.applyBegin_parts {M : Part → Prop} {z : State} {s : State} (h : Parts M z s) (x : UCtx) (m_free : M .free)
    (m_regs : M .regs) (m_mem : M .mem) (m_events : M .events) (m_host : M .host) (m_arrays : M .arrays) (m_watch : M
    .watch) (m_ueStep : M .ueStep) :
    Parts M z (State.applyBegin s x).1 := by
  unfold State.applyBegin
  repeat' first
    | with_reducible assumption
    | with_reducible apply State.ueSetStep_parts
    | with_reducible apply State.ueRead_parts
    | with_reducible apply State.err_parts
    | with_reducible apply State.wr_parts
    | split
    | dsimp only

theorem State.wbRead_parts {M : Part → Prop} {z : State} {s : State} (h : Parts M z s) (x : UCtx) (q : Nat × Nat × Nat)
    (m_free : M .free) (m_regs : M .regs) (m_mem : M .mem) (m_events : M .events) (m_host : M .host) (m_arrays : M
    .arrays) (m_watch : M .watch) :
    Parts M z (State.wbRead s x q) := by
  unfold State.wbRead
  repeat' first
    | with_reducible assumption
    | with_reducible apply State.ueRead_parts
    | with_reducible apply State.err_parts
    | with_reducible refine parts_foldl (fun t x ht => ?_) ?_
    | with_reducible refine parts_foldl_1 (fun t x ht => ?_) ?_
    | with_reducible refine parts_foldl_2 (fun t x ht => ?_) ?_
    | with_reducible refine parts_foldl_3 (fun t x ht => ?_) ?_
    | split
    | dsimp only

theorem State.writeBehind_parts {M : Part → Prop} {z : State} {s0 : State} (h : Parts M z s0) (x : UCtx) (m_free : M
    .free) (m_regs : M .regs) (m_mem : M .mem) (m_events : M .events) (m_host : M .host) (m_arrays : M .arrays) (m_watch
    : M .watch) (m_sched : M .sched) :
    Parts M z (State.writeBehind s0 x) := by
  unfold State.writeBehind
  repeat' first
    | with_reducible assumption
    | with_reducible apply State.wbRead_parts
    | with_reducible apply State.stage_parts
    | with_reducible refine parts_foldl (fun t x ht => ?_) ?_
    | with_reducible refine parts_foldl_1 (fun t x ht => ?_) ?_
    | with_reducible refine parts_foldl_2 (fun t x ht => ?_) ?_
    | with_reducible refine parts_foldl_3 (fun t x ht => ?_) ?_
    | split
    | dsimp only

theorem State.countWb_parts {M : Part → Prop} {z : State} {s : State} (h : Parts M z s) (p : PlanTick) (sent : Nat →
    List Chunk → List Chunk) (m_regs : M .regs) :
    Parts M z (State.countWb s p sent) := by
  unfold State.countWb
  repeat' first
    | with_reducible assumption
    | with_reducible apply State.bump_parts
    | with_reducible refine parts_foldl (fun t x ht => ?_) ?_
    | with_reducible refine parts_foldl_1 (fun t x ht => ?_) ?_
    | with_reducible refine parts_foldl_2 (fun t x ht => ?_) ?_
    | with_reducible refine parts_foldl_3 (fun t x ht => ?_) ?_
    | split
    | dsimp only

theorem State.applyOne_parts {M : Part → Prop} {z : State} {t : State × UCtx} (h : Parts M z t.1)
    (q : Nat × Nat × Nat) (m_free : M .free) (m_regs : M .regs) (m_mem : M .mem) (m_events : M .events) (m_host : M .host) (m_arrays : M .arrays) (m_watch : M .watch) :
    Parts M z (State.applyOne t q).1 := by
  unfold State.applyOne
  repeat' first
    | with_reducible assumption
    | with_reducible apply State.applyPart_parts
    | with_reducible apply State.bump_parts
    | with_reducible apply State.ueClass_parts
    | split
    | dsimp only

theorem State.applyStart_parts {M : Part → Prop} {z : State} {s : State} (h : Parts M z s) (x : UCtx) (m_free : M .free)
    (m_regs : M .regs) (m_mem : M .mem) (m_events : M .events) (m_host : M .host) (m_arrays : M .arrays) (m_watch : M
    .watch) (m_ueStep : M .ueStep) :
    Parts M z (State.applyStart s x).1 := by
  unfold State.applyStart
  repeat' first
    | with_reducible assumption
    | with_reducible apply State.applyBegin_parts
    | split
    | dsimp only

theorem State.tearPart_parts {M : Part → Prop} {z : State} {s : State} (h : Parts M z s) (x : UCtx) (q : Nat × Nat ×
    Nat) (m_free : M .free) (m_regs : M .regs) (m_mem : M .mem) (m_events : M .events) (m_host : M .host) (m_arrays : M
    .arrays) (m_watch : M .watch) :
    Parts M z (State.tearPart s x q) := by
  unfold State.tearPart
  repeat' first
    | with_reducible assumption
    | with_reducible apply State.ueTorn_parts
    | with_reducible apply State.setDirty_parts
    | with_reducible apply State.ueClass_parts
    | with_reducible apply State.store_parts
    | with_reducible apply State.drawBytes_parts
    | with_reducible refine parts_foldl (fun t x ht => ?_) ?_
    | with_reducible refine parts_foldl_1 (fun t x ht => ?_) ?_
    | with_reducible refine parts_foldl_2 (fun t x ht => ?_) ?_
    | with_reducible refine parts_foldl_3 (fun t x ht => ?_) ?_
    | split
    | dsimp only

theorem State.ueFx_parts {M : Part → Prop} {z : State} {s : State} (h : Parts M z s) (x : UCtx) (m_free : M .free)
    (m_regs : M .regs) (m_events : M .events) (m_host : M .host) (m_arrays : M .arrays) (m_watch : M .watch) :
    Parts M z (State.ueFx s x) := by
  unfold State.ueFx
  repeat' first
    | with_reducible assumption
    | with_reducible apply State.arith_parts
    | with_reducible refine parts_foldl (fun t x ht => ?_) ?_
    | with_reducible refine parts_foldl_1 (fun t x ht => ?_) ?_
    | with_reducible refine parts_foldl_2 (fun t x ht => ?_) ?_
    | with_reducible refine parts_foldl_3 (fun t x ht => ?_) ?_
    | split
    | dsimp only

theorem State.wbAbandoned_parts {M : Part → Prop} {z : State} {s : State} (h : Parts M z s) (x : UCtx) (n : Nat) (m_free
    : M .free) (m_regs : M .regs) (m_mem : M .mem) (m_events : M .events) (m_host : M .host) (m_arrays : M .arrays)
    (m_watch : M .watch) (m_sched : M .sched) :
    Parts M z (State.wbAbandoned s x n) := by
  unfold State.wbAbandoned
  repeat' first
    | with_reducible assumption
    | with_reducible apply State.writeBehind_parts
    | split
    | dsimp only

theorem State.ueAbandon_parts {M : Part → Prop} {z : State} {s : State} (h : Parts M z s) (c : Nat) (r : Run) (m_free :
    M .free) (m_regs : M .regs) (m_mem : M .mem) (m_events : M .events) (m_host : M .host) (m_arrays : M .arrays)
    (m_watch : M .watch) (m_sched : M .sched) (m_ueStep : M .ueStep) :
    Parts M z (State.ueAbandon s c r) := by
  unfold State.ueAbandon
  repeat' first
    | with_reducible assumption
    | with_reducible apply State.wbAbandoned_parts
    | with_reducible apply State.ueFx_parts
    | with_reducible apply State.tearPart_parts
    | with_reducible apply State.applyStart_parts
    | with_reducible apply State.applyOne_parts
    | with_reducible apply State.draw_parts
    | with_reducible refine parts_foldl (fun t x ht => ?_) ?_
    | with_reducible refine parts_foldl_1 (fun t x ht => ?_) ?_
    | with_reducible refine parts_foldl_2 (fun t x ht => ?_) ?_
    | with_reducible refine parts_foldl_3 (fun t x ht => ?_) ?_
    | split
    | dsimp only

theorem State.ueApply_parts {M : Part → Prop} {z : State} {s : State} (h : Parts M z s) (x : UCtx) (m_free : M .free)
    (m_regs : M .regs) (m_mem : M .mem) (m_events : M .events) (m_host : M .host) (m_arrays : M .arrays) (m_watch : M
    .watch) (m_sched : M .sched) (m_runs : M .runs) (m_ueStep : M .ueStep) :
    Parts M z (State.ueApply s x) := by
  unfold State.ueApply
  repeat' first
    | with_reducible assumption
    | with_reducible apply State.ueFx_parts
    | with_reducible apply State.applyStart_parts
    | with_reducible apply State.applyOne_parts
    | with_reducible apply State.writeBehind_parts
    | with_reducible apply State.ueEnd_parts
    | with_reducible refine parts_foldl (fun t x ht => ?_) ?_
    | with_reducible refine parts_foldl_1 (fun t x ht => ?_) ?_
    | with_reducible refine parts_foldl_2 (fun t x ht => ?_) ?_
    | with_reducible refine parts_foldl_3 (fun t x ht => ?_) ?_
    | split
    | dsimp only

theorem State.stagePart_parts {M : Part → Prop} {z : State} {s : State} (h : Parts M z s) (x : UCtx) (ch : List Chunk)
    (good : Bool) (n e a b o : Nat) (m_free : M .free) (m_regs : M .regs) (m_mem : M .mem) (m_events : M .events)
    (m_host : M .host) (m_arrays : M .arrays) (m_watch : M .watch) :
    Parts M z (State.stagePart s x ch good n e a b o).1 := by
  unfold State.stagePart
  repeat' first
    | with_reducible assumption
    | with_reducible apply State.ueStream_parts
    | with_reducible apply State.headDone_parts
    | with_reducible apply State.setDirty_parts
    | with_reducible apply State.uePoison_parts
    | with_reducible apply State.bump_parts
    | with_reducible refine parts_foldl (fun t x ht => ?_) ?_
    | with_reducible refine parts_foldl_11 (fun t x ht => ?_) ?_
    | with_reducible refine parts_foldl_1 (fun t x ht => ?_) ?_
    | with_reducible refine parts_foldl_2 (fun t x ht => ?_) ?_
    | with_reducible refine parts_foldl_3 (fun t x ht => ?_) ?_
    | split
    | dsimp only

theorem State.ueStage_parts {M : Part → Prop} {z : State} {s : State} (h : Parts M z s) (x : UCtx) (m_free : M .free)
    (m_regs : M .regs) (m_mem : M .mem) (m_events : M .events) (m_host : M .host) (m_arrays : M .arrays)
    (m_watch : M .watch) (m_runs : M .runs) : Parts M z (State.ueStage s x) := by
  unfold State.ueStage
  dsimp only
  generalize s.sliceIn x.o.sid _ = o
  cases o with
  | none => exact h
  | some ch =>
    dsimp only
    with_reducible apply State.ueEnd_parts
    · with_reducible refine parts_foldl_11 (fun t q ht => ?_) ?_
      · dsimp only
        with_reducible apply State.stagePart_parts <;> with_reducible assumption
      · with_reducible assumption
    all_goals with_reducible assumption

theorem State.hbmCopy_parts {M : Part → Prop} {z : State} {s : State} (h : Parts M z s) (src dst n : Nat) (m_free : M
    .free) (m_regs : M .regs) (m_mem : M .mem) (m_events : M .events) (m_host : M .host) (m_arrays : M .arrays) (m_watch
    : M .watch) :
    Parts M z (State.hbmCopy s src dst n).1 := by
  unfold State.hbmCopy
  repeat' first
    | with_reducible assumption
    | with_reducible apply State.store_parts
    | with_reducible apply State.poisonLine_parts
    | with_reducible refine parts_foldl (fun t x ht => ?_) ?_
    | split
    | dsimp only

theorem State.ueCopy_parts {M : Part → Prop} {z : State} {s : State} (h : Parts M z s) (x : UCtx) (src dst n : Nat)
    (m_free : M .free) (m_regs : M .regs) (m_mem : M .mem) (m_events : M .events) (m_host : M .host) (m_arrays : M
    .arrays) (m_watch : M .watch) :
    Parts M z (State.ueCopy s x src dst n) := by
  unfold State.ueCopy
  repeat' first
    | with_reducible assumption
    | with_reducible apply State.hbmCopy_parts
    | with_reducible apply State.uePoison_parts
    | with_reducible apply State.ueRead_parts
    | split
    | dsimp only

theorem State.markStale_parts {M : Part → Prop} {z : State} {s : State} (h : Parts M z s) (i : Nat) (copied : Bool)
    (m_watch : M .watch) :
    Parts M z (State.markStale s i copied) := by
  unfold State.markStale
  repeat' first
    | with_reducible assumption
    | with_reducible apply State.setWatch_parts
    | split
    | dsimp only

theorem State.commitDecide_parts {M : Part → Prop} {z : State} {s : State} (h : Parts M z s) (x : UCtx) (e : Nat)
    (m_free : M .free) (m_regs : M .regs) (m_mem : M .mem) (m_events : M .events) (m_host : M .host)
    (m_arrays : M .arrays) (m_watch : M .watch) :
    Parts M z (State.commitDecide s x e).1 := by
  unfold State.commitDecide
  repeat' first
    | with_reducible assumption
    | with_reducible apply State.markStale_parts
    | with_reducible apply State.shardRecord_parts
    | with_reducible apply State.ueRead_parts
    | with_reducible apply State.err_parts
    | with_reducible apply State.eventE_parts
    | with_reducible apply State.bump_parts
    | split
    | dsimp only

theorem State.staleStart_parts {M : Part → Prop} {z : State} {s : State} (h : Parts M z s) (x : UCtx) (m_watch : M
    .watch) :
    Parts M z (State.staleStart s x) := by
  unfold State.staleStart
  repeat' first
    | with_reducible assumption
    | with_reducible apply State.setWatch_parts
    | split
    | dsimp only

theorem State.staleCommit_parts {M : Part → Prop} {z : State} {s : State} (h : Parts M z s) (x : UCtx) (i : Nat)
    (m_watch : M .watch) :
    Parts M z (State.staleCommit s x i) := by
  unfold State.staleCommit
  repeat' first
    | with_reducible assumption
    | with_reducible apply State.setWatch_parts
    | split
    | dsimp only

theorem State.staleEnd_parts {M : Part → Prop} {z : State} {s : State} (h : Parts M z s) (x : UCtx) (m_watch : M .watch)
    :
    Parts M z (State.staleEnd s x) := by
  unfold State.staleEnd
  repeat' first
    | with_reducible assumption
    | with_reducible apply State.setWatch_parts
    | split
    | dsimp only

theorem State.commitEnd_parts {M : Part → Prop} {z : State} {s : State} (h : Parts M z s) (x : UCtx) (sh : Shard)
    (m_free : M .free) (m_regs : M .regs) (m_mem : M .mem) (m_events : M .events) (m_host : M .host) (m_arrays : M
    .arrays) (m_watch : M .watch) :
    Parts M z (State.commitEnd s x sh) := by
  unfold State.commitEnd
  repeat' first
    | with_reducible assumption
    | with_reducible apply State.staleCommit_parts
    | with_reducible apply State.ueCopy_parts
    | with_reducible apply State.bump_parts
    | split
    | dsimp only

theorem State.commitPart_parts {M : Part → Prop} {z : State} {s : State} (h : Parts M z s) (x : UCtx) (e a b : Nat)
    (m_free : M .free) (m_regs : M .regs) (m_mem : M .mem) (m_events : M .events) (m_host : M .host) (m_arrays : M
    .arrays) (m_watch : M .watch) :
    Parts M z (State.commitPart s x e a b) := by
  unfold State.commitPart
  repeat' first
    | with_reducible assumption
    | with_reducible apply State.commitEnd_parts
    | with_reducible apply State.ueCopy_parts
    | with_reducible refine parts_foldl (fun t x ht => ?_) ?_
    | with_reducible refine parts_foldl_1 (fun t x ht => ?_) ?_
    | with_reducible refine parts_foldl_2 (fun t x ht => ?_) ?_
    | with_reducible refine parts_foldl_3 (fun t x ht => ?_) ?_
    | split
    | dsimp only

theorem State.ueCommit_parts {M : Part → Prop} {z : State} {s : State} (h : Parts M z s) (x : UCtx) (m_free : M .free)
    (m_regs : M .regs) (m_mem : M .mem) (m_events : M .events) (m_host : M .host) (m_arrays : M .arrays) (m_watch : M
    .watch) (m_runs : M .runs) :
    Parts M z (State.ueCommit s x) := by
  unfold State.ueCommit
  repeat' first
    | with_reducible assumption
    | with_reducible apply State.commitPart_parts
    | with_reducible apply State.staleEnd_parts
    | with_reducible apply State.staleStart_parts
    | with_reducible apply State.commitDecide_parts
    | with_reducible apply State.ueEnd_parts
    | with_reducible refine parts_foldl (fun t x ht => ?_) ?_
    | with_reducible refine parts_foldl_1 (fun t x ht => ?_) ?_
    | with_reducible refine parts_foldl_2 (fun t x ht => ?_) ?_
    | with_reducible refine parts_foldl_3 (fun t x ht => ?_) ?_
    | split
    | dsimp only

theorem State.passStep_parts {M : Part → Prop} {z : State} {s : State} (h : Parts M z s) (c slot pass : Nat) (f : State →
    UCtx → State)
    (hf : ∀ t x, Parts M z t → Parts M z (f t x)) : Parts M z (State.passStep s c slot pass f) := by
  unfold State.passStep
  split
  · exact hf _ _ h
  · exact h

theorem State.readUeStep_parts {M : Part → Prop} {z : State} {s : State} (h : Parts M z s) (c : Nat) (m_regs : M .regs) :
    Parts M z (State.readUeStep s c).2 := by
  unfold State.readUeStep
  repeat' first
    | with_reducible assumption
    | with_reducible apply State.wr_parts

theorem State.chkGo_parts {M : Part → Prop} {z : State} {s : State} (h : Parts M z s) (c unit : Nat) (m_regs : M .regs) :
    Parts M z (State.chkGo s c unit) := by
  unfold State.chkGo
  repeat' first
    | with_reducible assumption
    | with_reducible apply State.wr_parts
    | split

theorem State.chkDone_parts {M : Part → Prop} {z : State} {s : State} (h : Parts M z s) (c : Nat) (m_free : M .free)
    (m_regs : M .regs) (m_mem : M .mem) (m_events : M .events) (m_host : M .host) (m_arrays : M .arrays)
    (m_watch : M .watch) :
    Parts M z (State.chkDone s c) := by
  unfold State.chkDone
  repeat' first
    | with_reducible assumption
    | with_reducible apply State.touch_parts
    | with_reducible apply State.wr2_parts
    | with_reducible apply State.wr_parts
    | split
    | dsimp only

end Sys2Proof.Machine
end

