-- ==== Sys2Proof/Laws/PartsDomains.lean ====
section
/-! SUPPORT. What the operations of Domains.lean touch (Parts). -/

namespace Sys2Proof.Machine

open Sys2Proof

theorem State.zeroRange_parts {M : Part → Prop} {z : State} {s : State} (h : Parts M z s) (sp off n : Nat)
    (m_mem : M .mem) (m_arrays : M .arrays) :
    Parts M z (State.zeroRange s sp off n) := by
  unfold State.zeroRange
  repeat' first
    | with_reducible exact Or.inr rfl
    | with_reducible exact Or.inr ⟨rfl, rfl, rfl, rfl, rfl⟩
    | with_reducible exact Or.inl (by assumption)
    | with_reducible assumption
    | intro _
    | split
    | dsimp only
    | with_reducible apply parts_mk

theorem State.domZero_parts {M : Part → Prop} {z : State} {s : State} (h : Parts M z s) (d : Nat) (m_mem : M .mem)
    (m_arrays : M .arrays) (m_tiles : M .tiles) : Parts M z (State.domZero s d) := by
  unfold State.domZero
  repeat' first
    | with_reducible assumption
    | with_reducible apply State.zeroRange_parts
    | with_reducible apply State.setTile_parts
    | split

theorem State.sleepDom_parts {M : Part → Prop} {z : State} {s : State} (h : Parts M z s) (d : Nat) (m_free : M .free)
    (m_regs : M .regs) (m_mem : M .mem) (m_events : M .events) (m_host : M .host) (m_arrays : M .arrays)
    (m_watch : M .watch) (m_atoms : M .atoms) (m_power : M .power) :
    Parts M z (State.sleepDom s d) := by
  unfold State.sleepDom
  repeat' first
    | with_reducible assumption
    | with_reducible apply State.setDom_parts
    | with_reducible apply State.atomFlush_parts
    | with_reducible apply State.wr_parts
    | split

theorem State.askBank_parts {M : Part → Prop} {z : State} {s : State} (h : Parts M z s) (d : Nat) (on : Bool) (m_power :
    M .power) :
    Parts M z (State.askBank s d on) := by
  unfold State.askBank
  repeat' first
    | with_reducible exact Or.inr rfl
    | with_reducible exact Or.inr ⟨rfl, rfl, rfl, rfl, rfl⟩
    | with_reducible exact Or.inl (by assumption)
    | with_reducible assumption
    | split
    | dsimp only
    | with_reducible apply parts_mk

theorem State.placeDom_parts {M : Part → Prop} {z : State} {s : State} (h : Parts M z s) (d : Nat) (m_free : M .free)
    (m_regs : M .regs) (m_mem : M .mem) (m_events : M .events) (m_host : M .host) (m_arrays : M .arrays) (m_watch : M
    .watch) (m_atoms : M .atoms) (m_power : M .power) :
    Parts M z (State.placeDom s d) := by
  unfold State.placeDom
  repeat' first
    | with_reducible assumption
    | with_reducible apply State.askBank_parts
    | with_reducible apply State.sleepDom_parts
    | with_reducible apply State.wakeDom_parts
    | with_reducible apply State.setDom_parts
    | split
    | dsimp only

theorem State.placeDoms_parts {M : Part → Prop} {z : State} {s : State} (h : Parts M z s) (m_free : M .free)
    (m_regs : M .regs)
    (m_mem : M .mem) (m_events : M .events) (m_host : M .host) (m_arrays : M .arrays) (m_watch : M .watch)
        (m_atoms : M .atoms)
    (m_power : M .power) : Parts M z (State.placeDoms s) := by
  unfold State.placeDoms
  refine parts_foldl (fun t x ht => ?_) h
  with_reducible apply State.placeDom_parts <;> with_reducible assumption

theorem State.wakePage_parts {M : Part → Prop} {z : State} {s : State} (h : Parts M z s) (p : PageId) (m_power : M .power) :
    Parts M z (State.wakePage s p) := by
  unfold State.wakePage
  repeat' first
    | with_reducible assumption
    | with_reducible apply State.wakeDom_parts
    | with_reducible refine parts_foldl (fun t x ht => ?_) ?_

theorem State.wakeEn_parts {M : Part → Prop} {z : State} {s : State} (h : Parts M z s) (p : PageId) (m_power : M .power) :
    Parts M z (State.wakeEn s p) := by
  unfold State.wakeEn
  repeat' first
    | with_reducible assumption
    | with_reducible apply State.wakeDom_parts
    | with_reducible refine parts_foldl (fun t x ht => ?_) ?_

theorem State.wakeDone_parts {M : Part → Prop} {z : State} {s : State} (h : Parts M z s) (d : Nat) (m_out : M .out)
    (m_free : M .free) (m_regs : M .regs) (m_mem : M .mem) (m_events : M .events) (m_host : M .host) (m_links : M
    .links) (m_opn : M .opn) (m_arrays : M .arrays) (m_tiles : M .tiles) (m_power : M .power) : Parts M z
    (State.wakeDone s d) := by
  unfold State.wakeDone
  repeat' first
    | with_reducible exact Or.inr rfl
    | with_reducible exact Or.inr ⟨rfl, rfl, rfl, rfl, rfl⟩
    | with_reducible exact Or.inl (by assumption)
    | with_reducible assumption
    | with_reducible apply State.domZero_parts
    | with_reducible apply State.setDom_parts
    | with_reducible apply State.downLink_parts
    | with_reducible apply State.err_parts
    | with_reducible apply State.bump_parts
    | with_reducible apply State.wr_parts
    | with_reducible apply State.put_parts
    | split
    | dsimp only
    | with_reducible apply parts_mk

end Sys2Proof.Machine
end

