-- ==== Sys2Proof/Laws/PartsHostMac.lean ====
section
/-! SUPPORT. What the operations of HostMac.lean touch (Parts). -/

namespace Sys2Proof.Machine

open Sys2Proof

theorem State.takeFlits_parts {M : Part → Prop} {z : State} (m_free : M .free) (m_regs : M .regs) (m_events : M .events) (m_host : M .host) (m_opn : M .opn) (m_arrays : M .arrays) :
    ∀ (l : List Flit) {s : State} (_ : Parts M z s), Parts M z (State.takeFlits s l).2
  | [], _, h => h
  | _ :: l, _, h => State.takeFlits_parts m_free m_regs m_events m_host m_opn m_arrays l
      (State.takeService_parts h _ _ (m_free := m_free) (m_regs := m_regs) (m_events := m_events) (m_host := m_host) (m_opn := m_opn) (m_arrays := m_arrays))

theorem State.setHost_parts {M : Part → Prop} {z : State} {s : State} (h : Parts M z s) (h : HostMac) (m_host : M .host) :
    Parts M z (State.setHost s h) := by
  unfold State.setHost
  repeat' first
    | with_reducible exact Or.inr rfl
    | with_reducible exact Or.inr ⟨rfl, rfl, rfl, rfl, rfl⟩
    | with_reducible exact Or.inl (by assumption)
    | with_reducible assumption
    | dsimp only
    | with_reducible apply parts_mk

theorem State.setWq_parts {M : Part → Prop} {z : State} {s : State} (h : Parts M z s) (q : Nat) (l : List WFrame)
    (m_host : M .host) :
    Parts M z (State.setWq s q l) := by
  unfold State.setWq
  repeat' first
    | with_reducible assumption
    | with_reducible apply State.setHost_parts

theorem State.weightedPut_parts {M : Part → Prop} {z : State} {s : State} (h : Parts M z s) (q : Nat) (fr : List Byte)
    (cm : Bool) (m_free : M .free) (m_regs : M .regs) (m_events : M .events) (m_host : M .host) :
    Parts M z (State.weightedPut s q fr cm) := by
  unfold State.weightedPut
  repeat' first
    | with_reducible assumption
    | with_reducible apply State.setWq_parts
    | with_reducible apply State.err_parts
    | with_reducible apply State.bump_parts
    | split
    | dsimp only

theorem State.endPause_parts {M : Part → Prop} {z : State} {s : State} (h : Parts M z s) (p : Nat) (m_host : M .host) :
    Parts M z (State.endPause s p) := by
  unfold State.endPause
  repeat' first
    | with_reducible assumption
    | with_reducible apply State.setWq_parts
    | with_reducible apply State.setHost_parts
    | split

theorem State.pfcReceive_parts {M : Part → Prop} {z : State} {s : State} (h : Parts M z s) (enable : Nat) (quanta : List
    Nat) (m_host : M .host) : Parts M z (State.pfcReceive s enable quanta) := by
  unfold State.pfcReceive
  repeat' first
    | with_reducible assumption
    | with_reducible apply State.endPause_parts
    | with_reducible apply State.setHost_parts
    | with_reducible apply State.put_parts
    | with_reducible refine parts_foldl (fun t x ht => ?_) ?_
    | split
    | dsimp only

theorem State.pauseExpiry_parts {M : Part → Prop} {z : State} {s : State} (h : Parts M z s) (p : Nat) (m_host : M .host) :
    Parts M z (State.pauseExpiry s p) := by
  unfold State.pauseExpiry
  repeat' first
    | with_reducible assumption
    | with_reducible apply State.endPause_parts
    | split

theorem State.settleBuckets_parts {M : Part → Prop} {z : State} {s : State} (h : Parts M z s) (m_host : M .host) :
    Parts M z (State.settleBuckets s) := by
  unfold State.settleBuckets
  repeat' first
    | with_reducible assumption
    | with_reducible apply State.setHost_parts

theorem State.setIng_parts {M : Part → Prop} {z : State} {s : State} (h : Parts M z s) (p : Nat) (l : List IngressFrame)
    (m_host : M .host) :
    Parts M z (State.setIng s p l) := by
  unfold State.setIng
  repeat' first
    | with_reducible assumption
    | with_reducible apply State.setHost_parts

theorem State.sendXoff_parts {M : Part → Prop} {z : State} {s : State} (h : Parts M z s) (p : Nat) (m_out : M .out)
    (m_regs : M .regs) (m_host : M .host) :
    Parts M z (State.sendXoff s p) := by
  unfold State.sendXoff
  repeat' first
    | with_reducible assumption
    | with_reducible apply State.setHost_parts
    | with_reducible apply State.emit_parts
    | with_reducible apply State.wr_parts

theorem State.sendXon_parts {M : Part → Prop} {z : State} {s : State} (h : Parts M z s) (p : Nat) (m_out : M .out)
    (m_regs : M .regs) :
    Parts M z (State.sendXon s p) := by
  unfold State.sendXon
  repeat' first
    | with_reducible assumption
    | with_reducible apply State.wr_parts
    | with_reducible apply State.emit_parts
    | split
    | dsimp only

theorem State.pfcCheck_parts {M : Part → Prop} {z : State} {s : State} (h : Parts M z s) (p : Nat) (m_out : M .out)
    (m_regs : M .regs) (m_host : M .host) :
    Parts M z (State.pfcCheck s p) := by
  unfold State.pfcCheck
  repeat' first
    | with_reducible assumption
    | with_reducible apply State.sendXon_parts
    | with_reducible apply State.sendXoff_parts
    | split
    | dsimp only

theorem State.pfcRepeat_parts {M : Part → Prop} {z : State} {s : State} (h : Parts M z s) (p : Nat) (m_out : M .out)
    (m_regs : M .regs) (m_host : M .host) :
    Parts M z (State.pfcRepeat s p) := by
  unfold State.pfcRepeat
  repeat' first
    | with_reducible assumption
    | with_reducible apply State.sendXoff_parts
    | split
    | dsimp only

theorem State.ingressPut_parts {M : Part → Prop} {z : State} {s : State} (h : Parts M z s) (p : Nat) (fr : List Byte)
    (m_out : M .out) (m_free : M .free) (m_regs : M .regs) (m_events : M .events) (m_host : M .host) :
    Parts M z (State.ingressPut s p fr) := by
  unfold State.ingressPut
  repeat' first
    | with_reducible assumption
    | with_reducible apply State.pfcCheck_parts
    | with_reducible apply State.setIng_parts
    | with_reducible apply State.err_parts
    | with_reducible apply State.bump_parts
    | split
    | dsimp only

theorem State.macControl_parts {M : Part → Prop} {z : State} {s : State} (h : Parts M z s) (fr : List Byte)
    (m_regs : M .regs) (m_host : M .host) :
    Parts M z (State.macControl s fr) := by
  unfold State.macControl
  repeat' first
    | with_reducible assumption
    | with_reducible apply State.pfcReceive_parts
    | with_reducible apply State.bump_parts
    | split
    | dsimp only

theorem State.hostConsume_parts {M : Part → Prop} {z : State} {s : State} (h : Parts M z s) (fr : List Byte) (m_regs : M
    .regs) (m_host : M .host) :
    Parts M z (State.hostConsume s fr) := by
  unfold State.hostConsume
  repeat' first
    | with_reducible assumption
    | with_reducible apply State.setHost_parts
    | with_reducible apply State.bump_parts
    | split
    | dsimp only

theorem State.hostFrame_parts {M : Part → Prop} {z : State} {s : State} (h : Parts M z s) (fr : List Byte) (m_out : M
    .out) (m_free : M .free) (m_regs : M .regs) (m_events : M .events) (m_host : M .host) :
    Parts M z (State.hostFrame s fr) := by
  unfold State.hostFrame
  repeat' first
    | with_reducible assumption
    | with_reducible apply State.macControl_parts
    | with_reducible apply State.ingressPut_parts
    | with_reducible apply State.setHost_parts
    | with_reducible apply State.err_parts
    | with_reducible apply State.bump_parts
    | with_reducible apply State.bumpi_parts
    | split
    | dsimp only

theorem State.ingressForward_parts {M : Part → Prop} {z : State} {s : State} (h : Parts M z s) (p : Nat) (m_out : M
    .out) (m_free : M .free) (m_regs : M .regs) (m_events : M .events) (m_host : M .host) (m_opn : M .opn) :
    Parts M z (State.ingressForward s p) := by
  unfold State.ingressForward
  repeat' first
    | with_reducible assumption
    | with_reducible apply State.hostConsume_parts
    | with_reducible apply State.pfcCheck_parts
    | with_reducible apply State.setIng_parts
    | with_reducible apply State.setHost_parts
    | with_reducible apply State.forward_parts
    | with_reducible apply State.err_parts
    | with_reducible apply State.bump_parts
    | split
    | dsimp only

theorem State.reassembled_parts {M : Part → Prop} {z : State} {s : State} (h : Parts M z s) (vc : Nat) (m_free : M
    .free) (m_regs : M .regs) (m_events : M .events) (m_host : M .host) (m_opn : M .opn) (m_arrays : M .arrays) :
    Parts M z (State.reassembled s vc) := by
  unfold State.reassembled
  repeat' first
    | with_reducible assumption
    | with_reducible apply State.takeFlits_parts
    | with_reducible apply State.weightedPut_parts
    | with_reducible apply State.err_parts
    | with_reducible apply State.bump_parts
    | split
    | dsimp only

theorem State.startStrict_parts {M : Part → Prop} {z : State} {s : State} (h : Parts M z s) (q : Nat) (m_out : M .out)
    (m_host : M .host) : Parts M z (State.startStrict s q) := by
  unfold State.startStrict
  repeat' first
    | with_reducible assumption
    | with_reducible apply State.setHost_parts
    | with_reducible apply State.emit_parts
    | with_reducible apply State.put_parts
    | split

theorem State.frameStart_parts {M : Part → Prop} {z : State} {s : State} (h : Parts M z s) (m_out : M .out) (m_host : M
    .host) : Parts M z (State.frameStart s) := by
  unfold State.frameStart
  repeat' first
    | with_reducible assumption
    | with_reducible apply State.startStrict_parts
    | with_reducible apply State.setWq_parts
    | with_reducible apply State.setHost_parts
    | with_reducible apply State.emit_parts
    | split

theorem State.turnTimers_parts {M : Part → Prop} {z : State} {s : State} (h : Parts M z s) (m_streams : M .streams) :
    Parts M z (State.turnTimers s) := by
  unfold State.turnTimers
  repeat' first
    | with_reducible exact Or.inr rfl
    | with_reducible exact Or.inr ⟨rfl, rfl, rfl, rfl, rfl⟩
    | with_reducible exact Or.inl (by assumption)
    | with_reducible assumption
    | dsimp only
    | with_reducible apply parts_mk

theorem State.hostLinkUp_parts {M : Part → Prop} {z : State} {s : State} (h : Parts M z s) (m_free : M .free) (m_regs :
    M .regs) (m_events : M .events) (m_host : M .host) (m_streams : M .streams) :
    Parts M z (State.hostLinkUp s) := by
  unfold State.hostLinkUp
  repeat' first
    | with_reducible assumption
    | with_reducible apply State.turnTimers_parts
    | with_reducible apply State.resendEvents_parts
    | with_reducible apply State.wr_parts
    | split
    | dsimp only

theorem State.cutHostFrame_parts {M : Part → Prop} {z : State} {s : State} (h : Parts M z s) (m_free : M .free) (m_regs
    : M .regs) (m_events : M .events) (m_host : M .host) (m_opn : M .opn) :
    Parts M z (State.cutHostFrame s) := by
  unfold State.cutHostFrame
  repeat' first
    | with_reducible assumption
    | with_reducible apply State.forward_parts
    | with_reducible apply State.fwdPoison_parts
    | split
    | dsimp only

theorem State.hostLinkDown_parts {M : Part → Prop} {z : State} {s : State} (h : Parts M z s) (m_free : M .free) (m_regs
    : M .regs) (m_events : M .events) (m_host : M .host) (m_opn : M .opn) (m_streams : M .streams) :
    Parts M z (State.hostLinkDown s) := by
  unfold State.hostLinkDown
  repeat' first
    | with_reducible assumption
    | with_reducible apply State.cutHostFrame_parts
    | with_reducible apply State.turnTimers_parts
    | with_reducible apply State.setHost_parts
    | with_reducible apply State.err_parts
    | with_reducible apply State.bump_parts
    | with_reducible apply State.wr_parts
    | split
    | dsimp only

end Sys2Proof.Machine
end

