-- ==== Sys2Proof/Laws/PartsIntegrity.lean ====
section
/-! SUPPORT. What the operations of Integrity.lean touch (Parts). -/

namespace Sys2Proof.Machine

open Sys2Proof

theorem State.tripFail_parts {M : Part → Prop} {z : State} {s : State} (h : Parts M z s) (m_free : M .free) (m_regs : M
    .regs) (m_events : M .events) (m_host : M .host) (m_watch : M .watch) :
    Parts M z (State.tripFail s) := by
  unfold State.tripFail
  repeat' first
    | with_reducible assumption
    | with_reducible apply State.moduleFault_parts
    | with_reducible apply State.err_parts
    | with_reducible apply State.bump_parts
    | split
    | dsimp only

theorem State.tripVote_parts {M : Part → Prop} {z : State} {s : State} (h : Parts M z s) (k : RegKey) (m_free : M .free)
    (m_regs : M .regs) (m_events : M .events) (m_host : M .host) (m_watch : M .watch) :
    Parts M z (State.tripVote s k) := by
  unfold State.tripVote
  repeat' first
    | with_reducible exact Or.inr rfl
    | with_reducible exact Or.inr ⟨rfl, rfl, rfl, rfl, rfl⟩
    | with_reducible exact Or.inl (by assumption)
    | with_reducible assumption
    | with_reducible apply State.tripFail_parts
    | with_reducible apply State.bump_parts
    | with_reducible apply State.put_parts
    | split
    | dsimp only
    | with_reducible apply parts_mk

theorem State.writeTrip_parts {M : Part → Prop} {z : State} {s : State} (h : Parts M z s) (v : Nat) (m_regs : M .regs) :
    Parts M z (State.writeTrip s v) := by
  unfold State.writeTrip
  repeat' first
    | with_reducible exact Or.inr rfl
    | with_reducible exact Or.inr ⟨rfl, rfl, rfl, rfl, rfl⟩
    | with_reducible exact Or.inl (by assumption)
    | with_reducible assumption
    | with_reducible apply State.swField_parts
    | split
    | dsimp only
    | with_reducible apply parts_mk

theorem State.scrubGo_parts {M : Part → Prop} {z : State} {s : State} (h : Parts M z s) (m_free : M .free)
    (m_regs : M .regs) (m_events : M .events) (m_host : M .host) (m_scrub : M .scrub) :
    Parts M z (State.scrubGo s) := by
  have h1 : Parts M z ((s.clearFields pgIntegrity scrubSum).wr pgIntegrity Itg.SCRUB_STATE 1) := by
    with_reducible apply State.wr_parts _ _ _ _ m_regs
    exact State.clearFields_parts pgIntegrity m_regs h scrubSum
  unfold State.scrubGo
  split
  · exact h
  · split
    · exact State.err_parts h pgIntegrity 9 m_free m_regs m_events m_host
    · dsimp only
      generalize (s.clearFields pgIntegrity scrubSum).wr pgIntegrity Itg.SCRUB_STATE 1 = u at h1 ⊢
      apply parts_mk h1 <;> first | exact .inr rfl | exact .inl m_scrub | exact .inr ⟨rfl, rfl, rfl, rfl, rfl⟩

theorem State.scrubStop_parts {M : Part → Prop} {z : State} {s : State} (h : Parts M z s) (st : Nat) (m_regs : M .regs)
    (m_scrub : M .scrub) :
    Parts M z (State.scrubStop s st) := by
  unfold State.scrubStop
  repeat' first
    | with_reducible exact Or.inr rfl
    | with_reducible exact Or.inr ⟨rfl, rfl, rfl, rfl, rfl⟩
    | with_reducible exact Or.inl (by assumption)
    | with_reducible assumption
    | with_reducible apply State.wrs_parts
    | dsimp only
    | with_reducible apply parts_mk

theorem State.scrubCrc_parts {M : Part → Prop} {z : State} {s : State} (h : Parts M z s) (l : List Byte)
    (m_regs : M .regs) :
    Parts M z (State.scrubCrc s l) := by
  unfold State.scrubCrc
  repeat' first
    | with_reducible assumption
    | with_reducible apply State.wr_parts

theorem State.scrubUe_parts {M : Part → Prop} {z : State} {s : State} (h : Parts M z s) (off : Nat) (m_free : M .free)
    (m_regs : M .regs) (m_events : M .events) (m_host : M .host) :
    Parts M z (State.scrubUe s off) := by
  unfold State.scrubUe
  repeat' first
    | with_reducible assumption
    | with_reducible apply State.err_parts
    | with_reducible apply State.eventE_parts
    | with_reducible apply State.wrs_parts
    | with_reducible apply State.bump_parts
    | with_reducible apply State.again_parts
    | split
    | dsimp only

theorem State.scrubRead_parts {M : Part → Prop} {z : State} {s : State} (h : Parts M z s) (off : Nat) (m_free : M .free)
    (m_regs : M .regs) (m_mem : M .mem) (m_events : M .events) (m_host : M .host) (m_arrays : M .arrays) (m_watch : M
    .watch) :
    Parts M z (State.scrubRead s off) := by
  unfold State.scrubRead
  repeat' first
    | with_reducible assumption
    | with_reducible apply State.scrubUe_parts
    | with_reducible apply State.scrubCrc_parts
    | with_reducible apply State.mergeRoom_parts
    | with_reducible apply State.touchLine_parts
    | with_reducible apply State.bump_parts
    | split
    | dsimp only

theorem State.scrubGranule_parts {M : Part → Prop} {z : State} {s : State} (h : Parts M z s) (m_free : M .free)
    (m_regs : M .regs) (m_mem : M .mem) (m_events : M .events) (m_host : M .host) (m_arrays : M .arrays)
    (m_watch : M .watch) (m_scrub : M .scrub) :
    Parts M z (State.scrubGranule s) := by
  unfold State.scrubGranule
  repeat' first
    | with_reducible exact Or.inr rfl
    | with_reducible exact Or.inr ⟨rfl, rfl, rfl, rfl, rfl⟩
    | with_reducible exact Or.inl (by assumption)
    | with_reducible assumption
    | with_reducible apply State.scrubRead_parts
    | with_reducible apply State.scrubStop_parts
    | split
    | dsimp only
    | with_reducible apply parts_mk

theorem State.quarantine_parts {M : Part → Prop} {z : State} {s : State} (h : Parts M z s) (site : Nat) (m_free : M .free)
    (m_regs : M .regs) (m_events : M .events) (m_host : M .host) (m_watch : M .watch) :
    Parts M z (State.quarantine s site) := by
  unfold State.quarantine
  repeat' first
    | with_reducible assumption
    | with_reducible apply State.moduleFault_parts
    | with_reducible apply State.err_parts
    | with_reducible apply State.wri_parts
    | split
    | dsimp only

theorem State.quarLane_parts {M : Part → Prop} {z : State} {s : State} (h : Parts M z s) (lane : Nat) (m_out : M .out)
    (m_regs : M .regs) (m_links : M .links) (m_watch : M .watch) : Parts M z (State.quarLane s lane) := by
  unfold State.quarLane
  repeat' first
    | with_reducible assumption
    | with_reducible apply State.reportLink_parts
    | with_reducible apply State.wri_parts
    | split
    | dsimp only

theorem State.spotRecord_parts {M : Part → Prop} {z : State} {s : State} (h : Parts M z s) (x : Spot) (elem got exp :
    Nat) (m_regs : M .regs) :
    Parts M z (State.spotRecord s x elem got exp) := by
  unfold State.spotRecord
  repeat' first
    | with_reducible assumption
    | with_reducible apply State.wrs_parts
    | with_reducible apply State.wri_parts
    | with_reducible apply State.again_parts
    | with_reducible refine parts_foldl (fun t x ht => ?_) ?_
    | split
    | dsimp only

theorem State.spotCompare_parts {M : Part → Prop} {z : State} {s : State} (h : Parts M z s) (x : Spot) (elem got exp :
    Nat) (m_free : M .free) (m_regs : M .regs) (m_events : M .events) (m_host : M .host) (m_watch : M .watch) :
    Parts M z (State.spotCompare s x elem got exp) := by
  unfold State.spotCompare
  repeat' first
    | with_reducible assumption
    | with_reducible apply State.spotRecord_parts
    | with_reducible apply State.quarantine_parts
    | with_reducible apply State.tickFault_parts
    | with_reducible apply State.err_parts
    | with_reducible apply State.bump_parts
    | split
    | dsimp only

theorem State.spotAll_parts {M : Part → Prop} {z : State} (x : Spot) (m_free : M .free) (m_regs : M .regs)
    (m_events : M .events) (m_host : M .host) (m_watch : M .watch) :
    ∀ {s : State} (_ : Parts M z s) (es : List Nat) (vs : List (Option Nat)) (got : List Nat), Parts M z (s.spotAll x es
        vs got)
  | s, h, e :: es, some v :: vs, got => by
    unfold State.spotAll
    exact State.spotAll_parts x (State.spotCompare_parts h x e _ v (m_free := m_free) (m_regs := m_regs)
        (m_events := m_events) (m_host := m_host) (m_watch := m_watch)) es vs _ (m_free := m_free) (m_regs := m_regs)
        (m_events := m_events) (m_host := m_host) (m_watch := m_watch)
  | s, h, _ :: es, none :: vs, got => by
    unfold State.spotAll
    exact State.spotAll_parts x h es vs _ (m_free := m_free) (m_regs := m_regs) (m_events := m_events) (m_host := m_host)
        (m_watch := m_watch)
  | _, h, [], _, _ => by
    unfold State.spotAll
    exact h
  | _, h, _ :: _, [], _ => by
    unfold State.spotAll
    exact h

theorem State.spotClose_parts {M : Part → Prop} {z : State} {s : State} (h : Parts M z s) (key : Nat) (x : Spot)
    (m_spots : M .spots) : Parts M z (State.spotClose s key x) := by
  unfold State.spotClose
  repeat' first
    | with_reducible exact Or.inr rfl
    | with_reducible exact Or.inr ⟨rfl, rfl, rfl, rfl, rfl⟩
    | with_reducible exact Or.inl (by assumption)
    | with_reducible assumption
    | with_reducible apply State.setSpot_parts
    | split
    | dsimp only
    | with_reducible apply parts_mk

theorem State.spotDone_parts {M : Part → Prop} {z : State} {s : State} (h : Parts M z s) (c : Nat) (got : List Nat)
    (m_free : M .free) (m_regs : M .regs) (m_events : M .events) (m_host : M .host) (m_watch : M .watch)
    (m_spots : M .spots) :
    Parts M z (State.spotDone s c got) := by
  unfold State.spotDone
  repeat' first
    | with_reducible assumption
    | with_reducible apply State.spotClose_parts
    | with_reducible apply State.spotAll_parts
    | split
    | dsimp only

theorem State.marginPut_parts {M : Part → Prop} {z : State} {s : State} (h : Parts M z s) (i : Nat) (v : Int) (past :
    Bool) (m_margin : M .margin) : Parts M z (State.marginPut s i v past) := by
  unfold State.marginPut
  repeat' first
    | with_reducible exact Or.inr rfl
    | with_reducible exact Or.inr ⟨rfl, rfl, rfl, rfl, rfl⟩
    | with_reducible exact Or.inl (by assumption)
    | with_reducible assumption
    | with_reducible apply State.put_parts
    | split
    | dsimp only
    | with_reducible apply parts_mk

theorem State.warn_parts {M : Part → Prop} {z : State} {s : State} (h : Parts M z s) (site : Nat) (m_regs : M .regs) :
    Parts M z (State.warn s site) := by
  unfold State.warn
  repeat' first
    | with_reducible assumption
    | with_reducible apply State.wri_parts
    | with_reducible apply State.noteRise_parts
    | split
    | dsimp only

theorem State.marginSite_parts {M : Part → Prop} {z : State} {s : State} (h : Parts M z s) (droop canary : List Nat) (i
    : Nat) (m_free : M .free) (m_regs : M .regs) (m_events : M .events) (m_host : M .host) (m_watch : M .watch)
    (m_margin : M .margin) :
    Parts M z (State.marginSite s droop canary i) := by
  unfold State.marginSite
  repeat' first
    | with_reducible assumption
    | with_reducible apply State.warn_parts
    | with_reducible apply State.marginPut_parts
    | with_reducible apply State.quarantine_parts
    | split
    | dsimp only

theorem State.marginLane_parts {M : Part → Prop} {z : State} {s : State} (h : Parts M z s) (rx : List Int) (i : Nat)
    (m_out : M .out) (m_regs : M .regs) (m_links : M .links) (m_watch : M .watch) (m_margin : M .margin) :
    Parts M z (State.marginLane s rx i) := by
  unfold State.marginLane
  repeat' first
    | with_reducible assumption
    | with_reducible apply State.warn_parts
    | with_reducible apply State.marginPut_parts
    | with_reducible apply State.quarLane_parts
    | split
    | dsimp only

theorem State.marginEval_parts {M : Part → Prop} {z : State} {s : State} (h : Parts M z s) (droop canary : List Nat) (rx
    : List Int) (m_out : M .out) (m_free : M .free) (m_regs : M .regs) (m_events : M .events) (m_host : M .host)
    (m_links : M .links) (m_watch : M .watch) (m_margin : M .margin) : Parts M z (State.marginEval s droop canary rx) := by
  unfold State.marginEval
  repeat' first
    | with_reducible assumption
    | with_reducible apply State.marginLane_parts
    | with_reducible apply State.marginSite_parts
    | with_reducible apply State.marginPut_parts
    | with_reducible apply State.err_parts
    | with_reducible refine parts_foldl (fun t x ht => ?_) ?_
    | split
    | dsimp only

end Sys2Proof.Machine
end

