-- ==== Sys2Proof/Laws/PartsShake.lean ====
section
/-! SUPPORT. What the operations of Shake.lean touch (Parts). -/

namespace Sys2Proof.Machine

open Sys2Proof

theorem State.setMeas_parts {M : Part → Prop} {z : State} {s : State} (h : Parts M z s) (i : Nat) (d : List Byte)
    (m_meas : M .meas) : Parts M z (State.setMeas s i d) := by
  unfold State.setMeas
  repeat' first
    | with_reducible exact Or.inr rfl
    | with_reducible exact Or.inr ⟨rfl, rfl, rfl, rfl, rfl⟩
    | with_reducible exact Or.inl (by assumption)
    | with_reducible assumption
    | with_reducible apply State.put_parts
    | dsimp only
    | with_reducible apply parts_mk

theorem State.clearMeas_parts {M : Part → Prop} {z : State} {s : State} (h : Parts M z s) (i : Nat) (m_meas : M .meas) :
    Parts M z (State.clearMeas s i) := by
  unfold State.clearMeas
  repeat' first
    | with_reducible exact Or.inr rfl
    | with_reducible exact Or.inr ⟨rfl, rfl, rfl, rfl, rfl⟩
    | with_reducible exact Or.inl (by assumption)
    | with_reducible assumption
    | dsimp only
    | with_reducible apply parts_mk

theorem State.extend_parts {M : Part → Prop} {z : State} {s : State} (h : Parts M z s) (i : Nat) (d : List Byte) (m_meas
    : M .meas) : Parts M z (State.extend s i d) := by
  unfold State.extend
  repeat' first
    | with_reducible assumption
    | with_reducible apply State.setMeas_parts

end Sys2Proof.Machine
end

