-- ==== Sys2Proof/Laws/PartsPlanLoad.lean ====
section
/-! SUPPORT. What the operations of PlanLoad.lean touch (Parts). -/

namespace Sys2Proof.Machine

open Sys2Proof

theorem State.setPin_parts {M : Part → Prop} {z : State} {s : State} (h : Parts M z s) (i n : Nat) (m_fst : M .fst) :
    Parts M z (State.setPin s i n) := by
  unfold State.setPin
  repeat' first
    | with_reducible exact Or.inr rfl
    | with_reducible exact Or.inr ⟨rfl, rfl, rfl, rfl, rfl⟩
    | with_reducible exact Or.inl (by assumption)
    | with_reducible assumption
    | with_reducible apply State.put_parts
    | dsimp only
    | with_reducible apply parts_mk

theorem State.pinAll_parts {M : Part → Prop} {z : State} {s : State} (h : Parts M z s) (l : List Nat) (m_fst : M .fst) :
    Parts M z (State.pinAll s l) := by
  unfold State.pinAll
  repeat' first
    | with_reducible assumption
    | with_reducible apply State.setPin_parts
    | with_reducible refine parts_foldl (fun t x ht => ?_) ?_

theorem State.unpinAll_parts {M : Part → Prop} {z : State} {s : State} (h : Parts M z s) (l : List Nat) (m_fst : M .fst)
    : Parts M z (State.unpinAll s l) := by
  unfold State.unpinAll
  repeat' first
    | with_reducible assumption
    | with_reducible apply State.setPin_parts
    | with_reducible refine parts_foldl (fun t x ht => ?_) ?_

theorem State.releaseBank_parts {M : Part → Prop} {z : State} {s : State} (h : Parts M z s) (b : Nat) (m_regs : M .regs)
    (m_opn : M .opn) (m_fst : M .fst) (m_bankA : M .bankA) (m_bankB : M .bankB) (m_meas : M .meas) :
    Parts M z (State.releaseBank s b) := by
  unfold State.releaseBank
  repeat' first
    | with_reducible exact Or.inr rfl
    | with_reducible exact Or.inr ⟨rfl, rfl, rfl, rfl, rfl⟩
    | with_reducible exact Or.inl (by assumption)
    | with_reducible assumption
    | with_reducible apply State.unpinAll_parts
    | with_reducible apply State.clearMeas_parts
    | with_reducible apply State.setBank_parts
    | with_reducible apply State.wr_parts
    | with_reducible refine parts_foldl (fun t x ht => ?_) ?_
    | split
    | dsimp only
    | with_reducible apply parts_mk

theorem State.carve_parts {M : Part → Prop} {z : State} {s : State} (h : Parts M z s) (b : Nat) (m : List Byte) (m_opn :
    M .opn) : Parts M z (State.carve s b m) := by
  unfold State.carve
  repeat' first
    | with_reducible exact Or.inr rfl
    | with_reducible exact Or.inr ⟨rfl, rfl, rfl, rfl, rfl⟩
    | with_reducible exact Or.inl (by assumption)
    | with_reducible assumption
    | with_reducible apply State.put_parts
    | with_reducible refine parts_foldl (fun t x ht => ?_) ?_
    | with_reducible refine parts_foldl_1 (fun t x ht => ?_) ?_
    | with_reducible refine parts_foldl_2 (fun t x ht => ?_) ?_
    | with_reducible refine parts_foldl_3 (fun t x ht => ?_) ?_
    | dsimp only
    | with_reducible apply parts_mk

theorem State.wakeBanks_parts {M : Part → Prop} {z : State} {s : State} (h : Parts M z s) (m_power : M .power) :
    Parts M z (State.wakeBanks s) := by
  unfold State.wakeBanks
  repeat' first
    | with_reducible assumption
    | with_reducible apply State.wakeBank_parts
    | with_reducible refine parts_foldl (fun t x ht => ?_) ?_
    | split
    | dsimp only

theorem State.emptyBank_parts {M : Part → Prop} {z : State} {s : State} (h : Parts M z s) (b : Nat) (m_regs : M .regs)
    (m_opn : M .opn) (m_fst : M .fst) (m_bankA : M .bankA) (m_bankB : M .bankB) (m_meas : M .meas) :
    Parts M z (State.emptyBank s b) := by
  unfold State.emptyBank
  repeat' first
    | with_reducible assumption
    | with_reducible apply State.releaseBank_parts
    | with_reducible apply State.setBankState_parts

theorem State.planLoad_parts {M : Part → Prop} {z : State} {s : State} (h : Parts M z s) (b : Nat) (m_free : M .free)
    (m_regs : M .regs) (m_events : M .events) (m_host : M .host) (m_opn : M .opn) (m_fst : M .fst) (m_bankA : M .bankA)
    (m_bankB : M .bankB) (m_sched : M .sched) (m_meas : M .meas) :
    Parts M z (State.planLoad s b) := by
  unfold State.planLoad
  repeat' first
    | with_reducible assumption
    | with_reducible apply State.releaseBank_parts
    | with_reducible apply State.err_parts
    | with_reducible apply State.setSched_parts
    | with_reducible apply State.setBankState_parts
    | split
    | dsimp only

theorem State.planReject_parts {M : Part → Prop} {z : State} {s : State} (h : Parts M z s) (b : Nat) (e : PlanErr)
    (m_free : M .free) (m_regs : M .regs) (m_events : M .events) (m_host : M .host) (m_opn : M .opn) (m_fst : M .fst)
    (m_bankA : M .bankA) (m_bankB : M .bankB) (m_meas : M .meas) :
    Parts M z (State.planReject s b e) := by
  unfold State.planReject
  repeat' first
    | with_reducible assumption
    | with_reducible apply State.emptyBank_parts
    | with_reducible apply State.err_parts
    | with_reducible apply State.wrs_parts

theorem State.planReady_parts {M : Part → Prop} {z : State} {s : State} (h : Parts M z s) (b : Nat) (m : List Byte) (pins
    : List Nat) (m_regs : M .regs) (m_fst : M .fst) (m_bankA : M .bankA) (m_bankB : M .bankB) (m_meas : M .meas) :
    Parts M z (State.planReady s b m pins) := by
  unfold State.planReady
  repeat' first
    | with_reducible assumption
    | with_reducible apply State.pinAll_parts
    | with_reducible apply State.extend_parts
    | with_reducible apply State.setMeas_parts
    | with_reducible apply State.setBank_parts
    | with_reducible apply State.setBankState_parts
    | with_reducible apply State.wr_parts
    | with_reducible refine parts_foldl (fun t x ht => ?_) ?_

theorem State.planLoaded_parts {M : Part → Prop} {z : State} {s : State} (h : Parts M z s) (m_free : M .free) (m_regs :
    M .regs) (m_events : M .events) (m_host : M .host) (m_opn : M .opn) (m_fst : M .fst) (m_bankA : M .bankA) (m_bankB :
    M .bankB) (m_sched : M .sched) (m_meas : M .meas) (m_power : M .power) :
    Parts M z (State.planLoaded s) := by
  unfold State.planLoaded
  repeat' first
    | with_reducible assumption
    | with_reducible apply State.planReady_parts
    | with_reducible apply State.planReject_parts
    | with_reducible apply State.wakeBanks_parts
    | with_reducible apply State.carve_parts
    | with_reducible apply State.wakeDom_parts
    | with_reducible apply State.setSched_parts
    | with_reducible refine parts_foldl (fun t x ht => ?_) ?_
    | split
    | dsimp only

theorem State.switchRefused_parts {M : Part → Prop} {z : State} {s : State} (h : Parts M z s) (bit : Nat)
    (m_free : M .free) (m_regs : M .regs) (m_events : M .events) (m_host : M .host) (m_watch : M .watch) :
    Parts M z (State.switchRefused s bit) := by
  unfold State.switchRefused
  repeat' first
    | with_reducible assumption
    | with_reducible apply State.configFault_parts
    | with_reducible apply State.err_parts

theorem State.armSwitch_parts {M : Part → Prop} {z : State} {s : State} (h : Parts M z s) (t : Nat) (m_free : M .free)
    (m_regs : M .regs) (m_events : M .events) (m_host : M .host) (m_watch : M .watch) (m_sched : M .sched)
    (m_tiles : M .tiles) :
    Parts M z (State.armSwitch s t) := by
  unfold State.armSwitch
  repeat' first
    | with_reducible assumption
    | with_reducible apply State.switchRefused_parts
    | with_reducible apply State.prefetchAll_parts
    | with_reducible apply State.setSched_parts
    | with_reducible apply State.wrb_parts
    | with_reducible apply State.wr_parts
    | split
    | dsimp only

theorem State.disarm_parts {M : Part → Prop} {z : State} {s : State} (h : Parts M z s) (m_regs : M .regs)
    (m_tiles : M .tiles) :
    Parts M z (State.disarm s) := by
  unfold State.disarm
  repeat' first
    | with_reducible assumption
    | with_reducible apply State.prefetchAll_parts
    | with_reducible apply State.wrb_parts
    | split

end Sys2Proof.Machine
end

