-- ==== Sys2Proof/Laws/PartsReset.lean ====
section
/-! SUPPORT. What the operations of Reset.lean touch (Parts). -/

namespace Sys2Proof.Machine

open Sys2Proof

theorem State.keepRegs_parts {M : Part → Prop} {z : State} {s : State} (h : Parts M z s) (f : PageId → Reg → Bool)
    (m_regs : M .regs) :
    Parts M z (State.keepRegs s f) := by
  unfold State.keepRegs
  repeat' first
    | with_reducible exact Or.inr rfl
    | with_reducible exact Or.inr ⟨rfl, rfl, rfl, rfl, rfl⟩
    | with_reducible exact Or.inl (by assumption)
    | with_reducible assumption
    | split
    | dsimp only
    | with_reducible apply parts_mk

theorem State.default_parts {M : Part → Prop} {z : State} {s : State} (h : Parts M z s) (p : PageId) (kind : Nat)
    (m_regs : M .regs) :
    Parts M z (State.default s p kind) := by
  unfold State.default
  repeat' first
    | with_reducible assumption
    | with_reducible apply State.wri_parts
    | with_reducible apply State.put_parts
    | split
    | dsimp only

theorem State.pageReset_parts {M : Part → Prop} {z : State} {s : State} (h : Parts M z s) (p : PageId) (m_regs : M .regs) :
    Parts M z (State.pageReset s p) := by
  unfold State.pageReset
  repeat' first
    | with_reducible assumption
    | with_reducible apply State.default_parts
    | with_reducible apply State.keepRegs_parts
    | with_reducible apply State.unfreeze_parts
    | with_reducible apply State.wrb_parts

theorem State.pageResets_parts {M : Part → Prop} {z : State} {s : State} (h : Parts M z s) (m_regs : M .regs) :
    Parts M z (State.pageResets s) := by
  unfold State.pageResets
  repeat' first
    | with_reducible assumption
    | with_reducible apply State.pageReset_parts
    | with_reducible refine parts_foldl (fun t x ht => ?_) ?_

theorem State.armReset_parts {M : Part → Prop} {z : State} {s : State} (h : Parts M z s) (p : PageId) (m_regs : M .regs) :
    Parts M z (State.armReset s p) := by
  unfold State.armReset
  repeat' first
    | with_reducible assumption
    | with_reducible apply State.put_parts
    | split

theorem State.unitState_parts {M : Part → Prop} {z : State} {s : State} (h : Parts M z s) (kind unit v : Nat)
    (m_regs : M .regs) :
    Parts M z (State.unitState s kind unit v) := by
  unfold State.unitState
  repeat' first
    | with_reducible assumption
    | with_reducible apply State.wr_parts
    | split

theorem State.abortUnit_parts {M : Part → Prop} {z : State} {s : State} (h : Parts M z s) (kind unit : Nat)
    (m_free : M .free) (m_regs : M .regs) (m_events : M .events) (m_host : M .host) (m_runs : M .runs) :
    Parts M z (State.abortUnit s kind unit) := by
  unfold State.abortUnit
  repeat' first
    | with_reducible exact Or.inr rfl
    | with_reducible exact Or.inr ⟨rfl, rfl, rfl, rfl, rfl⟩
    | with_reducible exact Or.inl (by assumption)
    | with_reducible assumption
    | with_reducible apply State.unitState_parts
    | with_reducible apply State.err_parts
    | with_reducible apply State.wri_parts
    | with_reducible refine parts_foldl (fun t x ht => ?_) ?_
    | split
    | dsimp only
    | with_reducible apply parts_mk

theorem State.abortTile_parts {M : Part → Prop} {z : State} {s : State} (h : Parts M z s) (g : Nat) (m_free : M .free)
    (m_regs : M .regs) (m_events : M .events) (m_host : M .host) (m_tiles : M .tiles) :
    Parts M z (State.abortTile s g) := by
  unfold State.abortTile
  repeat' first
    | with_reducible assumption
    | with_reducible apply State.err_parts
    | with_reducible apply State.wr_parts
    | with_reducible apply State.setTile_parts
    | split
    | dsimp only

theorem State.abortAll_parts {M : Part → Prop} {z : State} {s : State} (h : Parts M z s) (m_free : M .free)
    (m_regs : M .regs) (m_events : M .events) (m_host : M .host) (m_runs : M .runs) (m_tiles : M .tiles) :
    Parts M z (State.abortAll s) := by
  unfold State.abortAll
  repeat' first
    | with_reducible assumption
    | with_reducible apply State.abortTile_parts
    | with_reducible apply State.abortUnit_parts
    | with_reducible refine parts_foldl (fun t x ht => ?_) ?_

theorem State.noPlan_parts {M : Part → Prop} {z : State} {s : State} (h : Parts M z s) (m_regs : M .regs) (m_opn : M .opn)
    (m_fst : M .fst) (m_bankA : M .bankA) (m_bankB : M .bankB) (m_sched : M .sched) (m_meas : M .meas) :
    Parts M z (State.noPlan s) := by
  unfold State.noPlan
  repeat' first
    | with_reducible exact Or.inr rfl
    | with_reducible exact Or.inr ⟨rfl, rfl, rfl, rfl, rfl⟩
    | with_reducible exact Or.inl (by assumption)
    | with_reducible assumption
    | with_reducible apply State.emptyBank_parts
    | with_reducible apply State.wrs_parts
    | with_reducible apply State.wr_parts
    | with_reducible refine parts_foldl (fun t x ht => ?_) ?_
    | dsimp only
    | with_reducible apply parts_mk

theorem State.stopMover_parts {M : Part → Prop} {z : State} {s : State} (h : Parts M z s) (k : Nat) (m_regs : M .regs)
    (m_movers : M .movers) :
    Parts M z (State.stopMover s k) := by
  unfold State.stopMover
  repeat' first
    | with_reducible exact Or.inr rfl
    | with_reducible exact Or.inr ⟨rfl, rfl, rfl, rfl, rfl⟩
    | with_reducible exact Or.inl (by assumption)
    | with_reducible assumption
    | with_reducible apply State.wr_parts
    | with_reducible apply State.put_parts
    | split
    | dsimp only
    | with_reducible apply parts_mk

theorem State.watchClear_parts {M : Part → Prop} {z : State} {s : State} (h : Parts M z s) (m_regs : M .regs)
    (m_watch : M .watch) :
    Parts M z (State.watchClear s) := by
  unfold State.watchClear
  repeat' first
    | with_reducible assumption
    | with_reducible apply State.setWatch_parts
    | with_reducible apply State.wrs_parts

theorem State.fabricReset_parts {M : Part → Prop} {z : State} {s : State} (h : Parts M z s) (m_free : M .free)
    (m_regs : M .regs) (m_events : M .events) (m_host : M .host) (m_opn : M .opn) (m_fst : M .fst) (m_watch : M .watch)
    (m_bankA : M .bankA) (m_bankB : M .bankB) (m_sched : M .sched) (m_runs : M .runs) (m_movers : M .movers)
    (m_tiles : M .tiles) (m_meas : M .meas) :
    Parts M z (State.fabricReset s) := by
  unfold State.fabricReset
  repeat' first
    | with_reducible assumption
    | with_reducible apply State.watchClear_parts
    | with_reducible apply State.stopMover_parts
    | with_reducible apply State.noPlan_parts
    | with_reducible apply State.abortAll_parts
    | with_reducible apply State.wrb_parts
    | with_reducible apply State.wr_parts
    | with_reducible refine parts_foldl (fun t x ht => ?_) ?_

theorem State.rebuild_parts {M : Part → Prop} {z : State} {s : State} (h : Parts M z s) (regs : State) (hbm sessions : Bool)
    (m_regs : M .regs) (m_mem : M .mem) (m_events : M .events) (m_host : M .host) (m_belfry : M .belfry)
        (m_links : M .links)
    (m_d2d : M .d2d) (m_reservations : M .reservations) (m_routes : M .routes) (m_opn : M .opn) (m_arrays : M .arrays)
        (m_fst : M .fst)
    (m_watch : M .watch) (m_bankA : M .bankA) (m_bankB : M .bankB) (m_sched : M .sched) (m_runs : M .runs)
        (m_frozenNow : M .frozenNow)
    (m_atoms : M .atoms) (m_waiting : M .waiting) (m_movers : M .movers) (m_roundEnd : M .roundEnd) (m_tiles : M .tiles)
        (m_ueStep : M .ueStep)
    (m_meas : M .meas) (m_scrub : M .scrub) (m_spots : M .spots) (m_margin : M .margin) (m_power : M .power)
        (m_trust : M .trust)
    (m_sessions : M .sessions) (m_opening : M .opening) (m_answers : M .answers) (m_streams : M .streams)
        (m_windows : M .windows) :
    Parts M z (State.rebuild s regs hbm sessions) := by
  unfold State.rebuild
  apply parts_mk h <;> first | exact .inr rfl | exact .inl (by assumption)

theorem State.moduleReset_parts {M : Part → Prop} {z : State} {s : State} (h : Parts M z s) (src : Nat) (m_regs : M
    .regs) (m_mem : M .mem) (m_events : M .events) (m_host : M .host) (m_belfry : M .belfry) (m_links : M .links) (m_d2d
    : M .d2d) (m_reservations : M .reservations) (m_routes : M .routes) (m_opn : M .opn) (m_arrays : M .arrays) (m_fst :
    M .fst) (m_watch : M .watch) (m_bankA : M .bankA) (m_bankB : M .bankB) (m_sched : M .sched) (m_runs : M .runs)
    (m_frozenNow : M .frozenNow) (m_atoms : M .atoms) (m_waiting : M .waiting) (m_movers : M .movers) (m_roundEnd : M
    .roundEnd) (m_tiles : M .tiles) (m_ueStep : M .ueStep) (m_meas : M .meas) (m_scrub : M .scrub) (m_spots : M .spots)
    (m_margin : M .margin) (m_power : M .power) (m_trust : M .trust) (m_sessions : M .sessions) (m_opening : M .opening)
    (m_answers : M .answers) (m_streams : M .streams) (m_windows : M .windows) :
    Parts M z (State.moduleReset s src) := by
  unfold State.moduleReset
  repeat' first
    | with_reducible exact Or.inr rfl
    | with_reducible exact Or.inr ⟨rfl, rfl, rfl, rfl, rfl⟩
    | with_reducible exact Or.inl (by assumption)
    | with_reducible assumption
    | with_reducible apply State.rebuild_parts
    | with_reducible apply State.default_parts
    | with_reducible apply State.keepRegs_parts
    | with_reducible apply State.wrs_parts
    | with_reducible refine parts_foldl (fun t x ht => ?_) ?_
    | split
    | dsimp only
    | with_reducible apply parts_mk

theorem State.coldReset_parts {M : Part → Prop} {z : State} {s : State} (h : Parts M z s) (m_regs : M .regs)
    (m_mem : M .mem) (m_events : M .events) (m_host : M .host) (m_belfry : M .belfry) (m_links : M .links)
    (m_d2d : M .d2d) (m_reservations : M .reservations) (m_routes : M .routes) (m_opn : M .opn) (m_arrays : M .arrays)
    (m_fst : M .fst) (m_watch : M .watch) (m_bankA : M .bankA) (m_bankB : M .bankB) (m_sched : M .sched)
    (m_runs : M .runs) (m_frozenNow : M .frozenNow) (m_atoms : M .atoms) (m_waiting : M .waiting) (m_movers : M .movers)
    (m_roundEnd : M .roundEnd) (m_tiles : M .tiles) (m_ueStep : M .ueStep) (m_meas : M .meas) (m_scrub : M .scrub)
    (m_spots : M .spots) (m_margin : M .margin) (m_power : M .power) (m_trust : M .trust) (m_sessions : M .sessions)
    (m_opening : M .opening) (m_answers : M .answers) (m_streams : M .streams) (m_windows : M .windows) :
    Parts M z (State.coldReset s) := by
  unfold State.coldReset
  repeat' first
    | with_reducible exact Or.inr rfl
    | with_reducible exact Or.inr ⟨rfl, rfl, rfl, rfl, rfl⟩
    | with_reducible exact Or.inl (by assumption)
    | with_reducible assumption
    | with_reducible apply State.rebuild_parts
    | with_reducible apply State.keepRegs_parts
    | dsimp only
    | with_reducible apply parts_mk

end Sys2Proof.Machine
end

