-- ==== Sys2Proof/Laws/PartsWatch.lean ====
section
/-! SUPPORT. What the operations of Watch.lean touch (Parts). -/

namespace Sys2Proof.Machine

open Sys2Proof

theorem State.declareRun_parts {M : Part → Prop} {z : State} {s : State} (h : Parts M z s) (r : StepRun)
    (m_regs : M .regs) (m_watch : M .watch) :
    Parts M z (State.declareRun s r) := by
  unfold State.declareRun
  repeat' first
    | with_reducible assumption
    | with_reducible apply State.setWatch_parts
    | with_reducible apply State.bump_parts
    | with_reducible apply State.wrb_parts
    | split

theorem State.declareAll_parts {M : Part → Prop} {z : State} {s : State} (h : Parts M z s) (m_regs : M .regs)
    (m_watch : M .watch) :
    Parts M z (State.declareAll s) := by
  unfold State.declareAll
  repeat' first
    | with_reducible assumption
    | with_reducible apply State.declareRun_parts
    | with_reducible refine parts_foldl (fun t x ht => ?_) ?_

theorem State.beginStep_parts {M : Part → Prop} {z : State} {s : State} (h : Parts M z s) (replay : Bool)
    (m_regs : M .regs) (m_watch : M .watch) :
    Parts M z (State.beginStep s replay) := by
  unfold State.beginStep
  repeat' first
    | with_reducible assumption
    | with_reducible apply State.setWatch_parts
    | with_reducible apply State.wr2_parts
    | with_reducible apply State.wrb_parts
    | split

theorem State.endStep_parts {M : Part → Prop} {z : State} {s : State} (h : Parts M z s) (m_watch : M .watch) :
    Parts M z (State.endStep s) := by
  unfold State.endStep
  repeat' first
    | with_reducible assumption
    | with_reducible apply State.setWatch_parts
    | split

theorem State.trainStep_parts {M : Part → Prop} {z : State} {s : State} (h : Parts M z s) (replay : Bool)
    (m_regs : M .regs) (m_watch : M .watch) :
    Parts M z (State.trainStep s replay) := by
  unfold State.trainStep
  repeat' first
    | with_reducible assumption
    | with_reducible apply State.endStep_parts
    | with_reducible apply State.beginStep_parts
    | split

theorem State.abortStep_parts {M : Part → Prop} {z : State} {s : State} (h : Parts M z s) (n : Nat) (m_regs : M .regs)
    (m_watch : M .watch) :
    Parts M z (State.abortStep s n) := by
  unfold State.abortStep
  repeat' first
    | with_reducible assumption
    | with_reducible apply State.setWatch_parts
    | with_reducible apply State.bump_parts
    | split

theorem State.srMove_parts {M : Part → Prop} {z : State} {s : State} (h : Parts M z s) (d : Nat) (p : PageId)
    (m_regs : M .regs) :
    Parts M z (State.srMove s d p) := by
  unfold State.srMove
  repeat' first
    | with_reducible assumption
    | with_reducible apply State.put_parts

theorem State.srMoveAll_parts {M : Part → Prop} {z : State} {s : State} (h : Parts M z s) (d : Nat) (m_regs : M .regs) :
    Parts M z (State.srMoveAll s d) := by
  unfold State.srMoveAll
  repeat' first
    | with_reducible assumption
    | with_reducible apply State.srMove_parts
    | with_reducible refine parts_foldl (fun t x ht => ?_) ?_
    | split

theorem State.srSkip_parts {M : Part → Prop} {z : State} {s : State} (h : Parts M z s) (m_regs : M .regs)
    (m_belfry : M .belfry) :
    Parts M z (State.srSkip s) := by
  unfold State.srSkip
  repeat' first
    | with_reducible assumption
    | with_reducible apply State.srMoveAll_parts
    | with_reducible apply State.setBelfry_parts

theorem State.srReplay_parts {M : Part → Prop} {z : State} {s : State} (h : Parts M z s) (m_regs : M .regs) :
    Parts M z (State.srReplay s) := by
  unfold State.srReplay
  repeat' first
    | with_reducible assumption
    | with_reducible apply State.srMoveAll_parts
    | split

theorem State.addHold_parts {M : Part → Prop} {z : State} {s : State} (h : Parts M z s) (set : Nat) (m_regs : M .regs) :
    Parts M z (State.addHold s set) := by
  unfold State.addHold
  repeat' first
    | with_reducible assumption
    | with_reducible apply State.wr_parts

theorem State.causeAtSwitch_parts {M : Part → Prop} {z : State} {s : State} (h : Parts M z s) (set : Nat)
    (m_watch : M .watch) :
    Parts M z (State.causeAtSwitch s set) := by
  unfold State.causeAtSwitch
  repeat' first
    | with_reducible assumption
    | with_reducible apply State.setWatch_parts

theorem State.pairLoss_parts {M : Part → Prop} {z : State} {s : State} (h : Parts M z s) (l : List Nat) (m_free : M
    .free) (m_regs : M .regs) (m_events : M .events) (m_host : M .host) (m_watch : M .watch) :
    Parts M z (State.pairLoss s l) := by
  unfold State.pairLoss
  repeat' first
    | with_reducible assumption
    | with_reducible apply State.setWatch_parts
    | with_reducible apply State.err_parts
    | with_reducible apply State.eventE_parts
    | with_reducible apply State.wrs_parts
    | with_reducible apply State.again_parts
    | split
    | dsimp only

theorem State.agreeFail_parts {M : Part → Prop} {z : State} {s : State} (h : Parts M z s) (d t : Nat) (m_free : M .free)
    (m_regs : M .regs) (m_events : M .events) (m_host : M .host) (m_links : M .links) (m_watch : M .watch) :
    Parts M z (State.agreeFail s d t) := by
  unfold State.agreeFail
  repeat' first
    | with_reducible assumption
    | with_reducible apply State.err_parts
    | with_reducible apply State.reportLinkAt_parts
    | split
    | dsimp only

theorem State.digestIn_parts {M : Part → Prop} {z : State} {s : State} (h : Parts M z s) (d c x : Nat) (m_free : M
    .free) (m_regs : M .regs) (m_events : M .events) (m_host : M .host) (m_links : M .links) (m_watch : M .watch) :
    Parts M z (State.digestIn s d c x) := by
  unfold State.digestIn
  repeat' first
    | with_reducible assumption
    | with_reducible apply State.agreeFail_parts
    | with_reducible apply State.setWatch_parts
    | split
    | dsimp only

theorem State.digestEarly_parts {M : Part → Prop} {z : State} {s : State} (h : Parts M z s) (c x : Nat) (m_free : M
    .free) (m_regs : M .regs) (m_events : M .events) (m_host : M .host) (m_links : M .links) (m_watch : M .watch) :
    Parts M z (State.digestEarly s c x) := by
  unfold State.digestEarly
  repeat' first
    | with_reducible assumption
    | with_reducible apply State.agreeFail_parts
    | with_reducible apply State.setWatch_parts
    | with_reducible refine parts_foldl (fun t x ht => ?_) ?_
    | with_reducible refine parts_foldl_1 (fun t x ht => ?_) ?_
    | with_reducible refine parts_foldl_2 (fun t x ht => ?_) ?_
    | with_reducible refine parts_foldl_3 (fun t x ht => ?_) ?_
    | split
    | dsimp only

theorem State.armVariant_parts {M : Part → Prop} {z : State} {s : State} (h : Parts M z s) (v t : Nat) (m_regs : M .regs) :
    Parts M z (State.armVariant s v t) := by
  unfold State.armVariant
  repeat' first
    | with_reducible assumption
    | with_reducible apply State.wrs_parts

theorem State.selectVariant_parts {M : Part → Prop} {z : State} {s : State} (h : Parts M z s) (t : Nat) (m_free : M .free)
    (m_regs : M .regs) (m_events : M .events) (m_host : M .host) (m_watch : M .watch) :
    Parts M z (State.selectVariant s t) := by
  unfold State.selectVariant
  repeat' first
    | with_reducible assumption
    | with_reducible apply State.armVariant_parts
    | with_reducible apply State.causeAtSwitch_parts
    | with_reducible apply State.err_parts
    | with_reducible apply State.wr_parts
    | split

theorem State.restorerReports_parts {M : Part → Prop} {z : State} {s : State} (h : Parts M z s) (l : List Report)
    (m_regs : M .regs) (m_watch : M .watch) :
    Parts M z (State.restorerReports s l) := by
  unfold State.restorerReports
  repeat' first
    | with_reducible assumption
    | with_reducible apply State.causeAtSwitch_parts
    | with_reducible apply State.addHold_parts
    | with_reducible apply State.setWatch_parts
    | split

theorem State.roundEvent_parts {M : Part → Prop} {z : State} {s : State} (h : Parts M z s) (c x : Nat) (n : Option Nat)
    (m_free : M .free) (m_regs : M .regs) (m_events : M .events) (m_host : M .host) :
    Parts M z (State.roundEvent s c x n) := by
  unfold State.roundEvent
  repeat' first
    | with_reducible assumption
    | with_reducible apply State.eventE_parts

theorem State.actOn_parts {M : Part → Prop} {z : State} {s : State} (h : Parts M z s) (c : Nat) (l : List Report)
    (m_free : M .free) (m_regs : M .regs) (m_events : M .events) (m_host : M .host) (m_watch : M .watch) (m_tiles : M
    .tiles) :
    Parts M z (State.actOn s c l) := by
  unfold State.actOn
  repeat' first
    | with_reducible assumption
    | with_reducible apply State.restorerReports_parts
    | with_reducible apply State.selectVariant_parts
    | with_reducible apply State.pairLoss_parts
    | with_reducible apply State.causeAtSwitch_parts
    | with_reducible apply State.abortStep_parts
    | with_reducible apply State.prefetchAll_parts
    | with_reducible apply State.setWatch_parts
    | with_reducible apply State.wr_parts
    | split
    | dsimp only

theorem State.decideRound_parts {M : Part → Prop} {z : State} {s : State} (h : Parts M z s) (c : Nat) (m_out : M .out)
    (m_free : M .free) (m_regs : M .regs) (m_events : M .events) (m_host : M .host) (m_links : M .links) (m_watch : M
    .watch) (m_tiles : M .tiles) : Parts M z (State.decideRound s c) := by
  unfold State.decideRound
  repeat' first
    | with_reducible assumption
    | with_reducible apply State.actOn_parts
    | with_reducible apply State.roundEvent_parts
    | with_reducible apply State.digestEarly_parts
    | with_reducible apply State.flood_parts
    | with_reducible apply State.setWatch_parts
    | with_reducible apply State.wrs_parts
    | with_reducible apply State.bump_parts

theorem State.armResume_parts {M : Part → Prop} {z : State} {s : State} (h : Parts M z s) (decided : Bool)
    (m_watch : M .watch) :
    Parts M z (State.armResume s decided) := by
  unfold State.armResume
  repeat' first
    | with_reducible assumption
    | with_reducible apply State.setWatch_parts
    | split

theorem State.endHold_parts {M : Part → Prop} {z : State} {s : State} (h : Parts M z s) (m_regs : M .regs) (m_watch : M
    .watch) :
    Parts M z (State.endHold s) := by
  unfold State.endHold
  repeat' first
    | with_reducible assumption
    | with_reducible apply State.setWatch_parts
    | with_reducible apply State.wr_parts
    | split
    | dsimp only

theorem State.autoResume_parts {M : Part → Prop} {z : State} {s : State} (h : Parts M z s) (m_regs : M .regs)
    (m_watch : M .watch) :
    Parts M z (State.autoResume s) := by
  unfold State.autoResume
  repeat' first
    | with_reducible assumption
    | with_reducible apply State.endHold_parts
    | with_reducible apply State.setWatch_parts
    | split

theorem State.decide_parts {M : Part → Prop} {z : State} {s : State} (h : Parts M z s) (m_out : M .out) (m_free : M
    .free) (m_regs : M .regs) (m_events : M .events) (m_host : M .host) (m_links : M .links) (m_watch : M .watch)
    (m_tiles : M .tiles) : Parts M z (State.decide s) := by
  unfold State.decide
  repeat' first
    | with_reducible assumption
    | with_reducible apply State.armResume_parts
    | with_reducible apply State.decideRound_parts
    | split

theorem State.watchReport_parts {M : Part → Prop} {z : State} {s : State} (h : Parts M z s) (d : Nat) (m : WatchMsg)
    (m_out : M .out) (m_links : M .links) (m_watch : M .watch) : Parts M z (State.watchReport s d m) := by
  unfold State.watchReport
  repeat' first
    | with_reducible assumption
    | with_reducible apply State.holdReport_parts
    | split

theorem State.neighbourSilent_parts {M : Part → Prop} {z : State} {s : State} (h : Parts M z s) (d : Nat) (m_out : M
    .out) (m_free : M .free) (m_regs : M .regs) (m_events : M .events) (m_host : M .host) (m_belfry : M .belfry)
    (m_links : M .links) (m_watch : M .watch) : Parts M z (State.neighbourSilent s d) := by
  unfold State.neighbourSilent
  repeat' first
    | with_reducible assumption
    | with_reducible apply State.reportLink_parts
    | with_reducible apply State.err_parts
    | with_reducible apply State.setBelfry_parts
    | with_reducible apply State.put_parts
    | split

theorem State.readFlight_parts {M : Part → Prop} {z : State} {s : State} (h : Parts M z s) (m_regs : M .regs) :
    Parts M z (State.readFlight s).2 := by
  unfold State.readFlight
  repeat' first
    | with_reducible assumption
    | with_reducible apply State.put_parts

theorem State.readDecl_parts {M : Part → Prop} {z : State} {s : State} (h : Parts M z s) (m_regs : M .regs) :
    Parts M z (State.readDecl s).2 := by
  unfold State.readDecl
  repeat' first
    | with_reducible assumption
    | with_reducible apply State.put_parts

theorem State.command_parts {M : Part → Prop} {z : State} {s : State} (h : Parts M z s) (code t : Nat) (src : Option
    Nat) (origin : Nat) (m_out : M .out) (m_free : M .free) (m_regs : M .regs) (m_events : M .events) (m_host : M .host)
    (m_belfry : M .belfry) (m_links : M .links) (m_watch : M .watch) (m_tiles : M .tiles) : Parts M z (State.command s
    code t src origin) := by
  unfold State.command
  repeat' first
    | with_reducible assumption
    | with_reducible apply State.prefetchAll_parts
    | with_reducible apply State.rememberFlood_parts
    | with_reducible apply State.flood_parts
    | with_reducible apply State.setWatch_parts
    | with_reducible apply State.err_parts
    | split
    | dsimp only

theorem State.writeCmd_parts {M : Part → Prop} {z : State} {s : State} (h : Parts M z s) (code : Nat) (m_out : M .out)
    (m_free : M .free) (m_regs : M .regs) (m_events : M .events) (m_host : M .host) (m_belfry : M .belfry) (m_links : M
    .links) (m_watch : M .watch) (m_tiles : M .tiles) : Parts M z (State.writeCmd s code) := by
  unfold State.writeCmd
  repeat' first
    | with_reducible assumption
    | with_reducible apply State.command_parts

theorem State.cmdAbort_parts {M : Part → Prop} {z : State} {s : State} (h : Parts M z s) (m_regs : M .regs)
    (m_watch : M .watch) :
    Parts M z (State.cmdAbort s) := by
  unfold State.cmdAbort
  repeat' first
    | with_reducible assumption
    | with_reducible apply State.endHold_parts
    | with_reducible apply State.abortStep_parts
    | with_reducible apply State.setWatch_parts
    | split

theorem State.takeCommand_parts {M : Part → Prop} {z : State} {s : State} (h : Parts M z s) (code : Nat)
    (m_free : M .free) (m_regs : M .regs) (m_events : M .events) (m_host : M .host) (m_opn : M .opn) (m_fst : M .fst)
    (m_watch : M .watch) (m_bankA : M .bankA) (m_bankB : M .bankB) (m_sched : M .sched) (m_runs : M .runs)
    (m_movers : M .movers) (m_tiles : M .tiles) (m_meas : M .meas) :
    Parts M z (State.takeCommand s code) := by
  unfold State.takeCommand
  repeat' first
    | with_reducible assumption
    | with_reducible apply State.cmdAbort_parts
    | with_reducible apply State.endHold_parts
    | with_reducible apply State.fabricReset_parts
    | split

theorem State.takeCommands_parts {M : Part → Prop} {z : State} {s : State} (h : Parts M z s) (m_free : M .free)
    (m_regs : M .regs) (m_events : M .events) (m_host : M .host) (m_opn : M .opn) (m_fst : M .fst) (m_watch : M .watch)
    (m_bankA : M .bankA) (m_bankB : M .bankB) (m_sched : M .sched) (m_runs : M .runs) (m_movers : M .movers)
    (m_tiles : M .tiles) (m_meas : M .meas) :
    Parts M z (State.takeCommands s) := by
  unfold State.takeCommands
  repeat' first
    | with_reducible assumption
    | with_reducible apply State.takeCommand_parts
    | with_reducible apply State.setWatch_parts
    | with_reducible refine parts_foldl (fun t x ht => ?_) ?_

end Sys2Proof.Machine
end

