-- ==== Sys2Proof/Laws/PartsRestore.lean ====
section
/-! SUPPORT. What the operations of Restore.lean touch (Parts). -/

namespace Sys2Proof.Machine

open Sys2Proof

theorem State.setFst0_parts {M : Part → Prop} {z : State} {s : State} (h : Parts M z s) (i v : Nat) (m_fst : M .fst) :
    Parts M z (State.setFst0 s i v) := by
  unfold State.setFst0
  repeat' first
    | with_reducible exact Or.inr rfl
    | with_reducible exact Or.inr ⟨rfl, rfl, rfl, rfl, rfl⟩
    | with_reducible exact Or.inl (by assumption)
    | with_reducible assumption
    | with_reducible apply State.put_parts
    | dsimp only
    | with_reducible apply parts_mk

theorem State.promoteShard_parts {M : Part → Prop} {z : State} {s : State} (h : Parts M z s) (x : Nat × List Byte × Nat
    × Shard) (m_free : M .free) (m_regs : M .regs) (m_mem : M .mem) (m_events : M .events) (m_host : M .host) (m_arrays
    : M .arrays) (m_watch : M .watch) :
    Parts M z (State.promoteShard s x) := by
  unfold State.promoteShard
  repeat' first
    | with_reducible assumption
    | with_reducible apply State.hbmCopy_parts
    | with_reducible apply State.bump_parts
    | with_reducible refine parts_foldl (fun t x ht => ?_) ?_
    | with_reducible refine parts_foldl_1 (fun t x ht => ?_) ?_
    | with_reducible refine parts_foldl_2 (fun t x ht => ?_) ?_
    | with_reducible refine parts_foldl_3 (fun t x ht => ?_) ?_
    | split
    | dsimp only

theorem State.promote_parts {M : Part → Prop} {z : State} {s : State} (h : Parts M z s) (i : Nat) (m_free : M .free)
    (m_regs : M .regs) (m_mem : M .mem) (m_events : M .events) (m_host : M .host) (m_arrays : M .arrays) (m_fst : M .fst)
    (m_watch : M .watch) :
    Parts M z (State.promote s i) := by
  unfold State.promote
  repeat' first
    | with_reducible assumption
    | with_reducible apply State.promoteShard_parts
    | with_reducible apply State.setFst0_parts
    | with_reducible apply State.setWatch_parts
    | with_reducible apply State.wr_parts
    | with_reducible refine parts_foldl (fun t x ht => ?_) ?_

theorem State.promoteAll_parts {M : Part → Prop} {z : State} {s : State} (h : Parts M z s) (m_free : M .free)
    (m_regs : M .regs) (m_mem : M .mem) (m_events : M .events) (m_host : M .host) (m_arrays : M .arrays) (m_fst : M .fst)
    (m_watch : M .watch) :
    Parts M z (State.promoteAll s) := by
  unfold State.promoteAll
  repeat' first
    | with_reducible assumption
    | with_reducible apply State.promote_parts
    | with_reducible apply State.setWatch_parts
    | with_reducible refine parts_foldl (fun t x ht => ?_) ?_

theorem State.demote_parts {M : Part → Prop} {z : State} {s : State} (h : Parts M z s) (m_regs : M .regs) (m_fst : M
    .fst) (m_watch : M .watch) : Parts M z (State.demote s) := by
  unfold State.demote
  repeat' first
    | with_reducible assumption
    | with_reducible apply State.setFst0_parts
    | with_reducible apply State.setWatch_parts
    | with_reducible apply State.wr_parts
    | with_reducible refine parts_foldl (fun t x ht => ?_) ?_

theorem State.drain_parts {M : Part → Prop} {z : State} {s : State} (h : Parts M z s) (m_out : M .out) (m_free : M
    .free) (m_regs : M .regs) (m_events : M .events) (m_host : M .host) (m_links : M .links) (m_reservations : M
    .reservations) (m_routes : M .routes) (m_opn : M .opn) (m_fst : M .fst) (m_watch : M .watch) (m_answers : M
    .answers) : Parts M z (State.drain s) := by
  unfold State.drain
  repeat' first
    | with_reducible assumption
    | with_reducible apply State.demote_parts
    | with_reducible apply State.drainDeadline_parts
    | split

theorem State.showPending_parts {M : Part → Prop} {z : State} {s : State} (h : Parts M z s) (m_regs : M .regs) :
    Parts M z (State.showPending s) := by
  unfold State.showPending
  repeat' first
    | with_reducible assumption
    | with_reducible apply State.wr_parts
    | split

theorem State.setRestore_parts {M : Part → Prop} {z : State} {s : State} (h : Parts M z s) (r : Option Restore)
    (m_regs : M .regs) (m_watch : M .watch) :
    Parts M z (State.setRestore s r) := by
  unfold State.setRestore
  repeat' first
    | with_reducible assumption
    | with_reducible apply State.showPending_parts
    | with_reducible apply State.setWatch_parts

theorem State.restoreEvent_parts {M : Part → Prop} {z : State} {s : State} (h : Parts M z s) (phase bytes : Nat)
    (m_free : M .free) (m_regs : M .regs) (m_events : M .events) (m_host : M .host) :
    Parts M z (State.restoreEvent s phase bytes) := by
  unfold State.restoreEvent
  repeat' first
    | with_reducible assumption
    | with_reducible apply State.eventE_parts

theorem State.restorePhaseEnd_parts {M : Part → Prop} {z : State} {s : State} (h : Parts M z s) (r : Restore) (m_out : M
    .out) (m_free : M .free) (m_regs : M .regs) (m_events : M .events) (m_host : M .host) (m_links : M .links) (m_watch
    : M .watch) : Parts M z (State.restorePhaseEnd s r) := by
  unfold State.restorePhaseEnd
  repeat' first
    | with_reducible assumption
    | with_reducible apply State.restoreEvent_parts
    | with_reducible apply State.setRestore_parts
    | with_reducible apply State.reportSelf_parts
    | with_reducible apply State.wr_parts

theorem State.copySetup_parts {M : Part → Prop} {z : State} {s : State} (h : Parts M z s) (k i : Nat) (m_regs : M .regs)
    :
    Parts M z (State.copySetup s k i) := by
  unfold State.copySetup
  repeat' first
    | with_reducible assumption
    | with_reducible apply State.wrs_parts
    | with_reducible apply State.wr2_parts
    | split
    | dsimp only

theorem State.copyGo_parts {M : Part → Prop} {z : State} {s : State} (h : Parts M z s) (m_out : M .out) (m_free : M
    .free) (m_regs : M .regs) (m_events : M .events) (m_host : M .host) (m_links : M .links) (m_reservations : M
    .reservations) (m_opn : M .opn) (m_watch : M .watch) (m_movers : M .movers) (m_power : M .power) (m_answers : M
    .answers) : Parts M z (State.copyGo s) := by
  unfold State.copyGo
  repeat' first
    | with_reducible assumption
    | with_reducible apply State.copySetup_parts
    | with_reducible apply State.setRestore_parts
    | with_reducible apply State.mvGo_parts
    | split
    | dsimp only

theorem State.copyStart_parts {M : Part → Prop} {z : State} {s : State} (h : Parts M z s) (r : Restore) (i : Nat) (m_out
    : M .out) (m_free : M .free) (m_regs : M .regs) (m_events : M .events) (m_host : M .host) (m_links : M .links)
    (m_reservations : M .reservations) (m_opn : M .opn) (m_watch : M .watch) (m_movers : M .movers) (m_power : M .power)
    (m_answers : M .answers) : Parts M z (State.copyStart s r i) := by
  unfold State.copyStart
  repeat' first
    | with_reducible assumption
    | with_reducible apply State.copyGo_parts
    | with_reducible apply State.setRestore_parts
    | split
    | dsimp only

theorem State.rebuildNext_parts {M : Part → Prop} {z : State} {s : State} (h : Parts M z s) (r : Restore) (m_out : M
    .out) (m_free : M .free) (m_regs : M .regs) (m_events : M .events) (m_host : M .host) (m_links : M .links)
    (m_reservations : M .reservations) (m_opn : M .opn) (m_watch : M .watch) (m_movers : M .movers) (m_power : M .power)
    (m_answers : M .answers) : Parts M z (State.rebuildNext s r) := by
  unfold State.rebuildNext
  repeat' first
    | with_reducible assumption
    | with_reducible apply State.copyStart_parts
    | with_reducible apply State.restoreEvent_parts
    | with_reducible apply State.setRestore_parts
    | split
    | dsimp only

theorem State.restoreNext_parts {M : Part → Prop} {z : State} {s : State} (h : Parts M z s) (m_out : M .out) (m_free : M
    .free) (m_regs : M .regs) (m_events : M .events) (m_host : M .host) (m_links : M .links) (m_reservations : M
    .reservations) (m_opn : M .opn) (m_watch : M .watch) (m_movers : M .movers) (m_power : M .power) (m_answers : M
    .answers) : Parts M z (State.restoreNext s) := by
  unfold State.restoreNext
  repeat' first
    | with_reducible assumption
    | with_reducible apply State.rebuildNext_parts
    | with_reducible apply State.copyStart_parts
    | with_reducible apply State.restorePhaseEnd_parts
    | split
    | dsimp only

theorem State.restoreStart_parts {M : Part → Prop} {z : State} {s : State} (h : Parts M z s) (l : List Nat) (m_out : M
    .out) (m_free : M .free) (m_regs : M .regs) (m_events : M .events) (m_host : M .host) (m_links : M .links)
    (m_reservations : M .reservations) (m_opn : M .opn) (m_watch : M .watch) (m_movers : M .movers) (m_power : M .power)
    (m_answers : M .answers) : Parts M z (State.restoreStart s l) := by
  unfold State.restoreStart
  repeat' first
    | with_reducible assumption
    | with_reducible apply State.restoreNext_parts
    | with_reducible apply State.setRestore_parts
    | with_reducible apply State.markStale_parts
    | with_reducible apply State.pairLoss_parts
    | with_reducible apply State.causeAtSwitch_parts
    | with_reducible apply State.addHold_parts
    | with_reducible apply State.reportSelf_parts
    | with_reducible apply State.wr2_parts
    | with_reducible apply State.wr_parts
    | with_reducible refine parts_foldl (fun t x ht => ?_) ?_
    | split
    | dsimp only

theorem State.rbGo_parts {M : Part → Prop} {z : State} {s : State} (h : Parts M z s) (v : Nat) (m_out : M .out) (m_free
    : M .free) (m_regs : M .regs) (m_events : M .events) (m_host : M .host) (m_links : M .links) (m_reservations : M
    .reservations) (m_opn : M .opn) (m_watch : M .watch) (m_movers : M .movers) (m_power : M .power) (m_answers : M
    .answers) : Parts M z (State.rbGo s v) := by
  unfold State.rbGo
  repeat' first
    | with_reducible assumption
    | with_reducible apply State.restoreStart_parts
    | with_reducible apply State.put_parts
    | split

theorem State.restoreFail_parts {M : Part → Prop} {z : State} {s : State} (h : Parts M z s) (m_out : M .out) (m_free : M
    .free) (m_regs : M .regs) (m_events : M .events) (m_host : M .host) (m_links : M .links) (m_watch : M .watch) :
    Parts M z (State.restoreFail s) := by
  unfold State.restoreFail
  repeat' first
    | with_reducible assumption
    | with_reducible apply State.setRestore_parts
    | with_reducible apply State.reportSelf_parts
    | with_reducible apply State.err_parts
    | with_reducible apply State.wr_parts
    | split
    | dsimp only

theorem State.watchWrite_parts {M : Part → Prop} {z : State} {s : State} (h : Parts M z s) (c tag off v : Nat) (m_out :
    M .out) (m_free : M .free) (m_regs : M .regs) (m_events : M .events) (m_host : M .host) (m_links : M .links)
    (m_reservations : M .reservations) (m_opn : M .opn) (m_power : M .power) (m_answers : M .answers) : Parts M z
    (State.watchWrite s c tag off v) := by
  unfold State.watchWrite
  repeat' first
    | with_reducible assumption
    | with_reducible apply State.inject_parts

theorem State.watchRead_parts {M : Part → Prop} {z : State} {s : State} (h : Parts M z s) (c tag off : Nat) (m_out : M
    .out) (m_free : M .free) (m_regs : M .regs) (m_events : M .events) (m_host : M .host) (m_links : M .links)
    (m_reservations : M .reservations) (m_opn : M .opn) (m_power : M .power) (m_answers : M .answers) : Parts M z
    (State.watchRead s c tag off) := by
  unfold State.watchRead
  repeat' first
    | with_reducible assumption
    | with_reducible apply State.inject_parts

theorem State.checkStart_parts {M : Part → Prop} {z : State} {s : State} (h : Parts M z s) (i : Nat) (m_out : M .out)
    (m_free : M .free) (m_regs : M .regs) (m_events : M .events) (m_host : M .host) (m_links : M .links) (m_reservations
    : M .reservations) (m_opn : M .opn) (m_power : M .power) (m_answers : M .answers) : Parts M z (State.checkStart s i) := by
  unfold State.checkStart
  repeat' first
    | with_reducible assumption
    | with_reducible apply State.watchWrite_parts
    | with_reducible apply State.chkGo_parts
    | with_reducible apply State.wrs_parts

theorem State.checkAsk_parts {M : Part → Prop} {z : State} {s : State} (h : Parts M z s) (m_out : M .out) (m_free : M
    .free) (m_regs : M .regs) (m_events : M .events) (m_host : M .host) (m_links : M .links) (m_reservations : M
    .reservations) (m_opn : M .opn) (m_power : M .power) (m_answers : M .answers) : Parts M z (State.checkAsk s) := by
  unfold State.checkAsk
  repeat' first
    | with_reducible assumption
    | with_reducible apply State.watchRead_parts
    | with_reducible refine parts_foldl (fun t x ht => ?_) ?_
    | with_reducible refine parts_foldl_1 (fun t x ht => ?_) ?_
    | with_reducible refine parts_foldl_2 (fun t x ht => ?_) ?_
    | with_reducible refine parts_foldl_3 (fun t x ht => ?_) ?_
    | split
    | dsimp only

theorem State.restoreTurn_parts {M : Part → Prop} {z : State} {s : State} (h : Parts M z s) (m_out : M .out) (m_free : M
    .free) (m_regs : M .regs) (m_events : M .events) (m_host : M .host) (m_links : M .links) (m_reservations : M
    .reservations) (m_opn : M .opn) (m_watch : M .watch) (m_movers : M .movers) (m_power : M .power) (m_answers : M
    .answers) : Parts M z (State.restoreTurn s) := by
  unfold State.restoreTurn
  repeat' first
    | with_reducible assumption
    | with_reducible apply State.checkAsk_parts
    | with_reducible apply State.copyGo_parts
    | split
    | dsimp only

theorem State.copyCount_parts {M : Part → Prop} {z : State} {s : State} (h : Parts M z s) (i : Nat) (m_regs : M .regs) :
    Parts M z (State.copyCount s i) := by
  unfold State.copyCount
  repeat' first
    | with_reducible assumption
    | with_reducible apply State.wr2_parts
    | split
    | dsimp only

theorem State.rebuilt_parts {M : Part → Prop} {z : State} {s : State} (h : Parts M z s) (i : Nat) (m_watch : M .watch) :
    Parts M z (State.rebuilt s i) := by
  unfold State.rebuilt
  repeat' first
    | with_reducible assumption
    | with_reducible apply State.markStale_parts
    | with_reducible apply State.setWatch_parts
    | split
    | dsimp only

theorem State.copyDone_parts {M : Part → Prop} {z : State} {s : State} (h : Parts M z s) (ok : Bool) (m_out : M .out)
    (m_free : M .free) (m_regs : M .regs) (m_events : M .events) (m_host : M .host) (m_links : M .links) (m_reservations
    : M .reservations) (m_opn : M .opn) (m_watch : M .watch) (m_movers : M .movers) (m_power : M .power) (m_answers : M
    .answers) : Parts M z (State.copyDone s ok) := by
  unfold State.copyDone
  repeat' first
    | with_reducible assumption
    | with_reducible apply State.rebuilt_parts
    | with_reducible apply State.copyCount_parts
    | with_reducible apply State.checkStart_parts
    | with_reducible apply State.restoreFail_parts
    | with_reducible apply State.restoreNext_parts
    | with_reducible apply State.setRestore_parts
    | with_reducible apply State.mvResume_parts
    | split
    | dsimp only

theorem State.checkDone_parts {M : Part → Prop} {z : State} {s : State} (h : Parts M z s) (srcSum srcNorm : Nat) (m_out
    : M .out) (m_free : M .free) (m_regs : M .regs) (m_events : M .events) (m_host : M .host) (m_links : M .links)
    (m_reservations : M .reservations) (m_opn : M .opn) (m_watch : M .watch) (m_movers : M .movers) (m_power : M .power)
    (m_answers : M .answers) : Parts M z (State.checkDone s srcSum srcNorm) := by
  unfold State.checkDone
  repeat' first
    | with_reducible assumption
    | with_reducible apply State.restoreFail_parts
    | with_reducible apply State.restoreNext_parts
    | with_reducible apply State.copyGo_parts
    | with_reducible apply State.setRestore_parts
    | split
    | dsimp only

theorem State.takeVariant_parts {M : Part → Prop} {z : State} {s : State} (h : Parts M z s) (m_free : M .free)
    (m_regs : M .regs) (m_events : M .events) (m_host : M .host) (m_watch : M .watch) (m_sched : M .sched) :
    Parts M z (State.takeVariant s) := by
  unfold State.takeVariant
  repeat' first
    | with_reducible assumption
    | with_reducible apply State.setSched_parts
    | with_reducible apply State.moduleFault_parts
    | with_reducible apply State.err_parts
    | with_reducible apply State.wr_parts
    | split
    | dsimp only

theorem State.enterHold_parts {M : Part → Prop} {z : State} {s : State} (h : Parts M z s) (t set : Nat) (m_free : M .free)
    (m_regs : M .regs) (m_events : M .events) (m_host : M .host) (m_watch : M .watch) :
    Parts M z (State.enterHold s t set) := by
  unfold State.enterHold
  repeat' first
    | with_reducible assumption
    | with_reducible apply State.addHold_parts
    | with_reducible apply State.setWatch_parts
    | with_reducible apply State.eventE_parts
    | split

theorem State.reselectVariant_parts {M : Part → Prop} {z : State} {s : State} (h : Parts M z s) (t : Nat)
    (m_free : M .free) (m_regs : M .regs) (m_events : M .events) (m_host : M .host) (m_watch : M .watch) :
    Parts M z (State.reselectVariant s t) := by
  unfold State.reselectVariant
  repeat' first
    | with_reducible assumption
    | with_reducible apply State.selectVariant_parts
    | with_reducible apply State.setWatch_parts
    | with_reducible apply State.wr_parts
    | split

theorem State.switchAct_parts {M : Part → Prop} {z : State} {s : State} (h : Parts M z s) (t : Nat) (m_out : M .out)
    (m_free : M .free) (m_regs : M .regs) (m_mem : M .mem) (m_events : M .events) (m_host : M .host) (m_links : M
    .links) (m_reservations : M .reservations) (m_opn : M .opn) (m_arrays : M .arrays) (m_fst : M .fst) (m_watch : M
    .watch) (m_sched : M .sched) (m_movers : M .movers) (m_power : M .power) (m_answers : M .answers) : Parts M z
    (State.switchAct s t) := by
  unfold State.switchAct
  repeat' first
    | with_reducible assumption
    | with_reducible apply State.reselectVariant_parts
    | with_reducible apply State.enterHold_parts
    | with_reducible apply State.takeVariant_parts
    | with_reducible apply State.restoreStart_parts
    | with_reducible apply State.promoteAll_parts
    | with_reducible apply State.setWatch_parts
    | split
    | dsimp only

theorem State.switchTick_parts {M : Part → Prop} {z : State} {s : State} (h : Parts M z s) (m_out : M .out) (m_free : M
    .free) (m_regs : M .regs) (m_mem : M .mem) (m_events : M .events) (m_host : M .host) (m_links : M .links)
    (m_reservations : M .reservations) (m_opn : M .opn) (m_arrays : M .arrays) (m_fst : M .fst) (m_watch : M .watch)
    (m_sched : M .sched) (m_movers : M .movers) (m_power : M .power) (m_answers : M .answers) : Parts M z
    (State.switchTick s) := by
  unfold State.switchTick
  repeat' first
    | with_reducible assumption
    | with_reducible apply State.switchAct_parts
    | split

theorem State.pairStart_parts {M : Part → Prop} {z : State} {s : State} (h : Parts M z s) (m_out : M .out) (m_free : M
    .free) (m_regs : M .regs) (m_events : M .events) (m_host : M .host) (m_links : M .links) (m_reservations : M
    .reservations) (m_opn : M .opn) (m_power : M .power) (m_answers : M .answers) : Parts M z (State.pairStart s) := by
  unfold State.pairStart
  repeat' first
    | with_reducible assumption
    | with_reducible apply State.watchRead_parts

theorem State.writePartner_parts {M : Part → Prop} {z : State} {s : State} (h : Parts M z s) (v : Nat) (m_out : M .out)
    (m_free : M .free) (m_regs : M .regs) (m_events : M .events) (m_host : M .host) (m_links : M .links) (m_reservations
    : M .reservations) (m_opn : M .opn) (m_power : M .power) (m_answers : M .answers) : Parts M z (State.writePartner s
    v) := by
  unfold State.writePartner
  repeat' first
    | with_reducible assumption
    | with_reducible apply State.pairStart_parts
    | with_reducible apply State.swField_parts
    | split
    | dsimp only

theorem State.pairAnswer_parts {M : Part → Prop} {z : State} {s : State} (h : Parts M z s) (a : Option Nat)
    (m_free : M .free) (m_regs : M .regs) (m_events : M .events) (m_host : M .host) :
    Parts M z (State.pairAnswer s a) := by
  unfold State.pairAnswer
  repeat' first
    | with_reducible assumption
    | with_reducible apply State.err_parts
    | with_reducible apply State.wrb_parts
    | split
    | dsimp only

theorem State.commitEntry_parts {M : Part → Prop} {z : State} {s : State} (h : Parts M z s) (m_out : M .out) (m_free : M
    .free) (m_regs : M .regs) (m_events : M .events) (m_host : M .host) (m_links : M .links) (m_reservations : M
    .reservations) (m_opn : M .opn) (m_fst : M .fst) (m_power : M .power) (m_answers : M .answers) : Parts M z
    (State.commitEntry s) := by
  unfold State.commitEntry
  repeat' first
    | with_reducible assumption
    | with_reducible apply State.pairStart_parts
    | with_reducible apply State.fstCommit_parts
    | split
    | dsimp only

theorem State.join_parts {M : Part → Prop} {z : State} {s : State} (h : Parts M z s) (v : Nat) (m_out : M .out) (m_free
    : M .free) (m_regs : M .regs) (m_events : M .events) (m_host : M .host) (m_links : M .links) (m_reservations : M
    .reservations) (m_opn : M .opn) (m_watch : M .watch) (m_power : M .power) (m_answers : M .answers) : Parts M z
    (State.join s v) := by
  unfold State.join
  repeat' first
    | with_reducible assumption
    | with_reducible apply State.pairStart_parts
    | with_reducible apply State.setWatch_parts
    | with_reducible apply State.err_parts
    | with_reducible apply State.wrb_parts
    | with_reducible apply State.put_parts
    | split
    | dsimp only

theorem State.joinAdopt_parts {M : Part → Prop} {z : State} {s : State} (h : Parts M z s) (d : Nat) (m : Marker) (m_regs
    : M .regs) (m_belfry : M .belfry) (m_watch : M .watch) :
    Parts M z (State.joinAdopt s d m) := by
  unfold State.joinAdopt
  repeat' first
    | with_reducible assumption
    | with_reducible apply State.setWatch_parts
    | with_reducible apply State.wrs_parts
    | with_reducible apply State.wr_parts
    | with_reducible apply State.setBelfry_parts
    | split
    | dsimp only

end Sys2Proof.Machine
end

