-- ==== Sys2Proof/Laws/PartsTrust.lean ====
section
/-! SUPPORT. What the operations of Trust.lean touch (Parts). -/

namespace Sys2Proof.Machine

open Sys2Proof

theorem State.writeNext_parts {M : Part → Prop} {z : State} {s : State} (h : Parts M z s) (slot : Nat) (m_regs : M .regs)
    (m_mem : M .mem) :
    Parts M z (State.writeNext s slot) := by
  unfold State.writeNext
  repeat' first
    | with_reducible assumption
    | with_reducible apply State.poke_parts
    | with_reducible apply State.wr_parts

theorem State.showSlot_parts {M : Part → Prop} {z : State} {s : State} (h : Parts M z s) (slot : Nat) (m_regs : M .regs) :
    Parts M z (State.showSlot s slot) := by
  unfold State.showSlot
  repeat' first
    | with_reducible assumption
    | with_reducible apply State.wri_parts

theorem State.loadKeys_parts {M : Part → Prop} {z : State} {s : State} (h : Parts M z s) (m_free : M .free)
    (m_regs : M .regs) (m_events : M .events) (m_host : M .host) (m_keys : M .keys) :
    Parts M z (State.loadKeys s) := by
  unfold State.loadKeys
  repeat' first
    | with_reducible exact Or.inr rfl
    | with_reducible exact Or.inr ⟨rfl, rfl, rfl, rfl, rfl⟩
    | with_reducible exact Or.inl (by assumption)
    | with_reducible assumption
    | with_reducible apply State.err_parts
    | split
    | dsimp only
    | with_reducible apply parts_mk

theorem State.enroll_parts {M : Part → Prop} {z : State} {s : State} (h : Parts M z s) (m_free : M .free)
    (m_regs : M .regs) (m_events : M .events) (m_host : M .host) (m_keys : M .keys) :
    Parts M z (State.enroll s) := by
  unfold State.enroll
  repeat' first
    | with_reducible exact Or.inr rfl
    | with_reducible exact Or.inr ⟨rfl, rfl, rfl, rfl, rfl⟩
    | with_reducible exact Or.inl (by assumption)
    | with_reducible assumption
    | with_reducible apply State.err_parts
    | with_reducible apply State.put_parts
    | split
    | dsimp only
    | with_reducible apply parts_mk

theorem State.revoke_parts {M : Part → Prop} {z : State} {s : State} (h : Parts M z s) (m_free : M .free)
    (m_regs : M .regs) (m_events : M .events) (m_host : M .host) (m_keys : M .keys) :
    Parts M z (State.revoke s) := by
  unfold State.revoke
  repeat' first
    | with_reducible exact Or.inr rfl
    | with_reducible exact Or.inr ⟨rfl, rfl, rfl, rfl, rfl⟩
    | with_reducible exact Or.inl (by assumption)
    | with_reducible assumption
    | with_reducible apply State.err_parts
    | with_reducible apply State.put_parts
    | split
    | dsimp only
    | with_reducible apply parts_mk

theorem State.keySave_parts {M : Part → Prop} {z : State} {s : State} (h : Parts M z s) (m_free : M .free)
    (m_regs : M .regs) (m_mem : M .mem) (m_events : M .events) (m_host : M .host) :
    Parts M z (State.keySave s) := by
  unfold State.keySave
  repeat' first
    | with_reducible assumption
    | with_reducible apply State.poke_parts
    | with_reducible apply State.err_parts
    | split

theorem State.loadCalField_parts {M : Part → Prop} {z : State} {s : State} (h : Parts M z s) (good : Bool) (r : Reg)
    (m_regs : M .regs) : Parts M z (State.loadCalField s good r) := by
  unfold State.loadCalField
  repeat' first
    | with_reducible assumption
    | with_reducible apply Served.count_parts
    | with_reducible apply State.put_parts
    | with_reducible refine parts_foldl (fun t x ht => ?_) ?_

theorem State.loadCal_parts {M : Part → Prop} {z : State} {s : State} (h : Parts M z s) (m_regs : M .regs) : Parts M z
    (State.loadCal s) := by
  unfold State.loadCal
  repeat' first
    | with_reducible assumption
    | with_reducible apply State.loadCalField_parts
    | with_reducible apply State.wrs_parts
    | with_reducible refine parts_foldl (fun t x ht => ?_) ?_

theorem State.bpLoad_parts {M : Part → Prop} {z : State} {s : State} (h : Parts M z s) (m_regs : M .regs) :
    Parts M z (State.bpLoad s) := by
  unfold State.bpLoad
  repeat' first
    | with_reducible assumption
    | with_reducible apply State.wr_parts
    | with_reducible apply State.put_parts
    | with_reducible refine parts_foldl (fun t x ht => ?_) ?_
    | split
    | dsimp only

theorem State.setLock_parts {M : Part → Prop} {z : State} {s : State} (h : Parts M z s) (p : PageId) (m_regs : M .regs) :
    Parts M z (State.setLock s p) := by
  unfold State.setLock
  repeat' first
    | with_reducible assumption
    | with_reducible apply State.put_parts

theorem State.applyBp_parts {M : Part → Prop} {z : State} {s : State} (h : Parts M z s) (m_regs : M .regs)
    (m_belfry : M .belfry) :
    Parts M z (State.applyBp s) := by
  unfold State.applyBp
  repeat' first
    | with_reducible assumption
    | with_reducible apply State.setLock_parts
    | with_reducible apply State.setBelfry_parts
    | with_reducible apply State.swField_parts
    | with_reducible refine parts_foldl (fun t x ht => ?_) ?_
    | split

theorem State.runSlot_parts {M : Part → Prop} {z : State} {s : State} (h : Parts M z s) (slot : Nat) (m_free : M .free)
    (m_regs : M .regs) (m_events : M .events) (m_host : M .host) (m_keys : M .keys) (m_meas : M .meas)
    (m_trust : M .trust) :
    Parts M z (State.runSlot s slot) := by
  unfold State.runSlot
  repeat' first
    | with_reducible exact Or.inr rfl
    | with_reducible exact Or.inr ⟨rfl, rfl, rfl, rfl, rfl⟩
    | with_reducible exact Or.inl (by assumption)
    | with_reducible assumption
    | with_reducible apply State.bpLoad_parts
    | with_reducible apply State.loadKeys_parts
    | with_reducible apply State.extend_parts
    | with_reducible apply State.clearMeas_parts
    | with_reducible apply State.setMeas_parts
    | with_reducible apply State.wrs_parts
    | with_reducible refine parts_foldl (fun t x ht => ?_) ?_
    | split
    | dsimp only
    | with_reducible apply parts_mk

theorem State.finialPhase_parts {M : Part → Prop} {z : State} {s : State} (h : Parts M z s) (m_free : M .free)
    (m_regs : M .regs) (m_events : M .events) (m_host : M .host) (m_keys : M .keys) (m_meas : M .meas)
    (m_trust : M .trust) :
    Parts M z (State.finialPhase s) := by
  unfold State.finialPhase
  repeat' first
    | with_reducible assumption
    | with_reducible apply State.runSlot_parts
    | with_reducible apply State.showSlot_parts
    | with_reducible apply State.err_parts
    | with_reducible apply State.wr_parts
    | split
    | dsimp only

theorem State.updRefused_parts {M : Part → Prop} {z : State} {s : State} (h : Parts M z s) (code : Nat) (m_free : M .free)
    (m_regs : M .regs) (m_events : M .events) (m_host : M .host) :
    Parts M z (State.updRefused s code) := by
  unfold State.updRefused
  repeat' first
    | with_reducible assumption
    | with_reducible apply State.err_parts
    | with_reducible apply State.wrs_parts

theorem State.updGo_parts {M : Part → Prop} {z : State} {s : State} (h : Parts M z s) (key : Nat) (m_free : M .free)
    (m_regs : M .regs) (m_mem : M .mem) (m_events : M .events) (m_host : M .host) (m_arrays : M .arrays) (m_trust : M
    .trust) :
    Parts M z (State.updGo s key) := by
  unfold State.updGo
  repeat' first
    | with_reducible exact Or.inr rfl
    | with_reducible exact Or.inr ⟨rfl, rfl, rfl, rfl, rfl⟩
    | with_reducible exact Or.inl (by assumption)
    | with_reducible assumption
    | with_reducible apply State.updRefused_parts
    | with_reducible apply State.wrs_parts
    | with_reducible apply State.wri_parts
    | with_reducible apply State.zeroRange_parts
    | split
    | dsimp only
    | with_reducible apply parts_mk

theorem State.updateComplete_parts {M : Part → Prop} {z : State} {s : State} (h : Parts M z s) (m_free : M .free)
    (m_regs : M .regs) (m_mem : M .mem) (m_events : M .events) (m_host : M .host) (m_trust : M .trust) :
    Parts M z (State.updateComplete s) := by
  unfold State.updateComplete
  repeat' first
    | with_reducible exact Or.inr rfl
    | with_reducible exact Or.inr ⟨rfl, rfl, rfl, rfl, rfl⟩
    | with_reducible exact Or.inl (by assumption)
    | with_reducible assumption
    | with_reducible apply State.updRefused_parts
    | with_reducible apply State.showSlot_parts
    | with_reducible apply State.writeNext_parts
    | with_reducible apply State.poke_parts
    | with_reducible apply State.wr_parts
    | split
    | dsimp only
    | with_reducible apply parts_mk

theorem State.fwCommit_parts {M : Part → Prop} {z : State} {s : State} (h : Parts M z s) (key : Nat) (m_free : M .free)
    (m_regs : M .regs) (m_events : M .events) (m_host : M .host) (m_fuses : M .fuses) : Parts M z (State.fwCommit s key)
    := by
  unfold State.fwCommit
  repeat' first
    | with_reducible exact Or.inr rfl
    | with_reducible exact Or.inr ⟨rfl, rfl, rfl, rfl, rfl⟩
    | with_reducible exact Or.inl (by assumption)
    | with_reducible assumption
    | with_reducible apply State.err_parts
    | with_reducible apply State.wr_parts
    | intro _
    | split
    | dsimp only
    | with_reducible apply parts_mk

theorem State.fkeyRevoke_parts {M : Part → Prop} {z : State} {s : State} (h : Parts M z s) (mask key : Nat)
    (m_free : M .free) (m_regs : M .regs) (m_events : M .events) (m_host : M .host) (m_fuses : M .fuses) : Parts M z
    (State.fkeyRevoke s mask key) := by
  unfold State.fkeyRevoke
  repeat' first
    | with_reducible exact Or.inr rfl
    | with_reducible exact Or.inr ⟨rfl, rfl, rfl, rfl, rfl⟩
    | with_reducible exact Or.inl (by assumption)
    | with_reducible assumption
    | with_reducible apply State.err_parts
    | intro _
    | split
    | dsimp only
    | with_reducible apply parts_mk

theorem State.drawChal_parts {M : Part → Prop} {z : State} {s : State} (h : Parts M z s) (m_free : M .free)
    (m_regs : M .regs) :
    Parts M z (State.drawChal s) := by
  unfold State.drawChal
  repeat' first
    | with_reducible assumption
    | with_reducible apply State.draw_parts
    | with_reducible apply State.put_parts
    | with_reducible refine parts_foldl (fun t x ht => ?_) ?_

theorem State.token_parts {M : Part → Prop} {z : State} {s : State} (h : Parts M z s) (f : State → State) (hf : ∀ t, Parts
    M z t → Parts M z (f t)) (m_free : M .free) (m_regs : M .regs) (m_events : M .events) (m_host : M .host) :
    Parts M z (State.token s f) := by
  unfold State.token
  split
  · exact State.err_parts h _ _ (m_free := m_free) (m_regs := m_regs) (m_events := m_events) (m_host := m_host)
  · split
    · exact hf _ (State.drawChal_parts h (m_free := m_free) (m_regs := m_regs))
    · exact State.err_parts (State.drawChal_parts h (m_free := m_free) (m_regs := m_regs)) _ _ (m_free := m_free)
          (m_regs := m_regs) (m_events := m_events) (m_host := m_host)

theorem State.testReq_parts {M : Part → Prop} {z : State} {s : State} (h : Parts M z s) (m_free : M .free)
    (m_regs : M .regs) (m_events : M .events) (m_host : M .host) :
    Parts M z (State.testReq s) := by
  unfold State.testReq
  repeat' first
    | with_reducible assumption
    | with_reducible apply State.token_parts
    | with_reducible apply State.wrb_parts
    | intro _

theorem State.dbgReq_parts {M : Part → Prop} {z : State} {s : State} (h : Parts M z s) (m_free : M .free)
    (m_regs : M .regs) (m_events : M .events) (m_host : M .host) :
    Parts M z (State.dbgReq s) := by
  unfold State.dbgReq
  repeat' first
    | with_reducible assumption
    | with_reducible apply State.token_parts
    | with_reducible apply State.wrb_parts
    | intro _

theorem State.attGo_parts {M : Part → Prop} {z : State} {s : State} (h : Parts M z s) (m_regs : M .regs)
    (m_trust : M .trust) :
    Parts M z (State.attGo s) := by
  unfold State.attGo
  repeat' first
    | with_reducible exact Or.inr rfl
    | with_reducible exact Or.inr ⟨rfl, rfl, rfl, rfl, rfl⟩
    | with_reducible exact Or.inl (by assumption)
    | with_reducible assumption
    | with_reducible apply State.wr_parts
    | split
    | dsimp only
    | with_reducible apply parts_mk

theorem State.attSample_parts {M : Part → Prop} {z : State} {s : State} (h : Parts M z s) (m_trust : M .trust) :
    Parts M z (State.attSample s) := by
  unfold State.attSample
  repeat' first
    | with_reducible exact Or.inr rfl
    | with_reducible exact Or.inr ⟨rfl, rfl, rfl, rfl, rfl⟩
    | with_reducible exact Or.inl (by assumption)
    | with_reducible assumption
    | split
    | dsimp only
    | with_reducible apply parts_mk

theorem State.attReady_parts {M : Part → Prop} {z : State} {s : State} (h : Parts M z s) (m_regs : M .regs)
    (m_trust : M .trust) :
    Parts M z (State.attReady s) := by
  unfold State.attReady
  repeat' first
    | with_reducible exact Or.inr rfl
    | with_reducible exact Or.inr ⟨rfl, rfl, rfl, rfl, rfl⟩
    | with_reducible exact Or.inl (by assumption)
    | with_reducible assumption
    | with_reducible apply State.wr_parts
    | split
    | dsimp only
    | with_reducible apply parts_mk

theorem State.readAtt_parts {M : Part → Prop} {z : State} {s : State} (h : Parts M z s) (m_regs : M .regs) :
    Parts M z (State.readAtt s).2 := by
  unfold State.readAtt
  repeat' first
    | with_reducible assumption
    | with_reducible apply State.wr_parts

theorem State.vaneReading_parts {M : Part → Prop} {z : State} {s : State} (h : Parts M z s)
    (mainMj backupMj pMain pBackup : Nat) (fault : Bool) (m_out : M .out) (m_vane : M .vane) :
    Parts M z (State.vaneReading s mainMj backupMj pMain pBackup fault) := by
  unfold State.vaneReading
  repeat' first
    | with_reducible assumption
    | with_reducible apply State.emit_parts
    | with_reducible apply State.setVane_parts

theorem State.vaneCommit_parts {M : Part → Prop} {z : State} {s : State} (h : Parts M z s) (m_vane : M .vane) : Parts M z
    (State.vaneCommit s) := by
  unfold State.vaneCommit
  repeat' first
    | with_reducible exact Or.inr rfl
    | with_reducible exact Or.inr ⟨rfl, rfl, rfl, rfl, rfl⟩
    | with_reducible exact Or.inl (by assumption)
    | with_reducible assumption
    | with_reducible apply State.setVane_parts

theorem State.tamperBreak_parts {M : Part → Prop} {z : State} {s : State} (h : Parts M z s) (m_vane : M .vane) : Parts M z
    (State.tamperBreak s) := by
  unfold State.tamperBreak
  repeat' first
    | with_reducible exact Or.inr rfl
    | with_reducible exact Or.inr ⟨rfl, rfl, rfl, rfl, rfl⟩
    | with_reducible exact Or.inl (by assumption)
    | with_reducible assumption
    | with_reducible apply State.setVane_parts
    | intro _
    | split

theorem State.vmShow_parts {M : Part → Prop} {z : State} {s : State} (h : Parts M z s) (l : List Byte) (m_regs : M .regs) :
    Parts M z (State.vmShow s l) := by
  unfold State.vmShow
  exact State.wrs_parts pgVane m_regs h _

theorem State.vmRise_parts {M : Part → Prop} {z : State} {s : State} (h : Parts M z s) (old new flag errBit : Nat)
    (m_free : M .free) (m_regs : M .regs) (m_events : M .events) (m_host : M .host) :
    Parts M z (State.vmRise s old new flag errBit) := by
  unfold State.vmRise
  repeat' first
    | with_reducible assumption
    | with_reducible apply State.err_parts
    | split

theorem State.vaneMirror_parts {M : Part → Prop} {z : State} {s : State} (h : Parts M z s) (l : List Byte)
    (m_free : M .free) (m_regs : M .regs) (m_events : M .events) (m_host : M .host) (m_trust : M .trust) :
    Parts M z (State.vaneMirror s l) := by
  unfold State.vaneMirror
  repeat' first
    | with_reducible exact Or.inr rfl
    | with_reducible exact Or.inr ⟨rfl, rfl, rfl, rfl, rfl⟩
    | with_reducible exact Or.inl (by assumption)
    | with_reducible assumption
    | with_reducible apply State.vmRise_parts
    | with_reducible apply State.vmShow_parts
    | with_reducible apply State.err_parts
    | with_reducible apply State.bump_parts
    | with_reducible apply State.wr_parts
    | split
    | dsimp only
    | with_reducible apply parts_mk

theorem State.vaneStale_parts {M : Part → Prop} {z : State} {s : State} (h : Parts M z s) (m_free : M .free)
    (m_regs : M .regs) (m_events : M .events) (m_host : M .host) :
    Parts M z (State.vaneStale s) := by
  unfold State.vaneStale
  repeat' first
    | with_reducible assumption
    | with_reducible apply State.err_parts
    | with_reducible apply State.wr_parts
    | split

theorem State.readVmSeq_parts {M : Part → Prop} {z : State} {s : State} (h : Parts M z s) (m_regs : M .regs)
    (m_trust : M .trust) :
    Parts M z (State.readVmSeq s).2 := by
  unfold State.readVmSeq
  repeat' first
    | with_reducible exact Or.inr rfl
    | with_reducible exact Or.inr ⟨rfl, rfl, rfl, rfl, rfl⟩
    | with_reducible exact Or.inl (by assumption)
    | with_reducible assumption
    | with_reducible apply State.vmShow_parts
    | split
    | dsimp only
    | with_reducible apply parts_mk

theorem State.readVmSig_parts {M : Part → Prop} {z : State} {s : State} (h : Parts M z s) (m_regs : M .regs) :
    Parts M z (State.readVmSig s).2 := by
  unfold State.readVmSig
  repeat' first
    | with_reducible assumption
    | with_reducible apply State.wr_parts

end Sys2Proof.Machine
end

