-- ==== Sys2Proof/Laws/PartsPower.lean ====
section
/-! SUPPORT. What the operations of Power.lean touch (Parts). -/

namespace Sys2Proof.Machine

open Sys2Proof

theorem State.setPower_parts {M : Part → Prop} {z : State} {s : State} (h : Parts M z s) (p : Power) (m_power : M .power) :
    Parts M z (State.setPower s p) := by
  unfold State.setPower
  repeat' first
    | with_reducible exact Or.inr rfl
    | with_reducible exact Or.inr ⟨rfl, rfl, rfl, rfl, rfl⟩
    | with_reducible exact Or.inl (by assumption)
    | with_reducible assumption
    | dsimp only
    | with_reducible apply parts_mk

theorem State.showFeed_parts {M : Part → Prop} {z : State} {s : State} (h : Parts M z s) (feed : Nat) (ok : Bool)
    (m_regs : M .regs) :
    Parts M z (State.showFeed s feed ok) := by
  unfold State.showFeed
  repeat' first
    | with_reducible assumption
    | with_reducible apply State.wrb_parts

theorem State.switchFeed_parts {M : Part → Prop} {z : State} {s : State} (h : Parts M z s) (feed : Nat) (m_free : M .free)
    (m_regs : M .regs) (m_events : M .events) (m_host : M .host) :
    Parts M z (State.switchFeed s feed) := by
  unfold State.switchFeed
  repeat' first
    | with_reducible assumption
    | with_reducible apply State.err_parts
    | with_reducible apply State.eventE_parts
    | with_reducible apply State.bump_parts
    | with_reducible apply State.wr_parts

theorem State.feedBad_parts {M : Part → Prop} {z : State} {s : State} (h : Parts M z s) (feed : Nat) (m_free : M .free)
    (m_regs : M .regs) (m_events : M .events) (m_host : M .host) :
    Parts M z (State.feedBad s feed) := by
  unfold State.feedBad
  repeat' first
    | with_reducible assumption
    | with_reducible apply State.switchFeed_parts
    | with_reducible apply State.showFeed_parts
    | with_reducible apply State.err_parts
    | with_reducible apply State.wr_parts
    | split
    | dsimp only

theorem State.feedGood_parts {M : Part → Prop} {z : State} {s : State} (h : Parts M z s) (feed : Nat) (m_free : M .free)
    (m_regs : M .regs) (m_events : M .events) (m_host : M .host) :
    Parts M z (State.feedGood s feed) := by
  unfold State.feedGood
  repeat' first
    | with_reducible assumption
    | with_reducible apply State.switchFeed_parts
    | with_reducible apply State.showFeed_parts
    | with_reducible apply State.wr_parts
    | split
    | dsimp only

theorem State.feedReturn_parts {M : Part → Prop} {z : State} {s : State} (h : Parts M z s) (m_free : M .free)
    (m_regs : M .regs) (m_events : M .events) (m_host : M .host) :
    Parts M z (State.feedReturn s) := by
  unfold State.feedReturn
  repeat' first
    | with_reducible assumption
    | with_reducible apply State.switchFeed_parts
    | split

theorem State.diesOff_parts {M : Part → Prop} {z : State} {s : State} (h : Parts M z s) (m_regs : M .regs)
    (m_mem : M .mem) (m_events : M .events) (m_host : M .host) (m_belfry : M .belfry) (m_links : M .links)
    (m_d2d : M .d2d) (m_reservations : M .reservations) (m_routes : M .routes) (m_opn : M .opn) (m_arrays : M .arrays)
    (m_fst : M .fst) (m_watch : M .watch) (m_bankA : M .bankA) (m_bankB : M .bankB) (m_sched : M .sched)
    (m_runs : M .runs) (m_frozenNow : M .frozenNow) (m_atoms : M .atoms) (m_waiting : M .waiting) (m_movers : M .movers)
    (m_roundEnd : M .roundEnd) (m_tiles : M .tiles) (m_ueStep : M .ueStep) (m_meas : M .meas) (m_scrub : M .scrub)
    (m_spots : M .spots) (m_margin : M .margin) (m_power : M .power) (m_trust : M .trust) (m_sessions : M .sessions)
    (m_opening : M .opening) (m_answers : M .answers) (m_streams : M .streams) (m_windows : M .windows) :
    Parts M z (State.diesOff s) := by
  unfold State.diesOff
  repeat' first
    | with_reducible assumption
    | with_reducible apply State.rebuild_parts

theorem State.holdupExpiry_parts {M : Part → Prop} {z : State} {s : State} (h : Parts M z s) (m_regs : M .regs)
    (m_mem : M .mem) (m_events : M .events) (m_host : M .host) (m_belfry : M .belfry) (m_links : M .links)
    (m_d2d : M .d2d) (m_reservations : M .reservations) (m_routes : M .routes) (m_opn : M .opn) (m_arrays : M .arrays)
    (m_fst : M .fst) (m_watch : M .watch) (m_bankA : M .bankA) (m_bankB : M .bankB) (m_sched : M .sched)
    (m_runs : M .runs) (m_frozenNow : M .frozenNow) (m_atoms : M .atoms) (m_waiting : M .waiting) (m_movers : M .movers)
    (m_roundEnd : M .roundEnd) (m_tiles : M .tiles) (m_ueStep : M .ueStep) (m_meas : M .meas) (m_scrub : M .scrub)
    (m_spots : M .spots) (m_margin : M .margin) (m_power : M .power) (m_vane : M .vane) (m_trust : M .trust)
    (m_sessions : M .sessions) (m_opening : M .opening) (m_answers : M .answers) (m_streams : M .streams)
    (m_windows : M .windows) :
    Parts M z (State.holdupExpiry s) := by
  unfold State.holdupExpiry
  repeat' first
    | with_reducible assumption
    | with_reducible apply State.diesOff_parts
    | with_reducible apply State.setPower_parts
    | with_reducible apply State.vaneCommit_parts
    | with_reducible apply State.wrs_parts
    | split

theorem State.enterP4_parts {M : Part → Prop} {z : State} {s : State} (h : Parts M z s) (cause sensor : Nat)
    (m_regs : M .regs) (m_mem : M .mem) (m_events : M .events) (m_host : M .host) (m_belfry : M .belfry)
    (m_links : M .links) (m_d2d : M .d2d) (m_reservations : M .reservations) (m_routes : M .routes) (m_opn : M .opn)
    (m_arrays : M .arrays) (m_fst : M .fst) (m_watch : M .watch) (m_bankA : M .bankA) (m_bankB : M .bankB)
    (m_sched : M .sched) (m_runs : M .runs) (m_frozenNow : M .frozenNow) (m_atoms : M .atoms) (m_waiting : M .waiting)
    (m_movers : M .movers) (m_roundEnd : M .roundEnd) (m_tiles : M .tiles) (m_ueStep : M .ueStep) (m_meas : M .meas)
    (m_scrub : M .scrub) (m_spots : M .spots) (m_margin : M .margin) (m_power : M .power) (m_trust : M .trust)
    (m_sessions : M .sessions) (m_opening : M .opening) (m_answers : M .answers) (m_streams : M .streams)
    (m_windows : M .windows) :
    Parts M z (State.enterP4 s cause sensor) := by
  unfold State.enterP4
  repeat' first
    | with_reducible assumption
    | with_reducible apply State.diesOff_parts
    | with_reducible apply State.setPower_parts
    | with_reducible apply State.wrs_parts

theorem State.coolantConfirm_parts {M : Part → Prop} {z : State} {s : State} (h : Parts M z s) (m_regs : M .regs)
    (m_power : M .power) :
    Parts M z (State.coolantConfirm s) := by
  unfold State.coolantConfirm
  repeat' first
    | with_reducible assumption
    | with_reducible apply State.setPower_parts
    | with_reducible apply State.wr_parts
    | split

theorem State.coolChange_parts {M : Part → Prop} {z : State} {s : State} (h : Parts M z s) (flow inlet : Nat) (m_free :
    M .free) (m_regs : M .regs) (m_events : M .events) (m_host : M .host) (m_power : M .power) :
    Parts M z (State.coolChange s flow inlet) := by
  unfold State.coolChange
  repeat' first
    | with_reducible assumption
    | with_reducible apply State.setPower_parts
    | with_reducible apply State.err_parts
    | with_reducible apply State.wrs_parts
    | with_reducible apply State.wrb_parts
    | split
    | dsimp only

theorem State.tripNow_parts {M : Part → Prop} {z : State} {s : State} (h : Parts M z s) (cause sensor : Nat)
    (m_regs : M .regs) (m_mem : M .mem) (m_events : M .events) (m_host : M .host) (m_belfry : M .belfry)
    (m_links : M .links) (m_d2d : M .d2d) (m_reservations : M .reservations) (m_routes : M .routes) (m_opn : M .opn)
    (m_arrays : M .arrays) (m_fst : M .fst) (m_watch : M .watch) (m_bankA : M .bankA) (m_bankB : M .bankB)
    (m_sched : M .sched) (m_runs : M .runs) (m_frozenNow : M .frozenNow) (m_atoms : M .atoms) (m_waiting : M .waiting)
    (m_movers : M .movers) (m_roundEnd : M .roundEnd) (m_tiles : M .tiles) (m_ueStep : M .ueStep) (m_meas : M .meas)
    (m_scrub : M .scrub) (m_spots : M .spots) (m_margin : M .margin) (m_power : M .power) (m_trust : M .trust)
    (m_sessions : M .sessions) (m_opening : M .opening) (m_answers : M .answers) (m_streams : M .streams)
    (m_windows : M .windows) :
    Parts M z (State.tripNow s cause sensor) := by
  unfold State.tripNow
  repeat' first
    | with_reducible assumption
    | with_reducible apply State.enterP4_parts
    | with_reducible apply State.setPower_parts
    | split

theorem State.coldStart_parts {M : Part → Prop} {z : State} {s : State} (h : Parts M z s) (m_free : M .free) (m_regs : M
    .regs) (m_mem : M .mem) (m_events : M .events) (m_host : M .host) (m_belfry : M .belfry) (m_links : M .links) (m_d2d
    : M .d2d) (m_reservations : M .reservations) (m_routes : M .routes) (m_opn : M .opn) (m_arrays : M .arrays) (m_fst :
    M .fst) (m_watch : M .watch) (m_bankA : M .bankA) (m_bankB : M .bankB) (m_sched : M .sched) (m_runs : M .runs)
    (m_frozenNow : M .frozenNow) (m_atoms : M .atoms) (m_waiting : M .waiting) (m_movers : M .movers) (m_roundEnd : M
    .roundEnd) (m_tiles : M .tiles) (m_ueStep : M .ueStep) (m_meas : M .meas) (m_scrub : M .scrub) (m_spots : M .spots)
    (m_margin : M .margin) (m_power : M .power) (m_trust : M .trust) (m_sessions : M .sessions) (m_opening : M .opening)
    (m_answers : M .answers) (m_streams : M .streams) (m_windows : M .windows) :
    Parts M z (State.coldStart s) := by
  unfold State.coldStart
  repeat' first
    | with_reducible assumption
    | with_reducible apply State.drawChal_parts
    | with_reducible apply State.coldReset_parts
    | split
    | dsimp only

theorem State.modReset_parts {M : Part → Prop} {z : State} {s : State} (h : Parts M z s) (src : Nat) (m_regs : M .regs)
    (m_mem : M .mem) (m_events : M .events) (m_host : M .host) (m_belfry : M .belfry) (m_links : M .links)
    (m_d2d : M .d2d) (m_reservations : M .reservations) (m_routes : M .routes) (m_opn : M .opn) (m_arrays : M .arrays)
    (m_fst : M .fst) (m_watch : M .watch) (m_bankA : M .bankA) (m_bankB : M .bankB) (m_sched : M .sched)
    (m_runs : M .runs) (m_frozenNow : M .frozenNow) (m_atoms : M .atoms) (m_waiting : M .waiting) (m_movers : M .movers)
    (m_roundEnd : M .roundEnd) (m_tiles : M .tiles) (m_ueStep : M .ueStep) (m_meas : M .meas) (m_scrub : M .scrub)
    (m_spots : M .spots) (m_margin : M .margin) (m_power : M .power) (m_trust : M .trust) (m_sessions : M .sessions)
    (m_opening : M .opening) (m_answers : M .answers) (m_streams : M .streams) (m_windows : M .windows) :
    Parts M z (State.modReset s src) := by
  unfold State.modReset
  repeat' first
    | with_reducible assumption
    | with_reducible apply State.moduleReset_parts
    | with_reducible apply State.wr_parts
    | with_reducible refine parts_foldl (fun t x ht => ?_) ?_

theorem State.resetAssert_parts {M : Part → Prop} {z : State} {s : State} (h : Parts M z s) (m_regs : M .regs)
    (m_mem : M .mem) (m_events : M .events) (m_host : M .host) (m_belfry : M .belfry) (m_links : M .links)
    (m_d2d : M .d2d) (m_reservations : M .reservations) (m_routes : M .routes) (m_opn : M .opn) (m_arrays : M .arrays)
    (m_fst : M .fst) (m_watch : M .watch) (m_bankA : M .bankA) (m_bankB : M .bankB) (m_sched : M .sched)
    (m_runs : M .runs) (m_frozenNow : M .frozenNow) (m_atoms : M .atoms) (m_waiting : M .waiting) (m_movers : M .movers)
    (m_roundEnd : M .roundEnd) (m_tiles : M .tiles) (m_ueStep : M .ueStep) (m_meas : M .meas) (m_scrub : M .scrub)
    (m_spots : M .spots) (m_margin : M .margin) (m_power : M .power) (m_trust : M .trust) (m_sessions : M .sessions)
    (m_opening : M .opening) (m_answers : M .answers) (m_streams : M .streams) (m_windows : M .windows) :
    Parts M z (State.resetAssert s) := by
  unfold State.resetAssert
  repeat' first
    | with_reducible assumption
    | with_reducible apply State.modReset_parts
    | with_reducible apply State.setPower_parts
    | split

theorem State.resetRelease_parts {M : Part → Prop} {z : State} {s : State} (h : Parts M z s) (progEnN : Bool)
    (m_power : M .power) :
    Parts M z (State.resetRelease s progEnN) := by
  unfold State.resetRelease
  repeat' first
    | with_reducible assumption
    | with_reducible apply State.setPower_parts
    | split

theorem State.reqRefused_parts {M : Part → Prop} {z : State} {s : State} (h : Parts M z s) (m_free : M .free)
    (m_regs : M .regs) (m_events : M .events) (m_host : M .host) :
    Parts M z (State.reqRefused s) := by
  unfold State.reqRefused
  repeat' first
    | with_reducible assumption
    | with_reducible apply State.err_parts

theorem State.trainStacks_parts {M : Part → Prop} {z : State} {s : State} (h : Parts M z s) (all : Bool) (m_regs : M
    .regs) :
    Parts M z (State.trainStacks s all) := by
  unfold State.trainStacks
  repeat' first
    | with_reducible assumption
    | with_reducible apply State.wr_parts
    | with_reducible refine parts_foldl (fun t x ht => ?_) ?_
    | split
    | dsimp only

theorem State.leaveP3_parts {M : Part → Prop} {z : State} {s : State} (h : Parts M z s) (m_regs : M .regs) :
    Parts M z (State.leaveP3 s) := by
  unfold State.leaveP3
  repeat' first
    | with_reducible assumption
    | with_reducible apply State.trainStacks_parts
    | with_reducible apply State.wr_parts
    | split
    | dsimp only

theorem State.modReq_parts {M : Part → Prop} {z : State} {s : State} (h : Parts M z s) (code key : Nat) (m_free : M
    .free) (m_regs : M .regs) (m_mem : M .mem) (m_events : M .events) (m_host : M .host) (m_belfry : M .belfry) (m_links
    : M .links) (m_d2d : M .d2d) (m_reservations : M .reservations) (m_routes : M .routes) (m_opn : M .opn) (m_arrays :
    M .arrays) (m_fst : M .fst) (m_watch : M .watch) (m_bankA : M .bankA) (m_bankB : M .bankB) (m_sched : M .sched)
    (m_runs : M .runs) (m_frozenNow : M .frozenNow) (m_atoms : M .atoms) (m_waiting : M .waiting) (m_movers : M .movers)
    (m_roundEnd : M .roundEnd) (m_tiles : M .tiles) (m_ueStep : M .ueStep) (m_meas : M .meas) (m_scrub : M .scrub)
    (m_spots : M .spots) (m_margin : M .margin) (m_power : M .power) (m_trust : M .trust) (m_sessions : M .sessions)
    (m_opening : M .opening) (m_answers : M .answers) (m_streams : M .streams) (m_windows : M .windows) :
    Parts M z (State.modReq s code key) := by
  unfold State.modReq
  repeat' first
    | with_reducible assumption
    | with_reducible apply State.leaveP3_parts
    | with_reducible apply State.reqRefused_parts
    | with_reducible apply State.modReset_parts
    | with_reducible apply State.enterP4_parts
    | with_reducible apply State.atomFlush_parts
    | with_reducible apply State.wr_parts
    | with_reducible refine parts_foldl (fun t x ht => ?_) ?_
    | split
    | dsimp only

theorem State.p3Entered_parts {M : Part → Prop} {z : State} {s : State} (h : Parts M z s) (m_regs : M .regs)
    (m_mem : M .mem) (m_events : M .events) (m_host : M .host) (m_belfry : M .belfry) (m_links : M .links)
    (m_d2d : M .d2d) (m_reservations : M .reservations) (m_routes : M .routes) (m_opn : M .opn) (m_arrays : M .arrays)
    (m_fst : M .fst) (m_watch : M .watch) (m_bankA : M .bankA) (m_bankB : M .bankB) (m_sched : M .sched)
    (m_runs : M .runs) (m_frozenNow : M .frozenNow) (m_atoms : M .atoms) (m_waiting : M .waiting) (m_movers : M .movers)
    (m_roundEnd : M .roundEnd) (m_tiles : M .tiles) (m_ueStep : M .ueStep) (m_meas : M .meas) (m_scrub : M .scrub)
    (m_spots : M .spots) (m_margin : M .margin) (m_power : M .power) (m_trust : M .trust) (m_sessions : M .sessions)
    (m_opening : M .opening) (m_answers : M .answers) (m_streams : M .streams) (m_windows : M .windows) :
    Parts M z (State.p3Entered s) := by
  unfold State.p3Entered
  repeat' first
    | with_reducible assumption
    | with_reducible apply State.setPower_parts
    | with_reducible apply State.rebuild_parts
    | with_reducible apply State.wr_parts
    | with_reducible refine parts_foldl (fun t x ht => ?_) ?_
    | split

theorem State.p3Exited_parts {M : Part → Prop} {z : State} {s : State} (h : Parts M z s) (m_regs : M .regs)
    (m_mem : M .mem) (m_events : M .events) (m_host : M .host) (m_belfry : M .belfry) (m_links : M .links)
    (m_d2d : M .d2d) (m_reservations : M .reservations) (m_routes : M .routes) (m_opn : M .opn) (m_arrays : M .arrays)
    (m_fst : M .fst) (m_watch : M .watch) (m_bankA : M .bankA) (m_bankB : M .bankB) (m_sched : M .sched)
    (m_runs : M .runs) (m_frozenNow : M .frozenNow) (m_atoms : M .atoms) (m_waiting : M .waiting) (m_movers : M .movers)
    (m_roundEnd : M .roundEnd) (m_tiles : M .tiles) (m_ueStep : M .ueStep) (m_meas : M .meas) (m_scrub : M .scrub)
    (m_spots : M .spots) (m_margin : M .margin) (m_power : M .power) (m_trust : M .trust) (m_sessions : M .sessions)
    (m_opening : M .opening) (m_answers : M .answers) (m_streams : M .streams) (m_windows : M .windows) :
    Parts M z (State.p3Exited s) := by
  unfold State.p3Exited
  repeat' first
    | with_reducible assumption
    | with_reducible apply State.applyBp_parts
    | with_reducible apply State.rebuild_parts
    | with_reducible apply State.default_parts
    | with_reducible apply State.keepRegs_parts
    | with_reducible apply State.wr_parts
    | with_reducible refine parts_foldl (fun t x ht => ?_) ?_
    | split

theorem State.wake_parts {M : Part → Prop} {z : State} {s : State} (h : Parts M z s) (m_free : M .free) (m_regs : M
    .regs) (m_mem : M .mem) (m_events : M .events) (m_host : M .host) (m_belfry : M .belfry) (m_links : M .links) (m_d2d
    : M .d2d) (m_reservations : M .reservations) (m_routes : M .routes) (m_opn : M .opn) (m_arrays : M .arrays) (m_fst :
    M .fst) (m_watch : M .watch) (m_bankA : M .bankA) (m_bankB : M .bankB) (m_sched : M .sched) (m_runs : M .runs)
    (m_frozenNow : M .frozenNow) (m_atoms : M .atoms) (m_waiting : M .waiting) (m_movers : M .movers) (m_roundEnd : M
    .roundEnd) (m_tiles : M .tiles) (m_ueStep : M .ueStep) (m_meas : M .meas) (m_scrub : M .scrub) (m_spots : M .spots)
    (m_margin : M .margin) (m_power : M .power) (m_trust : M .trust) (m_sessions : M .sessions) (m_opening : M .opening)
    (m_answers : M .answers) (m_streams : M .streams) (m_windows : M .windows) :
    Parts M z (State.wake s) := by
  unfold State.wake
  repeat' first
    | with_reducible assumption
    | with_reducible apply State.leaveP3_parts
    | with_reducible apply State.coldStart_parts
    | split
    | dsimp only

theorem State.shdn_parts {M : Part → Prop} {z : State} {s : State} (h : Parts M z s) (low : Bool) (m_regs : M .regs)
    (m_mem : M .mem) (m_events : M .events) (m_host : M .host) (m_belfry : M .belfry) (m_links : M .links)
    (m_d2d : M .d2d) (m_reservations : M .reservations) (m_routes : M .routes) (m_opn : M .opn) (m_arrays : M .arrays)
    (m_fst : M .fst) (m_watch : M .watch) (m_bankA : M .bankA) (m_bankB : M .bankB) (m_sched : M .sched)
    (m_runs : M .runs) (m_frozenNow : M .frozenNow) (m_atoms : M .atoms) (m_waiting : M .waiting) (m_movers : M .movers)
    (m_roundEnd : M .roundEnd) (m_tiles : M .tiles) (m_ueStep : M .ueStep) (m_meas : M .meas) (m_scrub : M .scrub)
    (m_spots : M .spots) (m_margin : M .margin) (m_power : M .power) (m_trust : M .trust) (m_sessions : M .sessions)
    (m_opening : M .opening) (m_answers : M .answers) (m_streams : M .streams) (m_windows : M .windows) :
    Parts M z (State.shdn s low) := by
  unfold State.shdn
  repeat' first
    | with_reducible assumption
    | with_reducible apply State.enterP4_parts
    | with_reducible apply State.setPower_parts
    | split

theorem State.restored_parts {M : Part → Prop} {z : State} {s : State} (h : Parts M z s) (m_free : M .free)
    (m_regs : M .regs) (m_mem : M .mem) (m_events : M .events) (m_host : M .host) (m_belfry : M .belfry)
    (m_links : M .links) (m_d2d : M .d2d) (m_reservations : M .reservations) (m_routes : M .routes) (m_opn : M .opn)
    (m_arrays : M .arrays) (m_fst : M .fst) (m_watch : M .watch) (m_bankA : M .bankA) (m_bankB : M .bankB)
    (m_sched : M .sched) (m_runs : M .runs) (m_frozenNow : M .frozenNow) (m_atoms : M .atoms) (m_waiting : M .waiting)
    (m_movers : M .movers) (m_roundEnd : M .roundEnd) (m_tiles : M .tiles) (m_ueStep : M .ueStep) (m_meas : M .meas)
    (m_scrub : M .scrub) (m_spots : M .spots) (m_margin : M .margin) (m_power : M .power) (m_trust : M .trust)
    (m_sessions : M .sessions) (m_opening : M .opening) (m_answers : M .answers) (m_streams : M .streams)
    (m_windows : M .windows) :
    Parts M z (State.restored s) := by
  unfold State.restored
  repeat' first
    | with_reducible assumption
    | with_reducible apply State.coldStart_parts
    | with_reducible apply State.setPower_parts
    | split

theorem State.calSave_parts {M : Part → Prop} {z : State} {s : State} (h : Parts M z s) (m_regs : M .regs)
    (m_mem : M .mem) (m_arrays : M .arrays) :
    Parts M z (State.calSave s) := by
  unfold State.calSave
  repeat' first
    | with_reducible assumption
    | with_reducible apply State.zeroRange_parts
    | with_reducible apply State.wrs_parts
    | split

theorem State.calSaved_parts {M : Part → Prop} {z : State} {s : State} (h : Parts M z s) (m_regs : M .regs)
    (m_mem : M .mem) :
    Parts M z (State.calSaved s) := by
  unfold State.calSaved
  repeat' first
    | with_reducible assumption
    | with_reducible apply State.poke_parts
    | with_reducible apply State.wrs_parts
    | split

theorem State.bpSave_parts {M : Part → Prop} {z : State} {s : State} (h : Parts M z s) (m_regs : M .regs) (m_mem : M .mem) :
    Parts M z (State.bpSave s) := by
  unfold State.bpSave
  repeat' first
    | with_reducible assumption
    | with_reducible apply State.poke_parts
    | with_reducible apply State.wr_parts
    | split

theorem State.bpSaved_parts {M : Part → Prop} {z : State} {s : State} (h : Parts M z s) (m_regs : M .regs)
    (m_mem : M .mem) :
    Parts M z (State.bpSaved s) := by
  unfold State.bpSaved
  repeat' first
    | with_reducible assumption
    | with_reducible apply State.poke_parts
    | with_reducible apply State.wr_parts
    | split

theorem State.nextPhase_parts {M : Part → Prop} {z : State} {s : State} (h : Parts M z s) (ms : Nat) (m_regs : M .regs) :
    Parts M z (State.nextPhase s ms) := by
  unfold State.nextPhase
  repeat' first
    | with_reducible assumption
    | with_reducible apply State.wr_parts
    | with_reducible apply State.wri_parts

theorem State.bootHbm_parts {M : Part → Prop} {z : State} {s : State} (h : Parts M z s) (failed : List Nat)
    (m_free : M .free) (m_regs : M .regs) (m_events : M .events) (m_host : M .host) :
    Parts M z (State.bootHbm s failed) := by
  unfold State.bootHbm
  repeat' first
    | with_reducible assumption
    | with_reducible apply State.err_parts
    | with_reducible apply State.wr_parts
    | with_reducible refine parts_foldl (fun t x ht => ?_) ?_
    | split

theorem State.bootLinks_parts {M : Part → Prop} {z : State} {s : State} (h : Parts M z s) (failed : List Nat) (host :
    Bool) (m_out : M .out) (m_free : M .free) (m_regs : M .regs) (m_events : M .events) (m_host : M .host) (m_links : M
    .links) (m_opn : M .opn) (m_watch : M .watch) (m_sched : M .sched) (m_streams : M .streams) : Parts M z
    (State.bootLinks s failed host) := by
  unfold State.bootLinks
  repeat' first
    | with_reducible assumption
    | with_reducible apply State.hostLinkUp_parts
    | with_reducible apply State.trainFail_parts
    | with_reducible refine parts_foldl (fun t x ht => ?_) ?_
    | split

theorem State.bootJoin_parts {M : Part → Prop} {z : State} {s : State} (h : Parts M z s) (m_out : M .out) (m_free : M
    .free) (m_regs : M .regs) (m_events : M .events) (m_host : M .host) (m_links : M .links) (m_reservations : M
    .reservations) (m_opn : M .opn) (m_watch : M .watch) (m_power : M .power) (m_answers : M .answers) : Parts M z
    (State.bootJoin s) := by
  unfold State.bootJoin
  repeat' first
    | with_reducible assumption
    | with_reducible apply State.join_parts
    | with_reducible apply State.put_parts
    | split
    | dsimp only

theorem State.selfTest_parts {M : Part → Prop} {z : State} {s : State} (h : Parts M z s) (device : Nat) (m_free : M
    .free) (m_regs : M .regs) (m_events : M .events) (m_host : M .host) :
    Parts M z (State.selfTest s device) := by
  unfold State.selfTest
  repeat' first
    | with_reducible assumption
    | with_reducible apply State.err_parts
    | with_reducible apply State.wrs_parts
    | split
    | dsimp only

theorem State.bootComplete_parts {M : Part → Prop} {z : State} {s : State} (h : Parts M z s) (r : BootResult) (m_out : M
    .out) (m_free : M .free) (m_regs : M .regs) (m_events : M .events) (m_host : M .host) (m_belfry : M .belfry)
    (m_links : M .links) (m_reservations : M .reservations) (m_opn : M .opn) (m_watch : M .watch) (m_sched : M .sched)
    (m_keys : M .keys) (m_meas : M .meas) (m_power : M .power) (m_trust : M .trust) (m_answers : M .answers) (m_streams
    : M .streams) : Parts M z (State.bootComplete s r) := by
  unfold State.bootComplete
  repeat' first
    | with_reducible assumption
    | with_reducible apply State.selfTest_parts
    | with_reducible apply State.bootJoin_parts
    | with_reducible apply State.bootLinks_parts
    | with_reducible apply State.bootHbm_parts
    | with_reducible apply State.nextPhase_parts
    | with_reducible apply State.trainStacks_parts
    | with_reducible apply State.finialPhase_parts
    | with_reducible apply State.applyBp_parts
    | with_reducible apply State.loadCal_parts
    | with_reducible apply State.wrs_parts
    | split
    | dsimp only

theorem State.bootTimeout_parts {M : Part → Prop} {z : State} {s : State} (h : Parts M z s) (code : Nat)
    (m_regs : M .regs) :
    Parts M z (State.bootTimeout s code) := by
  unfold State.bootTimeout
  repeat' first
    | with_reducible assumption
    | with_reducible apply State.wrs_parts
    | with_reducible apply State.wr_parts
    | split

end Sys2Proof.Machine
end

