-- ==== Sys2Proof/Laws/PartsRegAccess.lean ====
section
/-! SUPPORT. What the operations of RegAccess.lean touch (Parts). -/

namespace Sys2Proof.Machine

open Sys2Proof

theorem State.setWindow_parts {M : Part → Prop} {z : State} {s : State} (h : Parts M z s) (w : Nat) (x : CmdWin)
    (m_windows : M .windows) : Parts M z (State.setWindow s w x) := by
  unfold State.setWindow
  repeat' first
    | with_reducible exact Or.inr rfl
    | with_reducible exact Or.inr ⟨rfl, rfl, rfl, rfl, rfl⟩
    | with_reducible exact Or.inl (by assumption)
    | with_reducible assumption
    | with_reducible apply State.put_parts
    | dsimp only
    | with_reducible apply parts_mk

theorem State.closeWindow_parts {M : Part → Prop} {z : State} {s : State} (h : Parts M z s) (w : Nat) (m_windows : M
    .windows) :
    Parts M z (State.closeWindow s w) := by
  unfold State.closeWindow
  repeat' first
    | with_reducible exact Or.inr rfl
    | with_reducible exact Or.inr ⟨rfl, rfl, rfl, rfl, rfl⟩
    | with_reducible exact Or.inl (by assumption)
    | with_reducible assumption
    | split
    | dsimp only
    | with_reducible apply parts_mk

theorem State.cwStop_parts {M : Part → Prop} {z : State} {s : State} (h : Parts M z s) (w : Nat) (m_windows : M
    .windows) :
    Parts M z (State.cwStop s w) := by
  unfold State.cwStop
  repeat' first
    | with_reducible assumption
    | with_reducible apply State.closeWindow_parts
    | with_reducible apply State.setWindow_parts
    | split
    | dsimp only

theorem State.swWord_parts {M : Part → Prop} {z : State} {s : State} (h : Parts M z s) (p : PageId) (off v : Nat)
    (m_regs : M .regs) :
    Parts M z (State.swWord s p off v) := by
  unfold State.swWord
  repeat' first
    | with_reducible assumption
    | with_reducible apply State.swField_parts
    | with_reducible refine parts_foldl (fun t x ht => ?_) ?_

theorem State.windowWrite_parts {M : Part → Prop} {z : State} {s : State} (h : Parts M z s) (w off v : Nat) (m_free : M
    .free) (m_regs : M .regs) (m_events : M .events) (m_host : M .host) (m_windows : M .windows) :
    Parts M z (State.windowWrite s w off v) := by
  unfold State.windowWrite
  repeat' first
    | with_reducible assumption
    | with_reducible apply State.cwStop_parts
    | with_reducible apply State.swWord_parts
    | with_reducible apply State.err_parts
    | with_reducible apply State.put_parts
    | split
    | dsimp only

theorem State.enableWrite_parts {M : Part → Prop} {z : State} {s : State} (h : Parts M z s) (off v : Nat) (m_regs : M
    .regs) (m_windows : M .windows) :
    Parts M z (State.enableWrite s off v) := by
  unfold State.enableWrite
  repeat' first
    | with_reducible assumption
    | with_reducible apply State.cwStop_parts
    | with_reducible apply State.swWord_parts
    | with_reducible refine parts_foldl (fun t x ht => ?_) ?_
    | split
    | dsimp only

theorem State.swFields_parts {M : Part → Prop} {z : State} {s : State} (h : Parts M z s) (p : PageId) (v : Nat) (l : List
    Reg) (m_regs : M .regs) :
    Parts M z (State.swFields s p v l) := by
  unfold State.swFields
  repeat' first
    | with_reducible assumption
    | with_reducible apply State.swField_parts
    | with_reducible refine parts_foldl (fun t x ht => ?_) ?_

theorem State.clearBoth_parts {M : Part → Prop} {z : State} {s : State} (h : Parts M z s) (p : PageId) (r : Reg) (i : Nat)
    (m_regs : M .regs) :
    Parts M z (State.clearBoth s p r i) := by
  unfold State.clearBoth
  repeat' first
    | with_reducible exact Or.inr rfl
    | with_reducible exact Or.inr ⟨rfl, rfl, rfl, rfl, rfl⟩
    | with_reducible exact Or.inl (by assumption)
    | with_reducible assumption
    | with_reducible apply State.put_parts
    | split
    | dsimp only
    | with_reducible apply parts_mk

theorem State.clearRecords_parts {M : Part → Prop} {z : State} {s : State} (h : Parts M z s) (p : PageId) (off v : Nat)
    (m_regs : M .regs) :
    Parts M z (State.clearRecords s p off v) := by
  unfold State.clearRecords
  repeat' first
    | with_reducible assumption
    | with_reducible apply State.clearBoth_parts
    | with_reducible refine parts_foldl (fun t x ht => ?_) ?_
    | with_reducible refine parts_foldl_1 (fun t x ht => ?_) ?_
    | with_reducible refine parts_foldl_2 (fun t x ht => ?_) ?_
    | with_reducible refine parts_foldl_3 (fun t x ht => ?_) ?_
    | split
    | dsimp only

theorem State.errW1c_parts {M : Part → Prop} {z : State} {s : State} (h : Parts M z s) (p : PageId) (v : Nat)
    (m_regs : M .regs) :
    Parts M z (State.errW1c s p v) := by
  unfold State.errW1c
  repeat' first
    | with_reducible exact Or.inr rfl
    | with_reducible exact Or.inr ⟨rfl, rfl, rfl, rfl, rfl⟩
    | with_reducible exact Or.inl (by assumption)
    | with_reducible assumption
    | with_reducible apply State.w1c_parts
    | with_reducible apply State.put_parts
    | with_reducible refine parts_foldl (fun t x ht => ?_) ?_
    | split
    | dsimp only
    | with_reducible apply parts_mk

theorem State.setFreeze_parts {M : Part → Prop} {z : State} {s : State} (h : Parts M z s) (p : PageId) (on : Bool)
    (m_regs : M .regs) :
    Parts M z (State.setFreeze s p on) := by
  unfold State.setFreeze
  repeat' first
    | with_reducible assumption
    | with_reducible apply State.unfreeze_parts
    | with_reducible apply State.put_parts
    | split
    | dsimp only

theorem State.hdrWrite_parts {M : Part → Prop} {z : State} {s : State} (h : Parts M z s) (p : PageId) (off v : Nat)
    (m_regs : M .regs) (m_power : M .power) :
    Parts M z (State.hdrWrite s p off v) := by
  unfold State.hdrWrite
  repeat' first
    | with_reducible assumption
    | with_reducible apply State.setFreeze_parts
    | with_reducible apply State.errW1c_parts
    | with_reducible apply State.swWord_parts
    | with_reducible apply State.wakePage_parts
    | with_reducible apply State.setLock_parts
    | with_reducible apply State.swField_parts
    | with_reducible apply State.w1c_parts
    | with_reducible apply State.armReset_parts
    | with_reducible apply State.put_parts
    | split
    | dsimp only

theorem State.checked_parts {M : Part → Prop} {z : State} {s : State} (h : Parts M z s) (p : PageId) (off v : Nat) (ok :
    Bool) (errBit : Nat) (m_free : M .free) (m_regs : M .regs) (m_events : M .events) (m_host : M .host) :
    Parts M z (State.checked s p off v ok errBit) := by
  unfold State.checked
  repeat' first
    | with_reducible assumption
    | with_reducible apply State.swWord_parts
    | with_reducible apply State.err_parts
    | split

theorem State.arithWrite_parts {M : Part → Prop} {z : State} {s : State} (h : Parts M z s) (p : PageId) (off v : Nat)
    (m_free : M .free) (m_regs : M .regs) (m_events : M .events) (m_host : M .host) :
    Parts M z (State.arithWrite s p off v) := by
  unfold State.arithWrite
  extract_lets ce badR badN s1 s2 s3 s4
  have h1 : Parts M z s1 := by with_reducible exact State.swField_parts h _ _ _ _ (m_regs := m_regs)
  have h2 : Parts M z s2 := by
    unfold s2
    split
    · exact h1
    · with_reducible exact State.swField_parts h1 _ _ _ _ (m_regs := m_regs)
  have h3 : Parts M z s3 := by
    unfold s3
    split
    · exact h2
    · with_reducible exact State.swField_parts h2 _ _ _ _ (m_regs := m_regs)
  have h4 : Parts M z s4 := by
    unfold s4
    split
    · with_reducible exact State.clipClr_parts h3 _ (m_regs := m_regs)
    · exact h3
  split
  · split
    · with_reducible exact State.err_parts h4 _ _ (m_free := m_free) (m_regs := m_regs) (m_events := m_events)
                         (m_host := m_host)
    · exact h4
  · split
    · exact h
    · with_reducible exact State.swWord_parts h _ _ _ (m_regs := m_regs)
  · split
    · exact h
    · with_reducible exact State.swWord_parts h _ _ _ (m_regs := m_regs)
  · split
    · exact h
    · with_reducible exact State.swWord_parts h _ _ _ (m_regs := m_regs)
  · with_reducible exact State.clearRecords_parts (State.swWord_parts h _ _ _ (m_regs := m_regs)) _ _ _ (m_regs := m_regs)

theorem State.lanternWrite_parts {M : Part → Prop} {z : State} {s : State} (h : Parts M z s) (off v : Nat)
    (m_free : M .free) (m_regs : M .regs) (m_mem : M .mem) (m_events : M .events) (m_host : M .host)
    (m_arrays : M .arrays) (m_fuses : M .fuses) (m_trust : M .trust) :
    Parts M z (State.lanternWrite s off v) := by
  unfold State.lanternWrite
  repeat' first
    | with_reducible assumption
    | with_reducible apply State.swWord_parts
    | with_reducible apply State.bpSave_parts
    | with_reducible apply State.calSave_parts
    | with_reducible apply State.fwCommit_parts
    | with_reducible apply State.updGo_parts
    | with_reducible apply State.bpLoad_parts
    | split
    | dsimp only

theorem State.belfryWrite_parts {M : Part → Prop} {z : State} {s : State} (h : Parts M z s) (off v : Nat) (m_out : M
    .out) (m_free : M .free) (m_regs : M .regs) (m_events : M .events) (m_host : M .host) (m_belfry : M .belfry)
    (m_links : M .links) : Parts M z (State.belfryWrite s off v) := by
  unfold State.belfryWrite
  repeat' first
    | with_reducible assumption
    | with_reducible apply State.checked_parts
    | with_reducible apply State.clearRecords_parts
    | with_reducible apply State.swWord_parts
    | with_reducible apply State.writeThrCtl_parts
    | with_reducible apply State.issueSkip_parts
    | with_reducible apply State.armPeriod_parts
    | split
    | dsimp only

theorem State.turretWrite_parts {M : Part → Prop} {z : State} {s : State} (h : Parts M z s) (p : PageId) (off v : Nat)
    (m_out : M .out) (m_free : M .free) (m_regs : M .regs) (m_events : M .events) (m_host : M .host) (m_links : M
    .links) (m_opn : M .opn) : Parts M z (State.turretWrite s p off v) := by
  unfold State.turretWrite
  repeat' first
    | with_reducible assumption
    | with_reducible apply State.swWord_parts
    | with_reducible apply State.writeLinkEn_parts
    | with_reducible apply State.downLink_parts
    | with_reducible apply State.tryStart_parts
    | with_reducible apply State.put_parts
    | split
    | dsimp only

theorem State.evtEn_parts {M : Part → Prop} {z : State} {s : State} (h : Parts M z s) (v : Nat) (m_free : M .free)
    (m_regs : M .regs) (m_events : M .events) (m_host : M .host) :
    Parts M z (State.evtEn s v) := by
  unfold State.evtEn
  repeat' first
    | with_reducible assumption
    | with_reducible apply State.swWord_parts
    | with_reducible apply State.resendEvents_parts
    | split
    | dsimp only

theorem State.hostWrite_parts {M : Part → Prop} {z : State} {s : State} (h : Parts M z s) (off v : Nat) (m_free : M
    .free) (m_regs : M .regs) (m_events : M .events) (m_host : M .host) (m_windows : M .windows) :
    Parts M z (State.hostWrite s off v) := by
  unfold State.hostWrite
  repeat' first
    | with_reducible assumption
    | with_reducible apply State.enableWrite_parts
    | with_reducible apply State.windowWrite_parts
    | with_reducible apply State.evtEn_parts
    | with_reducible apply State.swWord_parts
    | split
    | dsimp only

theorem State.moverWrite_parts {M : Part → Prop} {z : State} {s : State} (h : Parts M z s) (k off v : Nat) (m_out : M
    .out) (m_free : M .free) (m_regs : M .regs) (m_events : M .events) (m_host : M .host) (m_links : M .links)
    (m_reservations : M .reservations) (m_opn : M .opn) (m_movers : M .movers) (m_power : M .power) (m_answers : M
    .answers) : Parts M z (State.moverWrite s k off v) := by
  unfold State.moverWrite
  repeat' first
    | with_reducible assumption
    | with_reducible apply State.swWord_parts
    | with_reducible apply State.mvAbort_parts
    | with_reducible apply State.mvResume_parts
    | with_reducible apply State.mvGo_parts
    | with_reducible apply State.wr_parts
    | split
    | dsimp only

theorem State.planWord_parts {M : Part → Prop} {z : State} {s : State} (h : Parts M z s) (off v : Nat) (m_out : M .out)
    (m_free : M .free) (m_regs : M .regs) (m_events : M .events) (m_host : M .host) (m_links : M .links) (m_reservations
    : M .reservations) (m_opn : M .opn) (m_fst : M .fst) (m_watch : M .watch) (m_bankA : M .bankA) (m_bankB : M .bankB)
    (m_sched : M .sched) (m_tiles : M .tiles) (m_meas : M .meas) (m_power : M .power) (m_answers : M .answers) : Parts M
    z (State.planWord s off v) := by
  unfold State.planWord
  repeat' first
    | with_reducible assumption
    | with_reducible apply State.clearRecords_parts
    | with_reducible apply State.swWord_parts
    | with_reducible apply State.commitEntry_parts
    | with_reducible apply State.disarm_parts
    | with_reducible apply State.armSwitch_parts
    | with_reducible apply State.planLoad_parts
    | with_reducible apply State.fstRead_parts
    | split

theorem State.hostQueueWord_parts {M : Part → Prop} {z : State} {s : State} (h : Parts M z s) (off v : Nat)
    (m_out : M .out) (m_regs : M .regs) (m_host : M .host) :
    Parts M z (State.hostQueueWord s off v) := by
  unfold State.hostQueueWord
  repeat' first
    | with_reducible assumption
    | with_reducible apply State.swWord_parts
    | with_reducible apply State.pfcCheck_parts
    | with_reducible apply State.settleBuckets_parts
    | with_reducible refine parts_foldl (fun t x ht => ?_) ?_
    | split

theorem State.keepWrite_parts {M : Part → Prop} {z : State} {s : State} (h : Parts M z s) (k off v : Nat) (m_out : M
    .out) (m_free : M .free) (m_regs : M .regs) (m_events : M .events) (m_host : M .host) (m_belfry : M .belfry)
    (m_links : M .links) (m_reservations : M .reservations) (m_routes : M .routes) (m_opn : M .opn) (m_fst : M .fst)
    (m_watch : M .watch) (m_bankA : M .bankA) (m_bankB : M .bankB) (m_sched : M .sched) (m_movers : M .movers) (m_tiles
    : M .tiles) (m_meas : M .meas) (m_power : M .power) (m_answers : M .answers) : Parts M z (State.keepWrite s k off v) := by
  unfold State.keepWrite
  repeat' first
    | with_reducible assumption
    | with_reducible apply State.hostQueueWord_parts
    | with_reducible apply State.planWord_parts
    | with_reducible apply State.moverWrite_parts
    | with_reducible apply State.swWord_parts
    | with_reducible apply State.flipAtWrite_parts
    | with_reducible apply State.writeFilled_parts
    | with_reducible apply State.ovfWrite_parts
    | with_reducible apply State.tblWrite_parts
    | split
    | dsimp only

theorem State.tileWord_parts {M : Part → Prop} {z : State} {s : State} (h : Parts M z s) (g off v : Nat) (lantern : Bool)
    (m_free : M .free) (m_regs : M .regs) (m_mem : M .mem) (m_events : M .events) (m_host : M .host) (m_tiles : M .tiles)
    :
    Parts M z (State.tileWord s g off v lantern) := by
  unfold State.tileWord
  repeat' first
    | with_reducible assumption
    | with_reducible apply State.arithWrite_parts
    | with_reducible apply State.clearRecords_parts
    | with_reducible apply State.swWord_parts
    | with_reducible apply State.imemWrite_parts
    | split

theorem State.ueWrite_parts {M : Part → Prop} {z : State} {s : State} (h : Parts M z s) (c off v unit : Nat)
    (m_free : M .free) (m_regs : M .regs) (m_events : M .events) (m_host : M .host) :
    Parts M z (State.ueWrite s c off v unit) := by
  unfold State.ueWrite
  repeat' first
    | with_reducible assumption
    | with_reducible apply State.arithWrite_parts
    | with_reducible apply State.clearRecords_parts
    | with_reducible apply State.swWord_parts
    | with_reducible apply State.chkGo_parts
    | with_reducible apply State.swField_parts
    | split

theorem State.watchWord_parts {M : Part → Prop} {z : State} {s : State} (h : Parts M z s) (off v : Nat) (m_out : M .out)
    (m_free : M .free) (m_regs : M .regs) (m_events : M .events) (m_host : M .host) (m_belfry : M .belfry) (m_links : M
    .links) (m_reservations : M .reservations) (m_opn : M .opn) (m_watch : M .watch) (m_movers : M .movers) (m_tiles : M
    .tiles) (m_power : M .power) (m_answers : M .answers) : Parts M z (State.watchWord s off v) := by
  unfold State.watchWord
  repeat' first
    | with_reducible assumption
    | with_reducible apply State.clearRecords_parts
    | with_reducible apply State.swFields_parts
    | with_reducible apply State.swWord_parts
    | with_reducible apply State.writeCmd_parts
    | with_reducible apply State.join_parts
    | with_reducible apply State.writePartner_parts
    | with_reducible apply State.rbGo_parts
    | with_reducible apply State.err_parts
    | split
    | dsimp only

theorem State.integrityWord_parts {M : Part → Prop} {z : State} {s : State} (h : Parts M z s) (off v : Nat)
    (m_free : M .free) (m_regs : M .regs) (m_events : M .events) (m_host : M .host) (m_scrub : M .scrub) :
    Parts M z (State.integrityWord s off v) := by
  unfold State.integrityWord
  repeat' first
    | with_reducible assumption
    | with_reducible apply State.clearRecords_parts
    | with_reducible apply State.swWord_parts
    | with_reducible apply State.scrubStop_parts
    | with_reducible apply State.scrubGo_parts
    | with_reducible apply State.writeTrip_parts
    | split
    | dsimp only

theorem State.finialWord_parts {M : Part → Prop} {z : State} {s : State} (h : Parts M z s) (off v : Nat)
    (m_free : M .free) (m_regs : M .regs) (m_mem : M .mem) (m_events : M .events) (m_host : M .host) (m_keys : M .keys)
    (m_fuses : M .fuses) (m_trust : M .trust) :
    Parts M z (State.finialWord s off v) := by
  unfold State.finialWord
  repeat' first
    | with_reducible assumption
    | with_reducible apply State.swWord_parts
    | with_reducible apply State.attGo_parts
    | with_reducible apply State.dbgReq_parts
    | with_reducible apply State.testReq_parts
    | with_reducible apply State.fkeyRevoke_parts
    | with_reducible apply State.keySave_parts
    | with_reducible apply State.revoke_parts
    | with_reducible apply State.enroll_parts
    | split

theorem State.blockWrite_parts {M : Part → Prop} {z : State} {s : State} (h : Parts M z s) (p : PageId) (off v unit : Nat)
    (m_out : M .out) (m_free : M .free) (m_regs : M .regs) (m_mem : M .mem) (m_events : M .events) (m_host : M .host)
    (m_belfry : M .belfry) (m_links : M .links) (m_d2d : M .d2d) (m_reservations : M .reservations) (m_routes : M .routes)
    (m_opn : M .opn) (m_arrays : M .arrays) (m_fst : M .fst) (m_watch : M .watch) (m_bankA : M .bankA)
    (m_bankB : M .bankB) (m_sched : M .sched) (m_runs : M .runs) (m_frozenNow : M .frozenNow) (m_atoms : M .atoms)
    (m_waiting : M .waiting) (m_movers : M .movers) (m_roundEnd : M .roundEnd) (m_tiles : M .tiles) (m_ueStep : M .ueStep)
    (m_keys : M .keys) (m_meas : M .meas) (m_scrub : M .scrub) (m_spots : M .spots) (m_margin : M .margin)
    (m_power : M .power) (m_fuses : M .fuses) (m_trust : M .trust) (m_sessions : M .sessions) (m_opening : M .opening)
    (m_answers : M .answers) (m_streams : M .streams) (m_windows : M .windows) :
    Parts M z (State.blockWrite s p off v unit) := by
  unfold State.blockWrite
  repeat' first
    | with_reducible assumption
    | with_reducible apply State.finialWord_parts
    | with_reducible apply State.integrityWord_parts
    | with_reducible apply State.watchWord_parts
    | with_reducible apply State.ueWrite_parts
    | with_reducible apply State.tileWord_parts
    | with_reducible apply State.keepWrite_parts
    | with_reducible apply State.hostWrite_parts
    | with_reducible apply State.turretWrite_parts
    | with_reducible apply State.belfryWrite_parts
    | with_reducible apply State.lanternWrite_parts
    | with_reducible apply State.arithWrite_parts
    | with_reducible apply State.clearRecords_parts
    | with_reducible apply State.swWord_parts
    | with_reducible apply State.modReq_parts
    | with_reducible apply State.sysGib_parts
    | with_reducible apply State.atomWin_parts
    | with_reducible apply State.atomFlush_parts
    | split

theorem State.regRead_parts {M : Part → Prop} {z : State} {s : State} (h : Parts M z s) (p : PageId) (off : Nat)
    (m_regs : M .regs) (m_trust : M .trust) :
    Parts M z (State.regRead s p off).2 := by
  unfold State.regRead
  repeat' first
    | with_reducible assumption
    | with_reducible apply State.readVmSig_parts
    | with_reducible apply State.readVmSeq_parts
    | with_reducible apply State.readAtt_parts
    | with_reducible apply State.readDecl_parts
    | with_reducible apply State.readFlight_parts
    | with_reducible apply State.readUeStep_parts
    | with_reducible apply State.readStepLo_parts
    | with_reducible apply State.readNowLo_parts
    | split

theorem State.regWrite_parts {M : Part → Prop} {z : State} {s : State} (h : Parts M z s) (p : PageId) (off v unit : Nat)
    (m_out : M .out) (m_free : M .free) (m_regs : M .regs) (m_mem : M .mem) (m_events : M .events) (m_host : M .host)
    (m_belfry : M .belfry) (m_links : M .links) (m_d2d : M .d2d) (m_reservations : M .reservations) (m_routes : M .routes)
    (m_opn : M .opn) (m_arrays : M .arrays) (m_fst : M .fst) (m_watch : M .watch) (m_bankA : M .bankA)
    (m_bankB : M .bankB) (m_sched : M .sched) (m_runs : M .runs) (m_frozenNow : M .frozenNow) (m_atoms : M .atoms)
    (m_waiting : M .waiting) (m_movers : M .movers) (m_roundEnd : M .roundEnd) (m_tiles : M .tiles) (m_ueStep : M .ueStep)
    (m_keys : M .keys) (m_meas : M .meas) (m_scrub : M .scrub) (m_spots : M .spots) (m_margin : M .margin)
    (m_power : M .power) (m_fuses : M .fuses) (m_trust : M .trust) (m_sessions : M .sessions) (m_opening : M .opening)
    (m_answers : M .answers) (m_streams : M .streams) (m_windows : M .windows) :
    Parts M z (State.regWrite s p off v unit) := by
  unfold State.regWrite
  repeat' first
    | with_reducible assumption
    | with_reducible apply State.blockWrite_parts
    | with_reducible apply State.hdrWrite_parts
    | split

theorem State.regOff_parts {M : Part → Prop} {z : State} {s : State} (h : Parts M z s) (m_free : M .free)
    (m_regs : M .regs) (m_events : M .events) (m_host : M .host) :
    Parts M z (State.regOff s) := by
  unfold State.regOff
  repeat' first
    | with_reducible assumption
    | with_reducible apply State.err_parts
    | with_reducible apply State.bump_parts

theorem State.regFault_parts {M : Part → Prop} {z : State} {s : State} (h : Parts M z s) (off : Nat) (m_free : M .free)
    (m_regs : M .regs) (m_events : M .events) (m_host : M .host) :
    Parts M z (State.regFault s off) := by
  unfold State.regFault
  repeat' first
    | with_reducible assumption
    | with_reducible apply State.err_parts
    | with_reducible apply State.bump_parts
    | with_reducible apply State.wr_parts

theorem State.regAccess_parts {M : Part → Prop} {z : State} {s : State} (h : Parts M z s) (off : Nat) (w : Option Nat)
    (unit : Nat) (m_out : M .out) (m_free : M .free) (m_regs : M .regs) (m_mem : M .mem) (m_events : M .events) (m_host
    : M .host) (m_belfry : M .belfry) (m_links : M .links) (m_d2d : M .d2d) (m_reservations : M .reservations) (m_routes
    : M .routes) (m_opn : M .opn) (m_arrays : M .arrays) (m_fst : M .fst) (m_watch : M .watch) (m_bankA : M .bankA)
    (m_bankB : M .bankB) (m_sched : M .sched) (m_runs : M .runs) (m_frozenNow : M .frozenNow) (m_atoms : M .atoms)
    (m_waiting : M .waiting) (m_movers : M .movers) (m_roundEnd : M .roundEnd) (m_tiles : M .tiles) (m_ueStep : M
    .ueStep) (m_keys : M .keys) (m_meas : M .meas) (m_scrub : M .scrub) (m_spots : M .spots) (m_margin : M .margin)
    (m_power : M .power) (m_fuses : M .fuses) (m_trust : M .trust) (m_sessions : M .sessions) (m_opening : M .opening)
    (m_answers : M .answers) (m_streams : M .streams) (m_windows : M .windows) :
    Parts M z (State.regAccess s off w unit).2.2 := by
  unfold State.regAccess
  repeat' first
    | with_reducible assumption
    | with_reducible apply State.regFault_parts
    | with_reducible apply State.regOff_parts
    | with_reducible apply State.regWrite_parts
    | with_reducible apply State.regRead_parts
    | with_reducible apply State.imemHold_parts
    | split
    | dsimp only

end Sys2Proof.Machine
end

