-- ==== Sys2Proof/Laws/PartsMemService.lean ====
section
/-! SUPPORT. What the operations of MemService.lean touch (Parts). -/

namespace Sys2Proof.Machine

open Sys2Proof

theorem State.holdRequest_parts {M : Part → Prop} {z : State} {s : State} (h : Parts M z s) (t : Target) (f : Flit)
    (m_regs : M .regs) (m_waiting : M .waiting) (m_power : M .power) :
    Parts M z (State.holdRequest s t f) := by
  unfold State.holdRequest
  repeat' first
    | with_reducible exact Or.inr rfl
    | with_reducible exact Or.inr ⟨rfl, rfl, rfl, rfl, rfl⟩
    | with_reducible exact Or.inl (by assumption)
    | with_reducible assumption
    | with_reducible apply State.wakeDom_parts
    | with_reducible apply State.bump_parts
    | with_reducible refine parts_foldl (fun t x ht => ?_) ?_
    | split
    | dsimp only
    | with_reducible apply parts_mk

theorem State.openTouch_parts {M : Part → Prop} {z : State} {s : State} (h : Parts M z s) (sp line : Nat)
    (m_free : M .free) (m_regs : M .regs) (m_mem : M .mem) (m_events : M .events) (m_host : M .host)
    (m_arrays : M .arrays) (m_watch : M .watch) (m_atoms : M .atoms) :
    Parts M z (State.openTouch s sp line) := by
  unfold State.openTouch
  repeat' first
    | with_reducible assumption
    | with_reducible apply State.atomLost_parts
    | with_reducible apply State.touchLine_parts
    | split

theorem State.openRead_parts {M : Part → Prop} {z : State} {s : State} (h : Parts M z s) (sp off n : Nat)
    (m_free : M .free) (m_regs : M .regs) (m_mem : M .mem) (m_events : M .events) (m_host : M .host)
    (m_arrays : M .arrays) (m_watch : M .watch) (m_atoms : M .atoms) :
    Parts M z (State.openRead s sp off n).st := by
  unfold State.openRead
  repeat' first
    | with_reducible assumption
    | with_reducible apply State.openTouch_parts
    | with_reducible refine parts_foldl (fun t x ht => ?_) ?_

theorem State.sparseRead_parts {M : Part → Prop} {z : State} {s : State} (h : Parts M z s) (g : Seg) (o n : Nat)
    (m_free : M .free) (m_regs : M .regs) (m_mem : M .mem) (m_events : M .events) (m_host : M .host)
    (m_arrays : M .arrays) (m_watch : M .watch) :
    Parts M z (State.sparseRead s g o n).st := by
  unfold State.sparseRead
  repeat' first
    | with_reducible assumption
    | with_reducible apply State.cdcRead_parts
    | with_reducible apply State.cdcBound_parts
    | with_reducible apply State.touch_parts
    | with_reducible apply State.err_parts
    | with_reducible refine parts_foldl (fun t x ht => ?_) ?_
    | split
    | dsimp only

theorem State.openWrite_parts {M : Part → Prop} {z : State} {s : State} (h : Parts M z s) (sp off : Nat) (l : List Byte)
    (m_free : M .free) (m_regs : M .regs) (m_mem : M .mem) (m_events : M .events) (m_host : M .host)
    (m_arrays : M .arrays) (m_watch : M .watch) (m_atoms : M .atoms) :
    Parts M z (State.openWrite s sp off l).st := by
  unfold State.openWrite
  repeat' first
    | with_reducible assumption
    | with_reducible apply State.atomWriteback_parts
    | with_reducible apply State.store_parts
    | with_reducible apply State.hide_parts
    | with_reducible refine parts_foldl (fun t x ht => ?_) ?_

theorem State.openAtomic_parts {M : Part → Prop} {z : State} {s : State} (h : Parts M z s) (t : Target) (fmt : Nat) (add :
    List Byte) (m_free : M .free) (m_regs : M .regs) (m_mem : M .mem) (m_events : M .events) (m_host : M .host)
    (m_arrays : M .arrays) (m_watch : M .watch) (m_atoms : M .atoms) :
    Parts M z (State.openAtomic s t fmt add).st := by
  unfold State.openAtomic
  repeat' first
    | with_reducible assumption
    | with_reducible apply State.atomic_parts
    | with_reducible apply State.touchLine_parts
    | with_reducible apply State.cleanLine_parts
    | with_reducible apply State.poke_parts
    | with_reducible apply State.err_parts
    | split
    | dsimp only

theorem State.openReg_parts {M : Part → Prop} {z : State} {s : State} (h : Parts M z s) (r : Req) (unit : Nat)
    (m_out : M .out) (m_free : M .free) (m_regs : M .regs) (m_mem : M .mem) (m_events : M .events) (m_host : M .host)
    (m_belfry : M .belfry) (m_links : M .links) (m_d2d : M .d2d) (m_reservations : M .reservations) (m_routes : M .routes)
    (m_opn : M .opn) (m_arrays : M .arrays) (m_fst : M .fst) (m_watch : M .watch) (m_bankA : M .bankA)
    (m_bankB : M .bankB) (m_sched : M .sched) (m_runs : M .runs) (m_frozenNow : M .frozenNow) (m_atoms : M .atoms)
    (m_waiting : M .waiting) (m_movers : M .movers) (m_roundEnd : M .roundEnd) (m_tiles : M .tiles) (m_ueStep : M .ueStep)
    (m_keys : M .keys) (m_meas : M .meas) (m_scrub : M .scrub) (m_spots : M .spots) (m_margin : M .margin)
    (m_power : M .power) (m_fuses : M .fuses) (m_trust : M .trust) (m_sessions : M .sessions) (m_opening : M .opening)
    (m_answers : M .answers) (m_streams : M .streams) (m_windows : M .windows) :
    Parts M z (State.openReg s r unit).st := by
  unfold State.openReg
  repeat' first
    | with_reducible assumption
    | with_reducible apply State.regAccess_parts

theorem State.performAt_parts {M : Part → Prop} {z : State} {s : State} (h : Parts M z s) (t : Target) (f : Flit)
    (m_out : M .out) (m_free : M .free) (m_regs : M .regs) (m_mem : M .mem) (m_events : M .events) (m_host : M .host)
    (m_belfry : M .belfry) (m_links : M .links) (m_d2d : M .d2d) (m_reservations : M .reservations) (m_routes : M .routes)
    (m_opn : M .opn) (m_arrays : M .arrays) (m_fst : M .fst) (m_watch : M .watch) (m_bankA : M .bankA)
    (m_bankB : M .bankB) (m_sched : M .sched) (m_runs : M .runs) (m_frozenNow : M .frozenNow) (m_atoms : M .atoms)
    (m_waiting : M .waiting) (m_movers : M .movers) (m_roundEnd : M .roundEnd) (m_tiles : M .tiles) (m_ueStep : M .ueStep)
    (m_keys : M .keys) (m_meas : M .meas) (m_scrub : M .scrub) (m_spots : M .spots) (m_margin : M .margin)
    (m_power : M .power) (m_fuses : M .fuses) (m_trust : M .trust) (m_sessions : M .sessions) (m_opening : M .opening)
    (m_answers : M .answers) (m_streams : M .streams) (m_windows : M .windows) :
    Parts M z (State.performAt s t f).st := by
  unfold State.performAt
  repeat' first
    | with_reducible assumption
    | with_reducible apply State.openReg_parts
    | with_reducible apply State.openAtomic_parts
    | with_reducible apply State.openWrite_parts
    | with_reducible apply State.sparseRead_parts
    | with_reducible apply State.openRead_parts
    | split
    | dsimp only

theorem Served.count_parts {M : Part → Prop} {z : State} {x : Served} (h : Parts M z x.st) (t : Target) (m_free : M .free)
    (m_regs : M .regs) (m_events : M .events) (m_host : M .host) : Parts M z (x.count t).st := by
  unfold Served.count
  dsimp only
  split
  · dsimp only
    split
    · exact State.err_parts (State.bump_parts (State.bump_parts h _ _ _ (m_regs := m_regs)) _ _ _ (m_regs := m_regs)) _ _
          (m_free := m_free) (m_regs := m_regs) (m_events := m_events) (m_host := m_host)
    · exact State.bump_parts h _ _ _ (m_regs := m_regs)
  · exact h

theorem State.countRefusal_parts {M : Part → Prop} {z : State} {s : State} (h : Parts M z s) (st : Nat) (m_regs : M .regs) :
    Parts M z (State.countRefusal s st) := by
  unfold State.countRefusal
  repeat' first
    | with_reducible assumption
    | with_reducible apply State.bump_parts
    | split

theorem State.performNow_parts {M : Part → Prop} {z : State} {s : State} (h : Parts M z s) (t : Target) (f : Flit)
    (m_out : M .out) (m_free : M .free) (m_regs : M .regs) (m_mem : M .mem) (m_events : M .events) (m_host : M .host)
    (m_belfry : M .belfry) (m_links : M .links) (m_d2d : M .d2d) (m_reservations : M .reservations) (m_routes : M .routes)
    (m_opn : M .opn) (m_arrays : M .arrays) (m_fst : M .fst) (m_watch : M .watch) (m_bankA : M .bankA)
    (m_bankB : M .bankB) (m_sched : M .sched) (m_runs : M .runs) (m_frozenNow : M .frozenNow) (m_atoms : M .atoms)
    (m_waiting : M .waiting) (m_movers : M .movers) (m_roundEnd : M .roundEnd) (m_tiles : M .tiles) (m_ueStep : M .ueStep)
    (m_keys : M .keys) (m_meas : M .meas) (m_scrub : M .scrub) (m_spots : M .spots) (m_margin : M .margin)
    (m_power : M .power) (m_fuses : M .fuses) (m_trust : M .trust) (m_sessions : M .sessions) (m_opening : M .opening)
    (m_answers : M .answers) (m_streams : M .streams) (m_windows : M .windows) :
    Parts M z (State.performNow s t f).st := by
  unfold State.performNow
  repeat' first
    | with_reducible assumption
    | with_reducible apply State.countRefusal_parts
    | with_reducible apply Served.count_parts
    | with_reducible apply State.performAt_parts

theorem State.tryServe_parts {M : Part → Prop} {z : State} {s : State} (h : Parts M z s) (f : Flit) {x : Served} (e :
    s.tryServe f = some x) (m_out : M .out) (m_free : M .free) (m_regs : M .regs) (m_mem : M .mem) (m_events : M .events)
    (m_host : M .host) (m_belfry : M .belfry) (m_links : M .links) (m_d2d : M .d2d) (m_reservations : M .reservations)
    (m_routes : M .routes) (m_opn : M .opn) (m_arrays : M .arrays) (m_fst : M .fst) (m_watch : M .watch)
    (m_bankA : M .bankA) (m_bankB : M .bankB) (m_sched : M .sched) (m_runs : M .runs) (m_frozenNow : M .frozenNow)
    (m_atoms : M .atoms) (m_waiting : M .waiting) (m_movers : M .movers) (m_roundEnd : M .roundEnd) (m_tiles : M .tiles)
    (m_ueStep : M .ueStep) (m_keys : M .keys) (m_meas : M .meas) (m_scrub : M .scrub) (m_spots : M .spots)
    (m_margin : M .margin) (m_power : M .power) (m_fuses : M .fuses) (m_trust : M .trust) (m_sessions : M .sessions)
    (m_opening : M .opening) (m_answers : M .answers) (m_streams : M .streams) (m_windows : M .windows) :
    Parts M z x.st := by
  unfold State.tryServe at e
  split at e
  · cases e
    exact State.countRefusal_parts h _ (m_regs := m_regs)
  · split at e
    · cases e
    · cases e
      exact State.performNow_parts h _ _ (m_out := m_out) (m_free := m_free) (m_regs := m_regs) (m_mem := m_mem)
          (m_events := m_events) (m_host := m_host) (m_belfry := m_belfry) (m_links := m_links) (m_d2d := m_d2d)
          (m_reservations := m_reservations) (m_routes := m_routes) (m_opn := m_opn) (m_arrays := m_arrays)
          (m_fst := m_fst) (m_watch := m_watch) (m_bankA := m_bankA) (m_bankB := m_bankB) (m_sched := m_sched)
          (m_runs := m_runs) (m_frozenNow := m_frozenNow) (m_atoms := m_atoms) (m_waiting := m_waiting)
          (m_movers := m_movers) (m_roundEnd := m_roundEnd) (m_tiles := m_tiles) (m_ueStep := m_ueStep) (m_keys := m_keys)
          (m_meas := m_meas) (m_scrub := m_scrub) (m_spots := m_spots) (m_margin := m_margin) (m_power := m_power)
          (m_fuses := m_fuses) (m_trust := m_trust) (m_sessions := m_sessions) (m_opening := m_opening)
          (m_answers := m_answers) (m_streams := m_streams) (m_windows := m_windows)

theorem State.answer_parts {M : Part → Prop} {z : State} (s : State) (f : Flit) {x : Served} (h : Parts M z x.st)
    (m_free : M .free) (m_regs : M .regs) (m_events : M .events) (m_host : M .host) (m_opn : M .opn) : Parts M z
    (State.answer s f x) := by
  unfold State.answer
  with_reducible exact State.forward_parts h _ _ _ _ _ (m_free := m_free) (m_regs := m_regs) (m_events := m_events)
                     (m_host := m_host) (m_opn := m_opn)

theorem State.memRequest_parts {M : Part → Prop} {z : State} {s : State} (h : Parts M z s) (f : Flit) (m_out : M .out)
    (m_free : M .free) (m_regs : M .regs) (m_mem : M .mem) (m_events : M .events) (m_host : M .host)
    (m_belfry : M .belfry) (m_links : M .links) (m_d2d : M .d2d) (m_reservations : M .reservations) (m_routes : M .routes)
    (m_opn : M .opn) (m_arrays : M .arrays) (m_fst : M .fst) (m_watch : M .watch) (m_bankA : M .bankA)
    (m_bankB : M .bankB) (m_sched : M .sched) (m_runs : M .runs) (m_frozenNow : M .frozenNow) (m_atoms : M .atoms)
    (m_waiting : M .waiting) (m_movers : M .movers) (m_roundEnd : M .roundEnd) (m_tiles : M .tiles) (m_ueStep : M .ueStep)
    (m_keys : M .keys) (m_meas : M .meas) (m_scrub : M .scrub) (m_spots : M .spots) (m_margin : M .margin)
    (m_power : M .power) (m_fuses : M .fuses) (m_trust : M .trust) (m_sessions : M .sessions) (m_opening : M .opening)
    (m_answers : M .answers) (m_streams : M .streams) (m_windows : M .windows) : Parts M z (State.memRequest s f) := by
  unfold State.memRequest
  refine State.served_parts h 0 f _ (fun s1 f h1 => ?_) (m_free := m_free) (m_regs := m_regs) (m_events := m_events) (m_host := m_host) (m_opn := m_opn) (m_arrays := m_arrays)
  split
  · with_reducible exact State.headerDiscard_parts h1 _ (m_free := m_free) (m_regs := m_regs) (m_events := m_events) (m_host := m_host)
  · split
    · exact h1
    · split
      · rename_i x hx
        with_reducible apply State.answer_parts (m_free := m_free) (m_regs := m_regs) (m_events := m_events)
                           (m_host := m_host) (m_opn := m_opn)
        exact State.tryServe_parts h1 _ hx (m_out := m_out) (m_free := m_free) (m_regs := m_regs) (m_mem := m_mem)
            (m_events := m_events) (m_host := m_host) (m_belfry := m_belfry) (m_links := m_links) (m_d2d := m_d2d)
            (m_reservations := m_reservations) (m_routes := m_routes) (m_opn := m_opn) (m_arrays := m_arrays)
            (m_fst := m_fst) (m_watch := m_watch) (m_bankA := m_bankA) (m_bankB := m_bankB) (m_sched := m_sched)
            (m_runs := m_runs) (m_frozenNow := m_frozenNow) (m_atoms := m_atoms) (m_waiting := m_waiting)
            (m_movers := m_movers) (m_roundEnd := m_roundEnd) (m_tiles := m_tiles) (m_ueStep := m_ueStep) (m_keys := m_keys)
            (m_meas := m_meas) (m_scrub := m_scrub) (m_spots := m_spots) (m_margin := m_margin) (m_power := m_power)
            (m_fuses := m_fuses) (m_trust := m_trust) (m_sessions := m_sessions) (m_opening := m_opening)
            (m_answers := m_answers) (m_streams := m_streams) (m_windows := m_windows)
      · split
        · with_reducible exact State.holdRequest_parts h1 _ _ (m_regs := m_regs) (m_waiting := m_waiting) (m_power := m_power)
        · exact h1

theorem State.refuseWaiting_parts {M : Part → Prop} {z : State} {s : State} (h : Parts M z s)
    (m_free : M .free) (m_regs : M .regs) (m_events : M .events) (m_host : M .host) (m_opn : M .opn)
        (m_waiting : M .waiting) :
    Parts M z (State.refuseWaiting s) := by
  unfold State.refuseWaiting
  refine parts_foldl (fun t f ht => ?_) h
  split
  · with_reducible apply State.answer_parts
    · dsimp only
      with_reducible apply State.countRefusal_parts
      · apply parts_mk ht <;> first | exact .inr rfl | exact .inl (by assumption)
      all_goals with_reducible assumption
    all_goals with_reducible assumption
  · exact ht

theorem State.performWaiting_parts {M : Part → Prop} {z : State} {s : State} (h : Parts M z s) (p : Target → Flit → Bool)
    (m_out : M .out) (m_free : M .free) (m_regs : M .regs) (m_mem : M .mem) (m_events : M .events) (m_host : M .host)
    (m_belfry : M .belfry) (m_links : M .links) (m_d2d : M .d2d) (m_reservations : M .reservations) (m_routes : M .routes)
    (m_opn : M .opn) (m_arrays : M .arrays) (m_fst : M .fst) (m_watch : M .watch) (m_bankA : M .bankA)
    (m_bankB : M .bankB) (m_sched : M .sched) (m_runs : M .runs) (m_frozenNow : M .frozenNow) (m_atoms : M .atoms)
    (m_waiting : M .waiting) (m_movers : M .movers) (m_roundEnd : M .roundEnd) (m_tiles : M .tiles) (m_ueStep : M .ueStep)
    (m_keys : M .keys) (m_meas : M .meas) (m_scrub : M .scrub) (m_spots : M .spots) (m_margin : M .margin)
    (m_power : M .power) (m_fuses : M .fuses) (m_trust : M .trust) (m_sessions : M .sessions) (m_opening : M .opening)
    (m_answers : M .answers) (m_streams : M .streams) (m_windows : M .windows) :
    Parts M z (State.performWaiting s p) := by
  unfold State.performWaiting
  repeat' first
    | with_reducible exact Or.inr rfl
    | with_reducible exact Or.inr ⟨rfl, rfl, rfl, rfl, rfl⟩
    | with_reducible exact Or.inl (by assumption)
    | with_reducible assumption
    | with_reducible apply State.refuseWaiting_parts
    | with_reducible apply State.answer_parts
    | with_reducible apply State.performNow_parts
    | with_reducible apply State.bump_parts
    | split
    | dsimp only
    | with_reducible apply parts_mk

theorem State.performDrum_parts {M : Part → Prop} {z : State} {s : State} (h : Parts M z s) (c : Nat) (m_out : M .out)
    (m_free : M .free) (m_regs : M .regs) (m_mem : M .mem) (m_events : M .events) (m_host : M .host)
    (m_belfry : M .belfry) (m_links : M .links) (m_d2d : M .d2d) (m_reservations : M .reservations) (m_routes : M .routes)
    (m_opn : M .opn) (m_arrays : M .arrays) (m_fst : M .fst) (m_watch : M .watch) (m_bankA : M .bankA)
    (m_bankB : M .bankB) (m_sched : M .sched) (m_runs : M .runs) (m_frozenNow : M .frozenNow) (m_atoms : M .atoms)
    (m_waiting : M .waiting) (m_movers : M .movers) (m_roundEnd : M .roundEnd) (m_tiles : M .tiles) (m_ueStep : M .ueStep)
    (m_keys : M .keys) (m_meas : M .meas) (m_scrub : M .scrub) (m_spots : M .spots) (m_margin : M .margin)
    (m_power : M .power) (m_fuses : M .fuses) (m_trust : M .trust) (m_sessions : M .sessions) (m_opening : M .opening)
    (m_answers : M .answers) (m_streams : M .streams) (m_windows : M .windows) :
    Parts M z (State.performDrum s c) := by
  unfold State.performDrum
  repeat' first
    | with_reducible assumption
    | with_reducible apply State.performWaiting_parts
    | with_reducible refine parts_foldl (fun t x ht => ?_) ?_

theorem State.memRow_parts {M : Part → Prop} {z : State} {s : State} (h : Parts M z s) (op : Nat) (f : Flit) (m_out : M
    .out) (m_free : M .free) (m_regs : M .regs) (m_mem : M .mem) (m_events : M .events) (m_host : M .host) (m_belfry : M
    .belfry) (m_links : M .links) (m_d2d : M .d2d) (m_reservations : M .reservations) (m_routes : M .routes) (m_opn : M
    .opn) (m_arrays : M .arrays) (m_fst : M .fst) (m_watch : M .watch) (m_bankA : M .bankA) (m_bankB : M .bankB)
    (m_sched : M .sched) (m_runs : M .runs) (m_frozenNow : M .frozenNow) (m_atoms : M .atoms) (m_waiting : M .waiting)
    (m_movers : M .movers) (m_roundEnd : M .roundEnd) (m_tiles : M .tiles) (m_ueStep : M .ueStep) (m_keys : M .keys)
    (m_meas : M .meas) (m_scrub : M .scrub) (m_spots : M .spots) (m_margin : M .margin) (m_power : M .power) (m_fuses :
    M .fuses) (m_trust : M .trust) (m_sessions : M .sessions) (m_opening : M .opening) (m_answers : M .answers)
    (m_streams : M .streams) (m_windows : M .windows) :
    Parts M z (State.memRow s op f) := by
  unfold State.memRow
  repeat' first
    | with_reducible assumption
    | with_reducible apply State.memRequest_parts
    | split
    | dsimp only

theorem State.domainWake_parts {M : Part → Prop} {z : State} {s : State} (h : Parts M z s) (d : Nat) (m_out : M .out)
    (m_free : M .free) (m_regs : M .regs) (m_mem : M .mem) (m_events : M .events) (m_host : M .host)
    (m_belfry : M .belfry) (m_links : M .links) (m_d2d : M .d2d) (m_reservations : M .reservations) (m_routes : M .routes)
    (m_opn : M .opn) (m_arrays : M .arrays) (m_fst : M .fst) (m_watch : M .watch) (m_bankA : M .bankA)
    (m_bankB : M .bankB) (m_sched : M .sched) (m_runs : M .runs) (m_frozenNow : M .frozenNow) (m_atoms : M .atoms)
    (m_waiting : M .waiting) (m_movers : M .movers) (m_roundEnd : M .roundEnd) (m_tiles : M .tiles) (m_ueStep : M .ueStep)
    (m_keys : M .keys) (m_meas : M .meas) (m_scrub : M .scrub) (m_spots : M .spots) (m_margin : M .margin)
    (m_power : M .power) (m_fuses : M .fuses) (m_trust : M .trust) (m_sessions : M .sessions) (m_opening : M .opening)
    (m_answers : M .answers) (m_streams : M .streams) (m_windows : M .windows) :
    Parts M z (State.domainWake s d) := by
  unfold State.domainWake
  repeat' first
    | with_reducible assumption
    | with_reducible apply State.performDrum_parts
    | with_reducible apply State.wakeDone_parts
    | split

end Sys2Proof.Machine
end

