-- ==== Sys2Proof/Laws/PartsMoraeca.lean ====
section
/-! SUPPORT. What the operations of Moraeca.lean touch (Parts). -/

namespace Sys2Proof.Machine

open Sys2Proof

theorem State.sendStrict_parts {M : Part → Prop} {z : State} {s : State} (h : Parts M z s) (q : Nat) (dst : NetSrc) (msg :
    List Byte) (m_free : M .free) (m_regs : M .regs) (m_events : M .events) (m_host : M .host) :
    Parts M z (State.sendStrict s q dst msg) := by
  unfold State.sendStrict
  repeat' first
    | with_reducible exact Or.inr rfl
    | with_reducible exact Or.inr ⟨rfl, rfl, rfl, rfl, rfl⟩
    | with_reducible exact Or.inl (by assumption)
    | with_reducible assumption
    | with_reducible apply State.strictSend_parts
    | dsimp only
    | with_reducible apply parts_mk

theorem State.sendBulk_parts {M : Part → Prop} {z : State} {s : State} (h : Parts M z s) (dst : NetSrc) (msg : List Byte)
    (m_free : M .free) (m_regs : M .regs) (m_events : M .events) (m_host : M .host) :
    Parts M z (State.sendBulk s dst msg) := by
  unfold State.sendBulk
  repeat' first
    | with_reducible exact Or.inr rfl
    | with_reducible exact Or.inr ⟨rfl, rfl, rfl, rfl, rfl⟩
    | with_reducible exact Or.inl (by assumption)
    | with_reducible assumption
    | with_reducible apply State.weightedPut_parts
    | dsimp only
    | with_reducible apply parts_mk

theorem State.takeFrame_parts {M : Part → Prop} {z : State} {s : State} (h : Parts M z s) (p : List Byte → Bool)
    (m_host : M .host) :
    Parts M z (State.takeFrame s p) := by
  unfold State.takeFrame
  repeat' first
    | with_reducible assumption
    | with_reducible apply State.setHost_parts

theorem State.arpReply_parts {M : Part → Prop} {z : State} {s : State} (h : Parts M z s) (fr : List Byte)
    (m_free : M .free) (m_regs : M .regs) (m_events : M .events) (m_host : M .host) :
    Parts M z (State.arpReply s fr) := by
  unfold State.arpReply
  repeat' first
    | with_reducible assumption
    | with_reducible apply State.strictSend_parts

theorem State.neighborReply_parts {M : Part → Prop} {z : State} {s : State} (h : Parts M z s) (fr : List Byte)
    (m_free : M .free) (m_regs : M .regs) (m_events : M .events) (m_host : M .host) :
    Parts M z (State.neighborReply s fr) := by
  unfold State.neighborReply
  repeat' first
    | with_reducible assumption
    | with_reducible apply State.strictSend_parts

theorem State.sendReply_parts {M : Part → Prop} {z : State} {s : State} (h : Parts M z s) (dst : NetSrc) (m reply : List
    Byte) (m_free : M .free) (m_regs : M .regs) (m_events : M .events) (m_host : M .host) (m_links : M .links) (m_opn :
    M .opn) : Parts M z (State.sendReply s dst m reply) := by
  unfold State.sendReply
  repeat' first
    | with_reducible assumption
    | with_reducible apply State.sendBulk_parts
    | with_reducible apply State.sendStrict_parts
    | with_reducible apply State.reply_parts
    | split

theorem State.refuse_parts {M : Part → Prop} {z : State} {s : State} (h : Parts M z s) (src : NetSrc) (m : List Byte)
    (status : Nat) (m_free : M .free) (m_regs : M .regs) (m_events : M .events) (m_host : M .host) (m_links : M .links)
    (m_opn : M .opn) : Parts M z (State.refuse s src m status) := by
  unfold State.refuse
  repeat' first
    | with_reducible assumption
    | with_reducible apply State.sendReply_parts

theorem State.setSession_parts {M : Part → Prop} {z : State} {s : State} (h : Parts M z s) (i : Nat) (x : Session)
    (m_sessions : M .sessions) : Parts M z (State.setSession s i x) := by
  unfold State.setSession
  repeat' first
    | with_reducible exact Or.inr rfl
    | with_reducible exact Or.inr ⟨rfl, rfl, rfl, rfl, rfl⟩
    | with_reducible exact Or.inl (by assumption)
    | with_reducible assumption
    | with_reducible apply State.put_parts
    | dsimp only
    | with_reducible apply parts_mk

theorem State.openExec_parts {M : Part → Prop} {z : State} {s : State} (h : Parts M z s) (i : Nat) (r : Request) (m_free
    : M .free) (m_regs : M .regs) (m_events : M .events) (m_host : M .host) (m_links : M .links) (m_opn : M .opn)
    (m_sessions : M .sessions) : Parts M z (State.openExec s i r) := by
  unfold State.openExec
  repeat' first
    | with_reducible assumption
    | with_reducible apply State.setSession_parts
    | with_reducible apply State.sendReply_parts
    | split
    | dsimp only

theorem State.sessionRequest_parts {M : Part → Prop} {z : State} {s : State} (h : Parts M z s) (i : Nat) (r : Request)
    (m_free : M .free) (m_regs : M .regs) (m_events : M .events) (m_host : M .host) (m_links : M .links) (m_opn : M
    .opn) (m_sessions : M .sessions) : Parts M z (State.sessionRequest s i r) := by
  unfold State.sessionRequest
  repeat' first
    | with_reducible assumption
    | with_reducible apply State.setSession_parts
    | with_reducible apply State.refuse_parts
    | with_reducible apply State.sendReply_parts
    | with_reducible apply State.reply_parts
    | with_reducible apply State.put_parts
    | split
    | dsimp only

theorem State.openNext_parts {M : Part → Prop} {z : State} {s : State} (h : Parts M z s) (i : Nat) (m_free : M .free)
    (m_regs : M .regs) (m_events : M .events) (m_host : M .host) (m_links : M .links) (m_opn : M .opn) (m_sessions : M
    .sessions) (m_opening : M .opening) : Parts M z (State.openNext s i) := by
  unfold State.openNext
  repeat' first
    | with_reducible exact Or.inr rfl
    | with_reducible exact Or.inr ⟨rfl, rfl, rfl, rfl, rfl⟩
    | with_reducible exact Or.inl (by assumption)
    | with_reducible assumption
    | with_reducible apply State.sessionRequest_parts
    | with_reducible apply State.openExec_parts
    | with_reducible refine parts_foldl (fun t x ht => ?_) ?_
    | with_reducible refine parts_foldl_1 (fun t x ht => ?_) ?_
    | with_reducible refine parts_foldl_2 (fun t x ht => ?_) ?_
    | with_reducible refine parts_foldl_3 (fun t x ht => ?_) ?_
    | split
    | dsimp only
    | with_reducible apply parts_mk

theorem State.execDone_parts {M : Part → Prop} {z : State} {s : State} (h : Parts M z s) (i : Nat) (x : Session) (e :
    Exec) (status count : Nat) (body : List Byte) (m_free : M .free) (m_regs : M .regs) (m_events : M .events) (m_host :
    M .host) (m_links : M .links) (m_opn : M .opn) (m_sessions : M .sessions) : Parts M z (State.execDone s i x e status
    count body) := by
  unfold State.execDone
  repeat' first
    | with_reducible exact Or.inr rfl
    | with_reducible exact Or.inr ⟨rfl, rfl, rfl, rfl, rfl⟩
    | with_reducible exact Or.inl (by assumption)
    | with_reducible assumption
    | with_reducible apply State.setSession_parts
    | with_reducible apply State.sendReply_parts
    | with_reducible apply Served.count_parts
    | with_reducible apply State.reply_parts
    | with_reducible apply State.bump_parts
    | with_reducible apply State.put_parts
    | split
    | dsimp only
    | with_reducible apply parts_mk

theorem State.sessionTimeout_parts {M : Part → Prop} {z : State} {s : State} (h : Parts M z s) (i : Nat) (m_sessions : M
    .sessions) :
    Parts M z (State.sessionTimeout s i) := by
  unfold State.sessionTimeout
  repeat' first
    | with_reducible exact Or.inr rfl
    | with_reducible exact Or.inr ⟨rfl, rfl, rfl, rfl, rfl⟩
    | with_reducible exact Or.inl (by assumption)
    | with_reducible assumption
    | split
    | dsimp only
    | with_reducible apply parts_mk

theorem State.holdTimeout_parts {M : Part → Prop} {z : State} {s : State} (h : Parts M z s) (i q : Nat) (m_regs : M .regs)
    (m_sessions : M .sessions) :
    Parts M z (State.holdTimeout s i q) := by
  unfold State.holdTimeout
  repeat' first
    | with_reducible assumption
    | with_reducible apply State.setSession_parts
    | with_reducible apply State.bump_parts
    | split

theorem State.ask_parts {M : Part → Prop} {z : State} {s : State} (h : Parts M z s) (opcode addr size : Nat) (virt : Bool)
    (data : List Byte) (m_out : M .out) (m_free : M .free) (m_regs : M .regs) (m_mem : M .mem) (m_events : M .events)
    (m_host : M .host) (m_belfry : M .belfry) (m_links : M .links) (m_d2d : M .d2d) (m_reservations : M .reservations)
    (m_routes : M .routes) (m_opn : M .opn) (m_arrays : M .arrays) (m_fst : M .fst) (m_watch : M .watch)
    (m_bankA : M .bankA) (m_bankB : M .bankB) (m_sched : M .sched) (m_runs : M .runs) (m_frozenNow : M .frozenNow)
    (m_atoms : M .atoms) (m_waiting : M .waiting) (m_movers : M .movers) (m_roundEnd : M .roundEnd) (m_tiles : M .tiles)
    (m_ueStep : M .ueStep) (m_keys : M .keys) (m_meas : M .meas) (m_scrub : M .scrub) (m_spots : M .spots)
    (m_margin : M .margin) (m_power : M .power) (m_fuses : M .fuses) (m_trust : M .trust) (m_sessions : M .sessions)
    (m_opening : M .opening) (m_answers : M .answers) (m_streams : M .streams) (m_windows : M .windows) :
    Parts M z (State.ask s opcode addr size virt data).2 := by
  unfold State.ask
  dsimp only
  split
  · dsimp only
    split
    · exact State.err_parts (State.bump_parts h _ _ _ (m_regs := m_regs)) _ _ (m_free := m_free) (m_regs := m_regs)
          (m_events := m_events) (m_host := m_host)
    · exact h
  · split
    · split
      · exact State.tryServe_parts h _ (by assumption) (m_out := m_out) (m_free := m_free) (m_regs := m_regs)
            (m_mem := m_mem) (m_events := m_events) (m_host := m_host) (m_belfry := m_belfry) (m_links := m_links)
            (m_d2d := m_d2d) (m_reservations := m_reservations) (m_routes := m_routes) (m_opn := m_opn)
            (m_arrays := m_arrays) (m_fst := m_fst) (m_watch := m_watch) (m_bankA := m_bankA) (m_bankB := m_bankB)
            (m_sched := m_sched) (m_runs := m_runs) (m_frozenNow := m_frozenNow) (m_atoms := m_atoms)
            (m_waiting := m_waiting) (m_movers := m_movers) (m_roundEnd := m_roundEnd) (m_tiles := m_tiles)
            (m_ueStep := m_ueStep) (m_keys := m_keys) (m_meas := m_meas) (m_scrub := m_scrub) (m_spots := m_spots)
            (m_margin := m_margin) (m_power := m_power) (m_fuses := m_fuses) (m_trust := m_trust)
            (m_sessions := m_sessions) (m_opening := m_opening) (m_answers := m_answers) (m_streams := m_streams)
            (m_windows := m_windows)
      · exact State.inject_parts h _ _ (m_out := m_out) (m_free := m_free) (m_regs := m_regs) (m_events := m_events)
            (m_host := m_host) (m_links := m_links) (m_reservations := m_reservations) (m_opn := m_opn)
            (m_power := m_power) (m_answers := m_answers)
    · exact State.inject_parts h _ _ (m_out := m_out) (m_free := m_free) (m_regs := m_regs) (m_events := m_events)
          (m_host := m_host) (m_links := m_links) (m_reservations := m_reservations) (m_opn := m_opn)
            (m_power := m_power) (m_answers := m_answers)

theorem State.takeAnswer_parts {M : Part → Prop} {z : State} {s : State} (h : Parts M z s) (tag : Nat) {x : Flit × State}
    (e : s.takeAnswer tag = some x) (m_answers : M .answers) : Parts M z x.2 := by
  unfold State.takeAnswer at e
  split at e
  · cases e
    apply parts_mk h <;> first | exact .inr rfl | exact .inl m_answers | exact .inr ⟨rfl, rfl, rfl, rfl, rfl⟩
  · cases e

theorem State.outcome_parts {M : Part → Prop} {z : State} {s : State} (h : Parts M z s) (sent : Option Nat) (new : Unit →
    Asked × State)
    (hn : Parts M z (new ()).2) (m_answers : M .answers) : Parts M z (State.outcome s sent new).2.2 := by
  unfold State.outcome
  split
  · split
    · exact State.takeAnswer_parts h _ (by assumption) (m_answers := m_answers)
    · exact h
  · dsimp only
    split <;> exact hn

theorem State.askItem_parts {M : Part → Prop} {z : State} {s : State} (h : Parts M z s) (e : Exec) (m_out : M .out)
    (m_free : M .free) (m_regs : M .regs) (m_mem : M .mem) (m_events : M .events) (m_host : M .host)
    (m_belfry : M .belfry) (m_links : M .links) (m_d2d : M .d2d) (m_reservations : M .reservations) (m_routes : M .routes)
    (m_opn : M .opn) (m_arrays : M .arrays) (m_fst : M .fst) (m_watch : M .watch) (m_bankA : M .bankA)
    (m_bankB : M .bankB) (m_sched : M .sched) (m_runs : M .runs) (m_frozenNow : M .frozenNow) (m_atoms : M .atoms)
    (m_waiting : M .waiting) (m_movers : M .movers) (m_roundEnd : M .roundEnd) (m_tiles : M .tiles) (m_ueStep : M .ueStep)
    (m_keys : M .keys) (m_meas : M .meas) (m_scrub : M .scrub) (m_spots : M .spots) (m_margin : M .margin)
    (m_power : M .power) (m_fuses : M .fuses) (m_trust : M .trust) (m_sessions : M .sessions) (m_opening : M .opening)
    (m_answers : M .answers) (m_streams : M .streams) (m_windows : M .windows) :
    Parts M z (State.askItem s e).2 := by
  unfold State.askItem
  repeat' first
    | with_reducible assumption
    | with_reducible apply State.ask_parts
    | split
    | dsimp only

theorem execItems_parts {M : Part → Prop} {z : State} (n : Nat) (m_out : M .out) (m_free : M .free) (m_regs : M .regs)
    (m_mem : M .mem) (m_events : M .events) (m_host : M .host) (m_belfry : M .belfry) (m_links : M .links)
    (m_d2d : M .d2d) (m_reservations : M .reservations) (m_routes : M .routes) (m_opn : M .opn) (m_arrays : M .arrays)
    (m_fst : M .fst) (m_watch : M .watch) (m_bankA : M .bankA) (m_bankB : M .bankB) (m_sched : M .sched)
    (m_runs : M .runs) (m_frozenNow : M .frozenNow) (m_atoms : M .atoms) (m_waiting : M .waiting) (m_movers : M .movers)
    (m_roundEnd : M .roundEnd) (m_tiles : M .tiles) (m_ueStep : M .ueStep) (m_keys : M .keys) (m_meas : M .meas)
    (m_scrub : M .scrub) (m_spots : M .spots) (m_margin : M .margin) (m_power : M .power) (m_fuses : M .fuses)
    (m_trust : M .trust) (m_sessions : M .sessions) (m_opening : M .opening) (m_answers : M .answers)
    (m_streams : M .streams) (m_windows : M .windows) : ∀ (m : Nat) {s : State} (_ : Parts M z s) (e : Exec),
    Parts M z (execItems n m s e).1
  | 0, _, h, _ => h
  | m + 1, s, h, e => by
    have h1 := State.outcome_parts h e.sent (fun _ => s.askItem e) (State.askItem_parts h e (m_out := m_out)
        (m_free := m_free) (m_regs := m_regs) (m_mem := m_mem) (m_events := m_events) (m_host := m_host)
        (m_belfry := m_belfry) (m_links := m_links) (m_d2d := m_d2d) (m_reservations := m_reservations)
        (m_routes := m_routes) (m_opn := m_opn) (m_arrays := m_arrays) (m_fst := m_fst) (m_watch := m_watch)
        (m_bankA := m_bankA) (m_bankB := m_bankB) (m_sched := m_sched) (m_runs := m_runs) (m_frozenNow := m_frozenNow)
        (m_atoms := m_atoms) (m_waiting := m_waiting) (m_movers := m_movers) (m_roundEnd := m_roundEnd)
        (m_tiles := m_tiles) (m_ueStep := m_ueStep) (m_keys := m_keys) (m_meas := m_meas) (m_scrub := m_scrub)
        (m_spots := m_spots) (m_margin := m_margin) (m_power := m_power) (m_fuses := m_fuses) (m_trust := m_trust)
        (m_sessions := m_sessions) (m_opening := m_opening) (m_answers := m_answers) (m_streams := m_streams)
        (m_windows := m_windows)) (m_answers := m_answers)
    unfold execItems
    dsimp only
    split
    · exact h
    · split
      · exact h1
      · exact execItems_parts n m h1 _ (m_out := m_out) (m_free := m_free) (m_regs := m_regs) (m_mem := m_mem)
            (m_events := m_events) (m_host := m_host) (m_belfry := m_belfry) (m_links := m_links) (m_d2d := m_d2d)
            (m_reservations := m_reservations) (m_routes := m_routes) (m_opn := m_opn) (m_arrays := m_arrays)
            (m_fst := m_fst) (m_watch := m_watch) (m_bankA := m_bankA) (m_bankB := m_bankB) (m_sched := m_sched)
            (m_runs := m_runs) (m_frozenNow := m_frozenNow) (m_atoms := m_atoms) (m_waiting := m_waiting)
            (m_movers := m_movers) (m_roundEnd := m_roundEnd) (m_tiles := m_tiles) (m_ueStep := m_ueStep)
            (m_keys := m_keys) (m_meas := m_meas) (m_scrub := m_scrub) (m_spots := m_spots) (m_margin := m_margin)
            (m_power := m_power) (m_fuses := m_fuses) (m_trust := m_trust) (m_sessions := m_sessions)
            (m_opening := m_opening) (m_answers := m_answers) (m_streams := m_streams) (m_windows := m_windows)

theorem State.runItems_parts {M : Part → Prop} {z : State} {s : State} (h : Parts M z s) (i : Nat) (x : Session) (e :
    Exec) (m_out : M .out) (m_free : M .free) (m_regs : M .regs) (m_mem : M .mem) (m_events : M .events)
    (m_host : M .host) (m_belfry : M .belfry) (m_links : M .links) (m_d2d : M .d2d) (m_reservations : M .reservations)
    (m_routes : M .routes) (m_opn : M .opn) (m_arrays : M .arrays) (m_fst : M .fst) (m_watch : M .watch)
    (m_bankA : M .bankA) (m_bankB : M .bankB) (m_sched : M .sched) (m_runs : M .runs) (m_frozenNow : M .frozenNow)
    (m_atoms : M .atoms) (m_waiting : M .waiting) (m_movers : M .movers) (m_roundEnd : M .roundEnd) (m_tiles : M .tiles)
    (m_ueStep : M .ueStep) (m_keys : M .keys) (m_meas : M .meas) (m_scrub : M .scrub) (m_spots : M .spots)
    (m_margin : M .margin) (m_power : M .power) (m_fuses : M .fuses) (m_trust : M .trust) (m_sessions : M .sessions)
    (m_opening : M .opening) (m_answers : M .answers) (m_streams : M .streams) (m_windows : M .windows) :
    Parts M z (State.runItems s i x e) := by
  unfold State.runItems
  repeat' first
    | with_reducible assumption
    | with_reducible apply execItems_parts
    | with_reducible apply State.execDone_parts
    | with_reducible apply State.setSession_parts
    | split
    | dsimp only

theorem State.askPiece_parts {M : Part → Prop} {z : State} {s : State} (h : Parts M z s) (e : Exec) (m_out : M .out)
    (m_free : M .free) (m_regs : M .regs) (m_mem : M .mem) (m_events : M .events) (m_host : M .host)
    (m_belfry : M .belfry) (m_links : M .links) (m_d2d : M .d2d) (m_reservations : M .reservations) (m_routes : M .routes)
    (m_opn : M .opn) (m_arrays : M .arrays) (m_fst : M .fst) (m_watch : M .watch) (m_bankA : M .bankA)
    (m_bankB : M .bankB) (m_sched : M .sched) (m_runs : M .runs) (m_frozenNow : M .frozenNow) (m_atoms : M .atoms)
    (m_waiting : M .waiting) (m_movers : M .movers) (m_roundEnd : M .roundEnd) (m_tiles : M .tiles) (m_ueStep : M .ueStep)
    (m_keys : M .keys) (m_meas : M .meas) (m_scrub : M .scrub) (m_spots : M .spots) (m_margin : M .margin)
    (m_power : M .power) (m_fuses : M .fuses) (m_trust : M .trust) (m_sessions : M .sessions) (m_opening : M .opening)
    (m_answers : M .answers) (m_streams : M .streams) (m_windows : M .windows) :
    Parts M z (State.askPiece s e).2 := by
  unfold State.askPiece
  repeat' first
    | with_reducible assumption
    | with_reducible apply State.ask_parts
    | split

theorem execPieces_parts {M : Part → Prop} {z : State} (addr len : Nat) (m_out : M .out) (m_free : M .free)
    (m_regs : M .regs) (m_mem : M .mem) (m_events : M .events) (m_host : M .host) (m_belfry : M .belfry)
    (m_links : M .links) (m_d2d : M .d2d) (m_reservations : M .reservations) (m_routes : M .routes) (m_opn : M .opn)
    (m_arrays : M .arrays) (m_fst : M .fst) (m_watch : M .watch) (m_bankA : M .bankA) (m_bankB : M .bankB)
    (m_sched : M .sched) (m_runs : M .runs) (m_frozenNow : M .frozenNow) (m_atoms : M .atoms) (m_waiting : M .waiting)
    (m_movers : M .movers) (m_roundEnd : M .roundEnd) (m_tiles : M .tiles) (m_ueStep : M .ueStep) (m_keys : M .keys)
    (m_meas : M .meas) (m_scrub : M .scrub) (m_spots : M .spots) (m_margin : M .margin) (m_power : M .power)
    (m_fuses : M .fuses) (m_trust : M .trust) (m_sessions : M .sessions) (m_opening : M .opening) (m_answers : M .answers)
    (m_streams : M .streams) (m_windows : M .windows) : ∀ (m : Nat) {s : State} (_ : Parts M z s) (e : Exec),
    Parts M z (execPieces addr len m s e).1
  | 0, _, h, _ => h
  | m + 1, s, h, e => by
    have h1 := State.outcome_parts h e.sent (fun _ => s.askPiece e) (State.askPiece_parts h e (m_out := m_out)
        (m_free := m_free) (m_regs := m_regs) (m_mem := m_mem) (m_events := m_events) (m_host := m_host)
        (m_belfry := m_belfry) (m_links := m_links) (m_d2d := m_d2d) (m_reservations := m_reservations)
        (m_routes := m_routes) (m_opn := m_opn) (m_arrays := m_arrays) (m_fst := m_fst) (m_watch := m_watch)
        (m_bankA := m_bankA) (m_bankB := m_bankB) (m_sched := m_sched) (m_runs := m_runs) (m_frozenNow := m_frozenNow)
        (m_atoms := m_atoms) (m_waiting := m_waiting) (m_movers := m_movers) (m_roundEnd := m_roundEnd)
        (m_tiles := m_tiles) (m_ueStep := m_ueStep) (m_keys := m_keys) (m_meas := m_meas) (m_scrub := m_scrub)
        (m_spots := m_spots) (m_margin := m_margin) (m_power := m_power) (m_fuses := m_fuses) (m_trust := m_trust)
        (m_sessions := m_sessions) (m_opening := m_opening) (m_answers := m_answers) (m_streams := m_streams)
        (m_windows := m_windows)) (m_answers := m_answers)
    unfold execPieces
    dsimp only
    split
    · exact h
    · split
      · exact h1
      · split
        · exact h1
        · exact execPieces_parts addr len m h1 _ (m_out := m_out) (m_free := m_free) (m_regs := m_regs) (m_mem := m_mem)
              (m_events := m_events) (m_host := m_host) (m_belfry := m_belfry) (m_links := m_links) (m_d2d := m_d2d)
              (m_reservations := m_reservations) (m_routes := m_routes) (m_opn := m_opn) (m_arrays := m_arrays)
              (m_fst := m_fst) (m_watch := m_watch) (m_bankA := m_bankA) (m_bankB := m_bankB) (m_sched := m_sched)
              (m_runs := m_runs) (m_frozenNow := m_frozenNow) (m_atoms := m_atoms) (m_waiting := m_waiting)
              (m_movers := m_movers) (m_roundEnd := m_roundEnd) (m_tiles := m_tiles) (m_ueStep := m_ueStep)
              (m_keys := m_keys) (m_meas := m_meas) (m_scrub := m_scrub) (m_spots := m_spots) (m_margin := m_margin)
              (m_power := m_power) (m_fuses := m_fuses) (m_trust := m_trust) (m_sessions := m_sessions)
              (m_opening := m_opening) (m_answers := m_answers) (m_streams := m_streams) (m_windows := m_windows)

theorem State.runPieces_parts {M : Part → Prop} {z : State} {s : State} (h : Parts M z s) (i : Nat) (x : Session) (e :
    Exec) (m_out : M .out) (m_free : M .free) (m_regs : M .regs) (m_mem : M .mem) (m_events : M .events) (m_host : M
    .host) (m_belfry : M .belfry) (m_links : M .links) (m_d2d : M .d2d) (m_reservations : M .reservations) (m_routes : M
    .routes) (m_opn : M .opn) (m_arrays : M .arrays) (m_fst : M .fst) (m_watch : M .watch) (m_bankA : M .bankA) (m_bankB
    : M .bankB) (m_sched : M .sched) (m_runs : M .runs) (m_frozenNow : M .frozenNow) (m_atoms : M .atoms) (m_waiting : M
    .waiting) (m_movers : M .movers) (m_roundEnd : M .roundEnd) (m_tiles : M .tiles) (m_ueStep : M .ueStep) (m_keys : M
    .keys) (m_meas : M .meas) (m_scrub : M .scrub) (m_spots : M .spots) (m_margin : M .margin) (m_power : M .power)
    (m_fuses : M .fuses) (m_trust : M .trust) (m_sessions : M .sessions) (m_opening : M .opening) (m_answers : M
    .answers) (m_streams : M .streams) (m_windows : M .windows) :
    Parts M z (State.runPieces s i x e) := by
  unfold State.runPieces
  repeat' first
    | with_reducible assumption
    | with_reducible apply execPieces_parts
    | with_reducible apply State.execDone_parts
    | with_reducible apply State.setSession_parts
    | split
    | dsimp only

theorem State.sessionRow_parts {M : Part → Prop} {z : State} {s : State} (h : Parts M z s) (i type : Nat)
    (f : State → Session → Exec → State) (hf : ∀ t x e, Parts M z t → Parts M z (f t x e)) (m_free : M .free) (m_regs : M .regs) (m_events : M .events) (m_host : M .host) (m_links : M .links) (m_opn : M .opn) (m_sessions : M .sessions) :
    Parts M z (State.sessionRow s i type f) := by
  unfold State.sessionRow
  split
  · split
    · split
      · exact h
      · split
        · exact State.execDone_parts h _ _ _ _ _ _ (m_free := m_free) (m_regs := m_regs) (m_events := m_events) (m_host := m_host) (m_links := m_links) (m_opn := m_opn) (m_sessions := m_sessions)
        · exact hf _ _ _ h
    · exact h
  · exact h

theorem State.setStream_parts {M : Part → Prop} {z : State} {s : State} (h : Parts M z s) (i : Nat) (x : Stream)
    (m_regs : M .regs) (m_streams : M .streams) :
    Parts M z (State.setStream s i x) := by
  unfold State.setStream
  repeat' first
    | with_reducible exact Or.inr rfl
    | with_reducible exact Or.inr ⟨rfl, rfl, rfl, rfl, rfl⟩
    | with_reducible exact Or.inl (by assumption)
    | with_reducible assumption
    | with_reducible apply State.wr2_parts
    | with_reducible apply State.put_parts
    | dsimp only
    | with_reducible apply parts_mk

theorem State.endStream_parts {M : Part → Prop} {z : State} {s : State} (h : Parts M z s) (i : Nat) (x : Stream) (status
    : Nat) (m_free : M .free) (m_regs : M .regs) (m_events : M .events) (m_host : M .host) (m_streams : M .streams) :
    Parts M z (State.endStream s i x status) := by
  unfold State.endStream
  repeat' first
    | with_reducible exact Or.inr rfl
    | with_reducible exact Or.inr ⟨rfl, rfl, rfl, rfl, rfl⟩
    | with_reducible exact Or.inl (by assumption)
    | with_reducible assumption
    | with_reducible apply State.setStream_parts
    | with_reducible apply State.err_parts
    | with_reducible apply State.eventE_parts
    | with_reducible apply State.wri_parts
    | split
    | dsimp only
    | with_reducible apply parts_mk

theorem State.streamAsk_parts {M : Part → Prop} {z : State} {s : State} (h : Parts M z s) (i : Nat) (x : Stream) (opcode
    off n : Nat) (data : List Byte) (m_out : M .out) (m_free : M .free) (m_regs : M .regs) (m_events : M .events)
    (m_host : M .host) (m_links : M .links) (m_reservations : M .reservations) (m_opn : M .opn) (m_power : M .power)
    (m_answers : M .answers) (m_streams : M .streams) : Parts M z (State.streamAsk s i x opcode off n data) := by
  unfold State.streamAsk
  repeat' first
    | with_reducible assumption
    | with_reducible apply State.setStream_parts
    | with_reducible apply Served.count_parts
    | with_reducible apply State.inject_parts

theorem State.streamSend_parts {M : Part → Prop} {z : State} {s : State} (h : Parts M z s) (i : Nat) (x : Stream) (type
    seq : Nat) (body : List Byte) (m_free : M .free) (m_regs : M .regs) (m_events : M .events) (m_host : M .host) :
    Parts M z (State.streamSend s i x type seq body) := by
  unfold State.streamSend
  repeat' first
    | with_reducible assumption
    | with_reducible apply State.sendBulk_parts

theorem State.outStep_parts {M : Part → Prop} {z : State} {s : State} (h : Parts M z s) (i : Nat) (x : Stream) (m_out :
    M .out) (m_free : M .free) (m_regs : M .regs) (m_events : M .events) (m_host : M .host) (m_links : M .links)
    (m_reservations : M .reservations) (m_opn : M .opn) (m_power : M .power) (m_answers : M .answers) (m_streams : M
    .streams) : Parts M z (State.outStep s i x) := by
  unfold State.outStep
  repeat' first
    | with_reducible assumption
    | with_reducible apply State.streamSend_parts
    | with_reducible apply State.streamAsk_parts
    | with_reducible apply State.setStream_parts
    | split
    | dsimp only

theorem State.sendAck_parts {M : Part → Prop} {z : State} {s : State} (h : Parts M z s) (i : Nat) (x : Stream)
    (m_free : M .free) (m_regs : M .regs) (m_events : M .events) (m_host : M .host) :
    Parts M z (State.sendAck s i x) := by
  unfold State.sendAck
  repeat' first
    | with_reducible assumption
    | with_reducible apply State.streamSend_parts

theorem State.inStep_parts {M : Part → Prop} {z : State} {s : State} (h : Parts M z s) (i : Nat) (x : Stream) (m_out : M
    .out) (m_free : M .free) (m_regs : M .regs) (m_events : M .events) (m_host : M .host) (m_links : M .links)
    (m_reservations : M .reservations) (m_opn : M .opn) (m_power : M .power) (m_answers : M .answers) (m_streams : M
    .streams) : Parts M z (State.inStep s i x) := by
  unfold State.inStep
  repeat' first
    | with_reducible assumption
    | with_reducible apply State.sendAck_parts
    | with_reducible apply State.streamAsk_parts
    | with_reducible apply State.endStream_parts
    | with_reducible apply State.setStream_parts
    | split

theorem State.streamStep_parts {M : Part → Prop} {z : State} {s : State} (h : Parts M z s) (i : Nat) (m_out : M .out)
    (m_free : M .free) (m_regs : M .regs) (m_events : M .events) (m_host : M .host) (m_links : M .links) (m_reservations
    : M .reservations) (m_opn : M .opn) (m_power : M .power) (m_answers : M .answers) (m_streams : M .streams) : Parts M
    z (State.streamStep s i) := by
  unfold State.streamStep
  repeat' first
    | with_reducible assumption
    | with_reducible apply State.inStep_parts
    | with_reducible apply State.outStep_parts
    | with_reducible apply State.endStream_parts
    | split

theorem State.streamOpen_parts {M : Part → Prop} {z : State} {s : State} (h : Parts M z s) (sess : Nat) (y : Session) (e
    : Exec) (m_out : M .out) (m_free : M .free) (m_regs : M .regs) (m_events : M .events) (m_host : M .host) (m_links :
    M .links) (m_reservations : M .reservations) (m_opn : M .opn) (m_power : M .power) (m_sessions : M .sessions)
    (m_answers : M .answers) (m_streams : M .streams) : Parts M z (State.streamOpen s sess y e) := by
  unfold State.streamOpen
  repeat' first
    | with_reducible assumption
    | with_reducible apply State.streamStep_parts
    | with_reducible apply State.setStream_parts
    | with_reducible apply State.execDone_parts
    | with_reducible apply Served.count_parts
    | with_reducible apply State.wri_parts
    | split
    | dsimp only

theorem State.streamData_parts {M : Part → Prop} {z : State} {s : State} (h : Parts M z s) (i : Nat) (src : NetSrc) (m :
    List Byte) (m_out : M .out) (m_free : M .free) (m_regs : M .regs) (m_events : M .events) (m_host : M .host) (m_links
    : M .links) (m_reservations : M .reservations) (m_opn : M .opn) (m_power : M .power) (m_answers : M .answers)
    (m_streams : M .streams) : Parts M z (State.streamData s i src m) := by
  unfold State.streamData
  repeat' first
    | with_reducible assumption
    | with_reducible apply State.inStep_parts
    | with_reducible apply State.sendAck_parts
    | split
    | dsimp only

theorem State.streamAck_parts {M : Part → Prop} {z : State} {s : State} (h : Parts M z s) (i : Nat) (src : NetSrc)
    (acked : Nat) (m_out : M .out) (m_free : M .free) (m_regs : M .regs) (m_events : M .events) (m_host : M .host)
    (m_links : M .links) (m_reservations : M .reservations) (m_opn : M .opn) (m_power : M .power) (m_answers : M
    .answers) (m_streams : M .streams) : Parts M z (State.streamAck s i src acked) := by
  unfold State.streamAck
  repeat' first
    | with_reducible assumption
    | with_reducible apply State.streamStep_parts
    | with_reducible apply State.setStream_parts
    | split
    | dsimp only

theorem State.streamRto_parts {M : Part → Prop} {z : State} {s : State} (h : Parts M z s) (i : Nat) (m_out : M .out)
    (m_free : M .free) (m_regs : M .regs) (m_events : M .events) (m_host : M .host) (m_links : M .links) (m_reservations
    : M .reservations) (m_opn : M .opn) (m_power : M .power) (m_answers : M .answers) (m_streams : M .streams) : Parts M
    z (State.streamRto s i) := by
  unfold State.streamRto
  repeat' first
    | with_reducible assumption
    | with_reducible apply State.outStep_parts
    | split

theorem State.streamReply_parts {M : Part → Prop} {z : State} {s : State} (h : Parts M z s) (i : Nat) (f : Flit) (m_out
    : M .out) (m_free : M .free) (m_regs : M .regs) (m_events : M .events) (m_host : M .host) (m_links : M .links)
    (m_reservations : M .reservations) (m_opn : M .opn) (m_power : M .power) (m_answers : M .answers) (m_streams : M
    .streams) : Parts M z (State.streamReply s i f) := by
  unfold State.streamReply
  repeat' first
    | with_reducible exact Or.inr rfl
    | with_reducible exact Or.inr ⟨rfl, rfl, rfl, rfl, rfl⟩
    | with_reducible exact Or.inl (by assumption)
    | with_reducible assumption
    | with_reducible apply State.inStep_parts
    | with_reducible apply State.sendAck_parts
    | with_reducible apply State.outStep_parts
    | with_reducible apply State.endStream_parts
    | split
    | dsimp only
    | with_reducible apply parts_mk

theorem State.eventAck_parts {M : Part → Prop} {z : State} {s : State} (h : Parts M z s) (src : NetSrc) (seq : Nat)
    (m_events : M .events) : Parts M z (State.eventAck s src seq) := by
  unfold State.eventAck
  repeat' first
    | with_reducible exact Or.inr rfl
    | with_reducible exact Or.inr ⟨rfl, rfl, rfl, rfl, rfl⟩
    | with_reducible exact Or.inl (by assumption)
    | with_reducible assumption
    | intro _
    | split
    | dsimp only
    | with_reducible apply parts_mk

theorem State.evtRto_parts {M : Part → Prop} {z : State} {s : State} (h : Parts M z s) (m_free : M .free) (m_regs : M
    .regs) (m_events : M .events) (m_host : M .host) :
    Parts M z (State.evtRto s) := by
  unfold State.evtRto
  repeat' first
    | with_reducible assumption
    | with_reducible apply State.resendEvents_parts
    | split
    | dsimp only

theorem State.message_parts {M : Part → Prop} {z : State} {s : State} (h : Parts M z s) (src : NetSrc) (m : List Byte)
    (m_out : M .out) (m_free : M .free) (m_regs : M .regs) (m_events : M .events) (m_host : M .host) (m_links : M
    .links) (m_reservations : M .reservations) (m_opn : M .opn) (m_power : M .power) (m_sessions : M .sessions)
    (m_opening : M .opening) (m_answers : M .answers) (m_streams : M .streams) : Parts M z (State.message s src m) := by
  unfold State.message
  repeat' first
    | with_reducible exact Or.inr rfl
    | with_reducible exact Or.inr ⟨rfl, rfl, rfl, rfl, rfl⟩
    | with_reducible exact Or.inl (by assumption)
    | with_reducible assumption
    | with_reducible apply State.eventAck_parts
    | with_reducible apply State.streamAck_parts
    | with_reducible apply State.streamData_parts
    | with_reducible apply State.sessionRequest_parts
    | with_reducible apply State.refuse_parts
    | split
    | dsimp only
    | with_reducible apply parts_mk

theorem State.datagram_parts {M : Part → Prop} {z : State} {s : State} (h : Parts M z s) (src : NetSrc) (m : List Byte)
    (m_out : M .out) (m_free : M .free) (m_regs : M .regs) (m_events : M .events) (m_host : M .host) (m_links : M
    .links) (m_reservations : M .reservations) (m_opn : M .opn) (m_power : M .power) (m_sessions : M .sessions)
    (m_opening : M .opening) (m_answers : M .answers) (m_streams : M .streams) : Parts M z (State.datagram s src m) := by
  unfold State.datagram
  repeat' first
    | with_reducible assumption
    | with_reducible apply State.message_parts
    | with_reducible apply State.takeFrame_parts
    | with_reducible apply State.err_parts
    | with_reducible apply State.bump_parts
    | split

end Sys2Proof.Machine
end

