-- ==== Sys2Proof/Laws/PartsCommandWindow.lean ====
section
/-! SUPPORT. What the operations of CommandWindow.lean touch (Parts). -/

namespace Sys2Proof.Machine

open Sys2Proof

theorem State.cwDisable_parts {M : Part → Prop} {z : State} {s : State} (h : Parts M z s) (w errBit : Nat)
    (m_free : M .free) (m_regs : M .regs) (m_events : M .events) (m_host : M .host) :
    Parts M z (State.cwDisable s w errBit) := by
  unfold State.cwDisable
  repeat' first
    | with_reducible assumption
    | with_reducible apply State.err_parts
    | with_reducible apply State.put_parts

theorem State.cwRead_parts {M : Part → Prop} {z : State} {s : State} (h : Parts M z s) (off n : Nat) {x : Served} (e :
    s.cwRead off n = some x) (m_free : M .free) (m_regs : M .regs) (m_mem : M .mem) (m_events : M .events)
    (m_host : M .host) (m_arrays : M .arrays) (m_watch : M .watch) (m_atoms : M .atoms) :
    Parts M z x.st := by
  unfold State.cwRead at e
  dsimp only at e
  split at e
  · cases e
  · split at e
    · cases e
      exact Served.count_parts (x := { st := s, status := 8, data := [] }) h _ (m_free := m_free) (m_regs := m_regs)
          (m_events := m_events) (m_host := m_host)
    · cases e
      exact Served.count_parts (State.openRead_parts h _ _ _ (m_free := m_free) (m_regs := m_regs) (m_mem := m_mem)
          (m_events := m_events) (m_host := m_host) (m_arrays := m_arrays) (m_watch := m_watch) (m_atoms := m_atoms)) _
          (m_free := m_free) (m_regs := m_regs) (m_events := m_events) (m_host := m_host)

theorem State.cwWrite_parts {M : Part → Prop} {z : State} {s : State} (h : Parts M z s) (off : Nat) (l : List Byte)
    (m_free : M .free) (m_regs : M .regs) (m_mem : M .mem) (m_events : M .events) (m_host : M .host)
    (m_arrays : M .arrays) (m_watch : M .watch) (m_atoms : M .atoms) :
    Parts M z (State.cwWrite s off l) := by
  unfold State.cwWrite
  repeat' first
    | with_reducible assumption
    | with_reducible apply Served.count_parts
    | with_reducible apply State.openWrite_parts
    | split

theorem State.cwOpen_parts {M : Part → Prop} {z : State} {s : State} (h : Parts M z s) (w : Nat) {x : CmdWin × State} (e :
    s.cwOpen w = some x) (m_free : M .free) (m_regs : M .regs) (m_mem : M .mem) (m_events : M .events) (m_host : M .host)
    (m_arrays : M .arrays) (m_watch : M .watch) (m_atoms : M .atoms) :
    Parts M z x.2 := by
  unfold State.cwOpen at e
  split at e
  · cases e
    exact h
  · split at e
    · split at e
      · cases e
        exact State.cwRead_parts h _ _ (by assumption) (m_free := m_free) (m_regs := m_regs) (m_mem := m_mem)
            (m_events := m_events) (m_host := m_host) (m_arrays := m_arrays) (m_watch := m_watch) (m_atoms := m_atoms)
      · cases e
    · cases e

theorem cwTake_parts {M : Part → Prop} {z : State} (w : Nat) (m_free : M .free) (m_regs : M .regs) (m_mem : M .mem)
    (m_events : M .events) (m_host : M .host) (m_arrays : M .arrays) (m_watch : M .watch) (m_atoms : M .atoms) : ∀ (n j :
    Nat) {s : State} (_ : Parts M z s) (x : CmdWin),
    Parts M z (cwTake w n j s x).1
  | 0, _, _, h, _ => h
  | n + 1, j, s, h, x => by
    unfold cwTake
    split
    · exact h
    · exact cwTake_parts w n (j + 1) (State.cwRead_parts h _ _ (by assumption) (m_free := m_free) (m_regs := m_regs)
          (m_mem := m_mem) (m_events := m_events) (m_host := m_host) (m_arrays := m_arrays) (m_watch := m_watch)
          (m_atoms := m_atoms)) _ (m_free := m_free) (m_regs := m_regs) (m_mem := m_mem) (m_events := m_events)
          (m_host := m_host) (m_arrays := m_arrays) (m_watch := m_watch) (m_atoms := m_atoms)

theorem State.cwScan_parts {M : Part → Prop} {z : State} {s : State} (h : Parts M z s) (w : Nat) (m_free : M .free)
    (m_regs : M .regs) (m_mem : M .mem) (m_events : M .events) (m_host : M .host) (m_arrays : M .arrays)
    (m_watch : M .watch) (m_atoms : M .atoms) (m_windows : M .windows) :
    Parts M z (State.cwScan s w) := by
  unfold State.cwScan
  repeat' first
    | with_reducible assumption
    | with_reducible apply cwTake_parts
    | with_reducible apply State.setWindow_parts
    | with_reducible apply State.cwDisable_parts
    | with_reducible refine State.cwOpen_parts ?_ _ (by assumption) (m_free := m_free) (m_regs := m_regs) (m_mem := m_mem)
                         (m_events := m_events) (m_host := m_host) (m_arrays := m_arrays) (m_watch := m_watch)
                         (m_atoms := m_atoms)
    | with_reducible refine State.cwRead_parts ?_ _ _ (by assumption) (m_free := m_free) (m_regs := m_regs)
                         (m_mem := m_mem) (m_events := m_events) (m_host := m_host) (m_arrays := m_arrays)
                         (m_watch := m_watch) (m_atoms := m_atoms)
    | split
    | dsimp only

theorem State.scanMiss_parts {M : Part → Prop} {z : State} {s : State} (h : Parts M z s) (m_free : M .free) (m_regs : M
    .regs) (m_events : M .events) (m_host : M .host) (m_watch : M .watch) :
    Parts M z (State.scanMiss s) := by
  unfold State.scanMiss
  repeat' first
    | with_reducible assumption
    | with_reducible apply State.moduleFault_parts
    | with_reducible apply State.setWatch_parts
    | with_reducible apply State.err_parts
    | with_reducible apply State.bump_parts
    | split
    | dsimp only

theorem State.scanWindows_parts {M : Part → Prop} {z : State} {s : State} (h : Parts M z s) (m_free : M .free) (m_regs :
    M .regs) (m_mem : M .mem) (m_events : M .events) (m_host : M .host) (m_arrays : M .arrays) (m_watch : M .watch)
    (m_atoms : M .atoms) (m_windows : M .windows) :
    Parts M z (State.scanWindows s) := by
  unfold State.scanWindows
  repeat' first
    | with_reducible assumption
    | with_reducible apply State.scanMiss_parts
    | with_reducible apply State.cwStop_parts
    | with_reducible apply State.cwScan_parts
    | with_reducible apply State.setWatch_parts
    | with_reducible refine parts_foldl (fun t x ht => ?_) ?_
    | split
    | dsimp only

theorem State.cwRegWr_parts {M : Part → Prop} {z : State} {s : State} (h : Parts M z s) (r : List Byte) (m_out : M .out)
    (m_free : M .free) (m_regs : M .regs) (m_mem : M .mem) (m_events : M .events) (m_host : M .host)
    (m_belfry : M .belfry) (m_links : M .links) (m_d2d : M .d2d) (m_reservations : M .reservations) (m_routes : M .routes)
    (m_opn : M .opn) (m_arrays : M .arrays) (m_fst : M .fst) (m_watch : M .watch) (m_bankA : M .bankA)
    (m_bankB : M .bankB) (m_sched : M .sched) (m_runs : M .runs) (m_frozenNow : M .frozenNow) (m_atoms : M .atoms)
    (m_waiting : M .waiting) (m_movers : M .movers) (m_roundEnd : M .roundEnd) (m_tiles : M .tiles) (m_ueStep : M .ueStep)
    (m_keys : M .keys) (m_meas : M .meas) (m_scrub : M .scrub) (m_spots : M .spots) (m_margin : M .margin)
    (m_power : M .power) (m_fuses : M .fuses) (m_trust : M .trust) (m_sessions : M .sessions) (m_opening : M .opening)
    (m_answers : M .answers) (m_streams : M .streams) (m_windows : M .windows) :
    Parts M z (State.cwRegWr s r).1 := by
  unfold State.cwRegWr
  repeat' first
    | with_reducible assumption
    | with_reducible apply State.ask_parts

theorem State.cwMove_parts {M : Part → Prop} {z : State} {s : State} (h : Parts M z s) (r : List Byte) (m_out : M .out)
    (m_free : M .free) (m_regs : M .regs) (m_events : M .events) (m_host : M .host) (m_links : M .links) (m_reservations
    : M .reservations) (m_opn : M .opn) (m_movers : M .movers) (m_power : M .power) (m_answers : M .answers) : Parts M z
    (State.cwMove s r).1 := by
  unfold State.cwMove
  repeat' first
    | with_reducible assumption
    | with_reducible apply State.moverWrite_parts

theorem State.cwPlanLoad_parts {M : Part → Prop} {z : State} {s : State} (h : Parts M z s) (r : List Byte)
    (m_free : M .free) (m_regs : M .regs) (m_events : M .events) (m_host : M .host) (m_opn : M .opn) (m_fst : M .fst)
    (m_bankA : M .bankA) (m_bankB : M .bankB) (m_sched : M .sched) (m_meas : M .meas) :
    Parts M z (State.cwPlanLoad s r).1 := by
  unfold State.cwPlanLoad
  repeat' first
    | with_reducible assumption
    | with_reducible apply State.planLoad_parts
    | with_reducible apply State.wrs_parts

theorem State.cwPlanSwitch_parts {M : Part → Prop} {z : State} {s : State} (h : Parts M z s) (r : List Byte)
    (m_free : M .free) (m_regs : M .regs) (m_events : M .events) (m_host : M .host) (m_watch : M .watch)
    (m_sched : M .sched) (m_tiles : M .tiles) :
    Parts M z (State.cwPlanSwitch s r).1 := by
  unfold State.cwPlanSwitch
  repeat' first
    | with_reducible assumption
    | with_reducible apply State.armSwitch_parts

theorem State.cwStart_parts {M : Part → Prop} {z : State} {s : State} (h : Parts M z s) (w op : Nat) (act : State → List
    Byte → State × CwWait)
    (ha : ∀ t r, Parts M z t → Parts M z (act t r).1) (m_windows : M .windows) : Parts M z (State.cwStart s w op act) := by
  unfold State.cwStart
  split
  · exact h
  · split
    · split
      · exact State.cwStop_parts h w (m_windows := m_windows)
      · split
        · exact h
        · dsimp only
          refine State.setWindow_parts ?_ _ _ (m_windows := m_windows)
          split
          · exact h
          · exact ha _ _ h
    · exact h

theorem State.cwEnded_parts {M : Part → Prop} {z : State} {s : State} (h : Parts M z s) (c : CwWait) {x : Nat × Nat × State}
    (e : s.cwEnded c = some x) (m_answers : M .answers) : Parts M z x.2.2 := by
  unfold State.cwEnded at e
  split at e
  · cases e
    exact h
  · rw [Option.map_eq_some_iff] at e
    obtain ⟨y, hy, rfl⟩ := e
    exact State.takeAnswer_parts h _ hy (m_answers := m_answers)
  · split at e
    · cases e
      exact h
    · split at e
      · cases e
        exact h
      · cases e
  · split at e
    · cases e
      exact h
    · split at e
      · cases e
        exact h
      · cases e

theorem State.cwEnded_next_parts {M : Part → Prop} {z : State} {s t : State} {c : CwWait} {a b : Nat} (h : Parts M z s)
    (e : s.cwEnded c = some (a, b, t)) (m_answers : M .answers) : Parts M z t := State.cwEnded_parts h c e m_answers

theorem State.cwComplete_parts {M : Part → Prop} {z : State} {s : State} (h : Parts M z s) (w : Nat) (m_free : M .free)
    (m_regs : M .regs) (m_mem : M .mem) (m_events : M .events) (m_host : M .host) (m_arrays : M .arrays) (m_watch : M
    .watch) (m_atoms : M .atoms) (m_answers : M .answers) (m_windows : M .windows) :
    Parts M z (State.cwComplete s w) := by
  unfold State.cwComplete
  repeat' first
    | with_reducible assumption
    | with_reducible refine State.cwEnded_next_parts ?_ (by assumption) (by assumption)
    | with_reducible apply State.cwWrite_parts
    | with_reducible apply State.setWindow_parts
    | with_reducible apply State.eventE_parts
    | with_reducible apply State.bumpi_parts
    | split
    | dsimp only

end Sys2Proof.Machine
end

