-- ==== Sys2Proof/Laws/PartsBoundary.lean ====
section
/-! SUPPORT. What the operations of Boundary.lean touch (Parts). -/

namespace Sys2Proof.Machine

open Sys2Proof

theorem State.idleAborted_parts {M : Part → Prop} {z : State} {s : State} (h : Parts M z s) (m_regs : M .regs) :
    Parts M z (State.idleAborted s) := by
  unfold State.idleAborted
  repeat' first
    | with_reducible assumption
    | with_reducible apply State.unitState_parts
    | with_reducible refine parts_foldl (fun t x ht => ?_) ?_
    | split

theorem State.showCost_parts {M : Part → Prop} {z : State} {s : State} (h : Parts M z s) (p : PlanTick) (u : Nat × Nat)
    (m_regs : M .regs) :
    Parts M z (State.showCost s p u) := by
  unfold State.showCost
  repeat' first
    | with_reducible assumption
    | with_reducible apply State.wr_parts
    | split
    | dsimp only

theorem State.unfinished_parts {M : Part → Prop} {z : State} {s : State} (h : Parts M z s) (u : Nat × Nat) (m_free : M
    .free) (m_regs : M .regs) (m_mem : M .mem) (m_events : M .events) (m_host : M .host) (m_belfry : M .belfry)
    (m_arrays : M .arrays) (m_watch : M .watch) (m_sched : M .sched) (m_runs : M .runs) (m_ueStep : M .ueStep) : Parts M
    z (State.unfinished s u) := by
  unfold State.unfinished
  repeat' first
    | with_reducible assumption
    | with_reducible apply State.ueAbandon_parts
    | with_reducible apply State.abortUnit_parts
    | with_reducible apply State.overrun_parts
    | with_reducible refine parts_foldl (fun t x ht => ?_) ?_
    | with_reducible refine parts_foldl_1 (fun t x ht => ?_) ?_
    | with_reducible refine parts_foldl_2 (fun t x ht => ?_) ?_
    | with_reducible refine parts_foldl_3 (fun t x ht => ?_) ?_
    | split
    | dsimp only

theorem State.workOverruns_parts {M : Part → Prop} {z : State} {s : State} (h : Parts M z s) (m_free : M .free) (m_regs
    : M .regs) (m_mem : M .mem) (m_events : M .events) (m_host : M .host) (m_belfry : M .belfry) (m_arrays : M .arrays)
    (m_watch : M .watch) (m_sched : M .sched) (m_runs : M .runs) (m_ueStep : M .ueStep) : Parts M z (State.workOverruns
    s) := by
  unfold State.workOverruns
  repeat' first
    | with_reducible assumption
    | with_reducible apply State.unfinished_parts
    | with_reducible refine parts_foldl (fun t x ht => ?_) ?_
    | with_reducible refine parts_foldl_1 (fun t x ht => ?_) ?_
    | with_reducible refine parts_foldl_2 (fun t x ht => ?_) ?_
    | with_reducible refine parts_foldl_3 (fun t x ht => ?_) ?_
    | split
    | dsimp only

theorem State.countSilence_parts {M : Part → Prop} {z : State} {s : State} (h : Parts M z s) (m_belfry : M .belfry) :
    Parts M z (State.countSilence s) := by
  unfold State.countSilence
  repeat' first
    | with_reducible assumption
    | with_reducible apply State.setBelfry_parts

theorem State.endTick_parts {M : Part → Prop} {z : State} {s : State} (h : Parts M z s) (m_out : M .out) (m_free : M
    .free) (m_regs : M .regs) (m_mem : M .mem) (m_events : M .events) (m_host : M .host) (m_belfry : M .belfry) (m_links
    : M .links) (m_arrays : M .arrays) (m_watch : M .watch) (m_sched : M .sched) (m_runs : M .runs) (m_tiles : M .tiles)
    (m_ueStep : M .ueStep) (m_spots : M .spots) : Parts M z (State.endTick s) := by
  unfold State.endTick
  repeat' first
    | with_reducible assumption
    | with_reducible apply State.countSilence_parts
    | with_reducible apply State.workOverruns_parts
    | with_reducible apply State.showCost_parts
    | with_reducible apply State.idleAborted_parts
    | with_reducible apply State.tails_parts
    | with_reducible apply State.prefetchDue_parts
    | with_reducible apply State.tileEnd_parts
    | with_reducible apply State.slackOverruns_parts
    | with_reducible apply State.consumeAll_parts
    | with_reducible refine parts_foldl (fun t x ht => ?_) ?_
    | split
    | dsimp only

theorem State.fillOverrun_parts {M : Part → Prop} {z : State} {s : State} (h : Parts M z s) (p : PlanTick) (n : Nat) (o :
    Overrun) (m_free : M .free) (m_regs : M .regs) (m_events : M .events) (m_host : M .host) :
    Parts M z (State.fillOverrun s p n o) := by
  unfold State.fillOverrun
  repeat' first
    | with_reducible assumption
    | with_reducible apply State.eventE_parts
    | with_reducible apply State.wrs_parts

theorem State.commitOverruns_parts {M : Part → Prop} {z : State} {s : State} (h : Parts M z s) (p : PlanTick) (m_free :
    M .free) (m_regs : M .regs) (m_events : M .events) (m_host : M .host) (m_belfry : M .belfry) (m_watch : M .watch) :
    Parts M z (State.commitOverruns s p) := by
  unfold State.commitOverruns
  repeat' first
    | with_reducible assumption
    | with_reducible apply State.fillOverrun_parts
    | with_reducible apply State.tickFault_parts
    | with_reducible apply State.err_parts
    | with_reducible apply State.wr_parts
    | with_reducible apply State.again_parts
    | with_reducible apply State.setBelfry_parts
    | split
    | dsimp only

theorem State.turnTick_parts {M : Part → Prop} {z : State} {s : State} (h : Parts M z s) (m_regs : M .regs) (m_belfry :
    M .belfry) :
    Parts M z (State.turnTick s) := by
  unfold State.turnTick
  repeat' first
    | with_reducible assumption
    | with_reducible apply State.wr_parts
    | with_reducible apply State.setBelfry_parts
    | split
    | dsimp only

theorem State.setJoined_parts {M : Part → Prop} {z : State} {s : State} (h : Parts M z s) (m_regs : M .regs) (m_belfry :
    M .belfry) (m_watch : M .watch) :
    Parts M z (State.setJoined s) := by
  unfold State.setJoined
  repeat' first
    | with_reducible assumption
    | with_reducible apply State.setWatch_parts
    | with_reducible apply State.wrb_parts
    | with_reducible apply State.wri_parts
    | with_reducible apply State.setBelfry_parts
    | with_reducible refine parts_foldl (fun t x ht => ?_) ?_
    | split
    | dsimp only

theorem State.turnJoin_parts {M : Part → Prop} {z : State} {s : State} (h : Parts M z s) (m_regs : M .regs) (m_belfry :
    M .belfry) (m_watch : M .watch) :
    Parts M z (State.turnJoin s) := by
  unfold State.turnJoin
  repeat' first
    | with_reducible assumption
    | with_reducible apply State.setJoined_parts
    | with_reducible apply State.wr_parts
    | with_reducible apply State.setBelfry_parts
    | split
    | dsimp only

theorem State.turnSched_parts {M : Part → Prop} {z : State} {s : State} (h : Parts M z s) (p : PlanTick) (m_regs : M
    .regs) (m_arrays : M .arrays) (m_sched : M .sched) :
    Parts M z (State.turnSched s p) := by
  unfold State.turnSched
  repeat' first
    | with_reducible assumption
    | with_reducible apply State.wr_parts
    | with_reducible apply State.setSched_parts
    | with_reducible apply State.setBankState_parts
    | with_reducible apply State.setArrays_parts
    | split
    | dsimp only

theorem State.enChange_parts {M : Part → Prop} {z : State} {s : State} (h : Parts M z s) (p : PageId) (on : Bool) (m_out
    : M .out) (m_free : M .free) (m_regs : M .regs) (m_events : M .events) (m_host : M .host) (m_links : M .links)
    (m_opn : M .opn) (m_power : M .power) (m_streams : M .streams) : Parts M z (State.enChange s p on) := by
  unfold State.enChange
  repeat' first
    | with_reducible assumption
    | with_reducible apply State.hostLinkDown_parts
    | with_reducible apply State.wakeEn_parts
    | with_reducible apply State.downLink_parts
    | with_reducible apply State.tryStart_parts
    | split

theorem State.commitField_parts {M : Part → Prop} {z : State} {s : State} (h : Parts M z s) (k : RegKey) (v : Nat)
    (m_out : M .out) (m_free : M .free) (m_regs : M .regs) (m_events : M .events) (m_host : M .host) (m_links : M
    .links) (m_opn : M .opn) (m_power : M .power) (m_streams : M .streams) : Parts M z (State.commitField s k v) := by
  unfold State.commitField
  repeat' first
    | with_reducible assumption
    | with_reducible apply State.enChange_parts
    | with_reducible apply State.put_parts
    | split
    | dsimp only

theorem State.commitStaged_parts {M : Part → Prop} {z : State} {s : State} (h : Parts M z s) (m_out : M .out) (m_free :
    M .free) (m_regs : M .regs) (m_events : M .events) (m_host : M .host) (m_links : M .links) (m_opn : M .opn) (m_power
    : M .power) (m_streams : M .streams) : Parts M z (State.commitStaged s) := by
  unfold State.commitStaged
  repeat' first
    | with_reducible exact Or.inr rfl
    | with_reducible exact Or.inr ⟨rfl, rfl, rfl, rfl, rfl⟩
    | with_reducible exact Or.inl (by assumption)
    | with_reducible assumption
    | with_reducible apply State.commitField_parts
    | with_reducible refine parts_foldl (fun t x ht => ?_) ?_
    | dsimp only
    | with_reducible apply parts_mk

theorem State.settlePeriod_parts {M : Part → Prop} {z : State} {s : State} (h : Parts M z s) (img : Option (List Byte))
    (trim : Int) (m_free : M .free) (m_regs : M .regs) (m_events : M .events) (m_host : M .host) (m_belfry : M .belfry)
    (m_watch : M .watch) :
    Parts M z (State.settlePeriod s img trim) := by
  unfold State.settlePeriod
  repeat' first
    | with_reducible exact Or.inr rfl
    | with_reducible exact Or.inr ⟨rfl, rfl, rfl, rfl, rfl⟩
    | with_reducible exact Or.inl (by assumption)
    | with_reducible assumption
    | with_reducible apply State.configFault_parts
    | with_reducible apply State.err_parts
    | with_reducible apply State.wr_parts
    | with_reducible apply State.put_parts
    | with_reducible apply State.setBelfry_parts
    | split
    | dsimp only
    | with_reducible apply parts_mk

theorem State.dropWork_parts {M : Part → Prop} {z : State} {s : State} (h : Parts M z s) (m_regs : M .regs)
    (m_sched : M .sched) (m_runs : M .runs) :
    Parts M z (State.dropWork s) := by
  unfold State.dropWork
  repeat' first
    | with_reducible exact Or.inr rfl
    | with_reducible exact Or.inr ⟨rfl, rfl, rfl, rfl, rfl⟩
    | with_reducible exact Or.inl (by assumption)
    | with_reducible assumption
    | with_reducible apply State.unitState_parts
    | with_reducible apply State.setSched_parts
    | with_reducible refine parts_foldl (fun t x ht => ?_) ?_
    | dsimp only
    | with_reducible apply parts_mk

theorem State.bankSwitch_parts {M : Part → Prop} {z : State} {s : State} (h : Parts M z s) (m_regs : M .regs)
    (m_watch : M .watch) (m_sched : M .sched) (m_runs : M .runs) :
    Parts M z (State.bankSwitch s) := by
  unfold State.bankSwitch
  repeat' first
    | with_reducible assumption
    | with_reducible apply State.dropWork_parts
    | with_reducible apply State.setSched_parts
    | with_reducible apply State.setBankState_parts
    | with_reducible apply State.setWatch_parts
    | with_reducible apply State.wrs_parts
    | with_reducible apply State.wr_parts
    | with_reducible refine parts_foldl (fun t x ht => ?_) ?_

theorem State.planSwitch_parts {M : Part → Prop} {z : State} {s : State} (h : Parts M z s) (fits : Bool)
    (m_free : M .free) (m_regs : M .regs) (m_events : M .events) (m_host : M .host) (m_watch : M .watch)
    (m_sched : M .sched) (m_runs : M .runs) :
    Parts M z (State.planSwitch s fits) := by
  unfold State.planSwitch
  repeat' first
    | with_reducible assumption
    | with_reducible apply State.bankSwitch_parts
    | with_reducible apply State.configFault_parts
    | with_reducible apply State.err_parts
    | with_reducible apply State.wr_parts
    | split

theorem State.sendMarkers_parts {M : Part → Prop} {z : State} {s : State} (h : Parts M z s) (m_out : M .out) (m_links :
    M .links) :
    Parts M z (State.sendMarkers s) := by
  unfold State.sendMarkers
  repeat' first
    | with_reducible assumption
    | with_reducible apply State.sendFlit_parts
    | with_reducible refine parts_foldl (fun t x ht => ?_) ?_
    | split
    | dsimp only

theorem State.earlyMarkers_parts {M : Part → Prop} {z : State} {s : State} (h : Parts M z s) (m_out : M .out) (m_free :
    M .free) (m_regs : M .regs) (m_events : M .events) (m_host : M .host) (m_belfry : M .belfry) (m_links : M .links)
    (m_watch : M .watch) : Parts M z (State.earlyMarkers s) := by
  unfold State.earlyMarkers
  repeat' first
    | with_reducible assumption
    | with_reducible apply State.markerCompare_parts
    | with_reducible apply State.setBelfry_parts
    | with_reducible refine parts_foldl (fun t x ht => ?_) ?_
    | with_reducible refine parts_foldl_1 (fun t x ht => ?_) ?_
    | with_reducible refine parts_foldl_2 (fun t x ht => ?_) ?_
    | with_reducible refine parts_foldl_3 (fun t x ht => ?_) ?_
    | split
    | dsimp only

theorem State.reportRaised_parts {M : Part → Prop} {z : State} {s : State} (h : Parts M z s) (td : Nat) (m_out : M .out)
    (m_links : M .links) (m_watch : M .watch) : Parts M z (State.reportRaised s td) := by
  unfold State.reportRaised
  repeat' first
    | with_reducible assumption
    | with_reducible apply State.reportSelf_parts
    | with_reducible apply State.setWatch_parts
    | with_reducible refine parts_foldl (fun t x ht => ?_) ?_

theorem State.reportSilent_parts {M : Part → Prop} {z : State} {s : State} (h : Parts M z s) (td : Nat) (m_out : M .out)
    (m_free : M .free) (m_regs : M .regs) (m_events : M .events) (m_host : M .host) (m_belfry : M .belfry) (m_links : M
    .links) (m_watch : M .watch) : Parts M z (State.reportSilent s td) := by
  unfold State.reportSilent
  repeat' first
    | with_reducible assumption
    | with_reducible apply State.holdReport_parts
    | with_reducible apply State.err_parts
    | with_reducible apply State.setBelfry_parts
    | with_reducible apply State.put_parts
    | with_reducible refine parts_foldl (fun t x ht => ?_) ?_
    | split

theorem State.watchActs_parts {M : Part → Prop} {z : State} {s : State} (h : Parts M z s) (m_out : M .out) (m_free : M
    .free) (m_regs : M .regs) (m_mem : M .mem) (m_events : M .events) (m_host : M .host) (m_links : M .links)
    (m_reservations : M .reservations) (m_opn : M .opn) (m_arrays : M .arrays) (m_fst : M .fst) (m_watch : M .watch)
    (m_bankA : M .bankA) (m_bankB : M .bankB) (m_sched : M .sched) (m_runs : M .runs) (m_movers : M .movers) (m_tiles :
    M .tiles) (m_meas : M .meas) (m_power : M .power) (m_answers : M .answers) : Parts M z (State.watchActs s) := by
  unfold State.watchActs
  repeat' first
    | with_reducible assumption
    | with_reducible apply State.switchTick_parts
    | with_reducible apply State.takeCommands_parts
    | with_reducible apply State.decide_parts
    | with_reducible apply State.autoResume_parts

theorem State.turnStep_parts {M : Part → Prop} {z : State} {s : State} (h : Parts M z s) (marked seed : Bool)
    (m_regs : M .regs) (m_belfry : M .belfry) :
    Parts M z (State.turnStep s marked seed) := by
  unfold State.turnStep
  repeat' first
    | with_reducible assumption
    | with_reducible apply State.setBelfry_parts
    | with_reducible apply State.wrb_parts
    | with_reducible apply State.wri_parts
    | with_reducible refine parts_foldl (fun t x ht => ?_) ?_
    | split

theorem State.startReplay_parts {M : Part → Prop} {z : State} {s : State} (h : Parts M z s) (m_regs : M .regs)
    (m_watch : M .watch) (m_sched : M .sched) :
    Parts M z (State.startReplay s) := by
  unfold State.startReplay
  repeat' first
    | with_reducible assumption
    | with_reducible apply State.srReplay_parts
    | with_reducible apply State.setSched_parts
    | with_reducible apply State.setWatch_parts
    | with_reducible apply State.wr_parts

theorem State.stepOn_parts {M : Part → Prop} {z : State} {s : State} (h : Parts M z s) (m_free : M .free)
    (m_regs : M .regs) (m_events : M .events) (m_host : M .host) (m_watch : M .watch) (m_sched : M .sched)
    (m_runs : M .runs) :
    Parts M z (State.stepOn s) := by
  unfold State.stepOn
  repeat' first
    | with_reducible assumption
    | with_reducible apply State.startReplay_parts
    | with_reducible apply State.dropWork_parts
    | with_reducible apply State.takeVariant_parts
    | with_reducible apply State.trainStep_parts
    | with_reducible apply State.setSched_parts
    | with_reducible apply State.wr_parts
    | split

theorem State.stepSkipped_parts {M : Part → Prop} {z : State} {s : State} (h : Parts M z s) (m_regs : M .regs)
    (m_belfry : M .belfry) :
    Parts M z (State.stepSkipped s) := by
  unfold State.stepSkipped
  repeat' first
    | with_reducible assumption
    | with_reducible apply State.srSkip_parts
    | with_reducible apply State.bump_parts

theorem State.startRun_parts {M : Part → Prop} {z : State} {s : State} (h : Parts M z s) (p : PlanTick) (m : List Byte)
    (a : ActionRec) (m_regs : M .regs) (m_runs : M .runs) :
    Parts M z (State.startRun s p m a) := by
  unfold State.startRun
  repeat' first
    | with_reducible exact Or.inr rfl
    | with_reducible exact Or.inr ⟨rfl, rfl, rfl, rfl, rfl⟩
    | with_reducible exact Or.inl (by assumption)
    | with_reducible assumption
    | with_reducible apply State.wr_parts
    | split
    | dsimp only
    | with_reducible apply parts_mk

theorem State.showRunning_parts {M : Part → Prop} {z : State} {s : State} (h : Parts M z s) (was : List (Nat × Nat))
    (m_regs : M .regs) :
    Parts M z (State.showRunning s was) := by
  unfold State.showRunning
  repeat' first
    | with_reducible assumption
    | with_reducible apply State.unitState_parts
    | with_reducible refine parts_foldl (fun t x ht => ?_) ?_
    | split

theorem State.startRuns_parts {M : Part → Prop} {z : State} {s : State} (h : Parts M z s) (p : PlanTick) (m : List Byte)
    (m_regs : M .regs) (m_runs : M .runs) :
    Parts M z (State.startRuns s p m) := by
  unfold State.startRuns
  repeat' first
    | with_reducible exact Or.inr rfl
    | with_reducible exact Or.inr ⟨rfl, rfl, rfl, rfl, rfl⟩
    | with_reducible exact Or.inl (by assumption)
    | with_reducible assumption
    | with_reducible apply State.showRunning_parts
    | with_reducible apply State.startRun_parts
    | with_reducible refine parts_foldl (fun t x ht => ?_) ?_
    | split
    | dsimp only
    | with_reducible apply parts_mk

theorem State.showClaims_parts {M : Part → Prop} {z : State} {s : State} (h : Parts M z s) (p : PlanTick) (m : List
    Byte) (m_regs : M .regs) :
    Parts M z (State.showClaims s p m) := by
  unfold State.showClaims
  repeat' first
    | with_reducible assumption
    | with_reducible apply State.wr_parts
    | with_reducible refine parts_foldl (fun t x ht => ?_) ?_
    | split
    | dsimp only

theorem State.startWork_parts {M : Part → Prop} {z : State} {s : State} (h : Parts M z s) (m_out : M .out) (m_free : M
    .free) (m_regs : M .regs) (m_events : M .events) (m_host : M .host) (m_links : M .links) (m_sched : M .sched)
    (m_runs : M .runs) (m_frozenNow : M .frozenNow) (m_tiles : M .tiles) (m_spots : M .spots) :
    Parts M z (State.startWork s) := by
  unfold State.startWork
  repeat' first
    | with_reducible exact Or.inr rfl
    | with_reducible exact Or.inr ⟨rfl, rfl, rfl, rfl, rfl⟩
    | with_reducible exact Or.inl (by assumption)
    | with_reducible assumption
    | with_reducible apply State.showClaims_parts
    | with_reducible apply State.startRuns_parts
    | with_reducible apply State.countWb_parts
    | with_reducible apply State.tileStart_parts
    | with_reducible apply State.serviceBodies_parts
    | with_reducible apply State.countOut_parts
    | with_reducible apply State.sendStaged_parts
    | with_reducible apply State.recheckEarly_parts
    | with_reducible refine parts_foldl (fun t x ht => ?_) ?_
    | split
    | dsimp only
    | with_reducible apply parts_mk

theorem State.cfgMismatch_parts {M : Part → Prop} {z : State} {s : State} (h : Parts M z s) (m_out : M .out) (m_free : M
    .free) (m_regs : M .regs) (m_events : M .events) (m_host : M .host) (m_links : M .links) (m_opn : M .opn) (m_watch :
    M .watch) (m_sched : M .sched) : Parts M z (State.cfgMismatch s) := by
  unfold State.cfgMismatch
  repeat' first
    | with_reducible assumption
    | with_reducible apply State.failLink_parts
    | with_reducible apply State.err_parts
    | with_reducible refine parts_foldl (fun t x ht => ?_) ?_
    | split

theorem State.cfgCompare_parts {M : Part → Prop} {z : State} {s : State} (h : Parts M z s) (m_out : M .out) (m_free : M
    .free) (m_regs : M .regs) (m_events : M .events) (m_host : M .host) (m_belfry : M .belfry) (m_links : M .links)
    (m_opn : M .opn) (m_watch : M .watch) (m_sched : M .sched) : Parts M z (State.cfgCompare s) := by
  unfold State.cfgCompare
  repeat' first
    | with_reducible assumption
    | with_reducible apply State.cfgMismatch_parts
    | with_reducible apply State.tryStart_parts
    | with_reducible apply State.setBelfry_parts
    | with_reducible refine parts_foldl (fun t x ht => ?_) ?_
    | split
    | dsimp only

theorem State.takeFlips_parts {M : Part → Prop} {z : State} {s : State} (h : Parts M z s) (m_regs : M .regs)
    (m_routes : M .routes) :
    Parts M z (State.takeFlips s) := by
  unfold State.takeFlips
  repeat' first
    | with_reducible assumption
    | with_reducible apply State.takeFlip_parts
    | with_reducible refine parts_foldl (fun t x ht => ?_) ?_
    | split

theorem State.timeouts_parts {M : Part → Prop} {z : State} {s : State} (h : Parts M z s) (m_out : M .out) (m_free : M
    .free) (m_regs : M .regs) (m_events : M .events) (m_host : M .host) (m_links : M .links) (m_reservations : M
    .reservations) (m_opn : M .opn) (m_answers : M .answers) : Parts M z (State.timeouts s) := by
  unfold State.timeouts
  repeat' first
    | with_reducible assumption
    | with_reducible apply State.timeoutResv_parts
    | with_reducible refine parts_foldl (fun t x ht => ?_) ?_
    | split

theorem State.mergePlan_parts {M : Part → Prop} {z : State} {s : State} (h : Parts M z s) (m_arrays : M .arrays) :
    Parts M z (State.mergePlan s) := by
  unfold State.mergePlan
  repeat' first
    | with_reducible assumption
    | with_reducible apply State.mergeFree_parts
    | with_reducible refine parts_foldl (fun t x ht => ?_) ?_

theorem State.serveWaiting_parts {M : Part → Prop} {z : State} {s : State} (h : Parts M z s) (m_out : M .out)
    (m_free : M .free) (m_regs : M .regs) (m_mem : M .mem) (m_events : M .events) (m_host : M .host)
    (m_belfry : M .belfry) (m_links : M .links) (m_d2d : M .d2d) (m_reservations : M .reservations) (m_routes : M .routes)
    (m_opn : M .opn) (m_arrays : M .arrays) (m_fst : M .fst) (m_watch : M .watch) (m_bankA : M .bankA)
    (m_bankB : M .bankB) (m_sched : M .sched) (m_runs : M .runs) (m_frozenNow : M .frozenNow) (m_atoms : M .atoms)
    (m_waiting : M .waiting) (m_movers : M .movers) (m_roundEnd : M .roundEnd) (m_tiles : M .tiles) (m_ueStep : M .ueStep)
    (m_keys : M .keys) (m_meas : M .meas) (m_scrub : M .scrub) (m_spots : M .spots) (m_margin : M .margin)
    (m_power : M .power) (m_fuses : M .fuses) (m_trust : M .trust) (m_sessions : M .sessions) (m_opening : M .opening)
    (m_answers : M .answers) (m_streams : M .streams) (m_windows : M .windows) :
    Parts M z (State.serveWaiting s) := by
  unfold State.serveWaiting
  repeat' first
    | with_reducible assumption
    | with_reducible apply State.performWaiting_parts
    | with_reducible refine parts_foldl (fun t x ht => ?_) ?_

theorem State.streamsOn_parts {M : Part → Prop} {z : State} {s : State} (h : Parts M z s) (m_out : M .out) (m_free : M
    .free) (m_regs : M .regs) (m_events : M .events) (m_host : M .host) (m_links : M .links) (m_reservations : M
    .reservations) (m_opn : M .opn) (m_power : M .power) (m_answers : M .answers) (m_streams : M .streams) : Parts M z
    (State.streamsOn s) := by
  unfold State.streamsOn
  repeat' first
    | with_reducible assumption
    | with_reducible apply State.streamStep_parts
    | with_reducible refine parts_foldl (fun t x ht => ?_) ?_

theorem State.creditWaits_parts {M : Part → Prop} {z : State} {s : State} (h : Parts M z s) (m_out : M .out) (m_free : M
    .free) (m_regs : M .regs) (m_events : M .events) (m_host : M .host) (m_links : M .links) :
    Parts M z (State.creditWaits s) := by
  unfold State.creditWaits
  repeat' first
    | with_reducible assumption
    | with_reducible apply State.tryCredit_parts
    | with_reducible refine parts_foldl (fun t x ht => ?_) ?_
    | split
    | dsimp only

theorem State.quarDown_parts {M : Part → Prop} {z : State} {s : State} (h : Parts M z s) (d : Nat) (m_out : M .out)
    (m_free : M .free) (m_regs : M .regs) (m_mem : M .mem) (m_events : M .events) (m_host : M .host) (m_links : M
    .links) (m_opn : M .opn) (m_arrays : M .arrays) (m_watch : M .watch) (m_atoms : M .atoms) (m_power : M .power)
    (m_streams : M .streams) :
    Parts M z (State.quarDown s d) := by
  unfold State.quarDown
  repeat' first
    | with_reducible assumption
    | with_reducible apply State.hostLinkDown_parts
    | with_reducible apply State.sleepDom_parts
    | with_reducible apply State.downLink_parts
    | split
    | dsimp only

theorem State.quarDowns_parts {M : Part → Prop} {z : State} {s : State} (h : Parts M z s) (m_out : M .out) (m_free : M
    .free) (m_regs : M .regs) (m_mem : M .mem) (m_events : M .events) (m_host : M .host) (m_links : M .links) (m_opn : M
    .opn) (m_arrays : M .arrays) (m_watch : M .watch) (m_atoms : M .atoms) (m_power : M .power) (m_streams : M .streams)
    :
    Parts M z (State.quarDowns s) := by
  unfold State.quarDowns
  repeat' first
    | with_reducible assumption
    | with_reducible apply State.quarDown_parts
    | with_reducible refine parts_foldl (fun t x ht => ?_) ?_
    | split
    | dsimp only

theorem State.unitsTurn_parts {M : Part → Prop} {z : State} {s : State} (h : Parts M z s) (m_out : M .out) (m_free : M
    .free) (m_regs : M .regs) (m_mem : M .mem) (m_events : M .events) (m_host : M .host) (m_belfry : M .belfry) (m_links
    : M .links) (m_d2d : M .d2d) (m_reservations : M .reservations) (m_routes : M .routes) (m_opn : M .opn) (m_arrays :
    M .arrays) (m_fst : M .fst) (m_watch : M .watch) (m_bankA : M .bankA) (m_bankB : M .bankB) (m_sched : M .sched)
    (m_runs : M .runs) (m_frozenNow : M .frozenNow) (m_atoms : M .atoms) (m_waiting : M .waiting) (m_movers : M .movers)
    (m_roundEnd : M .roundEnd) (m_tiles : M .tiles) (m_ueStep : M .ueStep) (m_keys : M .keys) (m_meas : M .meas)
    (m_scrub : M .scrub) (m_spots : M .spots) (m_margin : M .margin) (m_power : M .power) (m_fuses : M .fuses) (m_trust
    : M .trust) (m_sessions : M .sessions) (m_opening : M .opening) (m_answers : M .answers) (m_streams : M .streams)
    (m_windows : M .windows) :
    Parts M z (State.unitsTurn s) := by
  unfold State.unitsTurn
  repeat' first
    | with_reducible assumption
    | with_reducible apply State.quarDowns_parts
    | with_reducible apply State.creditWaits_parts
    | with_reducible apply State.serveWaiting_parts
    | with_reducible apply State.mergePlan_parts
    | with_reducible apply State.timeouts_parts
    | with_reducible apply State.takeFlips_parts
    | with_reducible apply State.cfgCompare_parts
    | with_reducible apply State.throttleIssue_parts
    | with_reducible apply State.placeDoms_parts
    | with_reducible apply State.atomIdles_parts
    | with_reducible apply State.drain_parts
    | with_reducible apply State.pageResets_parts
    | with_reducible apply State.declareAll_parts
    | with_reducible apply State.spotArm_parts
    | split
    | dsimp only

theorem State.turn_parts {M : Part → Prop} {z : State} {s : State} (h : Parts M z s) (p : PlanTick) (m_out : M .out)
    (m_free : M .free) (m_regs : M .regs) (m_mem : M .mem) (m_events : M .events) (m_host : M .host) (m_belfry : M
    .belfry) (m_links : M .links) (m_reservations : M .reservations) (m_opn : M .opn) (m_arrays : M .arrays) (m_fst : M
    .fst) (m_watch : M .watch) (m_bankA : M .bankA) (m_bankB : M .bankB) (m_sched : M .sched) (m_runs : M .runs)
    (m_movers : M .movers) (m_tiles : M .tiles) (m_meas : M .meas) (m_power : M .power) (m_answers : M .answers)
    (m_streams : M .streams) : Parts M z (State.turn s p) := by
  unfold State.turn
  repeat' first
    | with_reducible assumption
    | with_reducible apply State.turnStep_parts
    | with_reducible apply State.watchActs_parts
    | with_reducible apply State.reportSilent_parts
    | with_reducible apply State.reportRaised_parts
    | with_reducible apply State.earlyMarkers_parts
    | with_reducible apply State.sendMarkers_parts
    | with_reducible apply State.planSwitch_parts
    | with_reducible apply State.settlePeriod_parts
    | with_reducible apply State.commitStaged_parts
    | with_reducible apply State.turnSched_parts
    | with_reducible apply State.turnJoin_parts
    | with_reducible apply State.turnTick_parts
    | with_reducible apply State.commitOverruns_parts
    | with_reducible apply State.trimSaturated_parts
    | with_reducible apply State.wrb_parts
    | split
    | dsimp only

theorem State.boundary_parts {M : Part → Prop} {z : State} {s : State} (h : Parts M z s) (m_out : M .out) (m_free : M
    .free) (m_regs : M .regs) (m_mem : M .mem) (m_events : M .events) (m_host : M .host) (m_belfry : M .belfry) (m_links
    : M .links) (m_d2d : M .d2d) (m_reservations : M .reservations) (m_routes : M .routes) (m_opn : M .opn) (m_arrays :
    M .arrays) (m_fst : M .fst) (m_watch : M .watch) (m_bankA : M .bankA) (m_bankB : M .bankB) (m_sched : M .sched)
    (m_runs : M .runs) (m_frozenNow : M .frozenNow) (m_atoms : M .atoms) (m_waiting : M .waiting) (m_movers : M .movers)
    (m_roundEnd : M .roundEnd) (m_tiles : M .tiles) (m_ueStep : M .ueStep) (m_keys : M .keys) (m_meas : M .meas)
    (m_scrub : M .scrub) (m_spots : M .spots) (m_margin : M .margin) (m_power : M .power) (m_fuses : M .fuses) (m_trust
    : M .trust) (m_sessions : M .sessions) (m_opening : M .opening) (m_answers : M .answers) (m_streams : M .streams)
    (m_windows : M .windows) :
    Parts M z (State.boundary s) := by
  unfold State.boundary
  repeat' first
    | with_reducible assumption
    | with_reducible apply State.turn_parts
    | with_reducible apply State.unitsTurn_parts
    | with_reducible apply State.streamsOn_parts
    | with_reducible apply State.startWork_parts
    | with_reducible apply State.stepSkipped_parts
    | with_reducible apply State.stepOn_parts
    | with_reducible apply State.reportRaised_parts
    | with_reducible apply State.endTick_parts
    | with_reducible apply State.prefetchAll_parts
    | with_reducible apply State.attSample_parts
    | with_reducible apply State.restoreTurn_parts
    | with_reducible apply State.scanWindows_parts
    | split
    | dsimp only

end Sys2Proof.Machine
end

