-- ==== Sys2Proof/Laws/PartsLineBlock.lean ====
section
/-! SUPPORT. What the operations of LineBlock.lean touch (Parts). -/

namespace Sys2Proof.Machine

open Sys2Proof

theorem State.refuseTaken_next_parts {M : Part → Prop} {z s t : State} {l : Nat} {f : Flit} (h : Parts M z s)
    (e : s.refuseTaken l f = some t) (m_free : M .free) (m_regs : M .regs) (m_events : M .events) (m_host : M .host) : Parts M z t := by
  unfold State.refuseTaken at e
  dsimp only at e
  split at e
  · cases e; exact State.headerDiscard_parts h _ (m_free := m_free) (m_regs := m_regs) (m_events := m_events) (m_host := m_host)
  · split at e
    · cases e; exact State.ageDiscard_parts h _ (m_free := m_free) (m_regs := m_regs) (m_events := m_events) (m_host := m_host)
    · split at e
      · cases e; exact h
      · cases e

theorem State.watchMessage_parts {M : Part → Prop} {z : State} {s : State} (h : Parts M z s) (d : Nat) (m : WatchMsg)
    (m_out : M .out) (m_free : M .free) (m_regs : M .regs) (m_events : M .events) (m_host : M .host) (m_belfry : M
    .belfry) (m_links : M .links) (m_watch : M .watch) (m_tiles : M .tiles) : Parts M z (State.watchMessage s d m) := by
  unfold State.watchMessage
  repeat' first
    | with_reducible assumption
    | with_reducible apply State.command_parts
    | with_reducible apply State.watchReport_parts
    | with_reducible apply State.digestIn_parts
    | split

theorem State.neighbourMessage_parts {M : Part → Prop} {z : State} {s : State} (h : Parts M z s) (d : Nat) (f : Flit)
    (m_out : M .out) (m_free : M .free) (m_regs : M .regs) (m_events : M .events) (m_host : M .host) (m_belfry : M
    .belfry) (m_links : M .links) (m_routes : M .routes) (m_watch : M .watch) (m_tiles : M .tiles) : Parts M z
    (State.neighbourMessage s d f) := by
  unfold State.neighbourMessage
  repeat' first
    | with_reducible assumption
    | with_reducible apply State.watchMessage_parts
    | with_reducible apply State.routeFlip_parts
    | with_reducible apply State.skipNotice_parts
    | split

theorem State.bufferFlit_parts {M : Part → Prop} {z : State} {s : State} (h : Parts M z s) (l : Nat) (f : Flit) (m_free
    : M .free) (m_regs : M .regs) (m_events : M .events) (m_host : M .host) (m_opn : M .opn) (m_power : M .power) :
    Parts M z (State.bufferFlit s l f) := by
  unfold State.bufferFlit
  repeat' first
    | with_reducible assumption
    | with_reducible apply State.bufferIn_parts
    | split
    | dsimp only

theorem State.vcDiscard_parts {M : Part → Prop} {z : State} {s : State} (h : Parts M z s) (l : Nat) (f : Flit) (m_out :
    M .out) (m_free : M .free) (m_regs : M .regs) (m_events : M .events) (m_host : M .host) (m_links : M .links) (m_opn
    : M .opn) (m_power : M .power) :
    Parts M z (State.vcDiscard s l f) := by
  unfold State.vcDiscard
  repeat' first
    | with_reducible assumption
    | with_reducible apply State.bufferFlit_parts
    | with_reducible apply State.err_parts
    | with_reducible apply State.returnCredit_parts
    | with_reducible apply State.setOpn_parts
    | with_reducible apply State.bump_parts
    | split
    | dsimp only

theorem State.deliverOpen_parts {M : Part → Prop} {z : State} {s : State} (h : Parts M z s) (l : Nat) (f : Flit) (m_out
    : M .out) (m_free : M .free) (m_regs : M .regs) (m_events : M .events) (m_host : M .host) (m_belfry : M .belfry)
    (m_links : M .links) (m_reservations : M .reservations) (m_routes : M .routes) (m_opn : M .opn) (m_watch : M .watch)
    (m_tiles : M .tiles) (m_power : M .power) (m_answers : M .answers) :
    Parts M z (State.deliverOpen s l f) := by
  unfold State.deliverOpen
  repeat' first
    | with_reducible assumption
    | with_reducible apply State.vcDiscard_parts
    | with_reducible apply State.bufferFlit_parts
    | with_reducible apply State.neighbourMessage_parts
    | with_reducible apply State.inject_parts
    | with_reducible apply State.returnCredit_parts
    | with_reducible refine State.refuseTaken_next_parts ?_ (by assumption) (by assumption) (by assumption) (by assumption) (by assumption)
    | split
    | dsimp only

theorem State.deliverNow_parts {M : Part → Prop} {z : State} {s : State} (h : Parts M z s) (l : Nat) (f : Flit) (m_out :
    M .out) (m_free : M .free) (m_regs : M .regs) (m_events : M .events) (m_host : M .host) (m_belfry : M .belfry)
    (m_links : M .links) (m_watch : M .watch) (m_sched : M .sched) : Parts M z (State.deliverNow s l f) := by
  unfold State.deliverNow
  repeat' first
    | with_reducible assumption
    | with_reducible apply State.joinAdopt_parts
    | with_reducible apply State.err_parts
    | with_reducible apply State.schedFlit_parts
    | with_reducible apply State.marker_parts
    | with_reducible apply State.bump_parts
    | with_reducible apply State.headerDiscard_parts
    | split
    | dsimp only

theorem State.findMissing_parts {M : Part → Prop} {z : State} {s : State} (h : Parts M z s) (l n : Nat) (m_out : M .out)
    (m_links : M .links) :
    Parts M z (State.findMissing s l n) := by
  unfold State.findMissing
  repeat' first
    | with_reducible assumption
    | with_reducible apply State.sendIdle_parts
    | with_reducible apply State.setLink_parts
    | with_reducible refine parts_foldl (fun t x ht => ?_) ?_
    | split
    | dsimp only

theorem State.releaseHeld_parts {M : Part → Prop} {z : State} {s : State} (h : Parts M z s) (l : Nat) (m_out : M .out)
    (m_free : M .free) (m_regs : M .regs) (m_events : M .events) (m_host : M .host) (m_belfry : M .belfry) (m_links : M
    .links) (m_reservations : M .reservations) (m_routes : M .routes) (m_opn : M .opn) (m_watch : M .watch) (m_tiles : M
    .tiles) (m_power : M .power) (m_answers : M .answers) : Parts M z (State.releaseHeld s l) := by
  unfold State.releaseHeld
  repeat' first
    | with_reducible assumption
    | with_reducible apply State.deliverOpen_parts
    | with_reducible apply State.setLink_parts
    | with_reducible refine parts_foldl (fun t x ht => ?_) ?_

theorem State.flitBlock_parts {M : Part → Prop} {z : State} {s : State} (h : Parts M z s) (l q : Nat) (f : Flit) (m_out
    : M .out) (m_free : M .free) (m_regs : M .regs) (m_events : M .events) (m_host : M .host) (m_belfry : M .belfry)
    (m_links : M .links) (m_reservations : M .reservations) (m_routes : M .routes) (m_opn : M .opn) (m_watch : M .watch)
    (m_sched : M .sched) (m_tiles : M .tiles) (m_power : M .power) (m_answers : M .answers) : Parts M z (State.flitBlock
    s l q f) := by
  unfold State.flitBlock
  repeat' first
    | with_reducible assumption
    | with_reducible apply State.releaseHeld_parts
    | with_reducible apply State.findMissing_parts
    | with_reducible apply State.deliverNow_parts
    | with_reducible apply State.setLink_parts
    | split
    | dsimp only

theorem State.addCredit_parts {M : Part → Prop} {z : State} {s : State} (h : Parts M z s) (l vc n : Nat) (m_regs : M
    .regs) (m_links : M .links) :
    Parts M z (State.addCredit s l vc n) := by
  unfold State.addCredit
  repeat' first
    | with_reducible assumption
    | with_reducible apply State.setCred_parts
    | split
    | dsimp only

theorem State.controlWord_parts {M : Part → Prop} {z : State} {s : State} (h : Parts M z s) (l w : Nat) (m_out : M .out)
    (m_free : M .free) (m_regs : M .regs) (m_events : M .events) (m_host : M .host) (m_belfry : M .belfry) (m_links : M
    .links) (m_opn : M .opn) (m_watch : M .watch) (m_sched : M .sched) : Parts M z (State.controlWord s l w) := by
  unfold State.controlWord
  repeat' first
    | with_reducible assumption
    | with_reducible apply State.addCredit_parts
    | with_reducible apply State.replayBlock_parts
    | with_reducible apply State.setLink_parts
    | split

theorem State.trainingBlock_parts {M : Part → Prop} {z : State} {s : State} (h : Parts M z s) (l : Nat) (b : List Byte)
    (m_out : M .out) (m_free : M .free) (m_regs : M .regs) (m_events : M .events) (m_host : M .host) (m_links : M
    .links) (m_opn : M .opn) (m_watch : M .watch) (m_sched : M .sched) : Parts M z (State.trainingBlock s l b) := by
  unfold State.trainingBlock
  repeat' first
    | with_reducible assumption
    | with_reducible apply State.creditGrant_parts
    | with_reducible apply State.identity_parts
    | with_reducible apply State.probeEcho_parts
    | with_reducible apply State.latencyProbe_parts
    | split

theorem State.badBlock_parts {M : Part → Prop} {z : State} {s : State} (h : Parts M z s) (l : Nat) (m_out : M .out)
    (m_free : M .free) (m_regs : M .regs) (m_events : M .events) (m_host : M .host) (m_links : M .links) (m_opn : M
    .opn) (m_watch : M .watch) (m_sched : M .sched) : Parts M z (State.badBlock s l) := by
  unfold State.badBlock
  repeat' first
    | with_reducible assumption
    | with_reducible apply State.lockLoss_parts
    | with_reducible apply State.setLink_parts
    | split
    | dsimp only

theorem State.blockContent_parts {M : Part → Prop} {z : State} {s : State} (h : Parts M z s) (l : Nat) (b : List Byte)
    (m_out : M .out) (m_free : M .free) (m_regs : M .regs) (m_events : M .events) (m_host : M .host) (m_belfry : M
    .belfry) (m_links : M .links) (m_reservations : M .reservations) (m_routes : M .routes) (m_opn : M .opn) (m_watch :
    M .watch) (m_sched : M .sched) (m_tiles : M .tiles) (m_power : M .power) (m_answers : M .answers) : Parts M z
    (State.blockContent s l b) := by
  unfold State.blockContent
  repeat' first
    | with_reducible assumption
    | with_reducible apply State.trainingBlock_parts
    | with_reducible apply State.controlWord_parts
    | with_reducible apply State.flitBlock_parts
    | with_reducible apply State.findMissing_parts
    | split
    | dsimp only

theorem State.goodBlock_parts {M : Part → Prop} {z : State} {s : State} (h : Parts M z s) (l : Nat) (b : List Byte)
    (m_out : M .out) (m_free : M .free) (m_regs : M .regs) (m_events : M .events) (m_host : M .host) (m_belfry : M
    .belfry) (m_links : M .links) (m_reservations : M .reservations) (m_routes : M .routes) (m_opn : M .opn) (m_watch :
    M .watch) (m_sched : M .sched) (m_tiles : M .tiles) (m_power : M .power) (m_answers : M .answers) : Parts M z
    (State.goodBlock s l b) := by
  unfold State.goodBlock
  repeat' first
    | with_reducible assumption
    | with_reducible apply State.blockContent_parts
    | with_reducible apply State.lockAchieved_parts
    | with_reducible apply State.setLink_parts
    | split
    | dsimp only

theorem State.countSymbols_parts {M : Part → Prop} {z : State} {s : State} (h : Parts M z s) (l : Nat) (syms : List Nat)
    (m_regs : M .regs) :
    Parts M z (State.countSymbols s l syms) := by
  unfold State.countSymbols
  repeat' first
    | with_reducible assumption
    | with_reducible apply State.bumpi_parts
    | with_reducible refine parts_foldl (fun t x ht => ?_) ?_

theorem State.lineBlock_parts {M : Part → Prop} {z : State} {s : State} (h : Parts M z s) (l : Nat) (data parity : List Byte)
    (m_out : M .out) (m_free : M .free) (m_regs : M .regs) (m_events : M .events) (m_host : M .host) (m_belfry : M
    .belfry) (m_links : M .links) (m_reservations : M .reservations) (m_routes : M .routes) (m_opn : M .opn) (m_watch :
    M .watch) (m_sched : M .sched) (m_tiles : M .tiles) (m_power : M .power) (m_answers : M .answers) : Parts M z
    (State.lineBlock s l data parity) := by
  unfold State.lineBlock
  repeat' first
    | with_reducible assumption
    | with_reducible apply State.countSymbols_parts
    | with_reducible apply State.goodBlock_parts
    | with_reducible apply State.badBlock_parts
    | with_reducible apply State.bump_parts
    | split
    | dsimp only

end Sys2Proof.Machine
end

