-- ==== Sys2Proof/Laws/PartsExec.lean ====
section
/-! SUPPORT. What each command keeps (Parts), and what every command keeps. -/

namespace Sys2Proof.Machine

open Sys2Proof

theorem execPeriodAtWrite_parts {M : Part → Prop} {z : State} {s : State} (h : Parts M z s) (v : Nat) (m_free : M .free)
    (m_regs : M .regs) (m_events : M .events) (m_host : M .host) (m_belfry : M .belfry) :
    ∃ t, execPeriodAtWrite v s = .next t ∧ Parts M z t := by
  refine ⟨_, rfl, ?_⟩
  repeat' first
    | with_reducible assumption
    | with_reducible apply State.armPeriod_parts

theorem execNowLoRead_parts {M : Part → Prop} {z : State} {s : State} (h : Parts M z s) (m_out : M .out)
    (m_regs : M .regs) :
    ∃ t, execNowLoRead s = .next t ∧ Parts M z t := by
  refine ⟨_, rfl, ?_⟩
  repeat' first
    | with_reducible assumption
    | with_reducible apply State.readNowLo_parts
    | with_reducible apply State.emit_parts

theorem execStepLoRead_parts {M : Part → Prop} {z : State} {s : State} (h : Parts M z s) (m_out : M .out)
    (m_regs : M .regs) :
    ∃ t, execStepLoRead s = .next t ∧ Parts M z t := by
  refine ⟨_, rfl, ?_⟩
  repeat' first
    | with_reducible assumption
    | with_reducible apply State.readStepLo_parts
    | with_reducible apply State.emit_parts

theorem execMarkerReceive_parts {M : Part → Prop} {z : State} {s : State} (h : Parts M z s) (link : Nat) (m : Marker)
    (m_out : M .out) (m_free : M .free) (m_regs : M .regs) (m_events : M .events) (m_host : M .host) (m_belfry : M
    .belfry) (m_links : M .links) (m_watch : M .watch) : ∃ t, execMarkerReceive link m s = .next t ∧ Parts M z t := by
  refine ⟨_, rfl, ?_⟩
  repeat' first
    | with_reducible assumption
    | with_reducible apply State.marker_parts

theorem execTrimSaturated_parts {M : Part → Prop} {z : State} {s : State} (h : Parts M z s) (m_free : M .free)
    (m_regs : M .regs) (m_events : M .events) (m_host : M .host) (m_belfry : M .belfry) :
    ∃ t, execTrimSaturated s = .next t ∧ Parts M z t := by
  refine ⟨_, rfl, ?_⟩
  repeat' first
    | with_reducible assumption
    | with_reducible apply State.trimSaturated_parts

theorem execSkipNotice_parts {M : Part → Prop} {z : State} {s : State} (h : Parts M z s) (d target origin reason : Nat)
    (m_out : M .out) (m_free : M .free) (m_regs : M .regs) (m_events : M .events) (m_host : M .host) (m_belfry : M
    .belfry) (m_links : M .links) : ∃ t, execSkipNotice d target origin reason s = .next t ∧ Parts M z t := by
  refine ⟨_, rfl, ?_⟩
  repeat' first
    | with_reducible assumption
    | with_reducible apply State.skipNotice_parts

theorem execSkipReq_parts {M : Part → Prop} {z : State} {s : State} (h : Parts M z s) (v : Nat) (m_out : M .out)
    (m_belfry : M .belfry) (m_links : M .links) : ∃ t, execSkipReq v s = .next t ∧ Parts M z t := by
  refine ⟨_, rfl, ?_⟩
  repeat' first
    | with_reducible assumption
    | with_reducible apply State.issueSkip_parts
    | intro _
    | split

theorem execThrottleEvaluation_parts {M : Part → Prop} {z : State} {s : State} (h : Parts M z s) (temps : List Int) (power
    : Nat) (cup : List Nat) (m_regs : M .regs) (m_belfry : M .belfry) :
    ∃ t, execThrottleEvaluation temps power cup s = .next t ∧ Parts M z t := by
  refine ⟨_, rfl, ?_⟩
  repeat' first
    | with_reducible assumption
    | with_reducible apply State.throttleEval_parts

theorem execSkipNoticeIssue_parts {M : Part → Prop} {z : State} {s : State} (h : Parts M z s) (m_out : M .out) (m_belfry
    : M .belfry) (m_links : M .links) : ∃ t, execSkipNoticeIssue s = .next t ∧ Parts M z t := by
  refine ⟨_, rfl, ?_⟩
  repeat' first
    | with_reducible assumption
    | with_reducible apply State.throttleIssue_parts

theorem execThrEnClear_parts {M : Part → Prop} {z : State} {s : State} (h : Parts M z s) (v : Nat) (m_regs : M .regs)
    (m_belfry : M .belfry) :
    ∃ t, execThrEnClear v s = .next t ∧ Parts M z t := by
  refine ⟨_, rfl, ?_⟩
  repeat' first
    | with_reducible assumption
    | with_reducible apply State.writeThrCtl_parts

theorem execScheduledFlitReceive_parts {M : Part → Prop} {z : State} {s : State} (h : Parts M z s) (link : Nat) (f :
    Flit) (m_free : M .free) (m_regs : M .regs) (m_events : M .events) (m_host : M .host) (m_sched : M .sched) : ∃ t,
    execScheduledFlitReceive link f s = .next t ∧ Parts M z t := by
  refine ⟨_, rfl, ?_⟩
  repeat' first
    | with_reducible assumption
    | with_reducible apply State.schedFlit_parts
    | with_reducible apply State.headerDiscard_parts
    | intro _
    | split
    | dsimp only

theorem execClipClr_parts {M : Part → Prop} {z : State} {s : State} (h : Parts M z s) (u : AUnit) (m_regs : M .regs) :
    ∃ t, execClipClr u s = .next t ∧ Parts M z t := by
  refine ⟨_, rfl, ?_⟩
  repeat' first
    | with_reducible assumption
    | with_reducible apply State.clipClr_parts
    | intro _
    | split

theorem execCorrectedWriteback_parts {M : Part → Prop} {z : State} {s : State} (h : Parts M z s) (line : Nat)
    (m_arrays : M .arrays) :
    ∃ t, execCorrectedWriteback line s = .next t ∧ Parts M z t := by
  refine ⟨_, rfl, ?_⟩
  repeat' first
    | with_reducible assumption
    | with_reducible apply State.cleanLine_parts
    | intro _
    | split

theorem execMergeWriteback_parts {M : Part → Prop} {z : State} {s : State} (h : Parts M z s) (line : Nat)
    (m_arrays : M .arrays) :
    ∃ t, execMergeWriteback line s = .next t ∧ Parts M z t := by
  refine ⟨_, rfl, ?_⟩
  repeat' first
    | with_reducible assumption
    | with_reducible apply State.mergeFree_parts
    | intro _
    | split

theorem execMergeEntryWait_parts {M : Part → Prop} {z : State} {s : State} (h : Parts M z s) (st : Nat) (m_regs : M .regs)
    (m_arrays : M .arrays) :
    ∃ t, execMergeEntryWait st s = .next t ∧ Parts M z t := by
  refine ⟨_, rfl, ?_⟩
  repeat' first
    | with_reducible assumption
    | with_reducible apply State.mergeNeed_parts

theorem execPatrolRead_parts {M : Part → Prop} {z : State} {s : State} (h : Parts M z s) (line : Nat) (m_free : M .free)
    (m_regs : M .regs) (m_mem : M .mem) (m_events : M .events) (m_host : M .host) (m_arrays : M .arrays) (m_watch : M
    .watch) : ∃ t, execPatrolRead line s = .next t ∧ Parts M z t := by
  refine ⟨_, rfl, ?_⟩
  repeat' first
    | with_reducible assumption
    | with_reducible apply State.patrolBuffer_parts
    | with_reducible apply State.bump_parts
    | with_reducible apply State.touchLine_parts
    | intro _
    | split
    | dsimp only

theorem execAtomIdleWriteback_parts {M : Part → Prop} {z : State} {s : State} (h : Parts M z s) (line : Nat)
    (m_free : M .free) (m_regs : M .regs) (m_mem : M .mem) (m_events : M .events) (m_host : M .host)
    (m_arrays : M .arrays) (m_watch : M .watch) (m_atoms : M .atoms) :
    ∃ t, execAtomIdleWriteback line s = .next t ∧ Parts M z t := by
  refine ⟨_, rfl, ?_⟩
  repeat' first
    | with_reducible assumption
    | with_reducible apply State.atomWriteback_parts
    | intro _
    | split

theorem execAtomFlush_parts {M : Part → Prop} {z : State} {s : State} (h : Parts M z s) (c : Nat) (m_free : M .free)
    (m_regs : M .regs) (m_mem : M .mem) (m_events : M .events) (m_host : M .host) (m_arrays : M .arrays)
    (m_watch : M .watch) (m_atoms : M .atoms) :
    ∃ t, execAtomFlush c s = .next t ∧ Parts M z t := by
  refine ⟨_, rfl, ?_⟩
  repeat' first
    | with_reducible assumption
    | with_reducible apply State.atomFlush_parts
    | intro _
    | split

theorem execAtomWinWrite_parts {M : Part → Prop} {z : State} {s : State} (h : Parts M z s) (c v : Nat) (m_free : M .free)
    (m_regs : M .regs) (m_mem : M .mem) (m_events : M .events) (m_host : M .host) (m_arrays : M .arrays)
    (m_watch : M .watch) (m_atoms : M .atoms) :
    ∃ t, execAtomWinWrite c v s = .next t ∧ Parts M z t := by
  refine ⟨_, rfl, ?_⟩
  repeat' first
    | with_reducible assumption
    | with_reducible apply State.atomWin_parts
    | intro _
    | split

theorem execFstRead_parts {M : Part → Prop} {z : State} {s : State} (h : Parts M z s) (m_regs : M .regs) :
    ∃ t, execFstRead s = .next t ∧ Parts M z t := by
  refine ⟨_, rfl, ?_⟩
  repeat' first
    | with_reducible assumption
    | with_reducible apply State.fstRead_parts

theorem execCeReduce_parts {M : Part → Prop} {z : State} {s : State} (h : Parts M z s) (ce slot : Nat) (m_free : M .free)
    (m_regs : M .regs) (m_mem : M .mem) (m_events : M .events) (m_host : M .host) (m_arrays : M .arrays)
    (m_watch : M .watch) (m_sched : M .sched) (m_runs : M .runs) :
    ∃ t, execCeReduce ce slot s = .next t ∧ Parts M z t := by
  refine ⟨_, rfl, ?_⟩
  repeat' first
    | with_reducible assumption
    | with_reducible apply State.ceRun_parts
    | with_reducible apply State.ceTree_parts
    | intro _

theorem execCeAllReduce_parts {M : Part → Prop} {z : State} {s : State} (h : Parts M z s) (ce slot : Nat)
    (m_free : M .free) (m_regs : M .regs) (m_mem : M .mem) (m_events : M .events) (m_host : M .host)
    (m_arrays : M .arrays) (m_watch : M .watch) (m_sched : M .sched) (m_runs : M .runs) :
    ∃ t, execCeAllReduce ce slot s = .next t ∧ Parts M z t := by
  refine ⟨_, rfl, ?_⟩
  repeat' first
    | with_reducible assumption
    | with_reducible apply State.ceRun_parts
    | with_reducible apply State.ceTree_parts
    | intro _

theorem execCeReduceScatter_parts {M : Part → Prop} {z : State} {s : State} (h : Parts M z s) (ce slot : Nat)
    (m_free : M .free) (m_regs : M .regs) (m_mem : M .mem) (m_events : M .events) (m_host : M .host)
    (m_arrays : M .arrays) (m_watch : M .watch) (m_sched : M .sched) (m_runs : M .runs) :
    ∃ t, execCeReduceScatter ce slot s = .next t ∧ Parts M z t := by
  refine ⟨_, rfl, ?_⟩
  repeat' first
    | with_reducible assumption
    | with_reducible apply State.ceRun_parts
    | with_reducible apply State.ceTree_parts
    | intro _

theorem execCeAllGather_parts {M : Part → Prop} {z : State} {s : State} (h : Parts M z s) (ce slot : Nat)
    (m_free : M .free) (m_regs : M .regs) (m_mem : M .mem) (m_events : M .events) (m_host : M .host)
    (m_arrays : M .arrays) (m_watch : M .watch) (m_sched : M .sched) (m_runs : M .runs) :
    ∃ t, execCeAllGather ce slot s = .next t ∧ Parts M z t := by
  refine ⟨_, rfl, ?_⟩
  repeat' first
    | with_reducible assumption
    | with_reducible apply State.ceRun_parts
    | with_reducible apply State.ceTree_parts
    | intro _

theorem execCeBroadcast_parts {M : Part → Prop} {z : State} {s : State} (h : Parts M z s) (ce slot : Nat)
    (m_free : M .free) (m_regs : M .regs) (m_mem : M .mem) (m_events : M .events) (m_host : M .host)
    (m_arrays : M .arrays) (m_watch : M .watch) (m_sched : M .sched) (m_runs : M .runs) :
    ∃ t, execCeBroadcast ce slot s = .next t ∧ Parts M z t := by
  refine ⟨_, rfl, ?_⟩
  repeat' first
    | with_reducible assumption
    | with_reducible apply State.ceRun_parts
    | with_reducible apply State.ceTree_parts
    | intro _

theorem execCeAllToAll_parts {M : Part → Prop} {z : State} {s : State} (h : Parts M z s) (ce slot : Nat)
    (m_free : M .free) (m_regs : M .regs) (m_mem : M .mem) (m_events : M .events) (m_host : M .host)
    (m_arrays : M .arrays) (m_watch : M .watch) (m_sched : M .sched) (m_runs : M .runs) :
    ∃ t, execCeAllToAll ce slot s = .next t ∧ Parts M z t := by
  refine ⟨_, rfl, ?_⟩
  repeat' first
    | with_reducible assumption
    | with_reducible apply State.ceRun_parts
    | with_reducible apply State.ceAllToAll_parts
    | intro _

theorem execCeGatherIdx_parts {M : Part → Prop} {z : State} {s : State} (h : Parts M z s) (ce slot : Nat)
    (m_free : M .free) (m_regs : M .regs) (m_mem : M .mem) (m_events : M .events) (m_host : M .host)
    (m_arrays : M .arrays) (m_watch : M .watch) (m_sched : M .sched) (m_runs : M .runs) :
    ∃ t, execCeGatherIdx ce slot s = .next t ∧ Parts M z t := by
  refine ⟨_, rfl, ?_⟩
  repeat' first
    | with_reducible assumption
    | with_reducible apply State.ceRun_parts
    | with_reducible apply State.ceGatherIdx_parts
    | intro _

theorem execCeScatterIdx_parts {M : Part → Prop} {z : State} {s : State} (h : Parts M z s) (ce slot : Nat)
    (m_free : M .free) (m_regs : M .regs) (m_mem : M .mem) (m_events : M .events) (m_host : M .host)
    (m_arrays : M .arrays) (m_watch : M .watch) (m_runs : M .runs) :
    ∃ t, execCeScatterIdx ce slot s = .next t ∧ Parts M z t := by
  refine ⟨_, rfl, ?_⟩
  repeat' first
    | with_reducible assumption
    | with_reducible apply State.ceRun_parts
    | with_reducible apply State.ceScatterIdx_parts
    | intro _

theorem execCeSortMerge_parts {M : Part → Prop} {z : State} {s : State} (h : Parts M z s) (ce slot : Nat)
    (m_free : M .free) (m_regs : M .regs) (m_mem : M .mem) (m_events : M .events) (m_host : M .host)
    (m_arrays : M .arrays) (m_watch : M .watch) (m_sched : M .sched) (m_runs : M .runs) :
    ∃ t, execCeSortMerge ce slot s = .next t ∧ Parts M z t := by
  refine ⟨_, rfl, ?_⟩
  repeat' first
    | with_reducible assumption
    | with_reducible apply State.ceRun_parts
    | with_reducible apply State.ceMerge_parts
    | intro _

theorem execCeTopkMerge_parts {M : Part → Prop} {z : State} {s : State} (h : Parts M z s) (ce slot : Nat)
    (m_free : M .free) (m_regs : M .regs) (m_mem : M .mem) (m_events : M .events) (m_host : M .host)
    (m_arrays : M .arrays) (m_watch : M .watch) (m_sched : M .sched) (m_runs : M .runs) :
    ∃ t, execCeTopkMerge ce slot s = .next t ∧ Parts M z t := by
  refine ⟨_, rfl, ?_⟩
  repeat' first
    | with_reducible assumption
    | with_reducible apply State.ceRun_parts
    | with_reducible apply State.ceMerge_parts
    | intro _

theorem execCeScan_parts {M : Part → Prop} {z : State} {s : State} (h : Parts M z s) (ce slot : Nat) (m_free : M .free)
    (m_regs : M .regs) (m_mem : M .mem) (m_events : M .events) (m_host : M .host) (m_arrays : M .arrays)
    (m_watch : M .watch) (m_sched : M .sched) (m_runs : M .runs) :
    ∃ t, execCeScan ce slot s = .next t ∧ Parts M z t := by
  refine ⟨_, rfl, ?_⟩
  repeat' first
    | with_reducible assumption
    | with_reducible apply State.ceRun_parts
    | with_reducible apply State.ceScan_parts
    | intro _

theorem execCeAttnCombine_parts {M : Part → Prop} {z : State} {s : State} (h : Parts M z s) (ce slot : Nat)
    (m_free : M .free) (m_regs : M .regs) (m_mem : M .mem) (m_events : M .events) (m_host : M .host)
    (m_arrays : M .arrays) (m_watch : M .watch) (m_sched : M .sched) (m_runs : M .runs) :
    ∃ t, execCeAttnCombine ce slot s = .next t ∧ Parts M z t := by
  refine ⟨_, rfl, ?_⟩
  repeat' first
    | with_reducible assumption
    | with_reducible apply State.ceRun_parts
    | with_reducible apply State.ceAttn_parts
    | intro _

theorem execCePartialFold_parts {M : Part → Prop} {z : State} {s : State} (h : Parts M z s) (ce slot rank : Nat)
    (m_runs : M .runs) :
    ∃ t, execCePartialFold ce slot rank s = .next t ∧ Parts M z t := by
  refine ⟨_, rfl, ?_⟩
  repeat' first
    | with_reducible assumption
    | with_reducible apply State.partialFold_parts

theorem execCodecEncode_parts {M : Part → Prop} {z : State} {s : State} (h : Parts M z s) (c slot : Nat)
    (m_free : M .free) (m_regs : M .regs) (m_mem : M .mem) (m_events : M .events) (m_host : M .host)
    (m_belfry : M .belfry) (m_arrays : M .arrays) (m_watch : M .watch) (m_sched : M .sched) (m_runs : M .runs) :
    ∃ t, execCodecEncode c slot s = .next t ∧ Parts M z t := by
  refine ⟨_, rfl, ?_⟩
  repeat' first
    | with_reducible assumption
    | with_reducible apply State.codecEncode_parts
    | intro _
    | split

theorem execCodecStore_parts {M : Part → Prop} {z : State} {s : State} (h : Parts M z s) (c slot : Nat) (m_free : M .free)
    (m_regs : M .regs) (m_mem : M .mem) (m_events : M .events) (m_host : M .host) (m_arrays : M .arrays)
    (m_watch : M .watch) (m_runs : M .runs) :
    ∃ t, execCodecStore c slot s = .next t ∧ Parts M z t := by
  refine ⟨_, rfl, ?_⟩
  repeat' first
    | with_reducible assumption
    | with_reducible apply State.codecStore_parts
    | intro _
    | split

theorem execCodecPack24_parts {M : Part → Prop} {z : State} {s : State} (h : Parts M z s) (c slot : Nat)
    (m_free : M .free) (m_regs : M .regs) (m_mem : M .mem) (m_events : M .events) (m_host : M .host)
    (m_arrays : M .arrays) (m_watch : M .watch) (m_runs : M .runs) :
    ∃ t, execCodecPack24 c slot s = .next t ∧ Parts M z t := by
  refine ⟨_, rfl, ?_⟩
  repeat' first
    | with_reducible assumption
    | with_reducible apply State.codecPack_parts
    | intro _
    | split

theorem execCodecExpand_parts {M : Part → Prop} {z : State} {s : State} (h : Parts M z s) (c slot : Nat)
    (m_free : M .free) (m_regs : M .regs) (m_mem : M .mem) (m_events : M .events) (m_host : M .host)
    (m_arrays : M .arrays) (m_watch : M .watch) (m_runs : M .runs) :
    ∃ t, execCodecExpand c slot s = .next t ∧ Parts M z t := by
  refine ⟨_, rfl, ?_⟩
  repeat' first
    | with_reducible assumption
    | with_reducible apply State.codecExpand_parts
    | intro _
    | split

theorem execCodedSliceReceive_parts {M : Part → Prop} {z : State} {s : State} (h : Parts M z s) (c sid : Nat)
    (m_free : M .free) (m_regs : M .regs) (m_events : M .events) (m_host : M .host) (m_sched : M .sched) :
    ∃ t, execCodedSliceReceive c sid s = .next t ∧ Parts M z t := by
  refine ⟨_, rfl, ?_⟩
  repeat' first
    | with_reducible assumption
    | with_reducible apply State.decodeSlice_parts

theorem execLinkSignalDetect_parts {M : Part → Prop} {z : State} {s : State} (h : Parts M z s) (link : Nat) (m_out : M
    .out) (m_free : M .free) (m_regs : M .regs) (m_events : M .events) (m_host : M .host) (m_links : M .links) : ∃ t,
    execLinkSignalDetect link s = .next t ∧ Parts M z t := by
  refine ⟨_, rfl, ?_⟩
  repeat' first
    | with_reducible assumption
    | with_reducible apply State.tryStart_parts
    | with_reducible apply State.setLink_parts
    | intro _
    | split

theorem execEqConverge_parts {M : Part → Prop} {z : State} {s : State} (h : Parts M z s) (link : Nat) (m_free : M .free)
    (m_regs : M .regs) (m_events : M .events) (m_host : M .host) (m_links : M .links) : ∃ t, execEqConverge link s =
    .next t ∧ Parts M z t := by
  refine ⟨_, rfl, ?_⟩
  repeat' first
    | with_reducible assumption
    | with_reducible apply State.setLstate_parts
    | intro _
    | split

theorem execLockAchieved_parts {M : Part → Prop} {z : State} {s : State} (h : Parts M z s) (link : Nat) (m_out : M .out)
    (m_free : M .free) (m_regs : M .regs) (m_events : M .events) (m_host : M .host) (m_links : M .links) : ∃ t,
    execLockAchieved link s = .next t ∧ Parts M z t := by
  refine ⟨_, rfl, ?_⟩
  repeat' first
    | with_reducible assumption
    | with_reducible apply State.lockAchieved_parts

theorem execLatencyProbe_parts {M : Part → Prop} {z : State} {s : State} (h : Parts M z s) (link stamp hold : Nat)
    (m_out : M .out) :
    ∃ t, execLatencyProbe link stamp hold s = .next t ∧ Parts M z t := by
  refine ⟨_, rfl, ?_⟩
  repeat' first
    | with_reducible assumption
    | with_reducible apply State.latencyProbe_parts

theorem execProbeEcho_parts {M : Part → Prop} {z : State} {s : State} (h : Parts M z s) (link echo hold : Nat) (m_out :
    M .out) (m_free : M .free) (m_regs : M .regs) (m_events : M .events) (m_host : M .host) (m_links : M .links) (m_opn
    : M .opn) (m_watch : M .watch) (m_sched : M .sched) : ∃ t, execProbeEcho link echo hold s = .next t ∧ Parts M z t := by
  refine ⟨_, rfl, ?_⟩
  repeat' first
    | with_reducible assumption
    | with_reducible apply State.probeEcho_parts

theorem execIdentity_parts {M : Part → Prop} {z : State} {s : State} (h : Parts M z s) (link ident dir : Nat) (m_out : M
    .out) (m_free : M .free) (m_regs : M .regs) (m_events : M .events) (m_host : M .host) (m_links : M .links) (m_opn :
    M .opn) (m_watch : M .watch) (m_sched : M .sched) : ∃ t, execIdentity link ident dir s = .next t ∧ Parts M z t := by
  refine ⟨_, rfl, ?_⟩
  repeat' first
    | with_reducible assumption
    | with_reducible apply State.identity_parts

theorem execCreditGrant_parts {M : Part → Prop} {z : State} {s : State} (h : Parts M z s) (link : Nat) (credits : List
    Nat) (m_free : M .free) (m_regs : M .regs) (m_events : M .events) (m_host : M .host) (m_links : M .links) : ∃ t,
    execCreditGrant link credits s = .next t ∧ Parts M z t := by
  refine ⟨_, rfl, ?_⟩
  repeat' first
    | with_reducible assumption
    | with_reducible apply State.creditGrant_parts

theorem execTrainStateTimeout_parts {M : Part → Prop} {z : State} {s : State} (h : Parts M z s) (link : Nat) (m_out : M
    .out) (m_free : M .free) (m_regs : M .regs) (m_events : M .events) (m_host : M .host) (m_links : M .links) (m_opn :
    M .opn) (m_watch : M .watch) (m_sched : M .sched) : ∃ t, execTrainStateTimeout link s = .next t ∧ Parts M z t := by
  refine ⟨_, rfl, ?_⟩
  repeat' first
    | with_reducible assumption
    | with_reducible apply State.trainFail_parts
    | intro _
    | split

theorem execLockLoss_parts {M : Part → Prop} {z : State} {s : State} (h : Parts M z s) (link : Nat) (m_out : M .out)
    (m_free : M .free) (m_regs : M .regs) (m_events : M .events) (m_host : M .host) (m_links : M .links) (m_opn : M
    .opn) (m_watch : M .watch) (m_sched : M .sched) : ∃ t, execLockLoss link s = .next t ∧ Parts M z t := by
  refine ⟨_, rfl, ?_⟩
  repeat' first
    | with_reducible assumption
    | with_reducible apply State.lockLoss_parts

theorem execRetrain_parts {M : Part → Prop} {z : State} {s : State} (h : Parts M z s) (link : Nat) (m_out : M .out)
    (m_free : M .free) (m_regs : M .regs) (m_events : M .events) (m_host : M .host) (m_links : M .links) (m_opn : M
    .opn) : ∃ t, execRetrain link s = .next t ∧ Parts M z t := by
  refine ⟨_, rfl, ?_⟩
  repeat' first
    | with_reducible assumption
    | with_reducible apply State.retrain_parts

theorem execLinkEnWrite_parts {M : Part → Prop} {z : State} {s : State} (h : Parts M z s) (link : Nat) (en : Bool)
    (m_out : M .out) (m_free : M .free) (m_regs : M .regs) (m_events : M .events) (m_host : M .host) (m_links : M
    .links) (m_opn : M .opn) : ∃ t, execLinkEnWrite link en s = .next t ∧ Parts M z t := by
  refine ⟨_, rfl, ?_⟩
  repeat' first
    | with_reducible assumption
    | with_reducible apply State.writeLinkEn_parts
    | intro _
    | split

theorem execNakReceive_parts {M : Part → Prop} {z : State} {s : State} (h : Parts M z s) (link seq : Nat) (m_out : M
    .out) (m_free : M .free) (m_regs : M .regs) (m_events : M .events) (m_host : M .host) (m_belfry : M .belfry)
    (m_links : M .links) (m_opn : M .opn) (m_watch : M .watch) (m_sched : M .sched) : ∃ t, execNakReceive link seq s =
    .next t ∧ Parts M z t := by
  refine ⟨_, rfl, ?_⟩
  repeat' first
    | with_reducible assumption
    | with_reducible apply State.replayBlock_parts
    | intro _
    | split

theorem execAckTimeout_parts {M : Part → Prop} {z : State} {s : State} (h : Parts M z s) (link seq : Nat) (m_out : M
    .out) (m_free : M .free) (m_regs : M .regs) (m_events : M .events) (m_host : M .host) (m_belfry : M .belfry)
    (m_links : M .links) (m_opn : M .opn) (m_watch : M .watch) (m_sched : M .sched) : ∃ t, execAckTimeout link seq s =
    .next t ∧ Parts M z t := by
  refine ⟨_, rfl, ?_⟩
  repeat' first
    | with_reducible assumption
    | with_reducible apply State.replayBlock_parts
    | intro _
    | split

theorem execD2dRetry_parts {M : Part → Prop} {z : State} {s : State} (h : Parts M z s) (link dir k : Nat) (acked : Bool)
    (m_free : M .free) (m_regs : M .regs) (m_events : M .events) (m_host : M .host) (m_belfry : M .belfry) (m_d2d : M
    .d2d) (m_watch : M .watch) : ∃ t, execD2dRetry link dir k acked s = .next t ∧ Parts M z t := by
  refine ⟨_, rfl, ?_⟩
  repeat' first
    | with_reducible assumption
    | with_reducible apply State.d2dRetry_parts
    | intro _
    | split
    | dsimp only

theorem execCredTo_parts {M : Part → Prop} {z : State} {s : State} (h : Parts M z s) (n vc : Nat) (m_out : M .out)
    (m_free : M .free) (m_regs : M .regs) (m_events : M .events) (m_host : M .host) (m_links : M .links) (m_reservations
    : M .reservations) (m_opn : M .opn) (m_watch : M .watch) (m_sched : M .sched) : ∃ t, execCredTo n vc s = .next t ∧
    Parts M z t := by
  refine ⟨_, rfl, ?_⟩
  repeat' first
    | with_reducible assumption
    | with_reducible apply State.dropReservations_parts
    | with_reducible apply State.failLink_parts
    | with_reducible apply State.dropOutput_parts
    | with_reducible apply State.err_parts
    | intro _
    | split
    | dsimp only

theorem execTblDataWrite_parts {M : Part → Prop} {z : State} {s : State} (h : Parts M z s) (keep v : Nat)
    (m_free : M .free) (m_regs : M .regs) (m_events : M .events) (m_host : M .host) (m_routes : M .routes) :
    ∃ t, execTblDataWrite keep v s = .next t ∧ Parts M z t := by
  refine ⟨_, rfl, ?_⟩
  repeat' first
    | with_reducible assumption
    | with_reducible apply State.tblWrite_parts
    | intro _
    | split

theorem execOpenRequestInject_parts {M : Part → Prop} {z : State} {s : State} (h : Parts M z s) (src : Source) (f :
    Flit) (m_out : M .out) (m_free : M .free) (m_regs : M .regs) (m_events : M .events) (m_host : M .host) (m_links : M
    .links) (m_reservations : M .reservations) (m_opn : M .opn) (m_power : M .power) (m_answers : M .answers) : ∃ t,
    execOpenRequestInject src f s = .next t ∧ Parts M z t := by
  refine ⟨_, rfl, ?_⟩
  repeat' first
    | with_reducible assumption
    | with_reducible apply State.inject_parts

theorem execReservationTimeout_parts {M : Part → Prop} {z : State} {s : State} (h : Parts M z s) (src : Source) (tag :
    Nat) (m_out : M .out) (m_free : M .free) (m_regs : M .regs) (m_events : M .events) (m_host : M .host) (m_links : M
    .links) (m_reservations : M .reservations) (m_opn : M .opn) (m_answers : M .answers) : ∃ t, execReservationTimeout
    src tag s = .next t ∧ Parts M z t := by
  refine ⟨_, rfl, ?_⟩
  repeat' first
    | with_reducible assumption
    | with_reducible apply State.timeoutResv_parts
    | intro _
    | split

theorem execReplyReceive_parts {M : Part → Prop} {z : State} {s : State} (h : Parts M z s) (src : Source) (f : Flit)
    (m_out : M .out) (m_free : M .free) (m_regs : M .regs) (m_events : M .events) (m_host : M .host) (m_links : M
    .links) (m_reservations : M .reservations) (m_opn : M .opn) (m_arrays : M .arrays) (m_answers : M .answers) : ∃ t,
    execReplyReceive src f s = .next t ∧ Parts M z t := by
  refine ⟨_, rfl, ?_⟩
  repeat' first
    | with_reducible assumption
    | with_reducible apply State.reply_parts
    | with_reducible apply State.served_parts
    | intro _
    | split
    | dsimp only

theorem execRouteFlip_parts {M : Part → Prop} {z : State} {s : State} (h : Parts M z s) (d tick sum origin : Nat) (m_out
    : M .out) (m_free : M .free) (m_regs : M .regs) (m_events : M .events) (m_host : M .host) (m_belfry : M .belfry)
    (m_links : M .links) (m_routes : M .routes) (m_watch : M .watch) : ∃ t, execRouteFlip d tick sum origin s = .next t
    ∧ Parts M z t := by
  refine ⟨_, rfl, ?_⟩
  repeat' first
    | with_reducible assumption
    | with_reducible apply State.routeFlip_parts

theorem execFlipAtWrite_parts {M : Part → Prop} {z : State} {s : State} (h : Parts M z s) (keep v : Nat) (m_out : M
    .out) (m_free : M .free) (m_regs : M .regs) (m_events : M .events) (m_host : M .host) (m_belfry : M .belfry)
    (m_links : M .links) (m_routes : M .routes) (m_watch : M .watch) : ∃ t, execFlipAtWrite keep v s = .next t ∧ Parts M
    z t := by
  refine ⟨_, rfl, ?_⟩
  repeat' first
    | with_reducible assumption
    | with_reducible apply State.flipAtWrite_parts
    | intro _
    | split

theorem execFlitAged_parts {M : Part → Prop} {z : State} {s : State} (h : Parts M z s) (keep out vc : Nat) (m_out : M
    .out) (m_free : M .free) (m_regs : M .regs) (m_events : M .events) (m_host : M .host) (m_links : M .links) (m_opn :
    M .opn) (m_sched : M .sched) : ∃ t, execFlitAged keep out vc s = .next t ∧ Parts M z t := by
  refine ⟨_, rfl, ?_⟩
  repeat' first
    | with_reducible assumption
    | with_reducible apply State.flitAged_parts

theorem execMoverCopy_parts {M : Part → Prop} {z : State} {s : State} (h : Parts M z s) (k : Nat) (m_out : M .out)
    (m_free : M .free) (m_regs : M .regs) (m_events : M .events) (m_host : M .host) (m_links : M .links) (m_reservations
    : M .reservations) (m_opn : M .opn) (m_movers : M .movers) (m_power : M .power) (m_answers : M .answers) : ∃ t,
    execMoverCopy k s = .next t ∧ Parts M z t := by
  refine ⟨_, rfl, ?_⟩
  repeat' first
    | with_reducible assumption
    | with_reducible apply State.mvGo_parts
    | intro _
    | split

theorem execMoverConvert_parts {M : Part → Prop} {z : State} {s : State} (h : Parts M z s) (k : Nat) (m_out : M .out)
    (m_free : M .free) (m_regs : M .regs) (m_events : M .events) (m_host : M .host) (m_links : M .links) (m_reservations
    : M .reservations) (m_opn : M .opn) (m_movers : M .movers) (m_power : M .power) (m_answers : M .answers) : ∃ t,
    execMoverConvert k s = .next t ∧ Parts M z t := by
  refine ⟨_, rfl, ?_⟩
  repeat' first
    | with_reducible assumption
    | with_reducible apply State.mvGo_parts
    | intro _
    | split

theorem execMoverReply_parts {M : Part → Prop} {z : State} {s : State} (h : Parts M z s) (k : Nat) (f : Flit) (m_out : M
    .out) (m_free : M .free) (m_regs : M .regs) (m_events : M .events) (m_host : M .host) (m_links : M .links)
    (m_reservations : M .reservations) (m_opn : M .opn) (m_arrays : M .arrays) (m_movers : M .movers) (m_power : M
    .power) (m_answers : M .answers) : ∃ t, execMoverReply k f s = .next t ∧ Parts M z t := by
  refine ⟨_, rfl, ?_⟩
  repeat' first
    | with_reducible assumption
    | with_reducible apply State.mvReply_parts
    | with_reducible apply State.served_parts
    | with_reducible apply State.headerDiscard_parts
    | intro _
    | split
    | dsimp only

theorem execMoverDrainDone_parts {M : Part → Prop} {z : State} {s : State} (h : Parts M z s) (k : Nat) (m_regs : M .regs) :
    ∃ t, execMoverDrainDone k s = .next t ∧ Parts M z t := by
  refine ⟨_, rfl, ?_⟩
  repeat' first
    | with_reducible assumption
    | with_reducible apply State.mvDrained_parts
    | intro _
    | split

theorem execMvResume_parts {M : Part → Prop} {z : State} {s : State} (h : Parts M z s) (k : Nat) (m_out : M .out)
    (m_free : M .free) (m_regs : M .regs) (m_events : M .events) (m_host : M .host) (m_links : M .links) (m_reservations
    : M .reservations) (m_opn : M .opn) (m_movers : M .movers) (m_power : M .power) (m_answers : M .answers) : ∃ t,
    execMvResume k s = .next t ∧ Parts M z t := by
  refine ⟨_, rfl, ?_⟩
  repeat' first
    | with_reducible assumption
    | with_reducible apply State.mvResume_parts
    | intro _
    | split

theorem execMvAbort_parts {M : Part → Prop} {z : State} {s : State} (h : Parts M z s) (k : Nat) (m_regs : M .regs)
    (m_movers : M .movers) :
    ∃ t, execMvAbort k s = .next t ∧ Parts M z t := by
  refine ⟨_, rfl, ?_⟩
  repeat' first
    | with_reducible assumption
    | with_reducible apply State.mvAbort_parts
    | intro _
    | split

theorem execRefreshRound_parts {M : Part → Prop} {z : State} {s : State} (h : Parts M z s) (st : Nat) (m_regs : M .regs)
    (m_roundEnd : M .roundEnd) :
    ∃ t, execRefreshRound st s = .next t ∧ Parts M z t := by
  refine ⟨_, rfl, ?_⟩
  repeat' first
    | with_reducible exact Or.inr rfl
    | with_reducible exact Or.inr ⟨rfl, rfl, rfl, rfl, rfl⟩
    | with_reducible exact Or.inl (by assumption)
    | with_reducible assumption
    | with_reducible apply State.bump_parts
    | with_reducible apply State.put_parts
    | intro _
    | split
    | with_reducible refine parts_foldl (fun t x ht => ?_) ?_
    | dsimp only
    | with_reducible apply parts_mk

theorem execSysGibWrite_parts {M : Part → Prop} {z : State} {s : State} (h : Parts M z s) (st v : Nat) (m_free : M .free)
    (m_regs : M .regs) (m_events : M .events) (m_host : M .host) :
    ∃ t, execSysGibWrite st v s = .next t ∧ Parts M z t := by
  refine ⟨_, rfl, ?_⟩
  repeat' first
    | with_reducible assumption
    | with_reducible apply State.sysGib_parts
    | intro _
    | split

theorem execStackMoverOut_parts {M : Part → Prop} {z : State} {s : State} (h : Parts M z s) (st slot : Nat)
    (m_free : M .free) (m_regs : M .regs) (m_mem : M .mem) (m_events : M .events) (m_host : M .host)
    (m_arrays : M .arrays) (m_watch : M .watch) (m_sched : M .sched) (m_runs : M .runs) :
    ∃ t, execStackMoverOut st slot s = .next t ∧ Parts M z t := by
  refine ⟨_, rfl, ?_⟩
  repeat' first
    | with_reducible assumption
    | with_reducible apply State.stackOut_parts
    | intro _
    | split

theorem execStackMoverIn_parts {M : Part → Prop} {z : State} {s : State} (h : Parts M z s) (st slot : Nat)
    (m_free : M .free) (m_regs : M .regs) (m_mem : M .mem) (m_events : M .events) (m_host : M .host)
    (m_arrays : M .arrays) (m_watch : M .watch) (m_runs : M .runs) :
    ∃ t, execStackMoverIn st slot s = .next t ∧ Parts M z t := by
  refine ⟨_, rfl, ?_⟩
  repeat' first
    | with_reducible assumption
    | with_reducible apply State.stackIn_parts
    | intro _
    | split

theorem execStackMoverCopy_parts {M : Part → Prop} {z : State} {s : State} (h : Parts M z s) (st slot : Nat)
    (m_free : M .free) (m_regs : M .regs) (m_mem : M .mem) (m_events : M .events) (m_host : M .host)
    (m_arrays : M .arrays) (m_watch : M .watch) (m_runs : M .runs) :
    ∃ t, execStackMoverCopy st slot s = .next t ∧ Parts M z t := by
  refine ⟨_, rfl, ?_⟩
  repeat' first
    | with_reducible assumption
    | with_reducible apply State.stackCopy_parts
    | intro _
    | split

theorem execFlitConsume_parts {M : Part → Prop} {z : State} {s : State} (h : Parts M z s) (link sid o : Nat) (m_out : M
    .out) (m_free : M .free) (m_regs : M .regs) (m_mem : M .mem) (m_events : M .events) (m_host : M .host) (m_belfry : M
    .belfry) (m_links : M .links) (m_arrays : M .arrays) (m_watch : M .watch) (m_sched : M .sched) (m_tiles : M .tiles)
    : ∃ t, execFlitConsume link sid o s = .next t ∧ Parts M z t := by
  refine ⟨_, rfl, ?_⟩
  repeat' first
    | with_reducible assumption
    | with_reducible apply State.consumeLand_parts

theorem execTickBodyComplete_parts {M : Part → Prop} {z : State} {s : State} (h : Parts M z s) (g : Nat) (m_out : M
    .out) (m_free : M .free) (m_regs : M .regs) (m_mem : M .mem) (m_events : M .events) (m_host : M .host) (m_belfry : M
    .belfry) (m_arrays : M .arrays) (m_watch : M .watch) (m_sched : M .sched) (m_tiles : M .tiles) (m_spots : M .spots)
    : ∃ t, execTickBodyComplete g s = .next t ∧ Parts M z t := by
  refine ⟨_, rfl, ?_⟩
  repeat' first
    | with_reducible assumption
    | with_reducible apply State.bodyComplete_parts
    | intro _
    | split

theorem execPrefetchComplete_parts {M : Part → Prop} {z : State} {s : State} (h : Parts M z s) (g : Nat)
    (m_free : M .free) (m_regs : M .regs) (m_events : M .events) (m_host : M .host) (m_tiles : M .tiles) :
    ∃ t, execPrefetchComplete g s = .next t ∧ Parts M z t := by
  refine ⟨_, rfl, ?_⟩
  repeat' first
    | with_reducible assumption
    | with_reducible apply State.prefetchDone_parts

theorem execImemWdataWrite_parts {M : Part → Prop} {z : State} {s : State} (h : Parts M z s) (g : Nat) (lantern : Bool)
    (v : Nat) (m_out : M .out) (m_free : M .free) (m_regs : M .regs) (m_mem : M .mem) (m_events : M .events) (m_host : M
    .host) (m_tiles : M .tiles) : ∃ t, execImemWdataWrite g lantern v s = .next t ∧ Parts M z t := by
  refine ⟨_, rfl, ?_⟩
  repeat' first
    | with_reducible assumption
    | with_reducible apply State.imemHold_parts
    | with_reducible apply State.imemPerform_parts
    | intro _
    | split
    | dsimp only

theorem execBillinCopy_parts {M : Part → Prop} {z : State} {s : State} (h : Parts M z s) (g i : Nat) (m_free : M .free)
    (m_regs : M .regs) (m_mem : M .mem) (m_events : M .events) (m_host : M .host) (m_belfry : M .belfry)
    (m_arrays : M .arrays) (m_watch : M .watch) (m_tiles : M .tiles) (m_spots : M .spots) :
    ∃ t, execBillinCopy g i s = .next t ∧ Parts M z t := by
  refine ⟨_, rfl, ?_⟩
  repeat' first
    | with_reducible assumption
    | with_reducible apply State.dataInsn_parts

theorem execFill_parts {M : Part → Prop} {z : State} {s : State} (h : Parts M z s) (g i : Nat) (m_free : M .free)
    (m_regs : M .regs) (m_mem : M .mem) (m_events : M .events) (m_host : M .host) (m_belfry : M .belfry)
    (m_arrays : M .arrays) (m_watch : M .watch) (m_tiles : M .tiles) (m_spots : M .spots) :
    ∃ t, execFill g i s = .next t ∧ Parts M z t := by
  refine ⟨_, rfl, ?_⟩
  repeat' first
    | with_reducible assumption
    | with_reducible apply State.dataInsn_parts

theorem execGather_parts {M : Part → Prop} {z : State} {s : State} (h : Parts M z s) (g i : Nat) (m_free : M .free)
    (m_regs : M .regs) (m_mem : M .mem) (m_events : M .events) (m_host : M .host) (m_belfry : M .belfry)
    (m_arrays : M .arrays) (m_watch : M .watch) (m_tiles : M .tiles) (m_spots : M .spots) :
    ∃ t, execGather g i s = .next t ∧ Parts M z t := by
  refine ⟨_, rfl, ?_⟩
  repeat' first
    | with_reducible assumption
    | with_reducible apply State.dataInsn_parts

theorem execScatter_parts {M : Part → Prop} {z : State} {s : State} (h : Parts M z s) (g i : Nat) (m_free : M .free)
    (m_regs : M .regs) (m_mem : M .mem) (m_events : M .events) (m_host : M .host) (m_belfry : M .belfry)
    (m_arrays : M .arrays) (m_watch : M .watch) (m_tiles : M .tiles) (m_spots : M .spots) :
    ∃ t, execScatter g i s = .next t ∧ Parts M z t := by
  refine ⟨_, rfl, ?_⟩
  repeat' first
    | with_reducible assumption
    | with_reducible apply State.dataInsn_parts

theorem execBillinMma_parts {M : Part → Prop} {z : State} {s : State} (h : Parts M z s) (g i : Nat) (m_free : M .free)
    (m_regs : M .regs) (m_mem : M .mem) (m_events : M .events) (m_host : M .host) (m_belfry : M .belfry)
    (m_arrays : M .arrays) (m_watch : M .watch) (m_tiles : M .tiles) (m_spots : M .spots) :
    ∃ t, execBillinMma g i s = .next t ∧ Parts M z t := by
  refine ⟨_, rfl, ?_⟩
  repeat' first
    | with_reducible assumption
    | with_reducible apply State.dataInsn_parts

theorem execAdd_parts {M : Part → Prop} {z : State} {s : State} (h : Parts M z s) (g i : Nat) (m_free : M .free)
    (m_regs : M .regs) (m_mem : M .mem) (m_events : M .events) (m_host : M .host) (m_belfry : M .belfry)
    (m_arrays : M .arrays) (m_watch : M .watch) (m_tiles : M .tiles) (m_spots : M .spots) :
    ∃ t, execAdd g i s = .next t ∧ Parts M z t := by
  refine ⟨_, rfl, ?_⟩
  repeat' first
    | with_reducible assumption
    | with_reducible apply State.dataInsn_parts

theorem execSub_parts {M : Part → Prop} {z : State} {s : State} (h : Parts M z s) (g i : Nat) (m_free : M .free)
    (m_regs : M .regs) (m_mem : M .mem) (m_events : M .events) (m_host : M .host) (m_belfry : M .belfry)
    (m_arrays : M .arrays) (m_watch : M .watch) (m_tiles : M .tiles) (m_spots : M .spots) :
    ∃ t, execSub g i s = .next t ∧ Parts M z t := by
  refine ⟨_, rfl, ?_⟩
  repeat' first
    | with_reducible assumption
    | with_reducible apply State.dataInsn_parts

theorem execMul_parts {M : Part → Prop} {z : State} {s : State} (h : Parts M z s) (g i : Nat) (m_free : M .free)
    (m_regs : M .regs) (m_mem : M .mem) (m_events : M .events) (m_host : M .host) (m_belfry : M .belfry)
    (m_arrays : M .arrays) (m_watch : M .watch) (m_tiles : M .tiles) (m_spots : M .spots) :
    ∃ t, execMul g i s = .next t ∧ Parts M z t := by
  refine ⟨_, rfl, ?_⟩
  repeat' first
    | with_reducible assumption
    | with_reducible apply State.dataInsn_parts

theorem execFma_parts {M : Part → Prop} {z : State} {s : State} (h : Parts M z s) (g i : Nat) (m_free : M .free)
    (m_regs : M .regs) (m_mem : M .mem) (m_events : M .events) (m_host : M .host) (m_belfry : M .belfry)
    (m_arrays : M .arrays) (m_watch : M .watch) (m_tiles : M .tiles) (m_spots : M .spots) :
    ∃ t, execFma g i s = .next t ∧ Parts M z t := by
  refine ⟨_, rfl, ?_⟩
  repeat' first
    | with_reducible assumption
    | with_reducible apply State.dataInsn_parts

theorem execMax_parts {M : Part → Prop} {z : State} {s : State} (h : Parts M z s) (g i : Nat) (m_free : M .free)
    (m_regs : M .regs) (m_mem : M .mem) (m_events : M .events) (m_host : M .host) (m_belfry : M .belfry)
    (m_arrays : M .arrays) (m_watch : M .watch) (m_tiles : M .tiles) (m_spots : M .spots) :
    ∃ t, execMax g i s = .next t ∧ Parts M z t := by
  refine ⟨_, rfl, ?_⟩
  repeat' first
    | with_reducible assumption
    | with_reducible apply State.dataInsn_parts

theorem execMin_parts {M : Part → Prop} {z : State} {s : State} (h : Parts M z s) (g i : Nat) (m_free : M .free)
    (m_regs : M .regs) (m_mem : M .mem) (m_events : M .events) (m_host : M .host) (m_belfry : M .belfry)
    (m_arrays : M .arrays) (m_watch : M .watch) (m_tiles : M .tiles) (m_spots : M .spots) :
    ∃ t, execMin g i s = .next t ∧ Parts M z t := by
  refine ⟨_, rfl, ?_⟩
  repeat' first
    | with_reducible assumption
    | with_reducible apply State.dataInsn_parts

theorem execDiv_parts {M : Part → Prop} {z : State} {s : State} (h : Parts M z s) (g i : Nat) (m_free : M .free)
    (m_regs : M .regs) (m_mem : M .mem) (m_events : M .events) (m_host : M .host) (m_belfry : M .belfry)
    (m_arrays : M .arrays) (m_watch : M .watch) (m_tiles : M .tiles) (m_spots : M .spots) :
    ∃ t, execDiv g i s = .next t ∧ Parts M z t := by
  refine ⟨_, rfl, ?_⟩
  repeat' first
    | with_reducible assumption
    | with_reducible apply State.dataInsn_parts

theorem execSqrt_parts {M : Part → Prop} {z : State} {s : State} (h : Parts M z s) (g i : Nat) (m_free : M .free)
    (m_regs : M .regs) (m_mem : M .mem) (m_events : M .events) (m_host : M .host) (m_belfry : M .belfry)
    (m_arrays : M .arrays) (m_watch : M .watch) (m_tiles : M .tiles) (m_spots : M .spots) :
    ∃ t, execSqrt g i s = .next t ∧ Parts M z t := by
  refine ⟨_, rfl, ?_⟩
  repeat' first
    | with_reducible assumption
    | with_reducible apply State.dataInsn_parts

theorem execExp2_parts {M : Part → Prop} {z : State} {s : State} (h : Parts M z s) (g i : Nat) (m_free : M .free)
    (m_regs : M .regs) (m_mem : M .mem) (m_events : M .events) (m_host : M .host) (m_belfry : M .belfry)
    (m_arrays : M .arrays) (m_watch : M .watch) (m_tiles : M .tiles) (m_spots : M .spots) :
    ∃ t, execExp2 g i s = .next t ∧ Parts M z t := by
  refine ⟨_, rfl, ?_⟩
  repeat' first
    | with_reducible assumption
    | with_reducible apply State.dataInsn_parts

theorem execSign_parts {M : Part → Prop} {z : State} {s : State} (h : Parts M z s) (g i : Nat) (m_free : M .free)
    (m_regs : M .regs) (m_mem : M .mem) (m_events : M .events) (m_host : M .host) (m_belfry : M .belfry)
    (m_arrays : M .arrays) (m_watch : M .watch) (m_tiles : M .tiles) (m_spots : M .spots) :
    ∃ t, execSign g i s = .next t ∧ Parts M z t := by
  refine ⟨_, rfl, ?_⟩
  repeat' first
    | with_reducible assumption
    | with_reducible apply State.dataInsn_parts

theorem execAbs_parts {M : Part → Prop} {z : State} {s : State} (h : Parts M z s) (g i : Nat) (m_free : M .free)
    (m_regs : M .regs) (m_mem : M .mem) (m_events : M .events) (m_host : M .host) (m_belfry : M .belfry)
    (m_arrays : M .arrays) (m_watch : M .watch) (m_tiles : M .tiles) (m_spots : M .spots) :
    ∃ t, execAbs g i s = .next t ∧ Parts M z t := by
  refine ⟨_, rfl, ?_⟩
  repeat' first
    | with_reducible assumption
    | with_reducible apply State.dataInsn_parts

theorem execRsum_parts {M : Part → Prop} {z : State} {s : State} (h : Parts M z s) (g i : Nat) (m_free : M .free)
    (m_regs : M .regs) (m_mem : M .mem) (m_events : M .events) (m_host : M .host) (m_belfry : M .belfry)
    (m_arrays : M .arrays) (m_watch : M .watch) (m_tiles : M .tiles) (m_spots : M .spots) :
    ∃ t, execRsum g i s = .next t ∧ Parts M z t := by
  refine ⟨_, rfl, ?_⟩
  repeat' first
    | with_reducible assumption
    | with_reducible apply State.dataInsn_parts

theorem execRmax_parts {M : Part → Prop} {z : State} {s : State} (h : Parts M z s) (g i : Nat) (m_free : M .free)
    (m_regs : M .regs) (m_mem : M .mem) (m_events : M .events) (m_host : M .host) (m_belfry : M .belfry)
    (m_arrays : M .arrays) (m_watch : M .watch) (m_tiles : M .tiles) (m_spots : M .spots) :
    ∃ t, execRmax g i s = .next t ∧ Parts M z t := by
  refine ⟨_, rfl, ?_⟩
  repeat' first
    | with_reducible assumption
    | with_reducible apply State.dataInsn_parts

theorem execRmin_parts {M : Part → Prop} {z : State} {s : State} (h : Parts M z s) (g i : Nat) (m_free : M .free)
    (m_regs : M .regs) (m_mem : M .mem) (m_events : M .events) (m_host : M .host) (m_belfry : M .belfry)
    (m_arrays : M .arrays) (m_watch : M .watch) (m_tiles : M .tiles) (m_spots : M .spots) :
    ∃ t, execRmin g i s = .next t ∧ Parts M z t := by
  refine ⟨_, rfl, ?_⟩
  repeat' first
    | with_reducible assumption
    | with_reducible apply State.dataInsn_parts

theorem execFenceAcq_parts {M : Part → Prop} {z : State} {s : State} (h : Parts M z s) (g i : Nat) (m_tiles : M .tiles)
    : ∃ t, execFenceAcq g i s = .next t ∧ Parts M z t := by
  refine ⟨_, rfl, ?_⟩
  repeat' first
    | with_reducible assumption
    | with_reducible apply State.fence_parts

theorem execFenceRel_parts {M : Part → Prop} {z : State} {s : State} (h : Parts M z s) (g i : Nat) (m_tiles : M .tiles)
    : ∃ t, execFenceRel g i s = .next t ∧ Parts M z t := by
  refine ⟨_, rfl, ?_⟩
  repeat' first
    | with_reducible assumption
    | with_reducible apply State.fence_parts

theorem execFenceFull_parts {M : Part → Prop} {z : State} {s : State} (h : Parts M z s) (g i : Nat) (m_tiles : M .tiles)
    : ∃ t, execFenceFull g i s = .next t ∧ Parts M z t := by
  refine ⟨_, rfl, ?_⟩
  repeat' first
    | with_reducible assumption
    | with_reducible apply State.fence_parts

theorem execFlagSet_parts {M : Part → Prop} {z : State} {s : State} (h : Parts M z s) (g i : Nat) (m_tiles : M .tiles) :
    ∃ t, execFlagSet g i s = .next t ∧ Parts M z t := by
  refine ⟨_, rfl, ?_⟩
  repeat' first
    | with_reducible assumption
    | with_reducible apply State.flagSet_parts

theorem execFlagWait_parts {M : Part → Prop} {z : State} {s : State} (h : Parts M z s) (g i : Nat) (m_tiles : M .tiles)
    : ∃ t, execFlagWait g i s = .next t ∧ Parts M z t := by
  refine ⟨_, rfl, ?_⟩
  repeat' first
    | with_reducible assumption
    | with_reducible apply State.flagWait_parts

theorem execFlagWaitv_parts {M : Part → Prop} {z : State} {s : State} (h : Parts M z s) (g i : Nat) (m_free : M .free)
    (m_regs : M .regs) (m_mem : M .mem) (m_events : M .events) (m_host : M .host) (m_arrays : M .arrays)
    (m_watch : M .watch) (m_tiles : M .tiles) :
    ∃ t, execFlagWaitv g i s = .next t ∧ Parts M z t := by
  refine ⟨_, rfl, ?_⟩
  repeat' first
    | with_reducible assumption
    | with_reducible apply State.flagWaitv_parts

theorem execFlagWaitDone_parts {M : Part → Prop} {z : State} {s : State} (h : Parts M z s) (g q : Nat) (m_tiles : M
    .tiles) : ∃ t, execFlagWaitDone g q s = .next t ∧ Parts M z t := by
  refine ⟨_, rfl, ?_⟩
  repeat' first
    | with_reducible assumption
    | with_reducible apply State.waitDone_parts
    | intro _
    | split

theorem execSort_parts {M : Part → Prop} {z : State} {s : State} (h : Parts M z s) (g i : Nat) (m_free : M .free)
    (m_regs : M .regs) (m_mem : M .mem) (m_events : M .events) (m_host : M .host) (m_arrays : M .arrays)
    (m_watch : M .watch) (m_tiles : M .tiles) :
    ∃ t, execSort g i s = .next t ∧ Parts M z t := by
  refine ⟨_, rfl, ?_⟩
  repeat' first
    | with_reducible assumption
    | with_reducible apply State.callRun_parts
    | with_reducible apply State.libSort_parts
    | intro _

theorem execTopk_parts {M : Part → Prop} {z : State} {s : State} (h : Parts M z s) (g i : Nat) (m_free : M .free)
    (m_regs : M .regs) (m_mem : M .mem) (m_events : M .events) (m_host : M .host) (m_arrays : M .arrays)
    (m_watch : M .watch) (m_tiles : M .tiles) :
    ∃ t, execTopk g i s = .next t ∧ Parts M z t := by
  refine ⟨_, rfl, ?_⟩
  repeat' first
    | with_reducible assumption
    | with_reducible apply State.callRun_parts
    | with_reducible apply State.libTopk_parts
    | intro _

theorem execSoftmax_parts {M : Part → Prop} {z : State} {s : State} (h : Parts M z s) (g i : Nat) (m_free : M .free)
    (m_regs : M .regs) (m_mem : M .mem) (m_events : M .events) (m_host : M .host) (m_arrays : M .arrays)
    (m_watch : M .watch) (m_tiles : M .tiles) :
    ∃ t, execSoftmax g i s = .next t ∧ Parts M z t := by
  refine ⟨_, rfl, ?_⟩
  repeat' first
    | with_reducible assumption
    | with_reducible apply State.callRun_parts
    | with_reducible apply State.libSoftmax_parts
    | intro _

theorem execAttnPartial_parts {M : Part → Prop} {z : State} {s : State} (h : Parts M z s) (g i : Nat) (m_free : M .free)
    (m_regs : M .regs) (m_mem : M .mem) (m_events : M .events) (m_host : M .host) (m_arrays : M .arrays)
    (m_watch : M .watch) (m_tiles : M .tiles) :
    ∃ t, execAttnPartial g i s = .next t ∧ Parts M z t := by
  refine ⟨_, rfl, ?_⟩
  repeat' first
    | with_reducible assumption
    | with_reducible apply State.callRun_parts
    | with_reducible apply State.libAttnPartial_parts
    | intro _

theorem execAttnMerge_parts {M : Part → Prop} {z : State} {s : State} (h : Parts M z s) (g i : Nat) (m_free : M .free)
    (m_regs : M .regs) (m_mem : M .mem) (m_events : M .events) (m_host : M .host) (m_arrays : M .arrays)
    (m_watch : M .watch) (m_tiles : M .tiles) :
    ∃ t, execAttnMerge g i s = .next t ∧ Parts M z t := by
  refine ⟨_, rfl, ?_⟩
  repeat' first
    | with_reducible assumption
    | with_reducible apply State.callRun_parts
    | with_reducible apply State.libAttnMerge_parts
    | intro _

theorem execLibScan_parts {M : Part → Prop} {z : State} {s : State} (h : Parts M z s) (g i : Nat) (m_free : M .free)
    (m_regs : M .regs) (m_mem : M .mem) (m_events : M .events) (m_host : M .host) (m_arrays : M .arrays)
    (m_watch : M .watch) (m_tiles : M .tiles) :
    ∃ t, execLibScan g i s = .next t ∧ Parts M z t := by
  refine ⟨_, rfl, ?_⟩
  repeat' first
    | with_reducible assumption
    | with_reducible apply State.callRun_parts
    | with_reducible apply State.libScan_parts
    | intro _

theorem execHistogram_parts {M : Part → Prop} {z : State} {s : State} (h : Parts M z s) (g i : Nat) (m_free : M .free)
    (m_regs : M .regs) (m_mem : M .mem) (m_events : M .events) (m_host : M .host) (m_arrays : M .arrays)
    (m_watch : M .watch) (m_tiles : M .tiles) :
    ∃ t, execHistogram g i s = .next t ∧ Parts M z t := by
  refine ⟨_, rfl, ?_⟩
  repeat' first
    | with_reducible assumption
    | with_reducible apply State.callRun_parts
    | with_reducible apply State.libHistogram_parts
    | intro _

theorem execFilter_parts {M : Part → Prop} {z : State} {s : State} (h : Parts M z s) (g i : Nat) (m_free : M .free)
    (m_regs : M .regs) (m_mem : M .mem) (m_events : M .events) (m_host : M .host) (m_arrays : M .arrays)
    (m_watch : M .watch) (m_tiles : M .tiles) :
    ∃ t, execFilter g i s = .next t ∧ Parts M z t := by
  refine ⟨_, rfl, ?_⟩
  repeat' first
    | with_reducible assumption
    | with_reducible apply State.callRun_parts
    | with_reducible apply State.libFilter_parts
    | intro _

theorem execUeNorm_parts {M : Part → Prop} {z : State} {s : State} (h : Parts M z s) (c slot : Nat) (m_free : M .free)
    (m_regs : M .regs) (m_mem : M .mem) (m_events : M .events) (m_host : M .host) (m_arrays : M .arrays)
    (m_watch : M .watch) (m_runs : M .runs) (m_ueStep : M .ueStep) :
    ∃ t, execUeNorm c slot s = .next t ∧ Parts M z t := by
  refine ⟨_, rfl, ?_⟩
  repeat' first
    | with_reducible assumption
    | with_reducible apply State.passStep_parts
    | with_reducible apply State.ueNorm_parts
    | intro _

theorem execUeApply_parts {M : Part → Prop} {z : State} {s : State} (h : Parts M z s) (c slot : Nat) (m_free : M .free)
    (m_regs : M .regs) (m_mem : M .mem) (m_events : M .events) (m_host : M .host) (m_arrays : M .arrays)
    (m_watch : M .watch) (m_sched : M .sched) (m_runs : M .runs) (m_ueStep : M .ueStep) :
    ∃ t, execUeApply c slot s = .next t ∧ Parts M z t := by
  refine ⟨_, rfl, ?_⟩
  repeat' first
    | with_reducible assumption
    | with_reducible apply State.passStep_parts
    | with_reducible apply State.ueApply_parts
    | intro _

theorem execUeFold_parts {M : Part → Prop} {z : State} {s : State} (h : Parts M z s) (c slot : Nat) (m_free : M .free)
    (m_regs : M .regs) (m_mem : M .mem) (m_events : M .events) (m_host : M .host) (m_arrays : M .arrays)
    (m_watch : M .watch) (m_runs : M .runs) :
    ∃ t, execUeFold c slot s = .next t ∧ Parts M z t := by
  refine ⟨_, rfl, ?_⟩
  repeat' first
    | with_reducible assumption
    | with_reducible apply State.passStep_parts
    | with_reducible apply State.ueFold_parts
    | intro _

theorem execUeStage_parts {M : Part → Prop} {z : State} {s : State} (h : Parts M z s) (c slot : Nat) (m_free : M .free)
    (m_regs : M .regs) (m_mem : M .mem) (m_events : M .events) (m_host : M .host) (m_arrays : M .arrays)
    (m_watch : M .watch) (m_runs : M .runs) :
    ∃ t, execUeStage c slot s = .next t ∧ Parts M z t := by
  refine ⟨_, rfl, ?_⟩
  repeat' first
    | with_reducible assumption
    | with_reducible apply State.passStep_parts
    | with_reducible apply State.ueStage_parts
    | intro _

theorem execUeCommit_parts {M : Part → Prop} {z : State} {s : State} (h : Parts M z s) (c slot : Nat) (m_free : M .free)
    (m_regs : M .regs) (m_mem : M .mem) (m_events : M .events) (m_host : M .host) (m_arrays : M .arrays)
    (m_watch : M .watch) (m_runs : M .runs) :
    ∃ t, execUeCommit c slot s = .next t ∧ Parts M z t := by
  refine ⟨_, rfl, ?_⟩
  repeat' first
    | with_reducible assumption
    | with_reducible apply State.passStep_parts
    | with_reducible apply State.ueCommit_parts
    | intro _

theorem execUeStepLoRead_parts {M : Part → Prop} {z : State} {s : State} (h : Parts M z s) (c : Nat) (m_out : M .out)
    (m_regs : M .regs) :
    ∃ t, execUeStepLoRead c s = .next t ∧ Parts M z t := by
  refine ⟨_, rfl, ?_⟩
  repeat' first
    | with_reducible assumption
    | with_reducible apply State.readUeStep_parts
    | with_reducible apply State.emit_parts
    | intro _
    | split

theorem execChkGo_parts {M : Part → Prop} {z : State} {s : State} (h : Parts M z s) (c unit : Nat) (m_regs : M .regs) :
    ∃ t, execChkGo c unit s = .next t ∧ Parts M z t := by
  refine ⟨_, rfl, ?_⟩
  repeat' first
    | with_reducible assumption
    | with_reducible apply State.chkGo_parts
    | intro _
    | split

theorem execChkDone_parts {M : Part → Prop} {z : State} {s : State} (h : Parts M z s) (c : Nat) (m_free : M .free)
    (m_regs : M .regs) (m_mem : M .mem) (m_events : M .events) (m_host : M .host) (m_arrays : M .arrays)
    (m_watch : M .watch) :
    ∃ t, execChkDone c s = .next t ∧ Parts M z t := by
  refine ⟨_, rfl, ?_⟩
  repeat' first
    | with_reducible assumption
    | with_reducible apply State.chkDone_parts
    | intro _
    | split

theorem execIngressSwitch_parts {M : Part → Prop} {z : State} {s : State} (h : Parts M z s) (link vc : Nat) (m_out : M
    .out) (m_free : M .free) (m_regs : M .regs) (m_events : M .events) (m_host : M .host) (m_links : M .links) (m_opn :
    M .opn) (m_arrays : M .arrays) : ∃ t, execIngressSwitch link vc s = .next t ∧ Parts M z t := by
  refine ⟨_, rfl, ?_⟩
  repeat' first
    | with_reducible assumption
    | with_reducible apply State.ingressSwitch_parts

theorem execOvfConfigWrite_parts {M : Part → Prop} {z : State} {s : State} (h : Parts M z s) (keep v : Nat)
    (m_free : M .free) (m_regs : M .regs) (m_events : M .events) (m_host : M .host) :
    ∃ t, execOvfConfigWrite keep v s = .next t ∧ Parts M z t := by
  refine ⟨_, rfl, ?_⟩
  repeat' first
    | with_reducible assumption
    | with_reducible apply State.ovfWrite_parts
    | intro _
    | split

theorem execEgressAdmit_parts {M : Part → Prop} {z : State} {s : State} (h : Parts M z s) (keep out vc : Nat) (src :
    QSource) (m_out : M .out) (m_free : M .free) (m_regs : M .regs) (m_events : M .events) (m_host : M .host) (m_links :
    M .links) (m_opn : M .opn) (m_arrays : M .arrays) (m_power : M .power) : ∃ t, execEgressAdmit keep out vc src s =
    .next t ∧ Parts M z t := by
  refine ⟨_, rfl, ?_⟩
  repeat' first
    | with_reducible assumption
    | with_reducible apply State.egressAdmit_parts

theorem execSpillWrite_parts {M : Part → Prop} {z : State} {s : State} (h : Parts M z s) (keep out vc : Nat) (m_free : M
    .free) (m_regs : M .regs) (m_mem : M .mem) (m_events : M .events) (m_host : M .host) (m_opn : M .opn) (m_arrays : M
    .arrays) (m_watch : M .watch) (m_sched : M .sched) (m_power : M .power) : ∃ t, execSpillWrite keep out vc s = .next
    t ∧ Parts M z t := by
  refine ⟨_, rfl, ?_⟩
  repeat' first
    | with_reducible assumption
    | with_reducible apply State.spillWrite_parts

theorem execSpillReadback_parts {M : Part → Prop} {z : State} {s : State} (h : Parts M z s) (keep out vc : Nat) (ecc :
    SpillEcc) (m_free : M .free) (m_regs : M .regs) (m_mem : M .mem) (m_events : M .events) (m_host : M .host) (m_opn :
    M .opn) (m_arrays : M .arrays) : ∃ t, execSpillReadback keep out vc ecc s = .next t ∧ Parts M z t := by
  refine ⟨_, rfl, ?_⟩
  repeat' first
    | with_reducible assumption
    | with_reducible apply State.spillReadback_parts

theorem execEgressSend_parts {M : Part → Prop} {z : State} {s : State} (h : Parts M z s) (keep out : Nat) (m_out : M
    .out) (m_free : M .free) (m_regs : M .regs) (m_events : M .events) (m_host : M .host) (m_links : M .links)
    (m_reservations : M .reservations) (m_opn : M .opn) (m_arrays : M .arrays) : ∃ t, execEgressSend keep out s = .next
    t ∧ Parts M z t := by
  refine ⟨_, rfl, ?_⟩
  repeat' first
    | with_reducible assumption
    | with_reducible apply State.egressSend_parts
    | intro _
    | split

theorem execPfcFrameReceive_parts {M : Part → Prop} {z : State} {s : State} (h : Parts M z s) (enable : Nat) (quanta :
    List Nat) (m_host : M .host) : ∃ t, execPfcFrameReceive enable quanta s = .next t ∧ Parts M z t := by
  refine ⟨_, rfl, ?_⟩
  repeat' first
    | with_reducible assumption
    | with_reducible apply State.pfcReceive_parts

theorem execPauseExpiry_parts {M : Part → Prop} {z : State} {s : State} (h : Parts M z s) (p : Nat) (m_host : M .host) :
    ∃ t, execPauseExpiry p s = .next t ∧ Parts M z t := by
  refine ⟨_, rfl, ?_⟩
  repeat' first
    | with_reducible assumption
    | with_reducible apply State.pauseExpiry_parts

theorem execPfcRepeat_parts {M : Part → Prop} {z : State} {s : State} (h : Parts M z s) (p : Nat) (m_out : M .out)
    (m_regs : M .regs) (m_host : M .host) :
    ∃ t, execPfcRepeat p s = .next t ∧ Parts M z t := by
  refine ⟨_, rfl, ?_⟩
  repeat' first
    | with_reducible assumption
    | with_reducible apply State.pfcRepeat_parts

theorem execPfcXon_parts {M : Part → Prop} {z : State} {s : State} (h : Parts M z s) (p : Nat) (m_out : M .out)
    (m_regs : M .regs) :
    ∃ t, execPfcXon p s = .next t ∧ Parts M z t := by
  refine ⟨_, rfl, ?_⟩
  repeat' first
    | with_reducible assumption
    | with_reducible apply State.sendXon_parts
    | intro _
    | split

theorem execHostFrameReceive_parts {M : Part → Prop} {z : State} {s : State} (h : Parts M z s) (bytes : List Byte)
    (m_out : M .out) (m_free : M .free) (m_regs : M .regs) (m_events : M .events) (m_host : M .host) :
    ∃ t, execHostFrameReceive bytes s = .next t ∧ Parts M z t := by
  refine ⟨_, rfl, ?_⟩
  repeat' first
    | with_reducible assumption
    | with_reducible apply State.hostFrame_parts

theorem execHostIngressForward_parts {M : Part → Prop} {z : State} {s : State} (h : Parts M z s) (p : Nat) (m_out : M
    .out) (m_free : M .free) (m_regs : M .regs) (m_events : M .events) (m_host : M .host) (m_opn : M .opn) : ∃ t,
    execHostIngressForward p s = .next t ∧ Parts M z t := by
  refine ⟨_, rfl, ?_⟩
  repeat' first
    | with_reducible assumption
    | with_reducible apply State.ingressForward_parts

theorem execEthFrameReassembled_parts {M : Part → Prop} {z : State} {s : State} (h : Parts M z s) (vc : Nat) (m_free : M
    .free) (m_regs : M .regs) (m_events : M .events) (m_host : M .host) (m_opn : M .opn) (m_arrays : M .arrays) : ∃ t,
    execEthFrameReassembled vc s = .next t ∧ Parts M z t := by
  refine ⟨_, rfl, ?_⟩
  repeat' first
    | with_reducible assumption
    | with_reducible apply State.reassembled_parts

theorem execHostFrameStart_parts {M : Part → Prop} {z : State} {s : State} (h : Parts M z s) (m_out : M .out) (m_host :
    M .host) : ∃ t, execHostFrameStart s = .next t ∧ Parts M z t := by
  refine ⟨_, rfl, ?_⟩
  repeat' first
    | with_reducible assumption
    | with_reducible apply State.frameStart_parts

theorem execHostLinkUp_parts {M : Part → Prop} {z : State} {s : State} (h : Parts M z s) (m_free : M .free)
    (m_regs : M .regs) (m_events : M .events) (m_host : M .host) (m_streams : M .streams) :
    ∃ t, execHostLinkUp s = .next t ∧ Parts M z t := by
  refine ⟨_, rfl, ?_⟩
  repeat' first
    | with_reducible assumption
    | with_reducible apply State.hostLinkUp_parts

theorem execHostLinkDown_parts {M : Part → Prop} {z : State} {s : State} (h : Parts M z s) (m_free : M .free) (m_regs :
    M .regs) (m_events : M .events) (m_host : M .host) (m_opn : M .opn) (m_streams : M .streams) : ∃ t, execHostLinkDown
    s = .next t ∧ Parts M z t := by
  refine ⟨_, rfl, ?_⟩
  repeat' first
    | with_reducible assumption
    | with_reducible apply State.hostLinkDown_parts

theorem execTripRewrite_parts {M : Part → Prop} {z : State} {s : State} (h : Parts M z s) (key : RegKey)
    (m_free : M .free) (m_regs : M .regs) (m_events : M .events) (m_host : M .host) (m_watch : M .watch) :
    ∃ t, execTripRewrite key s = .next t ∧ Parts M z t := by
  refine ⟨_, rfl, ?_⟩
  repeat' first
    | with_reducible assumption
    | with_reducible apply State.tripVote_parts

theorem execTripEnWrite_parts {M : Part → Prop} {z : State} {s : State} (h : Parts M z s) (v : Nat) (m_regs : M .regs) :
    ∃ t, execTripEnWrite v s = .next t ∧ Parts M z t := by
  refine ⟨_, rfl, ?_⟩
  repeat' first
    | with_reducible assumption
    | with_reducible apply State.writeTrip_parts

theorem execScrubGo_parts {M : Part → Prop} {z : State} {s : State} (h : Parts M z s) (m_free : M .free)
    (m_regs : M .regs) (m_events : M .events) (m_host : M .host) (m_scrub : M .scrub) :
    ∃ t, execScrubGo s = .next t ∧ Parts M z t := by
  refine ⟨_, rfl, ?_⟩
  repeat' first
    | with_reducible assumption
    | with_reducible apply State.scrubGo_parts

theorem execScrubAbort_parts {M : Part → Prop} {z : State} {s : State} (h : Parts M z s) (m_regs : M .regs)
    (m_scrub : M .scrub) :
    ∃ t, execScrubAbort s = .next t ∧ Parts M z t := by
  refine ⟨_, rfl, ?_⟩
  repeat' first
    | with_reducible assumption
    | with_reducible apply State.scrubStop_parts
    | intro _
    | split

theorem execScrubGranule_parts {M : Part → Prop} {z : State} {s : State} (h : Parts M z s) (m_free : M .free)
    (m_regs : M .regs) (m_mem : M .mem) (m_events : M .events) (m_host : M .host) (m_arrays : M .arrays)
    (m_watch : M .watch) (m_scrub : M .scrub) :
    ∃ t, execScrubGranule s = .next t ∧ Parts M z t := by
  refine ⟨_, rfl, ?_⟩
  repeat' first
    | with_reducible assumption
    | with_reducible apply State.scrubGranule_parts

theorem execSpotCheckComplete_parts {M : Part → Prop} {z : State} {s : State} (h : Parts M z s) (c : Nat) (got : List Nat)
    (m_free : M .free) (m_regs : M .regs) (m_events : M .events) (m_host : M .host) (m_watch : M .watch)
    (m_spots : M .spots) :
    ∃ t, execSpotCheckComplete c got s = .next t ∧ Parts M z t := by
  refine ⟨_, rfl, ?_⟩
  repeat' first
    | with_reducible assumption
    | with_reducible apply State.spotDone_parts

theorem execMarginEvaluation_parts {M : Part → Prop} {z : State} {s : State} (h : Parts M z s) (droop canary : List Nat)
    (rx : List Int) (m_out : M .out) (m_free : M .free) (m_regs : M .regs) (m_events : M .events) (m_host : M .host)
    (m_links : M .links) (m_watch : M .watch) (m_margin : M .margin) : ∃ t, execMarginEvaluation droop canary rx s =
    .next t ∧ Parts M z t := by
  refine ⟨_, rfl, ?_⟩
  repeat' first
    | with_reducible assumption
    | with_reducible apply State.marginEval_parts

theorem execLoad_parts {M : Part → Prop} {z : State} {s : State} (h : Parts M z s) (bank : Nat) (m_free : M .free)
    (m_regs : M .regs) (m_events : M .events) (m_host : M .host) (m_opn : M .opn) (m_fst : M .fst) (m_bankA : M .bankA)
    (m_bankB : M .bankB) (m_sched : M .sched) (m_meas : M .meas) :
    ∃ t, execLoad bank s = .next t ∧ Parts M z t := by
  refine ⟨_, rfl, ?_⟩
  repeat' first
    | with_reducible assumption
    | with_reducible apply State.planLoad_parts
    | with_reducible apply State.wr_parts

theorem execPlanLoadDone_parts {M : Part → Prop} {z : State} {s : State} (h : Parts M z s) (m_free : M .free)
    (m_regs : M .regs) (m_events : M .events) (m_host : M .host) (m_opn : M .opn) (m_fst : M .fst) (m_bankA : M .bankA)
    (m_bankB : M .bankB) (m_sched : M .sched) (m_meas : M .meas) (m_power : M .power) :
    ∃ t, execPlanLoadDone s = .next t ∧ Parts M z t := by
  refine ⟨_, rfl, ?_⟩
  repeat' first
    | with_reducible assumption
    | with_reducible apply State.planLoaded_parts

theorem execSwitchAtWrite_parts {M : Part → Prop} {z : State} {s : State} (h : Parts M z s) (v : Nat) (m_free : M .free)
    (m_regs : M .regs) (m_events : M .events) (m_host : M .host) (m_watch : M .watch) (m_sched : M .sched)
    (m_tiles : M .tiles) :
    ∃ t, execSwitchAtWrite v s = .next t ∧ Parts M z t := by
  refine ⟨_, rfl, ?_⟩
  repeat' first
    | with_reducible assumption
    | with_reducible apply State.armSwitch_parts

theorem execDisarm_parts {M : Part → Prop} {z : State} {s : State} (h : Parts M z s) (hi : Nat) (m_regs : M .regs)
    (m_tiles : M .tiles) :
    ∃ t, execDisarm hi s = .next t ∧ Parts M z t := by
  refine ⟨_, rfl, ?_⟩
  repeat' first
    | with_reducible assumption
    | with_reducible apply State.disarm_parts
    | with_reducible apply State.wr_parts

theorem execSoftRst_parts {M : Part → Prop} {z : State} {s : State} (h : Parts M z s) (p : PageId) (m_regs : M .regs) :
    ∃ t, execSoftRst p s = .next t ∧ Parts M z t := by
  refine ⟨_, rfl, ?_⟩
  repeat' first
    | with_reducible assumption
    | with_reducible apply State.armReset_parts

theorem execDigestReceive_parts {M : Part → Prop} {z : State} {s : State} (h : Parts M z s) (d cut digest : Nat) (m_out
    : M .out) (m_free : M .free) (m_regs : M .regs) (m_events : M .events) (m_host : M .host) (m_links : M .links)
    (m_watch : M .watch) : ∃ t, execDigestReceive d cut digest s = .next t ∧ Parts M z t := by
  refine ⟨_, rfl, ?_⟩
  repeat' first
    | with_reducible assumption
    | with_reducible apply State.digestIn_parts
    | intro _
    | split

theorem execAutoResume_parts {M : Part → Prop} {z : State} {s : State} (h : Parts M z s) (m_regs : M .regs)
    (m_watch : M .watch) :
    ∃ t, execAutoResume s = .next t ∧ Parts M z t := by
  refine ⟨_, rfl, ?_⟩
  repeat' first
    | with_reducible assumption
    | with_reducible apply State.autoResume_parts

theorem execRoundDecision_parts {M : Part → Prop} {z : State} {s : State} (h : Parts M z s) (m_out : M .out) (m_free : M
    .free) (m_regs : M .regs) (m_events : M .events) (m_host : M .host) (m_links : M .links) (m_watch : M .watch)
    (m_tiles : M .tiles) : ∃ t, execRoundDecision s = .next t ∧ Parts M z t := by
  refine ⟨_, rfl, ?_⟩
  repeat' first
    | with_reducible assumption
    | with_reducible apply State.decide_parts

theorem execWatchReport_parts {M : Part → Prop} {z : State} {s : State} (h : Parts M z s) (d : Nat) (m : WatchMsg)
    (m_out : M .out) (m_links : M .links) (m_watch : M .watch) : ∃ t, execWatchReport d m s = .next t ∧ Parts M z t := by
  refine ⟨_, rfl, ?_⟩
  repeat' first
    | with_reducible assumption
    | with_reducible apply State.watchReport_parts

theorem execNeighbourSilent_parts {M : Part → Prop} {z : State} {s : State} (h : Parts M z s) (d : Nat) (m_out : M .out)
    (m_free : M .free) (m_regs : M .regs) (m_events : M .events) (m_host : M .host) (m_belfry : M .belfry) (m_links : M
    .links) (m_watch : M .watch) : ∃ t, execNeighbourSilent d s = .next t ∧ Parts M z t := by
  refine ⟨_, rfl, ?_⟩
  repeat' first
    | with_reducible assumption
    | with_reducible apply State.neighbourSilent_parts
    | intro _
    | split

theorem execFlightStepLoRead_parts {M : Part → Prop} {z : State} {s : State} (h : Parts M z s) (m_out : M .out)
    (m_regs : M .regs) :
    ∃ t, execFlightStepLoRead s = .next t ∧ Parts M z t := by
  refine ⟨_, rfl, ?_⟩
  repeat' first
    | with_reducible assumption
    | with_reducible apply State.readFlight_parts
    | with_reducible apply State.emit_parts

theorem execDeclStepLoRead_parts {M : Part → Prop} {z : State} {s : State} (h : Parts M z s) (m_out : M .out)
    (m_regs : M .regs) :
    ∃ t, execDeclStepLoRead s = .next t ∧ Parts M z t := by
  refine ⟨_, rfl, ?_⟩
  repeat' first
    | with_reducible assumption
    | with_reducible apply State.readDecl_parts
    | with_reducible apply State.emit_parts

theorem execCmdResume_parts {M : Part → Prop} {z : State} {s : State} (h : Parts M z s) (m_out : M .out) (m_free : M
    .free) (m_regs : M .regs) (m_events : M .events) (m_host : M .host) (m_belfry : M .belfry) (m_links : M .links)
    (m_watch : M .watch) (m_tiles : M .tiles) : ∃ t, execCmdResume s = .next t ∧ Parts M z t := by
  refine ⟨_, rfl, ?_⟩
  repeat' first
    | with_reducible assumption
    | with_reducible apply State.writeCmd_parts

theorem execCmdAbort_parts {M : Part → Prop} {z : State} {s : State} (h : Parts M z s) (m_out : M .out) (m_free : M
    .free) (m_regs : M .regs) (m_events : M .events) (m_host : M .host) (m_belfry : M .belfry) (m_links : M .links)
    (m_watch : M .watch) (m_tiles : M .tiles) : ∃ t, execCmdAbort s = .next t ∧ Parts M z t := by
  refine ⟨_, rfl, ?_⟩
  repeat' first
    | with_reducible assumption
    | with_reducible apply State.writeCmd_parts

theorem execCmdFabricReset_parts {M : Part → Prop} {z : State} {s : State} (h : Parts M z s) (m_out : M .out) (m_free :
    M .free) (m_regs : M .regs) (m_events : M .events) (m_host : M .host) (m_belfry : M .belfry) (m_links : M .links)
    (m_watch : M .watch) (m_tiles : M .tiles) : ∃ t, execCmdFabricReset s = .next t ∧ Parts M z t := by
  refine ⟨_, rfl, ?_⟩
  repeat' first
    | with_reducible assumption
    | with_reducible apply State.writeCmd_parts

theorem execCommandReceive_parts {M : Part → Prop} {z : State} {s : State} (h : Parts M z s) (d : Nat) (m : WatchMsg)
    (m_out : M .out) (m_free : M .free) (m_regs : M .regs) (m_events : M .events) (m_host : M .host) (m_belfry : M
    .belfry) (m_links : M .links) (m_watch : M .watch) (m_tiles : M .tiles) : ∃ t, execCommandReceive d m s = .next t ∧
    Parts M z t := by
  refine ⟨_, rfl, ?_⟩
  repeat' first
    | with_reducible assumption
    | with_reducible apply State.command_parts
    | intro _
    | split

theorem execCommandTakeEffect_parts {M : Part → Prop} {z : State} {s : State} (h : Parts M z s) (m_free : M .free)
    (m_regs : M .regs) (m_events : M .events) (m_host : M .host) (m_opn : M .opn) (m_fst : M .fst) (m_watch : M .watch)
    (m_bankA : M .bankA) (m_bankB : M .bankB) (m_sched : M .sched) (m_runs : M .runs) (m_movers : M .movers)
    (m_tiles : M .tiles) (m_meas : M .meas) :
    ∃ t, execCommandTakeEffect s = .next t ∧ Parts M z t := by
  refine ⟨_, rfl, ?_⟩
  repeat' first
    | with_reducible assumption
    | with_reducible apply State.takeCommands_parts

theorem execDrainDeadline_parts {M : Part → Prop} {z : State} {s : State} (h : Parts M z s) (m_out : M .out) (m_free : M
    .free) (m_regs : M .regs) (m_events : M .events) (m_host : M .host) (m_links : M .links) (m_reservations : M
    .reservations) (m_routes : M .routes) (m_opn : M .opn) (m_fst : M .fst) (m_watch : M .watch) (m_answers : M
    .answers) : ∃ t, execDrainDeadline s = .next t ∧ Parts M z t := by
  refine ⟨_, rfl, ?_⟩
  repeat' first
    | with_reducible assumption
    | with_reducible apply State.drain_parts

theorem execRbGo_parts {M : Part → Prop} {z : State} {s : State} (h : Parts M z s) (v : Nat) (m_out : M .out) (m_free :
    M .free) (m_regs : M .regs) (m_events : M .events) (m_host : M .host) (m_links : M .links) (m_reservations : M
    .reservations) (m_opn : M .opn) (m_watch : M .watch) (m_movers : M .movers) (m_power : M .power) (m_answers : M
    .answers) : ∃ t, execRbGo v s = .next t ∧ Parts M z t := by
  refine ⟨_, rfl, ?_⟩
  repeat' first
    | with_reducible assumption
    | with_reducible apply State.rbGo_parts

theorem execRestoreCopyDone_parts {M : Part → Prop} {z : State} {s : State} (h : Parts M z s) (ok : Bool) (m_out : M
    .out) (m_free : M .free) (m_regs : M .regs) (m_mem : M .mem) (m_events : M .events) (m_host : M .host) (m_links : M
    .links) (m_reservations : M .reservations) (m_opn : M .opn) (m_arrays : M .arrays) (m_watch : M .watch) (m_atoms : M
    .atoms) (m_movers : M .movers) (m_power : M .power) (m_answers : M .answers) : ∃ t, execRestoreCopyDone ok s = .next
    t ∧ Parts M z t := by
  refine ⟨_, rfl, ?_⟩
  repeat' first
    | with_reducible assumption
    | with_reducible apply State.copyDone_parts

theorem execRestoreCheckDone_parts {M : Part → Prop} {z : State} {s : State} (h : Parts M z s) (srcSum srcNorm : Nat)
    (m_out : M .out) (m_free : M .free) (m_regs : M .regs) (m_events : M .events) (m_host : M .host) (m_links : M
    .links) (m_reservations : M .reservations) (m_opn : M .opn) (m_watch : M .watch) (m_movers : M .movers) (m_power : M
    .power) (m_answers : M .answers) : ∃ t, execRestoreCheckDone srcSum srcNorm s = .next t ∧ Parts M z t := by
  refine ⟨_, rfl, ?_⟩
  repeat' first
    | with_reducible assumption
    | with_reducible apply State.checkDone_parts

theorem execSwitchTick_parts {M : Part → Prop} {z : State} {s : State} (h : Parts M z s) (m_out : M .out) (m_free : M
    .free) (m_regs : M .regs) (m_mem : M .mem) (m_events : M .events) (m_host : M .host) (m_links : M .links)
    (m_reservations : M .reservations) (m_opn : M .opn) (m_arrays : M .arrays) (m_fst : M .fst) (m_watch : M .watch)
    (m_sched : M .sched) (m_movers : M .movers) (m_power : M .power) (m_answers : M .answers) : ∃ t, execSwitchTick s =
    .next t ∧ Parts M z t := by
  refine ⟨_, rfl, ?_⟩
  repeat' first
    | with_reducible assumption
    | with_reducible apply State.switchTick_parts

theorem execWatchPartnerWrite_parts {M : Part → Prop} {z : State} {s : State} (h : Parts M z s) (v : Nat) (m_out : M
    .out) (m_free : M .free) (m_regs : M .regs) (m_events : M .events) (m_host : M .host) (m_links : M .links)
    (m_reservations : M .reservations) (m_opn : M .opn) (m_power : M .power) (m_answers : M .answers) : ∃ t,
    execWatchPartnerWrite v s = .next t ∧ Parts M z t := by
  refine ⟨_, rfl, ?_⟩
  repeat' first
    | with_reducible assumption
    | with_reducible apply State.writePartner_parts

theorem execPairCheck_parts {M : Part → Prop} {z : State} {s : State} (h : Parts M z s) (answer : Option Nat) (m_free :
    M .free) (m_regs : M .regs) (m_events : M .events) (m_host : M .host) : ∃ t, execPairCheck answer s = .next t ∧
    Parts M z t := by
  refine ⟨_, rfl, ?_⟩
  repeat' first
    | with_reducible assumption
    | with_reducible apply State.answer_parts
    | with_reducible apply State.pairAnswer_parts

theorem execFstCommit_parts {M : Part → Prop} {z : State} {s : State} (h : Parts M z s) (m_out : M .out) (m_free : M
    .free) (m_regs : M .regs) (m_events : M .events) (m_host : M .host) (m_links : M .links) (m_reservations : M
    .reservations) (m_opn : M .opn) (m_fst : M .fst) (m_power : M .power) (m_answers : M .answers) : ∃ t, execFstCommit
    s = .next t ∧ Parts M z t := by
  refine ⟨_, rfl, ?_⟩
  repeat' first
    | with_reducible assumption
    | with_reducible apply State.commitEntry_parts

theorem execJoin_parts {M : Part → Prop} {z : State} {s : State} (h : Parts M z s) (v : Nat) (m_out : M .out) (m_free :
    M .free) (m_regs : M .regs) (m_events : M .events) (m_host : M .host) (m_links : M .links) (m_reservations : M
    .reservations) (m_opn : M .opn) (m_watch : M .watch) (m_power : M .power) (m_answers : M .answers) : ∃ t, execJoin v
    s = .next t ∧ Parts M z t := by
  refine ⟨_, rfl, ?_⟩
  repeat' first
    | with_reducible assumption
    | with_reducible apply State.join_parts

theorem execJoinAdopt_parts {M : Part → Prop} {z : State} {s : State} (h : Parts M z s) (d : Nat) (m : Marker)
    (m_regs : M .regs) (m_belfry : M .belfry) (m_watch : M .watch) :
    ∃ t, execJoinAdopt d m s = .next t ∧ Parts M z t := by
  refine ⟨_, rfl, ?_⟩
  repeat' first
    | with_reducible assumption
    | with_reducible apply State.joinAdopt_parts
    | intro _
    | split

theorem execEnroll_parts {M : Part → Prop} {z : State} {s : State} (h : Parts M z s) (m_free : M .free) (m_regs : M .regs)
    (m_events : M .events) (m_host : M .host) (m_keys : M .keys) :
    ∃ t, execEnroll s = .next t ∧ Parts M z t := by
  refine ⟨_, rfl, ?_⟩
  repeat' first
    | with_reducible assumption
    | with_reducible apply State.enroll_parts

theorem execRevoke_parts {M : Part → Prop} {z : State} {s : State} (h : Parts M z s) (m_free : M .free) (m_regs : M .regs)
    (m_events : M .events) (m_host : M .host) (m_keys : M .keys) :
    ∃ t, execRevoke s = .next t ∧ Parts M z t := by
  refine ⟨_, rfl, ?_⟩
  repeat' first
    | with_reducible assumption
    | with_reducible apply State.revoke_parts

theorem execKeySave_parts {M : Part → Prop} {z : State} {s : State} (h : Parts M z s) (m_free : M .free)
    (m_regs : M .regs) (m_mem : M .mem) (m_events : M .events) (m_host : M .host) :
    ∃ t, execKeySave s = .next t ∧ Parts M z t := by
  refine ⟨_, rfl, ?_⟩
  repeat' first
    | with_reducible assumption
    | with_reducible apply State.keySave_parts

theorem execUpdGo_parts {M : Part → Prop} {z : State} {s : State} (h : Parts M z s) (key : Nat) (m_free : M .free)
    (m_regs : M .regs) (m_mem : M .mem) (m_events : M .events) (m_host : M .host) (m_arrays : M .arrays) (m_trust : M
    .trust) : ∃ t, execUpdGo key s = .next t ∧ Parts M z t := by
  refine ⟨_, rfl, ?_⟩
  repeat' first
    | with_reducible assumption
    | with_reducible apply State.updGo_parts

theorem execUpdateComplete_parts {M : Part → Prop} {z : State} {s : State} (h : Parts M z s) (m_free : M .free)
    (m_regs : M .regs) (m_mem : M .mem) (m_events : M .events) (m_host : M .host) (m_trust : M .trust) :
    ∃ t, execUpdateComplete s = .next t ∧ Parts M z t := by
  refine ⟨_, rfl, ?_⟩
  repeat' first
    | with_reducible assumption
    | with_reducible apply State.updateComplete_parts

theorem execFwCommit_parts {M : Part → Prop} {z : State} {s : State} (h : Parts M z s) (key : Nat) (m_free : M .free)
    (m_regs : M .regs) (m_events : M .events) (m_host : M .host) (m_fuses : M .fuses) :
    ∃ t, execFwCommit key s = .next t ∧ Parts M z t := by
  refine ⟨_, rfl, ?_⟩
  repeat' first
    | with_reducible assumption
    | with_reducible apply State.fwCommit_parts

theorem execFkeyRevoke_parts {M : Part → Prop} {z : State} {s : State} (h : Parts M z s) (mask key : Nat)
    (m_free : M .free) (m_regs : M .regs) (m_events : M .events) (m_host : M .host) (m_fuses : M .fuses) :
    ∃ t, execFkeyRevoke mask key s = .next t ∧ Parts M z t := by
  refine ⟨_, rfl, ?_⟩
  repeat' first
    | with_reducible assumption
    | with_reducible apply State.fkeyRevoke_parts

theorem execTestReq_parts {M : Part → Prop} {z : State} {s : State} (h : Parts M z s) (m_free : M .free)
    (m_regs : M .regs) (m_events : M .events) (m_host : M .host) :
    ∃ t, execTestReq s = .next t ∧ Parts M z t := by
  refine ⟨_, rfl, ?_⟩
  repeat' first
    | with_reducible assumption
    | with_reducible apply State.testReq_parts

theorem execDbgReq_parts {M : Part → Prop} {z : State} {s : State} (h : Parts M z s) (m_free : M .free) (m_regs : M .regs)
    (m_events : M .events) (m_host : M .host) :
    ∃ t, execDbgReq s = .next t ∧ Parts M z t := by
  refine ⟨_, rfl, ?_⟩
  repeat' first
    | with_reducible assumption
    | with_reducible apply State.dbgReq_parts

theorem execAttGo_parts {M : Part → Prop} {z : State} {s : State} (h : Parts M z s) (m_regs : M .regs)
    (m_trust : M .trust) :
    ∃ t, execAttGo s = .next t ∧ Parts M z t := by
  refine ⟨_, rfl, ?_⟩
  repeat' first
    | with_reducible assumption
    | with_reducible apply State.attGo_parts

theorem execAttReportReady_parts {M : Part → Prop} {z : State} {s : State} (h : Parts M z s) (m_regs : M .regs)
    (m_trust : M .trust) :
    ∃ t, execAttReportReady s = .next t ∧ Parts M z t := by
  refine ⟨_, rfl, ?_⟩
  repeat' first
    | with_reducible assumption
    | with_reducible apply State.attReady_parts

theorem execAttDataRead_parts {M : Part → Prop} {z : State} {s : State} (h : Parts M z s) (m_out : M .out)
    (m_regs : M .regs) :
    ∃ t, execAttDataRead s = .next t ∧ Parts M z t := by
  refine ⟨_, rfl, ?_⟩
  repeat' first
    | with_reducible assumption
    | with_reducible apply State.readAtt_parts
    | with_reducible apply State.emit_parts

theorem execVaneReading_parts {M : Part → Prop} {z : State} {s : State} (h : Parts M z s) (mainMj backupMj pMain pBackup :
    Nat) (fault : Bool) (m_out : M .out) (m_vane : M .vane) :
    ∃ t, execVaneReading mainMj backupMj pMain pBackup fault s = .next t ∧ Parts M z t := by
  refine ⟨_, rfl, ?_⟩
  repeat' first
    | with_reducible assumption
    | with_reducible apply State.vaneReading_parts

theorem execVaneCommit_parts {M : Part → Prop} {z : State} {s : State} (h : Parts M z s) (m_vane : M .vane) :
    ∃ t, execVaneCommit s = .next t ∧ Parts M z t := by
  refine ⟨_, rfl, ?_⟩
  repeat' first
    | with_reducible assumption
    | with_reducible apply State.vaneCommit_parts

theorem execTamperBreak_parts {M : Part → Prop} {z : State} {s : State} (h : Parts M z s) (m_vane : M .vane) :
    ∃ t, execTamperBreak s = .next t ∧ Parts M z t := by
  refine ⟨_, rfl, ?_⟩
  repeat' first
    | with_reducible assumption
    | with_reducible apply State.tamperBreak_parts

theorem execVaneMirror_parts {M : Part → Prop} {z : State} {s : State} (h : Parts M z s) (bytes : List Byte)
    (m_free : M .free) (m_regs : M .regs) (m_events : M .events) (m_host : M .host) (m_trust : M .trust) :
    ∃ t, execVaneMirror bytes s = .next t ∧ Parts M z t := by
  refine ⟨_, rfl, ?_⟩
  repeat' first
    | with_reducible assumption
    | with_reducible apply State.vaneMirror_parts

theorem execVaneStale_parts {M : Part → Prop} {z : State} {s : State} (h : Parts M z s) (m_free : M .free)
    (m_regs : M .regs) (m_events : M .events) (m_host : M .host) :
    ∃ t, execVaneStale s = .next t ∧ Parts M z t := by
  refine ⟨_, rfl, ?_⟩
  repeat' first
    | with_reducible assumption
    | with_reducible apply State.vaneStale_parts

theorem execVmSeqLoRead_parts {M : Part → Prop} {z : State} {s : State} (h : Parts M z s) (m_out : M .out)
    (m_regs : M .regs) (m_trust : M .trust) :
    ∃ t, execVmSeqLoRead s = .next t ∧ Parts M z t := by
  refine ⟨_, rfl, ?_⟩
  repeat' first
    | with_reducible assumption
    | with_reducible apply State.readVmSeq_parts
    | with_reducible apply State.emit_parts

theorem execVmSigDataRead_parts {M : Part → Prop} {z : State} {s : State} (h : Parts M z s) (m_out : M .out)
    (m_regs : M .regs) :
    ∃ t, execVmSigDataRead s = .next t ∧ Parts M z t := by
  refine ⟨_, rfl, ?_⟩
  repeat' first
    | with_reducible assumption
    | with_reducible apply State.readVmSig_parts
    | with_reducible apply State.emit_parts

theorem execFeedBad_parts {M : Part → Prop} {z : State} {s : State} (h : Parts M z s) (feed : Nat) (m_free : M .free)
    (m_regs : M .regs) (m_events : M .events) (m_host : M .host) :
    ∃ t, execFeedBad feed s = .next t ∧ Parts M z t := by
  refine ⟨_, rfl, ?_⟩
  repeat' first
    | with_reducible assumption
    | with_reducible apply State.feedBad_parts
    | intro _
    | split

theorem execFeedSenseOpen_parts {M : Part → Prop} {z : State} {s : State} (h : Parts M z s) (feed : Nat)
    (m_free : M .free) (m_regs : M .regs) (m_events : M .events) (m_host : M .host) :
    ∃ t, execFeedSenseOpen feed s = .next t ∧ Parts M z t := by
  refine ⟨_, rfl, ?_⟩
  repeat' first
    | with_reducible assumption
    | with_reducible apply State.feedBad_parts
    | intro _
    | split

theorem execFeedGood_parts {M : Part → Prop} {z : State} {s : State} (h : Parts M z s) (feed : Nat) (m_free : M .free)
    (m_regs : M .regs) (m_events : M .events) (m_host : M .host) :
    ∃ t, execFeedGood feed s = .next t ∧ Parts M z t := by
  refine ⟨_, rfl, ?_⟩
  repeat' first
    | with_reducible assumption
    | with_reducible apply State.feedGood_parts
    | intro _
    | split

theorem execFeedReturn_parts {M : Part → Prop} {z : State} {s : State} (h : Parts M z s) (m_free : M .free)
    (m_regs : M .regs) (m_events : M .events) (m_host : M .host) :
    ∃ t, execFeedReturn s = .next t ∧ Parts M z t := by
  refine ⟨_, rfl, ?_⟩
  repeat' first
    | with_reducible assumption
    | with_reducible apply State.feedReturn_parts

theorem execHoldupExpiry_parts {M : Part → Prop} {z : State} {s : State} (h : Parts M z s) (m_regs : M .regs)
    (m_mem : M .mem) (m_events : M .events) (m_host : M .host) (m_belfry : M .belfry) (m_links : M .links)
    (m_d2d : M .d2d) (m_reservations : M .reservations) (m_routes : M .routes) (m_opn : M .opn) (m_arrays : M .arrays)
    (m_fst : M .fst) (m_watch : M .watch) (m_bankA : M .bankA) (m_bankB : M .bankB) (m_sched : M .sched)
    (m_runs : M .runs) (m_frozenNow : M .frozenNow) (m_atoms : M .atoms) (m_waiting : M .waiting) (m_movers : M .movers)
    (m_roundEnd : M .roundEnd) (m_tiles : M .tiles) (m_ueStep : M .ueStep) (m_meas : M .meas) (m_scrub : M .scrub)
    (m_spots : M .spots) (m_margin : M .margin) (m_power : M .power) (m_vane : M .vane) (m_trust : M .trust)
    (m_sessions : M .sessions) (m_opening : M .opening) (m_answers : M .answers) (m_streams : M .streams)
    (m_windows : M .windows) :
    ∃ t, execHoldupExpiry s = .next t ∧ Parts M z t := by
  refine ⟨_, rfl, ?_⟩
  repeat' first
    | with_reducible assumption
    | with_reducible apply State.holdupExpiry_parts

theorem execCoolantConfirm_parts {M : Part → Prop} {z : State} {s : State} (h : Parts M z s) (m_regs : M .regs)
    (m_power : M .power) :
    ∃ t, execCoolantConfirm s = .next t ∧ Parts M z t := by
  refine ⟨_, rfl, ?_⟩
  repeat' first
    | with_reducible assumption
    | with_reducible apply State.coolantConfirm_parts

theorem execCoolOkChange_parts {M : Part → Prop} {z : State} {s : State} (h : Parts M z s) (flow inlet : Nat) (m_free :
    M .free) (m_regs : M .regs) (m_events : M .events) (m_host : M .host) (m_power : M .power) : ∃ t, execCoolOkChange
    flow inlet s = .next t ∧ Parts M z t := by
  refine ⟨_, rfl, ?_⟩
  repeat' first
    | with_reducible assumption
    | with_reducible apply State.coolChange_parts

theorem execTripPeakPower_parts {M : Part → Prop} {z : State} {s : State} (h : Parts M z s) (m_regs : M .regs)
    (m_mem : M .mem) (m_events : M .events) (m_host : M .host) (m_belfry : M .belfry) (m_links : M .links)
    (m_d2d : M .d2d) (m_reservations : M .reservations) (m_routes : M .routes) (m_opn : M .opn) (m_arrays : M .arrays)
    (m_fst : M .fst) (m_watch : M .watch) (m_bankA : M .bankA) (m_bankB : M .bankB) (m_sched : M .sched)
    (m_runs : M .runs) (m_frozenNow : M .frozenNow) (m_atoms : M .atoms) (m_waiting : M .waiting) (m_movers : M .movers)
    (m_roundEnd : M .roundEnd) (m_tiles : M .tiles) (m_ueStep : M .ueStep) (m_meas : M .meas) (m_scrub : M .scrub)
    (m_spots : M .spots) (m_margin : M .margin) (m_power : M .power) (m_trust : M .trust) (m_sessions : M .sessions)
    (m_opening : M .opening) (m_answers : M .answers) (m_streams : M .streams) (m_windows : M .windows) :
    ∃ t, execTripPeakPower s = .next t ∧ Parts M z t := by
  refine ⟨_, rfl, ?_⟩
  repeat' first
    | with_reducible assumption
    | with_reducible apply State.tripNow_parts

theorem execTripSustainedPower_parts {M : Part → Prop} {z : State} {s : State} (h : Parts M z s) (m_regs : M .regs)
    (m_mem : M .mem) (m_events : M .events) (m_host : M .host) (m_belfry : M .belfry) (m_links : M .links)
    (m_d2d : M .d2d) (m_reservations : M .reservations) (m_routes : M .routes) (m_opn : M .opn) (m_arrays : M .arrays)
    (m_fst : M .fst) (m_watch : M .watch) (m_bankA : M .bankA) (m_bankB : M .bankB) (m_sched : M .sched)
    (m_runs : M .runs) (m_frozenNow : M .frozenNow) (m_atoms : M .atoms) (m_waiting : M .waiting) (m_movers : M .movers)
    (m_roundEnd : M .roundEnd) (m_tiles : M .tiles) (m_ueStep : M .ueStep) (m_meas : M .meas) (m_scrub : M .scrub)
    (m_spots : M .spots) (m_margin : M .margin) (m_power : M .power) (m_trust : M .trust) (m_sessions : M .sessions)
    (m_opening : M .opening) (m_answers : M .answers) (m_streams : M .streams) (m_windows : M .windows) :
    ∃ t, execTripSustainedPower s = .next t ∧ Parts M z t := by
  refine ⟨_, rfl, ?_⟩
  repeat' first
    | with_reducible assumption
    | with_reducible apply State.tripNow_parts

theorem execTripTemperature_parts {M : Part → Prop} {z : State} {s : State} (h : Parts M z s) (sensor t0 t1 : Nat)
    (m_regs : M .regs) (m_mem : M .mem) (m_events : M .events) (m_host : M .host) (m_belfry : M .belfry)
    (m_links : M .links) (m_d2d : M .d2d) (m_reservations : M .reservations) (m_routes : M .routes) (m_opn : M .opn)
    (m_arrays : M .arrays) (m_fst : M .fst) (m_watch : M .watch) (m_bankA : M .bankA) (m_bankB : M .bankB)
    (m_sched : M .sched) (m_runs : M .runs) (m_frozenNow : M .frozenNow) (m_atoms : M .atoms) (m_waiting : M .waiting)
    (m_movers : M .movers) (m_roundEnd : M .roundEnd) (m_tiles : M .tiles) (m_ueStep : M .ueStep) (m_meas : M .meas)
    (m_scrub : M .scrub) (m_spots : M .spots) (m_margin : M .margin) (m_power : M .power) (m_trust : M .trust)
    (m_sessions : M .sessions) (m_opening : M .opening) (m_answers : M .answers) (m_streams : M .streams)
    (m_windows : M .windows) :
    ∃ t, execTripTemperature sensor t0 t1 s = .next t ∧ Parts M z t := by
  refine ⟨_, rfl, ?_⟩
  repeat' first
    | with_reducible assumption
    | with_reducible apply State.tripNow_parts
    | intro _
    | split

theorem execTripFlow_parts {M : Part → Prop} {z : State} {s : State} (h : Parts M z s) (flow : Nat) (m_regs : M .regs)
    (m_mem : M .mem) (m_events : M .events) (m_host : M .host) (m_belfry : M .belfry) (m_links : M .links)
    (m_d2d : M .d2d) (m_reservations : M .reservations) (m_routes : M .routes) (m_opn : M .opn) (m_arrays : M .arrays)
    (m_fst : M .fst) (m_watch : M .watch) (m_bankA : M .bankA) (m_bankB : M .bankB) (m_sched : M .sched)
    (m_runs : M .runs) (m_frozenNow : M .frozenNow) (m_atoms : M .atoms) (m_waiting : M .waiting) (m_movers : M .movers)
    (m_roundEnd : M .roundEnd) (m_tiles : M .tiles) (m_ueStep : M .ueStep) (m_meas : M .meas) (m_scrub : M .scrub)
    (m_spots : M .spots) (m_margin : M .margin) (m_power : M .power) (m_trust : M .trust) (m_sessions : M .sessions)
    (m_opening : M .opening) (m_answers : M .answers) (m_streams : M .streams) (m_windows : M .windows) :
    ∃ t, execTripFlow flow s = .next t ∧ Parts M z t := by
  refine ⟨_, rfl, ?_⟩
  repeat' first
    | with_reducible assumption
    | with_reducible apply State.tripNow_parts
    | intro _
    | split

theorem execTripInlet_parts {M : Part → Prop} {z : State} {s : State} (h : Parts M z s) (inlet : Nat) (m_regs : M .regs)
    (m_mem : M .mem) (m_events : M .events) (m_host : M .host) (m_belfry : M .belfry) (m_links : M .links)
    (m_d2d : M .d2d) (m_reservations : M .reservations) (m_routes : M .routes) (m_opn : M .opn) (m_arrays : M .arrays)
    (m_fst : M .fst) (m_watch : M .watch) (m_bankA : M .bankA) (m_bankB : M .bankB) (m_sched : M .sched)
    (m_runs : M .runs) (m_frozenNow : M .frozenNow) (m_atoms : M .atoms) (m_waiting : M .waiting) (m_movers : M .movers)
    (m_roundEnd : M .roundEnd) (m_tiles : M .tiles) (m_ueStep : M .ueStep) (m_meas : M .meas) (m_scrub : M .scrub)
    (m_spots : M .spots) (m_margin : M .margin) (m_power : M .power) (m_trust : M .trust) (m_sessions : M .sessions)
    (m_opening : M .opening) (m_answers : M .answers) (m_streams : M .streams) (m_windows : M .windows) :
    ∃ t, execTripInlet inlet s = .next t ∧ Parts M z t := by
  refine ⟨_, rfl, ?_⟩
  repeat' first
    | with_reducible assumption
    | with_reducible apply State.tripNow_parts
    | intro _
    | split

theorem execResetNAssert_parts {M : Part → Prop} {z : State} {s : State} (h : Parts M z s) (m_regs : M .regs)
    (m_mem : M .mem) (m_events : M .events) (m_host : M .host) (m_belfry : M .belfry) (m_links : M .links)
    (m_d2d : M .d2d) (m_reservations : M .reservations) (m_routes : M .routes) (m_opn : M .opn) (m_arrays : M .arrays)
    (m_fst : M .fst) (m_watch : M .watch) (m_bankA : M .bankA) (m_bankB : M .bankB) (m_sched : M .sched)
    (m_runs : M .runs) (m_frozenNow : M .frozenNow) (m_atoms : M .atoms) (m_waiting : M .waiting) (m_movers : M .movers)
    (m_roundEnd : M .roundEnd) (m_tiles : M .tiles) (m_ueStep : M .ueStep) (m_meas : M .meas) (m_scrub : M .scrub)
    (m_spots : M .spots) (m_margin : M .margin) (m_power : M .power) (m_trust : M .trust) (m_sessions : M .sessions)
    (m_opening : M .opening) (m_answers : M .answers) (m_streams : M .streams) (m_windows : M .windows) :
    ∃ t, execResetNAssert s = .next t ∧ Parts M z t := by
  refine ⟨_, rfl, ?_⟩
  repeat' first
    | with_reducible assumption
    | with_reducible apply State.resetAssert_parts

theorem execResetNRelease_parts {M : Part → Prop} {z : State} {s : State} (h : Parts M z s) (progEnN : Bool)
    (m_power : M .power) :
    ∃ t, execResetNRelease progEnN s = .next t ∧ Parts M z t := by
  refine ⟨_, rfl, ?_⟩
  repeat' first
    | with_reducible assumption
    | with_reducible apply State.resetRelease_parts

theorem execEnterP3_parts {M : Part → Prop} {z : State} {s : State} (h : Parts M z s) (key : Nat) (m_free : M .free)
    (m_regs : M .regs) (m_mem : M .mem) (m_events : M .events) (m_host : M .host) (m_belfry : M .belfry)
    (m_links : M .links) (m_d2d : M .d2d) (m_reservations : M .reservations) (m_routes : M .routes) (m_opn : M .opn)
    (m_arrays : M .arrays) (m_fst : M .fst) (m_watch : M .watch) (m_bankA : M .bankA) (m_bankB : M .bankB)
    (m_sched : M .sched) (m_runs : M .runs) (m_frozenNow : M .frozenNow) (m_atoms : M .atoms) (m_waiting : M .waiting)
    (m_movers : M .movers) (m_roundEnd : M .roundEnd) (m_tiles : M .tiles) (m_ueStep : M .ueStep) (m_meas : M .meas)
    (m_scrub : M .scrub) (m_spots : M .spots) (m_margin : M .margin) (m_power : M .power) (m_trust : M .trust)
    (m_sessions : M .sessions) (m_opening : M .opening) (m_answers : M .answers) (m_streams : M .streams)
    (m_windows : M .windows) :
    ∃ t, execEnterP3 key s = .next t ∧ Parts M z t := by
  refine ⟨_, rfl, ?_⟩
  repeat' first
    | with_reducible assumption
    | with_reducible apply State.modReq_parts

theorem execLeaveP3_parts {M : Part → Prop} {z : State} {s : State} (h : Parts M z s) (key : Nat) (m_free : M .free)
    (m_regs : M .regs) (m_mem : M .mem) (m_events : M .events) (m_host : M .host) (m_belfry : M .belfry)
    (m_links : M .links) (m_d2d : M .d2d) (m_reservations : M .reservations) (m_routes : M .routes) (m_opn : M .opn)
    (m_arrays : M .arrays) (m_fst : M .fst) (m_watch : M .watch) (m_bankA : M .bankA) (m_bankB : M .bankB)
    (m_sched : M .sched) (m_runs : M .runs) (m_frozenNow : M .frozenNow) (m_atoms : M .atoms) (m_waiting : M .waiting)
    (m_movers : M .movers) (m_roundEnd : M .roundEnd) (m_tiles : M .tiles) (m_ueStep : M .ueStep) (m_meas : M .meas)
    (m_scrub : M .scrub) (m_spots : M .spots) (m_margin : M .margin) (m_power : M .power) (m_trust : M .trust)
    (m_sessions : M .sessions) (m_opening : M .opening) (m_answers : M .answers) (m_streams : M .streams)
    (m_windows : M .windows) :
    ∃ t, execLeaveP3 key s = .next t ∧ Parts M z t := by
  refine ⟨_, rfl, ?_⟩
  repeat' first
    | with_reducible assumption
    | with_reducible apply State.modReq_parts

theorem execEnterP4_parts {M : Part → Prop} {z : State} {s : State} (h : Parts M z s) (key : Nat) (m_free : M .free)
    (m_regs : M .regs) (m_mem : M .mem) (m_events : M .events) (m_host : M .host) (m_belfry : M .belfry)
    (m_links : M .links) (m_d2d : M .d2d) (m_reservations : M .reservations) (m_routes : M .routes) (m_opn : M .opn)
    (m_arrays : M .arrays) (m_fst : M .fst) (m_watch : M .watch) (m_bankA : M .bankA) (m_bankB : M .bankB)
    (m_sched : M .sched) (m_runs : M .runs) (m_frozenNow : M .frozenNow) (m_atoms : M .atoms) (m_waiting : M .waiting)
    (m_movers : M .movers) (m_roundEnd : M .roundEnd) (m_tiles : M .tiles) (m_ueStep : M .ueStep) (m_meas : M .meas)
    (m_scrub : M .scrub) (m_spots : M .spots) (m_margin : M .margin) (m_power : M .power) (m_trust : M .trust)
    (m_sessions : M .sessions) (m_opening : M .opening) (m_answers : M .answers) (m_streams : M .streams)
    (m_windows : M .windows) :
    ∃ t, execEnterP4 key s = .next t ∧ Parts M z t := by
  refine ⟨_, rfl, ?_⟩
  repeat' first
    | with_reducible assumption
    | with_reducible apply State.modReq_parts

theorem execModuleReset_parts {M : Part → Prop} {z : State} {s : State} (h : Parts M z s) (key : Nat) (m_free : M .free)
    (m_regs : M .regs) (m_mem : M .mem) (m_events : M .events) (m_host : M .host) (m_belfry : M .belfry)
    (m_links : M .links) (m_d2d : M .d2d) (m_reservations : M .reservations) (m_routes : M .routes) (m_opn : M .opn)
    (m_arrays : M .arrays) (m_fst : M .fst) (m_watch : M .watch) (m_bankA : M .bankA) (m_bankB : M .bankB)
    (m_sched : M .sched) (m_runs : M .runs) (m_frozenNow : M .frozenNow) (m_atoms : M .atoms) (m_waiting : M .waiting)
    (m_movers : M .movers) (m_roundEnd : M .roundEnd) (m_tiles : M .tiles) (m_ueStep : M .ueStep) (m_meas : M .meas)
    (m_scrub : M .scrub) (m_spots : M .spots) (m_margin : M .margin) (m_power : M .power) (m_trust : M .trust)
    (m_sessions : M .sessions) (m_opening : M .opening) (m_answers : M .answers) (m_streams : M .streams)
    (m_windows : M .windows) :
    ∃ t, execModuleReset key s = .next t ∧ Parts M z t := by
  refine ⟨_, rfl, ?_⟩
  repeat' first
    | with_reducible assumption
    | with_reducible apply State.modReq_parts

theorem execP3EntryComplete_parts {M : Part → Prop} {z : State} {s : State} (h : Parts M z s) (m_regs : M .regs)
    (m_mem : M .mem) (m_events : M .events) (m_host : M .host) (m_belfry : M .belfry) (m_links : M .links)
    (m_d2d : M .d2d) (m_reservations : M .reservations) (m_routes : M .routes) (m_opn : M .opn) (m_arrays : M .arrays)
    (m_fst : M .fst) (m_watch : M .watch) (m_bankA : M .bankA) (m_bankB : M .bankB) (m_sched : M .sched)
    (m_runs : M .runs) (m_frozenNow : M .frozenNow) (m_atoms : M .atoms) (m_waiting : M .waiting) (m_movers : M .movers)
    (m_roundEnd : M .roundEnd) (m_tiles : M .tiles) (m_ueStep : M .ueStep) (m_meas : M .meas) (m_scrub : M .scrub)
    (m_spots : M .spots) (m_margin : M .margin) (m_power : M .power) (m_trust : M .trust) (m_sessions : M .sessions)
    (m_opening : M .opening) (m_answers : M .answers) (m_streams : M .streams) (m_windows : M .windows) :
    ∃ t, execP3EntryComplete s = .next t ∧ Parts M z t := by
  refine ⟨_, rfl, ?_⟩
  repeat' first
    | with_reducible assumption
    | with_reducible apply State.p3Entered_parts

theorem execP3ExitComplete_parts {M : Part → Prop} {z : State} {s : State} (h : Parts M z s) (m_regs : M .regs)
    (m_mem : M .mem) (m_events : M .events) (m_host : M .host) (m_belfry : M .belfry) (m_links : M .links)
    (m_d2d : M .d2d) (m_reservations : M .reservations) (m_routes : M .routes) (m_opn : M .opn) (m_arrays : M .arrays)
    (m_fst : M .fst) (m_watch : M .watch) (m_bankA : M .bankA) (m_bankB : M .bankB) (m_sched : M .sched)
    (m_runs : M .runs) (m_frozenNow : M .frozenNow) (m_atoms : M .atoms) (m_waiting : M .waiting) (m_movers : M .movers)
    (m_roundEnd : M .roundEnd) (m_tiles : M .tiles) (m_ueStep : M .ueStep) (m_meas : M .meas) (m_scrub : M .scrub)
    (m_spots : M .spots) (m_margin : M .margin) (m_power : M .power) (m_trust : M .trust) (m_sessions : M .sessions)
    (m_opening : M .opening) (m_answers : M .answers) (m_streams : M .streams) (m_windows : M .windows) :
    ∃ t, execP3ExitComplete s = .next t ∧ Parts M z t := by
  refine ⟨_, rfl, ?_⟩
  repeat' first
    | with_reducible assumption
    | with_reducible apply State.p3Exited_parts

theorem execWakeN_parts {M : Part → Prop} {z : State} {s : State} (h : Parts M z s) (m_free : M .free) (m_regs : M .regs)
    (m_mem : M .mem) (m_events : M .events) (m_host : M .host) (m_belfry : M .belfry) (m_links : M .links)
    (m_d2d : M .d2d) (m_reservations : M .reservations) (m_routes : M .routes) (m_opn : M .opn) (m_arrays : M .arrays)
    (m_fst : M .fst) (m_watch : M .watch) (m_bankA : M .bankA) (m_bankB : M .bankB) (m_sched : M .sched)
    (m_runs : M .runs) (m_frozenNow : M .frozenNow) (m_atoms : M .atoms) (m_waiting : M .waiting) (m_movers : M .movers)
    (m_roundEnd : M .roundEnd) (m_tiles : M .tiles) (m_ueStep : M .ueStep) (m_meas : M .meas) (m_scrub : M .scrub)
    (m_spots : M .spots) (m_margin : M .margin) (m_power : M .power) (m_trust : M .trust) (m_sessions : M .sessions)
    (m_opening : M .opening) (m_answers : M .answers) (m_streams : M .streams) (m_windows : M .windows) :
    ∃ t, execWakeN s = .next t ∧ Parts M z t := by
  refine ⟨_, rfl, ?_⟩
  repeat' first
    | with_reducible assumption
    | with_reducible apply State.wake_parts

theorem execShdnN_parts {M : Part → Prop} {z : State} {s : State} (h : Parts M z s) (low : Bool) (m_regs : M .regs)
    (m_mem : M .mem) (m_events : M .events) (m_host : M .host) (m_belfry : M .belfry) (m_links : M .links)
    (m_d2d : M .d2d) (m_reservations : M .reservations) (m_routes : M .routes) (m_opn : M .opn) (m_arrays : M .arrays)
    (m_fst : M .fst) (m_watch : M .watch) (m_bankA : M .bankA) (m_bankB : M .bankB) (m_sched : M .sched)
    (m_runs : M .runs) (m_frozenNow : M .frozenNow) (m_atoms : M .atoms) (m_waiting : M .waiting) (m_movers : M .movers)
    (m_roundEnd : M .roundEnd) (m_tiles : M .tiles) (m_ueStep : M .ueStep) (m_meas : M .meas) (m_scrub : M .scrub)
    (m_spots : M .spots) (m_margin : M .margin) (m_power : M .power) (m_trust : M .trust) (m_sessions : M .sessions)
    (m_opening : M .opening) (m_answers : M .answers) (m_streams : M .streams) (m_windows : M .windows) :
    ∃ t, execShdnN low s = .next t ∧ Parts M z t := by
  refine ⟨_, rfl, ?_⟩
  repeat' first
    | with_reducible assumption
    | with_reducible apply State.shdn_parts

theorem execPowerRestored_parts {M : Part → Prop} {z : State} {s : State} (h : Parts M z s) (m_free : M .free)
    (m_regs : M .regs) (m_mem : M .mem) (m_events : M .events) (m_host : M .host) (m_belfry : M .belfry)
    (m_links : M .links) (m_d2d : M .d2d) (m_reservations : M .reservations) (m_routes : M .routes) (m_opn : M .opn)
    (m_arrays : M .arrays) (m_fst : M .fst) (m_watch : M .watch) (m_bankA : M .bankA) (m_bankB : M .bankB)
    (m_sched : M .sched) (m_runs : M .runs) (m_frozenNow : M .frozenNow) (m_atoms : M .atoms) (m_waiting : M .waiting)
    (m_movers : M .movers) (m_roundEnd : M .roundEnd) (m_tiles : M .tiles) (m_ueStep : M .ueStep) (m_meas : M .meas)
    (m_scrub : M .scrub) (m_spots : M .spots) (m_margin : M .margin) (m_power : M .power) (m_trust : M .trust)
    (m_sessions : M .sessions) (m_opening : M .opening) (m_answers : M .answers) (m_streams : M .streams)
    (m_windows : M .windows) :
    ∃ t, execPowerRestored s = .next t ∧ Parts M z t := by
  refine ⟨_, rfl, ?_⟩
  repeat' first
    | with_reducible assumption
    | with_reducible apply State.restored_parts

theorem execCalSave_parts {M : Part → Prop} {z : State} {s : State} (h : Parts M z s) (m_regs : M .regs) (m_mem : M .mem)
    (m_arrays : M .arrays) :
    ∃ t, execCalSave s = .next t ∧ Parts M z t := by
  refine ⟨_, rfl, ?_⟩
  repeat' first
    | with_reducible assumption
    | with_reducible apply State.calSave_parts

theorem execCalSaveComplete_parts {M : Part → Prop} {z : State} {s : State} (h : Parts M z s) (m_regs : M .regs)
    (m_mem : M .mem) :
    ∃ t, execCalSaveComplete s = .next t ∧ Parts M z t := by
  refine ⟨_, rfl, ?_⟩
  repeat' first
    | with_reducible assumption
    | with_reducible apply State.calSaved_parts

theorem execBpSave_parts {M : Part → Prop} {z : State} {s : State} (h : Parts M z s) (m_regs : M .regs) (m_mem : M .mem) :
    ∃ t, execBpSave s = .next t ∧ Parts M z t := by
  refine ⟨_, rfl, ?_⟩
  repeat' first
    | with_reducible assumption
    | with_reducible apply State.bpSave_parts

theorem execBpSaveComplete_parts {M : Part → Prop} {z : State} {s : State} (h : Parts M z s) (m_regs : M .regs)
    (m_mem : M .mem) :
    ∃ t, execBpSaveComplete s = .next t ∧ Parts M z t := by
  refine ⟨_, rfl, ?_⟩
  repeat' first
    | with_reducible assumption
    | with_reducible apply State.bpSaved_parts

theorem execBpLoad_parts {M : Part → Prop} {z : State} {s : State} (h : Parts M z s) (m_regs : M .regs) :
    ∃ t, execBpLoad s = .next t ∧ Parts M z t := by
  refine ⟨_, rfl, ?_⟩
  repeat' first
    | with_reducible assumption
    | with_reducible apply State.bpLoad_parts
    | intro _
    | split

theorem execBootPhaseComplete_parts {M : Part → Prop} {z : State} {s : State} (h : Parts M z s) (r : BootResult) (m_out
    : M .out) (m_free : M .free) (m_regs : M .regs) (m_events : M .events) (m_host : M .host) (m_belfry : M .belfry)
    (m_links : M .links) (m_reservations : M .reservations) (m_opn : M .opn) (m_watch : M .watch) (m_sched : M .sched)
    (m_keys : M .keys) (m_meas : M .meas) (m_power : M .power) (m_trust : M .trust) (m_answers : M .answers) (m_streams
    : M .streams) : ∃ t, execBootPhaseComplete r s = .next t ∧ Parts M z t := by
  refine ⟨_, rfl, ?_⟩
  repeat' first
    | with_reducible assumption
    | with_reducible apply State.bootComplete_parts

theorem execBootPhaseTimeout_parts {M : Part → Prop} {z : State} {s : State} (h : Parts M z s) (code : Nat)
    (m_regs : M .regs) :
    ∃ t, execBootPhaseTimeout code s = .next t ∧ Parts M z t := by
  refine ⟨_, rfl, ?_⟩
  repeat' first
    | with_reducible assumption
    | with_reducible apply State.bootTimeout_parts

theorem execRegisterWrite_parts {M : Part → Prop} {z : State} {s : State} (h : Parts M z s) (addr v : Nat)
    (m_out : M .out) (m_free : M .free) (m_regs : M .regs) (m_mem : M .mem) (m_events : M .events) (m_host : M .host)
    (m_belfry : M .belfry) (m_links : M .links) (m_d2d : M .d2d) (m_reservations : M .reservations) (m_routes : M .routes)
    (m_opn : M .opn) (m_arrays : M .arrays) (m_fst : M .fst) (m_watch : M .watch) (m_bankA : M .bankA)
    (m_bankB : M .bankB) (m_sched : M .sched) (m_runs : M .runs) (m_frozenNow : M .frozenNow) (m_atoms : M .atoms)
    (m_waiting : M .waiting) (m_movers : M .movers) (m_roundEnd : M .roundEnd) (m_tiles : M .tiles) (m_ueStep : M .ueStep)
    (m_keys : M .keys) (m_meas : M .meas) (m_scrub : M .scrub) (m_spots : M .spots) (m_margin : M .margin)
    (m_power : M .power) (m_fuses : M .fuses) (m_trust : M .trust) (m_sessions : M .sessions) (m_opening : M .opening)
    (m_answers : M .answers) (m_streams : M .streams) (m_windows : M .windows) :
    ∃ t, execRegisterWrite addr v s = .next t ∧ Parts M z t := by
  refine ⟨_, rfl, ?_⟩
  repeat' first
    | with_reducible assumption
    | with_reducible apply State.regAccess_parts
    | intro _
    | split

theorem execPgErrWrite_parts {M : Part → Prop} {z : State} {s : State} (h : Parts M z s) (p : PageId) (v : Nat)
    (m_regs : M .regs) :
    ∃ t, execPgErrWrite p v s = .next t ∧ Parts M z t := by
  refine ⟨_, rfl, ?_⟩
  repeat' first
    | with_reducible assumption
    | with_reducible apply State.errW1c_parts
    | intro _
    | split

theorem execFreeze_parts {M : Part → Prop} {z : State} {s : State} (h : Parts M z s) (p : PageId) (on : Bool)
    (m_regs : M .regs) :
    ∃ t, execFreeze p on s = .next t ∧ Parts M z t := by
  refine ⟨_, rfl, ?_⟩
  repeat' first
    | with_reducible assumption
    | with_reducible apply State.setFreeze_parts
    | intro _
    | split

theorem execLock_parts {M : Part → Prop} {z : State} {s : State} (h : Parts M z s) (p : PageId) (m_regs : M .regs) :
    ∃ t, execLock p s = .next t ∧ Parts M z t := by
  refine ⟨_, rfl, ?_⟩
  repeat' first
    | with_reducible assumption
    | with_reducible apply State.setLock_parts
    | intro _
    | split

theorem execEvtEnWrite_parts {M : Part → Prop} {z : State} {s : State} (h : Parts M z s) (v : Nat) (m_free : M .free)
    (m_regs : M .regs) (m_events : M .events) (m_host : M .host) :
    ∃ t, execEvtEnWrite v s = .next t ∧ Parts M z t := by
  refine ⟨_, rfl, ?_⟩
  repeat' first
    | with_reducible assumption
    | with_reducible apply State.evtEn_parts

theorem execMemRd_parts {M : Part → Prop} {z : State} {s : State} (h : Parts M z s) (f : Flit) (m_out : M .out)
    (m_free : M .free) (m_regs : M .regs) (m_mem : M .mem) (m_events : M .events) (m_host : M .host)
    (m_belfry : M .belfry) (m_links : M .links) (m_d2d : M .d2d) (m_reservations : M .reservations) (m_routes : M .routes)
    (m_opn : M .opn) (m_arrays : M .arrays) (m_fst : M .fst) (m_watch : M .watch) (m_bankA : M .bankA)
    (m_bankB : M .bankB) (m_sched : M .sched) (m_runs : M .runs) (m_frozenNow : M .frozenNow) (m_atoms : M .atoms)
    (m_waiting : M .waiting) (m_movers : M .movers) (m_roundEnd : M .roundEnd) (m_tiles : M .tiles) (m_ueStep : M .ueStep)
    (m_keys : M .keys) (m_meas : M .meas) (m_scrub : M .scrub) (m_spots : M .spots) (m_margin : M .margin)
    (m_power : M .power) (m_fuses : M .fuses) (m_trust : M .trust) (m_sessions : M .sessions) (m_opening : M .opening)
    (m_answers : M .answers) (m_streams : M .streams) (m_windows : M .windows) :
    ∃ t, execMemRd f s = .next t ∧ Parts M z t := by
  refine ⟨_, rfl, ?_⟩
  repeat' first
    | with_reducible assumption
    | with_reducible apply State.memRow_parts

theorem execMemWr_parts {M : Part → Prop} {z : State} {s : State} (h : Parts M z s) (f : Flit) (m_out : M .out)
    (m_free : M .free) (m_regs : M .regs) (m_mem : M .mem) (m_events : M .events) (m_host : M .host)
    (m_belfry : M .belfry) (m_links : M .links) (m_d2d : M .d2d) (m_reservations : M .reservations) (m_routes : M .routes)
    (m_opn : M .opn) (m_arrays : M .arrays) (m_fst : M .fst) (m_watch : M .watch) (m_bankA : M .bankA)
    (m_bankB : M .bankB) (m_sched : M .sched) (m_runs : M .runs) (m_frozenNow : M .frozenNow) (m_atoms : M .atoms)
    (m_waiting : M .waiting) (m_movers : M .movers) (m_roundEnd : M .roundEnd) (m_tiles : M .tiles) (m_ueStep : M .ueStep)
    (m_keys : M .keys) (m_meas : M .meas) (m_scrub : M .scrub) (m_spots : M .spots) (m_margin : M .margin)
    (m_power : M .power) (m_fuses : M .fuses) (m_trust : M .trust) (m_sessions : M .sessions) (m_opening : M .opening)
    (m_answers : M .answers) (m_streams : M .streams) (m_windows : M .windows) :
    ∃ t, execMemWr f s = .next t ∧ Parts M z t := by
  refine ⟨_, rfl, ?_⟩
  repeat' first
    | with_reducible assumption
    | with_reducible apply State.memRow_parts

theorem execAtomAdd_parts {M : Part → Prop} {z : State} {s : State} (h : Parts M z s) (f : Flit) (m_out : M .out)
    (m_free : M .free) (m_regs : M .regs) (m_mem : M .mem) (m_events : M .events) (m_host : M .host)
    (m_belfry : M .belfry) (m_links : M .links) (m_d2d : M .d2d) (m_reservations : M .reservations) (m_routes : M .routes)
    (m_opn : M .opn) (m_arrays : M .arrays) (m_fst : M .fst) (m_watch : M .watch) (m_bankA : M .bankA)
    (m_bankB : M .bankB) (m_sched : M .sched) (m_runs : M .runs) (m_frozenNow : M .frozenNow) (m_atoms : M .atoms)
    (m_waiting : M .waiting) (m_movers : M .movers) (m_roundEnd : M .roundEnd) (m_tiles : M .tiles) (m_ueStep : M .ueStep)
    (m_keys : M .keys) (m_meas : M .meas) (m_scrub : M .scrub) (m_spots : M .spots) (m_margin : M .margin)
    (m_power : M .power) (m_fuses : M .fuses) (m_trust : M .trust) (m_sessions : M .sessions) (m_opening : M .opening)
    (m_answers : M .answers) (m_streams : M .streams) (m_windows : M .windows) :
    ∃ t, execAtomAdd f s = .next t ∧ Parts M z t := by
  refine ⟨_, rfl, ?_⟩
  repeat' first
    | with_reducible assumption
    | with_reducible apply State.memRow_parts

theorem execAtomAddFetch_parts {M : Part → Prop} {z : State} {s : State} (h : Parts M z s) (f : Flit) (m_out : M .out)
    (m_free : M .free) (m_regs : M .regs) (m_mem : M .mem) (m_events : M .events) (m_host : M .host)
    (m_belfry : M .belfry) (m_links : M .links) (m_d2d : M .d2d) (m_reservations : M .reservations) (m_routes : M .routes)
    (m_opn : M .opn) (m_arrays : M .arrays) (m_fst : M .fst) (m_watch : M .watch) (m_bankA : M .bankA)
    (m_bankB : M .bankB) (m_sched : M .sched) (m_runs : M .runs) (m_frozenNow : M .frozenNow) (m_atoms : M .atoms)
    (m_waiting : M .waiting) (m_movers : M .movers) (m_roundEnd : M .roundEnd) (m_tiles : M .tiles) (m_ueStep : M .ueStep)
    (m_keys : M .keys) (m_meas : M .meas) (m_scrub : M .scrub) (m_spots : M .spots) (m_margin : M .margin)
    (m_power : M .power) (m_fuses : M .fuses) (m_trust : M .trust) (m_sessions : M .sessions) (m_opening : M .opening)
    (m_answers : M .answers) (m_streams : M .streams) (m_windows : M .windows) :
    ∃ t, execAtomAddFetch f s = .next t ∧ Parts M z t := by
  refine ⟨_, rfl, ?_⟩
  repeat' first
    | with_reducible assumption
    | with_reducible apply State.memRow_parts

theorem execBulkRd_parts {M : Part → Prop} {z : State} {s : State} (h : Parts M z s) (f : Flit) (m_out : M .out)
    (m_free : M .free) (m_regs : M .regs) (m_mem : M .mem) (m_events : M .events) (m_host : M .host)
    (m_belfry : M .belfry) (m_links : M .links) (m_d2d : M .d2d) (m_reservations : M .reservations) (m_routes : M .routes)
    (m_opn : M .opn) (m_arrays : M .arrays) (m_fst : M .fst) (m_watch : M .watch) (m_bankA : M .bankA)
    (m_bankB : M .bankB) (m_sched : M .sched) (m_runs : M .runs) (m_frozenNow : M .frozenNow) (m_atoms : M .atoms)
    (m_waiting : M .waiting) (m_movers : M .movers) (m_roundEnd : M .roundEnd) (m_tiles : M .tiles) (m_ueStep : M .ueStep)
    (m_keys : M .keys) (m_meas : M .meas) (m_scrub : M .scrub) (m_spots : M .spots) (m_margin : M .margin)
    (m_power : M .power) (m_fuses : M .fuses) (m_trust : M .trust) (m_sessions : M .sessions) (m_opening : M .opening)
    (m_answers : M .answers) (m_streams : M .streams) (m_windows : M .windows) :
    ∃ t, execBulkRd f s = .next t ∧ Parts M z t := by
  refine ⟨_, rfl, ?_⟩
  repeat' first
    | with_reducible assumption
    | with_reducible apply State.memRow_parts

theorem execBulkWr_parts {M : Part → Prop} {z : State} {s : State} (h : Parts M z s) (f : Flit) (m_out : M .out)
    (m_free : M .free) (m_regs : M .regs) (m_mem : M .mem) (m_events : M .events) (m_host : M .host)
    (m_belfry : M .belfry) (m_links : M .links) (m_d2d : M .d2d) (m_reservations : M .reservations) (m_routes : M .routes)
    (m_opn : M .opn) (m_arrays : M .arrays) (m_fst : M .fst) (m_watch : M .watch) (m_bankA : M .bankA)
    (m_bankB : M .bankB) (m_sched : M .sched) (m_runs : M .runs) (m_frozenNow : M .frozenNow) (m_atoms : M .atoms)
    (m_waiting : M .waiting) (m_movers : M .movers) (m_roundEnd : M .roundEnd) (m_tiles : M .tiles) (m_ueStep : M .ueStep)
    (m_keys : M .keys) (m_meas : M .meas) (m_scrub : M .scrub) (m_spots : M .spots) (m_margin : M .margin)
    (m_power : M .power) (m_fuses : M .fuses) (m_trust : M .trust) (m_sessions : M .sessions) (m_opening : M .opening)
    (m_answers : M .answers) (m_streams : M .streams) (m_windows : M .windows) :
    ∃ t, execBulkWr f s = .next t ∧ Parts M z t := by
  refine ⟨_, rfl, ?_⟩
  repeat' first
    | with_reducible assumption
    | with_reducible apply State.memRow_parts

theorem execTileStoreAccess_parts {M : Part → Prop} {z : State} {s : State} (h : Parts M z s) (g : Nat) (m_out : M .out)
    (m_free : M .free) (m_regs : M .regs) (m_mem : M .mem) (m_events : M .events) (m_host : M .host)
    (m_belfry : M .belfry) (m_links : M .links) (m_d2d : M .d2d) (m_reservations : M .reservations) (m_routes : M .routes)
    (m_opn : M .opn) (m_arrays : M .arrays) (m_fst : M .fst) (m_watch : M .watch) (m_bankA : M .bankA)
    (m_bankB : M .bankB) (m_sched : M .sched) (m_runs : M .runs) (m_frozenNow : M .frozenNow) (m_atoms : M .atoms)
    (m_waiting : M .waiting) (m_movers : M .movers) (m_roundEnd : M .roundEnd) (m_tiles : M .tiles) (m_ueStep : M .ueStep)
    (m_keys : M .keys) (m_meas : M .meas) (m_scrub : M .scrub) (m_spots : M .spots) (m_margin : M .margin)
    (m_power : M .power) (m_fuses : M .fuses) (m_trust : M .trust) (m_sessions : M .sessions) (m_opening : M .opening)
    (m_answers : M .answers) (m_streams : M .streams) (m_windows : M .windows) :
    ∃ t, execTileStoreAccess g s = .next t ∧ Parts M z t := by
  refine ⟨_, rfl, ?_⟩
  repeat' first
    | with_reducible assumption
    | with_reducible apply State.performWaiting_parts

theorem execHbmWakeWait_parts {M : Part → Prop} {z : State} {s : State} (h : Parts M z s) (st : Nat) (m_out : M .out)
    (m_free : M .free) (m_regs : M .regs) (m_mem : M .mem) (m_events : M .events) (m_host : M .host)
    (m_belfry : M .belfry) (m_links : M .links) (m_d2d : M .d2d) (m_reservations : M .reservations) (m_routes : M .routes)
    (m_opn : M .opn) (m_arrays : M .arrays) (m_fst : M .fst) (m_watch : M .watch) (m_bankA : M .bankA)
    (m_bankB : M .bankB) (m_sched : M .sched) (m_runs : M .runs) (m_frozenNow : M .frozenNow) (m_atoms : M .atoms)
    (m_waiting : M .waiting) (m_movers : M .movers) (m_roundEnd : M .roundEnd) (m_tiles : M .tiles) (m_ueStep : M .ueStep)
    (m_keys : M .keys) (m_meas : M .meas) (m_scrub : M .scrub) (m_spots : M .spots) (m_margin : M .margin)
    (m_power : M .power) (m_fuses : M .fuses) (m_trust : M .trust) (m_sessions : M .sessions) (m_opening : M .opening)
    (m_answers : M .answers) (m_streams : M .streams) (m_windows : M .windows) :
    ∃ t, execHbmWakeWait st s = .next t ∧ Parts M z t := by
  refine ⟨_, rfl, ?_⟩
  repeat' first
    | with_reducible assumption
    | with_reducible apply State.performWaiting_parts

theorem execDomainWake_parts {M : Part → Prop} {z : State} {s : State} (h : Parts M z s) (dom : Nat) (m_out : M .out)
    (m_free : M .free) (m_regs : M .regs) (m_mem : M .mem) (m_events : M .events) (m_host : M .host)
    (m_belfry : M .belfry) (m_links : M .links) (m_d2d : M .d2d) (m_reservations : M .reservations) (m_routes : M .routes)
    (m_opn : M .opn) (m_arrays : M .arrays) (m_fst : M .fst) (m_watch : M .watch) (m_bankA : M .bankA)
    (m_bankB : M .bankB) (m_sched : M .sched) (m_runs : M .runs) (m_frozenNow : M .frozenNow) (m_atoms : M .atoms)
    (m_waiting : M .waiting) (m_movers : M .movers) (m_roundEnd : M .roundEnd) (m_tiles : M .tiles) (m_ueStep : M .ueStep)
    (m_keys : M .keys) (m_meas : M .meas) (m_scrub : M .scrub) (m_spots : M .spots) (m_margin : M .margin)
    (m_power : M .power) (m_fuses : M .fuses) (m_trust : M .trust) (m_sessions : M .sessions) (m_opening : M .opening)
    (m_answers : M .answers) (m_streams : M .streams) (m_windows : M .windows) :
    ∃ t, execDomainWake dom s = .next t ∧ Parts M z t := by
  refine ⟨_, rfl, ?_⟩
  repeat' first
    | with_reducible assumption
    | with_reducible apply State.domainWake_parts
    | intro _
    | split

theorem execArpRequest_parts {M : Part → Prop} {z : State} {s : State} (h : Parts M z s) (frame : List Byte)
    (m_free : M .free) (m_regs : M .regs) (m_events : M .events) (m_host : M .host) :
    ∃ t, execArpRequest frame s = .next t ∧ Parts M z t := by
  refine ⟨_, rfl, ?_⟩
  repeat' first
    | with_reducible assumption
    | with_reducible apply State.arpReply_parts
    | with_reducible apply State.takeFrame_parts
    | intro _
    | split

theorem execNeighborSolicitation_parts {M : Part → Prop} {z : State} {s : State} (h : Parts M z s) (frame : List Byte)
    (m_free : M .free) (m_regs : M .regs) (m_events : M .events) (m_host : M .host) :
    ∃ t, execNeighborSolicitation frame s = .next t ∧ Parts M z t := by
  refine ⟨_, rfl, ?_⟩
  repeat' first
    | with_reducible assumption
    | with_reducible apply State.neighborReply_parts
    | with_reducible apply State.takeFrame_parts
    | intro _
    | split

theorem execOpenSession_parts {M : Part → Prop} {z : State} {s : State} (h : Parts M z s) (sess : Nat) (m_free : M
    .free) (m_regs : M .regs) (m_events : M .events) (m_host : M .host) (m_links : M .links) (m_opn : M .opn)
    (m_sessions : M .sessions) (m_opening : M .opening) : ∃ t, execOpenSession sess s = .next t ∧ Parts M z t := by
  refine ⟨_, rfl, ?_⟩
  repeat' first
    | with_reducible assumption
    | with_reducible apply State.openNext_parts

theorem execSessionTimeout_parts {M : Part → Prop} {z : State} {s : State} (h : Parts M z s) (sess : Nat)
    (m_sessions : M .sessions) :
    ∃ t, execSessionTimeout sess s = .next t ∧ Parts M z t := by
  refine ⟨_, rfl, ?_⟩
  repeat' first
    | with_reducible assumption
    | with_reducible apply State.sessionTimeout_parts

theorem execHoldTimeout_parts {M : Part → Prop} {z : State} {s : State} (h : Parts M z s) (sess seq : Nat)
    (m_regs : M .regs) (m_sessions : M .sessions) :
    ∃ t, execHoldTimeout sess seq s = .next t ∧ Parts M z t := by
  refine ⟨_, rfl, ?_⟩
  repeat' first
    | with_reducible assumption
    | with_reducible apply State.holdTimeout_parts

theorem execCloseSession_parts {M : Part → Prop} {z : State} {s : State} (h : Parts M z s) (sess : Nat) (m_free : M
    .free) (m_regs : M .regs) (m_events : M .events) (m_host : M .host) (m_links : M .links) (m_opn : M .opn)
    (m_sessions : M .sessions) : ∃ t, execCloseSession sess s = .next t ∧ Parts M z t := by
  refine ⟨_, rfl, ?_⟩
  repeat' first
    | with_reducible assumption
    | with_reducible apply State.sessionRow_parts
    | with_reducible apply State.execDone_parts
    | intro _

theorem execRegRd_parts {M : Part → Prop} {z : State} {s : State} (h : Parts M z s) (sess : Nat) (m_out : M .out)
    (m_free : M .free) (m_regs : M .regs) (m_mem : M .mem) (m_events : M .events) (m_host : M .host)
    (m_belfry : M .belfry) (m_links : M .links) (m_d2d : M .d2d) (m_reservations : M .reservations) (m_routes : M .routes)
    (m_opn : M .opn) (m_arrays : M .arrays) (m_fst : M .fst) (m_watch : M .watch) (m_bankA : M .bankA)
    (m_bankB : M .bankB) (m_sched : M .sched) (m_runs : M .runs) (m_frozenNow : M .frozenNow) (m_atoms : M .atoms)
    (m_waiting : M .waiting) (m_movers : M .movers) (m_roundEnd : M .roundEnd) (m_tiles : M .tiles) (m_ueStep : M .ueStep)
    (m_keys : M .keys) (m_meas : M .meas) (m_scrub : M .scrub) (m_spots : M .spots) (m_margin : M .margin)
    (m_power : M .power) (m_fuses : M .fuses) (m_trust : M .trust) (m_sessions : M .sessions) (m_opening : M .opening)
    (m_answers : M .answers) (m_streams : M .streams) (m_windows : M .windows) :
    ∃ t, execRegRd sess s = .next t ∧ Parts M z t := by
  refine ⟨_, rfl, ?_⟩
  repeat' first
    | with_reducible assumption
    | with_reducible apply State.sessionRow_parts
    | with_reducible apply State.runItems_parts
    | intro _

theorem execRegWr_parts {M : Part → Prop} {z : State} {s : State} (h : Parts M z s) (sess : Nat) (m_out : M .out)
    (m_free : M .free) (m_regs : M .regs) (m_mem : M .mem) (m_events : M .events) (m_host : M .host)
    (m_belfry : M .belfry) (m_links : M .links) (m_d2d : M .d2d) (m_reservations : M .reservations) (m_routes : M .routes)
    (m_opn : M .opn) (m_arrays : M .arrays) (m_fst : M .fst) (m_watch : M .watch) (m_bankA : M .bankA)
    (m_bankB : M .bankB) (m_sched : M .sched) (m_runs : M .runs) (m_frozenNow : M .frozenNow) (m_atoms : M .atoms)
    (m_waiting : M .waiting) (m_movers : M .movers) (m_roundEnd : M .roundEnd) (m_tiles : M .tiles) (m_ueStep : M .ueStep)
    (m_keys : M .keys) (m_meas : M .meas) (m_scrub : M .scrub) (m_spots : M .spots) (m_margin : M .margin)
    (m_power : M .power) (m_fuses : M .fuses) (m_trust : M .trust) (m_sessions : M .sessions) (m_opening : M .opening)
    (m_answers : M .answers) (m_streams : M .streams) (m_windows : M .windows) :
    ∃ t, execRegWr sess s = .next t ∧ Parts M z t := by
  refine ⟨_, rfl, ?_⟩
  repeat' first
    | with_reducible assumption
    | with_reducible apply State.sessionRow_parts
    | with_reducible apply State.runItems_parts
    | intro _

theorem execMoraecaBulkRd_parts {M : Part → Prop} {z : State} {s : State} (h : Parts M z s) (sess : Nat) (m_out : M .out)
    (m_free : M .free) (m_regs : M .regs) (m_mem : M .mem) (m_events : M .events) (m_host : M .host)
    (m_belfry : M .belfry) (m_links : M .links) (m_d2d : M .d2d) (m_reservations : M .reservations) (m_routes : M .routes)
    (m_opn : M .opn) (m_arrays : M .arrays) (m_fst : M .fst) (m_watch : M .watch) (m_bankA : M .bankA)
    (m_bankB : M .bankB) (m_sched : M .sched) (m_runs : M .runs) (m_frozenNow : M .frozenNow) (m_atoms : M .atoms)
    (m_waiting : M .waiting) (m_movers : M .movers) (m_roundEnd : M .roundEnd) (m_tiles : M .tiles) (m_ueStep : M .ueStep)
    (m_keys : M .keys) (m_meas : M .meas) (m_scrub : M .scrub) (m_spots : M .spots) (m_margin : M .margin)
    (m_power : M .power) (m_fuses : M .fuses) (m_trust : M .trust) (m_sessions : M .sessions) (m_opening : M .opening)
    (m_answers : M .answers) (m_streams : M .streams) (m_windows : M .windows) :
    ∃ t, execMoraecaBulkRd sess s = .next t ∧ Parts M z t := by
  refine ⟨_, rfl, ?_⟩
  repeat' first
    | with_reducible assumption
    | with_reducible apply State.sessionRow_parts
    | with_reducible apply State.runPieces_parts
    | intro _

theorem execMoraecaBulkWr_parts {M : Part → Prop} {z : State} {s : State} (h : Parts M z s) (sess : Nat) (m_out : M .out)
    (m_free : M .free) (m_regs : M .regs) (m_mem : M .mem) (m_events : M .events) (m_host : M .host)
    (m_belfry : M .belfry) (m_links : M .links) (m_d2d : M .d2d) (m_reservations : M .reservations) (m_routes : M .routes)
    (m_opn : M .opn) (m_arrays : M .arrays) (m_fst : M .fst) (m_watch : M .watch) (m_bankA : M .bankA)
    (m_bankB : M .bankB) (m_sched : M .sched) (m_runs : M .runs) (m_frozenNow : M .frozenNow) (m_atoms : M .atoms)
    (m_waiting : M .waiting) (m_movers : M .movers) (m_roundEnd : M .roundEnd) (m_tiles : M .tiles) (m_ueStep : M .ueStep)
    (m_keys : M .keys) (m_meas : M .meas) (m_scrub : M .scrub) (m_spots : M .spots) (m_margin : M .margin)
    (m_power : M .power) (m_fuses : M .fuses) (m_trust : M .trust) (m_sessions : M .sessions) (m_opening : M .opening)
    (m_answers : M .answers) (m_streams : M .streams) (m_windows : M .windows) :
    ∃ t, execMoraecaBulkWr sess s = .next t ∧ Parts M z t := by
  refine ⟨_, rfl, ?_⟩
  repeat' first
    | with_reducible assumption
    | with_reducible apply State.sessionRow_parts
    | with_reducible apply State.runPieces_parts
    | intro _

theorem execStreamOpen_parts {M : Part → Prop} {z : State} {s : State} (h : Parts M z s) (sess : Nat) (m_out : M .out)
    (m_free : M .free) (m_regs : M .regs) (m_events : M .events) (m_host : M .host) (m_links : M .links) (m_reservations
    : M .reservations) (m_opn : M .opn) (m_power : M .power) (m_sessions : M .sessions) (m_answers : M .answers)
    (m_streams : M .streams) : ∃ t, execStreamOpen sess s = .next t ∧ Parts M z t := by
  refine ⟨_, rfl, ?_⟩
  repeat' first
    | with_reducible assumption
    | with_reducible apply State.streamOpen_parts
    | with_reducible apply State.sessionRow_parts
    | intro _

theorem execStreamData_parts {M : Part → Prop} {z : State} {s : State} (h : Parts M z s) (i : Nat) (src : NetSrc) (bytes
    : List Byte) (m_out : M .out) (m_free : M .free) (m_regs : M .regs) (m_events : M .events) (m_host : M .host)
    (m_links : M .links) (m_reservations : M .reservations) (m_opn : M .opn) (m_power : M .power) (m_answers : M
    .answers) (m_streams : M .streams) : ∃ t, execStreamData i src bytes s = .next t ∧ Parts M z t := by
  refine ⟨_, rfl, ?_⟩
  repeat' first
    | with_reducible assumption
    | with_reducible apply State.streamData_parts

theorem execStreamAck_parts {M : Part → Prop} {z : State} {s : State} (h : Parts M z s) (i : Nat) (ack : AckFrom) (m_out : M .out)
    (m_free : M .free) (m_regs : M .regs) (m_events : M .events) (m_host : M .host) (m_links : M .links) (m_reservations
    : M .reservations) (m_opn : M .opn) (m_power : M .power) (m_answers : M .answers) (m_streams : M .streams) : ∃ t,
    execStreamAck i ack s = .next t ∧ Parts M z t := by
  refine ⟨_, rfl, ?_⟩
  repeat' first
    | with_reducible assumption
    | with_reducible apply State.streamAck_parts

theorem execStreamRto_parts {M : Part → Prop} {z : State} {s : State} (h : Parts M z s) (i : Nat) (m_out : M .out)
    (m_free : M .free) (m_regs : M .regs) (m_events : M .events) (m_host : M .host) (m_links : M .links) (m_reservations
    : M .reservations) (m_opn : M .opn) (m_power : M .power) (m_answers : M .answers) (m_streams : M .streams) : ∃ t,
    execStreamRto i s = .next t ∧ Parts M z t := by
  refine ⟨_, rfl, ?_⟩
  repeat' first
    | with_reducible assumption
    | with_reducible apply State.streamRto_parts

theorem execStreamReadReply_parts {M : Part → Prop} {z : State} {s : State} (h : Parts M z s) (i : Nat) (f : Flit)
    (m_out : M .out) (m_free : M .free) (m_regs : M .regs) (m_events : M .events) (m_host : M .host) (m_links : M
    .links) (m_reservations : M .reservations) (m_opn : M .opn) (m_arrays : M .arrays) (m_power : M .power) (m_answers :
    M .answers) (m_streams : M .streams) : ∃ t, execStreamReadReply i f s = .next t ∧ Parts M z t := by
  refine ⟨_, rfl, ?_⟩
  repeat' first
    | with_reducible assumption
    | with_reducible apply State.streamReply_parts
    | with_reducible apply State.served_parts
    | with_reducible apply State.headerDiscard_parts
    | intro _
    | split
    | dsimp only

theorem execEventAck_parts {M : Part → Prop} {z : State} {s : State} (h : Parts M z s) (src : NetSrc) (seq : Nat)
    (m_events : M .events) :
    ∃ t, execEventAck src seq s = .next t ∧ Parts M z t := by
  refine ⟨_, rfl, ?_⟩
  repeat' first
    | with_reducible assumption
    | with_reducible apply State.eventAck_parts

theorem execEvtRto_parts {M : Part → Prop} {z : State} {s : State} (h : Parts M z s) (m_free : M .free) (m_regs : M .regs)
    (m_events : M .events) (m_host : M .host) :
    ∃ t, execEvtRto s = .next t ∧ Parts M z t := by
  refine ⟨_, rfl, ?_⟩
  repeat' first
    | with_reducible assumption
    | with_reducible apply State.evtRto_parts

theorem execMoraecaReceive_parts {M : Part → Prop} {z : State} {s : State} (h : Parts M z s) (src : NetSrc) (bytes :
    List Byte) (m_out : M .out) (m_free : M .free) (m_regs : M .regs) (m_events : M .events) (m_host : M .host) (m_links
    : M .links) (m_reservations : M .reservations) (m_opn : M .opn) (m_power : M .power) (m_sessions : M .sessions)
    (m_opening : M .opening) (m_answers : M .answers) (m_streams : M .streams) : ∃ t, execMoraecaReceive src bytes s =
    .next t ∧ Parts M z t := by
  refine ⟨_, rfl, ?_⟩
  repeat' first
    | with_reducible assumption
    | with_reducible apply State.datagram_parts

theorem execCwNop_parts {M : Part → Prop} {z : State} {s : State} (h : Parts M z s) (w : Nat) (m_windows : M .windows) :
    ∃ t, execCwNop w s = .next t ∧ Parts M z t := by
  refine ⟨_, rfl, ?_⟩
  repeat' first
    | with_reducible assumption
    | with_reducible apply State.cwStart_parts
    | intro _

theorem execCwRegWr_parts {M : Part → Prop} {z : State} {s : State} (h : Parts M z s) (w : Nat) (m_out : M .out)
    (m_free : M .free) (m_regs : M .regs) (m_mem : M .mem) (m_events : M .events) (m_host : M .host)
    (m_belfry : M .belfry) (m_links : M .links) (m_d2d : M .d2d) (m_reservations : M .reservations) (m_routes : M .routes)
    (m_opn : M .opn) (m_arrays : M .arrays) (m_fst : M .fst) (m_watch : M .watch) (m_bankA : M .bankA)
    (m_bankB : M .bankB) (m_sched : M .sched) (m_runs : M .runs) (m_frozenNow : M .frozenNow) (m_atoms : M .atoms)
    (m_waiting : M .waiting) (m_movers : M .movers) (m_roundEnd : M .roundEnd) (m_tiles : M .tiles) (m_ueStep : M .ueStep)
    (m_keys : M .keys) (m_meas : M .meas) (m_scrub : M .scrub) (m_spots : M .spots) (m_margin : M .margin)
    (m_power : M .power) (m_fuses : M .fuses) (m_trust : M .trust) (m_sessions : M .sessions) (m_opening : M .opening)
    (m_answers : M .answers) (m_streams : M .streams) (m_windows : M .windows) :
    ∃ t, execCwRegWr w s = .next t ∧ Parts M z t := by
  refine ⟨_, rfl, ?_⟩
  repeat' first
    | with_reducible assumption
    | with_reducible apply State.cwStart_parts
    | with_reducible apply State.cwRegWr_parts
    | intro _

theorem execCwMove_parts {M : Part → Prop} {z : State} {s : State} (h : Parts M z s) (w : Nat) (m_out : M .out) (m_free
    : M .free) (m_regs : M .regs) (m_events : M .events) (m_host : M .host) (m_links : M .links) (m_reservations : M
    .reservations) (m_opn : M .opn) (m_movers : M .movers) (m_power : M .power) (m_answers : M .answers) (m_windows : M
    .windows) : ∃ t, execCwMove w s = .next t ∧ Parts M z t := by
  refine ⟨_, rfl, ?_⟩
  repeat' first
    | with_reducible assumption
    | with_reducible apply State.cwStart_parts
    | with_reducible apply State.cwMove_parts
    | intro _

theorem execCwPlanLoad_parts {M : Part → Prop} {z : State} {s : State} (h : Parts M z s) (w : Nat) (m_free : M .free)
    (m_regs : M .regs) (m_events : M .events) (m_host : M .host) (m_opn : M .opn) (m_fst : M .fst) (m_bankA : M .bankA)
    (m_bankB : M .bankB) (m_sched : M .sched) (m_meas : M .meas) (m_windows : M .windows) :
    ∃ t, execCwPlanLoad w s = .next t ∧ Parts M z t := by
  refine ⟨_, rfl, ?_⟩
  repeat' first
    | with_reducible assumption
    | with_reducible apply State.cwStart_parts
    | with_reducible apply State.cwPlanLoad_parts
    | intro _

theorem execCwPlanSwitch_parts {M : Part → Prop} {z : State} {s : State} (h : Parts M z s) (w : Nat) (m_free : M .free)
    (m_regs : M .regs) (m_events : M .events) (m_host : M .host) (m_watch : M .watch) (m_sched : M .sched)
    (m_tiles : M .tiles) (m_windows : M .windows) :
    ∃ t, execCwPlanSwitch w s = .next t ∧ Parts M z t := by
  refine ⟨_, rfl, ?_⟩
  repeat' first
    | with_reducible assumption
    | with_reducible apply State.cwStart_parts
    | with_reducible apply State.cwPlanSwitch_parts
    | intro _

theorem execCwRecordComplete_parts {M : Part → Prop} {z : State} {s : State} (h : Parts M z s) (w : Nat)
    (m_free : M .free) (m_regs : M .regs) (m_mem : M .mem) (m_events : M .events) (m_host : M .host)
    (m_arrays : M .arrays) (m_watch : M .watch) (m_atoms : M .atoms) (m_answers : M .answers) (m_windows : M .windows) :
    ∃ t, execCwRecordComplete w s = .next t ∧ Parts M z t := by
  refine ⟨_, rfl, ?_⟩
  repeat' first
    | with_reducible assumption
    | with_reducible apply State.cwComplete_parts

theorem execTickBoundary_parts {M : Part → Prop} {z : State} {s : State} (h : Parts M z s) (m_out : M .out)
    (m_free : M .free) (m_regs : M .regs) (m_mem : M .mem) (m_events : M .events) (m_host : M .host)
    (m_belfry : M .belfry) (m_links : M .links) (m_d2d : M .d2d) (m_reservations : M .reservations) (m_routes : M .routes)
    (m_opn : M .opn) (m_arrays : M .arrays) (m_fst : M .fst) (m_watch : M .watch) (m_bankA : M .bankA)
    (m_bankB : M .bankB) (m_sched : M .sched) (m_runs : M .runs) (m_frozenNow : M .frozenNow) (m_atoms : M .atoms)
    (m_waiting : M .waiting) (m_movers : M .movers) (m_roundEnd : M .roundEnd) (m_tiles : M .tiles) (m_ueStep : M .ueStep)
    (m_keys : M .keys) (m_meas : M .meas) (m_scrub : M .scrub) (m_spots : M .spots) (m_margin : M .margin)
    (m_power : M .power) (m_fuses : M .fuses) (m_trust : M .trust) (m_sessions : M .sessions) (m_opening : M .opening)
    (m_answers : M .answers) (m_streams : M .streams) (m_windows : M .windows) :
    ∃ t, execTickBoundary s = .next t ∧ Parts M z t := by
  refine ⟨_, rfl, ?_⟩
  repeat' first
    | with_reducible assumption
    | with_reducible apply State.boundary_parts

theorem execLineBlockReceive_parts {M : Part → Prop} {z : State} {s : State} (h : Parts M z s) (link : Nat) (data parity : List Byte) (m_out : M .out) (m_free : M .free) (m_regs : M .regs) (m_events : M .events)
    (m_host : M .host) (m_belfry : M .belfry) (m_links : M .links) (m_reservations : M .reservations) (m_routes : M
    .routes) (m_opn : M .opn) (m_watch : M .watch) (m_sched : M .sched) (m_tiles : M .tiles) (m_power : M .power)
    (m_answers : M .answers) : ∃ t, execLineBlockReceive link data parity s = .next t ∧ Parts M z t := by
  refine ⟨_, rfl, ?_⟩
  repeat' first
    | with_reducible assumption
    | with_reducible apply State.lineBlock_parts
    | intro _
    | split

theorem tickBoundary_touches (s : State) : ∃ t, execTickBoundary s = .next t ∧ Parts (· ∈ touches (.tickBoundary)) s t := by
  apply execTickBoundary_parts (parts_refl s) <;> exact of_decide_eq_true rfl

theorem periodAtWrite_touches (s : State) (v : Nat) : ∃ t, execPeriodAtWrite v s = .next t ∧ Parts (· ∈ touches
    (.periodAtWrite v)) s t := by
  apply execPeriodAtWrite_parts (parts_refl s) v <;> exact of_decide_eq_true rfl

theorem nowLoRead_touches (s : State) : ∃ t, execNowLoRead s = .next t ∧ Parts (· ∈ touches (.nowLoRead)) s t := by
  apply execNowLoRead_parts (parts_refl s) <;> exact of_decide_eq_true rfl

theorem stepLoRead_touches (s : State) : ∃ t, execStepLoRead s = .next t ∧ Parts (· ∈ touches (.stepLoRead)) s t := by
  apply execStepLoRead_parts (parts_refl s) <;> exact of_decide_eq_true rfl

theorem markerReceive_touches (s : State) (link : Nat) (m : Marker) : ∃ t, execMarkerReceive link m s = .next t ∧ Parts (·
    ∈ touches (.markerReceive link m)) s t := by
  apply execMarkerReceive_parts (parts_refl s) link m <;> exact of_decide_eq_true rfl

theorem trimSaturated_touches (s : State) : ∃ t, execTrimSaturated s = .next t ∧ Parts (· ∈ touches (.trimSaturated)) s t
    := by
  apply execTrimSaturated_parts (parts_refl s) <;> exact of_decide_eq_true rfl

theorem scheduledFlitReceive_touches (s : State) (link : Nat) (f : Flit) : ∃ t, execScheduledFlitReceive link f s = .next
    t ∧ Parts (· ∈ touches (.scheduledFlitReceive link f)) s t := by
  apply execScheduledFlitReceive_parts (parts_refl s) link f <;> exact of_decide_eq_true rfl

theorem flitConsume_touches (s : State) (link : Nat) (sid : Nat) (o : Nat) : ∃ t, execFlitConsume link sid o s = .next t ∧
    Parts (· ∈ touches (.flitConsume link sid o)) s t := by
  apply execFlitConsume_parts (parts_refl s) link sid o <;> exact of_decide_eq_true rfl

theorem skipNotice_touches (s : State) (d : Nat) (target : Nat) (origin : Nat) (reason : Nat) : ∃ t, execSkipNotice d
    target origin reason s = .next t ∧ Parts (· ∈ touches (.skipNotice d target origin reason)) s t := by
  apply execSkipNotice_parts (parts_refl s) d target origin reason <;> exact of_decide_eq_true rfl

theorem throttleEvaluation_touches (s : State) (temps : List Int) (power : Nat) (cup : List Nat) : ∃ t,
    execThrottleEvaluation temps power cup s = .next t ∧ Parts (· ∈ touches (.throttleEvaluation temps power cup)) s t :=
    by
  apply execThrottleEvaluation_parts (parts_refl s) temps power cup <;> exact of_decide_eq_true rfl

theorem skipNoticeIssue_touches (s : State) : ∃ t, execSkipNoticeIssue s = .next t ∧ Parts (· ∈ touches
    (.skipNoticeIssue)) s t := by
  apply execSkipNoticeIssue_parts (parts_refl s) <;> exact of_decide_eq_true rfl

theorem skipReq_touches (s : State) (v : Nat) : ∃ t, execSkipReq v s = .next t ∧ Parts (· ∈ touches (.skipReq v)) s t := by
  apply execSkipReq_parts (parts_refl s) v <;> exact of_decide_eq_true rfl

theorem thrEnClear_touches (s : State) (v : Nat) : ∃ t, execThrEnClear v s = .next t ∧ Parts (· ∈ touches (.thrEnClear v))
    s t := by
  apply execThrEnClear_parts (parts_refl s) v <;> exact of_decide_eq_true rfl

theorem linkSignalDetect_touches (s : State) (link : Nat) : ∃ t, execLinkSignalDetect link s = .next t ∧ Parts (· ∈
    touches (.linkSignalDetect link)) s t := by
  apply execLinkSignalDetect_parts (parts_refl s) link <;> exact of_decide_eq_true rfl

theorem eqConverge_touches (s : State) (link : Nat) : ∃ t, execEqConverge link s = .next t ∧ Parts (· ∈ touches
    (.eqConverge link)) s t := by
  apply execEqConverge_parts (parts_refl s) link <;> exact of_decide_eq_true rfl

theorem lockAchieved_touches (s : State) (link : Nat) : ∃ t, execLockAchieved link s = .next t ∧ Parts (· ∈ touches
    (.lockAchieved link)) s t := by
  apply execLockAchieved_parts (parts_refl s) link <;> exact of_decide_eq_true rfl

theorem latencyProbe_touches (s : State) (link : Nat) (stamp : Nat) (hold : Nat) : ∃ t, execLatencyProbe link stamp hold s
    = .next t ∧ Parts (· ∈ touches (.latencyProbe link stamp hold)) s t := by
  apply execLatencyProbe_parts (parts_refl s) link stamp hold <;> exact of_decide_eq_true rfl

theorem probeEcho_touches (s : State) (link : Nat) (echo : Nat) (hold : Nat) : ∃ t, execProbeEcho link echo hold s = .next
    t ∧ Parts (· ∈ touches (.probeEcho link echo hold)) s t := by
  apply execProbeEcho_parts (parts_refl s) link echo hold <;> exact of_decide_eq_true rfl

theorem identity_touches (s : State) (link : Nat) (ident : Nat) (dir : Nat) : ∃ t, execIdentity link ident dir s = .next t
    ∧ Parts (· ∈ touches (.identity link ident dir)) s t := by
  apply execIdentity_parts (parts_refl s) link ident dir <;> exact of_decide_eq_true rfl

theorem creditGrant_touches (s : State) (link : Nat) (credits : List Nat) : ∃ t, execCreditGrant link credits s = .next t
    ∧ Parts (· ∈ touches (.creditGrant link credits)) s t := by
  apply execCreditGrant_parts (parts_refl s) link credits <;> exact of_decide_eq_true rfl

theorem trainStateTimeout_touches (s : State) (link : Nat) : ∃ t, execTrainStateTimeout link s = .next t ∧ Parts (· ∈
    touches (.trainStateTimeout link)) s t := by
  apply execTrainStateTimeout_parts (parts_refl s) link <;> exact of_decide_eq_true rfl

theorem lockLoss_touches (s : State) (link : Nat) : ∃ t, execLockLoss link s = .next t ∧ Parts (· ∈ touches (.lockLoss
    link)) s t := by
  apply execLockLoss_parts (parts_refl s) link <;> exact of_decide_eq_true rfl

theorem retrain_touches (s : State) (link : Nat) : ∃ t, execRetrain link s = .next t ∧ Parts (· ∈ touches (.retrain link))
    s t := by
  apply execRetrain_parts (parts_refl s) link <;> exact of_decide_eq_true rfl

theorem linkEnWrite_touches (s : State) (link : Nat) (en : Bool) : ∃ t, execLinkEnWrite link en s = .next t ∧ Parts (· ∈
    touches (.linkEnWrite link en)) s t := by
  apply execLinkEnWrite_parts (parts_refl s) link en <;> exact of_decide_eq_true rfl

theorem lineBlockReceive_touches (s : State) (link : Nat) (data parity : List Byte) : ∃ t,
    execLineBlockReceive link data parity s = .next t ∧ Parts (· ∈ touches (.lineBlockReceive link data parity)) s t := by
  apply execLineBlockReceive_parts (parts_refl s) link data parity <;> exact of_decide_eq_true rfl

theorem nakReceive_touches (s : State) (link : Nat) (seq : Nat) : ∃ t, execNakReceive link seq s = .next t ∧ Parts (· ∈
    touches (.nakReceive link seq)) s t := by
  apply execNakReceive_parts (parts_refl s) link seq <;> exact of_decide_eq_true rfl

theorem ackTimeout_touches (s : State) (link : Nat) (seq : Nat) : ∃ t, execAckTimeout link seq s = .next t ∧ Parts (· ∈
    touches (.ackTimeout link seq)) s t := by
  apply execAckTimeout_parts (parts_refl s) link seq <;> exact of_decide_eq_true rfl

theorem d2dRetry_touches (s : State) (link : Nat) (dir : Nat) (k : Nat) (acked : Bool) : ∃ t, execD2dRetry link dir k
    acked s = .next t ∧ Parts (· ∈ touches (.d2dRetry link dir k acked)) s t := by
  apply execD2dRetry_parts (parts_refl s) link dir k acked <;> exact of_decide_eq_true rfl

theorem credTo_touches (s : State) (n : Nat) (vc : Nat) : ∃ t, execCredTo n vc s = .next t ∧ Parts (· ∈ touches (.credTo n
    vc)) s t := by
  apply execCredTo_parts (parts_refl s) n vc <;> exact of_decide_eq_true rfl

theorem openRequestInject_touches (s : State) (src : Source) (f : Flit) : ∃ t, execOpenRequestInject src f s = .next t ∧
    Parts (· ∈ touches (.openRequestInject src f)) s t := by
  apply execOpenRequestInject_parts (parts_refl s) src f <;> exact of_decide_eq_true rfl

theorem ingressSwitch_touches (s : State) (link : Nat) (vc : Nat) : ∃ t, execIngressSwitch link vc s = .next t ∧ Parts (·
    ∈ touches (.ingressSwitch link vc)) s t := by
  apply execIngressSwitch_parts (parts_refl s) link vc <;> exact of_decide_eq_true rfl

theorem reservationTimeout_touches (s : State) (src : Source) (tag : Nat) : ∃ t, execReservationTimeout src tag s = .next
    t ∧ Parts (· ∈ touches (.reservationTimeout src tag)) s t := by
  apply execReservationTimeout_parts (parts_refl s) src tag <;> exact of_decide_eq_true rfl

theorem replyReceive_touches (s : State) (src : Source) (f : Flit) : ∃ t, execReplyReceive src f s = .next t ∧ Parts (· ∈
    touches (.replyReceive src f)) s t := by
  apply execReplyReceive_parts (parts_refl s) src f <;> exact of_decide_eq_true rfl

theorem flitAged_touches (s : State) (keep : Nat) (out : Nat) (vc : Nat) : ∃ t, execFlitAged keep out vc s = .next t ∧
    Parts (· ∈ touches (.flitAged keep out vc)) s t := by
  apply execFlitAged_parts (parts_refl s) keep out vc <;> exact of_decide_eq_true rfl

theorem tblDataWrite_touches (s : State) (keep : Nat) (v : Nat) : ∃ t, execTblDataWrite keep v s = .next t ∧ Parts (· ∈
    touches (.tblDataWrite keep v)) s t := by
  apply execTblDataWrite_parts (parts_refl s) keep v <;> exact of_decide_eq_true rfl

theorem flipAtWrite_touches (s : State) (keep : Nat) (v : Nat) : ∃ t, execFlipAtWrite keep v s = .next t ∧ Parts (· ∈
    touches (.flipAtWrite keep v)) s t := by
  apply execFlipAtWrite_parts (parts_refl s) keep v <;> exact of_decide_eq_true rfl

theorem routeFlip_touches (s : State) (d : Nat) (tick : Nat) (sum : Nat) (origin : Nat) : ∃ t, execRouteFlip d tick sum
    origin s = .next t ∧ Parts (· ∈ touches (.routeFlip d tick sum origin)) s t := by
  apply execRouteFlip_parts (parts_refl s) d tick sum origin <;> exact of_decide_eq_true rfl

theorem drainDeadline_touches (s : State) : ∃ t, execDrainDeadline s = .next t ∧ Parts (· ∈ touches (.drainDeadline)) s t
    := by
  apply execDrainDeadline_parts (parts_refl s) <;> exact of_decide_eq_true rfl

theorem load_touches (s : State) (bank : Nat) : ∃ t, execLoad bank s = .next t ∧ Parts (· ∈ touches (.load bank)) s t := by
  apply execLoad_parts (parts_refl s) bank <;> exact of_decide_eq_true rfl

theorem planLoadDone_touches (s : State) : ∃ t, execPlanLoadDone s = .next t ∧ Parts (· ∈ touches (.planLoadDone)) s t := by
  apply execPlanLoadDone_parts (parts_refl s) <;> exact of_decide_eq_true rfl

theorem switchAtWrite_touches (s : State) (v : Nat) : ∃ t, execSwitchAtWrite v s = .next t ∧ Parts (· ∈ touches
    (.switchAtWrite v)) s t := by
  apply execSwitchAtWrite_parts (parts_refl s) v <;> exact of_decide_eq_true rfl

theorem disarm_touches (s : State) (hi : Nat) : ∃ t, execDisarm hi s = .next t ∧ Parts (· ∈ touches (.disarm hi)) s t := by
  apply execDisarm_parts (parts_refl s) hi <;> exact of_decide_eq_true rfl

theorem egressAdmit_touches (s : State) (keep : Nat) (out : Nat) (vc : Nat) (src : QSource) : ∃ t, execEgressAdmit keep
    out vc src s = .next t ∧ Parts (· ∈ touches (.egressAdmit keep out vc src)) s t := by
  apply execEgressAdmit_parts (parts_refl s) keep out vc src <;> exact of_decide_eq_true rfl

theorem egressSend_touches (s : State) (keep : Nat) (out : Nat) : ∃ t, execEgressSend keep out s = .next t ∧ Parts (· ∈
    touches (.egressSend keep out)) s t := by
  apply execEgressSend_parts (parts_refl s) keep out <;> exact of_decide_eq_true rfl

theorem spillWrite_touches (s : State) (keep : Nat) (out : Nat) (vc : Nat) : ∃ t, execSpillWrite keep out vc s = .next t ∧
    Parts (· ∈ touches (.spillWrite keep out vc)) s t := by
  apply execSpillWrite_parts (parts_refl s) keep out vc <;> exact of_decide_eq_true rfl

theorem spillReadback_touches (s : State) (keep : Nat) (out : Nat) (vc : Nat) (ecc : SpillEcc) : ∃ t, execSpillReadback
    keep out vc ecc s = .next t ∧ Parts (· ∈ touches (.spillReadback keep out vc ecc)) s t := by
  apply execSpillReadback_parts (parts_refl s) keep out vc ecc <;> exact of_decide_eq_true rfl

theorem ovfConfigWrite_touches (s : State) (keep : Nat) (v : Nat) : ∃ t, execOvfConfigWrite keep v s = .next t ∧ Parts (·
    ∈ touches (.ovfConfigWrite keep v)) s t := by
  apply execOvfConfigWrite_parts (parts_refl s) keep v <;> exact of_decide_eq_true rfl

theorem hostFrameReceive_touches (s : State) (bytes : List Byte) : ∃ t, execHostFrameReceive bytes s = .next t ∧ Parts (·
    ∈ touches (.hostFrameReceive bytes)) s t := by
  apply execHostFrameReceive_parts (parts_refl s) bytes <;> exact of_decide_eq_true rfl

theorem hostIngressForward_touches (s : State) (p : Nat) : ∃ t, execHostIngressForward p s = .next t ∧ Parts (· ∈ touches
    (.hostIngressForward p)) s t := by
  apply execHostIngressForward_parts (parts_refl s) p <;> exact of_decide_eq_true rfl

theorem pfcRepeat_touches (s : State) (p : Nat) : ∃ t, execPfcRepeat p s = .next t ∧ Parts (· ∈ touches (.pfcRepeat p)) s
    t := by
  apply execPfcRepeat_parts (parts_refl s) p <;> exact of_decide_eq_true rfl

theorem pfcXon_touches (s : State) (p : Nat) : ∃ t, execPfcXon p s = .next t ∧ Parts (· ∈ touches (.pfcXon p)) s t := by
  apply execPfcXon_parts (parts_refl s) p <;> exact of_decide_eq_true rfl

theorem pfcFrameReceive_touches (s : State) (enable : Nat) (quanta : List Nat) : ∃ t, execPfcFrameReceive enable quanta s
    = .next t ∧ Parts (· ∈ touches (.pfcFrameReceive enable quanta)) s t := by
  apply execPfcFrameReceive_parts (parts_refl s) enable quanta <;> exact of_decide_eq_true rfl

theorem pauseExpiry_touches (s : State) (p : Nat) : ∃ t, execPauseExpiry p s = .next t ∧ Parts (· ∈ touches (.pauseExpiry
    p)) s t := by
  apply execPauseExpiry_parts (parts_refl s) p <;> exact of_decide_eq_true rfl

theorem ethFrameReassembled_touches (s : State) (vc : Nat) : ∃ t, execEthFrameReassembled vc s = .next t ∧ Parts (· ∈
    touches (.ethFrameReassembled vc)) s t := by
  apply execEthFrameReassembled_parts (parts_refl s) vc <;> exact of_decide_eq_true rfl

theorem hostFrameStart_touches (s : State) : ∃ t, execHostFrameStart s = .next t ∧ Parts (· ∈ touches (.hostFrameStart)) s
    t := by
  apply execHostFrameStart_parts (parts_refl s) <;> exact of_decide_eq_true rfl

theorem hostLinkUp_touches (s : State) : ∃ t, execHostLinkUp s = .next t ∧ Parts (· ∈ touches (.hostLinkUp)) s t := by
  apply execHostLinkUp_parts (parts_refl s) <;> exact of_decide_eq_true rfl

theorem hostLinkDown_touches (s : State) : ∃ t, execHostLinkDown s = .next t ∧ Parts (· ∈ touches (.hostLinkDown)) s t := by
  apply execHostLinkDown_parts (parts_refl s) <;> exact of_decide_eq_true rfl

theorem clipClr_touches (s : State) (u : AUnit) : ∃ t, execClipClr u s = .next t ∧ Parts (· ∈ touches (.clipClr u)) s t :=
    by
  apply execClipClr_parts (parts_refl s) u <;> exact of_decide_eq_true rfl

theorem ceReduce_touches (s : State) (ce : Nat) (slot : Nat) : ∃ t, execCeReduce ce slot s = .next t ∧ Parts (· ∈ touches
    (.ceReduce ce slot)) s t := by
  apply execCeReduce_parts (parts_refl s) ce slot <;> exact of_decide_eq_true rfl

theorem ceAllReduce_touches (s : State) (ce : Nat) (slot : Nat) : ∃ t, execCeAllReduce ce slot s = .next t ∧ Parts (· ∈
    touches (.ceAllReduce ce slot)) s t := by
  apply execCeAllReduce_parts (parts_refl s) ce slot <;> exact of_decide_eq_true rfl

theorem ceReduceScatter_touches (s : State) (ce : Nat) (slot : Nat) : ∃ t, execCeReduceScatter ce slot s = .next t ∧ Parts
    (· ∈ touches (.ceReduceScatter ce slot)) s t := by
  apply execCeReduceScatter_parts (parts_refl s) ce slot <;> exact of_decide_eq_true rfl

theorem ceAllGather_touches (s : State) (ce : Nat) (slot : Nat) : ∃ t, execCeAllGather ce slot s = .next t ∧ Parts (· ∈
    touches (.ceAllGather ce slot)) s t := by
  apply execCeAllGather_parts (parts_refl s) ce slot <;> exact of_decide_eq_true rfl

theorem ceBroadcast_touches (s : State) (ce : Nat) (slot : Nat) : ∃ t, execCeBroadcast ce slot s = .next t ∧ Parts (· ∈
    touches (.ceBroadcast ce slot)) s t := by
  apply execCeBroadcast_parts (parts_refl s) ce slot <;> exact of_decide_eq_true rfl

theorem ceAllToAll_touches (s : State) (ce : Nat) (slot : Nat) : ∃ t, execCeAllToAll ce slot s = .next t ∧ Parts (· ∈
    touches (.ceAllToAll ce slot)) s t := by
  apply execCeAllToAll_parts (parts_refl s) ce slot <;> exact of_decide_eq_true rfl

theorem ceGatherIdx_touches (s : State) (ce : Nat) (slot : Nat) : ∃ t, execCeGatherIdx ce slot s = .next t ∧ Parts (· ∈
    touches (.ceGatherIdx ce slot)) s t := by
  apply execCeGatherIdx_parts (parts_refl s) ce slot <;> exact of_decide_eq_true rfl

theorem ceScatterIdx_touches (s : State) (ce : Nat) (slot : Nat) : ∃ t, execCeScatterIdx ce slot s = .next t ∧ Parts (· ∈
    touches (.ceScatterIdx ce slot)) s t := by
  apply execCeScatterIdx_parts (parts_refl s) ce slot <;> exact of_decide_eq_true rfl

theorem ceSortMerge_touches (s : State) (ce : Nat) (slot : Nat) : ∃ t, execCeSortMerge ce slot s = .next t ∧ Parts (· ∈
    touches (.ceSortMerge ce slot)) s t := by
  apply execCeSortMerge_parts (parts_refl s) ce slot <;> exact of_decide_eq_true rfl

theorem ceTopkMerge_touches (s : State) (ce : Nat) (slot : Nat) : ∃ t, execCeTopkMerge ce slot s = .next t ∧ Parts (· ∈
    touches (.ceTopkMerge ce slot)) s t := by
  apply execCeTopkMerge_parts (parts_refl s) ce slot <;> exact of_decide_eq_true rfl

theorem ceScan_touches (s : State) (ce : Nat) (slot : Nat) : ∃ t, execCeScan ce slot s = .next t ∧ Parts (· ∈ touches
    (.ceScan ce slot)) s t := by
  apply execCeScan_parts (parts_refl s) ce slot <;> exact of_decide_eq_true rfl

theorem ceAttnCombine_touches (s : State) (ce : Nat) (slot : Nat) : ∃ t, execCeAttnCombine ce slot s = .next t ∧ Parts (·
    ∈ touches (.ceAttnCombine ce slot)) s t := by
  apply execCeAttnCombine_parts (parts_refl s) ce slot <;> exact of_decide_eq_true rfl

theorem cePartialFold_touches (s : State) (ce : Nat) (slot : Nat) (rank : Nat) : ∃ t, execCePartialFold ce slot rank s =
    .next t ∧ Parts (· ∈ touches (.cePartialFold ce slot rank)) s t := by
  apply execCePartialFold_parts (parts_refl s) ce slot rank <;> exact of_decide_eq_true rfl

theorem atomAdd_touches (s : State) (f : Flit) : ∃ t, execAtomAdd f s = .next t ∧ Parts (· ∈ touches (.atomAdd f)) s t := by
  apply execAtomAdd_parts (parts_refl s) f <;> exact of_decide_eq_true rfl

theorem atomAddFetch_touches (s : State) (f : Flit) : ∃ t, execAtomAddFetch f s = .next t ∧ Parts (· ∈ touches
    (.atomAddFetch f)) s t := by
  apply execAtomAddFetch_parts (parts_refl s) f <;> exact of_decide_eq_true rfl

theorem atomIdleWriteback_touches (s : State) (line : Nat) : ∃ t, execAtomIdleWriteback line s = .next t ∧ Parts (· ∈
    touches (.atomIdleWriteback line)) s t := by
  apply execAtomIdleWriteback_parts (parts_refl s) line <;> exact of_decide_eq_true rfl

theorem atomFlush_touches (s : State) (c : Nat) : ∃ t, execAtomFlush c s = .next t ∧ Parts (· ∈ touches (.atomFlush c)) s
    t := by
  apply execAtomFlush_parts (parts_refl s) c <;> exact of_decide_eq_true rfl

theorem atomWinWrite_touches (s : State) (c : Nat) (v : Nat) : ∃ t, execAtomWinWrite c v s = .next t ∧ Parts (· ∈ touches
    (.atomWinWrite c v)) s t := by
  apply execAtomWinWrite_parts (parts_refl s) c v <;> exact of_decide_eq_true rfl

theorem codecEncode_touches (s : State) (c : Nat) (slot : Nat) : ∃ t, execCodecEncode c slot s = .next t ∧ Parts (· ∈
    touches (.codecEncode c slot)) s t := by
  apply execCodecEncode_parts (parts_refl s) c slot <;> exact of_decide_eq_true rfl

theorem codecStore_touches (s : State) (c : Nat) (slot : Nat) : ∃ t, execCodecStore c slot s = .next t ∧ Parts (· ∈
    touches (.codecStore c slot)) s t := by
  apply execCodecStore_parts (parts_refl s) c slot <;> exact of_decide_eq_true rfl

theorem codecPack24_touches (s : State) (c : Nat) (slot : Nat) : ∃ t, execCodecPack24 c slot s = .next t ∧ Parts (· ∈
    touches (.codecPack24 c slot)) s t := by
  apply execCodecPack24_parts (parts_refl s) c slot <;> exact of_decide_eq_true rfl

theorem codecExpand_touches (s : State) (c : Nat) (slot : Nat) : ∃ t, execCodecExpand c slot s = .next t ∧ Parts (· ∈
    touches (.codecExpand c slot)) s t := by
  apply execCodecExpand_parts (parts_refl s) c slot <;> exact of_decide_eq_true rfl

theorem codedSliceReceive_touches (s : State) (c : Nat) (sid : Nat) : ∃ t, execCodedSliceReceive c sid s = .next t ∧ Parts
    (· ∈ touches (.codedSliceReceive c sid)) s t := by
  apply execCodedSliceReceive_parts (parts_refl s) c sid <;> exact of_decide_eq_true rfl

theorem billinCopy_touches (s : State) (g : Nat) (i : Nat) : ∃ t, execBillinCopy g i s = .next t ∧ Parts (· ∈ touches
    (.billinCopy g i)) s t := by
  apply execBillinCopy_parts (parts_refl s) g i <;> exact of_decide_eq_true rfl

theorem fill_touches (s : State) (g : Nat) (i : Nat) : ∃ t, execFill g i s = .next t ∧ Parts (· ∈ touches (.fill g i)) s t
    := by
  apply execFill_parts (parts_refl s) g i <;> exact of_decide_eq_true rfl

theorem gather_touches (s : State) (g : Nat) (i : Nat) : ∃ t, execGather g i s = .next t ∧ Parts (· ∈ touches (.gather g
    i)) s t := by
  apply execGather_parts (parts_refl s) g i <;> exact of_decide_eq_true rfl

theorem scatter_touches (s : State) (g : Nat) (i : Nat) : ∃ t, execScatter g i s = .next t ∧ Parts (· ∈ touches (.scatter
    g i)) s t := by
  apply execScatter_parts (parts_refl s) g i <;> exact of_decide_eq_true rfl

theorem billinMma_touches (s : State) (g : Nat) (i : Nat) : ∃ t, execBillinMma g i s = .next t ∧ Parts (· ∈ touches
    (.billinMma g i)) s t := by
  apply execBillinMma_parts (parts_refl s) g i <;> exact of_decide_eq_true rfl

theorem add_touches (s : State) (g : Nat) (i : Nat) : ∃ t, execAdd g i s = .next t ∧ Parts (· ∈ touches (.add g i)) s t :=
    by
  apply execAdd_parts (parts_refl s) g i <;> exact of_decide_eq_true rfl

theorem sub_touches (s : State) (g : Nat) (i : Nat) : ∃ t, execSub g i s = .next t ∧ Parts (· ∈ touches (.sub g i)) s t :=
    by
  apply execSub_parts (parts_refl s) g i <;> exact of_decide_eq_true rfl

theorem mul_touches (s : State) (g : Nat) (i : Nat) : ∃ t, execMul g i s = .next t ∧ Parts (· ∈ touches (.mul g i)) s t :=
    by
  apply execMul_parts (parts_refl s) g i <;> exact of_decide_eq_true rfl

theorem fma_touches (s : State) (g : Nat) (i : Nat) : ∃ t, execFma g i s = .next t ∧ Parts (· ∈ touches (.fma g i)) s t :=
    by
  apply execFma_parts (parts_refl s) g i <;> exact of_decide_eq_true rfl

theorem max_touches (s : State) (g : Nat) (i : Nat) : ∃ t, execMax g i s = .next t ∧ Parts (· ∈ touches (.max g i)) s t :=
    by
  apply execMax_parts (parts_refl s) g i <;> exact of_decide_eq_true rfl

theorem min_touches (s : State) (g : Nat) (i : Nat) : ∃ t, execMin g i s = .next t ∧ Parts (· ∈ touches (.min g i)) s t :=
    by
  apply execMin_parts (parts_refl s) g i <;> exact of_decide_eq_true rfl

theorem div_touches (s : State) (g : Nat) (i : Nat) : ∃ t, execDiv g i s = .next t ∧ Parts (· ∈ touches (.div g i)) s t :=
    by
  apply execDiv_parts (parts_refl s) g i <;> exact of_decide_eq_true rfl

theorem sqrt_touches (s : State) (g : Nat) (i : Nat) : ∃ t, execSqrt g i s = .next t ∧ Parts (· ∈ touches (.sqrt g i)) s t
    := by
  apply execSqrt_parts (parts_refl s) g i <;> exact of_decide_eq_true rfl

theorem exp2_touches (s : State) (g : Nat) (i : Nat) : ∃ t, execExp2 g i s = .next t ∧ Parts (· ∈ touches (.exp2 g i)) s t
    := by
  apply execExp2_parts (parts_refl s) g i <;> exact of_decide_eq_true rfl

theorem sign_touches (s : State) (g : Nat) (i : Nat) : ∃ t, execSign g i s = .next t ∧ Parts (· ∈ touches (.sign g i)) s t
    := by
  apply execSign_parts (parts_refl s) g i <;> exact of_decide_eq_true rfl

theorem abs_touches (s : State) (g : Nat) (i : Nat) : ∃ t, execAbs g i s = .next t ∧ Parts (· ∈ touches (.abs g i)) s t :=
    by
  apply execAbs_parts (parts_refl s) g i <;> exact of_decide_eq_true rfl

theorem rsum_touches (s : State) (g : Nat) (i : Nat) : ∃ t, execRsum g i s = .next t ∧ Parts (· ∈ touches (.rsum g i)) s t
    := by
  apply execRsum_parts (parts_refl s) g i <;> exact of_decide_eq_true rfl

theorem rmax_touches (s : State) (g : Nat) (i : Nat) : ∃ t, execRmax g i s = .next t ∧ Parts (· ∈ touches (.rmax g i)) s t
    := by
  apply execRmax_parts (parts_refl s) g i <;> exact of_decide_eq_true rfl

theorem rmin_touches (s : State) (g : Nat) (i : Nat) : ∃ t, execRmin g i s = .next t ∧ Parts (· ∈ touches (.rmin g i)) s t
    := by
  apply execRmin_parts (parts_refl s) g i <;> exact of_decide_eq_true rfl

theorem fenceAcq_touches (s : State) (g : Nat) (i : Nat) : ∃ t, execFenceAcq g i s = .next t ∧ Parts (· ∈ touches
    (.fenceAcq g i)) s t := by
  apply execFenceAcq_parts (parts_refl s) g i <;> exact of_decide_eq_true rfl

theorem fenceRel_touches (s : State) (g : Nat) (i : Nat) : ∃ t, execFenceRel g i s = .next t ∧ Parts (· ∈ touches
    (.fenceRel g i)) s t := by
  apply execFenceRel_parts (parts_refl s) g i <;> exact of_decide_eq_true rfl

theorem fenceFull_touches (s : State) (g : Nat) (i : Nat) : ∃ t, execFenceFull g i s = .next t ∧ Parts (· ∈ touches
    (.fenceFull g i)) s t := by
  apply execFenceFull_parts (parts_refl s) g i <;> exact of_decide_eq_true rfl

theorem flagSet_touches (s : State) (g : Nat) (i : Nat) : ∃ t, execFlagSet g i s = .next t ∧ Parts (· ∈ touches (.flagSet
    g i)) s t := by
  apply execFlagSet_parts (parts_refl s) g i <;> exact of_decide_eq_true rfl

theorem flagWait_touches (s : State) (g : Nat) (i : Nat) : ∃ t, execFlagWait g i s = .next t ∧ Parts (· ∈ touches
    (.flagWait g i)) s t := by
  apply execFlagWait_parts (parts_refl s) g i <;> exact of_decide_eq_true rfl

theorem flagWaitv_touches (s : State) (g : Nat) (i : Nat) : ∃ t, execFlagWaitv g i s = .next t ∧ Parts (· ∈ touches
    (.flagWaitv g i)) s t := by
  apply execFlagWaitv_parts (parts_refl s) g i <;> exact of_decide_eq_true rfl

theorem flagWaitDone_touches (s : State) (g : Nat) (q : Nat) : ∃ t, execFlagWaitDone g q s = .next t ∧ Parts (· ∈ touches
    (.flagWaitDone g q)) s t := by
  apply execFlagWaitDone_parts (parts_refl s) g q <;> exact of_decide_eq_true rfl

theorem tickBodyComplete_touches (s : State) (g : Nat) : ∃ t, execTickBodyComplete g s = .next t ∧ Parts (· ∈ touches
    (.tickBodyComplete g)) s t := by
  apply execTickBodyComplete_parts (parts_refl s) g <;> exact of_decide_eq_true rfl

theorem tileStoreAccess_touches (s : State) (g : Nat) : ∃ t, execTileStoreAccess g s = .next t ∧ Parts (· ∈ touches
    (.tileStoreAccess g)) s t := by
  apply execTileStoreAccess_parts (parts_refl s) g <;> exact of_decide_eq_true rfl

theorem prefetchComplete_touches (s : State) (g : Nat) : ∃ t, execPrefetchComplete g s = .next t ∧ Parts (· ∈ touches
    (.prefetchComplete g)) s t := by
  apply execPrefetchComplete_parts (parts_refl s) g <;> exact of_decide_eq_true rfl

theorem imemWdataWrite_touches (s : State) (g : Nat) (lantern : Bool) (v : Nat) : ∃ t, execImemWdataWrite g lantern v s =
    .next t ∧ Parts (· ∈ touches (.imemWdataWrite g lantern v)) s t := by
  apply execImemWdataWrite_parts (parts_refl s) g lantern v <;> exact of_decide_eq_true rfl

theorem sort_touches (s : State) (g : Nat) (i : Nat) : ∃ t, execSort g i s = .next t ∧ Parts (· ∈ touches (.sort g i)) s t
    := by
  apply execSort_parts (parts_refl s) g i <;> exact of_decide_eq_true rfl

theorem topk_touches (s : State) (g : Nat) (i : Nat) : ∃ t, execTopk g i s = .next t ∧ Parts (· ∈ touches (.topk g i)) s t
    := by
  apply execTopk_parts (parts_refl s) g i <;> exact of_decide_eq_true rfl

theorem softmax_touches (s : State) (g : Nat) (i : Nat) : ∃ t, execSoftmax g i s = .next t ∧ Parts (· ∈ touches (.softmax
    g i)) s t := by
  apply execSoftmax_parts (parts_refl s) g i <;> exact of_decide_eq_true rfl

theorem attnPartial_touches (s : State) (g : Nat) (i : Nat) : ∃ t, execAttnPartial g i s = .next t ∧ Parts (· ∈ touches
    (.attnPartial g i)) s t := by
  apply execAttnPartial_parts (parts_refl s) g i <;> exact of_decide_eq_true rfl

theorem attnMerge_touches (s : State) (g : Nat) (i : Nat) : ∃ t, execAttnMerge g i s = .next t ∧ Parts (· ∈ touches
    (.attnMerge g i)) s t := by
  apply execAttnMerge_parts (parts_refl s) g i <;> exact of_decide_eq_true rfl

theorem libScan_touches (s : State) (g : Nat) (i : Nat) : ∃ t, execLibScan g i s = .next t ∧ Parts (· ∈ touches (.libScan
    g i)) s t := by
  apply execLibScan_parts (parts_refl s) g i <;> exact of_decide_eq_true rfl

theorem histogram_touches (s : State) (g : Nat) (i : Nat) : ∃ t, execHistogram g i s = .next t ∧ Parts (· ∈ touches
    (.histogram g i)) s t := by
  apply execHistogram_parts (parts_refl s) g i <;> exact of_decide_eq_true rfl

theorem filter_touches (s : State) (g : Nat) (i : Nat) : ∃ t, execFilter g i s = .next t ∧ Parts (· ∈ touches (.filter g
    i)) s t := by
  apply execFilter_parts (parts_refl s) g i <;> exact of_decide_eq_true rfl

theorem ueNorm_touches (s : State) (c : Nat) (slot : Nat) : ∃ t, execUeNorm c slot s = .next t ∧ Parts (· ∈ touches
    (.ueNorm c slot)) s t := by
  apply execUeNorm_parts (parts_refl s) c slot <;> exact of_decide_eq_true rfl

theorem ueFold_touches (s : State) (c : Nat) (slot : Nat) : ∃ t, execUeFold c slot s = .next t ∧ Parts (· ∈ touches
    (.ueFold c slot)) s t := by
  apply execUeFold_parts (parts_refl s) c slot <;> exact of_decide_eq_true rfl

theorem ueApply_touches (s : State) (c : Nat) (slot : Nat) : ∃ t, execUeApply c slot s = .next t ∧ Parts (· ∈ touches
    (.ueApply c slot)) s t := by
  apply execUeApply_parts (parts_refl s) c slot <;> exact of_decide_eq_true rfl

theorem ueStage_touches (s : State) (c : Nat) (slot : Nat) : ∃ t, execUeStage c slot s = .next t ∧ Parts (· ∈ touches
    (.ueStage c slot)) s t := by
  apply execUeStage_parts (parts_refl s) c slot <;> exact of_decide_eq_true rfl

theorem ueCommit_touches (s : State) (c : Nat) (slot : Nat) : ∃ t, execUeCommit c slot s = .next t ∧ Parts (· ∈ touches
    (.ueCommit c slot)) s t := by
  apply execUeCommit_parts (parts_refl s) c slot <;> exact of_decide_eq_true rfl

theorem ueStepLoRead_touches (s : State) (c : Nat) : ∃ t, execUeStepLoRead c s = .next t ∧ Parts (· ∈ touches
    (.ueStepLoRead c)) s t := by
  apply execUeStepLoRead_parts (parts_refl s) c <;> exact of_decide_eq_true rfl

theorem chkGo_touches (s : State) (c : Nat) (unit : Nat) : ∃ t, execChkGo c unit s = .next t ∧ Parts (· ∈ touches (.chkGo
    c unit)) s t := by
  apply execChkGo_parts (parts_refl s) c unit <;> exact of_decide_eq_true rfl

theorem chkDone_touches (s : State) (c : Nat) : ∃ t, execChkDone c s = .next t ∧ Parts (· ∈ touches (.chkDone c)) s t := by
  apply execChkDone_parts (parts_refl s) c <;> exact of_decide_eq_true rfl

theorem memRd_touches (s : State) (f : Flit) : ∃ t, execMemRd f s = .next t ∧ Parts (· ∈ touches (.memRd f)) s t := by
  apply execMemRd_parts (parts_refl s) f <;> exact of_decide_eq_true rfl

theorem memWr_touches (s : State) (f : Flit) : ∃ t, execMemWr f s = .next t ∧ Parts (· ∈ touches (.memWr f)) s t := by
  apply execMemWr_parts (parts_refl s) f <;> exact of_decide_eq_true rfl

theorem bulkRd_touches (s : State) (f : Flit) : ∃ t, execBulkRd f s = .next t ∧ Parts (· ∈ touches (.bulkRd f)) s t := by
  apply execBulkRd_parts (parts_refl s) f <;> exact of_decide_eq_true rfl

theorem bulkWr_touches (s : State) (f : Flit) : ∃ t, execBulkWr f s = .next t ∧ Parts (· ∈ touches (.bulkWr f)) s t := by
  apply execBulkWr_parts (parts_refl s) f <;> exact of_decide_eq_true rfl

theorem hbmWakeWait_touches (s : State) (st : Nat) : ∃ t, execHbmWakeWait st s = .next t ∧ Parts (· ∈ touches
    (.hbmWakeWait st)) s t := by
  apply execHbmWakeWait_parts (parts_refl s) st <;> exact of_decide_eq_true rfl

theorem fstCommit_touches (s : State) : ∃ t, execFstCommit s = .next t ∧ Parts (· ∈ touches (.fstCommit)) s t := by
  apply execFstCommit_parts (parts_refl s) <;> exact of_decide_eq_true rfl

theorem fstRead_touches (s : State) : ∃ t, execFstRead s = .next t ∧ Parts (· ∈ touches (.fstRead)) s t := by
  apply execFstRead_parts (parts_refl s) <;> exact of_decide_eq_true rfl

theorem sysGibWrite_touches (s : State) (st : Nat) (v : Nat) : ∃ t, execSysGibWrite st v s = .next t ∧ Parts (· ∈ touches
    (.sysGibWrite st v)) s t := by
  apply execSysGibWrite_parts (parts_refl s) st v <;> exact of_decide_eq_true rfl

theorem refreshRound_touches (s : State) (st : Nat) : ∃ t, execRefreshRound st s = .next t ∧ Parts (· ∈ touches
    (.refreshRound st)) s t := by
  apply execRefreshRound_parts (parts_refl s) st <;> exact of_decide_eq_true rfl

theorem stackMoverOut_touches (s : State) (st : Nat) (slot : Nat) : ∃ t, execStackMoverOut st slot s = .next t ∧ Parts (·
    ∈ touches (.stackMoverOut st slot)) s t := by
  apply execStackMoverOut_parts (parts_refl s) st slot <;> exact of_decide_eq_true rfl

theorem stackMoverIn_touches (s : State) (st : Nat) (slot : Nat) : ∃ t, execStackMoverIn st slot s = .next t ∧ Parts (· ∈
    touches (.stackMoverIn st slot)) s t := by
  apply execStackMoverIn_parts (parts_refl s) st slot <;> exact of_decide_eq_true rfl

theorem stackMoverCopy_touches (s : State) (st : Nat) (slot : Nat) : ∃ t, execStackMoverCopy st slot s = .next t ∧ Parts
    (· ∈ touches (.stackMoverCopy st slot)) s t := by
  apply execStackMoverCopy_parts (parts_refl s) st slot <;> exact of_decide_eq_true rfl

theorem moverCopy_touches (s : State) (k : Nat) : ∃ t, execMoverCopy k s = .next t ∧ Parts (· ∈ touches (.moverCopy k)) s
    t := by
  apply execMoverCopy_parts (parts_refl s) k <;> exact of_decide_eq_true rfl

theorem moverConvert_touches (s : State) (k : Nat) : ∃ t, execMoverConvert k s = .next t ∧ Parts (· ∈ touches
    (.moverConvert k)) s t := by
  apply execMoverConvert_parts (parts_refl s) k <;> exact of_decide_eq_true rfl

theorem moverReply_touches (s : State) (k : Nat) (f : Flit) : ∃ t, execMoverReply k f s = .next t ∧ Parts (· ∈ touches
    (.moverReply k f)) s t := by
  apply execMoverReply_parts (parts_refl s) k f <;> exact of_decide_eq_true rfl

theorem moverDrainDone_touches (s : State) (k : Nat) : ∃ t, execMoverDrainDone k s = .next t ∧ Parts (· ∈ touches
    (.moverDrainDone k)) s t := by
  apply execMoverDrainDone_parts (parts_refl s) k <;> exact of_decide_eq_true rfl

theorem mvResume_touches (s : State) (k : Nat) : ∃ t, execMvResume k s = .next t ∧ Parts (· ∈ touches (.mvResume k)) s t
    := by
  apply execMvResume_parts (parts_refl s) k <;> exact of_decide_eq_true rfl

theorem mvAbort_touches (s : State) (k : Nat) : ∃ t, execMvAbort k s = .next t ∧ Parts (· ∈ touches (.mvAbort k)) s t := by
  apply execMvAbort_parts (parts_refl s) k <;> exact of_decide_eq_true rfl

theorem correctedWriteback_touches (s : State) (line : Nat) : ∃ t, execCorrectedWriteback line s = .next t ∧ Parts (· ∈
    touches (.correctedWriteback line)) s t := by
  apply execCorrectedWriteback_parts (parts_refl s) line <;> exact of_decide_eq_true rfl

theorem tripRewrite_touches (s : State) (key : RegKey) : ∃ t, execTripRewrite key s = .next t ∧ Parts (· ∈ touches
    (.tripRewrite key)) s t := by
  apply execTripRewrite_parts (parts_refl s) key <;> exact of_decide_eq_true rfl

theorem tripEnWrite_touches (s : State) (v : Nat) : ∃ t, execTripEnWrite v s = .next t ∧ Parts (· ∈ touches (.tripEnWrite
    v)) s t := by
  apply execTripEnWrite_parts (parts_refl s) v <;> exact of_decide_eq_true rfl

theorem mergeWriteback_touches (s : State) (line : Nat) : ∃ t, execMergeWriteback line s = .next t ∧ Parts (· ∈ touches
    (.mergeWriteback line)) s t := by
  apply execMergeWriteback_parts (parts_refl s) line <;> exact of_decide_eq_true rfl

theorem mergeEntryWait_touches (s : State) (st : Nat) : ∃ t, execMergeEntryWait st s = .next t ∧ Parts (· ∈ touches
    (.mergeEntryWait st)) s t := by
  apply execMergeEntryWait_parts (parts_refl s) st <;> exact of_decide_eq_true rfl

theorem patrolRead_touches (s : State) (line : Nat) : ∃ t, execPatrolRead line s = .next t ∧ Parts (· ∈ touches
    (.patrolRead line)) s t := by
  apply execPatrolRead_parts (parts_refl s) line <;> exact of_decide_eq_true rfl

theorem scrubGo_touches (s : State) : ∃ t, execScrubGo s = .next t ∧ Parts (· ∈ touches (.scrubGo)) s t := by
  apply execScrubGo_parts (parts_refl s) <;> exact of_decide_eq_true rfl

theorem scrubAbort_touches (s : State) : ∃ t, execScrubAbort s = .next t ∧ Parts (· ∈ touches (.scrubAbort)) s t := by
  apply execScrubAbort_parts (parts_refl s) <;> exact of_decide_eq_true rfl

theorem scrubGranule_touches (s : State) : ∃ t, execScrubGranule s = .next t ∧ Parts (· ∈ touches (.scrubGranule)) s t := by
  apply execScrubGranule_parts (parts_refl s) <;> exact of_decide_eq_true rfl

theorem spotCheckComplete_touches (s : State) (c : Nat) (got : List Nat) : ∃ t, execSpotCheckComplete c got s = .next t ∧
    Parts (· ∈ touches (.spotCheckComplete c got)) s t := by
  apply execSpotCheckComplete_parts (parts_refl s) c got <;> exact of_decide_eq_true rfl

theorem marginEvaluation_touches (s : State) (droop : List Nat) (canary : List Nat) (rx : List Int) : ∃ t,
    execMarginEvaluation droop canary rx s = .next t ∧ Parts (· ∈ touches (.marginEvaluation droop canary rx)) s t := by
  apply execMarginEvaluation_parts (parts_refl s) droop canary rx <;> exact of_decide_eq_true rfl

theorem neighbourSilent_touches (s : State) (d : Nat) : ∃ t, execNeighbourSilent d s = .next t ∧ Parts (· ∈ touches
    (.neighbourSilent d)) s t := by
  apply execNeighbourSilent_parts (parts_refl s) d <;> exact of_decide_eq_true rfl

theorem watchReport_touches (s : State) (d : Nat) (m : WatchMsg) : ∃ t, execWatchReport d m s = .next t ∧ Parts (· ∈
    touches (.watchReport d m)) s t := by
  apply execWatchReport_parts (parts_refl s) d m <;> exact of_decide_eq_true rfl

theorem roundDecision_touches (s : State) : ∃ t, execRoundDecision s = .next t ∧ Parts (· ∈ touches (.roundDecision)) s t
    := by
  apply execRoundDecision_parts (parts_refl s) <;> exact of_decide_eq_true rfl

theorem digestReceive_touches (s : State) (d : Nat) (cut : Nat) (digest : Nat) : ∃ t, execDigestReceive d cut digest s =
    .next t ∧ Parts (· ∈ touches (.digestReceive d cut digest)) s t := by
  apply execDigestReceive_parts (parts_refl s) d cut digest <;> exact of_decide_eq_true rfl

theorem switchTick_touches (s : State) : ∃ t, execSwitchTick s = .next t ∧ Parts (· ∈ touches (.switchTick)) s t := by
  apply execSwitchTick_parts (parts_refl s) <;> exact of_decide_eq_true rfl

theorem autoResume_touches (s : State) : ∃ t, execAutoResume s = .next t ∧ Parts (· ∈ touches (.autoResume)) s t := by
  apply execAutoResume_parts (parts_refl s) <;> exact of_decide_eq_true rfl

theorem rbGo_touches (s : State) (v : Nat) : ∃ t, execRbGo v s = .next t ∧ Parts (· ∈ touches (.rbGo v)) s t := by
  apply execRbGo_parts (parts_refl s) v <;> exact of_decide_eq_true rfl

theorem restoreCopyDone_touches (s : State) (ok : Bool) : ∃ t, execRestoreCopyDone ok s = .next t ∧ Parts (· ∈ touches
    (.restoreCopyDone ok)) s t := by
  apply execRestoreCopyDone_parts (parts_refl s) ok <;> exact of_decide_eq_true rfl

theorem restoreCheckDone_touches (s : State) (srcSum : Nat) (srcNorm : Nat) : ∃ t, execRestoreCheckDone srcSum srcNorm s =
    .next t ∧ Parts (· ∈ touches (.restoreCheckDone srcSum srcNorm)) s t := by
  apply execRestoreCheckDone_parts (parts_refl s) srcSum srcNorm <;> exact of_decide_eq_true rfl

theorem cmdResume_touches (s : State) : ∃ t, execCmdResume s = .next t ∧ Parts (· ∈ touches (.cmdResume)) s t := by
  apply execCmdResume_parts (parts_refl s) <;> exact of_decide_eq_true rfl

theorem cmdAbort_touches (s : State) : ∃ t, execCmdAbort s = .next t ∧ Parts (· ∈ touches (.cmdAbort)) s t := by
  apply execCmdAbort_parts (parts_refl s) <;> exact of_decide_eq_true rfl

theorem cmdFabricReset_touches (s : State) : ∃ t, execCmdFabricReset s = .next t ∧ Parts (· ∈ touches (.cmdFabricReset)) s
    t := by
  apply execCmdFabricReset_parts (parts_refl s) <;> exact of_decide_eq_true rfl

theorem commandReceive_touches (s : State) (d : Nat) (m : WatchMsg) : ∃ t, execCommandReceive d m s = .next t ∧ Parts (· ∈
    touches (.commandReceive d m)) s t := by
  apply execCommandReceive_parts (parts_refl s) d m <;> exact of_decide_eq_true rfl

theorem commandTakeEffect_touches (s : State) : ∃ t, execCommandTakeEffect s = .next t ∧ Parts (· ∈ touches
    (.commandTakeEffect)) s t := by
  apply execCommandTakeEffect_parts (parts_refl s) <;> exact of_decide_eq_true rfl

theorem join_touches (s : State) (v : Nat) : ∃ t, execJoin v s = .next t ∧ Parts (· ∈ touches (.join v)) s t := by
  apply execJoin_parts (parts_refl s) v <;> exact of_decide_eq_true rfl

theorem joinAdopt_touches (s : State) (d : Nat) (m : Marker) : ∃ t, execJoinAdopt d m s = .next t ∧ Parts (· ∈ touches
    (.joinAdopt d m)) s t := by
  apply execJoinAdopt_parts (parts_refl s) d m <;> exact of_decide_eq_true rfl

theorem watchPartnerWrite_touches (s : State) (v : Nat) : ∃ t, execWatchPartnerWrite v s = .next t ∧ Parts (· ∈ touches
    (.watchPartnerWrite v)) s t := by
  apply execWatchPartnerWrite_parts (parts_refl s) v <;> exact of_decide_eq_true rfl

theorem pairCheck_touches (s : State) (answer : Option Nat) : ∃ t, execPairCheck answer s = .next t ∧ Parts (· ∈ touches
    (.pairCheck answer)) s t := by
  apply execPairCheck_parts (parts_refl s) answer <;> exact of_decide_eq_true rfl

theorem flightStepLoRead_touches (s : State) : ∃ t, execFlightStepLoRead s = .next t ∧ Parts (· ∈ touches
    (.flightStepLoRead)) s t := by
  apply execFlightStepLoRead_parts (parts_refl s) <;> exact of_decide_eq_true rfl

theorem declStepLoRead_touches (s : State) : ∃ t, execDeclStepLoRead s = .next t ∧ Parts (· ∈ touches (.declStepLoRead)) s
    t := by
  apply execDeclStepLoRead_parts (parts_refl s) <;> exact of_decide_eq_true rfl

theorem arpRequest_touches (s : State) (frame : List Byte) : ∃ t, execArpRequest frame s = .next t ∧ Parts (· ∈ touches
    (.arpRequest frame)) s t := by
  apply execArpRequest_parts (parts_refl s) frame <;> exact of_decide_eq_true rfl

theorem neighborSolicitation_touches (s : State) (frame : List Byte) : ∃ t, execNeighborSolicitation frame s = .next t ∧
    Parts (· ∈ touches (.neighborSolicitation frame)) s t := by
  apply execNeighborSolicitation_parts (parts_refl s) frame <;> exact of_decide_eq_true rfl

theorem moraecaReceive_touches (s : State) (src : NetSrc) (bytes : List Byte) : ∃ t, execMoraecaReceive src bytes s =
    .next t ∧ Parts (· ∈ touches (.moraecaReceive src bytes)) s t := by
  apply execMoraecaReceive_parts (parts_refl s) src bytes <;> exact of_decide_eq_true rfl

theorem openSession_touches (s : State) (sess : Nat) : ∃ t, execOpenSession sess s = .next t ∧ Parts (· ∈ touches
    (.openSession sess)) s t := by
  apply execOpenSession_parts (parts_refl s) sess <;> exact of_decide_eq_true rfl

theorem closeSession_touches (s : State) (sess : Nat) : ∃ t, execCloseSession sess s = .next t ∧ Parts (· ∈ touches
    (.closeSession sess)) s t := by
  apply execCloseSession_parts (parts_refl s) sess <;> exact of_decide_eq_true rfl

theorem regRd_touches (s : State) (sess : Nat) : ∃ t, execRegRd sess s = .next t ∧ Parts (· ∈ touches (.regRd sess)) s t
    := by
  apply execRegRd_parts (parts_refl s) sess <;> exact of_decide_eq_true rfl

theorem regWr_touches (s : State) (sess : Nat) : ∃ t, execRegWr sess s = .next t ∧ Parts (· ∈ touches (.regWr sess)) s t
    := by
  apply execRegWr_parts (parts_refl s) sess <;> exact of_decide_eq_true rfl

theorem moraecaBulkRd_touches (s : State) (sess : Nat) : ∃ t, execMoraecaBulkRd sess s = .next t ∧ Parts (· ∈ touches
    (.moraecaBulkRd sess)) s t := by
  apply execMoraecaBulkRd_parts (parts_refl s) sess <;> exact of_decide_eq_true rfl

theorem moraecaBulkWr_touches (s : State) (sess : Nat) : ∃ t, execMoraecaBulkWr sess s = .next t ∧ Parts (· ∈ touches
    (.moraecaBulkWr sess)) s t := by
  apply execMoraecaBulkWr_parts (parts_refl s) sess <;> exact of_decide_eq_true rfl

theorem streamOpen_touches (s : State) (sess : Nat) : ∃ t, execStreamOpen sess s = .next t ∧ Parts (· ∈ touches
    (.streamOpen sess)) s t := by
  apply execStreamOpen_parts (parts_refl s) sess <;> exact of_decide_eq_true rfl

theorem streamData_touches (s : State) (i : Nat) (src : NetSrc) (bytes : List Byte) : ∃ t, execStreamData i src bytes s =
    .next t ∧ Parts (· ∈ touches (.streamData i src bytes)) s t := by
  apply execStreamData_parts (parts_refl s) i src bytes <;> exact of_decide_eq_true rfl

theorem streamAck_touches (s : State) (i : Nat) (ack : AckFrom) : ∃ t, execStreamAck i ack s = .next t ∧ Parts (· ∈
    touches (.streamAck i ack)) s t := by
  apply execStreamAck_parts (parts_refl s) i ack <;> exact of_decide_eq_true rfl

theorem streamRto_touches (s : State) (i : Nat) : ∃ t, execStreamRto i s = .next t ∧ Parts (· ∈ touches (.streamRto i)) s
    t := by
  apply execStreamRto_parts (parts_refl s) i <;> exact of_decide_eq_true rfl

theorem streamReadReply_touches (s : State) (i : Nat) (f : Flit) : ∃ t, execStreamReadReply i f s = .next t ∧ Parts (· ∈
    touches (.streamReadReply i f)) s t := by
  apply execStreamReadReply_parts (parts_refl s) i f <;> exact of_decide_eq_true rfl

theorem eventAck_touches (s : State) (src : NetSrc) (seq : Nat) : ∃ t, execEventAck src seq s = .next t ∧ Parts (· ∈
    touches (.eventAck src seq)) s t := by
  apply execEventAck_parts (parts_refl s) src seq <;> exact of_decide_eq_true rfl

theorem evtRto_touches (s : State) : ∃ t, execEvtRto s = .next t ∧ Parts (· ∈ touches (.evtRto)) s t := by
  apply execEvtRto_parts (parts_refl s) <;> exact of_decide_eq_true rfl

theorem evtEnWrite_touches (s : State) (v : Nat) : ∃ t, execEvtEnWrite v s = .next t ∧ Parts (· ∈ touches (.evtEnWrite v))
    s t := by
  apply execEvtEnWrite_parts (parts_refl s) v <;> exact of_decide_eq_true rfl

theorem sessionTimeout_touches (s : State) (sess : Nat) : ∃ t, execSessionTimeout sess s = .next t ∧ Parts (· ∈ touches
    (.sessionTimeout sess)) s t := by
  apply execSessionTimeout_parts (parts_refl s) sess <;> exact of_decide_eq_true rfl

theorem holdTimeout_touches (s : State) (sess : Nat) (seq : Nat) : ∃ t, execHoldTimeout sess seq s = .next t ∧ Parts (· ∈
    touches (.holdTimeout sess seq)) s t := by
  apply execHoldTimeout_parts (parts_refl s) sess seq <;> exact of_decide_eq_true rfl

theorem cwNop_touches (s : State) (w : Nat) : ∃ t, execCwNop w s = .next t ∧ Parts (· ∈ touches (.cwNop w)) s t := by
  apply execCwNop_parts (parts_refl s) w <;> exact of_decide_eq_true rfl

theorem cwRegWr_touches (s : State) (w : Nat) : ∃ t, execCwRegWr w s = .next t ∧ Parts (· ∈ touches (.cwRegWr w)) s t := by
  apply execCwRegWr_parts (parts_refl s) w <;> exact of_decide_eq_true rfl

theorem cwMove_touches (s : State) (w : Nat) : ∃ t, execCwMove w s = .next t ∧ Parts (· ∈ touches (.cwMove w)) s t := by
  apply execCwMove_parts (parts_refl s) w <;> exact of_decide_eq_true rfl

theorem cwPlanLoad_touches (s : State) (w : Nat) : ∃ t, execCwPlanLoad w s = .next t ∧ Parts (· ∈ touches (.cwPlanLoad w))
    s t := by
  apply execCwPlanLoad_parts (parts_refl s) w <;> exact of_decide_eq_true rfl

theorem cwPlanSwitch_touches (s : State) (w : Nat) : ∃ t, execCwPlanSwitch w s = .next t ∧ Parts (· ∈ touches
    (.cwPlanSwitch w)) s t := by
  apply execCwPlanSwitch_parts (parts_refl s) w <;> exact of_decide_eq_true rfl

theorem cwRecordComplete_touches (s : State) (w : Nat) : ∃ t, execCwRecordComplete w s = .next t ∧ Parts (· ∈ touches
    (.cwRecordComplete w)) s t := by
  apply execCwRecordComplete_parts (parts_refl s) w <;> exact of_decide_eq_true rfl

theorem registerWrite_touches (s : State) (addr : Nat) (v : Nat) : ∃ t, execRegisterWrite addr v s = .next t ∧ Parts (· ∈
    touches (.registerWrite addr v)) s t := by
  apply execRegisterWrite_parts (parts_refl s) addr v <;> exact of_decide_eq_true rfl

theorem pgErrWrite_touches (s : State) (p : PageId) (v : Nat) : ∃ t, execPgErrWrite p v s = .next t ∧ Parts (· ∈ touches
    (.pgErrWrite p v)) s t := by
  apply execPgErrWrite_parts (parts_refl s) p v <;> exact of_decide_eq_true rfl

theorem softRst_touches (s : State) (p : PageId) : ∃ t, execSoftRst p s = .next t ∧ Parts (· ∈ touches (.softRst p)) s t
    := by
  apply execSoftRst_parts (parts_refl s) p <;> exact of_decide_eq_true rfl

theorem freeze_touches (s : State) (p : PageId) (on : Bool) : ∃ t, execFreeze p on s = .next t ∧ Parts (· ∈ touches
    (.freeze p on)) s t := by
  apply execFreeze_parts (parts_refl s) p on <;> exact of_decide_eq_true rfl

theorem lock_touches (s : State) (p : PageId) : ∃ t, execLock p s = .next t ∧ Parts (· ∈ touches (.lock p)) s t := by
  apply execLock_parts (parts_refl s) p <;> exact of_decide_eq_true rfl

theorem feedBad_touches (s : State) (feed : Nat) : ∃ t, execFeedBad feed s = .next t ∧ Parts (· ∈ touches (.feedBad feed))
    s t := by
  apply execFeedBad_parts (parts_refl s) feed <;> exact of_decide_eq_true rfl

theorem feedSenseOpen_touches (s : State) (feed : Nat) : ∃ t, execFeedSenseOpen feed s = .next t ∧ Parts (· ∈ touches
    (.feedSenseOpen feed)) s t := by
  apply execFeedSenseOpen_parts (parts_refl s) feed <;> exact of_decide_eq_true rfl

theorem feedGood_touches (s : State) (feed : Nat) : ∃ t, execFeedGood feed s = .next t ∧ Parts (· ∈ touches (.feedGood
    feed)) s t := by
  apply execFeedGood_parts (parts_refl s) feed <;> exact of_decide_eq_true rfl

theorem feedReturn_touches (s : State) : ∃ t, execFeedReturn s = .next t ∧ Parts (· ∈ touches (.feedReturn)) s t := by
  apply execFeedReturn_parts (parts_refl s) <;> exact of_decide_eq_true rfl

theorem holdupExpiry_touches (s : State) : ∃ t, execHoldupExpiry s = .next t ∧ Parts (· ∈ touches (.holdupExpiry)) s t := by
  apply execHoldupExpiry_parts (parts_refl s) <;> exact of_decide_eq_true rfl

theorem coolantConfirm_touches (s : State) : ∃ t, execCoolantConfirm s = .next t ∧ Parts (· ∈ touches (.coolantConfirm)) s
    t := by
  apply execCoolantConfirm_parts (parts_refl s) <;> exact of_decide_eq_true rfl

theorem coolOkChange_touches (s : State) (flow : Nat) (inlet : Nat) : ∃ t, execCoolOkChange flow inlet s = .next t ∧ Parts
    (· ∈ touches (.coolOkChange flow inlet)) s t := by
  apply execCoolOkChange_parts (parts_refl s) flow inlet <;> exact of_decide_eq_true rfl

theorem tripPeakPower_touches (s : State) : ∃ t, execTripPeakPower s = .next t ∧ Parts (· ∈ touches (.tripPeakPower)) s t
    := by
  apply execTripPeakPower_parts (parts_refl s) <;> exact of_decide_eq_true rfl

theorem tripSustainedPower_touches (s : State) : ∃ t, execTripSustainedPower s = .next t ∧ Parts (· ∈ touches
    (.tripSustainedPower)) s t := by
  apply execTripSustainedPower_parts (parts_refl s) <;> exact of_decide_eq_true rfl

theorem tripTemperature_touches (s : State) (sensor : Nat) (t0 : Nat) (t1 : Nat) : ∃ t, execTripTemperature sensor t0 t1 s
    = .next t ∧ Parts (· ∈ touches (.tripTemperature sensor t0 t1)) s t := by
  apply execTripTemperature_parts (parts_refl s) sensor t0 t1 <;> exact of_decide_eq_true rfl

theorem tripFlow_touches (s : State) (flow : Nat) : ∃ t, execTripFlow flow s = .next t ∧ Parts (· ∈ touches (.tripFlow
    flow)) s t := by
  apply execTripFlow_parts (parts_refl s) flow <;> exact of_decide_eq_true rfl

theorem tripInlet_touches (s : State) (inlet : Nat) : ∃ t, execTripInlet inlet s = .next t ∧ Parts (· ∈ touches
    (.tripInlet inlet)) s t := by
  apply execTripInlet_parts (parts_refl s) inlet <;> exact of_decide_eq_true rfl

theorem enterP3_touches (s : State) (key : Nat) : ∃ t, execEnterP3 key s = .next t ∧ Parts (· ∈ touches (.enterP3 key)) s
    t := by
  apply execEnterP3_parts (parts_refl s) key <;> exact of_decide_eq_true rfl

theorem leaveP3_touches (s : State) (key : Nat) : ∃ t, execLeaveP3 key s = .next t ∧ Parts (· ∈ touches (.leaveP3 key)) s
    t := by
  apply execLeaveP3_parts (parts_refl s) key <;> exact of_decide_eq_true rfl

theorem enterP4_touches (s : State) (key : Nat) : ∃ t, execEnterP4 key s = .next t ∧ Parts (· ∈ touches (.enterP4 key)) s
    t := by
  apply execEnterP4_parts (parts_refl s) key <;> exact of_decide_eq_true rfl

theorem moduleReset_touches (s : State) (key : Nat) : ∃ t, execModuleReset key s = .next t ∧ Parts (· ∈ touches
    (.moduleReset key)) s t := by
  apply execModuleReset_parts (parts_refl s) key <;> exact of_decide_eq_true rfl

theorem resetNAssert_touches (s : State) : ∃ t, execResetNAssert s = .next t ∧ Parts (· ∈ touches (.resetNAssert)) s t := by
  apply execResetNAssert_parts (parts_refl s) <;> exact of_decide_eq_true rfl

theorem resetNRelease_touches (s : State) (progEnN : Bool) : ∃ t, execResetNRelease progEnN s = .next t ∧ Parts (· ∈
    touches (.resetNRelease progEnN)) s t := by
  apply execResetNRelease_parts (parts_refl s) progEnN <;> exact of_decide_eq_true rfl

theorem wakeN_touches (s : State) : ∃ t, execWakeN s = .next t ∧ Parts (· ∈ touches (.wakeN)) s t := by
  apply execWakeN_parts (parts_refl s) <;> exact of_decide_eq_true rfl

theorem shdnN_touches (s : State) (low : Bool) : ∃ t, execShdnN low s = .next t ∧ Parts (· ∈ touches (.shdnN low)) s t := by
  apply execShdnN_parts (parts_refl s) low <;> exact of_decide_eq_true rfl

theorem powerRestored_touches (s : State) : ∃ t, execPowerRestored s = .next t ∧ Parts (· ∈ touches (.powerRestored)) s t
    := by
  apply execPowerRestored_parts (parts_refl s) <;> exact of_decide_eq_true rfl

theorem domainWake_touches (s : State) (dom : Nat) : ∃ t, execDomainWake dom s = .next t ∧ Parts (· ∈ touches (.domainWake
    dom)) s t := by
  apply execDomainWake_parts (parts_refl s) dom <;> exact of_decide_eq_true rfl

theorem bootPhaseComplete_touches (s : State) (r : BootResult) : ∃ t, execBootPhaseComplete r s = .next t ∧ Parts (· ∈
    touches (.bootPhaseComplete r)) s t := by
  apply execBootPhaseComplete_parts (parts_refl s) r <;> exact of_decide_eq_true rfl

theorem bootPhaseTimeout_touches (s : State) (code : Nat) : ∃ t, execBootPhaseTimeout code s = .next t ∧ Parts (· ∈
    touches (.bootPhaseTimeout code)) s t := by
  apply execBootPhaseTimeout_parts (parts_refl s) code <;> exact of_decide_eq_true rfl

theorem calSave_touches (s : State) : ∃ t, execCalSave s = .next t ∧ Parts (· ∈ touches (.calSave)) s t := by
  apply execCalSave_parts (parts_refl s) <;> exact of_decide_eq_true rfl

theorem bpSave_touches (s : State) : ∃ t, execBpSave s = .next t ∧ Parts (· ∈ touches (.bpSave)) s t := by
  apply execBpSave_parts (parts_refl s) <;> exact of_decide_eq_true rfl

theorem bpLoad_touches (s : State) : ∃ t, execBpLoad s = .next t ∧ Parts (· ∈ touches (.bpLoad)) s t := by
  apply execBpLoad_parts (parts_refl s) <;> exact of_decide_eq_true rfl

theorem updGo_touches (s : State) (key : Nat) : ∃ t, execUpdGo key s = .next t ∧ Parts (· ∈ touches (.updGo key)) s t := by
  apply execUpdGo_parts (parts_refl s) key <;> exact of_decide_eq_true rfl

theorem updateComplete_touches (s : State) : ∃ t, execUpdateComplete s = .next t ∧ Parts (· ∈ touches (.updateComplete)) s
    t := by
  apply execUpdateComplete_parts (parts_refl s) <;> exact of_decide_eq_true rfl

theorem fwCommit_touches (s : State) (key : Nat) : ∃ t, execFwCommit key s = .next t ∧ Parts (· ∈ touches (.fwCommit key))
    s t := by
  apply execFwCommit_parts (parts_refl s) key <;> exact of_decide_eq_true rfl

theorem fkeyRevoke_touches (s : State) (mask : Nat) (key : Nat) : ∃ t, execFkeyRevoke mask key s = .next t ∧ Parts (· ∈
    touches (.fkeyRevoke mask key)) s t := by
  apply execFkeyRevoke_parts (parts_refl s) mask key <;> exact of_decide_eq_true rfl

theorem enroll_touches (s : State) : ∃ t, execEnroll s = .next t ∧ Parts (· ∈ touches (.enroll)) s t := by
  apply execEnroll_parts (parts_refl s) <;> exact of_decide_eq_true rfl

theorem revoke_touches (s : State) : ∃ t, execRevoke s = .next t ∧ Parts (· ∈ touches (.revoke)) s t := by
  apply execRevoke_parts (parts_refl s) <;> exact of_decide_eq_true rfl

theorem keySave_touches (s : State) : ∃ t, execKeySave s = .next t ∧ Parts (· ∈ touches (.keySave)) s t := by
  apply execKeySave_parts (parts_refl s) <;> exact of_decide_eq_true rfl

theorem testReq_touches (s : State) : ∃ t, execTestReq s = .next t ∧ Parts (· ∈ touches (.testReq)) s t := by
  apply execTestReq_parts (parts_refl s) <;> exact of_decide_eq_true rfl

theorem dbgReq_touches (s : State) : ∃ t, execDbgReq s = .next t ∧ Parts (· ∈ touches (.dbgReq)) s t := by
  apply execDbgReq_parts (parts_refl s) <;> exact of_decide_eq_true rfl

theorem attGo_touches (s : State) : ∃ t, execAttGo s = .next t ∧ Parts (· ∈ touches (.attGo)) s t := by
  apply execAttGo_parts (parts_refl s) <;> exact of_decide_eq_true rfl

theorem attReportReady_touches (s : State) : ∃ t, execAttReportReady s = .next t ∧ Parts (· ∈ touches (.attReportReady)) s
    t := by
  apply execAttReportReady_parts (parts_refl s) <;> exact of_decide_eq_true rfl

theorem attDataRead_touches (s : State) : ∃ t, execAttDataRead s = .next t ∧ Parts (· ∈ touches (.attDataRead)) s t := by
  apply execAttDataRead_parts (parts_refl s) <;> exact of_decide_eq_true rfl

theorem vaneReading_touches (s : State) (mainMj : Nat) (backupMj : Nat) (pMain : Nat) (pBackup : Nat) (fault : Bool) : ∃
    t, execVaneReading mainMj backupMj pMain pBackup fault s = .next t ∧ Parts (· ∈ touches (.vaneReading mainMj backupMj
    pMain pBackup fault)) s t := by
  apply execVaneReading_parts (parts_refl s) mainMj backupMj pMain pBackup fault <;> exact of_decide_eq_true rfl

theorem vaneCommit_touches (s : State) : ∃ t, execVaneCommit s = .next t ∧ Parts (· ∈ touches (.vaneCommit)) s t := by
  apply execVaneCommit_parts (parts_refl s) <;> exact of_decide_eq_true rfl

theorem tamperBreak_touches (s : State) : ∃ t, execTamperBreak s = .next t ∧ Parts (· ∈ touches (.tamperBreak)) s t := by
  apply execTamperBreak_parts (parts_refl s) <;> exact of_decide_eq_true rfl

theorem vaneMirror_touches (s : State) (bytes : List Byte) : ∃ t, execVaneMirror bytes s = .next t ∧ Parts (· ∈ touches
    (.vaneMirror bytes)) s t := by
  apply execVaneMirror_parts (parts_refl s) bytes <;> exact of_decide_eq_true rfl

theorem vaneStale_touches (s : State) : ∃ t, execVaneStale s = .next t ∧ Parts (· ∈ touches (.vaneStale)) s t := by
  apply execVaneStale_parts (parts_refl s) <;> exact of_decide_eq_true rfl

theorem vmSeqLoRead_touches (s : State) : ∃ t, execVmSeqLoRead s = .next t ∧ Parts (· ∈ touches (.vmSeqLoRead)) s t := by
  apply execVmSeqLoRead_parts (parts_refl s) <;> exact of_decide_eq_true rfl

theorem vmSigDataRead_touches (s : State) : ∃ t, execVmSigDataRead s = .next t ∧ Parts (· ∈ touches (.vmSigDataRead)) s t
    := by
  apply execVmSigDataRead_parts (parts_refl s) <;> exact of_decide_eq_true rfl

theorem p3EntryComplete_touches (s : State) : ∃ t, execP3EntryComplete s = .next t ∧ Parts (· ∈ touches
    (.p3EntryComplete)) s t := by
  apply execP3EntryComplete_parts (parts_refl s) <;> exact of_decide_eq_true rfl

theorem p3ExitComplete_touches (s : State) : ∃ t, execP3ExitComplete s = .next t ∧ Parts (· ∈ touches (.p3ExitComplete)) s
    t := by
  apply execP3ExitComplete_parts (parts_refl s) <;> exact of_decide_eq_true rfl

theorem calSaveComplete_touches (s : State) : ∃ t, execCalSaveComplete s = .next t ∧ Parts (· ∈ touches
    (.calSaveComplete)) s t := by
  apply execCalSaveComplete_parts (parts_refl s) <;> exact of_decide_eq_true rfl

theorem bpSaveComplete_touches (s : State) : ∃ t, execBpSaveComplete s = .next t ∧ Parts (· ∈ touches (.bpSaveComplete)) s
    t := by
  apply execBpSaveComplete_parts (parts_refl s) <;> exact of_decide_eq_true rfl

/-- Every command touches only the parts of its row. -/
theorem exec_parts (c : Instr) (s : State) : ∃ t, exec c s = .next t ∧ Parts (· ∈ touches c) s t := by
  cases c with
  | tickBoundary => exact tickBoundary_touches s
  | periodAtWrite v => exact periodAtWrite_touches s v
  | nowLoRead => exact nowLoRead_touches s
  | stepLoRead => exact stepLoRead_touches s
  | markerReceive link m => exact markerReceive_touches s link m
  | trimSaturated => exact trimSaturated_touches s
  | scheduledFlitReceive link f => exact scheduledFlitReceive_touches s link f
  | flitConsume link sid o => exact flitConsume_touches s link sid o
  | skipNotice d target origin reason => exact skipNotice_touches s d target origin reason
  | throttleEvaluation temps power cup => exact throttleEvaluation_touches s temps power cup
  | skipNoticeIssue => exact skipNoticeIssue_touches s
  | skipReq v => exact skipReq_touches s v
  | thrEnClear v => exact thrEnClear_touches s v
  | linkSignalDetect link => exact linkSignalDetect_touches s link
  | eqConverge link => exact eqConverge_touches s link
  | lockAchieved link => exact lockAchieved_touches s link
  | latencyProbe link stamp hold => exact latencyProbe_touches s link stamp hold
  | probeEcho link echo hold => exact probeEcho_touches s link echo hold
  | identity link ident dir => exact identity_touches s link ident dir
  | creditGrant link credits => exact creditGrant_touches s link credits
  | trainStateTimeout link => exact trainStateTimeout_touches s link
  | lockLoss link => exact lockLoss_touches s link
  | retrain link => exact retrain_touches s link
  | linkEnWrite link en => exact linkEnWrite_touches s link en
  | lineBlockReceive link data parity => exact lineBlockReceive_touches s link data parity
  | nakReceive link seq => exact nakReceive_touches s link seq
  | ackTimeout link seq => exact ackTimeout_touches s link seq
  | d2dRetry link dir k acked => exact d2dRetry_touches s link dir k acked
  | credTo n vc => exact credTo_touches s n vc
  | openRequestInject src f => exact openRequestInject_touches s src f
  | ingressSwitch link vc => exact ingressSwitch_touches s link vc
  | reservationTimeout src tag => exact reservationTimeout_touches s src tag
  | replyReceive src f => exact replyReceive_touches s src f
  | flitAged keep out vc => exact flitAged_touches s keep out vc
  | tblDataWrite keep v => exact tblDataWrite_touches s keep v
  | flipAtWrite keep v => exact flipAtWrite_touches s keep v
  | routeFlip d tick sum origin => exact routeFlip_touches s d tick sum origin
  | drainDeadline => exact drainDeadline_touches s
  | load bank => exact load_touches s bank
  | planLoadDone => exact planLoadDone_touches s
  | switchAtWrite v => exact switchAtWrite_touches s v
  | disarm hi => exact disarm_touches s hi
  | egressAdmit keep out vc src => exact egressAdmit_touches s keep out vc src
  | egressSend keep out => exact egressSend_touches s keep out
  | spillWrite keep out vc => exact spillWrite_touches s keep out vc
  | spillReadback keep out vc ecc => exact spillReadback_touches s keep out vc ecc
  | ovfConfigWrite keep v => exact ovfConfigWrite_touches s keep v
  | hostFrameReceive bytes => exact hostFrameReceive_touches s bytes
  | hostIngressForward p => exact hostIngressForward_touches s p
  | pfcRepeat p => exact pfcRepeat_touches s p
  | pfcXon p => exact pfcXon_touches s p
  | pfcFrameReceive enable quanta => exact pfcFrameReceive_touches s enable quanta
  | pauseExpiry p => exact pauseExpiry_touches s p
  | ethFrameReassembled vc => exact ethFrameReassembled_touches s vc
  | hostFrameStart => exact hostFrameStart_touches s
  | hostLinkUp => exact hostLinkUp_touches s
  | hostLinkDown => exact hostLinkDown_touches s
  | clipClr u => exact clipClr_touches s u
  | ceReduce ce slot => exact ceReduce_touches s ce slot
  | ceAllReduce ce slot => exact ceAllReduce_touches s ce slot
  | ceReduceScatter ce slot => exact ceReduceScatter_touches s ce slot
  | ceAllGather ce slot => exact ceAllGather_touches s ce slot
  | ceBroadcast ce slot => exact ceBroadcast_touches s ce slot
  | ceAllToAll ce slot => exact ceAllToAll_touches s ce slot
  | ceGatherIdx ce slot => exact ceGatherIdx_touches s ce slot
  | ceScatterIdx ce slot => exact ceScatterIdx_touches s ce slot
  | ceSortMerge ce slot => exact ceSortMerge_touches s ce slot
  | ceTopkMerge ce slot => exact ceTopkMerge_touches s ce slot
  | ceScan ce slot => exact ceScan_touches s ce slot
  | ceAttnCombine ce slot => exact ceAttnCombine_touches s ce slot
  | cePartialFold ce slot rank => exact cePartialFold_touches s ce slot rank
  | atomAdd f => exact atomAdd_touches s f
  | atomAddFetch f => exact atomAddFetch_touches s f
  | atomIdleWriteback line => exact atomIdleWriteback_touches s line
  | atomFlush c => exact atomFlush_touches s c
  | atomWinWrite c v => exact atomWinWrite_touches s c v
  | codecEncode c slot => exact codecEncode_touches s c slot
  | codecStore c slot => exact codecStore_touches s c slot
  | codecPack24 c slot => exact codecPack24_touches s c slot
  | codecExpand c slot => exact codecExpand_touches s c slot
  | codedSliceReceive c sid => exact codedSliceReceive_touches s c sid
  | billinCopy g i => exact billinCopy_touches s g i
  | fill g i => exact fill_touches s g i
  | gather g i => exact gather_touches s g i
  | scatter g i => exact scatter_touches s g i
  | billinMma g i => exact billinMma_touches s g i
  | add g i => exact add_touches s g i
  | sub g i => exact sub_touches s g i
  | mul g i => exact mul_touches s g i
  | fma g i => exact fma_touches s g i
  | max g i => exact max_touches s g i
  | min g i => exact min_touches s g i
  | div g i => exact div_touches s g i
  | sqrt g i => exact sqrt_touches s g i
  | exp2 g i => exact exp2_touches s g i
  | sign g i => exact sign_touches s g i
  | abs g i => exact abs_touches s g i
  | rsum g i => exact rsum_touches s g i
  | rmax g i => exact rmax_touches s g i
  | rmin g i => exact rmin_touches s g i
  | fenceAcq g i => exact fenceAcq_touches s g i
  | fenceRel g i => exact fenceRel_touches s g i
  | fenceFull g i => exact fenceFull_touches s g i
  | flagSet g i => exact flagSet_touches s g i
  | flagWait g i => exact flagWait_touches s g i
  | flagWaitv g i => exact flagWaitv_touches s g i
  | flagWaitDone g q => exact flagWaitDone_touches s g q
  | tickBodyComplete g => exact tickBodyComplete_touches s g
  | tileStoreAccess g => exact tileStoreAccess_touches s g
  | prefetchComplete g => exact prefetchComplete_touches s g
  | imemWdataWrite g lantern v => exact imemWdataWrite_touches s g lantern v
  | sort g i => exact sort_touches s g i
  | topk g i => exact topk_touches s g i
  | softmax g i => exact softmax_touches s g i
  | attnPartial g i => exact attnPartial_touches s g i
  | attnMerge g i => exact attnMerge_touches s g i
  | libScan g i => exact libScan_touches s g i
  | histogram g i => exact histogram_touches s g i
  | filter g i => exact filter_touches s g i
  | ueNorm c slot => exact ueNorm_touches s c slot
  | ueFold c slot => exact ueFold_touches s c slot
  | ueApply c slot => exact ueApply_touches s c slot
  | ueStage c slot => exact ueStage_touches s c slot
  | ueCommit c slot => exact ueCommit_touches s c slot
  | ueStepLoRead c => exact ueStepLoRead_touches s c
  | chkGo c unit => exact chkGo_touches s c unit
  | chkDone c => exact chkDone_touches s c
  | memRd f => exact memRd_touches s f
  | memWr f => exact memWr_touches s f
  | bulkRd f => exact bulkRd_touches s f
  | bulkWr f => exact bulkWr_touches s f
  | hbmWakeWait st => exact hbmWakeWait_touches s st
  | fstCommit => exact fstCommit_touches s
  | fstRead => exact fstRead_touches s
  | sysGibWrite st v => exact sysGibWrite_touches s st v
  | refreshRound st => exact refreshRound_touches s st
  | stackMoverOut st slot => exact stackMoverOut_touches s st slot
  | stackMoverIn st slot => exact stackMoverIn_touches s st slot
  | stackMoverCopy st slot => exact stackMoverCopy_touches s st slot
  | moverCopy k => exact moverCopy_touches s k
  | moverConvert k => exact moverConvert_touches s k
  | moverReply k f => exact moverReply_touches s k f
  | moverDrainDone k => exact moverDrainDone_touches s k
  | mvResume k => exact mvResume_touches s k
  | mvAbort k => exact mvAbort_touches s k
  | correctedWriteback line => exact correctedWriteback_touches s line
  | tripRewrite key => exact tripRewrite_touches s key
  | tripEnWrite v => exact tripEnWrite_touches s v
  | mergeWriteback line => exact mergeWriteback_touches s line
  | mergeEntryWait st => exact mergeEntryWait_touches s st
  | patrolRead line => exact patrolRead_touches s line
  | scrubGo => exact scrubGo_touches s
  | scrubAbort => exact scrubAbort_touches s
  | scrubGranule => exact scrubGranule_touches s
  | spotCheckComplete c got => exact spotCheckComplete_touches s c got
  | marginEvaluation droop canary rx => exact marginEvaluation_touches s droop canary rx
  | neighbourSilent d => exact neighbourSilent_touches s d
  | watchReport d m => exact watchReport_touches s d m
  | roundDecision => exact roundDecision_touches s
  | digestReceive d cut digest => exact digestReceive_touches s d cut digest
  | switchTick => exact switchTick_touches s
  | autoResume => exact autoResume_touches s
  | rbGo v => exact rbGo_touches s v
  | restoreCopyDone ok => exact restoreCopyDone_touches s ok
  | restoreCheckDone srcSum srcNorm => exact restoreCheckDone_touches s srcSum srcNorm
  | cmdResume => exact cmdResume_touches s
  | cmdAbort => exact cmdAbort_touches s
  | cmdFabricReset => exact cmdFabricReset_touches s
  | commandReceive d m => exact commandReceive_touches s d m
  | commandTakeEffect => exact commandTakeEffect_touches s
  | join v => exact join_touches s v
  | joinAdopt d m => exact joinAdopt_touches s d m
  | watchPartnerWrite v => exact watchPartnerWrite_touches s v
  | pairCheck answer => exact pairCheck_touches s answer
  | flightStepLoRead => exact flightStepLoRead_touches s
  | declStepLoRead => exact declStepLoRead_touches s
  | arpRequest frame => exact arpRequest_touches s frame
  | neighborSolicitation frame => exact neighborSolicitation_touches s frame
  | moraecaReceive src bytes => exact moraecaReceive_touches s src bytes
  | openSession sess => exact openSession_touches s sess
  | closeSession sess => exact closeSession_touches s sess
  | regRd sess => exact regRd_touches s sess
  | regWr sess => exact regWr_touches s sess
  | moraecaBulkRd sess => exact moraecaBulkRd_touches s sess
  | moraecaBulkWr sess => exact moraecaBulkWr_touches s sess
  | streamOpen sess => exact streamOpen_touches s sess
  | streamData i src bytes => exact streamData_touches s i src bytes
  | streamAck i ack => exact streamAck_touches s i ack
  | streamRto i => exact streamRto_touches s i
  | streamReadReply i f => exact streamReadReply_touches s i f
  | eventAck src seq => exact eventAck_touches s src seq
  | evtRto => exact evtRto_touches s
  | evtEnWrite v => exact evtEnWrite_touches s v
  | sessionTimeout sess => exact sessionTimeout_touches s sess
  | holdTimeout sess seq => exact holdTimeout_touches s sess seq
  | cwNop w => exact cwNop_touches s w
  | cwRegWr w => exact cwRegWr_touches s w
  | cwMove w => exact cwMove_touches s w
  | cwPlanLoad w => exact cwPlanLoad_touches s w
  | cwPlanSwitch w => exact cwPlanSwitch_touches s w
  | cwRecordComplete w => exact cwRecordComplete_touches s w
  | registerWrite addr v => exact registerWrite_touches s addr v
  | pgErrWrite p v => exact pgErrWrite_touches s p v
  | softRst p => exact softRst_touches s p
  | freeze p on => exact freeze_touches s p on
  | lock p => exact lock_touches s p
  | feedBad feed => exact feedBad_touches s feed
  | feedSenseOpen feed => exact feedSenseOpen_touches s feed
  | feedGood feed => exact feedGood_touches s feed
  | feedReturn => exact feedReturn_touches s
  | holdupExpiry => exact holdupExpiry_touches s
  | coolantConfirm => exact coolantConfirm_touches s
  | coolOkChange flow inlet => exact coolOkChange_touches s flow inlet
  | tripPeakPower => exact tripPeakPower_touches s
  | tripSustainedPower => exact tripSustainedPower_touches s
  | tripTemperature sensor t0 t1 => exact tripTemperature_touches s sensor t0 t1
  | tripFlow flow => exact tripFlow_touches s flow
  | tripInlet inlet => exact tripInlet_touches s inlet
  | enterP3 key => exact enterP3_touches s key
  | leaveP3 key => exact leaveP3_touches s key
  | enterP4 key => exact enterP4_touches s key
  | moduleReset key => exact moduleReset_touches s key
  | resetNAssert => exact resetNAssert_touches s
  | resetNRelease progEnN => exact resetNRelease_touches s progEnN
  | wakeN => exact wakeN_touches s
  | shdnN low => exact shdnN_touches s low
  | powerRestored => exact powerRestored_touches s
  | domainWake dom => exact domainWake_touches s dom
  | bootPhaseComplete r => exact bootPhaseComplete_touches s r
  | bootPhaseTimeout code => exact bootPhaseTimeout_touches s code
  | calSave => exact calSave_touches s
  | bpSave => exact bpSave_touches s
  | bpLoad => exact bpLoad_touches s
  | updGo key => exact updGo_touches s key
  | updateComplete => exact updateComplete_touches s
  | fwCommit key => exact fwCommit_touches s key
  | fkeyRevoke mask key => exact fkeyRevoke_touches s mask key
  | enroll => exact enroll_touches s
  | revoke => exact revoke_touches s
  | keySave => exact keySave_touches s
  | testReq => exact testReq_touches s
  | dbgReq => exact dbgReq_touches s
  | attGo => exact attGo_touches s
  | attReportReady => exact attReportReady_touches s
  | attDataRead => exact attDataRead_touches s
  | vaneReading mainMj backupMj pMain pBackup fault => exact vaneReading_touches s mainMj backupMj pMain pBackup fault
  | vaneCommit => exact vaneCommit_touches s
  | tamperBreak => exact tamperBreak_touches s
  | vaneMirror bytes => exact vaneMirror_touches s bytes
  | vaneStale => exact vaneStale_touches s
  | vmSeqLoRead => exact vmSeqLoRead_touches s
  | vmSigDataRead => exact vmSigDataRead_touches s
  | p3EntryComplete => exact p3EntryComplete_touches s
  | p3ExitComplete => exact p3ExitComplete_touches s
  | calSaveComplete => exact calSaveComplete_touches s
  | bpSaveComplete => exact bpSaveComplete_touches s

end Sys2Proof.Machine
end

