-- ==== Sys2Proof/Laws/Effects.lean ====
section
/-! SUPPORT. What shared operations do to what can be read of the state: counters, error bits, lines, windows of the Drums. -/

namespace Sys2Proof.Machine

open Sys2Proof

/-! ## Parts and keys -/

/-- A part that may not be touched is the same. -/
theorem Parts.same_of {M : Part → Prop} {z s : State} (h : Parts M z s) {p : Part} (hp : ¬ M p) : p.same z s :=
  (h.all p).resolve_left hp

/-- A key that neither freezes a page nor enables the vote. -/
theorem not_steers_of (p : PageId) (r : Reg) (i : Nat) (q : PageId) (h : (rkey p r i).off ≠ 8)
    (h' : rkey p r i ≠ rkey pgIntegrity Itg.TRIP_EN 0) : ¬ steers (rkey p r i) q := by
  rintro (e | e)
  · rw [e] at h
    exact h rfl
  · exact h' e

/-! ## Counters -/

theorem State.rd_bump_wrap (s : State) (p : PageId) (r : Reg) (n : Nat) (h : rkey p r 0 ≠ rkey p Hdr.HELD_EVT 0)
    (hs : ¬ steers (rkey p r 0) p) (hk : r.kind = .counterWrap) : (s.bump p r n).rd p r 0 = (s.rd p r 0 + n) % 2 ^ r.w := by
  unfold State.bump State.bumpi
  rw [hk]
  exact State.rd_wri_self s p r 0 _ h hs

theorem State.rd_bump_ne (s : State) {p q : PageId} {r x : Reg} {j : Nat} (n : Nat) (h : rkey q x j ≠ rkey p r 0)
    (he : rkey q x j ≠ rkey p Hdr.HELD_EVT 0) (hs : ¬ steers (rkey p r 0) q) : (s.bump p r n).rd q x j = s.rd q x j :=
  State.rd_wri_ne s _ h he hs

theorem errSet_bump (u : State) (p q : PageId) (r : Reg) (n i : Nat) (h : errSet u p i)
    (h1 : rkey p Hdr.PG_ERR 0 ≠ rkey q r 0) (h2 : ¬ steers (rkey q r 0) p) : errSet (u.bump q r n) p i := by
  unfold errSet at *
  rw [State.rd_bump_ne _ _ h1 (by simp [rkey, Hdr.PG_ERR, Hdr.HELD_EVT]) h2]
  exact h

/-! ## Lines -/

theorem State.decoded_of {s t : State} (h : t.arrays = s.arrays) (sp l : Nat) : t.decoded sp l = s.decoded sp l := by
  unfold State.decoded State.mergeHeld
  rw [h]

/-- The marker of a poisoned line alone reads as poisoned, and no wrong symbol as clean (R325). -/
theorem classOf_marker : classOf [(69, 0xA5)] = .poisoned := by decide

theorem classOf_nil : classOf [] = .clean := by decide

theorem State.poisonLine_decoded (s : State) (sp l : Nat) : (s.poisonLine sp l).decoded sp l = .poisoned := by
  unfold State.poisonLine State.setArrays State.decoded State.mergeHeld
  dsimp only
  by_cases h : sp = spHbm
  · subst h
    simp [List.any_filter, AL.getD, AL.get_put_self, classify, classOf_marker]
  · simp [h, AL.getD, AL.get_put_self, classify, classOf_marker]

theorem State.cleanLine_decoded (s : State) (sp l : Nat) : (s.cleanLine sp l).decoded sp l = .clean := by
  unfold State.decoded State.cleanLine State.setArrays
  simp [AL.getD, AL.get_del_self, classify, classOf_nil]

theorem any_filter_of {α : Type} (l : List α) (p q : α → Bool) (h : ∀ a ∈ l, p a = true → q a = true) :
    (l.filter q).any p = l.any p := by
  rw [List.any_filter]
  induction l with
  | nil => rfl
  | cons a l ih =>
    simp only [List.any_cons]
    rw [ih (fun b hb => h b (List.mem_cons_of_mem _ hb))]
    congr 1
    cases hp : p a
    · simp
    · simp [h a (List.mem_cons_self ..) hp]

theorem State.mergeFree_held (s : State) (line n : Nat) :
    (s.mergeFree line).mergeHeld n = (if n = line then false else s.mergeHeld n) := by
  unfold State.mergeFree State.mergeHeld State.cleanLine State.setArrays
  dsimp only
  split
  · subst n
    simp [List.any_filter]
  · apply any_filter_of
    intro a _ h
    simp at h ⊢
    omega

theorem State.mergeFree_decoded (s : State) (line : Nat) : (s.mergeFree line).decoded spHbm line = .clean := by
  unfold State.mergeFree
  exact State.cleanLine_decoded _ _ _

theorem State.wrs_arrays (p : PageId) : ∀ (l : List (Reg × Nat)) (s : State), (s.wrs p l).arrays = s.arrays
  | [], _ => rfl
  | (r, v) :: l, s => by
    rw [State.wrs, State.wrs_arrays p l]
    simp

theorem State.ueRecord_arrays (s : State) (a b c : Nat) : (s.ueRecord a b c).arrays = s.arrays := by
  unfold State.ueRecord
  split
  · rfl
  · exact State.wrs_arrays _ _ _

theorem State.ueLine_arrays (s : State) (sp l : Nat) (d : Decoded) :
    (s.ueLine sp l d).arrays = (s.poisonLine sp l).arrays := by
  unfold State.ueLine
  simp only [State.err_arrays, State.ueRecord_arrays, State.bump_arrays]

/-- A line found bad sets PG_ERR 1 or 0 of the integrity page. -/
theorem State.ueLine_errSet (s : State) (sp l : Nat) (d : Decoded) :
    errSet (s.ueLine sp l d) pgIntegrity (if d = .address then 1 else 0) := by
  unfold State.ueLine
  dsimp only
  by_cases h : d = .address
  · simp only [h, decide_true, if_true]
    exact State.err_bit _ _ _ (by decide)
  · simp only [h, decide_false, if_false]
    exact State.err_bit _ _ _ (by decide)

/-! ## Fields of one page, and of others -/

/-- A write leaves every other block field of its page as it reads. -/
theorem State.rd_wri_same (s : State) {p : PageId} {r x : Reg} {i j : Nat} (v : Nat)
    (h : x.off + x.stride * j ≠ r.off + r.stride * i ∨ x.lo ≠ r.lo) (hx : 0x100 ≤ x.off) (hr : 0x100 ≤ r.off)
    (ht : p.ty ≠ 0x51) : (s.wri p r i v).rd p x j = s.rd p x j := by
  refine State.rd_wri_ne s v ?_ ?_ ?_
  · simp only [rkey, ne_eq, RegKey.mk.injEq, true_and, not_and_or]
    exact h
  · simp only [rkey, Hdr.HELD_EVT, ne_eq, RegKey.mk.injEq, true_and, not_and_or]
    omega
  · rintro (e | e)
    · simp only [rkey, Hdr.FREEZE, RegKey.mk.injEq, true_and] at e
      omega
    · simp only [rkey, pgIntegrity, RegKey.mk.injEq] at e
      exact ht e.1

/-- A write of a block field leaves every field of another page as it reads. -/
theorem State.rd_wri_other (s : State) {p q : PageId} {r x : Reg} {i j : Nat} (v : Nat) (hq : q ≠ p) (hr : 0x100 ≤ r.off)
    (ht : p.ty ≠ 0x51) : (s.wri p r i v).rd q x j = s.rd q x j := by
  have hne : ∀ {a b c d : Nat}, (⟨q.ty, q.inst, a, b⟩ : RegKey) ≠ ⟨p.ty, p.inst, c, d⟩ := by
    intro a b c d e
    simp only [RegKey.mk.injEq] at e
    exact hq (by cases q; cases p; simp_all)
  refine State.rd_wri_ne s v hne hne ?_
  rintro (e | e)
  · exact hne e.symm
  · simp only [rkey, pgIntegrity, RegKey.mk.injEq] at e
    exact ht e.1

/-- A written block field reads as written, in its width. -/
theorem State.rd_wri_own (s : State) {p : PageId} {r : Reg} {i : Nat} (v : Nat) (hr : 0x100 ≤ r.off) (ht : p.ty ≠ 0x51) :
    (s.wri p r i v).rd p r i = v % 2 ^ r.w := by
  refine State.rd_wri_self s p r i v ?_ ?_
  · simp only [rkey, Hdr.HELD_EVT, ne_eq, RegKey.mk.injEq, true_and, not_and_or]
    omega
  · rintro (e | e)
    · simp only [rkey, Hdr.FREEZE, RegKey.mk.injEq, true_and] at e
      omega
    · simp only [rkey, pgIntegrity, RegKey.mk.injEq] at e
      exact ht e.1

theorem State.rd_wr_same (s : State) {p : PageId} {r x : Reg} {j : Nat} (v : Nat)
    (h : x.off + x.stride * j ≠ r.off ∨ x.lo ≠ r.lo) (hx : 0x100 ≤ x.off) (hr : 0x100 ≤ r.off)
    (ht : p.ty ≠ 0x51) : (s.wr p r v).rd p x j = s.rd p x j :=
  State.rd_wri_same s v h hx hr ht

theorem State.rd_wr_other (s : State) {p q : PageId} {r x : Reg} {j : Nat} (v : Nat) (hq : q ≠ p) (hr : 0x100 ≤ r.off)
    (ht : p.ty ≠ 0x51) : (s.wr p r v).rd q x j = s.rd q x j := State.rd_wri_other s v hq hr ht

theorem State.rd_wr_own (s : State) {p : PageId} {r : Reg} (v : Nat) (hr : 0x100 ≤ r.off) (ht : p.ty ≠ 0x51) :
    (s.wr p r v).rd p r 0 = v % 2 ^ r.w := State.rd_wri_own s v hr ht

/-- An error event leaves every block field as it reads, but for the counts of lost events and dropped frames. -/
theorem State.rd_err_block (s : State) (q : PageId) (c : Nat) {p : PageId} {x : Reg} {j : Nat} (hx : 0x100 ≤ x.off)
    (h1 : rkey p x j ≠ rkey pgHost Mac.EVT_LOST 0) (h2 : rkey p x j ≠ rkey (pgKeep 3) Hst.EG_DROP 0) :
    (s.err q c).rd p x j = s.rd p x j := by
  refine State.rd_err s q c ?_
  have ho : 0x100 ≤ (rkey p x j).off := Nat.le_trans hx (Nat.le_add_right _ _)
  rintro ((e | e | e | e) | e)
  · exact h1 e
  · exact h2 e
  · rw [e] at ho
    exact absurd ho (by decide)
  · rw [e] at ho
    exact absurd ho (by decide)
  · omega

end Sys2Proof.Machine
end

