-- ==== Sys2Proof/Laws/Blocks.lean ====
section
/-! SUPPORT. What the operations over links, reports and events do to block fields (offset 0x100 and up) and to header fields. -/

namespace Sys2Proof.Machine

open Sys2Proof

/-! ## Pages of links -/

theorem pgLink_ty (l : Nat) : (pgLink l).ty = 0x10 ∨ (pgLink l).ty = 0x11 := by
  unfold pgLink
  split
  · exact .inl rfl
  · exact .inr rfl

theorem pgLink_ne {l : Nat} {p : PageId} (h0 : p.ty ≠ 0x10) (h1 : p.ty ≠ 0x11) : pgLink l ≠ p := by
  intro e
  have := pgLink_ty l
  rw [e] at this
  omega

theorem pgLink_trip (l : Nat) : (pgLink l).ty ≠ 0x51 := by
  have := pgLink_ty l
  omega

/-! ## Events -/

/-- An event leaves every block field as it reads, but for the counts of lost events and dropped frames. -/
theorem State.rd_eventE_block (s : State) (q : PageId) (c : Nat) (d : List Byte) {p : PageId} {x : Reg} {j : Nat}
    (hx : 0x100 ≤ x.off) (h1 : p ≠ pgHost) (h2 : p ≠ pgKeep 3) : (s.eventE q c d).rd p x j = s.rd p x j := by
  have ho : 0x100 ≤ (rkey p x j).off := Nat.le_trans hx (Nat.le_add_right _ _)
  have hp : ∀ {q : PageId} {a b : Nat}, p ≠ q → (⟨p.ty, p.inst, a, b⟩ : RegKey).ty = q.ty → ¬ p.inst = q.inst := by
    intro q a b hq h h'
    exact hq (by cases p; cases q; simp_all)
  have ht : ¬ eventTouches (rkey p x j) := by
    rintro (e | e | e | e)
    · exact h1 (by simp only [rkey, RegKey.mk.injEq] at e; cases p; simp_all [pgHost])
    · exact h2 (by simp only [rkey, RegKey.mk.injEq] at e; cases p; simp_all [pgKeep])
    · rw [e] at ho
      exact absurd ho (by decide)
    · rw [e] at ho
      exact absurd ho (by decide)
  unfold State.eventE
  rw [State.dropErrs_of (·.rd p x j) (fun _ => State.rd_pgErr _ _ _ ht (by omega)) (fun _ => State.rd_pgErr _ _ _ ht (by omega))]
  exact State.rd_event _ _ _ _ ht

/-- An event leaves every header field but HELD_EVT as it reads, on every page but the host MAC's. -/
theorem State.rd_eventE_hdr (s : State) (q : PageId) (c : Nat) (d : List Byte) {p : PageId} (h1 : p ≠ pgHost) (h2 : p ≠ pgKeep 3) :
    (s.eventE q c d).rd p Hdr.PG_ERR 0 = s.rd p Hdr.PG_ERR 0 := by
  have ht : ¬ eventTouches (rkey p Hdr.PG_ERR 0) := by
    rintro (e | e | e | e)
    · exact h1 (by simp only [rkey, RegKey.mk.injEq] at e; cases p; simp_all [pgHost])
    · exact h2 (by simp only [rkey, RegKey.mk.injEq] at e; cases p; simp_all [pgKeep])
    · exact h1 (by simp only [rkey, RegKey.mk.injEq] at e; cases p; simp_all [pgHost])
    · exact h2 (by simp only [rkey, RegKey.mk.injEq] at e; cases p; simp_all [pgKeep])
  unfold State.eventE
  rw [State.dropErrs_of (·.rd p Hdr.PG_ERR 0) (fun _ => State.rd_pgErr _ _ _ ht ?_) (fun _ => State.rd_pgErr _ _ _ ht ?_)]
  · exact State.rd_event _ _ _ _ ht
  · rintro ⟨-, e1, e2⟩
    exact h1 (by cases p; simp_all [rkey, pgHost])
  · rintro ⟨-, e1, e2⟩
    exact h2 (by cases p; simp_all [rkey, pgKeep])

/-- An error event of another page leaves the error bits of a link's page. -/
theorem State.rd_err_hdr (s : State) (q : PageId) (c : Nat) {p : PageId} (h0 : p ≠ q) (h1 : p ≠ pgHost) (h2 : p ≠ pgKeep 3) :
    (s.err q c).rd p Hdr.PG_ERR 0 = s.rd p Hdr.PG_ERR 0 := by
  refine State.rd_err s q c ?_
  rintro ((e | e | e | e) | ⟨-, e | e | e⟩)
  · exact h1 (by simp only [rkey, RegKey.mk.injEq] at e; cases p; simp_all [pgHost])
  · exact h2 (by simp only [rkey, RegKey.mk.injEq] at e; cases p; simp_all [pgKeep])
  · exact h1 (by simp only [rkey, RegKey.mk.injEq] at e; cases p; simp_all [pgHost])
  · exact h2 (by simp only [rkey, RegKey.mk.injEq] at e; cases p; simp_all [pgKeep])
  · exact h0 (by cases p; cases q; simp_all [rkey])
  · exact h1 (by cases p; simp_all [rkey, pgHost])
  · exact h2 (by cases p; simp_all [rkey, pgKeep])

/-- A header field reads as before a write of a block field. -/
theorem State.rd_wri_hdr (s : State) {p q : PageId} {r : Reg} {i : Nat} (v : Nat) (hr : 0x100 ≤ r.off) (ht : p.ty ≠ 0x51) :
    (s.wri p r i v).rd q Hdr.PG_ERR 0 = s.rd q Hdr.PG_ERR 0 := by
  have ho : 0x100 ≤ r.off + r.stride * i := Nat.le_trans hr (Nat.le_add_right _ _)
  have h8 : Hdr.PG_ERR.off < 0x100 := by decide
  refine State.rd_wri_ne s v ?_ ?_ ?_
  · intro e
    simp only [rkey, RegKey.mk.injEq, Nat.mul_zero, Nat.add_zero] at e
    omega
  · intro e
    simp only [rkey, RegKey.mk.injEq] at e
    exact absurd e.2.2.1 (by decide)
  · rintro (e | e)
    · simp only [rkey, RegKey.mk.injEq] at e
      have : Hdr.FREEZE.off + Hdr.FREEZE.stride * 0 < 0x100 := by decide
      omega
    · simp only [rkey, RegKey.mk.injEq] at e
      exact ht e.1

/-! ## Counters of one page -/

theorem State.rd_bumpi_same (s : State) {p : PageId} {r x : Reg} {i j : Nat} (n : Nat)
    (h : x.off + x.stride * j ≠ r.off + r.stride * i ∨ x.lo ≠ r.lo) (hx : 0x100 ≤ x.off) (hr : 0x100 ≤ r.off)
    (ht : p.ty ≠ 0x51) : (s.bumpi p r i n).rd p x j = s.rd p x j := State.rd_wri_same s _ h hx hr ht

theorem State.rd_bumpi_other (s : State) {p q : PageId} {r x : Reg} {i j : Nat} (n : Nat) (hq : q ≠ p) (hr : 0x100 ≤ r.off)
    (ht : p.ty ≠ 0x51) : (s.bumpi p r i n).rd q x j = s.rd q x j := State.rd_wri_other s _ hq hr ht

theorem State.rd_bumpi_hdr (s : State) {p q : PageId} {r : Reg} {i : Nat} (n : Nat) (hr : 0x100 ≤ r.off) (ht : p.ty ≠ 0x51) :
    (s.bumpi p r i n).rd q Hdr.PG_ERR 0 = s.rd q Hdr.PG_ERR 0 := State.rd_wri_hdr s _ hr ht

/-- A wrapping counter counts modulo its width. -/
theorem State.rd_bumpi_own (s : State) {p : PageId} {r : Reg} {i : Nat} (n : Nat) (hr : 0x100 ≤ r.off) (ht : p.ty ≠ 0x51)
    (hk : r.kind = .counterWrap) : (s.bumpi p r i n).rd p r i = (s.rd p r i + n) % 2 ^ r.w := by
  unfold State.bumpi
  rw [State.rd_wri_own _ _ hr ht, hk]

/-! ## Reports -/

theorem State.rd_holdReport (s : State) (r : Report) (a b : Option Nat) (p : PageId) (x : Reg) (j : Nat) :
    (s.holdReport r a b).rd p x j = s.rd p x j := by
  unfold State.holdReport State.openRound
  split
  · rfl
  · dsimp only
    rw [(State.flood_eq ..).1]
    rfl

theorem State.rd_reportLink (s : State) (d : Nat) (p : PageId) (x : Reg) (j : Nat) :
    (s.reportLink d).rd p x j = s.rd p x j := State.rd_holdReport ..

/-! ## Links -/

theorem State.lstate_setLstate (s : State) (l v : Nat) : (s.setLstate l v).lstate l = v % 8 := by
  have hp := pgLink_trip l
  unfold State.setLstate State.lstate
  dsimp only
  split
  · rw [State.rd_eventE_block _ _ _ _ (by decide) (pgLink_ne (by decide) (by decide)) (pgLink_ne (by simp [pgKeep]) (by simp [pgKeep])),
      State.rd_wr_own _ _ (by decide) hp]
    rfl
  · rw [State.rd_wr_own _ _ (by decide) hp]
    rfl

/-- What is kept of a link leaves every field as it reads. -/
theorem State.rd_setLink (s : State) (l : Nat) (y : Link) (p : PageId) (x : Reg) (j : Nat) : (s.setLink l y).rd p x j = s.rd p x j := rfl

/-- A state change of a link leaves its other block fields as they read. -/
theorem State.rd_setLstate (s : State) (l v : Nat) {x : Reg} {j : Nat} (hx : 0x100 ≤ x.off)
    (h : x.off + x.stride * j ≠ Lnk.LSTATE.off ∨ x.lo ≠ Lnk.LSTATE.lo) : (s.setLstate l v).rd (pgLink l) x j = s.rd (pgLink l) x j := by
  have hp := pgLink_trip l
  unfold State.setLstate
  dsimp only
  split
  · rw [State.rd_eventE_block _ _ _ _ hx (pgLink_ne (by decide) (by decide)) (pgLink_ne (by simp [pgKeep]) (by simp [pgKeep])),
      State.rd_wr_same _ _ h hx (by decide) hp, State.rd_setLink]
  · rw [State.rd_wr_same _ _ h hx (by decide) hp, State.rd_setLink]

theorem State.errSet_setLstate {s : State} {l v k i : Nat} (h : errSet s (pgLink k) i) : errSet (s.setLstate l v) (pgLink k) i := by
  have hp := pgLink_trip l
  unfold errSet at *
  unfold State.setLstate
  dsimp only
  split
  · rw [State.rd_eventE_hdr _ _ _ _ (pgLink_ne (by decide) (by decide)) (pgLink_ne (by simp [pgKeep]) (by simp [pgKeep]))]
    unfold State.wr
    rw [State.rd_wri_hdr _ _ (by decide) hp]
    exact h
  · unfold State.wr
    rw [State.rd_wri_hdr _ _ (by decide) hp]
    exact h

theorem foldl_of {σ α β : Type} (g : σ → β) (f : σ → α → σ) (h : ∀ s a, g (f s a) = g s) : ∀ (l : List α) (s : σ), g (l.foldl f s) = g s
  | [], _ => rfl
  | a :: l, s => (foldl_of g f h l (f s a)).trans (h s a)

/-- What the open plane and a counter and error event of a Keep leave alone, the end of an arriving packet leaves alone. -/
theorem State.endInput_of {β : Type} (g : State → β) (h1 : ∀ t o, g (State.setOpn t o) = g t)
    (h2 : ∀ t k, g (State.fwdPoison t k) = g t) (s : State) (l v : Nat) : g (s.endInput l v) = g s := by
  unfold State.endInput
  dsimp only
  split
  · exact h1 ..
  · rw [h2, h1, h1]

/-- A poisoned packet counted leaves the block fields of a link as they read. -/
theorem State.rd_fwdPoison (s : State) (k l : Nat) {x : Reg} {j : Nat} (hx : 0x100 ≤ x.off) :
    (s.fwdPoison k).rd (pgLink l) x j = s.rd (pgLink l) x j := by
  have hk : ∀ i, pgLink l ≠ pgKeep i := fun i => pgLink_ne (by simp [pgKeep]) (by simp [pgKeep])
  unfold State.fwdPoison
  rw [State.rd_err_block _ _ _ hx (fun e => ?_) (fun e => ?_)]
  · exact State.rd_bumpi_other s _ (hk k) (by decide) (by simp [pgKeep])
  · exact pgLink_ne (l := l) (p := pgHost) (by decide) (by decide)
      (by simp only [rkey, RegKey.mk.injEq] at e; generalize pgLink l = p at e; cases p; simp_all [pgHost])
  · exact hk 3 (by simp only [rkey, RegKey.mk.injEq] at e; generalize pgLink l = p at e; cases p; simp_all [pgKeep])

theorem State.hdr_fwdPoison (s : State) (k l : Nat) :
    (s.fwdPoison k).rd (pgLink l) Hdr.PG_ERR 0 = s.rd (pgLink l) Hdr.PG_ERR 0 := by
  have hk : ∀ i, pgLink l ≠ pgKeep i := fun i => pgLink_ne (by simp [pgKeep]) (by simp [pgKeep])
  unfold State.fwdPoison
  rw [State.rd_err_hdr _ _ _ (hk k) (pgLink_ne (by decide) (by decide)) (hk 3)]
  exact State.rd_bumpi_hdr s _ (by decide) (by simp [pgKeep])

/-- What a dropped link loses leaves the other fields as they read. -/
theorem State.rd_dropLink (s : State) (l : Nat) {x : Reg} {j : Nat} (hx : 0x100 ≤ x.off) (hl : x.lo ≠ 0 ∨ x.off + x.stride * j < 0x140) :
    (s.dropLink l).rd (pgLink l) x j = s.rd (pgLink l) x j := by
  unfold State.dropLink
  dsimp only
  refine (foldl_of (fun t : State => t.rd (pgLink l) x j) _ (fun t v => ?_) _ _).trans rfl
  refine (State.endInput_of (·.rd (pgLink l) x j) (fun _ _ => rfl) (fun u k => State.rd_fwdPoison u k l hx) _ l v).trans ?_
  refine State.rd_wri_same _ _ ?_ hx (by decide) (pgLink_trip l)
  rcases hl with h | h
  · exact .inr h
  · left
    have : Lnk.CRED_AVAIL.off = 0x140 := rfl
    omega

theorem State.errSet_dropLink {s : State} {l k i : Nat} (h : errSet s (pgLink k) i) : errSet (s.dropLink l) (pgLink k) i := by
  unfold errSet at *
  rw [show (s.dropLink l).rd (pgLink k) Hdr.PG_ERR 0 = s.rd (pgLink k) Hdr.PG_ERR 0 from ?_]
  · exact h
  unfold State.dropLink
  dsimp only
  exact (foldl_of (fun t : State => t.rd (pgLink k) Hdr.PG_ERR 0) _
    (fun t v => (State.endInput_of (·.rd (pgLink k) Hdr.PG_ERR 0) (fun _ _ => rfl) (fun u i => State.hdr_fwdPoison u i k) _ l v).trans
      (State.rd_wri_hdr _ _ (by decide) (pgLink_trip l))) _ _).trans rfl

/-- Whatever the open plane, the links, the outputs and one counter and error event of a Keep leave alone, a dropped output
leaves alone. -/
theorem State.dropOutput_of {β : Type} (g : State → β) (h1 : ∀ t o, g (State.setOpn t o) = g t)
    (h2 : ∀ t l x, g (State.setLink t l x) = g t) (h3 : ∀ t o, g (State.emit t o) = g t)
    (h4 : ∀ t k n, g (State.bump t (pgKeep k) Kr.UNROUTABLE n) = g t) (h5 : ∀ t k, g (State.err t (pgKeep k) 1) = g t)
    (s : State) (l : Nat) : g (s.dropOutput l) = g s := by
  have hc : ∀ (t : State) (i v n : Nat), g (t.returnCredit i v n) = g t := by
    intro t i v n
    unfold State.returnCredit
    dsimp only
    repeat' split
    all_goals simp only [State.sendIdle, h2, h3]
  have hq : ∀ (t : State) (k o : Nat), g (t.discardQueued k o) = g t := by
    intro t k o
    have hf : g ((List.range 8).foldl (fun u v => u.setQueue k o v EgressQ.empty) t) = g t :=
      foldl_of g _ (fun u v => h1 ..) _ _
    unfold State.discardQueued
    dsimp only
    split
    · rw [h1, hf]
    · rw [h5, h4, h1, hf]
  unfold State.dropOutput State.dropOwn
  dsimp only
  rw [h2, h1]
  refine (foldl_of g _ (fun u r => ?_) _ _).trans (hq ..)
  split
  · exact hc ..
  · rfl

/-- A dropped output leaves the block fields of a link as they read. -/
theorem State.rd_dropOutput (s : State) (l k : Nat) {x : Reg} {j : Nat} (hx : 0x100 ≤ x.off) :
    (s.dropOutput l).rd (pgLink k) x j = s.rd (pgLink k) x j := by
  have hk : ∀ i, pgLink k ≠ pgKeep i := fun i => pgLink_ne (by simp [pgKeep]) (by simp [pgKeep])
  refine State.dropOutput_of (·.rd (pgLink k) x j) (fun _ _ => rfl) (fun _ _ _ => rfl) (fun _ _ => rfl)
    (fun t i n => State.rd_bumpi_other t n (hk i) (by decide) (by simp [pgKeep])) (fun t i => ?_) s l
  refine State.rd_err_block _ _ _ hx (fun e => ?_) (fun e => ?_)
  · exact pgLink_ne (l := k) (p := pgHost) (by decide) (by decide)
      (by simp only [rkey, RegKey.mk.injEq] at e; generalize pgLink k = p at e; cases p; simp_all [pgHost])
  · exact hk 3 (by simp only [rkey, RegKey.mk.injEq] at e; generalize pgLink k = p at e; cases p; simp_all [pgKeep])

theorem State.errSet_dropOutput {s : State} {l k i : Nat} (h : errSet s (pgLink k) i) : errSet (s.dropOutput l) (pgLink k) i := by
  have hk : ∀ i, pgLink k ≠ pgKeep i := fun i => pgLink_ne (by simp [pgKeep]) (by simp [pgKeep])
  unfold errSet at *
  rw [State.dropOutput_of (·.rd (pgLink k) Hdr.PG_ERR 0) (fun _ _ => rfl) (fun _ _ _ => rfl) (fun _ _ => rfl)
    (fun t i n => State.rd_bumpi_hdr t n (by decide) (by simp [pgKeep]))
    (fun t i => State.rd_err_hdr _ _ _ (hk i) (pgLink_ne (by decide) (by decide)) (hk 3)) s l]
  exact h

/-- A failed link is in FAILED. -/
theorem State.lstate_failLink (s : State) (l : Nat) : (s.failLink l).lstate l = 6 := by
  unfold State.failLink
  split
  · assumption
  · dsimp only
    split
    · unfold State.lstate
      rw [State.rd_reportLink, State.rd_dropOutput _ _ _ (by decide)]
      exact State.lstate_setLstate ..
    · exact State.lstate_setLstate ..

theorem State.rd_failLink (s : State) (l : Nat) {x : Reg} {j : Nat} (hx : 0x100 ≤ x.off) (hl : x.lo ≠ 0 ∨ x.off + x.stride * j < 0x140)
    (h : x.off + x.stride * j ≠ Lnk.LSTATE.off ∨ x.lo ≠ Lnk.LSTATE.lo) : (s.failLink l).rd (pgLink l) x j = s.rd (pgLink l) x j := by
  unfold State.failLink
  split
  · rfl
  · dsimp only
    split
    · rw [State.rd_reportLink, State.rd_dropOutput _ _ _ hx, State.rd_setLstate _ _ _ hx h, State.rd_dropLink _ _ hx hl]
    · rw [State.rd_setLstate _ _ _ hx h, State.rd_dropLink _ _ hx hl]

theorem State.errSet_failLink {s : State} {l k i : Nat} (h : errSet s (pgLink k) i) : errSet (s.failLink l) (pgLink k) i := by
  unfold State.failLink
  split
  · exact h
  · dsimp only
    split
    · unfold errSet
      rw [State.rd_reportLink]
      exact State.errSet_dropOutput (State.errSet_setLstate (State.errSet_dropLink h))
    · exact State.errSet_setLstate (State.errSet_dropLink h)

end Sys2Proof.Machine
end

