-- ==== Sys2Proof/Laws/FrameSched.lean ====
section
/-! SUPPORT. Operations that leave the field `sched` of the state as it is. -/

namespace Sys2Proof.Machine

open Sys2Proof

/-- The field `sched` of a state is `z`. -/
def SchedIs (z : Sched) (s : State) : Prop := s.sched = z

theorem schedIs_mk {z} {x0 x1 x2 x3 x4 x5 x6 x7 x8 x9 x10 x11 x12 x13 x14 x15 x16 x17 x18 x19 x20 x21 x22 x23 x24 x25 x26 x27 x28 x29 x30 x31 x32 x33 x34 x35 x36 x37 x38 x39 x40 x41 x42 x43 x44 x45} (h : x23 = z) :
    SchedIs z (State.mk x0 x1 x2 x3 x4 x5 x6 x7 x8 x9 x10 x11 x12 x13 x14 x15 x16 x17 x18 x19 x20 x21 x22 x23 x24 x25 x26 x27 x28 x29 x30 x31 x32 x33 x34 x35 x36 x37 x38 x39 x40 x41 x42 x43 x44 x45) := h

theorem schedIs_eta {z} {s : State} (h : SchedIs z s) : s.sched = z := h

theorem schedIs_foldl {α : Type} {z} {f : State → α → State} (hf : ∀ t x, SchedIs z t → SchedIs z (f t x)) :
    ∀ {l : List α} {s : State}, SchedIs z s → SchedIs z (l.foldl f s)
  | [], _, h => h
  | x :: _, s, h => schedIs_foldl (s := f s x) hf (hf s x h)

theorem schedIs_foldl_1 {α β : Type} {z} {f : State × β → α → State × β}
    (hf : ∀ a x, SchedIs z a.1 → SchedIs z (f a x).1) :
    ∀ {l : List α} {a : State × β}, SchedIs z a.1 → SchedIs z (l.foldl f a).1
  | [], _, h => h
  | x :: _, a, h => schedIs_foldl_1 (a := f a x) hf (hf a x h)

theorem schedIs_foldl_2 {α β : Type} {z} {f : β × State → α → β × State}
    (hf : ∀ a x, SchedIs z a.2 → SchedIs z (f a x).2) :
    ∀ {l : List α} {a : β × State}, SchedIs z a.2 → SchedIs z (l.foldl f a).2
  | [], _, h => h
  | x :: _, a, h => schedIs_foldl_2 (a := f a x) hf (hf a x h)

theorem State.bump_sched' {z} {s : State} (h : SchedIs z s) (p : PageId) (r : Reg) (n : Nat) : SchedIs z (State.bump s p r n) :=
  (State.bump_sched ..).trans h

theorem State.err_sched' {z} {s : State} (h : SchedIs z s) (p : PageId) (i : Nat) : SchedIs z (State.err s p i) :=
  (State.err_sched ..).trans h

theorem State.poke_sched' {z} {s : State} (h : SchedIs z s) (space off : Nat) (l : List Byte) : SchedIs z (State.poke s space off l) :=
  (State.poke_sched ..).trans h

theorem State.put_sched' {z} {s : State} (h : SchedIs z s) (p : PageId) (r : Reg) (i v : Nat) : SchedIs z (State.put s p r i v) :=
  (State.put_sched ..).trans h

theorem State.raise_sched' {z} {s : State} (h : SchedIs z s) (cls entry : Nat) : SchedIs z (State.raise s cls entry) :=
  (State.raise_sched ..).trans h

theorem State.setArrays_sched' {z} {s : State} (h : SchedIs z s) (a : Arrays) : SchedIs z (State.setArrays s a) :=
  (State.setArrays_sched ..).trans h

theorem State.setTile_sched' {z} {s : State} (h : SchedIs z s) (g : Nat) (t : Tile) : SchedIs z (State.setTile s g t) :=
  (State.setTile_sched ..).trans h

theorem State.wr_sched' {z} {s : State} (h : SchedIs z s) (p : PageId) (r : Reg) (v : Nat) : SchedIs z (State.wr s p r v) :=
  (State.wr_sched ..).trans h

theorem State.cleanLine_sched' {z} {s : State} (h : SchedIs z s) (sp line : Nat) :
    SchedIs z (State.cleanLine s sp line) := by
  unfold State.cleanLine
  repeat' first
    | with_reducible assumption
    | with_reducible apply State.setArrays_sched'

theorem State.mergeFree_sched' {z} {s : State} (h : SchedIs z s) (line : Nat) :
    SchedIs z (State.mergeFree s line) := by
  unfold State.mergeFree
  repeat' first
    | with_reducible assumption
    | with_reducible apply State.cleanLine_sched'
    | with_reducible apply State.setArrays_sched'

theorem State.mergeRoom_sched' {z} {s : State} (h : SchedIs z s) (plan : Bool) (st : Nat) :
    SchedIs z (State.mergeRoom s plan st) := by
  unfold State.mergeRoom
  repeat' first
    | with_reducible assumption
    | with_reducible apply State.mergeFree_sched'
    | split
    | dsimp only

theorem State.mergeNeed_sched' {z} {s : State} (h : SchedIs z s) (plan : Bool) (st : Nat) :
    SchedIs z (State.mergeNeed s plan st) := by
  unfold State.mergeNeed
  repeat' first
    | with_reducible assumption
    | with_reducible apply State.mergeRoom_sched'
    | with_reducible apply State.bump_sched'
    | split

theorem State.mergeTouch_sched' {z} {s : State} (h : SchedIs z s) (plan : Bool) (line : Nat) :
    SchedIs z (State.mergeTouch s plan line) := by
  unfold State.mergeTouch
  repeat' first
    | with_reducible assumption
    | with_reducible apply State.mergeNeed_sched'
    | with_reducible apply State.setArrays_sched'
    | with_reducible refine schedIs_foldl (fun t x ht => ?_) ?_
    | intro _
    | split

theorem State.wrs_sched' {z} : ∀ {s : State} (_ : SchedIs z s) (p : PageId) (l : List (Reg × Nat)), SchedIs z (State.wrs s p l)
  | _, h, _, [] => h
  | _, h, p, _ :: l => State.wrs_sched' ((State.wr_sched ..).trans h) p l

theorem State.noteRise_sched' {z} {s : State} (h : SchedIs z s) (k : RegKey) (v : Nat) :
    SchedIs z (State.noteRise s k v) := by
  unfold State.noteRise
  split <;> exact h

theorem State.again_sched' {z} {s : State} (h : SchedIs z s) (p : PageId) (r : Reg) : SchedIs z (State.again s p r) :=
  State.noteRise_sched' h _ _

theorem State.noteCorrected_sched' {z} {s : State} (h : SchedIs z s) (sp line : Nat) :
    SchedIs z (State.noteCorrected s sp line) :=
  State.setArrays_sched' (State.bump_sched' h ..) _

theorem State.unhide_sched' {z} {s : State} (h : SchedIs z s) (sp off n : Nat) : SchedIs z (State.unhide s sp off n) := by
  unfold State.unhide
  split
  · exact h
  · exact State.setArrays_sched' h _

theorem State.ueRecord_sched' {z} {s : State} (h : SchedIs z s) (kind arr addr : Nat) :
    SchedIs z (State.ueRecord s kind arr addr) := by
  unfold State.ueRecord
  repeat' first
    | with_reducible assumption
    | with_reducible apply State.wrs_sched'
    | with_reducible apply State.again_sched'
    | with_reducible refine schedIs_foldl (fun t x ht => ?_) ?_
    | intro _
    | split

theorem State.poisonLine_sched' {z} {s : State} (h : SchedIs z s) (sp line : Nat) :
    SchedIs z (State.poisonLine s sp line) := by
  unfold State.poisonLine
  repeat' first
    | with_reducible assumption
    | with_reducible apply State.setArrays_sched'
    | with_reducible apply State.poke_sched'

theorem State.ueLine_sched' {z} {s : State} (h : SchedIs z s) (sp line : Nat) (d : Decoded) :
    SchedIs z (State.ueLine s sp line d) := by
  unfold State.ueLine
  repeat' first
    | with_reducible assumption
    | with_reducible apply State.ueRecord_sched'
    | with_reducible apply State.poisonLine_sched'
    | with_reducible apply State.err_sched'
    | with_reducible apply State.bump_sched'

theorem State.tickFault_sched' {z} {s : State} (h : SchedIs z s) :
    SchedIs z (State.tickFault s) := by
  unfold State.tickFault
  repeat' first
    | with_reducible assumption
    | with_reducible apply State.raise_sched'

theorem State.touchLine_sched' {z} {s : State} (h : SchedIs z s) (plan : Bool) (sp line : Nat) :
    SchedIs z (State.touchLine s plan sp line) := by
  unfold State.touchLine
  repeat' first
    | with_reducible assumption
    | with_reducible apply State.ueLine_sched'
    | with_reducible apply State.noteCorrected_sched'
    | with_reducible apply State.setArrays_sched'
    | with_reducible apply State.tickFault_sched'
    | with_reducible apply State.bump_sched'
    | with_reducible refine schedIs_foldl (fun t x ht => ?_) ?_
    | intro _
    | split

theorem State.writeLine_sched' {z} {s : State} (h : SchedIs z s) (plan : Bool) (sp off : Nat) (l : List Byte) (line : Nat) :
    SchedIs z (State.writeLine s plan sp off l line) := by
  unfold State.writeLine
  repeat' first
    | with_reducible assumption
    | with_reducible apply State.mergeTouch_sched'
    | with_reducible apply State.touchLine_sched'
    | with_reducible apply State.cleanLine_sched'
    | with_reducible apply State.poke_sched'
    | with_reducible apply State.bump_sched'
    | with_reducible refine schedIs_foldl (fun t x ht => ?_) ?_
    | intro _
    | split
    | dsimp only

theorem State.store_sched' {z} {s : State} (h : SchedIs z s) (plan : Bool) (sp off : Nat) (l : List Byte) :
    SchedIs z (State.store s plan sp off l) := by
  unfold State.store
  repeat' first
    | with_reducible assumption
    | with_reducible apply State.writeLine_sched'
    | with_reducible apply State.unhide_sched'
    | split
    | with_reducible refine schedIs_foldl (fun t x ht => ?_) ?_

theorem State.landLine_sched' {z} {s : State} (h : SchedIs z s) (sid j o a n line : Nat) :
    SchedIs z (State.landLine s sid j o a n line) := by
  unfold State.landLine
  repeat' first
    | with_reducible assumption
    | with_reducible apply State.store_sched'
    | with_reducible apply State.poisonLine_sched'
    | with_reducible refine schedIs_foldl (fun t x ht => ?_) ?_
    | intro _
    | split
    | dsimp only

theorem State.landChunk_sched' {z} {s : State} (h : SchedIs z s) (sid j : Nat) :
    SchedIs z (State.landChunk s sid j) := by
  unfold State.landChunk
  repeat' first
    | with_reducible assumption
    | with_reducible apply State.landLine_sched'
    | with_reducible refine schedIs_foldl (fun t x ht => ?_) ?_
    | intro _
    | split
    | dsimp only

theorem State.flagInc_sched' {z} {s : State} (h : SchedIs z s) (g f : Nat) :
    SchedIs z (State.flagInc s g f) := by
  unfold State.flagInc
  repeat' first
    | with_reducible assumption
    | with_reducible apply State.setTile_sched'

theorem State.applyAflag_sched' {z} {s : State} (h : SchedIs z s) (sid : Nat) :
    SchedIs z (State.applyAflag s sid) := by
  unfold State.applyAflag
  repeat' first
    | with_reducible assumption
    | with_reducible apply State.flagInc_sched'
    | with_reducible apply State.setTile_sched'
    | with_reducible refine schedIs_foldl (fun t x ht => ?_) ?_
    | intro _
    | split
    | dsimp only

end Sys2Proof.Machine
end

