-- ==== Sys2Proof/Laws/Slices.lean ====
section
/-! SUPPORT. Runs in slots: what completing a slice leaves. -/

namespace Sys2Proof.Machine

open Sys2Proof

theorem Run.isAt_iff (r : Run) (k u l : Nat) : r.isAt k u l = true ↔ r.kind = k ∧ r.unit = u ∧ r.slot = l := by
  simp [Run.isAt, and_assoc]

theorem openRun_mem {s : State} {k u l : Nat} {r : Run} (h : s.openRun k u l = some r) : r ∈ s.runs ∧ r.isAt k u l = true ∧ r.done = false := by
  unfold State.openRun at h
  split at h
  · have h1 := List.mem_of_find?_eq_some h
    have h2 := List.find?_some h
    simp at h2
    exact ⟨h1, h2.1, h2.2⟩
  · cases h

theorem sliceDone_map {s t : State} {k u l : Nat} {r x : Run} (hx : x.isAt k u l = true) (hxs : x ∈ s.runs)
    (hr : r.isAt k u l = true) (hd : r.done = true) (ht : t.runs = s.runs.map fun y => if y.isAt k u l then r else y) :
    sliceDone s t k u l := by
  refine ⟨⟨r, ?_, hr⟩, ?_, ?_⟩
  · rw [ht, List.mem_map]; exact ⟨x, hxs, by simp [hx]⟩
  · intro y hy hya
    rw [ht, List.mem_map] at hy
    obtain ⟨z, hz, rfl⟩ := hy
    split
    · exact hd
    · rename_i h; simp [h] at hya
  · intro y hy
    rw [ht, List.mem_map]
    constructor
    · rintro ⟨z, hz, rfl⟩
      split at hy
      · rw [hr] at hy; cases hy
      · rename_i h; rw [if_neg h]; exact hz
    · intro h; exact ⟨y, h, by simp [hy]⟩

theorem sliceDone_finish {s t : State} {k u l : Nat} {r r' : Run} (h : s.openRun k u l = some r) (ht : t.runs = s.runs)
    (h1 : r'.kind = r.kind) (h2 : r'.unit = r.unit) (h3 : r'.slot = r.slot) : sliceDone s (t.finish r') k u l := by
  obtain ⟨a, b, c⟩ := openRun_mem h
  obtain ⟨e1, e2, e3⟩ := (Run.isAt_iff r k u l).1 b
  refine sliceDone_map (r := { r' with done := true }) b a ?_ rfl ?_
  · simp [Run.isAt_iff, h1, h2, h3, e1, e2, e3]
  · unfold State.finish State.setRun
    simp only [ht, h1, h2, h3, e1, e2, e3]

theorem ceEnd_done {s t : State} {u l : Nat} {c : CeCtx} {r : Run} (fx : Fx) (h : s.openRun 1 u l = some r) (hc : c.run = r) (ht : t.runs = s.runs) :
    sliceDone s (t.ceEnd c fx) 1 u l := by
  obtain ⟨a, b, d⟩ := openRun_mem h
  obtain ⟨e1, e2, e3⟩ := (Run.isAt_iff r 1 u l).1 b
  unfold State.ceEnd
  have hr : ((((t.arith c.au c.run.step fx).cePoison c (t.streamBad c)).ceCount c).ceTag c).runs = s.runs := by
    have h1 := State.arith_parts (M := (· ≠ .runs)) (parts_refl t) c.au c.run.step fx (by decide) (by decide) (by decide)
      (by decide) (by decide) (by decide)
    have h2 := State.cePoison_parts h1 c (t.streamBad c) (by decide) (by decide) (by decide) (by decide)
    have := (State.ceTag_parts (State.ceCount_parts h2 c (by decide)) c (by decide) (by decide) (by decide) (by decide)
      (by decide) (by decide) (by decide)).same_of (p := .runs) (by simp)
    rw [← ht]; exact this
  subst hc
  dsimp only
  rw [hr, e2, e3]
  cases hf : s.runs.find? fun r => r.isAt 1 u l with
  | none => 
    have := List.find?_eq_none.1 hf c.run a
    simp [b] at this
  | some x =>
    dsimp only
    have hx := List.find?_some hf
    have hxm := List.mem_of_find?_eq_some hf
    obtain ⟨f1, f2, f3⟩ := (Run.isAt_iff x 1 u l).1 (by simpa using hx)
    refine sliceDone_map (r := { x with done := true, held := [], taken := c.run.taken }) b a (by simpa [Run.isAt_iff] using ⟨f1, f2, f3⟩) rfl ?_
    unfold State.setRun
    simp only [hr, f1, f2, f3]

end Sys2Proof.Machine
end

