-- ==== Sys2Proof/Laws/Store.lean ====
section
/-! SUPPORT. What a store does to the bytes of an array: over lines that read good it writes exactly its bytes. -/

namespace Sys2Proof.Machine

open Sys2Proof

/-- A line reads as data: it decodes as CLEAN or CORRECTED. -/
def State.lineGood (s : State) (sp line : Nat) : Prop := s.decoded sp line = .clean ∨ s.decoded sp line = .corrected

theorem memWrite_append (m : List Host.Cell) (a : Nat) (l k : List Byte) :
    memWrite m a (l ++ k) = memWrite (memWrite m a l) (a + l.length) k := by
  induction l generalizing m a with
  | nil => rfl
  | cons b l ih =>
    simp only [List.cons_append, memWrite, ih, List.length_cons]
    congr 1
    omega

/-! ## Goodness of the other lines -/

theorem State.lineGood_of {s t : State} (h : t.arrays = s.arrays) {sp l : Nat} (hg : s.lineGood sp l) : t.lineGood sp l := by
  unfold State.lineGood
  rw [State.decoded_of h]
  exact hg

theorem State.cleanLine_good {s : State} (sp line : Nat) {sp' l : Nat} (h : s.lineGood sp' l) :
    (s.cleanLine sp line).lineGood sp' l := by
  by_cases e : (sp', l) = (sp, line)
  · cases e
    exact .inl (State.cleanLine_decoded s sp line)
  · have : (s.cleanLine sp line).decoded sp' l = s.decoded sp' l := by
      unfold State.decoded State.cleanLine State.setArrays State.mergeHeld AL.getD
      dsimp only
      rw [AL.get_del_ne e]
    unfold State.lineGood
    rw [this]
    exact h

theorem State.mergeFree_good {s : State} (line : Nat) {sp' l : Nat} (h : s.lineGood sp' l) :
    (s.mergeFree line).lineGood sp' l := by
  by_cases e : (sp', l) = (spHbm, line)
  · cases e
    exact .inl (State.mergeFree_decoded s line)
  · have : (s.mergeFree line).decoded sp' l = s.decoded sp' l := by
      unfold State.decoded
      by_cases hs : sp' = spHbm
      · subst hs
        have hl : l ≠ line := fun x => e (by rw [x])
        rw [State.mergeFree_held, if_neg hl]
        have hd : AL.getD (s.mergeFree line).arrays.symErr (spHbm, l) [] = AL.getD s.arrays.symErr (spHbm, l) [] := by
          unfold State.mergeFree State.cleanLine State.setArrays AL.getD
          dsimp only
          rw [AL.get_del_ne e]
        rw [hd]
      · have hd : AL.getD (s.mergeFree line).arrays.symErr (sp', l) [] = AL.getD s.arrays.symErr (sp', l) [] := by
          unfold State.mergeFree State.cleanLine State.setArrays AL.getD
          dsimp only
          rw [AL.get_del_ne e]
        rw [hd]
        simp [hs]
    unfold State.lineGood
    rw [this]
    exact h

theorem State.mergeNeed_mem (s : State) (plan : Bool) (st : Nat) : (s.mergeNeed plan st).mem = s.mem :=
  (State.mergeNeed_parts (M := (· ≠ .mem)) (parts_refl s) plan st (by decide) (by decide)).same_of (p := .mem) (by simp)

theorem State.mergeTouch_mem (s : State) (plan : Bool) (line : Nat) : (s.mergeTouch plan line).mem = s.mem :=
  (State.mergeTouch_parts (M := (· ≠ .mem)) (parts_refl s) plan line (by decide) (by decide)).same_of (p := .mem) (by simp)

theorem State.mergeRoom_good {s : State} (plan : Bool) (st : Nat) {sp l : Nat} (h : s.lineGood sp l) :
    (s.mergeRoom plan st).lineGood sp l := by
  unfold State.mergeRoom
  split
  · dsimp only
    split
    · exact State.mergeFree_good _ h
    · exact h
  · exact h

theorem State.mergeNeed_good {s : State} (plan : Bool) (st : Nat) {sp l : Nat} (h : s.lineGood sp l) :
    (s.mergeNeed plan st).lineGood sp l := by
  unfold State.mergeNeed
  refine State.mergeRoom_good _ _ ?_
  split
  · exact State.lineGood_of (State.bump_arrays ..) h
  · exact h

theorem State.mergeTouch_good {s : State} (plan : Bool) (line : Nat) {sp l : Nat} (h : s.lineGood sp l) :
    (s.mergeTouch plan line).lineGood sp l := by
  unfold State.mergeTouch
  dsimp only
  have h1 : (if s.mergeHeld line then s else s.mergeNeed plan (stackOfLine line)).lineGood sp l := by
    split
    · exact h
    · exact State.mergeNeed_good _ _ h
  generalize (if s.mergeHeld line then s else s.mergeNeed plan (stackOfLine line)) = u at h1 ⊢
  have key : ∀ x : MergeEntry, x.line = line → u.lineGood sp l →
      (u.setArrays { u.arrays with merge := x :: u.arrays.merge.filter fun m => m.line ≠ line }).lineGood sp l := by
    intro x hx hu
    unfold State.lineGood State.decoded State.mergeHeld State.setArrays at *
    dsimp only
    by_cases e : l = line
    · subst e
      by_cases hs : sp = spHbm
      · subst hs
        simp [hx]
      · simpa [hs] using hu
    · have : ((x :: u.arrays.merge.filter fun m => m.line ≠ line).any fun m => m.line = l)
          = u.arrays.merge.any fun m => m.line = l := by
        have hne : line ≠ l := fun x => e x.symm
        rw [List.any_cons, any_filter_of]
        · simp [hx, hne]
        · intro a _ ha
          simp at ha ⊢
          omega
      rw [this]
      exact hu
  exact key _ rfl h1

theorem State.touchLine_corrected_mem {s : State} {plan : Bool} {sp line : Nat} (h : s.lineGood sp line) :
    (s.touchLine plan sp line).mem = s.mem ∧ ∀ {sp' l}, s.lineGood sp' l → (s.touchLine plan sp line).lineGood sp' l := by
  unfold State.touchLine
  rcases h with h | h
  · rw [h]
    exact ⟨rfl, id⟩
  · rw [h]
    unfold State.noteCorrected
    dsimp only
    refine ⟨by simp, @fun sp' l hg => ?_⟩
    have : ∀ a, a.symErr = (s.bump pgIntegrity Itg.CORR_TOTAL 1).arrays.symErr →
        a.merge = (s.bump pgIntegrity Itg.CORR_TOTAL 1).arrays.merge →
        ((s.bump pgIntegrity Itg.CORR_TOTAL 1).setArrays a).lineGood sp' l := by
      intro a h1 h2
      unfold State.lineGood State.decoded State.mergeHeld State.setArrays
      dsimp only
      rw [h1, h2, State.bump_arrays]
      exact hg
    exact this _ rfl rfl

/-! ## One line -/

theorem State.writeLine_good (s : State) (plan : Bool) (sp off : Nat) (l : List Byte) (line : Nat) (h : s.lineGood sp line) :
    (s.writeLine plan sp off l line).mem =
      memWrite s.mem (cellAddr sp (partOf off l line).1) (partOf off l line).2 ∧
    ∀ {sp' k}, s.lineGood sp' k → (s.writeLine plan sp off l line).lineGood sp' k := by
  unfold State.writeLine
  dsimp only
  generalize partOf off l line = p
  split
  · split
    · refine ⟨State.mergeTouch_mem _ _ _, fun hg => State.mergeTouch_good _ _ (State.cleanLine_good _ _ ?_)⟩
      exact State.lineGood_of rfl hg
    · exact ⟨rfl, fun hg => State.cleanLine_good _ _ (State.lineGood_of rfl hg)⟩
  · rcases h with h | h
    · rw [h]
      dsimp only
      split
      · refine ⟨?_, fun hg => State.lineGood_of rfl (State.mergeTouch_good plan line hg)⟩
        show memWrite (s.mergeTouch plan line).mem _ _ = _
        rw [State.mergeTouch_mem]
      · exact ⟨rfl, fun hg => State.lineGood_of rfl hg⟩
    · obtain ⟨h1, h2⟩ := State.touchLine_corrected_mem (plan := plan) (.inr h : s.lineGood sp line)
      rw [h]
      dsimp only
      split
      · refine ⟨?_, fun hg => State.lineGood_of rfl (State.mergeTouch_good plan line (h2 hg))⟩
        show memWrite (State.mergeTouch _ plan line).mem _ _ = _
        rw [State.mergeTouch_mem, h1]
      · refine ⟨?_, fun hg => State.cleanLine_good _ _ (State.lineGood_of rfl (h2 hg))⟩
        show memWrite (s.touchLine plan sp line).mem _ _ = _
        rw [h1]

/-! ## All lines -/

theorem cellAddr_add {sp off n : Nat} (h : off + n < 2 ^ 40 ∨ n = 0) : cellAddr sp off + n = cellAddr sp (off + n) := by
  unfold cellAddr
  rcases h with h | h
  · rw [Nat.mod_eq_of_lt (by omega), Nat.mod_eq_of_lt (by omega)]
    omega
  · rw [h, Nat.add_zero, Nat.add_zero]

theorem State.store_lines (plan : Bool) (sp off : Nat) (l : List Byte) (hl : off + l.length ≤ 2 ^ 40) (a : Nat) (ha : a = off / 64) :
    ∀ (n : Nat) (s : State), 64 * (a + n) < off + l.length + 64 → (∀ k, k < n → s.lineGood sp (a + k)) →
      (((List.range n).map (a + ·)).foldl (fun t line => t.writeLine plan sp off l line) s).mem
          = memWrite s.mem (cellAddr sp off) (l.take (64 * (a + n) - off)) ∧
        ∀ {sp' k}, s.lineGood sp' k →
          (((List.range n).map (a + ·)).foldl (fun t line => t.writeLine plan sp off l line) s).lineGood sp' k
  | 0, s, _, _ => by
    have e : 64 * (a + 0) - off = 0 := by omega
    rw [e]
    exact ⟨rfl, id⟩
  | n + 1, s, hn, hg => by
    rw [List.range_succ, List.map_append, List.foldl_append]
    dsimp only [List.map, List.foldl]
    obtain ⟨h1, h2⟩ := State.store_lines plan sp off l hl a ha n s (by omega) (fun k hk => hg k (by omega))
    generalize ((List.range n).map (a + ·)).foldl (fun t line => t.writeLine plan sp off l line) s = u at h1 h2 ⊢
    obtain ⟨h3, h4⟩ := State.writeLine_good u plan sp off l (a + n) (h2 (hg n (by omega)))
    refine ⟨?_, fun h => h4 (h2 h)⟩
    rw [h3, h1]
    unfold partOf
    dsimp only
    by_cases hz : n = 0
    · subst hz
      have e1 : max off (64 * (a + 0)) = off := by omega
      have e2 : 64 * (a + 0) - off = 0 := by omega
      rw [e1, e2, Nat.sub_self]
      simp only [List.take_zero, memWrite, List.drop_zero]
    · have e1 : max off (64 * (a + n)) = 64 * (a + n) := by omega
      rw [e1]
      have hlen : (l.take (64 * (a + n) - off)).length = 64 * (a + n) - off := by
        rw [List.length_take]
        omega
      have e2 : cellAddr sp (64 * (a + n)) = cellAddr sp off + (l.take (64 * (a + n) - off)).length := by
        rw [hlen, cellAddr_add (by omega)]
        congr 1
        omega
      rw [e2, ← memWrite_append]
      congr 1
      have e3 : 64 * (a + n + 1) - 64 * (a + n) = 64 := by omega
      have e4 : 64 * (a + (n + 1)) - off = (64 * (a + n) - off) + 64 := by omega
      rw [e3, e4, List.take_add]

theorem State.unhide_mem (s : State) (sp off n : Nat) : (s.unhide sp off n).mem = s.mem := by
  unfold State.unhide
  split <;> rfl

theorem State.unhide_decoded (s : State) (sp off n sp' l : Nat) : (s.unhide sp off n).decoded sp' l = s.decoded sp' l := by
  unfold State.unhide
  split <;> rfl

/-- A store over lines that read good writes exactly its bytes, and leaves every good line good. -/
theorem State.store_good (s : State) (plan : Bool) (sp off : Nat) (l : List Byte) (hl : off + l.length ≤ 2 ^ 40)
    (hg : ∀ x ∈ linesOf off l.length, s.lineGood sp x) :
    (s.store plan sp off l).mem = memWrite s.mem (cellAddr sp off) l ∧
      ∀ {sp' k}, s.lineGood sp' k → (s.store plan sp off l).lineGood sp' k := by
  unfold State.store
  obtain ⟨hm, hd⟩ : (if plan then s.unhide sp off l.length else s).mem = s.mem ∧
      ∀ sp' k, (if plan then s.unhide sp off l.length else s).lineGood sp' k ↔ s.lineGood sp' k := by
    unfold State.lineGood
    split
    · exact ⟨State.unhide_mem .., fun sp' k => by rw [State.unhide_decoded]⟩
    · exact ⟨rfl, fun _ _ => Iff.rfl⟩
  generalize (if plan then s.unhide sp off l.length else s) = u at hm hd ⊢
  rw [← hm]
  simp only [← hd] at hg ⊢
  clear hm hd s
  by_cases h0 : l.length = 0
  · have : l = [] := List.eq_nil_of_length_eq_zero h0
    subst this
    exact ⟨rfl, id⟩
  · unfold linesOf at hg ⊢
    rw [if_neg h0] at hg ⊢
    have h := State.store_lines plan sp off l hl (off / 64) rfl ((off + l.length - 1) / 64 - off / 64 + 1) u (by omega) (by
      intro k hk
      exact hg _ (List.mem_map.2 ⟨k, List.mem_range.2 hk, rfl⟩))
    refine ⟨?_, h.2⟩
    rw [h.1, List.take_of_length_le]
    omega

/-- No line of a range reads bad. -/
theorem State.good_of_badAt {s : State} {sp off n : Nat} (h : s.badAt sp off n = false) : ∀ x ∈ linesOf off n, s.lineGood sp x := by
  intro x hx
  unfold State.badAt at h
  rw [List.any_eq_false] at h
  have := h x hx
  unfold State.lineBad at this
  unfold State.lineGood
  split at this <;> simp_all

/-- What a store over good lines reads as after it. -/
theorem State.store_reads {s : State} (plan : Bool) (sp off : Nat) (l : List Byte) (hw : memWf s.mem = true)
    (hl : off + l.length ≤ 2 ^ 40) (hb : s.badAt sp off l.length = false) :
    (s.store plan sp off l).peek sp off l.length = l ∧ storesOnly s (s.store plan sp off l) sp off l.length := by
  have h := (State.store_good s plan sp off l hl (State.good_of_badAt hb)).1
  refine ⟨?_, fun c hc => ?_⟩
  · unfold State.peek
    rw [h]
    exact memRead_memWrite _ _ hw
  · rw [h]
    exact memGet_memWrite_out _ _ hw hc

/-- A read of `n` bytes gives `n` bytes. -/
theorem memRead_length (m : List Host.Cell) : ∀ a n : Nat, (memRead m a n).length = n
  | _, 0 => rfl
  | a, n + 1 => by simp [memRead, memRead_length m (a + 1) n]

theorem State.peek_length (s : State) (sp off n : Nat) : (s.peek sp off n).length = n := memRead_length _ _ _

end Sys2Proof.Machine
end

