-- ==== Sys2Proof/WellFormed.lean ====
section
/-! DEFINITION. Well-formed commands: every operand that names a part of the module names one that exists
(Tables 01.2, 02.4, 17.4), and a flit carries the payload its LEN gives (R62). -/

namespace Sys2Proof

/-- A Keep, 0–3. -/
def inKeep (n : Nat) : Bool := n < 4
/-- A Cupola or priority or VC, 0–7. -/
def inEight (n : Nat) : Bool := n < 8
/-- A collective engine, HBM stack or endpoint, 0–15. -/
def inSixteen (n : Nat) : Bool := n < 16
/-- A slot of a planned unit, 0–3. -/
def inSlot (n : Nat) : Bool := n < 4
/-- A tile, 0–255. -/
def inTile (n : Nat) : Bool := n < 256
/-- A torus direction, 0–5. -/
def inDir (n : Nat) : Bool := n < 6
/-- A session, 0–15 (R389). -/
def inSess (n : Nat) : Bool := n < 16
/-- A 48 V feed, 0–1. -/
def inFeed (n : Nat) : Bool := n < 2
/-- A power domain of Table 17.2. -/
def inDom (n : Nat) : Bool := n < 349
/-- A plan bank, 0–1. -/
def inBank (n : Nat) : Bool := n < 2
/-- A temperature sensor, 0–63. -/
def inSensor (n : Nat) : Bool := n < 64
/-- An output of a Keep, 0–5. -/
def inOut (n : Nat) : Bool := n < 6
/-- A direction of a link or a checkpoint stream, 0–1. -/
def inTwo (n : Nat) : Bool := n < 2
/-- A queue of a tile, 0–2. -/
def inQueue (n : Nat) : Bool := n < 3
/-- An endpoint or torus link. -/
def isLink (n : Nat) : Bool := n < 0x16
/-- A die-to-die link. -/
def isD2d (n : Nat) : Bool := (0x20 ≤ n && n < 0x26) || (0x40 ≤ n && n < 0x60)
/-- A command window, 0–63. -/
def inWindow (n : Nat) : Bool := n < 64
/-- Any link of Table 02.4. -/
def isAnyLink (n : Nat) : Bool := isLink n || isD2d n
/-- How many instances a block type has (Table 17.4). -/
def typeCount (ty : Nat) : Nat :=
  (([(0x01, 1), (0x02, 1), (0x03, 1), (0x10, 16), (0x11, 6), (0x12, 1), (0x20, 4), (0x30, 8), (0x31, 256), (0x32, 16),
    (0x33, 8), (0x34, 8), (0x35, 8), (0x40, 16), (0x50, 1), (0x51, 1), (0x52, 1), (0x53, 1), (0x54, 1)] :
    List (Nat × Nat)).find? fun e => e.1 = ty).elim 0 Prod.snd
/-- A page of Table 17.4. -/
def pageOk (p : PageId) : Bool := p.inst < typeCount p.ty
/-- A flit whose payload has the length its LEN states. -/
def flitOk (f : Flit) : Bool := f.payload.length = 16 * (f.hdr.toNat / 2 ^ 88 % 16)
/-- A source of open-plane requests. -/
def sourceOk : Source → Bool
  | .endpoint n => inSixteen n
  | .host => true
  | .moduleUnit e => inSixteen e
/-- A unit with an arithmetic page. -/
def unitOk : AUnit → Bool
  | .tile g => inTile g
  | .ce i => inSixteen i
  | .ue c => inEight c

/-- A command whose operands name parts of the module. -/
def Instr.wellFormed (i : Instr) : Bool :=
  match i with
  | .tickBoundary => true
  | .periodAtWrite _ => true
  | .nowLoRead => true
  | .stepLoRead => true
  | .markerReceive link _ => isLink link
  | .trimSaturated => true
  | .scheduledFlitReceive link f => isAnyLink link && flitOk f
  | .flitConsume link _ _ => isAnyLink link
  | .skipNotice d _ _ _ => inDir d
  | .throttleEvaluation _ _ _ => true
  | .skipNoticeIssue => true
  | .skipReq _ => true
  | .thrEnClear _ => true
  | .linkSignalDetect link => isLink link
  | .eqConverge link => isLink link
  | .lockAchieved link => isLink link
  | .latencyProbe link _ _ => isLink link
  | .probeEcho link _ _ => isLink link
  | .identity link _ dir => isLink link && inSixteen dir
  | .creditGrant link _ => isLink link
  | .trainStateTimeout link => isLink link
  | .lockLoss link => isLink link
  | .retrain link => isLink link
  | .linkEnWrite link _ => isLink link
  | .lineBlockReceive link data parity => isLink link && data.length = 270 && parity.length = 50
  | .nakReceive link _ => isLink link
  | .ackTimeout link _ => isLink link
  | .d2dRetry link dir k _ => isD2d link && inTwo dir && 1 ≤ k && k ≤ 64
  | .credTo n vc => inSixteen n && inEight vc
  | .openRequestInject src f => sourceOk src && flitOk f
  | .ingressSwitch link vc => isLink link && inEight vc
  | .reservationTimeout src _ => sourceOk src
  | .replyReceive src f => sourceOk src && flitOk f
  | .flitAged keep out vc => inKeep keep && inOut out && inEight vc
  | .tblDataWrite keep _ => inKeep keep
  | .flipAtWrite keep _ => inKeep keep
  | .routeFlip d _ _ _ => inDir d
  | .drainDeadline => true
  | .load bank => inBank bank
  | .planLoadDone => true
  | .switchAtWrite _ => true
  | .disarm _ => true
  | .egressAdmit keep out vc _ => inKeep keep && inOut out && inEight vc
  | .egressSend keep out => inKeep keep && inOut out
  | .spillWrite keep out vc => inKeep keep && inOut out && inEight vc
  | .spillReadback keep out vc _ => inKeep keep && inOut out && inEight vc
  | .ovfConfigWrite keep _ => inKeep keep
  | .hostFrameReceive _ => true
  | .hostIngressForward p => inEight p
  | .pfcRepeat p => inEight p
  | .pfcXon p => inEight p
  | .pfcFrameReceive _ _ => true
  | .pauseExpiry p => inEight p
  | .ethFrameReassembled vc => inEight vc
  | .hostFrameStart => true
  | .hostLinkUp => true
  | .hostLinkDown => true
  | .clipClr u => unitOk u
  | .ceReduce ce slot => inSixteen ce && inSlot slot
  | .ceAllReduce ce slot => inSixteen ce && inSlot slot
  | .ceReduceScatter ce slot => inSixteen ce && inSlot slot
  | .ceAllGather ce slot => inSixteen ce && inSlot slot
  | .ceBroadcast ce slot => inSixteen ce && inSlot slot
  | .ceAllToAll ce slot => inSixteen ce && inSlot slot
  | .ceGatherIdx ce slot => inSixteen ce && inSlot slot
  | .ceScatterIdx ce slot => inSixteen ce && inSlot slot
  | .ceSortMerge ce slot => inSixteen ce && inSlot slot
  | .ceTopkMerge ce slot => inSixteen ce && inSlot slot
  | .ceScan ce slot => inSixteen ce && inSlot slot
  | .ceAttnCombine ce slot => inSixteen ce && inSlot slot
  | .cePartialFold ce slot _ => inSixteen ce && inSlot slot
  | .atomAdd f => flitOk f
  | .atomAddFetch f => flitOk f
  | .atomIdleWriteback _ => true
  | .atomFlush c => inEight c
  | .atomWinWrite c _ => inEight c
  | .codecEncode c slot => inEight c && inSlot slot
  | .codecStore c slot => inEight c && inSlot slot
  | .codecPack24 c slot => inEight c && inSlot slot
  | .codecExpand c slot => inEight c && inSlot slot
  | .codedSliceReceive c _ => inEight c
  | .billinCopy g _ => inTile g
  | .fill g _ => inTile g
  | .gather g _ => inTile g
  | .scatter g _ => inTile g
  | .billinMma g _ => inTile g
  | .add g _ => inTile g
  | .sub g _ => inTile g
  | .mul g _ => inTile g
  | .fma g _ => inTile g
  | .max g _ => inTile g
  | .min g _ => inTile g
  | .div g _ => inTile g
  | .sqrt g _ => inTile g
  | .exp2 g _ => inTile g
  | .sign g _ => inTile g
  | .abs g _ => inTile g
  | .rsum g _ => inTile g
  | .rmax g _ => inTile g
  | .rmin g _ => inTile g
  | .fenceAcq g _ => inTile g
  | .fenceRel g _ => inTile g
  | .fenceFull g _ => inTile g
  | .flagSet g _ => inTile g
  | .flagWait g _ => inTile g
  | .flagWaitv g _ => inTile g
  | .flagWaitDone g q => inTile g && inQueue q
  | .tickBodyComplete g => inTile g
  | .tileStoreAccess g => inTile g
  | .prefetchComplete g => inTile g
  | .imemWdataWrite g _ _ => inTile g
  | .sort g _ => inTile g
  | .topk g _ => inTile g
  | .softmax g _ => inTile g
  | .attnPartial g _ => inTile g
  | .attnMerge g _ => inTile g
  | .libScan g _ => inTile g
  | .histogram g _ => inTile g
  | .filter g _ => inTile g
  | .ueNorm c slot => inEight c && inSlot slot
  | .ueFold c slot => inEight c && inSlot slot
  | .ueApply c slot => inEight c && inSlot slot
  | .ueStage c slot => inEight c && inSlot slot
  | .ueCommit c slot => inEight c && inSlot slot
  | .ueStepLoRead c => inEight c
  | .chkGo c _ => inEight c
  | .chkDone c => inEight c
  | .memRd f => flitOk f
  | .memWr f => flitOk f
  | .bulkRd f => flitOk f
  | .bulkWr f => flitOk f
  | .hbmWakeWait st => inSixteen st
  | .fstCommit => true
  | .fstRead => true
  | .sysGibWrite st _ => inSixteen st
  | .refreshRound st => inSixteen st
  | .stackMoverOut st slot => inSixteen st && inSlot slot
  | .stackMoverIn st slot => inSixteen st && inSlot slot
  | .stackMoverCopy st slot => inSixteen st && inSlot slot
  | .moverCopy k => inKeep k
  | .moverConvert k => inKeep k
  | .moverReply k f => inKeep k && flitOk f
  | .moverDrainDone k => inKeep k
  | .mvResume k => inKeep k
  | .mvAbort k => inKeep k
  | .correctedWriteback _ => true
  | .tripRewrite _ => true
  | .tripEnWrite _ => true
  | .mergeWriteback _ => true
  | .mergeEntryWait st => inSixteen st
  | .patrolRead _ => true
  | .scrubGo => true
  | .scrubAbort => true
  | .scrubGranule => true
  | .spotCheckComplete c _ => inEight c
  | .marginEvaluation _ _ _ => true
  | .neighbourSilent d => inDir d
  | .watchReport d _ => inDir d
  | .roundDecision => true
  | .digestReceive d _ _ => inDir d
  | .switchTick => true
  | .autoResume => true
  | .rbGo _ => true
  | .restoreCopyDone _ => true
  | .restoreCheckDone _ _ => true
  | .cmdResume => true
  | .cmdAbort => true
  | .cmdFabricReset => true
  | .commandReceive d _ => inDir d
  | .commandTakeEffect => true
  | .join _ => true
  | .joinAdopt d _ => inDir d
  | .watchPartnerWrite _ => true
  | .pairCheck _ => true
  | .flightStepLoRead => true
  | .declStepLoRead => true
  | .arpRequest _ => true
  | .neighborSolicitation _ => true
  | .moraecaReceive _ _ => true
  | .openSession sess => inSess sess
  | .closeSession sess => inSess sess
  | .regRd sess => inSess sess
  | .regWr sess => inSess sess
  | .moraecaBulkRd sess => inSess sess
  | .moraecaBulkWr sess => inSess sess
  | .streamOpen sess => inSess sess
  | .streamData i _ _ => inTwo i
  | .streamAck i _ => inTwo i
  | .streamRto i => inTwo i
  | .streamReadReply i f => inTwo i && flitOk f
  | .eventAck _ _ => true
  | .evtRto => true
  | .evtEnWrite _ => true
  | .sessionTimeout sess => inSess sess
  | .holdTimeout sess _ => inSess sess
  | .cwNop w => inWindow w
  | .cwRegWr w => inWindow w
  | .cwMove w => inWindow w
  | .cwPlanLoad w => inWindow w
  | .cwPlanSwitch w => inWindow w
  | .cwRecordComplete w => inWindow w
  | .registerWrite _ _ => true
  | .pgErrWrite p _ => pageOk p
  | .softRst p => pageOk p
  | .freeze p _ => pageOk p
  | .lock p => pageOk p
  | .feedBad feed => inFeed feed
  | .feedSenseOpen feed => inFeed feed
  | .feedGood feed => inFeed feed
  | .feedReturn => true
  | .holdupExpiry => true
  | .coolantConfirm => true
  | .coolOkChange _ _ => true
  | .tripPeakPower => true
  | .tripSustainedPower => true
  | .tripTemperature sensor _ _ => inSensor sensor
  | .tripFlow _ => true
  | .tripInlet _ => true
  | .enterP3 _ => true
  | .leaveP3 _ => true
  | .enterP4 _ => true
  | .moduleReset _ => true
  | .resetNAssert => true
  | .resetNRelease _ => true
  | .wakeN => true
  | .shdnN _ => true
  | .powerRestored => true
  | .domainWake dom => inDom dom
  | .bootPhaseComplete _ => true
  | .bootPhaseTimeout _ => true
  | .calSave => true
  | .bpSave => true
  | .bpLoad => true
  | .updGo _ => true
  | .updateComplete => true
  | .fwCommit _ => true
  | .fkeyRevoke _ _ => true
  | .enroll => true
  | .revoke => true
  | .keySave => true
  | .testReq => true
  | .dbgReq => true
  | .attGo => true
  | .attReportReady => true
  | .attDataRead => true
  | .vaneReading _ _ _ _ _ => true
  | .vaneCommit => true
  | .tamperBreak => true
  | .vaneMirror _ => true
  | .vaneStale => true
  | .vmSeqLoRead => true
  | .vmSigDataRead => true
  | .p3EntryComplete => true
  | .p3ExitComplete => true
  | .calSaveComplete => true
  | .bpSaveComplete => true

end Sys2Proof
end

