-- ==== Sys2Proof/Tests/Slice0.lean ====
section
/-! SUPPORT. Tests: ill-formed commands refused, the specification's worked examples, and for every statement with hypotheses
a state and operands that meet them. -/

namespace Sys2Proof.Tests

open Sys2Proof Sys2Proof.Machine

-- One theorem after another: side by side, the threads of these evaluations would need more memory than a check has.
set_option Elab.async false

/-! ## Builders -/

/-- The state after reset with register fields written. -/
def withRegs (l : List (PageId × Reg × Nat)) : State := l.foldl (fun s x => s.put x.1 x.2.1 0 x.2.2) State.reset

/-- A marker of a joined module. -/
def aMarker : Marker :=
  { tick := 0x123, perU := 0x20, joined := true, skipped := false, trimSat := false, trim := 0, step := 7 }

/-- A WATCH message of a type and class. -/
def aMsg (type cls c : Nat) : WatchMsg :=
  { type := type, cls := cls, c := c, key := 0x44, td := 2, entry := 0, digest := 0, origin := 5 }

/-- A memory request flit for this module's unit. -/
def aReq (op tag : Nat) (payload : List Byte) : Flit :=
  FlitSpec.flit { kind := 1, vc := 0, dst := 0, dstM := true, src := 0, srcM := false, tick := 0, tag := tag, opcode := op,
                  payload := payload }

/-- A reply flit with a tag and a status. -/
def aReply (tag status : Nat) : Flit :=
  FlitSpec.flit { kind := 2, vc := 2, dst := 0, dstM := true, src := 0, srcM := true, tick := 0, tag := tag, opcode := 1,
                  status := status }

/-- A poisoned flit. -/
def poisoned (f : Flit) : Flit := f.setField 7 1 1

/-- A sender. -/
def aSrc : NetSrc := { mac := 0x020000000001, v6 := false, ip := 0x0A000001, port := 48752, vid := none }

/-! ## Ill-formed commands (Tables 01.2, 02.4, 17.4, R62) -/

theorem test_wf_link : Instr.wellFormed (.eqConverge 0x16) = false ∧ Instr.wellFormed (.eqConverge 0x15) = true := by decide
theorem test_wf_anyLink : Instr.wellFormed (.flitConsume 0x26 0 0) = false ∧ Instr.wellFormed (.flitConsume 0x25 0 0) = true ∧
    Instr.wellFormed (.flitConsume 0x60 0 0) = false ∧ Instr.wellFormed (.flitConsume 0x5F 0 0) = true := by decide
theorem test_wf_d2d : Instr.wellFormed (.d2dRetry 0x15 0 1 true) = false ∧ Instr.wellFormed (.d2dRetry 0x40 2 1 true) = false ∧
    Instr.wellFormed (.d2dRetry 0x40 1 1 true) = true := by decide
theorem test_wf_dir : Instr.wellFormed (.neighbourSilent 6) = false ∧ Instr.wellFormed (.neighbourSilent 5) = true := by decide
theorem test_wf_keep : Instr.wellFormed (.mvAbort 4) = false ∧ Instr.wellFormed (.mvAbort 3) = true := by decide
theorem test_wf_eight : Instr.wellFormed (.chkDone 8) = false ∧ Instr.wellFormed (.chkDone 7) = true := by decide
theorem test_wf_sixteen : Instr.wellFormed (.refreshRound 16) = false ∧ Instr.wellFormed (.refreshRound 15) = true := by decide
theorem test_wf_slot : Instr.wellFormed (.ceScan 0 4) = false ∧ Instr.wellFormed (.ceScan 15 3) = true := by decide
theorem test_wf_tile : Instr.wellFormed (.fill 256 0) = false ∧ Instr.wellFormed (.fill 255 0) = true := by decide
theorem test_wf_queue : Instr.wellFormed (.flagWaitDone 0 3) = false ∧ Instr.wellFormed (.flagWaitDone 0 2) = true := by decide
theorem test_wf_sess : Instr.wellFormed (.regRd 16) = false ∧ Instr.wellFormed (.regRd 15) = true := by decide
theorem test_wf_feed : Instr.wellFormed (.feedGood 2) = false ∧ Instr.wellFormed (.feedGood 1) = true := by decide
theorem test_wf_dom : Instr.wellFormed (.domainWake 349) = false ∧ Instr.wellFormed (.domainWake 348) = true := by decide
theorem test_wf_bank : Instr.wellFormed (.load 2) = false ∧ Instr.wellFormed (.load 1) = true := by decide
theorem test_wf_sensor : Instr.wellFormed (.tripTemperature 64 0 0) = false ∧
    Instr.wellFormed (.tripTemperature 63 0 0) = true := by decide
theorem test_wf_out : Instr.wellFormed (.egressSend 0 6) = false ∧ Instr.wellFormed (.egressSend 0 5) = true := by decide
theorem test_wf_window : Instr.wellFormed (.cwNop 64) = false ∧ Instr.wellFormed (.cwNop 63) = true := by decide
theorem test_wf_page : Instr.wellFormed (.lock ⟨0x30, 8⟩) = false ∧ Instr.wellFormed (.lock ⟨0x99, 0⟩) = false ∧
    Instr.wellFormed (.lock ⟨0x31, 255⟩) = true := by decide
theorem test_wf_unit : Instr.wellFormed (.clipClr (.ce 16)) = false ∧ Instr.wellFormed (.clipClr (.ue 8)) = false ∧
    Instr.wellFormed (.clipClr (.tile 255)) = true := by decide
theorem test_wf_source : Instr.wellFormed (.openRequestInject (.endpoint 16) (aReq 1 0 [])) = false ∧
    Instr.wellFormed (.openRequestInject .host (aReq 1 0 [])) = true := by decide +kernel
theorem test_wf_flit : Instr.wellFormed (.memRd { aReq 1 0 [] with payload := [0] }) = false ∧
    Instr.wellFormed (.memRd (aReq 1 0 (List.replicate 16 0))) = true := by decide +kernel

/-! ## Worked examples of the specification -/

/-- The check value of R67. -/
theorem test_crc32c : crc32c [0x31, 0x32, 0x33, 0x34, 0x35, 0x36, 0x37, 0x38, 0x39] = 0xE3069283 := by decide +kernel

/-- Fabric addresses of the example of R11: HBM of (3,17,30), and PG_CTL of Keep 2. -/
theorem test_address : faSpace 0x1C7C000A00001000 = 0 ∧ faOff 0x1C7C000A00001000 = 0x0A00001000 ∧
    cX (faHome 0x1C7C000A00001000) = 3 ∧ cY (faHome 0x1C7C000A00001000) = 17 ∧ cZ (faHome 0x1C7C000A00001000) = 30 ∧
    faSpace 0x0000030000220008 = 3 ∧ pageAt (faOff 0x0000030000220008) = some (pgKeep 2) ∧
    faOff 0x0000030000220008 % 0x1000 = Hdr.EN.off := by decide +kernel

/-- PG_ERR of CE 13 (example of R411). -/
theorem test_page : pageAt 0x01641010 = some (pgCe 13) ∧ (pgCe 13).ty = 0x32 := by decide +kernel

/-- The request header of the example of R85. -/
def routedRequest : Flit :=
  FlitSpec.flit { kind := 1, vc := 0, dst := 0x04490, dstM := true, src := 0x78457, srcM := false, tick := 0x3F10, tag := 0x123,
                  opcode := 1, payload := List.replicate 16 0 }
theorem test_flit : routedRequest.hdr.toNat % 2 ^ 112 = 0x0000210101233F10FC22B8449001 := by decide +kernel

/-- The route of that request: X+ on REQ-a, the dateline on REQ-b, and Z+ on REQ-a. -/
def routeFlit (vc : Nat) : Flit :=
  FlitSpec.flit { kind := 1, vc := vc, dst := 0x04490, dstM := true, src := 0x78457, srcM := false, tick := 0, tag := 0x123, opcode := 1 }
def routeState (x y z : Nat) : State :=
  withRegs [(pgKeep 0, Kr.COORD, x * 2 ^ 10 + y * 2 ^ 5 + z), (pgKeep 0, Kr.EXTENT, 31 * 2 ^ 10 + 3 * 2 ^ 5 + 15)]
theorem test_route : (routeState 30 2 5).nextHop 0 (routeFlit 0) none = some 0 ∧
    (routeState 30 2 5).hopVc (routeFlit 0) none 0 = 0 ∧
    (routeState 31 2 5).nextHop 0 (routeFlit 0) (some 0) = some 0 ∧ (routeState 31 2 5).hopVc (routeFlit 0) (some 0) 0 = 1 ∧
    (routeState 0 2 5).hopVc (routeFlit 1) (some 0) 0 = 1 ∧
    (routeState 1 2 5).nextHop 0 (routeFlit 1) (some 0) = some 4 ∧ (routeState 1 2 5).hopVc (routeFlit 1) (some 0) 4 = 0 ∧
    (routeState 1 2 9).nextHop 0 (routeFlit 0) (some 4) = none := by decide +kernel

/-- The conversions of the example of R164. -/
def convOf (f : Nat) (sat : Bool) (x : Nat) : Nat × Bool :=
  ((conv f .rne sat (decodeVal fFP32 x)).enc, (conv f .rne sat (decodeVal fFP32 x)).clip)
theorem test_conversions : convOf fE4M3 false 0x43E80000 = (0x7E, false) ∧ convOf fE4M3 false 0x43E88000 = (0x7E, true) ∧
    convOf fE5M2 false 0x47700000 = (0x7C, true) ∧ convOf fE5M2 true 0x47800000 = (0x7B, true) ∧
    convOf fE4M3 false 0xBA800000 = (0x80, false) := by decide +kernel

/-- The sum of the example of R144, in SPW96 and rounded to BF16. -/
def bf (x : Nat) : Val := decodeVal fBF16 x
theorem test_sum : spwEnc (bf 0x3F80) = 0x3FFF00000000000000000000 ∧ spwEnc (bf 0x3B00) = 0x3FF600000000000000000000 ∧
    spwEnc (blockSum 0 0 [bf 0x3F80, bf 0x3B00, bf 0x3B00, bf 0x3B00]).1 = 0x3FFF01800000000000000000 ∧
    (conv fBF16 .rne false (blockSum 0 0 [bf 0x3F80, bf 0x3B00, bf 0x3B00, bf 0x3B00]).1).enc = 0x3F81 := by decide +kernel

/-- The MX block of the example of R152. -/
theorem test_mx : (convBlock fE4M3 (fun _ => .rne) false id (fun _ => (fFP32, 0)) ([0x42C80000, 0x40533333, 0xBC23D70A].map (decodeVal fFP32))).1 = 0x7D ∧
    (convBlock fE4M3 (fun _ => .rne) false id (fun _ => (fFP32, 0)) ([0x42C80000, 0x40533333, 0xBC23D70A].map (decodeVal fFP32))).2.1 =
      [0x7C, 0x55, 0x92] := by decide +kernel

/-- The frame-table entry of the example of R319. -/
theorem test_fst : fstValid [0x5419, 0xC20, 1, 0x10201] = true ∧ fstRd [0x5419, 0xC20, 1, 0x10201] = true ∧
    fstWr [0x5419, 0xC20, 1, 0x10201] = true ∧ fstSize [0x5419, 0xC20, 1, 0x10201] = 21 ∧
    fstLog [0x5419, 0xC20, 1, 0x10201] = 0xC20 ∧ fstVbase [0x5419, 0xC20, 1, 0x10201] = 2 ^ 21 ∧
    fstLbase [0x5419, 0xC20, 1, 0x10201] = 0x2040200000 := by decide +kernel

/-- The REG_RD of the example of R395: the request, and the reply that session 3 caches. -/
def regRdMsg : List Byte :=
  [0x4D, 0x4F, 0x52, 0x41, 0x01, 0x10, 0x00, 0x00, 0x03, 0x00, 0x02, 0x00, 0x05, 0x01, 0x00, 0x00,
   0x10, 0x00, 0x00, 0x00, 0x00, 0x00, 0x00, 0x00, 0x0C, 0x11, 0x00, 0x00, 0x00, 0x03, 0x00, 0x00,
   0x10, 0x11, 0x00, 0x00, 0x00, 0x03, 0x00, 0x00]
def regRdReply : List Byte :=
  [0x4D, 0x4F, 0x52, 0x41, 0x01, 0x10, 0x01, 0x00, 0x03, 0x00, 0x02, 0x00, 0x05, 0x01, 0x00, 0x00,
   0x10, 0x00, 0x00, 0x00, 0x10, 0x3F, 0x4A, 0x2C, 0x10, 0x3F, 0x4A, 0x2C, 0x00, 0x00, 0x00, 0x00,
   0x01, 0x00, 0x00, 0x80, 0x00, 0x00, 0x00, 0x00]
def regRdSession : Session :=
  { owner := aSrc, next := 0x105, held := [], replies := [], exec := some (Exec.start ⟨aSrc, regRdMsg, 0⟩), last := 0 }
def regRdState : State :=
  ((withRegs [(pgBelfry, Bel.JOINED, 1)]).setBelfry { State.reset.belfry with tick := 0x12C4A3F10 }).setSession 3 regRdSession
theorem test_regRd_request : mGood regRdMsg = true ∧ mType regRdMsg = 0x10 ∧ mSess regRdMsg = 3 ∧ mSeq regRdMsg = 0x105 ∧
    mHeadBad regRdMsg = false ∧ mBodyBad regRdMsg = false := by decide +kernel
theorem test_regRd_reply : (match exec (.regRd 3) regRdState with
    | .next t => (AL.get t.sessions 3).map fun y => (y.next, y.replies)
    | _ => none) = some (0x106, [(0x105, regRdReply)]) := by decide +kernel

/-! ## Witnesses: the queue, what every command keeps, the Belfry

Each theorem shows, clause by clause, states and operands that meet the hypotheses of the statement it is named for. -/

theorem test_witness_StepRunsFrontCommand : (State.reset.withPending [.nowLoRead]).pending = .nowLoRead :: [] := rfl
theorem test_witness_EmptyQueueIsOneCycle : State.reset.pending = [] := rfl
theorem test_witness_StepKeepsSafe : Safe State.reset ∧ ∃ t, step State.reset = .next t :=
  ⟨⟨by decide, by decide, by decide⟩, _, rfl⟩
theorem test_witness_FusesOnlyBurn : ∃ t, step { State.reset with fuses := ⟨[], 1, 0⟩ } = .next t ∧ (1 : Nat).testBit 0 = true :=
  ⟨_, rfl, by decide⟩
theorem test_witness_EnergyOnlyIncreases : ∃ t, step State.reset = .next t := ⟨_, rfl⟩
theorem test_witness_TamperIsPermanent :
    ∃ t, step { State.reset with vane := { State.reset.vane with tamper := true } } = .next t := ⟨_, rfl⟩
theorem test_witness_OnlyBoundariesMoveTheTick : Instr.nowLoRead ≠ .tickBoundary ∧ (∀ d m, Instr.nowLoRead ≠ .joinAdopt d m) ∧
    (∀ l f b, Instr.nowLoRead ≠ .lineBlockReceive l f b) ∧ ∃ t, exec .nowLoRead State.reset = .next t :=
  ⟨nofun, nofun, nofun, _, rfl⟩
theorem test_witness_BoundaryAdvancesTheTick : State.running { State.reset with clock := 8192 } = true ∧
    State.reset.belfry.tickStart + State.reset.belfry.tickLen ≤ 8192 ∧ State.reset.waiting = [] ∧
    State.reset.clock < State.reset.belfry.tickStart + State.reset.belfry.tickLen := by decide
theorem test_witness_NowReadNamesOneTick : State.reset.now < 2 ^ 48 := by decide
theorem test_witness_StepReadsLatchTheirUpperHalf : State.reset.belfry.stepCount < 2 ^ 48 ∧ State.reset.watch.flight < 2 ^ 48 ∧
    State.reset.watch.decl < 2 ^ 48 ∧ 7 < 8 := by decide
theorem test_witness_PeriodWriteArms : tickLater (State.reset.periodAt 1) State.reset.now = true ∧
    tickLater (State.reset.periodAt 0) State.reset.now = false := by decide

/-- The tick `n` has been reached. -/
def atTick (n : Nat) (s : State) : State := s.setBelfry { s.belfry with tick := n }

theorem test_witness_SkipNoticeIsMarkedOnce :
    (State.reset.floodedBefore 0x31 1023 = false ∧ tickLater 1023 State.reset.now = true ∧ tickSub 1023 State.reset.now ≤ 1023) ∧
    (State.reset.rememberFlood 0x31 5).floodedBefore 0x31 5 = true ∧
    (State.reset.floodedBefore 0x31 0 = false ∧ tickLater 0 State.reset.now = false) ∧
    (State.reset.floodedBefore 0x31 1024 = false ∧ tickLater 1024 State.reset.now = true ∧
      1023 < tickSub 1024 State.reset.now) := by decide

/-- A module whose throttle has a notice due. -/
def throttled : State :=
  let s := withRegs [(pgBelfry, Bel.F, 1), (pgBelfry, Bel.HOST_EN, 1)]
  s.setBelfry { s.belfry with thrLive := true }
theorem test_witness_SkipsAreIssuedLeadAhead :
    throttled.floodedBefore 0x31 (tickAdd throttled.now (throttled.rd pgBelfry Bel.LEAD 0)) = false ∧
    (bit 1 0 = true ∧ throttled.rdb pgBelfry Bel.HOST_EN 0 = true) ∧
    (throttled.belfry.thrLive = true ∧ throttled.rdb pgBelfry Bel.THR_EN 0 = true ∧ throttled.noticeDue = true ∧
      throttled.belfry.thrLast ≠ some throttled.now) := by decide
theorem test_witness_ThrottleEvaluationSetsF :
    (throttled.throttleDue = false ∧ State.throttleDue (atTick 64 throttled) = true ∧ State.reset.throttleDue = true) ∧
    (withRegs [(pgBelfry, Bel.THR_EN, 0)]).rdb pgBelfry Bel.THR_EN 0 = false ∧
    (State.rdb (withRegs [(pgButtress, But.COOL_OK, 1)]) pgBelfry Bel.THR_EN 0 = true ∧
      State.rdb (withRegs [(pgButtress, But.COOL_OK, 1)]) pgButtress But.COOL_OK 0 = true ∧
      State.rd (withRegs [(pgButtress, But.COOL_OK, 1)]) pgBelfry Bel.F 0 < 64 ∧
      State.rd (withRegs [(pgButtress, But.COOL_OK, 1)]) pgBelfry Bel.MAX_SKIP 0 < 64) := by decide

/-- A module that has joined. -/
def joinedState : State := withRegs [(pgBelfry, Bel.JOINED, 1)]
theorem test_witness_MarkerSkewIsRecorded : (joinedState.joined = true ∧ aMarker.joined = true ∧ 5 < 6 ∧ 15 < 16) ∧
    (State.reset.joined = false ∧ { aMarker with joined := false }.joined = false) ∧
    (tickDiff { aMarker with tick := 0, step := 0 }.tick joinedState.now = 0 ∧
      16 * (joinedState.markerSkew 0x15 { aMarker with tick := 0, step := 0 }).natAbs ≤
        joinedState.rd pgBelfry Bel.WIN 0 * joinedState.period ∧
      aMarker.perU % 512 = joinedState.rd pgBelfry Bel.PER_CUR 0 ∧ 0 % 2 ^ 32 = joinedState.belfry.stepCount % 2 ^ 32) := by decide
theorem test_witness_TrimSaturatesAndThrottleStops :
    (64 ≤ (State.reset.setBelfry { State.reset.belfry with trimRun := 64 }).belfry.trimRun ∧
      (State.reset.setBelfry { State.reset.belfry with trimRun := 64 }).belfry.trimSat = false) ∧
    (State.reset.raw pgBelfry Hdr.LOCK 0 ≠ 1 ∧ State.reset.rdb pgBelfry Bel.THR_EN 0 = true) := by decide

/-! ## Witnesses: the scheduled plane -/

/-- An image of one step: a RECV record (link 0x10, stream 9, one flit at flit time 3), and the records of streams 9 (plain)
and 7 (coded, for engine 0), of one chunk each. -/
def planBytes : List Byte :=
  padTo 0x80 (leBytes 6 0 ++ leBytes 2 2 ++ leBytes 8 0 ++ leBytes 4 1) ++
    (leBytes 4 2 ++ leBytes 4 0xA0 ++ leBytes 4 16 ++ leBytes 4 1) ++
    (leBytes 4 1 ++ leBytes 4 0xB0 ++ leBytes 4 32 ++ leBytes 4 2) ++
    (leBytes 3 0 ++ leBytes 1 0x10 ++ leBytes 1 0 ++ leBytes 1 2 ++ leBytes 2 1 ++ leBytes 4 3 ++ leBytes 4 9) ++
    (leBytes 4 9 ++ leBytes 1 2 ++ leBytes 1 0x20 ++ leBytes 2 0 ++ leBytes 8 1) ++
    (leBytes 4 7 ++ leBytes 1 3 ++ leBytes 1 0x10 ++ leBytes 2 0 ++ leBytes 8 1)

/-- A joined module whose bank A is in force with that image. -/
def planned : State :=
  let s := withRegs [(pgBelfry, Bel.JOINED, 1), (pgKeep 0, Pln.A_STATE, 3), (pgKeep 0, Slt.LAND_SIZE, 256)]
  { s with bankA := some { image := planBytes, pins := [], pages := [], parms := [] }, clock := 100
           sched := { s.sched with prev := { tick := 0, bank := 0, step := 0, var := 0, runs := true } } }

/-- A scheduled flit of a stream with a stamp. -/
def schedFlit (sid tick : Nat) : Flit :=
  FlitSpec.flit { kind := 0, vc := 0, dst := sid, dstM := false, src := 0, srcM := false, tick := tick, tag := 0, opcode := 0 }
/-- The planned module in tick 1, the plan state of tick 0 behind it. -/
def plannedNext : State := atTick 1 planned

theorem test_witness_ScheduledFlitLands :
    ((schedFlit 9 0).kind = 0 ∧ 0x15 < 0x16 ∧ ((schedFlit 9 0).setField 112 16 0).hcrcOk = false ∧ (schedFlit 9 0).hcrcOk = true ∧
      State.reset.joined = false ∧ planned.joined = true) ∧
    (∀ p, p = planned.planTick → planned.checkedBy 0x10 (schedFlit 9 0) p ∧
      planned.schedOk p 0x10 (fullStamp planned.now 0) (schedFlit 9 0) = true ∧
      planned.schedOk p 0x10 (fullStamp planned.now 0) (schedFlit 8 0) = false) ∧
    (planned.landedBytes (keepOfLink 0x10) 0 + 256 ≤ planned.landRoom (keepOfLink 0x10) 0 ∧ (schedFlit 9 0).epoch = 0 ∧
      State.landRoom (withRegs [(pgKeep 0, Slt.LAND_SIZE, 0)]) 0 0 < State.landedBytes (withRegs []) 0 0 + 256) := by
  refine ⟨by decide +kernel, fun p h => ?_, by decide +kernel⟩
  subst h
  exact ⟨Or.inl ⟨by decide +kernel, rfl⟩, by decide +kernel, by decide +kernel⟩
theorem test_witness_ScheduledFlitLands_late :
    (tickDiff (fullStamp plannedNext.now (schedFlit 9 0).tick16) plannedNext.now = -1 ∧
      plannedNext.sched.prev.tick = fullStamp plannedNext.now (schedFlit 9 0).tick16 ∧ plannedNext.planTick.runs = true ∧
      plannedNext.flitTimeOf plannedNext.sched.prev 0x10 (schedFlit 9 0) = some 3 ∧ flitOffset 0x10 3 < plannedNext.offset ∧
      State.offset { plannedNext with clock := 0 } ≤ flitOffset 0x10 3 ∧
      State.schedOk { plannedNext with clock := 0 } plannedNext.sched.prev 0x10 0 (schedFlit 9 0) = true) ∧
    tickDiff (fullStamp planned.now (schedFlit 9 1).tick16) planned.now = 1 ∧
    (tickDiff (fullStamp planned.now (schedFlit 9 2).tick16) planned.now = 2 ∧
      tickDiff (fullStamp (atTick 2 planned).now (schedFlit 9 0).tick16) (atTick 2 planned).now = -2) := by decide +kernel

/-- The planned module with that flit landed in the tick that its plan state is of. -/
def landedState : State := planned.setSched { planned.sched with landing := [(0x10, 0, schedFlit 9 0)] }
theorem test_witness_FlitIsConsumedOnce :
    (planned.consumeImage = some planBytes ∧ posOf (recvTimes planBytes planned.sched.prev 0x10 9) 3 = some 0 ∧
      flitOffset 0x10 3 ≤ planned.offset) ∧
    (planned.sched.taken.contains (0x10, 9, 0) = false ∧ planned.bindersOf 9 0 = [] ∧ planned.arrays.flits = []) ∧
    (landedState.consumeImage = some planBytes ∧ landedState.landed 0x10 9 landedState.sched.prev.tick 0 = some (schedFlit 9 0) ∧
      imgStream planBytes 9 =
        some { sid := 9, coded := false, terminal := true, origin := false, sink := 0x20, ovf := 0, chunks := 1 }) ∧
    (planned.landed 0x10 9 planned.sched.prev.tick 0 = none ∧ planned.codedEnd planBytes 0x10 9 planned.sched.prev.tick 0 = false) ∧
    State.consumeImage (planned.setSched { planned.sched with taken := [(0x10, 9, 0)] }) = some planBytes ∧
    (planned.setSched { planned.sched with taken := [(0x10, 9, 0)] }).sched.taken.contains (0x10, 9, 0) = true := by
  decide +kernel

/-! ## Witnesses: the protected arrays, the atomic windows, the frame table -/

/-- A state with errors on a line. -/
def withErrors (sp line : Nat) (e : List (Nat × Nat)) : State :=
  State.reset.setArrays { State.reset.arrays with symErr := [((sp, line), e)] }
/-- A state with a corrected line, and 48 merge entries of stack 0 written at clock 0 and later, at a clock. -/
def mergeState (clock : Nat) : State :=
  { State.reset with
    arrays := { State.reset.arrays with corrected := [(spTile, 5)], merge := (List.range 48).map fun i => ⟨0, i, false, i⟩ }
    clock := clock }
theorem test_witness_LinesAreWrittenBack :
    (5 < 2 ^ 34 ∧ (mergeState 0).arrays.corrected.contains (spTile, 6) = false ∧
      (mergeState 0).arrays.corrected.contains (spTile, 5) = true) ∧
    (∀ m ∈ (mergeState 15).arrays.merge, m.line = 0 → (mergeState 15).clock < m.last + 16) ∧
    (∃ m ∈ (mergeState 16).arrays.merge, m.line = 0 ∧ m.last + 16 ≤ (mergeState 16).clock) ∧
    (mergeState 0).mergeFull false 1 = false ∧ (mergeState 0).mergeFull false 0 = true ∧
    oldestEntry ((mergeState 0).arrays.merge.filter fun e => e.st = 0 && !e.plan) = some ⟨0, 0, false, 0⟩ := by decide +kernel

/-- The header line of a flit at the head of an input buffer of Keep 0 has symbol errors. -/
def flitState (errs : List (Nat × Nat)) : State := State.reset.setArrays { State.reset.arrays with flits := [⟨.input 0x10 0, true, errs⟩] }
theorem test_witness_PatrolReadsALine : (5 < 2 ^ 34 ∧ spTile = spTile ∧ 3 ≠ spTile ∧ 3 ≠ spDrum ∧ 2 ^ 22 ≤ 2 ^ 22 ∧ 0 < 2 ^ 22) ∧
    (∃ e ∈ (flitState [(0, 1)]).arrays.flits, e.place.keep = 0 / 2 ^ 20 ∧ e.outcome = .corrected) ∧
    (∃ e ∈ (flitState [(0, 1), (1, 2), (2, 3)]).arrays.flits, e.place.keep = 0 / 2 ^ 20 ∧ e.outcome = .uncorrectable) ∧
    (∃ e ∈ (flitState [(64, 1)]).arrays.flits, e.place.keep = 0 / 2 ^ 20 ∧ e.outcome = .address) ∧
    (∀ e ∈ (flitState [(69, 0xA5)]).arrays.flits, e.place.keep = 0 / 2 ^ 20 → e.outcome = .clean ∨ e.outcome = .poisoned) ∧
    (withErrors spTile 5 [(0, 1), (1, 1), (2, 1)]).decoded spTile 5 = .uncorrectable ∧
    (withErrors spDrum 5 [(64, 1)]).decoded spDrum 5 = .address ∧
    (withErrors spTile 5 [(0, 1)]).decoded spTile 5 = .corrected ∧
    (withErrors spTile 5 [(69, 0xA5)]).decoded spTile 5 = .poisoned ∧ State.reset.decoded spTile 5 = .clean := by decide

/-- A module whose window of Cupola 1 holds line 9 since tick 0. -/
def atomState (tick : Nat) : State :=
  atTick tick { withRegs [(pgDrum 1, Drm.WIN_CUR, 1), (pgDrum 1, Drm.ATOM_IDLE, 2)] with atoms := [⟨1, 0, 9, 0⟩] }
theorem test_witness_IdleAtomsReturnToHbm :
    ((atomState 3).atomHeld 9 = some ⟨1, 0, 9, 0⟩ ∧ (atomState 3).atomIdle ⟨1, 0, 9, 0⟩ = true ∧
      (atomState 3).atomBad spDrum ((atomState 3).atomLine ⟨1, 0, 9, 0⟩) = false ∧ memWf (atomState 3).mem = true) ∧
    State.atomBad { atomState 3 with arrays := (withErrors spDrum ((atomState 3).atomLine ⟨1, 0, 9, 0⟩) [(69, 0xA5)]).arrays }
      spDrum ((atomState 3).atomLine ⟨1, 0, 9, 0⟩) = true ∧
    (atomState 2).atomIdle ⟨1, 0, 9, 0⟩ = false ∧ (atomState 3).atomHeld 8 = none := by decide +kernel
theorem test_witness_WindowsFlushAndResize : (7 < 8 ∧ 8 ≤ 8) ∧ 256 < 257 % 512 ∧
    (256 % 512 ≤ 256 ∧ planned.banksEmpty = false) ∧ State.reset.banksEmpty = true := by decide
theorem test_witness_EntryReadAndClipClear : pageValid (auPage (.tile 255)) = true ∧ 7 < 8 := by decide

/-- A state whose frame-table data name a segment of 2 MiB, or nothing valid. -/
def fstInput (w0 : Nat) (l : List (PageId × Reg × Nat)) : State :=
  let s := withRegs l
  (((s.put (pgKeep 0) Fst.FST_DATA 0 w0).put (pgKeep 0) Fst.FST_DATA 1 0xC20).put (pgKeep 0) Fst.FST_DATA 2 1).put
    (pgKeep 0) Fst.FST_DATA 3 0x10201
theorem test_witness_FrameTableCommit :
    ((fstInput 0x5419 []).fstRefusal 0 ((fstInput 0x5419 []).fstData 0) = none ∧
      fstMirrored ((fstInput 0x5419 []).fstData 0) = false) ∧
    ((fstInput 0x0019 []).fstRefusal 0 ((fstInput 0x0019 []).fstData 0)).isSome = true ∧
    (fstInput 0x0019 []).rdb (pgKeep 0) Fst.FST_ERR_V 0 = false ∧
    (fstInput 0x0019 [(pgKeep 0, Fst.FST_ERR_V, 1)]).rdb (pgKeep 0) Fst.FST_ERR_V 0 = true := by decide +kernel

/-! ## Witnesses: planned units -/

/-- A run in slot 0 of a unit, at step `k` of its object. -/
def runAt (kind unit k : Nat) (obj : List Byte) : Run :=
  { kind := kind, unit := unit, slot := 0, bank := 0, off := 0, step := 0, obj := obj, k := k, done := false, stop := false,
    held := [], taken := [], stepNo := 0, tag := none, lr := 0, clip := 0, acc := 0, bad := false, terms := [], frz := [], classes := [],
    torn := [] }
/-- The planned module with one run, and the chunks of some streams consumed. -/
def runState (r : Run) (sids : List Nat) : State :=
  let s := { planned with runs := [r] }
  s.setSched { s.sched with inbox := sids.map fun i => ((i, 0), { op := 0, poison := false, bytes := List.replicate 240 0 }) }
/-- An object that names stream `sid` in bytes 4–7: a job, a pass, a transfer of 480 bytes in slices of 240 from 0 to 0x1000. -/
def objOf (job sid : Nat) : List Byte :=
  padTo 0x30 (leBytes 1 job ++ leBytes 1 2 ++ leBytes 2 0 ++ leBytes 4 sid ++ leBytes 8 0 ++ leBytes 8 0 ++ leBytes 8 480 ++
    leBytes 4 240 ++ leBytes 4 sid)
/-- A descriptor whose only binding takes stream `sid` as the leaf of this module's one endpoint. -/
def ceObj (op sid : Nat) : List Byte :=
  leBytes 1 op ++ leBytes 3 0 ++ leBytes 1 2 ++ leBytes 1 0 ++ leBytes 2 1 ++ leBytes 1 8 ++ leBytes 4 0 ++
    leBytes 8 0x0101010101010101 ++ leBytes 3 0 ++ leBytes 4 4 ++ leBytes 4 4 ++ leBytes 10 0 ++ leBytes 2 1 ++ leBytes 4 0 ++
    leBytes 4 1 ++ leBytes 4 0 ++ leBytes 8 sid

/-- Segment `i` of 2 MiB: its frame-table entry, virtual address and place. Segment 4 is a sparse one. -/
def segEntry (i : Nat) : Nat × List Nat := (i, [if i = 4 then 0x5499 else 0x5419, 0xC20, i, 0x10200 + i, 0, 0, 0, 0])
def segVa (i : Nat) : Nat := 0xC20 * 2 ^ 42 + i * 2 ^ 21
def segLoc (i : Nat) : Nat := (0x10200 + i) * 2 ^ 21
/-- Memory with bytes at offsets of HBM, in ascending order. -/
def hbmBytes (l : List (Nat × List Byte)) : List (Nat × Byte) :=
  l.flatMap fun x => ((List.range x.2.length).zip x.2).filterMap fun y => if y.2 = 0 then none else some (x.1 + y.1, y.2)
/-- The planned module with segments 1 to 4, bytes in them, and one run. -/
def segState (r : Run) (sids : List Nat) (l : List (Nat × List Byte)) : State :=
  { runState r sids with fst := [segEntry 1, segEntry 2, segEntry 3, segEntry 4], mem := hbmBytes l }
/-- A descriptor of a group of one member over `e` FP32 elements in one slice, with its operands in segments: leaf 1, result 2, index 3, row
counts 3. -/
def ceDesc (op red e p0 p1 : Nat) : List Byte :=
  let b (kind dir i : Nat) : List Byte := leBytes 1 kind ++ leBytes 1 dir ++ leBytes 6 0 ++ leBytes 8 (segVa i)
  let binds := b 3 0 1 ++ b 4 1 2 ++ (if 6 ≤ op && op ≤ 8 then b 5 0 3 else []) ++ if op = 6 then b 6 1 3 else []
  leBytes 1 op ++ leBytes 1 red ++ leBytes 2 0 ++ leBytes 1 2 ++ leBytes 1 0 ++ leBytes 2 1 ++ leBytes 1 8 ++ leBytes 4 0 ++
    leBytes 8 0x0101010101010101 ++ leBytes 3 0 ++ leBytes 4 e ++ leBytes 4 e ++ leBytes 4 p0 ++ leBytes 4 p1 ++ leBytes 2 0 ++
    leBytes 2 (binds.length / 16) ++ leBytes 4 0 ++ binds
/-- One, two, three and four in FP32, and the indices 0 and 1. -/
def fourFp32 : List Byte := leBytes 4 0x3F800000 ++ leBytes 4 0x40000000 ++ leBytes 4 0x40400000 ++ leBytes 4 0x40800000
def ceRunState (d : List Byte) (ix : List Byte) : State :=
  segState (runAt 1 0 0 d) [] [(segLoc 1, fourFp32), (segLoc 3, ix)]
/-- A codec job of one block of FP32 in one slice, from segment 1 to another. -/
def jobObj (job dst : Nat) : List Byte :=
  leBytes 1 job ++ leBytes 2 0 ++ leBytes 1 1 ++ leBytes 4 7 ++ leBytes 8 (segVa 1) ++ leBytes 8 (segVa dst) ++ leBytes 4 32 ++
    leBytes 4 32 ++ leBytes 4 32 ++ leBytes 12 0
def jobRunAt (job dst : Nat) : Run := runAt 4 0x107 0 (jobObj job dst)
/-- Two elements of the first group of segment 1 are not zero, and stream 7 has brought that block's record. -/
def jobState (job dst : Nat) : State :=
  let s := segState (jobRunAt job dst) [] [(segLoc 1, leBytes 4 0x3F800000 ++ leBytes 4 0 ++ leBytes 4 0x40000000)]
  let ch := codedChunks (encodeSlice fFP32 false 0 (tilesIn ((s.jobBlks (jobRunAt job dst)).map (Blk.norm fFP32 false))) [])
  s.setSched { s.sched with inbox := (ch.take 1).map fun c => ((7, 0), c) }
/-- An update program that adds a shard's gradient to its one stream, of FP32 at offset 64. -/
def addProg : List Byte :=
  padTo 0x40 (leBytes 20 0 ++ leBytes 4 1 ++ leBytes 2 2 ++ leBytes 2 0 ++ leBytes 4 0x80 ++ leBytes 4 0x40) ++
    (leBytes 4 0 ++ leBytes 4 64 ++ leBytes 24 0) ++ (leBytes 2 1 ++ leBytes 1 1 ++ leBytes 29 0) ++
    (leBytes 1 0x11 ++ leBytes 1 0 ++ leBytes 1 0 ++ leBytes 1 0 ++ leBytes 1 1 ++ leBytes 11 0)
/-- A pass over a shard of eight parameters in slices of four: its state in segment 1, its gradient, or the staging segment, 2, its cell 3. -/
def passObj (pass : Nat) : List Byte :=
  padTo 64 (leBytes 1 pass ++ leBytes 1 2 ++ leBytes 2 1 ++ leBytes 4 4 ++ leBytes 4 0xD0 ++ leBytes 4 0x90 ++ leBytes 8 (segVa 3) ++
    leBytes 8 (segVa 2) ++ leBytes 2 0 ++ leBytes 1 8 ++ leBytes 1 0 ++ leBytes 4 9) ++ leBytes 8 (segVa 1) ++ leBytes 8 (segVa 2)
/-- Its run at the second slice, the shard OPEN for tag step 5. -/
def passRunAt (pass : Nat) : Run := { runAt 3 7 1 (passObj pass) with classes := [⟨0, 1, 0, 5⟩] }
/-- A state header, four parameters behind it; a gradient, or the partials of a FOLD; and a chunk of a STAGE with prefix 5. -/
def passState (pass : Nat) : State :=
  let s := State.put (segState (passRunAt pass) []
    [(segLoc 1, leBytes 4 0x53545355 ++ leBytes 4 0x00010001 ++ leBytes 8 4 ++ leBytes 4 4 ++ leBytes 4 8 ++ leBytes 56 0 ++ fourFp32),
     (segLoc 2, leBytes 16 0 ++ fourFp32 ++ leBytes 48 0 ++ fourFp32), (segLoc 3, leBytes 64 0 ++ leBytes 12 0x3FFF00000000000000000000)]) (pgUe 7) Ari.NAN_ACT 0 0
  { s.setSched { s.sched with inbox := [((9, 0),
      { op := 3, poison := false, bytes := padTo 240 (leBytes 6 5 ++ leBytes 10 0 ++ fourFp32) })] } with
    bankA := some { image := planBytes ++ addProg, pins := [], pages := [], parms := [(segVa 1, 8)] } }
/-- One case of each collective: its operation, descriptor and index tensor. -/
def ceCases : List (Nat × List Byte × List Byte) :=
  [(1, ceDesc 1 1 4 0 0, []), (2, ceDesc 2 1 4 0 0, []), (3, ceDesc 3 2 4 0 0, []), (4, ceDesc 4 0 4 0 0, []), (5, ceDesc 5 0 4 0 0, []),
   (6, ceDesc 6 0 2 2 (1 + 2 * 65536), leBytes 8 0), (7, ceDesc 7 0 2 2 2, leBytes 4 1 ++ leBytes 4 0),
   (8, ceDesc 8 0 1 2 2, leBytes 8 0), (8, ceDesc 8 1 1 2 2, leBytes 8 0), (9, ceDesc 9 0 2 0 0, []), (10, ceDesc 10 0 2 1 0, []),
   (11, ceDesc 11 1 4 0 0, []), (12, ceDesc 12 0 1 2 0, [])]
def ceSt (x : Nat × List Byte × List Byte) : State := ceRunState x.2.1 x.2.2
def ceIn (x : Nat × List Byte × List Byte) : CeCtx := (ceSt x).ceCtx (runAt 1 0 0 x.2.1)
theorem test_collectives_open : ∀ x ∈ ceCases, (ceSt x).openRun 1 0 0 = some (runAt 1 0 0 x.2.1) ∧ (descOf x.2.1).op = x.1 := by
  decide +kernel
theorem test_collectives_ready : ∀ x ∈ ceCases, ((ceIn x).d.op = 11 → (ceSt x).leavesIn (ceIn x) = true) ∧
    ((ceIn x).d.op ≠ 11 → ((ceSt x).takeSlices (ceIn x)).map (fun y => (y.1, y.2.isEmpty)) = some (ceIn x, true) ∧
      (ceSt x).ceInputs (ceIn x)) := by decide +kernel
theorem test_witness_CollectiveStepsComplete :
    (∀ x ∈ ceCases, (ceSt x).ceOneOperand (ceIn x) [] ⟨0, 0⟩ (segVa 2) ∧
      ((ceSt x).ceStored (ceIn x) ⟨0, 0⟩ (segVa 2)).2.2 = false ∧ ((ceSt x).ceStored (ceIn x) ⟨0, 0⟩ (segVa 2)).2.1 ≠ [] ∧
      (ceSt x).vaLoc (segVa 2) + 64 ≤ 2 ^ 40 ∧ ∀ y ∈ (ceIn x).l, y.1.role = .counts →
        (ceSt x).vaLoc (segVa 2) + 64 ≤ (ceSt x).vaLoc y.2.val) ∧
    ((runState (runAt 1 0 0 (ceObj 11 9)) []).openRun 1 0 0 = some (runAt 1 0 0 (ceObj 11 9)) ∧
      State.leavesIn (runState (runAt 1 0 0 (ceObj 11 9)) []) ((runState (runAt 1 0 0 (ceObj 11 9)) []).ceCtx (runAt 1 0 0 (ceObj 11 9)))
        = false) ∧
    (1 ≤ 12 ∧ (descOf (ceObj 11 9)).op ≠ 12) ∧ planned.openRun 1 0 0 = none := by decide +kernel

theorem test_witness_CodecSlicesComplete :
    (∀ j ∈ [1, 2, 3, 4], ∀ d ∈ [2, 4], (jobState j d).openRun 4 (0x100 + 7) 0 = some (jobRunAt j d) ∧ leAt (jobObj j d) 0 1 = j ∧
      (jobState j d).arrays.records = [] ∧ (jobState j d).plain ∧ (jobState j d).denseDst (jobOf (jobObj j d)) ∧
      (((jobState j d).jobBlks (jobRunAt j d)).all fun b => !b.bad && b.elems.length = 32) = true) ∧
    (runState (jobRunAt 2 2) []).codedIn 7 1 = none ∧
    (((jobState 2 2).codedIn 7 1).map fun ch => (codedBlks (jobRunAt 2 2) ch).flatten.map fun b => (b.bad, b.elems.length)) =
      some [(false, 32)] ∧
    ((jobRunAt 2 2).stop = false ∧ (jobState 2 2).sparseAt (segVa 2) = none ∧
      (jobState 2 4).sparseAt (segVa 4) = some ⟨spHbm, segLoc 4, 2 ^ 21⟩ ∧ (jobRunAt 2 4).k + 1 = (jobOf (jobObj 2 4)).nsteps ∧
      (jobState 2 4).vaFrozen (segVa 4 - ((jobState 2 4).vaLoc (segVa 4) - segLoc 4)) = false ∧
      (jobState 2 4).vaLoc (segVa 4 - ((jobState 2 4).vaLoc (segVa 4) - segLoc 4)) + 20 ≤ 2 ^ 40) ∧
    ((((jobState 3 2).jobBlks (jobRunAt 3 2)).all fun b => (List.range 8).all fun i =>
        (packGroup fFP32 ((b.elems.drop (4 * i)).take 4)).nz ≤ 2) = true ∧
      32 * (((jobOf (jobObj 3 2)).blocks 0).1 + ((jobOf (jobObj 3 2)).blocks 0).2) ≤ (jobOf (jobObj 3 2)).e ∧
      (jobState 3 2).vaLoc (segVa 2) + nibOff fFP32 32 + 64 ≤ 2 ^ 40) := by decide +kernel

theorem test_witness_StackTransfersMoveBytes :
    (15 < 16 ∧ ∀ j ∈ [1, 2, 3], ∀ k ∈ [0, 1],
      (runState (runAt 4 15 k (objOf j 9)) [9]).openRun 4 15 0 = some (runAt 4 15 k (objOf j 9)) ∧ leAt (objOf j 9) 0 1 = j) ∧
    ((xferOf (objOf 2 9)).slice 0 = (0, 240) ∧ (xferOf (objOf 2 9)).sid = 9) ∧
    (runState (runAt 4 15 1 (objOf 2 9)) []).sliceIn 9 (cdiv 240 240) = none ∧
    (runState (runAt 4 15 1 (objOf 2 9)) [9]).sliceIn 9 (cdiv 240 240) =
      some [{ op := 0, poison := false, bytes := List.replicate 240 0 }] ∧
    (memWf planned.mem = true ∧ planned.vaFrozen 0 = false ∧ planned.vaLoc 0 + 0 + 240 ≤ 2 ^ 40 ∧
      planned.badAt spHbm (planned.vaLoc 0 + 0) 240 = false) := by decide +kernel

/-- The context of that pass, and its shard. -/
def passIn (pass : Nat) : UCtx := (passState pass).ueCtx 7 (passRunAt pass)
def aShard : Shard := ⟨segVa 1, segVa 2, false, false⟩
theorem test_witness_UpdatePassesComplete :
    (∀ j ∈ [1, 2, 3, 4, 5], (passState j).openRun 3 7 0 = some (passRunAt j) ∧ leAt (passObj j) 0 1 = j ∧ (passState j).plain ∧
      (passIn j).onePart 0 4 8 1 0 5 aShard 64 fFP32 ∧ (passIn j).last = true ∧ (passIn j).ps.getD 0 0 = 8 ∧
      segLoc 1 + 64 + 8 * fmtBytes fFP32 ≤ segLoc 2 ∧ (passState j).vaLoc (segVa 2) = segLoc 2 ∧ segLoc 3 + 96 ≤ 2 ^ 40) ∧
    (uGradFmt (normProg ((passState 1).runImage (passRunAt 1)) (passObj 1) 7 (segVa 1)) = some fFP32 ∧
      (passState 1).vaFrozen (passIn 1).o.norm = false ∧ (passState 3).vaFrozen (passIn 3).o.out = false ∧
      (runState (runAt 3 7 0 (objOf 1 9)) []).openRun 3 7 0 = some (runAt 3 7 0 (objOf 1 9)) ∧
      ((runState (runAt 3 7 0 (objOf 1 9)) []).ueCtx 7 (runAt 3 7 0 (objOf 1 9))).parts = []) ∧
    ((passState 2).rd (pgUe 7) Ari.NAN_ACT 0 = 0 ∧
      (((List.range 4).map fun i => (passState 2).uParam (passIn 2) ⟨0, 4 + i, segLoc 1, segLoc 2, 5⟩).all fun p =>
        !p.read && (AL.get p.cur (64, fFP32)).any fun v => !v.bad) = true) ∧
    ((passIn 4).o.sid = 9 ∧ ((passState 4).runStream (passRunAt 4) 9).chunks = 1 ∧
      (runState (runAt 3 7 0 (objOf 4 9)) []).sliceIn 9 1 = none ∧
      ((passState 4).sliceIn 9 1).map (fun l => (l.length, l.all fun y => !y.poison && y.bytes.length = 240)) = some (1, true) ∧
      16 + cdiv (4 * fmtBytes fFP32) 16 * 16 ≤ 240 * 1 ∧ (passIn 4).r.tag = none) := by decide +kernel

theorem test_witness_RestoreCheckRuns : 7 < 8 ∧ State.reset.rd (pgUe 7) Ue.CHK_STATE 0 ≠ 1 ∧
    (withRegs [(pgUe 7, Ue.CHK_STATE, 1)]).rd (pgUe 7) Ue.CHK_STATE 0 = 1 := by decide

theorem test_witness_PartialsAndCodedSlicesAreTaken :
    ((runState (runAt 1 0 0 (ceObj 11 9)) []).openRun 1 0 0 = some (runAt 1 0 0 (ceObj 11 9)) ∧ planned.openRun 1 0 0 = none) ∧
    ((runState (runAt 1 0 0 (ceObj 11 7)) []).imageOf planned.planTick = some planBytes ∧
      imgStream planBytes 7 =
        some { sid := 7, coded := true, terminal := true, origin := false, sink := 0x10, ovf := 0, chunks := 1 } ∧
      (runState (runAt 1 0 0 (ceObj 11 7)) []).sinkSlice 7 = some (0, false, 4)) ∧
    (runState (runAt 1 0 0 (ceObj 11 7)) []).codedIn 7 1 = none ∧
    (runState (runAt 1 0 0 (ceObj 11 7)) [7]).codedIn 7 1 =
      some [{ op := 0, poison := false, bytes := List.replicate 240 0 }] ∧
    (runState (runAt 1 0 0 (ceObj 11 7)) [7]).sched.decoded.contains 7 = false := by decide +kernel

theorem test_witness_RefreshAndRegionsAreKept :
    (15 < 16 ∧ State.roundDue { withRegs [(pgHbm 15, Hbm.HSTATE, 2)] with clock := 1825 } 15 = true ∧
      State.roundDue { withRegs [(pgHbm 15, Hbm.HSTATE, 2)] with clock := 1824 } 15 = false) ∧
    (State.raw (withRegs [(pgHbm 15, Hdr.LOCK, 1)]) (pgHbm 15) Hdr.LOCK 0 = 1 ∧ State.reset.raw (pgHbm 15) Hdr.LOCK 0 ≠ 1 ∧
      State.reset.banksEmpty = true ∧ State.reset.sysMeetsOverflow 15 (1 % 16) = false ∧ planned.banksEmpty = false) ∧
    (3 < 4 ∧ State.reset.spilledQ 3 = 0 ∧
      (State.reset.setQueue 3 0 0 { EgressQ.empty with spilled := true }).spilledQ 3 ≠ 0) := by decide +kernel

/-! ## Witnesses: links -/

/-- A link in a state of Table 03.6, with what stands behind its page. -/
def linkIn (l st : Nat) (x : Link) : State := (withRegs [(pgLink l, Lnk.LSTATE, st)]).setLink l x
/-- A link idle but for its round trips. -/
def withRtts (n rtt : Nat) : Link := { Link.idle with rtts := List.replicate n rtt, peerOk := true }
theorem test_witness_LinkTrainingMovesStates :
    (0x15 < 0x16 ∧ (linkIn 0x15 0 Link.idle).lstate 0x15 = 0 ∧ State.reset.mayTrain 3 = true) ∧
    ((linkIn 0x15 1 Link.idle).lstate 0x15 = 1 ∧ (linkIn 0x15 2 Link.idle).lstate 0x15 = 2 ∧
      (linkIn 0x15 5 Link.idle).lstate 0x15 = 5) ∧
    ((linkIn 0x15 3 (withRtts 14 0)).lstate 0x15 = 3 ∧ ((linkIn 0x15 3 (withRtts 14 0)).link 0x15).rtts.length = 14 ∧
      ((linkIn 0x15 3 (withRtts 15 0)).link 0x15).rtts.length = 15) ∧
    (32768 < replayWin 0x15 (ldOf (List.replicate 16 12000)) ∧ replayWin 0x15 (ldOf (List.replicate 16 6000)) ≤ 32768) ∧
    (State.peerOk State.reset 0x15 0 4 = true ∧ State.peerOk State.reset 0x15 0 5 = false ∧ 16 ≤ 0x15) ∧
    ((linkIn 0x15 4 Link.idle).lstate 0x15 = 4 ∧ ∀ st ∈ [1, 2, 3, 4], ((linkIn 0x15 st Link.idle).link 0x15).since +
      stateBound ((linkIn 0x15 st Link.idle).lstate 0x15) < State.clock { linkIn 0x15 st Link.idle with clock := 2 ^ 40 }) := by decide

/-- A link that is UP with a block waiting in its replay window. -/
def aFlit : Flit := { hdr := 0, payload := [] }
def replayLink (n : Nat) : State := linkIn 0x15 5 { Link.idle with window := [⟨aFlit, 7, n, 0⟩] }
theorem test_witness_LinksFailAndReplay :
    ((linkIn 0x15 4 Link.idle).linkUp 0x15 = false ∧ (replayLink 0).linkUp 0x15 = true ∧ 16 ≤ 0x15 ∧
      (replayLink 0).watch.seen.contains ⟨1, linkKey 0 5, 0, 0⟩ = false ∧ (replayLink 0).keyFailed (linkKey 0 5) = false) ∧
    (((replayLink 8).link 0x15).window.find? (fun b => b.seq = 7) = some ⟨aFlit, 7, 8, 0⟩ ∧
      ((replayLink 8).link 0x15).window.find? (fun b => b.seq = 8) = none) ∧
    (replayLink 8).rd (pgLink 0x15) Lnk.REPLAY_LIM 0 ≤ 8 ∧ 7 < (replayLink 7).rd (pgLink 0x15) Lnk.REPLAY_LIM 0 ∧
    (((replayLink 7).link 0x15).stopUntil ≤ (replayLink 7).clock ∧
      ((linkIn 0x15 5 { (replayLink 7).link 0x15 with stopUntil := 40, stopBlocks := 1 }).link 0x15).stopUntil = 40) ∧
    (State.ackLate { replayLink 0 with clock := 256 } 0x15 7 = true ∧ State.ackLate { replayLink 0 with clock := 255 } 0x15 7 = false) ∧
    ((replayLink 0).rdb (pgLink 0x15) Lnk.EN 0 = true ∧ (replayLink 0).lstate 0x15 ≠ 0 ∧ ((replayLink 0).link 0x15).signal = false) ∧
    ((withRegs [(pgLink 0x15, Lnk.EN, 0)]).rdb (pgLink 0x15) Lnk.EN 0 = false ∧ State.reset.lstate 0x15 = 0) ∧
    (15 < 16 ∧ (linkIn 15 5 Link.idle).linkUp 15 = true ∧ (linkIn 15 5 Link.idle).rd (pgLink 15) Lnk.CRED_AVAIL 6 = 0 ∧
      AL.getD ((linkIn 15 5 Link.idle).link 15).zeros 6 ((linkIn 15 5 Link.idle).link 15).since +
        1100 * (linkIn 15 5 Link.idle).rd (pgLink 15) Ept.CRED_TO 0 < State.clock { linkIn 15 5 Link.idle with clock := 2 ^ 40 } ∧
      State.reset.linkUp 15 = false) := by
  decide +kernel

/-- A line block: 256 bytes from a list, its control word, and its CRC. -/
def blockBytes (l : List Byte) (w : Nat) : List Byte := padTo 256 l ++ leBytes 10 w
def lineBlock (l : List Byte) (w : Nat) : List Byte := blockBytes l w ++ leBytes 4 (crc32c (blockBytes l w))
theorem leBytes_length (n v : Nat) : (leBytes n v).length = n := by
  induction n generalizing v with
  | zero => rfl
  | succ n ih => simp [leBytes, ih]
theorem leNat_leBytes (n v : Nat) : leNat (leBytes n v) = v % 256 ^ n := by
  induction n generalizing v with
  | zero => simp [leBytes, leNat, Nat.mod_one]
  | succ n ih => simp [leBytes, leNat, ih, Nat.pow_succ', Nat.mod_mul]
theorem crcByteR_lt (c : Nat) (b : Byte) (h : c < 2 ^ 32) : crcByteR 0x82F63B78 c b < 2 ^ 32 := by
  have step : ∀ x, x < 2 ^ 32 → (if x % 2 = 1 then Nat.xor (x / 2) 0x82F63B78 else x / 2) < 2 ^ 32 := by
    intro x hx
    split
    · exact Nat.xor_lt_two_pow (by omega) (by omega)
    · omega
  exact step _ (step _ (step _ (step _ (step _ (step _ (step _ (step _
    (Nat.xor_lt_two_pow h (Nat.lt_trans b.isLt (by omega))))))))))
theorem crc32c_lt (l : List Byte) : crc32c l < 2 ^ 32 := by
  have h : ∀ (l : List Byte) c, c < 2 ^ 32 → l.foldl (crcByteR 0x82F63B78) c < 2 ^ 32 := by
    intro l
    induction l with
    | nil => exact fun _ h => h
    | cons b l ih => exact fun c hc => ih _ (crcByteR_lt c b hc)
  exact Nat.xor_lt_two_pow (h l _ (by omega)) (by omega)
theorem blockBytes_length (l : List Byte) (w : Nat) : (blockBytes l w).length = 266 := by
  simp [blockBytes, leBytes_length, padTo]
  omega
theorem lineBlock_crc (l : List Byte) (w : Nat) : leAt (lineBlock l w) 266 4 = crc32c ((lineBlock l w).take 266) := by
  have h : (lineBlock l w).take 266 = blockBytes l w := by simp [lineBlock, blockBytes_length]
  have e : slice (lineBlock l w) 266 4 = leBytes 4 (crc32c (blockBytes l w)) := by
    simp [slice, lineBlock, blockBytes_length, leBytes_length]
  have := crc32c_lt (blockBytes l w)
  rw [h, leAt, e, leNat_leBytes]
  omega
theorem lineBlock_length (l : List Byte) (w : Nat) : (lineBlock l w).length = 270 := by
  simp [lineBlock, blockBytes_length, leBytes_length]
theorem test_codeword (l : List Byte) (w : Nat) :
    rsDecode (lineBlock l w) (rsParityBytes (lineBlock l w)) = some ([], lineBlock l w) := by
  simp [rsDecode, lineBlock_length, rsParityBytes, bytesOfSymbols, leBytes_length]
/-- A block whose CRC is one too high. -/
def wrongBlock (l : List Byte) (w : Nat) : List Byte := blockBytes l w ++ leBytes 4 (crc32c (blockBytes l w) + 1)
theorem test_wrong_block (l : List Byte) (w : Nat) :
    leAt (wrongBlock l w) 266 4 ≠ crc32c ((wrongBlock l w).take 266) ∧ (wrongBlock l w).length = 270 := by
  have h : (wrongBlock l w).take 266 = blockBytes l w := by simp [wrongBlock, blockBytes_length]
  have e : slice (wrongBlock l w) 266 4 = leBytes 4 (crc32c (blockBytes l w) + 1) := by
    simp [slice, wrongBlock, blockBytes_length, leBytes_length]
  have := crc32c_lt (blockBytes l w)
  refine ⟨?_, by simp [wrongBlock, blockBytes_length, leBytes_length]⟩
  rw [h, leAt, e, leNat_leBytes]
  omega
theorem test_witness_LineBlocksAndDieLinks :
    ((linkIn 3 1 Link.idle).lstate 3 < 2 ∧ 5 < (linkIn 3 6 Link.idle).lstate 3 ∧ (linkIn 3 5 Link.idle).lstate 3 ≤ 5) ∧
    rsDecode [] [] = none ∧
    ((linkIn 3 5 { Link.idle with badRun := 7 }).link 3).badRun = 7 ∧ ((linkIn 3 5 Link.idle).link 3).badRun ≠ 7 ∧
    (linkIn 3 5 Link.idle).rd (pgLink 3) Lnk.FEC_CORR 0 < 2 ^ 32 ∧ (linkIn 3 2 { Link.idle with goodRun := 63 }).lstate 3 = 2 ∧
    ((linkIn 3 2 { Link.idle with goodRun := 63 }).link 3).goodRun = 63 ∧
    ((linkIn 3 3 Link.idle).lstate 3 ≠ 2 ∧ leAt (lineBlock [3] 2) 256 10 % 4 = 2 ∧ leAt ((lineBlock [3] 2).take 256) 0 1 = 3) ∧
    (leAt (lineBlock [] 1) 256 10 = 1 ∧ bits 1 2 16 = ((linkIn 3 5 Link.idle).link 3).rxNext ∧ bit 1 34 = false ∧
      bits 1 54 6 = 0 ∧ bits 1 63 6 = 0) ∧
    (3 < 4 ∧ 7 < 8 ∧ 15 ≤ (State.d2dDir { State.reset with d2d := [((0x5F, 1), ⟨15, 0⟩)] } 0x5F 1).fails) := by decide +kernel

theorem test_witness_LineBlocksAndDieLinks_crc : leAt (lineBlock [3] 2) 266 4 = crc32c ((lineBlock [3] 2).take 266) ∧
    leAt (lineBlock [] 1) 266 4 = crc32c ((lineBlock [] 1).take 266) := ⟨lineBlock_crc _ _, lineBlock_crc _ _⟩

/-! ## Witnesses: routes and the open plane -/

/-- A route state of Keep 0 with registers of it. -/
def routed (l : List (PageId × Reg × Nat)) (r : Route) : State := (withRegs l).setRoute 0 r
/-- A reservation of endpoint 0 for logical module 1. -/
def aResv (tag epoch : Nat) : Reservation := ⟨.endpoint 0, tag, 0, epoch, some 1, 1, 0⟩
theorem test_witness_RoutesFlipTogether :
    (3 < 4 ∧ State.reset.inUse 3 0 = true ∧ (withRegs [(pgKeep 3, Kr.TBL_BANK, 1)]).inUse 3 1 = false ∧
      (withRegs [(pgKeep 3, Kr.TBL_BANK, 1)]).filled 3 1 = false ∧
      (withRegs [(pgKeep 3, Kr.B_FILLED, 1)]).filled 3 1 = true ∧ State.reset.rd (pgKeep 3) Kr.TBL_KIND 0 = 0 ∧
      (withRegs [(pgKeep 3, Kr.TBL_KIND, 1), (pgKeep 3, Kr.TBL_INDEX, 2)]).rd (pgKeep 3) Kr.TBL_INDEX 0 < 3) ∧
    (State.rdb (withRegs [(pgKeep 0, Kr.FLOOD, 0)]) (pgKeep 0) Kr.FLOOD 0 = false ∧
      State.rdb (withRegs [(pgKeep 0, Kr.FLOOD, 1)]) (pgKeep 0) Kr.FLOOD 0 = true ∧ tickLater 0 State.reset.now = false ∧
      tickLater 1 State.reset.now = true ∧ State.reset.flipRefused 0 1 none = true ∧
      (withRegs [(pgKeep 0, Kr.B_FILLED, 1)]).flipRefused 0 1 none = false) ∧
    ((State.reset.rememberFlood 0x32 9).floodedBefore 0x32 9 = true ∧ State.reset.floodedBefore 0x32 1023 = false ∧
      tickSub 1023 State.reset.now ≤ 1023 ∧ 1023 < tickSub 1024 State.reset.now ∧
      State.reset.flipRefused 0 1023 (some 0) = true) ∧
    ((State.reset.route 0).deadline = none ∧ ((routed [] { Route.empty with deadline := some 0 }).route 0).deadline = some 0 ∧
      tickReached State.reset.now 0 = true ∧ tickReached State.reset.now 1 = false ∧ srcKeep (aResv 0 1).src = 0 ∧
      aResv 0 1 ∈ State.staleResv
        { routed [(pgKeep 0, Kr.A_FILLED, 1)] Route.empty with reservations := [aResv 0 1] } 0) := by decide +kernel
theorem test_witness_RoutesFlipTogether_accepted : ∀ k, k < 4 →
    (withRegs ((List.range 4).map fun k => (pgKeep k, Kr.B_FILLED, 1))).flipRefused k 1 (some 0) = false := by decide +kernel

/-- A read of 16 bytes at an address of module `home`. -/
def readOf (op home addr tag : Nat) : Flit := aReq op tag (reqPayload (home * 2 ^ 49 + addr) 16 0 0 [])
/-- The flit it goes on as, when its route is computed. -/
def sentAs (s : State) (src : Source) (f : Flit) : Option Flit :=
  match s.routeCompute src (s.ownRequest src f) with
  | .send g => some g
  | .answer _ _ => none
/-- The header of a flit handed to a unit of this module is beyond correction. -/
def servingLost (e : Nat) (f : Flit) : State :=
  let s := State.reset.setOpn { State.reset.opn with service := [(e, 0, f)] }
  s.setArrays { s.arrays with flits := [⟨.service e, true, [(0, 1), (1, 2), (2, 3)]⟩] }
theorem test_witness_RequestsAreReservedAndCompleted_lost :
    (State.reset.arrays.flits = [] ∧ (State.reset.ownRequest (.endpoint 0) (poisoned (readOf 1 0 0x1000 4095))).poison = true ∧
      (State.reset.ownRequest (.endpoint 0) (readOf 1 0 0x1000 4095)).poison = false ∧ State.reset.opn.cut = []) ∧
    (((servingLost 2 (aReply 5 0)).opn.service.find? fun x => x.1 = 2).map (fun x => x.2.2) = some (aReply 5 0) ∧
      (servingLost 2 (aReply 5 0)).headerLost (.service 2)) := by decide +kernel
theorem test_witness_RequestsAreReservedAndCompleted :
    State.reset.tagBad (.endpoint 0) (State.reset.ownRequest (.endpoint 0) (readOf 1 0 0x1000 4096)).tag = true ∧
    (State.reset.tagBad (.endpoint 0) (State.reset.ownRequest (.endpoint 0) (readOf 1 0x7FFF 0x1000 4095)).tag = false ∧
      State.reset.routeCompute (.endpoint 0) (State.reset.ownRequest (.endpoint 0) (readOf 1 0x7FFF 0x1000 4095)) = .answer 6 false) ∧
    (sentAs State.reset (.endpoint 0) (readOf 1 0 0x1000 4095)).isSome = true ∧
    (((aReply 5 0).setField 112 16 0).hcrcOk = false ∧ (poisoned (aReply 5 0)).poison = true ∧
      (poisoned (aReply 5 0)).hcrcOk = true ∧ (aReply 5 0).hcrcOk = true ∧ (aReply 5 0).poison = false ∧ (aReply 5 0).tag = 5) ∧
    (State.resvDue State.reset (aResv 5 0) = false ∧
      State.resvDue (atTick (State.reset.timeoutOf (.endpoint 0)) State.reset) (aResv 5 0) = true) := by decide +kernel
theorem test_witness_RequestsAreReservedAndCompleted_held :
    (State.resvOf { State.reset with reservations := [aResv 5 0] } (.endpoint 0)).find? (fun r => r.tag = 5) = some (aResv 5 0) ∧
      (State.reset.resvOf (.endpoint 0)).find? (fun r => r.tag = 5) = none := by decide +kernel

/-- A flit for endpoint 1 of this module, or for another module. -/
def passing (dst : Nat) (dstM : Bool) (tick len : Nat) : Flit :=
  FlitSpec.flit { kind := 1, vc := 0, dst := dst, dstM := dstM, src := 0x20, srcM := false, tick := tick, tag := 1, opcode := 1,
                  payload := List.replicate len 0 }
/-- A stale virtual request for Keep 0. -/
def staleFlit : Flit :=
  FlitSpec.flit { kind := 1, epoch := 1, vc := 0, dst := 0, dstM := true, src := 0x20, srcM := false, tick := 0, tag := 1, opcode := 1,
                  payload := reqPayload (3 * 2 ^ 42) 16 1 0 [] }
/-- A flit waiting for output 4 of Keep 0. -/
def waitingFlit : Ready := ⟨0, 4, 0, .ingress, some (0x11, 0), passing 0x4000 true 0 16, false, false⟩
/-- It waits at a queue, in a state with registers written. -/
def readyState (l : List (PageId × Reg × Nat)) (q : EgressQ) : State :=
  let s := (withRegs ((pgKeep 0, Opn.OVF_SIZE, 0) :: l)).setQueue 0 4 0 q
  s.setOpn { s.opn with ready := [waitingFlit] }
/-- A flit at the head of an input buffer. -/
def inputState (f : Flit) (s : State) : State := s.setOpn { s.opn with inputs := [((0x10, 0), [f])] }
/-- A queue with two flits of four cells. -/
def fullQueue : EgressQ :=
  { EgressQ.empty with sram := [⟨passing 0x4000 true 0 240, false⟩, ⟨passing 0x4000 true 0 240, false⟩] }
theorem test_witness_CreditsReturn : State.reset.poolUsed (keepOfLink 0x10) ≤ State.reset.poolCells (keepOfLink 0x10) := by
  decide +kernel
theorem test_witness_FlitsAreSwitched :
    (AL.getD State.reset.opn.inputs (0x10, 0) [] = [] ∧ State.reset.arrays.flits = [] ∧
      AL.getD (inputState staleFlit State.reset).opn.inputs (0x10, 0) [] = [staleFlit]) ∧
    (State.headerLost (State.setArrays (inputState staleFlit State.reset) (flitState [(0, 1), (1, 2), (2, 3)]).arrays)
        (.input 0x10 0) ∧ (inputState staleFlit State.reset).flitGood (.input 0x10 0) ∧ staleFlit.last = true ∧
      AL.get State.reset.opn.switched (0x10, 0) = none ∧ AL.get [((0x10, 0), staleFlit)] (0x10, 0) = some staleFlit) ∧
    ((staleFlit.setField 112 16 0).hcrcOk = false ∧ staleFlit.hcrcOk = true ∧ staleFlit.dstM = true ∧
      State.tooOld (atTick 0x8000 State.reset) 0 staleFlit = true ∧ State.reset.tooOld 0 staleFlit = false) ∧
    (State.nextHop (routed [] { Route.empty with lastDeadline := some 0 }) 0 staleFlit (travelOf 0x10) = none ∧
      State.staleRequest (routed [] { Route.empty with lastDeadline := some 0 }) 0 staleFlit = true ∧
      State.reset.staleRequest 0 (passing 0 true 0 0) = false ∧ (passing 0 true 0 0).dst % 16 ≠ 2 ∧
      (passing 2 true 0 0 |>.setField 80 8 0x20 |>.sealed).opcode = 0x20 ∧ (passing 1 false 0 0).dstM = false ∧
      (passing 1 false 0 0).hcrcOk = true ∧ State.reset.nextHop 0 (passing 1 false 0 0) (travelOf 0x10) = none) ∧
    ((routeState 1 2 9).nextHop (keepOfLink 0x10) (passing 0x4000 true 0 16) (travelOf 0x10) = some 2 ∧
      (routeState 1 2 9).lstate (torusLink 2) ≠ 6 ∧ (withRegs [(pgLink (torusLink 2), Lnk.LSTATE, 6)]).lstate (torusLink 2) = 6) := by
  decide +kernel
theorem test_witness_FlitsAreAdmitted :
    (State.reset.readyNext 0 4 0 = none ∧ (readyState [] EgressQ.empty).readyNext 0 4 0 = some waitingFlit ∧
      waitingFlit.src ≠ .keep 1 ∧ (readyState [] { EgressQ.empty with admitting := some (.keep 1, none, 0) }).readyNext 0 4 0 = none) ∧
    (((readyState [] { EgressQ.empty with spilled := true }).queue 0 4 0).spilled = true ∧
      (readyState [] { EgressQ.empty with spilled := true }).ovfRoom 0 4 0 = false ∧ waitingFlit.counted = false ∧
      { waitingFlit with counted := true }.counted = true) ∧
    (((readyState [] EgressQ.empty).queue 0 4 0).spilled = false ∧
      ((List.range 4).foldl (fun s b => State.setDom s (bankDomain 0 b) 2) (readyState [] EgressQ.empty)).banksHold 0
        waitingFlit.flit.cells = false) ∧
    ((readyState [(pgKeep 0, Opn.SHARE_CAP, 0)] fullQueue).banksHold 0 waitingFlit.flit.cells = true ∧
      (readyState [(pgKeep 0, Opn.SHARE_CAP, 0)] fullQueue).canTake 0 (vcClass 0)
        ((readyState [(pgKeep 0, Opn.SHARE_CAP, 0)] fullQueue).queue 0 4 0).sramCells waitingFlit.flit.cells = false ∧
      (readyState [] EgressQ.empty).canTake 0 (vcClass 0) ((readyState [] EgressQ.empty).queue 0 4 0).sramCells
        waitingFlit.flit.cells = true) ∧
    ((readyState [(pgKeep 0, Opn.MARK_THRESH, 0)] EgressQ.empty).mark 0 EgressQ.empty 0 waitingFlit.flit = true ∧
      waitingFlit.buf = some (0x11, 0) ∧ { waitingFlit with buf := none }.buf = none ∧
      (readyState [] EgressQ.empty).flitGood (.waiting 0 4 0)) := by decide +kernel

/-- An egress queue with one flit in SRAM, or one in HBM. -/
def oneFlit : EgressQ := { EgressQ.empty with sram := [⟨passing 0x4000 true 0 16, false⟩] }
def oneSpilled (stage : Bool) : EgressQ :=
  { EgressQ.empty with hbm := [⟨passing 0x4000 true 0 16, false⟩], spilled := true
                       stage := if stage then [⟨passing 0x4000 true 0 16, false⟩] else [] }
/-- Keep 0's output 4 with link 0x10 UP and credits, and a queue; Keep 3's host output. -/
def sending (k o vc : Nat) (q : EgressQ) : State :=
  (withRegs [(pgLink 0x10, Lnk.LSTATE, 5), (pgLink 0x10, Lnk.CRED_AVAIL, 9)]).setQueue k o vc q
/-- Link 0x10 is UP with a neighbour message to send on MGMT-a. -/
def messageState : State :=
  (State.wri (withRegs [(pgLink 0x10, Lnk.LSTATE, 5)]) (pgLink 0x10) Lnk.CRED_AVAIL 4 9).setLink 0x10
    { Link.idle with msgs := [(aReply 0 0).setField 3 3 4] }
/-- A reply for endpoint 0 in its output's queue. -/
def replying (l : List Reservation) (f : Flit) : State :=
  { (withRegs [(pgLink 0, Lnk.LSTATE, 5), (pgLink 0, Lnk.CRED_AVAIL, 9)]).setQueue 0 0 0
      { EgressQ.empty with sram := [⟨f, false⟩] } with reservations := l }
/-- A state at tick 0x8000 whose queue, staged flit or waiting flit has tick 0. -/
def agedState (q : EgressQ) (r : List Ready) : State :=
  let s := (atTick 0x8000 State.reset).setQueue 0 4 0 q
  s.setOpn { s.opn with ready := r }
/-- The same with a header beyond correction. -/
def lostSending : State :=
  let s := sending 0 4 0 oneFlit
  s.setArrays { s.arrays with flits := [⟨.queue 0 4 0, true, [(0, 1), (1, 2), (2, 3)]⟩] }
theorem test_witness_FlitsAreSent :
    (State.reset.messageTurn 0 4 = none ∧ State.reset.mergePick 0 4 = none ∧ 4 < keepOuts 0 ∧ 4 < keepOuts 3 ∧ 3 < 4) ∧
    messageState.messageTurn 0 4 = some 0x10 ∧
    (((sending 0 4 0 oneFlit).mergePick 0 4).map Prod.fst = some 0 ∧ (sending 0 4 0 oneFlit).messageTurn 0 4 = none ∧
      ((sending 0 4 0 oneFlit).queue 0 4 0).sram = oneFlit.sram ∧ (sending 0 4 0 oneFlit).arrays.flits = [] ∧
      linkOfOut 0 4 = some 0x10 ∧ (sending 0 4 0 oneFlit).tooOld 0 (passing 0x4000 true 0 16) = false ∧
      State.tooOld (atTick 0x8000 (sending 0 4 0 oneFlit)) 0 (passing 0x4000 true 0 16) = true) ∧
    (((sending 3 4 0 oneFlit).mergePick 3 4).map Prod.fst = some 0 ∧ linkOfOut 3 4 = none ∧
      (passing 0x4000 true 0 16).hcrcOk = true ∧ ((passing 0x4000 true 0 16).setField 112 16 0).hcrcOk = false) ∧
    (lostSending.headerLost (.queue 0 4 0) ∧ (lostSending.mergePick 0 4).map Prod.fst = some 0 ∧
      lostSending.messageTurn 0 4 = none ∧ (sending 0 4 0 oneFlit).flitGood (.queue 0 4 0)) ∧
    (((replying [] (aReply 5 0)).mergePick 0 0).map Prod.fst = some 0 ∧ linkOfOut 0 0 = some 0 ∧ (aReply 5 0).kind = 2 ∧
      ((replying [] (aReply 5 0)).resvOf (.endpoint 0)).find? (fun r => r.tag = (aReply 5 0).tag) = none ∧
      ((replying [aResv 5 0] (aReply 5 0)).resvOf (.endpoint 0)).find? (fun r => r.tag = (aReply 5 0).tag) = some (aResv 5 0) ∧
      (poisoned (aReply 5 0)).poison = true ∧ (poisoned (aReply 5 0)).kind = 2) := by decide +kernel
theorem test_witness_FlitsAge :
    (((agedState oneFlit []).queue 0 4 0).sram.any fun x => (agedState oneFlit []).tooOld 0 x.flit) = true ∧
    ((((agedState (oneSpilled true) []).queue 0 4 0).sram.any fun x => (agedState (oneSpilled true) []).tooOld 0 x.flit) = false ∧
      (((agedState (oneSpilled true) []).queue 0 4 0).stage.any fun x => (agedState (oneSpilled true) []).tooOld 0 x.flit) = true) ∧
    (((agedState EgressQ.empty [waitingFlit]).queue 0 4 0).stage = [] ∧
      (agedState EgressQ.empty [waitingFlit]).opn.ready.any ((agedState EgressQ.empty [waitingFlit]).readyOld 0 4 0) = true ∧
      (agedState EgressQ.empty []).opn.ready = []) := by decide +kernel
/-- A spilled queue of Keep 0, whose region lies in stack 1, READY or OFF. -/
def spilling (st : Nat) (stage : Bool) : State := (withRegs [(pgHbm 1, Hbm.HSTATE, st)]).setQueue 0 4 0 (oneSpilled stage)
theorem test_witness_FlitsSpill_path :
    (stackOf ((spilling 2 true).tailPlace 0 (oneSpilled true)) = 1 ∧ (spilling 2 true).ovfRoom 0 4 0 = true ∧
      (spilling 2 true).spillPath 0 0 ((spilling 2 true).tailPlace 0 (oneSpilled true)) = true ∧
      (spilling 0 true).spillPath 0 0 ((spilling 0 true).tailPlace 0 (oneSpilled true)) = false ∧
      (spilling 2 true).flitGood (.stage 0 4 0)) ∧
    ((spilling 2 false).mayRead 0 4 0 ⟨passing 0x4000 true 0 16, false⟩ = true ∧
      (spilling 0 false).mayRead 0 4 0 ⟨passing 0x4000 true 0 16, false⟩ = false ∧
      State.tooOld (atTick 0x8000 (spilling 2 false)) 0 (passing 0x4000 true 0 16) = true ∧
      State.mayRead (atTick 0x8000 (spilling 2 false)) 0 4 0 ⟨passing 0x4000 true 0 16, false⟩ = true) := by decide +kernel
theorem test_witness_FlitsSpill :
    ((sending 0 4 0 oneFlit).queue 0 4 0).stage = [] ∧
    (((State.reset.setQueue 0 4 0 (oneSpilled true)).queue 0 4 0).stage ≠ [] ∧
      (State.reset.setQueue 0 4 0 (oneSpilled true)).ovfRoom 0 4 0 = true ∧
      (readyState [] (oneSpilled true)).ovfRoom 0 4 0 = false ∧ memWf State.reset.mem = true) ∧
    (2 * qCells ((State.reset.setQueue 0 4 0 (oneSpilled false)).queue 0 4 0).sram < State.reset.rd (pgKeep 0) Opn.SPILL_DEPTH 0 ∧
      (withRegs [(pgKeep 0, Opn.SPILL_DEPTH, 0)]).rd (pgKeep 0) Opn.SPILL_DEPTH 0 ≤ 2 * qCells oneFlit.sram) ∧
    (State.tooOld (agedState (oneSpilled false) []) 0 (passing 0x4000 true 0 16) = true ∧
      State.tooOld State.reset 0 (passing 0x4000 true 0 16) = false) := by decide +kernel

/-! ## Witnesses: tick plans -/

/-- An image of one step at the shortest period: no streams, and one refresh window of 320 cc on each interface. -/
def imageHead : List Byte :=
  leBytes 4 0x4C504B54 ++ leBytes 2 1 ++ leBytes 2 2 ++ leBytes 8 1 ++ leBytes 4 1 ++ leBytes 4 0 ++ leBytes 2 8 ++ leBytes 1 4 ++
    leBytes 1 1 ++ leBytes 92 0 ++ leBytes 4 0x140
def imageTail : List Byte :=
  leBytes 2 1 ++ leBytes 2 0xFFFF ++ leBytes 4 0xC0 ++ leBytes 8 0 ++ leBytes 2 4 ++ leBytes 2 0xFFFF ++ leBytes 4 0xC0 ++
    leBytes 4 128 ++ leBytes 4 16 ++ leBytes 32 0 ++
    (List.range 16).flatMap fun i => leBytes 3 0 ++ leBytes 1 i ++ leBytes 2 0 ++ leBytes 2 320
def goodImage : List Byte := imageHead ++ leBytes 4 758196307 ++ imageTail
/-- The load of 0x140 bytes at 1 GiB of stack 0 into bank A. -/
def aJob : PlanJob := ⟨0, 0x40000000, 0x140, (List.range 4).map fun k => State.reset.rd (pgKeep k) Slt.LAND_MAX 0⟩
/-- Bank A loads what stands there: an image, or zeros. -/
def loading (m : List Byte) : State :=
  let s := withRegs [(pgKeep 0, Pln.A_STATE, 1)]
  { s.setSched { s.sched with loading := [aJob] } with
    mem := ((List.range m.length).zip m).filterMap fun x => if x.2 = 0 then none else some (0x40000000 + x.1, x.2) }
def loadRest (m : List Byte) : State := (loading m).setSched { (loading m).sched with loading := [] }
theorem crc32c_of_parts {x y : List Byte} {a b : Nat} (h : x.foldl (crcByteR 0x82F63B78) 0xFFFFFFFF = a)
    (k : y.foldl (crcByteR 0x82F63B78) a = b) : crc32c (x ++ y) = Nat.xor b 0xFFFFFFFF := by
  unfold crc32c
  rw [List.foldl_append, h, k]
theorem crcCheck_of_eq {m l : List Byte} {c : Nat} (h : m.take 0x7C ++ List.replicate 4 0 ++ m.drop 0x80 = l)
    (k : crc32c l = c) (e : imgCrc m = c) : crcCheck m = none := by
  unfold crcCheck
  rw [h, k, e]
  exact if_pos rfl
theorem test_image_head_crc : (imageHead ++ leBytes 4 0).foldl (crcByteR 0x82F63B78) 0xFFFFFFFF = 1370082718 := by decide +kernel
theorem test_image_tail_crc : imageTail.foldl (crcByteR 0x82F63B78) 1370082718 = 3536770988 := by decide +kernel
theorem test_image_crc : crcCheck goodImage = none :=
  crcCheck_of_eq (l := (imageHead ++ leBytes 4 0) ++ imageTail) (c := Nat.xor 3536770988 0xFFFFFFFF) (by decide +kernel)
    (crc32c_of_parts test_image_head_crc test_image_tail_crc) (by decide +kernel)
theorem planCheck_of_eq {s : State} {m : List Byte} {j : PlanJob} (a : s.formatCheck m j.base j.len = none)
    (k : crcCheck m = none)
    (b : firstErr (fun (f : List Byte → Option PlanErr) => f m) [reservedCheck, s.placeCheck, streamsCheck, conflictCheck,
      windowCheck, openMinCheck, chunksCheck, flowCheck, foldCheck, landingCheck j.limits, slotCapCheck, s.refreshCheck j.bank,
      s.drumCheck, (s.objectsCheck · j.bank), variantCheck] = none)
    (c : imgActions m = []) : s.planCheck m j = .inr [] := by
  unfold State.planCheck
  rw [a, k, b, c]
  rfl
theorem test_image_form : (loadRest goodImage).formatCheck goodImage aJob.base aJob.len = none := by decide +kernel
theorem test_image_checks : firstErr (fun (f : List Byte → Option PlanErr) => f goodImage) [reservedCheck,
    (loadRest goodImage).placeCheck, streamsCheck, conflictCheck, windowCheck, openMinCheck, chunksCheck, flowCheck, foldCheck,
    landingCheck aJob.limits, slotCapCheck, (loadRest goodImage).refreshCheck aJob.bank, (loadRest goodImage).drumCheck,
    ((loadRest goodImage).objectsCheck · aJob.bank), variantCheck] = none := by
  decide +kernel
theorem test_image_actions : imgActions goodImage = [] := by decide +kernel
theorem test_image_accepted : (loadRest goodImage).planCheck goodImage aJob = .inr [] :=
  planCheck_of_eq test_image_form test_image_crc test_image_checks test_image_actions

/-- A state whose bank B is READY, with registers written. -/
def readyB (l : List (PageId × Reg × Nat)) : State := (withRegs l).put (pgKeep 0) Pln.B_STATE 0 2
/-- A module whose Keep 0 holds shared cells that a landing region of bank B leaves no room for; and one whose pinned stack is in P2. -/
def crowded : State :=
  let s := State.reset.setQueue 0 4 0 { fullQueue with sram := fullQueue.sram ++ fullQueue.sram }
  s.setOpn { s.opn with landing := [((0, 1), 2 ^ 21)] }
theorem test_witness_PlansLoadAndSwitchesArm_waits : (crowded.carve 0 goodImage).roomy = false ∧
    State.sleepers (State.setDom { State.reset with fst := [segEntry 1] } (288 + stackOf (segLoc 1)) 2) goodImage [1] ≠ [] := by decide +kernel
theorem test_witness_PlansLoadAndSwitchesArm :
    (1 < 2 ∧ planned.bankState 0 = 3 ∧ State.reset.bankState 1 ≠ 1 ∧ State.reset.bankState 1 ≠ 3 ∧
      State.reset.rdb (pgKeep 0) Pln.ARMED 0 = false ∧ State.reset.servesOld 1 = false) ∧
    State.reset.sched.loading = [] ∧
    ((loading goodImage).sched.loading = aJob :: [] ∧ aJob.bank < 2 ∧
      (loading goodImage).peek spHbm aJob.base aJob.len = goodImage ∧
      (loading goodImage).sleepers goodImage [] = [] ∧ ((loading goodImage).carve 0 goodImage).roomy = true) ∧
    ((loadRest []).formatCheck ((loading []).peek spHbm aJob.base aJob.len) aJob.base aJob.len ≠ none) ∧
    State.reset.bankState State.reset.targetBank ≠ 2 ∧
    ((readyB []).bankState (readyB []).targetBank = 2 ∧ tickReached (readyB []).now 0 = true ∧
      tickReached (readyB []).now 1 = false ∧ (readyB []).rdb (pgKeep 0) Pln.ARMED 0 = false ∧
      (readyB [(pgKeep 0, Pln.ARMED, 1)]).rdb (pgKeep 0) Pln.ARMED 0 = true) ∧
    (State.rdb (State.setSched (readyB [(pgKeep 0, Pln.ARMED, 1)]) { State.reset.sched with armAt := 1 }) (pgKeep 0) Pln.ARMED 0 = true ∧
      tickReached State.reset.now (State.switchAtTick
        (State.setSched (readyB [(pgKeep 0, Pln.ARMED, 1)]) { State.reset.sched with armAt := 1 })) = false ∧
      tickReached State.reset.now State.reset.switchAtTick = true) := by decide +kernel

/-! ## Witnesses: the host attachment -/

/-- A frame of 64 bytes from its first ones, with its FCS. -/
def frame (l : List Byte) : List Byte := padTo 60 l ++ leBytes 4 (crc32 (padTo 60 l))
def plain (dst : Nat) : List Byte := frame (beBytes 6 dst ++ beBytes 6 5 ++ beBytes 2 0x88B5)
/-- An ARP request of 0x0A000001 for address 0. -/
def arp : List Byte :=
  frame (beBytes 6 0xFFFFFFFFFFFF ++ beBytes 6 5 ++ beBytes 2 0x0806 ++ beBytes 2 1 ++ beBytes 2 0x0800 ++ beBytes 2 0x0604 ++
    beBytes 2 1 ++ beBytes 6 5 ++ beBytes 4 0x0A000001 ++ beBytes 6 0 ++ beBytes 4 0)
/-- A module whose frame table sends MAC 7 to endpoint 1, and MAC 9 nowhere. -/
def hostState (l : List (PageId × Reg × Nat)) : State :=
  withRegs ([(pgHost, Mac.MAC_LO, 3), (pgK3, Hst.FT_VALID, 1), (pgK3, Hst.FT_MAC_LO, 7), (pgK3, Hst.FT_DST, 1)] ++ l)
/-- A MAC control frame with an opcode. -/
def control (op : Nat) : List Byte := frame (beBytes 6 0x0180C2000001 ++ beBytes 6 5 ++ beBytes 2 0x8808 ++ beBytes 2 op)
/-- A frame in the ingress buffer of priority 0; and with a flit of another frame before it. -/
def ingressState (l : List (PageId × Reg × Nat)) (f : List Byte) : State := (hostState ((pgHost, Mac.LINK_UP, 1) :: l)).setIng 0 [⟨f, [], 2, false⟩]
def crowdedHost (f : List Byte) : State :=
  let s := ingressState [] f
  s.setOpn { s.opn with ready := ((s.frameFlits f).map fun x => ⟨3, 1, 6, .ingress, none, x, false, false⟩) }
/-- The same frame for a spilled queue whose region has no free page. -/
def spilledHost : State :=
  (ingressState [(pgKeep 0, Opn.OVF_SIZE, 0)] (plain 7)).setQueue 0 1 6 { EgressQ.empty with spilled := true }
theorem test_witness_HostFramesEnter :
    (64 ≤ (plain 7 ++ [0]).length && (plain 7 ++ [0]).length ≤ 9216 && fcsOk (plain 7 ++ [0])) = false ∧
    (∀ f ∈ [plain 7, plain 9, plain 3, arp], (64 ≤ f.length && f.length ≤ 9216 && fcsOk f) = true ∧ etype f ≠ 0x8808) ∧
    (∀ f ∈ [control 0x0101, control 0x0001], (64 ≤ f.length && f.length ≤ 9216 && fcsOk f) = true ∧ etype f = 0x8808) ∧
    (beAt (control 0x0101) (etypeAt (control 0x0101) + 2) 2 = 0x0101 ∧ beAt (control 1) (etypeAt (control 1) + 2) 2 = 1) ∧
    ((hostState [(pgK3, Hst.POL_EN, 1)]).rdb pgK3 Hst.POL_EN ((hostState []).framePcp (plain 7)) = true ∧
      (hostState [(pgK3, Hst.POL_EN, 1)]).polLevel ((hostState []).framePcp (plain 7)) < (plain 7).length * 8800 ∧
      (hostState []).rdb pgK3 Hst.POL_EN ((hostState []).framePcp (plain 7)) = false) ∧
    ((hostState [(pgK3, Hst.ING_CAP, 0)]).rd pgK3 Hst.ING_CAP 0 < (hostState []).ingCells 0 + frameCells (plain 7).length ∧
      (hostState []).rdb pgHost Mac.LINK_UP 0 = false ∧ (hostState [(pgHost, Mac.LINK_UP, 1)]).rdb pgHost Mac.LINK_UP 0 = true ∧
      (hostState []).poolHas 3 (frameCells (plain 7).length) = true ∧
      (hostState [(pgK3, Hst.ING_CAP, 2)]).ingCells 0 + frameCells (plain 7).length ≤
        (hostState [(pgK3, Hst.ING_CAP, 2)]).rd pgK3 Hst.ING_CAP 0 ∧
      bit ((hostState [(pgK3, Hst.PFC_TX_EN, 1)]).rd pgK3 Hst.PFC_TX_EN 0) 0 = true ∧ (hostState []).pausedTx 0 = false) := by
  decide +kernel
theorem test_witness_HostFramesEnter_forward :
    ((hostState []).ingressNext ≠ some 0 ∧ (ingressState [] (plain 7)).ingressNext = some 0 ∧
      (ingressState [] (plain 7)).ing 0 = ⟨plain 7, [], 2, false⟩ :: [] ∧
      State.ingressNext (State.setHost State.reset { State.reset.host with cur := some 0 }) = some 0 ∧ State.reset.ing 0 = []) ∧
    (∀ f ∈ [arp, plain 3, plain 9], (ingressState [] f).frameFlits f = []) ∧
    ((hostState []).frameOurs arp = true ∧ (hostState []).isArpForUs arp = true ∧ (hostState []).frameOurs (plain 3) = true ∧
      ((hostState []).isArpForUs (plain 3) || (hostState []).isNsForUs (plain 3) || (hostState []).isUdpForUs (plain 3)) = false ∧
      (hostState []).frameOurs (plain 9) = false) ∧
    (((ingressState [] (plain 7)).frameFlits (plain 7)).map (ingressState [] (plain 7)).hostRoom = [true] ∧
      ((ingressState [] (plain 7)).frameFlits (plain 7)).map (crowdedHost (plain 7)).hostRoom = [false] ∧
      ((ingressState [] (plain 7)).frameFlits (plain 7)).map (crowdedHost (plain 7)).hostFull = [none]) ∧
    (((ingressState [] (plain 7)).frameFlits (plain 7)).map spilledHost.hostRoom = [false] ∧
      ((ingressState [] (plain 7)).frameFlits (plain 7)).map spilledHost.hostFull = [some 0] ∧
      spilledHost.ingressNext = some 0 ∧ (spilledHost.ing 0).map IngressFrame.counted = [false]) := by decide +kernel

/-- Priority 0 paused toward the host, its buffer holding `n` cells, at a clock. -/
def pausing (en n clock : Nat) : State :=
  { (withRegs [(pgK3, Hst.PAUSED_TX, 1), (pgK3, Hst.XON, 4), (pgK3, Hst.PFC_TX_EN, en)]).setIng 0 [⟨[], [], n, false⟩] with clock := clock }
theorem test_witness_PausesAreSentAndObeyed :
    (bit ((pausing 1 4 8192).rd pgK3 Hst.PFC_TX_EN 0) 0 = true ∧ (pausing 1 4 8192).pausedTx 0 = true ∧
      (pausing 1 4 8192).rd pgK3 Hst.XON 0 ≤ (pausing 1 4 8192).ingCells 0 ∧
      AL.getD (pausing 1 4 8192).host.pfcAt 0 0 + 8192 ≤ (pausing 1 4 8192).clock ∧
      (pausing 1 4 8191).clock < AL.getD (pausing 1 4 8191).host.pfcAt 0 0 + 8192 ∧ (pausing 1 4 0).pausedTx 1 = false ∧
      (pausing 1 3 0).ingCells 0 < (pausing 1 3 0).rd pgK3 Hst.XON 0 ∧ bit ((pausing 0 4 8192).rd pgK3 Hst.PFC_TX_EN 0) 0 = false) ∧
    (7 < 8 ∧ (pausing 1 3 0).xonDue 0 = true ∧ (pausing 1 4 0).xonDue 0 = false) ∧
    ((bit 1 7 && bit (State.reset.rd pgK3 Hst.PFC_RX_EN 0) 7) = false ∧
      (bit 1 0 && bit ((withRegs [(pgK3, Hst.PFC_RX_EN, 1)]).rd pgK3 Hst.PFC_RX_EN 0) 0) = true) ∧
    (AL.get [(3, 5)] 3 = some 5 ∧ AL.get ([] : List (Nat × Nat)) 3 = none) := by decide +kernel

/-- A module whose host link is up, with one flit of a frame for the host MAC, and one frame in a queue. -/
def upState (l : List (PageId × Reg × Nat)) : State := withRegs ((pgHost, Mac.LINK_UP, 1) :: l)
def given (f : List Flit) : State :=
  let s := upState []
  s.setOpn { s.opn with service := f.map fun x => (2, 3, x) }
def ethFlit (fr : List Byte) (tag : Nat) : Flit :=
  FlitSpec.flit { kind := 1, vc := 6, dst := 2, dstM := true, src := 0, srcM := false, tick := 0, tag := tag, opcode := 0x20,
                  payload := fr }
theorem test_witness_HostFramesLeave :
    (uptoLast (State.reset.macFlits 6) = none ∧ uptoLast ((given [ethFlit (plain 9) 64]).macFlits 6) = some [ethFlit (plain 9) 64]) ∧
    (frameOf [ethFlit (plain 9) 63] = none ∧ frameOf [ethFlit (plain 9) 64] = some (plain 9) ∧
      frameOf [ethFlit (List.replicate 64 0) 64] = some (List.replicate 64 0) ∧ fcsOk (List.replicate 64 0) = false ∧
      fcsOk (plain 9) = true ∧ (given []).rdb pgHost Mac.LINK_UP 0 = true ∧ (given []).poolHas 3 (frameCells 64) = true ∧ (given [ethFlit (plain 9) 64]).flitGood (.service 2) ∧
      wqCells ((given []).wq 0) + frameCells 64 ≤ (given []).rd pgK3 Hst.QCAP ((given []).framePcp (plain 9))) ∧
    (State.reset.rdb pgHost Mac.LINK_UP 0 = false ∧
      (List.range 3).find? (State.strictReady (State.setHost (upState [(pgK3, Hst.SHP_RATE, 0)])
        { State.reset.host with strict := [(0, [plain 9])], shape := [(0, ⟨2 ^ 30, 0⟩)] })) = some 0 ∧
      (List.range 3).find? (upState []).strictReady = none ∧ (upState []).weightedPick = none ∧
      ((upState []).setWq 5 [⟨plain 9, 0, 1⟩]).weightedPick = some (5, ⟨plain 9, 0, 1⟩)) ∧
    ((State.reset.rdb pgHost Hdr.EN 0 = true ∧ State.reset.rdb pgHost Mac.LINK_UP 0 = false ∧ State.reset.domState 332 < 2) ∧
      (withRegs [(pgHost, Hdr.EN, 0)]).rdb pgHost Hdr.EN 0 = false ∧ (upState []).rdb pgHost Mac.LINK_UP 0 = true) := by
  decide +kernel

/-! ## Witnesses: the memory service -/

/-- A memory request of a unit of this module, physical. -/
def memReq (op sp off size : Nat) (data : List Byte) : Flit :=
  FlitSpec.flit { kind := 1, vc := 0, dst := 0, dstM := true, src := 0, srcM := true, tick := 0, tag := 5, opcode := op,
                  payload := reqPayload (sp * 2 ^ 40 + off) size 0 0 data }
/-- A state whose stack 0 is READY, with `w` pages of atomic window in Cupola 0. -/
def hbmState (w : Nat) : State := withRegs [(pgHbm 0, Hbm.HSTATE, 2), (pgDrum 0, Drm.WIN_CUR, w)]
/-- A state with a request that waits. -/
def waitingState (f : Flit) : State := { hbmState 0 with waiting := [f] }

theorem test_reset_unmarked : State.reset.unmarked := ⟨rfl, rfl⟩
theorem test_hbmState_unmarked (w : Nat) : (hbmState w).unmarked := ⟨rfl, rfl⟩

/-- What a request performed at once meets. -/
def servedAt (s : State) (f : Flit) (op : Nat) (a : Target) : Bool :=
  f.kind = 1 && f.opcode = op && f.hcrcOk && !f.poison && s.target f = .inr a && !s.waits a f && !s.requestStopped f &&
    a.sp < 3 && (a.sp ≠ spHbm || s.rd (pgHbm (stackOf a.loc)) Hbm.HSTATE 0 ≠ 4) && memWf s.mem && a.off + (reqOf f).size ≤ 2 ^ 40
/-- A request delivered to the memory service while a retry stops the link of its Keep and Cupola. -/
def stoppedRequest (f : Flit) : State :=
  let s := State.reset.setOpn { State.reset.opn with service := [(0, 0, f)] }
  { s with d2d := [((0x40, 0), ⟨0, 40⟩)] }
theorem test_witness_MemoryRequestsAreServed_stopped :
    (stoppedRequest (memReq 1 1 0 16 [])).requestStopped (memReq 1 1 0 16 []) = true ∧
    ((servingLost 0 (memReq 1 1 0 16 [])).requestStopped (memReq 1 1 0 16 []) = false ∧
      (servingLost 0 (memReq 1 1 0 16 [])).headerLost (.service 0) ∧
      ((servingLost 0 (memReq 1 1 0 16 [])).opn.service.find? fun x => x.1 = 0).map (fun x => x.2.2) = some (memReq 1 1 0 16 [])) ∧
    State.reset.requestRuns 1 (memReq 1 1 0 16 []) ∧ (hbmState 0).requestRuns 3 (memReq 3 2 64 4 [1, 2, 3, 4]) := by decide +kernel
theorem test_witness_MemoryRequestsAreServed :
    (memReq 1 2 0 16 []).opcode ≠ 2 ∧
    ((memReq 1 2 0 16 []).hcrcOk = true ∧ ((memReq 1 2 0 16 []).setField 112 16 0).hcrcOk = false ∧
      ((memReq 1 2 0 16 []).setField 112 16 0).kind = 1 ∧ ((memReq 1 2 0 16 []).setField 112 16 0).opcode = 1) ∧
    ((poisoned (memReq 1 2 0 16 [])).kind = 1 ∧ (poisoned (memReq 1 2 0 16 [])).opcode = 1 ∧
      (poisoned (memReq 1 2 0 16 [])).hcrcOk = true ∧ (poisoned (memReq 1 2 0 16 [])).poison = true) ∧
    State.reset.target (memReq 3 1 0 4 [0, 0, 0, 0]) = .inl 6 ∧
    (State.reset.target (memReq 1 0 0 16 []) = .inr ⟨spHbm, 0, none⟩ ∧
      State.reset.waits ⟨spHbm, 0, none⟩ (memReq 1 0 0 16 []) = true) ∧
    (∀ sp ∈ [0, 1, 2], ∀ op ∈ [1, 2, 0x10, 0x11],
      servedAt (hbmState 0) (memReq op sp 64 4 [1, 2, 3, 4]) op ⟨sp, 64, none⟩ = true) := by decide +kernel

theorem test_witness_AtomicsAndWaitingRequests :
    (∀ sp ∈ [0, 2], ∀ op ∈ [3, 4], ∀ w ∈ [0, 1],
      servedAt (hbmState w) (memReq op sp 64 4 [1, 2, 3, 4]) op ⟨sp, 64, none⟩ = true) ∧
    ((hbmState 0).atomSlot (atomCup (64 / 64)) = none ∧ (hbmState 1).atomSlot (atomCup (64 / 64)) ≠ none) ∧
    ((∀ f ∈ (waitingState (memReq 1 1 0 16 [])).waiting,
        (waitingState (memReq 1 1 0 16 [])).target f = .inr ⟨spTile, 0, none⟩) ∧
      (waitingState (memReq 1 1 0 16 [])).nextWaiting (fun a _ => tileAccess 0 a) =
        some (memReq 1 1 0 16 [], ⟨spTile, 0, none⟩) ∧
      (waitingState (memReq 1 1 0 16 [])).nextWaiting (fun a _ => tileAccess 1 a) = none) ∧
    ((∀ f ∈ (waitingState (memReq 1 0 0 16 [])).waiting,
        (waitingState (memReq 1 0 0 16 [])).target f = .inr ⟨spHbm, 0, none⟩) ∧
      (waitingState (memReq 1 0 0 16 [])).nextWaiting (fun a _ => a.sp = spHbm && stackOf a.loc = 0) =
        some (memReq 1 0 0 16 [], ⟨spHbm, 0, none⟩) ∧
      (waitingState (memReq 1 0 0 16 [])).nextWaiting (fun a _ => a.sp = spHbm && stackOf a.loc = 1) = none) := by
  decide +kernel

/-! ## Witnesses: compute tiles and the library -/

/-- A module of one instruction whose operands are one row of four FP32 elements at address 0 of the tile store. -/
def oneInsn (op imm0 imm1 : Nat) : List Byte :=
  padTo 0x40 (leBytes 20 0 ++ leBytes 4 1 ++ leBytes 2 1 ++ leBytes 2 0 ++ leBytes 4 0x60 ++ leBytes 4 0x40) ++
    (leBytes 4 0 ++ leBytes 4 1 ++ leBytes 4 4 ++ leBytes 4 16 ++ leBytes 16 0) ++
    (leBytes 1 op ++ leBytes 7 0 ++ leBytes 4 imm0 ++ leBytes 4 imm1)
/-- The planned module with tile 0 in a state, enabled. -/
def tileState (t : Tile) : State := { planned.put (pgTile 0) Hdr.EN 0 1 with tiles := [(0, t)] }
/-- Tile 0 running that body. -/
def bodyState (op imm0 imm1 : Nat) : State := tileState { Tile.idle with body := some (oneInsn op imm0 imm1) }
/-- The context of its instruction. -/
def ctxOf (op imm0 imm1 : Nat) : ICtx := { g := 0, m := oneInsn op imm0 imm1, i := 0, x := insnAt (oneInsn op imm0 imm1) 0 }
/-- Results whole, unscaled and clean. -/
def rowsClean (l : List TRow) : Bool := l.all fun r => r.scales = [] && r.els.all fun e => e.2 = false
/-- The destination is dense, whole and in the tile store. -/
def denseAt (s : State) (c : ICtx) (l : List TRow) : Bool :=
  !c.dd.hbm && !c.dd.mx && c.dd.ld = c.dd.rowBytes && l.length = c.dd.rows && rowsClean l && s.arrays.symErr = [] && memWf s.mem &&
    (rowsBytes c.dd l).length ≤ 2 ^ 21
/-- The instructions with a data effect. -/
def dataOps : List Nat :=
  [0x01, 0x02, 0x03, 0x04, 0x10, 0x11, 0x12, 0x13, 0x14, 0x15, 0x16, 0x17, 0x18, 0x19, 0x1A, 0x1B, 0x20, 0x21, 0x22]

theorem test_witness_TileInstructionsComplete : State.reset.insnNow 0 0 1 = none ∧
    ∀ op ∈ dataOps, (bodyState op 0 0).insnNow 0 0 op = some (ctxOf op 0 0) ∧
      raceSpans (ctxOf op 0 0).m ((ctxOf op 0 0).i, (ctxOf op 0 0).x) = [] ∧ (op = 0x03 ∨ op = 0x04 ∨
      (((ctxOf op 0 0).x.usesFp64 (ctxOf op 0 0).m && (bodyState op 0 0).rd (pgTile 0) Ari.SVC 0 = 0) = false ∧
        denseAt (bodyState op 0 0) (ctxOf op 0 0) ((bodyState op 0 0).resultRows (ctxOf op 0 0)) = true)) := by decide +kernel

theorem test_witness_LibraryRoutinesComplete : State.reset.insnNow 0 0 0x30 = none ∧
    (∀ id ∈ [1, 2, 3, 4, 5, 6, 7, 8], (bodyState 0x30 id 0).insnNow 0 0 0x30 = some (ctxOf 0x30 id 0) ∧
      (ctxOf 0x30 id 0).x.imm0 % 2 ^ 16 = id ∧ id ≠ 9) ∧
    ∀ id ∈ [3, 5, 6], denseAt (bodyState 0x30 id 0) (ctxOf 0x30 id 0) ((bodyState 0x30 id 0).routineRows id (ctxOf 0x30 id 0)) = true := by
  decide +kernel

theorem sortRows {s : State} {c : ICtx} {l : List Rec} (h : c.dd.rows = 1)
    (k : sortRecs (c.x.imm1 % 16) (bit c.x.imm1 8) (recsOfRow (c.x.imm1 % 16) (s.trow c.g c.da 0)) = l) :
    s.routineRows 1 c = [bitsRow 0 (rowBad (s.trow c.g c.da 0)) (l.flatMap fun r => [r.key, r.value])] := by
  simp [State.routineRows, h, k, List.range_succ]
theorem test_sorted : recsOfRow 0 ((bodyState 0x30 1 0).trow 0 (ctxOf 0x30 1 0).da 0) = [⟨0, 0, false⟩, ⟨0, 0, false⟩] := by
  decide +kernel
theorem test_sort : sortRecs 0 false [⟨0, 0, false⟩, ⟨0, 0, false⟩] = [⟨0, 0, false⟩, ⟨0, 0, false⟩] :=
  List.mergeSort_of_pairwise (by decide)
theorem test_witness_SortCompletes :
    denseAt (bodyState 0x30 1 0) (ctxOf 0x30 1 0) ((bodyState 0x30 1 0).routineRows 1 (ctxOf 0x30 1 0)) = true := by
  rw [sortRows (l := [⟨0, 0, false⟩, ⟨0, 0, false⟩]) (by decide +kernel) (test_sorted ▸ test_sort)]
  decide +kernel

/-- A module of one instruction over dense operands in the tile store, each given by its format, rows, columns and address. -/
def tableInsn (l : List (Nat × Nat × Nat × Nat)) (op d a b c imm0 imm1 : Nat) : List Byte :=
  padTo 0x40 (leBytes 20 0 ++ leBytes 4 1 ++ leBytes 2 l.length ++ leBytes 2 0 ++ leBytes 4 (0x40 + 32 * l.length) ++ leBytes 4 0x40) ++
    (l.flatMap fun x => leBytes 1 0 ++ leBytes 1 x.1 ++ leBytes 2 0 ++ leBytes 4 x.2.1 ++ leBytes 4 x.2.2.1 ++
      leBytes 4 (4 * x.2.2.1) ++ leBytes 16 x.2.2.2) ++
    (leBytes 1 op ++ leBytes 1 0 ++ leBytes 1 d ++ leBytes 1 a ++ leBytes 1 b ++ leBytes 1 c ++ leBytes 2 0 ++ leBytes 4 imm0 ++
      leBytes 4 imm1)
/-- Tile 0 running that body, and the context of its instruction. -/
def tableState (m : List Byte) : State := tileState { Tile.idle with body := some m }
def tableCtx (m : List Byte) : ICtx := { g := 0, m := m, i := 0, x := insnAt m 0 }

/-- GATHER and SCATTER of two rows of four elements under two INT32 indices, both 0. -/
def gatherModule : List Byte := tableInsn [(fFP32, 2, 4, 0), (fFP32, 1, 4, 0x100), (fINT32, 2, 1, 0x200)] 3 0 1 0xFF 2 0 0
def scatterModule : List Byte := tableInsn [(fFP32, 1, 4, 0), (fFP32, 2, 4, 0x100), (fINT32, 2, 1, 0x200)] 4 0 1 0xFF 2 0 0
theorem test_witness_TileInstructionsComplete_gather :
    (tableState gatherModule).insnNow 0 0 3 = some (tableCtx gatherModule) ∧
    raceSpans gatherModule ((tableCtx gatherModule).i, (tableCtx gatherModule).x) = [] ∧
    ((tableCtx gatherModule).x.usesFp64 gatherModule && (tableState gatherModule).rd (pgTile 0) Ari.SVC 0 = 0) = false ∧
    denseAt (tableState gatherModule) (tableCtx gatherModule) ((tableState gatherModule).resultRows (tableCtx gatherModule)) = true := by
  decide +kernel
theorem test_witness_TileInstructionsComplete_scatter : ∀ c, c = tableCtx scatterModule → ∀ s, s = tableState scatterModule →
    s.insnNow 0 0 4 = some c ∧ raceSpans c.m (c.i, c.x) = [] ∧ c.x.imm0 % 4 = 0 ∧ (c.dd.hbm = false ∧ c.dd.mx = false ∧ c.dd.ld = c.dd.rowBytes) ∧
    (s.arrays.symErr = [] ∧ memWf s.mem = true) ∧
    (∀ j, j < c.da.rows → (s.indexAt c j).2 = false ∧ ((s.rowBits c.g c.da 0 j).bytes c.dd).length = c.dd.rowBytes ∧
      ∀ e ∈ (s.rowBits c.g c.da 0 j).els, e.2 = false) ∧
    0 * 2 ^ 21 + c.dd.addr % 2 ^ 21 + c.dd.rows * c.dd.rowBytes ≤ 2 ^ 40 ∧ 1 < c.da.rows ∧
    inTable c.dd.rows (s.indexAt c 1).1 = some 0 := by
  rintro c rfl s rfl
  decide +kernel

/-- The routines that read three operands, HISTOGRAM, and TOPK of one element with its key in B or nowhere. -/
def attnModule : List Byte :=
  tableInsn [(fFP32, 1, 3, 0), (fFP32, 1, 2, 0x100), (fFP32, 1, 2, 0x200), (fFP32, 1, 1, 0x300)] 0x30 0 1 2 3 4 0x400
def histModule : List Byte := tableInsn [(fINT32, 1, 2, 0), (fINT32, 1, 4, 0x100)] 0x30 0 1 0xFF 0xFF 7 1
def filterModule : List Byte :=
  tableInsn [(fINT32, 1, 2, 0), (fINT32, 1, 2, 0x100), (fFP32, 1, 2, 0x200), (fINT32, 1, 3, 0x300)] 0x30 0 1 2 3 8 0
def topkModule (b : Nat) : List Byte := tableInsn [(fINT32, 1, 1, 0), (fFP32, 1, 1, 0x100), (fFP32, 1, 1, 0x200)] 0x30 0 1 b 0xFF 2 1
/-- A routine that may be performed now, on operands that are not poisoned. -/
def routineReady (id : Nat) (m : List Byte) : Prop :=
  (tableState m).insnNow 0 0 0x30 = some (tableCtx m) ∧ (tableCtx m).x.imm0 % 2 ^ 16 = id ∧
    (tableState m).unpoisoned id (tableCtx m) ∧
    denseAt (tableState m) (tableCtx m) ((tableState m).routineRows id (tableCtx m)) = true
theorem test_witness_LibraryRoutinesComplete_rest :
    routineReady 4 attnModule ∧ routineReady 7 histModule ∧ routineReady 8 filterModule := by
  unfold routineReady State.unpoisoned
  decide +kernel
/-- TOPK's records of one element. -/
theorem test_topk (b : Nat) (h : b = 2 ∨ b = 0xFF) :
    (tableState (topkModule b)).topRecs (tableCtx (topkModule b)) 0 = [⟨0, 0, false⟩] := by
  have e : sortRecs fFP32 false [⟨0, 0, false⟩] = [⟨0, 0, false⟩] := List.mergeSort_of_pairwise (by decide)
  rcases h with rfl | rfl
  · exact congrArg (List.take 1) e
  · exact congrArg (List.take 1) e
theorem test_witness_LibraryRoutinesComplete_topk : ∀ b ∈ [2, 0xFF], ∀ c, c = tableCtx (topkModule b) →
    ∀ s, s = tableState (topkModule b) → s.insnNow 0 0 0x30 = some c ∧ c.x.imm0 % 2 ^ 16 = 2 ∧
    (∀ i, i < c.dd.rows → rowBad (s.trow c.g c.da i) = false) ∧ (s.arrays.symErr = [] ∧ memWf s.mem = true) ∧
    (opDesc c.m c.x.b = if b = 2 then some (tdescAt c.m 2) else none) ∧
    ((tdescAt c.m 2).hbm = false ∧ (tdescAt c.m 2).mx = false ∧ (tdescAt c.m 2).ld = (tdescAt c.m 2).rowBytes ∧
      (tdescAt c.m 2).rows = c.dd.rows) := by
  intro b h c hc s hs
  subst hc hs
  revert b
  decide +kernel
theorem test_witness_LibraryRoutinesComplete_topk_rows :
    denseAt (tableState (topkModule 0xFF)) (tableCtx (topkModule 0xFF))
      ((tableState (topkModule 0xFF)).routineRows 2 (tableCtx (topkModule 0xFF))) = true := by
  have d : (tableCtx (topkModule 0xFF)).dd.rows = 1 := by decide +kernel
  have e : (tableState (topkModule 0xFF)).routineRows 2 (tableCtx (topkModule 0xFF)) =
      [bitsRow 0 (rowBad ((tableState (topkModule 0xFF)).trow 0 (tableCtx (topkModule 0xFF)).da 0)) [0]] := by
    simp only [State.routineRows, d, List.range_succ, List.range_zero, List.nil_append, List.map_cons, List.map_nil,
      test_topk 0xFF (.inr rfl)]
    rfl
  rw [e]
  decide +kernel

/-- A wait of queue 1 for flag 0, with a count of 2, behind one of queue 0 with a count of 9. -/
def twoWaits (flag : Nat) : Tile :=
  { Tile.idle with body := some (oneInsn 0 0 0), waits := [⟨0, 3, 0, 9⟩, ⟨1, 4, 0, 2⟩], flags := [(0, flag)] }
theorem test_witness_FencesAndFlagsOrderTheBody :
    (∀ op ∈ [opAcq, opRel, opFull, opSet, opWait, opWaitv], State.reset.insnNow 0 0 op = none ∧
      (bodyState op 0 3).insnNow 0 0 op = some (ctxOf op 0 3) ∧ ((bodyState op 0 3).tile 0).waits = []) ∧
    (((bodyState opWait 0 3).tile 0).flag (ctxOf opWait 0 3).x.flag < (ctxOf opWait 0 3).x.imm1 % 256 ∧
      (ctxOf opWait 0 0).x.imm1 % 256 ≤ ((bodyState opWait 0 0).tile 0).flag (ctxOf opWait 0 0).x.flag) ∧
    ((bodyState opWaitv 0 4).planPeekN spTile (0 * 2 ^ 21 + (ctxOf opWaitv 0 4).x.imm1) 4 = 0 ∧
      State.planPeekN { bodyState opWaitv 0 4 with mem := [(cellAddr spTile 5, 1)] } spTile 4 4 = 256 ∧
      State.planPeekN { bodyState opWaitv 0 4 with mem := [(cellAddr spTile 4, 1)] } spTile 4 4 = 1 ∧
      State.insnNow { bodyState opWaitv 0 4 with mem := [(cellAddr spTile 4, 1)] } 0 0 opWaitv = some (ctxOf opWaitv 0 4)) ∧
    ((State.reset.tile 0).running = false ∧ (twoWaits 1).running = true ∧ planned.planTick.runs = true ∧
      (tileState (twoWaits 1)).planTick.runs = true ∧
      (twoWaits 1).waits.find? (fun w => w.q = 2) = none ∧ (twoWaits 1).waits.find? (fun w => w.q = 1) = some ⟨1, 4, 0, 2⟩ ∧
      (twoWaits 1).flag 0 < 2 ∧ 2 ≤ (twoWaits 2).flag 0 ∧ ∀ v ∈ (twoWaits 2).waits, v.q < 1 → v.flag = 0 → (twoWaits 2).flag 0 < v.need) := by
  decide +kernel

theorem test_witness_BodiesEndAndCodeArrives :
    (State.reset.bodyAllDone 0 = false ∧
      (tileState { Tile.idle with body := some (oneInsn 2 0 0), done := [0] }).bodyAllDone 0 = true ∧
      (tileState { Tile.idle with body := some (oneInsn 2 0 0), done := [0] }).planTick.runs = true) ∧
    ((State.reset.tile 0).copy = none ∧
      ((tileState { Tile.idle with copy := some [1] }).tile 0).copy = some [1] ∧
      ((tileState { Tile.idle with copy := some [1] }).tile 0).late = false ∧
      ((tileState { Tile.idle with copy := some [1], late := true, body := some [1] }).tile 0).late = true ∧
      ((tileState { Tile.idle with copy := some [1], late := true, body := some [1] }).tile 0).body ≠ none ∧
      State.inGuard { State.reset with tiles := [(0, { Tile.idle with copy := some [1], late := true, body := some [1] })] } = false ∧
      State.inGuard { planned with clock := 8191 } = true) ∧
    ((bodyState 2 0 0).tile 0 |>.running) = true ∧ (State.reset.tile 0).running = false ∧
    (State.reset.rd (pgTile 0) Til.IMEM_WBANK 0 = State.reset.rd (pgTile 0) Til.FETCH_BANK 0 ∧
      (withRegs [(pgTile 0, Til.IMEM_WBANK, 1)]).rd (pgTile 0) Til.IMEM_WBANK 0 ≠
        (withRegs [(pgTile 0, Til.IMEM_WBANK, 1)]).rd (pgTile 0) Til.FETCH_BANK 0) := by decide +kernel

/-! ## Witnesses: Keep movers and in-service checks -/

/-- Mover 3 with a job of `len` bytes, in a state, and what it holds. -/
def moving (op len st : Nat) (m : Mover) : State :=
  (withRegs [(pgKeep 3, Mov.MV_OP, op), (pgKeep 3, Mov.MV_LEN_LO, len), (pgKeep 3, Mov.MV_STATE, st)]).setMover 3 m
/-- A mover with a read of 8 bytes outstanding under tag 7, or the write that follows it. -/
def oneReq (writing : Bool) : Mover := { Mover.idle with next := 8, reqs := [⟨7, 0, 8, writing⟩] }

/-- Its reservation for that request. -/
def owed (w : Bool) : State := { moving 1 8 1 (oneReq w) with reservations := [⟨mvSrc 3, 7, 0, 0, none, 0x10, 0⟩] }
theorem test_witness_MoversMoveAndStop_owed :
    ((owed false).mvOwed 3 (aReply 7 0) = true ∧ (moving 1 8 1 (oneReq false)).mvOwed 3 (aReply 7 0) = false ∧
      (moving 1 8 1 (oneReq false)).mvOwed 3 (aReply 7 0xE0) = true ∧ (owed false).flitGood (.service (4 + 3))) ∧
    ((servingLost (4 + 3) (aReply 7 0)).headerLost (.service (4 + 3)) ∧
      ((servingLost (4 + 3) (aReply 7 0)).opn.service.find? fun x => x.1 = 4 + 3).map (fun x => x.2.2) = some (aReply 7 0)) := by
  decide +kernel
theorem test_witness_MoversMoveAndStop :
    (3 < 4 ∧ State.reset.rd (pgKeep 3) Mov.MV_OP 0 ≠ 1 ∧ (∀ op ∈ [1, 2], ∀ len ∈ [0, 8], ∀ st ∈ [0, 1, 2],
      (moving op len st Mover.idle).rd (pgKeep 3) Mov.MV_OP 0 = op ∧ (moving op len st Mover.idle).mvState 3 = st ∧
      (moving op len st Mover.idle).mvValid 3 = true ∧ (moving op len st Mover.idle).mvLen 3 = len) ∧
      ((moving 1 8 0 Mover.idle).put (pgKeep 3) Mov.SFMT 0 1).mvValid 3 = false) ∧
    (((aReply 7 0).setField 112 16 0).hcrcOk = false ∧ (poisoned (aReply 7 0)).hcrcOk = true ∧ (∀ st ∈ [0, 2], (aReply 7 st).hcrcOk = true) ∧
      (poisoned (aReply 7 0)).poison = true ∧ ((moving 1 8 1 Mover.idle).mover 3).reqs.find? (fun r => r.tag = (aReply 7 0).tag) = none ∧
      (∀ st ∈ [0, 2], (aReply 7 st).poison = false ∧ (aReply 7 st).status = st) ∧ ∀ w ∈ [false, true], ∀ st ∈ [1, 2],
        ((moving 1 8 st (oneReq w)).mover 3).reqs.find? (fun r => r.tag = (aReply 7 0).tag) = some ⟨7, 0, 8, w⟩ ∧
        (moving 1 8 st (oneReq w)).mvState 3 = st ∧
        ((moving 1 8 st (oneReq w)).mover 3).reqs.filter (· ≠ ⟨7, 0, 8, w⟩) = [] ∧
        (moving 1 8 st (oneReq w)).mvLen 3 ≤ ((moving 1 8 st (oneReq w)).mover 3).next) ∧
    ((moving 1 8 2 { Mover.idle with aborting := true }).mvState 3 = 2 ∧
      ((moving 1 8 2 { Mover.idle with aborting := true }).mover 3).reqs = [] ∧
      ((moving 1 8 2 { Mover.idle with aborting := true }).mover 3).aborting = true ∧
      ((moving 1 8 2 { Mover.idle with fault := some (0, 3, 9) }).mover 3).aborting = false ∧
      ((moving 1 8 2 { Mover.idle with fault := some (0, 3, 9) }).mover 3).fault = some (0, 3, 9)) ∧
    (0 = (moving 1 8 3 Mover.idle).rd2 (pgKeep 3) Mov.MV_DONE_LO Mov.MV_DONE_HI 0 ∧ (moving 1 8 3 Mover.idle).mvState 3 = 3 ∧
      0 < (moving 1 8 3 Mover.idle).mvLen 3 ∧ (moving 1 0 3 Mover.idle).mvState 3 = 3 ∧ (moving 1 0 3 Mover.idle).mvLen 3 ≤ 0) := by
  decide +kernel

/-- A critical word whose copies 1 and 2 hold `c1` and `c2`. -/
def tripKey : RegKey := rkey pgWatch Wat.W_CUT 0
def tripState (en c1 c2 : Nat) (bad : Bool) : State :=
  { withRegs [(pgIntegrity, Itg.TRIP_EN, en), (pgWatch, Wat.W_CUT, 5)] with trip := [(tripKey, ⟨c1, c2, bad⟩)] }
/-- A critical word that is no register field, its copies held as their differences. -/
def wordKey : RegKey := ⟨0xFF, 0, 0xFFF, 0⟩
def wordState (c1 c2 : Nat) : State := { State.reset with trip := [(wordKey, ⟨c1, c2, true⟩)] }
theorem test_witness_VotedWordsAreRepaired :
    fieldOfKey tripKey = some (pgWatch, Wat.W_CUT, 0) ∧ tripKey.ty ≠ pgIntegrity.ty ∧
    (∀ c ∈ [(5, 5), (5, 6), (6, 6), (6, 7)], ∀ en ∈ [0, 1], ∀ bad ∈ [false, true],
      AL.get (tripState en c.1 c.2 bad).trip tripKey = some ⟨c.1, c.2, bad⟩ ∧
      (tripState en c.1 c.2 bad).copy0 pgWatch Wat.W_CUT 0 = 5 ∧
      (tripState en c.1 c.2 bad).rdb pgIntegrity Itg.TRIP_EN 0 = (en = 1)) ∧
    AL.get State.reset.trip tripKey = none ∧ fieldOfKey wordKey = none ∧
    (∀ c ∈ [(0, 0), (0, 1), (1, 1), (1, 2)], AL.get (wordState c.1 c.2).trip wordKey = some ⟨c.1, c.2, true⟩) ∧
    ((tripState 0 5 6 false).raw pgIntegrity Hdr.LOCK 0 ≠ 1 ∧ (tripState 0 5 6 false).rdb pgIntegrity Itg.TRIP_EN 0 = false ∧
      1 % 2 = 1) := by decide +kernel

/-- A scrub pass at offset `pos` of 128 bytes. -/
def scrubbing (pos rate hstate : Nat) : State :=
  { withRegs [(pgIntegrity, Itg.SCRUB_RATE, rate), (pgHbm 0, Hbm.HSTATE, hstate)] with scrub := some ⟨pos, 128, 0, 1⟩ }
/-- A spot-checker of Cupola 7 with one element expected. -/
def spotting (e : List (Option Nat)) : State :=
  { State.reset with spots := [(7, { tile := 3, tick := some 0, insn := 0, elems := [9], exp := e })] }
theorem test_witness_InServiceChecksRun :
    ((withRegs [(pgIntegrity, Itg.SCRUB_STATE, 1)]).rd pgIntegrity Itg.SCRUB_STATE 0 = 1 ∧
      State.reset.rd pgIntegrity Itg.SCRUB_STATE 0 ≠ 1 ∧ State.reset.scrubEnd ≤ State.reset.scrubStart ∧
      State.scrubStart (withRegs [(pgIntegrity, Itg.SCRUB_END_LO, 1)]) < State.scrubEnd (withRegs [(pgIntegrity, Itg.SCRUB_END_LO, 1)]) ∧
      State.scrubEnd (withRegs [(pgIntegrity, Itg.SCRUB_END_LO, 1)]) ≤ 2 ^ 40) ∧
    (State.reset.scrub = none ∧ (scrubbing 0 1 2).scrub ≠ none) ∧
    ((scrubbing 0 1 2).scrub = some ⟨0, 128, 0, 1⟩ ∧ 1 = (if (scrubbing 0 1 2).now = 0 then 1 else 0) ∧
      (scrubbing 0 1 2).rd pgIntegrity Itg.SCRUB_RATE 0 ≤ 1 ∧ 1 < (scrubbing 0 2 2).rd pgIntegrity Itg.SCRUB_RATE 0 ∧
      (scrubbing 0 2 3).rd (pgHbm (0 / 2 ^ 36)) Hbm.HSTATE 0 = 3 ∧ (scrubbing 0 2 2).rd (pgHbm (0 / 2 ^ 36)) Hbm.HSTATE 0 ≠ 3 ∧
      0 + 64 < 128 ∧ 128 ≤ 64 + 64 ∧ (scrubbing 64 2 2).scrub = some ⟨64, 128, 0, 1⟩) ∧
    (7 = (if (AL.get (spotting []).spots (8 + 7)).isSome then 8 + 7 else 7) ∧ AL.get State.reset.spots 7 = none ∧
      (∀ e ∈ [[], [some 5]], (AL.get (spotting e).spots 7).map Spot.exp = some e) ∧
      (AL.get (spotting [some 5]).spots 7).map (fun x => x.elems.length) = some ([some 5] : List (Option Nat)).length ∧
      ([some 5].filter Option.isSome : List (Option Nat)) ≠ [] ∧ ([some 5] : List (Option Nat))[0]? = some (some 5) ∧
      ([6] : List Nat)[0]? = some 6) ∧
    (State.marginDue State.reset = true ∧ State.marginDue { State.reset with margin := [(320, (0, 0))] } = false ∧
      63 < 64 ∧ State.reset.rd pgIntegrity Itg.DROOP_WARN 0 ≤ (List.replicate 64 0x28).getD 63 0 ∧
      State.reset.rd pgIntegrity Itg.DROOP_QUAR 0 ≤ (List.replicate 64 0x3C).getD 63 0 ∧
      ¬ State.reset.rd pgIntegrity Itg.DROOP_QUAR 0 ≤ (List.replicate 64 0x28).getD 63 0) := by decide +kernel

/-! ## Witnesses: Watch -/

/-- Watch in a state. -/
def watching (l : List (PageId × Reg × Nat)) (w : Watch) : State := (withRegs l).setWatch w
/-- A joined module whose X+ link is up and has been silent for `n` ticks. -/
def silent (n : Nat) : State :=
  let s := withRegs [(pgBelfry, Bel.JOINED, 1), (pgLink 0x10, Lnk.LSTATE, 5)]
  s.setBelfry { s.belfry with silent := [(0, n)] }
def aReport : Report := ⟨1, 0x44, 2, 0⟩
theorem test_witness_RoundsAreDecided :
    (0 < 6 ∧ (silent 4).joined = true ∧ (silent 4).linkUp (torusLink 0) = true ∧ AL.getD (silent 4).belfry.silent 0 0 = 4 ∧
      AL.getD (silent 5).belfry.silent 0 0 ≠ 4 ∧
      State.reset.watch.seen.contains aReport = false ∧ State.reset.keyFailed 0x44 = false ∧
      (watching [] { Watch.idle with seen := [aReport] }).watch.seen.contains aReport = true) ∧
    (5 < 6 ∧ (aMsg 1 1 9).type = 1 ∧ 1 ≤ (aMsg 1 1 9).cls ∧ (aMsg 1 1 9).cls ≤ 7 ∧
      aReport = ⟨(aMsg 1 1 9).cls, (aMsg 1 1 9).key % 2 ^ 19, (aMsg 1 1 9).td % 2 ^ 48, (aMsg 1 1 9).entry⟩) ∧
    (State.reset.watchDue = none ∧ State.reset.holdSet ≠ 2 ∧
      (atTick (State.reset.wCut + State.reset.wConf) (watching [(pgWatch, Wat.HOLD_SET, 2)] Watch.idle)).watchDue = none ∧
      (atTick (State.reset.wCut + State.reset.wConf) (watching [(pgWatch, Wat.HOLD_SET, 2)] Watch.idle)).holdSet = 2 ∧
      (atTick (State.reset.wCut + State.reset.wConf) (watching [(pgWatch, Wat.HOLD_SET, 2)] Watch.idle)).now =
        (atTick (State.reset.wCut + State.reset.wConf) (watching [(pgWatch, Wat.HOLD_SET, 2)] Watch.idle)).holdG ∧
      (atTick State.reset.wConf (watching [] { Watch.idle with cut := some 0 })).watchDue = some 0) ∧
    (AL.get State.reset.watch.digests (5 % 2 ^ 48) = none ∧
      AL.get (watching [] { Watch.idle with digests := [(5, 9)] }).watch.digests (5 % 2 ^ 48) = some 9 ∧ 9 % 2 ^ 32 = 9 ∧
      8 % 2 ^ 32 ≠ 9) := by decide +kernel

/-- A module that may be commanded for tick `a`, with RB_STATE. -/
def commanded (a rb : Nat) : State := withRegs [(pgWatch, Wat.CMD_AT_LO, a), (pgWatch, Wat.RB_STATE, rb)]
theorem test_witness_HoldsAndCommandsTakeEffect :
    (State.reset.watch.switchAt = none ∧ tickReached State.reset.now 1 = false ∧ tickReached State.reset.now 0 = true ∧
      (∀ set ∈ [0, 1], (watching [] { Watch.idle with switchAt := some 0, switchSet := set, aborted := some 3 }).watch.switchAt = some 0 ∧
        (watching [] { Watch.idle with switchAt := some 0, switchSet := set, aborted := some 3 }).watch.reselect = false ∧
        (watching [] { Watch.idle with switchAt := some 0, switchSet := set, aborted := some 3 }).isHeld = false) ∧
      bit 1 0 = true) ∧
    (∀ r ∈ [0, 1], ∀ h ∈ [1, 2], (watching [(pgWatch, Wat.HOLD_SET, h)] { Watch.idle with resumeAt := some r }).watch.resumeAt = some r ∧
      (watching [(pgWatch, Wat.HOLD_SET, h)] { Watch.idle with resumeAt := some r }).holdSet = h) ∧
    ((∀ a ∈ [0, 1023, 1024], ∀ rb ∈ [0, 1], (commanded a rb).rd2 pgWatch Wat.CMD_AT_LO Wat.CMD_AT_HI 0 = a ∧
        (commanded a rb).rd pgWatch Wat.RB_STATE 0 = rb ∧ (commanded a rb).floodedBefore 0x30 a = false) ∧
      (State.reset.rememberFlood 0x30 5).floodedBefore 0x30 5 = true ∧
      tickLater 0 State.reset.now = false ∧ tickLater 1023 State.reset.now = true ∧ tickSub 1023 State.reset.now ≤ 1023 ∧
      tickLater 1024 State.reset.now = true ∧ 1023 < tickSub 1024 State.reset.now) ∧
    ((aMsg 3 3 1023).type = 3 ∧ (aMsg 3 3 1023).cls ≤ 3 ∧ (aMsg 3 3 1023).c % 2 ^ 48 = 1023 ∧ 5 < 6) ∧
    (State.reset.watch.cmds = [] ∧ (∀ code ∈ [1, 2, 3], ∀ h ∈ [0, 1],
      (watching [(pgWatch, Wat.HOLD_SET, h), (pgWatch, Wat.IN_FLIGHT, 1)] { Watch.idle with cmds := [(0, code)] }).watch.cmds.filter
        (fun c => tickReached State.reset.now c.1) = [(0, code)] ∧
      (watching [(pgWatch, Wat.HOLD_SET, h), (pgWatch, Wat.IN_FLIGHT, 1)] { Watch.idle with cmds := [(0, code)] }).isHeld = (h = 1) ∧
      (watching [(pgWatch, Wat.HOLD_SET, h), (pgWatch, Wat.IN_FLIGHT, 1)] { Watch.idle with cmds := [(0, code)] }).rdb
        pgWatch Wat.IN_FLIGHT 0 = true)) := by decide +kernel

/-- Two mirrored segments of 2 MiB, a primary and a mirror, and a restore in progress. -/
def restoring (l : List (PageId × Reg × Nat)) (r : Option Restore) : State :=
  { watching l { Watch.idle with restore := r } with
    fst := [(1, [0x5519, 0xC20, 1, 0x10201, 0, 0, 0, 0]), (2, [0x555B, 0xC20, 3, 0x10203, 0, 0, 0, 0])] }
def aRestore (i : Nat) (checking faulted mismatched : Bool) : Restore :=
  { todo := [1], rebuild := [2], cur := some i, checking := checking, faulted := faulted, mismatched := mismatched, bytes := 0,
    mover := some 3 }
def chkPage : PageId := pgUe ((restoring [] none).checkEngine 1)
theorem test_witness_RestoresCopyCheckAndEnd_mover :
    ((aRestore 1 false false false).mover = some 3 ∧ 3 < 4 ∧ { aRestore 1 false false false with mover := none }.mover = none) ∧
    ∀ st ∈ [1, 3, 4], (restoring [(pgKeep 3, Mov.MV_STATE, st)] (some (aRestore 1 false false false))).mvState 3 = st := by
  decide +kernel
theorem test_witness_RestoresCopyCheckAndEnd :
    (bit 0x0FFF0000 31 = false ∧ bit 0x8FFF0000 31 = true ∧ (restoring [] none).watch.restore = none ∧
      ∃ x ∈ (restoring [] none).fst, bits 0x8FFF0000 0 12 ≤ x.1 ∧ x.1 ≤ bits 0x8FFF0000 16 12 ∧
        (restoring [] none).restorable x.1 = true ∧ fstState ((restoring [] none).fstEntry x.1) = 0) ∧
    (∀ i ∈ [1, 2], ∀ ch ∈ [false, true], ∀ fa ∈ [false, true],
      (restoring [] (some (aRestore i ch fa false))).watch.restore = some (aRestore i ch fa false) ∧
      (aRestore i ch fa false).cur = some i ∧ (i = 1 ↔ i ∈ (aRestore i ch fa false).todo) ∧
      fstFreeze ((restoring [] (some (aRestore i ch fa false))).fstEntry 2) = true) ∧
    ((restoring [(chkPage, Ue.CHK_STATE, 2)] (some (aRestore 1 true false false))).rd chkPage Ue.CHK_STATE 0 = 2 ∧
      (restoring [] (some (aRestore 1 true false false))).rd chkPage Ue.CHK_STATE 0 ≠ 2 ∧
      (restoring [] none).rd2 chkPage Ue.CHK_SUM_LO Ue.CHK_SUM_HI 0 = 0 % 2 ^ 64 ∧
      (restoring [] none).rd2 chkPage Ue.CHK_NORM_LO Ue.CHK_NORM_HI 0 = 0 % 2 ^ 64 ∧
      (restoring [] none).rd2 chkPage Ue.CHK_NORM_LO Ue.CHK_NORM_HI 0 ≠ 1 % 2 ^ 64 ∧
      (aRestore 1 true false true).mismatched = true) := by decide +kernel

theorem test_witness_JoiningAndPairing :
    (bit 2 0 = false ∧ bit 3 0 = true ∧ State.reset.joined = false ∧ State.reset.joinOk = false ∧
      (withRegs [(pgIntegrity, Itg.ST_PASS, 0x1FF)]).joined = false ∧
      State.joinOk (withRegs [(pgIntegrity, Itg.ST_PASS, 0x1FF)]) = true) ∧
    (5 < 6 ∧ (watching [(pgLink 0x15, Lnk.LSTATE, 5)] { Watch.idle with joining := some false }).watch.joining = some false ∧
      (watching [(pgLink 0x15, Lnk.LSTATE, 5)] { Watch.idle with joining := some false }).watch.adopted = false ∧
      aMarker.joined = true ∧
      (watching [(pgLink 0x15, Lnk.LSTATE, 5)] { Watch.idle with joining := some false }).linkUp (torusLink 5) = true ∧
      State.reset.watch.joining ≠ some false) ∧
    ((watching [(pgWatch, Wat.JOIN_DIR, 5)] { Watch.idle with adopted := true, adoptedAt := 0 }).watch.adoptedAt = State.reset.clock ∧
      4 < (watching [(pgWatch, Wat.JOIN_DIR, 5)] Watch.idle).rd pgWatch Wat.JOIN_DIR 0 ∧
      ¬ 5 < (watching [(pgWatch, Wat.JOIN_DIR, 5)] Watch.idle).rd pgWatch Wat.JOIN_DIR 0) ∧
    (State.reset.raw pgWatch Hdr.LOCK 0 ≠ 1 ∧ State.raw (withRegs [(pgWatch, Hdr.LOCK, 1)]) pgWatch Hdr.LOCK 0 = 1) ∧
    (State.partnerDiffers (restoring [(pgWatch, Wat.WATCH_PARTNER, 1)] none) = true ∧ State.reset.partnerDiffers = false ∧
      0 % 2 ^ 12 = State.reset.rd pgWatch Wat.FAIL_DOMAIN 0 ∧ 1 % 2 ^ 12 ≠ State.reset.rd pgWatch Wat.FAIL_DOMAIN 0) := by
  decide +kernel

/-! ## Witnesses: the host protocol -/

/-- A Moraeca message of a type, for session 3 with sequence number 0x105. -/
def aMessage (type count : Nat) (body : List Byte) : List Byte :=
  leBytes 4 0x41524F4D ++ leBytes 1 1 ++ leBytes 1 type ++ leBytes 2 0 ++ leBytes 2 3 ++ leBytes 2 count ++ leBytes 4 0x105 ++
    leBytes 4 body.length ++ leBytes 4 0 ++ body
/-- A body for each type of request: CLOSE, REG_RD, REG_WR, BULK_RD of 16 bytes at an address, BULK_WR, STREAM_OPEN. -/
def aRequest (type addr : Nat) : List Byte :=
  match type with
  | 0x10 => aMessage type 1 (leBytes 8 addr)
  | 0x11 => aMessage type 1 (leBytes 8 addr ++ leBytes 8 0)
  | 0x20 => aMessage type 0 (leBytes 8 addr ++ leBytes 4 16 ++ leBytes 4 0)
  | 0x21 => aMessage type 0 (leBytes 8 addr ++ leBytes 4 16 ++ leBytes 4 0 ++ leBytes 16 1)
  | 0x30 => aMessage type 0 (leBytes 1 1 ++ leBytes 1 1 ++ leBytes 14 0 ++ leBytes 8 16)
  | _ => aMessage type 0 []
/-- Session 3 with a request under execution, or none. -/
def aSession (e : Option Exec) : Session := { owner := aSrc, next := 0x105, held := [(0x106, ⟨aSrc, [], 0⟩)], replies := [], exec := e, last := 0 }
def sessState (l : List (PageId × Reg × Nat)) (e : Option Exec) : State :=
  (withRegs ((pgBelfry, Bel.JOINED, 1) :: (pgKeep 0, Kr.EXTENT, 0x7FFF) :: l)).setSession 3 (aSession e)
def startOf (m : List Byte) : Exec := Exec.start ⟨aSrc, m, 0⟩
/-- Items or bytes done, and the last bad status, of a request run. -/
def runOf (type addr : Nat) : Nat × Nat :=
  let x := (sessState [] none).requestRun type (startOf (aRequest type addr))
  (x.2.item, x.2.bad)
theorem test_witness_SessionsExecuteInOrder_turns :
    ((sessState [] none).hostTurn 3 0 = true ∧ (sessState [] (some (startOf (aRequest 0x10 0)))).hostTurn 3 0 = true ∧
      (sessState [] (some (startOf (aRequest 0x10 0)))).hostTurn 4 1 = false ∧
      (startOf (aRequest 0x10 0)).begun = false ∧ Exec.begun { startOf (aRequest 0x10 0) with item := 1 } = true) ∧
    (∃ y ∈ ([(3, ⟨aSrc, aRequest 1 0, 0⟩)] : List (Nat × Request)), y.1 = mSess (aRequest 0x10 0)) ∧
    (∀ y ∈ ([(3, ⟨aSrc, aRequest 1 0, 0⟩)] : List (Nat × Request)).erase (3, ⟨aSrc, aRequest 1 0, 0⟩), y.1 ≠ 3) ∧
    ((sessState [] none).rdb pgHost Mac.LINK_UP 0 = false ∧ (sessState [(pgHost, Mac.LINK_UP, 1)] none).rdb pgHost Mac.LINK_UP 0 = true) := by
  decide +kernel
theorem test_witness_SessionsExecuteInOrder :
    (mGood [0] = false ∧ mGood (aRequest 1 0) = true ∧ mType (aRequest 1 0) = 1 ∧ mSess (aRequest 1 0) = 3 ∧
      mHeadBad (aRequest 1 0) = false ∧ mBodyBad (aRequest 1 0) = false) ∧
    (∀ ty ∈ [0x02, 0x10, 0x11, 0x20, 0x21, 0x30], mGood (aRequest ty 0) = true ∧ mType (aRequest ty 0) = ty ∧
      mSess (aRequest ty 0) = 3 ∧ mSeq (aRequest ty 0) = 0x105 ∧ (sessState [] none).opening = [] ∧
      AL.get (sessState [] none).sessions 3 = some (aSession none) ∧ sameOwner aSrc aSrc = true ∧
      mHeadBad (aRequest ty 0) = false ∧ mBodyBad (aRequest ty 0) = false ∧
      AL.get (sessState [] (some (startOf (aRequest ty 0)))).sessions 3 = some (aSession (some (startOf (aRequest ty 0))))) ∧
    mBodyBad (aMessage 0x10 2 [0]) = true ∧
    (State.reset.opening.find? (fun x => x.1 = 3) = none ∧
      ([(3, ⟨aSrc, aRequest 1 0, 0⟩)] : List (Nat × Request)).find? (fun x => x.1 = 3) = some (3, ⟨aSrc, aRequest 1 0, 0⟩)) ∧
    (AL.get State.reset.sessions 3 = none ∧
      (∀ ty ∈ [0x10, 0x11], requestLen ty (aRequest ty 0x30000220008) = 1 ∧ (runOf ty 0x30000220008).1 = 1) ∧
      (∀ ty ∈ [0x20, 0x21], requestLen ty (aRequest ty 0x20000000000) = 16 ∧ runOf ty 0x20000000000 = (16, 0) ∧
        (runOf ty 0x50000000000).2 ≠ 0) ∧
      (∀ ty ∈ [0x10, 0x11, 0x20, 0x21], runOf ty (2 ^ 49 + 0x30000220008) = (0, 0))) ∧
    (leAt (mBody (aRequest 0x30 0)) 0 1 = 1 ∧ 0 < leAt (mBody (aRequest 0x30 0)) 16 8 ∧
      ∀ st ∈ [0, 1, 2], (sessState [(pgHost, Mac.STRM_STATE, 0)] none).rd pgHost Mac.STRM_STATE 1 = 0 ∧
        ((sessState [] none).put pgHost Mac.STRM_STATE 1 st).rd pgHost Mac.STRM_STATE 1 = st) ∧
    ((sessState [] none).clock < 0 + 1100000 * (sessState [] none).rd pgHost Mac.SESS_TMO 0 ∧
      0 + 1100000 * (sessState [(pgHost, Mac.SESS_TMO, 0)] none).rd pgHost Mac.SESS_TMO 0 ≤ (sessState [] none).clock) ∧
    (AL.get (aSession none).held 0x105 = none ∧ AL.get (aSession none).held 0x106 = some ⟨aSrc, [], 0⟩ ∧
      (sessState [] none).holdDue ⟨aSrc, [], 0⟩ = false ∧ (sessState [(pgHost, Mac.HOLD_TMO, 0)] none).holdDue ⟨aSrc, [], 0⟩ = true) := by
  decide +kernel

/-- Stream 1 of a direction with `len` bytes: 16 sent and not acknowledged, or a memory request of 16 bytes under tag 7. -/
def aStream (dir len pos : Nat) : Stream :=
  { dir := dir, virt := false, peer := aSrc, dport := 48752, addr := 0, len := len, pos := pos, acked := 0, part := [],
    tags := [(7, 16)], frames := 0, count := 0, since := 0 }
def streaming (l : List (PageId × Reg × Nat)) (x : Stream) : State := { withRegs l with streams := [(1, x)] }
/-- A data frame of stream 1: 16 bytes from an offset. -/
def dataMsg (off : Nat) : List Byte :=
  leBytes 4 0x41524F4D ++ leBytes 1 1 ++ leBytes 1 0x31 ++ leBytes 6 0 ++ leBytes 4 0 ++ leBytes 4 24 ++ leBytes 4 0 ++ leBytes 8 off ++
    leBytes 16 1
def anEvent : Event := { num := 4, code := 1, unit := 0, tick := 0, detail := [], sent := 0 }
def withEvent (l : List (PageId × Reg × Nat)) : State := { withRegs l with events := { next := 5, items := [anEvent], dropped := 0 } }
/-- A Neighbor Solicitation for address 0 (its FCS, checked before the Lantern has it, left 0). -/
def solicit : List Byte :=
  beBytes 6 0xFFFFFFFFFFFF ++ beBytes 6 5 ++ beBytes 2 0x86DD ++ beBytes 4 0x60000000 ++ beBytes 2 24 ++ beBytes 1 58 ++
    beBytes 1 255 ++ beBytes 32 0 ++ beBytes 2 0x8700 ++ beBytes 2 0x78AD ++ beBytes 24 0
theorem test_witness_StreamsAndEventsAreAcknowledged :
    (AL.get State.reset.streams 1 = none ∧ AL.get (streaming [] (aStream 1 16 0)).streams 1 = some (aStream 1 16 0) ∧
      aSrc.port = (aStream 1 16 0).dport ∧ (aStream 0 16 16).dir = 0 ∧
      leAt (mBody (dataMsg 0)) 0 8 = (aStream 1 16 0).pos ∧ leAt (mBody (dataMsg 8)) 0 8 ≠ (aStream 1 16 0).pos ∧
      ((mBody (dataMsg 0)).drop 8).length = (aStream 1 16 0).frameLen ∧ 0 < ((mBody (dataMsg 0)).drop 8).length ∧
      mSeq (dataMsg 0) = 0 / 8192 % 2 ^ 32 ∧ (aStream 1 16 0).acked ≠ (aStream 1 16 0).len) ∧
    (1 < 2 ∧ (aStream 0 16 16).acked < 8 ∧ 8 ≤ max (aStream 0 16 0).pos { aStream 0 16 0 with top := 16 }.top ∧ State.reset.flitGood (.service 2) ∧ 8 ≠ (aStream 0 16 16).len ∧ 16 = (aStream 0 16 16).len) ∧
    (State.reset.rdb pgHost Mac.LINK_UP 0 = false ∧ (withRegs [(pgHost, Mac.LINK_UP, 1), (pgHost, Mac.STREAM_RTO, 0)]).rdb pgHost Mac.LINK_UP 0 = true ∧
      0 + 1100 * (withRegs [(pgHost, Mac.LINK_UP, 1), (pgHost, Mac.STREAM_RTO, 0)]).rd pgHost Mac.STREAM_RTO 0 ≤ State.reset.clock ∧
      State.reset.clock < 0 + 1100 * State.reset.rd pgHost Mac.STREAM_RTO 0) ∧
    (((aReply 7 0).setField 112 16 0).hcrcOk = false ∧ (aReply 7 0).hcrcOk = true ∧ (aReply 7 3).hcrcOk = true ∧
      (poisoned (aReply 7 0)).hcrcOk = true ∧ (poisoned (aReply 7 0)).poison = true ∧ (aReply 7 0).poison = false ∧ (aReply 7 3).poison = false ∧
      AL.get (aStream 0 16 0).tags (aReply 6 0).tag = none ∧ AL.get (aStream 0 16 0).tags (aReply 7 0).tag = some 16 ∧
      (aReply 7 0).status = 0 ∧ (aReply 7 3).status ≠ 0 ∧ (aStream 0 16 0).pos + (aStream 0 16 0).part.length ≤ 16 ∧
      16 = (aStream 1 16 0).len ∧ 16 ≠ (aStream 1 32 0).len) ∧
    (aSrc.v6 = State.reset.rdb pgHost Mac.EVT_V6 0 ∧ aSrc.ip ≠ State.reset.rd pgHost Mac.EVT_IP4 0 ∧
      aSrc.ip = (withRegs [(pgHost, Mac.EVT_IP4, 0x0A000001)]).rd pgHost Mac.EVT_IP4 0) ∧
    (State.reset.events.items = [] ∧ (withEvent []).events.items = anEvent :: [] ∧
      (withEvent []).clock < anEvent.sent + 1100 * (withEvent []).rd pgHost Mac.EVT_RTO 0 ∧
      (withEvent [(pgHost, Mac.LINK_UP, 1), (pgHost, Mac.EVT_EN, 1), (pgHost, Mac.EVT_RTO, 0)]).eventsOn = true ∧
      anEvent.sent + 1100 * (withEvent [(pgHost, Mac.EVT_RTO, 0)]).rd pgHost Mac.EVT_RTO 0 ≤ (withEvent []).clock) ∧
    (bit 0x20000 17 = true ∧ bit 0 17 = false ∧ (withEvent [(pgHost, Mac.LINK_UP, 1)]).rdb pgHost Mac.EVT_EN 0 = false ∧
      (withEvent [(pgHost, Mac.EVT_EN, 1)]).rdb pgHost Mac.EVT_EN 0 = true) ∧
    (State.reset.poolHas 3 2 = true ∧ State.reset.isArpForUs arp = true ∧ State.reset.isNsForUs solicit = true ∧ State.reset.isArpForUs (plain 7) = false ∧
      State.reset.isNsForUs (plain 7) = false ∧
      sumL ((AL.getD State.reset.host.strict 1 []).map fun f => frameCells f.length) + 2 ≤ 16 * State.reset.rd (pgKeep 3) Hst.S_QCAP 1) := by
  decide +kernel

/-- A record of an OP: a MOVE is a COPY by mover 3, a PLAN_SWITCH names tick 1. -/
def aRecord (op : Nat) : List Byte :=
  padTo 64 (leBytes 1 op ++ leBytes 7 0 ++ leBytes 8 (if op = 4 then 1 else 0) ++ leBytes 16 0 ++ leBytes 8 (if op = 2 then 3 * 2 ^ 32 + 1 else 0))
/-- Window 63 with a record to start, or one in progress. -/
def aWindow (op : Nat) (cur : Option (List Byte × CwWait)) : CmdWin := { cons := 2 ^ 32 - 1, todo := [aRecord op], cur := cur }
def windowState (l : List (PageId × Reg × Nat)) (x : CmdWin) : State :=
  (withRegs ((pgHost, Mac.CW_EN_HI, 2 ^ 31) :: (pgHbm 0, Hbm.HSTATE, 2) :: l)).setWindow 63 x
theorem test_witness_WindowRecordsStartAndEnd :
    (AL.get State.reset.windows 63 = none ∧ ∀ op ∈ [0, 1, 2, 3, 4],
      AL.get (windowState [] (aWindow op none)).windows 63 = some (aWindow op none) ∧
      (aWindow op none).todo = aRecord op :: [] ∧ (windowState [] (aWindow op none)).cwEnabled 63 = true ∧ cwOp (aRecord op) = op ∧
      cwBad (aRecord op) = false ∧ cwOp (aRecord 5) = 0 ∧ (windowState [(pgHost, Mac.CW_EN_HI, 0)] (aWindow op none)).cwEnabled 63 = false) ∧
    (cwBad (aRecord 5) = true ∧ ∀ op ∈ [0, 1, 2, 3, 4], cwOp (leBytes 1 op ++ leBytes 3 0xFF0000 ++ leBytes 60 0) = op ∧
      cwBad (leBytes 1 op ++ leBytes 3 0xFF0000 ++ leBytes 60 0) = true) ∧
    (bits (cwArg (aRecord 2) 3) 32 2 = 3 ∧
      (windowState [(pgKeep 3, Mov.MV_STATE, 1)] (aWindow 2 none)).mvState 3 = 1 ∧ (windowState [] (aWindow 2 none)).mvState 3 = 0) ∧
    (cwArg (aRecord 3) 2 % 2 = 0 ∧ (windowState [(pgKeep 0, Pln.A_STATE, 1)] (aWindow 3 none)).bankState 0 = 1 ∧
      (windowState [] (aWindow 3 none)).bankState 0 = 0 ∧ (windowState [] (aWindow 3 none)).rdb (pgKeep 0) Pln.ARMED 0 = false ∧
      (windowState [] (aWindow 3 none)).servesOld 0 = false) ∧
    ((windowState [] (aWindow 4 none)).bankState (windowState [] (aWindow 4 none)).targetBank ≠ 2 ∧
      (windowState [(pgKeep 0, Pln.B_STATE, 2)] (aWindow 4 none)).bankState
        (windowState [(pgKeep 0, Pln.B_STATE, 2)] (aWindow 4 none)).targetBank = 2 ∧
      tickReached (windowState [] (aWindow 4 none)).now (cwArg (aRecord 4) 0) = false) ∧
    (63 < 64 ∧ State.mustWait (State.setWindow State.reset 63 (aWindow 0 (some (aRecord 0, .known 1 0))))
        (hbmTarget (State.reset.cwBase 63)) 0x11 = true ∧
      (windowState [] (aWindow 0 (some (aRecord 0, .known 1 0)))).mustWait
        (hbmTarget ((windowState [] (aWindow 0 none)).cwBase 63)) 0x11 = false ∧
      (windowState [] (aWindow 0 (some (aRecord 0, .known 1 0)))).mustWait
        (hbmTarget ((windowState [] (aWindow 0 none)).cwRecord 63 (2 ^ 32 - 1))) 0x11 = false ∧
      ((windowState [] (aWindow 0 (some (aRecord 0, .known 1 0)))).cwEnded (.known 1 0)).isSome = true ∧
      ((windowState [] (aWindow 0 (some (aRecord 0, .mover 3)))).cwEnded (.mover 3)).isNone = true) := by decide +kernel

/-- A state whose CE 13 is frozen and holds a counter. -/
def frozenState : State := { withRegs [(pgCe 13, Hdr.FREEZE, 1)] with hidden := [(rkey (pgCe 13) Hdr.PG_ERR 0, 5)] }
theorem test_witness_RegisterWritesAct :
    (2 % 4 ≠ 0 ∧ pageAt 0x99000000 = none ∧ 0x99000000 < 2 ^ 32 ∧ 0x01641100 % 4 = 0 ∧ 0x01641100 < 2 ^ 32 ∧
      pageAt 0x01641100 = some (pgCe 13) ∧ 0x100 ≤ 0x01641100 % 0x1000 ∧
      State.unavailable (withRegs [(pgButtress, But.MOD_STATE, 2)]) (pgCe 13) = true ∧ State.reset.unavailable (pgCe 13) = false ∧
      (0x01641000 + Hdr.PG_SCRATCH.off) % 0x1000 = Hdr.PG_SCRATCH.off ∧
      pageAt (0x01641000 + Hdr.PG_SCRATCH.off) = some (pgCe 13)) ∧
    (pageValid (pgCe 13) = true ∧ pageValid (pgCe 16) = false ∧ frozen State.reset (pgCe 13) = false ∧
      (withRegs [(pgCe 13, Hdr.PG_ERR, 3)]).rd (pgCe 13) Hdr.PG_ERR 0 = 3) ∧
    (softRstWritable (pgCe 13).ty = true ∧ softRstWritable pgWatch.ty = false) ∧
    (frozen frozenState (pgCe 13) = true ∧ frozenState.trip = [] ∧ (frozenState.hidden.map Prod.fst).Nodup ∧
      AL.get frozenState.hidden (rkey (pgCe 13) Hdr.FREEZE 0) = none ∧
      AL.get frozenState.hidden (rkey (pgCe 13) Hdr.PG_ERR 0) = some 5 ∧
      rkey (pgCe 13) Hdr.PG_ERR 0 ≠ rkey (pgCe 13) Hdr.HELD_EVT 0) := by decide +kernel

/-! ## Witnesses: power, resets and boot -/

/-- Feeds good or bad, the active one, and the hold-up. -/
def feeds (m b act hold pref : Nat) : State :=
  withRegs [(pgButtress, But.MAIN_GOOD, m), (pgButtress, But.BACKUP_GOOD, b), (pgButtress, But.ON_BACKUP, act),
    (pgButtress, But.HOLDUP, hold), (pgButtress, But.FEED_PREF, pref)]
/-- A module without power. -/
def offState : State := State.reset.setPower { State.reset.power with off := true }
theorem test_witness_FeedsCoolantAndTrips :
    (1 < 2 ∧ ∀ m ∈ [0, 1], ∀ b ∈ [0, 1], ∀ act ∈ [0, 1], (feeds m b act 0 0).feedOk 0 = (m = 1) ∧ (feeds m b act 0 0).feedOk 1 = (b = 1) ∧
      (feeds m b act 0 0).activeFeed = act) ∧
    ((feeds 0 1 0 1 0).rdb pgButtress But.HOLDUP 0 = true ∧ (feeds 0 1 0 0 0).rdb pgButtress But.HOLDUP 0 = false) ∧
    ((feeds 1 1 1 0 0).feedOk (feeds 1 1 1 0 0).preferredFeed = true ∧ (feeds 1 1 1 0 0).activeFeed ≠ (feeds 1 1 1 0 0).preferredFeed ∧
      (feeds 1 0 0 0 1).feedOk (feeds 1 0 0 0 1).preferredFeed = false) ∧
    (State.reset.coolWithin = false ∧ State.coolWithin (withRegs [(pgButtress, But.FLOW, 0x140)]) = true ∧
      State.reset.rd pgLantern Boo.BOOT_PHASE 0 ≤ 2 ∧ 2 < State.rd (withRegs [(pgLantern, Boo.BOOT_PHASE, 3)]) pgLantern Boo.BOOT_PHASE 0 ∧
      State.rdb (withRegs [(pgButtress, But.COOL_OK, 1)]) pgButtress But.COOL_OK 0 = true) ∧
    (State.reset.running = true ∧ offState.running = false ∧ 63 < 64 ∧ State.reset.tempTrip ≤ 110 ∧ 109 < State.reset.tempTrip ∧
      199 < State.reset.rd pgButtress But.FLOW_TRIP 0 ∧ State.reset.rd pgButtress But.FLOW_TRIP 0 ≤ 200 ∧
      State.reset.rd pgButtress But.INLET_TRIP 0 < 501 ∧ 500 ≤ State.reset.rd pgButtress But.INLET_TRIP 0) := by decide +kernel

/-- A module in a state, with what the Buttress holds. -/
def inModState (st : Nat) (p : Power) : State := (withRegs [(pgButtress, But.MOD_STATE, st), (pgButtress, But.COOL_OK, 1)]).setPower p
/-- Domain 288 waking since clock 0, its stack in self-refresh, at a clock. -/
def waking (clock : Nat) : State :=
  { (withRegs [(pgHbm 0, Hbm.HSTATE, 3)]).setPower { Power.first with doms := [(288, 3)], wakeAt := [(288, 0)] } with clock := clock }
theorem test_witness_ModuleStatesMove :
    (1 ≤ 4 ∧ (∀ st ∈ [0, 1, 2, 3], (inModState st Power.first).running = true ∧ (inModState st Power.first).rd pgButtress But.MOD_STATE 0 = st) ∧
      (inModState 0 Power.first).p3Refused = false ∧ joinedState.p3Refused = true ∧ offState.running = false) ∧
    ((inModState 3 Power.first).rdb pgButtress But.COOL_OK 0 = true ∧ State.reset.rdb pgButtress But.COOL_OK 0 = false) ∧
    (State.reset.power.shdnLow = false ∧ (inModState 0 { Power.first with shdnLow := true }).power.shdnLow = true ∧
      State.reset.power.resetLow = false ∧ (inModState 0 { Power.first with resetLow := true }).power.resetLow = true) ∧
    ((∃ a, (inModState 0 { Power.first with p4 := true, tripAt := some 1 }).power.tripAt = some a ∧
        (inModState 0 { Power.first with p4 := true, tripAt := some 1 }).clock < a + 11000000000) ∧
      (inModState 0 { Power.first with p4 := true }).power.tripAt = none ∧ (inModState 0 { Power.first with p4 := true }).power.p4 = true ∧
      (inModState 2 Power.first).power.p4 = false ∧ offState.power.off = true) ∧
    (288 < domCount ∧ (waking 5).domState 288 = 3 ∧ State.reset.domState 288 ≠ 3 ∧ (waking 5).rd (pgHbm (288 - 288)) Hbm.HSTATE 0 = 3 ∧
      2 ^ 40 = (waking (2 ^ 40)).clock - AL.getD (waking (2 ^ 40)).power.wakeAt 288 (waking (2 ^ 40)).clock ∧
      domWakeUs 288 * 1100 < 2 ^ 40) := by
  refine ⟨by decide +kernel, by decide +kernel, by decide +kernel, ⟨⟨1, by decide +kernel⟩, by decide +kernel⟩, by decide +kernel⟩

/-- A module in a boot phase. -/
def booting (n : Nat) (p : Power) : State := (withRegs [(pgLantern, Boo.BOOT_PHASE, n)]).setPower p
theorem test_self_test : codeCases = true ∧ voteCases = true := by decide +kernel
theorem test_witness_BootGoesPhaseByPhase :
    (∀ n ∈ [0, 1, 2, 3, 4, 5, 6, 7, 8, 9], (booting n Power.first).bootPhase = n ∧ (booting n Power.first).running = true ∧
      (booting n Power.first).power.resetLow = false ∧ (booting n Power.first).power.prog = false) ∧
    ((booting 2 Power.first).power.coolant = false ∧ (booting 2 { Power.first with coolant := true }).power.coolant = true ∧
      (booting 3 { Power.first with prog := true }).power.prog = true ∧ (booting 3 Power.first).rd pgFinial Fin.FIN_STATE 0 ≠ 2 ∧
      State.rd (withRegs [(pgFinial, Fin.FIN_STATE, 2)]) pgFinial Fin.FIN_STATE 0 = 2) ∧
    ((booting 3 Power.first).fwCheck spFlash (flSlot (booting 3 Power.first).nextSlot) slotLen = 1 ∧
      (booting 3 Power.first).fwCheck spFlash (flSlot (1 - (booting 3 Power.first).nextSlot)) slotLen = 1) ∧
    ((booting 3 Power.first).rdb pgLantern Boo.BOOT_DONE 0 = false ∧
      State.rdb (withRegs [(pgLantern, Boo.BOOT_DONE, 1)]) pgLantern Boo.BOOT_DONE 0 = true ∧ 15 < 16) := by decide +kernel

/-! ## Witnesses: flash, firmware, keys, attestation and the Vane

Where an effect depends on a signature, `Config.verify` is open: those witnesses hold for a check that admits it. -/

/-- The state after reset with bytes in a space. -/
def withBytes (sp off : Nat) (l : List Byte) : State :=
  { State.reset with mem := ((List.range l.length).zip l).filterMap fun x => if x.2 = 0 then none else some (cellAddr sp (off + x.1), x.2) }
def bpBytes : List Byte := leBytes 4 5 ++ leBytes 28 0
theorem test_witness_CalibrationAndBootParametersAreSaved :
    (State.reset.rdb pgLantern Cal.CAL_BUSY 0 = false ∧ State.rdb (withRegs [(pgLantern, Cal.CAL_BUSY, 1)]) pgLantern Cal.CAL_BUSY 0 = true ∧
      memWf State.reset.mem = true) ∧
    (State.reset.rd pgLantern Boo.BP_STATE 0 ≠ 3 ∧ State.rd (withRegs [(pgLantern, Boo.BP_STATE, 3)]) pgLantern Boo.BP_STATE 0 = 3) ∧
    (State.reset.bpFlash = 0 ∧ (withBytes spFlash flBp bpBytes).bpFlash = 2 ∧
      (withBytes spFlash flBp (bpBytes ++ leBytes 4 (crc32c bpBytes))).bpFlash = 1 ∧
      memWf (withBytes spFlash flBp (bpBytes ++ leBytes 4 (crc32c bpBytes))).mem = true) := by decide +kernel

/-- The header of an image without a body, and a state whose fuses hold its key, with that image in a space. -/
def imgHeader : List Byte := leBytes 4 0x4957464C ++ leBytes 4 1 ++ leBytes 8 0 ++ leBytes 2 1 ++ leBytes 110 0
def admitting (sp off : Nat) (l : List (PageId × Reg × Nat)) : State :=
  { withRegs l with mem := (withBytes sp off imgHeader).mem, fuses := { fkeys := [(0, digest (slice imgHeader 0x18 64))], revoked := 0, svnMin := 0 } }
theorem fwCheck_of_verify {s : State} {sp off lim : Nat} (hp : s.peek sp off 128 = imgHeader) (hl : 29920 ≤ min lim slotLen)
    (k : s.fuses = { fkeys := [(0, digest (slice imgHeader 0x18 64))], revoked := 0, svnMin := 0 })
    (h : ∀ x m g, Config.verify x m g = true) : s.fwCheck sp off lim = 0 := by
  have a : (leAt imgHeader 0 4 ≠ 0x4957464C || leAt imgHeader 4 2 ≠ 1 || leAt imgHeader 6 2 ≠ 0 || leAt imgHeader 0x12 2 ≠ 0 ||
      leAt imgHeader 0x58 40 ≠ 0 || 64 < leAt imgHeader 0x10 2) = false := by decide +kernel
  have b : leAt imgHeader 0x14 4 = 0 := by decide +kernel
  have c : (s.fkeySlot (slice imgHeader 0x18 64)).isNone = false := by
    simp [State.fkeySlot, k, List.range_succ, AL.get, bit]
  have d : ¬ min lim slotLen < 128 + 0 + fwSigLen := by simpa [fwSigLen] using hl
  have e : s.fuses.svnMin = 0 := by rw [k]
  unfold State.fwCheck
  simp only [hp, a, b, c, d, e, h, Bool.false_or, decide_false, Bool.false_eq_true, if_false, Nat.not_lt_zero, if_true]
theorem test_boot_slots_admitted (h : ∀ x m g, Config.verify x m g = true) :
    (admitting spFlash (flSlot 0) [(pgLantern, Boo.BOOT_PHASE, 3)]).fwCheck spFlash (flSlot 0) slotLen = 0 ∧
    (admitting spFlash (flSlot 1) [(pgLantern, Boo.BOOT_PHASE, 3)]).fwCheck spFlash (flSlot 1) slotLen = 0 ∧
    (admitting spFlash (flSlot 1) [(pgLantern, Boo.BOOT_PHASE, 3)]).fwCheck spFlash (flSlot 0) slotLen ≠ 0 ∧
    (admitting spFlash (flSlot 0) [(pgLantern, Boo.BOOT_PHASE, 3)]).nextSlot = 0 ∧
    (admitting spFlash (flSlot 1) [(pgLantern, Boo.BOOT_PHASE, 3)]).nextSlot = 0 :=
  ⟨fwCheck_of_verify (by decide +kernel) (by decide) rfl h, fwCheck_of_verify (by decide +kernel) (by decide) rfl h,
    by decide +kernel, by decide +kernel, by decide +kernel⟩
/-- An update of that image staged, its bytes already checked. -/
def updating : State :=
  let s := admitting spHbm 0 [(pgLantern, Fwu.UPD_LEN, 30000)]
  { s with trust := { s.trust with update := some imgHeader } }
theorem test_update_admitted (h : ∀ x m g, Config.verify x m g = true) :
    (updating.fwCheck spHbm (updating.rd pgLantern Fwu.UPD_ADDR_LO 0 * 4096 + updating.rd pgLantern Fwu.UPD_ADDR_HI 0 * 2 ^ 32)
      (updating.rd pgLantern Fwu.UPD_LEN 0) = 0 ∧ updating.updBusy = false) ∧
    updating.trust.update = some imgHeader ∧
    (updating.poke spFlash (flSlot (1 - updating.rd pgLantern Fwu.ACTIVE_SLOT 0)) imgHeader).fwCheck spFlash
      (flSlot (1 - updating.rd pgLantern Fwu.ACTIVE_SLOT 0)) slotLen = 0 :=
  ⟨⟨fwCheck_of_verify (by decide +kernel) (by decide +kernel) rfl h, by decide +kernel⟩, by decide +kernel,
    fwCheck_of_verify (by decide +kernel) (by decide) rfl h⟩

theorem test_witness_FirmwareAndKeysAreAdmitted :
    (State.reset.updBusy = false ∧ State.updBusy (withRegs [(pgLantern, Fwu.UPD_STATE, 1)]) = true ∧
      State.reset.fwCheck spHbm 0 (State.reset.rd pgLantern Fwu.UPD_LEN 0) ≠ 0) ∧
    (State.reset.trust.update = none ∧ State.trust { State.reset with trust := { Trust.idle with update := some [0] } } = { Trust.idle with update := some [0] } ∧
      (State.reset.poke spFlash (flSlot 1) [0]).fwCheck spFlash (flSlot 1) slotLen ≠ 0) ∧
    (State.reset.trust.svn ≤ State.reset.fuses.svnMin ∧
      State.reset.fuses.svnMin < (State.trust { State.reset with trust := { Trust.idle with svn := 1 } }).svn) ∧
    (State.rd (withRegs [(pgFinial, Fin.FKEY_IDX, 3)]) pgFinial Fin.FKEY_IDX 0 = 3 ∧ 3 < 4 ∧ bit 8 3 = true ∧ bit 7 3 = false) ∧
    (State.reset.finialLocked = false ∧ State.finialLocked (withRegs [(pgFinial, Hdr.LOCK, 1)]) = true ∧
      (AL.getD State.reset.keys 0 KeySlot.empty).state = 0 ∧
      (AL.getD [(0, ({ key := [], test := false, state := 1 } : KeySlot))] 0 KeySlot.empty).state ≠ 0) ∧
    memWf State.reset.mem = true := by decide +kernel

/-- A test key in slot 0, for which a token stands in HBM. -/
def tokened : State := { State.reset with keys := [(0, { key := [], test := true, state := 1 })] }
theorem test_token_admitted (h : ∀ x m g, Config.verify x m g = true) : tokened.tokenOk = true ∧ tokened.joined = false := by
  have k : AL.getD tokened.keys (tokened.rd pgFinial Fin.TOKEN_KEY) KeySlot.empty = { key := [], test := true, state := 1 } := by
    decide +kernel
  refine ⟨?_, by decide +kernel⟩
  unfold State.tokenOk
  rw [k]
  simp only [h]
  rfl
theorem test_mirror_admitted (h : ∀ x m g, Config.verify x m g = true) :
    ((List.replicate 35728 (0 : Byte)).length = 35728 &&
      Config.verify vanePubBytes ((List.replicate 35728 0).take 64) ((List.replicate 35728 0).drop 64)) = true := by
  rw [h, List.length_replicate]
  rfl
/-- Attestation in a state, and a reading mirrored. -/
def attesting (st : Nat) (armed : Bool) : State :=
  { withRegs [(pgFinial, Fin.ATT_STATE, st)] with trust := { Trust.idle with attArmed := armed, vmLast := [1] } }
theorem test_witness_TokensReportsAndReadings :
    (joinedState.joined = true ∧ State.reset.joined = false ∧ State.reset.tokenOk = false) ∧
    (∀ st ∈ [0, 1, 2], ∀ armed ∈ [false, true], (attesting st armed).rd pgFinial Fin.ATT_STATE 0 = st ∧
      (attesting st armed).trust.attArmed = armed) ∧
    (State.reset.power.p4 = false ∧ State.reset.power.off = false ∧ State.reset.power.resetLow = false ∧ offState.power.off = true ∧
      ([] : List Byte).length ≠ 35728) ∧
    (State.reset.clock < State.reset.trust.vmAt + 3300000000 ∧
      State.reset.trust.vmAt + 3300000000 ≤ State.clock { State.reset with clock := 3300000000 }) ∧
    (State.reset.trust.vmLast = [] ∧ State.reset.trust.vmSnap = [] ∧ (attesting 0 false).trust.vmLast ≠ []) := by decide +kernel

end Sys2Proof.Tests
end

section
/-! The Belfry's statements: what every command keeps, the tick, the registers of the Belfry, scheduled flits and tick bodies. -/

namespace Sys2Proof.Machine

open Sys2Proof

/-! ## The queue, and what every command keeps -/

/-- Settles O2: the idle step is the clock's. -/
theorem emptyQueueIsOneCycle : Obligations.EmptyQueueIsOneCycle := by
  intro s h
  unfold step
  split
  · rfl
  · rename_i hc
    rw [h] at hc
    cases hc

/-- Settles O3, by the frame that every command keeps (exec_keeps), with every tick number allowed. -/
theorem commandsCompleteAtOnce : Obligations.CommandsCompleteAtOnce := by
  intro c s
  obtain ⟨t, ht, hk⟩ := exec_keeps c (z := ⟨s, fun _ => True⟩) (keeps_refl trivial) trivial (fun _ => trivial) (fun _ => trivial)
  exact ⟨t, ht, hk.pending, hk.clock⟩

/-- A command keeps a state well formed: it leaves the cell list canonical and the event store bounded, and every tick number
that it forms is one modulo 2^48. -/
theorem exec_safe (c : Instr) {s t : State} (hs : Safe s) (h : exec c s = .next t) : Safe t := by
  have hm : ∀ n, n % tickMod < 2 ^ 48 := fun n => Nat.mod_lt _ (Nat.two_pow_pos 48)
  obtain ⟨u, hu, hk⟩ := exec_keeps c (z := ⟨s, (· < 2 ^ 48)⟩) (keeps_refl hs.tick) (Nat.two_pow_pos 48) hm (fun n => hm (n + 1))
  obtain rfl : u = t := by simpa using hu.symm.trans h
  exact ⟨hk.mem hs.mem, hk.tick, hk.events hs.events⟩

/-- A step is one core cycle, or the front command run with the queue's rest. -/
theorem step_cases {s t : State} (h : step s = .next t) :
    t = s.idle ∨ ∃ c l, exec c (s.withPending l) = .next t := by
  unfold step at h
  split at h
  · injection h with h
    exact .inl h.symm
  · exact .inr ⟨_, _, h⟩

/-- Settles O5: an idle step changes only the clock, and a command keeps a state well formed (exec_safe). -/
theorem stepKeepsSafe : Obligations.StepKeepsSafe := by
  intro s t hs h
  obtain rfl | ⟨c, l, hc⟩ := step_cases h
  · exact ⟨hs.mem, hs.tick, hs.events⟩
  · have hw : Safe (s.withPending l) := ⟨hs.mem, hs.tick, hs.events⟩
    exact exec_safe c hw hc

/-- Settles O9, by the frame of the commands that leave the tick number or reset it (exec_keeps_still). -/
theorem onlyBoundariesMoveTheTick : Obligations.OnlyBoundariesMoveTheTick := by
  intro c s t h1 h2 h3 h
  obtain ⟨u, hu, hk⟩ := exec_keeps_still c (z := ⟨s, fun n => n = s.now ∨ n = 0⟩) (keeps_refl (.inl rfl)) (.inr rfl) h1 h2 h3
  obtain rfl : u = t := by simpa using hu.symm.trans h
  exact hk.tick

end Sys2Proof.Machine
end

section
/-! Where the boundary's statement fails: SKIPPED of the Belfry with a value held back, as no command leaves it. -/

namespace Sys2Proof.Machine

open Sys2Proof

/-- A fold whose steps leave a state as it is leaves it. -/
theorem foldl_of_fixed {σ α : Type} {f : σ → α → σ} {s : σ} : ∀ {l : List α}, (∀ x ∈ l, f s x = s) → l.foldl f s = s
  | [], _ => rfl
  | x :: l, h => by
    rw [List.foldl_cons, h x (List.mem_cons_self ..)]
    exact foldl_of_fixed fun y hy => h y (List.mem_cons_of_mem _ hy)

/-- No unit is powered down with its site while QUAR_EN is clear. -/
theorem State.quarDowns_of_disabled {s : State} (h : s.rdb pgIntegrity Itg.QUAR_EN = false) : s.quarDowns = s :=
  foldl_of_fixed fun d _ => by simp [State.quarDown, State.siteDown, h]

/-- A domain that wakes is not placed. -/
theorem State.placeDoms_of_waking {s : State} (h : ∀ d < domCount, s.domState d = 3) : s.placeDoms = s :=
  foldl_of_fixed fun d hd => by simp [State.placeDom, h d (List.mem_range.1 hd)]

/-- The units' turn at a boundary up to the power domains. -/
def State.unitsBegin (s : State) : State :=
  (s.pageResets.declareAll.drain.takeFlips.cfgCompare.creditWaits.timeouts.atomIdles.mergePlan).throttleIssue

/-- With no site quarantined and every domain waking, the units' turn passes over the power domains. -/
theorem State.unitsTurn_of_waking {s : State} (hq : s.unitsBegin.rdb pgIntegrity Itg.QUAR_EN = false)
    (hd : ∀ d < domCount, s.unitsBegin.domState d = 3) : s.unitsTurn = s.unitsBegin.serveWaiting.spotArm := by
  unfold State.unitsTurn
  change s.unitsBegin.quarDowns.placeDoms.serveWaiting.spotArm = _
  rw [State.quarDowns_of_disabled hq, State.placeDoms_of_waking hd]

/-- The end of the first tick: a page reset of the Belfry is armed, and its SKIPPED has a held-back value. Every domain wakes and
no site is quarantined. -/
def heldSkipped : State :=
  { State.reset with
    clock := 8192
    regs := [(rkey pgBelfry Hdr.RST_PEND 0, 1), (rkey pgIntegrity Itg.QUAR_EN 0, 0)]
    hidden := [(rkey pgBelfry Bel.SKIPPED 0, 1)]
    power := { State.reset.power with doms := (List.range domCount).map fun d => (d, 3) } }

/-- That state when the Belfry has turned and the plan step has gone on. -/
def heldSkippedTurned : State := (heldSkipped.endTick.turn heldSkipped.planTick).stepOn

theorem heldSkippedTurned_domState (d : Nat) (hd : d < domCount) : heldSkippedTurned.unitsBegin.domState d = 3 := by
  have h : heldSkippedTurned.unitsBegin.power.doms = (List.range domCount).map fun d => (d, 3) := by decide +kernel
  have hw : ∀ d < domCount, AL.getD ((List.range domCount).map fun d => (d, 3)) d 0 = 3 := by decide +kernel
  unfold State.domState
  rw [h]
  exact hw d hd

/-- The boundary of that state, its units' turn passing over the domains. -/
theorem heldSkipped_boundary : heldSkipped.boundary =
    (heldSkippedTurned.unitsBegin.serveWaiting.spotArm.startWork.prefetchAll.attSample.scanWindows.streamsOn.restoreTurn).reportRaised
      heldSkipped.planTick.tick := by
  have hdue : (heldSkipped.running && heldSkipped.belfry.tickStart + heldSkipped.belfry.tickLen ≤ heldSkipped.clock : Bool) = true := by
    decide
  have hrun : (heldSkipped.endTick.turn heldSkipped.planTick).skipped = false := by decide +kernel
  have hquar : heldSkippedTurned.unitsBegin.rdb pgIntegrity Itg.QUAR_EN = false := by decide +kernel
  unfold State.boundary
  rw [if_pos (by simpa using hdue)]
  dsimp only
  rw [hrun, if_neg (by decide)]
  change (heldSkippedTurned.unitsTurn.startWork.prefetchAll.attSample.scanWindows.streamsOn.restoreTurn).reportRaised _ = _
  rw [State.unitsTurn_of_waking hquar heldSkippedTurned_domState]

/-- After that boundary the step count is 1, and SKIPPED reads 1. -/
theorem heldSkipped_after : heldSkipped.boundary.belfry.stepCount = 1 ∧ heldSkipped.boundary.skipped = true := by
  rw [heldSkipped_boundary]
  exact ⟨by decide +kernel, by decide +kernel⟩

/-- Refutes O10: the page reset of the Belfry, which the boundary performs after it has set SKIPPED and counted the plan step, lets
the visible fields take the held-back values (R405); a state with such a value of SKIPPED counts a plan step and shows the
tick as skipped. No module is joining and nothing waits. -/
theorem not_boundaryAdvancesTheTick : ¬ Obligations.BoundaryAdvancesTheTick := by
  intro h
  obtain ⟨t, n, ht, -, -, hw⟩ := (h heldSkipped).2 (by decide) (by decide)
  obtain rfl : heldSkipped.boundary = t := by injection ht
  obtain ⟨hcount, hskip⟩ := heldSkipped_after
  have hjoin : heldSkipped.endTick.watch.joining ≠ some true := by decide +kernel
  have hstep := (hw rfl).2.2
  rw [hcount, if_neg hjoin, hskip, if_pos rfl] at hstep
  exact absurd hstep (by decide)

end Sys2Proof.Machine
end

section
/-! The Belfry's own commands: period changes, the tick number's reads and skip notices (R32, R34, R52–R54). -/

namespace Sys2Proof.Machine

open Sys2Proof

/-! ## A field put -/

theorem State.put_beyond (s : State) (p : PageId) (r : Reg) (i v : Nat) : sameBeyondRegs s (s.put p r i v) := rfl

/-- A block field put leaves every other field as it reads. -/
theorem State.rd_put_block (s : State) {p q : PageId} {r x : Reg} {i j : Nat} (v : Nat) (h : rkey q x j ≠ rkey p r i)
    (hr : 0x100 ≤ r.off) (ht : p.ty ≠ 0x51) : (s.put p r i v).rd q x j = s.rd q x j := by
  refine State.rd_put_ne s v h (not_steers_of p r i q ?_ ?_)
  · simp only [rkey]
    omega
  · intro e
    simp only [rkey, pgIntegrity, RegKey.mk.injEq] at e
    exact ht e.1

/-! ## The tick number -/

/-- Settles O11: the low word is answered, and NOW_HI takes the rest of the same number. -/
theorem nowReadNamesOneTick : Obligations.NowReadNamesOneTick := by
  intro s hs
  refine ⟨s.readNowLo.2.emit (.value s.readNowLo.1), s.readNowLo.1, rfl, rfl, Nat.mod_lt _ (Nat.two_pow_pos 32), ?_, rfl, ?_⟩
  · have hhi : (s.put pgBelfry Bel.NOW_HI 0 (s.now / 2 ^ 32)).rd pgBelfry Bel.NOW_HI 0 = s.now / 2 ^ 32 % 2 ^ 16 :=
      State.rd_put_self _ _ _ _ _ rfl
    simp only [State.readNowLo, State.emit_rd, hhi]
    omega
  · intro p r i hk
    exact State.rd_put_block s _ (by simpa using hk) (by decide) (by decide)

/-! ## Period changes -/

/-- PERIOD_AT and PER_U read as the write of PERIOD_AT_LO makes them. -/
theorem State.periodAt_put (s : State) (v : Nat) :
    (s.put pgBelfry Bel.PERIOD_AT_LO 0 v).rd2 pgBelfry Bel.PERIOD_AT_LO Bel.PERIOD_AT_HI = s.periodAt v ∧
      (s.put pgBelfry Bel.PERIOD_AT_LO 0 v).rd pgBelfry Bel.PER_U = s.rd pgBelfry Bel.PER_U := by
  have hlo : (s.put pgBelfry Bel.PERIOD_AT_LO 0 v).rd pgBelfry Bel.PERIOD_AT_LO 0 = v % 2 ^ 32 := State.rd_put_self _ _ _ _ _ rfl
  have hhi : (s.put pgBelfry Bel.PERIOD_AT_LO 0 v).rd pgBelfry Bel.PERIOD_AT_HI 0 = s.rd pgBelfry Bel.PERIOD_AT_HI 0 :=
    State.rd_put_block s v (by decide) (by decide) (by decide)
  refine ⟨?_, State.rd_put_block s v (by decide) (by decide) (by decide)⟩
  unfold State.rd2 State.periodAt
  rw [hlo, hhi]

/-- What a write of PERIOD_AT_LO does (R32): the change armed, and the error of a late one. -/
theorem State.armPeriod_eq (s : State) (v : Nat) : s.armPeriod v =
    if tickLater (s.periodAt v) s.now then
      (s.put pgBelfry Bel.PERIOD_AT_LO 0 v).setBelfry { s.belfry with perArmed := some (s.periodAt v, s.rd pgBelfry Bel.PER_U 0) }
    else ((s.put pgBelfry Bel.PERIOD_AT_LO 0 v).setBelfry
      { s.belfry with perArmed := some (tickAdd s.now 1, s.rd pgBelfry Bel.PER_U 0) }).err pgBelfry 6 := by
  obtain ⟨hat, hper⟩ := State.periodAt_put s v
  unfold State.armPeriod
  simp only [hat, hper]
  rfl

/-- Settles O13, by the two cases of R32: a tick still to come, and one that has begun. -/
theorem periodWriteArms : Obligations.PeriodWriteArms := by
  intro v s
  refine ⟨s.armPeriod v, rfl, ?_⟩
  rw [State.armPeriod_eq]
  have hput : ∀ p r i, rkey p r i ≠ rkey pgBelfry Bel.PERIOD_AT_LO 0 →
      (s.put pgBelfry Bel.PERIOD_AT_LO 0 v).rd p r i = s.rd p r i := fun p r i h => State.rd_put_block s v h (by decide) (by decide)
  cases hl : tickLater (s.periodAt v) s.now with
  | true =>
    simp only [if_true]
    refine ⟨rfl, fun p r i hk => hput p r i fun e => hk (.inl e), rfl, rfl, fun _ => rfl, nofun⟩
  | false =>
    simp only [Bool.false_eq_true, if_false]
    refine ⟨sameBeyondReports_trans (sameBeyondRegs.reports ?_) (State.err_beyond _ _ _), fun p r i hk => ?_, ?_, ?_, nofun,
      fun _ => State.err_bit _ _ _ (by decide)⟩
    · rw [State.err_belfry]
      rfl
    · rw [State.rd_err _ _ _ fun e => hk (.inr e)]
      exact hput p r i fun e => hk (.inl e)
    · rw [State.err_belfry]
      rfl
    · rw [State.err_belfry]
      rfl

/-! ## Skip notices -/

/-- A tick marked: the skip map and the known messages take it, and its notice floods (R52, R53). -/
theorem State.markSkip_marks (s : State) (src : Option Nat) (target origin reason : Nat) :
    marksSkip s (s.markSkip src target origin reason) src target origin reason ∧
      (s.markSkip src target origin reason).belfry.thrLast = s.belfry.thrLast := by
  obtain ⟨hrest, hlinks⟩ := State.flood_eq (s.setBelfry { s.belfry with
    skipMap := target :: s.belfry.skipMap, flooded := (0x31, target) :: s.belfry.flooded }) src 0x31 (skipPayload target origin reason)
  change s.markSkip src target origin reason = _ at hrest
  have hbel : (s.markSkip src target origin reason).belfry = { s.belfry with
      skipMap := target :: s.belfry.skipMap, flooded := (0x31, target) :: s.belfry.flooded } := by
    rw [hrest]
    rfl
  refine ⟨⟨?_, ?_, hlinks, ?_⟩, ?_⟩
  · rw [hbel]
    exact List.mem_cons_self ..
  · rw [hbel]
  · conv_lhs => rw [hrest]
    rw [hbel]
    rfl
  · rw [hbel]

/-- Settles O14, by the branches of R53. -/
theorem skipNoticeIsMarkedOnce : Obligations.SkipNoticeIsMarkedOnce := by
  intro d target origin reason s ht
  have htarget : target % tickMod = target := Nat.mod_eq_of_lt ht
  refine ⟨fun hf hl hr => ?_, fun hf => ?_, fun hf hl => ?_, fun hf hl hr => ?_⟩
  · have he : s.skipNotice d target origin reason = s.markSkip (some d) target origin reason := by
      simp [State.skipNotice, htarget, hf, hl, Nat.not_lt.2 hr]
    obtain ⟨hm, hlast⟩ := State.markSkip_marks s (some d) target origin reason
    rw [← he] at hm hlast
    exact ⟨_, rfl, hm, hlast⟩
  · have he : s.skipNotice d target origin reason = s := by simp [State.skipNotice, htarget, hf]
    exact congrArg Host.Outcome.next he
  · have he : s.skipNotice d target origin reason = (s.overrun tyBelfry 0 6 (target % 2 ^ 32)).err pgBelfry 4 := by
      simp [State.skipNotice, htarget, hf, hl]
    refine ⟨_, congrArg Host.Outcome.next he, State.err_bit _ _ _ (by decide), ?_, ?_⟩
    · rw [State.err_belfry]
      rfl
    · rw [State.err_belfry]
      exact State.err_beyond _ _ _
  · have he : s.skipNotice d target origin reason = s.err pgBelfry 5 := by
      simp [State.skipNotice, htarget, hf, hl, hr]
    exact ⟨_, congrArg Host.Outcome.next he, State.err_bit _ _ _ (by decide), State.err_beyond _ _ _⟩

/-- Settles O15: both issue the tick LEAD ahead, which no message has named before. -/
theorem skipsAreIssuedLeadAhead : Obligations.SkipsAreIssuedLeadAhead := by
  intro s hf
  refine ⟨fun v hv hh => ?_, fun hlive hen hdue hlast => ?_⟩
  · have he : (if bit v 0 && s.rdb pgBelfry Bel.HOST_EN then s.issueSkip 3 else s) =
        s.markSkip none (tickAdd s.now (s.rd pgBelfry Bel.LEAD 0)) s.coord 3 := by
      simp [State.issueSkip, hv, hh, hf]
    exact ⟨_, congrArg Host.Outcome.next he, State.markSkip_marks ..⟩
  · have he : s.throttleIssue = (s.setBelfry { s.belfry with thrLast := some s.now }).markSkip none
        (tickAdd s.now (s.rd pgBelfry Bel.LEAD 0)) s.coord (if s.rdb pgBelfry Bel.TEMP_ACT 0 then 1 else 2) := by
      unfold State.throttleIssue
      rw [if_pos (by simp [hlive, hen, hdue, hlast])]
      unfold State.issueSkip
      refine if_neg ?_
      change ¬ s.floodedBefore 0x31 (tickAdd s.now (s.rd pgBelfry Bel.LEAD 0)) = true
      rw [hf]
      decide
    obtain ⟨⟨hmem, hbel, hflood, hrest⟩, hl⟩ := State.markSkip_marks (s.setBelfry { s.belfry with thrLast := some s.now }) none
      (tickAdd s.now (s.rd pgBelfry Bel.LEAD 0)) s.coord (if s.rdb pgBelfry Bel.TEMP_ACT 0 then 1 else 2)
    exact ⟨_, congrArg Host.Outcome.next he, hl, hmem, hbel, hflood, hrest⟩

end Sys2Proof.Machine
end

section
/-! The throttle's evaluation (R54, R414). -/

namespace Sys2Proof.Machine

open Sys2Proof

/-! ## Nothing beyond registers -/

theorem sameBeyondRegs.belfry {s t : State} (h : sameBeyondRegs s t) : t.belfry = s.belfry := by
  unfold sameBeyondRegs at h
  rw [h]

theorem sameBeyondRegs.mem {s t : State} (h : sameBeyondRegs s t) : t.mem = s.mem := by
  unfold sameBeyondRegs at h
  rw [h]

theorem sameBeyondRegs.setBelfry {s t : State} (h : sameBeyondRegs s t) (b : Belfry) :
    sameBeyondRegs (s.setBelfry b) (t.setBelfry b) := by
  unfold sameBeyondRegs at h ⊢
  rw [h]
  rfl

theorem memKept_of_mem {s t : State} (h : t.mem = s.mem) : memKept s t := fun sp off => by
  unfold State.peek
  rw [h]

theorem sameBeyondRegs_foldl {α : Type} {f : State → α → State} (hf : ∀ t x, sameBeyondRegs t (f t x)) :
    ∀ (l : List α) (s : State), sameBeyondRegs s (l.foldl f s)
  | [], _ => rfl
  | x :: l, s => sameBeyondRegs_trans (hf s x) (sameBeyondRegs_foldl hf l (f s x))

/-! ## Fields put on pages -/

/-- A block field put leaves every field of another page as it reads. -/
theorem State.rd_put_other (s : State) {p q : PageId} {r x : Reg} {i j : Nat} (v : Nat) (hq : q ≠ p) (hr : 0x100 ≤ r.off)
    (ht : p.ty ≠ 0x51) : (s.put p r i v).rd q x j = s.rd q x j := by
  refine State.rd_put_block s v (fun e => hq ?_) hr ht
  simp only [rkey, RegKey.mk.injEq] at e
  cases p
  cases q
  simp_all

/-- A block field put leaves the fields of its page at other offsets or bits as they read. -/
theorem State.rd_put_same (s : State) {p : PageId} {r x : Reg} {i j : Nat} (v : Nat)
    (h : x.off + x.stride * j ≠ r.off + r.stride * i ∨ x.lo ≠ r.lo) (hr : 0x100 ≤ r.off) (ht : p.ty ≠ 0x51) :
    (s.put p r i v).rd p x j = s.rd p x j := by
  refine State.rd_put_block s v (fun e => ?_) hr ht
  simp only [rkey, RegKey.mk.injEq] at e
  omega

/-! ## Telemetry -/

/-- The sensors' part of the telemetry. -/
def State.sensors (s : State) (t : List Nat) (l : List Nat) : State :=
  l.foldl (fun u i => (u.put pgOculus Ocu.TS_TEMP i (t.getD i 0)).put pgOculus Ocu.TS_MAX i
    (max (u.rd pgOculus Ocu.TS_MAX i) (t.getD i 0))) s

/-- The Cupolas' part. -/
def State.cupolaPower (s : State) (cup : List Nat) (l : List Nat) : State :=
  l.foldl (fun u c => (u.put pgOculus Ocu.PWR_CUP c (cup.getD c 0)).put (pgCupola c) Cup.CUP_PWR 0 (cup.getD c 0)) s

/-- The module's part, from the states that the maxima are read of. -/
def State.modulePower (s : State) (t : List Nat) (power peak : Nat) : State :=
  ((((s.put pgOculus Ocu.PWR_MOD 0 power).put pgButtress But.PIN_W 0 power).put pgButtress But.PIN_PEAK 0 peak).put pgOculus
    Ocu.HOT_TEMP 0 (t.getD (argMax t) 0)).put pgBelfry Bel.HOT_SENSOR 0 (argMax t)

theorem State.oculus_eq (s : State) (t : List Nat) (power : Nat) (cup : List Nat) : s.oculus t power cup =
    ((s.sensors t (List.range 64)).cupolaPower cup (List.range 8)).modulePower t power
      (max (((s.sensors t (List.range 64)).cupolaPower cup (List.range 8)).rd pgButtress But.PIN_PEAK) (power % 2 ^ 13)) := rfl

theorem State.sensors_beyond (s : State) (t l : List Nat) : sameBeyondRegs s (s.sensors t l) :=
  sameBeyondRegs_foldl (fun u i => sameBeyondRegs_trans (State.put_beyond u pgOculus Ocu.TS_TEMP i _) (State.put_beyond ..)) l s

theorem State.cupolaPower_beyond (s : State) (cup l : List Nat) : sameBeyondRegs s (s.cupolaPower cup l) :=
  sameBeyondRegs_foldl (fun u c => sameBeyondRegs_trans (State.put_beyond u pgOculus Ocu.PWR_CUP c _) (State.put_beyond ..)) l s

theorem State.modulePower_beyond (s : State) (t : List Nat) (power peak : Nat) : sameBeyondRegs s (s.modulePower t power peak) := by
  unfold State.modulePower
  refine sameBeyondRegs_trans ?_ (State.put_beyond ..)
  refine sameBeyondRegs_trans ?_ (State.put_beyond ..)
  refine sameBeyondRegs_trans ?_ (State.put_beyond ..)
  exact sameBeyondRegs_trans (State.put_beyond ..) (State.put_beyond ..)

theorem State.oculus_beyond (s : State) (t : List Nat) (power : Nat) (cup : List Nat) :
    sameBeyondRegs s (s.oculus t power cup) := by
  rw [State.oculus_eq]
  exact sameBeyondRegs_trans (sameBeyondRegs_trans (State.sensors_beyond ..) (State.cupolaPower_beyond ..))
    (State.modulePower_beyond ..)

/-- The fraction is no telemetry. -/
theorem State.rd_oculus_F (s : State) (t : List Nat) (power : Nat) (cup : List Nat) :
    (s.oculus t power cup).rd pgBelfry Bel.F 0 = s.rd pgBelfry Bel.F 0 := by
  have hs : ∀ u : State, (u.sensors t (List.range 64)).rd pgBelfry Bel.F 0 = u.rd pgBelfry Bel.F 0 := fun u =>
    foldl_of (fun u : State => u.rd pgBelfry Bel.F 0) _ (fun u i => by
      rw [State.rd_put_other _ _ (by decide) (by decide) (by decide), State.rd_put_other _ _ (by decide) (by decide) (by decide)]) _ u
  have hc : ∀ u : State, (u.cupolaPower cup (List.range 8)).rd pgBelfry Bel.F 0 = u.rd pgBelfry Bel.F 0 := fun u =>
    foldl_of (fun u : State => u.rd pgBelfry Bel.F 0) _ (fun u c => by
      rw [State.rd_put_other _ _ (by simp [pgBelfry, pgCupola]) (by decide) (by simp [pgCupola]),
        State.rd_put_other _ _ (by decide) (by decide) (by decide)]) _ u
  rw [State.oculus_eq]
  unfold State.modulePower
  rw [State.rd_put_same _ _ (by decide) (by decide) (by decide), State.rd_put_other _ _ (by decide) (by decide) (by decide),
    State.rd_put_other _ _ (by decide) (by decide) (by decide), State.rd_put_other _ _ (by decide) (by decide) (by decide),
    State.rd_put_other _ _ (by decide) (by decide) (by decide), hc, hs]

/-- The sensors of a list show their temperatures. -/
theorem State.rd_sensors (t : List Nat) (i : Nat) : ∀ (l : List Nat) (s : State),
    (s.sensors t l).rd pgOculus Ocu.TS_TEMP i = if i ∈ l then t.getD i 0 % 2 ^ 8 else s.rd pgOculus Ocu.TS_TEMP i
  | [], s => rfl
  | j :: l, s => by
    have hmax : ∀ (u : State) v, (u.put pgOculus Ocu.TS_MAX j v).rd pgOculus Ocu.TS_TEMP i = u.rd pgOculus Ocu.TS_TEMP i :=
      fun u v => State.rd_put_same u v (.inr (by decide)) (by decide) (by decide)
    have hstep : ((s.put pgOculus Ocu.TS_TEMP j (t.getD j 0)).put pgOculus Ocu.TS_MAX j
        (max (s.rd pgOculus Ocu.TS_MAX j) (t.getD j 0))).rd pgOculus Ocu.TS_TEMP i =
          if i = j then t.getD i 0 % 2 ^ 8 else s.rd pgOculus Ocu.TS_TEMP i := by
      rw [hmax]
      split
      · subst j
        exact State.rd_put_self _ _ _ _ _ rfl
      · refine State.rd_put_same s _ (.inl ?_) (by decide) (by decide)
        simp only [Ocu.TS_TEMP]
        omega
    refine (State.rd_sensors t i l _).trans ?_
    rw [hstep]
    by_cases hj : i = j <;> by_cases hl : i ∈ l <;> simp [hj, hl]

/-- After the sensors' part, the telemetry leaves their temperatures as they read. -/
theorem State.rd_oculus_temp (s : State) (t : List Nat) (power : Nat) (cup : List Nat) (i : Nat) (hi : i < 64) :
    (s.oculus t power cup).rd pgOculus Ocu.TS_TEMP i = t.getD i 0 % 2 ^ 8 := by
  have hc : ∀ u : State, (u.cupolaPower cup (List.range 8)).rd pgOculus Ocu.TS_TEMP i = u.rd pgOculus Ocu.TS_TEMP i := fun u =>
    foldl_of (fun u : State => u.rd pgOculus Ocu.TS_TEMP i) _ (fun u c => by
      rw [State.rd_put_other _ _ (by simp [pgOculus, pgCupola]) (by decide) (by simp [pgCupola]),
        State.rd_put_same _ _ (.inl (by simp only [Ocu.TS_TEMP, Ocu.PWR_CUP]; omega)) (by decide) (by decide)]) _ u
  rw [State.oculus_eq]
  unfold State.modulePower
  rw [State.rd_put_other _ _ (by decide) (by decide) (by decide),
    State.rd_put_same _ _ (.inl (by simp only [Ocu.TS_TEMP, Ocu.HOT_TEMP]; omega)) (by decide) (by decide),
    State.rd_put_other _ _ (by decide) (by decide) (by decide), State.rd_put_other _ _ (by decide) (by decide) (by decide),
    State.rd_put_same _ _ (.inl (by simp only [Ocu.TS_TEMP, Ocu.PWR_MOD]; omega)) (by decide) (by decide), hc, State.rd_sensors,
    if_pos (List.mem_range.2 hi)]

theorem State.rd_oculus_power (s : State) (t : List Nat) (power : Nat) (cup : List Nat) :
    (s.oculus t power cup).rd pgOculus Ocu.PWR_MOD 0 = power % 2 ^ 13 := by
  rw [State.oculus_eq]
  unfold State.modulePower
  rw [State.rd_put_other _ _ (by decide) (by decide) (by decide), State.rd_put_same _ _ (by decide) (by decide) (by decide),
    State.rd_put_other _ _ (by decide) (by decide) (by decide), State.rd_put_other _ _ (by decide) (by decide) (by decide)]
  exact State.rd_put_self _ _ _ _ _ rfl

/-- A sensor's temperature has 8 bits. -/
theorem State.temps_lt (s : State) (raw : List Int) (i : Nat) : (s.temps raw).getD i 0 < 2 ^ 8 := by
  unfold State.temps sensorTemp
  rw [List.getD_eq_getElem?_getD, List.getElem?_map]
  cases (List.range 64)[i]? with
  | none => exact Nat.two_pow_pos 8
  | some k =>
    simp only [Option.map_some, Option.getD_some]
    omega

/-! ## The fraction -/

/-- What an evaluation writes to the Belfry's page after the telemetry: F and the two triggers. -/
def State.showThrottle (s : State) (f : Nat) (tempAct powAct : Bool) : State :=
  ((s.wr pgBelfry Bel.F f).wrb pgBelfry Bel.TEMP_ACT tempAct).wrb pgBelfry Bel.POWER_ACT powAct

theorem State.showThrottle_beyond (s : State) (f : Nat) (a b : Bool) : sameBeyondRegs s (s.showThrottle f a b) := by
  unfold State.showThrottle
  refine sameBeyondRegs_trans ?_ (State.wri_beyond ..)
  exact sameBeyondRegs_trans (State.wr_beyond ..) (State.wri_beyond ..)

theorem State.rd_showThrottle_F (s : State) (f : Nat) (a b : Bool) : (s.showThrottle f a b).rd pgBelfry Bel.F 0 = f % 2 ^ 6 := by
  unfold State.showThrottle State.wrb
  rw [State.rd_wri_same _ _ (by decide) (by decide) (by decide) (by decide),
    State.rd_wri_same _ _ (by decide) (by decide) (by decide) (by decide)]
  exact State.rd_wri_own _ _ (by decide) (by decide)

theorem State.rd_showThrottle_oculus (s : State) (f : Nat) (a b : Bool) (x : Reg) (j : Nat) :
    (s.showThrottle f a b).rd pgOculus x j = s.rd pgOculus x j := by
  unfold State.showThrottle State.wrb State.wr
  rw [State.rd_wri_other _ _ (by decide) (by decide) (by decide), State.rd_wri_other _ _ (by decide) (by decide) (by decide),
    State.rd_wri_other _ _ (by decide) (by decide) (by decide)]

/-- A trigger of R54, or the interlock's (R420). -/
def State.throttleHot (s : State) (raw : List Int) (power : Nat) : Bool :=
  (!s.rdb pgButtress But.COOL_OK || (s.temps raw).any fun x => x > s.thrTemp) || power > s.rd pgBelfry Bel.THR_POWER

/-- Every sensor and the power lie below their limits by the hysteresis (R54). -/
def State.throttleCool (s : State) (raw : List Int) (power : Nat) : Bool :=
  (s.temps raw).all (fun x => x + s.rd pgBelfry Bel.T_HYST < s.thrTemp) && power + 100 < s.rd pgBelfry Bel.THR_POWER

/-- The fraction that an evaluation sets (R54). -/
def State.throttleF (s : State) (raw : List Int) (power : Nat) : Nat :=
  if s.rdb pgBelfry Bel.THR_EN then
    nextF (s.rd pgBelfry Bel.F) (s.rd pgBelfry Bel.MAX_SKIP) (s.throttleHot raw power) (s.throttleCool raw power)
  else 0

/-- The Belfry when an evaluation has started a window. -/
def State.windowBegun (s : State) : Belfry := { s.belfry with thrWindow := s.now, thrLast := none, thrLive := true }

/-- An evaluation that is not due takes the telemetry; one that is due sets the fraction and starts a window. -/
theorem State.throttleEval_cases (s : State) (raw : List Int) (power : Nat) (cup : List Nat) :
    (s.throttleDue = false → s.throttleEval raw power cup = s.oculus (s.temps raw) power cup) ∧
    (s.throttleDue = true → ∃ a b, s.throttleEval raw power cup =
      ((s.oculus (s.temps raw) power cup).setBelfry s.windowBegun).showThrottle (s.throttleF raw power) a b) := by
  have hb : (s.oculus (s.temps raw) power cup).belfry = s.belfry := (State.oculus_beyond ..).belfry
  refine ⟨fun hd => by simp [State.throttleEval, hd], fun hd => ?_⟩
  unfold State.throttleEval State.throttleF
  rw [hd]
  cases hen : s.rdb pgBelfry Bel.THR_EN with
  | true =>
    simp only [Bool.not_true, Bool.false_eq_true, if_false, if_true, hb]
    exact ⟨_, _, rfl⟩
  | false =>
    simp only [Bool.not_true, Bool.false_eq_true, if_false, hb]
    exact ⟨false, false, rfl⟩

theorem nextF_lt {f m : Nat} (hot cool : Bool) (hf : f < 64) (hm : m < 64) : nextF f m hot cool < 2 ^ 6 := by
  unfold nextF
  split
  · split <;> omega
  · split <;> omega

/-- Settles O16: the telemetry in both cases, and in the due one the fraction of R54. -/
theorem throttleEvaluationSetsF : Obligations.ThrottleEvaluationSetsF := by
  intro raw power cup s
  obtain ⟨hidle, hdue⟩ := State.throttleEval_cases s raw power cup
  have htemp : ∀ i, i < 64 → (s.oculus (s.temps raw) power cup).rd pgOculus Ocu.TS_TEMP i = (s.temps raw).getD i 0 := fun i hi => by
    rw [State.rd_oculus_temp _ _ _ _ _ hi, Nat.mod_eq_of_lt (State.temps_lt ..)]
  have hbeyond := State.oculus_beyond s (s.temps raw) power cup
  refine ⟨s.throttleEval raw power cup, rfl, ?_⟩
  cases hd : s.throttleDue with
  | false =>
    rw [hidle hd]
    have hbel : (s.oculus (s.temps raw) power cup).belfry = s.belfry := hbeyond.belfry
    refine ⟨memKept_of_mem hbeyond.mem, ?_, htemp, State.rd_oculus_power .., fun _ => ⟨hbel, State.rd_oculus_F ..⟩, nofun⟩
    rw [hbel]
    exact hbeyond
  | true =>
    obtain ⟨a, b, he⟩ := hdue hd
    rw [he]
    have hshow := sameBeyondRegs_trans (hbeyond.setBelfry s.windowBegun)
      (State.showThrottle_beyond _ (s.throttleF raw power) a b)
    have hbel : (((s.oculus (s.temps raw) power cup).setBelfry s.windowBegun).showThrottle (s.throttleF raw power) a b).belfry =
      s.windowBegun := hshow.belfry
    refine ⟨memKept_of_mem hshow.mem, hbel ▸ hshow, fun i hi => ?_, ?_, nofun, fun _ => ⟨hbel, fun hen => ?_, fun hen hf hm => ?_⟩⟩
    · rw [State.rd_showThrottle_oculus, State.setBelfry_rd]
      exact htemp i hi
    · rw [State.rd_showThrottle_oculus, State.setBelfry_rd]
      exact State.rd_oculus_power ..
    · rw [State.rd_showThrottle_F, State.throttleF, hen]
      rfl
    · rw [State.rd_showThrottle_F, State.throttleF, if_pos hen, Nat.mod_eq_of_lt (nextF_lt _ _ hf hm)]
      refine if_congr ?_ rfl (if_congr ?_ rfl rfl)
      · simp only [State.throttleHot, State.thrTemp, Bool.or_eq_true, decide_eq_true_eq, Bool.not_eq_true', gt_iff_lt, or_assoc]
      · simp only [State.throttleCool, State.thrTemp, Bool.and_eq_true, decide_eq_true_eq]
        exact Iff.rfl

end Sys2Proof.Machine
end

section
/-! Markers: the skew recorded, and what the checks of R40 leave alone (R38–R43). -/

namespace Sys2Proof.Machine

open Sys2Proof

theorem pgLink_torus (d : Nat) : 0x10 + d - 0x10 = d ∧ ¬ 0x10 + d < 16 := by omega

theorem ofSigned_lt (w : Nat) (i : Int) : ofSigned w i < 2 ^ w := by
  unfold ofSigned
  have h : (0 : Int) < (2 ^ w : Nat) := by exact_mod_cast Nat.two_pow_pos w
  have h1 := Int.emod_nonneg i (ne_of_gt h)
  have h2 := Int.emod_lt_of_pos i h
  omega

theorem b2n_lt (b : Bool) : b2n b < 2 := by cases b <;> decide

/-! ## The checks -/

/-- Whatever error events, link reports, tick faults and the list of early markers leave alone, the checks of a marker leave
alone. -/
theorem State.markerCheck_of {β : Type} (g : State → β) (herr : ∀ t q i, g (State.err t q i) = g t)
    (hrep : ∀ t d, g (State.reportLink t d) = g t) (hfault : ∀ t, g (State.tickFault t) = g t)
    (hearly : ∀ (t : State) e, g (t.setBelfry { t.belfry with early := e }) = g t) (s : State) (l : Nat) (m : Marker) (skew : Int) :
    g (s.markerCheck l m skew) = g s := by
  have hme : ∀ (t : State) a b, g (t.markerErr l a b) = g t := fun t a b => by
    unfold State.markerErr
    split <;> exact herr ..
  have hml : ∀ t : State, g (t.markerLinkFault l) = g t := fun t => by
    unfold State.markerLinkFault
    split
    · rfl
    · exact hrep ..
  have hcmp : ∀ (t : State) per step, g (t.markerCompare l m per step) = g t := fun t per step => by
    have hper : g (if m.perU % 512 = per then t else (t.markerErr l 1 7).markerLinkFault l) = g t := by
      split
      · rfl
      · rw [hml, hme]
    unfold State.markerCompare
    dsimp only
    split
    · rw [hfault, hme, hper]
    · exact hper
  have hskew : g (s.skewCheck l skew) = g s := by
    unfold State.skewCheck
    split
    · rw [hml, hme]
    · rfl
  unfold State.markerCheck
  dsimp only
  split
  · rw [hcmp, hskew]
  · split
    · rw [hearly, hskew]
    · split
      · rw [hcmp, hskew]
      · exact hskew

/-- The checks leave a block field as it reads, but for the counts of lost events and dropped frames. -/
theorem State.rd_markerCheck (s : State) (l : Nat) (m : Marker) (skew : Int) {p : PageId} {x : Reg} {j : Nat} (hx : 0x100 ≤ x.off)
    (h1 : rkey p x j ≠ rkey pgHost Mac.EVT_LOST 0) (h2 : rkey p x j ≠ rkey (pgKeep 3) Hst.EG_DROP 0) :
    (s.markerCheck l m skew).rd p x j = s.rd p x j :=
  State.markerCheck_of (·.rd p x j) (fun t q i => State.rd_err_block t q i hx h1 h2) (fun t d => State.rd_reportLink t d p x j)
    (fun _ => rfl) (fun _ _ => rfl) s l m skew

theorem State.marks_markerCheck (s : State) (l : Nat) (m : Marker) (skew : Int) :
    (s.markerCheck l m skew).belfry.marks = s.belfry.marks := by
  refine State.markerCheck_of (·.belfry.marks) (fun t q i => ?_) (fun t d => ?_) (fun _ => rfl) (fun _ _ => rfl) s l m skew
  · rw [State.err_belfry]
  · have h : (t.reportLink d).belfry = t.belfry :=
      (State.reportLink_parts (M := (· ≠ .belfry)) (parts_refl t) d (by decide) (by decide)).same_of (p := .belfry) (by simp)
    rw [h]

/-- A marker of the current tick within its window, with this module's period and step, meets every check. -/
theorem State.markerCheck_quiet {s : State} {l : Nat} {m : Marker} {skew : Int} (ht : tickDiff m.tick s.now = 0)
    (hw : 16 * skew.natAbs ≤ s.rd pgBelfry Bel.WIN * s.period) (hp : m.perU % 512 = s.rd pgBelfry Bel.PER_CUR)
    (hs : m.step % 2 ^ 32 = s.belfry.stepCount % 2 ^ 32) : s.markerCheck l m skew = s := by
  have hskew : s.skewCheck l skew = s := if_neg (by omega)
  unfold State.markerCheck
  simp only [hskew, ht, State.markerCompare, hp, hs, if_true, ne_eq, not_true, decide_false, Bool.and_false, Bool.false_eq_true,
    if_false]

/-! ## The record -/

/-- A marker counted and its skew stored and taken into the trim, before the checks. -/
def State.markerNoted (s : State) (l : Nat) (m : Marker) : State :=
  let s1 := (s.markerSeen l m).recordSkew l (s.markerSkew l m)
  if s.joined then s1.trimMark l m (s.markerSkew l m) else s1

theorem State.marker_eq (s : State) (l : Nat) (m : Marker) : s.marker l m =
    if s.joined && (l < 16 || m.joined) then (s.markerNoted l m).markerCheck l m (s.markerSkew l m) else s.markerNoted l m := by
  unfold State.marker State.markerNoted
  cases s.joined
  · simp only [Bool.false_and, Bool.false_eq_true, if_false]
  · simp only [if_true, Bool.true_and]

theorem State.marker_mem (s : State) (l : Nat) (m : Marker) : (s.marker l m).mem = s.mem :=
  (State.marker_parts (M := (· ≠ .mem)) (parts_refl s) l m (by decide) (by decide) (by decide) (by decide) (by decide) (by decide)
    (by decide) (by decide)).same_of (p := .mem) (by simp)

theorem State.setBelfry_put (s : State) (b : Belfry) (p : PageId) (r : Reg) (i v : Nat) :
    (s.setBelfry b).put p r i v = (s.put p r i v).setBelfry b := rfl

theorem State.setBelfry_joined (s : State) (b : Belfry) : (s.setBelfry b).joined = s.joined := by
  unfold State.joined State.rdb
  rw [State.setBelfry_rd]

theorem State.markerSeen_torus (s : State) (d : Nat) (m : Marker) : s.markerSeen (0x10 + d) m =
    s.setBelfry { s.belfry with seenMarks := s.belfry.seenMarks ++ [(d, if m.joined then m.tick % tickMod else s.now)] } := by
  obtain ⟨hd, hl⟩ := pgLink_torus d
  unfold State.markerSeen
  rw [if_neg hl, hd]

theorem State.recordSkew_torus (s : State) (d : Nat) (k : Int) : s.recordSkew (0x10 + d) k =
    (s.put pgBelfry Bel.SKEW d (ofSigned 24 k)).put pgBelfry Bel.SKEW_VALID d (b2n s.joined) := by
  obtain ⟨hd, hl⟩ := pgLink_torus d
  unfold State.recordSkew
  rw [if_neg hl, hd]

/-- The trim takes a joined neighbour's marker. -/
theorem State.trimMark_torus (s : State) (b : Belfry) (d : Nat) (m : Marker) (k : Int) : (s.setBelfry b).trimMark (0x10 + d) m k =
    s.setBelfry (if m.joined then { b with marks := AL.put b.marks d k } else b) := by
  have hd := (pgLink_torus d).1
  have hle : 16 ≤ 0x10 + d := by omega
  unfold State.trimMark
  simp only [hd, hle, decide_true, Bool.true_and]
  split <;> rfl

/-- The Belfry once a torus marker is counted and taken into the trim. -/
def State.markedBelfry (s : State) (d : Nat) (m : Marker) : Belfry :=
  { s.belfry with
    seenMarks := s.belfry.seenMarks ++ [(d, if m.joined then m.tick % tickMod else s.now)]
    marks := if s.joined && m.joined then AL.put s.belfry.marks d (s.markerSkew (0x10 + d) m) else s.belfry.marks }

/-- A torus marker noted: two fields of its direction, the count and the trim. -/
theorem State.markerNoted_torus (s : State) (d : Nat) (m : Marker) : s.markerNoted (0x10 + d) m =
    ((s.put pgBelfry Bel.SKEW d (ofSigned 24 (s.markerSkew (0x10 + d) m))).put pgBelfry Bel.SKEW_VALID d (b2n s.joined)).setBelfry
      (s.markedBelfry d m) := by
  unfold State.markerNoted State.markedBelfry
  generalize s.markerSkew (0x10 + d) m = k
  dsimp only
  rw [State.markerSeen_torus, State.recordSkew_torus, State.setBelfry_joined, State.setBelfry_put, State.setBelfry_put,
    State.trimMark_torus]
  cases s.joined
  · simp only [Bool.false_eq_true, if_false, Bool.false_and]
  · cases m.joined
    · simp only [Bool.false_eq_true, if_false, if_true, Bool.and_false]
    · simp only [if_true, Bool.and_self]

/-- An endpoint's marker noted: EP_SKEW. -/
theorem State.markerNoted_endpoint (s : State) {n : Nat} (hn : n < 16) (m : Marker) : s.markerNoted n m =
    s.put (pgLink n) Ept.EP_SKEW 0 (ofSigned 24 (s.markerSkew n m)) := by
  have hge : ¬ 16 ≤ n := by omega
  unfold State.markerNoted State.markerSeen State.recordSkew State.trimMark
  simp [hn, hge]

section
variable (s : State) (d : Nat) (m : Marker)

theorem State.rd_noted_skew : (s.markerNoted (0x10 + d) m).rd pgBelfry Bel.SKEW d = ofSigned 24 (s.markerSkew (0x10 + d) m) := by
  rw [State.markerNoted_torus, State.setBelfry_rd, State.rd_put_same _ _ (.inr (by decide)) (by decide) (by decide),
    State.rd_put_self _ _ _ _ _ rfl]
  exact Nat.mod_eq_of_lt (ofSigned_lt ..)

theorem State.rd_noted_valid : (s.markerNoted (0x10 + d) m).rd pgBelfry Bel.SKEW_VALID d = b2n s.joined := by
  rw [State.markerNoted_torus, State.setBelfry_rd, State.rd_put_self _ _ _ _ _ rfl]
  exact Nat.mod_eq_of_lt (b2n_lt _)

/-- A noted torus marker leaves every other field as it reads. -/
theorem State.rd_noted_ne {p : PageId} {x : Reg} {j : Nat} (h1 : rkey p x j ≠ rkey pgBelfry Bel.SKEW d)
    (h2 : rkey p x j ≠ rkey pgBelfry Bel.SKEW_VALID d) : (s.markerNoted (0x10 + d) m).rd p x j = s.rd p x j := by
  rw [State.markerNoted_torus, State.setBelfry_rd, State.rd_put_block _ _ h2 (by decide) (by decide),
    State.rd_put_block _ _ h1 (by decide) (by decide)]

theorem State.noted_belfry : (s.markerNoted (0x10 + d) m).belfry = s.markedBelfry d m := by
  rw [State.markerNoted_torus]
  rfl

theorem State.noted_beyond : sameBeyondRegs (s.setBelfry (s.markedBelfry d m)) (s.markerNoted (0x10 + d) m) := by
  rw [State.markerNoted_torus]
  exact (sameBeyondRegs_trans (State.put_beyond ..) (State.put_beyond ..)).setBelfry _

end

/-- A marker that nothing is reported of leaves the state as noted. -/
theorem State.marker_quiet (s : State) {d : Nat} (hd : d < 6) (m : Marker)
    (h : s.joined = false ∨ m.joined = false ∨ tickDiff m.tick s.now = 0 ∧
      16 * (s.markerSkew (0x10 + d) m).natAbs ≤ s.rd pgBelfry Bel.WIN 0 * s.period ∧
      m.perU % 512 = s.rd pgBelfry Bel.PER_CUR 0 ∧ m.step % 2 ^ 32 = s.belfry.stepCount % 2 ^ 32) :
    s.marker (0x10 + d) m = s.markerNoted (0x10 + d) m := by
  have hl := (pgLink_torus d).2
  rw [State.marker_eq]
  rcases h with h | h | ⟨ht, hw, hp, hs⟩
  · simp [h]
  · simp [h, hl]
  · have hwin : (s.markerNoted (0x10 + d) m).rd pgBelfry Bel.WIN 0 = s.rd pgBelfry Bel.WIN 0 :=
      State.rd_noted_ne s d m (by simp [rkey, Bel.WIN, Bel.SKEW]; omega) (by simp [rkey, Bel.WIN, Bel.SKEW_VALID])
    have hper : (s.markerNoted (0x10 + d) m).rd pgBelfry Bel.PER_CUR 0 = s.rd pgBelfry Bel.PER_CUR 0 :=
      State.rd_noted_ne s d m (by simp [rkey, Bel.PER_CUR, Bel.SKEW]) (by simp [rkey, Bel.PER_CUR, Bel.SKEW_VALID])
    have hbel := State.noted_belfry s d m
    split
    · refine State.markerCheck_quiet ?_ ?_ ?_ ?_
      · rw [State.now, hbel]
        exact ht
      · rw [State.period, hper, hwin]
        exact hw
      · rw [hper]
        exact hp
      · rw [hbel]
        exact hs
    · rfl

/-- The fields that a marker of direction `d` may name are no counts of lost events or dropped frames. -/
theorem skewKey_ne (x : Reg) (d : Nat) : rkey pgBelfry x d ≠ rkey pgHost Mac.EVT_LOST 0 ∧
    rkey pgBelfry x d ≠ rkey (pgKeep 3) Hst.EG_DROP 0 := by
  simp [rkey, pgBelfry, pgHost, pgKeep]

/-- Settles O17: what is noted of a marker stands after the checks (rd_markerCheck), and a good marker meets none (marker_quiet). -/
theorem markerSkewIsRecorded : Obligations.MarkerSkewIsRecorded := by
  intro m s
  refine ⟨fun d hd => ⟨s.marker (0x10 + d) m, rfl, memKept_of_mem (State.marker_mem ..), ?_, ?_, fun hj hm => ?_, fun hq => ?_⟩,
    fun n hn => ⟨s.marker n m, rfl, memKept_of_mem (State.marker_mem ..), ?_, ?_, fun hj => ?_⟩⟩
  · rw [← State.rd_noted_skew, State.marker_eq]
    split
    · exact State.rd_markerCheck _ _ _ _ (by decide) (skewKey_ne _ d).1 (skewKey_ne _ d).2
    · rfl
  · rw [← State.rd_noted_valid s d m, State.marker_eq]
    split
    · exact State.rd_markerCheck _ _ _ _ (by decide) (skewKey_ne _ d).1 (skewKey_ne _ d).2
    · rfl
  · rw [State.marker_eq, if_pos (by simp [hj, hm]), State.marks_markerCheck, State.noted_belfry, State.markedBelfry, hj, hm]
    exact AL.get_put_self ..
  · rw [State.marker_quiet s hd m hq, State.noted_belfry]
    refine ⟨State.noted_beyond s d m, fun p r i hk => ?_⟩
    simp only [List.mem_cons, List.not_mem_nil, or_false, not_or] at hk
    exact State.rd_noted_ne s d m hk.1 hk.2
  · have hr : (s.markerNoted n m).rd (pgLink n) Ept.EP_SKEW 0 = ofSigned 24 (s.markerSkew n m) := by
      rw [State.markerNoted_endpoint s hn, State.rd_put_self _ _ _ _ _ rfl]
      exact Nat.mod_eq_of_lt (ofSigned_lt ..)
    have hk : pgLink n = ⟨0x10, n⟩ := if_pos hn
    rw [← hr, State.marker_eq]
    split
    · exact State.rd_markerCheck _ _ _ _ (by decide) (by simp [hk, rkey, pgHost]) (by simp [hk, rkey, pgKeep])
    · rfl
  · have hb : (s.markerNoted n m).belfry = s.belfry := by
      rw [State.markerNoted_endpoint s hn]
      rfl
    rw [State.marker_eq, ← hb]
    split
    · exact State.marks_markerCheck ..
    · rfl
  · rw [State.marker_eq, hj, State.markerNoted_endpoint s hn]
    refine ⟨State.put_beyond .., fun p r i hk => ?_⟩
    exact State.rd_put_block s _ (by simpa using hk) (by decide) (pgLink_trip n)

end Sys2Proof.Machine
end

section
/-! Scheduled flits that arrive (R43–R46, R61, R100, R117). -/

namespace Sys2Proof.Machine

open Sys2Proof

/-! ## A counter and an error event -/

/-- A flit discarded and counted by a Keep, with an error event of a page: what changes, and what the counter then reads. -/
theorem State.bumpErr_effect (s : State) (k : Nat) (r : Reg) (q : PageId) (i : Nat) (hr : 0x100 ≤ r.off) (hk : r.kind = .counterWrap)
    (he : rkey (pgKeep k) r 0 ≠ rkey (pgKeep 3) Hst.EG_DROP 0) (hi : i < 32) :
    errSet ((s.bump (pgKeep k) r).err q i) q i ∧ sameBeyondReports s ((s.bump (pgKeep k) r).err q i) ∧
      ((s.bump (pgKeep k) r).err q i).rd (pgKeep k) r 0 = (s.rd (pgKeep k) r 0 + 1) % 2 ^ r.w := by
  refine ⟨State.err_bit _ _ _ hi, sameBeyondReports_trans (sameBeyondRegs.reports (State.wri_beyond ..)) (State.err_beyond ..), ?_⟩
  rw [State.rd_err_block _ _ _ hr (by simp [rkey, pgKeep, pgHost]) he]
  exact State.rd_bumpi_own s 1 hr (by simp [pgKeep]) hk

theorem discardKey_ne (k : Nat) : rkey (pgKeep k) Slt.SCHED_DISCARD 0 ≠ rkey (pgKeep 3) Hst.EG_DROP 0 := by
  simp [rkey, Slt.SCHED_DISCARD, Hst.EG_DROP]

theorem headerKey_ne (k : Nat) : rkey (pgKeep k) Kr.HDR_CRC_ERR 0 ≠ rkey (pgKeep 3) Hst.EG_DROP 0 := by
  simp [rkey, Kr.HDR_CRC_ERR, Hst.EG_DROP]

/-- A flit discarded under R100. -/
theorem State.discardStray_effect (s : State) (l : Nat) : errSet (s.discardStray l) (pgKeep (keepOfLink l)) 13 ∧
    sameBeyondReports s (s.discardStray l) ∧ (s.discardStray l).rd (pgKeep (keepOfLink l)) Slt.SCHED_DISCARD 0 =
      (s.rd (pgKeep (keepOfLink l)) Slt.SCHED_DISCARD 0 + 1) % 2 ^ 32 :=
  State.bumpErr_effect s _ _ _ 13 (by decide) rfl (discardKey_ne _) (by decide)

/-- A flit discarded under R46. -/
theorem State.discardSkew_effect (s : State) (l : Nat) : errSet (s.discardSkew l) pgBelfry 0 ∧
    sameBeyondReports s (s.discardSkew l) ∧ (s.discardSkew l).rd (pgKeep (keepOfLink l)) Slt.SCHED_DISCARD 0 =
      (s.rd (pgKeep (keepOfLink l)) Slt.SCHED_DISCARD 0 + 1) % 2 ^ 32 :=
  State.bumpErr_effect s _ _ pgBelfry 0 (by decide) rfl (discardKey_ne _) (by decide)

/-! ## An arriving flit -/

/-- A scheduled flit at a link of the module: its header, then the scheduled plane. -/
theorem execScheduledFlitReceive_eq {link : Nat} {f : Flit} (s : State) (hl : link < 0x16) (hk : f.kind = 0) :
    execScheduledFlitReceive link f s = .next (if f.hcrcOk then s.schedFlit link f else s.headerDiscard (keepOfLink link)) := by
  unfold execScheduledFlitReceive
  simp [hl, hk]

section
variable {s : State} {link : Nat} {f : Flit}

theorem State.schedFlit_unjoined (hj : s.joined = false) :
    s.schedFlit link f = s.bump (pgKeep (keepOfLink link)) Slt.SCHED_DISCARD := by
  simp [State.schedFlit, hj]

/-- A flit of the tick that a plan state is of, in time, is checked against it. -/
theorem State.schedFlit_checked {p : PlanTick} (hj : s.joined = true) (h : s.checkedBy link f p) :
    s.schedFlit link f = s.schedCheck p link (fullStamp s.now f.tick16) f := by
  rcases h with ⟨hn, rfl⟩ | ⟨hn, rfl, ht, ho⟩
  · simp [State.schedFlit, hj, hn]
  · cases hr : s.planTick.runs with
    | false => simp [State.schedFlit, hj, hn, ht, hr]
    | true =>
      cases hfo : s.flitTimeOf s.sched.prev link f with
      | none => simp [State.schedFlit, hj, hn, ht, hr, hfo]
      | some o =>
        have hin : ¬ flitOffset link o < s.offset := Nat.not_lt.2 (ho hr o hfo)
        simp [State.schedFlit, hj, hn, ht, hr, hfo, hin]

/-- A flit of the tick before whose consumption offset has passed. -/
theorem State.schedFlit_late {o : Nat} (hj : s.joined = true) (hn : tickDiff (fullStamp s.now f.tick16) s.now = -1)
    (ht : s.sched.prev.tick = fullStamp s.now f.tick16) (hr : s.planTick.runs = true)
    (ho : s.flitTimeOf s.sched.prev link f = some o) (hlt : flitOffset link o < s.offset) :
    s.schedFlit link f = s.discardSkew link := by
  simp [State.schedFlit, hj, hn, ht, hr, ho, hlt]

theorem State.schedFlit_early (hj : s.joined = true) (hn : tickDiff (fullStamp s.now f.tick16) s.now = 1) :
    s.schedFlit link f = s.setSched { s.sched with landing := s.sched.landing ++ [(link, fullStamp s.now f.tick16, f)] } := by
  simp [State.schedFlit, hj, hn]

theorem State.schedFlit_far (hj : s.joined = true)
    (hn : tickDiff (fullStamp s.now f.tick16) s.now < -1 ∨ 1 < tickDiff (fullStamp s.now f.tick16) s.now) :
    s.schedFlit link f = s.discardSkew link := by
  have h0 : tickDiff (fullStamp s.now f.tick16) s.now ≠ 0 := by omega
  have h1 : tickDiff (fullStamp s.now f.tick16) s.now ≠ -1 := by omega
  have h2 : tickDiff (fullStamp s.now f.tick16) s.now ≠ 1 := by omega
  simp [State.schedFlit, hj, h0, h1, h2]

/-- A flit that passes its check and finds room takes its place and is counted. -/
theorem State.schedCheck_lands {p : PlanTick} {st : Nat} (hok : s.schedOk p link st f = true)
    (hroom : s.landedBytes (keepOfLink link) f.epoch + 256 ≤ s.landRoom (keepOfLink link) f.epoch) :
    s.schedCheck p link st f = s.setSched { s.sched with
      landing := s.sched.landing ++ [(link, st, f)]
      counts := AL.put s.sched.counts (link, f.stream, st) (s.schedCount link f.stream st + 1)
      lasts := if f.last then AL.put s.sched.lasts (link, f.stream, st) f.chunk else s.sched.lasts } := by
  unfold State.schedCheck State.landFlit
  dsimp only
  rw [if_pos hok, if_pos hroom]

/-- A flit that fails its check, or finds no room, is a stray. -/
theorem State.schedCheck_strays {p : PlanTick} {st : Nat} (h : s.schedOk p link st f = false ∨
    s.landRoom (keepOfLink link) f.epoch < s.landedBytes (keepOfLink link) f.epoch + 256) :
    s.schedCheck p link st f = s.discardStray link := by
  unfold State.schedCheck State.landFlit
  dsimp only
  rcases h with h | h
  · rw [h, if_neg (by decide)]
  · rw [if_neg (c := _ ≤ _) (by omega)]
    split <;> rfl

end

/-- Settles O19, by the branches of an arriving flit: its header, the module's join, its stamp, and its check and room. -/
theorem scheduledFlitLands : Obligations.ScheduledFlitLands := by
  intro link st f s hl hk hst
  subst hst
  have hexec := execScheduledFlitReceive_eq s hl hk
  change exec (.scheduledFlitReceive link f) s = _ at hexec
  refine ⟨fun hh => ?_, fun hh hj => ?_, fun hh hj => ?_⟩
  · obtain ⟨herr, hsame, hcnt⟩ := State.bumpErr_effect s (keepOfLink link) Kr.HDR_CRC_ERR (pgKeep (keepOfLink link)) 0 (by decide) rfl
      (headerKey_ne _) (by decide)
    refine ⟨s.headerDiscard (keepOfLink link), ?_, hsame, hcnt, herr⟩
    rw [hexec, hh, if_neg (by decide)]
  · refine ⟨_, ?_, State.wri_beyond .., State.rd_bumpi_own s 1 (by decide) (by simp [pgKeep]) rfl⟩
    rw [hexec, if_pos hh, State.schedFlit_unjoined hj]
    rfl
  · rw [hexec, if_pos hh]
    have hstray := State.discardStray_effect s link
    have hskew := State.discardSkew_effect s link
    refine ⟨fun p hp hok hroom => ?_, fun p hp hbad => ?_, fun hn => ?_, fun hn => ?_, fun o hn ht hr ho hlt => ?_⟩
    · rw [State.schedFlit_checked hj hp, State.schedCheck_lands hok hroom]
      exact ⟨_, rfl, fun _ _ _ => rfl, rfl, rfl, AL.getD_put_self ..⟩
    · rw [State.schedFlit_checked hj hp, State.schedCheck_strays hbad]
      exact ⟨_, rfl, hstray⟩
    · rw [State.schedFlit_early hj hn]
    · rw [State.schedFlit_far hj hn]
      exact ⟨_, rfl, hskew⟩
    · rw [State.schedFlit_late hj hn ht hr ho hlt]
      exact ⟨_, rfl, hskew⟩

end Sys2Proof.Machine
end

section
/-! Scheduled flits consumed at their offset (R44–R46, R235). -/

namespace Sys2Proof.Machine

open Sys2Proof

/-! ## Sending on -/

/-- Two states are the same but for the links and the outputs. -/
def onlySent (s t : State) : Prop := t = { s with out := t.out, links := t.links }

theorem onlySent_trans {s t u : State} (h1 : onlySent s t) (h2 : onlySent t u) : onlySent s u := by
  unfold onlySent at *
  rw [h2, h1]

theorem onlySent_foldl {α : Type} {f : State → α → State} (hf : ∀ t x, onlySent t (f t x)) :
    ∀ (l : List α) (s : State), onlySent s (l.foldl f s)
  | [], _ => rfl
  | x :: l, s => onlySent_trans (hf s x) (onlySent_foldl hf l (f s x))

/-- A chunk sent on changes links and outputs only. -/
theorem State.sendChunk_onlySent (m : List Byte) (p : PlanTick) : ∀ (n : Nat) (s : State) (inp sid j : Nat) (c : Chunk),
    onlySent s (State.sendChunk m p n s inp sid j c)
  | 0, _, _, _, _, _ => rfl
  | n + 1, s, inp, sid, j, c => by
    unfold State.sendChunk
    dsimp only
    refine onlySent_foldl (fun t out => ?_) _ s
    split
    · rfl
    · split
      · split <;> rfl
      · split
        · rfl
        · exact State.sendChunk_onlySent m p n t out sid j c

/-! ## A chunk taken or missed -/

/-- The stream ends at a unit of this module. -/
def endsHere (m : List Byte) (sid : Nat) : Prop := ∃ r, imgStream m sid = some r ∧ r.terminal = true ∧ 0x10 ≤ r.sink

/-- A chunk taken: sent on, and kept for the unit where its stream ends here. -/
theorem State.takeChunk_effect (s : State) (m : List Byte) (inp sid j : Nat) (c : Chunk) :
    ∃ x k e, s.takeChunk m inp sid j c = { s with sched := { s.sched with inbox := x }, links := k, out := e } ∧
      (endsHere m sid → AL.get x (sid, j) = some c) := by
  have hsent := State.sendChunk_onlySent m s.planTick 4 s inp sid j c
  unfold State.takeChunk
  generalize State.sendChunk m s.planTick 4 s inp sid j c = u at hsent
  unfold onlySent at hsent
  rw [hsent]
  dsimp only
  cases himg : imgStream m sid with
  | none => exact ⟨s.sched.inbox, _, _, rfl, by simp [endsHere, himg]⟩
  | some r =>
    dsimp only
    split
    · exact ⟨AL.put s.sched.inbox (sid, j) c, _, _, rfl, fun _ => AL.get_put_self ..⟩
    · rename_i hend
      refine ⟨s.sched.inbox, _, _, rfl, fun ⟨r', hr, ht, hs⟩ => ?_⟩
      obtain rfl : r = r' := by rw [himg] at hr; injection hr
      exact absurd (by simp [ht, hs]) hend

/-- The Belfry with an overrun of cause 3 of a link, for a flit time. -/
def State.missedBelfry (s : State) (l o : Nat) : Belfry :=
  { s.belfry with overruns := s.belfry.overruns ++
      [⟨if l < 16 then tyEndpoint else tyTorus, if l < 16 then l else l - 16, 3, l + 256 * min o 0xFFFF⟩] }

/-- A chunk missed: an overrun, and a poisoned chunk for the unit where its stream ends here. -/
theorem State.missChunk_effect (s : State) (m : List Byte) (l sid j o : Nat) :
    ∃ x, s.missChunk m l sid j o = { s with sched := { s.sched with inbox := x }, belfry := s.missedBelfry l o } ∧
      (endsHere m sid → AL.get x (sid, j) = some lostChunk) := by
  unfold State.missChunk
  dsimp only
  cases himg : imgStream m sid with
  | none => exact ⟨s.sched.inbox, rfl, by simp [endsHere, himg]⟩
  | some r =>
    dsimp only
    split
    · exact ⟨AL.put s.sched.inbox (sid, j) lostChunk, rfl, fun _ => AL.get_put_self ..⟩
    · rename_i hend
      refine ⟨s.sched.inbox, rfl, fun ⟨r', hr, ht, hs⟩ => ?_⟩
      obtain rfl : r = r' := by rw [himg] at hr; injection hr
      exact absurd (by simp [ht, hs]) hend

/-! ## A position consumed -/

/-- The position is taken. -/
def State.positionTaken (s : State) (l sid j : Nat) : State := s.setSched { s.sched with taken := (l, sid, j) :: s.sched.taken }

/-- The position is taken, and its flit leaves the landing region. -/
def State.flitTaken (s : State) (l sid j : Nat) : State :=
  (s.positionTaken l sid j).setSched { (s.positionTaken l sid j).sched with
    landing := s.sched.landing.filter fun x =>
      !(x.1 = l && x.2.1 = s.sched.prev.tick && x.2.2.stream = sid && x.2.2.chunk = j) }

/-- The chunk of a flit for its unit. -/
def flitChunk (f : Flit) : Chunk :=
  { op := f.opcode, poison := f.poison, bytes := padTo 240 f.payload, last := f.last, len := 16 * f.len }

section
variable {s : State} {m : List Byte} {l sid j : Nat} (o : Nat)

/-- A flit that waits is read out of the landing region, and its chunk taken, or missed where the read loses the flit. -/
theorem State.consumeAt_found {f : Flit} (hn : s.sched.taken.contains (l, sid, j) = false)
    (hf : s.landed l sid s.sched.prev.tick j = some f) :
    (∃ f' u, (s.flitTaken l sid j).flitRead (.landing l sid s.sched.prev.tick j) f = (some f', u) ∧
      s.consumeAt m l sid j o = u.takeChunk m l sid j (flitChunk f')) ∨
    ∃ u, (s.flitTaken l sid j).flitRead (.landing l sid s.sched.prev.tick j) f = (none, u) ∧
      s.consumeAt m l sid j o = u.missChunk m l sid j o := by
  have hgoal : ∀ v, (∀ f' u, (s.flitTaken l sid j).flitRead (.landing l sid s.sched.prev.tick j) f = (some f', u) →
      v = u.takeChunk m l sid j (flitChunk f')) →
      (∀ u, (s.flitTaken l sid j).flitRead (.landing l sid s.sched.prev.tick j) f = (none, u) → v = u.missChunk m l sid j o) →
      s.consumeAt m l sid j o = v := by
    intro v h1 h2
    unfold State.consumeAt
    rw [hn]
    simp only [Bool.false_eq_true, if_false, hf]
    split
    · rename_i f' u hr
      exact (h1 f' u hr).symm
    · rename_i u hr
      exact (h2 u hr).symm
  rcases hr : (s.flitTaken l sid j).flitRead (.landing l sid s.sched.prev.tick j) f with ⟨_ | f', u⟩
  · refine .inr ⟨u, rfl, hgoal _ (fun f' u' h => ?_) fun u' h => ?_⟩
    · cases hr.symm.trans h
    · cases hr.symm.trans h
      rfl
  · refine .inl ⟨f', u, rfl, hgoal _ (fun f' u' h => ?_) fun u' h => ?_⟩
    · cases hr.symm.trans h
      rfl
    · cases hr.symm.trans h

/-- A missing flit: nothing where the coded slice has ended, else a missed chunk. -/
theorem State.consumeAt_missing (hn : s.sched.taken.contains (l, sid, j) = false)
    (hf : s.landed l sid s.sched.prev.tick j = none) : s.consumeAt m l sid j o =
      if s.codedEnd m l sid s.sched.prev.tick j then s.positionTaken l sid j
      else (s.positionTaken l sid j).missChunk m l sid j o := by
  unfold State.consumeAt
  rw [hn]
  simp only [Bool.false_eq_true, if_false, hf]
  rfl

theorem State.consumeAt_taken (hn : s.sched.taken.contains (l, sid, j) = true) : s.consumeAt m l sid j o = s := if_pos hn

end

/-- A read of a flit changes no scheduled state. -/
theorem State.flitRead_sched (s : State) (p : FlitAt) (f : Flit) : (s.flitRead p f).2.sched = s.sched :=
  (State.flitRead_parts (M := (· ≠ .sched)) (parts_refl s) p f (by decide) (by decide) (by decide) (by decide)
    (by decide)).same_of (p := .sched) (by simp)

/-- A flit held without errors is read as it stands. -/
theorem State.flitRead_good {s : State} {p : FlitAt} (f : Flit) (h : ∀ e ∈ s.arrays.flits, e.place ≠ p) :
    s.flitRead p f = (some f, s) := by
  have hl : (s.arrays.flits.filter fun e => e.place = p) = [] := by
    rw [List.filter_eq_nil_iff]
    intro e he
    simpa using h e he
  unfold State.flitRead
  simp only [hl]
  rfl

/-- No flit of a position stands in a landing region that has lost those of the position. -/
theorem landed_filter_none (l : List (Nat × Nat × Flit)) (k sid stamp j : Nat) :
    (l.filter fun x => !(x.1 = k && x.2.1 = stamp && x.2.2.stream = sid && x.2.2.chunk = j)).find?
      (fun x => x.1 = k && x.2.1 = stamp && x.2.2.stream = sid && x.2.2.chunk = j) = none := by
  rw [List.find?_eq_none]
  intro x hx
  obtain ⟨-, hx⟩ := List.mem_filter.1 hx
  intro h
  simp only [h, Bool.not_true, Bool.false_eq_true] at hx

/-- Once a position is consumed it is taken, and no flit of it waits. -/
theorem State.consumeAt_sched {s : State} {m : List Byte} {l sid j : Nat} (o : Nat)
    (hn : s.sched.taken.contains (l, sid, j) = false) :
    (s.consumeAt m l sid j o).sched.taken = (l, sid, j) :: s.sched.taken ∧
      (s.consumeAt m l sid j o).landed l sid s.sched.prev.tick j = none := by
  cases hf : s.landed l sid s.sched.prev.tick j with
  | none =>
    have hx : ∃ x, (s.consumeAt m l sid j o).sched = { (s.positionTaken l sid j).sched with inbox := x } := by
      rw [State.consumeAt_missing o hn hf]
      split
      · exact ⟨_, rfl⟩
      · obtain ⟨x, he, -⟩ := State.missChunk_effect (s.positionTaken l sid j) m l sid j o
        exact ⟨x, by rw [he]⟩
    obtain ⟨x, hx⟩ := hx
    refine ⟨by rw [hx]; rfl, ?_⟩
    unfold State.landed at hf ⊢
    rw [hx]
    exact hf
  | some f =>
    have hx : ∃ x, (s.consumeAt m l sid j o).sched = { (s.flitTaken l sid j).sched with inbox := x } := by
      have hu := State.flitRead_sched (s.flitTaken l sid j) (.landing l sid s.sched.prev.tick j) f
      rcases State.consumeAt_found (m := m) o hn hf with ⟨f', u, hr, hc⟩ | ⟨u, hr, hc⟩
      · obtain ⟨x, _, _, he, -⟩ := State.takeChunk_effect u m l sid j (flitChunk f')
        rw [hr] at hu
        exact ⟨x, by rw [hc, he, ← hu]⟩
      · obtain ⟨x, he, -⟩ := State.missChunk_effect u m l sid j o
        rw [hr] at hu
        exact ⟨x, by rw [hc, he, ← hu]⟩
    obtain ⟨x, hx⟩ := hx
    refine ⟨by rw [hx]; rfl, ?_⟩
    unfold State.landed
    rw [hx]
    exact congrArg (Option.map _) (landed_filter_none ..)

/-! ## The landing in a tile store -/

/-- The bodies that bind a stream hang on the plan state and the banks. -/
theorem State.bindersOf_of {s u : State} (hp : u.planTick = s.planTick) (hA : u.bankA = s.bankA) (hB : u.bankB = s.bankB)
    (sid dir : Nat) : u.bindersOf sid dir = s.bindersOf sid dir := by
  have himg : ∀ p, u.imageOf p = s.imageOf p := fun p => by
    unfold State.imageOf State.bank
    rw [hA, hB]
  unfold State.bindersOf State.bodyTiles State.bodyOf
  simp only [hp, himg]

/-- A position that is not taken yet is consumed, and lands in the bodies that bind its stream. -/
theorem State.consumeLand_eq {s : State} {m : List Byte} {link sid o j : Nat} (hm : s.consumeImage = some m)
    (hj : posOf (recvTimes m s.sched.prev link sid) o = some j) (ho : flitOffset link o ≤ s.offset) :
    s.consumeLand link sid o = if s.sched.taken.contains (link, sid, j) then s
      else ((s.consumeAt m link sid j o).landChunk sid j).applyAflag sid := by
  have hc : s.consume link sid o = s.consumeAt m link sid j o := by
    unfold State.consume
    simp only [hm, hj, ho, if_true]
  unfold State.consumeLand
  simp only [hm, hj, hc]
  cases hn : s.sched.taken.contains (link, sid, j) with
  | true => simp only [State.consumeAt_taken o hn, if_true]
  | false =>
    rw [(State.consumeAt_sched o hn).1, if_neg (List.cons_ne_self _ _)]
    simp only [Bool.false_eq_true, if_false]

theorem State.landed_tail (u : State) (sid j : Nat) : ((u.landChunk sid j).applyAflag sid).sched = u.sched :=
  State.applyAflag_sched' (State.landChunk_sched' rfl sid j) sid

theorem State.landed_tail_belfry (u : State) (sid j : Nat) : ((u.landChunk sid j).applyAflag sid).belfry = u.belfry :=
  (State.applyAflag_parts (M := (· ≠ .belfry)) (State.landChunk_parts (parts_refl u) sid j (by decide) (by decide) (by decide)
    (by decide) (by decide) (by decide) (by decide)) sid (by decide)).same_of (p := .belfry) (by simp)

/-- Where no body binds the stream, nothing lands in a tile store. -/
theorem State.landed_tail_unbound {u : State} {sid : Nat} (j : Nat) (h : u.bindersOf sid 0 = []) :
    (u.landChunk sid j).applyAflag sid = u := by
  have hl : u.landChunk sid j = u := by
    unfold State.landChunk
    rw [h]
    rfl
  unfold State.applyAflag
  rw [hl, h]
  rfl

/-- A flit that waits without errors is taken. -/
theorem State.consumeAt_good {s : State} {m : List Byte} {l sid j : Nat} (o : Nat) {f : Flit}
    (hn : s.sched.taken.contains (l, sid, j) = false) (hf : s.landed l sid s.sched.prev.tick j = some f)
    (hg : ∀ e ∈ s.arrays.flits, e.place ≠ .landing l sid s.sched.prev.tick j) :
    s.consumeAt m l sid j o = (s.flitTaken l sid j).takeChunk m l sid j (flitChunk f) := by
  have hread := State.flitRead_good (s := s.flitTaken l sid j) (p := .landing l sid s.sched.prev.tick j) f hg
  rcases State.consumeAt_found (m := m) o hn hf with ⟨f', u, hr, hc⟩ | ⟨u, hr, -⟩
  · cases hread.symm.trans hr
    exact hc
  · cases hread.symm.trans hr

/-- A consumed position whose flit was held without errors changes the scheduled plane, the overruns, the links and the outputs. -/
theorem State.consumeAt_clean {s : State} {m : List Byte} {l sid j : Nat} (o : Nat)
    (hn : s.sched.taken.contains (l, sid, j) = false)
    (hg : ∀ e ∈ s.arrays.flits, e.place ≠ .landing l sid s.sched.prev.tick j) :
    ∃ x v k e, s.consumeAt m l sid j o =
      { s with sched := x, belfry := { s.belfry with overruns := v }, links := k, out := e } := by
  cases hf : s.landed l sid s.sched.prev.tick j with
  | none =>
    rw [State.consumeAt_missing o hn hf]
    split
    · exact ⟨_, s.belfry.overruns, s.links, s.out, rfl⟩
    · obtain ⟨x, he, -⟩ := State.missChunk_effect (s.positionTaken l sid j) m l sid j o
      rw [he]
      exact ⟨_, _, s.links, s.out, rfl⟩
  | some f =>
    obtain ⟨x, k, e, he, -⟩ := State.takeChunk_effect (s.flitTaken l sid j) m l sid j (flitChunk f)
    rw [State.consumeAt_good o hn hf hg, he]
    exact ⟨_, s.belfry.overruns, k, e, rfl⟩

/-- Settles O20: the position is consumed (consumeAt_sched), and what lands in a tile store leaves the scheduled plane and the
overruns (landed_tail). -/
theorem flitIsConsumedOnce : Obligations.FlitIsConsumedOnce := by
  intro link sid o j m s hm hj ho
  have hexec := congrArg (Host.Outcome.next (φ := Fault) (ρ := Refusal)) (State.consumeLand_eq hm hj ho)
  change exec (.flitConsume link sid o) s = _ at hexec
  refine ⟨fun hn => ?_, fun hn => ?_⟩
  · rw [hexec, if_pos hn]
  · rw [hn, if_neg Bool.false_ne_true] at hexec
    obtain ⟨htaken, hland⟩ := State.consumeAt_sched (m := m) o hn
    refine ⟨_, hexec, ?_, ?_, fun f r hf hg hr ht hs => ?_, fun hf hcoded => ?_, fun hb hg => ?_⟩
    · rw [State.landed_tail]
      exact htaken
    · unfold State.landed at hland ⊢
      rw [State.landed_tail]
      exact hland
    · obtain ⟨x, k, e, he, hin⟩ := State.takeChunk_effect (s.flitTaken link sid j) m link sid j (flitChunk f)
      rw [State.landed_tail, State.consumeAt_good o hn hf hg, he]
      exact hin ⟨r, hr, ht, hs⟩
    · obtain ⟨x, he, hin⟩ := State.missChunk_effect (s.positionTaken link sid j) m link sid j o
      rw [State.landed_tail, State.landed_tail_belfry, State.consumeAt_missing o hn hf, hcoded, if_neg Bool.false_ne_true, he]
      exact ⟨rfl, fun r hr ht hs => ⟨lostChunk, hin ⟨r, hr, ht, hs⟩, rfl⟩⟩
    · obtain ⟨x, v, k, e, he⟩ := State.consumeAt_clean (m := m) o hn hg
      have hbind : (s.consumeAt m link sid j o).bindersOf sid 0 = [] := by
        rw [he, ← hb]
        exact State.bindersOf_of rfl rfl rfl sid 0
      rw [State.landed_tail_unbound j hbind, he]
      exact ⟨fun _ _ _ => rfl, rfl⟩

end Sys2Proof.Machine
end

section
/-! Fences and flags of a tick body (R241, R243, R244). -/

namespace Sys2Proof.Machine

open Sys2Proof

/-! ## A tile's own state -/

@[simp] theorem State.tile_setTile (s : State) (g : Nat) (x : Tile) : (s.setTile g x).tile g = x := AL.getD_put_self ..

theorem State.tile_of_tiles {s t : State} (h : t.tiles = s.tiles) (g : Nat) : t.tile g = s.tile g := by
  unfold State.tile
  rw [h]

/-- A CALL that takes the library engine changes nothing else of its tile. -/
theorem Tile.callStart_eq (t : Tile) : t.callStart = { t with engine := t.callStart.engine } := by
  unfold Tile.callStart
  split <;> rfl

@[simp] theorem Tile.callStart_late (t : Tile) : t.callStart.late = t.late := by rw [Tile.callStart_eq]

@[simp] theorem Tile.callStart_fetch (t : Tile) : t.callStart.fetch = t.fetch := by rw [Tile.callStart_eq]

/-- A completed instruction changes what is done, and the library engine. -/
theorem Tile.finishInsn_eq (t : Tile) (i : Nat) :
    t.finishInsn i = { t with done := i :: t.done, engine := (t.finishInsn i).engine } := by
  unfold Tile.finishInsn
  rw [Tile.callStart_eq]

@[simp] theorem Tile.finishInsn_done (t : Tile) (i : Nat) : (t.finishInsn i).done = i :: t.done := by rw [Tile.finishInsn_eq]

@[simp] theorem Tile.finishInsn_waits (t : Tile) (i : Nat) : (t.finishInsn i).waits = t.waits := by rw [Tile.finishInsn_eq]

@[simp] theorem Tile.finishInsn_flag (t : Tile) (i f : Nat) : (t.finishInsn i).flag f = t.flag f := by
  rw [Tile.finishInsn_eq]
  rfl

/-! ## Instructions performed -/

theorem State.insnDone_done (s : State) (g i : Nat) : ((s.insnDone g i).tile g).done = i :: (s.tile g).done := by
  simp [State.insnDone]

theorem State.insnRun_none {s : State} {g i op : Nat} (f : State → ICtx → State) (h : s.insnNow g i op = none) :
    s.insnRun g i op f = s := by
  unfold State.insnRun
  rw [h]

theorem State.insnRun_some {s : State} {g i op : Nat} {c : ICtx} (f : State → ICtx → State) (h : s.insnNow g i op = some c) :
    s.insnRun g i op f = (f s c).insnDone g i := by
  unfold State.insnRun
  rw [h]

/-- An instruction that may be performed is the one asked for, of the tile asked for. -/
theorem State.insnNow_names {s : State} {g i op : Nat} {c : ICtx} (h : s.insnNow g i op = some c) : c.g = g ∧ c.i = i := by
  unfold State.insnNow at h
  dsimp only at h
  split at h
  · cases h
  · split at h
    · cases h
      exact ⟨rfl, rfl⟩
    · cases h

/-- A fence's command is its fence. -/
theorem exec_fenceCommand {op : Nat} (g i : Nat) (s : State) (h : op = opAcq ∨ op = opRel ∨ op = opFull) :
    exec (fenceCommand op g i) s = .next (s.fence g i op) := by
  rcases h with rfl | rfl | rfl <;> rfl

/-! ## FLAG.SET -/

/-- The flag takes one more, 255 at most; the others stay, and what is done stays. -/
theorem State.flagInc_flag (s : State) (g f e : Nat) :
    ((s.flagInc g f).tile g).flag e = if e = f then min 255 ((s.tile g).flag f + 1) else (s.tile g).flag e := by
  unfold State.flagInc
  rw [State.tile_setTile]
  show AL.getD (AL.put _ _ _) _ _ = _
  split
  · subst e
    exact AL.getD_put_self ..
  · rename_i he
    unfold AL.getD
    rw [AL.get_put_ne _ _ he]
    rfl

theorem State.flagInc_done (s : State) (g f : Nat) : ((s.flagInc g f).tile g).done = (s.tile g).done := by
  unfold State.flagInc
  rw [State.tile_setTile]

/-! ## Waits -/

/-- A wait of a lower queue for the same flag, with a count that the flag holds too. -/
def Tile.heldUp (t : Tile) (w : TileWait) : Prop := ∃ v ∈ t.waits, v.q < w.q ∧ v.flag = w.flag ∧ v.need ≤ t.flag v.flag

/-- The wait completes: its count is subtracted, and its queue waits no more. -/
def Tile.endWait (t : Tile) (w : TileWait) : Tile :=
  ({ t with
    flags := AL.put t.flags w.flag (t.flag w.flag - w.need)
    waits := t.waits.filter fun v => v.q ≠ w.q } : Tile).finishInsn w.insn

theorem Tile.endWait_done (t : Tile) (w : TileWait) : (t.endWait w).done = w.insn :: t.done := by simp [Tile.endWait]

theorem Tile.endWait_waits (t : Tile) (w : TileWait) : (t.endWait w).waits = t.waits.filter fun v => v.q ≠ w.q := by
  simp [Tile.endWait]

theorem Tile.endWait_flag (t : Tile) (w : TileWait) : (t.endWait w).flag w.flag = t.flag w.flag - w.need := by
  unfold Tile.endWait
  rw [Tile.finishInsn_flag]
  exact AL.getD_put_self ..

section
variable {s : State} {g q : Nat} {w : TileWait}

theorem State.waitDone_none (h : (s.tile g).waits.find? (fun w => w.q = q) = none) : s.waitDone g q = s := by
  unfold State.waitDone
  simp only [h]

/-- A wait whose flag does not hold its count goes on. -/
theorem State.waitDone_short (h : (s.tile g).waits.find? (fun w => w.q = q) = some w) (hf : (s.tile g).flag w.flag < w.need) :
    s.waitDone g q = s := by
  unfold State.waitDone
  simp [h, Nat.not_le.2 hf]

/-- A wait whose flag holds its count completes, where no lower queue's wait for the flag can. -/
theorem State.waitDone_met (h : (s.tile g).waits.find? (fun w => w.q = q) = some w) (hf : w.need ≤ (s.tile g).flag w.flag)
    (hu : ¬ (s.tile g).heldUp w) : s.waitDone g q = s.setTile g ((s.tile g).endWait w) := by
  have hq : w.q = q := by simpa using List.find?_some h
  subst hq
  have hany : ((s.tile g).waits.any fun v => v.q < w.q && v.flag = w.flag && v.need ≤ (s.tile g).flag v.flag) = false := by
    rw [Bool.eq_false_iff, ne_eq, List.any_eq_true]
    rintro ⟨v, hv, hc⟩
    simp only [Bool.and_eq_true, decide_eq_true_eq] at hc
    exact hu ⟨v, hv, hc.1.1, hc.1.2, hc.2⟩
  unfold State.waitDone
  simp only [h, hany, hf]
  rfl

/-- A wait's turn changes tiles only. -/
theorem State.waitDone_tiles (s : State) (g q : Nat) : s.waitDone g q = { s with tiles := (s.waitDone g q).tiles } := by
  unfold State.waitDone
  dsimp only
  split
  · rfl
  · split <;> rfl

end

/-! ## A wait begins -/

/-- The tile with the wait of an instruction behind those it has. -/
def Tile.addWait (t : Tile) (c : ICtx) (n : Nat) : Tile := { t with waits := t.waits ++ [⟨c.x.q, c.i, c.x.flag, n⟩] }

theorem Tile.addWait_find {t : Tile} {c : ICtx} (n : Nat) (h : ∀ w ∈ t.waits, w.q ≠ c.x.q) :
    (t.addWait c n).waits.find? (fun w => w.q = c.x.q) = some ⟨c.x.q, c.i, c.x.flag, n⟩ := by
  have hnone : t.waits.find? (fun w => w.q = c.x.q) = none := List.find?_eq_none.2 fun w hw => by simpa using h w hw
  simp [Tile.addWait, List.find?_append, hnone]

theorem State.waitBegin_eq (s : State) (c : ICtx) (n : Nat) :
    s.waitBegin c n = (s.setTile c.g ((s.tile c.g).addWait c n)).waitDone c.g c.x.q := rfl

theorem State.waitBegin_tiles (s : State) (c : ICtx) (n : Nat) : s.waitBegin c n = { s with tiles := (s.waitBegin c n).tiles } := by
  rw [State.waitBegin_eq, State.waitDone_tiles]
  rfl

/-- A wait whose flag does not hold its count is put behind the others. -/
theorem State.waitBegin_short {s : State} {c : ICtx} {n : Nat} (h : ∀ w ∈ (s.tile c.g).waits, w.q ≠ c.x.q)
    (hf : (s.tile c.g).flag c.x.flag < n) : s.waitBegin c n = s.setTile c.g ((s.tile c.g).addWait c n) := by
  rw [State.waitBegin_eq]
  refine State.waitDone_short (w := ⟨c.x.q, c.i, c.x.flag, n⟩) ?_ ?_
  · rw [State.tile_setTile]
    exact Tile.addWait_find n h
  · rw [State.tile_setTile]
    exact hf

/-- A wait whose flag holds its count completes at once, where no other wait is for its flag. -/
theorem State.waitBegin_met {s : State} {c : ICtx} {n : Nat} (h : ∀ w ∈ (s.tile c.g).waits, w.q ≠ c.x.q)
    (hf : n ≤ (s.tile c.g).flag c.x.flag) (hw : ∀ w ∈ (s.tile c.g).waits, w.flag ≠ c.x.flag) :
    (s.waitBegin c n).tile c.g = ((s.tile c.g).addWait c n).endWait ⟨c.x.q, c.i, c.x.flag, n⟩ := by
  rw [State.waitBegin_eq, State.waitDone_met (w := ⟨c.x.q, c.i, c.x.flag, n⟩)]
  · rw [State.tile_setTile, State.tile_setTile]
  · rw [State.tile_setTile]
    exact Tile.addWait_find n h
  · rw [State.tile_setTile]
    exact hf
  · rw [State.tile_setTile]
    rintro ⟨v, hv, hq, hflag, -⟩
    rcases List.mem_append.1 hv with hv | hv
    · exact hw v hv hflag
    · rw [List.mem_singleton.1 hv] at hq
      exact Nat.lt_irrefl _ hq

/-- The wait added and ended leaves the waits that were there. -/
theorem Tile.addWait_endWait_waits {t : Tile} {c : ICtx} {n : Nat} (h : ∀ w ∈ t.waits, w.q ≠ c.x.q) :
    ((t.addWait c n).endWait ⟨c.x.q, c.i, c.x.flag, n⟩).waits = t.waits := by
  rw [Tile.endWait_waits]
  simpa [Tile.addWait, List.filter_append] using h

/-! ## FLAG.WAITV -/

/-- Where no symbol of the arrays is wrong, every line reads clean. -/
theorem State.decoded_clean {s : State} (h : s.arrays.symErr = []) (sp l : Nat) : s.decoded sp l = .clean := by
  unfold State.decoded
  rw [h]
  split
  · rfl
  · exact classOf_nil

theorem State.badAt_clean {s : State} (h : s.arrays.symErr = []) (sp off n : Nat) : s.badAt sp off n = false := by
  unfold State.badAt
  rw [List.any_eq_false]
  intro l _
  simp [State.lineBad, State.decoded_clean h]

theorem State.tileTouch_clean {s : State} (h : s.arrays.symErr = []) (g : Nat) (r : Nat × Nat × Nat) : s.tileTouch g r = s := by
  have ht : s.touch true r.1 r.2.1 r.2.2 = s := foldl_of_fixed (fun l _ => by
    unfold State.touchLine
    rw [State.decoded_clean h])
  unfold State.tileTouch
  simp [State.decoded_clean h, ht]

/-- FLAG.WAITV over clean arrays: a count above 255 faults and ends it, 0 ends it, any other begins a wait. -/
theorem State.flagWaitv_clean {s : State} {g i n : Nat} {c : ICtx} (hc : s.insnNow g i opWaitv = some c)
    (hn : n = s.planPeekN spTile (g * 2 ^ 21 + c.x.imm1) 4) (h : s.arrays.symErr = []) : s.flagWaitv g i =
      if 255 < n then (s.tileBound g 6 i c.x.imm1 n).insnDone g i else if n = 0 then s.insnDone g i else s.waitBegin c n := by
  unfold State.flagWaitv
  simp only [hc, State.badAt_clean h, State.tileTouch_clean h, ← hn, Bool.false_eq_true, if_false]

/-! ## Bound faults -/

/-- A bound fault leaves the tiles. -/
theorem State.tileBound_tile (s : State) (g k i p v : Nat) : (s.tileBound g k i p v).tile g = s.tile g :=
  State.tile_of_tiles ((State.tileBound_parts (M := (· ≠ .tiles)) (parts_refl s) g k i p v (by decide) (by decide) (by decide)
    (by decide)).same_of (p := .tiles) (by simp)) g

/-- Block fields written leave the other block fields of their page as they read. -/
theorem State.rd_wrs_same {p : PageId} {x : Reg} {j : Nat} (hx : 0x100 ≤ x.off) (ht : p.ty ≠ 0x51) :
    ∀ {l : List (Reg × Nat)} (s : State),
      (∀ y ∈ l.map Prod.fst, 0x100 ≤ y.off ∧ (x.off + x.stride * j ≠ y.off ∨ x.lo ≠ y.lo)) → (s.wrs p l).rd p x j = s.rd p x j
  | [], _, _ => rfl
  | (r, v) :: l, s, h => by
    obtain ⟨hr, hne⟩ := h r (List.mem_cons_self ..)
    rw [State.wrs, State.rd_wrs_same hx ht _ fun y hy => h y (List.mem_cons_of_mem _ hy), State.rd_wr_same _ _ hne hx hr ht]

/-- Block fields written leave the error bits. -/
theorem State.rd_wrs_hdr {p q : PageId} (ht : p.ty ≠ 0x51) : ∀ {l : List (Reg × Nat)} (s : State),
    (∀ y ∈ l.map Prod.fst, 0x100 ≤ y.off) → (s.wrs p l).rd q Hdr.PG_ERR 0 = s.rd q Hdr.PG_ERR 0
  | [], _, _ => rfl
  | (r, v) :: l, s, h => by
    rw [State.wrs, State.rd_wrs_hdr ht _ fun y hy => h y (List.mem_cons_of_mem _ hy)]
    exact State.rd_wri_hdr _ _ (h r (List.mem_cons_self ..)) ht

/-- An error event leaves the block fields of a tile's page as they read. -/
theorem State.rd_err_tile (s : State) (q : PageId) (c g : Nat) {x : Reg} {j : Nat} (hx : 0x100 ≤ x.off) :
    (s.err q c).rd (pgTile g) x j = s.rd (pgTile g) x j :=
  State.rd_err_block s q c hx (by simp [rkey, pgTile, pgHost]) (by simp [rkey, pgTile, pgKeep])

/-- A saturating counter counts to the largest number of its width. -/
theorem State.rd_bump_sat (s : State) {p : PageId} {r : Reg} (n : Nat) (hr : 0x100 ≤ r.off) (ht : p.ty ≠ 0x51)
    (hk : r.kind = .counterSat) : (s.bump p r n).rd p r 0 = min (s.rd p r 0 + n) (2 ^ r.w - 1) := by
  unfold State.bump State.bumpi
  rw [State.rd_wri_own _ _ hr ht, hk]
  exact Nat.mod_eq_of_lt (Nat.lt_of_le_of_lt (Nat.min_le_right ..) (Nat.sub_one_lt (Nat.two_pow_pos r.w).ne'))

/-- An event noted again leaves every field as it reads. -/
theorem State.rd_again (s : State) (q : PageId) (y : Reg) (p : PageId) (x : Reg) (j : Nat) :
    (s.again q y).rd p x j = s.rd p x j :=
  State.rd_of_eq (State.noteRise_regs ..) (State.noteRise_hidden ..) (State.noteRise_trip ..) p x j

/-- A bound fault is counted, and sets PG_ERR.BOUND. -/
theorem State.tileBound_reads (s : State) (g k i p v : Nat) : errSet (s.tileBound g k i p v) (pgTile g) 1 ∧
    (s.tileBound g k i p v).rd (pgTile g) Til.BOUND_CNT 0 = min (s.rd (pgTile g) Til.BOUND_CNT 0 + 1) (2 ^ 32 - 1) := by
  have herr : errSet ((s.bump (pgTile g) Til.BOUND_CNT).err (pgTile g) 1) (pgTile g) 1 := State.err_bit _ _ _ (by decide)
  have hcnt : ((s.bump (pgTile g) Til.BOUND_CNT).err (pgTile g) 1).rd (pgTile g) Til.BOUND_CNT 0 =
      min (s.rd (pgTile g) Til.BOUND_CNT 0 + 1) (2 ^ 32 - 1) := by
    rw [State.rd_err_tile _ _ _ _ (by decide)]
    exact State.rd_bump_sat s 1 (by decide) (by simp [pgTile]) rfl
  unfold State.tileBound
  dsimp only
  split
  · unfold errSet
    rw [State.rd_again, State.rd_again]
    exact ⟨herr, hcnt⟩
  · constructor
    · unfold errSet
      rw [State.rd_wrs_hdr (by simp [pgTile]) _ (by simp only [List.map_cons, List.map_nil]; decide)]
      exact herr
    · rw [State.rd_wrs_same (by decide) (by simp [pgTile]) _ (by simp only [List.map_cons, List.map_nil]; decide)]
      exact hcnt

/-! ## The first half of the obligation -/

theorem fencesComplete (op g i : Nat) (s : State) (hop : op = opAcq ∨ op = opRel ∨ op = opFull) :
    (s.insnNow g i op = none → exec (fenceCommand op g i) s = .next s) ∧
    ∀ c, s.insnNow g i op = some c → exec (fenceCommand op g i) s = .next (s.insnDone g i) ∧
      ((s.insnDone g i).tile g).done = i :: (s.tile g).done := by
  rw [exec_fenceCommand g i s hop]
  refine ⟨fun h => ?_, fun c h => ⟨?_, State.insnDone_done ..⟩⟩
  · rw [State.fence, State.insnRun_none _ h]
  · rw [State.fence, State.insnRun_some _ h]

theorem flagSetAdds (g i : Nat) (s : State) : (s.insnNow g i opSet = none → exec (.flagSet g i) s = .next s) ∧
    ∀ c, s.insnNow g i opSet = some c → ∃ t, exec (.flagSet g i) s = .next t ∧ t = { s with tiles := t.tiles } ∧
      (t.tile g).done = i :: (s.tile g).done ∧ (t.tile g).flag c.x.flag = min 255 ((s.tile g).flag c.x.flag + 1) ∧
      ∀ f, f ≠ c.x.flag → (t.tile g).flag f = (s.tile g).flag f := by
  have hexec : exec (.flagSet g i) s = .next (s.flagSet g i) := rfl
  rw [hexec]
  refine ⟨fun h => ?_, fun c h => ⟨_, rfl, ?_⟩⟩
  · rw [State.flagSet, State.insnRun_none _ h]
  · have hflag : ∀ e, (((s.flagInc g c.x.flag).insnDone g i).tile g).flag e = ((s.flagInc g c.x.flag).tile g).flag e := fun e => by
      rw [State.insnDone, State.tile_setTile, Tile.finishInsn_flag]
    rw [State.flagSet, State.insnRun_some _ h]
    refine ⟨rfl, ?_, ?_, fun f hf => ?_⟩
    · rw [State.insnDone_done, State.flagInc_done]
    · rw [hflag, State.flagInc_flag, if_pos rfl]
    · rw [hflag, State.flagInc_flag, if_neg hf]

theorem flagWaitWaits (g i : Nat) (s : State) : (s.insnNow g i opWait = none → exec (.flagWait g i) s = .next s) ∧
    ∀ c, s.insnNow g i opWait = some c → (∀ w ∈ (s.tile g).waits, w.q ≠ c.x.q) →
      ∃ t, exec (.flagWait g i) s = .next t ∧ t = { s with tiles := t.tiles } ∧
      ((s.tile g).flag c.x.flag < c.x.imm1 % 256 → (t.tile g).done = (s.tile g).done ∧
        (t.tile g).waits = (s.tile g).waits ++ [⟨c.x.q, i, c.x.flag, c.x.imm1 % 256⟩]) ∧
      (c.x.imm1 % 256 ≤ (s.tile g).flag c.x.flag → (∀ w ∈ (s.tile g).waits, w.flag ≠ c.x.flag) →
        (t.tile g).done = i :: (s.tile g).done ∧ (t.tile g).waits = (s.tile g).waits ∧
        (t.tile g).flag c.x.flag = (s.tile g).flag c.x.flag - c.x.imm1 % 256) := by
  have hexec : exec (.flagWait g i) s = .next (s.flagWait g i) := rfl
  rw [hexec]
  refine ⟨fun h => ?_, fun c h hq => ⟨_, rfl, ?_⟩⟩
  · simp only [State.flagWait, h]
  · obtain ⟨rfl, rfl⟩ := State.insnNow_names h
    have hbegin : s.flagWait c.g c.i = s.waitBegin c (c.x.imm1 % 256) := by simp only [State.flagWait, h]
    rw [hbegin]
    refine ⟨State.waitBegin_tiles .., fun hf => ?_, fun hf hw => ?_⟩
    · rw [State.waitBegin_short hq hf, State.tile_setTile]
      exact ⟨rfl, rfl⟩
    · rw [State.waitBegin_met hq hf hw]
      exact ⟨Tile.endWait_done .., Tile.addWait_endWait_waits hq, Tile.endWait_flag ..⟩

theorem flagWaitvReadsItsCount (g i : Nat) (s : State) : (s.insnNow g i opWaitv = none → exec (.flagWaitv g i) s = .next s) ∧
    ∀ c n, s.insnNow g i opWaitv = some c → n = s.planPeekN spTile (g * 2 ^ 21 + c.x.imm1) 4 → s.arrays.symErr = [] →
      ∃ t, exec (.flagWaitv g i) s = .next t ∧
      (n = 0 → (t.tile g).done = i :: (s.tile g).done) ∧
      (255 < n → (t.tile g).done = i :: (s.tile g).done ∧ errSet t (pgTile g) 1 ∧
        t.rd (pgTile g) Til.BOUND_CNT 0 = min (s.rd (pgTile g) Til.BOUND_CNT 0 + 1) (2 ^ 32 - 1)) ∧
      (0 < n → n ≤ 255 → (∀ w ∈ (s.tile g).waits, w.q ≠ c.x.q) → (s.tile g).flag c.x.flag < n →
        (t.tile g).waits = (s.tile g).waits ++ [⟨c.x.q, i, c.x.flag, n⟩]) := by
  have hexec : exec (.flagWaitv g i) s = .next (s.flagWaitv g i) := rfl
  rw [hexec]
  refine ⟨fun h => ?_, fun c n h hn hsym => ⟨_, rfl, ?_⟩⟩
  · simp only [State.flagWaitv, h]
  · obtain ⟨rfl, rfl⟩ := State.insnNow_names h
    rw [State.flagWaitv_clean h hn hsym]
    refine ⟨fun h0 => ?_, fun hbig => ?_, fun hpos hle hq hf => ?_⟩
    · rw [if_neg (by omega), if_pos h0, State.insnDone_done]
    · obtain ⟨herr, hcnt⟩ := State.tileBound_reads s c.g 6 c.i c.x.imm1 n
      rw [if_pos hbig]
      exact ⟨by rw [State.insnDone_done, State.tileBound_tile], herr, hcnt⟩
    · rw [if_neg (by omega), if_neg (by omega), State.waitBegin_short hq hf, State.tile_setTile]
      rfl

theorem waitsComplete (g q : Nat) (s : State) : ∃ t, exec (.flagWaitDone g q) s = .next t ∧
    ((s.tile g).running = false ∨ s.planTick.runs = false ∨ (s.tile g).waits.find? (fun w => w.q = q) = none → t = s) ∧
    ∀ w, (s.tile g).running = true → s.planTick.runs = true → (s.tile g).waits.find? (fun w => w.q = q) = some w →
      ((s.tile g).flag w.flag < w.need → t = s) ∧
      (w.need ≤ (s.tile g).flag w.flag →
        (∀ v ∈ (s.tile g).waits, v.q < q → v.flag = w.flag → (s.tile g).flag v.flag < v.need) →
        (t.tile g).done = w.insn :: (s.tile g).done ∧ (t.tile g).waits = (s.tile g).waits.filter (fun v => v.q ≠ q) ∧
        (t.tile g).flag w.flag = (s.tile g).flag w.flag - w.need) := by
  refine ⟨_, rfl, fun h => ?_, fun w hr hp hw => ?_⟩
  · split
    · rename_i hgo
      simp only [Bool.and_eq_true] at hgo
      exact State.waitDone_none (by simpa [hgo.1, hgo.2] using h)
    · rfl
  · have hq : w.q = q := by simpa using List.find?_some hw
    rw [if_pos (by simp [hr, hp])]
    refine ⟨fun hf => State.waitDone_short hw hf, fun hf hlow => ?_⟩
    have hu : ¬ (s.tile g).heldUp w := by
      rintro ⟨v, hv, hvq, hvf, hn⟩
      exact absurd hn (Nat.not_le.2 (hlow v hv (hq ▸ hvq) hvf))
    rw [State.waitDone_met hw hf hu, State.tile_setTile]
    exact ⟨Tile.endWait_done .., by rw [Tile.endWait_waits, hq], Tile.endWait_flag ..⟩

theorem fencesAndFlagsOrderTheBody : FencesAndFlagsOrderTheBody :=
  ⟨fencesComplete, flagSetAdds, flagWaitWaits, flagWaitvReadsItsCount, waitsComplete⟩

end Sys2Proof.Machine
end

section
/-! Tick bodies to their end, and the code that arrives (R230, R249–R251). -/

namespace Sys2Proof.Machine

open Sys2Proof

/-! ## Writes to instruction memory -/

/-- A word stored where IMEM_WADDR says, in the bank of IMEM_WBANK; the address advances, and the shadow holds no body. -/
def State.imemStored (s : State) (g v : Nat) : State :=
  ((s.poke spCode (g * 2 ^ 17 + s.rd (pgTile g) Til.IMEM_WBANK * 2 ^ 16 + s.rd (pgTile g) Til.IMEM_WADDR / 4 * 4) (leBytes 4 v)).put
    (pgTile g) Til.IMEM_WADDR 0 (s.rd (pgTile g) Til.IMEM_WADDR + 4)).setTile g { s.tile g with shadow := none }

theorem State.imemStatus_cases (s : State) (g : Nat) (lantern : Bool) :
    s.imemStatus g lantern = 0 ∨ s.imemStatus g lantern = 6 ∨ s.imemStatus g lantern = 8 := by
  unfold State.imemStatus
  split
  · exact .inr (.inl rfl)
  · split
    · exact .inr (.inr rfl)
    · exact .inl rfl

section
variable {s : State} {g : Nat} {lantern : Bool} (v : Nat)

theorem State.imemWrite_ok (h : s.imemStatus g lantern = 0) : s.imemWrite g lantern v = s.imemStored g v := by
  unfold State.imemWrite
  simp only [h]
  rfl

theorem State.imemWrite_perm (h : s.imemStatus g lantern = 6) : s.imemWrite g lantern v = s := by
  unfold State.imemWrite
  simp only [h]

theorem State.imemWrite_bus (h : s.imemStatus g lantern = 8) : s.imemWrite g lantern v = s.err (pgTile g) 6 := by
  unfold State.imemWrite
  simp only [h]

/-- A write to instruction memory leaves the body and the writes that wait. -/
theorem State.imemWrite_tile : ((s.imemWrite g lantern v).tile g).body = (s.tile g).body ∧
    ((s.imemWrite g lantern v).tile g).imem = (s.tile g).imem := by
  rcases s.imemStatus_cases g lantern with h | h | h
  · rw [State.imemWrite_ok v h, State.imemStored, State.tile_setTile]
    exact ⟨rfl, rfl⟩
  · rw [State.imemWrite_perm v h]
    exact ⟨rfl, rfl⟩
  · rw [State.imemWrite_bus v h, State.tile_of_tiles (State.err_tiles ..)]
    exact ⟨rfl, rfl⟩

/-- A write to instruction memory leaves the block fields of its page but IMEM_WADDR as they read. -/
theorem State.rd_imemWrite {x : Reg} (hx : 0x100 ≤ x.off) (hw : x.off ≠ 0x1B0) :
    (s.imemWrite g lantern v).rd (pgTile g) x 0 = s.rd (pgTile g) x 0 := by
  rcases s.imemStatus_cases g lantern with h | h | h
  · rw [State.imemWrite_ok v h, State.imemStored, State.setTile_rd]
    exact State.rd_put_same _ _ (.inl hw) (by decide) (by simp [pgTile])
  · rw [State.imemWrite_perm v h]
  · rw [State.imemWrite_bus v h, State.rd_err_tile _ _ _ _ hx]

end

/-- A write that waited leaves the body and the writes that wait. -/
theorem State.imemTurn_tile (s : State) (g : Nat) (x : Nat × Nat) : ((s.imemTurn g x).tile g).body = (s.tile g).body ∧
    ((s.imemTurn g x).tile g).imem = (s.tile g).imem := by
  unfold State.imemTurn
  dsimp only
  split
  · exact State.imemWrite_tile x.2
  · exact ⟨rfl, rfl⟩

/-- A write that waited leaves the block fields of its page but IMEM_WADDR and IMEM_WBANK as they read. -/
theorem State.rd_imemTurn (s : State) (g : Nat) (y : Nat × Nat) {x : Reg} (hx : 0x100 ≤ x.off) (hw : x.off ≠ 0x1B0) :
    (s.imemTurn g y).rd (pgTile g) x 0 = s.rd (pgTile g) x 0 := by
  unfold State.imemTurn
  dsimp only
  split
  · exact State.rd_imemWrite y.2 hx hw
  · have ht : (pgTile g).ty ≠ 0x51 := by simp [pgTile]
    exact (State.rd_put_same (r := Til.IMEM_WBANK) (i := 0) (j := 0) _ _ (.inl hw) (by decide) ht).trans
      (State.rd_put_same (r := Til.IMEM_WADDR) (i := 0) (j := 0) _ _ (.inl hw) (by decide) ht)

/-- The writes that waited are performed: none waits, and the body stays. -/
theorem State.imemRelease_tile (s : State) (g : Nat) : ((s.imemRelease g).tile g).body = (s.tile g).body ∧
    ((s.imemRelease g).tile g).imem = [] := by
  unfold State.imemRelease
  constructor
  · rw [foldl_of (fun t : State => (t.tile g).body) _ fun t x => (t.imemTurn_tile g x).1, State.tile_setTile]
  · rw [foldl_of (fun t : State => (t.tile g).imem) _ fun t x => (t.imemTurn_tile g x).2, State.tile_setTile]

theorem State.rd_imemRelease (s : State) (g : Nat) {x : Reg} (hx : 0x100 ≤ x.off) (hw : x.off ≠ 0x1B0) :
    (s.imemRelease g).rd (pgTile g) x 0 = s.rd (pgTile g) x 0 := by
  unfold State.imemRelease
  rw [foldl_of (fun t : State => t.rd (pgTile g) x 0) _ fun t y => t.rd_imemTurn g y hx hw, State.setTile_rd]

/-! ## A body ends -/

/-- The load signature of a sampled tick leaves every field as it reads. -/
theorem State.rd_spotLoad (s : State) (g : Nat) (p : PageId) (x : Reg) (j : Nat) : (s.spotLoad g).rd p x j = s.rd p x j := by
  unfold State.spotLoad
  split
  · rfl
  · split <;> rfl

/-- A body that ends leaves an idle tile with its time in LAST_CC, where no write waits. -/
theorem State.bodyComplete_effect {s : State} {g : Nat} (h : s.bodyAllDone g = true) :
    ((s.bodyComplete g).tile g).body = none ∧ ((s.bodyComplete g).tile g).imem = [] ∧
      (s.bodyComplete g).rd (pgTile g) Til.STATE 0 = 0 ∧
      (s.bodyComplete g).rd (pgTile g) Til.LAST_CC 0 = min (s.clock - (s.tile g).start) 0xFFFF := by
  have ht : (pgTile g).ty ≠ 0x51 := by simp [pgTile]
  obtain ⟨m, hm⟩ : ∃ m, (s.tile g).body = some m := by
    unfold State.bodyAllDone at h
    cases hb : (s.tile g).body with
    | none => simp [hb] at h
    | some m => exact ⟨m, rfl⟩
  unfold State.bodyComplete
  simp only [hm]
  generalize ((modBinds m).filter fun b => b.2.dir = 1).foldl (fun t b => t.sendOut g m b) s = u
  refine ⟨?_, (State.imemRelease_tile ..).2, ?_, ?_⟩
  · rw [(State.imemRelease_tile ..).1, State.tile_setTile]
  · rw [State.rd_imemRelease _ _ (by decide) (by decide), State.setTile_rd, State.rd_spotLoad, State.rd_wr_own _ _ (by decide) ht]
    rfl
  · rw [State.rd_imemRelease _ _ (by decide) (by decide), State.setTile_rd, State.rd_spotLoad,
      State.rd_wr_same _ _ (by decide) (by decide) (by decide) ht, State.rd_wr_own _ _ (by decide) ht]
    exact Nat.mod_eq_of_lt (Nat.lt_of_le_of_lt (Nat.min_le_right ..) (by decide))

/-! ## A body begins -/

/-- The banks swapped, the block fields but FETCH_BANK read as before. -/
theorem State.rd_bankSwap (s : State) (g : Nat) {x : Reg} (hx : 0x100 ≤ x.off) (hf : x.off ≠ 0x108) :
    (s.bankSwap g).rd (pgTile g) x 0 = s.rd (pgTile g) x 0 :=
  State.rd_wr_same s _ (.inl hf) hx (by decide) (by simp [pgTile])

theorem State.bankSwap_err (s : State) (g : Nat) (p : PageId) : (s.bankSwap g).rd p Hdr.PG_ERR 0 = s.rd p Hdr.PG_ERR 0 :=
  State.rd_wri_hdr s _ (by decide) (by simp [pgTile])

theorem State.bankSwap_tile (s : State) (g : Nat) :
    (s.bankSwap g).tile g = { s.tile g with fetch := (s.tile g).shadow, shadow := (s.tile g).fetch } := State.tile_setTile ..

/-- A body that begins leaves the count of late ones and the error bits of its page. -/
theorem State.bodyIssue_reads (s : State) (g : Nat) :
    (s.bodyIssue g).rd (pgTile g) Til.PREFETCH_LATE 0 = s.rd (pgTile g) Til.PREFETCH_LATE 0 ∧
      (s.bodyIssue g).rd (pgTile g) Hdr.PG_ERR 0 = s.rd (pgTile g) Hdr.PG_ERR 0 := by
  have ht : (pgTile g).ty ≠ 0x51 := by simp [pgTile]
  unfold State.bodyIssue
  dsimp only
  split
  · exact ⟨rfl, rfl⟩
  · rw [State.setTile_rd, State.setTile_rd]
    exact ⟨State.rd_wrs_same (by decide) ht _ (by simp only [List.map_cons, List.map_nil]; decide),
      State.rd_wrs_hdr ht _ (by simp only [List.map_cons, List.map_nil]; decide)⟩

/-- A body that begins runs from the bank in force. -/
theorem State.bodyIssue_effect {s : State} {g : Nat} (h : (s.tile g).body ≠ none) : ((s.bodyIssue g).tile g).late = false ∧
    ((s.bodyIssue g).tile g).fetch = (s.tile g).fetch ∧ (s.bodyIssue g).rd (pgTile g) Til.STATE 0 = 1 := by
  have ht : (pgTile g).ty ≠ 0x51 := by simp [pgTile]
  unfold State.bodyIssue
  dsimp only
  split
  · rename_i hn
    exact absurd hn h
  · rw [State.tile_setTile, State.setTile_rd, Tile.callStart_late, Tile.callStart_fetch, State.wrs,
      State.rd_wrs_same (by decide) ht _ (by simp only [List.map_cons, List.map_nil]; decide), State.rd_wr_own _ _ (by decide) ht]
    exact ⟨rfl, rfl, rfl⟩

/-! ## The prefetcher -/

/-- The prefetcher's turn leaves every field as it reads. -/
theorem State.rd_prefetch (s : State) (g : Nat) (p : PageId) (x : Reg) (j : Nat) : (s.prefetch g).rd p x j = s.rd p x j := by
  unfold State.prefetch
  dsimp only
  repeat' split
  all_goals rfl

/-- The prefetcher's turn leaves the fetch bank, and whether the body is late. -/
theorem State.prefetch_tile (s : State) (g : Nat) : ((s.prefetch g).tile g).late = (s.tile g).late ∧
    ((s.prefetch g).tile g).fetch = (s.tile g).fetch := by
  unfold State.prefetch
  dsimp only
  repeat' split
  all_goals simp only [State.tile_setTile, and_self]

/-- The shadow holds the body whose copy finishes. -/
def State.copyHeld (s : State) (g : Nat) (m : List Byte) : State := s.setTile g { s.tile g with shadow := some m, copy := none }

/-- A late copy is counted, with PG_ERR.PREFETCH_LATE. -/
def State.lateNoted (s : State) (g : Nat) (m : List Byte) : State :=
  ((s.copyHeld g m).bump (pgTile g) Til.PREFETCH_LATE).err (pgTile g) 5

section
variable {s : State} {g : Nat} {m : List Byte}

theorem State.prefetchDone_none (h : (s.tile g).copy = none) : s.prefetchDone g = s := by
  unfold State.prefetchDone
  simp only [h]

theorem State.prefetchDone_some (h : (s.tile g).copy = some m) : s.prefetchDone g =
    if (s.tile g).late then
      if s.inGuard then s.lateNoted g m else (((s.lateNoted g m).bankSwap g).bodyIssue g).prefetch g
    else s.copyHeld g m := by
  unfold State.prefetchDone
  simp only [h]
  rfl

theorem State.prefetchDone_timely (h : (s.tile g).copy = some m) (hl : (s.tile g).late = false) :
    s.prefetchDone g = s.copyHeld g m := by
  rw [State.prefetchDone_some h, if_neg (by simp [hl])]

theorem State.prefetchDone_guard (h : (s.tile g).copy = some m) (hl : (s.tile g).late = true) (hg : s.inGuard = true) :
    s.prefetchDone g = s.lateNoted g m := by
  rw [State.prefetchDone_some h, if_pos hl, if_pos hg]

theorem State.prefetchDone_starts (h : (s.tile g).copy = some m) (hl : (s.tile g).late = true) (hg : s.inGuard = false) :
    s.prefetchDone g = (((s.lateNoted g m).bankSwap g).bodyIssue g).prefetch g := by
  rw [State.prefetchDone_some h, if_pos hl, if_neg (by simp [hg])]

end

theorem State.lateNoted_tiles (s : State) (g : Nat) (m : List Byte) : (s.lateNoted g m).tiles = (s.copyHeld g m).tiles := by
  simp [State.lateNoted]

theorem State.lateNoted_reads (s : State) (g : Nat) (m : List Byte) :
    counted s (s.lateNoted g m) (pgTile g) Til.PREFETCH_LATE 1 ∧ errSet (s.lateNoted g m) (pgTile g) 5 := by
  refine ⟨?_, State.err_bit _ _ _ (by decide)⟩
  unfold counted State.lateNoted
  rw [State.rd_err_tile _ _ _ _ (by decide)]
  exact State.rd_bumpi_own _ 1 (by decide) (by simp [pgTile]) rfl

/-! ## The second half of the obligation -/

theorem bodiesEnd (g : Nat) (s : State) : ∃ t, exec (.tickBodyComplete g) s = .next t ∧
    (s.planTick.runs = false ∨ s.bodyAllDone g = false → t = s) ∧
    (s.planTick.runs = true → s.bodyAllDone g = true → (t.tile g).body = none ∧ (t.tile g).imem = [] ∧
      t.rd (pgTile g) Til.STATE 0 = 0 ∧ t.rd (pgTile g) Til.LAST_CC 0 = min (s.clock - (s.tile g).start) 0xFFFF) := by
  refine ⟨_, rfl, fun h => if_neg ?_, fun hr hd => ?_⟩
  · rcases h with h | h <;> simp [h]
  · rw [if_pos (by simp [hr, hd])]
    exact State.bodyComplete_effect hd

/-- A late copy that finishes is counted; its body starts but in the guard interval. -/
theorem State.prefetchDone_late {s : State} {g : Nat} {m : List Byte} (h : (s.tile g).copy = some m) (hl : (s.tile g).late = true) :
    counted s (s.prefetchDone g) (pgTile g) Til.PREFETCH_LATE 1 ∧ errSet (s.prefetchDone g) (pgTile g) 5 ∧
      (s.inGuard = true → (s.prefetchDone g).tiles = (s.copyHeld g m).tiles) ∧
      (s.inGuard = false → (s.tile g).body ≠ none → ((s.prefetchDone g).tile g).late = false ∧
        ((s.prefetchDone g).tile g).fetch = some m ∧ (s.prefetchDone g).rd (pgTile g) Til.STATE 0 = 1) := by
  obtain ⟨hcnt, herr⟩ := s.lateNoted_reads g m
  cases hg : s.inGuard with
  | true =>
    rw [State.prefetchDone_guard h hl hg]
    exact ⟨hcnt, herr, fun _ => State.lateNoted_tiles .., fun h0 => absurd h0 (by decide)⟩
  | false =>
    obtain ⟨hissue, hissueErr⟩ := State.bodyIssue_reads ((s.lateNoted g m).bankSwap g) g
    have htile : (s.lateNoted g m).tile g = { s.tile g with shadow := some m, copy := none } := by
      rw [State.tile_of_tiles (State.lateNoted_tiles s g m)]
      exact State.tile_setTile ..
    rw [State.prefetchDone_starts h hl hg]
    refine ⟨?_, ?_, fun h0 => absurd h0 (by decide), fun _ hb => ?_⟩
    · unfold counted
      rw [State.rd_prefetch, hissue, State.rd_bankSwap _ _ (by decide) (by decide)]
      exact hcnt
    · unfold errSet
      rw [State.rd_prefetch, hissueErr, State.bankSwap_err]
      exact herr
    · have hswap : ((s.lateNoted g m).bankSwap g).tile g =
          { s.tile g with fetch := some m, shadow := (s.tile g).fetch, copy := none } := by
        rw [State.bankSwap_tile, htile]
      obtain ⟨hlate, hfetch, hstate⟩ := State.bodyIssue_effect (s := (s.lateNoted g m).bankSwap g) (g := g) (by rw [hswap]; exact hb)
      rw [(State.prefetch_tile ..).1, (State.prefetch_tile ..).2, State.rd_prefetch, hfetch, hswap]
      exact ⟨hlate, rfl, hstate⟩

theorem copiesFinish (g : Nat) (s : State) : ∃ t, exec (.prefetchComplete g) s = .next t ∧
    ((s.tile g).copy = none → t = s) ∧
    (∀ m, (s.tile g).copy = some m →
      ((s.tile g).late = false → t = s.setTile g { s.tile g with shadow := some m, copy := none }) ∧
      ((s.tile g).late = true → counted s t (pgTile g) Til.PREFETCH_LATE 1 ∧ errSet t (pgTile g) 5 ∧
        (s.inGuard = true → t.tiles = (s.setTile g { s.tile g with shadow := some m, copy := none }).tiles) ∧
        (s.inGuard = false → (s.tile g).body ≠ none → (t.tile g).late = false ∧ (t.tile g).fetch = some m ∧
          t.rd (pgTile g) Til.STATE 0 = 1))) :=
  ⟨s.prefetchDone g, rfl, State.prefetchDone_none, fun _ h => ⟨State.prefetchDone_timely h, State.prefetchDone_late h⟩⟩

/-! ## IMEM_WDATA -/

section
variable {s : State} {g : Nat}

/-- A write of the Lantern waits just while a body runs; another writer's does not wait. -/
theorem State.imemHeld_iff (lantern : Bool) : s.imemHeld (pgTile g) 0x1B4 lantern = (lantern && (s.tile g).running) := by
  cases lantern <;> simp [State.imemHeld, pgTile, tyTile, imemReg]

theorem State.imemStatus_busy
    (h : s.rd (pgTile g) Til.IMEM_WBANK 0 = s.rd (pgTile g) Til.FETCH_BANK 0 ∨ (s.tile g).copy ≠ none) :
    s.imemStatus g true = 8 := by
  unfold State.imemStatus State.prefetchBusy
  rcases h with h | h
  · simp [h]
  · simp [Option.isSome_iff_ne_none.2 h]

theorem State.imemStatus_free (h : s.rd (pgTile g) Til.IMEM_WBANK 0 ≠ s.rd (pgTile g) Til.FETCH_BANK 0)
    (hc : (s.tile g).copy = none) : s.imemStatus g true = 0 := by
  unfold State.imemStatus State.prefetchBusy
  simp [h, hc]

end

theorem imemWordsArrive (g v : Nat) (lantern : Bool) (s : State) : ∃ t, exec (.imemWdataWrite g lantern v) s = .next t ∧
    (lantern = false → t = s.emit (.value 6)) ∧
    (lantern = true → (s.tile g).running = true → t = s.setTile g { s.tile g with imem := (s.tile g).imem ++ [(0x1B4, v)] }) ∧
    (lantern = true → (s.tile g).running = false → (s.rd (pgTile g) Til.IMEM_WBANK 0 = s.rd (pgTile g) Til.FETCH_BANK 0 ∨ (s.tile g).copy ≠ none) →
      t.out = s.out ++ [.value 8] ∧ errSet t (pgTile g) 6 ∧ t.mem = s.mem) ∧
    (lantern = true → (s.tile g).running = false → s.rd (pgTile g) Til.IMEM_WBANK 0 ≠ s.rd (pgTile g) Til.FETCH_BANK 0 → (s.tile g).copy = none →
      t.out = s.out ++ [.value 0] ∧ t.rd (pgTile g) Til.IMEM_WADDR 0 = (s.rd (pgTile g) Til.IMEM_WADDR 0 + 4) % 2 ^ 16 ∧
      t.mem = (s.poke spCode (g * 2 ^ 17 + s.rd (pgTile g) Til.IMEM_WBANK 0 * 2 ^ 16 + s.rd (pgTile g) Til.IMEM_WADDR 0 / 4 * 4)
        (leBytes 4 v)).mem ∧ (t.tile g).shadow = none) := by
  have hexec : exec (.imemWdataWrite g lantern v) s = .next (if lantern && (s.tile g).running then s.imemHold g 0x1B4 v else
      s.imemPerform g lantern v) := by
    rw [← State.imemHeld_iff]
    rfl
  refine ⟨_, hexec, ?_, ?_, ?_, ?_⟩
  · rintro rfl
    have hst : s.imemStatus g false = 6 := rfl
    simp only [Bool.false_and, Bool.false_eq_true, if_false, State.imemPerform, State.imemWrite_perm v hst, hst]
  · rintro rfl hr
    simp only [hr, Bool.and_self, if_true]
    rfl
  · rintro rfl hr hbusy
    have hst := State.imemStatus_busy hbusy
    simp only [hr, Bool.and_false, Bool.false_eq_true, if_false, State.imemPerform, State.imemWrite_bus v hst, hst]
    exact ⟨by simp, State.err_bit _ _ _ (by decide), by simp⟩
  · rintro rfl hr hbank hcopy
    have hst := State.imemStatus_free hbank hcopy
    simp only [hr, Bool.and_false, Bool.false_eq_true, if_false, State.imemPerform, State.imemWrite_ok v hst, hst]
    refine ⟨rfl, ?_, rfl, ?_⟩
    · rw [State.emit_rd, State.imemStored, State.setTile_rd]
      exact State.rd_put_self _ _ _ _ _ rfl
    · rw [State.tile_of_tiles (State.emit_tiles ..), State.imemStored, State.tile_setTile]

/-- Settles O45: fences and flags by what a finished instruction and a wait do to their tile; the end of a body and a finished
copy by what each leaves in the tile and its page. -/
theorem bodiesRunToTheirEnd : Obligations.BodiesRunToTheirEnd :=
  ⟨fencesAndFlagsOrderTheBody, bodiesEnd, copiesFinish, imemWordsArrive⟩

end Sys2Proof.Machine
end

section
/-! Fields that an operation leaves as they read, and error bits that it leaves set: the rules that the statements about links,
routes and the open plane use. -/

namespace Sys2Proof.Machine

open Sys2Proof

/-! ## Error bits -/

/-- Two pages of the same type and number are the same. -/
theorem PageId.eq_of_key {p q : PageId} (h1 : p.ty = q.ty) (h2 : p.inst = q.inst) : p = q := by
  cases p
  cases q
  simp_all

/-- The error bits are no field that an event itself writes. -/
theorem pgErr_not_event (p : PageId) : ¬ eventTouches (rkey p Hdr.PG_ERR 0) := by
  simp [eventTouches, rkey, Hdr.PG_ERR, Hdr.HELD_EVT, Mac.EVT_LOST, Hst.EG_DROP]

/-- An error event clears no error bit of any page. -/
theorem errSet_err {s : State} {p : PageId} {j : Nat} (q : PageId) (i : Nat) (hj : j < 32) (h : errSet s p j) :
    errSet (s.err q i) p j := by
  refine State.dropErrs_bits _ s p j hj ?_
  by_cases hp : p = q
  · subst hp
    exact State.pgErr_bits s p i j hj (.inr h)
  · rw [State.rd_pgErr _ _ _ (pgErr_not_event p) fun e => hp (PageId.eq_of_key e.2.1 e.2.2)]
    exact h

/-- A write of a block field clears no error bit. -/
theorem errSet_wri {s : State} {p : PageId} {j : Nat} {q : PageId} {r : Reg} (i v : Nat) (hr : 0x100 ≤ r.off) (ht : q.ty ≠ 0x51)
    (h : errSet s p j) : errSet (s.wri q r i v) p j := by
  unfold errSet
  rw [State.rd_wri_hdr _ _ hr ht]
  exact h

/-- A list of error events sets every bit that it names. -/
theorem errSet_foldl_err {α : Type} (page : α → PageId) (i : Nat) (hi : i < 32) {p : PageId} : ∀ (l : List α) (s : State),
    ((∃ x ∈ l, page x = p) ∨ errSet s p i) → errSet (l.foldl (fun t x => t.err (page x) i) s) p i
  | [], _, h => by simpa using h
  | x :: l, s, h => by
    refine errSet_foldl_err page i hi l (s.err (page x) i) ?_
    by_cases hx : page x = p
    · exact .inr (hx ▸ State.err_bit s _ i hi)
    · rcases h with ⟨y, hy, hp⟩ | h
      · rcases List.mem_cons.1 hy with rfl | hy
        · exact absurd hp hx
        · exact .inl ⟨y, hy, hp⟩
      · exact .inr (errSet_err _ _ hi h)

/-! ## Fields of a Keep -/

/-- Two Keeps have two pages. -/
theorem pgKeep_inj {j k : Nat} : pgKeep j = pgKeep k ↔ j = k := by simp [pgKeep]

/-- An error event leaves a Keep's block field as it reads, but for the count of dropped frames. -/
theorem State.rd_err_keep (s : State) (q : PageId) (c : Nat) {k : Nat} {x : Reg} {j : Nat} (hx : 0x100 ≤ x.off)
    (h : x.off + x.stride * j ≠ 0x3C8) : (s.err q c).rd (pgKeep k) x j = s.rd (pgKeep k) x j := by
  refine State.rd_err_block s q c hx ?_ ?_
  · simp [rkey, pgKeep, pgHost]
  · intro e
    simp only [rkey, RegKey.mk.injEq] at e
    exact h e.2.2.1

end Sys2Proof.Machine
end

section
/-! Route tables, their flips, and the drain deadline (R90–R93). -/

namespace Sys2Proof.Machine

open Sys2Proof

/-! ## Route state -/

theorem State.route_setRoute (s : State) (k : Nat) (r : Route) (j : Nat) :
    (s.setRoute k r).route j = if j = k then r else s.route j := by
  unfold State.route State.setRoute AL.getD
  dsimp only
  split
  · rename_i h
    rw [h, AL.get_put_self]
    rfl
  · rename_i h
    rw [AL.get_put_ne _ _ h]

@[simp] theorem State.setRoute_rd (s : State) (k : Nat) (r : Route) (p : PageId) (x : Reg) (i : Nat) :
    (s.setRoute k r).rd p x i = s.rd p x i := rfl

theorem State.route_of {s t : State} (h : t.routes = s.routes) (k : Nat) : t.route k = s.route k := by
  unfold State.route
  rw [h]

/-! ## TBL_DATA -/

/-- The bank that a write of TBL_DATA leaves. -/
def RouteBank.entryPut (b : RouteBank) (kind i v : Nat) : RouteBank :=
  if kind = 0 then { b with remap := AL.put b.remap i (v % 2 ^ 15) }
  else if kind = 1 && i < 3 then { b with dir := AL.put b.dir i (v % 2 ^ 32) } else b

/-- A Keep's route state with a bank replaced. -/
def Route.setBank (r : Route) (b : Nat) (t : RouteBank) : Route := if b = 0 then { r with bankA := t } else { r with bankB := t }

theorem Route.bank_setBank (r : Route) (b : Nat) (t : RouteBank) : (r.setBank b t).bank b = t := by
  unfold Route.setBank Route.bank
  split <;> rfl

theorem State.tblWrite_busy {s : State} {k : Nat} (v : Nat)
    (h : s.inUse k (s.rd (pgKeep k) Kr.TBL_BANK 0) = true ∨ s.filled k (s.rd (pgKeep k) Kr.TBL_BANK 0) = true) :
    s.tblWrite k v = s.err (pgKeep k) 2 := if_pos (by simpa using h)

theorem State.tblWrite_idle {s : State} {k : Nat} (v : Nat) (hu : s.inUse k (s.rd (pgKeep k) Kr.TBL_BANK 0) = false)
    (hf : s.filled k (s.rd (pgKeep k) Kr.TBL_BANK 0) = false) :
    s.tblWrite k v = s.setRoute k ((s.route k).setBank (s.rd (pgKeep k) Kr.TBL_BANK 0)
      (((s.route k).bank (s.rd (pgKeep k) Kr.TBL_BANK 0)).entryPut (s.rd (pgKeep k) Kr.TBL_KIND 0)
        (s.rd (pgKeep k) Kr.TBL_INDEX 0) v)) := if_neg (by simp [hu, hf])

/-- What TBL_DATA reads once a Keep's bank is replaced. -/
theorem State.tblRead_setBank (s : State) (k : Nat) (t : RouteBank) :
    (s.setRoute k ((s.route k).setBank (s.rd (pgKeep k) Kr.TBL_BANK 0) t)).tblRead k =
      if s.rd (pgKeep k) Kr.TBL_KIND 0 = 0 then AL.getD t.remap (s.rd (pgKeep k) Kr.TBL_INDEX 0) 0
      else if s.rd (pgKeep k) Kr.TBL_KIND 0 = 1 then AL.getD t.dir (s.rd (pgKeep k) Kr.TBL_INDEX 0) 0 else 0 := by
  unfold State.tblRead
  simp only [State.setRoute_rd, State.route_setRoute, if_true, Route.bank_setBank]

/-! ## A flip tried -/

/-- A flip is armed for tick `f` in a Keep. -/
def State.flipArmed (s : State) (k f : Nat) : Prop := (s.route k).flip = some f ∧ s.rd (pgKeep k) Kr.ARMED 0 = 1

theorem State.armFlip_routes (s : State) (k f : Nat) :
    (s.armFlip k f).routes = (s.setRoute k { s.route k with flip := some f }).routes := by
  unfold State.armFlip
  simp

theorem State.armFlip_armed (s : State) (k f : Nat) : (s.armFlip k f).flipArmed k f := by
  refine ⟨?_, State.rd_wr_own _ _ (by decide) (by simp [pgKeep])⟩
  rw [State.route_of (State.armFlip_routes s k f), State.route_setRoute, if_pos rfl]

theorem State.armFlip_keeps_armed {s : State} {j f : Nat} (k : Nat) (h : s.flipArmed j f) : (s.armFlip k f).flipArmed j f := by
  by_cases hj : j = k
  · subst hj
    exact State.armFlip_armed s j f
  · refine ⟨?_, (State.rd_wr_other _ _ (fun e => hj (pgKeep_inj.1 e)) (by decide) (by simp [pgKeep])).trans h.2⟩
    rw [State.route_of (State.armFlip_routes s k f), State.route_setRoute, if_neg hj]
    exact h.1

theorem State.armFlips_armed {j f : Nat} : ∀ (l : List Nat) (s : State), (j ∈ l ∨ s.flipArmed j f) →
    (l.foldl (fun u k => u.armFlip k f) s).flipArmed j f
  | [], _, h => by simpa using h
  | k :: l, s, h => by
    refine State.armFlips_armed l (s.armFlip k f) ?_
    rcases h with h | h
    · rcases List.mem_cons.1 h with rfl | h
      · exact .inr (State.armFlip_armed s j f)
      · exact .inl h
    · exact .inr (State.armFlip_keeps_armed k h)

@[simp] theorem State.configFault_rd (s : State) (p : PageId) (x : Reg) (i : Nat) : s.configFault.rd p x i = s.rd p x i := rfl
@[simp] theorem State.configFault_links (s : State) : s.configFault.links = s.links := rfl
@[simp] theorem State.configFault_routes (s : State) : s.configFault.routes = s.routes := rfl
@[simp] theorem State.configFault_raised (s : State) : s.configFault.watch.raised = s.watch.raised ++ [(2, 0)] := rfl

/-- What a late or refused flip does: its bit of PG_ERR, and a configuration fault for the boundary (R93). -/
theorem State.errFault_effect (s : State) (p : PageId) (i : Nat) (hi : i < 32) :
    errSet (s.err p i).configFault p i ∧ (s.err p i).configFault.watch.raised = s.watch.raised ++ [(2, 0)] ∧
      (s.err p i).configFault.links = s.links ∧ (s.err p i).configFault.routes = s.routes := by
  refine ⟨?_, by simp, by simp, by simp⟩
  unfold errSet
  rw [State.configFault_rd]
  exact State.err_bit s p i hi

theorem State.tryFlip_late {s : State} {f : Nat} (k : Nat) (sum : Option Nat) (h : tickLater f s.now = false) :
    s.tryFlip k f sum = (s.err (pgKeep k) 4).configFault := if_pos (by simp [h])

theorem State.tryFlip_refused {s : State} {k f : Nat} {sum : Option Nat} (h : tickLater f s.now = true)
    (hr : s.flipRefused k f sum = true) : s.tryFlip k f sum = (s.err (pgKeep k) 3).configFault := by
  unfold State.tryFlip
  rw [h, hr]
  rfl

theorem State.tryFlip_armed {s : State} {k f : Nat} {sum : Option Nat} (h : tickLater f s.now = true)
    (hr : s.flipRefused k f sum = false) : s.tryFlip k f sum = s.armFlip k f := by
  unfold State.tryFlip
  rw [h, hr]
  rfl

/-! ## A flip tried in the four Keeps -/

/-- The Keeps that refuse a flip. -/
def State.refusing (s : State) (f : Nat) (sum : Option Nat) : List Nat := (List.range 4).filter fun k => s.flipRefused k f sum

theorem State.mem_refusing {s : State} {f : Nat} {sum : Option Nat} {k : Nat} :
    k ∈ s.refusing f sum ↔ k < 4 ∧ s.flipRefused k f sum = true := by
  unfold State.refusing
  rw [List.mem_filter, List.mem_range]

theorem State.tryFlips_all {s : State} {f : Nat} {sum : Option Nat} (h : tickLater f s.now = true)
    (hr : ∀ k, k < 4 → s.flipRefused k f sum = false) :
    s.tryFlips f sum = (List.range 4).foldl (fun u k => u.armFlip k f) s := by
  have hb : s.refusing f sum = [] := List.eq_nil_iff_forall_not_mem.2 fun k hk => by
    obtain ⟨h4, ht⟩ := State.mem_refusing.1 hk
    rw [hr k h4] at ht
    cases ht
  unfold State.tryFlips
  dsimp only
  change (if _ then _ else if (s.refusing f sum).isEmpty then _ else _) = _
  rw [h, hb]
  rfl

theorem State.tryFlips_none {s : State} {f k : Nat} {sum : Option Nat} (h : tickLater f s.now = true) (hk : k < 4)
    (hr : s.flipRefused k f sum = true) :
    s.tryFlips f sum = ((s.refusing f sum).foldl (fun u k => u.err (pgKeep k) 3) s).configFault := by
  have hm : k ∈ s.refusing f sum := State.mem_refusing.2 ⟨hk, hr⟩
  have hb : (s.refusing f sum).isEmpty = false := by
    cases e : s.refusing f sum with
    | nil => rw [e] at hm; cases hm
    | cons => rfl
  unfold State.tryFlips
  dsimp only
  change (if _ then _ else if (s.refusing f sum).isEmpty then _ else _) = _
  rw [h, hb]
  rfl

/-- A flip tried in the four Keeps reaches no link, and of the Belfry nothing. -/
theorem State.tryFlips_rest (s : State) (f : Nat) (sum : Option Nat) :
    (s.tryFlips f sum).links = s.links ∧ (s.tryFlips f sum).belfry = s.belfry :=
  ⟨(State.tryFlips_parts (M := (· ≠ .links)) (parts_refl s) f sum (by decide) (by decide) (by decide) (by decide) (by decide)
      (by decide)).same_of (p := .links) (by simp),
    (State.tryFlips_parts (M := (· ≠ .belfry)) (parts_refl s) f sum (by decide) (by decide) (by decide) (by decide) (by decide)
      (by decide)).same_of (p := .belfry) (by simp)⟩

/-- A list of error events reaches neither the routes nor what Watch holds. -/
theorem foldl_err_rest (l : List Nat) (i : Nat) : ∀ s : State,
    (l.foldl (fun u k => u.err (pgKeep k) i) s).routes = s.routes ∧ (l.foldl (fun u k => u.err (pgKeep k) i) s).watch = s.watch := by
  induction l with
  | nil => exact fun s => ⟨rfl, rfl⟩
  | cons k l ih =>
    intro s
    obtain ⟨h1, h2⟩ := ih (s.err (pgKeep k) i)
    exact ⟨h1.trans (by simp), h2.trans (by simp)⟩

/-- A flip that no Keep refuses is armed in every Keep. -/
theorem State.tryFlips_armed {s : State} {f : Nat} {sum : Option Nat} (h : tickLater f s.now = true)
    (hr : ∀ k, k < 4 → s.flipRefused k f sum = false) {k : Nat} (hk : k < 4) : (s.tryFlips f sum).flipArmed k f := by
  rw [State.tryFlips_all h hr]
  exact State.armFlips_armed _ _ (.inl (List.mem_range.2 hk))

/-- A flip that a Keep refuses is armed in none: each refusing Keep has its error bit, and one fault is raised (log 189). -/
theorem State.tryFlips_refused {s : State} {f : Nat} {sum : Option Nat} (h : tickLater f s.now = true) {k : Nat} (hk : k < 4)
    (hr : s.flipRefused k f sum = true) : (s.tryFlips f sum).routes = s.routes ∧ errSet (s.tryFlips f sum) (pgKeep k) 3 ∧
      (s.tryFlips f sum).watch.raised = s.watch.raised ++ [(2, 0)] := by
  rw [State.tryFlips_none h hk hr]
  obtain ⟨h1, h2⟩ := foldl_err_rest (s.refusing f sum) 3 s
  have hb := errSet_foldl_err pgKeep 3 (by decide) (s.refusing f sum) s (.inl ⟨k, State.mem_refusing.2 ⟨hk, hr⟩, rfl⟩)
  unfold errSet at hb ⊢
  rw [State.configFault_routes, State.configFault_rd, State.configFault_raised, h2]
  exact ⟨h1, hb, rfl⟩

/-! ## Messages sent before a flip -/

/-- Whether a flip is refused rests on registers and route state alone. -/
theorem State.flipRefused_of {s t : State} (hr : t.routes = s.routes) {k : Nat}
    (hd : ∀ x : Reg, x = Kr.CUR ∨ x = Kr.A_FILLED ∨ x = Kr.B_FILLED ∨ x = Kr.DRAINING ∨ x = Kr.ARMED ∨ x = Kr.AGE_MAX →
      t.rd (pgKeep k) x 0 = s.rd (pgKeep k) x 0) (f : Nat) (sum : Option Nat) :
    t.flipRefused k f sum = s.flipRefused k f sum := by
  have hc : t.routeCur k = s.routeCur k := hd _ (.inl rfl)
  have hf : ∀ b, t.filled k b = s.filled k b := fun b => by
    unfold State.filled State.rdb
    split
    · rw [hd _ (.inr (.inl rfl))]
    · rw [hd _ (.inr (.inr (.inl rfl)))]
  have hs : ∀ b, t.bankSum k b = s.bankSum k b := fun b => by
    unfold State.bankSum
    rw [State.route_of hr]
  unfold State.flipRefused
  dsimp only
  rw [hc, hf, hs, State.route_of hr]
  unfold State.rdb
  rw [hd Kr.DRAINING (by simp), hd Kr.ARMED (by simp), hd Kr.AGE_MAX (by simp)]

/-- A ROUTE_FLIP remembered and forwarded. -/
def State.flipSent (s : State) (src : Option Nat) (f : Nat) (payload : List Byte) : State :=
  (s.rememberFlood 0x32 f).flood src 0x32 payload

theorem State.flipSent_eq (s : State) (src : Option Nat) (f : Nat) (payload : List Byte) : s.flipSent src f payload =
    { s with links := (s.flipSent src f payload).links, belfry := { s.belfry with flooded := (0x32, f) :: s.belfry.flooded } } :=
  (State.flood_eq (s.rememberFlood 0x32 f) src 0x32 payload).1

theorem State.flipSent_flooded (s : State) (src : Option Nat) (f : Nat) (payload : List Byte) :
    flooded s (s.flipSent src f payload) src 0x32 payload :=
  fun l => (State.flood_eq (s.rememberFlood 0x32 f) src 0x32 payload).2 l

theorem State.flipSent_refused (s : State) (src : Option Nat) (f : Nat) (payload : List Byte) (k g : Nat) (sum : Option Nat) :
    (s.flipSent src f payload).flipRefused k g sum = s.flipRefused k g sum := by
  rw [State.flipSent_eq]
  exact State.flipRefused_of rfl (fun _ _ => rfl) g sum

/-- What a message that is sent on and then tried in every Keep does. -/
theorem State.flipSent_tried {s : State} {src : Option Nat} {f : Nat} {payload : List Byte} {sum : Option Nat}
    (h : tickLater f s.now = true) :
    flooded s ((s.flipSent src f payload).tryFlips f sum) src 0x32 payload ∧
    ((s.flipSent src f payload).tryFlips f sum).belfry = { s.belfry with flooded := (0x32, f) :: s.belfry.flooded } ∧
    ((∀ k, k < 4 → s.flipRefused k f sum = false) → ∀ k, k < 4 → ((s.flipSent src f payload).tryFlips f sum).flipArmed k f) ∧
    (∀ k, k < 4 → s.flipRefused k f sum = true → ((s.flipSent src f payload).tryFlips f sum).routes = s.routes ∧
      errSet ((s.flipSent src f payload).tryFlips f sum) (pgKeep k) 3 ∧
      ((s.flipSent src f payload).tryFlips f sum).watch.raised = s.watch.raised ++ [(2, 0)]) := by
  have hq := State.flipSent_refused s src f payload
  have he := State.flipSent_eq s src f payload
  have hfl := State.flipSent_flooded s src f payload
  have hn : (s.flipSent src f payload).now = s.now := by rw [he]; rfl
  have hb : (s.flipSent src f payload).belfry = { s.belfry with flooded := (0x32, f) :: s.belfry.flooded } := by rw [he]
  have hro : (s.flipSent src f payload).routes = s.routes := by rw [he]
  have hw : (s.flipSent src f payload).watch = s.watch := by rw [he]
  generalize s.flipSent src f payload = u at hq hfl hn hb hro hw
  clear he
  obtain ⟨hl, hbel⟩ := State.tryFlips_rest u f sum
  rw [← hn] at h
  refine ⟨fun l => ?_, hbel.trans hb, fun hr k hk => State.tryFlips_armed h (fun j hj => (hq j f sum).trans (hr j hj)) hk,
    fun k hk hr => ?_⟩
  · rw [← hfl l]
    unfold State.link
    rw [hl]
  · obtain ⟨h1, h2, h3⟩ := State.tryFlips_refused h hk ((hq k f sum).trans hr)
    rw [hro] at h1
    rw [hw] at h3
    exact ⟨h1, h2, h3⟩

/-! ## A write of FLIP_AT_LO -/

/-- FLIP_AT_LO written leaves every other field as it reads. -/
theorem State.rd_flipAt (s : State) (k v : Nat) {p : PageId} {x : Reg} {i : Nat} (h : rkey p x i ≠ rkey (pgKeep k) Kr.FLIP_AT_LO 0) :
    (s.put (pgKeep k) Kr.FLIP_AT_LO 0 v).rd p x i = s.rd p x i :=
  State.rd_put_block s v h (by decide) (by simp [pgKeep])

theorem State.flipAt_reads (s : State) (k v f : Nat) (hf : f = v % 2 ^ 32 + 2 ^ 32 * s.rd (pgKeep k) Kr.FLIP_AT_HI 0) :
    (s.put (pgKeep k) Kr.FLIP_AT_LO 0 v).rd2 (pgKeep k) Kr.FLIP_AT_LO Kr.FLIP_AT_HI = f ∧
    (s.put (pgKeep k) Kr.FLIP_AT_LO 0 v).rdb (pgKeep k) Kr.FLOOD = s.rdb (pgKeep k) Kr.FLOOD 0 ∧
    (s.put (pgKeep k) Kr.FLIP_AT_LO 0 v).routeCur k = s.routeCur k ∧
    (s.put (pgKeep k) Kr.FLIP_AT_LO 0 v).coord = s.coord := by
  have hlo : (s.put (pgKeep k) Kr.FLIP_AT_LO 0 v).rd (pgKeep k) Kr.FLIP_AT_LO 0 = v % 2 ^ 32 := State.rd_put_self _ _ _ _ _ rfl
  refine ⟨?_, ?_, State.rd_flipAt s k v (by simp [rkey, Kr.CUR, Kr.FLIP_AT_LO]),
    State.rd_flipAt s k v (by simp [rkey, Kr.COORD, Kr.FLIP_AT_LO])⟩
  · unfold State.rd2
    rw [hlo, hf, State.rd_flipAt s k v (by simp [rkey, Kr.FLIP_AT_HI, Kr.FLIP_AT_LO])]
  · unfold State.rdb
    rw [State.rd_flipAt s k v (by simp [rkey, Kr.FLOOD, Kr.FLIP_AT_LO])]

theorem State.flipAt_refused (s : State) (k v j f : Nat) (sum : Option Nat) :
    (s.put (pgKeep k) Kr.FLIP_AT_LO 0 v).flipRefused j f sum = s.flipRefused j f sum := by
  refine State.flipRefused_of (s := s) (t := s.put (pgKeep k) Kr.FLIP_AT_LO 0 v) rfl (fun x hx => State.rd_flipAt s k v fun e => ?_) f sum
  simp only [rkey, RegKey.mk.injEq] at e
  obtain ⟨-, -, ho, -⟩ := e
  rcases hx with rfl | rfl | rfl | rfl | rfl | rfl <;> exact absurd ho (by decide)

/-- A flood says the same of two states with the same links, ticks, coordinates and route banks. -/
theorem flooded_of {s u t : State} {src : Option Nat} {op : Nat} {payload : List Byte} (hl : u.links = s.links) (hn : u.now = s.now)
    (hk : ∀ (k : Nat) (x : Reg), x = Kr.COORD ∨ x = Kr.EXTENT ∨ x = Kr.CUR → u.rd (pgKeep k) x 0 = s.rd (pgKeep k) x 0)
    (hs : ∀ l, u.lstate l = s.lstate l) (h : flooded u t src op payload) : flooded s t src op payload := by
  intro l
  have hlink : u.link l = s.link l := by
    unfold State.link
    rw [hl]
  have hc : u.coord = s.coord := hk 0 _ (.inl rfl)
  have he : u.extent = s.extent := hk 0 _ (.inr (.inl rfl))
  have hm : u.messageFlit (l - 0x10) op payload = s.messageFlit (l - 0x10) op payload := by
    unfold State.messageFlit State.isDateline
    rw [hc, he, hn, hk _ Kr.CUR (by simp)]
  have hup : u.linkUp l = s.linkUp l := by
    have h5 := hs l
    unfold State.lstate at h5
    unfold State.linkUp
    rw [h5]
  rw [h l, hlink, hm, hup]

theorem State.flipAt_flooded {s : State} {k v : Nat} {t : State} {src : Option Nat} {op : Nat} {payload : List Byte}
    (h : flooded (s.put (pgKeep k) Kr.FLIP_AT_LO 0 v) t src op payload) : flooded s t src op payload := by
  refine flooded_of (u := s.put (pgKeep k) Kr.FLIP_AT_LO 0 v) rfl rfl (fun j x hx => State.rd_flipAt s k v fun e => ?_)
    (fun l => State.rd_flipAt s k v fun e => ?_) h
  · simp only [rkey, RegKey.mk.injEq] at e
    obtain ⟨-, -, ho, -⟩ := e
    rcases hx with rfl | rfl | rfl <;> exact absurd ho (by decide)
  · simp only [rkey, RegKey.mk.injEq] at e
    obtain ⟨ht, -, -, -⟩ := e
    exact pgLink_ne (l := l) (p := pgKeep k) (by simp [pgKeep]) (by simp [pgKeep])
      (by rcases pgLink_ty l with h | h <;> rw [h] at ht <;> simp [pgKeep] at ht)

theorem State.put_now (s : State) (p : PageId) (r : Reg) (i v : Nat) : (s.put p r i v).now = s.now := rfl
theorem State.put_bankSum (s : State) (p : PageId) (r : Reg) (i v k b : Nat) : (s.put p r i v).bankSum k b = s.bankSum k b := rfl

theorem State.flipAtWrite_clear {s : State} {k v f : Nat} (hl : s.rdb (pgKeep k) Kr.FLOOD 0 = false)
    (hf : f = v % 2 ^ 32 + 2 ^ 32 * s.rd (pgKeep k) Kr.FLIP_AT_HI 0) :
    s.flipAtWrite k v = (s.put (pgKeep k) Kr.FLIP_AT_LO 0 v).tryFlip k f none := by
  obtain ⟨h2, hfl, -, -⟩ := State.flipAt_reads s k v f hf
  unfold State.flipAtWrite
  dsimp only
  rw [h2, hfl, hl, if_neg Bool.false_ne_true]

theorem State.flipAtWrite_flood {s : State} {k v f : Nat} (hl : s.rdb (pgKeep k) Kr.FLOOD 0 = true)
    (hf : f = v % 2 ^ 32 + 2 ^ 32 * s.rd (pgKeep k) Kr.FLIP_AT_HI 0) :
    s.flipAtWrite k v =
      if !tickLater f s.now || s.flipRefused k f (some (s.bankSum k (1 - s.routeCur k))) then
        (s.put (pgKeep k) Kr.FLIP_AT_LO 0 v).tryFlip k f (some (s.bankSum k (1 - s.routeCur k)))
      else ((s.put (pgKeep k) Kr.FLIP_AT_LO 0 v).flipSent none f (flipPayload f (s.bankSum k (1 - s.routeCur k)) s.coord)).tryFlips f
        (some (s.bankSum k (1 - s.routeCur k))) := by
  obtain ⟨h2, hfl, hc, hco⟩ := State.flipAt_reads s k v f hf
  unfold State.flipAtWrite
  dsimp only
  rw [h2, hfl, hl, if_pos rfl, hc, hco, State.flipAt_refused]
  exact if_congr Iff.rfl rfl rfl

theorem State.rd_flipAt_err (s : State) (q : PageId) (c k : Nat) :
    (s.err q c).configFault.rd (pgKeep k) Kr.FLIP_AT_LO 0 = s.rd (pgKeep k) Kr.FLIP_AT_LO 0 := by
  rw [State.configFault_rd]
  exact State.rd_err_keep s q c (by decide) (by decide)

theorem State.rd_flipAt_arm (s : State) (j f k : Nat) : (s.armFlip j f).rd (pgKeep k) Kr.FLIP_AT_LO 0 = s.rd (pgKeep k) Kr.FLIP_AT_LO 0 := by
  unfold State.armFlip
  by_cases h : pgKeep k = pgKeep j
  · rw [h, State.rd_wr_same _ _ (.inl (by decide)) (by decide) (by decide) (by simp [pgKeep])]
    rfl
  · rw [State.rd_wr_other _ _ h (by decide) (by simp [pgKeep])]
    rfl

theorem State.rd_flipAt_try (s : State) (j f : Nat) (sum : Option Nat) (k : Nat) :
    (s.tryFlip j f sum).rd (pgKeep k) Kr.FLIP_AT_LO 0 = s.rd (pgKeep k) Kr.FLIP_AT_LO 0 := by
  unfold State.tryFlip
  split
  · exact State.rd_flipAt_err ..
  · split
    · exact State.rd_flipAt_err ..
    · exact State.rd_flipAt_arm ..

theorem State.rd_flipAt_tries (s : State) (f : Nat) (sum : Option Nat) (k : Nat) :
    (s.tryFlips f sum).rd (pgKeep k) Kr.FLIP_AT_LO 0 = s.rd (pgKeep k) Kr.FLIP_AT_LO 0 := by
  unfold State.tryFlips
  dsimp only
  split
  · exact State.rd_flipAt_err ..
  · split
    · exact foldl_of (·.rd (pgKeep k) Kr.FLIP_AT_LO 0) _ (fun t j => State.rd_flipAt_arm t j f k) _ s
    · rw [State.configFault_rd]
      exact foldl_of (·.rd (pgKeep k) Kr.FLIP_AT_LO 0) _
        (fun t j => State.rd_err_keep t (pgKeep j) 3 (by decide) (by decide)) _ s

/-! ## Drain deadlines -/

/-- A reply given to its source reaches no register, no route, no reservation and not the Belfry. -/
theorem State.giveReply_rest (s : State) (src : Source) (f : Flit) :
    (∀ p x i, (s.giveReply src f).rd p x i = s.rd p x i) ∧ (s.giveReply src f).routes = s.routes ∧
      (s.giveReply src f).reservations = s.reservations ∧ (s.giveReply src f).belfry = s.belfry := by
  unfold State.giveReply
  cases src with
  | endpoint n => exact ⟨fun _ _ _ => rfl, rfl, rfl, rfl⟩
  | host => exact ⟨fun _ _ _ => rfl, rfl, rfl, rfl⟩
  | moduleUnit e =>
    dsimp only
    split
    · exact ⟨fun _ _ _ => rfl, rfl, rfl, rfl⟩
    · split
      · exact ⟨fun _ _ _ => rfl, rfl, rfl, rfl⟩
      · exact ⟨fun _ _ _ => rfl, rfl, rfl, rfl⟩

/-- A reservation completed as stale: the reply, and an endpoint's count (R92). -/
def State.completeStale (s : State) (r : Reservation) : State :=
  match r.src with
  | .endpoint n => (s.complete r 0xE1).bump (pgLink n) Ept.STALE_DONE
  | _ => s.complete r 0xE1

theorem State.completeStale_rest (s : State) (r : Reservation) :
    (∀ k (x : Reg) i, (s.completeStale r).rd (pgKeep k) x i = s.rd (pgKeep k) x i) ∧ (s.completeStale r).routes = s.routes ∧
      (s.completeStale r).reservations = s.reservations.filter (· ≠ r) ∧ (s.completeStale r).belfry = s.belfry := by
  have hc : (∀ p x i, (s.complete r 0xE1).rd p x i = s.rd p x i) ∧ (s.complete r 0xE1).routes = s.routes ∧
      (s.complete r 0xE1).reservations = s.reservations.filter (· ≠ r) ∧ (s.complete r 0xE1).belfry = s.belfry :=
    State.giveReply_rest { s with reservations := s.reservations.filter (· ≠ r) } r.src _
  obtain ⟨h1, h2, h3, h4⟩ := hc
  unfold State.completeStale
  split
  · rename_i n _
    refine ⟨fun k x i => ?_, by simp [h2], by simp [h3], by simp [h4]⟩
    exact (State.rd_wri_other _ _ (pgLink_ne (by simp [pgKeep]) (by simp [pgKeep])).symm (by decide) (pgLink_trip n)).trans (h1 _ x i)
  · exact ⟨fun k x i => h1 _ x i, h2, h3, h4⟩

/-- Reservations completed one after another are gone, and nothing else of reservations, routes and Keeps has changed. -/
theorem State.completeStales_rest : ∀ (l : List Reservation) (s : State),
    (∀ k (x : Reg) i, (l.foldl State.completeStale s).rd (pgKeep k) x i = s.rd (pgKeep k) x i) ∧
      (l.foldl State.completeStale s).routes = s.routes ∧
      (∀ r, r ∈ (l.foldl State.completeStale s).reservations ↔ r ∈ s.reservations ∧ r ∉ l) ∧
      (l.foldl State.completeStale s).belfry = s.belfry
  | [], s => ⟨fun _ _ _ => rfl, rfl, fun r => by simp, rfl⟩
  | a :: l, s => by
    obtain ⟨h1, h2, h3, h4⟩ := State.completeStale_rest s a
    obtain ⟨g1, g2, g3, g4⟩ := State.completeStales_rest l (s.completeStale a)
    refine ⟨fun k x i => (g1 k x i).trans (h1 k x i), g2.trans h2, fun r => ?_, g4.trans h4⟩
    rw [List.foldl_cons, g3 r, h3]
    simp [and_assoc]

/-- IN_USE of the bank that leaves use at a drain deadline. -/
def State.oldInUse (s : State) (k : Nat) : Reg := if s.routeCur k = 0 then Kr.B_IN_USE else Kr.A_IN_USE

/-- A Keep's drain deadline once it is reached. -/
def State.drained (s : State) (k d : Nat) : State :=
  (((s.staleResv k).foldl State.completeStale s).setRoute k
    { s.route k with deadline := none, lastDeadline := some d }).wr (pgKeep k) Kr.DRAINING 0

theorem State.drainKeep_none {s : State} {k : Nat} (h : (s.route k).deadline = none) : s.drainKeep k = s := by
  unfold State.drainKeep
  rw [h]

theorem State.drainKeep_early {s : State} {k d : Nat} (h : (s.route k).deadline = some d) (hd : tickReached s.now d = false) :
    s.drainKeep k = s := by
  unfold State.drainKeep
  rw [h]
  dsimp only
  rw [hd]
  rfl

theorem State.drainKeep_reached {s : State} {k d : Nat} (h : (s.route k).deadline = some d) (hd : tickReached s.now d = true) :
    s.drainKeep k = (s.drained k d).wr (pgKeep k) (s.oldInUse k) 0 := by
  obtain ⟨hr, hro, -, -⟩ := State.completeStales_rest (s.staleResv k) s
  have hroute : ((s.staleResv k).foldl State.completeStale s).route k = s.route k := State.route_of hro k
  unfold State.drainKeep
  rw [h]
  dsimp only
  rw [hd, if_pos rfl]
  change State.wr (State.wr (State.setRoute ((s.staleResv k).foldl State.completeStale s) k
    { ((s.staleResv k).foldl State.completeStale s).route k with deadline := none, lastDeadline := some d }) _ _ _) _
    (if (((s.staleResv k).foldl State.completeStale s).routeCur k) = 0 then Kr.B_IN_USE else Kr.A_IN_USE) 0 = _
  rw [hroute]
  unfold State.oldInUse State.drained State.routeCur
  rw [hr]

/-- What a Keep's drain deadline rests on: its route state, its fields, its own reservations and the tick. -/
structure sameDrain (k : Nat) (s t : State) : Prop where
  route : t.route k = s.route k
  rd : ∀ (x : Reg) (i : Nat), t.rd (pgKeep k) x i = s.rd (pgKeep k) x i
  now : t.now = s.now
  resv : ∀ r : Reservation, srcKeep r.src = k → (r ∈ t.reservations ↔ r ∈ s.reservations)

theorem sameDrain_trans {k : Nat} {s t u : State} (h1 : sameDrain k s t) (h2 : sameDrain k t u) : sameDrain k s u :=
  ⟨h2.route.trans h1.route, fun x i => (h2.rd x i).trans (h1.rd x i), h2.now.trans h1.now,
    fun r hr => (h2.resv r hr).trans (h1.resv r hr)⟩

theorem State.mem_staleResv {s : State} {k : Nat} {r : Reservation} : r ∈ s.staleResv k ↔ r ∈ s.reservations ∧
    srcKeep r.src = k ∧ r.epoch ≠ s.routeCur k ∧ (∃ h, r.home = some h ∧ s.migrated k h = true) := by
  unfold State.staleResv
  rw [List.mem_filter]
  cases r.home <;> simp [and_assoc]

/-- The stale reservations of a Keep rest on what its drain deadline rests on. -/
theorem sameDrain.stale {k : Nat} {s t : State} (h : sameDrain k s t) (r : Reservation) : r ∈ t.staleResv k ↔ r ∈ s.staleResv k := by
  have hc : t.routeCur k = s.routeCur k := h.rd Kr.CUR 0
  have hm : ∀ l, t.migrated k l = s.migrated k l := fun l => by
    unfold State.migrated State.remap State.filled State.rdb
    rw [h.route]
    simp only [h.rd]
  rw [State.mem_staleResv, State.mem_staleResv, hc]
  simp only [hm]
  constructor
  · rintro ⟨h1, h2, h3⟩
    exact ⟨(h.resv r h2).1 h1, h2, h3⟩
  · rintro ⟨h1, h2, h3⟩
    exact ⟨(h.resv r h2).2 h1, h2, h3⟩

theorem State.oldInUse_ge (s : State) (k : Nat) : 0x100 ≤ (s.oldInUse k).off ∧ (s.oldInUse k).off ≠ Kr.DRAINING.off := by
  unfold State.oldInUse
  split <;> decide

/-- A reached deadline: the Keep's route state is past it, DRAINING is clear, and its stale reservations are gone (R91, R92). -/
theorem State.drainKeep_effect {s : State} {k d : Nat} (h : (s.route k).deadline = some d) (hd : tickReached s.now d = true) :
    (s.drainKeep k).route k = { s.route k with deadline := none, lastDeadline := some d } ∧
    (s.drainKeep k).rd (pgKeep k) Kr.DRAINING 0 = 0 ∧
    (∀ r, r ∈ (s.drainKeep k).reservations ↔ r ∈ s.reservations ∧ r ∉ s.staleResv k) ∧
    ∀ j, j ≠ k → sameDrain j s (s.drainKeep k) := by
  obtain ⟨h1, h2, h3, h4⟩ := State.completeStales_rest (s.staleResv k) s
  obtain ⟨hoff, hne⟩ := State.oldInUse_ge s k
  have ht : (pgKeep k).ty ≠ 0x51 := by simp [pgKeep]
  have hro : (s.drainKeep k).routes =
      (((s.staleResv k).foldl State.completeStale s).setRoute k { s.route k with deadline := none, lastDeadline := some d }).routes := by
    rw [State.drainKeep_reached h hd]
    simp [State.drained]
  have hre : (s.drainKeep k).reservations = ((s.staleResv k).foldl State.completeStale s).reservations := by
    rw [State.drainKeep_reached h hd]
    simp [State.drained]
  have hb : (s.drainKeep k).belfry = s.belfry := by
    rw [State.drainKeep_reached h hd]
    simp [State.drained, h4]
  refine ⟨?_, ?_, fun r => ?_, fun j hj => ⟨?_, fun x i => ?_, ?_, fun r hr => ?_⟩⟩
  · rw [State.route_of hro, State.route_setRoute, if_pos rfl]
  · rw [State.drainKeep_reached h hd, State.rd_wr_same (x := Kr.DRAINING) (j := 0) _ _ (.inl hne.symm) (by decide) hoff ht]
    exact State.rd_wr_own _ _ (by decide) ht
  · rw [hre]
    exact h3 r
  · rw [State.route_of hro, State.route_setRoute, if_neg hj, State.route_of h2]
  · have hp : pgKeep j ≠ pgKeep k := fun e => hj (pgKeep_inj.1 e)
    rw [State.drainKeep_reached h hd, State.rd_wr_other _ _ hp hoff ht]
    exact (State.rd_wr_other _ _ hp (by decide) ht).trans (h1 j x i)
  · unfold State.now
    rw [hb]
  · rw [hre, h3 r, State.mem_staleResv]
    constructor
    · exact fun hm => hm.1
    · exact fun hm => ⟨hm, fun hn => hj (hr.symm.trans hn.2.1)⟩

/-- The drain deadline of another Keep leaves what a Keep's own rests on. -/
theorem State.drainKeep_other (s : State) {j k : Nat} (hj : j ≠ k) : sameDrain j s (s.drainKeep k) := by
  have hrefl : sameDrain j s s := ⟨rfl, fun _ _ => rfl, rfl, fun _ _ => Iff.rfl⟩
  cases hd : (s.route k).deadline with
  | none => rwa [State.drainKeep_none hd]
  | some d =>
    cases hr : tickReached s.now d with
    | false => rwa [State.drainKeep_early hd hr]
    | true => exact (State.drainKeep_effect hd hr).2.2.2 j hj

theorem State.drainKeeps_other {j : Nat} : ∀ (l : List Nat) (s : State), j ∉ l → sameDrain j s (l.foldl State.drainKeep s)
  | [], s, _ => ⟨rfl, fun _ _ => rfl, rfl, fun _ _ => Iff.rfl⟩
  | k :: l, s, h => by
    obtain ⟨h1, h2⟩ := not_or.1 (mt List.mem_cons.2 h)
    exact sameDrain_trans (State.drainKeep_other s h1) (State.drainKeeps_other l (s.drainKeep k) h2)

/-- What the drain deadline does in one Keep is what it does there: the other Keeps' neither reach what it rests on nor what it
leaves. -/
theorem State.drainDeadline_keep (s : State) {k : Nat} (hk : k < 4) :
    ∃ u, sameDrain k s u ∧ sameDrain k (u.drainKeep k) s.drainDeadline := by
  have hsplit : List.range 4 = (List.range 4).take k ++ k :: (List.range 4).drop (k + 1) := by
    interval_cases k <;> rfl
  have hnot : k ∉ (List.range 4).take k ∧ k ∉ (List.range 4).drop (k + 1) := by
    interval_cases k <;> decide
  refine ⟨((List.range 4).take k).foldl State.drainKeep s, State.drainKeeps_other _ s hnot.1, ?_⟩
  unfold State.drainDeadline
  conv_rhs => rw [hsplit, List.foldl_append, List.foldl_cons]
  exact State.drainKeeps_other _ _ hnot.2

/-- Promoted entries that return to STATE 1 (R367) are no part of a drain deadline. -/
theorem State.demote_drain (s : State) (k : Nat) : sameDrain k s s.demote := by
  have hfold : ∀ (l : List Promoted) (u : State), sameDrain k u (l.foldl (fun (t : State) (x : Promoted) =>
      t.setFst0 x.idx (fstWord0 (fw (t.fstEntry x.idx) 0) 1 x.wr x.at_)) u) := by
    intro l
    induction l with
    | nil => exact fun u => ⟨rfl, fun _ _ => rfl, rfl, fun _ _ => Iff.rfl⟩
    | cons x l ih =>
      intro u
      have h1 : ∀ i v, sameDrain k u (u.setFst0 i v) := fun _ _ => ⟨rfl, fun _ _ => rfl, rfl, fun _ _ => Iff.rfl⟩
      rw [List.foldl_cons]
      exact sameDrain_trans (h1 _ _) (ih _)
  unfold State.demote
  dsimp only
  exact sameDrain_trans (hfold _ s) ⟨rfl, fun _ _ => rfl, rfl, fun _ _ => Iff.rfl⟩

theorem State.drain_keep (s : State) {k : Nat} (hk : k < 4) :
    ∃ u, sameDrain k s u ∧ sameDrain k (u.drainKeep k) s.drain := by
  unfold State.drain
  split
  · obtain ⟨u, hu, hv⟩ := State.drainDeadline_keep s.demote hk
    exact ⟨u, sameDrain_trans (State.demote_drain s k) hu, hv⟩
  · exact State.drainDeadline_keep s hk

/-! ## The statement -/

/-- Settles O38: each row is its own small case analysis (an idle bank or not; a late, refused or armed flip; a message seen
before, late, too far ahead or forwarded), and at a drain deadline one Keep's part leaves the other Keeps' alone. -/
theorem routesFlipTogether : Obligations.RoutesFlipTogether := by
  refine ⟨fun k v s hk => ?_, fun k v f s hk hl hf => ?_, fun k v f sum s hk hl hf hsum => ?_, fun d f sum origin s hf => ?_, fun s => ?_⟩
  · refine ⟨s.tblWrite k v, by simp only [exec, execTblDataWrite, if_pos hk], fun h => ?_, fun hu hfi => ?_⟩
    · rw [State.tblWrite_busy v h]
      exact ⟨State.err_bit _ _ _ (by decide), State.err_beyond _ _ _⟩
    · rw [State.tblWrite_idle v hu hfi]
      refine ⟨rfl, fun j hj => ?_, fun h0 => ?_, fun h1 hi => ?_⟩
      · rw [State.route_setRoute, if_neg hj]
      · rw [State.tblRead_setBank, if_pos h0]
        simp [RouteBank.entryPut, h0]
      · rw [State.tblRead_setBank, h1, if_neg (by decide), if_pos rfl]
        simp [RouteBank.entryPut, hi]
  · have hput : (s.put (pgKeep k) Kr.FLIP_AT_LO 0 v).rd (pgKeep k) Kr.FLIP_AT_LO 0 = v % 2 ^ 32 := State.rd_put_self _ _ _ _ _ rfl
    have href := State.flipAt_refused s k v k f none
    refine ⟨s.flipAtWrite k v, by simp only [exec, execFlipAtWrite, if_pos hk], ?_⟩
    rw [State.flipAtWrite_clear hl hf]
    refine ⟨(State.rd_flipAt_try ..).trans hput, fun ht => ?_, fun ht hr => ?_, fun ht hr => ?_⟩
    · rw [State.tryFlip_late (s := s.put (pgKeep k) Kr.FLIP_AT_LO 0 v) k none ht]
      obtain ⟨h1, h2, -, h4⟩ := State.errFault_effect (s.put (pgKeep k) Kr.FLIP_AT_LO 0 v) (pgKeep k) 4 (by decide)
      exact ⟨h1, h2, h4⟩
    · rw [State.tryFlip_refused (s := s.put (pgKeep k) Kr.FLIP_AT_LO 0 v) ht (href.trans hr)]
      obtain ⟨h1, h2, -, h4⟩ := State.errFault_effect (s.put (pgKeep k) Kr.FLIP_AT_LO 0 v) (pgKeep k) 3 (by decide)
      exact ⟨h1, h2, h4⟩
    · rw [State.tryFlip_armed (s := s.put (pgKeep k) Kr.FLIP_AT_LO 0 v) ht (href.trans hr)]
      have hro : ∀ j, ((s.put (pgKeep k) Kr.FLIP_AT_LO 0 v).armFlip k f).route j =
          if j = k then { s.route k with flip := some f } else s.route j := fun j => by
        rw [State.route_of (State.armFlip_routes ..), State.route_setRoute]
        rfl
      refine ⟨(State.armFlip_armed _ k f).2, (hro k).trans (if_pos rfl), fun j hj => (hro j).trans (if_neg hj)⟩
  · have hput : (s.put (pgKeep k) Kr.FLIP_AT_LO 0 v).rd (pgKeep k) Kr.FLIP_AT_LO 0 = v % 2 ^ 32 := State.rd_put_self _ _ _ _ _ rfl
    have href := State.flipAt_refused s k v k f (some sum)
    refine ⟨s.flipAtWrite k v, by simp only [exec, execFlipAtWrite, if_pos hk], ?_⟩
    rw [State.flipAtWrite_flood hl hf, ← hsum]
    refine ⟨?_, fun ht => ?_, fun ht hr => ?_, fun ht hr => ?_⟩
    · split
      · exact (State.rd_flipAt_try ..).trans hput
      · rw [State.rd_flipAt_tries, State.flipSent_eq]
        exact hput
    · rw [if_pos (by simp [ht]), State.tryFlip_late (s := s.put (pgKeep k) Kr.FLIP_AT_LO 0 v) k _ ht]
      obtain ⟨h1, h2, h3, h4⟩ := State.errFault_effect (s.put (pgKeep k) Kr.FLIP_AT_LO 0 v) (pgKeep k) 4 (by decide)
      exact ⟨h1, h2, h4, h3⟩
    · rw [if_pos (by simp [hr]), State.tryFlip_refused (s := s.put (pgKeep k) Kr.FLIP_AT_LO 0 v) ht (href.trans hr)]
      obtain ⟨h1, h2, h3, h4⟩ := State.errFault_effect (s.put (pgKeep k) Kr.FLIP_AT_LO 0 v) (pgKeep k) 3 (by decide)
      exact ⟨h1, h2, h4, h3⟩
    · rw [if_neg (by simp [ht, hr])]
      obtain ⟨h1, h2, h3, -⟩ := State.flipSent_tried (s := s.put (pgKeep k) Kr.FLIP_AT_LO 0 v) (src := none)
        (payload := flipPayload f sum s.coord) (sum := some sum) ht
      exact ⟨State.flipAt_flooded h1, h2, fun hj => h3 fun j h4 => (State.flipAt_refused s k v j f _).trans (hj j h4)⟩
  · have hmod : f % tickMod = f := Nat.mod_eq_of_lt hf
    refine ⟨s.routeFlip d f sum origin, rfl, ?_⟩
    unfold State.routeFlip
    dsimp only
    rw [hmod]
    refine ⟨fun hb => if_pos hb, fun hb ht => ?_, fun hb ht hfar => ?_, fun hb ht hnear => ?_⟩
    · rw [if_neg (by simp [hb]), if_pos (by simp [ht])]
      exact State.errFault_effect s (pgKeep 0) 4 (by decide)
    · rw [if_neg (by simp [hb]), if_neg (by simp [ht]), if_pos hfar]
      exact ⟨State.err_bit _ _ _ (by decide), State.err_beyond _ _ _⟩
    · rw [if_neg (by simp [hb]), if_neg (by simp [ht]), if_neg (by omega)]
      obtain ⟨h1, -, h3, h4⟩ := State.flipSent_tried (s := s) (src := some d) (payload := flipPayload f sum origin)
        (sum := some sum) ht
      exact ⟨h1, h3, h4⟩
  · refine ⟨s.drain, rfl, fun k hk => ?_⟩
    obtain ⟨u, hu, hv⟩  := State.drain_keep s hk
    refine ⟨fun hn => ?_, fun d hs ht => ?_, fun d hs ht => ?_⟩
    · rw [hv.route, State.drainKeep_none (hu.route.symm ▸ hn), hu.route]
    · obtain ⟨h1, h2, h3, -⟩ := State.drainKeep_effect (s := u) (k := k) (d := d) (by rw [hu.route, hs]) (by rw [hu.now, ht])
      refine ⟨by rw [hv.route, h1, hu.route], (hv.rd _ _).trans h2, fun r hr => ?_⟩
      rw [hv.resv r hr, h3 r, hu.resv r hr, hu.stale r]
    · have he := State.drainKeep_early (s := u) (k := k) (d := d) (by rw [hu.route, hs]) (by rw [hu.now, ht])
      rw [he] at hv
      exact ⟨hv.route.trans hu.route, fun r hr => (hv.resv r hr).trans (hu.resv r hr)⟩

end Sys2Proof.Machine
end

section
/-! Links: their pages, what is kept of them, and what a failing link leaves (R70). -/

namespace Sys2Proof.Machine

open Sys2Proof

/-! ## What is kept of a link -/

theorem AL.del_del {κ ν : Type} [DecidableEq κ] (k : κ) : ∀ m : List (κ × ν), AL.del (AL.del m k) k = AL.del m k
  | [] => rfl
  | (x, v) :: m => by
    by_cases h : x = k
    · rw [AL.del, if_pos h]
      exact AL.del_del k m
    · rw [AL.del, if_neg h, AL.del, if_neg h, AL.del_del k m]

theorem AL.put_put {κ ν : Type} [DecidableEq κ] (m : List (κ × ν)) (k : κ) (v w : ν) : AL.put (AL.put m k v) k w = AL.put m k w := by
  unfold AL.put
  rw [AL.del, if_pos rfl, AL.del_del]

theorem State.setLink_setLink (s : State) (l : Nat) (x y : Link) : (s.setLink l x).setLink l y = s.setLink l y := by
  unfold State.setLink
  dsimp only
  rw [AL.put_put]

@[simp] theorem State.link_setLink_self (s : State) (l : Nat) (x : Link) : (s.setLink l x).link l = x := by
  rw [State.link_setLink, if_pos rfl]

theorem State.link_of {s t : State} (h : t.links = s.links) (l : Nat) : t.link l = s.link l := by
  unfold State.link
  rw [h]

theorem State.lstate_of {s t : State} {l : Nat} (h : t.rd (pgLink l) Lnk.LSTATE 0 = s.rd (pgLink l) Lnk.LSTATE 0) :
    t.lstate l = s.lstate l := h

theorem State.linkUp_iff {s : State} {l : Nat} : s.linkUp l = true ↔ s.lstate l = 5 := by
  unfold State.linkUp State.lstate
  simp

theorem State.linkUp_of {s t : State} {l : Nat} (h : t.lstate l = s.lstate l) : t.linkUp l = s.linkUp l := by
  rw [Bool.eq_iff_iff, State.linkUp_iff, State.linkUp_iff, h]

theorem validLink_of {l : Nat} (h : l < 0x16) : validLink l = true := decide_eq_true h

/-! ## Fields of a link's page -/

/-- The page of a link is no Keep's and not the host MAC's. -/
theorem pgLink_ne_keep (l k : Nat) : pgLink l ≠ pgKeep k := pgLink_ne (by simp [pgKeep]) (by simp [pgKeep])

theorem pgLink_ne_host (l : Nat) : pgLink l ≠ pgHost := pgLink_ne (by decide) (by decide)

theorem rkey_page {p q : PageId} {r x : Reg} {i j : Nat} (h : rkey p r i = rkey q x j) : p = q := by
  simp only [rkey, RegKey.mk.injEq] at h
  exact PageId.eq_of_key h.1 h.2.1

/-- An error event of any page leaves a link's block fields as they read. -/
theorem State.rd_err_link (s : State) (q : PageId) (c l : Nat) {x : Reg} {j : Nat} (hx : 0x100 ≤ x.off) :
    (s.err q c).rd (pgLink l) x j = s.rd (pgLink l) x j :=
  State.rd_err_block s q c hx (fun e => pgLink_ne_host l (rkey_page e)) fun e => pgLink_ne_keep l 3 (rkey_page e)

theorem State.lstate_err (s : State) (q : PageId) (c l : Nat) : (s.err q c).lstate l = s.lstate l :=
  State.rd_err_link s q c l (by decide)

/-- A counter of a link's page leaves its other block fields as they read. -/
theorem State.rd_bump_link (s : State) (l : Nat) {r x : Reg} {i j : Nat} (n : Nat)
    (h : x.off + x.stride * j ≠ r.off + r.stride * i ∨ x.lo ≠ r.lo) (hx : 0x100 ≤ x.off) (hr : 0x100 ≤ r.off) :
    (s.bumpi (pgLink l) r i n).rd (pgLink l) x j = s.rd (pgLink l) x j := State.rd_bumpi_same s n h hx hr (pgLink_trip l)

/-- A wrapping 32-bit counter of a link's page. -/
theorem State.rd_bump_link_own (s : State) (l : Nat) {r : Reg} (n : Nat) (hr : 0x100 ≤ r.off) (hk : r.kind = .counterWrap)
    (hw : r.w = 32) : (s.bump (pgLink l) r n).rd (pgLink l) r 0 = (s.rd (pgLink l) r 0 + n) % 2 ^ 32 := by
  rw [← hw]
  exact State.rd_bumpi_own s n hr (pgLink_trip l) hk

end Sys2Proof.Machine
end

section
/-! Line blocks and die-to-die retries (R66–R70, R77). -/

namespace Sys2Proof.Machine

open Sys2Proof

/-! ## Decoding -/

theorem length_leBytes : ∀ n v : Nat, (leBytes n v).length = n
  | 0, _ => rfl
  | n + 1, v => congrArg (· + 1) (length_leBytes n (v / 256))

theorem rsDecode_own {d : List Byte} (h : d.length = 270) : rsDecode d (rsParityBytes d) = some ([], d) := by
  have hp : (rsParityBytes d).length = 50 := length_leBytes ..
  unfold rsDecode
  rw [if_neg (by simp [h, hp]), if_pos rfl]

/-! ## Bad blocks -/

/-- A link with a bad block counted. -/
def Link.bad (x : Link) : Link := { x with goodRun := 0, badRun := x.badRun + 1 }

/-- A link with a good block counted. -/
def Link.good (x : Link) : Link := { x with goodRun := x.goodRun + 1, badRun := 0 }

theorem State.badBlock_kept {s : State} {l : Nat} (h : (s.link l).badRun ≠ 7 ∨ s.lstate l ≠ 5) :
    s.badBlock l = s.setLink l (s.link l).bad := by
  unfold State.badBlock
  dsimp only
  split
  · rename_i h8
    have hup : (s.setLink l (s.link l).bad).linkUp l = false :=
      Bool.eq_false_iff.2 fun e => (h.resolve_left (by omega)) (State.linkUp_iff.1 e)
    unfold State.lockLoss
    change (if _ && (s.setLink l (s.link l).bad).linkUp l then _ else _) = _
    rw [hup, Bool.and_false, if_neg Bool.false_ne_true]
    rfl
  · rfl

theorem State.badBlock_lost {s : State} {l : Nat} (hl : l < 0x16) (h7 : (s.link l).badRun = 7) (h5 : s.lstate l = 5) :
    s.badBlock l = ((s.setLink l (s.link l).bad).err (pgLink l) 1).failLink l := by
  have hup : (s.setLink l (s.link l).bad).linkUp l = true := State.linkUp_iff.2 h5
  unfold State.badBlock
  dsimp only
  rw [if_pos (by omega)]
  unfold State.lockLoss
  change (if _ && (s.setLink l (s.link l).bad).linkUp l then _ else _) = _
  rw [hup, validLink_of hl, if_pos (Bool.and_true true)]
  rfl

/-- A bad block leaves the counters of FEC and CRC as they read. -/
theorem State.rd_badBlock {s : State} {l : Nat} {x : Reg} (hl : l < 0x16) (hx : 0x100 ≤ x.off) (h0 : x.off + x.stride * 0 < 0x140)
    (h : x.off + x.stride * 0 ≠ Lnk.LSTATE.off ∨ x.lo ≠ Lnk.LSTATE.lo) : (s.badBlock l).rd (pgLink l) x 0 = s.rd (pgLink l) x 0 := by
  by_cases hb : (s.link l).badRun = 7 ∧ s.lstate l = 5
  · rw [State.badBlock_lost hl hb.1 hb.2, State.rd_failLink _ _ hx (.inr h0) h, State.rd_err_link _ _ _ _ hx, State.setLink_rd]
  · rw [State.badBlock_kept (by tauto), State.setLink_rd]

/-- The eighth bad block in a row on a link that is UP fails it. -/
theorem State.badBlock_fails {s : State} {l : Nat} (hl : l < 0x16) (h7 : (s.link l).badRun = 7) (h5 : s.lstate l = 5) :
    (s.badBlock l).lstate l = 6 ∧ errSet (s.badBlock l) (pgLink l) 1 := by
  rw [State.badBlock_lost hl h7 h5]
  exact ⟨State.lstate_failLink _ _, State.errSet_failLink (State.err_bit _ _ _ (by decide))⟩

/-- Corrected symbols are counted by lane, and change no link, no state of one and none of its other counters. -/
theorem State.countSymbols_rest (s : State) (l : Nat) (syms : List Nat) : (s.countSymbols l syms).links = s.links ∧
    ∀ x : Reg, 0x100 ≤ x.off → x.off + x.stride * 0 < 0x1000 → (s.countSymbols l syms).rd (pgLink l) x 0 = s.rd (pgLink l) x 0 := by
  unfold State.countSymbols
  refine ⟨foldl_of (·.links) _ (fun t i => by simp) syms s, fun x hx h => foldl_of (·.rd (pgLink l) x 0) _ (fun t i => ?_) syms s⟩
  refine State.rd_bump_link t l 1 (.inl ?_) hx (by decide)
  have : Lnk.laneCnt.off = 0x1000 := rfl
  omega

/-- The corrected symbols of a block counted, where there are any. -/
def State.corrected (s : State) (l : Nat) (syms : List Nat) : State :=
  if syms.isEmpty then s else (s.bump (pgLink l) Lnk.FEC_CORR).countSymbols l syms

theorem State.corrected_rest (s : State) (l : Nat) (syms : List Nat) : (s.corrected l syms).links = s.links ∧
    (∀ x : Reg, 0x100 ≤ x.off → x.off + x.stride * 0 < 0x1000 → x.off + x.stride * 0 ≠ Lnk.FEC_CORR.off →
      (s.corrected l syms).rd (pgLink l) x 0 = s.rd (pgLink l) x 0) ∧
    (s.rd (pgLink l) Lnk.FEC_CORR 0 < 2 ^ 32 → (s.corrected l syms).rd (pgLink l) Lnk.FEC_CORR 0 =
      (s.rd (pgLink l) Lnk.FEC_CORR 0 + if syms = [] then 0 else 1) % 2 ^ 32) := by
  obtain ⟨hlk, hrd⟩ := State.countSymbols_rest (s.bump (pgLink l) Lnk.FEC_CORR) l syms
  unfold State.corrected
  cases syms with
  | nil => exact ⟨rfl, fun _ _ _ _ => rfl, fun h => (Nat.mod_eq_of_lt h).symm⟩
  | cons a as =>
    refine ⟨hlk.trans (State.bump_links ..), fun x hx h h1 => ?_, fun _ => ?_⟩
    · exact (hrd x hx h).trans (State.rd_bump_link s l 1 (.inl h1) hx (by decide))
    · exact (hrd _ (by decide) (by decide)).trans (State.rd_bump_link_own s l 1 (by decide) rfl rfl)

/-! ## Blocks by what the decoder says -/

section
variable {s : State} {l : Nat} {d p : List Byte} (h2 : 2 ≤ s.lstate l) (h5 : s.lstate l ≤ 5)
include h2 h5

theorem State.lineBlock_lost (hd : rsDecode d p = none) : s.lineBlock l d p = (s.bump (pgLink l) Lnk.FEC_UNCORR).badBlock l := by
  unfold State.lineBlock
  rw [if_neg (by simp; omega), hd]

theorem State.lineBlock_crc {syms : List Nat} {b : List Byte} (hd : rsDecode d p = some (syms, b))
    (hc : leAt b 266 4 ≠ crc32c (b.take 266)) :
    s.lineBlock l d p = ((s.corrected l syms).bump (pgLink l) Lnk.CRC_FAIL).badBlock l := by
  unfold State.lineBlock
  rw [if_neg (by simp; omega), hd]
  exact if_neg hc

theorem State.lineBlock_good {b : List Byte} (hd : rsDecode d p = some ([], b)) (hc : leAt b 266 4 = crc32c (b.take 266)) :
    s.lineBlock l d p = s.goodBlock l b := by
  unfold State.lineBlock
  rw [if_neg (by simp; omega), hd]
  exact if_pos hc

end

theorem State.lineBlock_none {s : State} {l : Nat} (d p : List Byte) (h : s.lstate l < 2 ∨ 5 < s.lstate l) : s.lineBlock l d p = s :=
  if_pos (by simpa using h)

theorem exec_lineBlockReceive {l : Nat} (hl : l < 0x16) (d p : List Byte) (s : State) :
    exec (.lineBlockReceive l d p) s = .next (s.lineBlock l d p) := by
  simp only [exec, execLineBlockReceive, validLink_of hl, if_true]

/-! ## Good blocks -/

theorem State.goodBlock_lock {s : State} {l : Nat} (b : List Byte) (h2 : s.lstate l = 2) : s.goodBlock l b =
    if (s.link l).goodRun + 1 = 64 then (s.setLink l (s.link l).good).lockAchieved l else s.setLink l (s.link l).good := by
  unfold State.goodBlock
  exact if_pos h2

theorem State.goodBlock_past {s : State} {l : Nat} (b : List Byte) (h2 : s.lstate l ≠ 2) :
    s.goodBlock l b = (s.setLink l (s.link l).good).blockContent l b := by
  unfold State.goodBlock
  exact if_neg h2

theorem State.lockAchieved_links {s : State} {l : Nat} (hl : l < 0x16) (h2 : s.lstate l = 2) :
    (s.lockAchieved l).lstate l = 3 ∧ (s.lockAchieved l).link l = { s.link l with since := s.clock } := by
  have h : s.lockAchieved l = ((s.setLstate l 3).sendTraining l { trType := 2 }).sendTraining l
      { trType := 4, ident := (s.ownIdent l).1, dir := (s.ownIdent l).2 } := by
    unfold State.lockAchieved
    rw [validLink_of hl, if_pos (by simp [h2])]
  rw [h]
  refine ⟨State.lstate_setLstate s l 3, ?_⟩
  change (s.setLstate l 3).link l = _
  unfold State.setLstate
  rw [if_neg (by decide), State.link_of (State.wr_links ..), State.link_setLink_self]

/-- A training block acts as the command of its TR_TYPE (Table 03.7). -/
theorem State.trainingBlock_acts {l : Nat} {b : List Byte} {c : Instr} (s : State)
    (h : leAt b 0 1 = 2 ∧ c = .latencyProbe l (leAt b 4 4) 0 ∨ leAt b 0 1 = 3 ∧ c = .probeEcho l (leAt b 8 4) (leAt b 12 4) ∨
      leAt b 0 1 = 4 ∧ c = .identity l (leAt b 16 2) (leAt b 18 1) ∨
      leAt b 0 1 = 5 ∧ c = .creditGrant l ((List.range 8).map fun v => leAt b (32 + 2 * v) 2)) :
    exec c s = .next (s.trainingBlock l b) := by
  unfold State.trainingBlock
  obtain ⟨ht, rfl⟩ | ⟨ht, rfl⟩ | ⟨ht, rfl⟩ | ⟨ht, rfl⟩ := h <;> rw [ht] <;> rfl

theorem seqLater_self (a : Nat) : seqLater a a = false := by
  unfold seqLater seqSub
  have : (a + 2 ^ 16 - a % 2 ^ 16) % 2 ^ 16 = 0 := by omega
  rw [this]
  decide

/-- An idle block in sequence, with neither a NAK nor a credit return: its ACK leaves the window the later blocks. -/
theorem State.blockContent_idle {s : State} {l : Nat} {b : List Byte} (hup : s.lstate l = 5) (h1 : leAt b 256 10 % 4 = 1)
    (hq : bits (leAt b 256 10) 2 16 = (s.link l).rxNext) (hn : bit (leAt b 256 10) 34 = false)
    (hc1 : bits (leAt b 256 10) 54 6 = 0) (hc2 : bits (leAt b 256 10) 63 6 = 0) :
    s.blockContent l b = s.setLink l { s.link l with
      window := (s.link l).window.filter fun x => seqLater x.seq (bits (leAt b 256 10) 18 16) } := by
  have hcw : s.controlWord l (leAt b 256 10) = s.setLink l { s.link l with
      window := (s.link l).window.filter fun x => seqLater x.seq (bits (leAt b 256 10) 18 16) } := by
    unfold State.controlWord State.addCredit
    dsimp only
    rw [hc1, hc2, hn, if_pos rfl, if_pos rfl, if_neg Bool.false_ne_true]
  unfold State.blockContent
  dsimp only
  rw [if_neg (by omega), if_pos (by simp [State.linkUp_iff.2 hup, h1]), if_neg (by omega), hcw]
  unfold State.findMissing
  dsimp only
  rw [State.link_setLink_self]
  dsimp only
  rw [← hq, seqLater_self, if_neg Bool.false_ne_true]

theorem lineBlocksAreTaken : LineBlocksAreTaken := by
  intro l d p s hl
  refine ⟨fun h => ?_, fun hd hp => ?_, fun h2 h5 => ⟨fun hd => ?_, fun syms b hd hc => ?_, fun b hd hc => ⟨fun hs => ?_, fun c hs hw hcmd => ?_, fun w hs hw h1 hq hn hc1 hc2 => ?_⟩⟩⟩
  · rw [exec_lineBlockReceive hl, State.lineBlock_none d p h]
  · rw [hp]
    exact rsDecode_own hd
  · have hown := State.rd_bump_link_own s l (r := Lnk.FEC_UNCORR) 1 (by decide) rfl rfl
    have hst : (s.bump (pgLink l) Lnk.FEC_UNCORR).lstate l = s.lstate l :=
      State.rd_bump_link s l 1 (.inl (by decide)) (by decide) (by decide)
    have hlk : (s.bump (pgLink l) Lnk.FEC_UNCORR).link l = s.link l := State.link_of (State.bump_links ..) l
    refine ⟨_, exec_lineBlockReceive hl d p s, ?_⟩
    rw [State.lineBlock_lost h2 h5 hd]
    refine ⟨(State.rd_badBlock hl (by decide) (by decide) (.inl (by decide))).trans hown, fun hk => ?_, fun h7 h5' => ?_⟩
    · rw [State.badBlock_kept (by rwa [hlk, hst]), hlk]
      exact ⟨hst, State.link_setLink_self ..⟩
    · exact State.badBlock_fails hl (by rwa [hlk]) (by rwa [hst])
  · refine ⟨_, exec_lineBlockReceive hl d p s, ?_⟩
    rw [State.lineBlock_crc h2 h5 hd hc]
    obtain ⟨hlk1, hrd1, hcorr⟩ := State.corrected_rest s l syms
    have hown := State.rd_bump_link_own (s.corrected l syms) l (r := Lnk.CRC_FAIL) 1 (by decide) rfl rfl
    have hst : ((s.corrected l syms).bump (pgLink l) Lnk.CRC_FAIL).lstate l = s.lstate l :=
      (State.rd_bump_link (s.corrected l syms) l 1 (.inl (by decide)) (by decide) (by decide)).trans
        (hrd1 Lnk.LSTATE (by decide) (by decide) (by decide))
    have hlk : ((s.corrected l syms).bump (pgLink l) Lnk.CRC_FAIL).link l = s.link l :=
      State.link_of ((State.bump_links ..).trans hlk1) l
    refine ⟨?_, fun hlt => ?_, fun h7 h5' => State.badBlock_fails hl (by rwa [hlk]) (by rwa [hst])⟩
    · rw [State.rd_badBlock hl (by decide) (by decide) (.inl (by decide)), hown, hrd1 _ (by decide) (by decide) (by decide)]
    · rw [State.rd_badBlock hl (by decide) (by decide) (.inl (by decide)), ← hcorr hlt]
      exact State.rd_bump_link (s.corrected l syms) l 1 (.inl (by decide)) (by decide) (by decide)
  · refine ⟨_, exec_lineBlockReceive hl d p s, ?_⟩
    rw [State.lineBlock_good h2 h5 hd hc, State.goodBlock_lock b hs]
    by_cases h63 : (s.link l).goodRun = 63
    · rw [if_pos (by omega), if_pos h63, if_pos h63]
      obtain ⟨hst, hlk⟩ := State.lockAchieved_links (s := s.setLink l (s.link l).good) hl hs
      exact ⟨hlk.trans (by rw [State.link_setLink_self]; rfl), hst⟩
    · rw [if_neg (by omega), if_neg h63, if_neg h63]
      exact ⟨State.link_setLink_self .., hs⟩
  · have hup : (s.setLink l (s.link l).good).blockContent l b = (s.setLink l (s.link l).good).trainingBlock l (b.take 256) := by
      unfold State.blockContent
      exact if_pos hw
    rw [exec_lineBlockReceive hl, State.lineBlock_good h2 h5 hd hc, State.goodBlock_past b hs, hup]
    exact (State.trainingBlock_acts _ hcmd).symm
  · subst hw
    rw [exec_lineBlockReceive hl, State.lineBlock_good h2 h5 hd hc, State.goodBlock_past b (by omega),
      State.blockContent_idle (s := s.setLink l (s.link l).good) hs h1 (by rw [State.link_setLink_self]; exact hq) hn hc1 hc2,
      State.setLink_setLink, State.link_setLink_self]
    rfl

/-! ## Die-to-die retries -/

@[simp] theorem State.configFault_d2d (s : State) : s.configFault.d2d = s.d2d := rfl
@[simp] theorem State.configFault_belfry (s : State) : s.configFault.belfry = s.belfry := rfl

theorem keepCupola_id {k c : Nat} (hk : k < 4) (hc : c < 8) : isKeepKeep (0x40 + 8 * k + c) = false ∧
    isKeepCupola (0x40 + 8 * k + c) = true ∧ (0x40 + 8 * k + c - 0x40) / 8 = k ∧ (0x40 + 8 * k + c - 0x40) % 8 = c := by
  unfold isKeepKeep isKeepCupola
  refine ⟨by simp; omega, by simp; omega, by omega, by omega⟩

/-- A retry on a Keep–Cupola link before it is found to be the sixteenth: counted, charged to slack, its sender stopped. -/
def State.cupolaRetried (s : State) (k c dir n : Nat) (acked : Bool) : State :=
  let u := (s.countRetry (0x40 + 8 * k + c) dir (39 + cdiv n 4)).charge (0x40 + 8 * k + c) dir (39 + cdiv n 4)
  { u with
    d2d := AL.put u.d2d (0x40 + 8 * k + c, dir) {
      fails := if acked then 0 else (s.d2dDir (0x40 + 8 * k + c) dir).fails + 1,
      stopUntil := max (s.d2dDir (0x40 + 8 * k + c) dir).stopUntil s.clock + (39 + cdiv n 4) } }

section
variable {k c : Nat} (hk : k < 4) (hc : c < 8) (dir n : Nat) (acked : Bool) (s : State)
include hk hc

theorem State.d2dRetry_cupola : s.d2dRetry (0x40 + 8 * k + c) dir n acked =
    if 16 ≤ (s.d2dDir (0x40 + 8 * k + c) dir).fails + 1 && !acked then
      (((s.cupolaRetried k c dir n acked).wri (pgCupola c) Cup.KC_STATE k 3).err (pgCupola c) k).moduleFault
    else s.cupolaRetried k c dir n acked := by
  obtain ⟨h1, -, h3, h4⟩ := keepCupola_id hk hc
  unfold State.d2dRetry State.failD2d d2dCharge
  simp only [h1, h3, h4, Bool.false_eq_true, if_false]
  rfl

/-- The retry counted, with what it leaves (R77, R415). -/
theorem State.cupolaRetried_effect :
    (s.cupolaRetried k c dir n acked).rd (pgCupola c) Cup.KC_RETRY_CC k = (s.rd (pgCupola c) Cup.KC_RETRY_CC k + 39 + cdiv n 4) % 2 ^ 32 ∧
    (s.cupolaRetried k c dir n acked).belfry.charges = AL.put s.belfry.charges (0x40 + 8 * k + c, dir)
      (AL.getD s.belfry.charges (0x40 + 8 * k + c, dir) 0 + (39 + cdiv n 4)) ∧
    (s.cupolaRetried k c dir n acked).watch = s.watch := by
  obtain ⟨h1, -, h3, h4⟩ := keepCupola_id hk hc
  have hcount : (s.countRetry (0x40 + 8 * k + c) dir (39 + cdiv n 4)).rd (pgCupola c) Cup.KC_RETRY_CC k =
      (s.rd (pgCupola c) Cup.KC_RETRY_CC k + 39 + cdiv n 4) % 2 ^ 32 := by
    have hcc : (s.bumpi (pgCupola c) Cup.KC_RETRY_CC k (39 + cdiv n 4)).rd (pgCupola c) Cup.KC_RETRY_CC k =
        (s.rd (pgCupola c) Cup.KC_RETRY_CC k + 39 + cdiv n 4) % 2 ^ 32 := by
      rw [State.rd_bumpi_own _ _ (by decide) (by simp [pgCupola]) rfl, Nat.add_assoc]
      rfl
    unfold State.countRetry
    simp only [h1, h3, h4, Bool.false_eq_true, if_false]
    split
    · rw [State.rd_bumpi_same _ _ (.inl ?_) (by decide) (by decide) (by simp [pgCupola]), hcc]
      simp only [Cup.KC_RETRY_CC, Cup.KC_RETRY]
      omega
    · exact hcc
  have hbel : (s.countRetry (0x40 + 8 * k + c) dir (39 + cdiv n 4)).belfry = s.belfry ∧
      (s.countRetry (0x40 + 8 * k + c) dir (39 + cdiv n 4)).watch = s.watch := by
    unfold State.countRetry
    simp only [h1, h3, h4, Bool.false_eq_true, if_false]
    split <;> simp
  refine ⟨hcount, ?_, hbel.2⟩
  change AL.put (s.countRetry (0x40 + 8 * k + c) dir (39 + cdiv n 4)).belfry.charges _
    (AL.getD (s.countRetry (0x40 + 8 * k + c) dir (39 + cdiv n 4)).belfry.charges _ 0 + _) = _
  rw [hbel.1]

end

/-- What a link that fails for its retries keeps of the retry counted. -/
theorem State.failedD2d_effect (u : State) {k : Nat} (c : Nat) (hk : k < 4) :
    (((u.wri (pgCupola c) Cup.KC_STATE k 3).err (pgCupola c) k).moduleFault.rd (pgCupola c) Cup.KC_STATE k = 3) ∧
    errSet ((u.wri (pgCupola c) Cup.KC_STATE k 3).err (pgCupola c) k).moduleFault (pgCupola c) k ∧
    ((u.wri (pgCupola c) Cup.KC_STATE k 3).err (pgCupola c) k).moduleFault.watch.raised = u.watch.raised ++ [(2, 0)] ∧
    ((u.wri (pgCupola c) Cup.KC_STATE k 3).err (pgCupola c) k).moduleFault.rd (pgCupola c) Cup.KC_RETRY_CC k =
      u.rd (pgCupola c) Cup.KC_RETRY_CC k ∧
    ((u.wri (pgCupola c) Cup.KC_STATE k 3).err (pgCupola c) k).moduleFault.d2d = u.d2d ∧
    ((u.wri (pgCupola c) Cup.KC_STATE k 3).err (pgCupola c) k).moduleFault.belfry = u.belfry := by
  have hm : ∀ t : State, t.moduleFault = t.configFault := fun _ => rfl
  have herr : ∀ (t : State) {x : Reg} {j : Nat}, 0x100 ≤ x.off →
      (t.err (pgCupola c) k).rd (pgCupola c) x j = t.rd (pgCupola c) x j := fun t x j hx =>
    State.rd_err_block t _ _ hx (by simp [rkey, pgCupola, pgHost]) (by simp [rkey, pgCupola, pgKeep])
  refine ⟨?_, ?_, ?_, ?_, ?_, ?_⟩
  · rw [hm, State.configFault_rd, herr _ (by decide)]
    exact State.rd_wri_own _ _ (by decide) (by simp [pgCupola])
  · unfold errSet
    rw [hm, State.configFault_rd]
    exact State.err_bit _ _ _ (by omega)
  · rw [hm, State.configFault_raised]
    simp
  · rw [hm, State.configFault_rd, herr _ (by decide),
      State.rd_wri_same _ _ (.inl (by simp only [Cup.KC_RETRY_CC, Cup.KC_STATE]; omega)) (by decide) (by decide) (by simp [pgCupola])]
  · rw [hm, State.configFault_d2d]
    simp
  · rw [hm, State.configFault_belfry]
    simp

theorem dieLinksRetry : DieLinksRetry := by
  intro k c dir n acked s hk hc
  obtain ⟨-, hid, -, -⟩ := keepCupola_id hk hc
  refine ⟨fun h => ?_, fun h1 h64 => ?_⟩
  · simp only [exec, execD2dRetry]
    rw [if_neg (by simp; omega)]
  · refine ⟨s.d2dRetry (0x40 + 8 * k + c) dir n acked, ?_, ?_⟩
    · simp only [exec, execD2dRetry]
      rw [if_pos (by simp [hid, h1, h64])]
    · obtain ⟨hcc, hch, hw⟩ := State.cupolaRetried_effect hk hc dir n acked s
      have hdir : ∀ t : State, t.d2d = (s.cupolaRetried k c dir n acked).d2d → t.d2dDir (0x40 + 8 * k + c) dir =
          { fails := if acked then 0 else (s.d2dDir (0x40 + 8 * k + c) dir).fails + 1,
            stopUntil := max (s.d2dDir (0x40 + 8 * k + c) dir).stopUntil s.clock + 39 + cdiv n 4 } := by
        intro t ht
        unfold State.d2dDir
        rw [ht, Nat.add_assoc (max _ _)]
        exact AL.getD_put_self (κ := Nat × Nat) ..
      have hchg : ∀ t : State, t.belfry.charges = (s.cupolaRetried k c dir n acked).belfry.charges →
          AL.getD t.belfry.charges (0x40 + 8 * k + c, dir) 0 = AL.getD s.belfry.charges (0x40 + 8 * k + c, dir) 0 + 39 + cdiv n 4 := by
        intro t ht
        rw [ht, hch, AL.getD_put_self]
        exact (Nat.add_assoc ..).symm
      rw [State.d2dRetry_cupola hk hc]
      split
      · obtain ⟨f1, f2, f3, f4, f5, f6⟩ := State.failedD2d_effect (s.cupolaRetried k c dir n acked) c hk
        exact ⟨hdir _ f5, hchg _ (by rw [f6]), f4.trans hcc, fun _ _ => ⟨f1, f2, by rw [f3, hw]⟩⟩
      · rename_i hno
        refine ⟨hdir _ rfl, hchg _ rfl, hcc, fun ha h15 => absurd ?_ hno⟩
        simp [ha]
        omega

/-- Settles O37: the blocks by what the decoder says of them, the good ones by their type, and the retry counted before it is found
to be the sixteenth. -/
theorem lineBlocksAndDieLinks : Obligations.LineBlocksAndDieLinks := ⟨lineBlocksAreTaken, dieLinksRetry⟩

end Sys2Proof.Machine
end

section
/-! What the state changes of a link leave: its training (R70–R72), its failure and its return to DOWN. -/

namespace Sys2Proof.Machine

open Sys2Proof

/-! ## Fields that hardware writes as they are given -/

/-- A hardware update of a field that no freeze holds and that software does not clear is the field put. -/
theorem State.wri_eq_put (s : State) (p : PageId) (r : Reg) (i v : Nat) (h : heldKind r = false) (ha : r.acc ≠ .w1c) :
    s.wri p r i v = s.put p r i v := by
  have hb : ∀ old, risingBits r old v = 0 := fun old => by
    unfold risingBits
    split
    · exact absurd ‹_› ha
    · rfl
  unfold State.wri State.updi
  rw [hb, h]
  rfl

/-- A state change that raises no event: LSTATE put, the clock kept. -/
theorem State.setLstate_quiet (s : State) (l : Nat) {v : Nat} (h5 : v ≠ 5) (h6 : v ≠ 6) :
    s.setLstate l v = (s.setLink l { s.link l with since := s.clock }).put (pgLink l) Lnk.LSTATE 0 v := by
  unfold State.setLstate
  rw [if_neg (by omega)]
  exact State.wri_eq_put _ _ _ _ _ rfl (by decide)

theorem State.setLstate_links (s : State) (l v : Nat) :
    (s.setLstate l v).links = (s.setLink l { s.link l with since := s.clock }).links := by
  unfold State.setLstate
  dsimp only
  split <;> simp

theorem State.link_setLstate (s : State) (l v : Nat) : (s.setLstate l v).link l = { s.link l with since := s.clock } := by
  rw [State.link_of (State.setLstate_links s l v), State.link_setLink_self]

/-! ## Training goes on -/

/-- Training blocks sent one after another. -/
def State.sendTrainings (s : State) (l : Nat) (o : List Training) : State := o.foldl (fun t x => t.sendTraining l x) s

theorem State.sendTrainings_eq (l : Nat) : ∀ (o : List Training) (s : State),
    s.sendTrainings l o = { s with out := s.out ++ o.map (s.trainingOut l) }
  | [], s => by simp [State.sendTrainings]
  | x :: o, s => by
    have ih := State.sendTrainings_eq l o (s.sendTraining l x)
    unfold State.sendTrainings at ih ⊢
    rw [List.foldl_cons, ih]
    simp [State.sendTraining, State.emit, State.trainingOut]

/-- A training state entered, with the training blocks that leave then. -/
theorem trains_setLstate (u : State) (l : Nat) {v : Nat} (hv : v < 5) (o : List Training) :
    trains u ((u.setLstate l v).sendTrainings l o) l v o := by
  rw [State.sendTrainings_eq, State.setLstate_quiet u l (by omega) (by omega)]
  refine ⟨?_, rfl, fun p r i hk => ?_, rfl⟩
  · exact (State.rd_put_self (u.setLink l { u.link l with since := u.clock }) (pgLink l) Lnk.LSTATE 0 v rfl).trans
      (Nat.mod_eq_of_lt (Nat.lt_trans hv (by decide)))
  · exact State.rd_put_block (u.setLink l { u.link l with since := u.clock }) v hk (by decide) (pgLink_trip l)

/-! ## DOWN is left -/

theorem State.tryStart_starts {s : State} {l : Nat} (h0 : s.lstate l = 0) (hs : (s.link l).signal = true) (hm : s.mayTrain l = true) :
    s.tryStart l = ((s.setLink l { Link.idle with signal := true, msgs := (s.link l).msgs }).setLstate l 1).sendTrainings l
      [{ trType := 1 }] := by
  unfold State.tryStart
  exact if_pos (by simp [h0, hs, hm])

theorem State.tryStart_stays {s : State} {l : Nat} (h : s.lstate l ≠ 0 ∨ (s.link l).signal = false ∨ s.mayTrain l = false) :
    s.tryStart l = s := by
  unfold State.tryStart
  refine if_neg ?_
  simp only [Bool.and_eq_true, decide_eq_true_eq, not_and, Bool.not_eq_true]
  rintro ⟨h0, hs⟩
  rcases h with h | h | h
  · exact absurd h0 h
  · rw [h] at hs
    cases hs
  · exact h

/-! ## CREDIT is entered -/

/-- Shared cells taken for a link change nothing but its shared cells. -/
theorem State.takeShareds_rest (l : Nat) : ∀ (vs : List Nat) (s : State),
    vs.foldl (fun t v => t.takeShared l v) s = { s with links := (vs.foldl (fun t v => t.takeShared l v) s).links } ∧
    (vs.foldl (fun t v => t.takeShared l v) s).link l =
      { s.link l with shared := ((vs.foldl (fun t v => t.takeShared l v) s).link l).shared }
  | [], _ => ⟨rfl, rfl⟩
  | v :: vs, s => by
    obtain ⟨h1, h2⟩ := State.takeShareds_rest l vs (s.takeShared l v)
    have hl : (s.takeShared l v).link l = { s.link l with shared := ((s.takeShared l v).link l).shared } := by
      unfold State.takeShared
      dsimp only
      rw [State.link_setLink_self]
    refine ⟨h1.trans rfl, ?_⟩
    rw [List.foldl_cons]
    rw [hl] at h2
    exact h2

/-- A link that enters CREDIT: the state with the cells taken, and the grant that leaves then. -/
def State.toCredit (s : State) (l : Nat) : State := (linkVcs l).foldl (fun t v => t.takeShared l v) (s.setLstate l 4)

theorem State.tryCredit_cases (s : State) (l : Nat) : s.tryCredit l = s ∨
    (s.lstate l = 3 ∧ (s.link l).rtts.length = 16 ∧ (s.link l).peerOk = true ∧
      s.tryCredit l = (s.toCredit l).sendTraining l { trType := 5, credits := (s.toCredit l).grantOf l }) := by
  unfold State.tryCredit
  dsimp only
  split
  · rename_i h
    simp only [Bool.and_eq_true, decide_eq_true_eq] at h
    obtain ⟨⟨⟨⟨h3, h16⟩, hp⟩, -⟩, -⟩ := h
    exact .inr ⟨h3, h16, hp, rfl⟩
  · exact .inl rfl

/-- An attempt at CREDIT changes no field but LSTATE, and nothing else of the link but its clock and its shared cells. -/
theorem State.tryCredit_rest (s : State) (l : Nat) : regsKept (· = rkey (pgLink l) Lnk.LSTATE 0) s (s.tryCredit l) ∧
    ((s.tryCredit l).link l).peerOk = (s.link l).peerOk ∧ ((s.tryCredit l).link l).rtts = (s.link l).rtts := by
  obtain h | ⟨-, -, -, h⟩ := State.tryCredit_cases s l
  · rw [h]
    exact ⟨fun _ _ _ _ => rfl, rfl, rfl⟩
  · obtain ⟨h1, h2⟩ := State.takeShareds_rest l (linkVcs l) (s.setLstate l 4)
    rw [State.link_setLstate] at h2
    rw [h]
    refine ⟨fun p r i hk => ?_, ?_, ?_⟩
    · change (s.toCredit l).rd p r i = _
      unfold State.toCredit
      rw [h1, State.setLstate_quiet s l (by decide) (by decide)]
      exact State.rd_put_block (s.setLink l { s.link l with since := s.clock }) 4 hk (by decide) (pgLink_trip l)
    · change ((s.toCredit l).link l).peerOk = _
      unfold State.toCredit
      rw [h2]
    · change ((s.toCredit l).link l).rtts = _
      unfold State.toCredit
      rw [h2]

/-- An attempt at CREDIT from LAT stays there or sends the grant. -/
theorem State.tryCredit_grants {z s : State} {l : Nat} (h3 : s.lstate l = 3) (ho : s.out = z.out) (hc : s.clock = z.clock) :
    grantsOrWaits z (s.tryCredit l) l ∧
      ((s.link l).peerOk = false ∨ (s.link l).rtts.length ≠ 16 → (s.tryCredit l).lstate l = 3) := by
  obtain ⟨-, hp, hr⟩ := State.tryCredit_rest s l
  obtain h | ⟨-, h16, hpo, h⟩ := State.tryCredit_cases s l
  · rw [h]
    exact ⟨.inl ⟨h3, ho⟩, fun _ => h3⟩
  · obtain ⟨h1, -⟩ := State.takeShareds_rest l (linkVcs l) (s.setLstate l 4)
    have hq := State.setLstate_quiet s l (v := 4) (by decide) (by decide)
    have hout : (s.toCredit l).out = z.out ∧ (s.toCredit l).clock = z.clock := by
      unfold State.toCredit
      rw [h1, hq]
      exact ⟨ho, hc⟩
    have hst : (s.toCredit l).lstate l = 4 := by
      unfold State.toCredit
      rw [h1]
      exact State.lstate_setLstate s l 4
    refine ⟨.inr ⟨by rw [h]; exact hst, hp.trans hpo, by rw [hr, h16], ?_⟩, fun hn => ?_⟩
    · rw [h]
      change (s.toCredit l).out ++ [.block l { body := .training _ }] = _
      rw [hout.1, hout.2]
      rfl
    · rcases hn with hn | hn
      · rw [hpo] at hn
        cases hn
      · exact absurd h16 hn

/-! ## A link is dropped -/

/-- Whatever the open plane, a counter and error event of a Keep, and the credits of a link leave alone, a dropped link leaves as
its emptied link leaves it. -/
theorem State.dropLink_of {β : Type} (g : State → β) (h1 : ∀ t o, g (State.setOpn t o) = g t)
    (h2 : ∀ t k, g (State.fwdPoison t k) = g t) (s : State) (l : Nat)
    (h3 : ∀ t v, g (State.wri t (pgLink l) Lnk.CRED_AVAIL v 0) = g t) :
    g (s.dropLink l) = g (s.setLink l { Link.idle with signal := (s.link l).signal, msgs := if l < 16 then (s.link l).msgs else [] }) := by
  unfold State.dropLink
  dsimp only
  exact foldl_of g _ (fun t v => (State.endInput_of g h1 h2 _ l v).trans (h3 t v)) _ _

theorem State.dropLink_links (s : State) (l : Nat) : (s.dropLink l).links =
    (s.setLink l { Link.idle with signal := (s.link l).signal, msgs := if l < 16 then (s.link l).msgs else [] }).links :=
  State.dropLink_of (·.links) (fun _ _ => rfl) (fun t k => by simp [State.fwdPoison]) s l fun t v => by simp

theorem State.dropLink_same (s : State) (l : Nat) : (s.dropLink l).clock = s.clock ∧ (s.dropLink l).out = s.out ∧
    (s.dropLink l).belfry = s.belfry ∧ (s.dropLink l).power = s.power ∧ (s.dropLink l).watch = s.watch := by
  have h := State.dropLink_of (fun t => (t.clock, t.out, t.belfry, t.power, t.watch)) (fun _ _ => rfl)
    (fun t k => by simp [State.fwdPoison]) s l fun t v => by simp
  simpa using h

/-! ## What may hold a link -/

/-- Whether a link may train rests on its enables and loopback, the coordinates and extents of the Keeps, the period change that
is refused and the power domains. -/
theorem State.mayTrain_of {s t : State} {l : Nat}
    (hl : ∀ x : Reg, x = Lnk.EN ∨ x = Hdr.EN ∨ x = Lnk.LOOPBACK → t.rd (pgLink l) x 0 = s.rd (pgLink l) x 0)
    (hk : ∀ (k : Nat) (x : Reg), x = Kr.COORD ∨ x = Kr.EXTENT → t.rd (pgKeep k) x 0 = s.rd (pgKeep k) x 0)
    (hb : t.belfry = s.belfry) (hp : t.power = s.power) : t.mayTrain l = s.mayTrain l := by
  have hc : t.coord = s.coord := hk 0 _ (.inl rfl)
  have he : t.extent = s.extent := hk 0 _ (.inr rfl)
  have hd : t.cfgDisagree = s.cfgDisagree := by
    unfold State.cfgDisagree
    simp only [hk _ Kr.COORD (by simp), hk _ Kr.EXTENT (by simp), hc, he]
  unfold State.mayTrain State.deadDim State.domState State.rdb
  rw [hl Lnk.EN (by simp), hl Hdr.EN (by simp), hl Lnk.LOOPBACK (by simp), hd, hb, he, hp]

/-- EN of a page's header reads as before a write of a block field of any page. -/
theorem State.rd_wri_hdrEn (s : State) {p q : PageId} {r : Reg} {i : Nat} (v : Nat) (hr : 0x100 ≤ r.off) (ht : p.ty ≠ 0x51) :
    (s.wri p r i v).rd q Hdr.EN 0 = s.rd q Hdr.EN 0 := by
  have ho : 0x100 ≤ r.off + r.stride * i := Nat.le_trans hr (Nat.le_add_right _ _)
  refine State.rd_wri_ne s v ?_ ?_ ?_
  · intro e
    simp only [rkey, RegKey.mk.injEq] at e
    have : Hdr.EN.off + Hdr.EN.stride * 0 < 0x100 := by decide
    omega
  · intro e
    simp only [rkey, RegKey.mk.injEq] at e
    exact absurd e.2.2.1 (by decide)
  · rintro (e | e)
    · simp only [rkey, RegKey.mk.injEq] at e
      have : Hdr.FREEZE.off + Hdr.FREEZE.stride * 0 < 0x100 := by decide
      omega
    · simp only [rkey, RegKey.mk.injEq] at e
      exact ht e.1

/-- An error event of a Keep leaves EN of a link's header as it reads. -/
theorem State.rd_err_linkEn (s : State) (k c l : Nat) : (s.err (pgKeep k) c).rd (pgLink l) Hdr.EN 0 = s.rd (pgLink l) Hdr.EN 0 := by
  have hp : ∀ q : PageId, pgLink l ≠ q → ¬ ((rkey (pgLink l) Hdr.EN 0).ty = q.ty ∧ (rkey (pgLink l) Hdr.EN 0).inst = q.inst) :=
    fun q hq e => hq (PageId.eq_of_key e.1 e.2)
  refine State.rd_err s _ c ?_
  rintro ((e | e | e | e) | ⟨-, e | e | e⟩)
  · exact pgLink_ne_host l (rkey_page e)
  · exact pgLink_ne_keep l 3 (rkey_page e)
  · exact pgLink_ne_host l (rkey_page e)
  · exact pgLink_ne_keep l 3 (rkey_page e)
  · exact hp _ (pgLink_ne_keep l k) e
  · exact hp _ (pgLink_ne_host l) e
  · exact hp _ (pgLink_ne_keep l 3) e

theorem State.rd_fwdPoison_keep (s : State) (j k : Nat) {x : Reg} (hx : 0x100 ≤ x.off)
    (h : x.off + x.stride * 0 ≠ 0x3C8 ∧ x.off + x.stride * 0 ≠ Opn.FWD_POISON.off) :
    (s.fwdPoison j).rd (pgKeep k) x 0 = s.rd (pgKeep k) x 0 := by
  unfold State.fwdPoison
  rw [State.rd_err_keep _ _ _ hx h.1]
  by_cases hk : k = j
  · subst hk
    exact State.rd_bumpi_same s 1 (.inl h.2) hx (by decide) (by simp [pgKeep])
  · exact State.rd_bumpi_other s 1 (fun e => hk (pgKeep_inj.1 e)) (by decide) (by simp [pgKeep])

/-- A dropped link may train as before. -/
theorem State.mayTrain_dropLink (s : State) (l : Nat) : (s.dropLink l).mayTrain l = s.mayTrain l := by
  obtain ⟨-, -, hb, hp, -⟩ := State.dropLink_same s l
  refine State.mayTrain_of (fun x hx => ?_) (fun k x hx => ?_) hb hp
  · rcases hx with rfl | rfl | rfl
    · exact State.rd_dropLink s l (by decide) (.inr (by decide))
    · exact (State.dropLink_of (·.rd (pgLink l) Hdr.EN 0) (fun _ _ => rfl)
        (fun t k => (State.rd_err_linkEn _ k 19 l).trans (State.rd_wri_hdrEn t _ (by decide) (by simp [pgKeep]))) s l
        fun t v => State.rd_wri_hdrEn t _ (by decide) (pgLink_trip l)).trans rfl
    · exact State.rd_dropLink s l (by decide) (.inr (by decide))
  · have hoff : 0x100 ≤ x.off ∧ x.off + x.stride * 0 ≠ 0x3C8 ∧ x.off + x.stride * 0 ≠ Opn.FWD_POISON.off := by
      rcases hx with rfl | rfl <;> decide
    exact (State.dropLink_of (·.rd (pgKeep k) x 0) (fun _ _ => rfl) (fun t j => State.rd_fwdPoison_keep t j k hoff.1 hoff.2) s l
      fun t v => State.rd_wri_other t _ (pgLink_ne_keep l k).symm (by decide) (pgLink_trip l)).trans rfl

/-- A state change without event leaves what holds a link. -/
theorem State.mayTrain_setLstate (s : State) (l : Nat) {v : Nat} (hv : v < 5) : (s.setLstate l v).mayTrain l = s.mayTrain l := by
  rw [State.setLstate_quiet s l (by omega) (by omega)]
  have hput : ∀ (p : PageId) (x : Reg), rkey p x 0 ≠ rkey (pgLink l) Lnk.LSTATE 0 →
      ((s.setLink l { s.link l with since := s.clock }).put (pgLink l) Lnk.LSTATE 0 v).rd p x 0 = s.rd p x 0 := fun p x h =>
    State.rd_put_block (s.setLink l { s.link l with since := s.clock }) v h (by decide) (pgLink_trip l)
  refine State.mayTrain_of (fun x hx => hput _ _ fun e => ?_) (fun k x _ => hput _ _ fun e => (pgLink_ne_keep l k) (rkey_page e).symm)
    rfl rfl
  simp only [rkey, RegKey.mk.injEq] at e
  rcases hx with rfl | rfl | rfl <;> exact absurd e.2.2.1 (by decide)

/-! ## A link fails -/

theorem State.link_dropped (s : State) (l v : Nat) :
    ((s.dropLink l).setLstate l v).link l = s.cleared l (if l < 16 then (s.link l).msgs else []) := by
  rw [State.link_setLstate, State.link_of (State.dropLink_links s l), State.link_setLink_self, (State.dropLink_same s l).1]
  rfl

/-- The shared cells that go back to the pool with cells freed (R122). -/
def State.sharedClosed (s : State) (l vc n : Nat) : Nat :=
  if s.poolCells (keepOfLink l) < s.poolUsed (keepOfLink l) then min n (AL.getD (s.link l).shared vc 0) else 0

/-- The state when shared cells have gone back to the pool. -/
def State.closeShared (s : State) (l vc n : Nat) : State :=
  if s.sharedClosed l vc n = 0 then s
  else s.setLink l { s.link l with shared := AL.put (s.link l).shared vc (AL.getD (s.link l).shared vc 0 - s.sharedClosed l vc n) }

/-- Cells freed: shared cells go back to the pool while cells are closed to allocation, the rest as credits to the sender. -/
theorem State.returnCredit_eq (s : State) (l vc n : Nat) : s.returnCredit l vc n =
    if s.linkUp l && s.sharedClosed l vc n < n then (s.closeShared l vc n).sendIdle l none [(vc, n - s.sharedClosed l vc n)]
    else s.closeShared l vc n := rfl

theorem State.link_closeShared {s : State} {l : Nat} (h : (s.link l).shared = []) (i v n : Nat) :
    (s.closeShared i v n).link l = s.link l := by
  unfold State.closeShared
  by_cases hi : l = i
  · subst hi
    have h0 : s.sharedClosed l v n = 0 := by
      unfold State.sharedClosed
      rw [h]
      split
      · exact Nat.min_zero n
      · rfl
    rw [if_pos h0]
  · split
    · rfl
    · rw [State.link_setLink, if_neg hi]

/-- The credits of cells freed change nothing of a link that has granted no shared cells. -/
theorem State.link_returnCredit {s : State} {l : Nat} (h : (s.link l).shared = []) (i v n : Nat) :
    (s.returnCredit i v n).link l = s.link l := by
  rw [State.returnCredit_eq]
  split
  · exact State.link_closeShared h i v n
  · exact State.link_closeShared h i v n

theorem State.links_discardQueued (s : State) (k o : Nat) : (s.discardQueued k o).links = s.links := by
  have hf : ∀ t : State, ((List.range 8).foldl (fun u v => u.setQueue k o v EgressQ.empty) t).links = t.links :=
    fun t => foldl_of (fun u : State => u.links) (fun u v => u.setQueue k o v EgressQ.empty) (fun _ _ => rfl) _ t
  unfold State.discardQueued
  dsimp only
  split
  · exact hf s
  · rw [State.err_links, State.bump_links]
    exact hf s

theorem State.link_releaseReady {l : Nat} : ∀ (rs : List Ready) (s : State), (s.link l).shared = [] →
    (s.releaseReady rs).link l = s.link l
  | [], _, _ => rfl
  | r :: rs, s, h => by
    have h1 : (match r.buf with
        | some (i, v) => s.returnCredit i v r.flit.cells
        | none => s).link l = s.link l := by
      split
      · exact State.link_returnCredit h _ _ _
      · rfl
    have ih := State.link_releaseReady rs _ (show ((match r.buf with
        | some (i, v) => s.returnCredit i v r.flit.cells
        | none => s).link l).shared = [] by rw [h1, h])
    exact ih.trans h1

/-- A dropped output leaves its link without flits of its own. -/
theorem State.link_dropOutput {s : State} {l : Nat} (h : (s.link l).shared = []) :
    (s.dropOutput l).link l = { s.link l with msgs := [] } := by
  have hd : (s.discardQueued (keepOfLink l) (outOfLink l)).link l = s.link l := State.link_of (State.links_discardQueued ..) l
  unfold State.dropOutput State.dropOwn
  dsimp only
  rw [State.link_setLink_self, State.link_releaseReady _ _ (by rw [hd, h]), hd]

theorem State.opn_releaseReady : ∀ (rs : List Ready) (s : State), (s.releaseReady rs).opn = s.opn := by
  intro rs s
  refine foldl_of (·.opn) _ (fun t r => ?_) rs s
  split
  · unfold State.returnCredit State.sendIdle
    dsimp only
    repeat' split
    all_goals rfl
  · rfl

theorem State.queue_setQueue (s : State) (k o v : Nat) (q : EgressQ) (v' : Nat) :
    (s.setQueue k o v q).queue k o v' = if v' = v then q else s.queue k o v' := by
  unfold State.queue State.setQueue State.setOpn AL.getD
  dsimp only
  split
  · rename_i h
    rw [h, AL.get_put_self]
    rfl
  · rename_i h
    rw [AL.get_put_ne _ _ (by simpa using h)]

theorem State.queue_emptied {k o v : Nat} : ∀ (vs : List Nat) (s : State), (v ∈ vs ∨ s.queue k o v = EgressQ.empty) →
    (vs.foldl (fun u w => u.setQueue k o w EgressQ.empty) s).queue k o v = EgressQ.empty
  | [], _, h => by simpa using h
  | w :: vs, s, h => by
    refine State.queue_emptied vs _ ?_
    by_cases hw : v = w
    · exact .inr (by rw [State.queue_setQueue, if_pos hw])
    · rcases h with h | h
      · exact .inl ((List.mem_cons.1 h).resolve_left hw)
      · exact .inr (by rw [State.queue_setQueue, if_neg hw, h])

/-- The queues of a dropped output are empty. -/
theorem State.queue_dropOutput (s : State) (l : Nat) {v : Nat} (hv : v < 8) :
    (s.dropOutput l).queue (keepOfLink l) (outOfLink l) v = EgressQ.empty := by
  have he : ((List.range 8).foldl (fun u w => u.setQueue (keepOfLink l) (outOfLink l) w EgressQ.empty) s).queue (keepOfLink l)
      (outOfLink l) v = EgressQ.empty := State.queue_emptied _ s (.inl (List.mem_range.2 hv))
  have hd : (s.discardQueued (keepOfLink l) (outOfLink l)).opn.egress =
      ((List.range 8).foldl (fun u w => u.setQueue (keepOfLink l) (outOfLink l) w EgressQ.empty) s).opn.egress := by
    unfold State.discardQueued
    dsimp only
    split
    · rfl
    · rw [State.err_opn, State.bump_opn]
      rfl
  have ho : (s.dropOutput l).opn.egress = (s.discardQueued (keepOfLink l) (outOfLink l)).opn.egress := by
    unfold State.dropOutput State.dropOwn
    dsimp only
    rw [State.setLink_opn, State.setOpn_opn, State.opn_releaseReady]
  unfold State.queue at he ⊢
  rw [ho, hd, he]

theorem State.failLink_endpoint {s : State} {l : Nat} (h : s.lstate l ≠ 6) (hl : l < 16) :
    s.failLink l = (s.dropLink l).setLstate l 6 := by
  unfold State.failLink
  rw [if_neg h, if_neg (by omega)]

theorem State.failLink_torus {s : State} {l : Nat} (h : s.lstate l ≠ 6) (hl : 16 ≤ l) :
    s.failLink l = (((s.dropLink l).setLstate l 6).dropOutput l).reportLink (l - 16) := by
  unfold State.failLink
  rw [if_neg h]
  exact if_pos hl

/-- A report that is made changes, of links, the message queues of those that are UP. -/
theorem State.link_holdReport {s : State} {l : Nat} (h : s.lstate l ≠ 5) (r : Report) (a b : Option Nat) :
    (s.holdReport r a b).link l = s.link l := by
  unfold State.holdReport State.openRound
  split
  · rfl
  · dsimp only
    rw [(State.flood_eq _ _ _ _).2, if_neg]
    · rfl
    · rintro ⟨-, -, hup, -⟩
      exact h (State.linkUp_iff.1 hup)

theorem State.lstate_dropOutput (s : State) (l : Nat) : (s.dropOutput l).lstate l = s.lstate l :=
  State.rd_dropOutput s l l (by decide)

/-- A failed link has kept its signal, and an endpoint's Turret the replies that it has made. -/
theorem State.link_failLink {s : State} {l : Nat} (h : s.lstate l ≠ 6) :
    (s.failLink l).link l = s.cleared l (if l < 16 then (s.link l).msgs else []) := by
  have hd := State.link_dropped s l 6
  by_cases hl : l < 16
  · rw [State.failLink_endpoint h hl, hd]
  · rw [State.failLink_torus h (by omega)]
    unfold State.reportLink State.reportLinkAt
    rw [State.link_holdReport, State.link_dropOutput, hd, if_neg hl]
    · rfl
    · rw [hd]
      rfl
    · rw [State.lstate_dropOutput, State.lstate_setLstate]
      decide

/-- A failed link has no credits. -/
theorem State.cred_dropLink (s : State) (l : Nat) {v : Nat} (hv : v < 8) : (s.dropLink l).rd (pgLink l) Lnk.CRED_AVAIL v = 0 := by
  have hstep : ∀ (t : State) (w : Nat), ((t.wri (pgLink l) Lnk.CRED_AVAIL w 0).endInput l w).rd (pgLink l) Lnk.CRED_AVAIL v =
      if v = w then 0 else t.rd (pgLink l) Lnk.CRED_AVAIL v := by
    intro t w
    rw [State.endInput_of (·.rd (pgLink l) Lnk.CRED_AVAIL v) (fun _ _ => rfl) (fun u k => State.rd_fwdPoison u k l (by decide))]
    split
    · rename_i h
      subst h
      exact State.rd_wri_own t 0 (by decide) (pgLink_trip l)
    · refine State.rd_wri_same t 0 (.inl ?_) (by decide) (by decide) (pgLink_trip l)
      simp only [Lnk.CRED_AVAIL]
      omega
  have hall : ∀ (vs : List Nat) (t : State), (v ∈ vs ∨ t.rd (pgLink l) Lnk.CRED_AVAIL v = 0) →
      (vs.foldl (fun u w => (u.wri (pgLink l) Lnk.CRED_AVAIL w 0).endInput l w) t).rd (pgLink l) Lnk.CRED_AVAIL v = 0 := by
    intro vs
    induction vs with
    | nil => exact fun t h => by simpa using h
    | cons w vs ih =>
      intro t h
      refine ih _ ?_
      rw [hstep]
      by_cases hw : v = w
      · exact .inr (if_pos hw)
      · rw [if_neg hw]
        exact h.imp (fun h => (List.mem_cons.1 h).resolve_left hw) id
  unfold State.dropLink
  exact hall _ _ (.inl (List.mem_range.2 hv))

theorem State.cred_failLink {s : State} {l : Nat} (h : s.lstate l ≠ 6) {v : Nat} (hv : v < 8) :
    (s.failLink l).rd (pgLink l) Lnk.CRED_AVAIL v = 0 := by
  have hset : ((s.dropLink l).setLstate l 6).rd (pgLink l) Lnk.CRED_AVAIL v = 0 := by
    rw [State.rd_setLstate _ _ _ (by decide) (.inl (by simp only [Lnk.CRED_AVAIL, Lnk.LSTATE]; omega)), State.cred_dropLink s l hv]
  by_cases hl : l < 16
  · rw [State.failLink_endpoint h hl, hset]
  · rw [State.failLink_torus h (by omega), State.rd_reportLink, State.rd_dropOutput _ _ _ (by decide), hset]

end Sys2Proof.Machine
end

section
/-! Training of a link (R70–R72). -/

namespace Sys2Proof.Machine

open Sys2Proof

/-! ## Training fails -/

theorem State.link_err (s : State) (q : PageId) (c l : Nat) : (s.err q c).link l = s.link l := State.link_of (State.err_links ..) l

theorem State.cleared_err (s : State) (q : PageId) (c l : Nat) (m : List Flit) : (s.err q c).cleared l m = s.cleared l m := by
  unfold State.cleared
  rw [State.link_err, State.err_clock]

/-- A link that fails with an error of its page: FAILED, its bit set, and what it held gone (R70). -/
theorem State.errFail_effect {s : State} {l i : Nat} (h : s.lstate l ≠ 6) (hi : i < 32) :
    ((s.err (pgLink l) i).failLink l).lstate l = 6 ∧ errSet ((s.err (pgLink l) i).failLink l) (pgLink l) i ∧
      ((s.err (pgLink l) i).failLink l).link l = s.cleared l (if l < 16 then (s.link l).msgs else []) := by
  refine ⟨State.lstate_failLink _ _, State.errSet_failLink (State.err_bit _ _ _ hi), ?_⟩
  rw [State.link_failLink (by rwa [State.lstate_err]), State.cleared_err, State.link_err]

/-! ## Signal, EQ and LOCK -/

theorem State.lockAchieved_locked {s : State} {l : Nat} (hl : l < 0x16) (h : s.lstate l = 2) :
    s.lockAchieved l = (s.setLstate l 3).sendTrainings l
      [{ trType := 2 }, { trType := 4, ident := s.coord, dir := if l < 16 then 15 else l - 16 }] := by
  unfold State.lockAchieved
  exact if_pos (by simp [validLink_of hl, h])

theorem State.lockAchieved_else {s : State} {l : Nat} (h : s.lstate l ≠ 2) : s.lockAchieved l = s := by
  unfold State.lockAchieved
  exact if_neg (by simp [h])

/-! ## Round trips -/

/-- The state once sixteen round trips are known and LD is set (R71). -/
def State.roundTrips (s : State) (l : Nat) (rtts : List Nat) : State :=
  (s.setLink l { s.link l with rtts := rtts }).wr (pgLink l) Lnk.LD (ldOf rtts)

section
variable {s : State} {l : Nat} (hl : l < 0x16) (h3 : s.lstate l = 3) {echo hold : Nat}
include hl h3

/-- A round trip before the sixteenth: noted, and the next probe leaves (R71). -/
theorem State.probeEcho_next {rtts : List Nat} (hn : (s.link l).rtts.length < 16)
    (hr : rtts = (s.link l).rtts ++ [(s.clock + 2 ^ 32 - (echo + hold) % 2 ^ 32) % 2 ^ 32]) (h16 : rtts.length < 16) :
    s.probeEcho l echo hold = (s.setLink l { s.link l with rtts := rtts }).sendTraining l { trType := 2 } := by
  unfold State.probeEcho
  rw [if_pos (by simp [validLink_of hl, h3, hn])]
  dsimp only
  rw [← hr]
  exact if_neg (by omega)

/-- The sixteenth round trip: LD, and REPLAY_WIN or the failure (R71). -/
theorem State.probeEcho_last {rtts : List Nat} (hn : (s.link l).rtts.length < 16)
    (hr : rtts = (s.link l).rtts ++ [(s.clock + 2 ^ 32 - (echo + hold) % 2 ^ 32) % 2 ^ 32]) (h16 : rtts.length = 16) :
    s.probeEcho l echo hold =
      if 32768 < replayWin l (ldOf rtts) then (s.roundTrips l rtts).trainFail l
      else ((s.roundTrips l rtts).wr (pgLink l) Lnk.REPLAY_WIN (replayWin l (ldOf rtts))).tryCredit l := by
  unfold State.probeEcho
  rw [if_pos (by simp [validLink_of hl, h3, hn])]
  dsimp only
  rw [← hr]
  exact if_pos h16

end

theorem State.probeEcho_else {s : State} {l : Nat} (echo hold : Nat) (h : s.lstate l ≠ 3 ∨ 16 ≤ (s.link l).rtts.length) :
    s.probeEcho l echo hold = s := by
  unfold State.probeEcho
  refine if_neg ?_
  simp only [Bool.and_eq_true, decide_eq_true_eq]
  omega

/-- A field of a link's page other than LSTATE reads as before an attempt at CREDIT. -/
theorem State.rd_tryCredit (s : State) (l : Nat) {x : Reg} {i : Nat} (h : x.off + x.stride * i ≠ Lnk.LSTATE.off ∨ x.lo ≠ Lnk.LSTATE.lo) :
    (s.tryCredit l).rd (pgLink l) x i = s.rd (pgLink l) x i := by
  refine (State.tryCredit_rest s l).1 _ _ _ fun e => ?_
  simp only [rkey, RegKey.mk.injEq] at e
  obtain ⟨-, -, ho, hlo⟩ := e
  exact h.elim (fun h => h ho) (fun h => h hlo)

/-! ## Identity -/

/-- The state once a peer's identity is recorded (R72). -/
def State.peerSeen (s : State) (l ident dir : Nat) : State :=
  if l < 16 then s else (s.wr (pgLink l) Tor.PEER_COORD ident).wr (pgLink l) Tor.PEER_DIR dir

/-- The state once it is accepted. -/
def State.peerTaken (s : State) (l ident dir : Nat) : State :=
  let u := if l < 16 then s.peerSeen l ident dir else (s.peerSeen l ident dir).wr (pgLink l) Tor.PEER_VALID 1
  u.setLink l { u.link l with peerOk := true }

theorem State.identity_accepted {s : State} {l ident dir : Nat} (hl : l < 0x16) (h3 : s.lstate l = 3) (hp : s.peerOk l ident dir = true) :
    s.identity l ident dir = (s.peerTaken l ident dir).tryCredit l := by
  unfold State.identity
  rw [if_pos (by simp [validLink_of hl, h3]), hp]
  rfl

theorem State.identity_refused {s : State} {l ident dir : Nat} (hl : l < 0x16) (h3 : s.lstate l = 3) (hp : s.peerOk l ident dir = false) :
    s.identity l ident dir = (((s.peerSeen l ident dir).wr (pgLink l) Tor.PEER_VALID 0).err (pgLink l) 3).failLink l := by
  unfold State.identity
  rw [if_pos (by simp [validLink_of hl, h3]), hp]
  rfl

theorem State.identity_else {s : State} {l : Nat} (ident dir : Nat) (h3 : s.lstate l ≠ 3) : s.identity l ident dir = s := by
  unfold State.identity
  exact if_neg (by simp [h3])

theorem State.peerSeen_rest (s : State) (l ident dir : Nat) : sameBeyondRegs s (s.peerSeen l ident dir) ∧
    (s.peerSeen l ident dir).out = s.out ∧ (s.peerSeen l ident dir).lstate l = s.lstate l ∧
    (16 ≤ l → (s.peerSeen l ident dir).rd (pgLink l) Tor.PEER_COORD 0 = ident % 2 ^ 15) := by
  have hp := pgLink_trip l
  unfold State.peerSeen
  split
  · exact ⟨rfl, rfl, rfl, fun h => absurd h (by omega)⟩
  · refine ⟨sameBeyondRegs_trans (State.wr_beyond ..) (State.wr_beyond ..), by simp, ?_, fun _ => ?_⟩
    · unfold State.lstate
      rw [State.rd_wr_same _ _ (.inl (by decide)) (by decide) (by decide) hp,
        State.rd_wr_same _ _ (.inl (by decide)) (by decide) (by decide) hp]
    · rw [State.rd_wr_same _ _ (.inr (by decide)) (by decide) (by decide) hp]
      exact State.rd_wr_own _ _ (by decide) hp

theorem sameBeyondRegs.links {s t : State} (h : sameBeyondRegs s t) : t.links = s.links := by
  unfold sameBeyondRegs at h
  rw [h]

theorem sameBeyondRegs.clock {s t : State} (h : sameBeyondRegs s t) : t.clock = s.clock := by
  unfold sameBeyondRegs at h
  rw [h]

theorem State.peerTaken_rest (s : State) (l ident dir : Nat) :
    (s.peerTaken l ident dir).link l = { s.link l with peerOk := true } ∧ (s.peerTaken l ident dir).clock = s.clock ∧
    (s.peerTaken l ident dir).out = s.out ∧ (s.peerTaken l ident dir).lstate l = s.lstate l ∧
    (16 ≤ l → (s.peerTaken l ident dir).rd (pgLink l) Tor.PEER_COORD 0 = ident % 2 ^ 15 ∧
      (s.peerTaken l ident dir).rd (pgLink l) Tor.PEER_VALID 0 = 1) := by
  obtain ⟨hb, ho, hs, hc⟩ := State.peerSeen_rest s l ident dir
  have hp := pgLink_trip l
  unfold State.peerTaken
  dsimp only
  rw [State.link_setLink_self]
  split
  · exact ⟨by rw [State.link_of hb.links], hb.clock, ho, hs, fun h => absurd h (by omega)⟩
  · refine ⟨by rw [State.link_of ((State.wr_links ..).trans hb.links)], ?_, ?_, ?_, fun h => ⟨?_, ?_⟩⟩
    · rw [State.setLink_clock, State.wr_clock, hb.clock]
    · rw [State.setLink_out, State.wr_out, ho]
    · rw [← hs]
      exact State.rd_wr_same _ _ (.inl (by decide)) (by decide) (by decide) hp
    · rw [← hc h]
      exact State.rd_wr_same _ _ (.inr (by decide)) (by decide) (by decide) hp
    · exact State.rd_wr_own _ _ (by decide) hp

/-! ## The grant -/

/-- Links, register fields and outputs apart, the states are the same. -/
def sameBeyondLinks (s t : State) : Prop :=
  t = { s with out := t.out, regs := t.regs, hidden := t.hidden, trip := t.trip, rose := t.rose, links := t.links }

theorem sameBeyondLinks_trans {s t u : State} (h1 : sameBeyondLinks s t) (h2 : sameBeyondLinks t u) : sameBeyondLinks s u := by
  unfold sameBeyondLinks at *
  rw [h2, h1]

theorem sameBeyondRegs.links_apart {s t : State} (h : sameBeyondRegs s t) : sameBeyondLinks s t := by
  unfold sameBeyondRegs at h
  unfold sameBeyondLinks
  rw [h]

theorem sameBeyondLinks.clock {s t : State} (h : sameBeyondLinks s t) : t.clock = s.clock := by
  unfold sameBeyondLinks at h
  rw [h]

/-- The credits of one VC granted. -/
def State.grantVc (s : State) (l v c : Nat) : State := (s.wri (pgLink l) Lnk.CRED_INIT v c).setCred l v c

theorem State.grantVc_rest (s : State) (l v c : Nat) :
    sameBeyondLinks s (s.grantVc l v c) ∧
    (∀ j, j ≠ l → (s.grantVc l v c).link j = s.link j) ∧
    (s.grantVc l v c).link l = { s.link l with zeros := ((s.grantVc l v c).link l).zeros } := by
  have hlk : ∀ j, (s.wri (pgLink l) Lnk.CRED_INIT v c).link j = s.link j := State.link_of (State.wri_links ..)
  refine ⟨?_, fun j hj => ?_, ?_⟩
  · unfold State.grantVc State.setCred
    exact sameBeyondLinks_trans (State.wri_beyond ..).links_apart
      (sameBeyondLinks_trans (show sameBeyondLinks _ (State.setLink _ _ _) from rfl) (State.wri_beyond ..).links_apart)
  · unfold State.grantVc State.setCred
    rw [State.link_of (State.wri_links ..), State.link_setLink, if_neg hj, hlk]
  · unfold State.grantVc State.setCred
    rw [State.link_of (State.wri_links ..), State.link_setLink_self, hlk]

theorem State.rd_grantVc (s : State) (l v c w : Nat) :
    (s.grantVc l v c).rd (pgLink l) Lnk.CRED_AVAIL w = (if w = v then c % 2 ^ 16 else s.rd (pgLink l) Lnk.CRED_AVAIL w) ∧
    (s.grantVc l v c).rd (pgLink l) Lnk.CRED_INIT w = (if w = v then c % 2 ^ 16 else s.rd (pgLink l) Lnk.CRED_INIT w) := by
  have hp := pgLink_trip l
  have hset : ∀ (t : State) (x : Reg), (∀ y : Link, (t.setLink l y).rd (pgLink l) x w = t.rd (pgLink l) x w) := fun _ _ _ => rfl
  unfold State.grantVc State.setCred
  dsimp only
  by_cases hw : w = v
  · subst hw
    rw [if_pos rfl, if_pos rfl]
    refine ⟨State.rd_wri_own _ _ (by decide) hp, ?_⟩
    rw [State.rd_wri_same _ _ (.inr (by decide)) (by decide) (by decide) hp, hset]
    exact State.rd_wri_own _ _ (by decide) hp
  · rw [if_neg hw, if_neg hw]
    constructor
    · rw [State.rd_wri_same _ _ (.inl (by simp only [Lnk.CRED_AVAIL]; omega)) (by decide) (by decide) hp, hset,
        State.rd_wri_same _ _ (.inr (by decide)) (by decide) (by decide) hp]
    · rw [State.rd_wri_same _ _ (.inr (by decide)) (by decide) (by decide) hp, hset,
        State.rd_wri_same _ _ (.inl (by simp only [Lnk.CRED_INIT]; omega)) (by decide) (by decide) hp]

/-- The credits of a grant, VC by VC. -/
def State.grantVcs (s : State) (l : Nat) (c : Nat → Nat) (vs : List Nat) : State := vs.foldl (fun t v => t.grantVc l v (c v)) s

theorem State.grantVcs_rest (l : Nat) (c : Nat → Nat) : ∀ (vs : List Nat) (s : State),
    sameBeyondLinks s (s.grantVcs l c vs) ∧
    (∀ j, j ≠ l → (s.grantVcs l c vs).link j = s.link j) ∧
    (s.grantVcs l c vs).link l = { s.link l with zeros := ((s.grantVcs l c vs).link l).zeros }
  | [], _ => ⟨rfl, fun _ _ => rfl, rfl⟩
  | v :: vs, s => by
    obtain ⟨h1, h2, h3⟩ := State.grantVc_rest s l v (c v)
    obtain ⟨g1, g2, g3⟩ := State.grantVcs_rest l c vs (s.grantVc l v (c v))
    refine ⟨sameBeyondLinks_trans h1 g1, fun j hj => (g2 j hj).trans (h2 j hj), ?_⟩
    · change ((s.grantVc l v (c v)).grantVcs l c vs).link l = _
      rw [g3, h3]
      rfl

theorem State.rd_grantVcs (l : Nat) (c : Nat → Nat) (w : Nat) : ∀ (vs : List Nat) (s : State),
    (w ∈ vs ∨ (s.rd (pgLink l) Lnk.CRED_AVAIL w = c w % 2 ^ 16 ∧ s.rd (pgLink l) Lnk.CRED_INIT w = c w % 2 ^ 16)) →
    (s.grantVcs l c vs).rd (pgLink l) Lnk.CRED_AVAIL w = c w % 2 ^ 16 ∧
      (s.grantVcs l c vs).rd (pgLink l) Lnk.CRED_INIT w = c w % 2 ^ 16
  | [], _, h => h.resolve_left (by simp)
  | v :: vs, s, h => by
    refine State.rd_grantVcs l c w vs (s.grantVc l v (c v)) ?_
    obtain ⟨ha, hi⟩ := State.rd_grantVc s l v (c v) w
    by_cases hw : w = v
    · subst hw
      exact .inr ⟨ha.trans (if_pos rfl), hi.trans (if_pos rfl)⟩
    · rw [ha, hi, if_neg hw, if_neg hw]
      exact h.imp (fun h => (List.mem_cons.1 h).resolve_left hw) id

theorem State.creditGrant_granted {s : State} {l : Nat} (credits : List Nat) (hl : l < 0x16) (h4 : s.lstate l = 4) :
    s.creditGrant l credits = (s.grantVcs l (fun v => credits.getD v 0) (List.range 8)).setLstate l 5 := by
  unfold State.creditGrant
  exact if_pos (by simp [validLink_of hl, h4])

theorem State.creditGrant_else {s : State} {l : Nat} (credits : List Nat) (h4 : s.lstate l ≠ 4) : s.creditGrant l credits = s := by
  unfold State.creditGrant
  exact if_neg (by simp [h4])

/-- A state change changes nothing beyond its link, registers and reports. -/
theorem State.setLstate_beyond (s : State) (l v : Nat) :
    sameBeyondReports (s.setLink l { s.link l with since := s.clock }) (s.setLstate l v) := by
  unfold State.setLstate
  dsimp only
  split
  · apply sameBeyondReports_of <;> simp
  · exact (State.wr_beyond ..).reports

/-- What a grant that takes a link to UP leaves (R72, R78). -/
theorem State.creditGrant_effect {s : State} {l : Nat} (credits : List Nat) (hl : l < 0x16) (h4 : s.lstate l = 4) :
    (s.creditGrant l credits).lstate l = 5 ∧
    sameBeyondReports { s with links := (s.creditGrant l credits).links } (s.creditGrant l credits) ∧
    (∀ j, j ≠ l → (s.creditGrant l credits).link j = s.link j) ∧
    (s.creditGrant l credits).link l = { s.link l with since := s.clock, zeros := ((s.creditGrant l credits).link l).zeros } ∧
    ∀ v, v < 8 → (s.creditGrant l credits).rd (pgLink l) Lnk.CRED_AVAIL v = credits.getD v 0 % 2 ^ 16 ∧
      (s.creditGrant l credits).rd (pgLink l) Lnk.CRED_INIT v = credits.getD v 0 % 2 ^ 16 := by
  obtain ⟨h1, h2, h3⟩ := State.grantVcs_rest l (fun v => credits.getD v 0) (List.range 8) s
  have hrd := fun v hv => State.rd_grantVcs l (fun v => credits.getD v 0) v (List.range 8) s (.inl (List.mem_range.2 hv))
  have hck := h1.clock
  rw [State.creditGrant_granted credits hl h4]
  generalize s.grantVcs l (fun v => credits.getD v 0) (List.range 8) = u at h1 h2 h3 hrd hck
  have hlinks := State.setLstate_links u l 5
  refine ⟨State.lstate_setLstate u l 5, ?_, fun j hj => ?_, ?_, fun v hv => ?_⟩
  · have hb := State.setLstate_beyond u l 5
    unfold sameBeyondReports at *
    unfold sameBeyondLinks at h1
    rw [hb, h1]
    rfl
  · rw [State.link_of hlinks, State.link_setLink, if_neg hj, h2 j hj]
  · rw [State.link_setLstate, h3, hck]
  · obtain ⟨ha, hi⟩ := hrd v hv
    have hoff : ∀ x : Reg, x = Lnk.CRED_AVAIL ∨ x = Lnk.CRED_INIT → x.off + x.stride * v ≠ Lnk.LSTATE.off := by
      rintro x (rfl | rfl) <;> simp only [Lnk.CRED_AVAIL, Lnk.CRED_INIT, Lnk.LSTATE] <;> omega
    rw [State.rd_setLstate u l 5 (by decide) (.inl (hoff _ (.inl rfl))), State.rd_setLstate u l 5 (by decide) (.inl (hoff _ (.inr rfl)))]
    exact ⟨ha, hi⟩

/-! ## The statement -/

/-- Settles O35: each row by the states it names, and an attempt at CREDIT by whether the cells are free. -/
theorem linkTrainingMovesStates : Obligations.LinkTrainingMovesStates := by
  intro l s hl
  have hv := validLink_of hl
  refine ⟨?_, ?_, ?_, fun stamp hold => ?_, fun echo hold => ?_, fun ident dir => ?_, fun credits => ?_, ?_⟩
  · have hlk : (s.setLink l { s.link l with signal := true }).link l = { s.link l with signal := true } := State.link_setLink_self ..
    refine ⟨(s.setLink l { s.link l with signal := true }).tryStart l, by simp only [exec, execLinkSignalDetect, hv, if_true], ?_⟩
    by_cases h : s.lstate l = 0 ∧ s.mayTrain l = true
    · rw [State.tryStart_starts (s := s.setLink l { s.link l with signal := true }) h.1 (by rw [hlk]) h.2, hlk,
        State.setLink_setLink]
      refine ⟨?_, fun _ _ => trains_setLstate _ l (by decide) [_], fun hn => ?_⟩
      · have hs := State.link_setLstate (s.setLink l { Link.idle with signal := true, msgs := (s.link l).msgs }) l 1
        rw [State.link_setLink_self] at hs
        rw [State.sendTrainings_eq]
        exact congrArg Link.signal hs
      · rcases hn with hn | hn
        · exact absurd h.1 hn
        · rw [h.2] at hn
          cases hn
    · rw [State.tryStart_stays (s := s.setLink l { s.link l with signal := true })
        (by rcases not_and_or.1 h with h | h
            · exact .inl h
            · exact .inr (.inr (Bool.eq_false_iff.2 h)))]
      exact ⟨by rw [hlk], fun h0 hm => absurd ⟨h0, hm⟩ h, fun _ => rfl⟩
  · by_cases h : s.lstate l = 1
    · exact ⟨s.setLstate l 2, by simp [exec, execEqConverge, hv, h], fun _ => trains_setLstate s l (v := 2) (by decide) [],
        fun hn => absurd h hn⟩
    · exact ⟨s, by simp [exec, execEqConverge, h], fun h' => absurd h' h, fun _ => rfl⟩
  · refine ⟨s.lockAchieved l, rfl, State.lockAchieved_else, fun h => ?_⟩
    rw [State.lockAchieved_locked hl h]
    exact trains_setLstate s l (by decide) [_, _]
  · refine ⟨s.latencyProbe l stamp hold, rfl, fun h => ?_, fun h => ?_⟩
    · unfold State.latencyProbe
      exact if_pos (by simp [hv, h.1, h.2])
    · unfold State.latencyProbe
      exact if_neg (by simp; omega)
  · refine ⟨s.probeEcho l echo hold, rfl, State.probeEcho_else echo hold, fun rtts h3 hn hr => ⟨fun h16 => ?_, fun h16 => ?_⟩⟩
    · exact State.probeEcho_next hl h3 hn hr h16
    · have hp := pgLink_trip l
      have hst : (s.roundTrips l rtts).lstate l = 3 :=
        (State.rd_wr_same _ _ (.inl (by decide)) (by decide) (by decide) hp).trans h3
      have hld : (s.roundTrips l rtts).rd (pgLink l) Lnk.LD 0 = ldOf rtts % 2 ^ 24 := State.rd_wr_own _ _ (by decide) hp
      have hlk : (s.roundTrips l rtts).link l = { s.link l with rtts := rtts } := by
        unfold State.roundTrips
        rw [State.link_of (State.wr_links ..), State.link_setLink_self]
      have hout : (s.roundTrips l rtts).out = s.out ∧ (s.roundTrips l rtts).clock = s.clock := by
        unfold State.roundTrips
        simp
      rw [State.probeEcho_last hl h3 hn hr h16]
      generalize s.roundTrips l rtts = u at hst hld hlk hout
      by_cases hw : 32768 < replayWin l (ldOf rtts)
      · rw [if_pos hw]
        obtain ⟨h6, he, -⟩ := State.errFail_effect (s := u) (i := 0) (by rw [hst]; decide) (by decide)
        refine ⟨?_, fun _ => ⟨h6, he⟩, fun h => absurd hw (by omega)⟩
        unfold State.trainFail
        rw [State.rd_failLink _ _ (by decide) (.inr (by decide)) (.inl (by decide)), State.rd_err_link _ _ _ _ (by decide), hld]
      · rw [if_neg hw]
        have hst' : (u.wr (pgLink l) Lnk.REPLAY_WIN (replayWin l (ldOf rtts))).lstate l = 3 :=
          (State.rd_wr_same _ _ (.inl (by decide)) (by decide) (by decide) hp).trans hst
        have hlk' : (u.wr (pgLink l) Lnk.REPLAY_WIN (replayWin l (ldOf rtts))).link l = { s.link l with rtts := rtts } :=
          (State.link_of (State.wr_links ..) l).trans hlk
        obtain ⟨hg, hstay⟩ := State.tryCredit_grants (z := s) hst' (by rw [State.wr_out, hout.1]) (by rw [State.wr_clock, hout.2])
        refine ⟨?_, fun h => absurd h hw, fun _ => ⟨?_, hg, fun hpo => hstay (.inl ?_)⟩⟩
        · rw [State.rd_tryCredit _ _ (.inl (by decide)), State.rd_wr_same _ _ (.inl (by decide)) (by decide) (by decide) hp, hld]
        · rw [State.rd_tryCredit _ _ (.inl (by decide)), State.rd_wr_own _ _ (by decide) hp]
          exact Nat.mod_eq_of_lt (show replayWin l (ldOf rtts) < 2 ^ 16 by omega)
        · rw [hlk']
          exact hpo
  · refine ⟨s.identity l ident dir, rfl, State.identity_else ident dir, fun h3 hpe => ?_, fun h3 hpe => ?_⟩
    · obtain ⟨hlk, hck, hout, hst, hreg⟩ := State.peerTaken_rest s l ident dir
      rw [State.identity_accepted hl h3 hpe]
      generalize s.peerTaken l ident dir = u at hlk hck hout hst hreg
      obtain ⟨hg, hstay⟩ := State.tryCredit_grants (z := s) (hst.trans h3) hout hck
      refine ⟨?_, hg, fun hn => hstay (.inr ?_), fun h16 => ⟨?_, ?_⟩⟩
      · rw [(State.tryCredit_rest u l).2.1, hlk]
      · rw [hlk]
        exact Nat.ne_of_lt hn
      · rw [State.rd_tryCredit _ _ (.inl (by decide)), (hreg h16).2]
      · rw [State.rd_tryCredit _ _ (.inl (by decide)), (hreg h16).1]
    · obtain ⟨-, -, hst, -⟩ := State.peerSeen_rest s l ident dir
      rw [State.identity_refused hl h3 hpe]
      have hp := pgLink_trip l
      have hst' : ((s.peerSeen l ident dir).wr (pgLink l) Tor.PEER_VALID 0).lstate l = 3 :=
        (State.rd_wr_same _ _ (.inl (by decide)) (by decide) (by decide) hp).trans (hst.trans h3)
      obtain ⟨h6, he, -⟩ := State.errFail_effect (s := (s.peerSeen l ident dir).wr (pgLink l) Tor.PEER_VALID 0) (l := l) (i := 3)
        (by rw [hst']; decide) (by decide)
      refine ⟨h6, he, ?_⟩
      rw [State.rd_failLink _ _ (by decide) (.inl (by decide)) (.inl (by decide)), State.rd_err_link _ _ _ _ (by decide)]
      exact State.rd_wr_own _ _ (by decide) hp
  · refine ⟨s.creditGrant l credits, rfl, State.creditGrant_else credits, fun h4 => State.creditGrant_effect credits hl h4⟩
  · by_cases h : s.trainLate l = true
    · refine ⟨s.trainFail l, by simp only [exec, execTrainStateTimeout, hv, h, Bool.and_self, if_true], fun h1 h4 _ => ?_, fun hn => ?_⟩
      · exact State.errFail_effect (by omega) (by decide)
      · unfold State.trainLate at h
        simp only [Bool.and_eq_true, decide_eq_true_eq] at h
        omega
    · refine ⟨s, by simp [exec, execTrainStateTimeout, h], fun h1 h4 h' => absurd ?_ h, fun _ => rfl⟩
      unfold State.trainLate
      simp [h1, h4, h']

end Sys2Proof.Machine
end

section
/-! Links that fail, replay and go down (R70, R73–R75, R79, R84). -/

namespace Sys2Proof.Machine

open Sys2Proof

/-! ## Fields that a failing link leaves -/

/-- A block field of a page that is neither the link's, the host MAC's nor Keep 3's, and none of the counters of what a failing
link discards. -/
structure linkApart (l : Nat) (p : PageId) (x : Reg) : Prop where
  block : 0x100 ≤ x.off
  link : p ≠ pgLink l
  host : p ≠ pgHost
  keep : p ≠ pgKeep 3
  unroutable : x.off ≠ Kr.UNROUTABLE.off
  poison : x.off ≠ Opn.FWD_POISON.off

section
variable {l : Nat} {p : PageId} {x : Reg} (h : linkApart l p x)
include h

theorem State.rd_err_apart (s : State) (q : PageId) (c : Nat) : (s.err q c).rd p x 0 = s.rd p x 0 :=
  State.rd_err_block s q c h.block (fun e => h.host (rkey_page e)) fun e => h.keep (rkey_page e)

theorem State.rd_bump_apart (s : State) (k n : Nat) {r : Reg} (hr : r = Kr.UNROUTABLE ∨ r = Opn.FWD_POISON) :
    (s.bump (pgKeep k) r n).rd p x 0 = s.rd p x 0 := by
  have ht : (pgKeep k).ty ≠ 0x51 := by simp [pgKeep]
  have hb : 0x100 ≤ r.off ∧ r.off + r.stride * 0 = r.off ∧ x.off ≠ r.off := by
    rcases hr with rfl | rfl
    · exact ⟨by decide, rfl, h.unroutable⟩
    · exact ⟨by decide, rfl, h.poison⟩
  by_cases hp : p = pgKeep k
  · subst hp
    exact State.rd_bumpi_same s n (.inl (by rw [hb.2.1]; exact hb.2.2)) h.block hb.1 ht
  · exact State.rd_bumpi_other s n hp hb.1 ht

theorem State.rd_dropLink_apart (s : State) : (s.dropLink l).rd p x 0 = s.rd p x 0 :=
  (State.dropLink_of (·.rd p x 0) (fun _ _ => rfl)
    (fun t k => (State.rd_err_apart h _ _ _).trans (State.rd_bump_apart h t k 1 (.inr rfl))) s l
    fun t _ => State.rd_wri_other t _ h.link (by decide) (pgLink_trip l)).trans rfl

theorem State.rd_setLstate_apart (s : State) (v : Nat) : (s.setLstate l v).rd p x 0 = s.rd p x 0 := by
  have hw : ((s.setLink l { s.link l with since := s.clock }).wr (pgLink l) Lnk.LSTATE v).rd p x 0 = s.rd p x 0 :=
    State.rd_wr_other _ _ h.link (by decide) (pgLink_trip l)
  unfold State.setLstate
  dsimp only
  split
  · rw [State.rd_eventE_block _ _ _ _ h.block h.host h.keep, hw]
  · exact hw

theorem State.rd_dropOutput_apart (s : State) (k : Nat) : (s.dropOutput k).rd p x 0 = s.rd p x 0 :=
  State.dropOutput_of (·.rd p x 0) (fun _ _ => rfl) (fun _ _ _ => rfl) (fun _ _ => rfl)
    (fun t k n => State.rd_bump_apart h t k n (.inl rfl)) (fun t _ => State.rd_err_apart h t _ 1) s k

/-- A torus link that fails leaves such a field as it reads before it is reported. -/
theorem State.rd_failing_apart (s : State) (q : PageId) (c : Nat) :
    ((((s.err q c).dropLink l).setLstate l 6).dropOutput l).rd p x 0 = s.rd p x 0 := by
  rw [State.rd_dropOutput_apart h, State.rd_setLstate_apart h, State.rd_dropLink_apart h, State.rd_err_apart h]

end

theorem linkApart_keep0 (l : Nat) {x : Reg} (hx : x = Kr.COORD ∨ x = Kr.EXTENT) : linkApart l (pgKeep 0) x := by
  have hb : 0x100 ≤ x.off ∧ x.off ≠ Kr.UNROUTABLE.off ∧ x.off ≠ Opn.FWD_POISON.off := by
    rcases hx with rfl | rfl <;> decide
  exact ⟨hb.1, (pgLink_ne_keep l 0).symm, by decide, by decide, hb.2.1, hb.2.2⟩

theorem linkApart_joined (l : Nat) : linkApart l pgBelfry Bel.JOINED :=
  ⟨by decide, (pgLink_ne (by decide) (by decide)).symm, by decide, by decide, by decide, by decide⟩

/-- What a failing link leaves of the Belfry, of Watch and of the reservations. -/
theorem State.failing_same (s : State) (l : Nat) (q : PageId) (c : Nat) :
    ((((s.err q c).dropLink l).setLstate l 6).dropOutput l).belfry = s.belfry ∧
    ((((s.err q c).dropLink l).setLstate l 6).dropOutput l).watch = s.watch ∧
    ((((s.err q c).dropLink l).setLstate l 6).dropOutput l).reservations = s.reservations := by
  have h1 := State.dropOutput_of (fun t => (t.belfry, t.watch, t.reservations)) (fun _ _ => rfl) (fun _ _ _ => rfl) (fun _ _ => rfl)
    (fun t k n => by simp) (fun t k => by simp) (((s.err q c).dropLink l).setLstate l 6) l
  have h2 : ∀ t : State, (fun t : State => (t.belfry, t.watch, t.reservations)) (t.setLstate l 6) =
      (fun t : State => (t.belfry, t.watch, t.reservations)) t := fun t => by
    have := State.setLstate_beyond t l 6
    unfold sameBeyondReports at this
    rw [this]
    rfl
  have h3 := State.dropLink_of (fun t => (t.belfry, t.watch, t.reservations)) (fun _ _ => rfl)
    (fun t k => by simp [State.fwdPoison]) (s.err q c) l fun t v => by simp
  have := h1.trans ((h2 _).trans h3)
  simpa using this

/-! ## A failed torus link is reported -/

theorem State.keyFailed_of {s t : State} (hw : t.watch = s.watch) (hc : t.coord = s.coord) (he : t.extent = s.extent)
    (hj : t.joined = s.joined) (key : Nat) : t.keyFailed key = s.keyFailed key := by
  unfold State.keyFailed State.torusDirs
  rw [hw, hc, he, hj]

/-- A report that is new and about no failed module is held (R353). -/
theorem State.holdReport_held {s : State} {r : Report} (hs : s.watch.seen.contains r = false) (hk : s.keyFailed r.key = false)
    (a b : Option Nat) : (s.holdReport r a b).watch.held = s.watch.held ++ [r] := by
  unfold State.holdReport State.openRound
  rw [if_neg (by simp only [hs, hk]; decide)]
  dsimp only
  rw [(State.flood_eq _ _ _ _).1]
  rfl

/-- A torus link that fails is reported with its key and the current tick (R84, Table 14.1). -/
theorem State.errFail_reported {s : State} {l c : Nat} (h : s.lstate l ≠ 6) (hl : 16 ≤ l) {r : Report}
    (hr : r = ⟨1, linkKey s.coord (l - 16), s.now, 0⟩) (hs : s.watch.seen.contains r = false) (hk : s.keyFailed r.key = false) :
    ((s.err (pgLink l) c).failLink l).watch.held = s.watch.held ++ [r] := by
  obtain ⟨hb, hw, -⟩ := State.failing_same s l (pgLink l) c
  have hc := State.rd_failing_apart (linkApart_keep0 l (.inl rfl)) s (pgLink l) c
  have he := State.rd_failing_apart (linkApart_keep0 l (.inr rfl)) s (pgLink l) c
  have hj := State.rd_failing_apart (linkApart_joined l) s (pgLink l) c
  rw [State.failLink_torus (by rwa [State.lstate_err]) hl]
  generalize (((s.err (pgLink l) c).dropLink l).setLstate l 6).dropOutput l = u at hb hw hc he hj
  have hnow : u.now = s.now := congrArg Belfry.tick hb
  have hjo : u.joined = s.joined := by
    unfold State.joined State.rdb
    rw [hj]
  have hrep : (⟨clsLink, linkKey u.coord (l - 16), u.now, 0⟩ : Report) = r := by
    rw [hr, hnow, show u.coord = s.coord from hc]
    rfl
  unfold State.reportLink State.reportLinkAt
  change (u.holdReport ⟨clsLink, linkKey u.coord (l - 16), u.now, 0⟩ none none).watch.held = _
  rw [hrep, State.holdReport_held (by rw [hw, hs]) (by rw [State.keyFailed_of hw hc he hjo, hk]), hw]

theorem State.opn_holdReport (s : State) (r : Report) (a b : Option Nat) : (s.holdReport r a b).opn = s.opn := by
  unfold State.holdReport State.openRound
  split
  · rfl
  · dsimp only
    rw [(State.flood_eq _ _ _ _).1]
    rfl

/-- The queues of a failed torus link are empty (R84). -/
theorem State.queue_failLink {s : State} {l : Nat} (h : s.lstate l ≠ 6) (hl : 16 ≤ l) {v : Nat} (hv : v < 8) :
    (s.failLink l).queue (keepOfLink l) (outOfLink l) v = EgressQ.empty := by
  rw [State.failLink_torus h hl]
  have hq := State.queue_dropOutput ((s.dropLink l).setLstate l 6) l hv
  unfold State.reportLink State.reportLinkAt
  unfold State.queue at hq ⊢
  rw [State.opn_holdReport, hq]

/-! ## Replays -/

/-- A link with a block of its window sent again (R73, R74): counted in it, the sender stopped until the end of the stop. -/
def Link.replayed (x : Link) (l seq clock : Nat) : Link :=
  let on : Bool := clock < x.stopUntil
  { x with
    window := x.window.map fun c => if c.seq = seq then { c with replays := c.replays + 1, sentAt := clock } else c
    stopUntil := (if on then x.stopFrom else clock) + replayCharge l (if on then x.stopBlocks + 1 else 1)
    stopFrom := if on then x.stopFrom else clock
    stopBlocks := if on then x.stopBlocks + 1 else 1 }

/-- The cc by which a replay stops the sender further (R74, log 184). -/
def Link.replayCc (x : Link) (l clock : Nat) : Nat :=
  if clock < x.stopUntil then x.stopFrom + replayCharge l (x.stopBlocks + 1) - x.stopUntil else 40

theorem replayCharge_one (l : Nat) : replayCharge l 1 = 40 := by
  unfold replayCharge linkRate
  split <;> rfl

theorem State.replayBlock_none {s : State} {l q : Nat} (h : (s.link l).window.find? (fun b => b.seq = q) = none) :
    s.replayBlock l q = s := by
  unfold State.replayBlock
  simp only [h]

section
variable {s : State} {l q : Nat} {b : ReplayBlock} (h : (s.link l).window.find? (fun b => b.seq = q) = some b)
include h

theorem State.replayBlock_spent (hb : s.rd (pgLink l) Lnk.REPLAY_LIM 0 ≤ b.replays) :
    s.replayBlock l q = (s.err (pgLink l) 2).failLink l := by
  unfold State.replayBlock
  simp only [h]
  exact if_pos hb

theorem State.replayBlock_resends (hb : b.replays < s.rd (pgLink l) Lnk.REPLAY_LIM 0) :
    s.replayBlock l q = ((((s.setLink l ((s.link l).replayed l q s.clock)).bump (pgLink l) Lnk.REPLAYS).bump (pgLink l) Lnk.REPLAY_CC
      ((s.link l).replayCc l s.clock)).charge l 0 ((s.link l).replayCc l s.clock)).resendFlit l b := by
  have hcc : (if Decidable.decide (s.clock < (s.link l).stopUntil) = true then (s.link l).stopFrom else s.clock) +
      replayCharge l (if Decidable.decide (s.clock < (s.link l).stopUntil) = true then (s.link l).stopBlocks + 1 else 1) -
      (if Decidable.decide (s.clock < (s.link l).stopUntil) = true then (s.link l).stopUntil else s.clock) = (s.link l).replayCc l s.clock := by
    unfold Link.replayCc
    by_cases hon : s.clock < (s.link l).stopUntil
    · simp only [hon, decide_true, if_true]
    · simp only [hon, decide_false, Bool.false_eq_true, if_false, replayCharge_one, Nat.add_sub_cancel_left]
  unfold State.replayBlock
  simp only [h]
  rw [if_neg (by omega), hcc]
  rfl

end

/-- What a block replayed leaves (R73–R75). -/
theorem State.resent_effect (s : State) (l cc : Nat) (x : Link) (b : ReplayBlock) :
    let t := ((((s.setLink l x).bump (pgLink l) Lnk.REPLAYS).bump (pgLink l) Lnk.REPLAY_CC cc).charge l 0 cc).resendFlit l b
    t.lstate l = s.lstate l ∧ t.out = s.out ++ [.block l { body := .flit b.flit, seq := b.seq, ack := x.ack }] ∧
    t.rd (pgLink l) Lnk.REPLAYS 0 = (s.rd (pgLink l) Lnk.REPLAYS 0 + 1) % 2 ^ 32 ∧
    t.rd (pgLink l) Lnk.REPLAY_CC 0 = (s.rd (pgLink l) Lnk.REPLAY_CC 0 + cc) % 2 ^ 32 ∧
    AL.getD t.belfry.charges (l, 0) 0 = AL.getD s.belfry.charges (l, 0) 0 + cc ∧ t.link l = x := by
  intro t
  have hu : ∀ u : State, (u.charge l 0 cc).resendFlit l b = (u.charge l 0 cc).emit
      (.block l { body := .flit b.flit, seq := b.seq, ack := (u.link l).ack }) := fun _ => rfl
  have hlk : (((s.setLink l x).bump (pgLink l) Lnk.REPLAYS).bump (pgLink l) Lnk.REPLAY_CC cc).link l = x := by
    rw [State.link_of (State.bump_links ..), State.link_of (State.bump_links ..), State.link_setLink_self]
  have hr1 : ∀ {y : Reg}, y.off + y.stride * 0 ≠ Lnk.REPLAYS.off → y.off + y.stride * 0 ≠ Lnk.REPLAY_CC.off → 0x100 ≤ y.off →
      (((s.setLink l x).bump (pgLink l) Lnk.REPLAYS).bump (pgLink l) Lnk.REPLAY_CC cc).rd (pgLink l) y 0 = s.rd (pgLink l) y 0 := by
    intro y h1 h2 hy
    exact (State.rd_bump_link _ l cc (.inl h2) hy (by decide)).trans (State.rd_bump_link _ l 1 (.inl h1) hy (by decide))
  have hreplays : (((s.setLink l x).bump (pgLink l) Lnk.REPLAYS).bump (pgLink l) Lnk.REPLAY_CC cc).rd (pgLink l) Lnk.REPLAYS 0 =
      (s.rd (pgLink l) Lnk.REPLAYS 0 + 1) % 2 ^ 32 :=
    (State.rd_bump_link _ l cc (.inl (by decide)) (by decide) (by decide)).trans (State.rd_bump_link_own _ l 1 (by decide) rfl rfl)
  have hcc : (((s.setLink l x).bump (pgLink l) Lnk.REPLAYS).bump (pgLink l) Lnk.REPLAY_CC cc).rd (pgLink l) Lnk.REPLAY_CC 0 =
      (s.rd (pgLink l) Lnk.REPLAY_CC 0 + cc) % 2 ^ 32 := by
    rw [State.rd_bump_link_own _ l cc (by decide) rfl rfl]
    exact congrArg (fun n => (n + cc) % 2 ^ 32) (State.rd_bump_link (s.setLink l x) l 1 (.inl (by decide)) (by decide) (by decide))
  have hsame : (((s.setLink l x).bump (pgLink l) Lnk.REPLAYS).bump (pgLink l) Lnk.REPLAY_CC cc).out = s.out ∧
      (((s.setLink l x).bump (pgLink l) Lnk.REPLAYS).bump (pgLink l) Lnk.REPLAY_CC cc).belfry = s.belfry := by simp
  have hst := hr1 (y := Lnk.LSTATE) (by decide) (by decide) (by decide)
  generalize hv : ((s.setLink l x).bump (pgLink l) Lnk.REPLAYS).bump (pgLink l) Lnk.REPLAY_CC cc = v at hlk hreplays hcc hsame hst
  have ht : t = (v.charge l 0 cc).emit (.block l { body := .flit b.flit, seq := b.seq, ack := x.ack }) := by
    change (((((s.setLink l x).bump (pgLink l) Lnk.REPLAYS).bump (pgLink l) Lnk.REPLAY_CC cc).charge l 0 cc).resendFlit l b) = _
    rw [hv, hu, hlk]
  rw [ht]
  refine ⟨hst, ?_, hreplays, hcc, ?_, hlk⟩
  · change v.out ++ _ = _
    rw [hsame.1]
  · change AL.getD (AL.put v.belfry.charges (l, 0) (AL.getD v.belfry.charges (l, 0) 0 + cc)) (l, 0) 0 = _
    rw [AL.getD_put_self, hsame.2]

/-! ## A link goes down -/

/-- What a link that goes down leaves before it is found to train again. -/
theorem State.downed_effect (s : State) (l : Nat) :
    ((s.dropLink l).setLstate l 0).lstate l = 0 ∧ ((s.dropLink l).setLstate l 0).mayTrain l = s.mayTrain l ∧
    ((s.dropLink l).setLstate l 0).out = s.out ∧ ((s.dropLink l).setLstate l 0).clock = s.clock := by
  obtain ⟨hc, ho, -⟩ := State.dropLink_same s l
  refine ⟨State.lstate_setLstate _ l 0, ?_, ?_, ?_⟩
  · rw [State.mayTrain_setLstate _ _ (by decide), State.mayTrain_dropLink]
  · rw [State.setLstate_quiet _ _ (by decide) (by decide), State.put_out, State.setLink_out, ho]
  · rw [State.setLstate_quiet _ _ (by decide) (by decide), State.put_clock, State.setLink_clock, hc]

theorem State.downLink_stays {s : State} {l : Nat} (h : (s.link l).signal = false ∨ s.mayTrain l = false) :
    s.downLink l = (s.dropLink l).setLstate l 0 := by
  unfold State.downLink
  refine State.tryStart_stays (.inr ?_)
  rw [State.link_dropped, (State.downed_effect s l).2.1]
  exact h

/-- A link that goes down has kept its signal, and trains again where it may (Table 03.8). -/
theorem State.downLink_effect (s : State) (l : Nat) :
    (s.downLink l).link l = s.cleared l (if l < 16 then (s.link l).msgs else []) ∧
    (s.downLink l).lstate l = (if (s.link l).signal = true ∧ s.mayTrain l = true then 1 else 0) ∧
    (s.downLink l).out = s.out ++
      (if (s.link l).signal = true ∧ s.mayTrain l = true then [s.trainingOut l { trType := 1 }] else []) := by
  obtain ⟨h0, hm, ho, hc⟩ := State.downed_effect s l
  have hlk := State.link_dropped s l 0
  by_cases h : (s.link l).signal = true ∧ s.mayTrain l = true
  · have hsig : (((s.dropLink l).setLstate l 0).link l).signal = true := by
      rw [hlk]
      exact h.1
    have hd : s.downLink l = _ := State.tryStart_starts h0 hsig (hm.trans h.2)
    rw [if_pos h, if_pos h, hd, State.sendTrainings_eq]
    generalize (s.dropLink l).setLstate l 0 = u at h0 hm ho hc hlk
    refine ⟨?_, State.lstate_setLstate _ l 1, ?_⟩
    · change (State.setLstate _ l 1).link l = _
      rw [State.link_setLstate, State.link_setLink_self, State.setLink_clock, hc, hlk]
      unfold State.cleared
      rw [h.1]
    · rw [State.setLstate_quiet _ _ (by decide) (by decide)]
      change u.out ++ [.block l { body := .training { trType := 1, stamp := u.clock % 2 ^ 32 } }] = _
      rw [ho, hc]
      rfl
  · rw [if_neg h, if_neg h, State.downLink_stays (by
      rcases not_and_or.1 h with h | h
      · exact .inl (Bool.eq_false_iff.2 h)
      · exact .inr (Bool.eq_false_iff.2 h))]
    exact ⟨hlk, h0, by rw [ho, List.append_nil]⟩

/-! ## EN of Table 03.8 -/

theorem State.enPut_rest (s : State) (l : Nat) (en : Bool) :
    onlyRegs [rkey (pgLink l) Lnk.EN 0] s (s.put (pgLink l) Lnk.EN 0 (b2n en)) ∧
    (s.put (pgLink l) Lnk.EN 0 (b2n en)).rd (pgLink l) Lnk.EN 0 = b2n en ∧
    (s.put (pgLink l) Lnk.EN 0 (b2n en)).lstate l = s.lstate l := by
  refine ⟨⟨rfl, fun p r i hk => ?_⟩, ?_, ?_⟩
  · exact State.rd_put_block s _ (by simpa using hk) (by decide) (pgLink_trip l)
  · refine (State.rd_put_self s _ _ _ _ rfl).trans ?_
    cases en <;> rfl
  · exact State.rd_put_same s _ (.inl (by decide)) (by decide) (pgLink_trip l)

theorem State.mayTrain_en {s : State} {l : Nat} (h : s.rd (pgLink l) Lnk.EN 0 = 0) : s.mayTrain l = false := by
  unfold State.mayTrain State.rdb
  rw [h]
  simp

/-- Training tried leaves EN and what holds a link as they are; it ends in EQ where it starts, else changes nothing. -/
theorem State.tryStart_effect {s : State} {l : Nat} (h0 : s.lstate l = 0) :
    (s.tryStart l).rd (pgLink l) Lnk.EN 0 = s.rd (pgLink l) Lnk.EN 0 ∧ (s.tryStart l).mayTrain l = s.mayTrain l ∧
    (s.tryStart l).lstate l = if (s.link l).signal = true ∧ s.mayTrain l = true then 1 else 0 := by
  by_cases h : (s.link l).signal = true ∧ s.mayTrain l = true
  · rw [State.tryStart_starts h0 h.1 h.2, State.sendTrainings_eq, if_pos h]
    refine ⟨?_, ?_, State.lstate_setLstate _ l 1⟩
    · exact State.rd_setLstate (s.setLink l _) l 1 (by decide) (.inl (by decide))
    · exact State.mayTrain_setLstate (s.setLink l _) l (by decide)
  · rw [State.tryStart_stays (.inr (by
      rcases not_and_or.1 h with h | h
      · exact .inl (Bool.eq_false_iff.2 h)
      · exact .inr (Bool.eq_false_iff.2 h))), if_neg h]
    exact ⟨rfl, rfl, h0⟩

theorem State.writeLinkEn_cleared {s : State} {l : Nat} (hw : s.rdb (pgLink l) Lnk.EN 0 = true) :
    s.writeLinkEn l false = (s.put (pgLink l) Lnk.EN 0 0).downLink l := by
  unfold State.writeLinkEn
  dsimp only
  rw [hw]
  exact if_pos rfl

theorem State.writeLinkEn_clear {s : State} {l : Nat} (hw : s.rdb (pgLink l) Lnk.EN 0 = false) :
    s.writeLinkEn l false = s.put (pgLink l) Lnk.EN 0 0 := by
  unfold State.writeLinkEn
  dsimp only
  rw [hw]
  exact (if_neg Bool.false_ne_true).trans (if_neg Bool.false_ne_true)

theorem State.writeLinkEn_set (s : State) (l : Nat) : s.writeLinkEn l true = (s.put (pgLink l) Lnk.EN 0 1).tryStart l := by
  unfold State.writeLinkEn
  dsimp only
  rw [Bool.not_true, Bool.and_false]
  exact (if_neg Bool.false_ne_true).trans (if_pos rfl)

/-! ## Credits that do not come -/

@[simp] theorem State.dropReservations_rd (s : State) (n : Nat) (p : PageId) (x : Reg) (i : Nat) :
    (s.dropReservations n).rd p x i = s.rd p x i := rfl
@[simp] theorem State.dropReservations_link (s : State) (n l : Nat) : (s.dropReservations n).link l = s.link l := rfl
@[simp] theorem State.dropReservations_queue (s : State) (n k o v : Nat) : (s.dropReservations n).queue k o v = s.queue k o v := rfl
@[simp] theorem State.dropReservations_reservations (s : State) (n : Nat) :
    (s.dropReservations n).reservations = s.reservations.filter fun r => r.src ≠ .endpoint n := rfl

/-! ## The statement -/

theorem exec_nakReceive {l : Nat} (hl : l < 0x16) (q : Nat) (s : State) :
    exec (.nakReceive l q) s = .next (if s.linkUp l then s.replayBlock l q else s) := by
  simp only [exec, execNakReceive, validLink_of hl, Bool.true_and]

theorem exec_ackTimeout {l : Nat} (hl : l < 0x16) (q : Nat) (s : State) :
    exec (.ackTimeout l q) s = .next (if s.linkUp l && s.ackLate l q then s.replayBlock l q else s) := by
  simp only [exec, execAckTimeout, validLink_of hl, Bool.true_and]

/-- Settles O36: a link that fails by what its failure drops, a replay by its block's count and by whether the sender is stopped
already, and a link that goes down by whether it may train again. -/
theorem linksFailAndReplay : Obligations.LinksFailAndReplay := by
  intro l s hl
  have hv := validLink_of hl
  refine ⟨?_, fun q => ?_, fun q => ?_, ?_, fun en => ?_, fun vc h16 hvc hup hcr hto => ?_, fun vc h => ?_⟩
  · refine ⟨s.lockLoss l, rfl, fun hd => ?_, fun hup => ?_⟩
    · unfold State.lockLoss
      rw [hd, Bool.and_false]
      rfl
    · have h5 := State.linkUp_iff.1 hup
      have hll : s.lockLoss l = (s.err (pgLink l) 1).failLink l := by
        unfold State.lockLoss
        exact if_pos (by rw [hv, hup]; rfl)
      have hn6 : (s.err (pgLink l) 1).lstate l ≠ 6 := by
        rw [State.lstate_err, h5]
        decide
      obtain ⟨h6, he, hlk⟩ := State.errFail_effect (s := s) (l := l) (i := 1) (by rw [h5]; decide) (by decide)
      rw [hll]
      exact ⟨h6, he, hlk, fun v hv8 => State.cred_failLink hn6 hv8, fun h16 v hv8 => State.queue_failLink hn6 h16 hv8,
        fun r hr h16 hs hk => State.errFail_reported (by rw [h5]; decide) h16 hr hs hk⟩
  · refine ⟨_, exec_nakReceive hl q s, fun hd => ?_, fun hn => ?_, fun b hup hb => ⟨fun hspent => ?_, fun cc hlim hcc => ?_⟩⟩
    · rw [hd]
      rfl
    · rw [State.replayBlock_none hn, ite_self]
    · rw [hup, if_pos rfl, State.replayBlock_spent hb hspent]
      obtain ⟨h6, he, -⟩ := State.errFail_effect (s := s) (l := l) (i := 2) (by rw [State.linkUp_iff.1 hup]; decide) (by decide)
      exact ⟨h6, he⟩
    · have hseq : b.seq = q := by simpa using List.find?_some hb
      have hccx : cc = (s.link l).replayCc l s.clock := hcc
      rw [hup, if_pos rfl, State.replayBlock_resends hb hlim, ← hccx]
      obtain ⟨hst, hout, hrp, hrc, hch, hlk⟩ := State.resent_effect s l cc ((s.link l).replayed l q s.clock) b
      refine ⟨hst.trans (State.linkUp_iff.1 hup), by rw [hout, hseq]; rfl, hrp, hrc, hch, fun hon => ?_, fun hoff => ?_, ?_⟩
      · rw [hlk]
        unfold Link.replayed
        simp only [hon, decide_true, if_true]
      · rw [hlk]
        have hno : ¬ s.clock < (s.link l).stopUntil := by omega
        unfold Link.replayed
        simp only [hno, decide_false, Bool.false_eq_true, if_false, replayCharge_one]
      · rw [hlk]
        rfl
  · refine ⟨_, exec_ackTimeout hl q s, fun ha => ?_, fun ha => ?_⟩
    · rw [exec_nakReceive hl, ha, Bool.and_true]
    · rw [ha, Bool.and_false]
      rfl
  · refine ⟨s.downLink l, by simp only [exec, execRetrain, State.retrain, hv, if_true], ?_⟩
    exact State.downLink_effect s l
  · obtain ⟨honly, hen, hst⟩ := State.enPut_rest s l en
    refine ⟨s.writeLinkEn l en, by simp only [exec, execLinkEnWrite, hv, if_true], ?_⟩
    cases en with
    | false =>
      by_cases hw : s.rdb (pgLink l) Lnk.EN 0 = true
      · rw [State.writeLinkEn_cleared hw]
        have hm : (s.put (pgLink l) Lnk.EN 0 0).mayTrain l = false := State.mayTrain_en hen
        obtain ⟨h1, h2, -⟩ := State.downLink_effect (s.put (pgLink l) Lnk.EN 0 0) l
        refine ⟨?_, fun _ _ => ⟨?_, h1⟩, fun _ h => ?_, nofun, nofun⟩
        · rw [State.downLink_stays (.inr hm), State.rd_setLstate _ _ _ (by decide) (.inl (by decide)),
            State.rd_dropLink _ _ (by decide) (.inr (by decide))]
          exact hen
        · rw [h2, hm]
          simp
        · rw [hw] at h
          cases h
      · rw [State.writeLinkEn_clear (Bool.eq_false_iff.2 hw)]
        exact ⟨hen, fun _ h => absurd h hw, fun _ _ => honly, nofun, nofun⟩
    | true =>
      rw [State.writeLinkEn_set]
      refine ⟨?_, nofun, nofun, fun _ hn => ?_, fun _ h0 => ?_⟩
      · by_cases h0 : (s.put (pgLink l) Lnk.EN 0 1).lstate l = 0
        · rw [(State.tryStart_effect h0).1]
          exact hen
        · rw [State.tryStart_stays (.inl h0)]
          exact hen
      · rw [State.tryStart_stays (s := s.put (pgLink l) Lnk.EN 0 1) (hn.imp (fun h e => h (hst.symm.trans e)) .inl)]
        exact honly
      · obtain ⟨-, hm, ht⟩ := State.tryStart_effect (s := s.put (pgLink l) Lnk.EN 0 1) (l := l) (hst.trans h0)
        rw [hm, ht]
        rfl
  · have h5 := State.linkUp_iff.1 hup
    have hk : keepOfLink l = l / 4 ∧ outOfLink l = l % 4 := ⟨if_pos h16, if_pos h16⟩
    have hn6 : (s.err (pgLink l) 5).lstate l ≠ 6 := by
      rw [State.lstate_err, h5]
      decide
    have hstarved : s.starved l vc = true := by
      unfold State.starved
      simp [hup, hcr, hto]
    obtain ⟨h6, he, hlk⟩ := State.errFail_effect (s := s) (l := l) (i := 5) (by rw [h5]; decide) (by decide)
    obtain ⟨-, -, hres⟩ := State.failing_same s l (pgLink l) 5
    refine ⟨(((s.err (pgLink l) 5).failLink l).dropOutput l).dropReservations l, ?_, ?_, ?_, ?_, fun v hv8 => ?_, ?_⟩
    · simp only [exec, execCredTo]
      rw [if_pos (by simp [h16, hstarved, hvc])]
    · unfold State.lstate
      rw [State.dropReservations_rd]
      exact (State.lstate_dropOutput _ l).trans h6
    · unfold errSet
      rw [State.dropReservations_rd]
      exact State.errSet_dropOutput he
    · rw [State.dropReservations_link, State.link_dropOutput (by rw [hlk]; rfl), hlk]
      rfl
    · rw [State.dropReservations_queue, ← hk.1, ← hk.2]
      exact State.queue_dropOutput _ l hv8
    · rw [State.dropReservations_reservations, State.failLink_endpoint hn6 h16, hres]
  · simp only [exec, execCredTo]
    rw [if_neg]
    unfold State.starved
    simp only [Bool.and_eq_true, Bool.or_eq_true, decide_eq_true_eq]
    rintro ⟨⟨h1, h2⟩, ⟨h3, h4⟩, h5⟩
    rcases h with h | h | h | h | h
    · omega
    · exact h h2
    · rw [h] at h3
      cases h3
    · exact h h4
    · omega

end Sys2Proof.Machine
end

section
/-! Credits returned, replies given, flits taken from where a Keep holds them, and the counters of what a Keep discards: the rules
that the statements about the open plane use. -/

namespace Sys2Proof.Machine

open Sys2Proof

/-! ## Cells freed -/

theorem State.closeShared_rest (s : State) (l vc n : Nat) : onlySent s (s.closeShared l vc n) ∧
    ∀ j, (s.closeShared l vc n).link j = { s.link j with shared := ((s.closeShared l vc n).link j).shared } := by
  unfold State.closeShared
  split
  · exact ⟨rfl, fun _ => rfl⟩
  · refine ⟨rfl, fun j => ?_⟩
    rw [State.link_setLink]
    split
    · rename_i h
      rw [h]
    · rfl

/-- Cells freed reach the outputs and the shared cells of a link, nothing else. -/
theorem State.returnCredit_rest (s : State) (l vc n : Nat) : onlySent s (s.returnCredit l vc n) ∧
    ∀ j, (s.returnCredit l vc n).link j = { s.link j with shared := ((s.returnCredit l vc n).link j).shared } := by
  obtain ⟨h1, h2⟩ := State.closeShared_rest s l vc n
  rw [State.returnCredit_eq]
  split
  · exact ⟨onlySent_trans h1 rfl, h2⟩
  · exact ⟨h1, h2⟩

theorem onlySent.rd {s t : State} (h : onlySent s t) (p : PageId) (x : Reg) (i : Nat) : t.rd p x i = s.rd p x i := by
  unfold onlySent at h
  rw [h]
  rfl

theorem onlySent.opn {s t : State} (h : onlySent s t) : t.opn = s.opn := by
  unfold onlySent at h
  rw [h]

theorem onlySent.reservations {s t : State} (h : onlySent s t) : t.reservations = s.reservations := by
  unfold onlySent at h
  rw [h]

theorem onlySent.answers {s t : State} (h : onlySent s t) : t.answers = s.answers := by
  unfold onlySent at h
  rw [h]

theorem State.returnCredit_sent (s : State) (l vc n : Nat) : onlySent s (s.returnCredit l vc n) := (State.returnCredit_rest s l vc n).1

/-! ## Counters of a Keep -/

/-- A flit discarded and counted by a Keep under one of its own counters: the count, the error bit, and nothing else beyond
reports. -/
theorem State.discardCounted (s : State) (k : Nat) {r : Reg} {i : Nat} (hr : 0x100 ≤ r.off) (hk : r.kind = .counterWrap) (hw : r.w = 32)
    (ho : r.off + r.stride * 0 ≠ 0x3C8) (hi : i < 32) : counted s ((s.bump (pgKeep k) r).err (pgKeep k) i) (pgKeep k) r 1 ∧
    errSet ((s.bump (pgKeep k) r).err (pgKeep k) i) (pgKeep k) i ∧ sameBeyondReports s ((s.bump (pgKeep k) r).err (pgKeep k) i) := by
  refine ⟨?_, State.err_bit _ _ _ hi, sameBeyondReports_trans (State.wri_beyond ..).reports (State.err_beyond ..)⟩
  unfold counted
  rw [State.rd_err_keep _ _ _ hr ho, ← hw]
  exact State.rd_bumpi_own s 1 hr (by simp [pgKeep]) hk

theorem sameBeyondReports.reservations {s t : State} (h : sameBeyondReports s t) : t.reservations = s.reservations := by
  unfold sameBeyondReports at h
  rw [h]

theorem sameBeyondReports.answers {s t : State} (h : sameBeyondReports s t) : t.answers = s.answers := by
  unfold sameBeyondReports at h
  rw [h]

theorem sameBeyondReports.opn {s t : State} (h : sameBeyondReports s t) : t.opn = s.opn := by
  unfold sameBeyondReports at h
  rw [h]

theorem sameBeyondReports.links {s t : State} (h : sameBeyondReports s t) : t.links = s.links := by
  unfold sameBeyondReports at h
  rw [h]

/-! ## Replies given -/

theorem State.giveReply_replied (s : State) (src : Source) (f : Flit) : sourceReplied s (s.giveReply src f) src f := by
  unfold sourceReplied State.giveReply
  cases src with
  | endpoint n => exact congrArg Link.msgs (State.link_setLink_self ..)
  | host => exact rfl
  | moduleUnit e =>
    dsimp only
    by_cases h1 : e = 1
    · rw [if_pos h1]
      exact ⟨rfl, fun _ => rfl, fun h4 => absurd h4 (by omega)⟩
    · rw [if_neg h1]
      split
      · exact ⟨rfl, fun h => absurd h h1, fun _ _ => List.mem_append_right _ (List.mem_singleton.2 rfl)⟩
      · rename_i h
        exact ⟨rfl, fun h => absurd h h1, fun h4 h7 => absurd (by simp [h4, h7]) h⟩

/-- A reply is given alike from a state with the same messages, outputs and answers. -/
theorem sourceReplied_from {s u t : State} {src : Source} {f : Flit} (hm : ∀ n, (u.link n).msgs = (s.link n).msgs) (ho : u.out = s.out)
    (ha : u.answers = s.answers) (h : sourceReplied u t src f) : sourceReplied s t src f := by
  unfold sourceReplied at *
  cases src with
  | endpoint n => exact h.trans (by rw [hm])
  | host => exact h.trans (by rw [ho])
  | moduleUnit e => exact ⟨h.1.trans (by rw [ho]), fun h1 => (h.2.1 h1).trans (by rw [ha]), h.2.2⟩

/-- A reply given stays given in a state with the same links, outputs, answers and open plane. -/
theorem sourceReplied_to {s t v : State} {src : Source} {f : Flit} (hl : v.links = t.links) (ho : v.out = t.out)
    (ha : v.answers = t.answers) (hp : v.opn = t.opn) (h : sourceReplied s t src f) : sourceReplied s v src f := by
  unfold sourceReplied at *
  cases src with
  | endpoint n => exact (congrArg Link.msgs (State.link_of hl n)).trans h
  | host => exact ho.trans h
  | moduleUnit e => exact ⟨ho.trans h.1, fun h1 => ha.trans (h.2.1 h1), fun h4 h7 => hp ▸ h.2.2 h4 h7⟩

/-! ## Cells of a request that goes no further -/

theorem State.taken_rest (s : State) (src : Source) (f : Flit) : (s.taken src f).reservations = s.reservations ∧
    (s.taken src f).answers = s.answers ∧ (s.taken src f).opn = s.opn ∧ ∀ p x i, (s.taken src f).rd p x i = s.rd p x i := by
  unfold State.taken
  cases src with
  | endpoint n =>
    have h := State.returnCredit_sent s n f.vc f.cells
    exact ⟨h.reservations, h.answers, h.opn, h.rd⟩
  | host => exact ⟨rfl, rfl, rfl, fun _ _ _ => rfl⟩
  | moduleUnit e => exact ⟨rfl, rfl, rfl, fun _ _ _ => rfl⟩

theorem sourceReplied_taken {s t : State} {src : Source} {f : Flit} (g : Flit) (h : sourceReplied s t src f) :
    sourceReplied s (t.taken src g) src f := by
  unfold sourceReplied State.taken at *
  cases src with
  | endpoint n => exact (congrArg Link.msgs ((State.returnCredit_rest t n _ _).2 n)).trans h
  | host => exact h
  | moduleUnit e => exact h

/-- A reply given to a request's own source, and its cells freed. -/
theorem State.answered_effect (u : State) (src : Source) (g f : Flit) :
    ((u.giveReply src g).taken src f).reservations = u.reservations ∧ sourceReplied u ((u.giveReply src g).taken src f) src g ∧
    ∀ p x i, ((u.giveReply src g).taken src f).rd p x i = u.rd p x i := by
  obtain ⟨h1, -, h3, -⟩ := State.giveReply_rest u src g
  obtain ⟨t1, -, -, t4⟩ := State.taken_rest (u.giveReply src g) src f
  exact ⟨t1.trans h3, sourceReplied_taken f (State.giveReply_replied u src g), fun p x i => (t4 p x i).trans (h1 p x i)⟩

end Sys2Proof.Machine
end

section
/-! Open-plane requests: injected, answered, completed and timed out (R80, R86, R121, R125). -/

namespace Sys2Proof.Machine

open Sys2Proof

/-! ## Injection -/

/-- The count of an endpoint's tag errors. -/
def State.tagError (s : State) (src : Source) : State :=
  match src with
  | .endpoint n => s.bump (pgLink n) Ept.TAG_ERRS
  | _ => s

/-- The count of a request that no route takes. -/
def State.unroutable (s : State) (k : Nat) (unr : Bool) : State :=
  if unr then (s.bump (pgKeep k) Kr.UNROUTABLE).err (pgKeep k) 1 else s

/-- The reservation of a request that is sent as `o` (R86). -/
def State.reserved (s : State) (src : Source) (g o : Flit) : State :=
  { s with reservations := s.reservations ++ [⟨src, g.tag, s.now, o.epoch,
    (if (reqOf g).virt then some (vaLog (reqOf g).addr) else none), (reqOf g).opcode, o.dst⟩] }

section
variable {s : State} {src : Source} {f g : Flit} (hg : g = s.ownRequest src f)
include hg

theorem State.inject_poisoned (hp : g.poison = true) : s.inject src f = s.taken src g := by
  subst hg
  unfold State.inject
  exact if_pos hp

theorem State.inject_tagged (hp : g.poison = false) (ht : s.tagBad src g.tag = true) :
    s.inject src f = ((s.tagError src).giveReply src (localReply g 0xE2 s.now)).taken src g := by
  subst hg
  unfold State.ownRequest at hp ht ⊢
  unfold State.inject
  dsimp only
  rw [hp, if_neg Bool.false_ne_true, ht, if_pos rfl]
  cases src <;> rfl

theorem State.inject_answered {st : Nat} {unr : Bool} (hp : g.poison = false) (ht : s.tagBad src g.tag = false)
    (hr : s.routeCompute src g = .answer st unr) :
    s.inject src f = ((s.unroutable (srcKeep src) unr).giveReply src (localReply g st s.now)).taken src g := by
  subst hg
  unfold State.ownRequest at hp ht hr ⊢
  unfold State.inject
  dsimp only
  rw [hp, if_neg Bool.false_ne_true, ht, if_neg Bool.false_ne_true, hr]
  rfl

theorem State.inject_sent {o : Flit} (hp : g.poison = false) (ht : s.tagBad src g.tag = false)
    (hr : s.routeCompute src g = .send o) : s.inject src f = ((s.reserved src g o).emit (.inject src o)).enter src o := by
  subst hg
  unfold State.ownRequest at hp ht hr ⊢
  unfold State.inject
  dsimp only
  rw [hp, if_neg Bool.false_ne_true, ht, if_neg Bool.false_ne_true, hr]
  rfl

end

theorem State.tagError_rest (s : State) (src : Source) : (s.tagError src).reservations = s.reservations ∧
    (s.tagError src).links = s.links ∧ (s.tagError src).out = s.out ∧ (s.tagError src).answers = s.answers := by
  unfold State.tagError
  split
  · simp
  · exact ⟨rfl, rfl, rfl, rfl⟩

/-- An endpoint's own counter, counted once. -/
theorem counted_bump_link (s : State) (n : Nat) {r : Reg} (hr : 0x100 ≤ r.off) (hk : r.kind = .counterWrap) (hw : r.w = 32) :
    counted s (s.bump (pgLink n) r) (pgLink n) r 1 := State.rd_bump_link_own s n 1 hr hk hw

theorem State.unroutable_rest (s : State) (k : Nat) (unr : Bool) : (s.unroutable k unr).reservations = s.reservations ∧
    (s.unroutable k unr).links = s.links ∧ (s.unroutable k unr).out = s.out ∧ (s.unroutable k unr).answers = s.answers := by
  unfold State.unroutable
  split
  · simp
  · exact ⟨rfl, rfl, rfl, rfl⟩

/-- A request that enters the fabric leaves outputs and reservations. -/
theorem State.enter_rest (s : State) (src : Source) (g : Flit) :
    (s.enter src g).out = s.out ∧ (s.enter src g).reservations = s.reservations :=
  ⟨(State.enter_parts (M := (· ≠ .out)) (parts_refl s) src g (by decide) (by decide) (by decide) (by decide) (by decide)
      (by decide)).same_of (p := .out) (by simp),
    (State.enter_parts (M := (· ≠ .reservations)) (parts_refl s) src g (by decide) (by decide) (by decide) (by decide) (by decide)
      (by decide)).same_of (p := .reservations) (by simp)⟩

theorem State.wakeDom_opn (s : State) (d : Nat) : (s.wakeDom d).opn = s.opn :=
  (State.wakeDom_parts (M := (· ≠ .opn)) (parts_refl s) d (by decide)).same_of (p := .opn) (by simp)

theorem State.wakeBank_opn (s : State) (k : Nat) : (s.wakeBank k).opn = s.opn := by
  unfold State.wakeBank
  split
  · exact State.wakeDom_opn ..
  · rfl

/-- A flit of a packet that is not cut waits in its Turret's input buffer behind those that wait there (R121). -/
theorem State.inputs_bufferIn {s : State} {l : Nat} {f : Flit} (hc : s.opn.cut.contains (l, f.vc) = false) :
    (s.bufferIn l f).opn.inputs = AL.put s.opn.inputs (l, f.vc) (AL.getD s.opn.inputs (l, f.vc) [] ++ [f]) := by
  have hw : ∀ u : State, (if u.banksHold (keepOfLink l) 0 then u else u.wakeBank (keepOfLink l)).opn = u.opn := by
    intro u
    split
    · rfl
    · exact State.wakeBank_opn ..
  unfold State.bufferIn
  dsimp only
  rw [hc, Bool.and_false, if_neg Bool.false_ne_true, if_neg Bool.false_ne_true, hw]
  rfl

/-! ## Replies -/

theorem State.takeService_good {s : State} (e : Nat) (f : Flit) (h : s.serviceGood) : s.takeService e f = (some f, s.unserve e f) := by
  unfold State.takeService
  dsimp only
  split
  · exact State.flitRead_good (s := s.unserve e f) f fun x hx => h x hx e
  · rfl

theorem State.served_good {s : State} (e : Nat) (f : Flit) (act : State → Flit → State) (h : s.serviceGood) :
    s.served e f act = act (s.unserve e f) f := by
  unfold State.served
  rw [State.takeService_good e f h]

/-- The head flit of a unit whose header is beyond correction is gone, and nothing follows from it (R337). -/
theorem State.served_lost {s : State} {e : Nat} {f : Flit} (act : State → Flit → State)
    (hh : (s.opn.service.find? fun x => x.1 = e).map (fun x => x.2.2) = some f) (hl : s.headerLost (.service e)) :
    s.served e f act = ((s.unserve e f).flitRead (.service e) f).2 := by
  obtain ⟨x, hx, hp, hhd, hlo⟩ := hl
  have hany : ((s.unserve e f).arrays.flits.filter fun y => y.place = .service e).any (fun y => y.header && y.lost) = true :=
    List.any_eq_true.2 ⟨x, List.mem_filter.2 ⟨hx, by simpa using hp⟩, by simp [hhd, hlo]⟩
  have hnone : ((s.unserve e f).flitRead (.service e) f).1 = none := by
    unfold State.flitRead
    exact if_pos hany
  have htake : s.takeService e f = (s.unserve e f).flitRead (.service e) f := by
    unfold State.takeService
    exact if_pos (by simpa using hh)
  unfold State.served
  rw [htake]
  generalize (s.unserve e f).flitRead (.service e) f = x at hnone
  obtain ⟨o, u⟩ := x
  dsimp only at hnone
  rw [hnone]

theorem State.flitRead_rest (s : State) (p : FlitAt) (f : Flit) : (s.flitRead p f).2.out = s.out ∧
    (s.flitRead p f).2.reservations = s.reservations :=
  ⟨(State.flitRead_parts (M := (· ≠ .out)) (parts_refl s) p f (by decide) (by decide) (by decide) (by decide)
      (by decide)).same_of (p := .out) (by simp),
    (State.flitRead_parts (M := (· ≠ .reservations)) (parts_refl s) p f (by decide) (by decide) (by decide) (by decide)
      (by decide)).same_of (p := .reservations) (by simp)⟩

/-- What a reply does at its requester (R61, R86, R125). -/
theorem State.reply_effect (s : State) (src : Source) (f : Flit) :
    (f.hcrcOk = false → (s.reply src f).reservations = s.reservations ∧ (s.reply src f).out = s.out ∧
      errSet (s.reply src f) (pgKeep (srcKeep src)) 0 ∧ counted s (s.reply src f) (pgKeep (srcKeep src)) Kr.HDR_CRC_ERR 1) ∧
    (f.hcrcOk = true → f.poison = true → s.reply src f = s) ∧
    (∀ r, f.hcrcOk = true → f.poison = false → (s.resvOf src).find? (fun r => r.tag = f.tag) = some r →
      (s.reply src f).reservations = s.reservations.filter (· ≠ r) ∧ sourceReplied s (s.reply src f) src f) ∧
    (f.hcrcOk = true → f.poison = false → (s.resvOf src).find? (fun r => r.tag = f.tag) = none →
      (s.reply src f).reservations = s.reservations ∧ (s.reply src f).out = s.out ∧
      ∀ n, src = .endpoint n → counted s (s.reply src f) (pgLink n) Ept.LATE_RSP 1) := by
  have hok : f.hcrcOk = true → ¬ (!f.hcrcOk) = true := fun h => by simp [h]
  have hclean : f.poison = false → ¬ f.poison = true := fun h => by simp [h]
  refine ⟨fun hb => ?_, fun hb hp => ?_, fun r hb hp hr => ?_, fun hb hp hr => ?_⟩
  · have he : s.reply src f = s.headerDiscard (srcKeep src) := if_pos (by simp [hb])
    obtain ⟨hc, hs, hbey⟩ := State.discardCounted s (srcKeep src) (r := Kr.HDR_CRC_ERR) (i := 0) (by decide) rfl rfl (by decide) (by decide)
    rw [he]
    refine ⟨hbey.reservations, ?_, hs, hc⟩
    unfold State.headerDiscard
    simp
  · exact (if_neg (hok hb)).trans (if_pos hp)
  · have he : s.reply src f = ({ s with reservations := s.reservations.filter (· ≠ r) }).giveReply src f := by
      refine (if_neg (hok hb)).trans ((if_neg (hclean hp)).trans ?_)
      rw [hr]
    rw [he]
    refine ⟨(State.giveReply_rest _ src f).2.2.1, ?_⟩
    exact sourceReplied_from (u := { s with reservations := s.reservations.filter (· ≠ r) }) (fun _ => rfl) rfl rfl
      (State.giveReply_replied _ src f)
  · have he : s.reply src f = match src with
        | .endpoint n => s.bump (pgLink n) Ept.LATE_RSP
        | _ => s := by
      refine (if_neg (hok hb)).trans ((if_neg (hclean hp)).trans ?_)
      rw [hr]
      cases src <;> rfl
    rw [he]
    cases src with
    | endpoint n =>
      refine ⟨by simp, by simp, fun m hm => ?_⟩
      obtain rfl : n = m := by simpa using hm
      exact counted_bump_link s n (by decide) rfl rfl
    | host => exact ⟨rfl, rfl, nofun⟩
    | moduleUnit e => exact ⟨rfl, rfl, nofun⟩

/-- The state in which a source has its reply: an endpoint's come to its Turret, others' are held for a unit. -/
def State.atSource (s : State) (src : Source) (f : Flit) : State :=
  match src with
  | .moduleUnit e => s.unserve e f
  | .host => s.unserve 2 f
  | .endpoint _ => s

theorem exec_replyReceive_good {s : State} (src : Source) (f : Flit) (h : s.serviceGood) :
    exec (.replyReceive src f) s = .next ((s.atSource src f).reply src f) := by
  cases src with
  | endpoint n => rfl
  | host => exact congrArg Host.Outcome.next (State.served_good 2 f (fun t g => t.reply .host g) h)
  | moduleUnit e => exact congrArg Host.Outcome.next (State.served_good e f (fun t g => t.reply (.moduleUnit e) g) h)

theorem exec_replyReceive_lost {s : State} {src : Source} {e : Nat} {f : Flit} (hs : src = .moduleUnit e ∨ src = .host ∧ e = 2)
    (hh : (s.opn.service.find? fun x => x.1 = e).map (fun x => x.2.2) = some f) (hl : s.headerLost (.service e)) :
    exec (.replyReceive src f) s = .next ((s.unserve e f).flitRead (.service e) f).2 := by
  rcases hs with rfl | ⟨rfl, rfl⟩
  · exact congrArg Host.Outcome.next (State.served_lost _ hh hl)
  · exact congrArg Host.Outcome.next (State.served_lost _ hh hl)

/-! ## Timeouts -/

theorem State.resv_of_find {s : State} {src : Source} {tag : Nat} {r : Reservation}
    (h : (s.resvOf src).find? (fun r => r.tag = tag) = some r) : r.src = src := by
  have hm := List.mem_of_find?_eq_some h
  unfold State.resvOf at hm
  simpa using (List.mem_filter.1 hm).2

theorem exec_reservationTimeout_none {s : State} {src : Source} {tag : Nat}
    (h : (s.resvOf src).find? (fun r => r.tag = tag) = none) : exec (.reservationTimeout src tag) s = .next s := by
  simp only [exec, execReservationTimeout, h]

theorem exec_reservationTimeout_some {s : State} {src : Source} {tag : Nat} {r : Reservation}
    (h : (s.resvOf src).find? (fun r => r.tag = tag) = some r) :
    exec (.reservationTimeout src tag) s = .next (if s.resvDue r then s.timeoutResv r else s) := by
  simp only [exec, execReservationTimeout, h]

/-- A reservation completed locally is gone, and its source has the reply (R60, R86). -/
theorem State.complete_effect (s : State) (r : Reservation) (st : Nat) :
    (s.complete r st).reservations = s.reservations.filter (· ≠ r) ∧ sourceReplied s (s.complete r st) r.src (s.ownReply r st) :=
  ⟨(State.giveReply_rest { s with reservations := s.reservations.filter (· ≠ r) } r.src _).2.2.1,
    sourceReplied_from (u := { s with reservations := s.reservations.filter (· ≠ r) }) (fun _ => rfl) rfl rfl
      (State.giveReply_replied _ r.src _)⟩

theorem State.rd_complete (s : State) (r : Reservation) (st : Nat) (p : PageId) (x : Reg) (i : Nat) :
    (s.complete r st).rd p x i = s.rd p x i :=
  (State.giveReply_rest { s with reservations := s.reservations.filter (· ≠ r) } r.src _).1 p x i

/-! ## The statement -/

/-- Settles O39: a request by its tag and route, a reply by its header, its poison and its reservation, a timeout by its tick. -/
theorem requestsAreReservedAndCompleted : Obligations.RequestsAreReservedAndCompleted := by
  refine ⟨fun src f g s hg => ?_, fun src f s => ?_, fun src tag s => ?_⟩
  · refine ⟨s.inject src f, rfl, fun hp => ?_, fun hp ht => ?_, fun st unr hp ht hr => ?_, fun o hp ht hr => ?_⟩
    · rw [State.inject_poisoned hg hp]
      obtain ⟨h1, h2, h3, -⟩ := State.taken_rest s src g
      exact ⟨h1, h2, h3⟩
    · rw [State.inject_tagged hg hp ht]
      obtain ⟨e1, e2, e3, e4⟩ := State.tagError_rest s src
      obtain ⟨h1, h2, h3⟩ := State.answered_effect (s.tagError src) src (localReply g 0xE2 s.now) g
      refine ⟨h1.trans e1, sourceReplied_from (fun n => congrArg Link.msgs (State.link_of e2 n)) e3 e4 h2, fun n hn => ?_⟩
      subst hn
      exact (h3 _ _ _).trans (counted_bump_link s n (by decide) rfl rfl)
    · rw [State.inject_answered hg hp ht hr]
      obtain ⟨e1, e2, e3, e4⟩ := State.unroutable_rest s (srcKeep src) unr
      obtain ⟨h1, h2, h3⟩ := State.answered_effect (s.unroutable (srcKeep src) unr) src (localReply g st s.now) g
      refine ⟨h1.trans e1, sourceReplied_from (fun n => congrArg Link.msgs (State.link_of e2 n)) e3 e4 h2, fun hu => ?_⟩
      subst hu
      obtain ⟨hc, hs, -⟩ := State.discardCounted s (srcKeep src) (r := Kr.UNROUTABLE) (i := 1) (by decide) rfl rfl (by decide) (by decide)
      refine ⟨(h3 _ _ _).trans hc, ?_⟩
      unfold errSet
      rw [h3]
      exact hs
    · rw [State.inject_sent hg hp ht hr]
      obtain ⟨h1, h2⟩ := State.enter_rest ((s.reserved src g o).emit (.inject src o)) src o
      refine ⟨h1, h2, fun n hn hcut => ?_⟩
      subst hn
      change AL.getD (((s.reserved (.endpoint n) g o).emit (.inject (.endpoint n) o)).bufferIn n o).opn.inputs (n, o.vc) [] = _
      rw [State.inputs_bufferIn (by exact hcut), AL.getD_put_self]
      rfl
  · by_cases hg : s.serviceGood
    · refine ⟨_, exec_replyReceive_good src f hg, fun _ => ?_, fun e hs hh hl => ?_⟩
      · have hsame : (s.atSource src f).reservations = s.reservations ∧ (s.atSource src f).out = s.out ∧
            (∀ n, (s.atSource src f).link n = s.link n) ∧ (s.atSource src f).answers = s.answers ∧
            (∀ p x i, (s.atSource src f).rd p x i = s.rd p x i) := by
          unfold State.atSource
          cases src <;> exact ⟨rfl, rfl, fun _ => rfl, rfl, fun _ _ _ => rfl⟩
        obtain ⟨u1, u2, u3, u4, u5⟩ := hsame
        have hresv : (s.atSource src f).resvOf src = s.resvOf src := by
          unfold State.resvOf
          rw [u1]
        obtain ⟨h1, h2, h3, h4⟩ := State.reply_effect (s.atSource src f) src f
        have hcnt : ∀ {t : State} {p : PageId} {r : Reg}, counted (s.atSource src f) t p r 1 → counted s t p r 1 := by
          intro t p r h
          exact h.trans (by rw [u5])
        refine ⟨fun hb => ?_, fun hb hp => ?_, fun r hb hp hr => ?_, fun hb hp hr => ?_⟩
        · obtain ⟨r1, r2, r3, r4⟩ := h1 hb
          exact ⟨r1.trans u1, r2.trans u2, r3, hcnt r4⟩
        · rw [h2 hb hp]
          exact ⟨u1, u2⟩
        · obtain ⟨r1, r2⟩ := h3 r hb hp (by rw [hresv, hr])
          exact ⟨r1.trans (by rw [u1]), sourceReplied_from (fun n => congrArg Link.msgs (u3 n)) u2 u4 r2⟩
        · obtain ⟨r1, r2, r3⟩ := h4 hb hp (by rw [hresv, hr])
          exact ⟨r1.trans u1, r2.trans u2, fun n hn => hcnt (r3 n hn)⟩
      · obtain ⟨x, hx, hp, -, -⟩ := hl
        exact absurd hp (hg x hx e)
    · obtain ⟨t, ht⟩ : ∃ t, exec (.replyReceive src f) s = .next t := ⟨_, rfl⟩
      refine ⟨t, ht, fun h => absurd h hg, fun e hs hh hl => ?_⟩
      rw [exec_replyReceive_lost hs hh hl] at ht
      obtain rfl : ((s.unserve e f).flitRead (.service e) f).2 = t := by injection ht
      obtain ⟨h1, h2⟩ := State.flitRead_rest (s.unserve e f) (.service e) f
      exact ⟨h2, h1⟩
  · cases hf : (s.resvOf src).find? (fun r => r.tag = tag) with
    | none => exact ⟨s, exec_reservationTimeout_none hf, fun _ => rfl, nofun⟩
    | some r =>
      refine ⟨_, exec_reservationTimeout_some hf, nofun, fun r' hr' => ?_⟩
      obtain rfl : r = r' := by simpa using hr'
      refine ⟨fun hd => by rw [hd]; rfl, fun hd => ?_⟩
      obtain ⟨h1, h2⟩ := State.complete_effect s r 0xE0
      have hsrc := State.resv_of_find hf
      rw [hd, if_pos rfl]
      subst hsrc
      unfold State.timeoutResv
      dsimp only
      split
      · rename_i n hn
        refine ⟨by simp [h1], ?_, fun m hm => ?_⟩
        · exact sourceReplied_to (by simp) (by simp) (by simp) (by simp) h2
        · obtain rfl : n = m := by simpa [hn] using hm
          exact (counted_bump_link (s.complete r 0xE0) n (by decide) rfl rfl).trans (by rw [State.rd_complete])
      · rename_i hn
        exact ⟨h1, h2, fun m hm => absurd hm (hn m)⟩

end Sys2Proof.Machine
end

