-- ==== Sys2Proof/Proofs/OpenPlaneSwitch.lean ====
section
/-! SUPPORT. The ingress switch (R61, R81, R84, R89, R92, R125): the credits of freed cells, what ends a packet, and each way of the
head flit of an input buffer. -/

namespace Sys2Proof.Machine

open Sys2Proof

/-! ## Credits of freed cells -/

/-- No shared holding closes while the pool holds what is used (R121, R122). -/
theorem State.closeShared_none {s : State} {l : Nat} (h : s.poolUsed (keepOfLink l) ≤ s.poolCells (keepOfLink l)) (vc n : Nat) :
    s.sharedClosed l vc n = 0 ∧ s.closeShared l vc n = s := by
  have h0 : s.sharedClosed l vc n = 0 := if_neg (by omega)
  exact ⟨h0, if_pos h0⟩

theorem creditsReturn : CreditsReturn := by
  intro l vc n s h
  obtain ⟨h0, hs⟩ := State.closeShared_none h vc n
  rw [State.returnCredit_eq, h0, hs]
  by_cases hc : s.linkUp l = true ∧ 0 < n
  · rw [if_pos hc, if_pos (by simp [hc])]
    rfl
  · rw [if_neg hc, if_neg (by simpa using hc)]

/-! ## Fields of a header -/

theorem testBit_bits (v lo w i : Nat) : (bits v lo w).testBit i = (decide (i < w) && v.testBit (lo + i)) := by
  rw [bits, Nat.testBit_mod_two_pow, Nat.testBit_div_two_pow, Nat.add_comm]

theorem replaceBits_eq (h v lo w : Nat) : h - bits h lo w * 2 ^ lo + v % 2 ^ w * 2 ^ lo =
    2 ^ lo * (2 ^ w * (h / 2 ^ lo / 2 ^ w) + v % 2 ^ w) + h % 2 ^ lo := by
  have h1 := Nat.div_add_mod h (2 ^ lo)
  have h2 := Nat.div_add_mod (h / 2 ^ lo) (2 ^ w)
  have hb : bits h lo w * 2 ^ lo + (2 ^ lo * (2 ^ w * (h / 2 ^ lo / 2 ^ w)) + h % 2 ^ lo) = h := by
    calc bits h lo w * 2 ^ lo + (2 ^ lo * (2 ^ w * (h / 2 ^ lo / 2 ^ w)) + h % 2 ^ lo)
        = 2 ^ lo * (2 ^ w * (h / 2 ^ lo / 2 ^ w) + h / 2 ^ lo % 2 ^ w) + h % 2 ^ lo := by rw [bits]; ring
      _ = h := by rw [h2, h1]
  rw [Nat.sub_eq_of_eq_add' hb.symm]
  ring

theorem Flit.testBit_setField (f : Flit) (lo w v i : Nat) (hi : i < 128) : (f.setField lo w v).hdr.toNat.testBit i =
    if lo ≤ i ∧ i < lo + w then v.testBit (i - lo) else f.hdr.toNat.testBit i := by
  have h0 := Nat.mod_lt f.hdr.toNat (Nat.two_pow_pos lo)
  have hv := Nat.mod_lt v (Nat.two_pow_pos w)
  show (BitVec.ofNat 128 _).toNat.testBit i = _
  rw [BitVec.toNat_ofNat, Nat.testBit_mod_two_pow, decide_eq_true hi, Bool.true_and, replaceBits_eq,
    Nat.testBit_two_pow_mul_add _ h0]
  by_cases h1 : i < lo
  · rw [if_pos h1, if_neg (by omega), Nat.testBit_mod_two_pow, decide_eq_true h1, Bool.true_and]
  · rw [if_neg h1, Nat.testBit_two_pow_mul_add _ hv]
    by_cases h2 : i < lo + w
    · rw [if_pos (by omega), if_pos (by omega), Nat.testBit_mod_two_pow, decide_eq_true (by omega), Bool.true_and]
    · rw [if_neg (by omega), if_neg (by omega), Nat.testBit_div_two_pow, Nat.testBit_div_two_pow]
      congr 1
      omega

theorem Flit.field_setField_self (f : Flit) {lo w : Nat} (v : Nat) (hb : lo + w ≤ 128) : (f.setField lo w v).field lo w = v % 2 ^ w := by
  refine Nat.eq_of_testBit_eq fun i => ?_
  rw [Flit.field, testBit_bits, Nat.testBit_mod_two_pow]
  by_cases h : i < w
  · rw [Flit.testBit_setField _ _ _ _ _ (by omega), if_pos (by omega), Nat.add_sub_cancel_left]
  · simp [h]

theorem Flit.field_setField_other (f : Flit) {lo w lo' w' : Nat} (v : Nat) (h : lo + w ≤ lo' ∨ lo' + w' ≤ lo) (hb : lo' + w' ≤ 128) :
    (f.setField lo w v).field lo' w' = f.field lo' w' := by
  refine Nat.eq_of_testBit_eq fun i => ?_
  rw [Flit.field, Flit.field, testBit_bits, testBit_bits]
  by_cases hi : i < w'
  · rw [Flit.testBit_setField _ _ _ _ _ (by omega), if_neg (by omega)]
  · simp [hi]

/-- The flit that ends a packet keeps the fields of the flit it is made from that it does not set. -/
theorem lastInPlace_field (now : Nat) (f : Flit) {lo w : Nat} (h : 8 ≤ lo) (h' : lo + w ≤ 112) :
    (lastInPlace now f).field lo w =
      (((((f.setField 80 8 0x20).setField 88 4 0).setField 46 1 0).setField 47 1 1).setField 48 16 now).field lo w := by
  unfold lastInPlace Flit.sealed
  rw [Flit.field_setField_other _ _ (by omega) (by omega), Flit.field_setField_other _ _ (by omega) (by omega)]
  rfl

/-- What ends a packet is a LAST flit with POISON set, from the packet's source (R125). -/
theorem lastInPlace_ends (now : Nat) (f : Flit) :
    (lastInPlace now f).last = true ∧ (lastInPlace now f).poison = true ∧ (lastInPlace now f).src = f.src := by
  refine ⟨decide_eq_true ?_, decide_eq_true (Flit.field_setField_self _ _ (by decide)), ?_⟩
  · rw [lastInPlace_field _ _ (by decide) (by decide), Flit.field_setField_other _ _ (by decide) (by decide),
      Flit.field_setField_self _ _ (by decide)]
    rfl
  · unfold Flit.src
    rw [lastInPlace_field _ _ (by decide) (by decide), Flit.field_setField_other _ _ (by decide) (by decide),
      Flit.field_setField_other _ _ (by decide) (by decide), Flit.field_setField_other _ _ (by decide) (by decide),
      Flit.field_setField_other _ _ (by decide) (by decide), Flit.field_setField_other _ _ (by decide) (by decide)]

/-! ## Flits read out of a Keep's buffer (R337) -/

/-- A flit whose header is beyond correction is not read. -/
theorem State.flitRead_lost {s : State} {p : FlitAt} (f : Flit) (h : s.headerLost p) : (s.flitRead p f).1 = none := by
  obtain ⟨e, he, hp, hh, hl⟩ := h
  unfold State.flitRead
  refine if_pos (List.any_eq_true.2 ⟨e, List.mem_filter.2 ⟨he, by simpa using hp⟩, ?_⟩)
  simp [hh, hl]

/-- The read of a flit changes no queue. -/
@[simp] theorem State.flitRead_opn (s : State) (p : FlitAt) (f : Flit) : (s.flitRead p f).2.opn = s.opn :=
  (State.flitRead_parts (M := (· ≠ .opn)) (parts_refl s) p f (by decide) (by decide) (by decide) (by decide)
    (by decide)).same_of (p := .opn) (by simp)

/-! ## A flit that is discarded at the switch (R125) -/

/-- What discarding a flit at the switch keeps: all that a change of the queues, a poisoned packet and returned credits keep. -/
theorem State.switchLost_holds {P : State → Prop} (h1 : ∀ t o, P t → P (State.setOpn t o)) (h2 : ∀ t k, P t → P (State.fwdPoison t k))
    (h3 : ∀ t l v n, P t → P (State.returnCredit t l v n)) {s : State} (l vc : Nat) (f : Flit) (h : P s) : P (s.switchLost l vc f) := by
  unfold State.switchLost
  dsimp only
  split
  · split
    · exact h3 _ _ _ _ h
    · exact h3 _ _ _ _ (h2 _ _ (h1 _ _ h))
  · split
    · exact h3 _ _ _ _ (h2 _ _ (h1 _ _ h))
    · exact h3 _ _ _ _ (h1 _ _ h)

@[simp] theorem State.returnCredit_rd (s : State) (l v n : Nat) (p : PageId) (x : Reg) (i : Nat) :
    (s.returnCredit l v n).rd p x i = s.rd p x i := (State.returnCredit_sent s l v n).rd p x i

@[simp] theorem State.returnCredit_opn (s : State) (l v n : Nat) : (s.returnCredit l v n).opn = s.opn :=
  (State.returnCredit_sent s l v n).opn

/-- A counter beyond the page header changes no bit of PG_ERR. -/
theorem errSet_bumped {s : State} {p q : PageId} {i : Nat} {r : Reg} (n : Nat) (hr : 0x100 ≤ r.off) (ht : q.ty ≠ 0x51)
    (h : errSet s p i) : errSet (s.bump q r n) p i := by
  have h1 : Hdr.PG_ERR.off < 0x100 ∧ Hdr.FREEZE.off < 0x100 := by decide
  refine errSet_bump _ _ _ _ _ _ h (fun e => ?_) ?_
  · simp [rkey, Hdr.PG_ERR] at e
    omega
  · rintro (e | e)
    · simp [rkey] at e
      omega
    · exact ht (by simpa [rkey, pgIntegrity] using congrArg RegKey.ty e)

theorem errSet_fwdPoison {s : State} {p : PageId} {i : Nat} (k : Nat) (hi : i < 32) (h : errSet s p i) : errSet (s.fwdPoison k) p i :=
  errSet_err _ _ hi (errSet_bumped _ (by decide) (by simp [pgKeep]) h)

/-- A flit discarded and counted by a Keep, then lost at the switch: the count and the bit of PG_ERR stand (R61, R89). -/
theorem State.switchLost_counted (s : State) (k l vc : Nat) (f : Flit) {r : Reg} {i : Nat} (hr : 0x100 ≤ r.off)
    (hk : r.kind = .counterWrap) (hw : r.w = 32) (ho : r.off + r.stride * 0 ≠ 0x3C8 ∧ r.off + r.stride * 0 ≠ Opn.FWD_POISON.off)
    (hi : i < 32) :
    counted s ((((s.bump (pgKeep k) r).err (pgKeep k) i)).switchLost l vc f) (pgKeep k) r 1 ∧
    errSet ((((s.bump (pgKeep k) r).err (pgKeep k) i)).switchLost l vc f) (pgKeep k) i := by
  obtain ⟨hc, he, -⟩ := State.discardCounted s k hr hk hw ho.1 hi
  refine ⟨?_, ?_⟩
  · refine State.switchLost_holds (P := fun t => counted s t (pgKeep k) r 1) (fun t o h => h) (fun t j h => ?_) (fun t l v n h => ?_) l vc f hc
    · exact (State.rd_fwdPoison_keep t j k hr ho).trans h
    · exact (State.returnCredit_rd t l v n _ _ _).trans h
  · refine State.switchLost_holds (P := fun t => errSet t (pgKeep k) i) (fun t o h => h) (fun t j h => errSet_fwdPoison j hi h)
      (fun t l v n h => ?_) l vc f he
    unfold errSet at h ⊢
    rwa [State.returnCredit_rd]

/-! ## The switch, by the state of the head flit -/

section
variable {s : State} {l vc : Nat} {f : Flit} {rest : List Flit}

theorem State.ingressSwitch_empty (h : AL.getD s.opn.inputs (l, vc) [] = []) : s.ingressSwitch l vc = s := by
  unfold State.ingressSwitch
  rw [h]

theorem State.ingressSwitch_read (h : AL.getD s.opn.inputs (l, vc) [] = f :: rest) (hl : s.headerLost (.input l vc)) :
    s.ingressSwitch l vc = ((s.headTaken l vc rest).flitRead (.input l vc) f).2.switchLost l vc f := by
  have hn : ((s.headTaken l vc rest).flitRead (.input l vc) f).1 = none := State.flitRead_lost f hl
  unfold State.ingressSwitch
  rw [h]
  unfold State.headTaken at hn ⊢
  dsimp only
  generalize State.flitRead _ _ _ = x at hn ⊢
  obtain ⟨o, t⟩ := x
  subst hn
  rfl

/-- A flit is for a unit of this module. -/
def State.arrivedHere (s : State) (l : Nat) (f : Flit) : Bool := s.nextHop (keepOfLink l) f (travelOf l) = none && f.dstM

/-- The head flit sent on, with its credits returned where it waits nowhere (R121). -/
def State.headForwarded (s : State) (l vc : Nat) (f : Flit) : State :=
  let t := s.forward (keepOfLink l) .ingress (some (l, vc)) (travelOf l) f
  (if t.opn.ready.length = s.opn.ready.length then t.returnCredit l vc f.cells else t).noteSwitched l vc f

/-- The switch of a flit that is read as it stands. -/
theorem State.ingressSwitch_good (h : AL.getD s.opn.inputs (l, vc) [] = f :: rest) (hg : s.flitGood (.input l vc)) :
    s.ingressSwitch l vc =
      if !f.hcrcOk then ((s.headTaken l vc rest).headerDiscard (keepOfLink l)).switchLost l vc f
      else if s.tooOld (keepOfLink l) f then ((s.headTaken l vc rest).ageDiscard (keepOfLink l)).switchLost l vc f
      else if s.arrivedHere l f && s.staleRequest (keepOfLink l) f then
        (((s.headTaken l vc rest).bump (pgKeep (keepOfLink l)) Kr.STALE).err (pgKeep (keepOfLink l)) 6).returnCredit l vc f.cells
      else (s.headTaken l vc rest).headForwarded l vc f := by
  have hr : (s.setOpn { s.opn with inputs := AL.put s.opn.inputs (l, vc) rest }).flitRead (.input l vc) f =
      (some f, s.headTaken l vc rest) := State.flitRead_good f hg
  unfold State.ingressSwitch
  rw [h]
  dsimp only
  rw [hr]
  rfl

theorem State.ingressSwitch_stale (h : AL.getD s.opn.inputs (l, vc) [] = f :: rest) (hg : s.flitGood (.input l vc))
    (hc : f.hcrcOk = true) (ho : s.tooOld (keepOfLink l) f = false) (hn : s.nextHop (keepOfLink l) f (travelOf l) = none)
    (hm : f.dstM = true) (hs : s.staleRequest (keepOfLink l) f = true) : s.ingressSwitch l vc =
      (((s.headTaken l vc rest).bump (pgKeep (keepOfLink l)) Kr.STALE).err (pgKeep (keepOfLink l)) 6).returnCredit l vc f.cells := by
  rw [State.ingressSwitch_good h hg, if_neg (by simp [hc]), if_neg (by simp [ho]), if_pos]
  simp [State.arrivedHere, hn, hm, hs]

theorem State.ingressSwitch_sent (h : AL.getD s.opn.inputs (l, vc) [] = f :: rest) (hg : s.flitGood (.input l vc))
    (hc : f.hcrcOk = true) (ho : s.tooOld (keepOfLink l) f = false)
    (hs : s.nextHop (keepOfLink l) f (travelOf l) ≠ none ∨ f.dstM = false ∨ s.staleRequest (keepOfLink l) f = false) :
    s.ingressSwitch l vc = (s.headTaken l vc rest).headForwarded l vc f := by
  rw [State.ingressSwitch_good h hg, if_neg (by simp [hc]), if_neg (by simp [ho]), if_neg]
  simp only [State.arrivedHere, Bool.and_eq_true, decide_eq_true_eq, not_and, Bool.not_eq_true, and_imp]
  intro hn hm
  rcases hs with hs | hs | hs
  · exact absurd hn hs
  · simp [hs] at hm
  · exact hs

end

/-! ## A flit sent on from a Keep (R81, R84) -/

@[simp] theorem State.headTaken_nextHop (s : State) (l vc : Nat) (rest : List Flit) (k : Nat) (f : Flit) (t : Option Nat) :
    (s.headTaken l vc rest).nextHop k f t = s.nextHop k f t := rfl

@[simp] theorem State.headTaken_rd (s : State) (l vc : Nat) (rest : List Flit) (p : PageId) (x : Reg) (i : Nat) :
    (s.headTaken l vc rest).rd p x i = s.rd p x i := rfl

@[simp] theorem State.headTaken_lstate (s : State) (l vc : Nat) (rest : List Flit) (j : Nat) :
    (s.headTaken l vc rest).lstate j = s.lstate j := rfl

/-- The flit that waits for admission to the output of a torus direction (R81, R82). -/
def State.torusReady (s : State) (k : Nat) (src : QSource) (buf : Option (Nat × Nat)) (travel : Option Nat) (f : Flit) (d : Nat) : Ready :=
  { keep := keepOfLink (torusLink d), out := outOfLink (torusLink d), vc := s.hopVc f travel d, buf := buf,
    flit := f.setField 3 3 (s.hopVc f travel d),
    entering := !(match travel with | some t => Decidable.decide (t / 2 = d / 2) | none => false),
    src := if src = .ingress && keepOfLink (torusLink d) ≠ k then .keep k else src }

/-- The flit that waits for admission to the output of an endpoint. -/
def endpointReady (k : Nat) (src : QSource) (buf : Option (Nat × Nat)) (f : Flit) : Ready :=
  { keep := f.dst % 16 / 4, out := f.dst % 16 % 4, vc := 2 * (f.vc / 2), buf := buf, flit := f.setField 3 3 (2 * (f.vc / 2)),
    entering := false, src := if src = .ingress && f.dst % 16 / 4 ≠ k then .keep k else src }

/-- The frame flit that waits for admission to the host output. -/
def frameReady (k : Nat) (src : QSource) (buf : Option (Nat × Nat)) (f : Flit) : Ready :=
  { keep := 3, out := 4, vc := 2 * (f.vc / 2), buf := buf, flit := f, entering := false,
    src := if src = .ingress && k ≠ 3 then .keep k else src }

/-- A flit discarded for a FAILED torus link (R84). -/
def State.routeLost (s : State) (d : Nat) : State :=
  (s.bump (pgKeep (keepOfLink (torusLink d))) Kr.UNROUTABLE).err (pgKeep (keepOfLink (torusLink d))) 1

section
variable {s : State} {k : Nat} {travel : Option Nat} {f : Flit} (src : QSource) (buf : Option (Nat × Nat))

theorem State.forward_torus {d : Nat} (h : s.nextHop k f travel = some d) : s.forward k src buf travel f =
    if s.lstate (torusLink d) = 6 then s.routeLost d else s.makeReady (s.torusReady k src buf travel f d) := by
  unfold State.forward
  rw [h]
  rfl

theorem State.forward_frame (h : s.nextHop k f travel = none) (hm : f.dstM = true) (hu : f.dst % 16 = 2) (ho : f.opcode = 0x20) :
    s.forward k src buf travel f = s.makeReady (frameReady k src buf f) := by
  unfold State.forward
  rw [h]
  exact if_pos (by simp [hm, hu, ho])

theorem State.forward_unit (h : s.nextHop k f travel = none) (hm : f.dstM = true) (hu : f.dst % 16 ≠ 2 ∨ f.opcode ≠ 0x20) :
    s.forward k src buf travel f = s.deliver (f.dst % 16) k f := by
  unfold State.forward
  rw [h]
  refine (if_neg ?_).trans (if_pos hm)
  simp only [hm, Bool.true_and, Bool.and_eq_true, decide_eq_true_eq]
  exact not_and_or.2 hu

theorem State.forward_endpoint (h : s.nextHop k f travel = none) (hm : f.dstM = false) :
    s.forward k src buf travel f = s.makeReady (endpointReady k src buf f) := by
  unfold State.forward
  rw [h]
  exact (if_neg (by simp [hm])).trans (if_neg (by simp [hm]))

end

@[simp] theorem State.makeReady_ready (s : State) (r : Ready) : (s.makeReady r).opn.ready = s.opn.ready ++ [r] := rfl

@[simp] theorem State.routeLost_opn (s : State) (d : Nat) : (s.routeLost d).opn = s.opn :=
  (State.err_opn _ _ _).trans (State.bump_opn ..)

/-- A flit sent on changes no input buffer. -/
theorem State.forward_inputs (s : State) (k : Nat) (src : QSource) (buf : Option (Nat × Nat)) (travel : Option Nat) (f : Flit) :
    (s.forward k src buf travel f).opn.inputs = s.opn.inputs := by
  unfold State.forward
  split
  · dsimp only
    split
    · exact congrArg OpenPlane.inputs (State.routeLost_opn s _)
    · rfl
  · split
    · rfl
    · split <;> rfl

/-! ## The head flit sent on -/

@[simp] theorem State.noteSwitched_rest (s : State) (l vc : Nat) (f : Flit) :
    (s.noteSwitched l vc f).opn.inputs = s.opn.inputs ∧ (s.noteSwitched l vc f).opn.ready = s.opn.ready ∧
    (s.noteSwitched l vc f).out = s.out ∧ ∀ p x i, (s.noteSwitched l vc f).rd p x i = s.rd p x i :=
  ⟨rfl, rfl, rfl, fun _ _ _ => rfl⟩

section
variable {s t : State} {l : Nat} {f : Flit} (vc : Nat)

/-- A flit that waits for admission keeps its cells (R121). -/
theorem State.headForwarded_waits {r : Ready} (h : s.forward (keepOfLink l) .ingress (some (l, vc)) (travelOf l) f = s.makeReady r) :
    s.headForwarded l vc f = (s.makeReady r).noteSwitched l vc f := by
  unfold State.headForwarded
  rw [h]
  dsimp only
  rw [if_neg]
  simp

/-- A flit that waits nowhere frees its cells (R121). -/
theorem State.headForwarded_leaves (h : s.forward (keepOfLink l) .ingress (some (l, vc)) (travelOf l) f = t)
    (hr : t.opn.ready = s.opn.ready) : s.headForwarded l vc f = (t.returnCredit l vc f.cells).noteSwitched l vc f := by
  unfold State.headForwarded
  rw [h]
  dsimp only
  rw [if_pos (by rw [hr])]

end

theorem State.headForwarded_inputs (s : State) (l vc : Nat) (f : Flit) : (s.headForwarded l vc f).opn.inputs = s.opn.inputs := by
  unfold State.headForwarded
  dsimp only
  rw [(State.noteSwitched_rest ..).1]
  split
  · rw [State.returnCredit_opn, State.forward_inputs]
  · rw [State.forward_inputs]

/-- The frame of a module's host port is no memory request (Table 03.3). -/
theorem State.staleRequest_frame {s : State} {k : Nat} {f : Flit} (h : f.opcode = 0x20) : s.staleRequest k f = false := by
  unfold State.staleRequest isMemRequest
  simp [h]

/-! ## The statement's clauses -/

theorem exec_ingressSwitch (l vc : Nat) (s : State) : exec (.ingressSwitch l vc) s = .next (s.ingressSwitch l vc) := rfl

/-- The LAST flit of a packet under way that is lost is replaced at the head of the buffer (R125). -/
theorem State.switchLost_replaced {s : State} {l vc : Nat} {f g : Flit} (hf : f.last = true)
    (hg : AL.get s.opn.switched (l, vc) = some g) : AL.getD (s.switchLost l vc f).opn.inputs (l, vc) [] =
      lastInPlace s.now g :: AL.getD s.opn.inputs (l, vc) [] := by
  unfold State.switchLost
  dsimp only
  rw [if_pos hf, hg]
  dsimp only
  rw [State.returnCredit_opn]
  unfold State.fwdPoison
  rw [State.err_opn, State.bump_opn]
  exact AL.getD_put_self ..

/-- The LAST flit of a packet of one flit frees its cells. -/
theorem State.switchLost_single {s : State} {l vc : Nat} {f : Flit} (hf : f.last = true)
    (hg : AL.get s.opn.switched (l, vc) = none) : s.switchLost l vc f = s.returnCredit l vc f.cells := by
  unfold State.switchLost
  dsimp only
  rw [if_pos hf, hg]

section
variable {s : State} {l vc : Nat} {f : Flit} {rest : List Flit}

/-- A stale request is counted and waits nowhere (R92). -/
theorem State.staleDiscard_effect (u : State) (k l vc n : Nat) :
    let t := (((u.bump (pgKeep k) Kr.STALE).err (pgKeep k) 6).returnCredit l vc n)
    t.opn = u.opn ∧ counted u t (pgKeep k) Kr.STALE 1 ∧ errSet t (pgKeep k) 6 := by
  obtain ⟨hc, he, hs⟩ := State.discardCounted u k (r := Kr.STALE) (i := 6) (by decide) rfl rfl (by decide) (by decide)
  refine ⟨(State.returnCredit_opn ..).trans hs.opn, (State.returnCredit_rd ..).trans hc, ?_⟩
  unfold errSet at he ⊢
  rwa [State.returnCredit_rd]

/-- A flit for a FAILED torus link is counted and waits nowhere (R84). -/
theorem State.headForwarded_failed {d : Nat} (h : s.nextHop (keepOfLink l) f (travelOf l) = some d)
    (h6 : s.lstate (torusLink d) = 6) : (s.headForwarded l vc f).opn.ready = s.opn.ready ∧
      counted s (s.headForwarded l vc f) (pgKeep (keepOfLink (torusLink d))) Kr.UNROUTABLE 1 ∧
      errSet (s.headForwarded l vc f) (pgKeep (keepOfLink (torusLink d))) 1 := by
  obtain ⟨hc, he, -⟩ := State.discardCounted s (keepOfLink (torusLink d)) (r := Kr.UNROUTABLE) (i := 1) (by decide) rfl rfl
    (by decide) (by decide)
  rw [State.headForwarded_leaves vc ((State.forward_torus _ _ h).trans (if_pos h6)) (by rw [State.routeLost_opn])]
  obtain ⟨-, hready, -, hrd⟩ := State.noteSwitched_rest ((s.routeLost d).returnCredit l vc f.cells) l vc f
  refine ⟨hready.trans ?_, (hrd ..).trans ((State.returnCredit_rd ..).trans hc), ?_⟩
  · rw [State.returnCredit_opn, State.routeLost_opn]
  · unfold errSet at he ⊢
    rwa [hrd, State.returnCredit_rd]

/-- A flit for another torus link waits for admission to that output (R81). -/
theorem State.headForwarded_torus {d : Nat} (h : s.nextHop (keepOfLink l) f (travelOf l) = some d)
    (h6 : s.lstate (torusLink d) ≠ 6) : (s.headForwarded l vc f).out = s.out ∧ (s.headForwarded l vc f).opn.ready =
      s.opn.ready ++ [s.torusReady (keepOfLink l) .ingress (some (l, vc)) (travelOf l) f d] := by
  rw [State.headForwarded_waits vc ((State.forward_torus _ _ h).trans (if_neg h6))]
  exact ⟨rfl, rfl⟩

/-- The source of a flit that an ingress switch hands to an output: the same Keep, or the one that it comes from (R123). -/
theorem ingressSource (j k m : Nat) : (if (Decidable.decide (QSource.ingress = .ingress) && Decidable.decide (j ≠ k)) = true then
    QSource.keep m else .ingress) = if j = k then .ingress else .keep m := by
  by_cases h : j = k <;> simp [h]

end

theorem flitsAreSwitched : FlitsAreSwitched := by
  refine ⟨fun l vc s h => by rw [exec_ingressSwitch, State.ingressSwitch_empty h], fun l vc f rest s h hl => ?_,
    fun l vc f g s hf hg => ?_, fun l vc f s hf hg => State.switchLost_single hf hg, fun l vc f rest s h hg => ?_⟩
  · exact ⟨_, _, by rw [exec_ingressSwitch, State.ingressSwitch_read h hl], rfl, State.flitRead_opn ..⟩
  · obtain ⟨h1, h2, h3⟩ := lastInPlace_ends s.now g
    exact ⟨_, h1, h2, h3, State.switchLost_replaced hf hg⟩
  · refine ⟨_, exec_ingressSwitch l vc s, ?_⟩
    have hin : ∀ u : State, u.opn = (s.headTaken l vc rest).opn → u.opn.inputs = AL.put s.opn.inputs (l, vc) rest :=
      fun u hu => congrArg OpenPlane.inputs hu
    refine ⟨fun hc => ?_, fun hc ho => ?_, fun hc ho => ?_, fun hc ho hn hm => ⟨fun hs => ?_, fun hs hu => ?_, fun hu hop => ?_⟩,
      fun n hc ho hn hm hd => ?_, fun d hc ho hn => ⟨fun h6 => ?_, fun h6 => ?_⟩⟩
    · have e : s.ingressSwitch l vc = ((s.headTaken l vc rest).headerDiscard (keepOfLink l)).switchLost l vc f := by
        rw [State.ingressSwitch_good h hg, if_pos (by simp [hc])]
      rw [e]
      exact ⟨rfl, State.switchLost_counted (s.headTaken l vc rest) (keepOfLink l) l vc f (by decide) rfl rfl (by decide) (by decide)⟩
    · have e : s.ingressSwitch l vc = ((s.headTaken l vc rest).ageDiscard (keepOfLink l)).switchLost l vc f := by
        rw [State.ingressSwitch_good h hg, if_neg (by simp [hc]), if_pos ho]
      rw [e]
      exact ⟨rfl, State.switchLost_counted (s.headTaken l vc rest) (keepOfLink l) l vc f (by decide) rfl rfl (by decide) (by decide)⟩
    · by_cases hs : s.nextHop (keepOfLink l) f (travelOf l) ≠ none ∨ f.dstM = false ∨ s.staleRequest (keepOfLink l) f = false
      · rw [State.ingressSwitch_sent h hg hc ho hs, State.headForwarded_inputs]
        rfl
      · simp only [not_or, not_not, Bool.not_eq_false] at hs
        rw [State.ingressSwitch_stale h hg hc ho hs.1 hs.2.1 hs.2.2]
        exact hin _ (State.staleDiscard_effect (s.headTaken l vc rest) (keepOfLink l) l vc f.cells).1
    · rw [State.ingressSwitch_stale h hg hc ho hn hm hs]
      obtain ⟨ho, hct, he⟩ := State.staleDiscard_effect (s.headTaken l vc rest) (keepOfLink l) l vc f.cells
      rw [ho]
      exact ⟨rfl, rfl, hct, he⟩
    · rw [State.ingressSwitch_sent h hg hc ho (.inr (.inr hs)),
        State.headForwarded_leaves (s := s.headTaken l vc rest) vc (State.forward_unit _ _ hn hm hu) rfl]
    · rw [State.ingressSwitch_sent h hg hc ho (.inr (.inr (State.staleRequest_frame hop))),
        State.headForwarded_waits (s := s.headTaken l vc rest) vc (State.forward_frame _ _ hn hm hu hop), frameReady, ingressSource (keepOfLink l) 3 (keepOfLink l)]
    · rw [State.ingressSwitch_sent h hg hc ho (.inr (.inl hm)), State.headForwarded_waits (s := s.headTaken l vc rest) vc (State.forward_endpoint _ _ hn hm),
        endpointReady, ingressSource (f.dst % 16 / 4) (keepOfLink l), hd]
    · rw [State.ingressSwitch_sent h hg hc ho (.inl (by simp [hn]))]
      exact State.headForwarded_failed (s := s.headTaken l vc rest) hn h6
    · rw [State.ingressSwitch_sent h hg hc ho (.inl (by simp [hn]))]
      obtain ⟨h1, h2⟩ := State.headForwarded_torus (s := s.headTaken l vc rest) (vc := vc) hn h6
      exact ⟨h1, _, h2, rfl, rfl, rfl, rfl, rfl, ingressSource _ _ _⟩

end Sys2Proof.Machine
end
-- ==== Sys2Proof/Proofs/OpenPlaneQueues.lean ====
section
/-! SUPPORT. Egress queues (R89, R121–R130): admission of a waiting flit, and what becomes of one that is too old. -/

namespace Sys2Proof.Machine

open Sys2Proof

/-! ## The queues and the counters of a Keep -/

theorem State.queue_of {s t : State} (h : t.opn = s.opn) (k o vc : Nat) : t.queue k o vc = s.queue k o vc := by
  unfold State.queue
  rw [h]

@[simp] theorem State.queue_setQueue_self (s : State) (k o vc : Nat) (q : EgressQ) : (s.setQueue k o vc q).queue k o vc = q := by
  rw [State.queue_setQueue, if_pos rfl]

theorem counted_of {s t u : State} {p : PageId} {r : Reg} {n : Nat} (h : u.rd p r 0 = t.rd p r 0) (hc : counted s t p r n) :
    counted s u p r n := h.trans hc

theorem counted_from {s t u : State} {p : PageId} {r : Reg} {n : Nat} (h : u.rd p r 0 = s.rd p r 0) (hc : counted u t p r n) :
    counted s t p r n := by
  unfold counted at hc ⊢
  rw [hc, h]

/-- A counter of a Keep that counts wraps at 32 bits. -/
theorem State.bump_counted (s : State) (k : Nat) {r : Reg} (hr : 0x100 ≤ r.off) (hk : r.kind = .counterWrap) (hw : r.w = 32) :
    counted s (s.bump (pgKeep k) r) (pgKeep k) r 1 := by
  unfold counted
  rw [← hw]
  exact State.rd_bumpi_own s 1 hr (by simp [pgKeep]) hk

@[simp] theorem State.countLeft_opn (s : State) (k : Nat) (f : Flit) : (s.countLeft k f).opn = s.opn := by
  unfold State.countLeft
  split
  · exact (State.err_opn ..).trans (State.bump_opn ..)
  · rfl

@[simp] theorem State.countLeft_out (s : State) (k : Nat) (f : Flit) : (s.countLeft k f).out = s.out :=
  (State.countLeft_parts (M := (· ≠ .out)) (parts_refl s) k f (by decide) (by decide) (by decide) (by decide)).same_of (p := .out)
    (by simp)

theorem State.rd_countLeft_keep (s : State) (j k : Nat) (f : Flit) {x : Reg} (hx : 0x100 ≤ x.off)
    (h : x.off + x.stride * 0 ≠ 0x3C8 ∧ x.off + x.stride * 0 ≠ Opn.FWD_POISON.off) :
    (s.countLeft j f).rd (pgKeep k) x 0 = s.rd (pgKeep k) x 0 := by
  unfold State.countLeft
  split
  · exact State.rd_fwdPoison_keep s j k hx h
  · rfl

/-! ## Age (R89) -/

/-- A flit discarded for its age, with what it leaves of its packet: counted, and the queues are those of the state before. -/
theorem State.aged_effect (s : State) (k : Nat) (f : Flit) :
    ((s.countLeft k f).ageDiscard k).opn = s.opn ∧ ((s.countLeft k f).ageDiscard k).out = s.out ∧
      counted s ((s.countLeft k f).ageDiscard k) (pgKeep k) Kr.AGED 1 ∧ errSet ((s.countLeft k f).ageDiscard k) (pgKeep k) 7 := by
  obtain ⟨hc, he, hs⟩ := State.discardCounted (s.countLeft k f) k (r := Kr.AGED) (i := 7) (by decide) rfl rfl (by decide) (by decide)
  refine ⟨hs.opn.trans (State.countLeft_opn ..), ?_, counted_from (State.rd_countLeft_keep s k k f (by decide) (by decide)) hc, he⟩
  exact (State.ageDiscard_parts (M := (· ≠ .out)) (parts_refl (s.countLeft k f)) k (by decide) (by decide) (by decide)
    (by decide)).same_of (p := .out) (by simp) |>.trans (State.countLeft_out ..)

theorem find?_of_any {α : Type} {p : α → Bool} {l : List α} (h : l.any p = true) : ∃ x, l.find? p = some x := by
  rw [List.any_eq_true] at h
  obtain ⟨x, hx, hp⟩ := h
  exact Option.isSome_iff_exists.1 (List.find?_isSome.2 ⟨x, hx, hp⟩)

theorem find?_of_not_any {α : Type} {p : α → Bool} {l : List α} (h : l.any p = false) : l.find? p = none :=
  List.find?_eq_none.2 fun x hx hp => by simpa [hp] using List.any_eq_false.1 h x hx

section
variable {s : State} {k o vc : Nat}

/-- The waiting flits without the first that is too old, with what that leaves of its packet. -/
def State.readySwapped (s : State) (k o vc : Nat) : State :=
  s.setOpn { s.opn with ready := swapFirst (s.readyOld k o vc) (fun x => (s.leftOf x.flit).map fun f => { x with flit := f }) s.opn.ready }

theorem State.flitAged_sram {x : QFlit} (h : (s.queue k o vc).sram.find? (fun x => s.tooOld k x.flit) = some x) :
    s.flitAged k o vc = ((s.setQueue k o vc { s.queue k o vc with
      sram := swapFirst (fun x => s.tooOld k x.flit) s.leftQ (s.queue k o vc).sram }).countLeft k x.flit).ageDiscard k := by
  unfold State.flitAged
  dsimp only
  rw [h]

theorem State.flitAged_stage {x : QFlit} (hn : (s.queue k o vc).sram.find? (fun x => s.tooOld k x.flit) = none)
    (h : (s.queue k o vc).stage.find? (fun x => s.tooOld k x.flit) = some x) :
    s.flitAged k o vc = ((s.setQueue k o vc (restaged (s.queue k o vc)
      (swapFirst (fun x => s.tooOld k x.flit) s.leftQ (s.queue k o vc).stage))).countLeft k x.flit).ageDiscard k := by
  unfold State.flitAged
  dsimp only
  rw [hn, h]
  rfl

/-- The credits of the cells that an aged waiting flit held, apart from those of what it leaves. -/
def State.agedCells (s : State) (f : Flit) : Nat := f.cells - ((s.leftOf f).map Flit.cells).getD 0

theorem State.flitAged_ready {r : Ready} (hn : (s.queue k o vc).sram.find? (fun x => s.tooOld k x.flit) = none)
    (hn' : (s.queue k o vc).stage.find? (fun x => s.tooOld k x.flit) = none) (h : s.opn.ready.find? (s.readyOld k o vc) = some r) :
    s.flitAged k o vc = match r.buf with
      | some (l, v) => (((s.readySwapped k o vc).countLeft k r.flit).ageDiscard k).returnCredit l v (s.agedCells r.flit)
      | none => ((s.readySwapped k o vc).countLeft k r.flit).ageDiscard k := by
  unfold State.flitAged
  dsimp only
  rw [hn, hn']
  unfold State.readyOld at h
  dsimp only
  rw [h]
  rfl

theorem State.flitAged_none (hn : (s.queue k o vc).sram.find? (fun x => s.tooOld k x.flit) = none)
    (hn' : (s.queue k o vc).stage.find? (fun x => s.tooOld k x.flit) = none) (h : s.opn.ready.find? (s.readyOld k o vc) = none) :
    s.flitAged k o vc = s := by
  unfold State.flitAged
  dsimp only
  rw [hn, hn']
  unfold State.readyOld at h
  dsimp only
  rw [h]

end

/-- Freed cells return as credits or not: the queues and the registers are the same. -/
theorem creditIf_same (s : State) (b : Option (Nat × Nat)) (n : Nat) :
    (match b with | some (l, v) => s.returnCredit l v n | none => s).opn = s.opn ∧
    ∀ p x i, (match b with | some (l, v) => s.returnCredit l v n | none => s).rd p x i = s.rd p x i := by
  cases b with
  | none => exact ⟨rfl, fun _ _ _ => rfl⟩
  | some c => exact ⟨State.returnCredit_opn .., fun _ _ _ => State.returnCredit_rd ..⟩

theorem flitsAge : FlitsAge := by
  intro k o vc s
  refine ⟨_, rfl, fun h => ?_, fun h => ⟨fun h' => ?_, fun h' => ⟨fun hr => ?_, fun hr => ?_⟩⟩⟩
  · obtain ⟨x, hx⟩ := find?_of_any h
    rw [State.flitAged_sram hx]
    obtain ⟨ho, -, hc, he⟩ := State.aged_effect (s.setQueue k o vc { s.queue k o vc with
      sram := swapFirst (fun x => s.tooOld k x.flit) s.leftQ (s.queue k o vc).sram }) k x.flit
    exact ⟨(State.queue_of ho k o vc).trans (State.queue_setQueue_self ..), hc, he⟩
  · obtain ⟨x, hx⟩ := find?_of_any h'
    rw [State.flitAged_stage (find?_of_not_any h) hx]
    obtain ⟨ho, -, hc, he⟩ := State.aged_effect (s.setQueue k o vc (restaged (s.queue k o vc)
      (swapFirst (fun x => s.tooOld k x.flit) s.leftQ (s.queue k o vc).stage))) k x.flit
    exact ⟨(State.queue_of ho k o vc).trans (State.queue_setQueue_self ..), hc, he⟩
  · obtain ⟨r, hx⟩ := find?_of_any hr
    rw [State.flitAged_ready (find?_of_not_any h) (find?_of_not_any h') hx]
    obtain ⟨ho, -, hc, he⟩ := State.aged_effect (s.readySwapped k o vc) k r.flit
    obtain ⟨h1, h2⟩ := creditIf_same (((s.readySwapped k o vc).countLeft k r.flit).ageDiscard k) r.buf (s.agedCells r.flit)
    refine ⟨?_, (h2 ..).trans hc, ?_⟩
    · rw [h1, ho]
      rfl
    · unfold errSet at he ⊢
      rwa [h2]
  · exact State.flitAged_none (find?_of_not_any h) (find?_of_not_any h') (find?_of_not_any hr)

/-! ## Admission (R121–R123, R127, R128, R130) -/

/-- A flit put into its queue. -/
def State.admitted (s : State) (k o vc : Nat) (r : Ready) : State := (s.readyTaken r).enqueue k o vc r (some r.flit)

section
variable {s : State} {k o vc : Nat} {r : Ready} {src : QSource}

theorem State.egressAdmit_none (src : QSource) (h : s.readyNext k o vc = none) : s.egressAdmit k o vc src = s := by
  unfold State.egressAdmit
  rw [h]

theorem State.egressAdmit_else (h : s.readyNext k o vc = some r) (hs : r.src ≠ src) : s.egressAdmit k o vc src = s := by
  unfold State.egressAdmit
  rw [h]
  exact if_pos hs

theorem State.egressAdmit_full (h : s.readyNext k o vc = some r) (hs : r.src = src) (hq : (s.queue k o vc).spilled = true)
    (hf : s.ovfRoom k o vc = false) : s.egressAdmit k o vc src = s.holdFull k r := by
  unfold State.egressAdmit
  rw [h]
  exact (if_neg (by simp [hs])).trans (if_pos (by simp [hq, hf]))

/-- The queue's turn has come and the overflow region has room: the banks and the cells decide. -/
theorem State.egressAdmit_room (h : s.readyNext k o vc = some r) (hs : r.src = src)
    (hq : (s.queue k o vc).spilled = false ∨ s.ovfRoom k o vc = true) : s.egressAdmit k o vc src =
    if !s.banksHold k r.flit.cells then s.wakeBank k
    else if !s.canTake k (vcClass vc) (s.queue k o vc).sramCells r.flit.cells then s
    else
      let x := (s.readyTaken r).flitRead (.waiting k o vc) r.flit
      match r.buf with
      | some (l, v) => (x.2.enqueue k o vc r x.1).returnCredit l v r.flit.cells
      | none => x.2.enqueue k o vc r x.1 := by
  have hm : s.mayAdmit k o vc r = s.canTake k (vcClass vc) (s.queue k o vc).sramCells r.flit.cells := by
    unfold State.mayAdmit
    rcases hq with hq | hq <;> simp [hq]
  unfold State.egressAdmit
  rw [h]
  dsimp only
  rw [if_neg (by simp [hs]), if_neg (by rcases hq with hq | hq <;> simp [hq]), hm]
  rfl

theorem State.banksHold_of_canTake {c n : Nat} (h : s.canTake k (vcClass vc) c n = true) : s.banksHold k n = true :=
  ((Bool.and_eq_true _ _).mp h).1

theorem State.egressAdmit_taken (h : s.readyNext k o vc = some r) (hs : r.src = src)
    (hq : (s.queue k o vc).spilled = false ∨ s.ovfRoom k o vc = true)
    (hc : s.canTake k (vcClass vc) (s.queue k o vc).sramCells r.flit.cells = true) (hg : s.flitGood (.waiting k o vc)) :
    s.egressAdmit k o vc src = match r.buf with
      | some (l, v) => (s.admitted k o vc r).returnCredit l v r.flit.cells
      | none => s.admitted k o vc r := by
  have hread : (s.readyTaken r).flitRead (.waiting k o vc) r.flit = (some r.flit, s.readyTaken r) := State.flitRead_good _ hg
  rw [State.egressAdmit_room h hs hq, if_neg (by simp [State.banksHold_of_canTake hc]), if_neg (by simp [hc]), hread]
  rfl

end

theorem State.admitted_marked {s : State} {k o vc : Nat} {r : Ready} (h : s.mark k (s.queue k o vc) vc r.flit = true) :
    s.admitted k o vc r = ((s.readyTaken r).setQueue k o vc (admitTo (s.queue k o vc)
      ((s.queue k o vc).spilled || (s.readyTaken r).spillStart k vc (s.queue k o vc)) ⟨r.flit.setField 6 1 1, r.entering⟩
      r.packet)).bump (pgKeep k) Opn.MARKED := by
  have hq : (s.readyTaken r).queue k o vc = s.queue k o vc := rfl
  have hm : (s.readyTaken r).mark k (s.queue k o vc) vc r.flit = true := h
  unfold State.admitted State.enqueue
  dsimp only
  rw [hq, hm, if_pos rfl, if_pos rfl]

theorem State.admitted_plain {s : State} {k o vc : Nat} {r : Ready} (h : s.mark k (s.queue k o vc) vc r.flit = false) :
    s.admitted k o vc r = (s.readyTaken r).setQueue k o vc (admitTo (s.queue k o vc)
      ((s.queue k o vc).spilled || (s.readyTaken r).spillStart k vc (s.queue k o vc)) ⟨r.flit, r.entering⟩ r.packet) := by
  have hq : (s.readyTaken r).queue k o vc = s.queue k o vc := rfl
  have hm : (s.readyTaken r).mark k (s.queue k o vc) vc r.flit = false := h
  unfold State.admitted State.enqueue
  dsimp only
  rw [hq, hm, if_neg Bool.false_ne_true, if_neg Bool.false_ne_true]

/-- What admission does to the queue, to the flits that wait and to MARKED (R127, R130). -/
theorem State.admitted_effect (s : State) (k o vc : Nat) (r : Ready) :
    (s.admitted k o vc r).opn.ready = dropFirst (· = r) s.opn.ready ∧
    (s.admitted k o vc r).queue k o vc = admitTo (s.queue k o vc)
      ((s.queue k o vc).spilled || (s.readyTaken r).spillStart k vc (s.queue k o vc))
      ⟨if s.mark k (s.queue k o vc) vc r.flit then r.flit.setField 6 1 1 else r.flit, r.entering⟩ r.packet ∧
    (s.mark k (s.queue k o vc) vc r.flit = true → counted s (s.admitted k o vc r) (pgKeep k) Opn.MARKED 1) ∧
    (s.admitted k o vc r).out = s.out ∧ (s.admitted k o vc r).links = s.links := by
  cases hm : s.mark k (s.queue k o vc) vc r.flit with
  | false =>
    rw [State.admitted_plain hm]
    exact ⟨rfl, State.queue_setQueue_self .., fun h => absurd h Bool.false_ne_true, rfl, rfl⟩
  | true =>
    rw [State.admitted_marked hm, if_pos rfl]
    generalize admitTo _ _ _ _ = q
    refine ⟨?_, ?_, fun _ => State.bump_counted ((s.readyTaken r).setQueue k o vc q) k (by decide) rfl rfl, ?_, ?_⟩
    · rw [State.bump_opn]
      rfl
    · exact (State.queue_of (State.bump_opn ..) k o vc).trans (State.queue_setQueue_self ..)
    · exact State.bump_out ..
    · exact State.bump_links ..

/-- An arrival that finds no overflow page is counted once (R128). -/
theorem State.holdFull_counted {s : State} {k : Nat} {r : Ready} (h : r.counted = false) :
    counted s (s.holdFull k r) (pgKeep k) Opn.OVF_FULL 1 ∧ errSet (s.holdFull k r) (pgKeep k) 17 ∧
      (s.holdFull k r).opn.ready = s.opn.ready.map fun x => if x = r then { x with counted := true } else x := by
  have e : s.holdFull k r = (State.bump (s.setOpn { s.opn with
      ready := s.opn.ready.map fun x => if x = r then { x with counted := true } else x }) (pgKeep k) Opn.OVF_FULL).err (pgKeep k) 17 :=
    if_neg (by simp [h])
  rw [e]
  obtain ⟨hc, he, hs⟩ := State.discardCounted (s.setOpn { s.opn with
    ready := s.opn.ready.map fun x => if x = r then { x with counted := true } else x }) k (r := Opn.OVF_FULL) (i := 17)
    (by decide) rfl rfl (by decide) (by decide)
  exact ⟨hc, he, congrArg OpenPlane.ready hs.opn⟩

theorem flitsAreAdmitted : FlitsAreAdmitted := by
  intro k o vc src s
  refine ⟨_, rfl, State.egressAdmit_none src, fun r h => ⟨State.egressAdmit_else h, fun hs hq hf => ⟨fun hc => ?_, fun hc => ?_⟩,
    fun hs hq => ⟨fun hb => ?_, fun hb hc => ?_, fun hc hg => ?_⟩⟩⟩
  · rw [State.egressAdmit_full h hs hq hf]
    exact if_pos hc
  · rw [State.egressAdmit_full h hs hq hf]
    exact State.holdFull_counted hc
  · rw [State.egressAdmit_room h hs hq]
    exact if_pos (by simp [hb])
  · rw [State.egressAdmit_room h hs hq]
    exact (if_neg (by simp [hb])).trans (if_pos (by simp [hc]))
  · rw [State.egressAdmit_taken h hs hq hc hg]
    obtain ⟨h1, h2, h3, h4, h5⟩ := State.admitted_effect s k o vc r
    obtain ⟨c1, c2⟩ := creditIf_same (s.admitted k o vc r) r.buf r.flit.cells
    refine ⟨(congrArg OpenPlane.ready c1).trans h1, (State.queue_of c1 k o vc).trans h2, fun hm => (c2 ..).trans (h3 hm),
      fun hn => ?_, fun l v hn => ⟨s.admitted k o vc r, ?_, h4, h5⟩⟩
    · rw [hn]
      exact ⟨h4, h5⟩
    · rw [hn]

end Sys2Proof.Machine
end
-- ==== Sys2Proof/Proofs/OpenPlaneSend.lean ====
section
/-! SUPPORT. An output sends (R65, R66, R78, R86, R89, R124, R125, R134): a flit of the Turret's own, or the head flit of a queue. -/

namespace Sys2Proof.Machine

open Sys2Proof

/-! ## A flit put on its link (R69, R73, R78) -/

/-- A block sent after a change that concerns neither what left nor the sequence of the link. -/
theorem blockSent_from {s u t : State} {l : Nat} {f : Flit} (ho : u.out = s.out) (hc : u.clock = s.clock)
    (hq : (u.link l).txSeq = (s.link l).txSeq) (ha : (u.link l).ack = (s.link l).ack) (hw : (u.link l).window = (s.link l).window)
    (h : blockSent u t l f) : blockSent s t l f := by
  unfold blockSent at h ⊢
  rwa [← ho, ← hc, ← hq, ← ha, ← hw]

/-- A block sent, and then a change that concerns neither what left nor the link. -/
theorem blockSent_to {s t u : State} {l : Nat} {f : Flit} (ho : u.out = t.out) (hl : u.links = t.links) (h : blockSent s t l f) :
    blockSent s u l f := by
  unfold blockSent at h ⊢
  rwa [ho, State.link_of hl]

theorem State.link_sendFlit (s : State) (l : Nat) (f : Flit) : (s.sendFlit l f).link l =
    { s.link l with
      txSeq := ((s.link l).txSeq + 1) % 2 ^ 16
      window := (s.link l).window ++ [{ flit := f, seq := (s.link l).txSeq, replays := 0, sentAt := s.clock }] } :=
  State.link_setLink_self ..

theorem State.sendFlit_sent (s : State) (l : Nat) (f : Flit) : blockSent s (s.sendFlit l f) l f := by
  unfold blockSent
  rw [State.link_sendFlit]
  exact ⟨rfl, rfl, rfl⟩

theorem State.sendFlit_rest (s : State) (l : Nat) (f : Flit) : (s.sendFlit l f).opn = s.opn ∧
    (s.sendFlit l f).reservations = s.reservations ∧ (∀ p x i, (s.sendFlit l f).rd p x i = s.rd p x i) ∧
    ((s.sendFlit l f).link l).msgs = (s.link l).msgs ∧ ((s.sendFlit l f).link l).lastMsg = (s.link l).lastMsg := by
  rw [State.link_sendFlit]
  exact ⟨rfl, rfl, fun _ _ _ => rfl, rfl, rfl⟩

/-- The credits of a link set (R78): of the link only the clock of its empty VCs changes. -/
theorem State.setCred_rest (s : State) (l vc n : Nat) : (s.setCred l vc n).opn = s.opn ∧ (s.setCred l vc n).out = s.out ∧
    (s.setCred l vc n).clock = s.clock ∧ (s.setCred l vc n).reservations = s.reservations ∧
    (s.setCred l vc n).link l = { s.link l with zeros := ((s.setCred l vc n).link l).zeros } ∧
    (s.setCred l vc n).rd (pgLink l) Lnk.CRED_AVAIL vc = n % 2 ^ 16 := by
  unfold State.setCred
  dsimp only
  generalize (if n % 2 ^ 16 ≠ 0 then AL.del (s.link l).zeros vc
    else if (AL.get (s.link l).zeros vc).isSome = true then (s.link l).zeros else AL.put (s.link l).zeros vc s.clock) = z
  have hl : ((s.setLink l { s.link l with zeros := z }).wri (pgLink l) Lnk.CRED_AVAIL vc n).link l = { s.link l with zeros := z } :=
    (State.link_of (by simp) l).trans (State.link_setLink_self s l _)
  refine ⟨by simp, by simp, by simp, by simp, ?_, State.rd_wri_own _ _ (by decide) (pgLink_trip l)⟩
  rw [hl]

/-- A flit sent on its link takes its credits and leaves as the next block of the link. -/
theorem State.sendOnLink_effect (s : State) (l vc : Nat) (f : Flit) :
    blockSent s (s.sendOnLink l vc f) l f ∧ (s.sendOnLink l vc f).opn = s.opn ∧
    (s.sendOnLink l vc f).reservations = s.reservations ∧
    (s.sendOnLink l vc f).rd (pgLink l) Lnk.CRED_AVAIL vc = (s.rd (pgLink l) Lnk.CRED_AVAIL vc - f.cells) % 2 ^ 16 ∧
    ((s.sendOnLink l vc f).link l).msgs = (s.link l).msgs ∧ ((s.sendOnLink l vc f).link l).lastMsg = (s.link l).lastMsg := by
  obtain ⟨h1, h2, h3, h4, h5, h6⟩ := State.setCred_rest s l vc (s.rd (pgLink l) Lnk.CRED_AVAIL vc - f.cells)
  unfold State.sendOnLink
  generalize s.setCred l vc (s.rd (pgLink l) Lnk.CRED_AVAIL vc - f.cells) = u at h1 h2 h3 h4 h5 h6 ⊢
  obtain ⟨g1, g2, g3, g4, g5⟩ := State.sendFlit_rest u l f
  refine ⟨blockSent_from h2 h3 ?_ ?_ ?_ (State.sendFlit_sent u l f), g1.trans h1, g2.trans h4, (g3 ..).trans h6, g4.trans ?_, g5.trans ?_⟩
  · rw [h5]
  · rw [h5]
    rfl
  · rw [h5]
  · rw [h5]
  · rw [h5]

/-! ## A flit of the Turret's own (R65, R66) -/

theorem State.messageTurn_ready {s : State} {k o l : Nat} (h : s.messageTurn k o = some l) : s.messageReady l = true := by
  unfold State.messageTurn at h
  dsimp only at h
  split at h
  · split at h
    · rename_i hc
      cases h
      exact ((Bool.and_eq_true _ _).mp hc).1
    · cases h
  · cases h

theorem State.messageReady_head {s : State} {l : Nat} (h : s.messageReady l = true) : ∃ f rest, (s.link l).msgs = f :: rest := by
  unfold State.messageReady at h
  dsimp only at h
  split at h
  · cases h
  · rename_i f rest hm
    exact ⟨f, rest, hm⟩

/-- The link whose own flit is leaving. -/
def State.messageTaken (s : State) (l : Nat) (rest : List Flit) : State :=
  s.setLink l { s.link l with msgs := rest, lastMsg := some s.clock }

theorem State.sendMessage_head {s : State} {l : Nat} {f : Flit} {rest : List Flit} (h : (s.link l).msgs = f :: rest) :
    s.sendMessage l = (s.messageTaken l rest).sendOnLink l f.vc f := by
  unfold State.sendMessage
  dsimp only
  rw [h]
  rfl

theorem State.sendMessage_effect {s : State} {l : Nat} {f : Flit} {rest : List Flit} (h : (s.link l).msgs = f :: rest) :
    ((s.sendMessage l).link l).msgs = rest ∧ ((s.sendMessage l).link l).lastMsg = some s.clock ∧ blockSent s (s.sendMessage l) l f ∧
    (s.sendMessage l).opn = s.opn ∧
    (s.sendMessage l).rd (pgLink l) Lnk.CRED_AVAIL f.vc = (s.rd (pgLink l) Lnk.CRED_AVAIL f.vc - f.cells) % 2 ^ 16 := by
  rw [State.sendMessage_head h]
  have hl : (s.messageTaken l rest).link l = { s.link l with msgs := rest, lastMsg := some s.clock } := State.link_setLink_self ..
  obtain ⟨h1, h2, -, h4, h5, h6⟩ := State.sendOnLink_effect (s.messageTaken l rest) l f.vc f
  refine ⟨h5.trans ?_, h6.trans ?_, blockSent_from (u := s.messageTaken l rest) rfl rfl ?_ ?_ ?_ h1, h2, h4⟩
  · rw [hl]
  · rw [hl]
  · rw [hl]
  · rw [hl]
    rfl
  · rw [hl]

/-! ## The head flit of a queue -/

/-- The queue without its head flit. -/
def State.popped (s : State) (k o vc : Nat) (rest : List QFlit) : State :=
  s.setQueue k o vc { s.queue k o vc with sram := rest }

/-- The queue whose head flit is gone, with what that leaves of its packet at the head (R125). -/
def State.headGone (s : State) (k o vc : Nat) (x : QFlit) (rest : List QFlit) : State :=
  s.popped k o vc ((s.leftQ x).toList ++ rest)

theorem State.setQueue_setQueue (s : State) (k o vc : Nat) (q q' : EgressQ) :
    (s.setQueue k o vc q).setQueue k o vc q' = s.setQueue k o vc q' := by
  unfold State.setQueue State.setOpn
  dsimp only
  rw [AL.put_put]

theorem State.popped_gone (s : State) (k o vc : Nat) (x : QFlit) (rest : List QFlit) :
    (s.popped k o vc rest).setQueue k o vc { s.queue k o vc with sram := (s.leftQ x).toList ++ rest } = s.headGone k o vc x rest :=
  State.setQueue_setQueue ..

section
variable {s : State} {k o vc : Nat} {x : QFlit} {rest : List QFlit}

theorem State.sendHead_read (h : (s.queue k o vc).sram = x :: rest) (hl : s.headerLost (.queue k o vc)) :
    s.sendHead k o vc = ((((s.popped k o vc rest).flitRead (.queue k o vc) x.flit).2.setQueue k o vc
      { s.queue k o vc with sram := (s.leftQ x).toList ++ rest }).countLeft k x.flit) := by
  have hn : ((s.popped k o vc rest).flitRead (.queue k o vc) x.flit).1 = none := State.flitRead_lost _ hl
  unfold State.sendHead
  dsimp only
  rw [h]
  unfold State.popped at hn ⊢
  dsimp only
  generalize State.flitRead _ _ _ = y at hn ⊢
  obtain ⟨a, t⟩ := y
  subst hn
  rfl

theorem State.sendHead_good (h : (s.queue k o vc).sram = x :: rest) (hg : s.flitGood (.queue k o vc)) :
    s.sendHead k o vc =
      if s.tooOld k x.flit then ((s.headGone k o vc x rest).countLeft k x.flit).ageDiscard k
      else match linkOfOut k o with
      | none =>
        if x.flit.hcrcOk then (s.popped k o vc rest).deliver 2 k x.flit
        else ((s.headGone k o vc x rest).countLeft k x.flit).headerDiscard k
      | some l => if l < 16 && x.flit.kind = 2 then (s.popped k o vc rest).endpointReply l vc x.flit
        else (s.popped k o vc rest).sendOnLink l vc x.flit := by
  have hr : (s.setQueue k o vc { s.queue k o vc with sram := rest }).flitRead (.queue k o vc) x.flit =
      (some x.flit, s.popped k o vc rest) := State.flitRead_good _ hg
  unfold State.sendHead
  dsimp only
  rw [h]
  dsimp only
  rw [hr]
  dsimp only
  rw [State.popped_gone]
  rfl

end

theorem State.headGone_queue (s : State) (k o vc : Nat) (x : QFlit) (rest : List QFlit) :
    (s.headGone k o vc x rest).queue k o vc = { s.queue k o vc with sram := (s.leftQ x).toList ++ rest } :=
  State.queue_setQueue_self ..

/-- A head flit that is lost or too old: what it leaves of its packet stays at the head, and nothing is sent (R89, R125, R337). -/
theorem State.sendHead_lost {s : State} {k o vc : Nat} {x : QFlit} {rest : List QFlit} (h : (s.queue k o vc).sram = x :: rest)
    (hl : s.headerLost (.queue k o vc)) : (s.sendHead k o vc).out = s.out ∧
      (s.sendHead k o vc).queue k o vc = { s.queue k o vc with sram := (s.leftQ x).toList ++ rest } := by
  rw [State.sendHead_read h hl]
  have ho : ((s.popped k o vc rest).flitRead (.queue k o vc) x.flit).2.out = s.out := (State.flitRead_rest ..).1
  generalize ((s.popped k o vc rest).flitRead (.queue k o vc) x.flit).2 = u at ho
  exact ⟨(State.countLeft_out ..).trans ho, (State.queue_of (State.countLeft_opn ..) k o vc).trans (State.queue_setQueue_self ..)⟩

theorem State.sendHead_old {s : State} {k o vc : Nat} {x : QFlit} {rest : List QFlit} (h : (s.queue k o vc).sram = x :: rest)
    (hg : s.flitGood (.queue k o vc)) (ho : s.tooOld k x.flit = true) : (s.sendHead k o vc).out = s.out ∧
      counted s (s.sendHead k o vc) (pgKeep k) Kr.AGED 1 ∧ errSet (s.sendHead k o vc) (pgKeep k) 7 ∧
      (s.sendHead k o vc).queue k o vc = { s.queue k o vc with sram := (s.leftQ x).toList ++ rest } := by
  rw [State.sendHead_good h hg, if_pos ho]
  obtain ⟨h1, h2, h3, h4⟩ := State.aged_effect (s.headGone k o vc x rest) k x.flit
  exact ⟨h2, h3, h4, (State.queue_of h1 k o vc).trans (State.headGone_queue ..)⟩

/-- The host MAC discards and counts a flit whose header check fails (R61). -/
theorem State.hostRefused_effect (s : State) (k : Nat) (f : Flit) :
    ((s.countLeft k f).headerDiscard k).opn = s.opn ∧ ((s.countLeft k f).headerDiscard k).out = s.out ∧
      counted s ((s.countLeft k f).headerDiscard k) (pgKeep k) Kr.HDR_CRC_ERR 1 ∧
      errSet ((s.countLeft k f).headerDiscard k) (pgKeep k) 0 := by
  obtain ⟨hc, he, hs⟩ := State.discardCounted (s.countLeft k f) k (r := Kr.HDR_CRC_ERR) (i := 0) (by decide) rfl rfl (by decide)
    (by decide)
  refine ⟨hs.opn.trans (State.countLeft_opn ..), ?_, counted_from (State.rd_countLeft_keep s k k f (by decide) (by decide)) hc, he⟩
  exact (State.headerDiscard_parts (M := (· ≠ .out)) (parts_refl (s.countLeft k f)) k (by decide) (by decide) (by decide)
    (by decide)).same_of (p := .out) (by simp) |>.trans (State.countLeft_out ..)

/-- The flit at the head of a queue of the host's output (R61, R134). -/
theorem State.sendHead_host {s : State} {k o vc : Nat} {x : QFlit} {rest : List QFlit} (h : (s.queue k o vc).sram = x :: rest)
    (hg : s.flitGood (.queue k o vc)) (ho : s.tooOld k x.flit = false) (hl : linkOfOut k o = none) :
    (s.sendHead k o vc).out = s.out ∧
    (x.flit.hcrcOk = true → (s.sendHead k o vc).opn.service = s.opn.service ++ [(2, k, x.flit)] ∧
      (s.sendHead k o vc).queue k o vc = { s.queue k o vc with sram := rest }) ∧
    (x.flit.hcrcOk = false → (s.sendHead k o vc).opn.service = s.opn.service ∧
      counted s (s.sendHead k o vc) (pgKeep k) Kr.HDR_CRC_ERR 1 ∧ errSet (s.sendHead k o vc) (pgKeep k) 0) := by
  rw [State.sendHead_good h hg, if_neg (by simp [ho]), hl]
  dsimp only
  cases hc : x.flit.hcrcOk with
  | true =>
    rw [if_pos rfl]
    exact ⟨rfl, fun _ => ⟨rfl, State.queue_setQueue_self ..⟩, fun h => absurd h (by decide)⟩
  | false =>
    rw [if_neg (by decide)]
    obtain ⟨h1, h2, h3, h4⟩ := State.hostRefused_effect (s.headGone k o vc x rest) k x.flit
    exact ⟨h2, fun h => absurd h (by decide), fun _ => ⟨(congrArg OpenPlane.service h1).trans rfl, h3, h4⟩⟩

/-! ## Replies to an endpoint (R86, R125) -/

section
variable {s : State} {n vc : Nat} {f : Flit}

theorem State.endpointReply_poisoned (h : f.poison = true) : s.endpointReply n vc f = s := if_pos h

theorem State.endpointReply_found {r : Reservation} (h : f.poison = false)
    (hr : (s.resvOf (.endpoint n)).find? (fun r => r.tag = f.tag) = some r) : s.endpointReply n vc f =
      State.sendOnLink { s with reservations := s.reservations.filter (· ≠ r) } n vc f := by
  unfold State.endpointReply
  rw [if_neg (by simp [h]), hr]

theorem State.endpointReply_late (h : f.poison = false) (hr : (s.resvOf (.endpoint n)).find? (fun r => r.tag = f.tag) = none) :
    s.endpointReply n vc f = s.bump (pgLink n) Ept.LATE_RSP := by
  unfold State.endpointReply
  rw [if_neg (by simp [h]), hr]

end

/-- The flit at the head of a queue of a link's output (R78, R86, R125). -/
theorem State.sendHead_link {s : State} {k o vc l : Nat} {x : QFlit} {rest : List QFlit} (h : (s.queue k o vc).sram = x :: rest)
    (hg : s.flitGood (.queue k o vc)) (ho : s.tooOld k x.flit = false) (hl : linkOfOut k o = some l) :
    (s.sendHead k o vc).queue k o vc = { s.queue k o vc with sram := rest } ∧
    (16 ≤ l ∨ x.flit.kind ≠ 2 ∨ (x.flit.poison = false ∧ (s.resvOf (.endpoint l)).find? (fun r => r.tag = x.flit.tag) ≠ none) →
      blockSent s (s.sendHead k o vc) l x.flit ∧ (s.sendHead k o vc).opn.service = s.opn.service ∧
      (s.sendHead k o vc).rd (pgLink l) Lnk.CRED_AVAIL vc = (s.rd (pgLink l) Lnk.CRED_AVAIL vc - x.flit.cells) % 2 ^ 16) ∧
    (l < 16 → x.flit.kind = 2 → x.flit.poison = false →
      (∀ r, (s.resvOf (.endpoint l)).find? (fun r => r.tag = x.flit.tag) = some r →
        (s.sendHead k o vc).reservations = s.reservations.filter (· ≠ r)) ∧
      ((s.resvOf (.endpoint l)).find? (fun r => r.tag = x.flit.tag) = none → (s.sendHead k o vc).out = s.out ∧
        counted s (s.sendHead k o vc) (pgLink l) Ept.LATE_RSP 1)) ∧
    (l < 16 → x.flit.kind = 2 → x.flit.poison = true → (s.sendHead k o vc).out = s.out ∧
      (s.sendHead k o vc).reservations = s.reservations) := by
  have hq : (s.popped k o vc rest).queue k o vc = { s.queue k o vc with sram := rest } := State.queue_setQueue_self ..
  have hfind : ((s.popped k o vc rest).resvOf (.endpoint l)).find? (fun r => r.tag = x.flit.tag) =
      (s.resvOf (.endpoint l)).find? (fun r => r.tag = x.flit.tag) := rfl
  rw [State.sendHead_good h hg, if_neg (by simp [ho]), hl]
  dsimp only
  by_cases hep : l < 16 ∧ x.flit.kind = 2
  · rw [if_pos (by simp [hep])]
    cases hp : x.flit.poison with
    | true =>
      rw [State.endpointReply_poisoned hp]
      refine ⟨hq, ?_, fun _ _ h => absurd h (by decide), fun _ _ _ => ⟨rfl, rfl⟩⟩
      rintro (h | h | h)
      · exact absurd hep.1 (by omega)
      · exact absurd hep.2 h
      · exact absurd h.1 (by decide)
    | false =>
      cases hr : (s.resvOf (.endpoint l)).find? (fun r => r.tag = x.flit.tag) with
      | none =>
        rw [State.endpointReply_late hp (hfind.trans hr)]
        refine ⟨(State.queue_of (State.bump_opn ..) k o vc).trans hq, ?_, fun _ _ _ => ⟨fun r h => absurd h (by simp), fun _ =>
          ⟨State.bump_out .., counted_bump_link (s.popped k o vc rest) l (by decide) rfl rfl⟩⟩, fun _ _ h => absurd h (by decide)⟩
        rintro (h | h | h)
        · exact absurd hep.1 (by omega)
        · exact absurd hep.2 h
        · exact absurd rfl h.2
      | some r =>
        rw [State.endpointReply_found hp (hfind.trans hr)]
        obtain ⟨h1, h2, h3, h4, -⟩ := State.sendOnLink_effect
          { s.popped k o vc rest with reservations := (s.popped k o vc rest).reservations.filter (· ≠ r) } l vc x.flit
        refine ⟨(State.queue_of h2 k o vc).trans hq, fun _ => ⟨h1, (congrArg OpenPlane.service h2).trans rfl, h4⟩, fun _ _ _ => ⟨fun r' h => ?_,
          fun h => absurd h (by simp)⟩, fun _ _ h => absurd h (by decide)⟩
        cases h
        exact h3
  · rw [if_neg (by simpa using hep)]
    obtain ⟨h1, h2, -, h4, -⟩ := State.sendOnLink_effect (s.popped k o vc rest) l vc x.flit
    exact ⟨(State.queue_of h2 k o vc).trans hq, fun _ => ⟨h1, (congrArg OpenPlane.service h2).trans rfl, h4⟩,
      fun ha hb => absurd ⟨ha, hb⟩ hep, fun ha hb => absurd ⟨ha, hb⟩ hep⟩

/-! ## The merge (R124) -/

/-- The turn of an output's round robin set. -/
def State.turnSet (s : State) (w : List ((Nat × Nat) × (Bool × Nat))) : State := s.setOpn { s.opn with wrr := w }

theorem State.mergeSend_pick {s : State} {k o vc : Nat} {turn : Option (Bool × Nat)} (h : s.mergePick k o = some (vc, turn)) :
    ∃ w, s.mergeSend k o = (s.sendHead k o vc).turnSet w := by
  unfold State.mergeSend
  rw [h]
  cases turn with
  | none => exact ⟨(s.sendHead k o vc).opn.wrr, rfl⟩
  | some t => exact ⟨_, rfl⟩

theorem exec_egressSend {k o : Nat} (hk : k < 4) (ho : o < keepOuts k) (s : State) :
    exec (.egressSend k o) s = .next (s.egressSend k o) := by
  show Host.Outcome.next (if _ then _ else _) = _
  rw [if_pos (by simp [hk, ho])]

theorem exec_egressSend_merge {k o vc : Nat} {turn : Option (Bool × Nat)} {s : State} (hk : k < 4) (ho : o < keepOuts k)
    (hm : s.messageTurn k o = none) (hp : s.mergePick k o = some (vc, turn)) :
    ∃ w, exec (.egressSend k o) s = .next ((s.sendHead k o vc).turnSet w) := by
  obtain ⟨w, hw⟩ := State.mergeSend_pick hp
  refine ⟨w, (exec_egressSend hk ho s).trans ?_⟩
  unfold State.egressSend
  rw [hm]
  exact congrArg _ hw

theorem flitsAreSent : FlitsAreSent := by
  refine ⟨fun k o s hk ho hm hp => ?_, fun k o l s hk ho hm => ?_, fun k o vc turn x rest s hk ho hm hp hq hl => ?_,
    fun k o vc turn x rest s hk ho hm hp hq hg => ?_⟩
  · rw [exec_egressSend hk ho]
    unfold State.egressSend State.mergeSend
    rw [hm]
    dsimp only
    rw [hp]
  · obtain ⟨f, rest, hf⟩ := State.messageReady_head (State.messageTurn_ready hm)
    obtain ⟨h1, h2, h3, h4, h5⟩ := State.sendMessage_effect hf
    refine ⟨_, f, rest, (exec_egressSend hk ho s).trans ?_, hf, h1, h2, h3, h4, h5⟩
    unfold State.egressSend
    rw [hm]
  · obtain ⟨w, hw⟩ := exec_egressSend_merge hk ho hm hp
    exact ⟨_, hw, State.sendHead_lost hq hl⟩
  · obtain ⟨w, hw⟩ := exec_egressSend_merge hk ho hm hp
    exact ⟨_, hw, State.sendHead_old hq hg, fun l => State.sendHead_link hq hg, State.sendHead_host hq hg⟩

end Sys2Proof.Machine
end
-- ==== Sys2Proof/Proofs/OpenPlaneSpill.lean ====
section
/-! SUPPORT. Overflow to HBM (R89, R127, R128, R327): the write of a staged flit to the tail of its queue's region, and the read back
at its head. -/

namespace Sys2Proof.Machine

open Sys2Proof

/-! ## Whole lines stored -/

theorem memGet_memSet_apart : ∀ (m : List Host.Cell) {a c : Nat} (b : Byte), c ≠ a → memGet (memSet m a b) c = memGet m c
  | [], a, c, b, h => by
    unfold memSet
    split
    · rfl
    · exact if_neg fun e => h e.symm
  | (x, v) :: m, a, c, b, h => by
    have hc : memGet ((a, b) :: m) c = memGet m c := if_neg fun e => h e.symm
    unfold memSet
    split
    · split
      · rfl
      · exact if_neg fun e => h e.symm
    · split
      · rename_i he
        have hx : memGet ((x, v) :: m) c = memGet m c := if_neg fun e => h (e.symm.trans he.symm)
        split
        · exact hx.symm
        · rw [hc, hx]
      · unfold memGet
        split
        · rfl
        · exact memGet_memSet_apart m b h

theorem memGet_memWrite_apart : ∀ (l : List Byte) (m : List Host.Cell) (a : Nat) {c : Nat}, c < a ∨ a + l.length ≤ c →
    memGet (memWrite m a l) c = memGet m c
  | [], _, _, _, _ => rfl
  | b :: l, m, a, c, h => by
    rw [List.length_cons] at h
    rw [memWrite, memGet_memWrite_apart l _ _ (by omega), memGet_memSet_apart _ _ (by omega)]

theorem State.mergeTouch_held {s : State} {line : Nat} (plan : Bool) (h : s.mergeHeld line = true) :
    ∃ a, s.mergeTouch plan line = s.setArrays a := by
  unfold State.mergeTouch
  dsimp only
  rw [if_pos h]
  exact ⟨_, rfl⟩

/-- A write that covers a line changes its bytes and the arrays' code alone. -/
theorem State.writeLine_whole (s : State) (plan : Bool) (sp off : Nat) (l : List Byte) (line : Nat)
    (h : (partOf off l line).2.length = 64) :
    ∃ a, s.writeLine plan sp off l line = (s.poke sp (partOf off l line).1 (partOf off l line).2).setArrays a := by
  unfold State.writeLine
  dsimp only
  rw [if_pos h]
  split
  · rename_i hm
    have hh : s.mergeHeld line = true := ((Bool.and_eq_true _ _).mp hm).2
    obtain ⟨a, ha⟩ := State.mergeTouch_held (s := (s.poke sp (partOf off l line).1 (partOf off l line).2).cleanLine sp line) plan hh
    exact ⟨a, ha⟩
  · exact ⟨_, rfl⟩

/-- Whole lines written one after the other change their bytes and the arrays' code alone. -/
theorem State.writeLines_whole (plan : Bool) (sp a : Nat) (l : List Byte) : ∀ (n : Nat) (s : State), 64 * n ≤ l.length →
    64 * a % 2 ^ 40 + 64 * n ≤ 2 ^ 40 → ∃ x, ((List.range n).map (a + ·)).foldl (fun t line => t.writeLine plan sp (64 * a) l line) s =
      State.setArrays { s with mem := memWrite s.mem (cellAddr sp (64 * a)) (l.take (64 * n)) } x
  | 0, s, _, _ => ⟨s.arrays, rfl⟩
  | n + 1, s, hl, hn => by
    rw [List.range_succ, List.map_append, List.foldl_append]
    dsimp only [List.map, List.foldl]
    obtain ⟨x, hx⟩ := State.writeLines_whole plan sp a l n s (by omega) (by omega)
    rw [hx]
    have hp : partOf (64 * a) l (a + n) = (64 * (a + n), (l.drop (64 * n)).take 64) := by
      unfold partOf
      dsimp only
      rw [show max (64 * a) (64 * (a + n)) = 64 * (a + n) by omega, show 64 * (a + n) - 64 * a = 64 * n by omega,
        show 64 * (a + n + 1) - 64 * (a + n) = 64 by omega]
    have hlen : ((l.drop (64 * n)).take 64).length = 64 := by
      rw [List.length_take, List.length_drop]
      omega
    obtain ⟨y, hy⟩ := State.writeLine_whole
      (State.setArrays { s with mem := memWrite s.mem (cellAddr sp (64 * a)) (l.take (64 * n)) } x) plan sp (64 * a) l (a + n)
      (by rw [hp]; exact hlen)
    have haddr : cellAddr sp (64 * (a + n)) = cellAddr sp (64 * a) + (l.take (64 * n)).length := by
      rw [List.length_take, show min (64 * n) l.length = 64 * n by omega]
      unfold cellAddr
      omega
    have hmem : memWrite (memWrite s.mem (cellAddr sp (64 * a)) (l.take (64 * n))) (cellAddr sp (64 * (a + n)))
        ((l.drop (64 * n)).take 64) = memWrite s.mem (cellAddr sp (64 * a)) (l.take (64 * (n + 1))) := by
      rw [haddr, ← memWrite_append, show 64 * (n + 1) = 64 * n + 64 by omega, List.take_add]
    refine ⟨y, hy.trans ?_⟩
    rw [hp, ← hmem]
    rfl

/-- A store of whole lines that does not wrap changes its bytes and the arrays' code alone. -/
theorem State.store_whole (s : State) (sp a : Nat) (l : List Byte) {n : Nat} (hn : l.length = 64 * (n + 1))
    (hw : 64 * a % 2 ^ 40 + 64 * (n + 1) ≤ 2 ^ 40) :
    ∃ x, s.store false sp (64 * a) l = State.setArrays { s with mem := memWrite s.mem (cellAddr sp (64 * a)) l } x := by
  obtain ⟨x, hx⟩ := State.writeLines_whole false sp a l (n + 1) s (by omega) hw
  refine ⟨x, ?_⟩
  unfold State.store linesOf
  rw [if_neg Bool.false_ne_true, if_neg (show ¬ l.length = 0 by omega), hn, show 64 * a / 64 = a by omega,
    show (64 * a + 64 * (n + 1) - 1) / 64 - a + 1 = n + 1 by omega, hx, List.take_of_length_le (by omega)]

/-! ## A spilled flit's place (R127) -/

theorem Flit.length_bytes (f : Flit) : f.bytes.length = 256 := by
  unfold Flit.bytes padTo
  rw [List.length_append, length_leBytes, List.length_take, List.length_append, List.length_replicate]
  omega

/-- The places of the overflow region are whole lines. -/
theorem State.ovfPlace_line (s : State) (k : Nat) (pages : List Nat) (i : Nat) :
    ∃ m, s.ovfPlace k pages i = 256 * m :=
  ⟨s.rd (pgKeep k) Opn.OVF_BASE * 2 ^ 22 + 16 * pages.getD (i / 16) 0 + i % 16, by unfold State.ovfPlace gib; omega⟩

/-- A flit written to its place: its bytes stand there, and no other byte changes. -/
theorem State.store_flit (s : State) (k : Nat) (pages : List Nat) (i : Nat) (f : Flit) :
    ∃ x, s.store false spHbm (s.ovfPlace k pages i) f.bytes =
      State.setArrays { s with mem := memWrite s.mem (cellAddr spHbm (s.ovfPlace k pages i)) f.bytes } x := by
  obtain ⟨m, hm⟩ := State.ovfPlace_line s k pages i
  rw [hm, show 256 * m = 64 * (4 * m) by omega]
  exact State.store_whole s spHbm (4 * m) f.bytes (n := 3) (Flit.length_bytes f) (by omega)

/-! ## The write to HBM (R127) -/

section
variable {s : State} {k o vc : Nat} {x : QFlit} {rest : List QFlit}

theorem State.spillWrite_stays (h : (s.queue k o vc).stage = [] ∨ s.ovfRoom k o vc = false) : s.spillWrite k o vc = s := by
  unfold State.spillWrite
  dsimp only
  split
  · rfl
  · rename_i x rest hx
    rcases h with h | h
    · rw [hx] at h
      cases h
    · exact if_pos (by simp [h])

theorem State.spillWrite_waits (h : (s.queue k o vc).stage = x :: rest) (hr : s.ovfRoom k o vc = true)
    (hp : s.spillPath k 0 (s.tailPlace k (s.queue k o vc)) = false) :
    s.spillWrite k o vc = s.wakeDom (288 + stackOf (s.tailPlace k (s.queue k o vc))) := by
  unfold State.spillWrite
  dsimp only
  rw [h]
  exact (if_neg (by simp [hr])).trans (if_pos (by simp [hp]))

/-- The queue whose first staged flit stands in the region. -/
def State.spilledTo (s : State) (k o vc : Nat) (x : QFlit) (rest : List QFlit) : EgressQ :=
  { s.queue k o vc with stage := rest, hbm := (s.queue k o vc).hbm ++ [x], pages := s.tailPages k (s.queue k o vc) }

theorem State.spillWrite_good (h : (s.queue k o vc).stage = x :: rest) (hr : s.ovfRoom k o vc = true)
    (hp : s.spillPath k 0 (s.tailPlace k (s.queue k o vc)) = true) (hg : s.flitGood (.stage k o vc)) :
    s.spillWrite k o vc = ((s.store false spHbm (s.tailPlace k (s.queue k o vc)) x.flit.bytes).setQueue k o vc
      (s.spilledTo k o vc x rest)).bump (pgKeep k) Opn.SPILL_FLITS := by
  unfold State.spillWrite
  dsimp only
  rw [h]
  dsimp only
  rw [if_neg (by simp [hr]), if_neg (by simp [hp]), State.flitRead_good _ hg]
  rfl

/-- A staged flit that is written to HBM (R127). -/
theorem State.spilled_effect (s : State) (k o vc : Nat) (x : QFlit) (q : EgressQ) {a i : Nat} {pages : List Nat}
    (ha : a = s.ovfPlace k pages i) :
    let t := ((s.store false spHbm a x.flit.bytes).setQueue k o vc q).bump (pgKeep k) Opn.SPILL_FLITS
    t.queue k o vc = q ∧ counted s t (pgKeep k) Opn.SPILL_FLITS 1 ∧ storesOnly s t spHbm a x.flit.bytes.length ∧
      (memWf s.mem = true → t.peek spHbm a x.flit.bytes.length = x.flit.bytes) := by
  obtain ⟨y, hy⟩ := State.store_flit s k pages i x.flit
  rw [← ha] at hy
  rw [hy]
  generalize hm : memWrite s.mem (cellAddr spHbm a) x.flit.bytes = m
  have hmem : (((State.setArrays { s with mem := m } y).setQueue k o vc q).bump (pgKeep k) Opn.SPILL_FLITS).mem = m := State.bump_mem ..
  refine ⟨(State.queue_of (State.bump_opn ..) k o vc).trans (State.queue_setQueue_self ..), ?_, fun c hc => ?_, fun hw => ?_⟩
  · exact State.bump_counted ((State.setArrays { s with mem := m } y).setQueue k o vc q) k (by decide) rfl rfl
  · rw [hmem, ← hm]
    exact memGet_memWrite_apart _ _ _ hc
  · unfold State.peek
    rw [hmem, ← hm]
    exact memRead_memWrite _ _ hw

end

/-! ## The read back (R89, R127, R128, R327) -/

/-- A field of the integrity page other than TRIP_EN leaves the fields of a Keep as they read. -/
theorem State.rd_wr_integrity (s : State) (k : Nat) {r x : Reg} {j : Nat} (v : Nat) (hr : r.off ≠ Itg.TRIP_EN.off) :
    (s.wri pgIntegrity r 0 v).rd (pgKeep k) x j = s.rd (pgKeep k) x j := by
  have hp : pgKeep k ≠ pgIntegrity := by simp [pgKeep, pgIntegrity]
  refine State.rd_wri_ne s v (fun e => hp (rkey_page e)) (fun e => hp (rkey_page e)) ?_
  rintro (e | e)
  · exact hp (rkey_page e).symm
  · exact hr (by simpa [rkey, Itg.TRIP_EN] using congrArg RegKey.off e)

theorem State.rd_wrs_integrity (k : Nat) {x : Reg} {j : Nat} : ∀ {l : List (Reg × Nat)} (s : State),
    (∀ y ∈ l.map Prod.fst, y.off ≠ Itg.TRIP_EN.off) → (s.wrs pgIntegrity l).rd (pgKeep k) x j = s.rd (pgKeep k) x j
  | [], _, _ => rfl
  | (r, v) :: l, s, h => by
    rw [State.wrs, State.rd_wrs_integrity k _ fun y hy => h y (List.mem_cons_of_mem _ hy)]
    exact State.rd_wr_integrity s k v (h r (List.mem_cons_self ..))

theorem State.rd_ueRecord_keep (s : State) (a b c k : Nat) {x : Reg} {j : Nat} :
    (s.ueRecord a b c).rd (pgKeep k) x j = s.rd (pgKeep k) x j := by
  unfold State.ueRecord
  split
  · exact State.rd_again ..
  · exact State.rd_wrs_integrity k s (by simp only [List.map]; decide)

theorem State.setMem_rd (s : State) (m : List Host.Cell) (p : PageId) (x : Reg) (j : Nat) :
    State.rd { s with mem := m } p x j = s.rd p x j := rfl

theorem State.poisonLine_rd (s : State) (sp line : Nat) (p : PageId) (x : Reg) (j : Nat) :
    (s.poisonLine sp line).rd p x j = s.rd p x j := by
  unfold State.poisonLine
  dsimp only
  rw [State.setArrays_rd]
  unfold State.poke
  generalize memWrite _ _ _ = m
  exact State.setMem_rd s m p x j

/-- A bad line counted and recorded leaves the fields of a Keep as they read. -/
theorem State.rd_ueLine_keep (s : State) (sp line : Nat) (d : Decoded) (k : Nat) {x : Reg} {j : Nat} (hx : 0x100 ≤ x.off)
    (h : x.off + x.stride * j ≠ 0x3C8) : (s.ueLine sp line d).rd (pgKeep k) x j = s.rd (pgKeep k) x j := by
  unfold State.ueLine
  dsimp only
  rw [State.rd_err_keep _ _ _ hx h, State.rd_ueRecord_keep]
  unfold State.bump State.bumpi
  rw [State.rd_wr_integrity _ _ _ (by decide), State.poisonLine_rd]

/-- What a bad granule of the region does: the line is poisoned and counted, and no queue changes. -/
theorem State.spillUe_effect (s : State) (k place : Nat) : (s.spillUe k place).opn = s.opn ∧
    (s.spillUe k place).decoded spHbm (place / 64) = .poisoned ∧ counted s (s.spillUe k place) (pgKeep k) Opn.OVF_ECC 1 ∧
    errSet (s.spillUe k place) (pgKeep k) 18 := by
  obtain ⟨hc, he, hs⟩ := State.discardCounted (s.ueLine spHbm (place / 64) .uncorrectable) k (r := Opn.OVF_ECC) (i := 18)
    (by decide) rfl rfl (by decide) (by decide)
  have ho : (s.ueLine spHbm (place / 64) .uncorrectable).opn = s.opn :=
    (State.ueLine_parts (M := (· ≠ .opn)) (parts_refl s) _ _ _ (by decide) (by decide) (by decide) (by decide) (by decide)
      (by decide)).same_of (p := .opn) (by simp)
  have ha : (s.spillUe k place).arrays = (s.poisonLine spHbm (place / 64)).arrays := by
    unfold State.spillUe
    rw [State.err_arrays, State.bump_arrays, State.ueLine_arrays]
  refine ⟨hs.opn.trans ho, ?_, counted_from (State.rd_ueLine_keep s _ _ _ k (by decide) (by decide)) hc, he⟩
  rw [State.decoded_of ha]
  exact State.poisonLine_decoded ..

section
variable {s : State} {k o vc : Nat} {x : QFlit} {rest : List QFlit}

/-- The queue's head flit of the region read back, with what stands in its place in SRAM. -/
def State.readBack (s : State) (k o vc : Nat) (rest sram : List QFlit) : State :=
  s.setQueue k o vc (unspill (s.queue k o vc) rest ((s.queue k o vc).sram ++ sram))

theorem State.spillReadback_empty (ecc : SpillEcc) (h : (s.queue k o vc).hbm = []) : s.spillReadback k o vc ecc = s := by
  unfold State.spillReadback
  dsimp only
  rw [h]

theorem State.spillReadback_waits (ecc : SpillEcc) (h : (s.queue k o vc).hbm = x :: rest) (hm : s.mayRead k o vc x = false) :
    s.spillReadback k o vc ecc = s := by
  unfold State.spillReadback
  dsimp only
  rw [h]
  exact if_pos (by simp [hm])

/-- What the read back of the head flit does, by its code and its age. -/
theorem State.spillReadback_reads (ecc : SpillEcc) (h : (s.queue k o vc).hbm = x :: rest) (hm : s.mayRead k o vc x = true) :
    s.spillReadback k o vc ecc =
      if ecc ≠ .badHeader && s.tooOld k x.flit then
        ((s.readBack k o vc rest (s.leftQ x).toList).countLeft k x.flit).ageDiscard k
      else match ecc with
      | .clean => s.readBack k o vc rest [x]
      | .corrected => (s.readBack k o vc rest [x]).noteCorrected spHbm (s.headPlace k (s.queue k o vc) / 64)
      | .badHeader => ((s.readBack k o vc rest (s.leftQ x).toList).countLeft k x.flit).spillUe k (s.headPlace k (s.queue k o vc))
      | .badPayload => (s.readBack k o vc rest [⟨x.flit.setField 7 1 1, x.entering⟩]).spillUe k
          (s.headPlace k (s.queue k o vc) + 64) := by
  unfold State.spillReadback
  dsimp only
  rw [h]
  exact if_neg (by simp [hm])

theorem State.readBack_queue (s : State) (k o vc : Nat) (rest sram : List QFlit) :
    (s.readBack k o vc rest sram).queue k o vc = unspill (s.queue k o vc) rest ((s.queue k o vc).sram ++ sram) :=
  State.queue_setQueue_self ..

theorem State.mayRead_shallow (h : s.rd (pgKeep k) Opn.SPILL_DEPTH 0 ≤ 2 * qCells (s.queue k o vc).sram) :
    s.mayRead k o vc x = false := by
  unfold State.mayRead
  dsimp only
  rw [decide_eq_false (Nat.not_lt.2 h)]
  rfl

/-- A corrected granule is counted, and changes no queue (R326). -/
theorem State.noteCorrected_effect (s : State) (sp line : Nat) : (s.noteCorrected sp line).opn = s.opn ∧
    counted s (s.noteCorrected sp line) pgIntegrity Itg.CORR_TOTAL 1 := by
  have hcount : counted s (s.bump pgIntegrity Itg.CORR_TOTAL) pgIntegrity Itg.CORR_TOTAL 1 :=
    State.rd_bump_wrap s pgIntegrity Itg.CORR_TOTAL 1 (by decide) (by simp [steers, rkey, Itg.CORR_TOTAL, Hdr.FREEZE, Itg.TRIP_EN]) rfl
  exact ⟨State.bump_opn .., hcount⟩

end

theorem flitsSpill : FlitsSpill := by
  refine ⟨fun k o vc s => ⟨_, rfl, State.spillWrite_stays, fun x rest a h hr ha => ⟨fun hp => ?_, fun hp hg => ?_⟩⟩,
    fun k o vc ecc s => ⟨_, rfl, State.spillReadback_empty ecc, fun x rest q h hq => ⟨State.spillReadback_waits ecc h, fun hd => ?_,
      fun hm => ⟨fun hb ho => ?_, fun hb => ?_, fun ho => ⟨fun hc => ?_, fun hc => ?_, fun hc => ?_⟩⟩⟩⟩⟩
  · rw [ha, State.spillWrite_waits h hr (ha ▸ hp)]
  · rw [State.spillWrite_good h hr (ha ▸ hp) hg, ← ha]
    exact State.spilled_effect s k o vc x (s.spilledTo k o vc x rest) ha
  · subst hq
    exact State.spillReadback_waits ecc h (State.mayRead_shallow hd)
  · subst hq
    rw [State.spillReadback_reads ecc h hm, if_pos (by simp [hb, ho])]
    obtain ⟨h1, -, h3, h4⟩ := State.aged_effect (s.readBack k o vc rest (s.leftQ x).toList) k x.flit
    exact ⟨(State.queue_of h1 k o vc).trans (State.readBack_queue ..), h3, h4⟩
  · subst hq hb
    rw [State.spillReadback_reads .badHeader h hm, if_neg (by simp)]
    obtain ⟨h1, h2, h3, h4⟩ := State.spillUe_effect ((s.readBack k o vc rest (s.leftQ x).toList).countLeft k x.flit) k
      (s.headPlace k (s.queue k o vc))
    refine ⟨?_, h2, counted_from (State.rd_countLeft_keep (s.readBack k o vc rest (s.leftQ x).toList) k k x.flit (by decide)
      (by decide)) h3, h4⟩
    exact (State.queue_of (h1.trans (State.countLeft_opn ..)) k o vc).trans (State.readBack_queue ..)
  · subst hq
    rw [State.spillReadback_reads ecc h hm, if_neg (by simp [ho])]
    rcases hc with rfl | rfl
    · exact State.readBack_queue ..
    · exact (State.queue_of (State.noteCorrected_effect (s.readBack k o vc rest [x]) _ _).1 k o vc).trans (State.readBack_queue ..)
  · subst hq hc
    rw [State.spillReadback_reads .corrected h hm, if_neg (by simp [ho])]
    exact (State.noteCorrected_effect (s.readBack k o vc rest [x]) _ _).2
  · subst hq hc
    rw [State.spillReadback_reads .badPayload h hm, if_neg (by simp [ho])]
    obtain ⟨h1, h2, h3, h4⟩ := State.spillUe_effect (s.readBack k o vc rest [⟨x.flit.setField 7 1 1, x.entering⟩]) k
      (s.headPlace k (s.queue k o vc) + 64)
    exact ⟨(State.queue_of h1 k o vc).trans (State.readBack_queue ..), h2, h3, h4⟩

/-- Settles O40, by its six parts: the credits that freed cells return, the ingress switch, admission, sending, age, and the overflow
to HBM. -/
theorem flitsCrossTheOpenPlane : Obligations.FlitsCrossTheOpenPlane :=
  ⟨creditsReturn, flitsAreSwitched, flitsAreAdmitted, flitsAreSent, flitsAge, flitsSpill⟩

end Sys2Proof.Machine
end

