-- ==== Sys2Proof/Proofs/WaitingRegisterRequest.lean ====
section
/-! SUPPORT. A waiting request for a register of another page than its target (R307, R310, R397). The target of a virtual request is
the segment table's, and tells which tile the request waits for; a register access goes to the offset that the request itself gives.
With an entry whose SPACE is 3 — none that R308 lets commit — the two differ: the request that a tile's row performs writes MOD_REQ of
the Buttress, and the module's entry into P4 forgets every request that waits. -/

namespace Sys2Proof.Machine

open Sys2Proof

/-! ## What a waiting request leaves waiting -/

/-- Requests that all name a target are none refused. -/
theorem State.refuseWaiting_none {s : State} (h : ∀ f ∈ s.waiting, ∃ a, s.target f = .inr a) : s.refuseWaiting = s := by
  unfold State.refuseWaiting
  refine foldl_of_fixed fun f hf => ?_
  obtain ⟨a, ha⟩ := h f hf
  rw [ha]

/-- A reply on its way leaves the requests that wait. -/
theorem State.answer_waiting (s : State) (f : Flit) (x : Served) : (s.answer f x).waiting = x.st.waiting :=
  (State.forward_parts (M := (· ≠ .waiting)) (parts_refl x.st) _ _ _ _ _ (by decide) (by decide) (by decide) (by decide)
    (by decide)).same_of (p := .waiting) (by simp)

/-- The state once a request waits no longer. -/
def State.unwaited (s : State) (f : Flit) : State := { s with waiting := s.waiting.erase f }

/-- A register request performed: what waits after it is what waits after the register access. -/
theorem State.performWaiting_register {s : State} {p : Target → Flit → Bool} {f : Flit} {a : Target}
    (h : ∀ f ∈ s.waiting, ∃ a, s.target f = .inr a) (hn : s.nextWaiting p = some (f, a)) (ha : a.sp = 3) :
    (s.performWaiting p).waiting = ((s.unwaited f).openReg (reqOf f) ((s.unwaited f).srcUnit f)).st.waiting := by
  have hsp : a.sp ≠ spHbm := by rw [ha]; decide
  have hperform : (s.unwaited f).performAt a f = (s.unwaited f).openReg (reqOf f) ((s.unwaited f).srcUnit f) := if_pos ha
  have hcount : ∀ x : Served, x.count a = x := fun x => if_neg hsp
  unfold State.performWaiting
  rw [State.refuseWaiting_none h]
  dsimp only
  rw [hn]
  dsimp only
  rw [if_neg hsp, State.answer_waiting]
  show (State.countRefusal ((s.unwaited f).performAt a f |>.count a).st _).waiting = _
  rw [hcount, hperform]
  exact (State.countRefusal_parts (M := (· ≠ .waiting)) (parts_refl _) _ (by decide)).same_of (p := .waiting) (by simp)

/-! ## A write of MOD_REQ (R401, R422) -/

/-- The offset of MOD_REQ in register space. -/
def modReqOff : Nat := 0x03020124

theorem State.regAccess_modReq (s : State) (v unit : Nat) :
    (s.regAccess modReqOff (some v) unit).2.2 = s.modReq (bits (v % 2 ^ 32) 0 8) (bits (v % 2 ^ 32) 8 8) := by
  have hpage : (if modReqOff < 2 ^ 32 then pageAt modReqOff else none) = some pgButtress := by decide
  have hdom : pageDomains pgButtress = [] := by decide
  have hcur : s.pageCur pgButtress = 0 := by
    unfold State.pageCur
    rw [hdom]
    rfl
  have hon : s.unavailable pgButtress = false := by
    unfold State.unavailable
    rw [hcur]
    simp [p3Readable, pgButtress]
  have him : s.imemHeld pgButtress (modReqOff % 0x1000) (unit = 1) = false := by simp [State.imemHeld, pgButtress, tyTile]
  unfold State.regAccess
  rw [hpage]
  dsimp only
  rw [hon, Bool.and_false, if_neg Bool.false_ne_true, him, if_neg Bool.false_ne_true]
  rfl

/-- A request that writes a word to the offset of MOD_REQ. -/
theorem State.openReg_modReq (s : State) {r : Req} {v : Nat} (unit : Nat) (ho : r.opcode = 2) (ha : faOff r.addr = modReqOff)
    (hv : leNat r.data = v) : (s.openReg r unit).st = s.modReq (bits (v % 2 ^ 32) 0 8) (bits (v % 2 ^ 32) 8 8) := by
  unfold State.openReg
  rw [ha, if_pos ho, hv]
  exact State.regAccess_modReq s v unit

/-- Entering P4 forgets every request that waits (R421, R422). -/
theorem State.enterP4_waiting (s : State) (cause sensor : Nat) : (s.enterP4 cause sensor).waiting = [] := by
  unfold State.enterP4
  dsimp only
  rw [State.setPower_waiting]
  exact (State.wrs_parts (M := (· ≠ .waiting)) _ (by decide) (parts_refl s.diesOff) _).same_of (p := .waiting) (by simp)

theorem State.modReq_p4 {s : State} (hr : s.running = true) (h0 : s.rd pgButtress But.MOD_STATE 0 = 0) :
    s.modReq 3 0xA5 = s.enterP4 1 0 := by
  unfold State.modReq
  dsimp only
  rw [hr, h0]
  rfl

/-! ## The counterexample -/

/-- A segment of register space: a valid entry with WR, SIZE 2^18 and SPACE 3, from the virtual offset 0x03000000 to the offset 0x01000000. -/
def registerEntry : List Nat := [1 + 2 ^ 4 + 18 * 2 ^ 10 + 3 * 2 ^ 16, 0, 24, 8, 0, 0, 0, 0]

/-- A virtual write of MOD_REQ with the key and the code of P4. -/
def p4Request : Flit :=
  FlitSpec.flit { kind := 1, vc := 0, dst := 0, dstM := true, src := 0, srcM := true, tick := 0, tag := 5, opcode := 2,
                  payload := reqPayload modReqOff 4 1 0 (leBytes 4 0xA503) }

/-- The module after reset with that entry, and two such requests that wait. -/
def p4Waiting : State := { State.reset with fst := [(0, registerEntry)], waiting := [p4Request, p4Request] }

/-- The target of the request: a place in the page of tile 16. -/
def tile16Target : Target := ⟨3, 0x01020124, none⟩

theorem p4Waiting_target : p4Waiting.target p4Request = .inr tile16Target := by decide +kernel

theorem p4Waiting_next : p4Waiting.nextWaiting (fun a _ => tileAccess 16 a) = some (p4Request, tile16Target) := by decide +kernel

theorem p4Waiting_targets : ∀ f ∈ p4Waiting.waiting, ∃ a, p4Waiting.target f = .inr a := by
  intro f hf
  have hf : f = p4Request := by simpa [p4Waiting] using hf
  exact ⟨tile16Target, hf ▸ p4Waiting_target⟩

/-- After the row no request waits, where one was left. -/
theorem p4Waiting_forgotten : (p4Waiting.performWaiting fun a _ => tileAccess 16 a).waiting = [] := by
  have hreq : (reqOf p4Request).opcode = 2 ∧ faOff (reqOf p4Request).addr = modReqOff ∧ leNat (reqOf p4Request).data = 0xA503 := by
    decide +kernel
  have hrun : (p4Waiting.unwaited p4Request).running = true ∧ (p4Waiting.unwaited p4Request).rd pgButtress But.MOD_STATE 0 = 0 := by
    decide +kernel
  have hcode : bits (0xA503 % 2 ^ 32) 0 8 = 3 ∧ bits (0xA503 % 2 ^ 32) 8 8 = 0xA5 := by decide
  rw [State.performWaiting_register p4Waiting_targets p4Waiting_next rfl, State.openReg_modReq _ _ hreq.1 hreq.2.1 hreq.2.2,
    hcode.1, hcode.2, State.modReq_p4 hrun.1 hrun.2]
  exact State.enterP4_waiting ..

/-- Refutes O43: of two requests that wait for tile 16 by a segment of SPACE 3, the first writes MOD_REQ, and the second, which should
still wait, is gone with the module's entry into P4. -/
theorem not_memoryRequestsAndAtomicsAreServed : ¬ Obligations.MemoryRequestsAndAtomicsAreServed := by
  unfold Obligations.MemoryRequestsAndAtomicsAreServed AtomicsAndWaitingRequests
  rintro ⟨-, -, htile, -⟩
  obtain ⟨t, ht, -, hserved⟩ := htile 16 p4Waiting p4Waiting_targets
  have hexec : exec (.tileStoreAccess 16) p4Waiting = .next (p4Waiting.performWaiting fun a _ => tileAccess 16 a) := rfl
  obtain rfl : p4Waiting.performWaiting (fun a _ => tileAccess 16 a) = t := by
    rw [hexec] at ht
    injection ht
  have hleft : (p4Waiting.performWaiting fun a _ => tileAccess 16 a).waiting = [p4Request, p4Request].erase p4Request :=
    (hserved p4Request tile16Target p4Waiting_next).1
  rw [p4Waiting_forgotten, List.erase_cons_head] at hleft
  cases hleft

end Sys2Proof.Machine
end

