-- ==== Sys2Proof/Proofs/PlanBanks.lean ====
section
/-! SUPPORT. Plan banks: LOAD, the end of a load, a switch armed and withdrawn (R110, R111, R114). -/

namespace Sys2Proof.Machine

open Sys2Proof

/-! ## Fields of the tick plans -/

/-- The fields of the Keeps' pages that loads and switches go by (Tables 04.8 and 04.9). -/
def planFields : List Reg :=
  [Pln.BASE_LO, Pln.BASE_HI, Pln.PLAN_LEN, Pln.ACTIVE, Pln.A_STATE, Pln.B_STATE, Pln.ARMED, Pln.LANDING_OLD, Slt.LAND_MAX]

/-- Every field of the tick plans reads as before, in every Keep. -/
def planFieldsKept (s t : State) : Prop := ∀ x ∈ planFields, ∀ k, t.rd (pgKeep k) x 0 = s.rd (pgKeep k) x 0

/-- They are block fields, apart from the count of dropped frames. -/
theorem planFields_block : ∀ x ∈ planFields, 0x100 ≤ x.off ∧ x.off + x.stride * 0 ≠ 0x3C8 := by decide

theorem planFieldsKept.trans {s t u : State} (h : planFieldsKept s t) (h' : planFieldsKept t u) : planFieldsKept s u :=
  fun x hx k => (h' x hx k).trans (h x hx k)

/-- What touches no register keeps every field as it reads. -/
theorem Parts.rd {M : Part → Prop} {s t : State} (h : Parts M s t) (hm : ¬ M .regs) (p : PageId) (x : Reg) (i : Nat) :
    t.rd p x i = s.rd p x i := by
  obtain ⟨hregs, -, hhidden, htrip, -⟩ := h.same_of hm
  exact State.rd_of_eq hregs hhidden htrip p x i

/-- What touches neither bank keeps both. -/
theorem Parts.bank {M : Part → Prop} {s t : State} (h : Parts M s t) (hA : ¬ M .bankA) (hB : ¬ M .bankB) (b : Nat) :
    t.bank b = s.bank b := by
  have hbA : t.bankA = s.bankA := h.same_of hA
  have hbB : t.bankB = s.bankB := h.same_of hB
  unfold State.bank
  rw [hbA, hbB]

theorem Parts.planFieldsKept {M : Part → Prop} {s t : State} (h : Parts M s t) (hm : ¬ M .regs) : planFieldsKept s t :=
  fun x _ k => h.rd hm (pgKeep k) x 0

theorem planFieldsKept_err (s : State) (p : PageId) (i : Nat) : planFieldsKept s (s.err p i) := fun x hx _ =>
  State.rd_err_keep s p i (planFields_block x hx).1 (planFields_block x hx).2

/-- A block field of a Keep that lies apart from them is written. -/
theorem planFieldsKept_wr (s : State) (k : Nat) {r : Reg} (v : Nat) (hr : 0x100 ≤ r.off)
    (ha : ∀ x ∈ planFields, x.off + x.stride * 0 ≠ r.off) : planFieldsKept s (s.wr (pgKeep k) r v) := by
  intro x hx j
  by_cases hj : j = k
  · subst hj
    exact State.rd_wr_same s v (.inl (ha x hx)) (planFields_block x hx).1 hr (by simp [pgKeep])
  · exact State.rd_wr_other s v (fun e => hj (pgKeep_inj.1 e)) hr (by simp [pgKeep])

theorem planFieldsKept_wrs (k : Nat) : ∀ {l : List (Reg × Nat)} (s : State),
    (∀ r ∈ l.map Prod.fst, 0x100 ≤ r.off ∧ ∀ x ∈ planFields, x.off + x.stride * 0 ≠ r.off) →
      planFieldsKept s (s.wrs (pgKeep k) l)
  | [], _, _ => fun _ _ _ => rfl
  | (r, v) :: l, s, h => by
    obtain ⟨hr, ha⟩ := h r (List.mem_cons_self ..)
    exact (planFieldsKept_wr s k v hr ha).trans (planFieldsKept_wrs k _ fun y hy => h y (List.mem_cons_of_mem _ hy))

theorem planFieldsKept_foldl {α : Type} {f : State → α → State} (hf : ∀ t a, planFieldsKept t (f t a)) (l : List α) (s : State) :
    planFieldsKept s (l.foldl f s) := fun x hx k => foldl_of (·.rd (pgKeep k) x 0) f (fun t a => hf t a x hx k) l s

/-- SLOT_USED of a bank lies apart from them, and so does PEAK, on the Drums' pages. -/
theorem planFieldsKept_slot (s : State) (k b v : Nat) : planFieldsKept s (s.wr (pgKeep k) (slotReg b) v) := by
  unfold slotReg
  split <;> exact planFieldsKept_wr s k v (by decide) (by decide)

theorem planFieldsKept_peak (s : State) (c b v : Nat) : planFieldsKept s (s.wr (pgDrum c) (peakReg b) v) := by
  intro x _ k
  unfold peakReg
  split <;> exact State.rd_wr_other s v (by simp [pgKeep, pgDrum]) (by decide) (by simp [pgDrum])

section
variable {s t : State} (h : planFieldsKept s t)
include h

theorem planFieldsKept.bankState (b : Nat) : t.bankState b = s.bankState b := by
  unfold State.bankState
  split <;> exact h _ (by decide) 0

theorem planFieldsKept.armed : t.rdb (pgKeep 0) Pln.ARMED 0 = s.rdb (pgKeep 0) Pln.ARMED 0 := by
  unfold State.rdb
  rw [h _ (by decide) 0]

theorem planFieldsKept.servesOld (b : Nat) : t.servesOld b = s.servesOld b := by
  unfold State.servesOld State.rdb State.active
  rw [h Pln.LANDING_OLD (by decide) 0, h Pln.ACTIVE (by decide) 0]

theorem planFieldsKept.planJob (b : Nat) : t.planJob b = s.planJob b := by
  have hland : (List.range 4).map (fun k => t.rd (pgKeep k) Slt.LAND_MAX) = (List.range 4).map fun k => s.rd (pgKeep k) Slt.LAND_MAX :=
    List.map_congr_left fun k _ => h Slt.LAND_MAX (by decide) k
  unfold State.planJob State.planBase
  rw [h Pln.BASE_LO (by decide) 0, h Pln.BASE_HI (by decide) 0, h Pln.PLAN_LEN (by decide) 0, hland]

end

/-! ## Banks set and released -/

theorem State.bankState_setBankState (s : State) (b v : Nat) (hv : v < 4) : (s.setBankState b v).bankState b = v := by
  unfold State.setBankState State.bankState
  split
  · exact (State.rd_wr_own s v (by decide) (by simp [pgKeep])).trans (Nat.mod_eq_of_lt hv)
  · exact (State.rd_wr_own s v (by decide) (by simp [pgKeep])).trans (Nat.mod_eq_of_lt hv)

theorem State.bank_setBank (s : State) (b : Nat) (x : Option Bank) : (s.setBank b x).bank b = x := by
  unfold State.setBank State.bank
  split <;> rfl

theorem State.bank_wr (s : State) (p : PageId) (r : Reg) (v b : Nat) : (s.wr p r v).bank b = s.bank b := by
  unfold State.bank
  rw [State.wr_bankA, State.wr_bankB]

theorem State.bank_err (s : State) (p : PageId) (i b : Nat) : (s.err p i).bank b = s.bank b := by
  unfold State.bank
  rw [State.err_bankA, State.err_bankB]

theorem State.bank_wrs (p : PageId) (b : Nat) : ∀ (l : List (Reg × Nat)) (s : State), (s.wrs p l).bank b = s.bank b
  | [], _ => rfl
  | (r, v) :: l, s => by rw [State.wrs, State.bank_wrs p b l, State.bank_wr]

/-- A released bank is empty (R314, R448). -/
theorem State.bank_releaseBank (s : State) (b : Nat) : (s.releaseBank b).bank b = none := by
  unfold State.releaseBank
  dsimp only
  change State.bank (List.foldl _ (List.foldl _ (State.clearMeas _ _) _) _) b = none
  refine (foldl_of (fun u : State => u.bank b) _ (fun t c => State.bank_wr ..) _ _).trans ?_
  refine (foldl_of (fun u : State => u.bank b) _ (fun t k => State.bank_wr ..) _ _).trans ?_
  exact State.bank_setBank _ b none

/-- A release leaves the scheduled plane. -/
theorem State.releaseBank_sched (s : State) (b : Nat) : (s.releaseBank b).sched = s.sched :=
  (State.releaseBank_parts (M := (· ≠ .sched)) (parts_refl s) b (by decide) (by decide) (by decide) (by decide) (by decide)
    (by decide)).same_of (p := .sched) (by simp)

/-- An emptied bank is EMPTY and holds nothing. -/
theorem State.emptyBank_effect (s : State) (b : Nat) :
    (s.emptyBank b).bankState b = 0 ∧ (s.emptyBank b).bank b = none ∧ (s.emptyBank b).sched = s.sched := by
  unfold State.emptyBank
  refine ⟨State.bankState_setBankState _ b 0 (by decide), ?_, ?_⟩
  · exact (State.bank_wr ..).trans (State.bank_releaseBank s b)
  · exact (State.wr_sched ..).trans (State.releaseBank_sched s b)

/-! ## LOAD (R110) -/

/-- A bank that is loading, in force, armed or still serving landings is refused. -/
theorem State.planLoad_busy {s : State} {b : Nat} (h : s.bankState b = 1 ∨ s.bankState b = 3 ∨
    (s.rdb (pgKeep 0) Pln.ARMED 0 = true ∧ s.sched.armBank = b) ∨ s.servesOld b = true) : s.planLoad b = s.err (pgKeep 0) 11 :=
  if_pos (by simpa [or_assoc] using h)

theorem State.planLoad_idle {s : State} {b : Nat} (h1 : s.bankState b ≠ 1) (h3 : s.bankState b ≠ 3)
    (ha : s.rdb (pgKeep 0) Pln.ARMED 0 = false ∨ s.sched.armBank ≠ b) (hl : s.servesOld b = false) :
    s.planLoad b = ((s.releaseBank b).setBankState b 1).setSched
      { s.sched with loading := s.sched.loading ++ [s.planJob b] } := by
  have hsched : ((s.releaseBank b).setBankState b 1).sched = s.sched := (State.wr_sched ..).trans (State.releaseBank_sched s b)
  unfold State.planLoad
  rw [if_neg (by simpa [h1, h3, hl] using fun e => ha.resolve_left (by simp [e]))]
  dsimp only
  rw [hsched]

/-- LOAD names its bank in LOAD_BANK first, which no field that it then goes by shares. -/
theorem loadsTakeIdleBanks (b : Nat) (s : State) (hb : b < 2) : ∃ t, exec (.load b) s = .next t ∧
    (s.bankState b = 1 ∨ s.bankState b = 3 ∨ (s.rdb (pgKeep 0) Pln.ARMED 0 = true ∧ s.sched.armBank = b) ∨ s.servesOld b = true →
      errSet t (pgKeep 0) 11 ∧ t.bankState b = s.bankState b ∧ t.bank b = s.bank b ∧ t.sched = s.sched) ∧
    (s.bankState b ≠ 1 → s.bankState b ≠ 3 → (s.rdb (pgKeep 0) Pln.ARMED 0 = false ∨ s.sched.armBank ≠ b) →
      s.servesOld b = false → t.bankState b = 1 ∧ t.bank b = none ∧
      t.sched = { s.sched with loading := s.sched.loading ++ [s.planJob b] }) := by
  have hkept : planFieldsKept s (s.wr (pgKeep 0) Pln.LOAD_BANK b) := planFieldsKept_wr s 0 b (by decide) (by decide)
  have hsched : (s.wr (pgKeep 0) Pln.LOAD_BANK b).sched = s.sched := State.wr_sched ..
  refine ⟨(s.wr (pgKeep 0) Pln.LOAD_BANK b).planLoad b, ?_, fun hbusy => ?_, fun h1 h3 ha hl => ?_⟩
  · conv_rhs => rw [← Nat.mod_eq_of_lt hb]
    rfl
  · rw [← hkept.bankState, ← hkept.armed, ← hkept.servesOld, ← hsched] at hbusy
    rw [State.planLoad_busy hbusy, planFieldsKept.bankState (planFieldsKept_err _ _ _), hkept.bankState, State.bank_err,
      State.bank_wr, State.err_sched]
    exact ⟨State.err_bit _ _ _ (by decide), rfl, rfl, hsched⟩
  · rw [← hkept.bankState] at h1 h3
    rw [← hkept.armed, ← hsched] at ha
    rw [← hkept.servesOld] at hl
    rw [State.planLoad_idle h1 h3 ha hl, hkept.planJob, hsched]
    exact ⟨State.bankState_setBankState _ b 1 (by decide), (State.bank_wr ..).trans (State.bank_releaseBank ..), rfl⟩

/-! ## A load ends (R110, R111) -/

/-- The first field of a list reads as written where no other of the list is the same. -/
theorem State.rd_wrs_head (s : State) {p : PageId} {r : Reg} (v : Nat) {l : List (Reg × Nat)} (hr : 0x100 ≤ r.off) (ht : p.ty ≠ 0x51)
    (h : ∀ y ∈ l.map Prod.fst, 0x100 ≤ y.off ∧ (r.off + r.stride * 0 ≠ y.off ∨ r.lo ≠ y.lo)) :
    (s.wrs p ((r, v) :: l)).rd p r 0 = v % 2 ^ r.w := by
  rw [State.wrs, State.rd_wrs_same hr ht _ h, State.rd_wr_own _ _ hr ht]

/-- A rejected image is recorded and reported, and its bank is EMPTY. -/
theorem State.planReject_effect (s : State) (b : Nat) (e : PlanErr) :
    (s.planReject b e).sched = s.sched ∧ (s.planReject b e).bankState b = 0 ∧ (s.planReject b e).bank b = none ∧
      (s.planReject b e).rd (pgKeep 0) Pln.ERR_VALID 0 = 1 ∧ (s.planReject b e).rd (pgKeep 0) Pln.ERR_CODE 0 = e.code % 2 ^ 8 ∧
      errSet (s.planReject b e) (pgKeep 0) 8 := by
  have ht : (pgKeep 0).ty ≠ 0x51 := by decide
  have hsched : (s.planReject b e).sched = s.sched :=
    (State.planReject_parts (M := (· ≠ .sched)) (parts_refl s) b e (by decide) (by decide) (by decide) (by decide) (by decide)
      (by decide) (by decide) (by decide) (by decide)).same_of (p := .sched) (by simp)
  refine ⟨hsched, ?_⟩
  obtain ⟨hstate, hbank, -⟩ := State.emptyBank_effect s b
  unfold State.planReject
  dsimp only
  refine ⟨?_, ?_, ?_, ?_, State.err_bit _ _ _ (by decide)⟩
  · rw [planFieldsKept.bankState (planFieldsKept_err _ _ _), planFieldsKept.bankState
      (planFieldsKept_wrs 0 _ (by simp only [List.map_cons, List.map_nil]; decide)), hstate]
  · rw [State.bank_err, State.bank_wrs, hbank]
  · rw [State.rd_err_keep _ _ _ (by decide) (by decide), State.wrs]
    exact State.rd_wrs_head _ 1 (by decide) ht (by simp only [List.map_cons, List.map_nil]; decide)
  · rw [State.rd_err_keep _ _ _ (by decide) (by decide)]
    exact State.rd_wrs_head _ _ (by decide) ht (by simp only [List.map_cons, List.map_nil]; decide)

/-- A bank built from an accepted image is READY and holds the image and its pins. -/
theorem State.planReady_effect (s : State) (b : Nat) (m : List Byte) (pins : List Nat) :
    (s.planReady b m pins).sched = s.sched ∧ (s.planReady b m pins).bankState b = 2 ∧
      ∃ x, (s.planReady b m pins).bank b = some x ∧ x.image = m ∧ x.pins = pins := by
  refine ⟨(State.planReady_parts (M := (· ≠ .sched)) (parts_refl s) b m pins (by decide) (by decide) (by decide) (by decide)
    (by decide)).same_of (p := .sched) (by simp), ?_, ?_⟩
  · unfold State.planReady
    dsimp only
    rw [(planFieldsKept_foldl (fun t x => (State.extend_parts (M := (· = .meas)) (parts_refl t) _ _ rfl).planFieldsKept (by decide))
        _ _).bankState]
    change State.bankState (List.foldl _ (List.foldl _ _ _) _) b = 2
    rw [(planFieldsKept_foldl (fun t c => planFieldsKept_peak t c b _) _ _).bankState,
      (planFieldsKept_foldl (fun t k => planFieldsKept_slot t k b _) _ _).bankState]
    exact State.bankState_setBankState _ b 2 (by decide)
  · unfold State.planReady
    dsimp only
    rw [foldl_of (fun u : State => u.bank b) (fun t x => t.extend (measObj b) (digest x)) (fun _ _ => rfl)]
    change ∃ x, State.bank (List.foldl _ (List.foldl _ _ _) _) b = some x ∧ x.image = m ∧ x.pins = pins
    rw [foldl_of (fun u : State => u.bank b) _ (fun t c => State.bank_wr ..), foldl_of (fun u : State => u.bank b) _
      (fun t k => State.bank_wr ..)]
    exact ⟨_, (State.bank_wr ..).trans (State.bank_setBank ..), rfl, rfl⟩

section
variable {s : State} {j : PlanJob} {rest : List PlanJob}

/-- The state whose oldest load has ended. -/
def State.unloaded (s : State) (rest : List PlanJob) : State := s.setSched { s.sched with loading := rest }

theorem State.planLoaded_rejected (h : s.sched.loading = j :: rest) {e : PlanErr}
    (hc : (s.unloaded rest).planCheck (s.peek spHbm j.base j.len) j = .inl e) :
    s.planLoaded = (s.unloaded rest).planReject j.bank e := by
  unfold State.planLoaded
  rw [h]
  dsimp only
  split
  · rename_i e' he
    rw [Sum.inl.inj (hc.symm.trans he)]
    rfl
  · rename_i he
    cases hc.symm.trans he

theorem State.planLoaded_accepted (h : s.sched.loading = j :: rest) {m : List Byte} (hm : m = s.peek spHbm j.base j.len)
    {pins : List Nat} (hc : (s.unloaded rest).planCheck m j = .inr pins) :
    s.planLoaded = if !(s.sleepers m pins).isEmpty then (s.sleepers m pins).foldl State.wakeDom s
      else if !(s.carve j.bank m).roomy then (s.carve j.bank m).wakeBanks
      else ((s.unloaded rest).carve j.bank m).planReady j.bank m pins := by
  subst hm
  unfold State.planLoaded
  rw [h]
  dsimp only
  split
  · rename_i he
    cases hc.symm.trans he
  · rename_i pins' he
    rw [Sum.inr.inj (hc.symm.trans he)]
    rfl

end

/-- Domains that start to wake leave the loads and the banks. -/
theorem State.wakeDoms_effect (s : State) (l : List Nat) (b : Nat) :
    (l.foldl State.wakeDom s).sched = s.sched ∧ (l.foldl State.wakeDom s).bank b = s.bank b := by
  have hparts : Parts (· = .power) s (l.foldl State.wakeDom s) :=
    parts_foldl (M := (· = .power)) (fun t d ht => State.wakeDom_parts ht d rfl) (parts_refl s)
  exact ⟨hparts.same_of (p := .sched) (by decide), hparts.bank (by decide) (by decide) b⟩

/-- The end of the oldest load, by what its checks answer, by the domains that must wake, and by the cells. -/
theorem loadsEnd (j : PlanJob) (rest : List PlanJob) (m : List Byte) (s : State) (h : s.sched.loading = j :: rest)
    (hm : m = s.peek spHbm j.base j.len) : ∃ t, exec .planLoadDone s = .next t ∧
      (∀ e, (s.unloaded rest).planCheck m j = .inl e →
        t.sched.loading = rest ∧ t.bankState j.bank = 0 ∧ t.bank j.bank = none ∧ t.rd (pgKeep 0) Pln.ERR_VALID 0 = 1 ∧
        t.rd (pgKeep 0) Pln.ERR_CODE 0 = e.code % 2 ^ 8 ∧ errSet t (pgKeep 0) 8) ∧
      (∀ pins, (s.unloaded rest).planCheck m j = .inr pins →
        (s.sleepers m pins ≠ [] → t.sched = s.sched ∧ t.bank j.bank = s.bank j.bank) ∧
        (s.sleepers m pins = [] → (s.carve j.bank m).roomy = false → t = (s.carve j.bank m).wakeBanks) ∧
        (s.sleepers m pins = [] → (s.carve j.bank m).roomy = true →
          t.sched.loading = rest ∧ t.bankState j.bank = 2 ∧
          ∃ x, t.bank j.bank = some x ∧ x.image = m ∧ x.pins = pins)) := by
  refine ⟨s.planLoaded, rfl, fun e hc => ?_, fun pins hc => ⟨fun hl => ?_, fun hl hr => ?_, fun hl hr => ?_⟩⟩
  · rw [State.planLoaded_rejected h (hm ▸ hc)]
    obtain ⟨hsched, heffect⟩ := State.planReject_effect (s.unloaded rest) j.bank e
    exact ⟨congrArg Sched.loading hsched, heffect⟩
  · rw [State.planLoaded_accepted h hm hc, if_pos (by simpa using hl)]
    exact State.wakeDoms_effect ..
  · rw [State.planLoaded_accepted h hm hc, if_neg (by simp [hl]), if_pos (by simp [hr])]
  · rw [State.planLoaded_accepted h hm hc, if_neg (by simp [hl]), if_neg (by simp [hr])]
    obtain ⟨hsched, heffect⟩ := State.planReady_effect ((s.unloaded rest).carve j.bank m) j.bank m pins
    exact ⟨congrArg Sched.loading hsched, heffect⟩

/-! ## A switch armed, and withdrawn (R114) -/

/-- The prefetchers' turns leave every register, the scheduled plane and what is raised to Watch. -/
theorem State.prefetchAll_only (s : State) : Parts (· = .tiles) s s.prefetchAll := State.prefetchAll_parts (parts_refl s) rfl

@[simp] theorem State.configFault_sched (s : State) : s.configFault.sched = s.sched := rfl

/-- A refused switch: its bit of PG_ERR and a configuration fault, with no effect on the plans. -/
theorem State.switchRefused_effect (s : State) (i : Nat) (hi : i < 32) : errSet (s.switchRefused i) (pgKeep 0) i ∧
    (s.switchRefused i).watch.raised = s.watch.raised ++ [(2, 0)] ∧ (s.switchRefused i).sched = s.sched := by
  obtain ⟨hbit, hraised, -⟩ := State.errFault_effect s (pgKeep 0) i hi
  refine ⟨hbit, hraised, ?_⟩
  unfold State.switchRefused
  rw [State.configFault_sched, State.err_sched]

/-- A switch armed shows in PLAN_STATE and SWITCH_AT, and goes to the bank it is aimed at; no fault is raised. -/
theorem State.armSwitch_effect {s : State} {n : Nat} (hs : s.bankState s.targetBank = 2) (hn : tickReached s.now n = false)
    (ha : s.rdb (pgKeep 0) Pln.ARMED 0 = false) :
    (s.armSwitch n).rd (pgKeep 0) Pln.ARMED 0 = 1 ∧ (s.armSwitch n).rd (pgKeep 0) Pln.SWITCH_AT_LO 0 = n % 2 ^ 32 ∧
      (s.armSwitch n).watch = s.watch ∧ (s.armSwitch n).sched = { s.sched with armBank := s.targetBank, armAt := n } := by
  have ht : (pgKeep 0).ty ≠ 0x51 := by decide
  unfold State.armSwitch
  dsimp only
  rw [if_neg (not_not_intro hs), if_neg (by simp [hn]), if_neg (by simp [ha])]
  refine ⟨?_, ?_, ?_, ?_⟩
  · rw [(State.prefetchAll_only _).rd (by decide), State.setSched_rd, State.rd_wr_same _ _ (by decide) (by decide) (by decide) ht,
      State.rd_wr_same _ _ (by decide) (by decide) (by decide) ht]
    exact State.rd_wr_own _ _ (by decide) ht
  · rw [(State.prefetchAll_only _).rd (by decide), State.setSched_rd, State.rd_wr_same _ _ (by decide) (by decide) (by decide) ht,
      State.rd_wr_own _ _ (by decide) ht]
    exact Nat.mod_mod ..
  · refine ((State.prefetchAll_only _).same_of (p := .watch) (by decide)).trans ?_
    simp
  · refine ((State.prefetchAll_only _).same_of (p := .sched) (by decide)).trans ?_
    simp [State.setSched]

/-- A write of SWITCH_AT_LO, by the refusals in the order they are tried: the bank, the tick, a switch armed already. -/
theorem switchesArm (v n : Nat) (s : State) (hn : n = v % 2 ^ 32 + s.rd (pgKeep 0) Pln.SWITCH_AT_HI 0 * 2 ^ 32) :
    ∃ t, exec (.switchAtWrite v) s = .next t ∧
    (s.bankState s.targetBank ≠ 2 → errSet t (pgKeep 0) 10 ∧ t.watch.raised = s.watch.raised ++ [(2, 0)] ∧ t.sched = s.sched) ∧
    (s.bankState s.targetBank = 2 → tickReached s.now n = true →
      errSet t (pgKeep 0) 9 ∧ t.watch.raised = s.watch.raised ++ [(2, 0)] ∧ t.sched = s.sched) ∧
    (s.bankState s.targetBank = 2 → tickReached s.now n = false → s.rdb (pgKeep 0) Pln.ARMED 0 = true →
      errSet t (pgKeep 0) 11 ∧ t.watch.raised = s.watch.raised ++ [(2, 0)] ∧ t.sched = s.sched) ∧
    (s.bankState s.targetBank = 2 → tickReached s.now n = false → s.rdb (pgKeep 0) Pln.ARMED 0 = false →
      t.rd (pgKeep 0) Pln.ARMED 0 = 1 ∧ t.rd (pgKeep 0) Pln.SWITCH_AT_LO 0 = v % 2 ^ 32 ∧ t.watch = s.watch ∧
      t.sched = { s.sched with armBank := s.targetBank, armAt := n }) := by
  refine ⟨s.armSwitch n, by rw [hn]; rfl, fun hs => ?_, fun hs hl => ?_, fun hs hl ha => ?_, fun hs hl ha => ?_⟩
  · have he : s.armSwitch n = s.switchRefused 10 := if_pos hs
    exact he ▸ State.switchRefused_effect s 10 (by decide)
  · have he : s.armSwitch n = s.switchRefused 9 := by simp [State.armSwitch, hs, hl]
    exact he ▸ State.switchRefused_effect s 9 (by decide)
  · have he : s.armSwitch n = s.switchRefused 11 := by simp [State.armSwitch, hs, hl, ha]
    exact he ▸ State.switchRefused_effect s 11 (by decide)
  · have hlo : n % 2 ^ 32 = v % 2 ^ 32 := by omega
    exact hlo ▸ State.armSwitch_effect hs hl ha

/-- An armed switch whose tick is to come is withdrawn. -/
theorem State.disarm_due {s : State} (ha : s.rdb (pgKeep 0) Pln.ARMED 0 = true) (hl : tickReached s.now s.switchAtTick = false) :
    s.disarm = (s.wrb (pgKeep 0) Pln.ARMED false).prefetchAll := if_pos (by simp [ha, hl])

theorem State.disarm_none {s : State} (h : s.rdb (pgKeep 0) Pln.ARMED 0 = false ∨ tickReached s.now s.switchAtTick = true) :
    s.disarm = s := if_neg (by rcases h with h | h <;> simp [h])

/-- DISARM, before the boundary of the armed switch's tick and from then on. -/
theorem switchesDisarm (hi : Nat) (s : State) : ∃ t, exec (.disarm hi) s = .next t ∧
    t.rd (pgKeep 0) Pln.SWITCH_AT_HI 0 = hi % 2 ^ 16 ∧ t.sched = s.sched ∧
    (s.rdb (pgKeep 0) Pln.ARMED 0 = true → tickReached s.now s.switchAtTick = false → t.rd (pgKeep 0) Pln.ARMED 0 = 0) ∧
    (s.rdb (pgKeep 0) Pln.ARMED 0 = false ∨ tickReached s.now s.switchAtTick = true →
      t.rd (pgKeep 0) Pln.ARMED 0 = s.rd (pgKeep 0) Pln.ARMED 0) := by
  have ht : (pgKeep 0).ty ≠ 0x51 := by decide
  have harmed : (s.disarm.wr (pgKeep 0) Pln.SWITCH_AT_HI (hi % 2 ^ 16)).rd (pgKeep 0) Pln.ARMED 0 = s.disarm.rd (pgKeep 0) Pln.ARMED 0 :=
    planFieldsKept_wr _ 0 _ (by decide) (by decide) Pln.ARMED (by decide) 0
  have hsched : s.disarm.sched = s.sched :=
    (State.disarm_parts (M := (· ≠ .sched)) (parts_refl s) (by decide) (by decide)).same_of (p := .sched) (by simp)
  refine ⟨s.disarm.wr (pgKeep 0) Pln.SWITCH_AT_HI (hi % 2 ^ 16), rfl, ?_, (State.wr_sched ..).trans hsched, fun ha hl => ?_,
    fun h => ?_⟩
  · exact (State.rd_wr_own _ _ (by decide) ht).trans (Nat.mod_mod ..)
  · rw [harmed, State.disarm_due ha hl, (State.prefetchAll_only _).rd (by decide)]
    exact State.rd_wri_own _ _ (by decide) ht
  · rw [harmed, State.disarm_none h]

/-- Settles O41: a LOAD by whether the bank is idle, the end of a load by what its checks answer, and a switch by its bank, its tick
and whether one is armed. -/
theorem plansLoadAndSwitchesArm : Obligations.PlansLoadAndSwitchesArm := by
  refine ⟨fun b s hb => loadsTakeIdleBanks b s hb, fun s h => ?_, fun j rest m s h _ hm => loadsEnd j rest m s h hm,
    fun v n s hn => switchesArm v n s hn, switchesDisarm⟩
  have hnone : s.planLoaded = s := by
    unfold State.planLoaded
    rw [h]
  exact congrArg Host.Outcome.next hnone

end Sys2Proof.Machine
end

