-- ==== Sys2Proof/Proofs/HostLinkEvents.lean ====
section
/-! SUPPORT. The events of the host link's return (R138, R394, R395, R406). The link that comes up sends the kept events again. One that
finds its strict queue full is dropped and counted in EG_DROP, which sets bit 22 of Keep 3's PG_ERR; where PG_ERR_EN enables that bit,
its rise is an event of its own, numbered and kept beside the others. -/

namespace Sys2Proof.Machine

open Sys2Proof

/-- A link that may come up comes up: LINK_UP reads 1 and the kept events are sent again, with the error bits of what they found full. -/
theorem State.hostLinkUp_up {s : State} (he : s.rdb pgHost Hdr.EN 0 = true) (hl : s.rdb pgHost Mac.LINK_UP 0 = false)
    (hd : s.domState 332 < 2) : s.hostLinkUp =
      (s.turnTimers.wr pgHost Mac.LINK_UP 1).sendAllEvents.dropErrs (s.turnTimers.wr pgHost Mac.LINK_UP 1) :=
  if_pos (by simp [he, hl, hd])

/-- Where only EG_DROP was counted, what an event left behind is Keep 3's error bit 22, and that again if its own event was dropped. -/
theorem State.dropErrs_dropped {s1 s : State} (hk : s1.events.dropped = s.events.dropped) (hd : s1.egDrops ≠ s.egDrops) :
    s1.dropErrs s = if (s1.pgErr (pgKeep 3) 22).egDrops = s1.egDrops then s1.pgErr (pgKeep 3) 22
      else (s1.pgErr (pgKeep 3) 22).pgErr (pgKeep 3) 22 := by
  unfold State.dropErrs
  simp [hk, hd]

/-- A host link that is down, with EVT_EN set and one event kept. Strict queue 2, which takes the events, holds eight frames of two
cells: the 16 cells that its S_QCAP of 1 admits. Bit 22 of Keep 3's PG_ERR is clear and enabled in PG_ERR_EN. -/
def fullEventQueue : State :=
  { State.reset with
    regs := [(rkey pgHost Mac.EVT_EN 0, 1), (rkey pgK3 Hst.S_QCAP 2, 1), (rkey pgK3 Hdr.PG_ERR_EN 0, 2 ^ 22)]
    events := { next := 1, items := [⟨0, 0x0021, pgId pgHost, 0, [], 0⟩], dropped := 0 }
    host := { State.reset.host with strict := [(2, List.replicate 8 (List.replicate 64 0))] } }

/-- That module once LINK_UP reads 1 and the kept event has been sent again. -/
def fullEventQueueSent : State := (fullEventQueue.turnTimers.wr pgHost Mac.LINK_UP 1).sendAllEvents

/-- The event found its queue full. -/
theorem fullEventQueue_drops : fullEventQueueSent.egDrops = 1 ∧ fullEventQueueSent.events.dropped = 0 ∧
    (fullEventQueue.turnTimers.wr pgHost Mac.LINK_UP 1).egDrops = 0 := by decide +kernel

/-- The rise of Keep 3's error bit 22 is an event, numbered 1, which finds its queue full too; the bit set again is none. -/
theorem fullEventQueueSent_reports : (fullEventQueueSent.pgErr (pgKeep 3) 22).egDrops = 2 ∧
    ((fullEventQueueSent.pgErr (pgKeep 3) 22).pgErr (pgKeep 3) 22).events.next = 2 := by decide +kernel

theorem fullEventQueue_next : fullEventQueue.hostLinkUp.events.next = 2 := by
  obtain ⟨hsent, hkept, hbefore⟩ := fullEventQueue_drops
  obtain ⟨hagain, hnext⟩ := fullEventQueueSent_reports
  have hup : fullEventQueue.hostLinkUp = fullEventQueueSent.dropErrs (fullEventQueue.turnTimers.wr pgHost Mac.LINK_UP 1) :=
    State.hostLinkUp_up (by decide) (by decide) (by decide)
  rw [hup, State.dropErrs_dropped (hkept.trans rfl) (by rw [hsent, hbefore]; decide), hagain, hsent, if_neg (by decide)]
  exact hnext

/-- Refutes O42: HOST_LINK_UP numbers and keeps a further event where a kept event finds its strict queue full and Keep 3's PG_ERR_EN
enables EG_DROP. The next event number, which should stay 1, is 2. -/
theorem not_hostFramesPass : ¬ Obligations.HostFramesPass := by
  unfold Obligations.HostFramesPass HostFramesLeave
  rintro ⟨-, -, -, -, hup, -⟩
  obtain ⟨t, ht, hkept, -⟩ := hup fullEventQueue
  obtain rfl : fullEventQueue.hostLinkUp = t := by injection ht
  obtain ⟨-, hnext, -⟩ := hkept (by decide) (by decide) (by decide)
  rw [fullEventQueue_next] at hnext
  exact absurd hnext (by decide)

end Sys2Proof.Machine
end

