-- ==== Sys2Proof/Proofs/AtomicWindows.lean ====
section
/-! SUPPORT. The atomic windows of the Drums (R194–R196): a line written back and freed, a window flushed, ATOM_WIN written. -/

namespace Sys2Proof.Machine

open Sys2Proof

/-! ## Stores of a whole granule -/

theorem linesOf_granule (line : Nat) : linesOf (64 * line) 64 = [line] := by
  have hfirst : 64 * line / 64 = line := by omega
  have hlast : (64 * line + 64 - 1) / 64 = line := by omega
  unfold linesOf
  rw [if_neg (by decide), hfirst, hlast, Nat.sub_self]
  simp

theorem partOf_granule (line : Nat) {l : List Byte} (hl : l.length = 64) : partOf (64 * line) l line = (64 * line, l) := by
  have hrest : 64 * (line + 1) - 64 * line = 64 := by omega
  unfold partOf
  simp only [Nat.max_self, Nat.sub_self, List.drop_zero, hrest]
  rw [List.take_of_length_le (Nat.le_of_eq hl)]

/-- A whole granule is written with good code; a merge entry that holds it is written again (R329, R330). -/
theorem State.store_granule (s : State) (sp line : Nat) {l : List Byte} (hl : l.length = 64) :
    s.store false sp (64 * line) l = if sp = spHbm && s.mergeHeld line
      then ((s.poke sp (64 * line) l).cleanLine sp line).mergeTouch false line
      else (s.poke sp (64 * line) l).cleanLine sp line := by
  have hwhole : (partOf (64 * line) l line).2.length = 64 := by rw [partOf_granule line hl, hl]
  have hline : s.store false sp (64 * line) l = s.writeLine false sp (64 * line) l line := by
    unfold State.store
    rw [hl, linesOf_granule]
    rfl
  rw [hline]
  unfold State.writeLine
  rw [if_pos hwhole, partOf_granule line hl]

theorem State.store_granule_mem (s : State) (sp line : Nat) {l : List Byte} (hl : l.length = 64) :
    (s.store false sp (64 * line) l).mem = memWrite s.mem (cellAddr sp (64 * line)) l := by
  rw [State.store_granule s sp line hl]
  split
  · rw [State.mergeTouch_mem]
    rfl
  · rfl

/-! ## What the arrays leave of other pages -/

/-- A counter of the integrity page leaves every field of another page. -/
theorem State.rd_bump_integrity (s : State) {r x : Reg} {q : PageId} {j : Nat} (n : Nat) (hq : q ≠ pgIntegrity)
    (hr : 0x100 < r.off) : (s.bump pgIntegrity r n).rd q x j = s.rd q x j := by
  have hpage : ∀ {a b c d : Nat}, (⟨q.ty, q.inst, a, b⟩ : RegKey) ≠ ⟨pgIntegrity.ty, pgIntegrity.inst, c, d⟩ := by
    intro a b c d e
    obtain ⟨hty, hinst, -⟩ := RegKey.mk.inj e
    exact hq (by cases q; simp_all)
  refine State.rd_bump_ne s n hpage hpage ?_
  rintro (e | e)
  · exact hpage e.symm
  · simp only [rkey, Itg.TRIP_EN, RegKey.mk.injEq] at e
    omega

section
variable {q : PageId} (hq : q ≠ pgIntegrity) (x : Reg) (j : Nat)
include hq

theorem State.rd_mergeTouch (s : State) (plan : Bool) (line : Nat) : (s.mergeTouch plan line).rd q x j = s.rd q x j := by
  have hroom : ∀ t : State, (t.mergeRoom plan (stackOfLine line)).rd q x j = t.rd q x j := fun t =>
    (State.mergeRoom_parts (M := (· = .arrays)) (parts_refl t) plan _ rfl).rd (by decide) q x j
  unfold State.mergeTouch State.mergeNeed
  dsimp only
  rw [State.setArrays_rd]
  split
  · rfl
  · rw [hroom]
    split
    · exact State.rd_bump_integrity s 1 hq (by decide)
    · rfl

theorem State.rd_store_granule (s : State) (sp line : Nat) {l : List Byte} (hl : l.length = 64) :
    (s.store false sp (64 * line) l).rd q x j = s.rd q x j := by
  rw [State.store_granule s sp line hl]
  split
  · exact (State.rd_mergeTouch hq x j _ false line).trans rfl
  · rfl

/-- A read of a line that reads as data counts a correction, if anything (R326). -/
theorem State.rd_touchLine_good {s : State} {sp line : Nat} (plan : Bool) (h : s.lineGood sp line) :
    (s.touchLine plan sp line).rd q x j = s.rd q x j := by
  unfold State.touchLine
  rcases h with h | h
  · rw [h]
  · rw [h]
    exact State.rd_bump_integrity s 1 hq (by decide)

end

/-! ## A line written back (R195, R196) -/

theorem State.lineGood_of_atomBad {s : State} {sp line : Nat} (h : s.atomBad sp line = false) : s.lineGood sp line := by
  unfold State.atomBad at h
  unfold State.lineGood
  split at h <;> simp_all

theorem State.touchLine_atoms (s : State) (plan : Bool) (sp line : Nat) : (s.touchLine plan sp line).atoms = s.atoms :=
  (State.touchLine_parts (M := (· ≠ .atoms)) (parts_refl s) plan sp line (by decide) (by decide) (by decide) (by decide)
    (by decide) (by decide) (by decide)).same_of (p := .atoms) (by simp)

theorem State.store_atoms (s : State) (plan : Bool) (sp off : Nat) (l : List Byte) : (s.store plan sp off l).atoms = s.atoms :=
  (State.store_parts (M := (· ≠ .atoms)) (parts_refl s) plan sp off l (by decide) (by decide) (by decide) (by decide)
    (by decide) (by decide) (by decide)).same_of (p := .atoms) (by simp)

/-- A line that reads as data: its granule takes its bytes, and the write-back is counted (R196). -/
theorem State.atomWriteback_good {s : State} {a : Atom} (h : s.atomBad spDrum (s.atomLine a) = false) :
    s.atomWriteback a = (((s.touchLine false spDrum (s.atomLine a)).store false spHbm (64 * a.line)
      (s.peek spDrum (64 * s.atomLine a) 64)).atomFree a).bump (pgDrum a.c) Drm.ATOM_WB := by
  have hmem := (State.touchLine_corrected_mem (plan := false) (State.lineGood_of_atomBad h)).1
  unfold State.atomWriteback
  rw [if_neg (by simp [h])]
  unfold State.peek
  dsimp only
  rw [hmem]

theorem State.atomWriteback_bad {s : State} {a : Atom} (h : s.atomBad spDrum (s.atomLine a) = true) :
    s.atomWriteback a = s.atomLost a := if_pos h

/-- Either way the window holds the line no more. -/
theorem State.atomWriteback_atoms (s : State) (a : Atom) : (s.atomWriteback a).atoms = s.atoms.filter (· ≠ a) := by
  cases h : s.atomBad spDrum (s.atomLine a) with
  | false =>
    rw [State.atomWriteback_good h, State.bump_atoms]
    change List.filter _ (State.store ..).atoms = _
    rw [State.store_atoms, State.touchLine_atoms]
  | true =>
    rw [State.atomWriteback_bad h]
    unfold State.atomLost
    rw [State.err_atoms]
    change List.filter _ (State.touchLine ..).atoms = _
    rw [State.touchLine_atoms]

theorem State.atomWriteback_mem {s : State} {a : Atom} (h : s.atomBad spDrum (s.atomLine a) = false) :
    (s.atomWriteback a).mem = memWrite s.mem (cellAddr spHbm (64 * a.line)) (s.peek spDrum (64 * s.atomLine a) 64) := by
  rw [State.atomWriteback_good h, State.bump_mem]
  change (State.store ..).mem = _
  rw [State.store_granule_mem _ _ _ (State.peek_length ..),
    (State.touchLine_corrected_mem (State.lineGood_of_atomBad h)).1]

theorem State.atomWriteback_counted {s : State} {a : Atom} (h : s.atomBad spDrum (s.atomLine a) = false) :
    (s.atomWriteback a).rd (pgDrum a.c) Drm.ATOM_WB 0 = (s.rd (pgDrum a.c) Drm.ATOM_WB 0 + 1) % 2 ^ 32 := by
  have hq : pgDrum a.c ≠ pgIntegrity := by simp [pgDrum, pgIntegrity]
  have hkept : (((s.touchLine false spDrum (s.atomLine a)).store false spHbm (64 * a.line)
      (s.peek spDrum (64 * s.atomLine a) 64)).atomFree a).rd (pgDrum a.c) Drm.ATOM_WB 0 = s.rd (pgDrum a.c) Drm.ATOM_WB 0 :=
    (State.rd_store_granule hq _ _ _ _ _ (State.peek_length ..)).trans
      (State.rd_touchLine_good hq _ _ false (State.lineGood_of_atomBad h))
  rw [State.atomWriteback_good h]
  unfold State.bump
  rw [State.rd_bumpi_own _ _ (by decide) (by simp [pgDrum]) rfl, hkept]
  rfl

/-- A line found bad leaves its granule poisoned, with PG_ERR 1 of its Drum (R195). -/
theorem State.atomLost_effect (s : State) (a : Atom) :
    (s.atomLost a).decoded spHbm a.line = .poisoned ∧ errSet (s.atomLost a) (pgDrum a.c) 1 := by
  unfold State.atomLost
  exact ⟨(State.decoded_of (State.err_arrays ..) _ _).trans (State.poisonLine_decoded ..), State.err_bit _ _ _ (by decide)⟩

/-- Settles O24: a held line is written back when it has been idle, by whether its window line reads as data. -/
theorem idleAtomsReturnToHbm : Obligations.IdleAtomsReturnToHbm := by
  intro line s
  refine ⟨match s.atomHeld line with
    | some a => if s.atomIdle a then s.atomWriteback a else s
    | none => s, rfl, fun a ha hi => ?_, fun a ha hi => ?_, fun hn => ?_⟩
  · have hline : a.line = line := by simpa using List.find?_some ha
    rw [ha]
    dsimp only
    rw [if_pos hi]
    refine ⟨hline, State.atomWriteback_atoms s a, fun hg hw => ?_, fun hb => ?_⟩
    · have hlen := State.peek_length s spDrum (64 * s.atomLine a) 64
      refine ⟨?_, fun c hc => ?_, State.atomWriteback_counted hg⟩
      · unfold State.peek at hlen ⊢
        rw [State.atomWriteback_mem hg, hline]
        conv_lhs => rw [← hlen]
        exact memRead_memWrite _ _ hw
      · rw [State.atomWriteback_mem hg, hline]
        exact memGet_memWrite_out _ _ hw (by rwa [hlen])
    · rw [State.atomWriteback_bad hb, ← hline]
      exact State.atomLost_effect s a
  · rw [ha]
    exact if_neg (by simp [hi])
  · rw [hn]

/-! ## A window flushed (R196) -/

/-- Lines written back one after another leave the window. -/
theorem State.atomWritebacks_atoms : ∀ (l : List Atom) (s : State),
    (l.foldl (fun t a => t.atomWriteback a) s).atoms = s.atoms.filter fun b => b ∉ l
  | [], s => by simp
  | a :: l, s => by
    rw [List.foldl_cons, State.atomWritebacks_atoms l, State.atomWriteback_atoms, List.filter_filter]
    refine List.filter_congr fun b _ => ?_
    simp [Bool.and_comm]

theorem State.atomFlush_atoms (s : State) (c : Nat) : (s.atomFlush c).atoms = s.atoms.filter (·.c ≠ c) := by
  unfold State.atomFlush
  rw [State.wr_atoms, State.atomWritebacks_atoms]
  refine List.filter_congr fun b hb => ?_
  simp [hb]

theorem State.atomFlush_done (s : State) (c : Nat) : (s.atomFlush c).rd (pgDrum c) Drm.FLUSHING 0 = 0 :=
  State.rd_wr_own _ 0 (by decide) (by simp [pgDrum])

/-! ## ATOM_WIN (R196) -/

section
variable {s : State} {v : Nat} (c : Nat)

theorem State.atomWin_large (h : 256 < v % 512) : s.atomWin c v = s.err (pgDrum c) 2 := if_pos (by simpa [bits] using h)

theorem State.atomWin_busy (h : v % 512 ≤ 256) (hb : s.banksEmpty = false) : s.atomWin c v = s.err (pgDrum c) 0 := by
  unfold State.atomWin
  rw [if_neg (by simpa [bits] using h), if_pos (by simp [hb])]

theorem State.atomWin_set (h : v % 512 ≤ 256) (hb : s.banksEmpty = true) :
    s.atomWin c v = ((s.atomFlush c).put (pgDrum c) Drm.ATOM_WIN 0 (v % 512)).wr (pgDrum c) Drm.WIN_CUR (v % 512) := by
  unfold State.atomWin
  rw [if_neg (by simpa [bits] using h), if_neg (by simp [hb])]
  simp [bits]

/-- The window set shows in ATOM_WIN and WIN_CUR, and holds no line. -/
theorem State.atomWin_effect (h : v % 512 ≤ 256) (hb : s.banksEmpty = true) :
    (s.atomWin c v).rd (pgDrum c) Drm.ATOM_WIN 0 = v % 512 ∧ (s.atomWin c v).rd (pgDrum c) Drm.WIN_CUR 0 = v % 512 ∧
      (s.atomWin c v).atoms = s.atoms.filter (·.c ≠ c) := by
  have ht : (pgDrum c).ty ≠ 0x51 := by simp [pgDrum]
  have hw : v % 512 % 2 ^ 9 = v % 512 := by omega
  rw [State.atomWin_set c h hb]
  refine ⟨?_, (State.rd_wr_own _ _ (by decide) ht).trans hw, ?_⟩
  · rw [State.rd_wr_same _ _ (.inr (by decide)) (by decide) (by decide) ht]
    exact (State.rd_put_self _ _ _ _ _ rfl).trans hw
  · rw [State.wr_atoms, State.put_atoms, State.atomFlush_atoms]

end

/-- Settles O25: a flush by whether the Drum exists, a write of ATOM_WIN by the pages it asks for and the banks. -/
theorem windowsFlushAndResize : Obligations.WindowsFlushAndResize := by
  refine ⟨fun c s => ⟨if c < 8 then s.atomFlush c else s, rfl, fun hc => ?_, fun hc => if_neg (by omega)⟩,
    fun c v s hc => ⟨s.atomWin c v, ?_, fun h => ?_, fun h hb => ?_, fun h hb => State.atomWin_effect c h hb⟩⟩
  · rw [if_pos hc]
    exact ⟨State.atomFlush_atoms s c, State.atomFlush_done s c⟩
  · change Host.Outcome.next (if c < 8 then s.atomWin c v else s) = _
    rw [if_pos hc]
  · rw [State.atomWin_large c h]
    exact ⟨State.err_bit _ _ _ (by decide), State.err_beyond ..⟩
  · rw [State.atomWin_busy c h hb]
    exact ⟨State.err_bit _ _ _ (by decide), State.err_beyond ..⟩

end Sys2Proof.Machine
end

