-- ==== Sys2Proof/Proofs/PartialsAndCodedSlices.lean ====
section
/-! SUPPORT. What an engine takes in before its step: the partials of children into the Drum claim (R179, R181), and coded slices
decoded to dense chunks (R212, R213). -/

namespace Sys2Proof.Machine

open Sys2Proof

/-! ## The Drum claim -/

section
variable (chunks : Need × Bind → Option (List Chunk))

/-- A partial is taken: its chunks, where they have been consumed, lie under its stream (R181). -/
def takePartial (held : List (Nat × List Chunk)) (x : Need × Bind) : List (Nat × List Chunk) :=
  match chunks x with
  | some ch => AL.put held x.2.val ch
  | none => held

/-- The partials of a list of bindings are taken in order. -/
def takePartials (l : List (Need × Bind)) (held : List (Nat × List Chunk)) : List (Nat × List Chunk) :=
  l.foldl (takePartial chunks) held

end

section
variable {chunks : Need × Bind → Option (List Chunk)}

theorem takePartial_get (held : List (Nat × List Chunk)) (x : Need × Bind) (v : Nat) :
    AL.get (takePartial chunks held x) v = (if x.2.val = v then chunks x else none).or (AL.get held v) := by
  unfold takePartial
  cases chunks x with
  | none => simp
  | some ch =>
    by_cases e : x.2.val = v
    · simp [← e]
    · simp [e, AL.get_put_ne _ _ (Ne.symm e)]

/-- Where no binding of the list is of a stream, the claim holds for it what it held. -/
theorem takePartials_other {v : Nat} : ∀ {l : List (Need × Bind)} (held : List (Nat × List Chunk)), (∀ x ∈ l, x.2.val ≠ v) →
    AL.get (takePartials chunks l held) v = AL.get held v
  | [], _, _ => rfl
  | x :: l, held, h => by
    refine (takePartials_other (l := l) _ fun y hy => h y (List.mem_cons_of_mem _ hy)).trans ?_
    rw [takePartial_get, if_neg (h x (List.mem_cons_self ..)), Option.none_or]

/-- What the claim holds of a stream it held before, or a binding of the list has brought it. -/
theorem takePartials_source {v : Nat} {ch : List Chunk} : ∀ (l : List (Need × Bind)) (held : List (Nat × List Chunk)),
    AL.get (takePartials chunks l held) v = some ch → AL.get held v = some ch ∨ ∃ x ∈ l, x.2.val = v ∧ chunks x = some ch
  | [], _, h => .inl h
  | x :: l, held, h => by
    rcases takePartials_source l _ h with hheld | ⟨y, hy, hsource⟩
    · rw [takePartial_get, Option.or_eq_some_iff] at hheld
      rcases hheld with hx | ⟨-, hheld⟩
      · split at hx
        · exact .inr ⟨x, List.mem_cons_self .., ‹_›, hx⟩
        · cases hx
      · exact .inl hheld
    · exact .inr ⟨y, List.mem_cons_of_mem _ hy, hsource⟩

/-- What the claim holds it keeps. -/
theorem takePartials_keeps {v : Nat} : ∀ (l : List (Need × Bind)) (held : List (Nat × List Chunk)), AL.get held v ≠ none →
    AL.get (takePartials chunks l held) v ≠ none
  | [], _, h => h
  | x :: l, held, h => by
    refine takePartials_keeps l _ ?_
    simp [takePartial_get, h]

/-- A partial whose chunks are here is taken. -/
theorem takePartials_taken {x : Need × Bind} (hx : chunks x ≠ none) : ∀ {l : List (Need × Bind)} (held : List (Nat × List Chunk)),
    x ∈ l → AL.get (takePartials chunks l held) x.2.val ≠ none
  | y :: l, held, h => by
    rcases List.mem_cons.1 h with rfl | hl
    · refine takePartials_keeps l _ ?_
      simp [takePartial_get, hx]
    · exact takePartials_taken hx (l := l) _ hl

end

/-! ## The run that folds -/

/-- A run replaced in its slot by one that is not done is the open run there. -/
theorem openRun_setRun {s : State} {kind unit slot : Nat} {r r' : Run} (h : s.openRun kind unit slot = some r)
    (hat : r'.isAt kind unit slot = true) (hdone : r'.done = false) : (s.setRun r').openRun kind unit slot = some r' := by
  obtain ⟨hmem, hr, -⟩ := openRun_mem h
  obtain ⟨hkind, hunit, hslot⟩ := (Run.isAt_iff ..).1 hat
  have hgate : (s.planTick.runs && s.rdb (unitPage kind unit) Hdr.EN) = true := by
    unfold State.openRun at h
    split at h
    · assumption
    · cases h
  have hopen : (s.setRun r').openRun kind unit slot = (s.setRun r').runs.find? fun y => y.isAt kind unit slot && !y.done :=
    if_pos hgate
  rw [hopen, State.setRun_runs, hkind, hunit, hslot, List.find?_map]
  have hfind : (s.runs.find? ((fun y : Run => y.isAt kind unit slot && !y.done) ∘
      fun y => if y.isAt kind unit slot then r' else y)).isSome = true := by
    rw [List.find?_isSome]
    exact ⟨r, hmem, by simp [hr, hat, hdone]⟩
  obtain ⟨y, hy⟩ := Option.isSome_iff_exists.1 hfind
  have hyat : y.isAt kind unit slot = true := by
    have := List.find?_some hy
    by_contra hn
    simp [hn] at this
  rw [hy, Option.map_some, if_pos hyat]

/-- CE_PARTIAL_FOLD, where a run is open, takes the child's partials into the run's claim and changes nothing else. -/
theorem State.partialFold_open {s : State} {ce slot rank : Nat} {r : Run} (h : s.openRun 1 ce slot = some r) :
    s.partialFold ce slot rank = s.setRun
      { r with held := takePartials (s.childChunks (s.ceCtx r) rank) ((s.ceCtx r).childBinds rank) r.held } := by
  unfold State.partialFold
  rw [h]
  simp only [takePartials, CeCtx.childBinds, Bool.or_eq_true, decide_eq_true_eq]
  rfl

theorem State.partialFold_none {s : State} {ce slot rank : Nat} (h : s.openRun 1 ce slot = none) :
    s.partialFold ce slot rank = s := by
  unfold State.partialFold
  rw [h]

/-! ## Coded slices (R212, R213) -/

/-- The dense chunks that a coded slice decodes to. -/
def denseChunks (f n : Nat) (mx : Bool) (ch : List Chunk) : List Chunk :=
  (denseOf mx ((List.range (nblks (n / 32)).length).flatMap fun i => recBlks ((nblks (n / 32)).getD i 0)
    ((parseChunks f mx (nblks (n / 32)) ch).getD i none))).chunks 0 f

/-- The chunks of a list put under a stream, one after another from the first. -/
def putChunks (sid : Nat) (l : List Chunk) (n : Nat) (box : List ((Nat × Nat) × Chunk)) : List ((Nat × Nat) × Chunk) :=
  (List.range n).foldl (fun m j => match l[j]? with
    | some c => AL.put m (sid, j) c
    | none => m) box

theorem putChunks_other {sid : Nat} {k : Nat × Nat} (hk : k.1 ≠ sid) (l : List Chunk) (box : List ((Nat × Nat) × Chunk)) (n : Nat) :
    AL.get (putChunks sid l n box) k = AL.get box k := by
  refine foldl_of (AL.get · k) _ (fun m j => ?_) _ _
  split
  · exact AL.get_put_ne _ _ fun e => hk (congrArg Prod.fst e)
  · rfl

theorem putChunks_own {sid : Nat} (l : List Chunk) {box : List ((Nat × Nat) × Chunk)} (hbox : ∀ j, AL.get box (sid, j) = none) :
    ∀ n, n ≤ l.length → ∀ j, AL.get (putChunks sid l n box) (sid, j) = if j < n then l[j]? else none
  | 0, _, j => hbox j
  | n + 1, hn, j => by
    have ih := putChunks_own l hbox n (by omega) j
    have hlast : l[n]? = some l[n] := List.getElem?_eq_getElem (by omega)
    have hstep : putChunks sid l (n + 1) box = AL.put (putChunks sid l n box) (sid, n) l[n] := by
      unfold putChunks
      rw [List.range_succ, List.foldl_append, List.foldl_cons, List.foldl_nil, hlast]
    rw [hstep]
    by_cases e : j = n
    · subst e
      rw [AL.get_put_self, if_pos (by omega), hlast]
    · rw [AL.get_put_ne _ _ (by simpa using e), ih]
      exact if_congr (by omega) rfl rfl

theorem AL.get_filter_of {κ ν : Type} [DecidableEq κ] {p : κ × ν → Bool} {k : κ} (h : ∀ v, p (k, v) = true) :
    ∀ m : List (κ × ν), AL.get (m.filter p) k = AL.get m k
  | [] => rfl
  | (k', v) :: m => by
    rw [List.filter_cons]
    by_cases e : k' = k
    · subst e
      rw [if_pos (h v)]
      simp [AL.get]
    · split <;> simp [AL.get, e, AL.get_filter_of h m]

theorem AL.get_filter_none {κ ν : Type} [DecidableEq κ] {p : κ × ν → Bool} {k : κ} (h : ∀ v, p (k, v) = false) :
    ∀ m : List (κ × ν), AL.get (m.filter p) k = none
  | [] => rfl
  | (k', v) :: m => by
    rw [List.filter_cons]
    by_cases e : k' = k
    · subst e
      simp [h v, AL.get_filter_none h m]
    · split <;> simp [AL.get, e, AL.get_filter_none h m]

/-- Dense chunks take the place of a stream's own; the other streams' stay, and the stream counts as decoded. -/
theorem State.putDense_sched (s : State) (sid : Nat) (l : List Chunk) :
    (s.putDense sid l).sched =
      { s.sched with inbox := (s.putDense sid l).sched.inbox, decoded := sid :: s.sched.decoded } := rfl

theorem State.putDense_inbox (s : State) (sid : Nat) (l : List Chunk) :
    (∀ k j, k ≠ sid → AL.get (s.putDense sid l).sched.inbox (k, j) = AL.get s.sched.inbox (k, j)) ∧
      ∀ j, AL.get (s.putDense sid l).sched.inbox (sid, j) = l[j]? := by
  have hbox : (s.putDense sid l).sched.inbox = putChunks sid l l.length (s.sched.inbox.filter fun x => x.1.1 ≠ sid) := rfl
  rw [hbox]
  refine ⟨fun k j hk => ?_, fun j => ?_⟩
  · rw [putChunks_other hk, AL.get_filter_of (by simp [hk])]
  · rw [putChunks_own l (fun j => AL.get_filter_none (by simp) _) l.length (Nat.le_refl _)]
    split
    · rfl
    · exact (List.getElem?_eq_none (by omega)).symm

section
variable {s : State} {c sid f n : Nat} {mx : Bool} {m : List Byte} {r : StreamRec} {ch : List Chunk}
  (hm : s.imageOf s.planTick = some m) (hr : imgStream m sid = some r) (hcoded : r.coded = true)
  (hsink : r.sink = 0x10 + 2 * c ∨ r.sink = 0x11 + 2 * c) (hslice : s.sinkSlice sid = some (f, mx, n))
include hm hr hslice

theorem State.decodeSlice_again (h : s.sched.decoded.contains sid = true) : s.decodeSlice c sid = s := by
  unfold State.decodeSlice
  rw [hm]
  dsimp only
  rw [hr, hslice]
  exact if_pos (by simp only [h, Bool.or_true])

theorem State.decodeSlice_waits (h : s.codedIn sid (r.chunks + r.ovf) = none) : s.decodeSlice c sid = s := by
  unfold State.decodeSlice
  rw [hm]
  dsimp only
  rw [hr, hslice]
  dsimp only
  split
  · rfl
  · rw [h]

include hcoded hsink

/-- A slice whose chunks have all been consumed is counted, its faults are reported, and its dense chunks take their place. -/
theorem State.decodeSlice_decodes (hnew : s.sched.decoded.contains sid = false) (h : s.codedIn sid (r.chunks + r.ovf) = some ch) :
    ∃ u : State, u.sched = s.sched ∧ s.decodeSlice c sid = u.putDense sid (denseChunks f n mx ch) := by
  refine ⟨(((s.bump (pgCodec c) Cdc.BYTES_CODED (sumL (ch.map Chunk.len))).bump (pgCodec c) Cdc.BYTES_DENSE
    (n / 32 * (blkBytes f + blkScale mx))).sliceEffects (pgCodec c) s.stepIdx (parseChunks f mx (nblks (n / 32)) ch)), ?_, ?_⟩
  · refine (State.sliceEffects_parts (M := (· ≠ .sched)) (parts_refl _) _ _ _ (by decide) (by decide) (by decide)
      (by decide)).same_of (p := .sched) (by simp) |>.trans ?_
    simp
  · unfold State.decodeSlice
    rw [hm]
    dsimp only
    rw [hr, hslice]
    dsimp only
    have hmine : (r.coded && (r.sink = 0x10 + 2 * c || r.sink = 0x11 + 2 * c)) = true := by simpa [hcoded] using hsink
    rw [hmine, hnew, if_neg (by decide), h]
    rfl

end

/-- CODED_SLICE_RECEIVE touches the scheduled plane and what errors are reported with. -/
theorem State.decodeSlice_rest (s : State) (c sid : Nat) : keepsRest (.sched :: errParts) s (s.decodeSlice c sid) := by
  obtain ⟨t, ht, hparts⟩ := codedSliceReceive_touches s c sid
  obtain rfl : s.decodeSlice c sid = t := by injection ht
  exact fun p hp => hparts.same_of fun h => hp (by simpa [touches, or_comm] using h)

/-- Settles O33: a partial's fold by induction over its bindings, a coded slice by whether it is decoded and its chunks are here. -/
theorem partialsAndCodedSlicesAreTaken : Obligations.PartialsAndCodedSlicesAreTaken := by
  refine ⟨fun ce slot rank r s h => ?_, fun ce slot rank s h => congrArg Host.Outcome.next (State.partialFold_none h),
    fun c sid f n mx m r ch s hm hr hcoded hsink hslice => ⟨fun hdec => ?_, fun hwait => ?_, fun hnew hch => ?_⟩⟩
  · obtain ⟨-, hat, hdone⟩ := openRun_mem h
    refine ⟨_, takePartials (s.childChunks (s.ceCtx r) rank) ((s.ceCtx r).childBinds rank) r.held,
      congrArg Host.Outcome.next (State.partialFold_open h), rfl, openRun_setRun h hat hdone,
      fun x hx hc => takePartials_taken hc _ hx, fun v l hl => takePartials_source _ _ hl, fun v hv => takePartials_other _ hv⟩
  · exact congrArg Host.Outcome.next (State.decodeSlice_again hm hr hslice hdec)
  · exact congrArg Host.Outcome.next (State.decodeSlice_waits hm hr hslice hwait)
  · refine ⟨s.decodeSlice c sid, rfl, State.decodeSlice_rest s c sid, ?_⟩
    obtain ⟨u, hu, ht⟩ := State.decodeSlice_decodes hm hr hcoded hsink hslice hnew hch
    rw [ht, ← hu]
    exact ⟨State.putDense_sched .., State.putDense_inbox ..⟩

end Sys2Proof.Machine
end

