-- ==== Sys2Proof/Proofs/StrayScatter.lean ====
section
/-! SUPPORT. A SCATTER_IDX whose one index names no row of its table (R187, R199), in a tick in which an open write has reached the
table (R312, R380): the row keeps its bytes, which are not those that planned units read. -/

namespace Sys2Proof.Machine

open Sys2Proof

/-- Where no stream is due a slice, a step takes none (R175, R183). -/
theorem State.takeSlices_none {s : State} {c : CeCtx} (h : ∀ x ∈ c.l, s.sliceDue c x = none) : s.takeSlices c = some (c, []) := by
  unfold State.takeSlices
  refine List.foldlRecOn (motive := (· = some (c, []))) _ _ rfl fun acc hacc x hx => ?_
  rw [hacc, h x hx]

/-- Local offset of the table, the base of segment 1; the contribution's leaf and the index tensor lie 64 and 128 bytes behind. -/
def strayTable : Nat := 0x10201 * 2 ^ 21

/-- SCATTER_IDX without reduction in a group of one member, in one step: a table of one row of one FP32 element, one contribution. -/
def strayDesc : List Byte :=
  leBytes 4 8 ++ leBytes 2 2 ++ leBytes 2 1 ++ leBytes 5 8 ++ leBytes 8 0x0101010101010101 ++ leBytes 3 0 ++ leBytes 4 1 ++
    leBytes 4 1 ++ leBytes 4 1 ++ leBytes 4 1 ++ leBytes 2 0 ++ leBytes 2 3 ++ leBytes 4 0 ++
    leBytes 8 0x003 ++ leBytes 8 64 ++ leBytes 8 0x104 ++ leBytes 8 0 ++ leBytes 8 0x005 ++ leBytes 8 128

/-- Its run in slot 0 of engine 0, at its only step. -/
def strayRun : Run :=
  { kind := 1, unit := 0, slot := 0, bank := 0, off := 0, step := 0, obj := strayDesc, k := 0, done := false, stop := false,
    held := [], taken := [], stepNo := 0, tag := none, lr := 0, clip := 0, acc := 0, bad := false, terms := [], frz := [],
    classes := [], torn := [] }

/-- A plan is in force and the run in its slot. The index is 1, beyond the table. The first byte of the table has been written 0 in
this tick, where planned units go on reading 0x55 until the boundary. -/
def strayState : State :=
  { State.reset with
    regs := [(rkey (pgKeep 0) Pln.A_STATE 0, 3)]
    runs := [strayRun]
    fst := [(1, [0x5419, 0, 0, 0x10201, 0, 0, 0, 0])]
    mem := [(strayTable + 128, 1)]
    arrays := { State.reset.arrays with unseen := [(strayTable, 0x55)] } }

/-- The run's context. -/
def strayCtx : CeCtx := strayState.ceCtx strayRun

theorem stray_open : strayState.openRun 1 0 0 = some strayRun ∧ (descOf strayRun.obj).op = 8 := by decide +kernel

/-- No stream brings a slice, and the step can be made. -/
theorem stray_ready : strayState.ceReady strayCtx strayCtx [] := by
  have hop : strayCtx.d.op = 8 := stray_open.2
  have hslices : strayState.takeSlices strayCtx = some (strayCtx, []) := State.takeSlices_none (by decide +kernel)
  have hinputs : strayState.ceInputs strayCtx := by simp [State.ceInputs, hop]
  unfold State.ceReady
  rw [if_neg (by rw [hop]; decide)]
  exact ⟨hslices, hinputs⟩

/-- The result lies in the table alone, which is unfrozen and clean. -/
theorem stray_operand : strayState.ceOneOperand strayCtx [] ⟨0, 0⟩ 0 ∧ strayState.vaLoc 0 = strayTable := by decide +kernel

/-- The statement takes the untouched row from what planned units read. -/
theorem stray_stored : strayState.ceStored strayCtx ⟨0, 0⟩ 0 = (0, [0x55, 0, 0, 0], false) := by decide +kernel

/-- The step counts the bound fault and writes no row. -/
theorem stray_untouched : (strayState.ceScatterIdx strayCtx).rd (pgCe 0) Ce.BOUND_CNT 0 = 1 ∧
    (strayState.ceScatterIdx strayCtx).peek spHbm strayTable 4 = [0, 0, 0, 0] := by decide +kernel

theorem stray_exec : exec (ceCommand 8 0 0) strayState = .next (strayState.ceScatterIdx strayCtx) := by
  obtain ⟨hopen, hop⟩ := stray_open
  change Host.Outcome.next (strayState.ceRun 0 0 8 strayState.ceScatterIdx) = _
  unfold State.ceRun
  rw [hopen]
  exact congrArg Host.Outcome.next (if_pos hop)

/-- Refutes O28: a row that no contribution names is not written, so where an open write of the tick has reached it its bytes in
memory, here 0, are not those that planned units read, here 0x55. -/
theorem not_collectiveStepsComplete : ¬ Obligations.CollectiveStepsComplete := by
  intro h
  obtain ⟨hopen, hop⟩ := stray_open
  obtain ⟨hoperand, hloc⟩ := stray_operand
  obtain ⟨hready, -⟩ := h 8 0 0 strayState (by decide) (by decide)
  obtain ⟨t, ht, -, hresult⟩ := hready strayRun strayCtx [] hopen hop stray_ready
  obtain ⟨hbytes, -⟩ := (hresult ⟨0, 0⟩ 0 0 [0x55, 0, 0, 0] hoperand stray_stored (by rw [hloc]; decide)).1 (by decide)
  obtain rfl : strayState.ceScatterIdx strayCtx = t := by
    rw [stray_exec] at ht
    injection ht
  rw [hloc] at hbytes
  exact absurd (stray_untouched.2.symm.trans hbytes) (by decide)

end Sys2Proof.Machine
end

section
/-! SUPPORT. A STORE to a sparse segment whose header lies in a poisoned granule (R325): the narrow writes of STATE and of the header
are discarded there (R331), which sets no SEG_FULL (R207). -/

namespace Sys2Proof.Machine

open Sys2Proof

/-- Local offset of the sparse segment, whose header fills its first granule. -/
def poisonedSegBase : Nat := 0x10201 * 2 ^ 21

/-- A plan image whose one record is of stream 7: coded, terminal at codec 7's STORE, of one chunk. -/
def oneStreamImage : List Byte :=
  padTo 0x80 (leBytes 6 0 ++ leBytes 2 1) ++ (leBytes 4 1 ++ leBytes 4 0x90 ++ leBytes 4 16 ++ leBytes 4 1) ++
    (leBytes 4 7 ++ leBytes 1 3 ++ leBytes 1 0x3E ++ leBytes 2 0 ++ leBytes 8 1)

/-- A STORE of one block of FP32 from stream 7, in one slice, to the segment at virtual address 0. -/
def storeJob : List Byte :=
  leBytes 1 2 ++ leBytes 2 0 ++ leBytes 1 1 ++ leBytes 4 7 ++ leBytes 8 0 ++ leBytes 8 0 ++ leBytes 4 32 ++ leBytes 4 2048 ++
    leBytes 16 0

/-- Its run in slot 0 of codec 7, at its only slice. -/
def storeRun : Run :=
  { kind := 4, unit := 0x107, slot := 0, bank := 0, off := 0, step := 0, obj := storeJob, k := 0, done := false, stop := false,
    held := [], taken := [], stepNo := 0, tag := none, lr := 0, clip := 0, acc := 0, bad := false, terms := [], frz := [],
    classes := [], torn := [] }

/-- The coded slice that stream 7 has brought: the record of a zero block. -/
def zeroSlice : List Chunk := codedChunks (encodeSlice fFP32 false 0 [[Blk.absent]] [])

/-- A plan is in force, the run in its slot and its slice here. The first granule of the segment has been written as poisoned. -/
def poisonedHeader : State :=
  { State.reset with
    regs := [(rkey (pgKeep 0) Pln.A_STATE 0, 3)]
    bankA := some { image := oneStreamImage, pins := [], pages := [], parms := [] }
    sched := { State.reset.sched with inbox := zeroSlice.map fun x => ((7, 0), x) }
    runs := [storeRun]
    fst := [(1, [0x5499, 0, 0, 0x10201, 0, 0, 0, 0])]
    arrays := { State.reset.arrays with symErr := [((spHbm, poisonedSegBase / 64), [(69, 0xA5)])] } }

theorem poisonedHeader_open : poisonedHeader.openRun 4 (0x100 + 7) 0 = some storeRun ∧ leAt storeRun.obj 0 1 = 2 := by
  decide +kernel

/-- The slice is whole, and reads as one zero block. -/
theorem poisonedHeader_slice :
    poisonedHeader.codedIn (jobOf storeRun.obj).sid
        ((poisonedHeader.runStream storeRun (jobOf storeRun.obj).sid).chunks +
          (poisonedHeader.runStream storeRun (jobOf storeRun.obj).sid).ovf) = some zeroSlice ∧
      codedBlks storeRun zeroSlice = [[Blk.absent]] := by decide +kernel

/-- The destination is the sparse segment from its first byte on, unfrozen, and its first granule decodes as poisoned. -/
theorem poisonedHeader_segment :
    poisonedHeader.sparseAt (jobOf storeRun.obj).dst = some ⟨spHbm, poisonedSegBase, 2 ^ 21⟩ ∧
      poisonedHeader.vaLoc (jobOf storeRun.obj).dst = poisonedSegBase ∧ (jobOf storeRun.obj).dst = 0 ∧
      poisonedHeader.vaFrozen 0 = false ∧ poisonedHeader.decoded spHbm (poisonedSegBase / 64) = .poisoned := by decide +kernel

/-- The slice completes; the writes of STATE and of the header are counted in MERGE_UE, the granule stays as it was, and PG_ERR
bit 3 stays clear. -/
theorem poisonedHeader_after :
    (poisonedHeader.codecStore 7 storeRun).rd pgIntegrity Itg.MERGE_UE 0 = 2 ∧
      (poisonedHeader.codecStore 7 storeRun).peek spHbm poisonedSegBase 20 = List.replicate 20 0 ∧
      ¬ errSet (poisonedHeader.codecStore 7 storeRun) (pgCodec 7) 3 := by
  unfold errSet
  decide +kernel

theorem poisonedHeader_exec : exec (.codecStore 7 0) poisonedHeader = .next (poisonedHeader.codecStore 7 storeRun) := by
  obtain ⟨hopen, hjob⟩ := poisonedHeader_open
  have hrun : poisonedHeader.jobRun 7 0 2 = some storeRun := by
    unfold State.jobRun
    rw [hopen]
    exact if_pos hjob
  change execCodecStore 7 0 poisonedHeader = _
  unfold execCodecStore
  rw [hrun]

/-- A segment's header begins with the first byte of MAGIC (Table 08.2). -/
theorem storeHead_head? (j : Job) (ptr : Nat) : (storeHead j ptr).head? = some 0x53 := rfl

/-- Refutes O29: a STORE whose run stays within its sparse segment leaves no header there, and no PG_ERR bit 3, where the segment's
first granule is poisoned; R331 discards a plan unit's narrow write into such a granule, and the statement does not
exclude it. -/
theorem not_codecSlicesComplete : ¬ Obligations.CodecSlicesComplete := by
  intro h
  obtain ⟨hopen, hjob⟩ := poisonedHeader_open
  obtain ⟨hsparse, hloc, hdst, hfrozen, -⟩ := poisonedHeader_segment
  obtain ⟨-, hbytes, hfull⟩ := poisonedHeader_after
  have hstart : poisonedHeader.vaLoc 0 = poisonedSegBase := hdst ▸ hloc
  have hva : (jobOf storeRun.obj).dst - (poisonedHeader.vaLoc (jobOf storeRun.obj).dst - poisonedSegBase) = 0 := by
    rw [hdst, Nat.zero_sub]
  obtain ⟨-, -, hstore, -⟩ := h 7 0 storeRun (jobOf storeRun.obj) poisonedHeader hopen rfl
  obtain ⟨t, ht, -, -, -, hlast⟩ := hstore zeroSlice hjob poisonedHeader_slice.1
  obtain rfl : poisonedHeader.codecStore 7 storeRun = t := by
    rw [poisonedHeader_exec] at ht
    injection ht
  rcases hlast _ poisonedSegBase rfl hsparse (by decide +kernel) (by rw [hva]; exact hfrozen) (by decide) (by rw [hva, hstart])
    (by decide) with ⟨p, hhead⟩ | herr
  · have hfirst := congrArg List.head? (hbytes.symm.trans hhead)
    rw [storeHead_head?] at hfirst
    exact absurd hfirst (by decide)
  · exact hfull herr

end Sys2Proof.Machine
end

section
/-! SUPPORT. A SCATTER of a row with scale bytes into a destination without a scale array (R234, R241). R241 asks that A and D have
equal formats, which a translator checks (R255) and an instruction does not: it stores the scale bytes at D's SCALE_OFF, which is 0
where D is not MX, over D's first row. -/

namespace Sys2Proof.Machine

open Sys2Proof

/-- An instruction of a running body that nothing holds back may be performed. -/
theorem State.insnNow_of {s : State} {g i op : Nat} {m : List Byte} (hbody : (s.tile g).body = some m)
    (hready : ((s.tile g).running && s.planTick.runs && s.rdb (pgTile g) Hdr.EN && i < modNinsn m && (insnAt m i).op = op &&
      (s.tile g).issued m i (insnAt m i) && s.streamsIn m (insnAt m i) && s.unitFree (s.tile g) m i (insnAt m i)) = true) :
    s.insnNow g i op = some { g := g, m := m, i := i, x := insnAt m i } := by
  unfold State.insnNow
  simp only [hbody]
  exact if_pos hready

/-- A body of one SCATTER without reduction: D is a row of 32 E4M3 elements at 0, A one of 32 MX E4M3 elements at 0x100 with its scale
byte 32 bytes behind, C one INT32 index at 0x200. -/
def scaledScatter : List Byte :=
  padTo 0x40 (leBytes 20 0 ++ leBytes 4 1 ++ leBytes 2 3 ++ leBytes 2 0 ++ leBytes 4 0xA0 ++ leBytes 4 0x40) ++
    (leBytes 1 0 ++ leBytes 3 fE4M3 ++ leBytes 4 1 ++ leBytes 4 32 ++ leBytes 4 32 ++ leBytes 16 0) ++
    (leBytes 1 0 ++ leBytes 3 (fE4M3 + 16) ++ leBytes 4 1 ++ leBytes 4 32 ++ leBytes 4 32 ++ leBytes 8 0x100 ++ leBytes 8 32) ++
    (leBytes 1 0 ++ leBytes 3 fINT32 ++ leBytes 4 1 ++ leBytes 4 1 ++ leBytes 4 16 ++ leBytes 16 0x200) ++
    (leBytes 1 4 ++ leBytes 1 0 ++ leBytes 1 0 ++ leBytes 1 1 ++ leBytes 1 0xFF ++ leBytes 3 2 ++ leBytes 8 0)

/-- Its instruction in tile 0. -/
def scaledCtx : ICtx := { g := 0, m := scaledScatter, i := 0, x := insnAt scaledScatter 0 }

/-- A plan is in force and tile 0, enabled, runs the body. Of its store only the scale byte of A, that of a scale of 1, is not 0. -/
def scaledState : State :=
  { State.reset with
    regs := [(rkey (pgKeep 0) Pln.A_STATE 0, 3), (rkey (pgTile 0) Hdr.EN 0, 1)]
    tiles := [(0, { Tile.idle with body := some scaledScatter })]
    mem := [(cellAddr spTile 0x120, 0x7F)] }

/-- The state once the instruction is performed and complete. -/
def scaledDone : State :=
  ((((scaledState.raceOpen scaledCtx).insnData scaledCtx).raceOpen scaledCtx).spotCapture scaledCtx).insnDone 0 0

theorem scaledState_insnNow : scaledState.insnNow 0 0 4 = some scaledCtx :=
  State.insnNow_of (m := scaledScatter) rfl (by decide)

/-- It stores without reduction and shares no byte with another queue. -/
theorem scaledCtx_plain : raceSpans scaledCtx.m (scaledCtx.i, scaledCtx.x) = [] ∧ scaledCtx.x.imm0 % 4 = 0 := by decide

/-- D is one dense row of 32 bytes at 0 of the tile store; A has one row, and is MX. -/
theorem scaledCtx_operands :
    scaledCtx.dd.hbm = false ∧ scaledCtx.dd.mx = false ∧ scaledCtx.dd.ld = scaledCtx.dd.rowBytes ∧ scaledCtx.dd.rowBytes = 32 ∧
      scaledCtx.dd.rows = 1 ∧ scaledCtx.dd.addr = 0 ∧ scaledCtx.da.rows = 1 ∧ scaledCtx.da.mx = true := by decide

/-- The index names row 0, and the row of A is 32 clean zero elements. -/
theorem scaledState_row :
    scaledState.indexAt scaledCtx 0 = (0, false) ∧
      (scaledState.rowBits scaledCtx.g scaledCtx.da 0 0).bytes scaledCtx.dd = List.replicate 32 0 ∧
      ∀ e ∈ (scaledState.rowBits scaledCtx.g scaledCtx.da 0 0).els, e.2 = false := by decide

/-- The scale byte of A stands in the first byte of D's row. The rows are sorted by a well-founded recursion, which only
`with_unfolding_all` unfolds. -/
theorem scaledDone_row : scaledDone.peek spTile 0 32 = 0x7F :: List.replicate 31 0 := by with_unfolding_all decide

/-- Refutes O44: a SCATTER does not leave the bits of A's row in D where A has scale bytes and D no place for them; the statement
asks that D is not MX, and not, as R241 does, that A has D's format. -/
theorem not_tileInstructionsComplete : ¬ Obligations.TileInstructionsComplete := by
  intro h
  obtain ⟨hrace, hstore⟩ := scaledCtx_plain
  obtain ⟨hhbm, hmx, hld, hbytes, hrows, haddr, harows, -⟩ := scaledCtx_operands
  obtain ⟨hindex, hrow, hclean⟩ := scaledState_row
  have hsource : ∀ j, j < scaledCtx.da.rows → (scaledState.indexAt scaledCtx j).2 = false ∧
      ((scaledState.rowBits scaledCtx.g scaledCtx.da 0 j).bytes scaledCtx.dd).length = scaledCtx.dd.rowBytes ∧
      ∀ e ∈ (scaledState.rowBits scaledCtx.g scaledCtx.da 0 j).els, e.2 = false := by
    intro j hj
    obtain rfl : j = 0 := by omega
    rw [hindex, hrow, hbytes, List.length_replicate]
    exact ⟨rfl, rfl, hclean⟩
  have hnamed : inTable scaledCtx.dd.rows (scaledState.indexAt scaledCtx 0).1 = some 0 := by
    rw [hindex, hrows]
    rfl
  obtain ⟨t, -, ht, -, hscatter, -⟩ := (h 4 0 0 scaledState (by decide)).2 scaledCtx scaledState_insnNow
  obtain rfl : t = scaledDone := ht
  have hleft := hscatter 0 0 0 (List.replicate 32 0) rfl hrace hstore hhbm hmx hld rfl (by decide) hsource (by rw [haddr]; decide)
    (by rw [hrows, hbytes]; decide) (by omega) hnamed (fun j hpos hj => by omega) hrow.symm
  rw [List.length_replicate, Nat.zero_mul, Nat.add_zero, scaledDone_row] at hleft
  exact absurd hleft (by decide)

end Sys2Proof.Machine
end

section
/-! SUPPORT. An ATTN_PARTIAL whose D has more rows than its Q. R266 computes one partial row for each row of Q, and Table 10.1 gives D
as many rows; a plan's check of a CALL compares them (SHAPE, R273); the routine does not, and leaves D's further rows as they
are. -/

namespace Sys2Proof.Machine

open Sys2Proof

/-- Descriptor of a dense FP32 operand in the tile store, with rows 16 bytes apart. -/
def fp32Operand (rows cols addr : Nat) : List Byte :=
  leBytes 1 0 ++ leBytes 3 fFP32 ++ leBytes 4 rows ++ leBytes 4 cols ++ leBytes 4 16 ++ leBytes 16 addr

/-- A body of one ATTN_PARTIAL over one row of Q, one of K and one of V with Dv 2: D is two rows of four elements at 0, and the
argument block lies at 0x400. -/
def surplusRowBody : List Byte :=
  padTo 0x40 (leBytes 20 0 ++ leBytes 4 1 ++ leBytes 2 4 ++ leBytes 2 0 ++ leBytes 4 0xC0 ++ leBytes 4 0x40) ++
    fp32Operand 2 4 0 ++ fp32Operand 1 1 0x100 ++ fp32Operand 1 1 0x200 ++ fp32Operand 1 2 0x300 ++
    (leBytes 1 0x30 ++ leBytes 1 0 ++ leBytes 1 0 ++ leBytes 1 1 ++ leBytes 1 2 ++ leBytes 3 3 ++ leBytes 4 4 ++ leBytes 4 0x400)

/-- Its CALL in tile 0. -/
def surplusRowCtx : ICtx := { g := 0, m := surplusRowBody, i := 0, x := insnAt surplusRowBody 0 }

/-- A plan is in force and tile 0, enabled, runs the body. Of its store only the argument block is not 0: under a causal mask the key
row is token 2, later than the tokens 0 and 1 of two query rows, so no key is live for them. -/
def surplusRowState : State :=
  { State.reset with
    regs := [(rkey (pgKeep 0) Pln.A_STATE 0, 3), (rkey (pgTile 0) Hdr.EN 0, 1)]
    tiles := [(0, { Tile.idle with body := some surplusRowBody })]
    mem := [(cellAddr spTile 0x408, 2), (cellAddr spTile 0x40C, 1)] }

/-- The state once the CALL is performed and complete. -/
def surplusRowDone : State := (surplusRowState.libAttnPartial surplusRowCtx).insnDone 0 0

/-- An empty partial row: −∞ and zeros. -/
def emptyPartial : List Byte := [0, 0, 0x80, 0xFF] ++ List.replicate 12 0

/-- Refutes O46: ATTN_PARTIAL leaves no partial row in a row of D that has no row of Q. The statement computes one for every row of D,
and asks nowhere that Q and D have as many rows, as R273's check of shapes does before a plan runs. -/
theorem not_libraryRoutinesComplete : ¬ Obligations.LibraryRoutinesComplete := by
  intro h
  have hnow : surplusRowState.insnNow 0 0 0x30 = some surplusRowCtx := State.insnNow_of (m := surplusRowBody) rfl (by decide)
  obtain ⟨-, hrun⟩ := (h 4 0 0 surplusRowState (by decide) (by decide)).2 surplusRowCtx hnow
  obtain ⟨t, -, ht, -, -, hresult⟩ := hrun (by decide)
  obtain rfl : t = surplusRowDone := ht
  have hclean : ∀ d ∈ [surplusRowCtx.da, surplusRowCtx.db, surplusRowCtx.dc], ∀ i, i < d.rows →
      rowBad (surplusRowState.trow surplusRowCtx.g d i) = false := by decide
  -- The statement's results: an empty partial row for each of D's two rows.
  have hclaimed : rowsBytes surplusRowCtx.dd (surplusRowState.routineRows 4 surplusRowCtx) = emptyPartial ++ emptyPartial := by
    decide
  -- The routine's: D's first row, that of Q's only row; the second stays 0.
  have hwritten : surplusRowDone.peek spTile 0 32 = emptyPartial ++ List.replicate 16 0 := by decide
  obtain ⟨hleft, -⟩ := hresult 0 (emptyPartial ++ emptyPartial) (fun h2 => absurd h2 (by decide)) (fun _ => hclean)
    (by decide) (by decide) (by decide) (by decide) (by decide) rfl (by decide) (by decide) hclaimed.symm (by decide)
  exact absurd (hwritten.symm.trans hleft) (by decide)

end Sys2Proof.Machine
end

section
/-! SUPPORT. A FOLD whose two partials lie in one granule that does not decode (R285, R324, R327): the read of the first partial rewrites
the granule as poisoned, and the second partial is read from what that left. -/

namespace Sys2Proof.Machine

open Sys2Proof

/-- Local offset of the partials, the base of segment 1; both lie in its first granule. -/
def lostPartials : Nat := 0x10201 * 2 ^ 21

/-- A FOLD of two partials at virtual address 0, in the first of two slices. -/
def foldObj : List Byte :=
  leBytes 1 3 ++ leBytes 1 2 ++ leBytes 2 0 ++ leBytes 4 4 ++ leBytes 26 0 ++ leBytes 1 2 ++ leBytes 29 0

/-- Its run in slot 0 of update engine 0, at its first slice. -/
def foldRun : Run :=
  { kind := 3, unit := 0, slot := 0, bank := 0, off := 0, step := 0, obj := foldObj, k := 0, done := false, stop := false,
    held := [], taken := [], stepNo := 0, tag := none, lr := 0, clip := 0, acc := 0, bad := false, terms := [], frz := [],
    classes := [], torn := [] }

/-- The encoding of +∞ in SPW96. -/
def spwInfinity : Nat := 0x7FFF * 2 ^ 80

/-- A plan is in force and the run in its slot. The partials +0 and +∞ were stored; three symbols of their granule have since been
lost. -/
def lostState : State :=
  { State.reset with
    regs := [(rkey (pgKeep 0) Pln.A_STATE 0, 3)]
    runs := [foldRun]
    fst := [(1, [0x5419, 0, 0, 0x10201, 0, 0, 0, 0])]
    mem := [(lostPartials + 26, 0xFF), (lostPartials + 27, 0x7F)]
    arrays := { State.reset.arrays with symErr := [((spHbm, lostPartials / 64), [(0, 1), (1, 1), (2, 1)])] } }

/-- The run's context. -/
def foldCtx : UCtx := lostState.ueCtx 0 foldRun

/-- The state after the slice. -/
def lostDone : State := lostState.ueFold foldCtx

theorem lost_open : lostState.openRun 3 0 0 = some foldRun ∧ leAt foldRun.obj 0 1 = 3 := by decide

/-- The granule of both partials is UNCORRECTABLE; the statement sums them as they were stored. -/
theorem lost_claimed : lostState.decoded spHbm (lostPartials / 64) = .uncorrectable ∧ lostState.foldSum foldCtx = spwInfinity := by
  decide

/-- The engine counts the granule in DMA_UE and adds the zeros that the poisoned granule holds to the first partial. -/
theorem lost_after : lostDone.rd (pgUe 0) Ue.DMA_UE 0 = 1 ∧ lostDone.runs.map Run.acc = [0] := by decide

theorem lost_exec : exec (.ueFold 0 0) lostState = .next lostDone := by
  obtain ⟨hopen, hpass⟩ := lost_open
  have hrun : lostState.passRun 0 0 3 = some foldCtx := by
    unfold State.passRun
    rw [hopen]
    exact if_pos hpass
  change Host.Outcome.next (lostState.passStep 0 0 3 State.ueFold) = _
  unfold State.passStep
  rw [hrun]
  rfl

/-- Refutes O31: where a granule does not decode, the second of its partials is read from the poisoned granule that the first read
left, so a FOLD's run does not hold the sum of the partials as stored. The statement asks that the state is plain for the cell
that the last slice writes, and not for the sum. -/
theorem not_updatePassesComplete : ¬ Obligations.UpdatePassesComplete := by
  intro h
  obtain ⟨hopen, hpass⟩ := lost_open
  obtain ⟨-, hclaimed⟩ := lost_claimed
  obtain ⟨-, hacc⟩ := lost_after
  obtain ⟨-, -, hfold, -⟩ := h 0 0 foldRun foldCtx lostState hopen rfl
  obtain ⟨t, q, ht, -, hq, -, hsum, -⟩ := hfold hpass
  obtain rfl : lostDone = t := by
    rw [lost_exec] at ht
    injection ht
  have hheld : q.acc ∈ lostDone.runs.map Run.acc := List.mem_map_of_mem hq
  rw [hacc, hsum, hclaimed] at hheld
  exact absurd hheld (by decide)

end Sys2Proof.Machine
end

section
/-! SUPPORT. The frame table (R308) and the clip count (R170): FST_READ, FST_COMMIT and CLIP_CLR. -/

namespace Sys2Proof.Machine

open Sys2Proof

/-! ## FST_READ -/

/-- Keep 0's FST_DATA with the words of `l` taken from an entry. -/
def State.fstShown (s : State) (e : List Nat) (l : List Nat) : State :=
  l.foldl (fun t w => t.put (pgKeep 0) Fst.FST_DATA w (fw e w)) s

theorem State.fstShown_beyond (s : State) (e l : List Nat) : sameBeyondRegs s (s.fstShown e l) :=
  sameBeyondRegs_foldl (fun _ _ => State.put_beyond ..) l s

/-- A word not shown, and any other field, reads as before. -/
theorem State.rd_fstShown_other (e : List Nat) {p : PageId} {r : Reg} {i : Nat} : ∀ (l : List Nat) (s : State),
    (∀ w ∈ l, rkey p r i ≠ rkey (pgKeep 0) Fst.FST_DATA w) → (s.fstShown e l).rd p r i = s.rd p r i
  | [], _, _ => rfl
  | w :: l, s, h => by
    obtain ⟨hw, hl⟩ := List.forall_mem_cons.1 h
    exact (State.rd_fstShown_other e l _ hl).trans (State.rd_put_block s _ hw (by decide) (by simp [pgKeep]))

theorem fstData_key_inj {v w : Nat} : rkey (pgKeep 0) Fst.FST_DATA v = rkey (pgKeep 0) Fst.FST_DATA w ↔ v = w := by
  simp [rkey, Fst.FST_DATA]

/-- A word shown reads as the entry's. -/
theorem State.rd_fstShown (s : State) (e : List Nat) {l : List Nat} {w : Nat} (h : w ∈ l) :
    (s.fstShown e l).rd (pgKeep 0) Fst.FST_DATA w = fw e w % 2 ^ 32 := by
  induction l generalizing s with
  | nil => exact absurd h List.not_mem_nil
  | cons v l ih =>
    by_cases hl : w ∈ l
    · exact ih _ hl
    · obtain rfl : w = v := (List.mem_cons.1 h).resolve_right hl
      have hput : (s.put (pgKeep 0) Fst.FST_DATA w (fw e w)).rd (pgKeep 0) Fst.FST_DATA w = fw e w % 2 ^ 32 :=
        State.rd_put_self s _ _ _ _ rfl
      refine (State.rd_fstShown_other e l _ fun v hv k => hl ?_).trans hput
      exact fstData_key_inj.1 k ▸ hv

/-! ## CLIP_CLR -/

/-- A hidden copy deleted leaves every other field as it reads. -/
theorem State.rd_unhidden (s : State) (k : RegKey) {p : PageId} {r : Reg} {i : Nat} (h : rkey p r i ≠ k) :
    State.rd { s with hidden := AL.del s.hidden k } p r i = s.rd p r i := by
  unfold State.rd
  rw [AL.get_del_ne h]
  rfl

/-- Without a hidden copy a field reads as it is in force. -/
theorem State.rd_unhidden_self (s : State) (p : PageId) (r : Reg) (i : Nat) :
    State.rd { s with hidden := AL.del s.hidden (rkey p r i) } p r i = s.raw p r i := by
  unfold State.rd
  rw [AL.get_del_self]
  rfl

theorem auPage_ty (u : AUnit) : (auPage u).ty ≠ 0x51 := by
  cases u <;> simp [auPage, pgTile, pgCe, pgUe]

/-- The count reads 0, in force and behind a freeze. -/
theorem State.rd_clipClr (s : State) (u : AUnit) : (s.clipClr u).rd (auPage u) Ari.ARITH_CLIP_CNT 0 = 0 :=
  (State.rd_unhidden_self ..).trans (State.raw_put_self ..)

theorem State.clipClr_onlyRegs (s : State) (u : AUnit) : onlyRegs [rkey (auPage u) Ari.ARITH_CLIP_CNT 0] s (s.clipClr u) := by
  refine ⟨rfl, fun p r i h => ?_⟩
  have hne : rkey p r i ≠ rkey (auPage u) Ari.ARITH_CLIP_CNT 0 := by simpa using h
  exact (State.rd_unhidden _ _ hne).trans (State.rd_put_block s 0 hne (by decide) (auPage_ty u))

/-- Settles O26: the eight words are put one by one, and a clip count is cleared on a page that exists. -/
theorem entryReadAndClipClear : Obligations.EntryReadAndClipClear := by
  refine ⟨fun s => ⟨s.fstShown (s.fstEntry (s.rd (pgKeep 0) Fst.FST_INDEX 0)) (List.range 8), rfl, fun w hw => ?_,
    State.fstShown_beyond s _ _, fun p r i h => ?_⟩, fun u s hu => ?_⟩
  · exact State.rd_fstShown s _ (List.mem_range.2 hw)
  · refine State.rd_fstShown_other _ _ s fun w hw e => h ?_
    exact List.mem_map.2 ⟨w, hw, e.symm⟩
  · refine ⟨s.clipClr u, ?_, State.rd_clipClr s u, State.clipClr_onlyRegs s u⟩
    change Host.Outcome.next (if pageValid (auPage u) then s.clipClr u else s) = _
    rw [if_pos hu]

/-! ## FST_COMMIT -/

/-- A commit with no refusal replaces the one entry (R308). -/
theorem State.fstCommit_accepted {s : State}
    (h : s.fstRefusal (s.rd (pgKeep 0) Fst.FST_INDEX 0) (s.fstData (s.rd (pgKeep 0) Fst.FST_INDEX 0)) = none) :
    s.fstCommit = { s with
      fst := AL.put s.fst (s.rd (pgKeep 0) Fst.FST_INDEX 0) (s.fstData (s.rd (pgKeep 0) Fst.FST_INDEX 0)) } := by
  unfold State.fstCommit
  dsimp only
  rw [h]

section
variable {s : State} {code : Nat}
  (h : s.fstRefusal (s.rd (pgKeep 0) Fst.FST_INDEX 0) (s.fstData (s.rd (pgKeep 0) Fst.FST_INDEX 0)) = some code)
include h

/-- A refused commit behind a recorded refusal leaves the record (R308). -/
theorem State.fstCommit_refused_again (hv : s.rdb (pgKeep 0) Fst.FST_ERR_V 0 = true) :
    s.fstCommit = s.again (pgKeep 0) Fst.FST_ERR_V := by
  unfold State.fstCommit
  dsimp only
  rw [h]
  exact if_pos hv

/-- The first refused commit is recorded with its code and index (R308). -/
theorem State.fstCommit_refused_first (hv : s.rdb (pgKeep 0) Fst.FST_ERR_V 0 = false) :
    s.fstCommit = ((s.wr (pgKeep 0) Fst.FST_ERR_V 1).wr (pgKeep 0) Fst.FST_ERR code).wr (pgKeep 0) Fst.FST_ERR_IDX
      (s.rd (pgKeep 0) Fst.FST_INDEX 0) := by
  unfold State.fstCommit
  dsimp only
  rw [h]
  exact if_neg (by simp [hv])

end

/-- Without a mirrored entry accepted, a write of FST_COMMIT is the commit alone (R348). -/
theorem State.commitEntry_plain {s : State}
    (h : s.fstRefusal (s.rd (pgKeep 0) Fst.FST_INDEX 0) (s.fstData (s.rd (pgKeep 0) Fst.FST_INDEX 0)) = none →
      fstMirrored (s.fstData (s.rd (pgKeep 0) Fst.FST_INDEX 0)) = false) : s.commitEntry = s.fstCommit := by
  refine if_neg fun hc => ?_
  rw [Bool.and_eq_true, Option.isNone_iff_eq_none] at hc
  exact absurd (h hc.1) (by simp [hc.2])

/-- A bit that is set already stays as it is, and so does all else that reads. -/
theorem State.again_onlyRegs (s : State) (p : PageId) (r : Reg) : onlyRegs [] s (s.again p r) :=
  ⟨rfl, fun q x i _ => State.noteRise_rd s _ _ q x i⟩

/-- Settles O27: a commit by its refusal, and a refused one by whether a refusal is recorded already. -/
theorem frameTableCommit : Obligations.FrameTableCommit := by
  intro s
  refine ⟨s.commitEntry, rfl, fun hr hm => ?_, fun code hr => ?_⟩
  · rw [State.commitEntry_plain fun _ => hm, State.fstCommit_accepted hr]
    refine ⟨rfl, fun i => ?_⟩
    unfold State.fstEntry
    split
    · subst i
      exact AL.getD_put_self ..
    · rename_i hi
      unfold AL.getD
      rw [AL.get_put_ne _ _ hi]
  · have hk : (pgKeep 0).ty ≠ 0x51 := by decide
    rw [State.commitEntry_plain (by simp [hr])]
    cases hv : s.rdb (pgKeep 0) Fst.FST_ERR_V 0 with
    | true =>
      rw [State.fstCommit_refused_again hr hv]
      exact ⟨rfl, fun _ => State.again_onlyRegs .., nofun⟩
    | false =>
      rw [State.fstCommit_refused_first hr hv]
      refine ⟨?_, nofun, fun _ => ⟨?_, ?_, State.rd_wr_own _ _ (by decide) hk⟩⟩
      · exact sameBeyondRegs_trans (sameBeyondRegs_trans (State.wr_beyond ..) (State.wr_beyond ..)) (State.wr_beyond ..)
      · rw [State.rd_wr_same _ _ (.inr (by decide)) (by decide) (by decide) hk,
          State.rd_wr_same _ _ (.inr (by decide)) (by decide) (by decide) hk, State.rd_wr_own _ _ (by decide) hk]
        rfl
      · rw [State.rd_wr_same _ _ (.inr (by decide)) (by decide) (by decide) hk, State.rd_wr_own _ _ (by decide) hk]
        rfl

end Sys2Proof.Machine
end

section
/-! SUPPORT. Refresh rounds (R302), the system region (R300) and the overflow regions (R126). -/

namespace Sys2Proof.Machine

open Sys2Proof

/-! ## Refresh rounds -/

/-- A round that is due: its end noted and the round counted (R302). -/
def State.roundCounted (s : State) (st : Nat) : State :=
  State.bump { s with roundEnd := AL.put s.roundEnd st (s.clock + 320) } (pgHbm st) Hbm.ROUNDS

theorem exec_refreshRound_due {st : Nat} {s : State} (h : st < 16) (hd : s.roundDue st = true) :
    exec (.refreshRound st) s = .next (s.roundCounted st) :=
  congrArg Host.Outcome.next (if_pos (by simp [h, hd]))

theorem exec_refreshRound_early {st : Nat} {s : State} (hd : s.roundDue st = false) : exec (.refreshRound st) s = .next s :=
  congrArg Host.Outcome.next (if_neg (by simp [hd]))

theorem State.lastRound_roundCounted (s : State) (st j : Nat) :
    (s.roundCounted st).lastRound j = if j = st then s.clock + 320 else s.lastRound j := by
  unfold State.lastRound State.roundCounted
  rw [State.bump_roundEnd]
  split
  · subst j
    exact AL.getD_put_self ..
  · rename_i hj
    unfold AL.getD
    rw [AL.get_put_ne _ _ hj]

/-! ## The system region -/

section
variable {st v : Nat} {s : State}

theorem State.sysGib_locked (h : s.raw (pgHbm st) Hdr.LOCK 0 = 1) : s.sysGib st v = s := if_pos h

theorem State.sysGib_refused (hl : s.raw (pgHbm st) Hdr.LOCK 0 ≠ 1)
    (h : s.banksEmpty = false ∨ s.sysMeetsOverflow st (v % 16) = true) : s.sysGib st v = s.err (pgHbm st) 5 := by
  unfold State.sysGib
  rw [if_neg hl, if_pos (by simpa [bits] using h)]

theorem State.sysGib_set (hl : s.raw (pgHbm st) Hdr.LOCK 0 ≠ 1) (hb : s.banksEmpty = true)
    (ho : s.sysMeetsOverflow st (v % 16) = false) : s.sysGib st v = s.put (pgHbm st) Hbm.SYS_GIB 0 (v % 16) := by
  unfold State.sysGib
  rw [if_neg hl, if_neg (by simpa [bits] using ⟨hb, ho⟩)]
  simp [bits]

end

/-- A block field put is the only field that changes. -/
theorem State.put_onlyRegs (s : State) {p : PageId} {r : Reg} (v : Nat) (hr : 0x100 ≤ r.off) (ht : p.ty ≠ 0x51) :
    onlyRegs [rkey p r 0] s (s.put p r 0 v) :=
  ⟨State.put_beyond .., fun _ _ _ h => State.rd_put_block s v (by simpa using h) hr ht⟩

/-- An error event leaves the block fields of an HBM interface as they read. -/
theorem State.rd_err_hbm (s : State) (q : PageId) (c : Nat) {st : Nat} {x : Reg} {j : Nat} (hx : 0x100 ≤ x.off) :
    (s.err q c).rd (pgHbm st) x j = s.rd (pgHbm st) x j :=
  State.rd_err_block s q c hx (by simp [rkey, pgHbm, pgHost]) (by simp [rkey, pgHbm, pgKeep])

/-! ## The overflow regions -/

/-- A Keep with a new overflow region, before it is judged. -/
def State.ovfSet (s : State) (k v : Nat) : State :=
  (s.put (pgKeep k) Opn.OVF_BASE 0 (bits v 0 10)).put (pgKeep k) Opn.OVF_SIZE 0 (bits v 16 7)

/-- The Keeps that report a new overflow region: its own where it is bad, and those whose region it meets (R126). -/
def State.ovfReporters (s : State) (k : Nat) : List Nat :=
  (List.range 4).filter fun j => if j = k then s.ovfBad k else s.ovfMeets j k

/-- The errors of an overflow region reported. -/
def State.ovfReport (s : State) (l : List Nat) : State := l.foldl (fun t j => t.err (pgKeep j) 16) s

theorem State.ovfWrite_spilled {s : State} {k : Nat} (v : Nat) (h : s.spilledQ k ≠ 0) : s.ovfWrite k v = s.err (pgKeep k) 16 :=
  if_pos h

theorem State.ovfWrite_set {s : State} {k : Nat} (v : Nat) (h : s.spilledQ k = 0) :
    s.ovfWrite k v = (s.ovfSet k v).ovfReport ((s.ovfSet k v).ovfReporters k) := if_neg (by simp [h])

theorem State.ovfReport_beyond : ∀ (l : List Nat) (s : State), sameBeyondReports s (s.ovfReport l)
  | [], _ => rfl
  | j :: l, s => sameBeyondReports_trans (State.err_beyond s (pgKeep j) 16) (State.ovfReport_beyond l _)

/-- The reports leave what the check of a region reads: the block fields of the Keeps and of the HBM interfaces. -/
theorem State.rd_ovfReport {p : PageId} {x : Reg} {i : Nat} (h : ∀ (t : State) (q : PageId), (t.err q 16).rd p x i = t.rd p x i) :
    ∀ (l : List Nat) (s : State), (s.ovfReport l).rd p x i = s.rd p x i
  | [], _ => rfl
  | j :: l, s => (State.rd_ovfReport h l _).trans (h s (pgKeep j))

theorem State.rd_ovfReport_keep (s : State) (l : List Nat) (k : Nat) {x : Reg} (hx : 0x100 ≤ x.off)
    (h : x.off + x.stride * 0 ≠ 0x3C8) : (s.ovfReport l).rd (pgKeep k) x 0 = s.rd (pgKeep k) x 0 :=
  State.rd_ovfReport (fun t q => State.rd_err_keep t q 16 hx h) l s

/-- A region is judged by its registers, those of the other Keeps and SYS_GIB. -/
theorem State.ovfBad_of {s t : State} (k : Nat) (hb : ∀ j, t.rd (pgKeep j) Opn.OVF_BASE 0 = s.rd (pgKeep j) Opn.OVF_BASE 0)
    (hn : ∀ j, t.rd (pgKeep j) Opn.OVF_SIZE 0 = s.rd (pgKeep j) Opn.OVF_SIZE 0)
    (hg : ∀ st, t.rd (pgHbm st) Hbm.SYS_GIB 0 = s.rd (pgHbm st) Hbm.SYS_GIB 0) : t.ovfBad k = s.ovfBad k := by
  unfold State.ovfBad State.meetsSystem
  simp only [hb, hn, hg]

theorem State.ovfReport_ovfBad (s : State) (l : List Nat) (k : Nat) : (s.ovfReport l).ovfBad k = s.ovfBad k :=
  State.ovfBad_of k (fun j => State.rd_ovfReport_keep s l j (by decide) (by decide))
    (fun j => State.rd_ovfReport_keep s l j (by decide) (by decide))
    fun _ => State.rd_ovfReport (fun t q => State.rd_err_hbm t q 16 (by decide)) l s

theorem State.rd_ovfSet (s : State) (k v : Nat) : (s.ovfSet k v).rd (pgKeep k) Opn.OVF_BASE 0 = v % 2 ^ 10 ∧
    (s.ovfSet k v).rd (pgKeep k) Opn.OVF_SIZE 0 = v / 2 ^ 16 % 2 ^ 7 := by
  unfold State.ovfSet
  constructor
  · rw [State.rd_put_same _ _ (.inr (by decide)) (by decide) (by simp [pgKeep]), State.rd_put_self _ _ _ _ _ rfl]
    simp [bits, Opn.OVF_BASE]
  · rw [State.rd_put_self _ _ _ _ _ rfl]
    simp [bits, Opn.OVF_SIZE]

/-- A region set: its registers, and OVF_CFG where it is bad (R126). -/
theorem State.ovfWrite_set_effect {s : State} {k : Nat} (v : Nat) (hk : k < 4) (h : s.spilledQ k = 0) :
    (s.ovfWrite k v).rd (pgKeep k) Opn.OVF_BASE 0 = v % 2 ^ 10 ∧
      (s.ovfWrite k v).rd (pgKeep k) Opn.OVF_SIZE 0 = v / 2 ^ 16 % 2 ^ 7 ∧
      ((s.ovfWrite k v).ovfBad k = true → errSet (s.ovfWrite k v) (pgKeep k) 16) := by
  obtain ⟨hbase, hsize⟩ := State.rd_ovfSet s k v
  rw [State.ovfWrite_set v h]
  refine ⟨(State.rd_ovfReport_keep _ _ k (by decide) (by decide)).trans hbase,
    (State.rd_ovfReport_keep _ _ k (by decide) (by decide)).trans hsize, fun hbad => ?_⟩
  rw [State.ovfReport_ovfBad] at hbad
  refine errSet_foldl_err pgKeep 16 (by decide) _ _ (.inl ⟨k, ?_, rfl⟩)
  exact List.mem_filter.2 ⟨List.mem_range.2 hk, by simp [hbad]⟩

theorem State.ovfWrite_beyond (s : State) (k v : Nat) : sameBeyondReports s (s.ovfWrite k v) := by
  by_cases h : s.spilledQ k = 0
  · rw [State.ovfWrite_set v h]
    exact sameBeyondReports_trans (sameBeyondRegs_trans (State.put_beyond ..) (State.put_beyond ..)).reports
      (State.ovfReport_beyond ..)
  · rw [State.ovfWrite_spilled v h]
    exact State.err_beyond ..

/-! ## The statement -/

/-- Settles O34: a round by whether it is due, SYS_GIB by the lock, the banks and the regions, an overflow region by whether a
queue is spilled. -/
theorem refreshAndRegionsAreKept : Obligations.RefreshAndRegionsAreKept := by
  refine ⟨fun st s hst => ?_, fun st v s hst => ⟨s.sysGib st v, congrArg Host.Outcome.next (if_pos hst), fun hl => ?_,
    fun hl hb ho => ?_, fun hl h => ?_⟩, fun k v s hk => ⟨s.ovfWrite k v, congrArg Host.Outcome.next (if_pos hk),
    State.ovfWrite_beyond s k v, fun h => ?_, fun h => State.ovfWrite_set_effect v hk h⟩⟩
  · cases hd : s.roundDue st with
    | false => exact ⟨s, exec_refreshRound_early hd, nofun, fun _ => rfl⟩
    | true =>
      refine ⟨_, exec_refreshRound_due hst hd, fun _ => ⟨?_, fun j hj => ?_, ?_, State.bump_mem ..⟩, nofun⟩
      · rw [State.lastRound_roundCounted, if_pos rfl]
      · rw [State.lastRound_roundCounted, if_neg hj]
      · exact State.rd_bumpi_own _ 1 (by decide) (by simp [pgHbm]) rfl
  · exact State.sysGib_locked hl
  · rw [State.sysGib_set hl hb ho]
    refine ⟨(State.rd_put_self _ _ _ _ _ rfl).trans (Nat.mod_mod ..), State.put_onlyRegs s _ (by decide) (by simp [pgHbm])⟩
  · rw [State.sysGib_refused hl h]
    exact ⟨State.err_bit _ _ _ (by decide), State.rd_err_hbm s _ _ (by decide), State.err_beyond ..⟩
  · rw [State.ovfWrite_spilled v h]
    exact ⟨State.err_bit _ _ _ (by decide), State.rd_err_keep s _ _ (by decide) (by decide),
      State.rd_err_keep s _ _ (by decide) (by decide)⟩

end Sys2Proof.Machine
end

section
/-! SUPPORT. The stack mover's transfers (R316, R318): what a slice reads, stages and stores where nothing reads bad. -/

namespace Sys2Proof.Machine

open Sys2Proof

/-! ## Ranges that read good -/

theorem State.badAt_false_iff {s : State} {sp off n : Nat} :
    s.badAt sp off n = false ↔ ∀ x ∈ linesOf off n, s.lineGood sp x := by
  refine ⟨State.good_of_badAt, fun h => List.any_eq_false.2 fun x hx hbad => ?_⟩
  unfold State.lineBad at hbad
  rcases h x hx with hd | hd
  all_goals
    rw [hd] at hbad
    exact absurd hbad Bool.false_ne_true

/-- Good lines read one after another store nothing, and leave every good line good (R326). -/
theorem State.touchLines_good (plan : Bool) (sp : Nat) : ∀ (l : List Nat) (s : State), (∀ x ∈ l, s.lineGood sp x) →
    (l.foldl (fun t x => t.touchLine plan sp x) s).mem = s.mem ∧
      ∀ {sp' k}, s.lineGood sp' k → (l.foldl (fun t x => t.touchLine plan sp x) s).lineGood sp' k
  | [], _, _ => ⟨rfl, id⟩
  | x :: l, s, h => by
    obtain ⟨hx, hl⟩ := List.forall_mem_cons.1 h
    obtain ⟨hm, hg⟩ := State.touchLine_corrected_mem (plan := plan) hx
    obtain ⟨ih, ih'⟩ := State.touchLines_good plan sp l (s.touchLine plan sp x) fun y hy => hg (hl y hy)
    exact ⟨ih.trans hm, fun hk => ih' (hg hk)⟩

theorem State.rangeUe_good {s : State} {sp off n : Nat} (h : s.badAt sp off n = false) : s.rangeUe sp off n = false := by
  refine List.any_eq_false.2 fun x hx hbad => ?_
  rcases State.badAt_false_iff.1 h x hx with hd | hd <;> simp [hd] at hbad

/-- The read of a good range by a planned unit stores nothing, and leaves every good range good. -/
theorem State.dmaRead_good {s : State} {loc n : Nat} (p : PageId) (r : Reg) (i : Nat) (h : s.badAt spHbm loc n = false) :
    (s.dmaRead p r i loc n).mem = s.mem ∧
      ∀ {sp off m}, s.badAt sp off m = false → (s.dmaRead p r i loc n).badAt sp off m = false := by
  obtain ⟨hm, hg⟩ := State.touchLines_good true spHbm _ s (State.badAt_false_iff.1 h)
  have hread : s.dmaRead p r i loc n = s.touch true spHbm loc n := by
    unfold State.dmaRead
    dsimp only
    rw [State.rangeUe_good h]
    exact if_neg Bool.false_ne_true
  rw [hread]
  exact ⟨hm, fun hb => State.badAt_false_iff.2 fun x hx => hg (State.badAt_false_iff.1 hb x hx)⟩

/-! ## Operands -/

theorem State.vaEntry_of {s t : State} (h : t.fst = s.fst) (va : Nat) : t.vaEntry va = s.vaEntry va := by
  unfold State.vaEntry State.fstFind State.fstValids State.fstEntry
  rw [h]

theorem State.vaLoc_of {s t : State} (h : t.fst = s.fst) (va : Nat) : t.vaLoc va = s.vaLoc va := by
  unfold State.vaLoc
  rw [State.vaEntry_of h]

theorem State.vaFrozen_of {s t : State} (h : t.fst = s.fst) (hf : t.frozenNow = s.frozenNow) (va : Nat) :
    t.vaFrozen va = s.vaFrozen va := by
  unfold State.vaFrozen
  rw [State.vaEntry_of h, hf]

/-- Bytes that a planned unit writes over lines that read good, to a segment that is not frozen, are what is read there, and no
other byte changes (R313). -/
theorem State.planWrite_reads {s : State} {va off : Nat} {l : List Byte} (hw : memWf s.mem = true) (hf : s.vaFrozen va = false)
    (hl : s.vaLoc va + off + l.length ≤ 2 ^ 40) (hb : s.badAt spHbm (s.vaLoc va + off) l.length = false) :
    (s.planWrite va off l).peek spHbm (s.vaLoc va + off) l.length = l ∧
      storesOnly s (s.planWrite va off l) spHbm (s.vaLoc va + off) l.length := by
  unfold State.planWrite
  dsimp only
  cases l with
  | nil => exact ⟨rfl, fun _ _ => rfl⟩
  | cons b l =>
    rw [if_neg (by simp), if_neg (by simp [hf])]
    exact State.store_reads true spHbm _ _ hw hl hb

theorem State.planPeek_length (s : State) (sp off n : Nat) : (s.planPeek sp off n).length = n := by
  unfold State.planPeek
  rw [List.length_mapIdx, State.peek_length]

/-! ## Chunks -/

/-- The bytes that chunks carry are those they were cut from, whichever are poisoned. -/
theorem cutChunks_bytes (op : Nat) (l : List Byte) (bad bad' : Nat → Bool) :
    (cutChunks op l bad).flatMap Chunk.bytes = (cutChunks op l bad').flatMap Chunk.bytes := by
  unfold cutChunks
  rw [List.flatMap_map, List.flatMap_map]

theorem cutChunks_isEmpty (op : Nat) (bad : Nat → Bool) {l : List Byte} (h : l.length ≠ 0) :
    (cutChunks op l bad).isEmpty = false := by
  unfold cutChunks cdiv
  rw [List.isEmpty_eq_false_iff, Ne, List.map_eq_nil_iff, List.range_eq_nil]
  omega

/-- Chunks without poison are written as their bytes (R318). -/
theorem State.writeChunks_clean (s : State) (st dst off n : Nat) {l : List Chunk} (h : l.all (fun c => !c.poison) = true) :
    s.writeChunks st dst off n l = s.planWrite dst off ((chunkBytes l).take n) := by
  have hgood : ∀ j ∈ List.range l.length, ((l[j]?).map Chunk.poison).getD true = false := by
    intro j hj
    have hlt := List.mem_range.1 hj
    have hc := List.all_eq_true.1 h l[j] (List.getElem_mem hlt)
    simpa [List.getElem?_eq_getElem hlt] using hc
  unfold State.writeChunks
  dsimp only
  refine (List.foldl_ext _ (fun t _ => t) _ fun t j hj => ?_).trans (List.foldl_fixed' (fun _ => rfl) _)
  rw [hgood j hj]
  exact if_neg Bool.false_ne_true

/-! ## Slices -/

section
variable {s : State} {st slot : Nat} {r : Run}

/-- The run in the slot is that of a transfer with the command's OP. -/
theorem State.xferRun_some {op : Nat} (hst : st < 16) (h : s.openRun 4 st slot = some r) (hop : leAt r.obj 0 1 = op) :
    s.xferRun st slot op = some r := by
  unfold State.xferRun
  rw [if_pos hst, h]
  exact if_pos hop

theorem exec_stackMoverOut (hst : st < 16) (h : s.openRun 4 st slot = some r) (hop : leAt r.obj 0 1 = 1) :
    exec (.stackMoverOut st slot) s = .next (s.stackOut st r) := by
  change execStackMoverOut st slot s = _
  unfold execStackMoverOut
  rw [State.xferRun_some hst h hop]

theorem exec_stackMoverIn (hst : st < 16) (h : s.openRun 4 st slot = some r) (hop : leAt r.obj 0 1 = 2) :
    exec (.stackMoverIn st slot) s = .next (s.stackIn st r) := by
  change execStackMoverIn st slot s = _
  unfold execStackMoverIn
  rw [State.xferRun_some hst h hop]

theorem exec_stackMoverCopy (hst : st < 16) (h : s.openRun 4 st slot = some r) (hop : leAt r.obj 0 1 = 3) :
    exec (.stackMoverCopy st slot) s = .next (s.stackCopy st r) := by
  change execStackMoverCopy st slot s = _
  unfold execStackMoverCopy
  rw [State.xferRun_some hst h hop]

/-- An operation that leaves the runs, and then the slice's end. -/
theorem sliceDone_of_parts {t : State} (h : s.openRun 4 st slot = some r) (ht : Parts (· ≠ .runs) s t) :
    sliceDone s (t.finish r) 4 st slot := sliceDone_finish h (ht.same_of (p := .runs) (by simp)) rfl rfl rfl

end

/-- What was stored stays so in a state with the same cells. -/
theorem moved_of_mem {s t u : State} {sp off n : Nat} {l : List Byte} (h : u.mem = t.mem)
    (ht : t.peek sp off n = l ∧ storesOnly s t sp off n) : u.peek sp off n = l ∧ storesOnly s u sp off n := by
  unfold State.peek storesOnly at *
  rwa [h]

/-! ## OUT -/

/-- The chunks of a slice at `loc` that read poisoned. -/
def State.sliceBad (s : State) (loc n j : Nat) : Bool := s.hbmBad (loc + 240 * j) (min 240 (n - 240 * j))

/-- An OUT before its slice's end: its bytes are read, counted and staged. -/
def State.stackSent (s : State) (st : Nat) (r : Run) : State :=
  let x := xferOf r.obj
  let sl := x.slice r.k
  let loc := s.vaLoc x.src + sl.1
  let ch := cutChunks 0 (s.planPeek spHbm loc sl.2) (s.sliceBad loc sl.2)
  let s1 := (s.mvRead st loc sl.2).bump (pgHbm st) Hbm.MV_BYTES sl.2
  if ch.isEmpty then s1 else s1.stage x.sid ch

theorem State.stackOut_eq (s : State) (st : Nat) (r : Run) : s.stackOut st r = (s.stackSent st r).finish r := rfl

theorem State.stackSent_parts (s : State) (st : Nat) (r : Run) : Parts (· ≠ .runs) s (s.stackSent st r) := by
  have hread := State.bump_parts (State.mvRead_parts (M := (· ≠ .runs)) (parts_refl s) st
    (s.vaLoc (xferOf r.obj).src + ((xferOf r.obj).slice r.k).1) ((xferOf r.obj).slice r.k).2 (by decide) (by decide) (by decide)
    (by decide) (by decide) (by decide) (by decide)) (pgHbm st) Hbm.MV_BYTES ((xferOf r.obj).slice r.k).2 (by decide)
  unfold State.stackSent
  dsimp only
  split
  · exact hread
  · exact State.stage_parts hread _ _ (by decide)

theorem State.mvRead_sched (s : State) (st loc n : Nat) : (s.mvRead st loc n).sched = s.sched :=
  (State.mvRead_parts (M := (· ≠ .sched)) (parts_refl s) st loc n (by decide) (by decide) (by decide) (by decide) (by decide)
    (by decide) (by decide)).same_of (p := .sched) (by simp)

/-- A slice with bytes goes out as chunks of its stream, behind what is staged (R316). -/
theorem State.stackSent_outbox {s : State} {st loc off n : Nat} {r : Run} (hsl : (xferOf r.obj).slice r.k = (off, n))
    (hloc : s.vaLoc (xferOf r.obj).src + off = loc) (hn : n ≠ 0) : (s.stackSent st r).sched.outbox =
      s.sched.outbox ++ [((xferOf r.obj).sid, cutChunks 0 (s.planPeek spHbm loc n) (s.sliceBad loc n))] := by
  unfold State.stackSent
  dsimp only
  rw [hsl, hloc, cutChunks_isEmpty _ _ (by rwa [State.planPeek_length]), if_neg Bool.false_ne_true]
  unfold State.stage
  rw [State.bump_sched, State.mvRead_sched]
  rfl

/-! ## IN -/

section
variable {s : State} {st : Nat} {r : Run}

theorem State.stackIn_first (h : r.k = 0) : s.stackIn st r = s.finish r := if_pos h

theorem State.stackIn_waits (h : r.k ≠ 0)
    (hs : s.sliceIn (xferOf r.obj).sid (cdiv ((xferOf r.obj).slice (r.k - 1)).2 240) = none) : s.stackIn st r = s := by
  unfold State.stackIn
  dsimp only
  rw [if_neg h, hs]

theorem State.stackIn_takes {l : List Chunk} {off n : Nat} (h : r.k ≠ 0) (hsl : (off, n) = (xferOf r.obj).slice (r.k - 1))
    (hs : s.sliceIn (xferOf r.obj).sid (cdiv n 240) = some l) :
    s.stackIn st r = ((s.writeChunks st (xferOf r.obj).dst off n l).bump (pgHbm st) Hbm.MV_BYTES n).finish r := by
  unfold State.stackIn
  dsimp only
  rw [if_neg h, ← hsl, hs]

end

theorem State.writeChunks_kept (s : State) (st dst off n : Nat) (l : List Chunk) :
    Parts (· ≠ .runs) s (s.writeChunks st dst off n l) :=
  State.writeChunks_parts (parts_refl s) st dst off n l (by decide) (by decide) (by decide) (by decide) (by decide) (by decide)
    (by decide)

/-! ## COPY -/

/-- Granules of a slice at `loc` that read poisoned leave poisoned ones at the destination (R318). -/
def State.copyPoison (s : State) (dst off loc n : Nat) (bad : List Nat) : State :=
  bad.foldl (fun t line => (t.planPoison dst (off + (max loc (64 * line) - loc))
    (min (loc + n) (64 * line + 64) - max loc (64 * line))).1) s

/-- A COPY's slice of `n` bytes at `off`: read, written, and poisoned where it read bad. -/
def State.stackCopied (s : State) (st src dst off n : Nat) : State :=
  State.copyPoison ((s.mvRead st (s.vaLoc src + off) n).planWrite dst off (s.planPeek spHbm (s.vaLoc src + off) n)) dst off
    (s.vaLoc src + off) n ((linesOf (s.vaLoc src + off) n).filter (s.lineBad spHbm))

theorem State.stackCopy_eq (s : State) (st : Nat) (r : Run) {off n : Nat} (h : (off, n) = (xferOf r.obj).slice r.k) :
    s.stackCopy st r =
      ((s.stackCopied st (xferOf r.obj).src (xferOf r.obj).dst off n).bump (pgHbm st) Hbm.MV_BYTES n).finish r := by
  unfold State.stackCopy
  dsimp only
  rw [← h]
  rfl

theorem State.stackCopied_kept (s : State) (st src dst off n : Nat) : Parts (· ≠ .runs) s (s.stackCopied st src dst off n) :=
  parts_foldl (fun _ _ ht => State.planPoison_parts ht _ _ _ (by decide) (by decide))
    (State.planWrite_parts (State.mvRead_parts (parts_refl s) st _ n (by decide) (by decide) (by decide) (by decide) (by decide)
      (by decide) (by decide)) dst off _ (by decide) (by decide) (by decide) (by decide) (by decide) (by decide) (by decide))

theorem State.mvRead_fst (s : State) (st loc n : Nat) : (s.mvRead st loc n).fst = s.fst :=
  (State.mvRead_parts (M := (· ≠ .fst)) (parts_refl s) st loc n (by decide) (by decide) (by decide) (by decide) (by decide)
    (by decide) (by decide)).same_of (p := .fst) (by simp)

theorem State.mvRead_frozenNow (s : State) (st loc n : Nat) : (s.mvRead st loc n).frozenNow = s.frozenNow :=
  (State.mvRead_parts (M := (· ≠ .frozenNow)) (parts_refl s) st loc n (by decide) (by decide) (by decide) (by decide) (by decide)
    (by decide) (by decide)).same_of (p := .frozenNow) (by simp)

/-- Where neither side reads bad, the destination holds the source's bytes, and no other byte changes (R316). -/
theorem State.stackCopied_reads {s : State} (st : Nat) {src dst off n : Nat} (hw : memWf s.mem = true) (hf : s.vaFrozen dst = false)
    (hl : s.vaLoc dst + off + n ≤ 2 ^ 40) (hs : s.badAt spHbm (s.vaLoc src + off) n = false)
    (hd : s.badAt spHbm (s.vaLoc dst + off) n = false) :
    (s.stackCopied st src dst off n).peek spHbm (s.vaLoc dst + off) n = s.planPeek spHbm (s.vaLoc src + off) n ∧
      storesOnly s (s.stackCopied st src dst off n) spHbm (s.vaLoc dst + off) n := by
  have hnone : (linesOf (s.vaLoc src + off) n).filter (s.lineBad spHbm) = [] :=
    List.filter_eq_nil_iff.2 (List.any_eq_false.1 hs)
  obtain ⟨hmem, hgood⟩ := State.dmaRead_good (pgHbm st) Hbm.MV_DMA_UE 2 hs
  have hloc := State.vaLoc_of (State.mvRead_fst s st (s.vaLoc src + off) n) dst
  have hfrz := State.vaFrozen_of (State.mvRead_fst s st (s.vaLoc src + off) n) (State.mvRead_frozenNow s st _ n) dst
  have hlen := State.planPeek_length s spHbm (s.vaLoc src + off) n
  have hwrite := State.planWrite_reads (s := s.mvRead st (s.vaLoc src + off) n) (va := dst) (off := off)
    (l := s.planPeek spHbm (s.vaLoc src + off) n) (by rw [State.mvRead, hmem]; exact hw) (hfrz.trans hf)
    (by rw [hloc, hlen]; exact hl) (by rw [hloc, hlen]; exact hgood hd)
  rw [hloc, hlen] at hwrite
  obtain ⟨hread, hrest⟩ := hwrite
  unfold State.stackCopied
  rw [hnone]
  exact ⟨hread, fun c hc => (hrest c hc).trans (by rw [State.mvRead, hmem])⟩

/-! ## The statement -/

/-- Settles O30: an OUT by its chunks, an IN by its step and what has come, a COPY by what it reads and writes. -/
theorem stackTransfersMoveBytes : Obligations.StackTransfersMoveBytes := by
  intro st slot r s hst hr
  refine ⟨fun hop => ⟨_, exec_stackMoverOut hst hr hop, ?_⟩,
    fun hop hk => ⟨_, exec_stackMoverIn hst hr hop, ?_⟩, fun hop hk hw => ?_, fun l off n hop hk hsl hl => ?_,
    fun off n hop hsl => ?_⟩
  · rw [State.stackOut_eq]
    exact ⟨sliceDone_of_parts hr (State.stackSent_parts s st r), fun hn =>
      ⟨_, State.stackSent_outbox rfl rfl hn, cutChunks_bytes ..⟩⟩
  · rw [State.stackIn_first hk]
    exact ⟨sliceDone_of_parts hr (parts_refl s), rfl⟩
  · rw [exec_stackMoverIn hst hr hop, State.stackIn_waits hk hw]
  · refine ⟨_, exec_stackMoverIn hst hr hop, ?_⟩
    rw [State.stackIn_takes hk hsl hl]
    refine ⟨sliceDone_of_parts hr (State.bump_parts (State.writeChunks_kept ..) _ _ _ (by decide)),
      fun hw hf hp hn hle hb => ?_⟩
    have hlen : ((chunkBytes l).take n).length = n := List.length_take_of_le hn
    rw [State.writeChunks_clean s st _ off n hp]
    have hwrite := State.planWrite_reads (l := (chunkBytes l).take n) hw hf (by rw [hlen]; exact hle) (by rw [hlen]; exact hb)
    rw [hlen] at hwrite
    exact moved_of_mem (State.bump_mem ..) hwrite
  · refine ⟨_, exec_stackMoverCopy hst hr hop, ?_⟩
    rw [State.stackCopy_eq s st r hsl]
    refine ⟨sliceDone_of_parts hr (State.bump_parts (State.stackCopied_kept ..) _ _ _ (by decide)), fun hw hf hle hs hd => ?_⟩
    exact moved_of_mem (State.bump_mem ..) (State.stackCopied_reads st hw hf hle hs hd)

end Sys2Proof.Machine
end

section
/-! SUPPORT. The requests of a Keep mover (R86, R319): what injecting one leaves, and the requests of a transfer that starts. -/

namespace Sys2Proof.Machine

open Sys2Proof

/-! ## A mover's own state -/

@[simp] theorem State.mover_setMover (s : State) (k : Nat) (m : Mover) : (s.setMover k m).mover k = m := AL.getD_put_self ..

@[simp] theorem State.rd_setMover (s : State) (k : Nat) (m : Mover) (p : PageId) (r : Reg) (i : Nat) :
    (s.setMover k m).rd p r i = s.rd p r i := State.rd_of_eq rfl rfl rfl p r i

theorem State.mover_of {s t : State} (h : t.movers = s.movers) (k : Nat) : t.mover k = s.mover k := by
  unfold State.mover
  rw [h]

@[simp] theorem State.mover_wr (s : State) (k : Nat) (p : PageId) (r : Reg) (v : Nat) : (s.wr p r v).mover k = s.mover k :=
  State.mover_of (State.wr_movers ..) k

/-- MV_STATE written reads as written. -/
theorem State.mvState_wr (s : State) (k v : Nat) : (s.wr (pgKeep k) Mov.MV_STATE v).mvState k = v % 2 ^ 3 :=
  State.rd_wr_own s v (by decide) (by simp [pgKeep])

/-- The fields of a Keep's page from the mover's block on read as before. -/
def moverRegsKept (s t : State) : Prop := ∀ (k : Nat) (x : Reg), 0x880 ≤ x.off → t.rd (pgKeep k) x 0 = s.rd (pgKeep k) x 0

theorem moverRegsKept.trans {s t u : State} (h : moverRegsKept s t) (h' : moverRegsKept t u) : moverRegsKept s u :=
  fun k x hx => (h' k x hx).trans (h k x hx)

theorem moverRegsKept.mvState {s t : State} (h : moverRegsKept s t) (k : Nat) : t.mvState k = s.mvState k := h k _ (by decide)

/-- What a mover's transfer is read from: its registers beside MV_STATE's word. -/
def sameJob (s t : State) (k : Nat) : Prop :=
  ∀ x : Reg, 0x880 ≤ x.off → x.off ≠ Mov.MV_STATE.off → t.rd (pgKeep k) x 0 = s.rd (pgKeep k) x 0

theorem sameJob.mvLen {s t : State} {k : Nat} (h : sameJob s t k) : t.mvLen k = s.mvLen k := by
  unfold State.mvLen State.rd2
  rw [h Mov.MV_LEN_LO (by decide) (by decide), h Mov.MV_LEN_HI (by decide) (by decide)]

theorem sameJob.mvWidths {s t : State} {k : Nat} (h : sameJob s t k) : t.mvWidths k = s.mvWidths k := by
  unfold State.mvWidths State.mvConverts
  rw [h Mov.MV_OP (by decide) (by decide), h Mov.SFMT (by decide) (by decide), h Mov.DFMT (by decide) (by decide)]

theorem sameJob.mvSpan {s t : State} {k : Nat} (h : sameJob s t k) (off : Nat) : t.mvSpan k off = s.mvSpan k off := by
  have hsrc : t.mvSrcAddr k off = s.mvSrcAddr k off := by
    unfold State.mvSrcAddr State.rd2
    rw [h Mov.MV_SRC_LO (by decide) (by decide), h Mov.MV_SRC_HI (by decide) (by decide)]
  have hdst : t.mvDstAddr k off = s.mvDstAddr k off := by
    unfold State.mvDstAddr State.rd2
    rw [h.mvWidths, h Mov.MV_DST_LO (by decide) (by decide), h Mov.MV_DST_HI (by decide) (by decide)]
  unfold State.mvSpan State.mvPiece
  rw [h.mvWidths, h.mvLen, hsrc, hdst]

/-! ## Requests are not poisoned -/

/-- POISON of a header is bit 7, which the seal leaves. -/
theorem Flit.poison_sealed (f : Flit) : f.sealed.poison = f.poison := by
  unfold Flit.sealed Flit.poison
  rw [Flit.field_setField_other _ _ (by decide) (by decide)]

theorem poison_of_hdr {f : Flit} {v : Nat} (hf : f.hdr = BitVec.ofNat 128 v) (h : v / 2 ^ 7 % 2 = 0) : f.poison = false := by
  have hbit : f.field 7 1 = 0 := by
    unfold Flit.field bits
    rw [hf, BitVec.toNat_ofNat]
    omega
  unfold Flit.poison
  rw [hbit]
  rfl

theorem requestFlit_poison (op tag addr size : Nat) (virt : Bool) (data : List Byte) :
    (requestFlit op tag addr size virt data).poison = false := by
  unfold requestFlit FlitSpec.flit
  rw [Flit.poison_sealed]
  refine poison_of_hdr rfl ?_
  simp only [show b2n true = 1 from rfl, show b2n false = 0 from rfl]
  omega

theorem State.ownRequest_poison (s : State) (src : Source) (f : Flit) : (s.ownRequest src f).poison = f.poison := by
  unfold State.ownRequest Flit.poison
  rw [Flit.field_setField_other _ _ (by decide) (by decide), Flit.field_setField_other _ _ (by decide) (by decide)]

/-! ## A request injected -/

theorem moverRegsKept_unroutable (s : State) (j : Nat) (unr : Bool) : moverRegsKept s (s.unroutable j unr) := by
  intro k x hx
  unfold State.unroutable
  split
  · have hoff : x.off + x.stride * 0 ≠ Kr.UNROUTABLE.off + Kr.UNROUTABLE.stride * 0 := by
      change x.off + x.stride * 0 ≠ 0x138
      omega
    rw [State.rd_err_keep _ _ _ (by omega) (by omega)]
    by_cases hk : k = j
    · subst hk
      exact State.rd_bumpi_same s 1 (.inl hoff) (by omega) (by decide) (by simp [pgKeep])
    · exact State.rd_bumpi_other s 1 (fun e => hk (pgKeep_inj.1 e)) (by decide) (by simp [pgKeep])
  · rfl

theorem moverRegsKept_forward (s : State) (j : Nat) (src : QSource) (buf : Option (Nat × Nat)) (travel : Option Nat) (f : Flit) :
    moverRegsKept s (s.forward j src buf travel f) := by
  unfold State.forward
  split
  · dsimp only
    split
    · exact moverRegsKept_unroutable s _ true
    · exact fun _ _ _ => rfl
  · dsimp only
    split
    · exact fun _ _ _ => rfl
    · split <;> exact fun _ _ _ => rfl

theorem moverRegsKept_giveReply (s : State) (src : Source) (f : Flit) : moverRegsKept s (s.giveReply src f) :=
  fun _ _ _ => (State.giveReply_rest s src f).1 ..

/-- What becomes of a request of a unit that is not poisoned: it is answered at its source, or makes a reservation and is sent. -/
theorem State.inject_unit_cases {s : State} {e : Nat} {f : Flit} (hp : f.poison = false) :
    (∃ unr g, s.inject (.moduleUnit e) f = (s.unroutable (srcKeep (.moduleUnit e)) unr).giveReply (.moduleUnit e) g) ∨
    ∃ g o, s.inject (.moduleUnit e) f = ((s.reserved (.moduleUnit e) g o).emit (.inject (.moduleUnit e) o)).forward
      (srcKeep (.moduleUnit e)) (srcPath (.moduleUnit e)) none none o := by
  have hown := (State.ownRequest_poison s (.moduleUnit e) f).trans hp
  cases ht : s.tagBad (.moduleUnit e) (s.ownRequest (.moduleUnit e) f).tag with
  | true => exact .inl ⟨false, _, State.inject_tagged rfl hown ht⟩
  | false =>
    cases hr : s.routeCompute (.moduleUnit e) (s.ownRequest (.moduleUnit e) f) with
    | answer st unr => exact .inl ⟨unr, _, State.inject_answered rfl hown ht hr⟩
    | send o => exact .inr ⟨_, o, State.inject_sent rfl hown ht hr⟩

/-- A request of mover `k` that leaves it, or the reply that it gets at once. -/
def moverOutput (k : Nat) (o : Output) : Prop := (∃ g, o = .inject (mvSrc k) g) ∨ ∃ g, o = .reply (mvSrc k) g

/-- A request injected by a mover puts out itself or its reply, and leaves the movers and their registers. -/
theorem State.inject_mover (s : State) (k : Nat) {f : Flit} (hp : f.poison = false) :
    (∃ o, (s.inject (mvSrc k) f).out = s.out ++ [o] ∧ moverOutput k o) ∧ moverRegsKept s (s.inject (mvSrc k) f) ∧
      (s.inject (mvSrc k) f).movers = s.movers := by
  refine ⟨?_, ?_, (State.inject_parts (M := (· ≠ .movers)) (parts_refl s) (mvSrc k) f (by decide) (by decide) (by decide)
    (by decide) (by decide) (by decide) (by decide) (by decide) (by decide) (by decide)).same_of (p := .movers) (by simp)⟩
  · rcases State.inject_unit_cases (s := s) (e := 4 + k) hp with ⟨unr, g, h⟩ | ⟨g, o, h⟩
    · obtain ⟨hout, -⟩ := State.giveReply_replied (s.unroutable (srcKeep (mvSrc k)) unr) (mvSrc k) g
      obtain ⟨-, -, hsame, -⟩ := State.unroutable_rest s (srcKeep (mvSrc k)) unr
      exact ⟨_, (congrArg State.out h).trans (hout.trans (by rw [hsame])), .inr ⟨g, rfl⟩⟩
    · obtain ⟨hout, -⟩ := State.enter_rest ((s.reserved (mvSrc k) g o).emit (.inject (mvSrc k) o)) (mvSrc k) o
      exact ⟨_, (congrArg State.out h).trans hout, .inl ⟨o, rfl⟩⟩
  · rcases State.inject_unit_cases (s := s) (e := 4 + k) hp with ⟨unr, g, h⟩ | ⟨g, o, h⟩
    · unfold mvSrc
      rw [h]
      exact (moverRegsKept_unroutable s _ unr).trans (moverRegsKept_giveReply _ _ _)
    · unfold mvSrc
      rw [h]
      exact moverRegsKept.trans (fun _ _ _ => rfl) (moverRegsKept_forward _ _ _ _ _ _)

/-- The same behind a change of the mover. -/
theorem State.setMover_inject (s : State) (k : Nat) (m : Mover) {f : Flit} (hp : f.poison = false) :
    (∃ o, ((s.setMover k m).inject (mvSrc k) f).out = s.out ++ [o] ∧ moverOutput k o) ∧
      moverRegsKept s ((s.setMover k m).inject (mvSrc k) f) ∧ ((s.setMover k m).inject (mvSrc k) f).mover k = m := by
  obtain ⟨hout, hregs, hmov⟩ := State.inject_mover (s.setMover k m) k hp
  exact ⟨hout, moverRegsKept.trans (fun _ _ _ => State.rd_setMover ..) hregs,
    (State.mover_of hmov k).trans (State.mover_setMover ..)⟩

theorem State.setMover_inject_mover (s : State) (k : Nat) (m : Mover) (op tag addr size : Nat) (virt : Bool) (l : List Byte) :
    ((s.setMover k m).inject (mvSrc k) (requestFlit op tag addr size virt l)).mover k = m := by
  obtain ⟨-, -, hm⟩ := State.setMover_inject s k m (requestFlit_poison op tag addr size virt l)
  exact hm

/-! ## Requests issued -/

/-- The next request issued: a read of the span at the mover's offset, under its lowest free tag (R319). -/
theorem State.mvIssue_effect (s : State) (k : Nat) :
    (∃ o, (s.mvIssue k).out = s.out ++ [o] ∧ moverOutput k o) ∧ moverRegsKept s (s.mvIssue k) ∧
      ((s.mvIssue k).mover k).reqs = (s.mover k).reqs ++
        [⟨(s.mover k).freeTag, (s.mover k).next, s.mvSpan k (s.mover k).next, false⟩] := by
  obtain ⟨hout, hregs, hmov⟩ := State.setMover_inject s k { s.mover k with
      next := (s.mover k).next + s.mvSpan k (s.mover k).next
      reqs := (s.mover k).reqs ++ [⟨(s.mover k).freeTag, (s.mover k).next, s.mvSpan k (s.mover k).next, false⟩] }
    (requestFlit_poison 0x10 (s.mover k).freeTag (s.mvSrcAddr k (s.mover k).next) (s.mvSpan k (s.mover k).next)
      (s.rdb (pgKeep k) Mov.SRC_V) [])
  exact ⟨hout, hregs, congrArg Mover.reqs hmov⟩

/-- Requests issued one after another put out and add theirs, and leave the registers. -/
theorem State.mvFill_effect (k : Nat) : ∀ (n : Nat) (s : State), (∃ l, (State.mvFill k n s).out = s.out ++ l) ∧
    moverRegsKept s (State.mvFill k n s) ∧ ∃ l, ((State.mvFill k n s).mover k).reqs = (s.mover k).reqs ++ l
  | 0, s => ⟨⟨[], (List.append_nil _).symm⟩, fun _ _ _ => rfl, [], (List.append_nil _).symm⟩
  | n + 1, s => by
    unfold State.mvFill
    dsimp only
    split
    · obtain ⟨⟨o, hout, -⟩, hregs, hreqs⟩ := State.mvIssue_effect s k
      obtain ⟨⟨l, hout'⟩, hregs', l', hreqs'⟩ := State.mvFill_effect k n (s.mvIssue k)
      refine ⟨⟨o :: l, ?_⟩, hregs.trans hregs', _,
        hreqs'.trans ((congrArg (· ++ l') hreqs).trans (List.append_assoc ..))⟩
      rw [hout', hout, List.append_assoc]
      rfl
    · exact ⟨⟨[], (List.append_nil _).symm⟩, fun _ _ _ => rfl, [], (List.append_nil _).symm⟩

theorem State.mvFill_end {s : State} {k : Nat} (h : s.mvLen k ≤ (s.mover k).next) : ∀ n, State.mvFill k n s = s
  | 0 => rfl
  | _ + 1 => if_neg (by simp [h])

section
variable {s : State} {k : Nat} (hr : (s.mover k).reqs = [])
include hr

/-- A mover with nothing outstanding and nothing left is DONE (R319). -/
theorem State.mvRun_end (h : s.mvLen k ≤ (s.mover k).next) : s.mvRun k = s.wr (pgKeep k) Mov.MV_STATE 4 := by
  unfold State.mvRun
  rw [State.mvFill_end h]
  exact if_pos (by simp [hr, h])

/-- A mover with nothing outstanding and bytes left reads from its offset on (R319). -/
theorem State.mvRun_start (h : (s.mover k).next < s.mvLen k) : moverRegsKept s (s.mvRun k) ∧
    ((s.mvRun k).mover k).reqs.head? = some ⟨0, (s.mover k).next, s.mvSpan k (s.mover k).next, false⟩ ∧
    ∃ o l, (s.mvRun k).out = s.out ++ o :: l ∧ moverOutput k o := by
  obtain ⟨n, hn⟩ : ∃ n, s.mvOutst k = n + 1 := Nat.exists_eq_succ_of_ne_zero (Nat.ne_of_gt (Nat.le_max_left 1 _))
  have hfill : State.mvFill k (s.mvOutst k) s = State.mvFill k n (s.mvIssue k) := by
    conv_lhs => rw [hn]
    exact if_pos (by simp [hr, h, hn])
  have htag : (s.mover k).freeTag = 0 := by
    unfold Mover.freeTag
    rw [hr]
    rfl
  obtain ⟨⟨o, hout, ho⟩, hregs, hreqs⟩ := State.mvIssue_effect s k
  obtain ⟨⟨l, hout'⟩, hregs', l', hreqs'⟩ := State.mvFill_effect k n (s.mvIssue k)
  rw [hreqs, hr, htag, List.nil_append, List.singleton_append] at hreqs'
  have hrun : s.mvRun k = State.mvFill k n (s.mvIssue k) := by
    unfold State.mvRun
    dsimp only
    rw [hfill]
    exact if_neg (by simp [hreqs'])
  rw [hrun, hreqs']
  refine ⟨hregs.trans hregs', rfl, o, l, ?_, ho⟩
  rw [hout', hout, List.append_assoc]
  rfl

end

/-! ## A transfer starts -/

/-- A mover that is set running from an offset (R320). -/
def State.mvStart (s : State) (k off : Nat) : State :=
  (s.setMover k { Mover.idle with next := off }).wr (pgKeep k) Mov.MV_STATE 1

theorem State.mvStart_mover (s : State) (k off : Nat) : (s.mvStart k off).mover k = { Mover.idle with next := off } := by
  unfold State.mvStart
  rw [State.mover_wr, State.mover_setMover]

theorem State.mvStart_job (s : State) (k off : Nat) : sameJob s (s.mvStart k off) k := fun x hx hs =>
  (State.rd_wr_same _ _ (.inl (by simpa using hs)) (by omega) (by decide) (by simp [pgKeep])).trans (State.rd_setMover ..)

theorem State.mvStart_out (s : State) (k off : Nat) : (s.mvStart k off).out = s.out := State.wr_out ..

/-- With no bytes left the transfer is DONE at once. -/
theorem State.mvStart_done {s : State} {k off : Nat} (h : s.mvLen k ≤ off) :
    (s.mvStart k off).mvRun k = (s.mvStart k off).wr (pgKeep k) Mov.MV_STATE 4 := by
  have hm := State.mvStart_mover s k off
  refine State.mvRun_end (by rw [hm]; rfl) ?_
  rw [hm, (State.mvStart_job s k off).mvLen]
  exact h

/-- With bytes left the mover runs, and its first request reads from the offset. -/
theorem State.mvStart_runs {s : State} {k off : Nat} (h : off < s.mvLen k) : ((s.mvStart k off).mvRun k).mvState k = 1 ∧
    (((s.mvStart k off).mvRun k).mover k).reqs.head? = some ⟨0, off, s.mvSpan k off, false⟩ ∧
    ∃ o l, ((s.mvStart k off).mvRun k).out = s.out ++ o :: l ∧ moverOutput k o := by
  have hm := State.mvStart_mover s k off
  have hjob := State.mvStart_job s k off
  obtain ⟨hregs, hhead, hout⟩ := State.mvRun_start (s := s.mvStart k off) (k := k) (by rw [hm]; rfl)
    (by rw [hm, hjob.mvLen]; exact h)
  rw [hm, hjob.mvSpan] at hhead
  rw [State.mvStart_out] at hout
  exact ⟨(hregs.mvState k).trans (State.mvState_wr ..), hhead, hout⟩

end Sys2Proof.Machine
end

section
/-! SUPPORT. The commands of a Keep mover (R319, R320): GO, replies, the end of a drain, MV_RESUME and MV_ABORT. -/

namespace Sys2Proof.Machine

open Sys2Proof

/-! ## GO -/

section
variable {op k : Nat} {s : State}

theorem exec_goCommand_other (hop : op = 1 ∨ op = 2) (h : s.rd (pgKeep k) Mov.MV_OP 0 ≠ op) :
    exec (goCommand op k) s = .next s := by
  rcases hop with rfl | rfl
  · exact congrArg Host.Outcome.next (if_neg (by simp [h]))
  · exact congrArg Host.Outcome.next (if_neg (by simp [h]))

theorem exec_goCommand (hk : k < 4) (hop : op = 1 ∨ op = 2) (h : s.rd (pgKeep k) Mov.MV_OP 0 = op) :
    exec (goCommand op k) s = .next (s.mvGo k) := by
  rcases hop with rfl | rfl
  · exact congrArg Host.Outcome.next (if_pos (by simp [hk, h]))
  · exact congrArg Host.Outcome.next (if_pos (by simp [hk, h]))

theorem State.mvGo_ignored (h : s.mvState k = 1 ∨ s.mvState k = 2) : s.mvGo k = s.wr (pgKeep k) Mov.MV_IGNORED 1 :=
  if_pos (by simpa using h)

theorem State.mvGo_invalid (h1 : s.mvState k ≠ 1) (h2 : s.mvState k ≠ 2) (hv : s.mvValid k = false) : s.mvGo k = s :=
  (if_neg (by simp [h1, h2])).trans (if_neg (by simp [hv]))

theorem State.mvGo_valid (h1 : s.mvState k ≠ 1) (h2 : s.mvState k ≠ 2) (hv : s.mvValid k = true) :
    s.mvGo k = (s.mvStart k 0).mvRun k := (if_neg (by simp [h1, h2])).trans (if_pos hv)

end

/-- A status field written is the only field that changes. -/
theorem State.wr_onlyRegs (s : State) {p : PageId} {r : Reg} (v : Nat) (hh : heldKind r = false) (hr : 0x100 ≤ r.off)
    (ht : p.ty ≠ 0x51) : onlyRegs [rkey p r 0] s (s.wr p r v) := by
  refine ⟨State.wr_beyond .., fun q x i h => ?_⟩
  have hput : s.wr p r v = (s.noteRise (rkey p r 0) (risingBits r (s.rd p r) v)).put p r 0 v := by
    unfold State.wr State.wri State.updi
    rw [hh]
    rfl
  rw [hput]
  exact (State.rd_put_block _ v (by simpa using h) hr ht).trans (State.noteRise_rd ..)

/-! ## Replies -/

/-- A flit of which no line is in error is taken as it is. -/
theorem State.served_flitGood {s : State} {e : Nat} {f : Flit} (act : State → Flit → State) (h : s.flitGood (.service e)) :
    s.served e f act = act (s.unserve e f) f := by
  have htake : s.takeService e f = (some f, s.unserve e f) := by
    unfold State.takeService
    dsimp only
    split
    · exact State.flitRead_good (s := s.unserve e f) f h
    · rfl
  unfold State.served
  rw [htake]

section
variable {k : Nat} {f : Flit} {s : State}

theorem exec_moverReply_lost (hk : k < 4) (hl : s.headerLost (.service (4 + k)))
    (hh : (s.opn.service.find? fun x => x.1 = 4 + k).map (fun x => x.2.2) = some f) :
    exec (.moverReply k f) s = .next ((s.unserve (4 + k) f).flitRead (.service (4 + k)) f).2 :=
  congrArg Host.Outcome.next ((if_pos hk).trans (State.served_lost _ hh hl))

theorem exec_moverReply_bad (hk : k < 4) (hc : f.hcrcOk = false) (hg : s.flitGood (.service (4 + k))) :
    exec (.moverReply k f) s = .next ((s.unserve (4 + k) f).headerDiscard k) :=
  congrArg Host.Outcome.next ((if_pos hk).trans ((State.served_flitGood _ hg).trans (if_neg (by simp [hc]))))

theorem exec_moverReply_good (hk : k < 4) (hc : f.hcrcOk = true) (hg : s.flitGood (.service (4 + k))) :
    exec (.moverReply k f) s = .next ((s.unserve (4 + k) f).mvReply k f) :=
  congrArg Host.Outcome.next ((if_pos hk).trans ((State.served_flitGood _ hg).trans (if_pos hc)))

theorem State.flitRead_movers (s : State) (p : FlitAt) (f : Flit) : (s.flitRead p f).2.movers = s.movers :=
  (State.flitRead_parts (M := (· ≠ .movers)) (parts_refl s) p f (by decide) (by decide) (by decide) (by decide)
    (by decide)).same_of (p := .movers) (by simp)

/-- A poisoned reply, one without reservation and one to no request are discarded (R86, R125). -/
theorem State.mvReply_discarded
    (h : f.poison = true ∨ s.mvOwed k f = false ∨ (s.mover k).reqs.find? (fun r => r.tag = f.tag) = none) :
    s.mvReply k f = s := by
  by_cases hd : (f.poison || !s.mvOwed k f) = true
  · exact if_pos hd
  · obtain ⟨hp, ho⟩ : f.poison = false ∧ s.mvOwed k f = true := by simpa using hd
    have hnone := (h.resolve_left (by simp [hp])).resolve_left (by simp [ho])
    unfold State.mvReply
    rw [if_neg hd, hnone]

/-- The reservation of a request completed (R86). -/
def State.mvFreed (s : State) (k tag : Nat) : State :=
  { s with reservations := s.reservations.filter fun x => !(x.src = mvSrc k && x.tag = tag) }

/-- A reply to an outstanding request, by its status and by whether it answers a read or a write (R319, R320). -/
theorem State.mvReply_taken {r : MvReq} (hp : f.poison = false) (ho : s.mvOwed k f = true)
    (hr : (s.mover k).reqs.find? (fun r => r.tag = f.tag) = some r) :
    s.mvReply k f = if f.status ≠ 0 then (s.mvFreed k f.tag).mvFail k r f.status
      else if r.writing then (s.mvFreed k f.tag).mvDone k r else (s.mvFreed k f.tag).mvWrite k r f := by
  unfold State.mvReply
  rw [if_neg (by simp [hp, ho]), hr]
  rfl

end

section
variable {k : Nat} {s : State} (r : MvReq)

/-- A reply other than OK: the mover drains, without that request, and has a fault to record. -/
theorem State.mvFail_effect (st : Nat) : (s.mvFail k r st).mvState k = 2 ∧
    ((s.mvFail k r st).mover k).reqs = (s.mover k).reqs.filter (· ≠ r) ∧ ((s.mvFail k r st).mover k).fault ≠ none := by
  unfold State.mvFail
  dsimp only
  rw [State.mover_wr, State.mover_setMover]
  exact ⟨State.mvState_wr .., rfl, nofun⟩

/-- A good read's reply while the mover runs: the request becomes its write. -/
theorem State.mvWrite_running (f : Flit) (h : s.mvState k = 1) :
    ((s.mvWrite k r f).mover k).reqs = (s.mover k).reqs.map fun y => if y = r then { r with writing := true } else y := by
  unfold State.mvWrite
  dsimp only
  rw [if_pos h, State.setMover_inject_mover]

/-- While the mover drains, the request ends without its write, and its bytes are not done. -/
theorem State.mvWrite_draining (f : Flit) (h : s.mvState k ≠ 1) :
    ((s.mvWrite k r f).mover k).reqs = (s.mover k).reqs.filter (· ≠ r) ∧ ((s.mvWrite k r f).mover k).low ≠ none := by
  unfold State.mvWrite
  dsimp only
  rw [if_neg h, State.mover_setMover]
  refine ⟨rfl, ?_⟩
  unfold Mover.drop lowOf
  dsimp only
  split <;> exact Option.some_ne_none _

theorem State.mvDone_draining (h : s.mvState k ≠ 1) : ((s.mvDone k r).mover k).reqs = (s.mover k).reqs.filter (· ≠ r) := by
  unfold State.mvDone
  dsimp only
  rw [if_neg h, State.mover_setMover]

/-- The last write's reply ends the transfer. -/
theorem State.mvDone_last (h : s.mvState k = 1) (hr : (s.mover k).reqs.filter (· ≠ r) = [])
    (hl : s.mvLen k ≤ (s.mover k).next) : (s.mvDone k r).mvState k = 4 := by
  unfold State.mvDone
  dsimp only
  rw [if_pos h, State.mvRun_end (by rw [State.mover_setMover]; exact hr) (by rw [State.mover_setMover]; exact hl)]
  exact State.mvState_wr ..

end

/-! ## The end of a drain -/

section
variable {k : Nat} {s : State}

theorem State.mvDrained_busy (h : s.mvState k ≠ 2 ∨ (s.mover k).reqs ≠ []) : s.mvDrained k = s :=
  if_neg fun hc => by
    obtain ⟨h2, hr⟩ := Bool.and_eq_true_iff.1 hc
    exact h.elim (fun hn => hn (of_decide_eq_true h2)) fun hn => hn (List.isEmpty_iff.1 hr)

theorem State.mvDrained_aborted (h : s.mvState k = 2) (hr : (s.mover k).reqs = []) (ha : (s.mover k).aborting = true) :
    s.mvDrained k = s.wr (pgKeep k) Mov.MV_STATE 5 := (if_pos (by simp [h, hr])).trans (if_pos ha)

/-- The state with a fault recorded: MV_STATE, MV_STATUS, MV_FAULT_ADDR and MV_DONE (R320). -/
def State.mvFaulted (s : State) (k st a done : Nat) : State :=
  (((s.wr (pgKeep k) Mov.MV_STATE 3).wr (pgKeep k) Mov.MV_STATUS st).wr2 (pgKeep k) Mov.MV_FAULT_ADDR_LO Mov.MV_FAULT_ADDR_HI a).wr2
    (pgKeep k) Mov.MV_DONE_LO Mov.MV_DONE_HI done

theorem State.mvDrained_faulted (h : s.mvState k = 2) (hr : (s.mover k).reqs = []) (ha : (s.mover k).aborting = false) :
    s.mvDrained k = s.mvFaulted k ((s.mover k).fault.getD (0, 0, 0)).2.1 ((s.mover k).fault.getD (0, 0, 0)).2.2
      (s.mover k).resume :=
  (if_pos (by simp [h, hr])).trans (if_neg (by simp [ha]))

theorem State.mvFaulted_mover (s : State) (k st a done : Nat) : (s.mvFaulted k st a done).mover k = s.mover k :=
  State.mover_of (by simp [State.mvFaulted]) k

/-- A mover's field reads as before another field of its block is written. -/
theorem State.rd_mover_wri (s : State) (k v : Nat) {r x : Reg} (h : x.off ≠ r.off ∨ x.lo ≠ r.lo) (hx : 0x880 ≤ x.off)
    (hr : 0x880 ≤ r.off) : (s.wri (pgKeep k) r 0 v).rd (pgKeep k) x 0 = s.rd (pgKeep k) x 0 :=
  State.rd_wri_same s v (by simpa using h) (by omega) (by omega) (by simp [pgKeep])

theorem State.rd_mover_wri_self (s : State) (k v : Nat) {r : Reg} (hr : 0x880 ≤ r.off) :
    (s.wri (pgKeep k) r 0 v).rd (pgKeep k) r 0 = v % 2 ^ r.w := State.rd_wri_own s v (by omega) (by simp [pgKeep])

/-- The record reads as written. -/
theorem State.mvFaulted_record (s : State) (k st a done : Nat) : (s.mvFaulted k st a done).mvState k = 3 ∧
    (s.mvFaulted k st a done).rd (pgKeep k) Mov.MV_STATUS 0 = st % 2 ^ 8 ∧
    (s.mvFaulted k st a done).rd (pgKeep k) Mov.MV_FAULT_ADDR_LO 0 = a % 2 ^ 32 ∧
    (s.mvFaulted k st a done).rd (pgKeep k) Mov.MV_DONE_LO 0 = done % 2 ^ 32 := by
  unfold State.mvFaulted State.mvState State.wr2 State.wr
  refine ⟨?_, ?_, ?_, ?_⟩
  · simp (disch := decide) only [State.rd_mover_wri]
    exact State.rd_mover_wri_self _ _ _ (by decide)
  · simp (disch := decide) only [State.rd_mover_wri]
    exact State.rd_mover_wri_self _ _ _ (by decide)
  · simp (disch := decide) only [State.rd_mover_wri]
    exact (State.rd_mover_wri_self _ _ _ (by decide)).trans (Nat.mod_mod ..)
  · simp (disch := decide) only [State.rd_mover_wri]
    exact (State.rd_mover_wri_self _ _ _ (by decide)).trans (Nat.mod_mod ..)

/-! ## MV_RESUME and MV_ABORT -/

theorem State.mvResume_other (h : s.mvState k ≠ 3) : s.mvResume k = s := if_neg h

theorem State.mvResume_faulted (h : s.mvState k = 3) :
    s.mvResume k = (s.mvStart k (s.rd2 (pgKeep k) Mov.MV_DONE_LO Mov.MV_DONE_HI 0)).mvRun k := if_pos h

theorem State.mvAbort_other (h1 : s.mvState k ≠ 1) (h3 : s.mvState k ≠ 3) : s.mvAbort k = s := if_neg (by simp [h1, h3])

/-- The mover set draining by MV_ABORT. -/
def State.mvAborting (s : State) (k : Nat) : State :=
  (s.setMover k { s.mover k with aborting := true }).wr (pgKeep k) Mov.MV_STATE 2

theorem State.mvAborting_mover (s : State) (k : Nat) : (s.mvAborting k).mover k = { s.mover k with aborting := true } := by
  unfold State.mvAborting
  rw [State.mover_wr, State.mover_setMover]

theorem State.mvAbort_active (h : s.mvState k = 1 ∨ s.mvState k = 3) :
    s.mvAbort k = if (s.mover k).reqs.isEmpty then (s.mvAborting k).mvDrained k else s.mvAborting k := if_pos (by simpa using h)

/-- MV_ABORT drains the mover, which is ABORTED at once where nothing is outstanding (R320). -/
theorem State.mvAbort_effect (h : s.mvState k = 1 ∨ s.mvState k = 3) :
    (s.mvAbort k).mover k = { s.mover k with aborting := true } ∧
      (s.mvAbort k).mvState k = if (s.mover k).reqs = [] then 5 else 2 := by
  have hm := State.mvAborting_mover s k
  have hst : (s.mvAborting k).mvState k = 2 := State.mvState_wr ..
  rw [State.mvAbort_active h]
  by_cases hr : (s.mover k).reqs = []
  · rw [if_pos (by simp [hr]), if_pos hr, State.mvDrained_aborted hst (by rw [hm]; exact hr) (by rw [hm]), State.mover_wr]
    exact ⟨hm, State.mvState_wr ..⟩
  · rw [if_neg (by simpa using hr), if_neg hr]
    exact ⟨hm, hst⟩

end

/-! ## The statement -/

/-- GO, by MV_OP, MV_STATE, the formats and LEN (R319, R320). -/
theorem goStartsTransfer {op k : Nat} {s : State} (hk : k < 4) (hop : op = 1 ∨ op = 2) (h : s.rd (pgKeep k) Mov.MV_OP 0 = op) :
    ∃ t, exec (goCommand op k) s = .next t ∧
      (s.mvState k = 1 ∨ s.mvState k = 2 → t.rd (pgKeep k) Mov.MV_IGNORED 0 = 1 ∧
        onlyRegs [rkey (pgKeep k) Mov.MV_IGNORED 0] s t) ∧
      (s.mvState k ≠ 1 → s.mvState k ≠ 2 → s.mvValid k = false → t = s) ∧
      (s.mvState k ≠ 1 → s.mvState k ≠ 2 → s.mvValid k = true →
        (s.mvLen k = 0 → t.mvState k = 4 ∧ t.mover k = Mover.idle ∧ t.reservations = s.reservations) ∧
        (0 < s.mvLen k → t.mvState k = 1 ∧ (t.mover k).reqs.head? = some ⟨0, 0, s.mvSpan k 0, false⟩ ∧
          ∃ o l, t.out = s.out ++ o :: l ∧ moverOutput k o)) := by
  refine ⟨_, exec_goCommand hk hop h, fun hb => ?_, State.mvGo_invalid, fun h1 h2 hv => ⟨fun hl => ?_, fun hl => ?_⟩⟩
  · rw [State.mvGo_ignored hb]
    exact ⟨State.rd_mover_wri_self _ _ _ (by decide), State.wr_onlyRegs s 1 rfl (by decide) (by simp [pgKeep])⟩
  · rw [State.mvGo_valid h1 h2 hv, State.mvStart_done (Nat.le_of_eq hl)]
    refine ⟨State.mvState_wr .., (State.mover_wr ..).trans (State.mvStart_mover ..), ?_⟩
    exact (State.wr_reservations ..).trans (State.wr_reservations ..)
  · rw [State.mvGo_valid h1 h2 hv]
    exact State.mvStart_runs hl

/-- A reply to an outstanding request, by its status, by what it answers and by MV_STATE (R319, R320). -/
theorem replyMovesRequest {k : Nat} {f : Flit} {s : State} {r : MvReq} (hk : k < 4) (hc : f.hcrcOk = true) (hp : f.poison = false)
    (hg : s.flitGood (.service (4 + k))) (ho : s.mvOwed k f = true)
    (hr : (s.mover k).reqs.find? (fun r => r.tag = f.tag) = some r) :
    ∃ t, exec (.moverReply k f) s = .next t ∧
      (f.status ≠ 0 → t.mvState k = 2 ∧ (t.mover k).reqs = (s.mover k).reqs.filter (· ≠ r) ∧ (t.mover k).fault ≠ none) ∧
      (f.status = 0 → r.writing = false → s.mvState k = 1 →
        (t.mover k).reqs = (s.mover k).reqs.map fun y => if y = r then { r with writing := true } else y) ∧
      (f.status = 0 → r.writing = false → s.mvState k ≠ 1 →
        (t.mover k).reqs = (s.mover k).reqs.filter (· ≠ r) ∧ (t.mover k).low ≠ none) ∧
      (f.status = 0 → r.writing = true → s.mvState k ≠ 1 → (t.mover k).reqs = (s.mover k).reqs.filter (· ≠ r)) ∧
      (f.status = 0 → r.writing = true → s.mvState k = 1 → (s.mover k).reqs.filter (· ≠ r) = [] →
        s.mvLen k ≤ (s.mover k).next → t.mvState k = 4) := by
  refine ⟨_, exec_moverReply_good hk hc hg, ?_⟩
  rw [State.mvReply_taken (s := s.unserve (4 + k) f) hp ho hr]
  refine ⟨fun hs => ?_, fun hs hw hst => ?_, fun hs hw hst => ?_, fun hs hw hst => ?_, fun hs hw hst hl hn => ?_⟩
  · rw [if_pos hs]
    exact State.mvFail_effect (s := (s.unserve (4 + k) f).mvFreed k f.tag) r f.status
  · rw [if_neg (by simp [hs]), if_neg (by simp [hw])]
    exact State.mvWrite_running (s := (s.unserve (4 + k) f).mvFreed k f.tag) r f hst
  · rw [if_neg (by simp [hs]), if_neg (by simp [hw])]
    exact State.mvWrite_draining (s := (s.unserve (4 + k) f).mvFreed k f.tag) r f hst
  · rw [if_neg (by simp [hs]), if_pos hw]
    exact State.mvDone_draining (s := (s.unserve (4 + k) f).mvFreed k f.tag) r hst
  · rw [if_neg (by simp [hs]), if_pos hw]
    exact State.mvDone_last (s := (s.unserve (4 + k) f).mvFreed k f.tag) r hst hl hn

/-- Settles O47: GO by MV_OP and MV_STATE, a reply by its header, its reservation and its request, a drain by what is outstanding,
MV_RESUME and MV_ABORT by MV_STATE. -/
theorem moversMoveAndStop : Obligations.MoversMoveAndStop := by
  refine ⟨fun op k s hk hop => ⟨exec_goCommand_other hop, goStartsTransfer hk hop⟩, fun k f s hk => ⟨fun hl hh => ?_,
    exec_moverReply_bad hk, fun hc hg h => ?_, fun r hc hp hg ho hr => replyMovesRequest hk hc hp hg ho hr⟩, fun k s hk => ?_,
    fun k off s hk hoff => ?_, fun k s hk => ?_⟩
  · obtain ⟨-, hres⟩ := State.flitRead_rest (s.unserve (4 + k) f) (.service (4 + k)) f
    exact ⟨_, exec_moverReply_lost hk hl hh, State.flitRead_movers .., hres⟩
  · rw [exec_moverReply_good hk hc hg, State.mvReply_discarded (s := s.unserve (4 + k) f) h]
  · refine ⟨s.mvDrained k, congrArg Host.Outcome.next (if_pos hk), State.mvDrained_busy, fun h hr => ?_⟩
    cases ha : (s.mover k).aborting with
    | true =>
      rw [State.mvDrained_aborted h hr ha]
      exact ⟨State.mover_wr .., fun _ => State.mvState_wr .., fun _ _ _ => nofun⟩
    | false =>
      rw [State.mvDrained_faulted h hr ha]
      refine ⟨State.mvFaulted_mover .., nofun, fun off st a _ hf => ?_⟩
      rw [hf]
      exact State.mvFaulted_record ..
  · subst hoff
    refine ⟨s.mvResume k, congrArg Host.Outcome.next (if_pos hk), State.mvResume_other, fun h hl => ?_, fun h hl => ?_⟩
    · rw [State.mvResume_faulted h, State.mvStart_done hl]
      exact State.mvState_wr ..
    · rw [State.mvResume_faulted h]
      obtain ⟨hst, hhead, -⟩ := State.mvStart_runs hl
      exact ⟨hst, hhead⟩
  · exact ⟨s.mvAbort k, congrArg Host.Outcome.next (if_pos hk), State.mvAbort_other, State.mvAbort_effect⟩

end Sys2Proof.Machine
end

section
/-! SUPPORT. What leaves register fields as they read, said of sets of keys; and of the integrity page (R328–R346) what its checks
write: fields of its block, reports and error bits, which only rise. -/

namespace Sys2Proof.Machine

open Sys2Proof

/-! ## What a check writes -/

/-- No error bit of a page clears. -/
def errsKept (s t : State) : Prop := ∀ p j, j < 32 → errSet s p j → errSet t p j

/-- The keys that a check writes: those of its error events, and block fields of the integrity page at offsets that meet `P`. -/
def itgTouches (P : Nat → Prop) (k : RegKey) : Prop :=
  errTouches pgIntegrity k ∨ (k.ty = pgIntegrity.ty ∧ k.inst = pgIntegrity.inst ∧ 0x100 < k.off ∧ P k.off)

/-- No other field changes, and no error bit clears. -/
def itgOnly (P : Nat → Prop) (s t : State) : Prop := regsKept (itgTouches P) s t ∧ errsKept s t

/-! ## Fields kept -/

theorem regsKept.refl (P : RegKey → Prop) (s : State) : regsKept P s s := fun _ _ _ _ => rfl

theorem regsKept.trans {P : RegKey → Prop} {s t u : State} (h : regsKept P s t) (h' : regsKept P t u) : regsKept P s u :=
  fun p r i hk => (h' p r i hk).trans (h p r i hk)

theorem regsKept.mono {P Q : RegKey → Prop} {s t : State} (h : regsKept P s t) (hPQ : ∀ k, P k → Q k) : regsKept Q s t :=
  fun p r i hk => h p r i fun hp => hk (hPQ _ hp)

theorem State.wri_regsKept {P : RegKey → Prop} (s : State) {p : PageId} {r : Reg} {i : Nat} (v : Nat) (h : P (rkey p r i))
    (he : P (rkey p Hdr.HELD_EVT 0)) (hs : ∀ q, ¬ steers (rkey p r i) q) : regsKept P s (s.wri p r i v) :=
  fun q _ _ hk => State.rd_wri_ne s v (fun e => hk (e ▸ h)) (fun e => hk (e ▸ he)) (hs q)

theorem State.err_regsKept {P : RegKey → Prop} (s : State) {p : PageId} (c : Nat) (h : ∀ k, errTouches p k → P k) :
    regsKept P s (s.err p c) := fun _ _ _ hk => State.rd_err s p c fun he => hk (h _ he)

/-! ## Error bits -/

theorem errsKept_of_rd {s t : State} (h : ∀ p, t.rd p Hdr.PG_ERR 0 = s.rd p Hdr.PG_ERR 0) : errsKept s t := fun p j _ hs => by
  unfold errSet at hs ⊢
  rw [h]
  exact hs

/-! ## The integrity page -/

/-- A field of the integrity page at an offset apart. -/
theorem not_itgTouches_own {P : Nat → Prop} {r : Reg} {i : Nat} (h : 0x100 ≤ r.off + r.stride * i)
    (hP : ¬ (0x100 < r.off + r.stride * i ∧ P (r.off + r.stride * i))) : ¬ itgTouches P (rkey pgIntegrity r i) := by
  rintro (((e | e | e | e) | ⟨e, -⟩) | ⟨-, -, e⟩)
  · exact absurd (rkey_page e) (by decide)
  · exact absurd (rkey_page e) (by decide)
  · exact absurd (rkey_page e) (by decide)
  · exact absurd (rkey_page e) (by decide)
  · exact absurd e (Nat.not_lt.2 h)
  · exact hP e

/-- A block field of another page, but for the counts of lost events and dropped frames. -/
theorem not_itgTouches_other {P : Nat → Prop} {p : PageId} {r : Reg} {i : Nat} (hp : p ≠ pgIntegrity) (hh : p ≠ pgHost)
    (hk : p ≠ pgKeep 3) (h : 0x100 ≤ r.off) : ¬ itgTouches P (rkey p r i) := by
  have ho : 0x100 ≤ r.off + r.stride * i := Nat.le_trans h (Nat.le_add_right ..)
  rintro (((e | e | e | e) | ⟨e, -⟩) | ⟨e1, e2, -⟩)
  · exact hh (rkey_page e)
  · exact hk (rkey_page e)
  · exact hh (rkey_page e)
  · exact hk (rkey_page e)
  · exact absurd e (Nat.not_lt.2 ho)
  · exact hp (PageId.eq_of_key e1 e2)

namespace itgOnly

variable {P : Nat → Prop} {s t : State}

theorem regs (h : itgOnly P s t) : regsKept (itgTouches P) s t := h.1

theorem errs (h : itgOnly P s t) : errsKept s t := h.2

theorem refl (P : Nat → Prop) (s : State) : itgOnly P s s := ⟨regsKept.refl _ s, fun _ _ _ h => h⟩

theorem trans {u : State} (h : itgOnly P s t) (h' : itgOnly P t u) : itgOnly P s u :=
  ⟨h.regs.trans h'.regs, fun p j hj hs => h'.errs p j hj (h.errs p j hj hs)⟩

theorem mono {Q : Nat → Prop} (h : itgOnly P s t) (hPQ : ∀ o, P o → Q o) : itgOnly Q s t :=
  ⟨h.regs.mono fun _ hk => hk.imp_right fun ⟨h1, h2, h3, h4⟩ => ⟨h1, h2, h3, hPQ _ h4⟩, h.errs⟩

theorem of_rd (h : ∀ p r i, t.rd p r i = s.rd p r i) : itgOnly P s t := ⟨fun p r i _ => h p r i, errsKept_of_rd fun p => h p _ _⟩

/-- What leaves the register file alone. -/
theorem of_eq (h1 : t.regs = s.regs) (h2 : t.hidden = s.hidden) (h3 : t.trip = s.trip) : itgOnly P s t :=
  of_rd (State.rd_of_eq h1 h2 h3)

theorem own (h : itgOnly P s t) {r : Reg} {i : Nat} (ho : 0x100 ≤ r.off + r.stride * i)
    (hP : ¬ (0x100 < r.off + r.stride * i ∧ P (r.off + r.stride * i))) : t.rd pgIntegrity r i = s.rd pgIntegrity r i :=
  h.regs _ _ _ (not_itgTouches_own ho hP)

theorem other (h : itgOnly P s t) {p : PageId} {r : Reg} {i : Nat} (hp : p ≠ pgIntegrity) (hh : p ≠ pgHost) (hk : p ≠ pgKeep 3)
    (ho : 0x100 ≤ r.off) : t.rd p r i = s.rd p r i := h.regs _ _ _ (not_itgTouches_other hp hh hk ho)

theorem foldl {α : Type} {f : State → α → State} : ∀ (l : List α) (s : State), (∀ t, ∀ x ∈ l, itgOnly P t (f t x)) →
    itgOnly P s (l.foldl f s)
  | [], s, _ => refl P s
  | x :: l, s, h => (h s x (List.mem_cons_self ..)).trans (foldl l (f s x) fun t y hy => h t y (List.mem_cons_of_mem _ hy))

end itgOnly

/-- A key of the integrity page above its first word steers no read. -/
theorem not_steers_itg {r : Reg} {i : Nat} (h : 0x100 < r.off + r.stride * i) (q : PageId) : ¬ steers (rkey pgIntegrity r i) q := by
  refine not_steers_of _ _ _ _ ?_ fun e => ?_
  · simp only [rkey]
    omega
  · simp only [rkey, Itg.TRIP_EN, RegKey.mk.injEq, Nat.mul_zero] at e
    omega

section
variable {P : Nat → Prop} (s : State) {r : Reg} {i : Nat} (h : 0x100 < r.off + r.stride * i)
include h

theorem State.rd_wri_itg_self (v : Nat) : (s.wri pgIntegrity r i v).rd pgIntegrity r i = v % 2 ^ r.w := by
  refine State.rd_wri_self s _ r i v (fun e => ?_) (not_steers_itg h _)
  simp only [rkey, Hdr.HELD_EVT, RegKey.mk.injEq] at e
  omega

variable (hP : P (r.off + r.stride * i))
include hP

theorem State.wri_itg (v : Nat) : itgOnly P s (s.wri pgIntegrity r i v) := by
  refine ⟨State.wri_regsKept s v (.inr ⟨rfl, rfl, h, hP⟩) (.inl (.inr (by simp [rkey, Hdr.HELD_EVT, pgIntegrity])))
    (not_steers_itg h), errsKept_of_rd fun p => State.rd_wri_ne s v (fun e => ?_) (fun e => ?_) (not_steers_itg h p)⟩
  · simp only [rkey, Hdr.PG_ERR, RegKey.mk.injEq, Nat.mul_zero] at e
    omega
  · simp [rkey, Hdr.PG_ERR, Hdr.HELD_EVT] at e

end

section
variable {P : Nat → Prop} (s : State) {r : Reg} (h : 0x100 < r.off)
include h

theorem State.rd_wr_itg_self (v : Nat) : (s.wr pgIntegrity r v).rd pgIntegrity r 0 = v % 2 ^ r.w :=
  State.rd_wri_itg_self s (i := 0) h v

theorem State.wr_itg (hP : P r.off) (v : Nat) : itgOnly P s (s.wr pgIntegrity r v) := State.wri_itg s (i := 0) h hP v

theorem State.bump_itg (hP : P r.off) (n : Nat) : itgOnly P s (s.bump pgIntegrity r n) := State.wri_itg s (i := 0) h hP _

end

theorem State.noteRise_itg (P : Nat → Prop) (s : State) (k : RegKey) (b : Nat) : itgOnly P s (s.noteRise k b) :=
  .of_eq (State.noteRise_regs ..) (State.noteRise_hidden ..) (State.noteRise_trip ..)

@[simp] theorem State.raise_rd (s : State) (c e : Nat) (p : PageId) (r : Reg) (i : Nat) : (s.raise c e).rd p r i = s.rd p r i :=
  State.setWatch_rd ..

theorem State.raise_itg (P : Nat → Prop) (s : State) (c e : Nat) : itgOnly P s (s.raise c e) := .of_eq rfl rfl rfl

theorem State.err_itg (P : Nat → Prop) (s : State) (c : Nat) : itgOnly P s (s.err pgIntegrity c) :=
  ⟨State.err_regsKept s c fun _ => .inl, fun _ _ hj h => errSet_err _ _ hj h⟩

theorem State.wrs_itg {P : Nat → Prop} : ∀ (l : List (Reg × Nat)) (s : State), (∀ x ∈ l, 0x100 < x.1.off ∧ P x.1.off) →
    itgOnly P s (s.wrs pgIntegrity l)
  | [], s, _ => .refl P s
  | (r, v) :: l, s, h => by
    obtain ⟨h1, h2⟩ := h (r, v) (List.mem_cons_self ..)
    exact (State.wr_itg s h1 h2 v).trans (State.wrs_itg l _ fun x hx => h x (List.mem_cons_of_mem _ hx))

theorem State.wrs_beyond (p : PageId) : ∀ (l : List (Reg × Nat)) (s : State), sameBeyondRegs s (s.wrs p l)
  | [], _ => rfl
  | (r, v) :: l, s => sameBeyondRegs_trans (State.wr_beyond s p r v) (State.wrs_beyond p l _)

/-- A record's first field, where no later one has its offset. -/
theorem State.rd_wrs_itg_head (s : State) {r : Reg} (v : Nat) {l : List (Reg × Nat)} (h : 0x100 < r.off)
    (hl : ∀ x ∈ l, 0x100 < x.1.off ∧ x.1.off ≠ r.off) : (s.wrs pgIntegrity ((r, v) :: l)).rd pgIntegrity r 0 = v % 2 ^ r.w := by
  have hoff : r.off + r.stride * 0 = r.off := rfl
  rw [State.wrs, (State.wrs_itg (P := (· ≠ r.off)) l _ hl).own (Nat.le_of_lt h) (by simp)]
  exact State.rd_wri_itg_self s h v

theorem State.clearFields_cons (s : State) (p : PageId) {r : Reg} (l : List Reg) (h : r.count = 1) :
    s.clearFields p (r :: l) = (s.wri p r 0 0).clearFields p l := by
  rw [State.clearFields, h]
  rfl

theorem State.clearFields_itg {P : Nat → Prop} : ∀ (l : List Reg) (s : State), (∀ r ∈ l, r.count = 1 ∧ 0x100 < r.off ∧ P r.off) →
    itgOnly P s (s.clearFields pgIntegrity l)
  | [], s, _ => .refl P s
  | r :: l, s, h => by
    obtain ⟨h1, h2, h3⟩ := h r (List.mem_cons_self ..)
    rw [State.clearFields_cons s _ l h1]
    exact (State.wr_itg s h2 h3 0).trans (State.clearFields_itg l _ fun x hx => h x (List.mem_cons_of_mem _ hx))

/-- An event of the integrity page. -/
theorem State.eventE_itg (P : Nat → Prop) (s : State) (c : Nat) (d : List Byte) : itgOnly P s (s.eventE pgIntegrity c d) := by
  refine ⟨fun p r i hk => ?_, fun p j hj h => State.dropErrs_bits _ _ _ _ hj ?_⟩
  · have herr : ¬ errTouches pgIntegrity (rkey p r i) := fun h => hk (.inl h)
    have hev : ¬ eventTouches (rkey p r i) := fun h => herr (.inl h)
    unfold State.eventE
    rw [State.dropErrs_of (·.rd p r i) (fun _ => State.rd_pgErr _ _ _ hev fun e => herr (.inr ⟨e.1, .inr (.inl e.2)⟩))
      (fun _ => State.rd_pgErr _ _ _ hev fun e => herr (.inr ⟨e.1, .inr (.inr e.2)⟩))]
    exact State.rd_event _ _ _ _ hev
  · rw [State.rd_event _ _ _ _ (pgErr_not_event p)]
    exact h

/-- A counter of the integrity page that does not saturate. -/
theorem State.counted_itg (s : State) {r : Reg} (n : Nat) (h : 0x100 < r.off) (hk : r.kind ≠ .counterSat) (hw : r.w = 32) :
    counted s (s.bump pgIntegrity r n) pgIntegrity r n := by
  unfold counted State.bump State.bumpi
  rw [State.rd_wri_itg_self s h, hw]
  split
  · exact absurd ‹_› hk
  · rfl

end Sys2Proof.Machine
end

section
/-! SUPPORT. The write-backs of the arrays: corrected granules (R326) and merge entries (R330). -/

namespace Sys2Proof.Machine

open Sys2Proof

/-! ## Corrected granules (R326) -/

theorem exec_correctedWriteback {sp l : Nat} (hl : l < 2 ^ 34) (s : State) : exec (.correctedWriteback (sp * 2 ^ 34 + l)) s =
    .next (if s.arrays.corrected.contains (sp, l) then s.cleanLine sp l else s) := by
  have hsp : (sp * 2 ^ 34 + l) / 2 ^ 34 = sp := by omega
  have hline : (sp * 2 ^ 34 + l) % 2 ^ 34 = l := by omega
  change execCorrectedWriteback _ s = _
  unfold execCorrectedWriteback
  rw [hsp, hline]

/-- A line made good awaits no write-back, and no other line's errors change. -/
theorem State.cleanLine_effect (s : State) (sp l : Nat) : (s.cleanLine sp l).arrays.corrected.contains (sp, l) = false ∧
    ∀ k, k ≠ (sp, l) → AL.get (s.cleanLine sp l).arrays.symErr k = AL.get s.arrays.symErr k :=
  ⟨by simp [State.cleanLine, State.setArrays], fun _ hk => AL.get_del_ne hk _⟩

theorem correctedGranuleBecomesClean {sp l : Nat} (hl : l < 2 ^ 34) (s : State) :
    ∃ t, exec (.correctedWriteback (sp * 2 ^ 34 + l)) s = .next t ∧
    t = { s with arrays := t.arrays } ∧ t.arrays.merge = s.arrays.merge ∧
    (s.arrays.corrected.contains (sp, l) = false → t.arrays = s.arrays) ∧
    (s.arrays.corrected.contains (sp, l) = true → t.decoded sp l = .clean ∧ t.arrays.corrected.contains (sp, l) = false ∧
      ∀ k, k ≠ (sp, l) → AL.get t.arrays.symErr k = AL.get s.arrays.symErr k) := by
  refine ⟨_, exec_correctedWriteback hl s, ?_⟩
  cases s.arrays.corrected.contains (sp, l) with
  | false => exact ⟨rfl, rfl, fun _ => rfl, nofun⟩
  | true => exact ⟨rfl, rfl, nofun, fun _ => ⟨State.cleanLine_decoded .., State.cleanLine_effect ..⟩⟩

/-! ## Merge entries (R330) -/

theorem mergeEntryIsFreed (line : Nat) (s : State) : ∃ t, exec (.mergeWriteback line) s = .next t ∧
    t = { s with arrays := t.arrays } ∧
    ((∀ m ∈ s.arrays.merge, m.line = line → s.clock < m.last + 16) → t = s) ∧
    (∀ m ∈ s.arrays.merge, m.line = line → m.last + 16 ≤ s.clock → t.mergeHeld line = false ∧
      t.decoded spHbm line = .clean ∧ ∀ n, n ≠ line → t.mergeHeld n = s.mergeHeld n) := by
  refine ⟨if s.arrays.merge.any (fun m => m.line = line && m.last + 16 ≤ s.clock) then s.mergeFree line else s, rfl, ?_⟩
  split
  case isTrue hidle =>
    obtain ⟨e, he, hline⟩ := List.any_eq_true.1 hidle
    simp only [Bool.and_eq_true, decide_eq_true_eq] at hline
    refine ⟨rfl, fun hbusy => ?_, fun _ _ _ _ => ⟨?_, State.mergeFree_decoded s line, fun n hn => ?_⟩⟩
    · have := hbusy e he hline.1
      omega
    · rw [State.mergeFree_held, if_pos rfl]
    · rw [State.mergeFree_held, if_neg hn]
  case isFalse hbusy =>
    exact ⟨rfl, fun _ => rfl, fun m hm hline hlast =>
      absurd (List.any_eq_true.2 ⟨m, hm, by simp [hline, hlast]⟩) hbusy⟩

/-- Room for an entry changes the arrays alone. -/
theorem State.mergeRoom_eq (s : State) (plan : Bool) (st : Nat) :
    s.mergeRoom plan st = s.setArrays (s.mergeRoom plan st).arrays := by
  unfold State.mergeRoom
  split
  · dsimp only
    split <;> rfl
  · rfl

/-- Where an entry is needed and none is free, the oldest of those that it may take is freed. -/
theorem State.mergeRoom_held {s : State} {plan : Bool} {st : Nat} {m : MergeEntry} {l : List MergeEntry}
    (hfull : s.mergeFull plan st = true) (hl : l = s.arrays.merge.filter fun e => e.st = st)
    (hm : oldestEntry (if 64 ≤ l.length then l else l.filter fun e => !e.plan) = some m) (n : Nat) :
    (s.mergeRoom plan st).mergeHeld n = if n = m.line then false else s.mergeHeld n := by
  subst hl
  unfold State.mergeRoom
  rw [if_pos hfull]
  dsimp only
  rw [hm]
  exact State.mergeFree_held ..

theorem sameBeyondRegs.setArrays {s t : State} (h : sameBeyondRegs s t) (a : Arrays) :
    sameBeyondRegs (s.setArrays a) (t.setArrays a) := by
  unfold sameBeyondRegs at h ⊢
  rw [h]
  rfl

theorem mergeEntryWaitIsCounted (st : Nat) (s : State) : ∃ t, exec (.mergeEntryWait st) s = .next t ∧
    sameBeyondRegs (s.setArrays t.arrays) t ∧ (s.mergeFull false st = false → t = s) ∧
    (s.mergeFull false st = true → t.rd pgIntegrity Itg.MERGE_WAIT 0 = (s.rd pgIntegrity Itg.MERGE_WAIT 0 + 1) % 2 ^ 32 ∧
      ∀ m l, l = s.arrays.merge.filter (fun e => e.st = st) →
        oldestEntry (if 64 ≤ l.length then l else l.filter fun e => !e.plan) = some m →
        t.mergeHeld m.line = false ∧ ∀ n, n ≠ m.line → t.mergeHeld n = s.mergeHeld n) := by
  refine ⟨s.mergeNeed false st, rfl, ?_⟩
  cases hfull : s.mergeFull false st with
  | false =>
    have hneed : s.mergeNeed false st = s := by
      unfold State.mergeNeed State.mergeRoom
      simp [hfull]
    rw [hneed]
    exact ⟨rfl, fun _ => rfl, nofun⟩
  | true =>
    have harr : (s.bump pgIntegrity Itg.MERGE_WAIT).arrays = s.arrays := State.bump_arrays ..
    have hneed : s.mergeNeed false st = (s.bump pgIntegrity Itg.MERGE_WAIT).mergeRoom false st := by
      unfold State.mergeNeed
      simp [hfull]
    have hheld : ∀ n, (s.bump pgIntegrity Itg.MERGE_WAIT).mergeHeld n = s.mergeHeld n := fun n => by
      unfold State.mergeHeld
      rw [harr]
    have hfull' : (s.bump pgIntegrity Itg.MERGE_WAIT).mergeFull false st = true := by
      unfold State.mergeFull at hfull ⊢
      rw [harr]
      exact hfull
    rw [hneed]
    refine ⟨?_, nofun, fun _ => ⟨?_, fun m l hl hm => ⟨?_, fun n hn => ?_⟩⟩⟩
    · conv_rhs => rw [State.mergeRoom_eq]
      exact sameBeyondRegs.setArrays (State.wri_beyond ..) _
    · rw [State.mergeRoom_eq, State.setArrays_rd]
      exact State.rd_bump_wrap s _ _ 1 (by decide) (not_steers_of _ _ _ _ (by decide) (by decide)) rfl
    · rw [State.mergeRoom_held hfull' (by rw [harr]; exact hl) hm, if_pos rfl]
    · rw [State.mergeRoom_held hfull' (by rw [harr]; exact hl) hm, if_neg hn, hheld]

/-- Settles O22: the write-backs by the mark, by the entry's age and by what is full. -/
theorem linesAreWrittenBack : Obligations.LinesAreWrittenBack :=
  ⟨fun _ _ s hl => correctedGranuleBecomesClean hl s, mergeEntryIsFreed, mergeEntryWaitIsCounted⟩

end Sys2Proof.Machine
end

section
/-! SUPPORT. Patrol of a Keep's buffer where PATROL_UE stands at its greatest value (R327, R332). Table 13.4 has the counter
saturate, and the statement has it wrap to 0. -/

namespace Sys2Proof.Machine

open Sys2Proof

theorem exec_patrolRead_buffer {l : Nat} (hl : l < 2 ^ 22) (s : State) :
    exec (.patrolRead (3 * 2 ^ 34 + l)) s = .next (s.patrolBuffer l) := by
  have hsp : (3 * 2 ^ 34 + l) / 2 ^ 34 = 3 := by omega
  have hline : (3 * 2 ^ 34 + l) % 2 ^ 34 = l := by omega
  change execPatrolRead _ s = _
  unfold execPatrolRead
  rw [hsp, hline]
  exact congrArg Host.Outcome.next ((if_neg (by decide)).trans (if_pos (by simpa using hl)))

/-- A buffer with so many equal errors that every draw of 16 bits names one of them: patrol meets it. -/
theorem State.patrolBuffer_meets {s : State} {e : FlitErr} {n line : Nat} (hf : s.arrays.flits = List.replicate n e)
    (hn : 2 ^ 16 ≤ n) (hk : e.place.keep = line / 2 ^ 20) (he : e.outcome = .uncorrectable) :
    s.patrolBuffer line = ((s.draw 16).2.setFlitErrs []).patrolUe e false line := by
  have hlist : s.arrays.flits.filter (fun x => x.place.keep = line / 2 ^ 20) = List.replicate n e := by
    rw [hf]
    exact List.filter_replicate_of_pos (by simpa using hk)
  have hrest : (s.draw 16).2.arrays.flits.filter (· ≠ e) = [] := by
    change s.arrays.flits.filter (· ≠ e) = []
    rw [hf]
    exact List.filter_replicate_of_neg (by simp)
  have hdraw : (s.draw 16).1 % (n + 1) < n := by
    have : (s.draw 16).1 < 2 ^ 16 := Nat.mod_lt _ (Nat.two_pow_pos 16)
    rw [Nat.mod_eq_of_lt (by omega)]
    omega
  unfold State.patrolBuffer
  simp only [hlist, List.length_replicate, List.getElem?_replicate, if_pos hdraw, he, hrest]

/-- PATROL_UE saturates: counted, it is never 0. -/
theorem State.patrolUe_counts (s : State) (e : FlitErr) (addr : Bool) (line : Nat) :
    (s.patrolUe e addr line).rd pgIntegrity Itg.PATROL_UE 0 ≠ 0 := by
  unfold State.patrolUe State.setFlitErrs State.bump State.bumpi
  rw [State.setArrays_rd, State.rd_wri_self _ _ _ _ _ (by decide) (not_steers_of _ _ _ _ (by decide) (by decide))]
  simp only [Itg.PATROL_UE]
  omega

/-- The errors of three symbols in a line that holds part of a flit at the head of a queue of Keep 0. -/
def lostQueueLine : FlitErr := { place := .queue 0 0 0, header := false, errs := [(0, 1), (1, 2), (2, 3)] }

/-- PATROL_UE at its greatest value, and `n` such lines held in Keep 0. -/
def patrolUeFull (n : Nat) : State :=
  { State.reset with regs := [(rkey pgIntegrity Itg.PATROL_UE 0, 2 ^ 32 - 1)]
                     arrays := { State.reset.arrays with flits := List.replicate n lostQueueLine } }

theorem patrolUeFull_patrol {n : Nat} (hn : 2 ^ 16 ≤ n) : exec (.patrolRead (3 * 2 ^ 34 + 0)) (patrolUeFull n) =
    .next ((((patrolUeFull n).draw 16).2.setFlitErrs []).patrolUe lostQueueLine false 0) := by
  rw [exec_patrolRead_buffer (by decide)]
  exact congrArg Host.Outcome.next (State.patrolBuffer_meets rfl hn rfl (by decide))

theorem patrolUeFull_rd (n : Nat) : (patrolUeFull n).rd pgIntegrity Itg.PATROL_UE 0 = 2 ^ 32 - 1 := rfl

/-- The line met stands poisoned in the list, so that it is not the list before. -/
theorem State.patrolUe_flits (s : State) (e : FlitErr) (addr : Bool) (line : Nat) :
    (s.patrolUe e addr line).arrays.flits.head? = some { e with errs := [(69, 0xA5)] } := rfl

/-- Refutes O23: PATROL_UE stands at 2^32 − 1 and a line of Keep 0 decodes as UNCORRECTABLE; patrol counts it, and the counter, which
saturates (Table 13.4), does not read 0. As many such lines as a draw has values leave no draw that meets none of them. -/
theorem not_patrolReadsALine : ¬ Obligations.PatrolReadsALine := by
  unfold Obligations.PatrolReadsALine
  rintro ⟨hbuffer, -⟩
  obtain ⟨n, hn⟩ : ∃ n, 2 ^ 16 ≤ n := ⟨2 ^ 16, Nat.le_refl _⟩
  obtain ⟨t, ht, -, -, hcase, -⟩ := hbuffer 0 (patrolUeFull n) (by decide)
  obtain rfl := Host.Outcome.next.inj ((patrolUeFull_patrol hn).symm.trans ht)
  rcases hcase with hnone | ⟨e, he, -, ⟨hcorr, -⟩ | ⟨-, -, hcount, -⟩⟩
  · have hhead := State.patrolUe_flits (((patrolUeFull n).draw 16).2.setFlitErrs []) lostQueueLine false 0
    rw [hnone] at hhead
    change (List.replicate n lostQueueLine).head? = _ at hhead
    rw [List.head?_replicate, if_neg (by omega)] at hhead
    exact absurd hhead (by decide)
  · obtain rfl := List.eq_of_mem_replicate he
    exact absurd hcorr (by decide)
  · rw [patrolUeFull_rd] at hcount
    exact State.patrolUe_counts _ _ _ _ hcount

end Sys2Proof.Machine
end

section
/-! SUPPORT. A write of WATCH_PARTNER on a locked page (R348). R410 has it ignored, so that nothing asks for
the partner's FAIL_DOMAIN, and the statement has the request leave in every state. -/

namespace Sys2Proof.Machine

open Sys2Proof

/-- The Watch page locked. -/
def lockedWatch : State := { State.reset with regs := [(rkey pgWatch Hdr.LOCK 0, 1)] }

/-- A write of WATCH_PARTNER on a locked page is ignored. -/
theorem lockedWatch_write (v : Nat) : exec (.watchPartnerWrite v) lockedWatch = .next lockedWatch :=
  congrArg Host.Outcome.next (if_pos (by decide))

theorem not_pairAsked_self (s : State) : ¬ pairAsked s s := by
  rintro ⟨o, l, hout, -⟩
  simpa using congrArg List.length hout

/-- Refutes O50: with LOCK set, a write of WATCH_PARTNER changes nothing and reads no FAIL_DOMAIN of the partner (R410), where the
statement has the request leave in every state. -/
theorem not_restoresAndJoins : ¬ Obligations.RestoresAndJoins := by
  unfold Obligations.RestoresAndJoins JoiningAndPairing
  rintro ⟨-, -, -, hwrite, -⟩
  obtain ⟨t, ht, hasked, -⟩ := hwrite 0 lockedWatch
  obtain rfl := Host.Outcome.next.inj ((lockedWatch_write 0).symm.trans ht)
  exact not_pairAsked_self _ hasked

end Sys2Proof.Machine
end

section
/-! SUPPORT. The vote over three copies (R328): a word that is a register field, another word of Table 13.1 (log 203), and
TRIP_EN. -/

namespace Sys2Proof.Machine

open Sys2Proof

/-! ## The vote -/

/-- A failed vote sets PG_ERR 2 and raises a module fault. -/
theorem State.tripFail_effect (s : State) : errSet s.tripFail pgIntegrity 2 ∧
    s.tripFail.watch.raised = s.watch.raised ++ [(2, 0)] := by
  unfold State.tripFail State.moduleFault errSet
  rw [State.raise_rd]
  refine ⟨State.err_bit _ _ _ (by decide), ?_⟩
  unfold State.raise
  rw [State.setWatch_watch, State.err_watch, State.bump_watch]
  rfl

theorem State.tripVote_equal {s : State} {k : RegKey} (h : AL.get s.trip k = none) : s.tripVote k = s := by
  unfold State.tripVote
  rw [h]

/-- The vote over a register field: copy 0 is the field itself. -/
theorem State.tripVote_field {s : State} {k : RegKey} {p : PageId} {r : Reg} {i : Nat} {c : TripCopies}
    (hc : AL.get s.trip k = some c) (hf : fieldOfKey k = some (p, r, i)) : s.tripVote k =
    if s.rdb pgIntegrity Itg.TRIP_EN then
      if c.c1 = s.copy0 p r i ∧ c.c2 = s.copy0 p r i then { s with trip := AL.del s.trip k }
      else if c.c1 = s.copy0 p r i ∨ c.c2 = s.copy0 p r i ∨ c.c1 = c.c2
        then (s.put p r i (c.vote (s.copy0 p r i))).bump pgIntegrity Itg.TRIP_CORR
      else s.tripFail
    else if c.parityBad then s.tripFail else s := by
  unfold State.tripVote
  rw [hc, hf]
  simp only [Bool.and_eq_true, Bool.or_eq_true, decide_eq_true_eq, or_assoc]

/-- The vote over another word: the copies are held as their differences from the first. -/
theorem State.tripVote_word {s : State} {k : RegKey} {c : TripCopies} (hc : AL.get s.trip k = some c) (hf : fieldOfKey k = none) :
    s.tripVote k =
    if s.rdb pgIntegrity Itg.TRIP_EN then
      if c.c1 = 0 ∧ c.c2 = 0 then { s with trip := AL.del s.trip k }
      else if c.c1 = 0 ∨ c.c2 = 0 ∨ c.c1 = c.c2 then ({ s with trip := AL.del s.trip k }).bump pgIntegrity Itg.TRIP_CORR
      else s.tripFail
    else if c.parityBad then s.tripFail else s := by
  unfold State.tripVote
  rw [hc, hf]
  simp only [Bool.and_eq_true, Bool.or_eq_true, decide_eq_true_eq, or_assoc]

/-! ## A register field -/

/-- The page of a key's field is the key's. -/
theorem fieldOfKey_page {k : RegKey} {p : PageId} {r : Reg} {i : Nat} (h : fieldOfKey k = some (p, r, i)) : p = ⟨k.ty, k.inst⟩ := by
  unfold fieldOfKey at h
  obtain ⟨x, -, hx⟩ := Option.map_eq_some_iff.1 h
  exact (congrArg Prod.fst hx).symm

/-- A hardware update of a field leaves copy 0 of another page's fields. -/
theorem State.copy0_updi_other (s : State) {p q : PageId} {r x : Reg} {i j : Nat} (v : Nat) (hq : q ≠ p) :
    (s.updi p r i v).copy0 q x j = s.copy0 q x j := by
  unfold State.updi
  split
  · exact State.copy0_put_ne _ _ fun e => hq (rkey_page e)
  · exact State.copy0_put_ne _ _ fun e => hq (rkey_page e)

theorem State.copy0_bump_other (s : State) {p q : PageId} {r x : Reg} {j n : Nat} (hq : q ≠ p) :
    (s.bump p r n).copy0 q x j = s.copy0 q x j := by
  unfold State.bump State.bumpi State.wri
  rw [State.copy0_updi_other _ _ hq]
  simp only [State.copy0, State.noteRise_regs]

/-- A rewritten field of another page holds the vote, and the rewrite is counted. -/
theorem State.tripRewrite_effect (s : State) {p : PageId} {r : Reg} {i v : Nat} (hp : p ≠ pgIntegrity) :
    ((s.put p r i v).bump pgIntegrity Itg.TRIP_CORR).copy0 p r i = v % 2 ^ r.w ∧
      counted s ((s.put p r i v).bump pgIntegrity Itg.TRIP_CORR) pgIntegrity Itg.TRIP_CORR 1 := by
  constructor
  · rw [State.copy0_bump_other _ hp]
    simp [State.copy0]
  · have hput : (s.put p r i v).rd pgIntegrity Itg.TRIP_CORR 0 = s.rd pgIntegrity Itg.TRIP_CORR 0 :=
      State.rd_put_ne s v (fun e => hp (rkey_page e).symm) fun h => h.elim (fun e => hp (rkey_page e)) fun e => hp (rkey_page e)
    have hcount := State.counted_itg (s.put p r i v) (r := Itg.TRIP_CORR) 1 (by decide) (by decide) rfl
    unfold counted at hcount ⊢
    rw [hcount, hput]

theorem fieldIsVoted {k : RegKey} {p : PageId} {r : Reg} {i : Nat} {c : TripCopies} {s : State} (hc : AL.get s.trip k = some c)
    (hf : fieldOfKey k = some (p, r, i)) : ∃ t, exec (.tripRewrite k) s = .next t ∧
      (s.rdb pgIntegrity Itg.TRIP_EN 0 = true → c.c1 = s.copy0 p r i → c.c2 = s.copy0 p r i →
        t = { s with trip := AL.del s.trip k }) ∧
      (s.rdb pgIntegrity Itg.TRIP_EN 0 = true → ¬ (c.c1 = s.copy0 p r i ∧ c.c2 = s.copy0 p r i) →
        (c.c1 = s.copy0 p r i ∨ c.c2 = s.copy0 p r i ∨ c.c1 = c.c2) →
        t = (s.put p r i (c.vote (s.copy0 p r i))).bump pgIntegrity Itg.TRIP_CORR ∧
        (k.ty ≠ pgIntegrity.ty → t.copy0 p r i = c.vote (s.copy0 p r i) % 2 ^ r.w ∧ counted s t pgIntegrity Itg.TRIP_CORR 1)) ∧
      (s.rdb pgIntegrity Itg.TRIP_EN 0 = true → c.c1 ≠ s.copy0 p r i → c.c2 ≠ s.copy0 p r i → c.c1 ≠ c.c2 →
        errSet t pgIntegrity 2 ∧ t.watch.raised = s.watch.raised ++ [(2, 0)]) ∧
      (s.rdb pgIntegrity Itg.TRIP_EN 0 = false → c.parityBad = true →
        errSet t pgIntegrity 2 ∧ t.watch.raised = s.watch.raised ++ [(2, 0)]) ∧
      (s.rdb pgIntegrity Itg.TRIP_EN 0 = false → c.parityBad = false → t = s) := by
  refine ⟨s.tripVote k, rfl, fun hen h1 h2 => ?_, fun hen hne hv => ?_, fun hen h1 h2 h12 => ?_, fun hen hb => ?_,
    fun hen hb => ?_⟩ <;>
    rw [State.tripVote_field hc hf]
  · rw [if_pos hen, if_pos ⟨h1, h2⟩]
  · rw [if_pos hen, if_neg hne, if_pos hv]
    refine ⟨rfl, fun hty => State.tripRewrite_effect s fun e => hty ?_⟩
    rw [← e, fieldOfKey_page hf]
  · rw [if_pos hen, if_neg (fun h => h1 h.1), if_neg (by simp [h1, h2, h12])]
    exact State.tripFail_effect s
  · rw [if_neg (by simp [hen]), if_pos hb]
    exact State.tripFail_effect s
  · rw [if_neg (by simp [hen]), if_neg (by simp [hb])]

/-! ## Another word -/

/-- The count of corrections and the freeze of its page are register fields, so no such word is one of them. -/
theorem word_apart {k : RegKey} (hf : fieldOfKey k = none) : 
    k ≠ rkey pgIntegrity Itg.TRIP_CORR 0 ∧ k ≠ rkey pgIntegrity Hdr.FREEZE 0 := by
  constructor
  · rintro rfl
    exact absurd hf (by decide)
  · rintro rfl
    exact absurd hf (by decide)

theorem State.rd_delTrip_word (s : State) {k : RegKey} (hf : fieldOfKey k = none) :
    State.rd { s with trip := AL.del s.trip k } pgIntegrity Itg.TRIP_CORR 0 = s.rd pgIntegrity Itg.TRIP_CORR 0 := by
  obtain ⟨hcorr, hfreeze⟩ := word_apart hf
  have hraw : ∀ {r : Reg}, k ≠ rkey pgIntegrity r 0 →
      State.raw { s with trip := AL.del s.trip k } pgIntegrity r 0 = s.raw pgIntegrity r 0 := fun h => by
    simp only [State.raw, AL.get_del_ne h.symm]
    rfl
  have hfrozen : frozen { s with trip := AL.del s.trip k } pgIntegrity = frozen s pgIntegrity := by
    unfold frozen
    rw [hraw hfreeze]
  unfold State.rd
  rw [hraw hcorr, hfrozen]

/-- A counted correction lists no key again. -/
theorem AL.get_del_of_none {κ ν : Type} [DecidableEq κ] {m : List (κ × ν)} {k : κ} (x : κ) (h : AL.get m k = none) :
    AL.get (AL.del m x) k = none := by
  by_cases hx : k = x
  · rw [hx, AL.get_del_self]
  · rw [AL.get_del_ne hx, h]

theorem State.updi_trip_none {s : State} {k : RegKey} (h : AL.get s.trip k = none) (p : PageId) (r : Reg) (i v : Nat) :
    AL.get (s.updi p r i v).trip k = none := by
  unfold State.updi
  split <;> exact AL.get_del_of_none _ h

theorem State.bump_trip_none {s : State} {k : RegKey} (h : AL.get s.trip k = none) (p : PageId) (r : Reg) (n : Nat) :
    AL.get (s.bump p r n).trip k = none := State.updi_trip_none (by simpa using h) p r 0 _

theorem wordIsVoted {k : RegKey} {c : TripCopies} {s : State} (hc : AL.get s.trip k = some c) (hf : fieldOfKey k = none) :
    ∃ t, exec (.tripRewrite k) s = .next t ∧
      (s.rdb pgIntegrity Itg.TRIP_EN 0 = true → c.c1 = 0 ∨ c.c2 = 0 ∨ c.c1 = c.c2 → AL.get t.trip k = none ∧
        (c.c1 = 0 → c.c2 = 0 → t = { s with trip := t.trip }) ∧
        (c.c1 ≠ 0 ∨ c.c2 ≠ 0 → counted s t pgIntegrity Itg.TRIP_CORR 1 ∧ sameBeyondRegs s t)) ∧
      ((s.rdb pgIntegrity Itg.TRIP_EN 0 = true ∧ c.c1 ≠ 0 ∧ c.c2 ≠ 0 ∧ c.c1 ≠ c.c2) ∨
          (s.rdb pgIntegrity Itg.TRIP_EN 0 = false ∧ c.parityBad = true) →
        errSet t pgIntegrity 2 ∧ t.watch.raised = s.watch.raised ++ [(2, 0)]) ∧
      (s.rdb pgIntegrity Itg.TRIP_EN 0 = false → c.parityBad = false → t = s) := by
  have hdel : AL.get (AL.del s.trip k) k = none := AL.get_del_self k s.trip
  refine ⟨s.tripVote k, rfl, fun hen hv => ?_, ?_, fun hen hb => ?_⟩
  · rw [State.tripVote_word hc hf, if_pos hen]
    by_cases h0 : c.c1 = 0 ∧ c.c2 = 0
    · rw [if_pos h0]
      exact ⟨hdel, fun _ _ => rfl, fun h => by omega⟩
    · rw [if_neg h0, if_pos hv]
      refine ⟨State.bump_trip_none hdel _ _ _, fun h1 h2 => absurd ⟨h1, h2⟩ h0, fun _ => ⟨?_, ?_⟩⟩
      · have hcount := State.counted_itg { s with trip := AL.del s.trip k } (r := Itg.TRIP_CORR) 1 (by decide) (by decide) rfl
        unfold counted at hcount ⊢
        rw [hcount, State.rd_delTrip_word s hf]
      · exact sameBeyondRegs_trans (t := { s with trip := AL.del s.trip k }) rfl (State.wri_beyond ..)
  · rintro (⟨hen, h1, h2, h12⟩ | ⟨hen, hb⟩)
    · rw [State.tripVote_word hc hf, if_pos hen, if_neg (fun h => h1 h.1), if_neg (by simp [h1, h2, h12])]
      exact State.tripFail_effect s
    · rw [State.tripVote_word hc hf, if_neg (by simp [hen]), if_pos hb]
      exact State.tripFail_effect s
  · rw [State.tripVote_word hc hf, if_neg (by simp [hen]), if_neg (by simp [hb])]

/-! ## TRIP_EN -/

/-- TRIP_EN is `b` in copy 0, and no other copy differs from it. -/
def State.tripEnIs (s : State) (b : Nat) : Prop :=
  s.copy0 pgIntegrity Itg.TRIP_EN 0 = b ∧ AL.get s.trip (rkey pgIntegrity Itg.TRIP_EN 0) = none

theorem State.tripEnIs.rd {s : State} {b : Nat} (h : s.tripEnIs b) : s.rd pgIntegrity Itg.TRIP_EN 0 = b := by
  obtain ⟨hcopy, htrip⟩ := h
  have hraw : s.raw pgIntegrity Itg.TRIP_EN 0 = b := by
    simp only [State.raw, htrip, hcopy]
  have hheld : heldKind Itg.TRIP_EN = false := rfl
  simp only [State.rd, hheld, Bool.false_and, Bool.false_eq_true, if_false, hraw]
  split <;> rfl

/-- Another field written leaves TRIP_EN. -/
theorem State.tripEnIs.swField {s : State} {b : Nat} (h : s.tripEnIs b) {r : Reg} (v : Nat) (hacc : r.acc = .rw ∨ r.acc = .rwl)
    (hr : rkey pgIntegrity r 0 ≠ rkey pgIntegrity Itg.TRIP_EN 0) : (s.swField pgIntegrity r 0 v).tripEnIs b := by
  have hput : (s.put pgIntegrity r 0 v).tripEnIs b :=
    ⟨(State.copy0_put_ne s v hr.symm).trans h.1, (AL.get_del_ne hr.symm _).trans h.2⟩
  unfold State.swField
  rcases hacc with ha | ha
  · rw [ha]
    exact hput
  · rw [ha]
    dsimp only
    split
    · exact h
    · exact hput

/-- The word at 0x100 with its fields written, the copies apart. -/
def State.tripWordPut (s : State) (v : Nat) : State :=
  (((s.swField pgIntegrity Itg.TRIP_EN 0 (bits v 0 1)).swField pgIntegrity Itg.SPOT_EN 0 (bits v 1 1)).swField
    pgIntegrity Itg.QUAR_EN 0 (bits v 2 1)).swField pgIntegrity Itg.ST_OVERRIDE 0 (bits v 3 1)

theorem State.writeTrip_eq (s : State) (v : Nat) : s.writeTrip v =
    if !s.rdb pgIntegrity Itg.TRIP_EN && (s.tripWordPut v).rdb pgIntegrity Itg.TRIP_EN
      then { s.tripWordPut v with trip := [] } else s.tripWordPut v := rfl

/-- On an unlocked page TRIP_EN takes its bit. -/
theorem State.tripWordPut_tripEn {s : State} (hl : s.raw pgIntegrity Hdr.LOCK 0 ≠ 1) (v : Nat) :
    (s.tripWordPut v).tripEnIs (v % 2) := by
  have hput : (s.swField pgIntegrity Itg.TRIP_EN 0 (bits v 0 1)).tripEnIs (v % 2) := by
    have hsw : s.swField pgIntegrity Itg.TRIP_EN 0 (bits v 0 1) = s.put pgIntegrity Itg.TRIP_EN 0 (bits v 0 1) := if_neg hl
    rw [hsw]
    refine ⟨?_, AL.get_del_self _ _⟩
    have hbit : bits v 0 1 % 2 ^ Itg.TRIP_EN.w = v % 2 := by
      simp only [bits, Itg.TRIP_EN]
      omega
    simp only [State.copy0, State.put_regs, AL.getD_put_self, hbit]
  unfold State.tripWordPut
  exact ((hput.swField _ (.inl rfl) (by decide)).swField _ (.inl rfl) (by decide)).swField _ (.inr rfl) (by decide)

theorem tripEnIsWritten (v : Nat) {s : State} (hl : s.raw pgIntegrity Hdr.LOCK 0 ≠ 1) : ∃ t, exec (.tripEnWrite v) s = .next t ∧
    t.rd pgIntegrity Itg.TRIP_EN 0 = v % 2 ∧
    (s.rdb pgIntegrity Itg.TRIP_EN 0 = false → v % 2 = 1 → t.trip = []) := by
  have hput := State.tripWordPut_tripEn hl v
  refine ⟨s.writeTrip v, rfl, ?_, fun hoff hv => ?_⟩ <;> rw [State.writeTrip_eq]
  · split
    · exact State.tripEnIs.rd ⟨hput.1, rfl⟩
    · exact hput.rd
  · have hon : (s.tripWordPut v).rdb pgIntegrity Itg.TRIP_EN 0 = true := by
      unfold State.rdb
      rw [hput.rd, hv]
      rfl
    rw [hoff, hon]
    rfl

/-- The vote, by the field or word of the key and by what the copies hold. -/
theorem votedWordsAreRepaired : VotedWordsAreRepaired :=
  ⟨fun _ _ _ _ _ _ hc hf => fieldIsVoted hc hf, fun _ _ _ hc hf => wordIsVoted hc hf,
    fun _ _ h => congrArg Host.Outcome.next (State.tripVote_equal h), fun v _ hl => tripEnIsWritten v hl⟩

end Sys2Proof.Machine
end

section
/-! SUPPORT. Scrub (R333, R334): SCRUB_GO, SCRUB_ABORT, and what reading one granule writes of the summary. -/

namespace Sys2Proof.Machine

open Sys2Proof

/-! ## SCRUB_GO -/

theorem State.scrubGo_busy {s : State} (h : s.rd pgIntegrity Itg.SCRUB_STATE 0 = 1) : s.scrubGo = s := if_pos h

section
variable {s : State} (h : s.rd pgIntegrity Itg.SCRUB_STATE 0 ≠ 1)
include h

theorem State.scrubGo_refused (hr : s.scrubEnd ≤ s.scrubStart ∨ 2 ^ 40 < s.scrubEnd) : s.scrubGo = s.err pgIntegrity 9 :=
  (if_neg h).trans (if_pos (by simpa using hr))

theorem State.scrubGo_starts (h1 : s.scrubStart < s.scrubEnd) (h2 : s.scrubEnd ≤ 2 ^ 40) : s.scrubGo =
    { (s.clearFields pgIntegrity scrubSum).wr pgIntegrity Itg.SCRUB_STATE 1 with
      scrub := some { pos := s.scrubStart, fin := s.scrubEnd, tick := s.now, n := 0 } } :=
  (if_neg h).trans (if_neg (by simp; omega))

end

/-- The summary cleared counts no granule, and the pass is shown. -/
theorem State.scrubCleared_reads (s : State) :
    ((s.clearFields pgIntegrity scrubSum).wr pgIntegrity Itg.SCRUB_STATE 1).rd pgIntegrity Itg.SCRUB_STATE 0 = 1 ∧
    ((s.clearFields pgIntegrity scrubSum).wr pgIntegrity Itg.SCRUB_STATE 1).rd pgIntegrity Itg.SCRUB_SUM_READ 0 = 0 := by
  refine ⟨State.rd_wr_itg_self _ (by decide) 1, ?_⟩
  have hclear : s.clearFields pgIntegrity scrubSum =
      (s.wri pgIntegrity Itg.SCRUB_SUM_READ 0 0).clearFields pgIntegrity scrubSum.tail :=
    State.clearFields_cons s _ scrubSum.tail rfl
  rw [hclear, ((State.clearFields_itg scrubSum.tail (s.wri pgIntegrity Itg.SCRUB_SUM_READ 0 0)
    (P := (· ≠ Itg.SCRUB_SUM_READ.off)) (by decide)).trans (State.wr_itg _ (by decide) (by decide) 1)).own (by decide) (by decide)]
  exact State.rd_wr_itg_self s (by decide) 0

theorem scrubStarts (s : State) : ∃ t, exec .scrubGo s = .next t ∧
    (s.rd pgIntegrity Itg.SCRUB_STATE 0 = 1 → t = s) ∧
    (s.rd pgIntegrity Itg.SCRUB_STATE 0 ≠ 1 → (s.scrubEnd ≤ s.scrubStart ∨ 2 ^ 40 < s.scrubEnd) →
      errSet t pgIntegrity 9 ∧ sameBeyondReports s t) ∧
    (s.rd pgIntegrity Itg.SCRUB_STATE 0 ≠ 1 → s.scrubStart < s.scrubEnd → s.scrubEnd ≤ 2 ^ 40 →
      t.rd pgIntegrity Itg.SCRUB_STATE 0 = 1 ∧ t.rd pgIntegrity Itg.SCRUB_SUM_READ 0 = 0 ∧
      t.scrub = some { pos := s.scrubStart, fin := s.scrubEnd, tick := s.now, n := 0 }) := by
  refine ⟨s.scrubGo, rfl, State.scrubGo_busy, fun h hr => ?_, fun h h1 h2 => ?_⟩
  · rw [State.scrubGo_refused h hr]
    exact ⟨State.err_bit _ _ _ (by decide), State.err_beyond ..⟩
  · obtain ⟨hstate, hread⟩ := State.scrubCleared_reads s
    rw [State.scrubGo_starts h h1 h2]
    generalize (s.clearFields pgIntegrity scrubSum).wr pgIntegrity Itg.SCRUB_STATE 1 = u at hstate hread ⊢
    exact ⟨hstate, hread, rfl⟩

/-! ## The end of a pass -/

theorem sameBeyondRegs.scrub {s t : State} (h : sameBeyondRegs s t) : t.scrub = s.scrub := by
  unfold sameBeyondRegs at h
  rw [h]

theorem State.scrubStop_effect (s : State) {st : Nat} (hst : st < 4) : (s.scrubStop st).scrub = none ∧
    (s.scrubStop st).rd pgIntegrity Itg.SCRUB_STATE 0 = st ∧
    itgOnly (fun o => o ≠ Itg.SCRUB_SUM_READ.off ∧ o ≠ Itg.SCRUB_SUM_SKIP.off) s (s.scrubStop st) := by
  have hnone : itgOnly (fun o => o ≠ Itg.SCRUB_SUM_READ.off ∧ o ≠ Itg.SCRUB_SUM_SKIP.off) s { s with scrub := none } :=
    .of_eq rfl rfl rfl
  unfold State.scrubStop
  refine ⟨(State.wrs_beyond _ _ _).scrub, ?_, hnone.trans (State.wrs_itg _ _ ?_)⟩
  · rw [State.rd_wrs_itg_head _ _ (by decide) (by simp only [List.forall_mem_cons]; decide)]
    exact Nat.mod_eq_of_lt hst
  · simp only [List.forall_mem_cons]
    decide

theorem scrubAborts (s : State) : ∃ t, exec .scrubAbort s = .next t ∧ t.scrub = none ∧
    (s.scrub = none → t = s) ∧ (s.scrub ≠ none → t.rd pgIntegrity Itg.SCRUB_STATE 0 = 3) := by
  refine ⟨if s.scrub.isSome then s.scrubStop 3 else s, rfl, ?_⟩
  cases h : s.scrub with
  | none => exact ⟨h, fun _ => rfl, fun hn => absurd rfl hn⟩
  | some x =>
    obtain ⟨hnone, hstate, -⟩ := State.scrubStop_effect s (st := 3) (by decide)
    exact ⟨hnone, nofun, fun _ => hstate⟩

/-! ## A line read -/

/-- The offsets of the integrity page that reads of lines write: CORR_TOTAL, UE_TOTAL and the UE record. -/
def readOffs (o : Nat) : Prop := Itg.CORR_TOTAL.off ≤ o ∧ o ≤ Itg.UE_TICK_HI.off

theorem State.ueRecord_itg (s : State) (kind arr addr : Nat) : itgOnly readOffs s (s.ueRecord kind arr addr) := by
  unfold State.ueRecord
  split
  · exact State.noteRise_itg ..
  · refine State.wrs_itg _ _ ?_
    simp only [List.forall_mem_cons, readOffs]
    decide

theorem State.ueLine_itg (s : State) (sp line : Nat) (d : Decoded) : itgOnly readOffs s (s.ueLine sp line d) := by
  have hpoison : itgOnly readOffs s (s.poisonLine sp line) := .of_rd (State.poisonLine_rd s sp line)
  unfold State.ueLine
  exact (hpoison.trans (State.bump_itg _ (by decide) (by unfold readOffs; decide) 1)).trans
    ((State.ueRecord_itg ..).trans (State.err_itg ..))

/-- A read of a line that no plan unit makes. -/
theorem State.touchLine_itg (s : State) (sp line : Nat) : itgOnly readOffs s (s.touchLine false sp line) := by
  unfold State.touchLine
  cases s.decoded sp line with
  | clean => exact .refl ..
  | poisoned => exact .refl ..
  | corrected => exact (State.bump_itg s (by decide) (by unfold readOffs; decide) 1).trans (.of_eq rfl rfl rfl)
  | address => exact State.ueLine_itg ..
  | uncorrectable => exact State.ueLine_itg ..

/-! ## One granule -/

/-- A granule skipped or read is counted. -/
theorem State.scrubCrc_itg (s : State) (l : List Byte) : itgOnly (· ≠ Itg.SCRUB_SUM_READ.off) s (s.scrubCrc l) :=
  State.wr_itg s (by decide) (by decide) _

theorem State.scrubUe_itg (s : State) (off : Nat) : itgOnly (· ≠ Itg.SCRUB_SUM_READ.off) s (s.scrubUe off) := by
  have hcount : itgOnly (· ≠ Itg.SCRUB_SUM_READ.off) s (s.bump pgIntegrity Itg.SCRUB_SUM_UE) :=
    State.bump_itg s (by decide) (by decide) 1
  have hrep : ∀ t : State, itgOnly (· ≠ Itg.SCRUB_SUM_READ.off) t
      ((t.err pgIntegrity 8).eventE pgIntegrity 0x0023 (leBytes 8 off)) := fun t =>
    (State.err_itg ..).trans (State.eventE_itg ..)
  unfold State.scrubUe
  dsimp only
  split
  · exact (hcount.trans (State.noteRise_itg ..)).trans (hrep _)
  · refine (hcount.trans (State.wrs_itg _ _ ?_)).trans (hrep _)
    simp only [List.forall_mem_cons]
    decide

theorem State.scrubRead_skips {s : State} {off : Nat} (h : s.rd (pgHbm (off / 2 ^ 36)) Hbm.HSTATE 0 = 3) :
    counted s (s.scrubRead off) pgIntegrity Itg.SCRUB_SUM_SKIP 1 := by
  unfold State.scrubRead
  rw [if_pos h]
  exact State.counted_itg s 1 (by decide) (by decide) rfl

theorem State.scrubRead_reads {s : State} {off : Nat} (h : s.rd (pgHbm (off / 2 ^ 36)) Hbm.HSTATE 0 ≠ 3) :
    counted s (s.scrubRead off) pgIntegrity Itg.SCRUB_SUM_READ 1 := by
  have hroom : itgOnly readOffs s (if s.mergeHeld (off / 64) then s else s.mergeRoom false (off / 2 ^ 36)) := by
    split
    · exact .refl ..
    · rw [State.mergeRoom_eq]
      exact .of_eq rfl rfl rfl
  have hbefore := (hroom.trans (State.touchLine_itg _ spHbm (off / 64))).own (r := Itg.SCRUB_SUM_READ) (i := 0) (by decide)
    (by unfold readOffs; decide)
  have hcount := State.counted_itg
    ((if s.mergeHeld (off / 64) then s else s.mergeRoom false (off / 2 ^ 36)).touchLine false spHbm (off / 64))
    (r := Itg.SCRUB_SUM_READ) 1 (by decide) (by decide) rfl
  unfold State.scrubRead
  rw [if_neg h]
  unfold counted at hcount ⊢
  dsimp only
  rw [hbefore] at hcount
  rw [← hcount]
  cases s.decoded spHbm (off / 64) with
  | clean => exact (State.scrubCrc_itg ..).own (by decide) (by decide)
  | corrected => exact ((State.bump_itg _ (by decide) (by decide) 1).trans (State.scrubCrc_itg ..)).own (by decide) (by decide)
  | poisoned => exact ((State.bump_itg _ (by decide) (by decide) 1).trans (State.scrubCrc_itg ..)).own (by decide) (by decide)
  | address => exact ((State.scrubUe_itg ..).trans (State.scrubCrc_itg ..)).own (by decide) (by decide)
  | uncorrectable => exact ((State.scrubUe_itg ..).trans (State.scrubCrc_itg ..)).own (by decide) (by decide)

theorem State.scrubGranule_none {s : State} (h : s.scrub = none) : s.scrubGranule = s := by
  unfold State.scrubGranule
  rw [h]

/-- With the rate used up the pass waits for the next tick; else one granule is read, and the pass moves on or ends. -/
theorem State.scrubGranule_some {s : State} {x : Scrub} {n : Nat} (hx : s.scrub = some x)
    (hn : n = if x.tick = s.now then x.n else 0) : s.scrubGranule = if n < s.rd pgIntegrity Itg.SCRUB_RATE 0 then
      (if x.fin ≤ x.pos + 64 then (s.scrubRead x.pos).scrubStop 2
       else { s.scrubRead x.pos with scrub := some { pos := x.pos + 64, fin := x.fin, tick := s.now, n := n + 1 } }) else s := by
  subst hn
  unfold State.scrubGranule
  rw [hx]

/-- What the granule read leaves counted stays so as the pass moves on or ends. -/
theorem granuleIsScrubbed {x : Scrub} {n : Nat} {s : State} (hx : s.scrub = some x) (hn : n = if x.tick = s.now then x.n else 0) :
    ∃ t, exec .scrubGranule s = .next t ∧
      (s.rd pgIntegrity Itg.SCRUB_RATE 0 ≤ n → t = s) ∧
      (n < s.rd pgIntegrity Itg.SCRUB_RATE 0 →
        (s.rd (pgHbm (x.pos / 2 ^ 36)) Hbm.HSTATE 0 = 3 → counted s t pgIntegrity Itg.SCRUB_SUM_SKIP 1) ∧
        (s.rd (pgHbm (x.pos / 2 ^ 36)) Hbm.HSTATE 0 ≠ 3 → counted s t pgIntegrity Itg.SCRUB_SUM_READ 1) ∧
        (x.fin ≤ x.pos + 64 → t.scrub = none ∧ t.rd pgIntegrity Itg.SCRUB_STATE 0 = 2) ∧
        (x.pos + 64 < x.fin → t.scrub = some { pos := x.pos + 64, fin := x.fin, tick := s.now, n := n + 1 })) := by
  refine ⟨s.scrubGranule, rfl, fun h => ?_, fun h => ?_⟩ <;> rw [State.scrubGranule_some hx hn]
  · exact if_neg (Nat.not_lt.2 h)
  · rw [if_pos h]
    by_cases hlast : x.fin ≤ x.pos + 64
    · obtain ⟨hnone, hstate, hkept⟩ := State.scrubStop_effect (s.scrubRead x.pos) (st := 2) (by decide)
      rw [if_pos hlast]
      refine ⟨fun hs => ?_, fun hs => ?_, fun _ => ⟨hnone, hstate⟩, fun hl => absurd hlast (Nat.not_le.2 hl)⟩
      · exact (hkept.own (by decide) (by decide)).trans (State.scrubRead_skips hs)
      · exact (hkept.own (by decide) (by decide)).trans (State.scrubRead_reads hs)
    · rw [if_neg hlast]
      exact ⟨State.scrubRead_skips, State.scrubRead_reads, fun hl => absurd hl hlast, fun _ => rfl⟩

end Sys2Proof.Machine
end

section
/-! SUPPORT. Spot-check results (R338, R339): each compared element is counted, and one that differs is an error and a
tick fault. -/

namespace Sys2Proof.Machine

open Sys2Proof

/-! ## What a check leaves -/

/-- A check counts nothing at SPOT_CNT, clears no error bit, and takes no fault back. -/
def spotKept (s t : State) : Prop :=
  itgOnly (· ≠ Itg.SPOT_CNT.off) s t ∧ ∀ x ∈ s.watch.raised, x ∈ t.watch.raised

theorem spotKept.regs {s t : State} (h : spotKept s t) : itgOnly (· ≠ Itg.SPOT_CNT.off) s t := h.1

theorem spotKept.raised {s t : State} (h : spotKept s t) : ∀ x ∈ s.watch.raised, x ∈ t.watch.raised := h.2

theorem spotKept.trans {s t u : State} (h : spotKept s t) (h' : spotKept t u) : spotKept s u :=
  ⟨h.regs.trans h'.regs, fun x hx => h'.raised x (h.raised x hx)⟩

theorem spotKept_of_watch {s t : State} (h : itgOnly (· ≠ Itg.SPOT_CNT.off) s t) (hw : t.watch = s.watch) : spotKept s t :=
  ⟨h, fun _ hx => hw ▸ hx⟩

/-- A fault raised is a fault more. -/
theorem State.raise_spotKept (s : State) (c e : Nat) : spotKept s (s.raise c e) :=
  ⟨State.raise_itg .., fun _ hx => List.mem_append_left _ hx⟩

theorem State.err_spotKept (s : State) (c : Nat) : spotKept s (s.err pgIntegrity c) :=
  spotKept_of_watch (State.err_itg ..) (State.err_watch ..)

/-- The mask of quarantined sites and PG_ERR 7 alone are written as a site is quarantined (R342). -/
theorem State.quarantine_spotKept (s : State) (site : Nat) : spotKept s (s.quarantine site) := by
  have hmask : ∀ v, spotKept s (s.wri pgIntegrity Itg.QUAR_MASK (site / 32) v) := fun v =>
    spotKept_of_watch (State.wri_itg s (by simp only [Itg.QUAR_MASK]; omega) (by simp only [Itg.QUAR_MASK, Itg.SPOT_CNT]; omega) v)
      (State.wri_watch ..)
  unfold State.quarantine
  split
  · exact ⟨.refl .., fun _ hx => hx⟩
  · dsimp only
    split
    · exact ((hmask _).trans (State.err_spotKept ..)).trans (State.raise_spotKept ..)
    · exact hmask _

/-! ## The record -/

theorem State.spotRecord_itg (s : State) (x : Spot) (elem got exp : Nat) :
    itgOnly (· ≠ Itg.SPOT_CNT.off) s (s.spotRecord x elem got exp) := by
  unfold State.spotRecord
  split
  · exact State.noteRise_itg ..
  · dsimp only
    have hword : ∀ t : State, ∀ i ∈ List.range 3, itgOnly (· ≠ Itg.SPOT_CNT.off) t
        ((t.wri pgIntegrity Itg.SPOT_GOT i (got / 2 ^ (32 * i))).wri pgIntegrity Itg.SPOT_EXP i (exp / 2 ^ (32 * i))) := by
      intro t i hi
      have hi3 := List.mem_range.1 hi
      exact (State.wri_itg t (by simp only [Itg.SPOT_GOT]; omega) (by simp only [Itg.SPOT_GOT, Itg.SPOT_CNT]; omega) _).trans
        (State.wri_itg _ (by simp only [Itg.SPOT_EXP]; omega) (by simp only [Itg.SPOT_EXP, Itg.SPOT_CNT]; omega) _)
    refine itgOnly.trans ?_ (itgOnly.foldl _ _ hword)
    refine State.wrs_itg _ s ?_
    simp only [List.forall_mem_cons]
    decide

theorem State.spotRecord_watch (s : State) (x : Spot) (elem got exp : Nat) : (s.spotRecord x elem got exp).watch = s.watch :=
  (State.spotRecord_parts (M := (· = .regs)) (parts_refl s) x elem got exp rfl).same_of (p := .watch) (by simp)

/-! ## One element -/

/-- An element that differs: recorded, counted, reported, a tick fault, and its site in quarantine. -/
def State.spotFailed (s : State) (x : Spot) (elem got exp : Nat) : State :=
  ((((s.spotRecord x elem got exp).bump pgIntegrity Itg.SPOT_FAIL).err pgIntegrity 5).tickFault).quarantine (siteOf x.tile)

theorem State.spotCompare_eq (s : State) (x : Spot) (elem got exp : Nat) : s.spotCompare x elem got exp =
    if got = exp then s.bump pgIntegrity Itg.SPOT_CNT else (s.bump pgIntegrity Itg.SPOT_CNT).spotFailed x elem got exp := rfl

theorem State.spotFailed_effect (s : State) (x : Spot) (elem got exp : Nat) : spotKept s (s.spotFailed x elem got exp) ∧
    errSet (s.spotFailed x elem got exp) pgIntegrity 5 ∧ (clsAbort, 0) ∈ (s.spotFailed x elem got exp).watch.raised := by
  have hrec : spotKept s ((s.spotRecord x elem got exp).bump pgIntegrity Itg.SPOT_FAIL) :=
    spotKept_of_watch ((State.spotRecord_itg ..).trans (State.bump_itg _ (by decide) (by decide) 1))
      ((State.bump_watch ..).trans (State.spotRecord_watch ..))
  have hfault := State.raise_spotKept (((s.spotRecord x elem got exp).bump pgIntegrity Itg.SPOT_FAIL).err pgIntegrity 5) clsAbort 0
  have hquar := State.quarantine_spotKept
    ((((s.spotRecord x elem got exp).bump pgIntegrity Itg.SPOT_FAIL).err pgIntegrity 5).tickFault) (siteOf x.tile)
  have hafter := hfault.trans hquar
  refine ⟨(hrec.trans (State.err_spotKept _ 5)).trans hafter, hafter.regs.errs _ _ (by decide) (State.err_bit _ _ _ (by decide)),
    ?_⟩
  exact hquar.raised _ (List.mem_append_right _ (List.mem_singleton_self _))

theorem State.spotCompare_effect (s : State) (x : Spot) (elem got exp : Nat) :
    (s.spotCompare x elem got exp).rd pgIntegrity Itg.SPOT_CNT 0 = (s.rd pgIntegrity Itg.SPOT_CNT 0 + 1) % 2 ^ 32 ∧
    errsKept s (s.spotCompare x elem got exp) ∧ (∀ y ∈ s.watch.raised, y ∈ (s.spotCompare x elem got exp).watch.raised) ∧
    (got ≠ exp → errSet (s.spotCompare x elem got exp) pgIntegrity 5 ∧
      (clsAbort, 0) ∈ (s.spotCompare x elem got exp).watch.raised) := by
  have hcount := State.counted_itg s (r := Itg.SPOT_CNT) 1 (by decide) (by decide) rfl
  have hbump : errsKept s (s.bump pgIntegrity Itg.SPOT_CNT) := (State.bump_itg (P := fun _ => True) s (by decide) trivial 1).errs
  have hwatch : (s.bump pgIntegrity Itg.SPOT_CNT).watch = s.watch := State.bump_watch ..
  rw [State.spotCompare_eq]
  split
  case isTrue heq => exact ⟨hcount, hbump, fun y hy => hwatch ▸ hy, fun hne => absurd heq hne⟩
  case isFalse =>
    obtain ⟨hkept, herr, hraised⟩ := State.spotFailed_effect (s.bump pgIntegrity Itg.SPOT_CNT) x elem got exp
    exact ⟨(hkept.regs.own (by decide) (by decide)).trans hcount,
      fun p j hj h => hkept.regs.errs p j hj (hbump p j hj h), fun y hy => hkept.raised y (hwatch ▸ hy), fun _ => ⟨herr, hraised⟩⟩

/-! ## A sample -/

/-- What a sample's comparison leaves: no error bit clears and no fault goes. -/
theorem State.spotAll_retains (x : Spot) : ∀ (es : List Nat) (vs : List (Option Nat)) (got : List Nat) (s : State),
    errsKept s (s.spotAll x es vs got) ∧ ∀ y ∈ s.watch.raised, y ∈ (s.spotAll x es vs got).watch.raised
  | [], _, _, _ => ⟨fun _ _ _ h => h, fun _ hy => hy⟩
  | _ :: _, [], _, _ => ⟨fun _ _ _ h => h, fun _ hy => hy⟩
  | _ :: es, none :: vs, got, s => State.spotAll_retains x es vs (got.drop 1) s
  | e :: es, some v :: vs, got, s => by
    obtain ⟨-, herrs, hraised, -⟩ := State.spotCompare_effect s x e (got.headD v) v
    obtain ⟨herrs', hraised'⟩ := State.spotAll_retains x es vs (got.drop 1) (s.spotCompare x e (got.headD v) v)
    exact ⟨fun p j hj h => herrs' p j hj (herrs p j hj h), fun y hy => hraised' y (hraised y hy)⟩

/-- Each element that is not poisoned is counted once. -/
theorem State.spotAll_counts (x : Spot) : ∀ (es : List Nat) (vs : List (Option Nat)) (got : List Nat) (s : State),
    es.length = vs.length → (s.spotAll x es vs got).rd pgIntegrity Itg.SPOT_CNT 0 =
      if vs.filter Option.isSome = [] then s.rd pgIntegrity Itg.SPOT_CNT 0
      else (s.rd pgIntegrity Itg.SPOT_CNT 0 + (vs.filter Option.isSome).length) % 2 ^ 32
  | [], [], _, _, _ => rfl
  | [], _ :: _, _, _, h => nomatch h
  | _ :: _, [], _, _, h => nomatch h
  | _ :: es, none :: vs, got, s, h => State.spotAll_counts x es vs (got.drop 1) s (Nat.succ.inj h)
  | e :: es, some v :: vs, got, s, h => by
    obtain ⟨hcount, -⟩ := State.spotCompare_effect s x e (got.headD v) v
    have hrest := State.spotAll_counts x es vs (got.drop 1) (s.spotCompare x e (got.headD v) v) (Nat.succ.inj h)
    rw [State.spotAll, hrest, hcount]
    have hsome : (some v :: vs).filter Option.isSome = some v :: vs.filter Option.isSome := rfl
    rw [hsome, if_neg (List.cons_ne_nil _ _), List.length_cons]
    split
    case isTrue hnil => rw [hnil, List.length_nil]
    case isFalse => omega

/-- An element whose result differs is an error and a tick fault, whatever comes before and after it. -/
theorem State.spotAll_differs (x : Spot) : ∀ (es : List Nat) (vs : List (Option Nat)) (got : List Nat) (s : State) (j v w : Nat),
    es.length = vs.length → vs[j]? = some (some v) → got[j]? = some w → w ≠ v →
    errSet (s.spotAll x es vs got) pgIntegrity 5 ∧ (clsAbort, 0) ∈ (s.spotAll x es vs got).watch.raised
  | [], _ :: _, _, _, _, _, _, h, _, _, _ => nomatch h
  | _, [], _, _, _, _, _, _, hv, _, _ => nomatch hv
  | _ :: _, _ :: _, [], _, _, _, _, _, _, hw, _ => nomatch hw
  | e :: es, some u :: vs, g :: gs, s, 0, v, w, _, hv, hw, hne => by
    obtain rfl : u = v := Option.some.inj (Option.some.inj hv)
    obtain rfl : g = w := Option.some.inj hw
    obtain ⟨-, -, -, hdiff⟩ := State.spotCompare_effect s x e g u
    obtain ⟨herrs, hraised⟩ := State.spotAll_retains x es vs gs (s.spotCompare x e g u)
    exact ⟨herrs _ _ (by decide) (hdiff hne).1, hraised _ (hdiff hne).2⟩
  | _ :: _, none :: _, _ :: _, _, 0, _, _, _, hv, _, _ => nomatch Option.some.inj hv
  | e :: es, some u :: vs, g :: gs, s, j + 1, v, w, h, hv, hw, hne =>
    State.spotAll_differs x es vs gs (s.spotCompare x e g u) j v w (Nat.succ.inj h) hv hw hne
  | _ :: es, none :: vs, _ :: gs, s, j + 1, v, w, h, hv, hw, hne =>
    State.spotAll_differs x es vs gs s j v w (Nat.succ.inj h) hv hw hne

/-- The sample closed leaves the register file and the faults. -/
theorem State.spotClose_same (s : State) (key : Nat) (x : Spot) :
    (∀ p r i, (s.spotClose key x).rd p r i = s.rd p r i) ∧ (s.spotClose key x).watch = s.watch := by
  unfold State.spotClose State.setSpot
  split
  · exact ⟨State.rd_of_eq rfl rfl rfl, rfl⟩
  · exact ⟨State.rd_of_eq rfl rfl rfl, rfl⟩

theorem State.spotDone_none {s : State} {c : Nat} {got : List Nat}
    (h : AL.get s.spots (if (AL.get s.spots (8 + c)).isSome then 8 + c else c) = none) : s.spotDone c got = s := by
  unfold State.spotDone
  dsimp only
  rw [h]

theorem State.spotDone_some {s : State} {c : Nat} {got : List Nat} {x : Spot}
    (h : AL.get s.spots (if (AL.get s.spots (8 + c)).isSome then 8 + c else c) = some x) : s.spotDone c got =
    if x.exp.isEmpty then s
    else (s.spotAll x x.elems x.exp got).spotClose (if (AL.get s.spots (8 + c)).isSome then 8 + c else c) x := by
  unfold State.spotDone
  dsimp only
  rw [h]

theorem spotCheckIsCompared (c key : Nat) (got : List Nat) (s : State)
    (hkey : key = if (AL.get s.spots (8 + c)).isSome then 8 + c else c) :
    ∃ t, exec (.spotCheckComplete c got) s = .next t ∧
    (AL.get s.spots key = none → t = s) ∧
    ∀ x, AL.get s.spots key = some x → (x.exp = [] → t = s) ∧
      (x.exp ≠ [] → x.elems.length = x.exp.length →
        (x.exp.filter Option.isSome ≠ [] →
          counted s t pgIntegrity Itg.SPOT_CNT (x.exp.filter Option.isSome).length) ∧
        (∀ (j v w : Nat), x.exp[j]? = some (some v) → got[j]? = some w → w ≠ v →
          errSet t pgIntegrity 5 ∧ (clsAbort, 0) ∈ t.watch.raised)) := by
  subst hkey
  refine ⟨s.spotDone c got, rfl, State.spotDone_none, fun x hx => ⟨fun hnil => ?_, fun hne hlen => ?_⟩⟩
  · rw [State.spotDone_some hx, hnil]
    rfl
  · obtain ⟨hrd, hwatch⟩ := State.spotClose_same (s.spotAll x x.elems x.exp got)
      (if (AL.get s.spots (8 + c)).isSome then 8 + c else c) x
    rw [State.spotDone_some hx, if_neg (by simpa using hne)]
    refine ⟨fun hsome => ?_, fun j v w hv hw hvw => ?_⟩
    · unfold counted
      rw [hrd, State.spotAll_counts x _ _ _ _ hlen, if_neg hsome]
    · unfold errSet
      rw [hrd, hwatch]
      exact State.spotAll_differs x _ _ _ _ j v w hlen hv hw hvw

end Sys2Proof.Machine
end

section
/-! SUPPORT. Margin evaluations (R341): what one site's or lane's evaluation leaves of the others, of the thresholds and of the
calibration, so that each site's reading is the one of the state before. -/

namespace Sys2Proof.Machine

open Sys2Proof

/-! ## What is kept of a site -/

/-- Entry `i` of the readings, every field but the masks of quarantine and warning, and every warning stay. -/
def marginKept (i : Nat) (s t : State) : Prop :=
  itgOnly (Itg.WARN_MASK.off ≤ ·) s t ∧ AL.get t.margin i = AL.get s.margin i ∧
    ∀ k j, k < 2 → j < 32 → bit (s.rd pgIntegrity Itg.WARN_MASK k) j = true → bit (t.rd pgIntegrity Itg.WARN_MASK k) j = true

namespace marginKept

variable {i : Nat} {s t : State}

theorem only (h : marginKept i s t) : itgOnly (Itg.WARN_MASK.off ≤ ·) s t := h.1

theorem entry (h : marginKept i s t) : AL.get t.margin i = AL.get s.margin i := h.2.1

theorem warned (h : marginKept i s t) : ∀ k j, k < 2 → j < 32 →
    bit (s.rd pgIntegrity Itg.WARN_MASK k) j = true → bit (t.rd pgIntegrity Itg.WARN_MASK k) j = true := h.2.2

theorem refl (i : Nat) (s : State) : marginKept i s s := ⟨.refl .., rfl, fun _ _ _ _ h => h⟩

theorem trans {u : State} (h : marginKept i s t) (h' : marginKept i t u) : marginKept i s u :=
  ⟨h.only.trans h'.only, h'.entry.trans h.entry, fun k j hk hj hb => h'.warned k j hk hj (h.warned k j hk hj hb)⟩

/-- What leaves the warnings alone. -/
theorem of_itg (h : itgOnly (Itg.QUAR_MASK.off ≤ ·) s t) (he : AL.get t.margin i = AL.get s.margin i) : marginKept i s t := by
  refine ⟨h.mono fun _ ho => Nat.le_trans (by decide) ho, he, fun k j hk _ hb => ?_⟩
  rw [h.own (by simp only [Itg.WARN_MASK]; omega) (by simp only [Itg.WARN_MASK, Itg.QUAR_MASK]; omega)]
  exact hb

theorem of_itg_margin (h : itgOnly (Itg.QUAR_MASK.off ≤ ·) s t) (hm : t.margin = s.margin) : marginKept i s t :=
  of_itg h (by rw [hm])

theorem foldl {α : Type} {f : State → α → State} : ∀ (l : List α) (s : State), (∀ t, ∀ x ∈ l, marginKept i t (f t x)) →
    marginKept i s (l.foldl f s)
  | [], s, _ => refl i s
  | x :: l, s, h => (h s x (List.mem_cons_self ..)).trans (foldl l (f s x) fun t y hy => h t y (List.mem_cons_of_mem _ hy))

/-- A threshold. -/
theorem setting (h : marginKept i s t) {r : Reg} (ho : 0x100 ≤ r.off) (hlt : r.off < Itg.WARN_MASK.off) :
    t.rd pgIntegrity r 0 = s.rd pgIntegrity r 0 :=
  h.only.own (i := 0) ho fun ⟨_, hle⟩ => absurd hlt (Nat.not_lt.2 hle)

/-- A site's droop by its trim. -/
theorem droop (h : marginKept i s t) (k raw : Nat) : t.droopReading k raw = s.droopReading k raw := by
  have htrim : t.rd pgLantern Cal.CAL_VMON_TRIM k = s.rd pgLantern Cal.CAL_VMON_TRIM k :=
    h.only.other (by decide) (by decide) (by decide) (by decide)
  unfold State.droopReading
  rw [htrim]

end marginKept

/-! ## The steps of an evaluation -/

theorem State.err_marginKept (s : State) (i c : Nat) : marginKept i s (s.err pgIntegrity c) :=
  .of_itg_margin (State.err_itg ..) (State.err_margin ..)

theorem State.raise_marginKept (s : State) (i c e : Nat) : marginKept i s (s.raise c e) :=
  .of_itg_margin (State.raise_itg ..) rfl

theorem State.reportLink_marginKept (s : State) (i d : Nat) : marginKept i s (s.reportLink d) :=
  .of_itg_margin (.of_rd (State.rd_reportLink s d))
    ((State.reportLink_parts (M := (· ≠ .margin)) (parts_refl s) d (by decide) (by decide)).same_of (p := .margin) (by simp))

theorem State.marginPut_itg (P : Nat → Prop) (s : State) (k : Nat) (v : Int) (past : Bool) : itgOnly P s (s.marginPut k v past) :=
  .of_eq rfl rfl rfl

theorem State.marginPut_marginKept (s : State) {i k : Nat} (hk : i ≠ k) (v : Int) (past : Bool) :
    marginKept i s (s.marginPut k v past) :=
  .of_itg (State.marginPut_itg ..) (AL.get_put_ne _ _ hk)

/-- A warning adds its site's bit. -/
theorem State.rd_warn (s : State) (site k : Nat) : (s.warn site).rd pgIntegrity Itg.WARN_MASK k =
    if k = site / 32 then setBit (s.rd pgIntegrity Itg.WARN_MASK (site / 32)) (site % 32) % 2 ^ 32
    else s.rd pgIntegrity Itg.WARN_MASK k := by
  unfold State.warn
  split
  case isTrue h =>
    subst h
    exact State.rd_wri_itg_self _ (by simp only [Itg.WARN_MASK]; omega) _
  case isFalse h =>
    rw [(State.wri_itg (P := (· = Itg.WARN_MASK.off + 4 * (site / 32))) _ (by simp only [Itg.WARN_MASK]; omega) rfl _).own
      (by simp only [Itg.WARN_MASK]; omega) (by simp only [Itg.WARN_MASK]; omega), State.noteRise_rd]

theorem State.warn_sets (s : State) (site : Nat) :
    bit ((s.warn site).rd pgIntegrity Itg.WARN_MASK (site / 32)) (site % 32) = true := by
  rw [State.rd_warn, if_pos rfl, bit_mod (Nat.mod_lt _ (by decide))]
  exact bit_setBit_self ..

theorem State.warn_marginKept (s : State) (i site : Nat) : marginKept i s (s.warn site) := by
  refine ⟨(State.noteRise_itg ..).trans (State.wri_itg _ ?_ ?_ _), ?_, fun k j _ hj hb => ?_⟩
  · simp only [Itg.WARN_MASK]
    omega
  · exact Nat.le_add_right ..
  · unfold State.warn
    rw [State.wri_margin, State.noteRise_margin]
  · rw [State.rd_warn]
    split
    case isTrue h =>
      rw [bit_mod hj, ← h]
      exact bit_setBit_of hb
    case isFalse => exact hb

theorem State.quarantine_marginKept (s : State) (i site : Nat) : marginKept i s (s.quarantine site) := by
  have hmask : ∀ v, marginKept i s (s.wri pgIntegrity Itg.QUAR_MASK (site / 32) v) := fun v =>
    .of_itg_margin (State.wri_itg s (by simp only [Itg.QUAR_MASK]; omega) (Nat.le_add_right ..) v) (State.wri_margin ..)
  unfold State.quarantine
  split
  · exact .refl ..
  · dsimp only
    split
    · exact ((hmask _).trans (State.err_marginKept ..)).trans (State.raise_marginKept ..)
    · exact hmask _

theorem State.quarLane_marginKept (s : State) (i lane : Nat) : marginKept i s (s.quarLane lane) := by
  have hmask : ∀ v, marginKept i s (s.wri pgIntegrity Itg.OPT_QUAR_LANES (lane / 32) v) := fun v =>
    .of_itg_margin (State.wri_itg s (by simp only [Itg.OPT_QUAR_LANES]; omega)
      (Nat.le_trans (by decide) (Nat.le_add_right ..)) v) (State.wri_margin ..)
  unfold State.quarLane
  dsimp only
  split
  · exact .refl ..
  · split
    · exact (hmask _).trans (State.reportLink_marginKept ..)
    · exact hmask _

/-- A lane's evaluation leaves every site's. -/
theorem State.marginLane_marginKept (s : State) {i : Nat} (hi : i < 64) (rx : List Int) (lane : Nat) :
    marginKept i s (s.marginLane rx lane) := by
  unfold State.marginLane
  split
  · exact .refl ..
  case h_2 raw _ =>
    dsimp only
    refine (State.marginPut_marginKept s (k := 128 + lane) (by omega) (s.laneReading lane raw)
      (s.laneReading lane raw ≤ toSigned 16 (s.rd pgIntegrity Itg.OPT_QUAR))).trans ?_
    generalize s.marginPut (128 + lane) _ _ = t
    have hwarn : marginKept i t
        (if s.laneReading lane raw ≤ toSigned 16 (t.rd pgIntegrity Itg.OPT_WARN) then t.warn (56 + lane / 32) else t) := by
      split
      · exact State.warn_marginKept ..
      · exact .refl ..
    have hquar : ∀ u : State, marginKept i u (if u.crossed (128 + lane) then u.quarLane lane else u) := by
      intro u
      split
      · exact State.quarLane_marginKept ..
      · exact .refl ..
    exact hwarn.trans (hquar _)

/-! ## One site -/

/-- The warning that a site's readings bring. -/
def State.warnAt (s : State) (i d n : Nat) : State :=
  if s.rd pgIntegrity Itg.DROOP_WARN ≤ d || s.rd pgIntegrity Itg.CAN_WARN ≤ n then s.warn i else s

/-- The quarantine of a site whose run is long enough. -/
def State.quarantineAt (s : State) (i : Nat) : State := if s.crossed i || s.crossed (64 + i) then s.quarantine i else s

theorem State.marginSite_eq (s : State) (droop canary : List Nat) (i : Nat) : s.marginSite droop canary i =
    State.quarantineAt (State.warnAt ((s.marginPut i (s.droopReading i (droop.getD i 0))
      (s.rd pgIntegrity Itg.DROOP_QUAR ≤ s.droopReading i (droop.getD i 0))).marginPut (64 + i) (canary.getD i 0)
      (s.rd pgIntegrity Itg.CAN_QUAR ≤ canary.getD i 0)) i (s.droopReading i (droop.getD i 0)) (canary.getD i 0)) i := rfl

theorem State.quarantineAt_marginKept (s : State) (k i : Nat) : marginKept k s (s.quarantineAt i) := by
  unfold State.quarantineAt
  split
  · exact State.quarantine_marginKept ..
  · exact .refl ..

theorem State.warnAt_marginKept (s : State) (k i d n : Nat) : marginKept k s (s.warnAt i d n) := by
  unfold State.warnAt
  split
  · exact State.warn_marginKept ..
  · exact .refl ..

theorem State.warnAt_warns {s : State} {i d n : Nat}
    (h : s.rd pgIntegrity Itg.DROOP_WARN 0 ≤ d ∨ s.rd pgIntegrity Itg.CAN_WARN 0 ≤ n) :
    bit ((s.warnAt i d n).rd pgIntegrity Itg.WARN_MASK (i / 32)) (i % 32) = true := by
  unfold State.warnAt
  rw [if_pos (by simpa using h)]
  exact State.warn_sets ..

/-- A site's evaluation leaves every other site's. -/
theorem State.marginSite_marginKept (s : State) {i k : Nat} (hk : k < 64) (hne : k ≠ i) (droop canary : List Nat) :
    marginKept k s (s.marginSite droop canary i) := by
  rw [State.marginSite_eq]
  exact ((State.marginPut_marginKept s hne _ _).trans (State.marginPut_marginKept _ (by omega) _ _)).trans
    ((State.warnAt_marginKept ..).trans (State.quarantineAt_marginKept ..))

/-- What an evaluation of site `i` from the readings of `s` leaves in `t`. -/
def siteJudged (s t : State) (droop canary : List Nat) (i : Nat) : Prop :=
  AL.get t.margin i = some ((s.droopReading i (droop.getD i 0) : Int),
    if s.rd pgIntegrity Itg.DROOP_QUAR 0 ≤ s.droopReading i (droop.getD i 0) then (AL.getD s.margin i ((0 : Int), 0)).2 + 1 else 0) ∧
  (s.rd pgIntegrity Itg.DROOP_WARN 0 ≤ s.droopReading i (droop.getD i 0) ∨ s.rd pgIntegrity Itg.CAN_WARN 0 ≤ canary.getD i 0 →
    bit (t.rd pgIntegrity Itg.WARN_MASK (i / 32)) (i % 32) = true)

theorem State.marginSite_judged (s : State) {i : Nat} (hi : i < 64) (droop canary : List Nat) :
    siteJudged s (s.marginSite droop canary i) droop canary i := by
  rw [State.marginSite_eq]
  generalize hd : s.droopReading i (droop.getD i 0) = d
  have hput : AL.get (s.marginPut i d (s.rd pgIntegrity Itg.DROOP_QUAR ≤ d)).margin i =
      some ((d : Int), if s.rd pgIntegrity Itg.DROOP_QUAR 0 ≤ d then (AL.getD s.margin i ((0 : Int), 0)).2 + 1 else 0) := by
    simp [State.marginPut]
  refine ⟨?_, fun hw => ?_⟩
  · rw [hd, (State.quarantineAt_marginKept ..).entry, (State.warnAt_marginKept ..).entry,
      (State.marginPut_marginKept _ (by omega) _ _).entry, hput]
  · rw [hd] at hw
    exact (State.quarantineAt_marginKept _ i i).warned _ _ (by omega) (Nat.mod_lt _ (by decide)) (State.warnAt_warns hw)

/-- The readings of `i` as the steps before left them, and what the steps after leave of its evaluation. -/
theorem siteJudged.between {s t u v : State} {droop canary : List Nat} {i : Nat} (hi : i < 64) (h : marginKept i s t)
    (hj : siteJudged t u droop canary i) (h' : marginKept i u v) : siteJudged s v droop canary i := by
  have hentry : AL.getD t.margin i ((0 : Int), 0) = AL.getD s.margin i ((0 : Int), 0) := by
    unfold AL.getD
    rw [h.entry]
  have hq : t.rd pgIntegrity Itg.DROOP_QUAR 0 = s.rd pgIntegrity Itg.DROOP_QUAR 0 := h.setting (by decide) (by decide)
  have hw : t.rd pgIntegrity Itg.DROOP_WARN 0 = s.rd pgIntegrity Itg.DROOP_WARN 0 := h.setting (by decide) (by decide)
  have hc : t.rd pgIntegrity Itg.CAN_WARN 0 = s.rd pgIntegrity Itg.CAN_WARN 0 := h.setting (by decide) (by decide)
  obtain ⟨he, hb⟩ := hj
  rw [h.droop, hentry, hq] at he
  rw [h.droop, hw, hc] at hb
  exact ⟨h'.entry.trans he, fun hn => h'.warned _ _ (by omega) (Nat.mod_lt _ (by decide)) (hb hn)⟩

/-! ## All sites -/

theorem State.marginSites_judged (s : State) {i : Nat} (hi : i < 64) (droop canary : List Nat) :
    siteJudged s ((List.range 64).foldl (fun t i => t.marginSite droop canary i) s) droop canary i := by
  obtain ⟨before, after, hsplit⟩ := List.append_of_mem (List.mem_range.2 hi)
  obtain ⟨hbefore, hafter⟩ : i ∉ before ∧ i ∉ after := by
    have hnodup : (before ++ i :: after).Nodup := hsplit ▸ List.nodup_range
    simp only [List.nodup_middle, List.nodup_cons, List.mem_append, not_or] at hnodup
    exact hnodup.1
  rw [hsplit, List.foldl_append, List.foldl_cons]
  refine .between hi (marginKept.foldl before s fun t j hj => ?_) (State.marginSite_judged _ hi droop canary)
    (marginKept.foldl after _ fun t j hj => ?_)
  · exact State.marginSite_marginKept t hi (fun e => hbefore (e ▸ hj)) droop canary
  · exact State.marginSite_marginKept t hi (fun e => hafter (e ▸ hj)) droop canary

/-- The lanes' readings and the evaluation's tick come after the sites'. -/
theorem State.marginLanes_marginKept (s : State) {i : Nat} (hi : i < 64) (rx : List Int) (now : Nat) :
    marginKept i s (((List.range 192).foldl (fun t i => t.marginLane rx i) s).marginPut 320 now false) :=
  (marginKept.foldl _ s fun t lane _ => State.marginLane_marginKept t hi rx lane).trans
    (State.marginPut_marginKept _ (by omega) _ _)

/-- The evaluation clears no error bit. -/
theorem State.marginSites_errs (s : State) (droop canary : List Nat) :
    errsKept s ((List.range 64).foldl (fun t i => t.marginSite droop canary i) s) := by
  refine (itgOnly.foldl (P := (Itg.WARN_MASK.off ≤ ·)) _ s fun t i _ => ?_).errs
  rw [State.marginSite_eq]
  exact ((State.marginPut_itg ..).trans (State.marginPut_itg ..)).trans
    ((State.warnAt_marginKept _ 0 ..).trans (State.quarantineAt_marginKept ..)).only

theorem anyWarn_of_site {s : State} {droop canary : List Nat} (rx : List Int) {i : Nat} (hi : i < 64)
    (h : s.rd pgIntegrity Itg.DROOP_WARN 0 ≤ s.droopReading i (droop.getD i 0) ∨
      s.rd pgIntegrity Itg.CAN_WARN 0 ≤ canary.getD i 0) :
    s.anyWarn droop canary rx = true := by
  unfold State.anyWarn
  rw [Bool.or_eq_true, List.any_eq_true]
  exact .inl ⟨i, List.mem_range.2 hi, by simpa using h⟩

theorem marginsAreEvaluated (droop canary : List Nat) (rx : List Int) (s : State) : ∃ t,
    exec (.marginEvaluation droop canary rx) s = .next t ∧
    (s.marginDue = false → t = s) ∧ ∀ i, s.marginDue = true → i < 64 →
      AL.get t.margin i = some ((s.droopReading i (droop.getD i 0) : Int),
        if s.rd pgIntegrity Itg.DROOP_QUAR 0 ≤ s.droopReading i (droop.getD i 0)
        then (AL.getD s.margin i ((0 : Int), 0)).2 + 1 else 0) ∧
      (s.rd pgIntegrity Itg.DROOP_WARN 0 ≤ s.droopReading i (droop.getD i 0) ∨ s.rd pgIntegrity Itg.CAN_WARN 0 ≤ canary.getD i 0 →
        bit (t.rd pgIntegrity Itg.WARN_MASK (i / 32)) (i % 32) = true ∧ errSet t pgIntegrity 6) := by
  refine ⟨s.marginEval droop canary rx, rfl, fun h => ?_, fun i hdue hi => ?_⟩ <;> unfold State.marginEval
  · exact if_neg (by simp [h])
  · rw [if_pos hdue]
    dsimp only
    have hreport : marginKept i s (if s.anyWarn droop canary rx then s.err pgIntegrity 6 else s) := by
      split
      · exact State.err_marginKept ..
      · exact .refl ..
    have herr : s.anyWarn droop canary rx = true →
        errSet (if s.anyWarn droop canary rx then s.err pgIntegrity 6 else s) pgIntegrity 6 :=
      fun h => by
        rw [if_pos h]
        exact State.err_bit _ _ _ (by decide)
    generalize (if s.anyWarn droop canary rx then s.err pgIntegrity 6 else s) = u at hreport herr
    have hlanes := State.marginLanes_marginKept ((List.range 64).foldl (fun t i => t.marginSite droop canary i) u) hi rx s.now
    obtain ⟨hentry, hwarned⟩ := siteJudged.between hi hreport (State.marginSites_judged u hi droop canary) hlanes
    refine ⟨hentry, fun hw => ⟨hwarned hw, hlanes.only.errs _ _ (by decide) ?_⟩⟩
    exact State.marginSites_errs u droop canary _ _ (by decide) (herr (anyWarn_of_site rx hi hw))

end Sys2Proof.Machine
end

section
/-! SUPPORT. The voted words, and the checks of a module in service. -/

namespace Sys2Proof.Machine

open Sys2Proof

theorem inServiceChecksRun : InServiceChecksRun :=
  ⟨scrubStarts, scrubAborts, fun _ h => congrArg Host.Outcome.next (State.scrubGranule_none h),
    fun _ _ _ hx hn => granuleIsScrubbed hx hn, spotCheckIsCompared, marginsAreEvaluated⟩

/-- Settles O48: a vote by the copies that differ, and scrub, a spot-check and a margin evaluation each by its own steps. -/
theorem votesAndChecksRun : Obligations.VotesAndChecksRun := ⟨votedWordsAreRepaired, inServiceChecksRun⟩

end Sys2Proof.Machine
end

section
/-! SUPPORT. Boot (R435, Table 18.7): what each phase's own work leaves of the boot registers, and what it writes. -/

namespace Sys2Proof.Machine

open Sys2Proof

/-! ## The boot registers -/

/-- The places that only the phases themselves and the Finial's admission write: the Lantern's boot words and slot word, and
FIN_STATE. -/
def bootPlace (p : PageId) (o : Nat) : Prop := p = pgLantern ∧ (o < 0x280 ∨ o = 0xF00) ∨ p = pgFinial ∧ o < 0x104

/-- They read as before. -/
def bootKept (s t : State) : Prop :=
  ∀ p r i, 0x100 ≤ r.off → bootPlace p (r.off + r.stride * i) → t.rd p r i = s.rd p r i

theorem bootPlace.page {p : PageId} {o : Nat} (h : bootPlace p o) : p = pgLantern ∨ p = pgFinial :=
  h.imp And.left And.left

/-- A page other than the Lantern's and the Finial's. -/
theorem bootPlace.ne {p q : PageId} {o : Nat} (h : bootPlace p o) (h1 : q ≠ pgLantern) (h2 : q ≠ pgFinial) : p ≠ q := by
  rintro rfl
  exact h.page.elim h1 h2

namespace bootKept

theorem reads {s t : State} (h : bootKept s t) : ∀ p r i, 0x100 ≤ r.off → bootPlace p (r.off + r.stride * i) →
    t.rd p r i = s.rd p r i := h

theorem refl (s : State) : bootKept s s := fun _ _ _ _ _ => rfl

theorem trans {s t u : State} (h : bootKept s t) (h' : bootKept t u) : bootKept s u :=
  fun p r i hr hp => (h' p r i hr hp).trans (h p r i hr hp)

theorem of_rd {s t : State} (h : ∀ p r i, t.rd p r i = s.rd p r i) : bootKept s t :=
  fun p r i _ _ => h p r i

theorem of_eq {s t : State} (h1 : t.regs = s.regs) (h2 : t.hidden = s.hidden) (h3 : t.trip = s.trip) : bootKept s t :=
  of_rd (State.rd_of_eq h1 h2 h3)

theorem foldl {α : Type} {f : State → α → State} : ∀ (l : List α) (s : State), (∀ t, ∀ x ∈ l, bootKept t (f t x)) →
    bootKept s (l.foldl f s)
  | [], s, _ => refl s
  | x :: l, s, h => (h s x (List.mem_cons_self ..)).trans (foldl l (f s x) fun t y hy => h t y (List.mem_cons_of_mem _ hy))

theorem phase {s t : State} (h : bootKept s t) : t.bootPhase = s.bootPhase :=
  h.reads _ _ 0 (by decide) (.inl ⟨rfl, .inl (by decide)⟩)

theorem finState {s t : State} (h : bootKept s t) : t.rd pgFinial Fin.FIN_STATE 0 = s.rd pgFinial Fin.FIN_STATE 0 :=
  h.reads _ _ 0 (by decide) (.inr ⟨rfl, by decide⟩)

theorem slotWord {s t : State} (h : bootKept s t) {r : Reg} (hr : r.off = 0xF00) : t.rd pgLantern r 0 = s.rd pgLantern r 0 :=
  h.reads _ _ 0 (by omega) (.inl ⟨rfl, .inr (by omega)⟩)

end bootKept

/-! ## Writes elsewhere -/

section
variable (s : State) {p : PageId} {r : Reg} {i : Nat} (hr : 0x100 ≤ r.off) (ht : p.ty ≠ 0x51)
  (h : ¬ bootPlace p (r.off + r.stride * i))
include hr ht h

theorem State.put_bootKept (v : Nat) : bootKept s (s.put p r i v) := by
  intro q x j _ hq
  refine State.rd_put_block s v (fun e => h ?_) hr ht
  obtain rfl := rkey_page e
  simp only [rkey, RegKey.mk.injEq] at e
  rw [← e.2.2.1]
  exact hq

theorem State.wri_bootKept (v : Nat) : bootKept s (s.wri p r i v) := by
  intro q x j hx hq
  by_cases hpq : q = p
  · subst hpq
    refine State.rd_wri_same s v (.inl fun e => h ?_) hx hr ht
    rw [← e]
    exact hq
  · exact State.rd_wri_other s v hpq hr ht

end

theorem State.wr_bootKept (s : State) {p : PageId} {r : Reg} (hr : 0x100 ≤ r.off) (ht : p.ty ≠ 0x51) (h : ¬ bootPlace p r.off)
    (v : Nat) : bootKept s (s.wr p r v) := State.wri_bootKept s (i := 0) hr ht h v

theorem State.wrs_bootKept {p : PageId} (ht : p.ty ≠ 0x51) : ∀ (l : List (Reg × Nat)) (s : State),
    (∀ x ∈ l, 0x100 ≤ x.1.off ∧ ¬ bootPlace p x.1.off) → bootKept s (s.wrs p l)
  | [], s, _ => .refl s
  | (r, v) :: l, s, h => by
    obtain ⟨h1, h2⟩ := h (r, v) (List.mem_cons_self ..)
    exact (State.wr_bootKept s h1 ht h2 v).trans (State.wrs_bootKept ht l _ fun x hx => h x (List.mem_cons_of_mem _ hx))

/-- Of the Lantern's page, a place at 0x280 or above that is not the slot word. -/
theorem not_bootPlace_lantern {o : Nat} (h1 : 0x280 ≤ o) (h2 : o ≠ 0xF00) : ¬ bootPlace pgLantern o := by
  rintro (⟨-, h | h⟩ | ⟨h, -⟩)
  · exact absurd h (Nat.not_lt.2 h1)
  · exact h2 h
  · exact absurd h (by decide)

theorem not_bootPlace_finial {o : Nat} (h : 0x104 ≤ o) : ¬ bootPlace pgFinial o := by
  rintro (⟨h', -⟩ | ⟨-, h'⟩)
  · exact absurd h' (by decide)
  · exact absurd h' (Nat.not_lt.2 h)

theorem not_bootPlace_page {p : PageId} {o : Nat} (h1 : p ≠ pgLantern) (h2 : p ≠ pgFinial) : ¬ bootPlace p o :=
  fun h => h.ne h1 h2 rfl

theorem pgKeep_apart (k : Nat) : (pgKeep k).ty ≠ 0x51 ∧ pgKeep k ≠ pgLantern ∧ pgKeep k ≠ pgFinial := by
  simp [pgKeep, pgLantern, pgFinial]

theorem State.err_bootKept (s : State) (q : PageId) (c : Nat) : bootKept s (s.err q c) :=
  fun _ _ _ hr hp => State.rd_err_block s q c hr (fun e => hp.ne (by decide) (by decide) (rkey_page e))
    fun e => hp.ne (by decide) (by decide) (rkey_page e)

/-- What the integrity page's checks write. -/
theorem itgOnly.bootKept {P : Nat → Prop} {s t : State} (h : itgOnly P s t) : bootKept s t :=
  fun _ _ _ hr hp => h.other (hp.ne (by decide) (by decide)) (hp.ne (by decide) (by decide)) (hp.ne (by decide) (by decide)) hr

/-- A software write of a lockable field of another page. -/
theorem State.swField_bootKept (s : State) {p : PageId} {r : Reg} (hacc : r.acc = .rwl) (hr : 0x100 ≤ r.off) (ht : p.ty ≠ 0x51)
    (h1 : p ≠ pgLantern) (h2 : p ≠ pgFinial) (v : Nat) : bootKept s (s.swField p r 0 v) := by
  unfold State.swField
  rw [hacc]
  dsimp only
  split
  · exact .refl s
  · exact State.put_bootKept s hr ht (not_bootPlace_page h1 h2) v

theorem State.setLock_bootKept (s : State) (p : PageId) : bootKept s (s.setLock p) := by
  intro q x j hx _
  have ho : 0x100 ≤ x.off + x.stride * j := Nat.le_trans hx (Nat.le_add_right ..)
  have hlock : Hdr.LOCK.off + Hdr.LOCK.stride * 0 < 0x100 := by decide
  refine State.rd_put_ne s 1 (fun e => ?_) ?_
  · simp only [rkey, RegKey.mk.injEq] at e
    omega
  · rintro (e | e) <;> simp [rkey, Hdr.LOCK, Hdr.FREEZE, Itg.TRIP_EN] at e

/-! ## Phase FINIAL -/

theorem State.showSlot_bootKept (s : State) (slot : Nat) : bootKept s (s.showSlot slot) := by
  have hw : ∀ (t : State) {r : Reg} (v : Nat), 0xF04 ≤ r.off → bootKept t (t.wri pgLantern r slot v) := fun t r v hr =>
    State.wri_bootKept t (by omega) (by decide) (not_bootPlace_lantern (by omega) (by omega)) v
  unfold State.showSlot
  exact ((hw _ _ (by decide)).trans (hw _ _ (by decide))).trans (hw _ _ (by decide))

theorem State.loadKeys_bootKept (s : State) : bootKept s s.loadKeys := by
  unfold State.loadKeys
  dsimp only
  split
  · exact .of_eq rfl rfl rfl
  · exact bootKept.trans (t := { s with keys := [] }) (.of_eq rfl rfl rfl) (State.err_bootKept _ _ _)

theorem State.bpLoad_bootKept (s : State) : bootKept s s.bpLoad := by
  have hstate : bootKept s (s.wr pgLantern Boo.BP_STATE s.bpFlash) :=
    State.wr_bootKept s (by decide) (by decide) (not_bootPlace_lantern (by decide) (by decide)) _
  have hword : ∀ i < 8, 0x280 ≤ (bpFields.getD i Boo.BP_COORD).off ∧ (bpFields.getD i Boo.BP_COORD).off < 0xF00 := by decide
  unfold State.bpLoad
  dsimp only
  split
  · refine hstate.trans (bootKept.foldl _ _ fun t i hi => ?_)
    obtain ⟨h1, h2⟩ := hword i (List.mem_range.1 hi)
    exact State.put_bootKept t (by omega) (by decide) (not_bootPlace_lantern (by omega) (by omega)) _
  · exact hstate

/-- The registers that the Finial writes as a slot runs. -/
def State.slotAdmitted (s : State) (slot : Nat) : State :=
  (s.wrs pgLantern [(Fwu.ACTIVE_SLOT, slot), (Fwu.NEXT_SLOT, s.nextSlot), (Lan.FW_VER, s.peekN spFlash (flSlot slot + 8) 4),
    (Lan.XLATOR_VER, s.peekN spFlash (flSlot slot + 12) 4), (Lan.CORES_UP, 15)]).wrs pgFinial
    [(Fin.FIN_STATE, 1), (Fin.FKEY_IDX, (s.fkeySlot (s.peek spFlash (flSlot slot + 0x18) 64)).getD 0)]

theorem State.runSlot_bootKept (s : State) (slot : Nat) : bootKept (s.slotAdmitted slot) (s.runSlot slot) := by
  have hmeas : ∀ (t : State) (l : List (List Byte)),
      bootKept t (l.foldl (fun (u : State) (d : List Byte) => u.extend measBoot d) t) :=
    fun t l => .foldl l t fun _ _ _ => .of_eq rfl rfl rfl
  have hsvn : ∀ (t : State) (x : Trust), bootKept t { t with trust := x } := fun _ _ => .of_eq rfl rfl rfl
  have hset : ∀ (t : State) (d : List Byte), bootKept t ((t.clearMeas measBoot).setMeas measFw d) :=
    fun _ _ => .of_eq rfl rfl rfl
  unfold State.runSlot
  dsimp only
  refine bootKept.trans ?_ (State.bpLoad_bootKept _)
  refine bootKept.trans ?_ (hmeas _ _)
  refine bootKept.trans ?_ (hset _ _)
  exact (hsvn _ _).trans (State.loadKeys_bootKept _)

/-- A slot that runs: it is the active one, the Finial has admitted it, and the phase stands. -/
theorem State.runSlot_shows (s : State) {slot : Nat} (h : slot < 2) : (s.runSlot slot).bootPhase = s.bootPhase ∧
    (s.runSlot slot).rd pgFinial Fin.FIN_STATE 0 = 1 ∧ (s.runSlot slot).rd pgLantern Fwu.ACTIVE_SLOT 0 = slot := by
  have hkept := State.runSlot_bootKept s slot
  rw [hkept.phase, hkept.finState, hkept.slotWord rfl]
  unfold State.slotAdmitted State.bootPhase
  simp only [State.wrs]
  refine ⟨?_, ?_, ?_⟩
  · iterate 2 rw [State.rd_wr_other _ _ (by decide) (by decide) (by decide)]
    iterate 5 rw [State.rd_wr_same _ _ (by decide) (by decide) (by decide) (by decide)]
  · rw [State.rd_wr_same _ _ (by decide) (by decide) (by decide) (by decide), State.rd_wr_own _ _ (by decide) (by decide)]
    rfl
  · iterate 2 rw [State.rd_wr_other _ _ (by decide) (by decide) (by decide)]
    iterate 4 rw [State.rd_wr_same _ _ (by decide) (by decide) (by decide) (by decide)]
    rw [State.rd_wr_own _ _ (by decide) (by decide)]
    exact Nat.mod_eq_of_lt h

/-- NEXT_SLOT names slot 0 or 1. -/
theorem State.nextSlot_lt (s : State) : s.nextSlot < 2 := by
  have hcopy : ∀ off x, s.nextCopy off = some x → x < 2 := by
    intro off x hx
    unfold State.nextCopy at hx
    dsimp only at hx
    split at hx
    · rw [← Option.some.inj hx]
      exact Nat.mod_lt _ (by decide)
    · exact absurd hx (by simp)
  unfold State.nextSlot
  cases h0 : s.nextCopy 0 with
  | some x => exact hcopy 0 x h0
  | none =>
    cases h8 : s.nextCopy 8 with
    | some x => exact hcopy 8 x h8
    | none => exact Nat.zero_lt_two

/-- Both slots shown. -/
theorem State.showSlots_bootKept (s : State) : bootKept s ((s.showSlot 0).showSlot 1) :=
  (State.showSlot_bootKept _ _).trans (State.showSlot_bootKept _ _)

theorem State.finialPhase_first {s : State} (h : s.fwCheck spFlash (flSlot s.nextSlot) slotLen = 0) :
    s.finialPhase = ((s.showSlot 0).showSlot 1).runSlot s.nextSlot := if_pos h

section
variable {s : State} (h : s.fwCheck spFlash (flSlot s.nextSlot) slotLen ≠ 0)
include h

theorem State.finialPhase_other (h' : s.fwCheck spFlash (flSlot (1 - s.nextSlot)) slotLen = 0) : s.finialPhase =
    ((((s.showSlot 0).showSlot 1).runSlot (1 - s.nextSlot)).wr pgLantern Fwu.FELL_BACK 1).err pgFinial 0 :=
  (if_neg h).trans (if_pos h')

theorem State.finialPhase_stops (h' : s.fwCheck spFlash (flSlot (1 - s.nextSlot)) slotLen ≠ 0) : s.finialPhase =
    ((((s.showSlot 0).showSlot 1).wr pgFinial Fin.FIN_STATE 2).wr pgLantern Boo.BOOT_FAIL_PHASE 3).wr pgLantern Lan.CORES_UP 0 :=
  (if_neg h).trans (if_neg h')

end

theorem State.finialPhase_admits {s : State} (h : s.fwCheck spFlash (flSlot s.nextSlot) slotLen = 0) :
    s.finialPhase.bootPhase = s.bootPhase ∧ s.finialPhase.rd pgFinial Fin.FIN_STATE 0 = 1 ∧
      s.finialPhase.rd pgLantern Fwu.ACTIVE_SLOT 0 = s.nextSlot := by
  obtain ⟨hphase, hfin, hactive⟩ := State.runSlot_shows ((s.showSlot 0).showSlot 1) s.nextSlot_lt
  rw [State.finialPhase_first h]
  exact ⟨hphase.trans (State.showSlots_bootKept s).phase, hfin, hactive⟩

theorem State.finialPhase_fallsBack {s : State} (h : s.fwCheck spFlash (flSlot s.nextSlot) slotLen ≠ 0)
    (h' : s.fwCheck spFlash (flSlot (1 - s.nextSlot)) slotLen = 0) : s.finialPhase.bootPhase = s.bootPhase ∧
      s.finialPhase.rd pgFinial Fin.FIN_STATE 0 = 1 ∧ s.finialPhase.rd pgLantern Fwu.ACTIVE_SLOT 0 = 1 - s.nextSlot ∧
      s.finialPhase.rd pgLantern Fwu.FELL_BACK 0 = 1 ∧ errSet s.finialPhase pgFinial 0 := by
  have hslot : 1 - s.nextSlot < 2 := by omega
  obtain ⟨hphase, hfin, hactive⟩ := State.runSlot_shows ((s.showSlot 0).showSlot 1) hslot
  have herr := State.err_bootKept ((((s.showSlot 0).showSlot 1).runSlot (1 - s.nextSlot)).wr pgLantern Fwu.FELL_BACK 1) pgFinial 0
  rw [State.finialPhase_other h h', herr.phase, herr.finState, herr.slotWord rfl, herr.slotWord rfl]
  refine ⟨?_, ?_, ?_, ?_, State.err_bit _ _ _ (by decide)⟩
  · exact (State.rd_wr_same _ _ (by decide) (by decide) (by decide) (by decide)).trans
      (hphase.trans (State.showSlots_bootKept s).phase)
  · exact (State.rd_wr_other _ _ (by decide) (by decide) (by decide)).trans hfin
  · exact (State.rd_wr_same _ _ (by decide) (by decide) (by decide) (by decide)).trans hactive
  · exact State.rd_wr_own _ _ (by decide) (by decide)

theorem State.finialPhase_refuses {s : State} (h : s.fwCheck spFlash (flSlot s.nextSlot) slotLen ≠ 0)
    (h' : s.fwCheck spFlash (flSlot (1 - s.nextSlot)) slotLen ≠ 0) : s.finialPhase.bootPhase = s.bootPhase ∧
      s.finialPhase.rd pgFinial Fin.FIN_STATE 0 = 2 ∧ s.finialPhase.rd pgLantern Boo.BOOT_FAIL_PHASE 0 = 3 := by
  rw [State.finialPhase_stops h h']
  refine ⟨?_, ?_, ?_⟩
  · unfold State.bootPhase
    rw [State.rd_wr_same _ _ (by decide) (by decide) (by decide) (by decide),
      State.rd_wr_same _ _ (by decide) (by decide) (by decide) (by decide),
      State.rd_wr_other _ _ (by decide) (by decide) (by decide)]
    exact (State.showSlots_bootKept s).phase
  · rw [State.rd_wr_other _ _ (by decide) (by decide) (by decide), State.rd_wr_other _ _ (by decide) (by decide) (by decide),
      State.rd_wr_own _ _ (by decide) (by decide)]
    rfl
  · rw [State.rd_wr_same _ _ (by decide) (by decide) (by decide) (by decide), State.rd_wr_own _ _ (by decide) (by decide)]
    rfl

/-! ## Phase DIES -/

theorem State.loadCal_bootKept (s : State) : bootKept s s.loadCal := by
  have hset : ∀ r ∈ Cal.fields.filter isCalSet, 0x400 ≤ r.off ∧ r.off + r.stride * r.count ≤ 0xF00 ∧ 0 < r.stride := by decide
  have hfields : bootKept s ((Cal.fields.filter isCalSet).foldl (fun t r => t.loadCalField s.calGood r) s) := by
    refine bootKept.foldl _ s fun t r hr => bootKept.foldl _ t fun u i hi => ?_
    obtain ⟨h1, h2, h3⟩ := hset r hr
    have hlt : r.stride * i < r.stride * r.count := Nat.mul_lt_mul_of_pos_left (List.mem_range.1 hi) h3
    exact State.put_bootKept u (by omega) (by decide) (not_bootPlace_lantern (by omega) (by omega)) _
  refine hfields.trans (State.wrs_bootKept (by decide) _ _ ?_)
  simp only [List.forall_mem_cons]
  have hplace : ∀ r : Reg, 0xE00 ≤ r.off → r.off < 0xF00 → 0x100 ≤ r.off ∧ ¬ bootPlace pgLantern r.off := fun r h1 h2 =>
    ⟨by omega, not_bootPlace_lantern (by omega) (by omega)⟩
  exact ⟨hplace _ (by decide) (by decide), hplace _ (by decide) (by decide), hplace _ (by decide) (by decide),
    fun _ h => nomatch h⟩

theorem State.applyBp_bootKept (s : State) : bootKept s s.applyBp := by
  have hkeep : ∀ (t : State) (k c e : Nat),
      bootKept t ((t.swField (pgKeep k) Kr.COORD 0 c).swField (pgKeep k) Kr.EXTENT 0 e) := by
    intro t k c e
    obtain ⟨htrip, hlantern, hfinial⟩ := pgKeep_apart k
    exact (State.swField_bootKept t rfl (by decide) htrip hlantern hfinial c).trans
      (State.swField_bootKept _ rfl (by decide) htrip hlantern hfinial e)
  have hnames : ∀ (t : State) (d l h : Nat), bootKept t
      (((t.swField pgWatch Wat.FAIL_DOMAIN 0 d).swField pgHost Mac.MAC_LO 0 l).swField pgHost Mac.MAC_HI 0 h) := by
    intro t d l h
    exact ((State.swField_bootKept t rfl (by decide) (by decide) (by decide) (by decide) d).trans
      (State.swField_bootKept _ rfl (by decide) (by decide) (by decide) (by decide) l)).trans
      (State.swField_bootKept _ rfl (by decide) (by decide) (by decide) (by decide) h)
  have hbelfry : ∀ (t : State) (b : Belfry), bootKept t (t.setBelfry b) := fun _ _ => .of_eq rfl rfl rfl
  have hlocks : ∀ (t : State) (l : List PageId), bootKept t (l.foldl State.setLock t) := fun t l =>
    .foldl l t fun u p _ => State.setLock_bootKept u p
  unfold State.applyBp
  split
  · dsimp only
    have hrecord : ∀ w c e d l h, bootKept s _ := fun w c e d l h =>
      ((bootKept.foldl (List.range 4) s fun t k _ => hkeep t k c e).trans (hbelfry _ w)).trans (hnames _ d l h)
    split
    · exact bootKept.trans (hrecord _ _ _ _ _ _) (hlocks _ _)
    · exact hrecord _ _ _ _ _ _
  · exact .refl s

end Sys2Proof.Machine
end

section
/-! SUPPORT. Boot (R435, Table 18.7): the work of the self-test, the stacks, the links and the join, and each phase's end and
time. -/

namespace Sys2Proof.Machine

open Sys2Proof

/-! ## Phase SELFTEST -/

theorem codeCases_pass : codeCases = true := by decide

theorem voteCases_pass : voteCases = true := by decide

/-- These definitions pass their classes, so that the result is the device's. -/
theorem selfTest_pass (device : Nat) : Nat.land device (0x1FC + b2n codeCases + 2 * b2n voteCases) = device % 2 ^ 9 := by
  rw [codeCases_pass, voteCases_pass]
  exact Nat.and_two_pow_sub_one_eq_mod device 9

theorem State.selfTest_eq (s : State) (device : Nat) : s.selfTest device =
    if device % 2 ^ 9 = 0x1FF then s.wrs pgIntegrity [(Itg.ST_PASS, device % 2 ^ 9), (Itg.ST_DONE, 1)]
    else (s.wrs pgIntegrity [(Itg.ST_PASS, device % 2 ^ 9), (Itg.ST_DONE, 1)]).err pgIntegrity 10 := by
  unfold State.selfTest
  rw [selfTest_pass]
  dsimp only
  rw [Nat.mod_eq_of_lt (a := device % 2 ^ 9) (b := 512) (Nat.mod_lt _ (by decide))]

/-- The self-test writes the integrity page, below its checks' records. -/
theorem State.selfTest_itg (s : State) (device : Nat) : itgOnly (· = Itg.ST_PASS.off) s (s.selfTest device) := by
  have hresult : itgOnly (· = Itg.ST_PASS.off) s (s.wrs pgIntegrity [(Itg.ST_PASS, device % 2 ^ 9), (Itg.ST_DONE, 1)]) := by
    refine State.wrs_itg _ s ?_
    simp only [List.forall_mem_cons]
    decide
  rw [State.selfTest_eq]
  split
  · exact hresult
  · exact hresult.trans (State.err_itg ..)

theorem State.selfTest_shows (s : State) (device : Nat) : (s.selfTest device).rd pgIntegrity Itg.ST_PASS 0 = device % 2 ^ 9 ∧
    (s.selfTest device).rd pgIntegrity Itg.ST_DONE 0 = 1 ∧
    (device % 2 ^ 9 ≠ 0x1FF → errSet (s.selfTest device) pgIntegrity 10) := by
  have hpass : (s.wrs pgIntegrity [(Itg.ST_PASS, device % 2 ^ 9), (Itg.ST_DONE, 1)]).rd pgIntegrity Itg.ST_PASS 0 =
      device % 2 ^ 9 :=
    (State.rd_wri_ne _ 1 (by decide) (by decide) (not_steers_itg (by decide) _)).trans
      ((State.rd_wr_itg_self s (by decide) _).trans (Nat.mod_mod ..))
  have hdone : (s.wrs pgIntegrity [(Itg.ST_PASS, device % 2 ^ 9), (Itg.ST_DONE, 1)]).rd pgIntegrity Itg.ST_DONE 0 = 1 :=
    State.rd_wr_itg_self _ (by decide) 1
  rw [State.selfTest_eq]
  split
  case isTrue h => exact ⟨hpass, hdone, fun hn => absurd h hn⟩
  case isFalse =>
    have herr := State.err_itg (fun _ => False) (s.wrs pgIntegrity [(Itg.ST_PASS, device % 2 ^ 9), (Itg.ST_DONE, 1)]) 10
    exact ⟨(herr.own (by decide) (by simp)).trans hpass, (herr.own (by decide) (by simp)).trans hdone,
      fun _ => State.err_bit _ _ _ (by decide)⟩

/-! ## Stacks: phases SELFTEST and HBM -/

/-- What one number's step brings about and the others' steps keep holds after all of them. -/
theorem foldl_range_holds {σ : Type} {f : σ → Nat → σ} {Q : σ → Prop} {i : Nat} (hown : ∀ t, Q (f t i))
    (hkeep : ∀ t j, j ≠ i → Q t → Q (f t j)) (s : σ) : ∀ n, i < n → Q ((List.range n).foldl f s)
  | n + 1, hi => by
    rw [List.range_succ, List.foldl_append]
    by_cases hn : n = i
    · exact hn ▸ hown _
    · exact hkeep _ n hn (foldl_range_holds hown hkeep s n (by omega))

theorem pgHbm_apart (st : Nat) : (pgHbm st).ty ≠ 0x51 ∧ pgHbm st ≠ pgLantern ∧ pgHbm st ≠ pgFinial ∧ pgHbm st ≠ pgIntegrity := by
  simp [pgHbm, pgLantern, pgFinial, pgIntegrity]

theorem pgHbm_inj {a b : Nat} (h : pgHbm a = pgHbm b) : a = b := congrArg PageId.inst h

theorem State.rd_hstate_ne (s : State) {a b : Nat} (h : a ≠ b) (v : Nat) :
    (s.wr (pgHbm a) Hbm.HSTATE v).rd (pgHbm b) Hbm.HSTATE 0 = s.rd (pgHbm b) Hbm.HSTATE 0 :=
  State.rd_wr_other s v (fun e => h (pgHbm_inj e).symm) (by decide) (pgHbm_apart a).1

/-- All sixteen stacks train. -/
theorem State.trainStacks_all (s : State) :
    s.trainStacks true = (List.range 16).foldl (fun t st => t.wr (pgHbm st) Hbm.HSTATE 1) s := by
  unfold State.trainStacks
  simp

theorem State.trainStacks_hstate (s : State) {st : Nat} (h : st < 16) : (s.trainStacks true).rd (pgHbm st) Hbm.HSTATE 0 = 1 := by
  rw [State.trainStacks_all]
  refine foldl_range_holds (Q := fun t => State.rd t (pgHbm st) Hbm.HSTATE 0 = 1) (fun t => ?_) (fun t j hj hq => ?_) s 16 h
  · exact State.rd_wr_own t 1 (by decide) (pgHbm_apart st).1
  · exact (State.rd_hstate_ne t hj 1).trans hq

/-- Training leaves every other page. -/
theorem State.trainStacks_other (s : State) {p : PageId} (r : Reg) (i : Nat) (hp : ∀ st, p ≠ pgHbm st) :
    (s.trainStacks true).rd p r i = s.rd p r i := by
  rw [State.trainStacks_all]
  exact foldl_of (fun t : State => t.rd p r i) _ (fun t st => State.rd_wr_other t 1 (hp st) (by decide) (pgHbm_apart st).1) _ s

theorem State.trainStacks_bootKept (s : State) : bootKept s (s.trainStacks true) :=
  fun _ r i _ hp => State.trainStacks_other s r i fun st => hp.ne (pgHbm_apart st).2.1 (pgHbm_apart st).2.2.1

/-- One stack's end of phase HBM. -/
def State.stackEnds (failed : List Nat) (s : State) (st : Nat) : State :=
  if failed.contains st then (s.wr (pgHbm st) Hbm.HSTATE 4).err (pgHbm st) 0 else s.wr (pgHbm st) Hbm.HSTATE 2

theorem State.bootHbm_eq (s : State) (failed : List Nat) :
    s.bootHbm failed = (List.range 16).foldl (State.stackEnds failed) s := rfl

theorem State.stackEnds_failed {failed : List Nat} {st : Nat} (h : st ∈ failed) (s : State) :
    s.stackEnds failed st = (s.wr (pgHbm st) Hbm.HSTATE 4).err (pgHbm st) 0 := if_pos (by simpa using h)

theorem State.stackEnds_ready {failed : List Nat} {st : Nat} (h : st ∉ failed) (s : State) :
    s.stackEnds failed st = s.wr (pgHbm st) Hbm.HSTATE 2 := if_neg (by simpa using h)

theorem State.rd_err_hstate (s : State) (q : PageId) (c st : Nat) :
    (s.err q c).rd (pgHbm st) Hbm.HSTATE 0 = s.rd (pgHbm st) Hbm.HSTATE 0 :=
  State.rd_err_block s q c (by decide) (by simp [rkey, pgHbm, pgHost]) (by simp [rkey, pgHbm, pgKeep])

theorem State.stackEnds_other (failed : List Nat) (s : State) {st j : Nat} (h : j ≠ st) :
    (s.stackEnds failed j).rd (pgHbm st) Hbm.HSTATE 0 = s.rd (pgHbm st) Hbm.HSTATE 0 := by
  unfold State.stackEnds
  split
  · exact (State.rd_err_hstate ..).trans (State.rd_hstate_ne s h 4)
  · exact State.rd_hstate_ne s h 2

/-- No stack's end clears an error bit. -/
theorem State.stackEnds_errs (failed : List Nat) (s : State) (j : Nat) : errsKept s (s.stackEnds failed j) := by
  intro p i hi h
  unfold State.stackEnds
  split
  · exact errSet_err _ _ hi (errSet_wri 0 4 (by decide) (pgHbm_apart j).1 h)
  · exact errSet_wri 0 2 (by decide) (pgHbm_apart j).1 h

theorem State.bootHbm_ends (s : State) (failed : List Nat) {st : Nat} (h : st < 16) :
    (st ∈ failed → (s.bootHbm failed).rd (pgHbm st) Hbm.HSTATE 0 = 4 ∧ errSet (s.bootHbm failed) (pgHbm st) 0) ∧
    (st ∉ failed → (s.bootHbm failed).rd (pgHbm st) Hbm.HSTATE 0 = 2) := by
  rw [State.bootHbm_eq]
  refine ⟨fun hf => ?_, fun hf => ?_⟩
  · refine foldl_range_holds (Q := fun t => State.rd t (pgHbm st) Hbm.HSTATE 0 = 4 ∧ errSet t (pgHbm st) 0) (fun t => ?_)
      (fun t j hj hq => ?_) s 16 h
    · rw [State.stackEnds_failed hf, State.rd_err_hstate]
      exact ⟨State.rd_wr_own t 4 (by decide) (pgHbm_apart st).1, State.err_bit _ _ _ (by decide)⟩
    · exact ⟨(State.stackEnds_other failed t hj).trans hq.1, State.stackEnds_errs failed t j _ _ (by decide) hq.2⟩
  · refine foldl_range_holds (Q := fun t => State.rd t (pgHbm st) Hbm.HSTATE 0 = 2) (fun t => ?_) (fun t j hj hq => ?_) s 16 h
    · rw [State.stackEnds_ready hf]
      exact State.rd_wr_own t 2 (by decide) (pgHbm_apart st).1
    · exact (State.stackEnds_other failed t hj).trans hq

theorem State.bootHbm_bootKept (s : State) (failed : List Nat) : bootKept s (s.bootHbm failed) := by
  rw [State.bootHbm_eq]
  refine bootKept.foldl _ s fun t st _ => ?_
  obtain ⟨htrip, hlantern, hfinial, -⟩ := pgHbm_apart st
  have hw : ∀ v, bootKept t (t.wr (pgHbm st) Hbm.HSTATE v) := fun v =>
    State.wr_bootKept t (by decide) htrip (not_bootPlace_page hlantern hfinial) v
  unfold State.stackEnds
  split
  · exact (hw 4).trans (State.err_bootKept _ _ _)
  · exact hw 2

/-! ## Phase LINKS -/

theorem linkApart_phase (l : Nat) : linkApart l pgLantern Boo.BOOT_PHASE :=
  ⟨by decide, (pgLink_ne (by decide) (by decide)).symm, by decide, by decide, by decide, by decide⟩

/-- A link whose training failed leaves what is apart from it. -/
theorem State.rd_trainFail_apart {l : Nat} {p : PageId} {x : Reg} (h : linkApart l p x) (s : State) :
    (s.trainFail l).rd p x 0 = s.rd p x 0 := by
  unfold State.trainFail State.failLink
  split
  · exact State.rd_err_apart h ..
  · dsimp only
    split
    · rw [State.rd_reportLink, State.rd_dropOutput_apart h, State.rd_setLstate_apart h, State.rd_dropLink_apart h,
        State.rd_err_apart h]
    · rw [State.rd_setLstate_apart h, State.rd_dropLink_apart h, State.rd_err_apart h]

/-- Held events that are sent write fields of the host MAC's page and of Keep 3's alone. -/
theorem State.resendEvents_bootKept (s : State) : bootKept s s.resendEvents := by
  intro p x j hx hp
  have ht : ¬ eventTouches (rkey p x j) := by
    rintro (e | e | e | e) <;> exact hp.ne (by decide) (by decide) (rkey_page e)
  have ho : 0x100 ≤ (rkey p x j).off := Nat.le_trans hx (Nat.le_add_right ..)
  unfold State.resendEvents
  rw [State.dropErrs_of (·.rd p x j) (fun _ => State.rd_pgErr _ _ _ ht (by omega)) (fun _ => State.rd_pgErr _ _ _ ht (by omega))]
  unfold State.sendAllEvents
  split
  · exact foldl_of (fun t : State => t.rd p x j) State.sendEvent (fun t _ => State.rd_strictPut t _ _ ht) _ _
  · rfl

theorem State.hostLinkUp_bootKept (s : State) : bootKept s s.hostLinkUp := by
  unfold State.hostLinkUp
  split
  · have htimers : bootKept s s.turnTimers := .of_eq rfl rfl rfl
    exact (htimers.trans (State.wr_bootKept _ (by decide) (by decide) (not_bootPlace_page (by decide) (by decide)) 1)).trans
      (State.resendEvents_bootKept _)
  · exact .refl s

theorem State.bootLinks_phase (s : State) (failed : List Nat) (host : Bool) :
    (s.bootLinks failed host).bootPhase = s.bootPhase := by
  have hfails : ∀ l : List Nat, (l.foldl State.trainFail s).bootPhase = s.bootPhase := fun l =>
    foldl_of State.bootPhase _ (fun t l => State.rd_trainFail_apart (linkApart_phase l) t) l s
  unfold State.bootLinks
  dsimp only
  split
  · exact (State.hostLinkUp_bootKept _).phase.trans (hfails _)
  · exact hfails _

/-! ## JOIN by the boot parameter record -/

theorem State.unroutable_bootKept (s : State) (k : Nat) (unr : Bool) : bootKept s (s.unroutable k unr) := by
  obtain ⟨htrip, hlantern, hfinial⟩ := pgKeep_apart k
  have hcount : bootKept s (s.bump (pgKeep k) Kr.UNROUTABLE) :=
    State.wr_bootKept s (by decide) htrip (not_bootPlace_page hlantern hfinial) _
  unfold State.unroutable
  split
  · exact hcount.trans (State.err_bootKept _ _ _)
  · exact .refl s

theorem State.forward_bootKept (s : State) (k : Nat) (src : QSource) (buf : Option (Nat × Nat)) (travel : Option Nat) (f : Flit) :
    bootKept s (s.forward k src buf travel f) := by
  unfold State.forward
  split
  · dsimp only
    split
    · exact State.unroutable_bootKept s _ true
    · exact .of_eq rfl rfl rfl
  · dsimp only
    split
    · exact .of_eq rfl rfl rfl
    · split <;> exact .of_eq rfl rfl rfl

/-- A request that a unit injects. -/
theorem State.inject_bootKept (s : State) (e : Nat) {f : Flit} (hp : f.poison = false) :
    bootKept s (s.inject (.moduleUnit e) f) := by
  obtain ⟨unr, g, h⟩ | ⟨g, o, h⟩ := State.inject_unit_cases (s := s) (e := e) hp
  · rw [h]
    obtain ⟨hreply, -⟩ := State.giveReply_rest (s.unroutable (srcKeep (.moduleUnit e)) unr) (.moduleUnit e) g
    exact (State.unroutable_bootKept _ _ _).trans (.of_rd hreply)
  · rw [h]
    have hreserved : bootKept s ((s.reserved (.moduleUnit e) g o).emit (.inject (.moduleUnit e) o)) := .of_eq rfl rfl rfl
    exact hreserved.trans (State.forward_bootKept _ _ _ _ _ _)

theorem State.join_bootKept (s : State) (v : Nat) : bootKept s (s.join v) := by
  have hseed : bootKept s (s.put pgWatch Wat.SEED 0 (bits v 1 1)) :=
    State.put_bootKept s (by decide) (by decide) (not_bootPlace_page (by decide) (by decide)) _
  have htest : ∀ t : State, bootKept t (t.wrb pgFinial Fin.TEST_ACTIVE false) := fun t =>
    State.wr_bootKept t (by decide) (by decide) (not_bootPlace_finial (by decide)) _
  have hwatch : ∀ (t : State) (w : Watch), bootKept t (t.setWatch w) := fun _ _ => .of_eq rfl rfl rfl
  have hpair : ∀ t : State, bootKept t t.pairStart := fun t => State.inject_bootKept t 3 (requestFlit_poison ..)
  unfold State.join
  dsimp only
  split
  · exact hseed
  · split
    · exact hseed.trans (State.err_bootKept _ _ _)
    · exact ((hseed.trans (htest _)).trans (hwatch _ _)).trans (hpair _)

theorem State.bootJoin_bootKept (s : State) : bootKept s s.bootJoin := by
  have htick : ∀ lo hi, bootKept s ((s.put pgWatch Wat.JOIN_TICK_LO 0 lo).put pgWatch Wat.JOIN_TICK_HI 0 hi) := fun lo hi =>
    (State.put_bootKept s (by decide) (by decide) (not_bootPlace_page (by decide) (by decide)) lo).trans
      (State.put_bootKept _ (by decide) (by decide) (not_bootPlace_page (by decide) (by decide)) hi)
  unfold State.bootJoin
  dsimp only
  split
  · split
    · exact (htick _ _).trans (State.join_bootKept _ _)
    · exact State.join_bootKept _ _
  · exact .refl s

/-! ## The end of a phase -/

/-- The phase that stood in `s` is over in `t`, its time recorded. -/
def phaseEnded (s t : State) (ms : Nat) : Prop :=
  t.bootPhase = s.bootPhase + 1 ∧ t.rd pgLantern Boo.PHASE_MS (s.bootPhase - 1) = ms % 2 ^ 32

theorem State.nextPhase_ended (s : State) (ms : Nat) (h : s.bootPhase < 15) : phaseEnded s (s.nextPhase ms) ms := by
  unfold State.nextPhase
  refine ⟨?_, ?_⟩
  · refine (State.rd_wr_own _ _ (by decide) (by decide)).trans ?_
    exact Nat.mod_eq_of_lt (Nat.succ_lt_succ h)
  · rw [State.rd_wr_same _ _ (.inl ?_) (by decide) (by decide) (by decide)]
    · exact State.rd_wri_own _ _ (by decide) (by decide)
    · simp only [Boo.PHASE_MS, Boo.BOOT_PHASE]
      omega

/-- The phase's own work done before, which leaves BOOT_PHASE. -/
theorem phaseEnded.after {s u t : State} {ms : Nat} (h : u.bootPhase = s.bootPhase) (he : phaseEnded u t ms) :
    phaseEnded s t ms := by
  obtain ⟨hnext, htime⟩ := he
  rw [h] at hnext htime
  exact ⟨hnext, htime⟩

/-- What leaves the boot registers keeps it. -/
theorem phaseEnded.keep {s t u : State} {ms : Nat} (he : phaseEnded s t ms) (h : bootKept t u) (hs : s.bootPhase ≤ 8) :
    phaseEnded s u ms := by
  obtain ⟨hnext, htime⟩ := he
  refine ⟨h.phase.trans hnext, (h.reads _ _ _ (by decide) (.inl ⟨rfl, .inl ?_⟩)).trans htime⟩
  simp only [Boo.PHASE_MS]
  omega

section
variable (s : State) (ms : Nat)

theorem State.nextPhase_other {p : PageId} (r : Reg) (i : Nat) (hp : p ≠ pgLantern) : (s.nextPhase ms).rd p r i = s.rd p r i :=
  (State.rd_wr_other _ _ hp (by decide) (by decide)).trans (State.rd_wri_other _ _ hp (by decide) (by decide))

theorem State.nextPhase_errs : errsKept s (s.nextPhase ms) := fun _ _ _ h =>
  errSet_wri 0 _ (by decide) (by decide) (errSet_wri _ _ (by decide) (by decide) h)

/-- The words of the Lantern above the boot words. -/
theorem State.nextPhase_same {r : Reg} (hr : 0x280 ≤ r.off) (hs : s.bootPhase ≤ 8) :
    (s.nextPhase ms).rd pgLantern r 0 = s.rd pgLantern r 0 := by
  refine (State.rd_wr_same _ _ (.inl ?_) (by omega) (by decide) (by decide)).trans
    (State.rd_wri_same _ _ (.inl ?_) (by omega) (by decide) (by decide))
  · simp only [Boo.BOOT_PHASE]
    omega
  · simp only [Boo.PHASE_MS]
    omega

end

end Sys2Proof.Machine
end

section
/-! SUPPORT. BOOT_PHASE_COMPLETE and BOOT_PHASE_TIMEOUT (R435, Table 18.7), phase by phase. -/

namespace Sys2Proof.Machine

open Sys2Proof

/-! ## What ends each phase -/

theorem State.bootComplete_off {s : State} (r : BootResult) (h : (!s.running || s.power.resetLow) = true) :
    s.bootComplete r = s := if_pos h

section
variable {s : State} (r : BootResult)

/-- Without confirmed coolant phase COOLANT stands. -/
theorem State.bootComplete_dry (h : s.bootPhase = 2) (hc : s.power.coolant = false) : s.bootComplete r = s := by
  unfold State.bootComplete
  split
  · rfl
  · simp only [h, hc, Bool.false_eq_true, if_false]

/-- In programming mode, or where the Finial has stopped boot, phase FINIAL stands. -/
theorem State.bootComplete_barred (h : s.bootPhase = 3) (hb : s.power.prog = true ∨ s.rd pgFinial Fin.FIN_STATE 0 = 2) :
    s.bootComplete r = s := by
  unfold State.bootComplete
  split
  · rfl
  · simp only [h]
    exact if_pos (by simpa using hb)

variable (hon : ¬ (!s.running || s.power.resetLow) = true)
include hon

theorem State.bootComplete_noPhase (h : s.bootPhase = 0 ∨ 8 < s.bootPhase) : s.bootComplete r = s := by
  refine (if_neg hon).trans ?_
  obtain h | h := h
  · simp only [h]
  · obtain ⟨n, hn⟩ : ∃ n, s.bootPhase = n + 9 := ⟨s.bootPhase - 9, by omega⟩
    simp only [hn]

theorem State.bootComplete_buttress (h : s.bootPhase = 1) : s.bootComplete r = s.nextPhase r.ms :=
  (if_neg hon).trans (by simp only [h])

theorem State.bootComplete_coolant (h : s.bootPhase = 2) (hc : s.power.coolant = true) : s.bootComplete r = s.nextPhase r.ms :=
  (if_neg hon).trans (by simp only [h, hc, if_true])

theorem State.bootComplete_finial (h : s.bootPhase = 3) (hp : s.power.prog = false) (hf : s.rd pgFinial Fin.FIN_STATE 0 ≠ 2) :
    s.bootComplete r =
      if s.finialPhase.rd pgFinial Fin.FIN_STATE 0 = 1 then s.finialPhase.nextPhase r.ms else s.finialPhase :=
  (if_neg hon).trans (by
    simp only [h]
    exact if_neg (by simp [hp, hf]))

theorem State.bootComplete_dies (h : s.bootPhase = 4) : s.bootComplete r = s.loadCal.applyBp.nextPhase r.ms :=
  (if_neg hon).trans (by simp only [h])

theorem State.bootComplete_selfTest (h : s.bootPhase = 5) :
    s.bootComplete r = ((s.selfTest r.stPass).trainStacks true).nextPhase r.ms :=
  (if_neg hon).trans (by simp only [h])

theorem State.bootComplete_hbm (h : s.bootPhase = 6) : s.bootComplete r = (s.bootHbm r.stacksFailed).nextPhase r.ms :=
  (if_neg hon).trans (by simp only [h])

theorem State.bootComplete_links (h : s.bootPhase = 7) :
    s.bootComplete r = ((s.bootLinks r.linksFailed r.hostUp).nextPhase r.ms).bootJoin :=
  (if_neg hon).trans (by simp only [h])

theorem State.bootComplete_join (h : s.bootPhase = 8) : s.bootComplete r =
    (s.nextPhase r.ms).wrs pgLantern [(Boo.BOOT_DONE, 1), (Boo.BOOT_MS, (s.nextPhase r.ms).bootMs)] :=
  (if_neg hon).trans (by simp only [h])

end

theorem State.bootComplete_idle {s : State} (r : BootResult)
    (h : s.running = false ∨ s.power.resetLow = true ∨ s.bootPhase = 0 ∨ 8 < s.bootPhase) : s.bootComplete r = s := by
  by_cases hon : (!s.running || s.power.resetLow) = true
  · exact State.bootComplete_off r hon
  · obtain h | h | h := h
    · exact absurd (by simp [h]) hon
    · exact absurd (by simp [h]) hon
    · exact State.bootComplete_noPhase r hon h

/-! ## What each end shows -/

/-- READY shown in the state `u`: BOOT_DONE is set, and neither the phase nor a time changes. -/
theorem State.ready_shows (u : State) (ms i : Nat) :
    (u.wrs pgLantern [(Boo.BOOT_DONE, 1), (Boo.BOOT_MS, ms)]).rd pgLantern Boo.BOOT_DONE 0 = 1 ∧
    (u.wrs pgLantern [(Boo.BOOT_DONE, 1), (Boo.BOOT_MS, ms)]).bootPhase = u.bootPhase ∧
    (u.wrs pgLantern [(Boo.BOOT_DONE, 1), (Boo.BOOT_MS, ms)]).rd pgLantern Boo.PHASE_MS i = u.rd pgLantern Boo.PHASE_MS i := by
  have hms : Boo.PHASE_MS.off + Boo.PHASE_MS.stride * i ≠ Boo.BOOT_MS.off ∧
      Boo.PHASE_MS.off + Boo.PHASE_MS.stride * i ≠ Boo.BOOT_DONE.off := by
    simp only [Boo.PHASE_MS, Boo.BOOT_MS, Boo.BOOT_DONE]
    omega
  unfold State.bootPhase
  simp only [State.wrs]
  refine ⟨?_, ?_, ?_⟩
  · rw [State.rd_wr_same _ _ (by decide) (by decide) (by decide) (by decide), State.rd_wr_own _ _ (by decide) (by decide)]
    rfl
  · rw [State.rd_wr_same _ _ (by decide) (by decide) (by decide) (by decide),
      State.rd_wr_same _ _ (by decide) (by decide) (by decide) (by decide)]
  · rw [State.rd_wr_same _ _ (.inl hms.1) (by decide) (by decide) (by decide),
      State.rd_wr_same _ _ (.inl hms.2) (by decide) (by decide) (by decide)]

section
variable {s : State} (r : BootResult) (hon : ¬ (!s.running || s.power.resetLow) = true)
include hon

/-- Every phase but FINIAL ends with its time recorded and the next shown. -/
theorem State.bootComplete_ended (h : s.bootPhase ∈ [1, 4, 5, 6, 7, 8] ∨ s.bootPhase = 2 ∧ s.power.coolant = true) :
    phaseEnded s (s.bootComplete r) r.ms := by
  simp only [List.mem_cons, List.not_mem_nil, or_false] at h
  have hphase : s.bootPhase < 15 := by omega
  have hwork : ∀ {u : State}, u.bootPhase = s.bootPhase → phaseEnded s (u.nextPhase r.ms) r.ms := fun {u} hu =>
    (State.nextPhase_ended u r.ms (hu ▸ hphase)).after hu
  obtain (h | h | h | h | h | h) | ⟨h, hc⟩ := h
  · rw [State.bootComplete_buttress r hon h]
    exact hwork rfl
  · rw [State.bootComplete_dies r hon h]
    exact hwork ((State.loadCal_bootKept s).trans (State.applyBp_bootKept _)).phase
  · rw [State.bootComplete_selfTest r hon h]
    exact hwork ((State.selfTest_itg s _).bootKept.trans (State.trainStacks_bootKept _)).phase
  · rw [State.bootComplete_hbm r hon h]
    exact hwork (State.bootHbm_bootKept _ _).phase
  · rw [State.bootComplete_links r hon h]
    exact (hwork (State.bootLinks_phase ..)).keep (State.bootJoin_bootKept _) (by omega)
  · obtain ⟨hnext, htime⟩ := State.nextPhase_ended s r.ms hphase
    obtain ⟨-, hsame, hms⟩ := State.ready_shows (s.nextPhase r.ms) (s.nextPhase r.ms).bootMs (s.bootPhase - 1)
    rw [State.bootComplete_join r hon h]
    exact ⟨hsame.trans hnext, hms.trans htime⟩
  · rw [State.bootComplete_coolant r hon h hc]
    exact hwork rfl

/-- The self-test's result stands, and every stack trains. -/
theorem State.bootComplete_tested (h : s.bootPhase = 5) : (s.bootComplete r).rd pgIntegrity Itg.ST_PASS 0 = r.stPass % 2 ^ 9 ∧
    (s.bootComplete r).rd pgIntegrity Itg.ST_DONE 0 = 1 ∧
    (r.stPass % 2 ^ 9 ≠ 0x1FF → errSet (s.bootComplete r) pgIntegrity 10) ∧
    ∀ st, st < 16 → (s.bootComplete r).rd (pgHbm st) Hbm.HSTATE 0 = 1 := by
  have hkept : ∀ (u : State) (x : Reg),
      ((u.trainStacks true).nextPhase r.ms).rd pgIntegrity x 0 = u.rd pgIntegrity x 0 := fun u x =>
    (State.nextPhase_other _ _ x 0 (by decide)).trans
      (State.trainStacks_other u x 0 fun st => (pgHbm_apart st).2.2.2.symm)
  obtain ⟨hpass, hdone, herr⟩ := State.selfTest_shows s r.stPass
  rw [State.bootComplete_selfTest r hon h, hkept, hkept]
  refine ⟨hpass, hdone, fun hn => ?_, fun st hst => ?_⟩
  · unfold errSet
    rw [hkept]
    exact herr hn
  · exact (State.nextPhase_other _ _ _ 0 (pgHbm_apart st).2.1).trans (State.trainStacks_hstate _ hst)

/-- Every stack is READY or FAILED. -/
theorem State.bootComplete_stacks (h : s.bootPhase = 6) {st : Nat} (hst : st < 16) :
    (st ∈ r.stacksFailed → (s.bootComplete r).rd (pgHbm st) Hbm.HSTATE 0 = 4 ∧ errSet (s.bootComplete r) (pgHbm st) 0) ∧
    (st ∉ r.stacksFailed → (s.bootComplete r).rd (pgHbm st) Hbm.HSTATE 0 = 2) := by
  obtain ⟨hfailed, hready⟩ := State.bootHbm_ends s r.stacksFailed hst
  rw [State.bootComplete_hbm r hon h, State.nextPhase_other _ _ _ 0 (pgHbm_apart st).2.1]
  exact ⟨fun hf => ⟨(hfailed hf).1, State.nextPhase_errs _ _ _ _ (by decide) (hfailed hf).2⟩, hready⟩

section
variable (h : s.bootPhase = 3) (hp : s.power.prog = false) (hf : s.rd pgFinial Fin.FIN_STATE 0 ≠ 2)
include h hp hf

/-- With a slot admitted phase FINIAL ends. -/
theorem State.bootComplete_admitted (hphase : s.finialPhase.bootPhase = s.bootPhase)
    (hfin : s.finialPhase.rd pgFinial Fin.FIN_STATE 0 = 1) : s.bootComplete r = s.finialPhase.nextPhase r.ms ∧
      (s.bootComplete r).bootPhase = 4 ∧ (s.bootComplete r).rd pgFinial Fin.FIN_STATE 0 = 1 ∧
      ∀ x : Reg, 0x280 ≤ x.off → (s.bootComplete r).rd pgLantern x 0 = s.finialPhase.rd pgLantern x 0 := by
  have ht : s.bootComplete r = s.finialPhase.nextPhase r.ms :=
    (State.bootComplete_finial r hon h hp hf).trans (if_pos hfin)
  obtain ⟨hnext, -⟩ := State.nextPhase_ended s.finialPhase r.ms (by omega)
  rw [ht]
  exact ⟨rfl, by omega, (State.nextPhase_other _ _ _ 0 (by decide)).trans hfin,
    fun x hx => State.nextPhase_same _ _ hx (by omega)⟩

theorem State.bootComplete_first (ha : s.fwCheck spFlash (flSlot s.nextSlot) slotLen = 0) :
    (s.bootComplete r).bootPhase = 4 ∧ (s.bootComplete r).rd pgFinial Fin.FIN_STATE 0 = 1 ∧
      (s.bootComplete r).rd pgLantern Fwu.ACTIVE_SLOT 0 = s.nextSlot := by
  obtain ⟨hphase, hfin, hactive⟩ := State.finialPhase_admits ha
  obtain ⟨-, hnext, hstate, hwords⟩ := State.bootComplete_admitted r hon h hp hf hphase hfin
  exact ⟨hnext, hstate, (hwords _ (by decide)).trans hactive⟩

theorem State.bootComplete_fellBack (ha : s.fwCheck spFlash (flSlot s.nextSlot) slotLen ≠ 0)
    (hb : s.fwCheck spFlash (flSlot (1 - s.nextSlot)) slotLen = 0) :
    (s.bootComplete r).bootPhase = 4 ∧ (s.bootComplete r).rd pgLantern Fwu.ACTIVE_SLOT 0 = 1 - s.nextSlot ∧
      (s.bootComplete r).rd pgLantern Fwu.FELL_BACK 0 = 1 ∧ errSet (s.bootComplete r) pgFinial 0 := by
  obtain ⟨hphase, hfin, hactive, hfell, herr⟩ := State.finialPhase_fallsBack ha hb
  obtain ⟨ht, hnext, -, hwords⟩ := State.bootComplete_admitted r hon h hp hf hphase hfin
  refine ⟨hnext, (hwords _ (by decide)).trans hactive, (hwords _ (by decide)).trans hfell, ?_⟩
  rw [ht]
  exact State.nextPhase_errs _ _ _ _ (by decide) herr

theorem State.bootComplete_stopped (ha : s.fwCheck spFlash (flSlot s.nextSlot) slotLen ≠ 0)
    (hb : s.fwCheck spFlash (flSlot (1 - s.nextSlot)) slotLen ≠ 0) :
    (s.bootComplete r).bootPhase = 3 ∧ (s.bootComplete r).rd pgFinial Fin.FIN_STATE 0 = 2 ∧
      (s.bootComplete r).rd pgLantern Boo.BOOT_FAIL_PHASE 0 = 3 := by
  obtain ⟨hphase, hfin, hfail⟩ := State.finialPhase_refuses ha hb
  rw [State.bootComplete_finial r hon h hp hf, if_neg (by rw [hfin]; decide)]
  exact ⟨hphase.trans h, hfin, hfail⟩

end
end

/-! ## BOOT_PHASE_TIMEOUT -/

theorem State.bootTimeout_ignored {s : State} (code : Nat) (h : s.running = false ∨ s.power.resetLow = true ∨
    s.rdb pgLantern Boo.BOOT_DONE 0 = true ∨ s.power.prog = true ∧ s.bootPhase = 3) : s.bootTimeout code = s := by
  refine if_pos ?_
  obtain h | h | h | ⟨h, h'⟩ := h
  · simp [h]
  · simp [h]
  · simp [h]
  · simp [h, h']

/-- The phase and a cause recorded. -/
theorem State.bootFailed_shows (s : State) (phase code : Nat) :
    (s.wrs pgLantern [(Boo.BOOT_FAIL_PHASE, phase), (Boo.BOOT_FAIL_CODE, code)]).rd pgLantern Boo.BOOT_FAIL_PHASE 0 = phase % 16 ∧
    (s.wrs pgLantern [(Boo.BOOT_FAIL_PHASE, phase), (Boo.BOOT_FAIL_CODE, code)]).rd pgLantern Boo.BOOT_FAIL_CODE 0 =
      code % 2 ^ 8 := by
  simp only [State.wrs]
  refine ⟨?_, State.rd_wr_own _ _ (by decide) (by decide)⟩
  rw [State.rd_wr_same _ _ (by decide) (by decide) (by decide) (by decide)]
  exact State.rd_wr_own _ _ (by decide) (by decide)

theorem State.bootTimeout_recorded {s : State} (code : Nat) (hrun : s.running = true) (hlow : s.power.resetLow = false)
    (hdone : s.rdb pgLantern Boo.BOOT_DONE 0 = false) (h : s.power.prog = false ∨ s.bootPhase ≠ 3) :
    (s.bootTimeout code).rd pgLantern Boo.BOOT_FAIL_PHASE 0 = s.bootPhase % 16 ∧
    (s.bootTimeout code).rd pgLantern Boo.BOOT_FAIL_CODE 0 = code % 2 ^ 8 ∧
    (s.bootPhase = 3 → (s.bootTimeout code).rd pgFinial Fin.FIN_STATE 0 = 2) := by
  obtain ⟨hphase, hcode⟩ := State.bootFailed_shows s s.bootPhase code
  have ht : s.bootTimeout code =
      if s.bootPhase = 3 then (s.wrs pgLantern [(Boo.BOOT_FAIL_PHASE, s.bootPhase), (Boo.BOOT_FAIL_CODE, code)]).wr
        pgFinial Fin.FIN_STATE 2
      else s.wrs pgLantern [(Boo.BOOT_FAIL_PHASE, s.bootPhase), (Boo.BOOT_FAIL_CODE, code)] :=
    if_neg (by simpa [hrun, hlow, hdone, imp_iff_not_or] using h)
  rw [ht]
  split
  case isTrue =>
    exact ⟨(State.rd_wr_other _ _ (by decide) (by decide) (by decide)).trans hphase,
      (State.rd_wr_other _ _ (by decide) (by decide) (by decide)).trans hcode,
      fun _ => State.rd_wr_own _ _ (by decide) (by decide)⟩
  case isFalse hn => exact ⟨hphase, hcode, fun h3 => absurd h3 hn⟩

/-- Settles O57: each phase by its own work, which leaves the boot registers, and by the end that shows the next. -/
theorem bootGoesPhaseByPhase : Obligations.BootGoesPhaseByPhase := by
  unfold Obligations.BootGoesPhaseByPhase
  refine ⟨fun r s => ⟨s.bootComplete r, rfl, State.bootComplete_idle r, State.bootComplete_dry r, State.bootComplete_barred r,
    fun hrun hlow => ?_⟩, fun code s => ⟨s.bootTimeout code, rfl, State.bootTimeout_ignored code,
    State.bootTimeout_recorded code⟩⟩
  have hon : ¬ (!s.running || s.power.resetLow) = true := by simp [hrun, hlow]
  refine ⟨fun h => ?_, fun h hp hf a b ha hb => ?_, State.bootComplete_tested r hon, fun h st hst =>
    State.bootComplete_stacks r hon h hst, fun h => ?_⟩
  · obtain ⟨hnext, htime⟩ := State.bootComplete_ended r hon h
    exact ⟨hnext, htime⟩
  · subst ha hb
    exact ⟨State.bootComplete_first r hon h hp hf, State.bootComplete_fellBack r hon h hp hf,
      State.bootComplete_stopped r hon h hp hf⟩
  · rw [State.bootComplete_join r hon h]
    exact (State.ready_shows _ _ 0).1

end Sys2Proof.Machine
end

section
/-! Where the statement on Watch fails: a switch tick whose restore finds a pair loss (R358, R368). -/

namespace Sys2Proof.Machine

open Sys2Proof

/-- The switch tick of tick 0 is reached with one own TORN segment, entry 0: a primary MIRRORED segment whose partner, module 1,
has failed. No cause of a hold stands. -/
def tornAtSwitch : State :=
  { State.reset with
    fst := [(0, [2 ^ 0 + 2 ^ 8, 2 ^ 16, 0, 0, 0, 0, 0, 0])]
    watch := { State.reset.watch with switchAt := some 0, tornOwn := [0], failed := [1] } }

set_option maxRecDepth 4000 in
/-- The restore that the switch starts finds the segment's only copy lost, and the module is not held: the hold's cause is armed
anew. -/
theorem tornAtSwitch_after : (State.switchTick tornAtSwitch).watch.switchSet = 8 := by with_unfolding_all decide

/-- Refutes O49: a switch tick that restores an own TORN segment arms the cause of a pair loss after it has cleared the causes
that stood, so the causes armed are not 0 after it. -/
theorem not_watchDecidesAndActs : ¬ Obligations.WatchDecidesAndActs := by
  rintro ⟨-, hswitch, -⟩
  obtain ⟨t, ht, -, hat⟩ := hswitch tornAtSwitch
  obtain rfl : State.switchTick tornAtSwitch = t := by injection ht
  obtain ⟨-, hset, -⟩ := (hat 0 rfl).2 (by decide)
  exact absurd (Eq.trans (Eq.symm tornAtSwitch_after) hset) (by decide)

end Sys2Proof.Machine
end

section
/-! The queue, the state after reset, and what no step undoes: burned fuses, metered energy and the tamper record (R445, R446,
R454, R456). -/

namespace Sys2Proof.Machine

open Sys2Proof

/-- Settles O1: the step matches on the queue, which is not empty. -/
theorem stepRunsFrontCommand : Obligations.StepRunsFrontCommand := by
  intro c l s h
  unfold step
  rw [h]

/-- Settles O4: the reset state is a literal. -/
theorem resetIsSafe : Obligations.ResetIsSafe :=
  ⟨⟨rfl, Nat.two_pow_pos 48, Nat.zero_le 256⟩, rfl, rfl, rfl, rfl, rfl⟩

/-- A step keeps the frame of every command (exec_keeps), the queue and the clock apart. -/
theorem step_keeps {s t : State} (h : step s = .next t) :
    KeepsOf ⟨s, fun _ => True⟩ s.pending s.clock t.mem t.belfry.tick t.fuses t.vane t.events := by
  obtain rfl | ⟨c, l, hc⟩ := step_cases h
  · exact keeps_refl (ok := fun _ => True) trivial
  · obtain ⟨u, hu, hk⟩ := exec_keeps c (z := ⟨s.withPending l, fun _ => True⟩) (keeps_refl trivial) trivial
      (fun _ => trivial) (fun _ => trivial)
    obtain rfl : u = t := by simpa using hu.symm.trans hc
    exact { hk with pending := rfl, clock := rfl }

/-- Settles O6: the fuses' part of the frame that every step keeps. -/
theorem fusesOnlyBurn : Obligations.FusesOnlyBurn :=
  fun _ _ h => ⟨(step_keeps h).svn, (step_keeps h).fkeys, (step_keeps h).revoked⟩

/-- Settles O7: the Vane's meters in the frame that every step keeps. -/
theorem energyOnlyIncreases : Obligations.EnergyOnlyIncreases :=
  fun _ _ h => ⟨(step_keeps h).eMain, (step_keeps h).eBackup⟩

/-- Settles O8: the break records the time once, and the tamper record is in the frame that every step keeps. -/
theorem tamperIsPermanent : Obligations.TamperIsPermanent := by
  refine ⟨fun s => ⟨s.tamperBreak, rfl, ?_⟩, fun _ _ h => (step_keeps h).tamper⟩
  unfold State.tamperBreak
  cases h : s.vane.tamper with
  | true =>
    rw [if_pos rfl, if_pos rfl]
    exact ⟨h, rfl, rfl, by rw [← h]⟩
  | false => exact ⟨rfl, rfl, rfl, rfl⟩

/-- Settles O21: the parts of every command (exec_parts). -/
theorem eachCommandKeepsTheRest : Obligations.EachCommandKeepsTheRest := by
  intro c s
  obtain ⟨t, ht, hp⟩ := exec_parts c s
  exact ⟨t, ht, fun _ => hp.same_of⟩

/-- A read that puts the upper bits of a 48-bit number into a status field of 16 bits and answers the low word: the pair is the
number, and no other field moves. -/
theorem State.latch_pair (s : State) (p : PageId) (r : Reg) {n : Nat} (hn : n < 2 ^ 48) (hk : heldKind r = false)
    (hw : r.w = 16) (hr : 0x100 ≤ r.off) (ht : p.ty ≠ 0x51) :
    ∃ t v, .next ((s.put p r 0 (n / 2 ^ 32)).emit (.value (n % 2 ^ 32))) =
        (.next t : Host.Outcome State Fault Refusal) ∧ Sys2Proof.Machine.answers s t v ∧ v < 2 ^ 32 ∧
      v + 2 ^ 32 * t.rd p r 0 = n ∧ onlyRegs [rkey p r 0] s t := by
  refine ⟨_, n % 2 ^ 32, rfl, rfl, Nat.mod_lt _ (Nat.two_pow_pos 32), ?_, rfl, ?_⟩
  · have hhi : (s.put p r 0 (n / 2 ^ 32)).rd p r 0 = n / 2 ^ 32 % 2 ^ 16 := hw ▸ State.rd_put_self _ _ _ _ _ hk
    rw [State.emit_rd, hhi]
    omega
  · intro q x i h
    rw [State.emit_rd]
    exact State.rd_put_block s _ (by simpa using h) hr ht

/-- Settles O12: each of the four reads latches a pair. -/
theorem stepReadsLatchTheirUpperHalf : Obligations.StepReadsLatchTheirUpperHalf := by
  refine ⟨fun s h => ?_, fun s h => ?_, fun s h => ?_, fun s c hc h => ?_⟩
  · exact s.latch_pair pgBelfry Bel.STEP_HI h rfl rfl (by decide) (by decide)
  · exact s.latch_pair pgWatch Wat.FLIGHT_STEP_HI h rfl rfl (by decide) (by decide)
  · exact s.latch_pair pgWatch Wat.DECL_STEP_HI h rfl rfl (by decide) (by decide)
  · have hexec : exec (.ueStepLoRead c) s =
        .next ((s.wr (pgUe c) Ue.STEP_HI (AL.getD s.ueStep c 0 / 2 ^ 32)).emit (.value (AL.getD s.ueStep c 0 % 2 ^ 32))) :=
      congrArg Host.Outcome.next (if_pos hc)
    have hput : s.wr (pgUe c) Ue.STEP_HI (AL.getD s.ueStep c 0 / 2 ^ 32) =
        s.put (pgUe c) Ue.STEP_HI 0 (AL.getD s.ueStep c 0 / 2 ^ 32) := s.wri_eq_put _ _ _ _ rfl (by decide)
    rw [hexec, hput]
    exact s.latch_pair (pgUe c) Ue.STEP_HI h rfl rfl (by decide) (by simp [pgUe])

end Sys2Proof.Machine
end

section
/-! Bytes and numbers: what a little-endian field of a record reads, and the bound of a CRC. -/

namespace Sys2Proof.Machine

open Sys2Proof

theorem leNat_leBytes : ∀ n v : Nat, leNat (leBytes n v) = v % 256 ^ n
  | 0, v => by simp [leBytes, leNat, Nat.mod_one]
  | n + 1, v => by simp [leBytes, leNat, leNat_leBytes n, Nat.pow_succ', Nat.mod_mul]

theorem leNat_lt : ∀ l : List Byte, leNat l < 256 ^ l.length
  | [] => Nat.one_pos
  | b :: l => by
    have hb : b.toNat < 256 := b.isLt
    have hl := leNat_lt l
    rw [leNat, List.length_cons, Nat.pow_succ]
    omega

/-- A field of `n` bytes is below 256^n. -/
theorem leAt_lt (l : List Byte) (i n : Nat) : leAt l i n < 256 ^ n :=
  (leNat_lt _).trans_le (Nat.pow_le_pow_right (by decide) (List.length_take_le ..))

/-- A field within the first of two records does not see the second. -/
theorem leAt_append_left {a : List Byte} (b : List Byte) {i n : Nat} (h : i + n ≤ a.length) :
    leAt (a ++ b) i n = leAt a i n := by
  delta leAt slice
  rw [List.drop_append_of_le_length (by omega), List.take_append_of_le_length (by simp; omega)]

/-- A field behind a record is the number put there. -/
theorem leAt_append_field {a : List Byte} {i : Nat} (h : a.length = i) (n v : Nat) :
    leAt (a ++ leBytes n v) i n = v % 256 ^ n := by
  subst h
  delta leAt slice
  rw [List.drop_left, List.take_of_length_le (length_leBytes n v).le, leNat_leBytes]

end Sys2Proof.Machine
end

section
/-! Tokens, attestation and the Vane (R450, R452–R459, R462). -/

namespace Sys2Proof.Machine

open Sys2Proof

/-! ## The pages of the Finial and of the mirror -/

/-- An error event leaves the block fields of the Finial as they read. -/
theorem State.rd_err_finial (s : State) (q : PageId) (c : Nat) {x : Reg} {j : Nat} (hx : 0x100 ≤ x.off) :
    (s.err q c).rd pgFinial x j = s.rd pgFinial x j :=
  State.rd_err_block s q c hx (by simp [rkey, pgFinial, pgHost]) (by simp [rkey, pgFinial, pgKeep])

/-- An error event leaves the block fields of the mirror as they read. -/
theorem State.rd_err_vane (s : State) (q : PageId) (c : Nat) {x : Reg} {j : Nat} (hx : 0x100 ≤ x.off) :
    (s.err q c).rd pgVane x j = s.rd pgVane x j :=
  State.rd_err_block s q c hx (by simp [rkey, pgVane, pgHost]) (by simp [rkey, pgVane, pgKeep])

/-! ## Tokens -/

/-- One word of a fresh challenge. -/
def State.drawChalWord (s : State) (w : Nat) : State := (s.draw 32).2.put pgFinial Fin.TEST_CHAL w (s.draw 32).1

/-- A word drawn reads as the next free value. -/
theorem State.drawChalWord_own (s : State) (w : Nat) :
    (s.drawChalWord w).rd pgFinial Fin.TEST_CHAL w = Config.freeValue s.free % 2 ^ 32 :=
  (State.rd_put_self _ _ _ _ _ rfl).trans (Nat.mod_mod ..)

/-- A word drawn leaves every other field of the page as it reads. -/
theorem State.drawChalWord_rd (s : State) {w j : Nat} {x : Reg} (h : rkey pgFinial x j ≠ rkey pgFinial Fin.TEST_CHAL w) :
    (s.drawChalWord w).rd pgFinial x j = s.rd pgFinial x j :=
  State.rd_put_block (s.draw 32).2 _ h (by decide) (by decide)

/-- Another word's place is another. -/
theorem testChal_ne {v w : Nat} (h : v ≠ w) : rkey pgFinial Fin.TEST_CHAL v ≠ rkey pgFinial Fin.TEST_CHAL w := by
  simp only [rkey, Fin.TEST_CHAL, ne_eq, RegKey.mk.injEq, true_and, and_true]
  omega

/-- The first `n` words of a challenge, drawn in order: each takes one free value. -/
theorem State.drawChalWords (s : State) : ∀ n, ((List.range n).foldl State.drawChalWord s).free = s.free + n ∧
    ∀ w < n, ((List.range n).foldl State.drawChalWord s).rd pgFinial Fin.TEST_CHAL w = Config.freeValue (s.free + w) % 2 ^ 32
  | 0 => ⟨rfl, fun _ h => absurd h (Nat.not_lt_zero _)⟩
  | n + 1 => by
    obtain ⟨hfree, hword⟩ := State.drawChalWords s n
    rw [List.range_succ, List.foldl_append]
    refine ⟨congrArg (· + 1) hfree, fun w hw => ?_⟩
    obtain hlt | rfl := Nat.lt_succ_iff_lt_or_eq.1 hw
    · exact (State.drawChalWord_rd _ (testChal_ne hlt.ne)).trans (hword w hlt)
    · exact (State.drawChalWord_own _ _).trans (by rw [hfree])

theorem State.drawChal_free (s : State) : s.drawChal.free = s.free + 8 := (s.drawChalWords 8).1

theorem State.drawChal_word (s : State) {w : Nat} (h : w < 8) :
    s.drawChal.rd pgFinial Fin.TEST_CHAL w = Config.freeValue (s.free + w) % 2 ^ 32 := (s.drawChalWords 8).2 w h

/-- A challenge drawn leaves the fields behind it. -/
theorem State.drawChal_rd (s : State) {x : Reg} (hx : 0x1E0 ≤ x.off) :
    s.drawChal.rd pgFinial x 0 = s.rd pgFinial x 0 := by
  have hstep : ∀ n ≤ 8, ((List.range n).foldl State.drawChalWord s).rd pgFinial x 0 = s.rd pgFinial x 0 := by
    intro n
    induction n with
    | zero => exact fun _ => rfl
    | succ n ih =>
      intro hn
      rw [List.range_succ, List.foldl_append]
      refine (State.drawChalWord_rd _ ?_).trans (ih (by omega))
      simp only [rkey, Fin.TEST_CHAL, ne_eq, RegKey.mk.injEq, true_and]
      omega
  exact hstep 8 (le_refl 8)

/-- What a token opens: debug access or test mode. -/
def tokenFlag (dbg : Bool) : Reg := if dbg then Fin.DBG_OPEN else Fin.TEST_ACTIVE

theorem tokenFlag_off (dbg : Bool) : 0x1E0 ≤ (tokenFlag dbg).off := by cases dbg <;> decide

theorem tokenFlag_w (dbg : Bool) : (tokenFlag dbg).w = 1 := by cases dbg <;> rfl

/-- A request with a token, which opens what its flag shows. -/
def State.tokenReq (s : State) (dbg : Bool) : State := s.token fun t => t.wrb pgFinial (tokenFlag dbg) true

theorem exec_tokenReq (dbg : Bool) (s : State) : exec (if dbg then .dbgReq else .testReq) s = .next (s.tokenReq dbg) := by
  cases dbg <;> rfl

section
variable (s : State) (dbg : Bool)

theorem State.tokenReq_joined (h : s.joined = true) : s.tokenReq dbg = s.err pgFinial 3 := if_pos h

theorem State.tokenReq_granted (h : s.joined = false) (hok : s.tokenOk = true) :
    s.tokenReq dbg = s.drawChal.wrb pgFinial (tokenFlag dbg) true := by
  delta State.tokenReq State.token
  simp [h, hok]

theorem State.tokenReq_refused (h : s.joined = false) (hok : s.tokenOk = false) :
    s.tokenReq dbg = s.drawChal.err pgFinial 3 := by
  delta State.tokenReq State.token
  simp [h, hok]

/-- A request that is not refused at once draws the challenge, whether it is granted or not. -/
theorem State.tokenReq_word (h : s.joined = false) {w : Nat} (hw : w < 8) :
    (s.tokenReq dbg).rd pgFinial Fin.TEST_CHAL w = Config.freeValue (s.free + w) % 2 ^ 32 := by
  cases hok : s.tokenOk with
  | true =>
    have hne : Fin.TEST_CHAL.off + Fin.TEST_CHAL.stride * w ≠ (tokenFlag dbg).off + (tokenFlag dbg).stride * 0 := by
      have := tokenFlag_off dbg
      change 0x1C0 + 4 * w ≠ (tokenFlag dbg).off + (tokenFlag dbg).stride * 0
      omega
    rw [s.tokenReq_granted dbg h hok]
    exact (State.rd_wri_same _ _ (.inl hne) (by decide) ((by decide : 0x100 ≤ 0x1E0).trans (tokenFlag_off dbg)) (by decide)).trans
      (s.drawChal_word hw)
  | false =>
    rw [s.tokenReq_refused dbg h hok, State.rd_err_finial _ _ _ (by decide)]
    exact s.drawChal_word hw

end

/-! ## Attestation -/

theorem State.attGo_idle {s : State} (h : s.rd pgFinial Fin.ATT_STATE 0 = 1) : s.attGo = s := if_pos h

theorem State.attGo_arms {s : State} (h : s.rd pgFinial Fin.ATT_STATE 0 ≠ 1) :
    s.attGo.rd pgFinial Fin.ATT_STATE 0 = 1 ∧ s.attGo.trust = { s.trust with attArmed := true, attForm := [], att := [] } := by
  have h1 : s.attGo = { s.wr pgFinial Fin.ATT_STATE 1 with
      trust := { s.trust with attArmed := true, attForm := [], att := [] } } := if_neg h
  rw [h1]
  exact ⟨State.rd_wr_own s 1 (by decide) (by decide), rfl⟩

theorem State.attReady_idle {s : State} (h : s.rd pgFinial Fin.ATT_STATE 0 ≠ 1 ∨ s.trust.attArmed = true) : s.attReady = s :=
  if_neg (by simpa [imp_iff_not_or] using h)

theorem State.attReady_signs {s : State} (h : s.rd pgFinial Fin.ATT_STATE 0 = 1) (ha : s.trust.attArmed = false) :
    s.attReady.rd pgFinial Fin.ATT_STATE 0 = 2 ∧
      s.attReady.trust.att = s.trust.attForm ++ padTo 35664 (Config.sign 0 s.trust.attForm) := by
  have h1 : s.attReady = { s.wr pgFinial Fin.ATT_STATE 2 with trust := { s.trust with
      att := s.trust.attForm ++ padTo 35664 (Config.sign 0 s.trust.attForm), attForm := [] } } := if_pos (by simp [h, ha])
  rw [h1]
  exact ⟨State.rd_wr_own s 2 (by decide) (by decide), rfl⟩

/-- A read that answers a word and moves a setting of 16 bits on by 4. -/
theorem State.readOn (s : State) (p : PageId) (r : Reg) (v : Nat) (hk : heldKind r = false) (hw : r.w = 16) (hr : 0x100 ≤ r.off)
    (ht : p.ty ≠ 0x51) :
    Sys2Proof.Machine.answers s ((s.wr p r (s.rd p r 0 + 4)).emit (.value v)) v ∧
      ((s.wr p r (s.rd p r 0 + 4)).emit (.value v)).rd p r 0 = (s.rd p r 0 + 4) % 2 ^ 16 ∧
      onlyRegs [rkey p r 0] s ((s.wr p r (s.rd p r 0 + 4)).emit (.value v)) := by
  obtain ⟨hb, hreg⟩ := s.wr_onlyRegs (s.rd p r 0 + 4) hk hr ht
  refine ⟨congrArg (· ++ [Output.value v]) (by simp), ?_, ?_, fun q x i h => ?_⟩
  · rw [State.emit_rd, State.rd_wr_own _ _ hr ht, hw]
  · exact sameBeyondRegs_trans hb rfl
  · exact (State.emit_rd ..).trans (hreg q x i h)

/-! ## Readings -/

/-- The number of a reading, and its main energy, in the record (Table 19.6). -/
theorem State.vaneRecord_fields (s : State) (p q : Nat) (fault : Bool) (l : List Byte) :
    leAt (s.vaneRecord p q fault ++ l) 8 8 = s.vane.seq % 2 ^ 64 ∧
      leAt (s.vaneRecord p q fault ++ l) 0x18 8 = s.vane.eMain % 2 ^ 64 := by
  unfold State.vaneRecord
  constructor
  · simp (disch := simp [length_leBytes]) only [leAt_append_left, leAt_append_field]
    rfl
  · simp (disch := simp [length_leBytes]) only [leAt_append_left, leAt_append_field]
    rfl

/-! ## The mirror -/

/-- What the mirror shows: its fields only. -/
theorem State.vmShow_beyond (s : State) (l : List Byte) : sameBeyondRegs s (s.vmShow l) := State.wrs_beyond ..

theorem State.vmShow_out (s : State) (l : List Byte) : (s.vmShow l).out = s.out :=
  (State.vmShow_parts (M := (· = .regs)) (parts_refl s) l rfl).same_of (p := .out) (by decide)

/-- The mirror shows the main energy and the number of the record, and leaves STALE. -/
theorem State.vmShow_fields (s : State) (l : List Byte) :
    (s.vmShow l).rd pgVane Van.VM_SEQ_LO 0 = leAt l 8 4 ∧ (s.vmShow l).rd pgVane Van.VM_SEQ_HI 0 = leAt l 12 4 ∧
      (s.vmShow l).rd pgVane Van.E_MAIN_LO 0 = leAt l 0x18 4 ∧
      (s.vmShow l).rd pgVane Van.STALE 0 = s.rd pgVane Van.STALE 0 := by
  have hword : ∀ i, leAt l i 4 % 2 ^ 32 = leAt l i 4 := fun i => Nat.mod_eq_of_lt (leAt_lt l i 4)
  unfold State.vmShow
  refine ⟨?_, ?_, ?_, State.rd_wrs_same (by decide) (by decide) _ (by simp only [List.map]; decide)⟩
  · exact (State.rd_wrs_head _ _ (by decide) (by decide) (by simp only [List.map]; decide)).trans (hword 8)
  · rw [State.wrs]
    exact (State.rd_wrs_head _ _ (by decide) (by decide) (by simp only [List.map]; decide)).trans (hword 12)
  · rw [State.wrs, State.wrs, State.wrs]
    exact (State.rd_wrs_head _ _ (by decide) (by decide) (by simp only [List.map]; decide)).trans (hword 0x18)

/-- A flag that rises leaves the mirror's fields. -/
theorem State.rd_vmRise (s : State) (a b f e : Nat) {x : Reg} {j : Nat} (hx : 0x100 ≤ x.off) :
    (s.vmRise a b f e).rd pgVane x j = s.rd pgVane x j := by
  delta State.vmRise
  split
  · exact State.rd_err_vane _ _ _ hx
  · rfl

theorem State.vmRise_trust (s : State) (a b f e : Nat) : (s.vmRise a b f e).trust = s.trust := by
  delta State.vmRise
  split
  · exact State.err_trust ..
  · rfl

section
variable {s : State} (l : List Byte)

theorem State.vaneMirror_off (h : s.power.p4 = true ∨ s.power.off = true ∨ s.power.resetLow = true) : s.vaneMirror l = s :=
  if_pos (by simpa [or_assoc] using h)

/-- What a reading that verifies leaves before its flags are compared: it is the last, and is shown until a snapshot is taken. -/
def State.vmTake (s : State) (l : List Byte) : State :=
  let s1 := ({ s with trust := { s.trust with vmLast := l, vmAt := s.clock } }).wr pgVane Van.STALE 0
  if s.trust.vmSnap.isEmpty then s1.vmShow l else s1

theorem State.vmTake_trust (s : State) (l : List Byte) :
    (s.vmTake l).trust = { s.trust with vmLast := l, vmAt := s.clock } := by
  delta State.vmTake
  dsimp only
  split
  · rw [State.vmShow_beyond]
    simp
  · simp

theorem State.vmTake_stale (s : State) (l : List Byte) : (s.vmTake l).rd pgVane Van.STALE 0 = 0 := by
  have h0 : ∀ u : State, (u.wr pgVane Van.STALE 0).rd pgVane Van.STALE 0 = 0 := fun u =>
    State.rd_wr_own u 0 (by decide) (by decide)
  delta State.vmTake
  dsimp only
  split
  · exact (State.vmShow_fields _ _).2.2.2.trans (h0 _)
  · exact h0 _

theorem State.vmTake_shown {s : State} (l : List Byte) (h : s.trust.vmSnap = []) :
    (s.vmTake l).rd pgVane Van.E_MAIN_LO 0 = leAt l 0x18 4 := by
  delta State.vmTake
  rw [h]
  exact (State.vmShow_fields _ _).2.2.1

section
variable (h4 : s.power.p4 = false) (ho : s.power.off = false) (hr : s.power.resetLow = false)
include h4 ho hr

theorem State.vaneMirror_taken (h : (l.length = 35728 && Config.verify vanePubBytes (l.take 64) (l.drop 64) : Bool) = true) :
    s.vaneMirror l = ((s.vmTake l).vmRise (leAt s.trust.vmLast 6 2) (leAt l 6 2) 0 2).vmRise
      (leAt s.trust.vmLast 6 2) (leAt l 6 2) 1 3 := by
  delta State.vaneMirror
  rw [if_neg (by simp [h4, ho, hr]), if_pos h]
  rfl

theorem State.vaneMirror_bad (h : (l.length = 35728 && Config.verify vanePubBytes (l.take 64) (l.drop 64) : Bool) = false) :
    s.vaneMirror l = (s.bump pgVane Van.SIG_BAD_CNT).err pgVane 0 := by
  delta State.vaneMirror
  rw [if_neg (by simp [h4, ho, hr]), if_neg (by simp [h])]

end
end

theorem State.vaneStale_fresh {s : State} (h : s.clock < s.trust.vmAt + 3300000000) : s.vaneStale = s :=
  if_neg (Nat.not_le.2 h)

theorem State.vaneStale_shown {s : State} (h : s.trust.vmAt + 3300000000 ≤ s.clock) :
    s.vaneStale.rd pgVane Van.STALE 0 = 1 ∧ errSet s.vaneStale pgVane 1 := by
  have h1 : s.vaneStale = (s.wr pgVane Van.STALE 1).err pgVane 1 := if_pos h
  rw [h1]
  exact ⟨(State.rd_err_vane _ _ _ (by decide)).trans (State.rd_wr_own s 1 (by decide) (by decide)),
    State.err_bit _ _ _ (by decide)⟩

/-- A snapshot taken: the record shown is the last mirrored. -/
def State.vmSnapshot (s : State) : State := ({ s with trust := { s.trust with vmSnap := s.trust.vmLast } }).vmShow s.trust.vmLast

theorem State.readVmSeq_empty {s : State} (h : s.trust.vmLast = []) : s.readVmSeq = (s.rd pgVane Van.VM_SEQ_LO 0, s) := by
  delta State.readVmSeq
  rw [h]
  rfl

theorem State.readVmSeq_snapshot {s : State} (h : s.trust.vmLast ≠ []) : s.readVmSeq = (leAt s.trust.vmLast 8 4, s.vmSnapshot) := by
  have h1 : s.readVmSeq = (s.vmSnapshot.rd pgVane Van.VM_SEQ_LO 0, s.vmSnapshot) := by
    delta State.readVmSeq
    rw [if_neg (by simpa using h)]
    rfl
  rw [h1]
  delta State.vmSnapshot
  rw [(State.vmShow_fields _ _).1]

theorem State.readVmSig_eq (s : State) : s.readVmSig =
    (leAt (if s.trust.vmSnap = [] then s.trust.vmLast else s.trust.vmSnap) (s.rd pgVane Van.VM_SIG_OFF 0) 4,
      s.wr pgVane Van.VM_SIG_OFF (s.rd pgVane Van.VM_SIG_OFF 0 + 4)) := by
  unfold State.readVmSig
  simp only [List.isEmpty_iff]

theorem State.vaneReading_fields (s : State) (m b p q : Nat) (fault : Bool) :
    leAt (s.vaneReading m b p q fault).vane.reading 8 8 = (s.vane.seq + 1) % 2 ^ 64 ∧
      leAt (s.vaneReading m b p q fault).vane.reading 0x18 8 = (s.vaneReading m b p q fault).vane.eMain % 2 ^ 64 :=
  State.vaneRecord_fields (s.setVane { s.vane with
    eMain := count64 s.vane.eMain m, eBackup := count64 s.vane.eBackup b, seq := s.vane.seq + 1, time := s.vane.time + 1 }) p q fault _

theorem tokenFlag_eq (dbg : Bool) : (if dbg then Fin.DBG_OPEN else Fin.TEST_ACTIVE) = tokenFlag dbg := rfl

/-- Settles O60: each command by the lemma on what it does. -/
theorem tokensReportsAndReadings : Obligations.TokensReportsAndReadings := by
  unfold Obligations.TokensReportsAndReadings
  simp only [tokenFlag_eq]
  refine ⟨fun dbg s => ⟨s.tokenReq dbg, exec_tokenReq dbg s, fun h => ?_, fun h => ⟨fun w => s.tokenReq_word dbg h, fun hok => ?_,
      fun hok => ?_⟩⟩,
    fun s => ⟨s.attGo, rfl, State.attGo_idle, State.attGo_arms⟩,
    fun s => ⟨s.attReady, rfl, State.attReady_idle, State.attReady_signs⟩,
    fun s => ⟨_, rfl, s.readOn pgFinial Fin.ATT_OFF _ rfl rfl (by decide) (by decide)⟩,
    fun m b p q fault s => ⟨s.vaneReading m b p q fault, (s.vaneReading m b p q fault).vane.reading, rfl, rfl, rfl, rfl, rfl, rfl, rfl,
      rfl, (s.vaneReading_fields m b p q fault).1, (s.vaneReading_fields m b p q fault).2, rfl⟩,
    fun s => rfl,
    fun l s => ⟨s.vaneMirror l, rfl, State.vaneMirror_off l, fun h4 ho hr ok hok => ⟨fun h => ?_, fun h => ?_⟩⟩,
    fun s => ⟨s.vaneStale, rfl, State.vaneStale_fresh, State.vaneStale_shown⟩,
    fun s => ⟨s.readVmSeq.2.emit (.value s.readVmSeq.1), rfl, fun h => ?_, fun h => ?_⟩,
    fun s => ⟨s.readVmSig.2.emit (.value s.readVmSig.1), rfl, ?_⟩⟩
  · rw [s.tokenReq_joined dbg h]
    exact ⟨State.err_bit _ _ _ (by decide), State.err_beyond .., State.rd_err_finial _ _ _ (by decide)⟩
  · rw [s.tokenReq_granted dbg h hok]
    refine ⟨?_, by simp [State.drawChal_free]⟩
    exact (State.rd_wri_own _ _ ((by decide : 0x100 ≤ 0x1E0).trans (tokenFlag_off dbg)) (by decide)).trans (by rw [tokenFlag_w]; rfl)
  · rw [s.tokenReq_refused dbg h hok]
    exact ⟨State.err_bit _ _ _ (by decide),
      (State.rd_err_finial _ _ _ ((by decide : 0x100 ≤ 0x1E0).trans (tokenFlag_off dbg))).trans (s.drawChal_rd (tokenFlag_off dbg))⟩
  · subst hok
    rw [State.vaneMirror_taken l h4 ho hr h, State.vmRise_trust, State.vmRise_trust, State.vmTake_trust,
      State.rd_vmRise _ _ _ _ _ (by decide), State.rd_vmRise _ _ _ _ _ (by decide), State.rd_vmRise _ _ _ _ _ (by decide),
      State.rd_vmRise _ _ _ _ _ (by decide)]
    exact ⟨s.vmTake_stale l, rfl, State.vmTake_shown l⟩
  · subst hok
    rw [State.vaneMirror_bad l h4 ho hr h]
    refine ⟨?_, State.err_bit _ _ _ (by decide), by simp⟩
    exact (State.rd_err_vane _ _ _ (by decide)).trans (State.rd_bumpi_own s 1 (by decide) (by decide) rfl)
  · rw [State.readVmSeq_empty h]
    exact ⟨rfl, rfl, fun _ _ _ _ => State.emit_rd ..⟩
  · rw [State.readVmSeq_snapshot h]
    refine ⟨?_, ?_, (State.emit_rd ..).trans (State.vmShow_fields _ _).2.1⟩
    · exact congrArg (· ++ [Output.value _]) (State.vmShow_out ..)
    · rw [State.emit_trust]
      delta State.vmSnapshot
      rw [State.vmShow_beyond]
  · rw [State.readVmSig_eq]
    exact s.readOn pgVane Van.VM_SIG_OFF _ rfl rfl (by decide) (by decide)

end Sys2Proof.Machine
end

section
/-! What a store leaves of the bytes around it, and what a read of part of it gives. -/

namespace Sys2Proof.Machine

open Sys2Proof

/-- A read of part of a read range is a part of its bytes. -/
theorem memRead_slice (m : List Host.Cell) : ∀ {a i n N : Nat}, i + n ≤ N → memRead m (a + i) n = slice (memRead m a N) i n
  | a, 0, 0, _, _ => by simp [memRead, slice]
  | a, 0, n + 1, N + 1, h => by
    have ih := memRead_slice m (a := a + 1) (i := 0) (n := n) (N := N) (by omega)
    simp only [slice, List.drop_zero, Nat.add_zero] at ih ⊢
    simp only [memRead, List.take_succ_cons, ih]
  | _, i + 1, _, 0, h => absurd h (by omega)
  | a, i + 1, n, N + 1, h => by
    have ih := memRead_slice m (a := a + 1) (i := i) (n := n) (N := N) (by omega)
    rw [show a + (i + 1) = a + 1 + i by omega, ih]
    rfl

/-- Part of what is stored reads as stored. -/
theorem State.peek_poke_slice (s : State) (sp off : Nat) (l : List Byte) {i n : Nat} (hw : memWf s.mem = true)
    (hin : i + n ≤ l.length) (ho : off + i < 2 ^ 40) : (s.poke sp off l).peek sp (off + i) n = slice l i n := by
  have hcell : cellAddr sp (off + i) = cellAddr sp off + i := (cellAddr_add (.inl ho)).symm
  have hall : memRead (memWrite s.mem (cellAddr sp off) l) (cellAddr sp off) l.length = l := memRead_memWrite _ _ hw
  delta State.peek
  rw [hcell, State.poke_mem, memRead_slice _ hin, hall]

/-- A store changes no byte outside it. -/
theorem State.poke_storesOnly (s : State) (sp off : Nat) (l : List Byte) : storesOnly s (s.poke sp off l) sp off l.length :=
  fun _ hc => memGet_memWrite_apart l s.mem _ hc

/-- A read depends on the memory alone. -/
theorem State.peek_of_mem {s t : State} (h : t.mem = s.mem) (sp off n : Nat) : t.peek sp off n = s.peek sp off n := by
  delta State.peek
  rw [h]

theorem crcByteR_lt {c : Nat} (b : Byte) (h : c < 2 ^ 32) : crcByteR 0x82F63B78 c b < 2 ^ 32 := by
  have hstep : ∀ x < 2 ^ 32, (if x % 2 = 1 then Nat.xor (x / 2) 0x82F63B78 else x / 2) < 2 ^ 32 := by
    intro x hx
    split
    · exact Nat.xor_lt_two_pow (by omega) (by omega)
    · omega
  have hb : Nat.xor c b.toNat < 2 ^ 32 := Nat.xor_lt_two_pow h (b.isLt.trans (by decide))
  exact hstep _ (hstep _ (hstep _ (hstep _ (hstep _ (hstep _ (hstep _ (hstep _ hb)))))))

/-- A CRC is a number of 32 bits. -/
theorem crc32c_lt (l : List Byte) : crc32c l < 2 ^ 32 := by
  have hfold : ∀ (l : List Byte) {c : Nat}, c < 2 ^ 32 → l.foldl (crcByteR 0x82F63B78) c < 2 ^ 32 := by
    intro l
    induction l with
    | nil => exact fun h => h
    | cons b l ih => exact fun h => ih (crcByteR_lt b h)
  exact Nat.xor_lt_two_pow (hfold l (by decide)) (by decide)

/-- A CRC put into four bytes reads back. -/
theorem leNat_crc (l : List Byte) : leNat (leBytes 4 (crc32c l)) = crc32c l :=
  (leNat_leBytes 4 _).trans (Nat.mod_eq_of_lt (crc32c_lt l))

/-- The part of a record behind its first part. -/
theorem slice_right {a : List Byte} {i : Nat} (h : a.length = i) (b : List Byte) : slice (a ++ b) i b.length = b := by
  subst h
  simp [slice]

theorem slice_left {a : List Byte} {n : Nat} (h : a.length = n) (b : List Byte) : slice (a ++ b) 0 n = a := by
  subst h
  simp [slice]

end Sys2Proof.Machine
end

section
/-! Updates, fuses and program keys (R442–R449). -/

namespace Sys2Proof.Machine

open Sys2Proof

/-! ## Admission -/

/-- Admission reads the memory and the fuses alone. -/
theorem State.fwCheck_of {s t : State} (hm : t.mem = s.mem) (hf : t.fuses = s.fuses) (sp off lim : Nat) :
    t.fwCheck sp off lim = s.fwCheck sp off lim := by
  delta State.fwCheck State.fkeySlot State.fwBody State.peekN State.peek
  rw [hm, hf]

/-- The codes of Table 19.4. -/
theorem State.fwCheck_le (s : State) (sp off lim : Nat) : s.fwCheck sp off lim ≤ 4 := by
  delta State.fwCheck
  dsimp only
  split
  · decide
  · split
    · decide
    · split
      · decide
      · split <;> decide

/-- A refusal shows its code and raises PG_ERR 1. -/
theorem State.updRefused_shows (s : State) {code : Nat} (hc : code < 2 ^ 8) :
    (s.updRefused code).rd pgLantern Fwu.UPD_STATE 0 = 4 ∧ (s.updRefused code).rd pgLantern Fwu.UPD_CODE 0 = code ∧
      errSet (s.updRefused code) pgFinial 1 ∧ (s.updRefused code).trust = s.trust := by
  have hblock : ∀ (u : State) (r : Reg), 0x100 ≤ r.off → (u.err pgFinial 1).rd pgLantern r 0 = u.rd pgLantern r 0 := fun u r hr =>
    State.rd_err_block u _ _ hr (by simp [rkey, pgLantern, pgHost]) (by simp [rkey, pgLantern, pgKeep])
  unfold State.updRefused
  refine ⟨(hblock _ _ (by decide)).trans ?_, (hblock _ _ (by decide)).trans ?_, State.err_bit _ _ _ (by decide), ?_⟩
  · exact State.rd_wrs_head _ _ (by decide) (by decide) (by simp only [List.map]; decide)
  · exact (State.rd_wr_own (s.wr pgLantern Fwu.UPD_STATE 4) code (by decide) (by decide)).trans (Nat.mod_eq_of_lt hc)
  · rw [State.err_trust]
    exact (State.wr_trust ..).trans (State.wr_trust ..)

theorem State.updGo_ignored {s : State} {key : Nat} (h : key ≠ 0xA5 ∨ s.updBusy = true) : s.updGo key = s :=
  if_pos (by simpa using h)

/-- The offset of the staged image. -/
def State.updOff (s : State) : Nat := s.rd pgLantern Fwu.UPD_ADDR_LO 0 * 4096 + s.rd pgLantern Fwu.UPD_ADDR_HI 0 * 2 ^ 32

section
variable {s : State} (hb : s.updBusy = false)
include hb

theorem State.updGo_refused (h : s.fwCheck spHbm s.updOff (s.rd pgLantern Fwu.UPD_LEN 0) ≠ 0) :
    s.updGo 0xA5 = s.updRefused (s.fwCheck spHbm s.updOff (s.rd pgLantern Fwu.UPD_LEN 0)) := by
  delta State.updGo
  rw [if_neg (by simp [hb])]
  exact if_pos h

theorem State.updGo_staged (h : s.fwCheck spHbm s.updOff (s.rd pgLantern Fwu.UPD_LEN 0) = 0) :
    (s.updGo 0xA5).rd pgLantern Fwu.UPD_STATE 0 = 2 ∧ (s.updGo 0xA5).rd pgLantern Fwu.UPD_CODE 0 = 0 ∧ (s.updGo 0xA5).trust =
      { s.trust with update := some (s.peek spHbm s.updOff (128 + s.peekN spHbm (s.updOff + 0x14) 4 + 29792)) } := by
  have h1 : s.updGo 0xA5 = (({ s.wrs pgLantern [(Fwu.UPD_STATE, 2), (Fwu.UPD_CODE, 0)] with
      trust := { (s.wrs pgLantern [(Fwu.UPD_STATE, 2), (Fwu.UPD_CODE, 0)]).trust with
        update := some (s.peek spHbm s.updOff (128 + s.peekN spHbm (s.updOff + 0x14) 4 + fwSigLen)) } }).zeroRange spFlash
        (flSlot (1 - s.rd pgLantern Fwu.ACTIVE_SLOT 0)) slotLen).wri pgLantern Fwu.SLOT_STATE
        (1 - s.rd pgLantern Fwu.ACTIVE_SLOT 0) 3 := by
    delta State.updGo
    rw [if_neg (by simp [hb])]
    exact if_neg (not_not.2 h)
  have hne : ∀ i, Fwu.UPD_STATE.off + Fwu.UPD_STATE.stride * 0 ≠ Fwu.SLOT_STATE.off + Fwu.SLOT_STATE.stride * (1 - i) := by
    intro i
    simp only [Fwu.UPD_STATE, Fwu.SLOT_STATE]
    omega
  rw [h1]
  refine ⟨(State.rd_wri_same (p := pgLantern) _ _ (.inl (hne _)) (by decide) (by decide) (by decide)).trans ?_,
    (State.rd_wri_same (p := pgLantern) (x := Fwu.UPD_CODE) _ _ (.inl (hne _)) (by decide) (by decide) (by decide)).trans ?_, ?_⟩
  · exact State.rd_wrs_head (p := pgLantern) s 2 (by decide) (by decide) (by simp only [List.map]; decide)
  · exact State.rd_wr_own (s.wr pgLantern Fwu.UPD_STATE 2) 0 (by decide) (by decide)
  · simp [State.zeroRange, State.wrs, fwSigLen]

end

/-! ## The slot written -/

theorem State.updateComplete_none {s : State} (h : s.trust.update = none) : s.updateComplete = s := by
  delta State.updateComplete
  rw [h]

/-- The slot with the update in it, shown. -/
def State.updWritten (s : State) (slot : Nat) (l : List Byte) : State :=
  (({ s with trust := { s.trust with update := none } }).poke spFlash (flSlot slot) l).showSlot slot

theorem State.showSlot_mem (s : State) (slot : Nat) : (s.showSlot slot).mem = s.mem := by
  delta State.showSlot
  simp
theorem State.showSlot_fuses (s : State) (slot : Nat) : (s.showSlot slot).fuses = s.fuses := by
  delta State.showSlot
  simp
theorem State.showSlot_trust (s : State) (slot : Nat) : (s.showSlot slot).trust = s.trust := by
  delta State.showSlot
  simp

theorem State.updWritten_check (s : State) (slot : Nat) (l : List Byte) :
    (s.updWritten slot l).fwCheck spFlash (flSlot slot) slotLen =
      (s.poke spFlash (flSlot slot) l).fwCheck spFlash (flSlot slot) slotLen :=
  State.fwCheck_of (State.showSlot_mem ..) (State.showSlot_fuses ..) _ _ _

theorem State.updWritten_trust (s : State) (slot : Nat) (l : List Byte) :
    (s.updWritten slot l).trust = { s.trust with update := none } := State.showSlot_trust ..

section
variable {s : State} {l : List Byte} {slot : Nat} (hslot : slot = 1 - s.rd pgLantern Fwu.ACTIVE_SLOT 0)
  (hl : s.trust.update = some l)
include hslot hl

theorem State.updateComplete_some : s.updateComplete =
    if (s.updWritten slot l).fwCheck spFlash (flSlot slot) slotLen = 0 then
      ((s.updWritten slot l).writeNext slot).wr pgLantern Fwu.UPD_STATE 3
    else (s.updWritten slot l).updRefused 5 := by
  subst hslot
  delta State.updateComplete
  rw [hl]
  rfl

end

/-- NEXT_SLOT is read from memory alone. -/
theorem State.nextSlot_of {s t : State} (h : t.mem = s.mem) : t.nextSlot = s.nextSlot := by
  delta State.nextSlot State.nextCopy State.peek
  rw [h]

/-- A copy of NEXT_SLOT: the slot and its CRC. -/
def nextBytes (slot : Nat) : List Byte := leBytes 4 slot ++ leBytes 4 (crc32c (leBytes 4 slot))

theorem length_nextBytes (slot : Nat) : (nextBytes slot).length = 8 := by
  delta nextBytes
  simp [length_leBytes]

/-- The first copy written is right, and names the slot. -/
theorem State.writeNext_next (s : State) {slot : Nat} (hw : memWf s.mem = true) (hs : slot ≤ 1) :
    (s.writeNext slot).nextSlot = slot := by
  have hread : ∀ i ≤ 4, (s.writeNext slot).peek spFlash (0 + i) 4 = slice (nextBytes slot ++ nextBytes slot) i 4 := by
    intro i hi
    refine (State.peek_of_mem (s := s.poke spFlash 0 (nextBytes slot ++ nextBytes slot)) (State.wr_mem ..) _ _ _).trans ?_
    exact State.peek_poke_slice _ _ _ _ hw (by simp [length_nextBytes]; omega) (by omega)
  have h0 : (s.writeNext slot).peek spFlash 0 4 = leBytes 4 slot := by
    refine (hread 0 (by decide)).trans ?_
    delta nextBytes
    rw [List.append_assoc]
    exact slice_left (length_leBytes ..) _
  have h4 : (s.writeNext slot).peek spFlash (0 + 4) 4 = leBytes 4 (crc32c (leBytes 4 slot)) := by
    refine (hread 4 (by decide)).trans ?_
    delta nextBytes slice
    simp [length_leBytes]
  have hcopy : (s.writeNext slot).nextCopy 0 = some slot := by
    delta State.nextCopy
    rw [h0, h4, leNat_crc, if_pos rfl, leNat_leBytes]
    congr 1
    omega
  delta State.nextSlot
  rw [hcopy]
  rfl

/-! ## Fuses -/

theorem State.fwCommit_burns {s : State} (h : s.fuses.svnMin < s.trust.svn) :
    s.fwCommit 0xA5 = { s with fuses := { s.fuses with svnMin := s.trust.svn } } := if_pos h

/-- A commit of no newer number is refused with code 6, whatever UPD_STATE takes. -/
theorem State.fwCommit_refused {s : State} (h : s.trust.svn ≤ s.fuses.svnMin) :
    (s.fwCommit 0xA5).rd pgLantern Fwu.UPD_CODE 0 = 6 ∧ errSet (s.fwCommit 0xA5) pgFinial 1 ∧
      sameBeyondReports s (s.fwCommit 0xA5) := by
  have h1 : s.fwCommit 0xA5 = (if s.updBusy then s.wr pgLantern Fwu.UPD_CODE 6
      else (s.wr pgLantern Fwu.UPD_CODE 6).wr pgLantern Fwu.UPD_STATE 4).err pgFinial 1 := if_neg (Nat.not_lt.2 h)
  have hcode : (s.wr pgLantern Fwu.UPD_CODE 6).rd pgLantern Fwu.UPD_CODE 0 = 6 := State.rd_wr_own s 6 (by decide) (by decide)
  rw [h1]
  refine ⟨?_, State.err_bit _ _ _ (by decide), sameBeyondReports_trans (sameBeyondRegs.reports ?_) (State.err_beyond ..)⟩
  · refine (State.rd_err_block _ _ _ (by decide) (by decide) (by decide)).trans ?_
    split
    · exact hcode
    · exact (State.rd_wr_same _ _ (by decide) (by decide) (by decide) (by decide)).trans hcode
  · split
    · exact State.wr_beyond ..
    · exact sameBeyondRegs_trans (State.wr_beyond ..) (State.wr_beyond ..)

/-- A mask of four bits with one cleared. -/
theorem testBit_clrBit : ∀ m < 16, ∀ i < 4, ∀ j < 4, (clrBit m i).testBit j = (m.testBit j && decide (j ≠ i)) := by decide

/-- The slots that a write of FKEY_REVOKE burns: those of the mask but its own image's. -/
theorem revoked_testBit (r mask : Nat) {own : Nat} (ho : own < 4) (i : Nat) :
    (Nat.lor r (clrBit (mask % 16) own)).testBit i = true ↔ r.testBit i = true ∨ i < 4 ∧ i ≠ own ∧ bit mask i = true := by
  have hm : mask % 16 < 16 := Nat.mod_lt _ (by decide)
  have hmask : (clrBit (mask % 16) own).testBit i = true ↔ i < 4 ∧ i ≠ own ∧ bit mask i = true := by
    by_cases hi : i < 4
    · rw [testBit_clrBit _ hm _ ho _ hi, show mask % 16 = mask % 2 ^ 4 from rfl, Nat.testBit_mod_two_pow, bit_eq_testBit]
      simp [hi, and_comm]
    · have hle : clrBit (mask % 16) own < 2 ^ i := by
        have h4 : 2 ^ 4 ≤ 2 ^ i := Nat.pow_le_pow_right (by decide) (Nat.not_lt.1 hi)
        unfold clrBit
        split
        · exact (Nat.sub_le _ _).trans_lt (by omega)
        · omega
      simp [Nat.testBit_lt_two_pow hle, hi]
  rw [← hmask]
  change (r ||| _).testBit i = true ↔ _
  rw [Nat.testBit_or, Bool.or_eq_true]

/-- The fuses with the slots of a mask burned. -/
def State.revokeBurn (s : State) (mask : Nat) : State :=
  { s with fuses := { s.fuses with
    revoked := Nat.lor s.fuses.revoked (clrBit (mask % 16) (s.rd pgFinial Fin.FKEY_IDX 0)) } }

theorem State.fkeyRevoke_eq (s : State) (mask : Nat) : s.fkeyRevoke mask 0xA5 =
    if bit (mask % 16) (s.rd pgFinial Fin.FKEY_IDX 0) then (s.revokeBurn mask).err pgFinial 2 else s.revokeBurn mask := rfl

/-! ## Program keys -/

theorem State.enroll_refused {s : State}
    (h : s.finialLocked = true ∨ (AL.getD s.keys (s.rd pgFinial Fin.PK_SEL 0) KeySlot.empty).state ≠ 0) :
    s.enroll = s.err pgFinial 2 := if_pos (by simpa using h)

theorem State.enroll_fills {s : State} (h : s.finialLocked = false)
    (hk : (AL.getD s.keys (s.rd pgFinial Fin.PK_SEL 0) KeySlot.empty).state = 0) :
    s.enroll = { s with
      keys := AL.put s.keys (s.rd pgFinial Fin.PK_SEL 0) ⟨s.pkData, s.rdb pgFinial Fin.PK_TEST, 1⟩ } := if_neg (by simp [h, hk])

theorem State.revoke_refused {s : State} (h : s.finialLocked = true) : s.revoke = s.err pgFinial 2 := if_pos h

theorem State.revoke_marks {s : State} (h : s.finialLocked = false) :
    s.revoke = { s with
      keys := AL.put s.keys (s.rd pgFinial Fin.PK_SEL 0)
        { AL.getD s.keys (s.rd pgFinial Fin.PK_SEL 0) KeySlot.empty with state := 2 } } := if_neg (by simp [h])

theorem State.keySave_refused {s : State} (h : s.finialLocked = true) : s.keySave = s.err pgFinial 2 := if_pos h

theorem length_keyBytes (k : KeySlot) : (keyBytes k).length = 52 := by
  simp [keyBytes, padTo, length_leBytes]
  omega

theorem State.length_keyTable (s : State) : s.keyTable.length = 832 := by
  simp [State.keyTable, List.length_flatMap, length_keyBytes]

theorem State.keySave_stores {s : State} (h : s.finialLocked = false) :
    s.keySave = s.poke spFlash flKeys (s.keyTable ++ leBytes 4 (crc32c s.keyTable)) := if_neg (by simp [h])

/-- The sector saved reads as the table and its CRC. -/
theorem State.keySave_reads {s : State} (h : s.finialLocked = false) (hw : memWf s.mem = true) :
    s.keySave.peek spFlash flKeys 832 = s.keyTable ∧ s.keySave.peekN spFlash (flKeys + 832) 4 = crc32c s.keyTable := by
  have hlen : (s.keyTable ++ leBytes 4 (crc32c s.keyTable)).length = 836 := by simp [s.length_keyTable, length_leBytes]
  have h0 := s.peek_poke_slice spFlash flKeys (i := 0) (n := 832) _ hw (by rw [hlen]; decide) (by decide)
  have h1 := s.peek_poke_slice spFlash flKeys (i := 832) (n := 4) _ hw (by rw [hlen]) (by decide)
  rw [State.keySave_stores h]
  refine ⟨h0.trans (slice_left s.length_keyTable _), ?_⟩
  delta State.peekN
  rw [h1]
  exact (congrArg leNat (slice_right s.length_keyTable (leBytes 4 _))).trans (leNat_crc _)

/-- Settles O59: each command by the lemma on what it does. -/
theorem firmwareAndKeysAreAdmitted : Obligations.FirmwareAndKeysAreAdmitted := by
  unfold Obligations.FirmwareAndKeysAreAdmitted
  refine ⟨fun key off s hoff => ⟨s.updGo key, rfl, State.updGo_ignored, fun hkey hb code hcode => ?_⟩,
    fun slot s hslot => ⟨s.updateComplete, rfl, State.updateComplete_none, fun l hl => ?_⟩,
    fun key s => ⟨s.fwCommit key, rfl, fun h => if_pos h, fun h => h ▸ State.fwCommit_burns, fun h => h ▸ State.fwCommit_refused⟩,
    fun mask key own s hown hlt => ⟨s.fkeyRevoke mask key, rfl, fun h => if_pos h, fun hkey => ?_⟩,
    fun i k s hi hk => ⟨⟨s.enroll, rfl, fun h => ?_, fun h h0 => ?_⟩, ⟨s.revoke, rfl, fun h => ?_, fun h => ?_⟩⟩,
    fun s => ⟨s.keySave, rfl, fun h => ?_, fun h => ⟨?_, ?_, State.keySave_reads h⟩⟩⟩
  · subst hkey hoff hcode
    refine ⟨fun h => ?_, State.updGo_staged hb⟩
    rw [State.updGo_refused hb h]
    exact s.updRefused_shows ((State.fwCheck_le ..).trans_lt (by decide))
  · rw [State.updateComplete_some hslot hl, State.updWritten_check]
    have hs : slot ≤ 1 := by omega
    refine ⟨?_, fun h => ?_, fun h => ?_⟩
    · split
      · simp [State.writeNext, State.updWritten_trust]
      · rw [(State.updRefused_shows _ (by decide)).2.2.2, State.updWritten_trust]
    · rw [if_pos h]
      refine ⟨State.rd_wr_own _ 3 (by decide) (by decide), ?_, fun hw => ?_⟩
      · refine (State.rd_wr_same _ _ (by decide) (by decide) (by decide) (by decide)).trans ?_
        exact (State.rd_wr_own _ slot (by decide) (by decide)).trans (Nat.mod_eq_of_lt (Nat.lt_succ_of_le hs))
      · have hwf : memWf (s.updWritten slot l).mem = true :=
          (congrArg memWf (State.showSlot_mem ..)).trans (memWf_memWrite _ _ hw)
        rw [State.nextSlot_of (State.wr_mem ..), State.writeNext_next _ hwf hs]
    · rw [if_neg h]
      obtain ⟨hstate, hcode, herr, -⟩ := (s.updWritten slot l).updRefused_shows (code := 5) (by decide)
      exact ⟨hstate, hcode, herr⟩
  · subst hkey hown
    have hbit : bit (mask % 16) (s.rd pgFinial Fin.FKEY_IDX 0) = bit mask (s.rd pgFinial Fin.FKEY_IDX 0) := bit_mod (w := 4) hlt
    have hfuses : (s.fkeyRevoke mask 0xA5).fuses = (s.revokeBurn mask).fuses := by
      rw [State.fkeyRevoke_eq]
      split
      · exact State.err_fuses ..
      · rfl
    rw [hfuses]
    refine ⟨revoked_testBit _ _ hlt, rfl, fun h => ?_, fun h => ?_⟩
    · rw [State.fkeyRevoke_eq, if_pos (hbit.trans h)]
      exact State.err_bit _ _ _ (by decide)
    · rw [State.fkeyRevoke_eq, if_neg (by simp [hbit, h])]
      rfl
  · subst hi hk
    rw [State.enroll_refused h]
    exact ⟨State.err_bit _ _ _ (by decide), State.err_beyond ..⟩
  · subst hi hk
    rw [State.enroll_fills h h0]
    exact ⟨rfl, AL.get_put_self .., fun j hj => AL.get_put_ne _ _ hj⟩
  · rw [State.revoke_refused h]
    exact ⟨State.err_bit _ _ _ (by decide), State.err_beyond ..⟩
  · subst hi hk
    rw [State.revoke_marks h]
    exact ⟨rfl, AL.get_put_self .., fun j hj => AL.get_put_ne _ _ hj⟩
  · rw [State.keySave_refused h]
    exact ⟨State.err_bit _ _ _ (by decide), State.err_beyond ..⟩
  · rw [State.keySave_stores h]
    rfl
  · have hlen : (s.keyTable ++ leBytes 4 (crc32c s.keyTable)).length = 836 := by simp [s.length_keyTable, length_leBytes]
    rw [State.keySave_stores h, ← hlen]
    exact State.poke_storesOnly _ _ _ _

end Sys2Proof.Machine
end

section
/-! The calibration set and the boot parameter record (R433–R437). -/

namespace Sys2Proof.Machine

open Sys2Proof

/-! ## A range zeroed -/

/-- A cell of which no entry is left reads as the default. -/
theorem memGet_filter {p : Host.Cell → Bool} {c : Nat} (h : ∀ b, p (c, b) = false) : ∀ m : List Host.Cell,
    memGet (m.filter p) c = memDefault
  | [] => rfl
  | (a, b) :: m => by
    by_cases hp : p (a, b) = true
    · have hac : a ≠ c := by
        rintro rfl
        exact Bool.false_ne_true ((h b).symm.trans hp)
      rw [List.filter_cons_of_pos hp, memGet, if_neg hac, memGet_filter h m]
    · rw [List.filter_cons_of_neg hp, memGet_filter h m]

/-- A byte of a zeroed range reads 0. -/
theorem State.zeroRange_peekN (s : State) (sp off n : Nat) {i : Nat} (hi : i < n) (ho : off + i < 2 ^ 40) :
    (s.zeroRange sp off n).peekN sp (off + i) 1 = 0 := by
  have hget : memGet (s.zeroRange sp off n).mem (cellAddr sp (off + i)) = memDefault :=
    memGet_filter (fun _ => by simp [← cellAddr_add (.inl ho), hi]) _
  delta State.peekN State.peek
  rw [memRead, hget]
  rfl

/-! ## The calibration set -/

section
variable {s : State}

theorem State.wrs_mem (s : State) (p : PageId) (l : List (Reg × Nat)) : (s.wrs p l).mem = s.mem := by
  rw [State.wrs_beyond p l s]

theorem State.calSave_busy (h : s.rdb pgLantern Cal.CAL_BUSY 0 = true) : s.calSave = s := if_pos h

theorem State.calSave_eq (h : s.rdb pgLantern Cal.CAL_BUSY 0 = false) :
    s.calSave = (s.zeroRange spFlash flCal areaLen).wrs pgLantern [(Cal.CAL_BUSY, 1), (Cal.CAL_FACTORY, 0)] :=
  if_neg (by simp [h])

theorem State.calSaved_idle (h : s.rdb pgLantern Cal.CAL_BUSY 0 = false) : s.calSaved = s := if_neg (by simp [h])

/-- The sector as a save leaves it: the set, its CRC and the saved flag. -/
def State.calSector (s : State) : List Byte := s.calBytes ++ leBytes 4 (crc32c s.calBytes) ++ leBytes 1 1

theorem State.calSaved_eq (h : s.rdb pgLantern Cal.CAL_BUSY 0 = true) : s.calSaved =
    (s.poke spFlash flCal s.calSector).wrs pgLantern [(Cal.CAL_BUSY, 0), (Cal.CAL_CRC, crc32c s.calBytes)] := if_pos h

theorem length_words (f : Nat → Nat) (n : Nat) : ((List.range n).flatMap fun i => leBytes 4 (f i)).length = n * 4 := by
  simp [List.length_flatMap, length_leBytes]

theorem State.length_calBytes (s : State) : s.calBytes.length = 0xA00 := length_words _ (calLen / 4)

theorem State.length_calSector (s : State) : s.calSector.length = 2565 := by
  delta State.calSector
  simp [s.length_calBytes, length_leBytes]

/-- What a save leaves in the sector. -/
theorem State.calSaved_reads (h : s.rdb pgLantern Cal.CAL_BUSY 0 = true) (hw : memWf s.mem = true) :
    s.calSaved.peek spFlash flCal 0xA00 = s.calBytes ∧
      s.calSaved.peekN spFlash (flCal + calLen) 4 = crc32c s.calBytes ∧
      s.calSaved.peekN spFlash (flCal + calLen + 4) 1 = 1 := by
  have hmem : s.calSaved.mem = (s.poke spFlash flCal s.calSector).mem := by rw [State.calSaved_eq h, State.wrs_mem]
  have hread : ∀ i n, i + n ≤ 2565 → s.calSaved.peek spFlash (flCal + i) n = slice s.calSector i n := by
    intro i n hin
    rw [State.peek_of_mem hmem]
    refine s.peek_poke_slice _ _ _ hw (by rwa [s.length_calSector]) ?_
    simp only [flCal]
    omega
  have hset : slice s.calSector 0 0xA00 = s.calBytes := by
    delta State.calSector
    rw [List.append_assoc]
    exact slice_left s.length_calBytes _
  have hcrc : slice s.calSector 0xA00 4 = leBytes 4 (crc32c s.calBytes) := by
    delta State.calSector
    simp [slice, s.length_calBytes, length_leBytes]
  have hflag : slice s.calSector (0xA00 + 4) 1 = leBytes 1 1 :=
    slice_right (by simp [s.length_calBytes, length_leBytes]) (leBytes 1 1)
  refine ⟨(hread 0 0xA00 (by decide)).trans hset, ?_, ?_⟩
  · exact (congrArg leNat ((hread 0xA00 4 (by decide)).trans hcrc)).trans (leNat_crc _)
  · exact congrArg leNat ((hread (0xA00 + 4) 1 (by decide)).trans hflag)

theorem State.calSaved_good (h : s.rdb pgLantern Cal.CAL_BUSY 0 = true) (hw : memWf s.mem = true) :
    s.calSaved.calGood = true ∧ s.calSaved.calFactory = false := by
  obtain ⟨hset, hcrc, hflag⟩ := State.calSaved_reads h hw
  unfold State.calFactory State.calGood
  rw [hcrc, hflag, show s.calSaved.peek spFlash flCal calLen = s.calBytes from hset]
  simp

/-! ## The boot parameter record -/

theorem State.length_bpTake (s : State) : (s.bpRecord.take 32).length = 32 := by
  simp [State.bpRecord, bpFields, length_leBytes]

/-- A record that is being written: its CRC is off by one bit. -/
def State.bpTorn (s : State) : List Byte :=
  s.bpRecord.take 32 ++ leBytes 4 (Nat.xor (crc32c (s.bpRecord.take 32)) 1)

theorem State.bpSave_busy (h : s.rd pgLantern Boo.BP_STATE 0 = 3) : s.bpSave = s := if_pos h

theorem State.bpSave_eq (h : s.rd pgLantern Boo.BP_STATE 0 ≠ 3) :
    s.bpSave = (s.poke spFlash flBp s.bpTorn).wr pgLantern Boo.BP_STATE 3 := if_neg h

theorem State.length_bpTorn (s : State) : s.bpTorn.length = 36 := by
  delta State.bpTorn
  rw [List.length_append, s.length_bpTake, length_leBytes]

theorem State.bpSave_bytes (h : s.rd pgLantern Boo.BP_STATE 0 ≠ 3) (hw : memWf s.mem = true) : s.bpSave.bpBytes = s.bpTorn := by
  have hp := State.peek_poke s spFlash flBp s.bpTorn hw
  rw [s.length_bpTorn] at hp
  rw [State.bpSave_eq h]
  exact (State.peek_of_mem (State.wr_mem ..) _ _ _).trans hp

/-- A number with its lowest bit flipped is another. -/
theorem xor_one_ne (n : Nat) : Nat.xor n 1 ≠ n := by
  intro e
  have h := congrArg (Nat.testBit · 0) e
  change (n ^^^ 1).testBit 0 = n.testBit 0 at h
  rw [Nat.testBit_xor] at h
  cases hb : n.testBit 0 <;> simp [hb] at h

/-- The record being written is not valid. -/
theorem State.bpSave_torn (h : s.rd pgLantern Boo.BP_STATE 0 ≠ 3) (hw : memWf s.mem = true) : s.bpSave.bpFlash ≠ 1 := by
  have hcrc : leAt s.bpTorn 32 4 ≠ crc32c (s.bpTorn.take 32) := by
    have hlt : Nat.xor (crc32c (s.bpRecord.take 32)) 1 < 2 ^ 32 := Nat.xor_lt_two_pow (crc32c_lt _) (by decide)
    delta State.bpTorn
    rw [leAt_append_field s.length_bpTake, List.take_left' s.length_bpTake]
    exact fun e => xor_one_ne _ ((Nat.mod_eq_of_lt hlt).symm.trans e)
  delta State.bpFlash
  dsimp only
  rw [State.bpSave_bytes h hw, if_neg hcrc]
  split <;> decide

theorem State.bpSaved_idle (h : s.rd pgLantern Boo.BP_STATE 0 ≠ 3) : s.bpSaved = s := if_neg h

theorem State.bpSaved_eq (h : s.rd pgLantern Boo.BP_STATE 0 = 3) : s.bpSaved =
    (s.poke spFlash (flBp + 32) (leBytes 4 (crc32c (s.peek spFlash flBp 32)))).wr pgLantern Boo.BP_STATE 1 := by
  have htake : s.bpBytes.take 32 = s.peek spFlash flBp 32 :=
    (memRead_slice s.mem (a := cellAddr spFlash flBp) (i := 0) (n := 32) (N := 36) (by decide)).symm
  rw [← htake]
  exact if_pos h

theorem State.bpSaved_crc (h : s.rd pgLantern Boo.BP_STATE 0 = 3) (hw : memWf s.mem = true) :
    s.bpSaved.peekN spFlash (flBp + 32) 4 = crc32c (s.peek spFlash flBp 32) := by
  have hp := State.peek_poke s spFlash (flBp + 32) (leBytes 4 (crc32c (s.peek spFlash flBp 32))) hw
  rw [length_leBytes] at hp
  delta State.peekN
  rw [State.bpSaved_eq h, State.peek_of_mem (State.wr_mem ..), hp, leNat_crc]

/-! ## The record read back -/

/-- The first `n` fields of a sequence put. -/
def State.putFields (s : State) (p : PageId) (f : Nat → Reg) (v : Nat → Nat) (n : Nat) : State :=
  (List.range n).foldl (fun t i => t.put p (f i) 0 (v i)) s

section
variable {p : PageId} {f : Nat → Reg} {v : Nat → Nat}

theorem State.putFields_succ (s : State) (n : Nat) : s.putFields p f v (n + 1) = (s.putFields p f v n).put p (f n) 0 (v n) := by
  unfold State.putFields
  rw [List.range_succ, List.foldl_append]
  rfl

theorem State.putFields_beyond (s : State) : ∀ n, sameBeyondRegs s (s.putFields p f v n)
  | 0 => rfl
  | n + 1 => by
    rw [State.putFields_succ]
    exact sameBeyondRegs_trans (State.putFields_beyond s n) (State.put_beyond ..)

variable (ht : p.ty ≠ 0x51)
include ht

/-- Block fields put leave another field as it reads. -/
theorem State.rd_putFields_other (s : State) {x : Reg} : ∀ n, (∀ i < n, 0x100 ≤ (f i).off ∧ rkey p x 0 ≠ rkey p (f i) 0) →
    (s.putFields p f v n).rd p x 0 = s.rd p x 0
  | 0, _ => rfl
  | n + 1, h => by
    obtain ⟨hoff, hne⟩ := h n (Nat.lt_succ_self n)
    rw [State.putFields_succ, State.rd_put_block _ _ hne hoff ht]
    exact State.rd_putFields_other s n fun i hi => h i (Nat.lt_succ_of_lt hi)

/-- A block field put reads as put where no later one of the sequence is the same. -/
theorem State.rd_putFields_own (s : State) {i : Nat} (hk : heldKind (f i) = false) : ∀ n, i < n →
    (∀ j < n, i < j → 0x100 ≤ (f j).off ∧ rkey p (f i) 0 ≠ rkey p (f j) 0) →
    (s.putFields p f v n).rd p (f i) 0 = v i % 2 ^ (f i).w
  | n + 1, hi, h => by
    rw [State.putFields_succ]
    obtain hlt | rfl := Nat.lt_succ_iff_lt_or_eq.1 hi
    · obtain ⟨hoff, hne⟩ := h n (Nat.lt_succ_self n) hlt
      rw [State.rd_put_block _ _ hne hoff ht]
      exact State.rd_putFields_own s hk n hlt fun j hj => h j (Nat.lt_succ_of_lt hj)
    · exact State.rd_put_self _ _ _ _ _ hk

end

/-- The record's words are eight settings of other places, none of them BP_STATE. -/
theorem bpFields_apart : ∀ i < 8, heldKind (bpFields.getD i Boo.BP_COORD) = false ∧
    0x100 ≤ (bpFields.getD i Boo.BP_COORD).off ∧
    rkey pgLantern Boo.BP_STATE 0 ≠ rkey pgLantern (bpFields.getD i Boo.BP_COORD) 0 ∧
    ∀ j < 8, i < j → rkey pgLantern (bpFields.getD i Boo.BP_COORD) 0 ≠ rkey pgLantern (bpFields.getD j Boo.BP_COORD) 0 := by
  decide

theorem State.bpFlash_le (s : State) : s.bpFlash ≤ 2 := by
  delta State.bpFlash
  dsimp only
  split
  · decide
  · split <;> decide

/-- A valid record's load: what it finds, then the words. -/
theorem State.bpLoad_valid (h : s.bpFlash = 1) : s.bpLoad =
    (s.wr pgLantern Boo.BP_STATE s.bpFlash).putFields pgLantern (fun i => bpFields.getD i Boo.BP_COORD) s.bpWord 8 := if_pos h

theorem State.bpLoad_other (h : s.bpFlash ≠ 1) : s.bpLoad = s.wr pgLantern Boo.BP_STATE s.bpFlash := if_neg h

theorem State.bpLoad_state (s : State) : s.bpLoad.rd pgLantern Boo.BP_STATE 0 = s.bpFlash := by
  have hwr : (s.wr pgLantern Boo.BP_STATE s.bpFlash).rd pgLantern Boo.BP_STATE 0 = s.bpFlash :=
    (State.rd_wr_own s _ (by decide) (by decide)).trans (Nat.mod_eq_of_lt (s.bpFlash_le.trans_lt (by decide)))
  by_cases h : s.bpFlash = 1
  · rw [State.bpLoad_valid h, State.rd_putFields_other (by decide) _ _ fun i hi => ?_, hwr]
    obtain ⟨-, hoff, hne, -⟩ := bpFields_apart i hi
    exact ⟨hoff, hne⟩
  · rw [State.bpLoad_other h, hwr]

theorem State.bpLoad_word (h : s.bpFlash = 1) {i : Nat} {r : Reg} (hr : bpFields[i]? = some r) :
    s.bpLoad.rd pgLantern r 0 = s.bpWord i % 2 ^ r.w := by
  obtain ⟨hi, -⟩ := List.getElem?_eq_some_iff.1 hr
  obtain rfl : bpFields.getD i Boo.BP_COORD = r := by simp [hr]
  obtain ⟨hk, -, -, hne⟩ := bpFields_apart i hi
  rw [State.bpLoad_valid h]
  exact State.rd_putFields_own (by decide) _ (f := fun i => bpFields.getD i Boo.BP_COORD) hk 8 hi fun j hj hij =>
    ⟨(bpFields_apart j hj).2.1, hne j hj hij⟩

end

/-- Settles O58: each command by the lemma on what it leaves in flash and in the registers. -/
theorem calibrationAndBootParametersAreSaved : Obligations.CalibrationAndBootParametersAreSaved := by
  unfold Obligations.CalibrationAndBootParametersAreSaved
  refine ⟨fun s => ⟨s.calSave, rfl, State.calSave_busy, fun h => ?_⟩, fun s => ⟨s.calSaved, rfl, State.calSaved_idle, fun h => ?_⟩,
    fun s => ⟨s.bpSave, rfl, State.bpSave_busy, fun h => ?_⟩, fun s => ⟨s.bpSaved, rfl, State.bpSaved_idle, fun h => ?_⟩,
    fun s => ⟨_, rfl, fun h => if_pos h, fun h => ?_⟩⟩
  · rw [State.calSave_eq h]
    refine ⟨State.rd_wrs_head _ 1 (by decide) (by decide) (by decide),
      State.rd_wr_own ((s.zeroRange spFlash flCal areaLen).wr pgLantern Cal.CAL_BUSY 1) 0 (by decide) (by decide), fun i hi => ?_⟩
    delta State.peekN
    rw [State.peek_of_mem (State.wrs_mem ..)]
    exact s.zeroRange_peekN spFlash flCal areaLen hi (by simp only [flCal]; omega)
  · refine ⟨?_, ?_, ?_, fun hw => ⟨(State.calSaved_reads h hw).1, State.calSaved_good h hw⟩⟩
    · rw [State.calSaved_eq h]
      exact State.rd_wrs_head _ 0 (by decide) (by decide) (by simp only [List.map]; decide)
    · rw [State.calSaved_eq h]
      exact State.rd_wr_own ((s.poke spFlash flCal s.calSector).wr pgLantern Cal.CAL_BUSY 0) _ (by decide) (by decide)
    · intro c hc
      rw [State.calSaved_eq h, State.wrs_mem]
      exact s.poke_storesOnly _ _ _ c (by rwa [s.length_calSector])
  · refine ⟨?_, ?_, fun hw => ⟨?_, State.bpSave_torn h hw⟩⟩
    · rw [State.bpSave_eq h]
      exact State.rd_wr_own _ 3 (by decide) (by decide)
    · intro c hc
      rw [State.bpSave_eq h, State.wr_mem]
      exact s.poke_storesOnly _ _ _ c (by rwa [s.length_bpTorn])
    · have htake : s.bpSave.peek spFlash flBp 32 = s.bpSave.bpBytes.take 32 :=
        memRead_slice s.bpSave.mem (a := cellAddr spFlash flBp) (i := 0) (n := 32) (N := 36) (by decide)
      rw [htake, State.bpSave_bytes h hw]
      exact List.take_left' s.length_bpTake
  · refine ⟨?_, ?_, State.bpSaved_crc h⟩
    · rw [State.bpSaved_eq h]
      exact State.rd_wr_own _ 1 (by decide) (by decide)
    · intro c hc
      rw [State.bpSaved_eq h, State.wr_mem]
      exact s.poke_storesOnly _ _ _ c (by rwa [length_leBytes])
  · rw [if_neg h]
    refine ⟨s.bpLoad_state, fun h1 => ?_, fun h1 => ⟨?_, fun i r => State.bpLoad_word h1⟩⟩
    · rw [State.bpLoad_other h1]
      exact s.wr_onlyRegs _ rfl (by decide) (by decide)
    · rw [State.bpLoad_valid h1]
      exact sameBeyondRegs_trans (State.wr_beyond ..) (State.putFields_beyond _ 8)

end Sys2Proof.Machine
end

section
/-! Feeds, coolant and trips (R416–R421, R464). -/

namespace Sys2Proof.Machine

open Sys2Proof

/-! ## The Buttress's page -/

/-- An error event leaves the block fields of the Buttress as they read. -/
theorem State.rd_err_buttress (s : State) (q : PageId) (c : Nat) {x : Reg} {j : Nat} (hx : 0x100 ≤ x.off) :
    (s.err q c).rd pgButtress x j = s.rd pgButtress x j :=
  State.rd_err_block s q c hx (by simp [rkey, pgButtress, pgHost]) (by simp [rkey, pgButtress, pgKeep])

/-- A write of another field of the Buttress leaves a field as it reads. -/
theorem State.rd_wr_buttress (s : State) {r x : Reg} (v : Nat) (h : x.off ≠ r.off ∨ x.lo ≠ r.lo) (hx : 0x100 ≤ x.off)
    (hr : 0x100 ≤ r.off) : (s.wr pgButtress r v).rd pgButtress x 0 = s.rd pgButtress x 0 :=
  State.rd_wr_same s v (by rwa [Nat.mul_zero, Nat.add_zero]) hx hr (by decide)

/-- A one-bit field written reads as written. -/
theorem State.rd_wrb_own (s : State) {p : PageId} {r : Reg} (b : Bool) (hw : r.w = 1) (hr : 0x100 ≤ r.off) (ht : p.ty ≠ 0x51) :
    (s.wrb p r b).rd p r 0 = b2n b := by
  rw [State.wrb, State.rd_wri_own s _ hr ht, hw]
  cases b <;> rfl

/-! ## Feeds -/

theorem feedReg_facts {f : Nat} (hf : f < 2) : (feedReg f).off = 0x100 ∧ (feedReg f).lo = f ∧ (feedReg f).w = 1 := by
  obtain rfl | rfl : f = 0 ∨ f = 1 := by omega
  · decide
  · decide

theorem rdb_of_rd {s : State} {p : PageId} {r : Reg} {b : Bool} (h : s.rd p r 0 = b2n b) : s.rdb p r 0 = b := by
  delta State.rdb
  rw [h]
  cases b <;> rfl

theorem feedOk_congr {s t : State} {f : Nat} (h : t.rd pgButtress (feedReg f) 0 = s.rd pgButtress (feedReg f) 0) :
    t.feedOk f = s.feedOk f := by
  delta State.feedOk State.rdb
  rw [h]

section
variable (s : State) {f : Nat} (hf : f < 2) (ok : Bool)
include hf

/-- A feed shown leaves every field of the Buttress but the feed's own and SUP_OK. -/
theorem State.rd_showFeed_other {x : Reg} (hx : 0x100 ≤ x.off) (h : x.off ≠ 0x100 ∨ x.lo ≠ f ∧ x.lo ≠ 3) :
    (s.showFeed f ok).rd pgButtress x 0 = s.rd pgButtress x 0 := by
  obtain ⟨hoff, hlo, -⟩ := feedReg_facts hf
  unfold State.showFeed
  refine (State.rd_wr_buttress _ _ (h.imp id And.right) hx (by decide)).trans (State.rd_wr_buttress _ _ ?_ hx hoff.ge)
  rw [hoff, hlo]
  exact h.imp id And.left

theorem State.showFeed_own : (s.showFeed f ok).feedOk f = ok := by
  obtain ⟨hoff, hlo, hw⟩ := feedReg_facts hf
  refine rdb_of_rd ((State.rd_wr_buttress _ _ (.inr ?_) hoff.ge (by decide)).trans (State.rd_wrb_own s ok hw hoff.ge (by decide)))
  rw [hlo]
  simp only [But.SUP_OK]
  omega

theorem State.showFeed_other : (s.showFeed f ok).feedOk (1 - f) = s.feedOk (1 - f) := by
  obtain ⟨hoff, hlo, -⟩ := feedReg_facts (f := 1 - f) (by omega)
  exact feedOk_congr (State.rd_showFeed_other s hf ok hoff.ge (.inr (by omega)))

theorem State.showFeed_supply : (s.showFeed f ok).rd pgButtress But.SUP_OK 0 = b2n (ok && s.feedOk (1 - f)) := by
  obtain ⟨hoff, hlo, hw⟩ := feedReg_facts hf
  obtain ⟨hoff', hlo', -⟩ := feedReg_facts (f := 1 - f) (by omega)
  have hown : (s.wrb pgButtress (feedReg f) ok).feedOk f = ok := rdb_of_rd (State.rd_wrb_own s ok hw hoff.ge (by decide))
  have hother : (s.wrb pgButtress (feedReg f) ok).feedOk (1 - f) = s.feedOk (1 - f) :=
    feedOk_congr (State.rd_wr_buttress _ _ (.inr (by omega)) hoff'.ge hoff.ge)
  have hboth : ((s.wrb pgButtress (feedReg f) ok).feedOk 0 && (s.wrb pgButtress (feedReg f) ok).feedOk 1) =
      (ok && s.feedOk (1 - f)) := by
    obtain rfl | rfl : f = 0 ∨ f = 1 := by omega
    · exact congrArg₂ and hown hother
    · rw [Bool.and_comm]
      exact congrArg₂ and hown hother
  rw [← hboth]
  exact State.rd_wrb_own _ _ rfl (by decide) (by decide)

end

/-- A switch leaves every field of the Buttress but ON_BACKUP and SWITCH_CNT. -/
theorem State.rd_switchFeed_other (s : State) (f : Nat) {x : Reg} (hx : 0x100 ≤ x.off) (h : x.off ≠ 0x100 ∨ x.lo ≠ 2)
    (h' : x.off ≠ 0x108) : (s.switchFeed f).rd pgButtress x 0 = s.rd pgButtress x 0 := by
  delta State.switchFeed
  rw [State.rd_eventE_block _ _ _ _ hx (by decide) (by decide), State.rd_err_buttress _ _ _ hx]
  exact (State.rd_wr_buttress _ _ (.inl h') hx (by decide)).trans (State.rd_wr_buttress _ _ h hx (by decide))

/-- A switch keeps the error bits that are set. -/
theorem errSet_switchFeed {s : State} {i : Nat} (f : Nat) (hi : i < 32) (h : errSet s pgButtress i) :
    errSet (s.switchFeed f) pgButtress i := by
  have h1 : errSet (((s.wr pgButtress But.ON_BACKUP f).bump pgButtress But.SWITCH_CNT).err pgButtress 2) pgButtress i :=
    errSet_err _ _ hi (errSet_bumped _ (by decide) (by decide) (errSet_wri _ _ (by decide) (by decide) h))
  delta errSet State.switchFeed
  dsimp only
  rw [State.rd_eventE_hdr _ _ _ _ (by decide) (by decide)]
  exact h1

/-- A switch takes the feed and is counted, from any state with the same count. -/
theorem State.switchFeed_taken {s u : State} (f : Nat)
    (hc : u.rd pgButtress But.SWITCH_CNT 0 = s.rd pgButtress But.SWITCH_CNT 0) : feedTaken s (u.switchFeed f) (f % 2) := by
  have hblock : ∀ {x : Reg}, 0x100 ≤ x.off → (u.switchFeed f).rd pgButtress x 0 =
      ((u.wr pgButtress But.ON_BACKUP f).bump pgButtress But.SWITCH_CNT).rd pgButtress x 0 := fun hx =>
    (State.rd_eventE_block _ _ _ _ hx (by decide) (by decide)).trans (State.rd_err_buttress _ _ _ hx)
  refine ⟨?_, ?_, ?_⟩
  · refine (hblock (by decide)).trans ((State.rd_wr_buttress _ _ (by decide) (by decide) (by decide)).trans ?_)
    exact State.rd_wr_own u f (by decide) (by decide)
  · refine (hblock (by decide)).trans ((State.rd_bumpi_own _ 1 (by decide) (by decide) rfl).trans ?_)
    rw [State.rd_wr_buttress _ _ (by decide) (by decide) (by decide), hc]
    rfl
  · delta errSet State.switchFeed
    dsimp only
    rw [State.rd_eventE_hdr _ _ _ _ (by decide) (by decide)]
    exact State.err_bit _ _ _ (by decide)

theorem State.switchFeed_taken_of {s u : State} {f : Nat} (hf : f < 2)
    (hc : u.rd pgButtress But.SWITCH_CNT 0 = s.rd pgButtress But.SWITCH_CNT 0) : feedTaken s (u.switchFeed f) f := by
  have h := State.switchFeed_taken f hc
  rwa [Nat.mod_eq_of_lt hf] at h

theorem exec_feedBad (sense : Bool) {f : Nat} (hf : f < 2) (s : State) :
    exec (if sense then .feedSenseOpen f else .feedBad f) s = .next (s.feedBad f) := by
  cases sense
  · exact congrArg Host.Outcome.next (if_pos hf)
  · exact congrArg Host.Outcome.next (if_pos hf)

section
variable {s : State} {f : Nat}

theorem State.feedBad_already (h : s.feedOk f = false) : s.feedBad f = s := if_neg (by simp [h])

/-- A feed shown bad, with its error. -/
def State.feedLost (s : State) (f : Nat) : State := (s.showFeed f false).err pgButtress f

theorem State.rd_feedLost (s : State) (f : Nat) {x : Reg} (hx : 0x100 ≤ x.off) :
    (s.feedLost f).rd pgButtress x 0 = (s.showFeed f false).rd pgButtress x 0 := State.rd_err_buttress _ _ _ hx

theorem State.feedLost_feedOk (s : State) (f : Nat) {g : Nat} (hg : g < 2) : (s.feedLost f).feedOk g = (s.showFeed f false).feedOk g := by
  obtain ⟨hoff, -, -⟩ := feedReg_facts hg
  exact feedOk_congr (State.rd_feedLost _ _ hoff.ge)

variable (hf : f < 2)
include hf

theorem State.feedBad_other (h : s.feedOk f = true) (ho : s.feedOk (1 - f) = true) :
    s.feedBad f = if s.activeFeed = f then (s.feedLost f).switchFeed (1 - f) else s.feedLost f := by
  have ho' : (s.feedLost f).feedOk (1 - f) = true := by
    rw [State.feedLost_feedOk _ _ (by omega), State.showFeed_other s hf, ho]
  have ha : (s.feedLost f).activeFeed = s.activeFeed :=
    (State.rd_feedLost _ _ (by decide)).trans (State.rd_showFeed_other s hf _ (by decide)
      (.inr ⟨by simp only [But.ON_BACKUP]; omega, by decide⟩))
  delta State.feedBad
  rw [if_pos h, ← ha]
  exact if_pos ho'

theorem State.feedBad_holdup (h : s.feedOk f = true) (ho : s.feedOk (1 - f) = false) :
    s.feedBad f = (s.feedLost f).wr pgButtress But.HOLDUP 1 := by
  have ho' : (s.feedLost f).feedOk (1 - f) = false := by
    rw [State.feedLost_feedOk _ _ (by omega), State.showFeed_other s hf, ho]
  delta State.feedBad
  rw [if_pos h]
  exact if_neg (by rw [show (s.showFeed f false).err pgButtress f = s.feedLost f from rfl, ho']; decide)

/-- What a loss shows, and every later switch or hold-up leaves. -/
theorem State.feedBad_shows (h : s.feedOk f = true) : (s.feedBad f).feedOk f = false ∧ errSet (s.feedBad f) pgButtress f ∧
    (s.feedBad f).rd pgButtress But.SUP_OK 0 = 0 := by
  obtain ⟨hoff, hlo, -⟩ := feedReg_facts hf
  have hown : (s.feedLost f).feedOk f = false := (State.feedLost_feedOk s f hf).trans (State.showFeed_own s hf false)
  have herr : errSet (s.feedLost f) pgButtress f := State.err_bit _ _ _ (by omega)
  have hsup : (s.feedLost f).rd pgButtress But.SUP_OK 0 = 0 :=
    (State.rd_feedLost _ _ (by decide)).trans ((State.showFeed_supply s hf false).trans (by simp [b2n]))
  have hlift : ∀ {t : State}, t.rd pgButtress (feedReg f) 0 = (s.feedLost f).rd pgButtress (feedReg f) 0 →
      t.rd pgButtress But.SUP_OK 0 = (s.feedLost f).rd pgButtress But.SUP_OK 0 → errSet t pgButtress f →
      t.feedOk f = false ∧ errSet t pgButtress f ∧ t.rd pgButtress But.SUP_OK 0 = 0 := fun hr hs he =>
    ⟨(feedOk_congr hr).trans hown, he, hs.trans hsup⟩
  cases ho : s.feedOk (1 - f) with
  | true =>
    rw [State.feedBad_other hf h ho]
    split
    · exact hlift (State.rd_switchFeed_other _ _ hoff.ge (.inr (by omega)) (by omega))
        (State.rd_switchFeed_other _ _ (by decide) (by decide) (by decide)) (errSet_switchFeed _ (by omega) herr)
    · exact hlift rfl rfl herr
  | false =>
    rw [State.feedBad_holdup hf h ho]
    exact hlift (State.rd_wr_buttress _ _ (.inr (by rw [hlo]; simp only [But.HOLDUP]; omega)) hoff.ge (by decide))
      (State.rd_wr_buttress _ _ (by decide) (by decide) (by decide)) (errSet_wri _ _ (by decide) (by decide) herr)

end

section
variable {s : State} {f : Nat}

theorem State.feedGood_already (h : s.feedOk f = true) : s.feedGood f = s := if_pos h

theorem State.feedGood_holdup (h : s.feedOk f = false) (hh : s.rdb pgButtress But.HOLDUP 0 = true) :
    s.feedGood f = ((s.showFeed f true).wr pgButtress But.HOLDUP 0).switchFeed f := by
  delta State.feedGood
  rw [if_neg (by simp [h])]
  exact if_pos hh

theorem State.feedGood_first (h : s.feedOk f = false) (hh : s.rdb pgButtress But.HOLDUP 0 = false)
    (ho : s.feedOk (1 - f) = false) : s.feedGood f = (s.showFeed f true).wr pgButtress But.ON_BACKUP f := by
  delta State.feedGood
  simp [h, hh, ho]

theorem State.feedGood_second (h : s.feedOk f = false) (hh : s.rdb pgButtress But.HOLDUP 0 = false)
    (ho : s.feedOk (1 - f) = true) : s.feedGood f = s.showFeed f true := by
  delta State.feedGood
  simp [h, hh, ho]

/-- A feed that becomes good shows so, and SUP_OK follows both feeds. -/
theorem State.feedGood_shows (hf : f < 2) (h : s.feedOk f = false) : (s.feedGood f).feedOk f = true ∧
    (s.feedGood f).rd pgButtress But.SUP_OK 0 = b2n (s.feedOk (1 - f)) := by
  obtain ⟨hoff, hlo, -⟩ := feedReg_facts hf
  have hown := State.showFeed_own s hf true
  have hsup : (s.showFeed f true).rd pgButtress But.SUP_OK 0 = b2n (s.feedOk (1 - f)) := State.showFeed_supply s hf true
  have hlift : ∀ {t : State}, t.rd pgButtress (feedReg f) 0 = (s.showFeed f true).rd pgButtress (feedReg f) 0 →
      t.rd pgButtress But.SUP_OK 0 = (s.showFeed f true).rd pgButtress But.SUP_OK 0 →
      t.feedOk f = true ∧ t.rd pgButtress But.SUP_OK 0 = b2n (s.feedOk (1 - f)) := fun hr hs =>
    ⟨(feedOk_congr hr).trans hown, hs.trans hsup⟩
  have hwr : ∀ (r : Reg) (v : Nat), r.off = 0x100 → 2 ≤ r.lo → r.lo ≠ 3 →
      ((s.showFeed f true).wr pgButtress r v).rd pgButtress (feedReg f) 0 = (s.showFeed f true).rd pgButtress (feedReg f) 0 ∧
        ((s.showFeed f true).wr pgButtress r v).rd pgButtress But.SUP_OK 0 = (s.showFeed f true).rd pgButtress But.SUP_OK 0 :=
    fun r v hr h2 h3 => ⟨State.rd_wr_buttress _ _ (.inr (by omega)) hoff.ge hr.ge,
      State.rd_wr_buttress _ _ (.inr (Ne.symm h3)) (by decide) hr.ge⟩
  cases hh : s.rdb pgButtress But.HOLDUP 0 with
  | true =>
    obtain ⟨hfeed, hsupply⟩ := hwr But.HOLDUP 0 rfl (by decide) (by decide)
    rw [State.feedGood_holdup h hh]
    exact hlift ((State.rd_switchFeed_other _ _ hoff.ge (.inr (by omega)) (by omega)).trans hfeed)
      ((State.rd_switchFeed_other _ _ (by decide) (by decide) (by decide)).trans hsupply)
  | false =>
    by_cases ho : s.feedOk (1 - f) = true
    · rw [State.feedGood_second h hh ho]
      exact hlift rfl rfl
    · obtain ⟨hfeed, hsupply⟩ := hwr But.ON_BACKUP f rfl (by decide) (by decide)
      rw [State.feedGood_first h hh (by simpa using ho)]
      exact hlift hfeed hsupply

theorem State.feedReturn_takes (h : s.feedOk s.preferredFeed = true) (h' : s.activeFeed ≠ s.preferredFeed) :
    s.feedReturn = s.switchFeed s.preferredFeed := if_pos (by simp [h, h'])

theorem State.feedReturn_stays (h : s.feedOk s.preferredFeed = false ∨ s.activeFeed = s.preferredFeed) : s.feedReturn = s :=
  if_neg (by simpa [imp_iff_not_or] using h)

end

/-! ## Power lost -/

/-- The dies off, with what the Buttress shows of it. -/
def State.diesOffShown (s : State) (cause sensor : Nat) : State :=
  s.diesOff.wrs pgButtress [(But.TRIP_CAUSE, cause), (But.TRIP_SENSOR, sensor), (But.MOD_STATE, 0)]

theorem State.diesOffShown_fields (s : State) {cause sensor : Nat} (hc : cause < 16) (hs : sensor < 64) :
    (s.diesOffShown cause sensor).rd pgButtress But.TRIP_CAUSE 0 = cause ∧
      (s.diesOffShown cause sensor).rd pgButtress But.TRIP_SENSOR 0 = sensor ∧
      (s.diesOffShown cause sensor).rd pgButtress But.MOD_STATE 0 = 0 := by
  unfold State.diesOffShown
  refine ⟨?_, ?_, ?_⟩
  · exact (State.rd_wrs_head _ _ (by decide) (by decide) (by simp only [List.map]; decide)).trans (Nat.mod_eq_of_lt hc)
  · rw [State.wrs]
    exact (State.rd_wrs_head _ _ (by decide) (by decide) (by simp only [List.map]; decide)).trans (Nat.mod_eq_of_lt hs)
  · rw [State.wrs, State.wrs]
    exact State.rd_wrs_head _ _ (by decide) (by decide) (by decide)

/-- Fields written leave every other part. -/
theorem State.wrs_same (s : State) (q : PageId) (l : List (Reg × Nat)) {p : Part} (hp : p ≠ .regs) : p.same s (s.wrs q l) :=
  (State.wrs_parts (M := (· = .regs)) q rfl (parts_refl s) l).same_of hp

theorem State.diesOffShown_rest (s : State) (cause sensor : Nat) : (s.diesOffShown cause sensor).mem = cellsKept s.mem false ∧
    (s.diesOffShown cause sensor).fuses = s.fuses ∧ (s.diesOffShown cause sensor).vane = s.vane ∧
    (s.diesOffShown cause sensor).runs = [] ∧ (s.diesOffShown cause sensor).clock = s.clock :=
  ⟨State.wrs_same _ _ _ (p := .mem) (by decide), State.wrs_same _ _ _ (p := .fuses) (by decide),
    State.wrs_same _ _ _ (p := .vane) (by decide), State.wrs_same _ _ _ (p := .runs) (by decide),
    State.wrs_same _ _ _ (p := .clock) (by decide)⟩

theorem State.enterP4_eq (s : State) (cause sensor : Nat) : s.enterP4 cause sensor =
    (s.diesOffShown cause sensor).setPower { (s.diesOffShown cause sensor).power with p4 := true } := rfl

/-- The module enters P4: what it shows, and what it keeps. -/
theorem State.enterP4_inP4 (s : State) {cause sensor : Nat} (hc : cause < 16) (hs : sensor < 64) :
    inP4 s (s.enterP4 cause sensor) cause sensor := by
  obtain ⟨hcause, hsensor, hstate⟩ := s.diesOffShown_fields hc hs
  obtain ⟨hmem, hfuses, hvane, hruns, -⟩ := s.diesOffShown_rest cause sensor
  rw [State.enterP4_eq]
  unfold inP4
  simp only [State.setPower_rd]
  exact ⟨rfl, hcause, hsensor, hstate, hmem, hfuses, hvane, hruns⟩

/-- A module in P4 is so whatever else of its power changes. -/
theorem inP4_setPower {s t : State} {cause sensor : Nat} {p : Power} (h : inP4 s t cause sensor) (hp : p.p4 = true) :
    inP4 s (t.setPower p) cause sensor := by
  obtain ⟨-, hcause, hsensor, hstate, hmem, hfuses, hvane, hruns⟩ := h
  unfold inP4
  simp only [State.setPower_rd]
  exact ⟨hp, hcause, hsensor, hstate, hmem, hfuses, hvane, hruns⟩

theorem State.tripNow_eq {s : State} (h : s.running = true) (cause sensor : Nat) : s.tripNow cause sensor =
    (s.enterP4 cause sensor).setPower
      { (s.enterP4 cause sensor).power with fault := true, tripAt := some (s.enterP4 cause sensor).clock } := if_pos h

theorem State.tripNow_tripped (s : State) {cause sensor : Nat} (hc : cause < 16) (hs : sensor < 64) :
    tripped s (s.tripNow cause sensor) cause sensor := by
  refine ⟨fun h => if_neg (by simp [h]), fun h => ?_⟩
  obtain ⟨-, -, -, -, hclock⟩ := s.diesOffShown_rest cause sensor
  rw [State.tripNow_eq h]
  exact ⟨inP4_setPower (s.enterP4_inP4 hc hs) rfl, rfl, congrArg some hclock⟩

/-- The dies off at the hold-up's end, with what the Buttress shows of it. -/
def State.holdupShown (s : State) : State :=
  s.diesOff.wrs pgButtress [(But.HOLDUP, 0), (But.TRIP_CAUSE, 0), (But.TRIP_SENSOR, 0)]

theorem State.holdupExpiry_eq {s : State} (h : s.rdb pgButtress But.HOLDUP 0 = true) : s.holdupExpiry =
    (s.holdupShown.setPower { s.holdupShown.power with off := true, p4 := false, tripAt := none }).vaneCommit := if_pos h

theorem State.holdupShown_fields (s : State) : s.holdupShown.rd pgButtress But.HOLDUP 0 = 0 ∧
    s.holdupShown.rd pgButtress But.TRIP_CAUSE 0 = 0 := by
  unfold State.holdupShown
  refine ⟨State.rd_wrs_head _ _ (by decide) (by decide) (by decide), ?_⟩
  rw [State.wrs]
  exact State.rd_wrs_head _ _ (by decide) (by decide) (by decide)

theorem State.holdupShown_rest (s : State) : s.holdupShown.mem = cellsKept s.mem false ∧ s.holdupShown.vane = s.vane :=
  ⟨State.wrs_same _ _ _ (p := .mem) (by decide), State.wrs_same _ _ _ (p := .vane) (by decide)⟩

/-! ## Coolant -/

theorem State.coolantConfirm_shows {s : State} (h : s.coolWithin = true) :
    s.coolantConfirm.rd pgButtress But.COOL_OK 0 = 1 ∧ s.coolantConfirm.power = { s.power with coolant := true } := by
  have h1 : s.coolantConfirm = (s.wr pgButtress But.COOL_OK 1).setPower
      { (s.wr pgButtress But.COOL_OK 1).power with coolant := true } := if_pos h
  rw [h1]
  exact ⟨State.rd_wr_own s 1 (by decide) (by decide), by simp [State.setPower]⟩

section
variable (s : State) (flow inlet : Nat)

/-- The readings shown, and COOL_OK after them. -/
def State.coolShown (s : State) (flow inlet : Nat) : State :=
  let s1 := s.wrs pgButtress [(But.FLOW, flow), (But.INLET, inlet)]
  s1.wrb pgButtress But.COOL_OK (s1.coolWithin && s.power.coolant)

theorem State.rd_coolShown (x : Reg) (hx : 0x100 ≤ x.off) (h : x.off ≠ 0x100 ∨ x.lo ≠ 4) :
    (s.coolShown flow inlet).rd pgButtress x 0 = (s.wrs pgButtress [(But.FLOW, flow), (But.INLET, inlet)]).rd pgButtress x 0 :=
  State.rd_wr_buttress _ _ h hx (by decide)

/-- The limits are those of the state with the readings shown. -/
theorem State.coolShown_within : (s.coolShown flow inlet).coolWithin =
    (s.wrs pgButtress [(But.FLOW, flow), (But.INLET, inlet)]).coolWithin := by
  delta State.coolWithin
  rw [State.rd_coolShown _ _ _ But.FLOW_MIN (by decide) (by decide), State.rd_coolShown _ _ _ But.FLOW (by decide) (by decide),
    State.rd_coolShown _ _ _ But.INLET (by decide) (by decide), State.rd_coolShown _ _ _ But.INLET_MAX (by decide) (by decide)]

theorem State.coolShown_fields : (s.coolShown flow inlet).rd pgButtress But.FLOW 0 = flow % 2 ^ 16 ∧
    (s.coolShown flow inlet).rd pgButtress But.INLET 0 = inlet % 2 ^ 16 ∧
    (s.coolShown flow inlet).rd pgButtress But.COOL_OK 0 = b2n ((s.coolShown flow inlet).coolWithin && s.power.coolant) := by
  refine ⟨?_, ?_, ?_⟩
  · exact (State.rd_coolShown _ _ _ _ (by decide) (by decide)).trans
      (State.rd_wrs_head s flow (by decide) (by decide) (by simp only [List.map]; decide))
  · exact (State.rd_coolShown _ _ _ _ (by decide) (by decide)).trans
      (State.rd_wr_own (s.wr pgButtress But.FLOW flow) inlet (by decide) (by decide))
  · rw [State.coolShown_within]
    exact State.rd_wrb_own _ _ rfl (by decide) (by decide)

theorem State.coolShown_beyond : sameBeyondRegs s (s.coolShown flow inlet) :=
  sameBeyondRegs_trans (State.wrs_beyond _ _ s) (State.wri_beyond _ pgButtress But.COOL_OK 0 _)

end

/-- Before boot has left phase COOLANT a reading beyond the limits undoes the confirmation. -/
def State.coolPower (s : State) (flow inlet : Nat) : Power :=
  if (s.coolShown flow inlet).coolWithin = false ∧ s.rd pgLantern Boo.BOOT_PHASE 0 ≤ 2 then { s.power with coolant := false }
  else s.power

/-- The readings shown, with the confirmation as it then stands. -/
def State.coolTold (s : State) (flow inlet : Nat) : State := (s.coolShown flow inlet).setPower (s.coolPower flow inlet)

theorem State.coolChange_eq (s : State) (flow inlet : Nat) : s.coolChange flow inlet =
    if s.rdb pgButtress But.COOL_OK 0 = true ∧ (s.coolShown flow inlet).coolWithin = false then
      (s.coolTold flow inlet).err pgButtress 3 else s.coolTold flow inlet := by
  have hpower : (s.coolShown flow inlet).power = s.power := by rw [State.coolShown_beyond s flow inlet]
  have htold : s.coolTold flow inlet =
      if (s.coolShown flow inlet).coolWithin = false ∧ s.rd pgLantern Boo.BOOT_PHASE 0 ≤ 2 then
        (s.coolShown flow inlet).setPower { (s.coolShown flow inlet).power with coolant := false }
      else s.coolShown flow inlet := by
    delta State.coolTold State.coolPower
    rw [hpower]
    split
    · rfl
    · rw [← hpower]
      rfl
  rw [htold, State.coolShown_within]
  simp only [State.coolChange, Bool.and_eq_true, Bool.not_eq_true', decide_eq_true_eq]
  rfl

theorem State.coolChange_rd (s : State) (flow inlet : Nat) {x : Reg} (hx : 0x100 ≤ x.off) :
    (s.coolChange flow inlet).rd pgButtress x 0 = (s.coolShown flow inlet).rd pgButtress x 0 := by
  rw [State.coolChange_eq]
  split
  · exact State.rd_err_buttress _ _ _ hx
  · rfl

theorem State.coolChange_within (s : State) (flow inlet : Nat) :
    (s.coolChange flow inlet).coolWithin = (s.coolShown flow inlet).coolWithin := by
  delta State.coolWithin
  simp only [s.coolChange_rd flow inlet (show 0x100 ≤ But.FLOW_MIN.off by decide),
    s.coolChange_rd flow inlet (show 0x100 ≤ But.FLOW.off by decide),
    s.coolChange_rd flow inlet (show 0x100 ≤ But.INLET.off by decide),
    s.coolChange_rd flow inlet (show 0x100 ≤ But.INLET_MAX.off by decide)]

theorem State.coolChange_power (s : State) (flow inlet : Nat) : (s.coolChange flow inlet).power = s.coolPower flow inlet := by
  rw [State.coolChange_eq]
  split
  · exact State.err_power ..
  · rfl

theorem State.coolChange_beyond (s : State) (flow inlet : Nat) :
    sameBeyondReports (s.setPower (s.coolPower flow inlet)) (s.coolChange flow inlet) := by
  have htold : sameBeyondReports (s.setPower (s.coolPower flow inlet)) (s.coolTold flow inlet) := by
    have hb := State.coolShown_beyond s flow inlet
    refine sameBeyondRegs.reports ?_
    delta State.coolTold
    rw [hb]
    rfl
  rw [State.coolChange_eq]
  split
  · exact sameBeyondReports_trans htold (State.err_beyond ..)
  · exact htold

/-- Settles O55: the feeds by what a feed shown and a switch leave, the trips by the entry into P4. -/
theorem feedsCoolantAndTrips : Obligations.FeedsCoolantAndTrips := by
  unfold Obligations.FeedsCoolantAndTrips
  refine ⟨fun sense f s hf => ⟨s.feedBad f, exec_feedBad sense hf s, State.feedBad_already, fun h => ?_⟩,
    fun f s hf => ⟨s.feedGood f, congrArg Host.Outcome.next (if_pos hf), State.feedGood_already, fun h => ?_⟩,
    fun s => ⟨s.feedReturn, rfl, fun h h' => ?_, State.feedReturn_stays⟩,
    fun s => ⟨s.holdupExpiry, rfl, fun h => if_neg (by simp [h]), fun h => ?_⟩,
    fun s => ⟨s.coolantConfirm, rfl, fun h => if_neg (by simp [h]), State.coolantConfirm_shows⟩,
    fun flow inlet s => ⟨s.coolChange flow inlet, rfl, ?_⟩,
    fun s => ⟨_, rfl, s.tripNow_tripped (by decide) (by decide)⟩,
    fun s => ⟨_, rfl, s.tripNow_tripped (by decide) (by decide)⟩,
    fun i t0 t1 s => ⟨_, rfl, fun hi h0 h1 => ?_, fun h => if_neg ?_⟩,
    fun flow s => ⟨_, rfl, fun h => ?_, fun h => if_neg (Nat.not_lt.2 h)⟩,
    fun inlet s => ⟨_, rfl, fun h => ?_, fun h => if_neg (Nat.not_lt.2 h)⟩⟩
  · obtain ⟨hown, herr, hsup⟩ := State.feedBad_shows hf h
    have hcount : (s.feedLost f).rd pgButtress But.SWITCH_CNT 0 = s.rd pgButtress But.SWITCH_CNT 0 :=
      (State.rd_feedLost _ _ (by decide)).trans (State.rd_showFeed_other s hf _ (by decide) (.inl (by decide)))
    have hactive : (s.feedLost f).activeFeed = s.activeFeed :=
      (State.rd_feedLost _ _ (by decide)).trans
        (State.rd_showFeed_other s hf _ (by decide) (.inr ⟨by simp only [But.ON_BACKUP]; omega, by decide⟩))
    refine ⟨hown, herr, hsup, fun ho ha => ?_, fun ho ha => ?_, fun ho => ?_⟩
    · rw [State.feedBad_other hf h ho, if_pos ha]
      exact State.switchFeed_taken_of (by omega) hcount
    · rw [State.feedBad_other hf h ho, if_neg ha]
      exact hactive
    · rw [State.feedBad_holdup hf h ho]
      exact State.rd_wr_own _ 1 (by decide) (by decide)
  · obtain ⟨hown, hsup⟩ := State.feedGood_shows hf h
    have hother : ∀ {x : Reg}, 0x100 ≤ x.off → x.off ≠ 0x100 ∨ x.lo ≠ f ∧ x.lo ≠ 3 →
        (s.showFeed f true).rd pgButtress x 0 = s.rd pgButtress x 0 := State.rd_showFeed_other s hf true
    refine ⟨hown, hsup, fun hh => ?_, fun hh ho => ?_, fun hh ho => ?_⟩
    · rw [State.feedGood_holdup h hh]
      refine ⟨(State.rd_switchFeed_other _ _ (by decide) (by decide) (by decide)).trans (State.rd_wr_own _ 0 (by decide) (by decide)),
        State.switchFeed_taken_of hf ?_⟩
      exact (State.rd_wr_buttress _ _ (by decide) (by decide) (by decide)).trans (hother (by decide) (.inl (by decide)))
    · rw [State.feedGood_first h hh ho]
      exact (State.rd_wr_own _ f (by decide) (by decide)).trans (Nat.mod_eq_of_lt hf)
    · rw [State.feedGood_second h hh ho]
      exact hother (by decide) (.inr ⟨by simp only [But.ON_BACKUP]; omega, by decide⟩)
  · rw [State.feedReturn_takes h h']
    exact State.switchFeed_taken _ rfl
  · obtain ⟨hhold, hcause⟩ := s.holdupShown_fields
    obtain ⟨hmem, hvane⟩ := s.holdupShown_rest
    rw [State.holdupExpiry_eq h]
    refine ⟨rfl, rfl, hhold, hcause, hmem, ?_⟩
    exact congrArg (fun v : Vane => { v with comMain := v.eMain, comBackup := v.eBackup }) hvane
  · obtain ⟨hflow, hinlet, hok⟩ := s.coolShown_fields flow inlet
    rw [State.coolChange_within, State.coolChange_power, State.coolChange_rd _ _ _ (by decide),
      State.coolChange_rd _ _ _ (by decide), State.coolChange_rd _ _ _ (by decide)]
    refine ⟨s.coolChange_beyond flow inlet, fun h => if_neg ?_, fun h hp => if_pos ⟨h, hp⟩, hflow, hinlet, hok, fun h hw => ?_⟩
    · rintro ⟨hw, hp⟩
      exact h.elim (fun h => by simp [hw] at h) (fun h => absurd hp (Nat.not_le.2 h))
    · rw [State.coolChange_eq, if_pos ⟨h, hw⟩]
      exact State.err_bit _ _ _ (by decide)
  · rw [if_pos (by simp [hi, h0, h1])]
    exact s.tripNow_tripped (by decide) hi
  · simpa [imp_iff_not_or, or_assoc] using h
  · rw [if_pos h]
    exact s.tripNow_tripped (by decide) (by decide)
  · rw [if_pos h]
    exact s.tripNow_tripped (by decide) (by decide)

end Sys2Proof.Machine
end

section
/-! SUPPORT. What a fold over numbers does to what one of them governs, and what a rebuilt state is. -/

namespace Sys2Proof.Machine

open Sys2Proof

/-- A fold whose steps leave something on the list's elements leaves it. -/
theorem foldl_of_mem {σ α β : Type} (g : σ → β) {f : σ → α → σ} : ∀ (l : List α), (∀ a ∈ l, ∀ t, g (f t a) = g t) →
    ∀ s, g (l.foldl f s) = g s
  | [], _, _ => rfl
  | a :: l, h, s => (foldl_of_mem g l (fun b hb => h b (List.mem_cons_of_mem _ hb)) (f s a)).trans (h a (List.mem_cons_self ..) s)

/-- A fold over numbers changes what one of them governs once. -/
theorem foldl_range_once {σ β : Type} {f : σ → Nat → σ} {g : σ → β} {h : β → β} {i : Nat} (hown : ∀ t, g (f t i) = h (g t))
    (hother : ∀ t j, j ≠ i → g (f t j) = g t) (s : σ) : ∀ n, i < n → g ((List.range n).foldl f s) = h (g s)
  | n + 1, hi => by
    rw [List.range_succ, List.foldl_append]
    obtain hlt | rfl := Nat.lt_succ_iff_lt_or_eq.1 hi
    · exact (hother _ n hlt.ne').trans (foldl_range_once hown hother s n hlt)
    · refine (hown _).trans (congrArg h (foldl_of_mem g _ (fun j hj t => hother t j ?_) s))
      exact (List.mem_range.1 hj).ne

/-- Fields of a rebuilt state read as in the state that its registers come from. -/
theorem State.rebuild_rd (s regs : State) (hbm sessions : Bool) (p : PageId) (r : Reg) (i : Nat) :
    (s.rebuild regs hbm sessions).rd p r i = regs.rd p r i := State.rd_of_eq rfl rfl rfl p r i

/-- A key that is not kept is in none of the lists. -/
theorem State.keepRegs_get_none (s : State) {f : PageId → Reg → Bool} {k : RegKey}
    (h : (fieldOfKey k).any (fun y => f y.1 y.2.1) = false) :
    AL.get (s.keepRegs f).regs k = none ∧ AL.get (s.keepRegs f).hidden k = none ∧ AL.get (s.keepRegs f).trip k = none := by
  refine ⟨AL.get_filter_none (fun _ => ?_) _, AL.get_filter_none (fun _ => ?_) _, AL.get_filter_none (fun _ => ?_) _⟩
  all_goals
    cases hk : fieldOfKey k with
    | none => simp only [hk]
    | some y => simpa [hk] using h

/-- A field that is not kept takes its reset value. -/
theorem State.keepRegs_rd_reset (s : State) {f : PageId → Reg → Bool} {p : PageId} {r : Reg} {i : Nat}
    (h : (fieldOfKey (rkey p r i)).any (fun y => f y.1 y.2.1) = false) : (s.keepRegs f).rd p r i = resetVal p r i := by
  obtain ⟨hregs, hhidden, htrip⟩ := s.keepRegs_get_none h
  delta State.rd State.raw State.copy0 AL.getD
  rw [hhidden, htrip, hregs]
  rfl

/-! ## Stacks -/

/-- A write of a stack's HSTATE leaves the other pages. -/
theorem State.rd_wr_hstate_other (s : State) {p : PageId} (st v : Nat) (x : Reg) (j : Nat) (hp : ∀ st, p ≠ pgHbm st) :
    (s.wr (pgHbm st) Hbm.HSTATE v).rd p x j = s.rd p x j := State.rd_wr_other s v (hp st) (by decide) (pgHbm_apart st).1

/-- HSTATE of a stack written. -/
theorem State.rd_wr_hstate_own (s : State) (st : Nat) {v : Nat} (hv : v < 8) :
    (s.wr (pgHbm st) Hbm.HSTATE v).rd (pgHbm st) Hbm.HSTATE 0 = v :=
  (State.rd_wr_own s v (by decide) (pgHbm_apart st).1).trans (Nat.mod_eq_of_lt hv)

end Sys2Proof.Machine
end

section
/-! Module states, resets and wakes (R422, R423, R426, R428–R431, R469, R470). -/

namespace Sys2Proof.Machine

open Sys2Proof

/-- The registers alone. -/
def onRegs (p : Part) : Prop := p = .regs

theorem onRegs_regs : onRegs .regs := rfl

/-! ## Module reset and cold reset -/

/-- What a module reset starts from: the dies rebuilt, with the confirmation of the coolant. -/
def State.resetBase (s : State) : State :=
  let s1 := s.rebuild (s.keepRegs s.keptByModule) true false
  { s1 with power := { s1.power with coolant := s.cooled } }

/-- The stacks that stay in self-refresh over a module reset. -/
def State.resetKept (s : State) : List Nat :=
  filterRange 16 fun st => s.rd (pgHbm st) Hbm.HSTATE = 2 || s.rd (pgHbm st) Hbm.HSTATE = 3

theorem State.modReset_eq (s : State) (src : Nat) : s.modReset src =
    s.resetKept.foldl (fun t st => t.wr (pgHbm st) Hbm.HSTATE 3) (s.moduleReset src) := rfl

theorem State.moduleReset_eq (s : State) (src : Nat) : s.moduleReset src =
    (allPages.foldl (fun t p => t.default p 2) s.resetBase).wrs pgLantern
      [(Boo.RESET_CAUSE, 2), (Boo.MRST_SRC, src), (Boo.BOOT_PHASE, if s.cooled then 3 else 2)] := rfl

/-- A module reset writes fields of the rebuilt dies, and nothing else. -/
theorem State.modReset_same (s : State) (src : Nat) {p : Part} (hp : p ≠ .regs) : p.same s.resetBase (s.modReset src) := by
  refine Parts.same_of (M := onRegs) ?_ hp
  rw [State.modReset_eq, State.moduleReset_eq]
  have hdefault : Parts onRegs s.resetBase (allPages.foldl (fun t p => t.default p 2) s.resetBase) :=
    parts_foldl (fun t p h => State.default_parts h p 2 onRegs_regs) (parts_refl _)
  exact parts_foldl (fun t st h => State.wr_parts h _ _ _ onRegs_regs) (State.wrs_parts _ onRegs_regs hdefault _)

/-- What boot shows after a module reset. -/
theorem State.modReset_boot (s : State) {src : Nat} (hs : src < 2) : (s.modReset src).rd pgLantern Boo.RESET_CAUSE 0 = 2 ∧
    (s.modReset src).rd pgLantern Boo.MRST_SRC 0 = src ∧
    (s.modReset src).rd pgLantern Boo.BOOT_PHASE 0 = if s.cooled then 3 else 2 := by
  have hstacks : ∀ x : Reg, (s.modReset src).rd pgLantern x 0 = (s.moduleReset src).rd pgLantern x 0 := fun x =>
    foldl_of (fun t : State => t.rd pgLantern x 0) _
      (fun t st => t.rd_wr_hstate_other st 3 x 0 fun st' => ((pgHbm_apart st').2.1).symm) _ _
  rw [hstacks, hstacks, hstacks, State.moduleReset_eq]
  refine ⟨?_, ?_, ?_⟩
  · exact State.rd_wrs_head _ _ (by decide) (by decide) (by simp only [List.map]; decide)
  · rw [State.wrs]
    exact (State.rd_wrs_head _ _ (by decide) (by decide) (by simp only [List.map]; decide)).trans (Nat.mod_eq_of_lt hs)
  · rw [State.wrs, State.wrs]
    refine (State.rd_wrs_head _ _ (by decide) (by decide) (by simp only [List.map]; decide)).trans (Nat.mod_eq_of_lt ?_)
    split <;> decide

/-- A cold reset draws a challenge: registers and the count of free values apart, nothing else of it moves. -/
theorem State.coldStart_same (s : State) {p : Part} (h1 : p ≠ .regs) (h2 : p ≠ .free) : p.same s.coldReset s.coldStart :=
  (State.drawChal_parts (M := fun p => p = .regs ∨ p = .free) (parts_refl _) (.inr rfl) (.inl rfl)).same_of (by simp [h1, h2])

theorem State.coldStart_rest (s : State) : s.coldStart.mem = cellsKept s.mem false ∧ s.coldStart.now = 0 ∧
    s.coldStart.power = { Power.first with
      shdnLow := s.power.shdnLow, resetLow := s.power.resetLow, tripAt := s.power.tripAt } :=
  ⟨s.coldStart_same (p := .mem) (by decide) (by decide),
    congrArg Belfry.tick (s.coldStart_same (p := .belfry) (by decide) (by decide)),
    s.coldStart_same (p := .power) (by decide) (by decide)⟩

/-- A challenge is drawn on the Finial's page alone. -/
theorem State.drawChal_rd_other (s : State) {p : PageId} (hp : p ≠ pgFinial) (x : Reg) (j : Nat) :
    s.drawChal.rd p x j = s.rd p x j := by
  refine foldl_of (fun t : State => t.rd p x j) _ (fun t w => ?_) _ s
  refine State.rd_put_block (t.draw 32).2 _ (fun e => hp ?_) (by decide) (by decide)
  exact rkey_page e

/-- COOL_OK is not kept by a cold reset. -/
theorem State.coldStart_coolOk (s : State) : s.coldStart.rd pgButtress But.COOL_OK 0 = 0 := by
  have hreset : s.coldReset.rd pgButtress But.COOL_OK 0 = 0 :=
    (State.rd_of_eq (s := s.keepRegs keptByCold) rfl rfl rfl _ _ _).trans (s.keepRegs_rd_reset (by decide))
  exact (State.drawChal_rd_other _ (by decide) _ _).trans hreset

/-! ## P3 -/

theorem pgHbm_ne_buttress (st : Nat) : pgButtress ≠ pgHbm st := by simp [pgButtress, pgHbm]

/-- A stack trains where it is OFF. -/
def State.trainOff (s : State) (st : Nat) : State :=
  if s.rd (pgHbm st) Hbm.HSTATE 0 = 0 then s.wr (pgHbm st) Hbm.HSTATE 1 else s

theorem State.leaveP3_eq (s : State) :
    s.leaveP3 = ((List.range 16).foldl State.trainOff s).wr pgButtress But.MOD_STATE 3 := by
  unfold State.leaveP3 State.trainStacks
  simp only [Bool.false_or, decide_eq_true_eq]
  rfl

theorem State.trainOff_own (s : State) (st : Nat) : (s.trainOff st).rd (pgHbm st) Hbm.HSTATE 0 =
    if s.rd (pgHbm st) Hbm.HSTATE 0 = 0 then 1 else s.rd (pgHbm st) Hbm.HSTATE 0 := by
  delta State.trainOff
  split
  · exact s.rd_wr_hstate_own st (by decide)
  · rfl

/-- A stack that trains changes its HSTATE alone. -/
theorem State.trainOff_onlyRegs (s : State) (st : Nat) : onlyRegs [rkey (pgHbm st) Hbm.HSTATE 0] s (s.trainOff st) := by
  delta State.trainOff
  split
  · exact s.wr_onlyRegs 1 rfl (by decide) (pgHbm_apart st).1
  · exact ⟨rfl, fun _ _ _ _ => rfl⟩

theorem hstate_ne {a b : Nat} (h : a ≠ b) : rkey (pgHbm a) Hbm.HSTATE 0 ≠ rkey (pgHbm b) Hbm.HSTATE 0 := fun e =>
  h (pgHbm_inj (rkey_page e))

/-- P3 left shows the state and trains the stacks that were off, and nothing else. -/
theorem State.leaveP3_left (s : State) : p3Left s s.leaveP3 := by
  rw [State.leaveP3_eq]
  refine ⟨State.rd_wr_own _ 3 (by decide) (by decide), fun st hst => ?_, ?_, fun p r i h => ?_⟩
  · refine (State.rd_wr_other _ _ (pgHbm_ne_buttress st).symm (by decide) (by decide)).trans ?_
    refine foldl_range_once (g := fun t : State => t.rd (pgHbm st) Hbm.HSTATE 0) (h := fun v => if v = 0 then 1 else v)
      (fun t => t.trainOff_own st) (fun t j hj => ?_) s 16 hst
    exact (t.trainOff_onlyRegs j).2 _ _ _ (by simpa using hstate_ne hj.symm)
  · exact sameBeyondRegs_trans (sameBeyondRegs_foldl (fun t st => (t.trainOff_onlyRegs st).1) _ s) (State.wr_beyond ..)
  · simp only [List.mem_cons, List.mem_map, List.mem_range, not_or, not_exists, not_and] at h
    refine ((State.wr_onlyRegs _ 3 rfl (by decide) (by decide)).2 p r i (by simpa using h.1)).trans ?_
    exact foldl_of_mem (fun t : State => t.rd p r i) _
      (fun st hst t => (t.trainOff_onlyRegs st).2 p r i (by simpa using Ne.symm (h.2 st (List.mem_range.1 hst)))) s

/-- A stack's state when P3 has been entered: FAILED stays, the others are in self-refresh or off. -/
def State.restStack (sr : Bool) (s : State) (st : Nat) : State :=
  if s.rd (pgHbm st) Hbm.HSTATE 0 = 4 then s else s.wr (pgHbm st) Hbm.HSTATE (if sr then 3 else 0)

/-- The domains that P3 powers down. -/
def p3Doms : List (Nat × Nat) := ((List.range domCount).filter (· ≠ 332)).map fun d => (d, 2)

theorem AL.get_map_pair {v : Nat} (d : Nat) : ∀ l : List Nat, AL.get (l.map fun d => (d, v)) d = if d ∈ l then some v else none
  | [] => rfl
  | a :: l => by
    by_cases h : a = d
    · subst h
      simp [AL.get]
    · have h' : d ≠ a := Ne.symm h
      simp [AL.get, h, h', AL.get_map_pair d l]

theorem p3Doms_state {d : Nat} (hd : d < domCount) : AL.getD p3Doms d 0 = if d = 332 then 0 else 2 := by
  delta AL.getD p3Doms
  rw [AL.get_map_pair]
  by_cases h : d = 332
  · simp [h]
  · simp [h, hd]

section
variable {s : State}

/-- The dies in P3, before MOD_STATE shows it. -/
def State.p3Dies (s : State) : State :=
  let sr := s.rdb pgButtress But.HBM_P3_SR
  let s2 := (List.range 16).foldl (State.restStack sr) (s.rebuild s sr true)
  s2.setPower { s2.power with doms := p3Doms }

theorem State.p3Entered_eq (h : s.rd pgButtress But.MOD_STATE 0 = 1) : s.p3Entered = s.p3Dies.wr pgButtress But.MOD_STATE 2 := by
  delta State.p3Entered State.p3Dies State.restStack p3Doms
  rw [if_pos h]

theorem State.restStack_parts {M : Part → Prop} {z t : State} (h : Parts M z t) (sr : Bool) (st : Nat) (m : M .regs) :
    Parts M z (t.restStack sr st) := by
  delta State.restStack
  split
  · exact h
  · exact State.wr_parts h _ _ _ m

theorem State.p3Entered_mem (h : s.rd pgButtress But.MOD_STATE 0 = 1) :
    s.p3Entered.mem = cellsKept s.mem (s.rdb pgButtress But.HBM_P3_SR 0) := by
  have hfold : Parts onRegs (s.rebuild s (s.rdb pgButtress But.HBM_P3_SR 0) true) ((List.range 16).foldl
      (State.restStack (s.rdb pgButtress But.HBM_P3_SR 0)) (s.rebuild s (s.rdb pgButtress But.HBM_P3_SR 0) true)) :=
    parts_foldl (fun t st h => State.restStack_parts h _ st onRegs_regs) (parts_refl _)
  have hmem := hfold.same_of (p := .mem) (by simp [onRegs])
  rw [State.p3Entered_eq h, State.wr_mem, State.p3Dies, State.setPower_mem]
  exact hmem

theorem State.p3Entered_hstate (h : s.rd pgButtress But.MOD_STATE 0 = 1) {st : Nat} (hst : st < 16) :
    s.p3Entered.rd (pgHbm st) Hbm.HSTATE 0 = if s.rd (pgHbm st) Hbm.HSTATE 0 = 4 then 4
      else if s.rdb pgButtress But.HBM_P3_SR 0 then 3 else 0 := by
  have hown : ∀ t : State, (t.restStack (s.rdb pgButtress But.HBM_P3_SR 0) st).rd (pgHbm st) Hbm.HSTATE 0 =
      if t.rd (pgHbm st) Hbm.HSTATE 0 = 4 then 4 else if s.rdb pgButtress But.HBM_P3_SR 0 then 3 else 0 := by
    intro t
    delta State.restStack
    split
    case isTrue h4 => exact h4
    case isFalse => exact t.rd_wr_hstate_own st (by split <;> decide)
  have hother : ∀ (t : State) j, j ≠ st →
      (t.restStack (s.rdb pgButtress But.HBM_P3_SR 0) j).rd (pgHbm st) Hbm.HSTATE 0 = t.rd (pgHbm st) Hbm.HSTATE 0 := by
    intro t j hj
    delta State.restStack
    split
    · rfl
    · exact t.rd_hstate_ne hj _
  rw [State.p3Entered_eq h]
  refine (State.rd_wr_other _ _ (pgHbm_ne_buttress st).symm (by decide) (by decide)).trans ((State.setPower_rd ..).trans ?_)
  exact (foldl_range_once (g := fun t : State => t.rd (pgHbm st) Hbm.HSTATE 0)
    (h := fun v => if v = 4 then 4 else if s.rdb pgButtress But.HBM_P3_SR 0 then 3 else 0) hown hother _ 16 hst).trans
    (by simp only [State.rebuild_rd])

end

/-! ## P3 left for good -/

theorem State.swField_hstate (s : State) {p : PageId} {r : Reg} (st v : Nat) (hacc : r.acc = .rwl) (hr : 0x100 ≤ r.off)
    (ht : p.ty ≠ 0x51) (hp : p ≠ pgHbm st) : (s.swField p r 0 v).rd (pgHbm st) Hbm.HSTATE 0 = s.rd (pgHbm st) Hbm.HSTATE 0 := by
  unfold State.swField
  rw [hacc]
  dsimp only
  split
  · rfl
  · exact State.rd_put_block s _ (fun e => hp (rkey_page e).symm) hr ht

theorem State.setLock_hstate (s : State) (p : PageId) (st : Nat) :
    (s.setLock p).rd (pgHbm st) Hbm.HSTATE 0 = s.rd (pgHbm st) Hbm.HSTATE 0 := by
  refine State.rd_put_ne s 1 (fun e => ?_) (not_steers_hdr _ _ _ (by decide) (by decide))
  exact absurd (congrArg RegKey.off e) (by simp [rkey, Hdr.LOCK, Hbm.HSTATE])

/-- The boot parameters applied leave the stacks. -/
theorem State.applyBp_hstate (s : State) (st : Nat) : s.applyBp.rd (pgHbm st) Hbm.HSTATE 0 = s.rd (pgHbm st) Hbm.HSTATE 0 := by
  have hk : ∀ (t : State) (k c e : Nat), ((t.swField (pgKeep k) Kr.COORD 0 c).swField (pgKeep k) Kr.EXTENT 0 e).rd
      (pgHbm st) Hbm.HSTATE 0 = t.rd (pgHbm st) Hbm.HSTATE 0 := fun t k c e =>
    (State.swField_hstate _ st e rfl (by decide) (by simp [pgKeep]) (by simp [pgKeep, pgHbm])).trans
      (State.swField_hstate _ st c rfl (by decide) (by simp [pgKeep]) (by simp [pgKeep, pgHbm]))
  have hn : ∀ (t : State) (d l h : Nat), (((t.swField pgWatch Wat.FAIL_DOMAIN 0 d).swField pgHost Mac.MAC_LO 0 l).swField pgHost
      Mac.MAC_HI 0 h).rd (pgHbm st) Hbm.HSTATE 0 = t.rd (pgHbm st) Hbm.HSTATE 0 := fun t d l h =>
    ((State.swField_hstate _ st h rfl (by decide) (by decide) (by simp [pgHost, pgHbm])).trans
      (State.swField_hstate _ st l rfl (by decide) (by decide) (by simp [pgHost, pgHbm]))).trans
      (State.swField_hstate _ st d rfl (by decide) (by decide) (by simp [pgWatch, pgHbm]))
  have hl : ∀ (l : List PageId) (t : State), (l.foldl State.setLock t).rd (pgHbm st) Hbm.HSTATE 0 = t.rd (pgHbm st) Hbm.HSTATE 0 :=
    foldl_of (fun t : State => t.rd (pgHbm st) Hbm.HSTATE 0) State.setLock fun t p => t.setLock_hstate p st
  have hks : ∀ c e, ((List.range 4).foldl (fun (t : State) k => (t.swField (pgKeep k) Kr.COORD 0 c).swField (pgKeep k) Kr.EXTENT 0 e)
      s).rd (pgHbm st) Hbm.HSTATE 0 = s.rd (pgHbm st) Hbm.HSTATE 0 := fun c e =>
    foldl_of (fun t : State => t.rd (pgHbm st) Hbm.HSTATE 0) _ (fun t k => hk t k c e) _ s
  unfold State.applyBp
  split
  · dsimp only
    split
    · rw [hl, hn, State.setBelfry_rd, hks]
    · rw [hn, State.setBelfry_rd, hks]
  · rfl

/-- The dies back from P3, before the boot parameters are applied. -/
def State.p3Back (s : State) : State :=
  (List.range 16).foldl (fun t st => t.wr (pgHbm st) Hbm.HSTATE
      (if (filterRange 16 fun st => s.rd (pgHbm st) Hbm.HSTATE = 4).contains st then 4 else 2))
    ((allPages.filter s.defaultedByP3).foldl (fun t p => t.default p 6) (s.rebuild (s.keepRegs s.keptByP3) true true))

section
variable {s : State} (h : s.rd pgButtress But.MOD_STATE 0 = 3) (hc : s.rdb pgButtress But.COOL_OK 0 = true)

theorem State.p3Exited_stays (h : s.rd pgButtress But.MOD_STATE 0 ≠ 3 ∨ s.rdb pgButtress But.COOL_OK 0 = false) : s.p3Exited = s :=
  if_neg (by simpa [imp_iff_not_or] using h)

include h hc

theorem State.p3Exited_eq : s.p3Exited = s.p3Back.applyBp.wr pgButtress But.MOD_STATE 0 := by
  unfold State.p3Exited
  rw [if_pos (by simp [h, hc])]
  rfl

theorem State.p3Exited_mem : s.p3Exited.mem = cellsKept s.mem true := by
  have hdefault : Parts onRegs (s.rebuild (s.keepRegs s.keptByP3) true true) ((allPages.filter s.defaultedByP3).foldl
      (fun t p => t.default p 6) (s.rebuild (s.keepRegs s.keptByP3) true true)) :=
    parts_foldl (fun t p h => State.default_parts h p 6 onRegs_regs) (parts_refl _)
  have hback : Parts onRegs (s.rebuild (s.keepRegs s.keptByP3) true true) s.p3Back :=
    parts_foldl (fun t st h => State.wr_parts h _ _ _ onRegs_regs) hdefault
  have happly : s.p3Back.applyBp.mem = s.p3Back.mem :=
    (State.applyBp_parts (M := (· ≠ .mem)) (parts_refl _) (by decide) (by decide)).same_of (p := .mem) (by decide)
  have hmem := hback.same_of (p := .mem) (by simp [onRegs])
  rw [State.p3Exited_eq h hc, State.wr_mem, happly]
  exact hmem

theorem State.p3Exited_hstate {st : Nat} (hst : st < 16) :
    s.p3Exited.rd (pgHbm st) Hbm.HSTATE 0 = if s.rd (pgHbm st) Hbm.HSTATE 0 = 4 then 4 else 2 := by
  have hfailed : (filterRange 16 fun st => s.rd (pgHbm st) Hbm.HSTATE = 4).contains st =
      Decidable.decide (s.rd (pgHbm st) Hbm.HSTATE 0 = 4) := by
    simp [filterRange, hst]
  rw [State.p3Exited_eq h hc]
  refine (State.rd_wr_other _ _ (pgHbm_ne_buttress st).symm (by decide) (by decide)).trans ((State.applyBp_hstate _ st).trans ?_)
  refine foldl_range_holds (Q := fun t : State => t.rd (pgHbm st) Hbm.HSTATE 0 = if s.rd (pgHbm st) Hbm.HSTATE 0 = 4 then 4 else 2)
    (fun t => ?_) (fun t j hj hq => (t.rd_hstate_ne hj _).trans hq) _ 16 hst
  rw [hfailed]
  by_cases h4 : s.rd (pgHbm st) Hbm.HSTATE 0 = 4
  · simpa [h4] using t.rd_wr_hstate_own st (v := 4) (by decide)
  · simpa [h4] using t.rd_wr_hstate_own st (v := 2) (by decide)

end

/-! ## Requests and signals -/

theorem State.reqRefused_refused (s : State) : refusedRequest s s.reqRefused := ⟨State.err_bit _ _ _ (by decide), State.err_beyond ..⟩

section
variable {s : State} {code key : Nat}

theorem State.modReq_dead (h : s.running = false) : s.modReq code key = s := by
  delta State.modReq
  simp [h]

theorem State.modReq_refused (h : s.running = true)
    (h' : key ≠ 0xA5 ∨ s.rd pgButtress But.MOD_STATE 0 = 1 ∨ s.rd pgButtress But.MOD_STATE 0 = 3) :
    s.modReq code key = s.reqRefused := by
  delta State.modReq
  simp only [h, Bool.not_true, Bool.false_eq_true, if_false]
  exact if_pos (by simpa [or_assoc] using h')

/-- A request with its key, in a state that it may move. -/
theorem State.modReq_keyed (h : s.running = true) (hst : s.rd pgButtress But.MOD_STATE 0 = 0 ∨ s.rd pgButtress But.MOD_STATE 0 = 2) :
    s.modReq code 0xA5 = if code = 1 then
        if s.rd pgButtress But.MOD_STATE 0 ≠ 0 || s.p3Refused then s.reqRefused
        else ((List.range 8).foldl State.atomFlush s).wr pgButtress But.MOD_STATE 1
      else if code = 2 then (if s.rd pgButtress But.MOD_STATE 0 = 2 then s.leaveP3 else s.reqRefused)
      else if code = 3 then s.enterP4 1 0
      else if code = 4 then s.modReset 1
      else s.reqRefused := by
  delta State.modReq
  simp only [h, Bool.not_true, Bool.false_eq_true, if_false]
  exact if_neg (by rcases hst with e | e <;> simp [e])

end

/-- What a module reset of MOD_REQ or RESET_N leaves. -/
theorem State.modReset_rest (s : State) (src : Nat) : (s.modReset src).now = 0 ∧ (s.modReset src).mem = cellsKept s.mem true ∧
    (s.modReset src).fuses = s.fuses ∧ (s.modReset src).vane = s.vane ∧ (s.modReset src).keys = s.keys ∧
    (s.modReset src).power.coolant = s.cooled :=
  ⟨congrArg Belfry.tick (s.modReset_same src (p := .belfry) (by decide)), s.modReset_same src (p := .mem) (by decide),
    s.modReset_same src (p := .fuses) (by decide), s.modReset_same src (p := .vane) (by decide),
    s.modReset_same src (p := .keys) (by decide), congrArg Power.coolant (s.modReset_same src (p := .power) (by decide))⟩

theorem State.resetAssert_stays {s : State} (h : s.running = false ∨ s.power.shdnLow = true) : s.resetAssert = s :=
  if_neg (by rcases h with h | h <;> simp [h])

theorem State.resetAssert_eq {s : State} (h : s.running = true) (hs : s.power.shdnLow = false) :
    s.resetAssert = (s.modReset 0).setPower { (s.modReset 0).power with resetLow := true } := if_pos (by simp [h, hs])

section
variable {s : State}

/-- WAKE_N is too early after a trip. -/
theorem State.wake_stays (h : s.power.shdnLow = true ∨ s.power.off = true ∨
    (∃ a, s.power.tripAt = some a ∧ s.clock < a + 11000000000)) : s.wake = s := by
  delta State.wake
  dsimp only
  refine if_pos ?_
  rcases h with h | h | ⟨a, ha, h⟩
  · simp [h]
  · simp [h]
  · simp [ha, Nat.not_le.2 h]

theorem State.wake_eq (h : s.power.shdnLow = false) (ho : s.power.off = false)
    (hl : ∀ a, s.power.tripAt = some a → a + 11000000000 ≤ s.clock) : s.wake =
      if s.power.p4 then s.coldStart else if s.rd pgButtress But.MOD_STATE 0 = 2 then s.leaveP3 else s := by
  delta State.wake
  dsimp only
  refine if_neg ?_
  cases ht : s.power.tripAt with
  | none => simp [h, ho]
  | some a => simpa [h, ho] using hl a ht

theorem State.shdn_low (h : s.running = true) :
    s.shdn true = (s.setPower { s.power with shdnLow := true }).enterP4 1 0 := by
  have h' : (s.setPower { s.power with shdnLow := true }).running = true := h
  delta State.shdn
  exact if_pos (by simp [h])

theorem State.shdn_else {low : Bool} (h : low = false ∨ s.running = false) : s.shdn low = s.setPower { s.power with shdnLow := low } := by
  delta State.shdn
  exact if_neg (by rcases h with h | h <;> simp [h])

/-- The entry into P4 keeps SHDN_N as it is. -/
theorem State.enterP4_shdn (s : State) (cause sensor : Nat) : (s.enterP4 cause sensor).power.shdnLow = s.power.shdnLow := by
  have hp : (s.diesOffShown cause sensor).power = s.diesOff.power := State.wrs_same _ _ _ (p := .power) (by decide)
  rw [State.enterP4_eq, State.setPower_power, hp]
  rfl

/-- An entry into P4 is one whatever the power was set to before. -/
theorem inP4_from_setPower {s t : State} {p : Power} {cause sensor : Nat} (h : inP4 (s.setPower p) t cause sensor) :
    inP4 s t cause sensor := by
  unfold inP4 at h ⊢
  rwa [State.setPower_mem, State.setPower_fuses, State.setPower_vane] at h

theorem State.restored_off (h : s.power.off = true) :
    s.restored = s.coldStart.setPower { s.coldStart.power with p4 := s.power.shdnLow } := by
  obtain ⟨-, -, hp⟩ := s.coldStart_rest
  unfold State.restored
  rw [if_pos h]
  cases hs : s.power.shdnLow with
  | true => rfl
  | false =>
    have hp4 : s.coldStart.power.p4 = false := by rw [hp]; rfl
    rw [← hp4]
    rfl

end

/-! ## A domain's wake -/

/-- How long a domain has been waking. -/
def State.wakeCc (s : State) (d : Nat) : Nat := s.clock - AL.getD s.power.wakeAt d s.clock

/-- A domain woken and timed. -/
def State.wokenTimed (s : State) (d : Nat) : State :=
  let s1 := (s.domZero d).setDom d 0
  { s1 with power := { s1.power with
    wakeUs := AL.put s1.power.wakeUs d (min (s.wakeCc d / 1100) 65535), wakeAt := AL.del s1.power.wakeAt d } }

/-- A domain woken, timed and counted. -/
def State.wokenBase (s : State) (d : Nat) : State :=
  if domWakeUs d * 1100 < s.wakeCc d then ((s.wokenTimed d).bump pgButtress But.DOM_WAKES).err pgButtress 4
  else (s.wokenTimed d).bump pgButtress But.DOM_WAKES

/-- What the domain's unit does then: a stack leaves self-refresh, a link may train. -/
def State.wokenUnit (s : State) (d : Nat) : State :=
  if 288 ≤ d && d < 304 && s.rd (pgHbm (d - 288)) Hbm.HSTATE = 3 then s.wr (pgHbm (d - 288)) Hbm.HSTATE 2
  else if 304 ≤ d && d < 320 then s.downLink (d - 304)
  else if 320 ≤ d && d < 332 then s.downLink (16 + (d - 320) / 2)
  else s

theorem State.wakeDone_eq {s : State} {d : Nat} (h : s.domState d = 3) : s.wakeDone d = (s.wokenBase d).wokenUnit d := if_pos h

theorem State.domainWake_eq {s : State} {d : Nat} (h : s.domState d = 3) (hd : d < 280 ∨ 288 ≤ d) :
    s.domainWake d = (s.wokenBase d).wokenUnit d := by
  rw [← State.wakeDone_eq h]
  exact if_neg (by simp; omega)

theorem State.domainWake_awake {s : State} {d : Nat} (h : s.domState d ≠ 3) : s.domainWake d = s := by
  have hdone : s.wakeDone d = s := if_neg h
  unfold State.domainWake
  rw [hdone]
  exact if_neg (by simp [h])

/-- Whatever the links, the open plane, the outputs, fields of a link's page, and a packet cut short leave alone, a link that goes
down leaves alone. -/
theorem State.downLink_of {β : Type} (g : State → β) (hlink : ∀ t l x, g (State.setLink t l x) = g t)
    (hopn : ∀ t o, g (State.setOpn t o) = g t) (hemit : ∀ t o, g (State.emit t o) = g t)
    (hwri : ∀ t l r i v, 0x100 ≤ Reg.off r → g (State.wri t (pgLink l) r i v) = g t) (hcut : ∀ t k, g (State.fwdPoison t k) = g t)
    (s : State) (l : Nat) : g (s.downLink l) = g s := by
  have hstate : ∀ (t : State) v, v ≠ 5 → v ≠ 6 → g (t.setLstate l v) = g t := by
    intro t v h5 h6
    unfold State.setLstate
    rw [if_neg (by omega)]
    exact (hwri _ l _ 0 v (by decide)).trans (hlink ..)
  have hdrop : g (s.dropLink l) = g s := by
    unfold State.dropLink
    exact (foldl_of g _ (fun t v => (State.endInput_of g hopn hcut _ l v).trans (hwri _ l _ v 0 (by decide))) _ _).trans (hlink ..)
  unfold State.downLink State.tryStart
  split
  · dsimp only
    rw [State.sendTraining, hemit, hstate _ 1 (by decide) (by decide), hlink, hstate _ 0 (by decide) (by decide), hdrop]
  · rw [hstate _ 0 (by decide) (by decide), hdrop]

theorem pgLink_ne_buttress (l : Nat) : pgButtress ≠ pgLink l := (pgLink_ne (by decide) (by decide)).symm

/-- A link that goes down leaves the Buttress's fields and error bits. -/
theorem State.downLink_buttress (s : State) (l : Nat) :
    (∀ x : Reg, 0x100 ≤ x.off → (s.downLink l).rd pgButtress x 0 = s.rd pgButtress x 0) ∧
      (s.downLink l).rd pgButtress Hdr.PG_ERR 0 = s.rd pgButtress Hdr.PG_ERR 0 := by
  have hk : ∀ k, pgButtress ≠ pgKeep k := fun k => by simp [pgButtress, pgKeep]
  refine ⟨fun x hx => ?_, ?_⟩
  · refine State.downLink_of (·.rd pgButtress x 0) (fun _ _ _ => rfl) (fun _ _ => rfl) (fun _ _ => rfl)
      (fun t l r i v hr => State.rd_wri_other t v (pgLink_ne_buttress l) hr (pgLink_trip l)) (fun t k => ?_) s l
    exact (State.rd_err_buttress _ _ _ hx).trans (State.rd_bumpi_other t _ (hk k) (by decide) (by simp [pgKeep]))
  · refine State.downLink_of (·.rd pgButtress Hdr.PG_ERR 0) (fun _ _ _ => rfl) (fun _ _ => rfl) (fun _ _ => rfl)
      (fun t l r i v hr => State.rd_wri_hdr t v hr (pgLink_trip l)) (fun t k => ?_) s l
    exact (State.rd_err_hdr _ _ _ (hk k) (by decide) (hk 3)).trans (State.rd_bumpi_hdr t _ (by decide) (by simp [pgKeep]))

/-- What the woken domain's unit does leaves the Buttress's own. -/
theorem State.wokenUnit_buttress (s : State) (d : Nat) : (s.wokenUnit d).power = s.power ∧
    (∀ x : Reg, 0x100 ≤ x.off → (s.wokenUnit d).rd pgButtress x 0 = s.rd pgButtress x 0) ∧
      (s.wokenUnit d).rd pgButtress Hdr.PG_ERR 0 = s.rd pgButtress Hdr.PG_ERR 0 := by
  have hlink : ∀ l, (s.downLink l).power = s.power ∧
      (∀ x : Reg, 0x100 ≤ x.off → (s.downLink l).rd pgButtress x 0 = s.rd pgButtress x 0) ∧
        (s.downLink l).rd pgButtress Hdr.PG_ERR 0 = s.rd pgButtress Hdr.PG_ERR 0 := fun l =>
    ⟨(State.downLink_parts (M := (· ≠ .power)) (parts_refl _) l (by decide) (by decide) (by decide) (by decide) (by decide)
      (by decide) (by decide)).same_of (p := .power) (by decide), s.downLink_buttress l⟩
  delta State.wokenUnit
  split
  · refine ⟨State.wr_power .., fun x _ => s.rd_wr_hstate_other _ 2 x 0 pgHbm_ne_buttress, ?_⟩
    exact s.rd_wr_hstate_other _ 2 _ 0 pgHbm_ne_buttress
  · split
    · exact hlink _
    · split
      · exact hlink _
      · exact ⟨rfl, fun _ _ => rfl, rfl⟩

section
variable (s : State) (d : Nat)

theorem State.domZero_rd (p : PageId) (r : Reg) (i : Nat) : (s.domZero d).rd p r i = s.rd p r i := by
  obtain ⟨hregs, -, hhidden, htrip, -⟩ := (State.domZero_parts (M := (· ≠ .regs)) (parts_refl s) d (by decide) (by decide)
    (by decide)).same_of (p := .regs) (by decide)
  exact State.rd_of_eq hregs hhidden htrip p r i

theorem State.domZero_power : (s.domZero d).power = s.power :=
  (State.domZero_parts (M := (· ≠ .power)) (parts_refl s) d (by decide) (by decide) (by decide)).same_of (p := .power) (by decide)

theorem State.wokenTimed_rd (p : PageId) (r : Reg) (i : Nat) : (s.wokenTimed d).rd p r i = s.rd p r i :=
  (State.rd_of_eq (s := s.domZero d) (t := s.wokenTimed d) rfl rfl rfl p r i).trans (s.domZero_rd d p r i)

theorem State.wokenTimed_power : (s.wokenTimed d).power = { s.power with
    doms := AL.del s.power.doms d
    wakeUs := AL.put s.power.wakeUs d (min (s.wakeCc d / 1100) 65535)
    wakeAt := AL.del s.power.wakeAt d } := by simp [State.wokenTimed, State.setDom, s.domZero_power d]

/-- A wake leaves the block fields of other pages, the counts of lost events and dropped frames apart. -/
theorem State.wokenBase_rd {p : PageId} (hp : p ≠ pgButtress) (x : Reg) (j : Nat) (hx : 0x100 ≤ x.off)
    (h1 : rkey p x j ≠ rkey pgHost Mac.EVT_LOST 0) (h2 : rkey p x j ≠ rkey (pgKeep 3) Hst.EG_DROP 0) :
    (s.wokenBase d).rd p x j = s.rd p x j := by
  have hbump : ((s.wokenTimed d).bump pgButtress But.DOM_WAKES).rd p x j = s.rd p x j :=
    (State.rd_bumpi_other _ 1 hp (by decide) (by decide)).trans (s.wokenTimed_rd d p x j)
  delta State.wokenBase
  split
  · exact (State.rd_err_block _ _ _ hx h1 h2).trans hbump
  · exact hbump

theorem State.wokenBase_counted : counted s (s.wokenBase d) pgButtress But.DOM_WAKES 1 := by
  have hbump : ((s.wokenTimed d).bump pgButtress But.DOM_WAKES).rd pgButtress But.DOM_WAKES 0 =
      (s.rd pgButtress But.DOM_WAKES 0 + 1) % 2 ^ 32 :=
    (State.rd_bumpi_own _ 1 (by decide) (by decide) rfl).trans (by rw [State.wokenTimed_rd]; rfl)
  delta counted State.wokenBase
  split
  · exact (State.rd_err_buttress _ _ _ (by decide)).trans hbump
  · exact hbump

theorem State.wokenBase_power : (s.wokenBase d).power = (s.wokenTimed d).power := by
  delta State.wokenBase
  split
  · rw [State.err_power, State.bump_power]
  · rw [State.bump_power]

theorem State.wokenBase_late (h : domWakeUs d * 1100 < s.wakeCc d) : errSet (s.wokenBase d) pgButtress 4 := by
  delta State.wokenBase
  rw [if_pos h]
  exact State.err_bit _ _ _ (by decide)

/-- A stack in self-refresh leaves it when its domain wakes. -/
theorem State.wokenUnit_stack (h1 : 288 ≤ d) (h2 : d < 304) (h : s.rd (pgHbm (d - 288)) Hbm.HSTATE 0 = 3) :
    (s.wokenUnit d).rd (pgHbm (d - 288)) Hbm.HSTATE 0 = 2 := by
  delta State.wokenUnit
  rw [if_pos (by simp [h1, h2, h])]
  exact s.rd_wr_hstate_own _ (by decide)

end

theorem exec_domainWake {d : Nat} (hd : d < domCount) (s : State) : exec (.domainWake d) s = .next (s.domainWake d) := by
  change execDomainWake d s = _
  unfold execDomainWake
  rw [if_pos hd]

/-- What a wake leaves of its domain. -/
theorem State.domainWake_woken {s : State} {d : Nat} (h : s.domState d = 3) (hd : d < 280 ∨ 288 ≤ d) :
    (s.domainWake d).domState d = 0 ∧ AL.getD (s.domainWake d).power.wakeUs d 0 = min (s.wakeCc d / 1100) 65535 ∧
      counted s (s.domainWake d) pgButtress But.DOM_WAKES 1 ∧
      (domWakeUs d * 1100 < s.wakeCc d → errSet (s.domainWake d) pgButtress 4) ∧
      (288 ≤ d → d < 304 → s.rd (pgHbm (d - 288)) Hbm.HSTATE 0 = 3 →
        (s.domainWake d).rd (pgHbm (d - 288)) Hbm.HSTATE 0 = 2) := by
  obtain ⟨hpower, hfields, herrs⟩ := (s.wokenBase d).wokenUnit_buttress d
  rw [State.wokenBase_power, State.wokenTimed_power] at hpower
  rw [State.domainWake_eq h hd]
  refine ⟨?_, ?_, (hfields _ (by decide)).trans (s.wokenBase_counted d), fun hl => ?_, fun h1 h2 h3 => ?_⟩
  · delta State.domState
    rw [hpower, AL.getD, AL.get_del_self]
    rfl
  · rw [hpower]
    exact AL.getD_put_self ..
  · delta errSet
    rw [herrs]
    exact s.wokenBase_late d hl
  · refine State.wokenUnit_stack _ _ h1 h2 ((s.wokenBase_rd d (pgHbm_ne_buttress _).symm _ _ (by decide) ?_ ?_).trans h3)
    · simp [rkey, pgHbm, pgHost]
    · simp [rkey, pgHbm, pgKeep]

/-- Settles O56: each request, signal and completion by the lemma on the state it leaves. -/
theorem moduleStatesMove : Obligations.ModuleStatesMove := by
  unfold Obligations.ModuleStatesMove
  refine ⟨fun code key s h1 h4 => ⟨s.modReq code key, ?_, State.modReq_dead, fun hrun h => ?_, fun st hrun hkey hst h => ?_⟩,
    fun s => ⟨s.p3Entered, rfl, fun h => if_neg h, fun h => ⟨?_, State.p3Entered_mem h, fun d hd => ?_, fun st =>
      State.p3Entered_hstate h⟩⟩,
    fun s => ⟨s.p3Exited, rfl, State.p3Exited_stays, fun h hc => ⟨?_, State.p3Exited_mem h hc, fun st =>
      State.p3Exited_hstate h hc⟩⟩,
    fun s => ⟨s.resetAssert, rfl, State.resetAssert_stays, fun h hs => ?_⟩,
    fun progEnN s => ⟨s.resetRelease progEnN, rfl, fun h => if_neg (by simp [h]), fun h => if_pos h⟩,
    fun s => ⟨s.wake, rfl, State.wake_stays, fun h ho hl => ?_⟩,
    fun low s => ⟨s.shdn low, rfl, ?_, fun hl hrun => ?_, State.shdn_else⟩,
    fun s => ⟨s.restored, rfl, fun h => if_neg (by simp [h]), fun h => ?_⟩,
    fun d cc s hd hcc => ⟨s.domainWake d, exec_domainWake hd s, State.domainWake_awake, fun h hn => ?_⟩⟩
  · obtain rfl | rfl | rfl | rfl : code = 1 ∨ code = 2 ∨ code = 3 ∨ code = 4 := by omega
    all_goals rfl
  · rw [State.modReq_refused hrun h]
    exact s.reqRefused_refused
  · subst hkey hst
    rw [State.modReq_keyed hrun h]
    refine ⟨fun hc h0 hr => ?_, fun hc hr => ?_, fun hc h2 => ?_, fun hc h0 => ?_, fun hc => ?_, fun hc => ?_⟩ <;> subst hc
    · rw [if_pos rfl, if_neg (by simp [h0, hr])]
      exact State.rd_wr_own _ 1 (by decide) (by decide)
    · rw [if_pos rfl, if_pos (by rcases hr with hr | hr <;> simp [hr])]
      exact s.reqRefused_refused
    · rw [if_neg (by decide), if_pos rfl, if_pos h2]
      exact s.leaveP3_left
    · rw [if_neg (by decide), if_pos rfl, if_neg (by rw [h0]; decide)]
      exact s.reqRefused_refused
    · exact s.enterP4_inP4 (by decide) (by decide)
    · obtain ⟨hcause, hsrc, hphase⟩ := s.modReset_boot (src := 1) (by decide)
      obtain ⟨hnow, hmem, hfuses, hvane, hkeys, hcool⟩ := s.modReset_rest 1
      exact ⟨hcause, hsrc, hnow, hmem, hfuses, hvane, hkeys, hcool, hphase⟩
  · rw [State.p3Entered_eq h]
    exact State.rd_wr_own _ 2 (by decide) (by decide)
  · rw [← p3Doms_state hd, State.domState, State.p3Entered_eq h, State.wr_power]
    rfl
  · rw [State.p3Exited_eq h hc]
    exact State.rd_wr_own _ 0 (by decide) (by decide)
  · obtain ⟨hcause, hsrc, -⟩ := s.modReset_boot (src := 0) (by decide)
    obtain ⟨-, hmem, -⟩ := s.modReset_rest 0
    rw [State.resetAssert_eq h hs, State.setPower_rd, State.setPower_rd]
    exact ⟨rfl, hcause, hsrc, hmem⟩
  · obtain ⟨hmem, hnow, hpower⟩ := s.coldStart_rest
    rw [State.wake_eq h ho hl]
    refine ⟨fun h4 => ?_, fun h4 h2 => ?_, fun h4 h2 => ?_⟩
    · rw [if_pos h4]
      exact ⟨by rw [hpower]; rfl, hnow, hmem⟩
    · rw [if_neg (by simp [h4]), if_pos h2]
      exact s.leaveP3_left
    · rw [if_neg (by simp [h4]), if_neg h2]
  · by_cases hl : low = true ∧ s.running = true
    · obtain ⟨rfl, hrun⟩ := hl
      rw [State.shdn_low hrun, State.enterP4_shdn]
      rfl
    · rw [State.shdn_else (by simpa [imp_iff_not_or] using hl)]
      rfl
  · subst hl
    rw [State.shdn_low hrun]
    exact inP4_from_setPower (State.enterP4_inP4 _ (by decide) (by decide))
  · obtain ⟨hmem, hnow, hpower⟩ := s.coldStart_rest
    rw [State.restored_off h]
    refine ⟨?_, rfl, hnow, hmem, (State.setPower_rd ..).trans s.coldStart_coolOk, ?_⟩
    · rw [State.setPower_power, hpower]
      rfl
    · rw [State.setPower_power, hpower]
      rfl
  · obtain rfl : cc = s.wakeCc d := hcc
    exact State.domainWake_woken h hn

end Sys2Proof.Machine
end

section
/-! The records of command windows (R392, R393, Table 16.5). -/

namespace Sys2Proof.Machine

open Sys2Proof

/-! ## What accesses to the arrays leave of the host MAC's page -/

theorem pgHost_ne_integrity : pgHost ≠ pgIntegrity := by decide

/-- A poisoned line leaves every register. -/
theorem State.rd_poisonLine (s : State) (sp line : Nat) (p : PageId) (x : Reg) (j : Nat) :
    (s.poisonLine sp line).rd p x j = s.rd p x j :=
  (State.poisonLine_parts (M := fun p => p = .mem ∨ p = .arrays) (parts_refl s) sp line (.inl rfl) (.inr rfl)).rd (by simp) p x j

section
variable {x : Reg} {j : Nat} (hx : 0x100 ≤ x.off) (hl : x.off + x.stride * j ≠ 0x158)
include hx hl

/-- An event may write none of the block fields of the host MAC but EVT_LOST. -/
theorem not_eventTouches_host : ¬ eventTouches (rkey pgHost x j) := by
  have hoff : 0x100 ≤ (rkey pgHost x j).off := Nat.le_trans hx (Nat.le_add_right ..)
  rintro (e | e | e | e)
  · exact hl (by simpa [rkey, Mac.EVT_LOST] using congrArg RegKey.off e)
  · exact absurd (congrArg RegKey.ty e) (by simp [rkey, pgHost, pgKeep])
  · exact absurd (e ▸ hoff) (by decide)
  · exact absurd (congrArg RegKey.ty e) (by simp [rkey, pgHost, pgKeep])

/-- An error event leaves the block fields of the host MAC as they read, but for EVT_LOST. -/
theorem State.rd_err_host (s : State) (q : PageId) (c : Nat) : (s.err q c).rd pgHost x j = s.rd pgHost x j := by
  refine State.rd_err_block s q c hx (fun e => hl ?_) (by simp [rkey, pgHost, pgKeep])
  simpa [rkey, Mac.EVT_LOST] using congrArg RegKey.off e

/-- So does an event. -/
theorem State.rd_eventE_host (s : State) (q : PageId) (c : Nat) (d : List Byte) :
    (s.eventE q c d).rd pgHost x j = s.rd pgHost x j := by
  have ht := not_eventTouches_host hx hl
  have hpg : ∀ (t : State) (p : PageId) (i : Nat), (t.pgErr p i).rd pgHost x j = t.rd pgHost x j := fun t p i =>
    State.rd_pgErr t p i ht fun h => absurd h.1 (Nat.not_lt.2 (Nat.le_trans hx (Nat.le_add_right ..)))
  unfold State.eventE
  rw [State.dropErrs_of (·.rd pgHost x j) (fun _ => hpg ..) (fun _ => hpg ..)]
  exact State.rd_event _ _ _ _ ht

theorem State.rd_ueLine_host (s : State) (sp l : Nat) (d : Decoded) : (s.ueLine sp l d).rd pgHost x j = s.rd pgHost x j := by
  have hrecord : ∀ (t : State) (k a o : Nat), (t.ueRecord k a o).rd pgHost x j = t.rd pgHost x j := by
    intro t k a o
    have hw : ∀ (u : State) (r : Reg) (v : Nat), 0x100 < r.off → (u.wr pgIntegrity r v).rd pgHost x j = u.rd pgHost x j := by
      intro u r v hr
      refine State.rd_wr_ne u v (fun e => absurd (congrArg RegKey.ty e) (by simp [rkey, pgHost, pgIntegrity]))
        (fun e => absurd (congrArg RegKey.ty e) (by simp [rkey, pgHost, pgIntegrity])) ?_
      rintro (e | e)
      · exact absurd (congrArg RegKey.ty e) (by simp [rkey, pgHost, pgIntegrity])
      · have := congrArg RegKey.off e
        simp only [rkey, Itg.TRIP_EN] at this
        omega
    unfold State.ueRecord
    split
    · exact State.noteRise_rd ..
    · simp only [State.wrs]
      simp (disch := decide) only [hw]
  unfold State.ueLine
  dsimp only
  rw [State.rd_err_host hx hl, hrecord, State.rd_bump_integrity _ _ pgHost_ne_integrity (by decide), State.rd_poisonLine]

theorem State.rd_touchLine_host (s : State) (sp l : Nat) : (s.touchLine false sp l).rd pgHost x j = s.rd pgHost x j := by
  unfold State.touchLine
  split
  · rfl
  · rfl
  · exact State.rd_bump_integrity s 1 pgHost_ne_integrity (by decide)
  · exact State.rd_ueLine_host hx hl s sp l _
  · exact State.rd_ueLine_host hx hl s sp l _

theorem State.rd_writeLine_host (s : State) (sp off : Nat) (l : List Byte) (line : Nat) :
    (s.writeLine false sp off l line).rd pgHost x j = s.rd pgHost x j := by
  have htouch := State.rd_touchLine_host hx hl s sp line
  have hmerge : ∀ t : State, (t.mergeTouch false line).rd pgHost x j = t.rd pgHost x j := fun t =>
    State.rd_mergeTouch pgHost_ne_integrity x j t false line
  have hbump : ∀ t : State, (t.bump pgIntegrity Itg.MERGE_UE).rd pgHost x j = t.rd pgHost x j := fun t =>
    State.rd_bump_integrity t 1 pgHost_ne_integrity (by decide)
  unfold State.writeLine
  dsimp only
  split
  · split
    · exact (hmerge _).trans rfl
    · rfl
  · split
    · split
      · exact hmerge s
      · rfl
    · split
      · exact (hmerge _).trans htouch
      · exact htouch
    · exact (hbump _).trans htouch
    · exact (hbump _).trans htouch
    · exact hbump s

theorem State.rd_store_host (s : State) (sp off : Nat) (l : List Byte) :
    (s.store false sp off l).rd pgHost x j = s.rd pgHost x j := by
  refine foldl_of (·.rd pgHost x j) _ (fun t line => ?_) _ s
  exact State.rd_writeLine_host hx hl t sp off l line

theorem State.rd_atomWriteback_host (s : State) (a : Atom) : (s.atomWriteback a).rd pgHost x j = s.rd pgHost x j := by
  cases h : s.atomBad spDrum (s.atomLine a) with
  | false =>
    rw [State.atomWriteback_good h]
    refine (State.rd_bumpi_other _ _ (by simp [pgHost, pgDrum]) (by decide) (by simp [pgDrum])).trans ?_
    exact (State.rd_store_host hx hl _ _ _ _).trans (State.rd_touchLine_host hx hl s _ _)
  | true =>
    rw [State.atomWriteback_bad h]
    unfold State.atomLost
    rw [State.rd_err_host hx hl, State.rd_poisonLine]
    exact State.rd_touchLine_host hx hl s _ _

theorem State.rd_openWrite_host (s : State) (sp off : Nat) (l : List Byte) :
    (s.openWrite sp off l).st.rd pgHost x j = s.rd pgHost x j := by
  unfold State.openWrite
  dsimp only
  have hhide : ∀ t : State, (t.hide sp off l.length).rd pgHost x j = t.rd pgHost x j := by
    intro t
    unfold State.hide
    split <;> rfl
  rw [State.rd_store_host hx hl, hhide]
  refine foldl_of (·.rd pgHost x j) _ (fun t a => ?_) _ s
  exact State.rd_atomWriteback_host hx hl t a

theorem Served.rd_count_host (y : Served) (t : Target) : (y.count t).st.rd pgHost x j = y.st.rd pgHost x j := by
  have hbump : ∀ (u : State) (st : Nat) (r : Reg), 0x100 ≤ r.off → (u.bump (pgHbm st) r).rd pgHost x j = u.rd pgHost x j :=
    fun u st r hr => State.rd_bumpi_other u 1 (by simp [pgHost, pgHbm]) hr (by simp [pgHbm])
  unfold Served.count
  dsimp only
  split
  · dsimp only
    split
    · rw [State.rd_err_host hx hl, hbump _ _ _ (by decide), hbump _ _ _ (by decide)]
    · exact hbump _ _ _ (by decide)
  · rfl

theorem State.rd_cwWrite_host (s : State) (off : Nat) (l : List Byte) : (s.cwWrite off l).rd pgHost x j = s.rd pgHost x j := by
  unfold State.cwWrite
  dsimp only
  split
  · exact Served.rd_count_host hx hl _ _
  · exact (Served.rd_count_host hx hl _ _).trans (State.rd_openWrite_host hx hl s _ off l)

end

/-! ## A record starts -/

theorem State.setWindow_rd (s : State) (w : Nat) (x : CmdWin) (p : PageId) (r : Reg) (i : Nat) :
    (s.setWindow w x).rd p r i = s.rd p r i := rfl

theorem State.setWindow_bankState (s : State) (w : Nat) (x : CmdWin) (b : Nat) :
    (s.setWindow w x).bankState b = s.bankState b := rfl

theorem errSet_setWindow (s : State) (w : Nat) (x : CmdWin) (p : PageId) (i : Nat) :
    errSet (s.setWindow w x) p i ↔ errSet s p i := Iff.rfl

/-- What a record of an OP does, and what it then waits for (Table 16.5). -/
def windowAct (op : Nat) : State → List Byte → State × CwWait :=
  match op with
  | 0 => fun t _ => (t, CwWait.known cwOk 0)
  | 1 => State.cwRegWr
  | 2 => State.cwMove
  | 3 => State.cwPlanLoad
  | _ => State.cwPlanSwitch

theorem exec_windowCommand {op : Nat} (h : op < 5) (w : Nat) (s : State) :
    exec (windowCommand op w) s = .next (s.cwStart w op (windowAct op)) := by
  match op, h with
  | 0, _ => rfl
  | 1, _ => rfl
  | 2, _ => rfl
  | 3, _ => rfl
  | 4, _ => rfl

section
variable {s : State} {w op : Nat} {act : State → List Byte → State × CwWait} {x : CmdWin}

theorem State.cwStart_closed (h : AL.get s.windows w = none) : s.cwStart w op act = s := by
  delta State.cwStart
  rw [h]

theorem State.cwStart_idle (h : AL.get s.windows w = some x) (hx : x.cur ≠ none ∨ x.todo = []) : s.cwStart w op act = s := by
  delta State.cwStart
  rw [h]
  dsimp only
  split
  · rename_i hc ht
    exact absurd (hx.resolve_left (not_not_intro hc)) (by simp [ht])
  · rfl

section
variable {r : List Byte} {rest : List (List Byte)} (h : AL.get s.windows w = some x) (hc : x.cur = none) (ht : x.todo = r :: rest)
include h hc ht

/-- The next record of a window with none in progress. -/
theorem State.cwStart_next : s.cwStart w op act = if !s.cwEnabled w then s.cwStop w else if cwOp r ≠ op then s
    else (if cwBad r then (s, CwWait.known cwFormat 0) else act s r).1.setWindow w
      { x with todo := rest, cur := some (r, (if cwBad r then (s, CwWait.known cwFormat 0) else act s r).2) } := by
  delta State.cwStart
  rw [h]
  dsimp only
  rw [hc, ht]

theorem State.cwStart_disabled (he : s.cwEnabled w = false) : s.cwStart w op act = s.closeWindow w := by
  rw [State.cwStart_next h hc ht, if_pos (by simp [he])]
  unfold State.cwStop
  rw [h]
  exact if_neg (by simp [hc])

theorem State.cwStart_other (he : s.cwEnabled w = true) (ho : cwOp r ≠ op) : s.cwStart w op act = s := by
  rw [State.cwStart_next h hc ht, if_neg (by simp [he]), if_pos ho]

theorem State.cwStart_bad (he : s.cwEnabled w = true) (ho : cwOp r = op) (hb : cwBad r = true) :
    s.cwStart w op act = s.setWindow w { x with todo := rest, cur := some (r, .known cwFormat 0) } := by
  rw [State.cwStart_next h hc ht, if_neg (by simp [he]), if_neg (not_not_intro ho), if_pos hb]

theorem State.cwStart_good (he : s.cwEnabled w = true) (ho : cwOp r = op) (hb : cwBad r = false) :
    s.cwStart w op act = (act s r).1.setWindow w { x with todo := rest, cur := some (r, (act s r).2) } := by
  rw [State.cwStart_next h hc ht, if_neg (by simp [he]), if_neg (not_not_intro ho), if_neg (by simp [hb])]

end
end

/-! ## REG_WR -/

theorem cwReply_cases (st : Nat) : cwReply st = 0x01 ∨ cwReply st = 0x82 := by
  unfold cwReply
  split
  · exact .inl rfl
  · exact .inr rfl

/-- A REG_WR has ended, well or with a fault, or waits for its reply. -/
theorem State.cwRegWr_wait (s : State) (r : List Byte) :
    (∃ st, (s.cwRegWr r).2 = .known st 0 ∧ (st = 0x01 ∨ st = 0x82)) ∨ ∃ tag, (s.cwRegWr r).2 = .reply tag := by
  unfold State.cwRegWr
  dsimp only
  split
  · exact .inl ⟨_, rfl, cwReply_cases _⟩
  · exact .inr ⟨_, rfl⟩

/-! ## MOVE -/

/-- A mover that is busy takes no transfer register: MV_IGNORED is set (R320). -/
def moverIgnores (k : Nat) (s t : State) : Prop := t.mvState k = s.mvState k ∧ t.movers = s.movers ∧ t.rd (pgKeep k) Mov.MV_IGNORED 0 = 1

section
variable {s : State} {k off : Nat} (hb : s.mvState k = 1 ∨ s.mvState k = 2) (v : Nat)
include hb

theorem State.moverWrite_ignored (ho : off < 0x89C) : moverIgnores k s (s.moverWrite k off v) := by
  have he : s.moverWrite k off v = s.wr (pgKeep k) Mov.MV_IGNORED 1 := by
    unfold State.moverWrite
    dsimp only
    split
    · omega
    · omega
    · exact if_pos (by simpa [ho] using hb)
  rw [he]
  exact ⟨State.rd_mover_wri s k 1 (by decide) (by decide) (by decide), State.wr_movers .., State.rd_mover_wri_self s k 1 (by decide)⟩

end

theorem moverIgnores.write {k off : Nat} {s t : State} (h : moverIgnores k s t) (hb : s.mvState k = 1 ∨ s.mvState k = 2) (v : Nat)
    (ho : off < 0x89C) : moverIgnores k s (t.moverWrite k off v) := by
  obtain ⟨hstate, hmovers, -⟩ := h
  obtain ⟨hstate', hmovers', hign⟩ := State.moverWrite_ignored (hstate ▸ hb) v ho
  exact ⟨hstate'.trans hstate, hmovers'.trans hmovers, hign⟩

/-- A 64-bit value written to a LO and a HI transfer register. -/
def State.moverPair (s : State) (k off v : Nat) : State := (s.moverWrite k off (v % 2 ^ 32)).moverWrite k (off + 4) (v / 2 ^ 32)

theorem moverIgnores.pair {k off : Nat} {s t : State} (h : moverIgnores k s t) (hb : s.mvState k = 1 ∨ s.mvState k = 2) (v : Nat)
    (ho : off < 0x898) : moverIgnores k s (t.moverPair k off v) :=
  (h.write hb (v % 2 ^ 32) (Nat.lt_of_lt_of_le ho (by decide))).write hb (v / 2 ^ 32) (Nat.add_lt_add_right ho 4)

/-- The registers that a MOVE writes: source, destination, length, then MV_OP with GO. -/
theorem State.cwMove_eq (s : State) (r : List Byte) : s.cwMove r =
    ((((s.moverPair (bits (cwArg r 3) 32 2) 0x880 (cwArg r 0)).moverPair (bits (cwArg r 3) 32 2) 0x888 (cwArg r 1)).moverPair
        (bits (cwArg r 3) 32 2) 0x890 (cwArg r 2)).moverWrite (bits (cwArg r 3) 32 2) 0x898 (bits (cwArg r 3) 0 16 + 2 ^ 31),
      if s.mvState (bits (cwArg r 3) 32 2) = 1 || s.mvState (bits (cwArg r 3) 32 2) = 2 then .known cwRefused 0
      else .mover (bits (cwArg r 3) 32 2)) := rfl

/-- A MOVE for a mover that is busy is refused. -/
theorem State.cwMove_busy {s : State} {r : List Byte} {k : Nat} (hk : k = bits (cwArg r 3) 32 2)
    (hb : s.mvState k = 1 ∨ s.mvState k = 2) :
    (s.cwMove r).2 = .known 0x81 0 ∧ (s.cwMove r).1.movers = s.movers ∧ (s.cwMove r).1.rd (pgKeep k) Mov.MV_IGNORED 0 = 1 := by
  rw [State.cwMove_eq, ← hk]
  dsimp only
  have hsrc : moverIgnores k s (s.moverPair k 0x880 (cwArg r 0)) :=
    (State.moverWrite_ignored hb _ (by decide)).write hb _ (by decide)
  have hlen := (hsrc.pair hb (cwArg r 1) (off := 0x888) (by decide)).pair hb (cwArg r 2) (off := 0x890) (by decide)
  exact ⟨if_pos (by simpa using hb), (hlen.write (off := 0x898) hb (bits (cwArg r 3) 0 16 + 2 ^ 31) (by decide)).2⟩

theorem State.cwMove_free {s : State} {r : List Byte} {k : Nat} (hk : k = bits (cwArg r 3) 32 2) (h1 : s.mvState k ≠ 1)
    (h2 : s.mvState k ≠ 2) : (s.cwMove r).2 = .mover k := by
  subst hk
  exact if_neg (by simp [h1, h2])

/-! ## PLAN_LOAD -/

/-- PLAN_BASE, PLAN_LEN and LOAD_BANK written from a record. -/
def State.cwPlanRegs (s : State) (r : List Byte) : State :=
  s.wrs (pgKeep 0) [(Pln.BASE_LO, cwArg r 0 / 4096 % 2 ^ 20), (Pln.BASE_HI, cwArg r 0 / 2 ^ 32),
    (Pln.PLAN_LEN, cwArg r 1), (Pln.LOAD_BANK, cwArg r 2 % 2)]

theorem State.cwPlanLoad_eq (s : State) (r : List Byte) : s.cwPlanLoad r = ((s.cwPlanRegs r).planLoad (cwArg r 2 % 2),
    if ((s.cwPlanRegs r).planLoad (cwArg r 2 % 2)).sched.loading.length = (s.cwPlanRegs r).sched.loading.length
      then .known cwRefused 0 else .load (cwArg r 2 % 2)) := rfl

theorem State.cwPlanRegs_sched (s : State) (r : List Byte) : (s.cwPlanRegs r).sched = s.sched := by
  simp [State.cwPlanRegs, State.wrs]

/-- They leave the fields of Table 04.8 that a load goes by. -/
theorem State.cwPlanRegs_rd (s : State) (r : List Byte) {x : Reg} (k : Nat)
    (hx : x ∈ [Pln.ACTIVE, Pln.A_STATE, Pln.B_STATE, Pln.ARMED, Pln.LANDING_OLD, Slt.LAND_MAX]) :
    (s.cwPlanRegs r).rd (pgKeep k) x 0 = s.rd (pgKeep k) x 0 := by
  have hoff : 0x170 ≤ x.off ∧ x.stride * 0 = 0 :=
    ⟨(show ∀ x ∈ [Pln.ACTIVE, Pln.A_STATE, Pln.B_STATE, Pln.ARMED, Pln.LANDING_OLD, Slt.LAND_MAX], 0x170 ≤ x.off by decide) x hx,
      Nat.mul_zero _⟩
  have hw : ∀ (t : State) (y : Reg) (v : Nat), 0x160 ≤ y.off → y.off < 0x170 →
      (t.wr (pgKeep 0) y v).rd (pgKeep k) x 0 = t.rd (pgKeep k) x 0 := by
    intro t y v h1 h2
    by_cases hk : k = 0
    · subst hk
      exact State.rd_wr_same t v (.inl (by omega)) (by omega) (by omega) (by decide)
    · exact State.rd_wr_other t v (fun e => hk (pgKeep_inj.1 e)) (by omega) (by decide)
  simp only [State.cwPlanRegs, State.wrs]
  simp (disch := decide) only [hw]

theorem State.cwPlanRegs_bankState (s : State) (r : List Byte) (b : Nat) : (s.cwPlanRegs r).bankState b = s.bankState b := by
  unfold State.bankState
  split
  · exact s.cwPlanRegs_rd r 0 (by simp)
  · exact s.cwPlanRegs_rd r 0 (by simp)

theorem State.cwPlanRegs_armed (s : State) (r : List Byte) :
    (s.cwPlanRegs r).rdb (pgKeep 0) Pln.ARMED 0 = s.rdb (pgKeep 0) Pln.ARMED 0 := by
  delta State.rdb
  rw [s.cwPlanRegs_rd r 0 (by simp)]

theorem State.cwPlanRegs_servesOld (s : State) (r : List Byte) (b : Nat) : (s.cwPlanRegs r).servesOld b = s.servesOld b := by
  delta State.servesOld State.rdb State.active
  rw [s.cwPlanRegs_rd r (x := Pln.LANDING_OLD) 0 (by simp), s.cwPlanRegs_rd r (x := Pln.ACTIVE) 0 (by simp)]

/-- What a good PLAN_LOAD record holds (Table 16.5). -/
theorem cwBad_planLoad {r : List Byte} (ho : cwOp r = 3) (hb : cwBad r = false) :
    cwArg r 0 % 4096 = 0 ∧ cwArg r 0 < 2 ^ 40 ∧ cwArg r 1 < 2 ^ 32 := by
  have hop : leAt r 0 1 = 3 := by
    unfold cwOp at ho
    split at ho
    · exact ho
    · cases ho
  unfold cwBad at hb
  rw [hop] at hb
  simp only [Bool.or_eq_false_iff, decide_eq_false_iff_not, Nat.not_le, not_not] at hb
  obtain ⟨-, ⟨⟨⟨halign, hbase⟩, hlen⟩, -⟩, -⟩ := hb
  exact ⟨halign, hbase, hlen⟩

/-- The load of a good record takes its arguments, and LAND_MAX as it stands. -/
theorem State.cwPlanRegs_job (s : State) {r : List Byte} (ha : cwArg r 0 % 4096 = 0) (hbase : cwArg r 0 < 2 ^ 40)
    (hlen : cwArg r 1 < 2 ^ 32) (b : Nat) : (s.cwPlanRegs r).planJob b =
      ⟨b, cwArg r 0, cwArg r 1, (List.range 4).map fun k => s.rd (pgKeep k) Slt.LAND_MAX 0⟩ := by
  have ht : (pgKeep 0).ty ≠ 0x51 := by decide
  have hlo : (s.cwPlanRegs r).rd (pgKeep 0) Pln.BASE_LO 0 = cwArg r 0 / 4096 % 2 ^ 20 :=
    (State.rd_wrs_head s _ (by decide) ht (by simp only [List.map]; decide)).trans (Nat.mod_mod ..)
  have hhi : (s.cwPlanRegs r).rd (pgKeep 0) Pln.BASE_HI 0 = cwArg r 0 / 2 ^ 32 := by
    delta State.cwPlanRegs
    rw [State.wrs]
    refine (State.rd_wrs_head _ _ (by decide) ht (by simp only [List.map]; decide)).trans (Nat.mod_eq_of_lt ?_)
    change cwArg r 0 / 2 ^ 32 < 2 ^ 8
    omega
  have hlen' : (s.cwPlanRegs r).rd (pgKeep 0) Pln.PLAN_LEN 0 = cwArg r 1 := by
    delta State.cwPlanRegs
    rw [State.wrs, State.wrs]
    exact (State.rd_wrs_head _ _ (by decide) ht (by simp only [List.map]; decide)).trans (Nat.mod_eq_of_lt hlen)
  have hland : (List.range 4).map (fun k => (s.cwPlanRegs r).rd (pgKeep k) Slt.LAND_MAX 0) =
      (List.range 4).map fun k => s.rd (pgKeep k) Slt.LAND_MAX 0 :=
    List.map_congr_left fun k _ => s.cwPlanRegs_rd r k (by simp)
  have hsum : cwArg r 0 / 4096 % 2 ^ 20 * 4096 + cwArg r 0 / 2 ^ 32 * 2 ^ 32 = cwArg r 0 := by omega
  unfold State.planJob State.planBase
  rw [hlo, hhi, hlen', hland, hsum]

/-- A PLAN_LOAD of a bank that loads or is in force is refused. -/
theorem State.cwPlanLoad_busy {s : State} {r : List Byte} {b : Nat} (hb : b = cwArg r 2 % 2)
    (h : s.bankState b = 1 ∨ s.bankState b = 3) :
    (s.cwPlanLoad r).2 = .known 0x81 0 ∧ (s.cwPlanLoad r).1.sched = s.sched ∧ errSet (s.cwPlanLoad r).1 (pgKeep 0) 11 := by
  subst hb
  have hload : (s.cwPlanRegs r).planLoad (cwArg r 2 % 2) = (s.cwPlanRegs r).err (pgKeep 0) 11 := by
    refine State.planLoad_busy ?_
    rw [State.cwPlanRegs_bankState]
    exact h.imp_right .inl
  rw [State.cwPlanLoad_eq, hload, State.err_sched]
  exact ⟨if_pos rfl, s.cwPlanRegs_sched r, State.err_bit _ _ _ (by decide)⟩

/-- Another starts the load of the record's image. -/
theorem State.cwPlanLoad_idle {s : State} {r : List Byte} {b : Nat} (hb : b = cwArg r 2 % 2) (ho : cwOp r = 3)
    (hgood : cwBad r = false) (h1 : s.bankState b ≠ 1) (h3 : s.bankState b ≠ 3) (ha : s.rdb (pgKeep 0) Pln.ARMED 0 = false)
    (hl : s.servesOld b = false) : (s.cwPlanLoad r).2 = .load b ∧ (s.cwPlanLoad r).1.bankState b = 1 ∧
      (s.cwPlanLoad r).1.sched = { s.sched with loading := s.sched.loading ++
        [⟨b, cwArg r 0, cwArg r 1, (List.range 4).map fun k => s.rd (pgKeep k) Slt.LAND_MAX 0⟩] } := by
  subst hb
  obtain ⟨halign, hbase, hlen⟩ := cwBad_planLoad ho hgood
  have hload := State.planLoad_idle (s := s.cwPlanRegs r) (b := cwArg r 2 % 2) (by rwa [State.cwPlanRegs_bankState])
    (by rwa [State.cwPlanRegs_bankState]) (.inl (by rwa [State.cwPlanRegs_armed])) (by rwa [State.cwPlanRegs_servesOld])
  rw [State.cwPlanRegs_job s halign hbase hlen, State.cwPlanRegs_sched] at hload
  rw [State.cwPlanLoad_eq, hload, State.cwPlanRegs_sched]
  exact ⟨if_neg (by simp [State.setSched]), State.bankState_setBankState _ _ 1 (by decide), rfl⟩

/-! ## PLAN_SWITCH -/

/-- A PLAN_SWITCH with no bank READY is refused. -/
theorem State.cwPlanSwitch_refused {s : State} (r : List Byte) (h : s.bankState s.targetBank ≠ 2) :
    (s.cwPlanSwitch r).2 = .known 0x81 0 ∧ errSet (s.cwPlanSwitch r).1 (pgKeep 0) 10 ∧ (s.cwPlanSwitch r).1.sched = s.sched := by
  have hswitch : s.armSwitch (cwArg r 0) = s.switchRefused 10 := if_pos h
  obtain ⟨hbit, -, hsched⟩ := State.switchRefused_effect s 10 (by decide)
  have hfault : planFieldsKept (s.err (pgKeep 0) 10) (s.switchRefused 10) := fun x _ k =>
    State.configFault_rd (s.err (pgKeep 0) 10) (pgKeep k) x 0
  have harmed := ((planFieldsKept_err s (pgKeep 0) 10).trans hfault).armed
  delta State.cwPlanSwitch
  dsimp only
  rw [hswitch, harmed, Bool.not_and_self]
  exact ⟨rfl, hbit, hsched⟩

/-- One for a tick to come arms the switch. -/
theorem State.cwPlanSwitch_armed {s : State} {r : List Byte} (h : s.bankState s.targetBank = 2)
    (hn : tickReached s.now (cwArg r 0) = false) (ha : s.rdb (pgKeep 0) Pln.ARMED 0 = false) :
    (s.cwPlanSwitch r).2 = .known 0x01 0 ∧ (s.cwPlanSwitch r).1.rd (pgKeep 0) Pln.ARMED 0 = 1 ∧
      (s.cwPlanSwitch r).1.sched = { s.sched with armBank := s.targetBank, armAt := cwArg r 0 } := by
  obtain ⟨harmed, -, -, hsched⟩ := State.armSwitch_effect h hn ha
  have hnow : (s.armSwitch (cwArg r 0)).rdb (pgKeep 0) Pln.ARMED 0 = true := by
    delta State.rdb
    simp [harmed]
  delta State.cwPlanSwitch
  dsimp only
  rw [ha, hnow]
  exact ⟨rfl, harmed, hsched⟩

/-! ## A record completes -/

section
variable {s : State} {w : Nat} {x : CmdWin} {r : List Byte} {c : CwWait}

/-- The state after a record's RESULT, STATUS and CONSUME have been written and CW_DONE has counted it. -/
def State.cwDone (s : State) (w : Nat) (x : CmdWin) (st res : Nat) : State :=
  (((s.cwWrite (s.cwRecord w x.cons + 40) (leBytes 8 res)).cwWrite (s.cwRecord w x.cons + 2) (leBytes 1 st)).cwWrite
    (s.cwBase w + 4) (leBytes 4 ((x.cons + 1) % 2 ^ 32))).bumpi pgHost Mac.CW_DONE w 1

theorem State.cwComplete_ended (h : AL.get s.windows w = some x) (hc : x.cur = some (r, c))
    (h1 : s.mustWait (hbmTarget (s.cwBase w)) 0x11 = false) (h2 : s.mustWait (hbmTarget (s.cwRecord w x.cons)) 0x11 = false)
    {st res : Nat} {u : State} (he : s.cwEnded c = some (st, res, u)) :
    s.cwComplete w = (if bit (leAt r 1 1) 0 then (u.cwDone w x st res).eventE pgHost 0x0001
        (leBytes 1 w ++ leBytes 1 st ++ leBytes 2 0 ++ padTo 4 (slice r 4 4) ++ leBytes 8 res)
      else u.cwDone w x st res).setWindow w { x with cons := (x.cons + 1) % 2 ^ 32, cur := none } := by
  delta State.cwComplete
  rw [h]
  dsimp only
  rw [hc]
  dsimp only
  rw [if_neg (by simp [h1, h2]), he]
  rfl

theorem State.cwComplete_waits (h : AL.get s.windows w = some x) (hc : x.cur = some (r, c))
    (hw : s.mustWait (hbmTarget (s.cwBase w)) 0x11 = true ∨ s.mustWait (hbmTarget (s.cwRecord w x.cons)) 0x11 = true ∨
      s.cwEnded c = none) : s.cwComplete w = s := by
  delta State.cwComplete
  rw [h]
  dsimp only
  rw [hc]
  dsimp only
  split
  · rfl
  · rename_i hn
    obtain ⟨h1, h2⟩ : s.mustWait (hbmTarget (s.cwBase w)) 0x11 = false ∧
      s.mustWait (hbmTarget (s.cwRecord w x.cons)) 0x11 = false := by simpa using hn
    rw [(hw.resolve_left (by simp [h1])).resolve_left (by simp [h2])]

theorem State.cwComplete_none (h : AL.get s.windows w = none ∨ AL.get s.windows w = some x ∧ x.cur = none) :
    s.cwComplete w = s := by
  delta State.cwComplete
  rcases h with h | ⟨h, hc⟩
  · rw [h]
  · rw [h]
    dsimp only
    rw [hc]

/-- A record that has ended took no register with it. -/
theorem State.cwEnded_rd {st res : Nat} {u : State} (he : s.cwEnded c = some (st, res, u)) (p : PageId) (y : Reg) (i : Nat) :
    u.rd p y i = s.rd p y i :=
  (State.cwEnded_next_parts (M := (· = .answers)) (parts_refl s) he rfl).rd (by decide) p y i

/-- CW_DONE counts the record. -/
theorem State.cwDone_counted (s : State) (w : Nat) (x : CmdWin) (st res : Nat) :
    (s.cwDone w x st res).rd pgHost Mac.CW_DONE w = (s.rd pgHost Mac.CW_DONE w + 1) % 2 ^ 32 := by
  have hl : Mac.CW_DONE.off + Mac.CW_DONE.stride * w ≠ 0x158 := by
    simp only [Mac.CW_DONE]
    omega
  unfold State.cwDone
  rw [State.rd_bumpi_own _ 1 (by decide) (by decide) rfl]
  rw [State.rd_cwWrite_host (by decide) hl, State.rd_cwWrite_host (by decide) hl, State.rd_cwWrite_host (by decide) hl]
  rfl

end

/-- The end of a record, by what it waits for. -/
theorem recordsComplete (w : Nat) (s : State) : ∃ t, exec (.cwRecordComplete w) s = .next t ∧ (AL.get s.windows w = none → t = s) ∧
    ∀ x, AL.get s.windows w = some x → (x.cur = none → t = s) ∧
      ∀ r c, x.cur = some (r, c) →
        (s.mustWait (hbmTarget (s.cwBase w)) 0x11 = true ∨ s.mustWait (hbmTarget (s.cwRecord w x.cons)) 0x11 = true ∨
          s.cwEnded c = none → t = s) ∧
        (s.mustWait (hbmTarget (s.cwBase w)) 0x11 = false → s.mustWait (hbmTarget (s.cwRecord w x.cons)) 0x11 = false →
          ∀ st res u, s.cwEnded c = some (st, res, u) →
            AL.get t.windows w = some { x with cons := (x.cons + 1) % 2 ^ 32, cur := none } ∧
            t.rd pgHost Mac.CW_DONE w = (s.rd pgHost Mac.CW_DONE w + 1) % 2 ^ 32) := by
  refine ⟨s.cwComplete w, rfl, fun h => State.cwComplete_none (x := ⟨0, [], none⟩) (.inl h), fun x h =>
    ⟨fun hc => State.cwComplete_none (.inr ⟨h, hc⟩), fun r c hc =>
      ⟨fun hw => State.cwComplete_waits h hc hw, fun h1 h2 st res u he => ?_⟩⟩⟩
  rw [State.cwComplete_ended h hc h1 h2 he]
  refine ⟨AL.get_put_self .., ?_⟩
  rw [State.setWindow_rd]
  have hcount := (u.cwDone_counted w x st res).trans (by rw [State.cwEnded_rd he])
  have hl : Mac.CW_DONE.off + Mac.CW_DONE.stride * w ≠ 0x158 := by
    simp only [Mac.CW_DONE]
    omega
  split
  · exact (State.rd_eventE_host (by decide) hl _ _ _ _).trans hcount
  · exact hcount

/-- Settles O53: records by what their window and their OP allow, and their end by what they wait for. -/
theorem windowRecordsStartAndEnd : Obligations.WindowRecordsStartAndEnd := by
  refine ⟨fun op w s hop => ?_, fun w s _ => recordsComplete w s⟩
  rw [exec_windowCommand hop]
  refine ⟨fun h => by rw [State.cwStart_closed h], fun x h => ⟨fun hx => by rw [State.cwStart_idle h hx], fun r rest hc ht =>
    ⟨fun he => by rw [State.cwStart_disabled h hc ht he], fun he ho => by rw [State.cwStart_other h hc ht he ho],
      fun he ho hb => by rw [State.cwStart_bad h hc ht he ho hb]; rfl, fun he ho hb => ?_⟩⟩⟩
  rw [State.cwStart_good h hc ht he ho hb]
  refine ⟨_, _, rfl, AL.get_put_self .., fun h0 => ?_, fun h1 => ?_, fun k h2 hk => ?_, fun b h3 hbank => ?_, fun h4 => ?_⟩
  · subst h0
    exact ⟨rfl, rfl⟩
  · subst h1
    exact s.cwRegWr_wait r
  · subst h2
    rw [State.setWindow_movers, State.setWindow_rd]
    exact ⟨fun hbusy => State.cwMove_busy hk hbusy, fun h1 h2 => State.cwMove_free hk h1 h2⟩
  · subst h3
    rw [State.setWindow_sched, State.setWindow_bankState, errSet_setWindow]
    exact ⟨fun hbusy => State.cwPlanLoad_busy hbank hbusy, fun h1 h3 ha hl => State.cwPlanLoad_idle hbank ho hb h1 h3 ha hl⟩
  · subst h4
    rw [State.setWindow_sched, State.setWindow_rd, errSet_setWindow]
    exact ⟨fun hr => State.cwPlanSwitch_refused r hr, fun hs hn ha => State.cwPlanSwitch_armed hs hn ha⟩

end Sys2Proof.Machine
end

section
/-! Sessions of the host protocol (R386–R391). -/

namespace Sys2Proof.Machine

open Sys2Proof

/-! ## Messages to the host and requests to memory -/

/-- What a message to the host may touch. -/
def mailed (p : Part) : Prop := p = .free ∨ p = .regs ∨ p = .events ∨ p = .host ∨ p = .links ∨ p = .opn

theorem mailed_iff (p : Part) : mailed p ↔ p = .free ∨ p = .regs ∨ p = .events ∨ p = .host ∨ p = .links ∨ p = .opn := Iff.rfl

theorem State.sendReply_only (s : State) (dst : NetSrc) (m reply : List Byte) : Parts mailed s (s.sendReply dst m reply) := by
  apply State.sendReply_parts (parts_refl s) <;> simp [mailed_iff]

/-- What a stream's step may touch. -/
def streamed (p : Part) : Prop := mailed p ∨ p = .out ∨ p = .reservations ∨ p = .power ∨ p = .answers ∨ p = .streams

theorem streamed_iff (p : Part) :
    streamed p ↔ mailed p ∨ p = .out ∨ p = .reservations ∨ p = .power ∨ p = .answers ∨ p = .streams := Iff.rfl

theorem State.streamStep_only (s : State) (i : Nat) : Parts streamed s (s.streamStep i) := by
  apply State.streamStep_parts (parts_refl s) <;> simp [streamed_iff, mailed_iff]

@[simp] theorem State.sendReply_sessions (s : State) (dst : NetSrc) (m reply : List Byte) :
    (s.sendReply dst m reply).sessions = s.sessions := (s.sendReply_only dst m reply).same_of (p := .sessions) (by simp [mailed_iff])

@[simp] theorem State.sendReply_opening (s : State) (dst : NetSrc) (m reply : List Byte) :
    (s.sendReply dst m reply).opening = s.opening := (s.sendReply_only dst m reply).same_of (p := .opening) (by simp [mailed_iff])

/-- An OUT stream goes on in state `t` with its next read, within the window that state `s` shows. -/
def State.outRest (s t : State) (i : Nat) (y : Stream) : State :=
  if y.tags.isEmpty && y.pos + y.part.length < min y.len (y.acked + max 1 (s.rd pgHost Mac.STREAM_WIN) * 2 ^ 20) then
    t.streamAsk i y 0x10 (y.pos + y.part.length) (min (pieceLen y.addr (y.pos + y.part.length) y.len)
      (y.pos + y.frameLen - (y.pos + y.part.length))) []
  else t.setStream i y

theorem State.outStep_down {s : State} {i : Nat} {y : Stream} (h : s.rdb pgHost Mac.LINK_UP = false) :
    s.outStep i y = s.setStream i y := if_pos (by simp [h])

/-- While the link is up a full frame leaves first. -/
theorem State.outStep_up {s : State} {i : Nat} {y : Stream} (h : s.rdb pgHost Mac.LINK_UP = true) :
    s.outStep i y = if 0 < y.part.length && y.part.length = y.frameLen then
        s.outRest (s.streamSend i y 0x31 (y.pos / 8192 % 2 ^ 32) (leBytes 8 y.pos ++ y.part)) i
          { y with pos := y.pos + y.part.length, top := max y.top (y.pos + y.part.length), part := [] }
      else s.outRest s i y := by
  unfold State.outStep
  rw [if_neg (by simp [h])]
  dsimp only
  delta State.outRest
  cases (Decidable.decide (0 < y.part.length) && Decidable.decide (y.part.length = y.frameLen)) with
  | false => simp only [Bool.false_eq_true, if_false]
  | true => simp only [if_true]

section
variable {x : Reg} {j : Nat} (hx : 0x100 ≤ x.off) (hl : x.off + x.stride * j ≠ 0x158)
include hx hl

theorem State.rd_strictSend_host (s : State) (q : Nat) (l : List Byte) : (s.strictSend q l).rd pgHost x j = s.rd pgHost x j := by
  have hput := State.rd_strictPut s q l (not_eventTouches_host hx hl)
  unfold State.strictSend
  dsimp only
  split
  · exact hput
  · exact (State.rd_err_host hx hl ..).trans hput

theorem State.rd_weightedPut_host (s : State) (q : Nat) (fr : List Byte) (cm : Bool) :
    (s.weightedPut q fr cm).rd pgHost x j = s.rd pgHost x j := by
  have hbump : ∀ (t : State) (r : Reg), 0x100 ≤ r.off → (t.bump pgK3 r).rd pgHost x j = t.rd pgHost x j := fun t r hr =>
    State.rd_bumpi_other t 1 (by decide) hr (by decide)
  unfold State.weightedPut
  dsimp only
  split
  · rw [State.rd_err_host hx hl]
    exact hbump s Hst.EG_DROP (by decide)
  · have hmarked : ∀ (t : State) (b : Bool), (if b then t.bump pgK3 Hst.ECN_MARKED else t).rd pgHost x j = t.rd pgHost x j := by
      intro t b
      split
      · exact hbump t Hst.ECN_MARKED (by decide)
      · rfl
    exact (hmarked _ _).trans rfl

/-- A reply leaves the block fields of the host MAC as they read, but for EVT_LOST. -/
theorem State.rd_sendReply_host (s : State) (dst : NetSrc) (m reply : List Byte) :
    (s.sendReply dst m reply).rd pgHost x j = s.rd pgHost x j := by
  unfold State.sendReply
  split
  · exact (State.rd_of_eq rfl rfl rfl ..).trans (State.rd_weightedPut_host hx hl s _ _ _)
  · exact (State.rd_of_eq rfl rfl rfl ..).trans (State.rd_strictSend_host hx hl s _ _)

theorem State.rd_streamSend_host (s : State) (i : Nat) (y : Stream) (type seq : Nat) (body : List Byte) :
    (s.streamSend i y type seq body).rd pgHost x j = s.rd pgHost x j :=
  (State.rd_of_eq rfl rfl rfl ..).trans (State.rd_weightedPut_host hx hl s _ _ _)

theorem State.rd_unroutable_host (s : State) (k : Nat) (unr : Bool) : (s.unroutable k unr).rd pgHost x j = s.rd pgHost x j := by
  unfold State.unroutable
  split
  · exact (State.rd_err_host hx hl ..).trans
      (State.rd_bumpi_other s 1 (by simp [pgHost, pgKeep]) (by decide) (by simp [pgKeep]))
  · rfl

theorem State.rd_forward_host (s : State) (k : Nat) (src : QSource) (buf : Option (Nat × Nat)) (travel : Option Nat) (f : Flit) :
    (s.forward k src buf travel f).rd pgHost x j = s.rd pgHost x j := by
  unfold State.forward
  split
  · dsimp only
    split
    · exact State.rd_unroutable_host hx hl s _ true
    · rfl
  · split
    · rfl
    · split
      · rfl
      · rfl

/-- So does a memory request of the host MAC. -/
theorem State.rd_inject_host (s : State) (f : Flit) : (s.inject .host f).rd pgHost x j = s.rd pgHost x j := by
  cases hp : (s.ownRequest .host f).poison with
  | true => exact congrArg (·.rd pgHost x j) (State.inject_poisoned rfl hp)
  | false =>
    cases ht : s.tagBad .host (s.ownRequest .host f).tag with
    | true => exact (congrArg (·.rd pgHost x j) (State.inject_tagged rfl hp ht)).trans rfl
    | false =>
      cases hr : s.routeCompute .host (s.ownRequest .host f) with
      | answer st unr =>
        rw [State.inject_answered rfl hp ht hr]
        exact ((State.answered_effect ..).2.2 ..).trans (State.rd_unroutable_host hx hl s _ unr)
      | send o =>
        rw [State.inject_sent rfl hp ht hr]
        exact (State.rd_forward_host hx hl _ _ _ _ _ _).trans (State.rd_of_eq rfl rfl rfl ..)

section
variable {i : Nat} (hlo : x.off + x.stride * j ≠ 0x170 + 8 * i) (hhi : x.off + x.stride * j ≠ 0x174 + 8 * i)
include hlo hhi

omit hl in
theorem State.rd_setStream_host (s : State) (y : Stream) : (s.setStream i y).rd pgHost x j = s.rd pgHost x j := by
  delta State.setStream State.wr2
  rw [State.rd_wri_same _ _ (.inl hhi) hx (by decide) (by decide), State.rd_wri_same _ _ (.inl hlo) hx (by decide) (by decide)]
  rfl

theorem State.rd_streamAsk_host (s : State) (y : Stream) (opcode off n : Nat) (data : List Byte) :
    (s.streamAsk i y opcode off n data).rd pgHost x j = s.rd pgHost x j :=
  (State.rd_inject_host hx hl _ _).trans (State.rd_setStream_host hx hlo hhi s _)

theorem State.rd_outRest_host (s t : State) (y : Stream) : (s.outRest t i y).rd pgHost x j = t.rd pgHost x j := by
  delta State.outRest
  split
  · exact State.rd_streamAsk_host hx hl hlo hhi ..
  · exact State.rd_setStream_host hx hlo hhi t y

theorem State.rd_outStep_host (s : State) (y : Stream) : (s.outStep i y).rd pgHost x j = s.rd pgHost x j := by
  cases hup : s.rdb pgHost Mac.LINK_UP with
  | false =>
    rw [State.outStep_down hup]
    exact State.rd_setStream_host hx hlo hhi s y
  | true =>
    rw [State.outStep_up hup]
    split
    · exact (State.rd_outRest_host hx hl hlo hhi ..).trans (State.rd_streamSend_host hx hl ..)
    · exact State.rd_outRest_host hx hl hlo hhi ..

section
variable (hst : x.off + x.stride * j ≠ 0x168 + 4 * i)
include hst

theorem State.rd_endStream_host (s : State) (y : Stream) (status : Nat) : (s.endStream i y status).rd pgHost x j = s.rd pgHost x j := by
  have hstate : ∀ v : Nat, ((s.setStream i y).wri pgHost Mac.STRM_STATE i v).rd pgHost x j = s.rd pgHost x j := fun v =>
    (State.rd_wri_same _ v (.inl hst) hx (by decide) (by decide)).trans (State.rd_setStream_host hx hlo hhi s y)
  have hgone : ∀ t : State, ({ t with streams := AL.del t.streams i } : State).rd pgHost x j = t.rd pgHost x j := fun t =>
    State.rd_of_eq rfl rfl rfl ..
  unfold State.endStream
  dsimp only
  rw [State.rd_eventE_host hx hl]
  split
  · exact (hgone _).trans (hstate _)
  · exact (State.rd_err_host hx hl ..).trans ((hgone _).trans (hstate _))

theorem State.rd_inStep_host (s : State) (y : Stream) : (s.inStep i y).rd pgHost x j = s.rd pgHost x j := by
  delta State.inStep
  split
  · exact (State.rd_endStream_host hx hl hlo hhi hst ..).trans (State.rd_streamSend_host hx hl ..)
  · split
    · exact State.rd_setStream_host hx hlo hhi s y
    · exact State.rd_streamAsk_host hx hl hlo hhi ..

theorem State.rd_streamStep_host (s : State) : (s.streamStep i).rd pgHost x j = s.rd pgHost x j := by
  delta State.streamStep
  split
  · split
    · split
      · exact State.rd_endStream_host hx hl hlo hhi hst ..
      · exact State.rd_outStep_host hx hl hlo hhi ..
    · exact State.rd_inStep_host hx hl hlo hhi hst ..
  · rfl

end
end

theorem State.rd_sessionRequest_host (s : State) (i : Nat) (r : Request) :
    (s.sessionRequest i r).rd pgHost x j = s.rd pgHost x j := by
  have hreply : ∀ (y : Session) (d : NetSrc) (m l : List Byte), ((s.setSession i y).sendReply d m l).rd pgHost x j = s.rd pgHost x j :=
    fun y d m l => (State.rd_sendReply_host hx hl _ d m l).trans rfl
  delta State.sessionRequest
  split
  · exact State.rd_sendReply_host hx hl ..
  · dsimp only
    split
    · exact State.rd_sendReply_host hx hl ..
    · split
      · rfl
      · split
        · rfl
        · split
          · exact hreply ..
          · split
            · exact hreply ..
            · exact hreply ..

end

end Sys2Proof.Machine
end

section
/-! Requests of sessions executed, and the statement on sessions (R386–R391). -/

namespace Sys2Proof.Machine

open Sys2Proof

/-! ## A request arrives -/

section
variable {s : State} {i : Nat} {r : Request}

/-- A request changes the record of its own session alone, whose owner stays. -/
theorem State.sessionRequest_other (s : State) {i k : Nat} (r : Request) (h : k ≠ i) :
    AL.get (s.sessionRequest i r).sessions k = AL.get s.sessions k := by
  have hput : ∀ y : Session, AL.get (s.setSession i y).sessions k = AL.get s.sessions k := fun y => AL.get_put_ne _ y h
  delta State.sessionRequest State.refuse
  split
  · rw [State.sendReply_sessions]
  · dsimp only
    split
    · rw [State.sendReply_sessions]
    · split
      · exact hput _
      · split
        · exact hput _
        · split
          · rw [State.sendReply_sessions]
            exact hput _
          · split
            · rw [State.sendReply_sessions]
              exact hput _
            · rw [State.sendReply_sessions]
              exact hput _

theorem State.sessionRequest_owner (s : State) (i : Nat) (r : Request) {x : Session} (h : AL.get s.sessions i = some x) :
    ∃ y, AL.get (s.sessionRequest i r).sessions i = some y ∧ y.owner = x.owner := by
  have hput : ∀ y : Session, AL.get (s.setSession i y).sessions i = some y := fun y => AL.get_put_self ..
  delta State.sessionRequest State.refuse
  rw [h]
  dsimp only
  split
  · rw [State.sendReply_sessions]
    exact ⟨x, h, rfl⟩
  · split
    · refine ⟨_, hput _, ?_⟩
      split
      · rfl
      · rfl
    · split
      · refine ⟨_, hput _, ?_⟩
        split
        · rfl
        · rfl
      · split
        · rw [State.sendReply_sessions]
          exact ⟨_, hput _, rfl⟩
        · split
          · rw [State.sendReply_sessions]
            exact ⟨_, hput _, rfl⟩
          · rw [State.sendReply_sessions]
            exact ⟨_, hput _, rfl⟩

theorem State.sessionRequest_opening (s : State) (i : Nat) (r : Request) : (s.sessionRequest i r).opening = s.opening :=
  (State.sessionRequest_parts (M := (· ≠ .opening)) (parts_refl s) i r (by decide) (by decide) (by decide) (by decide) (by decide)
    (by decide) (by decide)).same_of (p := .opening) (by simp)

/-- The next request of a session that executes none starts (R390). -/
theorem State.sessionRequest_starts {x : Session} (h : AL.get s.sessions i = some x) (ho : sameOwner r.src x.owner = true)
    (hq : mSeq r.bytes = x.next) (he : x.exec = none) :
    s.sessionRequest i r = s.setSession i { x with last := s.clock, exec := some (Exec.start r) } := by
  have hd : (mSeq r.bytes + 2 ^ 32 - x.next) % 2 ^ 32 = 0 := by omega
  delta State.sessionRequest
  rw [h]
  dsimp only
  rw [if_neg (by simp [ho]), if_pos hd, if_pos (by simp [he])]

end

/-! ## Datagrams (R386) -/

section
variable {src : NetSrc} {m : List Byte} {s : State}

/-- The state after a datagram has been taken and counted. -/
def State.received (s : State) (src : NetSrc) (m : List Byte) : State :=
  (s.takeFrame fun fr => netOf fr = some (src, m)).bump pgHost Mac.RX_MORAECA

theorem State.datagram_bad (h : mGood m = false) : s.datagram src m = ((s.received src m).bump pgHost Mac.RX_BAD).err pgHost 1 :=
  if_neg (by simp [h])

theorem State.datagram_good (h : mGood m = true) : s.datagram src m = (s.received src m).message src m := if_pos h

theorem State.received_only (s : State) (src : NetSrc) (m : List Byte) :
    Parts (fun p => p = .regs ∨ p = .host) s (s.received src m) :=
  State.bump_parts (State.takeFrame_parts (parts_refl s) _ (.inr rfl)) _ _ _ (.inl rfl)

theorem State.received_rest (s : State) (src : NetSrc) (m : List Byte) : (s.received src m).sessions = s.sessions ∧
    (s.received src m).opening = s.opening ∧ (s.received src m).clock = s.clock :=
  ⟨(s.received_only src m).same_of (p := .sessions) (by simp), (s.received_only src m).same_of (p := .opening) (by simp),
    (s.received_only src m).same_of (p := .clock) (by simp)⟩

theorem State.received_counted (s : State) (src : NetSrc) (m : List Byte) : counted s (s.received src m) pgHost Mac.RX_MORAECA 1 :=
  State.rd_bumpi_own _ 1 (by decide) (by decide) rfl

/-- The count of datagrams lies apart from what a stream's page shows. -/
theorem rxMoraeca_apart : ∀ i, i < 2 → Mac.RX_MORAECA.off + Mac.RX_MORAECA.stride * 0 ≠ 0x170 + 8 * i ∧
    Mac.RX_MORAECA.off + Mac.RX_MORAECA.stride * 0 ≠ 0x174 + 8 * i ∧
    Mac.RX_MORAECA.off + Mac.RX_MORAECA.stride * 0 ≠ 0x168 + 4 * i := by decide

theorem State.rd_streamData_received (s : State) {i : Nat} (hi : i < 2) (src : NetSrc) (m : List Byte) :
    (s.streamData i src m).rd pgHost Mac.RX_MORAECA 0 = s.rd pgHost Mac.RX_MORAECA 0 := by
  obtain ⟨hlo, hhi, hst⟩ := rxMoraeca_apart i hi
  unfold State.streamData
  split
  · split
    · rfl
    · dsimp only
      split
      · exact State.rd_inStep_host (by decide) (by decide) hlo hhi hst ..
      · exact State.rd_streamSend_host (by decide) (by decide) ..
  · rfl

theorem State.rd_streamAck_received (s : State) {i : Nat} (hi : i < 2) (src : NetSrc) (a : Nat) :
    (s.streamAck i src a).rd pgHost Mac.RX_MORAECA 0 = s.rd pgHost Mac.RX_MORAECA 0 := by
  obtain ⟨hlo, hhi, hst⟩ := rxMoraeca_apart i hi
  unfold State.streamAck
  split
  · split
    · exact (State.rd_streamStep_host (by decide) (by decide) hlo hhi hst _).trans (State.rd_setStream_host (by decide) hlo hhi ..)
    · rfl
  · rfl

/-- A good message leaves the count of those received. -/
theorem State.message_received (s : State) (src : NetSrc) (m : List Byte) :
    (s.message src m).rd pgHost Mac.RX_MORAECA 0 = s.rd pgHost Mac.RX_MORAECA 0 := by
  have hx : 0x100 ≤ Mac.RX_MORAECA.off := by decide
  have hl : Mac.RX_MORAECA.off + Mac.RX_MORAECA.stride * 0 ≠ 0x158 := by decide
  have hrefuse : ∀ st, (s.refuse src m st).rd pgHost Mac.RX_MORAECA 0 = s.rd pgHost Mac.RX_MORAECA 0 := fun st =>
    State.rd_sendReply_host hx hl ..
  delta State.message
  dsimp only
  split
  · split
    · exact hrefuse 1
    · split
      · split
        · exact hrefuse 1
        · rfl
      · split
        · rfl
        · exact State.rd_sessionRequest_host hx hl ..
  · split
    · exact hrefuse 1
    · split
      · split
        · exact (State.eventAck_parts (M := (· = .events)) (parts_refl s) src _ rfl).rd (by decide) ..
        · exact hrefuse 1
      · split
        · exact hrefuse 1
        · rename_i hs
          have hi : mSess m - 0xFFF0 < 2 := by
            simp only [Bool.and_eq_true, decide_eq_true_eq, not_and, not_not, ne_eq] at hs
            omega
          split
          · exact State.rd_streamData_received s hi src m
          · exact State.rd_streamAck_received s hi src _

theorem sessionType_of {t : Nat} (h : t ∈ [0x02, 0x10, 0x11, 0x20, 0x21, 0x30]) : sessionType t = true ∧ t ≠ 0x01 := by
  revert t
  decide

end

/-- A datagram is counted, and does what its type and its session let it. -/
theorem datagramsAreTaken (src : NetSrc) (m : List Byte) (s : State) : ∃ t, exec (.moraecaReceive src m) s = .next t ∧
    counted s t pgHost Mac.RX_MORAECA 1 ∧
    (mGood m = false → counted s t pgHost Mac.RX_BAD 1 ∧ errSet t pgHost 1 ∧ t.sessions = s.sessions) ∧
    (mGood m = true → mType m = 0x01 → mSess m ≤ 15 → mHeadBad m = false → mBodyBad m = false →
      t.opening = s.opening ++ [(mSess m, ⟨src, m, s.clock⟩)] ∧ t.sessions = s.sessions) ∧
    (mGood m = true → mType m ∈ [0x02, 0x10, 0x11, 0x20, 0x21, 0x30] → mSess m ≤ 15 → (∃ y ∈ s.opening, y.1 = mSess m) →
      t.opening = s.opening ++ [(mSess m, ⟨src, m, s.clock⟩)] ∧ t.sessions = s.sessions) ∧
    (∀ x, mGood m = true → mType m ∈ [0x02, 0x10, 0x11, 0x20, 0x21, 0x30] → mSess m ≤ 15 →
      (∀ y ∈ s.opening, y.1 ≠ mSess m) → AL.get s.sessions (mSess m) = some x → sameOwner src x.owner = true →
      mSeq m = x.next → x.exec = none →
      AL.get t.sessions (mSess m) = some { x with last := s.clock, exec := some (Exec.start ⟨src, m, s.clock⟩) }) := by
  have hx : 0x100 ≤ Mac.RX_MORAECA.off := by decide
  obtain ⟨hsess, hopen, hclock⟩ := s.received_rest src m
  refine ⟨s.datagram src m, rfl, ?_, fun hg => ?_, fun hg ht hs hh hb => ?_, fun hg ht hs hy => ?_,
    fun x hg ht hs hy h ho hq he => ?_⟩
  · cases hg : mGood m with
    | false =>
      rw [State.datagram_bad hg]
      refine Eq.trans ?_ (s.received_counted src m)
      exact (State.rd_err_host hx (by decide) ..).trans (State.rd_bumpi_same _ 1 (by decide) hx (by decide) (by decide))
    | true =>
      rw [State.datagram_good hg]
      exact (State.message_received ..).trans (s.received_counted src m)
  · rw [State.datagram_bad hg]
    refine ⟨?_, State.err_bit _ _ _ (by decide), ?_⟩
    · refine (State.rd_err_host (by decide) (by decide) ..).trans ((State.rd_bumpi_own _ 1 (by decide) (by decide) rfl).trans ?_)
      have hkept : (s.received src m).rd pgHost Mac.RX_BAD 0 = s.rd pgHost Mac.RX_BAD 0 :=
        State.rd_bumpi_same _ 1 (by decide) (by decide) hx (by decide)
      rw [hkept]
      rfl
    · rw [State.err_sessions, State.bump_sessions, hsess]
  · rw [State.datagram_good hg]
    delta State.message
    dsimp only
    rw [if_pos (by rw [ht]; rfl), if_neg (by omega), if_pos ht, if_neg (by simp [hh, hb])]
    exact ⟨by rw [hopen, hclock], hsess⟩
  · obtain ⟨hst, h1⟩ := sessionType_of ht
    rw [State.datagram_good hg]
    delta State.message
    dsimp only
    rw [if_pos hst, if_neg (by omega), if_neg h1, if_pos (by rw [hopen]; simpa using hy)]
    exact ⟨by rw [hopen, hclock], hsess⟩
  · obtain ⟨hst, h1⟩ := sessionType_of ht
    have hnone : ¬ ((s.received src m).opening.any fun y => y.1 = mSess m) = true := by
      rw [hopen, List.any_eq_true]
      rintro ⟨y, hm, hy'⟩
      exact hy y hm (of_decide_eq_true hy')
    rw [State.datagram_good hg]
    delta State.message
    dsimp only
    rw [if_pos hst, if_neg (by omega), if_neg h1, if_neg hnone, hclock,
      State.sessionRequest_starts (hsess ▸ h) ho hq he, hclock]
    exact AL.get_put_self ..

/-! ## OPEN (R389, R390) -/

theorem filter_erase_of_false {α : Type} [BEq α] [LawfulBEq α] {p : α → Bool} {a : α} (h : p a = false) :
    ∀ l : List α, (l.erase a).filter p = l.filter p
  | [] => rfl
  | b :: l => by
    by_cases hb : b = a
    · subst hb
      simp [h]
    · rw [List.erase_cons_tail (by simpa using hb), List.filter_cons, List.filter_cons, filter_erase_of_false h l]

/-- What waits behind an OPEN of session `i`. -/
def State.behindOpen (s : State) (i : Nat) (x : Nat × Request) : List (Nat × Request) :=
  (s.opening.erase x).filter fun y => y.1 = i

/-- An OPEN. -/
def isOpen (y : Nat × Request) : Bool := mType y.2.bytes = 0x01

/-- What waits once the OPEN and the requests behind it have been taken: other sessions' requests, and what the session's next OPEN
holds back. -/
def State.openLeft (s : State) (i : Nat) (x : Nat × Request) : List (Nat × Request) :=
  (s.opening.erase x).filter (fun y => y.1 ≠ i) ++ (s.behindOpen i x).dropWhile fun y => !isOpen y

/-- The session opened. -/
def State.openNow (s : State) (i : Nat) (x : Nat × Request) : State := { s with opening := s.openLeft i x }.openExec i x.2

section
variable {s : State} {i : Nat} {x : Nat × Request}

theorem State.openNext_none (h : s.opening.find? (fun y => y.1 = i) = none) : s.openNext i = s := by
  delta State.openNext
  rw [h]

theorem State.openNext_waits (h : s.opening.find? (fun y => y.1 = i) = some x) (ht : s.hostTurn i x.2.at_ = false) :
    s.openNext i = s := by
  delta State.openNext
  rw [h]
  exact if_pos (by simp [ht])

theorem State.openNext_opens (h : s.opening.find? (fun y => y.1 = i) = some x) (ht : s.hostTurn i x.2.at_ = true) :
    s.openNext i = ((s.behindOpen i x).takeWhile fun y => !isOpen y).foldl (fun t y => t.sessionRequest i y.2) (s.openNow i x) := by
  delta State.openNext
  rw [h]
  exact if_neg (by simp [ht])

theorem State.openNow_sessions (s : State) (i : Nat) (x : Nat × Request) : (s.openNow i x).sessions = AL.put s.sessions i
    { owner := x.2.src, next := (mSeq x.2.bytes + 1) % 2 ^ 32, held := [],
      replies := [(mSeq x.2.bytes, s.replyMsg x.2.bytes 0 0 [])], exec := none, last := s.clock } := by
  delta State.openNow State.openExec
  dsimp only
  rw [State.sendReply_sessions]
  rfl

theorem State.openNow_opening (s : State) (i : Nat) (x : Nat × Request) : (s.openNow i x).opening = s.openLeft i x := by
  delta State.openNow State.openExec
  dsimp only
  rw [State.sendReply_opening]
  rfl

/-- Requests taken one after another leave the session with its owner. -/
theorem sessionRequests_owner {src : NetSrc} : ∀ (l : List (Nat × Request)) (t : State),
    (∃ y, AL.get t.sessions i = some y ∧ y.owner = src) →
      ∃ y, AL.get (l.foldl (fun t y => t.sessionRequest i y.2) t).sessions i = some y ∧ y.owner = src
  | [], _, h => h
  | a :: l, t, ⟨_, h, ho⟩ => by
    obtain ⟨z, hz, hzo⟩ := t.sessionRequest_owner i a.2 h
    exact sessionRequests_owner l _ ⟨z, hz, hzo.trans ho⟩

/-- Of other sessions everything waits on. -/
theorem State.openLeft_others (s : State) {j : Nat} (r : Request) (hj : j = i) :
    (s.openLeft i (j, r)).filter (fun y => y.1 ≠ i) = s.opening.filter fun y => y.1 ≠ i := by
  have hmine : ((s.behindOpen i (j, r)).dropWhile fun y => !isOpen y).filter (fun y => y.1 ≠ i) = [] := by
    rw [List.filter_eq_nil_iff]
    intro y hy
    have hm := (List.dropWhile_sublist _).subset hy
    have := (List.mem_filter.1 hm).2
    simpa using this
  delta State.openLeft
  rw [List.filter_append, hmine, List.append_nil, List.filter_filter, filter_erase_of_false (by simp [hj])]
  exact List.filter_congr fun y _ => Bool.and_self _

/-- With nothing behind the OPEN the rest waits on as it was. -/
theorem State.behindOpen_none (h : ∀ y ∈ s.opening.erase x, y.1 ≠ i) : s.behindOpen i x = [] ∧ s.openLeft i x = s.opening.erase x := by
  have hb : s.behindOpen i x = [] := List.filter_eq_nil_iff.2 fun y hy => by simpa using h y hy
  refine ⟨hb, ?_⟩
  delta State.openLeft
  rw [hb, List.dropWhile_nil, List.append_nil, List.filter_eq_self]
  intro y hy
  simpa using h y hy

end

/-- An OPEN executed in its turn. -/
theorem opensExecute (i : Nat) (s : State) : ∃ t, exec (.openSession i) s = .next t ∧
    (s.opening.find? (fun x => x.1 = i) = none → t = s) ∧
    ∀ j r, s.opening.find? (fun x => x.1 = i) = some (j, r) → (s.hostTurn i r.at_ = false → t = s) ∧
      (s.hostTurn i r.at_ = true →
        (∀ k, k ≠ i → AL.get t.sessions k = AL.get s.sessions k) ∧
        t.opening.filter (fun y => y.1 ≠ i) = s.opening.filter (fun y => y.1 ≠ i) ∧
        (∃ x, AL.get t.sessions i = some x ∧ x.owner = r.src) ∧
        ((∀ y ∈ s.opening.erase (j, r), y.1 ≠ i) → t.opening = s.opening.erase (j, r) ∧ AL.get t.sessions i = some
          { owner := r.src, next := (mSeq r.bytes + 1) % 2 ^ 32, held := [],
            replies := [(mSeq r.bytes, s.replyMsg r.bytes 0 0 [])], exec := none, last := s.clock })) := by
  refine ⟨s.openNext i, rfl, State.openNext_none, fun j r h => ⟨State.openNext_waits h, fun ht => ?_⟩⟩
  have hj : j = i := by simpa using List.find?_some h
  have hopening : (s.openNext i).opening = s.openLeft i (j, r) := by
    rw [State.openNext_opens h ht]
    exact (foldl_of State.opening _ (fun t (y : Nat × Request) => t.sessionRequest_opening i y.2) _ _).trans (s.openNow_opening i (j, r))
  refine ⟨fun k hk => ?_, ?_, ?_, fun hn => ?_⟩
  · rw [State.openNext_opens h ht]
    refine (foldl_of (fun t : State => AL.get t.sessions k) _ (fun t (y : Nat × Request) => t.sessionRequest_other y.2 hk) _ _).trans ?_
    rw [State.openNow_sessions]
    exact AL.get_put_ne _ _ hk
  · rw [hopening]
    exact s.openLeft_others r hj
  · rw [State.openNext_opens h ht]
    exact sessionRequests_owner _ _ ⟨_, by rw [State.openNow_sessions]; exact AL.get_put_self .., rfl⟩
  · obtain ⟨hb, hleft⟩ := State.behindOpen_none hn
    refine ⟨hopening.trans hleft, ?_⟩
    rw [State.openNext_opens h ht, hb, List.takeWhile_nil, List.foldl_nil, State.openNow_sessions]
    exact AL.get_put_self ..

/-! ## A request executed -/

section
variable {s : State} {i : Nat} {x : Session} {e : Exec}

/-- A reply put first is found among those kept. -/
theorem AL.get_put_take {v : List Byte} (l : List (Nat × List Byte)) (q : Nat) : AL.get ((AL.put l q v).take 64) q = some v := by
  simp [AL.put, AL.get]

/-- A request executed, other than a CLOSE, is answered (R390). -/
theorem State.execDone_answered (status count : Nat) (body : List Byte) (h : mType e.req.bytes ≠ 0x02 ∨ status ≠ 0) :
    requestAnswered (s.execDone i x e status count body) i x e.req.bytes (s.replyMsg e.req.bytes status count body) := by
  delta requestAnswered State.execDone
  dsimp only
  rw [if_neg (by rcases h with h | h <;> simp [h])]
  split
  · split
    · rw [State.bump_sessions]
      exact ⟨_, AL.get_put_self .., rfl, rfl, AL.get_put_take ..⟩
    · exact ⟨_, AL.get_put_self .., rfl, rfl, AL.get_put_take ..⟩
  · exact ⟨_, AL.get_put_self .., rfl, rfl, AL.get_put_take ..⟩

/-- A CLOSE frees its session (R389). -/
theorem State.execDone_closed (count : Nat) (body : List Byte) (h : mType e.req.bytes = 0x02) :
    (s.execDone i x e 0 count body).sessions = AL.del s.sessions i := by
  delta State.execDone
  dsimp only
  rw [if_pos (by simp [h])]
  exact congrArg (AL.del · i) (State.sendReply_sessions ..)

theorem State.execDone_streams (s : State) (i : Nat) (x : Session) (e : Exec) (status count : Nat) (body : List Byte) :
    (s.execDone i x e status count body).streams = s.streams :=
  (State.execDone_parts (M := (· ≠ .streams)) (parts_refl s) i x e status count body (by decide) (by decide) (by decide) (by decide)
    (by decide) (by decide) (by decide)).same_of (p := .streams) (by simp)

theorem State.rd_execDone_host {y : Reg} {j : Nat} (hx : 0x100 ≤ y.off) (hl : y.off + y.stride * j ≠ 0x158)
    (hd : y.off + y.stride * j ≠ 0x19C) (s : State) (i : Nat) (x : Session) (e : Exec) (status count : Nat) (body : List Byte) :
    (s.execDone i x e status count body).rd pgHost y j = s.rd pgHost y j := by
  have hreply := State.rd_sendReply_host hx hl s e.req.src e.req.bytes (s.replyMsg e.req.bytes status count body)
  delta State.execDone
  dsimp only
  split
  · exact (State.rd_of_eq rfl rfl rfl ..).trans hreply
  · split
    · split
      · exact (State.rd_bumpi_same _ 1 (.inl hd) hx (by decide) (by decide)).trans ((State.rd_of_eq rfl rfl rfl ..).trans hreply)
      · exact (State.rd_of_eq rfl rfl rfl ..).trans hreply
    · exact (State.rd_of_eq rfl rfl rfl ..).trans hreply

end

/-! ## Items and pieces (R388) -/

/-- The request that is executed stays. -/
theorem execItems_req (n : Nat) : ∀ (fuel : Nat) (s : State) (e : Exec), (execItems n fuel s e).2.req = e.req
  | 0, _, _ => rfl
  | fuel + 1, s, e => by
    unfold execItems
    split
    · rfl
    · dsimp only
      split
      · rfl
      · exact execItems_req n fuel _ _

theorem execPieces_req (addr len : Nat) : ∀ (fuel : Nat) (s : State) (e : Exec), (execPieces addr len fuel s e).2.req = e.req
  | 0, _, _ => rfl
  | fuel + 1, s, e => by
    unfold execPieces
    split
    · rfl
    · dsimp only
      split
      · rfl
      · split
        · rfl
        · exact execPieces_req addr len fuel _ _

theorem State.requestRun_req (s : State) (type : Nat) (e : Exec) : (s.requestRun type e).2.req = e.req := by
  unfold State.requestRun
  split
  · exact execItems_req ..
  · exact execPieces_req ..

/-- A row of REG_RD, REG_WR, BULK_RD or BULK_WR executes its request as far as it goes. -/
def State.requestStep (s : State) (type i : Nat) (x : Session) (e : Exec) : State :=
  if type = 0x10 ∨ type = 0x11 then s.runItems i x e else s.runPieces i x e

section
variable {s u : State} {type i : Nat} {x : Session} {e f : Exec} (hrun : s.requestRun type e = (u, f))
include hrun

/-- A request executed to its end, or stopped at a failing piece, is answered. -/
theorem State.requestStep_ends (hm : mType e.req.bytes ≠ 0x02)
    (h : requestLen type e.req.bytes ≤ f.item ∨ ¬(type = 0x10 ∨ type = 0x11) ∧ f.bad ≠ 0) :
    requestAnswered (s.requestStep type i x e) i x e.req.bytes (u.requestReply type f) := by
  have hreq : f.req = e.req := by rw [← s.requestRun_req type e, hrun]
  unfold State.requestRun at hrun
  unfold requestLen at h
  delta State.requestStep State.requestReply
  by_cases ht : type = 0x10 ∨ type = 0x11
  · rw [if_pos ht] at hrun h
    rw [if_pos ht, if_pos ht]
    delta State.runItems
    dsimp only
    rw [hrun, if_pos (h.resolve_right fun h' => h'.1 ht), ← hreq]
    exact State.execDone_answered _ _ _ (.inl (hreq ▸ hm))
  · rw [if_neg ht] at hrun h
    rw [if_neg ht, if_neg ht]
    delta State.runPieces
    dsimp only
    rw [hrun, if_pos (by rcases h with h | h <;> simp [h]), ← hreq]
    exact State.execDone_answered _ _ _ (.inl (hreq ▸ hm))

/-- Another waits for a reply. -/
theorem State.requestStep_waits (h : f.item < requestLen type e.req.bytes) (hb : type = 0x10 ∨ type = 0x11 ∨ f.bad = 0) :
    s.requestStep type i x e = u.setSession i { x with exec := some f } := by
  unfold State.requestRun at hrun
  unfold requestLen at h
  delta State.requestStep
  by_cases ht : type = 0x10 ∨ type = 0x11
  · rw [if_pos ht] at hrun h
    rw [if_pos ht]
    delta State.runItems
    dsimp only
    rw [hrun]
    exact if_neg (Nat.not_le.2 h)
  · rw [if_neg ht] at hrun h
    have hbad : f.bad = 0 := by
      rcases hb with h' | h' | h'
      · exact absurd (.inl h') ht
      · exact absurd (.inr h') ht
      · exact h'
    rw [if_neg ht]
    delta State.runPieces
    dsimp only
    rw [hrun, if_neg (by simp [hbad, h])]

end

end Sys2Proof.Machine
end

section
/-! Sessions' commands and the statement on sessions (R388–R391). -/

namespace Sys2Proof.Machine

open Sys2Proof

/-! ## STREAM_OPEN (R391) -/

/-- The stream and its direction in a good STREAM_OPEN. -/
theorem mBodyBad_streamOpen {m : List Byte} (ht : mType m = 0x30) (h : mBodyBad m = false) :
    leAt (mBody m) 0 1 < 2 ∧ leAt (mBody m) 1 1 < 2 := by
  unfold mBodyBad at h
  rw [ht] at h
  simp only [Bool.or_eq_false_iff, decide_eq_false_iff_not, Nat.not_le] at h
  obtain ⟨⟨⟨⟨⟨⟨⟨-, hstream⟩, hdir⟩, -⟩, -⟩, -⟩, -⟩, -⟩ := h
  exact ⟨hstream, hdir⟩

/-- The stream that a STREAM_OPEN starts. -/
def State.newStream (s : State) (e : Exec) : Stream :=
  { dir := leAt (mBody e.req.bytes) 1 1, virt := bit (leAt (mBody e.req.bytes) 2 1) 0, peer := e.req.src,
    dport := leAt (mBody e.req.bytes) 4 2, addr := leAt (mBody e.req.bytes) 8 8, len := leAt (mBody e.req.bytes) 16 8, pos := 0,
    acked := 0, part := [], tags := [], frames := 0, count := 0, since := if s.rdb pgHost Mac.LINK_UP then s.clock else 0 }

/-- The state with that stream shown. -/
def State.streamBegun (s : State) (j : Nat) (e : Exec) : State :=
  (s.setStream j (s.newStream e)).wri pgHost Mac.STRM_STATE j (leAt (mBody e.req.bytes) 1 1 + 1)

section
variable {s : State} {i j : Nat} {x : Session} {e : Exec}

theorem State.streamOpen_busy (hj : j = leAt (mBody e.req.bytes) 0 1)
    (h : s.rd pgHost Mac.STRM_STATE j = 1 ∨ s.rd pgHost Mac.STRM_STATE j = 2) : s.streamOpen i x e = s.execDone i x e 6 0 [] := by
  subst hj
  exact if_pos (by simpa using h)

theorem State.streamOpen_starts (hj : j = leAt (mBody e.req.bytes) 0 1) (h1 : s.rd pgHost Mac.STRM_STATE j ≠ 1)
    (h2 : s.rd pgHost Mac.STRM_STATE j ≠ 2) :
    s.streamOpen i x e = ((s.streamBegun j e).execDone i x e 0 0 []).streamStep j := by
  subst hj
  exact if_neg (by simp [h1, h2])

theorem State.streamBegun_streams (s : State) (j : Nat) (e : Exec) :
    (s.streamBegun j e).streams = AL.put s.streams j (s.newStream e) := by
  delta State.streamBegun State.setStream
  rw [State.wri_streams, State.wr2_streams]

theorem State.streamBegun_now (s : State) (j : Nat) (e : Exec) : (s.streamBegun j e).now = s.now := by
  delta State.streamBegun State.setStream State.now
  rw [State.wri_belfry, State.wr2_belfry]

/-- A reply shows of its state only the tick. -/
theorem replyMsg_of_now {s t : State} (h : t.now = s.now) (m : List Byte) (st n : Nat) (body : List Byte) :
    t.replyMsg m st n body = s.replyMsg m st n body := by
  unfold State.replyMsg
  rw [h]

end

section
variable {t : State} {j : Nat} {z : Stream}

theorem State.setStream_get (t : State) (j : Nat) (z : Stream) : AL.get (t.setStream j z).streams j = some z := by
  delta State.setStream
  rw [State.wr2_streams]
  exact AL.get_put_self ..

theorem State.inject_streams (u : State) (f : Flit) : (u.inject .host f).streams = u.streams :=
  (State.inject_parts (M := (· ≠ .streams)) (parts_refl u) .host f (by decide) (by decide) (by decide) (by decide) (by decide)
    (by decide) (by decide) (by decide) (by decide) (by decide)).same_of (p := .streams) (by simp)

theorem State.streamAsk_get (t : State) (j : Nat) (z : Stream) (opcode off n : Nat) (data : List Byte) :
    AL.get (t.streamAsk j z opcode off n data).streams j =
      some { z with count := z.count + 1, tags := [(2048 * j + z.count % 2048, off + n)] } :=
  (congrArg (AL.get · j) (State.inject_streams ..)).trans (State.setStream_get ..)

/-- A stream's next read, or its wait, leaves its direction, length, peer and ACKED. -/
theorem State.outRest_get (s t : State) (j : Nat) (z : Stream) : ∃ y, AL.get (s.outRest t j z).streams j = some y ∧
    y.dir = z.dir ∧ y.len = z.len ∧ y.peer = z.peer ∧ y.acked = z.acked := by
  delta State.outRest
  split
  · exact ⟨_, State.streamAsk_get .., rfl, rfl, rfl, rfl⟩
  · exact ⟨z, State.setStream_get .., rfl, rfl, rfl, rfl⟩

/-- The first step of a stream with bytes to move: it is not at its end, and no frame of it is full. -/
theorem State.streamStep_first (hj : j < 2) (h : AL.get t.streams j = some z) (hl : 0 < z.len) (ha : z.acked = 0) (hp : z.part = []) :
    (t.streamStep j).rd pgHost Mac.STRM_STATE j = t.rd pgHost Mac.STRM_STATE j ∧
      ∃ y, AL.get (t.streamStep j).streams j = some y ∧ y.dir = z.dir ∧ y.len = z.len ∧ y.peer = z.peer ∧ y.acked = 0 := by
  have hend : z.acked ≠ z.len := by omega
  have hx : 0x100 ≤ Mac.STRM_STATE.off := by decide
  have hl' : Mac.STRM_STATE.off + Mac.STRM_STATE.stride * j ≠ 0x158 := by simp only [Mac.STRM_STATE]; omega
  have hlo : Mac.STRM_STATE.off + Mac.STRM_STATE.stride * j ≠ 0x170 + 8 * j := by simp only [Mac.STRM_STATE]; omega
  have hhi : Mac.STRM_STATE.off + Mac.STRM_STATE.stride * j ≠ 0x174 + 8 * j := by simp only [Mac.STRM_STATE]; omega
  rw [← ha]
  delta State.streamStep
  rw [h]
  dsimp only
  split
  · refine ⟨State.rd_outStep_host hx hl' hlo hhi t z, ?_⟩
    cases hup : t.rdb pgHost Mac.LINK_UP with
    | false =>
      rw [State.outStep_down hup]
      exact ⟨z, State.setStream_get .., rfl, rfl, rfl, rfl⟩
    | true =>
      rw [State.outStep_up hup, if_neg (by simp [hp])]
      exact State.outRest_get ..
  · have hin : t.inStep j z = t.setStream j z := by
      delta State.inStep
      rw [if_neg hend, if_pos (by simp [hp])]
    rw [hin]
    exact ⟨State.rd_setStream_host hx hlo hhi t z, z, State.setStream_get .., rfl, rfl, rfl, rfl⟩

end

/-- A STREAM_OPEN executed: BUSY while its stream is active, else the stream starts. -/
theorem State.streamOpen_effect (s : State) (i j : Nat) (x : Session) {e : Exec} (ht : mType e.req.bytes = 0x30)
    (hb : mBodyBad e.req.bytes = false) (hj : j = leAt (mBody e.req.bytes) 0 1) :
    (s.rd pgHost Mac.STRM_STATE j = 1 ∨ s.rd pgHost Mac.STRM_STATE j = 2 →
      requestAnswered (s.streamOpen i x e) i x e.req.bytes (s.replyMsg e.req.bytes 6 0 []) ∧
        (s.streamOpen i x e).streams = s.streams) ∧
    (s.rd pgHost Mac.STRM_STATE j ≠ 1 → s.rd pgHost Mac.STRM_STATE j ≠ 2 →
      requestAnswered (s.streamOpen i x e) i x e.req.bytes (s.replyMsg e.req.bytes 0 0 []) ∧
      (0 < leAt (mBody e.req.bytes) 16 8 →
        (s.streamOpen i x e).rd pgHost Mac.STRM_STATE j = leAt (mBody e.req.bytes) 1 1 + 1 ∧
        ∃ z, AL.get (s.streamOpen i x e).streams j = some z ∧ z.dir = leAt (mBody e.req.bytes) 1 1 ∧
          z.len = leAt (mBody e.req.bytes) 16 8 ∧ z.peer = e.req.src ∧ z.acked = 0)) := by
  obtain ⟨hj2, hdir⟩ := mBodyBad_streamOpen ht hb
  have hnc : mType e.req.bytes ≠ 0x02 := by simp [ht]
  refine ⟨fun hbusy => ?_, fun h1 h2 => ⟨?_, fun hlen => ?_⟩⟩
  · rw [State.streamOpen_busy hj hbusy]
    exact ⟨State.execDone_answered 6 0 [] (.inl hnc), State.execDone_streams ..⟩
  · have hans := State.execDone_answered (s := s.streamBegun j e) (i := i) (x := x) 0 0 [] (.inl hnc)
    have hsess : (((s.streamBegun j e).execDone i x e 0 0 []).streamStep j).sessions =
        ((s.streamBegun j e).execDone i x e 0 0 []).sessions :=
      (State.streamStep_only _ j).same_of (p := .sessions) (by simp [streamed_iff, mailed_iff])
    rw [replyMsg_of_now (s.streamBegun_now j e)] at hans
    rw [State.streamOpen_starts hj h1 h2]
    unfold requestAnswered at hans ⊢
    rwa [hsess]
  · have hget : AL.get ((s.streamBegun j e).execDone i x e 0 0 []).streams j = some (s.newStream e) := by
      rw [State.execDone_streams, State.streamBegun_streams]
      exact AL.get_put_self ..
    have hjlt : j < 2 := hj ▸ hj2
    obtain ⟨hstate, y, hy, hrest⟩ := State.streamStep_first hjlt hget hlen rfl rfl
    rw [State.streamOpen_starts hj h1 h2]
    refine ⟨hstate.trans ?_, y, hy, hrest⟩
    refine (State.rd_execDone_host (by decide) ?_ ?_ ..).trans ?_
    · simp only [Mac.STRM_STATE]
      omega
    · simp only [Mac.STRM_STATE]
      omega
    · refine (State.rd_wri_own _ _ (by decide) (by decide)).trans (Nat.mod_eq_of_lt ?_)
      simp only [Mac.STRM_STATE]
      omega

/-! ## A session's command -/

/-- What a session's command does with a good request of its type, in its turn. -/
def State.sessionAct (s : State) (type i : Nat) (x : Session) (e : Exec) : State :=
  if type = 0x02 then s.execDone i x e 0 0 [] else if type = 0x30 then s.streamOpen i x e else s.requestStep type i x e

theorem exec_sessionCommand {type : Nat} (h : type ∈ [0x02, 0x10, 0x11, 0x20, 0x21, 0x30]) (i : Nat) (s : State) :
    exec (sessionCommand type i) s = .next (s.sessionRow i type fun t x e => t.sessionAct type i x e) := by
  simp only [List.mem_cons, List.not_mem_nil, or_false] at h
  rcases h with rfl | rfl | rfl | rfl | rfl | rfl
  · rfl
  · rfl
  · rfl
  · rfl
  · rfl
  · rfl

section
variable {s : State} {i type : Nat} {f : State → Session → Exec → State} {x : Session} {e : Exec}

theorem State.sessionRow_closed (h : AL.get s.sessions i = none) : s.sessionRow i type f = s := by
  delta State.sessionRow
  rw [h]

theorem State.sessionRow_idle (h : AL.get s.sessions i = some x) (hx : x.exec = none) : s.sessionRow i type f = s := by
  delta State.sessionRow
  rw [h]
  dsimp only
  rw [hx]

section
variable (h : AL.get s.sessions i = some x) (hx : x.exec = some e)
include h hx

theorem State.sessionRow_exec : s.sessionRow i type f =
    if mType e.req.bytes ≠ type || !(e.begun || s.hostTurn i e.req.at_) then s
    else if mHeadBad e.req.bytes || mBodyBad e.req.bytes then s.execDone i x e 1 0 []
    else f s x e := by
  delta State.sessionRow
  rw [h]
  dsimp only
  rw [hx]

theorem State.sessionRow_waits (hw : mType e.req.bytes ≠ type ∨ e.begun = false ∧ s.hostTurn i e.req.at_ = false) :
    s.sessionRow i type f = s := by
  rw [State.sessionRow_exec h hx]
  exact if_pos (by rcases hw with hw | ⟨h1, h2⟩ <;> simp_all)

section
variable (ht : mType e.req.bytes = type) (hturn : e.begun = true ∨ s.hostTurn i e.req.at_ = true)
include ht hturn

theorem State.sessionRow_bad (hb : mHeadBad e.req.bytes = true ∨ mBodyBad e.req.bytes = true) :
    s.sessionRow i type f = s.execDone i x e 1 0 [] := by
  rw [State.sessionRow_exec h hx, if_neg (by rcases hturn with h' | h' <;> simp [ht, h']), if_pos (by simpa using hb)]

theorem State.sessionRow_good (h1 : mHeadBad e.req.bytes = false) (h2 : mBodyBad e.req.bytes = false) :
    s.sessionRow i type f = f s x e := by
  rw [State.sessionRow_exec h hx, if_neg (by rcases hturn with h' | h' <;> simp [ht, h']), if_neg (by simp [h1, h2])]

end
end
end

/-- A session's command, by the request that the session executes, by its turn and by its fields. -/
theorem requestsExecute (type i : Nat) (s : State) (hty : type ∈ [0x02, 0x10, 0x11, 0x20, 0x21, 0x30]) :
    (AL.get s.sessions i = none → exec (sessionCommand type i) s = .next s) ∧
    ∀ x, AL.get s.sessions i = some x → (x.exec = none → exec (sessionCommand type i) s = .next s) ∧
      ∀ e, x.exec = some e →
        (mType e.req.bytes ≠ type ∨ e.begun = false ∧ s.hostTurn i e.req.at_ = false →
          exec (sessionCommand type i) s = .next s) ∧
        (mType e.req.bytes = type → e.begun = true ∨ s.hostTurn i e.req.at_ = true → ∃ t, exec (sessionCommand type i) s = .next t ∧
          (mHeadBad e.req.bytes = true ∨ mBodyBad e.req.bytes = true →
            requestAnswered t i x e.req.bytes (s.replyMsg e.req.bytes 1 0 [])) ∧
          (mHeadBad e.req.bytes = false → mBodyBad e.req.bytes = false →
            (type = 0x02 → AL.get t.sessions i = none ∧ ∀ k, k ≠ i → AL.get t.sessions k = AL.get s.sessions k) ∧
            (type ≠ 0x02 → type ≠ 0x30 → ∀ u f, s.requestRun type e = (u, f) →
              (requestLen type e.req.bytes ≤ f.item ∨ 0x20 ≤ type ∧ f.bad ≠ 0 →
                requestAnswered t i x e.req.bytes (u.requestReply type f)) ∧
              (f.item < requestLen type e.req.bytes → type < 0x20 ∨ f.bad = 0 →
                t = u.setSession i { x with exec := some f })) ∧
            (∀ j, type = 0x30 → j = leAt (mBody e.req.bytes) 0 1 →
              (s.rd pgHost Mac.STRM_STATE j = 1 ∨ s.rd pgHost Mac.STRM_STATE j = 2 →
                requestAnswered t i x e.req.bytes (s.replyMsg e.req.bytes 6 0 []) ∧ t.streams = s.streams) ∧
              (s.rd pgHost Mac.STRM_STATE j ≠ 1 → s.rd pgHost Mac.STRM_STATE j ≠ 2 →
                requestAnswered t i x e.req.bytes (s.replyMsg e.req.bytes 0 0 []) ∧
                (0 < leAt (mBody e.req.bytes) 16 8 →
                  t.rd pgHost Mac.STRM_STATE j = leAt (mBody e.req.bytes) 1 1 + 1 ∧ ∃ z, AL.get t.streams j = some z ∧
                    z.dir = leAt (mBody e.req.bytes) 1 1 ∧ z.len = leAt (mBody e.req.bytes) 16 8 ∧
                    z.peer = e.req.src ∧ z.acked = 0))))) := by
  rw [exec_sessionCommand hty]
  refine ⟨fun h => by rw [State.sessionRow_closed h], fun x h => ⟨fun hx => by rw [State.sessionRow_idle h hx], fun e hx =>
    ⟨fun hw => by rw [State.sessionRow_waits h hx hw], fun ht hturn => ⟨_, rfl, fun hb => ?_, fun h1 h2 => ?_⟩⟩⟩⟩
  · rw [State.sessionRow_bad h hx ht hturn hb]
    exact State.execDone_answered 1 0 [] (.inr (by decide))
  · rw [State.sessionRow_good h hx ht hturn h1 h2]
    unfold State.sessionAct
    refine ⟨fun hc => ?_, fun hc ho u f hrun => ?_, fun j ho hj => ?_⟩
    · rw [if_pos hc, State.execDone_closed 0 [] (ht.trans hc)]
      exact ⟨AL.get_del_self .., fun k hk => AL.get_del_ne hk _⟩
    · rw [if_neg hc, if_neg ho]
      have hkinds : (type = 0x10 ∨ type = 0x11) ∧ type < 0x20 ∨ ¬ (type = 0x10 ∨ type = 0x11) ∧ 0x20 ≤ type := by
        simp only [List.mem_cons, List.not_mem_nil, or_false] at hty
        omega
      refine ⟨fun hend => State.requestStep_ends hrun (ht ▸ hc) (hend.imp_right fun hf => ⟨fun hi => by omega, hf.2⟩),
        fun hlt hmore => State.requestStep_waits hrun hlt ?_⟩
      rcases hmore with hmore | hmore
      · exact (hkinds.resolve_right fun hk => by omega).1.imp_right .inl
      · exact .inr (.inr hmore)
    · subst ho
      rw [if_neg (by decide), if_pos rfl]
      exact s.streamOpen_effect i j x ht h2 hj

/-! ## Timeouts (R389, R390) -/

theorem sessionsTimeOut (i : Nat) (s : State) : ∃ t, exec (.sessionTimeout i) s = .next t ∧ t = { s with sessions := t.sessions } ∧
    (AL.get s.sessions i = none → t = s) ∧
    ∀ x, AL.get s.sessions i = some x →
      (x.exec ≠ none ∨ s.rdb pgHost Mac.LINK_UP 0 = false ∨
        s.clock < x.last + 1100000 * s.rd pgHost Mac.SESS_TMO 0 → t = s) ∧
      (x.exec = none → s.rdb pgHost Mac.LINK_UP 0 = true → x.last + 1100000 * s.rd pgHost Mac.SESS_TMO 0 ≤ s.clock →
        AL.get t.sessions i = none) := by
  refine ⟨s.sessionTimeout i, rfl, ?_⟩
  unfold State.sessionTimeout
  cases h : AL.get s.sessions i with
  | none => exact ⟨rfl, fun _ => rfl, nofun⟩
  | some y =>
    dsimp only
    refine ⟨?_, nofun, fun x hx => ?_⟩
    · split
      · rfl
      · rfl
    · obtain rfl : y = x := by injection hx
      refine ⟨fun hn => if_neg fun hc => ?_, fun he hl hd => ?_⟩
      · simp only [Bool.and_eq_true, Option.isNone_iff_eq_none, decide_eq_true_eq] at hc
        obtain ⟨⟨he, hl⟩, hd⟩ := hc
        rcases hn with hn | hn | hn
        · exact hn he
        · exact Bool.false_ne_true (hn.symm.trans hl)
        · omega
      · rw [if_pos (by simp [he, hl, hd])]
        exact AL.get_del_self ..

theorem heldRequestsTimeOut (i q : Nat) (s : State) : ∃ t, exec (.holdTimeout i q) s = .next t ∧ (AL.get s.sessions i = none → t = s) ∧
    ∀ x, AL.get s.sessions i = some x → (AL.get x.held q = none → t = s) ∧
      ∀ r, AL.get x.held q = some r → (s.holdDue r = false → t = s) ∧
        (s.holdDue r = true → AL.get t.sessions i = some { x with held := AL.del x.held q } ∧
          counted s t pgHost Mac.HOLD_DROP 1) := by
  refine ⟨s.holdTimeout i q, rfl, fun h => ?_, fun x h => ⟨fun hq => ?_, fun r hr => ⟨fun hd => ?_, fun hd => ?_⟩⟩⟩
  · delta State.holdTimeout
    rw [h]
  · delta State.holdTimeout
    rw [h]
    dsimp only
    rw [hq]
  · delta State.holdTimeout
    rw [h]
    dsimp only
    rw [hr]
    exact if_neg (by simp [hd])
  · delta State.holdTimeout
    rw [h]
    dsimp only
    rw [hr]
    dsimp only
    rw [if_pos hd, State.bump_sessions]
    exact ⟨AL.get_put_self .., State.rd_bumpi_own _ 1 (by decide) (by decide) rfl⟩

/-- Settles O51: datagrams, OPENs, the requests of sessions and their timeouts. -/
theorem sessionsExecuteInOrder : Obligations.SessionsExecuteInOrder :=
  ⟨datagramsAreTaken, opensExecute, requestsExecute, sessionsTimeOut, heldRequestsTimeOut⟩

end Sys2Proof.Machine
end

section
/-! Where the statement on streams fails: a resend that raises an event of its own (R138, R395). -/

namespace Sys2Proof.Machine

open Sys2Proof

/-- A stored event, sent at clock 0. -/
def staleEvent : Event := { num := 0, code := 0x21, unit := 0, tick := 0, detail := [], sent := 0 }

/-- One event waits for its acknowledgement past EVT_RTO while the strict queue it leaves by has no cells, and EG_DROP's error
bit of Keep 3 is enabled. -/
def resendDropped : State :=
  { State.reset with
    clock := 2 ^ 40
    regs := [(rkey pgHost Mac.LINK_UP 0, 1), (rkey pgHost Mac.EVT_EN 0, 1), (rkey (pgKeep 3) Hst.S_QCAP 2, 0),
      (rkey (pgKeep 3) Hdr.PG_ERR_EN 0, 2 ^ 22)]
    events := { State.reset.events with items := [staleEvent] } }

set_option maxRecDepth 4000 in
/-- The event is due to be sent again; the dropped frame raises PG_ERR, whose event is stored too. -/
theorem resendDropped_after : State.eventsOn resendDropped = true ∧
    Event.sent staleEvent + 1100 * State.rd resendDropped pgHost Mac.EVT_RTO 0 ≤ State.clock resendDropped ∧
    (State.evtRto resendDropped).events.items.length = 2 := by with_unfolding_all decide

/-- Refutes O52: the resend of an event finds its strict queue full, and the PG_ERR event of that drop is stored behind it, so
the store is not the one that was sent again. -/
theorem not_streamsAndEventsAreAcknowledged : ¬ Obligations.StreamsAndEventsAreAcknowledged := by
  rintro ⟨-, -, -, -, -, hrto, -⟩
  obtain ⟨t, ht, -, hsent⟩ := hrto resendDropped
  obtain rfl : State.evtRto resendDropped = t := by injection ht
  obtain ⟨hon, hdue, htwo⟩ := resendDropped_after
  obtain ⟨hevents, -⟩ := (hsent staleEvent [] rfl).2 hon hdue
  have hone : (State.evtRto resendDropped).events.items.length = 1 := by
    rw [hevents]
    rfl
  exact absurd (htwo.symm.trans hone) (by decide)

end Sys2Proof.Machine
end
